-- ==== Sys2Proof/Word.lean ====
section
/-!
DEFINITION. The words of the YLT1680: registers are 32 bits wide (R11), the ledger counts are 64 bits (R13),
a tick number is 48 bits (R30, "The tick"), and host memory is addressed in bytes with 64-bit addresses (R787).
-/

namespace Sys2Proof

/-- One byte of a host-memory structure. -/
abbrev Byte := BitVec 8
/-- A half word: queue counts are u16 (R415). -/
abbrev Half := BitVec 16
/-- A register word (R11). -/
abbrev Word := BitVec 32
/-- A 64-bit count of the ledger, or a host address (R13, R787). -/
abbrev Long := BitVec 64
/-- A 48-bit tick number ("The tick", R66). -/
abbrev Tick := BitVec 48
/-- A SHA-384 digest (R719, R726). -/
abbrev Digest := BitVec 384

end Sys2Proof
end

