-- ==== Sys2Proof/Syntax.lean ====
section
/-!
DEFINITION. The commands of the block: one constructor of `Instr` per row of spec/opcode_table.json, in the table's
order, with the row's operands. An operand is what comes from outside the device with that step (a sample, a pin
level, a frame, a descriptor, a register word) or names the channel, quad, queue or position it concerns.
-/

namespace Sys2Proof

/-- A cell channel CH0–CH15. -/
abbrev Ch := Fin 16
/-- A quad 0–3 (R2, "quad" level). -/
abbrev Quad := Fin 4
/-- A ring position 0–31. -/
abbrev Pos := Fin 32
/-- A spare converter, IBX0 or IBX1. -/
abbrev SpareId := Fin 2
/-- A comparator index 0–71 (R687). -/
abbrev CmpId := Fin 72
/-- A fault source 0–127 (R669). -/
abbrev Src := Fin 128
/-- A submission queue: 0–15 CQ, 16 MQ, 17 AQ. -/
abbrev QId := Fin 18

/-- Ring A or ring B (R475). -/
inductive RingId where
  | a | b
  deriving DecidableEq, Repr

/-- The host path of a register access, in the codes of `SYS_WERR.PATH` (R760). -/
inductive Path where
  | bar0 | bar1 | regWrite
  deriving DecidableEq, Repr

/-- The supplies whose loss is a brown-out (R107, R120, R124). -/
inductive Rail where
  | vdd | vdda | vaa | vio | vddphy | vin
  deriving DecidableEq, Repr

/-- The block that a BLOCK reset acts on, with the selectors of R444. -/
inductive Blk where
  | quad (q : Quad) | mot | ring
  deriving DecidableEq, Repr

/-- What an admin command carries besides its arguments: the position of its descriptor and its TAG (R443). -/
structure AdmHdr where
  idx : Half
  tag : Half
  deriving DecidableEq, Repr

/-- One end-condition entry of a step descriptor (R438). -/
structure EndCond where
  code   : Byte
  action : Byte
  param  : Half
  thr    : Word
  deriving DecidableEq, Repr

/-- A step descriptor (R435). `rsv` holds the reserved bits [3] and [7] of byte 1 and [7:5] of byte 2. -/
structure StepDesc where
  op       : Byte
  prof     : BitVec 3
  mrange   : BitVec 3
  cls      : BitVec 2
  isoOpen  : Bool
  restEval : Bool
  vmode    : Bool
  rsv      : BitVec 5
  toAct    : Byte
  tSs      : Half
  p16      : Half
  qConf    : Word
  slew     : Word
  timeout  : Word
  x0       : Word
  x1       : Word
  x2       : Word
  ec0      : EndCond
  ec1      : EndCond
  ec2      : EndCond
  ec3      : EndCond
  deriving DecidableEq, Repr

/-- A motion descriptor (R441). `rsv` is 1 when a reserved byte is not 0. -/
structure MotionDesc where
  op      : Byte
  rsv     : Bool
  tag     : Half
  timeout : Word
  pos     : Long
  vmax    : Word
  amax    : Word
  force   : Word
  ftol    : Word
  dwell   : Word
  deriving DecidableEq, Repr

/-- One image entry of a manifest (R719). `hash` is the SHA-384 the security engine forms of the image bytes it read,
and `body` the bytes of an image of the types 0x04–0x08, whose content the device interprets. -/
structure ImgEntry where
  type   : Byte
  rsvOk  : Bool
  offset : Word
  length : Word
  digest : Digest
  hash   : Digest
  body   : List Byte
  deriving DecidableEq, Repr

/-- A manifest as the security engine read it (R718). `rsaHash` and `slhHash` are the SHA-384 it forms of the two
public keys, `manHash` the one of bytes 0–723, `rsaOk` and `slhOk` the outcome of the two signature checks of R722. -/
structure Manifest where
  magic   : Word
  version : Half
  auth    : Byte
  svn     : Byte
  flags   : Byte
  nimg    : Byte
  rsvOk   : Bool
  build   : Word
  uid     : Long
  total   : Word
  entries : List ImgEntry
  rsaExp  : Word
  rsaHash : Digest
  slhHash : Digest
  manHash : Digest
  rsaOk   : Bool
  slhOk   : Bool
  deriving DecidableEq, Repr

/-- What INTERNAL_RESET_RELEASE samples: the straps (R709), whether a crystal is fitted (R60, R61), and the sources
that fail the rail check of R672. -/
structure StrapIn where
  role     : BitVec 2
  bootsel  : BitVec 2
  xtal     : Bool
  railFail : List Src
  deriving DecidableEq, Repr

/-- What the BOOT sequence found: the self-tests, the manifests of the two flash slots (R713), and whether the loaded
images still hash to their digests (R711). -/
structure BootIn where
  selfTest : Bool
  slotA    : Option Manifest
  slotB    : Option Manifest
  rehashOk : Bool
  deriving DecidableEq, Repr

/-- What the measurement matrix delivers for one channel at the end of a tick: the bit sum of the current source, the
bit sum of the voltage source (R302, R375), and the sinc3 result of the voltage source over three ticks in nV, before
its constants (R278) and the correction of R279 (R303). -/
structure ChTick where
  bits  : Int
  vBits : Int
  vSinc : Int
  deriving DecidableEq, Repr

/-- What the receiver of a ring input saw in a tick (R482, R532, R536, R537, R549): symbol lock at its end, losses of lock
that RING_INPUT_DOWN has not reported, code and disparity violations, a signal above the loss-of-signal level, and splices
of other devices. -/
structure LineIn where
  lock    : Bool
  lost    : Nat
  code    : Nat
  signal  : Bool
  splices : Nat
  deriving DecidableEq, Repr

/-- Why RING_INPUT_DOWN arises (R532, R537): symbol lock lost for 1 µs, no valid Pennants, code violations, or a signal
without symbol lock for 1 ms. -/
inductive DownWhy where
  | lock | pennant | code | span
  deriving DecidableEq, Repr

/-- What a tick boundary latches: the sixteen channels, per spare the bit sum of the converter that its source is
compared with (R292), the latest VB SAR result in µV (R212), the bit sum of the precision VB converter (R278, R328), the
sinc3 result of the force converter before its constants (R592), whether the self-test of the converters has passed
in BOOT (R270), and what the two ring inputs saw. -/
structure TickIn where
  ch     : List ChTick
  sp     : Vector Int 2
  vbSar  : Int
  vbBits : Int
  force  : Int
  tested : Bool
  line   : Vector LineIn 2
  deriving DecidableEq, Repr

/-- What SAF reads in a safety cycle: the filtered inputs in the order of PDU byte 5 (R659), the driver levels of
R624, and the channels whose read-port result was invalid (R626, SF3). -/
structure SafIn where
  pins    : Byte
  gates   : BitVec 16
  motGate : Bool
  iso     : BitVec 16
  kA      : Bool
  kB      : Bool
  ntcBad  : BitVec 16
  deriving DecidableEq, Repr

/-- The output region of SAF (R648). -/
inductive SafOut where
  | kdr | safeReq | threshold | pdu | mailbox
  deriving DecidableEq, Repr

/-- What a data-bus transaction of SAF is (R647 to R649). -/
inductive SafAcc where
  | load | store | input | output (o : SafOut)
  deriving DecidableEq, Repr

/-- A data-bus transaction as a pass makes it, address and data in the lanes of the 40-bit datapath (R644, R647). An input
read has its input number in `num` and the value read in `data` (R649); a load has no data. -/
structure SafTx where
  acc  : SafAcc
  addr : BitVec 40
  be   : BitVec 4
  attr : Byte
  num  : Byte
  data : BitVec 40
  deriving DecidableEq, Repr

/-- A write of `spend` (R652): the value, the data-bus transactions of the pass since its start or since the write before,
in order, and the signature of its instruction-fetch addresses (R647). -/
structure SpendIn where
  value : Word
  tx    : List SafTx
  sig   : Word
  deriving DecidableEq, Repr

/-- A crossing of a threshold of Chamois in a channel, `t` SYSCLK cycles into the tick (R158 to R162). -/
structure TripAt where
  ch : Ch
  t  : Half
  deriving DecidableEq, Repr

/-- What a channel meets at the start of a PWM period: whether the output of Chamois, unfiltered, is still tripped (R157,
R158, R690). -/
structure PwmIn where
  ch   : Ch
  trip : Bool
  deriving DecidableEq, Repr

/-- A bit of a compare lane of a checker (R243, R247): lane 0 the compare value, 1 the saturation state as R216 holds it,
2 to 8 the state values. -/
structure LaneBit where
  lane : Fin 9
  bit  : Fin 56
  deriving DecidableEq, Repr

/-- What reaches the slot of a channel with its control sample: a bit in which a compare lane of the second pass differs,
by the injection port of R247 or by a fault of the hardware, and a VB SAR result that has come since the last one (R212,
R635). -/
structure SlotIn where
  port : Option LaneBit
  vb   : Option Int
  deriving DecidableEq, Repr

/-- What the items of the BOOT injection test have found (R653): each holds where every difference that it injects was
detected. `le` stands for the checkers of the loop engines LE0 to LE3, each bit of each compare lane by the port of R247. -/
structure InjIn where
  buffer      : Bool
  fetch       : Bool
  guards      : Bool
  skew        : Bool
  le          : Vector Bool 4
  heartbeat   : Bool
  comparators : Bool
  estop       : Bool
  readback    : Bool
  deriving DecidableEq, Repr

/-- What MOT reads at the start of a PWM period: the motor current in mA (R554) and `BSTx` − `SWx` of the legs in mV
(R552). -/
structure MotPwmIn where
  i   : Int
  bst : Vector Int 3
  deriving DecidableEq, Repr

/-- A zero crossing (R559 to R561): its time in ns since power-on, and whether two successive samples of its sector had
shown the pre-crossing state, which ends the demagnetisation window (R560). -/
structure ZcIn where
  t   : Nat
  pre : Bool
  deriving DecidableEq, Repr

/-- A test pulse of a P1 start (R575): the ns after which the motor current reached `ALIGN_I`, if it did, and the current in
mA at 200 µs. -/
structure PulseIn where
  reach : Option Nat
  i     : Int
  deriving DecidableEq, Repr

/-- How an SSI frame ended (R583): `EDAT` low at the end of the last clock period, the ns until it was high again, the
alarm bit. -/
structure EncIn where
  low   : Bool
  rise  : Option Nat
  alarm : Bool
  deriving DecidableEq, Repr

/-- One sample of a comparator against its two thresholds (R687). -/
inductive CmpLevel where
  | beyond | band | safe
  deriving DecidableEq, Repr

/-- The samples of one park tick (R100). -/
structure ParkIn where
  ov  : List CmpLevel
  uv  : List CmpLevel
  vm  : CmpLevel
  vb  : CmpLevel
  deriving DecidableEq, Repr

/-- The Pennant (R487); `copyB` is bit 2 of `RSTATE`, `crcOk` the outcome of its CRC-32C check. -/
structure Pennant where
  tick    : Tick
  rstate  : BitVec 2
  copyB   : Bool
  hop     : Byte
  loop    : Half
  loop2   : Half
  per     : Byte
  newper  : Byte
  switch  : Byte
  npos    : Byte
  safev   : Word
  barv    : Long
  crcOk   : Bool
  deriving DecidableEq, Repr

/-- The safety PDU (R659); `crcOk` is the outcome of its CRC-32C check. -/
structure Pdu where
  src   : BitVec 5
  seq   : Byte
  state : Half
  mode  : Byte
  io    : Byte
  scyc  : Half
  pset  : Word
  crcOk : Bool
  deriving DecidableEq, Repr

/-- A data frame of the ring (R499, R500); `crcOk` is the outcome of its CRC-32 check. -/
structure Frame where
  type    : BitVec 3
  dst     : BitVec 5
  src     : BitVec 5
  retry   : Bool
  ackreq  : Bool
  last    : Bool
  tag     : Byte
  arg     : Long
  payload : List Word
  crcOk   : Bool
  deriving DecidableEq, Repr

/-- A doorbell line (R418). -/
structure DbLine where
  tails   : List Half
  cpqCons : Half
  evqCons : Half
  tlrCons : Word
  lgen    : Word
  deriving DecidableEq, Repr

/-- Status of a host-memory read, in the codes of an RDCPL (R500). -/
inductive RdStatus where
  | ok | unsupported | abort | poisoned | timeout
  deriving DecidableEq, Repr

/-- What a read of the summary line gives (R420): how it ended, and `SMASK`. -/
structure SumRd where
  st    : RdStatus
  smask : Word
  deriving DecidableEq, Repr

/-- What a read of a doorbell line gives (R418): how it ended, and the line. -/
structure LineRd where
  st   : RdStatus
  line : DbLine
  deriving DecidableEq, Repr

/-- What a start observed during `T_CHK` (R572): no rotation, or a direction with a sector and a speed in rpm. -/
inductive Rotation where
  | none
  | seen (forward : Bool) (sector : Fin 6) (rpm : Nat)
  deriving DecidableEq, Repr

/-- A motor leg. -/
inductive Leg where
  | a | b | c
  deriving DecidableEq, Repr

/-- A safe-state request by cause, in the codes of `SAF_CAUSE.FIRST` (R668). -/
inductive SafeCause where
  | sf (n : Fin 7)
  | safFault
  | faultReaction
  | otherBit (p : Pos)
  | clkLost
  | ringWdog (r : RingId)
  | pduCheck
  | safMaster
  | svcLimit
  deriving DecidableEq, Repr

/-- An access over the JTAG TAP and the debug transport (R736). -/
inductive TapAccess where
  | idcode
  | bypass
  | boundaryScan
  | dbgCtl (v : Word)
  | other (ir : Word)
  deriving DecidableEq, Repr

/-- The commands: one constructor per row of spec/opcode_table.json. -/
inductive Instr where
  -- supplies, resets, BOOT
  | vinOn
  | por
  | brownout (rail : Rail)
  | pinReset
  | perstNAssert
  | functionLevelReset
  | vdrvUnderVoltage
  | internalResetRelease (i : StrapIn)
  | pllLock
  | bootComplete (i : BootIn)
  | injectionTestDone (i : InjIn)
  -- admin commands
  | nop (a : AdmHdr)
  | regRead (a : AdmHdr) (off : Word)
  | regWrite (a : AdmHdr) (off val : Word)
  | loadImage (a : AdmHdr) (len : Word) (m : Option Manifest)
  | loadProfile (a : AdmHdr) (q : Quad) (slot : Fin 8) (img : Option (List Word))
  | revoke (a : AdmHdr) (q : BitVec 5) (first : Half)
  | resume (a : AdmHdr) (mask : BitVec 16)
  | clearFault (a : AdmHdr) (ch : Ch)
  | enterRun (a : AdmHdr)
  | enterStandby (a : AdmHdr)
  | enterService (a : AdmHdr) (len : Word) (m : Option Manifest)
  | leaveService (a : AdmHdr)
  | clearSafe (a : AdmHdr)
  | enterPark (a : AdmHdr)
  | parkEntryFinish
  | resetChip (a : AdmHdr)
  | resetWarm (a : AdmHdr)
  | resetBlock (a : AdmHdr) (blk : BitVec 4)
  | blockResetDone (blk : Blk)
  | attest (a : AdmHdr) (addr : Long) (len : Word) (nonce : BitVec 256)
  | dumpNow (a : AdmHdr)
  -- SAFE and PARK
  | safeStateRequest (cause : SafeCause)
  | parkTick (i : ParkIn)
  | parkWakeTray
  | parkWakeVb
  | parkWakeRing (r : RingId)
  | drvEnToggle
  -- tick and clocks
  | tickBoundary (i : TickIn)
  | refSwitch
  | clkLost
  | pennantReceived (r : RingId) (p : Pennant) (t dev : Int)
  | pennantMissed
  | tickAlign
  | sysTickWrite (path : Path) (val : Word)
  | tickPeriodSwitch
  | tickChangeWithdraw
  | telemetryReport
  | safetyCycleStart (i : SafIn)
  | spend (i : SpendIn)
  | safOverrun
  | safHeartbeat
  -- channel stage
  | pwmPeriodStart (i : PwmIn)
  | sarSample (ch : Ch) (isB : Bool) (v i : Int)
  | controlSampleValid (ch : Ch) (i : SlotIn)
  | leOverrun (ch : Ch)
  | loadInstant (ch : Ch)
  | gdAdapt (ch : Ch) (rising measured : Bool) (t : Byte)
  | bothOnCommand (ch : Ch)
  | measClose (path : Path) (ch : Ch) (val : Word)
  | kelTest (path : Path) (ch : Ch) (val : Word)
  | kelvinPulseEnd (ch : Ch) (diff : Int)
  | isoSettleEnd (ch : Ch)
  | isoStagedOpen (ch : Ch)
  | chamoisTrip (x : TripAt)
  | blankingEnd (x : TripAt) (level : Bool)
  | scHard (x : TripAt)
  | comparatorTrip (i : CmpId) (reverse : Bool)
  | comparatorRelease (i : CmpId)
  | olFault (ch : Ch)
  | kelOpen (ch : Ch)
  | hkSample (input : Fin 25) (raw : Half)
  -- profiles and trace
  | profileLoad (path : Path) (q : Quad) (val : Word)
  | profileInvalidate (path : Path) (q : Quad) (val : Word)
  | profileReadback (path : Path) (q : Quad) (val : Word)
  | profileDecision (q : Quad)
  | followErr (ch : Ch)
  | swtrig (path : Path) (q : Quad) (val : Word)
  | tracePostStop (q : Quad)
  | traceDataRead (q : Quad)
  -- metrology
  | rangeRequest (path : Path) (ch : Ch) (val : Word)
  | ibxRotationStart (sp : SpareId)
  | calibrationComplete (conv : Fin 36) (rng : Fin 5) (n : Nat) (s0 s1 : Int) (refDev : Int)
  | compareWindowEnd (sp : SpareId) (n : Nat) (sumTarget sumSpare : Int) (spareOvld : Bool)
  | sourceChange (sp : SpareId)
  | ibxWindowTimeout (sp : SpareId)
  | sarTrackFit (ch : Ch)
  | sinc3Output (ch : Ch) (v i : Int)
  | ledgerSnap (path : Path) (ch : Ch) (val : Word)
  | ledgerClear (path : Path) (ch : Ch) (val : Word)
  | ledgerDataRead (ch : Ch)
  -- steps
  | stepBegin (ch : Ch)
  | bankSwap (ch : Ch)
  | seqLate (ch : Ch)
  | prearm (ch : Ch)
  | stepGapArm (ch : Ch)
  | cc (ch : Ch) (idx : Half) (d : StepDesc)
  | cv (ch : Ch) (idx : Half) (d : StepDesc)
  | cccv (ch : Ch) (idx : Half) (d : StepDesc)
  | cp (ch : Ch) (idx : Half) (d : StepDesc)
  | cr (ch : Ch) (idx : Half) (d : StepDesc)
  | pulse (ch : Ch) (idx : Half) (d : StepDesc)
  | rest (ch : Ch) (idx : Half) (d : StepDesc)
  | ocv (ch : Ch) (idx : Half) (d : StepDesc)
  | dcir (ch : Ch) (idx : Half) (d : StepDesc)
  | eis (ch : Ch) (idx : Half) (d : StepDesc)
  | nichg (ch : Ch) (idx : Half) (d : StepDesc)
  | ramp (ch : Ch) (idx : Half) (d : StepDesc)
  | wait (ch : Ch) (idx : Half) (d : StepDesc)
  | hold (ch : Ch) (idx : Half) (d : StepDesc)
  | gang (ch : Ch) (idx : Half) (d : StepDesc)
  | update (ch : Ch) (idx : Half) (d : StepDesc)
  | updateApply (ch : Ch)
  | endStep (ch : Ch) (idx : Half) (d : StepDesc)
  | softStartEnd (ch : Ch)
  | shortCheck (ch : Ch)
  | stepTimeout (ch : Ch)
  | pulsePhaseSwitch (ch : Ch)
  | ocvPhaseEnd (ch : Ch)
  | dcirPhaseEnd (ch : Ch)
  | eisToneAdmit (ch : Ch)
  | eisWindowClose (ch : Ch)
  | nichgHoldEnd (ch : Ch)
  | ecWindowEnd (ch : Ch) (k : Fin 4)
  -- host queues
  | doorbellPoll
  | summaryReadComplete (d : SumRd) (sgen : Word)
  | doorbellLineRead (p : Pos) (l : LineRd)
  | dbl (f : Frame)
  | queueEnable (path : Path) (val : Word)
  | descriptorFetch
  | descriptorReadComplete (q : QId) (st : RdStatus) (words : List Word)
  | completionPost
  | eventPost
  | msixSend (v : Fin 8)
  | hostErrClear (path : Path) (val : Word)
  -- motion commands
  | home (idx : Half) (d : MotionDesc)
  | moveTo (idx : Half) (d : MotionDesc)
  | press (idx : Half) (d : MotionDesc)
  | holdForce (idx : Half) (d : MotionDesc)
  | release (idx : Half) (d : MotionDesc)
  | stop (idx : Half) (d : MotionDesc)
  -- ring
  | splice (r : RingId)
  | pennantReturn (r : RingId) (p : Pennant) (l : Int)
  | arrive (f : Frame)
  | ringBarset (path : Path) (high : Bool) (val : Word)
  | safetyPduReceived (r : RingId) (fromHead : Bool) (p : Pdu)
  | frameSend (r : RingId) (slotBytes : Nat) (reservedFor : Option Pos)
  | reg (f : Frame)
  | regr (f : Frame)
  | regTimeout (p : Pos)
  | rdreq (f : Frame)
  | rdcpl (f : Frame)
  | rdreqTimeout (tag : Byte)
  | wr (f : Frame)
  | ack (f : Frame)
  | ackTimeout (dst : Pos) (tag : Byte)
  | join (f : Frame)
  | assign (f : Frame)
  | wrap (f : Frame)
  | restore (f : Frame)
  | restoreBoundary
  | msix (f : Frame)
  | span (f : Frame)
  | periodNak (f : Frame)
  | bar1Access (p : Pos) (off : Half) (write : Bool) (words : List Word) (count : Fin 17)
  | enumStart
  | enumEnd (hop : Byte)
  | ringEnumWrite (path : Path) (val : Word)
  | ringInputDown (r : RingId) (why : DownWhy)
  | ringInputStable (r : RingId)
  | positionLeave (p : Pos)
  | ringWakeGo (path : Path) (val : Word)
  | wakeBurst
  | ringWatchdogExpiry (r : RingId)
  -- motor
  | motPwmPeriodStart (i : MotPwmIn)
  | zeroCrossing (x : ZcIn)
  | demagEnd (t : Nat) (above : Bool)
  | commutation (t : Nat)
  | zcMiss
  | gearCheck
  | startCheckEnd (obs : Rotation)
  | activeShortEnd
  | alignEnd (x : Vector PulseIn 6)
  | startTimeout
  | catch_ (sector : Fin 6)
  | encoderFrame (x : EncIn) (raw : Word)
  | homeEdge (rising : Bool) (dNext : Int) (num den : Nat)
  | motOverrun
  | motionFollowErr (force : Bool)
  | motionTimeout
  | motionDwellEnd
  | motScTrip
  | motScHard
  | motBothOn (leg : Leg)
  | brkmSwitch (vm : Nat)
  | brkmOvl
  | brkbSwitch (vb : Nat)
  | brkbOvl
  -- safety
  | kdrClose
  | kfbCheck (kfbA kfbB : Bool)
  | kfbDiscrepancy (isB : Bool) (level : Bool)
  | safKctlReq (path : Path) (val : Word)
  | kdrDrop
  | ss1End
  | menRestore
  | estopFilterExpiry (isB : Bool)
  | estopDiscrepancy
  | trayExchange
  -- faults, comparators, dump
  | faultRaise (src : Src) (ch : Ch)
  | faultClear (src : Src) (ch : Ch)
  | railBreak (src : Src)
  | cmpCfgWrite (path : Path) (i : CmpId) (val : Word)
  | errNRelease
  | seqWdog
  | motWdog
  | snapshotComplete
  | dumpStart
  | dumpFinish (ok : Bool)
  | dumpAck (path : Path) (val : Word)
  | faultInject (path : Path) (val : Word)
  -- boot, trust, debug, plain register accesses
  | bootGo (path : Path) (val : Word) (fetched : Option Manifest)
  | challengeNew (path : Path) (val : Word)
  | digestRead
  | registerWrite (path : Path) (off : Half) (words : List Word)
  | werrClear (path : Path) (val : Word)
  | dbgHalt (path : Path) (val : Word)
  | leStepGo (path : Path) (val : Word)
  | unsupportedAccess (path : Path) (off : Half) (bytes : Nat) (write : Bool)
  | latchingLowRead (path : Path) (off : Half)
  | coreRailReturn (rail : Rail)
  | rstNRelease
  | perstNDeassert
  | pcieLinkChange (up : Bool)
  | pcieConfigWrite (xtag bme msixEn : Bool)
  | pllLockLoss
  | debugTransportAccess (acc : TapAccess)
  | reportSigned
  | slotReadbackDone (ok : Bool)
  deriving DecidableEq, Repr

end Sys2Proof
end

