-- ==== Sys2Proof/Decode.lean ====
section
/-!
DEFINITION. The block has no instruction words: its commands are events, accesses and messages, and the table gives no
row any bits.
-/

namespace Sys2Proof

/-- The command that a word spells by the table's bits: the table gives no row any, so none. -/
def decodeTableWord (_nbits _w : Nat) : Option Instr := none

end Sys2Proof
end

