-- ==== Sys2Proof/Config.lean ====
section
/-!
DEFINITION. The free values: what the spec leaves open and no command carries. Each is an opaque constant, so that no
proof can see a value of it. Those that take a count are applied to `State.free`, which each use advances.
-/

namespace Sys2Proof.Config

/-- A fresh natural number for the n-th use: a random challenge word (R733), a signature octet (R732). -/
opaque freeNat : Nat → Nat

/-- A fresh signed number for the n-th use: a bit sum of the partial tick of a reset (R308). -/
opaque freeInt : Nat → Int

/-- The die temperature in 0.01 °C that a housekeeping result stands for (R319). -/
opaque dieTemp : Nat → Int

/-- The supply reading in mV that a housekeeping result of supply n stands for (R319). -/
opaque supplyMv : Nat → Nat → Nat

/-- OTP gain of a converter in a range as G − 1 in 0.01 ppm (R280): converter, range. -/
opaque otpGain : Nat → Nat → Int

/-- OTP offset of a converter in a range, referred to the input, in nV (R280). -/
opaque otpOfs : Nat → Nat → Int

/-- The divider ratio ρ_r of a range in units of 10^-9 (R281); 5, 6: force, 7: precision VB. -/
opaque otpRho : Nat → Int

/-- OTP gain and offset of the current SAR of a channel (R284): G − 1 in 0.01 ppm, offset in nV. -/
opaque otpSar : Nat → Int × Int

/-- OTP gain and offset of the voltage SAR of a channel: G − 1 in 0.01 ppm, offset in nV. -/
opaque otpSarV : Nat → Int × Int

/-- The trimmed value of the internal reference in µV (R286), below 2^23 by its register. -/
opaque vrefS : Nat

/-- The device's forwarding latency in 0.125 ns, measured at training (R519). -/
opaque fwdLatency : Nat

/-- A processor register as it stands at a dump trigger (R701): use count, word of the CPU body. -/
opaque cpuWord : Nat → Nat → Nat

/-- A word of an identity public key (R731, R739): item, word index. -/
opaque idKeyWord : Nat → Nat → Nat

/-- A word of the two signatures of an attestation report (R732): use count, word index. -/
opaque sigWord : Nat → Nat → Nat

end Sys2Proof.Config
end

