-- ==== Sys2Proof/Machine/Arith.lean ====
section
/-!
DEFINITION. Arithmetic that the rules share and that no state enters: rounding (R24, R797), clamping, two's complement
fields, CRC-32C, time conversions (R336), and the constant tables of the sources (R679) and the default safety
parameter set (R664).
-/

namespace Sys2Proof.Machine

/-- Division that rounds toward zero (R24). -/
def tdiv (a b : Int) : Int := Int.tdiv a b

/-- Division rounded to nearest, halfway away from zero (R797). 0 for a divisor of 0. -/
def rdiv (a b : Int) : Int :=
  if b = 0 then 0
  else
    let q := (2 * a.natAbs + b.natAbs) / (2 * b.natAbs)
    if (a < 0) = (b < 0) then (q : Int) else -(q : Int)

/-- Clamp to an interval. -/
def clampI (x lo hi : Int) : Int := if x < lo then lo else if hi < x then hi else x

/-- The sign of a number. -/
def sgn (x : Int) : Int := if x < 0 then -1 else if 0 < x then 1 else 0

/-- Saturate to a signed width. -/
def satS (w : Nat) (x : Int) : Int := clampI x (-(2 ^ (w - 1))) (2 ^ (w - 1) - 1)

/-- Saturate a count to an unsigned width. -/
def satU (w : Nat) (x : Nat) : Nat := min x (2 ^ w - 1)

/-- The signed value of a field of `w` bits. -/
def toS (w : Nat) (x : Nat) : Int := if x < 2 ^ (w - 1) then (x : Int) else (x : Int) - 2 ^ w

/-- The two's complement of a number in a field of `w` bits. -/
def ofS (w : Nat) (x : Int) : Nat := (x % 2 ^ w).toNat

/-- Two's complement wrap to a signed width (R24). -/
def wrapS (w : Nat) (x : Int) : Int := toS w (ofS w x)

/-- Bit `i` of a number. -/
def bitN (x i : Nat) : Bool := (x / 2 ^ i) % 2 = 1

/-- The bits [lo+w-1:lo] of a number. -/
def bitsN (x lo w : Nat) : Nat := (x / 2 ^ lo) % 2 ^ w

/-- 0 or 1. -/
def b2n (b : Bool) : Nat := if b then 1 else 0

/-- A count with a bit set. -/
def setBitN (x i : Nat) : Nat := if bitN x i then x else x + 2 ^ i

/-- A count with a bit cleared. -/
def clrBitN (x i : Nat) : Nat := if bitN x i then x - 2 ^ i else x

/-- The offset of channel `n` inside the tick as a slot number (R40). -/
def slotOf (c : Ch) : Nat := (c.val % 4) * 4 + c.val / 4

/-- The quad of a channel (R2). -/
def quadOf (c : Ch) : Quad := ⟨c.val / 4, by omega⟩

/-- The position of a channel in its quad. -/
def inQuad (c : Ch) : Fin 4 := ⟨c.val % 4, by omega⟩

/-- The channel at a position of a quad. -/
def chOf (q : Quad) (i : Fin 4) : Ch := ⟨4 * q.val + i.val, by omega⟩

/-- All channels, in order. -/
def allCh : List Ch := [0, 1, 2, 3, 4, 5, 6, 7, 8, 9, 10, 11, 12, 13, 14, 15]

/-- The channels of a quad, in order. -/
def quadChs (q : Quad) : List Ch := [chOf q 0, chOf q 1, chOf q 2, chOf q 3]

/-- All quads. -/
def allQuads : List Quad := [0, 1, 2, 3]

/-- A mask with one channel. -/
def chBit (c : Ch) : BitVec 16 := BitVec.ofNat 16 (2 ^ c.val)

/-- The channels of a mask, in order. -/
def maskChs (m : BitVec 16) : List Ch := allCh.filter (fun c => m.getLsbD c.val)

/-- A duration in ms as ticks, the smallest number not shorter (R336); `per` is the tick period in SYSCLK cycles of
2 ns. -/
def msTicks (per ms : Nat) : Nat := (ms * 500000 + per - 1) / per

/-- Ticks as whole ms. -/
def ticksMs (per t : Nat) : Nat := t * per / 500000

/-- A duration in µs as ticks, the smallest number not shorter. -/
def usTicks (per us : Nat) : Nat := (us * 500 + per - 1) / per

/-- Keep the last `n` of a list whose newest entry stands first. -/
def keep {α : Type} (n : Nat) (l : List α) : List α := l.take n

/-- The integer square root, bit by bit from the highest that it can hold. -/
def isqrt (n : Nat) : Nat :=
  ((List.range (n.log2 / 2 + 1)).reverse).foldl (fun r i => if (r + 2 ^ i) * (r + 2 ^ i) ≤ n then r + 2 ^ i else r) 0

/-- The number π in units of 2^-100, to the unit below. -/
def piFix : Nat := 3982441812995697363688351113952

/-- A power series in units of 2^-100: `n` further terms, the j-th of them the one before times -x² / ((j + 1)(j + 2)). -/
def alternating (x2 : Int) : Nat → Nat → Int → Int
  | 0, _, _ => 0
  | n + 1, j, t => t + alternating x2 n (j + 2) (-(t * x2 / 2 ^ 100 / (((j + 1) * (j + 2) : Nat) : Int)))

/-- 2πk/P in units of 2^-100, k taken modulo P. -/
def turn (k P : Nat) : Int := ((2 * piFix * (k % P) / P : Nat) : Int)

/-- sin(2πk/P) in units of 2^-60, to nearest (R374, R375). -/
def sinT (k P : Nat) : Int :=
  let x := turn k P
  rdiv (alternating (x * x / 2 ^ 100) 32 1 x) (2 ^ 40)

/-- cos(2πk/P) in units of 2^-60, to nearest (R375). -/
def cosT (k P : Nat) : Int :=
  let x := turn k P
  rdiv (alternating (x * x / 2 ^ 100) 32 0 (2 ^ 100)) (2 ^ 40)

/-- The angle in 0.1° below 45° whose tangent is a / b, to the step below (R564). -/
def atanDeg (a b : Nat) : Nat :=
  ((List.range 450).filter (fun k => (b : Int) * sinT (k + 1) 3600 ≤ a * cosT (k + 1) 3600)).length

/-- Terms of the series of atanh: `fuel` of them from the odd number `n`, whose power of z is `w`; `z2` is z². In 2^-80. -/
def atanhSum (z2 : Int) : Nat → Nat → Int → Int
  | 0, _, _ => 0
  | f + 1, n, w => tdiv w n + atanhSum z2 f (n + 2) (tdiv (w * z2) (2 ^ 80))

/-- atanh (p / q) in 2^-80, for a ratio of at most a third. -/
def atanhFix (p q : Int) : Int :=
  let z := tdiv (p * 2 ^ 80) q
  atanhSum (tdiv (z * z) (2 ^ 80)) 30 1 z

/-- ln (p / q) in 2^-60, for positive p and q. -/
def lnFix (p q : Nat) : Int :=
  let a := p.log2
  let b := q.log2
  let p' : Int := p * 2 ^ (b - a)
  let q' : Int := q * 2 ^ (a - b)
  rdiv (2 * atanhFix (p' - q') (p' + q') + 2 * ((a : Int) - b) * atanhFix 1 3) (2 ^ 20)

/-- A 32-bit value in the lanes of SAF's datapath, shifted left by `k` (R644): zero below, copies of its sign above. -/
def laned (k : Nat) (w : BitVec 32) : BitVec 40 := (w.signExtend 40) <<< k

/-- The 32-bit value of a lane word. -/
def unlaned (k : Nat) (v : BitVec 40) : BitVec 32 := (v >>> k).truncate 32

/-- A lane word conforms (R644, R645). -/
def laneOk (k : Nat) (v : BitVec 40) : Bool := decide (v = laned k (unlaned k v))

/-- The octets of `new` that the byte enables select, the others of `old`. -/
def byteMerge (be : BitVec 4) (old new : BitVec 32) : BitVec 32 :=
  let m (i : Nat) : BitVec 32 := if be.getLsbD i then (0xFF#32) <<< (8 * i) else 0
  let mask := m 0 ||| m 1 ||| m 2 ||| m 3
  (old &&& ~~~mask) ||| (new &&& mask)

/-- Store a word in a list of words by place, rising; a word of 0 is not listed. -/
def wordIns (l : List (Nat × BitVec 40)) (a : Nat) (v : BitVec 40) : List (Nat × BitVec 40) :=
  (l.filter (fun e => decide (e.1 < a))) ++ (if v = 0 then [] else [(a, v)]) ++ l.filter (fun e => decide (a < e.1))

/-- The length of the common front of two lists. -/
def commonLen {α : Type} [DecidableEq α] : List α → List α → Nat
  | x :: s, y :: t => if x = y then 1 + commonLen s t else 0
  | _, _ => 0

/-- The sum of a list of integers. -/
def sumI (l : List Int) : Int := l.foldl (· + ·) 0

/-- The default reactions of R679, coded as `FLT_REACT.REACT`: I 1, N 2, B 4, C 8, E 16, S 32. -/
def srcDefault (n : Nat) : Nat :=
  if n = 2 ∨ n = 9 ∨ n = 10 then 17
  else if n ≤ 12 then 1
  else if n ≤ 15 then 49
  else if n = 16 then 21
  else if 20 ≤ n ∧ n ≤ 24 then 17
  else if 25 ≤ n ∧ n ≤ 30 then 1
  else if n = 31 then 3
  else if n = 32 then 1
  else if n = 36 then 17
  else if n = 37 then 1
  else if n = 38 then 17
  else if n = 39 then 1
  else if n = 40 ∨ n = 41 then 49
  else if n = 42 then 1
  else if n = 43 then 17
  else if n = 44 then 27
  else if n = 45 then 24
  else if n = 46 then 21
  else if n = 48 then 1
  else if n = 49 then 17
  else if n = 50 ∨ n = 56 then 1
  else if n = 57 then 17
  else if 58 ≤ n ∧ n ≤ 60 then 49
  else if 64 ≤ n ∧ n ≤ 80 then 49
  else if n = 81 then 17
  else 0

/-- The default safety parameter set (R664), its CRC word apart. -/
def psetWords : List Word :=
  [0, 100, 50, 2, 0, 500, 100, 6000, 4250, 18000, 64000, 360000000, 86400, 1000000, 1200, 100, 5000, 4096, 0]

/-- One bit of a reflected CRC register of 32 bits with a polynomial, reflected. -/
def crcBit (poly c : Word) : Word := if c.getLsbD 0 then (c >>> 1) ^^^ poly else c >>> 1

/-- A reflected CRC of 32 bits of octets, initial value and final inversion all ones. -/
def crc32 (poly : Word) (bs : List Byte) : Word :=
  ~~~ (bs.foldl (fun c b => (List.range 8).foldl (fun c _ => crcBit poly c) (c ^^^ b.zeroExtend 32)) 0xFFFFFFFF#32)

/-- CRC-32C of octets (polynomial 0x1EDC6F41). -/
def crc32c (bs : List Byte) : Word := crc32 0x82F63B78#32 bs

/-- CRC-32 of octets with the IEEE 802.3 polynomial 0x04C11DB7 (R499). -/
def crc32Ieee (bs : List Byte) : Word := crc32 0xEDB88320#32 bs

/-- The four octets of a word, least significant first (R11). -/
def wordBytes (w : Word) : List Byte :=
  [w.extractLsb' 0 8, w.extractLsb' 8 8, w.extractLsb' 16 8, w.extractLsb' 24 8]

/-- The default set with word 19, the CRC-32C of words 0 to 18. -/
def psetDefault : List Word := psetWords ++ [crc32c (psetWords.flatMap wordBytes)]


/-- The little-endian octets of a number in `n` octets (R11). -/
def leBytes (n x : Nat) : List Byte := (List.range n).map (fun i => BitVec.ofNat 8 (x / 256 ^ i))

/-- The octets of words in order. -/
def wordsBytes (ws : List Word) : List Byte := ws.flatMap wordBytes

end Sys2Proof.Machine
end

