-- ==== Sys2Proof/Machine/State.lean ====
section
/-!
DEFINITION. The state of the YLT1680 as plain data. The fields of the registers that BAR0 names live in one register
file (`State.regs`), in a canonical form; what the device updates while it runs, and everything the rules give it that
no register shows, has a typed home of its own. `State.pending` is the queue of the commands that wait.
-/

namespace Sys2Proof.Machine

/-- The access codes of R16. -/
inductive Acc where
  | rw | ro | w1c | wo | rwl | rws
  deriving DecidableEq, Repr

/-- The Survives codes of R20: nothing, BLOCK, WARM, CHIP, PIN (N), every reset (O). -/
inductive Surv where
  | none | b | w | c | n | o
  deriving DecidableEq, Repr

/-- A register field: BAR0 offset of its register, place, width, access code, reset value, Survives code and the
least and greatest value it accepts (R749, R750 code RANGE). -/
structure Fld where
  off  : Nat
  lo   : Nat
  w    : Nat
  acc  : Acc
  rst  : Nat
  surv : Surv
  mn   : Nat
  mx   : Nat
  deriving DecidableEq, Repr

/-- The place of a field in the register file's order. -/
def Fld.key (f : Fld) : Nat := f.off * 32 + f.lo

/-- A register file: (field, value) pairs, keys strictly rising, no entry at its reset value. -/
abbrev RegFile := List (Fld × Nat)

/-- The modes, with the codes of R77. -/
inductive Mode where
  | park | boot | standby | run | safe | service
  deriving DecidableEq, Repr

/-! ### The host interface (07_host_queues.md) -/

/-- A prefetched descriptor: its sixteen words and whether SEQ found it valid when it was prefetched (R337). -/
structure PreDesc where
  words : List Word
  ok    : Bool
  deriving DecidableEq, Repr

/-- A submission queue: the tail last taken, the fetch and done counts (u16, R415, R474), the held backward tail of
R432, whether fetching is stopped (R416, R430), and the prefetched descriptors, oldest first. -/
structure SubQ where
  tail    : Nat
  fetched : Nat
  done    : Nat
  held    : Option Nat
  stopped : Bool
  pre     : List PreDesc
  deriving DecidableEq, Repr

/-- A descriptor read outstanding (R427, R428): the queue, the first count and how many descriptors; on a member the tag
of its RDREQ and the words that RDCPL frames have brought, with their places. -/
structure ReadReq where
  q     : QId
  first : Nat
  n     : Nat
  tag   : Nat
  got   : List (Nat × Word)
  deriving DecidableEq, Repr

/-- Whose slots of the completion buffer a completion holds (R468). -/
inductive Owner where
  | chan (c : Ch)
  | mot
  | shared
  deriving DecidableEq, Repr

/-- The records that enter the completion buffer together (R458): their words with phase bit 0 still clear, in the
order of writing, and the MSI-X vector they cause (R464). -/
structure CGroup where
  owner : Owner
  recs  : List (List Word)
  vec   : Fin 8
  deriving DecidableEq, Repr

/-- A notice that waits for a shared slot (R468, R469); that of an UPDATE retires its descriptor, of queue and count, as it
enters (R417). -/
structure Owed where
  grp : CGroup
  upd : Option (QId × Nat)
  deriving DecidableEq, Repr

/-- An event record before it is written (R459). -/
structure EvRec where
  src  : Nat
  code : Nat
  arg  : Nat
  tick : Nat
  deriving DecidableEq, Repr

/-- One MSI-X vector: a cause is pending, and the ticks left of its moderation interval (R466). -/
structure MsixV where
  pend : Bool
  wait : Nat
  deriving DecidableEq, Repr

/-- An admin command that has not completed: its opcode, header and, for a BLOCK reset, its block as `BLK`. -/
structure AdmPend where
  op  : Nat
  hdr : AdmHdr
  arg : Nat
  deriving DecidableEq, Repr

/-- The completion of an admin command that waits for a shared slot (R468, R469): opcode, descriptor, `STATUS`,
`RESULT0`. -/
structure AdmFin where
  op  : Nat
  hdr : AdmHdr
  st  : Nat
  res : Nat
  deriving DecidableEq, Repr

/-- A host access held while its block is in a BLOCK reset (R748). -/
inductive HeldAcc where
  | write (path : Path) (off : Nat) (words : List Word)
  | read (off n : Nat)
  | reg (f : Frame)
  | admin (op : Nat) (hdr : AdmHdr) (off : Nat) (val : Word)
  deriving DecidableEq, Repr

/-- The host interface beyond its registers. `flight`, `wrote`: the record of the group in front of the buffer that a
member's WR carries, and how many of the group are written, in the order of R450. `owed`: notices that wait for a shared
slot (R469). `latches`: high registers latched by a read of their low ones (R744). -/
structure HostS where
  qs      : Vector SubQ 18
  reads   : List ReadReq
  cbuf    : List CGroup
  events  : List EvRec
  cpqW    : Nat
  cpqC    : Nat
  evqW    : Nat
  evqC    : Nat
  tlrSeq  : Nat
  tlrC    : Nat
  msix    : Vector MsixV 8
  sgen    : Nat
  fwd     : Vector (Option Nat) 32
  ask     : List Pos
  lineRd  : List Pos
  sumRd   : Bool
  pollT   : Nat
  link    : Bool
  bme     : Bool
  msixEn  : Bool
  xtag    : Bool
  aerUr   : Bool
  evqNote : Bool
  flight  : Option Nat
  wrote   : Nat
  owed    : List Owed
  adm     : Option AdmPend
  admFin  : Option AdmFin
  resetAt : List (Bool × AdmHdr)
  latches : List (Nat × Word)
  heldAcc : List HeldAcc
  deriving DecidableEq, Repr

/-! ### The channels (03 to 06) -/

/-- The isolation switch, in the codes of `CH_PSTAT.ISO` (R205). -/
inductive Iso where
  | opened | closing | closed | opening
  deriving DecidableEq, Repr

/-- Why a Kelvin confirmation pulse runs (R177). -/
inductive KelWhy where
  | close | test | ov | uv | hard
  deriving DecidableEq, Repr

/-- The power stage of a channel. `gates`: PWM running. `cut`: both gates off for the rest of the PWM period (R144,
R158). `settle`: the hold-off of R151 runs. `pulse`: the confirmation pulse in progress. `trip`, `tripAt`,
`tripRun`: a Chamois trip in this period, the time of the last one in SYSCLK cycles, consecutive periods with one.
`bothOn`: the ticks of the last both-on commands (R145). `olTick`: filtered `CMP_OL` tripped at some time in this tick
(R167). `ntcHi`, `ntcLo`: successive samples outside a limit (R179). `kT`: the factor of the last sample within the
limits, `ntcBad`: the last sample lay outside one (R181). -/
structure Stage where
  gates    : Bool
  cut      : Bool
  iso      : Iso
  settle   : Bool
  pulse    : Option KelWhy
  trip     : Bool
  tripAt   : Option Nat
  tripRun  : Nat
  bothOn   : List Nat
  olTick   : Bool
  ntcHi    : Nat
  ntcLo    : Nat
  kT       : Nat
  ntcBad   : Bool
  deriving DecidableEq, Repr

/-- A profile (R218). Coefficients as in R219, signed. -/
structure Prof where
  tmpl    : Nat
  outer   : Nat
  xform   : Nat
  gangOk  : Bool
  coef    : Vector Int 32
  tw      : Nat
  feTime  : Nat
  feLimit : Nat
  uMin    : Nat
  uMax    : Nat
  deriving DecidableEq, Repr

/-- The state of a law (R209): integrator, last three errors, last three outputs. -/
structure Law where
  xI : Int
  e1 : Int
  e2 : Int
  e3 : Int
  u1 : Int
  u2 : Int
  u3 : Int
  deriving DecidableEq, Repr

/-- The clamp state of a computation (R216). -/
inductive Clamp where
  | none | low | high
  deriving DecidableEq, Repr

/-- The inner part of a saturation state: the clamp state and the integrator flag (R216). -/
structure Sat where
  clamp : Clamp
  integ : Bool
  deriving DecidableEq, Repr

/-- A bank of a channel (R223): the profile slot, the setpoint and slew rate of the step, its current limits and its
voltage limit in µA and µV, and the amplitude and frequency of its EIS perturbation. -/
structure Bank where
  slot : Fin 8
  goal : Int
  slew : Nat
  iLo  : Int
  iHi  : Int
  volt : Int
  amp  : Nat
  freq : Nat
  deriving DecidableEq, Repr

/-- The checkpoint of R236. `hX`, `hE`: the sensitivities h of x_I and of e1 (R228); `outerSat` the outer part of the
saturation state (R216). -/
structure Ckpt where
  slot    : Fin 8
  bank    : Bool
  law     : Law
  dff     : Int
  uLo     : Int
  uHi     : Int
  yHat    : Int
  rHat    : Int
  iHat    : Int
  mA      : Int
  mB      : Int
  accSpec : Int
  g       : Int
  spec    : Law
  hX      : Int
  hE      : Int
  sat     : Sat
  outer   : Law
  outerSat : Sat
  deriving DecidableEq, Repr

/-- The loop of a channel in its engine. `act` and `shd` are its active and its shadow bank (R223). `ck` is none before
the first computation after closing (COLD, R225); `ckB` is the copy of the checker (R242).
`icmd` is the command in force, `out1` the outer result of this tick's slot and `out2` of the slot before (R210),
`oCmd` the outer result in force; `sh1`, `sh2` are the shares of a gang member in the same way (R249).
`r` is the effective setpoint in input LSB of this tick, `iA`, `vA`, `mB` the control sample and sample B.
`vRef` is the target that the outer law or transform uses, `iGang` the command of the gang that a leader shares out,
`icmd0` the command before this boundary (R352), `iFb` the foldback limit in force in µA. `fresh`: sample A of this
tick has been taken; `vOk`: it lies in no confirmation pulse and no excluded tick (R802). `value` waits for its load
instant, `loaded` acts now; `held`: the value of this tick is withheld (R244, R246). `slot`: this tick's slot has
committed a value, `overran`: it has overrun (R47). `feSusp` suspends the supervision in this tick, whose count was `fe0`
before it (R241). -/
structure LoopS where
  closed    : Bool
  swapped   : Bool
  bank      : Bool
  act       : Bank
  shd       : Bank
  law       : Law
  outer     : Law
  outerSat  : Sat
  ck        : Option Ckpt
  ckB       : Option Ckpt
  icmd      : Int
  icmd0     : Int
  oCmd      : Int
  sh1       : Option Int
  sh2       : Option Int
  iGang     : Int
  vRef      : Int
  iFb       : Option Int
  fresh     : Bool
  vOk       : Bool
  held      : Bool
  out1      : Option Int
  out2      : Option Int
  iEff      : Int
  r         : Int
  iA        : Int
  vA        : Int
  mB        : Int
  iPrev     : Int
  u0        : Int
  u1        : Int
  value     : Option Int
  loaded    : Int
  done      : Bool
  slot      : Bool
  overran   : Bool
  last      : Nat
  reason    : Nat
  k         : Nat
  feCnt     : Nat
  fe0       : Nat
  feSusp    : Bool
  rollbacks : Nat
  overruns  : Nat
  checks    : Nat
  lastCheck : Option Nat
  deriving DecidableEq, Repr

/-- The ledger record of a channel (R313) with its residues (R302). The 64-bit counts wrap (R311). -/
structure Ledger where
  qTot      : Long
  eTot      : Long
  tTot      : Long
  qIdle     : Long
  eIdle     : Long
  qExcl     : Long
  eExcl     : Long
  seq       : Word
  flags     : BitVec 9
  isOpen    : Bool
  openQ     : Long
  openE     : Long
  openStart : Tick
  openTicks : Word
  openNum   : Word
  lastQ     : Long
  lastE     : Long
  lastEnd   : Tick
  lastTicks : Word
  lastCode  : Byte
  lastFlags : BitVec 9
  resQ      : Nat
  resE      : Nat
  deriving DecidableEq, Repr

/-- Metrology of a channel: source (0 own, 1 IBX0, 2 IBX1), successive overloaded ticks (R276), the last valid v_tick
(R303), the current mean and increment of the last tick, the SAR samples of the tick (R302) and the snapshot of
`CH_LDATA`. `vOvld`: the last tick of the voltage source was overloaded; `exAge`: ticks since one was excluded (R307);
`ask`: a range asked for by a register write, which the next boundary sees (R275). -/
structure ChMet where
  src     : Fin 3
  vsrc    : Fin 3
  ovld    : Nat
  vOvld   : Bool
  exAge   : Nat
  ask     : Option (Fin 4)
  vTick   : Int
  dqInt   : Int
  excl    : Bool
  exclTick : Bool
  pulsed  : Bool
  sarSum  : Int
  sarN    : Nat
  trkN    : Nat
  trkMin  : Int
  trkMax  : Int
  snap    : List Word
  temp    : Int
  tempOk  : Bool
  deriving DecidableEq, Repr

/-- The telemetry accumulators of a channel since the last report boundary (R317, R318); `ns` is the time in ns. -/
structure Tlm where
  q       : Int
  vSum    : Int
  vN      : Nat
  ns      : Nat
  sarSub  : Nat
  iMax    : Option Int
  iMin    : Option Int
  vMax    : Option Int
  vMin    : Option Int
  derated : Bool
  balanced : Bool
  excl    : Bool
  foldback : Bool
  deriving DecidableEq, Repr

/-- The state of one end-condition evaluator (R387 to R390). `cnt`: the confirmation count. `n`, `sum`, `samples`:
ticks, sum and valid samples of the window in progress. `prev`: the mean of the last window, while it is consecutive.
`hits`: successive evaluations within the threshold. `kT0`, `kB0`, `t0`: values of the window's first tick (R389). -/
structure EcS where
  cnt     : Nat
  n       : Nat
  sum     : Int
  samples : Nat
  prev    : Option Int
  hits    : Nat
  peak    : Option Int
  bad     : Bool
  kT0     : Nat
  kB0     : Nat
  t0      : Int
  dqs     : List Int
  fired   : Bool
  deriving DecidableEq, Repr

/-- How far the end of a step has come: a failure that waits for the close of its entry, a decision of this tick, or a
decision whose boundary has come (R54). -/
inductive EndAt where
  | fail | decided | due
  deriving DecidableEq, Repr

/-- The way the running step is bound to end. -/
structure Ending where
  reason : Nat
  detail : Nat
  at_    : EndAt
  deriving DecidableEq, Repr

/-- One window of DCIR (R369): the sum of v_tick in µV, the sum of dq_int in nC, the ticks and an excluded tick. -/
structure DcirWin where
  v    : Int
  q    : Int
  n    : Nat
  excl : Bool
  deriving DecidableEq, Repr

/-- What the demodulation of EIS holds (R373 to R376): the tick of the excitation, the tone period, and the sums in
fixed point of R375. -/
structure EisS where
  on     : Bool
  k      : Nat
  pt     : Nat
  vRe    : Int
  vIm    : Int
  iRe    : Int
  iIm    : Int
  vSum   : Int
  wait   : Nat
  src0   : Nat
  flags  : Nat
  deriving DecidableEq, Repr

/-- An UPDATE that waits for its boundary (R354): its descriptor, its queue count and whether the boundary has come. -/
structure Upd where
  desc : StepDesc
  cnt  : Nat
  due  : Bool
  deriving DecidableEq, Repr

/-- The running step of a channel: its descriptor as UPDATEs left it, queue index, tick period at its begin (R336),
ticks since it began (R393) and phase (R409). `ss`: a soft start waits or runs, over `ssLen` ticks, `ssT` done (R347).
`rampLen`, `rampT`, `rampI`: the ramp to zero of R350; `off`: the gates have gone off after it. `tgt`, `frac`: target in
force with its fraction, `tgt0`, `frac0` before this boundary; `goal` its goal (R351). `iset`: current of the pulse in
progress (R364). `toFired`: the recipe timer expired, with its reason; `impl`: the implicit end was reached. `armed`:
`T_HOLD` of NICHG is over; `kWas`: k_T < 1 in the last tick; `kLt`, `bal`, `ccT`: ticks with k_T < 1, scaled, in the CC
phase. `pt`: ticks of the phase. `sum`, `n`, `vMin`, `vMax`: rest sample or OCV; `hist`: v_tick of the last `T_MEAS` of
OCV, none where excluded; `ocv`, `slope`, `settleT`, `finished`: its windows, last slope, settle time and whether its
measurement ended. `w0`, `wf`, `w1`: the DCIR windows. `upd`: an UPDATE in progress. -/
structure Run where
  desc     : StepDesc
  idx      : Nat
  per      : Nat
  ticks    : Nat
  phase    : Nat
  ss       : Bool
  ssLen    : Nat
  ssT      : Nat
  rampLen  : Nat
  rampT    : Nat
  rampI    : Int
  off      : Bool
  tgt      : Int
  frac     : Nat
  tgt0     : Int
  frac0    : Nat
  goal     : Int
  iset     : Int
  ecs      : Vector EcS 4
  ending   : Option Ending
  toFired  : Option Nat
  impl     : Bool
  revoked  : Bool
  armed    : Bool
  kWas     : Bool
  kLt      : Nat
  bal      : Nat
  ccT      : Nat
  cycles   : Nat
  rest     : Int
  gap      : Nat
  gapEntry : Bool
  pt       : Nat
  sum      : Int
  n        : Nat
  vMin     : Int
  vMax     : Int
  hist     : List (Option Int)
  ocv      : EcS
  slope    : Int
  settleT  : Nat
  finished : Bool
  w0       : Option DcirWin
  wf       : Option DcirWin
  w1       : Option DcirWin
  eis      : EisS
  upd      : Option Upd
  deriving DecidableEq, Repr

/-- The channel states of R329. -/
inductive ChSt where
  | idle | active | gap | hold | member
  deriving DecidableEq, Repr

/-- The sequencer's state of a channel. `rate`: the slew rate in force (R353). `vref`, `xset`: the voltage target and
the power or resistance target in force, `vref0` and `xset0` the same before this boundary, `lkind` the kind of law of
the last step that drove current (R352). `short`: the sum and the confirmation charge of the check of R348 in progress.
`cur`: the queue count of the descriptor that a transition leads to, `gapT` the gap ticks so far. `armed`: the pre-armed
queue position (R71). `late`: a failure that met the step at its due boundary, which the step that follows takes (R57).
`wind`: the ramp to zero after a step that ended without a failure and whose channel entered HOLD: its length, the ticks
done and the current it starts from (R152). `lead`: the leader of the gang, `size` its size. -/
structure ChanS where
  st      : ChSt
  why     : Nat
  run     : Option Run
  rate    : Int
  vref    : Option Int
  xset    : Option Int
  vref0   : Option Int
  xset0   : Option Int
  lkind   : Nat
  short   : Option (Int × Nat)
  armed   : Option Nat
  prearm  : Bool
  cur     : Nat
  gapT    : Nat
  resume  : Bool
  late    : Option (Nat × Nat)
  wind    : Option (Nat × Nat × Int)
  lead    : Option Ch
  size    : Nat
  deriving DecidableEq, Repr

/-- A channel. The ledger stands here and in its two copies in the always-on domain (R309). -/
structure Chan where
  stage   : Stage
  loop    : LoopS
  met     : ChMet
  ledger  : Ledger
  copyA   : Ledger
  copyB   : Ledger
  crcA    : Bool
  crcB    : Bool
  tlm     : Tlm
  seq     : ChanS
  deriving DecidableEq, Repr

/-- One trace entry: probe, index, value (R255). -/
structure TrEnt where
  probe : Nat
  index : Nat
  value : Int
  deriving DecidableEq, Repr

/-- What a pending profile command does at its deciding boundary (R220). -/
inductive PCmd where
  | load (slot : Fin 8) (p : Prof) (rsv : Bool) (adm : Option AdmHdr)
  | invalidate (slot : Fin 8)
  deriving DecidableEq, Repr

/-- A quad: its profile slots, the command waiting for its decision, the trace (sparse, sorted), the post count left,
and whether a probe has written in this tick (R259). -/
structure QuadS where
  slots : Vector (Option Prof) 8
  pcmd  : Option PCmd
  trace : List TrEnt
  post  : Nat
  wrote : Bool
  resetting : Bool
  deriving DecidableEq, Repr

/-! ### Metrology of the device (05) -/

/-- The states of a spare (R289), in their codes. -/
inductive IbxSt where
  | idle | selfCal | settling | shadowing | carrying | returning | substituting | withdrawn
  deriving DecidableEq, Repr

/-- The compare of an overlap (R292, R293): ticks and clocks compared, the difference of the converted sums in 10^-8 nV
times clocks, and the ticks of the window in which the incoming converter was overloaded. -/
structure Cmpr where
  n    : Nat
  clk  : Nat
  diff : Int
  ovl  : Nat
  deriving DecidableEq, Repr

/-- A spare: state, whether it serves a range change, target index, range it measures in (4: voltage), ticks in the
state, whether the compare passed so that the source changes at the boundary, whether the working converter has been
calibrated once more (R296), and the target of its last mismatch. `fresh`: the change it serves began at this boundary
(R301). `short`: the overlap under way is one of 64 ticks whatever `OVL` says (R297, R300). `old`: the occupancy belongs
to the round before (R290). -/
structure Spare where
  st      : IbxSt
  rc      : Bool
  target  : Fin 32
  rng     : Fin 5
  t       : Nat
  passed  : Bool
  skip    : Bool
  again   : Bool
  calNext : Nat
  lastBad : Option (Fin 32)
  cmp     : Cmpr
  fresh   : Bool
  short   : Bool
  old     : Bool
  deriving DecidableEq, Repr

/-- A pair of calibration constants of a converter in a range (R278, R280): G − 1 in 0.01 ppm, O referred to the
input in nV, its source, and the age in ns (R328), suspect, and a failure the last time (R282). -/
structure CalK where
  conv    : Nat
  rng     : Nat
  gdev    : Int
  ofs     : Int
  src     : Nat
  age     : Nat
  suspect : Bool
  failed  : Bool
  deriving DecidableEq, Repr

/-- A range request waiting (R301); `auto`: by the automatic up-range (R276, R298); `seen`: the tick that began at the
boundary at which the device saw it. -/
structure RngReq where
  ch   : Ch
  rng  : Fin 4
  auto : Bool
  seen : Nat
  deriving DecidableEq, Repr

/-- Metrology of the device. `cal` lists the constants that differ from the OTP values; `newCal` those that wait for
their converter to become a source (R283). `selfOk`: the converters have passed their self-test (R270). `otpLoaded`: the
calibration RAM has been loaded from OTP (R280). `taken`: the working converters that this round has taken (R289); `rotT`:
ticks since it began, `ended`: it has ended; `oldT`: ticks since the round before began, while that has not ended (R290). -/
structure MetS where
  spares  : Vector Spare 2
  reqs    : List RngReq
  cal     : List CalK
  newCal  : List CalK
  selfOk  : Bool
  otpLoaded : Bool
  taken   : BitVec 32
  rotT    : Nat
  ended   : Bool
  oldT    : Option Nat
  goodRef : Nat
  frozen  : Bool
  vbSar   : Int
  vbPrec  : Int
  sarGain : Vector Int 16
  sarOfs  : Vector Int 16
  kbal    : Vector Nat 4
  kbalNew : Vector Nat 4
  deriving DecidableEq, Repr

/-! ### Faults, comparators, safety, modes (02, 10, 11) -/

/-- A source of the collector (R669): the channels in which it is active and in which its condition holds (bit 0 for a
source without channels), its record, its raise count and its reaction, coded as `FLT_REACT.REACT`. -/
structure SrcS where
  act   : BitVec 16
  cond  : BitVec 16
  recd  : Bool
  cnt   : Nat
  react : Nat
  deriving DecidableEq, Repr

/-- The snapshot of R694: trigger, triggering source, tick, mode code and ring position at the trigger, and the bodies
of the FAULT, REGS and CPU sections as words. -/
structure Snap where
  trigger : Nat
  first   : Nat
  tick    : Nat
  mode    : Nat
  pos     : Nat
  fault   : List Word
  regs    : List Word
  cpu     : List Word
  deriving DecidableEq, Repr

/-- The collector beyond its registers. `copying`: the snapshot engine runs (R694), with the cause of the CHIP reset
that waits for it. `acked`: the last DONE has been acknowledged (R699). `inj`: the source whose rails FLT_INJ asserts
for one tick. `errHold`: ticks of the 1 ms minimum left (R686). -/
structure FltS where
  srcs    : Vector SrcS 128
  snap    : Option Snap
  copying : Bool
  chipDue : Option Nat
  acked   : Bool
  tooSmall : Bool
  inj     : Option Src
  errHold : Nat
  deriving DecidableEq, Repr

/-- A comparator: unfiltered output, filtered output, initial tripped state, latched bit (R687 to R691). -/
structure CmpS where
  raw  : Bool
  filt : Bool
  init : Bool
  lat  : Bool
  deriving DecidableEq, Repr

/-- A chopper: the tick since which it has been on, and its on-intervals of the last second in ticks, the latest first
(R609, R635). -/
structure Duty where
  since : Option Nat
  log   : List (Nat × Nat)
  deriving DecidableEq, Repr

/-- A transaction as the compare buffer holds it (R647): out of its lanes; `data` of a store or an output. -/
structure SafEnt where
  acc  : SafAcc
  addr : Word
  be   : BitVec 4
  attr : Byte
  data : Word
  deriving DecidableEq, Repr

/-- What SAF and the hardware beside it hold (10). `okSince`: for SF1 to SF7, the tick from which the clearing
condition of R626 has held. `toggled`: a counting toggle made after every cause cleared (R89). `sf6Q`: the SF6
charge in 10^-21 C (R637), `sf6T` its charging time in ns, `sf6Acc` the sums of this cycle. `due`:
the software sources, with a channel, that pass A found and pass B has still to release (R648). `passAt`: the tick in
which the pass in progress began (R52). `menAt`: the tick at which MEN
was lowered by an SS1 stop. `memA`, `memB`: the halves of the data memory (R646), by word, rising, words of 0 not listed.
`bufA`, `bufB`: the transactions of the two passes (R647), `logA`, `logB`: their input reads (R649), `sigA`: the fetch
signature of pass A. `injT`: ns since the last passed injection test. -/
structure SafS where
  cen      : Bool
  ien      : Bool
  men      : Bool
  kdr      : Bool
  kEdge    : Nat
  kChecked : Bool
  kfbA     : Bool
  kfbB     : Bool
  kfbSince : Option Nat
  kDropAt  : Option Nat
  estA     : Bool
  estB     : Bool
  estSeenA : Bool
  estSeenB : Bool
  tray     : Bool
  trayOpen : Option Nat
  trayIso  : Bool
  drvEn    : Bool
  okSince  : Vector (Option Nat) 7
  toggled  : Bool
  ss1      : Option (Nat × Nat)
  menAt    : Option Nat
  vOver    : Nat
  temp     : Vector (Option Int) 16
  tOver    : Vector Nat 16
  tBad     : Vector Nat 16
  iOver    : Vector Nat 16
  iPeak    : Vector Nat 16
  vPeak    : Vector Int 16
  sf6Q     : Vector Int 16
  sf6T     : Vector Nat 16
  sf6Acc   : Vector Int 16
  pset     : List Word
  psetNew  : Option (List Word)
  beta     : Nat
  rnom     : Nat
  pass     : Nat
  passAt   : Nat
  missed   : Nat
  cycle    : Nat
  skews    : List (Nat × Nat)
  skewRun  : Nat
  brkb     : Duty
  brkbForce : Bool
  due      : List (Nat × Nat)
  memA     : List (Nat × BitVec 40)
  memB     : List (Nat × BitVec 40)
  bufA     : List SafEnt
  bufB     : List SafEnt
  logA     : List (Byte × Word)
  logB     : List (Byte × Word)
  sigA     : Word
  injT     : Nat
  deriving DecidableEq, Repr

/-- The reset kinds that pass through BOOT, weakest first (R18). -/
inductive RstKind where
  | warm | chip | pin | por
  deriving DecidableEq, Repr

/-- What the supplies and the pins outside the safety inputs are. -/
structure Pins where
  vin    : Bool
  rails  : List Rail
  vdrv   : Bool
  rstN   : Bool
  perstN : Bool
  deriving DecidableEq, Repr

/-- Mode, transition, resets and clocks beyond the SYS registers. `held`: the internal reset is asserted, with the kind
that asserted it. `parkDone`: step 3 of R97 has ended; the wake event that came since waits in `wake`. `ppt`, `tlm`:
`PPT` and `TLM_DIV` in force (R753). `perNew`: the announced period with the ticks left. `parkHist`: the park-tick
samples of each sampled comparator, the latest first (R102). `tickOut`: `TICK_OUT` runs (R788). `alignDev`: the
deviation of the tick with its ring (R68, R521). `nak`: the announced period has been refused (R493). `clk`, `cyc`: the
ticks, and the SYSCLK cycles up to the last boundary, that have passed whatever number the tick carries (R66): intervals
are measured with them. -/
structure SysS where
  mode     : Mode
  trans    : Option Mode
  held     : Option RstKind
  bootFail : Bool
  parkDone : Bool
  wake     : Option Nat
  tick     : Nat
  ppt      : Nat
  tlm      : Nat
  perNew   : Option (Nat × Nat)
  tickOut  : Bool
  holdover : Option Nat
  alignBad : Nat
  alignWas : Nat
  alignDev : Option (RingId × Int)
  alignOk  : Nat
  missedP  : Nat
  nak      : Bool
  clk      : Nat
  cyc      : Nat
  parkHist : List (List CmpLevel)
  deriving DecidableEq, Repr

/-- What the device sends outside: writes to host memory, read requests, MSI-X messages, data frames, EMPTY slots,
Pennants and safety PDUs on a ring as the octets between their ordered sets (R484), answers to reads, and wake bursts. -/
inductive Out where
  | hostWrite (addr : Nat) (bytes : List Byte)
  | hostRead (addr len : Nat)
  | msix (v : Fin 8)
  | frame (r : RingId) (bytes : List Byte)
  | slot (r : RingId) (bytes : Nat) (rsv : Option Pos)
  | pennant (r : RingId) (bytes : List Byte)
  | pdu (r : RingId) (bytes : List Byte)
  | answer (words : List Word)
  | unsupported
  | wake
  | span (r : RingId)
  | tap (v : Word)
  | tickOut
  | seqIrq (n : Nat)
  | lineAsk
  | nmi (owner n : Nat)
  deriving DecidableEq, Repr

/-! ### The ring (08) -/

/-- An EMPTY slot of a data region (R501): its bytes, and the position it is reserved for (`RSV` = 1). -/
structure RSlot where
  bytes : Nat
  rsv   : Option Pos
  deriving DecidableEq, Repr

/-- A frame sent that asks for an acknowledgement (R507, R508): ticks since it was sent, retransmissions made. -/
structure OutFr where
  frame : Frame
  age   : Nat
  tries : Nat
  deriving DecidableEq, Repr

/-- A REG outstanding on the head (R515, R516): position, frame, ticks since it was sent, sent again. -/
structure RegPend where
  pos   : Pos
  frame : Frame
  age   : Nat
  again : Bool
  deriving DecidableEq, Repr

/-- What a device keeps of the safety PDUs of one source (R660, R661, R663). -/
structure PduSeen where
  got  : Bool
  last : Pdu
  at_  : Nat
  deriving DecidableEq, Repr

/-- What the engine keeps of a ring input: successive ticks without a valid Pennant (R532), without a loss of lock or a
violation (R536), with a signal and no lock (R537), and the violations of the last 4,096 ticks with their ticks (R532). -/
structure LineS where
  miss  : Nat
  clean : Nat
  dark  : Nat
  codes : List (Nat × Nat)
  deriving DecidableEq, Repr

/-- The ring engine beyond its registers. `lock`: successive valid Pennants with consecutive tick numbers, and the last
of them (R482). `dly`: the delay of the device from the head on each ring as measured last (R521, R535). `ret`: the SAFEV of
the copies of the last Pennant that returned, with their rings, `sentV` the one that it was sent with (R491). `wrapOn`: the
ring is wrapped, as its head knows; `cross`: a copy has come back to it on the other ring (R525, R533). `uids`: positions
given by JOIN and the identifiers of their devices (R527). `wd`: the watchdogs of R662,
none while not armed. `left`: Pennants in which a tag's bit is still to be set (R495). `taken`: frames taken within
64 ticks (R509). `failed`: classes that send no more toward a destination (R508). `tagLog`: tags toward a destination
used within 64 ticks (R509). `rdq`, `rdLast`: RDREQs that wait for a tag on the head, the position served last (R429).
`wrapDue`: inputs whose wrap is made at the next boundary (R533). `burstT`, `quietTo`: ticks since the last wake burst,
the last tick of the ring cycles that it replaces (R540). -/
structure RingS where
  lock     : Vector (Nat × Nat) 2
  recent   : List Int
  tArr     : Option (RingId × Int)
  slots    : Vector (List RSlot) 2
  loopA    : Option Int
  loopB    : Option Int
  dly      : Vector (Option Int) 2
  line     : Vector LineS 2
  ret      : List (RingId × Nat)
  sentV    : Nat
  wrapOn   : Bool
  cross    : Bool
  uids     : List (Nat × Nat)
  cnt      : Vector Nat 64
  tgt      : Vector Nat 64
  left     : Vector Nat 64
  arrivals : List (Nat × Nat)
  pdus     : Vector PduSeen 32
  pduSeq   : Nat
  wd       : Vector (Option Nat) 2
  outq     : List Frame
  sent     : List OutFr
  taken    : List (Nat × Nat × Nat)
  failed   : List (Nat × Nat)
  tags     : Vector Nat 32
  tagLog   : List (Nat × Nat × Nat)
  rdq      : List Frame
  rdLast   : Nat
  wrapDue  : Vector Bool 2
  burstT   : Nat
  quietTo  : Option Nat
  placed   : Vector Nat 2
  spliceT  : Vector (Option Nat) 2
  regs     : List RegPend
  regrs    : List (Frame × Frame)
  reads    : List OutFr
  hop      : Nat
  hopRun   : Nat
  trainT   : Nat
  enumT    : Option Nat
  down     : Vector Bool 2
  onA      : Bool
  restored : List (Nat × Bool)
  unwrapAt : Option Nat
  bursts   : Nat
  resetting : Bool
  deriving DecidableEq, Repr

/-! ### The press (09) -/

/-- What the press holds after a command (R598). -/
inductive MotHold where
  | none
  | pos
  | force (f : Int)
  deriving DecidableEq, Repr

/-- The phases of a motion command: waiting for the start, moving on the profile, force loop, force ramp of RELEASE,
decelerating to the end state with the reason that completes the command. -/
inductive MotPh where
  | starting | move | force | ramp
  | stopping (reason : Nat)
  deriving DecidableEq, Repr

/-- The running motion command: its phase, ticks run, peak force, dwell ticks counted, following-error ticks (R593), the
force setpoint, the force at which a RELEASE began to ramp, and an SS1 stop that SAF asked for (R632). -/
structure MotCmd where
  desc  : MotionDesc
  idx   : Nat
  ph    : MotPh
  ticks : Nat
  peak  : Int
  dwell : Nat
  fe    : Nat
  fSet  : Int
  f0    : Int
  rampT : Nat
  ss1   : Bool
  deriving DecidableEq, Repr

/-- What a start is doing (R572 to R575). -/
inductive MotStart where
  | none | check | brake | align | ramp | springbok
  deriving DecidableEq, Repr

/-- MOT beyond its registers. `pPos`, `pVel`: the profile in 2^-40 counts and counts/tick; `acc` its deceleration in
counts/s² while a hold still brakes, `vmax` the clamp of the last command (R591). `fwd`: the rotor turns forward, the
sectors ascending; `tq`: the torque is positive; `tComm`: the time of the next commutation in ns (R562). `duty` in 2^-16
of the period, `iInt`, `sInt`, `fInt` the integrators in 2^-16 mA, 2^-12 mA and 2^-16 mrpm. `tzc`, `tzc1`, `tzc2`: the
last three crossing times in ns; `zcTaken`: the crossing of this sector is taken; `zcRun`, `missRun`: successive sectors
with and without one; `lostAt`: the last loss of sync. `ext` to `anchor`: the encoder (R586, R590), `frames` the counts
of the frames before the last, the latest first. `revN`, `revExt`, `revBad`: the gear check (R589). `demag`: the
demagnetisation window is open (R560); `tLast`, `secDur`: the last commutation and the duration of the sector before it
in ns; `iSum`, `iN`: the shunt samples of the sector (R564); `rampAt`, `rampN`: the beginning of the ramp of P2 in ns
and its steps (R575). `frameK`: the tick number at which the last frame began (R582). `tripLeg` to `lastTrip`:
short-circuit trips (R603, R605). `cut`: legs off for the rest of the period. `hsOff`: legs whose high-side driver is
held off (R552). -/
structure MotS where
  cmd      : Option MotCmd
  start    : MotStart
  startT   : Nat
  hold     : MotHold
  pPos     : Int
  pVel     : Int
  acc      : Nat
  vmax     : Nat
  duty     : Int
  iInt     : Int
  sInt     : Int
  fInt     : Int
  iCmd     : Int
  fwd      : Bool
  tq       : Bool
  tComm    : Option Int
  tzc      : Option Int
  tzc1     : Option Int
  tzc2     : Option Int
  zcTaken  : Bool
  zcRun    : Nat
  missRun  : Nat
  lostAt   : Option Nat
  ofsP     : List Int
  ofsN     : List Int
  ext      : Int
  rawPrev  : Nat
  hadFrame : Bool
  badRun   : Nat
  frames   : List Int
  frameN   : Nat
  still    : Nat
  cand     : Int
  run      : Nat
  anchor   : Nat
  latch    : Option Int
  revN     : Nat
  revExt   : Int
  revBad   : Nat
  demag    : Bool
  tLast    : Option Int
  secDur   : Option Int
  iSum     : Int
  iN       : Nat
  rampAt   : Int
  rampN    : Nat
  frameK   : Option Nat
  tripLeg  : Option Leg
  tripNow  : Bool
  tripRun  : Nat
  lastTrip : Option (Leg × Nat)
  bothOn   : List Nat
  cut      : List Leg
  hsOff    : List Leg
  gatesOff : Bool
  brkm     : Duty
  resetting : Bool
  deriving DecidableEq, Repr

/-! ### Boot, trust and debug (12, 13) -/

/-- The manifest in force: digest of its bytes 0–723 and of its images, and its header fields. -/
structure ImgSet where
  digest  : Digest
  seq     : Digest
  saf     : Digest
  mot     : Digest
  svn     : Byte
  auth    : Byte
  build   : Word
  advance : Bool
  slot    : Nat
  deriving DecidableEq, Repr

/-- OTP (R726) and what the security engine holds. -/
structure SecS where
  gradeM   : Bool
  uid      : Nat
  life     : Nat
  lifePend : Option Nat
  rbc      : Nat
  revoke   : BitVec 4
  ownerSet : Bool
  keys     : Vector Digest 4
  erased   : Bool
  img      : Option ImgSet
  staged   : Option (AdmHdr × ImgSet)
  attest   : Option (AdmHdr × Nat × List Word)
  deriving DecidableEq, Repr

/-- The state of the block. `regs` holds the register fields that have no other home, `written` the fields written that
are not in force yet (R753); `out` what was sent outside, the
latest first; `free` counts the free values taken. `pending` is the queue of commands, first in, first out. -/
structure State where
  pending : List Instr
  regs    : RegFile
  written : RegFile
  sys     : SysS
  pins    : Pins
  sec     : SecS
  host    : HostS
  ring    : RingS
  flt     : FltS
  cmp     : Vector CmpS 72
  saf     : SafS
  met     : MetS
  mot     : MotS
  ch      : Vector Chan 16
  qd      : Vector QuadS 4
  free    : Nat
  out     : List Out
  deriving DecidableEq, Repr

/-- Why the block would stop with a fault. -/
inductive Fault where
  /-- Raised by no command: no rule of the spec makes a command end the machine. Kept so that the type has a name for
  a stop; safe, since nothing produces it. -/
  | stuck
  deriving DecidableEq, Repr

/-- Why a command has no meaning. -/
inductive Refusal where
  /-- Raised by `exec` alone, for a command whose meaning is not written. Safe: the block does not go on. -/
  | notModelled (mnemonic : String)
  deriving DecidableEq, Repr

/-! ### After a power-on reset

Every field at the value its rule gives for reset; where no rule gives one, the value that the assumption log names. -/

/-- A queue with nothing fetched (R424). -/
def SubQ.reset : SubQ := ⟨0, 0, 0, none, false, []⟩

/-- The host interface after reset (R117, R472). -/
def HostS.reset : HostS where
  qs := Vector.replicate 18 SubQ.reset
  reads := []
  cbuf := []
  events := []
  cpqW := 0
  cpqC := 0
  evqW := 0
  evqC := 0
  tlrSeq := 0
  tlrC := 0
  msix := Vector.replicate 8 ⟨false, 0⟩
  sgen := 0
  fwd := Vector.replicate 32 none
  ask := []
  lineRd := []
  sumRd := false
  pollT := 0
  link := false
  bme := false
  msixEn := false
  xtag := false
  aerUr := false
  evqNote := false
  flight := none
  wrote := 0
  owed := []
  adm := none
  admFin := none
  resetAt := []
  latches := []
  heldAcc := []

/-- A stage with gates off and `ISOn` open (R205); k_T reads 1 (256). -/
def Stage.reset : Stage := ⟨false, false, .opened, false, none, false, none, 0, [], false, 0, 0, 256, false⟩

/-- All law states zero (R225). -/
def Law.zero : Law := ⟨0, 0, 0, 0, 0, 0, 0⟩

/-- A bank with nothing in it. -/
def Bank.zero : Bank := ⟨0, 0, 0, 0, 0, 0, 0, 0⟩

/-- No saturation (R216). -/
def Sat.none : Sat := ⟨.none, false⟩

/-- An open loop (R267): `LAST` reads 3. -/
def LoopS.reset : LoopS where
  closed := false
  swapped := false
  bank := false
  act := Bank.zero
  shd := Bank.zero
  law := Law.zero
  outer := Law.zero
  outerSat := Sat.none
  ck := none
  ckB := none
  icmd := 0
  icmd0 := 0
  oCmd := 0
  sh1 := none
  sh2 := none
  iGang := 0
  vRef := 0
  iFb := none
  fresh := false
  vOk := false
  held := false
  out1 := none
  out2 := none
  iEff := 0
  r := 0
  iA := 0
  vA := 0
  mB := 0
  iPrev := 0
  u0 := 0
  u1 := 0
  value := none
  loaded := 0
  done := false
  slot := false
  overran := false
  last := 3
  reason := 0
  k := 0
  feCnt := 0
  fe0 := 0
  feSusp := false
  rollbacks := 0
  overruns := 0
  checks := 0
  lastCheck := none

/-- A ledger lost at POR (R127): every word 0. -/
def Ledger.zero : Ledger :=
  ⟨0, 0, 0, 0, 0, 0, 0, 0, 0, false, 0, 0, 0, 0, 0, 0, 0, 0, 0, 0, 0, 0, 0⟩

/-- Metrology of a channel after reset (R326). -/
def ChMet.reset : ChMet where
  src := 0
  vsrc := 0
  ovld := 0
  vOvld := false
  exAge := 4000
  ask := none
  vTick := 0
  dqInt := 0
  excl := false
  exclTick := false
  pulsed := false
  sarSum := 0
  sarN := 0
  trkN := 0
  trkMin := 0
  trkMax := 0
  snap := []
  temp := 0
  tempOk := false

/-- No report interval begun. -/
def Tlm.reset : Tlm := ⟨0, 0, 0, 0, 0, none, none, none, none, false, false, false, false⟩

/-- HOLD with `HOLD_WHY` = 6 (R334, R409). -/
def ChanS.reset : ChanS where
  st := .hold
  why := 6
  run := none
  rate := 0
  vref := none
  xset := none
  vref0 := none
  xset0 := none
  lkind := 0
  short := none
  armed := none
  prearm := false
  cur := 0
  gapT := 0
  resume := false
  late := none
  wind := none
  lead := none
  size := 1

/-- A channel after a power-on reset. -/
def Chan.reset : Chan :=
  ⟨Stage.reset, LoopS.reset, ChMet.reset, Ledger.zero, Ledger.zero, Ledger.zero, false, false, Tlm.reset, ChanS.reset⟩

/-- A quad with empty slots and an empty trace. -/
def QuadS.reset : QuadS := ⟨Vector.replicate 8 none, none, [], 0, false, false⟩

/-- A spare in state 0. -/
def Spare.reset : Spare := ⟨.idle, false, 0, 0, 0, false, false, false, 0, none, ⟨0, 0, 0, 0⟩, false, false, false⟩

/-- Metrology of the device after a CHIP or stronger reset (R280). -/
def MetS.reset : MetS where
  spares := Vector.replicate 2 Spare.reset
  reqs := []
  cal := []
  newCal := []
  selfOk := false
  otpLoaded := false
  taken := BitVec.allOnes 32
  rotT := 0
  ended := true
  oldT := none
  goodRef := 0
  frozen := false
  vbSar := 0
  vbPrec := 0
  sarGain := Vector.replicate 16 0
  sarOfs := Vector.replicate 16 0
  kbal := Vector.replicate 4 256
  kbalNew := Vector.replicate 4 256

/-- The sources, none active, each with its default reaction. -/
def srcsReset : Vector SrcS 128 :=
  ⟨⟨(List.range 128).map (fun n => ⟨0, 0, false, 0, srcDefault n⟩)⟩, by simp⟩

/-- The collector after a CHIP or stronger reset (R117). -/
def FltS.reset : FltS := ⟨srcsReset, none, false, none, true, false, none, 0⟩

/-- The comparators: every one with a filter starts tripped (R691, R707); 64 to 66 have none. -/
def cmpReset : Vector CmpS 72 :=
  ⟨⟨(List.range 72).map (fun i => let t := !(decide (64 ≤ i ∧ i ≤ 66)); ⟨false, t, t, false⟩)⟩, by simp⟩

/-- SAF after a power-on reset: every enable low (R622), the default set in force. -/
def SafS.reset : SafS where
  cen := false
  ien := false
  men := false
  kdr := false
  kEdge := 0
  kChecked := true
  kfbA := false
  kfbB := false
  kfbSince := none
  kDropAt := none
  estA := false
  estB := false
  estSeenA := false
  estSeenB := false
  tray := false
  trayOpen := none
  trayIso := false
  drvEn := false
  okSince := Vector.replicate 7 none
  toggled := false
  ss1 := none
  menAt := none
  vOver := 0
  temp := Vector.replicate 16 none
  tOver := Vector.replicate 16 0
  tBad := Vector.replicate 16 0
  iOver := Vector.replicate 16 0
  iPeak := Vector.replicate 16 0
  vPeak := Vector.replicate 16 0
  sf6Q := Vector.replicate 16 0
  sf6T := Vector.replicate 16 0
  sf6Acc := Vector.replicate 16 0
  pset := psetDefault
  psetNew := none
  beta := 3950
  rnom := 1000
  pass := 0
  passAt := 0
  missed := 0
  cycle := 0
  skews := []
  skewRun := 0
  brkb := ⟨none, []⟩
  brkbForce := false
  due := []
  memA := []
  memB := []
  bufA := []
  bufB := []
  logA := []
  logB := []
  sigA := 0
  injT := 0

/-- The supplies good, `RST_N` high, the internal reset held since a power-on reset. -/
def Pins.reset : Pins := ⟨true, [], true, true, true⟩

/-- BOOT not begun: the internal reset of the power-on reset is held (R79, R122). -/
def SysS.reset : SysS where
  mode := .boot
  trans := none
  held := some .por
  bootFail := false
  parkDone := false
  wake := none
  tick := 0
  ppt := 0
  tlm := 250
  perNew := none
  tickOut := false
  holdover := none
  alignBad := 0
  alignWas := 0
  alignDev := none
  alignOk := 0
  missedP := 0
  nak := false
  clk := 0
  cyc := 0
  parkHist := []

/-- A PDU that stands for none received. -/
def Pdu.none : Pdu := ⟨0, 0, 0, 0, 0, 0, 0, false⟩

/-- The ring engine after reset: bypasses closed (R480), watchdogs not armed (R662). -/
def RingS.reset : RingS where
  lock := Vector.replicate 2 (0, 0)
  recent := []
  tArr := none
  slots := Vector.replicate 2 []
  loopA := none
  loopB := none
  dly := Vector.replicate 2 none
  line := Vector.replicate 2 ⟨0, 0, 0, []⟩
  ret := []
  sentV := 0
  wrapOn := false
  cross := false
  uids := []
  cnt := Vector.replicate 64 0
  tgt := Vector.replicate 64 0
  left := Vector.replicate 64 0
  arrivals := []
  pdus := Vector.replicate 32 ⟨false, Pdu.none, 0⟩
  pduSeq := 0
  wd := Vector.replicate 2 none
  outq := []
  sent := []
  taken := []
  failed := []
  tags := Vector.replicate 32 0
  tagLog := []
  rdq := []
  rdLast := 0
  wrapDue := Vector.replicate 2 false
  burstT := 0
  quietTo := none
  placed := Vector.replicate 2 0
  spliceT := Vector.replicate 2 none
  regs := []
  regrs := []
  reads := []
  hop := 0
  hopRun := 0
  trainT := 0
  enumT := none
  down := Vector.replicate 2 false
  onA := true
  restored := []
  unwrapAt := none
  bursts := 0
  resetting := false

/-- The press after a power-on reset: no torque, no command, the encoder unknown (R106, R586). -/
def MotS.reset : MotS where
  cmd := none
  start := .none
  startT := 0
  hold := .none
  pPos := 0
  pVel := 0
  acc := 0
  vmax := 0
  duty := 0
  iInt := 0
  sInt := 0
  fInt := 0
  iCmd := 0
  fwd := true
  tq := true
  tComm := none
  tzc := none
  tzc1 := none
  tzc2 := none
  zcTaken := false
  zcRun := 0
  missRun := 0
  lostAt := none
  ofsP := []
  ofsN := []
  ext := 0
  rawPrev := 0
  hadFrame := false
  badRun := 0
  frames := []
  frameN := 0
  still := 0
  cand := 0
  run := 0
  anchor := 0
  latch := none
  revN := 0
  revExt := 0
  revBad := 0
  demag := false
  tLast := none
  secDur := none
  iSum := 0
  iN := 0
  rampAt := 0
  rampN := 0
  frameK := none
  tripLeg := none
  tripNow := false
  tripRun := 0
  lastTrip := none
  bothOn := []
  cut := []
  hsOff := [.a, .b, .c]
  gatesOff := true
  brkm := ⟨none, []⟩
  resetting := false

/-- OTP as the log names it: a YLT1680-M in PROVISIONED (R728), nothing revoked. -/
def SecS.reset : SecS where
  gradeM := true
  uid := 0
  life := 1
  lifePend := none
  rbc := 0
  revoke := 0
  ownerSet := false
  keys := Vector.replicate 4 0
  erased := false
  img := none
  staged := none
  attest := none

/-- The block right after a power-on reset, its internal reset still held and its queue empty. -/
def State.reset : State where
  pending := []
  regs := []
  written := []
  sys := SysS.reset
  pins := Pins.reset
  sec := SecS.reset
  host := HostS.reset
  ring := RingS.reset
  flt := FltS.reset
  cmp := cmpReset
  saf := SafS.reset
  met := MetS.reset
  mot := MotS.reset
  ch := Vector.replicate 16 Chan.reset
  qd := Vector.replicate 4 QuadS.reset
  free := 0
  out := []

end Sys2Proof.Machine
end

