-- ==== Sys2Proof/Machine/Regs.lean ====
section
/-!
DEFINITION. The register fields of BAR0, as the field tables of the chapters give them: one name `REGISTER.FIELD` per
field, and for each offset the fields of its register. A reserved bit has no name (it reads 0, R15). Ranges are those
the field's Meaning states (R749).
-/

namespace Sys2Proof.Machine

/-- Reset value of `CMP_CFGi.WIN` (R688, R707): 7 for the safety comparators, 0 for 64 to 66, else 3. -/
def cmpWinRst (i : Nat) : Nat :=
  if 64 ≤ i ∧ i ≤ 66 then 0 else if (i < 64 ∧ 2 ≤ i % 4) ∨ i = 68 ∨ i = 69 then 7 else 3

/-- Reset value of `CMP_CFGi.THR` (R688, R707). -/
def cmpThrRst (i : Nat) : Nat :=
  if 64 ≤ i ∧ i ≤ 66 then 0 else if (i < 64 ∧ 2 ≤ i % 4) ∨ i = 68 ∨ i = 69 then 5 else 2


/-! ### SYS block (R754) -/

/-- R755, `SYS_ID` [0:0]. -/
def SYS_ID.ONE : Fld :=
  ⟨0x0, 0, 1, .ro, 1, .o, 0, 1⟩
/-- R755, `SYS_ID` [11:1]. -/
def SYS_ID.MFR : Fld :=
  ⟨0x0, 1, 11, .ro, 691, .o, 0, 2047⟩
/-- R755, `SYS_ID` [27:12]. -/
def SYS_ID.PART : Fld :=
  ⟨0x0, 12, 16, .ro, 5760, .o, 0, 65535⟩
/-- R755, `SYS_ID` [31:28]. -/
def SYS_ID.VER : Fld :=
  ⟨0x0, 28, 4, .ro, 1, .o, 0, 15⟩
/-- R755, `SYS_PART` [0:0]. -/
def SYS_PART.GRADE : Fld :=
  ⟨0x4, 0, 1, .ro, 0, .o, 0, 1⟩
/-- R755, `SYS_PART` [7:4]. -/
def SYS_PART.REV : Fld :=
  ⟨0x4, 4, 4, .ro, 1, .o, 0, 15⟩
/-- R755, `SYS_PART` [15:8]. -/
def SYS_PART.PKG : Fld :=
  ⟨0x4, 8, 8, .ro, 1, .o, 0, 255⟩
/-- R755, `SYS_UIDL` [31:0]. -/
def SYS_UIDL.UID_LO : Fld :=
  ⟨0x8, 0, 32, .ro, 0, .o, 0, 4294967295⟩
/-- R755, `SYS_UIDH` [31:0]. -/
def SYS_UIDH.UID_HI : Fld :=
  ⟨0xc, 0, 32, .ro, 0, .o, 0, 4294967295⟩
/-- R755, `SYS_PCIID` [15:0]. -/
def SYS_PCIID.VID : Fld :=
  ⟨0x10, 0, 16, .ro, 50266, .o, 0, 65535⟩
/-- R755, `SYS_PCIID` [31:16]. -/
def SYS_PCIID.DID : Fld :=
  ⟨0x10, 16, 16, .ro, 5760, .o, 0, 65535⟩
/-- R755, `SYS_STRAP` [1:0]. -/
def SYS_STRAP.ROLE : Fld :=
  ⟨0x14, 0, 2, .ro, 0, .b, 0, 3⟩
/-- R755, `SYS_STRAP` [3:2]. -/
def SYS_STRAP.BOOTSEL : Fld :=
  ⟨0x14, 2, 2, .ro, 0, .b, 0, 3⟩
/-- R756, `SYS_MODE` [3:0]. -/
def SYS_MODE.MODE : Fld :=
  ⟨0x18, 0, 4, .ro, 1, .none, 0, 15⟩
/-- R756, `SYS_MODE` [7:4]. -/
def SYS_MODE.TARGET : Fld :=
  ⟨0x18, 4, 4, .ro, 0, .none, 0, 15⟩
/-- R756, `SYS_MODE` [8:8]. -/
def SYS_MODE.TRANS : Fld :=
  ⟨0x18, 8, 1, .ro, 0, .none, 0, 1⟩
/-- R756, `SYS_RSTCAUSE` [7:0]. -/
def SYS_RSTCAUSE.CAUSE : Fld :=
  ⟨0x1c, 0, 8, .ro, 0, .b, 0, 255⟩
/-- R756, `SYS_RSTCAUSE` [10:8]. -/
def SYS_RSTCAUSE.WAKE : Fld :=
  ⟨0x1c, 8, 3, .ro, 0, .b, 0, 7⟩
/-- R756, `SYS_RSTCAUSE` [31:16]. -/
def SYS_RSTCAUSE.BOOTS : Fld :=
  ⟨0x1c, 16, 16, .ro, 0, .n, 0, 65535⟩
/-- R756, `SYS_LASTMODE` [3:0]. -/
def SYS_LASTMODE.LMODE : Fld :=
  ⟨0x20, 0, 4, .ro, 0, .n, 0, 15⟩
/-- R756, `SYS_LASTMODE` [4:4]. -/
def SYS_LASTMODE.VALID : Fld :=
  ⟨0x20, 4, 1, .ro, 0, .n, 0, 1⟩
/-- R756, `SYS_PARKTL` [31:0]. -/
def SYS_PARKTL.TICK_LO : Fld :=
  ⟨0x24, 0, 32, .ro, 0, .n, 0, 4294967295⟩
/-- R756, `SYS_PARKTH` [15:0]. -/
def SYS_PARKTH.TICK_HI : Fld :=
  ⟨0x28, 0, 16, .ro, 0, .n, 0, 65535⟩
/-- R756, `SYS_PARK` [0:0]. -/
def SYS_PARK.WAKE_TRAY : Fld :=
  ⟨0x2c, 0, 1, .rw, 1, .n, 0, 1⟩
/-- R756, `SYS_PARK` [1:1]. -/
def SYS_PARK.WAKE_VB : Fld :=
  ⟨0x2c, 1, 1, .rw, 1, .n, 0, 1⟩
/-- R756, `SYS_PARK` [2:2]. -/
def SYS_PARK.WAKE_RING : Fld :=
  ⟨0x2c, 2, 1, .rw, 1, .n, 0, 1⟩
/-- R756, `SYS_PARK` [3:3]. -/
def SYS_PARK.WAKE_RST : Fld :=
  ⟨0x2c, 3, 1, .rw, 1, .n, 0, 1⟩
/-- R756, `SYS_PARK` [31:16]. -/
def SYS_PARK.VB_TH : Fld :=
  ⟨0x2c, 16, 16, .rw, 10000, .n, 6000, 15000⟩
/-- R757, `SYS_TICK` [11:0]. -/
def SYS_TICK.PERIOD : Fld :=
  ⟨0x30, 0, 12, .rwl, 2000, .b, 1000, 4000⟩
/-- R757, `SYS_TICK` [12:12]. -/
def SYS_TICK.PPT : Fld :=
  ⟨0x30, 12, 1, .rwl, 0, .b, 0, 1⟩
/-- R757, `SYS_TICK` [31:16]. -/
def SYS_TICK.TLM_DIV : Fld :=
  ⟨0x30, 16, 16, .rwl, 250, .b, 250, 65535⟩
/-- R757, `SYS_TICKSTAT` [0:0]. -/
def SYS_TICKSTAT.PEND : Fld :=
  ⟨0x34, 0, 1, .ro, 0, .none, 0, 1⟩
/-- R757, `SYS_TICKSTAT` [15:8]. -/
def SYS_TICKSTAT.SWITCH : Fld :=
  ⟨0x34, 8, 8, .ro, 0, .none, 0, 255⟩
/-- R757, `SYS_TICKSTAT` [27:16]. -/
def SYS_TICKSTAT.INFORCE : Fld :=
  ⟨0x34, 16, 12, .ro, 2000, .none, 0, 4095⟩
/-- R757, `SYS_TICKL` [31:0]. -/
def SYS_TICKL.TICK_LO : Fld :=
  ⟨0x38, 0, 32, .ro, 0, .c, 0, 4294967295⟩
/-- R757, `SYS_TICKH` [15:0]. -/
def SYS_TICKH.TICK_HI : Fld :=
  ⟨0x3c, 0, 16, .ro, 0, .c, 0, 65535⟩
/-- R757, `SYS_CLK` [0:0]. -/
def SYS_CLK.LOCK : Fld :=
  ⟨0x40, 0, 1, .ro, 0, .none, 0, 1⟩
/-- R757, `SYS_CLK` [2:1]. -/
def SYS_CLK.REF : Fld :=
  ⟨0x40, 1, 2, .ro, 0, .none, 0, 3⟩
/-- R757, `SYS_CLK` [3:3]. -/
def SYS_CLK.XTAL : Fld :=
  ⟨0x40, 3, 1, .ro, 0, .none, 0, 1⟩
/-- R757, `SYS_CLK` [31:16]. -/
def SYS_CLK.STEER : Fld :=
  ⟨0x40, 16, 16, .ro, 0, .none, 0, 65535⟩
/-- R757, `SYS_CLKERR` [0:0]. -/
def SYS_CLKERR.CLK_LOST : Fld :=
  ⟨0x44, 0, 1, .w1c, 0, .w, 0, 1⟩
/-- R757, `SYS_CLKERR` [1:1]. -/
def SYS_CLKERR.REF_SWITCH : Fld :=
  ⟨0x44, 1, 1, .w1c, 0, .w, 0, 1⟩
/-- R757, `SYS_CLKERR` [2:2]. -/
def SYS_CLKERR.LOCK_LOSS : Fld :=
  ⟨0x44, 2, 1, .w1c, 0, .w, 0, 1⟩
/-- R760, `SYS_WERR` [15:0]. -/
def SYS_WERR.OFFSET : Fld :=
  ⟨0x48, 0, 16, .ro, 0, .w, 0, 65535⟩
/-- R760, `SYS_WERR` [19:16]. -/
def SYS_WERR.CODE : Fld :=
  ⟨0x48, 16, 4, .ro, 0, .w, 0, 15⟩
/-- R760, `SYS_WERR` [21:20]. -/
def SYS_WERR.PATH : Fld :=
  ⟨0x48, 20, 2, .ro, 0, .w, 0, 3⟩
/-- R760, `SYS_WERR` [23:23]. -/
def SYS_WERR.CLEAR : Fld :=
  ⟨0x48, 23, 1, .wo, 0, .none, 0, 1⟩
/-- R760, `SYS_WERR` [31:24]. -/
def SYS_WERR.COUNT : Fld :=
  ⟨0x48, 24, 8, .ro, 0, .w, 0, 255⟩
/-- R760, `SYS_SCRATCH` [31:0]. -/
def SYS_SCRATCH.DATA : Fld :=
  ⟨0x4c, 0, 32, .rw, 0, .b, 0, 4294967295⟩

/-! ### HOST block (R472) -/

/-- R473, `HOST_CTL` [17:0]. -/
def HOST_CTL.QEN : Fld :=
  ⟨0x1000, 0, 18, .rw, 0, .b, 0, 262143⟩
/-- R473, `HOST_CTL` [24:24]. -/
def HOST_CTL.CPQ_EN : Fld :=
  ⟨0x1000, 24, 1, .rw, 0, .b, 0, 1⟩
/-- R473, `HOST_CTL` [25:25]. -/
def HOST_CTL.EVQ_EN : Fld :=
  ⟨0x1000, 25, 1, .rw, 0, .b, 0, 1⟩
/-- R473, `HOST_CTL` [26:26]. -/
def HOST_CTL.TLR_EN : Fld :=
  ⟨0x1000, 26, 1, .rw, 0, .b, 0, 1⟩
/-- R473, `HOST_CTL` [27:27]. -/
def HOST_CTL.DB_EN : Fld :=
  ⟨0x1000, 27, 1, .rw, 0, .b, 0, 1⟩
/-- R473, `HOST_STAT` [0:0]. -/
def HOST_STAT.IS_HEAD : Fld :=
  ⟨0x1004, 0, 1, .ro, 0, .b, 0, 1⟩
/-- R473, `HOST_STAT` [1:1]. -/
def HOST_STAT.LINK : Fld :=
  ⟨0x1004, 1, 1, .ro, 0, .b, 0, 1⟩
/-- R473, `HOST_STAT` [2:2]. -/
def HOST_STAT.XTAG : Fld :=
  ⟨0x1004, 2, 1, .ro, 0, .b, 0, 1⟩
/-- R473, `HOST_STAT` [15:8]. -/
def HOST_STAT.RDOUT : Fld :=
  ⟨0x1004, 8, 8, .ro, 0, .b, 0, 255⟩
/-- R473, `HOST_STAT` [24:16]. -/
def HOST_STAT.CBUF : Fld :=
  ⟨0x1004, 16, 9, .ro, 0, .b, 0, 511⟩
/-- R473, `HOST_DBCFG` [8:0]. -/
def HOST_DBCFG.DB_POLL : Fld :=
  ⟨0x1008, 0, 9, .rw, 1, .b, 1, 256⟩
/-- R473, `HOST_ERR` [17:0]. -/
def HOST_ERR.QERR : Fld :=
  ⟨0x100c, 0, 18, .w1c, 0, .b, 0, 262143⟩
/-- R473, `HOST_ERR` [18:18]. -/
def HOST_ERR.CPQ_ERR : Fld :=
  ⟨0x100c, 18, 1, .w1c, 0, .b, 0, 1⟩
/-- R473, `HOST_ERR` [19:19]. -/
def HOST_ERR.EVQ_ERR : Fld :=
  ⟨0x100c, 19, 1, .w1c, 0, .b, 0, 1⟩
/-- R473, `HOST_ERR` [20:20]. -/
def HOST_ERR.TLR_ERR : Fld :=
  ⟨0x100c, 20, 1, .w1c, 0, .b, 0, 1⟩
/-- R473, `HOST_ERR` [24:24]. -/
def HOST_ERR.EVQ_OVF : Fld :=
  ⟨0x100c, 24, 1, .w1c, 0, .b, 0, 1⟩
/-- R473, `HOST_ERRINFO` [4:0]. -/
def HOST_ERRINFO.QUEUE : Fld :=
  ⟨0x1010, 0, 5, .ro, 0, .b, 0, 31⟩
/-- R473, `HOST_ERRINFO` [11:8]. -/
def HOST_ERRINFO.CODE : Fld :=
  ⟨0x1010, 8, 4, .ro, 0, .b, 0, 15⟩
/-- R473, `HOST_EVQLOST` [31:0]. -/
def HOST_EVQLOST.LOST : Fld :=
  ⟨0x1014, 0, 32, .ro, 0, .b, 0, 4294967295⟩
/-- R473, `HOST_TLMLOST` [31:0]. -/
def HOST_TLMLOST.TLM_LOST : Fld :=
  ⟨0x1018, 0, 32, .ro, 0, .b, 0, 4294967295⟩
/-- R473, `HOST_CHOLD` [15:0]. -/
def HOST_CHOLD.CH : Fld :=
  ⟨0x101c, 0, 16, .ro, 0, .b, 0, 65535⟩
/-- R473, `HOST_MSIXMOD` [3:0]. -/
def HOST_MSIXMOD.MOD0 : Fld :=
  ⟨0x1020, 0, 4, .rw, 0, .b, 0, 15⟩
/-- R473, `HOST_MSIXMOD` [7:4]. -/
def HOST_MSIXMOD.MOD1 : Fld :=
  ⟨0x1020, 4, 4, .rw, 0, .b, 0, 15⟩
/-- R473, `HOST_MSIXMOD` [11:8]. -/
def HOST_MSIXMOD.MOD2 : Fld :=
  ⟨0x1020, 8, 4, .rw, 0, .b, 0, 15⟩
/-- R473, `HOST_MSIXMOD` [15:12]. -/
def HOST_MSIXMOD.MOD3 : Fld :=
  ⟨0x1020, 12, 4, .rw, 0, .b, 0, 15⟩
/-- R473, `HOST_MSIXMOD` [19:16]. -/
def HOST_MSIXMOD.MOD4 : Fld :=
  ⟨0x1020, 16, 4, .rw, 0, .b, 0, 15⟩
/-- R473, `HOST_MSIXMOD` [23:20]. -/
def HOST_MSIXMOD.MOD5 : Fld :=
  ⟨0x1020, 20, 4, .rw, 0, .b, 0, 15⟩
/-- R473, `HOST_MSIXMOD` [27:24]. -/
def HOST_MSIXMOD.MOD6 : Fld :=
  ⟨0x1020, 24, 4, .rw, 0, .b, 0, 15⟩
/-- R473, `HOST_MSIXMOD` [31:28]. -/
def HOST_MSIXMOD.MOD7 : Fld :=
  ⟨0x1020, 28, 4, .rw, 0, .b, 0, 15⟩
/-- R474, `HOST_CPQBLO` [31:12]. -/
def HOST_CPQBLO.BASE : Fld :=
  ⟨0x1040, 12, 20, .rw, 0, .b, 0, 1048575⟩
/-- R474, `HOST_CPQBHI` [31:0]. -/
def HOST_CPQBHI.BASE : Fld :=
  ⟨0x1044, 0, 32, .rw, 0, .b, 0, 4294967295⟩
/-- R474, `HOST_CPQCFG` [4:0]. -/
def HOST_CPQCFG.LOG2 : Fld :=
  ⟨0x1048, 0, 5, .rw, 6, .b, 6, 14⟩
/-- R474, `HOST_CPQPOS` [15:0]. -/
def HOST_CPQPOS.COUNT : Fld :=
  ⟨0x104c, 0, 16, .ro, 0, .b, 0, 65535⟩
/-- R474, `HOST_EVQBLO` [31:12]. -/
def HOST_EVQBLO.BASE : Fld :=
  ⟨0x1050, 12, 20, .rw, 0, .b, 0, 1048575⟩
/-- R474, `HOST_EVQBHI` [31:0]. -/
def HOST_EVQBHI.BASE : Fld :=
  ⟨0x1054, 0, 32, .rw, 0, .b, 0, 4294967295⟩
/-- R474, `HOST_EVQCFG` [4:0]. -/
def HOST_EVQCFG.LOG2 : Fld :=
  ⟨0x1058, 0, 5, .rw, 4, .b, 4, 14⟩
/-- R474, `HOST_EVQPOS` [15:0]. -/
def HOST_EVQPOS.COUNT : Fld :=
  ⟨0x105c, 0, 16, .ro, 0, .b, 0, 65535⟩
/-- R474, `HOST_TLRBLO` [31:12]. -/
def HOST_TLRBLO.BASE : Fld :=
  ⟨0x1060, 12, 20, .rw, 0, .b, 0, 1048575⟩
/-- R474, `HOST_TLRBHI` [31:0]. -/
def HOST_TLRBHI.BASE : Fld :=
  ⟨0x1064, 0, 32, .rw, 0, .b, 0, 4294967295⟩
/-- R474, `HOST_TLRCFG` [4:0]. -/
def HOST_TLRCFG.LOG2 : Fld :=
  ⟨0x1068, 0, 5, .rw, 6, .b, 6, 16⟩
/-- R474, `HOST_TLRPOS` [31:0]. -/
def HOST_TLRPOS.REPSEQ : Fld :=
  ⟨0x106c, 0, 32, .ro, 0, .b, 0, 4294967295⟩
/-- R474, `HOST_DBBLO` [31:11]. -/
def HOST_DBBLO.BASE : Fld :=
  ⟨0x1070, 11, 21, .rw, 0, .b, 0, 2097151⟩
/-- R474, `HOST_DBBHI` [31:0]. -/
def HOST_DBBHI.BASE : Fld :=
  ⟨0x1074, 0, 32, .rw, 0, .b, 0, 4294967295⟩
/-- R474, `HOST_SUMLO` [31:6]. -/
def HOST_SUMLO.ADDR : Fld :=
  ⟨0x1078, 6, 26, .rw, 0, .b, 0, 67108863⟩
/-- R474, `HOST_SUMHI` [31:0]. -/
def HOST_SUMHI.BASE : Fld :=
  ⟨0x107c, 0, 32, .rw, 0, .b, 0, 4294967295⟩
/-- R472, `HOST_MSIXPBA` [7:0]. -/
def HOST_MSIXPBA.PBA : Fld :=
  ⟨0x1880, 0, 8, .ro, 0, .b, 0, 255⟩
/-- R474, `HOST_QBLO` [31:12]. -/
def HOST_QBLO.BASE (n : QId) : Fld :=
  ⟨0x1100 + 16 * n.val, 12, 20, .rw, 0, .b, 0, 1048575⟩
/-- R474, `HOST_QBHI` [31:0]. -/
def HOST_QBHI.BASE (n : QId) : Fld :=
  ⟨0x1104 + 16 * n.val, 0, 32, .rw, 0, .b, 0, 4294967295⟩
/-- R474, `HOST_QCFG` [4:0]. -/
def HOST_QCFG.LOG2 (n : QId) : Fld :=
  ⟨0x1108 + 16 * n.val, 0, 5, .rw, 4, .b, 4, 12⟩
/-- R474, `HOST_QSTAT` [15:0]. -/
def HOST_QSTAT.FETCHED (n : QId) : Fld :=
  ⟨0x110c + 16 * n.val, 0, 16, .ro, 0, .b, 0, 65535⟩
/-- R474, `HOST_QSTAT` [31:16]. -/
def HOST_QSTAT.DONE (n : QId) : Fld :=
  ⟨0x110c + 16 * n.val, 16, 16, .ro, 0, .b, 0, 65535⟩
/-- R472, `HOST_MSIXTAB` [31:0]. -/
def HOST_MSIXTAB.TABLE (n : Fin 32) : Fld :=
  ⟨0x1800 + 4 * n.val, 0, 32, .rw, if n.val % 4 = 3 then 1 else 0, .b, 0, 4294967295⟩

/-! ### RING block (R546) -/

/-- R547, `RING_CTL` [0:0]. -/
def RING_CTL.ENUM : Fld :=
  ⟨0x2000, 0, 1, .wo, 0, .none, 0, 1⟩
/-- R547, `RING_CTL` [4:4]. -/
def RING_CTL.LATE_OK : Fld :=
  ⟨0x2000, 4, 1, .rw, 1, .b, 0, 1⟩
/-- R547, `RING_STAT` [1:0]. -/
def RING_STAT.STATE : Fld :=
  ⟨0x2004, 0, 2, .ro, 0, .none, 0, 3⟩
/-- R547, `RING_STAT` [2:2]. -/
def RING_STAT.HEAD : Fld :=
  ⟨0x2004, 2, 1, .ro, 0, .none, 0, 1⟩
/-- R547, `RING_STAT` [3:3]. -/
def RING_STAT.LATE : Fld :=
  ⟨0x2004, 3, 1, .ro, 0, .c, 0, 1⟩
/-- R547, `RING_STAT` [8:4]. -/
def RING_STAT.POS : Fld :=
  ⟨0x2004, 4, 5, .ro, 0, .c, 0, 31⟩
/-- R547, `RING_STAT` [14:9]. -/
def RING_STAT.NPOS : Fld :=
  ⟨0x2004, 9, 6, .ro, 0, .none, 0, 63⟩
/-- R547, `RING_STAT` [15:15]. -/
def RING_STAT.POS_VALID : Fld :=
  ⟨0x2004, 15, 1, .ro, 0, .c, 0, 1⟩
/-- R547, `RING_STAT` [16:16]. -/
def RING_STAT.LINKA : Fld :=
  ⟨0x2004, 16, 1, .ro, 0, .none, 0, 1⟩
/-- R547, `RING_STAT` [17:17]. -/
def RING_STAT.LINKB : Fld :=
  ⟨0x2004, 17, 1, .ro, 0, .none, 0, 1⟩
/-- R547, `RING_STAT` [18:18]. -/
def RING_STAT.BYPA : Fld :=
  ⟨0x2004, 18, 1, .ro, 1, .none, 0, 1⟩
/-- R547, `RING_STAT` [19:19]. -/
def RING_STAT.BYPB : Fld :=
  ⟨0x2004, 19, 1, .ro, 1, .none, 0, 1⟩
/-- R547, `RING_STAT` [20:20]. -/
def RING_STAT.WRAPA : Fld :=
  ⟨0x2004, 20, 1, .ro, 0, .none, 0, 1⟩
/-- R547, `RING_STAT` [21:21]. -/
def RING_STAT.WRAPB : Fld :=
  ⟨0x2004, 21, 1, .ro, 0, .none, 0, 1⟩
/-- R547, `RING_DCFG` [3:0]. -/
def RING_DCFG.RTO : Fld :=
  ⟨0x2008, 0, 4, .rw, 4, .b, 2, 15⟩
/-- R547, `RING_DCFG` [7:4]. -/
def RING_DCFG.RETRIES : Fld :=
  ⟨0x2008, 4, 4, .rw, 3, .b, 1, 7⟩
/-- R547, `RING_DCFG` [15:8]. -/
def RING_DCFG.RDTO : Fld :=
  ⟨0x2008, 8, 8, .rw, 8, .b, 4, 255⟩
/-- R547, `RING_DLY` [15:0]. -/
def RING_DLY.DA : Fld :=
  ⟨0x200c, 0, 16, .ro, 0, .none, 0, 65535⟩
/-- R547, `RING_DLY` [23:16]. -/
def RING_DLY.FWD : Fld :=
  ⟨0x200c, 16, 8, .ro, 0, .none, 0, 255⟩
/-- R547, `RING_LOOP` [15:0]. -/
def RING_LOOP.LOOP : Fld :=
  ⟨0x2010, 0, 16, .ro, 0, .none, 0, 65535⟩
/-- R547, `RING_LOOP` [31:16]. -/
def RING_LOOP.ALIGN : Fld :=
  ⟨0x2010, 16, 16, .ro, 0, .none, 0, 65535⟩
/-- R548, `RING_ERR` [0:0]. -/
def RING_ERR.LOCK_A : Fld :=
  ⟨0x2014, 0, 1, .w1c, 0, .b, 0, 1⟩
/-- R548, `RING_ERR` [1:1]. -/
def RING_ERR.LOCK_B : Fld :=
  ⟨0x2014, 1, 1, .w1c, 0, .b, 0, 1⟩
/-- R548, `RING_ERR` [2:2]. -/
def RING_ERR.SPAN_FAIL : Fld :=
  ⟨0x2014, 2, 1, .w1c, 0, .b, 0, 1⟩
/-- R548, `RING_ERR` [3:3]. -/
def RING_ERR.WRAPPED : Fld :=
  ⟨0x2014, 3, 1, .w1c, 0, .b, 0, 1⟩
/-- R548, `RING_ERR` [4:4]. -/
def RING_ERR.DATA_FAIL : Fld :=
  ⟨0x2014, 4, 1, .w1c, 0, .b, 0, 1⟩
/-- R548, `RING_ERR` [5:5]. -/
def RING_ERR.REG_TMO : Fld :=
  ⟨0x2014, 5, 1, .w1c, 0, .b, 0, 1⟩
/-- R548, `RING_ERR` [6:6]. -/
def RING_ERR.UNMAPPED : Fld :=
  ⟨0x2014, 6, 1, .w1c, 0, .b, 0, 1⟩
/-- R548, `RING_ERR` [7:7]. -/
def RING_ERR.JOIN_REFUSED : Fld :=
  ⟨0x2014, 7, 1, .w1c, 0, .b, 0, 1⟩
/-- R548, `RING_ERR` [8:8]. -/
def RING_ERR.LEAVE : Fld :=
  ⟨0x2014, 8, 1, .w1c, 0, .b, 0, 1⟩
/-- R548, `RING_ERR` [9:9]. -/
def RING_ERR.TICK_ALIGN : Fld :=
  ⟨0x2014, 9, 1, .w1c, 0, .b, 0, 1⟩
/-- R548, `RING_ERR` [10:10]. -/
def RING_ERR.PERIOD_NAK : Fld :=
  ⟨0x2014, 10, 1, .w1c, 0, .b, 0, 1⟩
/-- R547, `RING_PRESENT` [31:0]. -/
def RING_PRESENT.PRES : Fld :=
  ⟨0x2018, 0, 32, .ro, 0, .none, 0, 4294967295⟩
/-- R547, `RING_WAKE` [7:0]. -/
def RING_WAKE.COUNT : Fld :=
  ⟨0x201c, 0, 8, .rw, 32, .b, 1, 255⟩
/-- R547, `RING_WAKE` [8:8]. -/
def RING_WAKE.GO : Fld :=
  ⟨0x201c, 8, 1, .wo, 0, .none, 0, 1⟩
/-- R547, `RING_WAKE` [9:9]. -/
def RING_WAKE.BUSY : Fld :=
  ⟨0x201c, 9, 1, .ro, 0, .none, 0, 1⟩
/-- R549, `RING_BARSEL` [5:0]. -/
def RING_BARSEL.TAG : Fld :=
  ⟨0x2040, 0, 6, .rw, 0, .b, 0, 63⟩
/-- R549, `RING_BARTGT` [15:0]. -/
def RING_BARTGT.TGT : Fld :=
  ⟨0x2044, 0, 16, .rw, 0, .b, 0, 65535⟩
/-- R549, `RING_BARCNT` [15:0]. -/
def RING_BARCNT.CNT : Fld :=
  ⟨0x2048, 0, 16, .ro, 0, .none, 0, 65535⟩
/-- R549, `RING_BARSETL` [31:0]. -/
def RING_BARSETL.SET : Fld :=
  ⟨0x204c, 0, 32, .wo, 0, .none, 0, 4294967295⟩
/-- R549, `RING_BARSETH` [31:0]. -/
def RING_BARSETH.SET : Fld :=
  ⟨0x2050, 0, 32, .wo, 0, .none, 0, 4294967295⟩
/-- R549, `RING_BARVL` [31:0]. -/
def RING_BARVL.BARV : Fld :=
  ⟨0x2054, 0, 32, .ro, 0, .none, 0, 4294967295⟩
/-- R549, `RING_BARVH` [31:0]. -/
def RING_BARVH.BARV : Fld :=
  ⟨0x2058, 0, 32, .ro, 0, .none, 0, 4294967295⟩
/-- R549, `RING_SAFEV` [31:0]. -/
def RING_SAFEV.SAFEV : Fld :=
  ⟨0x205c, 0, 32, .ro, 0, .none, 0, 4294967295⟩
/-- R549, `RING_CNT0` [15:0]. -/
def RING_CNT0.CODE (r : RingId) : Fld :=
  ⟨0x2020 + 16 * (match r with | .a => 0 | .b => 1), 0, 16, .ro, 0, .none, 0, 65535⟩
/-- R549, `RING_CNT0` [31:16]. -/
def RING_CNT0.LOCK (r : RingId) : Fld :=
  ⟨0x2020 + 16 * (match r with | .a => 0 | .b => 1), 16, 16, .ro, 0, .none, 0, 65535⟩
/-- R549, `RING_CNT1` [7:0]. -/
def RING_CNT1.PCRC (r : RingId) : Fld :=
  ⟨0x2024 + 16 * (match r with | .a => 0 | .b => 1), 0, 8, .ro, 0, .none, 0, 255⟩
/-- R549, `RING_CNT1` [15:8]. -/
def RING_CNT1.SCRC (r : RingId) : Fld :=
  ⟨0x2024 + 16 * (match r with | .a => 0 | .b => 1), 8, 8, .ro, 0, .none, 0, 255⟩
/-- R549, `RING_CNT1` [31:16]. -/
def RING_CNT1.DCRC (r : RingId) : Fld :=
  ⟨0x2024 + 16 * (match r with | .a => 0 | .b => 1), 16, 16, .ro, 0, .none, 0, 65535⟩
/-- R549, `RING_CNT2` [15:0]. -/
def RING_CNT2.MISS (r : RingId) : Fld :=
  ⟨0x2028 + 16 * (match r with | .a => 0 | .b => 1), 0, 16, .ro, 0, .none, 0, 65535⟩
/-- R549, `RING_CNT2` [31:16]. -/
def RING_CNT2.LATE (r : RingId) : Fld :=
  ⟨0x2028 + 16 * (match r with | .a => 0 | .b => 1), 16, 16, .ro, 0, .none, 0, 65535⟩
/-- R549, `RING_CNT3` [15:0]. -/
def RING_CNT3.RETX (r : RingId) : Fld :=
  ⟨0x202c + 16 * (match r with | .a => 0 | .b => 1), 0, 16, .ro, 0, .none, 0, 65535⟩
/-- R549, `RING_CNT3` [23:16]. -/
def RING_CNT3.SPLICE (r : RingId) : Fld :=
  ⟨0x202c + 16 * (match r with | .a => 0 | .b => 1), 16, 8, .ro, 0, .none, 0, 255⟩
/-- R549, `RING_CNT3` [31:24]. -/
def RING_CNT3.WRAP (r : RingId) : Fld :=
  ⟨0x202c + 16 * (match r with | .a => 0 | .b => 1), 24, 8, .ro, 0, .none, 0, 255⟩

/-! ### FLT block (R705) -/

/-- R706, `FLT_SEL` [6:0]. -/
def FLT_SEL.SRC : Fld :=
  ⟨0x3020, 0, 7, .rw, 0, .w, 0, 127⟩
/-- R706, `FLT_REACT` [5:0]. -/
def FLT_REACT.REACT : Fld :=
  ⟨0x3024, 0, 6, .rwl, 0, .w, 0, 63⟩
/-- R706, `FLT_REACT` [13:8]. -/
def FLT_REACT.ALLOW : Fld :=
  ⟨0x3024, 8, 6, .ro, 0, .o, 0, 63⟩
/-- R706, `FLT_REACT` [21:16]. -/
def FLT_REACT.FLOOR : Fld :=
  ⟨0x3024, 16, 6, .ro, 0, .o, 0, 63⟩
/-- R706, `FLT_REACT` [27:24]. -/
def FLT_REACT.CLR : Fld :=
  ⟨0x3024, 24, 4, .ro, 0, .o, 0, 15⟩
/-- R706, `FLT_REACT` [29:28]. -/
def FLT_REACT.OWNER : Fld :=
  ⟨0x3024, 28, 2, .ro, 0, .o, 0, 3⟩
/-- R706, `FLT_CHMASK` [15:0]. -/
def FLT_CHMASK.CH : Fld :=
  ⟨0x3028, 0, 16, .ro, 0, .w, 0, 65535⟩
/-- R706, `FLT_CNT` [15:0]. -/
def FLT_CNT.COUNT : Fld :=
  ⟨0x302c, 0, 16, .ro, 0, .w, 0, 65535⟩
/-- R706, `FLT_FIRST` [6:0]. -/
def FLT_FIRST.SRC : Fld :=
  ⟨0x3030, 0, 7, .ro, 0, .w, 0, 127⟩
/-- R706, `FLT_FIRST` [16:16]. -/
def FLT_FIRST.VALID : Fld :=
  ⟨0x3030, 16, 1, .w1c, 0, .w, 0, 1⟩
/-- R706, `FLT_LREC0` [6:0]. -/
def FLT_LREC0.SRC : Fld :=
  ⟨0x3034, 0, 7, .ro, 0, .n, 0, 127⟩
/-- R706, `FLT_LREC0` [11:8]. -/
def FLT_LREC0.CHAN : Fld :=
  ⟨0x3034, 8, 4, .ro, 0, .n, 0, 15⟩
/-- R706, `FLT_LREC0` [15:12]. -/
def FLT_LREC0.MODE : Fld :=
  ⟨0x3034, 12, 4, .ro, 0, .n, 0, 15⟩
/-- R706, `FLT_LREC0` [21:16]. -/
def FLT_LREC0.REACT : Fld :=
  ⟨0x3034, 16, 6, .ro, 0, .n, 0, 63⟩
/-- R706, `FLT_LREC0` [31:31]. -/
def FLT_LREC0.VALID : Fld :=
  ⟨0x3034, 31, 1, .ro, 0, .n, 0, 1⟩
/-- R706, `FLT_LREC1` [31:0]. -/
def FLT_LREC1.TICK_LO : Fld :=
  ⟨0x3038, 0, 32, .ro, 0, .n, 0, 4294967295⟩
/-- R706, `FLT_LREC2` [15:0]. -/
def FLT_LREC2.TICK_HI : Fld :=
  ⟨0x303c, 0, 16, .ro, 0, .n, 0, 65535⟩
/-- R706, `FLT_ERRN` [0:0]. -/
def FLT_ERRN.LOW : Fld :=
  ⟨0x3040, 0, 1, .ro, 1, .none, 0, 1⟩
/-- R706, `FLT_ERRN` [1:1]. -/
def FLT_ERRN.HOLD : Fld :=
  ⟨0x3040, 1, 1, .ro, 0, .none, 0, 1⟩
/-- R706, `FLT_ERRN` [15:8]. -/
def FLT_ERRN.NERR : Fld :=
  ⟨0x3040, 8, 8, .ro, 0, .none, 0, 255⟩
/-- R706, `FLT_RB` [6:0]. -/
def FLT_RB.SRC : Fld :=
  ⟨0x3044, 0, 7, .ro, 0, .w, 0, 127⟩
/-- R706, `FLT_RB` [16:16]. -/
def FLT_RB.VALID : Fld :=
  ⟨0x3044, 16, 1, .ro, 0, .w, 0, 1⟩
/-- R706, `FLT_DRVEN` [0:0]. -/
def FLT_DRVEN.LEVEL : Fld :=
  ⟨0x3048, 0, 1, .ro, 0, .none, 0, 1⟩
/-- R706, `FLT_DRVEN` [1:1]. -/
def FLT_DRVEN.ARMED : Fld :=
  ⟨0x3048, 1, 1, .ro, 0, .none, 0, 1⟩
/-- R706, `FLT_DRVEN` [15:8]. -/
def FLT_DRVEN.TOGGLES : Fld :=
  ⟨0x3048, 8, 8, .ro, 0, .none, 0, 255⟩
/-- R706, `FLT_INJ` [6:0]. -/
def FLT_INJ.SRC : Fld :=
  ⟨0x304c, 0, 7, .rws, 0, .none, 0, 127⟩
/-- R706, `FLT_INJ` [8:8]. -/
def FLT_INJ.GO : Fld :=
  ⟨0x304c, 8, 1, .wo, 0, .none, 0, 1⟩
/-- R706, `FLT_DUMPBLO` [31:12]. -/
def FLT_DUMPBLO.BASE : Fld :=
  ⟨0x3060, 12, 20, .rw, 0, .n, 0, 1048575⟩
/-- R706, `FLT_DUMPBHI` [31:0]. -/
def FLT_DUMPBHI.BASE : Fld :=
  ⟨0x3064, 0, 32, .rw, 0, .n, 0, 4294967295⟩
/-- R706, `FLT_DUMPLEN` [31:0]. -/
def FLT_DUMPLEN.LEN : Fld :=
  ⟨0x3068, 0, 32, .rw, 0, .n, 0, 4294967295⟩
/-- R706, `FLT_DUMPCTL` [0:0]. -/
def FLT_DUMPCTL.TRG_CHIP : Fld :=
  ⟨0x306c, 0, 1, .rw, 1, .n, 0, 1⟩
/-- R706, `FLT_DUMPCTL` [1:1]. -/
def FLT_DUMPCTL.TRG_SAF : Fld :=
  ⟨0x306c, 1, 1, .rw, 1, .n, 0, 1⟩
/-- R706, `FLT_DUMPCTL` [2:2]. -/
def FLT_DUMPCTL.TRG_SAFE : Fld :=
  ⟨0x306c, 2, 1, .rw, 0, .n, 0, 1⟩
/-- R706, `FLT_DUMPCTL` [8:8]. -/
def FLT_DUMPCTL.ACK : Fld :=
  ⟨0x306c, 8, 1, .wo, 0, .none, 0, 1⟩
/-- R706, `FLT_DUMPSTAT` [2:0]. -/
def FLT_DUMPSTAT.STATE : Fld :=
  ⟨0x3070, 0, 3, .ro, 0, .c, 0, 7⟩
/-- R706, `FLT_DUMPSTAT` [3:3]. -/
def FLT_DUMPSTAT.REQ : Fld :=
  ⟨0x3070, 3, 1, .ro, 0, .c, 0, 1⟩
/-- R706, `FLT_DUMPSTAT` [4:4]. -/
def FLT_DUMPSTAT.SNAP_VALID : Fld :=
  ⟨0x3070, 4, 1, .ro, 0, .n, 0, 1⟩
/-- R706, `FLT_DUMPSTAT` [5:5]. -/
def FLT_DUMPSTAT.TRACE_LOST : Fld :=
  ⟨0x3070, 5, 1, .ro, 0, .n, 0, 1⟩
/-- R706, `FLT_DUMPSTAT` [15:8]. -/
def FLT_DUMPSTAT.MISSED : Fld :=
  ⟨0x3070, 8, 8, .ro, 0, .c, 0, 255⟩
/-- R706, `FLT_DUMPSEQ` [31:0]. -/
def FLT_DUMPSEQ.DSEQ : Fld :=
  ⟨0x3074, 0, 32, .ro, 0, .n, 0, 4294967295⟩
/-- R706, `FLT_ACT` [31:0]. -/
def FLT_ACT.ACT (m : Fin 4) : Fld :=
  ⟨0x3000 + 4 * m.val, 0, 32, .ro, 0, .w, 0, 4294967295⟩
/-- R706, `FLT_REC` [31:0]. -/
def FLT_REC.REC (m : Fin 4) : Fld :=
  ⟨0x3010 + 4 * m.val, 0, 32, .w1c, 0, .w, 0, 4294967295⟩

/-! ### SAF block (R667) -/

/-- R668, `SAF_STAT` [6:0]. -/
def SAF_STAT.DEMAND : Fld :=
  ⟨0x4000, 0, 7, .ro, 0, .b, 0, 127⟩
/-- R668, `SAF_STAT` [7:7]. -/
def SAF_STAT.SFAULT : Fld :=
  ⟨0x4000, 7, 1, .ro, 0, .b, 0, 1⟩
/-- R668, `SAF_STAT` [8:8]. -/
def SAF_STAT.OWN : Fld :=
  ⟨0x4000, 8, 1, .ro, 0, .b, 0, 1⟩
/-- R668, `SAF_STAT` [9:9]. -/
def SAF_STAT.LATCH : Fld :=
  ⟨0x4000, 9, 1, .ro, 0, .n, 0, 1⟩
/-- R668, `SAF_STAT` [10:10]. -/
def SAF_STAT.CHECK_ON : Fld :=
  ⟨0x4000, 10, 1, .ro, 0, .b, 0, 1⟩
/-- R668, `SAF_STAT` [11:11]. -/
def SAF_STAT.INJ_OK : Fld :=
  ⟨0x4000, 11, 1, .ro, 0, .b, 0, 1⟩
/-- R668, `SAF_STAT` [12:12]. -/
def SAF_STAT.DBG_UNCHECKED : Fld :=
  ⟨0x4000, 12, 1, .ro, 0, .w, 0, 1⟩
/-- R668, `SAF_STAT` [13:13]. -/
def SAF_STAT.SVC : Fld :=
  ⟨0x4000, 13, 1, .ro, 0, .b, 0, 1⟩
/-- R668, `SAF_STAT` [14:14]. -/
def SAF_STAT.SS1 : Fld :=
  ⟨0x4000, 14, 1, .ro, 0, .b, 0, 1⟩
/-- R668, `SAF_STAT` [15:15]. -/
def SAF_STAT.BRK_CLAMP : Fld :=
  ⟨0x4000, 15, 1, .ro, 0, .b, 0, 1⟩
/-- R668, `SAF_STAT` [19:16]. -/
def SAF_STAT.K : Fld :=
  ⟨0x4000, 16, 4, .ro, 0, .b, 0, 15⟩
/-- R668, `SAF_STAT` [27:20]. -/
def SAF_STAT.INJ_AGE : Fld :=
  ⟨0x4000, 20, 8, .ro, 0, .b, 0, 255⟩
/-- R668, `SAF_CAUSE` [7:0]. -/
def SAF_CAUSE.FIRST : Fld :=
  ⟨0x4004, 0, 8, .ro, 0, .n, 0, 255⟩
/-- R668, `SAF_CAUSE` [12:8]. -/
def SAF_CAUSE.POS : Fld :=
  ⟨0x4004, 8, 5, .ro, 0, .n, 0, 31⟩
/-- R668, `SAF_CAUSEV` [6:0]. -/
def SAF_CAUSEV.SF : Fld :=
  ⟨0x4008, 0, 7, .ro, 0, .n, 0, 127⟩
/-- R668, `SAF_CAUSEV` [16:8]. -/
def SAF_CAUSEV.OTHER : Fld :=
  ⟨0x4008, 8, 9, .ro, 0, .n, 0, 511⟩
/-- R668, `SAF_PSET` [15:0]. -/
def SAF_PSET.ID : Fld :=
  ⟨0x400c, 0, 16, .ro, 0, .w, 0, 65535⟩
/-- R668, `SAF_PSET` [16:16]. -/
def SAF_PSET.LOADED : Fld :=
  ⟨0x400c, 16, 1, .ro, 0, .w, 0, 1⟩
/-- R668, `SAF_PSETCRC` [31:0]. -/
def SAF_PSETCRC.CRC : Fld :=
  ⟨0x4010, 0, 32, .ro, 0, .w, 0, 4294967295⟩
/-- R668, `SAF_PREAD` [4:0]. -/
def SAF_PREAD.WORD : Fld :=
  ⟨0x4014, 0, 5, .rw, 0, .b, 0, 19⟩
/-- R668, `SAF_PDATA` [31:0]. -/
def SAF_PDATA.DATA : Fld :=
  ⟨0x4018, 0, 32, .ro, 0, .w, 0, 4294967295⟩
/-- R668, `SAF_IO` [7:0]. -/
def SAF_IO.IN : Fld :=
  ⟨0x401c, 0, 8, .ro, 0, .b, 0, 255⟩
/-- R668, `SAF_IO` [8:8]. -/
def SAF_IO.EST_DEM : Fld :=
  ⟨0x401c, 8, 1, .ro, 0, .b, 0, 1⟩
/-- R668, `SAF_IO` [9:9]. -/
def SAF_IO.EST_DISC : Fld :=
  ⟨0x401c, 9, 1, .ro, 0, .n, 0, 1⟩
/-- R668, `SAF_IO` [10:10]. -/
def SAF_IO.CEN : Fld :=
  ⟨0x401c, 10, 1, .ro, 0, .b, 0, 1⟩
/-- R668, `SAF_IO` [11:11]. -/
def SAF_IO.IEN : Fld :=
  ⟨0x401c, 11, 1, .ro, 0, .b, 0, 1⟩
/-- R668, `SAF_IO` [12:12]. -/
def SAF_IO.MEN : Fld :=
  ⟨0x401c, 12, 1, .ro, 0, .b, 0, 1⟩
/-- R668, `SAF_KCTL` [0:0]. -/
def SAF_KCTL.REQ : Fld :=
  ⟨0x4020, 0, 1, .rw, 0, .b, 0, 1⟩
/-- R668, `SAF_KSTAT` [2:0]. -/
def SAF_KSTAT.STATE : Fld :=
  ⟨0x4024, 0, 3, .ro, 0, .b, 0, 7⟩
/-- R668, `SAF_KSTAT` [7:4]. -/
def SAF_KSTAT.FCAUSE : Fld :=
  ⟨0x4024, 4, 4, .ro, 0, .b, 0, 15⟩
/-- R668, `SAF_KSTAT` [31:16]. -/
def SAF_KSTAT.CYCLES : Fld :=
  ⟨0x4024, 16, 16, .ro, 0, .n, 0, 65535⟩
/-- R668, `SAF_SKEW` [7:0]. -/
def SAF_SKEW.COUNT : Fld :=
  ⟨0x4028, 0, 8, .ro, 0, .b, 0, 255⟩
/-- R668, `SAF_SKEW` [15:8]. -/
def SAF_SKEW.LAST : Fld :=
  ⟨0x4028, 8, 8, .ro, 0, .b, 0, 255⟩
/-- R668, `SAF_CYC` [31:0]. -/
def SAF_CYC.CYC : Fld :=
  ⟨0x402c, 0, 32, .ro, 0, .b, 0, 4294967295⟩
/-- R668, `SAF_SF6SEL` [3:0]. -/
def SAF_SF6SEL.CHAN : Fld :=
  ⟨0x4030, 0, 4, .rw, 0, .b, 0, 15⟩
/-- R668, `SAF_SF6Q` [31:0]. -/
def SAF_SF6Q.Q : Fld :=
  ⟨0x4034, 0, 32, .ro, 0, .n, 0, 4294967295⟩
/-- R668, `SAF_SF6T` [31:0]. -/
def SAF_SF6T.T : Fld :=
  ⟨0x4038, 0, 32, .ro, 0, .n, 0, 4294967295⟩
/-- R668, `SAF_SF6L` [15:0]. -/
def SAF_SF6L.LOCK : Fld :=
  ⟨0x403c, 0, 16, .ro, 0, .n, 0, 65535⟩
/-- R668, `SAF_BRKB` [15:0]. -/
def SAF_BRKB.ON : Fld :=
  ⟨0x4040, 0, 16, .rwl, 16800, .b, 0, 65535⟩
/-- R668, `SAF_BRKB` [31:16]. -/
def SAF_BRKB.OFF : Fld :=
  ⟨0x4040, 16, 16, .rwl, 16400, .b, 0, 65535⟩
/-- R668, `SAF_BRKBD` [7:0]. -/
def SAF_BRKBD.DMAX : Fld :=
  ⟨0x4044, 0, 8, .rwl, 10, .b, 1, 100⟩
/-- R668, `SAF_VBLIM` [15:0]. -/
def SAF_VBLIM.OV_TH : Fld :=
  ⟨0x4048, 0, 16, .ro, 18000, .b, 0, 65535⟩
/-- R668, `SAF_MSTAT` [31:0]. -/
def SAF_MSTAT.FAIL : Fld :=
  ⟨0x404c, 0, 32, .ro, 0, .b, 0, 4294967295⟩
/-- R668, `SAF_RUNSET` [31:0]. -/
def SAF_RUNSET.SET : Fld :=
  ⟨0x4050, 0, 32, .ro, 0, .b, 0, 4294967295⟩

/-! ### MET block (R325) -/

/-- R328, `MET_CFG` [11:0]. -/
def MET_CFG.ODR_DIV : Fld :=
  ⟨0x5000, 0, 12, .rwl, 250, .b, 1, 4000⟩
/-- R328, `MET_CFG` [16:16]. -/
def MET_CFG.SAR_TRACK : Fld :=
  ⟨0x5000, 16, 1, .rwl, 1, .b, 0, 1⟩
/-- R328, `MET_CFG` [17:17]. -/
def MET_CFG.IBX_EN : Fld :=
  ⟨0x5000, 17, 1, .rwl, 1, .b, 0, 1⟩
/-- R328, `MET_IBX` [12:0]. -/
def MET_IBX.PERIOD : Fld :=
  ⟨0x5004, 0, 13, .rwl, 600, .b, 1, 6000⟩
/-- R328, `MET_IBX` [25:16]. -/
def MET_IBX.OVL : Fld :=
  ⟨0x5004, 16, 10, .rwl, 64, .b, 64, 1023⟩
/-- R328, `MET_IBXTOL` [15:0]. -/
def MET_IBXTOL.TOL : Fld :=
  ⟨0x5008, 0, 16, .rwl, 200, .b, 10, 10000⟩
/-- R328, `MET_IBXSTAT` [2:0]. -/
def MET_IBXSTAT.S0 : Fld :=
  ⟨0x500c, 0, 3, .ro, 0, .b, 0, 7⟩
/-- R328, `MET_IBXSTAT` [3:3]. -/
def MET_IBXSTAT.RC0 : Fld :=
  ⟨0x500c, 3, 1, .ro, 0, .b, 0, 1⟩
/-- R328, `MET_IBXSTAT` [8:4]. -/
def MET_IBXSTAT.T0 : Fld :=
  ⟨0x500c, 4, 5, .ro, 0, .b, 0, 31⟩
/-- R328, `MET_IBXSTAT` [13:11]. -/
def MET_IBXSTAT.S1 : Fld :=
  ⟨0x500c, 11, 3, .ro, 0, .b, 0, 7⟩
/-- R328, `MET_IBXSTAT` [14:14]. -/
def MET_IBXSTAT.RC1 : Fld :=
  ⟨0x500c, 14, 1, .ro, 0, .b, 0, 1⟩
/-- R328, `MET_IBXSTAT` [19:15]. -/
def MET_IBXSTAT.T1 : Fld :=
  ⟨0x500c, 15, 5, .ro, 0, .b, 0, 31⟩
/-- R328, `MET_IBXSTAT` [24:20]. -/
def MET_IBXSTAT.QUEUE : Fld :=
  ⟨0x500c, 20, 5, .ro, 0, .b, 0, 31⟩
/-- R328, `MET_IBXSTAT` [25:25]. -/
def MET_IBXSTAT.BEHIND : Fld :=
  ⟨0x500c, 25, 1, .ro, 0, .b, 0, 1⟩
/-- R328, `MET_IBXSTAT` [28:28]. -/
def MET_IBXSTAT.CAL_DONE : Fld :=
  ⟨0x500c, 28, 1, .ro, 0, .w, 0, 1⟩
/-- R328, `MET_IBXCNT` [15:0]. -/
def MET_IBXCNT.HANDOVERS : Fld :=
  ⟨0x5010, 0, 16, .ro, 0, .b, 0, 65535⟩
/-- R328, `MET_IBXCNT` [23:16]. -/
def MET_IBXCNT.MISMATCH : Fld :=
  ⟨0x5010, 16, 8, .ro, 0, .b, 0, 255⟩
/-- R328, `MET_IBXCNT` [31:24]. -/
def MET_IBXCNT.PREEMPT : Fld :=
  ⟨0x5010, 24, 8, .ro, 0, .b, 0, 255⟩
/-- R328, `MET_REF` [22:0]. -/
def MET_REF.VREF : Fld :=
  ⟨0x5014, 0, 23, .rwl, 2500000, .w, 0, 8388607⟩
/-- R328, `MET_REF` [31:31]. -/
def MET_REF.EXT : Fld :=
  ⟨0x5014, 31, 1, .ro, 0, .o, 0, 1⟩
/-- R328, `MET_REFSTAT` [15:0]. -/
def MET_REFSTAT.DEV : Fld :=
  ⟨0x5018, 0, 16, .ro, 0, .b, 0, 65535⟩
/-- R328, `MET_REFSTAT` [16:16]. -/
def MET_REFSTAT.REF_OK : Fld :=
  ⟨0x5018, 16, 1, .ro, 0, .b, 0, 1⟩
/-- R328, `MET_FLAGS` [0:0]. -/
def MET_FLAGS.REF_FAULT : Fld :=
  ⟨0x501c, 0, 1, .w1c, 0, .w, 0, 1⟩
/-- R328, `MET_FLAGS` [1:1]. -/
def MET_FLAGS.IBX_MISMATCH : Fld :=
  ⟨0x501c, 1, 1, .w1c, 0, .w, 0, 1⟩
/-- R328, `MET_FLAGS` [2:2]. -/
def MET_FLAGS.CAL_FAIL : Fld :=
  ⟨0x501c, 2, 1, .w1c, 0, .w, 0, 1⟩
/-- R328, `MET_FLAGS` [3:3]. -/
def MET_FLAGS.OVLD : Fld :=
  ⟨0x501c, 3, 1, .w1c, 0, .w, 0, 1⟩
/-- R328, `MET_NTC` [15:0]. -/
def MET_NTC.BETA : Fld :=
  ⟨0x5020, 0, 16, .rwl, 3950, .b, 1000, 10000⟩
/-- R328, `MET_NTC` [31:16]. -/
def MET_NTC.RNOM : Fld :=
  ⟨0x5020, 16, 16, .rwl, 1000, .b, 1, 65535⟩
/-- R328, `MET_VB` [31:0]. -/
def MET_VB.VB : Fld :=
  ⟨0x5024, 0, 32, .ro, 0, .b, 0, 4294967295⟩
/-- R328, `MET_HKTJ` [15:0]. -/
def MET_HKTJ.TJ : Fld :=
  ⟨0x5040, 0, 16, .ro, 0, .b, 0, 65535⟩
/-- R328, `MET_CALSEL` [5:0]. -/
def MET_CALSEL.CONV : Fld :=
  ⟨0x5080, 0, 6, .rw, 0, .none, 0, 35⟩
/-- R328, `MET_CALSEL` [9:8]. -/
def MET_CALSEL.RANGE : Fld :=
  ⟨0x5080, 8, 2, .rw, 0, .none, 0, 3⟩
/-- R328, `MET_CALG` [31:0]. -/
def MET_CALG.GDEV : Fld :=
  ⟨0x5084, 0, 32, .ro, 0, .w, 0, 4294967295⟩
/-- R328, `MET_CALO` [31:0]. -/
def MET_CALO.OFS : Fld :=
  ⟨0x5088, 0, 32, .ro, 0, .w, 0, 4294967295⟩
/-- R328, `MET_CALAGE` [15:0]. -/
def MET_CALAGE.AGE : Fld :=
  ⟨0x508c, 0, 16, .ro, 0, .w, 0, 65535⟩
/-- R328, `MET_CALAGE` [17:16]. -/
def MET_CALAGE.SRC : Fld :=
  ⟨0x508c, 16, 2, .ro, 2, .w, 0, 3⟩
/-- R328, `MET_CALAGE` [18:18]. -/
def MET_CALAGE.SUSPECT : Fld :=
  ⟨0x508c, 18, 1, .ro, 0, .w, 0, 1⟩
/-- R411, `MET_BALCFG` [0:0]. -/
def MET_BALCFG.EN : Fld :=
  ⟨0x50c0, 0, 1, .rwl, 1, .b, 0, 1⟩
/-- R411, `MET_BALCFG` [15:8]. -/
def MET_BALCFG.ETA : Fld :=
  ⟨0x50c0, 8, 8, .rwl, 95, .b, 50, 100⟩
/-- R411, `MET_BALCFG` [23:16]. -/
def MET_BALCFG.RISE : Fld :=
  ⟨0x50c0, 16, 8, .rwl, 16, .b, 1, 255⟩
/-- R411, `MET_BALIMP` [31:0]. -/
def MET_BALIMP.P_IMP : Fld :=
  ⟨0x50c4, 0, 32, .rwl, 8000000, .b, 0, 4294967295⟩
/-- R411, `MET_BALEXP` [31:0]. -/
def MET_BALEXP.P_EXP : Fld :=
  ⟨0x50c8, 0, 32, .rwl, 0, .b, 0, 4294967295⟩
/-- R411, `MET_BALSTAT` [8:0]. -/
def MET_BALSTAT.K1 : Fld :=
  ⟨0x50cc, 0, 9, .ro, 256, .b, 0, 511⟩
/-- R411, `MET_BALSTAT` [24:16]. -/
def MET_BALSTAT.K2 : Fld :=
  ⟨0x50cc, 16, 9, .ro, 256, .b, 0, 511⟩
/-- R411, `MET_BALSTAT` [29:29]. -/
def MET_BALSTAT.DIR : Fld :=
  ⟨0x50cc, 29, 1, .ro, 0, .b, 0, 1⟩
/-- R411, `MET_BALSTAT` [30:30]. -/
def MET_BALSTAT.ACTIVE : Fld :=
  ⟨0x50cc, 30, 1, .ro, 0, .b, 0, 1⟩
/-- R411, `MET_BALSTAT` [31:31]. -/
def MET_BALSTAT.OVER : Fld :=
  ⟨0x50cc, 31, 1, .ro, 0, .b, 0, 1⟩
/-- R411, `MET_BALNET` [31:0]. -/
def MET_BALNET.NET : Fld :=
  ⟨0x50d0, 0, 32, .ro, 0, .b, 0, 4294967295⟩
/-- R328, `MET_HKV` [15:0]. -/
def MET_HKV.MV (n : Fin 8) : Fld :=
  ⟨0x5044 + 4 * n.val, 0, 16, .ro, 0, .b, 0, 65535⟩

/-! ### MOT block (R613) -/

/-- R614, `MOT_CFG` [0:0]. -/
def MOT_CFG.CLASS : Fld :=
  ⟨0x6000, 0, 1, .rwl, 0, .b, 0, 1⟩
/-- R614, `MOT_CFG` [1:1]. -/
def MOT_CFG.DIRINV : Fld :=
  ⟨0x6000, 1, 1, .rwl, 0, .b, 0, 1⟩
/-- R614, `MOT_CFG` [7:4]. -/
def MOT_CFG.PP : Fld :=
  ⟨0x6000, 4, 4, .rwl, 4, .b, 1, 15⟩
/-- R614, `MOT_CFG` [13:8]. -/
def MOT_CFG.NTICK : Fld :=
  ⟨0x6000, 8, 6, .rwl, 12, .b, 2, 50⟩
/-- R614, `MOT_CFG` [16:16]. -/
def MOT_CFG.FW_EN : Fld :=
  ⟨0x6000, 16, 1, .rwl, 1, .b, 0, 1⟩
/-- R614, `MOT_DT` [7:0]. -/
def MOT_DT.DT : Fld :=
  ⟨0x6004, 0, 8, .rwl, 50, .b, 4, 125⟩
/-- R614, `MOT_DT` [15:8]. -/
def MOT_DT.BLANK : Fld :=
  ⟨0x6004, 8, 8, .rwl, 150, .b, 20, 250⟩
/-- R614, `MOT_DT` [19:16]. -/
def MOT_DT.GD : Fld :=
  ⟨0x6004, 16, 4, .rwl, 12, .b, 0, 15⟩
/-- R614, `MOT_SC` [8:0]. -/
def MOT_SC.SC_TH : Fld :=
  ⟨0x6008, 0, 9, .rwl, 100, .b, 20, 400⟩
/-- R614, `MOT_SC` [20:16]. -/
def MOT_SC.SC_LIMIT : Fld :=
  ⟨0x6008, 16, 5, .rwl, 4, .b, 1, 16⟩
/-- R614, `MOT_SC` [31:24]. -/
def MOT_SC.PP_WIN : Fld :=
  ⟨0x6008, 24, 8, .rwl, 4, .b, 1, 255⟩
/-- R614, `MOT_ZC` [7:0]. -/
def MOT_ZC.ZC_BLANK : Fld :=
  ⟨0x600c, 0, 8, .rwl, 25, .b, 1, 255⟩
/-- R614, `MOT_ZC` [11:8]. -/
def MOT_ZC.ZC_FILT : Fld :=
  ⟨0x600c, 8, 4, .rwl, 3, .b, 1, 15⟩
/-- R614, `MOT_ZC` [18:12]. -/
def MOT_ZC.DEMAG_MAX : Fld :=
  ⟨0x600c, 12, 7, .rwl, 40, .b, 10, 60⟩
/-- R614, `MOT_ZC` [27:20]. -/
def MOT_ZC.MISS_WIN : Fld :=
  ⟨0x600c, 20, 8, .rwl, 150, .b, 110, 200⟩
/-- R614, `MOT_FW` [15:0]. -/
def MOT_FW.N_FW : Fld :=
  ⟨0x6010, 0, 16, .rwl, 2400, .b, 100, 60000⟩
/-- R614, `MOT_FW` [31:16]. -/
def MOT_FW.N_MAX : Fld :=
  ⟨0x6010, 16, 16, .rwl, 3000, .b, 100, 60000⟩
/-- R614, `MOT_ADV` [3:0]. -/
def MOT_ADV.ADV0 : Fld :=
  ⟨0x6014, 0, 4, .rwl, 2, .b, 0, 10⟩
/-- R614, `MOT_ADV` [12:8]. -/
def MOT_ADV.ADV_MAX : Fld :=
  ⟨0x6014, 8, 5, .rwl, 20, .b, 0, 25⟩
/-- R614, `MOT_ADV` [31:16]. -/
def MOT_ADV.ID_MAX : Fld :=
  ⟨0x6014, 16, 16, .rwl, 4000, .b, 0, 65535⟩
/-- R614, `MOT_CATCH` [15:0]. -/
def MOT_CATCH.CATCH_MIN : Fld :=
  ⟨0x6018, 0, 16, .rwl, 300, .b, 0, 65535⟩
/-- R614, `MOT_CATCH` [31:16]. -/
def MOT_CATCH.CATCH_MAX : Fld :=
  ⟨0x6018, 16, 16, .rwl, 2000, .b, 0, 65535⟩
/-- R614, `MOT_START` [7:0]. -/
def MOT_START.T_CHK : Fld :=
  ⟨0x601c, 0, 8, .rwl, 20, .b, 2, 255⟩
/-- R614, `MOT_START` [15:8]. -/
def MOT_START.ALIGN_T : Fld :=
  ⟨0x601c, 8, 8, .rwl, 10, .b, 1, 255⟩
/-- R614, `MOT_START` [23:16]. -/
def MOT_START.RAMP_T : Fld :=
  ⟨0x601c, 16, 8, .rwl, 30, .b, 1, 255⟩
/-- R614, `MOT_ILIM` [15:0]. -/
def MOT_ILIM.I_MAX : Fld :=
  ⟨0x6020, 0, 16, .rwl, 10000, .b, 0, 65535⟩
/-- R614, `MOT_ILIM` [31:16]. -/
def MOT_ILIM.ALIGN_I : Fld :=
  ⟨0x6020, 16, 16, .rwl, 2000, .b, 0, 65535⟩
/-- R614, `MOT_GEAR` [15:0]. -/
def MOT_GEAR.NUM : Fld :=
  ⟨0x6024, 0, 16, .rwl, 10, .b, 1, 65535⟩
/-- R614, `MOT_GEAR` [31:16]. -/
def MOT_GEAR.DEN : Fld :=
  ⟨0x6024, 16, 16, .rwl, 1, .b, 1, 65535⟩
/-- R614, `MOT_ENC` [7:0]. -/
def MOT_ENC.FCLK : Fld :=
  ⟨0x6028, 0, 8, .rwl, 20, .b, 2, 80⟩
/-- R614, `MOT_ENC` [13:8]. -/
def MOT_ENC.NBITS : Fld :=
  ⟨0x6028, 8, 6, .rwl, 25, .b, 10, 32⟩
/-- R614, `MOT_ENC` [14:14]. -/
def MOT_ENC.GRAY : Fld :=
  ⟨0x6028, 14, 1, .rwl, 1, .b, 0, 1⟩
/-- R614, `MOT_ENC` [15:15]. -/
def MOT_ENC.ERRBIT : Fld :=
  ⟨0x6028, 15, 1, .rwl, 0, .b, 0, 1⟩
/-- R614, `MOT_ENC` [19:16]. -/
def MOT_ENC.DIV : Fld :=
  ⟨0x6028, 16, 4, .rwl, 12, .b, 1, 15⟩
/-- R614, `MOT_ENC` [23:20]. -/
def MOT_ENC.DLY : Fld :=
  ⟨0x6028, 20, 4, .rwl, 0, .b, 0, 15⟩
/-- R614, `MOT_ENC` [31:24]. -/
def MOT_ENC.TM : Fld :=
  ⟨0x6028, 24, 8, .rwl, 20, .b, 1, 255⟩
/-- R614, `MOT_CPR` [31:0]. -/
def MOT_CPR.CPR : Fld :=
  ⟨0x602c, 0, 32, .rwl, 8192, .b, 64, 2147483648⟩
/-- R614, `MOT_XCHK` [7:0]. -/
def MOT_XCHK.GEAR_TOL : Fld :=
  ⟨0x6030, 0, 8, .rwl, 10, .b, 1, 100⟩
/-- R614, `MOT_XCHK` [9:8]. -/
def MOT_XCHK.HOME_EDGE : Fld :=
  ⟨0x6030, 8, 2, .rwl, 0, .b, 0, 2⟩
/-- R614, `MOT_XCHK` [31:16]. -/
def MOT_XCHK.HOME_TOL : Fld :=
  ⟨0x6030, 16, 16, .rwl, 64, .b, 0, 65535⟩
/-- R614, `MOT_SPD` [9:0]. -/
def MOT_SPD.SPD_WIN : Fld :=
  ⟨0x6034, 0, 10, .rwl, 100, .b, 1, 1023⟩
/-- R614, `MOT_SPD` [31:16]. -/
def MOT_SPD.STILL : Fld :=
  ⟨0x6034, 16, 16, .rwl, 500, .b, 1, 65535⟩
/-- R614, `MOT_KCUR` [15:0]. -/
def MOT_KCUR.KP : Fld :=
  ⟨0x6038, 0, 16, .rwl, 0, .b, 0, 65535⟩
/-- R614, `MOT_KCUR` [31:16]. -/
def MOT_KCUR.KI : Fld :=
  ⟨0x6038, 16, 16, .rwl, 0, .b, 0, 65535⟩
/-- R614, `MOT_KSPD` [15:0]. -/
def MOT_KSPD.KP : Fld :=
  ⟨0x603c, 0, 16, .rwl, 0, .b, 0, 65535⟩
/-- R614, `MOT_KSPD` [31:16]. -/
def MOT_KSPD.KI : Fld :=
  ⟨0x603c, 16, 16, .rwl, 0, .b, 0, 65535⟩
/-- R614, `MOT_KPOS` [15:0]. -/
def MOT_KPOS.KP : Fld :=
  ⟨0x6040, 0, 16, .rwl, 0, .b, 0, 65535⟩
/-- R614, `MOT_KFRC` [15:0]. -/
def MOT_KFRC.KP : Fld :=
  ⟨0x6044, 0, 16, .rwl, 0, .b, 0, 65535⟩
/-- R614, `MOT_KFRC` [31:16]. -/
def MOT_KFRC.KI : Fld :=
  ⟨0x6044, 16, 16, .rwl, 0, .b, 0, 65535⟩
/-- R614, `MOT_FE` [15:0]. -/
def MOT_FE.PFE : Fld :=
  ⟨0x6048, 0, 16, .rwl, 4096, .b, 0, 65535⟩
/-- R614, `MOT_FE` [31:16]. -/
def MOT_FE.FE_TIME : Fld :=
  ⟨0x6048, 16, 16, .rwl, 2500, .b, 0, 65535⟩
/-- R614, `MOT_BRK` [15:0]. -/
def MOT_BRK.ON : Fld :=
  ⟨0x604c, 0, 16, .rwl, 62000, .b, 0, 65535⟩
/-- R614, `MOT_BRK` [31:16]. -/
def MOT_BRK.OFF : Fld :=
  ⟨0x604c, 16, 16, .rwl, 60500, .b, 0, 65535⟩
/-- R614, `MOT_BRKD` [7:0]. -/
def MOT_BRKD.DMAX : Fld :=
  ⟨0x6050, 0, 8, .rwl, 10, .b, 1, 100⟩
/-- R614, `MOT_BRKD` [31:16]. -/
def MOT_BRKD.REGEN : Fld :=
  ⟨0x6050, 16, 16, .rwl, 61000, .b, 0, 65535⟩
/-- R614, `MOT_VMLIM` [15:0]. -/
def MOT_VMLIM.OV_TH : Fld :=
  ⟨0x6054, 0, 16, .ro, 64000, .b, 0, 65535⟩
/-- R614, `MOT_FCFG` [0:0]. -/
def MOT_FCFG.FRANGE : Fld :=
  ⟨0x6058, 0, 1, .rwl, 0, .b, 0, 1⟩
/-- R614, `MOT_FOFS` [31:0]. -/
def MOT_FOFS.FOFS : Fld :=
  ⟨0x605c, 0, 32, .rwl, 0, .b, 0, 4294967295⟩
/-- R614, `MOT_FGAIN` [31:0]. -/
def MOT_FGAIN.FGAIN : Fld :=
  ⟨0x6060, 0, 32, .rwl, 0, .b, 0, 4294967295⟩
/-- R615, `MOT_STAT` [2:0]. -/
def MOT_STAT.STATE : Fld :=
  ⟨0x6080, 0, 3, .ro, 0, .none, 0, 7⟩
/-- R615, `MOT_STAT` [3:3]. -/
def MOT_STAT.FW : Fld :=
  ⟨0x6080, 3, 1, .ro, 0, .none, 0, 1⟩
/-- R615, `MOT_STAT` [4:4]. -/
def MOT_STAT.ASHORT : Fld :=
  ⟨0x6080, 4, 1, .ro, 0, .none, 0, 1⟩
/-- R615, `MOT_STAT` [5:5]. -/
def MOT_STAT.BRKM : Fld :=
  ⟨0x6080, 5, 1, .ro, 0, .none, 0, 1⟩
/-- R615, `MOT_STAT` [6:6]. -/
def MOT_STAT.OFS_VALID : Fld :=
  ⟨0x6080, 6, 1, .ro, 0, .w, 0, 1⟩
/-- R615, `MOT_STAT` [10:8]. -/
def MOT_STAT.SECTOR : Fld :=
  ⟨0x6080, 8, 3, .ro, 0, .none, 0, 7⟩
/-- R615, `MOT_STAT` [23:16]. -/
def MOT_STAT.OP : Fld :=
  ⟨0x6080, 16, 8, .ro, 0, .none, 0, 255⟩
/-- R615, `MOT_SPEED` [31:0]. -/
def MOT_SPEED.N : Fld :=
  ⟨0x6084, 0, 32, .ro, 0, .none, 0, 4294967295⟩
/-- R615, `MOT_ESPD` [31:0]. -/
def MOT_ESPD.SPD : Fld :=
  ⟨0x6088, 0, 32, .ro, 0, .none, 0, 4294967295⟩
/-- R615, `MOT_ENCSTAT` [1:0]. -/
def MOT_ENCSTAT.DIR : Fld :=
  ⟨0x608c, 0, 2, .ro, 0, .w, 0, 3⟩
/-- R615, `MOT_ENCSTAT` [2:2]. -/
def MOT_ENCSTAT.SPD_VALID : Fld :=
  ⟨0x608c, 2, 1, .ro, 0, .none, 0, 1⟩
/-- R615, `MOT_ENCSTAT` [3:3]. -/
def MOT_ENCSTAT.FRAME_OK : Fld :=
  ⟨0x608c, 3, 1, .ro, 0, .none, 0, 1⟩
/-- R615, `MOT_ENCSTAT` [15:8]. -/
def MOT_ENCSTAT.FERR : Fld :=
  ⟨0x608c, 8, 8, .ro, 0, .none, 0, 255⟩
/-- R615, `MOT_ENCSTAT` [16:16]. -/
def MOT_ENCSTAT.HOME_VALID : Fld :=
  ⟨0x608c, 16, 1, .w1c, 0, .w, 0, 1⟩
/-- R615, `MOT_POSL` [31:0]. -/
def MOT_POSL.POS_LO : Fld :=
  ⟨0x6090, 0, 32, .ro, 0, .w, 0, 4294967295⟩
/-- R615, `MOT_POSH` [15:0]. -/
def MOT_POSH.POS_HI : Fld :=
  ⟨0x6094, 0, 16, .ro, 0, .w, 0, 65535⟩
/-- R615, `MOT_HOMEL` [31:0]. -/
def MOT_HOMEL.HOME_LO : Fld :=
  ⟨0x6098, 0, 32, .ro, 0, .w, 0, 4294967295⟩
/-- R615, `MOT_HOMEH` [15:0]. -/
def MOT_HOMEH.HOME_HI : Fld :=
  ⟨0x609c, 0, 16, .ro, 0, .w, 0, 65535⟩
/-- R615, `MOT_HOMEH` [31:16]. -/
def MOT_HOMEH.DRIFT : Fld :=
  ⟨0x609c, 16, 16, .ro, 0, .w, 0, 65535⟩
/-- R615, `MOT_FORCE` [31:0]. -/
def MOT_FORCE.F : Fld :=
  ⟨0x60a0, 0, 32, .ro, 0, .none, 0, 4294967295⟩
/-- R615, `MOT_ADVST` [8:0]. -/
def MOT_ADVST.ADV : Fld :=
  ⟨0x60a4, 0, 9, .ro, 0, .none, 0, 511⟩
/-- R615, `MOT_ADVST` [31:16]. -/
def MOT_ADVST.ID : Fld :=
  ⟨0x60a4, 16, 16, .ro, 0, .none, 0, 65535⟩
/-- R616, `MOT_FLT` [0:0]. -/
def MOT_FLT.SC_HARD : Fld :=
  ⟨0x60a8, 0, 1, .w1c, 0, .w, 0, 1⟩
/-- R616, `MOT_FLT` [1:1]. -/
def MOT_FLT.SC_PERSIST : Fld :=
  ⟨0x60a8, 1, 1, .w1c, 0, .w, 0, 1⟩
/-- R616, `MOT_FLT` [2:2]. -/
def MOT_FLT.PP_SHORT : Fld :=
  ⟨0x60a8, 2, 1, .w1c, 0, .w, 0, 1⟩
/-- R616, `MOT_FLT` [3:3]. -/
def MOT_FLT.SHOOT : Fld :=
  ⟨0x60a8, 3, 1, .w1c, 0, .w, 0, 1⟩
/-- R616, `MOT_FLT` [4:4]. -/
def MOT_FLT.BRKM_OVL : Fld :=
  ⟨0x60a8, 4, 1, .w1c, 0, .w, 0, 1⟩
/-- R616, `MOT_FLT` [5:5]. -/
def MOT_FLT.SYNC : Fld :=
  ⟨0x60a8, 5, 1, .w1c, 0, .w, 0, 1⟩
/-- R616, `MOT_FLT` [6:6]. -/
def MOT_FLT.ENC_FAULT : Fld :=
  ⟨0x60a8, 6, 1, .w1c, 0, .w, 0, 1⟩
/-- R616, `MOT_FLT` [7:7]. -/
def MOT_FLT.ENC_JUMP : Fld :=
  ⟨0x60a8, 7, 1, .w1c, 0, .w, 0, 1⟩
/-- R616, `MOT_FLT` [8:8]. -/
def MOT_FLT.GEAR_SLIP : Fld :=
  ⟨0x60a8, 8, 1, .w1c, 0, .w, 0, 1⟩
/-- R616, `MOT_FLT` [9:9]. -/
def MOT_FLT.ENC_DRIFT : Fld :=
  ⟨0x60a8, 9, 1, .w1c, 0, .w, 0, 1⟩
/-- R616, `MOT_FLT` [10:10]. -/
def MOT_FLT.VM_LOW : Fld :=
  ⟨0x60a8, 10, 1, .w1c, 0, .w, 0, 1⟩
/-- R616, `MOT_FLT` [11:11]. -/
def MOT_FLT.OVERRUN : Fld :=
  ⟨0x60a8, 11, 1, .w1c, 0, .w, 0, 1⟩
/-- R615, `MOT_PCNT` [7:0]. -/
def MOT_PCNT.SC_CNT : Fld :=
  ⟨0x60ac, 0, 8, .ro, 0, .none, 0, 255⟩
/-- R615, `MOT_PCNT` [15:8]. -/
def MOT_PCNT.SHOOT_REQ : Fld :=
  ⟨0x60ac, 8, 8, .ro, 0, .none, 0, 255⟩
/-- R615, `MOT_PCNT` [23:16]. -/
def MOT_PCNT.MISS : Fld :=
  ⟨0x60ac, 16, 8, .ro, 0, .none, 0, 255⟩
/-- R615, `MOT_PCNT` [31:24]. -/
def MOT_PCNT.SYNC_LOSS : Fld :=
  ⟨0x60ac, 24, 8, .ro, 0, .none, 0, 255⟩
/-- R615, `MOT_VM` [15:0]. -/
def MOT_VM.VM : Fld :=
  ⟨0x60b0, 0, 16, .ro, 0, .none, 0, 65535⟩

/-! ### SEC block (R738) -/

/-- R739, `SEC_LIFE` [1:0]. -/
def SEC_LIFE.LIFE : Fld :=
  ⟨0x7000, 0, 2, .ro, 0, .o, 0, 3⟩
/-- R739, `SEC_LIFE` [14:8]. -/
def SEC_LIFE.RBC : Fld :=
  ⟨0x7000, 8, 7, .ro, 0, .o, 0, 127⟩
/-- R739, `SEC_LIFE` [19:16]. -/
def SEC_LIFE.REVOKE : Fld :=
  ⟨0x7000, 16, 4, .ro, 0, .o, 0, 15⟩
/-- R739, `SEC_LIFE` [20:20]. -/
def SEC_LIFE.OWNER_SET : Fld :=
  ⟨0x7000, 20, 1, .ro, 0, .o, 0, 1⟩
/-- R739, `SEC_LIFE` [21:21]. -/
def SEC_LIFE.LIFE_PEND : Fld :=
  ⟨0x7000, 21, 1, .ro, 0, .o, 0, 1⟩
/-- R739, `SEC_BOOTSTAT` [3:0]. -/
def SEC_BOOTSTAT.STATE : Fld :=
  ⟨0x7004, 0, 4, .ro, 0, .b, 0, 15⟩
/-- R739, `SEC_BOOTSTAT` [5:4]. -/
def SEC_BOOTSTAT.SRC : Fld :=
  ⟨0x7004, 4, 2, .ro, 0, .b, 0, 3⟩
/-- R739, `SEC_BOOTSTAT` [6:6]. -/
def SEC_BOOTSTAT.FALLBACK : Fld :=
  ⟨0x7004, 6, 1, .ro, 0, .b, 0, 1⟩
/-- R739, `SEC_BOOTSTAT` [7:7]. -/
def SEC_BOOTSTAT.REHASH_FAIL : Fld :=
  ⟨0x7004, 7, 1, .ro, 0, .b, 0, 1⟩
/-- R739, `SEC_BOOTSTAT` [15:8]. -/
def SEC_BOOTSTAT.ERR : Fld :=
  ⟨0x7004, 8, 8, .ro, 0, .b, 0, 255⟩
/-- R739, `SEC_BOOTSTAT` [16:16]. -/
def SEC_BOOTSTAT.WARMBOOT : Fld :=
  ⟨0x7004, 16, 1, .ro, 0, .b, 0, 1⟩
/-- R739, `SEC_BOOTALO` [31:6]. -/
def SEC_BOOTALO.ADDR : Fld :=
  ⟨0x7008, 6, 26, .rw, 0, .b, 0, 67108863⟩
/-- R739, `SEC_BOOTAHI` [31:0]. -/
def SEC_BOOTAHI.ADDR : Fld :=
  ⟨0x700c, 0, 32, .rw, 0, .b, 0, 4294967295⟩
/-- R739, `SEC_BOOTLEN` [20:0]. -/
def SEC_BOOTLEN.LEN : Fld :=
  ⟨0x7010, 0, 21, .rw, 0, .b, 17344, 1048576⟩
/-- R739, `SEC_BOOTCMD` [0:0]. -/
def SEC_BOOTCMD.GO : Fld :=
  ⟨0x7014, 0, 1, .wo, 0, .none, 0, 1⟩
/-- R739, `SEC_IMG` [7:0]. -/
def SEC_IMG.SVN : Fld :=
  ⟨0x7018, 0, 8, .ro, 0, .w, 0, 255⟩
/-- R739, `SEC_IMG` [8:8]. -/
def SEC_IMG.AUTH : Fld :=
  ⟨0x7018, 8, 1, .ro, 0, .w, 0, 1⟩
/-- R739, `SEC_IMG` [9:9]. -/
def SEC_IMG.PEND : Fld :=
  ⟨0x7018, 9, 1, .ro, 0, .w, 0, 1⟩
/-- R739, `SEC_IMG` [23:16]. -/
def SEC_IMG.PEND_SVN : Fld :=
  ⟨0x7018, 16, 8, .ro, 0, .w, 0, 255⟩
/-- R739, `SEC_BUILD` [31:0]. -/
def SEC_BUILD.BUILD : Fld :=
  ⟨0x701c, 0, 32, .ro, 0, .w, 0, 4294967295⟩
/-- R739, `SEC_CHALCTL` [0:0]. -/
def SEC_CHALCTL.NEW : Fld :=
  ⟨0x7020, 0, 1, .wo, 0, .none, 0, 1⟩
/-- R739, `SEC_CHALCTL` [1:1]. -/
def SEC_CHALCTL.VALID : Fld :=
  ⟨0x7020, 1, 1, .ro, 0, .b, 0, 1⟩
/-- R739, `SEC_DBG` [3:0]. -/
def SEC_DBG.PERM : Fld :=
  ⟨0x7024, 0, 4, .ro, 0, .b, 0, 15⟩
/-- R739, `SEC_DSEL` [3:0]. -/
def SEC_DSEL.ITEM : Fld :=
  ⟨0x7060, 0, 4, .rw, 0, .none, 0, 15⟩
/-- R739, `SEC_DSEL` [14:8]. -/
def SEC_DSEL.WORD : Fld :=
  ⟨0x7060, 8, 7, .rw, 0, .none, 0, 127⟩
/-- R739, `SEC_DDATA` [31:0]. -/
def SEC_DDATA.DATA : Fld :=
  ⟨0x7064, 0, 32, .ro, 0, .none, 0, 4294967295⟩
/-- R739, `SEC_CHAL` [31:0]. -/
def SEC_CHAL.CHAL (n : Fin 8) : Fld :=
  ⟨0x7040 + 4 * n.val, 0, 32, .ro, 0, .b, 0, 4294967295⟩

/-! ### CH blocks (R199, R325, R408) -/

/-- R199, `CH_GD` [3:0]. -/
def CH_GD.GD_MIN (c : Ch) : Fld :=
  ⟨0x8000 + 0x100 * c.val, 0, 4, .rwl, 2, .b, 0, 15⟩
/-- R199, `CH_GD` [7:4]. -/
def CH_GD.GD_MAX (c : Ch) : Fld :=
  ⟨0x8000 + 0x100 * c.val, 4, 4, .rwl, 15, .b, 0, 15⟩
/-- R199, `CH_GD` [11:8]. -/
def CH_GD.GD_INIT (c : Ch) : Fld :=
  ⟨0x8000 + 0x100 * c.val, 8, 4, .rwl, 8, .b, 0, 15⟩
/-- R199, `CH_GD` [17:12]. -/
def CH_GD.TSW_TARGET (c : Ch) : Fld :=
  ⟨0x8000 + 0x100 * c.val, 12, 6, .rwl, 20, .b, 5, 60⟩
/-- R199, `CH_GD` [24:24]. -/
def CH_GD.ADAPT_EN (c : Ch) : Fld :=
  ⟨0x8000 + 0x100 * c.val, 24, 1, .rwl, 1, .b, 0, 1⟩
/-- R200, `CH_GDST` [3:0]. -/
def CH_GDST.CODE_H (c : Ch) : Fld :=
  ⟨0x8004 + 0x100 * c.val, 0, 4, .ro, 0, .none, 0, 15⟩
/-- R200, `CH_GDST` [7:4]. -/
def CH_GDST.CODE_L (c : Ch) : Fld :=
  ⟨0x8004 + 0x100 * c.val, 4, 4, .ro, 0, .none, 0, 15⟩
/-- R200, `CH_GDST` [15:8]. -/
def CH_GDST.TSW_RISE (c : Ch) : Fld :=
  ⟨0x8004 + 0x100 * c.val, 8, 8, .ro, 255, .none, 0, 255⟩
/-- R200, `CH_GDST` [23:16]. -/
def CH_GDST.TSW_FALL (c : Ch) : Fld :=
  ⟨0x8004 + 0x100 * c.val, 16, 8, .ro, 255, .none, 0, 255⟩
/-- R200, `CH_GDST` [24:24]. -/
def CH_GDST.GD_AT_BOUND (c : Ch) : Fld :=
  ⟨0x8004 + 0x100 * c.val, 24, 1, .w1c, 0, .none, 0, 1⟩
/-- R201, `CH_DT` [7:0]. -/
def CH_DT.DT_HL (c : Ch) : Fld :=
  ⟨0x8008 + 0x100 * c.val, 0, 8, .rwl, 20, .b, 4, 125⟩
/-- R201, `CH_DT` [15:8]. -/
def CH_DT.DT_LH (c : Ch) : Fld :=
  ⟨0x8008 + 0x100 * c.val, 8, 8, .rwl, 20, .b, 4, 125⟩
/-- R201, `CH_DT` [23:16]. -/
def CH_DT.BLANK (c : Ch) : Fld :=
  ⟨0x8008 + 0x100 * c.val, 16, 8, .rwl, 100, .b, 20, 250⟩
/-- R202, `CH_SC` [8:0]. -/
def CH_SC.SC_TH (c : Ch) : Fld :=
  ⟨0x800c + 0x100 * c.val, 0, 9, .rwl, 50, .b, 20, 400⟩
/-- R202, `CH_SC` [20:16]. -/
def CH_SC.SC_LIMIT (c : Ch) : Fld :=
  ⟨0x800c + 0x100 * c.val, 16, 5, .rwl, 4, .b, 1, 16⟩
/-- R202, `CH_OL` [7:0]. -/
def CH_OL.OL_TH (c : Ch) : Fld :=
  ⟨0x8010 + 0x100 * c.val, 0, 8, .rwl, 40, .b, 5, 250⟩
/-- R202, `CH_OL` [9:8]. -/
def CH_OL.OL_MODE (c : Ch) : Fld :=
  ⟨0x8010 + 0x100 * c.val, 8, 2, .rwl, 0, .b, 0, 2⟩
/-- R202, `CH_OL` [27:16]. -/
def CH_OL.OL_TIME (c : Ch) : Fld :=
  ⟨0x8010 + 0x100 * c.val, 16, 12, .rwl, 250, .b, 1, 4095⟩
/-- R203, `CH_FB` [12:0]. -/
def CH_FB.FB_VKNEE (c : Ch) : Fld :=
  ⟨0x8014 + 0x100 * c.val, 0, 13, .rwl, 1000, .b, 100, 4800⟩
/-- R203, `CH_FB` [22:16]. -/
def CH_FB.FB_IMIN (c : Ch) : Fld :=
  ⟨0x8014 + 0x100 * c.val, 16, 7, .rwl, 20, .b, 0, 100⟩
/-- R203, `CH_VLIM` [12:0]. -/
def CH_VLIM.OV_TH (c : Ch) : Fld :=
  ⟨0x8018 + 0x100 * c.val, 0, 13, .ro, 4250, .b, 0, 8191⟩
/-- R203, `CH_VLIM` [28:16]. -/
def CH_VLIM.UV_TH (c : Ch) : Fld :=
  ⟨0x8018 + 0x100 * c.val, 16, 13, .rwl, 2500, .b, 0, 4000⟩
/-- R203, `CH_ISO` [7:0]. -/
def CH_ISO.ISO_SETTLE (c : Ch) : Fld :=
  ⟨0x801c + 0x100 * c.val, 0, 8, .rwl, 50, .b, 5, 200⟩
/-- R203, `CH_ISO` [16:16]. -/
def CH_ISO.MEAS_CLOSE (c : Ch) : Fld :=
  ⟨0x801c + 0x100 * c.val, 16, 1, .rwl, 0, .b, 0, 1⟩
/-- R204, `CH_TEMP` [15:0]. -/
def CH_TEMP.T_WARN (c : Ch) : Fld :=
  ⟨0x8020 + 0x100 * c.val, 0, 16, .rwl, 4500, .b, 0, 65535⟩
/-- R204, `CH_TEMP` [31:16]. -/
def CH_TEMP.T_STOP (c : Ch) : Fld :=
  ⟨0x8020 + 0x100 * c.val, 16, 16, .rwl, 5500, .b, 0, 65535⟩
/-- R204, `CH_SENSE` [0:0]. -/
def CH_SENSE.KEL_EN (c : Ch) : Fld :=
  ⟨0x8024 + 0x100 * c.val, 0, 1, .rwl, 1, .b, 0, 1⟩
/-- R204, `CH_SENSE` [1:1]. -/
def CH_SENSE.NTC_EN (c : Ch) : Fld :=
  ⟨0x8024 + 0x100 * c.val, 1, 1, .rwl, 1, .b, 0, 1⟩
/-- R204, `CH_SENSE` [8:8]. -/
def CH_SENSE.KEL_TEST (c : Ch) : Fld :=
  ⟨0x8024 + 0x100 * c.val, 8, 1, .wo, 0, .none, 0, 1⟩
/-- R205, `CH_PSTAT` [0:0]. -/
def CH_PSTAT.GATES (c : Ch) : Fld :=
  ⟨0x8028 + 0x100 * c.val, 0, 1, .ro, 0, .none, 0, 1⟩
/-- R205, `CH_PSTAT` [2:1]. -/
def CH_PSTAT.ISO (c : Ch) : Fld :=
  ⟨0x8028 + 0x100 * c.val, 1, 2, .ro, 0, .none, 0, 3⟩
/-- R205, `CH_PSTAT` [3:3]. -/
def CH_PSTAT.DERATE (c : Ch) : Fld :=
  ⟨0x8028 + 0x100 * c.val, 3, 1, .ro, 0, .none, 0, 1⟩
/-- R205, `CH_PSTAT` [4:4]. -/
def CH_PSTAT.FB_LIMIT (c : Ch) : Fld :=
  ⟨0x8028 + 0x100 * c.val, 4, 1, .ro, 0, .none, 0, 1⟩
/-- R205, `CH_PSTAT` [5:5]. -/
def CH_PSTAT.KEL_OK (c : Ch) : Fld :=
  ⟨0x8028 + 0x100 * c.val, 5, 1, .ro, 0, .none, 0, 1⟩
/-- R205, `CH_PSTAT` [6:6]. -/
def CH_PSTAT.NTC_OK (c : Ch) : Fld :=
  ⟨0x8028 + 0x100 * c.val, 6, 1, .ro, 0, .none, 0, 1⟩
/-- R205, `CH_PSTAT` [7:7]. -/
def CH_PSTAT.REV (c : Ch) : Fld :=
  ⟨0x8028 + 0x100 * c.val, 7, 1, .ro, 0, .none, 0, 1⟩
/-- R205, `CH_PSTAT` [16:8]. -/
def CH_PSTAT.K_T (c : Ch) : Fld :=
  ⟨0x8028 + 0x100 * c.val, 8, 9, .ro, 256, .none, 0, 511⟩
/-- R205, `CH_PSTAT` [24:24]. -/
def CH_PSTAT.FAULT_ACTIVE (c : Ch) : Fld :=
  ⟨0x8028 + 0x100 * c.val, 24, 1, .ro, 0, .none, 0, 1⟩
/-- R206, `CH_PFLT` [0:0]. -/
def CH_PFLT.SC_HARD (c : Ch) : Fld :=
  ⟨0x802c + 0x100 * c.val, 0, 1, .w1c, 0, .w, 0, 1⟩
/-- R206, `CH_PFLT` [1:1]. -/
def CH_PFLT.SC_PERSIST (c : Ch) : Fld :=
  ⟨0x802c + 0x100 * c.val, 1, 1, .w1c, 0, .w, 0, 1⟩
/-- R206, `CH_PFLT` [2:2]. -/
def CH_PFLT.OL_FAULT (c : Ch) : Fld :=
  ⟨0x802c + 0x100 * c.val, 2, 1, .w1c, 0, .w, 0, 1⟩
/-- R206, `CH_PFLT` [3:3]. -/
def CH_PFLT.OV_TRIP (c : Ch) : Fld :=
  ⟨0x802c + 0x100 * c.val, 3, 1, .w1c, 0, .w, 0, 1⟩
/-- R206, `CH_PFLT` [4:4]. -/
def CH_PFLT.UV_TRIP (c : Ch) : Fld :=
  ⟨0x802c + 0x100 * c.val, 4, 1, .w1c, 0, .w, 0, 1⟩
/-- R206, `CH_PFLT` [5:5]. -/
def CH_PFLT.REVERSE (c : Ch) : Fld :=
  ⟨0x802c + 0x100 * c.val, 5, 1, .w1c, 0, .w, 0, 1⟩
/-- R206, `CH_PFLT` [6:6]. -/
def CH_PFLT.KEL_OPEN (c : Ch) : Fld :=
  ⟨0x802c + 0x100 * c.val, 6, 1, .w1c, 0, .w, 0, 1⟩
/-- R206, `CH_PFLT` [7:7]. -/
def CH_PFLT.NTC_OPEN (c : Ch) : Fld :=
  ⟨0x802c + 0x100 * c.val, 7, 1, .w1c, 0, .w, 0, 1⟩
/-- R206, `CH_PFLT` [8:8]. -/
def CH_PFLT.NTC_SHORT (c : Ch) : Fld :=
  ⟨0x802c + 0x100 * c.val, 8, 1, .w1c, 0, .w, 0, 1⟩
/-- R206, `CH_PFLT` [9:9]. -/
def CH_PFLT.BST_UV (c : Ch) : Fld :=
  ⟨0x802c + 0x100 * c.val, 9, 1, .w1c, 0, .w, 0, 1⟩
/-- R206, `CH_PFLT` [10:10]. -/
def CH_PFLT.BUS_SC (c : Ch) : Fld :=
  ⟨0x802c + 0x100 * c.val, 10, 1, .w1c, 0, .w, 0, 1⟩
/-- R206, `CH_PFLT` [11:11]. -/
def CH_PFLT.SHOOT_FAULT (c : Ch) : Fld :=
  ⟨0x802c + 0x100 * c.val, 11, 1, .ro, 0, .w, 0, 1⟩
/-- R207, `CH_PCNT` [7:0]. -/
def CH_PCNT.SC_CNT (c : Ch) : Fld :=
  ⟨0x8030 + 0x100 * c.val, 0, 8, .ro, 0, .none, 0, 255⟩
/-- R207, `CH_PCNT` [15:8]. -/
def CH_PCNT.SHOOT_REQ (c : Ch) : Fld :=
  ⟨0x8030 + 0x100 * c.val, 8, 8, .ro, 0, .none, 0, 255⟩
/-- R207, `CH_PCNT` [27:16]. -/
def CH_PCNT.OL_ACC (c : Ch) : Fld :=
  ⟨0x8030 + 0x100 * c.val, 16, 12, .ro, 0, .none, 0, 4095⟩
/-- R326, `CH_MCFG` [1:0]. -/
def CH_MCFG.CRANGE (c : Ch) : Fld :=
  ⟨0x8040 + 0x100 * c.val, 0, 2, .rwl, 3, .b, 0, 3⟩
/-- R326, `CH_MCFG` [8:8]. -/
def CH_MCFG.AUTO_UP (c : Ch) : Fld :=
  ⟨0x8040 + 0x100 * c.val, 8, 1, .rwl, 1, .b, 0, 1⟩
/-- R326, `CH_MRNG` [1:0]. -/
def CH_MRNG.REQ (c : Ch) : Fld :=
  ⟨0x8044 + 0x100 * c.val, 0, 2, .rw, 3, .b, 0, 3⟩
/-- R326, `CH_MRNG` [5:4]. -/
def CH_MRNG.ACTIVE (c : Ch) : Fld :=
  ⟨0x8044 + 0x100 * c.val, 4, 2, .ro, 3, .b, 0, 3⟩
/-- R326, `CH_MRNG` [8:8]. -/
def CH_MRNG.BUSY (c : Ch) : Fld :=
  ⟨0x8044 + 0x100 * c.val, 8, 1, .ro, 0, .b, 0, 1⟩
/-- R326, `CH_MRNG` [9:9]. -/
def CH_MRNG.DENIED (c : Ch) : Fld :=
  ⟨0x8044 + 0x100 * c.val, 9, 1, .w1c, 0, .b, 0, 1⟩
/-- R326, `CH_RSHUNT` [31:0]. -/
def CH_RSHUNT.RSHUNT (c : Ch) : Fld :=
  ⟨0x8048 + 0x100 * c.val, 0, 32, .rwl, 1000000, .b, 10000, 1000000000⟩
/-- R326, `CH_MTRIM` [15:0]. -/
def CH_MTRIM.GAIN (c : Ch) : Fld :=
  ⟨0x804c + 0x100 * c.val, 0, 16, .rwl, 0, .b, 0, 65535⟩
/-- R326, `CH_MTRIM` [31:16]. -/
def CH_MTRIM.OFS (c : Ch) : Fld :=
  ⟨0x804c + 0x100 * c.val, 16, 16, .rwl, 0, .b, 0, 65535⟩
/-- R326, `CH_RKEL` [15:0]. -/
def CH_RKEL.RKEL (c : Ch) : Fld :=
  ⟨0x8050 + 0x100 * c.val, 0, 16, .rwl, 0, .b, 0, 65535⟩
/-- R326, `CH_MSTAT` [1:0]. -/
def CH_MSTAT.SRC (c : Ch) : Fld :=
  ⟨0x8054 + 0x100 * c.val, 0, 2, .ro, 0, .b, 0, 3⟩
/-- R326, `CH_MSTAT` [4:4]. -/
def CH_MSTAT.OVLD (c : Ch) : Fld :=
  ⟨0x8054 + 0x100 * c.val, 4, 1, .ro, 0, .b, 0, 1⟩
/-- R326, `CH_MSTAT` [5:5]. -/
def CH_MSTAT.CAL_PENDING (c : Ch) : Fld :=
  ⟨0x8054 + 0x100 * c.val, 5, 1, .ro, 1, .w, 0, 1⟩
/-- R326, `CH_MSTAT` [6:6]. -/
def CH_MSTAT.EXCL (c : Ch) : Fld :=
  ⟨0x8054 + 0x100 * c.val, 6, 1, .ro, 0, .b, 0, 1⟩
/-- R326, `CH_MSTAT` [31:16]. -/
def CH_MSTAT.SAR_SUB (c : Ch) : Fld :=
  ⟨0x8054 + 0x100 * c.val, 16, 16, .ro, 0, .b, 0, 65535⟩
/-- R326, `CH_MV` [31:0]. -/
def CH_MV.MV (c : Ch) : Fld :=
  ⟨0x8058 + 0x100 * c.val, 0, 32, .ro, 0, .b, 0, 4294967295⟩
/-- R326, `CH_MI` [31:0]. -/
def CH_MI.MI (c : Ch) : Fld :=
  ⟨0x805c + 0x100 * c.val, 0, 32, .ro, 0, .b, 0, 4294967295⟩
/-- R326, `CH_MTEMP` [15:0]. -/
def CH_MTEMP.T (c : Ch) : Fld :=
  ⟨0x8060 + 0x100 * c.val, 0, 16, .ro, 0, .b, 0, 65535⟩
/-- R326, `CH_MTEMP` [16:16]. -/
def CH_MTEMP.VALID (c : Ch) : Fld :=
  ⟨0x8060 + 0x100 * c.val, 16, 1, .ro, 0, .b, 0, 1⟩
/-- R326, `CH_LCTL` [4:0]. -/
def CH_LCTL.IDX (c : Ch) : Fld :=
  ⟨0x8064 + 0x100 * c.val, 0, 5, .rw, 0, .none, 0, 31⟩
/-- R326, `CH_LCTL` [8:8]. -/
def CH_LCTL.SNAP (c : Ch) : Fld :=
  ⟨0x8064 + 0x100 * c.val, 8, 1, .wo, 0, .none, 0, 1⟩
/-- R326, `CH_LCTL` [9:9]. -/
def CH_LCTL.CLEAR (c : Ch) : Fld :=
  ⟨0x8064 + 0x100 * c.val, 9, 1, .wo, 0, .none, 0, 1⟩
/-- R326, `CH_LCTL` [16:16]. -/
def CH_LCTL.SNAP_VALID (c : Ch) : Fld :=
  ⟨0x8064 + 0x100 * c.val, 16, 1, .ro, 0, .none, 0, 1⟩
/-- R326, `CH_LDATA` [31:0]. -/
def CH_LDATA.DATA (c : Ch) : Fld :=
  ⟨0x8068 + 0x100 * c.val, 0, 32, .ro, 0, .none, 0, 4294967295⟩
/-- R409, `CH_SCFG` [11:0]. -/
def CH_SCFG.T_SS (c : Ch) : Fld :=
  ⟨0x8080 + 0x100 * c.val, 0, 12, .rwl, 250, .b, 1, 4095⟩
/-- R409, `CH_SCFG` [13:12]. -/
def CH_SCFG.BAL_CLASS (c : Ch) : Fld :=
  ⟨0x8080 + 0x100 * c.val, 12, 2, .rwl, 1, .b, 0, 2⟩
/-- R409, `CH_SCFG` [16:16]. -/
def CH_SCFG.STARVE_RESUME (c : Ch) : Fld :=
  ⟨0x8080 + 0x100 * c.val, 16, 1, .rwl, 0, .b, 0, 1⟩
/-- R409, `CH_SSHORT` [15:0]. -/
def CH_SSHORT.V_SHORT (c : Ch) : Fld :=
  ⟨0x8084 + 0x100 * c.val, 0, 16, .rwl, 50, .b, 10, 1000⟩
/-- R409, `CH_SSHORT` [31:16]. -/
def CH_SSHORT.Q_CONFIRM (c : Ch) : Fld :=
  ⟨0x8084 + 0x100 * c.val, 16, 16, .rwl, 1800, .b, 1, 65535⟩
/-- R409, `CH_SSTAT` [2:0]. -/
def CH_SSTAT.STATE (c : Ch) : Fld :=
  ⟨0x8088 + 0x100 * c.val, 0, 3, .ro, 3, .none, 0, 7⟩
/-- R409, `CH_SSTAT` [15:8]. -/
def CH_SSTAT.OP (c : Ch) : Fld :=
  ⟨0x8088 + 0x100 * c.val, 8, 8, .ro, 0, .none, 0, 255⟩
/-- R409, `CH_SSTAT` [19:16]. -/
def CH_SSTAT.PHASE (c : Ch) : Fld :=
  ⟨0x8088 + 0x100 * c.val, 16, 4, .ro, 0, .none, 0, 15⟩
/-- R409, `CH_SSTAT` [27:24]. -/
def CH_SSTAT.HOLD_WHY (c : Ch) : Fld :=
  ⟨0x8088 + 0x100 * c.val, 24, 4, .ro, 6, .none, 0, 15⟩
/-- R409, `CH_SQIDX` [15:0]. -/
def CH_SQIDX.RUN_IDX (c : Ch) : Fld :=
  ⟨0x808c + 0x100 * c.val, 0, 16, .ro, 65535, .none, 0, 65535⟩
/-- R409, `CH_SQIDX` [31:16]. -/
def CH_SQIDX.ARM_IDX (c : Ch) : Fld :=
  ⟨0x808c + 0x100 * c.val, 16, 16, .ro, 65535, .none, 0, 65535⟩
/-- R409, `CH_STICKS` [31:0]. -/
def CH_STICKS.TICKS (c : Ch) : Fld :=
  ⟨0x8090 + 0x100 * c.val, 0, 32, .ro, 0, .none, 0, 4294967295⟩
/-- R409, `CH_SBAL` [8:0]. -/
def CH_SBAL.K_BAL (c : Ch) : Fld :=
  ⟨0x8094 + 0x100 * c.val, 0, 9, .ro, 256, .none, 0, 511⟩
/-- R409, `CH_SBAL` [31:16]. -/
def CH_SBAL.BAL_TICKS (c : Ch) : Fld :=
  ⟨0x8094 + 0x100 * c.val, 16, 16, .ro, 0, .none, 0, 65535⟩

/-! ### QD blocks (R264) -/

/-- R265, `QD_STAT` [7:0]. -/
def QD_STAT.BUSY (q : Quad) : Fld :=
  ⟨0x9000 + 0x400 * q.val, 0, 8, .ro, 0, .none, 0, 255⟩
/-- R265, `QD_STAT` [11:8]. -/
def QD_STAT.CHECK (q : Quad) : Fld :=
  ⟨0x9000 + 0x400 * q.val, 8, 4, .ro, 0, .none, 0, 15⟩
/-- R265, `QD_STAT` [15:12]. -/
def QD_STAT.OVR (q : Quad) : Fld :=
  ⟨0x9000 + 0x400 * q.val, 12, 4, .ro, 0, .none, 0, 15⟩
/-- R265, `QD_STAT` [16:16]. -/
def QD_STAT.PASSB_ON (q : Quad) : Fld :=
  ⟨0x9000 + 0x400 * q.val, 16, 1, .ro, 1, .none, 0, 1⟩
/-- R265, `QD_PCMD` [2:0]. -/
def QD_PCMD.SLOT (q : Quad) : Fld :=
  ⟨0x9004 + 0x400 * q.val, 0, 3, .rw, 0, .none, 0, 7⟩
/-- R265, `QD_PCMD` [5:4]. -/
def QD_PCMD.CMD (q : Quad) : Fld :=
  ⟨0x9004 + 0x400 * q.val, 4, 2, .wo, 0, .none, 0, 3⟩
/-- R265, `QD_PCMD` [15:8]. -/
def QD_PCMD.RESULT (q : Quad) : Fld :=
  ⟨0x9004 + 0x400 * q.val, 8, 8, .ro, 0, .none, 0, 255⟩
/-- R266, `QD_PHDR` [2:0]. -/
def QD_PHDR.TMPL (q : Quad) : Fld :=
  ⟨0x9008 + 0x400 * q.val, 0, 3, .rw, 1, .none, 0, 7⟩
/-- R266, `QD_PHDR` [6:4]. -/
def QD_PHDR.OUTER (q : Quad) : Fld :=
  ⟨0x9008 + 0x400 * q.val, 4, 3, .rw, 0, .none, 0, 7⟩
/-- R266, `QD_PHDR` [9:8]. -/
def QD_PHDR.XFORM (q : Quad) : Fld :=
  ⟨0x9008 + 0x400 * q.val, 8, 2, .rw, 0, .none, 0, 3⟩
/-- R266, `QD_PHDR` [12:12]. -/
def QD_PHDR.GANG_OK (q : Quad) : Fld :=
  ⟨0x9008 + 0x400 * q.val, 12, 1, .rw, 0, .none, 0, 1⟩
/-- R266, `QD_PWIN` [15:0]. -/
def QD_PWIN.TW (q : Quad) : Fld :=
  ⟨0x900c + 0x400 * q.val, 0, 16, .rw, 2048, .none, 1, 65535⟩
/-- R266, `QD_PWIN` [31:16]. -/
def QD_PWIN.FE_TIME (q : Quad) : Fld :=
  ⟨0x900c + 0x400 * q.val, 16, 16, .rw, 250, .none, 1, 65535⟩
/-- R266, `QD_PFE` [23:0]. -/
def QD_PFE.FE_LIMIT (q : Quad) : Fld :=
  ⟨0x9010 + 0x400 * q.val, 0, 24, .rw, 1048576, .none, 0, 16777215⟩
/-- R266, `QD_PUMIN` [19:0]. -/
def QD_PUMIN.U_MIN (q : Quad) : Fld :=
  ⟨0x9014 + 0x400 * q.val, 0, 20, .rw, 0, .none, 0, 1048575⟩
/-- R266, `QD_PUMAX` [19:0]. -/
def QD_PUMAX.U_MAX (q : Quad) : Fld :=
  ⟨0x9018 + 0x400 * q.val, 0, 20, .rw, 1048575, .none, 0, 1048575⟩
/-- R268, `QD_TRCTL` [0:0]. -/
def QD_TRCTL.EN (q : Quad) : Fld :=
  ⟨0x9100 + 0x400 * q.val, 0, 1, .rw, 0, .c, 0, 1⟩
/-- R268, `QD_TRCTL` [2:1]. -/
def QD_TRCTL.MODE (q : Quad) : Fld :=
  ⟨0x9100 + 0x400 * q.val, 1, 2, .rw, 0, .c, 0, 1⟩
/-- R268, `QD_TRCTL` [3:3]. -/
def QD_TRCTL.SWTRIG (q : Quad) : Fld :=
  ⟨0x9100 + 0x400 * q.val, 3, 1, .wo, 0, .none, 0, 1⟩
/-- R268, `QD_TRCTL` [27:16]. -/
def QD_TRCTL.POST (q : Quad) : Fld :=
  ⟨0x9100 + 0x400 * q.val, 16, 12, .rw, 2048, .c, 0, 4095⟩
/-- R268, `QD_TRTRIG` [3:0]. -/
def QD_TRTRIG.SRC (q : Quad) : Fld :=
  ⟨0x9104 + 0x400 * q.val, 0, 4, .rw, 0, .c, 0, 15⟩
/-- R268, `QD_TRTRIG` [5:4]. -/
def QD_TRTRIG.CHAN (q : Quad) : Fld :=
  ⟨0x9104 + 0x400 * q.val, 4, 2, .rw, 0, .c, 0, 3⟩
/-- R268, `QD_TRTRIG` [8:8]. -/
def QD_TRTRIG.XQ (q : Quad) : Fld :=
  ⟨0x9104 + 0x400 * q.val, 8, 1, .rw, 0, .c, 0, 1⟩
/-- R268, `QD_TRSTAT` [1:0]. -/
def QD_TRSTAT.STATE (q : Quad) : Fld :=
  ⟨0x9108 + 0x400 * q.val, 0, 2, .ro, 0, .c, 0, 3⟩
/-- R268, `QD_TRSTAT` [15:4]. -/
def QD_TRSTAT.WIDX (q : Quad) : Fld :=
  ⟨0x9108 + 0x400 * q.val, 4, 12, .ro, 0, .c, 0, 4095⟩
/-- R268, `QD_TRSTAT` [27:16]. -/
def QD_TRSTAT.TIDX (q : Quad) : Fld :=
  ⟨0x9108 + 0x400 * q.val, 16, 12, .ro, 0, .c, 0, 4095⟩
/-- R268, `QD_TRTICKL` [31:0]. -/
def QD_TRTICKL.TICK_LO (q : Quad) : Fld :=
  ⟨0x910c + 0x400 * q.val, 0, 32, .ro, 0, .c, 0, 4294967295⟩
/-- R268, `QD_TRTICKH` [15:0]. -/
def QD_TRTICKH.TICK_HI (q : Quad) : Fld :=
  ⟨0x9110 + 0x400 * q.val, 0, 16, .ro, 0, .c, 0, 65535⟩
/-- R268, `QD_TRADDR` [11:0]. -/
def QD_TRADDR.INDEX (q : Quad) : Fld :=
  ⟨0x9140 + 0x400 * q.val, 0, 12, .rw, 0, .none, 0, 4095⟩
/-- R268, `QD_TRADDR` [14:12]. -/
def QD_TRADDR.PROBE (q : Quad) : Fld :=
  ⟨0x9140 + 0x400 * q.val, 12, 3, .rw, 0, .none, 0, 7⟩
/-- R268, `QD_TRDATA` [31:0]. -/
def QD_TRDATA.DATA (q : Quad) : Fld :=
  ⟨0x9144 + 0x400 * q.val, 0, 32, .ro, 0, .c, 0, 4294967295⟩
/-- R267, `QD_CSTAT` [2:0]. -/
def QD_CSTAT.PROF (q : Quad) (n : Fin 4) : Fld :=
  ⟨0x9020 + 0x400 * q.val + 4 * n.val, 0, 3, .ro, 0, .none, 0, 7⟩
/-- R267, `QD_CSTAT` [3:3]. -/
def QD_CSTAT.BANK (q : Quad) (n : Fin 4) : Fld :=
  ⟨0x9020 + 0x400 * q.val + 4 * n.val, 3, 1, .ro, 0, .none, 0, 1⟩
/-- R267, `QD_CSTAT` [4:4]. -/
def QD_CSTAT.CLOSED (q : Quad) (n : Fin 4) : Fld :=
  ⟨0x9020 + 0x400 * q.val + 4 * n.val, 4, 1, .ro, 0, .none, 0, 1⟩
/-- R267, `QD_CSTAT` [6:5]. -/
def QD_CSTAT.GANG (q : Quad) (n : Fin 4) : Fld :=
  ⟨0x9020 + 0x400 * q.val + 4 * n.val, 5, 2, .ro, 0, .none, 0, 3⟩
/-- R267, `QD_CSTAT` [9:8]. -/
def QD_CSTAT.LAST (q : Quad) (n : Fin 4) : Fld :=
  ⟨0x9020 + 0x400 * q.val + 4 * n.val, 8, 2, .ro, 3, .none, 0, 3⟩
/-- R267, `QD_CSTAT` [11:10]. -/
def QD_CSTAT.REASON (q : Quad) (n : Fin 4) : Fld :=
  ⟨0x9020 + 0x400 * q.val + 4 * n.val, 10, 2, .ro, 0, .none, 0, 3⟩
/-- R267, `QD_CSTAT` [15:12]. -/
def QD_CSTAT.K (q : Quad) (n : Fin 4) : Fld :=
  ⟨0x9020 + 0x400 * q.val + 4 * n.val, 12, 4, .ro, 0, .none, 0, 15⟩
/-- R267, `QD_CSTAT` [31:16]. -/
def QD_CSTAT.FE_CNT (q : Quad) (n : Fin 4) : Fld :=
  ⟨0x9020 + 0x400 * q.val + 4 * n.val, 16, 16, .ro, 0, .none, 0, 65535⟩
/-- R267, `QD_LCNT` [23:0]. -/
def QD_LCNT.ROLLBACKS (q : Quad) (n : Fin 4) : Fld :=
  ⟨0x9030 + 0x400 * q.val + 4 * n.val, 0, 24, .ro, 0, .none, 0, 16777215⟩
/-- R267, `QD_LCNT` [27:24]. -/
def QD_LCNT.OVERRUNS (q : Quad) (n : Fin 4) : Fld :=
  ⟨0x9030 + 0x400 * q.val + 4 * n.val, 24, 4, .ro, 0, .none, 0, 15⟩
/-- R267, `QD_LCNT` [31:28]. -/
def QD_LCNT.CHECKS (q : Quad) (n : Fin 4) : Fld :=
  ⟨0x9030 + 0x400 * q.val + 4 * n.val, 28, 4, .ro, 0, .none, 0, 15⟩
/-- R266, `QD_PCOEF` [23:0]. -/
def QD_PCOEF.COEF (q : Quad) (n : Fin 32) : Fld :=
  ⟨0x9040 + 0x400 * q.val + 4 * n.val, 0, 24, .rw, 0, .none, 0, 16777215⟩
/-- R268, `QD_TRSEL` [1:0]. -/
def QD_TRSEL.CHAN (q : Quad) (n : Fin 8) : Fld :=
  ⟨0x9120 + 0x400 * q.val + 4 * n.val, 0, 2, .rw, 0, .c, 0, 3⟩
/-- R268, `QD_TRSEL` [12:8]. -/
def QD_TRSEL.NODE (q : Quad) (n : Fin 8) : Fld :=
  ⟨0x9120 + 0x400 * q.val + 4 * n.val, 8, 5, .rw, 0, .c, 0, 31⟩

/-! ### CMP block (R705) -/

/-- R708, `CMP_CFG` [4:0]. -/
def CMP_CFG.WIN (i : CmpId) : Fld :=
  ⟨0xa000 + 4 * i.val, 0, 5, .rwl, cmpWinRst i.val, .b, 1, 31⟩
/-- R708, `CMP_CFG` [9:5]. -/
def CMP_CFG.THR (i : CmpId) : Fld :=
  ⟨0xa000 + 4 * i.val, 5, 5, .rwl, cmpThrRst i.val, .b, 0, 31⟩
/-- R708, `CMP_CFG` [12:10]. -/
def CMP_CFG.DIV (i : CmpId) : Fld :=
  ⟨0xa000 + 4 * i.val, 10, 3, .rwl, 0, .b, 0, 7⟩
/-- R708, `CMP_CFG` [13:13]. -/
def CMP_CFG.LATCH (i : CmpId) : Fld :=
  ⟨0xa000 + 4 * i.val, 13, 1, .rwl, 0, .b, 0, 1⟩
/-- R708, `CMP_RAW` [31:0]. -/
def CMP_RAW.RAW (m : Fin 3) : Fld :=
  ⟨0xa200 + 4 * m.val, 0, 32, .ro, 0, .none, 0, 4294967295⟩
/-- R708, `CMP_FILT` [31:0]. -/
def CMP_FILT.FILT (m : Fin 3) : Fld :=
  ⟨0xa210 + 4 * m.val, 0, 32, .ro, 0, .none, 0, 4294967295⟩
/-- R708, `CMP_LAT` [31:0]. -/
def CMP_LAT.LAT (m : Fin 3) : Fld :=
  ⟨0xa220 + 4 * m.val, 0, 32, .w1c, 0, .b, 0, 4294967295⟩
/-- R708, `CMP_INIT` [31:0]. -/
def CMP_INIT.INIT (m : Fin 3) : Fld :=
  ⟨0xa230 + 4 * m.val, 0, 32, .ro, 0, .none, 0, 4294967295⟩

/-! ### DBG block (R761) -/

/-- R762, `DBG_CTL` [0:0]. -/
def DBG_CTL.HALT_SEQ : Fld :=
  ⟨0xb000, 0, 1, .rws, 0, .b, 0, 1⟩
/-- R762, `DBG_CTL` [1:1]. -/
def DBG_CTL.HALT_MOT : Fld :=
  ⟨0xb000, 1, 1, .rws, 0, .b, 0, 1⟩
/-- R762, `DBG_CTL` [2:2]. -/
def DBG_CTL.HALT_SAF : Fld :=
  ⟨0xb000, 2, 1, .rws, 0, .b, 0, 1⟩
/-- R762, `DBG_CTL` [7:4]. -/
def DBG_CTL.LE_STEP : Fld :=
  ⟨0xb000, 4, 4, .rws, 0, .b, 0, 15⟩
/-- R762, `DBG_LESTEP` [3:0]. -/
def DBG_LESTEP.CH : Fld :=
  ⟨0xb004, 0, 4, .wo, 0, .none, 0, 15⟩
/-- R762, `DBG_LESTEP` [8:8]. -/
def DBG_LESTEP.GO : Fld :=
  ⟨0xb004, 8, 1, .wo, 0, .none, 0, 1⟩
/-- R762, `DBG_STAT` [2:0]. -/
def DBG_STAT.HALTED : Fld :=
  ⟨0xb008, 0, 3, .ro, 0, .b, 0, 7⟩
/-- R762, `DBG_STAT` [7:4]. -/
def DBG_STAT.STEPPING : Fld :=
  ⟨0xb008, 4, 4, .ro, 0, .b, 0, 15⟩
/-- R762, `DBG_STAT` [8:8]. -/
def DBG_STAT.UNCHECKED : Fld :=
  ⟨0xb008, 8, 1, .ro, 0, .w, 0, 1⟩

/-- The registers of the SYS block by offset within it, with their fields. -/
def regTableSYS : List (Nat × List Fld) :=
  [(0x0, [SYS_ID.ONE, SYS_ID.MFR, SYS_ID.PART, SYS_ID.VER]),
   (0x4, [SYS_PART.GRADE, SYS_PART.REV, SYS_PART.PKG]),
   (0x8, [SYS_UIDL.UID_LO]),
   (0xc, [SYS_UIDH.UID_HI]),
   (0x10, [SYS_PCIID.VID, SYS_PCIID.DID]),
   (0x14, [SYS_STRAP.ROLE, SYS_STRAP.BOOTSEL]),
   (0x18, [SYS_MODE.MODE, SYS_MODE.TARGET, SYS_MODE.TRANS]),
   (0x1c, [SYS_RSTCAUSE.CAUSE, SYS_RSTCAUSE.WAKE, SYS_RSTCAUSE.BOOTS]),
   (0x20, [SYS_LASTMODE.LMODE, SYS_LASTMODE.VALID]),
   (0x24, [SYS_PARKTL.TICK_LO]),
   (0x28, [SYS_PARKTH.TICK_HI]),
   (0x2c, [SYS_PARK.WAKE_TRAY, SYS_PARK.WAKE_VB, SYS_PARK.WAKE_RING, SYS_PARK.WAKE_RST, SYS_PARK.VB_TH]),
   (0x30, [SYS_TICK.PERIOD, SYS_TICK.PPT, SYS_TICK.TLM_DIV]),
   (0x34, [SYS_TICKSTAT.PEND, SYS_TICKSTAT.SWITCH, SYS_TICKSTAT.INFORCE]),
   (0x38, [SYS_TICKL.TICK_LO]),
   (0x3c, [SYS_TICKH.TICK_HI]),
   (0x40, [SYS_CLK.LOCK, SYS_CLK.REF, SYS_CLK.XTAL, SYS_CLK.STEER]),
   (0x44, [SYS_CLKERR.CLK_LOST, SYS_CLKERR.REF_SWITCH, SYS_CLKERR.LOCK_LOSS]),
   (0x48, [SYS_WERR.OFFSET, SYS_WERR.CODE, SYS_WERR.PATH, SYS_WERR.CLEAR, SYS_WERR.COUNT]),
   (0x4c, [SYS_SCRATCH.DATA])]

/-- The registers of the HOST block by offset within it, with their fields. -/
def regTableHOST : List (Nat × List Fld) :=
  [(0x0, [HOST_CTL.QEN, HOST_CTL.CPQ_EN, HOST_CTL.EVQ_EN, HOST_CTL.TLR_EN, HOST_CTL.DB_EN]),
   (0x4, [HOST_STAT.IS_HEAD, HOST_STAT.LINK, HOST_STAT.XTAG, HOST_STAT.RDOUT, HOST_STAT.CBUF]),
   (0x8, [HOST_DBCFG.DB_POLL]),
   (0xc, [HOST_ERR.QERR, HOST_ERR.CPQ_ERR, HOST_ERR.EVQ_ERR, HOST_ERR.TLR_ERR, HOST_ERR.EVQ_OVF]),
   (0x10, [HOST_ERRINFO.QUEUE, HOST_ERRINFO.CODE]),
   (0x14, [HOST_EVQLOST.LOST]),
   (0x18, [HOST_TLMLOST.TLM_LOST]),
   (0x1c, [HOST_CHOLD.CH]),
   (0x20, [HOST_MSIXMOD.MOD0, HOST_MSIXMOD.MOD1, HOST_MSIXMOD.MOD2, HOST_MSIXMOD.MOD3, HOST_MSIXMOD.MOD4, HOST_MSIXMOD.MOD5, HOST_MSIXMOD.MOD6, HOST_MSIXMOD.MOD7]),
   (0x40, [HOST_CPQBLO.BASE]),
   (0x44, [HOST_CPQBHI.BASE]),
   (0x48, [HOST_CPQCFG.LOG2]),
   (0x4c, [HOST_CPQPOS.COUNT]),
   (0x50, [HOST_EVQBLO.BASE]),
   (0x54, [HOST_EVQBHI.BASE]),
   (0x58, [HOST_EVQCFG.LOG2]),
   (0x5c, [HOST_EVQPOS.COUNT]),
   (0x60, [HOST_TLRBLO.BASE]),
   (0x64, [HOST_TLRBHI.BASE]),
   (0x68, [HOST_TLRCFG.LOG2]),
   (0x6c, [HOST_TLRPOS.REPSEQ]),
   (0x70, [HOST_DBBLO.BASE]),
   (0x74, [HOST_DBBHI.BASE]),
   (0x78, [HOST_SUMLO.ADDR])] ++
  [(0x7c, [HOST_SUMHI.BASE]),
   (0x880, [HOST_MSIXPBA.PBA])] ++
  (List.finRange 18).map (fun n => (0x100 + 16 * n.val, [HOST_QBLO.BASE n])) ++
  (List.finRange 18).map (fun n => (0x104 + 16 * n.val, [HOST_QBHI.BASE n])) ++
  (List.finRange 18).map (fun n => (0x108 + 16 * n.val, [HOST_QCFG.LOG2 n])) ++
  (List.finRange 18).map (fun n => (0x10c + 16 * n.val, [HOST_QSTAT.FETCHED n, HOST_QSTAT.DONE n])) ++
  (List.finRange 32).map (fun n => (0x800 + 4 * n.val, [HOST_MSIXTAB.TABLE n]))

/-- The registers of the RING block by offset within it, with their fields. -/
def regTableRING : List (Nat × List Fld) :=
  [(0x0, [RING_CTL.ENUM, RING_CTL.LATE_OK]),
   (0x4, [RING_STAT.STATE, RING_STAT.HEAD, RING_STAT.LATE, RING_STAT.POS, RING_STAT.NPOS, RING_STAT.POS_VALID, RING_STAT.LINKA, RING_STAT.LINKB, RING_STAT.BYPA, RING_STAT.BYPB, RING_STAT.WRAPA, RING_STAT.WRAPB]),
   (0x8, [RING_DCFG.RTO, RING_DCFG.RETRIES, RING_DCFG.RDTO]),
   (0xc, [RING_DLY.DA, RING_DLY.FWD]),
   (0x10, [RING_LOOP.LOOP, RING_LOOP.ALIGN]),
   (0x14, [RING_ERR.LOCK_A, RING_ERR.LOCK_B, RING_ERR.SPAN_FAIL, RING_ERR.WRAPPED, RING_ERR.DATA_FAIL, RING_ERR.REG_TMO, RING_ERR.UNMAPPED, RING_ERR.JOIN_REFUSED, RING_ERR.LEAVE, RING_ERR.TICK_ALIGN, RING_ERR.PERIOD_NAK]),
   (0x18, [RING_PRESENT.PRES]),
   (0x1c, [RING_WAKE.COUNT, RING_WAKE.GO, RING_WAKE.BUSY]),
   (0x40, [RING_BARSEL.TAG]),
   (0x44, [RING_BARTGT.TGT]),
   (0x48, [RING_BARCNT.CNT]),
   (0x4c, [RING_BARSETL.SET]),
   (0x50, [RING_BARSETH.SET]),
   (0x54, [RING_BARVL.BARV]),
   (0x58, [RING_BARVH.BARV]),
   (0x5c, [RING_SAFEV.SAFEV])] ++
  [RingId.a, RingId.b].map (fun r => (0x20 + 16 * (match r with | .a => 0 | .b => 1), [RING_CNT0.CODE r, RING_CNT0.LOCK r])) ++
  [RingId.a, RingId.b].map (fun r => (0x24 + 16 * (match r with | .a => 0 | .b => 1), [RING_CNT1.PCRC r, RING_CNT1.SCRC r, RING_CNT1.DCRC r])) ++
  [RingId.a, RingId.b].map (fun r => (0x28 + 16 * (match r with | .a => 0 | .b => 1), [RING_CNT2.MISS r, RING_CNT2.LATE r])) ++
  [RingId.a, RingId.b].map (fun r => (0x2c + 16 * (match r with | .a => 0 | .b => 1), [RING_CNT3.RETX r, RING_CNT3.SPLICE r, RING_CNT3.WRAP r]))

/-- The registers of the FLT block by offset within it, with their fields. -/
def regTableFLT : List (Nat × List Fld) :=
  [(0x20, [FLT_SEL.SRC]),
   (0x24, [FLT_REACT.REACT, FLT_REACT.ALLOW, FLT_REACT.FLOOR, FLT_REACT.CLR, FLT_REACT.OWNER]),
   (0x28, [FLT_CHMASK.CH]),
   (0x2c, [FLT_CNT.COUNT]),
   (0x30, [FLT_FIRST.SRC, FLT_FIRST.VALID]),
   (0x34, [FLT_LREC0.SRC, FLT_LREC0.CHAN, FLT_LREC0.MODE, FLT_LREC0.REACT, FLT_LREC0.VALID]),
   (0x38, [FLT_LREC1.TICK_LO]),
   (0x3c, [FLT_LREC2.TICK_HI]),
   (0x40, [FLT_ERRN.LOW, FLT_ERRN.HOLD, FLT_ERRN.NERR]),
   (0x44, [FLT_RB.SRC, FLT_RB.VALID]),
   (0x48, [FLT_DRVEN.LEVEL, FLT_DRVEN.ARMED, FLT_DRVEN.TOGGLES]),
   (0x4c, [FLT_INJ.SRC, FLT_INJ.GO]),
   (0x60, [FLT_DUMPBLO.BASE]),
   (0x64, [FLT_DUMPBHI.BASE]),
   (0x68, [FLT_DUMPLEN.LEN]),
   (0x6c, [FLT_DUMPCTL.TRG_CHIP, FLT_DUMPCTL.TRG_SAF, FLT_DUMPCTL.TRG_SAFE, FLT_DUMPCTL.ACK]),
   (0x70, [FLT_DUMPSTAT.STATE, FLT_DUMPSTAT.REQ, FLT_DUMPSTAT.SNAP_VALID, FLT_DUMPSTAT.TRACE_LOST, FLT_DUMPSTAT.MISSED]),
   (0x74, [FLT_DUMPSEQ.DSEQ])] ++
  (List.finRange 4).map (fun m => (0x0 + 4 * m.val, [FLT_ACT.ACT m])) ++
  (List.finRange 4).map (fun m => (0x10 + 4 * m.val, [FLT_REC.REC m]))

/-- The registers of the SAF block by offset within it, with their fields. -/
def regTableSAF : List (Nat × List Fld) :=
  [(0x0, [SAF_STAT.DEMAND, SAF_STAT.SFAULT, SAF_STAT.OWN, SAF_STAT.LATCH, SAF_STAT.CHECK_ON, SAF_STAT.INJ_OK, SAF_STAT.DBG_UNCHECKED, SAF_STAT.SVC, SAF_STAT.SS1, SAF_STAT.BRK_CLAMP, SAF_STAT.K, SAF_STAT.INJ_AGE]),
   (0x4, [SAF_CAUSE.FIRST, SAF_CAUSE.POS]),
   (0x8, [SAF_CAUSEV.SF, SAF_CAUSEV.OTHER]),
   (0xc, [SAF_PSET.ID, SAF_PSET.LOADED]),
   (0x10, [SAF_PSETCRC.CRC]),
   (0x14, [SAF_PREAD.WORD]),
   (0x18, [SAF_PDATA.DATA]),
   (0x1c, [SAF_IO.IN, SAF_IO.EST_DEM, SAF_IO.EST_DISC, SAF_IO.CEN, SAF_IO.IEN, SAF_IO.MEN]),
   (0x20, [SAF_KCTL.REQ]),
   (0x24, [SAF_KSTAT.STATE, SAF_KSTAT.FCAUSE, SAF_KSTAT.CYCLES]),
   (0x28, [SAF_SKEW.COUNT, SAF_SKEW.LAST]),
   (0x2c, [SAF_CYC.CYC]),
   (0x30, [SAF_SF6SEL.CHAN]),
   (0x34, [SAF_SF6Q.Q]),
   (0x38, [SAF_SF6T.T]),
   (0x3c, [SAF_SF6L.LOCK]),
   (0x40, [SAF_BRKB.ON, SAF_BRKB.OFF]),
   (0x44, [SAF_BRKBD.DMAX]),
   (0x48, [SAF_VBLIM.OV_TH]),
   (0x4c, [SAF_MSTAT.FAIL]),
   (0x50, [SAF_RUNSET.SET])]

/-- The registers of the MET block by offset within it, with their fields. -/
def regTableMET : List (Nat × List Fld) :=
  [(0x0, [MET_CFG.ODR_DIV, MET_CFG.SAR_TRACK, MET_CFG.IBX_EN]),
   (0x4, [MET_IBX.PERIOD, MET_IBX.OVL]),
   (0x8, [MET_IBXTOL.TOL]),
   (0xc, [MET_IBXSTAT.S0, MET_IBXSTAT.RC0, MET_IBXSTAT.T0, MET_IBXSTAT.S1, MET_IBXSTAT.RC1, MET_IBXSTAT.T1, MET_IBXSTAT.QUEUE, MET_IBXSTAT.BEHIND, MET_IBXSTAT.CAL_DONE]),
   (0x10, [MET_IBXCNT.HANDOVERS, MET_IBXCNT.MISMATCH, MET_IBXCNT.PREEMPT]),
   (0x14, [MET_REF.VREF, MET_REF.EXT]),
   (0x18, [MET_REFSTAT.DEV, MET_REFSTAT.REF_OK]),
   (0x1c, [MET_FLAGS.REF_FAULT, MET_FLAGS.IBX_MISMATCH, MET_FLAGS.CAL_FAIL, MET_FLAGS.OVLD]),
   (0x20, [MET_NTC.BETA, MET_NTC.RNOM]),
   (0x24, [MET_VB.VB]),
   (0x40, [MET_HKTJ.TJ]),
   (0x80, [MET_CALSEL.CONV, MET_CALSEL.RANGE]),
   (0x84, [MET_CALG.GDEV]),
   (0x88, [MET_CALO.OFS]),
   (0x8c, [MET_CALAGE.AGE, MET_CALAGE.SRC, MET_CALAGE.SUSPECT]),
   (0xc0, [MET_BALCFG.EN, MET_BALCFG.ETA, MET_BALCFG.RISE]),
   (0xc4, [MET_BALIMP.P_IMP]),
   (0xc8, [MET_BALEXP.P_EXP]),
   (0xcc, [MET_BALSTAT.K1, MET_BALSTAT.K2, MET_BALSTAT.DIR, MET_BALSTAT.ACTIVE, MET_BALSTAT.OVER]),
   (0xd0, [MET_BALNET.NET])] ++
  (List.finRange 8).map (fun n => (0x44 + 4 * n.val, [MET_HKV.MV n]))

/-- The registers of the MOT block by offset within it, with their fields. -/
def regTableMOT : List (Nat × List Fld) :=
  [(0x0, [MOT_CFG.CLASS, MOT_CFG.DIRINV, MOT_CFG.PP, MOT_CFG.NTICK, MOT_CFG.FW_EN]),
   (0x4, [MOT_DT.DT, MOT_DT.BLANK, MOT_DT.GD]),
   (0x8, [MOT_SC.SC_TH, MOT_SC.SC_LIMIT, MOT_SC.PP_WIN]),
   (0xc, [MOT_ZC.ZC_BLANK, MOT_ZC.ZC_FILT, MOT_ZC.DEMAG_MAX, MOT_ZC.MISS_WIN]),
   (0x10, [MOT_FW.N_FW, MOT_FW.N_MAX]),
   (0x14, [MOT_ADV.ADV0, MOT_ADV.ADV_MAX, MOT_ADV.ID_MAX]),
   (0x18, [MOT_CATCH.CATCH_MIN, MOT_CATCH.CATCH_MAX]),
   (0x1c, [MOT_START.T_CHK, MOT_START.ALIGN_T, MOT_START.RAMP_T]),
   (0x20, [MOT_ILIM.I_MAX, MOT_ILIM.ALIGN_I]),
   (0x24, [MOT_GEAR.NUM, MOT_GEAR.DEN]),
   (0x28, [MOT_ENC.FCLK, MOT_ENC.NBITS, MOT_ENC.GRAY, MOT_ENC.ERRBIT, MOT_ENC.DIV, MOT_ENC.DLY, MOT_ENC.TM]),
   (0x2c, [MOT_CPR.CPR]),
   (0x30, [MOT_XCHK.GEAR_TOL, MOT_XCHK.HOME_EDGE, MOT_XCHK.HOME_TOL]),
   (0x34, [MOT_SPD.SPD_WIN, MOT_SPD.STILL]),
   (0x38, [MOT_KCUR.KP, MOT_KCUR.KI]),
   (0x3c, [MOT_KSPD.KP, MOT_KSPD.KI]),
   (0x40, [MOT_KPOS.KP]),
   (0x44, [MOT_KFRC.KP, MOT_KFRC.KI]),
   (0x48, [MOT_FE.PFE, MOT_FE.FE_TIME]),
   (0x4c, [MOT_BRK.ON, MOT_BRK.OFF]),
   (0x50, [MOT_BRKD.DMAX, MOT_BRKD.REGEN]),
   (0x54, [MOT_VMLIM.OV_TH]),
   (0x58, [MOT_FCFG.FRANGE]),
   (0x5c, [MOT_FOFS.FOFS])] ++
  [(0x60, [MOT_FGAIN.FGAIN]),
   (0x80, [MOT_STAT.STATE, MOT_STAT.FW, MOT_STAT.ASHORT, MOT_STAT.BRKM, MOT_STAT.OFS_VALID, MOT_STAT.SECTOR, MOT_STAT.OP]),
   (0x84, [MOT_SPEED.N]),
   (0x88, [MOT_ESPD.SPD]),
   (0x8c, [MOT_ENCSTAT.DIR, MOT_ENCSTAT.SPD_VALID, MOT_ENCSTAT.FRAME_OK, MOT_ENCSTAT.FERR, MOT_ENCSTAT.HOME_VALID]),
   (0x90, [MOT_POSL.POS_LO]),
   (0x94, [MOT_POSH.POS_HI]),
   (0x98, [MOT_HOMEL.HOME_LO]),
   (0x9c, [MOT_HOMEH.HOME_HI, MOT_HOMEH.DRIFT]),
   (0xa0, [MOT_FORCE.F]),
   (0xa4, [MOT_ADVST.ADV, MOT_ADVST.ID]),
   (0xa8, [MOT_FLT.SC_HARD, MOT_FLT.SC_PERSIST, MOT_FLT.PP_SHORT, MOT_FLT.SHOOT, MOT_FLT.BRKM_OVL, MOT_FLT.SYNC, MOT_FLT.ENC_FAULT, MOT_FLT.ENC_JUMP, MOT_FLT.GEAR_SLIP, MOT_FLT.ENC_DRIFT, MOT_FLT.VM_LOW, MOT_FLT.OVERRUN]),
   (0xac, [MOT_PCNT.SC_CNT, MOT_PCNT.SHOOT_REQ, MOT_PCNT.MISS, MOT_PCNT.SYNC_LOSS]),
   (0xb0, [MOT_VM.VM])]

/-- The registers of the SEC block by offset within it, with their fields. -/
def regTableSEC : List (Nat × List Fld) :=
  [(0x0, [SEC_LIFE.LIFE, SEC_LIFE.RBC, SEC_LIFE.REVOKE, SEC_LIFE.OWNER_SET, SEC_LIFE.LIFE_PEND]),
   (0x4, [SEC_BOOTSTAT.STATE, SEC_BOOTSTAT.SRC, SEC_BOOTSTAT.FALLBACK, SEC_BOOTSTAT.REHASH_FAIL, SEC_BOOTSTAT.ERR, SEC_BOOTSTAT.WARMBOOT]),
   (0x8, [SEC_BOOTALO.ADDR]),
   (0xc, [SEC_BOOTAHI.ADDR]),
   (0x10, [SEC_BOOTLEN.LEN]),
   (0x14, [SEC_BOOTCMD.GO]),
   (0x18, [SEC_IMG.SVN, SEC_IMG.AUTH, SEC_IMG.PEND, SEC_IMG.PEND_SVN]),
   (0x1c, [SEC_BUILD.BUILD]),
   (0x20, [SEC_CHALCTL.NEW, SEC_CHALCTL.VALID]),
   (0x24, [SEC_DBG.PERM]),
   (0x60, [SEC_DSEL.ITEM, SEC_DSEL.WORD]),
   (0x64, [SEC_DDATA.DATA])] ++
  (List.finRange 8).map (fun n => (0x40 + 4 * n.val, [SEC_CHAL.CHAL n]))

/-- The registers of the CH block by offset within it, with their fields. -/
def regTableCH (c : Ch) : List (Nat × List Fld) :=
  [(0x0, [CH_GD.GD_MIN c, CH_GD.GD_MAX c, CH_GD.GD_INIT c, CH_GD.TSW_TARGET c, CH_GD.ADAPT_EN c]),
   (0x4, [CH_GDST.CODE_H c, CH_GDST.CODE_L c, CH_GDST.TSW_RISE c, CH_GDST.TSW_FALL c, CH_GDST.GD_AT_BOUND c]),
   (0x8, [CH_DT.DT_HL c, CH_DT.DT_LH c, CH_DT.BLANK c]),
   (0xc, [CH_SC.SC_TH c, CH_SC.SC_LIMIT c]),
   (0x10, [CH_OL.OL_TH c, CH_OL.OL_MODE c, CH_OL.OL_TIME c]),
   (0x14, [CH_FB.FB_VKNEE c, CH_FB.FB_IMIN c]),
   (0x18, [CH_VLIM.OV_TH c, CH_VLIM.UV_TH c]),
   (0x1c, [CH_ISO.ISO_SETTLE c, CH_ISO.MEAS_CLOSE c]),
   (0x20, [CH_TEMP.T_WARN c, CH_TEMP.T_STOP c]),
   (0x24, [CH_SENSE.KEL_EN c, CH_SENSE.NTC_EN c, CH_SENSE.KEL_TEST c]),
   (0x28, [CH_PSTAT.GATES c, CH_PSTAT.ISO c, CH_PSTAT.DERATE c, CH_PSTAT.FB_LIMIT c, CH_PSTAT.KEL_OK c, CH_PSTAT.NTC_OK c, CH_PSTAT.REV c, CH_PSTAT.K_T c, CH_PSTAT.FAULT_ACTIVE c]),
   (0x2c, [CH_PFLT.SC_HARD c, CH_PFLT.SC_PERSIST c, CH_PFLT.OL_FAULT c, CH_PFLT.OV_TRIP c, CH_PFLT.UV_TRIP c, CH_PFLT.REVERSE c, CH_PFLT.KEL_OPEN c, CH_PFLT.NTC_OPEN c, CH_PFLT.NTC_SHORT c, CH_PFLT.BST_UV c, CH_PFLT.BUS_SC c, CH_PFLT.SHOOT_FAULT c]),
   (0x30, [CH_PCNT.SC_CNT c, CH_PCNT.SHOOT_REQ c, CH_PCNT.OL_ACC c]),
   (0x40, [CH_MCFG.CRANGE c, CH_MCFG.AUTO_UP c]),
   (0x44, [CH_MRNG.REQ c, CH_MRNG.ACTIVE c, CH_MRNG.BUSY c, CH_MRNG.DENIED c]),
   (0x48, [CH_RSHUNT.RSHUNT c]),
   (0x4c, [CH_MTRIM.GAIN c, CH_MTRIM.OFS c]),
   (0x50, [CH_RKEL.RKEL c]),
   (0x54, [CH_MSTAT.SRC c, CH_MSTAT.OVLD c, CH_MSTAT.CAL_PENDING c, CH_MSTAT.EXCL c, CH_MSTAT.SAR_SUB c]),
   (0x58, [CH_MV.MV c]),
   (0x5c, [CH_MI.MI c]),
   (0x60, [CH_MTEMP.T c, CH_MTEMP.VALID c]),
   (0x64, [CH_LCTL.IDX c, CH_LCTL.SNAP c, CH_LCTL.CLEAR c, CH_LCTL.SNAP_VALID c]),
   (0x68, [CH_LDATA.DATA c])] ++
  [(0x80, [CH_SCFG.T_SS c, CH_SCFG.BAL_CLASS c, CH_SCFG.STARVE_RESUME c]),
   (0x84, [CH_SSHORT.V_SHORT c, CH_SSHORT.Q_CONFIRM c]),
   (0x88, [CH_SSTAT.STATE c, CH_SSTAT.OP c, CH_SSTAT.PHASE c, CH_SSTAT.HOLD_WHY c]),
   (0x8c, [CH_SQIDX.RUN_IDX c, CH_SQIDX.ARM_IDX c]),
   (0x90, [CH_STICKS.TICKS c]),
   (0x94, [CH_SBAL.K_BAL c, CH_SBAL.BAL_TICKS c])]

/-- The registers of the QD block by offset within it, with their fields. -/
def regTableQD (q : Quad) : List (Nat × List Fld) :=
  [(0x0, [QD_STAT.BUSY q, QD_STAT.CHECK q, QD_STAT.OVR q, QD_STAT.PASSB_ON q]),
   (0x4, [QD_PCMD.SLOT q, QD_PCMD.CMD q, QD_PCMD.RESULT q]),
   (0x8, [QD_PHDR.TMPL q, QD_PHDR.OUTER q, QD_PHDR.XFORM q, QD_PHDR.GANG_OK q]),
   (0xc, [QD_PWIN.TW q, QD_PWIN.FE_TIME q]),
   (0x10, [QD_PFE.FE_LIMIT q]),
   (0x14, [QD_PUMIN.U_MIN q]),
   (0x18, [QD_PUMAX.U_MAX q]),
   (0x100, [QD_TRCTL.EN q, QD_TRCTL.MODE q, QD_TRCTL.SWTRIG q, QD_TRCTL.POST q]),
   (0x104, [QD_TRTRIG.SRC q, QD_TRTRIG.CHAN q, QD_TRTRIG.XQ q]),
   (0x108, [QD_TRSTAT.STATE q, QD_TRSTAT.WIDX q, QD_TRSTAT.TIDX q]),
   (0x10c, [QD_TRTICKL.TICK_LO q]),
   (0x110, [QD_TRTICKH.TICK_HI q]),
   (0x140, [QD_TRADDR.INDEX q, QD_TRADDR.PROBE q]),
   (0x144, [QD_TRDATA.DATA q])] ++
  (List.finRange 4).map (fun n => (0x20 + 4 * n.val, [QD_CSTAT.PROF q n, QD_CSTAT.BANK q n, QD_CSTAT.CLOSED q n, QD_CSTAT.GANG q n, QD_CSTAT.LAST q n, QD_CSTAT.REASON q n, QD_CSTAT.K q n, QD_CSTAT.FE_CNT q n])) ++
  (List.finRange 4).map (fun n => (0x30 + 4 * n.val, [QD_LCNT.ROLLBACKS q n, QD_LCNT.OVERRUNS q n, QD_LCNT.CHECKS q n])) ++
  (List.finRange 32).map (fun n => (0x40 + 4 * n.val, [QD_PCOEF.COEF q n])) ++
  (List.finRange 8).map (fun n => (0x120 + 4 * n.val, [QD_TRSEL.CHAN q n, QD_TRSEL.NODE q n]))

/-- The registers of the CMP block by offset within it, with their fields. -/
def regTableCMP : List (Nat × List Fld) :=
  (List.finRange 72).map (fun i => (0x0 + 4 * i.val, [CMP_CFG.WIN i, CMP_CFG.THR i, CMP_CFG.DIV i, CMP_CFG.LATCH i])) ++
  (List.finRange 3).map (fun m => (0x200 + 4 * m.val, [CMP_RAW.RAW m])) ++
  (List.finRange 3).map (fun m => (0x210 + 4 * m.val, [CMP_FILT.FILT m])) ++
  (List.finRange 3).map (fun m => (0x220 + 4 * m.val, [CMP_LAT.LAT m])) ++
  (List.finRange 3).map (fun m => (0x230 + 4 * m.val, [CMP_INIT.INIT m]))

/-- The registers of the DBG block by offset within it, with their fields. -/
def regTableDBG : List (Nat × List Fld) :=
  [(0x0, [DBG_CTL.HALT_SEQ, DBG_CTL.HALT_MOT, DBG_CTL.HALT_SAF, DBG_CTL.LE_STEP]),
   (0x4, [DBG_LESTEP.CH, DBG_LESTEP.GO]),
   (0x8, [DBG_STAT.HALTED, DBG_STAT.STEPPING, DBG_STAT.UNCHECKED])]

/-- The fields of the register at a BAR0 offset; none where the offset names no register (R740, R741). -/
def fieldsAt (off : Nat) : List Fld :=
  let look (t : List (Nat × List Fld)) (o : Nat) : List Fld := (t.lookup o).getD []
  match off / 0x1000 with
  | 0x0 => look regTableSYS off
  | 0x1 => look regTableHOST (off % 0x1000)
  | 0x2 => look regTableRING (off % 0x1000)
  | 0x3 => look regTableFLT (off % 0x1000)
  | 0x4 => look regTableSAF (off % 0x1000)
  | 0x5 => look regTableMET (off % 0x1000)
  | 0x6 => look regTableMOT (off % 0x1000)
  | 0x7 => look regTableSEC (off % 0x1000)
  | 0x8 => look (regTableCH (Fin.ofNat 16 ((off % 0x1000) / 0x100))) (off % 0x100)
  | 0x9 => look (regTableQD (Fin.ofNat 4 ((off % 0x1000) / 0x400))) (off % 0x400)
  | 0xA => look regTableCMP (off % 0x1000)
  | 0xB => look regTableDBG (off % 0x1000)
  | _ => []

end Sys2Proof.Machine
end

