-- ==== Sys2Proof/Machine/Ops.lean ====
section
/-!
DEFINITION. The named operations over the state: the register file, the banks, output, events and completions, the
ledger. The operations on channels, faults, safety and resets that build on them stand in Stage.lean, Protect.lean.
-/

namespace Sys2Proof.Machine

/-! ### Banks -/

/-- An element of a bank. -/
def bget {α : Type} {n : Nat} (v : Vector α n) (i : Fin n) : α := v[i]

/-- Change one element of a bank. -/
def bupd {α : Type} {n : Nat} (v : Vector α n) (i : Fin n) (f : α → α) : Vector α n := v.set i.val (f v[i]) i.isLt

/-- Change every element of a bank. -/
def bmap {α β : Type} {n : Nat} (f : α → β) (v : Vector α n) : Vector β n :=
  ⟨⟨v.toList.map f⟩, by simp⟩

/-! ### The register file -/

/-- Place an entry, keys rising. -/
def RegFile.ins : RegFile → Fld → Nat → RegFile
  | [], f, v => [(f, v)]
  | (g, u) :: t, f, v =>
    if f.key < g.key then (f, v) :: (g, u) :: t
    else if f.key = g.key then (f, v) :: t
    else (g, u) :: RegFile.ins t f v

/-- The value of a field: its reset value where it is not listed. -/
def RegFile.get : RegFile → Fld → Nat
  | [], f => f.rst
  | (g, u) :: t, f => if g.key = f.key then u else RegFile.get t f

/-- Give a field a value; at its reset value it is not listed. -/
def RegFile.put (r : RegFile) (f : Fld) (v : Nat) : RegFile :=
  if v = f.rst then r.filter (fun e => e.1.key ≠ f.key) else r.ins f v

/-- The canonical form: keys strictly rising, no entry at its reset value. -/
def RegFile.ok : RegFile → Bool
  | [] => true
  | [e] => decide (e.2 ≠ e.1.rst)
  | e :: e' :: t => decide (e.2 ≠ e.1.rst) && decide (e.1.key < e'.1.key) && RegFile.ok (e' :: t)

/-- A field as stored. -/
def State.rd (s : State) (f : Fld) : Nat := s.regs.get f

/-- A signed field as stored. -/
def State.rdS (s : State) (f : Fld) : Int := toS f.w (s.regs.get f)

/-- A one-bit field as stored. -/
def State.rb (s : State) (f : Fld) : Bool := s.regs.get f = 1

/-- Store a field; the value wraps to the field's width. -/
def State.wr (s : State) (f : Fld) (v : Nat) : State := { s with regs := s.regs.put f (v % 2 ^ f.w) }

/-- Written values come into force. -/
def State.commitIf (s : State) (p : Fld → Bool) : State :=
  (s.written.filter (fun e => p e.1)).foldl (fun s e => s.wr e.1 e.2)
    { s with written := s.written.filter (fun e => !p e.1) }

/-- Store a signed field. -/
def State.wrS (s : State) (f : Fld) (v : Int) : State := s.wr f (ofS f.w v)

/-- Store a one-bit field. -/
def State.wb (s : State) (f : Fld) (v : Bool) : State := s.wr f (b2n v)

/-- Count a field up, saturating at its width. -/
def State.incSat (s : State) (f : Fld) : State := s.wr f (satU f.w (s.rd f + 1))

/-- Count a field up, wrapping at its width. -/
def State.incWrap (s : State) (f : Fld) : State := s.wr f (s.rd f + 1)

/-- Set bit `i` of a field. -/
def State.setFBit (s : State) (f : Fld) (i : Nat) : State := s.wr f (setBitN (s.rd f) i)

/-- Clear bit `i` of a field. -/
def State.clrFBit (s : State) (f : Fld) (i : Nat) : State := s.wr f (clrBitN (s.rd f) i)

/-! ### Writes that take effect later (R753) -/

/-- Setup that takes effect at the next tick boundary: MET, and the metrology setup of the channels. -/
def lateTick (f : Fld) : Bool :=
  f.acc = .rwl && (decide (f.off / 0x1000 = 5) || (decide (f.off / 0x1000 = 8 ∧ 0x40 ≤ f.off % 0x100 ∧ f.off % 0x100 ≤ 0x50)))

/-- Setup of MOT, which takes effect at the next motor PWM period start. -/
def lateMot (f : Fld) : Bool := f.acc = .rwl && decide (f.off / 0x1000 = 6)

/-- Stage setup of a channel, which takes effect at its next PWM period start; `MEAS_CLOSE` acts by its write (R149; log
entry 129). -/
def latePwm (c : Ch) (f : Fld) : Bool :=
  f.acc = .rwl && decide (f.off / 0x100 = 0x80 + c.val ∧ f.off % 0x100 ≤ 0x24 ∧ f.key ≠ (CH_ISO.MEAS_CLOSE c).key)

/-- Step setup of a channel, in force for the steps that begin after the write. -/
def lateStep (c : Ch) (f : Fld) : Bool :=
  f.acc = .rwl && decide (f.off / 0x100 = 0x80 + c.val ∧ (f.off % 0x100 = 0x80 ∨ f.off % 0x100 = 0x84))

/-- Fields whose written value waits for its instant (R753). -/
def waits (f : Fld) : Bool :=
  let c : Ch := Fin.ofNat 16 (f.off % 0x1000 / 0x100)
  lateTick f || lateMot f || latePwm c f || lateStep c f

/-- A field as written last: a value that is not in force yet (R753), else the one in force. -/
def State.rdNew (s : State) (f : Fld) : Nat :=
  if waits f then ((s.written.find? (fun e => e.1.key = f.key)).map (·.2)).getD (s.rd f) else s.rd f

/-! ### Parts of the state -/

/-- A channel. -/
def State.chan (s : State) (c : Ch) : Chan := bget s.ch c

/-- Change a channel. -/
def State.updCh (s : State) (c : Ch) (f : Chan → Chan) : State := { s with ch := bupd s.ch c f }

/-- Change the stage of a channel. -/
def State.updStage (s : State) (c : Ch) (f : Stage → Stage) : State :=
  s.updCh c (fun x => { x with stage := f x.stage })

/-- Change the loop of a channel. -/
def State.updLoop (s : State) (c : Ch) (f : LoopS → LoopS) : State :=
  s.updCh c (fun x => { x with loop := f x.loop })

/-- Change the metrology of a channel. -/
def State.updMet (s : State) (c : Ch) (f : ChMet → ChMet) : State :=
  s.updCh c (fun x => { x with met := f x.met })

/-- Change the ledger of a channel. -/
def State.updLed (s : State) (c : Ch) (f : Ledger → Ledger) : State :=
  s.updCh c (fun x => { x with ledger := f x.ledger })

/-- Change the sequencer's state of a channel. -/
def State.updSeq (s : State) (c : Ch) (f : ChanS → ChanS) : State :=
  s.updCh c (fun x => { x with seq := f x.seq })

/-- Change the telemetry accumulators of a channel. -/
def State.updTlm (s : State) (c : Ch) (f : Tlm → Tlm) : State :=
  s.updCh c (fun x => { x with tlm := f x.tlm })

/-- Change the running step of a channel, where one runs. -/
def State.updRun (s : State) (c : Ch) (f : Run → Run) : State :=
  s.updSeq c (fun x => { x with run := x.run.map f })

/-- The sequencer's state of a channel. -/
def State.seq (s : State) (c : Ch) : ChanS := (s.chan c).seq

/-- Change a quad. -/
def State.updQd (s : State) (q : Quad) (f : QuadS → QuadS) : State := { s with qd := bupd s.qd q f }

/-- Change a submission queue. -/
def State.updQ (s : State) (q : QId) (f : SubQ → SubQ) : State :=
  { s with host := { s.host with qs := bupd s.host.qs q f } }

/-- A submission queue. -/
def State.subq (s : State) (q : QId) : SubQ := bget s.host.qs q

/-- Change a source of the collector. -/
def State.updSrc (s : State) (n : Src) (f : SrcS → SrcS) : State :=
  { s with flt := { s.flt with srcs := bupd s.flt.srcs n f } }

/-- A source of the collector. -/
def State.src (s : State) (n : Src) : SrcS := bget s.flt.srcs n

/-- A source is active (R669). -/
def State.active (s : State) (n : Src) : Bool := (s.src n).act ≠ 0

/-- A channel source is active in a channel. -/
def State.activeIn (s : State) (n : Src) (c : Ch) : Bool := (s.src n).act.getLsbD c.val

/-- Apply a change channel by channel, in order. -/
def State.forCh (s : State) (cs : List Ch) (f : State → Ch → State) : State := cs.foldl f s

/-- A fresh free number. -/
def State.takeNat (s : State) : Nat × State := (Config.freeNat s.free, { s with free := s.free + 1 })

/-- A fresh free signed number. -/
def State.takeInt (s : State) : Int × State := (Config.freeInt s.free, { s with free := s.free + 1 })

/-- A value, or a free one where there is none. -/
def State.orFree (s : State) (x : Option Int) : Int × State :=
  match x with
  | some v => (v, s)
  | none => s.takeInt

/-- Send something outside. -/
def State.emit (s : State) (o : Out) : State := { s with out := o :: s.out }

/-- The tick number (R29, R66). -/
def State.now (s : State) : Nat := s.sys.tick

/-- The ticks that have passed: what measures an interval, whatever numbers the ticks carry (R66). -/
def State.clk (s : State) : Nat := s.sys.clk

/-- The tick period in force in SYSCLK cycles (R30). -/
def State.per (s : State) : Nat := s.rd SYS_TICKSTAT.INFORCE

/-- The tick period in force in ns. -/
def State.tickNs (s : State) : Nat := 2 * s.per

/-- The strap `ROLE1:0`: 0 member, 1 and 2 head, 3 standalone. -/
def State.role (s : State) : Nat := s.rd SYS_STRAP.ROLE

/-- The device bridges to the host: head or standalone (R425, R473). -/
def State.isHead (s : State) : Bool := s.role ≠ 0

/-- Nothing of the device runs: its internal reset is held or it is parked. -/
def State.idle (s : State) : Bool := s.sys.held.isSome || decide (s.sys.mode = .park)

/-- The device is on a ring. -/
def State.onRing (s : State) : Bool := s.role ≠ 3

/-- The enable lines: hardware holds them low while SAF is halted (R618, R657). -/
def State.cenOn (s : State) : Bool := s.saf.cen && !s.rb DBG_CTL.HALT_SAF
/-- The enable line of the isolation switches. -/
def State.ienOn (s : State) : Bool := s.saf.ien && !s.rb DBG_CTL.HALT_SAF
/-- The enable line of the motor gates. -/
def State.menOn (s : State) : Bool := s.saf.men && !s.rb DBG_CTL.HALT_SAF

/-- The number of PWM periods per tick (R34). -/
def State.pwmPerTick (s : State) : Nat := s.sys.ppt + 1

/-- `SYS_MODE` code of a mode (R77). -/
def Mode.code : Mode → Nat
  | .park => 0 | .boot => 1 | .standby => 2 | .run => 3 | .service => 4 | .safe => 5

/-! ### Choppers (R609, R635) -/

/-- Turn a chopper on or off at a tick. -/
def Duty.turn (d : Duty) (on : Bool) (t : Nat) : Duty :=
  match d.since, on with
  | none, true => { d with since := some t }
  | some a, false => ⟨none, if a < t then (a, t) :: d.log else d.log⟩
  | _, _ => d

/-- The on-time in ticks of the last `w` ticks before `t`. -/
def Duty.onTime (d : Duty) (t w : Nat) : Nat :=
  let part (a b : Nat) : Nat := b - max a (t - w)
  (match d.since with | some a => part a t | none => 0) + (d.log.map (fun i => part i.1 i.2)).sum

/-- Forget the intervals that ended more than `w` ticks before `t`. -/
def Duty.trim (d : Duty) (t w : Nat) : Duty := { d with log := d.log.filter (fun i => decide (t < i.2 + w)) }

/-! ### Events, interrupts, completions (R448 to R469) -/

/-- Post an event record for writing (R459), while events are written (`EVQ_EN`). -/
def State.event (s : State) (src code arg : Nat) : State :=
  if s.rb HOST_CTL.EVQ_EN then
    { s with host := { s.host with events := s.host.events ++ [⟨src, code, arg, s.now⟩] } }
  else s

/-- A cause of an MSI-X vector arises (R464). -/
def State.irq (s : State) (v : Fin 8) : State :=
  { s with host := { s.host with msix := bupd s.host.msix v (fun m => { m with pend := true }) } }

/-- A word of two halves. -/
def w2 (lo hi : Nat) : Word := BitVec.ofNat 32 (lo % 65536 + 65536 * (hi % 65536))

/-- A word of four octets. -/
def w4 (a b c d : Nat) : Word := w2 (a % 256 + 256 * (b % 256)) (c % 256 + 256 * (d % 256))

/-- The two words of a 64-bit count. -/
def w64 (x : Long) : List Word := [x.extractLsb' 0 32, x.extractLsb' 32 32]

/-- A word of a signed number. -/
def wI (x : Int) : Word := BitVec.ofInt 32 x

/-- A word of a number. -/
def wN (x : Nat) : Word := BitVec.ofNat 32 x

/-- A STEP record (R451). -/
def stepRec (q : Nat) (idx reason action next detail flags ticks : Nat) (qc e : Long) : List Word :=
  [w2 (0 + 256 * q) idx, w2 (reason + 256 * action) next, w2 detail flags, wN ticks] ++ w64 qc ++ w64 e

/-- A SUPPLEMENT (R452); `n` is its number. -/
def supRec (n op rflags gap endTick : Nat) (ws : List Word) : List Word :=
  [w2 (2 + 16 * n + 256 * op) rflags, w2 gap endTick, wN (endTick / 65536)] ++ ws

/-- A MOTION record (R455). -/
def motionRec (idx reason op detail tag ticks : Nat) (pos force peak : Int) : List Word :=
  [w2 (4 + 256 * 16) idx, w2 (reason + 256 * op) 0, w2 detail tag, wN ticks] ++ w64 (BitVec.ofInt 64 pos) ++
    [wI force, wI peak]

/-- An ADMIN record (R455). -/
def adminRec (idx status op tag result : Nat) : List Word :=
  [w2 (6 + 256 * 17) idx, w2 (status + 256 * op) tag, 0, wN result, 0, 0, 0, 0]

/-- A NOTICE (R455). -/
def noticeRec (q idx reason op expect detail : Nat) : List Word :=
  [w2 (8 + 256 * q) idx, w2 (reason + 256 * op) expect, w2 detail 0, 0, 0, 0, 0, 0]

/-- A comparator. -/
def State.cmpAt (s : State) (i : CmpId) : CmpS := bget s.cmp i

/-- Change a comparator. -/
def State.updCmp (s : State) (i : CmpId) (f : CmpS → CmpS) : State := { s with cmp := bupd s.cmp i f }

/-- Completions enter the completion buffer together (R458). -/
def State.complete (s : State) (o : Owner) (v : Fin 8) (recs : List (List Word)) : State :=
  { s with host := { s.host with cbuf := s.host.cbuf ++ [⟨o, recs, v⟩] } }

/-- Completions of a channel wait in its slots of the completion buffer (R468). -/
def State.slotsHeld (s : State) (c : Ch) : Bool := s.host.cbuf.any (fun g => decide (g.owner = Owner.chan c))

/-- Slots of the completion buffer in use (R473 `CBUF`). -/
def State.cbufUse (s : State) : Nat := (s.host.cbuf.map (fun g => g.recs.length)).sum

/-- Shared slots in use (R468). -/
def State.sharedUse (s : State) : Nat :=
  ((s.host.cbuf.filter (fun g => g.owner = .shared)).map (fun g => g.recs.length)).sum

/-- Depth of the CPQ, the EVQ and the TLR (R474). -/
def State.cpqDepth (s : State) : Nat := 2 ^ s.rd HOST_CPQCFG.LOG2
/-- Depth of the EVQ. -/
def State.evqDepth (s : State) : Nat := 2 ^ s.rd HOST_EVQCFG.LOG2
/-- Depth of the TLR. -/
def State.tlrDepth (s : State) : Nat := 2 ^ s.rd HOST_TLRCFG.LOG2
/-- Depth of a submission queue. -/
def State.qDepth (s : State) (q : QId) : Nat := 2 ^ s.rd (HOST_QCFG.LOG2 q)

/-- The difference of two u16 counts (R415). -/
def sub16 (a b : Nat) : Nat := (a + 65536 - b % 65536) % 65536

/-- A count lies before another (R415). -/
def before16 (a b : Nat) : Bool := decide (32768 ≤ sub16 a b)

/-- The CPQ takes `n` more records after those that wait in the buffer (R450, R469, R798). -/
def State.cpqRoom (s : State) (n : Nat) : Bool :=
  s.rb HOST_CTL.CPQ_EN && !s.rb HOST_ERR.CPQ_ERR &&
    decide (sub16 s.host.cpqW s.host.cpqC + s.cbufUse + n ≤ s.cpqDepth)

/-- The queue position of a count (R414). -/
def State.posOf (s : State) (q : QId) (cnt : Nat) : Nat := cnt % s.qDepth q

/-- A submission queue is enabled (R473). -/
def State.qOn (s : State) (q : QId) : Bool := bitN (s.rd HOST_CTL.QEN) q.val

/-- The queue of a channel. -/
def cq (c : Ch) : QId := ⟨c.val, by omega⟩
/-- The motion queue. -/
def mq : QId := 16
/-- The admin queue. -/
def aq : QId := 17

/-- Retire descriptors up to the count `cnt` (R417). -/
def State.retireTo (s : State) (q : QId) (cnt : Nat) : State := s.updQ q (fun x => { x with done := cnt % 65536 })

/-- A shared slot is free, and no notice waits for one (R468, R469). -/
def State.sharedRoom (s : State) : Bool := s.host.owed.isEmpty && decide (s.sharedUse < 191)

/-- A completion of an admin command enters the shared slots; its descriptor is retired (R417, R446). -/
def State.admEnter (s : State) (f : AdmFin) : State :=
  let s := s.complete .shared 1 [adminRec f.hdr.idx.toNat f.st f.op f.hdr.tag.toNat f.res]
  let s := { s with host := { s.host with adm := none, admFin := none } }
  s.updQ aq (fun x => { x with done := (x.done + 1) % 65536 })

/-- An admin command has ended: its completion enters a shared slot, or waits for one, after every notice that waits
(R434, R469). -/
def State.admDone (s : State) (op : Nat) (a : AdmHdr) (status result : Nat) : State :=
  if s.sharedRoom then s.admEnter ⟨op, a, status, result⟩
  else { s with host := { s.host with adm := none, admFin := some ⟨op, a, status, result⟩ } }

/-- A notice enters the channel's slots, or the shared ones for REVOKE and UPDATE, where it waits for a free one (R468,
R469). -/
def State.noticeIn (s : State) (o : Owner) (upd : Option (QId × Nat)) (r : List Word) : State :=
  if o = .shared ∧ !s.sharedRoom then { s with host := { s.host with owed := s.host.owed ++ [⟨⟨o, [r], 0⟩, upd⟩] } }
  else s.complete o 0 [r]

/-- A NOTICE of a channel queue or of MQ. -/
def State.notice (s : State) (o : Owner) (q : QId) (cnt reason op expect detail : Nat) : State :=
  s.noticeIn o none (noticeRec q.val (s.posOf q cnt) reason op expect detail)

/-- The NOTICE of an UPDATE that has ended. -/
def State.updNotice (s : State) (q : QId) (cnt reason detail : Nat) : State :=
  s.noticeIn .shared (some (q, cnt)) (noticeRec q.val (s.posOf q cnt) reason 19 0xFFFF detail)

/-- `DONE` of a queue: the retired entries, up to an UPDATE whose notice still waits for a slot (R417). -/
def State.doneOf (s : State) (q : QId) : Nat :=
  let done := (s.subq q).done
  match s.host.owed.findSome? (fun o => o.upd.filter (fun u => u.1 = q)) with
  | some u => if before16 (u.2 % 65536) done then u.2 % 65536 else done
  | none => done

/-- Shared slots have become free: what waits for them enters in its order (R469). -/
def State.flow (s : State) : State :=
  let n := 191 - s.sharedUse
  let s := { s with host := { s.host with cbuf := s.host.cbuf ++ (s.host.owed.take n).map Owed.grp, owed := s.host.owed.drop n } }
  match s.host.admFin with
  | some f => if s.sharedRoom then s.admEnter f else s
  | none => s

/-! ### The ledger (R302 to R315) -/

/-- Entry flag bits (R314). -/
def fPARTIAL : Nat := 0
/-- Entry flag EXCL. -/
def fEXCL : Nat := 1
/-- Entry flag SAR_SUB. -/
def fSARSUB : Nat := 2
/-- Entry flag GANG. -/
def fGANG : Nat := 3
/-- Entry flag SRC_CHANGE. -/
def fSRC : Nat := 4
/-- Entry flag RANGE_CHANGE. -/
def fRANGE : Nat := 5
/-- Entry flag REF_BAD. -/
def fREF : Nat := 6
/-- Entry flag CAL_PENDING. -/
def fCAL : Nat := 7
/-- Entry flag BROWNOUT_CUT. -/
def fCUT : Nat := 8

/-- Set an entry flag. -/
def Ledger.flag (l : Ledger) (i : Nat) : Ledger := { l with flags := l.flags ||| BitVec.ofNat 9 (2 ^ i) }

/-- An entry opens at the boundary that begins tick `t` (R306); numbers run from 1 (R313). -/
def Ledger.opens (l : Ledger) (t : Nat) : Ledger :=
  { l with isOpen := true, flags := 0, openQ := 0, openE := 0, openStart := BitVec.ofNat 48 t, openTicks := 0
           openNum := if l.openNum = BitVec.allOnes 32 then 1 else l.openNum + 1 }

/-- The open entry closes with a reason; `t` is its last tick (R306, R313). -/
def Ledger.closes (l : Ledger) (reason t : Nat) : Ledger :=
  if l.isOpen then
    { l with isOpen := false, lastQ := l.openQ, lastE := l.openE, lastEnd := BitVec.ofNat 48 t
             lastTicks := l.openTicks, lastCode := BitVec.ofNat 8 reason, lastFlags := l.flags
             openQ := 0, openE := 0, openTicks := 0, flags := 0 }
  else l

/-- An entry opened by a step gap whose channel enters HOLD: its contents move to the idle counts and its number is
withdrawn (R305). -/
def Ledger.withdraw (l : Ledger) : Ledger :=
  if l.isOpen then
    { l with isOpen := false, qIdle := l.qIdle + l.openQ, eIdle := l.eIdle + l.openE, openQ := 0, openE := 0
             openTicks := 0, flags := 0, openNum := if l.openNum = 1 then BitVec.allOnes 32 else l.openNum - 1 }
  else l

/-- Whole part and residue of an increment in 2^-32 units added to a residue (R302). -/
def splitInc (res : Nat) (d : Int) : Int × Nat :=
  let x : Int := (res : Int) + d
  let q := Int.fdiv x (2 ^ 32)
  (q, (x - q * 2 ^ 32).toNat)

/-- Count the increments of a tick in an open entry or as idle (R305). -/
def Ledger.count (l : Ledger) (dq de : Int) : Ledger :=
  let q := BitVec.ofInt 64 dq
  let e := BitVec.ofInt 64 de
  if l.isOpen then
    { l with qTot := l.qTot + q, eTot := l.eTot + e, openQ := l.openQ + q, openE := l.openE + e }
  else { l with qTot := l.qTot + q, eTot := l.eTot + e, qIdle := l.qIdle + q, eIdle := l.eIdle + e }

/-- A tick passes (`T_TOT`, `OPEN_TICKS`; R305, R313). -/
def Ledger.tickOn (l : Ledger) : Ledger :=
  { l with tTot := l.tTot + 1, openTicks := if l.isOpen then l.openTicks + 1 else l.openTicks }

/-- Count the increments of an excluded tick (R307). -/
def Ledger.exclude (l : Ledger) (dq de : Int) : Ledger :=
  { l with qExcl := l.qExcl + BitVec.ofInt 64 dq, eExcl := l.eExcl + BitVec.ofInt 64 de }

/-- Write the record to its two copies in turn, with the next sequence number (R309). -/
def Chan.saveLedger (x : Chan) : Chan :=
  let l := { x.ledger with seq := x.ledger.seq + 1 }
  if l.seq.getLsbD 0 then { x with ledger := l, copyA := l, crcA := true } else { x with ledger := l, copyB := l, crcB := true }

/-- A change of a channel's ledger as one update of R309. -/
def State.ledger (s : State) (c : Ch) (f : Ledger → Ledger) : State :=
  s.updCh c (fun x => { x with ledger := f x.ledger }.saveLedger)

/-- The words of a ledger record (R313). -/
def Ledger.words (l : Ledger) : List Word :=
  w64 l.qTot ++ w64 l.eTot ++ w64 l.tTot ++ w64 l.qIdle ++ w64 l.eIdle ++ w64 l.qExcl ++ w64 l.eExcl ++
    [l.seq, wN (l.flags.toNat + (if l.isOpen then 32768 else 0))] ++ w64 l.openQ ++ w64 l.openE ++
    w64 (l.openStart.zeroExtend 64) ++ [l.openTicks, l.openNum] ++ w64 l.lastQ ++ w64 l.lastE ++
    w64 (l.lastEnd.zeroExtend 64) ++ [l.lastTicks, wN (l.lastCode.toNat + 256 * l.lastFlags.toNat)]

/-- The copy that the device uses after a reset: the one with the higher sequence number whose CRC is valid (R309). -/
def Chan.loadLedger (x : Chan) : Chan :=
  { x with ledger :=
      if x.crcA && (!x.crcB || decide (x.copyB.seq.toNat < x.copyA.seq.toNat)) then x.copyA
      else if x.crcB then x.copyB else Ledger.zero }

/-- An accepted write of a field comes into force at once, or waits for its instant (R753). -/
def State.wrLate (s : State) (f : Fld) (v : Nat) : State :=
  let c : Ch := Fin.ofNat 16 (f.off % 0x1000 / 0x100)
  if lateTick f || lateMot f || latePwm c f || (lateStep c f && (s.seq c).run.isSome) then
    { s with written := s.written.ins f (v % 2 ^ f.w) }
  else if lateStep c f then { s with written := s.written.filter (fun e => e.1.key ≠ f.key) }.wr f v
  else s.wr f v

/-! ### Gangs -/

/-- The leader whose cell a channel serves: its gang's leader, or itself (R189, R192). -/
def State.leader (s : State) (c : Ch) : Ch := ((s.seq c).lead).getD c

/-- The members of the gang that a channel leads, or the channel alone (R189). -/
def State.members (s : State) (c : Ch) : List Ch :=
  if (s.seq c).size = 4 then quadChs (quadOf c)
  else if (s.seq c).size = 2 then [c, Fin.ofNat 16 (c.val + 1)]
  else [c]

/-- All channels of the gang a channel stands in, or the channel alone. -/
def State.gang (s : State) (c : Ch) : List Ch := s.members (s.leader c)

/-! ### Trace triggers (R259 to R261) -/

/-- The trace of a quad is triggered: the trigger entry is that of this tick (R256, R259, R268). DESIGN CHOICE (log entry
144): a trigger that fires while `MODE` is 0, or when one already stands, changes nothing. -/
def State.traceFire (s : State) (q : Quad) : State :=
  if s.rb (QD_TRCTL.EN q) && decide (s.rd (QD_TRCTL.MODE q) = 1) && decide (s.rd (QD_TRSTAT.STATE q) = 1) then
    let s := s.wr (QD_TRSTAT.TIDX q) (s.now % 4096)
    let s := (s.wr (QD_TRTICKL.TICK_LO q) s.now).wr (QD_TRTICKH.TICK_HI q) (s.now / 2 ^ 32)
    let s := s.updQd q (fun x => { x with post := s.rd (QD_TRCTL.POST q) })
    s.wr (QD_TRSTAT.STATE q) 2
  else s

/-- A trigger of source `n` arises in a quad: it acts there and in every quad that accepts others' triggers (R260). -/
def State.traceTrig (s : State) (q : Quad) (n : Nat) : State :=
  if s.rd (QD_TRTRIG.SRC q) = n then
    let s := s.traceFire q
    allQuads.foldl (fun s p => if p ≠ q ∧ s.rb (QD_TRTRIG.XQ p) then s.traceFire p else s) s
  else s

/-- A trigger of a device-wide source in every quad (R260). -/
def State.traceAll (s : State) (n : Nat) : State := allQuads.foldl (fun s q => s.traceTrig q n) s

/-- Capture ends before a reset or at a dump trigger (R261, R694). -/
def State.traceStop (s : State) (q : Quad) : State :=
  if s.rb (QD_TRCTL.EN q) then (s.wr (QD_TRCTL.EN q) 0).wr (QD_TRSTAT.STATE q) 3 else s

end Sys2Proof.Machine
end

