-- ==== Sys2Proof/Machine/Flags.lean ====
section
/-!
DEFINITION. The status flags and counts that the rules compute from the state, and with them what a register reads:
a field whose value another part of the state holds is read from there, every other from the register file.
-/

namespace Sys2Proof.Machine

/-! ### Flags of the collector (R677 to R686) -/

/-- The number of active sources whose reaction has E (`NERR`). -/
def State.nErr (s : State) : Nat :=
  (s.flt.srcs.toList.filter (fun x => decide (x.act ≠ 0) && bitN x.react 4)).length

/-- A condition of R685 holds `ERR_N` low, or its minimum of 1 ms runs (R686). In PARK a recorded park trip does. DEDUCED
(log entry 32): in SAFE it is low whatever sources are active, by the table of R76. -/
def State.errHeld (s : State) : Bool :=
  s.sys.held.isSome || decide (s.sys.mode = .boot ∨ s.sys.mode = .park ∨ s.sys.mode = .safe) || decide (0 < s.nErr) ||
    decide (0 < s.flt.errHold)

/-- `ERR_N` is pulled low (R685); the 1 ms minimum runs from its falling edge (R686). -/
def State.errPull (s : State) : State :=
  if s.rb FLT_ERRN.LOW then s
  else { s with flt := { s.flt with errHold := msTicks s.per 1 } }.wr FLT_ERRN.LOW 1

/-- 32 bits of a vector of Booleans from bit 32m on. -/
def maskOf (l : List Bool) (m : Nat) : Nat :=
  ((l.drop (32 * m)).take 32).foldr (fun b a => b2n b + 2 * a) 0

/-- A mask of a list of Booleans. -/
def maskAll (l : List Bool) : Nat := l.foldr (fun b a => b2n b + 2 * a) 0

/-- The allowed set of a source (R679), coded as its reaction. -/
def srcAllow (n : Nat) : Nat :=
  if n = 43 ∨ n = 81 then 17
  else if n = 45 then 57
  else if n = 32 then 19
  else if srcDefault n = 0 then 0
  else if (13 ≤ n ∧ n ≤ 15) ∨ (36 ≤ n ∧ n ≤ 41) ∨ n = 44 ∨ (48 ≤ n ∧ n ≤ 50) ∨ (58 ≤ n) then 59
  else 63

/-- The floor of a source (R679). -/
def srcFloor (n : Nat) : Nat :=
  if (13 ≤ n ∧ n ≤ 15) ∨ n = 41 ∨ (58 ≤ n ∧ n ≤ 60) ∨ (64 ≤ n ∧ n ≤ 80) then 48
  else if n = 43 ∨ n = 81 then 16
  else 0

/-- The clear code of a source (R679, R706 `CLR`). -/
def srcClr (n : Nat) : Nat :=
  if n ≤ 8 ∨ n = 11 then 1
  else if n = 9 ∨ n = 10 then 2
  else if n = 12 ∨ n = 30 ∨ n = 32 ∨ n = 37 ∨ n = 38 ∨ n = 39 ∨ n = 40 ∨ n = 42 ∨ n = 57 then 3
  else if (25 ≤ n ∧ n ≤ 28) ∨ n = 31 then 4
  else if (20 ≤ n ∧ n ≤ 24) ∨ n = 36 then 5
  else if n = 13 ∨ n = 14 ∨ n = 41 ∨ (58 ≤ n ∧ n ≤ 60) ∨ (64 ≤ n ∧ n ≤ 77) ∨ n = 79 ∨ n = 80 then 6
  else if n = 16 ∨ n = 46 ∨ n = 56 then 7
  else if n = 43 ∨ n = 44 ∨ n = 45 ∨ n = 50 then 8
  else if n = 78 then 9
  else if n = 15 ∨ n = 29 ∨ n = 48 ∨ n = 49 ∨ n = 81 then 10
  else 0

/-- The owner of a source (R679, R706 `OWNER`): 0 SEQ, 1 SAF, 2 MOT, 3 none. -/
def srcOwner (n : Nat) : Nat :=
  if (13 ≤ n ∧ n ≤ 15) ∨ n = 32 ∨ n = 36 ∨ n = 41 ∨ (58 ≤ n ∧ n ≤ 60) ∨ (64 ≤ n ∧ n ≤ 81) then 1
  else if (20 ≤ n ∧ n ≤ 31) ∨ n = 46 then 2
  else if n = 43 ∨ n = 45 ∨ srcDefault n = 0 then 3
  else 0

/-- A source that R679 lists; the others are reserved. -/
def srcListed (n : Nat) : Bool := srcDefault n ≠ 0

/-! ### Flags of the channels -/

/-- The sources that hold a channel's gates off (R184, R185, R244, R246): all channel faults but `BST_UV`. -/
def holdSrcs : List Src := [1, 2, 3, 4, 5, 6, 7, 8, 9, 10, 11, 14, 15]

/-- A channel fault holds the channel's gates off; in a gang one of any member (R194). -/
def State.chFaulted (s : State) (c : Ch) : Bool :=
  s.active 13 || (s.gang c).any (fun d => holdSrcs.any (fun n => s.activeIn n d))

/-- `CH_PSTAT.FAULT_ACTIVE` (R205): a channel fault is active in the channel or its gang (R194), `BST_UV` too (R133). -/
def State.faultFlag (s : State) (c : Ch) : Bool := s.chFaulted c || (s.gang c).any (s.activeIn 0)

/-- `VDRV` is above its threshold (R123, R147): comparator 71 has released since it last tripped or started tripped
(R691). -/
def State.vdrvOk (s : State) : Bool := s.pins.vdrv && !(bget s.cmp 71).filt

/-- Code of the isolation switch (R205). -/
def Iso.code : Iso → Nat
  | .opened => 0 | .closing => 1 | .closed => 2 | .opening => 3

/-- Code of a channel state (R329). -/
def ChSt.code : ChSt → Nat
  | .idle => 0 | .active => 1 | .gap => 2 | .hold => 3 | .member => 4

/-- Code of a spare's state (R289). -/
def IbxSt.code : IbxSt → Nat
  | .idle => 0 | .selfCal => 1 | .settling => 2 | .shadowing => 3
  | .carrying => 4 | .returning => 5 | .substituting => 6 | .withdrawn => 7

/-- The running step as the registers of a channel show it: after a BLOCK reset a step whose entry waits for its close
shows no more (R20, R113). -/
def ChanS.shown (x : ChanS) : Option Run := if x.st = .hold ∧ x.why = 6 then none else x.run

/-- `QD_CSTATn.GANG`: 0 none, 1 leader, 2 member (R267). A BLOCK reset dissolves the gang at the end of its tick
(R308), and the register is at reset at once (R20). -/
def State.gangRole (s : State) (c : Ch) : Nat :=
  if (s.seq c).st = .hold ∧ (s.seq c).why = 6 then 0
  else if (s.seq c).lead.isSome then 2 else if (s.seq c).size = 1 then 0 else 1

/-- k_T in force in a channel, its leader's (R192). -/
def State.kT (s : State) (c : Ch) : Nat := s.rd (CH_PSTAT.K_T (s.leader c))

/-- The factor k_bal of a channel in 1/256 steps (R403). -/
def State.kBal (s : State) (c : Ch) : Nat :=
  if s.rb MET_BALCFG.EN then
    match (s.seq (s.leader c)).shown with
    | none => 256
    | some r =>
      let cls := if r.desc.cls = 3 then s.rd (CH_SCFG.BAL_CLASS (s.leader c)) else r.desc.cls.toNat
      if cls = 0 ∨ r.desc.op = 9 ∨ r.desc.op = 10 then 256
      else
        let exp := decide ((s.chan c).loop.icmd < 0)
        bget s.met.kbal (Fin.ofNat 4 (2 * (cls - 1) + b2n exp))
  else 256

/-- Bit s is 1 while a closed-loop channel of the quad uses slot s (R265 `BUSY`). -/
def State.slotBusy (s : State) (q : Quad) (k : Nat) : Bool :=
  (quadChs q).any (fun c => (s.chan c).loop.closed && decide ((s.chan c).loop.act.slot.val = k))

/-- The second pass runs: SAF is not halted by debug and no engine is single-stepped (R247, R655). -/
def State.passBOn (s : State) : Bool := !s.rb DBG_CTL.HALT_SAF && decide (s.rd DBG_CTL.LE_STEP = 0)

/-! ### Flags of safety -/

/-- A word of the parameter set in force (R664). -/
def State.pset (s : State) (i : Nat) : Nat := (s.saf.pset.getD i 0).toNat

/-- A demand of SF1 to SF7 is present: its source's condition holds (R668 `DEMAND`). -/
def State.demand (s : State) (n : Fin 7) : Bool := (s.src (Fin.ofNat 128 (64 + n.val))).cond ≠ 0

/-- A safety fault of SAF is active (R668 `SFAULT`). -/
def State.sfault (s : State) : Bool := [71, 72, 73, 74, 75, 76, 77, 78].any (fun n => s.active n)

/-- A source with SAFE in its reaction whose condition holds: an own cause (R621). -/
def State.ownCause (s : State) : Bool :=
  s.flt.srcs.toList.any (fun x => decide (x.cond ≠ 0) && bitN x.react 5)

/-- The effective thresholds of `BRKB` and `BRKM` in mV: on, off (R636). -/
def State.brkbEff (s : State) : Int × Int :=
  let on := min (s.rd SAF_BRKB.ON : Int) ((s.pset 9 : Int) - 500)
  (on, min (s.rd SAF_BRKB.OFF : Int) (on - 400))

/-- The effective thresholds of `BRKM`. -/
def State.brkmEff (s : State) : Int × Int :=
  let on := min (s.rd MOT_BRK.ON : Int) ((s.pset 10 : Int) - 1000)
  (on, min (s.rd MOT_BRK.OFF : Int) (on - 1500))

/-- `SAF_STAT.BRK_CLAMP` (R636). -/
def State.brkClamp (s : State) : Bool :=
  decide (s.brkbEff ≠ ((s.rd SAF_BRKB.ON : Int), (s.rd SAF_BRKB.OFF : Int))) ||
    decide (s.brkmEff ≠ ((s.rd MOT_BRK.ON : Int), (s.rd MOT_BRK.OFF : Int)))

/-- The filtered inputs as PDU byte 5 (R659). -/
def State.ioByte (s : State) : Nat :=
  maskAll [s.saf.estA, s.saf.estB, s.saf.kfbA, s.saf.kfbB, s.saf.kdr, s.saf.kdr, s.saf.tray, s.saf.drvEn]

/-- The net charge of SF6 in mC: `sf6Q` × 80 ns / `SF6_RSHUNT` (R637). -/
def State.sf6mC (s : State) (c : Ch) : Int := tdiv (bget s.saf.sf6Q c) (10 ^ 18)

/-- The charging time of SF6 in s. -/
def State.sf6s (s : State) (c : Ch) : Nat := bget s.saf.sf6T c / 1000000000

/-! ### Calibration constants (R278 to R280) -/

/-- The constants in force of a converter in a range; where none is listed the OTP values once they are loaded, none
before (R280). -/
def State.calOf (s : State) (conv rng : Nat) : CalK :=
  (s.met.cal.find? (fun k => k.conv = conv ∧ k.rng = rng)).getD
    (if s.met.otpLoaded then ⟨conv, rng, Config.otpGain conv rng, Config.otpOfs conv rng, 0, 0, false, false⟩
     else ⟨conv, rng, 0, 0, 2, 0, false, false⟩)

/-- The constants of a converter as accepted last: those that wait to come into force (R283), else those in force. -/
def State.calLast (s : State) (conv rng : Nat) : CalK :=
  (s.met.newCal.find? (fun k => k.conv = conv ∧ k.rng = rng)).getD (s.calOf conv rng)

/-! ### What a register field reads -/

/-- Word `i` of an octet string held as a big-endian number of `n` octets: its octets 4i to 4i+3, the first in bits
[7:0] (R739). -/
def octetWord (n : Nat) (x : Nat) (i : Nat) : Nat :=
  (List.range 4).foldr (fun k a => (x / 256 ^ (n - 1 - (4 * i + k))) % 256 + 256 * a) 0

/-- The item that `SEC_DSEL` selects (R739). -/
def State.digestItem (s : State) : Nat :=
  let w := s.rd SEC_DSEL.WORD
  let item := s.rd SEC_DSEL.ITEM
  let img := s.sec.img
  let dig (d : Option Digest) : Nat := octetWord 48 ((d.getD 0).toNat) w
  if item = 0 then dig (img.map (·.digest))
  else if item = 1 then dig (img.map (·.seq))
  else if item = 2 then dig (img.map (·.saf))
  else if item = 3 then dig (img.map (·.mot))
  else if item ≤ 7 then dig (some (bget s.sec.keys (Fin.ofNat 4 (item - 4))))
  else if item ≤ 9 ∧ !s.sec.erased then Config.idKeyWord item w % 2 ^ 32
  else 0

/-- The value of a CH field held outside the register file. -/
def State.viewCh (s : State) (c : Ch) (o lo : Nat) : Option Nat :=
  let x := s.chan c
  if o = 0x28 then
    if lo = 0 then some (b2n x.stage.gates)
    else if lo = 1 then some x.stage.iso.code
    else if lo = 24 then some (b2n (s.faultFlag c))
    else none
  else if o = 0x44 then
    if lo = 8 then
      some (b2n (s.met.reqs.any (fun r => r.ch = c) ||
        s.met.spares.toList.any (fun p => p.rc && decide (p.target.val = 2 * c.val + 1))))
    else none
  else if o = 0x54 then
    if lo = 0 then some x.met.src.val
    else if lo = 4 then some (b2n (decide (0 < x.met.ovld) || x.met.vOvld))
    else if lo = 6 then some (b2n x.met.excl)
    else none
  else if o = 0x60 then
    if lo = 0 then some (ofS 16 x.met.temp) else if lo = 16 then some (b2n x.met.tempOk) else none
  else if o = 0x64 then (if lo = 16 then some (b2n (x.met.snap ≠ [])) else none)
  else if o = 0x68 then some ((x.met.snap.getD (s.rd (CH_LCTL.IDX c)) 0).toNat)
  else if o = 0x88 then
    if lo = 0 then some x.seq.st.code
    else if lo = 8 then some ((x.seq.shown.map (fun r => r.desc.op.toNat)).getD 0)
    else if lo = 16 then some ((x.seq.shown.map (fun r => r.phase)).getD 0)
    else some (if x.seq.st = .hold then x.seq.why else 0)
  else if o = 0x8c then
    if lo = 0 then some ((x.seq.shown.map (fun r => r.idx)).getD 0xFFFF)
    else some ((x.seq.armed.map (s.posOf (cq c))).getD 0xFFFF)
  else if o = 0x90 then some ((x.seq.shown.map (fun r => satU 32 r.ticks)).getD 0)
  else if o = 0x94 then
    if lo = 0 then some (s.kBal c) else some ((x.seq.shown.map (fun r => satU 16 r.bal)).getD 0)
  else none

/-- The value of a QD field held outside the register file. -/
def State.viewQd (s : State) (q : Quad) (o lo : Nat) : Option Nat :=
  if o = 0 then
    if lo = 0 then some (maskAll ((List.range 8).map (s.slotBusy q)))
    else if lo = 8 then some (maskAll ((quadChs q).map (s.activeIn 10)))
    else if lo = 12 then some (maskAll ((quadChs q).map (s.activeIn 11)))
    else if lo = 16 then some (b2n s.passBOn)
    else none
  else if 0x20 ≤ o ∧ o < 0x30 then
    let c := chOf q (Fin.ofNat 4 ((o - 0x20) / 4))
    let l := (s.chan c).loop
    if lo = 0 then some l.act.slot.val
    else if lo = 3 then some (b2n l.bank)
    else if lo = 4 then some (b2n l.closed)
    else if lo = 5 then some (s.gangRole c)
    else if lo = 8 then some l.last
    else if lo = 10 then some l.reason
    else if lo = 12 then some l.k
    else some (satU 16 l.feCnt)
  else if 0x30 ≤ o ∧ o < 0x40 then
    let l := (s.chan (chOf q (Fin.ofNat 4 ((o - 0x30) / 4)))).loop
    if lo = 0 then some (l.rollbacks % 2 ^ 24)
    else if lo = 24 then some (satU 4 l.overruns)
    else some (satU 4 l.checks)
  else if o = 0x144 then
    some (ofS 32 (((bget s.qd q).trace.find? (fun e =>
      e.probe = s.rd (QD_TRADDR.PROBE q) ∧ e.index = s.rd (QD_TRADDR.INDEX q))).map (·.value) |>.getD 0))
  else none

/-- The value of a FLT field held outside the register file. -/
def State.viewFlt (s : State) (o lo : Nat) : Option Nat :=
  let srcs := s.flt.srcs.toList
  let n := s.rd FLT_SEL.SRC
  let x := s.src (Fin.ofNat 128 n)
  if o < 0x10 then some (maskOf (srcs.map (fun x => decide (x.act ≠ 0))) (o / 4))
  else if o < 0x20 then some (maskOf (srcs.map (·.recd)) ((o - 0x10) / 4))
  else if o = 0x24 then
    if lo = 0 then some x.react
    else if lo = 8 then some (srcAllow n)
    else if lo = 16 then some (srcFloor n)
    else if lo = 24 then some (srcClr n)
    else some (srcOwner n)
  else if o = 0x28 then some (if n ≤ 12 ∨ n = 14 ∨ n = 15 then x.act.toNat else 0)
  else if o = 0x2c then some (satU 16 x.cnt)
  else if o = 0x40 then
    if lo = 0 then none
    else if lo = 1 then some (b2n (decide (0 < s.flt.errHold)))
    else some (satU 8 s.nErr)
  else if o = 0x48 ∧ lo = 0 then some (b2n s.saf.drvEn)
  else none

/-- The value of a SAF field held outside the register file. -/
def State.viewSaf (s : State) (o lo : Nat) : Option Nat :=
  if o = 0 then
    if lo = 0 then some (maskAll ([0, 1, 2, 3, 4, 5, 6].map s.demand))
    else if lo = 7 then some (b2n s.sfault)
    else if lo = 8 then some (b2n s.ownCause)
    else if lo = 13 then some (b2n (s.sys.mode = .service))
    else if lo = 14 then some (b2n s.saf.ss1.isSome)
    else if lo = 15 then some (b2n s.brkClamp)
    else if lo = 16 then some (if s.saf.pass = 0 then 0 else 1 + s.saf.cycle % 8)
    else none
  else if o = 0x0c then (if lo = 0 then some (s.pset 0) else none)
  else if o = 0x10 then some (s.pset 19)
  else if o = 0x18 then some (s.pset (s.rd SAF_PREAD.WORD))
  else if o = 0x1c then
    if lo = 0 then some s.ioByte
    else if lo = 8 then some (b2n (s.demand 6))
    else if lo = 10 then some (b2n s.cenOn)
    else if lo = 11 then some (b2n s.ienOn)
    else if lo = 12 then some (b2n s.menOn)
    else none
  else if o = 0x34 then some (ofS 32 (satS 32 (s.sf6mC (Fin.ofNat 16 (s.rd SAF_SF6SEL.CHAN)))))
  else if o = 0x38 then some (satU 32 (s.sf6s (Fin.ofNat 16 (s.rd SAF_SF6SEL.CHAN))))
  else if o = 0x3c then some (s.src 15).act.toNat
  else none

/-- The value of a MET field held outside the register file. -/
def State.viewMet (s : State) (o lo : Nat) : Option Nat :=
  let p0 := bget s.met.spares 0
  let p1 := bget s.met.spares 1
  let conv := s.rd MET_CALSEL.CONV
  let rng := if 35 ≤ conv then 7 else if conv = 34 then 5 + s.rd MOT_FCFG.FRANGE
    else if conv < 32 ∧ conv % 2 = 0 then 4 else s.rd MET_CALSEL.RANGE
  let k := s.calOf conv rng
  let l := s.calLast conv rng
  if o = 0x0c then
    if lo = 0 then some p0.st.code
    else if lo = 3 then some (b2n p0.rc)
    else if lo = 4 then some p0.target.val
    else if lo = 11 then some p1.st.code
    else if lo = 14 then some (b2n p1.rc)
    else if lo = 15 then some p1.target.val
    else if lo = 20 then some s.met.reqs.length
    else none
  else if o = 0x14 then
    if lo = 31 then some (b2n s.sec.gradeM)
    else if lo = 0 ∧ !s.sec.gradeM then some (Config.vrefS % 2 ^ 23)
    else none
  else if o = 0x24 then some (ofS 32 s.met.vbPrec)
  else if o = 0x84 then some (ofS 32 k.gdev)
  else if o = 0x88 then some (ofS 32 k.ofs)
  else if o = 0x8c then
    if lo = 0 then some (satU 16 (l.age / 1000000000)) else if lo = 16 then some l.src else some (b2n k.suspect)
  else none

/-- The value of a SYS, HOST, RING, MOT or SEC field held outside the register file. -/
def State.viewDev (s : State) (o lo : Nat) : Option Nat :=
  if o = 0x004 then (if lo = 0 then some (b2n s.sec.gradeM) else none)
  else if o = 0x008 then some (s.sec.uid % 2 ^ 32)
  else if o = 0x00c then some (s.sec.uid / 2 ^ 32)
  else if o = 0x018 then
    if lo = 0 then some s.sys.mode.code
    else if lo = 4 then some ((s.sys.trans.map Mode.code).getD 0)
    else some (b2n s.sys.trans.isSome)
  else if o = 0x030 then
    if lo = 0 ∧ s.role = 0 then some s.per else none
  else if o = 0x034 then
    if lo = 0 then some (b2n s.sys.perNew.isSome)
    else if lo = 8 then some ((s.sys.perNew.map (·.2)).getD 0)
    else none
  else if o = 0x038 then some (s.now % 2 ^ 32)
  else if o = 0x1004 then
    if lo = 0 then some (b2n s.isHead)
    else if lo = 1 then some (b2n s.host.link)
    else if lo = 2 then some (b2n s.host.xtag)
    else if lo = 8 then some s.host.reads.length
    else some (min 256 s.cbufUse)
  else if o = 0x101c then
    some (maskAll (allCh.map (fun c => decide ((s.seq c).st = .hold ∧ (s.seq c).why = 4))))
  else if o = 0x104c then some s.host.cpqW
  else if o = 0x105c then some s.host.evqW
  else if o = 0x106c then some (s.host.tlrSeq % 2 ^ 32)
  else if o = 0x1880 then some (if s.isHead then maskAll (s.host.msix.toList.map (·.pend)) else 0)
  else if 0x1800 ≤ o ∧ o < 0x1880 ∧ !s.isHead then some 0
  else if 0x1100 ≤ o ∧ o < 0x1220 ∧ o % 16 = 0xc then
    let q : QId := Fin.ofNat 18 ((o - 0x1100) / 16)
    if lo = 0 then some (s.subq q).fetched else some (s.doneOf q)
  else if o = 0x2004 then
    if lo = 2 then some (b2n s.isHead)
    else if lo = 9 ∧ s.role = 3 then some 1
    else none
  else if o = 0x2044 then some (bget s.ring.tgt (Fin.ofNat 64 (s.rd RING_BARSEL.TAG)))
  else if o = 0x2048 then some (bget s.ring.cnt (Fin.ofNat 64 (s.rd RING_BARSEL.TAG)))
  else if o = 0x201c then (if lo = 9 then some (b2n (decide (0 < s.ring.bursts) || s.ring.quietTo.any (fun t => s.clk ≤ t))) else none)
  else if o = 0x6090 then some (ofS 48 s.mot.ext % 2 ^ 32)
  else if o = 0x6080 then
    if lo = 16 then some ((s.mot.cmd.map (fun m => m.desc.op.toNat)).getD 0)
    else if lo = 6 then some (b2n (decide (16 ≤ s.mot.ofsP.length ∨ 16 ≤ s.mot.ofsN.length)))
    else none
  else if o = 0x7000 then
    if lo = 0 then some s.sec.life
    else if lo = 8 then some s.sec.rbc
    else if lo = 16 then some s.sec.revoke.toNat
    else if lo = 20 then some (b2n s.sec.ownerSet)
    else some (b2n s.sec.lifePend.isSome)
  else if o = 0x7018 then
    if lo = 0 then some ((s.sec.img.map (fun i => i.svn.toNat)).getD 0)
    else if lo = 8 then some ((s.sec.img.map (fun i => i.auth.toNat)).getD 0)
    else none
  else if o = 0x701c then some ((s.sec.img.map (fun i => i.build.toNat)).getD 0)
  else if o = 0x7064 then some s.digestItem
  else none

/-- The value of a CMP field (R708). -/
def State.viewCmp (s : State) (o : Nat) : Option Nat :=
  let l := s.cmp.toList
  if 0x200 ≤ o ∧ o < 0x20c then some (maskOf (l.map (·.raw)) ((o - 0x200) / 4))
  else if 0x210 ≤ o ∧ o < 0x21c then some (maskOf (l.map (·.filt)) ((o - 0x210) / 4))
  else if 0x220 ≤ o ∧ o < 0x22c then some (maskOf (l.map (·.lat)) ((o - 0x220) / 4))
  else if 0x230 ≤ o ∧ o < 0x23c then some (maskOf (l.map (·.init)) ((o - 0x230) / 4))
  else none

/-- The value of a field held outside the register file; none where the register file holds it. -/
def State.view (s : State) (off lo : Nat) : Option Nat :=
  if off / 0x1000 = 0x8 then s.viewCh (Fin.ofNat 16 ((off % 0x1000) / 0x100)) (off % 0x100) lo
  else if off / 0x1000 = 0x9 then s.viewQd (Fin.ofNat 4 ((off % 0x1000) / 0x400)) (off % 0x400) lo
  else if off / 0x1000 = 0x3 then s.viewFlt (off % 0x1000) lo
  else if off / 0x1000 = 0x4 then s.viewSaf (off % 0x1000) lo
  else if off / 0x1000 = 0x5 then s.viewMet (off % 0x1000) lo
  else if off / 0x1000 = 0xA then s.viewCmp (off % 0x1000)
  else s.viewDev off lo

/-- The registers that only the head has (R418, R465, R546). -/
def headOnly (off : Nat) : Bool :=
  (0x1070 ≤ off && off ≤ 0x107c) || (0x1800 ≤ off && off ≤ 0x1880) || off = 0x2000 || off = 0x2018 || off = 0x201c ||
    (0x2040 ≤ off && off ≤ 0x2050)

/-- What a field reads: a write-only field reads 0 (R16), and on a member a field of the RING block that only the head has
(R546). -/
def State.look (s : State) (f : Fld) : Nat :=
  if f.acc = .wo || (!s.isHead && headOnly f.off && decide (f.off / 0x1000 = 2)) then 0 else (s.view f.off f.lo).getD (s.rdNew f)

/-- The word a register shows: its fields in place, reserved bits 0 (R15, R743); 0 where none is named (R741). -/
def State.regWord (s : State) (off : Nat) : Word :=
  wN ((fieldsAt off).foldl (fun a f => a + (s.look f % 2 ^ f.w) * 2 ^ f.lo) 0)

end Sys2Proof.Machine
end

