-- ==== Sys2Proof/Machine/Measure.lean ====
section
/-!
DEFINITION. What a tick measures (05_metrology_and_ledger.md): the ranges and constants of the converters, a tick's
charge and energy in a channel, and how the ledger counts them (R271 to R279, R302 to R308, R314).
-/

namespace Sys2Proof.Machine

/-! ### Reason and detail codes (R456, R457) -/

/-- Reason TIMEOUT. -/
def rTIMEOUT : Nat := 0x04
/-- Reason TIMEOUT_DERATED. -/
def rDERATED : Nat := 0x05
/-- Reason SAFETY_LIMIT. -/
def rSAFETY : Nat := 0x10
/-- Reason CONTACT_LOST. -/
def rCONTACT : Nat := 0x11
/-- Reason SHORT_AT_START. -/
def rSHORT : Nat := 0x12
/-- Reason FOLLOW_ERR. -/
def rFOLLOW : Nat := 0x13
/-- Reason FAULT. -/
def rFAULT : Nat := 0x14
/-- Reason INTERRUPTED. -/
def rINT : Nat := 0x15
/-- Reason REVOKED. -/
def rREVOKED : Nat := 0x20
/-- Reason STARVED. -/
def rSTARVED : Nat := 0x21
/-- Detail STEP_INVALID. -/
def dINVALID : Nat := 0xFF01
/-- Detail SAFE_ENTRY. -/
def dSAFE : Nat := 0xFF02
/-- Detail START_SPINNING. -/
def dSPIN : Nat := 0xFE01
/-- Detail SYNC_LOST. -/
def dSYNC : Nat := 0xFE02
/-- The detail that names a fault source. -/
def dSrc (n : Src) : Nat := n.val + 1

/-- The failure reasons (R456). -/
def isFailure (r : Nat) : Bool := 0x10 ≤ r && r ≤ 0x15

/-! ### Converters, ranges and constants (R271 to R283) -/

/-- The current converter of a channel among the 32 working converters: 2n + 1 (2n is its voltage converter). -/
def iConv (c : Ch) : Fin 32 := ⟨2 * c.val + 1, by omega⟩

/-- Full scale of a range in nV: 0 to 3 the current ranges (R273), 4 voltage (R272), 5 and 6 the force bridge in nV/V
(R592), 7 the precision VB converter (its span in 14_pins_and_electrical.md). -/
def fsNv (rng : Nat) : Int :=
  if rng = 4 then 5000000000 else if rng = 5 then 5000000 else if rng = 6 then 10000000 else if rng = 7 then 20000000000
  else 25000000 * 2 ^ rng

/-- X_ref of a range in nV: 1.25 times the full scale (R271). -/
def xRef (rng : Nat) : Int := 5 * fsNv rng / 4

/-- The range of the force converter. -/
def State.forceRng (s : State) : Nat := 5 + s.rd MOT_FCFG.FRANGE

/-- The ranges of a converter: voltage for an even working one, all five for a spare. -/
def convRngs (conv : Nat) : List Nat :=
  if conv < 32 then (if conv % 2 = 0 then [4] else [0, 1, 2, 3])
  else if conv < 34 then [0, 1, 2, 3, 4]
  else if conv = 34 then [5, 6] else [7]

/-- The rotation has calibrated a converter in every range (R280). -/
def State.calibrated (s : State) (conv : Nat) : Bool := (convRngs conv).all (fun r => (s.calOf conv r).src = 1)

/-- Store constants. -/
def putCal (l : List CalK) (k : CalK) : List CalK := k :: l.filter (fun x => !(x.conv = k.conv && x.rng = k.rng))

/-- A converter becomes a source: its waiting constants come into force (R283), but not while all constants are frozen
(R288). -/
def State.takeCal (s : State) (conv : Nat) : State :=
  if s.met.frozen then s
  else
    let (mine, rest) := s.met.newCal.partition (fun k => k.conv = conv)
    mine.foldl (fun (s : State) (k : CalK) =>
      let k' := { s.calOf conv k.rng with gdev := k.gdev, ofs := k.ofs, src := k.src, age := k.age }
      { s with met := { s.met with cal := putCal s.met.cal k' } })
      { s with met := { s.met with newCal := rest } }

/-- A spare. -/
def State.spare (s : State) (i : SpareId) : Spare := bget s.met.spares i

/-- A calibration of a converter that is away is in progress (R294): what it has given so far goes with it (R324). Of a
self-calibration (R295) nothing is held before it ends. -/
def State.inCal (s : State) (conv : Nat) : Bool :=
  ([0, 1] : List SpareId).any (fun i => decide ((s.spare i).st = .carrying ∧ (s.spare i).target.val = conv))

/-- The converter that is the current source of a channel (R291). -/
def State.iSrc (s : State) (c : Ch) : Nat :=
  let n := (s.chan c).met.src.val
  if n = 0 then (iConv c).val else 31 + n

/-- The converter that is the voltage source of a channel. -/
def State.vSrc (s : State) (c : Ch) : Nat :=
  let n := (s.chan c).met.vsrc.val
  if n = 0 then 2 * c.val else 31 + n

/-- The metrology range in force of a channel. -/
def State.rngActive (s : State) (c : Ch) : Nat := s.rd (CH_MRNG.ACTIVE c)

/-- A calibrated mean input of R278 times `n` clocks, in 10^-8 nV: of the bit sum `bits` at a converter in a range. -/
def CalK.input (k : CalK) (bits : Int) (n : Nat) : Int := (100000000 + k.gdev) * (xRef k.rng * bits - k.ofs * n)

/-- A voltage reading in nV at a channel's source as µV (R278, R279). -/
def State.metUv (s : State) (c : Ch) (raw : Int) : Int :=
  let k := s.calOf (s.vSrc c) 4
  let kel : Int := if s.rb (CH_SENSE.KEL_EN c) then 2 * s.rd (CH_RKEL.RKEL c) else 0
  satS 32 (rdiv ((100000000 + k.gdev) * (raw - k.ofs) - 100000000 * kel) 100000000000)

/-- A current reading in nV at a channel's source as µA (R278, R279). -/
def State.metUa (s : State) (c : Ch) (raw : Int) : Int :=
  let k := s.calOf (s.iSrc c) (s.rngActive c)
  satS 32 (rdiv ((10000000 + s.rdS (CH_MTRIM.GAIN c)) *
    ((100000000 + k.gdev) * (raw - k.ofs) - 100000000 * s.rdS (CH_MTRIM.OFS c)))
      ((s.rd (CH_RSHUNT.RSHUNT c) : Int) * 1000000000))

/-! ### What a tick measured (R271, R302, R303) -/

/-- M, the modulator clocks of a tick (R270). -/
def State.mClk (s : State) : Nat := s.per / 40

/-- Converters run and the ledger counts: always but in BOOT before the converters' self-test has passed (R270, R308). -/
def State.measures (s : State) : Bool := s.sys.mode ≠ .boot || s.met.selfOk

/-- A mean over `n` clocks lies beyond ±110 % of full scale, 0.88 of X_ref (R271). -/
def overloaded (n : Nat) (bits : Int) : Bool := decide (22 * (n : Int) < 25 * (bits.natAbs : Int))

/-- The charge of `n` clocks in 2^-32 nC from the bit sum (R302, R308). -/
def State.dqBits (s : State) (c : Ch) (bits : Int) (n : Nat) : Int :=
  let x := (s.calOf (s.iSrc c) (s.rngActive c)).input bits n * 80 -
    100000000 * s.rdS (CH_MTRIM.OFS c) * ((80 * n : Nat) : Int)
  tdiv ((10000000 + s.rdS (CH_MTRIM.GAIN c)) * x * 2 ^ 32) (1000000000000000 * (s.rd (CH_RSHUNT.RSHUNT c) : Int))

/-- The charge of `n` overloaded clocks in 2^-32 nC: the mean of the SAR current samples (R302); of no sample there is no
mean, a free value. -/
def State.dqSar (s : State) (c : Ch) (n : Nat) : Int × State :=
  let m := (s.chan c).met
  if m.sarN = 0 then s.takeInt
  else (tdiv (m.sarSum * ((80 * n : Nat) : Int) * 2 ^ 32) ((m.sarN : Int) * 1000000000), s)

/-- The charge of `n` clocks of a channel, and whether they are overloaded. -/
def State.dqOf (s : State) (c : Ch) (bits : Int) (n : Nat) : Int × State :=
  if overloaded n bits then s.dqSar c n else (s.dqBits c bits n, s)

/-- The tick is excluded in a channel (R307): its leader's exclusion. -/
def State.exclNow (s : State) (c : Ch) : Bool := (s.chan (s.leader c)).met.exclTick

/-- The tick is excluded in a channel or within a Kelvin confirmation pulse: its voltage is not taken (R293, R303). -/
def State.noVolt (s : State) (c : Ch) : Bool := s.exclNow c || (s.chan (s.leader c)).met.pulsed

/-- Whole increments of a channel of a charge `d` at the voltage `v` (R302); the energy is the second part. -/
def State.increments (s : State) (c : Ch) (d v : Int) : State × Int :=
  let x := s.chan c
  let (dq, rq) := splitInc x.ledger.resQ d
  let (de, re) := splitInc x.ledger.resE (tdiv (v * dq * 2 ^ 32) 1000000)
  (s.updCh c (fun x => { x with
    ledger := { x.ledger with resQ := rq, resE := re }, met := { x.met with dqInt := dq, sarSum := 0, sarN := 0 } }), de)

/-- The readings of a channel for the tick that ended: v_tick, its charge and energy with their residues, the overload
count, the telemetry sums and the span that SAR tracking sees. Its energy increment is the second part. -/
def State.measure1 (s : State) (c : Ch) (i : ChTick) : State × Int :=
  let lead := s.leader c
  let ex := s.exclNow c
  let v :=
    if lead ≠ c then (s.chan lead).met.vTick
    else if s.noVolt c then (s.chan c).met.vTick
    else s.metUv c i.vSinc
  let ovl := overloaded s.mClk i.bits
  let vOvl := overloaded s.mClk i.vBits
  let (d, s) := s.dqOf c i.bits s.mClk
  let (s, de) := s.increments c d v
  let dq := (s.chan c).met.dqInt
  let ua := tdiv (dq * 1000000) s.tickNs
  let low := s.rb (CH_PSTAT.FB_LIMIT c)
  let s := s.updCh c (fun x => { x with
    met := { x.met with
      vTick := v, ovld := if ovl then x.met.ovld + 1 else 0, vOvld := vOvl
      exAge := if ex then 0 else x.met.exAge + 1
      trkN := x.met.trkN + 1
      trkMin := if x.met.trkN = 0 then ua else min x.met.trkMin ua
      trkMax := if x.met.trkN = 0 then ua else max x.met.trkMax ua }
    tlm := { x.tlm with
      q := x.tlm.q + dq, ns := x.tlm.ns + s.tickNs, vSum := if ex then x.tlm.vSum else x.tlm.vSum + v
      vN := if ex then x.tlm.vN else x.tlm.vN + 1, sarSub := x.tlm.sarSub + b2n ovl
      derated := x.tlm.derated || decide (s.kT c < 256), balanced := x.tlm.balanced || decide (s.kBal c < 256)
      excl := x.tlm.excl || ex, foldback := x.tlm.foldback || low } })
  let otp := (100000000 + Config.otpGain (s.iSrc c) (s.rngActive c)) *
    (xRef (s.rngActive c) * i.bits - Config.otpOfs (s.iSrc c) (s.rngActive c) * s.mClk)
  let s := { s with saf := { s.saf with sf6Acc := bupd s.saf.sf6Acc c (fun a => a + otp) } }
  (if ovl || vOvl then s.wr MET_FLAGS.OVLD 1 else s, de)

/-! ### The ledger counts a tick (R305, R308, R314) -/

/-- The current source of a channel carries `CAL_PENDING` (R280, R314). -/
def State.calPending (s : State) (c : Ch) : Bool :=
  if (s.chan c).met.src.val = 0 then s.rb (CH_MSTAT.CAL_PENDING c) else !s.calibrated (s.iSrc c)

/-- The flags that a counted tick sets in the open entry of a leader (R314). -/
def State.tickFlags (s : State) (c : Ch) (l : Ledger) : Ledger :=
  if !l.isOpen then l
  else
    let ms := s.members c
    let l := if ms.any (fun m => decide (0 < (s.chan m).met.ovld)) then l.flag fSARSUB else l
    let l := if (s.seq c).size ≠ 1 then l.flag fGANG else l
    let l := if s.met.frozen then l.flag fREF else l
    if ms.any (fun m => s.calPending m) then l.flag fCAL else l

/-- The ledger update of a channel (R305): a leader counts its gang's increments, a member nothing. `f` is what the
update does beside. -/
def State.countAs (s : State) (c : Ch) (des : List Int) (f : Ledger → Ledger) : State :=
  if (s.seq c).lead.isSome then s
  else
    let ms := s.members c
    let dq := sumI (ms.map (fun m => (s.chan m).met.dqInt))
    let de := sumI (ms.map (fun m => des.getD m.val 0))
    s.ledger c (fun l => f (if s.exclNow c then l.exclude dq de else s.tickFlags c (l.count dq de)))

/-- The ledger counts a full tick of a channel (R305). -/
def State.countTick (s : State) (c : Ch) (des : List Int) : State :=
  let ex := s.exclNow c
  let sub := !ex && (s.seq c).lead.isNone && (s.chan c).ledger.isOpen &&
    (s.members c).any (fun m => decide (0 < (s.chan m).met.ovld))
  (if sub then s.incSat (CH_MSTAT.SAR_SUB c) else s).countAs c des (fun l => if ex then l else l.tickOn)

/-- Apply a measurement channel by channel; the energy increments are the second part. -/
def State.measureAll (s : State) (f : State → Ch → State × Int) : State × List Int :=
  allCh.foldl (fun (a : State × List Int) c => let r := f a.1 c; (r.1, a.2 ++ [r.2])) (s, [])

/-- Metrology and the ledger at the boundary that ends a tick. -/
def State.measureTick (s : State) (ch : List ChTick) : State :=
  if !s.measures then s
  else
    let z : ChTick := ⟨0, 0, 0⟩
    let (s, des) := s.measureAll (fun s c => s.measure1 c (ch.getD c.val z))
    s.forCh allCh (fun s c => s.countTick c des)

/-! ### The partial tick of a reset (R308) -/

/-- The bits of a tick that no command carries: free values. -/
def State.freeTick (s : State) : List ChTick × State :=
  allCh.foldl (fun (a : List ChTick × State) _ =>
    let (b, s) := a.2.takeInt
    let (w, s) := s.takeInt
    let (v, s) := s.takeInt
    let m : Int := s.mClk
    (a.1 ++ [⟨clampI b (-m) m, clampI w (-m) m, v⟩], s)) ([], s)

/-- The charge of a channel in the first `n` clocks of a tick, from the SAR path where they are overloaded; its energy uses
the v_tick of the last full tick. -/
def State.partial1 (s : State) (c : Ch) (n : Nat) : State × Int :=
  let (b, s) := s.takeInt
  let b := clampI b (-(n : Int)) n
  let (d, s) := s.dqOf c b n
  let s := s.updMet c (fun m => { m with ovld := b2n (overloaded n b) })
  s.increments c d (s.chan c).met.vTick

/-- The partial tick of a reset (R308), which closes the entries with INTERRUPTED. No command carries the instant of the
request within its tick, nor the bit sums: free values. The instant says how many clocks the partial tick has, and whether
the 2 µs, 1,000 cycles of SYSCLK, run past the end of the tick, which is then counted in full. `cut`: a brown-out of `VAA`,
`VDDA` or `VDD`, which counts up to its own instant. DESIGN CHOICE (log entry 148): a partial tick is no tick in `T_TOT` nor
in the ticks of the entry, which the spec leaves open. -/
def State.partialTick (s : State) (cut : Bool) : State :=
  if !s.measures then s
  else
    let (at_, s) := s.takeNat
    let stop := at_ % max 1 s.per + if cut then 0 else 1000
    let late := decide (s.per < stop)
    let (full, s) := s.freeTick
    let s := if late then s.measureTick full else s
    let n := min s.mClk ((if late then stop - s.per else stop) / 40)
    let (s, des) := s.measureAll (fun s c => s.partial1 c n)
    s.forCh allCh (fun s c => s.countAs c des (fun l =>
      let l := if l.isOpen then l.flag fPARTIAL else l
      let l := if cut && l.isOpen then l.flag fCUT else l
      l.closes rINT (s.now + b2n late)))

end Sys2Proof.Machine
end

