-- ==== Sys2Proof/Machine/Protect.lean ====
section
/-!
DEFINITION. Ending steps and motion commands, opening stages, the safe-state request, the snapshot of a fatal dump,
the resets, and the fault collector: the operations by which one part of the block acts on the others.
-/

namespace Sys2Proof.Machine

/-! ### The records of a step (R451 to R454) -/

/-- The mean voltage of a DCIR window in µV. -/
def DcirWin.uV (w : DcirWin) : Int := tdiv w.v w.n

/-- The mean current of a DCIR window in µA, for ticks of `ns` ns (R369). -/
def DcirWin.uA (w : DcirWin) (ns : Nat) : Int := tdiv (w.q * 1000000) ((w.n * ns : Nat) : Int)

/-- A DCIR resistance in µΩ between two windows, 0 and LOW_DI below 1 % of the control full scale (R370, R371). -/
def dcirR (fsUa : Int) (ns : Nat) (w0 w : DcirWin) : Int × Bool :=
  let di := w.uA ns - w0.uA ns
  if di.natAbs * 100 < fsUa.natAbs then (0, true) else (satS 32 (rdiv ((w.uV - w0.uV) * 1000000) di), false)

/-- Full-scale current in µA of a range on a shunt (R273): 25 mV × 2^range. -/
def State.fsUa (s : State) (c : Ch) (rng : Nat) : Int :=
  tdiv (25000000000000 * 2 ^ rng) (s.rd (CH_RSHUNT.RSHUNT c))

/-- Window length of an EIS step in ticks (R375). -/
def eisLen (d : StepDesc) (e : EisS) : Nat := d.p16.toNat / 256 * e.pt

/-- What OCV reports of v_tick: sum, number, least and greatest, over its measure phase, or where its timeout expired first
over the last `T_MEAS` (R367). -/
def Run.ocvSums (r : Run) : Int × Nat × Int × Int :=
  if r.toFired.isSome ∧ !r.finished then
    let vs := r.hist.filterMap id
    (sumI vs, vs.length, vs.foldl min (vs.headD 0), vs.foldl max (vs.headD 0))
  else (r.sum, r.n, r.vMin, r.vMax)

/-- The words W0 to W4 of supplement 0 and, for EIS, of supplement 1, with RFLAGS (R453, R454). -/
def State.stepWords (s : State) (c : Ch) (r : Run) : List (List Word) × Nat :=
  let op := r.desc.op.toNat
  if op = 8 then
    let (sum, n, lo, hi) := r.ocvSums
    ([[wI (if n = 0 then 0 else tdiv sum n), wI (hi - lo), wI r.slope, wN r.settleT, 0]], if r.finished then 0 else 1)
  else if op = 9 then
    let z : DcirWin := ⟨0, 0, 0, false⟩
    let ns := s.tickNs
    let w0 := r.w0.getD z
    let wf := r.wf.getD z
    let w1 := r.w1.getD z
    let fs := s.fsUa c (s.rd (CH_MCFG.CRANGE c))
    let a := dcirR fs ns w0 wf
    let b := dcirR fs ns w0 w1
    ([[wI a.1, wI b.1, wI w0.uV, wI w1.uV, wI (w1.uA ns)]],
      32 * b2n a.2 + 64 * b2n (w0.excl || wf.excl) + 128 * b2n b.2 + 256 * b2n (w0.excl || w1.excl))
  else if op = 10 then
    let e := r.eis
    let n : Int := eisLen r.desc e
    let m2 := e.iRe * e.iRe + e.iIm * e.iIm
    let full : Int := n * 2 ^ 60
    let re := satS 32 (rdiv (1000000 * (e.vRe * e.iRe + e.vIm * e.iIm)) m2)
    let im := satS 32 (rdiv (1000000 * (e.vIm * e.iRe - e.vRe * e.iIm)) m2)
    let mag (a b : Int) : Int := tdiv (isqrt (4 * (a * a + b * b)).toNat : Int) full
    let fq : Int := tdiv 1000000000000 ((e.pt * s.tickNs : Nat) : Int)
    let iMag := mag e.iRe e.iIm
    let low : Nat := if 64 * m2 < (r.desc.x1.toNat * full) ^ 2 then 8 else 0
    ([[wI re, wI im, wI fq, wI (mag e.vRe e.vIm), wI iMag],
      [wI (tdiv e.vSum n), wN e.wait, wN r.kLt, 0, 0]], e.flags + low)
  else if 1 ≤ op ∧ op ≤ 6 ∨ op = 11 ∨ op = 12 then
    ([[wN r.bal, wN r.kLt, wN (if op = 3 then r.ccT else if op = 6 then r.cycles else 0),
       wI (if op = 6 then r.rest else 0), 0]], 0)
  else ([[0, 0, 0, 0, 0]], 0)

/-- The records of a step that opened a ledger entry: its supplements, then the STEP record (R448, R450). -/
def State.stepRecs (s : State) (c : Ch) (r : Run) (reason action next detail : Nat) : List (List Word) :=
  let l := (s.chan c).ledger
  let (ws, rf) := s.stepWords c r
  let sup := ws.zipIdx.map (fun (w, n) =>
    if n = 0 then supRec 0 r.desc.op.toNat rf (satU 16 r.gap) l.lastEnd.toNat w
    else supRec n r.desc.op.toNat rf 0 0 w)
  let flags := l.lastFlags.toNat + 512 * b2n r.gapEntry + 1024 * ws.length
  stepRec c.val r.idx reason action next detail flags l.lastTicks.toNat l.lastQ l.lastE :: sup

/-! ### Gates, isolation, loop -/

/-- The loop opens: gates off (R225, R353, R349). What the laws held is not kept; a value that was committed stays in the
compare register (R29, R263). -/
def State.openLoop (s : State) (c : Ch) : State :=
  let s := s.updLoop c (fun l => { l with
    closed := false, ck := none, ckB := none, icmd := 0, oCmd := 0, out1 := none, out2 := none, sh1 := none, sh2 := none
    iGang := 0, iEff := 0, r := 0 })
  s.updSeq c (fun x => { x with
    rate := 0, vref := none, xset := none, vref0 := none, xset0 := none, short := none, wind := none })

/-- A trip or a gate-off request cuts the PWM period: the supervision is suspended in this tick and its count holds
(R241). -/
def LoopS.suspend (l : LoopS) : LoopS := { l with feSusp := true, feCnt := l.fe0 }

/-- Gates off in one channel; that cuts a PWM period that was running (R241). -/
def State.gatesOff1 (s : State) (c : Ch) : State :=
  let on := (s.chan c).stage.gates
  let s := (s.updStage c (fun x => { x with gates := false })).openLoop c
  if on then s.updLoop c LoopS.suspend else s

/-- Gates off in a channel and its gang (R194). -/
def State.gatesOff (s : State) (c : Ch) : State := s.forCh (s.gang c) State.gatesOff1

/-- A protective opening: gates off at once and `ISOn` sinking, in the channel and its gang (R153, R194, R195). -/
def State.protOpen (s : State) (c : Ch) : State :=
  s.forCh (s.gang c) (fun s d => (s.gatesOff1 d).updStage d (fun x => { x with
    iso := .opened, settle := false, pulse := if x.pulse = some .close then none else x.pulse }))

/-- The staged opening of R152 begins: gates off, `ISOn` opens one whole PWM period later. -/
def State.stagedOpen (s : State) (c : Ch) : State :=
  s.forCh (s.gang c) (fun s d => (s.gatesOff1 d).updStage d (fun x => { x with
    iso := if x.iso = .opened then .opened else .opening, settle := false
    pulse := if x.pulse = some .close then none else x.pulse }))

/-! ### Ending a step -/

/-- A channel enters HOLD with a cause: gates off, `ISOn` opens unless it has (R331, R332). -/
def State.enterHold (s : State) (c : Ch) (why : Nat) : State :=
  let s := s.stagedOpen c
  s.updSeq c (fun x => { x with
    st := .hold, why := why, run := none, armed := none, prearm := false, resume := false, gapT := 0, late := none })

/-- The ledger entry of the step has closed: its completion enters the buffer and its descriptor is retired
(R417, R458). -/
def State.postStep (s : State) (c : Ch) (r : Run) (reason action next detail : Nat) : State :=
  let s := s.complete (.chan c) 0 (s.stepRecs c r reason action next detail)
  s.retireTo (cq c) ((s.seq c).cur + 1)

/-- A step has failed and waits for the close of its entry. -/
def Run.failed (r : Run) : Bool := r.ending.any (fun e => e.at_ = .fail)

/-- What a running step counts of a tick for its supplement: ticks with k_T < 1, scaled ticks, CC ticks (R453). -/
def State.countRun (s : State) (c : Ch) (r : Run) : Run :=
  let kLow := decide (s.kT c < 256)
  { r with
    kWas := kLow, kLt := r.kLt + b2n kLow, bal := r.bal + b2n (decide (s.kBal c < 256))
    ccT := if r.desc.op = 3 ∧ r.phase ≠ 4 then r.ccT + 1 else r.ccT }

/-- The running step of a channel ends with a failure or INTERRUPTED (R406). The channel enters HOLD at once; the entry
closes and the completion follows at the boundary that ends the tick (R55, R306), which `State.closeFailed` makes. A
step whose gap entry is open but that has not begun has its entry withdrawn (R305). The first ending stands: a fault
that meets a step at its due boundary leaves the swap to happen and ends the step that follows (R57), which SAFE entry
and a BLOCK reset do not. -/
def State.failStep (s : State) (c : Ch) (reason detail : Nat) : State :=
  let why := if reason = rINT then 6 else 2
  match (s.seq c).run with
  | none => if (s.seq c).st = .gap then (s.ledger c Ledger.withdraw).enterHold c why else s
  | some r =>
    if r.failed then s
    else if r.ending.any (fun e => e.at_ = .due) ∧ reason ≠ rINT ∧ reason ≠ rSAFETY ∧ detail ≠ dSAFE then
      s.updSeq c (fun x => { x with late := x.late.orElse (fun _ => some (reason, detail)) })
    else
      let s := s.enterHold c why
      s.updSeq c (fun x => { x with run := some { s.countRun c r with ending := some ⟨reason, detail, .fail⟩, phase := 11 } })

/-- The running step of a channel ends with CONTACT_LOST in the tick in progress: the entry closes at the boundary that
began it, with the flag EXCL, and exclusion begins (R307). -/
def State.contactLost (s : State) (c : Ch) : State :=
  let s := s.updMet c (fun m => { m with excl := true, exclTick := true })
  match (s.seq c).run with
  | none => if (s.seq c).st = .gap then (s.ledger c Ledger.withdraw).enterHold c 2 else s
  | some r =>
    if r.failed then s
    else if r.ending.any (fun e => e.at_ = .due) then
      s.updSeq c (fun x => { x with late := x.late.orElse (fun _ => some (rCONTACT, 0)) })
    else
      let s := s.ledger c (fun l => (l.flag fEXCL).closes rCONTACT (s.now - 1))
      let s := s.postStep c r rCONTACT 0xFF 0xFFFF 0
      s.enterHold c 2

/-- A failure that met the step before at its due boundary ends the step that follows it (R57). -/
def State.lateFault (s : State) (c : Ch) : State :=
  match (s.seq c).late with
  | none => s
  | some (reason, detail) =>
    let s := s.updSeq c (fun x => { x with late := none })
    if reason = rCONTACT then s.contactLost c else s.failStep c reason detail

/-- A gang ends: its leader and its members stand alone again. -/
def State.dissolve (s : State) (c : Ch) : State :=
  if (s.seq c).lead.isSome then s
  else s.forCh (s.members c) (fun s m => s.updSeq m (fun x => { x with size := 1, lead := none }))

/-- At the boundary that ends a tick: the entry of a step that failed in it closes and its completion enters the
buffer, and a gang that a BLOCK reset ended dissolves (R308). `t` is the tick that ends. -/
def State.closeFailed (s : State) (c : Ch) (t : Nat) : State :=
  let s := if (s.seq c).st = .hold ∧ (s.seq c).why = 6 then s.dissolve c else s
  match (s.seq c).run with
  | none => s
  | some r =>
    match r.ending with
    | some e =>
      if e.at_ = .fail then
        let s := s.ledger c (fun l => l.closes e.reason t)
        let s := s.postStep c r e.reason 0xFF 0xFFFF e.detail
        s.updSeq c (fun x => { x with run := none })
      else s
    | none => s

/-! ### The press ends a command (R597 to R600) -/

/-- The motor gates go off: safe torque off or coast. -/
def State.motGatesOff (s : State) : State :=
  (({ s with mot := { s.mot with gatesOff := true, duty := 0, iInt := 0, sInt := 0, fInt := 0, iCmd := 0
                                 start := .none } }).wr MOT_STAT.ASHORT 0)

/-- A bridge fault is active (R606). -/
def State.bridgeFault (s : State) : Bool := [20, 21, 22, 23].any (fun n => s.active n)

/-- The motor gates may switch: MEN high, `VDRV` present, no bridge fault, and the short-circuit comparator not in its
initial tripped state (R123, R606, R630, R691). -/
def State.motMayGate (s : State) : Bool := s.menOn && s.vdrvOk && !s.bridgeFault && !(s.cmpAt 67).init

/-- No torque: gates off, or an active short while the rotor turns above `N_FW` and the gates may switch (R599, R606,
R630). -/
def State.motNoTorque (s : State) : State :=
  let s := s.motGatesOff
  if decide ((s.rd MOT_FW.N_FW : Int) < (s.rdS MOT_SPEED.N).natAbs) && s.motMayGate then
    s.wr MOT_STAT.ASHORT 1
  else s

/-- The running motion command completes (R455); its descriptor is retired. -/
def State.motComplete (s : State) (reason detail : Nat) : State :=
  match s.mot.cmd with
  | none => s
  | some m =>
    let s := s.complete .mot 0 [motionRec m.idx reason m.desc.op.toNat detail m.desc.tag.toNat m.ticks
      s.mot.ext (s.rdS MOT_FORCE.F) m.peak]
    let s := { s with mot := { s.mot with cmd := none } }
    s.updQ mq (fun x => { x with done := (x.done + 1) % 65536 })

/-- The running command ends with a failure and MOT enters HALTED (R599); without a command, holding ends the same way
and nothing is posted (R612). -/
def State.motFail (s : State) (reason detail : Nat) : State :=
  let s := s.motComplete reason detail
  let s := { s with mot := { s.mot with hold := .none, start := .none } }
  (s.wr MOT_STAT.STATE 5).motNoTorque

/-- Torque off on entry to STANDBY, PARK or SAFE (R600): a command that runs completes with FAULT and SAFE_ENTRY and MOT
enters HALTED; without one MOT is OFF unless halted. -/
def State.motTorqueOff (s : State) : State :=
  if s.mot.cmd.isSome then
    let s := s.motComplete rFAULT dSAFE
    (s.wr MOT_STAT.STATE 5).motGatesOff
  else
    let s := { s with mot := { s.mot with hold := .none } }
    (if s.rd MOT_STAT.STATE = 5 then s else s.wr MOT_STAT.STATE 0).motGatesOff

/-- The learned offsets become invalid (R568). -/
def State.motOffsetsOff (s : State) : State := { s with mot := { s.mot with ofsP := [], ofsN := [] } }

/-! ### The fatal dump: the snapshot (R693 to R695, R701) -/

/-- The FAULT section body (R701), 128 words. -/
def State.dumpFault (s : State) : List Word :=
  let srcs := s.flt.srcs.toList
  let cnts := srcs.map (fun x => satU 16 x.cnt)
  let pairs := (List.range 64).map (fun i => w2 (cnts.getD (2 * i) 0) (cnts.getD (2 * i + 1) 0))
  (List.range 8).map (fun i => s.regWord (0x3000 + 4 * i)) ++ pairs ++
    [s.regWord 0x3034, s.regWord 0x3038, s.regWord 0x303c, s.regWord 0x3044] ++
    [s.regWord 0xA220, s.regWord 0xA224, s.regWord 0xA228] ++
    allCh.map (fun c => s.regWord (0x802c + 0x100 * c.val)) ++ [s.regWord 0x60a8] ++ List.replicate 32 0

/-- Register images from an offset on. -/
def State.image (s : State) (off n : Nat) : List Word := (List.range n).map (fun i => s.regWord (off + 4 * i))

/-- The REGS section body (R701), 2,048 words. -/
def State.dumpRegs (s : State) : List Word :=
  allCh.flatMap (fun c => s.image (0x8000 + 0x100 * c.val) 64) ++
    allQuads.flatMap (fun q => s.image (0x9000 + 0x400 * q.val) 16) ++
    s.image 0x6000 64 ++ s.image 0x2000 32 ++ s.image 0x4000 32 ++ s.image 0 64 ++ s.image 0x5000 64 ++
    s.image 0x1000 128 ++ List.replicate 576 0

/-- The CPU section body (R701): seven words for SEQ, MOT and SAF, which are free values. -/
def State.dumpCpu (s : State) : List Word :=
  (List.range 21).map (fun i => wN (Config.cpuWord s.free i)) ++ List.replicate 43 0

/-- A dump is triggered (R693): the snapshot is taken and capture stops, or `MISSED` counts. Trigger codes as `TRIGGER`
of the Burgee (R702). -/
def State.dumpTrigger (s : State) (trigger first : Nat) : State :=
  if s.rb FLT_DUMPSTAT.REQ || s.flt.copying then s.incSat FLT_DUMPSTAT.MISSED
  else
    let snap : Snap := ⟨trigger, first, s.now, s.sys.mode.code, s.rd RING_STAT.POS, s.dumpFault, s.dumpRegs, s.dumpCpu⟩
    let s := s.traceAll 8
    let s := { s with flt := { s.flt with snap := some snap, copying := true }, free := s.free + 1 }
    allQuads.foldl (fun s q => s.traceStop q) s

/-! ### The safe-state request (R81, R87, R619) -/

/-- Every halted core resumes and every loop engine leaves its single step (R735, R765). -/
def State.resumeCores (s : State) : State :=
  let s := ((s.wr DBG_CTL.HALT_SEQ 0).wr DBG_CTL.HALT_MOT 0).wr DBG_CTL.HALT_SAF 0
  ((s.wr DBG_CTL.LE_STEP 0).wr DBG_STAT.HALTED 0).wr DBG_STAT.STEPPING 0

/-- Code of a cause in `SAF_CAUSE.FIRST` (R668). -/
def causeCode : SafeCause → Nat
  | .sf n => n.val + 1
  | .safFault => 0x10
  | .faultReaction => 0x11
  | .otherBit _ => 0x12
  | .clkLost => 0x13
  | .ringWdog _ => 0x14
  | .pduCheck => 0x15
  | .safMaster => 0x16
  | .svcLimit => 0x17

/-- Record a cause in the SAFE latch record (R87, R88); a toggle made before is void (R92). -/
def State.latchCause (s : State) (c : SafeCause) : State :=
  let s :=
    if s.rb SAF_STAT.LATCH then s
    else
      let s := (s.wb SAF_STAT.LATCH true).wr SAF_CAUSE.FIRST (causeCode c)
      match c with
      | .otherBit p => s.wr SAF_CAUSE.POS p.val
      | _ => s.wr SAF_CAUSE.POS 0
  let s := { s with saf := { s.saf with toggled := false } }
  match c with
  | .sf n =>
    let s := { s with saf := { s.saf with okSince := s.saf.okSince.set n.val none } }
    s.setFBit SAF_CAUSEV.SF n.val
  | .safFault => s.setFBit SAF_CAUSEV.OTHER 0
  | .faultReaction => s.setFBit SAF_CAUSEV.OTHER 1
  | .otherBit _ => s.setFBit SAF_CAUSEV.OTHER 2
  | .clkLost => s.setFBit SAF_CAUSEV.OTHER 3
  | .ringWdog .a => s.setFBit SAF_CAUSEV.OTHER 4
  | .ringWdog .b => s.setFBit SAF_CAUSEV.OTHER 5
  | .pduCheck => s.setFBit SAF_CAUSEV.OTHER 6
  | .safMaster => s.setFBit SAF_CAUSEV.OTHER 7
  | .svcLimit => s.setFBit SAF_CAUSEV.OTHER 8

/-- Drive `KDRA` and `KDRB` low (R78): the feedback is supervised from the edge (R628). -/
def State.kdrLow (s : State) : State :=
  if s.saf.kdr then
    ({ s with saf := { s.saf with kdr := false, kEdge := s.clk, kChecked := false, kDropAt := none } }).wr
      SAF_KSTAT.STATE 3
  else { s with saf := { s.saf with kDropAt := none } }

/-- The head withdraws an announced change: the fields written with it are as they are in force (R37, R753). -/
def State.withdraw (s : State) : State :=
  (({ s with sys := { s.sys with perNew := none } }.wr SYS_TICK.PERIOD s.per).wr SYS_TICK.PPT s.sys.ppt).wr SYS_TICK.TLM_DIV s.sys.tlm

/-- The mode changes: the event MODE_CHANGE (R460). A head that leaves STANDBY withdraws an announced change of period
(R37). -/
def State.setMode (s : State) (m : Mode) : State :=
  let prev := s.sys.mode.code
  let s := if s.isHead ∧ m ≠ .standby ∧ s.sys.perNew.isSome then s.withdraw else s
  let s := { s with sys := { s.sys with mode := m, trans := none } }
  let s := if m = .safe then s.errPull else s
  s.event 21 3 (m.code + 256 * prev)

/-- A pending mode command is abandoned with a status, CLEAR_SAFE with `SAFE_ACTIVE` (R85, R86). -/
def State.abandon (s : State) (status : Nat) : State :=
  match s.host.adm, s.sys.trans with
  | some a, some t =>
    if 9 ≤ a.op ∧ a.op ≤ 14 then
      ({ s with sys := { s.sys with trans := none } }).admDone a.op a.hdr
        (if s.sys.mode = Mode.safe ∧ t = Mode.standby then 6 else status) 0
    else s
  | _, _ => s

/-- The steps of the channels end on SAFE entry: FAULT with SAFE_ENTRY, SAFETY_LIMIT in a channel whose SF6 limit caused
it (R395, R407); every stage opens (R154) and every measurement closure ends (R150). -/
def State.safeChannels (s : State) : State :=
  s.forCh allCh (fun s c =>
    let s := if s.activeIn 15 c then s.failStep c rSAFETY 0 else s.failStep c rFAULT dSAFE
    (s.protOpen c).wr (CH_ISO.MEAS_CLOSE c) 0)

/-- A safe-state request (R81): the enable lines go low at once (R619) and the cause is latched (R87). In STANDBY, RUN
and SERVICE the device goes to SAFE (R80): everything acts at once, and the mode code follows at the next tick boundary
(R746); in BOOT the BOOT that runs ends in SAFE (R84); after step 3 of R97 and in PARK the latch waits for the BOOT of
the exit (R99). `atOnce`: the contactors do not wait for `SF1_TKDLY` (R623). -/
def State.safeReq (s : State) (c : SafeCause) (atOnce : Bool) : State :=
  let s := s.latchCause c
  let s := { s with saf := { s.saf with cen := false, ien := false, men := false, ss1 := none, menAt := none } }
  if s.sys.parkDone then s
  else
    match s.sys.mode with
    | .standby | .run | .service =>
      if s.sys.trans = some .safe then (if atOnce then s.kdrLow else s) else
      let s := s.abandon 4
      let s := s.safeChannels
      let s := s.motTorqueOff
      let s := s.traceAll 7
      let s := { s.errPull with sys := { s.sys with trans := some .safe } }
      let s := if s.rb FLT_DUMPCTL.TRG_SAFE then s.dumpTrigger 4 0xFF else s
      if atOnce then s.kdrLow
      else if s.saf.kdr then
        { s with saf := { s.saf with kDropAt := some (s.clk + msTicks s.per (s.pset 3)) } }
      else s
    | _ =>
      let s := s.abandon 4
      if atOnce then s.kdrLow else s

/-! ### Resets (R107 to R119) -/

/-- A register field is at its reset value after a reset of a kind (R20, R22). -/
def survives (k : RstKind) (v : Surv) : Bool :=
  match v with
  | .none | .b => false
  | .w => k = .warm
  | .c => k = .warm || k = .chip
  | .n => !(k = .por)
  | .o => true

/-- Strength of a reset kind (R18). -/
def RstKind.rank : RstKind → Nat
  | .warm => 0 | .chip => 1 | .pin => 2 | .por => 3

/-- What a full reset leaves of a channel: the ledger as its newer copy holds it, the OTP-backed rest at reset
(R309, R334). -/
def Chan.afterReset (k : RstKind) (x : Chan) : Chan :=
  if k = .por then Chan.reset
  else { Chan.reset with ledger := x.loadLedger.ledger, copyA := x.copyA, copyB := x.copyB, crcA := x.crcA, crcB := x.crcB }

/-- A POR, PIN, CHIP or WARM reset is carried out (R111, R117): ledgers close, capture ends, outputs go as in BOOT,
every class of state keeps or loses its content, and the internal reset is held. A stronger reset in progress stands
(R19), and so does a CHIP reset that waits for its snapshot; DESIGN CHOICE (log entry 141): one of the same strength is
carried out again, and `CAUSE` takes its code. `cut`: a brown-out of `VAA`, `VDDA` or `VDD` (R308). DESIGN
CHOICE (log entry 108): a counting `DRV_EN` toggle made before the reset is void. -/
def State.fullReset (s : State) (k : RstKind) (cause wake : Nat) (cut : Bool) : State :=
  let old := match s.sys.held with | some h => h.rank | none => 0
  if (s.sys.held.isSome ∧ k.rank < old) ∨ (k = .warm ∧ s.flt.chipDue.isSome) then s
  else
    let s := (allQuads.foldl (fun s q => s.traceStop q) s).commitIf (fun f => survives k f.surv)
    let running := s.sys.held.isNone && decide (s.sys.mode ≠ .park)
    let s := if running ∧ k ≠ .por then s.partialTick cut else s
    let boots := s.rd SYS_RSTCAUSE.BOOTS
    let s1 : State := { State.reset with
      pending := s.pending
      out := s.out
      free := s.free
      pins := s.pins
      regs := s.regs.filter (fun e => survives k e.1.surv)
      sec := { s.sec with img := if k = .warm then s.sec.img else none, staged := none, attest := none }
      flt := { (if k = .warm then { FltS.reset with srcs := s.flt.srcs } else FltS.reset) with
        snap := if k = .por then none else s.flt.snap, acked := k = .por || s.flt.acked, tooSmall := k ≠ .por && s.flt.tooSmall }
      met := { MetS.reset with
        cal := if k = .warm then s.met.cal else []
        -- a calibration in progress is discarded (R324)
        newCal := if k = .warm then s.met.newCal.filter (fun x => !s.inCal x.conv) else []
        otpLoaded := s.met.otpLoaded && decide (k = .warm)
        sarGain := if k = .warm then s.met.sarGain else MetS.reset.sarGain
        sarOfs := if k = .warm then s.met.sarOfs else MetS.reset.sarOfs
        goodRef := if k = .warm then s.met.goodRef else 0
        frozen := if k = .warm then s.met.frozen else false }
      mot := if k = .warm then
          { MotS.reset with
            ofsP := s.mot.ofsP, ofsN := s.mot.ofsN, ext := s.mot.ext, rawPrev := s.mot.rawPrev
            hadFrame := s.mot.hadFrame, latch := s.mot.latch }
        else MotS.reset
      ch := bmap (Chan.afterReset k) s.ch
      qd := bmap (fun q => { QuadS.reset with
        slots := if k = .warm then q.slots else QuadS.reset.slots
        trace := if k = .warm ∨ k = .chip then q.trace else [] }) s.qd
      saf := { SafS.reset with
        pset := if k = .warm then s.saf.pset else SafS.reset.pset
        psetNew := if k = .warm then s.saf.psetNew else SafS.reset.psetNew
        estSeenA := if k = .por then false else s.saf.estSeenA
        estSeenB := if k = .por then false else s.saf.estSeenB
        estA := s.saf.estA, estB := s.saf.estB, kfbA := s.saf.kfbA, kfbB := s.saf.kfbB
        tray := s.saf.tray, drvEn := s.saf.drvEn
        sf6Q := if k = .por then SafS.reset.sf6Q else s.saf.sf6Q
        sf6T := if k = .por then SafS.reset.sf6T else s.saf.sf6T }
      sys := { SysS.reset with
        held := some k
        tick := if k = .warm ∨ k = .chip then s.sys.tick else 0, clk := s.sys.clk, cyc := s.sys.cyc } }
    -- SF6 locks are held with the SF6 counters (R638, R639)
    let s1 := if k = .por then s1 else s1.updSrc 15 (fun x => { x with act := (s.src 15).act, cond := (s.src 15).cond })
    -- each working converter is the source of its channel again (R283, R324)
    let s1 := if k = .warm then (List.range 32).foldl State.takeCal s1 else s1
    let s1 := s1.wr SYS_RSTCAUSE.CAUSE cause
    let s1 := s1.wr SYS_RSTCAUSE.WAKE wake
    let s1 := s1.wr SYS_RSTCAUSE.BOOTS (if k = .por then 0 else boots)
    -- R704: a dump that was being written starts again
    let s1 := if s1.rd FLT_DUMPSTAT.STATE = 2 then s1.wr FLT_DUMPSTAT.STATE 1 else s1
    -- R703: a PIN reset that finds a snapshot raises a new request, without the trace
    if (k = .pin) ∧ s1.rb FLT_DUMPSTAT.SNAP_VALID then
      ((s1.wb FLT_DUMPSTAT.REQ true).wb FLT_DUMPSTAT.TRACE_LOST true).wr FLT_DUMPSTAT.STATE 1
    else s1

/-- A reset abandons a mode transition under way (R86), with MODE_REFUSED, but for one to SAFE (R85). After step 3 of R97
ENTER_PARK has completed: its transition ends there, and a safe-state request made since leads to SAFE (R99). -/
def State.blockAbandon (s : State) : State :=
  if s.sys.trans = some .safe then s
  else if s.sys.parkDone then
    let then_ : Option Mode := if s.rb SAF_STAT.LATCH ∧ s.sys.mode ≠ .safe then some .safe else none
    { s with sys := { s.sys with trans := then_, parkDone := false, wake := none } }
  else s.abandon 4

/-- A CHIP reset is requested (R107); it waits for a snapshot in progress (R694), its outputs and the end of a transition
(R86) do not (R111). -/
def State.chipReset (s : State) (cause : Nat) : State :=
  if s.flt.copying then
    let s := s.blockAbandon
    let s := s.forCh allCh (fun s c => s.protOpen c)
    let s := s.motGatesOff
    let s := { s with saf := { s.saf with kdr := false, cen := false, ien := false, men := false } }
    { s with flt := { s.flt with chipDue := some (s.flt.chipDue.getD cause) } }
  else s.fullReset .chip cause 0 false

/-- The event of a BLOCK reset (R110, R460). -/
def State.blockEvent (s : State) (sel src : Nat) (byFault : Bool) : State :=
  s.event 21 4 (sel + (if byFault then 16 + 256 * src else 0))

/-- A BLOCK reset of a quad is requested: capture ends (R261), the steps of its channels end with INTERRUPTED, their
stages open (R113, R195), the prefetched descriptors go and fetching goes on from the entry after the step that ended
(R119), the profiles empty, and what the registers of its channels show is at reset (R20). -/
def State.resetQuad (s : State) (q : Quad) (src : Nat) (byFault : Bool) : State :=
  let s := s.blockAbandon.blockEvent q.val src byFault
  let s := s.traceStop q
  let s := s.forCh (quadChs q) (fun s c =>
    let s := s.failStep c rINT 0
    let s := s.protOpen c
    let x := s.seq c
    let s := s.updCh c (fun y => { y with
      stage := { Stage.reset with iso := .opened }, loop := LoopS.reset, met := { y.met with snap := [] }
      seq := { ChanS.reset with run := x.run, cur := x.cur, lead := x.lead, size := x.size } })
    let s := { s with host := { s.host with reads := s.host.reads.filter (fun r => decide (r.q ≠ cq c)) } }
    s.updQ (cq c) (fun y => { y with pre := [], fetched := (x.cur + 1) % 65536 }))
  let s := { s with regs := s.regs.filter (fun (e : Fld × Nat) => !(decide (e.1.surv = Surv.none) &&
    (decide (e.1.off / 0x400 = 0x24 + q.val) ||
      decide (0x8000 + 0x400 * q.val ≤ e.1.off ∧ e.1.off < 0x8400 + 0x400 * q.val)))) }
  let load := (bget s.qd q).pcmd
  let s := s.updQd q (fun x => { x with slots := Vector.replicate 8 none, pcmd := none, resetting := true })
  -- DESIGN CHOICE (log entry 158): a load that was not decided completes as refused, so that AQ goes on
  match load with
  | some (.load _ _ _ (some a)) => if s.host.adm = some ⟨5, a, 0⟩ then s.admDone 5 a 0x0A 2 else s
  | _ => s

/-- A BLOCK reset of MOT is requested: gates off, the command ends with INTERRUPTED, the press coasts, the encoder state
and the offsets are kept (R114, R612); an SS1 stop in progress ends with MEN low (R665). -/
def State.resetMot (s : State) (src : Nat) (byFault : Bool) : State :=
  let s := s.blockAbandon.blockEvent 4 src byFault
  let s := s.motComplete rINT 0
  let m := s.mot
  let s := { s with mot := { MotS.reset with
    ofsP := m.ofsP, ofsN := m.ofsN, ext := m.ext, rawPrev := m.rawPrev, hadFrame := m.hadFrame, frameK := m.frameK, latch := m.latch
    badRun := m.badRun, frames := m.frames, frameN := m.frameN, still := m.still, cand := m.cand, run := m.run
    anchor := m.anchor, hsOff := m.hsOff, brkm := m.brkm, resetting := true } }
  let s := { s with regs := s.regs.filter (fun (e : Fld × Nat) => !(decide (e.1.surv = Surv.none) && decide (e.1.off / 0x1000 = 6))) }
  let s := s.wr MOT_STAT.STATE 5
  if s.saf.ss1.isSome then { s with saf := { s.saf with men := false, ss1 := none, menAt := some s.clk } } else s

/-- A BLOCK reset of the ring engine is requested: both MACs reset, the bypasses close, the position stays (R115,
R480). -/
def State.resetRing (s : State) (src : Nat) (byFault : Bool) : State :=
  let s := s.blockAbandon.blockEvent 5 src byFault
  let r := s.ring
  let s := { s with ring := { RingS.reset with tgt := r.tgt, regs := r.regs, resetting := true } }
  let s := if s.isHead then s else { s with host := { s.host with reads := [], flight := none } }
  { s with regs := s.regs.filter (fun (e : Fld × Nat) => !(decide (e.1.surv = Surv.none) && decide (e.1.off / 0x1000 = 2))) }

/-! ### The collector -/

/-- A source whose act is kept per channel (R677). -/
def isChanSrc (n : Src) : Bool := n.val ≤ 12 || n.val = 14 || n.val = 15

/-- The `SRC` of the events of a source (R677). -/
def evSrc (n : Src) (c : Ch) : Nat :=
  if isChanSrc n then c.val
  else if n.val = 16 then 4 * (c.val / 4)
  else if (20 ≤ n.val ∧ n.val ≤ 31) ∨ n.val = 46 then 16
  else if n.val = 42 ∨ n.val = 56 ∨ n.val = 57 then 18
  else if 48 ≤ n.val ∧ n.val ≤ 50 then 19
  else if srcOwner n.val = 1 then 17
  else 21

/-- The bit that stands for the place of a raise: the channel, the quad of source 16, or bit 0. -/
def actBit (n : Src) (c : Ch) : BitVec 16 :=
  if isChanSrc n then chBit c else if n.val = 16 then BitVec.ofNat 16 (2 ^ (c.val / 4)) else 1

/-- The cause that a SAFE reaction of a source records (R626, R668). -/
def srcCause (n : Src) : SafeCause :=
  if h : 64 ≤ n.val ∧ n.val ≤ 70 then .sf ⟨n.val - 64, by omega⟩
  else if n.val = 14 then .sf 3
  else if n.val = 15 then .sf 5
  else if n.val = 41 then .clkLost
  else if n.val = 58 then .ringWdog .a
  else if n.val = 59 ∨ n.val = 60 then .pduCheck
  else if 71 ≤ n.val ∧ n.val ≤ 78 then .safFault
  else if n.val = 79 then .safMaster
  else if n.val = 80 then .svcLimit
  else .faultReaction

/-- The BLOCK reset that B of a source requests (R679): 0 quad, 1 MOT, 2 ring. -/
def srcBlock (n : Src) : Nat :=
  if n.val ≤ 16 then 0 else if n.val = 42 ∨ n.val = 56 ∨ n.val = 57 then 2 else 1

/-- The trace triggers of a raise (R260): `LE_CHECK`, `LE_OVERRUN`, and any channel fault, `BUS_SC` in every quad
(R206). -/
def State.faultTrig (s : State) (n : Src) (c : Ch) : State :=
  if n.val = 13 then s.traceAll 6
  else if isChanSrc n then
    let s := s.traceTrig (quadOf c) 6
    if n.val = 10 then s.traceTrig (quadOf c) 3 else if n.val = 11 then s.traceTrig (quadOf c) 4 else s
  else s

/-- A source is raised (R673 to R678, R693): marked active, recorded, counted, reported, and its reaction acted on; its
condition holds from now on. A source already active in that place is not raised again; where its condition had gone, a
SAFE reaction asks again (R88, R92). `cause` overrides the cause of
a SAFE reaction. -/
def State.raiseAs (s : State) (n : Src) (c : Ch) (cause : SafeCause) : State :=
  let bit := actBit n c
  let x := s.src n
  let atOnce := decide (n.val = 64 ∨ n.val = 71 ∨ n.val = 72)
  let s := s.updSrc n (fun x => { x with cond := x.cond ||| bit })
  if !srcListed n.val then s
  else if x.act &&& bit ≠ 0 then
    (if bitN x.react 5 && decide (x.cond &&& bit = 0) then s.safeReq cause atOnce else s)
  else
    let s := s.updSrc n (fun x => { x with act := x.act ||| bit, recd := true, cnt := satU 16 (x.cnt + 1) })
    let s := s.event (evSrc n c) 1 n.val
    let re := x.react
    let s := if bitN re 0 then (s.irq 4).emit (.seqIrq n.val) else s
    let s := if bitN re 1 ∧ srcOwner n.val < 3 then s.emit (.nmi (srcOwner n.val) n.val) else s
    let s :=
      if bitN re 2 || bitN re 3 || bitN re 4 || bitN re 5 then
        let s := (s.wr FLT_LREC0.SRC n.val).wr FLT_LREC0.CHAN (if isChanSrc n ∨ n.val = 16 then c.val else 0)
        let s := (s.wr FLT_LREC0.MODE s.sys.mode.code).wr FLT_LREC0.REACT re
        ((s.wr FLT_LREC0.VALID 1).wr FLT_LREC1.TICK_LO s.now).wr FLT_LREC2.TICK_HI (s.now / 2 ^ 32)
      else s
    let s :=
      if bitN re 4 then
        let s := s.errPull
        if s.rb FLT_FIRST.VALID then s else (s.wr FLT_FIRST.SRC n.val).wr FLT_FIRST.VALID 1
      else s
    let s := s.faultTrig n c
    let dump := (bitN re 3 && s.rb FLT_DUMPCTL.TRG_CHIP) || (decide (71 ≤ n.val ∧ n.val ≤ 80) && s.rb FLT_DUMPCTL.TRG_SAF)
    let s := if dump then s.dumpTrigger (if bitN re 3 && s.rb FLT_DUMPCTL.TRG_CHIP then 2 else 3) n.val else s
    let s := if bitN re 5 then s.safeReq cause atOnce else s
    if bitN re 3 then s.chipReset 5
    else if bitN re 2 then
      match srcBlock n with
      | 0 => s.resetQuad (quadOf c) n.val true
      | 1 => s.resetMot n.val true
      | _ => s.resetRing n.val true
    else s

/-- A source is raised in a channel. -/
def State.raise (s : State) (n : Src) (c : Ch) : State := s.raiseAs n c (srcCause n)

/-- A device source is raised. -/
def State.raiseDev (s : State) (n : Src) : State := s.raise n 0

/-- The condition of a source is gone in its place. -/
def State.condGone (s : State) (n : Src) (c : Ch) : State :=
  s.updSrc n (fun x => { x with cond := x.cond &&& ~~~ (actBit n c) })

/-- A source clears in its place (R677, R681): the event FAULT_CLEARED. -/
def State.clear (s : State) (n : Src) (c : Ch) : State :=
  let bit := actBit n c
  if (s.src n).act &&& bit = 0 then s
  else
    let s := s.updSrc n (fun x => { x with act := x.act &&& ~~~ bit, cond := x.cond &&& ~~~ bit })
    s.event (evSrc n c) 2 n.val

/-- A source clears in its place if its condition is gone there. -/
def State.clearIfGone (s : State) (n : Src) (c : Ch) : State :=
  if (s.src n).cond &&& actBit n c = 0 then s.clear n c else s

/-- The `CH_PFLT` bit of a channel source (R206). -/
def pfltFld (c : Ch) (n : Nat) : Option Fld :=
  match n with
  | 0 => some (CH_PFLT.BST_UV c) | 1 => some (CH_PFLT.SC_PERSIST c) | 2 => some (CH_PFLT.SC_HARD c)
  | 3 => some (CH_PFLT.OL_FAULT c) | 4 => some (CH_PFLT.UV_TRIP c) | 5 => some (CH_PFLT.REVERSE c)
  | 6 => some (CH_PFLT.KEL_OPEN c) | 7 => some (CH_PFLT.NTC_OPEN c) | 8 => some (CH_PFLT.NTC_SHORT c)
  | 9 => some (CH_PFLT.SHOOT_FAULT c) | 13 => some (CH_PFLT.BUS_SC c) | 14 => some (CH_PFLT.OV_TRIP c)
  | _ => none

/-- A channel fault with its latched record (R206). -/
def State.chRaise (s : State) (n : Src) (c : Ch) : State :=
  let s := match pfltFld c n.val with | some f => s.wr f 1 | none => s
  s.raise n c

end Sys2Proof.Machine
end

