-- ==== Sys2Proof/Machine/Stage.lean ====
section
/-!
DEFINITION. The cell channel power stage (03_channel_power_stage.md): the meanings of its events, the comparators that
act on it, and the effects of the register writes that belong to it.
-/

namespace Sys2Proof.Machine

/-! ### Shared operations -/

/-- A comparator of a channel: 0 `CMP_SC`, 1 `CMP_OL`, 2 `CMP_OV`, 3 `CMP_UV` (R687). -/
def chCmp (c : Ch) (k : Fin 4) : CmpId := ⟨4 * c.val + k.val, by omega⟩

/-- A fault of a channel ends the step of its gang with FAULT and the detail naming the source, turns the gang's gates
off, opens `ISOn` at once where the fault says so, and is raised (R153, R194, R406). One that meets the ramp to zero of a
channel in HOLD ends it, and `ISOn` opens as that entry has it (R152, R332). -/
def State.faultStop (s : State) (n : Src) (c : Ch) (opens : Bool) : State :=
  let l := s.leader c
  let winds := (s.seq l).wind.isSome
  let s := s.failStep l rFAULT (dSrc n)
  let s := if opens then s.protOpen l else if winds then s.stagedOpen l else s.gatesOff l
  s.chRaise n c

/-- A Kelvin confirmation pulse starts (R177); the voltage of the tick is flagged. One that confirms an over-voltage
trip stays the one that R173 judges. -/
def State.startPulse (s : State) (c : Ch) (why : KelWhy) : State :=
  (s.updStage c (fun x => { x with pulse := if x.pulse = some .ov then x.pulse else some why })).updMet c (fun m => { m with pulsed := true })

/-- The Kelvin window −0.6 V to 5.2 V (R177), in µV. -/
def kelInside (diff : Int) : Bool := -600000 ≤ diff && diff ≤ 5200000

/-- The fault that blocks a closure under R147, as the detail of R148: the lowest active channel fault, then `VDRV_UV`,
then none. -/
def State.closeBlock (s : State) (c : Ch) : Nat :=
  let fs : List Src := [15, 0, 1, 2, 3, 4, 5, 6, 7, 8, 9, 10, 11, 14]
  match fs.find? (fun n => (s.gang c).any (fun d => s.activeIn n d)) with
  | some n => dSrc n
  | none => if s.active 13 then dSrc 13 else if !s.vdrvOk then dSrc 38 else 0

/-- The checks of R147 apart from the pulse, with the enable line of R618 and the comparators still in their initial
tripped state (R691): `v` is the cell voltage in µV. DESIGN CHOICE (log entry 110): which reading of the cell voltage
the checks use is open; it is the Kelvin difference at the end of the confirmation pulse. -/
def State.mayClose (s : State) (c : Ch) (v : Int) : Bool :=
  (s.gang c).all (fun d => !(s.chan d).stage.gates) && !s.faultFlag c && s.vdrvOk && s.ienOn &&
    decide (-200000 ≤ v) && decide (v < (s.rd (CH_VLIM.OV_TH c) : Int) * 1000) && !(s.cmpAt (chCmp c 2)).init

/-- A closure of `ISOn` is requested for a channel and its gang (R147, R195): the confirmation pulse starts, once no
other pulse runs (R173, R177), on the leader's Kelvin bias (R192). DESIGN CHOICE (log entry 156): the switches of a gang
that formed with only some of them closed open first, since all of them close in one cycle. -/
def State.requestClose (s : State) (c : Ch) : State :=
  let l := s.leader c
  let iso (d : Ch) : Iso := (s.chan d).stage.iso
  let ms := s.gang l
  if ms.all (fun d => iso d = .opened) then
    if (s.chan l).stage.pulse.isNone then
      (s.forCh ms (fun s d => s.updStage d (fun x => { x with iso := .closing }))).startPulse l .close
    else s
  else if ms.any (fun d => iso d = .closed) && ms.any (fun d => iso d ≠ .closed) then s.stagedOpen l
  else s

/-- `ISOn` of a channel and its gang closes: both codes take `GD_INIT` (R139), the hold-off of R151 begins. -/
def State.isoClose (s : State) (c : Ch) : State :=
  s.forCh (s.gang c) (fun s d =>
    let s := s.updStage d (fun x => { x with iso := .closed, settle := true })
    let g := s.rd (CH_GD.GD_INIT d)
    (s.wr (CH_GDST.CODE_H d) g).wr (CH_GDST.CODE_L d) g)

/-- Every measurement closure ends when the device leaves STANDBY for RUN or SERVICE (R150): every `ISOn`, those that a
gang closed together and those still opening among them (R195), is open. -/
def State.endMeasClosures (s : State) : State :=
  s.forCh allCh (fun s c => (s.wr (CH_ISO.MEAS_CLOSE c) 0).updStage c (fun x => { x with
    iso := .opened, settle := false, pulse := if x.pulse = some .close then none else x.pulse }))

/-- A measurement closure that could not begin when it was asked for is asked for again. DESIGN CHOICE (log entry 143): the
spec does not say whether a standing `MEAS_CLOSE` = 1 is a request again (R149); it is one at the end of any pulse but
that of an overvoltage, and at the end of a staged opening. In a gang the bit of any member asks for it. -/
def State.measAgain (s : State) (c : Ch) : State :=
  if s.sys.mode = .standby ∧ (s.gang c).any (fun d => s.rb (CH_ISO.MEAS_CLOSE d)) then s.requestClose c else s

/-- The time of an event in SYSCLK cycles: `t` cycles after the boundary that began the tick. -/
def State.cycleAt (s : State) (t : Half) : Nat := s.sys.cyc + t.toNat

/-- A channel of another gang tripped less than a tick from a trip of `c` at a time in SYSCLK cycles (R162). -/
def State.busSc (s : State) (c : Ch) (t : Nat) : Bool :=
  allCh.any (fun d =>
    decide (s.leader d ≠ s.leader c) &&
      (match (s.chan d).stage.tripAt with
       | some u => decide (t < u + s.per ∧ u < t + s.per)
       | none => false))

/-- `BUS_SC` (R163): every gate off, every `ISOn` opens, SAFE is requested. -/
def State.raiseBusSc (s : State) : State :=
  let s := s.forCh allCh (fun s c => (s.protOpen c).wr (CH_PFLT.BUS_SC c) 1)
  s.raiseDev 13

/-- A Chamois trip, `t` cycles into the tick, of a channel whose PWM runs, once per period (R158 to R163): both gates
off for the rest of the period; `SC_PERSIST` in consecutive periods; `BUS_SC` with a trip of another channel. -/
def State.chamois (s : State) (c : Ch) (t : Half) : State :=
  let st := (s.chan c).stage
  if !st.gates || st.trip then s
  else
    let bus := s.busSc c (s.cycleAt t)
    let s := s.updStage c (fun x => { x with
      cut := true, trip := true, tripAt := some (s.cycleAt t), tripRun := x.tripRun + 1 })
    let s := s.incSat (CH_PCNT.SC_CNT c)
    let s := s.updLoop c LoopS.suspend
    let s :=
      if decide (s.rd (CH_SC.SC_LIMIT c) ≤ (s.chan c).stage.tripRun) then s.faultStop 1 c true else s
    if bus then s.raiseBusSc else s

/-- An open contact found by a pulse raises `KEL_OPEN` (R148). -/
def State.kelFail (s : State) (c : Ch) : State := (s.wr (CH_PSTAT.KEL_OK c) 0).chRaise 6 c

/-- A safety demand: the source 64 + n is raised and SAFE requested (R626). -/
def State.demandUp (s : State) (n : Fin 7) : State := s.raiseDev (Fin.ofNat 128 (64 + n.val))

/-! ### PWM, gates, drive -/

/-- The condition of `OL_FAULT` is gone (R167). -/
def State.olEnd (s : State) (c : Ch) : State :=
  if (s.cmpAt (chCmp c 1)).lat || (decide (s.rd (CH_OL.OL_MODE c) ≠ 0) && decide (s.rd (CH_PCNT.OL_ACC c) ≠ 0)) then s
  else s.condGone 3 c

/-- PWM_PERIOD_START (R39, R184): written stage setup comes into force (R753); EDGE faults whose condition is gone
clear, then conditions follow the latched bits of the channel's comparators, whose bits clear with `LATCH` = 0 (R689); a
cut ends unless Chamois itself is still tripped, or its comparator in its initial state (R157, R158, R691), which cuts
this period too (R241). `LE_OVERRUN` beside `LE_CHECK` clears as that does (R263). DESIGN CHOICE (log entry 111): a
period held off by a still-tripped Chamois is no trip and does not break the run of R159 either. -/
def execPwmPeriodStart (x : PwmIn) (s : State) : Host.Outcome State Fault Refusal :=
  let c := x.ch
  let s := (s.commitIf (latePwm c)).olEnd c
  let edge : List Src := [0, 1, 2, 3, 4, 5, 6, 7, 8, 11]
  let s := edge.foldl (fun s n => if n = 11 ∧ s.activeIn 10 c then s else s.clearIfGone n c) s
  let ks : List (Fin 4) := [0, 1, 2, 3]
  let s := ks.foldl (fun s k =>
    let i := chCmp c k
    if !(s.cmpAt i).filt && !s.rb (CMP_CFG.LATCH i) then s.updCmp i (fun x => { x with lat := false }) else s) s
  let s := if (s.cmpAt (chCmp c 0)).lat then s else (s.condGone 1 c).condGone 2 c
  let s := s.olEnd c
  let s := if (s.cmpAt (chCmp c 3)).lat then s else (s.condGone 4 c).condGone 5 c
  let hold := x.trip || (s.cmpAt (chCmp c 0)).init
  let s := if hold then s.updLoop c LoopS.suspend else s
  .next (s.updStage c (fun x => { x with
    cut := hold, trip := false, tripRun := if x.trip || hold then x.tripRun else 0 }))

/-- GD_ADAPT (R137): after an edge of `SWn` the code of its gate is adapted; `t` is the switching time in 0.5 ns where
the edge was measured (R135, R136). -/
def execGdAdapt (c : Ch) (rising measured : Bool) (t : Byte) (s : State) : Host.Outcome State Fault Refusal :=
  let code := if rising then CH_GDST.CODE_H c else CH_GDST.CODE_L c
  let tsw := if rising then CH_GDST.TSW_RISE c else CH_GDST.TSW_FALL c
  let s := if measured then s.wr tsw t.toNat else s
  if !s.rb (CH_GD.ADAPT_EN c) then .next (s.wr code (s.rd (CH_GD.GD_INIT c)))
  else if !measured then .next s
  else
    let target : Int := s.rd (CH_GD.TSW_TARGET c)
    let now : Int := s.rd code
    let want : Int :=
      if 2 * (target + 2) < t.toNat then now + 1 else if (t.toNat : Int) < 2 * (target - 2) then now - 1 else now
    let got := clampI want (s.rd (CH_GD.GD_MIN c)) (s.rd (CH_GD.GD_MAX c))
    let s := s.wr code got.toNat
    .next (if want ≠ got then s.wr (CH_GDST.GD_AT_BOUND c) 1 else s)

/-- BOTH_ON_COMMAND (R144, R145): both gates low for the rest of the period; three within 16 ticks raise
`SHOOT_FAULT`. -/
def execBothOnCommand (c : Ch) (s : State) : Host.Outcome State Fault Refusal :=
  let s := s.incSat (CH_PCNT.SHOOT_REQ c)
  let s := s.updStage c (fun x => { x with
    cut := true, bothOn := keep 3 (s.clk :: x.bothOn.filter (fun t => s.clk < t + 16)) })
  let s := s.updLoop c LoopS.suspend
  .next (if decide (3 ≤ (s.chan c).stage.bothOn.length) then s.faultStop 9 c true else s)

/-! ### Isolation and Kelvin -/

/-- The effect of a write of `CH_ISO.MEAS_CLOSE` in STANDBY (R149): the gang of the channel closes and opens together
(R195). -/
def State.fxMeasClose (s : State) (c : Ch) : State :=
  if s.sys.mode ≠ .standby then s
  else if s.rb (CH_ISO.MEAS_CLOSE c) then s.requestClose c
  else
    match (s.chan c).stage.iso with
    | .opened | .opening => s
    | .closing => s.protOpen c
    | .closed => s.stagedOpen c

/-- The effect of writing 1 to `CH_SENSE.KEL_TEST` in STANDBY with the gates off (R177, R204); a gang has its leader's
Kelvin bias (R192). -/
def State.fxKelTest (s : State) (c : Ch) : State :=
  let l := s.leader c
  if s.sys.mode = .standby ∧ !(s.chan c).stage.gates then
    if (s.chan l).stage.pulse.isSome then s else s.startPulse l .test
  else s

/-- A pulse before a closure ends: R147 and R148 decide. -/
def State.closePulse (s : State) (c : Ch) (diff : Int) : State :=
  let ok := kelInside diff
  let drive := decide (s.sys.mode = .run ∨ s.sys.mode = .service)
  if ok && s.mayClose c diff then s.isoClose c
  else
    let det := s.closeBlock c
    let s := s.forCh (s.gang c) (fun s d => s.updStage d (fun x => { x with iso := .opened }))
    let s := if !drive then s else if ok then s.failStep c rFAULT det else s.failStep c rCONTACT 0
    if ok then s else s.kelFail c

/-- KELVIN_PULSE_END (R177): the Kelvin difference `diff` in µV is tested at the end of the 20 µs pulse. -/
def execKelvinPulseEnd (c : Ch) (diff : Int) (s : State) : Host.Outcome State Fault Refusal :=
  match (s.chan c).stage.pulse with
  | none => .next s
  | some why =>
    let ok := kelInside diff
    let s := s.updStage c (fun x => { x with pulse := none })
    let s := s.wb (CH_PSTAT.KEL_OK c) ok
    let s := if ok then s.condGone 6 c else s
    match why with
    | .close => .next (s.closePulse c diff)
    | .ov =>
      if ok then
        let s := s.wr (CH_PFLT.OV_TRIP c) 1
        .next ((s.raise 14 c).demandUp 3)
      else .next ((s.contactLost c).kelFail c)
    | .test | .uv | .hard => .next ((if ok then s else s.kelFail c).measAgain c)

/-- ISO_SETTLE_END (R151): the hold-off of one channel ends, by its own `ISO_SETTLE`; the step begins its current at the
next boundary, in a gang once the hold-off of every member is over. -/
def execIsoSettleEnd (c : Ch) (s : State) : Host.Outcome State Fault Refusal :=
  if (s.chan c).stage.settle ∧ (s.chan c).stage.iso = .closed then
    .next (s.updStage c (fun x => { x with settle := false }))
  else .next s

/-- ISO_STAGED_OPEN (R152, R195): one PWM period after the gates went off, `ISOn` opens; a measurement closure asked for
meanwhile begins (R149). -/
def execIsoStagedOpen (c : Ch) (s : State) : Host.Outcome State Fault Refusal :=
  if (s.chan c).stage.iso = .opening then
    .next ((s.forCh (s.gang c) (fun s d => s.updStage d (fun x => { x with
      iso := if x.iso = .opening then .opened else x.iso }))).measAgain c)
  else .next s

/-- KEL_OPEN (R178): the Kelvin difference leaves the window while a step runs, a HOLD step among them (R381). A gang
member's supervision is its leader's (R192). -/
def execKelOpen (c : Ch) (s : State) : Host.Outcome State Fault Refusal :=
  if s.rb (CH_SENSE.KEL_EN c) && (s.seq c).run.any (fun r => !r.failed) && (s.seq c).lead.isNone then
    .next (((s.contactLost c).protOpen c).kelFail c)
  else .next s

/-! ### Current protection -/

/-- CHAMOIS_TRIP (R158), `t` cycles into the tick. -/
def execChamoisTrip (x : TripAt) (s : State) : Host.Outcome State Fault Refusal := .next (s.chamois x.ch x.t)

/-- BLANKING_END (R160): a level still present acts as a trip. -/
def execBlankingEnd (x : TripAt) (level : Bool) (s : State) : Host.Outcome State Fault Refusal :=
  .next (if level then s.chamois x.ch x.t else s)

/-- SC_HARD (R161, R162): the unblanked threshold is crossed; a confirmation pulse follows
(R177), with the leader's bias in a gang (R192). -/
def execScHard (x : TripAt) (s : State) : Host.Outcome State Fault Refusal :=
  let c := x.ch
  let bus := s.busSc c (s.cycleAt x.t)
  let s := s.updStage c (fun y => { y with trip := true, tripAt := some (s.cycleAt x.t) })
  let s := s.updLoop c LoopS.suspend
  let s := (s.startPulse (s.leader c) .hard).faultStop 2 c true
  .next (if bus then s.raiseBusSc else s)

/-- OL_FAULT (R167): the overload accumulator has reached `OL_TIME`, or a filtered trip stands in fast mode (R166). -/
def execOlFault (c : Ch) (s : State) : Host.Outcome State Fault Refusal :=
  let fast := decide (s.rd (CH_OL.OL_MODE c) = 0)
  if (fast && (s.cmpAt (chCmp c 1)).lat) ||
      (!fast && decide (s.rd (CH_OL.OL_TIME c) ≤ s.rd (CH_PCNT.OL_ACC c))) then .next (s.faultStop 3 c false)
  else .next s

/-- The accumulator of R167 counts once per tick; `olTick` of the channel says whether `CMP_OL` was tripped at any time
in the tick, its state at the tick's beginning among them. DESIGN CHOICE (log entry 112): at the end of its 12 bits it
rests. Fast mode has no accumulator. -/
def State.olCount (s : State) (c : Ch) : State :=
  let filt := (s.cmpAt (chCmp c 1)).filt && !(s.cmpAt (chCmp c 1)).init
  let was := (s.chan c).stage.olTick || filt
  let s := s.updStage c (fun x => { x with olTick := filt })
  if s.rd (CH_OL.OL_MODE c) = 0 then s.wr (CH_PCNT.OL_ACC c) 0
  else
    let acc := s.rd (CH_PCNT.OL_ACC c)
    if was then s.incSat (CH_PCNT.OL_ACC c) else s.wr (CH_PCNT.OL_ACC c) (acc - 1)

/-! ### Comparators -/

/-- What a trip of a channel comparator does (R166, R172, R174, R175); a gang uses its leader's voltage comparators
(R192). `rev` says which threshold of `CMP_UV` was crossed. -/
def State.chTrip (s : State) (c : Ch) (k : Nat) (rev : Bool) : State :=
  if k = 0 then s
  else if k = 1 then
    let s := s.updStage c (fun x => { x with olTick := true })
    if s.rd (CH_OL.OL_MODE c) = 0 then s.faultStop 3 c false else s
  else if (s.seq c).lead.isSome then s
  else if k = 2 then (s.protOpen c).startPulse c .ov
  else if rev then
    (s.startPulse c .uv).faultStop 5 c true
  else if decide ((s.chan c).loop.iEff < 0) then (s.startPulse c .uv).faultStop 4 c false
  else s

/-- The filter of comparator 71 trips: `VDRV` is too low, every gate output is held low, `VDRV_UV` is raised (R123). -/
def State.vdrvTrip (s : State) : State :=
  (({ s with pins := { s.pins with vdrv := false } }.forCh allCh State.protOpen).motGatesOff).raiseDev 38

/-- COMPARATOR_TRIP (R687, R689): the filter of comparator `i` trips; its bit is latched and its source sees it. A
comparator in its initial state raises nothing (R691); a cell below −0.2 V shows in `REV` all the same (R205). -/
def execComparatorTrip (i : CmpId) (reverse : Bool) (s : State) : Host.Outcome State Fault Refusal :=
  let x := s.cmpAt i
  let s := s.updCmp i (fun x => { x with raw := true })
  let s := if i.val < 64 ∧ i.val % 4 = 3 ∧ reverse then s.wr (CH_PSTAT.REV (Fin.ofNat 16 (i.val / 4))) 1 else s
  if 64 ≤ i.val ∧ i.val ≤ 66 then .next (s.updCmp i (fun x => { x with filt := true }))
  else if x.filt then .next s
  else
    let s := s.updCmp i (fun x => { x with filt := true, lat := true })
    if h : i.val < 64 then .next (s.chTrip ⟨i.val / 4, by omega⟩ (i.val % 4) reverse)
    else if i.val = 68 then
      .next (({ s with mot := { s.mot with brkm := s.mot.brkm.turn true s.clk } }.wr MOT_STAT.BRKM 1).demandUp 4)
    else if i.val = 69 then .next ({ s with saf := { s.saf with brkb := s.saf.brkb.turn true s.clk, brkbForce := true } }.demandUp 4)
    else if i.val = 70 then .next (s.raiseDev 37)
    else if i.val = 71 then
      .next s.vdrvTrip
    else .next s

/-- COMPARATOR_RELEASE (R687, R691): the filter of comparator `i` releases. Its latched bit clears at the next period
of its domain with `LATCH` = 0 (R689), which PWM_PERIOD_START, MOT_PWM_PERIOD_START and TICK_BOUNDARY make. -/
def execComparatorRelease (i : CmpId) (s : State) : Host.Outcome State Fault Refusal :=
  let s := s.updCmp i (fun x => { x with raw := false, filt := false, init := false })
  let s := if i.val % 4 = 3 ∧ i.val < 64 then s.wr (CH_PSTAT.REV (Fin.ofNat 16 (i.val / 4))) 0 else s
  .next (if i.val = 69 then
      let s := { s with saf := { s.saf with brkbForce := false } }
      if s.active 36 then { s with saf := { s.saf with brkb := s.saf.brkb.turn false s.clk } } else s
    else if i.val = 68 ∧ s.active 24 then
      -- the chopper goes on by its thresholds unless its overload is latched (R608, R609, R611)
      { s with mot := { s.mot with brkm := s.mot.brkm.turn false s.clk } }.wr MOT_STAT.BRKM 0
    else if i.val = 71 then { s with pins := { s.pins with vdrv := true } }
    else s)

/-- The `MOT_FLT` bit of a motor source (R616). -/
def motFltFld (n : Nat) : Option Fld :=
  match n with
  | 20 => some MOT_FLT.SC_HARD | 21 => some MOT_FLT.SC_PERSIST | 22 => some MOT_FLT.PP_SHORT | 23 => some MOT_FLT.SHOOT
  | 24 => some MOT_FLT.BRKM_OVL | 25 => some MOT_FLT.SYNC | 26 => some MOT_FLT.ENC_FAULT | 27 => some MOT_FLT.ENC_JUMP
  | 28 => some MOT_FLT.GEAR_SLIP | 29 => some MOT_FLT.ENC_DRIFT | 30 => some MOT_FLT.VM_LOW | 31 => some MOT_FLT.OVERRUN
  | _ => none

/-- A motor source is raised with its latched record (R616). -/
def State.motRaise (s : State) (n : Src) : State :=
  (match motFltFld n.val with | some f => s.wr f 1 | none => s).raiseDev n

/-- A comparator starts in the tripped state again (R691); 64 to 66 have no filter. -/
def State.cmpRestart (s : State) (i : CmpId) : State :=
  if 64 ≤ i.val ∧ i.val ≤ 66 then s else s.updCmp i (fun x => { x with filt := true, init := true })

end Sys2Proof.Machine
end

