-- ==== Sys2Proof/Machine/Range.lean ====
section
/-!
DEFINITION. Metrology range requests and the spares that serve them (R275 to R277, R297 to R301): the operations that
steps, register writes and the automatic up-range share.
-/

namespace Sys2Proof.Machine

/-- Change a spare. -/
def State.updSpare (s : State) (i : SpareId) (f : Spare → Spare) : State :=
  { s with met := { s.met with spares := bupd s.met.spares i f } }

/-- A spare goes on in service: neither substituting nor withdrawn (R296). -/
def Spare.inService (p : Spare) : Bool := p.st ≠ .substituting && p.st ≠ .withdrawn

/-- The spare that serves a range change of a channel, if one does. -/
def State.changer (s : State) (c : Ch) : Option SpareId :=
  let ids : List SpareId := [0, 1]
  ids.find? (fun i => (s.spare i).rc && decide ((s.spare i).target = iConv c) && (s.spare i).st ≠ .idle)

/-- A change has not reached its tick-64 boundary (R301). -/
def Spare.early (p : Spare) : Bool := p.st = .settling || p.st = .shadowing

/-- A range change begins on a spare (R297). -/
def State.startChange (s : State) (i : SpareId) (r : RngReq) : State :=
  s.updSpare i (fun p => { p with
    st := .settling, rc := true, target := iConv r.ch, rng := ⟨r.rng.val, by omega⟩, t := 0, passed := false
    skip := r.auto, again := false, short := true, old := false })

/-- A spare begins a return of its target: `short` for the 64 ticks of a range change or of a hand-back (R297, R300). -/
def Spare.backs (p : Spare) (short : Bool) : Spare := { p with st := .returning, t := 0, passed := false, short := short }

/-- A converter whose rotation is dropped is taken again later in its round (R300, R324). -/
def State.untake (s : State) (i : SpareId) : State :=
  if (s.spare i).old then s
  else { s with met := { s.met with taken := s.met.taken &&& ~~~(BitVec.ofNat 32 (2 ^ (s.spare i).target.val)) } }

/-- Constants accepted in a calibration that is aborted are dropped: the old ones stay (R300, R324). -/
def State.dropCal (s : State) (conv : Nat) : State :=
  { s with met := { s.met with newCal := s.met.newCal.filter (fun x => x.conv ≠ conv) } }

/-! ### The end of a round (R290) -/

/-- A spare serves a rotation. -/
def Spare.rotating (p : Spare) : Bool := !p.rc && p.st ≠ .idle && p.inService

/-- A converter is retired: a spare stands for it (R296). -/
def State.retired (s : State) (k : Nat) : Bool :=
  s.met.spares.toList.any (fun p => p.st = .substituting && decide (p.target.val = k))

/-- The next converter of the round in index order, retired ones left out (R289). -/
def State.roundNext (s : State) : Option Nat :=
  (List.range 32).find? (fun k => !s.met.taken.getLsbD k && !s.retired k)

/-- The end of a round of the rotation (R290): `BEHIND` says whether it took longer than the period. The round before may
end after the next has begun on the other spare. -/
def State.roundEnd (s : State) : State :=
  let per := msTicks s.per (100 * s.rd MET_IBX.PERIOD)
  let busy (old : Bool) : Bool := s.met.spares.toList.any (fun p => p.rotating && decide (p.old = old))
  let s := match s.met.oldT with
    | some t =>
      if busy true then s
      else { s.wb MET_IBXSTAT.BEHIND (decide (per < t)) with met := { s.met with oldT := none } }
    | none => s
  if !s.met.ended && s.roundNext.isNone && !busy false then
    { s.wb MET_IBXSTAT.BEHIND (decide (per < s.met.rotT)) with met := { s.met with ended := true } }
  else s

/-! ### Requests (R299 to R301) -/

/-- A request is denied: `REQ` reads `ACTIVE` again (R299, R326). -/
def State.rangeDeny (s : State) (c : Ch) : State :=
  ((s.wr (CH_MRNG.DENIED c) 1).wr (CH_MRNG.REQ c) (s.rngActive c)).event 19 8 c.val

/-- No spare is in service. -/
def State.noSpare (s : State) : Bool := s.met.spares.toList.all (fun p => !p.inService)

/-- The waiting requests that no spare can serve any more are denied: every one once no spare is in service, those of a
channel whose current converter is retired (R296, R299). -/
def State.denyWaiting (s : State) : State :=
  let gone (r : RngReq) : Bool := s.noSpare || s.retired (iConv r.ch).val
  let bad := s.met.reqs.filter gone
  s.forCh (bad.map (·.ch)) State.rangeDeny |> fun s =>
    { s with met := { s.met with reqs := s.met.reqs.filter (fun r => !bad.contains r) } }

/-- Idle spares serve the first requests whose channel has no change in progress (R301). -/
def State.serveRange (s : State) : State :=
  let ids : List SpareId := [0, 1]
  ids.foldl (fun s i =>
    if (s.spare i).st ≠ .idle then s
    else
      match s.met.reqs.find? (fun r => (s.changer r.ch).isNone) with
      | none => s
      | some r =>
        ({ s with met := { s.met with reqs := s.met.reqs.erase r } }.startChange i r).updSpare i
          (fun p => { p with fresh := true })) s

/-- A request goes into the queue: in the order in which requests are seen, those of one boundary in channel order
(R301). -/
def joinReq (l : List RngReq) (r : RngReq) : List RngReq :=
  let before (x : RngReq) : Bool := x.seen ≠ r.seen || decide (x.ch.val < r.ch.val)
  l.takeWhile before ++ [r] ++ l.dropWhile before

/-- A request waits while a change for a higher channel, seen at the same boundary, has just begun: channel order gives
the spare to the lower channel (R301). -/
def State.yieldTo (s : State) (c : Ch) : State :=
  if !s.met.reqs.any (fun r => r.ch = c) then s
  else
    let ids : List SpareId := [0, 1]
    let later := ids.filter (fun i => (s.spare i).fresh && (s.spare i).rc && decide (2 * c.val + 1 < (s.spare i).target.val))
    match later.find? (fun i => later.all (fun j => decide ((s.spare j).target.val ≤ (s.spare i).target.val))) with
    | none => s
    | some i =>
      let p := s.spare i
      let r : RngReq := ⟨Fin.ofNat 16 (p.target.val / 2), Fin.ofNat 4 p.rng.val, p.skip, s.now⟩
      let s := { s with met := { s.met with reqs := joinReq s.met.reqs r } }
      (s.updSpare i (fun p => { p with st := .idle, rc := false })).serveRange

/-- A request that finds no spare idle frees one (R300): a rotation that has not taken over is dropped, or the
calibration that began later is aborted and its converter returns with its old constants. -/
def State.preempt (s : State) : State :=
  let ids : List SpareId := [0, 1]
  let ps := ids.filter (fun i => (s.spare i).inService)
  if ps.any (fun i => (s.spare i).st = .idle) then s
  else
    let early := ps.find? (fun i => !(s.spare i).rc && ((s.spare i).st = .selfCal || (s.spare i).early))
    match early with
    | some i =>
      (((s.untake i).updSpare i (fun p => { p with st := .idle, t := 0, passed := false })).incSat MET_IBXCNT.PREEMPT).roundEnd
    | none =>
      if ps.all (fun i => !(s.spare i).rc && (s.spare i).st = .carrying) then
        let later := ps.find? (fun i => ps.all (fun j => decide ((s.spare i).t ≤ (s.spare j).t)))
        match later with
        | some i =>
          (((s.untake i).dropCal (s.spare i).target.val).updSpare i (fun p => p.backs true)).incSat MET_IBXCNT.PREEMPT
        | none => s
      else s

/-- The spare that a rotation has allocated to the current converter of a channel, or that stands for it (R324, R296). -/
def State.rotator (s : State) (c : Ch) : Option SpareId :=
  let ids : List SpareId := [0, 1]
  ids.find? (fun i => !(s.spare i).rc && decide ((s.spare i).target = iConv c) && (s.spare i).st ≠ .idle &&
    (s.spare i).st ≠ .withdrawn)

/-- A request meets a rotation of the channel's converter (R324): a spare that has not taken over restarts for the
request; a converter that is away comes back in the new range, which is in force from that boundary. A retired converter
has none to come back (R296): denied. -/
def State.rangeInRotation (s : State) (i : SpareId) (c : Ch) (rng : Fin 4) (auto : Bool) : State :=
  let p := s.spare i
  if p.st = .substituting then s.rangeDeny c
  else if rng.val = s.rngActive c then s
  else
    let back (s : State) : State :=
      s.updSpare i (fun p => { p.backs true with rc := true, rng := ⟨rng.val, by omega⟩, again := false })
    if p.st = .selfCal || p.early then ((s.untake i).startChange i ⟨c, rng, auto, s.now⟩).roundEnd
    -- calibrated already: only the hand-back begins anew
    else if p.st = .returning then (back s).roundEnd
    else (back ((s.untake i).dropCal p.target.val)).roundEnd

/-- A range request of one channel (R301). DESIGN CHOICE (log entry 150): one for the range that the running change targets,
while another waits in the queue, replaces that one; the second and the fifth item both speak of it. -/
def State.rangeAsk (s : State) (c : Ch) (rng : Fin 4) (auto : Bool) : State :=
  let s := s.wr (CH_MRNG.REQ c) rng.val
  if s.noSpare then s.rangeDeny c
  else
    let queued := s.met.reqs.any (fun r => r.ch = c)
    let replace (s : State) : State :=
      { s with met := { s.met with reqs := s.met.reqs.map (fun r => if r.ch = c then ⟨c, rng, auto, r.seen⟩ else r) } }
    let join (s : State) : State := { s with met := { s.met with reqs := joinReq s.met.reqs ⟨c, rng, auto, s.now⟩ } }
    match s.changer c with
    | some i =>
      let p := s.spare i
      if p.early then
        if p.rng.val = rng.val then s
        else if rng.val = s.rngActive c then
          (s.updSpare i (fun p => { p with st := .idle, rc := false, t := 0, passed := false })).serveRange
        else s.startChange i ⟨c, rng, auto, s.now⟩
      else if queued then replace s
      else if p.rng.val = rng.val then s
      else join s
    | none =>
      match s.rotator c with
      | some i => s.rangeInRotation i c rng auto
      | none =>
        if queued then replace s
        else if rng.val = s.rngActive c then s
        else ((join s).preempt).serveRange.yieldTo c

/-- A range request names every member of a gang, in member order (R277). -/
def State.rangeReq (s : State) (c : Ch) (rng : Fin 4) (auto : Bool) : State :=
  s.forCh (s.gang c) (fun s d => s.rangeAsk d rng auto)

/-- What a boundary sees of a channel's requests beside its step (R275, R276): the range a register write asked for, and
the next wider one after two successive overloaded ticks. -/
def State.rangeTick (s : State) (c : Ch) : State :=
  let r := s.rngActive c
  let s := match (s.chan c).met.ask with
    | some a => (s.updMet c (fun m => { m with ask := none })).rangeReq c a false
    | none => s
  if s.rb (CH_MCFG.AUTO_UP c) && decide (2 ≤ (s.chan c).met.ovld) && decide (r < 3) then
    s.rangeReq c (Fin.ofNat 4 (r + 1)) true
  else s

/-! ### What a tick-period switch touches (R316, R324) -/

/-- D of R316 keeps the rate within 250 S/s to 16 kS/s. -/
def odrOk (d per : Nat) : Bool := decide (31250 ≤ d * per ∧ d * per ≤ 2000000)

/-- The nearest D in range at a period. -/
def nearOdr (d per : Nat) : Nat := if d * per < 31250 then (31250 + per - 1) / per else 2000000 / per

/-- Overlaps and calibrations in progress restart (R324), the refresh of an idle spare among them. -/
def Spare.restart (p : Spare) : Spare :=
  match p.st with
  | .idle | .selfCal | .settling | .returning => { p with t := 0, passed := false }
  | .shadowing => { p with st := .settling, t := 0, passed := false }
  | .carrying => { p with t := 1056 * p.calNext }
  | _ => p

/-- The metrology side of a period switch. -/
def State.metPeriod (s : State) (per : Nat) : State :=
  let d := s.rd MET_CFG.ODR_DIV
  let s := if odrOk d per then s else s.wr MET_CFG.ODR_DIV (nearOdr d per)
  { s with met := { s.met with spares := bmap Spare.restart s.met.spares } }

end Sys2Proof.Machine
end

