-- ==== Sys2Proof/Machine/Operands.lean ====
section
/-!
DEFINITION. Descriptors: what their sixteen words hold (R435, R441, R443) and which step descriptors are valid (R337,
R339, R366, R368, R372, R387, R436, R437, R440).
-/

namespace Sys2Proof

/-- The end conditions of a step descriptor, in order. -/
def StepDesc.ecs (d : StepDesc) : List EndCond := [d.ec0, d.ec1, d.ec2, d.ec3]

/-- End condition `k`. -/
def StepDesc.ec (d : StepDesc) (k : Fin 4) : EndCond :=
  match k with
  | 0 => d.ec0
  | 1 => d.ec1
  | 2 => d.ec2
  | 3 => d.ec3

/-- The steps that R339 lists. -/
def isDrive (op : Nat) : Bool := (1 ≤ op && op ≤ 6) || (9 ≤ op && op ≤ 12)

/-- The "current steps" of R387. -/
def isCurrentStep (op : Nat) : Bool := (1 ≤ op && op ≤ 6) || op = 11 || op = 12

/-- The opcodes of R437. -/
def isStepOp (op : Nat) : Bool := (1 ≤ op && op ≤ 12) || (16 ≤ op && op ≤ 19) || op = 31

/-- The action bytes of R436. -/
def validAction (b : Byte) : Bool := b = 0 || b = 0x11 || b = 0x12 || b = 0x13 || b = 0x20

/-- An end condition is allowed for an opcode (R387). -/
def ecAllowed (op : Nat) (vmode : Bool) (code : Nat) : Bool :=
  if code = 3 then op = 2 || op = 3 || (op = 12 && vmode)
  else if code = 5 ∨ code = 6 then isCurrentStep op
  else if code = 8 then op = 1 || op = 11
  else if 1 ≤ code ∧ code ≤ 11 then isCurrentStep op || op = 7
  else false

/-- A windowed condition needs a window (R387). -/
def ecWindowed (code : Nat) : Bool := code = 3 || (7 ≤ code && code ≤ 9)

/-- An end-condition slot is valid for a step: unused and all 0 (R440), or allowed with its parameters in range. -/
def EndCond.valid (e : EndCond) (op : Nat) (vmode : Bool) : Bool :=
  if e.code = 0 then e.action = 0 && e.param = 0 && e.thr = 0
  else
    ecAllowed op vmode e.code.toNat && validAction e.action && (!ecWindowed e.code.toNat || e.param ≠ 0) &&
      (e.code ≠ 11 || e.thr.toNat ≤ 63)

/-- The opcode words, `P16` and flags of an opcode in their ranges, and 0 where the opcode does not use them (R437,
R440). The limits of EIS on the full scales stand in `State.eisFits`. -/
def StepDesc.wordsOk (d : StepDesc) : Bool :=
  let op := d.op.toNat
  let z (l : List Word) : Bool := l.all (fun w => w = 0)
  let p0 : Bool := d.p16 = 0
  let flags : Bool := (!d.isoOpen || op = 7 || op = 8 || op = 16) && (!d.restEval || op = 6) && (!d.vmode || op = 12)
  flags &&
    (if op = 1 then z [d.x1, d.x2] && p0
    else if op = 2 ∨ op = 3 ∨ op = 4 then z [d.x2] && p0
    else if op = 5 then d.x0 ≠ 0 && z [d.x2] && p0
    else if op = 6 then decide (d.p16.toNat ≤ d.x2.toNat)
    else if op = 7 ∨ op = 17 ∨ op = 31 then z [d.x0, d.x1, d.x2] && p0
    else if op = 8 then d.p16 ≠ 0
    else if op = 9 then
      let tPre := d.x1.toNat % 65536
      let tPulse := d.x1.toNat / 65536
      let tFast := d.x2.toNat % 65536
      let tWin := d.x2.toNat / 65536
      d.x0 ≠ 0 && p0 && decide (tWin ≤ tPre ∧ tWin ≤ tFast ∧ tFast ≤ tPulse)
    else if op = 10 then
      decide (50 ≤ d.x2.toNat ∧ d.x2.toNat ≤ 2000000) && d.x1 ≠ 0 && decide (256 ≤ d.p16.toNat)
    else if op = 11 then decide (0 < d.x0.toInt) && z [d.x2] && p0
    else if op = 12 then (d.vmode || z [d.x1]) && z [d.x2] && p0 && d.slew ≠ 0
    else if op = 16 then decide (d.x0.toNat ≤ 63) && z [d.x1, d.x2] && p0
    else if op = 18 then (d.x0 = 1 || d.x0 = 2 || d.x0 = 4) && z [d.x1, d.x2] && p0
    else if op = 19 then decide (d.x2.toNat ≤ 7)
    else true)

/-- The kind of profile an opcode needs: 0 current, 1 outer, 2 power, 3 resistance (R339). -/
def StepDesc.kind (d : StepDesc) : Nat :=
  let op := d.op.toNat
  if op = 2 ∨ op = 3 ∨ (op = 12 ∧ d.vmode) then 1 else if op = 4 then 2 else if op = 5 then 3 else 0

/-- The profile slot of a descriptor. -/
def StepDesc.slot (d : StepDesc) : Fin 8 := d.prof.toFin

/-- The goal of the primary target of a step (R351, R437). -/
def StepDesc.goal (d : StepDesc) : Int :=
  if d.op = 3 then d.x1.toInt else if d.op = 5 then (d.x0.toNat : Int) else d.x0.toInt

/-- The soft-start reference of a step (R339). -/
def StepDesc.iref (d : StepDesc) : Int :=
  if d.op = 2 ∨ d.op = 4 ∨ d.op = 5 then (d.x1.toNat : Int)
  else if d.op = 10 then (d.x0.toInt.natAbs : Int) + d.x1.toNat
  else d.x0.toInt.natAbs

/-- The limits of the outer law or of the transform in µA (R340, R342). -/
def StepDesc.outerLim (d : StepDesc) : Int × Int :=
  if d.op = 3 then
    let i := d.x0.toInt
    (min 0 i, max 0 i)
  else if d.op = 5 then (-(d.x1.toNat : Int), 0)
  else (-(d.x1.toNat : Int), (d.x1.toNat : Int))

end Sys2Proof

namespace Sys2Proof.Machine

/-- Word `i` of a descriptor. -/
def wAt (ws : List Word) (i : Nat) : Word := ws.getD i 0

/-- End-condition entry at word `i` (R438). -/
def parseEc (ws : List Word) (i : Nat) : EndCond :=
  let w := wAt ws i
  ⟨w.extractLsb' 0 8, w.extractLsb' 8 8, w.extractLsb' 16 16, wAt ws (i + 1)⟩

/-- The step descriptor of sixteen words (R435). -/
def parseStep (ws : List Word) : StepDesc where
  op := (wAt ws 0).extractLsb' 0 8
  prof := (wAt ws 0).extractLsb' 8 3
  mrange := (wAt ws 0).extractLsb' 12 3
  cls := (wAt ws 0).extractLsb' 16 2
  isoOpen := (wAt ws 0).getLsbD 18
  restEval := (wAt ws 0).getLsbD 19
  vmode := (wAt ws 0).getLsbD 20
  rsv := (wAt ws 0).extractLsb' 11 1 ++ (wAt ws 0).extractLsb' 15 1 ++ (wAt ws 0).extractLsb' 21 3
  toAct := (wAt ws 0).extractLsb' 24 8
  tSs := (wAt ws 1).extractLsb' 0 16
  p16 := (wAt ws 1).extractLsb' 16 16
  qConf := wAt ws 2
  slew := wAt ws 3
  timeout := wAt ws 4
  x0 := wAt ws 5
  x1 := wAt ws 6
  x2 := wAt ws 7
  ec0 := parseEc ws 8
  ec1 := parseEc ws 10
  ec2 := parseEc ws 12
  ec3 := parseEc ws 14

/-- The motion descriptor of sixteen words (R441). -/
def parseMotion (ws : List Word) : MotionDesc where
  op := (wAt ws 0).extractLsb' 0 8
  rsv := decide ((wAt ws 0).extractLsb' 8 8 ≠ 0) || (ws.drop 9).any (fun w => w ≠ 0)
  tag := (wAt ws 0).extractLsb' 16 16
  timeout := wAt ws 1
  pos := wAt ws 3 ++ wAt ws 2
  vmax := wAt ws 4
  amax := wAt ws 5
  force := wAt ws 6
  ftol := wAt ws 7
  dwell := wAt ws 8

/-- The kind of a profile (R339). -/
def Prof.kind (p : Prof) : Nat := if p.outer ≠ 0 then 1 else if p.xform = 1 then 2 else if p.xform = 2 then 3 else 0

/-- The profile in a slot of a channel's quad. -/
def State.profAt (s : State) (c : Ch) (k : Fin 8) : Option Prof := bget (bget s.qd (quadOf c)).slots k

/-- The profile that a step names fits it (R337); a slot that a period switch has emptied fits none (R493). -/
def State.profOk (s : State) (c : Ch) (d : StepDesc) : Bool :=
  !isDrive d.op.toNat || (match s.profAt c d.slot with | some p => decide (p.kind = d.kind) | none => false)

/-- A step descriptor is valid (R337), apart from what only the start of the step decides. -/
def State.stepValid (s : State) (c : Ch) (d : StepDesc) : Bool :=
  let op := d.op.toNat
  isStepOp op && d.rsv = 0 && decide (d.mrange.toNat ≤ 4) && decide (d.tSs.toNat ≤ 4095) && validAction d.toAct &&
    d.ecs.all (fun e => e.valid op d.vmode) && d.wordsOk &&
    (op ≠ 11 || d.ecs.any (fun e => e.code = 8 || e.code = 9)) &&
    s.profOk c d

/-- The tone period of EIS in ticks (R373), at least 1. -/
def State.eisPt (s : State) (f : Nat) : Nat :=
  max 1 (rdiv 1000000000000 ((f * s.tickNs : Nat) : Int)).toNat

/-- The limits of EIS on the two full scales at the start of the step (R372). -/
def State.eisFits (s : State) (c : Ch) (d : StepDesc) : Bool :=
  decide (((d.x1.toNat : Int) * 10 ≤ s.fsUa c (s.rngActive c)) ∧
    (d.x0.toInt.natAbs : Int) + d.x1.toNat ≤ s.fsUa c (s.rd (CH_MCFG.CRANGE c)))

/-- The header of an admin descriptor (R443) at a position of AQ. -/
def parseAdm (ws : List Word) (idx : Nat) : Nat × AdmHdr :=
  (((wAt ws 0).extractLsb' 0 8).toNat, ⟨BitVec.ofNat 16 idx, (wAt ws 0).extractLsb' 16 16⟩)

end Sys2Proof.Machine
end

