-- ==== Sys2Proof/Machine/Setpoint.lean ====
section
/-!
DEFINITION. From the running step to the setpoint of a tick: slewing (R351, R353), soft start (R347), the ramp to zero
(R350), pulses, DCIR and EIS levels, and the setpoint limiter (R168 to R170).
-/

namespace Sys2Proof.Machine

/-- Move a target toward its goal by a rate per ms for one tick, with its fraction, never past the goal; without a rate
the goal is taken at once (R351, R353). `per` is the tick period in SYSCLK cycles. -/
def slewTo (per : Nat) (tgt : Int) (frac : Nat) (goal : Int) (rate : Nat) : Int × Nat :=
  if tgt = goal then (tgt, frac)
  else if rate = 0 then (goal, 0)
  else
    let x := rate * 2 * per + frac
    let st : Int := (x / 1000000 : Nat)
    (if tgt < goal then min goal (tgt + st) else max goal (tgt - st), x % 1000000)

/-- Length of a duration in ms in ticks of the step (R336). -/
def Run.ms (r : Run) (ms : Nat) : Nat := msTicks r.per ms

/-- `T_PRE`, `T_PULSE` and `T_FAST`, `T_WIN` of DCIR in ticks. -/
def Run.tPre (r : Run) : Nat := r.ms (r.desc.x1.toNat % 65536)
/-- `T_PULSE` in ticks. -/
def Run.tPulse (r : Run) : Nat := r.ms (r.desc.x1.toNat / 65536)
/-- `T_FAST` in ticks. -/
def Run.tFast (r : Run) : Nat := r.ms (r.desc.x2.toNat % 65536)
/-- `T_WIN` in ticks. -/
def Run.tWin (r : Run) : Nat := r.ms (r.desc.x2.toNat / 65536)

/-- The goal of the primary target `j` ticks ahead (R351, R360, R368): PULSE alternates with zero under its timers,
DCIR holds zero before its pulse. DESIGN CHOICE (log entry 152): a DCIR that begins with its loop
open slews its target from `I_SET` (R352) to 0 in the pre-rest, gates off, and up again in the pulse, besides the soft
start. -/
def Run.goalAt (r : Run) (j : Nat) : Int :=
  let op := r.desc.op.toNat
  if op = 6 then
    if r.phase = 6 then (if r.ms r.desc.x2.toNat ≤ r.pt + j then r.desc.x0.toInt else 0)
    else if r.ms r.desc.x1.toNat ≤ r.pt + j then 0 else r.iset
  else if op = 9 then (if r.phase = 9 ∨ r.tPre ≤ r.pt + j then r.goal else 0)
  else r.goal

/-- The rate in force: a pulse edge uses the step's own `SLEW` (R353, R361). -/
def State.slewRate (s : State) (c : Ch) (r : Run) : Nat :=
  if r.desc.op = 6 then r.desc.slew.toNat else (s.seq c).rate.toNat

/-- Limit a command in the t-th closed-loop tick of the soft start (R347); the first pulse of PULSE keeps its own current
(R361, R364). -/
def Run.softLimit (r : Run) (j : Nat) (i : Int) : Int :=
  if r.ss ∧ r.ssT + j < r.ssLen then
    let iref : Int := if r.desc.op = 6 then (r.iset.natAbs : Int) else r.desc.iref
    let lim := tdiv (iref * ((r.ssT + j + 1 : Nat) : Int)) r.ssLen
    clampI i (-lim) lim
  else i

/-- The perturbation of EIS in tick k of the excitation, in µA (R374). -/
def Run.tone (r : Run) (j : Nat) : Int :=
  if r.eis.on then rdiv ((r.desc.x1.toNat : Int) * sinT (r.eis.k + j) r.eis.pt) (2 ^ 60) else 0

/-- The current of a linear ramp from `i` to zero over `len` ticks, in tick t of it (R350). -/
def rampTo0 (len t : Nat) (i : Int) : Int := if t + 1 < len then tdiv (i * ((len - 1 - t : Nat) : Int)) len else 0

/-- The current of the ramp to zero of a step, j ticks ahead (R350). -/
def Run.rampAt (r : Run) (j : Nat) : Int := rampTo0 r.rampLen (r.rampT + j) r.rampI

/-- The command of a channel without a step, j ticks ahead: the ramp to zero of R152, or none. -/
def ChanS.windAt (x : ChanS) (j : Nat) : Int := match x.wind with | some (len, t, i) => rampTo0 len (t + j) i | none => 0

/-- The command of a channel `j` ticks ahead (0: this tick, from the target before its boundary), before R169, and the
target it leaves (R227, R347 to R353). -/
def State.command (s : State) (c : Ch) (r : Run) (j : Nat) : Int × Int × Nat :=
  let l := (s.chan c).loop
  let op := r.desc.op.toNat
  let t := if j = 0 then (r.tgt0, r.frac0) else (r.tgt, r.frac)
  if !isDrive op then (r.rampAt j, t.1, t.2)
  else
    let n := slewTo s.per t.1 t.2 (r.goalAt j) (s.slewRate c r)
    let i :=
      if r.desc.kind = 0 then n.1 + r.tone j
      else if j = 0 then l.oCmd else l.out2.getD l.oCmd
    (r.softLimit j i, n.1, n.2)

/-- The foldback limit of a channel in µA in foldback mode (R168), for the control-sample cell voltage of its gang's
leader (R192). -/
def State.foldback (s : State) (c : Ch) : Option Int :=
  if s.rd (CH_OL.OL_MODE c) = 2 then
    let vk : Int := s.rd (CH_FB.FB_VKNEE c) * 1000
    let v := clampI (s.chan (s.leader c)).loop.vA 0 vk
    let m : Int := s.rd (CH_FB.FB_IMIN c)
    some (tdiv ((s.rd (CH_OL.OL_TH c) : Int) * 1000000000000 * (m * vk + (100 - m) * v))
      (100 * vk * (s.rd (CH_RSHUNT.RSHUNT c) : Int)))
  else none

/-- The effective setpoint in µA of a command (R169). -/
def effOf (kT kB : Nat) (fb : Option Int) (i : Int) : Int :=
  let a := ((kT * kB : Nat) : Int) * i.natAbs / 65536
  sgn i * (match fb with | some f => min a f | none => a)

/-- µA to the input format of the loop (R213, R214). -/
def State.toLsb (s : State) (c : Ch) (i : Int) : Int :=
  satS 24 (rdiv (i * (s.rd (CH_RSHUNT.RSHUNT c) : Int) * 2 ^ 22) (25000000000000 * 2 ^ s.rd (CH_MCFG.CRANGE c)))

/-- The input format to µA, to nearest. -/
def State.ofLsb (s : State) (c : Ch) (x : Int) : Int :=
  rdiv (x * 25000000000000 * 2 ^ s.rd (CH_MCFG.CRANGE c)) ((s.rd (CH_RSHUNT.RSHUNT c) : Int) * 2 ^ 22)

/-- The setpoint limiter in one channel (R169, R170). -/
def State.limit1 (s : State) (c : Ch) : State :=
  let l := (s.chan c).loop
  let kT := s.kT c
  let kB := s.kBal c
  let fb := s.foldback c
  let e := effOf kT kB fb l.icmd
  let s := s.updLoop c (fun l => { l with iFb := fb, iEff := e, r := s.toLsb c e })
  let lim := match fb with | some f => decide (f * 65536 ≤ ((kT * kB : Nat) : Int) * l.icmd.natAbs) | none => false
  (s.wb (CH_PSTAT.FB_LIMIT c) lim).wb (CH_PSTAT.DERATE c) (decide (kT < 256))

/-- The setpoints of a channel and its gang for this tick, formed from the running step (R169, R249): a gang member's
command is its share; a step gap and a channel without a step command zero. -/
def State.formSetpoint (s : State) (c : Ch) : State :=
  let s :=
    match (s.seq c).run with
    | none => s.updLoop c (fun l => { l with iGang := (s.seq c).windAt 0 })
    | some r =>
      let (i, t, f) := s.command c r 0
      let s := s.updRun c (fun r => { r with tgt := t, frac := f })
      let k := r.desc.kind
      let s :=
        if isDrive r.desc.op.toNat ∧ k ≠ 0 then
          (s.updLoop c (fun l => { l with vRef := t })).updSeq c (fun x =>
            if k = 1 then { x with vref := some t } else { x with xset := some t })
        else s
      s.updLoop c (fun l => { l with iGang := i })
  let g := (s.chan c).loop.iGang
  if (s.seq c).size = 1 then (s.updLoop c (fun l => { l with icmd := g })).limit1 c
  else
    s.forCh (s.members c) (fun s d =>
      (s.updLoop d (fun l => { l with icmd := if (s.seq c).run.isNone ∧ (s.seq c).wind.isNone then 0 else l.icmd })).limit1 d)

/-- Hold a channel at zero current in this tick: a gap or a late transition (R56, R74). -/
def State.zeroSetpoint (s : State) (c : Ch) : State :=
  s.forCh (s.gang c) (fun s d => (s.updLoop d (fun l => { l with iGang := 0, icmd := 0, oCmd := 0 })).limit1 d)

/-- The phase of a step that drives current once it needs no soft start (R409): pulse on, waiting for the tone, or
regulating. -/
def Run.runPhase (r : Run) : Nat := if r.desc.op = 6 then 5 else if r.desc.op = 10 then 10 else 3

/-- The step asks for running gates in this tick (R345, R350, R368). -/
def Run.wantsGates (r : Run) (closed : Bool) : Bool :=
  let op := r.desc.op.toNat
  if isDrive op then op ≠ 9 || closed || r.phase = 9 else !r.off && decide (0 < r.rampLen)

/-- The gates of a gang may run now: `ISOn` closed and settled, no fault, no comparator in its initial state, the
enable line and the mode, no engine single-stepped (R147, R151, R186, R618, R691, R764). -/
def State.mayRun (s : State) (c : Ch) : Bool :=
  (s.sys.mode = .run || s.sys.mode = .service) && s.cenOn && s.vdrvOk && !s.chFaulted c &&
    !bitN (s.rd DBG_CTL.LE_STEP) (c.val / 4) && (s.gang c).all (fun d =>
      let st := (s.chan d).stage
      decide (st.iso = .closed) && !st.settle && !(s.cmpAt (chCmp d 1)).init) &&
    !(s.cmpAt (chCmp c 2)).init && !(s.cmpAt (chCmp c 3)).init

/-- At a boundary the gates of a gang start where the step wants them and they may run; a wanted closure is asked for
again while `ISOn` is open (R345). -/
def State.startGates (s : State) (c : Ch) : State :=
  match (s.seq c).run with
  | none => s
  | some r =>
    if r.failed then s
    else
      let s := if isDrive r.desc.op.toNat then s.requestClose c else s
      if r.wantsGates (s.chan c).loop.closed ∧ ((s.chan c).stage.gates ∨ s.mayRun c) then
        let s := s.forCh (s.gang c) (fun s d => s.updStage d (fun x => { x with gates := true }))
        s.updRun c (fun r => { r with
          phase := if r.phase = 1 then (if r.ss then 2 else r.runPhase) else r.phase })
      else s

end Sys2Proof.Machine
end

