-- ==== Sys2Proof/Machine/Seq.lean ====
section
/-!
DEFINITION. The sequencer: how a step begins, how its end conditions are evaluated and decided, and how a transition is
made (R54 to R57, R70 to R75, R329 to R399). The rows of Steps.lean and TICK_BOUNDARY call these operations.
-/

namespace Sys2Proof.Machine

/-! ### Beginning a step -/

/-- An evaluator with nothing seen. -/
def EcS.zero : EcS := ⟨0, 0, 0, 0, none, 0, none, false, 0, 0, 0, [], false⟩

/-- The demodulation with nothing begun. -/
def EisS.zero : EisS := ⟨false, 0, 1, 0, 0, 0, 0, 0, 0, 0, 0⟩

/-- A barrier bit in force (R487, R494). -/
def State.tagBit (s : State) (t : Nat) : Bool :=
  if t < 32 then bitN (s.rd RING_BARVL.BARV) t else bitN (s.rd RING_BARVH.BARV) (t - 32)

/-- A channel arrives on a tag (R380, R494). -/
def State.tagArrive (s : State) (t : Nat) : State :=
  let l := s.ring.arrivals
  let l := if l.any (fun e => e.1 = t) then l.map (fun e => if e.1 = t then (t, e.2 + 1) else e) else l ++ [(t, 1)]
  { s with ring := { s.ring with arrivals := l } }

/-- The tags on which a channel arrives with a step, once each (R494): that of WAIT, those of its TAG conditions. -/
def stepTags (d : StepDesc) : List Nat :=
  ((if d.op = 16 then [d.x0.toNat] else []) ++ (d.ecs.filter (fun e => e.code = 11)).map (fun e => e.thr.toNat)).eraseDups

/-- What a step puts into a bank (R223): one that drives current names its profile, any other goes on under the
outgoing one `k` (R350). -/
def stepBank (d : StepDesc) (k : Fin 8) : Bank :=
  let lim := if d.kind = 0 then (-d.iref, d.iref) else d.outerLim
  let eis := decide (d.op = 10)
  if isDrive d.op.toNat then
    { slot := d.slot, goal := d.goal, slew := d.slew.toNat, iLo := lim.1, iHi := lim.2
      volt := if d.kind = 1 then d.goal else 0, amp := if eis then d.x1.toNat else 0, freq := if eis then d.x2.toNat else 0 }
  else { Bank.zero with slot := k }

/-- The shadow banks of a gang take a step (R71, R223). -/
def State.armBank (s : State) (c : Ch) (d : StepDesc) : State :=
  s.forCh (s.gang c) (fun s x => s.updLoop x (fun l => { l with shd := stepBank d l.act.slot }))

/-- A bank swap of a gang at this boundary (R55, R223): the shadow banks hold the step, and each channel exchanges its
two banks. -/
def State.bankTo (s : State) (c : Ch) (d : StepDesc) : State :=
  let s := s.armBank c d
  s.forCh (s.gang c) (fun s x => s.updLoop x (fun l => { l with
    bank := !l.bank, swapped := true, act := l.shd, shd := l.act }))

/-- The soft start of a step begins (R345, R347): the short check of R348 begins with it. -/
def State.softStart (s : State) (c : Ch) (d : StepDesc) : State :=
  let q := if d.qConf = 0 then s.rd (CH_SSHORT.Q_CONFIRM c) else d.qConf.toNat
  s.updSeq c (fun x => { x with short := some (0, q * 1000000) })

/-- The members of a gang of a size at a leader. -/
def gangOf (c : Ch) (size : Nat) : List Ch :=
  if size = 4 then quadChs (quadOf c) else if size = 2 then [c, Fin.ofNat 16 (c.val + 1)] else [c]

/-- What R190 compares. -/
def State.gangKey (s : State) (c : Ch) : List Word :=
  [s.regWord (0x8000 + 0x100 * c.val), s.regWord (0x8008 + 0x100 * c.val), s.regWord (0x800c + 0x100 * c.val),
    s.regWord (0x8010 + 0x100 * c.val), s.regWord (0x8014 + 0x100 * c.val), wN (s.rd (CH_MCFG.CRANGE c))]

/-- A gang of a size may form at a leader (R189, R190, R250, R383). -/
def State.gangMay (s : State) (c : Ch) (d : StepDesc) (size : Nat) : Bool :=
  let ms := gangOf c size
  decide (size = 2 ∨ size = 4) && decide (c.val % size = 0) && decide ((s.seq c).size = 1) && (s.seq c).lead.isNone &&
    ms.all (fun m => m = c || (decide ((s.seq m).st = .idle ∨ (s.seq m).st = .hold) && (s.seq m).run.isNone &&
      (s.seq m).lead.isNone && decide ((s.seq m).size = 1))) &&
    ms.all (fun m => s.gangKey m = s.gangKey c) &&
    (match s.profAt c d.slot with | some p => p.gangOk | none => false)

/-- A gang forms (R384). DESIGN CHOICE (log entry 156): a member in HOLD whose ramp to zero (R152) still runs opens its
stage at once. -/
def State.gangForm (s : State) (c : Ch) (size : Nat) : State :=
  let ms := (gangOf c size).filter (fun m => m ≠ c)
  let s := s.forCh ms (fun s m => if (s.seq m).wind.isSome then s.stagedOpen m else s)
  let s := s.updSeq c (fun x => { x with size := size })
  s.forCh ms (fun s m =>
    s.updSeq m (fun x => { x with st := .member, why := 0, lead := some c, armed := none, resume := false }))

/-- A gang dissolves (R196, R385): each former member opens its `ISOn` and enters HOLD with cause 7. -/
def State.gangDissolve (s : State) (c : Ch) : State :=
  if (s.seq c).lead.isSome then s
  else
    let ms := (s.members c).filter (fun m => m ≠ c)
    (s.dissolve c).forCh ms (fun s m => s.enterHold m 7)

/-- The gates of a step without current go off, and `ISOn` opens where the step says so (R350, R365, R379, R386); HOLD
places the channel in HOLD (R381); a forming or dissolving gang changes (R382 to R385). DESIGN CHOICE (log entry 151):
`T_MIN` of OCV counts the ticks of the ramp to zero too. -/
def State.quietOff (s : State) (c : Ch) : State :=
  match (s.seq c).run with
  | none => s
  | some r =>
    let op := r.desc.op.toNat
    let s := s.gatesOff c
    let s := s.updRun c (fun r => { r with
      off := true, pt := if op = 18 then 0 else r.pt
      phase := if op = 16 ∨ op = 17 then 10 else if op = 31 then 11 else 0 })
    if op = 18 ∧ r.desc.x0 ≠ 1 then
      (if s.gangMay c r.desc r.desc.x0.toNat then s.gangForm c r.desc.x0.toNat else s.failStep c rFAULT dINVALID)
    else if op = 31 ∨ (r.desc.isoOpen ∧ (op = 7 ∨ op = 8 ∨ op = 16)) then
      s.stagedOpen c
    else if op = 17 then (s.stagedOpen c).updSeq c (fun x => { x with st := .hold, why := 5 })
    else s

/-- The instantaneous setpoint that a target starts from (R352). -/
def State.instant (s : State) (c : Ch) (d : StepDesc) : Int :=
  let l := (s.chan c).loop
  let x := s.seq c
  let goal := d.goal
  if d.kind = 0 then (if l.closed then l.icmd0 else if d.op = 12 then 0 else goal)
  else if d.kind ≠ x.lkind ∨ !l.closed then (if d.kind = 1 then l.vA else goal)
  else if d.kind = 1 then x.vref0.getD l.vA
  else x.xset0.getD goal

/-- The run of a step at its beginning. -/
def Run.start (d : StepDesc) (idx per : Nat) (closed : Bool) (ssLen gap : Nat) (gapEntry : Bool) (tgt icmd : Int)
    (eisPt : Nat) : Run where
  desc := d
  idx := idx
  per := per
  ticks := gap
  phase :=
    if d.op = 9 then 3
    else if isDrive d.op.toNat then (if !closed then 1 else if d.op = 6 then 5 else if d.op = 10 then 10 else 3)
    else if closed then 11 else if d.op = 16 ∨ d.op = 17 then 10 else if d.op = 31 then 11 else 0
  ss := isDrive d.op.toNat && !closed && d.op ≠ 12 && d.op ≠ 9
  ssLen := ssLen
  ssT := 0
  rampLen := if isDrive d.op.toNat ∨ !closed then 0 else ssLen
  rampT := 0
  rampI := icmd
  off := false
  tgt := tgt
  frac := 0
  tgt0 := tgt
  frac0 := 0
  goal := d.goal
  iset := d.x0.toInt
  ecs := Vector.replicate 4 EcS.zero
  ending := none
  toFired := none
  impl := false
  revoked := false
  armed := d.op ≠ 11
  kWas := false
  kLt := 0
  bal := 0
  ccT := 0
  cycles := 0
  rest := 0
  gap := gap
  gapEntry := gapEntry
  pt := 0
  sum := 0
  n := 0
  vMin := 0
  vMax := 0
  hist := []
  ocv := EcS.zero
  slope := 0
  settleT := 0
  finished := false
  w0 := none
  wf := none
  w1 := none
  eis := { EisS.zero with pt := eisPt }
  upd := none

/-- A valid step begins at this boundary (R345, R350, R753): its entry opens unless a gap opened it, its range request and
its arrivals are made, its bank comes into force, and its setpoint is formed. `cnt` is its queue count. -/
def State.beginStep (s : State) (c : Ch) (cnt : Nat) (d : StepDesc) (gap : Nat) (gapEntry : Bool) : State :=
  let s := s.commitIf (lateStep c)
  let l := (s.chan c).loop
  let closed := l.closed
  let op := d.op.toNat
  let s := if closed then s else s.updSeq c (fun x => { x with
    rate := 0, vref := none, xset := none, vref0 := none, xset0 := none, short := none })
  let tgt := s.instant c d
  -- the target that the ended step would have had in this tick never came into force (R352)
  let s := s.updSeq c (fun x => { x with vref := x.vref0, xset := x.xset0 })
  let tss := if d.tSs = 0 then s.rd (CH_SCFG.T_SS c) else d.tSs.toNat
  let r := Run.start d (s.posOf (cq c) cnt) s.per closed tss gap gapEntry tgt l.icmd0
    (if op = 10 then s.eisPt d.x2.toNat else 1)
  let s := s.updSeq c (fun x => { x with
    st := .active, why := 0, run := some r, cur := cnt, armed := none, prearm := false, resume := false
    gapT := 0, lkind := if isDrive op then d.kind else x.lkind, rate := if d.slew = 0 then x.rate else d.slew.toNat })
  let s := if gapEntry then s else (s.ledger c (fun g => g.opens s.now)).wr (CH_MSTAT.SAR_SUB c) 0
  let s := if d.mrange.toNat < 4 then s.rangeReq c (Fin.ofNat 4 d.mrange.toNat) false else s
  let s := (stepTags d).foldl State.tagArrive s
  let s := s.bankTo c d
  let s :=
    if isDrive op ∧ d.kind ≠ 0 then
      let lim := d.outerLim
      let i := if closed then clampI l.icmd0 lim.1 lim.2 else 0
      s.updLoop c (fun l => { l with oCmd := i, out1 := none, out2 := none })
    else s
  let s := if isDrive op && !closed && d.op ≠ 9 then s.softStart c d else s
  let s := if isDrive op || closed then s else s.quietOff c
  (s.startGates c).formSetpoint c

/-! ### Transitions -/

/-- A descriptor is an UPDATE (R358). -/
def PreDesc.isUpdate (p : PreDesc) : Bool := decide (((wAt p.words 0).extractLsb' 0 8).toNat = 19)

/-- The count of the step that lies `n` steps beyond the first of a prefetched list whose first count is `base`, UPDATEs
not counted, and its descriptor if it is prefetched (R358, R392). -/
def stepTarget : List PreDesc → Nat → Nat → Nat × Option PreDesc
  | [], base, n => (base + n, none)
  | p :: t, base, n =>
    if p.isUpdate then stepTarget t (base + 1) n
    else match n with
      | 0 => (base, some p)
      | m + 1 => stepTarget t (base + 1) m

/-- The count of the first prefetched descriptor of a channel: that after the running step. -/
def State.preBase (s : State) (c : Ch) : Nat := (s.seq c).cur + 1

/-- How many steps an action passes over (R436). -/
def actSkip (a : Byte) : Nat := if a.toNat / 16 = 1 then a.toNat % 16 else 0

/-- An action is STOP. -/
def actStop (a : Byte) : Bool := a = 0x20

/-- The prefetched descriptors up to a count are passed: an UPDATE completes with REVOKED (R357), a skipped step with
nothing (R392); all are retired. -/
def State.passTo (s : State) (c : Ch) (tgt : Nat) : State :=
  let base := s.preBase c
  let n := tgt - base
  let pre := (s.subq (cq c)).pre
  let s := ((pre.take n).zipIdx).foldl (fun s (p, i) =>
    if p.isUpdate then s.updNotice (cq c) (base + i) rREVOKED 0 else s) s
  let s := s.updQ (cq c) (fun q => { q with pre := q.pre.drop n })
  let s := s.retireTo (cq c) tgt
  s.updSeq c (fun x => { x with cur := tgt - 1 })

/-- The first prefetched descriptor leaves the prefetch: it becomes the running step. -/
def State.popPre (s : State) (c : Ch) : State := s.updQ (cq c) (fun q => { q with pre := q.pre.drop 1 })

/-- A step gap opens (R73, R74, R305): the channel holds zero current, the entry of the step that follows opens. The
target that the ended step would have had in this tick never came into force (R352). -/
def State.openGap (s : State) (c : Ch) : State :=
  let s := s.updSeq c (fun x => { x with
    st := .gap, armed := none, prearm := false, gapT := 0, vref := x.vref0, xset := x.xset0 })
  let s := (s.ledger c (fun g => g.opens s.now)).wr (CH_MSTAT.SAR_SUB c) 0
  s.zeroSetpoint c

/-- A channel whose step ended without a failure enters HOLD (R332): where its loop is closed it first brings its current
to zero under its loop, and the gates go off and `ISOn` opens after it (R152). DESIGN CHOICE (log entry 120): that ramp
is linear over the soft-start length `len` of the ended step, as R350 has it. -/
def State.holdAfter (s : State) (c : Ch) (why len : Nat) : State :=
  let l := (s.chan c).loop
  if l.closed then
    (s.updSeq c (fun x => { x with
      st := .hold, why := why, run := none, armed := none, prearm := false, resume := false, gapT := 0, late := none
      wind := some (len, 0, l.icmd0) })).formSetpoint c
  else s.enterHold c why

/-- A descriptor reached while invalid does not run: FAULT with STEP_INVALID, HOLD (R338), after the ramp to zero where the
loop of the ended step, of soft-start length `len`, is closed (R152); a gap holds zero current already. -/
def State.invalidStep (s : State) (c : Ch) (cnt op len : Nat) : State :=
  let gap := decide ((s.seq c).st = .gap)
  let s := if gap then s.ledger c Ledger.withdraw else s
  let s := s.notice (.chan c) (cq c) cnt rFAULT op 0xFFFF dINVALID
  let s := s.retireTo (cq c) (cnt + 1)
  (if gap then s.enterHold c 2 else s.holdAfter c 2 len).updSeq c (fun x => { x with cur := cnt })

/-- A step may begin now: SEQ found it valid, and what only its start decides holds (R372, R493). -/
def State.startOk (s : State) (c : Ch) (d : StepDesc) (ok : Bool) : Bool :=
  ok && (d.op ≠ 10 || s.eisFits c d) && s.profOk c d && d.op ≠ 19

/-- Begin a step that a transition or the queue head has reached, or end it as invalid (R338). -/
def State.takeDesc (s : State) (c : Ch) (cnt : Nat) (d : StepDesc) (ok : Bool) (gap : Nat) (gapEntry : Bool) (len : Nat) :
    State :=
  if s.startOk c d ok then s.beginStep c cnt d gap gapEntry else s.invalidStep c cnt d.op.toNat len

/-- The action, and the completion's action byte, of the reason of an ending (R392, R406). -/
def Run.action (r : Run) (reason : Nat) : Byte :=
  if reason < 4 then (r.desc.ec (Fin.ofNat 4 reason)).action
  else if reason = rTIMEOUT ∨ reason = rDERATED then r.desc.toAct
  else 0xFF

/-- Records of a completion fit in the CPQ after those that wait (R450, R469). -/
def State.stepRoom (s : State) (r : Run) : Bool := s.cpqRoom (if r.desc.op = 10 then 3 else 2)

/-- The ended step's entry closes with the last tick of the step and its completion enters the buffer. -/
def State.finishStep (s : State) (c : Ch) (r : Run) (reason : Nat) (act : Byte) (next : Nat) : State :=
  let s := s.ledger c (fun g => g.closes reason (s.now - 1))
  let s := s.postStep c r reason act.toNat next 0
  let s := if r.desc.op = 31 ∨ (r.desc.op = 18 ∧ r.desc.x0 = 1) then s.gangDissolve c else s
  s.updSeq c (fun x => { x with run := none })

/-- An UPDATE leaves the head of the queue with a notice (R354 to R357). While a step runs, its descriptor is retired with
it, so that `DONE` does not pass the running step (R417). -/
def State.endUpdate (s : State) (c : Ch) (cnt reason detail : Nat) : State :=
  let q := cq c
  let s := s.updNotice q cnt reason detail
  let s := if (s.subq q).pre.head?.any PreDesc.isUpdate then s.popPre c else s
  let s := if (s.seq c).run.isSome then s else s.retireTo q (cnt + 1)
  s.updSeq c (fun x => { x with cur := cnt })

/-- An UPDATE in progress completes with REVOKED when its step ends (R407). -/
def State.dropUpd (s : State) (c : Ch) (r : Run) : State :=
  match r.upd with
  | none => s
  | some u => s.endUpdate c u.cnt rREVOKED 0

/-- What follows a step whose end `e` has its boundary (R55, R72, R73, R392, R398, R407): its completion, then the next
step, a gap, or HOLD. `late`: the transition is not issued in time, so that a gap opens in any case (R56). Without room
for its records the channel waits in HOLD with cause 4 (R469), with the notice of a missing descriptor in HOLD with
cause 3 (R468). DESIGN CHOICE (log entry 157): it waits so too while its slots hold an earlier completion, a case that
R471 calls impossible. An END that its timeout ends follows `TO_ACT` as every step (R387, R394). -/
def State.endAt (s : State) (c : Ch) (r : Run) (e : Ending) (late : Bool) : State :=
  let act := r.action e.reason
  let blocked := !s.stepRoom r || s.slotsHeld c
  let hold (s : State) (why : Nat) : State := s.holdAfter c why r.ssLen
  if e.reason = rREVOKED then hold ((s.finishStep c r e.reason 0xFF 0xFFFF).dropUpd c r) 8
  else if r.desc.op = 31 ∧ e.reason = 0 then
    let s := (s.finishStep c r e.reason act 0xFFFF).dropUpd c r
    if blocked then hold s 4 else s.updSeq c (fun x => { x with st := .idle, armed := none })
  else if actStop act then hold ((s.finishStep c r e.reason act 0xFFFF).dropUpd c r) 1
  else
    let armed := (s.seq c).armed
    let ended := (s.seq c).cur
    let t := s.dropUpd c r
    let (tgt, p) := stepTarget (t.subq (cq c)).pre (t.preBase c) (actSkip act)
    let s := (s.finishStep c r e.reason act (s.posOf (cq c) tgt)).dropUpd c r
    let s := s.passTo c tgt
    match p with
    | none => hold (s.notice (.chan c) (cq c) ended rSTARVED r.desc.op.toNat (s.posOf (cq c) tgt) 0) 3
    | some p =>
      let d := parseStep p.words
      if blocked then hold s 4
      else if late ∨ (armed ≠ some tgt ∧ s.startOk c d p.ok) then s.openGap c
      else (s.popPre c).takeDesc c tgt d p.ok 0 false r.ssLen

/-- A transition at its boundary; a failure that met the ended step there ends what follows it (R57). -/
def State.transition (s : State) (c : Ch) (late : Bool) : State :=
  match (s.seq c).run with
  | none => s
  | some r =>
    match r.ending with
    | none => s
    | some e => if e.at_ = .due then (s.endAt c r e late).lateFault c else s

/-- The channel may begin a descriptor at its queue head (R330, R331, R333): it is IDLE, or in HOLD and resumed, or
starved with `STARVE_RESUME` set, and its completions have left its slots (R471); steps run in RUN and SERVICE, while SEQ
is not halted (R763). -/
def State.ready (s : State) (c : Ch) : Bool :=
  let x := s.seq c
  (s.sys.mode = .run || s.sys.mode = .service) && s.sys.trans.isNone && !s.rb DBG_CTL.HALT_SEQ && !(x.run.any Run.failed) &&
    x.wind.isNone && (x.st = .idle || (x.st = .hold && !s.slotsHeld c && (x.resume || (decide (x.why = 3) && s.rb (CH_SCFG.STARVE_RESUME c)))))

/-- A channel that is ready begins a descriptor; a HOLD step that held it completes first (R381). -/
def State.beginReady (s : State) (c : Ch) (cnt : Nat) (d : StepDesc) (ok : Bool) : State :=
  let s :=
    match (s.seq c).run with
    | none => s
    | some r => s.finishStep c r 0 0 (s.posOf (cq c) cnt)
  s.takeDesc c cnt d ok 0 false 0

/-! ### End conditions (R387 to R392) -/

/-- The ways a step ends that are open in this tick are decided in the order of R391: the end condition with the lowest
index, the implicit end, a revoke, the recipe timer. A decision that has its boundary stands, but that of a revoke, which a
condition of its tick overtakes (R407). GANG lasts one tick (R382): its end is due at once. -/
def State.decideEnd (s : State) (c : Ch) : State :=
  let ks : List (Fin 4) := [0, 1, 2, 3]
  s.updRun c (fun r =>
    let due := r.ending.any (fun e => decide (e.at_ ≠ .decided))
    if due ∧ r.ending.any (fun e => decide (e.reason ≠ rREVOKED)) then r
    else
      match ks.find? (fun k => (bget r.ecs k).fired) with
      | some k => { r with ending := some ⟨k.val, 0, .decided⟩ }
      | none =>
        if r.impl then { r with ending := some ⟨0, 0, if r.desc.op = 18 then .due else .decided⟩ }
        else if due then r
        else if r.revoked then { r with ending := some ⟨rREVOKED, 0, .decided⟩ }
        else { r with ending := r.toFired.map (fun x => ⟨x, 0, .decided⟩) })

end Sys2Proof.Machine
end

