-- ==== Sys2Proof/Machine/Steps.lean ====
section
/-!
DEFINITION. The steps (06_formation_steps.md): the work of a tick in a running step, and the meanings of the rows of
the sequencer.
-/

namespace Sys2Proof.Machine

/-! ### The tick of a running step -/

/-- The charge of a tick of a channel with its gang (R305, R348). -/
def State.gangDq (s : State) (c : Ch) : Int := sumI ((s.members c).map (fun d => (s.chan d).met.dqInt))

/-- A window of an end condition in ticks: `param` × 10 ms (R388). -/
def Run.ecLen (r : Run) (k : Fin 4) : Nat := max 1 (r.ms ((r.desc.ec k).param.toNat * 10))

/-- V_GE and V_LE at a value: the confirmation count (R387). -/
def ecVolt (e : EndCond) (x : EcS) (v : Int) : EcS :=
  let hit := if e.code = 1 then decide (e.thr.toInt ≤ v) else decide (v ≤ e.thr.toInt)
  let n := if hit then x.cnt + 1 else 0
  { x with cnt := n, fired := x.fired || (hit && decide (max 1 e.param.toNat ≤ n)) }

/-- One end condition in the tick that ended (R387 to R390, R802); windows gather here and EC_WINDOW_END evaluates
them, housekeeping samples enter by HK_SAMPLE. -/
def State.ecTick (s : State) (c : Ch) (r : Run) (k : Fin 4) : EcS :=
  let e := r.desc.ec k
  let x := bget r.ecs k
  let l := (s.chan c).loop
  let g := (s.chan c).ledger
  let ok := l.fresh && l.vOk
  let code := e.code.toNat
  let op := r.desc.op.toNat
  if code = 1 ∨ code = 2 then
    (if op = 6 ∧ r.desc.restEval then x else if ok then ecVolt e x l.vA else x)
  else if code = 3 then
    let phased := if op = 3 then r.phase = 4 else !r.ss && l.closed
    if phased then
      let n := e.param.toNat
      let q := keep n (s.gangDq c :: x.dqs)
      let hit := decide (q.length = n) &&
        decide (((sumI q).natAbs : Int) * 1000000 ≤ (e.thr.toNat : Int) * ((n * s.tickNs : Nat) : Int))
      { x with dqs := q, fired := x.fired || hit }
    else x
  else if code = 4 then { x with fired := x.fired || decide (r.ms e.thr.toNat ≤ r.ticks) }
  else if code = 5 then { x with fired := x.fired || decide (e.thr.toNat * 1000000 ≤ g.openQ.toInt.natAbs) }
  else if code = 6 then { x with fired := x.fired || decide (e.thr.toNat * 1000000 ≤ g.openE.toInt.natAbs) }
  else if code = 7 ∨ code = 8 then
    if r.ss then x
    else
      let x := if x.n = 0 then { x with kT0 := s.kT c, kB0 := s.kBal c, t0 := r.tgt } else x
      let bad := x.bad || decide (x.kT0 ≠ s.kT c ∨ x.kB0 ≠ s.kBal c ∨ x.t0 ≠ r.tgt) || s.rb (CH_PSTAT.FB_LIMIT c)
      { x with
        n := x.n + 1, sum := if ok then x.sum + l.vA else x.sum, samples := if ok then x.samples + 1 else x.samples
        bad := bad }
  else if code = 9 then (if r.ss then x else { x with n := x.n + 1 })
  else if code = 11 then { x with fired := x.fired || s.tagBit e.thr.toNat }
  else x

/-- The voltage source of a channel and the current sources of its gang as one number (R376). -/
def State.srcCode (s : State) (c : Ch) : Nat :=
  (s.members c).foldl (fun a d => 3 * a + (s.chan d).met.src.val) (s.chan c).met.vsrc.val

/-- A DCIR window gathers a tick while the phase tick lies in it (R369). -/
def DcirWin.add (w : Option DcirWin) (lo hi pt : Nat) (v q : Int) (excl : Bool) : Option DcirWin :=
  if lo ≤ pt ∧ pt < hi then
    let a := w.getD ⟨0, 0, 0, false⟩
    some ⟨a.v + v, a.q + q, a.n + 1, a.excl || excl⟩
  else w

/-- The settle evaluation of OCV at the end of a window (R366, R367, R388). -/
def Run.ocvWindow (r : Run) (ns : Nat) : Run :=
  let x := r.ocv
  let len := max 1 (r.ms (r.desc.p16.toNat * 10))
  if x.n < len then r
  else if x.samples = 0 then { r with ocv := EcS.zero }
  else
    let m := tdiv x.sum x.samples
    match x.prev with
    | none => { r with ocv := { EcS.zero with prev := some m } }
    | some p =>
      let dv := (m - p) * 1000000000
      let span : Int := ((x.n * ns : Nat) : Int)
      let hit := decide ((dv.natAbs : Int) ≤ (r.desc.x1.toNat : Int) * span)
      let hits := if hit then x.hits + 1 else 0
      let r := { r with slope := satS 32 (tdiv dv span), ocv := { EcS.zero with prev := some m, hits := hits } }
      if 3 ≤ hits then
        { r with phase := 8, settleT := ticksMs r.per r.pt, pt := 0, sum := 0, n := 0, vMin := 0, vMax := 0 }
      else r

/-- A tick of v_tick enters the OCV measurement (R366). -/
def Run.ocvMeasure (r : Run) (v : Int) (excl : Bool) : Run :=
  if excl then r
  else { r with
    sum := r.sum + v, n := r.n + 1
    vMin := if r.n = 0 then v else min r.vMin v, vMax := if r.n = 0 then v else max r.vMax v }

/-- The counts of a running step for the tick that ended (R347, R360 to R362, R366 to R369, R375, R393, R394, R405).
`m` is the tick as metrology saw it: v_tick, excluded, and the per-tick means of EIS in µV and µA. -/
def State.runTick (s : State) (c : Ch) (r : Run) (vMean iMean : Int) : Run :=
  let x := s.chan c
  let l := x.loop
  let op := r.desc.op.toNat
  let v := x.met.vTick
  let q := s.gangDq c
  let ex := x.met.exclTick
  let was : Run := r
  let r : Run := { s.countRun c r with
    ticks := r.ticks + 1
    ssT := if r.ss ∧ l.closed then r.ssT + 1 else r.ssT
    rampT := if !isDrive op ∧ !r.off then r.rampT + 1 else r.rampT }
  if op = 6 then
    if !l.closed then r
    else
      let tOff := r.ms r.desc.x2.toNat
      let tSamp := r.ms r.desc.p16.toNat
      let inS := decide (r.phase = 6 ∧ tOff ≤ was.pt + tSamp ∧ was.pt < tOff)
      { r with pt := r.pt + 1, sum := if inS then r.sum + v else r.sum, n := if inS then r.n + 1 else r.n }
  else if op = 9 then
    if r.phase = 9 ∧ !x.stage.gates then r
    else if r.phase = 9 then
      { r with
        pt := r.pt + 1
        wf := DcirWin.add r.wf (r.tFast - r.tWin) r.tFast was.pt v q ex
        w1 := DcirWin.add r.w1 (r.tPulse - r.tWin) r.tPulse was.pt v q ex }
    else { r with pt := r.pt + 1, w0 := DcirWin.add r.w0 (r.tPre - r.tWin) r.tPre was.pt v q ex }
  else if op = 10 then
    if !r.eis.on then (if r.phase = 10 then { r with eis := { r.eis with wait := r.eis.wait + 1 } } else r)
    else
      let e := r.eis
      let nS := r.desc.p16.toNat % 256
      let nP := r.desc.p16.toNat / 256
      let inW := decide (nS * e.pt ≤ e.k ∧ e.k < (nS + nP) * e.pt)
      let cs := cosT e.k e.pt
      let sn := sinT e.k e.pt
      let clip := b2n (decide (l.iEff ≠ l.icmd))
      let src := s.srcCode c
      let src0 := if e.k = nS * e.pt then src else e.src0
      let srcC := b2n (decide (src ≠ src0))
      let fl (o : Nat) (b : Nat) (i : Nat) : Nat := if b = 1 then setBitN o i else o
      let e' := if inW then { e with
          vRe := e.vRe + vMean * cs, vIm := e.vIm - vMean * sn, iRe := e.iRe + iMean * cs, iIm := e.iIm - iMean * sn
          vSum := e.vSum + vMean
          src0 := src0, flags := fl (fl (fl e.flags clip 1) srcC 2) (b2n ex) 4 }
        else e
      { r with
        eis := { e' with k := e.k + 1 }
        phase := if nS * e.pt ≤ e.k + 1 then 8 else 7 }
  else if op = 8 then
    if r.toFired.isSome then r
    else
    let r := { r with
      pt := r.pt + 1
      hist := if r.desc.timeout = 0 then [] else keep (r.ms r.desc.x2.toNat) ((if ex then none else some v) :: r.hist) }
    if r.phase = 7 then
      let ok := l.fresh && l.vOk
      let o := r.ocv
      let r := { r with ocv := { o with
        n := o.n + 1, sum := if ok then o.sum + l.vA else o.sum, samples := if ok then o.samples + 1 else o.samples } }
      r.ocvWindow s.tickNs
    else if r.phase = 8 ∧ was.pt < r.ms r.desc.x2.toNat then r.ocvMeasure v ex
    else r
  else if op = 18 then { r with pt := if r.off then r.pt + 1 else r.pt, impl := r.impl || (r.off && decide (1 ≤ r.pt + 1)) }
  else if op = 16 then { r with impl := r.impl || s.tagBit r.desc.x0.toNat }
  else if op = 31 then { r with impl := r.impl || (r.off && decide (x.stage.iso = .opened)) }
  else r

/-- A boundary in a channel, before its rows: a decision of the last tick comes due, the running step counts the tick
that ended, its end conditions are evaluated and decided, and an UPDATE comes due (R54, R354, R391). The short check
sums its charge (R348), a gap counts (R74). -/
def State.seqTick (s : State) (c : Ch) (vMean iMean : Int) : State :=
  let s := s.updSeq c (fun x => { x with
    gapT := if x.st = .gap then x.gapT + 1 else x.gapT
    wind := x.wind.map (fun w => (w.1, w.2.1 + 1, w.2.2))
    short := if (s.chan c).loop.closed then x.short.map (fun p => (p.1 + ((s.gangDq c).natAbs : Int), p.2)) else x.short })
  match (s.seq c).run with
  | none => s
  | some r =>
    if r.failed then s
    else
      let due := r.ending.any (fun e => e.at_ = .due)
      let r := { r with
        ending := r.ending.map (fun e => { e with at_ := if e.at_ = .decided then .due else e.at_ })
        upd := r.upd.map (fun u => { u with due := true }) }
      let r := if due then r else s.runTick c r vMean iMean
      let ecs : Vector EcS 4 :=
        ⟨⟨[s.ecTick c r 0, s.ecTick c r 1, s.ecTick c r 2, s.ecTick c r 3]⟩, rfl⟩
      let s := s.updSeq c (fun x => { x with run := some (if due then r else { r with ecs := ecs }) })
      s.decideEnd c

/-- A boundary in a channel, after its counts: the ramp to zero ends, gates start, and the setpoint of the tick that
begins is formed (R152, R169, R350). -/
def State.stepBoundary (s : State) (c : Ch) : State :=
  let s := s.updSeq c (fun x => { x with
    vref0 := x.vref, xset0 := x.xset, run := x.run.map (fun r => { r with tgt0 := r.tgt, frac0 := r.frac }) })
  let s := if (s.seq c).wind.any (fun w => decide (w.1 ≤ w.2.1)) then s.stagedOpen c else s
  let s :=
    match (s.seq c).run with
    | none => s
    | some r => if !r.failed ∧ !isDrive r.desc.op.toNat ∧ !r.off ∧ r.rampLen ≤ r.rampT then s.quietOff c else s
  (s.startGates c).formSetpoint c

/-! ### Beginning and transitions -/

/-- The first prefetched descriptor of a channel. -/
def State.queueHead (s : State) (c : Ch) : Option PreDesc := (s.subq (cq c)).pre.head?

/-- STEP_BEGIN (R330, R331, R333): an IDLE or resumed channel begins the descriptor at its queue head; UPDATEs that
stand before it find no running step (R356). -/
def execStepBegin (c : Ch) (s : State) : Host.Outcome State Fault Refusal :=
  if s.ready c then
    let (tgt, p) := stepTarget (s.subq (cq c)).pre (s.preBase c) 0
    match p with
    | none => .next s
    | some p =>
      let s := s.passTo c tgt
      .next ((s.popPre c).beginReady c tgt (parseStep p.words) p.ok)
  else .next s

/-- BANK_SWAP (R55): the transition that is due is made. -/
def execBankSwap (c : Ch) (s : State) : Host.Outcome State Fault Refusal := .next (s.transition c false)

/-- SEQ_LATE (R56): a due transition is not issued; the channel holds zero current and the held ticks count as gap. -/
def execSeqLate (c : Ch) (s : State) : Host.Outcome State Fault Refusal :=
  if (s.seq c).run.any (fun r => r.ending.any (fun e => e.at_ = .due)) then
    let s := s.transition c true
    .next (s.raise 12 c)
  else .next s

/-- PREARM (R71, R338, R396): the step that the action of end condition 0 leads to is armed, if it is prefetched and
valid. -/
def execPrearm (c : Ch) (s : State) : Host.Outcome State Fault Refusal :=
  match (s.seq c).run with
  | none => .next s
  | some r =>
    let act := r.desc.ec0.action
    if r.failed || actStop act || decide (r.desc.op = 31) then .next s
    else
      let (tgt, p) := stepTarget (s.subq (cq c)).pre (s.preBase c) (actSkip act)
      match p with
      | none => .next s
      | some p =>
        if p.ok then
          .next ((s.armBank c (parseStep p.words)).updSeq c (fun x => { x with armed := some tgt, prearm := true }))
        else .next s

/-- STEP_GAP_ARM (R73 to R75): the correct step is armed and the gap ends; without it the channel is starved. -/
def execStepGapArm (c : Ch) (s : State) : Host.Outcome State Fault Refusal :=
  if (s.seq c).st = .gap then
    let s := s.condGone 12 c
    let (tgt, p) := stepTarget (s.subq (cq c)).pre (s.preBase c) 0
    match p with
    | none =>
      let s := s.ledger c Ledger.withdraw
      let s := s.notice (.chan c) (cq c) (s.seq c).cur rSTARVED 0 (s.posOf (cq c) tgt) 0
      .next (s.enterHold c 3)
    | some p =>
      let g := (s.seq c).gapT
      let s := s.passTo c tgt
      .next ((s.popPre c).takeDesc c tgt (parseStep p.words) p.ok g true 0)
  else .next s

/-- The queue count of the descriptor at a position: the first that follows the running step (R414). -/
def State.countAt (s : State) (c : Ch) (idx : Nat) : Nat :=
  let n := s.qDepth (cq c)
  let base := s.preBase c
  base + (idx % n + n - base % n) % n

/-- The prefetched descriptor of a count. -/
def State.preAt (s : State) (c : Ch) (cnt : Nat) : Option PreDesc := (s.subq (cq c)).pre[cnt - s.preBase c]?

/-- SEQ found a step descriptor valid when it prefetched it (R337); one that it has not prefetched is judged now. -/
def State.stepOk (s : State) (c : Ch) (cnt : Nat) (d : StepDesc) : Bool :=
  match s.preAt c cnt with
  | some p => if parseStep p.words = d then p.ok else s.stepValid c d
  | none => s.stepValid c d

/-- A channel takes the descriptor of a count: what stands before it is passed, and it leaves the prefetch. -/
def State.reach (s : State) (c : Ch) (cnt : Nat) : State := (s.passTo c cnt).popPre c

/-- A step command: SEQ executes the descriptor `d` at queue index `idx` as the channel's next step, when the channel is
ready for one or a gap waits for it; where a transition to that index is due, the transition is made. At any other time
nothing follows. The row gives the opcode. -/
def State.takeStep (s : State) (op : Nat) (c : Ch) (idx : Half) (d : StepDesc) : State :=
  let d := { d with op := BitVec.ofNat 8 op }
  let cnt := s.countAt c idx.toNat
  let ok := s.stepOk c cnt d
  if s.ready c then (s.reach c cnt).beginReady c cnt d ok
  else if (s.seq c).st = .gap then ((s.condGone 12 c).reach c cnt).takeDesc c cnt d ok (s.seq c).gapT true 0
  else
    match (s.seq c).run with
    | none => s
    | some r =>
      let act := (r.ending.map (fun e => r.action e.reason)).getD 0
      if (stepTarget (s.subq (cq c)).pre (s.preBase c) (actSkip act)).1 = cnt then s.transition c false else s

/-- CC (R339). -/
def execCc (c : Ch) (idx : Half) (d : StepDesc) (s : State) : Host.Outcome State Fault Refusal :=
  .next (s.takeStep 1 c idx d)
/-- CV (R340). -/
def execCv (c : Ch) (idx : Half) (d : StepDesc) (s : State) : Host.Outcome State Fault Refusal :=
  .next (s.takeStep 2 c idx d)
/-- CCCV (R341). -/
def execCccv (c : Ch) (idx : Half) (d : StepDesc) (s : State) : Host.Outcome State Fault Refusal :=
  .next (s.takeStep 3 c idx d)
/-- CP (R342). -/
def execCp (c : Ch) (idx : Half) (d : StepDesc) (s : State) : Host.Outcome State Fault Refusal :=
  .next (s.takeStep 4 c idx d)
/-- CR (R342). -/
def execCr (c : Ch) (idx : Half) (d : StepDesc) (s : State) : Host.Outcome State Fault Refusal :=
  .next (s.takeStep 5 c idx d)
/-- PULSE (R360). -/
def execPulse (c : Ch) (idx : Half) (d : StepDesc) (s : State) : Host.Outcome State Fault Refusal :=
  .next (s.takeStep 6 c idx d)
/-- REST (R365). -/
def execRest (c : Ch) (idx : Half) (d : StepDesc) (s : State) : Host.Outcome State Fault Refusal :=
  .next (s.takeStep 7 c idx d)
/-- OCV (R366). -/
def execOcv (c : Ch) (idx : Half) (d : StepDesc) (s : State) : Host.Outcome State Fault Refusal :=
  .next (s.takeStep 8 c idx d)
/-- DCIR (R368). -/
def execDcir (c : Ch) (idx : Half) (d : StepDesc) (s : State) : Host.Outcome State Fault Refusal :=
  .next (s.takeStep 9 c idx d)
/-- EIS (R374). -/
def execEis (c : Ch) (idx : Half) (d : StepDesc) (s : State) : Host.Outcome State Fault Refusal :=
  .next (s.takeStep 10 c idx d)
/-- NICHG (R343). -/
def execNichg (c : Ch) (idx : Half) (d : StepDesc) (s : State) : Host.Outcome State Fault Refusal :=
  .next (s.takeStep 11 c idx d)
/-- RAMP (R344). -/
def execRamp (c : Ch) (idx : Half) (d : StepDesc) (s : State) : Host.Outcome State Fault Refusal :=
  .next (s.takeStep 12 c idx d)
/-- WAIT (R379). -/
def execWait (c : Ch) (idx : Half) (d : StepDesc) (s : State) : Host.Outcome State Fault Refusal :=
  .next (s.takeStep 16 c idx d)
/-- HOLD (R381). -/
def execHold (c : Ch) (idx : Half) (d : StepDesc) (s : State) : Host.Outcome State Fault Refusal :=
  .next (s.takeStep 17 c idx d)
/-- GANG (R382). -/
def execGang (c : Ch) (idx : Half) (d : StepDesc) (s : State) : Host.Outcome State Fault Refusal :=
  .next (s.takeStep 18 c idx d)
/-- END (R386). -/
def execEndStep (c : Ch) (idx : Half) (d : StepDesc) (s : State) : Host.Outcome State Fault Refusal :=
  .next (s.takeStep 31 c idx d)

/-! ### UPDATE (R354 to R359) -/

/-- The fields an UPDATE may change in a step, as its mask (R339). -/
def updMask (op : Nat) : Nat :=
  if op = 1 ∨ op = 11 ∨ op = 12 then 5 else if 2 ≤ op ∧ op ≤ 5 then 7 else if op = 6 then 1 else 0

/-- The running step's descriptor after an UPDATE (R354): the masked fields replaced. -/
def updated (d u : StepDesc) : StepDesc :=
  { d with
    x0 := if u.x2.getLsbD 0 then u.x0 else d.x0
    x1 := if u.x2.getLsbD 1 then u.x1 else d.x1
    slew := if u.x2.getLsbD 2 ∧ u.slew ≠ 0 then u.slew else d.slew }

/-- An UPDATE names only fields of the running step, and values that it could take (R355). -/
def updOk (d u : StepDesc) : Bool :=
  let m := u.x2.toNat
  decide (m &&& updMask d.op.toNat = m) &&
    !(d.op = 5 && u.x2.getLsbD 0 && u.x0 = 0) && !(d.op = 11 && u.x2.getLsbD 0 && decide (u.x0.toInt ≤ 0)) &&
    !(d.op = 12 && u.x2.getLsbD 2 && u.slew = 0)

/-- UPDATE (R354 to R357): checked when it is the first descriptor after the running step; any other waits. -/
def execUpdate (c : Ch) (idx : Half) (d : StepDesc) (s : State) : Host.Outcome State Fault Refusal :=
  let d := { d with op := 19 }
  let q := cq c
  let cnt := s.preBase c
  let depth := s.qDepth q
  let ahead := (d.p16.toNat + depth - idx.toNat % depth) % depth
  if s.posOf q cnt ≠ idx.toNat % depth then .next s
  else
    let ok := s.stepOk c cnt d
    match (s.seq c).run with
    | none => .next (s.endUpdate c cnt rREVOKED 0)
    | some r =>
      if r.upd.isSome then .next s
      else if r.failed then .next (s.endUpdate c cnt rREVOKED 0)
      else if d.p16.toNat = r.idx then
        if ok && updOk r.desc d then
          .next (s.updRun c (fun r => { r with upd := some ⟨d, cnt, false⟩ }))
        else .next (s.endUpdate c cnt rFAULT dINVALID)
      else if ahead < sub16 (s.subq q).tail cnt ∨ !ok then .next (s.endUpdate c cnt rFAULT dINVALID)
      else .next (s.endUpdate c cnt rREVOKED 0)

/-- UPDATE_APPLY (R354, R359, R364): at the boundary after it was checked the UPDATE takes effect as a bank swap and
completes with END_COND0; its target starts from the instantaneous setpoint (R352). A transition due at the same
boundary comes first (R407). -/
def execUpdateApply (c : Ch) (s : State) : Host.Outcome State Fault Refusal :=
  match (s.seq c).run with
  | none => .next s
  | some r =>
    match r.upd with
    | none => .next s
    | some u =>
      if !u.due || r.failed || r.ending.any (fun e => e.at_ = .due) then .next s
      else
        let d := updated r.desc u.desc
        let m0 := u.desc.x2.getLsbD 0 || (decide (d.op = 3) && u.desc.x2.getLsbD 1)
        let tgt := s.instant c d
        let s := s.updRun c (fun r => { r with
          desc := d, upd := none, goal := d.goal
          iset := if d.op = 6 ∧ r.phase = 1 then d.x0.toInt else r.iset
          tgt0 := if m0 ∧ d.op ≠ 6 then tgt else r.tgt0, frac0 := if m0 ∧ d.op ≠ 6 then 0 else r.frac0 })
        let s := s.updSeq c (fun x => { x with
          rate := if u.desc.x2.getLsbD 2 ∧ u.desc.slew ≠ 0 then u.desc.slew.toNat else x.rate
          armed := none, prearm := false })
        let s := s.bankTo c { d with prof := (s.chan c).loop.act.slot.val }
        let s := s.endUpdate c u.cnt 0 0
        .next (s.formSetpoint c)

/-! ### Events of a running step -/

/-- Change the running step where a condition on it holds. -/
def State.runIf (s : State) (c : Ch) (p : Run → Bool) (f : Run → Run) : State :=
  s.updRun c (fun r => if !r.failed && p r then f r else r)

/-- SOFT_START_END (R347). -/
def execSoftStartEnd (c : Ch) (s : State) : Host.Outcome State Fault Refusal :=
  let s := s.runIf c (fun r => r.ss && decide (r.ssLen ≤ r.ssT)) (fun r => { r with
    ss := false, phase := if r.phase = 2 then r.runPhase else r.phase })
  .next (s.formSetpoint c)

/-- SHORT_CHECK (R348, R349): the summed charge has reached `Q_CONF`; a cell below `V_SHORT` ends the step. -/
def execShortCheck (c : Ch) (s : State) : Host.Outcome State Fault Refusal :=
  match (s.seq c).short with
  | none => .next s
  | some (sum, conf) =>
    if (conf : Int) ≤ sum then
      let s := s.updSeq c (fun x => { x with short := none })
      if decide ((s.chan c).loop.vA < (s.rd (CH_SSHORT.V_SHORT c) : Int) * 1000) then .next (s.failStep c rSHORT 0)
      else .next s
    else .next s

/-- No ending of a step has its boundary yet. -/
def Run.undue (r : Run) : Bool := r.ending.all (fun e => decide (e.at_ = .decided))

/-- STEP_TIMEOUT (R393, R394): the recipe timer has reached `TIMEOUT`. -/
def execStepTimeout (c : Ch) (s : State) : Host.Outcome State Fault Refusal :=
  let s := s.runIf c
    (fun r => r.desc.timeout ≠ 0 && decide (r.ms r.desc.timeout.toNat ≤ r.ticks) && r.toFired.isNone && !r.impl && r.undue)
    (fun r => { r with toFired := some (if r.kWas then rDERATED else rTIMEOUT) })
  .next (s.decideEnd c)

/-- PULSE_PHASE_SWITCH (R360 to R364): `T_ON` ends and the current goes to zero, or `T_OFF` ends: the rest sample is
formed, the cycle counts, and the next pulse takes `I_SET` as it then stands. Rest samples feed V_GE and V_LE with
`REST_EVAL`. -/
def execPulsePhaseSwitch (c : Ch) (s : State) : Host.Outcome State Fault Refusal :=
  let s := s.runIf c (fun r => decide (r.desc.op = 6)) (fun r =>
    if r.phase = 2 ∨ r.phase = 5 then
      if r.ms r.desc.x1.toNat ≤ r.pt then { r with phase := 6, pt := 0, ss := false, sum := 0, n := 0 } else r
    else if r.phase = 6 ∧ r.ms r.desc.x2.toNat ≤ r.pt then
      let rest := if r.n = 0 then r.rest else tdiv r.sum r.n
      let ks : List (Fin 4) := [0, 1, 2, 3]
      let ecs := if r.desc.restEval ∧ r.n ≠ 0 then
          ks.foldl (fun v k => if (r.desc.ec k).code = 1 ∨ (r.desc.ec k).code = 2 then
            bupd v k (fun x => ecVolt (r.desc.ec k) x rest) else v) r.ecs
        else r.ecs
      { r with phase := 5, pt := 0, cycles := r.cycles + 1, rest := rest, iset := r.desc.x0.toInt, ecs := ecs }
    else r)
  .next ((s.decideEnd c).formSetpoint c)

/-- OCV_PHASE_END (R366, R367): the rest phase ends after `T_MIN`; the measure phase ends after `T_MEAS`, before a timeout
that expires in the same tick. -/
def execOcvPhaseEnd (c : Ch) (s : State) : Host.Outcome State Fault Refusal :=
  let s := s.runIf c (fun r => decide (r.desc.op = 8) && r.off && r.undue) (fun r =>
    if r.phase = 0 ∧ r.ms r.desc.x0.toNat ≤ r.pt then { r with phase := 7, pt := 0, ocv := EcS.zero }
    else if r.phase = 8 ∧ r.ms r.desc.x2.toNat ≤ r.pt then { r with finished := true, impl := true }
    else r)
  .next (s.decideEnd c)

/-- DCIR_PHASE_END (R368): the pulse begins, with a soft start if the loop was open; at its end the step ends. -/
def execDcirPhaseEnd (c : Ch) (s : State) : Host.Outcome State Fault Refusal :=
  match (s.seq c).run with
  | none => .next s
  | some r =>
    if r.failed || decide (r.desc.op ≠ 9) then .next s
    else if r.phase = 9 then
      if r.tPulse ≤ r.pt then .next ((s.updRun c (fun r => { r with impl := true })).decideEnd c) else .next s
    else if r.tPre ≤ r.pt then
      let closed := (s.chan c).loop.closed
      let s := s.updRun c (fun r => { r with phase := 9, pt := 0, ss := !closed })
      let s := if closed then s else s.softStart c r.desc
      .next ((s.startGates c).formSetpoint c)
    else .next s

/-- Two tones clash: |f1 − f2| < 1 / min(W1, W2) (R377), for tone periods and windows in ticks. -/
def tonesClash (p1 w1 p2 w2 : Nat) : Bool :=
  decide ((((p1 : Int) - p2).natAbs) * min w1 w2 < p1 * p2)

/-- The tone of a step waits to begin (R378). -/
def Run.toneWaits (r : Run) : Bool := r.desc.op = 10 && r.phase = 10 && !r.eis.on && !r.failed

/-- A tone of a channel clashes with none that runs on the device (R377). -/
def State.toneFree (s : State) (c : Ch) (r : Run) : Bool :=
  allCh.all (fun d => d = c ||
    (match (s.seq d).run with
     | some x => !x.eis.on || x.failed || !tonesClash r.eis.pt (eisLen r.desc r.eis) x.eis.pt (eisLen x.desc x.eis)
     | none => true))

/-- EIS_TONE_ADMIT (R378): a waiting tone begins where it clashes with no tone that runs; of the tones that may begin at
one boundary that of the lowest channel is admitted first, one command each. -/
def execEisToneAdmit (c : Ch) (s : State) : Host.Outcome State Fault Refusal :=
  match (s.seq c).run with
  | none => .next s
  | some r =>
    let first := allCh.all (fun d => decide (c ≤ d) ||
      (match (s.seq d).run with | some x => !x.toneWaits || !s.toneFree d x | none => true))
    if r.toneWaits && s.toneFree c r && first then
      let s := s.updRun c (fun r => { r with
        phase := if r.desc.p16.toNat % 256 = 0 then 8 else 7, eis := { r.eis with on := true, k := 0 } })
      .next (s.formSetpoint c)
    else .next s

/-- EIS_WINDOW_CLOSE (R375, R376): the window closes and the step ends with END_COND0; its completion forms Z. -/
def execEisWindowClose (c : Ch) (s : State) : Host.Outcome State Fault Refusal :=
  let s := s.runIf c (fun r => r.eis.on &&
      decide ((r.desc.p16.toNat % 256 + r.desc.p16.toNat / 256) * r.eis.pt ≤ r.eis.k))
    (fun r => { r with impl := true, eis := { r.eis with on := false } })
  .next (s.decideEnd c)

/-- NICHG_HOLD_END (R343): NEG_DV and DTDT_GE start to be evaluated after `T_HOLD`; the windows of R388 run on. -/
def execNichgHoldEnd (c : Ch) (s : State) : Host.Outcome State Fault Refusal :=
  .next (s.runIf c (fun r => decide (r.desc.op = 11) && !r.armed && decide (r.ms r.desc.x1.toNat ≤ r.ticks))
    (fun r => { r with armed := true }))

/-- The evaluation of a windowed condition at the end of a window (R388, R389). `ns` is the tick period in ns. -/
def ecWindow (e : EndCond) (x : EcS) (ns : Nat) (armed : Bool) : EcS :=
  let z := { x with n := 0, sum := 0, samples := 0, bad := false }
  let span : Int := ((x.n * ns : Nat) : Int)
  let m := tdiv x.sum x.samples
  if e.code = 8 ∧ x.bad then z
  else if x.samples = 0 then { z with prev := none, hits := 0 }
  else if e.code = 8 then
    if !armed then z
    else
      let pk := match x.peak with | some p => max p m | none => m
      let h := if (e.thr.toNat : Int) ≤ pk - m then x.hits + 1 else 0
      { z with peak := some pk, prev := some m, hits := h, fired := x.fired || decide (2 ≤ h) }
  else
    match x.prev with
    | none => { z with prev := some m, hits := 0 }
    | some p =>
      let hit :=
        if e.code = 7 then
          decide ((((m - p) * 1000000000).natAbs : Int) ≤ (e.thr.toNat : Int) * span)
        else armed && decide (e.thr.toInt * span ≤ (m - p) * 60000000000)
      let h := if hit then x.hits + 1 else 0
      { z with prev := some m, hits := h, fired := x.fired || decide (2 ≤ h) }

/-- EC_WINDOW_END (R388): the window of end condition `k` is complete and is evaluated. -/
def execEcWindowEnd (c : Ch) (k : Fin 4) (s : State) : Host.Outcome State Fault Refusal :=
  let s := s.runIf c
    (fun r => ecWindowed (r.desc.ec k).code.toNat && decide ((r.desc.ec k).code ≠ 3) &&
      decide (r.ecLen k ≤ (bget r.ecs k).n))
    (fun r => { r with ecs := bupd r.ecs k (fun x => ecWindow (r.desc.ec k) x s.tickNs r.armed) })
  .next (s.decideEnd c)

end Sys2Proof.Machine
end

