-- ==== Sys2Proof/Machine/LoopLaw.lean ====
section
/-!
DEFINITION. The laws of the loop engines as functions of numbers (R208 to R217, R226 to R236, R249, R252, R253): the
full computation, the speculation, the commit, and the admission of a profile.
-/

namespace Sys2Proof.Machine

/-- A coefficient of a profile (R219). -/
def Prof.co (p : Prof) (i : Nat) : Int := (p.coef.toList).getD i 0

/-- What one computation of a law gives: the accumulator, the output, the saturation state, and the new law state. -/
structure LawOut where
  acc  : Int
  u    : Int
  sat  : Sat
  next : Law
  deriving DecidableEq, Repr

/-- The integrator after a tick with error `e`, before R217: x_I + Ki·e for PI_FF and PID (R209). `b` is the index of
the template's first coefficient. -/
def lawXi (p : Prof) (tmpl b : Nat) (l : Law) (e : Int) : Int :=
  if tmpl = 1 ∨ tmpl = 2 then l.xI + p.co (b + 1) * e else l.xI

/-- The accumulator of a template before rounding (R209); `dff` is 0 in an outer law. -/
def lawAcc (p : Prof) (tmpl b : Nat) (l : Law) (dff e : Int) : Int :=
  if tmpl = 1 then p.co b * e + lawXi p tmpl b l e + p.co (b + 2) * dff
  else if tmpl = 2 then p.co b * e + lawXi p tmpl b l e + p.co (b + 2) * (e - l.e1) + p.co (b + 3) * dff
  else if tmpl = 3 then
    p.co b * e + p.co (b + 1) * l.e1 + p.co (b + 2) * l.e2 + p.co (b + 3) * l.u1 + p.co (b + 4) * l.u2 +
      p.co (b + 5) * dff
  else
    p.co b * e + p.co (b + 1) * l.e1 + p.co (b + 2) * l.e2 + p.co (b + 3) * l.e3 + p.co (b + 4) * l.u1 +
      p.co (b + 5) * l.u2 + p.co (b + 6) * l.u3 + p.co (b + 7) * dff

/-- The sensitivity g of a template (R209). -/
def lawG (p : Prof) (tmpl b : Nat) : Int :=
  if tmpl = 1 then p.co b + p.co (b + 1)
  else if tmpl = 2 then p.co b + p.co (b + 1) + p.co (b + 2)
  else p.co b

/-- The one rounding of the accumulator (R215): (acc + 2^19) >> 20. -/
def roundAcc (acc : Int) : Int := Int.fdiv (acc + 2 ^ 19) (2 ^ 20)

/-- The saturation state of an accumulator and a new integrator (R216). -/
def lawSat (acc xi lo hi : Int) : Sat :=
  let u := roundAcc acc
  ⟨if u < lo then .low else if hi < u then .high else .none, decide (2 ^ 46 < xi.natAbs)⟩

/-- No saturation: the integration goes on (R217). -/
def Sat.free (s : Sat) : Bool := s.clamp = .none && !s.integ

/-- The end of a full computation from its accumulator and its new integrator (R215 to R217). DESIGN CHOICE (log entry
114): where `U_MIN` lies above U_hi the low bound is taken. -/
def lawEnd (tmpl : Nat) (l : Law) (lo hi e acc xi : Int) : LawOut :=
  let sat := lawSat acc xi lo hi
  let u := clampI (roundAcc acc) lo hi
  let next : Law :=
    if tmpl = 1 then (if sat.free then { l with xI := xi } else l)
    else if tmpl = 2 then (if sat.free then { l with xI := xi, e1 := e } else { l with e1 := e })
    else if sat.free then { l with e1 := e, e2 := l.e1, e3 := l.e2, u1 := u, u2 := l.u1, u3 := l.u2 }
    else l
  ⟨acc, u, sat, next⟩

/-- A full computation of a law with error `e` (R209, R215 to R217). -/
def evalLaw (p : Prof) (tmpl b : Nat) (l : Law) (dff lo hi e : Int) : LawOut :=
  lawEnd tmpl l lo hi e (lawAcc p tmpl b l dff e) (lawXi p tmpl b l e)

/-- The data values of a law shifted left by k bit lanes (R242). -/
def Law.lanes (l : Law) (k : Nat) : Law :=
  ⟨l.xI * 2 ^ k, l.e1 * 2 ^ k, l.e2 * 2 ^ k, l.e3 * 2 ^ k, l.u1 * 2 ^ k, l.u2 * 2 ^ k, l.u3 * 2 ^ k⟩

/-- The full law in the checker's 56-bit datapath with its data shifted by k lanes, shifted back (R242). -/
def checkLaw (p : Prof) (l : Law) (dff lo hi e : Int) (k : Nat) : LawOut :=
  let back (x : Int) : Int := Int.fdiv (wrapS 56 x) (2 ^ k)
  let m := l.lanes k
  lawEnd p.tmpl l lo hi e (back (lawAcc p p.tmpl 0 m (dff * 2 ^ k) (e * 2 ^ k))) (back (lawXi p p.tmpl 0 m (e * 2 ^ k)))

/-- The second pass of a slot for an error `y`: from the checker's own checkpoint, or COLD without one (R242). -/
def checkOut (p : Prof) (ck : Option Ckpt) (swapped : Bool) (dff lo hi y : Int) (k : Nat) : LawOut :=
  match ck with
  | none => checkLaw p Law.zero dff lo hi y k
  | some c => if swapped then checkLaw p c.law c.dff lo hi y k else checkLaw p c.law c.dff c.uLo c.uHi y k

/-- The saturation state as a flag word holds it (R216). -/
def Sat.code (s : Sat) : Nat :=
  (match s.clamp with | .none => 0 | .low => 1 | .high => 2) + 4 * b2n s.integ

/-- The compare lanes of R243: compare value, saturation state and every new state value. -/
def LawOut.lanes (o : LawOut) : List Int :=
  [o.u, o.sat.code, o.next.xI, o.next.e1, o.next.e2, o.next.e3, o.next.u1, o.next.u2, o.next.u3]

/-- Invert a bit of a number in two's complement. -/
def flipBit (x : Int) (b : Nat) : Int := if Int.fmod (Int.fdiv x (2 ^ b)) 2 = 0 then x + 2 ^ b else x - 2 ^ b

/-- What the compare lanes of the checker show: the port of R247 inverts one bit. -/
def LawOut.shown (o : LawOut) (port : Option LaneBit) : List Int :=
  match port with
  | none => o.lanes
  | some p => o.lanes.modify p.lane.val (fun x => flipBit x p.bit.val)

/-- A commit from a checkpoint with error `y` (R229, R230): the speculative accumulator and states corrected by their
sensitivities. -/
def commitLaw (p : Prof) (tmpl : Nat) (k : Ckpt) (y : Int) : LawOut :=
  let d := y - k.yHat
  let acc := k.accSpec + k.g * d
  let sat := lawSat acc (lawXi p tmpl 0 k.law y) k.uLo k.uHi
  let u := clampI (roundAcc acc) k.uLo k.uHi
  let free := k.sat.free
  let hist := free && decide (tmpl ≠ 1 ∧ tmpl ≠ 2)
  let l := k.spec
  ⟨acc, u, sat, { l with xI := l.xI + k.hX * d, e1 := l.e1 + k.hE * d, u1 := if hist then u else l.u1 }⟩

/-- The sensitivities h of x_I and of e1 to the error (R228), 0 for a state that does not follow it (R217). -/
def lawH (p : Prof) (sat : Sat) : Int × Int :=
  let integ := decide (p.tmpl = 1 ∨ p.tmpl = 2)
  (if sat.free && integ then p.co 1 else 0, if p.tmpl = 2 ∨ (sat.free && !integ) then 1 else 0)

/-- The speculation for a predicted error (R228), as the checkpoint that R236 lists. -/
def speculate (p : Prof) (slot : Fin 8) (bank : Bool) (l outer : Law) (oSat : Sat)
    (dff lo hi yHat rHat iHat mA mB : Int) : Ckpt :=
  let o := evalLaw p p.tmpl 0 l dff lo hi yHat
  let h := lawH p o.sat
  { slot := slot, bank := bank, law := l, dff := dff, uLo := lo, uHi := hi, yHat := yHat, rHat := rHat, iHat := iHat
    mA := mA, mB := mB, accSpec := o.acc, g := lawG p p.tmpl 0, spec := o.next, hX := h.1, hE := h.2, sat := o.sat
    outer := outer, outerSat := oSat }

/-- The clamp bounds of a profile (R134, R215): `nPer` steps per PWM period, `dead` the two dead times in 2 ns. -/
def uBounds (p : Prof) (nPer dead : Nat) : Int × Int :=
  ((p.uMin : Int), min (p.uMax : Int) ((nPer : Int) - ((dead + 20) * 64 : Nat)))

/-- The feed-forward on-time (R212). -/
def dFf (v : Int) (nPer : Nat) (vb : Int) : Int :=
  if v ≤ 0 ∨ vb ≤ 0 then 0 else min (2 ^ 20 - 1) (rdiv (v * nPer) vb)

/-- The predicted sample (R226). -/
def predictI (p : Prof) (mA mB u0 u1 : Int) : Int :=
  satS 24 (rdiv (p.co 8 * mA + p.co 9 * mB + p.co 10 * u0 + p.co 11 * u1) (2 ^ 20))

/-- The command of a transform in µA (R211, R342); `k` is the kind. -/
def transform (k : Nat) (tgt v : Int) : Int :=
  if v ≤ 10000 then 0
  else if k = 2 then tdiv (tgt * 1000000) v
  else tdiv (-(v * 1000000)) tgt

/-- The shares of a gang's members in µA, the leader's first (R249): `is` are their currents of the tick before. -/
def gangShares (ks ig : Int) (is : List Int) : List Int :=
  let n : Int := is.length
  let tot := sumI is
  let rest := (is.drop 1).map (fun i => rdiv (ig * 2 ^ 20 + ks * (tot - n * i)) (n * 2 ^ 20))
  (ig - sumI rest) :: rest

/-! ### Admission (R251 to R254, R801) -/

/-- N_commit apart, the cycle counts of a template: N_state, N_rb, N_chk, N_pre (R251). -/
def tmplCost (t : Nat) : Nat :=
  if t = 1 then 8 + 80 + 40 + 44 else if t = 2 then 10 + 116 + 56 + 68 else if t = 3 then 12 + 150 + 72 + 90
  else 14 + 210 + 104 + 120

/-- N_out of an outer template. -/
def outerCost (t : Nat) : Nat :=
  if t = 0 then 0 else if t = 1 then 40 else if t = 2 then 50 else if t = 3 then 60 else 84

/-- W of a profile (R252). -/
def Prof.cost (p : Prof) : Nat :=
  tmplCost p.tmpl + outerCost p.outer + (if p.xform = 0 then 0 else 30) + 20 + 8 + (if p.gangOk then 16 else 0)

/-- C_slot at a tick period (R45). -/
def cSlot (per : Nat) : Nat := 4 * (per / 16)

/-- A profile passes the cycle check at a tick period (R252). -/
def Prof.fits (p : Prof) (per : Nat) : Bool := decide (p.cost ≤ cSlot per)

/-- Number of e-coefficients and a-coefficients of a template; PI_FF and PID have an integrator. -/
def tmplE (t : Nat) : Nat := if t = 1 then 2 else if t = 4 then 4 else 3
/-- Number of a-coefficients. -/
def tmplA (t : Nat) : Nat := if t = 3 then 2 else if t = 4 then 3 else 0

/-- The sum of R253 for a law whose coefficients begin at `b`; `kff` says whether it has the Kff term, and the a-terms
weigh 2^`aw`. -/
def rangeSum (p : Prof) (t b : Nat) (kff : Bool) (aw : Nat) : Nat :=
  let e := (List.range (tmplE t)).map (fun i => (p.co (b + i)).natAbs * 2 ^ 23)
  let a := (List.range (tmplA t)).map (fun i => (p.co (b + tmplE t + i)).natAbs * 2 ^ aw)
  let f := if kff then (p.co (b + tmplE t + tmplA t)).natAbs * 2 ^ 20 else 0
  e.sum + a.sum + f + 2 ^ 46

/-- The headroom check (R253). -/
def Prof.inRange (p : Prof) : Bool :=
  decide (rangeSum p p.tmpl 0 true 20 < 2 ^ 47) && decide ((lawG p p.tmpl 0).natAbs * p.tw < 2 ^ 44) &&
    (p.outer = 0 || decide (rangeSum p p.outer 12 false 23 < 2 ^ 47))

/-- Unused coefficient positions are 0 (R219). -/
def Prof.unusedZero (p : Prof) : Bool :=
  let inner := tmplE p.tmpl + tmplA p.tmpl + 1
  let outer := if p.outer = 0 then 0 else tmplE p.outer + tmplA p.outer
  (List.range 32).all (fun i =>
    decide (i < inner) || (decide (8 ≤ i) && decide (i < 12)) || (decide (12 ≤ i) && decide (i < 12 + outer)) ||
      decide (i = 20) || decide (p.co i = 0))

/-- The result of judging a profile, in the codes of `QD_PCMD.RESULT` (R254, R801); `rsv`: a reserved bit of its header
words is 1. `PROFILE_BUSY` is judged after these. -/
def Prof.judge (p : Prof) (rsv : Bool) (per : Nat) : Nat :=
  if rsv || decide (p.tmpl = 0 ∨ 4 < p.tmpl) || decide (4 < p.outer) || decide (p.xform = 3) ||
      decide (p.outer ≠ 0 ∧ p.xform ≠ 0) || decide (p.tw = 0) || decide (p.feTime = 0) || !p.unusedZero then 4
  else if !p.inRange then 3
  else if !p.fits per then 1
  else 0

end Sys2Proof.Machine
end

