-- ==== Sys2Proof/Machine/LoopEngine.lean ====
section
/-!
DEFINITION. The loop engines at work (04_loop_engines.md): the SAR samples, the slot of a channel with its commit,
rollback, second pass, prediction and shares, the load instant, supervision, profiles and the trace.
-/

namespace Sys2Proof.Machine

/-! ### The SAR path (R214, R279, R284) -/

/-- The gain (as G − 1 in 0.01 ppm) and offset in nV of a channel's current SAR: OTP, and the fit of R284 while
`SAR_TRACK` is set. -/
def State.sarCal (s : State) (c : Ch) : Int × Int :=
  let o := Config.otpSar c.val
  if s.rb MET_CFG.SAR_TRACK then (o.1 + bget s.met.sarGain c, o.2 + bget s.met.sarOfs c) else o

/-- The shunt voltage of a raw current reading in nV, in units of 10^-15 nV after both gains (R279). -/
def State.sarX (s : State) (c : Ch) (raw : Int) : Int :=
  let k := s.sarCal c
  (10000000 + s.rdS (CH_MTRIM.GAIN c)) *
    ((100000000 + k.1) * (raw - k.2) - 100000000 * s.rdS (CH_MTRIM.OFS c))

/-- A raw current reading in input LSB (R213, R214). -/
def State.sarLsb (s : State) (c : Ch) (raw : Int) : Int :=
  satS 24 (rdiv (s.sarX c raw * 2 ^ 22) (25000000000000000000000 * 2 ^ s.rd (CH_MCFG.CRANGE c)))

/-- A raw current reading in nA. -/
def State.sarNa (s : State) (c : Ch) (raw : Int) : Int :=
  rdiv (s.sarX c raw) ((s.rd (CH_RSHUNT.RSHUNT c) : Int) * 1000000)

/-- A raw voltage reading in µV (R279). -/
def State.sarUv (s : State) (c : Ch) (raw : Int) : Int :=
  let k := Config.otpSarV c.val
  let kel : Int := if s.rb (CH_SENSE.KEL_EN c) then 2 * s.rd (CH_RKEL.RKEL c) else 0
  satS 24 (rdiv ((100000000 + k.1) * (raw - k.2) - 100000000 * kel) 100000000000)

/-- Widen a peak pair by a sample. -/
def peakMax (m : Option Int) (x : Int) : Option Int := some (match m with | some a => max a x | none => x)
/-- Widen the low end of a peak pair. -/
def peakMin (m : Option Int) (x : Int) : Option Int := some (match m with | some a => min a x | none => x)

/-- SAR_SAMPLE (R41, R42): `v` and `i` are the raw results in nV at the converters' inputs. The first sample A of a tick
is the control sample (R43). DESIGN CHOICE (log entry 115): with two PWM periods in a tick m_B is the last sample B
(R226). A current beyond s24 saturates (log entry 113). Peaks leave out flagged samples (R318). -/
def execSarSample (c : Ch) (isB : Bool) (v i : Int) (s : State) : Host.Outcome State Fault Refusal :=
  let x := s.chan c
  let lsb := s.sarLsb c i
  let na := s.sarNa c i
  let uv := s.sarUv c v
  let pulsed := x.stage.pulse.isSome
  let flagged := pulsed || x.met.exclTick
  let first := !isB && !x.loop.fresh
  let s := s.updLoop c (fun l =>
    if isB then { l with mB := lsb }
    else if first then { l with iA := lsb, vA := uv, fresh := true, vOk := !flagged }
    else l)
  let s := s.updMet c (fun m => { m with sarSum := m.sarSum + na, sarN := m.sarN + 1, pulsed := m.pulsed || pulsed })
  let ua := rdiv na 1000
  let s :=
    if flagged then s
    else s.updTlm c (fun t => { t with
      iMax := peakMax t.iMax ua, iMin := peakMin t.iMin ua, vMax := peakMax t.vMax uv, vMin := peakMin t.vMin uv })
  let s := { s with saf := { s.saf with
    iPeak := bupd s.saf.iPeak c (fun p => max p ua.natAbs), vPeak := bupd s.saf.vPeak c (fun p => max p uv) } }
  .next (if kelInside uv && !pulsed then s.condGone 6 c else s)

/-! ### The trace (R255 to R262) -/

/-- Store a trace entry; an entry of 0 is not listed. -/
def trIns (t : List TrEnt) (e : TrEnt) : List TrEnt :=
  let rest (l : List TrEnt) : List TrEnt := l.filter (fun x => !(x.probe = e.probe && x.index = e.index))
  let before (x : TrEnt) : Bool := x.probe < e.probe || (x.probe = e.probe && x.index < e.index)
  let l := rest t
  if e.value = 0 then l else l.takeWhile before ++ [e] ++ l.dropWhile before

/-- What the nodes of R257 show of a slot. -/
structure TrVals where
  r     : Int
  i     : Int
  iHat  : Int
  err   : Int
  prop  : Int
  xI    : Int
  uPre  : Int
  u     : Int
  flags : Int
  drive : Int
  outer : Int
  v     : Int
  ev    : Int
  share : Int
  vb    : Int
  deriving DecidableEq, Repr

/-- Bits [43:12] of an accumulator value, saturated (R257, R258). -/
def accBits (x : Int) : Int := satS 32 (Int.fdiv x 4096)

/-- The entry of a node (R257). -/
def TrVals.node (t : TrVals) (n : Nat) : Int :=
  match n with
  | 1 => t.r | 2 => t.i | 3 => t.iHat | 4 => t.err | 5 => accBits t.prop | 6 => accBits t.xI | 7 => satS 32 t.uPre
  | 8 => t.u | 9 => t.flags | 10 => t.drive | 11 => t.outer | 12 => t.v | 13 => t.ev | 14 => t.share | 15 => t.vb
  | _ => 0

/-- The tick in `QD_TRTICK`. -/
def State.trTick (s : State) (q : Quad) : Nat := s.rd (QD_TRTICKL.TICK_LO q) + 2 ^ 32 * s.rd (QD_TRTICKH.TICK_HI q)

/-- Probes write: capture runs, and after a trigger `POST` entries are not yet written (R259). -/
def State.trRuns (s : State) (q : Quad) : Bool :=
  s.rb (QD_TRCTL.EN q) &&
    (s.rd (QD_TRSTAT.STATE q) = 1 ||
      (s.rd (QD_TRSTAT.STATE q) = 2 && (s.trTick q = s.now || decide (0 < (bget s.qd q).post))))

/-- The probes that select a channel write their entries (R255, R256). -/
def State.trWrite (s : State) (c : Ch) (t : TrVals) : State :=
  let q := quadOf c
  let ps := (List.finRange 8).filter (fun p =>
    decide (s.rd (QD_TRSEL.CHAN q p) = c.val % 4) && decide (1 ≤ s.rd (QD_TRSEL.NODE q p) ∧ s.rd (QD_TRSEL.NODE q p) ≤ 15))
  if s.trRuns q && !ps.isEmpty then
    let s := ps.foldl (fun s p => s.updQd q (fun x => { x with
      trace := trIns x.trace ⟨p.val, s.now % 4096, t.node (s.rd (QD_TRSEL.NODE q p))⟩ })) s
    let s := (s.updQd q (fun x => { x with wrote := true })).wr (QD_TRSTAT.WIDX q) (s.now % 4096)
    if s.rd (QD_TRSTAT.STATE q) = 1 then
      (s.wr (QD_TRTICKL.TICK_LO q) s.now).wr (QD_TRTICKH.TICK_HI q) (s.now / 2 ^ 32)
    else s
  else s

/-- The flag words that this tick's slot has written show the value withheld (R246, R258). -/
def State.trWithhold (s : State) (c : Ch) : State :=
  let q := quadOf c
  let mine (e : TrEnt) : Bool :=
    decide (e.index = s.now % 4096) && (List.finRange 8).any (fun p =>
      decide (p.val = e.probe ∧ s.rd (QD_TRSEL.CHAN q p) = c.val % 4 ∧ s.rd (QD_TRSEL.NODE q p) = 9))
  s.updQd q (fun x => { x with
    trace := x.trace.map (fun e => if mine e then { e with value := (setBitN e.value.toNat 11 : Nat) } else e) })

/-- A trigger of a source that names a channel (R260, sources 1, 2 and 5). -/
def State.trigCh (s : State) (c : Ch) (n : Nat) : State :=
  let q := quadOf c
  if s.rd (QD_TRTRIG.CHAN q) = c.val % 4 then s.traceTrig q n else s

/-! ### The slot of a channel (R45, R46) -/

/-- N_period in 31.25 ps steps (R212). -/
def State.nPer (s : State) : Nat := s.per * 64 / s.pwmPerTick

/-- The clamp bounds of a profile in a channel (R134, R215). -/
def State.uLim (s : State) (c : Ch) (p : Prof) : Int × Int :=
  uBounds p s.nPer (s.rd (CH_DT.DT_HL c) + s.rd (CH_DT.DT_LH c))

/-- How the output of a slot was formed, in the codes of R258: 0 commit, 1 rollback, 2 COLD, with the reason. -/
structure Formed where
  out    : LawOut
  how    : Nat
  reason : Nat
  iHat   : Option Int
  yHat   : Option Int
  deriving DecidableEq, Repr

/-- Step 1 of R46 for an error `y` under a profile: commit, rollback or COLD (R225, R229, R232 to R234). -/
def formOut (p : Prof) (ck : Option Ckpt) (swapped : Bool) (dff lo hi y : Int) : Formed :=
  match ck with
  | none => ⟨evalLaw p p.tmpl 0 Law.zero dff lo hi y, 2, 0, none, none⟩
  | some k =>
    if swapped then ⟨evalLaw p p.tmpl 0 k.law k.dff lo hi y, 1, 1, some k.iHat, some k.yHat⟩
    else if p.tw < (y - k.yHat).natAbs then
      ⟨evalLaw p p.tmpl 0 k.law k.dff k.uLo k.uHi y, 1, 2, some k.iHat, some k.yHat⟩
    else
      let o := commitLaw p p.tmpl k y
      if o.sat ≠ k.sat then ⟨evalLaw p p.tmpl 0 k.law k.dff k.uLo k.uHi y, 1, 3, some k.iHat, some k.yHat⟩
      else ⟨o, 0, 0, some k.iHat, some k.yHat⟩

/-- Following-error supervision is suspended in this tick (R241). -/
def State.feOff (s : State) (c : Ch) : Bool :=
  let l := s.leader c
  ((s.seq l).run.any (fun r => r.ss)) || (s.seq l).st = .gap || (s.chan c).loop.feSusp || s.chFaulted c

/-- The outer law or the transform of a gang or a channel in step 3 (R210, R211, R342): the new outer law, its part of
the saturation state (R216), its output in input LSB and in µA, with the limits of the active bank; none where the step
uses neither. -/
def State.outerOf (s : State) (c : Ch) (p : Prof) (cold : Bool) : Option (Law × Sat × Int × Int) :=
  match (s.seq c).run with
  | none => none
  | some r =>
    let d := r.desc
    let l := (s.chan c).loop
    let lim := (l.act.iLo, l.act.iHi)
    if !isDrive d.op.toNat ∨ d.kind = 0 then none
    else if d.kind = 1 then
      let o := evalLaw p p.outer 12 (if cold then Law.zero else l.outer) 0 (s.toLsb c lim.1) (s.toLsb c lim.2)
        (satS 24 (l.vRef - l.vA))
      some (o.next, o.sat, o.u, clampI (s.ofLsb c o.u) lim.1 lim.2)
    else
      let i := clampI (transform d.kind l.vRef l.vA) lim.1 lim.2
      some (l.outer, Sat.none, s.toLsb c i, i)

/-- The setpoint predicted for the next tick in input LSB (R227). -/
def State.rNext (s : State) (c : Ch) : Int :=
  let l := (s.chan c).loop
  let lead := s.leader c
  let i :=
    if (s.seq lead).size ≠ 1 then (if (s.seq lead).run.isNone ∧ (s.seq lead).wind.isNone then 0 else l.sh2.getD l.icmd)
    else match (s.seq c).run with | some r => (s.command c r 1).1 | none => (s.seq c).windAt 1
  s.toLsb c (effOf (s.kT c) (s.kBal c) l.iFb i)

/-- Step 3 of R46: D_ff, the outer law or transform, the shares of a gang, the prediction and the checkpoint with the
checker's copy (R210, R212, R226 to R228, R236, R242, R249). -/
def State.slotPrepare (s : State) (c : Ch) (p : Prof) (cold : Bool) : State :=
  let isMember := (s.seq c).lead.isSome
  let s :=
    if isMember then s
    else
      match s.outerOf c p cold with
      | none => s
      | some (o, os, _, ua) =>
        let s := s.updLoop c (fun l => { l with outer := o, outerSat := os, out1 := some ua })
        if os.clamp = .none then
          s.updRun c (fun r => if r.desc.op = 3 then { r with phase := 4 } else r)
        else s
  let s :=
    if isMember ∨ (s.seq c).size = 1 then s
    else
      let ms := s.members c
      let sh := gangShares (p.co 20) (s.chan c).loop.iGang (ms.map (fun m => s.ofLsb m (s.chan m).loop.iPrev))
      (ms.zip sh).foldl (fun s (m, i) => s.updLoop m (fun l => { l with sh1 := some i })) s
  let l := (s.chan c).loop
  let b := s.uLim c p
  let iHat := predictI p l.iA l.mB l.u0 l.u1
  let rHat := s.rNext c
  let k := speculate p l.act.slot l.bank l.law l.outer l.outerSat (dFf l.vA s.nPer s.met.vbSar) b.1 b.2 (satS 24 (rHat - iHat)) rHat iHat
    l.iA l.mB
  s.updLoop c (fun l => { l with ck := some k, ckB := some k })

/-- The trace values of a slot. A COLD computation has no prediction: its two entries are free values. DESIGN CHOICES: bit
[12] of the flag word says whether the supervision was suspended when the slot committed, whatever suspends it later in
the tick (log entry 145); node 0x0B shows 0 without an outer law or transform, and node 0x0E 0 outside a gang and else the
share in force in the tick, not the one that the slot computes (log entry 147). -/
def State.trOf (s : State) (c : Ch) (p : Prof) (f : Formed) (y : Int) (k : Nat) (withheld susp : Bool)
    (outer : Int) : TrVals × State :=
  let l := (s.chan c).loop
  let (fi, s) := match f.iHat with | some x => (x, s) | none => s.takeInt
  let (fe, s) := match f.yHat with | some x => (y - x, s) | none => s.takeInt
  let flags := f.how + 4 * f.reason + 16 * k + 256 * f.out.sat.code + 2048 * b2n withheld + 4096 * b2n susp
  ({ r := l.r, i := l.iA, iHat := fi, err := fe, prop := p.co 0 * y, xI := f.out.next.xI
     uPre := roundAcc f.out.acc, u := f.out.u, flags := flags, drive := (s.regWord (0x8004 + 0x100 * c.val)).toNat
     outer := outer, v := l.vA, ev := satS 24 (l.vRef - l.vA)
     share := if (s.seq (s.leader c)).size = 1 then 0 else s.toLsb c l.icmd, vb := s.met.vbSar }, s)

/-- The engine of a quad is single-stepped (R764). -/
def State.leStepped (s : State) (q : Quad) : Bool := bitN (s.rd DBG_CTL.LE_STEP) q.val

/-- The supervision of a slot (R240, R267). DESIGN CHOICE (log entry 117): the count stands while the loop is open and is 0
after FOLLOW_ERR. -/
def State.feTick (s : State) (c : Ch) (p : Prof) (y : Int) (susp : Bool) : State :=
  if susp then s
  else
    let was := (s.chan c).loop.feCnt
    let now := if p.feLimit < y.natAbs then satU 16 (was + 1) else 0
    let s := s.updLoop c (fun l => { l with feCnt := now })
    if was = 0 ∧ now ≠ 0 then s.trigCh c 5 else s

/-- A mismatch of the second pass (R244, R245): the value is withheld, the channel stops, and a second one in the quad
within 1,024 ticks raises the quad fault. DESIGN CHOICE (log entry 119): a distance of 1,024 ticks is not within. -/
def State.leCheck (s : State) (c : Ch) : State :=
  let others := (quadChs (quadOf c)).any (fun d => d ≠ c &&
    (s.chan d).loop.lastCheck.any (fun t => decide (s.clk < t + 1024)))
  let s := s.updLoop c (fun l => { l with checks := satU 4 (l.checks + 1), lastCheck := some s.clk, value := none })
  let s := s.faultStop 10 c true
  if others then s.raise 16 c else s

/-- The lane shift k of a channel's second pass in this tick (R242). -/
def State.lane (s : State) (c : Ch) : Nat := 1 + (s.now + slotOf c) % 8

/-- Step 1 of R46 in a channel under a profile, for the error of its control sample. -/
def State.formed (s : State) (c : Ch) (p : Prof) : Formed :=
  let l := (s.chan c).loop
  let b := s.uLim c p
  formOut p l.ck l.swapped (dFf l.vA s.nPer s.met.vbSar) b.1 b.2 (satS 24 (l.r - l.iA))

/-- Step 2 of R46 finds a mismatch in what step 1 formed (R243): a compare lane differs from the computation of R242 as
the checker's lanes show it (R247). -/
def State.mismatch2 (s : State) (c : Ch) (p : Prof) (f : Formed) (port : Option LaneBit) : Bool :=
  let l := (s.chan c).loop
  let b := s.uLim c p
  s.passBOn && decide (f.out.lanes ≠
    (checkOut p l.ckB l.swapped (dFf l.vA s.nPer s.met.vbSar) b.1 b.2 (satS 24 (l.r - l.iA)) (s.lane c)).shown port)

/-- CONTROL_SAMPLE_VALID (R45, R46): the slot of channel `c` for its control sample; the second pass does not run
while `PASSB_ON` is 0, and its lane shift in the flag word then stays that of the last one (log entry 146). DESIGN
CHOICES: e and i beyond s24 saturate (log entry 113); u1 of the predictor
is 0 after a COLD computation (log entry 116); the live contents of the slot are used while the loop is still open, and
with an empty slot nothing is computed (log entry 118). -/
def execControlSampleValid (c : Ch) (i : SlotIn) (s : State) : Host.Outcome State Fault Refusal :=
  let s := match i.vb with | some v => { s with met := { s.met with vbSar := v } } | none => s
  let l := (s.chan c).loop
  if !l.fresh || l.done || s.leStepped (quadOf c) then .next s
  else if !(s.chan c).stage.gates then .next (s.updLoop c (fun l => { l with done := true, last := 3 }))
  else
    match s.profAt c l.act.slot with
    | none => .next (s.updLoop c (fun l => { l with done := true }))
    | some p =>
      let y := satS 24 (l.r - l.iA)
      let f := s.formed c p
      let cold := l.ck.isNone
      let susp := s.feOff c
      let bad := s.mismatch2 c p f i.port
      let k := if s.passBOn then s.lane c else l.k
      let s := s.updLoop c (fun l => { l with
        closed := true, done := true, slot := true, value := some f.out.u, u1 := if cold then 0 else l.u0, u0 := f.out.u
        law := f.out.next, outer := if cold then Law.zero else l.outer
        outerSat := if cold then Sat.none else l.outerSat, last := f.how
        reason := if f.how = 1 then f.reason else l.reason, k := k
        rollbacks := if f.how = 1 then (l.rollbacks + 1) % 2 ^ 24 else l.rollbacks })
      let s := if f.how = 1 then s.trigCh c 1 else s
      let s := if f.how = 1 ∧ f.reason = 2 then s.trigCh c 2 else s
      let outer := match s.outerOf c p cold with | some (_, _, o, _) => o | none => 0
      let s := s.feTick c p y susp
      let (t, s) := s.trOf c p f y (s.chan c).loop.k bad susp outer
      let s := s.trWrite c t
      if bad then .next (s.leCheck c) else .next (s.slotPrepare c p cold)

/-- LE_OVERRUN (R47, R246): the slot ended before its work was done, whether or not it had committed a value. That value
is withheld, which its flag words show (R258), and the feed of the end conditions does not come. DESIGN CHOICE (log
entry 28): the second pass of a commit that the slot had made had not finished. -/
def execLeOverrun (c : Ch) (s : State) : Host.Outcome State Fault Refusal :=
  let l := (s.chan c).loop
  if l.overran || !(l.slot || ((s.chan c).stage.gates && !l.done)) || s.leStepped (quadOf c) then .next s
  else
    let s := if l.slot ∧ s.trRuns (quadOf c) then s.trWithhold c else s
    let s := s.updLoop c (fun l => { l with
      done := true, overran := true, held := true, vOk := false, value := none, overruns := satU 4 (l.overruns + 1) })
    .next ((s.raise 11 c).condGone 11 c)

/-- LOAD_INSTANT (R44, R246): the value of this tick is loaded, gates off or not (R29, R263); where it was withheld after
an overrun the channel stops. A single-stepped engine loads none (R764). -/
def execLoadInstant (c : Ch) (s : State) : Host.Outcome State Fault Refusal :=
  let l := (s.chan c).loop
  if l.held then
    let s := s.updLoop c (fun l => { l with held := false })
    .next ((s.failStep (s.leader c) rFAULT (dSrc 11)).protOpen c)
  else
    match l.value, s.leStepped (quadOf c) with
    | some u, false => .next (s.updLoop c (fun l => { l with loaded := u, value := none }))
    | _, _ => .next s

/-- FOLLOW_ERR (R240): the count exceeds `FE_TIME` of the active profile; the step of the gang ends. -/
def execFollowErr (c : Ch) (s : State) : Host.Outcome State Fault Refusal :=
  match s.profAt c (s.chan c).loop.act.slot with
  | none => .next s
  | some p =>
    if (s.chan c).loop.closed ∧ p.feTime < (s.chan c).loop.feCnt then
      .next ((s.failStep (s.leader c) rFOLLOW 0).updLoop c (fun l => { l with feCnt := 0 }))
    else .next s

/-- One slot of a single-stepped engine (R764): a full computation on the last control sample, seen by the trace
alone. -/
def State.leStepGo (s : State) (c : Ch) : State :=
  let l := (s.chan c).loop
  match s.leStepped (quadOf c), s.profAt c l.act.slot with
  | true, some p =>
    let y := satS 24 (l.r - l.iA)
    let b := s.uLim c p
    let f := formOut p none false (dFf l.vA s.nPer s.met.vbSar) b.1 b.2 y
    let outer := match s.outerOf c p true with | some (_, _, o, _) => o | none => 0
    let (t, s) := s.trOf c p f y l.k false (s.feOff c) outer
    (s.updLoop c (fun l => { l with last := 2 })).trWrite c t
  | _, _ => s

/-! ### Profiles (R218 to R222, R254, R801) -/

/-- A profile of the words of R445, and whether a reserved bit of its header words is 1. -/
def profOf (ws : List Word) : Prof × Bool :=
  let w (i : Nat) : Nat := (wAt ws i).toNat
  let h := w 0
  ({ tmpl := h % 8, outer := bitsN h 4 3, xform := bitsN h 8 2, gangOk := bitN h 12
     coef := Vector.ofFn (fun (i : Fin 32) => toS 24 (w (5 + i.val) % 2 ^ 24))
     tw := w 1 % 65536, feTime := w 1 / 65536, feLimit := w 2 % 2 ^ 24, uMin := w 3 % 2 ^ 20, uMax := w 4 % 2 ^ 20 },
   bitN h 3 || bitN h 7 || bitN h 10 || bitN h 11 || decide (2 ^ 13 ≤ h) || decide (2 ^ 24 ≤ w 2) ||
     decide (2 ^ 20 ≤ w 3) || decide (2 ^ 20 ≤ w 4))

/-- The words of the staging registers of a quad (R445). -/
def State.staged (s : State) (q : Quad) : List Word :=
  (s.image (0x9008 + 0x400 * q.val) 5) ++ s.image (0x9040 + 0x400 * q.val) 32

/-- Copy a profile into the staging registers (R220). -/
def State.stage (s : State) (q : Quad) (p : Prof) : State :=
  let s := ((s.wr (QD_PHDR.TMPL q) p.tmpl).wr (QD_PHDR.OUTER q) p.outer).wr (QD_PHDR.XFORM q) p.xform
  let s := (s.wb (QD_PHDR.GANG_OK q) p.gangOk).wr (QD_PWIN.TW q) p.tw
  let s := (s.wr (QD_PWIN.FE_TIME q) p.feTime).wr (QD_PFE.FE_LIMIT q) p.feLimit
  let s := (s.wr (QD_PUMIN.U_MIN q) p.uMin).wr (QD_PUMAX.U_MAX q) p.uMax
  (List.finRange 32).foldl (fun s i => s.wrS (QD_PCOEF.COEF q i) (p.co i.val)) s

/-- The effect of a write of `QD_PCMD` with a `CMD` (R220, R265): 1 LOAD, 2 INVALIDATE, 3 READBACK. A command written
while one is pending is ignored. -/
def State.fxPcmd (s : State) (q : Quad) (cmd slot : Nat) : State :=
  let k : Fin 8 := Fin.ofNat 8 slot
  let x := bget s.qd q
  if x.pcmd.isSome then s
  else if cmd = 1 then
    let p := profOf (s.staged q)
    (s.updQd q (fun y => { y with pcmd := some (.load k p.1 p.2 none) })).wr (QD_PCMD.RESULT q) 0xFF
  else if cmd = 2 then
    (s.updQd q (fun y => { y with pcmd := some (.invalidate k) })).wr (QD_PCMD.RESULT q) 0xFF
  else if cmd = 3 then
    match bget x.slots k with
    | some p => (s.stage q p).wr (QD_PCMD.RESULT q) 0
    | none => s.wr (QD_PCMD.RESULT q) 5
  else s

/-- The admin status of a `RESULT` code (R445, R447). -/
def profStatus (r : Nat) : Nat :=
  match r with
  | 0 => 0 | 1 => 0x09 | 2 => 0x0A | 3 => 0x0B | 4 => 0x0C | _ => 0x0D

/-- PROFILE_DECISION (R220, R221, R801): the pending load or invalidation of a quad is decided. -/
def execProfileDecision (q : Quad) (s : State) : Host.Outcome State Fault Refusal :=
  match (bget s.qd q).pcmd with
  | none => .next s
  | some (.invalidate k) =>
    let busy := s.slotBusy q k.val
    .next ((s.updQd q (fun x => { x with
      pcmd := none, slots := if busy then x.slots else bupd x.slots k (fun _ => none) })).wr (QD_PCMD.RESULT q)
        (if busy then 2 else 0))
  | some (.load k p rsv adm) =>
    let j := p.judge rsv s.per
    let res := if j = 0 ∧ s.slotBusy q k.val then 2 else j
    let s := s.updQd q (fun x => { x with
      pcmd := none, slots := if res = 0 then bupd x.slots k (fun _ => some p) else x.slots })
    let s := s.wr (QD_PCMD.RESULT q) res
    .next (match adm with | some a => s.admDone 5 a (profStatus res) res | none => s)

/-! ### Trace registers -/

/-- The effect of a write of `QD_TRCTL` (R259, R260, R268): setting `EN` starts capture, clearing it ends it, `SWTRIG`
triggers. `en` is the value before the write. -/
def State.fxTrctl (s : State) (q : Quad) (en sw : Bool) : State :=
  let s :=
    if s.rb (QD_TRCTL.EN q) && !en then s.wr (QD_TRSTAT.STATE q) 1
    else if !s.rb (QD_TRCTL.EN q) && en then s.wr (QD_TRSTAT.STATE q) 3
    else s
  if sw then s.traceTrig q 0 else s

/-- TRACE_POST_STOP (R259): `POST` entries after the trigger tick have been written. -/
def execTracePostStop (q : Quad) (s : State) : Host.Outcome State Fault Refusal :=
  if s.rd (QD_TRSTAT.STATE q) = 2 ∧ (bget s.qd q).post = 0 ∧ s.trTick q < s.now then .next (s.traceStop q)
  else .next s

/-- A read of `QD_TRDATA` advances the index, wrapping within the probe (R262). -/
def State.rdTrdata (s : State) (q : Quad) : State := s.incWrap (QD_TRADDR.INDEX q)

/-- TRACE_DATA_READ (R262): the read returns the entry at `QD_TRADDR`. -/
def execTraceDataRead (q : Quad) (s : State) : Host.Outcome State Fault Refusal :=
  .next ((s.emit (.answer [s.regWord (0x9144 + 0x400 * q.val)])).rdTrdata q)

/-- At the boundary that ends tick `t`: an entry after the trigger tick has been written (R259). -/
def State.traceTick (s : State) (q : Quad) (t : Nat) : State :=
  let after := decide (s.rd (QD_TRSTAT.STATE q) = 2) && decide (s.trTick q < t)
  s.updQd q (fun x => { x with post := if after && x.wrote then x.post - 1 else x.post, wrote := false })

/-! ### The boundary of a loop -/

/-- The loop of a channel passes a tick boundary: outer results and shares move on (R210, R249), the flags of the tick
start anew. -/
def LoopS.shift (l : LoopS) (isGang : Bool) : LoopS :=
  { l with
    icmd0 := l.iGang
    oCmd := l.out2.getD l.oCmd, out2 := l.out1, out1 := none
    icmd := if isGang then l.sh2.getD l.icmd else l.icmd, sh2 := l.sh1, sh1 := none
    iPrev := l.iA, fresh := false, done := false, slot := false, overran := false, swapped := false, feSusp := false
    fe0 := l.feCnt }

end Sys2Proof.Machine
end

