-- ==== Sys2Proof/Machine/Boot.lean ====
section
/-!
DEFINITION. Supplies, resets, BOOT and trust (02, 12): the events of the supplies and reset pins, the BOOT sequence, the
checks of a manifest, and what an accepted image does.
-/

namespace Sys2Proof.Machine

/-! ### Manifests (R718 to R723) -/

/-- Where a manifest is used (R720): a boot set, LOAD_IMAGE, ENTER_SERVICE. -/
inductive ManUse where
  | boot | load | service
  deriving DecidableEq, Repr

/-- `BIND` of a manifest. -/
def manBind (m : Manifest) : Bool := m.flags.getLsbD 2
/-- `PERSIST` of a manifest. -/
def manPersist (m : Manifest) : Bool := m.flags.getLsbD 1
/-- `ADVANCE` of a manifest. -/
def manAdvance (m : Manifest) : Bool := m.flags.getLsbD 0

/-- The types of a manifest's images in order. -/
def manTypes (m : Manifest) : List Nat := m.entries.map (fun e => e.type.toNat)

/-- A set of code images: each of 0x01 to 0x03 once (R721). -/
def isCodeSet (m : Manifest) : Bool :=
  decide (m.entries.length = 3) && [1, 2, 3].all (fun t => (manTypes m).contains t)

/-- The entries of a manifest lie apart, aligned and within `TOTAL` (R719). -/
def entriesOk (m : Manifest) : Bool :=
  m.entries.all (fun e => e.rsvOk && decide (e.offset.toNat % 64 = 0) && decide (17344 ≤ e.offset.toNat) &&
    decide (e.offset.toNat + e.length.toNat ≤ m.total.toNat)) &&
  (m.entries.zipIdx).all (fun (e, i) => (m.entries.zipIdx).all (fun (f, j) => decide (i = j) ||
    decide (e.offset.toNat + e.length.toNat ≤ f.offset.toNat) || decide (f.offset.toNat + f.length.toNat ≤ e.offset.toNat)))

/-- R718 and R719, with `TOTAL` equal to the length given. -/
def manFormat (m : Manifest) (len : Nat) : Bool :=
  m.magic = 0x4E414D59 && m.version = 1 && decide (m.auth.toNat ≤ 1) && decide (m.svn.toNat ≤ 64) &&
    decide (m.flags.toNat < 8) && decide (1 ≤ m.nimg.toNat ∧ m.nimg.toNat ≤ 4) &&
    decide (m.entries.length = m.nimg.toNat) && m.rsvOk && (manBind m || m.uid = 0) && decide (m.total.toNat = len) &&
    m.rsaExp = 65537 && entriesOk m

/-- The types a use allows, with the flags they need (R720, R721, R725). -/
def manSet (m : Manifest) (u : ManUse) (qspi : Bool) : Bool :=
  match u with
  | .boot => isCodeSet m
  | .service => manTypes m = [7] && manBind m
  | .load =>
    (isCodeSet m && manPersist m && qspi) || manTypes m = [4] ||
      ((manTypes m = [5] || manTypes m = [6] || manTypes m = [8]) && manBind m)

/-- The lengths, and the content of the images that are fixed zeros (R720). -/
def imgSize (e : ImgEntry) : Bool :=
  let n := e.length.toNat
  match e.type.toNat with
  | 1 => decide (n ≤ 393216)
  | 2 => decide (n ≤ 131072)
  | 3 => decide (n ≤ 98304)
  | 4 => n = 80
  | 5 => n = 96
  | 6 => n = 16 && e.body.all (fun b => b = 0)
  | 7 => n = 64
  | 8 => n = 4 && e.body.all (fun b => b = 0)
  | _ => false

/-- The lifecycle accepts the types under the manifest's authority (R728). -/
def State.authOk (s : State) (m : Manifest) : Bool :=
  let ts := manTypes m
  let life := s.sec.life
  if m.auth = 0 then
    if life = 0 then ts.all (fun t => (1 ≤ t && t ≤ 4) || t = 7)
    else if life = 1 then ts.all (fun t => 1 ≤ t && t ≤ 7)
    else if life = 2 then
      ts.all (fun t => 1 ≤ t && t ≤ 3) && !s.sec.revoke.getLsbD 0 && !s.sec.revoke.getLsbD 1
    else false
  else if life = 2 then ts.all (fun t => (1 ≤ t && t ≤ 4) || (6 ≤ t && t ≤ 8))
  else false

/-- The key digests of a manifest are those in OTP of its authority (R723). -/
def State.keyKnown (s : State) (m : Manifest) : Bool :=
  if m.auth = 0 then m.rsaHash = bget s.sec.keys 0 && m.slhHash = bget s.sec.keys 1
  else s.sec.ownerSet && m.rsaHash = bget s.sec.keys 2 && m.slhHash = bget s.sec.keys 3

/-- A key of the manifest's authority is revoked. -/
def State.keyRevoked (s : State) (m : Manifest) : Bool :=
  if m.auth = 0 then s.sec.revoke.getLsbD 0 || s.sec.revoke.getLsbD 1
  else s.sec.revoke.getLsbD 2 || s.sec.revoke.getLsbD 3

/-- `BOOTSEL1:0` names QSPI as a source (R710). -/
def State.qspi (s : State) : Bool := s.rd SYS_STRAP.BOOTSEL = 1 || s.rd SYS_STRAP.BOOTSEL = 2

/-- The checks of a manifest in their order: the code of the first failure, 0 for an accepted one (R723). -/
def State.checkMan (s : State) (m : Manifest) (u : ManUse) (len : Nat) : Nat :=
  if !manFormat m len then 0x01
  else if !manSet m u s.qspi then 0x02
  else if !m.entries.all imgSize then 0x03
  else if !s.authOk m then 0x04
  else if !s.keyKnown m then 0x05
  else if s.keyRevoked m then 0x06
  else if manBind m && decide (m.uid.toNat ≠ s.sec.uid) then 0x07
  else if m.svn.toNat < s.sec.rbc then 0x08
  else if !m.rsaOk then 0x09
  else if !m.slhOk then 0x0A
  else if !m.entries.all (fun e => e.digest = e.hash) then 0x0B
  else 0

/-- The digest of the image of a type. -/
def manDigest (m : Manifest) (t : Nat) : Digest :=
  ((m.entries.find? (fun e => e.type.toNat = t)).map (·.digest)).getD 0

/-- The image set that a manifest names; `slot` 0 for the host, 1 A, 2 B. -/
def imgSetOf (m : Manifest) (slot : Nat) : ImgSet :=
  ⟨m.manHash, manDigest m 1, manDigest m 2, manDigest m 3, m.svn, m.auth, m.build, manAdvance m, slot⟩

/-! ### The safety parameter set (R664) -/

/-- The ranges of the words of a set. -/
def psetRange : List (Nat × Nat) :=
  [(0, 65535), (10, 500), (10, 500), (0, 20), (0, 2147483647), (50, 5000), (1, 65535), (2000, 12000), (1000, 4800),
   (13000, 22000), (20000, 70000), (1, 4000000000), (60, 2592000), (10000, 1000000000), (50, 5000), (10, 1000),
   (0, 400000), (0, 2147483647), (0, 0)]

/-- The words of octets. -/
def bytesWords (bs : List Byte) : List Word :=
  (List.range (bs.length / 4)).map (fun i =>
    w4 (bs.getD (4 * i) 0).toNat (bs.getD (4 * i + 1) 0).toNat (bs.getD (4 * i + 2) 0).toNat (bs.getD (4 * i + 3) 0).toNat)

/-- The check of a set: 0, PSET_CRC or PSET_RANGE. -/
def psetCheck (ws : List Word) : Nat :=
  if crc32c (wordsBytes (ws.take 19)) ≠ ws.getD 19 0 then 0x13
  else if (psetRange.zipIdx).all (fun (r, i) => decide (r.1 ≤ (ws.getD i 0).toNat ∧ (ws.getD i 0).toNat ≤ r.2)) then 0
  else 0x14

/-! ### Supplies and reset pins (R107 to R128) -/

/-- Is the device parked? -/
def State.parked (s : State) : Bool := s.sys.mode = .park && s.sys.held.isNone

/-- VIN_ON (R120, R125): the always-on domain starts, `ERR_N` goes low and the bypasses stay closed. -/
def execVinOn (s : State) : Host.Outcome State Fault Refusal :=
  .next (if s.pins.vin then s
    else (({ s with pins := { s.pins with vin := true } }.wr FLT_ERRN.LOW 1).wr RING_STAT.BYPA 1).wr RING_STAT.BYPB 1)

/-- POR (R120, R127): `VIN` falls below `VIN_RET`; retention and the always-on fields are lost. -/
def execPor (s : State) : Host.Outcome State Fault Refusal :=
  .next ({ s with pins := { s.pins with vin := false } }.fullReset .por 1 0 false)

/-- BROWNOUT (R124, R308): a core rail or `VIN_OFF`; PIN reset with cause BROWNOUT. -/
def execBrownout (rail : Rail) (s : State) : Host.Outcome State Fault Refusal :=
  let s := { s with pins :=
    if rail = Rail.vin then { s.pins with vin := false } else { s.pins with rails := rail :: s.pins.rails.filter (fun r => r ≠ rail) } }
  .next (s.fullReset .pin 3 0 (rail = Rail.vaa || rail = Rail.vdda || rail = Rail.vdd))

/-- CORE_RAIL_RETURN (R122): a logic or analog rail is above its threshold again. -/
def execCoreRailReturn (rail : Rail) (s : State) : Host.Outcome State Fault Refusal :=
  .next { s with pins := { s.pins with rails := s.pins.rails.filter (fun r => r ≠ rail) } }

/-- PIN_RESET (R107): `RST_N` low for at least 1 µs. A parked device wakes at its rising edge (R103). -/
def execPinReset (s : State) : Host.Outcome State Fault Refusal :=
  let s := { s with pins := { s.pins with rstN := false } }
  .next (if s.parked then s else s.fullReset .pin 2 0 false)

/-- RST_N_RELEASE (R103, R105, R122): a parked device leaves PARK with cause PIN where its wake bit allows it. -/
def execRstNRelease (s : State) : Host.Outcome State Fault Refusal :=
  let low := !s.pins.rstN
  let s := { s with pins := { s.pins with rstN := true } }
  .next (if s.parked && low && s.rb SYS_PARK.WAKE_RST then s.fullReset .pin 2 0 false else s)

/-- PERST_N_ASSERT (R107): on the head, a WARM reset that is held. A parked head has no PCIe link. -/
def execPerstNAssert (s : State) : Host.Outcome State Fault Refusal :=
  if s.isHead then
    let s := { s with pins := { s.pins with perstN := false } }
    .next (if s.parked then s else s.fullReset .warm 8 0 false)
  else .next s

/-- PERST_N_DEASSERT (R107): the held WARM reset may end. -/
def execPerstNDeassert (s : State) : Host.Outcome State Fault Refusal :=
  .next { s with pins := { s.pins with perstN := true } }

/-- FUNCTION_LEVEL_RESET (R107): on the head, a WARM reset. -/
def execFunctionLevelReset (s : State) : Host.Outcome State Fault Refusal :=
  .next (if s.isHead && !s.parked then s.fullReset .warm 7 0 false else s)

/-- VDRV_UNDER_VOLTAGE (R123, R691): comparator 71 trips; a comparator still in its initial state blocks already and
raises nothing. -/
def execVdrvUnderVoltage (s : State) : Host.Outcome State Fault Refusal :=
  let x := s.cmpAt 71
  let s := s.updCmp 71 (fun x => { x with raw := true, filt := true, lat := x.lat || !x.filt })
  .next (if x.filt then s else s.vdrvTrip)

/-- PLL_LOCK_LOSS (R757). -/
def execPllLockLoss (s : State) : Host.Outcome State Fault Refusal :=
  .next ((s.wr SYS_CLK.LOCK 0).wr SYS_CLKERR.LOCK_LOSS 1)

/-! ### BOOT (R80, R83, R84, R709 to R717) -/

/-- A BOOT step fails: `ERR` is set and the device stays in BOOT (R83). -/
def State.bootFails (s : State) (err : Nat) : State :=
  let s := (s.wr SEC_BOOTSTAT.ERR err).wr SEC_BOOTSTAT.STATE 6
  { s with sys := { s.sys with bootFail := true } }

/-- The counter advances when the device reaches STANDBY after a full BOOT from an `ADVANCE` manifest (R727). -/
def State.advanceRbc (s : State) : State :=
  match s.sec.img with
  | some i =>
    if i.advance && !s.rb SEC_BOOTSTAT.WARMBOOT && decide (s.sec.rbc < i.svn.toNat) then
      { s with sec := { s.sec with rbc := i.svn.toNat } }
    else s
  | none => s

/-- The device enters STANDBY from BOOT or SAFE: the enable lines go high (R622, R727). -/
def State.enterStandby (s : State) : State :=
  let s := s.setMode .standby
  { s with saf := { s.saf with cen := true, ien := true, men := true } }.advanceRbc

/-- Link training is complete, or not needed (R126, R529): the device holds a position and has spliced both rings, or in
WRAPPED every ring that it can use: one whose input is in lock and not down. -/
def State.linkTrained (s : State) : Bool :=
  let a := !s.rb RING_STAT.BYPA
  let b := !s.rb RING_STAT.BYPB
  let useA := s.rb RING_STAT.LINKA && !bget s.ring.down 0
  let useB := s.rb RING_STAT.LINKB && !bget s.ring.down 1
  let spliced := if s.rd RING_STAT.STATE = 3 then (a || b) && (a || !useA) && (b || !useB) else a && b
  s.role = 3 || (s.rb RING_STAT.POS_VALID && spliced)

/-- Leave BOOT under R80; a SAFE entry triggers a dump where `TRG_SAFE` asks for it (R693). -/
def State.leaveBoot (s : State) : State :=
  if s.rb SAF_STAT.LATCH then
    let s := s.setMode .safe
    if s.rb FLT_DUMPCTL.TRG_SAFE then s.dumpTrigger 4 0xFF else s
  else s.enterStandby

/-- The sources that the end of a BLOCK reset clears (R681). -/
def State.blkClears (s : State) : State :=
  let s := allQuads.foldl (fun s q => (s.condGone 16 (chOf q 0)).clear 16 (chOf q 0)) s
  (((s.condGone 46 0).clear 46 0).condGone 56 0).clear 56 0

/-- SAF writes the over-voltage thresholds of its parameter set (R171, R633, R634), so that their comparators restart
(R691). -/
def State.safThresholds (s : State) : State :=
  let s := s.forCh allCh (fun s c => (s.wr (CH_VLIM.OV_TH c) (s.pset 8)).cmpRestart (chCmp c 2))
  ((s.wr SAF_VBLIM.OV_TH (s.pset 9)).cmpRestart 69 |>.wr MOT_VMLIM.OV_TH (s.pset 10)).cmpRestart 68

/-- The images are in force and the processors started, SAF with the parameter set in force (R664); the device leaves BOOT
once its links are trained. -/
def State.bootDone (s : State) : State :=
  let s := ((s.wr SEC_BOOTSTAT.STATE 7).wr SAF_STAT.CHECK_ON 1).safThresholds
  if s.linkTrained then s.leaveBoot else s

/-- A checked image set is loaded. `src` as `SEC_BOOTSTAT.SRC`. -/
def State.useImages (s : State) (m : Manifest) (slot src : Nat) : State :=
  let s := { s with sec := { s.sec with img := some (imgSetOf m slot) } }
  s.wr SEC_BOOTSTAT.SRC src

/-- The choice among the two slots (R713): the one with the higher `BUILD`, A on a tie, then the other. -/
def State.slotBoot (s : State) (a b : Option Manifest) : State × Bool :=
  let one (x : Option (Manifest × Nat)) : Option (Manifest × Nat) × Nat :=
    match x with
    | some (m, k) => let e := s.checkMan m .boot m.total.toNat; (if e = 0 then some (m, k) else none, e)
    | none => (none, 0x0D)
  let xa := a.map (fun m => (m, 1))
  let xb := b.map (fun m => (m, 2))
  let bFirst : Bool := match a, b with
    | some m, some n => decide (m.build.toNat < n.build.toNat)
    | none, some _ => true
    | _, none => false
  let p := if bFirst then (xb, xa) else (xa, xb)
  let r := one p.1
  match r.1 with
  | some (m, k) => (s.useImages m k k, true)
  | none =>
    let r2 := one p.2
    match r2.1 with
    | some (m, k) => (s.useImages m k k, true)
    | none => (s.wr SEC_BOOTSTAT.ERR r2.2, false)

/-- A full BOOT reaches its images (R710, R714): from the slots, or from the host once GO has brought them. -/
def State.fullBoot (s : State) (i : BootIn) : State :=
  let sel := s.rd SYS_STRAP.BOOTSEL
  if sel = 3 then s.bootFails 0x0E
  else if s.sec.img.isSome then s.bootDone
  else if sel = 0 then s.wr SEC_BOOTSTAT.STATE 5
  else
    let (s, ok) := s.slotBoot i.slotA i.slotB
    if ok then s.bootDone
    else if sel = 1 then s.bootFails (s.rd SEC_BOOTSTAT.ERR)
    else (s.wr SEC_BOOTSTAT.FALLBACK 1).wr SEC_BOOTSTAT.STATE 5

/-- INTERNAL_RESET_RELEASE (R122, R672, R709): with the supplies good and the reset pins high, the straps are sampled
and BOOT begins. -/
def execInternalResetRelease (i : StrapIn) (s : State) : Host.Outcome State Fault Refusal :=
  match s.sys.held with
  | none => .next s
  | some k =>
    let role := i.role.toNat
    if !s.pins.vin || !s.pins.rails.isEmpty || !s.pins.rstN || (!s.pins.perstN && decide (role ≠ 0)) then .next s
    else
      let warm := decide (k = .warm)
      let s := { s with
        sys := { s.sys with held := none, mode := .boot, bootFail := false, parkDone := false }
        met := { s.met with otpLoaded := true } }
      let s := (s.wr SYS_STRAP.ROLE role).wr SYS_STRAP.BOOTSEL i.bootsel.toNat
      let s := (if k = .por then s.wr SYS_RSTCAUSE.CAUSE 1 else s).blkClears
      let s := s.wr SYS_RSTCAUSE.BOOTS (satU 16 (s.rd SYS_RSTCAUSE.BOOTS + 1))
      let s := (s.wb SYS_CLK.XTAL i.xtal).wr SYS_CLK.REF (if role = 0 ∧ !i.xtal then 1 else 0)
      let s := s.wb SEC_BOOTSTAT.WARMBOOT warm
      let s := if warm then s
        else { s with sec := { s.sec with life := s.sec.lifePend.getD s.sec.life, lifePend := none } }
      let s := s.wr SEC_BOOTSTAT.STATE (if !warm ∧ i.bootsel = 0 then 5 else 1)
      let s := if role = 3 then s.wr RING_STAT.NPOS 1 else s
      let s := s.wr RING_DLY.FWD Config.fwdLatency
      .next (if i.railFail.isEmpty then s else (i.railFail.foldl (fun s n =>
        (s.wr FLT_RB.SRC n.val).wr FLT_RB.VALID 1) s).raiseDev 43)

/-- Every item of the injection test has detected what it injected (R653). -/
def injPass (i : InjIn) : Bool :=
  i.buffer && i.fetch && i.guards && i.skew && i.le.toList.all id && i.heartbeat && i.comparators && i.estop && i.readback

/-- INJECTION_TEST_DONE (R653, R654): `INJ_OK`, or an item fails: `SAF_INJ` is raised and BOOT does not complete. -/
def execInjectionTestDone (i : InjIn) (s : State) : Host.Outcome State Fault Refusal :=
  if s.sys.mode ≠ .boot ∨ s.sys.held.isSome then .next s
  else if injPass i then
    let s := { s with saf := { s.saf with injT := 0 } }
    let s := (s.wr SAF_STAT.INJ_OK 1).wr SAF_STAT.INJ_AGE 0
    .next ((s.condGone 78 0).clear 78 0)
  else .next ((s.wr SAF_STAT.INJ_OK 0).raiseDev 78)

/-- BOOT_COMPLETE (R80, R83, R711, R730): the BOOT sequence reaches its end. -/
def execBootComplete (i : BootIn) (s : State) : Host.Outcome State Fault Refusal :=
  if s.sys.mode ≠ .boot ∨ s.sys.held.isSome ∨ s.sys.bootFail then .next s
  else if s.rd SEC_BOOTSTAT.STATE = 7 then .next (if s.linkTrained then s.leaveBoot else s)
  else if s.sec.life = 3 then
    .next ({ s with sec := { s.sec with erased := true, revoke := 15 } }.bootFails 0x11)
  else if !i.selfTest || !s.rb SAF_STAT.INJ_OK then .next (s.bootFails 0x10)
  else if s.rb SEC_BOOTSTAT.WARMBOOT then
    if i.rehashOk && s.sec.img.isSome then .next s.bootDone
    else
      let s := ((s.wr SEC_BOOTSTAT.REHASH_FAIL 1).wr SEC_BOOTSTAT.ERR 0x0F).wr SEC_BOOTSTAT.WARMBOOT 0
      .next ({ s with sec := { s.sec with img := none } }.fullBoot i)
  else .next (s.fullBoot i)

/-- A host boot attempt (R714, R715): in WAIT_HOST, or once its fetch has begun, the fetched manifest is checked and
loaded; a failure returns to WAIT_HOST. -/
def State.bootGo (s : State) (m : Option Manifest) : State :=
  if s.sys.mode ≠ .boot ∨ (s.rd SEC_BOOTSTAT.STATE ≠ 5 ∧ s.rd SEC_BOOTSTAT.STATE ≠ 2) then s
  else
    let s := s.wr SEC_BOOTSTAT.STATE 5
    match m with
    | none => s.wr SEC_BOOTSTAT.ERR 0x0D
    | some m =>
      let e := s.checkMan m .boot (s.rd SEC_BOOTLEN.LEN)
      if e = 0 then (s.useImages m 0 3).wr SEC_BOOTSTAT.STATE 4
      else s.wr SEC_BOOTSTAT.ERR e

/-! ### Challenge and readout -/

/-- The effect of `SEC_CHALCTL.NEW` (R733): eight fresh words. -/
def State.newChallenge (s : State) : State :=
  let s := (List.finRange 8).foldl (fun s k =>
    let (v, s) := s.takeNat
    s.wr (SEC_CHAL.CHAL k) v) s
  s.wr SEC_CHALCTL.VALID 1

/-- A read of `SEC_DDATA` advances `WORD` (R739), wrapping after the last word of the item. -/
def State.rdDdata (s : State) : State :=
  let n := if s.rd SEC_DSEL.ITEM = 8 then 96 else 12
  s.wr SEC_DSEL.WORD ((s.rd SEC_DSEL.WORD + 1) % n)

/-- DIGEST_READ (R739). -/
def execDigestRead (s : State) : Host.Outcome State Fault Refusal :=
  .next ((s.emit (.answer [s.regWord 0x7064])).rdDdata)

end Sys2Proof.Machine
end

