-- ==== Sys2Proof/Machine/SafetyCtl.lean ====
section
/-!
DEFINITION. The safety controller (10_safety_controller.md): the safety cycle with its evaluation in pass A and its
release at the end of pass B, the contactors, SS1, the E-stop, the tray, the bus chopper and the `DRV_EN` toggle.
-/

namespace Sys2Proof.Machine

/-! ### Shared operations -/

/-- A duration in ms as ticks of the period in force. -/
def State.msT (s : State) (ms : Nat) : Nat := msTicks s.per ms

/-- A tick stamp lies at least `ms` ms back. -/
def State.since (s : State) (t : Option Nat) (ms : Nat) : Bool :=
  match t with
  | some t => decide (t + s.msT ms ≤ s.clk)
  | none => false

/-- The contactor feedback agrees with the drive (R628). -/
def State.kfbAgrees (s : State) : Bool := s.saf.kfbA = !s.saf.kdr && s.saf.kfbB = !s.saf.kdr

/-- The speed that SAF's encoder tap measures, in counts/s (R631). -/
def State.pressSpeed (s : State) : Nat := (s.rdS MOT_ESPD.SPD).natAbs

/-- A software source is found: it waits for its release (R620, R648). -/
def State.find (s : State) (n c : Nat) : State :=
  if s.saf.due.contains (n, c) then s else { s with saf := { s.saf with due := s.saf.due ++ [(n, c)] } }

/-- A software source is found where a test holds. -/
def State.findIf (s : State) (b : Bool) (n c : Nat) : State := if b then s.find n c else s

/-- A contactor fault (R628): the cause is recorded and the SF1 demand waits for its release. -/
def State.kFault (s : State) (code : Nat) : State :=
  ((s.wr SAF_KSTAT.FCAUSE code).wr SAF_KSTAT.STATE 4).find 64 0

/-- A mode in which RUN or SERVICE limits apply. -/
def State.driving (s : State) : Bool := s.sys.mode = .run || s.sys.mode = .service

/-- Some `ISOn` is not open. -/
def State.anyIso (s : State) : Bool := allCh.any (fun c => (s.chan c).stage.iso ≠ .opened)

/-! ### The parameter set -/

/-- An accepted set comes into force at a safety cycle boundary (R664). -/
def State.loadPset (s : State) (ws : List Word) : State :=
  ({ s with saf := { s.saf with pset := ws, psetNew := none } }.wr SAF_PSET.LOADED 1).safThresholds

/-! ### Inputs -/

/-- The filtered inputs of a cycle (R659): the levels and what their histories record. -/
def State.safInputs (s : State) (pins : Byte) : State :=
  let b (i : Nat) : Bool := pins.getLsbD i
  let sf7 := bitN (s.rd SAF_CAUSEV.SF) 6
  let wasOpen := s.saf.tray
  let openNow := b 6
  let iso := s.anyIso
  let f := s.saf
  let s := s.wb FLT_DRVEN.ARMED (!b 7 && (!f.drvEn || s.rb FLT_DRVEN.ARMED))
  { s with saf := { f with
    estA := b 0, estB := b 1, kfbA := b 2, kfbB := b 3, tray := openNow, drvEn := b 7
    estSeenA := f.estSeenA || (sf7 && !b 0), estSeenB := f.estSeenB || (sf7 && !b 1)
    kfbSince := if b 2 && b 3 then some (f.kfbSince.getD s.clk) else none
    trayOpen :=
      if openNow then (if wasOpen then f.trayOpen else some s.clk)
      else if s.since f.trayOpen 1000 then f.trayOpen else none
    trayIso := if openNow then (if wasOpen then f.trayIso || iso else iso) else f.trayIso } }

/-- SAF's copy of β and `RNOM` (R799): taken in STANDBY before a transition, compared elsewhere. -/
def State.ntcCopy (s : State) : State :=
  if s.sys.mode = .standby ∧ s.sys.trans.isNone then
    { s with saf := { s.saf with beta := s.rd MET_NTC.BETA, rnom := s.rd MET_NTC.RNOM } }
  else s.findIf (decide (s.saf.beta ≠ s.rd MET_NTC.BETA ∨ s.saf.rnom ≠ s.rd MET_NTC.RNOM)) 76 0

/-! ### The safety functions (R626) -/

/-- The readback of R624 finds a driver that its enable line or SAF does not command. -/
def State.readbackBad (s : State) (i : SafIn) : Bool :=
  (decide (i.gates ≠ 0) && !s.cenOn) || (i.motGate && !s.menOn) || (decide (i.iso ≠ 0) && !s.ienOn) ||
    i.kA ≠ s.saf.kdr || i.kB ≠ s.saf.kdr

/-- SF1 as far as the tray goes: open in RUN or SERVICE while an `ISOn` is closed or MEN is high. -/
def State.trayDemand (s : State) : Bool :=
  s.saf.tray && s.driving &&
    (allCh.any (fun c => decide ((s.chan c).stage.iso = .closed ∨ (s.chan c).stage.iso = .opening)) || s.menOn)

/-- SF3: three successive samples at `SF3_TMAX`, or sixteen cycles without a valid one while `ISOn` is closed. -/
def State.sf3 (s : State) (bad : BitVec 16) : State :=
  let s := s.forCh allCh (fun s c =>
    let isBad := bad.getLsbD c.val && decide ((s.chan c).stage.iso = .closed)
    { s with saf := { s.saf with tBad := bupd s.saf.tBad c (fun n => if isBad then n + 1 else 0) } })
  s.findIf (allCh.any (fun c => decide (3 ≤ bget s.saf.tOver c ∨ 16 ≤ bget s.saf.tBad c))) 66 0

/-- SF4 by plausibility (R633): a cell voltage 50 mV above the threshold whose `CMP_OV` has not tripped. -/
def State.sf4Plaus (s : State) : Bool :=
  allCh.any (fun c => decide ((s.pset 8 + 50 : Int) * 1000 < bget s.saf.vPeak c) && !(s.cmpAt (chCmp c 2)).filt)

/-- SF6 (R637): the charge of the cycle, sum × 31.25 mV × 80 ns / `SF6_RSHUNT`, enters the counters of the leader. -/
def State.sf6Count (s : State) (c : Ch) : State :=
  if (s.seq c).lead.isSome then s
  else
    let q := tdiv (sumI ((s.members c).map (fun d => bget s.saf.sf6Acc d)) * 800000) (s.pset 13)
    { s with saf := { s.saf with
      sf6Q := bupd s.saf.sf6Q c (fun x => x + q)
      sf6T := bupd s.saf.sf6T c (fun t => if 0 < q then t + 16 * s.tickNs else t) } }

/-- SF6 in every channel: the counters, and the demand and lock of a channel at its limit while its `ISOn` is closed
(R637, R639). -/
def State.sf6 (s : State) : State :=
  let s := s.forCh allCh State.sf6Count
  let s := { s with saf := { s.saf with sf6Acc := Vector.replicate 16 0 } }
  s.forCh allCh (fun s c =>
    let hit := decide ((s.pset 11 : Int) ≤ s.sf6mC c ∨ s.pset 12 ≤ s.sf6s c) && decide ((s.chan c).stage.iso = .closed)
    (s.findIf hit 15 c.val).findIf hit 69 0)

/-- SS1 (R631, R658): the limit of the mode, 0 for none. -/
def State.ss1Limit (s : State) : Option Nat :=
  if s.sys.mode = .run then (if s.pset 4 = 0 then none else some (s.pset 4))
  else if s.sys.mode = .service then some (s.pset 17)
  else none

/-- SS1: a stop begins after two successive cycles above the limit; a stop in progress is checked against 105 % of the
speed at its start (R632). -/
def State.ss1Check (s : State) : State :=
  let v := s.pressSpeed
  match s.saf.ss1 with
  | some (v0, _) => s.findIf (decide (105 * v0 < 100 * v)) 65 0
  | none =>
    let above := match s.ss1Limit with | some l => decide (l < v) | none => false
    let s := { s with saf := { s.saf with vOver := if above then s.saf.vOver + 1 else 0 } }
    s.findIf (decide (2 ≤ s.saf.vOver) && s.saf.menAt.isNone) 32 0

/-- The SERVICE current limit (R658). -/
def State.svcCurrent (s : State) : State :=
  let s := s.forCh allCh (fun s c =>
    let above := decide (s.sys.mode = .service ∧ s.pset 16 * 1000 < bget s.saf.iPeak c)
    { s with saf := { s.saf with iOver := bupd s.saf.iOver c (fun n => if above then n + 1 else 0) } })
  s.findIf (allCh.any (fun c => decide (2 ≤ bget s.saf.iOver c))) 80 0

/-- The positions that fail R663: no valid PDU for 64 ticks, another parameter set, or BOOT. The head's own position
sends no PDU to itself. -/
def State.masterFails (s : State) : List Nat :=
  (List.finRange 32).filterMap (fun p =>
    let x := bget s.ring.pdus p
    let bad := !x.got || decide (x.at_ + 64 ≤ s.clk) || decide (x.last.pset.toNat ≠ s.pset 19) || x.last.mode = 1
    if bitN (s.rd SAF_RUNSET.SET) p.val && decide (p.val ≠ s.rd RING_STAT.POS) && bad then some p.val else none)

/-- The safety-master check of a head strapped 10 (R663). -/
def State.masterCheck (s : State) : State :=
  if s.role = 2 ∧ s.driving then
    let f := s.masterFails
    (s.wr SAF_MSTAT.FAIL (f.foldl setBitN 0)).findIf (!f.isEmpty) 79 0
  else s.wr SAF_MSTAT.FAIL 0

/-! ### Clearing causes (R626, R641, R88) -/

/-- The condition that must hold for the cause of SF(n+1) to clear, with the ms it must hold; the tray of SF1 has to be
closed besides. -/
def State.sfClear (s : State) (n : Fin 7) : Bool × Nat :=
  match n with
  | 0 => (!s.saf.kdr && s.kfbAgrees, 1000)
  | 1 => (decide (s.pressSpeed = 0), 1000)
  | 2 => (allCh.all (fun c => (bget s.saf.temp c).all (fun t => t < (s.pset 7 : Int) - 500)), 0)
  | 3 => (allCh.all (fun c => decide (bget s.saf.vPeak c < ((s.pset 8 : Int) - 100) * 1000)), 0)
  | 4 => (decide (s.met.vbSar < ((s.pset 9 : Int) - 1000) * 1000 ∧ (s.rd MOT_VM.VM : Int) < (s.pset 10 : Int) - 2000), 100)
  | 5 => (allCh.all (fun c => !s.activeIn 15 c || decide ((s.chan c).stage.iso = .opened)), 0)
  | 6 => (s.saf.estSeenA && s.saf.estSeenB && s.saf.estA && s.saf.estB, 100)

/-- The cause of SF(n+1) clears. -/
def State.sfGone (s : State) (n : Fin 7) : State :=
  let s := (s.clrFBit SAF_CAUSEV.SF n.val).condGone (Fin.ofNat 128 (64 + n.val)) 0
  match n with
  | 0 => (s.wr SAF_KSTAT.FCAUSE 0).wr SAF_KSTAT.STATE 0
  | 3 => s.forCh allCh (fun s c => s.condGone 14 c)
  | 5 => s.forCh allCh (fun s c => s.condGone 15 c)
  | _ => s

/-- A recorded cause of SF(n+1) clears once its condition has held for its time. -/
def State.sfStep (s : State) (n : Fin 7) : State :=
  if !bitN (s.rd SAF_CAUSEV.SF) n.val then s
  else
    let (ok, ms) := s.sfClear n
    let from_ : Option Nat := if ok then some ((bget s.saf.okSince n).getD s.clk) else none
    let s := { s with saf := { s.saf with okSince := s.saf.okSince.set n.val from_ } }
    if s.since from_ ms && !(n = 0 && s.saf.tray) then s.sfGone n else s

/-- The condition of a listed source holds somewhere. -/
def State.holds (s : State) (n : Nat) : Bool := (s.src (Fin.ofNat 128 n)).cond ≠ 0

/-- A source with SAFE in its reaction that stands for "fault with SAFE reaction" holds. -/
def State.reactHolds (s : State) : Bool :=
  (List.finRange 128).any (fun n => decide (srcCause n = .faultReaction) && bitN (s.src n).react 5 && decide ((s.src n).cond ≠ 0))

/-- The bits of the last valid Pennant that are a request (R81, R487): every one, but the own bit that stands for an own
cause of this device. -/
def State.vecBits (s : State) : Nat :=
  if s.ownCause && s.rb RING_STAT.POS_VALID then clrBitN (s.rd RING_SAFEV.SAFEV) (s.rd RING_STAT.POS) else s.rd RING_SAFEV.SAFEV

/-- A watchdog has expired and no valid PDU has come since. -/
def State.wdExpired (s : State) (r : Fin 2) : Bool := (bget s.ring.wd r).any (fun t => decide (8 ≤ t))

/-- The recorded causes beyond SF1 to SF7 clear as their conditions go. -/
def State.otherStep (s : State) : State :=
  let wdA := s.wdExpired 0
  let wdB := s.wdExpired 1
  let s := if wdA || wdB then s else s.condGone 58 0
  let on : List Bool :=
    [[71, 72, 73, 74, 75, 76, 77, 78].any s.holds, s.reactHolds, decide (s.vecBits ≠ 0), s.holds 41, wdA, wdB,
      s.holds 59 || s.holds 60, s.holds 79, s.holds 80]
  (on.zipIdx).foldl (fun s (b, i) => if b then s else s.clrFBit SAF_CAUSEV.OTHER i) s

/-- Every recorded cause advances toward its clearing (R88, R626). -/
def State.causeStep (s : State) : State :=
  let ns : List (Fin 7) := [0, 1, 2, 3, 4, 5, 6]
  (ns.foldl State.sfStep s).otherStep

/-- The conditions of the software sources follow what the cycle found; those of events go with the next cycle. -/
def State.softConds (s : State) (i : SafIn) : State :=
  let gone (s : State) (b : Bool) (n : Src) : State := if b then s.condGone n 0 else s
  let s := gone s (!s.readbackBad i) 71
  let s := gone s s.masterFails.isEmpty 79
  let s := gone s (allCh.all (fun c => bget s.saf.iOver c = 0)) 80
  ((s.condGone 59 0).condGone 60 0).condGone 13 0

/-! ### The safety cycle (R51, R643 to R652) -/

/-- SAFETY_CYCLE_START: every 16 ticks SAF reads its inputs and starts pass A. SAF runs from the end of BOOT on and not
while it is halted (R657). -/
def execSafetyCycleStart (i : SafIn) (s : State) : Host.Outcome State Fault Refusal :=
  if s.sys.held.isSome ∨ s.sys.mode = .park ∨ !s.rb SAF_STAT.CHECK_ON ∨ s.rb DBG_CTL.HALT_SAF ∨ s.now % 16 ≠ 0 then
    .next s
  else
    let s := match s.saf.psetNew with | some ws => s.loadPset ws | none => s
    let s := { s with saf := { s.saf with
      missed := if s.saf.pass = 0 then s.saf.missed else s.saf.missed + 1, pass := 1, cycle := s.now / 16
      passAt := s.clk, bufA := [], bufB := [], logA := [], logB := [], sigA := 0 } }
    let s := (s.safInputs i.pins).ntcCopy
    let s := s.findIf (s.readbackBad i) 71 0
    let s := s.findIf s.trayDemand 64 0
    let s := s.sf3 i.ntcBad
    let s := s.findIf s.sf4Plaus 67 0
    let s := (s.sf6.ss1Check.svcCurrent).masterCheck
    let s := (s.softConds i).causeStep
    .next { s with saf := { s.saf with iPeak := Vector.replicate 16 0, vPeak := Vector.replicate 16 0 } }

/-- One software output is released: its source is raised; an SS1 stop begins (R631, R632). -/
def State.release1 (s : State) (e : Nat × Nat) : State :=
  let s := s.raise (Fin.ofNat 128 e.1) (Fin.ofNat 16 e.2)
  if e.1 = 32 ∧ s.saf.ss1.isNone ∧ s.menOn then
    { s with
      saf := { s.saf with ss1 := some (s.pressSpeed, s.clk), vOver := 0 }
      mot := { s.mot with cmd := s.mot.cmd.map (fun m => { m with ss1 := true }) } }
  else s

/-- The first `n` outputs of the cycle are released in order (R648). -/
def State.releaseN (s : State) (n : Nat) : State :=
  let l := s.saf.due
  (l.take n).foldl State.release1 { s with saf := { s.saf with due := l.drop n } }

/-- All outputs of the cycle are released. -/
def State.releaseAll (s : State) : State := s.releaseN s.saf.due.length

/-- The compare is suspended (R655). -/
def State.compareOff (s : State) : Bool := s.rb DBG_CTL.HALT_SAF || decide (s.rd DBG_CTL.LE_STEP ≠ 0)

/-- A matched cycle ends: the outputs are released, the cycle counts, the conditions of passed check faults go. -/
def State.cycleMatched (s : State) : State :=
  let s := { s with saf := { s.saf with pass := 0, missed := 0, skewRun := 0 } }
  let s := (s.incWrap SAF_CYC.CYC).releaseAll
  let ns : List Src := [72, 73, 74, 75, 76, 77]
  ns.foldl (fun s n => s.condGone n 0) s

/-- A mismatch with differing inputs (R650). -/
def State.inputSkew (s : State) (k : Nat) : State :=
  let again := s.saf.skews.any (fun e => decide (e.1 = k ∧ s.saf.cycle < e.2 + 16))
  let run := s.saf.skewRun + 1
  let s := { s with saf := { s.saf with
    pass := 0, skewRun := run
    skews := (k, s.saf.cycle) :: s.saf.skews.filter (fun e => decide (s.saf.cycle < e.2 + 16)) } }
  let s := (s.incSat SAF_SKEW.COUNT).wr SAF_SKEW.LAST k
  if again || decide (4 ≤ run) then s.raiseDev 75 else s

/-- The CSR `scycle` (R652): the number of the safety cycle, the same in both passes. -/
def State.scycle (s : State) : Word := wN s.saf.cycle

/-- The lane shift of the pass under way: none in pass A, k = 1 + (c mod 8) in pass B (R644). -/
def State.safShift (s : State) : Nat := if s.saf.pass = 2 then 1 + s.saf.cycle % 8 else 0

/-- A word of a half of the data memory. -/
def memWord (l : List (Nat × BitVec 40)) (a : Nat) : BitVec 40 := ((l.find? (fun e => e.1 = a)).map (·.2)).getD 0

/-- A store takes effect in the half of the data memory that the pass reaches, at the address shifted right by k (R646,
R648). Words lie in their lanes; of a word stored in part the rest is as it was (log entry 128). -/
def State.safStore (s : State) (t : SafTx) : State :=
  let k := s.safShift
  let a := (unlaned k t.addr).toNat / 4
  if t.acc ≠ .store ∨ 16384 ≤ a then s
  else
    let put (l : List (Nat × BitVec 40)) : List (Nat × BitVec 40) :=
      wordIns l a (if t.be = 15 then t.data else laned k (byteMerge t.be (unlaned k (memWord l a)) (unlaned k t.data)))
    if s.saf.pass = 2 then { s with saf := { s.saf with memB := put s.saf.memB } }
    else { s with saf := { s.saf with memA := put s.saf.memA } }

/-- A transaction as it enters the compare buffer: shifted right by k (R647); loads and input reads carry no data. -/
def safEntry (k : Nat) (t : SafTx) : SafEnt :=
  ⟨t.acc, unlaned k t.addr, t.be, t.attr, if t.acc = .load ∨ t.acc = .input then 0 else unlaned k t.data⟩

/-- The input reads among transactions, with their numbers and values (R649). -/
def inputReads (k : Nat) (l : List SafTx) : List (Byte × Word) :=
  (l.filter (fun t => t.acc = .input)).map (fun t => (t.num, unlaned k t.data))

/-- The transactions of a pass act and are logged (R645 to R649): `SAF_LANE` for a value out of its lanes, `SAF_CBUF` for a
pass A that makes too many. -/
def State.safAccess (s : State) (l : List SafTx) : State :=
  let k := s.safShift
  let s := if l.all (fun t => laneOk k t.addr && laneOk k t.data) then s else s.raiseDev 73
  let s := l.foldl State.safStore s
  let es := l.map (safEntry k)
  let ins := inputReads k l
  if s.saf.pass = 2 then { s with saf := { s.saf with bufB := s.saf.bufB ++ es, logB := s.saf.logB ++ ins } }
  else
    let s := { s with saf := { s.saf with bufA := s.saf.bufA ++ es, logA := s.saf.logA ++ ins } }
    if 4096 < s.saf.bufA.length ∨ 256 < s.saf.logA.length then s.raiseDev 74 else s

/-- The transactions that match before the first that does not (R647). -/
def State.matched (s : State) : Nat := commonLen s.saf.bufA s.saf.bufB

/-- The passes agree (R647, R651): every transaction in order, none missing or surplus, and the fetch signatures. -/
def State.passesAgree (s : State) (sigB : Word) : Bool :=
  decide (s.saf.bufA = s.saf.bufB) && decide (s.saf.sigA = sigB)

/-- The lowest-numbered input whose reads differ between the passes (R650). -/
def State.skewInput (s : State) : Option Nat :=
  let of (l : List (Byte × Word)) (n : Nat) : List (Byte × Word) := l.filter (fun e => e.1.toNat = n)
  (List.range 256).find? (fun n => decide (of s.saf.logA n ≠ of s.saf.logB n))

/-- The compare of a cycle fails (R650): the outputs matched before it are released, and the mismatch is classified. -/
def State.mismatched (s : State) : State :=
  let n := ((s.saf.bufA.take s.matched).filter (fun e => e.acc = .output .safeReq)).length
  let s := s.releaseN n
  match s.skewInput with
  | some k => s.inputSkew k
  | none => { s with saf := { s.saf with pass := 0, missed := s.saf.missed + 1 } }.raiseDev 76

/-- The pass under way has surely not ended within 0.4 × 16 ticks of its start (R52): pass A begins with a tick, pass B
within one. -/
def State.passLate (s : State) : Bool := decide (s.saf.passAt + (if s.saf.pass = 1 then 7 else 8) ≤ s.clk)

/-- SPEND (R652): the transactions up to the write act; writing 1 ends the pass. In pass A it starts pass B; in pass B it
completes the compare, unless that is suspended (R655). A pass that ends too late raises `SAF_OVERRUN` (R651). -/
def execSpend (i : SpendIn) (s : State) : Host.Outcome State Fault Refusal :=
  if s.saf.pass = 0 ∨ s.rb DBG_CTL.HALT_SAF then .next s
  else
    let s := s.safAccess i.tx
    let s := if s.passLate then s.raiseDev 77 else s
    if i.value ≠ 1 then .next s
    else if s.saf.pass = 1 then .next { s with saf := { s.saf with pass := 2, passAt := s.clk, sigA := i.sig } }
    else if s.compareOff then .next { s.releaseAll with saf := { s.releaseAll.saf with pass := 0, missed := 0 } }
    else .next (if s.passesAgree i.sig then s.cycleMatched else s.mismatched)

/-- SAF_OVERRUN (R52, R651): a pass has not ended within 6.4 ticks of its start. -/
def execSafOverrun (s : State) : Host.Outcome State Fault Refusal :=
  .next (if s.saf.pass = 0 ∨ s.rb DBG_CTL.HALT_SAF ∨ s.clk < s.saf.passAt + 6 then s else s.raiseDev 77)

/-- SAF_HEARTBEAT (R625, R657): two successive cycles without a matched end marker. -/
def execSafHeartbeat (s : State) : Host.Outcome State Fault Refusal :=
  .next (if 2 ≤ s.saf.missed ∧ s.rb SAF_STAT.CHECK_ON ∧ !s.rb DBG_CTL.HALT_SAF then s.raiseDev 72 else s)

/-! ### Contactors (R623, R627 to R629) -/

/-- KDR_CLOSE (R627): `KDRA` and `KDRB` go high together at an instant at which all the conditions hold. -/
def execKdrClose (s : State) : Host.Outcome State Fault Refusal :=
  let mode := decide (s.sys.mode = .standby ∨ s.sys.mode = .run ∨ s.sys.mode = .service) && !s.rb SAF_STAT.LATCH
  if !s.saf.kdr && s.rb SAF_KCTL.REQ && mode && !s.ownCause && !s.saf.tray && s.saf.estA && s.saf.estB && s.saf.kfbA &&
      s.saf.kfbB && s.since s.saf.kfbSince 100 then
    let s := { s with saf := { s.saf with kdr := true, kEdge := s.clk, kChecked := false, kDropAt := none } }
    .next ((s.wr SAF_KSTAT.STATE 1).incWrap SAF_KSTAT.CYCLES)
  else .next s

/-- KFB_CHECK (R628): the feedback at the end of the window after a drive edge. -/
def execKfbCheck (kfbA kfbB : Bool) (s : State) : Host.Outcome State Fault Refusal :=
  let win := s.msT (if s.saf.kdr then s.pset 1 else s.pset 2)
  if s.saf.kChecked ∨ s.clk < s.saf.kEdge + win then .next s
  else
    let s := { s with saf := { s.saf with kChecked := true, kfbA := kfbA, kfbB := kfbB } }
    if s.saf.kdr then
      .next (if kfbA then s.kFault 3 else if kfbB then s.kFault 4 else s.wr SAF_KSTAT.STATE 2)
    else .next (if !kfbA then s.kFault 1 else if !kfbB then s.kFault 2 else s.wr SAF_KSTAT.STATE 0)

/-- KFB_DISCREPANCY (R628): a reading other than the one the drive implies has stood for more than 20 ms. -/
def execKfbDiscrepancy (isB level : Bool) (s : State) : Host.Outcome State Fault Refusal :=
  if !s.saf.kChecked ∨ level ≠ s.saf.kdr then .next s
  else
    let s := { s with saf := if isB then { s.saf with kfbB := level } else { s.saf with kfbA := level } }
    .next (if !s.saf.kdr ∧ s.rb SAF_KCTL.REQ then s.kFault 7 else s.kFault (if isB then 6 else 5))

/-- A cell gate runs, an `ISOn` is closed, or MEN is high with a motion command active: a write of 0 to `SAF_KCTL.REQ` is
refused (R629). -/
def State.kReqBlocked (s : State) : Bool :=
  allCh.any (fun c => (s.chan c).stage.gates || decide ((s.chan c).stage.iso = .closed)) || (s.menOn && s.mot.cmd.isSome)

/-- The effect of an accepted write of `SAF_KCTL.REQ` (R629). -/
def State.fxKctl (s : State) : State := if s.rb SAF_KCTL.REQ then s else s.kdrLow

/-- KDR_DROP (R623): `SF1_TKDLY` after a safe-state request. -/
def execKdrDrop (s : State) : Host.Outcome State Fault Refusal :=
  .next (match s.saf.kDropAt with | some t => (if t ≤ s.clk then s.kdrLow else s) | none => s)

/-! ### SS1 (R632) -/

/-- SS1_END: the press is slow enough or `SF2_TSS1` has elapsed; SAF lowers MEN. -/
def execSs1End (s : State) : Host.Outcome State Fault Refusal :=
  match s.saf.ss1 with
  | none => .next s
  | some (_, t0) =>
    let v := s.pressSpeed
    if s.pset 6 ≤ v ∧ s.clk < t0 + s.msT (s.pset 5) then .next s
    else
      let s := { s with saf := { s.saf with ss1 := none, men := false, menAt := some s.clk } }
      .next ((s.motFail rFAULT (dSrc 32)).findIf (decide (s.pset 6 < v)) 65 0)

/-- MEN_RESTORE (R632): 1 s after an SS1 stop lowered MEN, if nothing else holds it low. -/
def execMenRestore (s : State) : Host.Outcome State Fault Refusal :=
  let free := decide (s.sys.mode = .standby ∨ s.sys.mode = .run ∨ s.sys.mode = .service) && !s.rb SAF_STAT.LATCH
  if s.since s.saf.menAt 1000 && free then
    .next ({ s with saf := { s.saf with men := true, menAt := none } }.condGone 32 0)
  else .next s

/-! ### E-stop and tray (R638 to R641) -/

/-- ESTOP_FILTER_EXPIRY (R640): an input has been low for `SF7_TFILT`. -/
def execEstopFilterExpiry (isB : Bool) (s : State) : Host.Outcome State Fault Refusal :=
  let old := bitN (s.rd SAF_CAUSEV.SF) 6
  let f := if isB then { s.saf with estB := false } else { s.saf with estA := false }
  let f := { f with
    estSeenA := (old && f.estSeenA) || !f.estA, estSeenB := (old && f.estSeenB) || !f.estB }
  .next ({ s with saf := f }.demandUp 6)

/-- ESTOP_DISCREPANCY (R641): the other input has not gone low within `SF7_TDISC` after the demand. -/
def execEstopDiscrepancy (s : State) : Host.Outcome State Fault Refusal :=
  .next (if bitN (s.rd SAF_CAUSEV.SF) 6 && !(s.saf.estSeenA && s.saf.estSeenB) then s.wr SAF_IO.EST_DISC 1 else s)

/-- TRAY_EXCHANGE (R638, R639): the tray closes after at least 1 s open with every `ISOn` open throughout; the SF6
counters are reset and the locks clear. -/
def execTrayExchange (s : State) : Host.Outcome State Fault Refusal :=
  if s.since s.saf.trayOpen 1000 && !s.saf.trayIso && !s.anyIso then
    let s := { s with saf := { s.saf with
      trayOpen := none, tray := false, sf6Q := Vector.replicate 16 0, sf6T := Vector.replicate 16 0
      sf6Acc := Vector.replicate 16 0 } }
    .next (s.forCh allCh (fun s c => (s.condGone 15 c).clear 15 c))
  else .next s

/-! ### The bus chopper (R634 to R636, R682) -/

/-- BRKB_SWITCH (R635): a VB sample in mV against the effective thresholds. The over-voltage comparator forces the
chopper on, `BRKB_OVL` holds it off. -/
def execBrkbSwitch (vb : Nat) (s : State) : Host.Outcome State Fault Refusal :=
  let e := s.brkbEff
  let on :=
    if s.saf.brkbForce then true
    else if s.active 36 then false
    else if e.1 < (vb : Int) then true
    else if (vb : Int) < e.2 then false
    else s.saf.brkb.since.isSome
  .next { s with saf := { s.saf with brkb := (s.saf.brkb.turn on s.clk).trim s.clk (s.msT 1000) } }

/-- BRKB_OVL (R635): the on-time of the last second exceeds `DMAX` percent. -/
def execBrkbOvl (s : State) : Host.Outcome State Fault Refusal :=
  let w := s.msT 1000
  if s.rd SAF_BRKBD.DMAX * w < 100 * s.saf.brkb.onTime s.clk w then
    let s := { s with saf := { s.saf with brkb := if s.saf.brkbForce then s.saf.brkb else s.saf.brkb.turn false s.clk } }
    .next (s.raiseDev 36)
  else .next s

/-! ### Safe-state requests and the toggle -/

/-- The source that stands for a cause of a safe-state request, where one source does. -/
def causeSrc : SafeCause → Option Src
  | .sf n => some (Fin.ofNat 128 (64 + n.val))
  | .clkLost => some 41
  | .ringWdog _ => some 58
  | .safMaster => some 79
  | .svcLimit => some 80
  | _ => none

/-- SAFE_STATE_REQUEST (R81, R87, R619): a request with its cause; the source of the cause is raised with it. -/
def execSafeStateRequest (cause : SafeCause) (s : State) : Host.Outcome State Fault Refusal :=
  let s := s.safeReq cause (cause = .sf 0)
  .next (match causeSrc cause with | some n => s.raiseAs n 0 cause | none => s)

/-- DRV_EN_TOGGLE (R89, R90, R683, R684): the rising edge of a counting toggle. -/
def execDrvEnToggle (s : State) : Host.Outcome State Fault Refusal :=
  let s := { s with saf := { s.saf with drvEn := true } }
  let s := (s.incSat FLT_DRVEN.TOGGLES).wr FLT_DRVEN.ARMED 0
  let ns : List Src := [20, 21, 22, 23, 24, 36]
  let s : State := ns.foldl (fun s n => s.clearIfGone n 0) s
  let clear : Bool := decide (s.rd SAF_CAUSEV.SF = 0 ∧ s.rd SAF_CAUSEV.OTHER = 0)
  .next (if s.rb SAF_STAT.LATCH && clear then { s with saf := { s.saf with toggled := true } } else s)

end Sys2Proof.Machine
end

