-- ==== Sys2Proof/Machine/Motion.lean ====
section
/-!
DEFINITION. Motion commands (09_press_actuator.md, R591 to R601, R610): how a command begins, its profile and force
phases tick by tick, the loops, and the events that end it.
-/

namespace Sys2Proof.Machine

/-! ### Units -/

/-- A speed in counts/s as 2^-40 counts per tick. -/
def State.velU (s : State) (v : Int) : Int := tdiv (v * 2 ^ 40 * s.tickNs) 1000000000

/-- An acceleration in counts/s² as 2^-40 counts per tick². -/
def State.accU (s : State) (a : Nat) : Int := ((a * 2 ^ 40 * (s.tickNs * s.tickNs) / 1000000000000000000 : Nat) : Int)

/-- Motor rpm of a speed in counts/s (R591). -/
def State.rpmOf (s : State) (v : Int) : Int :=
  tdiv (v * 60 * s.rd MOT_GEAR.NUM) ((s.rd MOT_CPR.CPR * s.rd MOT_GEAR.DEN : Nat) : Int)

/-- T_s in ns: the mean of the last two intervals between crossings (R562); none before three of them. -/
def MotS.tS (m : MotS) : Option Int :=
  match m.tzc, m.tzc2 with
  | some a, some b => some (tdiv (a - b) 2)
  | _, _ => none

/-- The motor speed n (R591). -/
def State.motN (s : State) : Int :=
  match decide (s.rd MOT_STAT.STATE = 2), s.mot.tS with
  | true, some t =>
    let n := tdiv 10000000000 (t * (s.rd MOT_CFG.PP : Int))
    if s.mot.fwd ≠ s.rb MOT_CFG.DIRINV then n else -n
  | _, _ => s.rpmOf (s.rdS MOT_ESPD.SPD)

/-- At least one learned offset is valid (R567). -/
def State.ofsValid (s : State) : Bool := decide (16 ≤ s.mot.ofsP.length ∨ 16 ≤ s.mot.ofsN.length)

/-- Change the running command. -/
def State.updCmd (s : State) (f : MotCmd → MotCmd) : State :=
  { s with mot := { s.mot with cmd := s.mot.cmd.map f } }

/-! ### Beginning a command -/

/-- A motion descriptor is valid (R441): a known opcode, and 0 in every field that its command does not use. -/
def motionValid (d : MotionDesc) : Bool :=
  let op := d.op.toNat
  !d.rsv && (0x41 ≤ op && op ≤ 0x46) &&
    (op ≠ 0x41 || (d.ftol = 0 && d.dwell = 0)) && (op ≠ 0x42 || d.ftol = 0) && (op ≠ 0x44 || d.pos = 0) &&
    (op ≠ 0x45 || (d.force = 0 && d.ftol = 0)) &&
    (op ≠ 0x46 || (d.pos = 0 && d.vmax = 0 && d.force = 0 && d.ftol = 0 && d.dwell = 0))

/-- A command has every loop it needs (R597). -/
def State.loopsOk (s : State) (op : Nat) : Bool :=
  let pos := decide (s.rd MOT_KPOS.KP ≠ 0)
  let frc := decide (s.rd MOT_KFRC.KP ≠ 0)
  decide (s.rd MOT_KCUR.KP ≠ 0 ∧ s.rd MOT_KSPD.KP ≠ 0) && (op = 0x44 || pos) && (op < 0x43 || op = 0x46 || frc)

/-- MOT begins commands (R600, R601, R763): in RUN and SERVICE, with no command running, its completion slot free and
not halted by the debug module. -/
def State.motMay (s : State) : Bool :=
  s.driving && s.sys.trans.isNone && s.sys.held.isNone && !s.rb DBG_CTL.HALT_MOT && s.mot.cmd.isNone &&
    !s.host.cbuf.any (fun g => g.owner = .mot)

/-- The profile starts from the position and speed of now. -/
def State.profileHere (s : State) : State :=
  { s with mot := { s.mot with pPos := s.mot.ext * 2 ^ 40, pVel := s.velU (s.rdS MOT_ESPD.SPD) } }

/-- A command that waits for its start goes to its first phase (R595). -/
def State.motGo (s : State) : State :=
  let f := s.rdS MOT_FORCE.F
  let s := s.profileHere
  s.updCmd (fun m =>
    if m.ph ≠ .starting then m
    else
      let op := m.desc.op.toNat
      if op = 0x44 then { m with ph := .force, fSet := m.desc.force.toInt }
      else if op = 0x45 then { m with ph := .ramp, f0 := f, fSet := f }
      else if op = 0x46 then { m with ph := .stopping 0 }
      else { m with ph := .move })

/-- A start begins (R572, R577): refused while VM reads below 18 V. `T_CHK` runs from the end of the 100 µs in which every
low side is on. -/
def State.motStart (s : State) : State :=
  if s.rd MOT_VM.VM < 18000 then (s.motRaise 30).motFail rFAULT (dSrc 30)
  else
    ({ s with mot := { s.mot with
      start := .check, startT := s.clk + (99999 + s.tickNs) / s.tickNs, gatesOff := true, zcRun := 0, missRun := 0
      tComm := none, tzc := none, tzc1 := none, tzc2 := none } }).wr MOT_STAT.STATE 1

/-- A motion command begins (R595, R597): from holding its profile starts at once, under no torque a start precedes it. -/
def State.motBegin (s : State) (d : MotionDesc) (idx : Nat) : State :=
  let s := { s with mot := { s.mot with
    cmd := some { desc := d, idx := idx, ph := .starting, ticks := 0, peak := 0, dwell := 0, fe := 0, fSet := 0, f0 := 0,
                  rampT := 0, ss1 := false }
    hold := .none, acc := d.amax.toNat, vmax := if d.op = 0x46 then s.mot.vmax else d.vmax.toNat } }
  if !motionValid d || !s.loopsOk d.op.toNat then s.motFail rFAULT dINVALID
  else
    let s := if d.op = 0x41 then s.wr MOT_ENCSTAT.HOME_VALID 0 else s
    if s.rd MOT_STAT.STATE = 0 then s.motStart else s.motGo

/-- The descriptor at the head of MQ leaves the prefetch. -/
def State.popMot (s : State) : State := s.updQ mq (fun q => { q with pre := q.pre.drop 1 })

/-- The descriptor that MOT begins next, with its queue position: the head of what MQ has prefetched (R442). -/
def State.motHead (s : State) : Option (MotionDesc × Nat) :=
  if s.qOn mq then (s.subq mq).pre.head?.map (fun p => (parseMotion p.words, s.posOf mq (s.subq mq).done)) else none

/-- A motion row other than STOP: MOT begins the descriptor at the head of MQ where it may; in HALTED only STOP begins
(R442, R599). -/
def State.takeMotion (s : State) (op : Nat) (idx : Half) (d : MotionDesc) : State :=
  let d := { d with op := BitVec.ofNat 8 op }
  if s.motMay && decide (s.rd MOT_STAT.STATE ≠ 5) && decide (s.motHead = some (d, idx.toNat)) then
    s.popMot.motBegin d idx.toNat
  else s

/-- HOME (R595). -/
def execHome (idx : Half) (d : MotionDesc) (s : State) : Host.Outcome State Fault Refusal :=
  .next (s.takeMotion 0x41 idx d)
/-- MOVE_TO (R595). -/
def execMoveTo (idx : Half) (d : MotionDesc) (s : State) : Host.Outcome State Fault Refusal :=
  .next (s.takeMotion 0x42 idx d)
/-- PRESS (R595). -/
def execPress (idx : Half) (d : MotionDesc) (s : State) : Host.Outcome State Fault Refusal :=
  .next (s.takeMotion 0x43 idx d)
/-- HOLD_FORCE (R595). -/
def execHoldForce (idx : Half) (d : MotionDesc) (s : State) : Host.Outcome State Fault Refusal :=
  .next (s.takeMotion 0x44 idx d)
/-- RELEASE (R595). -/
def execRelease (idx : Half) (d : MotionDesc) (s : State) : Host.Outcome State Fault Refusal :=
  .next (s.takeMotion 0x45 idx d)

/-- Descriptors of MQ that had not begun complete with REVOKED notices and are retired (R442). -/
def State.revokeMotion (s : State) (ps : List PreDesc) : State :=
  ps.foldl (fun s p =>
    let cnt := (s.subq mq).done
    let s := s.notice .shared mq cnt rREVOKED ((wAt p.words 0).extractLsb' 0 8).toNat 0xFFFF 0
    s.updQ mq (fun q => { q with done := (q.done + 1) % 65536, pre := q.pre.drop 1 })) s

/-- The sources with the clear code STOP whose condition is gone clear (R617). -/
def State.stopClears (s : State) : State :=
  let st := s.rd MOT_STAT.STATE
  let s := if st = 0 ∨ st = 5 ∨ st = 2 ∨ st = 3 then s.condGone 25 0 else s
  let s := if st ≠ 2 then s.condGone 28 0 else s
  let ns : List Src := [25, 26, 27, 28, 31]
  ns.foldl (fun s n => s.clearIfGone n 0) s

/-- A STOP acts (R442, R595, R599, R617). -/
def State.motStop (s : State) (d : MotionDesc) (idx : Nat) : State :=
  let s := s.motComplete rREVOKED 0
  let s := s.revokeMotion ((s.subq mq).pre.takeWhile (fun p => ((wAt p.words 0).extractLsb' 0 8) ≠ 0x46))
  let s := s.popMot.stopClears
  if s.rd MOT_STAT.STATE = 5 then
    let s := { s with mot := { s.mot with
      cmd := some { desc := d, idx := idx, ph := .stopping 0, ticks := 0, peak := 0, dwell := 0, fe := 0, fSet := 0, f0 := 0,
                    rampT := 0, ss1 := false } } }
    if motionValid d then ((s.motComplete 0 0).wr MOT_STAT.STATE 0).motGatesOff else s.motFail rFAULT dINVALID
  else s.motBegin d idx

/-- The next descriptor of MQ is a STOP. -/
def State.stopNext (s : State) : Bool :=
  match (s.subq mq).pre with
  | [] => false
  | p :: _ => (wAt p.words 0).extractLsb' 0 8 = 0x46

/-- A STOP may act (R442, R600, R601, R612): in RUN and SERVICE, not during a recovery, and with the completion slot of
MOT free unless a command runs. -/
def State.stopMay (s : State) : Bool :=
  s.driving && s.sys.trans.isNone && s.sys.held.isNone && !s.rb DBG_CTL.HALT_MOT && decide (s.rd MOT_STAT.STATE ≠ 4) &&
    (s.mot.cmd.isSome || !s.host.cbuf.any (fun g => g.owner = .mot))

/-- The first STOP among the prefetched descriptors of MQ, with its queue position (R442). -/
def State.stopAt (s : State) : Option (MotionDesc × Nat) :=
  if !s.qOn mq then none
  else
    let isStop (p : PreDesc) : Bool := decide ((wAt p.words 0).extractLsb' 0 8 = 0x46)
    let before := ((s.subq mq).pre.takeWhile (fun p => !isStop p)).length
    ((s.subq mq).pre.find? isStop).map (fun p =>
      (parseMotion p.words, s.posOf mq ((s.subq mq).done + before + b2n s.mot.cmd.isSome)))

/-- STOP (R442, R595): it acts as soon as it is prefetched; a recovery runs to its end first (R612). -/
def execStop (idx : Half) (d : MotionDesc) (s : State) : Host.Outcome State Fault Refusal :=
  let d := { d with op := 0x46 }
  .next (if s.stopMay && decide (s.stopAt = some (d, idx.toNat)) then s.motStop d idx.toNat else s)

/-- A STOP that was prefetched during a recovery acts at its end (R612), one that met an occupied completion slot once the
completion is posted (R601). -/
def State.motStopScan (s : State) : State :=
  if !s.stopMay then s else
  match s.stopAt with
  | some (d, idx) => s.motStop d idx
  | none => s

/-! ### Ending a command with torque (R598) -/

/-- A command ends with a recipe reason and the press holds its end state: force after PRESS and HOLD_FORCE in the force
phase, position otherwise. -/
def State.motEnd (s : State) (reason : Nat) : State :=
  match s.mot.cmd with
  | none => s
  | some m =>
    let h : MotHold := if m.ph = .force ∧ reason ≠ rTIMEOUT then .force m.fSet else .pos
    let idle := m.ph = .starting
    let s := s.motComplete reason 0
    if idle ∧ s.rd MOT_STAT.STATE = 1 then (s.wr MOT_STAT.STATE 0).motGatesOff
    else { s with mot := { s.mot with hold := h } }

/-- MOTION_TIMEOUT (R597). -/
def execMotionTimeout (s : State) : Host.Outcome State Fault Refusal :=
  match s.mot.cmd with
  | none => .next s
  | some m =>
    if m.desc.timeout ≠ 0 ∧ s.msT m.desc.timeout.toNat ≤ m.ticks then .next (s.motEnd rTIMEOUT) else .next s

/-- MOTION_DWELL_END (R595): `DWELL` has elapsed; HOLD_FORCE with `DWELL` 0 ends when the next command is prefetched. -/
def execMotionDwellEnd (s : State) : Host.Outcome State Fault Refusal :=
  match s.mot.cmd with
  | none => .next s
  | some m =>
    let op := m.desc.op
    let held := decide (s.msT m.desc.dwell.toNat ≤ m.dwell ∧ 0 < m.dwell)
    if op = 0x44 then
      let ready := if m.desc.dwell = 0 then !(s.subq mq).pre.isEmpty else held
      .next (if m.ph = .force ∧ ready then s.motEnd 0 else s)
    else if (op = 0x43 ∧ m.ph = .force) ∨ ((op = 0x42 ∨ op = 0x45) ∧ m.ph = .move) then
      .next (if held then s.motEnd 0 else s)
    else .next s

/-- MOTION_FOLLOW_ERR (R593): the error has lasted more than `FE_TIME` ticks. -/
def execMotionFollowErr (force : Bool) (s : State) : Host.Outcome State Fault Refusal :=
  match s.mot.cmd with
  | none => .next s
  | some m =>
    if decide (s.rd MOT_FE.FE_TIME < m.fe) && decide (force = (m.ph = .force)) then .next (s.motFail rFOLLOW 0) else .next s

/-- MOT_OVERRUN (R594). -/
def execMotOverrun (s : State) : Host.Outcome State Fault Refusal :=
  .next ((s.motFail rFAULT (dSrc 31)).motRaise 31)

/-! ### The tick of MOT (R591 to R596) -/

/-- One tick of a trapezoidal profile toward a target: position and speed, limited by `v` and `a`. -/
def trapezoid (pos vel target v a : Int) : Int × Int :=
  let d := target - pos
  let dir := sgn d
  let along := vel * dir
  let brake := decide (0 < a) && decide ((2 * a) * (d.natAbs : Int) ≤ along * along + along * a)
  let next := if along < 0 ∨ !brake then min v (along + a) else max 0 (along - a)
  let nv := next * dir
  if (d.natAbs : Int) ≤ next ∨ d = 0 then (target, 0)
  else if brake && decide (next = 0) then (target, 0)
  else (pos + nv, nv)

/-- One tick of braking to standstill. -/
def braking (pos vel a : Int) : Int × Int :=
  let v := sgn vel * max 0 ((vel.natAbs : Int) - max 1 a)
  (pos + v, v)

/-- The fraction in 1/256 of the braking that keeps VM from rising while VM exceeds `REGEN` (R610): a free value. -/
def State.regen (s : State) : Nat × State :=
  if s.rd MOT_BRKD.REGEN < s.rd MOT_VM.VM then let (x, s) := s.takeNat; (x % 257, s) else (256, s)

/-- The force of the tick in mN (R592) of the converter's result, whose constants apply first (R278): 2^23 LSB are the
full scale. -/
def State.forceOf (s : State) (raw : Int) : Int :=
  let k := s.calOf 34 s.forceRng
  let r := rdiv ((100000000 + k.gdev) * (raw * fsNv s.forceRng - k.ofs * 2 ^ 23)) (100000000 * fsNv s.forceRng)
  satS 32 (rdiv ((r - s.rdS MOT_FOFS.FOFS) * s.rdS MOT_FGAIN.FGAIN) 1000)

/-- The speed command in rpm is clamped to `VMAX` of the command and to `N_MAX` (R565, R591). -/
def State.clampN (s : State) (vmax : Nat) (n : Int) : Int :=
  let lim := min (s.rpmOf vmax).natAbs (s.rd MOT_FW.N_MAX)
  clampI n (-(lim : Int)) lim

/-- The speed loop (R591): a current command in mA from a speed command; the integrator stands still while clamped. -/
def State.speedLoop (s : State) (nCmd : Int) (frac : Nat) : State :=
  let e := nCmd - s.rdS MOT_SPEED.N
  let kp : Int := s.rd MOT_KSPD.KP
  let ki : Int := s.rd MOT_KSPD.KI
  let i1 := s.mot.sInt + ki * e
  let raw := tdiv (kp * e) 16 + tdiv i1 4096
  let lim : Int := s.rd MOT_ILIM.I_MAX
  let out := clampI raw (-lim) lim
  let out := if sgn out * sgn (s.rdS MOT_SPEED.N) < 0 then tdiv (out * frac) 256 else out
  { s with mot := { s.mot with
    iCmd := out, sInt := if raw = clampI raw (-lim) lim then i1 else s.mot.sInt
    tq := if out = 0 then s.mot.tq else decide (0 < out) } }

/-- The position loop (R591): the speed command for the profile in force. -/
def State.posLoop (s : State) (vmax frac : Nat) : State :=
  let err := tdiv s.mot.pPos (2 ^ 40) - s.mot.ext
  let prof := s.rpmOf (tdiv (s.mot.pVel * 1000000000) (2 ^ 40 * s.tickNs))
  s.speedLoop (s.clampN vmax (tdiv ((s.rd MOT_KPOS.KP : Int) * err) 256 + prof)) frac

/-- The force loop (R591). -/
def State.forceLoop (s : State) (set : Int) (vmax frac : Nat) : State :=
  let e := set - s.rdS MOT_FORCE.F
  let i1 := s.mot.fInt + (s.rd MOT_KFRC.KI : Int) * e
  let raw := tdiv ((s.rd MOT_KFRC.KP : Int) * e) 256000 + tdiv i1 65536000
  let out := s.clampN vmax raw
  let s := { s with mot := { s.mot with fInt := if raw = out then i1 else s.mot.fInt } }
  s.speedLoop out frac

/-- A following error counts its ticks (R593). -/
def State.motErr (s : State) (bad : Bool) : State := s.updCmd (fun m => { m with fe := if bad then m.fe + 1 else 0 })

/-- The position lies more than `PFE` from the profile (R593). -/
def State.posBad (s : State) : Bool := decide (s.rd MOT_FE.PFE < (tdiv s.mot.pPos (2 ^ 40) - s.mot.ext).natAbs)

/-- The supervision of R593 goes on while MOT recovers; its profile stands still. -/
def State.errTick (s : State) (m : MotCmd) : State :=
  match m.ph with
  | .starting | .ramp => s
  | .move | .stopping _ => s.motErr s.posBad
  | .force => s.motErr (decide (m.desc.ftol.toNat < (m.fSet - s.rdS MOT_FORCE.F).natAbs))

/-- The profile of the running command moves on by a tick. -/
def State.moveProfile (s : State) (m : MotCmd) (frac : Nat) : State :=
  let a := tdiv (s.accU m.desc.amax.toNat * frac) 256
  let stopping : Bool := m.ss1 || (match m.ph with | .stopping _ => true | _ => false)
  let (p, v) :=
    if stopping then braking s.mot.pPos s.mot.pVel a
    else trapezoid s.mot.pPos s.mot.pVel (m.desc.pos.toInt * 2 ^ 40) (s.velU m.desc.vmax.toNat) a
  { s with mot := { s.mot with pPos := p, pVel := v } }

/-- The profile has ended at `POS`. -/
def State.profileEnded (s : State) (m : MotCmd) : Bool :=
  s.mot.pVel = 0 && s.mot.pPos = m.desc.pos.toInt * 2 ^ 40

/-- The moving phase of a command (R595, R596). -/
def State.moveTick (s : State) (m : MotCmd) (frac : Nat) : State :=
  let s := s.moveProfile m frac
  let f := s.rdS MOT_FORCE.F
  let op := m.desc.op
  let set := m.desc.force.toInt
  let err := tdiv s.mot.pPos (2 ^ 40) - s.mot.ext
  let ended := s.profileEnded m
  let settled := ended && decide (err.natAbs ≤ 8)
  let s := (s.motErr s.posBad).updCmd (fun m => { m with dwell := if settled then m.dwell + 1 else 0 })
  if (op = 0x41 ∨ op = 0x42) ∧ set ≠ 0 ∧ set.natAbs ≤ f.natAbs then s.motEnd 2
  else if op = 0x41 ∧ s.rb MOT_ENCSTAT.HOME_VALID then s.updCmd (fun m => { m with ph := .stopping 0 })
  else if op = 0x41 ∧ ended then s.motEnd 1
  else if op = 0x43 ∧ set.natAbs ≤ 4 * f.natAbs ∧ 0 ≤ set * f then
    let s := { s with mot := { s.mot with fInt := 0 } }
    s.updCmd (fun m => { m with ph := .force, fSet := set, fe := 0, dwell := 0 })
  else if op = 0x43 ∧ ended then s.motEnd 1
  else s.posLoop m.desc.vmax.toNat frac

/-- The force phase of PRESS and HOLD_FORCE (R593, R595). -/
def State.forceTick (s : State) (m : MotCmd) (frac : Nat) : State :=
  let e := m.fSet - s.rdS MOT_FORCE.F
  let inTol := decide (e.natAbs ≤ m.desc.ftol.toNat)
  let s := (s.motErr !inTol).updCmd (fun m => { m with dwell := if m.desc.op = 0x44 ∨ inTol then m.dwell + 1 else 0 })
  s.forceLoop m.fSet m.desc.vmax.toNat frac

/-- The force ramp of RELEASE (R595). -/
def State.rampTick (s : State) (m : MotCmd) (frac : Nat) : State :=
  let n := s.msT m.desc.dwell.toNat
  let t := m.rampT + 1
  if n ≤ t then (s.updCmd (fun m => { m with ph := .move, rampT := t, dwell := 0, fe := 0 })).profileHere
  else
    let set := m.f0 - tdiv (m.f0 * t) n
    (s.updCmd (fun m => { m with rampT := t, fSet := set })).forceLoop set m.desc.vmax.toNat frac

/-- The decelerating phase: at standstill the command completes and the press holds (R595). DESIGN CHOICE (log entry 160):
a STOP, whose `VMAX` is 0, brakes and holds within the clamp of the command before it, or the speed it meets. -/
def State.stopTick (s : State) (m : MotCmd) (reason frac : Nat) : State :=
  let s := s.moveProfile m frac
  let s := s.motErr s.posBad
  if s.mot.pVel = 0 ∧ s.pressSpeed = 0 then s.motEnd reason
  else s.posLoop (if m.desc.op = 0x46 then max s.mot.vmax s.pressSpeed else m.desc.vmax.toNat) frac

/-- The press without a command: it brakes to its end state and holds it (R598). -/
def State.holdTick (s : State) (frac : Nat) : State :=
  match s.mot.hold with
  | .none => s
  | .force f => s.forceLoop f s.mot.vmax frac
  | .pos =>
    let (p, v) := braking s.mot.pPos s.mot.pVel (tdiv (s.accU s.mot.acc * frac) 256)
    let s := { s with mot := { s.mot with pPos := p, pVel := v } }
    s.posLoop s.mot.vmax frac

/-- The direction of rotation follows a speed of the count, or what is left to go; at none it stays. `DIRINV` = 1 inverts
the sector order against the count. -/
def State.turnsAs (s : State) (v : Int) : State :=
  if v = 0 then s else { s with mot := { s.mot with fwd := decide (0 < v) ≠ s.rb MOT_CFG.DIRINV } }

/-- The readings of the tick: force, motor speed, `FW`; an active short of HALTED ends below `N_FW` (R599), geared
commutation below `CATCH_MIN` (R569), which turns the way the encoder shows. -/
def State.motReadings (s : State) (force : Int) : State :=
  let s := s.wrS MOT_FORCE.F (s.forceOf force)
  let n := s.motN
  let s := (s.wrS MOT_SPEED.N n).wb MOT_STAT.FW (decide (s.rd MOT_FW.N_FW < n.natAbs))
  let st := s.rd MOT_STAT.STATE
  if st = 5 ∧ s.rb MOT_STAT.ASHORT ∧ n.natAbs ≤ s.rd MOT_FW.N_FW then s.wr MOT_STAT.ASHORT 0
  else if st = 2 ∧ n.natAbs < s.rd MOT_CATCH.CATCH_MIN ∧ s.ofsValid then s.wr MOT_STAT.STATE 3
  else if st = 3 then s.turnsAs (s.rdS MOT_ESPD.SPD)
  else s

/-- The work of MOT at a tick boundary: readings, then the loops while MOT is synchronised and has torque. The work is
done in time, so that the condition of `MOT_OVERRUN` is gone (R617). -/
def State.motTick (s : State) (force : Int) : State :=
  let s := s.motReadings force
  if s.rb DBG_CTL.HALT_MOT then s
  else
    let s := s.condGone 31 0
    let f := s.rdS MOT_FORCE.F
    let s := s.updCmd (fun m => { m with ticks := m.ticks + 1, peak := if m.peak.natAbs < f.natAbs then f else m.peak })
    let st := s.rd MOT_STAT.STATE
    if st = 4 then (match s.mot.cmd with | some m => s.errTick m | none => s)
    else if !s.menOn then s
    else if s.mot.start = .ramp ∧ !s.rb MOT_CFG.CLASS then
      -- P1 accelerates under the speed loop (R575); no rule states its speed command
      let (n, s) := s.takeInt
      s.speedLoop (s.clampN s.mot.vmax n) 256
    else if st ≠ 2 ∧ st ≠ 3 then s
    else
      let (frac, s) := s.regen
      match s.mot.cmd with
      | none => s.holdTick frac
      | some m =>
        match m.ph with
        | .starting => s
        | .move => s.moveTick m frac
        | .force => if m.ss1 then (s.moveProfile m frac).posLoop m.desc.vmax.toNat frac else s.forceTick m frac
        | .ramp => if m.ss1 then (s.moveProfile m frac).posLoop m.desc.vmax.toNat frac else s.rampTick m frac
        | .stopping r => s.stopTick m r frac

end Sys2Proof.Machine
end

