-- ==== Sys2Proof/Machine/Motor.lean ====
section
/-!
DEFINITION. The motor (09_press_actuator.md, R551 to R590, R602 to R611): commutation, starts, loss of sync, the
encoder, the home latch, and the protection of the bridge.
-/

namespace Sys2Proof.Machine

/-! ### Commutation (R557 to R569) -/

/-- The switched leg of a sector (R557). -/
def switchedLeg (sector : Nat) : Leg :=
  if sector < 2 then .a else if sector < 4 then .b else .c

/-- The return leg of a sector (R557). -/
def returnLeg (sector : Nat) : Leg :=
  match sector with | 0 => .b | 1 => .c | 2 => .c | 3 => .a | 4 => .a | _ => .b

/-- The back-EMF of the floating phase of a sector rises: the column Slope of R557, inverted in reverse rotation. -/
def slopeUp (sector : Nat) (fwd : Bool) : Bool := decide (sector % 2 = 1) = fwd

/-- The end of the tick in progress, in ns since power-on. -/
def State.endNs (s : State) : Int := ((2 * (s.sys.cyc + s.per) : Nat) : Int)

/-- Field weakening once per sector (R564): I_d* in mA and θ in 0.1°. I_m is the mean of the sector's shunt samples. DESIGN
CHOICE (log entry 68): of a sector without one the spec states none, and it is a free value. -/
def State.fieldWeaken (s : State) : State :=
  let (im, s) := if s.mot.iN = 0 then s.takeInt else (tdiv s.mot.iSum s.mot.iN, s)
  let n : Int := (s.rdS MOT_SPEED.N).natAbs
  let lo : Int := s.rd MOT_FW.N_FW
  let hi : Int := s.rd MOT_FW.N_MAX
  let adv0 := 10 * s.rd MOT_ADV.ADV0
  if s.rb MOT_CFG.FW_EN then
    let id := tdiv ((s.rd MOT_ADV.ID_MAX : Int) * clampI (n - lo) 0 (hi - lo)) (hi - lo)
    let th := adv0 + min (10 * s.rd MOT_ADV.ADV_MAX) (atanDeg id.natAbs (max im.natAbs 100))
    (s.wr MOT_ADVST.ADV th).wrS MOT_ADVST.ID (-id)
  else (s.wr MOT_ADVST.ADV adv0).wrS MOT_ADVST.ID 0

/-- MOT commutates into a sector at `t` ns: the sector before is computed (R564), the demagnetisation window opens (R560),
and a sector without a crossing ends the run of those with one (R576). -/
def State.toSector (s : State) (k : Nat) (t : Int) : State :=
  let s := s.fieldWeaken.wr MOT_STAT.SECTOR k
  let m := s.mot
  { s with mot := { m with
    zcRun := if m.zcTaken then m.zcRun else 0, zcTaken := false, tComm := none, revN := m.revN + 1
    demag := true, secDur := m.tLast.map (t - ·), tLast := some t, iSum := 0, iN := 0 } }

/-- The next sector in the direction of rotation, at `t` ns (R557). -/
def State.nextSector (s : State) (t : Int) : State :=
  let k := s.rd MOT_STAT.SECTOR
  s.toSector (if s.mot.fwd then (k + 1) % 6 else (k + 5) % 6) t

/-- MOT looks for crossings: it commutates by back-EMF, is geared, or makes a start that must synchronise. -/
def State.seesEmf (s : State) : Bool :=
  let st := s.rd MOT_STAT.STATE
  st = 2 || st = 3 || ((st = 1 || st = 4) && decide (s.mot.start = .ramp ∨ s.mot.start = .springbok))

/-- MOT commutates by back-EMF: in BEMF, and in a Springbok start from its next crossing on (R574). -/
def State.byEmf (s : State) : Bool := s.rd MOT_STAT.STATE = 2 || s.mot.start = .springbok

/-- The electrical angle of the encoder without a learned offset, in 0.01° (R566); with `DIRINV` the sectors run against
the count. -/
def State.thetaEnc (s : State) : Int :=
  let x := tdiv (s.mot.ext * s.rd MOT_GEAR.NUM * s.rd MOT_CFG.PP * 36000)
    ((s.rd MOT_CPR.CPR * s.rd MOT_GEAR.DEN : Nat) : Int)
  (if s.rb MOT_CFG.DIRINV then -x else x) % 36000

/-- The mean of angles in 0.01°, taken about the first of them. -/
def meanAngle (l : List Int) : Int :=
  match l with
  | [] => 0
  | x :: _ => x + tdiv (sumI (l.map (fun y => (y - x + 18000) % 36000 - 18000))) l.length

/-- The learned offset of the torque in force, the other where only that is valid (R567). -/
def State.gearOffset (s : State) : Int :=
  meanAngle (if (s.mot.tq ∧ 16 ≤ s.mot.ofsP.length) ∨ s.mot.ofsN.length < 16 then s.mot.ofsP else s.mot.ofsN)

/-- The sector of geared commutation (R566, R567): a crossing lies 30° into its sector. -/
def State.gearSector (s : State) : Nat := ((s.thetaEnc - s.gearOffset) % 36000 / 6000).toNat

/-- An offset sample enters the mean of the torque sign it was taken under (R567). -/
def State.learnOffset (s : State) : State :=
  let x := (s.thetaEnc - 3000 - 6000 * (s.rd MOT_STAT.SECTOR : Int)) % 36000
  if s.mot.tq then { s with mot := { s.mot with ofsP := keep 16 (x :: s.mot.ofsP) } }
  else { s with mot := { s.mot with ofsN := keep 16 (x :: s.mot.ofsN) } }

/-- The motor has synchronised: a start or a catch succeeds, and the command goes on (R576, R579). -/
def State.synced (s : State) : State :=
  let wasCatch := decide (s.rd MOT_STAT.STATE = 4)
  let s := { s with mot := { s.mot with start := .none, revN := 0, revExt := s.mot.ext, revBad := 0 } }
  let s := (s.wr MOT_STAT.STATE 2).motGo
  if wasCatch then s.profileHere.motStopScan else s

/-- The next commutation after a crossing at `t` (R562): T_s × (30 − θ) / 60 later; before three crossings T_s is not
defined, and the time is a free value. -/
def State.schedule (s : State) (t : Int) : State :=
  let (ts, s) := match s.mot.tS with | some x => (x, s) | none => s.takeInt
  { s with mot := { s.mot with tComm := some (t + tdiv (ts * (300 - (s.rd MOT_ADVST.ADV : Int))) 600) } }

/-- A crossing is accepted at `t` ns (R561): six successive sectors end a start (R576) or geared commutation (R569). By
back-EMF, which the sixth may begin, it gives the next commutation (R562). -/
def State.crossing (s : State) (t : Int) : State :=
  let m := s.mot
  let s := { s with mot := { m with
    tzc := some t, tzc1 := m.tzc, tzc2 := m.tzc1, zcTaken := true, demag := false, zcRun := m.zcRun + 1, missRun := 0 } }
  let st := s.rd MOT_STAT.STATE
  let s := if st = 2 then s.learnOffset else s
  let s :=
    if s.mot.zcRun < 6 then s
    else if st = 1 ∨ st = 4 then s.synced
    else if st = 3 ∧ s.rd MOT_CATCH.CATCH_MIN < (s.rdS MOT_SPEED.N).natAbs then
      { s with mot := { s.mot with revN := 0, revExt := s.mot.ext, revBad := 0 } }.wr MOT_STAT.STATE 2
    else s
  if s.byEmf then s.schedule t else s

/-- The time limit of the demagnetisation window in ns (R560); none before a sector has had a duration. -/
def MotS.demagEnd (m : MotS) (pct : Nat) : Option Int :=
  match m.tLast, m.secDur with
  | some a, some d => some (a + tdiv (pct * d) 100)
  | _, _ => none

/-- The end of the window for a crossing in ns (R563); none before T_s is defined. -/
def State.zcEnd (s : State) : Option Int :=
  match s.mot.tzc, s.mot.tS with
  | some a, some t => if s.byEmf then some (a + tdiv (s.rd MOT_ZC.MISS_WIN * t) 100) else none
  | _, _ => none

/-- A crossing at `t` counts (R560, R561, R563): it is the first of its sector, after the demagnetisation window, which
two samples in the pre-crossing state end before its time limit, and within the window for a crossing. -/
def State.zcCounts (s : State) (t : Int) (pre : Bool) : Bool :=
  let shut := s.mot.demag && !pre && (s.mot.demagEnd (s.rd MOT_ZC.DEMAG_MAX)).all (fun e => decide (t < e))
  s.seesEmf && !s.mot.zcTaken && !shut && s.mot.tLast.all (fun a => decide (a ≤ t)) && s.zcEnd.all (fun e => decide (t ≤ e))

/-- ZERO_CROSSING (R559 to R561). -/
def execZeroCrossing (x : ZcIn) (s : State) : Host.Outcome State Fault Refusal :=
  .next (if s.zcCounts x.t x.pre then s.crossing x.t else s)

/-- DEMAG_END (R560): the window ends by its time limit, at `t` where no rule gives it; a comparator already past the
crossing, as the slope of the sector tells, gives the crossing at that end. `above`: the floating phase lies above the
virtual neutral (R558). -/
def execDemagEnd (t : Nat) (above : Bool) (s : State) : Host.Outcome State Fault Refusal :=
  let e := (s.mot.demagEnd (s.rd MOT_ZC.DEMAG_MAX)).getD t
  if s.seesEmf && s.mot.demag && decide (e ≤ s.endNs) then
    let post := above = slopeUp (s.rd MOT_STAT.SECTOR) s.mot.fwd
    let s := { s with mot := { s.mot with demag := false } }
    .next (if post && s.zcCounts e false then s.crossing e else s)
  else .next s

/-- The time of step `k` of the ramp of P2 in ns (R575): the rate rises linearly to 1.2 × `CATCH_MIN` over `RAMP_T`, so k
sectors have passed after √(k × `RAMP_T` / (0.06 × `CATCH_MIN` × `PP`)). -/
def State.rampStep (s : State) (k : Nat) : Option Int :=
  let r := 6 * s.rd MOT_CATCH.CATCH_MIN * s.rd MOT_CFG.PP
  if r = 0 then none
  else some (s.mot.rampAt + (isqrt (k * (s.rd MOT_START.RAMP_T * 10000000) * 100000000000 / r) : Nat))

/-- COMMUTATION (R562, R566, R575): by back-EMF the next sector at the time that the crossing gave, in the ramp of P2 at
the time of its next step, otherwise at `t` ns: geared the sector of the encoder, in a start of P1 the next one. -/
def execCommutation (t : Nat) (s : State) : Host.Outcome State Fault Refusal :=
  if s.byEmf then
    match s.mot.tComm with
    | some e => .next (if e ≤ s.endNs then s.nextSector e else s)
    | none => .next s
  else if s.rd MOT_STAT.STATE = 3 then .next (s.toSector s.gearSector t)
  else if !s.seesEmf then .next s
  else if s.rb MOT_CFG.CLASS then
    match s.rampStep (s.mot.rampN + 1) with
    | some e => .next (if e ≤ s.endNs then { s with mot := { s.mot with rampN := s.mot.rampN + 1 } }.nextSector e else s)
    | none => .next s
  else .next (s.nextSector t)

/-- Active short where the gates may switch (R123, R606, R630). -/
def State.activeShort (s : State) : State :=
  if s.motMayGate then s.wr MOT_STAT.ASHORT 1 else s

/-- Loss of sync (R578, R580). -/
def State.syncLoss (s : State) : State :=
  let again := match s.mot.lostAt with | some t => decide (s.clk < t + s.msT 1000) | none => false
  let s := (s.incSat MOT_PCNT.SYNC_LOSS).motOffsetsOff
  let s := { s with mot := { s.mot with lostAt := some s.clk, missRun := 0, zcRun := 0 } }
  if again then (s.motRaise 25).motFail rFAULT dSYNC
  else
    let fast := decide (s.rd MOT_FW.N_FW < (s.rdS MOT_SPEED.N).natAbs)
    let s := { s with mot := { s.mot with gatesOff := true, duty := 0, iInt := 0, sInt := 0, iCmd := 0, start := .none } }
    let s := s.wr MOT_STAT.STATE 4
    if fast then s.activeShort else s

/-- A sector passes without a crossing (R563): MOT commutates at `t`, the end of its window. -/
def State.miss (s : State) (t : Int) : State :=
  let m := s.mot
  let s := { s with mot := { m with
    tzc := (match m.tzc, m.tS with | some a, some t => some (a + t) | x, _ => x), tzc1 := m.tzc, tzc2 := m.tzc1
    missRun := m.missRun + 1, zcRun := 0 } }
  (s.incSat MOT_PCNT.MISS).nextSector t

/-- ZC_MISS (R563, R578): the window for a crossing has ended without one. DESIGN CHOICE (log entry 68): before T_s is
defined its end is a free value. -/
def execZcMiss (s : State) : Host.Outcome State Fault Refusal :=
  if s.byEmf && !s.mot.zcTaken && s.zcEnd.all (fun e => decide (e ≤ s.endNs)) then
    let (e, s) := s.orFree s.zcEnd
    let s := s.miss e
    .next (if s.rd MOT_STAT.STATE = 2 ∧ 3 ≤ s.mot.missRun then s.syncLoss else s)
  else .next s

/-- GEAR_CHECK (R589): once a motor revolution of 6 × `PP` sectors. -/
def execGearCheck (s : State) : Host.Outcome State Fault Refusal :=
  if s.rd MOT_STAT.STATE = 2 ∧ 6 * s.rd MOT_CFG.PP ≤ s.mot.revN then
    let d := s.mot.ext - s.mot.revExt
    let rev : Int := ((s.rd MOT_CPR.CPR * s.rd MOT_GEAR.DEN : Nat) : Int)
    let dir : Int := if s.mot.fwd ≠ s.rb MOT_CFG.DIRINV then 1 else -1
    let bad := decide ((s.rd MOT_XCHK.GEAR_TOL : Int) * rev < (d * s.rd MOT_GEAR.NUM - dir * rev).natAbs * 100)
    let s := { s with mot := { s.mot with
      revN := 0, revExt := s.mot.ext, revBad := if bad then s.mot.revBad + 1 else 0 } }
    if bad then .next (if 4 ≤ s.mot.revBad then s.motOffsetsOff.motRaise 28 else s) else .next (s.condGone 28 0)
  else .next s

/-! ### Starting (R571 to R577) -/

/-- The largest duty (R554, R591): the low side of the switched leg is on for the first 200 ns, and the dead time passes
twice. -/
def State.dutyTop (s : State) : Int :=
  let p := s.rd MOT_CFG.NTICK * s.tickNs
  ((65536 * (p - 200 - 4 * s.rd MOT_DT.DT) / max 1 p : Nat) : Int)

/-- A normal start (R575): geared at once with a valid offset, otherwise test pulses with VM on the vectors (P1) or the
held vector (P2). -/
def State.normalStart (s : State) : State :=
  let s := { s with mot := { s.mot with gatesOff := !s.motMayGate, startT := s.clk, iCmd := 0, tComm := none } }
  if s.ofsValid then ({ s with mot := { s.mot with start := .none } }.wr MOT_STAT.STATE 3).motGo
  else
    let s := { s with mot := { s.mot with start := .align } }.wr MOT_STAT.SECTOR 0
    if s.rb MOT_CFG.CLASS then { s with mot := { s.mot with iCmd := s.rd MOT_ILIM.ALIGN_I } }
    else { s with mot := { s.mot with duty := s.dutyTop } }

/-- The Springbok start (R574): the observed sector is loaded with a duty that equals the back-EMF over VM, which no rule
states in registers: a free value. -/
def State.springbok (s : State) (sector : Nat) : State :=
  let (d, s) := s.takeNat
  { s with mot := { s.mot with
    start := .springbok, startT := s.clk, tComm := none, duty := clampI (d % 65536 : Nat) 0 s.dutyTop
    gatesOff := !s.motMayGate, zcTaken := false, zcRun := 0, missRun := 0, demag := false, tLast := none, secDur := none
    iSum := 0, iN := 0 } }.wr MOT_STAT.SECTOR sector

/-- START_CHECK_END (R572 to R575): `T_CHK` ends with what was observed. -/
def execStartCheckEnd (obs : Rotation) (s : State) : Host.Outcome State Fault Refusal :=
  if s.rd MOT_STAT.STATE ≠ 1 ∨ s.mot.start ≠ .check ∨ !s.since (some s.mot.startT) (s.rd MOT_START.T_CHK) then .next s
  else
    match obs with
    | .none => .next s.normalStart
    | .seen forward sector rpm =>
      if !s.rb MOT_CFG.CLASS then .next (s.motFail rFAULT dSPIN)
      else if rpm ≤ s.rd MOT_CATCH.CATCH_MIN then .next s.normalStart
      else if forward then .next ({ s with mot := { s.mot with fwd := true } }.springbok sector.val)
      else .next ({ s with mot := { s.mot with start := .brake, startT := s.clk } }.activeShort)

/-- ACTIVE_SHORT_END (R574): the 10 ms short of a backward start ends and MOT observes again. -/
def execActiveShortEnd (s : State) : Host.Outcome State Fault Refusal :=
  if s.mot.start = .brake ∧ s.since (some s.mot.startT) 10 then
    .next ({ s with mot := { s.mot with start := .check, startT := s.clk } }.wr MOT_STAT.ASHORT 0)
  else .next s

/-- Which way the running command sets out. -/
def State.motAim (s : State) : Int :=
  match s.mot.cmd with
  | some m => if m.desc.op = 0x44 then m.desc.force.toInt - s.rdS MOT_FORCE.F else m.desc.pos.toInt - s.mot.ext
  | none => 0

/-- How a test pulse ended (R575): the current it reached in mA and its length in ns. -/
def State.pulseEnd (s : State) (x : PulseIn) : Nat × Nat :=
  match x.reach with
  | some t => if t ≤ 200000 then (s.rd MOT_ILIM.ALIGN_I, max 1 t) else (x.i.natAbs, 200000)
  | none => (x.i.natAbs, 200000)

/-- The sector with the fastest rise of current (R575), of equal ones the lowest: DESIGN CHOICE (log entry 68). -/
def State.fastest (s : State) (xs : Vector PulseIn 6) : Nat :=
  let es := xs.toList.map s.pulseEnd
  (es.zipIdx.foldl (fun (b : (Nat × Nat) × Nat) e => if b.1.1 * e.1.2 < e.1.1 * b.1.2 then e else b)
    ((es.headD (0, 1), 0))).2

/-- ALIGN_END (R575): in P1 the pulses are over and the sector with the fastest rise is taken, in P2 `ALIGN_T` ends in
sector 0; the motor accelerates in the sector sequence. DESIGN CHOICE (log entry 161): the state does not show which of the
six pulses runs. -/
def execAlignEnd (xs : Vector PulseIn 6) (s : State) : Host.Outcome State Fault Refusal :=
  let p2 := s.rb MOT_CFG.CLASS
  let pulsed := ((xs.toList.map (fun x => (s.pulseEnd x).2)).sum ≤ (s.clk + 1 - s.mot.startT) * s.tickNs)
  let ended := if p2 then s.since (some s.mot.startT) (10 * s.rd MOT_START.ALIGN_T) else decide pulsed
  if s.mot.start = .align ∧ ended then
    let s := s.turnsAs s.motAim
    let s := { s with mot := { s.mot with
      start := .ramp, startT := s.clk, zcRun := 0, zcTaken := false, missRun := 0, demag := false, tLast := none
      secDur := none, iSum := 0, iN := 0, rampAt := ((2 * s.sys.cyc : Nat) : Int), rampN := 0 } }
    .next (if p2 then s else s.wr MOT_STAT.SECTOR (s.fastest xs))
  else .next s

/-- START_TIMEOUT (R576, R580): no six successive crossings by the end of the ramp, or 1 s after a Springbok start. -/
def execStartTimeout (s : State) : Host.Outcome State Fault Refusal :=
  let late :=
    match s.mot.start with
    | .ramp => s.since (some s.mot.startT) (10 * s.rd MOT_START.RAMP_T)
    | .springbok => s.since (some s.mot.startT) 1000
    | _ => false
  if !late then .next s
  else if s.rd MOT_STAT.STATE = 4 then
    let s := (s.motRaise 25).motFail rFAULT dSYNC
    .next s.motStopScan
  else .next ((s.motRaise 25).motFail rFAULT (dSrc 25))

/-- CATCH (R579): the encoder speed has fallen below `CATCH_MAX`; one Springbok start, whatever the class. -/
def execCatch (sector : Fin 6) (s : State) : Host.Outcome State Fault Refusal :=
  let n := (s.rpmOf (s.rdS MOT_ESPD.SPD)).natAbs
  if s.rd MOT_STAT.STATE = 4 ∧ s.mot.start ≠ .springbok ∧ n < s.rd MOT_CATCH.CATCH_MAX then
    .next (((s.wr MOT_STAT.ASHORT 0).turnsAs (s.rdS MOT_ESPD.SPD)).springbok sector.val)
  else .next s

/-! ### The encoder (R582 to R590) -/

/-- Gray code to binary in `n` bits (R582). -/
def grayBin (n x : Nat) : Nat :=
  (((List.range n).reverse).foldl (fun (a : Nat × Bool) i =>
    let b := a.2 ≠ bitN x i
    (if b then a.1 + 2 ^ i else a.1, b)) (0, false)).1

/-- The speed computation of R590 for a frame whose count changed by `d`. -/
def State.encSpeed (s : State) (d : Int) : State :=
  let m := s.mot
  let off (s : State) : State := (s.wrS MOT_ESPD.SPD 0).wr MOT_ENCSTAT.SPD_VALID 0
  if d = 0 then
    let s := { s with mot := { m with still := m.still + 1 } }
    if s.rd MOT_SPD.STILL ≤ m.still + 1 then off { s with mot := { s.mot with run := 0 } } else s
  else
    let dir := sgn d
    let m := if dir ≠ m.cand ∨ m.run = 0 then { m with cand := dir, run := 0, anchor := m.frameN - 1 } else m
    let m := { m with still := 0, run := min (m.run + d.natAbs) 2 }
    let s := { s with mot := m }
    if m.run = 2 then
      let k := min (m.frameN - m.anchor) (s.rd MOT_SPD.SPD_WIN)
      let old := m.frames.getD (k - 1) m.ext
      let t : Int := ((k * s.rd MOT_ENC.DIV * s.tickNs : Nat) : Int)
      let s := s.wr MOT_ENCSTAT.DIR (if 0 < dir then 1 else 2)
      (s.wrS MOT_ESPD.SPD (tdiv ((m.ext - old) * 1000000000) t)).wr MOT_ENCSTAT.SPD_VALID 1
    else off s

/-- A valid frame (R586): the extended count, then the speed. -/
def State.encValid (s : State) (raw : Nat) : State :=
  let n := s.rd MOT_ENC.NBITS
  let m := s.mot
  if !m.hadFrame then
    { s with mot := { m with ext := raw, rawPrev := raw, hadFrame := true, frameN := m.frameN + 1 } }
  else
    let d := wrapS n ((raw : Int) - m.rawPrev)
    if 2 ^ (n - 2) ≤ d.natAbs then s.motOffsetsOff.motRaise 27
    else
      let s := s.condGone 27 0
      let s := { s with mot := { m with
        ext := wrapS 48 (m.ext + d), rawPrev := raw, frameN := m.frameN + 1
        frames := keep 1023 (m.ext :: m.frames) } }
      s.encSpeed d

/-- The tick number at which the frame in progress began (R582). -/
def State.frameStart (s : State) : Nat := s.now - s.now % max 1 (s.rd MOT_ENC.DIV)

/-- A frame may have ended in this tick (R582): none has since the last multiple of `DIV`, and its bits, at `FCLK` × 50 kHz,
have been shifted out by the end of the tick. -/
def State.frameDue (s : State) : Bool :=
  let bits := s.rd MOT_ENC.NBITS + s.rd MOT_ENC.ERRBIT + 1
  decide (s.mot.frameK ≠ some s.frameStart) &&
    decide (bits * 20000 ≤ (s.now + 1 - s.frameStart) * s.tickNs * s.rd MOT_ENC.FCLK)

/-- A frame is valid (R583). -/
def State.frameValid (s : State) (x : EncIn) : Bool :=
  x.low && x.rise.any (fun t => decide (t ≤ 1000 * s.rd MOT_ENC.TM)) && !(s.rb MOT_ENC.ERRBIT && x.alarm)

/-- ENCODER_FRAME (R582 to R586): a frame has been read; `raw` holds the position bits as read. -/
def execEncoderFrame (x : EncIn) (raw : Word) (s : State) : Host.Outcome State Fault Refusal :=
  if s.idle ∨ !s.frameDue then .next s
  else
    let s := { s with mot := { s.mot with frameK := some s.frameStart } }
    if s.frameValid x then
      let n := s.rd MOT_ENC.NBITS
      let v := raw.toNat % 2 ^ n
      let s := ({ s with mot := { s.mot with badRun := 0 } }.wr MOT_ENCSTAT.FRAME_OK 1).condGone 26 0
      .next (s.encValid (if s.rb MOT_ENC.GRAY then grayBin n v else v))
    else
      let s := { s with mot := { s.mot with badRun := s.mot.badRun + 1 } }
      let s := (s.wr MOT_ENCSTAT.FRAME_OK 0).incSat MOT_ENCSTAT.FERR
      .next (if s.mot.badRun = 3 then (s.motOffsetsOff.motRaise 26).motFail rFAULT (dSrc 26) else s)

/-- HOME_EDGE (R587, R588, R612): outside a reset an edge latches the count between two frames: `num`/`den` of the way
to the next one, which lies `dNext` counts on. -/
def execHomeEdge (rising : Bool) (dNext : Int) (num den : Nat) (s : State) : Host.Outcome State Fault Refusal :=
  let e := s.rd MOT_XCHK.HOME_EDGE
  if s.idle ∨ s.rb MOT_ENCSTAT.HOME_VALID ∨ (e = 0 ∧ !rising) ∨ (e = 1 ∧ rising) then .next s
  else
    let p := wrapS 48 (rdiv (s.mot.ext * den + dNext * num) den)
    let u := ofS 48 p
    let s := ((s.wr MOT_HOMEL.HOME_LO u).wr MOT_HOMEH.HOME_HI (u / 2 ^ 32)).wr MOT_ENCSTAT.HOME_VALID 1
    let old := s.mot.latch
    let s := { s with mot := { s.mot with latch := some p } }
    match old with
    | none => .next s
    | some q =>
      let s := s.wrS MOT_HOMEH.DRIFT (satS 16 (p - q))
      if s.rd MOT_XCHK.HOME_TOL < (p - q).natAbs then .next (s.motRaise 29)
      else .next ((s.condGone 29 0).clear 29 0)

/-! ### The bridge (R602 to R606) -/

/-- A bridge fault (R606): every motor gate goes off and stays off, the command completes with FAULT. -/
def State.bridge (s : State) (n : Src) : State :=
  let s := s.motRaise n
  (s.motFail rFAULT (dSrc n)).motGatesOff

/-- The bootstrap supplies of the legs hold their high-side drivers off below 6.5 V and release them above 7.0 V (R552). -/
def State.motBootstrap (s : State) (bst : Vector Int 3) : State :=
  let legs : List Leg := [.a, .b, .c]
  let off (x : Leg × Nat) : Bool :=
    let v := bst.toList.getD x.2 0
    decide (v < 6500) || (decide (v ≤ 7000) && s.mot.hsOff.contains x.1)
  { s with mot := { s.mot with hsOff := (legs.zipIdx.filter off).map (·.1) } }

/-- Which gates of a leg, the high and the low side, are on in this period (R552, R554, R556, R557, R572, R574, R578, R603):
all low sides in an active short and in the first 100 µs of a start; else both of the switched leg in turn, the low side
of the return leg, none of the floating leg. -/
def State.motLeg (s : State) (leg : Leg) : Bool × Bool :=
  let k := s.rd MOT_STAT.SECTOR
  if !s.motMayGate then (false, false)
  else if s.mot.cut.contains leg then (false, false)
  else if s.rb MOT_STAT.ASHORT then (false, true)
  else if s.mot.start = .check then (false, decide (s.clk < s.mot.startT))
  else if s.mot.gatesOff then (false, false)
  else (switchedLeg k = leg && !s.mot.hsOff.contains leg, switchedLeg k = leg || returnLeg k = leg)

/-- The compare value of the switched leg, in 2 ns (R26, R554). -/
def State.motCompare (s : State) : Int := tdiv (s.mot.duty * (s.rd MOT_CFG.NTICK * s.tickNs : Nat)) 131072

/-- MOT_PWM_PERIOD_START (R553, R591): written setup comes into force (R753), `LATCH` = 0 frees the latched bit of the
short-circuit comparator (R689), legs cut off run again, and the current loop forms the duty. In P2 it holds `ALIGN_I`
during the alignment (R575); no rule states the current of the ramp of P2, so its duty is a free value. -/
def execMotPwmPeriodStart (x : MotPwmIn) (s : State) : Host.Outcome State Fault Refusal :=
  if s.idle ∨ s.now % max 1 (s.rd MOT_CFG.NTICK) ≠ 0 then .next s else
  let s := (s.commitIf lateMot).motBootstrap x.bst
  let cmp := s.cmpAt 67
  let s := if !cmp.filt && !s.rb (CMP_CFG.LATCH 67) then s.updCmp 67 (fun x => { x with lat := false }) else s
  let s := if (s.cmpAt 67).lat then s else ((s.condGone 20 0).condGone 21 0).condGone 22 0
  let s := s.condGone 23 0
  let m := s.mot
  let s := { s with mot := { m with
    cut := [], tripNow := false, tripRun := if m.tripNow then m.tripRun else 0, iSum := m.iSum + x.i, iN := m.iN + 1 } }
  let st := s.rd MOT_STAT.STATE
  let p2 := s.rb MOT_CFG.CLASS
  let runs := decide (st = 2 ∨ st = 3 ∨ (s.mot.start = .align ∧ p2) ∨ (s.mot.start = .ramp ∧ !p2))
  if !s.motMayGate ∨ s.rb DBG_CTL.HALT_MOT then .next s
  else if s.mot.start = .ramp ∧ p2 then
    let (d, s) := s.takeNat
    .next { s with mot := { s.mot with duty := clampI (d % 65536 : Nat) 0 s.dutyTop, gatesOff := false } }
  else if !runs then .next s
  else
    let e : Int := (s.mot.iCmd.natAbs : Int) - x.i.natAbs
    let i1 := s.mot.iInt + (s.rd MOT_KCUR.KI : Int) * e
    let raw := tdiv ((s.rd MOT_KCUR.KP : Int) * e + i1) 1000
    let out := clampI raw 0 s.dutyTop
    .next { s with mot := { s.mot with
      duty := out, iInt := if raw = out then i1 else s.mot.iInt, gatesOff := false } }

/-- A motor gate is on at some time of the period. -/
def State.motGated (s : State) : Bool := ([.a, .b, .c] : List Leg).any (fun l => (s.motLeg l).1 || (s.motLeg l).2)

/-- MOT_SC_TRIP (R603, R605): every motor gate is off for the rest of the period; the trip belongs to the switched leg. -/
def execMotScTrip (s : State) : Host.Outcome State Fault Refusal :=
  if !s.motGated ∨ s.mot.tripNow then .next s
  else
    let leg := switchedLeg (s.rd MOT_STAT.SECTOR)
    let m := s.mot
    let two := match m.lastTrip with
      | some (l, t) => decide (l ≠ leg) && decide (s.clk ≤ t + s.msT (s.rd MOT_SC.PP_WIN))
      | none => false
    let run := if m.tripLeg = some leg ∧ 0 < m.tripRun then m.tripRun + 1 else 1
    let s := { s with mot := { m with
      cut := [.a, .b, .c], tripNow := true, tripLeg := some leg, tripRun := run, lastTrip := some (leg, s.clk) } }
    let s := s.incSat MOT_PCNT.SC_CNT
    .next (if two then s.bridge 22 else if s.rd MOT_SC.SC_LIMIT ≤ run then s.bridge 21 else s)

/-- MOT_SC_HARD (R604). -/
def execMotScHard (s : State) : Host.Outcome State Fault Refusal := .next (s.bridge 20)

/-- MOT_BOTH_ON (R556): the interlock forces both gates of the leg low; three within 16 ticks raise `MOT_SHOOT`. -/
def execMotBothOn (leg : Leg) (s : State) : Host.Outcome State Fault Refusal :=
  let m := s.mot
  let s := { s with mot := { m with
    cut := if m.cut.contains leg then m.cut else leg :: m.cut
    bothOn := keep 3 (s.clk :: m.bothOn.filter (fun t => s.clk < t + 16)) } }
  let s := s.incSat MOT_PCNT.SHOOT_REQ
  .next (if 3 ≤ s.mot.bothOn.length then s.bridge 23 else s)

/-! ### BRKM (R608 to R611) -/

/-- BRKM_SWITCH (R608, R611, R636): a VM sample in mV; the over-voltage comparator forces the chopper on. `VM_LOW` is gone
above 18 V (R617). -/
def execBrkmSwitch (vm : Nat) (s : State) : Host.Outcome State Fault Refusal :=
  let s := s.wr MOT_VM.VM (satU 16 vm)
  let s := if 18000 < vm then s.condGone 30 0 else s
  let e := s.brkmEff
  let forced := (s.cmpAt 68).filt && !(s.cmpAt 68).init
  let on :=
    if forced then true
    else if s.active 24 then false
    else if e.1 < (vm : Int) then true
    else if (vm : Int) < e.2 then false
    else s.mot.brkm.since.isSome
  .next ({ s with mot := { s.mot with brkm := (s.mot.brkm.turn on s.clk).trim s.clk (s.msT 1000) } }.wb MOT_STAT.BRKM on)

/-- BRKM_OVL (R609, R611). -/
def execBrkmOvl (s : State) : Host.Outcome State Fault Refusal :=
  let w := s.msT 1000
  if s.rd MOT_BRKD.DMAX * w < 100 * s.mot.brkm.onTime s.clk w then
    let forced := (s.cmpAt 68).filt && !(s.cmpAt 68).init
    let s := if forced then s
      else { s with mot := { s.mot with brkm := s.mot.brkm.turn false s.clk } }.wr MOT_STAT.BRKM 0
    .next (s.motRaise 24)
  else .next s

/-- The condition of a chopper overload is gone below half of its `DMAX` (R682). -/
def State.chopperConds (s : State) : State :=
  let w := s.msT 1000
  let s := if 200 * s.mot.brkm.onTime s.clk w < s.rd MOT_BRKD.DMAX * w then s.condGone 24 0 else s
  if 200 * s.saf.brkb.onTime s.clk w < s.rd SAF_BRKBD.DMAX * w then s.condGone 36 0 else s

end Sys2Proof.Machine
end

