-- ==== Sys2Proof/Machine/Frames.lean ====
section
/-!
DEFINITION. Data frames of the ring (R499 to R511) and writes to host memory: what the host queues, the ring rows, the
dump and the register rows share.
-/

namespace Sys2Proof.Machine

/-! ### Positions and rings -/

/-- The device's own position (R547). -/
def State.pos (s : State) : Nat := s.rd RING_STAT.POS

/-- The one stream of R534 runs on the ring: it is WRAPPED. DESIGN CHOICE (log entry 153): an enumeration that starts again
in WRAPPED (R544) runs on that stream too, since with two the positions of R525 would not differ. -/
def State.wrapped (s : State) : Bool :=
  decide (s.rd RING_STAT.STATE = 3) || (decide (s.rd RING_STAT.STATE = 1) && s.ring.wrapOn)

/-- The head's primary output is that of ring A unless its own `WAO` link is the broken one (R534). -/
def State.primary (s : State) : RingId := if s.ring.onA then .a else .b

/-- The other ring. -/
def otherRing : RingId → RingId
  | .a => .b
  | .b => .a

/-- Frames of position `p` from the head travel on ring A (R505). -/
def State.headSendsA (s : State) (p : Nat) : Bool := decide (2 * p ≤ s.rd RING_STAT.NPOS)

/-- The ring on which a frame is sent (R505): its home ring, the other when it is sent again. -/
def State.sendRing (s : State) (f : Frame) : RingId :=
  let a := if s.isHead then s.headSendsA f.dst.toNat else !s.headSendsA s.pos
  if a = f.retry then .b else .a

/-- The ring on which a frame arrives (R505); at a head in WRAPPED the input at which its stream first returns (R534). -/
def State.arriveRing (s : State) (f : Frame) : RingId :=
  let a := if s.isHead then !s.headSendsA f.src.toNat else s.headSendsA s.pos
  if s.isHead && s.wrapped then (otherRing s.primary) else if a = f.retry then .b else .a

/-- The ring on which goes on what arrives on a ring: a wrapped device carries it over (R533). -/
def State.outRing (s : State) (r : RingId) : RingId :=
  match r with
  | .a => if s.rb RING_STAT.WRAPB then .b else .a
  | .b => if s.rb RING_STAT.WRAPA then .a else .b

/-- The index of a ring. -/
def ringIx : RingId → Fin 2
  | .a => 0
  | .b => 1

/-- The bypass of a ring is closed (R480). -/
def State.bypass (s : State) (r : RingId) : Bool :=
  match r with
  | .a => s.rb RING_STAT.BYPA
  | .b => s.rb RING_STAT.BYPB

/-- The device is live on the ring: a bypass is open. -/
def State.live (s : State) : Bool := !(s.bypass .a && s.bypass .b)

/-- The device drives a ring's output: its bypass is open and it carries nothing over from it (R481, R533). -/
def State.drives (s : State) (r : RingId) : Bool :=
  !s.bypass r && !s.rb (match r with | .a => RING_STAT.WRAPB | .b => RING_STAT.WRAPA)

/-- The device sends on what arrives on a ring (R481, R504, R534): a member whose bypass is open; a head in WRAPPED what
comes back on the ring that is not its primary one, unless that output leads to the break. -/
def State.relays (s : State) (r : RingId) : Bool :=
  if s.role = 0 then !s.bypass r
  else s.wrapped && !s.bypass r && decide (r ≠ s.primary) && !bget s.ring.down (ringIx s.primary)

/-! ### Host structures -/

/-- Base address of the CPQ (R474). -/
def State.cpqBase (s : State) : Nat := s.rd HOST_CPQBLO.BASE * 4096 + s.rd HOST_CPQBHI.BASE * 2 ^ 32
/-- Base address of the EVQ. -/
def State.evqBase (s : State) : Nat := s.rd HOST_EVQBLO.BASE * 4096 + s.rd HOST_EVQBHI.BASE * 2 ^ 32
/-- Base address of the TLR. -/
def State.tlrBase (s : State) : Nat := s.rd HOST_TLRBLO.BASE * 4096 + s.rd HOST_TLRBHI.BASE * 2 ^ 32
/-- Base address of a submission queue. -/
def State.qBase (s : State) (q : QId) : Nat := s.rd (HOST_QBLO.BASE q) * 4096 + s.rd (HOST_QBHI.BASE q) * 2 ^ 32

/-- The classes of frames, in the order in which a device sends them (R467, R506). -/
inductive FrCls where
  | dbl | mgmt | reg | rdcpl | regr | event | completion | telemetry | other | rdreq
  deriving DecidableEq, Repr

/-- The classes in order of precedence. -/
def FrCls.all : List FrCls := [.dbl, .mgmt, .reg, .rdcpl, .regr, .event, .completion, .telemetry, .other, .rdreq]

/-- The number of a class. -/
def FrCls.code : FrCls → Nat
  | .dbl => 0 | .mgmt => 1 | .reg => 2 | .rdcpl => 3 | .regr => 4
  | .event => 5 | .completion => 6 | .telemetry => 7 | .other => 8 | .rdreq => 9

/-- An address lies in a structure of `n` octets. -/
def inStruct (base n a : Nat) : Bool := decide (base ≤ a ∧ a < base + n)

/-- The class of a frame; a WR is told by the structure that it writes. -/
def State.frCls (s : State) (f : Frame) : FrCls :=
  match f.type.toNat with
  | 1 => .reg
  | 2 => .regr
  | 3 => .rdreq
  | 4 => .rdcpl
  | 5 =>
    let a := f.arg.toNat
    if inStruct s.evqBase (16 * s.evqDepth) a then .event
    else if inStruct s.cpqBase (32 * s.cpqDepth) a then .completion
    else if inStruct s.tlrBase (64 * s.tlrDepth) a then .telemetry
    else .other
  | 6 => .dbl
  | _ => .mgmt

/-- A frame is a MGMT ACK. -/
def isAck (f : Frame) : Bool := decide (f.type = 7) && decide (f.arg.toNat % 256 = 1)

/-- R508 permits a class toward a destination. -/
def State.mayClass (s : State) (dst : Nat) (c : FrCls) : Bool := !s.ring.failed.contains (dst, c.code)

/-! ### Frames to send -/

/-- Place a frame among those that wait to be sent (R506). -/
def State.queueFrame (s : State) (f : Frame) : State := { s with ring := { s.ring with outq := s.ring.outq ++ [f] } }

/-- The tag of the next frame toward a destination (R509). -/
def State.tagFor (s : State) (dst : Nat) : Nat := bget s.ring.tags (Fin.ofNat 32 dst) % 256

/-- A frame of this device with a given tag. -/
def State.mkFrame (s : State) (ty dst : Nat) (ackreq : Bool) (tag arg : Nat) (payload : List Word) : Frame :=
  ⟨BitVec.ofNat 3 ty, BitVec.ofNat 5 dst, BitVec.ofNat 5 s.pos, false, ackreq, true, BitVec.ofNat 8 tag,
    BitVec.ofNat 64 arg, payload, true⟩

/-- A frame with a tag of its own waits to be sent, unless its class has given up (R508). -/
def State.send (s : State) (ty dst : Nat) (ackreq : Bool) (arg : Nat) (payload : List Word) : State :=
  let f := s.mkFrame ty dst ackreq (s.tagFor dst) arg payload
  if !s.mayClass dst (s.frCls f) then s
  else
    let s' := s.queueFrame f
    { s' with ring := { s'.ring with tags := bupd s'.ring.tags (Fin.ofNat 32 dst) (fun t => t + 1) } }

/-- A MGMT frame waits to be sent; JOIN, ARRIVE, WRAP, SPAN and PERIOD_NAK ask for an acknowledgement (R507). -/
def State.mgmt (s : State) (sub dst arg : Nat) (payload : List Word) : State :=
  if s.onRing then s.send 7 dst ([2, 3, 5, 8, 9].contains sub) (sub + 256 * arg) payload else s

/-- Acknowledge a frame (R507), with a tag of its own (R509). -/
def State.ackTo (s : State) (f : Frame) : State :=
  let dst := f.src.toNat
  let s := s.queueFrame (s.mkFrame 7 dst false (s.tagFor dst) (1 + 256 * f.tag.toNat) [])
  { s with ring := { s.ring with tags := bupd s.ring.tags (Fin.ofNat 32 dst) (fun t => t + 1) } }

/-- Bytes R of the data region of a ring cycle (R485). -/
def State.dataR (s : State) : Nat := 4 * ((s.per / 4 - 80) / 4)

/-- The largest payload of a frame in bytes (R486). -/
def State.pMax (s : State) : Nat := min 256 (s.dataR - 20)

/-- Words of the largest payload. -/
def State.pWords (s : State) : Nat := max 1 (s.pMax / 4)

/-- Words in pieces of at most `k`; `n` bounds their number. -/
def chunks : Nat → Nat → List Word → List (List Word)
  | _, 0, _ => []
  | k, n + 1, ws => if ws.isEmpty then [] else ws.take k :: chunks k n (ws.drop k)

/-- Words in pieces of at most P_max (R486). -/
def State.pieces (s : State) (ws : List Word) : List (List Word) := chunks s.pWords (ws.length / s.pWords + 1) ws

/-- Bytes that a frame occupies (R499). -/
def frBytes (f : Frame) : Nat := 20 + 4 * f.payload.length

/-- The octets of a data frame between its ordered sets (R499): header, payload, CRC-32. -/
def frameWire (f : Frame) : List Byte :=
  let b (x : Nat) : Byte := BitVec.ofNat 8 x
  let body := [b (f.dst.toNat + 32 * f.type.toNat), b (f.src.toNat + 32 * b2n f.retry + 64 * b2n f.ackreq + 128 * b2n f.last),
    b f.payload.length, f.tag] ++ leBytes 8 f.arg.toNat ++ wordsBytes f.payload
  body ++ wordBytes (crc32Ieee body)

/-- A data frame goes out on a ring. -/
def State.emitFrame (s : State) (r : RingId) (f : Frame) : State := s.emit (.frame r (frameWire f))

/-- A frame names the position of this device, where it holds one (R504). -/
def State.toPos (s : State) (f : Frame) : Bool := s.rb RING_STAT.POS_VALID && decide (f.dst.toNat = s.pos)

/-- A frame is for this device: it names its position, or it is an ASSIGN, which names its device by its identifier
(R500, R504). -/
def State.forMe (s : State) (f : Frame) : Bool := s.toPos f || (decide (f.type = 7) && decide (f.arg.toNat % 256 = 4))

/-- What the device sends on for a frame that arrives (R504, R534): an EMPTY slot for one that it takes, the frame itself
for one of another position and for a MGMT frame. The head removes what returns to it at the end of the ring. -/
def State.passOn (s : State) (f : Frame) : State :=
  let r := s.arriveRing f
  if !s.relays r then s
  else if f.type ≠ 7 ∧ s.toPos f then s.emit (.slot (s.outRing r) (frBytes f) none)
  else s.emitFrame (s.outRing r) f

/-- A frame arrives (R499, R504, R507, R509): a bad CRC is counted; one for another device passes; one that asks for it
is acknowledged; one already taken is not taken again. The flag says whether it is taken. -/
def State.takeFrame (s : State) (f : Frame) (mayAck : Bool) : State × Bool :=
  if s.idle ∨ s.ring.resetting then (s, false)
  else if !f.crcOk then ((s.passOn f).incSat (RING_CNT1.DCRC (s.arriveRing f)), false)
  else if !s.forMe f then (s.passOn f, false)
  else
    let key := (f.src.toNat, f.tag.toNat)
    let dup := f.retry && s.ring.taken.any (fun t => decide ((t.1, t.2.1) = key ∧ s.clk ≤ t.2.2 + 64))
    let s := if f.ackreq && mayAck then s.ackTo f else s
    let s := s.passOn f
    if dup then (s, false)
    else
      let old := s.ring.taken.filter (fun t => decide (s.clk ≤ t.2.2 + 64))
      ({ s with ring := { s.ring with taken := if f.ackreq ∨ f.type = 1 then (key.1, key.2, s.clk) :: old else old } }, true)

/-! ### Errors and writes of the host interface -/

/-- An error of the host interface (R416, R430, R798): its bit, `HOST_ERRINFO`, the event and vector 5. A submission
queue stops. -/
def State.hostErr (s : State) (queue code : Nat) : State :=
  let s :=
    if h : queue < 18 then
      (s.setFBit HOST_ERR.QERR queue).updQ ⟨queue, h⟩ (fun q => { q with stopped := true })
    else if queue = 18 then s.wr HOST_ERR.CPQ_ERR 1
    else if queue = 19 then s.wr HOST_ERR.EVQ_ERR 1
    else if queue = 20 then s.wr HOST_ERR.TLR_ERR 1
    else s
  let s := (s.wr HOST_ERRINFO.QUEUE queue).wr HOST_ERRINFO.CODE code
  let s := if queue = 19 then s else s.event 20 10 (queue + 256 * code)
  if queue ≤ 20 then s.irq 5 else s

/-- The device can issue a write of a class (R798): the head's link and Bus Master Enable, the member's class. -/
def State.canWrite (s : State) (c : FrCls) : Bool :=
  if s.isHead then s.host.link && s.host.bme else s.mayClass 0 c && !s.ring.resetting

/-- The head can read host memory. -/
def State.canRead (s : State) : Bool := s.isHead && s.host.link && s.host.bme && !s.idle

/-- A write to host memory: on PCIe, or as a WR frame; what may exceed P_max goes by `State.writeBig` (R465, R486). -/
def State.hostWrite (s : State) (addr : Nat) (ws : List Word) : State :=
  if s.isHead then s.emit (.hostWrite addr (wordsBytes ws)) else s.send 5 0 true addr ws

/-- An event that is not written is counted (R469): `EVQ_OVF` and `HOST_EVQLOST`. -/
def State.eventLost (s : State) (n : Nat) : State :=
  let first := !s.rb HOST_ERR.EVQ_OVF
  let s := (s.wr HOST_ERR.EVQ_OVF 1).wr HOST_EVQLOST.LOST (satU 32 (s.rd HOST_EVQLOST.LOST + n))
  let s := { s with host := { s.host with evqNote := true } }
  if first then s.irq 5 else s

/-- Telemetry records that are not written, or overwritten unread, are counted (R463, R798). -/
def State.tlmLost (s : State) (n : Nat) : State :=
  if n = 0 then s else (s.wr HOST_TLMLOST.TLM_LOST (s.rd HOST_TLMLOST.TLM_LOST + n)).irq 5

/-- The place of record `cnt` of a structure of `depth` records, and its phase (R449). -/
def phaseOf (cnt depth : Nat) : Nat := 1 - (cnt / depth) % 2

/-- A record with its phase. -/
def withPhase (ph : Nat) (ws : List Word) : List Word :=
  match ws with
  | [] => []
  | w :: t => (w ||| BitVec.ofNat 32 ph) :: t

/-- The place in its group of the record written as number `i` of `n`: the STEP record stands first (R448) and is written
last (R450). -/
def recOrder (n i : Nat) : Nat := if i + 1 < n then i + 1 else 0

/-- Write record number `i`, in the order of R450, of the group in front of the completion buffer (R448 to R450). -/
def State.writeRec (s : State) (g : CGroup) (i : Nat) : State :=
  let k := recOrder g.recs.length i
  let n := (s.host.cpqW + k) % 65536
  let d := s.cpqDepth
  s.hostWrite (s.cpqBase + 32 * (n % d)) (withPhase (phaseOf n d) (g.recs.getD k []))

/-- The group in front of the completion buffer has been written: it leaves the buffer, its vector is caused, and a
channel that waited goes on once all its completions are written, that of the step that blocked among them (R331, R464,
R469). -/
def State.groupDone (s : State) : State :=
  match s.host.cbuf with
  | [] => s
  | g :: t =>
    let s := { s with host := { s.host with cbuf := t, cpqW := (s.host.cpqW + g.recs.length) % 65536, flight := none, wrote := 0 } }
    let s := (s.irq g.vec).flow
    let s :=
      match g.owner with
      | .chan c =>
        if (s.seq c).st = ChSt.hold ∧ (s.seq c).why = 4 ∧ t.all (fun x => x.owner ≠ Owner.chan c) then
          s.updSeq c (fun x => { x with resume := true })
        else s
      | .mot => if s.stopNext then s.motStopScan else s
      | .shared => s
    -- the completion of a RESET has been written: its reset is requested (R446)
    match s.host.resetAt.find? (fun e => g.recs = [adminRec e.2.idx.toNat 0 15 e.2.tag.toNat 0]) with
    | some e =>
      let s := { s with host := { s.host with resetAt := s.host.resetAt.erase e } }
      if e.1 then s.fullReset .warm 9 0 false else s.chipReset 6
    | none => s

/-! ### The head's read tags (R423, R429, R510) -/

/-- Read requests outstanding on PCIe beside those of the doorbells: the members' and the head's own. -/
def State.readsOut (s : State) : Nat := s.ring.reads.length + s.host.reads.length

/-- A read tag is free (R429): 256 with extended tags, else 32; one is reserved for summary and line reads (R423). -/
def State.tagFree (s : State) : Bool := decide (s.readsOut + 1 < if s.host.xtag then 256 else 32)

/-- The waiting RDREQ whose position comes next in turn (R429). -/
def State.rdNextReq (s : State) : Option Frame :=
  (List.range 32).findSome? (fun i => s.ring.rdq.find? (fun f => decide (f.src.toNat = (s.ring.rdLast + 1 + i) % 32)))

/-- The head issues the RDREQ whose turn it is, if a tag is free (R510). -/
def State.issueRead (s : State) : State :=
  match s.rdNextReq with
  | none => s
  | some f =>
    if s.tagFree && s.canRead then
      let s := { s with ring := { s.ring with
        rdq := s.ring.rdq.erase f, rdLast := f.src.toNat, reads := s.ring.reads ++ [(⟨f, 0, 0⟩ : OutFr)] } }
      s.emit (.hostRead f.arg.toNat ((wAt f.payload 0).toNat % 512))
    else s

/-- The head issues what waits for tags. -/
def State.issueReads (s : State) : State := s.ring.rdq.foldl (fun s _ => s.issueRead) s

/-- A class toward a destination gives up (R508, R798): its frames go, and what they carried is handled as not written. -/
def State.classFails (s : State) (dst : Nat) (c : FrCls) : State :=
  let mine (f : Frame) : Bool := decide (f.dst.toNat = dst) && decide (s.frCls f = c) && !isAck f
  let lost := (s.ring.outq.filter mine).length + (s.ring.sent.filter (fun o => mine o.frame)).length
  let lost := lost - ((s.ring.outq.filter (fun f => mine f && f.retry)).length)
  let r := { s.ring with
    outq := s.ring.outq.filter (fun f => !mine f), sent := s.ring.sent.filter (fun o => !mine o.frame)
    failed := if s.ring.failed.contains (dst, c.code) then s.ring.failed else (dst, c.code) :: s.ring.failed }
  let s := { s with ring := r }
  let s := (s.wr RING_ERR.DATA_FAIL 1).raiseDev 56
  match c with
  | .event =>
    let s := { s with host := { s.host with evqW := (s.host.evqW + 65536 - lost % 65536) % 65536 } }
    (s.eventLost lost).hostErr 19 2
  | .completion => { s with host := { s.host with flight := none } }.hostErr 18 2
  | .telemetry => (s.tlmLost lost).hostErr 20 2
  | _ => s

end Sys2Proof.Machine
end

