-- ==== Sys2Proof/Machine/HostQueues.lean ====
section
/-!
DEFINITION. The host queues (07_host_queues.md, R412 to R434, R448 to R474, R798): doorbells, descriptor reads,
completions, events, interrupts, the PCIe function.
-/

namespace Sys2Proof.Machine

/-! ### Doorbells (R418 to R425, R432) -/

/-- The doorbell line in the sixteen words of a DBL frame (R418). -/
def parseLine (ws : List Word) : DbLine where
  tails := (List.range 18).map (fun i => (wAt ws (i / 2)).extractLsb' (16 * (i % 2)) 16)
  cpqCons := (wAt ws 9).extractLsb' 0 16
  evqCons := (wAt ws 9).extractLsb' 16 16
  tlrCons := wAt ws 10
  lgen := wAt ws 15

/-- The words of a doorbell line. -/
def lineWords (l : DbLine) : List Word :=
  let t (i : Nat) : Nat := (l.tails.getD i 0).toNat
  (List.range 9).map (fun i => w2 (t (2 * i)) (t (2 * i + 1))) ++ [w2 l.cpqCons.toNat l.evqCons.toNat, l.tlrCons] ++
    [0, 0, 0, 0, l.lgen]

/-- A submission queue takes a tail from a line (R416, R432): a tail that moves backward is held; while one is held a
later value takes its place; a tail beyond the depth stops the queue, which then fetches nothing more. -/
def State.takeTail (s : State) (q : QId) (t : Nat) : State :=
  let x := s.subq q
  if x.held.isSome then s.updQ q (fun x => { x with held := some t })
  else if t = x.tail then s
  else if 32768 ≤ sub16 t x.tail then s.updQ q (fun x => { x with held := some t })
  else if s.qDepth q < sub16 t (s.doneOf q) then s.hostErr q.val 1
  else s.updQ q (fun x => { x with tail := t })

/-- The submission queues in number order. -/
def allQ : List QId := [0, 1, 2, 3, 4, 5, 6, 7, 8, 9, 10, 11, 12, 13, 14, 15, 16, 17]

/-- The device takes a forwarded line (R416, R422): every field is the new value. A consumed count beyond what was
written is an error of its structure (R798). -/
def State.takeLine (s : State) (l : DbLine) : State :=
  let s := allQ.foldl (fun s q => if s.qOn q then s.takeTail q (l.tails.getD q.val 0).toNat else s) s
  let s := { s with host := { s.host with
    cpqC := l.cpqCons.toNat, evqC := l.evqCons.toNat, tlrC := l.tlrCons.toNat
    ask := s.host.ask.filter (fun p => p.val ≠ s.pos) } }
  let s :=
    if s.rb HOST_CTL.CPQ_EN && !s.rb HOST_ERR.CPQ_ERR && decide (s.cpqDepth < sub16 s.host.cpqW s.host.cpqC) then
      s.hostErr 18 3
    else s
  if s.rb HOST_CTL.EVQ_EN && !s.rb HOST_ERR.EVQ_ERR && decide (s.evqDepth < sub16 s.host.evqW s.host.evqC) then
    s.hostErr 19 3
  else s

/-- The head reads the lines of positions. -/
def State.readLines (s : State) (ps : List Pos) : State :=
  let base := s.rd HOST_DBBLO.BASE * 2048 + s.rd HOST_DBBHI.BASE * 2 ^ 32
  ps.foldl (fun s p =>
    ({ s with host := { s.host with lineRd := s.host.lineRd ++ [p] } }).emit (.hostRead (base + 64 * p.val) 64)) s

/-- DOORBELL_POLL (R421): every `DB_POLL` ticks the head reads the summary line, and again the lines asked for whose
read gave nothing (R424). -/
def execDoorbellPoll (s : State) : Host.Outcome State Fault Refusal :=
  if s.canRead && s.rb HOST_CTL.DB_EN && !s.host.sumRd && decide (s.rd HOST_DBCFG.DB_POLL ≤ s.host.pollT) then
    let asked := s.host.ask.filter (fun p => !s.host.lineRd.contains p)
    .next (({ s with host := { s.host with sumRd := true, pollT := 0 } }.emit
      (.hostRead (s.rd HOST_SUMLO.ADDR * 64 + s.rd HOST_SUMHI.BASE * 2 ^ 32) 64)).readLines asked)
  else .next s

/-- All positions. -/
def allPos : List Pos := (List.finRange 32)

/-- The positions whose lines a summary calls for, `adv` being how far `SGEN` has advanced (R421, R471). -/
def State.sumLines (s : State) (adv : Nat) (smask : Word) : List Pos :=
  if adv = 1 then allPos.filter (fun p => smask.getLsbD p.val)
  else if 1 < adv then allPos.filter (fun p => decide (p.val < max 1 (s.rd RING_STAT.NPOS)))
  else []

/-- A read of the doorbell block has failed. DESIGN CHOICE (log entry 46): it is recorded and read again at the next poll,
and nothing stops. -/
def State.dbReadErr (s : State) : State := s.hostErr 21 2

/-- SUMMARY_READ_COMPLETE (R421, R471): the lines that `SGEN` calls for, modulo 2^32. -/
def execSummaryReadComplete (d : SumRd) (sgen : Word) (s : State) : Host.Outcome State Fault Refusal :=
  if s.host.sumRd && s.canRead then
    let adv := (sgen - BitVec.ofNat 32 s.host.sgen).toNat
    let s := { s with host := { s.host with sumRd := false } }
    .next (if d.st ≠ .ok then s.dbReadErr
      else ({ s with host := { s.host with sgen := sgen.toNat } }).readLines (s.sumLines adv d.smask))
  else .next { s with host := { s.host with sumRd := false } }

/-- The head gives a position its line: it takes its own, and forwards another where it can; the line then counts as
forwarded, and as no longer asked for (R422, R424). -/
def State.giveLine (s : State) (p : Pos) (l : DbLine) : State :=
  let own := decide (p.val = s.pos)
  if !own && !(s.onRing && s.mayClass p.val .dbl) then s
  else
    let s := { s with host := { s.host with
      fwd := bupd s.host.fwd p (fun _ => some l.lgen.toNat), ask := s.host.ask.filter (fun x => x ≠ p) } }
    if own then s.takeLine l else s.send 6 p.val true 0 (lineWords l)

/-- DOORBELL_LINE_READ (R422, R424): a line whose `LGEN` has changed, or that its device asked for, goes to its
device. -/
def execDoorbellLineRead (p : Pos) (l : LineRd) (s : State) : Host.Outcome State Fault Refusal :=
  if s.host.lineRd.contains p && !s.idle then
    let s := { s with host := { s.host with lineRd := s.host.lineRd.erase p } }
    .next (if l.st ≠ .ok then s.dbReadErr
      else if s.host.ask.contains p || decide (bget s.host.fwd p ≠ some l.line.lgen.toNat) then s.giveLine p l.line
      else s)
  else .next s

/-- DBL (R416, R422, R471): the device takes a forwarded line. -/
def execDbl (f : Frame) (s : State) : Host.Outcome State Fault Refusal :=
  let (s, ok) := s.takeFrame f s.onRing
  .next (if ok then s.takeLine (parseLine f.payload) else s)

/-- A queue bit goes from 0 to 1 (R424): its counts are 0, its line is asked for. -/
def State.enableQueue (s : State) (q : QId) : State :=
  let s := s.updQ q (fun _ => SubQ.reset)
  let s := { s with host := { s.host with reads := s.host.reads.filter (fun r => r.q ≠ q) } }
  if h : q.val < 16 then s.updSeq ⟨q.val, h⟩ (fun x => { x with cur := 65535, armed := none }) else s

/-- A queue bit goes from 1 to 0: what was prefetched goes. -/
def State.disableQueue (s : State) (q : QId) : State :=
  let s := s.updQ q (fun x => { x with pre := [], held := none })
  { s with host := { s.host with reads := s.host.reads.filter (fun r => r.q ≠ q) } }

/-- The line of a position is asked for (R424): the head reads it if it can, else at a later poll. -/
def State.askLine (s : State) (p : Pos) : State :=
  let s := { s with host := { s.host with ask := p :: s.host.ask.filter (fun x => x ≠ p) } }
  if s.canRead then s.readLines [p] else s

/-- The head hears that a member has taken a write of `HOST_CTL` in which a queue is enabled: the member asks for its line
(R424). DESIGN CHOICE (log entry 45): the head learns it from the REGR; the spec names no frame for it. -/
def State.heardCtl (s : State) (f : Frame) : State :=
  let off := f.arg.toNat % 65536 / 4 * 4
  let new := (f.payload.getD ((0x1000 - off) / 4) 0).toNat % 2 ^ 18
  if off ≤ 0x1000 ∧ new ≠ 0 then s.askLine (Fin.ofNat 32 f.dst.toNat) else s

/-- The queues whose bits change, and the structures that start anew (R424, R449, R461). `old` is `HOST_CTL` before the
write. -/
def State.ctlChanged (s : State) (old : Word) : State :=
  let new := s.regWord 0x1000
  let on := allQ.filter (fun q => new.getLsbD q.val && !old.getLsbD q.val)
  let s := allQ.foldl (fun s q => if old.getLsbD q.val && !new.getLsbD q.val then s.disableQueue q else s) s
  let s := on.foldl State.enableQueue s
  let s := if new.getLsbD 24 && !old.getLsbD 24 then { s with host := { s.host with cpqW := 0, cpqC := 0, wrote := 0 } } else s
  let s := if new.getLsbD 25 && !old.getLsbD 25 then { s with host := { s.host with evqW := 0, evqC := 0 } } else s
  let s := if new.getLsbD 26 && !old.getLsbD 26 then { s with host := { s.host with tlrSeq := 0, tlrC := 0 } } else s
  if on.isEmpty then s
  else
    let s := s.askLine (Fin.ofNat 32 s.pos)
    if s.isHead then s else s.emit .lineAsk

/-- A write of `HOST_CTL` is refused as a whole (R471): a queue of a busy channel, MQ while a command runs, or the CPQ
while a queue stays enabled is disabled. -/
def State.ctlRefused (s : State) (new : Word) : Bool :=
  let old := s.regWord 0x1000
  let off (i : Nat) : Bool := old.getLsbD i && !new.getLsbD i
  allCh.any (fun c => off c.val && decide ((s.seq c).st ≠ .idle ∧ (s.seq c).st ≠ .hold)) ||
    (off 16 && s.mot.cmd.isSome) || (off 24 && decide (new.toNat % 2 ^ 18 ≠ 0))

/-! ### Completions and events (R448 to R469) -/

/-- Write an event record (R449, R459); a member's is written when it is acknowledged (R464). -/
def State.writeEvent (s : State) (e : EvRec) : State :=
  let d := s.evqDepth
  let n := s.host.evqW
  let s := s.hostWrite (s.evqBase + 16 * (n % d))
    (withPhase (phaseOf n d) [w2 (256 * e.src) e.code, wN e.arg, wN e.tick, wN (e.tick / 2 ^ 32 % 65536)])
  let s := { s with host := { s.host with evqW := (n + 1) % 65536 } }
  if s.isHead then s.irq 2 else s

/-- The oldest event is written or counted as lost (R469, R798); the EVQ_OVF event goes first when space has returned. A
member whose class R508 bars has had its error when the class gave up. -/
def State.eventStep (s : State) : State :=
  if s.idle || !s.rb HOST_CTL.EVQ_EN then s
  else
    let used := sub16 s.host.evqW s.host.evqC
    let err := s.rb HOST_ERR.EVQ_ERR
    let drop1 (s : State) : State := { s with host := { s.host with events := s.host.events.drop 1 } }
    let some1 := !s.host.events.isEmpty
    let lost (s : State) : State := if some1 then (drop1 s).eventLost 1 else s
    if !some1 && !s.host.evqNote then s
    else if err then lost s
    else if s.evqDepth < used then lost (s.hostErr 19 3)
    else if !s.canWrite .event then lost (if s.isHead then s.hostErr 19 2 else s)
    else if used = s.evqDepth then lost s
    else if s.host.evqNote then
      { s with host := { s.host with evqNote := false } }.writeEvent ⟨20, 9, s.rd HOST_EVQLOST.LOST, s.now⟩
    else
      match s.host.events with
      | [] => s
      | e :: _ => (drop1 s).writeEvent e

/-- EVENT_POST (R469, R798). -/
def execEventPost (s : State) : Host.Outcome State Fault Refusal := .next s.eventStep

/-- Every event that waits is posted: events go before any lower traffic (R467). -/
def State.drainEvents (s : State) : State :=
  (List.range (s.host.events.length + b2n s.host.evqNote)).foldl (fun s _ => s.eventStep) s

/-- The group in front of the completion buffer is written once the CPQ has room for all its records, the STEP record last
(R449, R450, R458, R469, R798); a member writes record after record as each is acknowledged, after a failure from the
record that failed on, and waits while R508 bars the class. -/
def State.groupStep (s : State) : State :=
  if s.idle || !s.rb HOST_CTL.CPQ_EN || s.rb HOST_ERR.CPQ_ERR || s.host.flight.isSome then s
  else
    match s.host.cbuf with
    | [] => s
    | g :: _ =>
      let used := sub16 s.host.cpqW s.host.cpqC
      if s.cpqDepth < used then s.hostErr 18 3
      else if s.cpqDepth < used + g.recs.length then s
      else if !s.canWrite .completion then (if s.isHead then s.hostErr 18 2 else s)
      else if s.isHead then ((List.range g.recs.length).foldl (fun s i => s.writeRec g i) s).groupDone
      else { s.writeRec g s.host.wrote with host := { s.host with flight := some s.host.wrote } }

/-- COMPLETION_POST (R449, R450), after the events that wait (R467). -/
def execCompletionPost (s : State) : Host.Outcome State Fault Refusal := .next s.drainEvents.groupStep

/-- What goes before telemetry and descriptor reads is posted: events, then completions (R467). -/
def State.drainWrites (s : State) : State :=
  let s := s.drainEvents
  (List.range (s.host.cbuf.length + s.host.owed.length + b2n s.host.admFin.isSome)).foldl (fun s _ => s.groupStep) s

/-- The head issues the reads that wait for tags, after the writes that wait beside them (R467). -/
def State.readOn (s : State) : State := if s.ring.rdq.isEmpty then s else s.drainWrites.issueReads

/-! ### Descriptor reads (R427 to R430) -/

/-- How many descriptors a queue keeps prefetched (R427). -/
def preCap (q : QId) : Nat := if q.val < 16 then 4 else if q.val = 16 then 2 else 1

/-- The count of the first descriptor of a queue that has not arrived. -/
def State.nextCount (s : State) (q : QId) : Nat :=
  let n := (s.subq q).pre.length
  (if h : q.val < 16 then s.preBase ⟨q.val, h⟩ + n
   else if q.val = 16 then (s.subq q).done + b2n s.mot.cmd.isSome + n
   else (s.subq q).done + b2n (s.host.adm.isSome || s.host.admFin.isSome) + n) % 65536

/-- Descriptors of a queue under way that the queue has not passed: up to the end of its last read (R70). -/
def State.underWay (s : State) (q : QId) : Nat :=
  match (s.host.reads.filter (fun r => r.q = q)).getLast? with
  | none => 0
  | some r => let n := sub16 (r.first + r.n) (s.nextCount q); if 32768 ≤ n then 0 else n

/-- How many descriptors a read of a queue would fetch now; 0 for none (R416, R427, R432). -/
def State.fetchN (s : State) (q : QId) : Nat :=
  let x := s.subq q
  if !s.qOn q || x.stopped || x.held.isSome then 0
  else
    let cnt := (s.nextCount q + s.underWay q) % 65536
    let avail := sub16 x.tail cnt
    let d := s.qDepth q
    let room := preCap q - x.pre.length - s.underWay q
    if d < avail then 0 else min (min room avail) (min 4 (d - cnt % d))

/-- The queue fetched from next (R428). -/
def State.fetchNext (s : State) : Option QId :=
  let ok := allQ.filter (fun q => decide (0 < s.fetchN q))
  let chs := ok.filter (fun q => decide (q.val < 16))
  let best := chs.foldl (fun (m : Option QId) q =>
    match m with
    | none => some q
    | some p => if (s.subq q).pre.length < (s.subq p).pre.length then some q else m) none
  best.orElse (fun _ => ok.head?)

/-- DESCRIPTOR_FETCH (R427, R428): one read request, at most 8 outstanding, after what goes before it (R467). -/
def execDescriptorFetch (s : State) : Host.Outcome State Fault Refusal :=
  let s := s.drainWrites
  let can := !s.idle && decide (s.host.reads.length < 8) &&
    (if s.isHead then s.canRead && s.tagFree else s.mayClass 0 .rdreq && !s.ring.resetting)
  if can then
    match s.fetchNext with
    | none => .next s
    | some q =>
      let n := s.fetchN q
      let cnt := (s.nextCount q + s.underWay q) % 65536
      let addr := s.qBase q + 64 * s.posOf q cnt
      let tag := s.tagFor 0
      let s := { s with host := { s.host with reads := s.host.reads ++ [(⟨q, cnt, n, tag, []⟩ : ReadReq)] } }
      let s := s.updQ q (fun x => { x with fetched := (cnt + n) % 65536 })
      .next (if s.isHead then s.emit (.hostRead addr (64 * n)) else s.send 3 0 false addr [wN (64 * n)])
  else .next s

/-- Admin commands may begin (R446, R469): none pending, a shared slot free, SEQ running. -/
def State.admMay (s : State) : Bool :=
  s.host.adm.isNone && s.host.admFin.isNone && s.sharedRoom && !s.idle && decide (s.sys.mode ≠ .boot) && s.sys.trans.isNone

/-- The status with which an admin descriptor ends that no command of R444 stands for: BAD_OPCODE, or BAD_ARG for a
RESET of no kind or block. DESIGN CHOICE (log entry 159): reserved octets that are not 0 (R443) are BAD_ARG. -/
def admBad (ws : List Word) : Option Nat :=
  let rsv := (wAt ws 0).toNat / 256 % 256 ≠ 0 ∨ (ws.drop 13).any (fun w => w ≠ 0)
  let op := (wAt ws 0).toNat % 256
  let kind := (wAt ws 1).toNat % 16
  let blk := (wAt ws 1).toNat / 16 % 16
  if op = 0 ∨ 0x11 < op then some 1
  else if rsv then some 2
  else if op = 0x0F ∧ (kind = 0 ∨ 3 < kind ∨ (kind = 3 ∧ 5 < blk)) then some 2
  else none

/-- The descriptor at the head of AQ completes at once where no command stands for it (R447). -/
def State.admScan (s : State) : State :=
  match (s.subq aq).pre with
  | [] => s
  | p :: t =>
    match admBad p.words with
    | none => s
    | some st =>
      if s.admMay && s.qOn aq then
        let h := parseAdm p.words (s.posOf aq (s.subq aq).done)
        let s := s.updQ aq (fun x => { x with pre := t })
        s.admDone h.1 h.2 st 0
      else s

/-- A read of descriptors has ended (R337, R430): they join the prefetched ones, step descriptors checked, or the queue
stops. -/
def State.takeRead (s : State) (r : ReadReq) (st : RdStatus) (ws : List Word) : State :=
  let s := { s with host := { s.host with reads := s.host.reads.erase r } }
  if s.idle || !s.qOn r.q then s
  else if st ≠ .ok then s.hostErr r.q.val 2
  else if before16 (s.nextCount r.q) r.first then s
  else
    -- positions that the queue has passed meanwhile are not kept (R70)
    let k := sub16 (s.nextCount r.q) r.first
    let ds := ((List.range r.n).drop k).map (fun i =>
      let w := (ws.drop (16 * i)).take 16
      (⟨w, if h : r.q.val < 16 then s.stepValid ⟨r.q.val, h⟩ (parseStep w) else true⟩ : PreDesc))
    (s.updQ r.q (fun x => { x with pre := x.pre ++ ds })).admScan

/-- DESCRIPTOR_READ_COMPLETE (R337, R430): the oldest read of a queue returns. -/
def execDescriptorReadComplete (q : QId) (st : RdStatus) (words : List Word) (s : State) :
    Host.Outcome State Fault Refusal :=
  match s.host.reads.find? (fun r => r.q = q) with
  | none => .next s
  | some r => .next (s.takeRead r st words).readOn

/-! ### Interrupts and the PCIe function (R464 to R466, R473) -/

/-- `HOST_MSIXMOD.MODv`. -/
def State.modOf (s : State) (v : Fin 8) : Nat :=
  match v with
  | 0 => s.rd HOST_MSIXMOD.MOD0 | 1 => s.rd HOST_MSIXMOD.MOD1 | 2 => s.rd HOST_MSIXMOD.MOD2
  | 3 => s.rd HOST_MSIXMOD.MOD3 | 4 => s.rd HOST_MSIXMOD.MOD4 | 5 => s.rd HOST_MSIXMOD.MOD5
  | 6 => s.rd HOST_MSIXMOD.MOD6 | 7 => s.rd HOST_MSIXMOD.MOD7

/-- A vector is masked in its MSI-X table entry. -/
def State.vecMasked (s : State) (v : Fin 8) : Bool := bitN (s.rd (HOST_MSIXTAB.TABLE (Fin.ofNat 32 (4 * v.val + 3)))) 0

/-- MSIX_SEND (R465, R466, R511): a pending message is sent when its interval has passed; a member sends a MGMT MSIX
frame once its writes are acknowledged. -/
def execMsixSend (v : Fin 8) (s : State) : Host.Outcome State Fault Refusal :=
  let m := bget s.host.msix v
  if !m.pend || s.idle then .next s
  else if s.isHead then
    if decide (m.wait = 0) && s.host.link && s.host.bme && s.host.msixEn && !s.vecMasked v then
      let w := if s.modOf v = 0 then 0 else 2 ^ (s.modOf v - 1)
      .next ({ s with host := { s.host with msix := bupd s.host.msix v (fun _ => ⟨false, w⟩) } }.emit (.msix v))
    else .next s
  else
    let open_ := s.ring.outq.any (fun f => f.type = 5) || s.ring.sent.any (fun o => o.frame.type = 5)
    if open_ then .next s
    else .next ({ s with host := { s.host with msix := bupd s.host.msix v (fun m => { m with pend := false }) } }.mgmt
      7 0 v.val [])

/-- PCIE_LINK_CHANGE (R473): `HOST_STAT.LINK` follows; a dump or host boot destination becomes valid or invalid with
it. -/
def execPcieLinkChange (up : Bool) (s : State) : Host.Outcome State Fault Refusal :=
  .next (if s.isHead then { s with host := { s.host with link := up } } else s)

/-- PCIE_CONFIG_WRITE (R429): extended tags, Bus Master Enable, MSI-X enable. -/
def execPcieConfigWrite (xtag bme msixEn : Bool) (s : State) : Host.Outcome State Fault Refusal :=
  .next (if s.isHead then { s with host := { s.host with xtag := xtag, bme := bme, msixEn := msixEn } } else s)

end Sys2Proof.Machine
end

