-- ==== Sys2Proof/Machine/Metrology.lean ====
section
/-!
DEFINITION. Metrology (05_metrology_and_ledger.md): housekeeping, calibration, the Ibex rotation and range changes, the
readings of a tick, decimated readings and telemetry.
-/

namespace Sys2Proof.Machine

/-! ### Readings -/

/-- SINC3_OUTPUT (R307, R316): the decimated readings of a channel, at the ticks whose number is a multiple of D;
a voltage that takes in an excluded tick is left out. -/
def execSinc3Output (c : Ch) (v i : Int) (s : State) : Host.Outcome State Fault Refusal :=
  if s.idle ∨ s.now % max 1 (s.rd MET_CFG.ODR_DIV) ≠ 0 then .next s
  else
    let s := s.wrS (CH_MI.MI c) (s.metUa c i)
    .next (if (s.chan (s.leader c)).met.exAge < s.rd MET_CFG.ODR_DIV then s else s.wrS (CH_MV.MV c) (s.metUv c v))

/-! ### Housekeeping (R179 to R181, R319 to R321) -/

/-- k_T of a temperature in 0.01 °C, in 1/256 steps (R180). -/
def State.kTof (s : State) (c : Ch) (t : Int) : Nat :=
  let warn := s.rdS (CH_TEMP.T_WARN c)
  let stop := s.rdS (CH_TEMP.T_STOP c)
  if t ≤ warn then 256 else if stop ≤ t then 0 else ((stop - t) * 256 / (stop - warn)).toNat

/-- The temperature of a sample in 0.01 °C (R320): of ρ in units of 2^-16, β in K and R_nom in 10 Ω. Where the formula has
no positive absolute temperature, the limit that it runs into. -/
def ntcT (raw beta rnom : Nat) : Int :=
  let d := 100 * (beta : Int) * 2 ^ 60 + 29815 * lnFix (1000 * raw) ((65536 - raw) * rnom)
  if d ≤ 0 then 20000 else clampI (rdiv (29815 * (beta : Int) * 100 * 2 ^ 60) d - 27315) (-5500) 20000

/-- A sample outside the limits breaks a run of hot ones (R387). -/
def tempBreak (r : Run) : Run :=
  let one (k : Fin 4) : EcS := let x := bget r.ecs k; if (r.desc.ec k).code = 10 then { x with cnt := 0 } else x
  { r with ecs := ⟨⟨[one 0, one 1, one 2, one 3]⟩, rfl⟩ }

/-- A sample outside a limit (R179, R181, R321): three of one limit in a row stop the channel. -/
def State.ntcOut (s : State) (c : Ch) (hi : Bool) : State :=
  let s := s.updMet c (fun m => { m with tempOk := false })
  let s := s.runIf c (fun _ => true) tempBreak
  let s := s.wr (CH_PSTAT.NTC_OK c) 0
  let s := { s with saf := { s.saf with temp := bupd s.saf.temp c (fun _ => none), tOver := bupd s.saf.tOver c (fun _ => 0) } }
  if !s.rb (CH_SENSE.NTC_EN c) then s.updStage c (fun x => { x with ntcHi := 0, ntcLo := 0 })
  else
    let s := s.updStage c (fun x => { x with
      ntcBad := true, ntcHi := if hi then x.ntcHi + 1 else 0, ntcLo := if hi then 0 else x.ntcLo + 1 })
    if (s.seq c).lead.isSome then s
    else if 3 ≤ (s.chan c).stage.ntcHi then s.faultStop 7 c true
    else if 3 ≤ (s.chan c).stage.ntcLo then s.faultStop 8 c true
    else s

/-- A temperature feeds the end conditions of the channel's step (R387, R388). -/
def tempFeed (r : Run) (t : Int) : Run :=
  let one (k : Fin 4) : EcS :=
    let e := r.desc.ec k
    let x := bget r.ecs k
    if e.code = 9 then (if r.ss then x else { x with sum := x.sum + t, samples := x.samples + 1 })
    else if e.code = 10 then
      let n := if e.thr.toInt ≤ t then x.cnt + 1 else 0
      { x with cnt := n, fired := x.fired || decide (3 ≤ n) }
    else x
  { r with ecs := ⟨⟨[one 0, one 1, one 2, one 3]⟩, rfl⟩ }

/-- A sample within the limits: the temperature, k_T for the next boundary, SAF's own evaluation of it (R626, R799). -/
def State.ntcIn (s : State) (c : Ch) (raw : Nat) : State :=
  let t := ntcT raw (s.rd MET_NTC.BETA) (s.rd MET_NTC.RNOM)
  let s := s.updMet c (fun m => { m with temp := t, tempOk := true })
  let s := s.wr (CH_PSTAT.NTC_OK c) 1
  let k := s.kTof c t
  let s := s.updStage c (fun x => { x with kT := k, ntcBad := false, ntcHi := 0, ntcLo := 0 })
  let s := (s.condGone 7 c).condGone 8 c
  let own := ntcT raw s.saf.beta s.saf.rnom
  let s := { s with saf := { s.saf with
    temp := bupd s.saf.temp c (fun _ => some own)
    tOver := bupd s.saf.tOver c (fun n => if (s.pset 7 : Int) ≤ own then n + 1 else 0) } }
  s.runIf c (fun _ => true) (fun r => tempFeed r t)

/-- The die temperature (R321): the junction warning and shutdown with their hysteresis (R679). -/
def State.dieSample (s : State) (raw : Nat) : State :=
  let t := Config.dieTemp raw
  let s := s.wrS MET_HKTJ.TJ t
  let s := if 12500 ≤ t then s.raiseDev 39 else if t < 12000 then s.condGone 39 0 else s
  if 15000 ≤ t then s.raiseDev 40 else if t < 14000 then s.condGone 40 0 else s

/-- HK_SAMPLE (R319): inputs 0 to 15 are the thermistors, 16 the die, 17 to 24 the supplies; `raw` is the result as a
ratio of 2^16. -/
def execHkSample (input : Fin 25) (raw : Half) (s : State) : Host.Outcome State Fault Refusal :=
  if s.idle then .next s
  else if h : input.val < 16 then
    let c : Ch := ⟨input.val, h⟩
    let x := raw.toNat
    if 98 * 65536 < 100 * x then .next (s.ntcOut c true)
    else if 100 * x < 2 * 65536 then .next (s.ntcOut c false)
    else .next (s.ntcIn c x)
  else if input.val = 16 then .next (s.dieSample raw.toNat)
  else .next (s.wr (MET_HKV.MV (Fin.ofNat 8 (input.val - 17))) (Config.supplyMv (input.val - 17) raw.toNat))

/-! ### SAR tracking (R284) -/

/-- SAR_TRACK_FIT: with a span of at least 10 % of the control range the current gain and offset move by what the fit
gives, which no rule states, within ±50 ppm and ±0.01 % of full scale; the next 1,024 ticks begin. Frozen constants do not
move (R288). -/
def execSarTrackFit (c : Ch) (s : State) : Host.Outcome State Fault Refusal :=
  let m := (s.chan c).met
  if m.trkN < 1024 then .next s
  else
    let s := s.updMet c (fun m => { m with trkN := 0, trkMin := 0, trkMax := 0 })
    let span := m.trkMax - m.trkMin
    if s.rb MET_CFG.SAR_TRACK ∧ !s.met.frozen ∧ s.fsUa c (s.rd (CH_MCFG.CRANGE c)) ≤ 10 * span then
      let (g, s) := s.takeInt
      let (o, s) := s.takeInt
      let lim : Int := 2500 * 2 ^ s.rd (CH_MCFG.CRANGE c)
      .next { s with met := { s.met with
        sarGain := bupd s.met.sarGain c (fun x => x + clampI g (-5000) 5000)
        sarOfs := bupd s.met.sarOfs c (fun x => x + clampI o (-lim) lim) } }
    else .next s

/-! ### Calibration (R280 to R288) -/

/-- Change the constants of a converter in every range. -/
def State.markConv (s : State) (conv : Nat) (f : CalK → CalK) : State :=
  (convRngs conv).foldl (fun s r => { s with met := { s.met with cal := putCal s.met.cal (f (s.calOf conv r)) } }) s

/-- Open entries are marked (R288, R314). -/
def State.flagOpen (s : State) (i : Nat) : State :=
  s.forCh allCh (fun s c => if (s.chan c).ledger.isOpen then s.updLed c (fun l => l.flag i) else s)

/-- The reference check of a calibration on a YLT1680-M (R288): `dev` in ppm. A deviation beyond 1,000 ppm freezes the
constants and abandons the calibrations in progress (R324), whose targets the round takes later (R289); two checks within
500 ppm end the freeze. -/
def State.refCheck (s : State) (dev : Int) : State :=
  if !s.sec.gradeM then s
  else
    let s := s.wrS MET_REFSTAT.DEV dev
    let good := decide (dev.natAbs ≤ 500)
    let s := { s with met := { s.met with goodRef := if good then s.met.goodRef + 1 else 0 } }
    let ok := decide (2 ≤ s.met.goodRef)
    let s := s.wb MET_REFSTAT.REF_OK ok
    if 1000 < dev.natAbs then
      let s := s.wr MET_FLAGS.REF_FAULT 1
      let ids : List SpareId := [0, 1]
      let s := ids.foldl (fun s i => if (s.spare i).st = .selfCal then s.untake i else s) s
      let s := ({ s with met := { s.met with
        frozen := true, newCal := s.met.newCal.filter (fun k => !s.inCal k.conv)
        spares := bmap (fun (p : Spare) => match p.st with
          | .selfCal => { p with st := IbxSt.idle, t := 0 }
          | .carrying => p.backs false
          | _ => p) s.met.spares } }).flagOpen fREF
      s.raiseDev 49
    else if s.met.frozen && ok then
      ({ s with met := { s.met with frozen := false } }.condGone 49 0).clear 49 0
    else s

/-- The pair of constants of a two-point calibration over `n` clocks (R281): G − 1 in 0.01 ppm, O in nV; none where no
pair lies within R282 of the pair `old`. -/
def State.calPair (s : State) (rng : Nat) (n s0 s1 : Int) (old : CalK) : Option (Int × Int) :=
  let x := xRef rng
  -- the force converter has its excitation for reference, a ratio of 1 (R592)
  let vref : Int := if 5 ≤ rng ∧ rng ≤ 6 then 1000000
    else if s.sec.gradeM then (s.rd MET_REF.VREF : Int) else ((Config.vrefS % 2 ^ 23 : Nat) : Int)
  if n ≤ 0 ∨ s1 = s0 then none
  else
    let g := rdiv (Config.otpRho rng * vref * n * 100) (x * (s1 - s0)) - 100000000
    if ((g - old.gdev).natAbs : Int) * 1000000 ≤ 500 * (100000000 + old.gdev) ∧ (s0.natAbs : Int) * 1000 ≤ n then
      some (g, rdiv (s0 * x) n)
    else none

/-- A calibration of a converter in a range, two points of 512 ticks each (R281), is accepted or rejected (R282, R283,
R288). -/
def State.judgeCal (s : State) (conv rng : Nat) (s0 s1 : Int) : State :=
  if s.met.frozen then s
  else
    let old := s.calOf conv rng
    match s.calPair rng (512 * s.mClk : Nat) s0 s1 old with
    | some (g, o) =>
      let s := s.markConv conv (fun k => { k with suspect := false, failed := false })
      let s := { s with met := { s.met with
        newCal := putCal s.met.newCal { old with gdev := g, ofs := o, src := 1, age := 0 } } }
      let suspects := (List.range 36).any (fun c => (convRngs c).any (fun r => (s.calOf c r).suspect))
      if suspects then s else (s.condGone 48 0).clear 48 0
    | none =>
      let again := old.failed
      let s := s.wr MET_FLAGS.CAL_FAIL 1
      let s := s.markConv conv (fun k => { k with failed := true, suspect := k.suspect || again })
      if again then s.raiseDev 48 else s

/-- Constants of a converter are due to be refreshed (R295): never calibrated, or as old as `MET_IBX.PERIOD`. -/
def State.calDue (s : State) (conv rng : Nat) : Bool :=
  let k := s.calLast conv rng
  decide (k.src ≠ 1 ∨ 100000000 * s.rd MET_IBX.PERIOD ≤ k.age)

/-- The first range from `r` on in which a spare has constants that are due (R295). -/
def State.dueRng (s : State) (i : SpareId) (r : Nat) : Option Nat :=
  (convRngs (32 + i.val)).find? (fun x => decide (r ≤ x) && s.calDue (32 + i.val) x)

/-- A self-calibration of a spare has ended (R295): the next range that is due follows, or the target is connected. -/
def State.selfNext (s : State) (i : SpareId) : State :=
  let nxt := s.dueRng i ((s.spare i).calNext + 1)
  s.updSpare i (fun p =>
    if p.st = .selfCal then
      match nxt with
      | some r => { p with calNext := r, t := 0 }
      | none => { p with st := .settling, calNext := 0, t := 0 }
    else { p with t := 0 })

/-- Passes that a converter away from its channel makes (R294, R296). -/
def Spare.passes (p : Spare) : Nat := if p.rc ∨ p.target.val % 2 = 0 then 1 else 4

/-- The range of the pass in progress of a converter that is away. -/
def Spare.passRng (p : Spare) : Nat := if p.rc ∨ p.target.val % 2 = 0 then p.rng.val else p.calNext

/-- A pass of calibration of a spare's target ends: the next range, or the target comes back. -/
def Spare.passDone (p : Spare) : Spare :=
  if p.calNext + 1 < p.passes then { p with calNext := p.calNext + 1 }
  else { p.backs p.rc with calNext := p.calNext + 1 }

/-- CALIBRATION_COMPLETE (R281 to R283, R288, R294, R295): a two-point calibration of converter `conv` in range `rng` ends
with the bit sums `s0` and `s1`; `refDev` is the deviation of `VREFIN` in ppm. A point lasts 512 ticks (R281), so that
their number decides nothing (log entry 140). An idle spare refreshes the constants that
are due. The force and the precision VB converter, always the source of their own result, have their one range and take
their constants at once (log entry 59). -/
def execCalibrationComplete (conv : Fin 36) (rng : Fin 5) (_n : Nat) (s0 s1 refDev : Int) (s : State) :
    Host.Outcome State Fault Refusal :=
  let ids : List SpareId := [0, 1]
  let k := conv.val
  if s.idle then .next s
  else if k < 32 then
    match ids.find? (fun i => (s.spare i).st = .carrying && decide ((s.spare i).target.val = k) &&
        decide ((s.spare i).passRng = rng.val ∧ 1056 * ((s.spare i).calNext + 1) ≤ (s.spare i).t)) with
    | none => .next s
    | some i =>
      let s := s.refCheck refDev
      let s := s.judgeCal k rng.val s0 s1
      .next (if (s.spare i).st = .carrying then s.updSpare i Spare.passDone else s)
  else if k < 34 then
    let i : SpareId := Fin.ofNat 2 (k - 32)
    let p := s.spare i
    let self := p.st = .selfCal && decide (p.calNext = rng.val) && decide (1056 ≤ p.t)
    let idle := p.st = .idle && decide (1056 ≤ p.t) && s.calDue k rng.val
    if self || idle then
      let s := s.refCheck refDev
      let s := s.judgeCal k rng.val s0 s1
      .next (s.selfNext i)
    else .next s
  else
    let s := s.refCheck refDev
    .next ((s.judgeCal k (if k = 34 then s.forceRng else 7) s0 s1).takeCal k)

/-! ### Rotation and range changes (R289 to R301) -/

/-- A new round of the rotation begins (R289, R290): from there no converter is taken; the round before goes on ending
where a spare still serves it. -/
def State.newRound (s : State) : State :=
  let m := s.met
  { s with met := { m with
    taken := 0, rotT := 0, ended := false
    oldT := if m.ended then m.oldT else some m.rotT
    spares := bmap (fun (p : Spare) => { p with old := p.rotating }) m.spares } }

/-- The rotation may take a converter: the first that the round has not taken, or the first of the next round once the
interval has come, before the first sweep is done without a wait (R280, R289, R290). -/
def State.rotPick (s : State) : Option (Nat × State) :=
  match s.roundNext with
  | some k => some (k, s)
  | none =>
    if s.rb MET_IBXSTAT.CAL_DONE && decide (s.met.rotT < msTicks s.per (100 * s.rd MET_IBX.PERIOD)) then none
    else s.newRound.roundNext.map (fun k => (k, s.newRound))

/-- IBX_ROTATION_START (R289, R290, R294, R295): an idle spare takes the next converter, and calibrates itself first in each
range whose constants are due. -/
def execIbxRotationStart (sp : SpareId) (s : State) : Host.Outcome State Fault Refusal :=
  if s.idle ∨ !s.rb MET_CFG.IBX_EN ∨ (s.spare sp).st ≠ .idle ∨ !s.met.reqs.isEmpty then .next s
  else
    match s.rotPick with
    | none => .next s
    | some (k, s') =>
      if s.met.spares.toList.any (fun p => p.st ≠ .idle && decide (p.target.val = k)) then .next s
      else
        let rng : Nat := if k % 2 = 0 then 4 else s'.rngActive (Fin.ofNat 16 (k / 2))
        let due := s'.dueRng sp 0
        let s' := { s' with met := { s'.met with taken := s'.met.taken ||| BitVec.ofNat 32 (2 ^ k) } }
        .next (s'.updSpare sp (fun p => { p with
          st := if due.isSome then .selfCal else .settling, rc := false, target := Fin.ofNat 32 k, rng := Fin.ofNat 5 rng, t := 0
          passed := false, skip := false, again := false, calNext := due.getD 0, short := false, old := false }))

/-- A spare is released; it serves the next request (R301). -/
def State.freeSpare (s : State) (i : SpareId) : State :=
  let s := s.updSpare i (fun p => { p with
    st := .idle, rc := false, t := 0, passed := false, skip := false, again := false, calNext := 0, old := false })
  s.roundEnd.serveRange

/-- The open entry that a channel's charge goes to is marked with a change made within it (R314): not where it opens at
this very boundary. -/
def State.flagWithin (s : State) (c : Ch) (i : Nat) : State :=
  s.updLed (s.leader c) (fun l => if l.isOpen && l.openTicks ≠ 0 then l.flag i else l)

/-- The source of a target's measurement changes (R291): `n` is 0 for its own converter, else the spare. -/
def State.setSource (s : State) (k n : Nat) : State :=
  let c : Ch := Fin.ofNat 16 (k / 2)
  let s := s.updMet c (fun m => if k % 2 = 1 then { m with src := Fin.ofNat 3 n } else { m with vsrc := Fin.ofNat 3 n })
  let s := (s.incWrap MET_IBXCNT.HANDOVERS).takeCal (if n = 0 then k else 31 + n)
  if k % 2 = 1 then s.flagWithin c fSRC else s

/-- The metrology range of a channel comes into force (R297). -/
def State.setRange (s : State) (c : Ch) (rng : Nat) : State :=
  if s.rngActive c = rng then s
  else (s.wr (CH_MRNG.ACTIVE c) rng).flagWithin c fRANGE

/-- A working converter is the source again after its rotation (R280): `CAL_PENDING` goes, and `CAL_DONE` is set once the
first sweep has reached every converter. -/
def State.rotated (s : State) (k : Nat) : State :=
  let s := if k % 2 = 1 ∧ s.calibrated k then s.wr (CH_MSTAT.CAL_PENDING (Fin.ofNat 16 (k / 2))) 0 else s
  if (List.range 32).all (fun j => s.calibrated j || s.retired j) then s.wr MET_IBXSTAT.CAL_DONE 1 else s

/-- SOURCE_CHANGE (R291, R294, R297, R298): at a boundary a spare that passed its compare takes over, or the working
converter comes back. -/
def execSourceChange (sp : SpareId) (s : State) : Host.Outcome State Fault Refusal :=
  let p := s.spare sp
  let k := p.target.val
  let c : Ch := Fin.ofNat 16 (k / 2)
  if s.idle then .next s
  else if p.st = .shadowing ∧ (p.passed ∨ (p.skip ∧ 32 ≤ p.t)) then
    let s := s.setSource k (1 + sp.val)
    if p.rc then
      .next ((s.setRange c p.rng.val).updSpare sp (fun p => p.backs true))
    else .next (s.updSpare sp (fun p => { p with st := .carrying, t := 0, passed := false, calNext := 0 }))
  else if p.st = .returning ∧ p.passed then
    let s := s.setSource k 0
    let s := if p.rc then s.setRange c p.rng.val else s
    .next ((s.rotated k).freeSpare sp)
  else .next s

/-- A change is abandoned: the range stays (R296, R299). -/
def State.abandonChange (s : State) (sp : SpareId) : State :=
  let c : Ch := Fin.ofNat 16 ((s.spare sp).target.val / 2)
  (s.rangeDeny c).freeSpare sp

/-- A spare is withdrawn after two successive mismatches with different targets (R296). Where it was a source, the
working converter is the source again. -/
def State.withdrawSpare (s : State) (sp : SpareId) (carried : Bool) : State :=
  let k := (s.spare sp).target.val
  let s := if carried then s.setSource k 0 else s
  let s := s.updSpare sp (fun p => { p with st := .withdrawn, rc := false, t := 0, passed := false })
  ((s.event 19 7 sp.val).raiseDev 50).denyWaiting.roundEnd.serveRange

/-- A compare has failed (R296). -/
def State.mismatch (s : State) (sp : SpareId) : State :=
  let p := s.spare sp
  let k := p.target
  let carried := decide (p.st = .returning)
  let two := p.lastBad.any (fun j => decide (j ≠ k))
  let s := (s.incSat MET_IBXCNT.MISMATCH).wr MET_FLAGS.IBX_MISMATCH 1
  let s := s.updSpare sp (fun p => { p with lastBad := some k })
  let s := if !carried && p.rc then s.rangeDeny (Fin.ofNat 16 (k.val / 2)) else s
  if two then s.withdrawSpare sp carried
  else if !carried then s.freeSpare sp
  else if !p.again then
    s.updSpare sp (fun p => { p with st := .carrying, again := true, t := 0, calNext := 0, passed := false })
  else
    let s := s.markConv k.val (fun x => { x with suspect := true })
    let s := s.updSpare sp (fun p => { p with st := .substituting, rc := false, t := 0 })
    (s.event 19 6 k.val).denyWaiting.roundEnd

/-- Ticks of the compare window of the overlap under way (R292, R300). -/
def State.cmpLen (s : State) (p : Spare) : Nat := if p.rc || p.short then 32 else s.rd MET_IBX.OVL - 32

/-- A tick of a compare window: the incoming converter is the spare before it takes over, the working converter after. -/
def Spare.compares (p : Spare) : Bool := p.st = .shadowing || (p.st = .returning && decide (32 ≤ p.t))

/-- The compare of a spare's overlap takes in the tick that ended (R292, R293). `src` and `oth` are the bit sums of the
source and of the converter compared with it. -/
def State.compareTick (s : State) (i : SpareId) (src oth : Int) : State :=
  let p := s.spare i
  if !p.compares then s
  else
    let k := p.target.val
    let c : Ch := Fin.ofNat 16 (k / 2)
    let m := s.mClk
    let own := decide (p.st = .shadowing)
    let act := if k % 2 = 0 then 4 else s.rngActive c
    let a := (s.calOf (if own then k else 32 + i.val) act).input src m
    let b := (s.calOf (if own then 32 + i.val else k) p.rng.val).input oth m
    let bad := s.noVolt c || overloaded m src || overloaded m oth || decide (s.cmpLen p ≤ p.cmp.n)
    s.updSpare i (fun p => { p with cmp :=
      { n := p.cmp.n + b2n !bad, clk := p.cmp.clk + (if bad then 0 else m)
        diff := p.cmp.diff + (if bad then 0 else a - b), ovl := p.cmp.ovl + b2n (overloaded m oth) } })

/-- The compares of the tick that ended. -/
def State.compareTicks (s : State) (i : TickIn) : State :=
  let ids : List SpareId := [0, 1]
  ids.foldl (fun s j =>
    let k := (s.spare j).target.val
    let x := i.ch.getD (k / 2) ⟨0, 0, 0⟩
    s.compareTick j (if k % 2 = 0 then x.vBits else x.bits) (bget i.sp j)) s

/-- The compare of a full window passes (R292): both terms in the wider of the two ranges. -/
def State.cmpPasses (s : State) (p : Spare) : Bool :=
  let rng := if p.target.val % 2 = 0 then 4 else max p.rng.val (s.rngActive (Fin.ofNat 16 (p.target.val / 2)))
  decide ((p.cmp.diff.natAbs : Int) * 1000000 ≤
    100000000 * ((s.rd MET_IBXTOL.TOL : Int) * fsNv rng * p.cmp.clk + 4 * xRef rng * 1000000))

/-- COMPARE_WINDOW_END (R292, R293, R296, R299): the compare window of a spare is full and is judged; a range change whose
spare was overloaded through the whole window is abandoned. The counts and sums that decide are those of `Spare.cmp`, which
TICK_BOUNDARY fills, and not those that the row repeats (log entry 140). -/
def execCompareWindowEnd (sp : SpareId) (_n : Nat) (_sumTarget _sumSpare : Int) (_spareOvld : Bool) (s : State) :
    Host.Outcome State Fault Refusal :=
  let p := s.spare sp
  if s.idle ∨ !p.compares ∨ p.passed then .next s
  else if p.rc ∧ p.st = .shadowing ∧ 32 ≤ p.t ∧ p.cmp.ovl = p.t then .next (s.abandonChange sp)
  else if (p.skip ∧ p.st = .shadowing) ∨ p.cmp.n < s.cmpLen p then .next s
  else .next (if s.cmpPasses p then s.updSpare sp (fun p => { p with passed := true, lastBad := none }) else s.mismatch sp)

/-- IBX_WINDOW_TIMEOUT (R293): 1,024 ticks have passed without a full window. DESIGN CHOICE (log entry 149): they count from
the start of the compare window, 32 ticks after the connection. -/
def execIbxWindowTimeout (sp : SpareId) (s : State) : Host.Outcome State Fault Refusal :=
  let p := s.spare sp
  if !s.idle ∧ !p.passed ∧ ((p.st = .shadowing ∧ 1024 ≤ p.t) ∨ (p.st = .returning ∧ 1056 ≤ p.t)) then .next (s.mismatch sp)
  else .next s

/-- A spare passes a tick boundary: 32 ticks of settling lead to the compare window, which begins empty (R292). -/
def Spare.tick (p : Spare) : Spare :=
  let p := { p with fresh := false }
  if p.st = .settling ∧ 32 ≤ p.t + 1 then { p with st := .shadowing, t := 0, cmp := ⟨0, 0, 0, 0⟩ }
  else if p.st = .returning ∧ p.t + 1 = 32 then { p with t := 32, cmp := ⟨0, 0, 0, 0⟩ }
  else { p with t := p.t + 1 }

/-- Constants grow older by a tick since their last accepted calibration (R328). -/
def CalK.older (ns : Nat) (k : CalK) : CalK := if k.src = 1 then { k with age := k.age + ns } else k

/-- Metrology's own clocks at a boundary: the spares, the rounds, and the ages of the constants (R328). -/
def State.metClock (s : State) : State :=
  let m := s.met
  { s with met := { m with
    spares := bmap Spare.tick m.spares, rotT := m.rotT + 1, oldT := m.oldT.map (· + 1)
    cal := m.cal.map (CalK.older s.tickNs), newCal := m.newCal.map (CalK.older s.tickNs) } }

/-! ### Telemetry (R317, R318, R461 to R463) -/

/-- The telemetry record of a channel (R462). -/
def State.tlmRec (s : State) (c : Ch) : List Word × State :=
  let x := s.chan c
  let t := x.tlm
  let (iAvg, s) := s.orFree (if t.ns = 0 then none else some (tdiv (t.q * 1000000) (t.ns : Int)))
  let (vAvg, s) := s.orFree (if t.vN = 0 then none else some (tdiv t.vSum t.vN))
  let (iMax, s) := s.orFree t.iMax
  let (iMin, s) := s.orFree t.iMin
  let (vMax, s) := s.orFree t.vMax
  let (vMin, s) := s.orFree t.vMin
  let peaks := t.iMax.isSome && t.vMax.isSome
  let st := x.seq.st.code + 8 * s.rngActive c + 32 * x.met.src.val
  let run := (x.seq.run.map (fun r => r.idx)).getD 0xFFFF
  let flags := maskAll [x.met.tempOk, t.derated, t.balanced, t.excl, t.foldback, peaks]
  ([wN s.host.tlrSeq, w2 (c.val + 256 * st) (satU 16 t.sarSub), wN s.now, w2 (s.now / 2 ^ 32) run, wI iAvg, wI vAvg,
    wI iMax, wI iMin, wI vMax, wI vMin] ++ w64 x.ledger.qTot ++ w64 x.ledger.eTot ++
    [w2 (ofS 16 x.met.temp) flags, w2 (s.kT c) (s.kBal c)], s)

/-- One record of the report is written, or lost and counted (R463, R798). -/
def State.tlmWrite (s : State) (c : Ch) : State :=
  let (ws, s) := s.tlmRec c
  let k := 16 * s.host.tlrSeq + c.val
  let n := k % 2 ^ 32
  let d := s.tlrDepth
  if s.rb HOST_ERR.TLR_ERR then s.tlmLost 1
  else if !s.canWrite .telemetry then (if s.isHead then s.hostErr 20 2 else s).tlmLost 1
  else
    let gone := (n + 2 ^ 32 - d - s.host.tlrC) % 2 ^ 32
    let s := if d ≤ k ∧ gone < 2 ^ 31 then s.tlmLost 1 else s
    s.hostWrite (s.tlrBase + 64 * (n % d)) ws

/-- A report is written, a record per channel (R461). A member's is complete when its last record is acknowledged
(R464). -/
def State.tlmReport (s : State) : State :=
  let s := s.forCh allCh State.tlmWrite
  let s := { s with host := { s.host with tlrSeq := s.host.tlrSeq + 1 } }
  if s.rb HOST_ERR.TLR_ERR || !s.isHead then s else s.irq 3

/-- TELEMETRY_REPORT (R53, R318, R461): at a report boundary a report is written while `TLR_EN` is 1, after what goes
before it (R467); the intervals begin anew. -/
def execTelemetryReport (s : State) : Host.Outcome State Fault Refusal :=
  if s.idle ∨ s.now % max 1 s.sys.tlm ≠ 0 then .next s
  else
    let s := if s.rb HOST_CTL.TLR_EN then s.drainWrites.tlmReport else s
    .next (s.forCh allCh (fun s c => s.updTlm c (fun _ => Tlm.reset)))

end Sys2Proof.Machine
end

