-- ==== Sys2Proof/Machine/Collector.lean ====
section
/-!
DEFINITION. The fault collector, `ERR_N`, the watchdogs and the fatal dump (11_fault_collection.md).
-/

namespace Sys2Proof.Machine

/-! ### Raising and clearing (R669 to R681) -/

/-- The channel faults whose source opens `ISOn` at once (R153). -/
def opensIso (n : Nat) : Bool := n ≠ 3 && n ≠ 4

/-- A source is asserted (R671, R674): the collector applies its reaction, and what the fault itself stops is stopped
(R163, R178, R184, R194, R606). -/
def State.assertSrc (s : State) (n : Src) (c : Ch) : State :=
  let k := n.val
  if k = 6 then ((s.contactLost (s.leader c)).protOpen c).kelFail c
  else if k = 13 then s.raiseBusSc
  else if k = 14 then (s.faultStop 14 c true).demandUp 3
  else if (1 ≤ k ∧ k ≤ 5) ∨ (7 ≤ k ∧ k ≤ 11) then s.faultStop n c (opensIso k)
  else if k = 0 then s.chRaise 0 c
  else if 20 ≤ k ∧ k ≤ 23 then s.bridge n
  else if 24 ≤ k ∧ k ≤ 31 then s.motRaise n
  else s.raise n c

/-- A source is asserted in every place it has; the last fault record names the lowest channel that was raised (R678). -/
def State.assertAll (s : State) (n : Src) : State :=
  if isChanSrc n then
    let low := allCh.find? (fun c => !s.activeIn n c)
    let s := s.forCh allCh (fun s c => s.assertSrc n c)
    match low with
    | some c => if s.rd FLT_LREC0.SRC = n.val ∧ 4 ≤ (s.src n).react then s.wr FLT_LREC0.CHAN c.val else s
    | none => s
  else if n.val = 16 then allQuads.foldl (fun s q => s.assertSrc n (chOf q 0)) s
  else s.assertSrc n 0

/-- Sources act: no reset is held and the device is not parked. -/
def State.collects (s : State) : Bool := !s.idle

/-- FAULT_RAISE (R674): a source is asserted; `ch` names the channel of a channel source, or a channel of its quad. -/
def execFaultRaise (n : Src) (c : Ch) (s : State) : Host.Outcome State Fault Refusal :=
  .next (if s.collects && srcListed n.val then s.assertSrc n c else s)

/-- FAULT_CLEAR (R133, R184, R681): a source whose clear rule is EDGE, COND or a rule of metrology or MOT clears in its
place, its condition being gone. Of `BST_UV` it reports the end of the condition: the source clears at the next PWM
period start. `LE_OVERRUN` beside `LE_CHECK` clears as that does (R263). The other rules clear a source in the rows they
name. -/
def execFaultClear (n : Src) (c : Ch) (s : State) : Host.Outcome State Fault Refusal :=
  let k := n.val
  .next (if k = 0 then s.condGone 0 c
    else if k = 11 ∧ s.activeIn 10 c then s
    else if srcClr k = 1 ∨ srcClr k = 3 ∨ k = 29 ∨ k = 48 ∨ k = 49 then s.clearIfGone n c else s)

/-- The sources with the clear code COND clear at a tick boundary once their conditions are gone (R681). -/
def State.condClears (s : State) : State :=
  let ns : List Src := [30, 32, 37, 38, 39, 40, 42, 57]
  let s := ns.foldl (fun s n => s.clearIfGone n 0) s
  s.forCh allCh (fun s c => s.clearIfGone 12 c)

/-- RAIL_BREAK (R671): the source number is recorded and the source itself counts as asserted, in every channel it has. -/
def execRailBreak (n : Src) (s : State) : Host.Outcome State Fault Refusal :=
  if s.collects then
    let s := (s.wr FLT_RB.SRC n.val).wr FLT_RB.VALID 1
    let s := s.raiseDev 43
    .next (if srcListed n.val ∧ n.val ≠ 43 then s.assertAll n else s)
  else .next s

/-- ERR_N_RELEASE (R685, R686): the last condition has ended and the minimum has passed. -/
def execErrNRelease (s : State) : Host.Outcome State Fault Refusal := .next (if s.errHeld then s else s.wr FLT_ERRN.LOW 0)

/-- SEQ_WDOG (R680, R763): two successive ticks without a write of SEQ. -/
def execSeqWdog (s : State) : Host.Outcome State Fault Refusal :=
  .next (if s.collects && !s.rb DBG_CTL.HALT_SEQ then s.raiseDev 45 else s)

/-- MOT_WDOG (R680, R763): four successive ticks missed by MOT. -/
def execMotWdog (s : State) : Host.Outcome State Fault Refusal :=
  .next (if s.collects && !s.rb DBG_CTL.HALT_MOT then s.raiseDev 46 else s)

/-! ### The fatal dump (R693 to R704) -/

/-- SNAPSHOT_COMPLETE (R694): the snapshot stands; a CHIP reset that waited for it is carried out. -/
def execSnapshotComplete (s : State) : Host.Outcome State Fault Refusal :=
  if !s.flt.copying then .next s
  else
    let due := s.flt.chipDue
    let s := { s with flt := { s.flt with copying := false, chipDue := none } }
    let s := ((s.wr FLT_DUMPSTAT.SNAP_VALID 1).wr FLT_DUMPSTAT.REQ 1).wr FLT_DUMPSTAT.TRACE_LOST 0
    let s := (s.wr FLT_DUMPSTAT.STATE 1).incWrap FLT_DUMPSEQ.DSEQ
    .next (match due with | some cause => s.fullReset .chip cause 0 false | none => s)

/-- The dump has no trace sections (R703). -/
def State.traceLost (s : State) : Bool := s.rb FLT_DUMPSTAT.TRACE_LOST

/-- Length of the dump in octets (R700, R703). -/
def State.dumpLen (s : State) : Nat := if s.traceLost then 11136 else 535744

/-- Address of the dump destination. -/
def State.dumpBase (s : State) : Nat := s.rd FLT_DUMPBLO.BASE * 4096 + s.rd FLT_DUMPBHI.BASE * 2 ^ 32

/-- The destination is valid but for its length (R696). -/
def State.dumpDest (s : State) : Bool :=
  decide (s.dumpBase ≠ 0) && (if s.isHead then s.host.link else s.rb RING_STAT.POS_VALID)

/-- Words go to consecutive host addresses: on the head as one write, on a member in frames of at most P_max (R467,
R486). -/
def State.writeBig (s : State) (addr : Nat) (ws : List Word) : State :=
  if s.isHead then s.hostWrite addr ws
  else ((s.pieces ws).zipIdx).foldl (fun s (p, i) => s.hostWrite (addr + 4 * s.pWords * i) p) s

/-- The agent writes words at an offset of the destination (R696). -/
def State.dumpWrite (s : State) (off : Nat) (ws : List Word) : State := s.writeBig (s.dumpBase + off) ws

/-- The Burgee with a status (R702). -/
def State.burgee (s : State) (n : Snap) (status : Nat) : List Word :=
  let lost := s.traceLost
  let head (st : Nat) : List Word :=
    [0x45475242, w2 1 (if lost then 4 else 8), wN st, wN s.dumpLen, wN s.sec.uid, wN (s.sec.uid / 2 ^ 32), wN n.tick,
     w2 (n.tick / 2 ^ 32) (n.trigger + 256 * n.first),
     w4 (s.rd SYS_RSTCAUSE.CAUSE) n.mode n.pos (b2n s.sec.gradeM + 2 * b2n lost), wN (s.rd FLT_DUMPSEQ.DSEQ), 0, 0, 0, 0, 0]
  head status ++ [crc32c (wordsBytes (head 0))]

/-- A section: its header and body (R700, R702). -/
def dumpSection (ty inst : Nat) (body : List Word) : List Word :=
  [w2 ty inst, wN (4 * body.length), crc32c (wordsBytes body), 0] ++ body

/-- The body of the trace section of a quad (R700). -/
def State.dumpTrace (s : State) (q : Quad) : List Word :=
  let t := (bget s.qd q).trace
  s.image (0x9100 + 0x400 * q.val) 16 ++ (List.range 8).flatMap (fun p => (List.range 4096).map (fun i =>
    wI (((t.find? (fun e => e.probe = p ∧ e.index = i)).map (·.value)).getD 0)))

/-- The sections of a dump in order (R700). -/
def State.dumpSections (s : State) (n : Snap) : List Word :=
  dumpSection 1 0 n.fault ++ dumpSection 2 0 n.regs ++
    dumpSection 3 0 (allCh.flatMap (fun c => (s.chan c).ledger.words)) ++ dumpSection 4 0 n.cpu ++
    (if s.traceLost then [] else allQuads.flatMap (fun q => dumpSection 5 q.val (s.dumpTrace q)))

/-- The event of a dump (R697). -/
def State.dumpEvent (s : State) (result : Nat) : State :=
  s.event 21 11 (s.rd FLT_DUMPSEQ.DSEQ % 65536 + 65536 * result)

/-- The dump agent may run (R696): in STANDBY, RUN, SERVICE and SAFE. -/
def State.agentRuns (s : State) : Bool :=
  s.sys.held.isNone && (s.sys.mode = .standby || s.sys.mode = .run || s.sys.mode = .service || s.sys.mode = .safe)

/-- DUMP_START (R696 to R699): the agent writes the Burgee and the sections, or the dump is held; a buffer that is too
small is reported once. -/
def execDumpStart (s : State) : Host.Outcome State Fault Refusal :=
  let st := s.rd FLT_DUMPSTAT.STATE
  match s.flt.snap with
  | none => .next s
  | some n =>
    if !s.agentRuns ∨ !s.rb FLT_DUMPSTAT.REQ ∨ !s.rb FLT_DUMPSTAT.SNAP_VALID ∨ s.flt.copying ∨ st = 2 ∨ st = 5 then .next s
    else if !s.flt.acked ∨ !s.dumpDest then .next (s.wr FLT_DUMPSTAT.STATE 4)
    else if s.rd FLT_DUMPLEN.LEN < s.dumpLen then
      let s := s.wr FLT_DUMPSTAT.STATE 4
      .next (if s.flt.tooSmall then s else { s with flt := { s.flt with tooSmall := true } }.dumpEvent 3)
    else
      let s := (s.wr FLT_DUMPSTAT.STATE 2).dumpWrite 0 (s.burgee n 0)
      .next (s.dumpWrite 64 (s.dumpSections n))

/-- DUMP_FINISH (R697, R698, R703): every write has been acknowledged, or one has failed (`ok` false). -/
def execDumpFinish (ok : Bool) (s : State) : Host.Outcome State Fault Refusal :=
  let open_ := s.ring.outq.any (fun f => s.frCls f = .other) || s.ring.sent.any (fun o => s.frCls o.frame = .other)
  if !s.agentRuns ∨ s.rd FLT_DUMPSTAT.STATE ≠ 2 ∨ (ok ∧ open_) then .next s
  else if !ok then .next ((s.wr FLT_DUMPSTAT.STATE 5).dumpEvent 2)
  else
    let s := s.dumpWrite 8 [wN (if s.traceLost then 2 else 1)]
    let s := (s.dumpEvent (b2n s.traceLost)).irq 7
    let s := ((s.wr FLT_DUMPSTAT.REQ 0).wr FLT_DUMPSTAT.SNAP_VALID 0).wr FLT_DUMPSTAT.STATE 3
    .next { s with flt := { s.flt with acked := false, tooSmall := false } }

/-- The effect of a write of `FLT_DUMPCTL` (R698, R699): `ACK` frees the buffer, any write lets a failed dump be tried
again. -/
def State.fxDumpCtl (s : State) (ack : Bool) : State :=
  let s := if ack then { s with flt := { s.flt with acked := true } } else s
  if s.rd FLT_DUMPSTAT.STATE = 5 then s.wr FLT_DUMPSTAT.STATE 4 else s

/-- The effect of a write of `FLT_INJ` in SERVICE with `GO` (R706): the source's rails are asserted for one tick. -/
def State.fxInject (s : State) (go : Bool) : State :=
  if go && s.sys.mode = .service then
    let n : Src := Fin.ofNat 128 (s.rd FLT_INJ.SRC)
    if srcListed n.val then { s with flt := { s.flt with inj := some n } }.assertAll n else s
  else s

/-- The tick of an injected source ends: its condition is gone unless the block holds it on its own. -/
def State.endInject (s : State) : State :=
  match s.flt.inj with
  | none => s
  | some n =>
    let s := { s with flt := { s.flt with inj := none } }
    if isChanSrc n then s.forCh allCh (fun s c => s.condGone n c)
    else if n.val = 16 then allQuads.foldl (fun s q => s.condGone n (chOf q 0)) s
    else s.condGone n 0

end Sys2Proof.Machine
end

