-- ==== Sys2Proof/Machine/Ring.lean ====
section
/-!
DEFINITION. The Wimor ring (08_wimor_ring.md, and R36, R49, R60 to R68, R492, R493 on the tick of a ring): Pennants,
splices, enumeration, wraps, barriers, safety PDUs and data frames. The register accesses that REG frames carry stand in
Bar1.lean.
-/

namespace Sys2Proof.Machine

/-! ### Events and periods -/

/-- A RING_STATE event, and vector 6 (R550). -/
def State.ringEvent (s : State) (cause p : Nat) : State :=
  (s.event 18 12 (cause + 256 * p + 65536 * s.rd RING_STAT.STATE)).irq 6

/-- The SSI frame and its monostable time fit in `div` ticks of `per` cycles (R583): in units of 2 ns × `FCLK`. -/
def State.encFits (_s : State) (nbits err fclk tm div per : Nat) : Bool :=
  decide ((nbits + err + 1) * 10000 + tm * 500 * fclk ≤ div * per * fclk)

/-- A value of `MOT_ENC.DIV` meets R583 at a tick period. -/
def State.divFits (s : State) (per div : Nat) : Bool :=
  s.encFits (s.rd MOT_ENC.NBITS) (s.rd MOT_ENC.ERRBIT) (s.rd MOT_ENC.FCLK) (s.rd MOT_ENC.TM) div per

/-- The values of `DIV`. -/
def divVals : List Nat := [1, 2, 3, 4, 5, 6, 7, 8, 9, 10, 11, 12, 13, 14, 15]

/-- Every loaded profile of a quad passes the cycle check at a period (R48, R252). -/
def State.quadFits (s : State) (q : Quad) (per : Nat) : Bool :=
  (bget s.qd q).slots.toList.all (fun p => match p with | some p => p.fits per | none => true)

/-- The device admits a period (R49). -/
def State.admits (s : State) (per : Nat) : Bool := allQuads.all (fun q => s.quadFits q per) && divVals.any (s.divFits per)

/-- `NTICK` meets 10 to 50 kHz at a period (R553): 500 MHz / (NTICK × per). -/
def ntickOk (n per : Nat) : Bool := decide (10000 ≤ n * per ∧ n * per ≤ 50000)

/-- The nearest `NTICK` in range. -/
def nearTick (n per : Nat) : Nat := if n * per < 10000 then (10000 + per - 1) / per else 50000 / per

/-- The period switches (R36, R492): the working copies of `SYS_TICK` follow, MOT keeps its frames and its PWM in range
(R553, R584), and slots that the new period does not admit are emptied (R493). -/
def State.switchPeriod (s : State) (per : Nat) : State :=
  let s := s.commitIf (fun f => lateTick f || lateMot f)
  let s := (s.wr SYS_TICKSTAT.INFORCE per).metPeriod per
  let s := { s with sys := { s.sys with
    perNew := none, ppt := s.rd SYS_TICK.PPT, tlm := s.rd SYS_TICK.TLM_DIV } }
  let s := if s.divFits per (s.rd MOT_ENC.DIV) then s
    else s.wr MOT_ENC.DIV ((divVals.find? (s.divFits per)).getD 15)
  let n := s.rd MOT_CFG.NTICK
  let s := if ntickOk n per then s else s.wr MOT_CFG.NTICK (nearTick n per)
  allQuads.foldl (fun s q => s.updQd q (fun x => { x with
    slots := bmap (fun p => match p with | some p => if p.fits per then some p else none | none => none) x.slots })) s

/-- Every other device on the ring is in STANDBY by its last safety PDU (R36, R659). -/
def State.ringStandby (s : State) : Bool :=
  (List.finRange 32).all (fun p => !bitN (s.rd RING_PRESENT.PRES) p.val || decide (p.val = s.pos) ||
    (let x := bget s.ring.pdus p; x.got && decide (x.last.mode.toNat = Mode.standby.code)))

/-- The head lays out the data region of a ring cycle (R501): in an even tick a slot reserved for a position comes first;
its own frames and then one EMPTY slot fill the rest. -/
def State.layRegion (s : State) : List RSlot :=
  let n := s.rd RING_STAT.NPOS
  let r := s.dataR
  if s.now % 2 = 0 ∧ 1 < n then
    [⟨min r 276, some (Fin.ofNat 32 (1 + s.now / 2 % (n - 1)))⟩, ⟨r - min r 276, none⟩]
  else [⟨r, none⟩]

/-- A wake burst replaces the ring cycle of this tick (R540). -/
def State.bursting (s : State) : Bool := s.ring.quietTo.any (fun t => s.clk ≤ t)

/-- A head lays out the region of each ring that it drives (R501). -/
def State.layRegions (s : State) : State :=
  if (s.role = 1 ∨ s.role = 2) ∧ s.live ∧ !s.ring.resetting then
    let l := s.layRegion
    let on (r : RingId) : List RSlot := if s.bursting || (s.wrapped && decide (r ≠ s.primary)) then [] else l
    { s with ring := { s.ring with slots := ⟨⟨[on .a, on .b]⟩, rfl⟩ } }
  else s

/-- TICK_PERIOD_SWITCH (R36, R37, R49, R492, R493): the announced boundary has come. On a head the change takes effect
while every device is in STANDBY and the head itself admits it, and is withdrawn otherwise; a member switches with the
ring. The region of the tick is that of the new period (R485). -/
def execTickPeriodSwitch (s : State) : Host.Outcome State Fault Refusal :=
  match s.sys.perNew with
  | some (p, 0) =>
    .next (if s.isHead then
        (if s.sys.mode = .standby ∧ s.ringStandby ∧ s.admits p then (s.switchPeriod p).layRegions else s.withdraw)
      else if s.sys.mode = .standby then s.switchPeriod p
      else { s with sys := { s.sys with perNew := none } })
  | _ => .next s

/-- TICK_CHANGE_WITHDRAW (R37): a device has left STANDBY before the switch. -/
def execTickChangeWithdraw (s : State) : Host.Outcome State Fault Refusal :=
  .next (if s.isHead ∧ s.sys.perNew.isSome then s.withdraw else s)

/-! ### Clocks (R60 to R68, R523, R757) -/

/-- A head starts its ring (R523, R530): both bypasses open, TRAIN. -/
def State.startRing (s : State) : State :=
  if s.role = 1 ∨ s.role = 2 then
    let s := ((s.wr RING_STAT.BYPA 0).wr RING_STAT.BYPB 0).wr RING_STAT.STATE 0
    let s := ((s.wr RING_STAT.NPOS 0).wr RING_STAT.POS 0).wr RING_STAT.POS_VALID 1
    { s with ring := { s.ring with
      trainT := 0, hopRun := 0, enumT := none, wrapOn := false, cross := false, uids := [] } }.ringEvent 7 0
  else s

/-- PLL_LOCK (R523, R757): `TICK_OUT` runs from here (R788). -/
def execPllLock (s : State) : Host.Outcome State Fault Refusal :=
  if s.sys.held.isSome ∨ s.sys.mode = .park then .next s
  else
    let s := { s with sys := { s.sys with tickOut := true } }.wr SYS_CLK.LOCK 1
    .next (if s.sys.mode = .boot ∧ s.bypass .a then s.startRing else s)

/-- REF_SWITCH (R61, R62): a member without a crystal takes the word clock of ring B and holds its frequency. -/
def execRefSwitch (s : State) : Host.Outcome State Fault Refusal :=
  if s.role = 0 ∧ !s.rb SYS_CLK.XTAL ∧ !s.idle then
    .next ({ s with sys := { s.sys with holdover := some s.clk } }.wr SYS_CLK.REF 3 |>.wr SYS_CLKERR.REF_SWITCH 1)
  else .next s

/-- CLK_LOST (R62): no ring reference after 8 ticks of holdover. -/
def execClkLost (s : State) : Host.Outcome State Fault Refusal :=
  match s.sys.holdover with
  | some t => .next (if t + 8 ≤ s.clk then (s.wr SYS_CLKERR.CLK_LOST 1).raiseDev 41 else s)
  | none => .next s

/-- TICK_ALIGN (R68): four successive deviating ticks. DESIGN CHOICE (log entry 125): ticks that deviated before the
device entered RUN count among them; only the device that raises the source has to be in RUN. -/
def execTickAlign (s : State) : Host.Outcome State Fault Refusal :=
  .next (if s.sys.mode = .run ∧ 4 ≤ s.sys.alignBad then (s.wr RING_ERR.TICK_ALIGN 1).raiseDev 42 else s)

/-! ### Pennants on a member (R482, R487 to R493, R521, R522, R535) -/

/-- The run of successive Pennants on a ring (R482). -/
def State.lockRun (s : State) (r : RingId) (tick : Nat) : State :=
  { s with ring := { s.ring with lock := bupd s.ring.lock (ringIx r) (fun l =>
    (if l.2 + 1 = tick then l.1 + 1 else 1, tick)) } }

/-- Place a number in a rising list. -/
def insInt (x : Int) : List Int → List Int
  | [] => [x]
  | y :: t => if x ≤ y then x :: y :: t else y :: insInt x t

/-- The median of a list. -/
def median (l : List Int) : Int :=
  let s := l.foldr insInt []
  s.getD (s.length / 2) 0

/-- A delay enters the last sixteen; their median is `RING_DLY.DA` (R521). It is the delay on ring `r`; on the other ring
it is `oth` of it. -/
def State.delayIn (s : State) (r : RingId) (d : Int) (oth : Int → Int) : State :=
  let l := keep 16 (d :: s.ring.recent)
  let m := median l
  let dly := (bupd s.ring.dly (ringIx r) (fun _ => some m))
  { s with ring := { s.ring with recent := l, dly := bupd dly (ringIx (otherRing r)) (fun _ => some (oth m)) } }.wr RING_DLY.DA
    (ofS 16 m)

/-- The timing of a copy (R521, R522, R535): `t` is its arrival in 0.125 ns from the local boundary. -/
def State.pennantTiming (s : State) (r : RingId) (p : Pennant) (t : Int) : State :=
  let f : Int := s.rd RING_DLY.FWD
  let loop : Int := p.loop.toNat
  if p.rstate.toNat = 3 then
    let one (s : State) (x : RingId) (d : Int) : State :=
      let prim : Bool := (x = RingId.b) = p.copyB
      s.delayIn x (tdiv ((if prim then loop else loop + p.loop2.toNat) - f - d) 2) (fun m => m + d)
    let last := s.rb RING_STAT.WRAPA || s.rb RING_STAT.WRAPB
    match s.ring.tArr with
    | none =>
      let s := { s with ring := { s.ring with tArr := some (r, t) } }
      if last then one s r 0 else s
    | some (x, t0) => if last then s else one s x (t - t0)
  else if p.rstate.toNat = 2 then
    match s.ring.tArr with
    | some (x, t0) =>
      if x = r then s
      else
        let (ta, tb) := if r = RingId.b then (t0, t) else (t, t0)
        s.delayIn .a (tdiv (loop - f + ta - tb) 2) (fun m => loop - f - m)
    | none => { s with ring := { s.ring with tArr := some (r, t) } }
  else s

/-- A copy is too late or too early for timing: more than 40 ns, in 0.125 ns (R522). -/
def unusable (dev : Int) : Bool := decide (320 < dev.natAbs)

/-- The deviation of a tick (R68, R521): that of its ring A copy, of its ring B copy where the ring A copy is not usable
for timing (R522); of the first copy where none is. A member with a crystal steers its PLL by what no rule states, within
±200 ppm (R63). -/
def State.alignIn (s : State) (r : RingId) (dev : Int) : State :=
  let better : Bool := match s.sys.alignDev with
    | none => true
    | some (x, d) => !unusable dev && (unusable d || (decide (r = RingId.a) && decide (x = RingId.b)))
  if !better then s
  else
    let s := { s with sys := { s.sys with
      alignDev := some (r, dev), alignBad := if 160 < dev.natAbs then s.sys.alignWas + 1 else 0 } }
    let s := s.wr RING_LOOP.ALIGN (ofS 16 (satS 16 dev))
    if s.rb SYS_CLK.XTAL then let (x, s) := s.takeInt; s.wrS SYS_CLK.STEER (clampI x (-20000) 20000) else s

/-- The tick ends: one without a copy breaks the run of deviating ticks (R67, R68); sixteen ticks within ±20 ns end the
condition of `TICK_ALIGN` (R679). -/
def State.alignTick (s : State) : State :=
  let n := if s.sys.alignDev.isNone then 0 else s.sys.alignBad
  let ok : Bool := s.sys.alignDev.any (fun e => decide (e.2.natAbs ≤ 160))
  let s : State := { s with sys := { s.sys with
    alignBad := n, alignWas := n, alignDev := none, alignOk := if ok then s.sys.alignOk + 1 else 0 } }
  if 16 ≤ s.sys.alignOk then s.condGone 42 0 else s

/-- The delays from the head are measured anew where its stream changes its way (R521, R535): DESIGN CHOICE (log entry
154), since the copies come at other times there, and R522 would use none of them. -/
def State.newWay (s : State) (rstate : Nat) : State :=
  if decide (s.rd RING_STAT.STATE = 3) = decide (rstate = 3) then s
  else { s with ring := { s.ring with recent := [], dly := Vector.replicate 2 none } }

/-- The period fields of a Pennant (R36, R492, R493): an announced change is followed, and refused by one PERIOD_NAK where,
or as soon as, R49 forbids it; a withdrawal ends it; the period in force is the ring's (R35). -/
def State.pennantPeriod (s : State) (p : Pennant) : State :=
  let new := 40 * p.newper.toNat
  if new ≠ 0 then
    let first := decide (s.sys.perNew.map (·.1) ≠ some new)
    let s := { s with sys := { s.sys with perNew := some (new, p.switch.toNat), nak := s.sys.nak && !first } }
    if !s.sys.nak ∧ !s.admits new then
      let s := { s with sys := { s.sys with nak := true } }
      let slow := allQuads.filter (fun q => !s.quadFits q new)
      let s := slow.foldl (fun s q => s.wr (QD_PCMD.RESULT q) 1) s
      s.mgmt 9 0 0 [wN (s.pos + 256 * (if slow.isEmpty then 2 else 1))]
    else s
  else
    let s := { s with sys := { s.sys with perNew := none } }
    if 40 * p.per.toNat ≠ s.per then s.switchPeriod (40 * p.per.toNat) else s

/-- The safe-state vector of a Pennant: a bit of any device, this one included, is a safe-state request (R81). -/
def State.safevIn (s : State) (v : Nat) : State :=
  let old := s.vecBits
  let s := s.wr RING_SAFEV.SAFEV v
  if s.vecBits ≠ 0 ∧ (old = 0 ∨ !bitN (s.rd SAF_CAUSEV.OTHER) 2) then
    let p := ((List.range 32).find? (fun i => bitN s.vecBits i)).getD 0
    s.safeReq (.otherBit (Fin.ofNat 32 p)) false
  else s

/-- The 32 octets of a Pennant (R487). -/
def pennantWire (p : Pennant) : List Byte :=
  let b (x : Nat) : Byte := BitVec.ofNat 8 x
  let body := leBytes 6 p.tick.toNat ++ [b (p.rstate.toNat + 4 * b2n p.copyB), p.hop] ++ leBytes 2 p.loop.toNat ++
    leBytes 2 p.loop2.toNat ++ [p.per, p.newper, p.switch, p.npos] ++ wordBytes p.safev ++ leBytes 8 p.barv.toNat
  body ++ wordBytes (crc32c body)

/-- A Pennant passes through a device (R489, R490, R534): `HOP` counts, and the device writes its own bit of `SAFEV`. -/
def State.forwardPennant (s : State) (r : RingId) (p : Pennant) : State :=
  if !s.relays r then s
  else
    let up := r = RingId.a || s.rb RING_STAT.WRAPA
    let v := clrBitN p.safev.toNat s.pos
    let v := if s.ownCause && s.rb RING_STAT.POS_VALID then setBitN v s.pos else
      if s.rb RING_STAT.POS_VALID then v else p.safev.toNat
    s.emit (.pennant (s.outRing r) (pennantWire { p with hop := if up then p.hop + 1 else p.hop, safev := wN v }))

/-- PENNANT_RECEIVED (R66, R482, R487 to R493, R521, R522, R525): a member takes a Pennant copy of ring `r` that arrived
`t` after its boundary in 0.125 ns. It is expected at the boundary plus the delay on that ring, and the deviation is the
difference (R522), so that the row's own `dev` decides nothing (log entry 140); before a delay is measured there is none. -/
def execPennantReceived (r : RingId) (p : Pennant) (t _dev : Int) (s : State) : Host.Outcome State Fault Refusal :=
  if s.role ≠ 0 ∨ s.idle ∨ s.ring.resetting then .next s
  else if !p.crcOk then
    .next ({ s with ring := { s.ring with lock := bupd s.ring.lock (ringIx r) (fun l => (0, l.2)) } }.incSat (RING_CNT1.PCRC r))
  else
    let s := s.lockRun r p.tick.toNat
    let s := s.wr (match r with | .a => RING_STAT.LINKA | .b => RING_STAT.LINKB) 1
    let s := (s.newWay p.rstate.toNat).wr RING_STAT.STATE p.rstate.toNat
    let s := (s.wr RING_STAT.NPOS p.npos.toNat).wr RING_LOOP.LOOP p.loop.toNat
    let s :=
      if s.sys.holdover.isSome then
        { s with sys := { s.sys with holdover := none } }.wr SYS_CLK.REF (if r = RingId.a then 1 else 2)
      else s
    let s := match bget s.ring.dly (ringIx r) with
      | some d =>
        let s := s.alignIn r (t - d)
        if unusable (t - d) then s.incSat (RING_CNT2.LATE r) else s.pennantTiming r p t
      | none => s.pennantTiming r p t
    let s := { s with sys := { s.sys with tick := p.tick.toNat, missedP := 0 } }
    let s :=
      if p.rstate.toNat = 1 ∧ !s.bypass r ∧ (r = RingId.a ∨ s.rb RING_STAT.WRAPA) then
        ((s.wr RING_STAT.POS ((1 + p.hop.toNat) % 32)).wr RING_STAT.POS_VALID 1).wr RING_STAT.LATE 0
      else s
    let s := s.pennantPeriod p
    let s := (s.wr RING_BARVL.BARV (p.barv.toNat % 2 ^ 32)).wr RING_BARVH.BARV (p.barv.toNat / 2 ^ 32)
    let s := s.safevIn p.safev.toNat
    .next (s.forwardPennant r p)

/-- PENNANT_MISSED (R67): the device runs on its own tick counter. -/
def execPennantMissed (s : State) : Host.Outcome State Fault Refusal :=
  .next (if s.role = 0 ∧ !s.idle then { s with sys := { s.sys with missedP := s.sys.missedP + 1 } } else s)

/-- SPLICE (R480 to R482, R527): the bypass of ring `r` opens in the closing guard of the tick that the unique
identifier names; in NORMAL or WRAPPED a JOIN follows. -/
def execSplice (r : RingId) (s : State) : Host.Outcome State Fault Refusal :=
  let run (x : RingId) : Nat := (bget s.ring.lock (ringIx x)).1
  let turn : Bool :=
    match r, bget s.ring.spliceT 0 with
    | .a, _ => true
    | .b, some t => decide (t + 16 ≤ s.clk)
    | .b, none => !(s.bypass .a && decide (16 ≤ run .a))
  let due := s.sys.perNew.any (fun p => decide (p.2 = 0))
  if s.role = 0 ∧ !s.idle ∧ !s.ring.resetting ∧ s.bypass r ∧ 16 ≤ run r ∧ s.now % 16 = s.sec.uid % 16 ∧ turn ∧ !due then
    let first := !s.live
    let s := s.wr (match r with | .a => RING_STAT.BYPA | .b => RING_STAT.BYPB) 0
    let s := { s with ring := { s.ring with spliceT := bupd s.ring.spliceT (ringIx r) (fun _ => some s.clk) } }
    let s := s.incSat (RING_CNT3.SPLICE r)
    if first ∧ 2 ≤ s.rd RING_STAT.STATE then
      .next (s.mgmt 3 0 0 [wN (s.sec.uid % 2 ^ 32), wN (s.sec.uid / 2 ^ 32),
        if s.rb RING_STAT.POS_VALID then wN s.pos else 0xFFFFFFFF])
    else .next s
  else .next s

/-! ### The head: Pennants, barriers, the PDU window (R488 to R498, R520) -/

/-- `n` arrivals of a tag are counted (R495): each time the count reaches the target, the target is taken off it and the
tag's bit is set in the next 4 Pennants. -/
def State.barCount (s : State) (t n : Nat) : State :=
  let i : Fin 64 := Fin.ofNat 64 t
  let tgt := bget s.ring.tgt i
  if tgt = 0 then s
  else
    let c := bget s.ring.cnt i + n
    let hit := decide (tgt ≤ c ∧ n ≠ 0)
    { s with ring := { s.ring with
      cnt := bupd s.ring.cnt i (fun _ => if hit then c % tgt else c)
      left := bupd s.ring.left i (fun l => if hit then 4 else l) } }

/-- Tags are released without a count (R496). -/
def State.barSet (s : State) (high : Bool) (mask : Nat) : State :=
  if s.isHead then
    (List.range 32).foldl (fun s i =>
      if bitN mask i then
        { s with ring := { s.ring with left := bupd s.ring.left (Fin.ofNat 64 (i + if high then 32 else 0)) (fun _ => 4) } }
      else s) s
  else s

/-- The arrivals of the last tick are counted, or reported to the head in one ARRIVE frame, or more where they exceed P_max
(R486, R494, R497). -/
def State.reportArrivals (s : State) : State :=
  let l := s.ring.arrivals
  if l.isEmpty then s
  else
    let s := { s with ring := { s.ring with arrivals := [] } }
    if s.isHead then l.foldl (fun s e => s.barCount e.1 e.2) s
    else (s.pieces (l.map (fun e => wN (e.1 + 256 * e.2)))).foldl (fun s ws => s.mgmt 2 0 0 ws) s

/-- `BARV` of the Pennant that a head sends, or of a standalone device's boundary; each bit stands for 4 ticks (R495,
R497). -/
def State.barvNext (s : State) : State :=
  let v := maskAll (s.ring.left.toList.map (fun n => decide (0 < n)))
  let s := { s with ring := { s.ring with left := bmap (fun n => n - 1) s.ring.left } }
  (s.wr RING_BARVL.BARV (v % 2 ^ 32)).wr RING_BARVH.BARV (v / 2 ^ 32)

/-- The inputs at which copies of the head's Pennant end (R491, R534): both, or in WRAPPED that of the primary ring, or of
the other where it is down. -/
def State.finals (s : State) : List RingId :=
  if !s.wrapped then [.a, .b]
  else if bget s.ring.down (ringIx s.primary) then [(otherRing s.primary)] else [s.primary]

/-- `SAFEV` of the next Pennant (R491): a bit that was sent goes only when every copy that can return has returned with it
clear. -/
def State.safevNext (s : State) : Nat :=
  let ret := s.ring.ret.foldl (fun a e => a ||| e.2) 0
  let v := if s.finals.all (fun r => s.ring.ret.any (fun e => decide (e.1 = r))) then ret else ret ||| s.ring.sentV
  if s.ownCause then setBitN v 0 else clrBitN v 0

/-- The time of the last return at an input. -/
def State.loopAt (s : State) (r : RingId) : Option Int := match r with | .a => s.ring.loopA | .b => s.ring.loopB

/-- `LOOP` of the next Pennant (R520): the mean of the two returns; in WRAPPED the return at the forwarding input, that of
the ring that is not the primary one (R535). -/
def State.loopNext (s : State) : Int :=
  if s.wrapped then (s.loopAt (otherRing s.primary)).getD 0
  else
    match s.ring.loopA, s.ring.loopB with
    | some a, some b => rdiv (a + b) 2
    | some a, none => a
    | none, some b => b
    | none, none => 0

/-- `LOOP2` of the next Pennant (R535): in WRAPPED the final return, at the primary ring's input, plus the head's own
forwarding latency. -/
def State.loop2Next (s : State) : Int :=
  if s.wrapped then (match s.loopAt s.primary with | some b => b + s.rd RING_DLY.FWD | none => 0) else 0

/-- The head sends its Pennant (R488, R492): on both rings, in WRAPPED on its primary output. -/
def State.sendPennant (s : State) : State :=
  if (s.role = 1 ∨ s.role = 2) ∧ s.live ∧ !s.ring.resetting ∧ !s.bursting then
    let (per, new, sw) :=
      match s.sys.perNew with
      | some (p, 0) => (p, 0, 0)
      | some (p, n) => (s.per, p, n)
      | none => (s.per, 0, 0)
    let v := s.safevNext
    let s := (s.wr RING_SAFEV.SAFEV v).barvNext
    let s := { s with ring := { s.ring with ret := [], sentV := v } }
    let p (b : Bool) : Pennant :=
      ⟨BitVec.ofNat 48 s.now, BitVec.ofNat 2 (s.rd RING_STAT.STATE), b, 0, BitVec.ofInt 16 s.loopNext,
        BitVec.ofInt 16 s.loop2Next, BitVec.ofNat 8 (per / 40), BitVec.ofNat 8 (new / 40), BitVec.ofNat 8 sw,
        BitVec.ofNat 8 (s.rd RING_STAT.NPOS), wN v,
        BitVec.ofNat 64 (s.rd RING_BARVL.BARV + 2 ^ 32 * s.rd RING_BARVH.BARV), true⟩
    let on (s : State) (r : RingId) : State := s.emit (.pennant r (pennantWire (p (decide (r = RingId.b)))))
    if s.wrapped then on s s.primary else on (on s .a) .b
  else s

/-- The device's own safety PDU (R659). -/
def State.ownPdu (s : State) : Pdu where
  src := BitVec.ofNat 5 s.pos
  seq := BitVec.ofNat 8 s.ring.pduSeq
  state := BitVec.ofNat 16 (maskAll ([0, 1, 2, 3, 4, 5, 6].map s.demand ++
    [s.sfault, s.rb SAF_STAT.LATCH, s.ownCause, s.rb SAF_STAT.DBG_UNCHECKED, decide (s.sys.mode = .service)]))
  mode := BitVec.ofNat 8 s.sys.mode.code
  io := BitVec.ofNat 8 s.ioByte
  scyc := BitVec.ofNat 16 (s.now / 16)
  pset := wN (s.pset 19)
  crcOk := true

/-- The 16 octets of a safety PDU (R659). -/
def pduWire (p : Pdu) : List Byte :=
  let body := [BitVec.ofNat 8 p.src.toNat, p.seq] ++ leBytes 2 p.state.toNat ++ [p.mode, p.io] ++ leBytes 2 p.scyc.toNat ++
    wordBytes p.pset
  body ++ wordBytes (crc32c body)

/-- The device fills its PDU window on every ring that it drives (R498): the window of its own position, and on the head
those without an owner. -/
def State.sendPdu (s : State) : State :=
  let own := decide (s.now % 32 = s.pos) && s.rb RING_STAT.POS_VALID
  let head := s.isHead && (!bitN (s.rd RING_PRESENT.PRES) (s.now % 32) || decide (s.rd RING_STAT.STATE < 2))
  if s.onRing ∧ s.live ∧ !s.ring.resetting ∧ !s.bursting ∧ s.rb SAF_STAT.CHECK_ON ∧ (own ∨ head) then
    let p := pduWire s.ownPdu
    let rs : List RingId := [.a, .b]
    let s := (rs.filter s.drives).foldl (fun s r => s.emit (.pdu r p)) s
    { s with ring := { s.ring with pduSeq := (s.ring.pduSeq + 1) % 256 } }
  else s

/-- PENNANT_RETURN (R491, R520, R525, R534, R535): the head's Pennant of this tick returns on ring `r`, `l` after its
boundary, and in WRAPPED goes on where the stream does. -/
def execPennantReturn (r : RingId) (p : Pennant) (l : Int) (s : State) : Host.Outcome State Fault Refusal :=
  if !(s.role = 1 ∨ s.role = 2) ∨ s.idle ∨ s.ring.resetting then .next s
  else if !p.crcOk then .next (s.incSat (RING_CNT1.PCRC r))
  else
    let s := s.lockRun r p.tick.toNat
    let s := s.wr (match r with | .a => RING_STAT.LINKA | .b => RING_STAT.LINKB) 1
    let s := { s with ring := { s.ring with
      ret := if p.tick.toNat = s.now then (r, p.safev.toNat) :: s.ring.ret.filter (fun e => decide (e.1 ≠ r)) else s.ring.ret
      cross := s.ring.cross || decide (p.copyB ≠ decide (r = RingId.b))
      loopA := if r = RingId.a then some l else s.ring.loopA, loopB := if r = RingId.b then some l else s.ring.loopB } }
    let s :=
      if r = RingId.a ∨ s.wrapped then
        { s with ring := { s.ring with
          hopRun := if p.hop.toNat = s.ring.hop then s.ring.hopRun + 1 else 0, hop := p.hop.toNat } }
      else s
    let s := (s.wr RING_LOOP.LOOP p.loop.toNat).safevIn p.safev.toNat
    .next (s.forwardPennant r p)

/-- A member meets a frame for the head or of another use: it goes by (R504), or its CRC is counted. -/
def State.passBy (s : State) (f : Frame) : State := (s.takeFrame f false).1

/-- ARRIVE (R494, R544): the arrivals of a member, one word per tag. -/
def execArrive (f : Frame) (s : State) : Host.Outcome State Fault Refusal :=
  if !s.isHead then .next (s.passBy f)
  else
    let (s, ok) := s.takeFrame f true
    .next (if ok then f.payload.foldl (fun s w => s.barCount (w.toNat % 64) (w.toNat / 256 % 256)) s else s)

/-! ### Safety PDUs (R660 to R662) -/

/-- SAFETY_PDU_RECEIVED (R498, R660 to R662): a PDU in its window on ring `r`; `fromHead` when the head fills the window.
A device leaves it as it arrives in a window that it does not fill, a head in WRAPPED where the stream goes on (R534). -/
def execSafetyPduReceived (r : RingId) (fromHead : Bool) (p : Pdu) (s : State) : Host.Outcome State Fault Refusal :=
  if s.idle ∨ s.bypass r ∨ s.ring.resetting ∨ !s.onRing then .next s
  else
  let own := s.rb RING_STAT.POS_VALID && decide (s.now % 32 = s.pos)
  let s := if s.relays r && !own then s.emit (.pdu (s.outRing r) (pduWire p)) else s
  if !p.crcOk then .next (s.incSat (RING_CNT1.SCRC r))
  else if p.src.toNat ≠ (if fromHead then 0 else s.now % 32) then .next s
  else
    let s := { s with ring := { s.ring with
      wd := if s.wrapped then Vector.replicate 2 (some 0) else bupd s.ring.wd (ringIx r) (fun _ => some 0) } }
    let i : Fin 32 := Fin.ofNat 32 p.src.toNat
    let x := bget s.ring.pdus i
    let put (s : State) (y : PduSeen) : State := { s with ring := { s.ring with pdus := bupd s.ring.pdus i (fun _ => y) } }
    if x.got ∧ p.seq = x.last.seq then
      if s.clk ≤ x.at_ + 2 then
        .next (if { p with crcOk := true } = { x.last with crcOk := true } then s else s.raiseDev 60)
      else .next (s.raiseDev 59)
    else .next (put s ⟨true, p, s.clk⟩)

/-- RING_WATCHDOG_EXPIRY (R662): an armed watchdog has run 8 ticks. -/
def execRingWatchdogExpiry (r : RingId) (s : State) : Host.Outcome State Fault Refusal :=
  .next (if s.wdExpired (ringIx r) then (s.safeReq (.ringWdog r) false).raiseAs 58 0 (.ringWdog r) else s)

/-! ### Data frames (R502 to R511) -/

/-- A frame answers another one and carries its tag: REGR, RDCPL. -/
def isAnswer (f : Frame) : Bool := f.type = 2 || f.type = 4

/-- The tag of a new frame has been used toward its destination within 64 ticks (R509). -/
def State.tagUsed (s : State) (f : Frame) : Bool :=
  !f.retry && !isAnswer f &&
    s.ring.tagLog.any (fun e => decide (e.1 = f.dst.toNat ∧ e.2.1 = f.tag.toNat ∧ s.clk ≤ e.2.2 + 64))

/-- A frame may go into a slot of a ring now (R502, R503, R505, R509): it fits, it travels on that ring, its tag is free,
and a member places one frame besides ACKs on a ring in a tick. -/
def State.mayPlace (s : State) (r : RingId) (slotBytes : Nat) (f : Frame) : Bool :=
  decide (frBytes f ≤ slotBytes) && (s.wrapped || decide (s.sendRing f = r)) && !s.tagUsed f &&
    (s.isHead || isAck f || decide (bget s.ring.placed (ringIx r) ≠ s.clk + 1))

/-- Note a frame that waits for its answer: a new entry, or the age of the old one starts again. -/
def noteOut (l : List OutFr) (f : Frame) : List OutFr :=
  if l.any (fun o => o.frame.dst = f.dst ∧ o.frame.tag = f.tag) then
    l.map (fun o => if o.frame.dst = f.dst ∧ o.frame.tag = f.tag then { o with age := 0 } else o)
  else l ++ [(⟨f, 0, 0⟩ : OutFr)]

/-- The frame that a slot of `bytes` takes now, by precedence (R506). -/
def State.pickFrame (s : State) (r : RingId) (bytes : Nat) : Option Frame :=
  FrCls.all.findSome? (fun c => s.ring.outq.find? (fun f => decide (s.frCls f = c) && s.mayPlace r bytes f))

/-- A frame takes a slot of ring `r` and goes out on the ring that `o` names: a member whose wrap carries the stream over
sends it there (R533). -/
def State.placeFrame (s : State) (r o : RingId) (f : Frame) : State :=
  let x := s.ring
  let x := { x with
    outq := x.outq.erase f
    placed := if isAck f then x.placed else bupd x.placed (ringIx r) (fun _ => s.clk + 1)
    sent := if f.ackreq then noteOut x.sent f else x.sent
    reads := if f.type = 3 then noteOut x.reads f else x.reads
    tagLog := if isAnswer f then x.tagLog
      else (f.dst.toNat, f.tag.toNat, s.clk) :: x.tagLog.filter (fun e => decide (s.clk ≤ e.2.2 + 64))
    regs := x.regs.map (fun g => if f.type = 1 ∧ g.frame.tag = f.tag ∧ g.frame.dst = f.dst then { g with age := 0 } else g) }
  ({ s with ring := x }).emitFrame o f

/-- A head places a frame of its own in front of the free slot of its region (R501). -/
def State.headSend (s : State) (r : RingId) : State :=
  let l := bget s.ring.slots (ringIx r)
  let free := (l.find? (fun x => x.rsv.isNone)).map (·.bytes) |>.getD 0
  match s.pickFrame r free with
  | none => s
  | some f =>
    let s := s.placeFrame r r f
    { s with ring := { s.ring with slots := bupd s.ring.slots (ringIx r) (fun l =>
      l.map (fun x => if x.rsv.isNone then { x with bytes := x.bytes - frBytes f } else x)) } }

/-- FRAME_SEND (R501 to R506): a head sends a frame of its own; at a member an EMPTY slot of ring `r` passes, which it
fills where the slot is unreserved or reserved for it, and forwards else, with `RSV` = 0 where it was its own. What a
frame leaves of a slot is a slot of its own from 24 bytes on (R502). -/
def execFrameSend (r : RingId) (slotBytes : Nat) (reservedFor : Option Pos) (s : State) : Host.Outcome State Fault Refusal :=
  let mine : Bool := reservedFor.all (fun p => decide (p.val = s.pos))
  if s.idle ∨ s.ring.resetting ∨ s.bypass r ∨ !s.onRing then .next s
  else if s.isHead then .next (s.headSend r)
  else if !mine then .next (s.emit (.slot (s.outRing r) slotBytes reservedFor))
  else
    match s.pickFrame r slotBytes with
    | none => .next (s.emit (.slot (s.outRing r) slotBytes none))
    | some f =>
      let s := s.placeFrame r (s.outRing r) f
      let rest := slotBytes - frBytes f
      .next (if 24 ≤ rest then s.emit (.slot (s.outRing r) rest none) else s)

/-- RDREQ (R429, R510): the head issues a member's read on PCIe, or holds it until a tag is free and its turn has come;
one still outstanding is not issued again. -/
def execRdreq (f : Frame) (s : State) : Host.Outcome State Fault Refusal :=
  if !s.isHead then .next (s.passBy f)
  else
    let (s, ok) := s.takeFrame f false
    let busy := s.ring.reads.any (fun o => o.frame.src = f.src ∧ o.frame.tag = f.tag) ||
      s.ring.rdq.any (fun g => g.src = f.src ∧ g.tag = f.tag)
    if ok ∧ s.canRead then
      .next (if busy then s else { s with ring := { s.ring with rdq := s.ring.rdq ++ [f] } }).readOn
    else .next s

/-- The status of an RDCPL (R500). -/
def rdStatus (n : Nat) : RdStatus :=
  if n = 0 then .ok else if n = 1 then .unsupported else if n = 2 then .abort else if n = 3 then .poisoned else .timeout

/-- The RDCPL frames in which the head returns the data `ws` of a request, or its error status, to a member (R500, R510):
at most P_max bytes each, the last marked. -/
def State.rdcpls (s : State) (dst tag status : Nat) (ws : List Word) : List Frame :=
  let one (i : Nat) (last : Bool) (p : List Word) : Frame :=
    { s.mkFrame 4 dst false tag (4 * s.pWords * i + 65536 * status) p with last := last }
  let ps := s.pieces ws
  if status ≠ 0 then [one 0 true []] else (ps.zipIdx).map (fun (p, i) => one i (decide (i + 1 = ps.length)) p)

/-- RDCPL (R500, R510): a read that the head has issued for a member has its data, all in `f`, or an error status, which
go out in RDCPL frames; at a member one such frame arrives: a request all of whose data have come, or one with an error
status, ends. -/
def execRdcpl (f : Frame) (s : State) : Host.Outcome State Fault Refusal :=
  if s.isHead then
    let mine (o : OutFr) : Bool := o.frame.src = f.dst && o.frame.tag = f.tag
    let status := f.arg.toNat / 65536 % 256
    match s.ring.reads.find? mine with
    | none => .next s
    | some o =>
      if s.idle ∨ (status = 0 ∧ 4 * f.payload.length ≠ (wAt o.frame.payload 0).toNat % 512) then .next s
      else
        let s := { s with ring := { s.ring with reads := s.ring.reads.filter (fun o => !mine o) } }
        .next ((s.rdcpls f.dst.toNat f.tag.toNat status f.payload).foldl State.queueFrame s).readOn
  else
    let (s, ok) := s.takeFrame f false
    let mine (o : OutFr) : Bool := o.frame.tag = f.tag
    if !ok ∨ !s.ring.reads.any mine then .next s
    else
      let close (s : State) : State := { s with ring := { s.ring with reads := s.ring.reads.filter (fun o => !mine o) } }
      match s.host.reads.find? (fun r => r.tag % 256 = f.tag.toNat) with
      | none => .next (close s)
      | some r =>
        let st := rdStatus (f.arg.toNat / 65536 % 256)
        if st ≠ .ok then .next ((close s).takeRead r st [])
        else
          let base := f.arg.toNat % 512 / 4
          let new := (f.payload.zipIdx).map (fun (w, i) => (base + i, w))
          let got := new ++ r.got.filter (fun e => !new.any (fun n => n.1 = e.1))
          if (List.range (16 * r.n)).all (fun i => (got.lookup i).isSome) then
            let ws := (List.range (16 * r.n)).map (fun i => (got.lookup i).getD 0)
            .next ((close s).takeRead r .ok ws)
          else
            .next { s with host := { s.host with
              reads := s.host.reads.map (fun x => if x = r then { r with got := got } else x) } }

/-- A frame is sent again (R508). -/
def State.again (s : State) (f : Frame) : State :=
  (s.queueFrame { f with retry := true }).incSat (RING_CNT3.RETX (s.sendRing { f with retry := true }))

/-- RDREQ_TIMEOUT (R510): `RDTO` has passed; the request is sent again, or ends as a timeout. -/
def execRdreqTimeout (tag : Byte) (s : State) : Host.Outcome State Fault Refusal :=
  if s.isHead ∨ s.idle then .next s
  else
    match s.ring.reads.find? (fun o => o.frame.tag = tag) with
    | none => .next s
    | some o =>
      if o.age < s.rd RING_DCFG.RDTO ∨ s.ring.outq.any (fun g => decide (g.type = 3 ∧ g.tag = tag)) then .next s
      else if o.tries < s.rd RING_DCFG.RETRIES then
        let s := { s with ring := { s.ring with
          reads := s.ring.reads.map (fun x => if x = o then { o with age := 0, tries := o.tries + 1 } else x) } }
        .next (s.again o.frame)
      else
        let s := { s with ring := { s.ring with reads := s.ring.reads.filter (fun x => x ≠ o) } }
        match s.host.reads.find? (fun r => r.tag % 256 = tag.toNat) with
        | none => .next s
        | some r => .next (s.takeRead r .timeout [])

/-- WR (R507): the head issues a member's write and then acknowledges it; one that it cannot issue is not taken. -/
def execWr (f : Frame) (s : State) : Host.Outcome State Fault Refusal :=
  if !s.isHead then .next (s.passBy f)
  else if f.crcOk ∧ !(s.host.link ∧ s.host.bme) then .next s
  else
    let (s, ok) := s.takeFrame f true
    .next (if ok then s.emit (.hostWrite f.arg.toNat (wordsBytes f.payload)) else s)

/-- A member's write has been acknowledged: an event record is written, or the last record of a telemetry report
(R464). -/
def State.ackIrq (s : State) (f : Frame) : State :=
  let tlm (g : Frame) : Bool := decide (s.frCls g = .telemetry)
  if s.frCls f = .event then s.irq 2
  else if tlm f && !s.ring.sent.any (fun o => tlm o.frame) && !s.ring.outq.any tlm then s.irq 3
  else s

/-- ACK (R507): the frame it names is done. The records of a completion follow one another (R450). -/
def execAck (f : Frame) (s : State) : Host.Outcome State Fault Refusal :=
  let (s, ok) := s.takeFrame f false
  let tag := BitVec.ofNat 8 (f.arg.toNat / 256)
  let mine (g : Frame) : Bool := g.dst = f.src && g.tag = tag
  match s.ring.sent.find? (fun o => mine o.frame) with
  | none => .next s
  | some o =>
    if !ok then .next s
    else
      let s := { s with ring := { s.ring with
        sent := s.ring.sent.filter (fun x => !mine x.frame)
        outq := s.ring.outq.filter (fun g => !(mine g && g.retry && g.ackreq)) } }
      if s.frCls o.frame = .completion then
        match s.host.flight, s.host.cbuf with
        | some k, g :: _ =>
          if k + 1 < g.recs.length then
            .next ({ s with host := { s.host with flight := some (k + 1), wrote := k + 1 } }.writeRec g (k + 1))
          else .next s.groupDone
        | _, _ => .next s
      else .next (s.ackIrq o.frame)

/-- ACK_TIMEOUT (R508): `RTO` has passed since the frame went out; it is sent again, or its class gives up. -/
def execAckTimeout (dst : Pos) (tag : Byte) (s : State) : Host.Outcome State Fault Refusal :=
  match s.ring.sent.find? (fun o => o.frame.dst.toNat = dst.val ∧ o.frame.tag = tag) with
  | none => .next s
  | some o =>
    let waiting := s.ring.outq.any (fun g => decide (g.dst = o.frame.dst ∧ g.tag = o.frame.tag) && g.ackreq)
    if o.age < s.rd RING_DCFG.RTO ∨ s.idle ∨ waiting then .next s
    else if o.tries < s.rd RING_DCFG.RETRIES then
      let s := { s with ring := { s.ring with
        sent := s.ring.sent.map (fun x => if x = o then { o with age := 0, tries := o.tries + 1 } else x) } }
      .next (s.again o.frame)
    else .next (s.classFails dst.val (s.frCls o.frame))

/-! ### Joining (R527, R528) -/

/-- The word that stands for no position: a JOIN without a recorded one, an ASSIGN that refuses. -/
def noPos : Word := 0xFFFFFFFF

/-- A position still set in `RING_PRESENT` is free for the device that held it (R527, R544): the one that a JOIN gave it
to, or, where the enumeration gave it, whichever asks for it after the window of its safety PDU has come without it. DESIGN
CHOICE (log entry 155): the spec does not say how the head knows that device. -/
def State.vacant (s : State) (p id : Nat) : Bool :=
  decide (1 ≤ p ∧ p < 32) &&
    (match s.ring.uids.lookup p with
     | some u => decide (u = id)
     | none => decide ((bget s.ring.pdus (Fin.ofNat 32 p)).at_ + 32 < s.clk))

/-- JOIN (R527, R528, R544): the head gives the recorded position if it is free, else the lowest free one, or refuses. -/
def execJoin (f : Frame) (s : State) : Host.Outcome State Fault Refusal :=
  if !(s.role = 1 ∨ s.role = 2) then .next (s.passBy f)
  else
    let (s, ok) := s.takeFrame f true
    if !ok ∨ s.rd RING_STAT.STATE < 2 then .next s
    else
      let pres := s.rd RING_PRESENT.PRES
      let free (p : Nat) : Bool := decide (1 ≤ p ∧ p < 32) && !bitN pres p
      let want := wAt f.payload 2
      let uid := [wAt f.payload 0, wAt f.payload 1]
      let id := (wAt f.payload 0).toNat + 2 ^ 32 * (wAt f.payload 1).toNat
      let p? : Option Nat :=
        if !s.rb RING_CTL.LATE_OK then none
        else if want ≠ noPos ∧ (free want.toNat ∨ s.vacant want.toNat id) then some want.toNat
        else (List.range 32).find? free
      match p? with
      | none => .next (s.mgmt 4 f.src.toNat 0 (uid ++ [noPos]))
      | some p =>
        let s := s.wr RING_PRESENT.PRES (setBitN pres p)
        let s := s.wr RING_STAT.NPOS (max (s.rd RING_STAT.NPOS) (p + 1))
        let s := { s with ring := { s.ring with
          uids := (p, id) :: s.ring.uids.filter (fun e => e.1 ≠ p)
          pdus := bupd s.ring.pdus (Fin.ofNat 32 p) (fun x => { x with at_ := s.clk }) } }
        .next ((s.mgmt 4 p 0 (uid ++ [wN p])).ringEvent 2 p)

/-- ASSIGN (R527, R528): the joining device takes its position, or closes its bypasses. -/
def execAssign (f : Frame) (s : State) : Host.Outcome State Fault Refusal :=
  if s.role ≠ 0 then .next s
  else
    let (s, ok) := s.takeFrame f false
    let mine := decide ((wAt f.payload 0).toNat + 2 ^ 32 * (wAt f.payload 1).toNat = s.sec.uid)
    if !ok ∨ !mine then .next s
    else
      let w := wAt f.payload 2
      if w = noPos then
        .next (((s.wr RING_STAT.BYPA 1).wr RING_STAT.BYPB 1).wr RING_ERR.JOIN_REFUSED 1)
      else
        let p := w.toNat % 32
        let kept := s.rb RING_STAT.POS_VALID && decide (s.pos = p)
        .next (((s.wr RING_STAT.POS p).wr RING_STAT.POS_VALID 1).wb RING_STAT.LATE !kept)

/-! ### Enumeration, wraps, waking (R525, R530 to R542) -/

/-- The ring enters ENUM for 16 ticks (R525). -/
def State.enterEnum (s : State) : State :=
  { s with ring := { s.ring with enumT := some (s.clk + 16), cross := false, uids := [] } }.wr RING_STAT.STATE 1 |>.wr
    RING_STAT.NPOS 0

/-- ENUM_START (R525, R544): `HOP` has been stable for 64 ticks, or 100 ms have passed; an enumeration that a wrap
abandoned starts again 64 ticks later. -/
def execEnumStart (s : State) : Host.Outcome State Fault Refusal :=
  let due :=
    if s.rd RING_STAT.STATE = 0 then decide (64 ≤ s.ring.hopRun ∨ s.msT 100 ≤ s.ring.trainT)
    else decide (s.rd RING_STAT.STATE = 3) && s.ring.enumT.any (fun t => decide (t ≤ s.clk))
  .next (if (s.role = 1 ∨ s.role = 2) ∧ s.live ∧ !s.idle ∧ due then s.enterEnum else s)

/-- ENUM_END (R525, R544): `NPOS` and `RING_PRESENT` from the returning `HOP`; WRAPPED where the ring is wrapped: it was,
an own link is broken, or a copy has come back on the other ring; else NORMAL. -/
def execEnumEnd (hop : Byte) (s : State) : Host.Outcome State Fault Refusal :=
  if s.rd RING_STAT.STATE = 1 ∧ s.ring.enumT.any (fun t => t ≤ s.clk) ∧ s.isHead then
    let n := min 32 (1 + hop.toNat)
    let wrap := s.ring.down.toList.any id || !s.ring.onA || s.ring.wrapOn || s.ring.cross
    let s := if wrap then s.wr RING_ERR.WRAPPED 1 else s
    let s := ((s.wr RING_STAT.NPOS n).wr RING_PRESENT.PRES (2 ^ n - 1)).wr RING_STAT.STATE (if wrap then 3 else 2)
    let s := { s with ring := { s.ring with
      enumT := none, wrapOn := wrap, pdus := bmap (fun (x : PduSeen) => { x with at_ := s.clk }) s.ring.pdus } }
    .next (s.ringEvent 1 0)
  else .next s

/-- The head enters WRAPPED (R534, R544): an enumeration in progress is abandoned. `onA` is false when its own `WAO`
link is the broken one. -/
def State.enterWrapped (s : State) (p : Nat) (onA : Bool) : State :=
  let s := { s with ring := { s.ring with
    onA := s.ring.onA && onA, wrapOn := true, restored := [], enumT := if s.rd RING_STAT.STATE = 1 then some (s.clk + 64) else s.ring.enumT } }
  ((s.wr RING_STAT.STATE 3).wr RING_ERR.WRAPPED 1).ringEvent 4 p

/-- The lowest live position beyond the head. -/
def State.firstPos (s : State) : Nat :=
  ((List.range 32).find? (fun p => decide (1 ≤ p) && bitN (s.rd RING_PRESENT.PRES) p)).getD 1

/-- WRAP (R534): a device has wrapped. -/
def execWrap (f : Frame) (s : State) : Host.Outcome State Fault Refusal :=
  if !(s.role = 1 ∨ s.role = 2) then .next (s.passBy f)
  else
    let (s, ok) := s.takeFrame f true
    let p := (wAt f.payload 0).toNat % 32
    let b := (wAt f.payload 0).getLsbD 8
    .next (if ok then s.enterWrapped p (b || decide (p ≠ s.firstPos)) else s)

/-- A span has failed (R537): the flag, the source, the event. -/
def State.spanFail (s : State) (p : Nat) : State := ((s.wr RING_ERR.SPAN_FAIL 1).raiseDev 57).ringEvent 6 p

/-- SPAN (R537). -/
def execSpan (f : Frame) (s : State) : Host.Outcome State Fault Refusal :=
  if !(s.role = 1 ∨ s.role = 2) then .next (s.passBy f)
  else
    let (s, ok) := s.takeFrame f true
    .next (if ok then s.spanFail ((wAt f.payload 0).toNat % 32) else s)

/-- The word of WRAP and SPAN (R500): the position and the input. -/
def State.wrapWord (s : State) (r : RingId) : Word := wN (s.pos + if r = RingId.b then 256 else 0)

/-- What is kept of a ring input. -/
def State.line (s : State) (r : RingId) : LineS := bget s.ring.line (ringIx r)

/-- An input loses symbol lock (R482, R547 to R549): the run of Pennants ends. -/
def State.lockLost (s : State) (r : RingId) (n : Nat) : State :=
  let s := { s with ring := { s.ring with lock := bupd s.ring.lock (ringIx r) (fun l => (0, l.2)) } }
  let s := match r with
    | .a => (s.wr RING_ERR.LOCK_A 1).wr RING_STAT.LINKA 0
    | .b => (s.wr RING_ERR.LOCK_B 1).wr RING_STAT.LINKB 0
  s.wr (RING_CNT0.LOCK r) (satU 16 (s.rd (RING_CNT0.LOCK r) + n))

/-- SPAN tells the head that an input finds no lock, or fails by code violations (R537). -/
def State.spanSend (s : State) (r : RingId) : State := if s.isHead then s.spanFail 0 else s.mgmt 8 0 0 [s.wrapWord r]

/-- The condition of R532 or R537 for which RING_INPUT_DOWN names an input. The loss of lock is the receiver's own word. -/
def State.downHolds (s : State) (r : RingId) (why : DownWhy) : Bool :=
  let x := s.line r
  match why with
  | .lock => true
  | .pennant => decide (2 ≤ x.miss ∧ 2 ≤ (bget s.ring.lock (ringIx (otherRing r))).1)
  | .code => decide (16 ≤ (x.codes.map (·.2)).sum)
  | .span => decide (msTicks s.per 1 ≤ x.dark)

/-- RING_INPUT_DOWN (R482, R532, R533, R537): an input loses symbol lock, or is declared down for one of the reasons of
R532; the device wraps at the next boundary. A signal without lock for 1 ms, and code violations, are told to the head by
SPAN. -/
def execRingInputDown (r : RingId) (why : DownWhy) (s : State) : Host.Outcome State Fault Refusal :=
  if s.idle ∨ s.ring.resetting ∨ !s.onRing ∨ !s.downHolds r why then .next s
  else if why = .span then .next (if s.live then s.spanSend r else s)
  else
    let s := if why = .lock then s.lockLost r 1 else s
    if s.bypass r ∨ bget s.ring.down (ringIx r) then .next s
    else
      let s := { s with ring := { s.ring with
        down := bupd s.ring.down (ringIx r) (fun _ => true), wrapDue := bupd s.ring.wrapDue (ringIx r) (fun _ => true) } }
      .next (if why = .code then s.spanSend r else s)

/-- The wrap of an input that is down is made at a boundary (R533, R534): the device tells the head. -/
def State.wrapNow (s : State) (r : RingId) : State :=
  if !bget s.ring.wrapDue (ringIx r) then s
  else
    let s := { s with ring := { s.ring with wrapDue := bupd s.ring.wrapDue (ringIx r) (fun _ => false) } }
    let s := s.wr (match r with | .a => RING_STAT.WRAPA | .b => RING_STAT.WRAPB) 1
    let s := (s.wr RING_ERR.WRAPPED 1).incSat (RING_CNT3.WRAP r)
    if s.isHead then s.enterWrapped 0 (r = RingId.a) else s.mgmt 5 0 0 [s.wrapWord r]

/-- An end of a break is ready to restore (R536): once both are, the head names a boundary 16 ticks ahead. -/
def State.noteRestore (s : State) (p : Nat) : State :=
  let l := if s.ring.restored.any (fun e => e.1 = p) then s.ring.restored else s.ring.restored ++ [(p, true)]
  let s := { s with ring := { s.ring with restored := l } }
  if 2 ≤ l.length ∧ s.ring.unwrapAt = none then
    let t := s.now + 16
    let s := { s with ring := { s.ring with unwrapAt := some t } }
    l.foldl (fun s e => if e.1 = s.pos then s else s.mgmt 6 e.1 t []) s
  else s

/-- RING_INPUT_STABLE (R536): the lost input has held lock without a violation for 4,096 ticks. -/
def execRingInputStable (r : RingId) (s : State) : Host.Outcome State Fault Refusal :=
  if s.idle ∨ s.ring.resetting ∨ !bget s.ring.down (ringIx r) ∨ (s.line r).clean < 4096 then .next s
  else
    .next (if s.isHead then s.noteRestore 0 else s.mgmt 6 0 0 [])

/-- RESTORE (R536): from a wrap end to the head, or from the head with the boundary. -/
def execRestore (f : Frame) (s : State) : Host.Outcome State Fault Refusal :=
  let (s, ok) := s.takeFrame f false
  if !ok then .next s
  else if s.isHead then .next (s.noteRestore f.src.toNat)
  else .next { s with ring := { s.ring with unwrapAt := some (f.arg.toNat / 256 % 2 ^ 48) } }

/-- RESTORE_BOUNDARY (R536): the ends and the head return to NORMAL. -/
def execRestoreBoundary (s : State) : Host.Outcome State Fault Refusal :=
  if s.ring.unwrapAt.any (fun t => t ≤ s.now) then
    let s := { s with ring := { s.ring with
      unwrapAt := none, restored := [], down := Vector.replicate 2 false, onA := true, wrapOn := false } }
    let s := (s.wr RING_STAT.WRAPA 0).wr RING_STAT.WRAPB 0
    let s := s.condGone 57 0
    .next (if s.isHead then (s.wr RING_STAT.STATE 2).ringEvent 5 0 else s.wr RING_STAT.STATE 2)
  else .next s

/-- MSIX (R465, R511): a member's cause reaches the head. -/
def execMsix (f : Frame) (s : State) : Host.Outcome State Fault Refusal :=
  if !s.isHead then .next (s.passBy f)
  else
    let (s, ok) := s.takeFrame f false
    .next (if ok then s.irq (Fin.ofNat 8 (f.arg.toNat / 256 % 256)) else s)

/-- PERIOD_NAK (R493): a member refuses the announced period. -/
def execPeriodNak (f : Frame) (s : State) : Host.Outcome State Fault Refusal :=
  if !s.isHead then .next (s.passBy f)
  else
    let (s, ok) := s.takeFrame f true
    .next (if ok ∧ s.sys.perNew.any (fun p => decide (0 < p.2)) then s.withdraw.wr RING_ERR.PERIOD_NAK 1 else s)

/-- POSITION_LEAVE (R538): the PDU of a position has been missing for 64 ticks. -/
def execPositionLeave (p : Pos) (s : State) : Host.Outcome State Fault Refusal :=
  let x := bget s.ring.pdus p
  if (s.role = 1 ∨ s.role = 2) ∧ bitN (s.rd RING_PRESENT.PRES) p.val ∧ p.val ≠ 0 ∧ x.at_ + 64 ≤ s.clk ∧ !s.idle then
    .next (((s.clrFBit RING_PRESENT.PRES p.val).wr RING_ERR.LEAVE 1).ringEvent 3 p.val)
  else .next s

/-- WAKE_BURST (R540): 50 ms after the last, the wake pattern of 12 µs replaces the ring cycles of the ticks that it
spans, from the next on. -/
def execWakeBurst (s : State) : Host.Outcome State Fault Refusal :=
  if 0 < s.ring.bursts ∧ !s.idle ∧ s.msT 50 ≤ s.ring.burstT then
    .next ({ s with ring := { s.ring with
      bursts := s.ring.bursts - 1, burstT := 0, quietTo := some (s.clk + (5999 + s.per) / s.per) } }.emit .wake)
  else .next s

/-! ### The ring at a boundary -/

/-- What is kept of an input after a tick in which its receiver saw `i`; `missed`: no valid Pennant came. -/
def LineS.age (x : LineS) (i : LineIn) (clk : Nat) (missed : Bool) : LineS :=
  let old := x.codes.filter (fun e => decide (clk < e.1 + 4096))
  { miss := if missed then x.miss + 1 else 0
    clean := if i.lock && decide (i.lost = 0 ∧ i.code = 0) then x.clean + 1 else 0
    dark := if i.signal && !i.lock then x.dark + 1 else 0
    codes := if i.code = 0 then old else (clk, i.code) :: old }

/-- A tick of a ring input, tick `t`, ends (R482, R532, R547 to R549). -/
def State.lineTick (s : State) (r : RingId) (t : Nat) (i : LineIn) : State :=
  if !s.onRing ∨ s.ring.resetting then s
  else
    let missed := decide ((bget s.ring.lock (ringIx r)).2 ≠ t)
    let s := { s with ring := { s.ring with
      line := bupd s.ring.line (ringIx r) (fun x => x.age i s.clk missed)
      lock := bupd s.ring.lock (ringIx r) (fun l => if missed then (0, l.2) else l) } }
    let s := if missed then s.incSat (RING_CNT2.MISS r) else s
    let s := if 0 < i.lost then s.lockLost r i.lost else s
    let s := s.wb (match r with | .a => RING_STAT.LINKA | .b => RING_STAT.LINKB) i.lock
    let s := s.wr (RING_CNT0.CODE r) (satU 16 (s.rd (RING_CNT0.CODE r) + i.code))
    s.wr (RING_CNT3.SPLICE r) (satU 8 (s.rd (RING_CNT3.SPLICE r) + i.splices))

/-- The watchdogs, ages and counts of the ring advance by a tick that ended, tick `t` (R482, R508, R516, R549, R662). -/
def State.ringAge (s : State) (t : Nat) (ls : Vector LineIn 2) : State :=
  let s := ((s.lineTick .a t (bget ls 0)).lineTick .b t (bget ls 1)).alignTick
  let x := s.ring
  { s with ring := { x with
    wd := bmap (fun w => w.map (· + 1)) x.wd
    sent := x.sent.map (fun o => { o with age := o.age + 1 }), reads := x.reads.map (fun o => { o with age := o.age + 1 })
    regs := x.regs.map (fun o => { o with age := o.age + 1 })
    tArr := none, trainT := x.trainT + 1, burstT := x.burstT + 1 } }

end Sys2Proof.Machine
end

