-- ==== Sys2Proof/Machine/Access.lean ====
section
/-!
DEFINITION. Host accesses to the registers of BAR0 (13_setup_registers.md, R14 to R17, R741 to R765): which writes
are refused, what an accepted write does, what a read does, and the meanings of the rows that are register accesses.
-/

namespace Sys2Proof.Machine

/-! ### Who may access what -/

/-- The code of a path in `SYS_WERR.PATH` (R760). -/
def pathCode : Path → Nat
  | .bar0 => 0
  | .bar1 => 1
  | .regWrite => 2

/-- The block of an offset responds (R747): in BOOT only SYS, RING, FLT, SEC and CMP, in PARK and under reset none. -/
def State.responds (s : State) (off : Nat) : Bool :=
  let b := off / 0x1000
  !s.idle && (decide (s.sys.mode ≠ .boot) || [0, 2, 3, 7, 10].contains b)

/-- The block of an offset is in a BLOCK reset (R748). -/
def State.blockHeld (s : State) (off : Nat) : Bool :=
  match off / 0x1000 with
  | 2 => s.ring.resetting
  | 6 => s.mot.resetting
  | 8 | 9 => (bget s.qd (Fin.ofNat 4 (off % 0x1000 / 0x400))).resetting
  | _ => false

/-- A comparator whose filter the host cannot set (R688): a safety comparator, or one of the back-EMF comparators. -/
def cmpFixed (i : Nat) : Bool := (i < 64 && 2 ≤ i % 4) || i = 68 || i = 69 || (64 ≤ i && i ≤ 66)

/-- The access code of a field in this device (R16): a write to a head-only field on a member has no effect (R751), nor
has one to the tick period of a member (R35), to a fixed comparator (R688), or to the internal reference (R286). -/
def State.accOf (s : State) (f : Fld) : Acc :=
  if !s.isHead && (headOnly f.off || decide (f.key = SYS_TICK.PERIOD.key)) then .ro
  else if 0xA000 ≤ f.off ∧ f.off < 0xA120 ∧ cmpFixed ((f.off - 0xA000) / 4) then .ro
  else if f.off = 0x5014 ∧ !s.sec.gradeM then .ro
  else f.acc

/-- The setup lock of RWL fields is open (R17, R746). -/
def State.unlocked (s : State) : Bool := s.sys.mode = .standby && s.sys.trans.isNone

/-! ### Refused writes (R749, R750) -/

/-- Code LOCKED (R750). -/
def wLOCKED : Nat := 1
/-- Code SERVICE_ONLY. -/
def wSERVICE : Nat := 2
/-- Code RANGE. -/
def wRANGE : Nat := 3
/-- Code BUSY. -/
def wBUSY : Nat := 4
/-- Code ADMISSION. -/
def wADMISSION : Nat := 5
/-- Code PERMISSION. -/
def wPERM : Nat := 6

/-- A write of a field of `val` would change a field that is locked, or place it outside its range; 0 where it would
not. -/
def State.fieldCode (s : State) (val : Word) (f : Fld) : Nat :=
  let v := bitsN val.toNat f.lo f.w
  let out : Nat := if v < f.mn ∨ f.mx < v then wRANGE else 0
  match s.accOf f with
  | .rwl => if v ≠ s.look f ∧ !s.unlocked then wLOCKED else out
  | .rws => if v ≠ s.look f ∧ s.sys.mode ≠ .service then wSERVICE else out
  | .rw => out
  | _ => 0

/-- A structure of the host interface whose base or depth stands at an offset of HOST is enabled (R474, R753). -/
def State.structOn (s : State) (o : Nat) : Bool :=
  if o = 0x40 ∨ o = 0x44 ∨ o = 0x48 then s.rb HOST_CTL.CPQ_EN
  else if o = 0x50 ∨ o = 0x54 ∨ o = 0x58 then s.rb HOST_CTL.EVQ_EN
  else if o = 0x60 ∨ o = 0x64 ∨ o = 0x68 then s.rb HOST_CTL.TLR_EN
  else if 0x70 ≤ o ∧ o ≤ 0x7c then s.rb HOST_CTL.DB_EN && s.isHead
  else if 0x100 ≤ o ∧ o < 0x220 ∧ o % 16 ≠ 0xc then s.qOn (Fin.ofNat 18 ((o - 0x100) / 16))
  else false

/-- A field as a write of `val` at `off` would leave it. -/
def State.after (s : State) (off : Nat) (val : Word) (f : Fld) : Nat :=
  if f.off = off then bitsN val.toNat f.lo f.w else s.rdNew f

/-- The code with which the rules of the home chapters refuse a write of SYS, HOST or FLT (R36, R48, R49, R471, R474,
R676). -/
def State.homeCode1 (s : State) (off : Nat) (val : Word) : Nat :=
  let v := s.after off val
  if off = 0x30 ∧ s.isHead then
    let changes := decide (v SYS_TICK.PERIOD ≠ s.rd SYS_TICK.PERIOD ∨ v SYS_TICK.PPT ≠ s.rd SYS_TICK.PPT ∨
      v SYS_TICK.TLM_DIV ≠ s.rd SYS_TICK.TLM_DIV)
    if v SYS_TICK.PERIOD % 40 ≠ 0 then wRANGE
    else if s.sys.perNew.isSome && changes then wBUSY
    else if v SYS_TICK.PERIOD ≠ s.rd SYS_TICK.PERIOD ∧ !s.admits (v SYS_TICK.PERIOD) then wADMISSION
    else 0
  else if off = 0x1000 then (if s.ctlRefused val then wBUSY else 0)
  else if off / 0x1000 = 1 then (if s.structOn (off % 0x1000) then wBUSY else 0)
  else if off = 0x3024 then
    let n := s.rd FLT_SEL.SRC
    let r := val.toNat % 64
    if r &&& srcFloor n ≠ srcFloor n ∨ r &&& srcAllow n ≠ r then wRANGE else 0
  else 0

/-- The same for SAF, MET and MOT (R286, R316, R553, R565, R581, R583, R608, R629, R635). -/
def State.homeCode2 (s : State) (off : Nat) (val : Word) : Nat :=
  let v := s.after off val
  let bad (b : Bool) : Nat := if b then wRANGE else 0
  if off = 0x4020 then (if !val.getLsbD 0 && s.kReqBlocked then wBUSY else 0)
  else if off = 0x4040 then
    bad (decide (v SAF_BRKB.ON ≤ v SAF_BRKB.OFF ∨ v SAF_BRKB.ON < 13000 ∨ s.pset 9 ≤ v SAF_BRKB.ON))
  else if off = 0x5000 then bad (!odrOk (v MET_CFG.ODR_DIV) s.per)
  else if off = 0x5014 then bad (s.sec.gradeM && decide (v MET_REF.VREF < 2400000 ∨ 4200000 < v MET_REF.VREF))
  else if off = 0x6000 then bad (!ntickOk (v MOT_CFG.NTICK) s.per)
  else if off = 0x6010 ∨ off = 0x6014 ∨ off = 0x6018 then
    bad (decide (30 < v MOT_ADV.ADV0 + v MOT_ADV.ADV_MAX ∨ v MOT_FW.N_MAX ≤ v MOT_FW.N_FW ∨
      v MOT_CATCH.CATCH_MAX ≤ v MOT_CATCH.CATCH_MIN ∨ v MOT_FW.N_FW < v MOT_CATCH.CATCH_MAX))
  else if off = 0x6028 then
    bad (!s.encFits (v MOT_ENC.NBITS) (v MOT_ENC.ERRBIT) (v MOT_ENC.FCLK) (v MOT_ENC.TM) (v MOT_ENC.DIV) s.per)
  else if off = 0x604c then
    bad (decide (v MOT_BRK.ON ≤ v MOT_BRK.OFF ∨ v MOT_BRK.ON < 20000 ∨ s.rd MOT_VMLIM.OV_TH ≤ v MOT_BRK.ON))
  else 0

/-- The same for the channels, quads, comparators and the debug module (R140, R182, R315, R687, R695, R763). -/
def State.homeCode3 (s : State) (off : Nat) (val : Word) : Nat :=
  let v := s.after off val
  let bad (b : Bool) : Nat := if b then wRANGE else 0
  let b := off / 0x1000
  if b = 8 then
    let c : Ch := Fin.ofNat 16 (off % 0x1000 / 0x100)
    let o := off % 0x100
    if o = 0 then
      bad (decide (v (CH_GD.GD_MAX c) < v (CH_GD.GD_MIN c) ∨ v (CH_GD.GD_INIT c) < v (CH_GD.GD_MIN c) ∨
        v (CH_GD.GD_MAX c) < v (CH_GD.GD_INIT c)))
    else if o = 0x20 then
      bad (decide (toS 16 (v (CH_TEMP.T_STOP c)) < toS 16 (v (CH_TEMP.T_WARN c)) + 100))
    else if o = 0x64 then
      (if val.getLsbD 9 && !(s.sys.mode = .standby && !(s.chan c).ledger.isOpen) then wBUSY else 0)
    else 0
  else if b = 9 then
    (if off % 0x400 = 0x100 ∧ val.getLsbD 0 ∧ s.rb FLT_DUMPSTAT.REQ then wBUSY else 0)
  else if 0xA000 ≤ off ∧ off < 0xA120 then
    let win := val.toNat % 32
    let thr := bitsN val.toNat 5 5
    bad (!cmpFixed ((off - 0xA000) / 4) && decide (2 * thr ≤ win ∨ win < thr))
  else if off = 0xB000 then
    let perm := s.rd SEC_DBG.PERM
    let bit (i : Nat) : Bool := val.getLsbD i
    if ((bit 0 || bit 1) && !bitN perm 3) || (bit 2 && !bitN perm 1) ||
        (decide (bitsN val.toNat 4 4 ≠ 0) && !bitN perm 2) then wPERM
    else if (bit 0 && !s.rb DBG_CTL.HALT_SEQ && allCh.any (fun c => decide ((s.seq c).st ≠ .idle ∧ (s.seq c).st ≠ .hold))) ||
        (bit 1 && !s.rb DBG_CTL.HALT_MOT && decide (s.rd MOT_STAT.STATE ≠ 0 ∧ s.rd MOT_STAT.STATE ≠ 5)) then wBUSY
    else 0
  else 0

/-- The code with which a write of a word is refused as a whole, 0 where it is accepted (R749, R750): a locked field
first, then ranges, then the rules of the home chapter. -/
def State.refuseCode (s : State) (off : Nat) (val : Word) : Nat :=
  let codes := (fieldsAt off).map (s.fieldCode val)
  if codes.contains wLOCKED then wLOCKED
  else if codes.contains wSERVICE then wSERVICE
  else if codes.contains wRANGE then wRANGE
  else
    let h := s.homeCode1 off val
    if h ≠ 0 then h
    else
      let h := s.homeCode2 off val
      if h ≠ 0 then h else s.homeCode3 off val

/-- A refused write is recorded (R750, R760). -/
def State.writeErr (s : State) (path : Path) (off code : Nat) : State :=
  (((s.wr SYS_WERR.OFFSET off).wr SYS_WERR.CODE code).wr SYS_WERR.PATH (pathCode path)).incSat SYS_WERR.COUNT

/-! ### Accepted writes -/

/-- A field takes its part of a written word (R16): a field with another home takes it in the effects below. -/
def State.putField (s : State) (val : Word) (f : Fld) : State :=
  let v := bitsN val.toNat f.lo f.w
  if (s.view f.off f.lo).isSome then s
  else
    match s.accOf f with
    | .rw | .rwl | .rws => s.wrLate f v
    | .w1c => s.wr f (s.rd f - (s.rd f &&& v))
    | .ro | .wo => s

/-- The effects of an accepted write of SYS, HOST or RING: `old` is the state before it (R36, R492, R496, R531, R540,
R541, R753, R760; for HOST R424, R449, R473). -/
def State.writeFx1 (s old : State) (off : Nat) (val : Word) : State :=
  let calm := decide (s.sys.mode = .standby ∨ s.sys.mode = .safe)
  if off = 0x30 then
    if s.isHead ∧ s.rd SYS_TICK.PERIOD ≠ old.rd SYS_TICK.PERIOD then
      { s with sys := { s.sys with perNew := some (s.rd SYS_TICK.PERIOD, 65) } }
    else s
  else if off = 0x48 then
    if val.getLsbD 23 then
      (((s.wr SYS_WERR.OFFSET 0).wr SYS_WERR.CODE 0).wr SYS_WERR.PATH 0).wr SYS_WERR.COUNT 0
    else s
  else if off = 0x1000 then s.ctlChanged (old.regWord 0x1000)
  else if off = 0x100c then (if val.getLsbD 24 then s.wr HOST_EVQLOST.LOST 0 else s)
  else if off = 0x2000 then
    if val.getLsbD 0 ∧ (s.role = 1 ∨ s.role = 2) ∧ calm ∧ s.live then s.enterEnum else s
  else if off = 0x201c then
    if val.getLsbD 8 ∧ (s.role = 1 ∨ s.role = 2) ∧ calm then
      { s with ring := { s.ring with bursts := s.rd RING_WAKE.COUNT, burstT := s.msT 50 } }
    else s
  else if off = 0x2044 then
    if s.isHead then
      { s with ring := { s.ring with
        tgt := bupd s.ring.tgt (Fin.ofNat 64 (s.rd RING_BARSEL.TAG)) (fun _ => val.toNat % 65536) } }
    else s
  else if off = 0x204c then s.barSet false val.toNat
  else if off = 0x2050 then s.barSet true val.toNat
  else s

/-- The effect of a write of `FLT_REACT` (R676, R753): E acts at once, also for an active source. -/
def State.setReact (s : State) (r : Nat) : State :=
  let s := s.updSrc (Fin.ofNat 128 (s.rd FLT_SEL.SRC)) (fun x => { x with react := r })
  if 0 < s.nErr then s.errPull else s

/-- The records of `FLT_RECm` whose bits are written with 1 clear. -/
def State.clearRec (s : State) (m : Nat) (val : Word) : State :=
  (List.finRange 32).foldl (fun s i =>
    if val.getLsbD i.val then s.updSrc (Fin.ofNat 128 (32 * m + i.val)) (fun x => { x with recd := false }) else s) s

/-- The latched bits of `CMP_LATm` written with 1 clear where `LATCH` is 1 (R689, R708), unless the filter still sets them
(R752). -/
def State.clearLat (s : State) (m : Nat) (val : Word) : State :=
  (List.finRange 32).foldl (fun s i =>
    if val.getLsbD i.val ∧ 32 * m + i.val < 72 ∧ s.rb (CMP_CFG.LATCH (Fin.ofNat 72 (32 * m + i.val))) then
      s.updCmp (Fin.ofNat 72 (32 * m + i.val)) (fun x => { x with lat := x.lat && x.filt && !x.init })
    else s) s

/-- The effects of a change of `DBG_CTL` (R655, R657, R762 to R764): `old` is the state before the write. -/
def State.fxDebug (s old : State) : State :=
  let le := s.rd DBG_CTL.LE_STEP
  let saf := s.rb DBG_CTL.HALT_SAF
  let s := s.wr DBG_STAT.HALTED (b2n (s.rb DBG_CTL.HALT_SEQ) + 2 * b2n (s.rb DBG_CTL.HALT_MOT) + 4 * b2n saf)
  let s := s.wr DBG_STAT.STEPPING le
  let s :=
    if saf || decide (le ≠ 0) then ((s.wr SAF_STAT.DBG_UNCHECKED 1).wr DBG_STAT.UNCHECKED 1).raiseDev 81 else s
  let s := allQuads.foldl (fun s q =>
    if bitN le q.val && !bitN (old.rd DBG_CTL.LE_STEP) q.val then s.forCh (quadChs q) State.gatesOff else s) s
  if saf && !old.rb DBG_CTL.HALT_SAF then (s.forCh allCh State.protOpen).motGatesOff else s

/-- `SEC_BOOTCMD.GO` (R714): the fetch begins; `m` is what it brings, where the row carries it. -/
def State.fxBootGo (s : State) (m : Option (Option Manifest)) : State :=
  match m with
  | some x => s.bootGo x
  | none => if s.sys.mode = .boot ∧ s.rd SEC_BOOTSTAT.STATE = 5 then s.wr SEC_BOOTSTAT.STATE 2 else s

/-- The effects of an accepted write of FLT, SAF, MOT, SEC, CMP or DBG; `m` is what the ROM fetches when
`SEC_BOOTCMD.GO` is written, where the row carries it. -/
def State.writeFx2 (s old : State) (off : Nat) (val : Word) (m : Option (Option Manifest)) : State :=
  if 0x3010 ≤ off ∧ off < 0x3020 then s.clearRec ((off - 0x3010) / 4) val
  else if off = 0x3024 then s.setReact (val.toNat % 64)
  else if off = 0x304c then s.fxInject (val.getLsbD 8)
  else if off = 0x306c then s.fxDumpCtl (val.getLsbD 8)
  else if off = 0x4020 then s.fxKctl
  else if off = 0x6008 then s.cmpRestart 67
  else if off = 0x7014 then (if val.getLsbD 0 then s.fxBootGo m else s)
  else if off = 0x7020 then (if val.getLsbD 0 then s.newChallenge else s)
  else if 0xA000 ≤ off ∧ off < 0xA120 then
    if cmpFixed ((off - 0xA000) / 4) then s else s.cmpRestart (Fin.ofNat 72 ((off - 0xA000) / 4))
  else if 0xA220 ≤ off ∧ off < 0xA22c then s.clearLat ((off - 0xA220) / 4) val
  else if off = 0xB000 then s.fxDebug old
  else if off = 0xB004 then (if val.getLsbD 8 then s.leStepGo (Fin.ofNat 16 val.toNat) else s)
  else s

/-- The effect of a write of `CH_LCTL` (R311, R315). -/
def State.fxLedger (s : State) (c : Ch) (snap clear : Bool) : State :=
  let s := if snap then s.updMet c (fun m => { m with snap := (s.chan c).ledger.words }) else s
  if clear then
    s.ledger c (fun l => { l with qTot := 0, eTot := 0, tTot := 0, qIdle := 0, eIdle := 0, qExcl := 0, eExcl := 0 })
  else s

/-- The effects of an accepted write of CH or QD (R149, R204, R220, R260, R301, R691). -/
def State.writeFx3 (s old : State) (off : Nat) (val : Word) : State :=
  if off / 0x1000 = 8 then
    let c : Ch := Fin.ofNat 16 (off % 0x1000 / 0x100)
    let o := off % 0x100
    if o = 0x0c then s.cmpRestart (chCmp c 0)
    else if o = 0x10 then s.cmpRestart (chCmp c 1)
    else if o = 0x18 then s.cmpRestart (chCmp c 3)
    else if o = 0x1c then s.fxMeasClose c
    else if o = 0x24 then (if val.getLsbD 8 then s.fxKelTest c else s)
    else if o = 0x44 then
      if s.rd (CH_MRNG.REQ c) ≠ old.rd (CH_MRNG.REQ c) then
        s.updMet c (fun m => { m with ask := some (Fin.ofNat 4 val.toNat) })
      else s
    else if o = 0x64 then s.fxLedger c (val.getLsbD 8) (val.getLsbD 9)
    else s
  else if off / 0x1000 = 9 then
    let q : Quad := Fin.ofNat 4 (off % 0x1000 / 0x400)
    let o := off % 0x400
    if o = 4 then s.fxPcmd q (bitsN val.toNat 4 2) (val.toNat % 8)
    else if o = 0x100 then s.fxTrctl q (old.rb (QD_TRCTL.EN q)) (val.getLsbD 3)
    else s
  else s

/-- A host write of one register (R747, R749 to R751): the state and the refusal code, 0 for none. An offset that names
no register, or whose block does not respond, ignores it (R741, R747). -/
def State.regPut (s : State) (path : Path) (off : Nat) (val : Word) (m : Option (Option Manifest)) : State × Nat :=
  if !s.responds off then (s, 0)
  else
    let code := s.refuseCode off val
    if code ≠ 0 then (s.writeErr path off code, code)
    else
      let t := (fieldsAt off).foldl (fun t f => t.putField val f) s
      (((t.writeFx1 s off val).writeFx2 s off val m).writeFx3 s off val, 0)

/-- A host write of consecutive registers in ascending order (R742); what meets a block in its BLOCK reset is held
(R748). -/
def State.putWords (s : State) (path : Path) (off : Nat) (ws : List Word) (m : Option (Option Manifest)) : State :=
  match ws with
  | [] => s
  | w :: t =>
    if s.blockHeld off && !s.idle then
      { s with host := { s.host with heldAcc := s.host.heldAcc ++ [.write path off (w :: t)] } }
    else (s.regPut path off w m).1.putWords path (off + 4) t m

/-- One register written by a row. -/
def State.put1 (s : State) (path : Path) (off : Nat) (val : Word) : State := s.putWords path off [val] none

/-- The bits [lo+w-1:lo] of a word replaced. -/
def withBits (v : Word) (lo w x : Nat) : Word := wN (v.toNat - bitsN v.toNat lo w * 2 ^ lo + x * 2 ^ lo)

/-! ### Reads -/

/-- A read of a low register latches its high register (R744). -/
def State.latchHigh (s : State) (off : Nat) : State :=
  let keep (s : State) (h : Nat) : State :=
    { s with host := { s.host with latches := (h, s.regWord h) :: s.host.latches.filter (fun e => e.1 ≠ h) } }
  if off = 0x38 then s.wr SYS_TICKH.TICK_HI (s.now / 2 ^ 32)
  else if off = 0x6090 then s.wr MOT_POSH.POS_HI (ofS 48 s.mot.ext / 2 ^ 32)
  else if off = 0x6098 then keep s 0x609c
  else if off = 0x2054 then keep s 0x2058
  else if off / 0x1000 = 9 ∧ off % 0x400 = 0x10c then keep s (off + 4)
  else s

/-- What a read does besides returning a word (R262, R313, R739, R744). -/
def State.readFx (s : State) (off : Nat) : State :=
  let s := s.latchHigh off
  if off / 0x1000 = 8 ∧ off % 0x100 = 0x68 then s.incWrap (CH_LCTL.IDX (Fin.ofNat 16 (off % 0x1000 / 0x100)))
  else if off / 0x1000 = 9 ∧ off % 0x400 = 0x144 then s.rdTrdata (Fin.ofNat 4 (off % 0x1000 / 0x400))
  else if off = 0x7064 then s.rdDdata
  else s

/-- A host read of one register (R741, R743, R744, R747). -/
def State.regGet (s : State) (off : Nat) : Word × State :=
  if !s.responds off then (0, s)
  else
    match s.host.latches.lookup off with
    | some w => (w, { s with host := { s.host with latches := s.host.latches.filter (fun e => e.1 ≠ off) } })
    | none => (s.regWord off, s.readFx off)

/-- A host read of `n` consecutive registers (R742). -/
def State.getWords (s : State) (off : Nat) : Nat → List Word × State
  | 0 => ([], s)
  | n + 1 =>
    let (ws, t) := s.getWords off n
    let (w, t) := t.regGet (off + 4 * n)
    (ws ++ [w], t)

/-- A read over BAR0 answers (R742); one that meets a block in its BLOCK reset is held (R748), and in PARK nothing
answers (R747). -/
def State.answerRead (s : State) (off n : Nat) : State :=
  if s.idle then s
  else if (List.range n).any (fun i => s.blockHeld (off + 4 * i)) then
    { s with host := { s.host with heldAcc := s.host.heldAcc ++ [.read off n] } }
  else
    let (ws, s) := s.getWords off n
    s.emit (.answer ws)

/-! ### Rows that are register accesses -/

/-- The sizes and alignments that BAR0 accepts (R742). -/
def accessOk (off bytes : Nat) (write : Bool) : Bool :=
  if write then decide (off % 4 = 0 ∧ bytes % 4 = 0 ∧ 4 ≤ bytes ∧ bytes ≤ 64)
  else decide ((bytes = 4 ∧ off % 4 = 0) ∨ (bytes = 8 ∧ off % 8 = 0))

/-- An access that BAR0 does not accept (R742): the head logs an Unsupported Request and completes a read with it. -/
def State.unsupported (s : State) : State :=
  if s.idle then s else { s with host := { s.host with aerUr := true } }.emit .unsupported

/-- REGISTER_WRITE (R742, R749): a write of 1 to 16 consecutive registers. -/
def execRegisterWrite (path : Path) (off : Half) (words : List Word) (s : State) : Host.Outcome State Fault Refusal :=
  .next (if accessOk off.toNat (4 * words.length) true then s.putWords path off.toNat words none else s.unsupported)

/-- An access that its window takes (R742, R513): BAR1 takes reads of one word alone. -/
def pathOk (path : Path) (off bytes : Nat) (write : Bool) : Bool :=
  accessOk off bytes write && (path ≠ .bar1 || write || decide (bytes = 4))

/-- UNSUPPORTED_ACCESS (R513, R742): an access of another size or alignment. -/
def execUnsupportedAccess (path : Path) (off : Half) (bytes : Nat) (write : Bool) (s : State) :
    Host.Outcome State Fault Refusal :=
  .next (if pathOk path off.toNat bytes write then s else s.unsupported)

/-- LATCHING_LOW_READ (R743, R744): a read of a register. -/
def execLatchingLowRead (_path : Path) (off : Half) (s : State) : Host.Outcome State Fault Refusal :=
  .next (s.answerRead (off.toNat - off.toNat % 4) 1)

/-- SYS_TICK_WRITE (R34 to R36, R48, R49, R53, R753, R759). -/
def execSysTickWrite (path : Path) (val : Word) (s : State) : Host.Outcome State Fault Refusal :=
  .next (s.put1 path 0x30 val)

/-- WERR_CLEAR (R760). -/
def execWerrClear (path : Path) (val : Word) (s : State) : Host.Outcome State Fault Refusal :=
  .next (s.put1 path 0x48 (withBits val 23 1 1))

/-- MEAS_CLOSE (R149): a write of `CH_ISO`. -/
def execMeasClose (path : Path) (c : Ch) (val : Word) (s : State) : Host.Outcome State Fault Refusal :=
  .next (s.put1 path (0x801c + 0x100 * c.val) val)

/-- KEL_TEST (R177, R204): a write of `CH_SENSE` with `KEL_TEST` = 1. -/
def execKelTest (path : Path) (c : Ch) (val : Word) (s : State) : Host.Outcome State Fault Refusal :=
  .next (s.put1 path (0x8024 + 0x100 * c.val) (withBits val 8 1 1))

/-- PROFILE_LOAD (R220): a write of `QD_PCMD` with `CMD` = 1. -/
def execProfileLoad (path : Path) (q : Quad) (val : Word) (s : State) : Host.Outcome State Fault Refusal :=
  .next (s.put1 path (0x9004 + 0x400 * q.val) (withBits val 4 2 1))

/-- PROFILE_INVALIDATE (R220): `CMD` = 2. -/
def execProfileInvalidate (path : Path) (q : Quad) (val : Word) (s : State) : Host.Outcome State Fault Refusal :=
  .next (s.put1 path (0x9004 + 0x400 * q.val) (withBits val 4 2 2))

/-- PROFILE_READBACK (R220): `CMD` = 3. -/
def execProfileReadback (path : Path) (q : Quad) (val : Word) (s : State) : Host.Outcome State Fault Refusal :=
  .next (s.put1 path (0x9004 + 0x400 * q.val) (withBits val 4 2 3))

/-- SWTRIG (R260): a write of `QD_TRCTL` with `SWTRIG` = 1. -/
def execSwtrig (path : Path) (q : Quad) (val : Word) (s : State) : Host.Outcome State Fault Refusal :=
  .next (s.put1 path (0x9100 + 0x400 * q.val) (withBits val 3 1 1))

/-- RANGE_REQUEST (R277, R301): a write of `CH_MRNG`, which the device sees at the next tick boundary (R275). -/
def execRangeRequest (path : Path) (c : Ch) (val : Word) (s : State) : Host.Outcome State Fault Refusal :=
  .next (s.put1 path (0x8044 + 0x100 * c.val) val)

/-- LEDGER_SNAP (R311): a write of `CH_LCTL` with `SNAP` = 1. -/
def execLedgerSnap (path : Path) (c : Ch) (val : Word) (s : State) : Host.Outcome State Fault Refusal :=
  .next (s.put1 path (0x8064 + 0x100 * c.val) (withBits val 8 1 1))

/-- LEDGER_CLEAR (R315): a write of `CH_LCTL` with `CLEAR` = 1. -/
def execLedgerClear (path : Path) (c : Ch) (val : Word) (s : State) : Host.Outcome State Fault Refusal :=
  .next (s.put1 path (0x8064 + 0x100 * c.val) (withBits val 9 1 1))

/-- LEDGER_DATA_READ (R313): a read of `CH_LDATA`, which advances `IDX`. -/
def execLedgerDataRead (c : Ch) (s : State) : Host.Outcome State Fault Refusal :=
  .next (s.answerRead (0x8068 + 0x100 * c.val) 1)

/-- QUEUE_ENABLE (R424, R449, R461, R471): a write of `HOST_CTL`. -/
def execQueueEnable (path : Path) (val : Word) (s : State) : Host.Outcome State Fault Refusal :=
  .next (s.put1 path 0x1000 val)

/-- HOST_ERR_CLEAR (R473, R798): a write of `HOST_ERR`. -/
def execHostErrClear (path : Path) (val : Word) (s : State) : Host.Outcome State Fault Refusal :=
  .next (s.put1 path 0x100c val)

/-- RING_BARSET (R496): a write of `RING_BARSETL` or `RING_BARSETH`. -/
def execRingBarset (path : Path) (high : Bool) (val : Word) (s : State) : Host.Outcome State Fault Refusal :=
  .next (s.put1 path (if high then 0x2050 else 0x204c) val)

/-- RING_ENUM_WRITE (R531): a write of `RING_CTL` with `ENUM` = 1. -/
def execRingEnumWrite (path : Path) (val : Word) (s : State) : Host.Outcome State Fault Refusal :=
  .next (s.put1 path 0x2000 (withBits val 0 1 1))

/-- RING_WAKE_GO (R540, R541): a write of `RING_WAKE` with `GO` = 1. -/
def execRingWakeGo (path : Path) (val : Word) (s : State) : Host.Outcome State Fault Refusal :=
  .next (s.put1 path 0x201c (withBits val 8 1 1))

/-- SAF_KCTL_REQ (R629): a write of `SAF_KCTL`. -/
def execSafKctlReq (path : Path) (val : Word) (s : State) : Host.Outcome State Fault Refusal :=
  .next (s.put1 path 0x4020 val)

/-- CMP_CFG_WRITE (R687, R688, R691). -/
def execCmpCfgWrite (path : Path) (i : CmpId) (val : Word) (s : State) : Host.Outcome State Fault Refusal :=
  .next (s.put1 path (0xA000 + 4 * i.val) val)

/-- DUMP_ACK (R699): a write of `FLT_DUMPCTL` with `ACK` = 1. -/
def execDumpAck (path : Path) (val : Word) (s : State) : Host.Outcome State Fault Refusal :=
  .next (s.put1 path 0x306c (withBits val 8 1 1))

/-- FAULT_INJECT (R706): a write of `FLT_INJ` with `GO` = 1. -/
def execFaultInject (path : Path) (val : Word) (s : State) : Host.Outcome State Fault Refusal :=
  .next (s.put1 path 0x304c (withBits val 8 1 1))

/-- BOOT_GO (R714, R715): a write of `SEC_BOOTCMD` with `GO` = 1; `fetched` is what the fetch brings. A fetch that
another row's write of `GO` began ends here as well. -/
def execBootGo (path : Path) (val : Word) (fetched : Option Manifest) (s : State) : Host.Outcome State Fault Refusal :=
  .next (s.putWords path 0x7014 [withBits val 0 1 1] (some fetched))

/-- CHALLENGE_NEW (R733): a write of `SEC_CHALCTL` with `NEW` = 1. -/
def execChallengeNew (path : Path) (val : Word) (s : State) : Host.Outcome State Fault Refusal :=
  .next (s.put1 path 0x7020 (withBits val 0 1 1))

/-- DBG_HALT (R655 to R657, R762 to R764): a write of `DBG_CTL`. -/
def execDbgHalt (path : Path) (val : Word) (s : State) : Host.Outcome State Fault Refusal :=
  .next (s.put1 path 0xB000 val)

/-- LE_STEP_GO (R764): a write of `DBG_LESTEP` with `GO` = 1. -/
def execLeStepGo (path : Path) (val : Word) (s : State) : Host.Outcome State Fault Refusal :=
  .next (s.put1 path 0xB004 (withBits val 8 1 1))

/-- DEBUG_TRANSPORT_ACCESS (R728, R736): IDCODE in every state, boundary scan in TEST alone, the debug transport while
`PERM`[0] is 1; anything else acts as BYPASS. Halts and steps over it obey the rules of `DBG_CTL`. -/
def execDebugTransportAccess (a : TapAccess) (s : State) : Host.Outcome State Fault Refusal :=
  match a with
  | .idcode => .next (s.emit (.tap (s.regWord 0)))
  | .bypass | .other _ => .next s
  | .boundaryScan => .next s
  | .dbgCtl v =>
    if !s.idle ∧ bitN (s.rd SEC_DBG.PERM) 0 then
      let code := s.refuseCode 0xB000 v
      .next (if code ≠ 0 then s
        else ((fieldsAt 0xB000).foldl (fun t f => t.putField v f) s).fxDebug s)
    else .next s

end Sys2Proof.Machine
end

