-- ==== Sys2Proof/Machine/Bar1.lean ====
section
/-!
DEFINITION. The BAR1 window and the register accesses that the ring carries (R512 to R518): the head's REG frames and
their answers, and a member's execution of them.
-/

namespace Sys2Proof.Machine

/-! ### The head -/

/-- A frame of type REG writes (R500). -/
def regWrites (f : Frame) : Bool := f.arg.getLsbD 16

/-- The words that a REG frame reads. -/
def regCount (f : Frame) : Nat := f.arg.toNat / 2 ^ 17 % 16 + 1

/-- The REG outstanding toward a position: the first of those that wait for it (R515). -/
def State.regOut (s : State) (p : Nat) : Option RegPend := s.ring.regs.find? (fun r => decide (r.pos.val = p))

/-- The outstanding REG of a position ends; the next that waits for the position goes out (R515). -/
def State.regNext (s : State) (r : RegPend) : State :=
  let s := { s with ring := { s.ring with regs := s.ring.regs.erase r } }
  match s.regOut r.pos.val with
  | none => s
  | some n =>
    ({ s with ring := { s.ring with regs := s.ring.regs.map (fun x => if x = n then { n with age := 0 } else x) } }).queueFrame
      n.frame

/-- A held access is a write through BAR1 (R517, R748). -/
def heldWrite (h : HeldAcc) : Bool :=
  match h with
  | .write p _ _ => p = .bar1
  | _ => false

/-- A held access is a REG frame. -/
def heldReg (h : HeldAcc) : Bool :=
  match h with
  | .reg _ => true
  | _ => false

/-- BAR1_ACCESS (R512 to R517): a host access to position `p`; `count` is the number of words read. -/
def execBar1Access (p : Pos) (off : Half) (write : Bool) (words : List Word) (count : Fin 17) (s : State) :
    Host.Outcome State Fault Refusal :=
  let n := if write then words.length else count.val
  if !s.isHead ∨ s.idle then .next s
  else if !pathOk .bar1 off.toNat (4 * n) write then .next s.unsupported
  else if p = 0 then
    -- a read waits for the writes to this position that a BLOCK reset holds (R517)
    .next (if write then s.putWords .bar1 off.toNat words none
      else if s.host.heldAcc.any heldWrite then
        { s with host := { s.host with heldAcc := s.host.heldAcc ++ [.read off.toNat n] } }
      else s.answerRead off.toNat n)
  else if !bitN (s.rd RING_PRESENT.PRES) p.val then
    let s := s.wr RING_ERR.UNMAPPED 1
    .next (if write then s else s.emit (.answer [0xFFFFFFFF]))
  else
    let tag := s.tagFor p.val
    let f := s.mkFrame 1 p.val false tag (off.toNat + 2 ^ 16 * b2n write + 2 ^ 17 * (n - 1)) (if write then words else [])
    let first := (s.regOut p.val).isNone
    let s := { s with ring := { s.ring with
      tags := bupd s.ring.tags p (fun t => t + 1), regs := s.ring.regs ++ [(⟨p, f, 0, false⟩ : RegPend)] } }
    .next (if first then s.queueFrame f else s)

/-- REGR (R515, R516): a member's answer completes the REG outstanding toward it. -/
def execRegr (f : Frame) (s : State) : Host.Outcome State Fault Refusal :=
  if !s.isHead then .next s
  else
    let (s, ok) := s.takeFrame f false
    match s.regOut f.src.toNat with
    | none => .next s
    | some r =>
      if !ok ∨ r.frame.tag ≠ f.tag then .next s
      else
        let s := s.regNext r
        .next (if regWrites r.frame then (if f.arg.getLsbD 0 then s else s.heardCtl r.frame) else s.emit (.answer f.payload))

/-- REG_TIMEOUT (R516): no REGR within 2 ticks; the REG is sent again, or the access completes without it. -/
def execRegTimeout (p : Pos) (s : State) : Host.Outcome State Fault Refusal :=
  match s.regOut p.val with
  | none => .next s
  | some r =>
    let waiting := s.ring.outq.any (fun g => decide (g.type = 1 ∧ g.dst = r.frame.dst ∧ g.tag = r.frame.tag))
    if s.idle ∨ r.age < 2 ∨ waiting then .next s
    else if r.again then
      let s := s.regNext r
      let s := s.wr RING_ERR.REG_TMO 1
      .next (if regWrites r.frame then s else s.emit (.answer (List.replicate (regCount r.frame) 0xFFFFFFFF)))
    else
      let s := { s with ring := { s.ring with
        regs := s.ring.regs.map (fun x => if x = r then { r with age := 0, again := true } else x) } }
      .next (s.again r.frame)

/-! ### A member -/

/-- Writes of a REG frame in ascending order; whether one was refused (R751). -/
def State.regPuts (s : State) (off : Nat) : List Word → State × Bool
  | [] => (s, false)
  | w :: t =>
    let (s, code) := s.regPut .bar1 off w none
    let (s, bad) := s.regPuts (off + 4) t
    (s, bad || decide (code ≠ 0))

/-- A member executes a REG frame and answers it (R500, R515, R751), or holds it for a BLOCK reset (R748) and those that
come after it. -/
def State.serveReg (s : State) (f : Frame) : State :=
  let off := f.arg.toNat % 65536 / 4 * 4
  let n := if regWrites f then f.payload.length else regCount f
  if s.host.heldAcc.any heldReg || (List.range n).any (fun i => s.blockHeld (off + 4 * i)) then
    { s with host := { s.host with heldAcc := s.host.heldAcc ++ [.reg f] } }
  else
    let (s, bad, ws) : State × Bool × List Word :=
      if regWrites f then
        let (s, bad) := s.regPuts off f.payload
        (s, bad, [])
      else
        let (ws, s) := s.getWords off n
        (s, false, ws)
    let r := s.mkFrame 2 f.src.toNat false f.tag.toNat (b2n bad) ws
    let keep := s.ring.regrs.filter (fun e => s.ring.taken.any (fun t => decide (t.1 = e.1.src.toNat ∧ t.2.1 = e.1.tag.toNat)) &&
      decide (e.1.tag ≠ f.tag))
    { s with ring := { s.ring with regrs := (f, r) :: keep } }.queueFrame r

/-- REG (R509, R515, R751): a member takes a register access; one that it has already taken gets the same answer
again. -/
def execReg (f : Frame) (s : State) : Host.Outcome State Fault Refusal :=
  if s.isHead then .next s
  else
    let (t, ok) := s.takeFrame f false
    if ok then .next (t.serveReg f)
    else if f.crcOk ∧ f.retry ∧ !s.idle ∧ !s.ring.resetting then
      match s.ring.regrs.find? (fun e => decide (e.1.src = f.src ∧ e.1.tag = f.tag)) with
      | some e => .next (t.queueFrame { e.2 with retry := true })
      | none => .next t
    else .next t

end Sys2Proof.Machine
end

