-- ==== Sys2Proof/Machine/Admin.lean ====
section
/-!
DEFINITION. The admin commands (R443 to R447), the mode changes that they ask for (R77 to R99), images, attestation
(R724, R725, R732), REVOKE (R432 to R434), BLOCK resets and PARK (R96 to R106). A mode command takes its effect at the
next tick boundary, which `TICK_BOUNDARY` makes.
-/

namespace Sys2Proof.Machine

/-! ### Beginning a command -/

/-- `ARG0` of an admin descriptor (R443). -/
def admArg (ws : List Word) : Word := wAt ws 1
/-- `ADDR`. -/
def admAddr (ws : List Word) : Long := wAt ws 3 ++ wAt ws 2
/-- `LEN`. -/
def admLen (ws : List Word) : Word := wAt ws 4
/-- `DATA`, octet 0 the least significant. -/
def admData (ws : List Word) : BitVec 256 :=
  wAt ws 12 ++ wAt ws 11 ++ wAt ws 10 ++ wAt ws 9 ++ wAt ws 8 ++ wAt ws 7 ++ wAt ws 6 ++ wAt ws 5

/-- An admin command may begin, and the descriptor at the head of AQ is this command, with these arguments (R443,
R446). -/
def State.admTakes (s : State) (op : Nat) (a : AdmHdr) (args : List Word → Bool) : Bool :=
  s.admMay && s.qOn aq && (s.subq aq).pre.head?.any (fun p =>
    decide (parseAdm p.words (s.posOf aq (s.subq aq).done) = (op, a)) && args p.words && (admBad p.words).isNone)

/-- The descriptor at the head of AQ leaves the prefetch. -/
def State.admDrop (s : State) : State := s.updQ aq (fun x => { x with pre := x.pre.drop 1 })

/-- The command at the head of AQ begins, where it may (R446). -/
def State.admBegin (s : State) (op : Nat) (a : AdmHdr) (args : List Word → Bool) (f : State → State) : State :=
  if s.admTakes op a args then f s.admDrop else s

/-! The arguments of each command, as its descriptor carries them (R444). -/

/-- A command without arguments. -/
def noArgs : List Word → Bool := fun _ => true

/-- An offset in `ARG0`: REG_READ. -/
def offArgs (off : Word) (ws : List Word) : Bool := decide (admArg ws = off)

/-- An offset in `ARG0` and a value in `DATA`: REG_WRITE. -/
def writeArgs (off val : Word) (ws : List Word) : Bool := decide (admArg ws = off ∧ wAt ws 5 = val)

/-- A length in `LEN`: LOAD_IMAGE and ENTER_SERVICE. -/
def lenArgs (len : Word) (ws : List Word) : Bool := decide (admLen ws = len)

/-- A queue in `ARG0` and `FIRST` in `DATA`: REVOKE. -/
def revokeArgs (q : BitVec 5) (first : Half) (ws : List Word) : Bool :=
  decide ((admArg ws).extractLsb' 0 5 = q ∧ (wAt ws 5).extractLsb' 0 16 = first)

/-- A mask of channels in `ARG0`: RESUME. -/
def maskArgs (mask : BitVec 16) (ws : List Word) : Bool := decide ((admArg ws).extractLsb' 0 16 = mask)

/-- A channel in `ARG0`: CLEAR_FAULT. -/
def chArgs (c : Ch) (ws : List Word) : Bool := decide ((admArg ws).toNat % 16 = c.val)

/-- A quad and a slot in `ARG0`: LOAD_PROFILE. -/
def loadArgs (q : Quad) (slot : Fin 8) (ws : List Word) : Bool :=
  decide ((admArg ws).toNat % 4 = q.val ∧ (admArg ws).toNat / 16 % 8 = slot.val)

/-- A kind of reset in `ARG0`: RESET. -/
def resetArgs (kind : Nat) (ws : List Word) : Bool := decide ((admArg ws).toNat % 16 = kind)

/-- A BLOCK reset of the block that `ARG0` selects. -/
def blockArgs (blk : BitVec 4) (ws : List Word) : Bool := resetArgs 3 ws && decide ((admArg ws).extractLsb' 4 4 = blk)

/-- An address, a length and a nonce: ATTEST. -/
def attestArgs (addr : Long) (len : Word) (nonce : BitVec 256) (ws : List Word) : Bool :=
  decide (admAddr ws = addr ∧ admLen ws = len ∧ admData ws = nonce)

/-- An admin command runs on; it completes later (R446). -/
def State.admWait (s : State) (op : Nat) (a : AdmHdr) (arg : Nat) : State :=
  { s with host := { s.host with adm := some ⟨op, a, arg⟩ } }

/-- A mode change is under way: it takes effect at the next tick boundary (R746). -/
def State.goTo (s : State) (m : Mode) : State := { s with sys := { s.sys with trans := some m } }

/-- NOP (R444). -/
def execNop (a : AdmHdr) (s : State) : Host.Outcome State Fault Refusal :=
  .next (s.admBegin 1 a noArgs (fun s => s.admDone 1 a 0 0))

/-! ### Register accesses (R16, R17, R444, R446) -/

/-- REG_READ (`op` 2) or REG_WRITE is carried out; a refused write completes with WRITE_REFUSED. -/
def State.admReg (s : State) (op : Nat) (a : AdmHdr) (off : Nat) (val : Word) : State :=
  if op = 2 then
    let (w, s) := s.regGet off
    s.admDone 2 a 0 w.toNat
  else
    let (s, code) := s.regPut .regWrite off val none
    s.admDone 3 a (if code ≠ 0 then 3 else 0) 0

/-- REG_READ or REG_WRITE: an offset outside BAR0 or not aligned is BAD_ARG; one in a block in its BLOCK reset is held
(R748). -/
def State.admRegStart (s : State) (op : Nat) (a : AdmHdr) (off : Word) (val : Word) : State :=
  if off.toNat % 4 ≠ 0 ∨ 65536 ≤ off.toNat then s.admDone op a 2 0
  else if s.blockHeld off.toNat then
    let s := s.admWait op a 0
    { s with host := { s.host with heldAcc := s.host.heldAcc ++ [.admin op a off.toNat val] } }
  else s.admReg op a off.toNat val

/-- REG_READ. -/
def execRegRead (a : AdmHdr) (off : Word) (s : State) : Host.Outcome State Fault Refusal :=
  .next (s.admBegin 2 a (offArgs off) (fun s => s.admRegStart 2 a off 0))

/-- REG_WRITE. -/
def execRegWrite (a : AdmHdr) (off val : Word) (s : State) : Host.Outcome State Fault Refusal :=
  .next (s.admBegin 3 a (writeArgs off val) (fun s => s.admRegStart 3 a off val))

/-! ### Images and profiles (R445, R664, R720, R724, R725, R728) -/

/-- The body of the first image of a manifest. -/
def manBody (m : Manifest) : List Byte := (m.entries.head?.map (·.body)).getD []

/-- A digest of 48 octets, the first the most significant. -/
def bytesDigest (bs : List Byte) : Digest := BitVec.ofNat 384 (bs.foldl (fun n b => n * 256 + b.toNat) 0)

/-- What an accepted image does, with the failure code 0, or the code with which its content is refused; code images
are staged apart. -/
def State.useImage (s : State) (m : Manifest) : State × Nat :=
  let body := manBody m
  match (manTypes m).headD 0 with
  | 4 =>
    if s.sys.mode ≠ .standby then (s, 0x0C)
    else
      let ws := bytesWords body
      let e := psetCheck ws
      if e = 0 then ({ s with saf := { s.saf with psetNew := some ws } }, 0) else (s, e)
  | 5 =>
    let keys := (s.sec.keys.set 2 (bytesDigest (body.take 48))).set 3 (bytesDigest ((body.drop 48).take 48))
    ({ s with sec := { s.sec with keys := keys, ownerSet := true, lifePend := some 2 } }, 0)
  | 6 => ({ s with sec := { s.sec with lifePend := some 3 } }, 0)
  | _ => ({ s with sec := { s.sec with revoke := s.sec.revoke ||| 3 } }, 0)

/-- LOAD_IMAGE: the checks of R723 and what follows them. Code images complete after the read-back of the slot. -/
def State.loadImage (s : State) (a : AdmHdr) (len : Nat) (m : Option Manifest) : State :=
  let reject (s : State) (code : Nat) : State := s.admDone 4 a 0x13 code
  if s.sys.mode ≠ .standby ∧ s.sys.mode ≠ .safe then reject s 0x0C
  else
    match m with
    | none => reject s 0x0D
    | some m =>
      let e := s.checkMan m .load len
      if e ≠ 0 then reject s e
      else if isCodeSet m then
        let slot := if (s.sec.img.map (·.slot)).getD 0 = 1 then 2 else 1
        { s with sec := { s.sec with staged := some (a, imgSetOf m slot) } }.admWait 4 a 0
      else
        let (s, e) := s.useImage m
        if e = 0 then s.admDone 4 a 0 0 else reject s e

/-- LOAD_IMAGE (R724): `m` is the manifest with its images as the security engine read them from host memory. -/
def execLoadImage (a : AdmHdr) (len : Word) (m : Option Manifest) (s : State) : Host.Outcome State Fault Refusal :=
  .next (s.admBegin 4 a (lenArgs len) (fun s => s.loadImage a len.toNat m))

/-- SLOT_READBACK_DONE (R725): the slot has been read back; the new set is pending. -/
def execSlotReadbackDone (ok : Bool) (s : State) : Host.Outcome State Fault Refusal :=
  match s.sec.staged with
  | none => .next s
  | some (a, i) =>
    let s := { s with sec := { s.sec with staged := none } }
    if ok then .next (((s.wr SEC_IMG.PEND 1).wr SEC_IMG.PEND_SVN i.svn.toNat).admDone 4 a 0 0)
    else .next (s.admDone 4 a 0x13 0x0B)

/-- LOAD_PROFILE (R445): the load joins the profile command of its quad, one at a time; `PROFILE_DECISION` completes
it. -/
def State.loadProfile (s : State) (a : AdmHdr) (q : Quad) (slot : Fin 8) (img : Option (List Word)) : State :=
  match img with
  | none => s.admDone 5 a 0x12 0
  | some ws =>
    let p := profOf ws
    ((s.updQd q (fun y => { y with pcmd := some (.load slot p.1 p.2 (some a)) })).wr (QD_PCMD.RESULT q) 0xFF).admWait 5 a 0

/-- LOAD_PROFILE. It begins once no profile command of its quad is pending. -/
def execLoadProfile (a : AdmHdr) (q : Quad) (slot : Fin 8) (img : Option (List Word)) (s : State) :
    Host.Outcome State Fault Refusal :=
  if (bget s.qd q).pcmd.isSome then .next s else .next (s.admBegin 5 a (loadArgs q slot) (fun s => s.loadProfile a q slot img))

/-! ### REVOKE (R399, R432 to R434) -/

/-- The queue count of the running step of a channel: counts of UPDATEs that it took lie between it and `cur`. -/
def State.runCnt (s : State) (c : Ch) (r : Run) : Nat :=
  let d := s.qDepth (cq c)
  let x := (s.seq c).cur
  (x + 65536 - (x + d - r.idx % d) % d) % 65536

/-- How many descriptors stand from count `start` up to `tail`. -/
def countTo (start tail : Nat) : Nat := if before16 tail start then 0 else sub16 tail start

/-- Descriptors that had not begun complete with REVOKED, from count `start` up to `tail`; those prefetched, from count
`base` on, name their opcode, of the others it is a free value. -/
def State.revokeNotices (s : State) (q : QId) (base start tail : Nat) : State :=
  let pre := (s.subq q).pre
  (List.range (countTo start tail)).foldl (fun (s : State) i =>
    let cnt := (start + i) % 65536
    match pre[sub16 cnt base]? with
    | some p => s.notice .shared q cnt rREVOKED ((wAt p.words 0).toNat % 256) 0xFFFF 0
    | none =>
      let (n, s) := s.takeNat
      s.notice .shared q cnt rREVOKED (n % 256) 0xFFFF 0) s

/-- What was prefetched from count `f` on goes, and reads that reach it; `base` is the count of the first prefetched. -/
def State.revokePre (s : State) (q : QId) (base f : Nat) : State :=
  let n := if before16 f base then 0 else sub16 f base
  let s := { s with host := { s.host with reads := s.host.reads.filter (fun r =>
    !(decide (r.q = q) && before16 f (r.first + r.n))) } }
  s.updQ q (fun x => { x with
    pre := x.pre.take n, fetched := if before16 f x.fetched then f else x.fetched, tail := f, held := none })

/-- The count of a queue's first descriptor that has not begun. -/
def State.revokeBase (s : State) (q : QId) : Nat :=
  if h : q.val < 16 then s.preBase ⟨q.val, h⟩ % 65536 else ((s.subq mq).done + b2n s.mot.cmd.isSome) % 65536

/-- The count of the first descriptor that a REVOKE from `f` on completes with REVOKED: the running one has its own end. -/
def State.revokeFrom (s : State) (q : QId) (f : Nat) : Nat :=
  if q.val < 16 then (if before16 f (s.revokeBase q) then s.revokeBase q else f)
  else if s.mot.cmd.isSome ∧ (s.subq mq).done = f then s.revokeBase q else f

/-- REVOKE of a channel queue: the running step, if it is `f`, ends at the next boundary at which SEQ can act. -/
def State.revokeCh (s : State) (c : Ch) (f : Nat) : State :=
  let q := cq c
  let base := s.revokeBase q
  let running := (s.seq c).run.any (fun r => !r.failed && decide (s.runCnt c r = f))
  let s := s.revokeNotices q base (s.revokeFrom q f) (s.subq q).tail
  let s := s.revokePre q base f
  let s := s.updSeq c (fun x => { x with
    armed := x.armed.filter (fun k => before16 k f), prearm := x.prearm && x.armed.any (fun k => before16 k f)
    run := x.run.map (fun r => { r with
      upd := r.upd.filter (fun u => before16 u.cnt f), revoked := r.revoked || running })
    cur := if running then (f + 65535) % 65536 else x.cur })
  if running then s.decideEnd c else s

/-- REVOKE of MQ: the running command, if it is `f`, ends with REVOKED and the press holds. -/
def State.revokeMot (s : State) (f : Nat) : State :=
  let base := s.revokeBase mq
  let running := s.mot.cmd.isSome && decide ((s.subq mq).done = f)
  let s := s.revokeNotices mq base (s.revokeFrom mq f) (s.subq mq).tail
  let s := s.revokePre mq base f
  if running then (s.motEnd rREVOKED).updQ mq (fun x => { x with done := f }) else s

/-- The least `FIRST` of a queue that REVOKE takes: the count of the running descriptor, or of the first that has not
begun (R433). -/
def State.revokeLeast (s : State) (q : QId) : Nat :=
  if h : q.val < 16 then
    let c : Ch := ⟨q.val, h⟩
    match (s.seq c).run with
    | some r => if r.failed then s.preBase c else s.runCnt c r
    | none => s.preBase c
  else (s.subq q).done

/-- REVOKE (R433, R434): `FIRST` must be the held tail and must not lie before the running step. -/
def State.revoke (s : State) (a : AdmHdr) (q : QId) (f : Nat) : State :=
  let x := s.subq q
  if x.held ≠ some f then s.admDone 6 a 0x0F 0
  else if before16 f (s.revokeLeast q) then s.admDone 6 a 0x0E 0
  else
    let n := countTo f x.tail
    let s := if h : q.val < 16 then s.revokeCh ⟨q.val, h⟩ f else s.revokeMot f
    s.admDone 6 a 0 n

/-- REVOKE. -/
def execRevoke (a : AdmHdr) (q : BitVec 5) (first : Half) (s : State) : Host.Outcome State Fault Refusal :=
  .next (s.admBegin 6 a (revokeArgs q first) (fun s =>
    if 16 < q.toNat then s.admDone 6 a 2 0 else s.revoke a (Fin.ofNat 18 q.toNat) first.toNat))

/-! ### Channels -/

/-- RESUME (R333): a channel in HOLD starts the descriptor at its queue head; any other is refused. -/
def execResume (a : AdmHdr) (mask : BitVec 16) (s : State) : Host.Outcome State Fault Refusal :=
  .next (s.admBegin 7 a (maskArgs mask) (fun s =>
    let holds (c : Ch) : Bool := decide ((s.seq c).st = .hold)
    let refused := (maskChs mask).filter (fun c => !holds c)
    let t := s.forCh ((maskChs mask).filter holds) (fun s c => s.updSeq c (fun x => { x with resume := true }))
    t.admDone 7 a (if refused.isEmpty then 0 else 0x10) (refused.foldl (fun m c => m + 2 ^ c.val) 0)))

/-- CLEAR_FAULT (R145, R185, R187, R244): `SHOOT_FAULT` and a failed shadow check of the channel clear. -/
def State.clearFault (s : State) (c : Ch) : State :=
  let recent := (s.chan c).stage.bothOn.filter (fun t => s.clk < t + 16)
  let s := if recent.length < 3 then s.condGone 9 c else s
  let s := ((s.condGone 10 c).clearIfGone 9 c).clearIfGone 10 c
  if s.activeIn 9 c then s else s.wr (CH_PFLT.SHOOT_FAULT c) 0

/-- CLEAR_FAULT. -/
def execClearFault (a : AdmHdr) (ch : Ch) (s : State) : Host.Outcome State Fault Refusal :=
  .next (s.admBegin 8 a (chArgs ch) (fun s => (s.clearFault ch).admDone 8 a 0 0))

/-! ### Modes (R80, R82, R746, R799) -/

/-- SAF takes its copy of β and `RNOM` as the lock is taken (R799). -/
def State.lockCopy (s : State) : State :=
  { s with saf := { s.saf with beta := s.rd MET_NTC.BETA, rnom := s.rd MET_NTC.RNOM } }

/-- A safety comparator is in its initial tripped state (R692). -/
def State.safInit (s : State) : Bool :=
  allCh.any (fun c => (s.cmpAt (chCmp c 2)).init || (s.cmpAt (chCmp c 3)).init) || (s.cmpAt 68).init || (s.cmpAt 69).init

/-- The guard of ENTER_RUN (R80, R692). -/
def State.runGuard (s : State) : Bool :=
  let ns : List (Fin 7) := [0, 1, 2, 3, 4, 5, 6]
  !ns.any s.demand && !s.sfault && s.kfbAgrees && s.rb SAF_STAT.INJ_OK && !s.rb SAF_STAT.DBG_UNCHECKED && !s.safInit

/-- The guard of leaving RUN and SERVICE (R80). -/
def State.calm (s : State) : Bool :=
  allCh.all (fun c => decide ((s.seq c).st = .idle ∨ (s.seq c).st = .hold) && !(s.chan c).stage.gates) &&
    s.mot.cmd.isNone

/-- ENTER_RUN. -/
def execEnterRun (a : AdmHdr) (s : State) : Host.Outcome State Fault Refusal :=
  .next (s.admBegin 9 a noArgs (fun s =>
    if s.sys.mode ≠ .standby then s.admDone 9 a 4 0
    else if !s.runGuard then s.admDone 9 a 5 0
    else ((s.endMeasClosures.lockCopy).goTo .run).admWait 9 a 0))

/-- ENTER_STANDBY. -/
def execEnterStandby (a : AdmHdr) (s : State) : Host.Outcome State Fault Refusal :=
  .next (s.admBegin 10 a noArgs (fun s =>
    if s.sys.mode ≠ .run then s.admDone 10 a 4 0
    else if !s.calm then s.admDone 10 a 5 0
    else (s.goTo .standby).admWait 10 a 0))

/-- The check of an authorisation (R734): the code of its failure, 0 for none, and its `PERM`. -/
def State.authCheck (s : State) (m : Option Manifest) (len : Nat) : Nat × Nat :=
  match m with
  | none => (0x0D, 0)
  | some m =>
    let e := s.checkMan m .service len
    let ws := bytesWords (manBody m)
    let chal := (List.finRange 8).map (fun k => wN (s.rd (SEC_CHAL.CHAL k)))
    let perm := (ws.getD 8 0).toNat
    if e ≠ 0 then (e, 0)
    else if 16 ≤ perm ∨ (ws.drop 9).any (fun w => w ≠ 0) then (0x03, 0)
    else if !s.rb SEC_CHALCTL.VALID ∨ ws.take 8 ≠ chal then (0x12, 0)
    else (0, perm)

/-- ENTER_SERVICE (R80, R733, R734): the challenge is consumed whatever the outcome. -/
def execEnterService (a : AdmHdr) (len : Word) (m : Option Manifest) (s : State) : Host.Outcome State Fault Refusal :=
  .next (s.admBegin 11 a (lenArgs len) (fun s =>
    let (code, perm) := s.authCheck m len.toNat
    let s := s.wr SEC_CHALCTL.VALID 0
    if s.sys.mode ≠ .standby then s.admDone 11 a 4 0
    else if code ≠ 0 then s.admDone 11 a 0x11 code
    else ((s.endMeasClosures.lockCopy).goTo .service).admWait 11 a perm))

/-- LEAVE_SERVICE. -/
def execLeaveService (a : AdmHdr) (s : State) : Host.Outcome State Fault Refusal :=
  .next (s.admBegin 12 a noArgs (fun s =>
    if s.sys.mode ≠ .service ∨ !s.calm then s.admDone 12 a 4 0
    else (s.resumeCores.goTo .standby).admWait 12 a 0))

/-- CLEAR_SAFE (R89, R91). -/
def execClearSafe (a : AdmHdr) (s : State) : Host.Outcome State Fault Refusal :=
  .next (s.admBegin 13 a noArgs (fun s =>
    if s.sys.mode ≠ .safe then s.admDone 13 a 4 0
    else if s.rd SAF_CAUSEV.SF ≠ 0 ∨ s.rd SAF_CAUSEV.OTHER ≠ 0 then s.admDone 13 a 6 0
    else if !s.saf.toggled then s.admDone 13 a 7 0
    else (s.goTo .standby).admWait 13 a 0))

/-- ENTER_PARK: steps 1 and 2 of R97 at once, step 3 at the boundary. -/
def execEnterPark (a : AdmHdr) (s : State) : Host.Outcome State Fault Refusal :=
  .next (s.admBegin 14 a noArgs (fun s =>
    if (s.sys.mode ≠ .standby ∧ s.sys.mode ≠ .safe) ∨ s.mot.cmd.isSome then s.admDone 14 a 4 0
    else
      let s := if s.sys.mode = .standby then s.lockCopy else s
      let s := s.forCh allCh (fun s c => (s.protOpen c).wr (CH_ISO.MEAS_CLOSE c) 0)
      (s.motTorqueOff.kdrLow.goTo .park).admWait 14 a 0))

/-! ### Resets (R107, R110, R113 to R116, R446, R748) -/

/-- RESET with kind CHIP: the reset is requested once its completion has been written (R446). -/
def execResetChip (a : AdmHdr) (s : State) : Host.Outcome State Fault Refusal :=
  .next (s.admBegin 15 a (resetArgs 1) (fun s =>
    let s := s.admDone 15 a 0 0
    { s with host := { s.host with resetAt := s.host.resetAt ++ [(false, a)] } }))

/-- RESET with kind WARM. -/
def execResetWarm (a : AdmHdr) (s : State) : Host.Outcome State Fault Refusal :=
  .next (s.admBegin 15 a (resetArgs 2) (fun s =>
    let s := s.admDone 15 a 0 0
    { s with host := { s.host with resetAt := s.host.resetAt ++ [(true, a)] } }))

/-- The selector of a block (R444). -/
def blkSel : Blk → Nat
  | .quad q => q.val
  | .mot => 4
  | .ring => 5

/-- RESET with kind BLOCK completes when the reset is done. -/
def execResetBlock (a : AdmHdr) (blk : BitVec 4) (s : State) : Host.Outcome State Fault Refusal :=
  .next (s.admBegin 15 a (blockArgs blk) (fun s =>
    let k := blk.toNat
    let s := s.admWait 15 a k
    if k = 4 then s.resetMot 0 false
    else if k = 5 then s.resetRing 0 false
    else s.resetQuad (Fin.ofNat 4 k) 0 false))

/-- A held access is carried out (R748). -/
def State.runHeld (s : State) (h : HeldAcc) : State :=
  match h with
  | .write path off ws => s.putWords path off ws none
  | .read off n => s.answerRead off n
  | .reg f => s.serveReg f
  | .admin op a off val => s.admReg op a off val

/-- The held accesses are carried out in their order; one that meets another reset is held again. -/
def State.runAllHeld (s : State) : State :=
  let l := s.host.heldAcc
  l.foldl State.runHeld { s with host := { s.host with heldAcc := [] } }

/-- A block's reset is in progress. -/
def State.blkResetting (s : State) (b : Blk) : Bool :=
  match b with
  | .quad q => (bget s.qd q).resetting
  | .mot => s.mot.resetting
  | .ring => s.ring.resetting

/-- The block runs again (R115, R530): its fault source clears (R681), a head starts its ring. -/
def State.blkAgain (s : State) (b : Blk) : State :=
  match b with
  | .quad q =>
    let s := s.updQd q (fun x => { x with resetting := false })
    (s.condGone 16 (chOf q 0)).clear 16 (chOf q 0)
  | .mot => ({ s with mot := { s.mot with resetting := false } }.condGone 46 0).clear 46 0
  | .ring => (({ s with ring := { s.ring with resetting := false } }.condGone 56 0).clear 56 0).wr
      RING_DLY.FWD Config.fwdLatency |>.startRing

/-- BLOCK_RESET_DONE. -/
def execBlockResetDone (b : Blk) (s : State) : Host.Outcome State Fault Refusal :=
  if !s.blkResetting b then .next s
  else
    let s := (s.blkAgain b).runAllHeld
    match s.host.adm with
    | some p => .next (if p.op = 15 ∧ p.arg = blkSel b then s.admDone 15 p.hdr 0 0 else s)
    | none => .next s

/-! ### Attestation and dump -/

/-- The words of the octets of a number of `n` octets, the first the most significant. -/
def digestWords (n x : Nat) : List Word := (List.range (n / 4)).map (fun i => wN (octetWord n x i))

/-- The body of an attestation report, bytes 0 to 263 (R732). -/
def State.attestBody (s : State) (nonce : BitVec 256) : List Word :=
  let i := s.sec.img
  let t := s.now
  let dig (f : ImgSet → Digest) : List Word := digestWords 48 ((i.map f).getD 0).toNat
  [0x54505441, w2 1 264] ++ (List.range 8).map (fun k => nonce.extractLsb' (32 * k) 32) ++
    [wN s.sec.uid, wN (s.sec.uid / 2 ^ 32), w4 s.sec.life s.sec.rbc s.sec.revoke.toNat s.sys.mode.code, wN t,
      w2 (t / 2 ^ 32) (b2n (s.rb SAF_STAT.DBG_UNCHECKED) + 2 * b2n s.sec.gradeM + 4 * s.rd SEC_IMG.PEND +
        8 * b2n s.sec.lifePend.isSome + 256 * s.rd SEC_BOOTSTAT.SRC),
      wN (s.pset 19), w4 ((i.map (·.svn.toNat)).getD 0) ((i.map (·.auth.toNat)).getD 0) 0 0, (i.map (·.build)).getD 0] ++
    dig (·.digest) ++ dig (·.seq) ++ dig (·.saf) ++ dig (·.mot)

/-- ATTEST (R732): the report is signed as it stands when signing begins. -/
def execAttest (a : AdmHdr) (addr : Long) (len : Word) (nonce : BitVec 256) (s : State) : Host.Outcome State Fault Refusal :=
  .next (s.admBegin 16 a (attestArgs addr len nonce) (fun s =>
    if len.toNat < 16872 then s.admDone 16 a 2 0
    else { s with sec := { s.sec with attest := some (a, addr.toNat, s.attestBody nonce) } }.admWait 16 a 0))

/-- REPORT_SIGNED (R732): the signatures, free values, join the body and the report is written to `ADDR`. -/
def execReportSigned (s : State) : Host.Outcome State Fault Refusal :=
  match s.sec.attest with
  | none => .next s
  | some (a, addr, body) =>
    let s := { s with sec := { s.sec with attest := none } }
    if !s.canWrite .other then .next (s.admDone 16 a 0x12 0)
    else
      let sig := (List.range 4152).map (fun i => wN (Config.sigWord s.free i))
      .next (({ s with free := s.free + 1 }.writeBig addr (body ++ sig)).admDone 16 a 0 16872)

/-- DUMP_NOW (R693). -/
def execDumpNow (a : AdmHdr) (s : State) : Host.Outcome State Fault Refusal :=
  .next (s.admBegin 17 a noArgs (fun s =>
    let busy := s.rb FLT_DUMPSTAT.REQ || s.flt.copying
    (s.dumpTrigger 1 0xFF).admDone 17 a (if busy then 0x14 else 0) 0))

/-! ### PARK (R97 to R106) -/

/-- A group of completions holds the completion of ENTER_PARK. -/
def holdsPark (g : CGroup) : Bool :=
  g.recs.any (fun r => (wAt r 0).toNat % 256 = 6 && (wAt r 1).toNat / 256 % 256 = 14)

/-- The device leaves PARK by a wake event (R80, R103, R105). -/
def State.wakeUp (s : State) (k : Nat) : State := s.fullReset .pin 4 k false

/-- PARK_ENTRY_FINISH (R97, R99, R102): once the completion of ENTER_PARK has been written the ring bypass closes and the
core domains switch off. A wake event that was latched ends PARK at once. -/
def execParkEntryFinish (s : State) : Host.Outcome State Fault Refusal :=
  if !s.sys.parkDone ∨ s.sys.mode = .park ∨ s.host.cbuf.any holdsPark then .next s
  else
    let s := (s.wr RING_STAT.BYPA 1).wr RING_STAT.BYPB 1
    let s := { s with
      saf := { s.saf with cen := false, ien := false, men := false, pass := 0 }
      sys := { s.sys with mode := .park, trans := none, parkHist := [], tickOut := false } }
    let s := s.wr FLT_ERRN.LOW 0
    .next (match s.sys.wake with | some k => s.wakeUp k | none => s)

/-- A wake event of code `k` (R98, R99, R103), where its bit enables it. DESIGN CHOICE (log entry 142): of several that come
after step 3 of R97 the first is the one that `SYS_RSTCAUSE.WAKE` names. -/
def State.wakeEvent (s : State) (on : Bool) (k : Nat) : State :=
  if !on then s
  else if s.parked then s.wakeUp k
  else if s.sys.parkDone then { s with sys := { s.sys with wake := some (s.sys.wake.getD k) } }
  else if s.sys.trans = some .park then s.abandon 8
  else s

/-- PARK_WAKE_TRAY (R103): a `TRAY` edge. -/
def execParkWakeTray (s : State) : Host.Outcome State Fault Refusal := .next (s.wakeEvent (s.rb SYS_PARK.WAKE_TRAY) 1)

/-- PARK_WAKE_VB (R103): VB above `VB_TH`. -/
def execParkWakeVb (s : State) : Host.Outcome State Fault Refusal := .next (s.wakeEvent (s.rb SYS_PARK.WAKE_VB) 2)

/-- PARK_WAKE_RING (R103): the wake pattern on a bypassed input. -/
def execParkWakeRing (r : RingId) (s : State) : Host.Outcome State Fault Refusal :=
  .next (s.wakeEvent (s.rb SYS_PARK.WAKE_RING) (match r with | .a => 3 | .b => 4))

/-- The comparators sampled in PARK with the source and the channel that a trip records (R100, R101). -/
def parkCmps : List (CmpId × Nat × Nat) :=
  allCh.map (fun c => (chCmp c 2, 14, c.val)) ++ allCh.map (fun c => (chCmp c 3, 4, c.val)) ++ [(68, 68, 0), (69, 68, 0)]

/-- One sampled comparator takes its sample (R102): five of the last seven trip or release it; a trip writes the last
fault record and pulls `ERR_N` low (R101). -/
def State.parkSample (s : State) (i : CmpId) (src ch : Nat) (h : List CmpLevel) : State :=
  let x := s.cmpAt i
  let s := s.updCmp i (fun x => { x with raw := decide (h.head? = some .beyond) })
  if !x.filt ∧ 5 ≤ h.count .beyond then
    let s := s.updCmp i (fun x => { x with filt := true })
    let s := ((s.wr FLT_LREC0.SRC src).wr FLT_LREC0.CHAN ch).wr FLT_LREC0.MODE 0
    let s := ((s.wr FLT_LREC0.REACT 16).wr FLT_LREC0.VALID 1).wr FLT_LREC1.TICK_LO s.now
    (s.wr FLT_LREC2.TICK_HI (s.now / 2 ^ 32)).wr FLT_ERRN.LOW 1
  else if x.filt ∧ 5 ≤ h.count .safe then s.updCmp i (fun x => { x with filt := false, init := false })
  else s

/-- PARK_TICK (R100 to R102): each sampled comparator is sampled once. -/
def execParkTick (i : ParkIn) (s : State) : Host.Outcome State Fault Refusal :=
  if !s.parked then .next s
  else
    let lv := (List.range 16).map (fun k => i.ov.getD k .band) ++ (List.range 16).map (fun k => i.uv.getD k .band) ++
      [i.vm, i.vb]
    let hs := (lv.zipIdx).map (fun (l, k) => keep 7 (l :: s.sys.parkHist.getD k []))
    let s := { s with sys := { s.sys with parkHist := hs } }
    .next ((parkCmps.zip hs).foldl (fun (s : State) e => s.parkSample e.1.1 e.1.2.1 e.1.2.2 e.2) s)

end Sys2Proof.Machine
end

