-- ==== Sys2Proof/Machine/Tick.lean ====
section
/-!
DEFINITION. The tick boundary: the measurements of the tick that ended, the ledger (R302 to R310), the balance (R400 to
R405), mode changes, and the work that every engine does in a tick (R50). The rows that act at the same boundary follow
it as commands of their own.
-/

namespace Sys2Proof.Machine

/-! ### What a tick measured -/

/-- The means of a tick that EIS demodulates (R375), in µV and µA; a gang's current is the sum of its members'. -/
def State.tickMeans (s : State) (c : Ch) (i : TickIn) : Int × Int :=
  let z : ChTick := ⟨0, 0, 0⟩
  let m : Int := s.mClk
  (s.metUv c (rdiv ((i.ch.getD c.val z).vBits * xRef 4) m),
    sumI ((s.members c).map (fun d => s.metUa d (rdiv ((i.ch.getD d.val z).bits * xRef (s.rngActive d)) m))))

/-- The precision VB of a tick in µV of its bit sum (R278, R328). -/
def State.metVb (s : State) (bits : Int) : Int :=
  satS 32 (rdiv ((s.calOf 35 7).input bits s.mClk) (100000000000 * (s.mClk : Int)))

/-! ### Conditions, comparators, exclusion -/

/-- The latched bits of the comparators whose period is the tick clear (R689), and with them the conditions of `VB_UV`
and `VDRV_UV`. -/
def State.tickLatches (s : State) : State :=
  let is : List CmpId := [68, 69, 70, 71]
  let s := is.foldl (fun s i =>
    if !(s.cmpAt i).filt && !s.rb (CMP_CFG.LATCH i) then s.updCmp i (fun x => { x with lat := false }) else s) s
  let s := if (s.cmpAt 70).lat then s else s.condGone 37 0
  if (s.cmpAt 71).lat then s else s.condGone 38 0

/-- The exclusion of a channel ends with the first tick after `ISOn` reads open (R307); flags of the tick start anew. -/
def State.exclEnd (s : State) (c : Ch) : State :=
  let x := s.chan c
  let on := x.met.excl && decide (x.stage.iso ≠ .opened)
  s.updMet c (fun m => { m with excl := on, exclTick := on, pulsed := x.stage.pulse.isSome })

/-! ### The bus balance (R400 to R404) -/

/-- The power of a channel in mW as R401 rounds it: what it draws, or what it supplies, and whether it supplies; none
with its gates off or without a command. -/
def State.balPower (s : State) (c : Ch) : Option (Int × Bool) :=
  let l := (s.chan c).loop
  let i := effOf (s.kT c) 256 l.iFb l.icmd
  let eta : Int := s.rd MET_BALCFG.ETA
  if !(s.chan c).stage.gates ∨ i = 0 then none
  else if 0 < i then some (rdiv (l.vA * i * 100) (eta * 1000000000), false)
  else some (rdiv (l.vA * i.natAbs * eta) 100000000000, true)

/-- The class under which a channel's step is scaled: 0 for EIS, DCIR and no step (R403). -/
def State.balClass (s : State) (c : Ch) : Nat :=
  let l := s.leader c
  match (s.seq l).run with
  | none => 0
  | some r =>
    if r.desc.op = 9 ∨ r.desc.op = 10 then 0
    else if r.desc.cls = 3 then s.rd (CH_SCFG.BAL_CLASS l) else r.desc.cls.toNat

/-- The sum A of R402 over the channels of a class and a direction. -/
def State.balSum (s : State) (cls : Nat) (exp : Bool) : Int :=
  sumI (allCh.map (fun c => match s.balPower c with
    | some (p, e) => if e = exp ∧ s.balClass c = cls then p else 0
    | none => 0))

/-- What one factor is wanted to be for an excess, and the excess that remains (R402). -/
def balWant (x a : Int) : Nat × Int :=
  if 0 < x ∧ 0 < a then
    let cut := min x a
    ((Int.fdiv (256 * (a - cut)) a).toNat, x - cut)
  else (256, x)

/-- The factors of a direction, class 1 then class 2, and the excess that remains (R402). -/
def State.balDir (s : State) (exp : Bool) (x : Int) : Nat × Nat × Int :=
  let p2 := balWant x (s.balSum 2 exp)
  let p1 := balWant p2.2 (s.balSum 1 exp)
  (p1.1, p2.1, p1.2)

/-- The place of a factor: class 1 import, class 1 export, class 2 import, class 2 export. -/
def balIx (cls : Nat) (exp : Bool) : Fin 4 := Fin.ofNat 4 (2 * (cls - 1) + b2n exp)

/-- The balance at a boundary: the factors of the tick before come into force, those of the tick that ended are
computed (R400, R402, R404). -/
def State.balance (s : State) : State :=
  let one : Vector Nat 4 := Vector.replicate 4 256
  if !s.rb MET_BALCFG.EN then
    let s := { s with met := { s.met with kbal := one, kbalNew := one } }
    ((s.wr MET_BALSTAT.K1 256).wr MET_BALSTAT.K2 256).wr MET_BALSTAT.ACTIVE 0 |>.wr MET_BALSTAT.OVER 0
  else
    let ps := allCh.filterMap s.balPower
    let net := sumI (ps.map (fun p => if p.2 then -p.1 else p.1))
    let imp := s.balDir false (max 0 (net - s.rd MET_BALIMP.P_IMP))
    let exp := s.balDir true (max 0 (-(s.rd MET_BALEXP.P_EXP : Int) - net))
    let rise := s.rd MET_BALCFG.RISE
    let old := s.met.kbalNew
    let k (want : Nat) (i : Fin 4) : Nat := min want (bget old i + rise)
    let new : Vector Nat 4 :=
      ⟨⟨[k imp.1 0, k exp.1 1, k imp.2.1 2, k exp.2.1 3]⟩, rfl⟩
    let above := decide (0 < imp.2.2 ∨ 0 < exp.2.2)
    let first := above && !s.rb MET_BALSTAT.OVER
    let s := { s with met := { s.met with kbal := old, kbalNew := new } }
    let dir := decide (bget old 1 < 256 ∨ bget old 3 < 256) && decide (bget old 0 = 256 ∧ bget old 2 = 256)
    let s := (s.wr MET_BALSTAT.K1 (bget old (balIx 1 dir))).wr MET_BALSTAT.K2 (bget old (balIx 2 dir))
    let s := (s.wb MET_BALSTAT.DIR dir).wb MET_BALSTAT.ACTIVE (old.toList.any (fun x => decide (x < 256)))
    let s := (s.wb MET_BALSTAT.OVER above).wrS MET_BALNET.NET (satS 32 net)
    if first then s.event 19 5 (ofS 32 (satS 32 net)) else s

/-! ### Mode changes (R80, R89, R93, R97, R746) -/

/-- The admin command that asked for a mode change completes with OK (R446). -/
def State.modeDone (s : State) : State :=
  match s.host.adm with
  | some p => s.admDone p.op p.hdr 0 0
  | none => s

/-- The SAFE exit clears the latch, its record and the faults that it clears (R93, R681). -/
def State.safeExit (s : State) : State :=
  let s := ((s.wr SAF_STAT.LATCH 0).wr SAF_CAUSE.FIRST 0).wr SAF_CAUSE.POS 0
  let s := { s with saf := { s.saf with toggled := false } }.wr SAF_IO.EST_DISC 0
  let ns := (List.finRange 128).filter (fun n => srcClr n.val = 6)
  ns.foldl (fun s n => if isChanSrc n then s.forCh allCh (fun s c => s.clearIfGone n c) else s.clearIfGone n 0) s

/-- Step 3 of R97: the last mode and the park entry tick are recorded, and ENTER_PARK completes. -/
def State.parkStep3 (s : State) : State :=
  let s := (s.wr SYS_LASTMODE.LMODE s.sys.mode.code).wr SYS_LASTMODE.VALID 1
  let s := (s.wr SYS_PARKTL.TICK_LO s.now).wr SYS_PARKTH.TICK_HI (s.now / 2 ^ 32)
  { s with sys := { s.sys with parkDone := true } }.modeDone

/-- The mode change under way is made at this boundary. -/
def State.changeMode (s : State) : State :=
  match s.sys.trans with
  | none => s
  | some .run =>
    let s := if s.role = 2 then s.wr SAF_RUNSET.SET (s.rd RING_PRESENT.PRES) else s
    (s.setMode .run).modeDone
  | some .service =>
    let perm := (s.host.adm.map (·.arg)).getD 0
    (s.setMode .service).modeDone.wr SEC_DBG.PERM perm
  | some .standby =>
    if s.sys.mode = .safe then s.safeExit.enterStandby.modeDone
    else ((s.motTorqueOff.setMode .standby).modeDone).wr SEC_DBG.PERM 0
  | some .safe =>
    let s := if s.sys.mode = .service then s.resumeCores else s
    (s.setMode .safe).wr SEC_DBG.PERM 0
  | some .park => if s.sys.parkDone then s else s.parkStep3
  | some .boot => s

/-! ### The boundary -/

/-- The counters of the host interface, of `ERR_N` and of the injection test advance by a tick (R421, R466, R686). -/
def State.hostClocks (s : State) : State :=
  let t := s.saf.injT + s.tickNs
  let s := { s with
    host := { s.host with
      pollT := s.host.pollT + 1, msix := bmap (fun (m : MsixV) => { m with wait := m.wait - 1 }) s.host.msix }
    flt := { s.flt with errHold := s.flt.errHold - 1 }
    saf := { s.saf with injT := t } }
  if s.rb SAF_STAT.INJ_OK then s.wr SAF_STAT.INJ_AGE (satU 8 (t / 86400000000000)) else s

/-- The tick number and the working copy of `SYS_TICK` advance, and written metrology setup comes into force (R29, R36,
R753). -/
def State.nextTick (s : State) : State :=
  let s := s.commitIf lateTick
  let s := { s with sys := { s.sys with
    tick := (s.sys.tick + 1) % 2 ^ 48, clk := s.sys.clk + 1, cyc := s.sys.cyc + s.per
    perNew := s.sys.perNew.map (fun (p : Nat × Nat) => (p.1, p.2 - 1)) } }
  if s.sys.perNew.isNone then
    { s with sys := { s.sys with ppt := s.rd SYS_TICK.PPT, tlm := s.rd SYS_TICK.TLM_DIV } }
  else s

/-- What the device does on its ring at a boundary (R487, R488, R494 to R498). -/
def State.ringTick (s : State) : State :=
  let s := ((s.wrapNow .a).wrapNow .b).reportArrivals
  let s := if s.role = 3 then s.barvNext else s.sendPennant.layRegions
  s.sendPdu

/-- The channels at a boundary that ends tick `t`: failed steps complete, running steps count and decide, and the
setpoints of the tick that begins are formed. -/
def State.channelTick (s : State) (t : Nat) (i : TickIn) : State :=
  let s := s.forCh allCh (fun s c => (s.closeFailed c t).olCount c)
  let s := s.changeMode
  s.forCh allCh (fun s c => let m := s.tickMeans c i; s.seqTick c m.1 m.2)

/-- The k_T that a boundary applies (R181): the factor of the last sample within the limits, 0 after one outside them
while the supervision is on. -/
def State.kTNext (s : State) (c : Ch) : Nat :=
  if (s.chan c).stage.ntcBad && s.rb (CH_SENSE.NTC_EN c) then 0 else (s.chan c).stage.kT

/-- The setpoints of the tick that begins; a gang's k_T is its leader's (R192). -/
def State.setpointTick (s : State) : State :=
  let s := s.forCh allCh (fun s c =>
    let gang := (s.seq (s.leader c)).size ≠ 1
    (s.updLoop c (fun l => l.shift gang)).wr (CH_PSTAT.K_T c) (s.kTNext (s.leader c)))
  s.forCh allCh (fun s c => if (s.seq c).lead.isSome then s else s.stepBoundary c)

/-- TICK_BOUNDARY (R50, R54, R302 to R310, R400, R746): the boundary that ends a tick and begins the next, with its pulse
on `TICK_OUT` (R788). -/
def execTickBoundary (i : TickIn) (s : State) : Host.Outcome State Fault Refusal :=
  if s.idle then .next s
  else
    let t := s.now
    let s := { s with met := { s.met with selfOk := s.met.selfOk || (i.tested && decide (s.sys.mode = Mode.boot)) } }
    let s := (s.measureTick i.ch).compareTicks i
    let s := { s with met := { s.met with vbSar := i.vbSar, vbPrec := s.metVb i.vbBits } }
    let s := (s.tickLatches).condClears
    let s := s.channelTick t i
    let s := ((s.hostClocks.ringAge t i.line).metClock).nextTick
    let s := (s.balance).setpointTick
    let s := s.forCh allCh (fun s c => (s.exclEnd c).rangeTick c)
    let s := allQuads.foldl (fun s q => s.traceTick q t) s
    let s := ((s.ringTick.motTick i.force).chopperConds).endInject
    let s := if s.sys.tickOut then s.emit .tickOut else s
    .next s.admScan

end Sys2Proof.Machine
end

