-- ==== Sys2Proof/Machine/Dispatch.lean ====
section
/-!
DEFINITION. `exec`: one arm per command, each a direct call of its meaning.
-/

namespace Sys2Proof.Machine

/-- The effect of a command on everything but the queue. -/
def exec (i : Instr) (s : State) : Host.Outcome State Fault Refusal :=
  match i with
  | .vinOn => Sys2Proof.Machine.execVinOn s
  | .por => Sys2Proof.Machine.execPor s
  | .brownout rail => Sys2Proof.Machine.execBrownout rail s
  | .pinReset => Sys2Proof.Machine.execPinReset s
  | .perstNAssert => Sys2Proof.Machine.execPerstNAssert s
  | .functionLevelReset => Sys2Proof.Machine.execFunctionLevelReset s
  | .vdrvUnderVoltage => Sys2Proof.Machine.execVdrvUnderVoltage s
  | .internalResetRelease inp => Sys2Proof.Machine.execInternalResetRelease inp s
  | .pllLock => Sys2Proof.Machine.execPllLock s
  | .bootComplete inp => Sys2Proof.Machine.execBootComplete inp s
  | .injectionTestDone inp => Sys2Proof.Machine.execInjectionTestDone inp s
  | .nop a => Sys2Proof.Machine.execNop a s
  | .regRead a off => Sys2Proof.Machine.execRegRead a off s
  | .regWrite a off val => Sys2Proof.Machine.execRegWrite a off val s
  | .loadImage a len m => Sys2Proof.Machine.execLoadImage a len m s
  | .loadProfile a q slot img => Sys2Proof.Machine.execLoadProfile a q slot img s
  | .revoke a q first => Sys2Proof.Machine.execRevoke a q first s
  | .resume a mask => Sys2Proof.Machine.execResume a mask s
  | .clearFault a ch => Sys2Proof.Machine.execClearFault a ch s
  | .enterRun a => Sys2Proof.Machine.execEnterRun a s
  | .enterStandby a => Sys2Proof.Machine.execEnterStandby a s
  | .enterService a len m => Sys2Proof.Machine.execEnterService a len m s
  | .leaveService a => Sys2Proof.Machine.execLeaveService a s
  | .clearSafe a => Sys2Proof.Machine.execClearSafe a s
  | .enterPark a => Sys2Proof.Machine.execEnterPark a s
  | .parkEntryFinish => Sys2Proof.Machine.execParkEntryFinish s
  | .resetChip a => Sys2Proof.Machine.execResetChip a s
  | .resetWarm a => Sys2Proof.Machine.execResetWarm a s
  | .resetBlock a blk => Sys2Proof.Machine.execResetBlock a blk s
  | .blockResetDone blk => Sys2Proof.Machine.execBlockResetDone blk s
  | .attest a addr len nonce => Sys2Proof.Machine.execAttest a addr len nonce s
  | .dumpNow a => Sys2Proof.Machine.execDumpNow a s
  | .safeStateRequest cause => Sys2Proof.Machine.execSafeStateRequest cause s
  | .parkTick inp => Sys2Proof.Machine.execParkTick inp s
  | .parkWakeTray => Sys2Proof.Machine.execParkWakeTray s
  | .parkWakeVb => Sys2Proof.Machine.execParkWakeVb s
  | .parkWakeRing r => Sys2Proof.Machine.execParkWakeRing r s
  | .drvEnToggle => Sys2Proof.Machine.execDrvEnToggle s
  | .tickBoundary inp => Sys2Proof.Machine.execTickBoundary inp s
  | .refSwitch => Sys2Proof.Machine.execRefSwitch s
  | .clkLost => Sys2Proof.Machine.execClkLost s
  | .pennantReceived r p t dev => Sys2Proof.Machine.execPennantReceived r p t dev s
  | .pennantMissed => Sys2Proof.Machine.execPennantMissed s
  | .tickAlign => Sys2Proof.Machine.execTickAlign s
  | .sysTickWrite path val => Sys2Proof.Machine.execSysTickWrite path val s
  | .tickPeriodSwitch => Sys2Proof.Machine.execTickPeriodSwitch s
  | .tickChangeWithdraw => Sys2Proof.Machine.execTickChangeWithdraw s
  | .telemetryReport => Sys2Proof.Machine.execTelemetryReport s
  | .safetyCycleStart inp => Sys2Proof.Machine.execSafetyCycleStart inp s
  | .spend inp => Sys2Proof.Machine.execSpend inp s
  | .safOverrun => Sys2Proof.Machine.execSafOverrun s
  | .safHeartbeat => Sys2Proof.Machine.execSafHeartbeat s
  | .pwmPeriodStart inp => Sys2Proof.Machine.execPwmPeriodStart inp s
  | .sarSample ch isB v inp => Sys2Proof.Machine.execSarSample ch isB v inp s
  | .controlSampleValid ch inp => Sys2Proof.Machine.execControlSampleValid ch inp s
  | .leOverrun ch => Sys2Proof.Machine.execLeOverrun ch s
  | .loadInstant ch => Sys2Proof.Machine.execLoadInstant ch s
  | .gdAdapt ch rising measured t => Sys2Proof.Machine.execGdAdapt ch rising measured t s
  | .bothOnCommand ch => Sys2Proof.Machine.execBothOnCommand ch s
  | .measClose path ch val => Sys2Proof.Machine.execMeasClose path ch val s
  | .kelTest path ch val => Sys2Proof.Machine.execKelTest path ch val s
  | .kelvinPulseEnd ch diff => Sys2Proof.Machine.execKelvinPulseEnd ch diff s
  | .isoSettleEnd ch => Sys2Proof.Machine.execIsoSettleEnd ch s
  | .isoStagedOpen ch => Sys2Proof.Machine.execIsoStagedOpen ch s
  | .chamoisTrip x => Sys2Proof.Machine.execChamoisTrip x s
  | .blankingEnd x level => Sys2Proof.Machine.execBlankingEnd x level s
  | .scHard x => Sys2Proof.Machine.execScHard x s
  | .comparatorTrip inp reverse => Sys2Proof.Machine.execComparatorTrip inp reverse s
  | .comparatorRelease inp => Sys2Proof.Machine.execComparatorRelease inp s
  | .olFault ch => Sys2Proof.Machine.execOlFault ch s
  | .kelOpen ch => Sys2Proof.Machine.execKelOpen ch s
  | .hkSample input raw => Sys2Proof.Machine.execHkSample input raw s
  | .profileLoad path q val => Sys2Proof.Machine.execProfileLoad path q val s
  | .profileInvalidate path q val => Sys2Proof.Machine.execProfileInvalidate path q val s
  | .profileReadback path q val => Sys2Proof.Machine.execProfileReadback path q val s
  | .profileDecision q => Sys2Proof.Machine.execProfileDecision q s
  | .followErr ch => Sys2Proof.Machine.execFollowErr ch s
  | .swtrig path q val => Sys2Proof.Machine.execSwtrig path q val s
  | .tracePostStop q => Sys2Proof.Machine.execTracePostStop q s
  | .traceDataRead q => Sys2Proof.Machine.execTraceDataRead q s
  | .rangeRequest path ch val => Sys2Proof.Machine.execRangeRequest path ch val s
  | .ibxRotationStart sp => Sys2Proof.Machine.execIbxRotationStart sp s
  | .calibrationComplete conv rng n s0 s1 refDev => Sys2Proof.Machine.execCalibrationComplete conv rng n s0 s1 refDev s
  | .compareWindowEnd sp n sumTarget sumSpare spareOvld => Sys2Proof.Machine.execCompareWindowEnd sp n sumTarget sumSpare spareOvld s
  | .sourceChange sp => Sys2Proof.Machine.execSourceChange sp s
  | .ibxWindowTimeout sp => Sys2Proof.Machine.execIbxWindowTimeout sp s
  | .sarTrackFit ch => Sys2Proof.Machine.execSarTrackFit ch s
  | .sinc3Output ch v inp => Sys2Proof.Machine.execSinc3Output ch v inp s
  | .ledgerSnap path ch val => Sys2Proof.Machine.execLedgerSnap path ch val s
  | .ledgerClear path ch val => Sys2Proof.Machine.execLedgerClear path ch val s
  | .ledgerDataRead ch => Sys2Proof.Machine.execLedgerDataRead ch s
  | .stepBegin ch => Sys2Proof.Machine.execStepBegin ch s
  | .bankSwap ch => Sys2Proof.Machine.execBankSwap ch s
  | .seqLate ch => Sys2Proof.Machine.execSeqLate ch s
  | .prearm ch => Sys2Proof.Machine.execPrearm ch s
  | .stepGapArm ch => Sys2Proof.Machine.execStepGapArm ch s
  | .cc ch idx d => Sys2Proof.Machine.execCc ch idx d s
  | .cv ch idx d => Sys2Proof.Machine.execCv ch idx d s
  | .cccv ch idx d => Sys2Proof.Machine.execCccv ch idx d s
  | .cp ch idx d => Sys2Proof.Machine.execCp ch idx d s
  | .cr ch idx d => Sys2Proof.Machine.execCr ch idx d s
  | .pulse ch idx d => Sys2Proof.Machine.execPulse ch idx d s
  | .rest ch idx d => Sys2Proof.Machine.execRest ch idx d s
  | .ocv ch idx d => Sys2Proof.Machine.execOcv ch idx d s
  | .dcir ch idx d => Sys2Proof.Machine.execDcir ch idx d s
  | .eis ch idx d => Sys2Proof.Machine.execEis ch idx d s
  | .nichg ch idx d => Sys2Proof.Machine.execNichg ch idx d s
  | .ramp ch idx d => Sys2Proof.Machine.execRamp ch idx d s
  | .wait ch idx d => Sys2Proof.Machine.execWait ch idx d s
  | .hold ch idx d => Sys2Proof.Machine.execHold ch idx d s
  | .gang ch idx d => Sys2Proof.Machine.execGang ch idx d s
  | .update ch idx d => Sys2Proof.Machine.execUpdate ch idx d s
  | .updateApply ch => Sys2Proof.Machine.execUpdateApply ch s
  | .endStep ch idx d => Sys2Proof.Machine.execEndStep ch idx d s
  | .softStartEnd ch => Sys2Proof.Machine.execSoftStartEnd ch s
  | .shortCheck ch => Sys2Proof.Machine.execShortCheck ch s
  | .stepTimeout ch => Sys2Proof.Machine.execStepTimeout ch s
  | .pulsePhaseSwitch ch => Sys2Proof.Machine.execPulsePhaseSwitch ch s
  | .ocvPhaseEnd ch => Sys2Proof.Machine.execOcvPhaseEnd ch s
  | .dcirPhaseEnd ch => Sys2Proof.Machine.execDcirPhaseEnd ch s
  | .eisToneAdmit ch => Sys2Proof.Machine.execEisToneAdmit ch s
  | .eisWindowClose ch => Sys2Proof.Machine.execEisWindowClose ch s
  | .nichgHoldEnd ch => Sys2Proof.Machine.execNichgHoldEnd ch s
  | .ecWindowEnd ch k => Sys2Proof.Machine.execEcWindowEnd ch k s
  | .doorbellPoll => Sys2Proof.Machine.execDoorbellPoll s
  | .summaryReadComplete smask sgen => Sys2Proof.Machine.execSummaryReadComplete smask sgen s
  | .doorbellLineRead p l => Sys2Proof.Machine.execDoorbellLineRead p l s
  | .dbl f => Sys2Proof.Machine.execDbl f s
  | .queueEnable path val => Sys2Proof.Machine.execQueueEnable path val s
  | .descriptorFetch => Sys2Proof.Machine.execDescriptorFetch s
  | .descriptorReadComplete q st words => Sys2Proof.Machine.execDescriptorReadComplete q st words s
  | .completionPost => Sys2Proof.Machine.execCompletionPost s
  | .eventPost => Sys2Proof.Machine.execEventPost s
  | .msixSend v => Sys2Proof.Machine.execMsixSend v s
  | .hostErrClear path val => Sys2Proof.Machine.execHostErrClear path val s
  | .home idx d => Sys2Proof.Machine.execHome idx d s
  | .moveTo idx d => Sys2Proof.Machine.execMoveTo idx d s
  | .press idx d => Sys2Proof.Machine.execPress idx d s
  | .holdForce idx d => Sys2Proof.Machine.execHoldForce idx d s
  | .release idx d => Sys2Proof.Machine.execRelease idx d s
  | .stop idx d => Sys2Proof.Machine.execStop idx d s
  | .splice r => Sys2Proof.Machine.execSplice r s
  | .pennantReturn r p l => Sys2Proof.Machine.execPennantReturn r p l s
  | .arrive f => Sys2Proof.Machine.execArrive f s
  | .ringBarset path high val => Sys2Proof.Machine.execRingBarset path high val s
  | .safetyPduReceived r fromHead p => Sys2Proof.Machine.execSafetyPduReceived r fromHead p s
  | .frameSend r slotBytes reservedFor => Sys2Proof.Machine.execFrameSend r slotBytes reservedFor s
  | .reg f => Sys2Proof.Machine.execReg f s
  | .regr f => Sys2Proof.Machine.execRegr f s
  | .regTimeout p => Sys2Proof.Machine.execRegTimeout p s
  | .rdreq f => Sys2Proof.Machine.execRdreq f s
  | .rdcpl f => Sys2Proof.Machine.execRdcpl f s
  | .rdreqTimeout tag => Sys2Proof.Machine.execRdreqTimeout tag s
  | .wr f => Sys2Proof.Machine.execWr f s
  | .ack f => Sys2Proof.Machine.execAck f s
  | .ackTimeout dst tag => Sys2Proof.Machine.execAckTimeout dst tag s
  | .join f => Sys2Proof.Machine.execJoin f s
  | .assign f => Sys2Proof.Machine.execAssign f s
  | .wrap f => Sys2Proof.Machine.execWrap f s
  | .restore f => Sys2Proof.Machine.execRestore f s
  | .restoreBoundary => Sys2Proof.Machine.execRestoreBoundary s
  | .msix f => Sys2Proof.Machine.execMsix f s
  | .span f => Sys2Proof.Machine.execSpan f s
  | .periodNak f => Sys2Proof.Machine.execPeriodNak f s
  | .bar1Access p off write words count => Sys2Proof.Machine.execBar1Access p off write words count s
  | .enumStart => Sys2Proof.Machine.execEnumStart s
  | .enumEnd hop => Sys2Proof.Machine.execEnumEnd hop s
  | .ringEnumWrite path val => Sys2Proof.Machine.execRingEnumWrite path val s
  | .ringInputDown r why => Sys2Proof.Machine.execRingInputDown r why s
  | .ringInputStable r => Sys2Proof.Machine.execRingInputStable r s
  | .positionLeave p => Sys2Proof.Machine.execPositionLeave p s
  | .ringWakeGo path val => Sys2Proof.Machine.execRingWakeGo path val s
  | .wakeBurst => Sys2Proof.Machine.execWakeBurst s
  | .ringWatchdogExpiry r => Sys2Proof.Machine.execRingWatchdogExpiry r s
  | .motPwmPeriodStart inp => Sys2Proof.Machine.execMotPwmPeriodStart inp s
  | .zeroCrossing t => Sys2Proof.Machine.execZeroCrossing t s
  | .demagEnd t post => Sys2Proof.Machine.execDemagEnd t post s
  | .commutation im => Sys2Proof.Machine.execCommutation im s
  | .zcMiss => Sys2Proof.Machine.execZcMiss s
  | .gearCheck => Sys2Proof.Machine.execGearCheck s
  | .startCheckEnd obs => Sys2Proof.Machine.execStartCheckEnd obs s
  | .activeShortEnd => Sys2Proof.Machine.execActiveShortEnd s
  | .alignEnd fastest => Sys2Proof.Machine.execAlignEnd fastest s
  | .startTimeout => Sys2Proof.Machine.execStartTimeout s
  | .catch_ sector => Sys2Proof.Machine.execCatch sector s
  | .encoderFrame valid raw => Sys2Proof.Machine.execEncoderFrame valid raw s
  | .homeEdge rising dNext num den => Sys2Proof.Machine.execHomeEdge rising dNext num den s
  | .motOverrun => Sys2Proof.Machine.execMotOverrun s
  | .motionFollowErr force => Sys2Proof.Machine.execMotionFollowErr force s
  | .motionTimeout => Sys2Proof.Machine.execMotionTimeout s
  | .motionDwellEnd => Sys2Proof.Machine.execMotionDwellEnd s
  | .motScTrip => Sys2Proof.Machine.execMotScTrip s
  | .motScHard => Sys2Proof.Machine.execMotScHard s
  | .motBothOn leg => Sys2Proof.Machine.execMotBothOn leg s
  | .brkmSwitch vm => Sys2Proof.Machine.execBrkmSwitch vm s
  | .brkmOvl => Sys2Proof.Machine.execBrkmOvl s
  | .brkbSwitch vb => Sys2Proof.Machine.execBrkbSwitch vb s
  | .brkbOvl => Sys2Proof.Machine.execBrkbOvl s
  | .kdrClose => Sys2Proof.Machine.execKdrClose s
  | .kfbCheck kfbA kfbB => Sys2Proof.Machine.execKfbCheck kfbA kfbB s
  | .kfbDiscrepancy isB level => Sys2Proof.Machine.execKfbDiscrepancy isB level s
  | .safKctlReq path val => Sys2Proof.Machine.execSafKctlReq path val s
  | .kdrDrop => Sys2Proof.Machine.execKdrDrop s
  | .ss1End => Sys2Proof.Machine.execSs1End s
  | .menRestore => Sys2Proof.Machine.execMenRestore s
  | .estopFilterExpiry isB => Sys2Proof.Machine.execEstopFilterExpiry isB s
  | .estopDiscrepancy => Sys2Proof.Machine.execEstopDiscrepancy s
  | .trayExchange => Sys2Proof.Machine.execTrayExchange s
  | .faultRaise src ch => Sys2Proof.Machine.execFaultRaise src ch s
  | .faultClear src ch => Sys2Proof.Machine.execFaultClear src ch s
  | .railBreak src => Sys2Proof.Machine.execRailBreak src s
  | .cmpCfgWrite path inp val => Sys2Proof.Machine.execCmpCfgWrite path inp val s
  | .errNRelease => Sys2Proof.Machine.execErrNRelease s
  | .seqWdog => Sys2Proof.Machine.execSeqWdog s
  | .motWdog => Sys2Proof.Machine.execMotWdog s
  | .snapshotComplete => Sys2Proof.Machine.execSnapshotComplete s
  | .dumpStart => Sys2Proof.Machine.execDumpStart s
  | .dumpFinish ok => Sys2Proof.Machine.execDumpFinish ok s
  | .dumpAck path val => Sys2Proof.Machine.execDumpAck path val s
  | .faultInject path val => Sys2Proof.Machine.execFaultInject path val s
  | .bootGo path val fetched => Sys2Proof.Machine.execBootGo path val fetched s
  | .challengeNew path val => Sys2Proof.Machine.execChallengeNew path val s
  | .digestRead => Sys2Proof.Machine.execDigestRead s
  | .registerWrite path off words => Sys2Proof.Machine.execRegisterWrite path off words s
  | .werrClear path val => Sys2Proof.Machine.execWerrClear path val s
  | .dbgHalt path val => Sys2Proof.Machine.execDbgHalt path val s
  | .leStepGo path val => Sys2Proof.Machine.execLeStepGo path val s
  | .unsupportedAccess path off bytes write => Sys2Proof.Machine.execUnsupportedAccess path off bytes write s
  | .latchingLowRead path off => Sys2Proof.Machine.execLatchingLowRead path off s
  | .coreRailReturn rail => Sys2Proof.Machine.execCoreRailReturn rail s
  | .rstNRelease => Sys2Proof.Machine.execRstNRelease s
  | .perstNDeassert => Sys2Proof.Machine.execPerstNDeassert s
  | .pcieLinkChange up => Sys2Proof.Machine.execPcieLinkChange up s
  | .pcieConfigWrite xtag bme msixEn => Sys2Proof.Machine.execPcieConfigWrite xtag bme msixEn s
  | .pllLockLoss => Sys2Proof.Machine.execPllLockLoss s
  | .debugTransportAccess acc => Sys2Proof.Machine.execDebugTransportAccess acc s
  | .reportSigned => Sys2Proof.Machine.execReportSigned s
  | .slotReadbackDone ok => Sys2Proof.Machine.execSlotReadbackDone ok s

end Sys2Proof.Machine
end

