-- ==== Sys2Proof/Safety.lean ====
section
/-!
DEFINITION. What the statements call a safe or a well-kept state, and what they say has not changed between two states.
-/

namespace Sys2Proof.Machine

/-- The register file has its canonical form: keys rising, no entry at its reset value. -/
abbrev State.regsOk (s : State) : Prop := s.regs.ok = true

/-- The safety enables that a safe-state request lowers are low (R619). -/
def State.enablesLow (s : State) : Prop := s.saf.cen = false ∧ s.saf.ien = false ∧ s.saf.men = false

/-- The gangs of a state fit together: the channel a member names as its leader leads, and has it among its members;
a leader's members name it; a gang is two or four channels, aligned (R189, R190). -/
def State.gangsOk (s : State) : Prop :=
  ∀ c : Ch, (s.seq (s.leader c)).lead = none ∧ c ∈ s.members (s.leader c) ∧
    ((s.seq c).lead = none → ∀ m ∈ s.members c, s.leader m = c) ∧
    ((s.seq c).lead ≠ none → (s.seq c).size = 1) ∧
    ((s.seq c).size = 1 ∨ (s.seq c).size = 2 ∨ (s.seq c).size = 4) ∧ c.val % (s.seq c).size = 0

/-! ### What has not changed -/

/-- The parts of the state. -/
inductive Part where
  | regs | written | sys | pins | sec | host | ring | flt | cmp | saf | met | mot | ch | qd | free | out
  deriving DecidableEq, Repr

/-- A part of the state is the same in both. -/
abbrev Part.same (p : Part) (s t : State) : Prop :=
  match p with
  | .regs => t.regs = s.regs
  | .written => t.written = s.written
  | .sys => t.sys = s.sys
  | .pins => t.pins = s.pins
  | .sec => t.sec = s.sec
  | .host => t.host = s.host
  | .ring => t.ring = s.ring
  | .flt => t.flt = s.flt
  | .cmp => t.cmp = s.cmp
  | .saf => t.saf = s.saf
  | .met => t.met = s.met
  | .mot => t.mot = s.mot
  | .ch => t.ch = s.ch
  | .qd => t.qd = s.qd
  | .free => t.free = s.free
  | .out => t.out = s.out

/-- Nothing but the parts `ps`, and not the queue, differs. -/
def State.only (s t : State) (ps : List Part) : Prop := t.pending = s.pending ∧ ∀ p : Part, p ∉ ps → p.same s t

/-- No register field but those listed differs. -/
def State.regsBut (s t : State) (fs : List Fld) : Prop :=
  ∀ g : Fld, (∀ f ∈ fs, f.key ≠ g.key) → t.rd g = s.rd g

/-- No channel but those listed differs. -/
def State.chBut (s t : State) (cs : List Ch) : Prop := ∀ d : Ch, d ∉ cs → t.chan d = s.chan d

end Sys2Proof.Machine
end

