-- ==== Sys2Proof/Certificates/Slice0/Obligations.lean ====
section
/-!
DEFINITION. The statements for the provers. `s.ends c P` says that command `c` completes in state `s`, in a next state of
which `P` holds; `s.only t ps` that nothing but the parts `ps` of the state differs between `s` and `t`, and
`s.regsBut t fs` that no register field but those of `fs` does. -/

namespace Sys2Proof.Machine

/-- The command completes in `s`, in a next state of which `P` holds. -/
abbrev State.ends (s : State) (c : Instr) (P : State → Prop) : Prop := ∃ t, exec c s = .next t ∧ P t

/-- The last completion in the buffer is that of an admin command, with this status and result, and none is running. -/
def State.lastDone (t : State) (op : Nat) (a : AdmHdr) (status result : Nat) : Prop :=
  t.host.adm = none ∧ t.host.cbuf.getLast? = some ⟨.shared, [adminRec a.idx.toNat status op a.tag.toNat result], 1⟩

/-- A frame reaches the device and is taken: nothing of the device is held, its CRC is right, it is for this device, it
is no second sending. -/
abbrev State.hears (s : State) (f : Frame) : Prop :=
  s.idle = false ∧ s.ring.resetting = false ∧ f.crcOk = true ∧ f.retry = false ∧ s.forMe f = true

/-- The reaction of a source holds no reset: neither B nor C. -/
abbrev State.quiet (s : State) (n : Src) : Prop := bitN (s.src n).react 2 = false ∧ bitN (s.src n).react 3 = false

/-- Nothing waits to be written to host memory: no event, no completion. -/
abbrev State.nothingToWrite (s : State) : Prop :=
  s.host.events = [] ∧ s.host.evqNote = false ∧ s.host.cbuf = [] ∧ s.host.owed = [] ∧ s.host.admFin = none

/-- The device heads a ring. -/
abbrev State.headsRing (s : State) : Prop := s.role = 1 ∨ s.role = 2

/-- A write of a word is accepted: the block of the register responds and is in no BLOCK reset, and no rule refuses it. -/
abbrev State.accepts (s : State) (off : Nat) (v : Word) : Prop :=
  s.responds off = true ∧ s.blockHeld off = false ∧ s.refuseCode off v = 0

/-- The reactions of what a safety cycle has found hold no reset, and each is a source of the table. -/
abbrev State.dueQuiet (s : State) : Prop :=
  ∀ e ∈ s.saf.due, s.quiet (Fin.ofNat 128 e.1) ∧ srcListed (Fin.ofNat 128 e.1).val = true

/-- The channel of a found output, 0 for a source of the device. -/
def placeOf (e : Nat × Nat) : Ch := if isChanSrc (Fin.ofNat 128 e.1) then Fin.ofNat 16 e.2 else 0

/-- The transactions of a pass lie in their lanes and in the room that is left, and the pass is in its time. -/
abbrev State.takesAll (s : State) (i : SpendIn) : Prop :=
  i.tx.all (fun x => laneOk s.safShift x.addr && laneOk s.safShift x.data) = true ∧ s.passLate = false ∧
    (s.saf.pass = 2 ∨ (s.saf.bufA.length + i.tx.length ≤ 4096 ∧ s.saf.logA.length + (inputReads 0 i.tx).length ≤ 256))

/-- A calibration of a converter in a range has been accepted or rejected (R281, R282). -/
abbrev State.judged (s t : State) (conv rng : Nat) (s0 s1 : Int) : Prop :=
  match s.calPair rng (512 * s.mClk : Nat) s0 s1 (s.calOf conv rng) with
  | some (g, o) => (t.calLast conv rng).gdev = g ∧ (t.calLast conv rng).ofs = o ∧ (t.calLast conv rng).src = 1 ∧
      (t.calLast conv rng).age = 0
  | none => t.rd MET_FLAGS.CAL_FAIL = 1 ∧ (t.calOf conv rng).failed = true

/-- A compare of a spare has failed (R296): it is counted; a second one with another target withdraws the spare; a
converter that comes back is calibrated once more, and retired after that. -/
abbrev State.misses (s t : State) (sp : SpareId) : Prop :=
  let p := s.spare sp
  let two := p.lastBad.any (fun j => decide (j ≠ p.target))
  t.rd MET_FLAGS.IBX_MISMATCH = 1 ∧ t.rd MET_IBXCNT.MISMATCH = satU MET_IBXCNT.MISMATCH.w (s.rd MET_IBXCNT.MISMATCH + 1) ∧
    (two = true → (t.spare sp).st = .withdrawn ∧ t.active 50 = true) ∧
    (two = false → p.st = .returning → p.again = false → (t.spare sp).st = .carrying ∧ (t.spare sp).again = true) ∧
    (two = false → p.st = .returning → p.again = true → (t.spare sp).st = .substituting)

/-- The step commands with their opcodes (R436). -/
def stepCmds : List (Nat × (Ch → Half → StepDesc → Instr)) :=
  [(1, .cc), (2, .cv), (3, .cccv), (4, .cp), (5, .cr), (6, .pulse), (7, .rest), (8, .ocv), (9, .dcir), (10, .eis),
    (11, .nichg), (12, .ramp), (16, .wait), (17, .hold), (18, .gang), (31, .endStep)]

end Sys2Proof.Machine

section
open Sys2Proof Sys2Proof.Machine

/-! ### The machine as a whole -/

/-- Every command completes: it answers a next state, in which the rest of the queue and the identity of the device are
as before. -/
def Obligations.EveryCommandCompletes : Prop :=
  ∀ (c : Instr) (s : State), ∃ t, exec c s = .next t ∧ t.pending = s.pending ∧ t.sec.uid = s.sec.uid ∧
    t.sec.gradeM = s.sec.gradeM

/-- A step runs the command at the front of the queue on the state whose queue is the rest; with an empty queue the
block idles (the model's choice, log entry 1). -/
def Obligations.StepRunsFrontCommand : Prop :=
  (∀ (c : Instr) (rest : List Instr) (s : State),
    step { s with pending := c :: rest } = exec c { s with pending := rest }) ∧
  ∀ s : State, s.pending = [] → step s = .next s

/-- Every step keeps the canonical form of the register file: keys rising, nothing listed at its reset value. -/
def Obligations.StepKeepsRegisterFile : Prop :=
  ∀ s t : State, s.regs.ok = true → step s = .next t → t.regs.ok = true

/-- After reset the register file has its canonical form, the gangs fit together and the queue is empty. -/
def Obligations.ResetMeetsInvariants : Prop :=
  State.reset.regs.ok = true ∧ State.reset.gangsOk ∧ State.reset.pending = []

/-- What OTP holds only moves forward: no step lowers the rollback counter or the lifecycle, restores a revoked key,
or takes back the owner's keys; and a pending lifecycle is never below the one in force. -/
def Obligations.OtpOnlyMovesForward : Prop :=
  ∀ s t : State, s.sec.life ≤ s.sec.lifePend.getD s.sec.life → step s = .next t →
    s.sec.rbc ≤ t.sec.rbc ∧ s.sec.life ≤ t.sec.life ∧ t.sec.life ≤ t.sec.lifePend.getD t.sec.life ∧
    s.sec.revoke &&& t.sec.revoke = s.sec.revoke ∧ (s.sec.ownerSet = true → t.sec.ownerSet = true)

/-- Every step keeps the gangs of a state fitting together. -/
def Obligations.StepKeepsGangs : Prop :=
  ∀ s t : State, s.gangsOk → step s = .next t → t.gangsOk

/-- The values the spec gives at reset, read as software reads them: identity, mode BOOT, the tick period, the step
state of every channel and the codes of its steps, and the safety enables low. -/
def Obligations.ResetReadsAsSpecified : Prop :=
  let s := State.reset
  s.regWord 0x0000 = 0x11680567 ∧ s.look SYS_MODE.MODE = 1 ∧ s.look SYS_TICK.PERIOD = 2000 ∧
  s.look SYS_TICK.TLM_DIV = 250 ∧ s.look SYS_TICKSTAT.INFORCE = 2000 ∧
  (∀ c : Ch, s.look (CH_SSTAT.STATE c) = 3 ∧ s.look (CH_SSTAT.HOLD_WHY c) = 6 ∧
    s.look (CH_SQIDX.RUN_IDX c) = 0xFFFF ∧ s.look (CH_SBAL.K_BAL c) = 256) ∧
  s.enablesLow

/-! ### Supplies and resets -/

/-- R111: a POR, PIN, CHIP or WARM reset turns every gate off, opens every `ISOn` and takes `KDRA` and `KDRB` low, in the
command that requests it; the events that start one do so where no stronger reset is held or, for a WARM reset, a CHIP
reset waits for its snapshot (R19). -/
def Obligations.FullResetOpensOutputs : Prop :=
  ∀ s : State, s.sys.held = none →
    let off (t : State) : Prop :=
      (∀ c : Ch, (t.chan c).stage.gates = false ∧ (t.chan c).stage.iso = .opened) ∧ t.mot.gatesOff = true ∧
        t.saf.kdr = false
    (∀ (k : RstKind) (cause wake : Nat) (cut : Bool), (k = .warm → s.flt.chipDue = none) →
      off (s.fullReset k cause wake cut)) ∧
    s.ends .por (fun t => off t ∧ t.sys.held = some .por ∧ t.look SYS_RSTCAUSE.CAUSE = 1) ∧
    (∀ r : Rail, s.ends (.brownout r) (fun t => off t ∧ t.sys.held = some .pin ∧ t.look SYS_RSTCAUSE.CAUSE = 3)) ∧
    (s.parked = false →
      s.ends .pinReset (fun t => off t ∧ t.sys.held = some .pin ∧ t.look SYS_RSTCAUSE.CAUSE = 2)) ∧
    (s.isHead = true → s.parked = false → s.flt.chipDue = none →
      s.ends .perstNAssert (fun t => off t ∧ t.sys.held = some .warm ∧ t.look SYS_RSTCAUSE.CAUSE = 8)) ∧
    (s.isHead = true → s.parked = false → s.flt.chipDue = none →
      s.ends .functionLevelReset (fun t => off t ∧ t.sys.held = some .warm ∧ t.look SYS_RSTCAUSE.CAUSE = 7))

/-- The classes of registers through the resets: what survives a kind of reset keeps its value and every other field
reads its reset value. Apart stand the cause and the wake record, which the reset writes, the state of a dump (R703,
R704), the control and state of the trace, which the reset stops first (R261), the overload flags that the partial tick
before it may set (R308), and fields whose written value waits to come into force (R753). -/
def Obligations.ResetKeepsSurvivingFields : Prop :=
  ∀ (s : State) (k : RstKind) (cause wake : Nat) (cut : Bool) (f : Fld), s.sys.held = none →
    (k = .warm → s.flt.chipDue = none) → f.off ≠ 0x1c → f.off ≠ 0x3070 → f.off ≠ 0x501c →
    (∀ e ∈ s.written, e.1.key ≠ f.key) → (∀ q : Quad, f.off ≠ 0x9100 + 0x400 * q.val ∧ f.off ≠ 0x9108 + 0x400 * q.val) →
    (∀ e ∈ s.regs, e.1.key = f.key → e.1 = f) →
    (s.fullReset k cause wake cut).rd f = if survives k f.surv then s.rd f else f.rst

/-- Events of the supplies and pins outside a reset: `VIN` passes `VIN_ON`, so that the always-on domain starts with
`ERR_N` low and the bypasses closed (R125), and a `VIN` that is on stays on; a rail returns; `RST_N` and `PERST_N` rise
on a device that does not wake by them; the PLL loses lock.
R103, R105: a rising edge of `RST_N` ends PARK where its wake bit is set: a PIN reset with cause PIN.
While `VDRV` lies below its threshold no gate output is on (R123): where the filter of comparator 71 trips, every
gate goes off, every `ISOn` opens and the motor's gates go off, whatever the reaction of source 38; with a reaction
without reset and SAFE, as the one after reset, the source is active and the device stays in its mode. A comparator that
is tripped already holds them low and raises nothing again (R691). -/
def Obligations.SupplyAndPinEvents : Prop :=
  (∀ s : State,
    s.ends .vinOn (fun t => t.pins.vin = true ∧ s.only t [.pins, .regs] ∧
      (if s.pins.vin = true then t = s
        else t.look FLT_ERRN.LOW = 1 ∧ t.look RING_STAT.BYPA = 1 ∧ t.look RING_STAT.BYPB = 1 ∧
          s.regsBut t [FLT_ERRN.LOW, RING_STAT.BYPA, RING_STAT.BYPB])) ∧
    (∀ r : Rail, s.ends (.coreRailReturn r) (fun t => r ∉ t.pins.rails ∧ (∀ q, q ≠ r → (q ∈ t.pins.rails ↔ q ∈ s.pins.rails)) ∧
      s.only t [.pins])) ∧
    s.ends .perstNDeassert (fun t => t.pins.perstN = true ∧ s.only t [.pins]) ∧
    (s.parked = false → s.ends .rstNRelease (fun t => t.pins.rstN = true ∧ s.only t [.pins])) ∧
    s.ends .pllLockLoss (fun t => t.look SYS_CLK.LOCK = 0 ∧ t.look SYS_CLKERR.LOCK_LOSS = 1 ∧ s.only t [.regs] ∧
      s.regsBut t [SYS_CLK.LOCK, SYS_CLKERR.LOCK_LOSS])) ∧
  (∀ s : State, s.parked = true → s.pins.rstN = false → s.rb SYS_PARK.WAKE_RST = true →
    s.ends .rstNRelease (fun t => t.sys.held = some .pin ∧ t.look SYS_RSTCAUSE.CAUSE = 2 ∧ t.sys.mode = .boot)) ∧
  (∀ s : State, s.gangsOk →
    ((s.cmpAt 71).filt = false → s.ends .vdrvUnderVoltage (fun t =>
      (∀ c : Ch, (t.chan c).stage.gates = false ∧ (t.chan c).stage.iso = .opened) ∧ t.mot.gatesOff = true ∧
      t.pins.vdrv = false)) ∧
    ((s.cmpAt 71).filt = false → (s.src 38).act = 0 →
      bitN (s.src 38).react 2 = false → bitN (s.src 38).react 3 = false → bitN (s.src 38).react 5 = false →
      s.ends .vdrvUnderVoltage (fun t =>
        t.active 38 = true ∧ (t.src 38).recd = true ∧ (t.cmpAt 71).lat = true ∧ t.sys = s.sys)) ∧
    ((s.cmpAt 71).filt = true → s.ends .vdrvUnderVoltage (fun t =>
      (t.cmpAt 71).filt = true ∧ s.only t [.cmp])))

/-! ### Admin commands -/

/-- The admin commands that end at once, each where its descriptor is at the head of AQ (R446): NOP; RESUME, which marks
the channels in HOLD of its mask and names the others; CLEAR_FAULT, after which a latched `SHOOT_FAULT` that is not
active reads 0; DUMP_NOW, which takes a snapshot, or ends with DUMP_BUSY while one is requested or copied.
REG_READ and REG_WRITE (R444, R446): an offset outside BAR0 or not aligned is BAD_ARG; one in a block in its BLOCK
reset waits; any other is carried out, and a refused write completes with WRITE_REFUSED. -/
def Obligations.AdminCommandsThatEndAtOnce : Prop :=
  (∀ (s : State) (a : AdmHdr),
    (s.admTakes 1 a noArgs = true → s.ends (.nop a) (fun t => t.lastDone 1 a 0 0 ∧
      (t.subq aq).done = ((s.subq aq).done + 1) % 65536 ∧ (t.subq aq).pre = (s.subq aq).pre.drop 1 ∧ s.only t [.host])) ∧
    (∀ mask : BitVec 16, s.admTakes 7 a (maskArgs mask) = true → s.ends (.resume a mask) (fun t =>
      (∀ c : Ch, mask.getLsbD c.val = true → (s.seq c).st = .hold → (t.seq c).resume = true) ∧
      (∀ c : Ch, (mask.getLsbD c.val = false ∨ (s.seq c).st ≠ .hold) → t.seq c = s.seq c) ∧
      t.lastDone 7 a (if ∃ c : Ch, mask.getLsbD c.val = true ∧ (s.seq c).st ≠ .hold then 0x10 else 0)
        (((List.finRange 16).filter (fun c => mask.getLsbD c.val && decide ((s.seq c).st ≠ .hold))).map
          (fun c => 2 ^ c.val)).sum ∧ s.only t [.host, .ch])) ∧
    (∀ c : Ch, s.admTakes 8 a (chArgs c) = true → s.ends (.clearFault a c) (fun t => t.lastDone 8 a 0 0 ∧
      (t.activeIn 9 c = false → t.look (CH_PFLT.SHOOT_FAULT c) = 0) ∧
      (((s.chan c).stage.bothOn.filter (fun u => s.clk < u + 16)).length < 3 → t.activeIn 9 c = false) ∧
      t.activeIn 10 c = false ∧ s.only t [.host, .flt, .regs] ∧ s.regsBut t [CH_PFLT.SHOOT_FAULT c])) ∧
    (s.admTakes 17 a noArgs = true → s.ends (.dumpNow a) (fun t =>
      if s.rb FLT_DUMPSTAT.REQ = true ∨ s.flt.copying = true then
        t.lastDone 17 a 0x14 0 ∧ t.flt.snap = s.flt.snap ∧ s.regsBut t [FLT_DUMPSTAT.MISSED]
      else t.lastDone 17 a 0 0 ∧ t.flt.copying = true ∧ t.flt.snap.map (·.trigger) = some 1))) ∧
  (∀ (s : State) (a : AdmHdr) (off val : Word),
    let bad := off.toNat % 4 ≠ 0 ∨ 65536 ≤ off.toNat
    (s.admTakes 2 a (offArgs off) = true →
      (bad → s.ends (.regRead a off) (fun t => t.lastDone 2 a 2 0 ∧ s.only t [.host])) ∧
      (¬ bad → s.blockHeld off.toNat = true → s.ends (.regRead a off) (fun t => t.host.adm = some ⟨2, a, 0⟩ ∧
        t.host.heldAcc = s.host.heldAcc ++ [.admin 2 a off.toNat 0] ∧ s.only t [.host])) ∧
      (¬ bad → s.blockHeld off.toNat = false →
        s.ends (.regRead a off) (fun t => t.lastDone 2 a 0 (s.admDrop.regGet off.toNat).1.toNat))) ∧
    (s.admTakes 3 a (writeArgs off val) = true →
      (bad → s.ends (.regWrite a off val) (fun t => t.lastDone 3 a 2 0 ∧ s.only t [.host])) ∧
      (¬ bad → s.blockHeld off.toNat = true → s.ends (.regWrite a off val) (fun t => t.host.adm = some ⟨3, a, 0⟩ ∧
        t.host.heldAcc = s.host.heldAcc ++ [.admin 3 a off.toNat val] ∧ s.only t [.host])) ∧
      (¬ bad → s.blockHeld off.toNat = false → s.ends (.regWrite a off val) (fun t => t.lastDone 3 a
        (if (s.admDrop.regPut .regWrite off.toNat val none).2 = 0 then 0 else 3) 0))))

/-- LOAD_IMAGE (R724, R725) and the end of a slot's read-back: outside STANDBY and SAFE it fails with code 0x0C, without
an image with 0x0D, with a failing check with the code of that check; an accepted set of code images waits for the slot
not in use, any other image completes at once or with the code of its content; the read-back makes the set pending. -/
def Obligations.LoadImageOutcomes : Prop :=
  (∀ (s : State) (a : AdmHdr) (len : Word) (m : Manifest), s.admTakes 4 a (lenArgs len) = true →
    (s.sys.mode ≠ .standby → s.sys.mode ≠ .safe →
      s.ends (.loadImage a len (some m)) (fun t => t.lastDone 4 a 0x13 0x0C ∧ t.sec = s.sec)) ∧
    (s.sys.mode = .standby ∨ s.sys.mode = .safe →
      s.ends (.loadImage a len none) (fun t => t.lastDone 4 a 0x13 0x0D ∧ t.sec = s.sec) ∧
      (s.checkMan m .load len.toNat ≠ 0 →
        s.ends (.loadImage a len (some m)) (fun t => t.lastDone 4 a 0x13 (s.checkMan m .load len.toNat) ∧ t.sec = s.sec)) ∧
      (s.checkMan m .load len.toNat = 0 → isCodeSet m = true →
        s.ends (.loadImage a len (some m)) (fun t => t.host.adm = some ⟨4, a, 0⟩ ∧
          t.sec.staged = some (a, imgSetOf m (if (s.sec.img.map (·.slot)).getD 0 = 1 then 2 else 1)) ∧
          t.sec.img = s.sec.img)) ∧
      (s.checkMan m .load len.toNat = 0 → manTypes m = [4] → s.sys.mode = .standby →
        s.ends (.loadImage a len (some m)) (fun t =>
          if psetCheck (bytesWords (manBody m)) = 0 then
            t.lastDone 4 a 0 0 ∧ t.saf.psetNew = some (bytesWords (manBody m))
          else t.lastDone 4 a 0x13 (psetCheck (bytesWords (manBody m))) ∧ t.saf.psetNew = s.saf.psetNew)) ∧
      (s.checkMan m .load len.toNat = 0 → manTypes m = [6] →
        s.ends (.loadImage a len (some m)) (fun t => t.lastDone 4 a 0 0 ∧ t.sec.lifePend = some 3)) ∧
      (s.checkMan m .load len.toNat = 0 → manTypes m = [8] →
        s.ends (.loadImage a len (some m)) (fun t => t.lastDone 4 a 0 0 ∧ t.sec.revoke = s.sec.revoke ||| 3)) ∧
      (s.checkMan m .load len.toNat = 0 → manTypes m = [5] →
        s.ends (.loadImage a len (some m)) (fun t => t.lastDone 4 a 0 0 ∧ t.sec.ownerSet = true ∧ t.sec.lifePend = some 2)))) ∧
  (∀ s : State, s.sharedRoom = true → ∀ (a : AdmHdr) (i : ImgSet), s.sec.staged = some (a, i) →
    s.ends (.slotReadbackDone true) (fun t => t.lastDone 4 a 0 0 ∧ t.look SEC_IMG.PEND = 1 ∧
      t.look SEC_IMG.PEND_SVN = i.svn.toNat ∧ t.sec.staged = none) ∧
    s.ends (.slotReadbackDone false) (fun t => t.lastDone 4 a 0x13 0x0B ∧ t.sec.staged = none ∧ s.only t [.host, .sec]))

/-- REVOKE (R433, R434): a queue whose doorbell does not hold back the tail `FIRST` ends with 0x0F, a `FIRST` that lies
before what is retired or runs with 0x0E, and nothing else changes. Otherwise the queue ends at `FIRST`, its doorbell
holds nothing back, and the command's completion carries how many descriptors were revoked: with a shared slot for every
notice and for itself it enters at once, else it waits behind the notices (R469). A queue above MQ is BAD_ARG. -/
def Obligations.RevokeEndsQueueAtFirst : Prop :=
  ∀ (s : State) (a : AdmHdr) (q : Fin 17) (first : Half),
    (s.admTakes 6 a (revokeArgs (BitVec.ofNat 5 q.val) first) = true →
    let i : QId := ⟨q.val, by omega⟩
    let n := countTo first.toNat (s.subq i).tail
    let ended (t : State) : Prop := (t.subq i).tail = first.toNat ∧ (t.subq i).held = none
    ((s.subq i).held ≠ some first.toNat →
      s.ends (.revoke a (BitVec.ofNat 5 q.val) first) (fun t => t.lastDone 6 a 0x0F 0 ∧ s.only t [.host])) ∧
    ((s.subq i).held = some first.toNat → before16 first.toNat (s.revokeLeast i) = true →
      s.ends (.revoke a (BitVec.ofNat 5 q.val) first) (fun t => t.lastDone 6 a 0x0E 0 ∧ s.only t [.host])) ∧
    ((s.subq i).held = some first.toNat → before16 first.toNat (s.revokeLeast i) = false →
      s.ends (.revoke a (BitVec.ofNat 5 q.val) first) (fun t => ended t ∧
        (t.lastDone 6 a 0 n ∨ (t.host.adm = none ∧ t.host.admFin = some ⟨6, a, 0, n⟩))) ∧
      (s.sharedUse + countTo (s.revokeFrom i first.toNat) (s.subq i).tail < 191 →
        s.ends (.revoke a (BitVec.ofNat 5 q.val) first) (fun t => ended t ∧ t.lastDone 6 a 0 n)))) ∧
    (∀ m : BitVec 5, s.admTakes 6 a (revokeArgs m first) = true → 16 < m.toNat → s.ends (.revoke a m first) (fun t => t.lastDone 6 a 2 0 ∧ s.only t [.host]))

/-- The mode commands (R80, R82, R746): where the guard holds, the change is under way and takes effect at the next tick
boundary, when the command completes.
Out of their mode the mode commands complete with MODE_REFUSED and the mode stays as it is; ENTER_SERVICE consumes
the challenge all the same (R733; that it does so here is the model's reading, log entry 41). -/
def Obligations.ModeCommandsBeginOrAreRefused : Prop :=
  (∀ (s : State) (a : AdmHdr),
    (s.admTakes 9 a noArgs = true → s.sys.mode = .standby → s.runGuard = true →
      s.ends (.enterRun a) (fun t => t.sys.mode = .standby ∧ t.sys.trans = some .run ∧ t.host.adm = some ⟨9, a, 0⟩ ∧
        t.saf.beta = s.rd MET_NTC.BETA ∧ t.saf.rnom = s.rd MET_NTC.RNOM)) ∧
    (s.admTakes 10 a noArgs = true → s.sys.mode = .run → s.calm = true →
      s.ends (.enterStandby a) (fun t => t.sys.mode = .run ∧ t.sys.trans = some .standby ∧ t.host.adm = some ⟨10, a, 0⟩ ∧
        s.only t [.sys, .host])) ∧
    (∀ (len : Word) (m : Option Manifest), s.admTakes 11 a (lenArgs len) = true → s.sys.mode = .standby → (s.authCheck m len.toNat).1 = 0 →
      s.ends (.enterService a len m) (fun t => t.sys.mode = .standby ∧ t.sys.trans = some .service ∧
        t.host.adm = some ⟨11, a, (s.authCheck m len.toNat).2⟩ ∧ t.look SEC_CHALCTL.VALID = 0)) ∧
    (s.admTakes 12 a noArgs = true → s.sys.mode = .service → s.calm = true →
      s.ends (.leaveService a) (fun t => t.sys.mode = .service ∧ t.sys.trans = some .standby ∧
        t.host.adm = some ⟨12, a, 0⟩ ∧ t.look DBG_STAT.HALTED = 0 ∧ t.look DBG_CTL.HALT_SEQ = 0 ∧
        t.look DBG_CTL.HALT_MOT = 0 ∧ t.look DBG_CTL.HALT_SAF = 0 ∧ t.look DBG_CTL.LE_STEP = 0)) ∧
    (s.admTakes 13 a noArgs = true → s.sys.mode = .safe → s.rd SAF_CAUSEV.SF = 0 → s.rd SAF_CAUSEV.OTHER = 0 → s.saf.toggled = true →
      s.ends (.clearSafe a) (fun t => t.sys.mode = .safe ∧ t.sys.trans = some .standby ∧ t.host.adm = some ⟨13, a, 0⟩ ∧
        s.only t [.sys, .host])) ∧
    (s.admTakes 14 a noArgs = true → s.sys.mode = .standby ∨ s.sys.mode = .safe → s.mot.cmd = none → s.gangsOk →
      s.ends (.enterPark a) (fun t => t.sys.mode = s.sys.mode ∧ t.sys.trans = some .park ∧ t.host.adm = some ⟨14, a, 0⟩ ∧
        (∀ c : Ch, (t.chan c).stage.gates = false ∧ (t.chan c).stage.iso = .opened ∧ t.look (CH_ISO.MEAS_CLOSE c) = 0) ∧
        t.mot.gatesOff = true ∧ t.saf.kdr = false))) ∧
  (∀ (s : State) (a : AdmHdr) (len : Word) (m : Option Manifest),
    let kept (t : State) : Prop := t.sys = s.sys
    (s.admTakes 9 a noArgs = true → s.sys.mode ≠ .standby → s.ends (.enterRun a) (fun t => t.lastDone 9 a 4 0 ∧ kept t)) ∧
    (s.admTakes 10 a noArgs = true → s.sys.mode ≠ .run → s.ends (.enterStandby a) (fun t => t.lastDone 10 a 4 0 ∧ kept t)) ∧
    (s.admTakes 11 a (lenArgs len) = true → s.sys.mode ≠ .standby → s.ends (.enterService a len m) (fun t => t.lastDone 11 a 4 0 ∧ kept t ∧
      t.look SEC_CHALCTL.VALID = 0)) ∧
    (s.admTakes 12 a noArgs = true → s.sys.mode ≠ .service → s.ends (.leaveService a) (fun t => t.lastDone 12 a 4 0 ∧ kept t)) ∧
    (s.admTakes 13 a noArgs = true → s.sys.mode ≠ .safe → s.ends (.clearSafe a) (fun t => t.lastDone 13 a 4 0 ∧ kept t)) ∧
    (s.admTakes 14 a noArgs = true → s.sys.mode ≠ .standby → s.sys.mode ≠ .safe → s.ends (.enterPark a) (fun t => t.lastDone 14 a 4 0 ∧ kept t)))

/-- RESET (R107, R110, R446) and the end of a BLOCK reset: CHIP and WARM complete at once and stand on the list of the
resets that are due, nothing else changing; once the head has written the completion of one, its reset is requested: a
WARM reset with cause WARM_ADMIN, and a CHIP reset with cause CHIP_ADMIN where no snapshot is being copied. BLOCK waits
until the reset of its block is done, with its event where events are posted: the gates of the block are off, the stages
of a quad open, its loops open, no other channel changes; the press keeps its position and offsets; the ring's bypasses
close. At the end of the reset the command completes with OK and the block runs again. -/
def Obligations.ResetCommandsAndBlockResets : Prop :=
  (∀ (s : State) (a : AdmHdr),
    (s.admTakes 15 a (resetArgs 1) = true → s.ends (.resetChip a) (fun t => t.lastDone 15 a 0 0 ∧
      t.host.resetAt = s.host.resetAt ++ [(false, a)] ∧ s.only t [.host])) ∧
    (s.admTakes 15 a (resetArgs 2) = true → s.ends (.resetWarm a) (fun t => t.lastDone 15 a 0 0 ∧
      t.host.resetAt = s.host.resetAt ++ [(true, a)] ∧ s.only t [.host])) ∧
    (let told (t : State) (blk : Nat) : Prop := t.host.adm = some ⟨15, a, blk⟩ ∧
      (s.rb HOST_CTL.EVQ_EN = true → (⟨21, 4, blk, s.now⟩ : EvRec) ∈ t.host.events)
    (∀ q : Quad, s.admTakes 15 a (blockArgs (BitVec.ofNat 4 q.val)) = true → s.gangsOk →
      s.ends (.resetBlock a (BitVec.ofNat 4 q.val)) (fun t => told t q.val ∧ t.blkResetting (.quad q) = true ∧
      (∀ c : Ch, c ∈ quadChs q → (t.chan c).stage.gates = false ∧ (t.chan c).stage.iso = .opened ∧
        (t.chan c).loop.closed = false) ∧ (∀ c : Ch, c ∉ quadChs q → t.chan c = s.chan c))) ∧
    (s.admTakes 15 a (blockArgs 4) = true → s.ends (.resetBlock a 4) (fun t => told t 4 ∧ t.blkResetting .mot = true ∧
      t.mot.gatesOff = true ∧ t.mot.cmd = none ∧ t.mot.ext = s.mot.ext ∧ t.mot.ofsP = s.mot.ofsP ∧ t.mot.ofsN = s.mot.ofsN)) ∧
    (s.admTakes 15 a (blockArgs 5) = true → s.ends (.resetBlock a 5) (fun t => told t 5 ∧ t.blkResetting .ring = true ∧
      t.look RING_STAT.BYPA = 1 ∧ t.look RING_STAT.BYPB = 1)))) ∧
  (∀ (s : State) (a : AdmHdr) (warm : Bool) (g : CGroup) (rest : List CGroup), s.idle = false → s.isHead = true →
    s.host.cbuf = g :: rest → g.recs = [adminRec a.idx.toNat 0 15 a.tag.toNat 0] → s.host.resetAt = [(warm, a)] →
    s.host.events = [] → s.host.evqNote = false → s.rb HOST_CTL.CPQ_EN = true → s.rb HOST_ERR.CPQ_ERR = false →
    s.host.flight = none → s.canWrite .completion = true → sub16 s.host.cpqW s.host.cpqC + 1 ≤ s.cpqDepth →
    s.flt.copying = false → s.flt.chipDue = none →
    s.ends .completionPost (fun t => t.sys.held = some (if warm = true then .warm else .chip) ∧
      t.rd SYS_RSTCAUSE.CAUSE = (if warm = true then 9 else 6) ∧ t.out = .hostWrite (s.cpqBase + 32 * (s.host.cpqW % 65536 % s.cpqDepth))
        (wordsBytes (withPhase (phaseOf (s.host.cpqW % 65536) s.cpqDepth) (adminRec a.idx.toNat 0 15 a.tag.toNat 0))) :: s.out)) ∧
  (∀ (s : State) (b : Blk), s.blkResetting b = true → s.host.heldAcc = [] → s.sharedRoom = true →
    ∀ a : AdmHdr, s.host.adm = some ⟨15, a, blkSel b⟩ →
    s.ends (.blockResetDone b) (fun t => t.blkResetting b = false ∧ t.lastDone 15 a 0 0))

/-- ATTEST (R732) and the end of its signing: a buffer below 16,872 bytes is BAD_ARG; otherwise the body of 264 bytes is
taken as the device stands when signing begins, with the nonce, and nothing else changes. When signing ends, the body
and the signatures of 16,608 bytes, whose octets are free values, are written to `ADDR` in order, by a head as one
write, by a member in frames of at most P_max, and the command completes with 16,872; a device that cannot write ends it
with DMA_ERROR. -/
def Obligations.AttestationReport : Prop :=
  (∀ (s : State) (a : AdmHdr) (addr : Long) (len : Word) (nonce : BitVec 256),
    s.admTakes 16 a (attestArgs addr len nonce) = true →
    (len.toNat < 16872 → s.ends (.attest a addr len nonce) (fun t => t.lastDone 16 a 2 0 ∧ s.only t [.host])) ∧
    (16872 ≤ len.toNat → s.ends (.attest a addr len nonce) (fun t => t.host.adm = some ⟨16, a, 0⟩ ∧
      t.sec = { s.sec with attest := some (a, addr.toNat, s.attestBody nonce) } ∧ (s.attestBody nonce).length = 66 ∧
      s.only t [.host, .sec]))) ∧
  (∀ s : State, s.sharedRoom = true → ∀ (a : AdmHdr) (addr : Nat) (body : List Word), s.sec.attest = some (a, addr, body) →
    (s.canWrite .other = false → s.ends .reportSigned (fun t => t.sec.attest = none ∧ t.lastDone 16 a 0x12 0 ∧
      s.only t [.sec, .host])) ∧
    (s.canWrite .other = true →
      (s.isHead = true → s.ends .reportSigned (fun t => t.sec.attest = none ∧ t.lastDone 16 a 0 16872 ∧
        (∃ sig : List Word, sig.length = 4152 ∧ t.out = .hostWrite addr (wordsBytes (body ++ sig)) :: s.out) ∧
        s.only t [.sec, .host, .free, .out])) ∧
      (s.isHead = false → s.ring.failed = [] → s.ends .reportSigned (fun t => t.sec.attest = none ∧ t.lastDone 16 a 0 16872 ∧
        (∃ (sig : List Word) (new : List Frame), sig.length = 4152 ∧ t.ring.outq = s.ring.outq ++ new ∧
          (new.map (·.payload)).flatten = body ++ sig ∧ (∀ f ∈ new, f.type = 5 ∧ f.dst = 0 ∧ 4 * f.payload.length ≤ max 4 s.pMax) ∧
          new.map (·.arg) = (List.range new.length).map (fun i => BitVec.ofNat 64 (addr + 4 * s.pWords * i))) ∧
        s.only t [.sec, .host, .free, .ring]))))

/-- PARK (R97 to R105): entry ends once the completion has been written, with the bypasses closed and the enables low;
a wake event that its bit enables ends PARK with cause PARK_EXIT and its code; each park tick leaves the device parked
and trips a comparator of VM that lay beyond its threshold in five of its last seven samples. -/
def Obligations.ParkEntryTickAndWake : Prop :=
  (∀ s : State, s.sys.parkDone = true → s.sys.mode ≠ .park → s.host.cbuf.any holdsPark = false → s.sys.wake = none →
    s.ends .parkEntryFinish (fun t => t.sys.mode = .park ∧ t.look RING_STAT.BYPA = 1 ∧ t.look RING_STAT.BYPB = 1 ∧
      t.enablesLow)) ∧
  (∀ s : State, s.parked = true →
    (s.rb SYS_PARK.WAKE_TRAY = true → s.ends .parkWakeTray (fun t =>
      t.sys.held = some .pin ∧ t.look SYS_RSTCAUSE.CAUSE = 4 ∧ t.look SYS_RSTCAUSE.WAKE = 1)) ∧
    (s.rb SYS_PARK.WAKE_VB = true → s.ends .parkWakeVb (fun t =>
      t.sys.held = some .pin ∧ t.look SYS_RSTCAUSE.CAUSE = 4 ∧ t.look SYS_RSTCAUSE.WAKE = 2)) ∧
    (∀ r : RingId, s.rb SYS_PARK.WAKE_RING = true → s.ends (.parkWakeRing r) (fun t =>
      t.sys.held = some .pin ∧ t.look SYS_RSTCAUSE.CAUSE = 4 ∧
        t.look SYS_RSTCAUSE.WAKE = match r with | .a => 3 | .b => 4)) ∧
    (∀ i : ParkIn, s.ends (.parkTick i) (fun t => t.parked = true ∧ s.only t [.sys, .cmp, .regs])) ∧
    (∀ i : ParkIn, i.vm = .beyond → 4 ≤ ((s.sys.parkHist.getD 32 []).take 6).count .beyond →
      s.ends (.parkTick i) (fun t => (t.cmpAt 68).filt = true)))

/-! ### The channel power stage -/

/-- A PWM period begins (R158, R159, R184, R689, R753): stage setup written since comes into force; both gates run again
unless the short-circuit comparator is still tripped (`trip`) or in its initial state, which suspends the following-error
supervision of the tick (R241); a latched bit whose comparator has released clears
with `LATCH` = 0. An edge of the switch node adapts the drive code of its gate within its limits (R137). -/
def Obligations.PwmPeriodStartAndDriveAdaptation : Prop :=
  ∀ (s : State) (c : Ch),
    (∀ trip : Bool, s.ends (.pwmPeriodStart ⟨c, trip⟩) (fun t =>
      let hold := trip || (s.cmpAt (chCmp c 0)).init
      (t.chan c).loop = (if hold = true then (s.chan c).loop.suspend else (s.chan c).loop) ∧
      (t.chan c).stage.cut = hold ∧ (t.chan c).stage.trip = false ∧
      (t.chan c).stage.tripRun = (if (s.chan c).stage.trip || hold then (s.chan c).stage.tripRun else 0) ∧
      (∀ k : Fin 4, (t.cmpAt (chCmp c k)).lat = ((s.cmpAt (chCmp c k)).lat &&
        ((s.cmpAt (chCmp c k)).filt || s.rb (CMP_CFG.LATCH (chCmp c k))))) ∧
      s.chBut t [c] ∧ s.only t [.regs, .written, .ch, .cmp, .flt, .host] ∧
      t.written = s.written.filter (fun e => !latePwm c e.1) ∧
      (∀ g : Fld, (∀ f : Fld, latePwm c f = true → f.key ≠ g.key) → t.rd g = s.rd g) ∧
      (∀ (f : Fld) (v : Nat), s.written.filter (fun e => latePwm c e.1) = [(f, v)] → t.rd f = v % 2 ^ f.w) ∧
      (t.chan c).stage.gates = (s.chan c).stage.gates ∧ (t.chan c).stage.iso = (s.chan c).stage.iso)) ∧
    (∀ (rising : Bool) (m : Bool) (x : Byte),
      let code := if rising then CH_GDST.CODE_H c else CH_GDST.CODE_L c
      let tsw := if rising then CH_GDST.TSW_RISE c else CH_GDST.TSW_FALL c
      s.ends (.gdAdapt c rising m x) (fun t =>
        (m = true → t.rd tsw = x.toNat) ∧
        (s.rb (CH_GD.ADAPT_EN c) = false → t.rd code = s.rd (CH_GD.GD_INIT c) % 16) ∧
        (s.rb (CH_GD.ADAPT_EN c) = true → m = true → s.rd (CH_GD.GD_MIN c) ≤ s.rd (CH_GD.GD_MAX c) →
          s.rd (CH_GD.GD_MAX c) < 16 → s.rd (CH_GD.GD_MIN c) ≤ t.rd code ∧ t.rd code ≤ s.rd (CH_GD.GD_MAX c) ∧
          (2 * (s.rd (CH_GD.TSW_TARGET c) + 2) < x.toNat → s.rd (CH_GD.GD_MIN c) ≤ s.rd code →
            s.rd code < s.rd (CH_GD.GD_MAX c) → t.rd code = s.rd code + 1)) ∧
        s.only t [.regs] ∧ s.regsBut t [code, tsw, CH_GDST.GD_AT_BOUND c]))

/-- Chamois (R158 to R160, R241): a trip of a channel whose PWM runs, the first of its period, takes both gates off for
the rest of the period, counts, and suspends the following-error supervision of the tick; the step goes on unless the
trips persist or another gang tripped with it. A level at the end of blanking acts as a trip, its absence as nothing. -/
def Obligations.ChamoisTripCutsThePeriod : Prop :=
  ∀ (s : State) (c : Ch) (at_ : Half),
    ((s.chan c).stage.gates = true → (s.chan c).stage.trip = false → s.busSc c (s.cycleAt at_) = false →
      (s.chan c).stage.tripRun + 1 < s.rd (CH_SC.SC_LIMIT c) →
      let cuts (t : State) : Prop := (t.chan c).stage.cut = true ∧ (t.chan c).stage.trip = true ∧
        (t.chan c).stage.tripRun = (s.chan c).stage.tripRun + 1 ∧ (t.chan c).stage.gates = true ∧
        (t.chan c).stage.tripAt = some (s.cycleAt at_) ∧
        (t.chan c).loop.feSusp = true ∧ (t.chan c).loop.feCnt = (s.chan c).loop.fe0 ∧
        t.rd (CH_PCNT.SC_CNT c) = satU (CH_PCNT.SC_CNT c).w (s.rd (CH_PCNT.SC_CNT c) + 1) ∧ t.seq c = s.seq c ∧
        s.chBut t [c] ∧ s.only t [.ch, .regs] ∧ s.regsBut t [CH_PCNT.SC_CNT c]
      s.ends (.chamoisTrip ⟨c, at_⟩) cuts ∧ s.ends (.blankingEnd ⟨c, at_⟩ true) cuts) ∧
    ((s.chan c).stage.gates = false ∨ (s.chan c).stage.trip = true → exec (.chamoisTrip ⟨c, at_⟩) s = .next s) ∧
    exec (.blankingEnd ⟨c, at_⟩ true) s = exec (.chamoisTrip ⟨c, at_⟩) s ∧ exec (.blankingEnd ⟨c, at_⟩ false) s = .next s

/-- The faults that stop a gang: persistent Chamois trips, the unblanked threshold, both gates commanded on three times
in 16 ticks, an overload, a reverse or under-voltage trip. The gates of every member are off afterwards, and `ISOn` is
open where the fault says so; where the source's reaction resets nothing, the source is active in the channel.
Two gangs that trip less than a tick apart make `BUS_SC` (R162, R163): every gate off and every `ISOn` open. -/
def Obligations.ChannelFaultsStopTheGang : Prop :=
  (∀ (s : State) (c : Ch) (at_ : Half), s.gangsOk →
    let off (t : State) : Prop := ∀ d ∈ s.gang c, (t.chan d).stage.gates = false
    let opened (t : State) : Prop := ∀ d ∈ s.gang c, (t.chan d).stage.iso = .opened
    let named (n : Src) (t : State) : Prop :=
      s.quiet n → s.quiet 13 → t.activeIn n c = true
    ((s.chan c).stage.gates = true → (s.chan c).stage.trip = false →
      s.rd (CH_SC.SC_LIMIT c) ≤ (s.chan c).stage.tripRun + 1 →
      s.ends (.chamoisTrip ⟨c, at_⟩) (fun t => off t ∧ opened t ∧ named 1 t)) ∧
    s.ends (.scHard ⟨c, at_⟩) (fun t => off t ∧ opened t ∧ named 2 t) ∧
    s.ends (.bothOnCommand c) (fun t =>
      if ((s.chan c).stage.bothOn.filter (fun u => s.clk < u + 16)).length < 2 then
        (t.chan c).stage.cut = true ∧ s.only t [.ch, .regs] ∧ s.regsBut t [CH_PCNT.SHOOT_REQ c]
      else off t ∧ opened t ∧ named 9 t) ∧
    ((if s.rd (CH_OL.OL_MODE c) = 0 then (s.cmpAt (chCmp c 1)).lat = true
      else s.rd (CH_OL.OL_TIME c) ≤ s.rd (CH_PCNT.OL_ACC c)) →
      s.ends (.olFault c) (fun t => off t ∧ named 3 t)) ∧
    ((s.cmpAt (chCmp c 1)).filt = false → s.rd (CH_OL.OL_MODE c) = 0 →
      ∀ rev : Bool, s.ends (.comparatorTrip (chCmp c 1) rev) (fun t => off t ∧ named 3 t)) ∧
    ((s.cmpAt (chCmp c 3)).filt = false → (s.seq c).lead = none →
      s.ends (.comparatorTrip (chCmp c 3) true) (fun t => off t ∧ opened t ∧ named 5 t) ∧
      ((s.chan c).loop.iEff < 0 → s.ends (.comparatorTrip (chCmp c 3) false) (fun t => off t ∧ named 4 t)))) ∧
  (∀ (s : State) (c : Ch) (at_ : Half), s.gangsOk → s.busSc c (s.cycleAt at_) = true →
    ((s.chan c).stage.gates = true → (s.chan c).stage.trip = false →
      s.ends (.chamoisTrip ⟨c, at_⟩) (fun t => ∀ d : Ch, (t.chan d).stage.gates = false ∧ (t.chan d).stage.iso = .opened)) ∧
    s.ends (.scHard ⟨c, at_⟩) (fun t => ∀ d : Ch, (t.chan d).stage.gates = false ∧ (t.chan d).stage.iso = .opened))

/-- A closure of `ISOn` (R147, R148, R149, R151, R152, R177): the confirmation pulse decides it; closed, the drive codes
take `GD_INIT` and the hold-off of each channel runs until its own end; a staged opening ends with `ISOn` open. A
measurement closure that any member of the gang asks for begins at the end of a test pulse or of a staged opening (the
model's choice, log entry 143), all of the gang's switches together on the leader's pulse (R192, R195), after those that
are closed alone have opened (the model's choice, log entry 156). -/
def Obligations.IsolationClosesAndOpens : Prop :=
  ∀ (s : State) (c : Ch), s.gangsOk →
    let again := s.sys.mode = .standby ∧ ∃ d ∈ s.gang c, s.rb (CH_ISO.MEAS_CLOSE d) = true
    let l := s.leader c
    (∀ diff : Int, (s.chan c).stage.pulse = some .close →
      (kelInside diff = true → s.mayClose c diff = true →
        s.ends (.kelvinPulseEnd c diff) (fun t => (t.chan c).stage.pulse = none ∧
          ∀ d ∈ s.gang c, (t.chan d).stage.iso = .closed ∧ (t.chan d).stage.settle = true ∧
            t.rd (CH_GDST.CODE_H d) = s.rd (CH_GD.GD_INIT d) % 16 ∧
            t.rd (CH_GDST.CODE_L d) = s.rd (CH_GD.GD_INIT d) % 16)) ∧
      (kelInside diff = false ∨ s.mayClose c diff = false →
        s.ends (.kelvinPulseEnd c diff) (fun t => ∀ d ∈ s.gang c, (t.chan d).stage.iso = .opened))) ∧
    (∀ diff : Int, (s.chan c).stage.pulse = some .test → l = c → kelInside diff = true →
      s.ends (.kelvinPulseEnd c diff) (fun t => t.rb (CH_PSTAT.KEL_OK c) = true ∧
        (again ∧ (∀ d ∈ s.gang c, (s.chan d).stage.iso = .opened) →
          (t.chan c).stage.pulse = some .close ∧ ∀ d ∈ s.gang c, (t.chan d).stage.iso = .closing) ∧
        (¬ again → (t.chan c).stage = { (s.chan c).stage with pulse := none } ∧ s.chBut t [c]) ∧
        s.chBut t (s.gang c) ∧ s.only t [.ch, .regs, .flt] ∧ s.regsBut t [CH_PSTAT.KEL_OK c])) ∧
    ((s.chan c).stage.settle = true → (s.chan c).stage.iso = .closed →
      s.ends (.isoSettleEnd c) (fun t => (t.chan c).stage = { (s.chan c).stage with settle := false } ∧
        s.chBut t [c] ∧ s.only t [.ch])) ∧
    ((s.chan c).stage.iso = .opening →
      s.ends (.isoStagedOpen c) (fun t =>
        (¬ again → ∀ d ∈ s.gang c, (t.chan d).stage.iso = if (s.chan d).stage.iso = .opening then .opened else (s.chan d).stage.iso) ∧
        (again → (s.chan l).stage.pulse = none →
          (∀ d ∈ s.gang c, (s.chan d).stage.iso = .opened ∨ (s.chan d).stage.iso = .opening) →
          (t.chan l).stage.pulse = some .close ∧ ∀ d ∈ s.gang c, (t.chan d).stage.iso = .closing) ∧
        (again → ∀ d ∈ s.gang c, (s.chan d).stage.iso = .closed → (t.chan d).stage.iso = .opening) ∧
        s.chBut t (s.gang c) ∧ s.only t [.ch]))

/-- Contact is lost while a step runs (R178, R307): the gates go off and `ISOn` opens, `KEL_OK` reads 0, `KEL_OPEN` is
active and exclusion begins; the channel enters HOLD, at once unless the step is due to end at this boundary (R57).
Premises leave out a reaction that resets the block or the chip. -/
def Obligations.KelvinOpenEndsTheStep : Prop :=
  ∀ (s : State) (c : Ch), s.gangsOk → s.rb (CH_SENSE.KEL_EN c) = true → (s.seq c).run.any (fun r => !r.failed) = true →
    (s.seq c).lead = none → s.quiet 6 →
    s.ends (.kelOpen c) (fun t =>
      ((s.seq c).run.any (fun r => r.ending.any (fun e => e.at_ = .due)) = false →
        (t.seq c).st = .hold ∧ (t.seq c).why = 2 ∧ (t.seq c).run = none) ∧
      (∀ d ∈ s.gang c, (t.chan d).stage.gates = false ∧
      (t.chan d).stage.iso = .opened) ∧ t.rb (CH_PSTAT.KEL_OK c) = false ∧ (t.chan c).met.excl = true ∧ t.activeIn 6 c = true)

/-- The filters of the comparators (R687, R689, R691): a trip sets the state and the latched bit of a comparator that was
not tripped, a release ends it and the initial state; the over-voltage comparators of a channel open it at once and
confirm by a pulse; those of VM and VB turn their chopper on, and off again as it is allowed; that of `VDRV` holds every
gate low (R123); a trip of a comparator that is tripped, its initial state among them, raises nothing. -/
def Obligations.ComparatorTripsAndReleases : Prop :=
  ∀ (s : State) (rev : Bool),
    (∀ i : CmpId, s.ends (.comparatorRelease i) (fun t => (t.cmpAt i).raw = false ∧ (t.cmpAt i).filt = false ∧
      (t.cmpAt i).init = false ∧ (t.cmpAt i).lat = (s.cmpAt i).lat ∧ (∀ j : CmpId, j ≠ i → t.cmpAt j = s.cmpAt j) ∧
      s.only t [.cmp, .regs, .saf, .mot, .pins] ∧
      (i.val < 64 → i.val % 4 ≠ 3 → s.only t [.cmp]) ∧ (64 ≤ i.val → i.val ≤ 67 → s.only t [.cmp]) ∧
      (i.val = 70 → s.only t [.cmp]) ∧
      (i.val = 68 → s.active 24 = true → t.rb MOT_STAT.BRKM = false ∧ t.mot.brkm.since = none) ∧
      (i.val = 69 → t.saf.brkbForce = false ∧ (s.active 36 = true → t.saf.brkb.since = none)) ∧
      (i.val = 71 → t.pins.vdrv = true))) ∧
    (∀ c : Ch, s.ends (.comparatorRelease (chCmp c 3)) (fun t => t.rb (CH_PSTAT.REV c) = false ∧ s.only t [.cmp, .regs] ∧
      s.regsBut t [CH_PSTAT.REV c])) ∧
    (∀ i : CmpId, (s.cmpAt i).filt = true ∨ (64 ≤ i.val ∧ i.val ≤ 66) → s.ends (.comparatorTrip i rev) (fun t =>
      (t.cmpAt i).raw = true ∧ (t.cmpAt i).filt = true ∧ s.only t [.cmp, .regs] ∧
      s.regsBut t [CH_PSTAT.REV (Fin.ofNat 16 (i.val / 4))] ∧
      (i.val % 4 ≠ 3 ∨ 64 ≤ i.val ∨ rev = false → s.only t [.cmp]))) ∧
    (∀ c : Ch, (s.cmpAt (chCmp c 0)).filt = false → s.ends (.comparatorTrip (chCmp c 0) rev) (fun t =>
      (t.cmpAt (chCmp c 0)).filt = true ∧ (t.cmpAt (chCmp c 0)).lat = true ∧ s.only t [.cmp])) ∧
    (∀ c : Ch, (s.cmpAt (chCmp c 1)).filt = false → s.rd (CH_OL.OL_MODE c) ≠ 0 →
      s.ends (.comparatorTrip (chCmp c 1) rev) (fun t => (t.cmpAt (chCmp c 1)).lat = true ∧
        (t.chan c).stage.olTick = true ∧ s.chBut t [c] ∧ s.only t [.cmp, .ch])) ∧
    (∀ c : Ch, s.gangsOk → (s.cmpAt (chCmp c 2)).filt = false → (s.seq c).lead = none →
      s.ends (.comparatorTrip (chCmp c 2) rev) (fun t => (t.chan c).stage.pulse = some .ov ∧
        (∀ d ∈ s.gang c, (t.chan d).stage.gates = false ∧ (t.chan d).stage.iso = .opened) ∧ s.only t [.cmp, .ch])) ∧
    ((s.cmpAt 67).filt = false → s.ends (.comparatorTrip 67 rev) (fun t =>
      (t.cmpAt 67).filt = true ∧ (t.cmpAt 67).lat = true ∧ s.only t [.cmp])) ∧
    ((s.cmpAt 68).filt = false → s.quiet 68 → s.ends (.comparatorTrip 68 rev) (fun t =>
      t.rb MOT_STAT.BRKM = true ∧ t.mot.brkm.since.isSome = true ∧ t.active 68 = true)) ∧
    ((s.cmpAt 69).filt = false → s.quiet 68 → s.ends (.comparatorTrip 69 rev) (fun t =>
      t.saf.brkbForce = true ∧ t.saf.brkb.since.isSome = true ∧ t.active 68 = true)) ∧
    ((s.cmpAt 70).filt = false → s.quiet 37 → s.ends (.comparatorTrip 70 rev) (fun t => t.active 37 = true)) ∧
    ((s.cmpAt 71).filt = false → s.quiet 38 → s.gangsOk → s.ends (.comparatorTrip 71 rev) (fun t =>
      t.pins.vdrv = false ∧ t.mot.gatesOff = true ∧ t.active 38 = true ∧
      ∀ d : Ch, (t.chan d).stage.gates = false ∧ (t.chan d).stage.iso = .opened))

/-! ### The loop engines -/

/-- R237: with a checkpoint that speculation wrote, the output of a slot, committed or rolled back, is the one that the
full law gives from the checkpoint for the same sample, in the compare value and in every state; after a bank swap,
under the clamp bounds of the new profile. The second pass, in any of its lane shifts, computes the same from its own
copy of the checkpoint, where the law keeps the headroom of the 48-bit accumulator (R242, R253). -/
def Obligations.CommitEqualsFullComputation : Prop :=
  ∀ (p : Prof) (slot : Fin 8) (bank : Bool) (l outer : Law) (oSat : Sat) (dff lo hi yHat rHat : Int)
    (iHat mA mB dff2 lo2 hi2 y : Int),
    let k := speculate p slot bank l outer oSat dff lo hi yHat rHat iHat mA mB
    (formOut p (some k) false dff2 lo2 hi2 y).out = evalLaw p p.tmpl 0 l dff lo hi y ∧
    (formOut p (some k) true dff2 lo2 hi2 y).out = evalLaw p p.tmpl 0 l dff lo2 hi2 y ∧
    (∀ lane : Nat, lane ≤ 8 → (lawAcc p p.tmpl 0 l dff y).natAbs < 2 ^ 47 → (lawXi p p.tmpl 0 l y).natAbs < 2 ^ 47 →
      checkOut p (some k) false dff2 lo2 hi2 y lane = evalLaw p p.tmpl 0 l dff lo hi y ∧
      checkOut p (some k) true dff2 lo2 hi2 y lane = evalLaw p p.tmpl 0 l dff lo2 hi2 y)

/-- The three causes of a rollback (R232 to R234), in their order: a bank swap, a sample outside the trust window, a
saturation state that differs from the predicted one; without any of them the slot commits. -/
def Obligations.RollbackCauses : Prop :=
  ∀ (p : Prof) (k : Ckpt) (swapped : Bool) (dff lo hi y : Int),
    let f := formOut p (some k) swapped dff lo hi y
    (f.how = 1 ∧ f.reason = 1 ↔ swapped = true) ∧
    (f.how = 1 ∧ f.reason = 2 ↔ swapped = false ∧ p.tw < (y - k.yHat).natAbs) ∧
    (f.how = 1 ∧ f.reason = 3 ↔ swapped = false ∧ (y - k.yHat).natAbs ≤ p.tw ∧ (commitLaw p p.tmpl k y).sat ≠ k.sat) ∧
    (f.how = 0 ↔ swapped = false ∧ (y - k.yHat).natAbs ≤ p.tw ∧ (commitLaw p p.tmpl k y).sat = k.sat)

/-- The slot of a channel (R45, R46, R212, R229, R242 to R245): with its gates on, a fresh control sample and a valid
profile, and no mismatch of the second pass, the value of the slot waits for the load instant, the law takes its new
state and the next checkpoint is written with the checker's copy; with its gates off the slot computes nothing; a
mismatch withholds the value and stops the gang. A VB sample that came with it is the one its feed-forward uses. -/
def Obligations.ControlSlotComputes : Prop :=
  ∀ (s : State) (c : Ch) (port : Option LaneBit) (vb : Option Int),
    let w : State := { s with met := { s.met with vbSar := vb.getD s.met.vbSar } }
    ((s.chan c).loop.fresh = false ∨ (s.chan c).loop.done = true ∨ s.leStepped (quadOf c) = true →
      exec (.controlSampleValid c ⟨port, vb⟩) s = .next w) ∧
    ((s.chan c).loop.fresh = true → (s.chan c).loop.done = false → s.leStepped (quadOf c) = false →
    ((s.chan c).stage.gates = false →
      s.ends (.controlSampleValid c ⟨port, vb⟩) (fun t => (t.chan c).loop = { (s.chan c).loop with done := true, last := 3 } ∧
        s.chBut t [c] ∧ t.met = w.met ∧ s.only t [.ch, .met])) ∧
    (∀ p : Prof, s.profAt c (s.chan c).loop.act.slot = some p → (s.chan c).stage.gates = true →
      let f := w.formed c p
      (w.mismatch2 c p f port = false →
        s.ends (.controlSampleValid c ⟨port, vb⟩) (fun t => (t.chan c).loop.value = some f.out.u ∧
          (t.chan c).loop.law = f.out.next ∧ (t.chan c).loop.u0 = f.out.u ∧ (t.chan c).loop.closed = true ∧
          (t.chan c).loop.done = true ∧ (t.chan c).loop.last = f.how ∧ (t.chan c).loop.ck.isSome = true ∧
          (t.chan c).loop.ckB = (t.chan c).loop.ck ∧ t.met = w.met ∧
          s.only t [.ch, .qd, .regs, .free, .met])) ∧
      (w.mismatch2 c p f port = true → s.gangsOk →
        s.ends (.controlSampleValid c ⟨port, vb⟩) (fun t => (t.chan c).loop.value = none ∧
          ∀ d ∈ s.gang c, (t.chan d).stage.gates = false ∧ (t.chan d).stage.iso = .opened))))

/-- A slot that overran (R47, R246), before or after its commit, withholds its value, and at the load instant the gang's
gates go off and `ISOn` opens; otherwise the value of the tick acts from the load instant on. -/
def Obligations.OverrunsAndLoadInstants : Prop :=
  ∀ (s : State) (c : Ch),
    (((s.chan c).loop.slot = true ∨ ((s.chan c).stage.gates = true ∧ (s.chan c).loop.done = false)) →
      (s.chan c).loop.overran = false → s.leStepped (quadOf c) = false →
      s.quiet 11 → bitN (s.src 11).react 5 = false →
      s.ends (.leOverrun c) (fun t => (t.chan c).loop.held = true ∧ (t.chan c).loop.value = none ∧
        (t.chan c).loop.overruns = satU 4 ((s.chan c).loop.overruns + 1) ∧ (t.chan c).stage = (s.chan c).stage ∧
        t.activeIn 11 c = true ∧ s.chBut t [c])) ∧
    ((s.chan c).loop.held = true → s.gangsOk →
      s.ends (.loadInstant c) (fun t => (t.chan c).loop.held = false ∧
        ∀ d ∈ s.gang c, (t.chan d).stage.gates = false ∧ (t.chan d).stage.iso = .opened)) ∧
    (∀ u : Int, (s.chan c).loop.held = false → (s.chan c).loop.value = some u → s.leStepped (quadOf c) = false →
      s.ends (.loadInstant c) (fun t => (t.chan c).loop = { (s.chan c).loop with loaded := u, value := none } ∧
        s.chBut t [c] ∧ s.only t [.ch]))

/-- Profiles (R220, R221, R254, R445): LOAD_PROFILE joins the profile command of its quad, or ends where the image could
not be read; the decision stores an admitted profile in a slot that no step uses, refuses any other with the code of
what failed, and completes the admin command that asked for it. -/
def Obligations.ProfileLoadsAreDecided : Prop :=
  (∀ (s : State) (a : AdmHdr) (q : Quad) (k : Fin 8), s.admTakes 5 a (loadArgs q k) = true → (bget s.qd q).pcmd = none →
    s.ends (.loadProfile a q k none) (fun t => t.lastDone 5 a 0x12 0 ∧ s.only t [.host]) ∧
    (∀ ws : List Word, s.ends (.loadProfile a q k (some ws)) (fun t =>
      (bget t.qd q).pcmd = some (.load k (profOf ws).1 (profOf ws).2 (some a)) ∧ t.host.adm = some ⟨5, a, 0⟩ ∧
      t.look (QD_PCMD.RESULT q) = 0xFF ∧ s.only t [.host, .qd, .regs] ∧ s.regsBut t [QD_PCMD.RESULT q]))) ∧
  (∀ (s : State) (q : Quad), ∀ (k : Fin 8) (p : Prof) (rsv : Bool) (a : Option AdmHdr),
    (bget s.qd q).pcmd = some (.load k p rsv a) →
    let res := if p.judge rsv s.per = 0 ∧ s.slotBusy q k.val = true then 2 else p.judge rsv s.per
    s.ends (.profileDecision q) (fun t => (bget t.qd q).pcmd = none ∧ t.rd (QD_PCMD.RESULT q) = res % 256 ∧
      (res = 0 → bget (bget t.qd q).slots k = some p) ∧ (res ≠ 0 → (bget t.qd q).slots = (bget s.qd q).slots) ∧
      (∀ j : Fin 8, j ≠ k → bget (bget t.qd q).slots j = bget (bget s.qd q).slots j) ∧
      (∀ h : AdmHdr, a = some h → if s.sharedRoom = true then t.lastDone 5 h (profStatus res) res
        else t.host.admFin = some ⟨5, h, profStatus res, res⟩) ∧ s.only t [.host, .qd, .regs])) ∧
  (∀ (s : State) (q : Quad) (k : Fin 8), (bget s.qd q).pcmd = some (.invalidate k) →
    s.ends (.profileDecision q) (fun t => (bget t.qd q).pcmd = none ∧
      (if s.slotBusy q k.val = true then t.rd (QD_PCMD.RESULT q) = 2 ∧ (bget t.qd q).slots = (bget s.qd q).slots
       else t.rd (QD_PCMD.RESULT q) = 0 ∧ bget (bget t.qd q).slots k = none) ∧ s.only t [.qd, .regs]))

/-- A SAR sample (R41, R42, R318): the first of a tick is the control sample, one of the second converter is sample B,
and each widens the telemetry peaks unless it is flagged.
Following-error supervision (R240, R57): a count above `FE_TIME` ends the step of the gang with FOLLOW_ERR, and the
channel enters HOLD; where the step is due to end at this boundary, the one that follows ends so. -/
def Obligations.SarSamplesAndFollowingError : Prop :=
  (∀ (s : State) (c : Ch) (v i : Int),
    s.ends (.sarSample c true v i) (fun t => (t.chan c).loop = { (s.chan c).loop with mB := s.sarLsb c i } ∧
      s.chBut t [c] ∧ s.only t [.ch, .saf, .flt]) ∧
    ((s.chan c).loop.fresh = true → s.ends (.sarSample c false v i) (fun t => (t.chan c).loop = (s.chan c).loop ∧
      s.chBut t [c] ∧ s.only t [.ch, .saf, .flt])) ∧
    ((s.chan c).loop.fresh = false → s.ends (.sarSample c false v i) (fun t => (t.chan c).loop.iA = s.sarLsb c i ∧
      (t.chan c).loop.fresh = true ∧ (t.chan c).loop.vA = s.sarUv c v ∧
      ((s.chan c).stage.pulse = none → (s.chan c).met.exclTick = false →
        (t.chan c).loop.vOk = true ∧ (∃ m, (t.chan c).tlm.vMax = some m ∧ s.sarUv c v ≤ m)) ∧
      s.chBut t [c] ∧ s.only t [.ch, .saf, .flt]))) ∧
  (∀ (s : State) (c : Ch), (s.chan c).loop.closed = true → s.gangsOk →
    ∀ p : Prof, s.profAt c (s.chan c).loop.act.slot = some p → p.feTime < (s.chan c).loop.feCnt →
    ∀ r : Run, (s.seq (s.leader c)).run = some r → r.failed = false →
    s.ends (.followErr c) (fun t => (t.chan c).loop.feCnt = 0 ∧ s.only t [.ch, .regs] ∧
      (if r.ending.any (fun e => e.at_ = .due) then (t.seq (s.leader c)).late.isSome = true
      else (t.seq (s.leader c)).st = .hold ∧
      ((t.seq (s.leader c)).run.bind (·.ending)).map (·.reason) = some rFOLLOW ∧
      (∀ d ∈ s.gang c, (t.chan d).stage.gates = false))))

/-- The trace (R259, R262): capture stops once the entries after the trigger are written, and each read of `QD_TRDATA`
answers the entry at the index, which then advances within its probe. -/
def Obligations.TraceStopsAndReadsOut : Prop :=
  ∀ (s : State) (q : Quad),
    (s.rd (QD_TRSTAT.STATE q) = 2 → (bget s.qd q).post = 0 → s.trTick q < s.now → s.rb (QD_TRCTL.EN q) = true →
      s.ends (.tracePostStop q) (fun t => t.rd (QD_TRSTAT.STATE q) = 3 ∧ t.rb (QD_TRCTL.EN q) = false ∧ s.only t [.regs] ∧
        s.regsBut t [QD_TRSTAT.STATE q, QD_TRCTL.EN q])) ∧
    s.ends (.traceDataRead q) (fun t => t.out = .answer [s.regWord (0x9144 + 0x400 * q.val)] :: s.out ∧
      t.rd (QD_TRADDR.INDEX q) = (s.rd (QD_TRADDR.INDEX q) + 1) % 4096 ∧
      s.only t [.regs, .out] ∧ s.regsBut t [QD_TRADDR.INDEX q])

/-! ### Steps -/

/-- A step command on a channel that is ready for it (R330, R345, R350, R753): a valid step begins, with the opcode of
its row, its queue index and a ledger entry; an invalid one ends with FAULT and STEP_INVALID, and the channel enters
HOLD (R338), with the ramp to zero under way where its loop is closed (R152). The verdict of R337 stands from the
prefetch; at its start a step also needs its profile still loaded (R493) and an EIS step its full scales (R372). A HOLD
step of a channel without current places it in HOLD with cause 5 (R381); a GANG step without current that may not form
its gang fails.
A step command while a step gap waits for it begins that step with the ticks of the gap (R74, R305). -/
def Obligations.StepCommandsBegin : Prop :=
  (∀ (s : State) (c : Ch) (idx : Half) (d : StepDesc), s.ready c = true →
    ∀ p ∈ stepCmds,
      let e := { d with op := BitVec.ofNat 8 p.1 }
      let ok := s.startOk c e (s.stepOk c (s.countAt c idx.toNat) e)
      (ok = true → (p.1 = 18 → d.x0 = 1) →
        s.ends (p.2 c idx d) (fun t =>
          ((t.seq c).run.map (fun r => (r.desc, r.idx, r.failed))) = some (e, idx.toNat % s.qDepth (cq c), false) ∧
          (t.chan c).ledger.isOpen = true ∧ (t.seq c).resume = false ∧ (t.seq c).gapT = 0 ∧
          ((t.seq c).st = .active ∨ (p.1 = 17 ∧ (t.seq c).st = .hold ∧ (t.seq c).why = 5)) ∧
          s.only t [.ch, .host, .regs, .written, .met, .ring])) ∧
      (ok = false →
        s.ends (p.2 c idx d) (fun t => (t.seq c).st = .hold ∧ (t.seq c).why = 2 ∧ (t.seq c).run = none ∧
          ((s.chan c).loop.closed = true → (t.seq c).wind.isSome = true) ∧
          (∃ g ∈ t.host.cbuf.getLast?, g.owner = .chan c ∧
            g.recs = [noticeRec c.val (idx.toNat % s.qDepth (cq c)) rFAULT p.1 0xFFFF dINVALID])))) ∧
  (∀ (s : State) (c : Ch) (idx : Half) (d : StepDesc), (s.seq c).st = .gap →
    ∀ p ∈ stepCmds,
      let e := { d with op := BitVec.ofNat 8 p.1 }
      s.startOk c e (s.stepOk c (s.countAt c idx.toNat) e) = true → (p.1 = 18 → d.x0 = 1) →
      s.ends (p.2 c idx d) (fun t =>
        ((t.seq c).run.map (fun r => (r.desc, r.ticks, r.gap, r.gapEntry))) = some (e, (s.seq c).gapT, (s.seq c).gapT, true) ∧
        ((t.seq c).st = .active ∨ (p.1 = 17 ∧ (t.seq c).st = .hold ∧ (t.seq c).why = 5))))

/-- A gang forms where it may (R189, R190, R384): its members name the leader and take no steps of their own; a gang that
may not form ends its step with STEP_INVALID. -/
def Obligations.GangStepFormsItsGang : Prop :=
  ∀ (s : State) (c : Ch) (idx : Half) (d : StepDesc), s.ready c = true → s.gangsOk →
    let e := { d with op := 18 }
    s.stepOk c (s.countAt c idx.toNat) e = true → (d.x0 = 2 ∨ d.x0 = 4) → (s.chan c).loop.closed = false →
    (s.seq c).run = none →
    s.ends (.gang c idx d) (fun t =>
      if s.gangMay c e d.x0.toNat = true then
        (t.seq c).size = d.x0.toNat ∧ (t.seq c).st = .active ∧
        ∀ m ∈ gangOf c d.x0.toNat, m ≠ c → (t.seq m).lead = some c ∧ (t.seq m).st = .member
      else (t.seq c).st = .hold ∧ ((t.seq c).run.bind (·.ending)).map (fun x => (x.reason, x.detail)) = some (rFAULT, dINVALID))

/-- STEP_BEGIN on a ready channel (R330, R331, R333) takes the first step descriptor of its queue: UPDATEs before it are
passed and complete with REVOKED (R356, R357), it leaves the prefetch with them, and its step begins with a ledger entry
at its queue index, if it is valid and may start now; if not, FAULT with STEP_INVALID follows and the channel enters
HOLD (R338). With no step prefetched, or on a channel that is not ready, nothing changes. A GANG of two or four channels
is not among these: it may fail as it forms. -/
def Obligations.StepBeginTakesTheQueueHead : Prop :=
  ∀ (s : State) (c : Ch),
    (s.ready c = false → exec (.stepBegin c) s = .next s) ∧
    (s.ready c = true →
      (∀ n : Nat, stepTarget (s.subq (cq c)).pre (s.preBase c) 0 = (n, none) → exec (.stepBegin c) s = .next s) ∧
      (∀ (n : Nat) (p : PreDesc), stepTarget (s.subq (cq c)).pre (s.preBase c) 0 = (n, some p) →
        let d := parseStep p.words
        let passed (t : State) : Prop := (t.seq c).cur = n ∧
          (t.subq (cq c)).pre = (s.subq (cq c)).pre.drop (n + 1 - s.preBase c) ∧
          ∀ i : Nat, i < n - s.preBase c → ∃ g ∈ t.host.cbuf ++ t.host.owed.map (·.grp), g.owner = .shared ∧
            g.recs = [noticeRec c.val (s.posOf (cq c) (s.preBase c + i)) rREVOKED 19 0xFFFF 0]
        (s.startOk c d p.ok = true → (d.op = 18 → d.x0 = 1) → s.ends (.stepBegin c) (fun t => passed t ∧
          (t.seq c).run.map (fun r => (r.desc, r.idx, r.failed)) = some (d, s.posOf (cq c) n, false) ∧
          (t.chan c).ledger.isOpen = true ∧ (t.seq c).resume = false ∧
          ((t.seq c).st = .active ∨ (d.op = 17 ∧ (t.seq c).st = .hold ∧ (t.seq c).why = 5)))) ∧
        (s.startOk c d p.ok = false → s.ends (.stepBegin c) (fun t => passed t ∧
          (t.seq c).st = .hold ∧ (t.seq c).why = 2 ∧ (t.seq c).run = none ∧
          ∃ g ∈ t.host.cbuf.getLast?, g.owner = .chan c ∧
            g.recs = [noticeRec c.val (s.posOf (cq c) n) rFAULT d.op.toNat 0xFFFF dINVALID]))))

/-- R398: at a transition that is due, whose next descriptor is not prefetched, the ended step completes with its own
reason, a second completion follows with reason STARVED and the expected position, and the channel enters HOLD with
cause 3. With its next descriptor armed the step begins, the ended one completes and is retired (R55, R72), and a
failure that met the ended step at this boundary ends it (R57); a STOP action places the channel in HOLD with cause 1
(R392), and without room for the records it enters HOLD with cause 4 (R469). An END that completes leaves the channel
IDLE (R386); one that its timeout ends follows `TO_ACT` (R394). A transition that is not issued in time opens a gap
(R56). The premise that no completion waits in the channel's slots leaves out a case that R471 calls impossible (log
entry 157). -/
def Obligations.TransitionsAtTheirBoundary : Prop :=
  ∀ (s : State) (c : Ch) (r : Run) (e : Ending), (s.seq c).run = some r → r.ending = some e → e.at_ = .due →
    e.reason ≠ rREVOKED →
    (r.desc.op = 31 → e.reason = 0 → r.upd = none → s.stepRoom r = true → s.slotsHeld c = false →
      s.ends (.bankSwap c) (fun t => (t.seq c).st = .idle ∧ (t.seq c).run = none ∧ (t.chan c).ledger.isOpen = false ∧
        t.host.cbuf.length = s.host.cbuf.length + 1)) ∧
    ((r.desc.op = 31 → e.reason ≠ 0) →
    (actStop (r.action e.reason) = true → r.desc.op ≠ 18 → r.upd = none →
      s.ends (.bankSwap c) (fun t => (t.seq c).st = .hold ∧ (t.seq c).why = 1 ∧ (t.seq c).run = none ∧
        (t.chan c).ledger.isOpen = false ∧ t.host.cbuf.length = s.host.cbuf.length + 1)) ∧
    (actStop (r.action e.reason) = false →
      let u := s.dropUpd c r
      ∀ n : Nat, stepTarget (u.subq (cq c)).pre (u.preBase c) (actSkip (r.action e.reason)) = (n, none) →
        s.ends (.bankSwap c) (fun t => (t.seq c).st = .hold ∧ (t.seq c).why = 3 ∧ (t.chan c).ledger.isOpen = false ∧
          (∃ g ∈ t.host.cbuf.getLast?, g.owner = .chan c ∧ g.recs = [noticeRec c.val (s.posOf (cq c) (s.seq c).cur) rSTARVED
            r.desc.op.toNat (s.posOf (cq c) n) 0]) ∧
          (∃ g ∈ t.host.cbuf[s.host.cbuf.length]?, g.owner = .chan c ∧
            (g.recs.head?.bind (fun w => w[1]?)).any (fun w => decide (w.toNat % 256 = e.reason % 256)) = true) ∧
          (r.upd = none → (s.subq (cq c)).pre = [] → t.host.cbuf.length = s.host.cbuf.length + 2))) ∧
    (actStop (r.action e.reason) = false → r.desc.op ≠ 18 → r.upd = none → actSkip (r.action e.reason) = 0 →
      ∀ (p : PreDesc) (rest : List PreDesc), (s.subq (cq c)).pre = p :: rest → p.isUpdate = false →
      (s.stepRoom r = true → s.slotsHeld c = false → s.startOk c (parseStep p.words) p.ok = true →
        (parseStep p.words).op ≠ 18 → (s.seq c).armed = some (s.preBase c) →
        ((s.seq c).late = none → s.ends (.bankSwap c) (fun t => (t.seq c).run.map (·.desc) = some (parseStep p.words) ∧
          (t.subq (cq c)).pre = rest ∧ (t.subq (cq c)).done = s.preBase c % 65536 ∧ (t.chan c).ledger.isOpen = true ∧
          t.host.cbuf.length = s.host.cbuf.length + 1)) ∧
        (∀ (reason detail : Nat), (s.seq c).late = some (reason, detail) → reason ≠ rCONTACT →
          s.ends (.bankSwap c) (fun t => (t.seq c).st = .hold ∧ (t.seq c).late = none ∧
            (t.seq c).run.map (fun x => (x.desc, x.ending.map (fun y => (y.reason, y.detail)))) =
              some (parseStep p.words, some (reason, detail))))) ∧
      (s.stepRoom r = true → s.slotsHeld c = false → (s.seq c).late = none →
        s.quiet 12 → bitN (s.src 12).react 5 = false →
        s.ends (.seqLate c) (fun t => (t.seq c).st = .gap ∧ (t.seq c).run = none ∧ (t.chan c).ledger.isOpen = true ∧
          (t.subq (cq c)).pre = p :: rest ∧ t.activeIn 12 c = true)) ∧
      (s.stepRoom r = false →
        s.ends (.bankSwap c) (fun t => (t.seq c).st = .hold ∧ (t.seq c).why = 4 ∧ (t.chan c).ledger.isOpen = false))))

/-- PREARM arms the step that the action of end condition 0 leads to (R71): it stands in the shadow banks of the gang
(R223), and nothing else changes; STEP_GAP_ARM begins the step of a gap, or starves the channel (R73 to R75).
UPDATE (R354 to R357): the first descriptor after the running step, where it names that step and only values it
could take, waits for its boundary; it leaves the queue with a notice where it is not valid (FAULT) or the step it names
has gone (REVOKED); one further on waits. At its boundary it replaces the masked fields and completes with END_COND0. A
notice without a free shared slot waits for one (R469). -/
def Obligations.ArmingAndUpdates : Prop :=
  (∀ (s : State) (c : Ch),
    (∀ (r : Run) (p : PreDesc) (n : Nat), (s.seq c).run = some r → r.failed = false → actStop r.desc.ec0.action = false →
      r.desc.op ≠ 31 → stepTarget (s.subq (cq c)).pre (s.preBase c) (actSkip r.desc.ec0.action) = (n, some p) →
      p.ok = true →
      s.ends (.prearm c) (fun t => t.seq c = { s.seq c with armed := some n, prearm := true } ∧
        (∀ d ∈ s.gang c, (t.chan d).loop =
          { (s.chan d).loop with shd := stepBank (parseStep p.words) (s.chan d).loop.act.slot }) ∧
        s.chBut t (c :: s.gang c) ∧ s.only t [.ch])) ∧
    ((s.seq c).st = .gap → (s.subq (cq c)).pre = [] →
      s.ends (.stepGapArm c) (fun t => (t.seq c).st = .hold ∧ (t.seq c).why = 3 ∧ (t.chan c).ledger.isOpen = false ∧
        (∃ g ∈ t.host.cbuf.getLast?, g.recs = [noticeRec c.val (s.posOf (cq c) (s.seq c).cur) rSTARVED 0
          (s.posOf (cq c) (s.preBase c)) 0]))) ∧
    (∀ (p : PreDesc) (rest : List PreDesc), (s.seq c).st = .gap → (s.subq (cq c)).pre = p :: rest → p.isUpdate = false →
      s.startOk c (parseStep p.words) p.ok = true → (parseStep p.words).op ≠ 18 →
      s.ends (.stepGapArm c) (fun t => (t.seq c).run.map (fun r => (r.desc, r.gap)) = some (parseStep p.words, (s.seq c).gapT) ∧
        (t.subq (cq c)).pre = rest))) ∧
  ((∀ (s : State) (c : Ch) (idx : Half) (d : StepDesc),
    let e := { d with op := 19 }
    let at_ := idx.toNat % s.qDepth (cq c)
    let noted (t : State) (reason detail : Nat) : Prop :=
      ∃ g ∈ (if s.sharedRoom = true then t.host.cbuf else t.host.owed.map Owed.grp).getLast?, g.owner = .shared ∧
        g.recs = [noticeRec c.val at_ reason 19 0xFFFF detail]
    (s.posOf (cq c) (s.preBase c) ≠ at_ → exec (.update c idx d) s = .next s) ∧
    (s.posOf (cq c) (s.preBase c) = at_ →
      (∀ r : Run, (s.seq c).run = some r → r.upd = none → r.failed = false → d.p16.toNat = r.idx →
        (s.stepOk c (s.preBase c) e = true → updOk r.desc e = true → s.ends (.update c idx d) (fun t =>
          ((t.seq c).run.bind (·.upd)).map (·.desc) = some e ∧ s.chBut t [c] ∧ s.only t [.ch])) ∧
        (s.stepOk c (s.preBase c) e = false ∨ updOk r.desc e = false →
          s.ends (.update c idx d) (fun t => (t.seq c).run = some r ∧ noted t rFAULT dINVALID))) ∧
      ((s.seq c).run = none → s.ends (.update c idx d) (fun t => s.only t [.ch, .host] ∧ noted t rREVOKED 0)))) ∧
  (∀ (s : State) (c : Ch) (r : Run) (u : Upd), (s.seq c).run = some r → r.upd = some u → u.due = true → r.failed = false →
    r.ending.any (fun e => e.at_ = .due) = false →
    s.ends (.updateApply c) (fun t => (t.seq c).run.map (fun x => (x.desc, x.upd)) = some (updated r.desc u.desc, none) ∧
      s.only t [.ch, .host, .regs] ∧
      ∃ g ∈ (if s.sharedRoom = true then t.host.cbuf else t.host.owed.map Owed.grp).getLast?, g.owner = .shared ∧
        g.recs = [noticeRec c.val (s.posOf (cq c) u.cnt) 0 19 0xFFFF 0])))

/-- The events of a running step that end one of its phases (R347, R348, R360 to R368, R375, R378, R343): the soft start,
the check for a short, a pulse or its rest, the phases of OCV and of DCIR, the admission and the window of an EIS tone,
and the hold time of NICHG. -/
def Obligations.PhasesOfARunningStepEnd : Prop :=
  ∀ (s : State) (c : Ch) (r : Run), (s.seq c).run = some r → r.failed = false →
    let run (t : State) (p : Run → Prop) : Prop := ∃ x, (t.seq c).run = some x ∧ p x ∧ x.desc = r.desc
    (r.ss = true → r.ssLen ≤ r.ssT → s.ends (.softStartEnd c) (fun t => run t (fun x => x.ss = false) ∧ s.only t [.ch, .regs])) ∧
    (∀ (sum : Int) (conf : Nat), (s.seq c).short = some (sum, conf) → (conf : Int) ≤ sum →
      ((s.chan c).loop.vA < (s.rd (CH_SSHORT.V_SHORT c) : Int) * 1000 → r.ending.any (fun e => e.at_ = .due) = false →
        s.ends (.shortCheck c) (fun t =>
        (t.seq c).st = .hold ∧ run t (fun x => x.ending.map (·.reason) = some rSHORT))) ∧
      ((s.rd (CH_SSHORT.V_SHORT c) : Int) * 1000 ≤ (s.chan c).loop.vA → s.ends (.shortCheck c) (fun t =>
        t.seq c = { s.seq c with short := none } ∧ s.only t [.ch]))) ∧
    (r.desc.op = 6 → (r.phase = 2 ∨ r.phase = 5) → r.ms r.desc.x1.toNat ≤ r.pt →
      s.ends (.pulsePhaseSwitch c) (fun t => run t (fun x => x.phase = 6 ∧ x.pt = 0 ∧ x.ss = false ∧ x.cycles = r.cycles))) ∧
    (r.desc.op = 6 → r.phase = 6 → r.ms r.desc.x2.toNat ≤ r.pt →
      s.ends (.pulsePhaseSwitch c) (fun t => run t (fun x => x.phase = 5 ∧ x.pt = 0 ∧ x.cycles = r.cycles + 1 ∧
        x.iset = r.desc.x0.toInt ∧ (r.n ≠ 0 → x.rest = tdiv r.sum r.n)))) ∧
    (r.desc.op = 8 → r.off = true → r.undue = true → r.phase = 0 → r.ms r.desc.x0.toNat ≤ r.pt →
      s.ends (.ocvPhaseEnd c) (fun t => run t (fun x => x.phase = 7 ∧ x.pt = 0) ∧ s.only t [.ch])) ∧
    (r.desc.op = 8 → r.off = true → r.undue = true → r.phase = 8 → r.ms r.desc.x2.toNat ≤ r.pt →
      s.ends (.ocvPhaseEnd c) (fun t => run t (fun x => x.finished = true ∧ x.impl = true) ∧ s.only t [.ch])) ∧
    (r.desc.op = 9 → r.phase ≠ 9 → r.tPre ≤ r.pt → s.ends (.dcirPhaseEnd c) (fun t =>
      run t (fun x => x.pt = 0 ∧ x.phase = 9 ∧ x.ss = !(s.chan c).loop.closed))) ∧
    (r.desc.op = 9 → r.phase = 9 → r.tPulse ≤ r.pt → s.ends (.dcirPhaseEnd c) (fun t =>
      run t (fun x => x.impl = true ∧ x.ending.isSome = true) ∧ s.only t [.ch])) ∧
    (r.desc.op = 10 → r.phase = 10 → r.eis.on = false → s.toneFree c r = true →
      (∀ (d : Ch) (x : Run), d < c → (s.seq d).run = some x → x.toneWaits = false ∨ s.toneFree d x = false) →
      s.ends (.eisToneAdmit c) (fun t => run t (fun x => x.eis.on = true ∧ x.eis.k = 0 ∧
        x.phase = (if r.desc.p16.toNat % 256 = 0 then 8 else 7)))) ∧
    (r.eis.on = true → (r.desc.p16.toNat % 256 + r.desc.p16.toNat / 256) * r.eis.pt ≤ r.eis.k →
      s.ends (.eisWindowClose c) (fun t => run t (fun x => x.eis.on = false ∧ x.impl = true ∧ x.ending.isSome = true) ∧ s.only t [.ch])) ∧
    (r.desc.op = 11 → r.armed = false → r.ms r.desc.x1.toNat ≤ r.ticks →
      s.ends (.nichgHoldEnd c) (fun t => run t (fun x => x.armed = true ∧ x.ending = r.ending) ∧ s.only t [.ch]))

/-- The end of a step is decided in the order of R391: the end condition with the lowest index comes before the implicit
end, that before the timer; a decision that has its boundary stands, but that of a revoke. Shown where the timer
expires, where a window of a DVDT condition closes, with two windows in a row within the rate (R388), and where the
implicit end of OCV comes. -/
def Obligations.EndOfStepIsDecidedInOrder : Prop :=
  ∀ (s : State) (c : Ch) (r : Run), (s.seq c).run = some r → r.failed = false →
    let ended (t : State) (x : Option Nat) : Prop := ((t.seq c).run.bind (·.ending)).map (·.reason) = x
    (∀ e : Ending, r.ending = some e → e.at_ = .due → e.reason ≠ rREVOKED →
      s.ends (.stepTimeout c) (fun t => (t.seq c).run = some r ∧ s.only t [.ch]) ∧
      (∀ k : Fin 4, s.ends (.ecWindowEnd c k) (fun t => ((t.seq c).run.bind (·.ending)) = some e ∧ s.only t [.ch])) ∧
      s.ends (.ocvPhaseEnd c) (fun t => (t.seq c).run = some r ∧ s.only t [.ch])) ∧
    (r.ending = none → r.revoked = false →
    (∀ k : Fin 4, (bget r.ecs k).fired = true → (∀ j : Fin 4, j < k → (bget r.ecs j).fired = false) →
      s.ends (.stepTimeout c) (fun t => ended t (some k.val) ∧ s.only t [.ch]) ∧
      s.ends (.eisWindowClose c) (fun t => ended t (some k.val)) ∧
      s.ends (.ocvPhaseEnd c) (fun t => ended t (some k.val))) ∧
    ((∀ j : Fin 4, (bget r.ecs j).fired = false) → r.impl = false → r.toFired = none → r.desc.timeout ≠ 0 →
      (r.ms r.desc.timeout.toNat ≤ r.ticks →
        s.ends (.stepTimeout c) (fun t => ended t (some (if r.kWas then rDERATED else rTIMEOUT)) ∧ s.only t [.ch])) ∧
      (r.ticks < r.ms r.desc.timeout.toNat → s.ends (.stepTimeout c) (fun t => ended t none ∧ s.only t [.ch]))) ∧
    ((∀ j : Fin 4, (bget r.ecs j).fired = false) → r.impl = true →
      s.ends (.stepTimeout c) (fun t => ended t (some 0)) ∧
      s.ends (.ocvPhaseEnd c) (fun t => ended t (some 0))) ∧
    (∀ k : Fin 4, (r.desc.ec k).code = 7 → r.ecLen k ≤ (bget r.ecs k).n → (bget r.ecs k).samples ≠ 0 →
      let x := bget r.ecs k
      let m := tdiv x.sum x.samples
      s.ends (.ecWindowEnd c k) (fun t => (∃ y, (t.seq c).run = some y ∧
        (bget y.ecs k).n = 0 ∧ (bget y.ecs k).prev = some m ∧ (x.prev = none → (bget y.ecs k).hits = 0)) ∧
        (∀ p : Int, x.prev = some p → 1 ≤ x.hits →
          (((m - p) * 1000000000).natAbs : Int) ≤ ((r.desc.ec k).thr.toNat : Int) * ((x.n * s.tickNs : Nat) : Int) →
          (∀ j : Fin 4, j < k → (bget r.ecs j).fired = false) → ended t (some k.val)) ∧ s.only t [.ch])))

/-! ### BOOT, clocks and the tick -/

/-- The commands of BOOT (R109, R122, R653, R709 to R717, R733, R739, R788): the internal reset is released and the
straps are sampled, a rail that fails its check raised; the injection test, which an item that misses a difference
fails; the end of the BOOT sequence with its failures, from a slot and in WARM boot; WAIT_HOST and the host's image set;
a fresh challenge; a read of a digest word; the PLL locks and a head starts its ring. -/
def Obligations.BootRunsToItsEnd : Prop :=
  ∀ s : State,
    (∀ (i : StrapIn) (k : RstKind), s.sys.held = some k → s.pins.vin = true → s.pins.rails = [] → s.pins.rstN = true →
      (s.pins.perstN = true ∨ i.role = 0) →
      (i.railFail = [] →
      s.ends (.internalResetRelease i) (fun t => t.sys.held = none ∧ t.sys.mode = .boot ∧ t.role = i.role.toNat ∧
        t.rd SYS_STRAP.BOOTSEL = i.bootsel.toNat ∧ t.rd SYS_RSTCAUSE.BOOTS = satU 16 (s.rd SYS_RSTCAUSE.BOOTS + 1) ∧
        (k = .por → t.rd SYS_RSTCAUSE.CAUSE = 1) ∧
        t.rd SEC_BOOTSTAT.STATE = (if k ≠ .warm ∧ i.bootsel = 0 then 5 else 1) ∧
        t.rb SEC_BOOTSTAT.WARMBOOT = decide (k = .warm) ∧ t.met = { s.met with otpLoaded := true } ∧
        s.only t [.sys, .regs, .sec, .met, .flt, .host])) ∧
      (i.railFail ≠ [] → s.quiet 43 →
        s.ends (.internalResetRelease i) (fun t => t.sys.held = none ∧ t.rb FLT_RB.VALID = true ∧ t.active 43 = true))) ∧
    (s.idle = false → s.ends .pllLock (fun t => t.rd SYS_CLK.LOCK = 1 ∧ t.sys.tickOut = true ∧
      (s.sys.mode ≠ .boot ∨ s.bypass .a = false → s.only t [.sys, .regs] ∧ s.regsBut t [SYS_CLK.LOCK]) ∧
      (s.sys.mode = .boot → s.bypass .a = true → s.role = 1 ∨ s.role = 2 →
        t.live = true ∧ t.rd RING_STAT.STATE = 0 ∧ t.rd RING_STAT.POS = 0 ∧ t.rb RING_STAT.POS_VALID = true))) ∧
    s.ends .digestRead (fun t => t.out = .answer [s.regWord 0x7064] :: s.out ∧
      t.rd SEC_DSEL.WORD = (s.rd SEC_DSEL.WORD + 1) % (if s.rd SEC_DSEL.ITEM = 8 then 96 else 12) ∧
      s.only t [.out, .regs] ∧ s.regsBut t [SEC_DSEL.WORD]) ∧
    (∀ (p : Path) (v : Word), s.idle = false → s.ends (.challengeNew p v) (fun t => t.look SEC_CHALCTL.VALID = 1 ∧
      s.only t [.regs, .free])) ∧
    (s.sys.mode = .boot → s.sys.held = none →
      (∀ i : InjIn, (injPass i = true → s.ends (.injectionTestDone i) (fun t => t.rd SAF_STAT.INJ_OK = 1 ∧
          t.rd SAF_STAT.INJ_AGE = 0 ∧ (t.src 78).act &&& actBit 78 0 = 0)) ∧
        (injPass i = false → s.quiet 78 →
          s.ends (.injectionTestDone i) (fun t => t.rb SAF_STAT.INJ_OK = false ∧ t.active 78 = true))) ∧
      (∀ (p : Path) (v : Word) (m : Manifest), s.rd SEC_BOOTSTAT.STATE = 5 →
        (s.checkMan m .boot (s.rd SEC_BOOTLEN.LEN) = 0 →
          s.ends (.bootGo p v (some m)) (fun t => t.sec.img = some (imgSetOf m 0) ∧ t.rd SEC_BOOTSTAT.SRC = 3 ∧
            t.rd SEC_BOOTSTAT.STATE = 4 ∧ s.only t [.sec, .regs])) ∧
        (s.checkMan m .boot (s.rd SEC_BOOTLEN.LEN) ≠ 0 →
          s.ends (.bootGo p v (some m)) (fun t => t.sec = s.sec ∧ t.rd SEC_BOOTSTAT.STATE = 5 ∧
            t.rd SEC_BOOTSTAT.ERR = s.checkMan m .boot (s.rd SEC_BOOTLEN.LEN) ∧ s.only t [.regs]))) ∧
      (∀ i : BootIn, s.sys.bootFail = false →
        let fails (e : Nat) (t : State) : Prop := t.sys.mode = .boot ∧ t.sys.bootFail = true ∧
          t.rd SEC_BOOTSTAT.STATE = 6 ∧ t.rd SEC_BOOTSTAT.ERR = e
        let leaves (t : State) : Prop := t.rd SEC_BOOTSTAT.STATE = 7 ∧
          t.sys.mode = (if s.linkTrained = true then (if s.rb SAF_STAT.LATCH = true then .safe else .standby) else .boot)
        (s.rd SEC_BOOTSTAT.STATE = 7 → s.ends (.bootComplete i) (fun t => leaves t)) ∧
        (s.rd SEC_BOOTSTAT.STATE ≠ 7 →
        (s.sec.life = 3 → s.ends (.bootComplete i) (fun t => fails 0x11 t ∧ t.sec.erased = true ∧ t.sec.revoke = 15)) ∧
        (s.sec.life ≠ 3 → (i.selfTest = false ∨ s.rb SAF_STAT.INJ_OK = false) →
          s.ends (.bootComplete i) (fun t => fails 0x10 t)) ∧
        (s.sec.life ≠ 3 → i.selfTest = true → s.rb SAF_STAT.INJ_OK = true →
          (s.rb SEC_BOOTSTAT.WARMBOOT = true → i.rehashOk = true → s.sec.img.isSome = true →
            s.ends (.bootComplete i) (fun t => leaves t ∧ t.sec.img = s.sec.img)) ∧
          (s.rb SEC_BOOTSTAT.WARMBOOT = true → i.rehashOk = false → s.rd SYS_STRAP.BOOTSEL = 0 →
            s.ends (.bootComplete i) (fun t => t.rd SEC_BOOTSTAT.STATE = 5 ∧ t.rd SEC_BOOTSTAT.ERR = 0x0F ∧
              t.rb SEC_BOOTSTAT.REHASH_FAIL = true ∧ t.rb SEC_BOOTSTAT.WARMBOOT = false ∧ t.sec.img = none)) ∧
          (s.rb SEC_BOOTSTAT.WARMBOOT = false →
            (s.rd SYS_STRAP.BOOTSEL = 3 → s.ends (.bootComplete i) (fun t => fails 0x0E t)) ∧
            (s.rd SYS_STRAP.BOOTSEL = 0 → s.sec.img.isSome = true → s.ends (.bootComplete i) (fun t => leaves t)) ∧
            (s.rd SYS_STRAP.BOOTSEL = 1 ∨ s.rd SYS_STRAP.BOOTSEL = 2 → s.sec.img = none →
              (∀ m : Manifest, i.slotA = some m → i.slotB = none → s.checkMan m .boot m.total.toNat = 0 →
                s.ends (.bootComplete i) (fun t => leaves t ∧ t.sec.img = some (imgSetOf m 1) ∧ t.rd SEC_BOOTSTAT.SRC = 1)) ∧
              (i.slotA = none → i.slotB = none → s.ends (.bootComplete i) (fun t =>
                if s.rd SYS_STRAP.BOOTSEL = 1 then fails 0x0D t
                else t.rd SEC_BOOTSTAT.FALLBACK = 1 ∧ t.rd SEC_BOOTSTAT.STATE = 5 ∧ t.sys.mode = .boot))))))))

/-- A tick boundary ends a tick (R29, R50): the tick number advances by one modulo 2^48; unless a reaction within it
resets the device or changes its mode, the announced boundary of a period change comes nearer, without an announcement
`PPT` and `TLM_DIV` come into force (R36, R753), and the counter of the host's poll advances. A device that idles does
not tick.
The commands that keep the tick of a ring together: at the announced boundary the period switches in STANDBY, on a
head where every other device on the ring is in STANDBY by its last safety PDU and its own settings admit the period
(R36, R49, R492), elsewhere nothing of the change is left (R37); a head withdraws a change with the fields written
beside it (R37, R753); a member without a crystal holds its frequency and takes the word clock of ring B as its
reference (R61, R62), and after 8 ticks of holdover has lost its clock; four Pennants out of alignment in RUN raise
`TICK_ALIGN` (R68); a missing Pennant counts and the device runs on (R67). -/
def Obligations.TickKeeping : Prop :=
  (∀ (s : State) (i : TickIn),
    (s.idle = true → exec (.tickBoundary i) s = .next s) ∧
    (s.idle = false → s.ends (.tickBoundary i) (fun t =>
      t.sys.tick = (s.sys.tick + 1) % 2 ^ 48 ∧ t.pins = s.pins ∧ t.pending = s.pending ∧
      (s.sys.trans = none → t.sys.held = none → t.sys.mode = s.sys.mode → t.host.pollT = s.host.pollT + 1 ∧
        t.sys.perNew = s.sys.perNew.map (fun p => (p.1, p.2 - 1)) ∧
        (s.sys.perNew = none → t.sys.ppt = s.rd SYS_TICK.PPT ∧ t.sys.tlm = s.rd SYS_TICK.TLM_DIV))))) ∧
  (∀ s : State,
    let old (t : State) : Prop := t.sys.perNew = none ∧ t.rd SYS_TICK.PERIOD = s.per % 2 ^ SYS_TICK.PERIOD.w ∧
      t.rd SYS_TICK.PPT = s.sys.ppt % 2 ^ SYS_TICK.PPT.w ∧ t.rd SYS_TICK.TLM_DIV = s.sys.tlm % 2 ^ SYS_TICK.TLM_DIV.w ∧
      s.only t [.sys, .regs] ∧ s.regsBut t [SYS_TICK.PERIOD, SYS_TICK.PPT, SYS_TICK.TLM_DIV]
    (∀ p : Nat × Nat, s.sys.perNew = some p → p.2 = 0 →
      (s.sys.mode = .standby → (s.isHead = true → s.ringStandby = true ∧ s.admits p.1 = true) → s.ends .tickPeriodSwitch (fun t =>
        t.look SYS_TICKSTAT.INFORCE = p.1 % 2 ^ 12 ∧ t.sys.perNew = none ∧ t.sys.ppt = s.rd SYS_TICK.PPT ∧
        t.sys.tlm = s.rd SYS_TICK.TLM_DIV ∧ s.only t [.regs, .written, .sys, .met, .qd, .ring] ∧ (s.isHead = false → t.ring = s.ring))) ∧
      (s.sys.mode ≠ .standby ∨ (s.isHead = true ∧ (s.ringStandby = false ∨ s.admits p.1 = false)) → s.ends .tickPeriodSwitch (fun t => t.per = s.per ∧ t.sys.perNew = none ∧
        s.only t [.sys, .regs] ∧ (s.isHead = true → old t)))) ∧
    (s.isHead = true → s.sys.perNew.isSome = true → s.ends .tickChangeWithdraw (fun t => old t)) ∧
    (s.role = 0 → s.idle = false →
      (s.rb SYS_CLK.XTAL = false → s.ends .refSwitch (fun t => t.sys.holdover = some s.clk ∧ t.rd SYS_CLK.REF = 3 ∧
        t.rd SYS_CLKERR.REF_SWITCH = 1 ∧ s.only t [.sys, .regs] ∧ s.regsBut t [SYS_CLK.REF, SYS_CLKERR.REF_SWITCH])) ∧
      s.ends .pennantMissed (fun t => t.sys.missedP = s.sys.missedP + 1 ∧ t.sys.tick = s.sys.tick ∧ s.only t [.sys])) ∧
    (∀ h : Nat, s.sys.holdover = some h → h + 8 ≤ s.clk → s.quiet 41 → s.ends .clkLost (fun t =>
      t.rd SYS_CLKERR.CLK_LOST = 1 ∧ (t.src 41).cond ≠ 0 ∧ t.active 41 = true)) ∧
    (s.sys.mode = .run → 4 ≤ s.sys.alignBad → s.quiet 42 → s.ends .tickAlign (fun t =>
      t.rd RING_ERR.TICK_ALIGN = 1 ∧ t.active 42 = true)))

/-! ### The ring -/

/-- Pennants and safety PDUs (R482, R487 to R491, R504, R520, R660 to R662): a member takes the tick number, the state,
the position count and the barrier bits of a valid copy and hands it on with its hop counted, as the octets of R487; a
copy that deviates by more than 40 ns from the boundary plus the device's measured delay is counted as late (R522: the
row's own `dev` decides nothing, log entry 140); a head takes the return, keeps the vector of each of its inputs, and in
WRAPPED sends on the copy whose way goes on (R534); a copy with a wrong CRC only counts. A valid PDU in its window is
noted and arms the watchdog, and goes on to the next device except in the window of the device's own position (R498);
one with the number of the last is a repeat. A watchdog that has run 8 ticks requests the safe state. -/
def Obligations.PennantsAndSafetyPdus : Prop :=
  ∀ (s : State) (r : RingId) (p : Pennant), s.idle = false → s.ring.resetting = false →
    (s.role = 0 → p.crcOk = true → ∀ x d : Int,
      s.ends (.pennantReceived r p x d) (fun t => t.sys.tick = p.tick.toNat ∧ t.sys.missedP = 0 ∧
        t.rd RING_STAT.STATE = p.rstate.toNat ∧ t.rd RING_STAT.NPOS = p.npos.toNat % 64 ∧
        t.rd RING_BARVL.BARV = p.barv.toNat % 2 ^ 32 ∧ t.rd RING_BARVH.BARV = p.barv.toNat / 2 ^ 32 ∧
        t.rd RING_SAFEV.SAFEV = p.safev.toNat ∧
        (∀ e : Int, decide (s.rd RING_STAT.STATE = 3) = decide (p.rstate.toNat = 3) → bget s.ring.dly (ringIx r) = some e →
          t.rd (RING_CNT2.LATE r) = if 320 < (x - e).natAbs then satU (RING_CNT2.LATE r).w (s.rd (RING_CNT2.LATE r) + 1)
            else s.rd (RING_CNT2.LATE r)) ∧
        (s.bypass r = true → t.out = s.out) ∧
        (s.bypass r = false → ∃ q : Pennant, t.out = .pennant (s.outRing r) (pennantWire q) :: s.out ∧ q.tick = p.tick ∧
          q.barv = p.barv ∧ q.hop = if r = .a ∨ s.rb RING_STAT.WRAPA = true then p.hop + 1 else p.hop))) ∧
    (s.headsRing → p.crcOk = true → ∀ l : Int,
      s.ends (.pennantReturn r p l) (fun t => t.sys.tick = s.sys.tick ∧
        t.ring.ret = (if p.tick.toNat = s.now then (r, p.safev.toNat) :: s.ring.ret.filter (fun e => decide (e.1 ≠ r))
          else s.ring.ret) ∧
        (match r with | .a => t.ring.loopA | .b => t.ring.loopB) = some l ∧
        (r = .a ∨ s.wrapped = true → t.ring.hop = p.hop.toNat) ∧ (s.relays r = false → t.out = s.out) ∧
        (s.relays r = true → ∃ q : Pennant, t.out = .pennant (s.outRing r) (pennantWire q) :: s.out ∧ q.tick = p.tick ∧
          q.hop = if r = .a ∨ s.rb RING_STAT.WRAPA = true then p.hop + 1 else p.hop))) ∧
    (p.crcOk = false → ∀ x d : Int,
      (s.role = 0 → s.ends (.pennantReceived r p x d) (fun t =>
        t.rd (RING_CNT1.PCRC r) = satU (RING_CNT1.PCRC r).w (s.rd (RING_CNT1.PCRC r) + 1) ∧ t.sys = s.sys ∧
        s.only t [.ring, .regs] ∧ s.regsBut t [RING_CNT1.PCRC r])) ∧
      (s.headsRing → s.ends (.pennantReturn r p x) (fun t =>
        t.rd (RING_CNT1.PCRC r) = satU (RING_CNT1.PCRC r).w (s.rd (RING_CNT1.PCRC r) + 1) ∧
        s.only t [.regs] ∧ s.regsBut t [RING_CNT1.PCRC r]))) ∧
    (∀ (u : Pdu) (h : Bool), s.bypass r = false → s.onRing = true →
      let x := bget s.ring.pdus (Fin.ofNat 32 u.src.toNat)
      let passed := if s.relays r = true ∧ ¬ (s.rb RING_STAT.POS_VALID = true ∧ s.now % 32 = s.pos)
        then .pdu (s.outRing r) (pduWire u) :: s.out else s.out
      let mine := u.src.toNat = (if h then 0 else s.now % 32)
      (u.crcOk = false → s.ends (.safetyPduReceived r h u) (fun t =>
        t.rd (RING_CNT1.SCRC r) = satU (RING_CNT1.SCRC r).w (s.rd (RING_CNT1.SCRC r) + 1) ∧ t.out = passed ∧
        s.only t [.regs, .out] ∧ s.regsBut t [RING_CNT1.SCRC r])) ∧
      (u.crcOk = true → mine → ¬ (x.got = true ∧ u.seq = x.last.seq) →
        s.ends (.safetyPduReceived r h u) (fun t => bget t.ring.pdus (Fin.ofNat 32 u.src.toNat) = ⟨true, u, s.clk⟩ ∧
          bget t.ring.wd (ringIx r) = some 0 ∧ t.out = passed ∧ s.only t [.ring, .out])) ∧
      (u.crcOk = true → mine → x.got = true → u.seq = x.last.seq → x.at_ + 2 < s.clk → s.quiet 59 →
        s.ends (.safetyPduReceived r h u) (fun t => (t.src 59).cond ≠ 0 ∧ t.active 59 = true)) ∧
      (u.crcOk = true → mine → x.got = true → u.seq = x.last.seq → s.clk ≤ x.at_ + 2 →
        (u = { x.last with crcOk := true } →
          s.ends (.safetyPduReceived r h u) (fun t => bget t.ring.wd (ringIx r) = some 0 ∧ t.ring.pdus = s.ring.pdus ∧
            s.only t [.ring, .out])) ∧
        (u ≠ { x.last with crcOk := true } → s.quiet 60 →
          s.ends (.safetyPduReceived r h u) (fun t => (t.src 60).cond ≠ 0 ∧ t.active 60 = true)))) ∧
    (s.wdExpired (ringIx r) = true → s.quiet 58 →
      s.ends (.ringWatchdogExpiry r) (fun t => (t.src 58).cond ≠ 0 ∧ t.active 58 = true ∧ t.enablesLow))

/-- Joining and enumerating (R480 to R482, R525 to R528, R538, R540): a member splices in the tick of its identifier and
asks for a position; the head assigns the recorded position if it is free, or if it takes it to be that of the same
device (the model's choice, log entry 155), else the lowest free one, or refuses; the joining device takes its position
or closes its bypasses; the head enters ENUM for 16 ticks and leaves it with the position count; a position whose PDU is
missing for 64 ticks leaves; a wake burst goes out 50 ms after the last. A frame of a class that has given up is not
sent (R508). -/
def Obligations.JoiningAndEnumeration : Prop :=
  ∀ s : State, s.idle = false →
    (∀ r : RingId, s.role = 0 → s.ring.resetting = false → s.bypass r = true → 16 ≤ (bget s.ring.lock (ringIx r)).1 →
      s.now % 16 = s.sec.uid % 16 → s.sys.perNew.any (fun p => decide (p.2 = 0)) = false →
      (r = .a ∨ (∃ u ∈ bget s.ring.spliceT 0, u + 16 ≤ s.clk) ∨
        (bget s.ring.spliceT 0 = none ∧ ¬ (s.bypass .a = true ∧ 16 ≤ (bget s.ring.lock 0).1))) →
      s.ends (.splice r) (fun t => t.bypass r = false ∧
        t.rd (RING_CNT3.SPLICE r) = satU (RING_CNT3.SPLICE r).w (s.rd (RING_CNT3.SPLICE r) + 1) ∧
        (s.live = false → 2 ≤ s.rd RING_STAT.STATE → s.mayClass 0 .mgmt = true →
          ∃ f ∈ t.ring.outq.getLast?, f.type = 7 ∧ f.dst = 0 ∧ f.arg.toNat % 256 = 3 ∧ f.ackreq = true) ∧
        s.only t [.ring, .regs] ∧ s.regsBut t [RING_STAT.BYPA, RING_STAT.BYPB, RING_CNT3.SPLICE r])) ∧
    (∀ f : Frame, s.hears f →
      (s.headsRing → 2 ≤ s.rd RING_STAT.STATE → (∀ d : Nat, s.mayClass d .mgmt = true) → s.ends (.join f) (fun t =>
        let free (p : Nat) : Bool := decide (1 ≤ p ∧ p < 32) && !bitN (s.rd RING_PRESENT.PRES) p
        let want := wAt f.payload 2
        let got := if s.rb RING_CTL.LATE_OK = false then none
          else if want ≠ noPos ∧ (free want.toNat = true ∨ s.vacant want.toNat
            ((wAt f.payload 0).toNat + 2 ^ 32 * (wAt f.payload 1).toNat) = true) then some want.toNat
          else (List.range 32).find? free
        (∃ g ∈ t.ring.outq.getLast?, g.type = 7 ∧ g.arg.toNat % 256 = 4 ∧
          g.payload = [wAt f.payload 0, wAt f.payload 1, match got with | some p => wN p | none => noPos]) ∧
        t.rd RING_PRESENT.PRES =
          (match got with | some p => setBitN (s.rd RING_PRESENT.PRES) p % 2 ^ 32 | none => s.rd RING_PRESENT.PRES))) ∧
      (s.role = 0 → (wAt f.payload 0).toNat + 2 ^ 32 * (wAt f.payload 1).toNat = s.sec.uid → s.ends (.assign f) (fun t =>
        if wAt f.payload 2 = noPos then t.live = false ∧ t.rd RING_ERR.JOIN_REFUSED = 1
        else t.rd RING_STAT.POS = (wAt f.payload 2).toNat % 32 ∧ t.rb RING_STAT.POS_VALID = true ∧ t.live = s.live ∧
          t.rb RING_STAT.LATE = !(s.rb RING_STAT.POS_VALID && decide (s.pos = (wAt f.payload 2).toNat % 32))))) ∧
    (s.headsRing → s.live = true →
      ((s.rd RING_STAT.STATE = 0 ∧ (64 ≤ s.ring.hopRun ∨ s.msT 100 ≤ s.ring.trainT)) ∨
        (s.rd RING_STAT.STATE = 3 ∧ s.ring.enumT.any (fun u => decide (u ≤ s.clk)) = true)) →
      s.ends .enumStart (fun t => t.rd RING_STAT.STATE = 1 ∧ t.rd RING_STAT.NPOS = 0 ∧ t.ring.enumT = some (s.clk + 16) ∧
        s.only t [.ring, .regs] ∧ s.regsBut t [RING_STAT.STATE, RING_STAT.NPOS])) ∧
    (∀ h : Byte, s.isHead = true → s.rd RING_STAT.STATE = 1 → s.ring.enumT.any (fun u => decide (u ≤ s.clk)) = true →
      s.ends (.enumEnd h) (fun t => t.rd RING_STAT.NPOS = min 32 (1 + h.toNat) ∧
        t.rd RING_PRESENT.PRES = 2 ^ min 32 (1 + h.toNat) - 1 ∧
        t.rd RING_STAT.STATE = (if s.ring.down.toList.any id || !s.ring.onA || s.ring.wrapOn || s.ring.cross then 3 else 2) ∧
        t.ring.enumT = none ∧ s.only t [.ring, .regs, .host])) ∧
    (∀ p : Pos, s.headsRing → bitN (s.rd RING_PRESENT.PRES) p.val = true → p ≠ 0 → (bget s.ring.pdus p).at_ + 64 ≤ s.clk →
      s.ends (.positionLeave p) (fun t => t.rd RING_PRESENT.PRES = clrBitN (s.rd RING_PRESENT.PRES) p.val % 2 ^ 32 ∧
        t.rd RING_ERR.LEAVE = 1 ∧ s.only t [.regs, .host] ∧ s.regsBut t [RING_PRESENT.PRES, RING_ERR.LEAVE])) ∧
    (0 < s.ring.bursts → s.msT 50 ≤ s.ring.burstT → s.ends .wakeBurst (fun t =>
      t.ring.bursts + 1 = s.ring.bursts ∧ t.ring.burstT = 0 ∧ t.bursting = true ∧ t.out = .wake :: s.out ∧
      s.only t [.ring, .out]))

/-- Breaks, their repair, and the messages of members to the head (R494 to R497, R511, R532 to R537, R547 to R549): an
input that goes down, by a loss of lock or by a condition of R532 that holds, wraps the device at the next boundary,
which tells the head, and the head enters WRAPPED; a span that code violations or 1 ms without lock have failed is
named; the ends of a break that have been stable for 4,096 ticks restore the ring at one boundary; arrivals count toward
the target of their tag, MSIX causes a vector, and a PERIOD_NAK withdraws an announced period. A head in WRAPPED sends
the frames on (R534). -/
def Obligations.BreaksRepairsAndMessages : Prop :=
  ∀ s : State, s.idle = false → s.ring.resetting = false →
    (∀ (r : RingId) (why : DownWhy), s.onRing = true →
      let fresh : Prop := s.bypass r = false ∧ bget s.ring.down (ringIx r) = false
      let told (t : State) : Prop := (s.isHead = true → t.rd RING_ERR.SPAN_FAIL = 1 ∧ t.active 57 = true) ∧
        (s.isHead = false → s.mayClass 0 .mgmt = true → ∃ f ∈ t.ring.outq.getLast?, f.type = 7 ∧
          f.arg.toNat % 256 = 8 ∧ f.ackreq = true ∧ f.payload = [s.wrapWord r])
      (s.downHolds r why = false → exec (.ringInputDown r why) s = .next s) ∧
      (s.downHolds r .span = true →
        (s.live = false → exec (.ringInputDown r .span) s = .next s) ∧
        (s.live = true → (s.isHead = true → s.quiet 57) → s.ends (.ringInputDown r .span) (fun t => told t ∧
          t.ring.down = s.ring.down))) ∧
      (why ≠ .span → s.downHolds r why = true → (why = .code → s.isHead = true → s.quiet 57) →
        s.ends (.ringInputDown r why) (fun t =>
          (fresh → bget t.ring.down (ringIx r) = true ∧ bget t.ring.wrapDue (ringIx r) = true) ∧
          (¬ fresh → t.ring.down = s.ring.down ∧ t.ring.wrapDue = s.ring.wrapDue) ∧
          (why = .lock → t.rd (match r with | .a => RING_ERR.LOCK_A | .b => RING_ERR.LOCK_B) = 1 ∧
            t.rd (match r with | .a => RING_STAT.LINKA | .b => RING_STAT.LINKB) = 0 ∧
            t.rd (RING_CNT0.LOCK r) = satU 16 (s.rd (RING_CNT0.LOCK r) + 1) ∧
            (bget t.ring.lock (ringIx r)).1 = 0 ∧ s.only t [.ring, .regs]) ∧
          (why = .pennant → s.only t [.ring]) ∧ (why = .code → fresh → told t)))) ∧
    (∀ r : RingId, bget s.ring.wrapDue (ringIx r) = true → s.onRing = true →
      let t := s.wrapNow r
      t.rd (match r with | .a => RING_STAT.WRAPA | .b => RING_STAT.WRAPB) = 1 ∧ t.rd RING_ERR.WRAPPED = 1 ∧
        bget t.ring.wrapDue (ringIx r) = false ∧ (s.isHead = true → t.rd RING_STAT.STATE = 3) ∧
        (s.isHead = false → s.mayClass 0 .mgmt = true → ∃ f ∈ t.ring.outq.getLast?, f.type = 7 ∧
          f.arg.toNat % 256 = 5 ∧ f.ackreq = true ∧ f.payload = [s.wrapWord r])) ∧
    (∀ r : RingId, bget s.ring.down (ringIx r) = true → (s.line r).clean < 4096 →
      exec (.ringInputStable r) s = .next s) ∧
    (∀ r : RingId, bget s.ring.down (ringIx r) = true → s.onRing = true → 4096 ≤ (s.line r).clean →
      s.ends (.ringInputStable r) (fun t =>
        (s.isHead = false → s.mayClass 0 .mgmt = true → ∃ f ∈ t.ring.outq.getLast?, f.type = 7 ∧ f.arg.toNat % 256 = 6) ∧
        (s.isHead = true → t.ring.restored.any (fun e => decide (e.1 = 0)) = true) ∧
        s.only t [.ring])) ∧
    (∀ u : Nat, s.ring.unwrapAt = some u → u ≤ s.now → s.ends .restoreBoundary (fun t => t.ring.unwrapAt = none ∧
      t.rd RING_STAT.STATE = 2 ∧ t.rd RING_STAT.WRAPA = 0 ∧ t.rd RING_STAT.WRAPB = 0 ∧
      (∀ r : RingId, bget t.ring.down (ringIx r) = false) ∧ s.only t [.ring, .regs, .flt, .host])) ∧
    (∀ f : Frame, s.hears f →
      (s.headsRing → s.ends (.wrap f) (fun t => t.rd RING_STAT.STATE = 3 ∧ t.rd RING_ERR.WRAPPED = 1 ∧
          t.out = (s.passOn f).out ∧ s.only t [.ring, .regs, .host, .out]) ∧
        (s.quiet 57 → s.ends (.span f) (fun t => t.rd RING_ERR.SPAN_FAIL = 1 ∧ t.active 57 = true))) ∧
      (s.isHead = true →
        s.ends (.restore f) (fun t => t.ring.restored.any (fun e => decide (e.1 = f.src.toNat)) = true ∧
          t.out = (s.passOn f).out ∧ s.only t [.ring, .out]) ∧
        s.ends (.msix f) (fun t => t.host = (s.irq (Fin.ofNat 8 (f.arg.toNat / 256 % 256))).host ∧
          t.out = (s.passOn f).out ∧ s.only t [.ring, .host, .out]) ∧
        (∀ w : Word, f.payload = [w] → bget s.ring.tgt (Fin.ofNat 64 (w.toNat % 64)) ≠ 0 →
          let i : Fin 64 := Fin.ofNat 64 (w.toNat % 64)
          let k := w.toNat / 256 % 256
          let n := bget s.ring.cnt i + k
          s.ends (.arrive f) (fun t => t.out = (s.passOn f).out ∧ s.only t [.ring, .out] ∧
            if bget s.ring.tgt i ≤ n ∧ k ≠ 0 then bget t.ring.cnt i = n % bget s.ring.tgt i ∧ bget t.ring.left i = 4
            else bget t.ring.cnt i = n ∧ bget t.ring.left i = bget s.ring.left i)) ∧
        (s.sys.perNew.any (fun p => decide (0 < p.2)) = true → s.ends (.periodNak f) (fun t => t.sys.perNew = none ∧
          t.rd SYS_TICK.PERIOD = s.per % 2 ^ 12 ∧ t.rd RING_ERR.PERIOD_NAK = 1 ∧ t.out = (s.passOn f).out ∧
          s.only t [.sys, .ring, .regs, .out]))) ∧
      (s.isHead = false → s.ends (.restore f) (fun t =>
        t.ring.unwrapAt = some (f.arg.toNat / 256 % 2 ^ 48) ∧ s.only t [.ring, .out])))

/-- Data frames (R501 to R511): the frame that precedence chooses fills a slot, what it leaves is a slot of its own, and
a slot reserved for another position or with nothing to fill it passes; a frame goes out as the octets of R499; the head
issues a member's reads in turn as tags are free, after what waits to be written (R467), and its writes, and
acknowledges the writes; an ACK ends the sending of its frame and causes the vector of what it wrote (R464), a missing
one repeats it until its class gives up; the data of a read go to the member in frames of at most P_max, the last marked
(the row carries them all, log entry 140), and end the read there; a missing answer repeats it or ends it as a timeout. -/
def Obligations.DataFramesAndTheirAnswers : Prop :=
  ∀ s : State, s.idle = false → s.ring.resetting = false →
    (∀ (r : RingId) (n : Nat) (rsv : Option Pos), s.bypass r = false → s.onRing = true →
      let sentOut (t : State) (f : Frame) : Prop := f ∈ s.ring.outq ∧ t.ring.outq = s.ring.outq.erase f ∧
        (f.ackreq = true → t.ring.sent.any (fun o => decide (o.frame.dst = f.dst ∧ o.frame.tag = f.tag ∧ o.age = 0)) = true) ∧
        s.only t [.ring, .out]
      (s.isHead = false → (∃ p ∈ rsv, p.val ≠ s.pos) →
        s.ends (.frameSend r n rsv) (fun t => t.out = .slot (s.outRing r) n rsv :: s.out ∧ s.only t [.out])) ∧
      (s.isHead = false → (∀ p ∈ rsv, p.val = s.pos) →
        (s.pickFrame r n = none →
          s.ends (.frameSend r n rsv) (fun t => t.out = .slot (s.outRing r) n none :: s.out ∧ s.only t [.out])) ∧
        (∀ f : Frame, s.pickFrame r n = some f → s.mayPlace r n f = true ∧
          s.ends (.frameSend r n rsv) (fun t => sentOut t f ∧
            let o := .frame (s.outRing r) (frameWire f) :: s.out
            t.out = (if 24 ≤ n - frBytes f then .slot (s.outRing r) (n - frBytes f) none :: o else o)))) ∧
      (s.isHead = true →
        let free := (((bget s.ring.slots (ringIx r)).find? (fun x => x.rsv.isNone)).map (·.bytes)).getD 0
        (s.pickFrame r free = none → exec (.frameSend r n rsv) s = .next s) ∧
        (∀ f : Frame, s.pickFrame r free = some f → s.mayPlace r free f = true ∧
          s.ends (.frameSend r n rsv) (fun t => sentOut t f ∧ t.out = .frame r (frameWire f) :: s.out ∧
            bget t.ring.slots (ringIx r) = (bget s.ring.slots (ringIx r)).map (fun x =>
              if x.rsv.isNone then { x with bytes := x.bytes - frBytes f } else x))))) ∧
    (∀ f : Frame, s.hears f →
      (s.isHead = true → s.host.link = true → s.host.bme = true →
        s.ends (.wr f) (fun t => t.out = .hostWrite f.arg.toNat (wordsBytes f.payload) :: (s.passOn f).out ∧
          (f.ackreq = true → ∃ g ∈ t.ring.outq.getLast?, g.type = 7 ∧ g.dst = f.src ∧
            g.arg.toNat = 1 + 256 * f.tag.toNat) ∧ s.only t [.ring, .out]) ∧
        (let busy := s.ring.reads.any (fun o => decide (o.frame.src = f.src ∧ o.frame.tag = f.tag)) ||
          s.ring.rdq.any (fun g => decide (g.src = f.src ∧ g.tag = f.tag))
        s.ends (.rdreq f) (fun t => s.nothingToWrite → s.only t [.ring, .out] ∧
          (busy = false → (⟨f, 0, 0⟩ : OutFr) ∈ t.ring.reads ∨ f ∈ t.ring.rdq) ∧
          (busy = false → s.tagFree = true → s.ring.rdq = [] → t.ring.reads = s.ring.reads ++ [⟨f, 0, 0⟩] ∧
            t.ring.rdq = [] ∧ t.out = .hostRead f.arg.toNat ((wAt f.payload 0).toNat % 512) :: (s.passOn f).out) ∧
          (s.tagFree = false → t.ring.reads = s.ring.reads ∧ t.out = (s.passOn f).out ∧
            t.ring.rdq = if busy = true then s.ring.rdq else s.ring.rdq ++ [f])))) ∧
      (let mine (g : Frame) : Bool := decide (g.dst = f.src) && decide (g.tag = BitVec.ofNat 8 (f.arg.toNat / 256))
      ∀ o : OutFr, s.ring.sent.find? (fun x => mine x.frame) = some o →
        let left := s.ring.outq.filter (fun g => !(mine g && g.retry && g.ackreq))
        let tlm (g : Frame) : Bool := decide (s.frCls g = .telemetry)
        let more := s.ring.sent.any (fun x => !mine x.frame && tlm x.frame) || left.any tlm
        (s.frCls o.frame ≠ .completion → s.ends (.ack f) (fun t => t.ring.sent = s.ring.sent.filter (fun x => !mine x.frame) ∧
          t.ring.outq = left ∧ t.out = (s.passOn f).out ∧ s.only t [.ring, .host, .out] ∧
          t.host = if s.frCls o.frame = .event then (s.irq 2).host
            else if tlm o.frame = true ∧ more = false then (s.irq 3).host else s.host)) ∧
        (∀ (k : Nat) (g : CGroup) (l : List CGroup), s.frCls o.frame = .completion → s.host.flight = some k →
          s.host.cbuf = g :: l →
          (k + 1 < g.recs.length → s.ends (.ack f) (fun t => t.host.flight = some (k + 1) ∧
            t.host.wrote = k + 1 ∧ t.host.cbuf = s.host.cbuf)) ∧
          (g.recs.length ≤ k + 1 → s.host.resetAt = [] → s.ends (.ack f) (fun t => t.host.flight = none ∧
            t.host.cpqW = (s.host.cpqW + g.recs.length) % 65536 ∧ (bget t.host.msix g.vec).pend = true)))) ∧
      (s.isHead = false → s.ring.reads.any (fun o => decide (o.frame.tag = f.tag)) = true →
        let close (t : State) : Prop := t.ring.reads = s.ring.reads.filter (fun o => !decide (o.frame.tag = f.tag))
        let st := rdStatus (f.arg.toNat / 65536 % 256)
        (s.host.reads.find? (fun r => decide (r.tag % 256 = f.tag.toNat)) = none → s.ends (.rdcpl f) (fun t => close t ∧
          s.only t [.ring, .out])) ∧
        (∀ r : ReadReq, s.host.reads.find? (fun r => decide (r.tag % 256 = f.tag.toNat)) = some r →
          let new := f.payload.zipIdx.map (fun (w, i) => (f.arg.toNat % 512 / 4 + i, w))
          let got := new ++ r.got.filter (fun e => !new.any (fun n => n.1 = e.1))
          let whole := (List.range (16 * r.n)).all (fun i => (got.lookup i).isSome)
          (st ≠ .ok ∨ whole = true → s.ends (.rdcpl f) close) ∧
          (st = .ok → whole = false → s.ends (.rdcpl f) (fun t =>
            t.host.reads = s.host.reads.map (fun x => if x = r then { r with got := got } else x) ∧
            t.ring.reads = s.ring.reads ∧ s.only t [.ring, .host, .out]))))) ∧
    (∀ f : Frame, s.isHead = true → s.ring.rdq = [] ∨ s.nothingToWrite →
      let mine (o : OutFr) : Bool := decide (o.frame.src = f.dst) && decide (o.frame.tag = f.tag)
      let st := f.arg.toNat / 65536 % 256
      ∀ o : OutFr, s.ring.reads.find? mine = some o →
        (st = 0 → f.payload ≠ [] ∧ 4 * f.payload.length = (wAt o.frame.payload 0).toNat % 512) →
      s.ends (.rdcpl f) (fun t => s.only t [.ring, .out] ∧
        (s.ring.rdq = [] → t.out = s.out ∧ t.ring.reads = s.ring.reads.filter (fun o => !mine o)) ∧
        t.ring.outq.take s.ring.outq.length = s.ring.outq ∧
        (let new := t.ring.outq.drop s.ring.outq.length
        (∀ g ∈ new, g.type = 4 ∧ g.dst = f.dst ∧ g.tag = f.tag ∧ g.payload.length ≤ s.pWords ∧
          g.arg.toNat / 65536 = st) ∧
        (new.map (fun g => g.payload)).flatten = (if st = 0 then f.payload else []) ∧
        new.map (fun g => g.last) = List.replicate (new.length - 1) false ++ [true] ∧
        new.map (fun g => g.arg.toNat % 65536) = (List.range new.length).map (fun i => 4 * s.pWords * i)))) ∧
    (∀ (p : Pos) (tag : Byte) (o : OutFr),
      s.ring.sent.find? (fun o => decide (o.frame.dst.toNat = p.val ∧ o.frame.tag = tag)) = some o →
      s.rd RING_DCFG.RTO ≤ o.age →
      s.ring.outq.any (fun g => decide (g.dst = o.frame.dst ∧ g.tag = o.frame.tag) && g.ackreq) = false →
      (o.tries < s.rd RING_DCFG.RETRIES → s.ends (.ackTimeout p tag) (fun t =>
          t.ring.sent = s.ring.sent.map (fun x => if x = o then { o with age := 0, tries := o.tries + 1 } else x) ∧
          t.ring.outq = s.ring.outq ++ [({ o.frame with retry := true } : Frame)] ∧ s.only t [.ring, .regs])) ∧
      (s.rd RING_DCFG.RETRIES ≤ o.tries → s.quiet 56 → s.ends (.ackTimeout p tag) (fun t =>
        t.rd RING_ERR.DATA_FAIL = 1 ∧ t.active 56 = true ∧ t.mayClass p.val (s.frCls o.frame) = false))) ∧
    (s.isHead = false → ∀ (tag : Byte) (o : OutFr),
      s.ring.reads.find? (fun o => decide (o.frame.tag = tag)) = some o → s.rd RING_DCFG.RDTO ≤ o.age →
      s.ring.outq.any (fun g => decide (g.type = 3 ∧ g.tag = tag)) = false →
      s.ends (.rdreqTimeout tag) (fun t =>
        if o.tries < s.rd RING_DCFG.RETRIES then
          t.ring.reads = s.ring.reads.map (fun x => if x = o then { o with age := 0, tries := o.tries + 1 } else x) ∧
          t.ring.outq = s.ring.outq ++ [({ o.frame with retry := true } : Frame)] ∧
          s.only t [.ring, .regs]
        else t.ring.reads = s.ring.reads.filter (fun x => decide (x ≠ o))))

/-- Register accesses over the ring (R512 to R516): an access to an absent position answers ones and is noted; one to a
live position goes out as a REG frame, one outstanding at a time; a member executes it and answers; the answer ends it,
and a second missing answer ends it with ones. An accepted write of `HOST_CTL` with a queue bit asks for that member's
doorbell line (the model's choice, log entry 45). -/
def Obligations.RegisterAccessOverTheRing : Prop :=
  ∀ s : State, s.idle = false → s.ring.resetting = false →
    (∀ (p : Pos) (o : Half), s.isHead = true → o.toNat % 4 = 0 →
      (p ≠ 0 → bitN (s.rd RING_PRESENT.PRES) p.val = false → s.ends (.bar1Access p o false [] 1) (fun t =>
        t.out = .answer [0xFFFFFFFF] :: s.out ∧ t.rd RING_ERR.UNMAPPED = 1 ∧ s.only t [.regs, .out] ∧
          s.regsBut t [RING_ERR.UNMAPPED])) ∧
      (p ≠ 0 → bitN (s.rd RING_PRESENT.PRES) p.val = true → ∀ w : Word, s.ends (.bar1Access p o true [w] 0) (fun t =>
        (∃ n ∈ t.ring.regs.getLast?, n.pos = p ∧ n.frame.payload = [w] ∧ regWrites n.frame = true ∧
          ((s.regOut p.val).isNone = true → t.ring.outq = s.ring.outq ++ [n.frame]) ∧
          ((s.regOut p.val).isSome = true → t.ring.outq = s.ring.outq)) ∧ s.only t [.ring]))) ∧
    (∀ f : Frame, s.hears f →
      (s.isHead = true → ∀ r : RegPend, s.regOut f.src.toNat = some r → r.frame.tag = f.tag →
        let off := r.frame.arg.toNat % 65536 / 4 * 4
        let asks : Prop := regWrites r.frame = true ∧ f.arg.getLsbD 0 = false ∧ off ≤ 0x1000 ∧
          (r.frame.payload.getD ((0x1000 - off) / 4) 0).toNat % 2 ^ 18 ≠ 0
        s.ends (.regr f) (fun t => t.ring.regs.length + 1 = s.ring.regs.length ∧ s.only t [.ring, .out, .host] ∧
          (¬ asks → t.host = s.host ∧
            t.out = if regWrites r.frame = true then (s.passOn f).out else .answer f.payload :: (s.passOn f).out) ∧
          (asks → t.host.ask.contains (Fin.ofNat 32 r.frame.dst.toNat) = true))) ∧
      (s.isHead = false → regWrites f = false → regCount f = 1 →
        s.blockHeld (f.arg.toNat % 65536 / 4 * 4) = false → s.host.heldAcc.any heldReg = false →
        s.host.latches.lookup (f.arg.toNat % 65536 / 4 * 4) = none → s.responds (f.arg.toNat % 65536 / 4 * 4) = true →
        s.ends (.reg f) (fun t => ∃ g ∈ t.ring.outq.getLast?, g.type = 2 ∧ g.dst = f.src ∧ g.tag = f.tag ∧
          g.payload = [s.regWord (f.arg.toNat % 65536 / 4 * 4)]))) ∧
    (∀ (p : Pos) (r : RegPend), s.regOut p.val = some r → 2 ≤ r.age →
      s.ring.outq.any (fun g => decide (g.type = 1 ∧ g.dst = r.frame.dst ∧ g.tag = r.frame.tag)) = false →
      s.ends (.regTimeout p) (fun t =>
      if r.again = true then t.ring.regs.length + 1 = s.ring.regs.length ∧ t.rd RING_ERR.REG_TMO = 1 ∧
        t.out = (if regWrites r.frame = true then s.out
          else .answer (List.replicate (regCount r.frame) 0xFFFFFFFF) :: s.out) ∧ s.only t [.ring, .regs, .out]
      else t.ring.regs = s.ring.regs.map (fun x => if x = r then ({ r with age := 0, again := true } : RegPend) else x) ∧
        t.ring.outq = s.ring.outq ++ [({ r.frame with retry := true } : Frame)] ∧ s.only t [.ring, .regs]))

/-! ### Safety -/

/-- The safety cycle (R52, R643 to R652, R655, R657): at its tick SAF takes its inputs into pass A and finds its causes;
the transactions of a pass act on its half of the data memory and are logged; the end marker of pass A starts pass B;
that of pass B, with both passes alike, counts the cycle and releases what was found; a mismatch with differing inputs
counts as input skew, one without raises `SAF_COMPARE`; a value out of its lanes, a full buffer, a late pass and a
missing marker raise their sources. -/
def Obligations.SafetyCycleRunsItsPasses : Prop :=
  ∀ s : State, s.idle = false → s.rb DBG_CTL.HALT_SAF = false →
    (∀ i : SafIn, s.rb SAF_STAT.CHECK_ON = true → s.now % 16 = 0 →
      s.ends (.safetyCycleStart i) (fun t => t.saf.pass = 1 ∧ t.saf.cycle = s.now / 16 ∧ t.saf.passAt = s.clk ∧
        t.saf.psetNew = none ∧ t.saf.missed = s.saf.missed + (if s.saf.pass = 0 then 0 else 1) ∧
        t.saf.bufA = [] ∧ t.saf.bufB = [] ∧ t.saf.logA = [] ∧ t.saf.logB = [] ∧
        (∀ ws : List Word, s.saf.psetNew = some ws → t.saf.pset = ws ∧
          ∀ c : Ch, t.rd (CH_VLIM.OV_TH c) = t.pset 8 % 2 ^ (CH_VLIM.OV_TH c).w) ∧
        t.saf.estA = i.pins.getLsbD 0 ∧ t.saf.estB = i.pins.getLsbD 1 ∧ t.saf.tray = i.pins.getLsbD 6 ∧
        t.saf.drvEn = i.pins.getLsbD 7 ∧ t.saf.kdr = s.saf.kdr ∧
        (s.readbackBad i = true → t.saf.due.contains (71, 0) = true) ∧
        (i.pins.getLsbD 6 = true → s.driving = true →
          (∃ c : Ch, (s.chan c).stage.iso = .closed ∨ (s.chan c).stage.iso = .opening) ∨ s.menOn = true →
          t.saf.due.contains (64, 0) = true) ∧
        (∀ c : Ch, 3 ≤ bget s.saf.tOver c → t.saf.due.contains (66, 0) = true) ∧
        (∀ c : Ch, s.saf.psetNew = none → (s.pset 8 + 50 : Int) * 1000 < bget s.saf.vPeak c → (s.cmpAt (chCmp c 2)).filt = false →
          t.saf.due.contains (67, 0) = true) ∧
        s.only t [.saf, .regs, .cmp, .flt])) ∧
    (∀ i : SafIn, s.now % 16 ≠ 0 ∨ s.rb SAF_STAT.CHECK_ON = false → exec (.safetyCycleStart i) s = .next s) ∧
    (∀ i : SpendIn, s.saf.pass = 0 → exec (.spend i) s = .next s) ∧
    (∀ i : SpendIn, s.saf.pass ≠ 0 → s.takesAll i → i.value ≠ 1 → s.ends (.spend i) (fun t =>
      t.saf.pass = s.saf.pass ∧ t.saf.due = s.saf.due ∧ s.only t [.saf] ∧
      (s.saf.pass = 1 → t.saf.bufA = s.saf.bufA ++ i.tx.map (safEntry 0) ∧ t.saf.logA = s.saf.logA ++ inputReads 0 i.tx ∧
        t.saf.memB = s.saf.memB) ∧
      (s.saf.pass = 2 → t.saf.bufB = s.saf.bufB ++ i.tx.map (safEntry (1 + s.saf.cycle % 8)) ∧
        t.saf.logB = s.saf.logB ++ inputReads (1 + s.saf.cycle % 8) i.tx ∧ t.saf.memA = s.saf.memA) ∧
      (∀ x : SafTx, i.tx = [x] → x.acc = .store → x.be = 15 → (unlaned s.safShift x.addr).toNat / 4 < 16384 →
        memWord (if s.saf.pass = 2 then t.saf.memB else t.saf.memA) ((unlaned s.safShift x.addr).toNat / 4) = x.data))) ∧
    (∀ i : SpendIn, s.saf.pass = 1 → s.takesAll i → i.value = 1 → s.ends (.spend i) (fun t =>
      t.saf.pass = 2 ∧ t.saf.passAt = s.clk ∧ t.saf.sigA = i.sig ∧ t.saf.due = s.saf.due ∧
      t.saf.bufA = s.saf.bufA ++ i.tx.map (safEntry 0) ∧ s.only t [.saf])) ∧
    (∀ i : SpendIn, s.saf.pass = 2 → s.takesAll i → i.value = 1 → s.dueQuiet →
      (s.compareOff = true → s.ends (.spend i) (fun t => t.saf.pass = 0 ∧ t.saf.missed = 0 ∧
        ∀ e ∈ s.saf.due, t.activeIn (Fin.ofNat 128 e.1) (placeOf e) = true)) ∧
      (s.compareOff = false → (s.safAccess i.tx).passesAgree i.sig = true → s.ends (.spend i) (fun t =>
        t.saf.pass = 0 ∧ t.saf.missed = 0 ∧ t.saf.skewRun = 0 ∧
        t.rd SAF_CYC.CYC = (s.rd SAF_CYC.CYC + 1) % 2 ^ SAF_CYC.CYC.w ∧
        (∀ e ∈ s.saf.due, t.activeIn (Fin.ofNat 128 e.1) (placeOf e) = true) ∧
        (s.saf.due = [] → s.only t [.saf, .regs, .flt] ∧ s.regsBut t [SAF_CYC.CYC]))) ∧
      (s.compareOff = false → (s.safAccess i.tx).passesAgree i.sig = false →
        (∀ k : Nat, (s.safAccess i.tx).skewInput = some k →
          (s.saf.skewRun < 3 → s.saf.skews.any (fun e => decide (e.1 = k ∧ s.saf.cycle < e.2 + 16)) = false →
            s.ends (.spend i) (fun t => t.saf.pass = 0 ∧ t.saf.skewRun = s.saf.skewRun + 1 ∧ t.rd SAF_SKEW.LAST = k ∧
              t.rd SAF_SKEW.COUNT = satU SAF_SKEW.COUNT.w (s.rd SAF_SKEW.COUNT + 1))) ∧
          (3 ≤ s.saf.skewRun ∨ s.saf.skews.any (fun e => decide (e.1 = k ∧ s.saf.cycle < e.2 + 16)) = true → s.quiet 75 →
            s.ends (.spend i) (fun t => t.saf.pass = 0 ∧ t.rd SAF_SKEW.LAST = k ∧ t.active 75 = true))) ∧
        ((s.safAccess i.tx).skewInput = none → s.quiet 76 → s.ends (.spend i) (fun t =>
          t.saf.pass = 0 ∧ t.saf.missed = s.saf.missed + 1 ∧ t.active 76 = true)))) ∧
    (∀ i : SpendIn, s.saf.pass ≠ 0 → s.dueQuiet → s.quiet 73 → s.quiet 74 → s.quiet 75 → s.quiet 76 → s.quiet 77 →
      s.ends (.spend i) (fun t =>
        ((∃ x ∈ i.tx, laneOk s.safShift x.addr = false ∨ laneOk s.safShift x.data = false) → t.active 73 = true) ∧
        (s.saf.pass = 1 → 4096 < s.saf.bufA.length + i.tx.length ∨
          256 < s.saf.logA.length + (inputReads 0 i.tx).length → t.active 74 = true) ∧
        (s.passLate = true → t.active 77 = true))) ∧
    (s.saf.pass ≠ 0 → s.saf.passAt + 6 ≤ s.clk → s.quiet 77 → s.ends .safOverrun (fun t => t.active 77 = true)) ∧
    (s.saf.pass = 0 ∨ s.clk < s.saf.passAt + 6 → exec .safOverrun s = .next s) ∧
    (2 ≤ s.saf.missed → s.rb SAF_STAT.CHECK_ON = true → s.quiet 72 → s.ends .safHeartbeat (fun t => t.active 72 = true)) ∧
    (s.saf.missed < 2 ∨ s.rb SAF_STAT.CHECK_ON = false → exec .safHeartbeat s = .next s)

/-- Safe-state requests and the `DRV_EN` toggle (R81, R87, R90, R619): a request in STANDBY, RUN or SERVICE sets the
latch, lowers the enables, turns every gate off and opens every `ISOn`, and asks for SAFE; a toggle counts toward the
exit only while no recorded cause is present. -/
def Obligations.SafeStateRequestStopsEverything : Prop :=
  ∀ (s : State), s.sys.parkDone = false →
    (s.sys.mode = .standby ∨ s.sys.mode = .run ∨ s.sys.mode = .service → s.sys.trans ≠ some .safe → s.gangsOk →
      ∀ x : SafeCause, (∀ n : Src, causeSrc x = some n → s.quiet n) → s.ends (.safeStateRequest x) (fun t =>
        (t.enablesLow ∧ (∀ n : Src, causeSrc x = some n → t.active n = true) ∧ t.sys.trans = some .safe ∧ t.sys.mode = s.sys.mode ∧ t.rb SAF_STAT.LATCH = true ∧
          (s.rb SAF_STAT.LATCH = false → t.rd SAF_CAUSE.FIRST = causeCode x) ∧ t.saf.toggled = false ∧
          t.mot.gatesOff = true ∧ ∀ c : Ch, (t.chan c).stage.gates = false ∧ (t.chan c).stage.iso = .opened))) ∧
    s.ends .drvEnToggle (fun t =>
      t.rd FLT_DRVEN.TOGGLES = satU FLT_DRVEN.TOGGLES.w (s.rd FLT_DRVEN.TOGGLES + 1) ∧ t.saf.drvEn = true ∧
      (s.rd SAF_CAUSEV.SF ≠ 0 ∨ s.rd SAF_CAUSEV.OTHER ≠ 0 → t.saf.toggled = s.saf.toggled) ∧
      (s.rd SAF_CAUSEV.SF = 0 → s.rd SAF_CAUSEV.OTHER = 0 → s.rb SAF_STAT.LATCH = true → t.saf.toggled = true) ∧
      s.only t [.saf, .regs, .flt, .host] ∧ s.regsBut t [FLT_DRVEN.TOGGLES, FLT_DRVEN.ARMED])

/-- Contactors, SS1, E-stop, tray and bus chopper (R623, R627 to R641): the drive rises only where every condition holds,
its feedback is checked at the end of its window and while it stands; SS1 ends with MEN low and MEN returns a second
later; a filtered E-stop input makes a demand; a tray exchange resets the counters of SF6; the chopper follows its
thresholds, its overload raises source 36. -/
def Obligations.ContactorsStopsAndTray : Prop :=
  ∀ s : State,
    (s.saf.kdr = false → s.rb SAF_KCTL.REQ = true → s.sys.mode = .standby ∨ s.sys.mode = .run ∨ s.sys.mode = .service →
      s.rb SAF_STAT.LATCH = false → s.ownCause = false → s.saf.tray = false → s.saf.estA = true → s.saf.estB = true →
      s.saf.kfbA = true → s.saf.kfbB = true → s.since s.saf.kfbSince 100 = true →
      s.ends .kdrClose (fun t => t.saf.kdr = true ∧ t.saf.kEdge = s.clk ∧ t.saf.kChecked = false ∧ t.rd SAF_KSTAT.STATE = 1 ∧
        s.only t [.saf, .regs] ∧ s.regsBut t [SAF_KSTAT.STATE, SAF_KSTAT.CYCLES])) ∧
    (s.rb SAF_KCTL.REQ = false ∨ s.saf.tray = true ∨ s.saf.estA = false ∨ s.saf.estB = false ∨ s.rb SAF_STAT.LATCH = true ∨
      s.ownCause = true → exec .kdrClose s = .next s) ∧
    (∀ a b : Bool, s.saf.kChecked = false → s.saf.kEdge + s.msT (if s.saf.kdr = true then s.pset 1 else s.pset 2) ≤ s.clk →
      s.ends (.kfbCheck a b) (fun t => t.saf.kChecked = true ∧ t.saf.kfbA = a ∧ t.saf.kfbB = b ∧ s.only t [.saf, .regs] ∧
        if a ≠ s.saf.kdr ∧ b ≠ s.saf.kdr then t.rd SAF_KSTAT.STATE = (if s.saf.kdr = true then 2 else 0) ∧ t.saf.due = s.saf.due
        else t.rd SAF_KSTAT.STATE = 4 ∧ t.saf.due.contains (64, 0) = true ∧
          t.rd SAF_KSTAT.FCAUSE = (if a = s.saf.kdr then (if s.saf.kdr = true then 3 else 1)
            else (if s.saf.kdr = true then 4 else 2)))) ∧
    (∀ b : Bool, s.saf.kChecked = true → s.ends (.kfbDiscrepancy b s.saf.kdr) (fun t =>
      (if b then t.saf.kfbB else t.saf.kfbA) = s.saf.kdr ∧ t.rd SAF_KSTAT.STATE = 4 ∧ t.saf.due.contains (64, 0) = true ∧
      s.only t [.saf, .regs] ∧ s.regsBut t [SAF_KSTAT.STATE, SAF_KSTAT.FCAUSE])) ∧
    (∀ u : Nat, s.saf.kDropAt = some u → u ≤ s.clk → s.ends .kdrDrop (fun t => t.saf.kdr = false ∧ t.saf.kDropAt = none ∧
      s.only t [.saf, .regs] ∧ s.regsBut t [SAF_KSTAT.STATE])) ∧
    (∀ p : Nat × Nat, s.saf.ss1 = some p → s.pressSpeed < s.pset 6 ∨ p.2 + s.msT (s.pset 5) ≤ s.clk →
      s.ends .ss1End (fun t => t.saf.ss1 = none ∧ t.saf.men = false ∧ t.saf.menAt = some s.clk ∧ t.mot.gatesOff = true ∧
        t.mot.cmd = none ∧ t.rd MOT_STAT.STATE = 5 ∧ s.only t [.saf, .mot, .regs, .host])) ∧
    (s.since s.saf.menAt 1000 = true → s.sys.mode = .standby ∨ s.sys.mode = .run ∨ s.sys.mode = .service →
      s.rb SAF_STAT.LATCH = false → s.ends .menRestore (fun t => t.saf.men = true ∧ t.saf.menAt = none ∧ s.only t [.saf, .flt])) ∧
    (∀ b : Bool, s.quiet 70 → s.ends (.estopFilterExpiry b) (fun t =>
      (if b then t.saf.estB else t.saf.estA) = false ∧ t.active 70 = true)) ∧
    (bitN (s.rd SAF_CAUSEV.SF) 6 = true → s.saf.estSeenA = false ∨ s.saf.estSeenB = false →
      s.ends .estopDiscrepancy (fun t => t.rd SAF_IO.EST_DISC = 1 ∧ s.only t [.regs] ∧ s.regsBut t [SAF_IO.EST_DISC])) ∧
    (s.since s.saf.trayOpen 1000 = true → s.saf.trayIso = false → s.anyIso = false → s.ends .trayExchange (fun t =>
      t.saf.tray = false ∧ t.saf.trayOpen = none ∧ (∀ c : Ch, bget t.saf.sf6Q c = 0 ∧ bget t.saf.sf6T c = 0 ∧
        t.activeIn 15 c = false) ∧ s.only t [.saf, .flt, .host])) ∧
    (∀ v : Nat, s.ends (.brkbSwitch v) (fun t => s.only t [.saf] ∧
      t.saf.brkb.since.isSome = (if s.saf.brkbForce then true else if s.active 36 then false
        else if s.brkbEff.1 < (v : Int) then true else if (v : Int) < s.brkbEff.2 then false else s.saf.brkb.since.isSome))) ∧
    (s.rd SAF_BRKBD.DMAX * s.msT 1000 < 100 * s.saf.brkb.onTime s.clk (s.msT 1000) → s.quiet 36 → s.ends .brkbOvl (fun t =>
      t.active 36 = true ∧ (s.saf.brkbForce = false → t.saf.brkb.since = none)))

/-! ### Metrology -/

/-- Housekeeping, decimated readings, SAR tracking and telemetry (R179 to R181, R284, R307, R317 to R321, R461): a
thermistor sample within its limits gives the temperature and k_T, one outside them takes them away and the third stops
the gang; the die and supply samples are their registers; a decimated reading enters its registers at its tick; a fit
moves the SAR constants by at most its bounds and starts the next 1,024 ticks; a report writes sixteen records, after
the events and completions that wait (R467), and starts the intervals anew. -/
def Obligations.ReadingsAndTelemetry : Prop :=
  ∀ s : State, s.idle = false →
    (∀ (c : Ch) (raw : Half),
      let cmd : Instr := .hkSample ⟨c.val, by omega⟩ raw
      (100 * raw.toNat ≤ 98 * 65536 → 2 * 65536 ≤ 100 * raw.toNat → s.ends cmd (fun t =>
        (t.chan c).met.temp = ntcT raw.toNat (s.rd MET_NTC.BETA) (s.rd MET_NTC.RNOM) ∧ (t.chan c).met.tempOk = true ∧
        t.rd (CH_PSTAT.NTC_OK c) = 1 ∧ (t.chan c).stage.kT = s.kTof c (t.chan c).met.temp ∧
        (t.chan c).stage.ntcHi = 0 ∧ (t.chan c).stage.ntcLo = 0 ∧
        bget t.saf.temp c = some (ntcT raw.toNat s.saf.beta s.saf.rnom) ∧ s.chBut t [c, s.leader c] ∧
        s.only t [.ch, .regs, .flt, .saf] ∧ s.regsBut t [CH_PSTAT.NTC_OK c])) ∧
      (98 * 65536 < 100 * raw.toNat ∨ 100 * raw.toNat < 2 * 65536 → s.rb (CH_SENSE.NTC_EN c) = false → s.ends cmd (fun t =>
        (t.chan c).met.tempOk = false ∧ t.rd (CH_PSTAT.NTC_OK c) = 0 ∧ (t.chan c).stage.ntcHi = 0 ∧
        (t.chan c).stage.ntcLo = 0 ∧ (t.chan c).stage.kT = (s.chan c).stage.kT ∧ bget t.saf.temp c = none ∧
        s.chBut t [c, s.leader c] ∧ s.only t [.ch, .regs, .saf] ∧ s.regsBut t [CH_PSTAT.NTC_OK c])) ∧
      (98 * 65536 < 100 * raw.toNat → s.rb (CH_SENSE.NTC_EN c) = true → 2 ≤ (s.chan c).stage.ntcHi → (s.seq c).lead = none →
        s.gangsOk → s.ends cmd (fun t => (s.quiet 7 → t.activeIn 7 c = true) ∧
          ∀ d ∈ s.gang c, (t.chan d).stage.gates = false ∧ (t.chan d).stage.iso = .opened)) ∧
      (100 * raw.toNat < 2 * 65536 → s.rb (CH_SENSE.NTC_EN c) = true → 2 ≤ (s.chan c).stage.ntcLo → (s.seq c).lead = none →
        s.gangsOk → s.ends cmd (fun t => (s.quiet 8 → t.activeIn 8 c = true) ∧
          ∀ d ∈ s.gang c, (t.chan d).stage.gates = false ∧ (t.chan d).stage.iso = .opened))) ∧
    (∀ raw : Half, s.quiet 39 → s.quiet 40 → s.ends (.hkSample 16 raw) (fun t =>
      t.rdS MET_HKTJ.TJ = toS 16 (ofS 16 (Config.dieTemp raw.toNat)) ∧
        (12500 ≤ Config.dieTemp raw.toNat → t.active 39 = true) ∧ (15000 ≤ Config.dieTemp raw.toNat → t.active 40 = true) ∧
        (Config.dieTemp raw.toNat < 14000 → (t.src 40).cond.getLsbD 0 = false) ∧
        (Config.dieTemp raw.toNat < 12000 → (t.src 39).cond.getLsbD 0 = false))) ∧
    (∀ (k : Fin 8) (raw : Half), s.ends (.hkSample ⟨17 + k.val, by omega⟩ raw) (fun t =>
      t.rd (MET_HKV.MV k) = Config.supplyMv k.val raw.toNat % 2 ^ (MET_HKV.MV k).w ∧ s.only t [.regs] ∧
      s.regsBut t [MET_HKV.MV k])) ∧
    (∀ (c : Ch) (v i : Int), s.now % max 1 (s.rd MET_CFG.ODR_DIV) = 0 → s.ends (.sinc3Output c v i) (fun t =>
      t.rdS (CH_MI.MI c) = s.metUa c i ∧ t.rdS (CH_MV.MV c) = (if (s.chan (s.leader c)).met.exAge < s.rd MET_CFG.ODR_DIV then s.rdS (CH_MV.MV c) else s.metUv c v) ∧
      s.only t [.regs] ∧ s.regsBut t [CH_MI.MI c, CH_MV.MV c])) ∧
    (∀ c : Ch, 1024 ≤ (s.chan c).met.trkN → s.ends (.sarTrackFit c) (fun t => (t.chan c).met.trkN = 0 ∧
      (bget t.met.sarGain c - bget s.met.sarGain c).natAbs ≤ 5000 ∧
      (bget t.met.sarOfs c - bget s.met.sarOfs c).natAbs ≤ 2500 * 2 ^ s.rd (CH_MCFG.CRANGE c) ∧
      (s.met.frozen = true ∨ s.rb MET_CFG.SAR_TRACK = false → t.met = s.met) ∧
      s.chBut t [c] ∧ s.only t [.ch, .met, .free])) ∧
    (s.now % max 1 s.sys.tlm = 0 →
      (s.rb HOST_CTL.TLR_EN = false → s.ends .telemetryReport (fun t => (∀ c : Ch, (t.chan c).tlm = Tlm.reset) ∧ s.only t [.ch])) ∧
      (s.rb HOST_CTL.TLR_EN = true → s.ends .telemetryReport (fun t => (∀ c : Ch, (t.chan c).tlm = Tlm.reset) ∧
        (s.nothingToWrite → t.host.tlrSeq = s.host.tlrSeq + 1 ∧
          (s.isHead = true → s.canWrite .telemetry = true → s.rb HOST_ERR.TLR_ERR = false →
            t.out.length = s.out.length + 16 ∧ (bget t.host.msix 3).pend = true ∧ s.only t [.ch, .host, .regs, .free, .out]) ∧
          (s.rb HOST_ERR.TLR_ERR = true → s.only t [.ch, .host, .regs, .free])))))

/-- The Ibex rotation and its calibrations (R280 to R301): an idle spare takes the next converter, calibrates itself in
each range whose constants are due, and settles; after a passed compare it carries the channel, and after the
calibration and a second compare the converter returns; a range change takes the new range over at its source changes; a
mismatch counts, and two with different targets withdraw the spare; a calibration is accepted or rejected; a reference
beyond its limit freezes the constants. -/
def Obligations.IbexRotationHandsOver : Prop :=
  ∀ (s : State) (sp : SpareId), s.idle = false →
    let p := s.spare sp
    let c : Ch := Fin.ofNat 16 (p.target.val / 2)
    let src (t : State) : Nat := if p.target.val % 2 = 1 then (t.chan c).met.src.val else (t.chan c).met.vsrc.val
    (∀ (k : Nat) (s' : State), s.rotPick = some (k, s') → s.rb MET_CFG.IBX_EN = true → p.st = .idle → s.met.reqs = [] →
      s.met.spares.toList.any (fun q => decide (q.st ≠ .idle ∧ q.target.val = k)) = false →
      s.ends (.ibxRotationStart sp) (fun t => (t.spare sp).target.val = k ∧ (t.spare sp).rc = false ∧ (t.spare sp).t = 0 ∧
        (t.spare sp).rng.val = (if k % 2 = 0 then 4 else s.rngActive (Fin.ofNat 16 (k / 2))) % 5 ∧
        (t.spare sp).st = (if (s.dueRng sp 0).isSome = true then .selfCal else .settling) ∧
        (t.spare sp).calNext = (s.dueRng sp 0).getD 0 ∧ t.met.taken.getLsbD k = true ∧ s.only t [.met])) ∧
    (∀ (k : Fin 36) (r : Fin 5) (m : Nat) (a b d : Int), (s.sec.gradeM = true → d.natAbs ≤ 1000) → s.met.frozen = false → s.quiet 48 →
      (k.val = p.target.val → p.st = .carrying → p.passRng = r.val → 1056 * (p.calNext + 1) ≤ p.t →
        sp = 0 ∨ (s.spare 0).st ≠ .carrying →
        s.ends (.calibrationComplete k r m a b d) (fun t => t.spare sp = p.passDone ∧ s.judged t k.val r.val a b)) ∧
      (k.val = 32 + sp.val → 1056 ≤ p.t → (p.st = .selfCal ∧ p.calNext = r.val) ∨ (p.st = .idle ∧ s.calDue k.val r.val = true) →
        s.ends (.calibrationComplete k r m a b d) (fun t => s.judged t k.val r.val a b ∧ (t.spare sp).t = 0 ∧
          (t.spare sp).st = (if p.st = .selfCal then
            (if (t.dueRng sp (p.calNext + 1)).isSome = true then .selfCal else .settling) else .idle))) ∧
      (34 ≤ k.val → s.ends (.calibrationComplete k r m a b d) (fun t =>
        s.judged t k.val (if k.val = 34 then s.forceRng else 7) a b ∧ ∀ x ∈ t.met.newCal, x.conv ≠ k.val))) ∧
    (∀ (r : Fin 5) (m : Nat) (a b d : Int), s.sec.gradeM = true → s.quiet 49 → s.quiet 48 →
      (1000 < d.natAbs → s.ends (.calibrationComplete 35 r m a b d) (fun t => t.met.frozen = true ∧ t.active 49 = true ∧
        t.rd MET_FLAGS.REF_FAULT = 1 ∧ t.rdS MET_REFSTAT.DEV = toS MET_REFSTAT.DEV.w (ofS MET_REFSTAT.DEV.w d) ∧
        (t.spare sp).st ≠ .selfCal ∧ (t.spare sp).st ≠ .carrying)) ∧
      (s.met.frozen = true → 1 ≤ s.met.goodRef → d.natAbs ≤ 500 → s.ends (.calibrationComplete 35 r m a b d) (fun t =>
        t.met.frozen = false ∧ t.active 49 = false ∧ t.rd MET_REFSTAT.REF_OK = 1))) ∧
    (∀ (m : Nat) (u v : Int) (o : Bool), p.passed = false → p.compares = true → p.skip = false ∨ p.st = .returning →
      (p.rc = false ∨ p.st = .returning ∨ p.t < 32 ∨ p.cmp.ovl ≠ p.t) → s.cmpLen p ≤ p.cmp.n →
      let r := if p.target.val % 2 = 0 then 4 else max p.rng.val (s.rngActive c)
      if (p.cmp.diff.natAbs : Int) * 1000000 ≤
          100000000 * ((s.rd MET_IBXTOL.TOL : Int) * fsNv r * p.cmp.clk + 4 * xRef r * 1000000) then
        s.ends (.compareWindowEnd sp m u v o) (fun t => (t.spare sp).passed = true ∧ (t.spare sp).lastBad = none ∧ s.only t [.met])
      else s.quiet 50 → s.ends (.compareWindowEnd sp m u v o) (fun t => s.misses t sp)) ∧
    (∀ (m : Nat) (u v : Int) (o : Bool), p.passed = false → p.rc = true → p.st = .shadowing → 32 ≤ p.t → p.cmp.ovl = p.t →
      s.ends (.compareWindowEnd sp m u v o) (fun t => t.rd (CH_MRNG.DENIED c) = 1 ∧ t.rngActive c = s.rngActive c)) ∧
    (p.passed = false → (p.st = .shadowing ∧ 1024 ≤ p.t) ∨ (p.st = .returning ∧ 1056 ≤ p.t) → s.quiet 50 →
      s.ends (.ibxWindowTimeout sp) (fun t => s.misses t sp)) ∧
    (p.st = .shadowing → p.passed = true ∨ (p.skip = true ∧ 32 ≤ p.t) → s.ends (.sourceChange sp) (fun t =>
      src t = 1 + sp.val ∧ t.rd MET_IBXCNT.HANDOVERS = (s.rd MET_IBXCNT.HANDOVERS + 1) % 2 ^ MET_IBXCNT.HANDOVERS.w ∧
      (p.rc = false → (t.spare sp).st = .carrying ∧ t.rngActive c = s.rngActive c) ∧
      (p.rc = true → p.rng.val < 4 → (t.spare sp).st = .returning ∧ t.rngActive c = p.rng.val) ∧
      s.chBut t [c, s.leader c] ∧ s.only t [.met, .ch, .regs])) ∧
    (p.st = .returning → p.passed = true → s.ends (.sourceChange sp) (fun t =>
      src t = 0 ∧ t.rd MET_IBXCNT.HANDOVERS = (s.rd MET_IBXCNT.HANDOVERS + 1) % 2 ^ MET_IBXCNT.HANDOVERS.w ∧
      (s.met.reqs = [] → (t.spare sp).st = .idle) ∧ (p.rc = false → t.rngActive c = s.rngActive c) ∧
      (p.rc = true → p.rng.val < 4 → t.rngActive c = p.rng.val) ∧
      s.chBut t [c, s.leader c] ∧ s.only t [.met, .ch, .regs]))

/-! ### The host queues -/

/-- Doorbells and descriptor reads (R416, R421, R422, R424, R427 to R430, R447, R467): the head polls the summary line,
with the lines still asked for, and reads the lines it calls for; a read of the doorbell block that fails is recorded
and stops nothing (the model's choice, log entry 46); a device takes the tails and counts of its line: a tail that moves
forward within the depth at once, one that moves backward is held, one beyond the depth stops its queue; a line counts
as forwarded once it has been; a read of descriptors goes out for the queue that is next, after the events and
completions that wait; what it returns joins the prefetched descriptors, and a failed read stops its queue. -/
def Obligations.DoorbellsAndDescriptorReads : Prop :=
  ∀ s : State, s.idle = false →
    let takes (t : State) (l : DbLine) : Prop :=
      t.host.evqC = l.evqCons.toNat ∧ t.host.cpqC = l.cpqCons.toNat ∧ t.host.tlrC = l.tlrCons.toNat ∧
      (∀ q : QId, let v := (l.tails.getD q.val 0).toNat
        let x := s.subq q
        (s.qOn q = false → t.subq q = x) ∧
        (s.qOn q = true → x.held.isSome = true → (t.subq q).held = some v ∧ (t.subq q).tail = x.tail) ∧
        (s.qOn q = true → x.held = none → sub16 v x.tail < 32768 → sub16 v (s.doneOf q) ≤ s.qDepth q → (t.subq q).tail = v) ∧
        (s.qOn q = true → x.held = none → v ≠ x.tail → 32768 ≤ sub16 v x.tail →
          (t.subq q).held = some v ∧ (t.subq q).tail = x.tail) ∧
        (s.qOn q = true → x.held = none → v ≠ x.tail → sub16 v x.tail < 32768 → s.qDepth q < sub16 v (s.doneOf q) →
          (t.subq q).tail = x.tail ∧ (t.subq q).stopped = true)) ∧ s.only t [.host, .regs, .ring, .out]
    let line (p : Pos) : Out := .hostRead (s.rd HOST_DBBLO.BASE * 2048 + s.rd HOST_DBBHI.BASE * 2 ^ 32 + 64 * p.val) 64
    let failed (t : State) : Prop := t.rd HOST_ERRINFO.QUEUE = 21 ∧ t.rd HOST_ERRINFO.CODE = 2 ∧
      t.rd HOST_ERR.QERR = s.rd HOST_ERR.QERR
    (s.canRead = true → s.rb HOST_CTL.DB_EN = true → s.host.sumRd = false → s.rd HOST_DBCFG.DB_POLL ≤ s.host.pollT →
      let asked := s.host.ask.filter (fun p => !s.host.lineRd.contains p)
      s.ends .doorbellPoll (fun t => t.host.sumRd = true ∧ t.host.pollT = 0 ∧ t.host.lineRd = s.host.lineRd ++ asked ∧
        t.out = (asked.map line).reverse ++
          .hostRead (s.rd HOST_SUMLO.ADDR * 64 + s.rd HOST_SUMHI.BASE * 2 ^ 32) 64 :: s.out ∧ s.only t [.host, .out])) ∧
    (∀ d : SumRd, ∀ g : Word, s.canRead = true → s.host.sumRd = true →
      let adv := (g - BitVec.ofNat 32 s.host.sgen).toNat
      let called := allPos.filter (fun p => if adv = 1 then d.smask.getLsbD p.val
        else decide (1 < adv ∧ p.val < max 1 (s.rd RING_STAT.NPOS)))
      (d.st = .ok → s.ends (.summaryReadComplete d g) (fun t => t.host.sumRd = false ∧ t.host.sgen = g.toNat ∧
        t.host.lineRd = s.host.lineRd ++ called ∧ t.out = (called.map line).reverse ++ s.out ∧ s.only t [.host, .out])) ∧
      (d.st ≠ .ok → s.ends (.summaryReadComplete d g) (fun t => t.host.sumRd = false ∧ t.host.sgen = s.host.sgen ∧
        t.host.lineRd = s.host.lineRd ∧ failed t ∧ s.only t [.host, .regs]))) ∧
    (∀ (p : Pos) (l : LineRd), s.host.lineRd.contains p = true →
      let kept (t : State) : Prop := t.host.lineRd = s.host.lineRd.erase p ∧ t.host.ask = s.host.ask ∧ t.host.fwd = s.host.fwd
      let ready := p.val = s.pos ∨ (s.onRing = true ∧ s.mayClass p.val .dbl = true)
      (l.st ≠ .ok → s.ends (.doorbellLineRead p l) (fun t => kept t ∧ failed t ∧ s.only t [.host, .regs])) ∧
      (l.st = .ok → s.host.ask.contains p = true ∨ bget s.host.fwd p ≠ some l.line.lgen.toNat →
        (ready → s.ends (.doorbellLineRead p l) (fun t => t.host.lineRd = s.host.lineRd.erase p ∧
          t.host.ask.contains p = false ∧
          bget t.host.fwd p = some l.line.lgen.toNat ∧ (p.val = s.pos → takes t l.line) ∧
          (p.val ≠ s.pos → (∃ f ∈ t.ring.outq.getLast?, f.type = 6 ∧ f.dst.toNat = p.val ∧ f.ackreq = true ∧
            f.payload = lineWords l.line) ∧ s.only t [.host, .ring]))) ∧
        (¬ ready → s.ends (.doorbellLineRead p l) (fun t => kept t ∧ s.only t [.host]))) ∧
      (l.st = .ok → s.host.ask.contains p = false → bget s.host.fwd p = some l.line.lgen.toNat →
        s.ends (.doorbellLineRead p l) (fun t => kept t ∧ s.only t [.host]))) ∧
    (∀ f : Frame, s.hears f → s.ends (.dbl f) (fun t => takes t (parseLine f.payload))) ∧
    (let u := s.drainWrites
    (s.nothingToWrite → u = s) ∧
    ∀ q : QId, u.idle = false → u.fetchNext = some q → u.host.reads.length < 8 →
      let cnt := (u.nextCount q + u.underWay q) % 65536
      (u.isHead = true → u.canRead = true → u.tagFree = true → s.ends .descriptorFetch (fun t =>
        t.host.reads = u.host.reads ++ [(⟨q, cnt, u.fetchN q, u.tagFor 0, []⟩ : ReadReq)] ∧
        (t.subq q).fetched = (cnt + u.fetchN q) % 65536 ∧
        t.out = .hostRead (u.qBase q + 64 * u.posOf q cnt) (64 * u.fetchN q) :: u.out ∧ u.only t [.host, .out])) ∧
      (u.isHead = false → u.mayClass 0 .rdreq = true → u.ring.resetting = false → s.ends .descriptorFetch (fun t =>
        t.host.reads = u.host.reads ++ [(⟨q, cnt, u.fetchN q, u.tagFor 0, []⟩ : ReadReq)] ∧
        (t.subq q).fetched = (cnt + u.fetchN q) % 65536 ∧
        ∃ f ∈ t.ring.outq.getLast?, f.type = 3 ∧ f.dst = 0 ∧ f.arg.toNat = (u.qBase q + 64 * u.posOf q cnt) % 2 ^ 64 ∧
          f.payload = [wN (64 * u.fetchN q)]))) ∧
    (s.host.resetAt = [] → ∀ (q : QId) (r : ReadReq), s.host.reads.find? (fun x => decide (x.q = q)) = some r → s.qOn q = true →
      ∀ (st : RdStatus) (ws : List Word),
      (st ≠ .ok → s.ends (.descriptorReadComplete q st ws) (fun t => t.host.reads = s.host.reads.erase r ∧
        (t.subq q).stopped = true ∧ bitN (t.rd HOST_ERR.QERR) q.val = true ∧
        (s.ring.rdq = [] → t.rd HOST_ERRINFO.CODE = 2 ∧ t.rd HOST_ERRINFO.QUEUE = q.val))) ∧
      (st = .ok → r.first = s.nextCount q → q.val ≠ 17 → s.ring.rdq = [] ∨ s.nothingToWrite → s.ends (.descriptorReadComplete q st ws) (fun t =>
        t.host.reads = s.host.reads.erase r ∧ (t.subq q).pre.length = (s.subq q).pre.length + r.n ∧
        ((t.subq q).pre.drop (s.subq q).pre.length).map (·.words) =
          (List.range r.n).map (fun i => (ws.drop (16 * i)).take 16) ∧
        (s.host.adm.isSome = true → s.only t [.host, .ring, .out]))) ∧
      (st = .ok → r.first = s.nextCount q → q.val = 17 → r.n = 1 → (s.subq q).pre = [] → s.admMay = true → s.ring.rdq = [] →
        ∀ e : Nat, admBad (ws.take 16) = some e →
          let h := parseAdm (ws.take 16) (s.posOf aq (s.subq aq).done)
          s.ends (.descriptorReadComplete q st ws) (fun t => t.lastDone h.1 h.2 e 0)))

/-- Completions, events, interrupts and the PCIe function (R429, R448 to R450, R464 to R473, R798): the oldest group of
completions is written when the queue has room for all of it, by the head at once, its STEP record last, and causes its
vector, after the events that wait (R467); the oldest event is written, or lost and counted when its queue is full, and
the loss is told once there is room again; a pending message goes out when its interval has passed; the configuration of
the head follows the host. -/
def Obligations.CompletionsEventsAndInterrupts : Prop :=
  ∀ s : State, s.idle = false →
    (let u := s.drainEvents
    (s.host.events = [] → s.host.evqNote = false → u = s) ∧
    ∀ (g : CGroup) (rest : List CGroup), s.host.cbuf = g :: rest → u.rb HOST_CTL.CPQ_EN = true →
      u.rb HOST_ERR.CPQ_ERR = false → s.host.flight = none → u.canWrite .completion = true →
      let used := sub16 s.host.cpqW s.host.cpqC
      (used + g.recs.length ≤ s.cpqDepth → s.isHead = true →
        (∀ e ∈ s.host.resetAt, g.recs ≠ [adminRec e.2.idx.toNat 0 15 e.2.tag.toNat 0]) →
        s.ends .completionPost (fun t => t.host.cbuf.take rest.length = rest ∧
          t.host.cpqW = (s.host.cpqW + g.recs.length) % 65536 ∧
          t.out.drop g.recs.length = u.out ∧ t.out.length = u.out.length + g.recs.length ∧ (bget t.host.msix g.vec).pend = true ∧
          (∀ (r : List Word) (rs : List (List Word)), g.recs = r :: rs → t.out.head? = some (.hostWrite
            (s.cpqBase + 32 * (s.host.cpqW % 65536 % s.cpqDepth))
            (wordsBytes (withPhase (phaseOf (s.host.cpqW % 65536) s.cpqDepth) r)))) ∧
          (g.owner ≠ .mot → u.only t [.host, .out, .ch]))) ∧
      (used + g.recs.length ≤ s.cpqDepth → s.isHead = false → s.ends .completionPost (fun t =>
        t.host.flight = some s.host.wrote ∧ t.host.cbuf = s.host.cbuf)) ∧
      (used ≤ s.cpqDepth → s.cpqDepth < used + g.recs.length → exec .completionPost s = .next u)) ∧
    (s.rb HOST_CTL.EVQ_EN = true → s.rb HOST_ERR.EVQ_ERR = false → s.canWrite .event = true →
      let used := sub16 s.host.evqW s.host.evqC
      let told (t : State) (src : Nat) : Prop := t.host.evqW = (s.host.evqW + 1) % 65536 ∧
        (s.isHead = true → (bget t.host.msix 2).pend = true ∧ t.out.tail = s.out ∧ s.only t [.host, .out] ∧ t.out.head?.any (fun o => match o with
          | .hostWrite a w => decide (a = s.evqBase + 16 * (s.host.evqW % s.evqDepth) ∧ w.length = 16 ∧
              w.getD 1 0 = BitVec.ofNat 8 src)
          | _ => false) = true)
      (∀ (e : EvRec) (rest : List EvRec), s.host.events = e :: rest →
        (used < s.evqDepth → s.host.evqNote = false → s.ends .eventPost (fun t => t.host.events = rest ∧ told t e.src)) ∧
        (used = s.evqDepth → s.ends .eventPost (fun t => t.host.events = rest ∧ t.host.evqNote = true ∧
          t.rd HOST_ERR.EVQ_OVF = 1 ∧ t.rd HOST_EVQLOST.LOST = satU 32 (s.rd HOST_EVQLOST.LOST + 1) ∧ s.only t [.host, .regs] ∧
          s.regsBut t [HOST_ERR.EVQ_OVF, HOST_EVQLOST.LOST]))) ∧
      (used < s.evqDepth → s.host.evqNote = true → s.ends .eventPost (fun t => t.host.events = s.host.events ∧
        t.host.evqNote = false ∧ told t 20))) ∧
    (∀ v : Fin 8, (bget s.host.msix v).pend = true →
      (s.isHead = true → (bget s.host.msix v).wait = 0 → s.host.link = true → s.host.bme = true → s.host.msixEn = true →
        s.vecMasked v = false → s.ends (.msixSend v) (fun t => (bget t.host.msix v).pend = false ∧ t.out = .msix v :: s.out ∧
          (bget t.host.msix v).wait = (if s.modOf v = 0 then 0 else 2 ^ (s.modOf v - 1)) ∧
          (∀ u : Fin 8, u ≠ v → bget t.host.msix u = bget s.host.msix u) ∧ s.only t [.host, .out])) ∧
      (s.isHead = false → s.ring.outq.any (fun f => decide (f.type = 5)) = false →
        s.ring.sent.any (fun o => decide (o.frame.type = 5)) = false →
        s.ends (.msixSend v) (fun t => (bget t.host.msix v).pend = false ∧
          (∀ u : Fin 8, u ≠ v → bget t.host.msix u = bget s.host.msix u)))) ∧
    (s.isHead = true → ∀ x y z : Bool, s.ends (.pcieLinkChange x) (fun t => t.host.link = x ∧ s.only t [.host]) ∧
      s.ends (.pcieConfigWrite x y z) (fun t => t.host.xtag = x ∧ t.host.bme = y ∧ t.host.msixEn = z ∧ t.host.link = s.host.link ∧
        s.only t [.host]))

/-! ### The press -/

/-- The motion commands (R441, R442, R572, R595, R597, R599): where MOT may begin the descriptor at the head of MQ, a
valid command whose loops have gains leaves the prefetch, starts the motor from OFF and goes to its first phase from
holding, HOME clearing the latch; an invalid one completes with FAULT and STEP_INVALID and halts MOT; in HALTED none of
them begins. A STOP ends the running command with REVOKED and what was prefetched before it, and begins; in HALTED it
completes at once and leaves MOT off. A row whose descriptor is not the one that MQ has next changes nothing. -/
def Obligations.MotionCommandsBegin : Prop :=
  ∀ (s : State) (idx : Half) (d : MotionDesc),
    let cmds : List (Nat × Instr) := [(0x41, .home idx d), (0x42, .moveTo idx d), (0x43, .press idx d),
      (0x44, .holdForce idx d), (0x45, .release idx d)]
    let begun (t : State) (e : MotionDesc) : Prop := t.mot.cmd.map (fun m => (m.desc, m.idx, m.ticks)) = some (e, idx.toNat, 0) ∧
      t.mot.hold = .none ∧
      (s.rd MOT_STAT.STATE = 0 → t.rd MOT_STAT.STATE = 1 ∧ t.mot.start = .check ∧ t.mot.gatesOff = true ∧
        t.mot.cmd.map (·.ph) = some .starting) ∧
      (s.rd MOT_STAT.STATE ≠ 0 → t.rd MOT_STAT.STATE = s.rd MOT_STAT.STATE ∧ t.mot.pPos = s.mot.ext * 2 ^ 40 ∧
        t.mot.cmd.map (·.ph) = some (if e.op = 0x44 then .force else if e.op = 0x45 then .ramp
          else if e.op = 0x46 then .stopping 0 else .move))
    let failed (t : State) (op : Nat) : Prop := t.mot.cmd = none ∧ t.rd MOT_STAT.STATE = 5 ∧ t.mot.gatesOff = true ∧
      t.host.cbuf.getLast? = some ⟨.mot, [motionRec idx.toNat rFAULT op dINVALID d.tag.toNat 0 s.mot.ext (s.rdS MOT_FORCE.F) 0], 0⟩
    (∀ p ∈ cmds,
      let e : MotionDesc := { d with op := BitVec.ofNat 8 p.1 }
      let popped (t : State) : Prop := (t.subq mq).pre = (s.subq mq).pre.drop 1 ∧ s.only t [.mot, .regs, .host]
      (s.motMay = true → s.rd MOT_STAT.STATE ≠ 5 → s.motHead = some (e, idx.toNat) →
        (motionValid e = true → s.loopsOk p.1 = true → s.rd MOT_STAT.STATE = 0 → 18000 ≤ s.rd MOT_VM.VM →
          s.ends p.2 (fun t => begun t e ∧ (p.1 = 0x41 → t.rd MOT_ENCSTAT.HOME_VALID = 0) ∧ popped t)) ∧
        (motionValid e = true → s.loopsOk p.1 = true → s.rd MOT_STAT.STATE ≠ 0 →
          s.ends p.2 (fun t => begun t e ∧ (p.1 = 0x41 → t.rd MOT_ENCSTAT.HOME_VALID = 0) ∧ popped t)) ∧
        (motionValid e = false ∨ s.loopsOk p.1 = false → s.ends p.2 (fun t => failed t p.1 ∧ popped t))) ∧
      (s.motMay = false ∨ s.rd MOT_STAT.STATE = 5 ∨ s.motHead ≠ some (e, idx.toNat) → exec p.2 s = .next s)) ∧
    (let e : MotionDesc := { d with op := 0x46 }
    (s.stopMay = false ∨ s.stopAt ≠ some (e, idx.toNat) → exec (.stop idx d) s = .next s) ∧
    (s.stopMay = true → s.stopAt = some (e, idx.toNat) → (s.subq mq).done < 65536 →
      let gone := b2n s.mot.cmd.isSome + ((s.subq mq).pre.takeWhile (fun p => decide (((wAt p.words 0).extractLsb' 0 8) ≠ 0x46))).length
      let ended (t : State) : Prop := ∀ m : MotCmd, s.mot.cmd = some m → ⟨.mot, [motionRec m.idx rREVOKED m.desc.op.toNat 0
            m.desc.tag.toNat m.ticks s.mot.ext (s.rdS MOT_FORCE.F) m.peak], 0⟩ ∈ t.host.cbuf
      (s.rd MOT_STAT.STATE = 5 → motionValid e = true → s.ends (.stop idx d) (fun t => t.mot.cmd = none ∧
        t.rd MOT_STAT.STATE = 0 ∧ t.mot.gatesOff = true ∧ ended t ∧ (t.subq mq).done = ((s.subq mq).done + gone + 1) % 65536 ∧
        t.host.cbuf.getLast? = some ⟨.mot, [motionRec idx.toNat 0 0x46 0 d.tag.toNat 0 s.mot.ext (s.rdS MOT_FORCE.F) 0], 0⟩ ∧
        s.only t [.mot, .regs, .host, .flt])) ∧
      (s.rd MOT_STAT.STATE ≠ 5 → motionValid e = true → s.loopsOk 0x46 = true →
        s.rd MOT_STAT.STATE ≠ 0 ∨ 18000 ≤ s.rd MOT_VM.VM →
        s.ends (.stop idx d) (fun t => begun t e ∧ ended t ∧ (t.subq mq).done = ((s.subq mq).done + gone) % 65536 ∧
          s.only t [.mot, .regs, .host, .flt])) ∧
      (motionValid e = false ∨ (s.rd MOT_STAT.STATE ≠ 5 ∧ s.loopsOk 0x46 = false) →
        s.ends (.stop idx d) (fun t => failed t 0x46 ∧ ended t))))

/-- The ends of a motion command (R593 to R598): a timeout, a dwell and a following error complete the command with
their reason; after a recipe reason the press holds its end state, after a failure and an overrun MOT is HALTED without
torque. -/
def Obligations.MotionCommandsEnd : Prop :=
  ∀ (s : State) (m : MotCmd), s.mot.cmd = some m →
    let rec_ (r det : Nat) : CGroup := ⟨.mot, [motionRec m.idx r m.desc.op.toNat det m.desc.tag.toNat m.ticks s.mot.ext
      (s.rdS MOT_FORCE.F) m.peak], 0⟩
    let holds (h : MotHold) (t : State) : Prop := t.mot.cmd = none ∧ t.mot.hold = h ∧
      t.rd MOT_STAT.STATE = s.rd MOT_STAT.STATE ∧ s.only t [.mot, .host]
    let halts (t : State) : Prop := t.mot.cmd = none ∧ t.mot.hold = .none ∧ t.rd MOT_STAT.STATE = 5 ∧ t.mot.gatesOff = true
    (m.desc.timeout ≠ 0 → s.msT m.desc.timeout.toNat ≤ m.ticks → m.ph = .starting → s.rd MOT_STAT.STATE = 1 →
      s.ends .motionTimeout (fun t => t.mot.cmd = none ∧ t.rd MOT_STAT.STATE = 0 ∧ t.mot.gatesOff = true ∧
        t.host.cbuf.getLast? = some (rec_ rTIMEOUT 0))) ∧
    (m.desc.timeout ≠ 0 → s.msT m.desc.timeout.toNat ≤ m.ticks → m.ph ≠ .starting → s.ends .motionTimeout (fun t => holds .pos t ∧
      t.host.cbuf.getLast? = some (rec_ rTIMEOUT 0))) ∧
    (m.desc.timeout = 0 ∨ m.ticks < s.msT m.desc.timeout.toNat → exec .motionTimeout s = .next s) ∧
    (s.msT m.desc.dwell.toNat ≤ m.dwell → 0 < m.dwell →
      (m.desc.op = 0x42 ∨ m.desc.op = 0x45 → m.ph = .move → s.ends .motionDwellEnd (fun t => holds .pos t ∧
        t.host.cbuf.getLast? = some (rec_ 0 0))) ∧
      (m.desc.op = 0x43 ∨ (m.desc.op = 0x44 ∧ m.desc.dwell ≠ 0) → m.ph = .force →
        s.ends .motionDwellEnd (fun t => holds (.force m.fSet) t ∧ t.host.cbuf.getLast? = some (rec_ 0 0)))) ∧
    (m.desc.op = 0x44 → m.desc.dwell = 0 → m.ph = .force → (s.subq mq).pre ≠ [] →
      s.ends .motionDwellEnd (fun t => holds (.force m.fSet) t ∧ t.host.cbuf.getLast? = some (rec_ 0 0))) ∧
    (∀ f : Bool, s.rd MOT_FE.FE_TIME < m.fe → f = decide (m.ph = .force) → s.ends (.motionFollowErr f) (fun t => halts t ∧
      t.host.cbuf.getLast? = some (rec_ rFOLLOW 0) ∧ s.only t [.mot, .host, .regs])) ∧
    (s.quiet 31 → s.ends .motOverrun (fun t => halts t ∧ t.active 31 = true))

/-- Starting the motor and keeping it in step (R557 to R580, R589): the observation before a start decides how it goes
on, the alignment ends at its time, in P1 with the sector of the fastest pulse, a short at its time, a start that does
not synchronise in time fails; a crossing counts once a sector, after the demagnetisation window and within the window
for a crossing, and the sixth in a row synchronises; a commutation, at the time that is set for it, and a missed
crossing, at the end of its window, move to the next sector in the direction of rotation; a loss of sync begins a
recovery and a catch a Springbok start; a wrong gear ratio counts. -/
def Obligations.MotorStartsAndCommutates : Prop :=
  ∀ s : State,
    let noStop : Prop := ∀ p ∈ (s.subq mq).pre, (wAt p.words 0).extractLsb' 0 8 ≠ 0x46
    let halted (n : Src) (t : State) : Prop := t.mot.cmd = none ∧ t.rd MOT_STAT.STATE = 5 ∧ t.mot.gatesOff = true ∧ t.active n = true
    let next (t : State) : Prop := t.rd MOT_STAT.SECTOR =
      (s.rd MOT_STAT.SECTOR + (if s.mot.fwd = true then 1 else 5)) % 6
    -- a sector begins at `u` ns
    let began (u : Int) (t : State) : Prop := t.mot.tLast = some u ∧ t.mot.secDur = s.mot.tLast.map (u - ·) ∧
      t.mot.demag = true ∧ t.mot.zcTaken = false ∧ t.mot.iN = 0
    let inTime (u : Int) : Prop := s.mot.zcTaken = false ∧ (∀ a : Int, s.mot.tLast = some a → a ≤ u) ∧
      (∀ e : Int, s.zcEnd = some e → u ≤ e)
    (s.rd MOT_STAT.STATE = 1 → s.mot.start = .check → s.since (some s.mot.startT) (s.rd MOT_START.T_CHK) = true →
      (s.ofsValid = false → s.ends (.startCheckEnd .none) (fun t => t.mot.start = .align ∧ t.mot.gatesOff = !s.motMayGate ∧
        t.mot.startT = s.clk ∧ t.rd MOT_STAT.SECTOR = 0 ∧ s.only t [.mot, .regs] ∧
        (if s.rb MOT_CFG.CLASS = true then t.mot.iCmd = s.rd MOT_ILIM.ALIGN_I else t.mot.duty = s.dutyTop))) ∧
      (s.ofsValid = true → s.ends (.startCheckEnd .none) (fun t => t.mot.start = .none ∧ t.rd MOT_STAT.STATE = 3 ∧
        s.only t [.mot, .regs])) ∧
      (∀ (f : Bool) (k : Fin 6) (n : Nat),
        (s.rb MOT_CFG.CLASS = false → s.ends (.startCheckEnd (.seen f k n)) (fun t => t.mot.cmd = none ∧ t.rd MOT_STAT.STATE = 5 ∧
          t.mot.gatesOff = true)) ∧
        (s.rb MOT_CFG.CLASS = true → n ≤ s.rd MOT_CATCH.CATCH_MIN →
          exec (.startCheckEnd (.seen f k n)) s = exec (.startCheckEnd .none) s) ∧
        (s.rb MOT_CFG.CLASS = true → s.rd MOT_CATCH.CATCH_MIN < n →
          s.ends (.startCheckEnd (.seen f k n)) (fun t => s.only t [.mot, .regs, .free] ∧
            if f then t.mot.start = .springbok ∧ t.rd MOT_STAT.SECTOR = k.val ∧ t.mot.fwd = true else t.mot.start = .brake)))) ∧
    (s.mot.start = .brake → s.since (some s.mot.startT) 10 = true → s.ends .activeShortEnd (fun t => t.mot.start = .check ∧
      t.mot.startT = s.clk ∧ t.rd MOT_STAT.ASHORT = 0 ∧ s.only t [.mot, .regs] ∧ s.regsBut t [MOT_STAT.ASHORT])) ∧
    (∀ xs : Vector PulseIn 6, s.mot.start = .align →
      (s.rb MOT_CFG.CLASS = true → s.since (some s.mot.startT) (10 * s.rd MOT_START.ALIGN_T) = true) →
      (s.rb MOT_CFG.CLASS = false →
        (xs.toList.map (fun x => (s.pulseEnd x).2)).sum ≤ (s.clk + 1 - s.mot.startT) * s.tickNs) →
      s.ends (.alignEnd xs) (fun t => t.mot.start = .ramp ∧ t.mot.startT = s.clk ∧ t.mot.zcRun = 0 ∧ t.mot.rampN = 0 ∧
        (s.rb MOT_CFG.CLASS = true → t.rd MOT_STAT.SECTOR = s.rd MOT_STAT.SECTOR) ∧
        (s.rb MOT_CFG.CLASS = false → t.rd MOT_STAT.SECTOR < 6 ∧ ∀ k : Fin 6, let a := s.pulseEnd (bget xs k)
          let b := s.pulseEnd (bget xs (Fin.ofNat 6 (t.rd MOT_STAT.SECTOR)))
          a.1 * b.2 ≤ b.1 * a.2) ∧ s.only t [.mot, .regs] ∧
        s.regsBut t [MOT_STAT.SECTOR])) ∧
    ((s.mot.start = .ramp ∧ s.since (some s.mot.startT) (10 * s.rd MOT_START.RAMP_T) = true) ∨
        (s.mot.start = .springbok ∧ s.since (some s.mot.startT) 1000 = true) →
      s.quiet 25 → s.rd MOT_STAT.STATE ≠ 4 ∨ noStop → s.ends .startTimeout (halted 25)) ∧
    (
      let takes (u : Int) (t : State) : Prop := t.mot.zcTaken = true ∧ t.mot.tzc = some u ∧ t.mot.tzc1 = s.mot.tzc ∧
        t.mot.demag = false ∧ t.mot.missRun = 0 ∧ t.mot.zcRun = s.mot.zcRun + 1 ∧
        (t.byEmf = true → ∀ a : Int, s.mot.tzc1 = some a →
          t.mot.tComm = some (u + tdiv (tdiv (u - a) 2 * (300 - (s.rd MOT_ADVST.ADV : Int))) 600)) ∧
        (5 ≤ s.mot.zcRun → s.rd MOT_STAT.STATE = 1 ∨ (s.rd MOT_STAT.STATE = 4 ∧ noStop) →
          t.rd MOT_STAT.STATE = 2 ∧ t.mot.start = .none)
      (∀ x : ZcIn,
        let counts : Prop := s.seesEmf = true ∧ inTime x.t ∧ (s.mot.demag = false ∨ x.pre = true ∨
          ∃ e ∈ s.mot.demagEnd (s.rd MOT_ZC.DEMAG_MAX), e ≤ (x.t : Int))
        (counts → s.ends (.zeroCrossing x) (takes x.t)) ∧ (¬ counts → exec (.zeroCrossing x) s = .next s)) ∧
      (∀ (u : Nat) (above : Bool),
        let e := (s.mot.demagEnd (s.rd MOT_ZC.DEMAG_MAX)).getD u
        let post := above = slopeUp (s.rd MOT_STAT.SECTOR) s.mot.fwd
        (s.seesEmf = true → s.mot.demag = true → e ≤ s.endNs →
          (post ∧ inTime e → s.ends (.demagEnd u above) (takes e)) ∧
          (¬ (post ∧ inTime e) → s.ends (.demagEnd u above) (fun t => t.mot = { s.mot with demag := false } ∧
            s.only t [.mot]))) ∧
        (s.seesEmf = false ∨ s.mot.demag = false ∨ s.endNs < e → exec (.demagEnd u above) s = .next s))) ∧
    (∀ u : Nat,
      let moves (e : Int) (t : State) : Prop := began e t ∧ t.mot.tComm = none ∧ s.only t [.mot, .regs, .free] ∧
        s.regsBut t [MOT_STAT.SECTOR, MOT_ADVST.ADV, MOT_ADVST.ID]
      (s.byEmf = true → (∀ e : Int, s.mot.tComm = some e →
          (e ≤ s.endNs → s.ends (.commutation u) (fun t => next t ∧ moves e t)) ∧
          (s.endNs < e → exec (.commutation u) s = .next s)) ∧
        (s.mot.tComm = none → exec (.commutation u) s = .next s)) ∧
      (s.byEmf = false → s.rd MOT_STAT.STATE = 3 → s.ends (.commutation u) (fun t => t.rd MOT_STAT.SECTOR = s.gearSector ∧
        moves u t)) ∧
      (s.byEmf = false → s.rd MOT_STAT.STATE ≠ 3 → s.seesEmf = true →
        (s.rb MOT_CFG.CLASS = false → s.ends (.commutation u) (fun t => next t ∧ moves u t)) ∧
        (s.rb MOT_CFG.CLASS = true → (∀ e : Int, s.rampStep (s.mot.rampN + 1) = some e →
            (e ≤ s.endNs → s.ends (.commutation u) (fun t => next t ∧ moves e t ∧ t.mot.rampN = s.mot.rampN + 1)) ∧
            (s.endNs < e → exec (.commutation u) s = .next s)) ∧
          (s.rampStep (s.mot.rampN + 1) = none → exec (.commutation u) s = .next s))) ∧
      (s.byEmf = false → s.seesEmf = false → exec (.commutation u) s = .next s)) ∧
    (∀ e : Int, s.zcEnd = some e → s.endNs < e → exec .zcMiss s = .next s) ∧
    (s.byEmf = true → s.mot.zcTaken = false → (∀ e : Int, s.zcEnd = some e → e ≤ s.endNs) →
      (s.mot.missRun < 2 ∨ s.rd MOT_STAT.STATE ≠ 2 → s.ends .zcMiss (fun t => next t ∧ t.mot.missRun = s.mot.missRun + 1 ∧
        t.mot.zcRun = 0 ∧ t.rd MOT_PCNT.MISS = satU MOT_PCNT.MISS.w (s.rd MOT_PCNT.MISS + 1) ∧
        (∀ e : Int, s.zcEnd = some e → began e t) ∧ s.only t [.mot, .regs, .free] ∧
        s.regsBut t [MOT_STAT.SECTOR, MOT_PCNT.MISS, MOT_ADVST.ADV, MOT_ADVST.ID])) ∧
      (s.rd MOT_STAT.STATE = 2 → 2 ≤ s.mot.missRun →
        ((∀ b : Nat, s.mot.lostAt = some b → b + s.msT 1000 ≤ s.clk) → s.ends .zcMiss (fun t =>
          t.rd MOT_STAT.STATE = 4 ∧ t.mot.gatesOff = true ∧ t.mot.lostAt = some s.clk ∧ t.mot.ofsP = [] ∧ t.mot.ofsN = [] ∧
          t.rd MOT_PCNT.SYNC_LOSS = satU MOT_PCNT.SYNC_LOSS.w (s.rd MOT_PCNT.SYNC_LOSS + 1) ∧ t.mot.cmd = s.mot.cmd ∧
          s.only t [.mot, .regs, .free])) ∧
        (∀ b : Nat, s.mot.lostAt = some b → s.clk < b + s.msT 1000 → s.quiet 25 → s.ends .zcMiss (halted 25)))) ∧
    (∀ k : Fin 6, s.rd MOT_STAT.STATE = 4 → s.mot.start ≠ .springbok →
      (s.rpmOf (s.rdS MOT_ESPD.SPD)).natAbs < s.rd MOT_CATCH.CATCH_MAX →
      s.ends (.catch_ k) (fun t => t.mot.start = .springbok ∧ t.rd MOT_STAT.SECTOR = k.val ∧ t.rd MOT_STAT.ASHORT = 0 ∧
        t.mot.gatesOff = !s.motMayGate ∧ s.only t [.mot, .regs, .free])) ∧
    (s.rd MOT_STAT.STATE = 2 → 6 * s.rd MOT_CFG.PP ≤ s.mot.revN →
      let rev : Int := ((s.rd MOT_CPR.CPR * s.rd MOT_GEAR.DEN : Nat) : Int)
      let dir : Int := if s.mot.fwd ≠ s.rb MOT_CFG.DIRINV then 1 else -1
      let bad := decide ((s.rd MOT_XCHK.GEAR_TOL : Int) * rev < ((s.mot.ext - s.mot.revExt) * s.rd MOT_GEAR.NUM - dir * rev).natAbs * 100)
      (bad = false ∨ s.mot.revBad < 3 → s.ends .gearCheck (fun t => t.mot.revN = 0 ∧ t.mot.revExt = s.mot.ext ∧
        t.mot.revBad = (if bad = true then s.mot.revBad + 1 else 0) ∧ s.only t [.mot, .flt])) ∧
      (bad = true → 3 ≤ s.mot.revBad → s.quiet 28 → s.ends .gearCheck (fun t => t.active 28 = true ∧ t.mot.ofsP = [] ∧
        t.mot.ofsN = [])))

/-- The encoder, the home latch and the bridge (R553, R556, R582 to R590, R602 to R611): a frame that can have ended by
now is valid by R583 or not; a valid frame moves the extended count by its difference, an invalid one counts; an edge of
the chosen kind latches the count between frames; a trip cuts the period and, repeated or hard, is a bridge fault that
turns every motor gate off; three both-on commands are one as well; the chopper of the motor follows its thresholds. -/
def Obligations.EncoderAndBridge : Prop :=
  ∀ s : State,
    let bridge (n : Src) (t : State) : Prop := t.mot.gatesOff = true ∧ t.mot.cmd = none ∧ t.rd MOT_STAT.STATE = 5 ∧
      (s.quiet n → t.active n = true)
    (∀ (i : EncIn) (w : Word), s.idle = true ∨ s.frameDue = false → exec (.encoderFrame i w) s = .next s) ∧
    (s.idle = false → s.frameDue = true → ∀ (i : EncIn) (w : Word), let n := s.rd MOT_ENC.NBITS
      let valid : Prop := i.low = true ∧ (∃ u ∈ i.rise, u ≤ 1000 * s.rd MOT_ENC.TM) ∧
        ¬ (s.rb MOT_ENC.ERRBIT = true ∧ i.alarm = true)
      let x := if s.rb MOT_ENC.GRAY = true then grayBin n (w.toNat % 2 ^ n) else w.toNat % 2 ^ n
      (valid → s.mot.hadFrame = false → s.ends (.encoderFrame i w) (fun t => t.mot.ext = x ∧ t.mot.hadFrame = true ∧
        t.rd MOT_ENCSTAT.FRAME_OK = 1 ∧ s.only t [.mot, .regs, .flt])) ∧
      (valid → s.mot.hadFrame = true → (wrapS n ((x : Int) - s.mot.rawPrev)).natAbs < 2 ^ (n - 2) →
        s.ends (.encoderFrame i w) (fun t => t.mot.ext = wrapS 48 (s.mot.ext + wrapS n ((x : Int) - s.mot.rawPrev)) ∧
          t.mot.rawPrev = x ∧ t.mot.badRun = 0 ∧ t.rd MOT_ENCSTAT.FRAME_OK = 1 ∧ s.only t [.mot, .regs, .flt])) ∧
      (valid → s.mot.hadFrame = true → 2 ^ (n - 2) ≤ (wrapS n ((x : Int) - s.mot.rawPrev)).natAbs → s.quiet 27 →
        s.ends (.encoderFrame i w) (fun t => t.mot.ext = s.mot.ext ∧ t.mot.rawPrev = s.mot.rawPrev ∧ t.active 27 = true ∧
          t.mot.ofsP = [] ∧ t.mot.ofsN = [])) ∧
      (¬ valid → s.mot.badRun ≠ 2 → s.ends (.encoderFrame i w) (fun t => t.mot.badRun = s.mot.badRun + 1 ∧ t.mot.ext = s.mot.ext ∧
        t.rd MOT_ENCSTAT.FRAME_OK = 0 ∧ t.rd MOT_ENCSTAT.FERR = satU MOT_ENCSTAT.FERR.w (s.rd MOT_ENCSTAT.FERR + 1) ∧
        s.only t [.mot, .regs] ∧ s.regsBut t [MOT_ENCSTAT.FRAME_OK, MOT_ENCSTAT.FERR])) ∧
      (¬ valid → s.mot.badRun = 2 → s.quiet 26 → s.ends (.encoderFrame i w) (fun t => t.mot.cmd = none ∧ t.rd MOT_STAT.STATE = 5 ∧
        t.mot.gatesOff = true ∧ t.active 26 = true))) ∧
    (∀ (r : Bool) (d : Int) (a b : Nat), s.idle = false → s.rb MOT_ENCSTAT.HOME_VALID = false →
      (s.rd MOT_XCHK.HOME_EDGE = 0 ∧ r = true) ∨ (s.rd MOT_XCHK.HOME_EDGE = 1 ∧ r = false) →
      let p := wrapS 48 (rdiv (s.mot.ext * b + d * a) b)
      let latched (t : State) : Prop := t.mot.latch = some p ∧ t.rd MOT_ENCSTAT.HOME_VALID = 1 ∧
        t.rd MOT_HOMEL.HOME_LO = ofS 48 p % 2 ^ 32 ∧ t.rd MOT_HOMEH.HOME_HI = ofS 48 p / 2 ^ 32 % 2 ^ 16
      (s.mot.latch = none → s.ends (.homeEdge r d a b) (fun t => latched t ∧ s.only t [.mot, .regs] ∧
        s.regsBut t [MOT_HOMEL.HOME_LO, MOT_HOMEH.HOME_HI, MOT_ENCSTAT.HOME_VALID])) ∧
      (∀ q : Int, s.mot.latch = some q →
        ((p - q).natAbs ≤ s.rd MOT_XCHK.HOME_TOL → s.ends (.homeEdge r d a b) (fun t => latched t ∧
          t.rdS MOT_HOMEH.DRIFT = satS 16 (p - q) ∧ t.activeIn 29 0 = false)) ∧
        (s.rd MOT_XCHK.HOME_TOL < (p - q).natAbs → s.quiet 29 → s.ends (.homeEdge r d a b) (fun t => latched t ∧
          t.rdS MOT_HOMEH.DRIFT = satS 16 (p - q) ∧ t.active 29 = true)))) ∧
    (s.motGated = false ∨ s.mot.tripNow = true → exec .motScTrip s = .next s) ∧
    (s.motGated = true → s.mot.tripNow = false →
      let leg := switchedLeg (s.rd MOT_STAT.SECTOR)
      let two := match s.mot.lastTrip with
        | some (l, u) => decide (l ≠ leg) && decide (s.clk ≤ u + s.msT (s.rd MOT_SC.PP_WIN))
        | none => false
      let run := if s.mot.tripLeg = some leg ∧ 0 < s.mot.tripRun then s.mot.tripRun + 1 else 1
      (two = false → run < s.rd MOT_SC.SC_LIMIT → s.ends .motScTrip (fun t => t.mot.cut = [.a, .b, .c] ∧ t.mot.tripNow = true ∧
        t.mot.tripRun = run ∧ t.mot.tripLeg = some leg ∧ t.mot.lastTrip = some (leg, s.clk) ∧
        t.rd MOT_PCNT.SC_CNT = satU MOT_PCNT.SC_CNT.w (s.rd MOT_PCNT.SC_CNT + 1) ∧ t.mot.gatesOff = s.mot.gatesOff ∧
        s.only t [.mot, .regs] ∧ s.regsBut t [MOT_PCNT.SC_CNT])) ∧
      (two = true → s.ends .motScTrip (fun t => bridge 22 t)) ∧
      (two = false → s.rd MOT_SC.SC_LIMIT ≤ run → s.ends .motScTrip (fun t => bridge 21 t))) ∧
    s.ends .motScHard (fun t => bridge 20 t) ∧
    (∀ l : Leg, s.ends (.motBothOn l) (fun t =>
      if (s.mot.bothOn.filter (fun u => s.clk < u + 16)).length < 2 then t.mot.cut.contains l = true ∧ s.only t [.mot, .regs] ∧
        t.rd MOT_PCNT.SHOOT_REQ = satU MOT_PCNT.SHOOT_REQ.w (s.rd MOT_PCNT.SHOOT_REQ + 1) ∧ s.regsBut t [MOT_PCNT.SHOOT_REQ]
      else bridge 23 t)) ∧
    (∀ x : MotPwmIn, s.idle = false →
      (s.now % max 1 (s.rd MOT_CFG.NTICK) ≠ 0 → exec (.motPwmPeriodStart x) s = .next s) ∧
      (s.now % max 1 (s.rd MOT_CFG.NTICK) = 0 →
        let u := s.commitIf lateMot
        let p := u.rd MOT_CFG.NTICK * s.tickNs
        let e : Int := (s.mot.iCmd.natAbs : Int) - x.i.natAbs
        let raw := tdiv ((u.rd MOT_KCUR.KP : Int) * e + (s.mot.iInt + (u.rd MOT_KCUR.KI : Int) * e)) 1000
        let top : Int := ((65536 * (p - 200 - 4 * u.rd MOT_DT.DT) / max 1 p : Nat) : Int)
        let runs := s.rd MOT_STAT.STATE = 2 ∨ s.rd MOT_STAT.STATE = 3 ∨ (s.mot.start = .align ∧ u.rb MOT_CFG.CLASS = true) ∨
          (s.mot.start = .ramp ∧ u.rb MOT_CFG.CLASS = false)
        s.ends (.motPwmPeriodStart x) (fun t => t.mot.cut = [] ∧ t.mot.tripNow = false ∧
          (s.mot.tripNow = false → t.mot.tripRun = 0) ∧ t.mot.iSum = s.mot.iSum + x.i ∧ t.mot.iN = s.mot.iN + 1 ∧
          (∀ l ∈ [(Leg.a, 0), (Leg.b, 1), (Leg.c, 2)], t.mot.hsOff.contains l.1 =
            (decide (x.bst.toList.getD l.2 0 < 6500) || (decide (x.bst.toList.getD l.2 0 ≤ 7000) && s.mot.hsOff.contains l.1))) ∧
          (s.motMayGate = true → s.rb DBG_CTL.HALT_MOT = false → s.mot.start = .ramp ∧ u.rb MOT_CFG.CLASS = true →
            t.mot.gatesOff = false ∧ 0 ≤ t.mot.duty ∧ t.mot.duty ≤ top) ∧
          (s.motMayGate = true → s.rb DBG_CTL.HALT_MOT = false → runs → ¬ (s.mot.start = .ramp ∧ u.rb MOT_CFG.CLASS = true) →
            t.mot.gatesOff = false ∧ t.mot.duty = clampI raw 0 top) ∧
          (s.motMayGate = false ∨ s.rb DBG_CTL.HALT_MOT = true → t.mot.gatesOff = s.mot.gatesOff ∧ t.mot.duty = s.mot.duty) ∧
          s.only t [.mot, .cmp, .flt, .free, .regs, .written]))) ∧
    (∀ v : Nat, s.ends (.brkmSwitch v) (fun t => t.rd MOT_VM.VM = satU 16 v ∧ t.rb MOT_STAT.BRKM = t.mot.brkm.since.isSome ∧
      ((s.cmpAt 68).filt = true → (s.cmpAt 68).init = false → t.mot.brkm.since.isSome = true) ∧
      ((s.cmpAt 68).filt = false → s.active 24 = true → t.mot.brkm.since = none) ∧
      ((s.cmpAt 68).filt = false → s.active 24 = false → s.brkmEff.1 < (v : Int) → t.mot.brkm.since.isSome = true) ∧
      ((s.cmpAt 68).filt = false → (v : Int) < s.brkmEff.2 → s.brkmEff.2 < s.brkmEff.1 → t.mot.brkm.since = none) ∧
      s.only t [.mot, .regs, .flt] ∧ s.regsBut t [MOT_VM.VM, MOT_STAT.BRKM])) ∧
    (s.rd MOT_BRKD.DMAX * s.msT 1000 < 100 * s.mot.brkm.onTime s.clk (s.msT 1000) → s.quiet 24 →
      s.ends .brkmOvl (fun t => t.active 24 = true ∧
        ((s.cmpAt 68).filt = false ∨ (s.cmpAt 68).init = true → t.mot.brkm.since = none ∧ t.rb MOT_STAT.BRKM = false)))

/-! ### Register accesses -/

/-- Accesses to BAR0 (R741 to R751, R760): an accepted write of a plain register gives its fields the written bits; a
refused one changes nothing but the record of refused writes; setup that waits for its instant (R753) stays as it is in
force till then; an access of another shape is answered as unsupported; a
read answers the register; the TAP answers IDCODE, and drives `DBG_CTL` while its permission is given. -/
def Obligations.RegisterAccesses : Prop :=
  ∀ (s : State) (p : Path) (off : Half) (w : Word), s.idle = false → off.toNat % 4 = 0 →
    (s.responds off.toNat = true → s.blockHeld off.toNat = false → s.refuseCode off.toNat w ≠ 0 →
      s.ends (.registerWrite p off [w]) (fun t => t.rd SYS_WERR.OFFSET = off.toNat ∧
        t.rd SYS_WERR.CODE = s.refuseCode off.toNat w ∧ t.rd SYS_WERR.PATH = pathCode p ∧
        t.rd SYS_WERR.COUNT = satU SYS_WERR.COUNT.w (s.rd SYS_WERR.COUNT + 1) ∧ s.only t [.regs] ∧
        s.regsBut t [SYS_WERR.OFFSET, SYS_WERR.CODE, SYS_WERR.PATH, SYS_WERR.COUNT])) ∧
    (s.accepts off.toNat w → off.toNat ∈ [0x1020, 0x2008, 0x3068, 0x4044, 0x50c4, 0x50c8, 0x6024, 0x6038, 0x603c, 0x6048, 0x8048] →
      s.ends (.registerWrite p off [w]) (fun t => s.only t [.regs, .written] ∧ s.regsBut t (fieldsAt off.toNat) ∧
        ∀ f ∈ fieldsAt off.toNat, s.accOf f = .rw ∨ s.accOf f = .rwl → t.rdNew f = bitsN w.toNat f.lo f.w ∧
          (waits f = true → t.rd f = s.rd f))) ∧
    (∀ (n : Nat) (b : Bool), accessOk off.toNat n b = false → s.ends (.unsupportedAccess p off n b) (fun t =>
      t.out = .unsupported :: s.out ∧ t.host.aerUr = true ∧ s.only t [.host, .out])) ∧
    (s.responds off.toNat = true → s.blockHeld off.toNat = false → s.host.latches.lookup off.toNat = none →
      s.ends (.latchingLowRead p off) (fun t => t.out = .answer [s.regWord off.toNat] :: s.out ∧
        (off.toNat = 0x38 → t.rd SYS_TICKH.TICK_HI = s.now / 2 ^ 32 % 2 ^ SYS_TICKH.TICK_HI.w))) ∧
    s.ends (.debugTransportAccess .idcode) (fun t => t.out = .tap (s.regWord 0) :: s.out ∧ s.only t [.out]) ∧
    exec (.debugTransportAccess .bypass) s = .next s ∧
    (bitN (s.rd SEC_DBG.PERM) 0 = true → s.refuseCode 0xB000 w = 0 → s.quiet 81 →
      s.ends (.debugTransportAccess (.dbgCtl w)) (fun t => t.rd DBG_CTL.HALT_SEQ = w.toNat % 2 ∧
        t.rd DBG_CTL.HALT_MOT = w.toNat / 2 % 2 ∧ t.rd DBG_CTL.HALT_SAF = w.toNat / 4 % 2)) ∧
    (bitN (s.rd SEC_DBG.PERM) 0 = false → exec (.debugTransportAccess (.dbgCtl w)) s = .next s)

/-- The writes of device registers that act (R36, R424, R473, R496, R531, R540, R629, R691, R699, R706, R760, R762 to
R764): each accepted write takes its fields and has its effect, and nothing else changes. -/
def Obligations.DeviceRegisterWritesAct : Prop :=
  ∀ (s : State) (p : Path) (w : Word), s.idle = false →
    (s.isHead = true → s.accepts 0x30 w → s.ends (.sysTickWrite p w) (fun t => t.rd SYS_TICK.PERIOD = w.toNat % 4096 ∧
      t.rd SYS_TICK.PPT = w.toNat / 4096 % 2 ∧ t.rd SYS_TICK.TLM_DIV = w.toNat / 65536 ∧
      t.sys.perNew = (if w.toNat % 4096 = s.rd SYS_TICK.PERIOD then s.sys.perNew else some (w.toNat % 4096, 65)) ∧
      s.only t [.regs, .sys] ∧ s.regsBut t [SYS_TICK.PERIOD, SYS_TICK.PPT, SYS_TICK.TLM_DIV])) ∧
    (s.accepts 0x48 (withBits w 23 1 1) → s.ends (.werrClear p w) (fun t => t.rd SYS_WERR.COUNT = 0 ∧
      t.rd SYS_WERR.CODE = 0 ∧ t.rd SYS_WERR.OFFSET = 0 ∧ t.rd SYS_WERR.PATH = 0 ∧ s.only t [.regs] ∧
      s.regsBut t [SYS_WERR.OFFSET, SYS_WERR.CODE, SYS_WERR.PATH, SYS_WERR.COUNT])) ∧
    (s.accepts 0x1000 w → s.ends (.queueEnable p w) (fun t => t.rd HOST_CTL.QEN = w.toNat % 2 ^ 18 ∧
      (∀ q : QId, (s.qOn q = false → t.qOn q = true → t.subq q = SubQ.reset) ∧
        (s.qOn q = true → t.qOn q = false → (t.subq q).pre = [] ∧ (t.subq q).held = none) ∧
        (s.qOn q = t.qOn q → t.subq q = s.subq q)) ∧ s.only t [.regs, .host, .ch, .out] ∧ s.regsBut t (fieldsAt 0x1000))) ∧
    (s.accepts 0x100c w → s.ends (.hostErrClear p w) (fun t =>
      t.rd HOST_ERR.QERR = s.rd HOST_ERR.QERR - (s.rd HOST_ERR.QERR &&& bitsN w.toNat 0 HOST_ERR.QERR.w) ∧
      (w.getLsbD 24 = true → t.rd HOST_EVQLOST.LOST = 0) ∧ s.only t [.regs])) ∧
    (∀ h : Bool, s.isHead = true → s.accepts (if h then 0x2050 else 0x204c) w → s.ends (.ringBarset p h w) (fun t =>
      (∀ i : Fin 64, bget t.ring.left i = if w.getLsbD (i.val % 32) = true ∧ (32 ≤ i.val ↔ h = true) then 4 else bget s.ring.left i) ∧
      s.only t [.ring, .regs])) ∧
    (s.headsRing → s.sys.mode = .standby ∨ s.sys.mode = .safe → s.ring.resetting = false →
      (s.live = true → s.accepts 0x2000 (withBits w 0 1 1) → s.ends (.ringEnumWrite p w) (fun t =>
        t.rd RING_STAT.STATE = 1 ∧ t.rd RING_STAT.NPOS = 0 ∧ t.ring.enumT = some (s.now + 16) ∧ s.only t [.ring, .regs])) ∧
      (s.accepts 0x201c (withBits w 8 1 1) → s.ends (.ringWakeGo p w) (fun t => t.ring.bursts = t.rd RING_WAKE.COUNT ∧ t.ring.burstT = s.msT 50 ∧
        t.rd RING_WAKE.COUNT = bitsN w.toNat RING_WAKE.COUNT.lo RING_WAKE.COUNT.w ∧ s.only t [.ring, .regs]))) ∧
    (s.accepts 0x4020 w → s.ends (.safKctlReq p w) (fun t => t.rb SAF_KCTL.REQ = w.getLsbD 0 ∧
      (w.getLsbD 0 = false → t.saf.kdr = false) ∧ (w.getLsbD 0 = true → t.saf = s.saf) ∧ s.only t [.regs, .saf] ∧
      s.regsBut t [SAF_KCTL.REQ, SAF_KSTAT.STATE])) ∧
    (∀ i : CmpId, cmpFixed i.val = false → s.accepts (0xA000 + 4 * i.val) w → s.ends (.cmpCfgWrite p i w) (fun t =>
      (t.cmpAt i).filt = true ∧ (t.cmpAt i).init = true ∧ (∀ j : CmpId, j ≠ i → t.cmpAt j = s.cmpAt j) ∧
      (∀ f ∈ fieldsAt (0xA000 + 4 * i.val), s.accOf f = .rw ∨ s.accOf f = .rwl → t.rd f = bitsN w.toNat f.lo f.w) ∧
      s.only t [.regs, .cmp])) ∧
    (s.accepts 0x306c (withBits w 8 1 1) → s.ends (.dumpAck p w) (fun t => t.flt.acked = true ∧
      (s.rd FLT_DUMPSTAT.STATE = 5 → t.rd FLT_DUMPSTAT.STATE = 4) ∧ s.only t [.regs, .flt])) ∧
    (s.sys.mode = .service → s.accepts 0x304c (withBits w 8 1 1) → srcListed (w.toNat % 128) = true →
      s.quiet (Fin.ofNat 128 w.toNat) → (w.toNat % 128 = 14 → s.quiet 67) →
      s.ends (.faultInject p w) (fun t =>
        t.flt.inj = some (Fin.ofNat 128 w.toNat) ∧ t.active (Fin.ofNat 128 w.toNat) = true)) ∧
    (s.accepts 0xB000 w → s.quiet 81 → s.ends (.dbgHalt p w) (fun t =>
      (t.rd DBG_CTL.HALT_SEQ = w.toNat % 2 ∧ t.rd DBG_CTL.HALT_MOT = w.toNat / 2 % 2 ∧ t.rd DBG_CTL.HALT_SAF = w.toNat / 4 % 2 ∧
        t.rd DBG_STAT.HALTED = w.toNat % 8 ∧ (w.getLsbD 2 = true → t.active 81 = true) ∧
        (w.getLsbD 2 = true → s.rb DBG_CTL.HALT_SAF = false →
          t.mot.gatesOff = true ∧ ∀ c : Ch, (t.chan c).stage.gates = false ∧ (t.chan c).stage.iso = .opened)))) ∧
    (s.accepts 0xB004 (withBits w 8 1 1) →
      let c : Ch := Fin.ofNat 16 w.toNat
      s.ends (.leStepGo p w) (fun t => s.only t [.regs, .ch, .qd, .out, .free] ∧ s.chBut t [c] ∧
        (s.leStepped (quadOf c) = true → (s.profAt c (s.chan c).loop.act.slot).isSome = true → (t.chan c).loop.last = 2)))

/-- The writes of channel and quad registers that act, and the read that steps (R149, R177, R220, R260, R301, R313,
R315): a range request is seen at the next boundary, where a spare serves it, it waits for one, or it is denied. -/
def Obligations.ChannelRegisterWritesAct : Prop :=
  ∀ (s : State) (p : Path) (c : Ch) (w : Word), s.idle = false →
    (s.gangsOk → s.accepts (0x801c + 0x100 * c.val) w → s.ends (.measClose p c w) (fun t =>
      (s.sys.mode = .standby → w.getLsbD 16 = false → (t.chan c).stage.iso = .opened ∨ (t.chan c).stage.iso = .opening) ∧
      (s.sys.mode = .standby → w.getLsbD 16 = true → (s.chan c).stage.iso = .opened → (s.chan c).stage.pulse = none → (t.chan c).stage.iso = .closing ∧
        (t.chan c).stage.pulse.isSome = true ∧ (t.chan c).stage.gates = (s.chan c).stage.gates) ∧
      (s.sys.mode ≠ .standby → t.ch = s.ch) ∧ t.rb (CH_ISO.MEAS_CLOSE c) = w.getLsbD 16 ∧ s.chBut t (s.gang c) ∧
      s.only t [.regs, .written, .ch])) ∧
    (s.accepts (0x8024 + 0x100 * c.val) (withBits w 8 1 1) → s.ends (.kelTest p c w) (fun t =>
      (s.sys.mode = .standby → (s.chan c).stage.gates = false → (t.chan (s.leader c)).stage.pulse.isSome = true) ∧
      (s.sys.mode ≠ .standby ∨ (s.chan c).stage.gates = true → t.ch = s.ch) ∧ s.chBut t [s.leader c] ∧
      s.only t [.regs, .written, .ch])) ∧
    (s.accepts (0x8044 + 0x100 * c.val) w → w.toNat % 4 = s.rd (CH_MRNG.REQ c) → s.ends (.rangeRequest p c w) (fun t =>
      t.met = s.met ∧ t.ch = s.ch)) ∧
    (s.accepts (0x8044 + 0x100 * c.val) w → w.toNat % 4 ≠ s.rd (CH_MRNG.REQ c) → s.ends (.rangeRequest p c w) (fun t =>
      (t.chan c).met.ask = some (Fin.ofNat 4 w.toNat) ∧ t.rd (CH_MRNG.REQ c) = w.toNat % 4 ∧ t.rngActive c = s.rngActive c ∧
      s.chBut t [c] ∧ s.only t [.regs, .ch])) ∧
    (∀ r : Fin 4, let t := s.rangeAsk c r false
      ((s.spare 0).inService = false → (s.spare 1).inService = false → t.rd (CH_MRNG.DENIED c) = 1 ∧
        t.rd (CH_MRNG.REQ c) = s.rngActive c % 4 ∧ s.only t [.regs, .host]) ∧
      ((s.spare 0).inService = true ∨ (s.spare 1).inService = true → s.changer c = none → s.rotator c = none →
        r.val ≠ s.rngActive c → t.rd (CH_MRNG.REQ c) = r.val ∧ t.rngActive c = s.rngActive c ∧
          ((t.changer c).isSome = true ∨ t.met.reqs.any (fun x => decide (x.ch = c ∧ x.rng = r)) = true))) ∧
    (s.accepts (0x8064 + 0x100 * c.val) (withBits w 8 1 1) → w.getLsbD 9 = false → s.ends (.ledgerSnap p c w) (fun t =>
      (t.chan c).met.snap = (s.chan c).ledger.words ∧ (t.chan c).ledger = (s.chan c).ledger ∧ s.chBut t [c] ∧
      s.only t [.regs, .ch])) ∧
    (s.accepts (0x8064 + 0x100 * c.val) (withBits w 9 1 1) → s.ends (.ledgerClear p c w) (fun t =>
      (t.chan c).ledger.qTot = 0 ∧ (t.chan c).ledger.eTot = 0 ∧ (t.chan c).ledger.tTot = 0 ∧ (t.chan c).ledger.isOpen = false ∧
      (t.chan c).ledger.openNum = (s.chan c).ledger.openNum ∧ s.chBut t [c] ∧ s.only t [.regs, .ch])) ∧
    (s.sys.mode ≠ .boot → s.blockHeld (0x8068 + 0x100 * c.val) = false → s.host.latches = [] → s.ends (.ledgerDataRead c) (fun t =>
      t.out = .answer [s.regWord (0x8068 + 0x100 * c.val)] :: s.out ∧
      t.rd (CH_LCTL.IDX c) = (s.rd (CH_LCTL.IDX c) + 1) % 2 ^ (CH_LCTL.IDX c).w ∧ s.only t [.regs, .out] ∧
      s.regsBut t [CH_LCTL.IDX c])) ∧
    (∀ q : Quad, (bget s.qd q).pcmd = none →
      let k : Fin 8 := Fin.ofNat 8 w.toNat
      (s.accepts (0x9004 + 0x400 * q.val) (withBits w 4 2 1) → s.ends (.profileLoad p q w) (fun t =>
        (bget t.qd q).pcmd = some (.load k (profOf (s.staged q)).1 (profOf (s.staged q)).2 none) ∧
        t.rd (QD_PCMD.RESULT q) = 0xFF ∧ (bget t.qd q).slots = (bget s.qd q).slots ∧ s.only t [.regs, .qd])) ∧
      (s.accepts (0x9004 + 0x400 * q.val) (withBits w 4 2 2) → s.ends (.profileInvalidate p q w) (fun t =>
        (bget t.qd q).pcmd = some (.invalidate k) ∧ t.rd (QD_PCMD.RESULT q) = 0xFF ∧ s.only t [.regs, .qd])) ∧
      (s.accepts (0x9004 + 0x400 * q.val) (withBits w 4 2 3) → s.ends (.profileReadback p q w) (fun t => t.qd = s.qd ∧
        t.rd (QD_PCMD.RESULT q) = (if (bget (bget s.qd q).slots k).isSome = true then 0 else 5) ∧ s.only t [.regs]))) ∧
    (∀ q : Quad, s.accepts (0x9100 + 0x400 * q.val) (withBits w 3 1 1) → s.rb (QD_TRCTL.EN q) = true → w.getLsbD 0 = true →
      bitsN w.toNat 1 2 = 1 → s.rd (QD_TRTRIG.SRC q) = 0 → s.rd (QD_TRSTAT.STATE q) = 1 → s.ends (.swtrig p q w) (fun t =>
        t.rd (QD_TRSTAT.STATE q) = 2 ∧ t.ch = s.ch))

/-! ### Faults and the dump -/

/-- The collector (R671, R674, R677, R680, R681, R685): an asserted source whose reaction holds no CHIP reset is active,
and counted; a source whose condition is gone clears, `LE_OVERRUN` not beside `LE_CHECK` (R263); a rail break is
recorded; `ERR_N` rises when nothing holds it; the watchdogs of SEQ and MOT raise their sources and reset what these
name. -/
def Obligations.FaultsAreRaisedAndCleared : Prop :=
  ∀ s : State, s.idle = false →
    let calm (n : Src) : Prop := bitN (s.src n).react 2 = false ∧ bitN (s.src n).react 3 = false ∧ bitN (s.src n).react 5 = false
    let named (n : Src) (c : Ch) (t : State) : Prop := (t.src n).cond &&& actBit n c ≠ 0 ∧ (t.src n).act &&& actBit n c ≠ 0 ∧
      ((s.src n).act &&& actBit n c = 0 → (t.src n).recd = true ∧ (t.src n).cnt = satU 16 ((s.src n).cnt + 1))
    (∀ (n : Src) (c : Ch), 32 ≤ n.val → srcListed n.val = true → calm n → s.ends (.faultRaise n c) (fun t => named n c t ∧
      t.sys.mode = s.sys.mode ∧ (∀ m : Src, m ≠ n → t.src m = s.src m) ∧ t.ch = s.ch)) ∧
    (∀ (n : Src) (c : Ch), srcListed n.val = true → s.gangsOk → bitN (s.src n).react 3 = false →
      (n = 14 → bitN (s.src 67).react 3 = false) →
      s.ends (.faultRaise n c) (fun t =>
        (t.src n).act &&& actBit n c ≠ 0 ∧
        ((1 ≤ n.val ∧ n.val ≤ 11) ∨ n.val = 14 → ∀ d ∈ s.gang c, (t.chan d).stage.gates = false) ∧
        (20 ≤ n.val ∧ n.val ≤ 23 → t.mot.gatesOff = true ∧ t.mot.cmd = none))) ∧
    (∀ (n : Src) (c : Ch), srcListed n.val = false → exec (.faultRaise n c) s = .next s) ∧
    (∀ (n : Src) (c : Ch), srcClr n.val = 1 ∨ srcClr n.val = 3 ∨ n = 29 ∨ n = 48 ∨ n = 49 → n ≠ 0 →
      (n = 11 → s.activeIn 10 c = true → exec (.faultClear n c) s = .next s) ∧
      ((n = 11 → s.activeIn 10 c = false) →
        (s.src n).act &&& actBit n c ≠ 0 → (s.src n).cond &&& actBit n c = 0 → s.ends (.faultClear n c) (fun t =>
        (t.src n).act &&& actBit n c = 0 ∧ (∀ m : Src, m ≠ n → t.src m = s.src m) ∧ s.only t [.flt, .host])) ∧
      ((s.src n).cond &&& actBit n c ≠ 0 → exec (.faultClear n c) s = .next s)) ∧
    (∀ c : Ch, s.ends (.faultClear 0 c) (fun t => (t.src 0).cond &&& actBit 0 c = 0 ∧ (t.src 0).act = (s.src 0).act ∧
      (∀ m : Src, m ≠ 0 → t.src m = s.src m) ∧ s.only t [.flt])) ∧
    (∀ n : Src, 32 ≤ n.val → srcListed n.val = true → n ≠ 43 → calm n → calm 43 → s.ends (.railBreak n) (fun t =>
      t.rd FLT_RB.SRC = n.val ∧ t.rd FLT_RB.VALID = 1 ∧ named 43 0 t ∧ named n 0 t)) ∧
    (s.errHeld = false → s.ends .errNRelease (fun t => t.rd FLT_ERRN.LOW = 0 ∧ s.only t [.regs] ∧ s.regsBut t [FLT_ERRN.LOW])) ∧
    (s.errHeld = true → exec .errNRelease s = .next s) ∧
    (s.rb DBG_CTL.HALT_SEQ = false → bitN (s.src 45).react 3 = false → s.ends .seqWdog (named 45 0)) ∧
    (s.rb DBG_CTL.HALT_SEQ = false → bitN (s.src 45).react 3 = true → (s.src 45).act &&& 1 = 0 → s.gangsOk →
      let dumps := s.rb FLT_DUMPCTL.TRG_CHIP = true ∧ s.rb FLT_DUMPSTAT.REQ = false
      (s.flt.copying = true ∨ dumps → s.ends .seqWdog (fun t => named 45 0 t ∧
        t.flt.chipDue = some (s.flt.chipDue.getD 5) ∧ t.mot.gatesOff = true ∧ ∀ c : Ch, (t.chan c).stage.gates = false)) ∧
      (s.flt.copying = false → ¬ dumps → bitN (s.src 45).react 5 = false → s.ends .seqWdog (fun t =>
        t.sys.held = some .chip ∧ t.rd FLT_LREC0.SRC = 45 ∧ t.rd SYS_RSTCAUSE.CAUSE = 5))) ∧
    (s.rb DBG_CTL.HALT_MOT = false → bitN (s.src 46).react 3 = false → s.ends .motWdog (fun t => named 46 0 t ∧
      (bitN (s.src 46).react 2 = true → (s.src 46).act &&& 1 = 0 → t.mot.resetting = true)))

/-- The fatal dump (R694 to R703): a completed snapshot asks for its dump; the agent starts one into a valid buffer,
holds it otherwise, reports a small buffer once; a dump that ends well frees the snapshot and causes vector 7, a failed
write is kept for another try. -/
def Obligations.DumpTakesItsCourse : Prop :=
  ∀ s : State,
    (s.flt.copying = true → s.flt.chipDue = none → s.ends .snapshotComplete (fun t => t.flt.copying = false ∧
      t.rd FLT_DUMPSTAT.SNAP_VALID = 1 ∧ t.rd FLT_DUMPSTAT.REQ = 1 ∧ t.rd FLT_DUMPSTAT.STATE = 1 ∧
      t.rd FLT_DUMPSEQ.DSEQ = (s.rd FLT_DUMPSEQ.DSEQ + 1) % 2 ^ FLT_DUMPSEQ.DSEQ.w ∧ s.only t [.flt, .regs] ∧
      s.regsBut t [FLT_DUMPSTAT.SNAP_VALID, FLT_DUMPSTAT.REQ, FLT_DUMPSTAT.TRACE_LOST, FLT_DUMPSTAT.STATE, FLT_DUMPSEQ.DSEQ])) ∧
    (s.flt.copying = true → s.flt.chipDue.isSome = true → s.sys.held = none → s.ends .snapshotComplete (fun t =>
      t.sys.held = some .chip)) ∧
    (s.agentRuns = true → s.flt.copying = false →
      (∀ n : Snap, s.flt.snap = some n → s.rb FLT_DUMPSTAT.REQ = true → s.rb FLT_DUMPSTAT.SNAP_VALID = true →
        s.rd FLT_DUMPSTAT.STATE ≠ 2 → s.rd FLT_DUMPSTAT.STATE ≠ 5 →
        (s.flt.acked = false ∨ s.dumpDest = false → s.ends .dumpStart (fun t => t.rd FLT_DUMPSTAT.STATE = 4 ∧ s.only t [.regs] ∧
          s.regsBut t [FLT_DUMPSTAT.STATE])) ∧
        (s.flt.acked = true → s.dumpDest = true → s.rd FLT_DUMPLEN.LEN < s.dumpLen → s.ends .dumpStart (fun t =>
          t.rd FLT_DUMPSTAT.STATE = 4 ∧ t.flt.tooSmall = true ∧ (s.flt.tooSmall = true → t.host = s.host) ∧
          s.only t [.regs, .flt, .host])) ∧
        (s.flt.acked = true → s.dumpDest = true → s.dumpLen ≤ s.rd FLT_DUMPLEN.LEN → s.isHead = true →
          s.ends .dumpStart (fun t => t.rd FLT_DUMPSTAT.STATE = 2 ∧ t.out = .hostWrite (s.dumpBase + 64)
            (wordsBytes (s.dumpSections n)) :: .hostWrite s.dumpBase (wordsBytes (s.burgee n 0)) :: s.out ∧
            s.only t [.regs, .out])) ∧
        (s.flt.acked = true → s.dumpDest = true → s.dumpLen ≤ s.rd FLT_DUMPLEN.LEN → s.isHead = false →
          s.ends .dumpStart (fun t => t.rd FLT_DUMPSTAT.STATE = 2 ∧ t.flt = s.flt))) ∧
      (s.rd FLT_DUMPSTAT.STATE = 2 →
        (s.ring.outq.any (fun f => decide (s.frCls f = .other)) = false →
          s.ring.sent.any (fun o => decide (s.frCls o.frame = .other)) = false → s.ends (.dumpFinish true) (fun t =>
          t.rd FLT_DUMPSTAT.STATE = 3 ∧ t.rd FLT_DUMPSTAT.REQ = 0 ∧ t.rd FLT_DUMPSTAT.SNAP_VALID = 0 ∧ t.flt.acked = false ∧
          (bget t.host.msix 7).pend = true ∧ (s.isHead = true → s.only t [.regs, .flt, .host, .out]))) ∧
        s.ends (.dumpFinish false) (fun t => t.rd FLT_DUMPSTAT.STATE = 5 ∧ t.flt = s.flt ∧ s.only t [.regs, .host])) ∧
      (s.rd FLT_DUMPSTAT.STATE ≠ 2 → ∀ b : Bool, exec (.dumpFinish b) s = .next s))

end
end

