-- ==== Sys2Proof/Laws/Regs.lean ====
section
/-!
SUPPORT. Laws of the register file: what a read gives after a write, and that every write keeps the canonical form.
-/

namespace Sys2Proof.Machine

/-! ### The canonical form -/

/-- The canonical form, entry by entry: keys rise strictly and nothing stands at its reset value. -/
theorem RegFile.ok_iff (r : RegFile) :
    r.ok = true ↔ r.Pairwise (fun e e' => e.1.key < e'.1.key) ∧ ∀ e ∈ r, e.2 ≠ e.1.rst := by
  induction r with
  | nil => simp [RegFile.ok]
  | cons e t ih =>
    cases t with
    | nil => simp [RegFile.ok]
    | cons e' t =>
      rw [RegFile.ok, Bool.and_eq_true, Bool.and_eq_true, decide_eq_true_iff, decide_eq_true_iff, ih,
        List.pairwise_cons (a := e)]
      constructor
      · rintro ⟨⟨h0, h1⟩, hp, hv⟩
        refine ⟨⟨?_, hp⟩, ?_⟩
        · intro x hx
          rcases List.mem_cons.1 hx with rfl | hx
          · exact h1
          · exact Nat.lt_trans h1 ((List.pairwise_cons.1 hp).1 x hx)
        · intro x hx
          rcases List.mem_cons.1 hx with rfl | hx
          · exact h0
          · exact hv x hx
      · rintro ⟨⟨hl, hp⟩, hv⟩
        exact ⟨⟨hv e (by simp), hl e' (by simp)⟩, hp, fun x hx => hv x (by simp [hx])⟩

/-- What stands in a file after placing an entry. -/
theorem RegFile.mem_ins {r : RegFile} {f : Fld} {v : Nat} {e : Fld × Nat} (h : e ∈ r.ins f v) :
    e = (f, v) ∨ e ∈ r := by
  induction r with
  | nil => simpa [RegFile.ins] using h
  | cons a t ih =>
    unfold RegFile.ins at h
    split at h
    · simpa using h
    · split at h
      · rcases List.mem_cons.1 h with rfl | h
        · exact .inl rfl
        · exact .inr (by simp [h])
      · rcases List.mem_cons.1 h with rfl | h
        · exact .inr (by simp)
        · exact (ih h).imp id (fun h => by simp [h])

/-- Placing an entry keeps the keys rising. -/
theorem RegFile.pairwise_ins {r : RegFile} (f : Fld) (v : Nat)
    (h : r.Pairwise (fun e e' => e.1.key < e'.1.key)) :
    (r.ins f v).Pairwise (fun e e' => e.1.key < e'.1.key) := by
  induction r with
  | nil => simp [RegFile.ins]
  | cons a t ih =>
    obtain ⟨ha, ht⟩ := List.pairwise_cons.1 h
    unfold RegFile.ins
    split
    · rename_i hlt
      refine List.pairwise_cons.2 ⟨?_, h⟩
      intro x hx
      rcases List.mem_cons.1 hx with rfl | hx
      · exact hlt
      · exact Nat.lt_trans hlt (ha x hx)
    · split
      · rename_i heq
        exact List.pairwise_cons.2 ⟨fun x hx => by simpa [heq] using ha x hx, ht⟩
      · rename_i hlt hne
        refine List.pairwise_cons.2 ⟨?_, ih ht⟩
        intro x hx
        rcases RegFile.mem_ins hx with rfl | hx
        · show a.1.key < f.key
          omega
        · exact ha x hx

/-- Giving a field a value keeps the canonical form. -/
theorem RegFile.ok_put {r : RegFile} (f : Fld) (v : Nat) (h : r.ok = true) : (r.put f v).ok = true := by
  rw [RegFile.ok_iff] at h ⊢
  unfold RegFile.put
  split
  · exact ⟨h.1.filter _, fun e he => h.2 e (List.mem_filter.1 he).1⟩
  · rename_i hv
    refine ⟨RegFile.pairwise_ins f v h.1, fun e he => ?_⟩
    rcases RegFile.mem_ins he with rfl | he
    · exact hv
    · exact h.2 e he

/-- Dropping fields from a file keeps the canonical form. -/
theorem RegFile.ok_filter {r : RegFile} (p : Fld × Nat → Bool) (h : r.ok = true) : RegFile.ok (r.filter p) = true := by
  rw [RegFile.ok_iff] at h ⊢
  exact ⟨h.1.filter _, fun e he => h.2 e (List.mem_filter.1 he).1⟩

/-! ### Reading after writing -/

/-- A field placed in a file reads as placed. -/
theorem RegFile.get_ins_same (r : RegFile) (f : Fld) (v : Nat) : (r.ins f v).get f = v := by
  induction r with
  | nil => simp [RegFile.ins, RegFile.get]
  | cons a t ih =>
    unfold RegFile.ins
    split
    · simp [RegFile.get]
    · split
      · simp [RegFile.get]
      · rename_i hne
        simp only [RegFile.get]
        rw [if_neg (fun h => hne h.symm), ih]

/-- Placing a field leaves a field of another key alone. -/
theorem RegFile.get_ins_other (r : RegFile) {f g : Fld} (v : Nat) (h : f.key ≠ g.key) :
    (r.ins f v).get g = r.get g := by
  induction r with
  | nil => simp [RegFile.ins, RegFile.get, h]
  | cons a t ih =>
    unfold RegFile.ins
    split
    · simp [RegFile.get, h]
    · split
      · rename_i heq
        simp only [RegFile.get]
        rw [if_neg h, if_neg (fun e => h (heq.trans e))]
      · simp only [RegFile.get]
        split
        · rfl
        · exact ih

/-- A field dropped from a file reads its reset value. -/
theorem RegFile.get_filter_same (r : RegFile) (f : Fld) :
    RegFile.get (r.filter (fun e => e.1.key ≠ f.key)) f = f.rst := by
  induction r with
  | nil => rfl
  | cons a t ih =>
    by_cases h : a.1.key = f.key
    · simpa [List.filter_cons, h] using ih
    · simpa [List.filter_cons, h, RegFile.get] using ih

/-- Dropping a field leaves a field of another key alone. -/
theorem RegFile.get_filter_other (r : RegFile) {f g : Fld} (h : f.key ≠ g.key) :
    RegFile.get (r.filter (fun e => e.1.key ≠ f.key)) g = r.get g := by
  induction r with
  | nil => rfl
  | cons a t ih =>
    by_cases ha : a.1.key = f.key
    · have : ¬ a.1.key = g.key := fun e => h (ha.symm.trans e)
      simpa [List.filter_cons, ha, RegFile.get, this, h] using ih
    · simp only [List.filter_cons, ha, ne_eq, not_false_eq_true, decide_true, if_true, RegFile.get]
      split
      · rfl
      · simpa using ih

/-- A field reads as written. -/
@[simp] theorem RegFile.get_put_same (r : RegFile) (f : Fld) (v : Nat) : (r.put f v).get f = v := by
  unfold RegFile.put
  split
  · rename_i h
    rw [RegFile.get_filter_same, h]
  · exact RegFile.get_ins_same r f v

/-- A write leaves every field of another key alone. -/
theorem RegFile.get_put_other (r : RegFile) {f g : Fld} (v : Nat) (h : f.key ≠ g.key) :
    (r.put f v).get g = r.get g := by
  unfold RegFile.put
  split
  · exact RegFile.get_filter_other r h
  · exact RegFile.get_ins_other r v h

/-! ### The same through the state -/

/-- A field reads as written, wrapped to its width. -/
@[simp] theorem State.rd_wr_same (s : State) (f : Fld) (v : Nat) : (s.wr f v).rd f = v % 2 ^ f.w :=
  RegFile.get_put_same _ _ _

/-- A write of a field leaves every field of another key alone. -/
theorem State.rd_wr_other (s : State) {f g : Fld} (v : Nat) (h : f.key ≠ g.key) : (s.wr f v).rd g = s.rd g :=
  RegFile.get_put_other _ _ h

/-- A one-bit write reads back as the bit. -/
theorem State.rb_wb_same (s : State) (f : Fld) (v : Bool) (h : 1 ≤ f.w) : (s.wb f v).rb f = v := by
  have h2 : 1 < 2 ^ f.w := Nat.one_lt_two_pow (by omega)
  have : (s.wb f v).rd f = b2n v % 2 ^ f.w := State.rd_wr_same _ _ _
  unfold State.rb
  show decide ((s.wb f v).rd f = 1) = v
  rw [this]
  cases v <;> simp [b2n, Nat.mod_eq_of_lt h2]

/-- A one-bit write leaves every field of another key alone. -/
theorem State.rd_wb_other (s : State) {f g : Fld} (v : Bool) (h : f.key ≠ g.key) : (s.wb f v).rd g = s.rd g :=
  State.rd_wr_other s _ h

/-- A signed write leaves every field of another key alone. -/
theorem State.rd_wrS_other (s : State) {f g : Fld} (v : Int) (h : f.key ≠ g.key) : (s.wrS f v).rd g = s.rd g :=
  State.rd_wr_other s _ h

/-- A saturating count leaves every field of another key alone. -/
theorem State.rd_incSat_other (s : State) {f g : Fld} (h : f.key ≠ g.key) : (s.incSat f).rd g = s.rd g :=
  State.rd_wr_other s _ h

/-- A wrapping count leaves every field of another key alone. -/
theorem State.rd_incWrap_other (s : State) {f g : Fld} (h : f.key ≠ g.key) : (s.incWrap f).rd g = s.rd g :=
  State.rd_wr_other s _ h

/-- A wrapping count is one more, modulo the field's width. -/
theorem State.rd_incWrap_same (s : State) (f : Fld) : (s.incWrap f).rd f = (s.rd f + 1) % 2 ^ f.w :=
  State.rd_wr_same _ _ _

/-- Setting a bit leaves every field of another key alone. -/
theorem State.rd_setFBit_other (s : State) {f g : Fld} (i : Nat) (h : f.key ≠ g.key) :
    (s.setFBit f i).rd g = s.rd g :=
  State.rd_wr_other s _ h

/-- Clearing a bit leaves every field of another key alone. -/
theorem State.rd_clrFBit_other (s : State) {f g : Fld} (i : Nat) (h : f.key ≠ g.key) :
    (s.clrFBit f i).rd g = s.rd g :=
  State.rd_wr_other s _ h

/-- A write of a field keeps the canonical form. -/
theorem State.ok_wr {s : State} (f : Fld) (v : Nat) (h : s.regs.ok = true) : (s.wr f v).regs.ok = true :=
  RegFile.ok_put _ _ h

/-- A signed write keeps the canonical form. -/
theorem State.ok_wrS {s : State} (f : Fld) (v : Int) (h : s.regs.ok = true) : (s.wrS f v).regs.ok = true :=
  State.ok_wr _ _ h

/-- A one-bit write keeps the canonical form. -/
theorem State.ok_wb {s : State} (f : Fld) (v : Bool) (h : s.regs.ok = true) : (s.wb f v).regs.ok = true :=
  State.ok_wr _ _ h

/-- A saturating count keeps the canonical form. -/
theorem State.ok_incSat {s : State} (f : Fld) (h : s.regs.ok = true) : (s.incSat f).regs.ok = true :=
  State.ok_wr _ _ h

/-- A wrapping count keeps the canonical form. -/
theorem State.ok_incWrap {s : State} (f : Fld) (h : s.regs.ok = true) : (s.incWrap f).regs.ok = true :=
  State.ok_wr _ _ h

/-- Setting a bit keeps the canonical form. -/
theorem State.ok_setFBit {s : State} (f : Fld) (i : Nat) (h : s.regs.ok = true) : (s.setFBit f i).regs.ok = true :=
  State.ok_wr _ _ h

/-- Clearing a bit keeps the canonical form. -/
theorem State.ok_clrFBit {s : State} (f : Fld) (i : Nat) (h : s.regs.ok = true) : (s.clrFBit f i).regs.ok = true :=
  State.ok_wr _ _ h

end Sys2Proof.Machine
end

