-- ==== Sys2Proof/Laws/Keeps.lean ====
section
/-!
SUPPORT. What every shared operation keeps, said once: the queue, the identity of the device, the canonical form of the
register file, and OTP that only moves forward. `Keeps s t` composes, so that a meaning is followed operation by
operation without unfolding one.
-/

namespace Sys2Proof.Machine

/-- OTP only moves forward (R726): the rollback counter, the lifecycle, the revoked keys, the owner's keys; a pending
lifecycle is never below the one in force. -/
def OtpFwd (a b : SecS) : Prop :=
  a.life ≤ a.lifePend.getD a.life →
    a.rbc ≤ b.rbc ∧ a.life ≤ b.life ∧ b.life ≤ b.lifePend.getD b.life ∧ a.revoke &&& b.revoke = a.revoke ∧
      (a.ownerSet = true → b.ownerSet = true)

/-- OTP as it stands is no step back. -/
theorem OtpFwd.refl (a : SecS) : OtpFwd a a :=
  fun h => ⟨Nat.le_refl _, Nat.le_refl _, h, BitVec.and_self, id⟩

/-- Steps forward add up. -/
theorem OtpFwd.trans {a b c : SecS} (h : OtpFwd a b) (k : OtpFwd b c) : OtpFwd a c := by
  intro ha
  obtain ⟨h1, h2, h3, h4, h5⟩ := h ha
  obtain ⟨k1, k2, k3, k4, k5⟩ := k h3
  refine ⟨Nat.le_trans h1 k1, Nat.le_trans h2 k2, k3, ?_, fun x => k5 (h5 x)⟩
  calc a.revoke &&& c.revoke = (a.revoke &&& b.revoke) &&& c.revoke := by rw [h4]
    _ = a.revoke &&& (b.revoke &&& c.revoke) := BitVec.and_assoc ..
    _ = a.revoke := by rw [k4, h4]

/-- What an operation from `s` to `t` keeps. -/
structure Keeps (s t : State) : Prop where
  pending : t.pending = s.pending
  uid : t.sec.uid = s.sec.uid
  gradeM : t.sec.gradeM = s.sec.gradeM
  regs : s.regs.ok = true → t.regs.ok = true
  otp : OtpFwd s.sec t.sec

/-- Nothing changes. -/
theorem Keeps.refl (s : State) : Keeps s s := ⟨rfl, rfl, rfl, id, OtpFwd.refl _⟩

/-- One operation after another. -/
theorem Keeps.trans {s t u : State} (h : Keeps s t) (k : Keeps t u) : Keeps s u :=
  ⟨k.pending.trans h.pending, k.uid.trans h.uid, k.gradeM.trans h.gradeM, fun a => k.regs (h.regs a), h.otp.trans k.otp⟩

/-- One of two ways. -/
theorem Keeps.ite {s t u : State} {c : Prop} [Decidable c] (h : Keeps s t) (k : Keeps s u) :
    Keeps s (if c then t else u) := by
  split
  · exact h
  · exact k

/-- A walk through a list. -/
theorem Keeps.foldl {α : Type} {s t : State} {f : State → α → State} (l : List α)
    (k : ∀ t a, Keeps s t → Keeps s (f t a)) (h : Keeps s t) : Keeps s (l.foldl f t) := by
  induction l generalizing t with
  | nil => exact h
  | cons a l ih => exact ih (k t a h)

/-- A walk through channels. -/
theorem State.forCh_keeps {s t : State} {f : State → Ch → State} (l : List Ch)
    (k : ∀ t a, Keeps s t → Keeps s (f t a)) (h : Keeps s t) : Keeps s (t.forCh l f) := Keeps.foldl l k h

/-- A record update outside the queue, the identity, OTP and the register file. -/
theorem Keeps.parts {s t : State} (h : Keeps s t) (written : RegFile) (sys : SysS) (pins : Pins) (host : HostS) (ring : RingS) (flt :
    FltS) (cmp : Vector CmpS 72) (saf : SafS) (met : MetS) (mot : MotS) (ch : Vector Chan 16) (qd : Vector QuadS 4)
    (free : Nat) (out : List Out) :
    Keeps s ⟨t.pending, t.regs, written, sys, pins, t.sec, host, ring, flt, cmp, saf, met, mot, ch, qd, free, out⟩ :=
  h.trans ⟨rfl, rfl, rfl, id, OtpFwd.refl _⟩

/-- A record update under which fields leave the register file. -/
theorem Keeps.drop {s t : State} (h : Keeps s t) (p : Fld × Nat → Bool) (written : RegFile) (sys : SysS) (pins : Pins) (host : HostS)
    (ring : RingS) (flt : FltS) (cmp : Vector CmpS 72) (saf : SafS) (met : MetS) (mot : MotS) (ch : Vector Chan 16)
    (qd : Vector QuadS 4) (free : Nat) (out : List Out) :
    Keeps s ⟨t.pending, t.regs.filter p, written, sys, pins, t.sec, host, ring, flt, cmp, saf, met, mot, ch, qd, free, out⟩ :=
  h.trans ⟨rfl, rfl, rfl, RegFile.ok_filter p, OtpFwd.refl _⟩

/-- A record update that leaves the identity and OTP alone. -/
theorem Keeps.sec {s t : State} (h : Keeps s t) (keys : Vector Digest 4) (erased : Bool) (img : Option ImgSet)
    (staged : Option (AdmHdr × ImgSet)) (attest : Option (AdmHdr × Nat × List Word))
    (written : RegFile) (sys : SysS) (pins : Pins) (host : HostS) (ring : RingS) (flt : FltS) (cmp : Vector CmpS 72) (saf : SafS) (met :
      MetS) (mot : MotS) (ch : Vector Chan 16) (qd : Vector QuadS 4) (free : Nat) (out : List Out) :
    Keeps s ⟨t.pending, t.regs, written, sys, pins, ⟨t.sec.gradeM, t.sec.uid, t.sec.life, t.sec.lifePend, t.sec.rbc,
      t.sec.revoke, t.sec.ownerSet, keys, erased, img, staged, attest⟩, host, ring, flt, cmp, saf, met, mot, ch, qd,
      free, out⟩ :=
  h.trans ⟨rfl, rfl, rfl, id, OtpFwd.refl t.sec⟩

/-- A record update under which fields leave the register file and that leaves the identity and OTP alone. -/
theorem Keeps.renew {s t : State} (h : Keeps s t) (p : Fld × Nat → Bool) (keys : Vector Digest 4) (erased : Bool) (img : Option ImgSet)
    (staged : Option (AdmHdr × ImgSet)) (attest : Option (AdmHdr × Nat × List Word))
    (written : RegFile) (sys : SysS) (pins : Pins) (host : HostS) (ring : RingS) (flt : FltS) (cmp : Vector CmpS 72) (saf : SafS) (met :
      MetS) (mot : MotS) (ch : Vector Chan 16) (qd : Vector QuadS 4) (free : Nat) (out : List Out) :
    Keeps s ⟨t.pending, t.regs.filter p, written, sys, pins, ⟨t.sec.gradeM, t.sec.uid, t.sec.life, t.sec.lifePend, t.sec.rbc,
      t.sec.revoke, t.sec.ownerSet, keys, erased, img, staged, attest⟩, host, ring, flt, cmp, saf, met, mot, ch, qd,
      free, out⟩ :=
  h.trans ⟨rfl, rfl, rfl, RegFile.ok_filter p, OtpFwd.refl t.sec⟩

/-- A write of a field. -/
theorem State.wr_keeps {s t : State} (h : Keeps s t) (f : Fld) (v : Nat) : Keeps s (t.wr f v) :=
  h.trans ⟨rfl, rfl, rfl, State.ok_wr f v, OtpFwd.refl _⟩

end Sys2Proof.Machine
end

