-- ==== Sys2Proof/Laws/KeepsOps.lean ====
section
/-! SUPPORT. What the operations of Ops.lean keep (Keeps.lean). -/

set_option linter.all false
set_option linter.unusedTactic false
set_option linter.unreachableTactic false
namespace Sys2Proof.Machine

/-- `commitIf` keeps what every operation keeps. -/
theorem State.commitIf_keeps {s₀ s : State} (h : Keeps s₀ s) (p : Fld → Bool) : Keeps s₀ (s.commitIf p) := by
  unfold State.commitIf
  repeat' (first
    | with_reducible assumption
    | ((fail_if_no_progress extract_lets +onlyGivenNames u); refine (show Keeps s₀ u → _ from fun hu => ?_) ?_; (on_goal 1 => clear_value u); (on_goal 2 => unfold u))
    | ((fail_if_no_progress extract_lets +onlyGivenNames u); clear_value u)
    | (intro s1 a1 h1)
    | split
    | with_reducible apply State.wr_keeps
    | with_reducible apply State.forCh_keeps
    | with_reducible apply Keeps.foldl
    | with_reducible apply State.wr_keeps
    | with_reducible apply Keeps.parts
    | with_reducible apply Keeps.sec
    | with_reducible apply Keeps.drop
    | with_reducible apply Keeps.renew
    | (fail_if_no_progress dsimp -zeta only))

/-- `wrS` keeps what every operation keeps. -/
theorem State.wrS_keeps {s₀ s : State} (h : Keeps s₀ s) (f : Fld) (v : Int) : Keeps s₀ (s.wrS f v) := by
  unfold State.wrS
  repeat' (first
    | with_reducible assumption
    | ((fail_if_no_progress extract_lets +onlyGivenNames u); refine (show Keeps s₀ u → _ from fun hu => ?_) ?_; (on_goal 1 => clear_value u); (on_goal 2 => unfold u))
    | ((fail_if_no_progress extract_lets +onlyGivenNames u); clear_value u)
    | (intro s1 a1 h1)
    | split
    | with_reducible apply State.wr_keeps
    | with_reducible apply State.forCh_keeps
    | with_reducible apply Keeps.foldl
    | with_reducible apply State.wr_keeps
    | with_reducible apply Keeps.parts
    | with_reducible apply Keeps.sec
    | with_reducible apply Keeps.drop
    | with_reducible apply Keeps.renew
    | (fail_if_no_progress dsimp -zeta only))

/-- `wb` keeps what every operation keeps. -/
theorem State.wb_keeps {s₀ s : State} (h : Keeps s₀ s) (f : Fld) (v : Bool) : Keeps s₀ (s.wb f v) := by
  unfold State.wb
  repeat' (first
    | with_reducible assumption
    | ((fail_if_no_progress extract_lets +onlyGivenNames u); refine (show Keeps s₀ u → _ from fun hu => ?_) ?_; (on_goal 1 => clear_value u); (on_goal 2 => unfold u))
    | ((fail_if_no_progress extract_lets +onlyGivenNames u); clear_value u)
    | (intro s1 a1 h1)
    | split
    | with_reducible apply State.wr_keeps
    | with_reducible apply State.forCh_keeps
    | with_reducible apply Keeps.foldl
    | with_reducible apply State.wr_keeps
    | with_reducible apply Keeps.parts
    | with_reducible apply Keeps.sec
    | with_reducible apply Keeps.drop
    | with_reducible apply Keeps.renew
    | (fail_if_no_progress dsimp -zeta only))

/-- `incSat` keeps what every operation keeps. -/
theorem State.incSat_keeps {s₀ s : State} (h : Keeps s₀ s) (f : Fld) : Keeps s₀ (s.incSat f) := by
  unfold State.incSat
  repeat' (first
    | with_reducible assumption
    | ((fail_if_no_progress extract_lets +onlyGivenNames u); refine (show Keeps s₀ u → _ from fun hu => ?_) ?_; (on_goal 1 => clear_value u); (on_goal 2 => unfold u))
    | ((fail_if_no_progress extract_lets +onlyGivenNames u); clear_value u)
    | (intro s1 a1 h1)
    | split
    | with_reducible apply State.wr_keeps
    | with_reducible apply State.forCh_keeps
    | with_reducible apply Keeps.foldl
    | with_reducible apply State.wr_keeps
    | with_reducible apply Keeps.parts
    | with_reducible apply Keeps.sec
    | with_reducible apply Keeps.drop
    | with_reducible apply Keeps.renew
    | (fail_if_no_progress dsimp -zeta only))

/-- `incWrap` keeps what every operation keeps. -/
theorem State.incWrap_keeps {s₀ s : State} (h : Keeps s₀ s) (f : Fld) : Keeps s₀ (s.incWrap f) := by
  unfold State.incWrap
  repeat' (first
    | with_reducible assumption
    | ((fail_if_no_progress extract_lets +onlyGivenNames u); refine (show Keeps s₀ u → _ from fun hu => ?_) ?_; (on_goal 1 => clear_value u); (on_goal 2 => unfold u))
    | ((fail_if_no_progress extract_lets +onlyGivenNames u); clear_value u)
    | (intro s1 a1 h1)
    | split
    | with_reducible apply State.wr_keeps
    | with_reducible apply State.forCh_keeps
    | with_reducible apply Keeps.foldl
    | with_reducible apply State.wr_keeps
    | with_reducible apply Keeps.parts
    | with_reducible apply Keeps.sec
    | with_reducible apply Keeps.drop
    | with_reducible apply Keeps.renew
    | (fail_if_no_progress dsimp -zeta only))

/-- `setFBit` keeps what every operation keeps. -/
theorem State.setFBit_keeps {s₀ s : State} (h : Keeps s₀ s) (f : Fld) (i : Nat) : Keeps s₀ (s.setFBit f i) := by
  unfold State.setFBit
  repeat' (first
    | with_reducible assumption
    | ((fail_if_no_progress extract_lets +onlyGivenNames u); refine (show Keeps s₀ u → _ from fun hu => ?_) ?_; (on_goal 1 => clear_value u); (on_goal 2 => unfold u))
    | ((fail_if_no_progress extract_lets +onlyGivenNames u); clear_value u)
    | (intro s1 a1 h1)
    | split
    | with_reducible apply State.wr_keeps
    | with_reducible apply State.forCh_keeps
    | with_reducible apply Keeps.foldl
    | with_reducible apply State.wr_keeps
    | with_reducible apply Keeps.parts
    | with_reducible apply Keeps.sec
    | with_reducible apply Keeps.drop
    | with_reducible apply Keeps.renew
    | (fail_if_no_progress dsimp -zeta only))

/-- `clrFBit` keeps what every operation keeps. -/
theorem State.clrFBit_keeps {s₀ s : State} (h : Keeps s₀ s) (f : Fld) (i : Nat) : Keeps s₀ (s.clrFBit f i) := by
  unfold State.clrFBit
  repeat' (first
    | with_reducible assumption
    | ((fail_if_no_progress extract_lets +onlyGivenNames u); refine (show Keeps s₀ u → _ from fun hu => ?_) ?_; (on_goal 1 => clear_value u); (on_goal 2 => unfold u))
    | ((fail_if_no_progress extract_lets +onlyGivenNames u); clear_value u)
    | (intro s1 a1 h1)
    | split
    | with_reducible apply State.wr_keeps
    | with_reducible apply State.forCh_keeps
    | with_reducible apply Keeps.foldl
    | with_reducible apply State.wr_keeps
    | with_reducible apply Keeps.parts
    | with_reducible apply Keeps.sec
    | with_reducible apply Keeps.drop
    | with_reducible apply Keeps.renew
    | (fail_if_no_progress dsimp -zeta only))

/-- `updCh` keeps what every operation keeps. -/
theorem State.updCh_keeps {s₀ s : State} (h : Keeps s₀ s) (c : Ch) (f : Chan → Chan) : Keeps s₀ (s.updCh c f) := by
  unfold State.updCh
  repeat' (first
    | with_reducible assumption
    | ((fail_if_no_progress extract_lets +onlyGivenNames u); refine (show Keeps s₀ u → _ from fun hu => ?_) ?_; (on_goal 1 => clear_value u); (on_goal 2 => unfold u))
    | ((fail_if_no_progress extract_lets +onlyGivenNames u); clear_value u)
    | (intro s1 a1 h1)
    | split
    | with_reducible apply State.forCh_keeps
    | with_reducible apply Keeps.foldl
    | with_reducible apply State.wr_keeps
    | with_reducible apply Keeps.parts
    | with_reducible apply Keeps.sec
    | with_reducible apply Keeps.drop
    | with_reducible apply Keeps.renew
    | (fail_if_no_progress dsimp -zeta only))

/-- `updStage` keeps what every operation keeps. -/
theorem State.updStage_keeps {s₀ s : State} (h : Keeps s₀ s) (c : Ch) (f : Stage → Stage) : Keeps s₀ (s.updStage c f) := by
  unfold State.updStage
  repeat' (first
    | with_reducible assumption
    | ((fail_if_no_progress extract_lets +onlyGivenNames u); refine (show Keeps s₀ u → _ from fun hu => ?_) ?_; (on_goal 1 => clear_value u); (on_goal 2 => unfold u))
    | ((fail_if_no_progress extract_lets +onlyGivenNames u); clear_value u)
    | (intro s1 a1 h1)
    | split
    | with_reducible apply State.updCh_keeps
    | with_reducible apply State.forCh_keeps
    | with_reducible apply Keeps.foldl
    | with_reducible apply State.wr_keeps
    | with_reducible apply Keeps.parts
    | with_reducible apply Keeps.sec
    | with_reducible apply Keeps.drop
    | with_reducible apply Keeps.renew
    | (fail_if_no_progress dsimp -zeta only))

/-- `updLoop` keeps what every operation keeps. -/
theorem State.updLoop_keeps {s₀ s : State} (h : Keeps s₀ s) (c : Ch) (f : LoopS → LoopS) : Keeps s₀ (s.updLoop c f) := by
  unfold State.updLoop
  repeat' (first
    | with_reducible assumption
    | ((fail_if_no_progress extract_lets +onlyGivenNames u); refine (show Keeps s₀ u → _ from fun hu => ?_) ?_; (on_goal 1 => clear_value u); (on_goal 2 => unfold u))
    | ((fail_if_no_progress extract_lets +onlyGivenNames u); clear_value u)
    | (intro s1 a1 h1)
    | split
    | with_reducible apply State.updCh_keeps
    | with_reducible apply State.forCh_keeps
    | with_reducible apply Keeps.foldl
    | with_reducible apply State.wr_keeps
    | with_reducible apply Keeps.parts
    | with_reducible apply Keeps.sec
    | with_reducible apply Keeps.drop
    | with_reducible apply Keeps.renew
    | (fail_if_no_progress dsimp -zeta only))

/-- `updMet` keeps what every operation keeps. -/
theorem State.updMet_keeps {s₀ s : State} (h : Keeps s₀ s) (c : Ch) (f : ChMet → ChMet) : Keeps s₀ (s.updMet c f) := by
  unfold State.updMet
  repeat' (first
    | with_reducible assumption
    | ((fail_if_no_progress extract_lets +onlyGivenNames u); refine (show Keeps s₀ u → _ from fun hu => ?_) ?_; (on_goal 1 => clear_value u); (on_goal 2 => unfold u))
    | ((fail_if_no_progress extract_lets +onlyGivenNames u); clear_value u)
    | (intro s1 a1 h1)
    | split
    | with_reducible apply State.updCh_keeps
    | with_reducible apply State.forCh_keeps
    | with_reducible apply Keeps.foldl
    | with_reducible apply State.wr_keeps
    | with_reducible apply Keeps.parts
    | with_reducible apply Keeps.sec
    | with_reducible apply Keeps.drop
    | with_reducible apply Keeps.renew
    | (fail_if_no_progress dsimp -zeta only))

/-- `updLed` keeps what every operation keeps. -/
theorem State.updLed_keeps {s₀ s : State} (h : Keeps s₀ s) (c : Ch) (f : Ledger → Ledger) : Keeps s₀ (s.updLed c f) := by
  unfold State.updLed
  repeat' (first
    | with_reducible assumption
    | ((fail_if_no_progress extract_lets +onlyGivenNames u); refine (show Keeps s₀ u → _ from fun hu => ?_) ?_; (on_goal 1 => clear_value u); (on_goal 2 => unfold u))
    | ((fail_if_no_progress extract_lets +onlyGivenNames u); clear_value u)
    | (intro s1 a1 h1)
    | split
    | with_reducible apply State.updCh_keeps
    | with_reducible apply State.forCh_keeps
    | with_reducible apply Keeps.foldl
    | with_reducible apply State.wr_keeps
    | with_reducible apply Keeps.parts
    | with_reducible apply Keeps.sec
    | with_reducible apply Keeps.drop
    | with_reducible apply Keeps.renew
    | (fail_if_no_progress dsimp -zeta only))

/-- `updSeq` keeps what every operation keeps. -/
theorem State.updSeq_keeps {s₀ s : State} (h : Keeps s₀ s) (c : Ch) (f : ChanS → ChanS) : Keeps s₀ (s.updSeq c f) := by
  unfold State.updSeq
  repeat' (first
    | with_reducible assumption
    | ((fail_if_no_progress extract_lets +onlyGivenNames u); refine (show Keeps s₀ u → _ from fun hu => ?_) ?_; (on_goal 1 => clear_value u); (on_goal 2 => unfold u))
    | ((fail_if_no_progress extract_lets +onlyGivenNames u); clear_value u)
    | (intro s1 a1 h1)
    | split
    | with_reducible apply State.updCh_keeps
    | with_reducible apply State.forCh_keeps
    | with_reducible apply Keeps.foldl
    | with_reducible apply State.wr_keeps
    | with_reducible apply Keeps.parts
    | with_reducible apply Keeps.sec
    | with_reducible apply Keeps.drop
    | with_reducible apply Keeps.renew
    | (fail_if_no_progress dsimp -zeta only))

/-- `updTlm` keeps what every operation keeps. -/
theorem State.updTlm_keeps {s₀ s : State} (h : Keeps s₀ s) (c : Ch) (f : Tlm → Tlm) : Keeps s₀ (s.updTlm c f) := by
  unfold State.updTlm
  repeat' (first
    | with_reducible assumption
    | ((fail_if_no_progress extract_lets +onlyGivenNames u); refine (show Keeps s₀ u → _ from fun hu => ?_) ?_; (on_goal 1 => clear_value u); (on_goal 2 => unfold u))
    | ((fail_if_no_progress extract_lets +onlyGivenNames u); clear_value u)
    | (intro s1 a1 h1)
    | split
    | with_reducible apply State.updCh_keeps
    | with_reducible apply State.forCh_keeps
    | with_reducible apply Keeps.foldl
    | with_reducible apply State.wr_keeps
    | with_reducible apply Keeps.parts
    | with_reducible apply Keeps.sec
    | with_reducible apply Keeps.drop
    | with_reducible apply Keeps.renew
    | (fail_if_no_progress dsimp -zeta only))

/-- `updRun` keeps what every operation keeps. -/
theorem State.updRun_keeps {s₀ s : State} (h : Keeps s₀ s) (c : Ch) (f : Run → Run) : Keeps s₀ (s.updRun c f) := by
  unfold State.updRun
  repeat' (first
    | with_reducible assumption
    | ((fail_if_no_progress extract_lets +onlyGivenNames u); refine (show Keeps s₀ u → _ from fun hu => ?_) ?_; (on_goal 1 => clear_value u); (on_goal 2 => unfold u))
    | ((fail_if_no_progress extract_lets +onlyGivenNames u); clear_value u)
    | (intro s1 a1 h1)
    | split
    | with_reducible apply State.updSeq_keeps
    | with_reducible apply State.forCh_keeps
    | with_reducible apply Keeps.foldl
    | with_reducible apply State.wr_keeps
    | with_reducible apply Keeps.parts
    | with_reducible apply Keeps.sec
    | with_reducible apply Keeps.drop
    | with_reducible apply Keeps.renew
    | (fail_if_no_progress dsimp -zeta only))

/-- `updQd` keeps what every operation keeps. -/
theorem State.updQd_keeps {s₀ s : State} (h : Keeps s₀ s) (q : Quad) (f : QuadS → QuadS) : Keeps s₀ (s.updQd q f) := by
  unfold State.updQd
  repeat' (first
    | with_reducible assumption
    | ((fail_if_no_progress extract_lets +onlyGivenNames u); refine (show Keeps s₀ u → _ from fun hu => ?_) ?_; (on_goal 1 => clear_value u); (on_goal 2 => unfold u))
    | ((fail_if_no_progress extract_lets +onlyGivenNames u); clear_value u)
    | (intro s1 a1 h1)
    | split
    | with_reducible apply State.forCh_keeps
    | with_reducible apply Keeps.foldl
    | with_reducible apply State.wr_keeps
    | with_reducible apply Keeps.parts
    | with_reducible apply Keeps.sec
    | with_reducible apply Keeps.drop
    | with_reducible apply Keeps.renew
    | (fail_if_no_progress dsimp -zeta only))

/-- `updQ` keeps what every operation keeps. -/
theorem State.updQ_keeps {s₀ s : State} (h : Keeps s₀ s) (q : QId) (f : SubQ → SubQ) : Keeps s₀ (s.updQ q f) := by
  unfold State.updQ
  repeat' (first
    | with_reducible assumption
    | ((fail_if_no_progress extract_lets +onlyGivenNames u); refine (show Keeps s₀ u → _ from fun hu => ?_) ?_; (on_goal 1 => clear_value u); (on_goal 2 => unfold u))
    | ((fail_if_no_progress extract_lets +onlyGivenNames u); clear_value u)
    | (intro s1 a1 h1)
    | split
    | with_reducible apply State.forCh_keeps
    | with_reducible apply Keeps.foldl
    | with_reducible apply State.wr_keeps
    | with_reducible apply Keeps.parts
    | with_reducible apply Keeps.sec
    | with_reducible apply Keeps.drop
    | with_reducible apply Keeps.renew
    | (fail_if_no_progress dsimp -zeta only))

/-- `updSrc` keeps what every operation keeps. -/
theorem State.updSrc_keeps {s₀ s : State} (h : Keeps s₀ s) (n : Src) (f : SrcS → SrcS) : Keeps s₀ (s.updSrc n f) := by
  unfold State.updSrc
  repeat' (first
    | with_reducible assumption
    | ((fail_if_no_progress extract_lets +onlyGivenNames u); refine (show Keeps s₀ u → _ from fun hu => ?_) ?_; (on_goal 1 => clear_value u); (on_goal 2 => unfold u))
    | ((fail_if_no_progress extract_lets +onlyGivenNames u); clear_value u)
    | (intro s1 a1 h1)
    | split
    | with_reducible apply State.forCh_keeps
    | with_reducible apply Keeps.foldl
    | with_reducible apply State.wr_keeps
    | with_reducible apply Keeps.parts
    | with_reducible apply Keeps.sec
    | with_reducible apply Keeps.drop
    | with_reducible apply Keeps.renew
    | (fail_if_no_progress dsimp -zeta only))

/-- `takeNat` keeps what every operation keeps. -/
theorem State.takeNat_keeps {s₀ s : State} (h : Keeps s₀ s) : Keeps s₀ (s.takeNat).2 := by
  unfold State.takeNat
  repeat' (first
    | with_reducible assumption
    | ((fail_if_no_progress extract_lets +onlyGivenNames u); refine (show Keeps s₀ u → _ from fun hu => ?_) ?_; (on_goal 1 => clear_value u); (on_goal 2 => unfold u))
    | ((fail_if_no_progress extract_lets +onlyGivenNames u); clear_value u)
    | (intro s1 a1 h1)
    | split
    | with_reducible apply State.forCh_keeps
    | with_reducible apply Keeps.foldl
    | with_reducible apply State.wr_keeps
    | with_reducible apply Keeps.parts
    | with_reducible apply Keeps.sec
    | with_reducible apply Keeps.drop
    | with_reducible apply Keeps.renew
    | (fail_if_no_progress dsimp -zeta only))

/-- `takeInt` keeps what every operation keeps. -/
theorem State.takeInt_keeps {s₀ s : State} (h : Keeps s₀ s) : Keeps s₀ (s.takeInt).2 := by
  unfold State.takeInt
  repeat' (first
    | with_reducible assumption
    | ((fail_if_no_progress extract_lets +onlyGivenNames u); refine (show Keeps s₀ u → _ from fun hu => ?_) ?_; (on_goal 1 => clear_value u); (on_goal 2 => unfold u))
    | ((fail_if_no_progress extract_lets +onlyGivenNames u); clear_value u)
    | (intro s1 a1 h1)
    | split
    | with_reducible apply State.forCh_keeps
    | with_reducible apply Keeps.foldl
    | with_reducible apply State.wr_keeps
    | with_reducible apply Keeps.parts
    | with_reducible apply Keeps.sec
    | with_reducible apply Keeps.drop
    | with_reducible apply Keeps.renew
    | (fail_if_no_progress dsimp -zeta only))

/-- `orFree` keeps what every operation keeps. -/
theorem State.orFree_keeps {s₀ s : State} (h : Keeps s₀ s) (x : Option Int) : Keeps s₀ (s.orFree x).2 := by
  unfold State.orFree
  repeat' (first
    | with_reducible assumption
    | ((fail_if_no_progress extract_lets +onlyGivenNames u); refine (show Keeps s₀ u → _ from fun hu => ?_) ?_; (on_goal 1 => clear_value u); (on_goal 2 => unfold u))
    | ((fail_if_no_progress extract_lets +onlyGivenNames u); clear_value u)
    | (intro s1 a1 h1)
    | (fail_if_no_progress dsimp -zeta only [State.takeNat, State.takeInt])
    | split
    | with_reducible apply State.takeInt_keeps
    | with_reducible apply State.forCh_keeps
    | with_reducible apply Keeps.foldl
    | with_reducible apply State.wr_keeps
    | with_reducible apply Keeps.parts
    | with_reducible apply Keeps.sec
    | with_reducible apply Keeps.drop
    | with_reducible apply Keeps.renew
    | (fail_if_no_progress dsimp -zeta only))

/-- `emit` keeps what every operation keeps. -/
theorem State.emit_keeps {s₀ s : State} (h : Keeps s₀ s) (o : Out) : Keeps s₀ (s.emit o) := by
  unfold State.emit
  repeat' (first
    | with_reducible assumption
    | ((fail_if_no_progress extract_lets +onlyGivenNames u); refine (show Keeps s₀ u → _ from fun hu => ?_) ?_; (on_goal 1 => clear_value u); (on_goal 2 => unfold u))
    | ((fail_if_no_progress extract_lets +onlyGivenNames u); clear_value u)
    | (intro s1 a1 h1)
    | split
    | with_reducible apply State.forCh_keeps
    | with_reducible apply Keeps.foldl
    | with_reducible apply State.wr_keeps
    | with_reducible apply Keeps.parts
    | with_reducible apply Keeps.sec
    | with_reducible apply Keeps.drop
    | with_reducible apply Keeps.renew
    | (fail_if_no_progress dsimp -zeta only))

/-- `event` keeps what every operation keeps. -/
theorem State.event_keeps {s₀ s : State} (h : Keeps s₀ s) (src code arg : Nat) : Keeps s₀ (s.event src code arg) := by
  unfold State.event
  repeat' (first
    | with_reducible assumption
    | ((fail_if_no_progress extract_lets +onlyGivenNames u); refine (show Keeps s₀ u → _ from fun hu => ?_) ?_; (on_goal 1 => clear_value u); (on_goal 2 => unfold u))
    | ((fail_if_no_progress extract_lets +onlyGivenNames u); clear_value u)
    | (intro s1 a1 h1)
    | split
    | with_reducible apply State.forCh_keeps
    | with_reducible apply Keeps.foldl
    | with_reducible apply State.wr_keeps
    | with_reducible apply Keeps.parts
    | with_reducible apply Keeps.sec
    | with_reducible apply Keeps.drop
    | with_reducible apply Keeps.renew
    | (fail_if_no_progress dsimp -zeta only))

/-- `irq` keeps what every operation keeps. -/
theorem State.irq_keeps {s₀ s : State} (h : Keeps s₀ s) (v : Fin 8) : Keeps s₀ (s.irq v) := by
  unfold State.irq
  repeat' (first
    | with_reducible assumption
    | ((fail_if_no_progress extract_lets +onlyGivenNames u); refine (show Keeps s₀ u → _ from fun hu => ?_) ?_; (on_goal 1 => clear_value u); (on_goal 2 => unfold u))
    | ((fail_if_no_progress extract_lets +onlyGivenNames u); clear_value u)
    | (intro s1 a1 h1)
    | split
    | with_reducible apply State.forCh_keeps
    | with_reducible apply Keeps.foldl
    | with_reducible apply State.wr_keeps
    | with_reducible apply Keeps.parts
    | with_reducible apply Keeps.sec
    | with_reducible apply Keeps.drop
    | with_reducible apply Keeps.renew
    | (fail_if_no_progress dsimp -zeta only))

/-- `updCmp` keeps what every operation keeps. -/
theorem State.updCmp_keeps {s₀ s : State} (h : Keeps s₀ s) (i : CmpId) (f : CmpS → CmpS) : Keeps s₀ (s.updCmp i f) := by
  unfold State.updCmp
  repeat' (first
    | with_reducible assumption
    | ((fail_if_no_progress extract_lets +onlyGivenNames u); refine (show Keeps s₀ u → _ from fun hu => ?_) ?_; (on_goal 1 => clear_value u); (on_goal 2 => unfold u))
    | ((fail_if_no_progress extract_lets +onlyGivenNames u); clear_value u)
    | (intro s1 a1 h1)
    | split
    | with_reducible apply State.forCh_keeps
    | with_reducible apply Keeps.foldl
    | with_reducible apply State.wr_keeps
    | with_reducible apply Keeps.parts
    | with_reducible apply Keeps.sec
    | with_reducible apply Keeps.drop
    | with_reducible apply Keeps.renew
    | (fail_if_no_progress dsimp -zeta only))

/-- `complete` keeps what every operation keeps. -/
theorem State.complete_keeps {s₀ s : State} (h : Keeps s₀ s) (o : Owner) (v : Fin 8) (recs : List (List Word)) : Keeps s₀ (s.complete o v recs) := by
  unfold State.complete
  repeat' (first
    | with_reducible assumption
    | ((fail_if_no_progress extract_lets +onlyGivenNames u); refine (show Keeps s₀ u → _ from fun hu => ?_) ?_; (on_goal 1 => clear_value u); (on_goal 2 => unfold u))
    | ((fail_if_no_progress extract_lets +onlyGivenNames u); clear_value u)
    | (intro s1 a1 h1)
    | split
    | with_reducible apply State.forCh_keeps
    | with_reducible apply Keeps.foldl
    | with_reducible apply State.wr_keeps
    | with_reducible apply Keeps.parts
    | with_reducible apply Keeps.sec
    | with_reducible apply Keeps.drop
    | with_reducible apply Keeps.renew
    | (fail_if_no_progress dsimp -zeta only))

/-- `retireTo` keeps what every operation keeps. -/
theorem State.retireTo_keeps {s₀ s : State} (h : Keeps s₀ s) (q : QId) (cnt : Nat) : Keeps s₀ (s.retireTo q cnt) := by
  unfold State.retireTo
  repeat' (first
    | with_reducible assumption
    | ((fail_if_no_progress extract_lets +onlyGivenNames u); refine (show Keeps s₀ u → _ from fun hu => ?_) ?_; (on_goal 1 => clear_value u); (on_goal 2 => unfold u))
    | ((fail_if_no_progress extract_lets +onlyGivenNames u); clear_value u)
    | (intro s1 a1 h1)
    | split
    | with_reducible apply State.updQ_keeps
    | with_reducible apply State.forCh_keeps
    | with_reducible apply Keeps.foldl
    | with_reducible apply State.wr_keeps
    | with_reducible apply Keeps.parts
    | with_reducible apply Keeps.sec
    | with_reducible apply Keeps.drop
    | with_reducible apply Keeps.renew
    | (fail_if_no_progress dsimp -zeta only))

/-- `admEnter` keeps what every operation keeps. -/
theorem State.admEnter_keeps {s₀ s : State} (h : Keeps s₀ s) (f : AdmFin) : Keeps s₀ (s.admEnter f) := by
  unfold State.admEnter
  repeat' (first
    | with_reducible assumption
    | ((fail_if_no_progress extract_lets +onlyGivenNames u); refine (show Keeps s₀ u → _ from fun hu => ?_) ?_; (on_goal 1 => clear_value u); (on_goal 2 => unfold u))
    | ((fail_if_no_progress extract_lets +onlyGivenNames u); clear_value u)
    | (intro s1 a1 h1)
    | split
    | with_reducible apply State.updQ_keeps
    | with_reducible apply State.complete_keeps
    | with_reducible apply State.forCh_keeps
    | with_reducible apply Keeps.foldl
    | with_reducible apply State.wr_keeps
    | with_reducible apply Keeps.parts
    | with_reducible apply Keeps.sec
    | with_reducible apply Keeps.drop
    | with_reducible apply Keeps.renew
    | (fail_if_no_progress dsimp -zeta only))

/-- `admDone` keeps what every operation keeps. -/
theorem State.admDone_keeps {s₀ s : State} (h : Keeps s₀ s) (op : Nat) (a : AdmHdr) (status result : Nat) : Keeps s₀ (s.admDone op a status result) := by
  unfold State.admDone
  repeat' (first
    | with_reducible assumption
    | ((fail_if_no_progress extract_lets +onlyGivenNames u); refine (show Keeps s₀ u → _ from fun hu => ?_) ?_; (on_goal 1 => clear_value u); (on_goal 2 => unfold u))
    | ((fail_if_no_progress extract_lets +onlyGivenNames u); clear_value u)
    | (intro s1 a1 h1)
    | split
    | with_reducible apply State.admEnter_keeps
    | with_reducible apply State.forCh_keeps
    | with_reducible apply Keeps.foldl
    | with_reducible apply State.wr_keeps
    | with_reducible apply Keeps.parts
    | with_reducible apply Keeps.sec
    | with_reducible apply Keeps.drop
    | with_reducible apply Keeps.renew
    | (fail_if_no_progress dsimp -zeta only))

/-- `noticeIn` keeps what every operation keeps. -/
theorem State.noticeIn_keeps {s₀ s : State} (h : Keeps s₀ s) (o : Owner) (upd : Option (QId × Nat)) (r : List Word) : Keeps s₀ (s.noticeIn o upd r) := by
  unfold State.noticeIn
  repeat' (first
    | with_reducible assumption
    | ((fail_if_no_progress extract_lets +onlyGivenNames u); refine (show Keeps s₀ u → _ from fun hu => ?_) ?_; (on_goal 1 => clear_value u); (on_goal 2 => unfold u))
    | ((fail_if_no_progress extract_lets +onlyGivenNames u); clear_value u)
    | (intro s1 a1 h1)
    | split
    | with_reducible apply State.complete_keeps
    | with_reducible apply State.forCh_keeps
    | with_reducible apply Keeps.foldl
    | with_reducible apply State.wr_keeps
    | with_reducible apply Keeps.parts
    | with_reducible apply Keeps.sec
    | with_reducible apply Keeps.drop
    | with_reducible apply Keeps.renew
    | (fail_if_no_progress dsimp -zeta only))

/-- `notice` keeps what every operation keeps. -/
theorem State.notice_keeps {s₀ s : State} (h : Keeps s₀ s) (o : Owner) (q : QId) (cnt reason op expect detail : Nat) : Keeps s₀ (s.notice o q cnt reason op expect detail) := by
  unfold State.notice
  repeat' (first
    | with_reducible assumption
    | ((fail_if_no_progress extract_lets +onlyGivenNames u); refine (show Keeps s₀ u → _ from fun hu => ?_) ?_; (on_goal 1 => clear_value u); (on_goal 2 => unfold u))
    | ((fail_if_no_progress extract_lets +onlyGivenNames u); clear_value u)
    | (intro s1 a1 h1)
    | split
    | with_reducible apply State.noticeIn_keeps
    | with_reducible apply State.forCh_keeps
    | with_reducible apply Keeps.foldl
    | with_reducible apply State.wr_keeps
    | with_reducible apply Keeps.parts
    | with_reducible apply Keeps.sec
    | with_reducible apply Keeps.drop
    | with_reducible apply Keeps.renew
    | (fail_if_no_progress dsimp -zeta only))

/-- `updNotice` keeps what every operation keeps. -/
theorem State.updNotice_keeps {s₀ s : State} (h : Keeps s₀ s) (q : QId) (cnt reason detail : Nat) : Keeps s₀ (s.updNotice q cnt reason detail) := by
  unfold State.updNotice
  repeat' (first
    | with_reducible assumption
    | ((fail_if_no_progress extract_lets +onlyGivenNames u); refine (show Keeps s₀ u → _ from fun hu => ?_) ?_; (on_goal 1 => clear_value u); (on_goal 2 => unfold u))
    | ((fail_if_no_progress extract_lets +onlyGivenNames u); clear_value u)
    | (intro s1 a1 h1)
    | split
    | with_reducible apply State.noticeIn_keeps
    | with_reducible apply State.forCh_keeps
    | with_reducible apply Keeps.foldl
    | with_reducible apply State.wr_keeps
    | with_reducible apply Keeps.parts
    | with_reducible apply Keeps.sec
    | with_reducible apply Keeps.drop
    | with_reducible apply Keeps.renew
    | (fail_if_no_progress dsimp -zeta only))

/-- `flow` keeps what every operation keeps. -/
theorem State.flow_keeps {s₀ s : State} (h : Keeps s₀ s) : Keeps s₀ (s.flow) := by
  unfold State.flow
  repeat' (first
    | with_reducible assumption
    | ((fail_if_no_progress extract_lets +onlyGivenNames u); refine (show Keeps s₀ u → _ from fun hu => ?_) ?_; (on_goal 1 => clear_value u); (on_goal 2 => unfold u))
    | ((fail_if_no_progress extract_lets +onlyGivenNames u); clear_value u)
    | (intro s1 a1 h1)
    | split
    | with_reducible apply State.admEnter_keeps
    | with_reducible apply State.forCh_keeps
    | with_reducible apply Keeps.foldl
    | with_reducible apply State.wr_keeps
    | with_reducible apply Keeps.parts
    | with_reducible apply Keeps.sec
    | with_reducible apply Keeps.drop
    | with_reducible apply Keeps.renew
    | (fail_if_no_progress dsimp -zeta only))

/-- `ledger` keeps what every operation keeps. -/
theorem State.ledger_keeps {s₀ s : State} (h : Keeps s₀ s) (c : Ch) (f : Ledger → Ledger) : Keeps s₀ (s.ledger c f) := by
  unfold State.ledger
  repeat' (first
    | with_reducible assumption
    | ((fail_if_no_progress extract_lets +onlyGivenNames u); refine (show Keeps s₀ u → _ from fun hu => ?_) ?_; (on_goal 1 => clear_value u); (on_goal 2 => unfold u))
    | ((fail_if_no_progress extract_lets +onlyGivenNames u); clear_value u)
    | (intro s1 a1 h1)
    | split
    | with_reducible apply State.updCh_keeps
    | with_reducible apply State.forCh_keeps
    | with_reducible apply Keeps.foldl
    | with_reducible apply State.wr_keeps
    | with_reducible apply Keeps.parts
    | with_reducible apply Keeps.sec
    | with_reducible apply Keeps.drop
    | with_reducible apply Keeps.renew
    | (fail_if_no_progress dsimp -zeta only))

/-- `wrLate` keeps what every operation keeps. -/
theorem State.wrLate_keeps {s₀ s : State} (h : Keeps s₀ s) (f : Fld) (v : Nat) : Keeps s₀ (s.wrLate f v) := by
  unfold State.wrLate
  repeat' (first
    | with_reducible assumption
    | ((fail_if_no_progress extract_lets +onlyGivenNames u); refine (show Keeps s₀ u → _ from fun hu => ?_) ?_; (on_goal 1 => clear_value u); (on_goal 2 => unfold u))
    | ((fail_if_no_progress extract_lets +onlyGivenNames u); clear_value u)
    | (intro s1 a1 h1)
    | split
    | with_reducible apply State.wr_keeps
    | with_reducible apply State.forCh_keeps
    | with_reducible apply Keeps.foldl
    | with_reducible apply State.wr_keeps
    | with_reducible apply Keeps.parts
    | with_reducible apply Keeps.sec
    | with_reducible apply Keeps.drop
    | with_reducible apply Keeps.renew
    | (fail_if_no_progress dsimp -zeta only))

/-- `traceFire` keeps what every operation keeps. -/
theorem State.traceFire_keeps {s₀ s : State} (h : Keeps s₀ s) (q : Quad) : Keeps s₀ (s.traceFire q) := by
  unfold State.traceFire
  repeat' (first
    | with_reducible assumption
    | ((fail_if_no_progress extract_lets +onlyGivenNames u); refine (show Keeps s₀ u → _ from fun hu => ?_) ?_; (on_goal 1 => clear_value u); (on_goal 2 => unfold u))
    | ((fail_if_no_progress extract_lets +onlyGivenNames u); clear_value u)
    | (intro s1 a1 h1)
    | split
    | with_reducible apply State.wr_keeps
    | with_reducible apply State.updQd_keeps
    | with_reducible apply State.forCh_keeps
    | with_reducible apply Keeps.foldl
    | with_reducible apply State.wr_keeps
    | with_reducible apply Keeps.parts
    | with_reducible apply Keeps.sec
    | with_reducible apply Keeps.drop
    | with_reducible apply Keeps.renew
    | (fail_if_no_progress dsimp -zeta only))

/-- `traceTrig` keeps what every operation keeps. -/
theorem State.traceTrig_keeps {s₀ s : State} (h : Keeps s₀ s) (q : Quad) (n : Nat) : Keeps s₀ (s.traceTrig q n) := by
  unfold State.traceTrig
  repeat' (first
    | with_reducible assumption
    | ((fail_if_no_progress extract_lets +onlyGivenNames u); refine (show Keeps s₀ u → _ from fun hu => ?_) ?_; (on_goal 1 => clear_value u); (on_goal 2 => unfold u))
    | ((fail_if_no_progress extract_lets +onlyGivenNames u); clear_value u)
    | (intro s1 a1 h1)
    | split
    | with_reducible apply State.traceFire_keeps
    | with_reducible apply State.forCh_keeps
    | with_reducible apply Keeps.foldl
    | with_reducible apply State.wr_keeps
    | with_reducible apply Keeps.parts
    | with_reducible apply Keeps.sec
    | with_reducible apply Keeps.drop
    | with_reducible apply Keeps.renew
    | (fail_if_no_progress dsimp -zeta only))

/-- `traceAll` keeps what every operation keeps. -/
theorem State.traceAll_keeps {s₀ s : State} (h : Keeps s₀ s) (n : Nat) : Keeps s₀ (s.traceAll n) := by
  unfold State.traceAll
  repeat' (first
    | with_reducible assumption
    | ((fail_if_no_progress extract_lets +onlyGivenNames u); refine (show Keeps s₀ u → _ from fun hu => ?_) ?_; (on_goal 1 => clear_value u); (on_goal 2 => unfold u))
    | ((fail_if_no_progress extract_lets +onlyGivenNames u); clear_value u)
    | (intro s1 a1 h1)
    | split
    | with_reducible apply State.traceTrig_keeps
    | with_reducible apply State.forCh_keeps
    | with_reducible apply Keeps.foldl
    | with_reducible apply State.wr_keeps
    | with_reducible apply Keeps.parts
    | with_reducible apply Keeps.sec
    | with_reducible apply Keeps.drop
    | with_reducible apply Keeps.renew
    | (fail_if_no_progress dsimp -zeta only))

/-- `traceStop` keeps what every operation keeps. -/
theorem State.traceStop_keeps {s₀ s : State} (h : Keeps s₀ s) (q : Quad) : Keeps s₀ (s.traceStop q) := by
  unfold State.traceStop
  repeat' (first
    | with_reducible assumption
    | ((fail_if_no_progress extract_lets +onlyGivenNames u); refine (show Keeps s₀ u → _ from fun hu => ?_) ?_; (on_goal 1 => clear_value u); (on_goal 2 => unfold u))
    | ((fail_if_no_progress extract_lets +onlyGivenNames u); clear_value u)
    | (intro s1 a1 h1)
    | split
    | with_reducible apply State.wr_keeps
    | with_reducible apply State.forCh_keeps
    | with_reducible apply Keeps.foldl
    | with_reducible apply State.wr_keeps
    | with_reducible apply Keeps.parts
    | with_reducible apply Keeps.sec
    | with_reducible apply Keeps.drop
    | with_reducible apply Keeps.renew
    | (fail_if_no_progress dsimp -zeta only))

end Sys2Proof.Machine
end

