-- ==== Sys2Proof/Laws/KeepsFlags.lean ====
section
/-! SUPPORT. What the operations of Flags.lean keep (Keeps.lean). -/

set_option linter.all false
set_option linter.unusedTactic false
set_option linter.unreachableTactic false
namespace Sys2Proof.Machine

/-- `errPull` keeps what every operation keeps. -/
theorem State.errPull_keeps {s₀ s : State} (h : Keeps s₀ s) : Keeps s₀ (s.errPull) := by
  unfold State.errPull
  repeat' (first
    | with_reducible assumption
    | ((fail_if_no_progress extract_lets +onlyGivenNames u); refine (show Keeps s₀ u → _ from fun hu => ?_) ?_; (on_goal 1 => clear_value u); (on_goal 2 => unfold u))
    | ((fail_if_no_progress extract_lets +onlyGivenNames u); clear_value u)
    | (intro s1 a1 h1)
    | split
    | with_reducible apply State.wr_keeps
    | with_reducible apply State.wr_keeps
    | with_reducible apply State.forCh_keeps
    | with_reducible apply Keeps.foldl
    | with_reducible apply State.wr_keeps
    | with_reducible apply Keeps.parts
    | with_reducible apply Keeps.sec
    | with_reducible apply Keeps.drop
    | with_reducible apply Keeps.renew
    | (fail_if_no_progress dsimp -zeta only))

end Sys2Proof.Machine
end

