-- ==== Sys2Proof/Laws/KeepsMeasure.lean ====
section
/-! SUPPORT. What the operations of Measure.lean keep (Keeps.lean). -/

set_option linter.all false
set_option linter.unusedTactic false
set_option linter.unreachableTactic false
namespace Sys2Proof.Machine

/-- `takeCal` keeps what every operation keeps. -/
theorem State.takeCal_keeps {s₀ s : State} (h : Keeps s₀ s) (conv : Nat) : Keeps s₀ (s.takeCal conv) := by
  unfold State.takeCal
  repeat' (first
    | with_reducible assumption
    | ((fail_if_no_progress extract_lets +onlyGivenNames u); refine (show Keeps s₀ u → _ from fun hu => ?_) ?_; (on_goal 1 => clear_value u); (on_goal 2 => unfold u))
    | ((fail_if_no_progress extract_lets +onlyGivenNames u); clear_value u)
    | (intro s1 a1 h1)
    | split
    | with_reducible apply State.forCh_keeps
    | with_reducible apply Keeps.foldl
    | with_reducible apply State.wr_keeps
    | with_reducible apply Keeps.parts
    | with_reducible apply Keeps.sec
    | with_reducible apply Keeps.drop
    | with_reducible apply Keeps.renew
    | (fail_if_no_progress dsimp -zeta only))

/-- `dqSar` keeps what every operation keeps. -/
theorem State.dqSar_keeps {s₀ s : State} (h : Keeps s₀ s) (c : Ch) (n : Nat) : Keeps s₀ (s.dqSar c n).2 := by
  unfold State.dqSar
  repeat' (first
    | with_reducible assumption
    | ((fail_if_no_progress extract_lets +onlyGivenNames u); refine (show Keeps s₀ u → _ from fun hu => ?_) ?_; (on_goal 1 => clear_value u); (on_goal 2 => unfold u))
    | ((fail_if_no_progress extract_lets +onlyGivenNames u); clear_value u)
    | (intro s1 a1 h1)
    | (fail_if_no_progress dsimp -zeta only [State.takeNat, State.takeInt])
    | split
    | with_reducible apply State.takeInt_keeps
    | with_reducible apply State.forCh_keeps
    | with_reducible apply Keeps.foldl
    | with_reducible apply State.wr_keeps
    | with_reducible apply Keeps.parts
    | with_reducible apply Keeps.sec
    | with_reducible apply Keeps.drop
    | with_reducible apply Keeps.renew
    | (fail_if_no_progress dsimp -zeta only))

/-- `dqOf` keeps what every operation keeps. -/
theorem State.dqOf_keeps {s₀ s : State} (h : Keeps s₀ s) (c : Ch) (bits : Int) (n : Nat) : Keeps s₀ (s.dqOf c bits n).2 := by
  unfold State.dqOf
  repeat' (first
    | with_reducible assumption
    | ((fail_if_no_progress extract_lets +onlyGivenNames u); refine (show Keeps s₀ u → _ from fun hu => ?_) ?_; (on_goal 1 => clear_value u); (on_goal 2 => unfold u))
    | ((fail_if_no_progress extract_lets +onlyGivenNames u); clear_value u)
    | (intro s1 a1 h1)
    | split
    | with_reducible apply State.dqSar_keeps
    | with_reducible apply State.forCh_keeps
    | with_reducible apply Keeps.foldl
    | with_reducible apply State.wr_keeps
    | with_reducible apply Keeps.parts
    | with_reducible apply Keeps.sec
    | with_reducible apply Keeps.drop
    | with_reducible apply Keeps.renew
    | (fail_if_no_progress dsimp -zeta only))

/-- `increments` keeps what every operation keeps. -/
theorem State.increments_keeps {s₀ s : State} (h : Keeps s₀ s) (c : Ch) (d v : Int) : Keeps s₀ (s.increments c d v).1 := by
  unfold State.increments
  extract_lets +onlyGivenNames x
  generalize splitInc x.ledger.resQ d = p
  obtain ⟨dq, rq⟩ := p
  dsimp -zeta only
  generalize splitInc x.ledger.resE (tdiv (v * dq * 2 ^ 32) 1000000) = p
  obtain ⟨de, re⟩ := p
  exact State.updCh_keeps h ..

/-- `measure1` keeps what every operation keeps. -/
theorem State.measure1_keeps {s₀ s : State} (h : Keeps s₀ s) (c : Ch) (i : ChTick) : Keeps s₀ (s.measure1 c i).1 := by
  unfold State.measure1
  extract_lets +onlyGivenNames lead ex v ovl vOvl
  have hr := State.dqOf_keeps h c i.bits s.mClk
  generalize s.dqOf c i.bits s.mClk = r at hr
  obtain ⟨d, t⟩ := r
  dsimp -zeta only
  have hp := State.increments_keeps hr c d v
  generalize t.increments c d v = p at hp
  obtain ⟨w, de⟩ := p
  dsimp -zeta only
  exact Keeps.ite (State.wr_keeps (Keeps.parts (State.updCh_keeps hp ..) ..) ..)
    (Keeps.parts (State.updCh_keeps hp ..) ..)

/-- `countAs` keeps what every operation keeps. -/
theorem State.countAs_keeps {s₀ s : State} (h : Keeps s₀ s) (c : Ch) (des : List Int) (f : Ledger → Ledger) : Keeps s₀ (s.countAs c des f) := by
  unfold State.countAs
  repeat' (first
    | with_reducible assumption
    | ((fail_if_no_progress extract_lets +onlyGivenNames u); refine (show Keeps s₀ u → _ from fun hu => ?_) ?_; (on_goal 1 => clear_value u); (on_goal 2 => unfold u))
    | ((fail_if_no_progress extract_lets +onlyGivenNames u); clear_value u)
    | (intro s1 a1 h1)
    | split
    | with_reducible apply State.ledger_keeps
    | with_reducible apply State.forCh_keeps
    | with_reducible apply Keeps.foldl
    | with_reducible apply State.wr_keeps
    | with_reducible apply Keeps.parts
    | with_reducible apply Keeps.sec
    | with_reducible apply Keeps.drop
    | with_reducible apply Keeps.renew
    | (fail_if_no_progress dsimp -zeta only))

/-- `countTick` keeps what every operation keeps. -/
theorem State.countTick_keeps {s₀ s : State} (h : Keeps s₀ s) (c : Ch) (des : List Int) : Keeps s₀ (s.countTick c des) := by
  unfold State.countTick
  repeat' (first
    | with_reducible assumption
    | ((fail_if_no_progress extract_lets +onlyGivenNames u); refine (show Keeps s₀ u → _ from fun hu => ?_) ?_; (on_goal 1 => clear_value u); (on_goal 2 => unfold u))
    | ((fail_if_no_progress extract_lets +onlyGivenNames u); clear_value u)
    | (intro s1 a1 h1)
    | split
    | with_reducible apply State.incSat_keeps
    | with_reducible apply State.ledger_keeps
    | with_reducible apply State.countAs_keeps
    | with_reducible apply State.forCh_keeps
    | with_reducible apply Keeps.foldl
    | with_reducible apply State.wr_keeps
    | with_reducible apply Keeps.parts
    | with_reducible apply Keeps.sec
    | with_reducible apply Keeps.drop
    | with_reducible apply Keeps.renew
    | (fail_if_no_progress dsimp -zeta only))

/-- `measureAll` keeps what every operation keeps. -/
theorem State.measureAll_keeps {s₀ s : State} (h : Keeps s₀ s) (f : State → Ch → State × Int)
    (k : ∀ t, Keeps s₀ t → ∀ c, Keeps s₀ (f t c).1) : Keeps s₀ (s.measureAll f).1 := by
  unfold State.measureAll
  have hf (l : List Ch) (p : State × List Int) (hp : Keeps s₀ p.1) :
      Keeps s₀ (l.foldl (fun (a : State × List Int) c => let r := f a.1 c; (r.1, a.2 ++ [r.2])) p).1 := by
    induction l generalizing p with
    | nil => exact hp
    | cons c l ih => exact ih _ (k _ hp c)
  exact hf allCh (s, []) h

/-- `measureTick` keeps what every operation keeps. -/
theorem State.measureTick_keeps {s₀ s : State} (h : Keeps s₀ s) (ch : List ChTick) : Keeps s₀ (s.measureTick ch) := by
  unfold State.measureTick
  refine Keeps.ite h ?_
  extract_lets +onlyGivenNames z
  have hm := State.measureAll_keeps h (fun s c => s.measure1 c (ch.getD c.val z)) (fun t k c => State.measure1_keeps k ..)
  generalize s.measureAll (fun s c => s.measure1 c (ch.getD c.val z)) = r at hm
  obtain ⟨t, des⟩ := r
  exact State.forCh_keeps _ (fun _ _ h => State.countTick_keeps h ..) hm

/-- `freeTick` keeps what every operation keeps. -/
theorem State.freeTick_keeps {s₀ s : State} (h : Keeps s₀ s) : Keeps s₀ (s.freeTick).2 := by
  unfold State.freeTick
  have hf (l : List Ch) (p : List ChTick × State) (hp : Keeps s₀ p.2) :
      Keeps s₀ (l.foldl (fun (a : List ChTick × State) _ =>
        let (b, s) := a.2.takeInt
        let (w, s) := s.takeInt
        let (v, s) := s.takeInt
        let m : Int := s.mClk
        (a.1 ++ [⟨clampI b (-m) m, clampI w (-m) m, v⟩], s)) p).2 := by
    induction l generalizing p with
    | nil => exact hp
    | cons c l ih => exact ih _ (State.takeInt_keeps (State.takeInt_keeps (State.takeInt_keeps hp)))
  exact hf allCh ([], s) h

/-- `partial1` keeps what every operation keeps. -/
theorem State.partial1_keeps {s₀ s : State} (h : Keeps s₀ s) (c : Ch) (n : Nat) : Keeps s₀ (s.partial1 c n).1 := by
  unfold State.partial1
  have hb := State.takeInt_keeps h
  generalize s.takeInt = r at hb
  obtain ⟨b0, t⟩ := r
  dsimp -zeta only
  extract_lets +onlyGivenNames b
  have hd := State.dqOf_keeps hb c b n
  generalize t.dqOf c b n = r at hd
  obtain ⟨d, u⟩ := r
  dsimp -zeta only
  exact State.increments_keeps (State.updMet_keeps hd ..) ..

/-- `partialTick` keeps what every operation keeps. -/
theorem State.partialTick_keeps {s₀ s : State} (h : Keeps s₀ s) (cut : Bool) : Keeps s₀ (s.partialTick cut) := by
  unfold State.partialTick
  refine Keeps.ite h ?_
  have hl := State.takeNat_keeps h
  generalize s.takeNat = r at hl
  obtain ⟨x, t⟩ := r
  dsimp -zeta only
  extract_lets +onlyGivenNames stop late
  have hf := State.freeTick_keeps hl
  generalize t.freeTick = r at hf
  obtain ⟨full, u⟩ := r
  dsimp -zeta only
  extract_lets +onlyGivenNames v n
  have hv : Keeps s₀ v := Keeps.ite (State.measureTick_keeps hf _) hf
  have hm := State.measureAll_keeps hv (fun s c => s.partial1 c n) (fun t k c => State.partial1_keeps k ..)
  generalize v.measureAll (fun s c => s.partial1 c n) = r at hm
  obtain ⟨y, des⟩ := r
  exact State.forCh_keeps _ (fun _ _ h => State.countAs_keeps h ..) hm

end Sys2Proof.Machine
end

