-- ==== Sys2Proof/Laws/KeepsProtect.lean ====
section
/-! SUPPORT. What the operations of Protect.lean keep (Keeps.lean). -/

set_option linter.all false
set_option linter.unusedTactic false
set_option linter.unreachableTactic false
namespace Sys2Proof.Machine

/-- `openLoop` keeps what every operation keeps. -/
theorem State.openLoop_keeps {s₀ s : State} (h : Keeps s₀ s) (c : Ch) : Keeps s₀ (s.openLoop c) := by
  unfold State.openLoop
  repeat' (first
    | with_reducible assumption
    | ((fail_if_no_progress extract_lets +onlyGivenNames u); refine (show Keeps s₀ u → _ from fun hu => ?_) ?_; (on_goal 1 => clear_value u); (on_goal 2 => unfold u))
    | ((fail_if_no_progress extract_lets +onlyGivenNames u); clear_value u)
    | (intro s1 a1 h1)
    | split
    | with_reducible apply State.updLoop_keeps
    | with_reducible apply State.updSeq_keeps
    | with_reducible apply State.forCh_keeps
    | with_reducible apply Keeps.foldl
    | with_reducible apply State.wr_keeps
    | with_reducible apply Keeps.parts
    | with_reducible apply Keeps.sec
    | with_reducible apply Keeps.drop
    | with_reducible apply Keeps.renew
    | (fail_if_no_progress dsimp -zeta only))

/-- `gatesOff1` keeps what every operation keeps. -/
theorem State.gatesOff1_keeps {s₀ s : State} (h : Keeps s₀ s) (c : Ch) : Keeps s₀ (s.gatesOff1 c) := by
  unfold State.gatesOff1
  repeat' (first
    | with_reducible assumption
    | ((fail_if_no_progress extract_lets +onlyGivenNames u); refine (show Keeps s₀ u → _ from fun hu => ?_) ?_; (on_goal 1 => clear_value u); (on_goal 2 => unfold u))
    | ((fail_if_no_progress extract_lets +onlyGivenNames u); clear_value u)
    | (intro s1 a1 h1)
    | split
    | with_reducible apply State.updStage_keeps
    | with_reducible apply State.updLoop_keeps
    | with_reducible apply State.openLoop_keeps
    | with_reducible apply State.forCh_keeps
    | with_reducible apply Keeps.foldl
    | with_reducible apply State.wr_keeps
    | with_reducible apply Keeps.parts
    | with_reducible apply Keeps.sec
    | with_reducible apply Keeps.drop
    | with_reducible apply Keeps.renew
    | (fail_if_no_progress dsimp -zeta only))

/-- `gatesOff` keeps what every operation keeps. -/
theorem State.gatesOff_keeps {s₀ s : State} (h : Keeps s₀ s) (c : Ch) : Keeps s₀ (s.gatesOff c) := by
  unfold State.gatesOff
  repeat' (first
    | with_reducible assumption
    | ((fail_if_no_progress extract_lets +onlyGivenNames u); refine (show Keeps s₀ u → _ from fun hu => ?_) ?_; (on_goal 1 => clear_value u); (on_goal 2 => unfold u))
    | ((fail_if_no_progress extract_lets +onlyGivenNames u); clear_value u)
    | (intro s1 a1 h1)
    | split
    | with_reducible apply State.gatesOff1_keeps
    | with_reducible apply State.forCh_keeps
    | with_reducible apply Keeps.foldl
    | with_reducible apply State.wr_keeps
    | with_reducible apply Keeps.parts
    | with_reducible apply Keeps.sec
    | with_reducible apply Keeps.drop
    | with_reducible apply Keeps.renew
    | (fail_if_no_progress dsimp -zeta only))

/-- `protOpen` keeps what every operation keeps. -/
theorem State.protOpen_keeps {s₀ s : State} (h : Keeps s₀ s) (c : Ch) : Keeps s₀ (s.protOpen c) := by
  unfold State.protOpen
  repeat' (first
    | with_reducible assumption
    | ((fail_if_no_progress extract_lets +onlyGivenNames u); refine (show Keeps s₀ u → _ from fun hu => ?_) ?_; (on_goal 1 => clear_value u); (on_goal 2 => unfold u))
    | ((fail_if_no_progress extract_lets +onlyGivenNames u); clear_value u)
    | (intro s1 a1 h1)
    | split
    | with_reducible apply State.updStage_keeps
    | with_reducible apply State.gatesOff1_keeps
    | with_reducible apply State.forCh_keeps
    | with_reducible apply Keeps.foldl
    | with_reducible apply State.wr_keeps
    | with_reducible apply Keeps.parts
    | with_reducible apply Keeps.sec
    | with_reducible apply Keeps.drop
    | with_reducible apply Keeps.renew
    | (fail_if_no_progress dsimp -zeta only))

/-- `stagedOpen` keeps what every operation keeps. -/
theorem State.stagedOpen_keeps {s₀ s : State} (h : Keeps s₀ s) (c : Ch) : Keeps s₀ (s.stagedOpen c) := by
  unfold State.stagedOpen
  repeat' (first
    | with_reducible assumption
    | ((fail_if_no_progress extract_lets +onlyGivenNames u); refine (show Keeps s₀ u → _ from fun hu => ?_) ?_; (on_goal 1 => clear_value u); (on_goal 2 => unfold u))
    | ((fail_if_no_progress extract_lets +onlyGivenNames u); clear_value u)
    | (intro s1 a1 h1)
    | split
    | with_reducible apply State.updStage_keeps
    | with_reducible apply State.gatesOff1_keeps
    | with_reducible apply State.forCh_keeps
    | with_reducible apply Keeps.foldl
    | with_reducible apply State.wr_keeps
    | with_reducible apply Keeps.parts
    | with_reducible apply Keeps.sec
    | with_reducible apply Keeps.drop
    | with_reducible apply Keeps.renew
    | (fail_if_no_progress dsimp -zeta only))

/-- `enterHold` keeps what every operation keeps. -/
theorem State.enterHold_keeps {s₀ s : State} (h : Keeps s₀ s) (c : Ch) (why : Nat) : Keeps s₀ (s.enterHold c why) := by
  unfold State.enterHold
  repeat' (first
    | with_reducible assumption
    | ((fail_if_no_progress extract_lets +onlyGivenNames u); refine (show Keeps s₀ u → _ from fun hu => ?_) ?_; (on_goal 1 => clear_value u); (on_goal 2 => unfold u))
    | ((fail_if_no_progress extract_lets +onlyGivenNames u); clear_value u)
    | (intro s1 a1 h1)
    | split
    | with_reducible apply State.updSeq_keeps
    | with_reducible apply State.stagedOpen_keeps
    | with_reducible apply State.forCh_keeps
    | with_reducible apply Keeps.foldl
    | with_reducible apply State.wr_keeps
    | with_reducible apply Keeps.parts
    | with_reducible apply Keeps.sec
    | with_reducible apply Keeps.drop
    | with_reducible apply Keeps.renew
    | (fail_if_no_progress dsimp -zeta only))

/-- `postStep` keeps what every operation keeps. -/
theorem State.postStep_keeps {s₀ s : State} (h : Keeps s₀ s) (c : Ch) (r : Run) (reason action next detail : Nat) : Keeps s₀ (s.postStep c r reason action next detail) := by
  unfold State.postStep
  repeat' (first
    | with_reducible assumption
    | ((fail_if_no_progress extract_lets +onlyGivenNames u); refine (show Keeps s₀ u → _ from fun hu => ?_) ?_; (on_goal 1 => clear_value u); (on_goal 2 => unfold u))
    | ((fail_if_no_progress extract_lets +onlyGivenNames u); clear_value u)
    | (intro s1 a1 h1)
    | split
    | with_reducible apply State.complete_keeps
    | with_reducible apply State.retireTo_keeps
    | with_reducible apply State.forCh_keeps
    | with_reducible apply Keeps.foldl
    | with_reducible apply State.wr_keeps
    | with_reducible apply Keeps.parts
    | with_reducible apply Keeps.sec
    | with_reducible apply Keeps.drop
    | with_reducible apply Keeps.renew
    | (fail_if_no_progress dsimp -zeta only))

/-- `failStep` keeps what every operation keeps. -/
theorem State.failStep_keeps {s₀ s : State} (h : Keeps s₀ s) (c : Ch) (reason detail : Nat) : Keeps s₀ (s.failStep c reason detail) := by
  unfold State.failStep
  repeat' (first
    | with_reducible assumption
    | ((fail_if_no_progress extract_lets +onlyGivenNames u); refine (show Keeps s₀ u → _ from fun hu => ?_) ?_; (on_goal 1 => clear_value u); (on_goal 2 => unfold u))
    | ((fail_if_no_progress extract_lets +onlyGivenNames u); clear_value u)
    | (intro s1 a1 h1)
    | split
    | with_reducible apply State.updSeq_keeps
    | with_reducible apply State.ledger_keeps
    | with_reducible apply State.enterHold_keeps
    | with_reducible apply State.forCh_keeps
    | with_reducible apply Keeps.foldl
    | with_reducible apply State.wr_keeps
    | with_reducible apply Keeps.parts
    | with_reducible apply Keeps.sec
    | with_reducible apply Keeps.drop
    | with_reducible apply Keeps.renew
    | (fail_if_no_progress dsimp -zeta only))

/-- `contactLost` keeps what every operation keeps. -/
theorem State.contactLost_keeps {s₀ s : State} (h : Keeps s₀ s) (c : Ch) : Keeps s₀ (s.contactLost c) := by
  unfold State.contactLost
  repeat' (first
    | with_reducible assumption
    | ((fail_if_no_progress extract_lets +onlyGivenNames u); refine (show Keeps s₀ u → _ from fun hu => ?_) ?_; (on_goal 1 => clear_value u); (on_goal 2 => unfold u))
    | ((fail_if_no_progress extract_lets +onlyGivenNames u); clear_value u)
    | (intro s1 a1 h1)
    | split
    | with_reducible apply State.updMet_keeps
    | with_reducible apply State.updSeq_keeps
    | with_reducible apply State.ledger_keeps
    | with_reducible apply State.enterHold_keeps
    | with_reducible apply State.postStep_keeps
    | with_reducible apply State.forCh_keeps
    | with_reducible apply Keeps.foldl
    | with_reducible apply State.wr_keeps
    | with_reducible apply Keeps.parts
    | with_reducible apply Keeps.sec
    | with_reducible apply Keeps.drop
    | with_reducible apply Keeps.renew
    | (fail_if_no_progress dsimp -zeta only))

/-- `lateFault` keeps what every operation keeps. -/
theorem State.lateFault_keeps {s₀ s : State} (h : Keeps s₀ s) (c : Ch) : Keeps s₀ (s.lateFault c) := by
  unfold State.lateFault
  repeat' (first
    | with_reducible assumption
    | ((fail_if_no_progress extract_lets +onlyGivenNames u); refine (show Keeps s₀ u → _ from fun hu => ?_) ?_; (on_goal 1 => clear_value u); (on_goal 2 => unfold u))
    | ((fail_if_no_progress extract_lets +onlyGivenNames u); clear_value u)
    | (intro s1 a1 h1)
    | split
    | with_reducible apply State.updSeq_keeps
    | with_reducible apply State.failStep_keeps
    | with_reducible apply State.contactLost_keeps
    | with_reducible apply State.forCh_keeps
    | with_reducible apply Keeps.foldl
    | with_reducible apply State.wr_keeps
    | with_reducible apply Keeps.parts
    | with_reducible apply Keeps.sec
    | with_reducible apply Keeps.drop
    | with_reducible apply Keeps.renew
    | (fail_if_no_progress dsimp -zeta only))

/-- `dissolve` keeps what every operation keeps. -/
theorem State.dissolve_keeps {s₀ s : State} (h : Keeps s₀ s) (c : Ch) : Keeps s₀ (s.dissolve c) := by
  unfold State.dissolve
  repeat' (first
    | with_reducible assumption
    | ((fail_if_no_progress extract_lets +onlyGivenNames u); refine (show Keeps s₀ u → _ from fun hu => ?_) ?_; (on_goal 1 => clear_value u); (on_goal 2 => unfold u))
    | ((fail_if_no_progress extract_lets +onlyGivenNames u); clear_value u)
    | (intro s1 a1 h1)
    | split
    | with_reducible apply State.updSeq_keeps
    | with_reducible apply State.forCh_keeps
    | with_reducible apply Keeps.foldl
    | with_reducible apply State.wr_keeps
    | with_reducible apply Keeps.parts
    | with_reducible apply Keeps.sec
    | with_reducible apply Keeps.drop
    | with_reducible apply Keeps.renew
    | (fail_if_no_progress dsimp -zeta only))

/-- `closeFailed` keeps what every operation keeps. -/
theorem State.closeFailed_keeps {s₀ s : State} (h : Keeps s₀ s) (c : Ch) (t : Nat) : Keeps s₀ (s.closeFailed c t) := by
  unfold State.closeFailed
  repeat' (first
    | with_reducible assumption
    | ((fail_if_no_progress extract_lets +onlyGivenNames u); refine (show Keeps s₀ u → _ from fun hu => ?_) ?_; (on_goal 1 => clear_value u); (on_goal 2 => unfold u))
    | ((fail_if_no_progress extract_lets +onlyGivenNames u); clear_value u)
    | (intro s1 a1 h1)
    | split
    | with_reducible apply State.updSeq_keeps
    | with_reducible apply State.ledger_keeps
    | with_reducible apply State.postStep_keeps
    | with_reducible apply State.dissolve_keeps
    | with_reducible apply State.forCh_keeps
    | with_reducible apply Keeps.foldl
    | with_reducible apply State.wr_keeps
    | with_reducible apply Keeps.parts
    | with_reducible apply Keeps.sec
    | with_reducible apply Keeps.drop
    | with_reducible apply Keeps.renew
    | (fail_if_no_progress dsimp -zeta only))

/-- `motGatesOff` keeps what every operation keeps. -/
theorem State.motGatesOff_keeps {s₀ s : State} (h : Keeps s₀ s) : Keeps s₀ (s.motGatesOff) := by
  unfold State.motGatesOff
  repeat' (first
    | with_reducible assumption
    | ((fail_if_no_progress extract_lets +onlyGivenNames u); refine (show Keeps s₀ u → _ from fun hu => ?_) ?_; (on_goal 1 => clear_value u); (on_goal 2 => unfold u))
    | ((fail_if_no_progress extract_lets +onlyGivenNames u); clear_value u)
    | (intro s1 a1 h1)
    | split
    | with_reducible apply State.wr_keeps
    | with_reducible apply State.wr_keeps
    | with_reducible apply State.forCh_keeps
    | with_reducible apply Keeps.foldl
    | with_reducible apply State.wr_keeps
    | with_reducible apply Keeps.parts
    | with_reducible apply Keeps.sec
    | with_reducible apply Keeps.drop
    | with_reducible apply Keeps.renew
    | (fail_if_no_progress dsimp -zeta only))

/-- `motNoTorque` keeps what every operation keeps. -/
theorem State.motNoTorque_keeps {s₀ s : State} (h : Keeps s₀ s) : Keeps s₀ (s.motNoTorque) := by
  unfold State.motNoTorque
  repeat' (first
    | with_reducible assumption
    | ((fail_if_no_progress extract_lets +onlyGivenNames u); refine (show Keeps s₀ u → _ from fun hu => ?_) ?_; (on_goal 1 => clear_value u); (on_goal 2 => unfold u))
    | ((fail_if_no_progress extract_lets +onlyGivenNames u); clear_value u)
    | (intro s1 a1 h1)
    | split
    | with_reducible apply State.wr_keeps
    | with_reducible apply State.wr_keeps
    | with_reducible apply State.motGatesOff_keeps
    | with_reducible apply State.forCh_keeps
    | with_reducible apply Keeps.foldl
    | with_reducible apply State.wr_keeps
    | with_reducible apply Keeps.parts
    | with_reducible apply Keeps.sec
    | with_reducible apply Keeps.drop
    | with_reducible apply Keeps.renew
    | (fail_if_no_progress dsimp -zeta only))

/-- `motComplete` keeps what every operation keeps. -/
theorem State.motComplete_keeps {s₀ s : State} (h : Keeps s₀ s) (reason detail : Nat) : Keeps s₀ (s.motComplete reason detail) := by
  unfold State.motComplete
  repeat' (first
    | with_reducible assumption
    | ((fail_if_no_progress extract_lets +onlyGivenNames u); refine (show Keeps s₀ u → _ from fun hu => ?_) ?_; (on_goal 1 => clear_value u); (on_goal 2 => unfold u))
    | ((fail_if_no_progress extract_lets +onlyGivenNames u); clear_value u)
    | (intro s1 a1 h1)
    | split
    | with_reducible apply State.updQ_keeps
    | with_reducible apply State.complete_keeps
    | with_reducible apply State.forCh_keeps
    | with_reducible apply Keeps.foldl
    | with_reducible apply State.wr_keeps
    | with_reducible apply Keeps.parts
    | with_reducible apply Keeps.sec
    | with_reducible apply Keeps.drop
    | with_reducible apply Keeps.renew
    | (fail_if_no_progress dsimp -zeta only))

/-- `motFail` keeps what every operation keeps. -/
theorem State.motFail_keeps {s₀ s : State} (h : Keeps s₀ s) (reason detail : Nat) : Keeps s₀ (s.motFail reason detail) := by
  unfold State.motFail
  repeat' (first
    | with_reducible assumption
    | ((fail_if_no_progress extract_lets +onlyGivenNames u); refine (show Keeps s₀ u → _ from fun hu => ?_) ?_; (on_goal 1 => clear_value u); (on_goal 2 => unfold u))
    | ((fail_if_no_progress extract_lets +onlyGivenNames u); clear_value u)
    | (intro s1 a1 h1)
    | split
    | with_reducible apply State.wr_keeps
    | with_reducible apply State.wr_keeps
    | with_reducible apply State.motNoTorque_keeps
    | with_reducible apply State.motComplete_keeps
    | with_reducible apply State.forCh_keeps
    | with_reducible apply Keeps.foldl
    | with_reducible apply State.wr_keeps
    | with_reducible apply Keeps.parts
    | with_reducible apply Keeps.sec
    | with_reducible apply Keeps.drop
    | with_reducible apply Keeps.renew
    | (fail_if_no_progress dsimp -zeta only))

/-- `motTorqueOff` keeps what every operation keeps. -/
theorem State.motTorqueOff_keeps {s₀ s : State} (h : Keeps s₀ s) : Keeps s₀ (s.motTorqueOff) := by
  unfold State.motTorqueOff
  repeat' (first
    | with_reducible assumption
    | ((fail_if_no_progress extract_lets +onlyGivenNames u); refine (show Keeps s₀ u → _ from fun hu => ?_) ?_; (on_goal 1 => clear_value u); (on_goal 2 => unfold u))
    | ((fail_if_no_progress extract_lets +onlyGivenNames u); clear_value u)
    | (intro s1 a1 h1)
    | split
    | with_reducible apply State.wr_keeps
    | with_reducible apply State.wr_keeps
    | with_reducible apply State.motGatesOff_keeps
    | with_reducible apply State.motComplete_keeps
    | with_reducible apply State.forCh_keeps
    | with_reducible apply Keeps.foldl
    | with_reducible apply State.wr_keeps
    | with_reducible apply Keeps.parts
    | with_reducible apply Keeps.sec
    | with_reducible apply Keeps.drop
    | with_reducible apply Keeps.renew
    | (fail_if_no_progress dsimp -zeta only))

/-- `motOffsetsOff` keeps what every operation keeps. -/
theorem State.motOffsetsOff_keeps {s₀ s : State} (h : Keeps s₀ s) : Keeps s₀ (s.motOffsetsOff) := by
  unfold State.motOffsetsOff
  repeat' (first
    | with_reducible assumption
    | ((fail_if_no_progress extract_lets +onlyGivenNames u); refine (show Keeps s₀ u → _ from fun hu => ?_) ?_; (on_goal 1 => clear_value u); (on_goal 2 => unfold u))
    | ((fail_if_no_progress extract_lets +onlyGivenNames u); clear_value u)
    | (intro s1 a1 h1)
    | split
    | with_reducible apply State.forCh_keeps
    | with_reducible apply Keeps.foldl
    | with_reducible apply State.wr_keeps
    | with_reducible apply Keeps.parts
    | with_reducible apply Keeps.sec
    | with_reducible apply Keeps.drop
    | with_reducible apply Keeps.renew
    | (fail_if_no_progress dsimp -zeta only))

/-- `dumpTrigger` keeps what every operation keeps. -/
theorem State.dumpTrigger_keeps {s₀ s : State} (h : Keeps s₀ s) (trigger first : Nat) : Keeps s₀ (s.dumpTrigger trigger first) := by
  unfold State.dumpTrigger
  repeat' (first
    | with_reducible assumption
    | ((fail_if_no_progress extract_lets +onlyGivenNames u); refine (show Keeps s₀ u → _ from fun hu => ?_) ?_; (on_goal 1 => clear_value u); (on_goal 2 => unfold u))
    | ((fail_if_no_progress extract_lets +onlyGivenNames u); clear_value u)
    | (intro s1 a1 h1)
    | split
    | with_reducible apply State.incSat_keeps
    | with_reducible apply State.traceAll_keeps
    | with_reducible apply State.traceStop_keeps
    | with_reducible apply State.forCh_keeps
    | with_reducible apply Keeps.foldl
    | with_reducible apply State.wr_keeps
    | with_reducible apply Keeps.parts
    | with_reducible apply Keeps.sec
    | with_reducible apply Keeps.drop
    | with_reducible apply Keeps.renew
    | (fail_if_no_progress dsimp -zeta only))

/-- `resumeCores` keeps what every operation keeps. -/
theorem State.resumeCores_keeps {s₀ s : State} (h : Keeps s₀ s) : Keeps s₀ (s.resumeCores) := by
  unfold State.resumeCores
  repeat' (first
    | with_reducible assumption
    | ((fail_if_no_progress extract_lets +onlyGivenNames u); refine (show Keeps s₀ u → _ from fun hu => ?_) ?_; (on_goal 1 => clear_value u); (on_goal 2 => unfold u))
    | ((fail_if_no_progress extract_lets +onlyGivenNames u); clear_value u)
    | (intro s1 a1 h1)
    | split
    | with_reducible apply State.wr_keeps
    | with_reducible apply State.wr_keeps
    | with_reducible apply State.forCh_keeps
    | with_reducible apply Keeps.foldl
    | with_reducible apply State.wr_keeps
    | with_reducible apply Keeps.parts
    | with_reducible apply Keeps.sec
    | with_reducible apply Keeps.drop
    | with_reducible apply Keeps.renew
    | (fail_if_no_progress dsimp -zeta only))

/-- `latchCause` keeps what every operation keeps. -/
theorem State.latchCause_keeps {s₀ s : State} (h : Keeps s₀ s) (c : SafeCause) : Keeps s₀ (s.latchCause c) := by
  unfold State.latchCause
  repeat' (first
    | with_reducible assumption
    | ((fail_if_no_progress extract_lets +onlyGivenNames u); refine (show Keeps s₀ u → _ from fun hu => ?_) ?_; (on_goal 1 => clear_value u); (on_goal 2 => unfold u))
    | ((fail_if_no_progress extract_lets +onlyGivenNames u); clear_value u)
    | (intro s1 a1 h1)
    | split
    | with_reducible apply State.wr_keeps
    | with_reducible apply State.wr_keeps
    | with_reducible apply State.wb_keeps
    | with_reducible apply State.setFBit_keeps
    | with_reducible apply State.forCh_keeps
    | with_reducible apply Keeps.foldl
    | with_reducible apply State.wr_keeps
    | with_reducible apply Keeps.parts
    | with_reducible apply Keeps.sec
    | with_reducible apply Keeps.drop
    | with_reducible apply Keeps.renew
    | (fail_if_no_progress dsimp -zeta only))

/-- `kdrLow` keeps what every operation keeps. -/
theorem State.kdrLow_keeps {s₀ s : State} (h : Keeps s₀ s) : Keeps s₀ (s.kdrLow) := by
  unfold State.kdrLow
  repeat' (first
    | with_reducible assumption
    | ((fail_if_no_progress extract_lets +onlyGivenNames u); refine (show Keeps s₀ u → _ from fun hu => ?_) ?_; (on_goal 1 => clear_value u); (on_goal 2 => unfold u))
    | ((fail_if_no_progress extract_lets +onlyGivenNames u); clear_value u)
    | (intro s1 a1 h1)
    | split
    | with_reducible apply State.wr_keeps
    | with_reducible apply State.wr_keeps
    | with_reducible apply State.forCh_keeps
    | with_reducible apply Keeps.foldl
    | with_reducible apply State.wr_keeps
    | with_reducible apply Keeps.parts
    | with_reducible apply Keeps.sec
    | with_reducible apply Keeps.drop
    | with_reducible apply Keeps.renew
    | (fail_if_no_progress dsimp -zeta only))

/-- `withdraw` keeps what every operation keeps. -/
theorem State.withdraw_keeps {s₀ s : State} (h : Keeps s₀ s) : Keeps s₀ (s.withdraw) := by
  unfold State.withdraw
  repeat' (first
    | with_reducible assumption
    | ((fail_if_no_progress extract_lets +onlyGivenNames u); refine (show Keeps s₀ u → _ from fun hu => ?_) ?_; (on_goal 1 => clear_value u); (on_goal 2 => unfold u))
    | ((fail_if_no_progress extract_lets +onlyGivenNames u); clear_value u)
    | (intro s1 a1 h1)
    | split
    | with_reducible apply State.wr_keeps
    | with_reducible apply State.wr_keeps
    | with_reducible apply State.forCh_keeps
    | with_reducible apply Keeps.foldl
    | with_reducible apply State.wr_keeps
    | with_reducible apply Keeps.parts
    | with_reducible apply Keeps.sec
    | with_reducible apply Keeps.drop
    | with_reducible apply Keeps.renew
    | (fail_if_no_progress dsimp -zeta only))

/-- `setMode` keeps what every operation keeps. -/
theorem State.setMode_keeps {s₀ s : State} (h : Keeps s₀ s) (m : Mode) : Keeps s₀ (s.setMode m) := by
  unfold State.setMode
  repeat' (first
    | with_reducible assumption
    | ((fail_if_no_progress extract_lets +onlyGivenNames u); refine (show Keeps s₀ u → _ from fun hu => ?_) ?_; (on_goal 1 => clear_value u); (on_goal 2 => unfold u))
    | ((fail_if_no_progress extract_lets +onlyGivenNames u); clear_value u)
    | (intro s1 a1 h1)
    | split
    | with_reducible apply State.event_keeps
    | with_reducible apply State.errPull_keeps
    | with_reducible apply State.withdraw_keeps
    | with_reducible apply State.forCh_keeps
    | with_reducible apply Keeps.foldl
    | with_reducible apply State.wr_keeps
    | with_reducible apply Keeps.parts
    | with_reducible apply Keeps.sec
    | with_reducible apply Keeps.drop
    | with_reducible apply Keeps.renew
    | (fail_if_no_progress dsimp -zeta only))

/-- `abandon` keeps what every operation keeps. -/
theorem State.abandon_keeps {s₀ s : State} (h : Keeps s₀ s) (status : Nat) : Keeps s₀ (s.abandon status) := by
  unfold State.abandon
  repeat' (first
    | with_reducible assumption
    | ((fail_if_no_progress extract_lets +onlyGivenNames u); refine (show Keeps s₀ u → _ from fun hu => ?_) ?_; (on_goal 1 => clear_value u); (on_goal 2 => unfold u))
    | ((fail_if_no_progress extract_lets +onlyGivenNames u); clear_value u)
    | (intro s1 a1 h1)
    | split
    | with_reducible apply State.admDone_keeps
    | with_reducible apply State.forCh_keeps
    | with_reducible apply Keeps.foldl
    | with_reducible apply State.wr_keeps
    | with_reducible apply Keeps.parts
    | with_reducible apply Keeps.sec
    | with_reducible apply Keeps.drop
    | with_reducible apply Keeps.renew
    | (fail_if_no_progress dsimp -zeta only))

/-- `safeChannels` keeps what every operation keeps. -/
theorem State.safeChannels_keeps {s₀ s : State} (h : Keeps s₀ s) : Keeps s₀ (s.safeChannels) := by
  unfold State.safeChannels
  repeat' (first
    | with_reducible assumption
    | ((fail_if_no_progress extract_lets +onlyGivenNames u); refine (show Keeps s₀ u → _ from fun hu => ?_) ?_; (on_goal 1 => clear_value u); (on_goal 2 => unfold u))
    | ((fail_if_no_progress extract_lets +onlyGivenNames u); clear_value u)
    | (intro s1 a1 h1)
    | split
    | with_reducible apply State.wr_keeps
    | with_reducible apply State.wr_keeps
    | with_reducible apply State.protOpen_keeps
    | with_reducible apply State.failStep_keeps
    | with_reducible apply State.forCh_keeps
    | with_reducible apply Keeps.foldl
    | with_reducible apply State.wr_keeps
    | with_reducible apply Keeps.parts
    | with_reducible apply Keeps.sec
    | with_reducible apply Keeps.drop
    | with_reducible apply Keeps.renew
    | (fail_if_no_progress dsimp -zeta only))

/-- `safeReq` keeps what every operation keeps. -/
theorem State.safeReq_keeps {s₀ s : State} (h : Keeps s₀ s) (c : SafeCause) (atOnce : Bool) : Keeps s₀ (s.safeReq c atOnce) := by
  unfold State.safeReq
  repeat' (first
    | with_reducible assumption
    | ((fail_if_no_progress extract_lets +onlyGivenNames u); refine (show Keeps s₀ u → _ from fun hu => ?_) ?_; (on_goal 1 => clear_value u); (on_goal 2 => unfold u))
    | ((fail_if_no_progress extract_lets +onlyGivenNames u); clear_value u)
    | (intro s1 a1 h1)
    | split
    | with_reducible apply State.traceAll_keeps
    | with_reducible apply State.errPull_keeps
    | with_reducible apply State.motTorqueOff_keeps
    | with_reducible apply State.dumpTrigger_keeps
    | with_reducible apply State.latchCause_keeps
    | with_reducible apply State.kdrLow_keeps
    | with_reducible apply State.abandon_keeps
    | with_reducible apply State.safeChannels_keeps
    | with_reducible apply State.forCh_keeps
    | with_reducible apply Keeps.foldl
    | with_reducible apply State.wr_keeps
    | with_reducible apply Keeps.parts
    | with_reducible apply Keeps.sec
    | with_reducible apply Keeps.drop
    | with_reducible apply Keeps.renew
    | (fail_if_no_progress dsimp -zeta only))

/-- `fullReset` keeps what every operation keeps. -/
theorem State.fullReset_keeps {s₀ s : State} (h : Keeps s₀ s) (k : RstKind) (cause wake : Nat) (cut : Bool) : Keeps s₀ (s.fullReset k cause wake cut) := by
  unfold State.fullReset
  extract_lets +onlyGivenNames old
  split
  · exact h
  extract_lets +onlyGivenNames a
  have ha : Keeps s₀ a := State.commitIf_keeps (Keeps.foldl _ (fun _ _ h => State.traceStop_keeps h _) h) _
  clear_value a
  extract_lets +onlyGivenNames running b
  have hb : Keeps s₀ b := by
    unfold b
    split
    · exact State.partialTick_keeps ha _
    · exact ha
  clear_value b
  extract_lets +onlyGivenNames boots src
  repeat' (first
    | with_reducible assumption
    | ((fail_if_no_progress extract_lets +onlyGivenNames u); refine (show Keeps s₀ u → _ from fun hu => ?_) ?_; (on_goal 1 => clear_value u); (on_goal 2 => unfold u))
    | (fail_if_no_progress extract_lets +onlyGivenNames u)
    | (refine Keeps.foldl _ (fun _ _ h => State.takeCal_keeps h _) ?_)
    | with_reducible apply State.wr_keeps
    | with_reducible apply State.wb_keeps
    | with_reducible apply State.updSrc_keeps
    | (fail_if_no_progress with_reducible apply Keeps.renew)
    | split)

/-- `blockAbandon` keeps what every operation keeps. -/
theorem State.blockAbandon_keeps {s₀ s : State} (h : Keeps s₀ s) : Keeps s₀ (s.blockAbandon) := by
  unfold State.blockAbandon
  repeat' (first
    | with_reducible assumption
    | ((fail_if_no_progress extract_lets +onlyGivenNames u); refine (show Keeps s₀ u → _ from fun hu => ?_) ?_; (on_goal 1 => clear_value u); (on_goal 2 => unfold u))
    | ((fail_if_no_progress extract_lets +onlyGivenNames u); clear_value u)
    | (intro s1 a1 h1)
    | split
    | with_reducible apply State.abandon_keeps
    | with_reducible apply State.forCh_keeps
    | with_reducible apply Keeps.foldl
    | with_reducible apply State.wr_keeps
    | with_reducible apply Keeps.parts
    | with_reducible apply Keeps.sec
    | with_reducible apply Keeps.drop
    | with_reducible apply Keeps.renew
    | (fail_if_no_progress dsimp -zeta only))

/-- `chipReset` keeps what every operation keeps. -/
theorem State.chipReset_keeps {s₀ s : State} (h : Keeps s₀ s) (cause : Nat) : Keeps s₀ (s.chipReset cause) := by
  unfold State.chipReset
  repeat' (first
    | with_reducible assumption
    | ((fail_if_no_progress extract_lets +onlyGivenNames u); refine (show Keeps s₀ u → _ from fun hu => ?_) ?_; (on_goal 1 => clear_value u); (on_goal 2 => unfold u))
    | ((fail_if_no_progress extract_lets +onlyGivenNames u); clear_value u)
    | (intro s1 a1 h1)
    | split
    | with_reducible apply State.protOpen_keeps
    | with_reducible apply State.motGatesOff_keeps
    | with_reducible apply State.fullReset_keeps
    | with_reducible apply State.blockAbandon_keeps
    | with_reducible apply State.forCh_keeps
    | with_reducible apply Keeps.foldl
    | with_reducible apply State.wr_keeps
    | with_reducible apply Keeps.parts
    | with_reducible apply Keeps.sec
    | with_reducible apply Keeps.drop
    | with_reducible apply Keeps.renew
    | (fail_if_no_progress dsimp -zeta only))

/-- `blockEvent` keeps what every operation keeps. -/
theorem State.blockEvent_keeps {s₀ s : State} (h : Keeps s₀ s) (sel src : Nat) (byFault : Bool) : Keeps s₀ (s.blockEvent sel src byFault) := by
  unfold State.blockEvent
  repeat' (first
    | with_reducible assumption
    | ((fail_if_no_progress extract_lets +onlyGivenNames u); refine (show Keeps s₀ u → _ from fun hu => ?_) ?_; (on_goal 1 => clear_value u); (on_goal 2 => unfold u))
    | ((fail_if_no_progress extract_lets +onlyGivenNames u); clear_value u)
    | (intro s1 a1 h1)
    | split
    | with_reducible apply State.event_keeps
    | with_reducible apply State.forCh_keeps
    | with_reducible apply Keeps.foldl
    | with_reducible apply State.wr_keeps
    | with_reducible apply Keeps.parts
    | with_reducible apply Keeps.sec
    | with_reducible apply Keeps.drop
    | with_reducible apply Keeps.renew
    | (fail_if_no_progress dsimp -zeta only))

/-- `resetQuad` keeps what every operation keeps. -/
theorem State.resetQuad_keeps {s₀ s : State} (h : Keeps s₀ s) (q : Quad) (src : Nat) (byFault : Bool) : Keeps s₀ (s.resetQuad q src byFault) := by
  unfold State.resetQuad
  repeat' (first
    | with_reducible assumption
    | ((fail_if_no_progress extract_lets +onlyGivenNames u); refine (show Keeps s₀ u → _ from fun hu => ?_) ?_; (on_goal 1 => clear_value u); (on_goal 2 => unfold u))
    | ((fail_if_no_progress extract_lets +onlyGivenNames u); clear_value u)
    | (intro s1 a1 h1)
    | split
    | with_reducible apply State.updCh_keeps
    | with_reducible apply State.updQd_keeps
    | with_reducible apply State.updQ_keeps
    | with_reducible apply State.admDone_keeps
    | with_reducible apply State.traceStop_keeps
    | with_reducible apply State.protOpen_keeps
    | with_reducible apply State.failStep_keeps
    | with_reducible apply State.blockAbandon_keeps
    | with_reducible apply State.blockEvent_keeps
    | with_reducible apply State.forCh_keeps
    | with_reducible apply Keeps.foldl
    | with_reducible apply State.wr_keeps
    | with_reducible apply Keeps.parts
    | with_reducible apply Keeps.sec
    | with_reducible apply Keeps.drop
    | with_reducible apply Keeps.renew
    | (fail_if_no_progress dsimp -zeta only))

/-- `resetMot` keeps what every operation keeps. -/
theorem State.resetMot_keeps {s₀ s : State} (h : Keeps s₀ s) (src : Nat) (byFault : Bool) : Keeps s₀ (s.resetMot src byFault) := by
  unfold State.resetMot
  repeat' (first
    | with_reducible assumption
    | ((fail_if_no_progress extract_lets +onlyGivenNames u); refine (show Keeps s₀ u → _ from fun hu => ?_) ?_; (on_goal 1 => clear_value u); (on_goal 2 => unfold u))
    | ((fail_if_no_progress extract_lets +onlyGivenNames u); clear_value u)
    | (intro s1 a1 h1)
    | split
    | with_reducible apply State.wr_keeps
    | with_reducible apply State.wr_keeps
    | with_reducible apply State.motComplete_keeps
    | with_reducible apply State.blockAbandon_keeps
    | with_reducible apply State.blockEvent_keeps
    | with_reducible apply State.forCh_keeps
    | with_reducible apply Keeps.foldl
    | with_reducible apply State.wr_keeps
    | with_reducible apply Keeps.parts
    | with_reducible apply Keeps.sec
    | with_reducible apply Keeps.drop
    | with_reducible apply Keeps.renew
    | (fail_if_no_progress dsimp -zeta only))

/-- `resetRing` keeps what every operation keeps. -/
theorem State.resetRing_keeps {s₀ s : State} (h : Keeps s₀ s) (src : Nat) (byFault : Bool) : Keeps s₀ (s.resetRing src byFault) := by
  unfold State.resetRing
  repeat' (first
    | with_reducible assumption
    | ((fail_if_no_progress extract_lets +onlyGivenNames u); refine (show Keeps s₀ u → _ from fun hu => ?_) ?_; (on_goal 1 => clear_value u); (on_goal 2 => unfold u))
    | ((fail_if_no_progress extract_lets +onlyGivenNames u); clear_value u)
    | (intro s1 a1 h1)
    | split
    | with_reducible apply State.blockAbandon_keeps
    | with_reducible apply State.blockEvent_keeps
    | with_reducible apply State.forCh_keeps
    | with_reducible apply Keeps.foldl
    | with_reducible apply State.wr_keeps
    | with_reducible apply Keeps.parts
    | with_reducible apply Keeps.sec
    | with_reducible apply Keeps.drop
    | with_reducible apply Keeps.renew
    | (fail_if_no_progress dsimp -zeta only))

/-- `faultTrig` keeps what every operation keeps. -/
theorem State.faultTrig_keeps {s₀ s : State} (h : Keeps s₀ s) (n : Src) (c : Ch) : Keeps s₀ (s.faultTrig n c) := by
  unfold State.faultTrig
  repeat' (first
    | with_reducible assumption
    | ((fail_if_no_progress extract_lets +onlyGivenNames u); refine (show Keeps s₀ u → _ from fun hu => ?_) ?_; (on_goal 1 => clear_value u); (on_goal 2 => unfold u))
    | ((fail_if_no_progress extract_lets +onlyGivenNames u); clear_value u)
    | (intro s1 a1 h1)
    | split
    | with_reducible apply State.traceTrig_keeps
    | with_reducible apply State.traceAll_keeps
    | with_reducible apply State.forCh_keeps
    | with_reducible apply Keeps.foldl
    | with_reducible apply State.wr_keeps
    | with_reducible apply Keeps.parts
    | with_reducible apply Keeps.sec
    | with_reducible apply Keeps.drop
    | with_reducible apply Keeps.renew
    | (fail_if_no_progress dsimp -zeta only))

/-- `raiseAs` keeps what every operation keeps. -/
theorem State.raiseAs_keeps {s₀ s : State} (h : Keeps s₀ s) (n : Src) (c : Ch) (cause : SafeCause) : Keeps s₀ (s.raiseAs n c cause) := by
  unfold State.raiseAs
  repeat' (first
    | with_reducible assumption
    | ((fail_if_no_progress extract_lets +onlyGivenNames u); refine (show Keeps s₀ u → _ from fun hu => ?_) ?_; (on_goal 1 => clear_value u); (on_goal 2 => unfold u))
    | ((fail_if_no_progress extract_lets +onlyGivenNames u); clear_value u)
    | (intro s1 a1 h1)
    | split
    | with_reducible apply State.wr_keeps
    | with_reducible apply State.wr_keeps
    | with_reducible apply State.updSrc_keeps
    | with_reducible apply State.emit_keeps
    | with_reducible apply State.event_keeps
    | with_reducible apply State.irq_keeps
    | with_reducible apply State.errPull_keeps
    | with_reducible apply State.dumpTrigger_keeps
    | with_reducible apply State.safeReq_keeps
    | with_reducible apply State.chipReset_keeps
    | with_reducible apply State.resetQuad_keeps
    | with_reducible apply State.resetMot_keeps
    | with_reducible apply State.resetRing_keeps
    | with_reducible apply State.faultTrig_keeps
    | with_reducible apply State.forCh_keeps
    | with_reducible apply Keeps.foldl
    | with_reducible apply State.wr_keeps
    | with_reducible apply Keeps.parts
    | with_reducible apply Keeps.sec
    | with_reducible apply Keeps.drop
    | with_reducible apply Keeps.renew
    | (fail_if_no_progress dsimp -zeta only))

/-- `raise` keeps what every operation keeps. -/
theorem State.raise_keeps {s₀ s : State} (h : Keeps s₀ s) (n : Src) (c : Ch) : Keeps s₀ (s.raise n c) := by
  unfold State.raise
  repeat' (first
    | with_reducible assumption
    | ((fail_if_no_progress extract_lets +onlyGivenNames u); refine (show Keeps s₀ u → _ from fun hu => ?_) ?_; (on_goal 1 => clear_value u); (on_goal 2 => unfold u))
    | ((fail_if_no_progress extract_lets +onlyGivenNames u); clear_value u)
    | (intro s1 a1 h1)
    | split
    | with_reducible apply State.raiseAs_keeps
    | with_reducible apply State.forCh_keeps
    | with_reducible apply Keeps.foldl
    | with_reducible apply State.wr_keeps
    | with_reducible apply Keeps.parts
    | with_reducible apply Keeps.sec
    | with_reducible apply Keeps.drop
    | with_reducible apply Keeps.renew
    | (fail_if_no_progress dsimp -zeta only))

/-- `raiseDev` keeps what every operation keeps. -/
theorem State.raiseDev_keeps {s₀ s : State} (h : Keeps s₀ s) (n : Src) : Keeps s₀ (s.raiseDev n) := by
  unfold State.raiseDev
  repeat' (first
    | with_reducible assumption
    | ((fail_if_no_progress extract_lets +onlyGivenNames u); refine (show Keeps s₀ u → _ from fun hu => ?_) ?_; (on_goal 1 => clear_value u); (on_goal 2 => unfold u))
    | ((fail_if_no_progress extract_lets +onlyGivenNames u); clear_value u)
    | (intro s1 a1 h1)
    | split
    | with_reducible apply State.raise_keeps
    | with_reducible apply State.forCh_keeps
    | with_reducible apply Keeps.foldl
    | with_reducible apply State.wr_keeps
    | with_reducible apply Keeps.parts
    | with_reducible apply Keeps.sec
    | with_reducible apply Keeps.drop
    | with_reducible apply Keeps.renew
    | (fail_if_no_progress dsimp -zeta only))

/-- `condGone` keeps what every operation keeps. -/
theorem State.condGone_keeps {s₀ s : State} (h : Keeps s₀ s) (n : Src) (c : Ch) : Keeps s₀ (s.condGone n c) := by
  unfold State.condGone
  repeat' (first
    | with_reducible assumption
    | ((fail_if_no_progress extract_lets +onlyGivenNames u); refine (show Keeps s₀ u → _ from fun hu => ?_) ?_; (on_goal 1 => clear_value u); (on_goal 2 => unfold u))
    | ((fail_if_no_progress extract_lets +onlyGivenNames u); clear_value u)
    | (intro s1 a1 h1)
    | split
    | with_reducible apply State.updSrc_keeps
    | with_reducible apply State.forCh_keeps
    | with_reducible apply Keeps.foldl
    | with_reducible apply State.wr_keeps
    | with_reducible apply Keeps.parts
    | with_reducible apply Keeps.sec
    | with_reducible apply Keeps.drop
    | with_reducible apply Keeps.renew
    | (fail_if_no_progress dsimp -zeta only))

/-- `clear` keeps what every operation keeps. -/
theorem State.clear_keeps {s₀ s : State} (h : Keeps s₀ s) (n : Src) (c : Ch) : Keeps s₀ (s.clear n c) := by
  unfold State.clear
  repeat' (first
    | with_reducible assumption
    | ((fail_if_no_progress extract_lets +onlyGivenNames u); refine (show Keeps s₀ u → _ from fun hu => ?_) ?_; (on_goal 1 => clear_value u); (on_goal 2 => unfold u))
    | ((fail_if_no_progress extract_lets +onlyGivenNames u); clear_value u)
    | (intro s1 a1 h1)
    | split
    | with_reducible apply State.updSrc_keeps
    | with_reducible apply State.event_keeps
    | with_reducible apply State.forCh_keeps
    | with_reducible apply Keeps.foldl
    | with_reducible apply State.wr_keeps
    | with_reducible apply Keeps.parts
    | with_reducible apply Keeps.sec
    | with_reducible apply Keeps.drop
    | with_reducible apply Keeps.renew
    | (fail_if_no_progress dsimp -zeta only))

/-- `clearIfGone` keeps what every operation keeps. -/
theorem State.clearIfGone_keeps {s₀ s : State} (h : Keeps s₀ s) (n : Src) (c : Ch) : Keeps s₀ (s.clearIfGone n c) := by
  unfold State.clearIfGone
  repeat' (first
    | with_reducible assumption
    | ((fail_if_no_progress extract_lets +onlyGivenNames u); refine (show Keeps s₀ u → _ from fun hu => ?_) ?_; (on_goal 1 => clear_value u); (on_goal 2 => unfold u))
    | ((fail_if_no_progress extract_lets +onlyGivenNames u); clear_value u)
    | (intro s1 a1 h1)
    | split
    | with_reducible apply State.clear_keeps
    | with_reducible apply State.forCh_keeps
    | with_reducible apply Keeps.foldl
    | with_reducible apply State.wr_keeps
    | with_reducible apply Keeps.parts
    | with_reducible apply Keeps.sec
    | with_reducible apply Keeps.drop
    | with_reducible apply Keeps.renew
    | (fail_if_no_progress dsimp -zeta only))

/-- `chRaise` keeps what every operation keeps. -/
theorem State.chRaise_keeps {s₀ s : State} (h : Keeps s₀ s) (n : Src) (c : Ch) : Keeps s₀ (s.chRaise n c) := by
  unfold State.chRaise
  repeat' (first
    | with_reducible assumption
    | ((fail_if_no_progress extract_lets +onlyGivenNames u); refine (show Keeps s₀ u → _ from fun hu => ?_) ?_; (on_goal 1 => clear_value u); (on_goal 2 => unfold u))
    | ((fail_if_no_progress extract_lets +onlyGivenNames u); clear_value u)
    | (intro s1 a1 h1)
    | split
    | with_reducible apply State.wr_keeps
    | with_reducible apply State.wr_keeps
    | with_reducible apply State.raise_keeps
    | with_reducible apply State.forCh_keeps
    | with_reducible apply Keeps.foldl
    | with_reducible apply State.wr_keeps
    | with_reducible apply Keeps.parts
    | with_reducible apply Keeps.sec
    | with_reducible apply Keeps.drop
    | with_reducible apply Keeps.renew
    | (fail_if_no_progress dsimp -zeta only))

end Sys2Proof.Machine
end

