-- ==== Sys2Proof/Laws/KeepsStage.lean ====
section
/-! SUPPORT. What the operations of Stage.lean keep (Keeps.lean). -/

set_option linter.all false
set_option linter.unusedTactic false
set_option linter.unreachableTactic false
namespace Sys2Proof.Machine

/-- `faultStop` keeps what every operation keeps. -/
theorem State.faultStop_keeps {s₀ s : State} (h : Keeps s₀ s) (n : Src) (c : Ch) (opens : Bool) : Keeps s₀ (s.faultStop n c opens) := by
  unfold State.faultStop
  repeat' (first
    | with_reducible assumption
    | ((fail_if_no_progress extract_lets +onlyGivenNames u); refine (show Keeps s₀ u → _ from fun hu => ?_) ?_; (on_goal 1 => clear_value u); (on_goal 2 => unfold u))
    | ((fail_if_no_progress extract_lets +onlyGivenNames u); clear_value u)
    | (intro s1 a1 h1)
    | split
    | with_reducible apply State.gatesOff_keeps
    | with_reducible apply State.protOpen_keeps
    | with_reducible apply State.stagedOpen_keeps
    | with_reducible apply State.failStep_keeps
    | with_reducible apply State.chRaise_keeps
    | with_reducible apply State.forCh_keeps
    | with_reducible apply Keeps.foldl
    | with_reducible apply State.wr_keeps
    | with_reducible apply Keeps.parts
    | with_reducible apply Keeps.sec
    | with_reducible apply Keeps.drop
    | with_reducible apply Keeps.renew
    | (fail_if_no_progress dsimp -zeta only))

/-- `startPulse` keeps what every operation keeps. -/
theorem State.startPulse_keeps {s₀ s : State} (h : Keeps s₀ s) (c : Ch) (why : KelWhy) : Keeps s₀ (s.startPulse c why) := by
  unfold State.startPulse
  repeat' (first
    | with_reducible assumption
    | ((fail_if_no_progress extract_lets +onlyGivenNames u); refine (show Keeps s₀ u → _ from fun hu => ?_) ?_; (on_goal 1 => clear_value u); (on_goal 2 => unfold u))
    | ((fail_if_no_progress extract_lets +onlyGivenNames u); clear_value u)
    | (intro s1 a1 h1)
    | split
    | with_reducible apply State.updStage_keeps
    | with_reducible apply State.updMet_keeps
    | with_reducible apply State.forCh_keeps
    | with_reducible apply Keeps.foldl
    | with_reducible apply State.wr_keeps
    | with_reducible apply Keeps.parts
    | with_reducible apply Keeps.sec
    | with_reducible apply Keeps.drop
    | with_reducible apply Keeps.renew
    | (fail_if_no_progress dsimp -zeta only))

/-- `requestClose` keeps what every operation keeps. -/
theorem State.requestClose_keeps {s₀ s : State} (h : Keeps s₀ s) (c : Ch) : Keeps s₀ (s.requestClose c) := by
  unfold State.requestClose
  repeat' (first
    | with_reducible assumption
    | ((fail_if_no_progress extract_lets +onlyGivenNames u); refine (show Keeps s₀ u → _ from fun hu => ?_) ?_; (on_goal 1 => clear_value u); (on_goal 2 => unfold u))
    | ((fail_if_no_progress extract_lets +onlyGivenNames u))
    | (intro s1 a1 h1)
    | split
    | with_reducible apply State.updStage_keeps
    | with_reducible apply State.stagedOpen_keeps
    | with_reducible apply State.startPulse_keeps
    | with_reducible apply State.forCh_keeps
    | with_reducible apply Keeps.foldl
    | with_reducible apply State.wr_keeps
    | with_reducible apply Keeps.parts
    | with_reducible apply Keeps.sec
    | with_reducible apply Keeps.drop
    | with_reducible apply Keeps.renew
    | (fail_if_no_progress dsimp -zeta only))

/-- `isoClose` keeps what every operation keeps. -/
theorem State.isoClose_keeps {s₀ s : State} (h : Keeps s₀ s) (c : Ch) : Keeps s₀ (s.isoClose c) := by
  unfold State.isoClose
  repeat' (first
    | with_reducible assumption
    | ((fail_if_no_progress extract_lets +onlyGivenNames u); refine (show Keeps s₀ u → _ from fun hu => ?_) ?_; (on_goal 1 => clear_value u); (on_goal 2 => unfold u))
    | ((fail_if_no_progress extract_lets +onlyGivenNames u); clear_value u)
    | (intro s1 a1 h1)
    | split
    | with_reducible apply State.wr_keeps
    | with_reducible apply State.wr_keeps
    | with_reducible apply State.updStage_keeps
    | with_reducible apply State.forCh_keeps
    | with_reducible apply Keeps.foldl
    | with_reducible apply State.wr_keeps
    | with_reducible apply Keeps.parts
    | with_reducible apply Keeps.sec
    | with_reducible apply Keeps.drop
    | with_reducible apply Keeps.renew
    | (fail_if_no_progress dsimp -zeta only))

/-- `endMeasClosures` keeps what every operation keeps. -/
theorem State.endMeasClosures_keeps {s₀ s : State} (h : Keeps s₀ s) : Keeps s₀ (s.endMeasClosures) := by
  unfold State.endMeasClosures
  repeat' (first
    | with_reducible assumption
    | ((fail_if_no_progress extract_lets +onlyGivenNames u); refine (show Keeps s₀ u → _ from fun hu => ?_) ?_; (on_goal 1 => clear_value u); (on_goal 2 => unfold u))
    | ((fail_if_no_progress extract_lets +onlyGivenNames u); clear_value u)
    | (intro s1 a1 h1)
    | split
    | with_reducible apply State.wr_keeps
    | with_reducible apply State.wr_keeps
    | with_reducible apply State.updStage_keeps
    | with_reducible apply State.forCh_keeps
    | with_reducible apply Keeps.foldl
    | with_reducible apply State.wr_keeps
    | with_reducible apply Keeps.parts
    | with_reducible apply Keeps.sec
    | with_reducible apply Keeps.drop
    | with_reducible apply Keeps.renew
    | (fail_if_no_progress dsimp -zeta only))

/-- `measAgain` keeps what every operation keeps. -/
theorem State.measAgain_keeps {s₀ s : State} (h : Keeps s₀ s) (c : Ch) : Keeps s₀ (s.measAgain c) := by
  unfold State.measAgain
  repeat' (first
    | with_reducible assumption
    | ((fail_if_no_progress extract_lets +onlyGivenNames u); refine (show Keeps s₀ u → _ from fun hu => ?_) ?_; (on_goal 1 => clear_value u); (on_goal 2 => unfold u))
    | ((fail_if_no_progress extract_lets +onlyGivenNames u); clear_value u)
    | (intro s1 a1 h1)
    | split
    | with_reducible apply State.requestClose_keeps
    | with_reducible apply State.forCh_keeps
    | with_reducible apply Keeps.foldl
    | with_reducible apply State.wr_keeps
    | with_reducible apply Keeps.parts
    | with_reducible apply Keeps.sec
    | with_reducible apply Keeps.drop
    | with_reducible apply Keeps.renew
    | (fail_if_no_progress dsimp -zeta only))

/-- `raiseBusSc` keeps what every operation keeps. -/
theorem State.raiseBusSc_keeps {s₀ s : State} (h : Keeps s₀ s) : Keeps s₀ (s.raiseBusSc) := by
  unfold State.raiseBusSc
  repeat' (first
    | with_reducible assumption
    | ((fail_if_no_progress extract_lets +onlyGivenNames u); refine (show Keeps s₀ u → _ from fun hu => ?_) ?_; (on_goal 1 => clear_value u); (on_goal 2 => unfold u))
    | ((fail_if_no_progress extract_lets +onlyGivenNames u); clear_value u)
    | (intro s1 a1 h1)
    | split
    | with_reducible apply State.wr_keeps
    | with_reducible apply State.wr_keeps
    | with_reducible apply State.protOpen_keeps
    | with_reducible apply State.raiseDev_keeps
    | with_reducible apply State.forCh_keeps
    | with_reducible apply Keeps.foldl
    | with_reducible apply State.wr_keeps
    | with_reducible apply Keeps.parts
    | with_reducible apply Keeps.sec
    | with_reducible apply Keeps.drop
    | with_reducible apply Keeps.renew
    | (fail_if_no_progress dsimp -zeta only))

/-- `chamois` keeps what every operation keeps. -/
theorem State.chamois_keeps {s₀ s : State} (h : Keeps s₀ s) (c : Ch) (t : Half) : Keeps s₀ (s.chamois c t) := by
  unfold State.chamois
  repeat' (first
    | with_reducible assumption
    | ((fail_if_no_progress extract_lets +onlyGivenNames u); refine (show Keeps s₀ u → _ from fun hu => ?_) ?_; (on_goal 1 => clear_value u); (on_goal 2 => unfold u))
    | ((fail_if_no_progress extract_lets +onlyGivenNames u); clear_value u)
    | (intro s1 a1 h1)
    | split
    | with_reducible apply State.incSat_keeps
    | with_reducible apply State.updStage_keeps
    | with_reducible apply State.updLoop_keeps
    | with_reducible apply State.faultStop_keeps
    | with_reducible apply State.raiseBusSc_keeps
    | with_reducible apply State.forCh_keeps
    | with_reducible apply Keeps.foldl
    | with_reducible apply State.wr_keeps
    | with_reducible apply Keeps.parts
    | with_reducible apply Keeps.sec
    | with_reducible apply Keeps.drop
    | with_reducible apply Keeps.renew
    | (fail_if_no_progress dsimp -zeta only))

/-- `kelFail` keeps what every operation keeps. -/
theorem State.kelFail_keeps {s₀ s : State} (h : Keeps s₀ s) (c : Ch) : Keeps s₀ (s.kelFail c) := by
  unfold State.kelFail
  repeat' (first
    | with_reducible assumption
    | ((fail_if_no_progress extract_lets +onlyGivenNames u); refine (show Keeps s₀ u → _ from fun hu => ?_) ?_; (on_goal 1 => clear_value u); (on_goal 2 => unfold u))
    | ((fail_if_no_progress extract_lets +onlyGivenNames u); clear_value u)
    | (intro s1 a1 h1)
    | split
    | with_reducible apply State.wr_keeps
    | with_reducible apply State.wr_keeps
    | with_reducible apply State.chRaise_keeps
    | with_reducible apply State.forCh_keeps
    | with_reducible apply Keeps.foldl
    | with_reducible apply State.wr_keeps
    | with_reducible apply Keeps.parts
    | with_reducible apply Keeps.sec
    | with_reducible apply Keeps.drop
    | with_reducible apply Keeps.renew
    | (fail_if_no_progress dsimp -zeta only))

/-- `demandUp` keeps what every operation keeps. -/
theorem State.demandUp_keeps {s₀ s : State} (h : Keeps s₀ s) (n : Fin 7) : Keeps s₀ (s.demandUp n) := by
  unfold State.demandUp
  repeat' (first
    | with_reducible assumption
    | ((fail_if_no_progress extract_lets +onlyGivenNames u); refine (show Keeps s₀ u → _ from fun hu => ?_) ?_; (on_goal 1 => clear_value u); (on_goal 2 => unfold u))
    | ((fail_if_no_progress extract_lets +onlyGivenNames u); clear_value u)
    | (intro s1 a1 h1)
    | split
    | with_reducible apply State.raiseDev_keeps
    | with_reducible apply State.forCh_keeps
    | with_reducible apply Keeps.foldl
    | with_reducible apply State.wr_keeps
    | with_reducible apply Keeps.parts
    | with_reducible apply Keeps.sec
    | with_reducible apply Keeps.drop
    | with_reducible apply Keeps.renew
    | (fail_if_no_progress dsimp -zeta only))

/-- `olEnd` keeps what every operation keeps. -/
theorem State.olEnd_keeps {s₀ s : State} (h : Keeps s₀ s) (c : Ch) : Keeps s₀ (s.olEnd c) := by
  unfold State.olEnd
  repeat' (first
    | with_reducible assumption
    | ((fail_if_no_progress extract_lets +onlyGivenNames u); refine (show Keeps s₀ u → _ from fun hu => ?_) ?_; (on_goal 1 => clear_value u); (on_goal 2 => unfold u))
    | ((fail_if_no_progress extract_lets +onlyGivenNames u); clear_value u)
    | (intro s1 a1 h1)
    | split
    | with_reducible apply State.condGone_keeps
    | with_reducible apply State.forCh_keeps
    | with_reducible apply Keeps.foldl
    | with_reducible apply State.wr_keeps
    | with_reducible apply Keeps.parts
    | with_reducible apply Keeps.sec
    | with_reducible apply Keeps.drop
    | with_reducible apply Keeps.renew
    | (fail_if_no_progress dsimp -zeta only))

/-- `fxMeasClose` keeps what every operation keeps. -/
theorem State.fxMeasClose_keeps {s₀ s : State} (h : Keeps s₀ s) (c : Ch) : Keeps s₀ (s.fxMeasClose c) := by
  unfold State.fxMeasClose
  repeat' (first
    | with_reducible assumption
    | ((fail_if_no_progress extract_lets +onlyGivenNames u); refine (show Keeps s₀ u → _ from fun hu => ?_) ?_; (on_goal 1 => clear_value u); (on_goal 2 => unfold u))
    | ((fail_if_no_progress extract_lets +onlyGivenNames u); clear_value u)
    | (intro s1 a1 h1)
    | split
    | with_reducible apply State.protOpen_keeps
    | with_reducible apply State.stagedOpen_keeps
    | with_reducible apply State.requestClose_keeps
    | with_reducible apply State.forCh_keeps
    | with_reducible apply Keeps.foldl
    | with_reducible apply State.wr_keeps
    | with_reducible apply Keeps.parts
    | with_reducible apply Keeps.sec
    | with_reducible apply Keeps.drop
    | with_reducible apply Keeps.renew
    | (fail_if_no_progress dsimp -zeta only))

/-- `fxKelTest` keeps what every operation keeps. -/
theorem State.fxKelTest_keeps {s₀ s : State} (h : Keeps s₀ s) (c : Ch) : Keeps s₀ (s.fxKelTest c) := by
  unfold State.fxKelTest
  repeat' (first
    | with_reducible assumption
    | ((fail_if_no_progress extract_lets +onlyGivenNames u); refine (show Keeps s₀ u → _ from fun hu => ?_) ?_; (on_goal 1 => clear_value u); (on_goal 2 => unfold u))
    | ((fail_if_no_progress extract_lets +onlyGivenNames u); clear_value u)
    | (intro s1 a1 h1)
    | split
    | with_reducible apply State.startPulse_keeps
    | with_reducible apply State.forCh_keeps
    | with_reducible apply Keeps.foldl
    | with_reducible apply State.wr_keeps
    | with_reducible apply Keeps.parts
    | with_reducible apply Keeps.sec
    | with_reducible apply Keeps.drop
    | with_reducible apply Keeps.renew
    | (fail_if_no_progress dsimp -zeta only))

/-- `closePulse` keeps what every operation keeps. -/
theorem State.closePulse_keeps {s₀ s : State} (h : Keeps s₀ s) (c : Ch) (diff : Int) : Keeps s₀ (s.closePulse c diff) := by
  unfold State.closePulse
  repeat' (first
    | with_reducible assumption
    | ((fail_if_no_progress extract_lets +onlyGivenNames u); refine (show Keeps s₀ u → _ from fun hu => ?_) ?_; (on_goal 1 => clear_value u); (on_goal 2 => unfold u))
    | ((fail_if_no_progress extract_lets +onlyGivenNames u); clear_value u)
    | (intro s1 a1 h1)
    | split
    | with_reducible apply State.updStage_keeps
    | with_reducible apply State.failStep_keeps
    | with_reducible apply State.isoClose_keeps
    | with_reducible apply State.kelFail_keeps
    | with_reducible apply State.forCh_keeps
    | with_reducible apply Keeps.foldl
    | with_reducible apply State.wr_keeps
    | with_reducible apply Keeps.parts
    | with_reducible apply Keeps.sec
    | with_reducible apply Keeps.drop
    | with_reducible apply Keeps.renew
    | (fail_if_no_progress dsimp -zeta only))

/-- `olCount` keeps what every operation keeps. -/
theorem State.olCount_keeps {s₀ s : State} (h : Keeps s₀ s) (c : Ch) : Keeps s₀ (s.olCount c) := by
  unfold State.olCount
  repeat' (first
    | with_reducible assumption
    | ((fail_if_no_progress extract_lets +onlyGivenNames u); refine (show Keeps s₀ u → _ from fun hu => ?_) ?_; (on_goal 1 => clear_value u); (on_goal 2 => unfold u))
    | ((fail_if_no_progress extract_lets +onlyGivenNames u); clear_value u)
    | (intro s1 a1 h1)
    | split
    | with_reducible apply State.wr_keeps
    | with_reducible apply State.wr_keeps
    | with_reducible apply State.incSat_keeps
    | with_reducible apply State.updStage_keeps
    | with_reducible apply State.forCh_keeps
    | with_reducible apply Keeps.foldl
    | with_reducible apply State.wr_keeps
    | with_reducible apply Keeps.parts
    | with_reducible apply Keeps.sec
    | with_reducible apply Keeps.drop
    | with_reducible apply Keeps.renew
    | (fail_if_no_progress dsimp -zeta only))

/-- `chTrip` keeps what every operation keeps. -/
theorem State.chTrip_keeps {s₀ s : State} (h : Keeps s₀ s) (c : Ch) (k : Nat) (rev : Bool) : Keeps s₀ (s.chTrip c k rev) := by
  unfold State.chTrip
  repeat' (first
    | with_reducible assumption
    | ((fail_if_no_progress extract_lets +onlyGivenNames u); refine (show Keeps s₀ u → _ from fun hu => ?_) ?_; (on_goal 1 => clear_value u); (on_goal 2 => unfold u))
    | ((fail_if_no_progress extract_lets +onlyGivenNames u); clear_value u)
    | (intro s1 a1 h1)
    | split
    | with_reducible apply State.updStage_keeps
    | with_reducible apply State.protOpen_keeps
    | with_reducible apply State.faultStop_keeps
    | with_reducible apply State.startPulse_keeps
    | with_reducible apply State.forCh_keeps
    | with_reducible apply Keeps.foldl
    | with_reducible apply State.wr_keeps
    | with_reducible apply Keeps.parts
    | with_reducible apply Keeps.sec
    | with_reducible apply Keeps.drop
    | with_reducible apply Keeps.renew
    | (fail_if_no_progress dsimp -zeta only))

/-- `vdrvTrip` keeps what every operation keeps. -/
theorem State.vdrvTrip_keeps {s₀ s : State} (h : Keeps s₀ s) : Keeps s₀ (s.vdrvTrip) := by
  unfold State.vdrvTrip
  repeat' (first
    | with_reducible assumption
    | ((fail_if_no_progress extract_lets +onlyGivenNames u); refine (show Keeps s₀ u → _ from fun hu => ?_) ?_; (on_goal 1 => clear_value u); (on_goal 2 => unfold u))
    | ((fail_if_no_progress extract_lets +onlyGivenNames u); clear_value u)
    | (intro s1 a1 h1)
    | split
    | with_reducible apply State.protOpen_keeps
    | with_reducible apply State.motGatesOff_keeps
    | with_reducible apply State.raiseDev_keeps
    | with_reducible apply State.forCh_keeps
    | with_reducible apply Keeps.foldl
    | with_reducible apply State.wr_keeps
    | with_reducible apply Keeps.parts
    | with_reducible apply Keeps.sec
    | with_reducible apply Keeps.drop
    | with_reducible apply Keeps.renew
    | (fail_if_no_progress dsimp -zeta only))

/-- `motRaise` keeps what every operation keeps. -/
theorem State.motRaise_keeps {s₀ s : State} (h : Keeps s₀ s) (n : Src) : Keeps s₀ (s.motRaise n) := by
  unfold State.motRaise
  repeat' (first
    | with_reducible assumption
    | ((fail_if_no_progress extract_lets +onlyGivenNames u); refine (show Keeps s₀ u → _ from fun hu => ?_) ?_; (on_goal 1 => clear_value u); (on_goal 2 => unfold u))
    | ((fail_if_no_progress extract_lets +onlyGivenNames u); clear_value u)
    | (intro s1 a1 h1)
    | split
    | with_reducible apply State.wr_keeps
    | with_reducible apply State.wr_keeps
    | with_reducible apply State.raiseDev_keeps
    | with_reducible apply State.forCh_keeps
    | with_reducible apply Keeps.foldl
    | with_reducible apply State.wr_keeps
    | with_reducible apply Keeps.parts
    | with_reducible apply Keeps.sec
    | with_reducible apply Keeps.drop
    | with_reducible apply Keeps.renew
    | (fail_if_no_progress dsimp -zeta only))

/-- `cmpRestart` keeps what every operation keeps. -/
theorem State.cmpRestart_keeps {s₀ s : State} (h : Keeps s₀ s) (i : CmpId) : Keeps s₀ (s.cmpRestart i) := by
  unfold State.cmpRestart
  repeat' (first
    | with_reducible assumption
    | ((fail_if_no_progress extract_lets +onlyGivenNames u); refine (show Keeps s₀ u → _ from fun hu => ?_) ?_; (on_goal 1 => clear_value u); (on_goal 2 => unfold u))
    | ((fail_if_no_progress extract_lets +onlyGivenNames u); clear_value u)
    | (intro s1 a1 h1)
    | split
    | with_reducible apply State.updCmp_keeps
    | with_reducible apply State.forCh_keeps
    | with_reducible apply Keeps.foldl
    | with_reducible apply State.wr_keeps
    | with_reducible apply Keeps.parts
    | with_reducible apply Keeps.sec
    | with_reducible apply Keeps.drop
    | with_reducible apply Keeps.renew
    | (fail_if_no_progress dsimp -zeta only))

end Sys2Proof.Machine
end

