-- ==== Sys2Proof/Laws/KeepsRange.lean ====
section
/-! SUPPORT. What the operations of Range.lean keep (Keeps.lean). -/

set_option linter.all false
set_option linter.unusedTactic false
set_option linter.unreachableTactic false
namespace Sys2Proof.Machine

/-- `updSpare` keeps what every operation keeps. -/
theorem State.updSpare_keeps {s₀ s : State} (h : Keeps s₀ s) (i : SpareId) (f : Spare → Spare) : Keeps s₀ (s.updSpare i f) := by
  unfold State.updSpare
  repeat' (first
    | with_reducible assumption
    | ((fail_if_no_progress extract_lets +onlyGivenNames u); refine (show Keeps s₀ u → _ from fun hu => ?_) ?_; (on_goal 1 => clear_value u); (on_goal 2 => unfold u))
    | ((fail_if_no_progress extract_lets +onlyGivenNames u); clear_value u)
    | (intro s1 a1 h1)
    | split
    | with_reducible apply State.forCh_keeps
    | with_reducible apply Keeps.foldl
    | with_reducible apply State.wr_keeps
    | with_reducible apply Keeps.parts
    | with_reducible apply Keeps.sec
    | with_reducible apply Keeps.drop
    | with_reducible apply Keeps.renew
    | (fail_if_no_progress dsimp -zeta only))

/-- `startChange` keeps what every operation keeps. -/
theorem State.startChange_keeps {s₀ s : State} (h : Keeps s₀ s) (i : SpareId) (r : RngReq) : Keeps s₀ (s.startChange i r) := by
  unfold State.startChange
  repeat' (first
    | with_reducible assumption
    | ((fail_if_no_progress extract_lets +onlyGivenNames u); refine (show Keeps s₀ u → _ from fun hu => ?_) ?_; (on_goal 1 => clear_value u); (on_goal 2 => unfold u))
    | ((fail_if_no_progress extract_lets +onlyGivenNames u); clear_value u)
    | (intro s1 a1 h1)
    | split
    | with_reducible apply State.updSpare_keeps
    | with_reducible apply State.forCh_keeps
    | with_reducible apply Keeps.foldl
    | with_reducible apply State.wr_keeps
    | with_reducible apply Keeps.parts
    | with_reducible apply Keeps.sec
    | with_reducible apply Keeps.drop
    | with_reducible apply Keeps.renew
    | (fail_if_no_progress dsimp -zeta only))

/-- `untake` keeps what every operation keeps. -/
theorem State.untake_keeps {s₀ s : State} (h : Keeps s₀ s) (i : SpareId) : Keeps s₀ (s.untake i) := by
  unfold State.untake
  repeat' (first
    | with_reducible assumption
    | ((fail_if_no_progress extract_lets +onlyGivenNames u); refine (show Keeps s₀ u → _ from fun hu => ?_) ?_; (on_goal 1 => clear_value u); (on_goal 2 => unfold u))
    | ((fail_if_no_progress extract_lets +onlyGivenNames u); clear_value u)
    | (intro s1 a1 h1)
    | split
    | with_reducible apply State.forCh_keeps
    | with_reducible apply Keeps.foldl
    | with_reducible apply State.wr_keeps
    | with_reducible apply Keeps.parts
    | with_reducible apply Keeps.sec
    | with_reducible apply Keeps.drop
    | with_reducible apply Keeps.renew
    | (fail_if_no_progress dsimp -zeta only))

/-- `dropCal` keeps what every operation keeps. -/
theorem State.dropCal_keeps {s₀ s : State} (h : Keeps s₀ s) (conv : Nat) : Keeps s₀ (s.dropCal conv) := by
  unfold State.dropCal
  repeat' (first
    | with_reducible assumption
    | ((fail_if_no_progress extract_lets +onlyGivenNames u); refine (show Keeps s₀ u → _ from fun hu => ?_) ?_; (on_goal 1 => clear_value u); (on_goal 2 => unfold u))
    | ((fail_if_no_progress extract_lets +onlyGivenNames u); clear_value u)
    | (intro s1 a1 h1)
    | split
    | with_reducible apply State.forCh_keeps
    | with_reducible apply Keeps.foldl
    | with_reducible apply State.wr_keeps
    | with_reducible apply Keeps.parts
    | with_reducible apply Keeps.sec
    | with_reducible apply Keeps.drop
    | with_reducible apply Keeps.renew
    | (fail_if_no_progress dsimp -zeta only))

/-- `roundEnd` keeps what every operation keeps. -/
theorem State.roundEnd_keeps {s₀ s : State} (h : Keeps s₀ s) : Keeps s₀ (s.roundEnd) := by
  unfold State.roundEnd
  repeat' (first
    | with_reducible assumption
    | ((fail_if_no_progress extract_lets +onlyGivenNames u); refine (show Keeps s₀ u → _ from fun hu => ?_) ?_; (on_goal 1 => clear_value u); (on_goal 2 => unfold u))
    | ((fail_if_no_progress extract_lets +onlyGivenNames u))
    | (intro s1 a1 h1)
    | split
    | with_reducible apply State.wb_keeps
    | with_reducible apply State.forCh_keeps
    | with_reducible apply Keeps.foldl
    | with_reducible apply State.wr_keeps
    | with_reducible apply Keeps.parts
    | with_reducible apply Keeps.sec
    | with_reducible apply Keeps.drop
    | with_reducible apply Keeps.renew
    | (fail_if_no_progress dsimp -zeta only))

/-- `rangeDeny` keeps what every operation keeps. -/
theorem State.rangeDeny_keeps {s₀ s : State} (h : Keeps s₀ s) (c : Ch) : Keeps s₀ (s.rangeDeny c) := by
  unfold State.rangeDeny
  repeat' (first
    | with_reducible assumption
    | ((fail_if_no_progress extract_lets +onlyGivenNames u); refine (show Keeps s₀ u → _ from fun hu => ?_) ?_; (on_goal 1 => clear_value u); (on_goal 2 => unfold u))
    | ((fail_if_no_progress extract_lets +onlyGivenNames u); clear_value u)
    | (intro s1 a1 h1)
    | split
    | with_reducible apply State.wr_keeps
    | with_reducible apply State.wr_keeps
    | with_reducible apply State.event_keeps
    | with_reducible apply State.forCh_keeps
    | with_reducible apply Keeps.foldl
    | with_reducible apply State.wr_keeps
    | with_reducible apply Keeps.parts
    | with_reducible apply Keeps.sec
    | with_reducible apply Keeps.drop
    | with_reducible apply Keeps.renew
    | (fail_if_no_progress dsimp -zeta only))

/-- `denyWaiting` keeps what every operation keeps. -/
theorem State.denyWaiting_keeps {s₀ s : State} (h : Keeps s₀ s) : Keeps s₀ (s.denyWaiting) := by
  unfold State.denyWaiting
  repeat' (first
    | with_reducible assumption
    | ((fail_if_no_progress extract_lets +onlyGivenNames u); refine (show Keeps s₀ u → _ from fun hu => ?_) ?_; (on_goal 1 => clear_value u); (on_goal 2 => unfold u))
    | ((fail_if_no_progress extract_lets +onlyGivenNames u))
    | (intro s1 a1 h1)
    | split
    | with_reducible apply State.rangeDeny_keeps
    | with_reducible apply State.forCh_keeps
    | with_reducible apply Keeps.foldl
    | with_reducible apply State.wr_keeps
    | with_reducible apply Keeps.parts
    | with_reducible apply Keeps.sec
    | with_reducible apply Keeps.drop
    | with_reducible apply Keeps.renew
    | (fail_if_no_progress dsimp -zeta only))

/-- `serveRange` keeps what every operation keeps. -/
theorem State.serveRange_keeps {s₀ s : State} (h : Keeps s₀ s) : Keeps s₀ (s.serveRange) := by
  unfold State.serveRange
  repeat' (first
    | with_reducible assumption
    | ((fail_if_no_progress extract_lets +onlyGivenNames u); refine (show Keeps s₀ u → _ from fun hu => ?_) ?_; (on_goal 1 => clear_value u); (on_goal 2 => unfold u))
    | ((fail_if_no_progress extract_lets +onlyGivenNames u); clear_value u)
    | (intro s1 a1 h1)
    | split
    | with_reducible apply State.updSpare_keeps
    | with_reducible apply State.startChange_keeps
    | with_reducible apply State.forCh_keeps
    | with_reducible apply Keeps.foldl
    | with_reducible apply State.wr_keeps
    | with_reducible apply Keeps.parts
    | with_reducible apply Keeps.sec
    | with_reducible apply Keeps.drop
    | with_reducible apply Keeps.renew
    | (fail_if_no_progress dsimp -zeta only))

/-- `yieldTo` keeps what every operation keeps. -/
theorem State.yieldTo_keeps {s₀ s : State} (h : Keeps s₀ s) (c : Ch) : Keeps s₀ (s.yieldTo c) := by
  unfold State.yieldTo
  repeat' (first
    | with_reducible assumption
    | ((fail_if_no_progress extract_lets +onlyGivenNames u); refine (show Keeps s₀ u → _ from fun hu => ?_) ?_; (on_goal 1 => clear_value u); (on_goal 2 => unfold u))
    | ((fail_if_no_progress extract_lets +onlyGivenNames u); clear_value u)
    | (intro s1 a1 h1)
    | split
    | with_reducible apply State.updSpare_keeps
    | with_reducible apply State.serveRange_keeps
    | with_reducible apply State.forCh_keeps
    | with_reducible apply Keeps.foldl
    | with_reducible apply State.wr_keeps
    | with_reducible apply Keeps.parts
    | with_reducible apply Keeps.sec
    | with_reducible apply Keeps.drop
    | with_reducible apply Keeps.renew
    | (fail_if_no_progress dsimp -zeta only))

/-- `preempt` keeps what every operation keeps. -/
theorem State.preempt_keeps {s₀ s : State} (h : Keeps s₀ s) : Keeps s₀ (s.preempt) := by
  unfold State.preempt
  repeat' (first
    | with_reducible assumption
    | ((fail_if_no_progress extract_lets +onlyGivenNames u); refine (show Keeps s₀ u → _ from fun hu => ?_) ?_; (on_goal 1 => clear_value u); (on_goal 2 => unfold u))
    | ((fail_if_no_progress extract_lets +onlyGivenNames u); clear_value u)
    | (intro s1 a1 h1)
    | split
    | with_reducible apply State.incSat_keeps
    | with_reducible apply State.updSpare_keeps
    | with_reducible apply State.untake_keeps
    | with_reducible apply State.dropCal_keeps
    | with_reducible apply State.roundEnd_keeps
    | with_reducible apply State.forCh_keeps
    | with_reducible apply Keeps.foldl
    | with_reducible apply State.wr_keeps
    | with_reducible apply Keeps.parts
    | with_reducible apply Keeps.sec
    | with_reducible apply Keeps.drop
    | with_reducible apply Keeps.renew
    | (fail_if_no_progress dsimp -zeta only))

/-- `rangeInRotation` keeps what every operation keeps. -/
theorem State.rangeInRotation_keeps {s₀ s : State} (h : Keeps s₀ s) (i : SpareId) (c : Ch) (rng : Fin 4) (auto : Bool) : Keeps s₀ (s.rangeInRotation i c rng auto) := by
  unfold State.rangeInRotation
  repeat' (first
    | with_reducible assumption
    | ((fail_if_no_progress extract_lets +onlyGivenNames u); refine (show Keeps s₀ u → _ from fun hu => ?_) ?_; (on_goal 1 => clear_value u); (on_goal 2 => unfold u))
    | ((fail_if_no_progress extract_lets +onlyGivenNames u))
    | (intro s1 a1 h1)
    | split
    | with_reducible apply State.updSpare_keeps
    | with_reducible apply State.startChange_keeps
    | with_reducible apply State.untake_keeps
    | with_reducible apply State.dropCal_keeps
    | with_reducible apply State.roundEnd_keeps
    | with_reducible apply State.rangeDeny_keeps
    | with_reducible apply State.forCh_keeps
    | with_reducible apply Keeps.foldl
    | with_reducible apply State.wr_keeps
    | with_reducible apply Keeps.parts
    | with_reducible apply Keeps.sec
    | with_reducible apply Keeps.drop
    | with_reducible apply Keeps.renew
    | (fail_if_no_progress dsimp -zeta only))

/-- `rangeAsk` keeps what every operation keeps. -/
theorem State.rangeAsk_keeps {s₀ s : State} (h : Keeps s₀ s) (c : Ch) (rng : Fin 4) (auto : Bool) : Keeps s₀ (s.rangeAsk c rng auto) := by
  unfold State.rangeAsk
  repeat' (first
    | with_reducible assumption
    | ((fail_if_no_progress extract_lets +onlyGivenNames u); refine (show Keeps s₀ u → _ from fun hu => ?_) ?_; (on_goal 1 => clear_value u); (on_goal 2 => unfold u))
    | ((fail_if_no_progress extract_lets +onlyGivenNames u))
    | (intro s1 a1 h1)
    | split
    | with_reducible apply State.wr_keeps
    | with_reducible apply State.wr_keeps
    | with_reducible apply State.updSpare_keeps
    | with_reducible apply State.startChange_keeps
    | with_reducible apply State.rangeDeny_keeps
    | with_reducible apply State.serveRange_keeps
    | with_reducible apply State.yieldTo_keeps
    | with_reducible apply State.preempt_keeps
    | with_reducible apply State.rangeInRotation_keeps
    | with_reducible apply State.forCh_keeps
    | with_reducible apply Keeps.foldl
    | with_reducible apply State.wr_keeps
    | with_reducible apply Keeps.parts
    | with_reducible apply Keeps.sec
    | with_reducible apply Keeps.drop
    | with_reducible apply Keeps.renew
    | (fail_if_no_progress dsimp -zeta only))

/-- `rangeReq` keeps what every operation keeps. -/
theorem State.rangeReq_keeps {s₀ s : State} (h : Keeps s₀ s) (c : Ch) (rng : Fin 4) (auto : Bool) : Keeps s₀ (s.rangeReq c rng auto) := by
  unfold State.rangeReq
  repeat' (first
    | with_reducible assumption
    | ((fail_if_no_progress extract_lets +onlyGivenNames u); refine (show Keeps s₀ u → _ from fun hu => ?_) ?_; (on_goal 1 => clear_value u); (on_goal 2 => unfold u))
    | ((fail_if_no_progress extract_lets +onlyGivenNames u); clear_value u)
    | (intro s1 a1 h1)
    | split
    | with_reducible apply State.rangeAsk_keeps
    | with_reducible apply State.forCh_keeps
    | with_reducible apply Keeps.foldl
    | with_reducible apply State.wr_keeps
    | with_reducible apply Keeps.parts
    | with_reducible apply Keeps.sec
    | with_reducible apply Keeps.drop
    | with_reducible apply Keeps.renew
    | (fail_if_no_progress dsimp -zeta only))

/-- `rangeTick` keeps what every operation keeps. -/
theorem State.rangeTick_keeps {s₀ s : State} (h : Keeps s₀ s) (c : Ch) : Keeps s₀ (s.rangeTick c) := by
  unfold State.rangeTick
  extract_lets +onlyGivenNames r u
  have hu : Keeps s₀ u := by
    unfold u
    split
    · exact State.rangeReq_keeps (State.updMet_keeps h ..) ..
    · exact h
  exact Keeps.ite (State.rangeReq_keeps hu ..) hu

/-- `metPeriod` keeps what every operation keeps. -/
theorem State.metPeriod_keeps {s₀ s : State} (h : Keeps s₀ s) (per : Nat) : Keeps s₀ (s.metPeriod per) := by
  unfold State.metPeriod
  repeat' (first
    | with_reducible assumption
    | ((fail_if_no_progress extract_lets +onlyGivenNames u); refine (show Keeps s₀ u → _ from fun hu => ?_) ?_; (on_goal 1 => clear_value u); (on_goal 2 => unfold u))
    | ((fail_if_no_progress extract_lets +onlyGivenNames u); clear_value u)
    | (intro s1 a1 h1)
    | split
    | with_reducible apply State.wr_keeps
    | with_reducible apply State.wr_keeps
    | with_reducible apply State.forCh_keeps
    | with_reducible apply Keeps.foldl
    | with_reducible apply State.wr_keeps
    | with_reducible apply Keeps.parts
    | with_reducible apply Keeps.sec
    | with_reducible apply Keeps.drop
    | with_reducible apply Keeps.renew
    | (fail_if_no_progress dsimp -zeta only))

end Sys2Proof.Machine
end

