-- ==== Sys2Proof/Laws/KeepsSetpoint.lean ====
section
/-! SUPPORT. What the operations of Setpoint.lean keep (Keeps.lean). -/

set_option linter.all false
set_option linter.unusedTactic false
set_option linter.unreachableTactic false
namespace Sys2Proof.Machine

/-- `limit1` keeps what every operation keeps. -/
theorem State.limit1_keeps {s₀ s : State} (h : Keeps s₀ s) (c : Ch) : Keeps s₀ (s.limit1 c) := by
  unfold State.limit1
  repeat' (first
    | with_reducible assumption
    | ((fail_if_no_progress extract_lets +onlyGivenNames u); refine (show Keeps s₀ u → _ from fun hu => ?_) ?_; (on_goal 1 => clear_value u); (on_goal 2 => unfold u))
    | ((fail_if_no_progress extract_lets +onlyGivenNames u); clear_value u)
    | (intro s1 a1 h1)
    | split
    | with_reducible apply State.wb_keeps
    | with_reducible apply State.updLoop_keeps
    | with_reducible apply State.forCh_keeps
    | with_reducible apply Keeps.foldl
    | with_reducible apply State.wr_keeps
    | with_reducible apply Keeps.parts
    | with_reducible apply Keeps.sec
    | with_reducible apply Keeps.drop
    | with_reducible apply Keeps.renew
    | (fail_if_no_progress dsimp -zeta only))

/-- `formSetpoint` keeps what every operation keeps. -/
theorem State.formSetpoint_keeps {s₀ s : State} (h : Keeps s₀ s) (c : Ch) : Keeps s₀ (s.formSetpoint c) := by
  unfold State.formSetpoint
  extract_lets +onlyGivenNames u
  refine (show Keeps s₀ u → _ from fun hu => ?_) ?_
  · extract_lets +onlyGivenNames g
    split
    · exact State.limit1_keeps (State.updLoop_keeps hu ..) ..
    · exact State.forCh_keeps _ (fun _ _ h => State.limit1_keeps (State.updLoop_keeps h ..) ..) hu
  · unfold u
    generalize (s.seq c).run = r
    cases r with
    | none => exact State.updLoop_keeps h ..
    | some r =>
      dsimp -zeta only
      generalize s.command c r 0 = p
      obtain ⟨i, t, f⟩ := p
      dsimp -zeta only
      repeat' (first
        | with_reducible assumption
        | ((fail_if_no_progress extract_lets +onlyGivenNames u); refine (show Keeps s₀ u → _ from fun hu => ?_) ?_; (on_goal 1 => clear_value u); (on_goal 2 => unfold u))
        | ((fail_if_no_progress extract_lets +onlyGivenNames u); clear_value u)
        | (intro s1 a1 h1)
        | split
        | with_reducible apply State.updRun_keeps
        | with_reducible apply State.updLoop_keeps
        | with_reducible apply State.updSeq_keeps
        | with_reducible apply Keeps.foldl
        | with_reducible apply Keeps.parts
        | with_reducible apply Keeps.sec
        | with_reducible apply Keeps.drop
        | with_reducible apply Keeps.renew
        | (fail_if_no_progress dsimp -zeta only))

/-- `zeroSetpoint` keeps what every operation keeps. -/
theorem State.zeroSetpoint_keeps {s₀ s : State} (h : Keeps s₀ s) (c : Ch) : Keeps s₀ (s.zeroSetpoint c) := by
  unfold State.zeroSetpoint
  repeat' (first
    | with_reducible assumption
    | ((fail_if_no_progress extract_lets +onlyGivenNames u); refine (show Keeps s₀ u → _ from fun hu => ?_) ?_; (on_goal 1 => clear_value u); (on_goal 2 => unfold u))
    | ((fail_if_no_progress extract_lets +onlyGivenNames u); clear_value u)
    | (intro s1 a1 h1)
    | split
    | with_reducible apply State.updLoop_keeps
    | with_reducible apply State.limit1_keeps
    | with_reducible apply State.forCh_keeps
    | with_reducible apply Keeps.foldl
    | with_reducible apply State.wr_keeps
    | with_reducible apply Keeps.parts
    | with_reducible apply Keeps.sec
    | with_reducible apply Keeps.drop
    | with_reducible apply Keeps.renew
    | (fail_if_no_progress dsimp -zeta only))

/-- `startGates` keeps what every operation keeps. -/
theorem State.startGates_keeps {s₀ s : State} (h : Keeps s₀ s) (c : Ch) : Keeps s₀ (s.startGates c) := by
  unfold State.startGates
  repeat' (first
    | with_reducible assumption
    | ((fail_if_no_progress extract_lets +onlyGivenNames u); refine (show Keeps s₀ u → _ from fun hu => ?_) ?_; (on_goal 1 => clear_value u); (on_goal 2 => unfold u))
    | ((fail_if_no_progress extract_lets +onlyGivenNames u); clear_value u)
    | (intro s1 a1 h1)
    | split
    | with_reducible apply State.updStage_keeps
    | with_reducible apply State.updRun_keeps
    | with_reducible apply State.requestClose_keeps
    | with_reducible apply State.forCh_keeps
    | with_reducible apply Keeps.foldl
    | with_reducible apply State.wr_keeps
    | with_reducible apply Keeps.parts
    | with_reducible apply Keeps.sec
    | with_reducible apply Keeps.drop
    | with_reducible apply Keeps.renew
    | (fail_if_no_progress dsimp -zeta only))

end Sys2Proof.Machine
end

