-- ==== Sys2Proof/Laws/KeepsSeq.lean ====
section
/-! SUPPORT. What the operations of Seq.lean keep (Keeps.lean). -/

set_option linter.all false
set_option linter.unusedTactic false
set_option linter.unreachableTactic false
namespace Sys2Proof.Machine

/-- `tagArrive` keeps what every operation keeps. -/
theorem State.tagArrive_keeps {s₀ s : State} (h : Keeps s₀ s) (t : Nat) : Keeps s₀ (s.tagArrive t) := by
  unfold State.tagArrive
  repeat' (first
    | with_reducible assumption
    | ((fail_if_no_progress extract_lets +onlyGivenNames u); refine (show Keeps s₀ u → _ from fun hu => ?_) ?_; (on_goal 1 => clear_value u); (on_goal 2 => unfold u))
    | ((fail_if_no_progress extract_lets +onlyGivenNames u); clear_value u)
    | (intro s1 a1 h1)
    | split
    | with_reducible apply State.forCh_keeps
    | with_reducible apply Keeps.foldl
    | with_reducible apply State.wr_keeps
    | with_reducible apply Keeps.parts
    | with_reducible apply Keeps.sec
    | with_reducible apply Keeps.drop
    | with_reducible apply Keeps.renew
    | (fail_if_no_progress dsimp -zeta only))

/-- `armBank` keeps what every operation keeps. -/
theorem State.armBank_keeps {s₀ s : State} (h : Keeps s₀ s) (c : Ch) (d : StepDesc) : Keeps s₀ (s.armBank c d) := by
  unfold State.armBank
  repeat' (first
    | with_reducible assumption
    | ((fail_if_no_progress extract_lets +onlyGivenNames u); refine (show Keeps s₀ u → _ from fun hu => ?_) ?_; (on_goal 1 => clear_value u); (on_goal 2 => unfold u))
    | ((fail_if_no_progress extract_lets +onlyGivenNames u); clear_value u)
    | (intro s1 a1 h1)
    | split
    | with_reducible apply State.updLoop_keeps
    | with_reducible apply State.forCh_keeps
    | with_reducible apply Keeps.foldl
    | with_reducible apply State.wr_keeps
    | with_reducible apply Keeps.parts
    | with_reducible apply Keeps.sec
    | with_reducible apply Keeps.drop
    | with_reducible apply Keeps.renew
    | (fail_if_no_progress dsimp -zeta only))

/-- `bankTo` keeps what every operation keeps. -/
theorem State.bankTo_keeps {s₀ s : State} (h : Keeps s₀ s) (c : Ch) (d : StepDesc) : Keeps s₀ (s.bankTo c d) := by
  unfold State.bankTo
  repeat' (first
    | with_reducible assumption
    | ((fail_if_no_progress extract_lets +onlyGivenNames u); refine (show Keeps s₀ u → _ from fun hu => ?_) ?_; (on_goal 1 => clear_value u); (on_goal 2 => unfold u))
    | ((fail_if_no_progress extract_lets +onlyGivenNames u); clear_value u)
    | (intro s1 a1 h1)
    | split
    | with_reducible apply State.updLoop_keeps
    | with_reducible apply State.armBank_keeps
    | with_reducible apply State.forCh_keeps
    | with_reducible apply Keeps.foldl
    | with_reducible apply State.wr_keeps
    | with_reducible apply Keeps.parts
    | with_reducible apply Keeps.sec
    | with_reducible apply Keeps.drop
    | with_reducible apply Keeps.renew
    | (fail_if_no_progress dsimp -zeta only))

/-- `softStart` keeps what every operation keeps. -/
theorem State.softStart_keeps {s₀ s : State} (h : Keeps s₀ s) (c : Ch) (d : StepDesc) : Keeps s₀ (s.softStart c d) := by
  unfold State.softStart
  repeat' (first
    | with_reducible assumption
    | ((fail_if_no_progress extract_lets +onlyGivenNames u); refine (show Keeps s₀ u → _ from fun hu => ?_) ?_; (on_goal 1 => clear_value u); (on_goal 2 => unfold u))
    | ((fail_if_no_progress extract_lets +onlyGivenNames u); clear_value u)
    | (intro s1 a1 h1)
    | split
    | with_reducible apply State.updSeq_keeps
    | with_reducible apply State.forCh_keeps
    | with_reducible apply Keeps.foldl
    | with_reducible apply State.wr_keeps
    | with_reducible apply Keeps.parts
    | with_reducible apply Keeps.sec
    | with_reducible apply Keeps.drop
    | with_reducible apply Keeps.renew
    | (fail_if_no_progress dsimp -zeta only))

/-- `gangForm` keeps what every operation keeps. -/
theorem State.gangForm_keeps {s₀ s : State} (h : Keeps s₀ s) (c : Ch) (size : Nat) : Keeps s₀ (s.gangForm c size) := by
  unfold State.gangForm
  repeat' (first
    | with_reducible assumption
    | ((fail_if_no_progress extract_lets +onlyGivenNames u); refine (show Keeps s₀ u → _ from fun hu => ?_) ?_; (on_goal 1 => clear_value u); (on_goal 2 => unfold u))
    | ((fail_if_no_progress extract_lets +onlyGivenNames u); clear_value u)
    | (intro s1 a1 h1)
    | split
    | with_reducible apply State.updSeq_keeps
    | with_reducible apply State.stagedOpen_keeps
    | with_reducible apply State.forCh_keeps
    | with_reducible apply Keeps.foldl
    | with_reducible apply State.wr_keeps
    | with_reducible apply Keeps.parts
    | with_reducible apply Keeps.sec
    | with_reducible apply Keeps.drop
    | with_reducible apply Keeps.renew
    | (fail_if_no_progress dsimp -zeta only))

/-- `gangDissolve` keeps what every operation keeps. -/
theorem State.gangDissolve_keeps {s₀ s : State} (h : Keeps s₀ s) (c : Ch) : Keeps s₀ (s.gangDissolve c) := by
  unfold State.gangDissolve
  repeat' (first
    | with_reducible assumption
    | ((fail_if_no_progress extract_lets +onlyGivenNames u); refine (show Keeps s₀ u → _ from fun hu => ?_) ?_; (on_goal 1 => clear_value u); (on_goal 2 => unfold u))
    | ((fail_if_no_progress extract_lets +onlyGivenNames u); clear_value u)
    | (intro s1 a1 h1)
    | split
    | with_reducible apply State.enterHold_keeps
    | with_reducible apply State.dissolve_keeps
    | with_reducible apply State.forCh_keeps
    | with_reducible apply Keeps.foldl
    | with_reducible apply State.wr_keeps
    | with_reducible apply Keeps.parts
    | with_reducible apply Keeps.sec
    | with_reducible apply Keeps.drop
    | with_reducible apply Keeps.renew
    | (fail_if_no_progress dsimp -zeta only))

/-- `quietOff` keeps what every operation keeps. -/
theorem State.quietOff_keeps {s₀ s : State} (h : Keeps s₀ s) (c : Ch) : Keeps s₀ (s.quietOff c) := by
  unfold State.quietOff
  repeat' (first
    | with_reducible assumption
    | ((fail_if_no_progress extract_lets +onlyGivenNames u); refine (show Keeps s₀ u → _ from fun hu => ?_) ?_; (on_goal 1 => clear_value u); (on_goal 2 => unfold u))
    | ((fail_if_no_progress extract_lets +onlyGivenNames u); clear_value u)
    | (intro s1 a1 h1)
    | split
    | with_reducible apply State.updSeq_keeps
    | with_reducible apply State.updRun_keeps
    | with_reducible apply State.gatesOff_keeps
    | with_reducible apply State.stagedOpen_keeps
    | with_reducible apply State.failStep_keeps
    | with_reducible apply State.gangForm_keeps
    | with_reducible apply State.forCh_keeps
    | with_reducible apply Keeps.foldl
    | with_reducible apply State.wr_keeps
    | with_reducible apply Keeps.parts
    | with_reducible apply Keeps.sec
    | with_reducible apply Keeps.drop
    | with_reducible apply Keeps.renew
    | (fail_if_no_progress dsimp -zeta only))

/-- `beginStep` keeps what every operation keeps. -/
theorem State.beginStep_keeps {s₀ s : State} (h : Keeps s₀ s) (c : Ch) (cnt : Nat) (d : StepDesc) (gap : Nat) (gapEntry : Bool) : Keeps s₀ (s.beginStep c cnt d gap gapEntry) := by
  unfold State.beginStep
  repeat' (first
    | with_reducible assumption
    | ((fail_if_no_progress extract_lets +onlyGivenNames u); refine (show Keeps s₀ u → _ from fun hu => ?_) ?_; (on_goal 1 => clear_value u); (on_goal 2 => unfold u))
    | ((fail_if_no_progress extract_lets +onlyGivenNames u); clear_value u)
    | (intro s1 a1 h1)
    | split
    | with_reducible apply State.wr_keeps
    | with_reducible apply State.wr_keeps
    | with_reducible apply State.commitIf_keeps
    | with_reducible apply State.updLoop_keeps
    | with_reducible apply State.updSeq_keeps
    | with_reducible apply State.ledger_keeps
    | with_reducible apply State.rangeReq_keeps
    | with_reducible apply State.formSetpoint_keeps
    | with_reducible apply State.startGates_keeps
    | with_reducible apply State.tagArrive_keeps
    | with_reducible apply State.bankTo_keeps
    | with_reducible apply State.softStart_keeps
    | with_reducible apply State.quietOff_keeps
    | with_reducible apply State.forCh_keeps
    | with_reducible apply Keeps.foldl
    | with_reducible apply State.wr_keeps
    | with_reducible apply Keeps.parts
    | with_reducible apply Keeps.sec
    | with_reducible apply Keeps.drop
    | with_reducible apply Keeps.renew
    | (fail_if_no_progress dsimp -zeta only))

/-- `passTo` keeps what every operation keeps. -/
theorem State.passTo_keeps {s₀ s : State} (h : Keeps s₀ s) (c : Ch) (tgt : Nat) : Keeps s₀ (s.passTo c tgt) := by
  unfold State.passTo
  repeat' (first
    | with_reducible assumption
    | ((fail_if_no_progress extract_lets +onlyGivenNames u); refine (show Keeps s₀ u → _ from fun hu => ?_) ?_; (on_goal 1 => clear_value u); (on_goal 2 => unfold u))
    | ((fail_if_no_progress extract_lets +onlyGivenNames u); clear_value u)
    | (intro s1 a1 h1)
    | split
    | with_reducible apply State.updSeq_keeps
    | with_reducible apply State.updQ_keeps
    | with_reducible apply State.retireTo_keeps
    | with_reducible apply State.updNotice_keeps
    | with_reducible apply State.forCh_keeps
    | with_reducible apply Keeps.foldl
    | with_reducible apply State.wr_keeps
    | with_reducible apply Keeps.parts
    | with_reducible apply Keeps.sec
    | with_reducible apply Keeps.drop
    | with_reducible apply Keeps.renew
    | (fail_if_no_progress dsimp -zeta only))

/-- `popPre` keeps what every operation keeps. -/
theorem State.popPre_keeps {s₀ s : State} (h : Keeps s₀ s) (c : Ch) : Keeps s₀ (s.popPre c) := by
  unfold State.popPre
  repeat' (first
    | with_reducible assumption
    | ((fail_if_no_progress extract_lets +onlyGivenNames u); refine (show Keeps s₀ u → _ from fun hu => ?_) ?_; (on_goal 1 => clear_value u); (on_goal 2 => unfold u))
    | ((fail_if_no_progress extract_lets +onlyGivenNames u); clear_value u)
    | (intro s1 a1 h1)
    | split
    | with_reducible apply State.updQ_keeps
    | with_reducible apply State.forCh_keeps
    | with_reducible apply Keeps.foldl
    | with_reducible apply State.wr_keeps
    | with_reducible apply Keeps.parts
    | with_reducible apply Keeps.sec
    | with_reducible apply Keeps.drop
    | with_reducible apply Keeps.renew
    | (fail_if_no_progress dsimp -zeta only))

/-- `openGap` keeps what every operation keeps. -/
theorem State.openGap_keeps {s₀ s : State} (h : Keeps s₀ s) (c : Ch) : Keeps s₀ (s.openGap c) := by
  unfold State.openGap
  repeat' (first
    | with_reducible assumption
    | ((fail_if_no_progress extract_lets +onlyGivenNames u); refine (show Keeps s₀ u → _ from fun hu => ?_) ?_; (on_goal 1 => clear_value u); (on_goal 2 => unfold u))
    | ((fail_if_no_progress extract_lets +onlyGivenNames u); clear_value u)
    | (intro s1 a1 h1)
    | split
    | with_reducible apply State.wr_keeps
    | with_reducible apply State.wr_keeps
    | with_reducible apply State.updSeq_keeps
    | with_reducible apply State.ledger_keeps
    | with_reducible apply State.zeroSetpoint_keeps
    | with_reducible apply State.forCh_keeps
    | with_reducible apply Keeps.foldl
    | with_reducible apply State.wr_keeps
    | with_reducible apply Keeps.parts
    | with_reducible apply Keeps.sec
    | with_reducible apply Keeps.drop
    | with_reducible apply Keeps.renew
    | (fail_if_no_progress dsimp -zeta only))

/-- `holdAfter` keeps what every operation keeps. -/
theorem State.holdAfter_keeps {s₀ s : State} (h : Keeps s₀ s) (c : Ch) (why len : Nat) : Keeps s₀ (s.holdAfter c why len) := by
  unfold State.holdAfter
  repeat' (first
    | with_reducible assumption
    | ((fail_if_no_progress extract_lets +onlyGivenNames u); refine (show Keeps s₀ u → _ from fun hu => ?_) ?_; (on_goal 1 => clear_value u); (on_goal 2 => unfold u))
    | ((fail_if_no_progress extract_lets +onlyGivenNames u); clear_value u)
    | (intro s1 a1 h1)
    | split
    | with_reducible apply State.updSeq_keeps
    | with_reducible apply State.enterHold_keeps
    | with_reducible apply State.formSetpoint_keeps
    | with_reducible apply State.forCh_keeps
    | with_reducible apply Keeps.foldl
    | with_reducible apply State.wr_keeps
    | with_reducible apply Keeps.parts
    | with_reducible apply Keeps.sec
    | with_reducible apply Keeps.drop
    | with_reducible apply Keeps.renew
    | (fail_if_no_progress dsimp -zeta only))

/-- `invalidStep` keeps what every operation keeps. -/
theorem State.invalidStep_keeps {s₀ s : State} (h : Keeps s₀ s) (c : Ch) (cnt op len : Nat) : Keeps s₀ (s.invalidStep c cnt op len) := by
  unfold State.invalidStep
  repeat' (first
    | with_reducible assumption
    | ((fail_if_no_progress extract_lets +onlyGivenNames u); refine (show Keeps s₀ u → _ from fun hu => ?_) ?_; (on_goal 1 => clear_value u); (on_goal 2 => unfold u))
    | ((fail_if_no_progress extract_lets +onlyGivenNames u); clear_value u)
    | (intro s1 a1 h1)
    | split
    | with_reducible apply State.updSeq_keeps
    | with_reducible apply State.retireTo_keeps
    | with_reducible apply State.notice_keeps
    | with_reducible apply State.ledger_keeps
    | with_reducible apply State.enterHold_keeps
    | with_reducible apply State.withdraw_keeps
    | with_reducible apply State.holdAfter_keeps
    | with_reducible apply State.forCh_keeps
    | with_reducible apply Keeps.foldl
    | with_reducible apply State.wr_keeps
    | with_reducible apply Keeps.parts
    | with_reducible apply Keeps.sec
    | with_reducible apply Keeps.drop
    | with_reducible apply Keeps.renew
    | (fail_if_no_progress dsimp -zeta only))

/-- `takeDesc` keeps what every operation keeps. -/
theorem State.takeDesc_keeps {s₀ s : State} (h : Keeps s₀ s) (c : Ch) (cnt : Nat) (d : StepDesc) (ok : Bool) (gap : Nat) (gapEntry : Bool) (len : Nat) : Keeps s₀ (s.takeDesc c cnt d ok gap gapEntry len) := by
  unfold State.takeDesc
  repeat' (first
    | with_reducible assumption
    | ((fail_if_no_progress extract_lets +onlyGivenNames u); refine (show Keeps s₀ u → _ from fun hu => ?_) ?_; (on_goal 1 => clear_value u); (on_goal 2 => unfold u))
    | ((fail_if_no_progress extract_lets +onlyGivenNames u); clear_value u)
    | (intro s1 a1 h1)
    | split
    | with_reducible apply State.beginStep_keeps
    | with_reducible apply State.invalidStep_keeps
    | with_reducible apply State.forCh_keeps
    | with_reducible apply Keeps.foldl
    | with_reducible apply State.wr_keeps
    | with_reducible apply Keeps.parts
    | with_reducible apply Keeps.sec
    | with_reducible apply Keeps.drop
    | with_reducible apply Keeps.renew
    | (fail_if_no_progress dsimp -zeta only))

/-- `finishStep` keeps what every operation keeps. -/
theorem State.finishStep_keeps {s₀ s : State} (h : Keeps s₀ s) (c : Ch) (r : Run) (reason : Nat) (act : Byte) (next : Nat) : Keeps s₀ (s.finishStep c r reason act next) := by
  unfold State.finishStep
  repeat' (first
    | with_reducible assumption
    | ((fail_if_no_progress extract_lets +onlyGivenNames u); refine (show Keeps s₀ u → _ from fun hu => ?_) ?_; (on_goal 1 => clear_value u); (on_goal 2 => unfold u))
    | ((fail_if_no_progress extract_lets +onlyGivenNames u); clear_value u)
    | (intro s1 a1 h1)
    | split
    | with_reducible apply State.updSeq_keeps
    | with_reducible apply State.ledger_keeps
    | with_reducible apply State.postStep_keeps
    | with_reducible apply State.gangDissolve_keeps
    | with_reducible apply State.forCh_keeps
    | with_reducible apply Keeps.foldl
    | with_reducible apply State.wr_keeps
    | with_reducible apply Keeps.parts
    | with_reducible apply Keeps.sec
    | with_reducible apply Keeps.drop
    | with_reducible apply Keeps.renew
    | (fail_if_no_progress dsimp -zeta only))

/-- `endUpdate` keeps what every operation keeps. -/
theorem State.endUpdate_keeps {s₀ s : State} (h : Keeps s₀ s) (c : Ch) (cnt reason detail : Nat) : Keeps s₀ (s.endUpdate c cnt reason detail) := by
  unfold State.endUpdate
  repeat' (first
    | with_reducible assumption
    | ((fail_if_no_progress extract_lets +onlyGivenNames u); refine (show Keeps s₀ u → _ from fun hu => ?_) ?_; (on_goal 1 => clear_value u); (on_goal 2 => unfold u))
    | ((fail_if_no_progress extract_lets +onlyGivenNames u); clear_value u)
    | (intro s1 a1 h1)
    | split
    | with_reducible apply State.updSeq_keeps
    | with_reducible apply State.retireTo_keeps
    | with_reducible apply State.updNotice_keeps
    | with_reducible apply State.popPre_keeps
    | with_reducible apply State.forCh_keeps
    | with_reducible apply Keeps.foldl
    | with_reducible apply State.wr_keeps
    | with_reducible apply Keeps.parts
    | with_reducible apply Keeps.sec
    | with_reducible apply Keeps.drop
    | with_reducible apply Keeps.renew
    | (fail_if_no_progress dsimp -zeta only))

/-- `dropUpd` keeps what every operation keeps. -/
theorem State.dropUpd_keeps {s₀ s : State} (h : Keeps s₀ s) (c : Ch) (r : Run) : Keeps s₀ (s.dropUpd c r) := by
  unfold State.dropUpd
  repeat' (first
    | with_reducible assumption
    | ((fail_if_no_progress extract_lets +onlyGivenNames u); refine (show Keeps s₀ u → _ from fun hu => ?_) ?_; (on_goal 1 => clear_value u); (on_goal 2 => unfold u))
    | ((fail_if_no_progress extract_lets +onlyGivenNames u); clear_value u)
    | (intro s1 a1 h1)
    | split
    | with_reducible apply State.endUpdate_keeps
    | with_reducible apply State.forCh_keeps
    | with_reducible apply Keeps.foldl
    | with_reducible apply State.wr_keeps
    | with_reducible apply Keeps.parts
    | with_reducible apply Keeps.sec
    | with_reducible apply Keeps.drop
    | with_reducible apply Keeps.renew
    | (fail_if_no_progress dsimp -zeta only))

/-- `endAt` keeps what every operation keeps. -/
theorem State.endAt_keeps {s₀ s : State} (h : Keeps s₀ s) (c : Ch) (r : Run) (e : Ending) (late : Bool) : Keeps s₀ (s.endAt c r e late) := by
  unfold State.endAt
  repeat' (first
    | with_reducible assumption
    | ((fail_if_no_progress extract_lets +onlyGivenNames u); refine (show Keeps s₀ u → _ from fun hu => ?_) ?_; (on_goal 1 => clear_value u); (on_goal 2 => unfold u))
    | ((fail_if_no_progress extract_lets +onlyGivenNames u))
    | (intro s1 a1 h1)
    | split
    | with_reducible apply State.updSeq_keeps
    | with_reducible apply State.notice_keeps
    | with_reducible apply State.passTo_keeps
    | with_reducible apply State.popPre_keeps
    | with_reducible apply State.openGap_keeps
    | with_reducible apply State.holdAfter_keeps
    | with_reducible apply State.takeDesc_keeps
    | with_reducible apply State.finishStep_keeps
    | with_reducible apply State.dropUpd_keeps
    | with_reducible apply State.forCh_keeps
    | with_reducible apply Keeps.foldl
    | with_reducible apply State.wr_keeps
    | with_reducible apply Keeps.parts
    | with_reducible apply Keeps.sec
    | with_reducible apply Keeps.drop
    | with_reducible apply Keeps.renew
    | (fail_if_no_progress dsimp -zeta only))

/-- `transition` keeps what every operation keeps. -/
theorem State.transition_keeps {s₀ s : State} (h : Keeps s₀ s) (c : Ch) (late : Bool) : Keeps s₀ (s.transition c late) := by
  unfold State.transition
  repeat' (first
    | with_reducible assumption
    | ((fail_if_no_progress extract_lets +onlyGivenNames u); refine (show Keeps s₀ u → _ from fun hu => ?_) ?_; (on_goal 1 => clear_value u); (on_goal 2 => unfold u))
    | ((fail_if_no_progress extract_lets +onlyGivenNames u); clear_value u)
    | (intro s1 a1 h1)
    | split
    | with_reducible apply State.lateFault_keeps
    | with_reducible apply State.endAt_keeps
    | with_reducible apply State.forCh_keeps
    | with_reducible apply Keeps.foldl
    | with_reducible apply State.wr_keeps
    | with_reducible apply Keeps.parts
    | with_reducible apply Keeps.sec
    | with_reducible apply Keeps.drop
    | with_reducible apply Keeps.renew
    | (fail_if_no_progress dsimp -zeta only))

/-- `beginReady` keeps what every operation keeps. -/
theorem State.beginReady_keeps {s₀ s : State} (h : Keeps s₀ s) (c : Ch) (cnt : Nat) (d : StepDesc) (ok : Bool) : Keeps s₀ (s.beginReady c cnt d ok) := by
  unfold State.beginReady
  repeat' (first
    | with_reducible assumption
    | ((fail_if_no_progress extract_lets +onlyGivenNames u); refine (show Keeps s₀ u → _ from fun hu => ?_) ?_; (on_goal 1 => clear_value u); (on_goal 2 => unfold u))
    | ((fail_if_no_progress extract_lets +onlyGivenNames u); clear_value u)
    | (intro s1 a1 h1)
    | split
    | with_reducible apply State.takeDesc_keeps
    | with_reducible apply State.finishStep_keeps
    | with_reducible apply State.forCh_keeps
    | with_reducible apply Keeps.foldl
    | with_reducible apply State.wr_keeps
    | with_reducible apply Keeps.parts
    | with_reducible apply Keeps.sec
    | with_reducible apply Keeps.drop
    | with_reducible apply Keeps.renew
    | (fail_if_no_progress dsimp -zeta only))

/-- `decideEnd` keeps what every operation keeps. -/
theorem State.decideEnd_keeps {s₀ s : State} (h : Keeps s₀ s) (c : Ch) : Keeps s₀ (s.decideEnd c) := by
  unfold State.decideEnd
  repeat' (first
    | with_reducible assumption
    | ((fail_if_no_progress extract_lets +onlyGivenNames u); refine (show Keeps s₀ u → _ from fun hu => ?_) ?_; (on_goal 1 => clear_value u); (on_goal 2 => unfold u))
    | ((fail_if_no_progress extract_lets +onlyGivenNames u); clear_value u)
    | (intro s1 a1 h1)
    | split
    | with_reducible apply State.updRun_keeps
    | with_reducible apply State.forCh_keeps
    | with_reducible apply Keeps.foldl
    | with_reducible apply State.wr_keeps
    | with_reducible apply Keeps.parts
    | with_reducible apply Keeps.sec
    | with_reducible apply Keeps.drop
    | with_reducible apply Keeps.renew
    | (fail_if_no_progress dsimp -zeta only))

end Sys2Proof.Machine
end

