-- ==== Sys2Proof/Laws/KeepsLoopEngine.lean ====
section
/-! SUPPORT. What the operations of LoopEngine.lean keep (Keeps.lean). -/

set_option linter.all false
set_option linter.unusedTactic false
set_option linter.unreachableTactic false
namespace Sys2Proof.Machine

/-- `trWrite` keeps what every operation keeps. -/
theorem State.trWrite_keeps {s₀ s : State} (h : Keeps s₀ s) (c : Ch) (t : TrVals) : Keeps s₀ (s.trWrite c t) := by
  unfold State.trWrite
  repeat' (first
    | with_reducible assumption
    | ((fail_if_no_progress extract_lets +onlyGivenNames u); refine (show Keeps s₀ u → _ from fun hu => ?_) ?_; (on_goal 1 => clear_value u); (on_goal 2 => unfold u))
    | ((fail_if_no_progress extract_lets +onlyGivenNames u); clear_value u)
    | (intro s1 a1 h1)
    | split
    | with_reducible apply State.wr_keeps
    | with_reducible apply State.wr_keeps
    | with_reducible apply State.updQd_keeps
    | with_reducible apply State.forCh_keeps
    | with_reducible apply Keeps.foldl
    | with_reducible apply State.wr_keeps
    | with_reducible apply Keeps.parts
    | with_reducible apply Keeps.sec
    | with_reducible apply Keeps.drop
    | with_reducible apply Keeps.renew
    | (fail_if_no_progress dsimp -zeta only))

/-- `trWithhold` keeps what every operation keeps. -/
theorem State.trWithhold_keeps {s₀ s : State} (h : Keeps s₀ s) (c : Ch) : Keeps s₀ (s.trWithhold c) := by
  unfold State.trWithhold
  repeat' (first
    | with_reducible assumption
    | ((fail_if_no_progress extract_lets +onlyGivenNames u); refine (show Keeps s₀ u → _ from fun hu => ?_) ?_; (on_goal 1 => clear_value u); (on_goal 2 => unfold u))
    | ((fail_if_no_progress extract_lets +onlyGivenNames u))
    | (intro s1 a1 h1)
    | split
    | with_reducible apply State.updQd_keeps
    | with_reducible apply State.forCh_keeps
    | with_reducible apply Keeps.foldl
    | with_reducible apply State.wr_keeps
    | with_reducible apply Keeps.parts
    | with_reducible apply Keeps.sec
    | with_reducible apply Keeps.drop
    | with_reducible apply Keeps.renew
    | (fail_if_no_progress dsimp -zeta only))

/-- `trigCh` keeps what every operation keeps. -/
theorem State.trigCh_keeps {s₀ s : State} (h : Keeps s₀ s) (c : Ch) (n : Nat) : Keeps s₀ (s.trigCh c n) := by
  unfold State.trigCh
  repeat' (first
    | with_reducible assumption
    | ((fail_if_no_progress extract_lets +onlyGivenNames u); refine (show Keeps s₀ u → _ from fun hu => ?_) ?_; (on_goal 1 => clear_value u); (on_goal 2 => unfold u))
    | ((fail_if_no_progress extract_lets +onlyGivenNames u); clear_value u)
    | (intro s1 a1 h1)
    | split
    | with_reducible apply State.traceTrig_keeps
    | with_reducible apply State.forCh_keeps
    | with_reducible apply Keeps.foldl
    | with_reducible apply State.wr_keeps
    | with_reducible apply Keeps.parts
    | with_reducible apply Keeps.sec
    | with_reducible apply Keeps.drop
    | with_reducible apply Keeps.renew
    | (fail_if_no_progress dsimp -zeta only))

/-- `slotPrepare` keeps what every operation keeps. -/
theorem State.slotPrepare_keeps {s₀ s : State} (h : Keeps s₀ s) (c : Ch) (p : Prof) (cold : Bool) : Keeps s₀ (s.slotPrepare c p cold) := by
  unfold State.slotPrepare
  repeat' (first
    | with_reducible assumption
    | ((fail_if_no_progress extract_lets +onlyGivenNames u); refine (show Keeps s₀ u → _ from fun hu => ?_) ?_; (on_goal 1 => clear_value u); (on_goal 2 => unfold u))
    | ((fail_if_no_progress extract_lets +onlyGivenNames u); clear_value u)
    | (intro s1 a1 h1)
    | split
    | with_reducible apply State.updLoop_keeps
    | with_reducible apply State.updRun_keeps
    | with_reducible apply State.forCh_keeps
    | with_reducible apply Keeps.foldl
    | with_reducible apply State.wr_keeps
    | with_reducible apply Keeps.parts
    | with_reducible apply Keeps.sec
    | with_reducible apply Keeps.drop
    | with_reducible apply Keeps.renew
    | (fail_if_no_progress dsimp -zeta only))

/-- `trOf` keeps what every operation keeps. -/
theorem State.trOf_keeps {s₀ s : State} (h : Keeps s₀ s) (c : Ch) (p : Prof) (f : Formed) (y : Int) (k : Nat) (withheld susp : Bool) (outer : Int) : Keeps s₀ (s.trOf c p f y k withheld susp outer).2 := by
  unfold State.trOf
  obtain ⟨o, w, e, iHat, yHat⟩ := f
  cases iHat <;> cases yHat
  · exact State.takeInt_keeps (State.takeInt_keeps h)
  · exact State.takeInt_keeps h
  · exact State.takeInt_keeps h
  · exact h

/-- `feTick` keeps what every operation keeps. -/
theorem State.feTick_keeps {s₀ s : State} (h : Keeps s₀ s) (c : Ch) (p : Prof) (y : Int) (susp : Bool) : Keeps s₀ (s.feTick c p y susp) := by
  unfold State.feTick
  repeat' (first
    | with_reducible assumption
    | ((fail_if_no_progress extract_lets +onlyGivenNames u); refine (show Keeps s₀ u → _ from fun hu => ?_) ?_; (on_goal 1 => clear_value u); (on_goal 2 => unfold u))
    | ((fail_if_no_progress extract_lets +onlyGivenNames u); clear_value u)
    | (intro s1 a1 h1)
    | split
    | with_reducible apply State.updLoop_keeps
    | with_reducible apply State.trigCh_keeps
    | with_reducible apply State.forCh_keeps
    | with_reducible apply Keeps.foldl
    | with_reducible apply State.wr_keeps
    | with_reducible apply Keeps.parts
    | with_reducible apply Keeps.sec
    | with_reducible apply Keeps.drop
    | with_reducible apply Keeps.renew
    | (fail_if_no_progress dsimp -zeta only))

/-- `leCheck` keeps what every operation keeps. -/
theorem State.leCheck_keeps {s₀ s : State} (h : Keeps s₀ s) (c : Ch) : Keeps s₀ (s.leCheck c) := by
  unfold State.leCheck
  repeat' (first
    | with_reducible assumption
    | ((fail_if_no_progress extract_lets +onlyGivenNames u); refine (show Keeps s₀ u → _ from fun hu => ?_) ?_; (on_goal 1 => clear_value u); (on_goal 2 => unfold u))
    | ((fail_if_no_progress extract_lets +onlyGivenNames u); clear_value u)
    | (intro s1 a1 h1)
    | split
    | with_reducible apply State.updLoop_keeps
    | with_reducible apply State.raise_keeps
    | with_reducible apply State.faultStop_keeps
    | with_reducible apply State.forCh_keeps
    | with_reducible apply Keeps.foldl
    | with_reducible apply State.wr_keeps
    | with_reducible apply Keeps.parts
    | with_reducible apply Keeps.sec
    | with_reducible apply Keeps.drop
    | with_reducible apply Keeps.renew
    | (fail_if_no_progress dsimp -zeta only))

/-- `leStepGo` keeps what every operation keeps. -/
theorem State.leStepGo_keeps {s₀ s : State} (h : Keeps s₀ s) (c : Ch) : Keeps s₀ (s.leStepGo c) := by
  unfold State.leStepGo
  extract_lets +onlyGivenNames l
  clear_value l
  split
  · rename_i p _ _
    extract_lets +onlyGivenNames y b f outer
    clear_value outer f b y
    have ht := State.trOf_keeps h c p f y l.k false (s.feOff c) outer
    generalize s.trOf c p f y l.k false (s.feOff c) outer = r at ht
    obtain ⟨t, s'⟩ := r
    exact State.trWrite_keeps (State.updLoop_keeps ht ..) ..
  · exact h

/-- `stage` keeps what every operation keeps. -/
theorem State.stage_keeps {s₀ s : State} (h : Keeps s₀ s) (q : Quad) (p : Prof) : Keeps s₀ (s.stage q p) := by
  unfold State.stage
  repeat' (first
    | with_reducible assumption
    | ((fail_if_no_progress extract_lets +onlyGivenNames u); refine (show Keeps s₀ u → _ from fun hu => ?_) ?_; (on_goal 1 => clear_value u); (on_goal 2 => unfold u))
    | ((fail_if_no_progress extract_lets +onlyGivenNames u); clear_value u)
    | (intro s1 a1 h1)
    | split
    | with_reducible apply State.wr_keeps
    | with_reducible apply State.wr_keeps
    | with_reducible apply State.wrS_keeps
    | with_reducible apply State.wb_keeps
    | with_reducible apply State.forCh_keeps
    | with_reducible apply Keeps.foldl
    | with_reducible apply State.wr_keeps
    | with_reducible apply Keeps.parts
    | with_reducible apply Keeps.sec
    | with_reducible apply Keeps.drop
    | with_reducible apply Keeps.renew
    | (fail_if_no_progress dsimp -zeta only))

/-- `fxPcmd` keeps what every operation keeps. -/
theorem State.fxPcmd_keeps {s₀ s : State} (h : Keeps s₀ s) (q : Quad) (cmd slot : Nat) : Keeps s₀ (s.fxPcmd q cmd slot) := by
  unfold State.fxPcmd
  repeat' (first
    | with_reducible assumption
    | ((fail_if_no_progress extract_lets +onlyGivenNames u); refine (show Keeps s₀ u → _ from fun hu => ?_) ?_; (on_goal 1 => clear_value u); (on_goal 2 => unfold u))
    | ((fail_if_no_progress extract_lets +onlyGivenNames u); clear_value u)
    | (intro s1 a1 h1)
    | split
    | with_reducible apply State.wr_keeps
    | with_reducible apply State.wr_keeps
    | with_reducible apply State.updQd_keeps
    | with_reducible apply State.stage_keeps
    | with_reducible apply State.forCh_keeps
    | with_reducible apply Keeps.foldl
    | with_reducible apply State.wr_keeps
    | with_reducible apply Keeps.parts
    | with_reducible apply Keeps.sec
    | with_reducible apply Keeps.drop
    | with_reducible apply Keeps.renew
    | (fail_if_no_progress dsimp -zeta only))

/-- `fxTrctl` keeps what every operation keeps. -/
theorem State.fxTrctl_keeps {s₀ s : State} (h : Keeps s₀ s) (q : Quad) (en sw : Bool) : Keeps s₀ (s.fxTrctl q en sw) := by
  unfold State.fxTrctl
  repeat' (first
    | with_reducible assumption
    | ((fail_if_no_progress extract_lets +onlyGivenNames u); refine (show Keeps s₀ u → _ from fun hu => ?_) ?_; (on_goal 1 => clear_value u); (on_goal 2 => unfold u))
    | ((fail_if_no_progress extract_lets +onlyGivenNames u); clear_value u)
    | (intro s1 a1 h1)
    | split
    | with_reducible apply State.wr_keeps
    | with_reducible apply State.wr_keeps
    | with_reducible apply State.traceTrig_keeps
    | with_reducible apply State.forCh_keeps
    | with_reducible apply Keeps.foldl
    | with_reducible apply State.wr_keeps
    | with_reducible apply Keeps.parts
    | with_reducible apply Keeps.sec
    | with_reducible apply Keeps.drop
    | with_reducible apply Keeps.renew
    | (fail_if_no_progress dsimp -zeta only))

/-- `rdTrdata` keeps what every operation keeps. -/
theorem State.rdTrdata_keeps {s₀ s : State} (h : Keeps s₀ s) (q : Quad) : Keeps s₀ (s.rdTrdata q) := by
  unfold State.rdTrdata
  repeat' (first
    | with_reducible assumption
    | ((fail_if_no_progress extract_lets +onlyGivenNames u); refine (show Keeps s₀ u → _ from fun hu => ?_) ?_; (on_goal 1 => clear_value u); (on_goal 2 => unfold u))
    | ((fail_if_no_progress extract_lets +onlyGivenNames u); clear_value u)
    | (intro s1 a1 h1)
    | split
    | with_reducible apply State.incWrap_keeps
    | with_reducible apply State.forCh_keeps
    | with_reducible apply Keeps.foldl
    | with_reducible apply State.wr_keeps
    | with_reducible apply Keeps.parts
    | with_reducible apply Keeps.sec
    | with_reducible apply Keeps.drop
    | with_reducible apply Keeps.renew
    | (fail_if_no_progress dsimp -zeta only))

/-- `traceTick` keeps what every operation keeps. -/
theorem State.traceTick_keeps {s₀ s : State} (h : Keeps s₀ s) (q : Quad) (t : Nat) : Keeps s₀ (s.traceTick q t) := by
  unfold State.traceTick
  repeat' (first
    | with_reducible assumption
    | ((fail_if_no_progress extract_lets +onlyGivenNames u); refine (show Keeps s₀ u → _ from fun hu => ?_) ?_; (on_goal 1 => clear_value u); (on_goal 2 => unfold u))
    | ((fail_if_no_progress extract_lets +onlyGivenNames u); clear_value u)
    | (intro s1 a1 h1)
    | split
    | with_reducible apply State.updQd_keeps
    | with_reducible apply State.forCh_keeps
    | with_reducible apply Keeps.foldl
    | with_reducible apply State.wr_keeps
    | with_reducible apply Keeps.parts
    | with_reducible apply Keeps.sec
    | with_reducible apply Keeps.drop
    | with_reducible apply Keeps.renew
    | (fail_if_no_progress dsimp -zeta only))

end Sys2Proof.Machine
end

