-- ==== Sys2Proof/Laws/KeepsBoot.lean ====
section
/-! SUPPORT. What the operations of Boot.lean keep (Keeps.lean). -/

set_option linter.all false
set_option linter.unusedTactic false
set_option linter.unreachableTactic false
namespace Sys2Proof.Machine

/-- `bootFails` keeps what every operation keeps. -/
theorem State.bootFails_keeps {s₀ s : State} (h : Keeps s₀ s) (err : Nat) : Keeps s₀ (s.bootFails err) := by
  unfold State.bootFails
  repeat' (first
    | with_reducible assumption
    | ((fail_if_no_progress extract_lets +onlyGivenNames u); refine (show Keeps s₀ u → _ from fun hu => ?_) ?_; (on_goal 1 => clear_value u); (on_goal 2 => unfold u))
    | ((fail_if_no_progress extract_lets +onlyGivenNames u); clear_value u)
    | (intro s1 a1 h1)
    | split
    | with_reducible apply State.wr_keeps
    | with_reducible apply State.wr_keeps
    | with_reducible apply State.forCh_keeps
    | with_reducible apply Keeps.foldl
    | with_reducible apply State.wr_keeps
    | with_reducible apply Keeps.parts
    | with_reducible apply Keeps.sec
    | with_reducible apply Keeps.drop
    | with_reducible apply Keeps.renew
    | (fail_if_no_progress dsimp -zeta only))

/-- `advanceRbc` keeps what every operation keeps. -/
theorem State.advanceRbc_keeps {s₀ s : State} (h : Keeps s₀ s) : Keeps s₀ (s.advanceRbc) := by
  unfold State.advanceRbc
  split
  · split
    · rename_i i _ hc
      simp only [Bool.and_eq_true, decide_eq_true_eq] at hc
      exact h.trans ⟨rfl, rfl, rfl, id, fun hl => ⟨Nat.le_of_lt hc.2, Nat.le_refl _, hl, BitVec.and_self, id⟩⟩
    · exact h
  · exact h

/-- `enterStandby` keeps what every operation keeps. -/
theorem State.enterStandby_keeps {s₀ s : State} (h : Keeps s₀ s) : Keeps s₀ (s.enterStandby) := by
  unfold State.enterStandby
  repeat' (first
    | with_reducible assumption
    | ((fail_if_no_progress extract_lets +onlyGivenNames u); refine (show Keeps s₀ u → _ from fun hu => ?_) ?_; (on_goal 1 => clear_value u); (on_goal 2 => unfold u))
    | ((fail_if_no_progress extract_lets +onlyGivenNames u); clear_value u)
    | (intro s1 a1 h1)
    | split
    | with_reducible apply State.setMode_keeps
    | with_reducible apply State.advanceRbc_keeps
    | with_reducible apply State.forCh_keeps
    | with_reducible apply Keeps.foldl
    | with_reducible apply State.wr_keeps
    | with_reducible apply Keeps.parts
    | with_reducible apply Keeps.sec
    | with_reducible apply Keeps.drop
    | with_reducible apply Keeps.renew
    | (fail_if_no_progress dsimp -zeta only))

/-- `leaveBoot` keeps what every operation keeps. -/
theorem State.leaveBoot_keeps {s₀ s : State} (h : Keeps s₀ s) : Keeps s₀ (s.leaveBoot) := by
  unfold State.leaveBoot
  repeat' (first
    | with_reducible assumption
    | ((fail_if_no_progress extract_lets +onlyGivenNames u); refine (show Keeps s₀ u → _ from fun hu => ?_) ?_; (on_goal 1 => clear_value u); (on_goal 2 => unfold u))
    | ((fail_if_no_progress extract_lets +onlyGivenNames u); clear_value u)
    | (intro s1 a1 h1)
    | split
    | with_reducible apply State.dumpTrigger_keeps
    | with_reducible apply State.setMode_keeps
    | with_reducible apply State.enterStandby_keeps
    | with_reducible apply State.forCh_keeps
    | with_reducible apply Keeps.foldl
    | with_reducible apply State.wr_keeps
    | with_reducible apply Keeps.parts
    | with_reducible apply Keeps.sec
    | with_reducible apply Keeps.drop
    | with_reducible apply Keeps.renew
    | (fail_if_no_progress dsimp -zeta only))

/-- `blkClears` keeps what every operation keeps. -/
theorem State.blkClears_keeps {s₀ s : State} (h : Keeps s₀ s) : Keeps s₀ (s.blkClears) := by
  unfold State.blkClears
  repeat' (first
    | with_reducible assumption
    | ((fail_if_no_progress extract_lets +onlyGivenNames u); refine (show Keeps s₀ u → _ from fun hu => ?_) ?_; (on_goal 1 => clear_value u); (on_goal 2 => unfold u))
    | ((fail_if_no_progress extract_lets +onlyGivenNames u); clear_value u)
    | (intro s1 a1 h1)
    | split
    | with_reducible apply State.condGone_keeps
    | with_reducible apply State.clear_keeps
    | with_reducible apply State.forCh_keeps
    | with_reducible apply Keeps.foldl
    | with_reducible apply State.wr_keeps
    | with_reducible apply Keeps.parts
    | with_reducible apply Keeps.sec
    | with_reducible apply Keeps.drop
    | with_reducible apply Keeps.renew
    | (fail_if_no_progress dsimp -zeta only))

/-- `safThresholds` keeps what every operation keeps. -/
theorem State.safThresholds_keeps {s₀ s : State} (h : Keeps s₀ s) : Keeps s₀ (s.safThresholds) := by
  unfold State.safThresholds
  repeat' (first
    | with_reducible assumption
    | ((fail_if_no_progress extract_lets +onlyGivenNames u); refine (show Keeps s₀ u → _ from fun hu => ?_) ?_; (on_goal 1 => clear_value u); (on_goal 2 => unfold u))
    | ((fail_if_no_progress extract_lets +onlyGivenNames u); clear_value u)
    | (intro s1 a1 h1)
    | split
    | with_reducible apply State.wr_keeps
    | with_reducible apply State.wr_keeps
    | with_reducible apply State.cmpRestart_keeps
    | with_reducible apply State.forCh_keeps
    | with_reducible apply Keeps.foldl
    | with_reducible apply State.wr_keeps
    | with_reducible apply Keeps.parts
    | with_reducible apply Keeps.sec
    | with_reducible apply Keeps.drop
    | with_reducible apply Keeps.renew
    | (fail_if_no_progress dsimp -zeta only))

/-- `bootDone` keeps what every operation keeps. -/
theorem State.bootDone_keeps {s₀ s : State} (h : Keeps s₀ s) : Keeps s₀ (s.bootDone) := by
  unfold State.bootDone
  repeat' (first
    | with_reducible assumption
    | ((fail_if_no_progress extract_lets +onlyGivenNames u); refine (show Keeps s₀ u → _ from fun hu => ?_) ?_; (on_goal 1 => clear_value u); (on_goal 2 => unfold u))
    | ((fail_if_no_progress extract_lets +onlyGivenNames u); clear_value u)
    | (intro s1 a1 h1)
    | split
    | with_reducible apply State.wr_keeps
    | with_reducible apply State.wr_keeps
    | with_reducible apply State.leaveBoot_keeps
    | with_reducible apply State.safThresholds_keeps
    | with_reducible apply State.forCh_keeps
    | with_reducible apply Keeps.foldl
    | with_reducible apply State.wr_keeps
    | with_reducible apply Keeps.parts
    | with_reducible apply Keeps.sec
    | with_reducible apply Keeps.drop
    | with_reducible apply Keeps.renew
    | (fail_if_no_progress dsimp -zeta only))

/-- `useImages` keeps what every operation keeps. -/
theorem State.useImages_keeps {s₀ s : State} (h : Keeps s₀ s) (m : Manifest) (slot src : Nat) : Keeps s₀ (s.useImages m slot src) := by
  unfold State.useImages
  repeat' (first
    | with_reducible assumption
    | ((fail_if_no_progress extract_lets +onlyGivenNames u); refine (show Keeps s₀ u → _ from fun hu => ?_) ?_; (on_goal 1 => clear_value u); (on_goal 2 => unfold u))
    | ((fail_if_no_progress extract_lets +onlyGivenNames u))
    | (intro s1 a1 h1)
    | split
    | with_reducible apply State.wr_keeps
    | with_reducible apply State.wr_keeps
    | with_reducible apply State.forCh_keeps
    | with_reducible apply Keeps.foldl
    | with_reducible apply State.wr_keeps
    | with_reducible apply Keeps.parts
    | with_reducible apply Keeps.sec
    | with_reducible apply Keeps.drop
    | with_reducible apply Keeps.renew
    | (fail_if_no_progress dsimp -zeta only))

/-- `slotBoot` keeps what every operation keeps. -/
theorem State.slotBoot_keeps {s₀ s : State} (h : Keeps s₀ s) (a b : Option Manifest) : Keeps s₀ (s.slotBoot a b).1 := by
  unfold State.slotBoot
  extract_lets +onlyGivenNames one xa xb bFirst p r
  clear_value r
  split
  · exact State.useImages_keeps h ..
  · extract_lets +onlyGivenNames r2
    clear_value r2
    split
    · exact State.useImages_keeps h ..
    · exact State.wr_keeps h ..

/-- `fullBoot` keeps what every operation keeps. -/
theorem State.fullBoot_keeps {s₀ s : State} (h : Keeps s₀ s) (i : BootIn) : Keeps s₀ (s.fullBoot i) := by
  unfold State.fullBoot
  extract_lets +onlyGivenNames sel
  split
  · exact State.bootFails_keeps h ..
  split
  · exact State.bootDone_keeps h
  split
  · exact State.wr_keeps h ..
  have ht := State.slotBoot_keeps h i.slotA i.slotB
  generalize s.slotBoot i.slotA i.slotB = r at ht
  obtain ⟨t, ok⟩ := r
  dsimp -zeta only
  split
  · exact State.bootDone_keeps ht
  split
  · exact State.bootFails_keeps ht ..
  · exact State.wr_keeps (State.wr_keeps ht ..) ..

/-- `bootGo` keeps what every operation keeps. -/
theorem State.bootGo_keeps {s₀ s : State} (h : Keeps s₀ s) (m : Option Manifest) : Keeps s₀ (s.bootGo m) := by
  unfold State.bootGo
  repeat' (first
    | with_reducible assumption
    | ((fail_if_no_progress extract_lets +onlyGivenNames u); refine (show Keeps s₀ u → _ from fun hu => ?_) ?_; (on_goal 1 => clear_value u); (on_goal 2 => unfold u))
    | ((fail_if_no_progress extract_lets +onlyGivenNames u); clear_value u)
    | (intro s1 a1 h1)
    | split
    | with_reducible apply State.wr_keeps
    | with_reducible apply State.wr_keeps
    | with_reducible apply State.useImages_keeps
    | with_reducible apply State.forCh_keeps
    | with_reducible apply Keeps.foldl
    | with_reducible apply State.wr_keeps
    | with_reducible apply Keeps.parts
    | with_reducible apply Keeps.sec
    | with_reducible apply Keeps.drop
    | with_reducible apply Keeps.renew
    | (fail_if_no_progress dsimp -zeta only))

/-- `newChallenge` keeps what every operation keeps. -/
theorem State.newChallenge_keeps {s₀ s : State} (h : Keeps s₀ s) : Keeps s₀ (s.newChallenge) := by
  unfold State.newChallenge
  refine State.wr_keeps (Keeps.foldl _ (fun t i ht => ?_) h) ..
  have hk := State.takeNat_keeps ht
  generalize t.takeNat = r at hk
  obtain ⟨w, t'⟩ := r
  exact State.wr_keeps hk ..

/-- `rdDdata` keeps what every operation keeps. -/
theorem State.rdDdata_keeps {s₀ s : State} (h : Keeps s₀ s) : Keeps s₀ (s.rdDdata) := by
  unfold State.rdDdata
  repeat' (first
    | with_reducible assumption
    | ((fail_if_no_progress extract_lets +onlyGivenNames u); refine (show Keeps s₀ u → _ from fun hu => ?_) ?_; (on_goal 1 => clear_value u); (on_goal 2 => unfold u))
    | ((fail_if_no_progress extract_lets +onlyGivenNames u); clear_value u)
    | (intro s1 a1 h1)
    | split
    | with_reducible apply State.wr_keeps
    | with_reducible apply State.wr_keeps
    | with_reducible apply State.forCh_keeps
    | with_reducible apply Keeps.foldl
    | with_reducible apply State.wr_keeps
    | with_reducible apply Keeps.parts
    | with_reducible apply Keeps.sec
    | with_reducible apply Keeps.drop
    | with_reducible apply Keeps.renew
    | (fail_if_no_progress dsimp -zeta only))

end Sys2Proof.Machine
end

