-- ==== Sys2Proof/Laws/KeepsMotion.lean ====
section
/-! SUPPORT. What the operations of Motion.lean keep (Keeps.lean). -/

set_option linter.all false
set_option linter.unusedTactic false
set_option linter.unreachableTactic false
namespace Sys2Proof.Machine

/-- `updCmd` keeps what every operation keeps. -/
theorem State.updCmd_keeps {s₀ s : State} (h : Keeps s₀ s) (f : MotCmd → MotCmd) : Keeps s₀ (s.updCmd f) := by
  unfold State.updCmd
  repeat' (first
    | with_reducible assumption
    | ((fail_if_no_progress extract_lets +onlyGivenNames u); refine (show Keeps s₀ u → _ from fun hu => ?_) ?_; (on_goal 1 => clear_value u); (on_goal 2 => unfold u))
    | ((fail_if_no_progress extract_lets +onlyGivenNames u); clear_value u)
    | (intro s1 a1 h1)
    | split
    | with_reducible apply State.forCh_keeps
    | with_reducible apply Keeps.foldl
    | with_reducible apply State.wr_keeps
    | with_reducible apply Keeps.parts
    | with_reducible apply Keeps.sec
    | with_reducible apply Keeps.drop
    | with_reducible apply Keeps.renew
    | (fail_if_no_progress dsimp -zeta only))

/-- `profileHere` keeps what every operation keeps. -/
theorem State.profileHere_keeps {s₀ s : State} (h : Keeps s₀ s) : Keeps s₀ (s.profileHere) := by
  unfold State.profileHere
  repeat' (first
    | with_reducible assumption
    | ((fail_if_no_progress extract_lets +onlyGivenNames u); refine (show Keeps s₀ u → _ from fun hu => ?_) ?_; (on_goal 1 => clear_value u); (on_goal 2 => unfold u))
    | ((fail_if_no_progress extract_lets +onlyGivenNames u); clear_value u)
    | (intro s1 a1 h1)
    | split
    | with_reducible apply State.forCh_keeps
    | with_reducible apply Keeps.foldl
    | with_reducible apply State.wr_keeps
    | with_reducible apply Keeps.parts
    | with_reducible apply Keeps.sec
    | with_reducible apply Keeps.drop
    | with_reducible apply Keeps.renew
    | (fail_if_no_progress dsimp -zeta only))

/-- `motGo` keeps what every operation keeps. -/
theorem State.motGo_keeps {s₀ s : State} (h : Keeps s₀ s) : Keeps s₀ (s.motGo) := by
  unfold State.motGo
  repeat' (first
    | with_reducible assumption
    | ((fail_if_no_progress extract_lets +onlyGivenNames u); refine (show Keeps s₀ u → _ from fun hu => ?_) ?_; (on_goal 1 => clear_value u); (on_goal 2 => unfold u))
    | ((fail_if_no_progress extract_lets +onlyGivenNames u); clear_value u)
    | (intro s1 a1 h1)
    | split
    | with_reducible apply State.updCmd_keeps
    | with_reducible apply State.profileHere_keeps
    | with_reducible apply State.forCh_keeps
    | with_reducible apply Keeps.foldl
    | with_reducible apply State.wr_keeps
    | with_reducible apply Keeps.parts
    | with_reducible apply Keeps.sec
    | with_reducible apply Keeps.drop
    | with_reducible apply Keeps.renew
    | (fail_if_no_progress dsimp -zeta only))

/-- `motStart` keeps what every operation keeps. -/
theorem State.motStart_keeps {s₀ s : State} (h : Keeps s₀ s) : Keeps s₀ (s.motStart) := by
  unfold State.motStart
  repeat' (first
    | with_reducible assumption
    | ((fail_if_no_progress extract_lets +onlyGivenNames u); refine (show Keeps s₀ u → _ from fun hu => ?_) ?_; (on_goal 1 => clear_value u); (on_goal 2 => unfold u))
    | ((fail_if_no_progress extract_lets +onlyGivenNames u); clear_value u)
    | (intro s1 a1 h1)
    | split
    | with_reducible apply State.wr_keeps
    | with_reducible apply State.wr_keeps
    | with_reducible apply State.motFail_keeps
    | with_reducible apply State.motRaise_keeps
    | with_reducible apply State.forCh_keeps
    | with_reducible apply Keeps.foldl
    | with_reducible apply State.wr_keeps
    | with_reducible apply Keeps.parts
    | with_reducible apply Keeps.sec
    | with_reducible apply Keeps.drop
    | with_reducible apply Keeps.renew
    | (fail_if_no_progress dsimp -zeta only))

/-- `motBegin` keeps what every operation keeps. -/
theorem State.motBegin_keeps {s₀ s : State} (h : Keeps s₀ s) (d : MotionDesc) (idx : Nat) : Keeps s₀ (s.motBegin d idx) := by
  unfold State.motBegin
  extract_lets +onlyGivenNames a u
  have hu : Keeps s₀ u := Keeps.parts h ..
  split
  · exact State.motFail_keeps hu ..
  · extract_lets +onlyGivenNames v
    refine (show Keeps s₀ v → _ from fun hv => ?_) ?_
    · split
      · exact State.motStart_keeps hv
      · exact State.motGo_keeps hv
    · unfold v
      split
      · exact State.wr_keeps hu ..
      · exact hu

/-- `popMot` keeps what every operation keeps. -/
theorem State.popMot_keeps {s₀ s : State} (h : Keeps s₀ s) : Keeps s₀ (s.popMot) := by
  unfold State.popMot
  repeat' (first
    | with_reducible assumption
    | ((fail_if_no_progress extract_lets +onlyGivenNames u); refine (show Keeps s₀ u → _ from fun hu => ?_) ?_; (on_goal 1 => clear_value u); (on_goal 2 => unfold u))
    | ((fail_if_no_progress extract_lets +onlyGivenNames u); clear_value u)
    | (intro s1 a1 h1)
    | split
    | with_reducible apply State.updQ_keeps
    | with_reducible apply State.forCh_keeps
    | with_reducible apply Keeps.foldl
    | with_reducible apply State.wr_keeps
    | with_reducible apply Keeps.parts
    | with_reducible apply Keeps.sec
    | with_reducible apply Keeps.drop
    | with_reducible apply Keeps.renew
    | (fail_if_no_progress dsimp -zeta only))

/-- `takeMotion` keeps what every operation keeps. -/
theorem State.takeMotion_keeps {s₀ s : State} (h : Keeps s₀ s) (op : Nat) (idx : Half) (d : MotionDesc) : Keeps s₀ (s.takeMotion op idx d) := by
  unfold State.takeMotion
  repeat' (first
    | with_reducible assumption
    | ((fail_if_no_progress extract_lets +onlyGivenNames u); refine (show Keeps s₀ u → _ from fun hu => ?_) ?_; (on_goal 1 => clear_value u); (on_goal 2 => unfold u))
    | ((fail_if_no_progress extract_lets +onlyGivenNames u); clear_value u)
    | (intro s1 a1 h1)
    | split
    | with_reducible apply State.motBegin_keeps
    | with_reducible apply State.popMot_keeps
    | with_reducible apply State.forCh_keeps
    | with_reducible apply Keeps.foldl
    | with_reducible apply State.wr_keeps
    | with_reducible apply Keeps.parts
    | with_reducible apply Keeps.sec
    | with_reducible apply Keeps.drop
    | with_reducible apply Keeps.renew
    | (fail_if_no_progress dsimp -zeta only))

/-- `revokeMotion` keeps what every operation keeps. -/
theorem State.revokeMotion_keeps {s₀ s : State} (h : Keeps s₀ s) (ps : List PreDesc) : Keeps s₀ (s.revokeMotion ps) := by
  unfold State.revokeMotion
  repeat' (first
    | with_reducible assumption
    | ((fail_if_no_progress extract_lets +onlyGivenNames u); refine (show Keeps s₀ u → _ from fun hu => ?_) ?_; (on_goal 1 => clear_value u); (on_goal 2 => unfold u))
    | ((fail_if_no_progress extract_lets +onlyGivenNames u); clear_value u)
    | (intro s1 a1 h1)
    | split
    | with_reducible apply State.updQ_keeps
    | with_reducible apply State.notice_keeps
    | with_reducible apply State.forCh_keeps
    | with_reducible apply Keeps.foldl
    | with_reducible apply State.wr_keeps
    | with_reducible apply Keeps.parts
    | with_reducible apply Keeps.sec
    | with_reducible apply Keeps.drop
    | with_reducible apply Keeps.renew
    | (fail_if_no_progress dsimp -zeta only))

/-- `stopClears` keeps what every operation keeps. -/
theorem State.stopClears_keeps {s₀ s : State} (h : Keeps s₀ s) : Keeps s₀ (s.stopClears) := by
  unfold State.stopClears
  repeat' (first
    | with_reducible assumption
    | ((fail_if_no_progress extract_lets +onlyGivenNames u); refine (show Keeps s₀ u → _ from fun hu => ?_) ?_; (on_goal 1 => clear_value u); (on_goal 2 => unfold u))
    | ((fail_if_no_progress extract_lets +onlyGivenNames u); clear_value u)
    | (intro s1 a1 h1)
    | split
    | with_reducible apply State.condGone_keeps
    | with_reducible apply State.clearIfGone_keeps
    | with_reducible apply State.forCh_keeps
    | with_reducible apply Keeps.foldl
    | with_reducible apply State.wr_keeps
    | with_reducible apply Keeps.parts
    | with_reducible apply Keeps.sec
    | with_reducible apply Keeps.drop
    | with_reducible apply Keeps.renew
    | (fail_if_no_progress dsimp -zeta only))

/-- `motStop` keeps what every operation keeps. -/
theorem State.motStop_keeps {s₀ s : State} (h : Keeps s₀ s) (d : MotionDesc) (idx : Nat) : Keeps s₀ (s.motStop d idx) := by
  unfold State.motStop
  repeat' (first
    | with_reducible assumption
    | ((fail_if_no_progress extract_lets +onlyGivenNames u); refine (show Keeps s₀ u → _ from fun hu => ?_) ?_; (on_goal 1 => clear_value u); (on_goal 2 => unfold u))
    | ((fail_if_no_progress extract_lets +onlyGivenNames u); clear_value u)
    | (intro s1 a1 h1)
    | split
    | with_reducible apply State.wr_keeps
    | with_reducible apply State.wr_keeps
    | with_reducible apply State.motGatesOff_keeps
    | with_reducible apply State.motComplete_keeps
    | with_reducible apply State.motFail_keeps
    | with_reducible apply State.motBegin_keeps
    | with_reducible apply State.popMot_keeps
    | with_reducible apply State.revokeMotion_keeps
    | with_reducible apply State.stopClears_keeps
    | with_reducible apply State.forCh_keeps
    | with_reducible apply Keeps.foldl
    | with_reducible apply State.wr_keeps
    | with_reducible apply Keeps.parts
    | with_reducible apply Keeps.sec
    | with_reducible apply Keeps.drop
    | with_reducible apply Keeps.renew
    | (fail_if_no_progress dsimp -zeta only))

/-- `motStopScan` keeps what every operation keeps. -/
theorem State.motStopScan_keeps {s₀ s : State} (h : Keeps s₀ s) : Keeps s₀ (s.motStopScan) := by
  unfold State.motStopScan
  repeat' (first
    | with_reducible assumption
    | ((fail_if_no_progress extract_lets +onlyGivenNames u); refine (show Keeps s₀ u → _ from fun hu => ?_) ?_; (on_goal 1 => clear_value u); (on_goal 2 => unfold u))
    | ((fail_if_no_progress extract_lets +onlyGivenNames u); clear_value u)
    | (intro s1 a1 h1)
    | split
    | with_reducible apply State.motStop_keeps
    | with_reducible apply State.forCh_keeps
    | with_reducible apply Keeps.foldl
    | with_reducible apply State.wr_keeps
    | with_reducible apply Keeps.parts
    | with_reducible apply Keeps.sec
    | with_reducible apply Keeps.drop
    | with_reducible apply Keeps.renew
    | (fail_if_no_progress dsimp -zeta only))

/-- `motEnd` keeps what every operation keeps. -/
theorem State.motEnd_keeps {s₀ s : State} (h : Keeps s₀ s) (reason : Nat) : Keeps s₀ (s.motEnd reason) := by
  unfold State.motEnd
  repeat' (first
    | with_reducible assumption
    | ((fail_if_no_progress extract_lets +onlyGivenNames u); refine (show Keeps s₀ u → _ from fun hu => ?_) ?_; (on_goal 1 => clear_value u); (on_goal 2 => unfold u))
    | ((fail_if_no_progress extract_lets +onlyGivenNames u); clear_value u)
    | (intro s1 a1 h1)
    | split
    | with_reducible apply State.wr_keeps
    | with_reducible apply State.wr_keeps
    | with_reducible apply State.motGatesOff_keeps
    | with_reducible apply State.motComplete_keeps
    | with_reducible apply State.forCh_keeps
    | with_reducible apply Keeps.foldl
    | with_reducible apply State.wr_keeps
    | with_reducible apply Keeps.parts
    | with_reducible apply Keeps.sec
    | with_reducible apply Keeps.drop
    | with_reducible apply Keeps.renew
    | (fail_if_no_progress dsimp -zeta only))

/-- `regen` keeps what every operation keeps. -/
theorem State.regen_keeps {s₀ s : State} (h : Keeps s₀ s) : Keeps s₀ (s.regen).2 := by
  unfold State.regen
  split
  · exact State.takeNat_keeps h
  · exact h

/-- `speedLoop` keeps what every operation keeps. -/
theorem State.speedLoop_keeps {s₀ s : State} (h : Keeps s₀ s) (nCmd : Int) (frac : Nat) : Keeps s₀ (s.speedLoop nCmd frac) := by
  unfold State.speedLoop
  repeat' (first
    | with_reducible assumption
    | ((fail_if_no_progress extract_lets +onlyGivenNames u); refine (show Keeps s₀ u → _ from fun hu => ?_) ?_; (on_goal 1 => clear_value u); (on_goal 2 => unfold u))
    | ((fail_if_no_progress extract_lets +onlyGivenNames u); clear_value u)
    | (intro s1 a1 h1)
    | split
    | with_reducible apply State.forCh_keeps
    | with_reducible apply Keeps.foldl
    | with_reducible apply State.wr_keeps
    | with_reducible apply Keeps.parts
    | with_reducible apply Keeps.sec
    | with_reducible apply Keeps.drop
    | with_reducible apply Keeps.renew
    | (fail_if_no_progress dsimp -zeta only))

/-- `posLoop` keeps what every operation keeps. -/
theorem State.posLoop_keeps {s₀ s : State} (h : Keeps s₀ s) (vmax frac : Nat) : Keeps s₀ (s.posLoop vmax frac) := by
  unfold State.posLoop
  repeat' (first
    | with_reducible assumption
    | ((fail_if_no_progress extract_lets +onlyGivenNames u); refine (show Keeps s₀ u → _ from fun hu => ?_) ?_; (on_goal 1 => clear_value u); (on_goal 2 => unfold u))
    | ((fail_if_no_progress extract_lets +onlyGivenNames u); clear_value u)
    | (intro s1 a1 h1)
    | split
    | with_reducible apply State.speedLoop_keeps
    | with_reducible apply State.forCh_keeps
    | with_reducible apply Keeps.foldl
    | with_reducible apply State.wr_keeps
    | with_reducible apply Keeps.parts
    | with_reducible apply Keeps.sec
    | with_reducible apply Keeps.drop
    | with_reducible apply Keeps.renew
    | (fail_if_no_progress dsimp -zeta only))

/-- `forceLoop` keeps what every operation keeps. -/
theorem State.forceLoop_keeps {s₀ s : State} (h : Keeps s₀ s) (set : Int) (vmax frac : Nat) : Keeps s₀ (s.forceLoop set vmax frac) := by
  unfold State.forceLoop
  repeat' (first
    | with_reducible assumption
    | ((fail_if_no_progress extract_lets +onlyGivenNames u); refine (show Keeps s₀ u → _ from fun hu => ?_) ?_; (on_goal 1 => clear_value u); (on_goal 2 => unfold u))
    | ((fail_if_no_progress extract_lets +onlyGivenNames u); clear_value u)
    | (intro s1 a1 h1)
    | split
    | with_reducible apply State.speedLoop_keeps
    | with_reducible apply State.forCh_keeps
    | with_reducible apply Keeps.foldl
    | with_reducible apply State.wr_keeps
    | with_reducible apply Keeps.parts
    | with_reducible apply Keeps.sec
    | with_reducible apply Keeps.drop
    | with_reducible apply Keeps.renew
    | (fail_if_no_progress dsimp -zeta only))

/-- `motErr` keeps what every operation keeps. -/
theorem State.motErr_keeps {s₀ s : State} (h : Keeps s₀ s) (bad : Bool) : Keeps s₀ (s.motErr bad) := by
  unfold State.motErr
  repeat' (first
    | with_reducible assumption
    | ((fail_if_no_progress extract_lets +onlyGivenNames u); refine (show Keeps s₀ u → _ from fun hu => ?_) ?_; (on_goal 1 => clear_value u); (on_goal 2 => unfold u))
    | ((fail_if_no_progress extract_lets +onlyGivenNames u); clear_value u)
    | (intro s1 a1 h1)
    | split
    | with_reducible apply State.updCmd_keeps
    | with_reducible apply State.forCh_keeps
    | with_reducible apply Keeps.foldl
    | with_reducible apply State.wr_keeps
    | with_reducible apply Keeps.parts
    | with_reducible apply Keeps.sec
    | with_reducible apply Keeps.drop
    | with_reducible apply Keeps.renew
    | (fail_if_no_progress dsimp -zeta only))

/-- `errTick` keeps what every operation keeps. -/
theorem State.errTick_keeps {s₀ s : State} (h : Keeps s₀ s) (m : MotCmd) : Keeps s₀ (s.errTick m) := by
  unfold State.errTick
  repeat' (first
    | with_reducible assumption
    | ((fail_if_no_progress extract_lets +onlyGivenNames u); refine (show Keeps s₀ u → _ from fun hu => ?_) ?_; (on_goal 1 => clear_value u); (on_goal 2 => unfold u))
    | ((fail_if_no_progress extract_lets +onlyGivenNames u); clear_value u)
    | (intro s1 a1 h1)
    | split
    | with_reducible apply State.motErr_keeps
    | with_reducible apply State.forCh_keeps
    | with_reducible apply Keeps.foldl
    | with_reducible apply State.wr_keeps
    | with_reducible apply Keeps.parts
    | with_reducible apply Keeps.sec
    | with_reducible apply Keeps.drop
    | with_reducible apply Keeps.renew
    | (fail_if_no_progress dsimp -zeta only))

/-- `moveProfile` keeps what every operation keeps. -/
theorem State.moveProfile_keeps {s₀ s : State} (h : Keeps s₀ s) (m : MotCmd) (frac : Nat) : Keeps s₀ (s.moveProfile m frac) := by
  unfold State.moveProfile
  repeat' (first
    | with_reducible assumption
    | ((fail_if_no_progress extract_lets +onlyGivenNames u); refine (show Keeps s₀ u → _ from fun hu => ?_) ?_; (on_goal 1 => clear_value u); (on_goal 2 => unfold u))
    | ((fail_if_no_progress extract_lets +onlyGivenNames u); clear_value u)
    | (intro s1 a1 h1)
    | split
    | with_reducible apply State.forCh_keeps
    | with_reducible apply Keeps.foldl
    | with_reducible apply State.wr_keeps
    | with_reducible apply Keeps.parts
    | with_reducible apply Keeps.sec
    | with_reducible apply Keeps.drop
    | with_reducible apply Keeps.renew
    | (fail_if_no_progress dsimp -zeta only))

/-- `moveTick` keeps what every operation keeps. -/
theorem State.moveTick_keeps {s₀ s : State} (h : Keeps s₀ s) (m : MotCmd) (frac : Nat) : Keeps s₀ (s.moveTick m frac) := by
  unfold State.moveTick
  repeat' (first
    | with_reducible assumption
    | ((fail_if_no_progress extract_lets +onlyGivenNames u); refine (show Keeps s₀ u → _ from fun hu => ?_) ?_; (on_goal 1 => clear_value u); (on_goal 2 => unfold u))
    | ((fail_if_no_progress extract_lets +onlyGivenNames u); clear_value u)
    | (intro s1 a1 h1)
    | split
    | with_reducible apply State.updCmd_keeps
    | with_reducible apply State.motEnd_keeps
    | with_reducible apply State.posLoop_keeps
    | with_reducible apply State.motErr_keeps
    | with_reducible apply State.moveProfile_keeps
    | with_reducible apply State.forCh_keeps
    | with_reducible apply Keeps.foldl
    | with_reducible apply State.wr_keeps
    | with_reducible apply Keeps.parts
    | with_reducible apply Keeps.sec
    | with_reducible apply Keeps.drop
    | with_reducible apply Keeps.renew
    | (fail_if_no_progress dsimp -zeta only))

/-- `forceTick` keeps what every operation keeps. -/
theorem State.forceTick_keeps {s₀ s : State} (h : Keeps s₀ s) (m : MotCmd) (frac : Nat) : Keeps s₀ (s.forceTick m frac) := by
  unfold State.forceTick
  repeat' (first
    | with_reducible assumption
    | ((fail_if_no_progress extract_lets +onlyGivenNames u); refine (show Keeps s₀ u → _ from fun hu => ?_) ?_; (on_goal 1 => clear_value u); (on_goal 2 => unfold u))
    | ((fail_if_no_progress extract_lets +onlyGivenNames u); clear_value u)
    | (intro s1 a1 h1)
    | split
    | with_reducible apply State.updCmd_keeps
    | with_reducible apply State.forceLoop_keeps
    | with_reducible apply State.motErr_keeps
    | with_reducible apply State.forCh_keeps
    | with_reducible apply Keeps.foldl
    | with_reducible apply State.wr_keeps
    | with_reducible apply Keeps.parts
    | with_reducible apply Keeps.sec
    | with_reducible apply Keeps.drop
    | with_reducible apply Keeps.renew
    | (fail_if_no_progress dsimp -zeta only))

/-- `rampTick` keeps what every operation keeps. -/
theorem State.rampTick_keeps {s₀ s : State} (h : Keeps s₀ s) (m : MotCmd) (frac : Nat) : Keeps s₀ (s.rampTick m frac) := by
  unfold State.rampTick
  repeat' (first
    | with_reducible assumption
    | ((fail_if_no_progress extract_lets +onlyGivenNames u); refine (show Keeps s₀ u → _ from fun hu => ?_) ?_; (on_goal 1 => clear_value u); (on_goal 2 => unfold u))
    | ((fail_if_no_progress extract_lets +onlyGivenNames u); clear_value u)
    | (intro s1 a1 h1)
    | split
    | with_reducible apply State.updCmd_keeps
    | with_reducible apply State.profileHere_keeps
    | with_reducible apply State.forceLoop_keeps
    | with_reducible apply State.forCh_keeps
    | with_reducible apply Keeps.foldl
    | with_reducible apply State.wr_keeps
    | with_reducible apply Keeps.parts
    | with_reducible apply Keeps.sec
    | with_reducible apply Keeps.drop
    | with_reducible apply Keeps.renew
    | (fail_if_no_progress dsimp -zeta only))

/-- `stopTick` keeps what every operation keeps. -/
theorem State.stopTick_keeps {s₀ s : State} (h : Keeps s₀ s) (m : MotCmd) (reason frac : Nat) : Keeps s₀ (s.stopTick m reason frac) := by
  unfold State.stopTick
  repeat' (first
    | with_reducible assumption
    | ((fail_if_no_progress extract_lets +onlyGivenNames u); refine (show Keeps s₀ u → _ from fun hu => ?_) ?_; (on_goal 1 => clear_value u); (on_goal 2 => unfold u))
    | ((fail_if_no_progress extract_lets +onlyGivenNames u); clear_value u)
    | (intro s1 a1 h1)
    | split
    | with_reducible apply State.motEnd_keeps
    | with_reducible apply State.posLoop_keeps
    | with_reducible apply State.motErr_keeps
    | with_reducible apply State.moveProfile_keeps
    | with_reducible apply State.forCh_keeps
    | with_reducible apply Keeps.foldl
    | with_reducible apply State.wr_keeps
    | with_reducible apply Keeps.parts
    | with_reducible apply Keeps.sec
    | with_reducible apply Keeps.drop
    | with_reducible apply Keeps.renew
    | (fail_if_no_progress dsimp -zeta only))

/-- `holdTick` keeps what every operation keeps. -/
theorem State.holdTick_keeps {s₀ s : State} (h : Keeps s₀ s) (frac : Nat) : Keeps s₀ (s.holdTick frac) := by
  unfold State.holdTick
  repeat' (first
    | with_reducible assumption
    | ((fail_if_no_progress extract_lets +onlyGivenNames u); refine (show Keeps s₀ u → _ from fun hu => ?_) ?_; (on_goal 1 => clear_value u); (on_goal 2 => unfold u))
    | ((fail_if_no_progress extract_lets +onlyGivenNames u); clear_value u)
    | (intro s1 a1 h1)
    | split
    | with_reducible apply State.posLoop_keeps
    | with_reducible apply State.forceLoop_keeps
    | with_reducible apply State.forCh_keeps
    | with_reducible apply Keeps.foldl
    | with_reducible apply State.wr_keeps
    | with_reducible apply Keeps.parts
    | with_reducible apply Keeps.sec
    | with_reducible apply Keeps.drop
    | with_reducible apply Keeps.renew
    | (fail_if_no_progress dsimp -zeta only))

/-- `turnsAs` keeps what every operation keeps. -/
theorem State.turnsAs_keeps {s₀ s : State} (h : Keeps s₀ s) (v : Int) : Keeps s₀ (s.turnsAs v) := by
  unfold State.turnsAs
  repeat' (first
    | with_reducible assumption
    | ((fail_if_no_progress extract_lets +onlyGivenNames u); refine (show Keeps s₀ u → _ from fun hu => ?_) ?_; (on_goal 1 => clear_value u); (on_goal 2 => unfold u))
    | ((fail_if_no_progress extract_lets +onlyGivenNames u); clear_value u)
    | (intro s1 a1 h1)
    | split
    | with_reducible apply State.forCh_keeps
    | with_reducible apply Keeps.foldl
    | with_reducible apply State.wr_keeps
    | with_reducible apply Keeps.parts
    | with_reducible apply Keeps.sec
    | with_reducible apply Keeps.drop
    | with_reducible apply Keeps.renew
    | (fail_if_no_progress dsimp -zeta only))

/-- `motReadings` keeps what every operation keeps. -/
theorem State.motReadings_keeps {s₀ s : State} (h : Keeps s₀ s) (force : Int) : Keeps s₀ (s.motReadings force) := by
  unfold State.motReadings
  repeat' (first
    | with_reducible assumption
    | ((fail_if_no_progress extract_lets +onlyGivenNames u); refine (show Keeps s₀ u → _ from fun hu => ?_) ?_; (on_goal 1 => clear_value u); (on_goal 2 => unfold u))
    | ((fail_if_no_progress extract_lets +onlyGivenNames u); clear_value u)
    | (intro s1 a1 h1)
    | split
    | with_reducible apply State.wr_keeps
    | with_reducible apply State.wr_keeps
    | with_reducible apply State.wrS_keeps
    | with_reducible apply State.wb_keeps
    | with_reducible apply State.turnsAs_keeps
    | with_reducible apply State.forCh_keeps
    | with_reducible apply Keeps.foldl
    | with_reducible apply State.wr_keeps
    | with_reducible apply Keeps.parts
    | with_reducible apply Keeps.sec
    | with_reducible apply Keeps.drop
    | with_reducible apply Keeps.renew
    | (fail_if_no_progress dsimp -zeta only))

/-- `motTick` keeps what every operation keeps. -/
theorem State.motTick_keeps {s₀ s : State} (h : Keeps s₀ s) (force : Int) : Keeps s₀ (s.motTick force) := by
  unfold State.motTick
  extract_lets +onlyGivenNames u
  have hu : Keeps s₀ u := State.motReadings_keeps h force
  clear_value u
  split
  · exact hu
  extract_lets +onlyGivenNames a f b st
  have hb : Keeps s₀ b := State.updCmd_keeps (State.condGone_keeps hu ..) ..
  clear_value b
  refine Keeps.ite ?_ (Keeps.ite hb (Keeps.ite ?_ (Keeps.ite hb ?_)))
  · split
    · exact State.errTick_keeps hb ..
    · exact hb
  · exact State.speedLoop_keeps (State.takeInt_keeps hb) ..
  have hr := State.regen_keeps hb
  generalize b.regen = r at hr
  obtain ⟨frac, w⟩ := r
  dsimp -zeta only
  split
  · exact State.holdTick_keeps hr ..
  · split
    · exact hr
    · exact State.moveTick_keeps hr ..
    · split
      · exact State.posLoop_keeps (State.moveProfile_keeps hr ..) ..
      · exact State.forceTick_keeps hr ..
    · split
      · exact State.posLoop_keeps (State.moveProfile_keeps hr ..) ..
      · exact State.rampTick_keeps hr ..
    · exact State.stopTick_keeps hr ..

end Sys2Proof.Machine
end

