-- ==== Sys2Proof/Laws/KeepsMetrology.lean ====
section
/-! SUPPORT. What the operations of Metrology.lean keep (Keeps.lean). -/

set_option linter.all false
set_option linter.unusedTactic false
set_option linter.unreachableTactic false
namespace Sys2Proof.Machine

/-- `ntcOut` keeps what every operation keeps. -/
theorem State.ntcOut_keeps {s₀ s : State} (h : Keeps s₀ s) (c : Ch) (hi : Bool) : Keeps s₀ (s.ntcOut c hi) := by
  unfold State.ntcOut
  repeat' (first
    | with_reducible assumption
    | ((fail_if_no_progress extract_lets +onlyGivenNames u); refine (show Keeps s₀ u → _ from fun hu => ?_) ?_; (on_goal 1 => clear_value u); (on_goal 2 => unfold u))
    | ((fail_if_no_progress extract_lets +onlyGivenNames u); clear_value u)
    | (intro s1 a1 h1)
    | split
    | with_reducible apply State.wr_keeps
    | with_reducible apply State.wr_keeps
    | with_reducible apply State.updStage_keeps
    | with_reducible apply State.updMet_keeps
    | with_reducible apply State.faultStop_keeps
    | with_reducible apply State.runIf_keeps
    | with_reducible apply State.stage_keeps
    | with_reducible apply State.forCh_keeps
    | with_reducible apply Keeps.foldl
    | with_reducible apply State.wr_keeps
    | with_reducible apply Keeps.parts
    | with_reducible apply Keeps.sec
    | with_reducible apply Keeps.drop
    | with_reducible apply Keeps.renew
    | (fail_if_no_progress dsimp -zeta only))

/-- `ntcIn` keeps what every operation keeps. -/
theorem State.ntcIn_keeps {s₀ s : State} (h : Keeps s₀ s) (c : Ch) (raw : Nat) : Keeps s₀ (s.ntcIn c raw) := by
  unfold State.ntcIn
  repeat' (first
    | with_reducible assumption
    | ((fail_if_no_progress extract_lets +onlyGivenNames u); refine (show Keeps s₀ u → _ from fun hu => ?_) ?_; (on_goal 1 => clear_value u); (on_goal 2 => unfold u))
    | ((fail_if_no_progress extract_lets +onlyGivenNames u); clear_value u)
    | (intro s1 a1 h1)
    | split
    | with_reducible apply State.wr_keeps
    | with_reducible apply State.wr_keeps
    | with_reducible apply State.updStage_keeps
    | with_reducible apply State.updMet_keeps
    | with_reducible apply State.condGone_keeps
    | with_reducible apply State.runIf_keeps
    | with_reducible apply State.forCh_keeps
    | with_reducible apply Keeps.foldl
    | with_reducible apply State.wr_keeps
    | with_reducible apply Keeps.parts
    | with_reducible apply Keeps.sec
    | with_reducible apply Keeps.drop
    | with_reducible apply Keeps.renew
    | (fail_if_no_progress dsimp -zeta only))

/-- `dieSample` keeps what every operation keeps. -/
theorem State.dieSample_keeps {s₀ s : State} (h : Keeps s₀ s) (raw : Nat) : Keeps s₀ (s.dieSample raw) := by
  unfold State.dieSample
  repeat' (first
    | with_reducible assumption
    | ((fail_if_no_progress extract_lets +onlyGivenNames u); refine (show Keeps s₀ u → _ from fun hu => ?_) ?_; (on_goal 1 => clear_value u); (on_goal 2 => unfold u))
    | ((fail_if_no_progress extract_lets +onlyGivenNames u); clear_value u)
    | (intro s1 a1 h1)
    | split
    | with_reducible apply State.wrS_keeps
    | with_reducible apply State.raiseDev_keeps
    | with_reducible apply State.condGone_keeps
    | with_reducible apply State.forCh_keeps
    | with_reducible apply Keeps.foldl
    | with_reducible apply State.wr_keeps
    | with_reducible apply Keeps.parts
    | with_reducible apply Keeps.sec
    | with_reducible apply Keeps.drop
    | with_reducible apply Keeps.renew
    | (fail_if_no_progress dsimp -zeta only))

/-- `markConv` keeps what every operation keeps. -/
theorem State.markConv_keeps {s₀ s : State} (h : Keeps s₀ s) (conv : Nat) (f : CalK → CalK) : Keeps s₀ (s.markConv conv f) := by
  unfold State.markConv
  repeat' (first
    | with_reducible assumption
    | ((fail_if_no_progress extract_lets +onlyGivenNames u); refine (show Keeps s₀ u → _ from fun hu => ?_) ?_; (on_goal 1 => clear_value u); (on_goal 2 => unfold u))
    | ((fail_if_no_progress extract_lets +onlyGivenNames u); clear_value u)
    | (intro s1 a1 h1)
    | split
    | with_reducible apply State.forCh_keeps
    | with_reducible apply Keeps.foldl
    | with_reducible apply State.wr_keeps
    | with_reducible apply Keeps.parts
    | with_reducible apply Keeps.sec
    | with_reducible apply Keeps.drop
    | with_reducible apply Keeps.renew
    | (fail_if_no_progress dsimp -zeta only))

/-- `flagOpen` keeps what every operation keeps. -/
theorem State.flagOpen_keeps {s₀ s : State} (h : Keeps s₀ s) (i : Nat) : Keeps s₀ (s.flagOpen i) := by
  unfold State.flagOpen
  repeat' (first
    | with_reducible assumption
    | ((fail_if_no_progress extract_lets +onlyGivenNames u); refine (show Keeps s₀ u → _ from fun hu => ?_) ?_; (on_goal 1 => clear_value u); (on_goal 2 => unfold u))
    | ((fail_if_no_progress extract_lets +onlyGivenNames u); clear_value u)
    | (intro s1 a1 h1)
    | split
    | with_reducible apply State.updLed_keeps
    | with_reducible apply State.ledger_keeps
    | with_reducible apply State.forCh_keeps
    | with_reducible apply Keeps.foldl
    | with_reducible apply State.wr_keeps
    | with_reducible apply Keeps.parts
    | with_reducible apply Keeps.sec
    | with_reducible apply Keeps.drop
    | with_reducible apply Keeps.renew
    | (fail_if_no_progress dsimp -zeta only))

/-- `refCheck` keeps what every operation keeps. -/
theorem State.refCheck_keeps {s₀ s : State} (h : Keeps s₀ s) (dev : Int) : Keeps s₀ (s.refCheck dev) := by
  unfold State.refCheck
  repeat' (first
    | with_reducible assumption
    | ((fail_if_no_progress extract_lets +onlyGivenNames u); refine (show Keeps s₀ u → _ from fun hu => ?_) ?_; (on_goal 1 => clear_value u); (on_goal 2 => unfold u))
    | ((fail_if_no_progress extract_lets +onlyGivenNames u); clear_value u)
    | (intro s1 a1 h1)
    | split
    | with_reducible apply State.wr_keeps
    | with_reducible apply State.wr_keeps
    | with_reducible apply State.wrS_keeps
    | with_reducible apply State.wb_keeps
    | with_reducible apply State.raiseDev_keeps
    | with_reducible apply State.condGone_keeps
    | with_reducible apply State.clear_keeps
    | with_reducible apply State.untake_keeps
    | with_reducible apply State.flagOpen_keeps
    | with_reducible apply State.forCh_keeps
    | with_reducible apply Keeps.foldl
    | with_reducible apply State.wr_keeps
    | with_reducible apply Keeps.parts
    | with_reducible apply Keeps.sec
    | with_reducible apply Keeps.drop
    | with_reducible apply Keeps.renew
    | (fail_if_no_progress dsimp -zeta only))

/-- `judgeCal` keeps what every operation keeps. -/
theorem State.judgeCal_keeps {s₀ s : State} (h : Keeps s₀ s) (conv rng : Nat) (s0 s1 : Int) : Keeps s₀ (s.judgeCal conv rng s0 s1) := by
  unfold State.judgeCal
  repeat' (first
    | with_reducible assumption
    | ((fail_if_no_progress extract_lets +onlyGivenNames u); refine (show Keeps s₀ u → _ from fun hu => ?_) ?_; (on_goal 1 => clear_value u); (on_goal 2 => unfold u))
    | ((fail_if_no_progress extract_lets +onlyGivenNames u); clear_value u)
    | (intro s1 a1 h1)
    | split
    | with_reducible apply State.wr_keeps
    | with_reducible apply State.wr_keeps
    | with_reducible apply State.raiseDev_keeps
    | with_reducible apply State.condGone_keeps
    | with_reducible apply State.clear_keeps
    | with_reducible apply State.markConv_keeps
    | with_reducible apply State.forCh_keeps
    | with_reducible apply Keeps.foldl
    | with_reducible apply State.wr_keeps
    | with_reducible apply Keeps.parts
    | with_reducible apply Keeps.sec
    | with_reducible apply Keeps.drop
    | with_reducible apply Keeps.renew
    | (fail_if_no_progress dsimp -zeta only))

/-- `selfNext` keeps what every operation keeps. -/
theorem State.selfNext_keeps {s₀ s : State} (h : Keeps s₀ s) (i : SpareId) : Keeps s₀ (s.selfNext i) := by
  unfold State.selfNext
  repeat' (first
    | with_reducible assumption
    | ((fail_if_no_progress extract_lets +onlyGivenNames u); refine (show Keeps s₀ u → _ from fun hu => ?_) ?_; (on_goal 1 => clear_value u); (on_goal 2 => unfold u))
    | ((fail_if_no_progress extract_lets +onlyGivenNames u); clear_value u)
    | (intro s1 a1 h1)
    | split
    | with_reducible apply State.updSpare_keeps
    | with_reducible apply State.forCh_keeps
    | with_reducible apply Keeps.foldl
    | with_reducible apply State.wr_keeps
    | with_reducible apply Keeps.parts
    | with_reducible apply Keeps.sec
    | with_reducible apply Keeps.drop
    | with_reducible apply Keeps.renew
    | (fail_if_no_progress dsimp -zeta only))

/-- `newRound` keeps what every operation keeps. -/
theorem State.newRound_keeps {s₀ s : State} (h : Keeps s₀ s) : Keeps s₀ (s.newRound) := by
  unfold State.newRound
  repeat' (first
    | with_reducible assumption
    | ((fail_if_no_progress extract_lets +onlyGivenNames u); refine (show Keeps s₀ u → _ from fun hu => ?_) ?_; (on_goal 1 => clear_value u); (on_goal 2 => unfold u))
    | ((fail_if_no_progress extract_lets +onlyGivenNames u); clear_value u)
    | (intro s1 a1 h1)
    | split
    | with_reducible apply State.forCh_keeps
    | with_reducible apply Keeps.foldl
    | with_reducible apply State.wr_keeps
    | with_reducible apply Keeps.parts
    | with_reducible apply Keeps.sec
    | with_reducible apply Keeps.drop
    | with_reducible apply Keeps.renew
    | (fail_if_no_progress dsimp -zeta only))

/-- `freeSpare` keeps what every operation keeps. -/
theorem State.freeSpare_keeps {s₀ s : State} (h : Keeps s₀ s) (i : SpareId) : Keeps s₀ (s.freeSpare i) := by
  unfold State.freeSpare
  repeat' (first
    | with_reducible assumption
    | ((fail_if_no_progress extract_lets +onlyGivenNames u); refine (show Keeps s₀ u → _ from fun hu => ?_) ?_; (on_goal 1 => clear_value u); (on_goal 2 => unfold u))
    | ((fail_if_no_progress extract_lets +onlyGivenNames u); clear_value u)
    | (intro s1 a1 h1)
    | split
    | with_reducible apply State.updSpare_keeps
    | with_reducible apply State.roundEnd_keeps
    | with_reducible apply State.serveRange_keeps
    | with_reducible apply State.forCh_keeps
    | with_reducible apply Keeps.foldl
    | with_reducible apply State.wr_keeps
    | with_reducible apply Keeps.parts
    | with_reducible apply Keeps.sec
    | with_reducible apply Keeps.drop
    | with_reducible apply Keeps.renew
    | (fail_if_no_progress dsimp -zeta only))

/-- `flagWithin` keeps what every operation keeps. -/
theorem State.flagWithin_keeps {s₀ s : State} (h : Keeps s₀ s) (c : Ch) (i : Nat) : Keeps s₀ (s.flagWithin c i) := by
  unfold State.flagWithin
  repeat' (first
    | with_reducible assumption
    | ((fail_if_no_progress extract_lets +onlyGivenNames u); refine (show Keeps s₀ u → _ from fun hu => ?_) ?_; (on_goal 1 => clear_value u); (on_goal 2 => unfold u))
    | ((fail_if_no_progress extract_lets +onlyGivenNames u); clear_value u)
    | (intro s1 a1 h1)
    | split
    | with_reducible apply State.updLed_keeps
    | with_reducible apply State.forCh_keeps
    | with_reducible apply Keeps.foldl
    | with_reducible apply State.wr_keeps
    | with_reducible apply Keeps.parts
    | with_reducible apply Keeps.sec
    | with_reducible apply Keeps.drop
    | with_reducible apply Keeps.renew
    | (fail_if_no_progress dsimp -zeta only))

/-- `setSource` keeps what every operation keeps. -/
theorem State.setSource_keeps {s₀ s : State} (h : Keeps s₀ s) (k n : Nat) : Keeps s₀ (s.setSource k n) := by
  unfold State.setSource
  repeat' (first
    | with_reducible assumption
    | ((fail_if_no_progress extract_lets +onlyGivenNames u); refine (show Keeps s₀ u → _ from fun hu => ?_) ?_; (on_goal 1 => clear_value u); (on_goal 2 => unfold u))
    | ((fail_if_no_progress extract_lets +onlyGivenNames u); clear_value u)
    | (intro s1 a1 h1)
    | split
    | with_reducible apply State.incWrap_keeps
    | with_reducible apply State.updMet_keeps
    | with_reducible apply State.takeCal_keeps
    | with_reducible apply State.flagWithin_keeps
    | with_reducible apply State.forCh_keeps
    | with_reducible apply Keeps.foldl
    | with_reducible apply State.wr_keeps
    | with_reducible apply Keeps.parts
    | with_reducible apply Keeps.sec
    | with_reducible apply Keeps.drop
    | with_reducible apply Keeps.renew
    | (fail_if_no_progress dsimp -zeta only))

/-- `setRange` keeps what every operation keeps. -/
theorem State.setRange_keeps {s₀ s : State} (h : Keeps s₀ s) (c : Ch) (rng : Nat) : Keeps s₀ (s.setRange c rng) := by
  unfold State.setRange
  repeat' (first
    | with_reducible assumption
    | ((fail_if_no_progress extract_lets +onlyGivenNames u); refine (show Keeps s₀ u → _ from fun hu => ?_) ?_; (on_goal 1 => clear_value u); (on_goal 2 => unfold u))
    | ((fail_if_no_progress extract_lets +onlyGivenNames u); clear_value u)
    | (intro s1 a1 h1)
    | split
    | with_reducible apply State.wr_keeps
    | with_reducible apply State.wr_keeps
    | with_reducible apply State.flagWithin_keeps
    | with_reducible apply State.forCh_keeps
    | with_reducible apply Keeps.foldl
    | with_reducible apply State.wr_keeps
    | with_reducible apply Keeps.parts
    | with_reducible apply Keeps.sec
    | with_reducible apply Keeps.drop
    | with_reducible apply Keeps.renew
    | (fail_if_no_progress dsimp -zeta only))

/-- `rotated` keeps what every operation keeps. -/
theorem State.rotated_keeps {s₀ s : State} (h : Keeps s₀ s) (k : Nat) : Keeps s₀ (s.rotated k) := by
  unfold State.rotated
  repeat' (first
    | with_reducible assumption
    | ((fail_if_no_progress extract_lets +onlyGivenNames u); refine (show Keeps s₀ u → _ from fun hu => ?_) ?_; (on_goal 1 => clear_value u); (on_goal 2 => unfold u))
    | ((fail_if_no_progress extract_lets +onlyGivenNames u); clear_value u)
    | (intro s1 a1 h1)
    | split
    | with_reducible apply State.wr_keeps
    | with_reducible apply State.wr_keeps
    | with_reducible apply State.forCh_keeps
    | with_reducible apply Keeps.foldl
    | with_reducible apply State.wr_keeps
    | with_reducible apply Keeps.parts
    | with_reducible apply Keeps.sec
    | with_reducible apply Keeps.drop
    | with_reducible apply Keeps.renew
    | (fail_if_no_progress dsimp -zeta only))

/-- `abandonChange` keeps what every operation keeps. -/
theorem State.abandonChange_keeps {s₀ s : State} (h : Keeps s₀ s) (sp : SpareId) : Keeps s₀ (s.abandonChange sp) := by
  unfold State.abandonChange
  repeat' (first
    | with_reducible assumption
    | ((fail_if_no_progress extract_lets +onlyGivenNames u); refine (show Keeps s₀ u → _ from fun hu => ?_) ?_; (on_goal 1 => clear_value u); (on_goal 2 => unfold u))
    | ((fail_if_no_progress extract_lets +onlyGivenNames u); clear_value u)
    | (intro s1 a1 h1)
    | split
    | with_reducible apply State.rangeDeny_keeps
    | with_reducible apply State.freeSpare_keeps
    | with_reducible apply State.forCh_keeps
    | with_reducible apply Keeps.foldl
    | with_reducible apply State.wr_keeps
    | with_reducible apply Keeps.parts
    | with_reducible apply Keeps.sec
    | with_reducible apply Keeps.drop
    | with_reducible apply Keeps.renew
    | (fail_if_no_progress dsimp -zeta only))

/-- `withdrawSpare` keeps what every operation keeps. -/
theorem State.withdrawSpare_keeps {s₀ s : State} (h : Keeps s₀ s) (sp : SpareId) (carried : Bool) : Keeps s₀ (s.withdrawSpare sp carried) := by
  unfold State.withdrawSpare
  repeat' (first
    | with_reducible assumption
    | ((fail_if_no_progress extract_lets +onlyGivenNames u); refine (show Keeps s₀ u → _ from fun hu => ?_) ?_; (on_goal 1 => clear_value u); (on_goal 2 => unfold u))
    | ((fail_if_no_progress extract_lets +onlyGivenNames u); clear_value u)
    | (intro s1 a1 h1)
    | split
    | with_reducible apply State.event_keeps
    | with_reducible apply State.raiseDev_keeps
    | with_reducible apply State.updSpare_keeps
    | with_reducible apply State.roundEnd_keeps
    | with_reducible apply State.denyWaiting_keeps
    | with_reducible apply State.serveRange_keeps
    | with_reducible apply State.setSource_keeps
    | with_reducible apply State.forCh_keeps
    | with_reducible apply Keeps.foldl
    | with_reducible apply State.wr_keeps
    | with_reducible apply Keeps.parts
    | with_reducible apply Keeps.sec
    | with_reducible apply Keeps.drop
    | with_reducible apply Keeps.renew
    | (fail_if_no_progress dsimp -zeta only))

/-- `mismatch` keeps what every operation keeps. -/
theorem State.mismatch_keeps {s₀ s : State} (h : Keeps s₀ s) (sp : SpareId) : Keeps s₀ (s.mismatch sp) := by
  unfold State.mismatch
  repeat' (first
    | with_reducible assumption
    | ((fail_if_no_progress extract_lets +onlyGivenNames u); refine (show Keeps s₀ u → _ from fun hu => ?_) ?_; (on_goal 1 => clear_value u); (on_goal 2 => unfold u))
    | ((fail_if_no_progress extract_lets +onlyGivenNames u); clear_value u)
    | (intro s1 a1 h1)
    | split
    | with_reducible apply State.wr_keeps
    | with_reducible apply State.wr_keeps
    | with_reducible apply State.incSat_keeps
    | with_reducible apply State.event_keeps
    | with_reducible apply State.updSpare_keeps
    | with_reducible apply State.roundEnd_keeps
    | with_reducible apply State.rangeDeny_keeps
    | with_reducible apply State.denyWaiting_keeps
    | with_reducible apply State.markConv_keeps
    | with_reducible apply State.freeSpare_keeps
    | with_reducible apply State.withdrawSpare_keeps
    | with_reducible apply State.forCh_keeps
    | with_reducible apply Keeps.foldl
    | with_reducible apply State.wr_keeps
    | with_reducible apply Keeps.parts
    | with_reducible apply Keeps.sec
    | with_reducible apply Keeps.drop
    | with_reducible apply Keeps.renew
    | (fail_if_no_progress dsimp -zeta only))

/-- `compareTick` keeps what every operation keeps. -/
theorem State.compareTick_keeps {s₀ s : State} (h : Keeps s₀ s) (i : SpareId) (src oth : Int) : Keeps s₀ (s.compareTick i src oth) := by
  unfold State.compareTick
  repeat' (first
    | with_reducible assumption
    | ((fail_if_no_progress extract_lets +onlyGivenNames u); refine (show Keeps s₀ u → _ from fun hu => ?_) ?_; (on_goal 1 => clear_value u); (on_goal 2 => unfold u))
    | ((fail_if_no_progress extract_lets +onlyGivenNames u); clear_value u)
    | (intro s1 a1 h1)
    | split
    | with_reducible apply State.updSpare_keeps
    | with_reducible apply State.forCh_keeps
    | with_reducible apply Keeps.foldl
    | with_reducible apply State.wr_keeps
    | with_reducible apply Keeps.parts
    | with_reducible apply Keeps.sec
    | with_reducible apply Keeps.drop
    | with_reducible apply Keeps.renew
    | (fail_if_no_progress dsimp -zeta only))

/-- `compareTicks` keeps what every operation keeps. -/
theorem State.compareTicks_keeps {s₀ s : State} (h : Keeps s₀ s) (i : TickIn) : Keeps s₀ (s.compareTicks i) := by
  unfold State.compareTicks
  repeat' (first
    | with_reducible assumption
    | ((fail_if_no_progress extract_lets +onlyGivenNames u); refine (show Keeps s₀ u → _ from fun hu => ?_) ?_; (on_goal 1 => clear_value u); (on_goal 2 => unfold u))
    | ((fail_if_no_progress extract_lets +onlyGivenNames u); clear_value u)
    | (intro s1 a1 h1)
    | split
    | with_reducible apply State.compareTick_keeps
    | with_reducible apply State.forCh_keeps
    | with_reducible apply Keeps.foldl
    | with_reducible apply State.wr_keeps
    | with_reducible apply Keeps.parts
    | with_reducible apply Keeps.sec
    | with_reducible apply Keeps.drop
    | with_reducible apply Keeps.renew
    | (fail_if_no_progress dsimp -zeta only))

/-- `metClock` keeps what every operation keeps. -/
theorem State.metClock_keeps {s₀ s : State} (h : Keeps s₀ s) : Keeps s₀ (s.metClock) := by
  unfold State.metClock
  repeat' (first
    | with_reducible assumption
    | ((fail_if_no_progress extract_lets +onlyGivenNames u); refine (show Keeps s₀ u → _ from fun hu => ?_) ?_; (on_goal 1 => clear_value u); (on_goal 2 => unfold u))
    | ((fail_if_no_progress extract_lets +onlyGivenNames u); clear_value u)
    | (intro s1 a1 h1)
    | split
    | with_reducible apply State.forCh_keeps
    | with_reducible apply Keeps.foldl
    | with_reducible apply State.wr_keeps
    | with_reducible apply Keeps.parts
    | with_reducible apply Keeps.sec
    | with_reducible apply Keeps.drop
    | with_reducible apply Keeps.renew
    | (fail_if_no_progress dsimp -zeta only))

/-- `tlmRec` keeps what every operation keeps. -/
theorem State.tlmRec_keeps {s₀ s : State} (h : Keeps s₀ s) (c : Ch) : Keeps s₀ (s.tlmRec c).2 := by
  unfold State.tlmRec
  exact State.orFree_keeps (State.orFree_keeps (State.orFree_keeps (State.orFree_keeps (State.orFree_keeps
    (State.orFree_keeps h _) _) _) _) _) _

/-- `tlmWrite` keeps what every operation keeps. -/
theorem State.tlmWrite_keeps {s₀ s : State} (h : Keeps s₀ s) (c : Ch) : Keeps s₀ (s.tlmWrite c) := by
  unfold State.tlmWrite
  have hr := State.tlmRec_keeps h c
  generalize s.tlmRec c = r at hr
  obtain ⟨ws, t⟩ := r
  dsimp -zeta only
  repeat' (first
    | with_reducible assumption
    | ((fail_if_no_progress extract_lets +onlyGivenNames u); refine (show Keeps s₀ u → _ from fun hu => ?_) ?_; (on_goal 1 => clear_value u); (on_goal 2 => unfold u))
    | ((fail_if_no_progress extract_lets +onlyGivenNames u); clear_value u)
    | (intro s1 a1 h1)
    | split
    | with_reducible apply State.tlmLost_keeps
    | with_reducible apply State.hostErr_keeps
    | with_reducible apply State.hostWrite_keeps
    | with_reducible apply Keeps.foldl
    | with_reducible apply Keeps.parts
    | with_reducible apply Keeps.sec
    | with_reducible apply Keeps.drop
    | with_reducible apply Keeps.renew
    | (fail_if_no_progress dsimp -zeta only))

/-- `tlmReport` keeps what every operation keeps. -/
theorem State.tlmReport_keeps {s₀ s : State} (h : Keeps s₀ s) : Keeps s₀ (s.tlmReport) := by
  unfold State.tlmReport
  repeat' (first
    | with_reducible assumption
    | ((fail_if_no_progress extract_lets +onlyGivenNames u); refine (show Keeps s₀ u → _ from fun hu => ?_) ?_; (on_goal 1 => clear_value u); (on_goal 2 => unfold u))
    | ((fail_if_no_progress extract_lets +onlyGivenNames u); clear_value u)
    | (intro s1 a1 h1)
    | split
    | with_reducible apply State.irq_keeps
    | with_reducible apply State.tlmWrite_keeps
    | with_reducible apply State.forCh_keeps
    | with_reducible apply Keeps.foldl
    | with_reducible apply State.wr_keeps
    | with_reducible apply Keeps.parts
    | with_reducible apply Keeps.sec
    | with_reducible apply Keeps.drop
    | with_reducible apply Keeps.renew
    | (fail_if_no_progress dsimp -zeta only))

end Sys2Proof.Machine
end

