-- ==== Sys2Proof/Laws/KeepsAccess.lean ====
section
/-! SUPPORT. What the operations of Access.lean keep (Keeps.lean). -/

set_option linter.all false
set_option linter.unusedTactic false
set_option linter.unreachableTactic false
namespace Sys2Proof.Machine

/-- `writeErr` keeps what every operation keeps. -/
theorem State.writeErr_keeps {s₀ s : State} (h : Keeps s₀ s) (path : Path) (off code : Nat) : Keeps s₀ (s.writeErr path off code) := by
  unfold State.writeErr
  repeat' (first
    | with_reducible assumption
    | ((fail_if_no_progress extract_lets +onlyGivenNames u); refine (show Keeps s₀ u → _ from fun hu => ?_) ?_; (on_goal 1 => clear_value u); (on_goal 2 => unfold u))
    | ((fail_if_no_progress extract_lets +onlyGivenNames u); clear_value u)
    | (intro s1 a1 h1)
    | split
    | with_reducible apply State.wr_keeps
    | with_reducible apply State.wr_keeps
    | with_reducible apply State.incSat_keeps
    | with_reducible apply State.forCh_keeps
    | with_reducible apply Keeps.foldl
    | with_reducible apply State.wr_keeps
    | with_reducible apply Keeps.parts
    | with_reducible apply Keeps.sec
    | with_reducible apply Keeps.drop
    | with_reducible apply Keeps.renew
    | (fail_if_no_progress dsimp -zeta only))

/-- `putField` keeps what every operation keeps. -/
theorem State.putField_keeps {s₀ s : State} (h : Keeps s₀ s) (val : Word) (f : Fld) : Keeps s₀ (s.putField val f) := by
  unfold State.putField
  repeat' (first
    | with_reducible assumption
    | ((fail_if_no_progress extract_lets +onlyGivenNames u); refine (show Keeps s₀ u → _ from fun hu => ?_) ?_; (on_goal 1 => clear_value u); (on_goal 2 => unfold u))
    | ((fail_if_no_progress extract_lets +onlyGivenNames u); clear_value u)
    | (intro s1 a1 h1)
    | split
    | with_reducible apply State.wr_keeps
    | with_reducible apply State.wr_keeps
    | with_reducible apply State.wrLate_keeps
    | with_reducible apply State.forCh_keeps
    | with_reducible apply Keeps.foldl
    | with_reducible apply State.wr_keeps
    | with_reducible apply Keeps.parts
    | with_reducible apply Keeps.sec
    | with_reducible apply Keeps.drop
    | with_reducible apply Keeps.renew
    | (fail_if_no_progress dsimp -zeta only))

/-- `writeFx1` keeps what every operation keeps. -/
theorem State.writeFx1_keeps {s₀ s : State} (h : Keeps s₀ s) (old : State) (off : Nat) (val : Word) : Keeps s₀ (s.writeFx1 old off val) := by
  unfold State.writeFx1
  repeat' (first
    | with_reducible assumption
    | ((fail_if_no_progress extract_lets +onlyGivenNames u); refine (show Keeps s₀ u → _ from fun hu => ?_) ?_; (on_goal 1 => clear_value u); (on_goal 2 => unfold u))
    | ((fail_if_no_progress extract_lets +onlyGivenNames u); clear_value u)
    | (intro s1 a1 h1)
    | split
    | with_reducible apply State.wr_keeps
    | with_reducible apply State.wr_keeps
    | with_reducible apply State.ctlChanged_keeps
    | with_reducible apply State.barSet_keeps
    | with_reducible apply State.enterEnum_keeps
    | with_reducible apply State.forCh_keeps
    | with_reducible apply Keeps.foldl
    | with_reducible apply State.wr_keeps
    | with_reducible apply Keeps.parts
    | with_reducible apply Keeps.sec
    | with_reducible apply Keeps.drop
    | with_reducible apply Keeps.renew
    | (fail_if_no_progress dsimp -zeta only))

/-- `setReact` keeps what every operation keeps. -/
theorem State.setReact_keeps {s₀ s : State} (h : Keeps s₀ s) (r : Nat) : Keeps s₀ (s.setReact r) := by
  unfold State.setReact
  repeat' (first
    | with_reducible assumption
    | ((fail_if_no_progress extract_lets +onlyGivenNames u); refine (show Keeps s₀ u → _ from fun hu => ?_) ?_; (on_goal 1 => clear_value u); (on_goal 2 => unfold u))
    | ((fail_if_no_progress extract_lets +onlyGivenNames u); clear_value u)
    | (intro s1 a1 h1)
    | split
    | with_reducible apply State.updSrc_keeps
    | with_reducible apply State.errPull_keeps
    | with_reducible apply State.forCh_keeps
    | with_reducible apply Keeps.foldl
    | with_reducible apply State.wr_keeps
    | with_reducible apply Keeps.parts
    | with_reducible apply Keeps.sec
    | with_reducible apply Keeps.drop
    | with_reducible apply Keeps.renew
    | (fail_if_no_progress dsimp -zeta only))

/-- `clearRec` keeps what every operation keeps. -/
theorem State.clearRec_keeps {s₀ s : State} (h : Keeps s₀ s) (m : Nat) (val : Word) : Keeps s₀ (s.clearRec m val) := by
  unfold State.clearRec
  repeat' (first
    | with_reducible assumption
    | ((fail_if_no_progress extract_lets +onlyGivenNames u); refine (show Keeps s₀ u → _ from fun hu => ?_) ?_; (on_goal 1 => clear_value u); (on_goal 2 => unfold u))
    | ((fail_if_no_progress extract_lets +onlyGivenNames u); clear_value u)
    | (intro s1 a1 h1)
    | split
    | with_reducible apply State.updSrc_keeps
    | with_reducible apply State.forCh_keeps
    | with_reducible apply Keeps.foldl
    | with_reducible apply State.wr_keeps
    | with_reducible apply Keeps.parts
    | with_reducible apply Keeps.sec
    | with_reducible apply Keeps.drop
    | with_reducible apply Keeps.renew
    | (fail_if_no_progress dsimp -zeta only))

/-- `clearLat` keeps what every operation keeps. -/
theorem State.clearLat_keeps {s₀ s : State} (h : Keeps s₀ s) (m : Nat) (val : Word) : Keeps s₀ (s.clearLat m val) := by
  unfold State.clearLat
  repeat' (first
    | with_reducible assumption
    | ((fail_if_no_progress extract_lets +onlyGivenNames u); refine (show Keeps s₀ u → _ from fun hu => ?_) ?_; (on_goal 1 => clear_value u); (on_goal 2 => unfold u))
    | ((fail_if_no_progress extract_lets +onlyGivenNames u); clear_value u)
    | (intro s1 a1 h1)
    | split
    | with_reducible apply State.updCmp_keeps
    | with_reducible apply State.forCh_keeps
    | with_reducible apply Keeps.foldl
    | with_reducible apply State.wr_keeps
    | with_reducible apply Keeps.parts
    | with_reducible apply Keeps.sec
    | with_reducible apply Keeps.drop
    | with_reducible apply Keeps.renew
    | (fail_if_no_progress dsimp -zeta only))

/-- `fxDebug` keeps what every operation keeps. -/
theorem State.fxDebug_keeps {s₀ s : State} (h : Keeps s₀ s) (old : State) : Keeps s₀ (s.fxDebug old) := by
  unfold State.fxDebug
  repeat' (first
    | with_reducible assumption
    | ((fail_if_no_progress extract_lets +onlyGivenNames u); refine (show Keeps s₀ u → _ from fun hu => ?_) ?_; (on_goal 1 => clear_value u); (on_goal 2 => unfold u))
    | ((fail_if_no_progress extract_lets +onlyGivenNames u); clear_value u)
    | (intro s1 a1 h1)
    | split
    | with_reducible apply State.wr_keeps
    | with_reducible apply State.wr_keeps
    | with_reducible apply State.gatesOff_keeps
    | with_reducible apply State.protOpen_keeps
    | with_reducible apply State.motGatesOff_keeps
    | with_reducible apply State.raiseDev_keeps
    | with_reducible apply State.forCh_keeps
    | with_reducible apply Keeps.foldl
    | with_reducible apply State.wr_keeps
    | with_reducible apply Keeps.parts
    | with_reducible apply Keeps.sec
    | with_reducible apply Keeps.drop
    | with_reducible apply Keeps.renew
    | (fail_if_no_progress dsimp -zeta only))

/-- `fxBootGo` keeps what every operation keeps. -/
theorem State.fxBootGo_keeps {s₀ s : State} (h : Keeps s₀ s) (m : Option (Option Manifest)) : Keeps s₀ (s.fxBootGo m) := by
  unfold State.fxBootGo
  repeat' (first
    | with_reducible assumption
    | ((fail_if_no_progress extract_lets +onlyGivenNames u); refine (show Keeps s₀ u → _ from fun hu => ?_) ?_; (on_goal 1 => clear_value u); (on_goal 2 => unfold u))
    | ((fail_if_no_progress extract_lets +onlyGivenNames u); clear_value u)
    | (intro s1 a1 h1)
    | split
    | with_reducible apply State.wr_keeps
    | with_reducible apply State.wr_keeps
    | with_reducible apply State.bootGo_keeps
    | with_reducible apply State.forCh_keeps
    | with_reducible apply Keeps.foldl
    | with_reducible apply State.wr_keeps
    | with_reducible apply Keeps.parts
    | with_reducible apply Keeps.sec
    | with_reducible apply Keeps.drop
    | with_reducible apply Keeps.renew
    | (fail_if_no_progress dsimp -zeta only))

/-- `writeFx2` keeps what every operation keeps. -/
theorem State.writeFx2_keeps {s₀ s : State} (h : Keeps s₀ s) (old : State) (off : Nat) (val : Word) (m : Option (Option Manifest)) : Keeps s₀ (s.writeFx2 old off val m) := by
  unfold State.writeFx2
  refine Keeps.ite (State.clearRec_keeps h ..) ?_
  refine Keeps.ite (State.setReact_keeps h ..) ?_
  refine Keeps.ite (State.fxInject_keeps h ..) ?_
  refine Keeps.ite (State.fxDumpCtl_keeps h ..) ?_
  refine Keeps.ite (State.fxKctl_keeps h ..) ?_
  refine Keeps.ite (State.cmpRestart_keeps h ..) ?_
  refine Keeps.ite (Keeps.ite (State.fxBootGo_keeps h ..) h) ?_
  refine Keeps.ite (Keeps.ite (State.newChallenge_keeps h ..) h) ?_
  refine Keeps.ite (Keeps.ite h (State.cmpRestart_keeps h ..)) ?_
  refine Keeps.ite (State.clearLat_keeps h ..) ?_
  refine Keeps.ite (State.fxDebug_keeps h ..) ?_
  exact Keeps.ite (Keeps.ite (State.leStepGo_keeps h ..) h) h

/-- `fxLedger` keeps what every operation keeps. -/
theorem State.fxLedger_keeps {s₀ s : State} (h : Keeps s₀ s) (c : Ch) (snap clear : Bool) : Keeps s₀ (s.fxLedger c snap clear) := by
  unfold State.fxLedger
  repeat' (first
    | with_reducible assumption
    | ((fail_if_no_progress extract_lets +onlyGivenNames u); refine (show Keeps s₀ u → _ from fun hu => ?_) ?_; (on_goal 1 => clear_value u); (on_goal 2 => unfold u))
    | ((fail_if_no_progress extract_lets +onlyGivenNames u); clear_value u)
    | (intro s1 a1 h1)
    | split
    | with_reducible apply State.updMet_keeps
    | with_reducible apply State.ledger_keeps
    | with_reducible apply State.forCh_keeps
    | with_reducible apply Keeps.foldl
    | with_reducible apply State.wr_keeps
    | with_reducible apply Keeps.parts
    | with_reducible apply Keeps.sec
    | with_reducible apply Keeps.drop
    | with_reducible apply Keeps.renew
    | (fail_if_no_progress dsimp -zeta only))

/-- `writeFx3` keeps what every operation keeps. -/
theorem State.writeFx3_keeps {s₀ s : State} (h : Keeps s₀ s) (old : State) (off : Nat) (val : Word) : Keeps s₀ (s.writeFx3 old off val) := by
  unfold State.writeFx3
  repeat' (first
    | with_reducible assumption
    | ((fail_if_no_progress extract_lets +onlyGivenNames u); refine (show Keeps s₀ u → _ from fun hu => ?_) ?_; (on_goal 1 => clear_value u); (on_goal 2 => unfold u))
    | ((fail_if_no_progress extract_lets +onlyGivenNames u); clear_value u)
    | (intro s1 a1 h1)
    | split
    | with_reducible apply State.updMet_keeps
    | with_reducible apply State.fxMeasClose_keeps
    | with_reducible apply State.fxKelTest_keeps
    | with_reducible apply State.cmpRestart_keeps
    | with_reducible apply State.fxPcmd_keeps
    | with_reducible apply State.fxTrctl_keeps
    | with_reducible apply State.fxLedger_keeps
    | with_reducible apply State.forCh_keeps
    | with_reducible apply Keeps.foldl
    | with_reducible apply State.wr_keeps
    | with_reducible apply Keeps.parts
    | with_reducible apply Keeps.sec
    | with_reducible apply Keeps.drop
    | with_reducible apply Keeps.renew
    | (fail_if_no_progress dsimp -zeta only))

/-- `regPut` keeps what every operation keeps. -/
theorem State.regPut_keeps {s₀ s : State} (h : Keeps s₀ s) (path : Path) (off : Nat) (val : Word) (m : Option (Option Manifest)) : Keeps s₀ (s.regPut path off val m).1 := by
  unfold State.regPut
  split
  · exact h
  extract_lets +onlyGivenNames code
  split
  · exact State.writeErr_keeps h ..
  extract_lets +onlyGivenNames t
  have ht : Keeps s₀ t := Keeps.foldl _ (fun _ _ h => State.putField_keeps h ..) h
  exact State.writeFx3_keeps (State.writeFx2_keeps (State.writeFx1_keeps ht ..) ..) ..

/-- `putWords` keeps what every operation keeps. -/
theorem State.putWords_keeps {s₀ s : State} (h : Keeps s₀ s) (path : Path) (off : Nat) (ws : List Word) (m : Option (Option Manifest)) : Keeps s₀ (s.putWords path off ws m) := by
  induction ws generalizing s off with
  | nil =>
    unfold State.putWords
    exact h
  | cons w t ih =>
    unfold State.putWords
    split
    · exact Keeps.parts h ..
    · exact ih (State.regPut_keeps h ..) _

/-- `put1` keeps what every operation keeps. -/
theorem State.put1_keeps {s₀ s : State} (h : Keeps s₀ s) (path : Path) (off : Nat) (val : Word) : Keeps s₀ (s.put1 path off val) := by
  unfold State.put1
  repeat' (first
    | with_reducible assumption
    | ((fail_if_no_progress extract_lets +onlyGivenNames u); refine (show Keeps s₀ u → _ from fun hu => ?_) ?_; (on_goal 1 => clear_value u); (on_goal 2 => unfold u))
    | ((fail_if_no_progress extract_lets +onlyGivenNames u); clear_value u)
    | (intro s1 a1 h1)
    | split
    | with_reducible apply State.putWords_keeps
    | with_reducible apply State.forCh_keeps
    | with_reducible apply Keeps.foldl
    | with_reducible apply State.wr_keeps
    | with_reducible apply Keeps.parts
    | with_reducible apply Keeps.sec
    | with_reducible apply Keeps.drop
    | with_reducible apply Keeps.renew
    | (fail_if_no_progress dsimp -zeta only))

/-- `latchHigh` keeps what every operation keeps. -/
theorem State.latchHigh_keeps {s₀ s : State} (h : Keeps s₀ s) (off : Nat) : Keeps s₀ (s.latchHigh off) := by
  unfold State.latchHigh
  repeat' (first
    | with_reducible assumption
    | ((fail_if_no_progress extract_lets +onlyGivenNames u); refine (show Keeps s₀ u → _ from fun hu => ?_) ?_; (on_goal 1 => clear_value u); (on_goal 2 => unfold u))
    | ((fail_if_no_progress extract_lets +onlyGivenNames u))
    | (intro s1 a1 h1)
    | split
    | with_reducible apply State.wr_keeps
    | with_reducible apply State.wr_keeps
    | with_reducible apply State.forCh_keeps
    | with_reducible apply Keeps.foldl
    | with_reducible apply State.wr_keeps
    | with_reducible apply Keeps.parts
    | with_reducible apply Keeps.sec
    | with_reducible apply Keeps.drop
    | with_reducible apply Keeps.renew
    | (fail_if_no_progress dsimp -zeta only))

/-- `readFx` keeps what every operation keeps. -/
theorem State.readFx_keeps {s₀ s : State} (h : Keeps s₀ s) (off : Nat) : Keeps s₀ (s.readFx off) := by
  unfold State.readFx
  repeat' (first
    | with_reducible assumption
    | ((fail_if_no_progress extract_lets +onlyGivenNames u); refine (show Keeps s₀ u → _ from fun hu => ?_) ?_; (on_goal 1 => clear_value u); (on_goal 2 => unfold u))
    | ((fail_if_no_progress extract_lets +onlyGivenNames u); clear_value u)
    | (intro s1 a1 h1)
    | split
    | with_reducible apply State.incWrap_keeps
    | with_reducible apply State.rdTrdata_keeps
    | with_reducible apply State.rdDdata_keeps
    | with_reducible apply State.latchHigh_keeps
    | with_reducible apply State.forCh_keeps
    | with_reducible apply Keeps.foldl
    | with_reducible apply State.wr_keeps
    | with_reducible apply Keeps.parts
    | with_reducible apply Keeps.sec
    | with_reducible apply Keeps.drop
    | with_reducible apply Keeps.renew
    | (fail_if_no_progress dsimp -zeta only))

/-- `regGet` keeps what every operation keeps. -/
theorem State.regGet_keeps {s₀ s : State} (h : Keeps s₀ s) (off : Nat) : Keeps s₀ (s.regGet off).2 := by
  unfold State.regGet
  repeat' (first
    | with_reducible assumption
    | ((fail_if_no_progress extract_lets +onlyGivenNames u); refine (show Keeps s₀ u → _ from fun hu => ?_) ?_; (on_goal 1 => clear_value u); (on_goal 2 => unfold u))
    | ((fail_if_no_progress extract_lets +onlyGivenNames u); clear_value u)
    | (intro s1 a1 h1)
    | split
    | with_reducible apply State.readFx_keeps
    | with_reducible apply State.forCh_keeps
    | with_reducible apply Keeps.foldl
    | with_reducible apply State.wr_keeps
    | with_reducible apply Keeps.parts
    | with_reducible apply Keeps.sec
    | with_reducible apply Keeps.drop
    | with_reducible apply Keeps.renew
    | (fail_if_no_progress dsimp -zeta only))

/-- `getWords` keeps what every operation keeps. -/
theorem State.getWords_keeps {s₀ s : State} (h : Keeps s₀ s) (off n : Nat) : Keeps s₀ (s.getWords off n).2 := by
  induction n with
  | zero => exact h
  | succ n ih =>
    unfold State.getWords
    exact State.regGet_keeps ih _

/-- `answerRead` keeps what every operation keeps. -/
theorem State.answerRead_keeps {s₀ s : State} (h : Keeps s₀ s) (off n : Nat) : Keeps s₀ (s.answerRead off n) := by
  unfold State.answerRead
  split
  · exact h
  split
  · exact Keeps.parts h ..
  · exact State.emit_keeps (State.getWords_keeps h off n) _

/-- `unsupported` keeps what every operation keeps. -/
theorem State.unsupported_keeps {s₀ s : State} (h : Keeps s₀ s) : Keeps s₀ (s.unsupported) := by
  unfold State.unsupported
  repeat' (first
    | with_reducible assumption
    | ((fail_if_no_progress extract_lets +onlyGivenNames u); refine (show Keeps s₀ u → _ from fun hu => ?_) ?_; (on_goal 1 => clear_value u); (on_goal 2 => unfold u))
    | ((fail_if_no_progress extract_lets +onlyGivenNames u); clear_value u)
    | (intro s1 a1 h1)
    | split
    | with_reducible apply State.emit_keeps
    | with_reducible apply State.forCh_keeps
    | with_reducible apply Keeps.foldl
    | with_reducible apply State.wr_keeps
    | with_reducible apply Keeps.parts
    | with_reducible apply Keeps.sec
    | with_reducible apply Keeps.drop
    | with_reducible apply Keeps.renew
    | (fail_if_no_progress dsimp -zeta only))

end Sys2Proof.Machine
end

