-- ==== Sys2Proof/Laws/KeepsBar1.lean ====
section
/-! SUPPORT. What the operations of Bar1.lean keep (Keeps.lean). -/

set_option linter.all false
set_option linter.unusedTactic false
set_option linter.unreachableTactic false
namespace Sys2Proof.Machine

/-- `regNext` keeps what every operation keeps. -/
theorem State.regNext_keeps {s₀ s : State} (h : Keeps s₀ s) (r : RegPend) : Keeps s₀ (s.regNext r) := by
  unfold State.regNext
  repeat' (first
    | with_reducible assumption
    | ((fail_if_no_progress extract_lets +onlyGivenNames u); refine (show Keeps s₀ u → _ from fun hu => ?_) ?_; (on_goal 1 => clear_value u); (on_goal 2 => unfold u))
    | ((fail_if_no_progress extract_lets +onlyGivenNames u); clear_value u)
    | (intro s1 a1 h1)
    | split
    | with_reducible apply State.queueFrame_keeps
    | with_reducible apply State.forCh_keeps
    | with_reducible apply Keeps.foldl
    | with_reducible apply State.wr_keeps
    | with_reducible apply Keeps.parts
    | with_reducible apply Keeps.sec
    | with_reducible apply Keeps.drop
    | with_reducible apply Keeps.renew
    | (fail_if_no_progress dsimp -zeta only))

/-- `regPuts` keeps what every operation keeps. -/
theorem State.regPuts_keeps {s₀ s : State} (h : Keeps s₀ s) (off : Nat) (ws : List Word) :
    Keeps s₀ (s.regPuts off ws).1 := by
  induction ws generalizing s off with
  | nil => exact h
  | cons w t ih =>
    unfold State.regPuts
    exact ih (State.regPut_keeps h ..) _

/-- `serveReg` keeps what every operation keeps. -/
theorem State.serveReg_keeps {s₀ s : State} (h : Keeps s₀ s) (f : Frame) : Keeps s₀ (s.serveReg f) := by
  unfold State.serveReg
  extract_lets +onlyGivenNames off n
  split
  · exact Keeps.parts h ..
  by_cases hw : regWrites f = true
  · simp only [if_pos hw]
    have hr := State.regPuts_keeps h off f.payload
    generalize s.regPuts off f.payload = r at hr
    obtain ⟨t, bad⟩ := r
    exact State.queueFrame_keeps (Keeps.parts hr ..) _
  · simp only [if_neg hw]
    have hr := State.getWords_keeps h off n
    generalize s.getWords off n = r at hr
    obtain ⟨ws, t⟩ := r
    exact State.queueFrame_keeps (Keeps.parts hr ..) _

end Sys2Proof.Machine
end

