-- ==== Sys2Proof/Laws/KeepsAdmin.lean ====
section
/-! SUPPORT. What the operations of Admin.lean keep (Keeps.lean). -/

set_option linter.all false
set_option linter.unusedTactic false
set_option linter.unreachableTactic false
namespace Sys2Proof.Machine

/-- `admDrop` keeps what every operation keeps. -/
theorem State.admDrop_keeps {s₀ s : State} (h : Keeps s₀ s) : Keeps s₀ (s.admDrop) := by
  unfold State.admDrop
  repeat' (first
    | with_reducible assumption
    | ((fail_if_no_progress extract_lets +onlyGivenNames u); refine (show Keeps s₀ u → _ from fun hu => ?_) ?_; (on_goal 1 => clear_value u); (on_goal 2 => unfold u))
    | ((fail_if_no_progress extract_lets +onlyGivenNames u); clear_value u)
    | (intro s1 a1 h1)
    | split
    | with_reducible apply State.updQ_keeps
    | with_reducible apply State.forCh_keeps
    | with_reducible apply Keeps.foldl
    | with_reducible apply State.wr_keeps
    | with_reducible apply Keeps.parts
    | with_reducible apply Keeps.sec
    | with_reducible apply Keeps.drop
    | with_reducible apply Keeps.renew
    | (fail_if_no_progress dsimp -zeta only))

/-- `admBegin` keeps what every operation keeps. -/
theorem State.admBegin_keeps {s₀ s : State} (h : Keeps s₀ s) (op : Nat) (a : AdmHdr) (g : List Word → Bool)
    {f : State → State} (hf : ∀ t, Keeps s₀ t → Keeps s₀ (f t)) : Keeps s₀ (s.admBegin op a g f) := by
  unfold State.admBegin
  exact Keeps.ite (hf _ (State.updQ_keeps h ..)) h

/-- `admWait` keeps what every operation keeps. -/
theorem State.admWait_keeps {s₀ s : State} (h : Keeps s₀ s) (op : Nat) (a : AdmHdr) (arg : Nat) : Keeps s₀ (s.admWait op a arg) := by
  unfold State.admWait
  repeat' (first
    | with_reducible assumption
    | ((fail_if_no_progress extract_lets +onlyGivenNames u); refine (show Keeps s₀ u → _ from fun hu => ?_) ?_; (on_goal 1 => clear_value u); (on_goal 2 => unfold u))
    | ((fail_if_no_progress extract_lets +onlyGivenNames u); clear_value u)
    | (intro s1 a1 h1)
    | split
    | with_reducible apply State.forCh_keeps
    | with_reducible apply Keeps.foldl
    | with_reducible apply State.wr_keeps
    | with_reducible apply Keeps.parts
    | with_reducible apply Keeps.sec
    | with_reducible apply Keeps.drop
    | with_reducible apply Keeps.renew
    | (fail_if_no_progress dsimp -zeta only))

/-- `goTo` keeps what every operation keeps. -/
theorem State.goTo_keeps {s₀ s : State} (h : Keeps s₀ s) (m : Mode) : Keeps s₀ (s.goTo m) := by
  unfold State.goTo
  repeat' (first
    | with_reducible assumption
    | ((fail_if_no_progress extract_lets +onlyGivenNames u); refine (show Keeps s₀ u → _ from fun hu => ?_) ?_; (on_goal 1 => clear_value u); (on_goal 2 => unfold u))
    | ((fail_if_no_progress extract_lets +onlyGivenNames u); clear_value u)
    | (intro s1 a1 h1)
    | split
    | with_reducible apply State.forCh_keeps
    | with_reducible apply Keeps.foldl
    | with_reducible apply State.wr_keeps
    | with_reducible apply Keeps.parts
    | with_reducible apply Keeps.sec
    | with_reducible apply Keeps.drop
    | with_reducible apply Keeps.renew
    | (fail_if_no_progress dsimp -zeta only))

/-- `admReg` keeps what every operation keeps. -/
theorem State.admReg_keeps {s₀ s : State} (h : Keeps s₀ s) (op : Nat) (a : AdmHdr) (off : Nat) (val : Word) : Keeps s₀ (s.admReg op a off val) := by
  unfold State.admReg
  refine Keeps.ite ?_ ?_
  · have hr := State.regGet_keeps h off
    generalize s.regGet off = r at hr
    exact State.admDone_keeps hr ..
  · have hr := State.regPut_keeps h .regWrite off val none
    generalize s.regPut .regWrite off val none = r at hr
    exact State.admDone_keeps hr ..

/-- `admRegStart` keeps what every operation keeps. -/
theorem State.admRegStart_keeps {s₀ s : State} (h : Keeps s₀ s) (op : Nat) (a : AdmHdr) (off : Word) (val : Word) : Keeps s₀ (s.admRegStart op a off val) := by
  unfold State.admRegStart
  repeat' (first
    | with_reducible assumption
    | ((fail_if_no_progress extract_lets +onlyGivenNames u); refine (show Keeps s₀ u → _ from fun hu => ?_) ?_; (on_goal 1 => clear_value u); (on_goal 2 => unfold u))
    | ((fail_if_no_progress extract_lets +onlyGivenNames u); clear_value u)
    | (intro s1 a1 h1)
    | split
    | with_reducible apply State.admDone_keeps
    | with_reducible apply State.admWait_keeps
    | with_reducible apply State.admReg_keeps
    | with_reducible apply State.forCh_keeps
    | with_reducible apply Keeps.foldl
    | with_reducible apply State.wr_keeps
    | with_reducible apply Keeps.parts
    | with_reducible apply Keeps.sec
    | with_reducible apply Keeps.drop
    | with_reducible apply Keeps.renew
    | (fail_if_no_progress dsimp -zeta only))

/-- `loadProfile` keeps what every operation keeps. -/
theorem State.loadProfile_keeps {s₀ s : State} (h : Keeps s₀ s) (a : AdmHdr) (q : Quad) (slot : Fin 8) (img : Option (List Word)) : Keeps s₀ (s.loadProfile a q slot img) := by
  unfold State.loadProfile
  repeat' (first
    | with_reducible assumption
    | ((fail_if_no_progress extract_lets +onlyGivenNames u); refine (show Keeps s₀ u → _ from fun hu => ?_) ?_; (on_goal 1 => clear_value u); (on_goal 2 => unfold u))
    | ((fail_if_no_progress extract_lets +onlyGivenNames u); clear_value u)
    | (intro s1 a1 h1)
    | split
    | with_reducible apply State.wr_keeps
    | with_reducible apply State.wr_keeps
    | with_reducible apply State.updQd_keeps
    | with_reducible apply State.admDone_keeps
    | with_reducible apply State.admWait_keeps
    | with_reducible apply State.forCh_keeps
    | with_reducible apply Keeps.foldl
    | with_reducible apply State.wr_keeps
    | with_reducible apply Keeps.parts
    | with_reducible apply Keeps.sec
    | with_reducible apply Keeps.drop
    | with_reducible apply Keeps.renew
    | (fail_if_no_progress dsimp -zeta only))

/-- `revokeNotices` keeps what every operation keeps. -/
theorem State.revokeNotices_keeps {s₀ s : State} (h : Keeps s₀ s) (q : QId) (base start tail : Nat) : Keeps s₀ (s.revokeNotices q base start tail) := by
  unfold State.revokeNotices
  repeat' (first
    | with_reducible assumption
    | ((fail_if_no_progress extract_lets +onlyGivenNames u); refine (show Keeps s₀ u → _ from fun hu => ?_) ?_; (on_goal 1 => clear_value u); (on_goal 2 => unfold u))
    | ((fail_if_no_progress extract_lets +onlyGivenNames u); clear_value u)
    | (intro s1 a1 h1)
    | (fail_if_no_progress dsimp -zeta only [State.takeNat, State.takeInt])
    | split
    | with_reducible apply State.takeNat_keeps
    | with_reducible apply State.notice_keeps
    | with_reducible apply State.forCh_keeps
    | with_reducible apply Keeps.foldl
    | with_reducible apply State.wr_keeps
    | with_reducible apply Keeps.parts
    | with_reducible apply Keeps.sec
    | with_reducible apply Keeps.drop
    | with_reducible apply Keeps.renew
    | (fail_if_no_progress dsimp -zeta only))

/-- `revokePre` keeps what every operation keeps. -/
theorem State.revokePre_keeps {s₀ s : State} (h : Keeps s₀ s) (q : QId) (base f : Nat) : Keeps s₀ (s.revokePre q base f) := by
  unfold State.revokePre
  repeat' (first
    | with_reducible assumption
    | ((fail_if_no_progress extract_lets +onlyGivenNames u); refine (show Keeps s₀ u → _ from fun hu => ?_) ?_; (on_goal 1 => clear_value u); (on_goal 2 => unfold u))
    | ((fail_if_no_progress extract_lets +onlyGivenNames u); clear_value u)
    | (intro s1 a1 h1)
    | split
    | with_reducible apply State.updQ_keeps
    | with_reducible apply State.forCh_keeps
    | with_reducible apply Keeps.foldl
    | with_reducible apply State.wr_keeps
    | with_reducible apply Keeps.parts
    | with_reducible apply Keeps.sec
    | with_reducible apply Keeps.drop
    | with_reducible apply Keeps.renew
    | (fail_if_no_progress dsimp -zeta only))

/-- `revokeCh` keeps what every operation keeps. -/
theorem State.revokeCh_keeps {s₀ s : State} (h : Keeps s₀ s) (c : Ch) (f : Nat) : Keeps s₀ (s.revokeCh c f) := by
  unfold State.revokeCh
  repeat' (first
    | with_reducible assumption
    | ((fail_if_no_progress extract_lets +onlyGivenNames u); refine (show Keeps s₀ u → _ from fun hu => ?_) ?_; (on_goal 1 => clear_value u); (on_goal 2 => unfold u))
    | ((fail_if_no_progress extract_lets +onlyGivenNames u); clear_value u)
    | (intro s1 a1 h1)
    | split
    | with_reducible apply State.updSeq_keeps
    | with_reducible apply State.decideEnd_keeps
    | with_reducible apply State.revokeNotices_keeps
    | with_reducible apply State.revokePre_keeps
    | with_reducible apply State.forCh_keeps
    | with_reducible apply Keeps.foldl
    | with_reducible apply State.wr_keeps
    | with_reducible apply Keeps.parts
    | with_reducible apply Keeps.sec
    | with_reducible apply Keeps.drop
    | with_reducible apply Keeps.renew
    | (fail_if_no_progress dsimp -zeta only))

/-- `revokeMot` keeps what every operation keeps. -/
theorem State.revokeMot_keeps {s₀ s : State} (h : Keeps s₀ s) (f : Nat) : Keeps s₀ (s.revokeMot f) := by
  unfold State.revokeMot
  repeat' (first
    | with_reducible assumption
    | ((fail_if_no_progress extract_lets +onlyGivenNames u); refine (show Keeps s₀ u → _ from fun hu => ?_) ?_; (on_goal 1 => clear_value u); (on_goal 2 => unfold u))
    | ((fail_if_no_progress extract_lets +onlyGivenNames u); clear_value u)
    | (intro s1 a1 h1)
    | split
    | with_reducible apply State.updQ_keeps
    | with_reducible apply State.motEnd_keeps
    | with_reducible apply State.revokeNotices_keeps
    | with_reducible apply State.revokePre_keeps
    | with_reducible apply State.forCh_keeps
    | with_reducible apply Keeps.foldl
    | with_reducible apply State.wr_keeps
    | with_reducible apply Keeps.parts
    | with_reducible apply Keeps.sec
    | with_reducible apply Keeps.drop
    | with_reducible apply Keeps.renew
    | (fail_if_no_progress dsimp -zeta only))

/-- `revoke` keeps what every operation keeps. -/
theorem State.revoke_keeps {s₀ s : State} (h : Keeps s₀ s) (a : AdmHdr) (q : QId) (f : Nat) : Keeps s₀ (s.revoke a q f) := by
  unfold State.revoke
  repeat' (first
    | with_reducible assumption
    | ((fail_if_no_progress extract_lets +onlyGivenNames u); refine (show Keeps s₀ u → _ from fun hu => ?_) ?_; (on_goal 1 => clear_value u); (on_goal 2 => unfold u))
    | ((fail_if_no_progress extract_lets +onlyGivenNames u); clear_value u)
    | (intro s1 a1 h1)
    | split
    | with_reducible apply State.admDone_keeps
    | with_reducible apply State.revokeCh_keeps
    | with_reducible apply State.revokeMot_keeps
    | with_reducible apply State.forCh_keeps
    | with_reducible apply Keeps.foldl
    | with_reducible apply State.wr_keeps
    | with_reducible apply Keeps.parts
    | with_reducible apply Keeps.sec
    | with_reducible apply Keeps.drop
    | with_reducible apply Keeps.renew
    | (fail_if_no_progress dsimp -zeta only))

/-- `clearFault` keeps what every operation keeps. -/
theorem State.clearFault_keeps {s₀ s : State} (h : Keeps s₀ s) (c : Ch) : Keeps s₀ (s.clearFault c) := by
  unfold State.clearFault
  repeat' (first
    | with_reducible assumption
    | ((fail_if_no_progress extract_lets +onlyGivenNames u); refine (show Keeps s₀ u → _ from fun hu => ?_) ?_; (on_goal 1 => clear_value u); (on_goal 2 => unfold u))
    | ((fail_if_no_progress extract_lets +onlyGivenNames u); clear_value u)
    | (intro s1 a1 h1)
    | split
    | with_reducible apply State.wr_keeps
    | with_reducible apply State.wr_keeps
    | with_reducible apply State.condGone_keeps
    | with_reducible apply State.clearIfGone_keeps
    | with_reducible apply State.stage_keeps
    | with_reducible apply State.forCh_keeps
    | with_reducible apply Keeps.foldl
    | with_reducible apply State.wr_keeps
    | with_reducible apply Keeps.parts
    | with_reducible apply Keeps.sec
    | with_reducible apply Keeps.drop
    | with_reducible apply Keeps.renew
    | (fail_if_no_progress dsimp -zeta only))

/-- `lockCopy` keeps what every operation keeps. -/
theorem State.lockCopy_keeps {s₀ s : State} (h : Keeps s₀ s) : Keeps s₀ (s.lockCopy) := by
  unfold State.lockCopy
  repeat' (first
    | with_reducible assumption
    | ((fail_if_no_progress extract_lets +onlyGivenNames u); refine (show Keeps s₀ u → _ from fun hu => ?_) ?_; (on_goal 1 => clear_value u); (on_goal 2 => unfold u))
    | ((fail_if_no_progress extract_lets +onlyGivenNames u); clear_value u)
    | (intro s1 a1 h1)
    | split
    | with_reducible apply State.forCh_keeps
    | with_reducible apply Keeps.foldl
    | with_reducible apply State.wr_keeps
    | with_reducible apply Keeps.parts
    | with_reducible apply Keeps.sec
    | with_reducible apply Keeps.drop
    | with_reducible apply Keeps.renew
    | (fail_if_no_progress dsimp -zeta only))

/-- `runHeld` keeps what every operation keeps. -/
theorem State.runHeld_keeps {s₀ s : State} (h : Keeps s₀ s) (hh : HeldAcc) : Keeps s₀ (s.runHeld hh) := by
  unfold State.runHeld
  repeat' (first
    | with_reducible assumption
    | ((fail_if_no_progress extract_lets +onlyGivenNames u); refine (show Keeps s₀ u → _ from fun hu => ?_) ?_; (on_goal 1 => clear_value u); (on_goal 2 => unfold u))
    | ((fail_if_no_progress extract_lets +onlyGivenNames u); clear_value u)
    | (intro s1 a1 h1)
    | split
    | with_reducible apply State.putWords_keeps
    | with_reducible apply State.answerRead_keeps
    | with_reducible apply State.serveReg_keeps
    | with_reducible apply State.admReg_keeps
    | with_reducible apply State.forCh_keeps
    | with_reducible apply Keeps.foldl
    | with_reducible apply State.wr_keeps
    | with_reducible apply Keeps.parts
    | with_reducible apply Keeps.sec
    | with_reducible apply Keeps.drop
    | with_reducible apply Keeps.renew
    | (fail_if_no_progress dsimp -zeta only))

/-- `runAllHeld` keeps what every operation keeps. -/
theorem State.runAllHeld_keeps {s₀ s : State} (h : Keeps s₀ s) : Keeps s₀ (s.runAllHeld) := by
  unfold State.runAllHeld
  repeat' (first
    | with_reducible assumption
    | ((fail_if_no_progress extract_lets +onlyGivenNames u); refine (show Keeps s₀ u → _ from fun hu => ?_) ?_; (on_goal 1 => clear_value u); (on_goal 2 => unfold u))
    | ((fail_if_no_progress extract_lets +onlyGivenNames u); clear_value u)
    | (intro s1 a1 h1)
    | split
    | with_reducible apply State.runHeld_keeps
    | with_reducible apply State.forCh_keeps
    | with_reducible apply Keeps.foldl
    | with_reducible apply State.wr_keeps
    | with_reducible apply Keeps.parts
    | with_reducible apply Keeps.sec
    | with_reducible apply Keeps.drop
    | with_reducible apply Keeps.renew
    | (fail_if_no_progress dsimp -zeta only))

/-- `blkAgain` keeps what every operation keeps. -/
theorem State.blkAgain_keeps {s₀ s : State} (h : Keeps s₀ s) (b : Blk) : Keeps s₀ (s.blkAgain b) := by
  unfold State.blkAgain
  repeat' (first
    | with_reducible assumption
    | ((fail_if_no_progress extract_lets +onlyGivenNames u); refine (show Keeps s₀ u → _ from fun hu => ?_) ?_; (on_goal 1 => clear_value u); (on_goal 2 => unfold u))
    | ((fail_if_no_progress extract_lets +onlyGivenNames u); clear_value u)
    | (intro s1 a1 h1)
    | split
    | with_reducible apply State.wr_keeps
    | with_reducible apply State.wr_keeps
    | with_reducible apply State.updQd_keeps
    | with_reducible apply State.condGone_keeps
    | with_reducible apply State.clear_keeps
    | with_reducible apply State.startRing_keeps
    | with_reducible apply State.forCh_keeps
    | with_reducible apply Keeps.foldl
    | with_reducible apply State.wr_keeps
    | with_reducible apply Keeps.parts
    | with_reducible apply Keeps.sec
    | with_reducible apply Keeps.drop
    | with_reducible apply Keeps.renew
    | (fail_if_no_progress dsimp -zeta only))

/-- `wakeUp` keeps what every operation keeps. -/
theorem State.wakeUp_keeps {s₀ s : State} (h : Keeps s₀ s) (k : Nat) : Keeps s₀ (s.wakeUp k) := by
  unfold State.wakeUp
  repeat' (first
    | with_reducible assumption
    | ((fail_if_no_progress extract_lets +onlyGivenNames u); refine (show Keeps s₀ u → _ from fun hu => ?_) ?_; (on_goal 1 => clear_value u); (on_goal 2 => unfold u))
    | ((fail_if_no_progress extract_lets +onlyGivenNames u); clear_value u)
    | (intro s1 a1 h1)
    | split
    | with_reducible apply State.fullReset_keeps
    | with_reducible apply State.forCh_keeps
    | with_reducible apply Keeps.foldl
    | with_reducible apply State.wr_keeps
    | with_reducible apply Keeps.parts
    | with_reducible apply Keeps.sec
    | with_reducible apply Keeps.drop
    | with_reducible apply Keeps.renew
    | (fail_if_no_progress dsimp -zeta only))

/-- `wakeEvent` keeps what every operation keeps. -/
theorem State.wakeEvent_keeps {s₀ s : State} (h : Keeps s₀ s) (on : Bool) (k : Nat) : Keeps s₀ (s.wakeEvent on k) := by
  unfold State.wakeEvent
  repeat' (first
    | with_reducible assumption
    | ((fail_if_no_progress extract_lets +onlyGivenNames u); refine (show Keeps s₀ u → _ from fun hu => ?_) ?_; (on_goal 1 => clear_value u); (on_goal 2 => unfold u))
    | ((fail_if_no_progress extract_lets +onlyGivenNames u); clear_value u)
    | (intro s1 a1 h1)
    | split
    | with_reducible apply State.abandon_keeps
    | with_reducible apply State.wakeUp_keeps
    | with_reducible apply State.forCh_keeps
    | with_reducible apply Keeps.foldl
    | with_reducible apply State.wr_keeps
    | with_reducible apply Keeps.parts
    | with_reducible apply Keeps.sec
    | with_reducible apply Keeps.drop
    | with_reducible apply Keeps.renew
    | (fail_if_no_progress dsimp -zeta only))

/-- `parkSample` keeps what every operation keeps. -/
theorem State.parkSample_keeps {s₀ s : State} (h : Keeps s₀ s) (i : CmpId) (src ch : Nat) (hh : List CmpLevel) : Keeps s₀ (s.parkSample i src ch hh) := by
  unfold State.parkSample
  repeat' (first
    | with_reducible assumption
    | ((fail_if_no_progress extract_lets +onlyGivenNames u); refine (show Keeps s₀ u → _ from fun hu => ?_) ?_; (on_goal 1 => clear_value u); (on_goal 2 => unfold u))
    | ((fail_if_no_progress extract_lets +onlyGivenNames u); clear_value u)
    | (intro s1 a1 h1)
    | split
    | with_reducible apply State.wr_keeps
    | with_reducible apply State.wr_keeps
    | with_reducible apply State.updCmp_keeps
    | with_reducible apply State.forCh_keeps
    | with_reducible apply Keeps.foldl
    | with_reducible apply State.wr_keeps
    | with_reducible apply Keeps.parts
    | with_reducible apply Keeps.sec
    | with_reducible apply Keeps.drop
    | with_reducible apply Keeps.renew
    | (fail_if_no_progress dsimp -zeta only))

end Sys2Proof.Machine
end

