-- ==== Sys2Proof/Laws/Only.lean ====
section
/-!
SUPPORT. The laws of `s.only t ps`, which names the parts of the state that may differ: it composes, so that a meaning is
followed operation by operation without unfolding one.
-/

namespace Sys2Proof.Machine

/-- Nothing changes. -/
theorem State.only_refl (s : State) (ps : List Part) : s.only s ps := ⟨rfl, fun p _ => by cases p <;> rfl⟩

/-- A part of a listed set is listed. -/
theorem Part.sub_mem {l ps : List Part} {p : Part} (h : l ⊆ ps) (hm : p ∈ l) : p ∈ ps := h hm

/-- More parts may differ. -/
theorem State.only_mono {s t : State} {ps qs : List Part} (h : s.only t ps) (k : ps ⊆ qs) : s.only t qs :=
  ⟨h.1, fun p hp => h.2 p (fun e => hp (k e))⟩

/-- One of two ways. -/
theorem State.only_ite {s t u : State} {ps : List Part} {c : Prop} [Decidable c] (h : s.only t ps) (k : s.only u ps) :
    s.only (if c then t else u) ps := by
  split
  · exact h
  · exact k

/-- A walk through a list. -/
theorem State.only_foldl {α : Type} {s t : State} {ps : List Part} {f : State → α → State} (l : List α)
    (k : ∀ t a, s.only t ps → s.only (f t a) ps) (h : s.only t ps) : s.only (l.foldl f t) ps := by
  induction l generalizing t with
  | nil => exact h
  | cons a l ih => exact ih (k t a h)

/-- A walk through channels. -/
theorem State.forCh_only {s t : State} {ps : List Part} {f : State → Ch → State} (l : List Ch)
    (k : ∀ t a, s.only t ps → s.only (f t a) ps) (h : s.only t ps) : s.only (t.forCh l f) ps := State.only_foldl l k h

/-- A record update of listed parts. -/
theorem State.only_mk {s t : State} {ps : List Part} (h : s.only t ps)
    {regs written : RegFile} {sys : SysS} {pins : Pins} {sec : SecS} {host : HostS} {ring : RingS} {flt : FltS} {cmp :
    Vector CmpS 72} {saf : SafS} {met : MetS} {mot : MotS} {ch : Vector Chan 16} {qd : Vector QuadS 4} {free : Nat}
    {out : List Out}
    (h_regs : regs = t.regs ∨ Part.regs ∈ ps :=
      by first | with_reducible exact Or.inl rfl | exact Or.inr (Part.sub_mem (by assumption) (by decide)))
    (h_written : written = t.written ∨ Part.written ∈ ps :=
      by first | with_reducible exact Or.inl rfl | exact Or.inr (Part.sub_mem (by assumption) (by decide)))
    (h_sys : sys = t.sys ∨ Part.sys ∈ ps :=
      by first | with_reducible exact Or.inl rfl | exact Or.inr (Part.sub_mem (by assumption) (by decide)))
    (h_pins : pins = t.pins ∨ Part.pins ∈ ps :=
      by first | with_reducible exact Or.inl rfl | exact Or.inr (Part.sub_mem (by assumption) (by decide)))
    (h_sec : sec = t.sec ∨ Part.sec ∈ ps :=
      by first | with_reducible exact Or.inl rfl | exact Or.inr (Part.sub_mem (by assumption) (by decide)))
    (h_host : host = t.host ∨ Part.host ∈ ps :=
      by first | with_reducible exact Or.inl rfl | exact Or.inr (Part.sub_mem (by assumption) (by decide)))
    (h_ring : ring = t.ring ∨ Part.ring ∈ ps :=
      by first | with_reducible exact Or.inl rfl | exact Or.inr (Part.sub_mem (by assumption) (by decide)))
    (h_flt : flt = t.flt ∨ Part.flt ∈ ps :=
      by first | with_reducible exact Or.inl rfl | exact Or.inr (Part.sub_mem (by assumption) (by decide)))
    (h_cmp : cmp = t.cmp ∨ Part.cmp ∈ ps :=
      by first | with_reducible exact Or.inl rfl | exact Or.inr (Part.sub_mem (by assumption) (by decide)))
    (h_saf : saf = t.saf ∨ Part.saf ∈ ps :=
      by first | with_reducible exact Or.inl rfl | exact Or.inr (Part.sub_mem (by assumption) (by decide)))
    (h_met : met = t.met ∨ Part.met ∈ ps :=
      by first | with_reducible exact Or.inl rfl | exact Or.inr (Part.sub_mem (by assumption) (by decide)))
    (h_mot : mot = t.mot ∨ Part.mot ∈ ps :=
      by first | with_reducible exact Or.inl rfl | exact Or.inr (Part.sub_mem (by assumption) (by decide)))
    (h_ch : ch = t.ch ∨ Part.ch ∈ ps :=
      by first | with_reducible exact Or.inl rfl | exact Or.inr (Part.sub_mem (by assumption) (by decide)))
    (h_qd : qd = t.qd ∨ Part.qd ∈ ps :=
      by first | with_reducible exact Or.inl rfl | exact Or.inr (Part.sub_mem (by assumption) (by decide)))
    (h_free : free = t.free ∨ Part.free ∈ ps :=
      by first | with_reducible exact Or.inl rfl | exact Or.inr (Part.sub_mem (by assumption) (by decide)))
    (h_out : out = t.out ∨ Part.out ∈ ps :=
      by first | with_reducible exact Or.inl rfl | exact Or.inr (Part.sub_mem (by assumption) (by decide)))
    : s.only ⟨t.pending, regs, written, sys, pins, sec, host, ring, flt, cmp, saf, met, mot, ch, qd, free, out⟩ ps := by
  refine ⟨h.1, fun p hp => ?_⟩
  have := h.2 p hp
  cases p
  · exact (h_regs.resolve_right hp).trans this
  · exact (h_written.resolve_right hp).trans this
  · exact (h_sys.resolve_right hp).trans this
  · exact (h_pins.resolve_right hp).trans this
  · exact (h_sec.resolve_right hp).trans this
  · exact (h_host.resolve_right hp).trans this
  · exact (h_ring.resolve_right hp).trans this
  · exact (h_flt.resolve_right hp).trans this
  · exact (h_cmp.resolve_right hp).trans this
  · exact (h_saf.resolve_right hp).trans this
  · exact (h_met.resolve_right hp).trans this
  · exact (h_mot.resolve_right hp).trans this
  · exact (h_ch.resolve_right hp).trans this
  · exact (h_qd.resolve_right hp).trans this
  · exact (h_free.resolve_right hp).trans this
  · exact (h_out.resolve_right hp).trans this

/-- A write of a field. -/
theorem State.wr_only {s t : State} {ps : List Part} (h : s.only t ps) (f : Fld) (v : Nat)
    (_hp : [Part.regs] ⊆ ps := by refine List.Subset.trans ?_ (by assumption); decide) : s.only (t.wr f v) ps :=
  State.only_mk h

end Sys2Proof.Machine
end

