-- ==== Sys2Proof/Laws/State.lean ====
section
/-!
SUPPORT. Laws of the parts of the state: what each update leaves as it was, and what a bank, a channel, a queue or a
source reads after an update.
-/

namespace Sys2Proof.Machine

/-! ### Banks -/

/-- A changed element reads as changed. -/
@[simp] theorem bget_bupd_same {α : Type} {n : Nat} (v : Vector α n) (i : Fin n) (f : α → α) :
    bget (bupd v i f) i = f (bget v i) := by
  simp [bget, bupd]

/-- A change of an element leaves every other alone. -/
theorem bget_bupd_other {α : Type} {n : Nat} (v : Vector α n) {i j : Fin n} (f : α → α) (h : i ≠ j) :
    bget (bupd v i f) j = bget v j := by
  have : i.val ≠ j.val := fun e => h (Fin.ext e)
  simp [bget, bupd, this]

/-- An element of a bank changed throughout. -/
@[simp] theorem bget_bmap {α β : Type} {n : Nat} (f : α → β) (v : Vector α n) (i : Fin n) :
    bget (bmap f v) i = f (bget v i) := by
  simp only [bget, bmap]
  show (v.toList.map f).toArray[i.val]'_ = f v[i]
  simp

/-! ### Channels, quads, queues, sources -/

/-- A changed channel reads as changed. -/
@[simp] theorem State.chan_updCh_same (s : State) (c : Ch) (f : Chan → Chan) : (s.updCh c f).chan c = f (s.chan c) :=
  bget_bupd_same _ _ _

/-- A change of a channel leaves every other alone. -/
theorem State.chan_updCh_other (s : State) {c d : Ch} (f : Chan → Chan) (h : c ≠ d) :
    (s.updCh c f).chan d = s.chan d := bget_bupd_other _ _ h

/-- A changed queue reads as changed. -/
@[simp] theorem State.subq_updQ_same (s : State) (q : QId) (f : SubQ → SubQ) : (s.updQ q f).subq q = f (s.subq q) :=
  bget_bupd_same _ _ _

/-- A change of a queue leaves every other alone. -/
theorem State.subq_updQ_other (s : State) {q r : QId} (f : SubQ → SubQ) (h : q ≠ r) :
    (s.updQ q f).subq r = s.subq r := bget_bupd_other _ _ h

/-- A changed source reads as changed. -/
@[simp] theorem State.src_updSrc_same (s : State) (n : Src) (f : SrcS → SrcS) : (s.updSrc n f).src n = f (s.src n) :=
  bget_bupd_same _ _ _

/-- A change of a source leaves every other alone. -/
theorem State.src_updSrc_other (s : State) {n m : Src} (f : SrcS → SrcS) (h : n ≠ m) :
    (s.updSrc n f).src m = s.src m := bget_bupd_other _ _ h

/-- A changed quad reads as changed. -/
@[simp] theorem State.quad_updQd_same (s : State) (q : Quad) (f : QuadS → QuadS) :
    bget (s.updQd q f).qd q = f (bget s.qd q) := bget_bupd_same _ _ _

/-- A change of a quad leaves every other alone. -/
theorem State.quad_updQd_other (s : State) {q r : Quad} (f : QuadS → QuadS) (h : q ≠ r) :
    bget (s.updQd q f).qd r = bget s.qd r := bget_bupd_other _ _ h

/-- The part of a channel that `updStage` changes. -/
@[simp] theorem State.chan_updStage_same (s : State) (c : Ch) (f : Stage → Stage) :
    (s.updStage c f).chan c = { s.chan c with stage := f (s.chan c).stage } := State.chan_updCh_same _ _ _

/-- `updStage` leaves every other channel alone. -/
theorem State.chan_updStage_other (s : State) {c d : Ch} (f : Stage → Stage) (h : c ≠ d) : (s.updStage c f).chan d = s.chan d :=
  State.chan_updCh_other s _ h

/-- The part of a channel that `updLoop` changes. -/
@[simp] theorem State.chan_updLoop_same (s : State) (c : Ch) (f : LoopS → LoopS) :
    (s.updLoop c f).chan c = { s.chan c with loop := f (s.chan c).loop } := State.chan_updCh_same _ _ _

/-- `updLoop` leaves every other channel alone. -/
theorem State.chan_updLoop_other (s : State) {c d : Ch} (f : LoopS → LoopS) (h : c ≠ d) : (s.updLoop c f).chan d = s.chan d :=
  State.chan_updCh_other s _ h

/-- The part of a channel that `updMet` changes. -/
@[simp] theorem State.chan_updMet_same (s : State) (c : Ch) (f : ChMet → ChMet) :
    (s.updMet c f).chan c = { s.chan c with met := f (s.chan c).met } := State.chan_updCh_same _ _ _

/-- `updMet` leaves every other channel alone. -/
theorem State.chan_updMet_other (s : State) {c d : Ch} (f : ChMet → ChMet) (h : c ≠ d) : (s.updMet c f).chan d = s.chan d :=
  State.chan_updCh_other s _ h

/-- The part of a channel that `updLed` changes. -/
@[simp] theorem State.chan_updLed_same (s : State) (c : Ch) (f : Ledger → Ledger) :
    (s.updLed c f).chan c = { s.chan c with ledger := f (s.chan c).ledger } := State.chan_updCh_same _ _ _

/-- `updLed` leaves every other channel alone. -/
theorem State.chan_updLed_other (s : State) {c d : Ch} (f : Ledger → Ledger) (h : c ≠ d) : (s.updLed c f).chan d = s.chan d :=
  State.chan_updCh_other s _ h

/-- The part of a channel that `updSeq` changes. -/
@[simp] theorem State.chan_updSeq_same (s : State) (c : Ch) (f : ChanS → ChanS) :
    (s.updSeq c f).chan c = { s.chan c with seq := f (s.chan c).seq } := State.chan_updCh_same _ _ _

/-- `updSeq` leaves every other channel alone. -/
theorem State.chan_updSeq_other (s : State) {c d : Ch} (f : ChanS → ChanS) (h : c ≠ d) : (s.updSeq c f).chan d = s.chan d :=
  State.chan_updCh_other s _ h

/-- The part of a channel that `updTlm` changes. -/
@[simp] theorem State.chan_updTlm_same (s : State) (c : Ch) (f : Tlm → Tlm) :
    (s.updTlm c f).chan c = { s.chan c with tlm := f (s.chan c).tlm } := State.chan_updCh_same _ _ _

/-- `updTlm` leaves every other channel alone. -/
theorem State.chan_updTlm_other (s : State) {c d : Ch} (f : Tlm → Tlm) (h : c ≠ d) : (s.updTlm c f).chan d = s.chan d :=
  State.chan_updCh_other s _ h

/-- The sequencer's state after its change. -/
@[simp] theorem State.seq_updSeq_same (s : State) (c : Ch) (f : ChanS → ChanS) : (s.updSeq c f).seq c = f (s.seq c) := by
  unfold State.seq
  rw [State.chan_updSeq_same]

/-- A change of one sequencer leaves every other alone. -/
theorem State.seq_updSeq_other (s : State) {c d : Ch} (f : ChanS → ChanS) (h : c ≠ d) : (s.updSeq c f).seq d = s.seq d := by
  unfold State.seq
  rw [State.chan_updSeq_other s f h]

/-- `updStage` leaves the sequencers alone. -/
@[simp] theorem State.seq_updStage (s : State) (c d : Ch) (f : Stage → Stage) : (s.updStage c f).seq d = s.seq d := by
  unfold State.seq
  by_cases h : c = d
  · subst h
    rw [State.chan_updStage_same]
  · rw [State.chan_updStage_other s f h]

/-- `updLoop` leaves the sequencers alone. -/
@[simp] theorem State.seq_updLoop (s : State) (c d : Ch) (f : LoopS → LoopS) : (s.updLoop c f).seq d = s.seq d := by
  unfold State.seq
  by_cases h : c = d
  · subst h
    rw [State.chan_updLoop_same]
  · rw [State.chan_updLoop_other s f h]

/-- `updMet` leaves the sequencers alone. -/
@[simp] theorem State.seq_updMet (s : State) (c d : Ch) (f : ChMet → ChMet) : (s.updMet c f).seq d = s.seq d := by
  unfold State.seq
  by_cases h : c = d
  · subst h
    rw [State.chan_updMet_same]
  · rw [State.chan_updMet_other s f h]

/-- `updLed` leaves the sequencers alone. -/
@[simp] theorem State.seq_updLed (s : State) (c d : Ch) (f : Ledger → Ledger) : (s.updLed c f).seq d = s.seq d := by
  unfold State.seq
  by_cases h : c = d
  · subst h
    rw [State.chan_updLed_same]
  · rw [State.chan_updLed_other s f h]

/-- `updTlm` leaves the sequencers alone. -/
@[simp] theorem State.seq_updTlm (s : State) (c d : Ch) (f : Tlm → Tlm) : (s.updTlm c f).seq d = s.seq d := by
  unfold State.seq
  by_cases h : c = d
  · subst h
    rw [State.chan_updTlm_same]
  · rw [State.chan_updTlm_other s f h]

/-! ### What an update leaves as it was -/

@[simp] theorem State.wr_pending (s : State) (f : Fld) (v : Nat) : (s.wr f v).pending = s.pending := rfl
@[simp] theorem State.wr_written (s : State) (f : Fld) (v : Nat) : (s.wr f v).written = s.written := rfl
@[simp] theorem State.wr_sys (s : State) (f : Fld) (v : Nat) : (s.wr f v).sys = s.sys := rfl
@[simp] theorem State.wr_pins (s : State) (f : Fld) (v : Nat) : (s.wr f v).pins = s.pins := rfl
@[simp] theorem State.wr_sec (s : State) (f : Fld) (v : Nat) : (s.wr f v).sec = s.sec := rfl
@[simp] theorem State.wr_host (s : State) (f : Fld) (v : Nat) : (s.wr f v).host = s.host := rfl
@[simp] theorem State.wr_ring (s : State) (f : Fld) (v : Nat) : (s.wr f v).ring = s.ring := rfl
@[simp] theorem State.wr_flt (s : State) (f : Fld) (v : Nat) : (s.wr f v).flt = s.flt := rfl
@[simp] theorem State.wr_cmp (s : State) (f : Fld) (v : Nat) : (s.wr f v).cmp = s.cmp := rfl
@[simp] theorem State.wr_saf (s : State) (f : Fld) (v : Nat) : (s.wr f v).saf = s.saf := rfl
@[simp] theorem State.wr_met (s : State) (f : Fld) (v : Nat) : (s.wr f v).met = s.met := rfl
@[simp] theorem State.wr_mot (s : State) (f : Fld) (v : Nat) : (s.wr f v).mot = s.mot := rfl
@[simp] theorem State.wr_ch (s : State) (f : Fld) (v : Nat) : (s.wr f v).ch = s.ch := rfl
@[simp] theorem State.wr_qd (s : State) (f : Fld) (v : Nat) : (s.wr f v).qd = s.qd := rfl
@[simp] theorem State.wr_free (s : State) (f : Fld) (v : Nat) : (s.wr f v).free = s.free := rfl
@[simp] theorem State.wr_out (s : State) (f : Fld) (v : Nat) : (s.wr f v).out = s.out := rfl

@[simp] theorem State.wrS_pending (s : State) (f : Fld) (v : Int) : (s.wrS f v).pending = s.pending := rfl
@[simp] theorem State.wrS_written (s : State) (f : Fld) (v : Int) : (s.wrS f v).written = s.written := rfl
@[simp] theorem State.wrS_sys (s : State) (f : Fld) (v : Int) : (s.wrS f v).sys = s.sys := rfl
@[simp] theorem State.wrS_pins (s : State) (f : Fld) (v : Int) : (s.wrS f v).pins = s.pins := rfl
@[simp] theorem State.wrS_sec (s : State) (f : Fld) (v : Int) : (s.wrS f v).sec = s.sec := rfl
@[simp] theorem State.wrS_host (s : State) (f : Fld) (v : Int) : (s.wrS f v).host = s.host := rfl
@[simp] theorem State.wrS_ring (s : State) (f : Fld) (v : Int) : (s.wrS f v).ring = s.ring := rfl
@[simp] theorem State.wrS_flt (s : State) (f : Fld) (v : Int) : (s.wrS f v).flt = s.flt := rfl
@[simp] theorem State.wrS_cmp (s : State) (f : Fld) (v : Int) : (s.wrS f v).cmp = s.cmp := rfl
@[simp] theorem State.wrS_saf (s : State) (f : Fld) (v : Int) : (s.wrS f v).saf = s.saf := rfl
@[simp] theorem State.wrS_met (s : State) (f : Fld) (v : Int) : (s.wrS f v).met = s.met := rfl
@[simp] theorem State.wrS_mot (s : State) (f : Fld) (v : Int) : (s.wrS f v).mot = s.mot := rfl
@[simp] theorem State.wrS_ch (s : State) (f : Fld) (v : Int) : (s.wrS f v).ch = s.ch := rfl
@[simp] theorem State.wrS_qd (s : State) (f : Fld) (v : Int) : (s.wrS f v).qd = s.qd := rfl
@[simp] theorem State.wrS_free (s : State) (f : Fld) (v : Int) : (s.wrS f v).free = s.free := rfl
@[simp] theorem State.wrS_out (s : State) (f : Fld) (v : Int) : (s.wrS f v).out = s.out := rfl

@[simp] theorem State.wb_pending (s : State) (f : Fld) (v : Bool) : (s.wb f v).pending = s.pending := rfl
@[simp] theorem State.wb_written (s : State) (f : Fld) (v : Bool) : (s.wb f v).written = s.written := rfl
@[simp] theorem State.wb_sys (s : State) (f : Fld) (v : Bool) : (s.wb f v).sys = s.sys := rfl
@[simp] theorem State.wb_pins (s : State) (f : Fld) (v : Bool) : (s.wb f v).pins = s.pins := rfl
@[simp] theorem State.wb_sec (s : State) (f : Fld) (v : Bool) : (s.wb f v).sec = s.sec := rfl
@[simp] theorem State.wb_host (s : State) (f : Fld) (v : Bool) : (s.wb f v).host = s.host := rfl
@[simp] theorem State.wb_ring (s : State) (f : Fld) (v : Bool) : (s.wb f v).ring = s.ring := rfl
@[simp] theorem State.wb_flt (s : State) (f : Fld) (v : Bool) : (s.wb f v).flt = s.flt := rfl
@[simp] theorem State.wb_cmp (s : State) (f : Fld) (v : Bool) : (s.wb f v).cmp = s.cmp := rfl
@[simp] theorem State.wb_saf (s : State) (f : Fld) (v : Bool) : (s.wb f v).saf = s.saf := rfl
@[simp] theorem State.wb_met (s : State) (f : Fld) (v : Bool) : (s.wb f v).met = s.met := rfl
@[simp] theorem State.wb_mot (s : State) (f : Fld) (v : Bool) : (s.wb f v).mot = s.mot := rfl
@[simp] theorem State.wb_ch (s : State) (f : Fld) (v : Bool) : (s.wb f v).ch = s.ch := rfl
@[simp] theorem State.wb_qd (s : State) (f : Fld) (v : Bool) : (s.wb f v).qd = s.qd := rfl
@[simp] theorem State.wb_free (s : State) (f : Fld) (v : Bool) : (s.wb f v).free = s.free := rfl
@[simp] theorem State.wb_out (s : State) (f : Fld) (v : Bool) : (s.wb f v).out = s.out := rfl

@[simp] theorem State.incSat_pending (s : State) (f : Fld) : (s.incSat f).pending = s.pending := rfl
@[simp] theorem State.incSat_written (s : State) (f : Fld) : (s.incSat f).written = s.written := rfl
@[simp] theorem State.incSat_sys (s : State) (f : Fld) : (s.incSat f).sys = s.sys := rfl
@[simp] theorem State.incSat_pins (s : State) (f : Fld) : (s.incSat f).pins = s.pins := rfl
@[simp] theorem State.incSat_sec (s : State) (f : Fld) : (s.incSat f).sec = s.sec := rfl
@[simp] theorem State.incSat_host (s : State) (f : Fld) : (s.incSat f).host = s.host := rfl
@[simp] theorem State.incSat_ring (s : State) (f : Fld) : (s.incSat f).ring = s.ring := rfl
@[simp] theorem State.incSat_flt (s : State) (f : Fld) : (s.incSat f).flt = s.flt := rfl
@[simp] theorem State.incSat_cmp (s : State) (f : Fld) : (s.incSat f).cmp = s.cmp := rfl
@[simp] theorem State.incSat_saf (s : State) (f : Fld) : (s.incSat f).saf = s.saf := rfl
@[simp] theorem State.incSat_met (s : State) (f : Fld) : (s.incSat f).met = s.met := rfl
@[simp] theorem State.incSat_mot (s : State) (f : Fld) : (s.incSat f).mot = s.mot := rfl
@[simp] theorem State.incSat_ch (s : State) (f : Fld) : (s.incSat f).ch = s.ch := rfl
@[simp] theorem State.incSat_qd (s : State) (f : Fld) : (s.incSat f).qd = s.qd := rfl
@[simp] theorem State.incSat_free (s : State) (f : Fld) : (s.incSat f).free = s.free := rfl
@[simp] theorem State.incSat_out (s : State) (f : Fld) : (s.incSat f).out = s.out := rfl

@[simp] theorem State.incWrap_pending (s : State) (f : Fld) : (s.incWrap f).pending = s.pending := rfl
@[simp] theorem State.incWrap_written (s : State) (f : Fld) : (s.incWrap f).written = s.written := rfl
@[simp] theorem State.incWrap_sys (s : State) (f : Fld) : (s.incWrap f).sys = s.sys := rfl
@[simp] theorem State.incWrap_pins (s : State) (f : Fld) : (s.incWrap f).pins = s.pins := rfl
@[simp] theorem State.incWrap_sec (s : State) (f : Fld) : (s.incWrap f).sec = s.sec := rfl
@[simp] theorem State.incWrap_host (s : State) (f : Fld) : (s.incWrap f).host = s.host := rfl
@[simp] theorem State.incWrap_ring (s : State) (f : Fld) : (s.incWrap f).ring = s.ring := rfl
@[simp] theorem State.incWrap_flt (s : State) (f : Fld) : (s.incWrap f).flt = s.flt := rfl
@[simp] theorem State.incWrap_cmp (s : State) (f : Fld) : (s.incWrap f).cmp = s.cmp := rfl
@[simp] theorem State.incWrap_saf (s : State) (f : Fld) : (s.incWrap f).saf = s.saf := rfl
@[simp] theorem State.incWrap_met (s : State) (f : Fld) : (s.incWrap f).met = s.met := rfl
@[simp] theorem State.incWrap_mot (s : State) (f : Fld) : (s.incWrap f).mot = s.mot := rfl
@[simp] theorem State.incWrap_ch (s : State) (f : Fld) : (s.incWrap f).ch = s.ch := rfl
@[simp] theorem State.incWrap_qd (s : State) (f : Fld) : (s.incWrap f).qd = s.qd := rfl
@[simp] theorem State.incWrap_free (s : State) (f : Fld) : (s.incWrap f).free = s.free := rfl
@[simp] theorem State.incWrap_out (s : State) (f : Fld) : (s.incWrap f).out = s.out := rfl

@[simp] theorem State.setFBit_pending (s : State) (f : Fld) (i : Nat) : (s.setFBit f i).pending = s.pending := rfl
@[simp] theorem State.setFBit_written (s : State) (f : Fld) (i : Nat) : (s.setFBit f i).written = s.written := rfl
@[simp] theorem State.setFBit_sys (s : State) (f : Fld) (i : Nat) : (s.setFBit f i).sys = s.sys := rfl
@[simp] theorem State.setFBit_pins (s : State) (f : Fld) (i : Nat) : (s.setFBit f i).pins = s.pins := rfl
@[simp] theorem State.setFBit_sec (s : State) (f : Fld) (i : Nat) : (s.setFBit f i).sec = s.sec := rfl
@[simp] theorem State.setFBit_host (s : State) (f : Fld) (i : Nat) : (s.setFBit f i).host = s.host := rfl
@[simp] theorem State.setFBit_ring (s : State) (f : Fld) (i : Nat) : (s.setFBit f i).ring = s.ring := rfl
@[simp] theorem State.setFBit_flt (s : State) (f : Fld) (i : Nat) : (s.setFBit f i).flt = s.flt := rfl
@[simp] theorem State.setFBit_cmp (s : State) (f : Fld) (i : Nat) : (s.setFBit f i).cmp = s.cmp := rfl
@[simp] theorem State.setFBit_saf (s : State) (f : Fld) (i : Nat) : (s.setFBit f i).saf = s.saf := rfl
@[simp] theorem State.setFBit_met (s : State) (f : Fld) (i : Nat) : (s.setFBit f i).met = s.met := rfl
@[simp] theorem State.setFBit_mot (s : State) (f : Fld) (i : Nat) : (s.setFBit f i).mot = s.mot := rfl
@[simp] theorem State.setFBit_ch (s : State) (f : Fld) (i : Nat) : (s.setFBit f i).ch = s.ch := rfl
@[simp] theorem State.setFBit_qd (s : State) (f : Fld) (i : Nat) : (s.setFBit f i).qd = s.qd := rfl
@[simp] theorem State.setFBit_free (s : State) (f : Fld) (i : Nat) : (s.setFBit f i).free = s.free := rfl
@[simp] theorem State.setFBit_out (s : State) (f : Fld) (i : Nat) : (s.setFBit f i).out = s.out := rfl

@[simp] theorem State.clrFBit_pending (s : State) (f : Fld) (i : Nat) : (s.clrFBit f i).pending = s.pending := rfl
@[simp] theorem State.clrFBit_written (s : State) (f : Fld) (i : Nat) : (s.clrFBit f i).written = s.written := rfl
@[simp] theorem State.clrFBit_sys (s : State) (f : Fld) (i : Nat) : (s.clrFBit f i).sys = s.sys := rfl
@[simp] theorem State.clrFBit_pins (s : State) (f : Fld) (i : Nat) : (s.clrFBit f i).pins = s.pins := rfl
@[simp] theorem State.clrFBit_sec (s : State) (f : Fld) (i : Nat) : (s.clrFBit f i).sec = s.sec := rfl
@[simp] theorem State.clrFBit_host (s : State) (f : Fld) (i : Nat) : (s.clrFBit f i).host = s.host := rfl
@[simp] theorem State.clrFBit_ring (s : State) (f : Fld) (i : Nat) : (s.clrFBit f i).ring = s.ring := rfl
@[simp] theorem State.clrFBit_flt (s : State) (f : Fld) (i : Nat) : (s.clrFBit f i).flt = s.flt := rfl
@[simp] theorem State.clrFBit_cmp (s : State) (f : Fld) (i : Nat) : (s.clrFBit f i).cmp = s.cmp := rfl
@[simp] theorem State.clrFBit_saf (s : State) (f : Fld) (i : Nat) : (s.clrFBit f i).saf = s.saf := rfl
@[simp] theorem State.clrFBit_met (s : State) (f : Fld) (i : Nat) : (s.clrFBit f i).met = s.met := rfl
@[simp] theorem State.clrFBit_mot (s : State) (f : Fld) (i : Nat) : (s.clrFBit f i).mot = s.mot := rfl
@[simp] theorem State.clrFBit_ch (s : State) (f : Fld) (i : Nat) : (s.clrFBit f i).ch = s.ch := rfl
@[simp] theorem State.clrFBit_qd (s : State) (f : Fld) (i : Nat) : (s.clrFBit f i).qd = s.qd := rfl
@[simp] theorem State.clrFBit_free (s : State) (f : Fld) (i : Nat) : (s.clrFBit f i).free = s.free := rfl
@[simp] theorem State.clrFBit_out (s : State) (f : Fld) (i : Nat) : (s.clrFBit f i).out = s.out := rfl

@[simp] theorem State.updCh_pending (s : State) (c : Ch) (f : Chan → Chan) : (s.updCh c f).pending = s.pending := rfl
@[simp] theorem State.updCh_regs (s : State) (c : Ch) (f : Chan → Chan) : (s.updCh c f).regs = s.regs := rfl
@[simp] theorem State.updCh_written (s : State) (c : Ch) (f : Chan → Chan) : (s.updCh c f).written = s.written := rfl
@[simp] theorem State.updCh_sys (s : State) (c : Ch) (f : Chan → Chan) : (s.updCh c f).sys = s.sys := rfl
@[simp] theorem State.updCh_pins (s : State) (c : Ch) (f : Chan → Chan) : (s.updCh c f).pins = s.pins := rfl
@[simp] theorem State.updCh_sec (s : State) (c : Ch) (f : Chan → Chan) : (s.updCh c f).sec = s.sec := rfl
@[simp] theorem State.updCh_host (s : State) (c : Ch) (f : Chan → Chan) : (s.updCh c f).host = s.host := rfl
@[simp] theorem State.updCh_ring (s : State) (c : Ch) (f : Chan → Chan) : (s.updCh c f).ring = s.ring := rfl
@[simp] theorem State.updCh_flt (s : State) (c : Ch) (f : Chan → Chan) : (s.updCh c f).flt = s.flt := rfl
@[simp] theorem State.updCh_cmp (s : State) (c : Ch) (f : Chan → Chan) : (s.updCh c f).cmp = s.cmp := rfl
@[simp] theorem State.updCh_saf (s : State) (c : Ch) (f : Chan → Chan) : (s.updCh c f).saf = s.saf := rfl
@[simp] theorem State.updCh_met (s : State) (c : Ch) (f : Chan → Chan) : (s.updCh c f).met = s.met := rfl
@[simp] theorem State.updCh_mot (s : State) (c : Ch) (f : Chan → Chan) : (s.updCh c f).mot = s.mot := rfl
@[simp] theorem State.updCh_qd (s : State) (c : Ch) (f : Chan → Chan) : (s.updCh c f).qd = s.qd := rfl
@[simp] theorem State.updCh_free (s : State) (c : Ch) (f : Chan → Chan) : (s.updCh c f).free = s.free := rfl
@[simp] theorem State.updCh_out (s : State) (c : Ch) (f : Chan → Chan) : (s.updCh c f).out = s.out := rfl

@[simp] theorem State.updStage_pending (s : State) (c : Ch) (f : Stage → Stage) : (s.updStage c f).pending = s.pending := rfl
@[simp] theorem State.updStage_regs (s : State) (c : Ch) (f : Stage → Stage) : (s.updStage c f).regs = s.regs := rfl
@[simp] theorem State.updStage_written (s : State) (c : Ch) (f : Stage → Stage) : (s.updStage c f).written = s.written := rfl
@[simp] theorem State.updStage_sys (s : State) (c : Ch) (f : Stage → Stage) : (s.updStage c f).sys = s.sys := rfl
@[simp] theorem State.updStage_pins (s : State) (c : Ch) (f : Stage → Stage) : (s.updStage c f).pins = s.pins := rfl
@[simp] theorem State.updStage_sec (s : State) (c : Ch) (f : Stage → Stage) : (s.updStage c f).sec = s.sec := rfl
@[simp] theorem State.updStage_host (s : State) (c : Ch) (f : Stage → Stage) : (s.updStage c f).host = s.host := rfl
@[simp] theorem State.updStage_ring (s : State) (c : Ch) (f : Stage → Stage) : (s.updStage c f).ring = s.ring := rfl
@[simp] theorem State.updStage_flt (s : State) (c : Ch) (f : Stage → Stage) : (s.updStage c f).flt = s.flt := rfl
@[simp] theorem State.updStage_cmp (s : State) (c : Ch) (f : Stage → Stage) : (s.updStage c f).cmp = s.cmp := rfl
@[simp] theorem State.updStage_saf (s : State) (c : Ch) (f : Stage → Stage) : (s.updStage c f).saf = s.saf := rfl
@[simp] theorem State.updStage_met (s : State) (c : Ch) (f : Stage → Stage) : (s.updStage c f).met = s.met := rfl
@[simp] theorem State.updStage_mot (s : State) (c : Ch) (f : Stage → Stage) : (s.updStage c f).mot = s.mot := rfl
@[simp] theorem State.updStage_qd (s : State) (c : Ch) (f : Stage → Stage) : (s.updStage c f).qd = s.qd := rfl
@[simp] theorem State.updStage_free (s : State) (c : Ch) (f : Stage → Stage) : (s.updStage c f).free = s.free := rfl
@[simp] theorem State.updStage_out (s : State) (c : Ch) (f : Stage → Stage) : (s.updStage c f).out = s.out := rfl

@[simp] theorem State.updLoop_pending (s : State) (c : Ch) (f : LoopS → LoopS) : (s.updLoop c f).pending = s.pending := rfl
@[simp] theorem State.updLoop_regs (s : State) (c : Ch) (f : LoopS → LoopS) : (s.updLoop c f).regs = s.regs := rfl
@[simp] theorem State.updLoop_written (s : State) (c : Ch) (f : LoopS → LoopS) : (s.updLoop c f).written = s.written := rfl
@[simp] theorem State.updLoop_sys (s : State) (c : Ch) (f : LoopS → LoopS) : (s.updLoop c f).sys = s.sys := rfl
@[simp] theorem State.updLoop_pins (s : State) (c : Ch) (f : LoopS → LoopS) : (s.updLoop c f).pins = s.pins := rfl
@[simp] theorem State.updLoop_sec (s : State) (c : Ch) (f : LoopS → LoopS) : (s.updLoop c f).sec = s.sec := rfl
@[simp] theorem State.updLoop_host (s : State) (c : Ch) (f : LoopS → LoopS) : (s.updLoop c f).host = s.host := rfl
@[simp] theorem State.updLoop_ring (s : State) (c : Ch) (f : LoopS → LoopS) : (s.updLoop c f).ring = s.ring := rfl
@[simp] theorem State.updLoop_flt (s : State) (c : Ch) (f : LoopS → LoopS) : (s.updLoop c f).flt = s.flt := rfl
@[simp] theorem State.updLoop_cmp (s : State) (c : Ch) (f : LoopS → LoopS) : (s.updLoop c f).cmp = s.cmp := rfl
@[simp] theorem State.updLoop_saf (s : State) (c : Ch) (f : LoopS → LoopS) : (s.updLoop c f).saf = s.saf := rfl
@[simp] theorem State.updLoop_met (s : State) (c : Ch) (f : LoopS → LoopS) : (s.updLoop c f).met = s.met := rfl
@[simp] theorem State.updLoop_mot (s : State) (c : Ch) (f : LoopS → LoopS) : (s.updLoop c f).mot = s.mot := rfl
@[simp] theorem State.updLoop_qd (s : State) (c : Ch) (f : LoopS → LoopS) : (s.updLoop c f).qd = s.qd := rfl
@[simp] theorem State.updLoop_free (s : State) (c : Ch) (f : LoopS → LoopS) : (s.updLoop c f).free = s.free := rfl
@[simp] theorem State.updLoop_out (s : State) (c : Ch) (f : LoopS → LoopS) : (s.updLoop c f).out = s.out := rfl

@[simp] theorem State.updMet_pending (s : State) (c : Ch) (f : ChMet → ChMet) : (s.updMet c f).pending = s.pending := rfl
@[simp] theorem State.updMet_regs (s : State) (c : Ch) (f : ChMet → ChMet) : (s.updMet c f).regs = s.regs := rfl
@[simp] theorem State.updMet_written (s : State) (c : Ch) (f : ChMet → ChMet) : (s.updMet c f).written = s.written := rfl
@[simp] theorem State.updMet_sys (s : State) (c : Ch) (f : ChMet → ChMet) : (s.updMet c f).sys = s.sys := rfl
@[simp] theorem State.updMet_pins (s : State) (c : Ch) (f : ChMet → ChMet) : (s.updMet c f).pins = s.pins := rfl
@[simp] theorem State.updMet_sec (s : State) (c : Ch) (f : ChMet → ChMet) : (s.updMet c f).sec = s.sec := rfl
@[simp] theorem State.updMet_host (s : State) (c : Ch) (f : ChMet → ChMet) : (s.updMet c f).host = s.host := rfl
@[simp] theorem State.updMet_ring (s : State) (c : Ch) (f : ChMet → ChMet) : (s.updMet c f).ring = s.ring := rfl
@[simp] theorem State.updMet_flt (s : State) (c : Ch) (f : ChMet → ChMet) : (s.updMet c f).flt = s.flt := rfl
@[simp] theorem State.updMet_cmp (s : State) (c : Ch) (f : ChMet → ChMet) : (s.updMet c f).cmp = s.cmp := rfl
@[simp] theorem State.updMet_saf (s : State) (c : Ch) (f : ChMet → ChMet) : (s.updMet c f).saf = s.saf := rfl
@[simp] theorem State.updMet_met (s : State) (c : Ch) (f : ChMet → ChMet) : (s.updMet c f).met = s.met := rfl
@[simp] theorem State.updMet_mot (s : State) (c : Ch) (f : ChMet → ChMet) : (s.updMet c f).mot = s.mot := rfl
@[simp] theorem State.updMet_qd (s : State) (c : Ch) (f : ChMet → ChMet) : (s.updMet c f).qd = s.qd := rfl
@[simp] theorem State.updMet_free (s : State) (c : Ch) (f : ChMet → ChMet) : (s.updMet c f).free = s.free := rfl
@[simp] theorem State.updMet_out (s : State) (c : Ch) (f : ChMet → ChMet) : (s.updMet c f).out = s.out := rfl

@[simp] theorem State.updLed_pending (s : State) (c : Ch) (f : Ledger → Ledger) : (s.updLed c f).pending = s.pending := rfl
@[simp] theorem State.updLed_regs (s : State) (c : Ch) (f : Ledger → Ledger) : (s.updLed c f).regs = s.regs := rfl
@[simp] theorem State.updLed_written (s : State) (c : Ch) (f : Ledger → Ledger) : (s.updLed c f).written = s.written := rfl
@[simp] theorem State.updLed_sys (s : State) (c : Ch) (f : Ledger → Ledger) : (s.updLed c f).sys = s.sys := rfl
@[simp] theorem State.updLed_pins (s : State) (c : Ch) (f : Ledger → Ledger) : (s.updLed c f).pins = s.pins := rfl
@[simp] theorem State.updLed_sec (s : State) (c : Ch) (f : Ledger → Ledger) : (s.updLed c f).sec = s.sec := rfl
@[simp] theorem State.updLed_host (s : State) (c : Ch) (f : Ledger → Ledger) : (s.updLed c f).host = s.host := rfl
@[simp] theorem State.updLed_ring (s : State) (c : Ch) (f : Ledger → Ledger) : (s.updLed c f).ring = s.ring := rfl
@[simp] theorem State.updLed_flt (s : State) (c : Ch) (f : Ledger → Ledger) : (s.updLed c f).flt = s.flt := rfl
@[simp] theorem State.updLed_cmp (s : State) (c : Ch) (f : Ledger → Ledger) : (s.updLed c f).cmp = s.cmp := rfl
@[simp] theorem State.updLed_saf (s : State) (c : Ch) (f : Ledger → Ledger) : (s.updLed c f).saf = s.saf := rfl
@[simp] theorem State.updLed_met (s : State) (c : Ch) (f : Ledger → Ledger) : (s.updLed c f).met = s.met := rfl
@[simp] theorem State.updLed_mot (s : State) (c : Ch) (f : Ledger → Ledger) : (s.updLed c f).mot = s.mot := rfl
@[simp] theorem State.updLed_qd (s : State) (c : Ch) (f : Ledger → Ledger) : (s.updLed c f).qd = s.qd := rfl
@[simp] theorem State.updLed_free (s : State) (c : Ch) (f : Ledger → Ledger) : (s.updLed c f).free = s.free := rfl
@[simp] theorem State.updLed_out (s : State) (c : Ch) (f : Ledger → Ledger) : (s.updLed c f).out = s.out := rfl

@[simp] theorem State.updSeq_pending (s : State) (c : Ch) (f : ChanS → ChanS) : (s.updSeq c f).pending = s.pending := rfl
@[simp] theorem State.updSeq_regs (s : State) (c : Ch) (f : ChanS → ChanS) : (s.updSeq c f).regs = s.regs := rfl
@[simp] theorem State.updSeq_written (s : State) (c : Ch) (f : ChanS → ChanS) : (s.updSeq c f).written = s.written := rfl
@[simp] theorem State.updSeq_sys (s : State) (c : Ch) (f : ChanS → ChanS) : (s.updSeq c f).sys = s.sys := rfl
@[simp] theorem State.updSeq_pins (s : State) (c : Ch) (f : ChanS → ChanS) : (s.updSeq c f).pins = s.pins := rfl
@[simp] theorem State.updSeq_sec (s : State) (c : Ch) (f : ChanS → ChanS) : (s.updSeq c f).sec = s.sec := rfl
@[simp] theorem State.updSeq_host (s : State) (c : Ch) (f : ChanS → ChanS) : (s.updSeq c f).host = s.host := rfl
@[simp] theorem State.updSeq_ring (s : State) (c : Ch) (f : ChanS → ChanS) : (s.updSeq c f).ring = s.ring := rfl
@[simp] theorem State.updSeq_flt (s : State) (c : Ch) (f : ChanS → ChanS) : (s.updSeq c f).flt = s.flt := rfl
@[simp] theorem State.updSeq_cmp (s : State) (c : Ch) (f : ChanS → ChanS) : (s.updSeq c f).cmp = s.cmp := rfl
@[simp] theorem State.updSeq_saf (s : State) (c : Ch) (f : ChanS → ChanS) : (s.updSeq c f).saf = s.saf := rfl
@[simp] theorem State.updSeq_met (s : State) (c : Ch) (f : ChanS → ChanS) : (s.updSeq c f).met = s.met := rfl
@[simp] theorem State.updSeq_mot (s : State) (c : Ch) (f : ChanS → ChanS) : (s.updSeq c f).mot = s.mot := rfl
@[simp] theorem State.updSeq_qd (s : State) (c : Ch) (f : ChanS → ChanS) : (s.updSeq c f).qd = s.qd := rfl
@[simp] theorem State.updSeq_free (s : State) (c : Ch) (f : ChanS → ChanS) : (s.updSeq c f).free = s.free := rfl
@[simp] theorem State.updSeq_out (s : State) (c : Ch) (f : ChanS → ChanS) : (s.updSeq c f).out = s.out := rfl

@[simp] theorem State.updTlm_pending (s : State) (c : Ch) (f : Tlm → Tlm) : (s.updTlm c f).pending = s.pending := rfl
@[simp] theorem State.updTlm_regs (s : State) (c : Ch) (f : Tlm → Tlm) : (s.updTlm c f).regs = s.regs := rfl
@[simp] theorem State.updTlm_written (s : State) (c : Ch) (f : Tlm → Tlm) : (s.updTlm c f).written = s.written := rfl
@[simp] theorem State.updTlm_sys (s : State) (c : Ch) (f : Tlm → Tlm) : (s.updTlm c f).sys = s.sys := rfl
@[simp] theorem State.updTlm_pins (s : State) (c : Ch) (f : Tlm → Tlm) : (s.updTlm c f).pins = s.pins := rfl
@[simp] theorem State.updTlm_sec (s : State) (c : Ch) (f : Tlm → Tlm) : (s.updTlm c f).sec = s.sec := rfl
@[simp] theorem State.updTlm_host (s : State) (c : Ch) (f : Tlm → Tlm) : (s.updTlm c f).host = s.host := rfl
@[simp] theorem State.updTlm_ring (s : State) (c : Ch) (f : Tlm → Tlm) : (s.updTlm c f).ring = s.ring := rfl
@[simp] theorem State.updTlm_flt (s : State) (c : Ch) (f : Tlm → Tlm) : (s.updTlm c f).flt = s.flt := rfl
@[simp] theorem State.updTlm_cmp (s : State) (c : Ch) (f : Tlm → Tlm) : (s.updTlm c f).cmp = s.cmp := rfl
@[simp] theorem State.updTlm_saf (s : State) (c : Ch) (f : Tlm → Tlm) : (s.updTlm c f).saf = s.saf := rfl
@[simp] theorem State.updTlm_met (s : State) (c : Ch) (f : Tlm → Tlm) : (s.updTlm c f).met = s.met := rfl
@[simp] theorem State.updTlm_mot (s : State) (c : Ch) (f : Tlm → Tlm) : (s.updTlm c f).mot = s.mot := rfl
@[simp] theorem State.updTlm_qd (s : State) (c : Ch) (f : Tlm → Tlm) : (s.updTlm c f).qd = s.qd := rfl
@[simp] theorem State.updTlm_free (s : State) (c : Ch) (f : Tlm → Tlm) : (s.updTlm c f).free = s.free := rfl
@[simp] theorem State.updTlm_out (s : State) (c : Ch) (f : Tlm → Tlm) : (s.updTlm c f).out = s.out := rfl

@[simp] theorem State.updRun_pending (s : State) (c : Ch) (f : Run → Run) : (s.updRun c f).pending = s.pending := rfl
@[simp] theorem State.updRun_regs (s : State) (c : Ch) (f : Run → Run) : (s.updRun c f).regs = s.regs := rfl
@[simp] theorem State.updRun_written (s : State) (c : Ch) (f : Run → Run) : (s.updRun c f).written = s.written := rfl
@[simp] theorem State.updRun_sys (s : State) (c : Ch) (f : Run → Run) : (s.updRun c f).sys = s.sys := rfl
@[simp] theorem State.updRun_pins (s : State) (c : Ch) (f : Run → Run) : (s.updRun c f).pins = s.pins := rfl
@[simp] theorem State.updRun_sec (s : State) (c : Ch) (f : Run → Run) : (s.updRun c f).sec = s.sec := rfl
@[simp] theorem State.updRun_host (s : State) (c : Ch) (f : Run → Run) : (s.updRun c f).host = s.host := rfl
@[simp] theorem State.updRun_ring (s : State) (c : Ch) (f : Run → Run) : (s.updRun c f).ring = s.ring := rfl
@[simp] theorem State.updRun_flt (s : State) (c : Ch) (f : Run → Run) : (s.updRun c f).flt = s.flt := rfl
@[simp] theorem State.updRun_cmp (s : State) (c : Ch) (f : Run → Run) : (s.updRun c f).cmp = s.cmp := rfl
@[simp] theorem State.updRun_saf (s : State) (c : Ch) (f : Run → Run) : (s.updRun c f).saf = s.saf := rfl
@[simp] theorem State.updRun_met (s : State) (c : Ch) (f : Run → Run) : (s.updRun c f).met = s.met := rfl
@[simp] theorem State.updRun_mot (s : State) (c : Ch) (f : Run → Run) : (s.updRun c f).mot = s.mot := rfl
@[simp] theorem State.updRun_qd (s : State) (c : Ch) (f : Run → Run) : (s.updRun c f).qd = s.qd := rfl
@[simp] theorem State.updRun_free (s : State) (c : Ch) (f : Run → Run) : (s.updRun c f).free = s.free := rfl
@[simp] theorem State.updRun_out (s : State) (c : Ch) (f : Run → Run) : (s.updRun c f).out = s.out := rfl

@[simp] theorem State.ledger_pending (s : State) (c : Ch) (f : Ledger → Ledger) : (s.ledger c f).pending = s.pending := rfl
@[simp] theorem State.ledger_regs (s : State) (c : Ch) (f : Ledger → Ledger) : (s.ledger c f).regs = s.regs := rfl
@[simp] theorem State.ledger_written (s : State) (c : Ch) (f : Ledger → Ledger) : (s.ledger c f).written = s.written := rfl
@[simp] theorem State.ledger_sys (s : State) (c : Ch) (f : Ledger → Ledger) : (s.ledger c f).sys = s.sys := rfl
@[simp] theorem State.ledger_pins (s : State) (c : Ch) (f : Ledger → Ledger) : (s.ledger c f).pins = s.pins := rfl
@[simp] theorem State.ledger_sec (s : State) (c : Ch) (f : Ledger → Ledger) : (s.ledger c f).sec = s.sec := rfl
@[simp] theorem State.ledger_host (s : State) (c : Ch) (f : Ledger → Ledger) : (s.ledger c f).host = s.host := rfl
@[simp] theorem State.ledger_ring (s : State) (c : Ch) (f : Ledger → Ledger) : (s.ledger c f).ring = s.ring := rfl
@[simp] theorem State.ledger_flt (s : State) (c : Ch) (f : Ledger → Ledger) : (s.ledger c f).flt = s.flt := rfl
@[simp] theorem State.ledger_cmp (s : State) (c : Ch) (f : Ledger → Ledger) : (s.ledger c f).cmp = s.cmp := rfl
@[simp] theorem State.ledger_saf (s : State) (c : Ch) (f : Ledger → Ledger) : (s.ledger c f).saf = s.saf := rfl
@[simp] theorem State.ledger_met (s : State) (c : Ch) (f : Ledger → Ledger) : (s.ledger c f).met = s.met := rfl
@[simp] theorem State.ledger_mot (s : State) (c : Ch) (f : Ledger → Ledger) : (s.ledger c f).mot = s.mot := rfl
@[simp] theorem State.ledger_qd (s : State) (c : Ch) (f : Ledger → Ledger) : (s.ledger c f).qd = s.qd := rfl
@[simp] theorem State.ledger_free (s : State) (c : Ch) (f : Ledger → Ledger) : (s.ledger c f).free = s.free := rfl
@[simp] theorem State.ledger_out (s : State) (c : Ch) (f : Ledger → Ledger) : (s.ledger c f).out = s.out := rfl

@[simp] theorem State.updQd_pending (s : State) (q : Quad) (f : QuadS → QuadS) : (s.updQd q f).pending = s.pending := rfl
@[simp] theorem State.updQd_regs (s : State) (q : Quad) (f : QuadS → QuadS) : (s.updQd q f).regs = s.regs := rfl
@[simp] theorem State.updQd_written (s : State) (q : Quad) (f : QuadS → QuadS) : (s.updQd q f).written = s.written := rfl
@[simp] theorem State.updQd_sys (s : State) (q : Quad) (f : QuadS → QuadS) : (s.updQd q f).sys = s.sys := rfl
@[simp] theorem State.updQd_pins (s : State) (q : Quad) (f : QuadS → QuadS) : (s.updQd q f).pins = s.pins := rfl
@[simp] theorem State.updQd_sec (s : State) (q : Quad) (f : QuadS → QuadS) : (s.updQd q f).sec = s.sec := rfl
@[simp] theorem State.updQd_host (s : State) (q : Quad) (f : QuadS → QuadS) : (s.updQd q f).host = s.host := rfl
@[simp] theorem State.updQd_ring (s : State) (q : Quad) (f : QuadS → QuadS) : (s.updQd q f).ring = s.ring := rfl
@[simp] theorem State.updQd_flt (s : State) (q : Quad) (f : QuadS → QuadS) : (s.updQd q f).flt = s.flt := rfl
@[simp] theorem State.updQd_cmp (s : State) (q : Quad) (f : QuadS → QuadS) : (s.updQd q f).cmp = s.cmp := rfl
@[simp] theorem State.updQd_saf (s : State) (q : Quad) (f : QuadS → QuadS) : (s.updQd q f).saf = s.saf := rfl
@[simp] theorem State.updQd_met (s : State) (q : Quad) (f : QuadS → QuadS) : (s.updQd q f).met = s.met := rfl
@[simp] theorem State.updQd_mot (s : State) (q : Quad) (f : QuadS → QuadS) : (s.updQd q f).mot = s.mot := rfl
@[simp] theorem State.updQd_ch (s : State) (q : Quad) (f : QuadS → QuadS) : (s.updQd q f).ch = s.ch := rfl
@[simp] theorem State.updQd_free (s : State) (q : Quad) (f : QuadS → QuadS) : (s.updQd q f).free = s.free := rfl
@[simp] theorem State.updQd_out (s : State) (q : Quad) (f : QuadS → QuadS) : (s.updQd q f).out = s.out := rfl

@[simp] theorem State.updQ_pending (s : State) (q : QId) (f : SubQ → SubQ) : (s.updQ q f).pending = s.pending := rfl
@[simp] theorem State.updQ_regs (s : State) (q : QId) (f : SubQ → SubQ) : (s.updQ q f).regs = s.regs := rfl
@[simp] theorem State.updQ_written (s : State) (q : QId) (f : SubQ → SubQ) : (s.updQ q f).written = s.written := rfl
@[simp] theorem State.updQ_sys (s : State) (q : QId) (f : SubQ → SubQ) : (s.updQ q f).sys = s.sys := rfl
@[simp] theorem State.updQ_pins (s : State) (q : QId) (f : SubQ → SubQ) : (s.updQ q f).pins = s.pins := rfl
@[simp] theorem State.updQ_sec (s : State) (q : QId) (f : SubQ → SubQ) : (s.updQ q f).sec = s.sec := rfl
@[simp] theorem State.updQ_ring (s : State) (q : QId) (f : SubQ → SubQ) : (s.updQ q f).ring = s.ring := rfl
@[simp] theorem State.updQ_flt (s : State) (q : QId) (f : SubQ → SubQ) : (s.updQ q f).flt = s.flt := rfl
@[simp] theorem State.updQ_cmp (s : State) (q : QId) (f : SubQ → SubQ) : (s.updQ q f).cmp = s.cmp := rfl
@[simp] theorem State.updQ_saf (s : State) (q : QId) (f : SubQ → SubQ) : (s.updQ q f).saf = s.saf := rfl
@[simp] theorem State.updQ_met (s : State) (q : QId) (f : SubQ → SubQ) : (s.updQ q f).met = s.met := rfl
@[simp] theorem State.updQ_mot (s : State) (q : QId) (f : SubQ → SubQ) : (s.updQ q f).mot = s.mot := rfl
@[simp] theorem State.updQ_ch (s : State) (q : QId) (f : SubQ → SubQ) : (s.updQ q f).ch = s.ch := rfl
@[simp] theorem State.updQ_qd (s : State) (q : QId) (f : SubQ → SubQ) : (s.updQ q f).qd = s.qd := rfl
@[simp] theorem State.updQ_free (s : State) (q : QId) (f : SubQ → SubQ) : (s.updQ q f).free = s.free := rfl
@[simp] theorem State.updQ_out (s : State) (q : QId) (f : SubQ → SubQ) : (s.updQ q f).out = s.out := rfl

@[simp] theorem State.retireTo_pending (s : State) (q : QId) (n : Nat) : (s.retireTo q n).pending = s.pending := rfl
@[simp] theorem State.retireTo_regs (s : State) (q : QId) (n : Nat) : (s.retireTo q n).regs = s.regs := rfl
@[simp] theorem State.retireTo_written (s : State) (q : QId) (n : Nat) : (s.retireTo q n).written = s.written := rfl
@[simp] theorem State.retireTo_sys (s : State) (q : QId) (n : Nat) : (s.retireTo q n).sys = s.sys := rfl
@[simp] theorem State.retireTo_pins (s : State) (q : QId) (n : Nat) : (s.retireTo q n).pins = s.pins := rfl
@[simp] theorem State.retireTo_sec (s : State) (q : QId) (n : Nat) : (s.retireTo q n).sec = s.sec := rfl
@[simp] theorem State.retireTo_ring (s : State) (q : QId) (n : Nat) : (s.retireTo q n).ring = s.ring := rfl
@[simp] theorem State.retireTo_flt (s : State) (q : QId) (n : Nat) : (s.retireTo q n).flt = s.flt := rfl
@[simp] theorem State.retireTo_cmp (s : State) (q : QId) (n : Nat) : (s.retireTo q n).cmp = s.cmp := rfl
@[simp] theorem State.retireTo_saf (s : State) (q : QId) (n : Nat) : (s.retireTo q n).saf = s.saf := rfl
@[simp] theorem State.retireTo_met (s : State) (q : QId) (n : Nat) : (s.retireTo q n).met = s.met := rfl
@[simp] theorem State.retireTo_mot (s : State) (q : QId) (n : Nat) : (s.retireTo q n).mot = s.mot := rfl
@[simp] theorem State.retireTo_ch (s : State) (q : QId) (n : Nat) : (s.retireTo q n).ch = s.ch := rfl
@[simp] theorem State.retireTo_qd (s : State) (q : QId) (n : Nat) : (s.retireTo q n).qd = s.qd := rfl
@[simp] theorem State.retireTo_free (s : State) (q : QId) (n : Nat) : (s.retireTo q n).free = s.free := rfl
@[simp] theorem State.retireTo_out (s : State) (q : QId) (n : Nat) : (s.retireTo q n).out = s.out := rfl

@[simp] theorem State.updSrc_pending (s : State) (n : Src) (f : SrcS → SrcS) : (s.updSrc n f).pending = s.pending := rfl
@[simp] theorem State.updSrc_regs (s : State) (n : Src) (f : SrcS → SrcS) : (s.updSrc n f).regs = s.regs := rfl
@[simp] theorem State.updSrc_written (s : State) (n : Src) (f : SrcS → SrcS) : (s.updSrc n f).written = s.written := rfl
@[simp] theorem State.updSrc_sys (s : State) (n : Src) (f : SrcS → SrcS) : (s.updSrc n f).sys = s.sys := rfl
@[simp] theorem State.updSrc_pins (s : State) (n : Src) (f : SrcS → SrcS) : (s.updSrc n f).pins = s.pins := rfl
@[simp] theorem State.updSrc_sec (s : State) (n : Src) (f : SrcS → SrcS) : (s.updSrc n f).sec = s.sec := rfl
@[simp] theorem State.updSrc_host (s : State) (n : Src) (f : SrcS → SrcS) : (s.updSrc n f).host = s.host := rfl
@[simp] theorem State.updSrc_ring (s : State) (n : Src) (f : SrcS → SrcS) : (s.updSrc n f).ring = s.ring := rfl
@[simp] theorem State.updSrc_cmp (s : State) (n : Src) (f : SrcS → SrcS) : (s.updSrc n f).cmp = s.cmp := rfl
@[simp] theorem State.updSrc_saf (s : State) (n : Src) (f : SrcS → SrcS) : (s.updSrc n f).saf = s.saf := rfl
@[simp] theorem State.updSrc_met (s : State) (n : Src) (f : SrcS → SrcS) : (s.updSrc n f).met = s.met := rfl
@[simp] theorem State.updSrc_mot (s : State) (n : Src) (f : SrcS → SrcS) : (s.updSrc n f).mot = s.mot := rfl
@[simp] theorem State.updSrc_ch (s : State) (n : Src) (f : SrcS → SrcS) : (s.updSrc n f).ch = s.ch := rfl
@[simp] theorem State.updSrc_qd (s : State) (n : Src) (f : SrcS → SrcS) : (s.updSrc n f).qd = s.qd := rfl
@[simp] theorem State.updSrc_free (s : State) (n : Src) (f : SrcS → SrcS) : (s.updSrc n f).free = s.free := rfl
@[simp] theorem State.updSrc_out (s : State) (n : Src) (f : SrcS → SrcS) : (s.updSrc n f).out = s.out := rfl

@[simp] theorem State.emit_pending (s : State) (o : Out) : (s.emit o).pending = s.pending := rfl
@[simp] theorem State.emit_regs (s : State) (o : Out) : (s.emit o).regs = s.regs := rfl
@[simp] theorem State.emit_written (s : State) (o : Out) : (s.emit o).written = s.written := rfl
@[simp] theorem State.emit_sys (s : State) (o : Out) : (s.emit o).sys = s.sys := rfl
@[simp] theorem State.emit_pins (s : State) (o : Out) : (s.emit o).pins = s.pins := rfl
@[simp] theorem State.emit_sec (s : State) (o : Out) : (s.emit o).sec = s.sec := rfl
@[simp] theorem State.emit_host (s : State) (o : Out) : (s.emit o).host = s.host := rfl
@[simp] theorem State.emit_ring (s : State) (o : Out) : (s.emit o).ring = s.ring := rfl
@[simp] theorem State.emit_flt (s : State) (o : Out) : (s.emit o).flt = s.flt := rfl
@[simp] theorem State.emit_cmp (s : State) (o : Out) : (s.emit o).cmp = s.cmp := rfl
@[simp] theorem State.emit_saf (s : State) (o : Out) : (s.emit o).saf = s.saf := rfl
@[simp] theorem State.emit_met (s : State) (o : Out) : (s.emit o).met = s.met := rfl
@[simp] theorem State.emit_mot (s : State) (o : Out) : (s.emit o).mot = s.mot := rfl
@[simp] theorem State.emit_ch (s : State) (o : Out) : (s.emit o).ch = s.ch := rfl
@[simp] theorem State.emit_qd (s : State) (o : Out) : (s.emit o).qd = s.qd := rfl
@[simp] theorem State.emit_free (s : State) (o : Out) : (s.emit o).free = s.free := rfl

@[simp] theorem State.irq_pending (s : State) (v : Fin 8) : (s.irq v).pending = s.pending := rfl
@[simp] theorem State.irq_regs (s : State) (v : Fin 8) : (s.irq v).regs = s.regs := rfl
@[simp] theorem State.irq_written (s : State) (v : Fin 8) : (s.irq v).written = s.written := rfl
@[simp] theorem State.irq_sys (s : State) (v : Fin 8) : (s.irq v).sys = s.sys := rfl
@[simp] theorem State.irq_pins (s : State) (v : Fin 8) : (s.irq v).pins = s.pins := rfl
@[simp] theorem State.irq_sec (s : State) (v : Fin 8) : (s.irq v).sec = s.sec := rfl
@[simp] theorem State.irq_ring (s : State) (v : Fin 8) : (s.irq v).ring = s.ring := rfl
@[simp] theorem State.irq_flt (s : State) (v : Fin 8) : (s.irq v).flt = s.flt := rfl
@[simp] theorem State.irq_cmp (s : State) (v : Fin 8) : (s.irq v).cmp = s.cmp := rfl
@[simp] theorem State.irq_saf (s : State) (v : Fin 8) : (s.irq v).saf = s.saf := rfl
@[simp] theorem State.irq_met (s : State) (v : Fin 8) : (s.irq v).met = s.met := rfl
@[simp] theorem State.irq_mot (s : State) (v : Fin 8) : (s.irq v).mot = s.mot := rfl
@[simp] theorem State.irq_ch (s : State) (v : Fin 8) : (s.irq v).ch = s.ch := rfl
@[simp] theorem State.irq_qd (s : State) (v : Fin 8) : (s.irq v).qd = s.qd := rfl
@[simp] theorem State.irq_free (s : State) (v : Fin 8) : (s.irq v).free = s.free := rfl
@[simp] theorem State.irq_out (s : State) (v : Fin 8) : (s.irq v).out = s.out := rfl

@[simp] theorem State.complete_pending (s : State) (o : Owner) (v : Fin 8) (rs : List (List Word)) : (s.complete o v rs).pending = s.pending := rfl
@[simp] theorem State.complete_regs (s : State) (o : Owner) (v : Fin 8) (rs : List (List Word)) : (s.complete o v rs).regs = s.regs := rfl
@[simp] theorem State.complete_written (s : State) (o : Owner) (v : Fin 8) (rs : List (List Word)) : (s.complete o v rs).written = s.written := rfl
@[simp] theorem State.complete_sys (s : State) (o : Owner) (v : Fin 8) (rs : List (List Word)) : (s.complete o v rs).sys = s.sys := rfl
@[simp] theorem State.complete_pins (s : State) (o : Owner) (v : Fin 8) (rs : List (List Word)) : (s.complete o v rs).pins = s.pins := rfl
@[simp] theorem State.complete_sec (s : State) (o : Owner) (v : Fin 8) (rs : List (List Word)) : (s.complete o v rs).sec = s.sec := rfl
@[simp] theorem State.complete_ring (s : State) (o : Owner) (v : Fin 8) (rs : List (List Word)) : (s.complete o v rs).ring = s.ring := rfl
@[simp] theorem State.complete_flt (s : State) (o : Owner) (v : Fin 8) (rs : List (List Word)) : (s.complete o v rs).flt = s.flt := rfl
@[simp] theorem State.complete_cmp (s : State) (o : Owner) (v : Fin 8) (rs : List (List Word)) : (s.complete o v rs).cmp = s.cmp := rfl
@[simp] theorem State.complete_saf (s : State) (o : Owner) (v : Fin 8) (rs : List (List Word)) : (s.complete o v rs).saf = s.saf := rfl
@[simp] theorem State.complete_met (s : State) (o : Owner) (v : Fin 8) (rs : List (List Word)) : (s.complete o v rs).met = s.met := rfl
@[simp] theorem State.complete_mot (s : State) (o : Owner) (v : Fin 8) (rs : List (List Word)) : (s.complete o v rs).mot = s.mot := rfl
@[simp] theorem State.complete_ch (s : State) (o : Owner) (v : Fin 8) (rs : List (List Word)) : (s.complete o v rs).ch = s.ch := rfl
@[simp] theorem State.complete_qd (s : State) (o : Owner) (v : Fin 8) (rs : List (List Word)) : (s.complete o v rs).qd = s.qd := rfl
@[simp] theorem State.complete_free (s : State) (o : Owner) (v : Fin 8) (rs : List (List Word)) : (s.complete o v rs).free = s.free := rfl
@[simp] theorem State.complete_out (s : State) (o : Owner) (v : Fin 8) (rs : List (List Word)) : (s.complete o v rs).out = s.out := rfl

@[simp] theorem State.notice_pending (s : State) (o : Owner) (q : QId) (a b d e g : Nat) : (s.notice o q a b d e g).pending = s.pending := by unfold State.notice State.noticeIn; split <;> rfl
@[simp] theorem State.notice_regs (s : State) (o : Owner) (q : QId) (a b d e g : Nat) : (s.notice o q a b d e g).regs = s.regs := by unfold State.notice State.noticeIn; split <;> rfl
@[simp] theorem State.notice_written (s : State) (o : Owner) (q : QId) (a b d e g : Nat) : (s.notice o q a b d e g).written = s.written := by unfold State.notice State.noticeIn; split <;> rfl
@[simp] theorem State.notice_sys (s : State) (o : Owner) (q : QId) (a b d e g : Nat) : (s.notice o q a b d e g).sys = s.sys := by unfold State.notice State.noticeIn; split <;> rfl
@[simp] theorem State.notice_pins (s : State) (o : Owner) (q : QId) (a b d e g : Nat) : (s.notice o q a b d e g).pins = s.pins := by unfold State.notice State.noticeIn; split <;> rfl
@[simp] theorem State.notice_sec (s : State) (o : Owner) (q : QId) (a b d e g : Nat) : (s.notice o q a b d e g).sec = s.sec := by unfold State.notice State.noticeIn; split <;> rfl
@[simp] theorem State.notice_ring (s : State) (o : Owner) (q : QId) (a b d e g : Nat) : (s.notice o q a b d e g).ring = s.ring := by unfold State.notice State.noticeIn; split <;> rfl
@[simp] theorem State.notice_flt (s : State) (o : Owner) (q : QId) (a b d e g : Nat) : (s.notice o q a b d e g).flt = s.flt := by unfold State.notice State.noticeIn; split <;> rfl
@[simp] theorem State.notice_cmp (s : State) (o : Owner) (q : QId) (a b d e g : Nat) : (s.notice o q a b d e g).cmp = s.cmp := by unfold State.notice State.noticeIn; split <;> rfl
@[simp] theorem State.notice_saf (s : State) (o : Owner) (q : QId) (a b d e g : Nat) : (s.notice o q a b d e g).saf = s.saf := by unfold State.notice State.noticeIn; split <;> rfl
@[simp] theorem State.notice_met (s : State) (o : Owner) (q : QId) (a b d e g : Nat) : (s.notice o q a b d e g).met = s.met := by unfold State.notice State.noticeIn; split <;> rfl
@[simp] theorem State.notice_mot (s : State) (o : Owner) (q : QId) (a b d e g : Nat) : (s.notice o q a b d e g).mot = s.mot := by unfold State.notice State.noticeIn; split <;> rfl
@[simp] theorem State.notice_ch (s : State) (o : Owner) (q : QId) (a b d e g : Nat) : (s.notice o q a b d e g).ch = s.ch := by unfold State.notice State.noticeIn; split <;> rfl
@[simp] theorem State.notice_qd (s : State) (o : Owner) (q : QId) (a b d e g : Nat) : (s.notice o q a b d e g).qd = s.qd := by unfold State.notice State.noticeIn; split <;> rfl
@[simp] theorem State.notice_free (s : State) (o : Owner) (q : QId) (a b d e g : Nat) : (s.notice o q a b d e g).free = s.free := by unfold State.notice State.noticeIn; split <;> rfl
@[simp] theorem State.notice_out (s : State) (o : Owner) (q : QId) (a b d e g : Nat) : (s.notice o q a b d e g).out = s.out := by unfold State.notice State.noticeIn; split <;> rfl

@[simp] theorem State.admDone_pending (s : State) (op : Nat) (a : AdmHdr) (x y : Nat) : (s.admDone op a x y).pending = s.pending := by unfold State.admDone; split <;> rfl
@[simp] theorem State.admDone_regs (s : State) (op : Nat) (a : AdmHdr) (x y : Nat) : (s.admDone op a x y).regs = s.regs := by unfold State.admDone; split <;> rfl
@[simp] theorem State.admDone_written (s : State) (op : Nat) (a : AdmHdr) (x y : Nat) : (s.admDone op a x y).written = s.written := by unfold State.admDone; split <;> rfl
@[simp] theorem State.admDone_sys (s : State) (op : Nat) (a : AdmHdr) (x y : Nat) : (s.admDone op a x y).sys = s.sys := by unfold State.admDone; split <;> rfl
@[simp] theorem State.admDone_pins (s : State) (op : Nat) (a : AdmHdr) (x y : Nat) : (s.admDone op a x y).pins = s.pins := by unfold State.admDone; split <;> rfl
@[simp] theorem State.admDone_sec (s : State) (op : Nat) (a : AdmHdr) (x y : Nat) : (s.admDone op a x y).sec = s.sec := by unfold State.admDone; split <;> rfl
@[simp] theorem State.admDone_ring (s : State) (op : Nat) (a : AdmHdr) (x y : Nat) : (s.admDone op a x y).ring = s.ring := by unfold State.admDone; split <;> rfl
@[simp] theorem State.admDone_flt (s : State) (op : Nat) (a : AdmHdr) (x y : Nat) : (s.admDone op a x y).flt = s.flt := by unfold State.admDone; split <;> rfl
@[simp] theorem State.admDone_cmp (s : State) (op : Nat) (a : AdmHdr) (x y : Nat) : (s.admDone op a x y).cmp = s.cmp := by unfold State.admDone; split <;> rfl
@[simp] theorem State.admDone_saf (s : State) (op : Nat) (a : AdmHdr) (x y : Nat) : (s.admDone op a x y).saf = s.saf := by unfold State.admDone; split <;> rfl
@[simp] theorem State.admDone_met (s : State) (op : Nat) (a : AdmHdr) (x y : Nat) : (s.admDone op a x y).met = s.met := by unfold State.admDone; split <;> rfl
@[simp] theorem State.admDone_mot (s : State) (op : Nat) (a : AdmHdr) (x y : Nat) : (s.admDone op a x y).mot = s.mot := by unfold State.admDone; split <;> rfl
@[simp] theorem State.admDone_ch (s : State) (op : Nat) (a : AdmHdr) (x y : Nat) : (s.admDone op a x y).ch = s.ch := by unfold State.admDone; split <;> rfl
@[simp] theorem State.admDone_qd (s : State) (op : Nat) (a : AdmHdr) (x y : Nat) : (s.admDone op a x y).qd = s.qd := by unfold State.admDone; split <;> rfl
@[simp] theorem State.admDone_free (s : State) (op : Nat) (a : AdmHdr) (x y : Nat) : (s.admDone op a x y).free = s.free := by unfold State.admDone; split <;> rfl
@[simp] theorem State.admDone_out (s : State) (op : Nat) (a : AdmHdr) (x y : Nat) : (s.admDone op a x y).out = s.out := by unfold State.admDone; split <;> rfl

@[simp] theorem State.condGone_pending (s : State) (n : Src) (c : Ch) : (s.condGone n c).pending = s.pending := rfl
@[simp] theorem State.condGone_regs (s : State) (n : Src) (c : Ch) : (s.condGone n c).regs = s.regs := rfl
@[simp] theorem State.condGone_written (s : State) (n : Src) (c : Ch) : (s.condGone n c).written = s.written := rfl
@[simp] theorem State.condGone_sys (s : State) (n : Src) (c : Ch) : (s.condGone n c).sys = s.sys := rfl
@[simp] theorem State.condGone_pins (s : State) (n : Src) (c : Ch) : (s.condGone n c).pins = s.pins := rfl
@[simp] theorem State.condGone_sec (s : State) (n : Src) (c : Ch) : (s.condGone n c).sec = s.sec := rfl
@[simp] theorem State.condGone_host (s : State) (n : Src) (c : Ch) : (s.condGone n c).host = s.host := rfl
@[simp] theorem State.condGone_ring (s : State) (n : Src) (c : Ch) : (s.condGone n c).ring = s.ring := rfl
@[simp] theorem State.condGone_cmp (s : State) (n : Src) (c : Ch) : (s.condGone n c).cmp = s.cmp := rfl
@[simp] theorem State.condGone_saf (s : State) (n : Src) (c : Ch) : (s.condGone n c).saf = s.saf := rfl
@[simp] theorem State.condGone_met (s : State) (n : Src) (c : Ch) : (s.condGone n c).met = s.met := rfl
@[simp] theorem State.condGone_mot (s : State) (n : Src) (c : Ch) : (s.condGone n c).mot = s.mot := rfl
@[simp] theorem State.condGone_ch (s : State) (n : Src) (c : Ch) : (s.condGone n c).ch = s.ch := rfl
@[simp] theorem State.condGone_qd (s : State) (n : Src) (c : Ch) : (s.condGone n c).qd = s.qd := rfl
@[simp] theorem State.condGone_free (s : State) (n : Src) (c : Ch) : (s.condGone n c).free = s.free := rfl
@[simp] theorem State.condGone_out (s : State) (n : Src) (c : Ch) : (s.condGone n c).out = s.out := rfl

@[simp] theorem State.event_pending (s : State) (a b c : Nat) : (s.event a b c).pending = s.pending := by
  unfold State.event; split <;> rfl
@[simp] theorem State.event_regs (s : State) (a b c : Nat) : (s.event a b c).regs = s.regs := by
  unfold State.event; split <;> rfl
@[simp] theorem State.event_written (s : State) (a b c : Nat) : (s.event a b c).written = s.written := by
  unfold State.event; split <;> rfl
@[simp] theorem State.event_sys (s : State) (a b c : Nat) : (s.event a b c).sys = s.sys := by
  unfold State.event; split <;> rfl
@[simp] theorem State.event_pins (s : State) (a b c : Nat) : (s.event a b c).pins = s.pins := by
  unfold State.event; split <;> rfl
@[simp] theorem State.event_sec (s : State) (a b c : Nat) : (s.event a b c).sec = s.sec := by
  unfold State.event; split <;> rfl
@[simp] theorem State.event_ring (s : State) (a b c : Nat) : (s.event a b c).ring = s.ring := by
  unfold State.event; split <;> rfl
@[simp] theorem State.event_flt (s : State) (a b c : Nat) : (s.event a b c).flt = s.flt := by
  unfold State.event; split <;> rfl
@[simp] theorem State.event_cmp (s : State) (a b c : Nat) : (s.event a b c).cmp = s.cmp := by
  unfold State.event; split <;> rfl
@[simp] theorem State.event_saf (s : State) (a b c : Nat) : (s.event a b c).saf = s.saf := by
  unfold State.event; split <;> rfl
@[simp] theorem State.event_met (s : State) (a b c : Nat) : (s.event a b c).met = s.met := by
  unfold State.event; split <;> rfl
@[simp] theorem State.event_mot (s : State) (a b c : Nat) : (s.event a b c).mot = s.mot := by
  unfold State.event; split <;> rfl
@[simp] theorem State.event_ch (s : State) (a b c : Nat) : (s.event a b c).ch = s.ch := by
  unfold State.event; split <;> rfl
@[simp] theorem State.event_qd (s : State) (a b c : Nat) : (s.event a b c).qd = s.qd := by
  unfold State.event; split <;> rfl
@[simp] theorem State.event_free (s : State) (a b c : Nat) : (s.event a b c).free = s.free := by
  unfold State.event; split <;> rfl
@[simp] theorem State.event_out (s : State) (a b c : Nat) : (s.event a b c).out = s.out := by
  unfold State.event; split <;> rfl

/-! ### Reading through updates elsewhere -/

@[simp] theorem State.wr_chan (s : State) (f : Fld) (v : Nat) (k : Ch) : (s.wr f v).chan k = s.chan k := rfl
@[simp] theorem State.wr_seq (s : State) (f : Fld) (v : Nat) (k : Ch) : (s.wr f v).seq k = s.seq k := rfl
@[simp] theorem State.wr_src (s : State) (f : Fld) (v : Nat) (k : Src) : (s.wr f v).src k = s.src k := rfl
@[simp] theorem State.wr_subq (s : State) (f : Fld) (v : Nat) (k : QId) : (s.wr f v).subq k = s.subq k := rfl
@[simp] theorem State.wrS_chan (s : State) (f : Fld) (v : Int) (k : Ch) : (s.wrS f v).chan k = s.chan k := rfl
@[simp] theorem State.wrS_seq (s : State) (f : Fld) (v : Int) (k : Ch) : (s.wrS f v).seq k = s.seq k := rfl
@[simp] theorem State.wrS_src (s : State) (f : Fld) (v : Int) (k : Src) : (s.wrS f v).src k = s.src k := rfl
@[simp] theorem State.wrS_subq (s : State) (f : Fld) (v : Int) (k : QId) : (s.wrS f v).subq k = s.subq k := rfl
@[simp] theorem State.wb_chan (s : State) (f : Fld) (v : Bool) (k : Ch) : (s.wb f v).chan k = s.chan k := rfl
@[simp] theorem State.wb_seq (s : State) (f : Fld) (v : Bool) (k : Ch) : (s.wb f v).seq k = s.seq k := rfl
@[simp] theorem State.wb_src (s : State) (f : Fld) (v : Bool) (k : Src) : (s.wb f v).src k = s.src k := rfl
@[simp] theorem State.wb_subq (s : State) (f : Fld) (v : Bool) (k : QId) : (s.wb f v).subq k = s.subq k := rfl
@[simp] theorem State.incSat_chan (s : State) (f : Fld) (k : Ch) : (s.incSat f).chan k = s.chan k := rfl
@[simp] theorem State.incSat_seq (s : State) (f : Fld) (k : Ch) : (s.incSat f).seq k = s.seq k := rfl
@[simp] theorem State.incSat_src (s : State) (f : Fld) (k : Src) : (s.incSat f).src k = s.src k := rfl
@[simp] theorem State.incSat_subq (s : State) (f : Fld) (k : QId) : (s.incSat f).subq k = s.subq k := rfl
@[simp] theorem State.incWrap_chan (s : State) (f : Fld) (k : Ch) : (s.incWrap f).chan k = s.chan k := rfl
@[simp] theorem State.incWrap_seq (s : State) (f : Fld) (k : Ch) : (s.incWrap f).seq k = s.seq k := rfl
@[simp] theorem State.incWrap_src (s : State) (f : Fld) (k : Src) : (s.incWrap f).src k = s.src k := rfl
@[simp] theorem State.incWrap_subq (s : State) (f : Fld) (k : QId) : (s.incWrap f).subq k = s.subq k := rfl
@[simp] theorem State.setFBit_chan (s : State) (f : Fld) (i : Nat) (k : Ch) : (s.setFBit f i).chan k = s.chan k := rfl
@[simp] theorem State.setFBit_seq (s : State) (f : Fld) (i : Nat) (k : Ch) : (s.setFBit f i).seq k = s.seq k := rfl
@[simp] theorem State.setFBit_src (s : State) (f : Fld) (i : Nat) (k : Src) : (s.setFBit f i).src k = s.src k := rfl
@[simp] theorem State.setFBit_subq (s : State) (f : Fld) (i : Nat) (k : QId) : (s.setFBit f i).subq k = s.subq k := rfl
@[simp] theorem State.clrFBit_chan (s : State) (f : Fld) (i : Nat) (k : Ch) : (s.clrFBit f i).chan k = s.chan k := rfl
@[simp] theorem State.clrFBit_seq (s : State) (f : Fld) (i : Nat) (k : Ch) : (s.clrFBit f i).seq k = s.seq k := rfl
@[simp] theorem State.clrFBit_src (s : State) (f : Fld) (i : Nat) (k : Src) : (s.clrFBit f i).src k = s.src k := rfl
@[simp] theorem State.clrFBit_subq (s : State) (f : Fld) (i : Nat) (k : QId) : (s.clrFBit f i).subq k = s.subq k := rfl
@[simp] theorem State.updCh_rd (s : State) (c : Ch) (f : Chan → Chan) (r : Fld) : (s.updCh c f).rd r = s.rd r := rfl
@[simp] theorem State.updCh_src (s : State) (c : Ch) (f : Chan → Chan) (k : Src) : (s.updCh c f).src k = s.src k := rfl
@[simp] theorem State.updCh_subq (s : State) (c : Ch) (f : Chan → Chan) (k : QId) : (s.updCh c f).subq k = s.subq k := rfl
@[simp] theorem State.updStage_rd (s : State) (c : Ch) (f : Stage → Stage) (r : Fld) : (s.updStage c f).rd r = s.rd r := rfl
@[simp] theorem State.updStage_src (s : State) (c : Ch) (f : Stage → Stage) (k : Src) : (s.updStage c f).src k = s.src k := rfl
@[simp] theorem State.updStage_subq (s : State) (c : Ch) (f : Stage → Stage) (k : QId) : (s.updStage c f).subq k = s.subq k := rfl
@[simp] theorem State.updLoop_rd (s : State) (c : Ch) (f : LoopS → LoopS) (r : Fld) : (s.updLoop c f).rd r = s.rd r := rfl
@[simp] theorem State.updLoop_src (s : State) (c : Ch) (f : LoopS → LoopS) (k : Src) : (s.updLoop c f).src k = s.src k := rfl
@[simp] theorem State.updLoop_subq (s : State) (c : Ch) (f : LoopS → LoopS) (k : QId) : (s.updLoop c f).subq k = s.subq k := rfl
@[simp] theorem State.updMet_rd (s : State) (c : Ch) (f : ChMet → ChMet) (r : Fld) : (s.updMet c f).rd r = s.rd r := rfl
@[simp] theorem State.updMet_src (s : State) (c : Ch) (f : ChMet → ChMet) (k : Src) : (s.updMet c f).src k = s.src k := rfl
@[simp] theorem State.updMet_subq (s : State) (c : Ch) (f : ChMet → ChMet) (k : QId) : (s.updMet c f).subq k = s.subq k := rfl
@[simp] theorem State.updLed_rd (s : State) (c : Ch) (f : Ledger → Ledger) (r : Fld) : (s.updLed c f).rd r = s.rd r := rfl
@[simp] theorem State.updLed_src (s : State) (c : Ch) (f : Ledger → Ledger) (k : Src) : (s.updLed c f).src k = s.src k := rfl
@[simp] theorem State.updLed_subq (s : State) (c : Ch) (f : Ledger → Ledger) (k : QId) : (s.updLed c f).subq k = s.subq k := rfl
@[simp] theorem State.updSeq_rd (s : State) (c : Ch) (f : ChanS → ChanS) (r : Fld) : (s.updSeq c f).rd r = s.rd r := rfl
@[simp] theorem State.updSeq_src (s : State) (c : Ch) (f : ChanS → ChanS) (k : Src) : (s.updSeq c f).src k = s.src k := rfl
@[simp] theorem State.updSeq_subq (s : State) (c : Ch) (f : ChanS → ChanS) (k : QId) : (s.updSeq c f).subq k = s.subq k := rfl
@[simp] theorem State.updTlm_rd (s : State) (c : Ch) (f : Tlm → Tlm) (r : Fld) : (s.updTlm c f).rd r = s.rd r := rfl
@[simp] theorem State.updTlm_src (s : State) (c : Ch) (f : Tlm → Tlm) (k : Src) : (s.updTlm c f).src k = s.src k := rfl
@[simp] theorem State.updTlm_subq (s : State) (c : Ch) (f : Tlm → Tlm) (k : QId) : (s.updTlm c f).subq k = s.subq k := rfl
@[simp] theorem State.updRun_rd (s : State) (c : Ch) (f : Run → Run) (r : Fld) : (s.updRun c f).rd r = s.rd r := rfl
@[simp] theorem State.updRun_src (s : State) (c : Ch) (f : Run → Run) (k : Src) : (s.updRun c f).src k = s.src k := rfl
@[simp] theorem State.updRun_subq (s : State) (c : Ch) (f : Run → Run) (k : QId) : (s.updRun c f).subq k = s.subq k := rfl
@[simp] theorem State.ledger_rd (s : State) (c : Ch) (f : Ledger → Ledger) (r : Fld) : (s.ledger c f).rd r = s.rd r := rfl
@[simp] theorem State.ledger_src (s : State) (c : Ch) (f : Ledger → Ledger) (k : Src) : (s.ledger c f).src k = s.src k := rfl
@[simp] theorem State.ledger_subq (s : State) (c : Ch) (f : Ledger → Ledger) (k : QId) : (s.ledger c f).subq k = s.subq k := rfl
@[simp] theorem State.updQd_rd (s : State) (q : Quad) (f : QuadS → QuadS) (r : Fld) : (s.updQd q f).rd r = s.rd r := rfl
@[simp] theorem State.updQd_chan (s : State) (q : Quad) (f : QuadS → QuadS) (k : Ch) : (s.updQd q f).chan k = s.chan k := rfl
@[simp] theorem State.updQd_seq (s : State) (q : Quad) (f : QuadS → QuadS) (k : Ch) : (s.updQd q f).seq k = s.seq k := rfl
@[simp] theorem State.updQd_src (s : State) (q : Quad) (f : QuadS → QuadS) (k : Src) : (s.updQd q f).src k = s.src k := rfl
@[simp] theorem State.updQd_subq (s : State) (q : Quad) (f : QuadS → QuadS) (k : QId) : (s.updQd q f).subq k = s.subq k := rfl
@[simp] theorem State.updQ_rd (s : State) (q : QId) (f : SubQ → SubQ) (r : Fld) : (s.updQ q f).rd r = s.rd r := rfl
@[simp] theorem State.updQ_chan (s : State) (q : QId) (f : SubQ → SubQ) (k : Ch) : (s.updQ q f).chan k = s.chan k := rfl
@[simp] theorem State.updQ_seq (s : State) (q : QId) (f : SubQ → SubQ) (k : Ch) : (s.updQ q f).seq k = s.seq k := rfl
@[simp] theorem State.updQ_src (s : State) (q : QId) (f : SubQ → SubQ) (k : Src) : (s.updQ q f).src k = s.src k := rfl
@[simp] theorem State.retireTo_rd (s : State) (q : QId) (n : Nat) (r : Fld) : (s.retireTo q n).rd r = s.rd r := rfl
@[simp] theorem State.retireTo_chan (s : State) (q : QId) (n : Nat) (k : Ch) : (s.retireTo q n).chan k = s.chan k := rfl
@[simp] theorem State.retireTo_seq (s : State) (q : QId) (n : Nat) (k : Ch) : (s.retireTo q n).seq k = s.seq k := rfl
@[simp] theorem State.retireTo_src (s : State) (q : QId) (n : Nat) (k : Src) : (s.retireTo q n).src k = s.src k := rfl
@[simp] theorem State.updSrc_rd (s : State) (n : Src) (f : SrcS → SrcS) (r : Fld) : (s.updSrc n f).rd r = s.rd r := rfl
@[simp] theorem State.updSrc_chan (s : State) (n : Src) (f : SrcS → SrcS) (k : Ch) : (s.updSrc n f).chan k = s.chan k := rfl
@[simp] theorem State.updSrc_seq (s : State) (n : Src) (f : SrcS → SrcS) (k : Ch) : (s.updSrc n f).seq k = s.seq k := rfl
@[simp] theorem State.updSrc_subq (s : State) (n : Src) (f : SrcS → SrcS) (k : QId) : (s.updSrc n f).subq k = s.subq k := rfl
@[simp] theorem State.emit_rd (s : State) (o : Out) (r : Fld) : (s.emit o).rd r = s.rd r := rfl
@[simp] theorem State.emit_chan (s : State) (o : Out) (k : Ch) : (s.emit o).chan k = s.chan k := rfl
@[simp] theorem State.emit_seq (s : State) (o : Out) (k : Ch) : (s.emit o).seq k = s.seq k := rfl
@[simp] theorem State.emit_src (s : State) (o : Out) (k : Src) : (s.emit o).src k = s.src k := rfl
@[simp] theorem State.emit_subq (s : State) (o : Out) (k : QId) : (s.emit o).subq k = s.subq k := rfl
@[simp] theorem State.irq_rd (s : State) (v : Fin 8) (r : Fld) : (s.irq v).rd r = s.rd r := rfl
@[simp] theorem State.irq_chan (s : State) (v : Fin 8) (k : Ch) : (s.irq v).chan k = s.chan k := rfl
@[simp] theorem State.irq_seq (s : State) (v : Fin 8) (k : Ch) : (s.irq v).seq k = s.seq k := rfl
@[simp] theorem State.irq_src (s : State) (v : Fin 8) (k : Src) : (s.irq v).src k = s.src k := rfl
@[simp] theorem State.complete_rd (s : State) (o : Owner) (v : Fin 8) (rs : List (List Word)) (r : Fld) : (s.complete o v rs).rd r = s.rd r := rfl
@[simp] theorem State.complete_chan (s : State) (o : Owner) (v : Fin 8) (rs : List (List Word)) (k : Ch) : (s.complete o v rs).chan k = s.chan k := rfl
@[simp] theorem State.complete_seq (s : State) (o : Owner) (v : Fin 8) (rs : List (List Word)) (k : Ch) : (s.complete o v rs).seq k = s.seq k := rfl
@[simp] theorem State.complete_src (s : State) (o : Owner) (v : Fin 8) (rs : List (List Word)) (k : Src) : (s.complete o v rs).src k = s.src k := rfl
@[simp] theorem State.notice_rd (s : State) (o : Owner) (q : QId) (a b d e g : Nat) (r : Fld) : (s.notice o q a b d e g).rd r = s.rd r := by unfold State.notice State.noticeIn; split <;> rfl
@[simp] theorem State.notice_chan (s : State) (o : Owner) (q : QId) (a b d e g : Nat) (k : Ch) : (s.notice o q a b d e g).chan k = s.chan k := by unfold State.notice State.noticeIn; split <;> rfl
@[simp] theorem State.notice_seq (s : State) (o : Owner) (q : QId) (a b d e g : Nat) (k : Ch) : (s.notice o q a b d e g).seq k = s.seq k := by unfold State.notice State.noticeIn; split <;> rfl
@[simp] theorem State.notice_src (s : State) (o : Owner) (q : QId) (a b d e g : Nat) (k : Src) : (s.notice o q a b d e g).src k = s.src k := by unfold State.notice State.noticeIn; split <;> rfl
@[simp] theorem State.admDone_rd (s : State) (op : Nat) (a : AdmHdr) (x y : Nat) (r : Fld) : (s.admDone op a x y).rd r = s.rd r := by unfold State.admDone; split <;> rfl
@[simp] theorem State.admDone_chan (s : State) (op : Nat) (a : AdmHdr) (x y : Nat) (k : Ch) : (s.admDone op a x y).chan k = s.chan k := by unfold State.admDone; split <;> rfl
@[simp] theorem State.admDone_seq (s : State) (op : Nat) (a : AdmHdr) (x y : Nat) (k : Ch) : (s.admDone op a x y).seq k = s.seq k := by unfold State.admDone; split <;> rfl
@[simp] theorem State.admDone_src (s : State) (op : Nat) (a : AdmHdr) (x y : Nat) (k : Src) : (s.admDone op a x y).src k = s.src k := by unfold State.admDone; split <;> rfl
@[simp] theorem State.condGone_rd (s : State) (n : Src) (c : Ch) (r : Fld) : (s.condGone n c).rd r = s.rd r := rfl
@[simp] theorem State.condGone_chan (s : State) (n : Src) (c : Ch) (k : Ch) : (s.condGone n c).chan k = s.chan k := rfl
@[simp] theorem State.condGone_seq (s : State) (n : Src) (c : Ch) (k : Ch) : (s.condGone n c).seq k = s.seq k := rfl
@[simp] theorem State.condGone_subq (s : State) (n : Src) (c : Ch) (k : QId) : (s.condGone n c).subq k = s.subq k := rfl
@[simp] theorem State.event_rd (s : State) (a b c : Nat) (r : Fld) : (s.event a b c).rd r = s.rd r := by
  unfold State.event; split <;> rfl
@[simp] theorem State.event_chan (s : State) (a b c : Nat) (k : Ch) : (s.event a b c).chan k = s.chan k := by
  unfold State.event; split <;> rfl
@[simp] theorem State.event_seq (s : State) (a b c : Nat) (k : Ch) : (s.event a b c).seq k = s.seq k := by
  unfold State.event; split <;> rfl
@[simp] theorem State.event_src (s : State) (a b c : Nat) (k : Src) : (s.event a b c).src k = s.src k := by
  unfold State.event; split <;> rfl
@[simp] theorem State.event_subq (s : State) (a b c : Nat) (k : QId) : (s.event a b c).subq k = s.subq k := by
  unfold State.event; split <;> rfl

/-! ### Completions and events -/

/-- A notice that waits for no shared slot is a completion of its own. -/
theorem State.notice_room (s : State) (o : Owner) (q : QId) (a b d e g : Nat) (h : o ≠ .shared ∨ s.sharedRoom = true) :
    s.notice o q a b d e g = s.complete o 0 [noticeRec q.val (s.posOf q a) b d e g] := by
  unfold State.notice
  exact if_neg (fun k => h.elim (fun n => n k.1) (fun r => by simp [r] at k))

/-- A completion stands last in the buffer, and nothing else of the host interface changes. -/
theorem State.complete_host (s : State) (o : Owner) (v : Fin 8) (rs : List (List Word)) :
    (s.complete o v rs).host = { s.host with cbuf := s.host.cbuf ++ [⟨o, rs, v⟩] } := rfl

/-- An event stands last among those that wait, while events are written; otherwise nothing happens. -/
theorem State.event_host (s : State) (a b c : Nat) :
    (s.event a b c).host =
      if s.rb HOST_CTL.EVQ_EN then { s.host with events := s.host.events ++ [⟨a, b, c, s.now⟩] } else s.host := by
  unfold State.event
  split <;> rfl

/-- The end of an admin command that finds a shared slot: its record is the last completion, no command runs, and its
descriptor is retired. -/
theorem State.admDone_ends (s : State) (op : Nat) (a : AdmHdr) (x y : Nat) (h : s.sharedRoom = true) :
    (s.admDone op a x y).host.adm = none ∧
      (s.admDone op a x y).host.cbuf.getLast? = some ⟨.shared, [adminRec a.idx.toNat x op a.tag.toNat y], 1⟩ ∧
      ((s.admDone op a x y).subq aq).done = ((s.subq aq).done + 1) % 65536 := by
  have e : s.admDone op a x y = s.admEnter ⟨op, a, x, y⟩ := by
    unfold State.admDone
    rw [if_pos h]
  rw [e]
  refine ⟨rfl, ?_, ?_⟩
  · show (s.host.cbuf ++ _).getLast? = _
    simp
  · exact congrArg SubQ.done (bget_bupd_same _ _ _)

/-- The end of an admin command that finds no shared slot: its completion waits, and no command runs. -/
theorem State.admDone_waits (s : State) (op : Nat) (a : AdmHdr) (x y : Nat) (h : s.sharedRoom = false) :
    (s.admDone op a x y).host = { s.host with adm := none, admFin := some ⟨op, a, x, y⟩ } := by
  unfold State.admDone
  rw [if_neg (by simp [h])]

end Sys2Proof.Machine
end

