-- ==== Sys2Proof/WellFormed.lean ====
section
/-!
DEFINITION. What makes a command well-formed: its operands have the shape that its row's rule gives them. The meanings
are total all the same; a command that is not well-formed is one that no hardware can present.
-/

namespace Sys2Proof

/-- A doorbell line has eighteen tails (R418). -/
def DbLine.wf (l : DbLine) : Bool := decide (l.tails.length = 18)

/-- A data frame's payload is at most 64 words (R499). -/
def Frame.wf (f : Frame) : Bool := decide (f.payload.length ≤ 64)

/-- A frame of a type (R500). -/
def Frame.isType (f : Frame) (t : Nat) : Bool := f.wf && decide (f.type.toNat = t)

/-- A MGMT frame of a subtype (R500). -/
def Frame.isMgmt (f : Frame) (sub : Nat) : Bool := f.isType 7 && decide (f.arg.toNat % 256 = sub)

/-- A manifest holds as many entries as it counts (R718). -/
def manWf (m : Option Manifest) : Bool :=
  match m with
  | none => true
  | some x => decide (x.entries.length = x.nimg.toNat)

/-- A step row carries a descriptor of its own opcode (R435, R437). -/
def StepDesc.isOp (d : StepDesc) (op : Nat) : Bool := decide (d.op.toNat = op)

/-- A motion row carries a descriptor of its own opcode (R441). -/
def MotionDesc.isOp (d : MotionDesc) (op : Nat) : Bool := decide (d.op.toNat = op)

/-- A command is well-formed. -/
def Instr.wf (i : Instr) : Bool :=
  match i with
  | .bootComplete i => manWf i.slotA && manWf i.slotB
  | .loadImage _ _ m => manWf m
  | .loadProfile _ _ _ img => decide (∀ ws ∈ img, ws.length = 37)
  | .enterService _ _ m => manWf m
  | .parkTick i => decide (i.ov.length = 16 ∧ i.uv.length = 16)
  | .tickBoundary i => decide (i.ch.length = 16)
  | .cc _ _ d => d.isOp 1
  | .cv _ _ d => d.isOp 2
  | .cccv _ _ d => d.isOp 3
  | .cp _ _ d => d.isOp 4
  | .cr _ _ d => d.isOp 5
  | .pulse _ _ d => d.isOp 6
  | .rest _ _ d => d.isOp 7
  | .ocv _ _ d => d.isOp 8
  | .dcir _ _ d => d.isOp 9
  | .eis _ _ d => d.isOp 10
  | .nichg _ _ d => d.isOp 11
  | .ramp _ _ d => d.isOp 12
  | .wait _ _ d => d.isOp 16
  | .hold _ _ d => d.isOp 17
  | .gang _ _ d => d.isOp 18
  | .update _ _ d => d.isOp 19
  | .endStep _ _ d => d.isOp 31
  | .doorbellLineRead _ l => l.line.wf
  | .dbl f => f.isType 6
  | .descriptorReadComplete _ _ ws => decide (ws.length ≤ 64)
  | .home _ d => d.isOp 0x41
  | .moveTo _ d => d.isOp 0x42
  | .press _ d => d.isOp 0x43
  | .holdForce _ d => d.isOp 0x44
  | .release _ d => d.isOp 0x45
  | .stop _ d => d.isOp 0x46
  | .arrive f => f.isMgmt 2
  | .reg f => f.isType 1
  | .regr f => f.isType 2
  | .rdreq f => f.isType 3
  | .rdcpl f => f.isType 4
  | .wr f => f.isType 5
  | .ack f => f.isMgmt 1
  | .join f => f.isMgmt 3
  | .assign f => f.isMgmt 4
  | .wrap f => f.isMgmt 5
  | .restore f => f.isMgmt 6
  | .msix f => f.isMgmt 7
  | .span f => f.isMgmt 8
  | .periodNak f => f.isMgmt 9
  | .bar1Access _ off w ws n => decide (off.toNat % 4 = 0) && (if w then decide (1 ≤ ws.length ∧ ws.length ≤ 16) else decide (ws = [] ∧ 1 ≤ n.val))
  | .homeEdge _ _ n d => decide (0 < d ∧ n ≤ d)
  | .bootGo _ _ m => manWf m
  | .registerWrite _ off ws => decide (off.toNat % 4 = 0 ∧ 1 ≤ ws.length ∧ ws.length ≤ 16)
  | .unsupportedAccess _ off n _ => decide (n ≠ 4 ∨ off.toNat % 4 ≠ 0)
  | .vinOn | .por | .brownout .. | .pinReset | .perstNAssert | .functionLevelReset | .vdrvUnderVoltage
  | .internalResetRelease .. | .pllLock | .injectionTestDone .. | .nop .. | .regRead .. | .regWrite ..
  | .revoke .. | .resume .. | .clearFault .. | .enterRun .. | .enterStandby .. | .leaveService ..
  | .clearSafe .. | .enterPark .. | .parkEntryFinish | .resetChip .. | .resetWarm .. | .resetBlock ..
  | .blockResetDone .. | .attest .. | .dumpNow .. | .safeStateRequest .. | .parkWakeTray | .parkWakeVb
  | .parkWakeRing .. | .drvEnToggle | .refSwitch | .clkLost | .pennantReceived .. | .pennantMissed
  | .tickAlign | .sysTickWrite .. | .tickPeriodSwitch | .tickChangeWithdraw | .telemetryReport
  | .safetyCycleStart .. | .spend .. | .safOverrun | .safHeartbeat | .pwmPeriodStart .. | .sarSample ..
  | .controlSampleValid .. | .leOverrun .. | .loadInstant .. | .gdAdapt .. | .bothOnCommand ..
  | .measClose .. | .kelTest .. | .kelvinPulseEnd .. | .isoSettleEnd .. | .isoStagedOpen .. | .chamoisTrip ..
  | .blankingEnd .. | .scHard .. | .comparatorTrip .. | .comparatorRelease .. | .olFault .. | .kelOpen ..
  | .hkSample .. | .profileLoad .. | .profileInvalidate .. | .profileReadback .. | .profileDecision ..
  | .followErr .. | .swtrig .. | .tracePostStop .. | .traceDataRead .. | .rangeRequest ..
  | .ibxRotationStart .. | .calibrationComplete .. | .compareWindowEnd .. | .sourceChange ..
  | .ibxWindowTimeout .. | .sarTrackFit .. | .sinc3Output .. | .ledgerSnap .. | .ledgerClear ..
  | .ledgerDataRead .. | .stepBegin .. | .bankSwap .. | .seqLate .. | .prearm .. | .stepGapArm ..
  | .updateApply .. | .softStartEnd .. | .shortCheck .. | .stepTimeout .. | .pulsePhaseSwitch ..
  | .ocvPhaseEnd .. | .dcirPhaseEnd .. | .eisToneAdmit .. | .eisWindowClose .. | .nichgHoldEnd ..
  | .ecWindowEnd .. | .doorbellPoll | .summaryReadComplete .. | .queueEnable .. | .descriptorFetch
  | .completionPost | .eventPost | .msixSend .. | .hostErrClear .. | .splice .. | .pennantReturn ..
  | .ringBarset .. | .safetyPduReceived .. | .frameSend .. | .regTimeout .. | .rdreqTimeout ..
  | .ackTimeout .. | .restoreBoundary | .enumStart | .enumEnd .. | .ringEnumWrite .. | .ringInputDown ..
  | .ringInputStable .. | .positionLeave .. | .ringWakeGo .. | .wakeBurst | .ringWatchdogExpiry ..
  | .motPwmPeriodStart .. | .zeroCrossing .. | .demagEnd .. | .commutation .. | .zcMiss | .gearCheck
  | .startCheckEnd .. | .activeShortEnd | .alignEnd .. | .startTimeout | .catch_ .. | .encoderFrame ..
  | .motOverrun | .motionFollowErr .. | .motionTimeout | .motionDwellEnd | .motScTrip | .motScHard
  | .motBothOn .. | .brkmSwitch .. | .brkmOvl | .brkbSwitch .. | .brkbOvl | .kdrClose | .kfbCheck ..
  | .kfbDiscrepancy .. | .safKctlReq .. | .kdrDrop | .ss1End | .menRestore | .estopFilterExpiry ..
  | .estopDiscrepancy | .trayExchange | .faultRaise .. | .faultClear .. | .railBreak .. | .cmpCfgWrite ..
  | .errNRelease | .seqWdog | .motWdog | .snapshotComplete | .dumpStart | .dumpFinish .. | .dumpAck ..
  | .faultInject .. | .challengeNew .. | .digestRead | .werrClear .. | .dbgHalt .. | .leStepGo ..
  | .latchingLowRead .. | .coreRailReturn .. | .rstNRelease | .perstNDeassert | .pcieLinkChange ..
  | .pcieConfigWrite .. | .pllLockLoss | .debugTransportAccess .. | .reportSigned | .slotReadbackDone .. => true

end Sys2Proof
end

