-- ==== Sys2Proof/Tests/Slice0.lean ====
section
/-!
SUPPORT. Tests of the model: ill-formed commands that WellFormed refuses, one step at a time against values worked out
from the rules, and for each statement a state and operands that meet its hypotheses, clause by clause.
-/

namespace Sys2Proof.Tests
open Sys2Proof Sys2Proof.Machine

/-! ### Small states and operands -/

/-- An admin header. -/
def hdr : AdmHdr := ⟨3, 7⟩

/-- A running device in a mode and role (standalone by default), with everything else as after reset. -/
def up (m : Mode) (role : Nat := 3) : State :=
  { State.reset with sys := { SysS.reset with mode := m, held := none } }.wr SYS_STRAP.ROLE role

/-- Comparators that are not tripped. -/
def free : Vector CmpS 72 := Vector.replicate 72 ⟨false, false, false, false⟩

/-- An unused end condition. -/
def ec0 : EndCond := ⟨0, 0, 0, 0⟩

/-- A step descriptor with every optional field 0 and the metrology range kept. -/
def stepOf (op : Byte) (x0 x1 x2 : Word) (p16 : Half := 0) : StepDesc :=
  ⟨op, 0, 4, 0, false, false, false, 0, 0, 0, p16, 0, 1, 0, x0, x1, x2, ec0, ec0, ec0, ec0⟩

/-- A profile with a current law, an outer law or a transform. -/
def profOf1 (outer xform : Nat) : Prof :=
  ⟨0, outer, xform, true, Vector.replicate 32 1, 100, 10, 1000, 0, 1000⟩

/-- A running step of channel 0 at its beginning. -/
def runOf (d : StepDesc) : Run := Run.start d 5 2000 true 10 0 false 0 0 8

/-- A device in RUN with channel 0 in a step. -/
def running (r : Run) : State := (up .run).updSeq 0 (fun x => { x with st := .active, run := some r })

/-- A motion descriptor with every field 0. -/
def motOf (op : Byte) : MotionDesc := ⟨op, false, 0, 0, 0, 0, 0, 0, 0, 0⟩

/-- A running motion command. -/
def cmdOf (d : MotionDesc) (ph : MotPh) : MotCmd := ⟨d, 2, ph, 5000, 0, 5000, 0, 0, 0, 0, false⟩

/-- A frame from position 3. -/
def frameOf (type : BitVec 3) (arg : Long) (ws : List Word) : Frame := ⟨type, 0, 3, false, false, true, 9, arg, ws, true⟩

/-- A Pennant of tick 40. -/
def pennOf (ok : Bool) : Pennant := ⟨40, 2, false, 1, 0, 0, 50, 0, 0, 4, 0, 0, ok⟩

/-- A safety PDU of a position. -/
def pduOf (src : BitVec 5) (seq : Byte) (ok : Bool) : Pdu := ⟨src, seq, 0, 2, 0, 0, 0, ok⟩

/-- A manifest with images of the types, each of 64 bytes unless the type asks for another length. -/
def manOf (ts : List (Byte × Word × List Byte)) (flags : Byte) (auth : Byte := 0) : Manifest where
  magic := 0x4E414D59
  version := 1
  auth := auth
  svn := 0
  flags := flags
  nimg := BitVec.ofNat 8 ts.length
  rsvOk := true
  build := 0
  uid := 0
  total := 20000
  entries := ts.zipIdx.map (fun (t, i) => ⟨t.1, true, BitVec.ofNat 32 (17344 + 512 * i), t.2.1, 0, 0, t.2.2⟩)
  rsaExp := 65537
  rsaHash := 0
  slhHash := 0
  manHash := 0
  rsaOk := true
  slhOk := true

/-- A set of code images. -/
def codeSet : Manifest := manOf [(1, 64, []), (2, 64, []), (3, 64, [])] 2

/-- The words of an admin descriptor with tag 7: opcode, `ARG0` and the words after it. -/
def admWords (op arg : Nat) (rest : List Word) : List Word :=
  [BitVec.ofNat 32 (0x70000 + op), BitVec.ofNat 32 arg] ++ rest

/-- A device whose AQ has an admin descriptor at its head, in slot 3. -/
def asked (s : State) (op : Nat) (arg : Nat := 0) (rest : List Word := []) : State :=
  (s.wr HOST_CTL.QEN (2 ^ 17)).updQ aq (fun x => { x with done := 3, pre := [⟨admWords op arg rest, true⟩] })

/-- A ring input that saw nothing in a tick. -/
def quietLine : LineIn := ⟨false, 0, 0, false, 0⟩

/-! ### Ill-formed commands -/

theorem test_wf_manifest_counts_entries : (Instr.loadImage hdr 0 (some { codeSet with nimg := 2 })).wf = false := by decide
theorem test_wf_boot_manifest : (Instr.bootComplete ⟨true, none, some { codeSet with nimg := 4 }, true⟩).wf = false := by decide
theorem test_wf_service_manifest : (Instr.enterService hdr 0 (some { codeSet with nimg := 0 })).wf = false := by decide
theorem test_wf_boot_go_manifest : (Instr.bootGo .bar0 1 (some { codeSet with nimg := 1 })).wf = false := by decide
theorem test_wf_profile_image : (Instr.loadProfile hdr 0 0 (some [1, 2])).wf = false := by decide
theorem test_wf_park_samples : (Instr.parkTick ⟨[], [], .safe, .safe⟩).wf = false := by decide
theorem test_wf_tick_channels : (Instr.tickBoundary ⟨[], #v[0, 0], 0, 0, 0, true, #v[quietLine, quietLine]⟩).wf = false := by decide
theorem test_wf_step_opcodes :
    ([(.cc), (.cv), (.cccv), (.cp), (.cr), (.pulse), (.rest), (.ocv), (.dcir), (.eis), (.nichg), (.ramp), (.wait),
      (.hold), (.gang), (.update), (.endStep)] : List (Ch → Half → StepDesc → Instr)).all
      (fun f => !(f 0 0 (stepOf 0x55 0 0 0)).wf) = true := by decide
theorem test_wf_motion_opcodes :
    ([(.home), (.moveTo), (.press), (.holdForce), (.release), (.stop)] : List (Half → MotionDesc → Instr)).all
      (fun f => !(f 0 (motOf 0x47)).wf) = true := by decide
theorem test_wf_doorbell_line : (Instr.doorbellLineRead 0 ⟨.ok, [1, 2, 3], 0, 0, 0, 0⟩).wf = false := by decide
theorem test_wf_descriptor_words : (Instr.descriptorReadComplete 0 .ok (List.replicate 65 0)).wf = false := by decide
theorem test_wf_frame_types :
    ([(.dbl), (.reg), (.regr), (.rdreq), (.rdcpl), (.wr)] : List (Frame → Instr)).all
      (fun f => !(f (frameOf 0 0 [])).wf) = true := by decide
theorem test_wf_frame_length : (Instr.wr (frameOf 5 0 (List.replicate 65 0))).wf = false := by decide
theorem test_wf_message_subtypes :
    ([(.arrive), (.ack), (.join), (.assign), (.wrap), (.restore), (.msix), (.span), (.periodNak)] :
      List (Frame → Instr)).all (fun f => !(f (frameOf 7 0 [])).wf) = true := by decide
theorem test_wf_bar1_alignment : (Instr.bar1Access 1 2 false [] 1).wf = false := by decide
theorem test_wf_bar1_count : (Instr.bar1Access 1 4 true [] 0).wf = false := by decide
theorem test_wf_home_edge : (Instr.homeEdge true 0 3 2).wf = false := by decide
theorem test_wf_register_write : (Instr.registerWrite .bar0 6 [1]).wf = false := by decide
theorem test_wf_unsupported_access : (Instr.unsupportedAccess .bar0 8 4 false).wf = false := by decide

end Sys2Proof.Tests
namespace Sys2Proof.Tests
open Sys2Proof Sys2Proof.Machine

/-! ### States that meet the hypotheses of the statements: the machine, resets, admin commands -/

theorem witness_StepRunsFrontCommand : State.reset.pending = [] := rfl

theorem witness_StepKeepsRegisterFile :
    let s := { up .standby with pending := [.drvEnToggle] }
    s.regs.ok = true ∧ ∃ t, step s = .next t := ⟨by decide +kernel, _, rfl⟩

theorem witness_OtpOnlyMovesForward :
    let s := { State.reset with pending := [.vinOn] }
    s.sec.life ≤ s.sec.lifePend.getD s.sec.life ∧ ∃ t, step s = .next t := ⟨by decide, _, rfl⟩

/-- A gang of two formed by channel 0. -/
def gang2 (s : State) : State :=
  (s.updSeq 0 (fun x => { x with size := 2 })).updSeq 1 (fun x => { x with lead := some 0, st := .member })

theorem witness_StepKeepsGangs :
    ({ gang2 (up .run) with pending := [.scHard ⟨1, 0⟩] }).gangsOk ∧
      ∃ t, step { gang2 (up .run) with pending := [.scHard ⟨1, 0⟩] } = .next t :=
  ⟨by unfold State.gangsOk; decide +kernel, _, rfl⟩

theorem witness_FullResetOpensOutputs :
    let s := up .run
    s.sys.held = none ∧ s.parked = false ∧ s.isHead = true ∧ s.flt.chipDue = none := by decide +kernel

theorem witness_ResetKeepsSurvivingFields :
    let s := up .run
    let f := SYS_TICK.PERIOD
    s.sys.held = none ∧ s.flt.chipDue = none ∧ f.off ≠ 0x1c ∧ f.off ≠ 0x3070 ∧ f.off ≠ 0x501c ∧
      (∀ e ∈ s.written, e.1.key ≠ f.key) ∧
      (∀ q : Quad, f.off ≠ 0x9100 + 0x400 * q.val ∧ f.off ≠ 0x9108 + 0x400 * q.val) ∧
      ∀ e ∈ s.regs, e.1.key = f.key → e.1 = f := by decide +kernel

theorem witness_SupplyAndPinEvents :
    (up .run).parked = false ∧ (up .run).pins.vin = true ∧
    ({ up .run with pins := { Pins.reset with vin := false } }).pins.vin = false ∧
    (let s := { up .park with pins := { Pins.reset with rstN := false } }.wr SYS_PARK.WAKE_RST 1
     s.parked = true ∧ s.pins.rstN = false ∧ s.rb SYS_PARK.WAKE_RST = true) := by decide +kernel

theorem witness_SupplyAndPinEvents_vdrv :
    (let s := { up .run with cmp := free }
     s.gangsOk ∧ (s.cmpAt 71).filt = false ∧ (s.src 38).act = 0 ∧ bitN (s.src 38).react 2 = false ∧
       bitN (s.src 38).react 3 = false ∧ bitN (s.src 38).react 5 = false) ∧
    ((up .run).gangsOk ∧ ((up .run).cmpAt 71).filt = true) := by
  unfold State.gangsOk; decide +kernel

theorem witness_gangs_of_single_channels : (up .run).gangsOk ∧ (up .standby).gangsOk := by
  unfold State.gangsOk; decide +kernel

/-- A standalone device that reads host memory, with these queues enabled. -/
def hosted (ctl : Nat) (h : HostS) : State :=
  { ((up .run).wr HOST_CTL.QEN ctl).wr HOST_CTL.DB_EN 1 with host := { h with link := true, bme := true } }

theorem witness_AdminCommandsThatEndAtOnce :
    (asked (up .standby) 1).admTakes 1 hdr noArgs = true ∧ (asked (up .standby) 7 0x8001).admTakes 7 hdr (maskArgs 0x8001) = true ∧
    (0x8001 : BitVec 16).getLsbD 15 = true ∧ ((up .standby).updSeq 15 (fun x => { x with st := .hold })).seq 15 =
      { (up .standby).seq 15 with st := .hold } ∧
    (asked (up .standby) 8 15).admTakes 8 hdr (chArgs 15) = true ∧ (asked (up .standby) 17).admTakes 17 hdr noArgs = true ∧
    (asked (up .standby) 2 0x10000).admTakes 2 hdr (offArgs 0x10000) = true ∧
    (asked (up .standby) 3 0x9C00 [0, 0, 0, 5]).admTakes 3 hdr (writeArgs 0x9C00 5) = true ∧
    ¬ ((up .standby).rb FLT_DUMPSTAT.REQ = true) ∧ ((up .standby).wr FLT_DUMPSTAT.REQ 1).rb FLT_DUMPSTAT.REQ = true ∧
    65536 ≤ (0x10000 : Word).toNat ∧ (6 : Word).toNat % 4 ≠ 0 ∧
    (let s := (asked (up .standby) 2 0x9C00).updQd 3 (fun x => { x with resetting := true })
     s.admTakes 2 hdr (offArgs 0x9C00) = true ∧ s.blockHeld (0x9C00 : Word).toNat = true) ∧
    (let s := (asked (up .standby) 3 0x9C00 [0, 0, 0, 5]).updQd 3 (fun x => { x with resetting := true })
     s.admTakes 3 hdr (writeArgs 0x9C00 5) = true ∧ s.blockHeld (0x9C00 : Word).toNat = true) ∧
    (let s := asked (up .standby) 2 0xFFFC
     s.admTakes 2 hdr (offArgs 0xFFFC) = true ∧ s.blockHeld (0xFFFC : Word).toNat = false) ∧
    (up .standby).blockHeld (0xFFFC : Word).toNat = false := by decide +kernel

/-- A device that may take images from QSPI. -/
def qspiDev : State := (up .standby).wr SYS_STRAP.BOOTSEL 2

theorem witness_LoadImageOutcomes :
    (asked (up .run) 4 0 [0, 0, 20000]).admTakes 4 hdr (lenArgs 20000) = true ∧ (up .run).sys.mode ≠ .standby ∧ (up .run).sys.mode ≠ .safe ∧
    (up .standby).checkMan codeSet .load 20000 ≠ 0 ∧
    ((asked qspiDev 4 0 [0, 0, 20000]).admTakes 4 hdr (lenArgs 20000) = true ∧ qspiDev.checkMan codeSet .load 20000 = 0 ∧ isCodeSet codeSet = true) ∧
    (let m := manOf [(4, 80, List.replicate 80 0)] 4
     (up .standby).checkMan m .load 20000 = 0 ∧ manTypes m = [4]) ∧
    (let m := manOf [(6, 16, List.replicate 16 0)] 4
     (up .standby).checkMan m .load 20000 = 0 ∧ manTypes m = [6]) ∧
    (let s := { up .safe with sec := { SecS.reset with life := 2, ownerSet := true } }
     let m := manOf [(8, 4, [0, 0, 0, 0])] 4 1
     (asked s 4 0 [0, 0, 20000]).admTakes 4 hdr (lenArgs 20000) = true ∧ s.checkMan m .load 20000 = 0 ∧ manTypes m = [8]) ∧
    (let m := manOf [(5, 96, List.replicate 96 0)] 4
     (up .standby).checkMan m .load 20000 = 0 ∧ manTypes m = [5]) ∧
    ({ up .standby with sec := { SecS.reset with staged := some (hdr, imgSetOf codeSet 1) } }).sec.staged =
      some (hdr, imgSetOf codeSet 1) ∧ (up .standby).sharedRoom = true := by decide +kernel

theorem witness_RevokeEndsQueueAtFirst :
    (let s := (asked (up .standby) 6 16 [0, 0, 0, 2]).updQ 16 (fun x => { x with held := some 2, tail := 5 })
     s.admTakes 6 hdr (revokeArgs 16 2) = true ∧ (s.subq 16).held = some (2 : Half).toNat ∧ before16 2 (s.revokeLeast 16) = false ∧
       s.sharedUse + countTo (s.revokeFrom 16 2) (s.subq 16).tail < 191 ∧ (s.subq 0).held ≠ some (0 : Half).toNat) ∧
    ((asked (up .standby) 6 0).admTakes 6 hdr (revokeArgs 0 0) = true ∧
      (asked (up .standby) 6 17).admTakes 6 hdr (revokeArgs 17 0) = true ∧ 16 < (17 : BitVec 5).toNat) ∧
    (let s := (asked (up .standby) 6 16 [0, 0, 0, 0xFFFF]).updQ 16 (fun x => { x with held := some 65535, tail := 2 })
     s.admTakes 6 hdr (revokeArgs 16 0xFFFF) = true ∧ (s.subq 16).held = some (0xFFFF : Half).toNat ∧ before16 0xFFFF (s.revokeLeast 16) = true) := by
  decide +kernel

/-- A device whose guard of ENTER_RUN holds. -/
def readyToRun : State :=
  (({ up .standby with saf := { SafS.reset with kfbA := true, kfbB := true }, cmp := Vector.replicate 72 ⟨false, false, false, false⟩ }).wr
    SAF_STAT.INJ_OK 1)

/-- A manifest for SERVICE with an empty challenge and every permission. -/
def authMan : Manifest := manOf [(7, 64, List.replicate 32 0 ++ [15] ++ List.replicate 31 0)] 4

theorem witness_ModeCommandsBeginOrAreRefused :
    ((asked readyToRun 9).admTakes 9 hdr noArgs = true ∧ readyToRun.sys.mode = .standby ∧ readyToRun.runGuard = true) ∧
    ((asked (up .run) 10).admTakes 10 hdr noArgs = true ∧ (up .run).sys.mode = .run ∧ (up .run).calm = true) ∧
    (let s := (up .standby).wr SEC_CHALCTL.VALID 1
     (asked s 11 0 [0, 0, 20000]).admTakes 11 hdr (lenArgs 20000) = true ∧ s.sys.mode = .standby ∧ s.authCheck (some authMan) 20000 = (0, 15)) ∧
    ((asked (up .service) 12).admTakes 12 hdr noArgs = true ∧ (up .service).sys.mode = .service ∧ (up .service).calm = true) ∧
    (let s := { up .safe with saf := { SafS.reset with toggled := true } }
     (asked s 13).admTakes 13 hdr noArgs = true ∧ s.sys.mode = .safe ∧ s.rd SAF_CAUSEV.SF = 0 ∧ s.rd SAF_CAUSEV.OTHER = 0 ∧ s.saf.toggled = true) ∧
    ((asked (up .safe) 14).admTakes 14 hdr noArgs = true ∧ (up .safe).mot.cmd = none ∧ (up .standby).mot.cmd = none) ∧
    (let s := asked (up .run) 9
     s.admTakes 9 hdr noArgs = true ∧ s.sys.mode ≠ .standby) ∧
    (let s := asked (up .standby) 10
     s.admTakes 10 hdr noArgs = true ∧ s.sys.mode ≠ .run) ∧
    (let s := asked (up .run) 11 0 [0, 0, 20000]
     s.admTakes 11 hdr (lenArgs 20000) = true ∧ s.sys.mode ≠ .standby) ∧
    (let s := asked (up .run) 12
     s.admTakes 12 hdr noArgs = true ∧ s.sys.mode ≠ .service) ∧
    (let s := asked (up .run) 13
     s.admTakes 13 hdr noArgs = true ∧ s.sys.mode ≠ .safe) ∧
    (let s := asked (up .run) 14
     s.admTakes 14 hdr noArgs = true ∧ s.sys.mode ≠ .standby ∧ s.sys.mode ≠ .safe) := by decide +kernel

theorem witness_ResetCommandsAndBlockResets :
    (asked (up .standby) 15 1).admTakes 15 hdr (resetArgs 1) = true ∧ (asked (up .standby) 15 2).admTakes 15 hdr (resetArgs 2) = true ∧
    (asked (up .standby) 15 0x33).admTakes 15 hdr (blockArgs 3) = true ∧ (asked (up .standby) 15 0x43).admTakes 15 hdr (blockArgs 4) = true ∧
    (asked (up .standby) 15 0x53).admTakes 15 hdr (blockArgs 5) = true ∧ ((up .standby).wr HOST_CTL.EVQ_EN 1).rb HOST_CTL.EVQ_EN = true ∧
    (let g : CGroup := ⟨.shared, [adminRec hdr.idx.toNat 0 15 hdr.tag.toNat 0], 1⟩
     let s := (hosted 0 { HostS.reset with cbuf := [g], resetAt := [(true, hdr)] }).wr HOST_CTL.CPQ_EN 1
     s.idle = false ∧ s.isHead = true ∧ s.host.cbuf = g :: [] ∧ s.host.resetAt = [(true, hdr)] ∧ s.host.events = [] ∧
       s.host.evqNote = false ∧ s.rb HOST_CTL.CPQ_EN = true ∧ s.rb HOST_ERR.CPQ_ERR = false ∧ s.host.flight = none ∧
       s.canWrite .completion = true ∧ sub16 s.host.cpqW s.host.cpqC + 1 ≤ s.cpqDepth ∧ s.flt.copying = false ∧
       s.flt.chipDue = none) ∧
    (let s := { up .standby with mot := { MotS.reset with resetting := true }, host := { HostS.reset with adm := some ⟨15, hdr, 4⟩ } }
     s.blkResetting .mot = true ∧ s.host.heldAcc = [] ∧ s.sharedRoom = true ∧ s.host.adm = some ⟨15, hdr, blkSel .mot⟩) := by decide +kernel

theorem witness_AttestationReport :
    ((asked (up .run) 16 0 [64, 0, 16872]).admTakes 16 hdr (attestArgs 64 16872 0) = true ∧
      (asked (up .run) 16 0 [64, 0, 16871]).admTakes 16 hdr (attestArgs 64 16871 0) = true ∧ (16871 : Word).toNat < 16872 ∧ 16872 ≤ (16872 : Word).toNat) ∧
    (let s := { up .run with sec := { SecS.reset with attest := some (hdr, 64, []) } }
     s.sec.attest = some (hdr, 64, []) ∧ s.sharedRoom = true ∧ s.canWrite .other = false ∧
       ({ s with host := { s.host with link := true, bme := true } }).canWrite .other = true ∧ s.isHead = true ∧
       (s.wr SYS_STRAP.ROLE 0).isHead = false ∧ (s.wr SYS_STRAP.ROLE 0).ring.failed = [] ∧
       (s.wr SYS_STRAP.ROLE 0).canWrite .other = true) := by decide +kernel

theorem witness_ParkEntryTickAndWake :
    (let s := { up .standby with sys := { SysS.reset with mode := .standby, held := none, parkDone := true } }
     s.sys.parkDone = true ∧ s.sys.mode ≠ .park ∧ s.host.cbuf.any holdsPark = false ∧ s.sys.wake = none) ∧
    (let s := (((up .park).wr SYS_PARK.WAKE_TRAY 1).wr SYS_PARK.WAKE_VB 1).wr SYS_PARK.WAKE_RING 1
     s.parked = true ∧ s.rb SYS_PARK.WAKE_TRAY = true ∧ s.rb SYS_PARK.WAKE_VB = true ∧ s.rb SYS_PARK.WAKE_RING = true) ∧
    (let s := { up .park with sys := { SysS.reset with mode := .park, held := none, parkHist := List.replicate 34 (List.replicate 4 .beyond) } }
     s.parked = true ∧ 4 ≤ ((s.sys.parkHist.getD 32 []).take 6).count .beyond) := by decide +kernel

end Sys2Proof.Tests
namespace Sys2Proof.Tests
open Sys2Proof Sys2Proof.Machine

/-! ### The same: channels, loop engines and steps -/

/-- A device in RUN with the gates of a channel on. -/
def gatesOn (c : Ch) : State := (up .run).updStage c (fun x => { x with gates := true, iso := .closed })

theorem witness_PwmPeriodStartAndDriveAdaptation :
    let s := (up .run).wr (CH_GD.ADAPT_EN 15) 1
    s.rb (CH_GD.ADAPT_EN 15) = true ∧ ((up .run).wr (CH_GD.ADAPT_EN 0) 0).rb (CH_GD.ADAPT_EN 0) = false ∧
      s.rd (CH_GD.GD_MIN 15) ≤ s.rd (CH_GD.GD_MAX 15) ∧ s.rd (CH_GD.GD_MAX 15) < 16 ∧
      2 * (s.rd (CH_GD.TSW_TARGET 15) + 2) < (255 : Byte).toNat ∧
      (let u := s.wr (CH_GDST.CODE_H 15) (s.rd (CH_GD.GD_MIN 15))
       u.rd (CH_GD.GD_MIN 15) ≤ u.rd (CH_GDST.CODE_H 15) ∧ u.rd (CH_GDST.CODE_H 15) < u.rd (CH_GD.GD_MAX 15)) ∧
      (let u := { s with written := [(CH_SC.SC_LIMIT 0, 3), (CH_SC.SC_LIMIT 15, 9)] }
       u.written.filter (fun e => latePwm 15 e.1) = [(CH_SC.SC_LIMIT 15, 9)]) := by
  decide +kernel

theorem witness_ChamoisTripCutsThePeriod :
    let s := (gatesOn 15).wr (CH_SC.SC_LIMIT 15) 2
    (s.chan 15).stage.gates = true ∧ (s.chan 15).stage.trip = false ∧ s.busSc 15 (s.cycleAt 1999) = false ∧
      (s.chan 15).stage.tripRun + 1 < s.rd (CH_SC.SC_LIMIT 15) ∧ (s.chan 0).stage.gates = false := by decide +kernel

/-- Channel 15 tripped in cycle 500 of tick 9; it is now tick 10. -/
def tripped15 : State :=
  { (gatesOn 0).updStage 15 (fun x => { x with trip := true, tripAt := some (9 * 2000 + 500) }) with
    sys := { SysS.reset with mode := .run, held := none, tick := 10, clk := 10, cyc := 20000 } }

theorem witness_ChannelFaultsStopTheGang_bus :
    tripped15.gangsOk ∧ tripped15.busSc 0 (tripped15.cycleAt 499) = true ∧ tripped15.busSc 0 (tripped15.cycleAt 500) = false ∧
      (tripped15.chan 0).stage.gates = true ∧ (tripped15.chan 0).stage.trip = false := by
  unfold State.gangsOk; decide +kernel

theorem witness_ChannelFaultsStopTheGang :
    (gatesOn 15).gangsOk ∧
    (let s := (gatesOn 15).wr (CH_SC.SC_LIMIT 15) 1
     (s.chan 15).stage.gates = true ∧ (s.chan 15).stage.trip = false ∧
       s.rd (CH_SC.SC_LIMIT 15) ≤ (s.chan 15).stage.tripRun + 1) ∧
    ([1, 2, 3, 4, 5, 9, 13] : List Src).all (fun n => decide ((gatesOn 15).quiet n)) = true ∧
    (let s := (gatesOn 15).updStage 15 (fun x => { x with bothOn := [0, 0] })
     (s.chan 15).stage.bothOn.filter (fun u => s.clk < u + 16) = [0, 0]) ∧
    (let s := ((gatesOn 15).wr (CH_OL.OL_MODE 15) 0).updCmp (chCmp 15 1) (fun x => { x with lat := true, filt := false })
     s.rd (CH_OL.OL_MODE 15) = 0 ∧ (s.cmpAt (chCmp 15 1)).lat = true ∧ (s.cmpAt (chCmp 15 1)).filt = false) ∧
    (let s := ((gatesOn 15).wr (CH_OL.OL_MODE 15) 1).wr (CH_PCNT.OL_ACC 15) ((gatesOn 15).rd (CH_OL.OL_TIME 15))
     s.rd (CH_OL.OL_MODE 15) ≠ 0 ∧ s.rd (CH_OL.OL_TIME 15) ≤ s.rd (CH_PCNT.OL_ACC 15)) ∧
    (let s := ((gatesOn 15).updCmp (chCmp 15 3) (fun x => { x with filt := false })).updLoop 15 (fun l => { l with iEff := -1 })
     (s.cmpAt (chCmp 15 3)).filt = false ∧ (s.seq 15).lead = none ∧ (s.chan 15).loop.iEff < 0) := by
  unfold State.gangsOk; decide +kernel

theorem witness_IsolationClosesAndOpens :
    (let s := ({ up .run with saf := { SafS.reset with ien := true }, cmp := free }).updStage 0
        (fun x => { x with pulse := some .close })
     (s.chan 0).stage.pulse = some .close ∧ kelInside (-200000) = true ∧ s.mayClose 0 (-200000) = true ∧
       kelInside 5200001 = false ∧ s.gangsOk) ∧
    (let s := (up .standby).updStage 0 (fun x => { x with pulse := some .test })
     (s.chan 0).stage.pulse = some .test ∧ kelInside 5200000 = true ∧ s.gangsOk ∧ s.rb (CH_ISO.MEAS_CLOSE 0) = false) := by
  unfold State.gangsOk; decide +kernel

theorem witness_IsolationClosesAndOpens_settles :
    (let s := ((up .standby).updStage 0 (fun x => { x with pulse := some .test, iso := .opened })).wr (CH_ISO.MEAS_CLOSE 0) 1
     s.sys.mode = .standby ∧ s.rb (CH_ISO.MEAS_CLOSE 0) = true ∧ (s.chan 0).stage.iso = .opened) ∧
    (let s := (up .run).updStage 0 (fun x => { x with settle := true, iso := .closed })
     (s.chan 0).stage.settle = true ∧ (s.chan 0).stage.iso = .closed ∧ s.gangsOk) := by
  unfold State.gangsOk; decide +kernel

theorem witness_IsolationClosesAndOpens_staged :
    (let s := (up .run).updStage 0 (fun x => { x with iso := .opening })
     (s.chan 0).stage.iso = .opening ∧ s.gangsOk) ∧
    (let s := ((up .standby).updStage 0 (fun x => { x with iso := .opening })).wr (CH_ISO.MEAS_CLOSE 0) 1
     s.sys.mode = .standby ∧ s.rb (CH_ISO.MEAS_CLOSE 0) = true ∧ (s.chan 0).stage.pulse = none) := by
  unfold State.gangsOk; decide +kernel

theorem witness_IsolationClosesAndOpens_again :
    (up .standby).leader 0 = 0 ∧
    (let s := ((up .standby).updStage 0 (fun x => { x with iso := .opening })).wr (CH_ISO.MEAS_CLOSE 0) 1
     (s.gang 0).all (fun d => decide ((s.chan d).stage.iso = .opened ∨ (s.chan d).stage.iso = .opening)) = true) ∧
    (let s := (((gang2 (up .standby)).updStage 0 (fun x => { x with iso := .opening })).updStage 1
       (fun x => { x with iso := .closed })).wr (CH_ISO.MEAS_CLOSE 1) 1
     s.gangsOk ∧ (s.chan 0).stage.iso = .opening ∧ (s.gang 0).contains 1 = true ∧ s.rb (CH_ISO.MEAS_CLOSE 1) = true ∧
       (s.chan 1).stage.iso = .closed) := by
  unfold State.gangsOk; decide +kernel

theorem witness_KelvinOpenEndsTheStep :
    let s := (running (runOf (stepOf 1 1000 0 0))).wr (CH_SENSE.KEL_EN 0) 1
    s.gangsOk ∧ s.rb (CH_SENSE.KEL_EN 0) = true ∧ (s.seq 0).run.any (fun r => !r.failed) = true ∧ (s.seq 0).lead = none ∧
      s.quiet 6 ∧ (s.seq 0).run.any (fun r => r.ending.any (fun e => e.at_ = .due)) = false := by
  unfold State.gangsOk; decide +kernel

theorem witness_ComparatorTripsAndReleases :
    ((up .run).cmpAt 71).filt = true ∧ ((up .run).updSrc 24 (fun x => { x with act := 1 })).active 24 = true ∧
    ((up .run).updSrc 36 (fun x => { x with act := 1 })).active 36 = true ∧
    (let s := { up .run with cmp := free }
     (s.cmpAt (chCmp 15 0)).filt = false ∧ (s.cmpAt (chCmp 15 2)).filt = false ∧ (s.seq 15).lead = none ∧ s.gangsOk ∧
       (s.cmpAt 67).filt = false ∧ (s.cmpAt 68).filt = false ∧ (s.cmpAt 69).filt = false ∧ (s.cmpAt 70).filt = false ∧
       (s.cmpAt 71).filt = false ∧ s.quiet 68 ∧ s.quiet 37 ∧ s.quiet 38 ∧
       (let u := s.wr (CH_OL.OL_MODE 15) 1
        (u.cmpAt (chCmp 15 1)).filt = false ∧ u.rd (CH_OL.OL_MODE 15) ≠ 0)) := by
  unfold State.gangsOk; decide +kernel

/-- A device in RUN whose channel 0 has a profile, gates on and a fresh sample. -/
def looping : State :=
  ((gatesOn 0).updQd 0 (fun x => { x with slots := Vector.replicate 8 (some (profOf1 0 0)) })).updLoop 0
    (fun l => { l with fresh := true })

theorem witness_CommitEqualsFullComputation :
    let p := profOf1 0 0
    (lawAcc p p.tmpl 0 Law.zero 1000000 (-8000000)).natAbs < 2 ^ 47 ∧ (lawXi p p.tmpl 0 Law.zero (-8000000)).natAbs < 2 ^ 47 := by
  decide +kernel

theorem witness_ControlSlotComputes :
    ((looping.chan 0).loop.fresh = true ∧ (looping.chan 0).loop.done = false ∧ looping.leStepped (quadOf 0) = false ∧
      looping.profAt 0 (looping.chan 0).loop.act.slot = some (profOf1 0 0) ∧ (looping.chan 0).stage.gates = true) ∧
    looping.mismatch2 0 (profOf1 0 0) (looping.formed 0 (profOf1 0 0)) none = false ∧
    looping.mismatch2 0 (profOf1 0 0) (looping.formed 0 (profOf1 0 0)) (some ⟨8, 55⟩) = true ∧
    (looping.updLoop 0 (fun l => { l with done := true })).chan 0 = { looping.chan 0 with loop := { (looping.chan 0).loop with done := true } } ∧
    ((up .run).chan 0).loop.fresh = false ∧
    (let s := (up .run).updLoop 0 (fun l => { l with fresh := true })
     (s.chan 0).loop.fresh = true ∧ (s.chan 0).stage.gates = false) ∧ looping.gangsOk := by
  unfold State.gangsOk; decide +kernel

theorem witness_OverrunsAndLoadInstants :
    ((looping.chan 0).loop.done = false ∧ (looping.chan 0).stage.gates = true ∧ (looping.chan 0).loop.overran = false ∧
      looping.leStepped (quadOf 0) = false ∧ looping.quiet 11 ∧ bitN (looping.src 11).react 5 = false) ∧
    (let s := looping.updLoop 0 (fun l => { l with done := true, slot := true, value := some 7 })
     (s.chan 0).loop.slot = true ∧ (s.chan 0).loop.overran = false) ∧
    (let s := looping.updLoop 0 (fun l => { l with held := true })
     (s.chan 0).loop.held = true ∧ s.gangsOk) ∧
    (let s := looping.updLoop 0 (fun l => { l with value := some 7 })
     (s.chan 0).loop.held = false ∧ (s.chan 0).loop.value = some 7 ∧ s.leStepped (quadOf 0) = false) := by
  unfold State.gangsOk; decide +kernel

theorem witness_ProfileLoadsAreDecided :
    ((asked (up .run) 5 0x73).admTakes 5 hdr (loadArgs 3 7) = true ∧ (bget (up .run).qd 3).pcmd = none) ∧
    (let s := (up .run).updQd 3 (fun x => { x with pcmd := some (.load 7 (profOf1 0 0) false (some hdr)) })
     (bget s.qd 3).pcmd = some (.load 7 (profOf1 0 0) false (some hdr)) ∧ s.slotBusy 3 7 = false) ∧
    (let s := (up .run).updQd 3 (fun x => { x with pcmd := some (.invalidate 7) })
     (bget s.qd 3).pcmd = some (.invalidate 7) ∧ s.slotBusy 3 7 = false) ∧
    (let s := ((up .run).updLoop 0 (fun l => { l with closed := true })).updQd 0 (fun x => { x with pcmd := some (.invalidate 0) })
     s.slotBusy 0 0 = true) ∧ (up .run).sharedRoom = true := by decide +kernel

theorem witness_SarSamplesAndFollowingError_samples :
    (looping.chan 0).loop.fresh = true ∧ ((up .run).chan 0).loop.fresh = false ∧ ((up .run).seq 0).lead = none ∧
    ((gang2 (up .run)).seq 1).lead = some 0 ∧ ((up .run).chan 0).stage.pulse = none ∧
    ((up .run).chan 0).met.exclTick = false := by
  decide +kernel

/-- Channel 0 under its loop in a step, one tick beyond the time of its following error. -/
def following (r : Run) : State :=
  (looping.updLoop 0 (fun l => { l with closed := true, feCnt := 11 })).updSeq 0
    (fun x => { x with st := .active, run := some r })

theorem witness_SarSamplesAndFollowingError_follow :
    (let s := following (runOf (stepOf 1 1000 0 0))
     (s.chan 0).loop.closed = true ∧ s.profAt 0 (s.chan 0).loop.act.slot = some (profOf1 0 0) ∧
       (profOf1 0 0).feTime < (s.chan 0).loop.feCnt ∧ (s.seq (s.leader 0)).run = some (runOf (stepOf 1 1000 0 0)) ∧
       (runOf (stepOf 1 1000 0 0)).failed = false ∧ s.gangsOk) ∧
    (let r := { runOf (stepOf 1 1000 0 0) with ending := some ⟨0, 0, .due⟩ }
     ((following r).seq ((following r).leader 0)).run = some r ∧ r.failed = false ∧
       r.ending.any (fun e => e.at_ = .due) = true) := by
  unfold State.gangsOk; decide +kernel

theorem witness_TraceStopsAndReadsOut :
    let s := (({ up .run with sys := { SysS.reset with mode := .run, held := none, tick := 9 } }).wr (QD_TRSTAT.STATE 3) 2).wr
      (QD_TRCTL.EN 3) 1
    s.rd (QD_TRSTAT.STATE 3) = 2 ∧ (bget s.qd 3).post = 0 ∧ s.trTick 3 < s.now ∧ s.rb (QD_TRCTL.EN 3) = true := by decide +kernel

/-- A device in RUN whose channels are idle and whose quads hold a current, an outer, a power and a resistance
profile in the slots 0 to 3. -/
def idleDev : State :=
  let s := { up .run with qd := Vector.replicate 4 { QuadS.reset with
    slots := #v[some (profOf1 0 0), some (profOf1 1 0), some (profOf1 0 1), some (profOf1 0 2), none, none, none, none] } }
  s.updSeq 0 (fun x => { x with st := .idle, why := 0 })

/-- A valid descriptor of each step of R436. -/
def goodSteps : List StepDesc :=
  [stepOf 1 1000 0 0, { stepOf 2 4000000 1000 0 with prof := 1 }, { stepOf 3 1000 4000000 0 with prof := 1 },
    { stepOf 4 1000 1000 0 with prof := 2 }, { stepOf 5 1000 1000 0 with prof := 3 }, stepOf 6 1000 100 100,
    stepOf 7 0 0 0, stepOf 8 100 10 100 1, stepOf 9 1000 0x00640064 0x00320032, stepOf 10 1000 100 1000000 0x0101,
    { stepOf 11 1000 0 0 with ec0 := ⟨8, 0, 1, 1⟩ }, { stepOf 12 1000 0 0 with slew := 5 }, stepOf 16 63 0 0, stepOf 17 0 0 0,
    stepOf 18 1 0 0, stepOf 31 0 0 0]

theorem witness_StepCommandsBegin_ready :
    idleDev.ready 0 = true ∧ goodSteps.map (fun d => d.op.toNat) = stepCmds.map (·.1) ∧
    goodSteps.all (fun d => idleDev.startOk 0 d (idleDev.stepOk 0 (idleDev.countAt 0 7) d) && (d.op ≠ 18 || d.x0 = 1)) = true ∧
    goodSteps.all (fun d => !idleDev.startOk 0 d (idleDev.stepOk 0 (idleDev.countAt 0 7) { d with rsv := 1 })) = true ∧
    idleDev.eisFits 0 (stepOf 10 1000 4294967295 1000000 0x0101) = false ∧
    (let s := idleDev.updLoop 0 (fun l => { l with closed := true })
     s.ready 0 = true ∧ (s.chan 0).loop.closed = true) := by decide +kernel

theorem witness_StepCommandsBegin_gap :
    let s := idleDev.updSeq 0 (fun x => { x with st := .gap, gapT := 3 })
    (s.seq 0).st = .gap ∧ goodSteps.all (fun d => s.startOk 0 d (s.stepOk 0 (s.countAt 0 7) d)) = true := by
  decide +kernel

theorem witness_GangStepFormsItsGang :
    (idleDev.ready 0 = true ∧ idleDev.stepOk 0 (idleDev.countAt 0 7) (stepOf 18 4 0 0) = true ∧
      (idleDev.chan 0).loop.closed = false ∧ (idleDev.seq 0).run = none ∧
      idleDev.gangMay 0 (stepOf 18 4 0 0) 4 = true ∧ idleDev.gangMay 0 (stepOf 18 2 0 0) 2 = true ∧
      idleDev.gangMay 0 { stepOf 18 4 0 0 with prof := 7 } 4 = false) ∧
    idleDev.gangsOk := by
  unfold State.gangsOk; decide +kernel

/-- The words of a REST. -/
def restPre : PreDesc := ⟨[0x00004007, 0, 0, 0, 0, 0, 0, 0, 0, 0, 0, 0, 0, 0, 0, 0], true⟩

/-- The words of an UPDATE of the step at index 5. -/
def updPre : PreDesc := ⟨[0x00004013, 0x00050000, 1, 0, 0, 0, 0, 0, 0, 0, 0, 0, 0, 0, 0, 0], true⟩

theorem witness_StepBeginTakesTheQueueHead :
    (let s := idleDev.updQ (cq 0) (fun x => { x with pre := [restPre] })
     s.ready 0 = true ∧ (s.subq (cq 0)).pre = restPre :: [] ∧ restPre.isUpdate = false ∧ restPre.ok = true ∧
       (parseStep restPre.words).op = 7) ∧
    (idleDev.ready 0 = true ∧ stepTarget (idleDev.subq (cq 0)).pre (idleDev.preBase 0) 0 = (idleDev.preBase 0, none)) ∧
    (let s := idleDev.updQ (cq 0) (fun x => { x with pre := [updPre, restPre] })
     s.ready 0 = true ∧ stepTarget (s.subq (cq 0)).pre (s.preBase 0) 0 = (s.preBase 0 + 1, some restPre) ∧
       0 < s.preBase 0 + 1 - s.preBase 0 ∧ s.startOk 0 (parseStep restPre.words) restPre.ok = true ∧
       s.startOk 0 (parseStep restPre.words) false = false) ∧ (up .run).ready 0 = false := by decide +kernel

/-- A step whose end by end condition 0 is due. -/
def dueRun (act : Byte) : Run :=
  { runOf { stepOf 1 1000 0 0 with ec0 := ⟨1, act, 0, 1⟩ } with ending := some ⟨0, 0, .due⟩ }

theorem witness_TransitionsAtTheirBoundary :
    (let r := { runOf (stepOf 31 0 0 0) with ending := some ⟨0, 0, .due⟩ }
     let s := ((running r).wr HOST_CTL.CPQ_EN 1).wr HOST_CPQCFG.LOG2 8
     (s.seq 0).run = some r ∧ r.desc.op = 31 ∧ r.upd = none ∧ s.stepRoom r = true ∧ s.slotsHeld 0 = false) ∧
    (let r := { runOf (stepOf 31 0 0 0) with ending := some ⟨rTIMEOUT, 0, .due⟩ }
     ((running r).seq 0).run = some r ∧ rTIMEOUT ≠ 0 ∧ rTIMEOUT ≠ rREVOKED ∧ actStop (r.action rTIMEOUT) = false) ∧
    ((running (dueRun 0x20)).seq 0).run = some (dueRun 0x20) ∧ (dueRun 0x20).ending = some ⟨0, 0, .due⟩ ∧
      (dueRun 0x20).upd = none ∧ actStop ((dueRun 0x20).action 0) = true ∧
    (let s := ((running (dueRun 0)).wr HOST_CTL.CPQ_EN 1).wr HOST_CPQCFG.LOG2 8
     actStop ((dueRun 0).action 0) = false ∧ actSkip ((dueRun 0).action 0) = 0 ∧ s.stepRoom (dueRun 0) = true ∧ s.slotsHeld 0 = false ∧
       (s.subq (cq 0)).pre = [] ∧ stepTarget ((s.dropUpd 0 (dueRun 0)).subq (cq 0)).pre ((s.dropUpd 0 (dueRun 0)).preBase 0)
         (actSkip ((dueRun 0).action 0)) = (s.preBase 0, none) ∧
       (let u := (s.updQ (cq 0) (fun x => { x with pre := [restPre] })).updSeq 0 (fun x => { x with armed := some (s.preBase 0) })
        (u.subq (cq 0)).pre = restPre :: [] ∧ restPre.isUpdate = false ∧ u.startOk 0 (parseStep restPre.words) restPre.ok = true ∧
          (u.seq 0).armed = some (u.preBase 0) ∧ (u.seq 0).late = none ∧ u.quiet 12 ∧ bitN (u.src 12).react 5 = false ∧
          ((u.updSeq 0 (fun x => { x with late := some (rFOLLOW, 0) })).seq 0).late = some (rFOLLOW, 0) ∧
          rFOLLOW ≠ rCONTACT)) ∧
    (running (dueRun 0)).stepRoom (dueRun 0) = false := by decide +kernel

theorem witness_ArmingAndUpdates_arm :
    (let r := runOf (stepOf 1 1000 0 0)
     let s := (running r).updQ (cq 0) (fun x => { x with pre := [restPre] })
     (s.seq 0).run = some r ∧ r.failed = false ∧ actStop r.desc.ec0.action = false ∧ r.desc.op ≠ 31 ∧
       stepTarget (s.subq (cq 0)).pre (s.preBase 0) (actSkip r.desc.ec0.action) = (s.preBase 0, some restPre) ∧
       restPre.ok = true) ∧
    (let s := (up .run).updSeq 0 (fun x => { x with st := .gap })
     (s.seq 0).st = .gap ∧ (s.subq (cq 0)).pre = [] ∧
       ((s.updQ (cq 0) (fun x => { x with pre := [restPre] })).subq (cq 0)).pre = restPre :: []) ∧
    restPre.isUpdate = false ∧ (parseStep restPre.words).op = 7 ∧ (up .run).startOk 0 (parseStep restPre.words) restPre.ok = true := by
  decide +kernel

theorem witness_ArmingAndUpdates_update :
    let r := runOf (stepOf 1 1000 0 0)
    let d := stepOf 19 2000 0 1 5
    let s := running r
    (s.posOf (cq 0) (s.preBase 0) = (BitVec.ofNat 16 (s.preBase 0)).toNat % s.qDepth (cq 0) ∧
      s.posOf (cq 0) (s.preBase 0) ≠ (BitVec.ofNat 16 (s.preBase 0 + 1)).toNat % s.qDepth (cq 0)) ∧
    ((s.seq 0).run = some r ∧ r.upd = none ∧ r.failed = false ∧ d.p16.toNat = r.idx ∧
      s.stepOk 0 (s.preBase 0) d = true ∧ updOk r.desc d = true ∧ s.stepOk 0 (s.preBase 0) { d with x2 := 8 } = false) ∧
    ((up .run).seq 0).run = none ∧ (up .run).sharedRoom = true ∧
    (let q := { r with upd := some ⟨d, 6, true⟩ }
     ((running q).seq 0).run = some q ∧ q.upd = some ⟨d, 6, true⟩ ∧ q.failed = false ∧
       q.ending.any (fun e => e.at_ = .due) = false) := by decide +kernel

theorem witness_PhasesOfARunningStepEnd :
    (let r := { runOf (stepOf 1 1000 0 0) with ss := true, ssLen := 10, ssT := 10 }
     ((running r).seq 0).run = some r ∧ r.failed = false ∧ r.ss = true ∧ r.ssLen ≤ r.ssT) ∧
    (let s := (running (runOf (stepOf 1 1000 0 0))).updSeq 0 (fun x => { x with short := some (5, 5) })
     (s.seq 0).short = some (5, 5) ∧ ((5 : Nat) : Int) ≤ 5 ∧
       ((s.updLoop 0 (fun l => { l with vA := -1 })).chan 0).loop.vA < (s.rd (CH_SSHORT.V_SHORT 0) : Int) * 1000 ∧
       (s.rd (CH_SSHORT.V_SHORT 0) : Int) * 1000 ≤
         ((s.updLoop 0 (fun l => { l with vA := (s.rd (CH_SSHORT.V_SHORT 0) : Int) * 1000 })).chan 0).loop.vA) ∧
    (let r := { runOf (stepOf 6 1000 1 1) with phase := 5, pt := 250 }
     r.desc.op = 6 ∧ r.phase = 5 ∧ r.ms r.desc.x1.toNat ≤ r.pt ∧ { r with phase := 2 }.phase = 2) ∧
    (let r := { runOf (stepOf 6 1000 1 1) with phase := 6, pt := 250, n := 1 }
     r.phase = 6 ∧ r.ms r.desc.x2.toNat ≤ r.pt ∧ r.n ≠ 0) ∧
    (let r := { runOf (stepOf 8 1 10 1 1) with off := true, phase := 0, pt := 250 }
     r.desc.op = 8 ∧ r.off = true ∧ r.undue = true ∧ r.phase = 0 ∧ r.ms r.desc.x0.toNat ≤ r.pt ∧
       (let q := { r with phase := 8 }
        q.phase = 8 ∧ q.undue = true ∧ q.ms q.desc.x2.toNat ≤ q.pt)) ∧
    (let r := { runOf (stepOf 9 1000 0x00010001 0x00010001) with phase := 3, pt := 250 }
     r.desc.op = 9 ∧ r.phase ≠ 9 ∧ r.tPre ≤ r.pt ∧ r.tPulse ≤ { r with phase := 9 }.pt) ∧
    (let r := { runOf (stepOf 10 1000 100 1000000 0x0101) with phase := 10 }
     r.desc.op = 10 ∧ r.phase = 10 ∧ r.eis.on = false ∧ (running r).toneFree 0 r = true ∧ r.desc.p16.toNat % 256 ≠ 0 ∧
       ∀ d : Ch, ¬ d < 0) ∧
    (let r0 := runOf (stepOf 10 1000 100 1000000 0x0101)
     let r := { r0 with eis := { r0.eis with on := true, pt := 8, k := 16 } }
     r.eis.on = true ∧ (r.desc.p16.toNat % 256 + r.desc.p16.toNat / 256) * r.eis.pt ≤ r.eis.k) ∧
    (let r := { runOf (stepOf 11 1000 1 0) with ticks := 250 }
     r.desc.op = 11 ∧ r.armed = false ∧ r.ms r.desc.x1.toNat ≤ r.ticks) := by decide +kernel

theorem witness_EndOfStepIsDecidedInOrder :
    (let r0 := runOf (stepOf 1 1000 0 0)
     let r := { r0 with ecs := bupd r0.ecs 3 (fun x => { x with fired := true }) }
     ((running r).seq 0).run = some r ∧ r.failed = false ∧ r.ending = none ∧ r.revoked = false ∧
       (bget r.ecs 3).fired = true ∧ ∀ j : Fin 4, j < 3 → (bget r.ecs j).fired = false) ∧
    (let r := { runOf { stepOf 1 1000 0 0 with timeout := 1 } with ticks := 250 }
     (∀ j : Fin 4, (bget r.ecs j).fired = false) ∧ r.impl = false ∧ r.toFired = none ∧ r.desc.timeout ≠ 0 ∧
       r.ms r.desc.timeout.toNat ≤ r.ticks ∧ { r with ticks := 249 }.ticks < r.ms r.desc.timeout.toNat) ∧
    (let r := dueRun 0
     ((running r).seq 0).run = some r ∧ r.failed = false ∧ r.ending = some ⟨0, 0, .due⟩ ∧ 0 ≠ rREVOKED) ∧
    (let r0 := runOf { stepOf 1 1000 0 0 with ec3 := ⟨7, 0, 1, 1⟩ }
     let r := { r0 with ecs := bupd r0.ecs 3 (fun x => { x with n := 2500, samples := 1, sum := 5, prev := some 5, hits := 1 }) }
     (bget r.ecs 3).prev = some 5 ∧ 1 ≤ (bget r.ecs 3).hits ∧ tdiv (bget r.ecs 3).sum (bget r.ecs 3).samples = 5 ∧
       ∀ j : Fin 4, j < 3 → (bget r.ecs j).fired = false) ∧
    (let r := { runOf (stepOf 8 1 10 1 1) with impl := true }
     (∀ j : Fin 4, (bget r.ecs j).fired = false) ∧ r.impl = true) ∧
    (let r0 := runOf { stepOf 1 1000 0 0 with ec3 := ⟨7, 0, 1, 1⟩ }
     let r := { r0 with ecs := bupd r0.ecs 3 (fun x => { x with n := 2500, samples := 1 }) }
     (r.desc.ec 3).code = 7 ∧ r.ecLen 3 ≤ (bget r.ecs 3).n ∧ (bget r.ecs 3).samples ≠ 0) := by decide +kernel

end Sys2Proof.Tests
namespace Sys2Proof.Tests
open Sys2Proof Sys2Proof.Machine

/-! ### The same: BOOT, the tick, the ring -/

/-- A device in BOOT after the release of its reset, with these straps and the injection test passed. -/
def booting (role bootsel : Nat) : State := ((up .boot role).wr SYS_STRAP.BOOTSEL bootsel).wr SAF_STAT.INJ_OK 1

theorem witness_BootRunsToItsEnd :
    (let s := State.reset
     s.sys.held = some .por ∧ s.pins.vin = true ∧ s.pins.rails = [] ∧ s.pins.rstN = true ∧ s.pins.perstN = true ∧
       s.quiet 43) ∧
    (let s := ((up .boot 1).wr RING_STAT.BYPA 1)
     s.idle = false ∧ s.sys.mode = .boot ∧ s.bypass .a = true ∧ s.role = 1 ∧ s.quiet 78) ∧
    (let s := (booting 3 0).wr SEC_BOOTSTAT.STATE 5
     s.sys.mode = .boot ∧ s.sys.held = none ∧ s.rd SEC_BOOTSTAT.STATE = 5 ∧
       ((s.wr SEC_BOOTLEN.LEN 20000).checkMan codeSet .boot 20000 = 0) ∧ (s.wr SEC_BOOTLEN.LEN 20000).rd SEC_BOOTLEN.LEN = 20000 ∧
       s.checkMan codeSet .boot (s.rd SEC_BOOTLEN.LEN) ≠ 0) ∧
    (booting 3 0).sys.bootFail = false ∧ ((booting 3 0).wr SEC_BOOTSTAT.STATE 7).rd SEC_BOOTSTAT.STATE = 7 := by
  decide +kernel

theorem witness_BootRunsToItsEnd_images :
    (let s := booting 3 3
     s.sys.bootFail = false ∧ s.rd SEC_BOOTSTAT.STATE ≠ 7 ∧ s.sec.life ≠ 3 ∧ s.rb SAF_STAT.INJ_OK = true ∧
       s.rb SEC_BOOTSTAT.WARMBOOT = false ∧ s.rd SYS_STRAP.BOOTSEL = 3) ∧
    ({ booting 3 1 with sec := { SecS.reset with life := 3 } }).sec.life = 3 ∧
    (up .boot).rb SAF_STAT.INJ_OK = false ∧
    (let s := { (booting 3 0).wr SEC_BOOTSTAT.WARMBOOT 1 with sec := { SecS.reset with img := some (imgSetOf codeSet 1) } }
     s.rb SEC_BOOTSTAT.WARMBOOT = true ∧ s.sec.img.isSome = true ∧ s.rd SYS_STRAP.BOOTSEL = 0 ∧ s.linkTrained = true) ∧
    (let s := { booting 3 0 with sec := { SecS.reset with img := some (imgSetOf codeSet 0) } }
     s.rb SEC_BOOTSTAT.WARMBOOT = false ∧ s.rd SYS_STRAP.BOOTSEL = 0 ∧ s.sec.img.isSome = true) ∧
    (let s := booting 3 2
     s.rd SYS_STRAP.BOOTSEL = 2 ∧ s.sec.img = none ∧ s.checkMan codeSet .boot codeSet.total.toNat = 0 ∧ s.linkTrained = true) := by
  decide +kernel

/-- A running device that holds a position, 0. -/
def placed (m : Mode) (role : Nat) : State := (up m role).wr RING_STAT.POS_VALID 1

/-- A device at a tick. -/
def atTick (m : Mode) (t : Nat) (role : Nat := 3) : State :=
  { up m role with sys := { SysS.reset with mode := m, held := none, tick := t, clk := t } }

theorem witness_TickKeeping_boundary :
    State.reset.idle = true ∧ (up .run).idle = false ∧ (up .run).sys.trans = none ∧ (up .run).sys.held = none := by
  decide +kernel

theorem witness_TickKeeping_ring :
    (let s := { up .standby with sys := { SysS.reset with mode := .standby, held := none, perNew := some (2400, 0) } }
     s.sys.perNew = some (2400, 0) ∧ s.sys.mode = .standby ∧ s.isHead = true ∧ s.sys.perNew.isSome = true ∧
       s.ringStandby = true ∧ s.admits 2400 = true ∧ (s.wr RING_PRESENT.PRES 2).ringStandby = false) ∧
    (let s := { up .run with sys := { SysS.reset with mode := .run, held := none, perNew := some (2400, 0) } }
     s.sys.perNew = some (2400, 0) ∧ s.sys.mode ≠ .standby ∧ s.isHead = true) ∧
    ((up .run 0).role = 0 ∧ (up .run 0).idle = false ∧ (up .run 0).rb SYS_CLK.XTAL = false) ∧
    (let s := { atTick .run 8 0 with sys := { SysS.reset with mode := .run, held := none, tick := 8, clk := 8, holdover := some 0, alignBad := 4 } }
     s.sys.holdover = some 0 ∧ 0 + 8 ≤ s.clk ∧ s.quiet 41 ∧ s.sys.mode = .run ∧ 4 ≤ s.sys.alignBad ∧ s.quiet 42) := by
  decide +kernel

theorem witness_PennantsAndSafetyPdus :
    ((up .run 0).idle = false ∧ (up .run 0).ring.resetting = false ∧ (up .run 0).role = 0 ∧ (pennOf true).crcOk = true ∧
      (pennOf false).crcOk = false ∧ ((up .run 0).wr RING_STAT.BYPA 1).bypass .a = true ∧
      ((up .run 0).wr RING_STAT.BYPA 0).bypass .a = false) ∧
    ((up .run 1).headsRing ∧ (up .run 2).headsRing) ∧
    (let s := { (up .run 0).wr RING_STAT.STATE 3 with ring := { RingS.reset with dly := Vector.replicate 2 (some 100) } }
     decide (s.rd RING_STAT.STATE = 3) = decide (({ pennOf true with rstate := 3 }).rstate.toNat = 3) ∧ bget s.ring.dly (ringIx .b) = some 100) ∧
    ((atTick .run 40 1).now = (pennOf true).tick.toNat ∧ (up .run 1).relays .b = false ∧
      (((up .run 1).wr RING_STAT.STATE 3).wr RING_STAT.BYPB 0).relays .b = true) ∧
    (let s := ((atTick .run 31 0).wr RING_STAT.BYPB 0).wr RING_STAT.POS_VALID 1
     s.relays .b = true ∧ ¬ (s.rb RING_STAT.POS_VALID = true ∧ s.now % 32 = s.pos) ∧ (((atTick .run 32 0).wr RING_STAT.POS_VALID 1).now % 32 = 0)) ∧
    (let s := (((atTick .run 31 0).wr RING_STAT.BYPB 0))
     s.bypass .b = false ∧ s.onRing = true ∧ (pduOf 31 1 true).src.toNat = s.now % 32 ∧
       ¬ ((bget s.ring.pdus (Fin.ofNat 32 (pduOf 31 1 true).src.toNat)).got = true ∧
          (pduOf 31 1 true).seq = (bget s.ring.pdus (Fin.ofNat 32 (pduOf 31 1 true).src.toNat)).last.seq) ∧
       (pduOf 31 1 false).crcOk = false) ∧
    (let s := { (atTick .run 35 0).wr RING_STAT.BYPB 0 with
        ring := { RingS.reset with pdus := Vector.replicate 32 ⟨true, pduOf 3 1 true, 32⟩ } }
     let x := bget s.ring.pdus (Fin.ofNat 32 (pduOf 3 1 true).src.toNat)
     s.bypass .b = false ∧ s.onRing = true ∧ (pduOf 3 1 true).src.toNat = s.now % 32 ∧
       x.got = true ∧ (pduOf 3 1 true).seq = x.last.seq ∧ x.at_ + 2 < s.clk ∧ s.quiet 59) ∧
    (let s := { (atTick .run 35 0).wr RING_STAT.BYPB 0 with
        ring := { RingS.reset with pdus := Vector.replicate 32 ⟨true, pduOf 3 1 true, 34⟩ } }
     let x := bget s.ring.pdus (Fin.ofNat 32 (pduOf 3 1 true).src.toNat)
     let u : Pdu := { pduOf 3 1 true with scyc := 5 }
     s.clk ≤ x.at_ + 2 ∧ pduOf 3 1 true = { x.last with crcOk := true } ∧ u ≠ { x.last with crcOk := true } ∧
       u.seq = x.last.seq ∧ s.quiet 60) ∧
    (let s := { up .run 0 with ring := { RingS.reset with wd := Vector.replicate 2 (some 8) } }
     s.wdExpired (ringIx .b) = true ∧ s.quiet 58) := by decide +kernel

theorem witness_JoiningAndEnumeration :
    (let s := { ((atTick .run 16 0).wr RING_STAT.BYPA 1).wr RING_STAT.BYPB 1 with
        ring := { RingS.reset with lock := Vector.replicate 2 (16, 16), spliceT := Vector.replicate 2 (some 0) } }
     s.idle = false ∧ s.role = 0 ∧ s.ring.resetting = false ∧ s.bypass .b = true ∧ 16 ≤ (bget s.ring.lock (ringIx .b)).1 ∧
       s.now % 16 = s.sec.uid % 16 ∧ s.sys.perNew.any (fun p => decide (p.2 = 0)) = false ∧
       bget s.ring.spliceT 0 = some 0 ∧ 0 + 16 ≤ s.clk ∧
       s.live = false ∧ 2 ≤ (s.wr RING_STAT.STATE 2).rd RING_STAT.STATE ∧ s.mayClass 0 .mgmt = true) ∧
    (let s := ((up .run 1).wr RING_STAT.STATE 2).wr RING_CTL.LATE_OK 1
     let f := frameOf 7 3 [0, 0, noPos]
     (s.wr RING_STAT.POS_VALID 1).hears f ∧ s.headsRing ∧ 2 ≤ s.rd RING_STAT.STATE ∧ (∀ d : Nat, s.mayClass d .mgmt = true) ∧
       s.rb RING_CTL.LATE_OK = true) ∧
    (let s := up .run 0
     let f := frameOf 7 4 [0, 0, 31]
     s.hears f ∧ s.role = 0 ∧ (wAt f.payload 0).toNat + 2 ^ 32 * (wAt f.payload 1).toNat = s.sec.uid ∧
       wAt f.payload 2 ≠ noPos) := by
  refine ⟨by decide +kernel, ⟨by decide +kernel, by decide +kernel, by decide +kernel, fun d => rfl, by decide +kernel⟩,
    by decide +kernel⟩

theorem witness_JoiningAndEnumeration_again :
    (let s := { ((placed .run 1).wr RING_CTL.LATE_OK 1).wr RING_PRESENT.PRES 0x21 with ring := { RingS.reset with uids := [(5, 77)] } }
     bitN (s.rd RING_PRESENT.PRES) 5 = true ∧ s.vacant 5 77 = true ∧ s.vacant 5 78 = false ∧ s.rb RING_CTL.LATE_OK = true ∧
       (s.wr RING_CTL.LATE_OK 0).rb RING_CTL.LATE_OK = false ∧ s.hears (frameOf 7 3 [77, 0, 5])) ∧
    (let s := { (up .standby 1).wr RING_STAT.BYPA 0 with ring := { RingS.reset with trainT := 50000 } }
     s.live = true ∧ s.rd RING_STAT.STATE = 0 ∧ s.msT 100 ≤ s.ring.trainT) ∧
    (let s := { ((atTick .standby 16 1).wr RING_STAT.BYPA 0).wr RING_STAT.STATE 3 with ring := { RingS.reset with enumT := some 16 } }
     s.live = true ∧ s.rd RING_STAT.STATE = 3 ∧ s.ring.enumT.any (fun u => decide (u ≤ s.clk)) = true) ∧
    (let s := (up .run 0).wr RING_STAT.BYPA 1
     bget s.ring.spliceT 0 = none ∧ ¬ (s.bypass .a = true ∧ 16 ≤ (bget s.ring.lock 0).1)) := by decide +kernel

theorem witness_JoiningAndEnumeration_enum :
    (let s := { (up .standby 1).wr RING_STAT.BYPA 0 with ring := { RingS.reset with hopRun := 64 } }
     s.idle = false ∧ s.headsRing ∧ s.live = true ∧ s.rd RING_STAT.STATE = 0 ∧ 64 ≤ s.ring.hopRun) ∧
    (let s := { (atTick .standby 16 1).wr RING_STAT.STATE 1 with ring := { RingS.reset with enumT := some 16 } }
     s.isHead = true ∧ s.rd RING_STAT.STATE = 1 ∧ s.ring.enumT.any (fun u => decide (u ≤ s.clk)) = true ∧
       (s.wr RING_STAT.STATE 3).rd RING_STAT.STATE = 3) ∧
    (let s := (atTick .run 64 1).wr RING_PRESENT.PRES 0x80000001
     s.headsRing ∧ bitN (s.rd RING_PRESENT.PRES) (31 : Pos).val = true ∧ (31 : Pos) ≠ 0 ∧ (bget s.ring.pdus 31).at_ + 64 ≤ s.clk) ∧
    (let s := { up .safe 1 with ring := { RingS.reset with bursts := 1, burstT := 25000 } }
     0 < s.ring.bursts ∧ s.msT 50 ≤ s.ring.burstT) := by decide +kernel

theorem witness_BreaksRepairsAndMessages :
    (let s := { (up .run 0).wr RING_STAT.BYPB 0 with ring := { RingS.reset with
        lock := Vector.replicate 2 (2, 9), line := Vector.replicate 2 ⟨2, 4095, 250, [(3, 9), (4, 7)]⟩, down := #v[true, false] } }
     s.downHolds .b .lock = true ∧ s.downHolds .b .pennant = true ∧ s.downHolds .b .code = true ∧ s.downHolds .b .span = true ∧
       s.live = true ∧ (up .run 0).downHolds .b .code = false ∧ ((up .run 0).wr RING_STAT.BYPA 1).live = false ∧
       (s.line .a).clean < 4096 ∧ bget s.ring.down (ringIx .a) = true) ∧
    (let s := { up .run 0 with ring := { RingS.reset with line := Vector.replicate 2 ⟨0, 4096, 0, []⟩, down := #v[true, true] } }
     4096 ≤ (s.line .b).clean ∧ bget s.ring.down (ringIx .b) = true ∧ s.onRing = true ∧ s.isHead = false ∧ s.mayClass 0 .mgmt = true) ∧
    (let s := (up .run 0).wr RING_STAT.BYPB 0
     s.idle = false ∧ s.ring.resetting = false ∧ s.bypass .b = false ∧ bget s.ring.down (ringIx .b) = false ∧
       s.onRing = true ∧ s.isHead = false ∧ s.mayClass 0 .mgmt = true) ∧
    (let s := (up .run 1).wr RING_STAT.BYPB 0
     s.bypass .b = false ∧ bget s.ring.down (ringIx .b) = false ∧ s.onRing = true ∧ s.isHead = true ∧ s.quiet 57) ∧
    (let s := { atTick .run 9 0 with ring := { RingS.reset with
        down := Vector.replicate 2 true, wrapDue := Vector.replicate 2 true, unwrapAt := some 9 } }
     bget s.ring.wrapDue (ringIx .b) = true ∧ bget s.ring.down (ringIx .b) = true ∧ s.isHead = false ∧ s.onRing = true ∧
       s.ring.unwrapAt = some 9 ∧ 9 ≤ s.now) ∧
    ((up .run 2).headsRing ∧ (placed .run 2).hears (frameOf 7 5 []) ∧ (up .run 2).isHead = true ∧ (up .run 2).quiet 57) ∧
    (let s := { placed .run 1 with ring := { RingS.reset with tgt := Vector.replicate 64 1 } }
     let w : Word := 63 + 256
     s.hears (frameOf 7 2 [w]) ∧ (frameOf 7 2 [w]).payload = [w] ∧ bget s.ring.tgt (Fin.ofNat 64 (w.toNat % 64)) ≠ 0) ∧
    (let s := { placed .standby 1 with sys := { SysS.reset with mode := .standby, held := none, perNew := some (2400, 1) } }
     s.sys.perNew.any (fun p => decide (0 < p.2)) = true ∧ s.hears (frameOf 7 9 [])) ∧
    ((placed .run 0).hears (frameOf 7 6 []) ∧ (up .run 0).isHead = false) := by decide +kernel

theorem witness_DataFramesAndTheirAnswers_slots :
    (let f := frameOf 5 0 [1]
     let s := { (up .run 0).wr RING_STAT.BYPB 0 with ring := { RingS.reset with outq := [f] } }
     s.idle = false ∧ s.ring.resetting = false ∧ s.bypass .b = false ∧ s.onRing = true ∧ s.isHead = false ∧
       s.pickFrame .b 24 = some f ∧ s.pickFrame .b 23 = none ∧ ∃ p ∈ (some 5 : Option Pos), p.val ≠ s.pos) ∧
    (let f := frameOf 5 0 [1]
     let s := { (up .run 1).wr RING_STAT.BYPA 0 with
        ring := { RingS.reset with outq := [f], slots := Vector.replicate 2 [⟨276, none⟩] } }
     s.bypass .a = false ∧ s.onRing = true ∧ s.isHead = true ∧
       (((bget s.ring.slots (ringIx .a)).find? (fun x => x.rsv.isNone)).map (·.bytes)).getD 0 = 276 ∧
       s.pickFrame .a 276 = some f ∧ s.pickFrame .a 0 = none) := by decide +kernel

theorem witness_DataFramesAndTheirAnswers_acks :
    (let s := { placed .run 1 with host := { HostS.reset with link := true, bme := true } }
     s.nothingToWrite ∧ s.hears (frameOf 5 0 [1]) ∧ s.isHead = true ∧ s.host.link = true ∧ s.host.bme = true ∧ s.ring.reads = [] ∧
       s.ring.rdq = [] ∧ s.tagFree = true ∧ ({ s with ring := { s.ring with reads := List.replicate 31 ⟨frameOf 3 0 [64], 0, 0⟩ } }).tagFree = false) ∧
    (let o : OutFr := ⟨{ frameOf 5 0 [1] with dst := 3 }, 255, 0⟩
     let s := { (placed .run 0).wr RING_DCFG.RTO 255 with ring := { RingS.reset with sent := [o], reads := [o] } }
     let f := frameOf 7 (1 + 256 * 9) []
     s.hears f ∧ s.ring.sent.find? (fun x => decide (x.frame.dst = f.src) &&
        decide (x.frame.tag = BitVec.ofNat 8 (f.arg.toNat / 256))) = some o ∧
       s.frCls o.frame ≠ .completion ∧ s.rd RING_DCFG.RTO ≤ o.age ∧
       s.ring.outq.any (fun g => decide (g.dst = o.frame.dst ∧ g.tag = o.frame.tag) && g.ackreq) = false ∧ o.tries < s.rd RING_DCFG.RETRIES ∧
       ((s.wr RING_DCFG.RETRIES 0).rd RING_DCFG.RETRIES ≤ o.tries) ∧ s.quiet 56) ∧
    (let ev : Frame := { frameOf 5 0 [1, 2, 3, 4] with dst := 3 }
     let s := (up .run 0).wr HOST_EVQCFG.LOG2 8
     s.frCls ev = .event ∧ s.frCls { ev with arg := 0x100000 } = .other ∧
       ((s.wr HOST_TLRBLO.BASE 1).wr HOST_TLRCFG.LOG2 8).frCls { ev with arg := 0x1800 } = .telemetry) ∧
    (let g : CGroup := ⟨.shared, [[0, 0, 0, 0, 0, 0, 0, 0], [1, 0, 0, 0, 0, 0, 0, 0]], 1⟩
     let o : OutFr := ⟨{ frameOf 5 0x2000 [1] with dst := 3 }, 0, 0⟩
     let s := { ((placed .run 0).wr HOST_CPQBLO.BASE 2).wr HOST_CPQCFG.LOG2 8 with
        ring := { RingS.reset with sent := [o] }, host := { HostS.reset with cbuf := [g], flight := some 0 } }
     s.frCls o.frame = .completion ∧ s.host.flight = some 0 ∧ s.host.cbuf = g :: [] ∧ 0 + 1 < g.recs.length ∧
       g.recs.length ≤ 1 + 1 ∧ ({ s.host with flight := some 1 }).flight = some 1 ∧ s.host.resetAt = []) := by decide +kernel

theorem witness_DataFramesAndTheirAnswers_reads :
    (let o : OutFr := ⟨frameOf 3 0 [64], 255, 0⟩
     let q : ReadReq := ⟨0, 0, 1, 9, []⟩
     let s := { (placed .run 0).wr RING_DCFG.RDTO 255 with ring := { RingS.reset with reads := [o] } }
     let f := frameOf 4 0 [1]
     s.hears f ∧ s.hears (frameOf 4 0x10000 []) ∧ rdStatus ((0x10000 : Long).toNat / 65536 % 256) ≠ .ok ∧
       s.ring.outq.any (fun g => decide (g.type = 3 ∧ g.tag = 9)) = false ∧
       (List.range (16 * q.n)).all (fun i => (((List.replicate 16 (0 : Word)).zipIdx.map (fun (w, i) => (i, w))).lookup i).isSome) = true ∧
       (List.range (16 * q.n)).all (fun i => (([1].zipIdx.map (fun (w, i) => (i, w)) : List (Nat × Nat)).lookup i).isSome) = false ∧
       s.isHead = false ∧ s.ring.reads.any (fun o => decide (o.frame.tag = f.tag)) = true ∧
       s.host.reads.find? (fun r => decide (r.tag % 256 = f.tag.toNat)) = none ∧ rdStatus (f.arg.toNat / 65536 % 256) = .ok ∧
       ({ s with host := { HostS.reset with reads := [q] } }).host.reads.find?
         (fun r => decide (r.tag % 256 = f.tag.toNat)) = some q ∧
       s.ring.reads.find? (fun o => decide (o.frame.tag = 9)) = some o ∧ s.rd RING_DCFG.RDTO ≤ o.age) ∧
    (let o : OutFr := ⟨frameOf 3 0 [64], 255, 0⟩
     let s := { up .run 1 with ring := { RingS.reset with reads := [o] } }
     let f := { frameOf 4 0 (List.replicate 16 1) with dst := 3 }
     s.isHead = true ∧ s.ring.rdq = [] ∧ 4 * f.payload.length = (wAt o.frame.payload 0).toNat % 512 ∧ f.payload ≠ [] ∧
       s.ring.reads.find? (fun o => decide (o.frame.src = f.dst) && decide (o.frame.tag = f.tag)) = some o ∧ s.nothingToWrite) := by
  decide +kernel

theorem witness_RegisterAccessOverTheRing :
    (let s := (up .run 1).wr RING_PRESENT.PRES 0x80000001
     s.idle = false ∧ s.ring.resetting = false ∧ s.isHead = true ∧ (0xFFFC : Half).toNat % 4 = 0 ∧ (30 : Pos) ≠ 0 ∧
       bitN (s.rd RING_PRESENT.PRES) (30 : Pos).val = false ∧ bitN (s.rd RING_PRESENT.PRES) (31 : Pos).val = true) ∧
    (let r : RegPend := ⟨3, frameOf 1 (0x11000) [1], 0, false⟩
     regWrites r.frame = true ∧ (frameOf 2 0 []).arg.getLsbD 0 = false ∧ r.frame.arg.toNat % 65536 / 4 * 4 ≤ 0x1000 ∧
       (r.frame.payload.getD ((0x1000 - r.frame.arg.toNat % 65536 / 4 * 4) / 4) 0).toNat % 2 ^ 18 ≠ 0) ∧
    (let r : RegPend := ⟨3, frameOf 1 (0x10000) [], 2, true⟩
     let s := { placed .run 1 with ring := { RingS.reset with regs := [r] } }
     let f := frameOf 2 0 [7]
     s.hears f ∧ s.isHead = true ∧ s.regOut f.src.toNat = some r ∧ r.frame.tag = f.tag ∧ s.regOut (3 : Pos).val = some r ∧
       2 ≤ r.age ∧ s.ring.outq.any (fun g => decide (g.type = 1 ∧ g.dst = r.frame.dst ∧ g.tag = r.frame.tag)) = false) := by
  decide +kernel

theorem witness_RegisterAccessOverTheRing_slave :
    let s := placed .run 0
    let f := frameOf 1 0x18 []
    s.hears f ∧ s.isHead = false ∧ regWrites f = false ∧ regCount f = 1 ∧
      s.blockHeld (f.arg.toNat % 65536 / 4 * 4) = false ∧ s.host.heldAcc.any heldReg = false ∧ s.host.latches.lookup (f.arg.toNat % 65536 / 4 * 4) = none ∧
      s.responds (f.arg.toNat % 65536 / 4 * 4) = true := by decide +kernel

end Sys2Proof.Tests
namespace Sys2Proof.Tests
open Sys2Proof Sys2Proof.Machine

/-! ### The same: safety, metrology, host queues -/

/-- SAF in a pass of cycle 2, in its time. -/
def inPass (k : Nat) (saf : SafS := SafS.reset) : State :=
  { (atTick .run 33).wr SAF_STAT.CHECK_ON 1 with saf := { saf with pass := k, passAt := 32, cycle := 2 } }

/-- A store, an input read and an output, of pass A. -/
def txA : List SafTx :=
  [⟨.store, laned 0 8, 15, 0, 0, laned 0 5⟩, ⟨.input, laned 0 0x1000, 15, 0, 3, laned 0 9⟩]

/-- The same of pass B, in the lane of cycle 2. -/
def txB : List SafTx :=
  [⟨.store, laned 3 8, 15, 0, 0, laned 3 5⟩, ⟨.input, laned 3 0x1000, 15, 0, 3, laned 3 9⟩]

/-- What pass A has left of `txA`. -/
def doneA (saf : SafS := SafS.reset) : SafS :=
  { saf with bufA := txA.map (safEntry 0), logA := inputReads 0 txA, sigA := 77 }

theorem witness_SafetyCycleRunsItsPasses_start :
    (let s := { (atTick .run 16).wr SAF_STAT.CHECK_ON 1 with
        saf := { SafS.reset with pass := 2, psetNew := some [1], missed := 2, tOver := Vector.replicate 16 3 } }
     s.idle = false ∧ s.rb DBG_CTL.HALT_SAF = false ∧ s.rb SAF_STAT.CHECK_ON = true ∧ s.now % 16 = 0 ∧
       s.saf.psetNew = some [1] ∧ 3 ≤ bget s.saf.tOver 15 ∧ 2 ≤ s.saf.missed ∧ s.quiet 72) ∧
    (let s := { (gatesOn 0).wr SAF_STAT.CHECK_ON 1 with cmp := free, saf := { SafS.reset with vPeak := Vector.replicate 16 6000000 } }
     s.driving = true ∧ (0x40 : Byte).getLsbD 6 = true ∧ (s.chan 0).stage.iso = .closed ∧ s.saf.psetNew = none ∧
       (s.pset 8 + 50 : Int) * 1000 < bget s.saf.vPeak 15 ∧ (s.cmpAt (chCmp 15 2)).filt = false) ∧
    (up .run).readbackBad ⟨0, 1, false, 0, false, false, 0⟩ = true ∧
    (up .run).saf.pass = 0 ∧ (atTick .run 15).now % 16 ≠ 0 := by decide +kernel

theorem witness_SafetyCycleRunsItsPasses_passes :
    ((inPass 1).idle = false ∧ (inPass 1).rb DBG_CTL.HALT_SAF = false ∧ (inPass 1).saf.pass ≠ 0 ∧
      (inPass 1).takesAll ⟨1, txA, 77⟩ ∧ (inPass 2).takesAll ⟨1, txB, 77⟩ ∧
      (inPass 1).takesAll ⟨0, [⟨.store, laned 0 8, 15, 0, 0, laned 0 5⟩], 0⟩ ∧ (unlaned 0 (laned 0 8)).toNat / 4 < 16384) ∧
    (let s := inPass 2 (doneA { SafS.reset with due := [(64, 0)] })
     s.saf.pass = 2 ∧ s.takesAll ⟨1, txB, 77⟩ ∧ s.dueQuiet ∧ s.compareOff = false ∧ (s.wr DBG_CTL.LE_STEP 1).compareOff = true ∧
       (s.safAccess txB).passesAgree 77 = true ∧ (s.safAccess txB).passesAgree 78 = false ∧
       (s.safAccess txB).skewInput = none ∧ s.quiet 75 ∧ s.quiet 76) ∧
    (let s := inPass 2 { doneA with logA := [(3, 8)], skews := [(3, 0)] }
     (s.safAccess txB).passesAgree 78 = false ∧ (s.safAccess txB).skewInput = some 3 ∧ s.saf.skewRun < 3 ∧
       s.saf.skews.any (fun e => decide (e.1 = 3 ∧ s.saf.cycle < e.2 + 16)) = true ∧
       ({ s with saf := { s.saf with skews := [] } }).saf.skews.any (fun e => decide (e.1 = 3 ∧ s.saf.cycle < e.2 + 16)) = false) := by
  decide +kernel

theorem witness_SafetyCycleRunsItsPasses_failures :
    (let s := { inPass 1 with sys := { SysS.reset with mode := .run, held := none, tick := 39, clk := 39 } }
     s.saf.pass ≠ 0 ∧ s.passLate = true ∧ s.saf.passAt + 6 ≤ s.clk ∧ s.dueQuiet ∧ s.quiet 73 ∧ s.quiet 74 ∧ s.quiet 75 ∧
       s.quiet 76 ∧ s.quiet 77) ∧
    laneOk (inPass 1).safShift (0x80 : BitVec 40) = true ∧ laneOk (inPass 1).safShift (0x8000000000 : BitVec 40) = false ∧
    256 < (inPass 1).saf.logA.length + (inputReads 0 (List.replicate 257 ⟨.input, 0, 15, 0, 3, 0⟩)).length := by decide +kernel

theorem witness_SafeStateRequestStopsEverything :
    ((up .service).sys.parkDone = false ∧ (up .service).sys.mode = .service ∧ (up .service).sys.trans ≠ some .safe ∧
      (up .service).rb SAF_STAT.LATCH = false ∧ ∀ n : Src, causeSrc .clkLost = some n → (up .service).quiet n) ∧
    (let s := (up .safe).wr SAF_STAT.LATCH 1
     s.sys.parkDone = false ∧ s.rd SAF_CAUSEV.SF = 0 ∧ s.rd SAF_CAUSEV.OTHER = 0 ∧ s.rb SAF_STAT.LATCH = true) ∧
    ((up .safe).wr SAF_CAUSEV.SF 64).rd SAF_CAUSEV.SF ≠ 0 ∧ (up .service).gangsOk := by
  unfold State.gangsOk; decide +kernel

theorem witness_ContactorsStopsAndTray :
    (let s := { (atTick .standby 25000).wr SAF_KCTL.REQ 1 with
        saf := { SafS.reset with estA := true, estB := true, kfbA := true, kfbB := true, kfbSince := some 0 } }
     s.saf.kdr = false ∧ s.rb SAF_KCTL.REQ = true ∧ s.sys.mode = .standby ∧ s.rb SAF_STAT.LATCH = false ∧ s.ownCause = false ∧
       s.saf.tray = false ∧ s.saf.estA = true ∧ s.saf.estB = true ∧ s.saf.kfbA = true ∧ s.saf.kfbB = true ∧
       s.since s.saf.kfbSince 100 = true) ∧
    (let s := { atTick .run (250 * 65536) with saf := { SafS.reset with kdr := true, kChecked := false, kDropAt := some 0, ss1 := some (0, 0), menAt := some 0, trayOpen := some 0, tray := true } }
     s.saf.kChecked = false ∧ s.saf.kEdge + s.msT (if s.saf.kdr = true then s.pset 1 else s.pset 2) ≤ s.clk ∧
       s.saf.kDropAt = some 0 ∧ 0 ≤ s.clk ∧ s.saf.ss1 = some (0, 0) ∧ (s.pressSpeed < s.pset 6 ∨ 0 + s.msT (s.pset 5) ≤ s.clk) ∧
       s.since s.saf.menAt 1000 = true ∧ s.rb SAF_STAT.LATCH = false ∧ s.since s.saf.trayOpen 1000 = true ∧
       s.saf.trayIso = false ∧ s.anyIso = false ∧ s.quiet 70 ∧ s.quiet 36) ∧
    (up .run).saf.kChecked = true ∧
    (let s := (up .safe).wr SAF_CAUSEV.SF 64
     bitN (s.rd SAF_CAUSEV.SF) 6 = true ∧ s.saf.estSeenA = false) ∧
    (let s := { (atTick .run 250000).wr SAF_BRKBD.DMAX 1 with saf := { SafS.reset with brkb := ⟨some 0, []⟩ } }
     s.rd SAF_BRKBD.DMAX * s.msT 1000 < 100 * s.saf.brkb.onTime s.clk (s.msT 1000)) := by decide +kernel

theorem witness_ReadingsAndTelemetry :
    (up .run).idle = false ∧
    (100 * (64225 : Half).toNat ≤ 98 * 65536 ∧ 98 * 65536 < 100 * (64226 : Half).toNat ∧
      2 * 65536 ≤ 100 * (1311 : Half).toNat ∧ 100 * (1310 : Half).toNat < 2 * 65536) ∧
    (let s := (up .run).wr (CH_SENSE.NTC_EN 15) 0
     s.rb (CH_SENSE.NTC_EN 15) = false) ∧
    (let s := ((up .run).wr (CH_SENSE.NTC_EN 15) 1).updStage 15 (fun x => { x with ntcHi := 2, ntcLo := 2 })
     s.rb (CH_SENSE.NTC_EN 15) = true ∧ 2 ≤ (s.chan 15).stage.ntcHi ∧ 2 ≤ (s.chan 15).stage.ntcLo ∧ (s.seq 15).lead = none ∧
       s.gangsOk ∧ s.quiet 7 ∧ s.quiet 8) ∧
    ((up .run).quiet 39 ∧ (up .run).quiet 40) ∧
    (up .run).now % max 1 ((up .run).rd MET_CFG.ODR_DIV) = 0 ∧
    1024 ≤ (((up .run).updMet 15 (fun x => { x with trkN := 1024 })).chan 15).met.trkN := by
  unfold State.gangsOk; decide +kernel

theorem witness_ReadingsAndTelemetry_reports :
    (let s := { (up .run).wr HOST_CTL.TLR_EN 1 with host := { HostS.reset with link := true, bme := true } }
     s.now % max 1 s.sys.tlm = 0 ∧ s.nothingToWrite ∧ s.rb HOST_CTL.TLR_EN = true ∧ s.isHead = true ∧ s.canWrite .telemetry = true ∧
       s.rb HOST_ERR.TLR_ERR = false ∧ (s.wr HOST_ERR.TLR_ERR 1).rb HOST_ERR.TLR_ERR = true) ∧
    (up .run).rb HOST_CTL.TLR_EN = false := by decide +kernel

/-- A device whose spare is in a state. -/
def spareIn (p : Spare) : State := { up .run with sec := { SecS.reset with gradeM := false } }.updSpare 1 (fun _ => p)

theorem witness_IbexRotationHandsOver_rotation :
    (let s := { (up .run).wr MET_CFG.IBX_EN 1 with met := { MetS.reset with taken := 0x7FFFFFFF } }
     s.idle = false ∧ s.rotPick.map (·.1) = some 31 ∧ s.rb MET_CFG.IBX_EN = true ∧ (s.spare 1).st = .idle ∧ s.met.reqs = [] ∧
       s.met.spares.toList.any (fun q => decide (q.st ≠ .idle ∧ q.target.val = 31)) = false) ∧
    (let s := spareIn { Spare.reset with st := .selfCal, t := 1056 }
     s.sec.gradeM = false ∧ s.met.frozen = false ∧ s.quiet 48 ∧ (s.spare 1).st = .selfCal ∧ (s.spare 1).rng = 0 ∧
       (s.spare 1).calNext = 0 ∧ 1056 ≤ (s.spare 1).t ∧ (33 : Fin 36).val = 32 + (1 : SpareId).val ∧ 34 ≤ (35 : Fin 36).val) ∧
    (let s := spareIn { Spare.reset with st := .idle, t := 1056 }
     (s.spare 1).st = .idle ∧ s.calDue 33 0 = true ∧ 1056 ≤ (s.spare 1).t) ∧
    (let s := spareIn { Spare.reset with st := .carrying, t := 1056, target := 3 }
     (3 : Fin 36).val = (s.spare 1).target.val ∧ (s.spare 1).st = .carrying ∧ (s.spare 1).passRng = (0 : Fin 5).val ∧
       1056 * ((s.spare 1).calNext + 1) ≤ (s.spare 1).t ∧ (s.spare 0).st ≠ .carrying) ∧
    (let s := { up .run with sec := { SecS.reset with gradeM := true }, met := { MetS.reset with frozen := true, goodRef := 1 } }
     s.sec.gradeM = true ∧ s.quiet 49 ∧ s.quiet 48 ∧ s.met.frozen = true ∧ 1 ≤ s.met.goodRef ∧ (500 : Int).natAbs ≤ 500 ∧
       1000 < (1001 : Int).natAbs) := by decide +kernel

/-- A compare over the whole of its window with a difference. -/
def compared (n : Nat) (d : Int) (ovl : Nat) : Cmpr := ⟨n, 50 * n, d, ovl⟩

theorem witness_IbexRotationHandsOver :
    (let s := spareIn { Spare.reset with st := .shadowing, t := 64, target := 3, cmp := compared 4096 0 0 }
     let p := s.spare 1
     s.idle = false ∧ p.passed = false ∧ p.compares = true ∧ p.skip = false ∧ p.rc = false ∧ s.cmpLen p ≤ p.cmp.n ∧ s.quiet 50 ∧
       (p.cmp.diff.natAbs : Int) * 1000000 ≤ 100000000 * ((s.rd MET_IBXTOL.TOL : Int) *
         fsNv (max p.rng.val (s.rngActive 1)) * p.cmp.clk + 4 * xRef (max p.rng.val (s.rngActive 1)) * 1000000)) ∧
    (let s := spareIn { Spare.reset with
        st := .returning, t := 64, target := 3, again := true, lastBad := some 4, cmp := compared 4096 (10 ^ 18) 0 }
     let p := s.spare 1
     p.passed = false ∧ p.compares = true ∧ p.st = .returning ∧ s.cmpLen p ≤ p.cmp.n ∧
       ¬ ((p.cmp.diff.natAbs : Int) * 1000000 ≤ 100000000 * ((s.rd MET_IBXTOL.TOL : Int) *
         fsNv (max p.rng.val (s.rngActive 1)) * p.cmp.clk + 4 * xRef (max p.rng.val (s.rngActive 1)) * 1000000))) ∧
    (let s := spareIn { Spare.reset with st := .shadowing, rc := true, t := 1024, target := 3, cmp := compared 32 0 1024 }
     let p := s.spare 1
     p.passed = false ∧ p.rc = true ∧ p.st = .shadowing ∧ 32 ≤ p.t ∧ p.cmp.ovl = p.t ∧ 1024 ≤ p.t) ∧
    (let s := spareIn { Spare.reset with st := .returning, t := 1056, target := 3 }
     (s.spare 1).passed = false ∧ (s.spare 1).st = .returning ∧ 1056 ≤ (s.spare 1).t) ∧
    (let s := spareIn { Spare.reset with st := .shadowing, passed := true }
     (s.spare 1).passed = true ∧ (s.spare 1).st = .shadowing ∧ (s.spare 1).rc = false) ∧
    (let s := spareIn { Spare.reset with st := .shadowing, rc := true, skip := true, t := 32, rng := 3 }
     (s.spare 1).skip = true ∧ 32 ≤ (s.spare 1).t ∧ (s.spare 1).rc = true ∧ (s.spare 1).rng.val < 4) ∧
    (let s := spareIn { Spare.reset with st := .returning, passed := true }
     (s.spare 1).passed = true ∧ (s.spare 1).st = .returning ∧ s.met.reqs = [] ∧ (s.spare 1).rc = false) := by decide +kernel

theorem witness_DoorbellsAndDescriptorReads_doorbells :
    (let s := hosted 0 { HostS.reset with pollT := 65535 }
     s.idle = false ∧ s.canRead = true ∧ s.rb HOST_CTL.DB_EN = true ∧ s.host.sumRd = false ∧ s.rd HOST_DBCFG.DB_POLL ≤ s.host.pollT) ∧
    (let s := hosted 0 { HostS.reset with sumRd := true }
     s.canRead = true ∧ s.host.sumRd = true ∧ ((1 : Word) - BitVec.ofNat 32 s.host.sgen).toNat = 1 ∧
       1 < ((2 : Word) - BitVec.ofNat 32 s.host.sgen).toNat ∧ (RdStatus.abort ≠ .ok)) ∧
    (let s := hosted 0x20000 { HostS.reset with lineRd := [0] }
     s.host.lineRd.contains 0 = true ∧ bget s.host.fwd 0 ≠ some (1 : Word).toNat ∧ (0 : Pos).val = s.pos ∧ s.qOn 17 = true ∧
       (s.subq 17).held = none ∧ sub16 1 (s.subq 17).tail < 32768 ∧ sub16 1 (s.doneOf 17) ≤ s.qDepth 17 ∧
       32768 ≤ sub16 32768 (s.subq 17).tail ∧ sub16 32767 (s.subq 17).tail < 32768 ∧ s.qDepth 17 < sub16 32767 (s.doneOf 17) ∧
       s.qOn 0 = false ∧ ((s.updQ 17 (fun x => { x with held := some 2 })).subq 17).held.isSome = true) ∧
    (let s := { up .run 1 with host := { HostS.reset with lineRd := [5], ask := [5] } }
     s.host.lineRd.contains 5 = true ∧ s.host.ask.contains 5 = true ∧ (5 : Pos).val ≠ s.pos ∧ s.onRing = true ∧
       s.mayClass (5 : Pos).val .dbl = true ∧ (s.wr SYS_STRAP.ROLE 3).onRing = false) ∧
    (let s := { up .run 1 with host := { HostS.reset with lineRd := [5], fwd := Vector.replicate 32 (some 1) } }
     s.host.ask.contains 5 = false ∧ bget s.host.fwd 5 = some (1 : Word).toNat) ∧
    (((hosted 0 HostS.reset).wr RING_STAT.POS_VALID 1).hears (frameOf 6 0 [])) := by decide +kernel

theorem witness_DoorbellsAndDescriptorReads_reads :
    (let s := (hosted 0x8000 HostS.reset).updQ 15 (fun x => { x with tail := 2 })
     s.nothingToWrite ∧ s.drainWrites.idle = false ∧ s.drainWrites.fetchNext = some 15 ∧ s.drainWrites.canRead = true ∧
       s.drainWrites.tagFree = true ∧ s.drainWrites.isHead = true ∧ s.drainWrites.host.reads.length < 8) ∧
    (let s := ((up .run 0).wr HOST_CTL.QEN 0x8000).updQ 15 (fun x => { x with tail := 2 })
     s.drainWrites.fetchNext = some 15 ∧ s.drainWrites.isHead = false ∧ s.drainWrites.mayClass 0 .rdreq = true ∧
       s.drainWrites.ring.resetting = false) ∧
    (let r : ReadReq := ⟨15, 1, 1, 0, []⟩
     let s := hosted 0x8000 { HostS.reset with reads := [r] }
     s.host.reads.find? (fun x => decide (x.q = 15)) = some r ∧ s.qOn 15 = true ∧ (15 : QId).val ≠ 17 ∧
       s.host.resetAt = [] ∧ s.ring.rdq = [] ∧ r.first = s.nextCount 15 ∧ ({ s with host := { s.host with adm := some ⟨15, hdr, 4⟩ } }).host.adm.isSome = true) ∧
    (let r : ReadReq := ⟨17, 0, 1, 0, []⟩
     let s := hosted 0x20000 { HostS.reset with reads := [r] }
     s.host.reads.find? (fun x => decide (x.q = 17)) = some r ∧ s.qOn 17 = true ∧ r.first = s.nextCount 17 ∧ r.n = 1 ∧
       (s.subq 17).pre = [] ∧ s.admMay = true ∧ s.ring.rdq = [] ∧ admBad (List.replicate 16 0x12) = some 1 ∧
       admBad ([0x0F, 0] ++ List.replicate 14 0) = some 2) := by decide +kernel

theorem witness_CompletionsEventsAndInterrupts_completions :
    let g : CGroup := ⟨.shared, [[0, 0, 0, 0, 0, 0, 0, 0]], 1⟩
    (let s := (hosted 0 { HostS.reset with cbuf := [g] }).wr HOST_CTL.CPQ_EN 1
     s.idle = false ∧ s.isHead = true ∧ s.host.events = [] ∧ s.host.evqNote = false ∧ s.host.cbuf = g :: [] ∧
       s.drainEvents.rb HOST_CTL.CPQ_EN = true ∧ s.drainEvents.rb HOST_ERR.CPQ_ERR = false ∧
       s.host.flight = none ∧ s.drainEvents.canWrite .completion = true ∧
       sub16 s.host.cpqW s.host.cpqC + g.recs.length ≤ s.cpqDepth ∧ s.host.resetAt = [] ∧ g.owner ≠ .mot ∧
       (let u := { s with host := { s.host with cpqW := s.cpqDepth } }
        sub16 u.host.cpqW u.host.cpqC ≤ u.cpqDepth ∧ u.cpqDepth < sub16 u.host.cpqW u.host.cpqC + g.recs.length)) ∧
    (let s := { (up .run 0).wr HOST_CTL.CPQ_EN 1 with host := { HostS.reset with cbuf := [g] } }
     s.isHead = false ∧ s.drainEvents.canWrite .completion = true ∧ s.drainEvents.rb HOST_CTL.CPQ_EN = true ∧ s.host.flight = none ∧
       sub16 s.host.cpqW s.host.cpqC + g.recs.length ≤ s.cpqDepth) := by decide +kernel

theorem witness_CompletionsEventsAndInterrupts_events :
    (let e : EvRec := ⟨21, 3, 0, 0⟩
     let s := ((hosted 0 { HostS.reset with events := [e] }).wr HOST_CTL.EVQ_EN 1).wr HOST_EVQCFG.LOG2 8
     s.host.events = e :: [] ∧ s.rb HOST_CTL.EVQ_EN = true ∧ s.rb HOST_ERR.EVQ_ERR = false ∧ s.canWrite .event = true ∧
       sub16 s.host.evqW s.host.evqC < s.evqDepth ∧ s.host.evqNote = false ∧ s.isHead = true ∧
       ({ s with host := { s.host with evqNote := true } }).host.evqNote = true ∧
       (let u := { s with host := { s.host with evqW := s.evqDepth } }
        sub16 u.host.evqW u.host.evqC = u.evqDepth)) ∧
    (let s := (hosted 0 { HostS.reset with msix := Vector.replicate 8 ⟨true, 0⟩, msixEn := true }).wr (HOST_MSIXTAB.TABLE 31) 0
     (bget s.host.msix 7).pend = true ∧ (bget s.host.msix 7).wait = 0 ∧ s.host.link = true ∧ s.host.bme = true ∧
       s.host.msixEn = true ∧ s.vecMasked 7 = false) ∧
    (let s := { up .run 0 with host := { HostS.reset with msix := Vector.replicate 8 ⟨true, 0⟩ } }
     s.isHead = false ∧ (bget s.host.msix 7).pend = true ∧ s.ring.outq.any (fun f => decide (f.type = 5)) = false ∧
       s.ring.sent.any (fun o => decide (o.frame.type = 5)) = false) := by decide +kernel

end Sys2Proof.Tests
namespace Sys2Proof.Tests
open Sys2Proof Sys2Proof.Machine

/-! ### The same: the press, register accesses, faults and the dump -/

/-- A device in RUN whose press has its gains. -/
def gained : State :=
  (((((up .run).wr MOT_KCUR.KP 1).wr MOT_KSPD.KP 1).wr MOT_KPOS.KP 1).wr MOT_KFRC.KP 1).wr MOT_VM.VM 48000

/-- The words of a motion descriptor with every field 0. -/
def motPre (op : Nat) : PreDesc := ⟨BitVec.ofNat 32 op :: List.replicate 15 0, true⟩

/-- A device whose MQ has motion descriptors prefetched. -/
def queued (s : State) (ps : List PreDesc) : State := (s.wr HOST_CTL.QEN 0x10000).updQ mq (fun x => { x with pre := ps })

theorem witness_MotionCommandsBegin_heads :
    ([0x41, 0x42, 0x43, 0x44, 0x45] : List Nat).all (fun n => decide ((queued gained [motPre n]).motHead = some (motOf (BitVec.ofNat 8 n), 0))) = true ∧
    (queued gained [motPre 0x41]).motMay = true ∧ (queued (gained.wr MOT_STAT.STATE 3) [motPre 0x41]).motMay = true ∧
    gained.motHead ≠ some (motOf 0x41, 0) ∧
    (let s := queued gained [motPre 0x42, motPre 0x43, motPre 0x46]
     s.stopMay = true ∧ s.stopAt = some (motOf 0x46, 2) ∧
       ((s.subq mq).pre.takeWhile (fun p => decide (((wAt p.words 0).extractLsb' 0 8) ≠ 0x46))).length = 2) ∧
    (queued (gained.wr MOT_STAT.STATE 5) [motPre 0x46]).stopMay = true := by decide +kernel

theorem witness_MotionCommandsBegin :
    (gained.motMay = true ∧ gained.rd MOT_STAT.STATE = 0 ∧ 18000 ≤ gained.rd MOT_VM.VM ∧
      ([0x41, 0x42, 0x43, 0x44, 0x45, 0x46] : List Nat).all
        (fun n => motionValid (motOf (BitVec.ofNat 8 n)) && gained.loopsOk n) = true) ∧
    (let s := gained.wr MOT_STAT.STATE 3
     s.motMay = true ∧ s.rd MOT_STAT.STATE ≠ 5 ∧ s.rd MOT_STAT.STATE ≠ 0) ∧
    (motionValid { motOf 0x41 with dwell := 1 } = false ∧ (up .run).loopsOk 0x41 = false ∧ (up .run).motMay = true) ∧
    ((up .standby).motMay = false ∧ ((up .run).wr MOT_STAT.STATE 5).rd MOT_STAT.STATE = 5) ∧
    (let s := gained.wr MOT_STAT.STATE 5
     s.stopMay = true ∧ (s.subq mq).done < 65536 ∧ s.rd MOT_STAT.STATE = 5 ∧ motionValid (motOf 0x46) = true) ∧
    (let s := { gained.wr MOT_STAT.STATE 2 with mot := { MotS.reset with cmd := some (cmdOf (motOf 0x42) .move) } }
     s.stopMay = true ∧ s.rd MOT_STAT.STATE ≠ 5 ∧ s.rd MOT_STAT.STATE ≠ 0 ∧ s.loopsOk 0x46 = true) ∧
    (gained.stopMay = true ∧ gained.rd MOT_STAT.STATE ≠ 5 ∧ 18000 ≤ gained.rd MOT_VM.VM) ∧
    ((up .run).stopMay = true ∧ (up .run).loopsOk 0x46 = false ∧ motionValid { motOf 0x46 with dwell := 1 } = false) ∧
    (gained.wr MOT_STAT.STATE 4).stopMay = false := by decide +kernel

theorem witness_MotionCommandsEnd :
    (let m := cmdOf { motOf 0x42 with timeout := 20 } .starting
     let s := { (up .run).wr MOT_STAT.STATE 1 with mot := { MotS.reset with cmd := some m } }
     s.mot.cmd = some m ∧ m.desc.timeout ≠ 0 ∧ s.msT m.desc.timeout.toNat ≤ m.ticks ∧ m.ph = .starting ∧
       s.rd MOT_STAT.STATE = 1) ∧
    (let m := cmdOf { motOf 0x42 with timeout := 20 } .move
     m.ph ≠ .starting ∧ m.desc.timeout ≠ 0 ∧ (up .run).msT m.desc.timeout.toNat ≤ m.ticks) ∧
    (let m := { cmdOf { motOf 0x42 with timeout := 100 } .move with ticks := 24999 }
     m.ticks < (up .run).msT m.desc.timeout.toNat) ∧
    (cmdOf (motOf 0x42) .move).desc.timeout = 0 ∧
    (let m := { cmdOf (motOf 0x45) .move with dwell := 1 }
     (up .run).msT m.desc.dwell.toNat ≤ m.dwell ∧ 0 < m.dwell ∧ m.desc.op = 0x45 ∧ m.ph = .move) ∧
    (let m := { cmdOf { motOf 0x44 with dwell := 1 } .force with dwell := 250 }
     (up .run).msT m.desc.dwell.toNat ≤ m.dwell ∧ m.desc.op = 0x44 ∧ m.desc.dwell ≠ 0 ∧ m.ph = .force) ∧
    (let m := cmdOf (motOf 0x44) .force
     let s := ({ up .run with mot := { MotS.reset with cmd := some m } }).updQ mq (fun x => { x with pre := [restPre] })
     s.mot.cmd = some m ∧ m.desc.op = 0x44 ∧ m.desc.dwell = 0 ∧ m.ph = .force ∧ (s.subq mq).pre ≠ []) ∧
    (let m := { cmdOf (motOf 0x43) .force with fe := 70000 }
     (up .run).rd MOT_FE.FE_TIME < m.fe ∧ true = decide (m.ph = .force)) ∧ (up .run).quiet 31 := by decide +kernel

/-- A motor in a start. -/
def starting (st : MotStart) (state : Nat) : State :=
  { (atTick .run 2000000).wr MOT_STAT.STATE state with mot := { MotS.reset with start := st, startT := 0 } }

theorem witness_MotorStartsAndCommutates_start :
    (let s := starting .check 1
     s.rd MOT_STAT.STATE = 1 ∧ s.mot.start = .check ∧ s.since (some s.mot.startT) (s.rd MOT_START.T_CHK) = true ∧
       s.ofsValid = false) ∧
    (let s := { starting .check 1 with mot := { MotS.reset with start := .check, ofsP := List.replicate 16 0 } }
     s.mot.start = .check ∧ s.ofsValid = true) ∧
    ((starting .check 1).wr MOT_CFG.CLASS 0).rb MOT_CFG.CLASS = false ∧
    ((starting .check 1).wr MOT_CFG.CLASS 1).rb MOT_CFG.CLASS = true ∧
    (starting .check 1).rd MOT_CATCH.CATCH_MIN < 65536 ∧
    (let s := starting .brake 1
     s.mot.start = .brake ∧ s.since (some s.mot.startT) 10 = true) ∧
    (let s := starting .align 1
     s.mot.start = .align ∧ s.since (some s.mot.startT) (10 * s.rd MOT_START.ALIGN_T) = true ∧
       (let xs : Vector PulseIn 6 := #v[⟨some 100000, 5⟩, ⟨some 90000, 5⟩, ⟨none, 5⟩, ⟨none, 5⟩, ⟨none, 5⟩, ⟨some 200001, 5⟩]
        (xs.toList.map (fun x => (s.pulseEnd x).2)).sum ≤ (s.clk + 1 - s.mot.startT) * s.tickNs)) ∧
    (let s := starting .ramp 1
     s.mot.start = .ramp ∧ s.since (some s.mot.startT) (10 * s.rd MOT_START.RAMP_T) = true ∧ s.rd MOT_STAT.STATE = 1 ∧
       s.quiet 25 ∧ s.seesEmf = true ∧ s.mot.zcTaken = false ∧ s.byEmf = false ∧ s.rd MOT_STAT.STATE ≠ 3) ∧
    (let s := starting .springbok 4
     s.mot.start = .springbok ∧ s.since (some s.mot.startT) 1000 = true ∧ s.rd MOT_STAT.STATE = 4 ∧ (s.subq mq).pre = []) ∧
    (let s := { starting .ramp 1 with mot := { MotS.reset with start := .ramp, zcRun := 5, zcTaken := true } }
     s.mot.zcTaken = true ∧ 5 ≤ s.mot.zcRun ∧ s.seesEmf = true) := by decide +kernel

/-- A motor by back-EMF in a sector of 1,000,000 ns that began at 4,000,000,000 ns. -/
def bemf (m : MotS → MotS) : State :=
  let s := starting .none 2
  { (s.wr MOT_ZC.DEMAG_MAX 40).wr MOT_ZC.MISS_WIN 150 with
    sys := { s.sys with cyc := 2000400000 }
    mot := m { MotS.reset with tLast := some 4000000000, secDur := some 1000000, demag := true } }

theorem witness_MotorStartsAndCommutates_windows :
    (let s := bemf id
     s.seesEmf = true ∧ s.mot.zcTaken = false ∧ s.mot.demagEnd (s.rd MOT_ZC.DEMAG_MAX) = some 4000400000 ∧ s.zcEnd = none ∧
       (4000400000 : Int) ≤ s.endNs ∧ slopeUp 1 true = true ∧ slopeUp 0 true = false ∧ slopeUp 0 false = true) ∧
    (let s := bemf (fun m => { m with tzc := some 4000000000, tzc1 := some 3999000000, tzc2 := some 3998000000 })
     s.byEmf = true ∧ s.zcEnd = some 4001500000 ∧ s.endNs < 4001500000) ∧
    (let s := bemf (fun m => { m with tzc := some 3999000000, tzc2 := some 3997000000, tComm := some 4000800000, missRun := 1 })
     s.zcEnd = some 4000500000 ∧ (4000500000 : Int) ≤ s.endNs ∧ s.mot.zcTaken = false ∧ (4000800000 : Int) ≤ s.endNs ∧
       s.mot.missRun < 2 ∧ s.endNs < 5000000000) ∧
    (let s := (((starting .ramp 1).wr MOT_CFG.CLASS 1).wr MOT_CFG.PP 4).wr MOT_CATCH.CATCH_MIN 300
     s.byEmf = false ∧ s.rd MOT_STAT.STATE ≠ 3 ∧ s.seesEmf = true ∧ s.rb MOT_CFG.CLASS = true ∧
       (s.rampStep 1).isSome = true ∧ (s.wr MOT_CATCH.CATCH_MIN 0).rampStep 1 = none ∧
       (s.rampStep 1).any (fun e => decide (s.endNs < e)) = true ∧
       (let u := { s with sys := { s.sys with cyc := 4000000000 } }
        (u.rampStep 1).any (fun e => decide (e ≤ u.endNs)) = true)) := by decide +kernel

theorem witness_MotorStartsAndCommutates_commutation :
    (let s := { starting .none 2 with mot := { MotS.reset with missRun := 1, tzc1 := some 7, tComm := some 9 } }
     s.seesEmf = true ∧ s.byEmf = true ∧ s.mot.zcTaken = false ∧ s.mot.missRun < 2 ∧ s.mot.tzc1 = some 7 ∧
       s.mot.tComm.isSome = true ∧ (starting .none 2).mot.tComm = none) ∧
    ((starting .none 3).byEmf = false ∧ (starting .none 3).rd MOT_STAT.STATE = 3 ∧ (starting .none 0).seesEmf = false) ∧
    (let s := { starting .none 2 with mot := { MotS.reset with missRun := 2 } }
     s.seesEmf = true ∧ s.rd MOT_STAT.STATE = 2 ∧ 2 ≤ s.mot.missRun ∧ s.mot.lostAt = none) ∧
    (let s := { starting .none 2 with mot := { MotS.reset with missRun := 2, lostAt := some 1999990 } }
     s.mot.lostAt = some 1999990 ∧ s.clk < 1999990 + s.msT 1000 ∧ s.quiet 25) ∧
    (let s := (starting .none 4).wr MOT_CATCH.CATCH_MAX 200
     s.rd MOT_STAT.STATE = 4 ∧ s.mot.start ≠ .springbok ∧
       (s.rpmOf (s.rdS MOT_ESPD.SPD)).natAbs < s.rd MOT_CATCH.CATCH_MAX) ∧
    (let s := { (((starting .none 2).wr MOT_CFG.PP 4).wr MOT_CPR.CPR 4096).wr MOT_GEAR.DEN 1 with
        mot := { MotS.reset with revN := 24, revBad := 3 } }
     s.rd MOT_STAT.STATE = 2 ∧ 6 * s.rd MOT_CFG.PP ≤ s.mot.revN ∧ 3 ≤ s.mot.revBad ∧ s.quiet 28 ∧
       (let rev : Int := ((s.rd MOT_CPR.CPR * s.rd MOT_GEAR.DEN : Nat) : Int)
        (s.rd MOT_XCHK.GEAR_TOL : Int) * rev < ((s.mot.ext - s.mot.revExt) * s.rd MOT_GEAR.NUM - 1 * rev).natAbs * 100)) := by
  decide +kernel

theorem witness_EncoderAndBridge :
    (up .run).mot.hadFrame = false ∧ (up .run).idle = false ∧ (up .run).frameDue = false ∧
    (let s := atTick .run 2000
     s.frameDue = true ∧ s.idle = false) ∧
    (∃ u ∈ (some 5000 : Option Nat), u ≤ 1000 * ((up .run).wr MOT_ENC.TM 5).rd MOT_ENC.TM) ∧
    ((up .run).wr MOT_ENC.ERRBIT 1).rb MOT_ENC.ERRBIT = true ∧
    (let s := { ((up .run).wr MOT_ENC.NBITS 17).wr MOT_ENC.GRAY 0 with mot := { MotS.reset with hadFrame := true, rawPrev := 131071 } }
     s.mot.hadFrame = true ∧ s.rb MOT_ENC.GRAY = false ∧
       (wrapS 17 ((((0x7FFE : Word).toNat % 2 ^ 17 : Nat) : Int) - s.mot.rawPrev)).natAbs < 2 ^ (17 - 2) ∧
       2 ^ (17 - 2) ≤ (wrapS 17 ((((0x7FFF : Word).toNat % 2 ^ 17 : Nat) : Int) - s.mot.rawPrev)).natAbs ∧ s.quiet 27) ∧
    (up .run).mot.badRun ≠ 2 ∧
    ({ up .run with mot := { MotS.reset with badRun := 2 } }).mot.badRun = 2 ∧ (up .run).quiet 26 ∧
    ((up .run).rb MOT_ENCSTAT.HOME_VALID = false ∧ ((up .run).wr MOT_XCHK.HOME_EDGE 0).rd MOT_XCHK.HOME_EDGE = 0 ∧
      ((up .run).wr MOT_XCHK.HOME_EDGE 1).rd MOT_XCHK.HOME_EDGE = 1 ∧ (up .run).mot.latch = none) ∧
    (let s := { up .run with mot := { MotS.reset with latch := some 5 } }
     s.mot.latch = some 5 ∧ ((wrapS 48 (s.mot.ext + rdiv (5 * 1) 1)) - 5).natAbs ≤ s.rd MOT_XCHK.HOME_TOL ∧
       s.rd MOT_XCHK.HOME_TOL < ((wrapS 48 (s.mot.ext + rdiv (100000 * 1) 1)) - 5).natAbs ∧ s.quiet 29) := by
  decide +kernel

theorem witness_EncoderAndBridge_bridge :
    (let s := { (up .run).wr MOT_STAT.STATE 2 with
        cmp := free, saf := { SafS.reset with men := true }, pins := { Pins.reset with vdrv := true }
        mot := { MotS.reset with gatesOff := false } }
     s.motGated = true ∧ (up .run).motGated = false ∧ s.mot.tripNow = false ∧ s.mot.lastTrip = none ∧ s.mot.tripRun = 0 ∧
       1 < (s.wr MOT_SC.SC_LIMIT 2).rd MOT_SC.SC_LIMIT ∧ (s.wr MOT_SC.SC_LIMIT 1).rd MOT_SC.SC_LIMIT ≤ 1 ∧
       ([20, 21, 22, 23] : List Src).all (fun n => decide (s.quiet n)) = true) ∧
    (let s := { up .run with mot := { MotS.reset with gatesOff := false, lastTrip := some (.b, 0) } }
     s.mot.lastTrip = some (.b, 0) ∧ Leg.b ≠ switchedLeg (s.rd MOT_STAT.SECTOR) ∧ s.clk ≤ 0 + s.msT (s.rd MOT_SC.PP_WIN)) ∧
    (let s := { (up .run).wr MOT_STAT.STATE 2 with cmp := free, saf := { SafS.reset with men := true }, pins := { Pins.reset with vdrv := true } }
     s.idle = false ∧ s.now % max 1 (s.rd MOT_CFG.NTICK) = 0 ∧ s.motMayGate = true ∧ s.rb DBG_CTL.HALT_MOT = false ∧
       s.rd MOT_STAT.STATE = 2 ∧ (up .run).motMayGate = false ∧
       (let u := { s.wr MOT_CFG.CLASS 1 with mot := { s.mot with start := .ramp, tripNow := true } }
        u.mot.start = .ramp ∧ (u.commitIf lateMot).rb MOT_CFG.CLASS = true ∧ u.motMayGate = true)) ∧
    ((atTick .run 1).wr MOT_CFG.NTICK 2).now % max 1 (((atTick .run 1).wr MOT_CFG.NTICK 2).rd MOT_CFG.NTICK) ≠ 0 ∧
    (let s := { atTick .run 15 with mot := { MotS.reset with bothOn := [0, 0] } }
     (s.mot.bothOn.filter (fun u => s.clk < u + 16)).length = 2) ∧
    (let s := up .run
     (s.mot.bothOn.filter (fun u => s.clk < u + 16)).length < 2) ∧
    (let s := (up .run).updCmp 68 (fun x => { x with filt := false })
     (s.cmpAt 68).filt = false ∧ s.active 24 = false ∧
       (s.updSrc 24 (fun x => { x with act := 1 })).active 24 = true ∧ s.brkmEff.1 < (65535 : Int) ∧ (0 : Int) < s.brkmEff.2 ∧
       s.brkmEff.2 < s.brkmEff.1) ∧
    (let s := { ((atTick .run 250000).wr MOT_BRKD.DMAX 1).updCmp 68 (fun x => { x with filt := false }) with
        mot := { MotS.reset with brkm := ⟨some 0, []⟩ } }
     s.rd MOT_BRKD.DMAX * s.msT 1000 < 100 * s.mot.brkm.onTime s.clk (s.msT 1000) ∧ (s.cmpAt 68).filt = false ∧ s.quiet 24) := by
  decide +kernel

theorem witness_RegisterAccesses :
    (let s := up .standby
     s.idle = false ∧ s.responds 0xB000 = true ∧ s.blockHeld 0xB000 = false ∧ s.refuseCode 0xB000 1 ≠ 0) ∧
    (([0x1020, 0x2008, 0x3068, 0x4044, 0x50c4, 0x50c8, 0x6024, 0x6038, 0x603c, 0x6048, 0x8048] : List Nat).all
      (fun o => decide ((up .standby).accepts o ((up .standby).regWord o))) = true) ∧
    accessOk 0 2 false = false ∧
    ((up .boot).responds 0x18 = true ∧ (up .boot).blockHeld 0x18 = false ∧ (up .boot).host.latches.lookup 0x18 = none) ∧
    (let s := (up .service).wr SEC_DBG.PERM 15
     bitN (s.rd SEC_DBG.PERM) 0 = true ∧ s.refuseCode 0xB000 1 = 0 ∧ s.quiet 81) ∧
    bitN ((up .standby).rd SEC_DBG.PERM) 0 = false := by decide +kernel

theorem witness_DeviceRegisterWritesAct :
    (let s := up .standby
     s.idle = false ∧ s.isHead = true ∧ s.accepts 0x30 (s.regWord 0x30)) ∧
    (up .standby).accepts 0x48 (withBits 0 23 1 1) ∧
    (up .standby).accepts 0x1000 0x20000 ∧ (up .standby).accepts 0x100c 0x01000000 ∧
    ((up .standby 1).isHead = true ∧ (up .standby 1).accepts 0x2050 0x80000000 ∧ (up .standby 1).accepts 0x204c 1) ∧
    (let s := (up .standby 1).wr RING_STAT.BYPB 0
     s.headsRing ∧ s.sys.mode = .standby ∧ s.ring.resetting = false ∧ s.live = true ∧
       s.accepts 0x2000 (withBits 0 0 1 1) ∧ s.accepts 0x201c (withBits 1 8 1 1)) ∧
    (up .standby).accepts 0x4020 1 ∧
    (cmpFixed (0 : CmpId).val = false ∧ (up .standby).accepts (0xA000 + 4 * (0 : CmpId).val) (8 + 32 * 7)) ∧
    ((up .standby).accepts 0x306c (withBits 0 8 1 1) ∧
      ((up .standby).wr FLT_DUMPSTAT.STATE 5).rd FLT_DUMPSTAT.STATE = 5) ∧
    (let s := up .service
     s.sys.mode = .service ∧ s.accepts 0x304c (withBits 65 8 1 1) ∧ srcListed ((65 : Word).toNat % 128) = true ∧
       s.quiet (Fin.ofNat 128 (65 : Word).toNat) ∧ s.quiet 67 ∧ s.quiet 81) ∧
    ((up .service).wr SEC_DBG.PERM 15).accepts 0xB000 7 ∧
    (let s := ((looping.wr SEC_DBG.PERM 15).wr DBG_CTL.LE_STEP 1)
     s.accepts 0xB004 (withBits 0 8 1 1) ∧ s.leStepped (quadOf 0) = true ∧
       (s.profAt 0 (s.chan 0).loop.act.slot).isSome = true) := by decide +kernel

theorem witness_ChannelRegisterWritesAct :
    (let s := up .standby
     s.gangsOk ∧ s.idle = false ∧ s.sys.mode = .standby ∧ s.accepts 0x801c 0x32 ∧ s.accepts 0x801c 0x10032 ∧
       (s.chan 0).stage.iso = .opened ∧ (s.chan 0).stage.pulse = none) := by
  unfold State.gangsOk; decide +kernel

theorem witness_ChannelRegisterWritesAct_others :
    (let s := up .standby
     s.accepts 0x8f24 (withBits 0 8 1 1) ∧ (s.chan 15).stage.gates = false) ∧
    ((gatesOn 15).chan 15).stage.gates = true ∧
    (let s := (up .standby).wr (CH_MRNG.REQ 15) 2
     s.accepts 0x8f44 2 ∧ (2 : Word).toNat % 4 = s.rd (CH_MRNG.REQ 15)) ∧
    (let s := { (up .standby).updSpare 0 (fun _ => { Spare.reset with st := .withdrawn }) with
        sec := { SecS.reset with gradeM := true } }.updSpare 1 (fun _ => { Spare.reset with st := .withdrawn })
     s.accepts 0x8f44 2 ∧ (2 : Word).toNat % 4 ≠ s.rd (CH_MRNG.REQ 15) ∧
       (s.spare 0).inService = false ∧ (s.spare 1).inService = false) ∧
    (let s := up .standby
     s.accepts 0x8f44 2 ∧ (s.spare 0).inService = true ∧ s.changer 15 = none ∧ s.rotator 15 = none ∧
       (2 : Fin 4).val ≠ s.rngActive 15) ∧
    ((up .standby).accepts 0x8f64 (withBits 0 8 1 1) ∧ (0 : Word).getLsbD 9 = false) ∧
    (up .standby).accepts 0x8f64 (withBits 0 9 1 1) ∧
    ((up .standby).blockHeld 0x8f68 = false ∧ (up .standby).host.latches = []) ∧
    ((bget (up .standby).qd 3).pcmd = none ∧ (up .standby).accepts 0x9c04 (withBits 7 4 2 1) ∧
      (up .standby).accepts 0x9c04 (withBits 7 4 2 2) ∧ (up .standby).accepts 0x9c04 (withBits 7 4 2 3)) ∧
    (let s := ((up .run).wr (QD_TRCTL.EN 3) 1).wr (QD_TRSTAT.STATE 3) 1
     s.accepts 0x9d00 (withBits 3 3 1 1) ∧ s.rb (QD_TRCTL.EN 3) = true ∧ (3 : Word).getLsbD 0 = true ∧
       bitsN (3 : Word).toNat 1 2 = 1 ∧ s.rd (QD_TRTRIG.SRC 3) = 0 ∧ s.rd (QD_TRSTAT.STATE 3) = 1) := by decide +kernel

theorem witness_FaultsAreRaisedAndCleared :
    (let s := (up .run).updSrc 65 (fun x => { x with react := 0 })
     s.idle = false ∧ 32 ≤ (65 : Src).val ∧ srcListed (65 : Src).val = true ∧ s.quiet 65 ∧ bitN (s.src 65).react 5 = false ∧
       s.quiet 43 ∧ bitN (s.src 43).react 5 = false ∧ (65 : Src) ≠ 43) ∧
    (srcListed (11 : Src).val = true ∧ srcListed (14 : Src).val = true ∧ srcListed (20 : Src).val = true ∧
      srcListed (23 : Src).val = true ∧ bitN ((up .run).src 14).react 3 = false ∧ bitN ((up .run).src 67).react 3 = false ∧
      (up .run).gangsOk) ∧
    (srcListed (127 : Src).val = false) ∧
    (let s := (up .run).updSrc 37 (fun x => { x with act := 0xFFFF })
     ((11 : Src) ≠ 0 ∧ (srcClr (11 : Src).val = 1 ∨ srcClr (11 : Src).val = 3) ∧ (up .run).activeIn 10 15 = false ∧
       ((up .run).updSrc 10 (fun x => { x with act := 0xFFFF })).activeIn 10 15 = true) ∧
     (srcClr (37 : Src).val = 1 ∨ srcClr (37 : Src).val = 3) ∧ (s.src 37).act &&& actBit 37 0 ≠ 0 ∧
       (s.src 37).cond &&& actBit 37 0 = 0 ∧
       ((s.updSrc 37 (fun x => { x with cond := 0xFFFF })).src 37).cond &&& actBit 37 0 ≠ 0) ∧
    (up .run).errHeld = false ∧ (up .boot).errHeld = true := by
  unfold State.gangsOk; decide +kernel

theorem witness_FaultsAreRaisedAndCleared_watchdogs :
    (let s := (up .run).wr FLT_DUMPCTL.TRG_CHIP 1
     s.rb DBG_CTL.HALT_SEQ = false ∧ bitN (s.src 45).react 3 = true ∧ (s.src 45).act &&& 1 = 0 ∧
       s.rb FLT_DUMPCTL.TRG_CHIP = true ∧ s.rb FLT_DUMPSTAT.REQ = false) ∧
    (let s := (up .run).wr FLT_DUMPCTL.TRG_CHIP 0
     s.flt.copying = false ∧ s.rb FLT_DUMPCTL.TRG_CHIP = false ∧ bitN (s.src 45).react 5 = false) ∧
    bitN (((up .run).updSrc 45 (fun x => { x with react := 0 })).src 45).react 3 = false ∧
    (let s := up .run
     s.rb DBG_CTL.HALT_MOT = false ∧ bitN (s.src 46).react 3 = false ∧ bitN (s.src 46).react 2 = true ∧
       (s.src 46).act &&& 1 = 0) := by decide +kernel

/-- A snapshot. -/
def snap0 : Snap := ⟨1, 65, 0, 2, 0, [], [], []⟩

/-- A head with a snapshot whose dump is requested. -/
def dumping (len base : Nat) (acked : Bool) : State :=
  { ((((up .run).wr FLT_DUMPSTAT.REQ 1).wr FLT_DUMPSTAT.SNAP_VALID 1).wr FLT_DUMPLEN.LEN len).wr FLT_DUMPBLO.BASE base with
    flt := { FltS.reset with snap := some snap0, acked := acked }
    host := { HostS.reset with link := true } }

theorem witness_DumpTakesItsCourse :
    (let s := { up .run with flt := { FltS.reset with copying := true } }
     s.flt.copying = true ∧ s.flt.chipDue = none) ∧
    (let s := { up .run with flt := { FltS.reset with copying := true, chipDue := some 0 } }
     s.flt.chipDue.isSome = true ∧ s.sys.held = none) ∧
    (let s := dumping 600000 1 true
     s.agentRuns = true ∧ s.flt.copying = false ∧ s.flt.snap = some snap0 ∧ s.rb FLT_DUMPSTAT.REQ = true ∧
       s.rb FLT_DUMPSTAT.SNAP_VALID = true ∧ s.rd FLT_DUMPSTAT.STATE ≠ 2 ∧ s.rd FLT_DUMPSTAT.STATE ≠ 5 ∧
       s.flt.acked = true ∧ s.dumpDest = true ∧ s.dumpLen ≤ s.rd FLT_DUMPLEN.LEN ∧ s.isHead = true) ∧
    (dumping 0 1 false).flt.acked = false ∧ (dumping 0 0 true).dumpDest = false ∧
    (let s := dumping 11135 1 true
     s.dumpDest = true ∧ s.rd FLT_DUMPLEN.LEN < s.dumpLen) ∧
    (let s := (dumping 600000 1 true).wr FLT_DUMPSTAT.STATE 2
     s.rd FLT_DUMPSTAT.STATE = 2 ∧ s.ring.outq.any (fun f => decide (s.frCls f = .other)) = false ∧
       s.ring.sent.any (fun o => decide (s.frCls o.frame = .other)) = false) := by decide +kernel

end Sys2Proof.Tests
namespace Sys2Proof.Tests
open Sys2Proof Sys2Proof.Machine

/-! ### One step each, against values worked out from the rules -/

/-- What a step answers, where it goes on. -/
def after (c : Instr) (s : State) : Option State :=
  match step { s with pending := c :: s.pending } with
  | .next t => some t
  | _ => none

/-- The model's choice (log entry 1): on an empty queue the block idles. -/
theorem test_idle : step (up .run) = .next (up .run) := by rfl

/-- R750, R760: a write outside the range is refused and recorded with code RANGE. -/
theorem test_refused_write_recorded :
    (after (.registerWrite .bar0 0x801c [0]) (up .standby)).map
      (fun t => (t.rd SYS_WERR.OFFSET, t.rd SYS_WERR.CODE, t.rd SYS_WERR.COUNT)) = some (0x801c, 3, 1) := by decide +kernel

/-- R677: a raised source is active, recorded and counted once. -/
theorem test_fault_counted :
    (after (.faultRaise 65 0) ((up .standby).updSrc 65 (fun x => { x with react := 0 }))).map
      (fun t => ((t.src 65).act, (t.src 65).recd, (t.src 65).cnt)) = some (1, true, 1) := by decide +kernel

/-- R685: `ERR_N` rises when nothing holds it. -/
theorem test_errn_release :
    (after .errNRelease ((up .run).wr FLT_ERRN.LOW 1)).map (fun t => t.rd FLT_ERRN.LOW) = some 0 := by decide +kernel

/-- R585: an invalid encoder frame counts and leaves the position. -/
theorem test_encoder_bad_frame :
    (after (.encoderFrame ⟨true, none, false⟩ 5) { atTick .run 2000 with mot := { MotS.reset with ext := 7 } }).map
      (fun t => (t.mot.ext, t.mot.badRun, t.rd MOT_ENCSTAT.FERR)) = some (7, 1, 1) := by decide +kernel

end Sys2Proof.Tests
end

namespace Sys2Proof.Machine

/-! ### Operations that leave the outputs alone -/

/-- What `only` allows adds up over two operations. -/
theorem State.only_trans {s t u : State} {ps : List Part} (h : s.only t ps) (k : t.only u ps) : s.only u ps :=
  ⟨k.1.trans h.1, fun p hp => by cases p <;> exact (k.2 _ hp).trans (h.2 _ hp)⟩

/-- A change of a source is a change of the collector alone. -/
theorem State.updSrc_only (s : State) (n : Src) (f : SrcS → SrcS) : s.only (s.updSrc n f) [.flt] :=
  State.only_mk (State.only_refl _ _) (h_flt := .inr (by decide))

/-- Constants that come into force are in the metrology alone (R283). -/
theorem State.takeCal_only (s : State) (n : Nat) : s.only (s.takeCal n) [.met] := by
  unfold State.takeCal
  split
  · exact State.only_refl _ _
  · exact State.only_foldl _ (fun t k h => State.only_mk h (h_met := .inr (by decide)))
      (State.only_mk (State.only_refl _ _) (h_met := .inr (by decide)))

/-! ### The outputs after a full reset -/

/-- R111: no gate is on, every `ISOn` is open, and `KDRA` and `KDRB` are low. -/
def State.outputsOff (t : State) : Prop :=
  (∀ c : Ch, (t.chan c).stage.gates = false ∧ (t.chan c).stage.iso = .opened) ∧ t.mot.gatesOff = true ∧
    t.saf.kdr = false

/-- The outputs stand in the channels, the press and the safety block. -/
theorem State.outputsOff_of_only {s t : State} (h : s.outputsOff) (ho : s.only t [.regs, .flt, .met]) :
    t.outputsOff := by
  have hch : t.ch = s.ch := ho.2 .ch (by decide)
  have hmot : t.mot = s.mot := ho.2 .mot (by decide)
  have hsaf : t.saf = s.saf := ho.2 .saf (by decide)
  simpa only [State.outputsOff, State.chan, hch, hmot, hsaf] using h

/-- Every kind of full reset puts the stage of a channel at reset. -/
theorem Chan.afterReset_stage (k : RstKind) (x : Chan) : (Chan.afterReset k x).stage = Stage.reset := by
  unfold Chan.afterReset
  split <;> rfl

/-! ### The reset cause -/

/-- A write of another field changes the register file alone and leaves the reset cause. -/
theorem State.wr_keepsCause {s t : State} {v : Nat} (h : s.only t [.regs] ∧ t.rd SYS_RSTCAUSE.CAUSE = v) (f : Fld)
    (x : Nat) (hf : f.key ≠ SYS_RSTCAUSE.CAUSE.key) :
    s.only (t.wr f x) [.regs] ∧ (t.wr f x).rd SYS_RSTCAUSE.CAUSE = v :=
  ⟨State.wr_only h.1 f x (by decide), (State.rd_wr_other t x hf).trans h.2⟩

/-- What a full reset records once its state is made: the cause, the wake record and the count of BOOTs (R109), and that
a dump is to be written again (R703, R704). The cause stays as written. -/
theorem State.resetRecord_spec (s : State) (cause wake boots : Nat) (again : Prop) [Decidable again] :
    let t := ((s.wr SYS_RSTCAUSE.CAUSE cause).wr SYS_RSTCAUSE.WAKE wake).wr SYS_RSTCAUSE.BOOTS boots
    let t := if t.rd FLT_DUMPSTAT.STATE = 2 then t.wr FLT_DUMPSTAT.STATE 1 else t
    let t := if again ∧ t.rb FLT_DUMPSTAT.SNAP_VALID then
      ((t.wb FLT_DUMPSTAT.REQ true).wb FLT_DUMPSTAT.TRACE_LOST true).wr FLT_DUMPSTAT.STATE 1 else t
    s.only t [.regs] ∧ t.rd SYS_RSTCAUSE.CAUSE = cause % 256 := by
  intro t t' t''
  have hcause : s.only (s.wr SYS_RSTCAUSE.CAUSE cause) [.regs] ∧
      (s.wr SYS_RSTCAUSE.CAUSE cause).rd SYS_RSTCAUSE.CAUSE = cause % 256 :=
    ⟨State.wr_only (State.only_refl _ _) _ _ (by decide), State.rd_wr_same _ _ _⟩
  have ht : s.only t [.regs] ∧ t.rd SYS_RSTCAUSE.CAUSE = cause % 256 :=
    State.wr_keepsCause (State.wr_keepsCause hcause SYS_RSTCAUSE.WAKE wake (by decide)) SYS_RSTCAUSE.BOOTS boots
      (by decide)
  have ht' : s.only t' [.regs] ∧ t'.rd SYS_RSTCAUSE.CAUSE = cause % 256 := by
    unfold t'
    split
    · exact State.wr_keepsCause ht FLT_DUMPSTAT.STATE 1 (by decide)
    · exact ht
  unfold t''
  split
  · have hreq := State.wr_keepsCause ht' FLT_DUMPSTAT.REQ (b2n true) (by decide)
    have hlost := State.wr_keepsCause hreq FLT_DUMPSTAT.TRACE_LOST (b2n true) (by decide)
    exact State.wr_keepsCause hlost FLT_DUMPSTAT.STATE 1 (by decide)
  · exact ht'

/-- The reset cause is read from the register file. -/
theorem State.look_cause (s : State) : s.look SYS_RSTCAUSE.CAUSE = s.rd SYS_RSTCAUSE.CAUSE := by
  have hshown : ¬ (SYS_RSTCAUSE.CAUSE.acc = .wo || (!s.isHead && headOnly SYS_RSTCAUSE.CAUSE.off &&
      decide (SYS_RSTCAUSE.CAUSE.off / 0x1000 = 2))) = true := by simp [SYS_RSTCAUSE.CAUSE]
  unfold State.look
  rw [if_neg hshown]
  rfl

/-- A full reset that no stronger one and no snapshot holds back (R19): the outputs are off (R111), the internal reset
is held with its kind, and its cause can be read (R109). -/
theorem State.fullReset_spec (s : State) (k : RstKind) (cause wake : Nat) (cut : Bool) (hheld : s.sys.held = none)
    (hwarm : k = .warm → s.flt.chipDue = none) :
    (s.fullReset k cause wake cut).outputsOff ∧ (s.fullReset k cause wake cut).sys.held = some k ∧
      (s.fullReset k cause wake cut).look SYS_RSTCAUSE.CAUSE = cause % 256 := by
  unfold State.fullReset
  extract_lets old stopped running closed boots r0 sys0 sec0 flt0 fltK saf0 met0 mot0 qd0 base locks cals t1 t2 t3 t4
  have hgo : ¬ ((s.sys.held.isSome = true ∧ k.rank < old) ∨ k = .warm ∧ s.flt.chipDue.isSome = true) := by
    rintro (⟨hs, -⟩ | ⟨hk, hs⟩)
    · simp [hheld] at hs
    · simp [hwarm hk] at hs
  rw [if_neg hgo]
  have hch : base.ch = bmap (Chan.afterReset k) closed.ch := rfl
  have hmot : base.mot.gatesOff = true := by
    show (if k = .warm then _ else MotS.reset).gatesOff = true
    split <;> rfl
  have hkdr : base.saf.kdr = false := rfl
  have hbase : base.sys.held = some k := rfl
  clear_value base
  have hoff : base.outputsOff := ⟨fun c => by simp [State.chan, hch, Chan.afterReset_stage, Stage.reset], hmot, hkdr⟩
  have hlocks : base.only locks [.regs, .flt, .met] := by
    unfold locks
    exact State.only_ite (State.only_refl _ _) (State.only_mono (State.updSrc_only _ _ _) (by decide))
  have hcals : locks.only cals [.regs, .flt, .met] := by
    unfold cals
    refine State.only_ite (State.only_foldl _ (fun t n h => ?_) (State.only_refl _ _)) (State.only_refl _ _)
    exact State.only_trans h (State.only_mono (State.takeCal_only t n) (by decide))
  obtain ⟨hrec, hcause⟩ := State.resetRecord_spec cals cause wake (if k = .por then 0 else boots) (k = .pin)
  have hall := State.only_trans (State.only_trans hlocks hcals) (State.only_mono hrec (by decide))
  exact ⟨State.outputsOff_of_only hoff hall, (congrArg SysS.held (hall.2 .sys (by decide))).trans hbase,
    (State.look_cause _).trans hcause⟩

end Sys2Proof.Machine

section
open Sys2Proof Sys2Proof.Machine

/-- Settles O8: every full reset that is carried out answers a state whose outputs are off (`State.fullReset_spec`), and
each event is such a reset, carried out on the state with its pin or supply gone. -/
theorem fullResetOpensOutputs : Obligations.FullResetOpensOutputs := by
  unfold Obligations.FullResetOpensOutputs
  intro s hheld off
  refine ⟨fun k cause wake cut hwarm => (s.fullReset_spec k cause wake cut hheld hwarm).1, ?por, ?brownout, ?pin,
    ?perst, ?flr⟩
  case por => exact ⟨_, rfl, State.fullReset_spec _ .por 1 0 false hheld nofun⟩
  case brownout =>
    intro r
    refine ⟨_, rfl, State.fullReset_spec _ .pin 3 0 _ ?_ nofun⟩
    exact hheld
  case pin =>
    intro hpark
    have hgo : ({ s with pins := { s.pins with rstN := false } } : State).parked = false := hpark
    refine ⟨_, rfl, ?_⟩
    rw [hgo]
    exact State.fullReset_spec _ .pin 2 0 false hheld nofun
  case perst =>
    intro hhead hpark hchip
    have hgo : ({ s with pins := { s.pins with perstN := false } } : State).parked = false := hpark
    refine ⟨({ s with pins := { s.pins with perstN := false } } : State).fullReset .warm 8 0 false, ?_,
      State.fullReset_spec _ .warm 8 0 false hheld (fun _ => hchip)⟩
    show execPerstNAssert s = _
    simp [execPerstNAssert, hhead, hgo]
  case flr =>
    intro hhead hpark hchip
    refine ⟨s.fullReset .warm 7 0 false, ?_, State.fullReset_spec _ .warm 7 0 false hheld (fun _ => hchip)⟩
    show execFunctionLevelReset s = _
    simp [execFunctionLevelReset, hhead, hpark]

end

namespace Sys2Proof.Machine

/-! ### What a safe-state request has stopped stays stopped -/

/-- Saving a ledger record leaves the stage. -/
theorem Chan.saveLedger_stage (x : Chan) : x.saveLedger.stage = x.stage := by
  dsimp only [Chan.saveLedger]
  split <;> rfl

/-- Saving a ledger record leaves the sequencer. -/
theorem Chan.saveLedger_seq (x : Chan) : x.saveLedger.seq = x.seq := by
  dsimp only [Chan.saveLedger]
  split <;> rfl

/-- No gate of the stage is on and its `ISOn` is open. -/
def Stage.isOpen (x : Stage) : Prop := x.gates = false ∧ x.iso = .opened

/-- From `s` to `t` nothing of a safe-state request is undone: mode and end of PARK entry are the same; a pending SAFE,
low enables, a void toggle, the latch with its first cause, gates off and open stages remain; gangs and reactions are the
same, and an active source stays active. -/
structure NoRelease (s t : State) : Prop where
  mode : t.sys.mode = s.sys.mode
  parkDone : t.sys.parkDone = s.sys.parkDone
  pending : s.sys.trans = some .safe → t.sys.trans = some .safe
  low : s.enablesLow → t.enablesLow
  toggled : s.saf.toggled = false → t.saf.toggled = false
  latch : s.rb SAF_STAT.LATCH = true → t.rb SAF_STAT.LATCH = true ∧ t.rd SAF_CAUSE.FIRST = s.rd SAF_CAUSE.FIRST
  motor : s.mot.gatesOff = true → t.mot.gatesOff = true
  stage : ∀ c : Ch, (s.chan c).stage.isOpen → (t.chan c).stage.isOpen
  gang : ∀ c : Ch, (t.seq c).lead = (s.seq c).lead ∧ (t.seq c).size = (s.seq c).size
  react : ∀ n : Src, (t.src n).react = (s.src n).react
  active : ∀ n : Src, s.active n = true → t.active n = true

namespace NoRelease

/-- Nothing changes. -/
theorem refl (s : State) : NoRelease s s :=
  ⟨rfl, rfl, id, id, id, fun h => ⟨h, rfl⟩, id, fun _ => id, fun _ => ⟨rfl, rfl⟩, fun _ => rfl, fun _ => id⟩

/-- One operation after another. -/
theorem trans {s t u : State} (h : NoRelease s t) (k : NoRelease t u) : NoRelease s u where
  mode := k.mode.trans h.mode
  parkDone := k.parkDone.trans h.parkDone
  pending := k.pending ∘ h.pending
  low := k.low ∘ h.low
  toggled := k.toggled ∘ h.toggled
  latch hs := ⟨(k.latch (h.latch hs).1).1, (k.latch (h.latch hs).1).2.trans (h.latch hs).2⟩
  motor := k.motor ∘ h.motor
  stage c := k.stage c ∘ h.stage c
  gang c := ⟨(k.gang c).1.trans (h.gang c).1, (k.gang c).2.trans (h.gang c).2⟩
  react n := (k.react n).trans (h.react n)
  active n := k.active n ∘ h.active n

/-- One of two ways. -/
theorem ite {s t u : State} {p : Prop} [Decidable p] (h : NoRelease s t) (k : NoRelease s u) :
    NoRelease s (if p then t else u) := by
  split
  · exact h
  · exact k

/-- A walk through a list. -/
theorem foldl {α : Type} {f : State → α → State} {s t : State} (h : NoRelease s t) (l : List α)
    (k : ∀ t a, NoRelease s t → NoRelease s (f t a)) : NoRelease s (l.foldl f t) := by
  induction l generalizing t with
  | nil => exact h
  | cons a l ih => exact ih (k t a h)

/-- An operation outside the mode, the safety block, the press, the channels and the sources, which writes neither the
latch nor the first cause. -/
theorem of_same {s t u : State} (h : NoRelease s t) (hsys : u.sys = t.sys) (hsaf : u.saf = t.saf) (hmot : u.mot = t.mot)
    (hch : u.ch = t.ch) (hsrc : u.flt.srcs = t.flt.srcs) (hlatch : u.rd SAF_STAT.LATCH = t.rd SAF_STAT.LATCH)
    (hfirst : u.rd SAF_CAUSE.FIRST = t.rd SAF_CAUSE.FIRST) : NoRelease s u :=
  h.trans
    { mode := by rw [hsys]
      parkDone := by rw [hsys]
      pending := by rw [hsys]; exact id
      low := by unfold State.enablesLow; rw [hsaf]; exact id
      toggled := by rw [hsaf]; exact id
      latch := fun hl => ⟨by unfold State.rb at hl ⊢; unfold State.rd at hlatch; rwa [hlatch], hfirst⟩
      motor := by rw [hmot]; exact id
      stage := fun c => by unfold State.chan; rw [hch]; exact id
      gang := fun c => by unfold State.seq State.chan; rw [hch]; exact ⟨rfl, rfl⟩
      react := fun n => by unfold State.src; rw [hsrc]
      active := fun n => by unfold State.active State.src; rw [hsrc]; exact id }

/-- A write of a field other than the latch and the first cause. -/
theorem wr {s t : State} (h : NoRelease s t) (f : Fld) (v : Nat)
    (hf : f.key ≠ SAF_STAT.LATCH.key ∧ f.key ≠ SAF_CAUSE.FIRST.key) : NoRelease s (t.wr f v) :=
  h.of_same rfl rfl rfl rfl rfl (State.rd_wr_other t v hf.1) (State.rd_wr_other t v hf.2)

/-- A change of the safety block that raises no enable and makes no toggle count. -/
theorem saf {s t : State} (h : NoRelease s t) (x : SafS)
    (hlow : t.enablesLow → x.cen = false ∧ x.ien = false ∧ x.men = false)
    (htog : t.saf.toggled = false → x.toggled = false) : NoRelease s { t with saf := x } :=
  h.trans { refl t with low := hlow, toggled := htog }

/-- A change of the press that turns no gate on. -/
theorem mot {s t : State} (h : NoRelease s t) (x : MotS) (hoff : t.mot.gatesOff = true → x.gatesOff = true) :
    NoRelease s { t with mot := x } :=
  h.trans { refl t with motor := hoff }

/-- A change of the system that keeps mode, the end of PARK entry and a pending SAFE. -/
theorem sys {s t : State} (h : NoRelease s t) (x : SysS) (hmode : x.mode = t.sys.mode)
    (hpark : x.parkDone = t.sys.parkDone) (htrans : t.sys.trans = some .safe → x.trans = some .safe) : NoRelease s { t with sys := x } :=
  h.trans { refl t with mode := hmode, parkDone := hpark, pending := htrans }

/-- A change of a channel that keeps an open stage open and the channel in its gang. -/
theorem updCh {s t : State} (h : NoRelease s t) (c : Ch) (f : Chan → Chan)
    (ho : ∀ x : Chan, x.stage.isOpen → (f x).stage.isOpen)
    (hg : ∀ x : Chan, (f x).seq.lead = x.seq.lead ∧ (f x).seq.size = x.seq.size) : NoRelease s (t.updCh c f) := by
  refine h.trans { refl t with stage := fun d => ?_, gang := fun d => ?_ }
  · by_cases hd : c = d
    · subst hd
      rw [State.chan_updCh_same]
      exact ho _
    · rw [State.chan_updCh_other t f hd]
      exact id
  · unfold State.seq
    by_cases hd : c = d
    · subst hd
      rw [State.chan_updCh_same]
      exact hg _
    · rw [State.chan_updCh_other t f hd]
      exact ⟨rfl, rfl⟩

/-- A change of a stage that keeps an open one open. -/
theorem updStage {s t : State} (h : NoRelease s t) (c : Ch) (f : Stage → Stage)
    (ho : ∀ x : Stage, x.isOpen → (f x).isOpen) : NoRelease s (t.updStage c f) :=
  h.updCh c _ (fun x => ho x.stage) (fun _ => ⟨rfl, rfl⟩)

/-- A change of a sequencer that keeps its channel in its gang. -/
theorem updSeq {s t : State} (h : NoRelease s t) (c : Ch) (f : ChanS → ChanS)
    (hg : ∀ x : ChanS, (f x).lead = x.lead ∧ (f x).size = x.size) : NoRelease s (t.updSeq c f) :=
  h.updCh c _ (fun _ => id) (fun x => hg x.seq)

/-- A change of a loop. -/
theorem updLoop {s t : State} (h : NoRelease s t) (c : Ch) (f : LoopS → LoopS) : NoRelease s (t.updLoop c f) :=
  h.updCh c _ (fun _ => id) (fun _ => ⟨rfl, rfl⟩)

/-- A change of a ledger with its copies. -/
theorem ledger {s t : State} (h : NoRelease s t) (c : Ch) (f : Ledger → Ledger) : NoRelease s (t.ledger c f) := by
  refine h.updCh c _ (fun x hx => ?_) (fun x => ?_)
  · rwa [Chan.saveLedger_stage]
  · rw [Chan.saveLedger_seq]
    exact ⟨rfl, rfl⟩

/-- A change of a source that keeps its reaction and clears it nowhere. -/
theorem updSrc {s t : State} (h : NoRelease s t) (n : Src) (f : SrcS → SrcS)
    (hr : (f (t.src n)).react = (t.src n).react) (ha : (t.src n).act ≠ 0 → (f (t.src n)).act ≠ 0) : NoRelease s (t.updSrc n f) := by
  refine h.trans { refl t with react := fun m => ?_, active := fun m => ?_ }
  · by_cases hm : n = m
    · subst hm
      rw [State.src_updSrc_same]
      exact hr
    · rw [State.src_updSrc_other t f hm]
  · unfold State.active
    by_cases hm : n = m
    · subst hm
      rw [State.src_updSrc_same]
      simpa using ha
    · rw [State.src_updSrc_other t f hm]
      exact id

end NoRelease

end Sys2Proof.Machine

namespace Sys2Proof.Machine

/-! ### Operations that release nothing -/

/-- A write of a field behind the registers of the latch and the first cause. -/
theorem NoRelease.wrHigh {s t : State} (h : NoRelease s t) (f : Fld) (v : Nat) (hoff : 0x4008 ≤ f.off) :
    NoRelease s (t.wr f v) := by
  have hkey : 32 * f.off ≤ f.key := by unfold Fld.key; omega
  refine h.wr f v ⟨?_, ?_⟩ <;> simp only [Fld.key, SAF_STAT.LATCH, SAF_CAUSE.FIRST] at hkey ⊢ <;> omega

/-- An event is posted (R459). -/
theorem State.event_noRelease {s t : State} (h : NoRelease s t) (a b c : Nat) : NoRelease s (t.event a b c) :=
  h.of_same (by simp) (by simp) (by simp) (by simp) (by simp) (by simp) (by simp)

/-- A trace is triggered: what it writes lies in its quad. -/
theorem State.traceFire_noRelease {s t : State} (h : NoRelease s t) (q : Quad) : NoRelease s (t.traceFire q) := by
  unfold State.traceFire
  extract_lets t1 t2 t3
  refine NoRelease.ite ?_ h
  have h1 : NoRelease s t1 := h.wrHigh _ _ (Nat.le_add_right_of_le (by decide))
  have h2 : NoRelease s t2 :=
    (h1.wrHigh (QD_TRTICKL.TICK_LO q) _ (Nat.le_add_right_of_le (by decide))).wrHigh _ _
      (Nat.le_add_right_of_le (by decide))
  have h3 : NoRelease s t3 := h2.of_same rfl rfl rfl rfl rfl rfl rfl
  exact h3.wrHigh _ _ (Nat.le_add_right_of_le (by decide))

/-- A trigger acts in every quad that accepts it (R260). -/
theorem State.traceTrig_noRelease {s t : State} (h : NoRelease s t) (q : Quad) (n : Nat) :
    NoRelease s (t.traceTrig q n) := by
  unfold State.traceTrig
  exact .ite ((State.traceFire_noRelease h q).foldl _ (fun _ p k => .ite (State.traceFire_noRelease k p) k)) h

/-- A device-wide trigger. -/
theorem State.traceAll_noRelease {s t : State} (h : NoRelease s t) (n : Nat) : NoRelease s (t.traceAll n) :=
  h.foldl _ (fun _ q k => State.traceTrig_noRelease k q n)

/-- A capture ends. -/
theorem State.traceStop_noRelease {s t : State} (h : NoRelease s t) (q : Quad) : NoRelease s (t.traceStop q) := by
  unfold State.traceStop
  refine NoRelease.ite ?_ h
  exact (h.wrHigh (QD_TRCTL.EN q) 0 (Nat.le_add_right_of_le (by decide))).wrHigh _ _
    (Nat.le_add_right_of_le (by decide))

/-- `ERR_N` is pulled low. -/
theorem State.errPull_noRelease {s t : State} (h : NoRelease s t) : NoRelease s t.errPull := by
  unfold State.errPull
  refine NoRelease.ite h (.wr ?_ FLT_ERRN.LOW 1 (by decide))
  exact h.of_same rfl rfl rfl rfl rfl rfl rfl

/-- A dump is triggered. -/
theorem State.dumpTrigger_noRelease {s t : State} (h : NoRelease s t) (trigger first : Nat) :
    NoRelease s (t.dumpTrigger trigger first) := by
  unfold State.dumpTrigger
  extract_lets snap traced flt copying
  refine NoRelease.ite (h.wr FLT_DUMPSTAT.MISSED _ (by decide)) ?_
  have htraced : NoRelease s traced := State.traceAll_noRelease h 8
  clear_value traced
  have hcopying : NoRelease s copying := htraced.of_same rfl rfl rfl rfl rfl rfl rfl
  exact hcopying.foldl _ (fun _ q k => State.traceStop_noRelease k q)

/-- A raise triggers the traces that wait for it. -/
theorem State.faultTrig_noRelease {s t : State} (h : NoRelease s t) (n : Src) (c : Ch) :
    NoRelease s (t.faultTrig n c) := by
  unfold State.faultTrig
  have hq := State.traceTrig_noRelease h (quadOf c) 6
  refine NoRelease.ite (State.traceAll_noRelease h 6) (.ite ?_ h)
  exact .ite (State.traceTrig_noRelease hq _ _) (.ite (State.traceTrig_noRelease hq _ _) hq)

/-- The contactors drop. -/
theorem State.kdrLow_noRelease {s t : State} (h : NoRelease s t) : NoRelease s t.kdrLow := by
  unfold State.kdrLow
  refine NoRelease.ite (.wr ?_ SAF_KSTAT.STATE 3 (by decide)) ?_
  · exact h.saf _ id id
  · exact h.saf _ id id

/-- A pending mode command is abandoned (R85): only a pending SAFE would be given up with it. -/
theorem State.abandon_noRelease {s t : State} (h : NoRelease s t) (status : Nat) (hsafe : t.sys.trans ≠ some .safe) :
    NoRelease s (t.abandon status) := by
  unfold State.abandon
  split
  · refine NoRelease.ite ?_ h
    have hend : NoRelease s { t with sys := { t.sys with trans := none } } :=
      h.sys { t.sys with trans := none } rfl rfl (fun k => absurd k hsafe)
    exact hend.of_same (by simp) (by simp) (by simp) (by simp) (by simp) (by simp) (by simp)
  · exact h

/-! ### Channels and press -/

/-- Gates off in a channel, whose loop opens with it. -/
theorem State.gatesOff1_noRelease {s t : State} (h : NoRelease s t) (c : Ch) : NoRelease s (t.gatesOff1 c) := by
  unfold State.gatesOff1 State.openLoop
  have hgates : NoRelease s (t.updStage c (fun x => { x with gates := false })) :=
    h.updStage c _ (fun _ hx => ⟨rfl, hx.2⟩)
  extract_lets on off opened
  have hopen : NoRelease s opened := NoRelease.updSeq (hgates.updLoop c _) c _ (fun _ => ⟨rfl, rfl⟩)
  exact .ite (hopen.updLoop c _) hopen

/-- A protective opening. -/
theorem State.protOpen_noRelease {s t : State} (h : NoRelease s t) (c : Ch) : NoRelease s (t.protOpen c) :=
  h.foldl _ (fun _ d k => (State.gatesOff1_noRelease k d).updStage d _ (fun _ hx => ⟨hx.1, rfl⟩))

/-- A staged opening leaves an open switch open. -/
theorem State.stagedOpen_noRelease {s t : State} (h : NoRelease s t) (c : Ch) : NoRelease s (t.stagedOpen c) :=
  h.foldl _ (fun _ d k => (State.gatesOff1_noRelease k d).updStage d _ (fun _ hx => ⟨hx.1, if_pos hx.2⟩))

/-- A channel enters HOLD. -/
theorem State.enterHold_noRelease {s t : State} (h : NoRelease s t) (c : Ch) (why : Nat) :
    NoRelease s (t.enterHold c why) := by
  unfold State.enterHold
  exact (State.stagedOpen_noRelease h c).updSeq c _ (fun _ => ⟨rfl, rfl⟩)

/-- A step fails. -/
theorem State.failStep_noRelease {s t : State} (h : NoRelease s t) (c : Ch) (reason detail : Nat) :
    NoRelease s (t.failStep c reason detail) := by
  unfold State.failStep
  extract_lets why
  split
  · exact .ite (State.enterHold_noRelease (h.ledger c _) c why) h
  · refine .ite h (.ite (h.updSeq c _ (fun _ => ⟨rfl, rfl⟩)) ?_)
    exact (State.enterHold_noRelease h c why).updSeq c _ (fun _ => ⟨rfl, rfl⟩)

/-- The motor's gates go off. -/
theorem State.motGatesOff_noRelease {s t : State} (h : NoRelease s t) : NoRelease s t.motGatesOff :=
  .wr (h.mot _ (fun _ => rfl)) MOT_STAT.ASHORT 0 (by decide)

/-- The running motion command completes. -/
theorem State.motComplete_noRelease {s t : State} (h : NoRelease s t) (reason detail : Nat) :
    NoRelease s (t.motComplete reason detail) := by
  unfold State.motComplete
  split
  · exact h
  · extract_lets posted mot ended
    have hposted : NoRelease s posted := h.of_same rfl rfl rfl rfl rfl rfl rfl
    have hended : NoRelease s ended := hposted.mot _ id
    exact hended.of_same rfl rfl rfl rfl rfl rfl rfl

/-- Torque off on entry to SAFE (R600). -/
theorem State.motTorqueOff_noRelease {s t : State} (h : NoRelease s t) : NoRelease s t.motTorqueOff := by
  unfold State.motTorqueOff
  refine .ite (State.motGatesOff_noRelease (.wr (State.motComplete_noRelease h _ _) MOT_STAT.STATE 5 (by decide))) ?_
  have hfree : NoRelease s { t with mot := { t.mot with hold := .none } } := h.mot _ id
  exact State.motGatesOff_noRelease (.ite hfree (hfree.wr MOT_STAT.STATE 0 (by decide)))

/-- The torque is off in every case. -/
theorem State.motTorqueOff_gatesOff (s : State) : s.motTorqueOff.mot.gatesOff = true := by
  unfold State.motTorqueOff
  split <;> rfl

end Sys2Proof.Machine

namespace Sys2Proof.Machine

/-! ### The safe-state request -/

/-- The code of a cause fits its field (R668). -/
theorem causeCode_lt (x : SafeCause) : causeCode x < 256 := by
  cases x <;> simp only [causeCode] <;> omega

/-- A first cause is recorded (R87): the latch is set and holds its code. -/
theorem State.firstCause_noRelease {s : State} (hl : s.rb SAF_STAT.LATCH = false) (x : SafeCause) (p : Nat) :
    let t := ((s.wb SAF_STAT.LATCH true).wr SAF_CAUSE.FIRST (causeCode x)).wr SAF_CAUSE.POS p
    NoRelease s t ∧ t.rb SAF_STAT.LATCH = true ∧ t.rd SAF_CAUSE.FIRST = causeCode x := by
  intro t
  have hset : (s.wb SAF_STAT.LATCH true).rd SAF_STAT.LATCH = 1 := State.rd_wr_same _ _ _
  have hfirst : ((s.wb SAF_STAT.LATCH true).wr SAF_CAUSE.FIRST (causeCode x)).rd SAF_CAUSE.FIRST = causeCode x := by
    rw [State.rd_wr_same]
    exact Nat.mod_eq_of_lt (causeCode_lt x)
  have hlatch : t.rd SAF_STAT.LATCH = 1 :=
    ((State.rd_wr_other _ _ (by decide)).trans (State.rd_wr_other _ _ (by decide))).trans hset
  exact ⟨{ NoRelease.refl s with latch := fun k => absurd k (by simp [hl]) }, decide_eq_true hlatch,
    (State.rd_wr_other _ _ (by decide)).trans hfirst⟩

/-- A cause is recorded (R87): the latch is set, its first cause stays or is this one, and a toggle is void (R92). -/
theorem State.latchCause_spec (s : State) (x : SafeCause) :
    NoRelease s (s.latchCause x) ∧ (s.latchCause x).sys = s.sys ∧ (s.latchCause x).rb SAF_STAT.LATCH = true ∧
      (s.rb SAF_STAT.LATCH = false → (s.latchCause x).rd SAF_CAUSE.FIRST = causeCode x) ∧
      (s.latchCause x).saf.toggled = false := by
  unfold State.latchCause
  extract_lets set latched saf void
  have hlatched : NoRelease s latched ∧ latched.sys = s.sys ∧ latched.rb SAF_STAT.LATCH = true ∧
      (s.rb SAF_STAT.LATCH = false → latched.rd SAF_CAUSE.FIRST = causeCode x) := by
    unfold latched
    split
    next hl => exact ⟨.refl s, rfl, hl, fun k => absurd hl (by simp [k])⟩
    next hl =>
      have hnew (p : Nat) := State.firstCause_noRelease (Bool.eq_false_iff.2 hl) x p
      split
      · exact ⟨(hnew _).1, rfl, (hnew _).2.1, fun _ => (hnew _).2.2⟩
      · exact ⟨(hnew _).1, rfl, (hnew _).2.1, fun _ => (hnew _).2.2⟩
  obtain ⟨hrel, hsys, hlatch, hfirst⟩ := hlatched
  clear_value latched
  have hvoid : NoRelease latched void := NoRelease.saf (.refl _) _ id (fun _ => rfl)
  have hend (t : State) (ht : NoRelease latched t) (hts : t.sys = latched.sys) (htog : t.saf.toggled = false) :
      NoRelease s t ∧ t.sys = s.sys ∧ t.rb SAF_STAT.LATCH = true ∧
        (s.rb SAF_STAT.LATCH = false → t.rd SAF_CAUSE.FIRST = causeCode x) ∧ t.saf.toggled = false :=
    ⟨hrel.trans ht, hts.trans hsys, (ht.latch hlatch).1, fun k => (ht.latch hlatch).2.trans (hfirst k), htog⟩
  cases x with
  | sf n =>
    refine hend _ (NoRelease.wr ?_ SAF_CAUSEV.SF _ (by decide)) rfl rfl
    exact hvoid.saf _ id id
  | ringWdog r => cases r <;> exact hend _ (.wr hvoid SAF_CAUSEV.OTHER _ (by decide)) rfl rfl
  | _ => exact hend _ (.wr hvoid SAF_CAUSEV.OTHER _ (by decide)) rfl rfl

/-- The cause is latched and the enable lines are low (R87, R619): what a safe-state request does in every mode. -/
def State.latchLow (s : State) (x : SafeCause) : State :=
  let t := s.latchCause x
  { t with saf := { t.saf with cen := false, ien := false, men := false, ss1 := none, menAt := none } }

/-- The device goes to SAFE from STANDBY, RUN or SERVICE (R80, R746): what the first safe-state request does there and a
further one does not do again. -/
def State.goSafe (s : State) (atOnce : Bool) : State :=
  let s := ((s.abandon 4).safeChannels.motTorqueOff).traceAll 7
  let s := { s.errPull with sys := { s.sys with trans := some .safe } }
  let s := if s.rb FLT_DUMPCTL.TRG_SAFE then s.dumpTrigger 4 0xFF else s
  if atOnce then s.kdrLow
  else if s.saf.kdr then { s with saf := { s.saf with kDropAt := some (s.clk + msTicks s.per (s.pset 3)) } }
  else s

/-- The modes from which a safe-state request leads to SAFE at the next boundary (R80). -/
def State.driven (s : State) : Prop :=
  s.sys.parkDone = false ∧ (s.sys.mode = .standby ∨ s.sys.mode = .run ∨ s.sys.mode = .service)

/-- A safe-state request in STANDBY, RUN and SERVICE, first or again (R81). -/
theorem State.safeReq_driven (s : State) (x : SafeCause) (atOnce : Bool) (h : s.driven) :
    s.safeReq x atOnce =
      if s.sys.trans = some .safe then (if atOnce then (s.latchLow x).kdrLow else s.latchLow x)
      else (s.latchLow x).goSafe atOnce := by
  obtain ⟨hpark, hmode⟩ := h
  have hsys : (s.latchLow x).sys = s.sys := (s.latchCause_spec x).2.1
  unfold State.safeReq
  extract_lets +onlyGivenNames latched saf low
  have hlow : low = s.latchLow x := rfl
  clear_value low
  subst hlow
  rw [hsys, hpark]
  rcases hmode with hm | hm | hm <;> rw [hm] <;> rfl

/-- The latch and the enables: everything a request does in every mode. -/
theorem State.latchLow_spec (s : State) (x : SafeCause) :
    NoRelease s (s.latchLow x) ∧ (s.latchLow x).sys = s.sys ∧ (s.latchLow x).rb SAF_STAT.LATCH = true ∧
      (s.rb SAF_STAT.LATCH = false → (s.latchLow x).rd SAF_CAUSE.FIRST = causeCode x) ∧
      (s.latchLow x).saf.toggled = false ∧ (s.latchLow x).enablesLow := by
  obtain ⟨hrel, hsys, hlatch, hfirst, htog⟩ := s.latchCause_spec x
  exact ⟨hrel.saf _ (fun _ => ⟨rfl, rfl, rfl⟩) id, hsys, hlatch, hfirst, htog, rfl, rfl, rfl⟩

/-! ### Every channel opens -/

/-- A walk that opens each channel it visits, and releases none, leaves all of them open. -/
theorem State.forCh_opens {f : State → Ch → State} {s₀ s : State} (hs : NoRelease s₀ s) (l : List Ch)
    (hrel : ∀ t a, NoRelease t (f t a)) (hopen : ∀ t a, NoRelease s₀ t → ((f t a).chan a).stage.isOpen) {c : Ch}
    (hc : c ∈ l) : ((s.forCh l f).chan c).stage.isOpen := by
  induction l generalizing s with
  | nil => exact absurd hc (List.not_mem_nil)
  | cons a l ih =>
    have hstep : NoRelease s₀ (f s a) := hs.trans (hrel s a)
    rcases List.mem_cons.1 hc with rfl | hc
    · exact (NoRelease.foldl (.refl _) l (fun t b k => k.trans (hrel t b))).stage c (hopen s c hs)
    · exact ih hstep hc

/-- Gates off in a channel. -/
theorem State.gatesOff1_gates (s : State) (c : Ch) : ((s.gatesOff1 c).chan c).stage.gates = false := by
  dsimp only [State.gatesOff1, State.openLoop]
  split <;> simp

/-- A protective opening opens every channel of the gang (R153, R194). -/
theorem State.protOpen_opens (s : State) {c d : Ch} (hd : d ∈ s.gang c) : ((s.protOpen c).chan d).stage.isOpen := by
  refine State.forCh_opens (.refl s) _ (fun t a => ?_) (fun t a _ => ?_) hd
  · exact (State.gatesOff1_noRelease (.refl t) a).updStage a _ (fun _ hx => ⟨hx.1, rfl⟩)
  · rw [State.chan_updStage_same]
    exact ⟨t.gatesOff1_gates a, rfl⟩

/-- A gang is the same while every channel stays in its gang. -/
theorem NoRelease.gang_eq {s t : State} (h : NoRelease s t) (c : Ch) : t.gang c = s.gang c := by
  have hleader : t.leader c = s.leader c := by unfold State.leader; rw [(h.gang c).1]
  unfold State.gang State.members
  rw [hleader, (h.gang _).2]

/-- The step of a channel ends on SAFE entry (R395). -/
theorem State.safeStepEnd_noRelease {s t : State} (h : NoRelease s t) (c : Ch) :
    NoRelease s (if t.activeIn 15 c then t.failStep c rSAFETY 0 else t.failStep c rFAULT dSAFE) :=
  .ite (State.failStep_noRelease h _ _ _) (State.failStep_noRelease h _ _ _)

/-- SAFE entry of the channels releases nothing. -/
theorem State.safeChannels_noRelease {s t : State} (h : NoRelease s t) : NoRelease s t.safeChannels :=
  h.foldl _ (fun _ c k => .wrHigh (State.protOpen_noRelease (State.safeStepEnd_noRelease k c) c) _ _
    (Nat.le_add_right_of_le (by decide)))

/-- Every channel is in its own gang, so that SAFE entry opens them all (R154). -/
theorem State.safeChannels_opens {s : State} (hg : ∀ a : Ch, a ∈ s.gang a) (c : Ch) :
    (s.safeChannels.chan c).stage.isOpen := by
  refine State.forCh_opens (.refl s) allCh (fun t a => ?_) (fun t a ht => ?_) (List.mem_finRange c)
  · exact .wrHigh (State.protOpen_noRelease (State.safeStepEnd_noRelease (.refl t) a) a) _ _
      (Nat.le_add_right_of_le (by decide))
  · rw [State.wr_chan]
    exact State.protOpen_opens _ ((State.safeStepEnd_noRelease ht a).gang_eq a ▸ hg a)

/-- Pulling `ERR_N` leaves the system. -/
theorem State.errPull_sys (s : State) : s.errPull.sys = s.sys := by
  unfold State.errPull
  split <;> rfl

/-- The device goes to SAFE: nothing is released, SAFE is pending, the press has no torque and every channel is open. -/
theorem State.goSafe_spec {s : State} (hsafe : s.sys.trans ≠ some .safe) (hg : ∀ a : Ch, a ∈ s.gang a)
    (atOnce : Bool) :
    NoRelease s (s.goSafe atOnce) ∧ (s.goSafe atOnce).sys.trans = some .safe ∧
      (s.goSafe atOnce).mot.gatesOff = true ∧ ∀ c : Ch, ((s.goSafe atOnce).chan c).stage.isOpen := by
  have habandon := State.abandon_noRelease (.refl s) 4 hsafe
  have hopen := State.safeChannels_opens (s := s.abandon 4) (fun a => habandon.gang_eq a ▸ hg a)
  have hchannels := State.safeChannels_noRelease habandon
  have hmotor := State.motTorqueOff_gatesOff (s.abandon 4).safeChannels
  have htorque := State.motTorqueOff_noRelease (.refl (s.abandon 4).safeChannels)
  unfold State.goSafe
  extract_lets traced errn sys pending dumped saf
  have htraced : NoRelease (s.abandon 4).safeChannels.motTorqueOff traced := State.traceAll_noRelease (.refl _) 7
  have herrn : NoRelease (s.abandon 4).safeChannels.motTorqueOff errn := State.errPull_noRelease htraced
  have hsys : errn.sys = traced.sys := State.errPull_sys traced
  have hpending : NoRelease (s.abandon 4).safeChannels.motTorqueOff pending :=
    herrn.sys _ (by rw [hsys]) (by rw [hsys]) (fun _ => rfl)
  have hdumped : NoRelease pending dumped := .ite (State.dumpTrigger_noRelease (.refl _) _ _) (.refl _)
  have hpend : pending.sys.trans = some .safe := rfl
  clear_value dumped pending
  have hend (t : State) (ht : NoRelease pending t) : NoRelease s t ∧ t.sys.trans = some .safe ∧
      t.mot.gatesOff = true ∧ ∀ c : Ch, (t.chan c).stage.isOpen :=
    have hlate := hpending.trans ht
    ⟨(State.motTorqueOff_noRelease hchannels).trans hlate, ht.pending hpend, hlate.motor hmotor,
      fun c => hlate.stage c (htorque.stage c (hopen c))⟩
  split
  · exact hend _ (State.kdrLow_noRelease hdumped)
  · split
    · exact hend _ (hdumped.saf _ id id)
    · exact hend _ hdumped

/-! ### The request and the source of its cause -/

/-- While SAFE is pending a further request releases nothing. -/
theorem State.safeReq_noRelease {s t : State} (h : NoRelease s t) (hd : s.driven) (hsafe : s.sys.trans = some .safe)
    (x : SafeCause) (atOnce : Bool) : NoRelease s (t.safeReq x atOnce) := by
  have hdt : t.driven := by
    obtain ⟨hpark, hmode⟩ := hd
    exact ⟨h.parkDone.trans hpark, by rwa [h.mode]⟩
  have hlow : NoRelease s (t.latchLow x) := h.trans (t.latchLow_spec x).1
  rw [State.safeReq_driven t x atOnce hdt, if_pos (h.pending hsafe)]
  exact .ite (State.kdrLow_noRelease hlow) hlow

/-- What a safe-state request leaves (R81, R87, R619). -/
structure State.stopped (t : State) : Prop where
  low : t.enablesLow
  pending : t.sys.trans = some .safe
  latch : t.rb SAF_STAT.LATCH = true
  toggled : t.saf.toggled = false
  motor : t.mot.gatesOff = true
  stage : ∀ c : Ch, (t.chan c).stage.isOpen

/-- What releases nothing keeps the device stopped. -/
theorem NoRelease.stopped {s t : State} (h : NoRelease s t) (hs : s.stopped) : t.stopped :=
  ⟨h.low hs.low, h.pending hs.pending, (h.latch hs.latch).1, h.toggled hs.toggled, h.motor hs.motor,
    fun c => h.stage c (hs.stage c)⟩

/-- A first safe-state request in STANDBY, RUN or SERVICE stops everything, and an unset latch takes its cause. -/
theorem State.safeReq_stops {s : State} (hd : s.driven) (hsafe : s.sys.trans ≠ some .safe) (hg : s.gangsOk)
    (x : SafeCause) (atOnce : Bool) :
    NoRelease s (s.safeReq x atOnce) ∧ (s.safeReq x atOnce).stopped ∧
      (s.rb SAF_STAT.LATCH = false → (s.safeReq x atOnce).rd SAF_CAUSE.FIRST = causeCode x) := by
  obtain ⟨hrel, hsys, hlatch, hfirst, htog, hlow⟩ := s.latchLow_spec x
  have hgang (a : Ch) : a ∈ (s.latchLow x).gang a := by
    rw [hrel.gang_eq]
    exact (hg a).2.1
  obtain ⟨hgo, htrans, hmotor, hopen⟩ := State.goSafe_spec (s := s.latchLow x) (by rwa [hsys]) hgang atOnce
  rw [State.safeReq_driven s x atOnce hd, if_neg hsafe]
  exact ⟨hrel.trans hgo, ⟨hgo.low hlow, htrans, (hgo.latch hlatch).1, hgo.toggled htog, hmotor, hopen⟩,
    fun hl => (hgo.latch hlatch).2.trans (hfirst hl)⟩

/-- A cause of a vector arises. -/
theorem State.irq_noRelease {s t : State} (h : NoRelease s t) (v : Fin 8) : NoRelease s (t.irq v) :=
  h.of_same rfl rfl rfl rfl rfl rfl rfl

/-- Something is sent outside. -/
theorem State.emit_noRelease {s t : State} (h : NoRelease s t) (o : Out) : NoRelease s (t.emit o) :=
  h.of_same rfl rfl rfl rfl rfl rfl rfl

/-- The raise of a listed source without a reset in its reaction, while SAFE is pending: nothing is released and the
source is active. -/
theorem State.raiseAs_noRelease {s : State} (hd : s.driven) (hsafe : s.sys.trans = some .safe) (n : Src) (c : Ch)
    (x : SafeCause) (hlisted : srcListed n.val = true) (hbit : actBit n c ≠ 0) (hq : s.quiet n) :
    NoRelease s (s.raiseAs n c x) ∧ (s.raiseAs n c x).active n = true := by
  unfold State.raiseAs
  extract_lets bit old atOnce holds marked posted react seqIrq nmi place code recorded pulled first traced dump dumped
    asked
  have hholds : NoRelease s holds := .updSrc (.refl s) n _ rfl id
  rw [if_neg (by simp [hlisted])]
  split
  next hact =>
    have hon : s.active n = true := by
      refine decide_eq_true (fun h0 => hact ?_)
      show (s.src n).act &&& bit = 0
      rw [h0]
      exact BitVec.zero_and
    have hrel : NoRelease s (if (bitN old.react 5 && decide (old.cond &&& bit = 0)) = true
        then holds.safeReq x atOnce else holds) := .ite (State.safeReq_noRelease hholds hd hsafe x atOnce) hholds
    exact ⟨hrel, hrel.active n hon⟩
  next hact =>
    have hmarked : NoRelease s marked := .updSrc hholds n _ rfl (fun h0 h1 => h0 (BitVec.or_eq_zero_iff.1 h1).1)
    have hon : marked.active n = true := by
      refine decide_eq_true (fun h0 => hbit ?_)
      rw [State.src_updSrc_same] at h0
      exact (BitVec.or_eq_zero_iff.1 h0).2
    have hposted : NoRelease marked posted := State.event_noRelease (.refl _) _ _ _
    clear_value posted
    have hseq : NoRelease marked seqIrq := .ite (State.emit_noRelease (State.irq_noRelease hposted _) _) hposted
    have hnmi : NoRelease marked nmi := .ite (State.emit_noRelease hseq _) hseq
    have hplace : NoRelease marked place := .wr (.wr hnmi FLT_LREC0.SRC _ (by decide)) FLT_LREC0.CHAN _ (by decide)
    have hcode : NoRelease marked code := .wr (.wr hplace FLT_LREC0.MODE _ (by decide)) FLT_LREC0.REACT _ (by decide)
    have hrecorded : NoRelease marked recorded :=
      .ite (.wr (.wr (.wr hcode FLT_LREC0.VALID _ (by decide)) FLT_LREC1.TICK_LO _ (by decide)) FLT_LREC2.TICK_HI _
        (by decide)) hnmi
    have hpulled : NoRelease marked pulled := State.errPull_noRelease hrecorded
    have hfirst : NoRelease marked first :=
      .ite (.ite hpulled (.wr (.wr hpulled FLT_FIRST.SRC _ (by decide)) FLT_FIRST.VALID _ (by decide))) hrecorded
    have htraced : NoRelease marked traced := State.faultTrig_noRelease hfirst n c
    have hdumped : NoRelease marked dumped := .ite (State.dumpTrigger_noRelease htraced _ _) htraced
    have hasked : NoRelease marked asked := .ite (State.safeReq_noRelease hdumped hd hsafe x atOnce) hdumped
    have hblock : bitN react 2 = false := hq.1
    have hchip : bitN react 3 = false := hq.2
    rw [if_neg (by simp [hchip]), if_neg (by simp [hblock])]
    exact ⟨hmarked.trans hasked, hasked.active n hon⟩

/-- The source that stands for a cause is one of the table, and of the device: its place is bit 0. -/
theorem causeSrc_spec {x : SafeCause} {n : Src} (h : causeSrc x = some n) :
    srcListed n.val = true ∧ actBit n 0 = 1 := by
  have hsf : ∀ m : Fin 7, srcListed (Fin.ofNat 128 (64 + m.val)).val = true ∧
      actBit (Fin.ofNat 128 (64 + m.val)) 0 = 1 := by decide
  cases x <;> simp only [causeSrc, Option.some.injEq, reduceCtorEq] at h <;> subst h
  case sf m => exact hsf m
  all_goals decide

/-- The event of a safe-state request in STANDBY, RUN or SERVICE: the device is stopped, its mode stands until the
boundary, the source of the cause is active, and an unset latch takes the cause. -/
theorem State.safeStateRequest_spec {s : State} (hd : s.driven) (hsafe : s.sys.trans ≠ some .safe) (hg : s.gangsOk)
    (x : SafeCause) (hq : ∀ n : Src, causeSrc x = some n → s.quiet n) :
    ∃ t, execSafeStateRequest x s = .next t ∧ NoRelease s t ∧ t.stopped ∧
      (∀ n : Src, causeSrc x = some n → t.active n = true) ∧
      (s.rb SAF_STAT.LATCH = false → t.rd SAF_CAUSE.FIRST = causeCode x) := by
  obtain ⟨hrel, hstop, hfirst⟩ := State.safeReq_stops hd hsafe hg x (x = .sf 0)
  unfold execSafeStateRequest
  generalize s.safeReq x (decide (x = .sf 0)) = t at *
  cases hsrc : causeSrc x with
  | none => exact ⟨t, rfl, hrel, hstop, nofun, hfirst⟩
  | some n =>
    obtain ⟨hlisted, hbit⟩ := causeSrc_spec hsrc
    have hdt : t.driven := ⟨hrel.parkDone.trans hd.1, by rw [hrel.mode]; exact hd.2⟩
    have hqt : t.quiet n := by
      unfold State.quiet
      rw [hrel.react n]
      exact hq n hsrc
    obtain ⟨hraise, hact⟩ := State.raiseAs_noRelease hdt hstop.pending n 0 x hlisted (by rw [hbit]; decide) hqt
    refine ⟨t.raiseAs n 0 x, rfl, hrel.trans hraise, hraise.stopped hstop, ?_, fun hl => ?_⟩
    · rintro m ⟨⟩
      exact hact
    · exact (hraise.latch hstop.latch).2.trans (hfirst hl)

end Sys2Proof.Machine

namespace Sys2Proof.Machine

/-! ### The toggle of `DRV_EN` -/

/-- An event waits at the host interface. -/
theorem State.event_only (s : State) (a b c : Nat) : s.only (s.event a b c) [.host] := by
  unfold State.event
  exact State.only_ite (State.only_mk (State.only_refl _ _) (h_host := .inr (by decide))) (State.only_refl _ _)

/-- A source that clears changes the collector and posts an event. -/
theorem State.clearIfGone_only (s : State) (n : Src) (c : Ch) : s.only (s.clearIfGone n c) [.flt, .host] := by
  unfold State.clearIfGone State.clear
  refine State.only_ite (State.only_ite (State.only_refl _ _) ?_) (State.only_refl _ _)
  exact State.only_trans (State.only_mono (State.updSrc_only s n _) (by decide))
    (State.only_mono (State.event_only _ _ _ _) (by decide))

/-- A saturating count fits its field. -/
theorem satU_mod (w x : Nat) : satU w x % 2 ^ w = satU w x := by
  have hpos : 0 < 2 ^ w := Nat.two_pow_pos w
  exact Nat.mod_eq_of_lt (by unfold satU; omega)

/-- A saturating count reads one more. -/
theorem State.rd_incSat_same (s : State) (f : Fld) : (s.incSat f).rd f = satU f.w (s.rd f + 1) :=
  (State.rd_wr_same _ _ _).trans (satU_mod _ _)

/-- The event of a toggle (R89, R90, R683, R684): it is counted, and counts toward the exit from SAFE exactly where the
latch is set and no recorded cause is present; besides, it disarms and clears what a toggle clears. -/
theorem State.drvEnToggle_spec (s : State) : ∃ t, execDrvEnToggle s = .next t ∧
    t.rd FLT_DRVEN.TOGGLES = satU FLT_DRVEN.TOGGLES.w (s.rd FLT_DRVEN.TOGGLES + 1) ∧ t.saf.drvEn = true ∧
    t.saf.toggled = (s.saf.toggled ||
      (s.rb SAF_STAT.LATCH && decide (s.rd SAF_CAUSEV.SF = 0 ∧ s.rd SAF_CAUSEV.OTHER = 0))) ∧
    s.only t [.saf, .regs, .flt, .host] ∧ s.regsBut t [FLT_DRVEN.TOGGLES, FLT_DRVEN.ARMED] := by
  unfold execDrvEnToggle
  extract_lets saf high counted sources swept clear
  have hcounted : s.only counted [.saf, .regs, .flt, .host] :=
    State.wr_only (State.wr_only (State.only_mk (State.only_refl _ _) (h_saf := .inr (by decide))) _ _ (by decide)) _ _
      (by decide)
  have hswept : counted.only swept [.flt, .host] :=
    State.only_foldl _ (fun _ n h => State.only_trans h (State.clearIfGone_only _ n 0)) (State.only_refl _ _)
  have hsaf : swept.saf = counted.saf := hswept.2 .saf (by decide)
  have hdrv : swept.saf.drvEn = true := by rw [hsaf]; rfl
  have htog : swept.saf.toggled = s.saf.toggled := by rw [hsaf]; rfl
  have hregs : swept.regs = counted.regs := hswept.2 .regs (by decide)
  have htoggles : swept.rd FLT_DRVEN.TOGGLES = satU FLT_DRVEN.TOGGLES.w (s.rd FLT_DRVEN.TOGGLES + 1) := by
    unfold State.rd
    rw [hregs]
    exact (State.rd_wr_other (high.incSat FLT_DRVEN.TOGGLES) 0 (by decide)).trans (State.rd_incSat_same high _)
  have hrd : s.regsBut swept [FLT_DRVEN.TOGGLES, FLT_DRVEN.ARMED] := by
    intro g hg
    unfold State.rd
    rw [hregs]
    exact (State.rd_wr_other (high.incSat FLT_DRVEN.TOGGLES) 0 (hg _ (by simp))).trans
      (State.rd_incSat_other high (hg _ (by simp)))
  have honly : s.only swept [.saf, .regs, .flt, .host] := State.only_trans hcounted (State.only_mono hswept (by decide))
  have hcounts : (swept.rb SAF_STAT.LATCH && clear) =
      (s.rb SAF_STAT.LATCH && decide (s.rd SAF_CAUSEV.SF = 0 ∧ s.rd SAF_CAUSEV.OTHER = 0)) := by
    have hlatch : swept.rd SAF_STAT.LATCH = s.rd SAF_STAT.LATCH := hrd _ (by decide)
    have hsf : swept.rd SAF_CAUSEV.SF = s.rd SAF_CAUSEV.SF := hrd _ (by decide)
    have hother : swept.rd SAF_CAUSEV.OTHER = s.rd SAF_CAUSEV.OTHER := hrd _ (by decide)
    unfold clear State.rb
    unfold State.rd at hlatch hsf hother ⊢
    rw [hlatch, hsf, hother]
  rw [← hcounts]
  refine ⟨_, rfl, ?_⟩
  clear_value swept clear
  cases hc : swept.rb SAF_STAT.LATCH && clear
  · rw [if_neg Bool.false_ne_true]
    exact ⟨htoggles, hdrv, htog.trans (Bool.or_false _).symm, honly, hrd⟩
  · rw [if_pos rfl]
    exact ⟨htoggles, hdrv, (Bool.or_true _).symm,
      State.only_mk honly (h_saf := .inr (by decide)), hrd⟩

end Sys2Proof.Machine

section
open Sys2Proof Sys2Proof.Machine

/-- Settles O46: a request stops the device (`State.safeReq_stops`) and the source raised with it releases nothing
(`State.raiseAs_noRelease`); a toggle counts exactly where no cause is present (`State.drvEnToggle_spec`). -/
theorem safeStateRequestStopsEverything : Obligations.SafeStateRequestStopsEverything := by
  unfold Obligations.SafeStateRequestStopsEverything
  intro s hpark
  refine ⟨fun hmode hsafe hg x hq => ?request, ?toggle⟩
  case request =>
    obtain ⟨t, hrun, hrel, hstop, hact, hfirst⟩ := State.safeStateRequest_spec ⟨hpark, hmode⟩ hsafe hg x hq
    exact ⟨t, hrun, hstop.low, hact, hstop.pending, hrel.mode, hstop.latch, hfirst, hstop.toggled, hstop.motor,
      hstop.stage⟩
  case toggle =>
    obtain ⟨t, hrun, htoggles, hdrv, htog, honly, hregs⟩ := s.drvEnToggle_spec
    refine ⟨t, hrun, htoggles, hdrv, fun hcause => ?_, fun hsf hother hlatch => ?_, honly, hregs⟩
    · have hpresent : ¬ (s.rd SAF_CAUSEV.SF = 0 ∧ s.rd SAF_CAUSEV.OTHER = 0) := fun h => hcause.elim (· h.1) (· h.2)
      simpa [hpresent] using htog
    · simpa [hsf, hother, hlatch] using htog

end

namespace Sys2Proof.Machine

/-! ### The laws as functions of the error (R209, R228) -/

/-- The integrator follows the error by the sensitivity of R228. -/
theorem lawXi_shift (p : Prof) (t b : Nat) (l : Law) (e e' : Int) :
    lawXi p t b l e' = lawXi p t b l e + (if t = 1 ∨ t = 2 then p.co (b + 1) else 0) * (e' - e) := by
  unfold lawXi
  split <;> ring

/-- The accumulator follows the error by the sensitivity g: the correction of a commit is exact (R230). -/
theorem lawAcc_shift (p : Prof) (t b : Nat) (l : Law) (dff e e' : Int) :
    lawAcc p t b l dff e' = lawAcc p t b l dff e + lawG p t b * (e' - e) := by
  unfold lawAcc lawG
  split
  case isTrue h => rw [lawXi_shift p t b l e e', if_pos (.inl h)]; ring
  case isFalse =>
    split
    case isTrue h => rw [lawXi_shift p t b l e e', if_pos (.inr h)]; ring
    case isFalse => split <;> ring

/-- The integrator of data shifted by `k` lanes is the integrator shifted by `k` lanes. -/
theorem lawXi_lanes (p : Prof) (t b : Nat) (l : Law) (e : Int) (k : Nat) :
    lawXi p t b (l.lanes k) (e * 2 ^ k) = lawXi p t b l e * 2 ^ k := by
  unfold lawXi Law.lanes
  split <;> ring

/-- The accumulator of data shifted by `k` lanes is the accumulator shifted by `k` lanes: no term of R209 is a constant. -/
theorem lawAcc_lanes (p : Prof) (t b : Nat) (l : Law) (dff e : Int) (k : Nat) :
    lawAcc p t b (l.lanes k) (dff * 2 ^ k) (e * 2 ^ k) = lawAcc p t b l dff e * 2 ^ k := by
  unfold lawAcc
  rw [lawXi_lanes]
  unfold Law.lanes
  split_ifs <;> ring

/-! ### The checker's datapath (R242) -/

/-- A number that a signed field of `n + 1` bits holds is its own two's complement. -/
theorem wrapS_of_natAbs_lt {n : Nat} {x : Int} (h : x.natAbs < 2 ^ n) : wrapS (n + 1) x = x := by
  have hx : -(2 ^ n : Int) < x ∧ x < 2 ^ n := abs_lt.mp (by rw [Int.abs_eq_natAbs]; exact_mod_cast h)
  have hpow : (2 ^ (n + 1) : Int) = 2 * 2 ^ n := by ring
  have hcast : ((2 ^ n : Nat) : Int) = 2 ^ n := by push_cast; rfl
  unfold wrapS toS ofS
  rw [Nat.add_sub_cancel, hpow]
  rcases lt_or_ge x 0 with hneg | hpos
  · have hmod : x % (2 * 2 ^ n) = x + 2 * 2 ^ n := by
      rw [← Int.add_emod_right, Int.emod_eq_of_lt (by omega) (by omega)]
    rw [hmod, if_neg (by omega)]
    omega
  · rw [Int.emod_eq_of_lt hpos (by omega), if_pos (by omega)]
    omega

/-- A number below 2^47 comes back from the 56-bit datapath out of each of its lane shifts. -/
theorem fdiv_wrapS_lane {x : Int} {k : Nat} (hk : k ≤ 8) (hx : x.natAbs < 2 ^ 47) :
    Int.fdiv (wrapS 56 (x * 2 ^ k)) (2 ^ k) = x := by
  have hfit : (x * 2 ^ k).natAbs < 2 ^ 55 := by
    rw [Int.natAbs_mul, Int.natAbs_pow]
    calc x.natAbs * 2 ^ k < 2 ^ 47 * 2 ^ k := Nat.mul_lt_mul_of_pos_right hx (by positivity)
      _ ≤ 2 ^ 47 * 2 ^ 8 := Nat.mul_le_mul_left _ (Nat.pow_le_pow_right (by decide) hk)
      _ = 2 ^ 55 := by norm_num
  rw [wrapS_of_natAbs_lt hfit, Int.mul_fdiv_cancel _ (by positivity)]

/-- With the headroom of the accumulator, the checker's pass is the full law in every lane shift. -/
theorem checkLaw_eq_evalLaw {p : Prof} {l : Law} {dff e : Int} {k : Nat} (hk : k ≤ 8)
    (hacc : (lawAcc p p.tmpl 0 l dff e).natAbs < 2 ^ 47) (hxi : (lawXi p p.tmpl 0 l e).natAbs < 2 ^ 47) (lo hi : Int) :
    checkLaw p l dff lo hi e k = evalLaw p p.tmpl 0 l dff lo hi e := by
  unfold checkLaw evalLaw
  simp only [lawAcc_lanes, lawXi_lanes, fdiv_wrapS_lane hk hacc, fdiv_wrapS_lane hk hxi]

/-! ### The commit (R229, R230, R237) -/

/-- A checkpoint holds the speculation of its own law state and predicted error under a profile (R228, R236). -/
structure Ckpt.Speculated (p : Prof) (k : Ckpt) : Prop where
  acc  : k.accSpec = (evalLaw p p.tmpl 0 k.law k.dff k.uLo k.uHi k.yHat).acc
  g    : k.g = lawG p p.tmpl 0
  next : k.spec = (evalLaw p p.tmpl 0 k.law k.dff k.uLo k.uHi k.yHat).next
  sat  : k.sat = (evalLaw p p.tmpl 0 k.law k.dff k.uLo k.uHi k.yHat).sat
  hX   : k.hX = (lawH p k.sat).1
  hE   : k.hE = (lawH p k.sat).2

theorem speculate_speculated (p : Prof) (slot : Fin 8) (bank : Bool) (l outer : Law) (oSat : Sat)
    (dff lo hi yHat rHat iHat mA mB : Int) :
    (speculate p slot bank l outer oSat dff lo hi yHat rHat iHat mA mB).Speculated p :=
  ⟨rfl, rfl, rfl, rfl, rfl, rfl⟩

section
variable {p : Prof} {k : Ckpt} (hk : k.Speculated p)
include hk

theorem commitLaw_acc (y : Int) :
    (commitLaw p p.tmpl k y).acc = (evalLaw p p.tmpl 0 k.law k.dff k.uLo k.uHi y).acc := by
  calc k.accSpec + k.g * (y - k.yHat)
      = lawAcc p p.tmpl 0 k.law k.dff k.yHat + lawG p p.tmpl 0 * (y - k.yHat) := by rw [hk.acc, hk.g]; rfl
    _ = lawAcc p p.tmpl 0 k.law k.dff y := (lawAcc_shift ..).symm

/-- The saturation state and the output are functions of the accumulator, so they agree as it does. -/
theorem commitLaw_sat (y : Int) :
    (commitLaw p p.tmpl k y).sat = (evalLaw p p.tmpl 0 k.law k.dff k.uLo k.uHi y).sat :=
  congrArg (lawSat · (lawXi p p.tmpl 0 k.law y) k.uLo k.uHi) (commitLaw_acc hk y)

theorem commitLaw_u (y : Int) :
    (commitLaw p p.tmpl k y).u = (evalLaw p p.tmpl 0 k.law k.dff k.uLo k.uHi y).u :=
  congrArg (fun acc => clampI (roundAcc acc) k.uLo k.uHi) (commitLaw_acc hk y)

/-- A state that follows the error was advanced with the predicted one and is corrected by its sensitivity; one that
saturation holds (R217) has the sensitivity 0. Which of them follow is told by the saturation state, so it has to be
the predicted one. -/
theorem commitLaw_next {y : Int} (hsat : (commitLaw p p.tmpl k y).sat = k.sat) :
    (commitLaw p p.tmpl k y).next = (evalLaw p p.tmpl 0 k.law k.dff k.uLo k.uHi y).next := by
  have hy : lawSat (lawAcc p p.tmpl 0 k.law k.dff y) (lawXi p p.tmpl 0 k.law y) k.uLo k.uHi = k.sat :=
    (commitLaw_sat hk y).symm.trans hsat
  have hyHat : lawSat (lawAcc p p.tmpl 0 k.law k.dff k.yHat) (lawXi p p.tmpl 0 k.law k.yHat) k.uLo k.uHi = k.sat :=
    hk.sat.symm
  have hu : clampI (roundAcc (k.accSpec + k.g * (y - k.yHat))) k.uLo k.uHi =
      clampI (roundAcc (lawAcc p p.tmpl 0 k.law k.dff y)) k.uLo k.uHi := commitLaw_u hk y
  simp only [commitLaw, hk.next, hk.hX, hk.hE, evalLaw, lawEnd, hy, hyHat, hu, lawH]
  by_cases hpi : p.tmpl = 1
  · cases k.sat.free <;> simp [hpi, lawXi_shift p 1 0 k.law k.yHat y]
  · by_cases hpid : p.tmpl = 2
    · cases k.sat.free <;> simp [hpid, lawXi_shift p 2 0 k.law k.yHat y]
    · cases k.sat.free <;> simp [hpi, hpid]

theorem commitLaw_eq_evalLaw {y : Int} (hsat : (commitLaw p p.tmpl k y).sat = k.sat) :
    commitLaw p p.tmpl k y = evalLaw p p.tmpl 0 k.law k.dff k.uLo k.uHi y :=
  (LawOut.mk.injEq ..).mpr ⟨commitLaw_acc hk y, commitLaw_u hk y, commitLaw_sat hk y, commitLaw_next hk hsat⟩

/-- Without a bank swap a slot's output is the full law under the checkpoint's clamp bounds: by definition where it rolls
back (R233, R234), and where it commits because the saturation state is then the predicted one. -/
theorem formOut_unswapped_out (dff lo hi y : Int) :
    (formOut p (some k) false dff lo hi y).out = evalLaw p p.tmpl 0 k.law k.dff k.uLo k.uHi y := by
  by_cases hw : p.tw < (y - k.yHat).natAbs
  · simp [formOut, hw]
  · by_cases hsat : (commitLaw p p.tmpl k y).sat = k.sat
    · simpa [formOut, hw, hsat] using commitLaw_eq_evalLaw hk hsat
    · simp [formOut, hw, hsat]

end

end Sys2Proof.Machine

section
open Sys2Proof Sys2Proof.Machine

/-- Settles O24: the speculation's correction is exact (`commitLaw_eq_evalLaw`), a swapped slot is the full law by
definition, and the checker's lanes lose nothing within the headroom (`checkLaw_eq_evalLaw`). -/
theorem commitEqualsFullComputation : Obligations.CommitEqualsFullComputation := by
  unfold Obligations.CommitEqualsFullComputation
  intro p slot bank l outer oSat dff lo hi yHat rHat iHat mA mB dff2 lo2 hi2 y k
  have hk : k.Speculated p := speculate_speculated ..
  exact ⟨formOut_unswapped_out hk dff2 lo2 hi2 y, rfl, fun lane hlane hacc hxi =>
    ⟨checkLaw_eq_evalLaw hlane hacc hxi lo hi, checkLaw_eq_evalLaw hlane hacc hxi lo2 hi2⟩⟩

end

namespace Sys2Proof.Machine

/-! ### Operations outside the channels, the completions and the queues -/

/-- From `s` to `t` no channel, no completion, no queue and no source of the collector changes. -/
structure Aside (s t : State) : Prop where
  ch : t.ch = s.ch
  cbuf : t.host.cbuf = s.host.cbuf
  qs : t.host.qs = s.host.qs
  srcs : t.flt.srcs = s.flt.srcs

namespace Aside

/-- Nothing changes. -/
theorem refl (s : State) : Aside s s := ⟨rfl, rfl, rfl, rfl⟩

/-- One operation after another. -/
theorem trans {s t u : State} (h : Aside s t) (k : Aside t u) : Aside s u :=
  ⟨k.ch.trans h.ch, k.cbuf.trans h.cbuf, k.qs.trans h.qs, k.srcs.trans h.srcs⟩

/-- One of two ways. -/
theorem ite {s t u : State} {p : Prop} [Decidable p] (h : Aside s t) (k : Aside s u) : Aside s (if p then t else u) := by
  split
  · exact h
  · exact k

/-- A walk through a list. -/
theorem foldl {α : Type} {f : State → α → State} {s t : State} (h : Aside s t) (l : List α)
    (k : ∀ t a, Aside s t → Aside s (f t a)) : Aside s (l.foldl f t) := by
  induction l generalizing t with
  | nil => exact h
  | cons a l ih => exact ih (k t a h)

/-- A write of a field. -/
theorem wr {s t : State} (h : Aside s t) (f : Fld) (v : Nat) : Aside s (t.wr f v) := h.trans ⟨rfl, rfl, rfl, rfl⟩

/-- A change of the metrology. -/
theorem met {s t : State} (h : Aside s t) (m : MetS) : Aside s { t with met := m } := h.trans ⟨rfl, rfl, rfl, rfl⟩

/-- An event is posted. -/
theorem event {s t : State} (h : Aside s t) (a b d : Nat) : Aside s (t.event a b d) := by
  refine h.trans ⟨by simp, ?_, ?_, by simp⟩ <;> (rw [State.event_host]; split <;> rfl)

end Aside

/-- Written values that come into force are registers alone (R753). -/
theorem State.commitIf_aside (s : State) (p : Fld → Bool) : Aside s (s.commitIf p) := by
  unfold State.commitIf
  refine Aside.foldl ?_ _ (fun _ (e : Fld × Nat) k => k.wr e.1 e.2)
  exact ⟨rfl, rfl, rfl, rfl⟩

/-- An arrival on a tag is one of the ring (R494). -/
theorem State.tagArrive_aside {s t : State} (h : Aside s t) (n : Nat) : Aside s (t.tagArrive n) :=
  h.trans ⟨rfl, rfl, rfl, rfl⟩

/-! ### Range requests (R297 to R301, R324) -/

/-- A change of a spare. -/
theorem State.updSpare_aside {s t : State} (h : Aside s t) (i : SpareId) (f : Spare → Spare) : Aside s (t.updSpare i f) :=
  h.met _

/-- A range change begins on a spare. -/
theorem State.startChange_aside {s t : State} (h : Aside s t) (i : SpareId) (r : RngReq) : Aside s (t.startChange i r) :=
  State.updSpare_aside h i _

/-- A converter is taken again later in its round. -/
theorem State.untake_aside {s t : State} (h : Aside s t) (i : SpareId) : Aside s (t.untake i) := by
  unfold State.untake
  exact .ite h (h.met _)

/-- A range request is denied. -/
theorem State.rangeDeny_aside {s t : State} (h : Aside s t) (c : Ch) : Aside s (t.rangeDeny c) := by
  unfold State.rangeDeny
  exact ((h.wr _ _).wr _ _).event _ _ _

/-- A round of the rotation ends. -/
theorem State.roundEnd_aside {s t : State} (h : Aside s t) : Aside s t.roundEnd := by
  unfold State.roundEnd
  extract_lets per busy met old
  have hold : Aside s old := by
    subst old
    split
    · exact .ite h ((h.wr _ _).met _)
    · exact h
  exact .ite ((hold.wr _ _).met _) hold

/-- Idle spares serve requests. -/
theorem State.serveRange_aside {s t : State} (h : Aside s t) : Aside s t.serveRange := by
  refine h.foldl _ (fun u i k => .ite k ?_)
  split
  · exact k
  · exact State.updSpare_aside (State.startChange_aside (k.met _) _ _) _ _

/-- A request frees a spare. -/
theorem State.preempt_aside {s t : State} (h : Aside s t) : Aside s t.preempt := by
  unfold State.preempt
  extract_lets ids ps early later
  clear_value early later
  refine .ite h ?_
  cases early with
  | some i =>
    exact State.roundEnd_aside (.wr (State.updSpare_aside (State.untake_aside h i) i _) MET_IBXCNT.PREEMPT _)
  | none =>
    refine .ite ?_ h
    cases later with
    | some i => exact .wr (State.updSpare_aside (.met (State.untake_aside h i) _) i _) MET_IBXCNT.PREEMPT _
    | none => exact h

/-- A request gives way to the lower channel. -/
theorem State.yieldTo_aside {s t : State} (h : Aside s t) (c : Ch) : Aside s (t.yieldTo c) := by
  unfold State.yieldTo
  extract_lets ids later
  refine .ite h ?_
  split
  · exact h
  · exact State.serveRange_aside (State.updSpare_aside (h.met _) _ _)

/-- A request meets a rotation of its converter. -/
theorem State.rangeInRotation_aside {s t : State} (h : Aside s t) (i : SpareId) (c : Ch) (rng : Fin 4) (auto : Bool) :
    Aside s (t.rangeInRotation i c rng auto) := by
  unfold State.rangeInRotation
  extract_lets p back
  have hback {u : State} (k : Aside s u) : Aside s (back u) := State.updSpare_aside k i _
  refine .ite (State.rangeDeny_aside h c) (.ite h (.ite ?_ (.ite ?_ ?_)))
  · exact State.roundEnd_aside (State.startChange_aside (State.untake_aside h i) i _)
  · exact State.roundEnd_aside (hback h)
  · exact State.roundEnd_aside (hback (.met (State.untake_aside h i) _))

/-- A range request of one channel. -/
theorem State.rangeAsk_aside {s t : State} (h : Aside s t) (c : Ch) (rng : Fin 4) (auto : Bool) :
    Aside s (t.rangeAsk c rng auto) := by
  unfold State.rangeAsk
  extract_lets asked queued replace join
  have hasked : Aside s asked := h.wr _ _
  clear_value asked
  have hjoin : Aside s (join asked) := hasked.met _
  have hreplace : Aside s (replace asked) := hasked.met _
  refine .ite (State.rangeDeny_aside hasked c) ?_
  split
  next i _ =>
    refine .ite (.ite hasked (.ite ?_ ?_)) (.ite hreplace (.ite hasked hjoin))
    · exact State.serveRange_aside (State.updSpare_aside hasked i _)
    · exact State.startChange_aside hasked i _
  next _ =>
    split
    next i _ => exact State.rangeInRotation_aside hasked i c rng auto
    next _ =>
      refine .ite hreplace (.ite hasked ?_)
      exact State.yieldTo_aside (State.serveRange_aside (State.preempt_aside hjoin)) c

/-- A range request of a gang. -/
theorem State.rangeReq_aside (s : State) (c : Ch) (rng : Fin 4) (auto : Bool) : Aside s (s.rangeReq c rng auto) :=
  (Aside.refl s).foldl _ (fun _ d k => State.rangeAsk_aside k d rng auto)

/-! ### A raised source -/

/-- A trace is triggered. -/
theorem State.traceFire_aside {s t : State} (h : Aside s t) (q : Quad) : Aside s (t.traceFire q) := by
  unfold State.traceFire
  extract_lets t1 t2 t3
  have h2 : Aside s t2 := ((h.wr _ _).wr _ _).wr _ _
  have h3 : Aside s t3 := h2.trans ⟨rfl, rfl, rfl, rfl⟩
  exact .ite (h3.wr _ _) h

/-- A trigger acts in every quad that accepts it. -/
theorem State.traceTrig_aside {s t : State} (h : Aside s t) (q : Quad) (n : Nat) : Aside s (t.traceTrig q n) := by
  unfold State.traceTrig
  exact .ite ((State.traceFire_aside h q).foldl _ (fun _ p k => .ite (State.traceFire_aside k p) k)) h

/-- A raise triggers the traces that wait for it. -/
theorem State.faultTrig_aside {s t : State} (h : Aside s t) (n : Src) (c : Ch) : Aside s (t.faultTrig n c) := by
  unfold State.faultTrig
  have hq := State.traceTrig_aside h (quadOf c) 6
  refine .ite (h.foldl _ (fun _ q k => State.traceTrig_aside k q 6)) (.ite ?_ h)
  exact .ite (State.traceTrig_aside hq _ _) (.ite (State.traceTrig_aside hq _ _) hq)

/-- `ERR_N` is pulled low. -/
theorem State.errPull_aside {s t : State} (h : Aside s t) : Aside s t.errPull := by
  unfold State.errPull
  refine .ite h (.wr ?_ FLT_ERRN.LOW 1)
  exact h.trans ⟨rfl, rfl, rfl, rfl⟩

/-- The mask of a channel has its bit alone. -/
theorem getLsbD_chBit (c i : Ch) : (chBit c).getLsbD i.val = decide (i = c) := by
  revert c i
  decide

/-- What meets the mask of a channel has its bit. -/
theorem getLsbD_of_and_chBit {x : BitVec 16} {c : Ch} (h : x &&& chBit c ≠ 0) : x.getLsbD c.val = true := by
  by_contra hx
  refine h (BitVec.eq_of_getLsbD_eq fun i hi => ?_)
  rw [BitVec.getLsbD_and, getLsbD_chBit c ⟨i, hi⟩]
  refine (Bool.and_eq_false_imp.2 fun hxi => decide_eq_false fun hic => hx ?_).trans BitVec.getLsbD_zero.symm
  rwa [← hic]

/-- A raise of a channel's source whose reaction asks for no reset and no SAFE: no channel, no completion and no queue
changes, and the source is active in the channel. -/
theorem State.raise_active (s : State) (n : Src) (c : Ch) (hlisted : srcListed n.val = true) (hchan : isChanSrc n = true)
    (hquiet : s.quiet n) (hsafe : bitN (s.src n).react 5 = false) :
    (s.raise n c).ch = s.ch ∧ (s.raise n c).host.cbuf = s.host.cbuf ∧ (s.raise n c).host.qs = s.host.qs ∧
      (s.raise n c).activeIn n c = true := by
  have hact : actBit n c = chBit c := if_pos hchan
  have hlow : ¬ (71 ≤ n.val ∧ n.val ≤ 80) := by
    simp only [isChanSrc, Bool.or_eq_true, decide_eq_true_eq] at hchan
    omega
  unfold State.raise State.raiseAs
  extract_lets bit old atOnce holds marked posted react seqIrq nmi place code recorded pulled first traced dump dumped
    asked
  obtain ⟨hblock, hchip⟩ : bitN react 2 = false ∧ bitN react 3 = false := hquiet
  have hasks : bitN react 5 = false := hsafe
  have hasks' : bitN old.react 5 = false := hsafe
  have hdump : dump = false := by simp [dump, hchip, hlow]
  rw [if_neg (by simp [hlisted])]
  split
  next hon =>
    rw [if_neg (by simp [hasks'])]
    refine ⟨rfl, rfl, rfl, ?_⟩
    have hset : (s.src n).act &&& chBit c ≠ 0 := by rwa [← hact]
    unfold State.activeIn
    rw [State.src_updSrc_same]
    exact getLsbD_of_and_chBit hset
  next hoff =>
    have hposted : Aside marked posted := (Aside.refl _).event _ _ _
    clear_value posted
    have hseq : Aside marked seqIrq := .ite (hposted.trans ⟨rfl, rfl, rfl, rfl⟩) hposted
    have hnmi : Aside marked nmi := .ite (hseq.trans ⟨rfl, rfl, rfl, rfl⟩) hseq
    have hcode : Aside marked code := ((((hnmi.wr _ _).wr _ _).wr _ _).wr _ _)
    have hrecorded : Aside marked recorded := .ite (((hcode.wr _ _).wr _ _).wr _ _) hnmi
    have hpulled : Aside marked pulled := State.errPull_aside hrecorded
    have hfirst : Aside marked first := .ite (.ite hpulled ((hpulled.wr _ _).wr _ _)) hrecorded
    have htraced : Aside marked traced := State.faultTrig_aside hfirst n c
    have hasked : asked = traced := by simp [asked, dumped, hdump, hasks]
    rw [if_neg (by simp [hchip]), if_neg (by simp [hblock]), hasked]
    refine ⟨htraced.ch, htraced.cbuf, htraced.qs, ?_⟩
    have hsrc : traced.src n = marked.src n := by unfold State.src; rw [htraced.srcs]
    unfold State.activeIn
    rw [hsrc, State.src_updSrc_same]
    simp [bit, hact, getLsbD_chBit]

end Sys2Proof.Machine

namespace Sys2Proof.Machine

/-! ### Operations that leave the step of a channel as it stands -/

/-- What decides how the step of a channel ends and what follows it: its ledger, its state with the cause of a HOLD, the
running descriptor with its ending, a failure that waits, and the count of the step. -/
structure StepView where
  ledger : Ledger
  st : ChSt
  why : Nat
  run : Option (StepDesc × Option Ending)
  late : Option (Nat × Nat)
  cur : Nat

/-- A run as its end sees it. -/
def Run.view (r : Run) : StepDesc × Option Ending := (r.desc, r.ending)

/-- A channel as the end of its step sees it. -/
def Chan.stepView (x : Chan) : StepView := ⟨x.ledger, x.seq.st, x.seq.why, x.seq.run.map Run.view, x.seq.late, x.seq.cur⟩

/-- From `s` to `t` the step of channel `c` stands as it was, and no completion, no queue and no source changes. -/
structure StepStill (c : Ch) (s t : State) : Prop where
  view : (t.chan c).stepView = (s.chan c).stepView
  cbuf : t.host.cbuf = s.host.cbuf
  qs : t.host.qs = s.host.qs
  srcs : t.flt.srcs = s.flt.srcs

namespace StepStill

variable {c : Ch} {s t u : State}

/-- Nothing changes. -/
theorem refl (c : Ch) (s : State) : StepStill c s s := ⟨rfl, rfl, rfl, rfl⟩

/-- One operation after another. -/
theorem trans (h : StepStill c s t) (k : StepStill c t u) : StepStill c s u :=
  ⟨k.view.trans h.view, k.cbuf.trans h.cbuf, k.qs.trans h.qs, k.srcs.trans h.srcs⟩

/-- One of two ways. -/
theorem ite {p : Prop} [Decidable p] (h : StepStill c s t) (k : StepStill c s u) :
    StepStill c s (if p then t else u) := by
  split
  · exact h
  · exact k

/-- A walk through a list, each of whose elements may be named. -/
theorem foldl {α : Type} {f : State → α → State} (h : StepStill c s t) (l : List α)
    (k : ∀ a ∈ l, ∀ u, StepStill c s u → StepStill c s (f u a)) : StepStill c s (l.foldl f t) := by
  induction l generalizing t with
  | nil => exact h
  | cons a l ih => exact ih (k a (by simp) t h) (fun b hb => k b (by simp [hb]))

/-- An operation outside the channels. -/
theorem of_aside (h : StepStill c s t) (k : Aside t u) : StepStill c s u :=
  h.trans ⟨by unfold State.chan; rw [k.ch], k.cbuf, k.qs, k.srcs⟩

/-- A write of a field. -/
theorem wr (h : StepStill c s t) (f : Fld) (v : Nat) : StepStill c s (t.wr f v) := h.of_aside ((Aside.refl t).wr f v)

/-- A change of a channel that its own step does not see. -/
theorem updCh (h : StepStill c s t) (d : Ch) (f : Chan → Chan) (hf : d = c → ∀ x, (f x).stepView = x.stepView) :
    StepStill c s (t.updCh d f) := by
  refine h.trans ⟨?_, rfl, rfl, rfl⟩
  by_cases hd : d = c
  · subst hd
    rw [State.chan_updCh_same, hf rfl]
  · rw [State.chan_updCh_other t f hd]

/-- A change of a stage. -/
theorem updStage (h : StepStill c s t) (d : Ch) (f : Stage → Stage) : StepStill c s (t.updStage d f) :=
  h.updCh d _ (fun _ _ => rfl)

/-- A change of a loop. -/
theorem updLoop (h : StepStill c s t) (d : Ch) (f : LoopS → LoopS) : StepStill c s (t.updLoop d f) :=
  h.updCh d _ (fun _ _ => rfl)

/-- A change of the metrology of a channel. -/
theorem updMet (h : StepStill c s t) (d : Ch) (f : ChMet → ChMet) : StepStill c s (t.updMet d f) :=
  h.updCh d _ (fun _ _ => rfl)

/-- A change of the sequencer beside the step. -/
theorem updSeq (h : StepStill c s t) (d : Ch) (f : ChanS → ChanS)
    (hf : d = c → ∀ x : Chan, Chan.stepView { x with seq := f x.seq } = x.stepView) : StepStill c s (t.updSeq d f) :=
  h.updCh d _ hf

/-- A change of a run that keeps its descriptor and its ending. -/
theorem updRun (h : StepStill c s t) (d : Ch) (f : Run → Run) (hf : ∀ r, (f r).view = r.view) :
    StepStill c s (t.updRun d f) := by
  refine h.updSeq d _ (fun _ x => ?_)
  unfold Chan.stepView
  simp only [Option.map_map, StepView.mk.injEq, true_and, and_true]
  exact congrArg (Option.map · x.seq.run) (funext hf)

/-! What the step's end sees, part by part. -/

theorem ledger (h : StepStill c s t) : (t.chan c).ledger = (s.chan c).ledger := congrArg StepView.ledger h.view
theorem st (h : StepStill c s t) : (t.seq c).st = (s.seq c).st := congrArg StepView.st h.view
theorem why (h : StepStill c s t) : (t.seq c).why = (s.seq c).why := congrArg StepView.why h.view
theorem late (h : StepStill c s t) : (t.seq c).late = (s.seq c).late := congrArg StepView.late h.view
theorem cur (h : StepStill c s t) : (t.seq c).cur = (s.seq c).cur := congrArg StepView.cur h.view
theorem run (h : StepStill c s t) : (t.seq c).run.map Run.view = (s.seq c).run.map Run.view :=
  congrArg StepView.run h.view

/-- A channel without a run stays without one. -/
theorem run_none (h : StepStill c s t) (hs : (s.seq c).run = none) : (t.seq c).run = none := by
  simpa [hs] using h.run

/-- The queues are the same. -/
theorem subq (h : StepStill c s t) (q : QId) : t.subq q = s.subq q := by
  unfold State.subq
  rw [h.qs]

end StepStill

/-! ### Gates, stages and gangs -/

section
variable {c : Ch} {s t : State}

/-- Gates off in a channel. -/
theorem State.gatesOff1_still (h : StepStill c s t) (d : Ch) : StepStill c s (t.gatesOff1 d) := by
  unfold State.gatesOff1 State.openLoop
  extract_lets on off opened
  have hopen : StepStill c s opened :=
    StepStill.updSeq ((h.updStage d (fun x => { x with gates := false })).updLoop d _) d _ (fun _ _ => rfl)
  exact .ite (hopen.updLoop d _) hopen

/-- Gates off in a gang. -/
theorem State.gatesOff_still (h : StepStill c s t) (d : Ch) : StepStill c s (t.gatesOff d) :=
  h.foldl _ (fun a _ _ k => State.gatesOff1_still k a)

/-- A staged opening. -/
theorem State.stagedOpen_still (h : StepStill c s t) (d : Ch) : StepStill c s (t.stagedOpen d) :=
  h.foldl _ (fun a _ _ k => (State.gatesOff1_still k a).updStage a _)

/-- Another channel enters HOLD. -/
theorem State.enterHold_still (h : StepStill c s t) {d : Ch} (hd : d ≠ c) (why : Nat) : StepStill c s (t.enterHold d why) := by
  unfold State.enterHold
  exact (State.stagedOpen_still h d).updSeq d _ (fun e => absurd e hd)

/-- A gang dissolves around its leader: each other member enters HOLD. -/
theorem State.gangDissolve_still (h : StepStill c s t) : StepStill c s (t.gangDissolve c) := by
  unfold State.gangDissolve
  extract_lets ms
  have halone : StepStill c s (t.dissolve c) := by
    unfold State.dissolve
    exact .ite h (h.foldl _ (fun m _ _ k => k.updSeq m _ (fun _ _ => rfl)))
  refine .ite h (halone.foldl _ (fun m hm _ k => State.enterHold_still k ?_ 7))
  simpa using (List.mem_filter.1 hm).2

/-- A closure of the isolation switches is asked for. -/
theorem State.requestClose_still (h : StepStill c s t) (d : Ch) : StepStill c s (t.requestClose d) := by
  unfold State.requestClose
  extract_lets l iso ms
  refine .ite (.ite ?_ h) (.ite (State.stagedOpen_still h l) h)
  unfold State.startPulse
  exact ((h.foldl ms (fun a _ _ k => k.updStage a _)).updStage l _).updMet l _

/-! ### The setpoint of a tick -/

/-- The setpoint limiter. -/
theorem State.limit1_still (h : StepStill c s t) (d : Ch) : StepStill c s (t.limit1 d) := by
  unfold State.limit1
  extract_lets l kT kB fb e limited lim
  exact ((h.updLoop d _).wr _ _).wr _ _

/-- The setpoint of a tick is formed. -/
theorem State.formSetpoint_still (h : StepStill c s t) (d : Ch) : StepStill c s (t.formSetpoint d) := by
  unfold State.formSetpoint
  extract_lets formed g
  have hformed : StepStill c s formed := by
    subst formed
    split
    · exact h.updLoop d _
    · split
      next i tgt frac _ =>
        extract_lets moved kind driven
        have hmoved : StepStill c s moved := h.updRun d _ (fun _ => rfl)
        have hdriven : StepStill c s driven :=
          .ite ((hmoved.updLoop d _).updSeq d _ (fun _ _ => by split <;> rfl)) hmoved
        exact hdriven.updLoop d _
  refine .ite (State.limit1_still (hformed.updLoop d _) d) ?_
  exact hformed.foldl _ (fun a _ _ k => State.limit1_still (k.updLoop a _) a)

/-- A gang is held at zero current. -/
theorem State.zeroSetpoint_still (h : StepStill c s t) (d : Ch) : StepStill c s (t.zeroSetpoint d) :=
  h.foldl _ (fun a _ _ k => State.limit1_still (k.updLoop a _) a)

/-- The gates start where the step wants them. -/
theorem State.startGates_still (h : StepStill c s t) (d : Ch) : StepStill c s (t.startGates d) := by
  unfold State.startGates
  split
  · exact h
  · extract_lets asked gated
    have hasked : StepStill c s asked := .ite (State.requestClose_still h d) h
    have hgated : StepStill c s gated := hasked.foldl _ (fun a _ _ k => k.updStage a _)
    exact .ite h (.ite (hgated.updRun d _ (fun _ => rfl)) hasked)

/-- The shadow banks of a gang take a step. -/
theorem State.armBank_still (h : StepStill c s t) (d : Ch) (x : StepDesc) : StepStill c s (t.armBank d x) :=
  h.foldl _ (fun a _ _ k => k.updLoop a _)

/-- A bank swap of a gang. -/
theorem State.bankTo_still (h : StepStill c s t) (d : Ch) (x : StepDesc) : StepStill c s (t.bankTo d x) :=
  (State.armBank_still h d x).foldl _ (fun a _ _ k => k.updLoop a _)

/-- A soft start begins. -/
theorem State.softStart_still (h : StepStill c s t) (d : Ch) (x : StepDesc) : StepStill c s (t.softStart d x) := by
  unfold State.softStart
  exact h.updSeq d _ (fun _ _ => rfl)

end

end Sys2Proof.Machine

namespace Sys2Proof.Machine

/-! ### Changes of the channels alone -/

section
variable {s t : State} (h : s.only t [.ch])
include h

/-- A change of a channel. -/
theorem State.updCh_only (c : Ch) (f : Chan → Chan) : s.only (t.updCh c f) [.ch] :=
  State.only_mk h (h_ch := .inr (by decide))

/-- Gates off in a channel. -/
theorem State.gatesOff1_only (c : Ch) : s.only (t.gatesOff1 c) [.ch] := by
  unfold State.gatesOff1 State.openLoop
  extract_lets on off opened
  have hoff : s.only off [.ch] := State.updCh_only (State.updCh_only h c _) c _
  have hopened : s.only opened [.ch] := State.updCh_only hoff c _
  exact State.only_ite (State.updCh_only hopened c _) hopened

/-- A channel enters HOLD. -/
theorem State.enterHold_only (c : Ch) (why : Nat) : s.only (t.enterHold c why) [.ch] := by
  unfold State.enterHold
  refine State.updCh_only ?_ c _
  exact State.forCh_only _ (fun _ d k => State.updCh_only (State.gatesOff1_only k d) d _) h

/-- A gang dissolves. -/
theorem State.gangDissolve_only (c : Ch) : s.only (t.gangDissolve c) [.ch] := by
  unfold State.gangDissolve
  extract_lets ms
  have halone : s.only (t.dissolve c) [.ch] := by
    unfold State.dissolve
    exact State.only_ite h (State.forCh_only _ (fun _ m k => State.updCh_only k m _) h)
  exact State.only_ite h (State.forCh_only ms (fun _ m k => State.enterHold_only k m 7) halone)

end

/-! ### The ledger of a channel -/

/-- A change of a ledger leaves the sequencers. -/
theorem State.seq_ledger (s : State) (c d : Ch) (f : Ledger → Ledger) : (s.ledger c f).seq d = s.seq d := by
  unfold State.seq State.ledger
  by_cases hd : c = d
  · subst hd
    rw [State.chan_updCh_same, Chan.saveLedger_seq]
  · rw [State.chan_updCh_other s _ hd]

/-- Whether an entry is open after a change of the ledger. -/
theorem State.ledger_isOpen (s : State) (c : Ch) (f : Ledger → Ledger) :
    ((s.ledger c f).chan c).ledger.isOpen = (f (s.chan c).ledger).isOpen := by
  unfold State.ledger
  rw [State.chan_updCh_same]
  dsimp only [Chan.saveLedger]
  split <;> rfl

/-- A closed ledger has no open entry. -/
theorem Ledger.closes_isOpen (l : Ledger) (reason t : Nat) : (l.closes reason t).isOpen = false := by
  unfold Ledger.closes
  split
  · rfl
  next h => simpa using h

/-! ### A step that ends -/

/-- Where nothing prefetched is passed, only the retired count and the count of the step change. -/
theorem State.passTo_nothing {s : State} {c : Ch} {n : Nat} (h : (s.subq (cq c)).pre.take (n - s.preBase c) = []) :
    s.passTo c n = ((s.updQ (cq c) (fun q => { q with pre := q.pre.drop (n - s.preBase c) })).retireTo (cq c) n).updSeq c
      (fun x => { x with cur := n - 1 }) := by
  unfold State.passTo
  simp only [h, List.zipIdx_nil, List.foldl_nil]

/-- The STEP record that leads a completion carries a reason (R451). -/
def leadsWith (recs : List (List Word)) (reason : Nat) : Prop :=
  (recs.head?.bind (fun w => w[1]?)).any (fun w => decide (w.toNat % 256 = reason % 256)) = true

/-- The completion of a step carries its reason. -/
theorem State.stepRecs_leadsWith (s : State) (c : Ch) (r : Run) (reason action next detail : Nat) :
    leadsWith (s.stepRecs c r reason action next detail) reason := by
  simp only [State.stepRecs, stepRec, leadsWith, w2, List.head?_cons, Option.bind_some, List.cons_append,
    List.getElem?_cons_succ, List.getElem?_cons_zero, Option.any_some, decide_eq_true_eq, BitVec.toNat_ofNat]
  omega

/-- What the end of the step `r` with a reason leaves: no run, a closed entry, and the completion behind those that waited;
the registers, the profiles, the sources, what is prefetched, a failure that waits and the count of the step are the same. -/
structure Finished (c : Ch) (reason : Nat) (s t : State) : Prop where
  run : (t.seq c).run = none
  isOpen : (t.chan c).ledger.isOpen = false
  late : (t.seq c).late = (s.seq c).late
  cur : (t.seq c).cur = (s.seq c).cur
  regs : t.regs = s.regs
  qd : t.qd = s.qd
  srcs : t.flt.srcs = s.flt.srcs
  pre : (t.subq (cq c)).pre = (s.subq (cq c)).pre
  posted : ∃ recs, t.host.cbuf = s.host.cbuf ++ [⟨.chan c, recs, 0⟩] ∧ leadsWith recs reason

/-- The end of a step. -/
theorem State.finishStep_finished (s : State) (c : Ch) (r : Run) (reason : Nat) (act : Byte) (next : Nat) :
    Finished c reason s (s.finishStep c r reason act next) := by
  unfold State.finishStep
  extract_lets closed posted alone
  have hseq : posted.seq c = s.seq c := State.seq_ledger s c c _
  have hopen : (posted.chan c).ledger.isOpen = false :=
    (State.ledger_isOpen s c _).trans (Ledger.closes_isOpen _ _ _)
  have halone : StepStill c posted alone ∧ posted.only alone [.ch] := by
    subst alone
    split
    · exact ⟨State.gangDissolve_still (.refl c posted), State.gangDissolve_only (State.only_refl _ _) c⟩
    · exact ⟨.refl c posted, State.only_refl _ _⟩
  obtain ⟨hstill, honly⟩ := halone
  exact {
    run := by rw [State.seq_updSeq_same]
    isOpen := by rw [State.chan_updSeq_same]; exact (congrArg Ledger.isOpen hstill.ledger).trans hopen
    late := by rw [State.seq_updSeq_same]; exact hstill.late.trans (by rw [hseq])
    cur := by rw [State.seq_updSeq_same]; exact hstill.cur.trans (by rw [hseq])
    regs := honly.2 .regs (by decide)
    qd := honly.2 .qd (by decide)
    srcs := hstill.srcs
    pre := by
      rw [State.updSeq_subq, hstill.subq]
      change ((State.updQ _ (cq c) _).subq (cq c)).pre = _
      rw [State.subq_updQ_same]
      rfl
    posted := ⟨_, hstill.cbuf, State.stepRecs_leadsWith _ _ _ _ _ _ _⟩ }

/-- The count of the first prefetched descriptor follows that of the step. -/
theorem Finished.preBase {c : Ch} {reason : Nat} {s t : State} (h : Finished c reason s t) : t.preBase c = s.preBase c := by
  unfold State.preBase
  rw [h.cur]

/-- What follows the ended step first in the prefetch passes nothing: the step is retired. -/
theorem Finished.passTo {c : Ch} {reason : Nat} {s t : State} (h : Finished c reason s t) :
    Finished c reason s (t.passTo c (s.preBase c)) ∧
      ((t.passTo c (s.preBase c)).subq (cq c)).done = s.preBase c % 65536 := by
  rw [State.passTo_nothing (by simp [h.preBase]), h.preBase, Nat.sub_self]
  refine ⟨{ h with run := ?_, isOpen := ?_, late := ?_, cur := ?_, pre := ?_ }, ?_⟩
  · rw [State.seq_updSeq_same]; exact h.run
  · rw [State.chan_updSeq_same]; exact h.isOpen
  · rw [State.seq_updSeq_same]; exact h.late
  · rw [State.seq_updSeq_same]; rfl
  · rw [State.updSeq_subq]
    unfold State.retireTo
    rw [State.subq_updQ_same, State.subq_updQ_same]
    exact h.pre
  · rw [State.updSeq_subq]
    unfold State.retireTo
    rw [State.subq_updQ_same]

/-! ### A channel that enters HOLD -/

/-- What the entry into HOLD with a cause leaves: no run and no failure that waits; the ledger, the completions and the
queues are the same. -/
structure Held (c : Ch) (why : Nat) (s t : State) : Prop where
  st : (t.seq c).st = .hold
  why : (t.seq c).why = why
  run : (t.seq c).run = none
  late : (t.seq c).late = none
  ledger : (t.chan c).ledger = (s.chan c).ledger
  cbuf : t.host.cbuf = s.host.cbuf
  qs : t.host.qs = s.host.qs

/-- What leaves the step as it stands leaves it held. -/
theorem Held.still {c : Ch} {why : Nat} {s t u : State} (h : Held c why s t) (k : StepStill c t u) : Held c why s u where
  st := k.st.trans h.st
  why := k.why.trans h.why
  run := k.run_none h.run
  late := k.late.trans h.late
  ledger := k.ledger.trans h.ledger
  cbuf := k.cbuf.trans h.cbuf
  qs := k.qs.trans h.qs

/-- Gates off at once. -/
theorem State.enterHold_held (s : State) (c : Ch) (why : Nat) : Held c why s (s.enterHold c why) := by
  unfold State.enterHold
  extract_lets opened
  have h : StepStill c s opened := State.stagedOpen_still (.refl c s) c
  constructor
  case ledger => rw [State.chan_updSeq_same]; exact h.ledger
  case cbuf => exact h.cbuf
  case qs => exact h.qs
  all_goals rw [State.seq_updSeq_same]

/-- HOLD after a step, with the ramp to zero where the loop is closed (R152). -/
theorem State.holdAfter_held (s : State) (c : Ch) (why len : Nat) : Held c why s (s.holdAfter c why len) := by
  unfold State.holdAfter
  extract_lets l
  split
  · refine Held.still ?_ (State.formSetpoint_still (.refl c _) c)
    constructor
    case ledger => rw [State.chan_updSeq_same]
    case cbuf => rfl
    case qs => rfl
    all_goals rw [State.seq_updSeq_same]
  · exact State.enterHold_held s c why

/-! ### A step that begins -/

/-- What the begin of the step `d` leaves: it runs with no ending yet and its entry is open; a failure that waits, the
completions and the queues are the same. -/
structure Begun (c : Ch) (d : StepDesc) (s t : State) : Prop where
  run : (t.seq c).run.map Run.view = some (d, none)
  isOpen : (t.chan c).ledger.isOpen = true
  late : (t.seq c).late = (s.seq c).late
  cbuf : t.host.cbuf = s.host.cbuf
  qs : t.host.qs = s.host.qs

/-- The queues are the same. -/
theorem Begun.subq {c : Ch} {d : StepDesc} {s t : State} (h : Begun c d s t) (q : QId) : t.subq q = s.subq q := by
  unfold State.subq
  rw [h.qs]

/-- What leaves the step as it stands leaves it begun. -/
theorem Begun.still {c : Ch} {d : StepDesc} {s t u : State} (h : Begun c d s t) (k : StepStill c t u) : Begun c d s u where
  run := k.run.trans h.run
  isOpen := (congrArg Ledger.isOpen k.ledger).trans h.isOpen
  late := k.late.trans h.late
  cbuf := k.cbuf.trans h.cbuf
  qs := k.qs.trans h.qs

/-- A begun HOLD step takes its channel to HOLD (R381). -/
theorem Begun.hold {c : Ch} {d : StepDesc} {s t : State} (h : Begun c d s t) (why : Nat) :
    Begun c d s (t.updSeq c (fun x => { x with st := .hold, why := why })) where
  run := by rw [State.seq_updSeq_same]; exact h.run
  isOpen := by rw [State.chan_updSeq_same]; exact h.isOpen
  late := by rw [State.seq_updSeq_same]; exact h.late
  cbuf := h.cbuf
  qs := h.qs

/-- A step without current, other than GANG, leaves its run as it stands as its gates go off. -/
theorem Begun.quietOff {c : Ch} {d : StepDesc} {s t : State} (h : Begun c d s t) (hop : d.op ≠ 18) :
    Begun c d s (t.quietOff c) := by
  unfold State.quietOff
  split
  next => exact h
  next r hr =>
    have hdesc : r.desc = d := by
      have hview := h.run
      rw [hr] at hview
      exact congrArg Prod.fst (Option.some.inj hview)
    extract_lets op off quiet
    have hoff : Begun c d s quiet := h.still ((State.gatesOff_still (.refl c t) c).updRun c _ (fun _ => rfl))
    have hopen : Begun c d s (quiet.stagedOpen c) := hoff.still (State.stagedOpen_still (.refl c _) c)
    rw [if_neg (fun hgang => hop (hdesc ▸ BitVec.eq_of_toNat_eq hgang.1))]
    split
    · exact hopen
    · split
      · exact hopen.hold 5
      · exact hoff

/-- The entry of a run without an ending opens. -/
theorem Begun.of_opens {c : Ch} {d : StepDesc} {s t : State} (hrun : (t.seq c).run.map Run.view = some (d, none))
    (hlate : (t.seq c).late = (s.seq c).late) (hcbuf : t.host.cbuf = s.host.cbuf) (hqs : t.host.qs = s.host.qs)
    (n : Nat) (f : Fld) (v : Nat) : Begun c d s ((t.ledger c (fun g => g.opens n)).wr f v) where
  run := by rw [State.wr_seq, State.seq_ledger, hrun]
  isOpen := by rw [State.wr_chan, State.ledger_isOpen]; rfl
  late := by rw [State.wr_seq, State.seq_ledger, hlate]
  cbuf := hcbuf
  qs := hqs

/-- A valid step other than GANG begins. -/
theorem State.beginStep_begun (s : State) (c : Ch) (cnt : Nat) (d : StepDesc) (gap : Nat) (hop : d.op ≠ 18) :
    Begun c d s (s.beginStep c cnt d gap false) := by
  unfold State.beginStep
  extract_lets committed l closed op fresh tgt carried tss r started opened ranged arrived banked lim i limited softened
    quiet
  have hcommitted : StepStill c s committed := .of_aside (.refl c s) (State.commitIf_aside s _)
  have hfresh : StepStill c s fresh := .ite hcommitted (hcommitted.updSeq c _ (fun _ _ => rfl))
  have hcarried : StepStill c s carried := hfresh.updSeq c _ (fun _ _ => rfl)
  have hlate : (started.seq c).late = (s.seq c).late := by rw [State.seq_updSeq_same]; exact hcarried.late
  have hrun : (started.seq c).run.map Run.view = some (d, none) := by rw [State.seq_updSeq_same]; rfl
  have hopened : Begun c d s opened := .of_opens hrun hlate hcarried.cbuf hcarried.qs started.now _ _
  have hbanked : StepStill c opened banked := by
    have hranged : StepStill c opened ranged := .ite (.of_aside (.refl c _) (State.rangeReq_aside _ _ _ _)) (.refl c _)
    have harrived : StepStill c opened arrived :=
      hranged.foldl _ (fun n _ u k => k.of_aside (State.tagArrive_aside (.refl u) n))
    exact State.bankTo_still harrived c d
  have hsoftened : StepStill c opened softened := by
    have hlimited : StepStill c opened limited := .ite (hbanked.updLoop c _) hbanked
    exact .ite (State.softStart_still hlimited c d) hlimited
  have hquiet : Begun c d s quiet := by
    subst quiet
    split
    · exact hopened.still hsoftened
    · exact (hopened.still hsoftened).quietOff hop
  exact hquiet.still (State.formSetpoint_still (State.startGates_still (.refl c quiet) c) c)

end Sys2Proof.Machine

namespace Sys2Proof.Machine

/-! ### A failure that met the ended step (R57) -/

/-- No failure waits. -/
theorem State.lateFault_none {s : State} {c : Ch} (h : (s.seq c).late = none) : s.lateFault c = s := by
  unfold State.lateFault
  rw [h]

/-- A failure that waits does nothing to a channel without a step and without a gap. -/
theorem State.lateFault_resting {s : State} {c : Ch} (hrun : (s.seq c).run = none) (hst : (s.seq c).st ≠ .gap) :
    ((s.lateFault c).seq c).st = (s.seq c).st ∧ ((s.lateFault c).seq c).run = none ∧
      ((s.lateFault c).chan c).ledger = (s.chan c).ledger ∧ (s.lateFault c).host.cbuf = s.host.cbuf := by
  unfold State.lateFault
  split
  · exact ⟨rfl, hrun, rfl, rfl⟩
  next reason detail _ =>
    extract_lets t
    have hst' : (t.seq c).st = (s.seq c).st := by rw [State.seq_updSeq_same]
    have hrun' : (t.seq c).run = none := by rw [State.seq_updSeq_same]; exact hrun
    have hledger : (t.chan c).ledger = (s.chan c).ledger := by rw [State.chan_updSeq_same]
    have hcbuf : t.host.cbuf = s.host.cbuf := rfl
    clear_value t
    rw [← hst'] at hst
    split
    · have hexcl : StepStill c t (t.contactLost c) := by
        unfold State.contactLost
        extract_lets u
        have hu : StepStill c t u := (StepStill.refl c t).updMet c _
        rw [hu.run_none hrun', hu.st]
        simpa [hst] using hu
      exact ⟨hexcl.st.trans hst', hexcl.run_none hrun', hexcl.ledger.trans hledger, hexcl.cbuf.trans hcbuf⟩
    · have hnone : t.failStep c reason detail = t := by
        unfold State.failStep
        rw [hrun']
        exact if_neg hst
      rw [hnone]
      exact ⟨hst', hrun', hledger, hcbuf⟩

/-- A failure that waits, other than a lost contact, ends the step that has begun. -/
theorem State.lateFault_fails {s : State} {c : Ch} {d : StepDesc} {reason detail : Nat}
    (hrun : (s.seq c).run.map Run.view = some (d, none)) (hlate : (s.seq c).late = some (reason, detail))
    (hcontact : reason ≠ rCONTACT) :
    ((s.lateFault c).seq c).st = .hold ∧ ((s.lateFault c).seq c).late = none ∧
      ((s.lateFault c).seq c).run.map (fun x => (x.desc, x.ending.map (fun y => (y.reason, y.detail)))) =
        some (d, some (reason, detail)) := by
  obtain ⟨r, hr, hview⟩ := Option.map_eq_some_iff.1 hrun
  obtain ⟨hdesc, hending⟩ : r.desc = d ∧ r.ending = none := Prod.mk.inj hview
  unfold State.lateFault
  rw [hlate]
  dsimp only
  rw [if_neg hcontact]
  have hr' : ((s.updSeq c (fun x => { x with late := none })).seq c).run = some r := by
    rw [State.seq_updSeq_same]
    exact hr
  generalize s.updSeq c (fun x => { x with late := none }) = t at hr' ⊢
  unfold State.failStep
  extract_lets why
  rw [hr']
  dsimp only
  rw [if_neg (by simp [Run.failed, hending]), if_neg (by simp [hending])]
  have hheld := t.enterHold_held c why
  rw [State.seq_updSeq_same]
  refine ⟨hheld.st, hheld.late, ?_⟩
  simp [State.countRun, hdesc]

/-! ### Notices of what is passed -/

/-- From `s` to `t` completions may have been added; the registers and the ledger of channel `c` are the same. -/
structure Noted (c : Ch) (s t : State) : Prop where
  regs : t.regs = s.regs
  ledger : (t.chan c).ledger = (s.chan c).ledger
  cbuf : s.host.cbuf <+: t.host.cbuf

namespace Noted

variable {c : Ch} {s t u : State}

/-- Nothing changes. -/
theorem refl (c : Ch) (s : State) : Noted c s s := ⟨rfl, rfl, List.prefix_refl _⟩

/-- One operation after another. -/
theorem trans (h : Noted c s t) (k : Noted c t u) : Noted c s u :=
  ⟨k.regs.trans h.regs, k.ledger.trans h.ledger, h.cbuf.trans k.cbuf⟩

/-- One of two ways. -/
theorem ite {p : Prop} [Decidable p] (h : Noted c s t) (k : Noted c s u) : Noted c s (if p then t else u) := by
  split
  · exact h
  · exact k

/-- A walk through a list. -/
theorem foldl {α : Type} {f : State → α → State} (h : Noted c s t) (l : List α)
    (k : ∀ u a, Noted c s u → Noted c s (f u a)) : Noted c s (l.foldl f t) := by
  induction l generalizing t with
  | nil => exact h
  | cons a l ih => exact ih (k t a h)

/-- The notice of an UPDATE. -/
theorem updNotice (h : Noted c s t) (q : QId) (cnt reason detail : Nat) :
    Noted c s (t.updNotice q cnt reason detail) := by
  unfold State.updNotice State.noticeIn
  exact .ite (h.trans ⟨rfl, rfl, List.prefix_refl _⟩) (h.trans ⟨rfl, rfl, List.prefix_append _ _⟩)

/-- A change of a queue. -/
theorem updQ (h : Noted c s t) (q : QId) (f : SubQ → SubQ) : Noted c s (t.updQ q f) :=
  h.trans ⟨rfl, rfl, List.prefix_refl _⟩

/-- A change of the sequencer. -/
theorem updSeq (h : Noted c s t) (f : ChanS → ChanS) : Noted c s (t.updSeq c f) :=
  h.trans ⟨rfl, by rw [State.chan_updSeq_same], List.prefix_refl _⟩

/-- An UPDATE in progress is dropped with its step. -/
theorem dropUpd (h : Noted c s t) (r : Run) : Noted c s (t.dropUpd c r) := by
  unfold State.dropUpd
  split
  · exact h
  next u _ =>
    unfold State.endUpdate
    extract_lets q noted popped retired
    have hnoted : Noted c s noted := h.updNotice _ _ _ _
    have hpopped : Noted c s popped := .ite (hnoted.updQ _ _) hnoted
    have hretired : Noted c s retired := .ite hpopped (hpopped.updQ _ _)
    exact hretired.updSeq _

/-- The prefetched descriptors up to a count are passed. -/
theorem passTo (h : Noted c s t) (n : Nat) : Noted c s (t.passTo c n) := by
  unfold State.passTo
  extract_lets base k pre noted dropped retired
  have hnoted : Noted c s noted := h.foldl _ (fun _ x k => .ite (k.updNotice _ _ _ _) k)
  exact ((hnoted.updQ _ _).updQ _ _).updSeq _

end Noted

/-- The queue position of a count is a matter of the registers. -/
theorem State.posOf_congr {s t : State} (h : t.regs = s.regs) (q : QId) (n : Nat) : t.posOf q n = s.posOf q n := by
  unfold State.posOf State.qDepth State.rd
  rw [h]

/-- Whether a step may start is a matter of the registers and the profiles. -/
theorem State.startOk_congr {s t : State} (hregs : t.regs = s.regs) (hqd : t.qd = s.qd) (c : Ch) (d : StepDesc)
    (ok : Bool) :
    t.startOk c d ok = s.startOk c d ok := by
  have hprof : t.profOk c d = s.profOk c d := by
    unfold State.profOk State.profAt
    rw [hqd]
  have heis : t.eisFits c d = s.eisFits c d := by
    unfold State.eisFits State.fsUa State.rngActive State.rd
    rw [hregs]
  unfold State.startOk
  rw [hprof, heis]

/-- A step without an UPDATE in progress drops none. -/
theorem State.dropUpd_none (s : State) (c : Ch) {r : Run} (h : r.upd = none) : s.dropUpd c r = s := by
  unfold State.dropUpd
  rw [h]

/-- An action that passes over no step leads to a step that is first in the prefetch. -/
theorem stepTarget_head {p : PreDesc} (h : p.isUpdate = false) (rest : List PreDesc) (base : Nat) :
    stepTarget (p :: rest) base 0 = (base, some p) := by
  simp [stepTarget, h]

/-! ### The transition -/

/-- The step `r` of channel `c` has an ending `e`, other than a revoke, that is due at this boundary. -/
structure State.EndsNow (s : State) (c : Ch) (r : Run) (e : Ending) : Prop where
  run : (s.seq c).run = some r
  ending : r.ending = some e
  due : e.at_ = .due
  reason : e.reason ≠ rREVOKED

section
variable {s : State} {c : Ch} {r : Run} {e : Ending} (h : s.EndsNow c r e)
include h

/-- The transition is made. -/
theorem State.EndsNow.transition (late : Bool) : s.transition c late = (s.endAt c r e late).lateFault c := by
  simp [State.transition, h.run, h.ending, h.due]

/-- An END that completes with room for its records leaves the channel IDLE (R386). -/
theorem State.EndsNow.endAt_end (hop : r.desc.op = 31) (hreason : e.reason = 0) (hupd : r.upd = none)
    (hroom : s.stepRoom r = true) (hslots : s.slotsHeld c = false) (late : Bool) :
    s.endAt c r e late = (s.finishStep c r e.reason (r.action e.reason) 0xFFFF).updSeq c
      (fun x => { x with st := .idle, armed := none }) := by
  unfold State.endAt
  rw [if_neg h.reason, if_pos ⟨hop, hreason⟩]
  simp [State.dropUpd_none _ c hupd, hroom, hslots]

/-- A STOP action takes the channel to HOLD (R392). -/
theorem State.EndsNow.endAt_stop (hend : r.desc.op = 31 → e.reason ≠ 0) (hstop : actStop (r.action e.reason) = true)
    (hupd : r.upd = none) (late : Bool) :
    s.endAt c r e late = (s.finishStep c r e.reason (r.action e.reason) 0xFFFF).holdAfter c 1 r.ssLen := by
  unfold State.endAt
  rw [if_neg h.reason, if_neg (fun k => hend k.1 k.2)]
  simp [State.dropUpd_none _ c hupd, hstop]

/-- A transition whose descriptor is not prefetched (R398): after the completion of the step the notice STARVED. -/
theorem State.EndsNow.endAt_starved (hend : r.desc.op = 31 → e.reason ≠ 0) (hstop : actStop (r.action e.reason) = false)
    {n : Nat} (hn : stepTarget ((s.dropUpd c r).subq (cq c)).pre ((s.dropUpd c r).preBase c) (actSkip (r.action e.reason)) =
      (n, none)) (late : Bool) :
    let t := ((s.finishStep c r e.reason (r.action e.reason) (s.posOf (cq c) n)).dropUpd c r).passTo c n
    s.endAt c r e late = (t.notice (.chan c) (cq c) (s.seq c).cur rSTARVED r.desc.op.toNat (t.posOf (cq c) n) 0).holdAfter c 3
      r.ssLen := by
  intro t
  unfold State.endAt
  simp only [if_neg h.reason, if_neg (fun k : r.desc.op = 31 ∧ e.reason = 0 => hend k.1 k.2), hstop, hn]
  rfl

/-- A transition to a step that is first in the prefetch. -/
theorem State.EndsNow.endAt_next (hend : r.desc.op = 31 → e.reason ≠ 0) (hstop : actStop (r.action e.reason) = false)
    (hupd : r.upd = none) (hskip : actSkip (r.action e.reason) = 0) {p : PreDesc} {rest : List PreDesc}
    (hpre : (s.subq (cq c)).pre = p :: rest) (hp : p.isUpdate = false) (late : Bool) :
    let d := parseStep p.words
    let t := (s.finishStep c r e.reason (r.action e.reason) (s.posOf (cq c) (s.preBase c))).passTo c (s.preBase c)
    s.endAt c r e late =
      if !s.stepRoom r || s.slotsHeld c then t.holdAfter c 4 r.ssLen
      else if late ∨ ((s.seq c).armed ≠ some (s.preBase c) ∧ t.startOk c d p.ok) then t.openGap c
      else (t.popPre c).takeDesc c (s.preBase c) d p.ok 0 false r.ssLen := by
  intro d t
  unfold State.endAt
  have hn : stepTarget (s.subq (cq c)).pre (s.preBase c) 0 = (s.preBase c, some p) := by
    rw [hpre, stepTarget_head hp]
  simp only [if_neg h.reason, if_neg (fun k : r.desc.op = 31 ∧ e.reason = 0 => hend k.1 k.2), hstop, hskip,
    State.dropUpd_none _ c hupd, hn]
  rfl

end

end Sys2Proof.Machine

namespace Sys2Proof.Machine

/-! ### What the transition leaves -/

/-- An entry that has opened is open. -/
theorem Ledger.opens_isOpen (l : Ledger) (t : Nat) : (l.opens t).isOpen = true := rfl

/-- A gap opens (R73, R305): the channel is in it, with an open entry and the run that it had; a failure that waits, the
queues and the sources are the same. -/
theorem State.openGap_spec (s : State) (c : Ch) :
    ((s.openGap c).seq c).st = .gap ∧ ((s.openGap c).seq c).run.map Run.view = (s.seq c).run.map Run.view ∧
      ((s.openGap c).seq c).late = (s.seq c).late ∧ ((s.openGap c).chan c).ledger.isOpen = true ∧
      (s.openGap c).host.qs = s.host.qs ∧ (s.openGap c).flt.srcs = s.flt.srcs := by
  unfold State.openGap
  extract_lets gap opened
  have hseq : opened.seq c = gap.seq c := by rw [State.wr_seq, State.seq_ledger]
  have hopen : (opened.chan c).ledger.isOpen = true := by rw [State.wr_chan, State.ledger_isOpen, Ledger.opens_isOpen]
  have hqs : opened.host.qs = s.host.qs := rfl
  have hsrcs : opened.flt.srcs = s.flt.srcs := rfl
  clear_value opened
  have h : StepStill c opened (opened.zeroSetpoint c) := State.zeroSetpoint_still (.refl c opened) c
  rw [h.st, h.run, h.late, h.ledger, h.qs, h.srcs, hseq, State.seq_updSeq_same]
  exact ⟨rfl, rfl, rfl, hopen, hqs, hsrcs⟩

/-- What the notice STARVED stands behind: the completion of the step with its reason. -/
theorem Finished.posted_of_prefix {c : Ch} {reason : Nat} {s t : State} (h : Finished c reason s t) {l : List CGroup}
    (hl : t.host.cbuf <+: l) :
    ∃ g ∈ l[s.host.cbuf.length]?, g.owner = .chan c ∧ leadsWith g.recs reason := by
  obtain ⟨recs, hcbuf, hlead⟩ := h.posted
  obtain ⟨rest, rfl⟩ := hl
  exact ⟨⟨.chan c, recs, 0⟩, by simp [hcbuf], rfl, hlead⟩

/-- A completion of a step adds one group. -/
theorem Finished.cbuf_length {c : Ch} {reason : Nat} {s t : State} (h : Finished c reason s t) :
    t.host.cbuf.length = s.host.cbuf.length + 1 := by
  obtain ⟨recs, hcbuf, -⟩ := h.posted
  simp [hcbuf]

/-- A step that ended and left its channel in HOLD: no failure waits any more, so that the transition ends there. -/
theorem Finished.hold {c : Ch} {reason why len : Nat} {s t : State} (h : Finished c reason s t) :
    let u := (t.holdAfter c why len).lateFault c
    (u.seq c).st = .hold ∧ (u.seq c).why = why ∧ (u.seq c).run = none ∧ (u.chan c).ledger.isOpen = false ∧
      u.host.cbuf.length = s.host.cbuf.length + 1 := by
  have hheld := t.holdAfter_held c why len
  rw [State.lateFault_none hheld.late]
  exact ⟨hheld.st, hheld.why, hheld.run, (congrArg Ledger.isOpen hheld.ledger).trans h.isOpen,
    (congrArg List.length hheld.cbuf).trans h.cbuf_length⟩

section
variable {s : State} {c : Ch} {r : Run} {e : Ending} (h : s.EndsNow c r e)
include h

/-- An END that completes leaves its channel IDLE. -/
theorem State.EndsNow.end_idle (hop : r.desc.op = 31) (hreason : e.reason = 0) (hupd : r.upd = none)
    (hroom : s.stepRoom r = true) (hslots : s.slotsHeld c = false) :
    s.ends (.bankSwap c) (fun t => (t.seq c).st = .idle ∧ (t.seq c).run = none ∧ (t.chan c).ledger.isOpen = false ∧
      t.host.cbuf.length = s.host.cbuf.length + 1) := by
  refine ⟨s.transition c false, rfl, ?_⟩
  rw [h.transition, h.endAt_end hop hreason hupd hroom hslots]
  have hfin := s.finishStep_finished c r e.reason (r.action e.reason) 0xFFFF
  generalize s.finishStep c r e.reason (r.action e.reason) 0xFFFF = t at hfin
  have hst : ((t.updSeq c (fun x => { x with st := .idle, armed := none })).seq c).st = .idle := by
    rw [State.seq_updSeq_same]
  have hrun : ((t.updSeq c (fun x => { x with st := .idle, armed := none })).seq c).run = none := by
    rw [State.seq_updSeq_same]
    exact hfin.run
  obtain ⟨hst', hrun', hledger, hcbuf⟩ := State.lateFault_resting hrun (by rw [hst]; nofun)
  refine ⟨hst'.trans hst, hrun', ?_, (congrArg List.length hcbuf).trans hfin.cbuf_length⟩
  rw [hledger, State.chan_updSeq_same]
  exact hfin.isOpen

/-- A STOP action leaves its channel in HOLD with cause 1. -/
theorem State.EndsNow.stop_holds (hend : r.desc.op = 31 → e.reason ≠ 0) (hstop : actStop (r.action e.reason) = true)
    (hupd : r.upd = none) :
    s.ends (.bankSwap c) (fun t => (t.seq c).st = .hold ∧ (t.seq c).why = 1 ∧ (t.seq c).run = none ∧
      (t.chan c).ledger.isOpen = false ∧ t.host.cbuf.length = s.host.cbuf.length + 1) := by
  refine ⟨s.transition c false, rfl, ?_⟩
  rw [h.transition, h.endAt_stop hend hstop hupd]
  exact (s.finishStep_finished c r e.reason (r.action e.reason) 0xFFFF).hold

/-- A transition without its descriptor leaves its channel in HOLD with cause 3, behind the completion of the step and the
notice STARVED. -/
theorem State.EndsNow.starved_holds (hend : r.desc.op = 31 → e.reason ≠ 0) (hstop : actStop (r.action e.reason) = false)
    {n : Nat} (hn : stepTarget ((s.dropUpd c r).subq (cq c)).pre ((s.dropUpd c r).preBase c)
      (actSkip (r.action e.reason)) = (n, none)) :
    s.ends (.bankSwap c) (fun t => (t.seq c).st = .hold ∧ (t.seq c).why = 3 ∧ (t.chan c).ledger.isOpen = false ∧
      (∃ g ∈ t.host.cbuf.getLast?, g.owner = .chan c ∧ g.recs = [noticeRec c.val (s.posOf (cq c) (s.seq c).cur) rSTARVED
        r.desc.op.toNat (s.posOf (cq c) n) 0]) ∧
      (∃ g ∈ t.host.cbuf[s.host.cbuf.length]?, g.owner = .chan c ∧ leadsWith g.recs e.reason) ∧
      (r.upd = none → (s.subq (cq c)).pre = [] → t.host.cbuf.length = s.host.cbuf.length + 2)) := by
  refine ⟨s.transition c false, rfl, ?_⟩
  rw [h.transition, h.endAt_starved hend hstop hn]
  have hfin := s.finishStep_finished c r e.reason (r.action e.reason) (s.posOf (cq c) n)
  generalize s.finishStep c r e.reason (r.action e.reason) (s.posOf (cq c) n) = t at hfin
  have hnoted : Noted c t ((t.dropUpd c r).passTo c n) := ((Noted.refl c t).dropUpd r).passTo n
  have hexact : r.upd = none → (s.subq (cq c)).pre = [] → ((t.dropUpd c r).passTo c n).host.cbuf = t.host.cbuf := by
    intro hupd hpre
    rw [State.dropUpd_none t c hupd, State.passTo_nothing (by simp [hfin.pre, hpre])]
    rfl
  generalize (t.dropUpd c r).passTo c n = u at hnoted hexact
  have hregs : u.regs = s.regs := hnoted.regs.trans hfin.regs
  rw [State.notice_room u (.chan c) _ _ _ _ _ _ (.inl (by simp)), State.posOf_congr hregs, State.posOf_congr hregs]
  generalize hg : [noticeRec (cq c).val (s.posOf (cq c) (s.seq c).cur) rSTARVED r.desc.op.toNat (s.posOf (cq c) n) 0] = g
  have hheld := (u.complete (.chan c) 0 g).holdAfter_held c 3 r.ssLen
  have hbuf : ((u.complete (.chan c) 0 g).holdAfter c 3 r.ssLen).host.cbuf = u.host.cbuf ++ [⟨.chan c, g, 0⟩] :=
    hheld.cbuf
  rw [State.lateFault_none hheld.late]
  refine ⟨hheld.st, hheld.why, ?_, ?_, ?_, fun hupd hpre => ?_⟩
  · rw [hheld.ledger, State.complete_chan, hnoted.ledger]
    exact hfin.isOpen
  · exact ⟨⟨.chan c, g, 0⟩, by simp [hbuf], rfl, hg.symm⟩
  · exact hfin.posted_of_prefix (hbuf ▸ hnoted.cbuf.trans (List.prefix_append _ _))
  · rw [hbuf, hexact hupd hpre, List.length_append, hfin.cbuf_length]
    rfl

/-- A transition to the step `p` that is first in the prefetch: the ended step has finished and is retired in a state from
which the channel, by the room for its records, the time of the transition and what is armed, goes on to HOLD, a gap or `p`. -/
theorem State.EndsNow.next_spec (hend : r.desc.op = 31 → e.reason ≠ 0) (hstop : actStop (r.action e.reason) = false)
    (hupd : r.upd = none) (hskip : actSkip (r.action e.reason) = 0) {p : PreDesc} {rest : List PreDesc}
    (hpre : (s.subq (cq c)).pre = p :: rest) (hp : p.isUpdate = false) :
    ∃ t, Finished c e.reason s t ∧ (t.subq (cq c)).done = s.preBase c % 65536 ∧
      (s.stepRoom r = false → ∀ late, s.transition c late = (t.holdAfter c 4 r.ssLen).lateFault c) ∧
      (s.stepRoom r = true → s.slotsHeld c = false → s.transition c true = (t.openGap c).lateFault c ∧
        ((s.seq c).armed = some (s.preBase c) → s.transition c false =
          ((t.popPre c).takeDesc c (s.preBase c) (parseStep p.words) p.ok 0 false r.ssLen).lateFault c)) := by
  have hfin := s.finishStep_finished c r e.reason (r.action e.reason) (s.posOf (cq c) (s.preBase c))
  have hnext := h.endAt_next hend hstop hupd hskip hpre hp
  generalize s.finishStep c r e.reason (r.action e.reason) (s.posOf (cq c) (s.preBase c)) = t at hfin hnext
  obtain ⟨hpassed, hdone⟩ := hfin.passTo
  refine ⟨t.passTo c (s.preBase c), hpassed, hdone, fun hroom late => ?_, fun hroom hslots => ⟨?_, fun harmed => ?_⟩⟩
  · rw [h.transition, hnext]
    simp [hroom]
  · rw [h.transition, hnext]
    simp [hroom, hslots]
  · rw [h.transition, hnext]
    simp [hroom, hslots, harmed]

section
variable (hend : r.desc.op = 31 → e.reason ≠ 0) (hstop : actStop (r.action e.reason) = false)
    (hupd : r.upd = none) (hskip : actSkip (r.action e.reason) = 0) {p : PreDesc} {rest : List PreDesc}
    (hpre : (s.subq (cq c)).pre = p :: rest) (hp : p.isUpdate = false)
include hend hstop hupd hskip hpre hp

/-- Without room for its records the channel waits in HOLD with cause 4. -/
theorem State.EndsNow.noRoom_holds (hroom : s.stepRoom r = false) :
    s.ends (.bankSwap c) (fun t => (t.seq c).st = .hold ∧ (t.seq c).why = 4 ∧ (t.chan c).ledger.isOpen = false) := by
  obtain ⟨t, hfin, -, hheld, -⟩ := h.next_spec hend hstop hupd hskip hpre hp
  refine ⟨s.transition c false, rfl, ?_⟩
  rw [hheld hroom]
  obtain ⟨hst, hwhy, -, hopen, -⟩ := hfin.hold (why := 4) (len := r.ssLen)
  exact ⟨hst, hwhy, hopen⟩

section
variable (hroom : s.stepRoom r = true) (hslots : s.slotsHeld c = false)
include hroom hslots

/-- The transition to an armed valid step: it has begun before a failure that met the ended step acts. -/
theorem State.EndsNow.armed_begins (hok : s.startOk c (parseStep p.words) p.ok = true) (hop : (parseStep p.words).op ≠ 18)
    (harmed : (s.seq c).armed = some (s.preBase c)) :
    ∃ t : State, s.transition c false = t.lateFault c ∧ (t.seq c).run.map Run.view = some (parseStep p.words, none) ∧
      (t.seq c).late = (s.seq c).late ∧ (t.subq (cq c)).pre = rest ∧ (t.subq (cq c)).done = s.preBase c % 65536 ∧
      (t.chan c).ledger.isOpen = true ∧ t.host.cbuf.length = s.host.cbuf.length + 1 := by
  obtain ⟨t, hfin, hdone, -, hnext⟩ := h.next_spec hend hstop hupd hskip hpre hp
  refine ⟨_, (hnext hroom hslots).2 harmed, ?_⟩
  have hok' : (t.popPre c).startOk c (parseStep p.words) p.ok = true :=
    (State.startOk_congr (t := t.popPre c) hfin.regs hfin.qd c _ _).trans hok
  unfold State.takeDesc
  rw [if_pos hok']
  have hbegun := (t.popPre c).beginStep_begun c (s.preBase c) (parseStep p.words) 0 hop
  have hq : (t.popPre c).subq (cq c) = { t.subq (cq c) with pre := (t.subq (cq c)).pre.drop 1 } :=
    State.subq_updQ_same _ _ _
  rw [hbegun.subq, hq]
  refine ⟨hbegun.run, hbegun.late.trans hfin.late, ?_, hdone, hbegun.isOpen, ?_⟩
  · simp [hfin.pre, hpre]
  · rw [hbegun.cbuf]
    exact hfin.cbuf_length

/-- A transition that is not issued in time opens a gap, and the source SEQ_LATE is active. -/
theorem State.EndsNow.late_gap (hlate : (s.seq c).late = none) (hquiet : s.quiet 12)
    (hsafe : bitN (s.src 12).react 5 = false) :
    s.ends (.seqLate c) (fun t => (t.seq c).st = .gap ∧ (t.seq c).run = none ∧ (t.chan c).ledger.isOpen = true ∧
      (t.subq (cq c)).pre = p :: rest ∧ t.activeIn 12 c = true) := by
  obtain ⟨t, hfin, -, -, hnext⟩ := h.next_spec hend hstop hupd hskip hpre hp
  obtain ⟨hst, hrun, hlate', hopen, hqs, hsrcs⟩ := t.openGap_spec c
  have htrans : s.transition c true = t.openGap c := by
    rw [(hnext hroom hslots).1, State.lateFault_none (hlate'.trans (hfin.late.trans hlate))]
  have hexec : exec (.seqLate c) s = .next ((t.openGap c).raise 12 c) := by
    change execSeqLate c s = _
    unfold execSeqLate
    rw [if_pos (by simp [h.run, h.ending, h.due]), htrans]
  generalize t.openGap c = u at *
  have hsrc : u.src 12 = s.src 12 := by
    unfold State.src
    rw [hsrcs, hfin.srcs]
  obtain ⟨hch, -, hqs', hactive⟩ := u.raise_active 12 c (by decide) (by decide)
    (by unfold State.quiet; rwa [hsrc]) (by rwa [hsrc])
  have hchan : (u.raise 12 c).chan c = u.chan c := by
    unfold State.chan
    rw [hch]
  have hseq : (u.raise 12 c).seq c = u.seq c := congrArg Chan.seq hchan
  have hq : (u.raise 12 c).subq (cq c) = t.subq (cq c) := by
    unfold State.subq
    rw [hqs', hqs]
  refine ⟨_, hexec, ?_⟩
  dsimp only
  rw [hseq, hchan, hq]
  exact ⟨hst, by simpa [hfin.run] using hrun, hopen, hfin.pre.trans hpre, hactive⟩

end

end

end

end Sys2Proof.Machine

section
open Sys2Proof Sys2Proof.Machine

/-- Settles O34: each clause is one outcome of the transition (`State.endAt`), stated apart. What ends the step leaves the
rest of the channel as it stands (`State.finishStep_finished`); then the channel is IDLE, enters HOLD
(`State.holdAfter_held`), begins the armed step (`State.beginStep_begun`) or opens a gap (`State.openGap_spec`). A failure
that waits finds a channel without a step, or the step that has just begun. -/
theorem transitionsAtTheirBoundary : Obligations.TransitionsAtTheirBoundary := by
  unfold Obligations.TransitionsAtTheirBoundary
  intro s c r e hrun hending hdue hrevoked
  have h : s.EndsNow c r e := ⟨hrun, hending, hdue, hrevoked⟩
  refine ⟨fun hop hreason hupd hroom hslots => h.end_idle hop hreason hupd hroom hslots, fun hend => ⟨?_, ?_, ?_⟩⟩
  · exact fun hstop _ hupd => h.stop_holds hend hstop hupd
  · exact fun hstop n hn => h.starved_holds hend hstop hn
  · intro hstop _ hupd hskip p rest hpre hp
    refine ⟨fun hroom hslots hok hop harmed => ?_, fun hroom hslots hlate hquiet hsafe => ?_, fun hroom => ?_⟩
    · obtain ⟨t, htrans, hview, hlate, hrest, hdone, hopen, hlength⟩ :=
        h.armed_begins hend hstop hupd hskip hpre hp hroom hslots hok hop harmed
      refine ⟨fun hnone => ⟨_, rfl, ?_⟩, fun reason detail hsome hcontact => ⟨_, rfl, ?_⟩⟩
      · rw [htrans, State.lateFault_none (hlate.trans hnone)]
        exact ⟨by simpa [Run.view] using congrArg (Option.map Prod.fst) hview, hrest, hdone, hopen, hlength⟩
      · rw [htrans]
        exact State.lateFault_fails hview (hlate.trans hsome) hcontact
    · exact h.late_gap hend hstop hupd hskip hpre hp hroom hslots hlate hquiet hsafe
    · exact h.noRoom_holds hend hstop hupd hskip hpre hp hroom

end

section
/-! The lemmas from here on are many. They are elaborated one at a time, since each that is under way holds memory of its own. -/

set_option Elab.async false


section
/-!
SUPPORT. A property of the state is followed through the operations once for all. What a `Walk` asks of the property is that
changes beside the registers, the trust core and the gangs keep it, and so do writes of registers, steps of the lifecycle,
gangs that form or dissolve, and resets; then every operation keeps it.
-/

namespace Sys2Proof.Machine

/-- A property that the operations keep. -/
structure Walk where
  prop : State → Prop
  frame : ∀ {t u : State}, prop t → u.pending = t.pending → u.regs = t.regs → u.sec = t.sec →
    (∀ d, (u.seq d).lead = (t.seq d).lead ∧ (u.seq d).size = (t.seq d).size) → prop u
  wr : ∀ {t : State}, prop t → ∀ (f : Fld) (v : Nat), prop (t.wr f v)
  filter : ∀ {t : State}, prop t → ∀ (p : Fld × Nat → Bool), prop { t with regs := t.regs.filter p }
  sec : ∀ {t : State}, prop t → ∀ x : SecS, x.uid = t.sec.uid → x.gradeM = t.sec.gradeM → OtpFwd t.sec x →
    prop { t with sec := x }
  gangForm : ∀ {t : State}, prop t → ∀ (c : Ch) (d : StepDesc) (n : Nat), t.gangMay c d n = true → prop (t.gangForm c n)
  dissolve : ∀ {t : State}, prop t → ∀ c : Ch, prop (t.dissolve c)
  fullReset : ∀ {t : State}, prop t → ∀ (k : RstKind) (cause wake : Nat) (cut : Bool), prop (t.fullReset k cause wake cut)

/-- The state has the property. -/
def Walk.On (w : Walk) (s : State) : Prop := w.prop s

namespace Walk.On

section
variable {w : Walk} {s t : State}

theorem ite {p : Prop} [Decidable p] (h : w.On s) (k : w.On t) : w.On (if p then s else t) := by
  split
  · exact h
  · exact k

theorem foldl {α : Type} {f : State → α → State} (l : List α) (k : ∀ t a, w.On t → w.On (f t a)) (h : w.On s) :
    w.On (l.foldl f s) := by
  induction l generalizing s with
  | nil => exact h
  | cons a l ih => exact ih (k s a h)

theorem of_pair {α : Type} {x : α} {p : State × α} (h : w.On p.1) (e : p = (t, x)) : w.On t := by
  rw [e] at h
  exact h

theorem of_pair_snd {α : Type} {x : α} {p : α × State} (h : w.On p.2) (e : p = (x, t)) : w.On t := by
  rw [e] at h
  exact h

variable (h : w.On s)
include h

/-- Registers, trust and channels are the same. -/
theorem same {u : State} (hu : u.pending = s.pending ∧ u.regs = s.regs ∧ u.sec = s.sec ∧ u.ch = s.ch) : w.On u := by
  obtain ⟨hpending, hregs, hsec, hch⟩ := hu
  refine w.frame h hpending hregs hsec fun d => ?_
  have hseq : u.seq d = s.seq d := congrArg (fun v : Vector Chan 16 => (bget v d).seq) hch
  rw [hseq]
  exact ⟨rfl, rfl⟩

theorem filter (p : Fld × Nat → Bool) : w.On { s with regs := s.regs.filter p } := w.filter h p
theorem withWritten (x : RegFile) : w.On { s with written := x } := h.same ⟨rfl, rfl, rfl, rfl⟩
theorem withSys (x : SysS) : w.On { s with sys := x } := h.same ⟨rfl, rfl, rfl, rfl⟩
theorem withPins (x : Pins) : w.On { s with pins := x } := h.same ⟨rfl, rfl, rfl, rfl⟩
theorem withHost (x : HostS) : w.On { s with host := x } := h.same ⟨rfl, rfl, rfl, rfl⟩
theorem withRing (x : RingS) : w.On { s with ring := x } := h.same ⟨rfl, rfl, rfl, rfl⟩
theorem withFlt (x : FltS) : w.On { s with flt := x } := h.same ⟨rfl, rfl, rfl, rfl⟩
theorem withCmp (x : Vector CmpS 72) : w.On { s with cmp := x } := h.same ⟨rfl, rfl, rfl, rfl⟩
theorem withSaf (x : SafS) : w.On { s with saf := x } := h.same ⟨rfl, rfl, rfl, rfl⟩
theorem withMet (x : MetS) : w.On { s with met := x } := h.same ⟨rfl, rfl, rfl, rfl⟩
theorem withMot (x : MotS) : w.On { s with mot := x } := h.same ⟨rfl, rfl, rfl, rfl⟩
theorem withQd (x : Vector QuadS 4) : w.On { s with qd := x } := h.same ⟨rfl, rfl, rfl, rfl⟩
theorem withFree (x : Nat) : w.On { s with free := x } := h.same ⟨rfl, rfl, rfl, rfl⟩

end

end Walk.On

section
variable {w : Walk} {s : State} (h : w.On s)
include h

theorem State.wr_walk (f : Fld) (v : Nat) : w.On (s.wr f v) := w.wr h f v
theorem State.wb_walk (f : Fld) (v : Bool) : w.On (s.wb f v) := w.wr h f _
theorem State.wrS_walk (f : Fld) (v : Int) : w.On (s.wrS f v) := w.wr h f _
theorem State.incSat_walk (f : Fld) : w.On (s.incSat f) := w.wr h f _
theorem State.incWrap_walk (f : Fld) : w.On (s.incWrap f) := w.wr h f _
theorem State.setFBit_walk (f : Fld) (i : Nat) : w.On (s.setFBit f i) := w.wr h f _
theorem State.clrFBit_walk (f : Fld) (i : Nat) : w.On (s.clrFBit f i) := w.wr h f _

/-- A change of a channel that leaves its place in its gang. -/
theorem State.updCh_walk (c : Ch) (f : Chan → Chan)
    (hf : ∀ x, (f x).seq.lead = x.seq.lead ∧ (f x).seq.size = x.seq.size := by exact fun _ => ⟨rfl, rfl⟩) :
    w.On (s.updCh c f) := by
  refine w.frame h rfl rfl rfl fun d => ?_
  unfold State.seq
  by_cases hd : c = d
  · subst hd
    rw [State.chan_updCh_same]
    exact hf _
  · rw [State.chan_updCh_other _ _ hd]
    exact ⟨rfl, rfl⟩

theorem State.updStage_walk (c : Ch) (f : Stage → Stage) : w.On (s.updStage c f) := State.updCh_walk h c _
theorem State.updLoop_walk (c : Ch) (f : LoopS → LoopS) : w.On (s.updLoop c f) := State.updCh_walk h c _
theorem State.updMet_walk (c : Ch) (f : ChMet → ChMet) : w.On (s.updMet c f) := State.updCh_walk h c _
theorem State.updTlm_walk (c : Ch) (f : Tlm → Tlm) : w.On (s.updTlm c f) := State.updCh_walk h c _
theorem State.updLed_walk (c : Ch) (f : Ledger → Ledger) : w.On (s.updLed c f) := State.updCh_walk h c _
theorem State.updSeq_walk (c : Ch) (f : ChanS → ChanS)
    (hf : ∀ x, (f x).lead = x.lead ∧ (f x).size = x.size := by exact fun _ => ⟨rfl, rfl⟩) : w.On (s.updSeq c f) :=
  State.updCh_walk h c _ fun x => hf x.seq
theorem State.updRun_walk (c : Ch) (f : Run → Run) : w.On (s.updRun c f) := State.updSeq_walk h c _
/-- A change of a channel that leaves the place in its gang that the channel has. -/
theorem State.onChannel_walk (c : Ch) {f : Chan → Chan}
    (hf : ∀ x, x = s.chan c → (f x).seq.lead = x.seq.lead ∧ (f x).seq.size = x.seq.size) : w.On (s.updCh c f) := by
  refine w.frame h rfl rfl rfl fun d => ?_
  unfold State.seq
  by_cases hd : c = d
  · subst hd
    rw [State.chan_updCh_same]
    exact hf _ rfl
  · rw [State.chan_updCh_other _ _ hd]
    exact ⟨rfl, rfl⟩
theorem State.updQd_walk (q : Quad) (f : QuadS → QuadS) : w.On (s.updQd q f) := h.withQd _
theorem State.updQ_walk (q : QId) (f : SubQ → SubQ) : w.On (s.updQ q f) := h.withHost _
theorem State.updSrc_walk (n : Src) (f : SrcS → SrcS) : w.On (s.updSrc n f) := h.withFlt _
theorem State.updCmp_walk (i : CmpId) (f : CmpS → CmpS) : w.On (s.updCmp i f) := h.withCmp _
theorem State.emit_walk (o : Out) : w.On (s.emit o) := h.same ⟨rfl, rfl, rfl, rfl⟩
theorem State.takeNat_walk : w.On s.takeNat.2 := h.withFree _
theorem State.takeInt_walk : w.On s.takeInt.2 := h.withFree _
theorem State.irq_walk (v : Fin 8) : w.On (s.irq v) := h.withHost _
theorem State.event_walk (a b c : Nat) : w.On (s.event a b c) := by
  unfold State.event
  exact .ite (h.withHost _) h
theorem State.newRound_walk : w.On s.newRound := h.withMet _
theorem State.dissolve_walk (c : Ch) : w.On (s.dissolve c) := w.dissolve h c
theorem State.fullReset_walk (k : RstKind) (cause wake : Nat) (cut : Bool) : w.On (s.fullReset k cause wake cut) :=
  w.fullReset h k cause wake cut

/-- The counter of a rollback only moves up. -/
theorem State.advanceRbc_walk : w.On s.advanceRbc := by
  unfold State.advanceRbc
  split
  · split
    next hadv =>
      have hlt : s.sec.rbc < _ := of_decide_eq_true (Bool.and_eq_true _ _ ▸ hadv).2
      exact w.sec h _ rfl rfl fun hl => ⟨Nat.le_of_lt hlt, Nat.le_refl _, hl, BitVec.and_self, id⟩
    · exact h
  · exact h

end

theorem State.latchCause_walk {w : Walk} {s : State} (h : w.On s) (c : SafeCause) : w.On (s.latchCause c) := by
  unfold State.latchCause
  extract_lets first latched saf void
  have hlatched : w.On latched := by
    refine .ite h ?_
    cases c <;> exact State.wr_walk (State.wr_walk (State.wb_walk h _ _) _ _) _ _
  have hvoid : w.On void := hlatched.withSaf _
  cases c with
  | sf n => exact State.setFBit_walk (hvoid.withSaf _) _ _
  | ringWdog r => cases r <;> exact State.setFBit_walk hvoid _ _
  | _ => exact State.setFBit_walk hvoid _ _

theorem State.kdrLow_walk {w : Walk} {s : State} (h : w.On s) : w.On (s.kdrLow) := by
  unfold State.kdrLow
  exact .ite (State.wr_walk (Walk.On.withSaf h _) _ _) (Walk.On.withSaf h _)

theorem State.complete_walk {w : Walk} {s : State} (h : w.On s) (o : Owner) (v : Fin 8) (recs : List (List Word)) :
    w.On (s.complete o v recs) := by
  unfold State.complete
  exact Walk.On.withHost h _

theorem State.admEnter_walk {w : Walk} {s : State} (h : w.On s) (f : AdmFin) : w.On (s.admEnter f) := by
  unfold State.admEnter
  extract_lets +onlyGivenNames s1
  have hs1 : w.On s1 := State.complete_walk h _ _ _
  extract_lets +onlyGivenNames _ s2
  have hs2 : w.On s2 := Walk.On.withHost hs1 _
  exact State.updQ_walk hs2 _ _

theorem State.admDone_walk {w : Walk} {s : State} (h : w.On s) (op : Nat) (a : AdmHdr) (status : Nat) (result : Nat)
    : w.On (s.admDone op a status result) := by
  unfold State.admDone
  exact .ite (State.admEnter_walk h _) (Walk.On.withHost h _)

theorem State.abandon_walk {w : Walk} {s : State} (h : w.On s) (status : Nat) : w.On (s.abandon status) := by
  unfold State.abandon
  split
  · exact .ite (State.admDone_walk (Walk.On.withSys h _) _ _ _ _) h
  · exact h

theorem State.openLoop_walk {w : Walk} {s : State} (h : w.On s) (c : Ch) : w.On (s.openLoop c) := by
  unfold State.openLoop
  extract_lets +onlyGivenNames s1
  have hs1 : w.On s1 := State.updLoop_walk h _ _
  exact State.updSeq_walk hs1 _ _

theorem State.gatesOff1_walk {w : Walk} {s : State} (h : w.On s) (c : Ch) : w.On (s.gatesOff1 c) := by
  unfold State.gatesOff1
  extract_lets +onlyGivenNames on s1
  have hs1 : w.On s1 := State.openLoop_walk (State.updStage_walk h _ _) _
  exact .ite (State.updLoop_walk hs1 _ _) hs1

theorem State.stagedOpen_walk {w : Walk} {s : State} (h : w.On s) (c : Ch) : w.On (s.stagedOpen c) := by
  unfold State.stagedOpen
  exact .foldl _ (fun _ _ h2 => State.updStage_walk (State.gatesOff1_walk h2 _) _ _) h

theorem State.enterHold_walk {w : Walk} {s : State} (h : w.On s) (c : Ch) (why : Nat) : w.On (s.enterHold c why) := by
  unfold State.enterHold
  extract_lets +onlyGivenNames s1
  have hs1 : w.On s1 := State.stagedOpen_walk h _
  exact State.updSeq_walk hs1 _ _

theorem State.ledger_walk {w : Walk} {s : State} (h : w.On s) (c : Ch) (f : Ledger → Ledger) : w.On (s.ledger c f) := by
  unfold State.ledger
  exact State.updCh_walk h c _ fun x => by
    rw [Chan.saveLedger_seq]
    exact ⟨rfl, rfl⟩

theorem State.failStep_walk {w : Walk} {s : State} (h : w.On s) (c : Ch) (reason : Nat) (detail : Nat) : w.On
    (s.failStep c reason detail) := by
  unfold State.failStep
  extract_lets +onlyGivenNames why
  split
  · exact .ite (State.enterHold_walk (State.ledger_walk h _ _) _ _) h
  · refine .ite h ?_
    refine .ite (State.updSeq_walk h _ _) ?_
    extract_lets +onlyGivenNames s1
    have hs1 : w.On s1 := State.enterHold_walk h _ _
    exact State.updSeq_walk hs1 _ _

theorem State.protOpen_walk {w : Walk} {s : State} (h : w.On s) (c : Ch) : w.On (s.protOpen c) := by
  unfold State.protOpen
  exact .foldl _ (fun _ _ h2 => State.updStage_walk (State.gatesOff1_walk h2 _) _ _) h

theorem State.safeChannels_walk {w : Walk} {s : State} (h : w.On s) : w.On (s.safeChannels) := by
  unfold State.safeChannels
  exact .foldl _ (fun _ _ h2 => State.wr_walk (State.protOpen_walk (.ite (State.failStep_walk h2 _ _ _)
      (State.failStep_walk h2 _ _ _)) _) _ _) h

theorem State.motComplete_walk {w : Walk} {s : State} (h : w.On s) (reason : Nat) (detail : Nat) : w.On
    (s.motComplete reason detail) := by
  unfold State.motComplete
  split
  · exact h
  · extract_lets +onlyGivenNames s1
    have hs1 : w.On s1 := State.complete_walk h _ _ _
    extract_lets +onlyGivenNames _ s2
    have hs2 : w.On s2 := Walk.On.withMot hs1 _
    exact State.updQ_walk hs2 _ _

theorem State.motGatesOff_walk {w : Walk} {s : State} (h : w.On s) : w.On (s.motGatesOff) := by
  unfold State.motGatesOff
  exact State.wr_walk (Walk.On.withMot h _) _ _

theorem State.motTorqueOff_walk {w : Walk} {s : State} (h : w.On s) : w.On (s.motTorqueOff) := by
  unfold State.motTorqueOff
  split
  · extract_lets +onlyGivenNames s1
    have hs1 : w.On s1 := State.motComplete_walk h _ _
    exact State.motGatesOff_walk (State.wr_walk hs1 _ _)
  · extract_lets +onlyGivenNames _ s1
    have hs1 : w.On s1 := Walk.On.withMot h _
    exact State.motGatesOff_walk (.ite hs1 (State.wr_walk hs1 _ _))

theorem State.traceFire_walk {w : Walk} {s : State} (h : w.On s) (q : Quad) : w.On (s.traceFire q) := by
  unfold State.traceFire
  refine .ite ?_ h
  extract_lets +onlyGivenNames s1
  have hs1 : w.On s1 := State.wr_walk h _ _
  extract_lets +onlyGivenNames s2
  have hs2 : w.On s2 := State.wr_walk (State.wr_walk hs1 _ _) _ _
  extract_lets +onlyGivenNames s3
  have hs3 : w.On s3 := State.updQd_walk hs2 _ _
  exact State.wr_walk hs3 _ _

theorem State.traceTrig_walk {w : Walk} {s : State} (h : w.On s) (q : Quad) (n : Nat) : w.On (s.traceTrig q n) := by
  unfold State.traceTrig
  refine .ite ?_ h
  extract_lets +onlyGivenNames s1
  have hs1 : w.On s1 := State.traceFire_walk h _
  exact .foldl _ (fun _ _ h2 => .ite (State.traceFire_walk h2 _) h2) hs1

theorem State.traceAll_walk {w : Walk} {s : State} (h : w.On s) (n : Nat) : w.On (s.traceAll n) := by
  unfold State.traceAll
  exact .foldl _ (fun _ _ h2 => State.traceTrig_walk h2 _ _) h

theorem State.errPull_walk {w : Walk} {s : State} (h : w.On s) : w.On (s.errPull) := by
  unfold State.errPull
  exact .ite h (State.wr_walk (Walk.On.withFlt h _) _ _)

theorem State.traceStop_walk {w : Walk} {s : State} (h : w.On s) (q : Quad) : w.On (s.traceStop q) := by
  unfold State.traceStop
  exact .ite (State.wr_walk (State.wr_walk h _ _) _ _) h

theorem State.dumpTrigger_walk {w : Walk} {s : State} (h : w.On s) (trigger first : Nat) : w.On (s.dumpTrigger trigger
    first) := by
  unfold State.dumpTrigger
  refine .ite (State.incSat_walk h _) ?_
  exact .foldl _ (fun _ _ k => State.traceStop_walk k _) ((State.traceAll_walk h 8).same ⟨rfl, rfl, rfl, rfl⟩)

theorem State.goSafe_walk {w : Walk} {s : State} (h : w.On s) (atOnce : Bool) : w.On (s.goSafe atOnce) := by
  unfold State.goSafe
  extract_lets +onlyGivenNames traced
  have htraced : w.On traced :=
    State.traceAll_walk (State.motTorqueOff_walk (State.safeChannels_walk (State.abandon_walk h _))) _
  extract_lets +onlyGivenNames _ _ going
  have hgoing : w.On going := (State.errPull_walk htraced).withSys _
  extract_lets +onlyGivenNames dumped
  have hdumped : w.On dumped := .ite (State.dumpTrigger_walk hgoing _ _) hgoing
  exact .ite (State.kdrLow_walk hdumped) (.ite (hdumped.withSaf _) hdumped)

theorem State.safeReq_walk {w : Walk} {s : State} (h : w.On s) (c : SafeCause) (atOnce : Bool) : w.On (s.safeReq c
    atOnce) := by
  unfold State.safeReq
  extract_lets +onlyGivenNames latched
  have hlatched : w.On latched := State.latchCause_walk h c
  extract_lets +onlyGivenNames _ low
  have hlow : w.On low := hlatched.withSaf _
  clear_value low
  have hgo : w.On (if low.sys.trans = some .safe then (if atOnce then low.kdrLow else low) else low.goSafe atOnce) :=
    .ite (.ite (State.kdrLow_walk hlow) hlow) (State.goSafe_walk hlow atOnce)
  refine .ite hlow ?_
  split
  · exact hgo
  · exact hgo
  · exact hgo
  · exact .ite (State.kdrLow_walk (State.abandon_walk hlow _)) (State.abandon_walk hlow _)

theorem State.faultTrig_walk {w : Walk} {s : State} (h : w.On s) (n : Src) (c : Ch) : w.On (s.faultTrig n c) := by
  unfold State.faultTrig
  refine .ite (State.traceAll_walk h _) ?_
  refine .ite ?_ h
  extract_lets +onlyGivenNames s1
  have hs1 : w.On s1 := State.traceTrig_walk h _ _
  exact .ite (State.traceTrig_walk hs1 _ _) (.ite (State.traceTrig_walk hs1 _ _) hs1)

theorem State.blockAbandon_walk {w : Walk} {s : State} (h : w.On s) : w.On (s.blockAbandon) := by
  unfold State.blockAbandon
  refine .ite h ?_
  refine .ite ?_ (State.abandon_walk h _)
  extract_lets +onlyGivenNames then_
  exact Walk.On.withSys h _

theorem State.chipReset_walk {w : Walk} {s : State} (h : w.On s) (cause : Nat) : w.On (s.chipReset cause) := by
  unfold State.chipReset
  refine .ite ?_ (State.fullReset_walk h _ _ _ _)
  extract_lets +onlyGivenNames s1
  have hs1 : w.On s1 := State.blockAbandon_walk h
  extract_lets +onlyGivenNames s2
  have hs2 : w.On s2 := .foldl _ (fun _ _ h2 => State.protOpen_walk h2 _) hs1
  extract_lets +onlyGivenNames s3
  have hs3 : w.On s3 := State.motGatesOff_walk hs2
  extract_lets +onlyGivenNames _ s4
  have hs4 : w.On s4 := Walk.On.withSaf hs3 _
  exact Walk.On.withFlt hs4 _

theorem State.blockEvent_walk {w : Walk} {s : State} (h : w.On s) (sel : Nat) (src : Nat) (byFault : Bool) : w.On
    (s.blockEvent sel src byFault) := by
  unfold State.blockEvent
  exact State.event_walk h _ _ _

theorem State.resetQuad_walk {w : Walk} {s : State} (h : w.On s) (q : Quad) (src : Nat) (byFault : Bool) : w.On
    (s.resetQuad q src byFault) := by
  unfold State.resetQuad
  extract_lets +onlyGivenNames s1
  have hs1 : w.On s1 := State.blockEvent_walk (State.blockAbandon_walk h) _ _ _
  clear_value s1
  extract_lets +onlyGivenNames s2
  have hs2 : w.On s2 := State.traceStop_walk hs1 _
  clear_value s2
  extract_lets +onlyGivenNames _ _ s3
  have hs3 : w.On s3 := by
    refine .foldl _ (fun t c k => ?_) hs2
    extract_lets +onlyGivenNames failed opened
    have hopened : w.On opened := State.protOpen_walk (State.failStep_walk k _ _ _) _
    clear_value opened
    extract_lets +onlyGivenNames x cleared
    have hcleared : w.On cleared := State.onChannel_walk hopened c fun y hy => by
      rw [hy]
      exact ⟨rfl, rfl⟩
    exact State.updQ_walk (hcleared.withHost _) _ _
  clear_value s3
  extract_lets +onlyGivenNames s4
  have hs4 : w.On s4 := hs3.filter _
  clear_value s4
  extract_lets +onlyGivenNames load s5
  have hs5 : w.On s5 := State.updQd_walk hs4 _ _
  clear_value s5
  clear_value load
  rcases load with _ | ⟨_ | _⟩
  · exact hs5
  · next adm =>
    cases adm with
    | none => exact hs5
    | some a => exact .ite (State.admDone_walk hs5 _ _ _ _) hs5
  · exact hs5

theorem State.resetMot_walk {w : Walk} {s : State} (h : w.On s) (src : Nat) (byFault : Bool) : w.On (s.resetMot src
    byFault) := by
  unfold State.resetMot
  extract_lets +onlyGivenNames s1
  have hs1 : w.On s1 := State.blockEvent_walk (State.blockAbandon_walk h) _ _ _
  extract_lets +onlyGivenNames s2
  have hs2 : w.On s2 := State.motComplete_walk hs1 _ _
  extract_lets +onlyGivenNames m
  extract_lets +onlyGivenNames _ s3
  have hs3 : w.On s3 := hs2.withMot _
  extract_lets +onlyGivenNames s4
  have hs4 : w.On s4 := hs3.filter _
  extract_lets +onlyGivenNames s5
  have hs5 : w.On s5 := State.wr_walk hs4 _ _
  exact .ite (hs5.withSaf _) hs5

theorem State.resetRing_walk {w : Walk} {s : State} (h : w.On s) (src : Nat) (byFault : Bool) : w.On (s.resetRing src
    byFault) := by
  unfold State.resetRing
  extract_lets +onlyGivenNames s1
  have hs1 : w.On s1 := State.blockEvent_walk (State.blockAbandon_walk h) _ _ _
  extract_lets +onlyGivenNames r
  extract_lets +onlyGivenNames _ s2
  have hs2 : w.On s2 := hs1.withRing _
  extract_lets +onlyGivenNames _ s3
  have hs3 : w.On s3 := .ite hs2 (hs2.withHost _)
  exact hs3.filter _

theorem State.raiseAs_walk {w : Walk} {s : State} (h : w.On s) (n : Src) (c : Ch) (cause : SafeCause) : w.On (s.raiseAs
    n c cause) := by
  unfold State.raiseAs
  extract_lets +onlyGivenNames bit x atOnce s1
  have hs1 : w.On s1 := State.updSrc_walk h _ _
  clear_value s1
  refine .ite hs1 (.ite (.ite (State.safeReq_walk hs1 _ _) hs1) ?_)
  extract_lets +onlyGivenNames s2
  have hs2 : w.On s2 := State.updSrc_walk hs1 _ _
  clear_value s2
  extract_lets +onlyGivenNames s3
  have hs3 : w.On s3 := State.event_walk hs2 _ _ _
  clear_value s3
  extract_lets +onlyGivenNames re s4
  have hs4 : w.On s4 := .ite (State.emit_walk (State.irq_walk hs3 _) _) hs3
  clear_value s4
  extract_lets +onlyGivenNames s5
  have hs5 : w.On s5 := .ite (State.emit_walk hs4 _) hs4
  clear_value s5
  extract_lets +onlyGivenNames _ _ s6
  have hs6 : w.On s6 := .ite (State.wr_walk (State.wr_walk (State.wr_walk (State.wr_walk (State.wr_walk
    (State.wr_walk (State.wr_walk hs5 _ _) _ _) _ _) _ _) _ _) _ _) _ _) hs5
  clear_value s6
  extract_lets +onlyGivenNames _ s7
  have hs7 : w.On s7 := .ite (.ite (State.errPull_walk hs6)
    (State.wr_walk (State.wr_walk (State.errPull_walk hs6) _ _) _ _)) hs6
  clear_value s7
  extract_lets +onlyGivenNames s8
  have hs8 : w.On s8 := State.faultTrig_walk hs7 _ _
  clear_value s8
  extract_lets +onlyGivenNames dump s9
  have hs9 : w.On s9 := .ite (State.dumpTrigger_walk hs8 _ _) hs8
  clear_value s9
  extract_lets +onlyGivenNames s10
  have hs10 : w.On s10 := .ite (State.safeReq_walk hs9 _ _) hs9
  clear_value s10
  refine .ite (State.chipReset_walk hs10 _) (.ite ?_ hs10)
  split
  · exact State.resetQuad_walk hs10 _ _ _
  · exact State.resetMot_walk hs10 _ _
  · exact State.resetRing_walk hs10 _ _

theorem State.raise_walk {w : Walk} {s : State} (h : w.On s) (n : Src) (c : Ch) : w.On (s.raise n c) := by
  unfold State.raise
  exact State.raiseAs_walk h _ _ _

theorem State.raiseDev_walk {w : Walk} {s : State} (h : w.On s) (n : Src) : w.On (s.raiseDev n) := by
  unfold State.raiseDev
  exact State.raise_walk h _ _

theorem State.vdrvTrip_walk {w : Walk} {s : State} (h : w.On s) : w.On (s.vdrvTrip) := by
  unfold State.vdrvTrip
  exact State.raiseDev_walk (State.motGatesOff_walk (.foldl _ (fun _ _ h2 => State.protOpen_walk h2 _)
      (Walk.On.withPins h _))) _

theorem State.clear_walk {w : Walk} {s : State} (h : w.On s) (n : Src) (c : Ch) : w.On (s.clear n c) := by
  unfold State.clear
  extract_lets +onlyGivenNames bit
  refine .ite h ?_
  extract_lets +onlyGivenNames s1
  have hs1 : w.On s1 := State.updSrc_walk h _ _
  exact State.event_walk hs1 _ _ _

theorem State.condGone_walk {w : Walk} {s : State} (h : w.On s) (n : Src) (c : Ch) : w.On (s.condGone n c) := by
  unfold State.condGone
  exact State.updSrc_walk h _ _

theorem State.blkClears_walk {w : Walk} {s : State} (h : w.On s) : w.On (s.blkClears) := by
  unfold State.blkClears
  extract_lets +onlyGivenNames s1
  have hs1 : w.On s1 := .foldl _ (fun _ _ h2 => State.clear_walk (State.condGone_walk h2 _ _) _ _) h
  exact State.clear_walk (State.condGone_walk (State.clear_walk (State.condGone_walk hs1 _ _) _ _) _ _) _ _

theorem State.ringEvent_walk {w : Walk} {s : State} (h : w.On s) (cause : Nat) (p : Nat) : w.On (s.ringEvent cause p)
    := by
  unfold State.ringEvent
  exact State.irq_walk (State.event_walk h _ _ _) _

theorem State.startRing_walk {w : Walk} {s : State} (h : w.On s) : w.On (s.startRing) := by
  unfold State.startRing
  refine .ite ?_ h
  extract_lets +onlyGivenNames s1
  have hs1 : w.On s1 := State.wr_walk (State.wr_walk (State.wr_walk h _ _) _ _) _ _
  extract_lets +onlyGivenNames s2
  have hs2 : w.On s2 := State.wr_walk (State.wr_walk (State.wr_walk hs1 _ _) _ _) _ _
  exact State.ringEvent_walk (Walk.On.withRing hs2 _) _ _

theorem State.withdraw_walk {w : Walk} {s : State} (h : w.On s) : w.On (s.withdraw) := by
  unfold State.withdraw
  exact State.wr_walk (State.wr_walk (State.wr_walk (Walk.On.withSys h _) _ _) _ _) _ _

theorem State.setMode_walk {w : Walk} {s : State} (h : w.On s) (m : Mode) : w.On (s.setMode m) := by
  unfold State.setMode
  extract_lets +onlyGivenNames prev s1
  have hs1 : w.On s1 := .ite (State.withdraw_walk h) h
  extract_lets +onlyGivenNames _ s2
  have hs2 : w.On s2 := Walk.On.withSys hs1 _
  extract_lets +onlyGivenNames s3
  have hs3 : w.On s3 := .ite (State.errPull_walk hs2) hs2
  exact State.event_walk hs3 _ _ _

theorem State.enterStandby_walk {w : Walk} {s : State} (h : w.On s) : w.On (s.enterStandby) := by
  unfold State.enterStandby
  extract_lets +onlyGivenNames s1
  have hs1 : w.On s1 := State.setMode_walk h _
  exact State.advanceRbc_walk (Walk.On.withSaf hs1 _)

theorem State.leaveBoot_walk {w : Walk} {s : State} (h : w.On s) : w.On (s.leaveBoot) := by
  unfold State.leaveBoot
  refine .ite ?_ (State.enterStandby_walk h)
  extract_lets +onlyGivenNames s1
  have hs1 : w.On s1 := State.setMode_walk h _
  exact .ite (State.dumpTrigger_walk hs1 _ _) hs1

theorem State.bootFails_walk {w : Walk} {s : State} (h : w.On s) (err : Nat) : w.On (s.bootFails err) := by
  unfold State.bootFails
  extract_lets +onlyGivenNames s1
  have hs1 : w.On s1 := State.wr_walk (State.wr_walk h _ _) _ _
  exact Walk.On.withSys hs1 _

theorem State.cmpRestart_walk {w : Walk} {s : State} (h : w.On s) (i : CmpId) : w.On (s.cmpRestart i) := by
  unfold State.cmpRestart
  exact .ite h (State.updCmp_walk h _ _)

theorem State.safThresholds_walk {w : Walk} {s : State} (h : w.On s) : w.On (s.safThresholds) := by
  unfold State.safThresholds
  extract_lets +onlyGivenNames s1
  have hs1 : w.On s1 := .foldl _ (fun _ _ h2 => State.cmpRestart_walk (State.wr_walk h2 _ _) _) h
  exact State.cmpRestart_walk (State.wr_walk (State.cmpRestart_walk (State.wr_walk hs1 _ _) _) _ _) _

theorem State.bootDone_walk {w : Walk} {s : State} (h : w.On s) : w.On (s.bootDone) := by
  unfold State.bootDone
  extract_lets +onlyGivenNames s1
  have hs1 : w.On s1 := State.safThresholds_walk (State.wr_walk (State.wr_walk h _ _) _ _)
  exact .ite (State.leaveBoot_walk hs1) hs1

theorem State.useImages_walk {w : Walk} {s : State} (h : w.On s) (m : Manifest) (slot src : Nat) : w.On (s.useImages m
    slot src) := by
  unfold State.useImages
  extract_lets +onlyGivenNames _ s1
  have hs1 : w.On s1 := w.sec h _ rfl rfl (OtpFwd.refl _)
  exact State.wr_walk hs1 _ _

theorem State.slotBoot_walk {w : Walk} {s : State} (h : w.On s) (a b : Option Manifest) : w.On (s.slotBoot a b).1 := by
  unfold State.slotBoot
  extract_lets +onlyGivenNames one xa xb bFirst p r
  clear_value r
  split
  · exact State.useImages_walk h _ _ _
  · extract_lets +onlyGivenNames r2
    clear_value r2
    split
    · exact State.useImages_walk h _ _ _
    · exact State.wr_walk h _ _

theorem State.fullBoot_walk {w : Walk} {s : State} (h : w.On s) (i : BootIn) : w.On (s.fullBoot i) := by
  unfold State.fullBoot
  extract_lets +onlyGivenNames sel
  refine .ite (State.bootFails_walk h _) ?_
  refine .ite (State.bootDone_walk h) ?_
  refine .ite (State.wr_walk h _ _) ?_
  split
  · rename_i s' ok' heq
    have hp := Walk.On.of_pair (State.slotBoot_walk h _ _) heq
    exact .ite (State.bootDone_walk hp) (.ite (State.bootFails_walk hp _) (State.wr_walk (State.wr_walk hp _ _) _ _))

theorem State.admDrop_walk {w : Walk} {s : State} (h : w.On s) : w.On (s.admDrop) := by
  unfold State.admDrop
  exact State.updQ_walk h _ _

theorem State.admBegin_walk {w : Walk} {s : State} (h : w.On s) (op : Nat) (a : AdmHdr) (args : List Word → Bool)
    {f : State → State} (hf : ∀ t, w.On t → w.On (f t)) : w.On (s.admBegin op a args f) := by
  unfold State.admBegin
  exact .ite (hf _ (State.admDrop_walk h)) h

theorem State.admWait_walk {w : Walk} {s : State} (h : w.On s) (op : Nat) (a : AdmHdr) (arg : Nat) : w.On (s.admWait
    op a arg) := by
  unfold State.admWait
  exact Walk.On.withHost h _

theorem State.latchHigh_walk {w : Walk} {s : State} (h : w.On s) (off : Nat) : w.On (s.latchHigh off) := by
  unfold State.latchHigh
  extract_lets +onlyGivenNames keep
  exact .ite (State.wr_walk h _ _) (.ite (State.wr_walk h _ _) (.ite (Walk.On.withHost h _) (.ite (Walk.On.withHost h
      _) (.ite (Walk.On.withHost h _) h))))

theorem State.rdTrdata_walk {w : Walk} {s : State} (h : w.On s) (q : Quad) : w.On (s.rdTrdata q) := by
  unfold State.rdTrdata
  exact State.incWrap_walk h _

theorem State.rdDdata_walk {w : Walk} {s : State} (h : w.On s) : w.On (s.rdDdata) := by
  unfold State.rdDdata
  extract_lets +onlyGivenNames n
  exact State.wr_walk h _ _

theorem State.readFx_walk {w : Walk} {s : State} (h : w.On s) (off : Nat) : w.On (s.readFx off) := by
  unfold State.readFx
  extract_lets +onlyGivenNames s1
  have hs1 : w.On s1 := State.latchHigh_walk h _
  exact .ite (State.incWrap_walk hs1 _) (.ite (State.rdTrdata_walk hs1 _) (.ite (State.rdDdata_walk hs1) hs1))

theorem State.regGet_walk {w : Walk} {s : State} (h : w.On s) (off : Nat) : w.On (s.regGet off).2 := by
  unfold State.regGet
  split
  · exact h
  · split
    · exact h.withHost _
    · exact State.readFx_walk h _

theorem State.writeErr_walk {w : Walk} {s : State} (h : w.On s) (path : Path) (off : Nat) (code : Nat) : w.On
    (s.writeErr path off code) := by
  unfold State.writeErr
  exact State.incSat_walk (State.wr_walk (State.wr_walk (State.wr_walk h _ _) _ _) _ _) _

theorem State.wrLate_walk {w : Walk} {s : State} (h : w.On s) (f : Fld) (v : Nat) : w.On (s.wrLate f v) := by
  unfold State.wrLate
  extract_lets +onlyGivenNames c
  exact .ite (Walk.On.withWritten h _) (.ite (State.wr_walk (Walk.On.withWritten h _) _ _) (State.wr_walk h _ _))

theorem State.putField_walk {w : Walk} {s : State} (h : w.On s) (val : Word) (f : Fld) : w.On (s.putField val f) := by
  unfold State.putField
  extract_lets +onlyGivenNames v
  refine .ite h ?_
  split
  · exact State.wrLate_walk h _ _
  · exact State.wrLate_walk h _ _
  · exact State.wrLate_walk h _ _
  · exact State.wr_walk h _ _
  · exact h
  · exact h

theorem State.startPulse_walk {w : Walk} {s : State} (h : w.On s) (c : Ch) (why : KelWhy) : w.On (s.startPulse c why)
    := by
  unfold State.startPulse
  exact State.updMet_walk (State.updStage_walk h _ _) _ _

theorem State.requestClose_walk {w : Walk} {s : State} (h : w.On s) (c : Ch) : w.On (s.requestClose c) := by
  unfold State.requestClose
  extract_lets +onlyGivenNames l iso ms
  exact .ite (.ite (State.startPulse_walk (.foldl _ (fun _ _ h2 => State.updStage_walk h2 _ _) h) _ _) h) (.ite
      (State.stagedOpen_walk h _) h)

theorem State.fxMeasClose_walk {w : Walk} {s : State} (h : w.On s) (c : Ch) : w.On (s.fxMeasClose c) := by
  unfold State.fxMeasClose
  refine .ite h ?_
  refine .ite (State.requestClose_walk h _) ?_
  split
  · exact h
  · exact h
  · exact State.protOpen_walk h _
  · exact State.stagedOpen_walk h _

theorem State.fxKelTest_walk {w : Walk} {s : State} (h : w.On s) (c : Ch) : w.On (s.fxKelTest c) := by
  unfold State.fxKelTest
  extract_lets +onlyGivenNames l
  exact .ite (.ite h (State.startPulse_walk h _ _)) h

theorem State.fxLedger_walk {w : Walk} {s : State} (h : w.On s) (c : Ch) (snap : Bool) (clear : Bool) : w.On
    (s.fxLedger c snap clear) := by
  unfold State.fxLedger
  extract_lets +onlyGivenNames s1
  have hs1 : w.On s1 := .ite (State.updMet_walk h _ _) h
  exact .ite (State.ledger_walk hs1 _ _) hs1

theorem State.stage_walk {w : Walk} {s : State} (h : w.On s) (q : Quad) (p : Prof) : w.On (s.stage q p) := by
  unfold State.stage
  extract_lets +onlyGivenNames s1
  have hs1 : w.On s1 := State.wr_walk (State.wr_walk (State.wr_walk h _ _) _ _) _ _
  extract_lets +onlyGivenNames s2
  have hs2 : w.On s2 := State.wr_walk (State.wb_walk hs1 _ _) _ _
  extract_lets +onlyGivenNames s3
  have hs3 : w.On s3 := State.wr_walk (State.wr_walk hs2 _ _) _ _
  extract_lets +onlyGivenNames s4
  have hs4 : w.On s4 := State.wr_walk (State.wr_walk hs3 _ _) _ _
  exact .foldl _ (fun _ _ h2 => State.wrS_walk h2 _ _) hs4

theorem State.fxPcmd_walk {w : Walk} {s : State} (h : w.On s) (q : Quad) (cmd : Nat) (slot : Nat) : w.On (s.fxPcmd q
    cmd slot) := by
  unfold State.fxPcmd
  extract_lets +onlyGivenNames k x
  refine .ite h ?_
  split
  · extract_lets +onlyGivenNames p
    exact State.wr_walk (State.updQd_walk h _ _) _ _
  · refine .ite (State.wr_walk (State.updQd_walk h _ _) _ _) ?_
    refine .ite ?_ h
    split
    · exact State.wr_walk (State.stage_walk h _ _) _ _
    · exact State.wr_walk h _ _

theorem State.fxTrctl_walk {w : Walk} {s : State} (h : w.On s) (q : Quad) (en : Bool) (sw : Bool) : w.On (s.fxTrctl q
    en sw) := by
  unfold State.fxTrctl
  extract_lets +onlyGivenNames s1
  have hs1 : w.On s1 := .ite (State.wr_walk h _ _) (.ite (State.wr_walk h _ _) h)
  exact .ite (State.traceTrig_walk hs1 _ _) hs1

theorem State.writeFx3_walk {w : Walk} {s : State} (h : w.On s) (old : State) (off : Nat) (val : Word) : w.On
    (s.writeFx3 old off val) := by
  unfold State.writeFx3
  split
  · extract_lets +onlyGivenNames c o
    exact .ite (State.cmpRestart_walk h _) (.ite (State.cmpRestart_walk h _) (.ite (State.cmpRestart_walk h _) (.ite
        (State.fxMeasClose_walk h _) (.ite (.ite (State.fxKelTest_walk h _) h) (.ite (.ite (State.updMet_walk h _ _)
        h) (.ite (State.fxLedger_walk h _ _ _) h))))))
  · refine .ite ?_ h
    extract_lets +onlyGivenNames q o
    exact .ite (State.fxPcmd_walk h _ _ _) (.ite (State.fxTrctl_walk h _ _ _) h)

theorem State.clearRec_walk {w : Walk} {s : State} (h : w.On s) (m : Nat) (val : Word) : w.On (s.clearRec m val) := by
  unfold State.clearRec
  exact .foldl _ (fun _ _ h2 => .ite (State.updSrc_walk h2 _ _) h2) h

theorem State.setReact_walk {w : Walk} {s : State} (h : w.On s) (r : Nat) : w.On (s.setReact r) := by
  unfold State.setReact
  extract_lets +onlyGivenNames s1
  have hs1 : w.On s1 := State.updSrc_walk h _ _
  exact .ite (State.errPull_walk hs1) hs1

theorem State.chRaise_walk {w : Walk} {s : State} (h : w.On s) (n : Src) (c : Ch) : w.On (s.chRaise n c) := by
  unfold State.chRaise
  extract_lets +onlyGivenNames s1
  have hs1 : w.On s1 := by
    unfold s1
    split
    · exact State.wr_walk h _ _
    · exact h
  exact State.raise_walk hs1 _ _

theorem State.kelFail_walk {w : Walk} {s : State} (h : w.On s) (c : Ch) : w.On (s.kelFail c) := by
  unfold State.kelFail
  exact State.chRaise_walk (State.wr_walk h _ _) _ _

theorem State.retireTo_walk {w : Walk} {s : State} (h : w.On s) (q : QId) (cnt : Nat) : w.On (s.retireTo q cnt) := by
  unfold State.retireTo
  exact State.updQ_walk h _ _

theorem State.postStep_walk {w : Walk} {s : State} (h : w.On s) (c : Ch) (r : Run) (reason : Nat) (action : Nat)
    (next : Nat) (detail : Nat) : w.On (s.postStep c r reason action next detail) := by
  unfold State.postStep
  extract_lets +onlyGivenNames s1
  have hs1 : w.On s1 := State.complete_walk h _ _ _
  exact State.retireTo_walk hs1 _ _

theorem State.contactLost_walk {w : Walk} {s : State} (h : w.On s) (c : Ch) : w.On (s.contactLost c) := by
  unfold State.contactLost
  extract_lets +onlyGivenNames s1
  have hs1 : w.On s1 := State.updMet_walk h _ _
  split
  · exact .ite (State.enterHold_walk (State.ledger_walk hs1 _ _) _ _) hs1
  · refine .ite hs1 ?_
    refine .ite (State.updSeq_walk hs1 _ _) ?_
    extract_lets +onlyGivenNames s2
    have hs2 : w.On s2 := State.ledger_walk hs1 _ _
    extract_lets +onlyGivenNames s3
    have hs3 : w.On s3 := State.postStep_walk hs2 _ _ _ _ _ _
    exact State.enterHold_walk hs3 _ _

theorem State.raiseBusSc_walk {w : Walk} {s : State} (h : w.On s) : w.On (s.raiseBusSc) := by
  unfold State.raiseBusSc
  extract_lets +onlyGivenNames s1
  have hs1 : w.On s1 := .foldl _ (fun _ _ h2 => State.wr_walk (State.protOpen_walk h2 _) _ _) h
  exact State.raiseDev_walk hs1 _

theorem State.demandUp_walk {w : Walk} {s : State} (h : w.On s) (n : Fin 7) : w.On (s.demandUp n) := by
  unfold State.demandUp
  exact State.raiseDev_walk h _

theorem State.gatesOff_walk {w : Walk} {s : State} (h : w.On s) (c : Ch) : w.On (s.gatesOff c) := by
  unfold State.gatesOff
  exact .foldl _ (fun _ _ h2 => State.gatesOff1_walk h2 _) h

theorem State.faultStop_walk {w : Walk} {s : State} (h : w.On s) (n : Src) (c : Ch) (opens : Bool) : w.On
    (s.faultStop n c opens) := by
  unfold State.faultStop
  extract_lets +onlyGivenNames l winds s1
  have hs1 : w.On s1 := State.failStep_walk h _ _ _
  extract_lets +onlyGivenNames s2
  have hs2 : w.On s2 := .ite (State.protOpen_walk hs1 _) (.ite (State.stagedOpen_walk hs1 _) (State.gatesOff_walk hs1
      _))
  exact State.chRaise_walk hs2 _ _

theorem State.motRaise_walk {w : Walk} {s : State} (h : w.On s) (n : Src) : w.On (s.motRaise n) := by
  unfold State.motRaise
  exact State.raiseDev_walk (by
    split
    · exact State.wr_walk h _ _
    · exact h) _

theorem State.motNoTorque_walk {w : Walk} {s : State} (h : w.On s) : w.On (s.motNoTorque) := by
  unfold State.motNoTorque
  extract_lets +onlyGivenNames s1
  have hs1 : w.On s1 := State.motGatesOff_walk h
  exact .ite (State.wr_walk hs1 _ _) hs1

theorem State.motFail_walk {w : Walk} {s : State} (h : w.On s) (reason : Nat) (detail : Nat) : w.On (s.motFail reason
    detail) := by
  unfold State.motFail
  extract_lets +onlyGivenNames s1
  have hs1 : w.On s1 := State.motComplete_walk h _ _
  extract_lets +onlyGivenNames _ s2
  have hs2 : w.On s2 := Walk.On.withMot hs1 _
  exact State.motNoTorque_walk (State.wr_walk hs2 _ _)

theorem State.bridge_walk {w : Walk} {s : State} (h : w.On s) (n : Src) : w.On (s.bridge n) := by
  unfold State.bridge
  extract_lets +onlyGivenNames s1
  have hs1 : w.On s1 := State.motRaise_walk h _
  exact State.motGatesOff_walk (State.motFail_walk hs1 _ _)

theorem State.assertSrc_walk {w : Walk} {s : State} (h : w.On s) (n : Src) (c : Ch) : w.On (s.assertSrc n c) := by
  unfold State.assertSrc
  extract_lets +onlyGivenNames k
  exact .ite (State.kelFail_walk (State.protOpen_walk (State.contactLost_walk h _) _) _) (.ite (State.raiseBusSc_walk
      h) (.ite (State.demandUp_walk (State.faultStop_walk h _ _ _) _) (.ite (State.faultStop_walk h _ _ _) (.ite
      (State.chRaise_walk h _ _) (.ite (State.bridge_walk h _) (.ite (State.motRaise_walk h _) (State.raise_walk h _
      _)))))))

theorem State.assertAll_walk {w : Walk} {s : State} (h : w.On s) (n : Src) : w.On (s.assertAll n) := by
  unfold State.assertAll
  refine .ite ?_ (.ite (.foldl _ (fun _ _ k => State.assertSrc_walk k _ _) h) (State.assertSrc_walk h _ _))
  have hall : w.On (s.forCh allCh (fun s c => s.assertSrc n c)) := .foldl _ (fun _ _ k => State.assertSrc_walk k _ _) h
  cases allCh.find? (fun c => !s.activeIn n c) with
  | none => exact hall
  | some c => exact .ite (State.wr_walk hall _ _) hall

theorem State.fxInject_walk {w : Walk} {s : State} (h : w.On s) (go : Bool) : w.On (s.fxInject go) := by
  unfold State.fxInject
  refine .ite ?_ h
  extract_lets +onlyGivenNames n
  exact .ite (State.assertAll_walk (Walk.On.withFlt h _) _) h

theorem State.fxDumpCtl_walk {w : Walk} {s : State} (h : w.On s) (ack : Bool) : w.On (s.fxDumpCtl ack) := by
  unfold State.fxDumpCtl
  extract_lets +onlyGivenNames _ s1
  have hs1 : w.On s1 := .ite (Walk.On.withFlt h _) h
  exact .ite (State.wr_walk hs1 _ _) hs1

theorem State.fxKctl_walk {w : Walk} {s : State} (h : w.On s) : w.On (s.fxKctl) := by
  unfold State.fxKctl
  exact .ite h (State.kdrLow_walk h)

theorem State.bootGo_walk {w : Walk} {s : State} (h : w.On s) (m : Option Manifest) : w.On (s.bootGo m) := by
  unfold State.bootGo
  refine .ite h ?_
  extract_lets +onlyGivenNames s1
  have hs1 : w.On s1 := State.wr_walk h _ _
  split
  · exact State.wr_walk hs1 _ _
  · extract_lets +onlyGivenNames e
    exact .ite (State.wr_walk (State.useImages_walk hs1 _ _ _) _ _) (State.wr_walk hs1 _ _)

theorem State.fxBootGo_walk {w : Walk} {s : State} (h : w.On s) (m : Option (Option Manifest)) : w.On (s.fxBootGo m)
    := by
  unfold State.fxBootGo
  split
  · exact State.bootGo_walk h _
  · exact .ite (State.wr_walk h _ _) h

theorem State.newChallenge_walk {w : Walk} {s : State} (h : w.On s) : w.On (s.newChallenge) := by
  unfold State.newChallenge
  extract_lets +onlyGivenNames s1
  have hs1 : w.On s1 := .foldl _ (fun _ _ h2 => (by
      split
      · rename_i v' s' heq
        have hp := Walk.On.of_pair_snd (State.takeNat_walk h2) heq
        exact State.wr_walk hp _ _)) h
  exact State.wr_walk hs1 _ _

theorem State.clearLat_walk {w : Walk} {s : State} (h : w.On s) (m : Nat) (val : Word) : w.On (s.clearLat m val) := by
  unfold State.clearLat
  exact .foldl _ (fun _ _ h2 => .ite (State.updCmp_walk h2 _ _) h2) h

theorem State.fxDebug_walk {w : Walk} {s : State} (h : w.On s) (old : State) : w.On (s.fxDebug old) := by
  unfold State.fxDebug
  extract_lets +onlyGivenNames le saf s1
  have hs1 : w.On s1 := State.wr_walk h _ _
  extract_lets +onlyGivenNames s2
  have hs2 : w.On s2 := State.wr_walk hs1 _ _
  extract_lets +onlyGivenNames s3
  have hs3 : w.On s3 := .ite (State.raiseDev_walk (State.wr_walk (State.wr_walk hs2 _ _) _ _) _) hs2
  extract_lets +onlyGivenNames s4
  have hs4 : w.On s4 := .foldl _ (fun _ _ h2 => .ite (.foldl _ (fun _ _ h4 => State.gatesOff_walk h4 _) h2) h2) hs3
  exact .ite (State.motGatesOff_walk (.foldl _ (fun _ _ h2 => State.protOpen_walk h2 _) hs4)) hs4

theorem State.trOf_walk {w : Walk} {s : State} (h : w.On s) (c : Ch) (p : Prof) (f : Formed) (y : Int) (k : Nat)
    (withheld susp : Bool) (outer : Int) : w.On (s.trOf c p f y k withheld susp outer).2 := by
  unfold State.trOf
  obtain ⟨o, x, e, iHat, yHat⟩ := f
  cases iHat with
  | none =>
    cases yHat with
    | none => exact State.takeInt_walk (State.takeInt_walk h)
    | some y => exact State.takeInt_walk h
  | some x =>
    cases yHat with
    | none => exact State.takeInt_walk h
    | some y => exact h

theorem State.trWrite_walk {w : Walk} {s : State} (h : w.On s) (c : Ch) (t : TrVals) : w.On (s.trWrite c t) := by
  unfold State.trWrite
  extract_lets +onlyGivenNames q ps
  refine .ite ?_ h
  extract_lets +onlyGivenNames s1
  have hs1 : w.On s1 := .foldl _ (fun _ _ h2 => State.updQd_walk h2 _ _) h
  extract_lets +onlyGivenNames s2
  have hs2 : w.On s2 := State.wr_walk (State.updQd_walk hs1 _ _) _ _
  exact .ite (State.wr_walk (State.wr_walk hs2 _ _) _ _) hs2

theorem State.leStepGo_walk {w : Walk} {s : State} (h : w.On s) (c : Ch) : w.On (s.leStepGo c) := by
  unfold State.leStepGo
  extract_lets +onlyGivenNames l
  split
  · extract_lets +onlyGivenNames y b f outer
    split
    · rename_i t' s' heq
      have hp := Walk.On.of_pair_snd (State.trOf_walk h _ _ _ _ _ _ _ _) heq
      exact State.trWrite_walk (State.updLoop_walk hp _ _) _ _
  · exact h

theorem State.writeFx2_walk {w : Walk} {s : State} (h : w.On s) (old : State) (off : Nat) (val : Word) (m : Option
    (Option Manifest)) : w.On (s.writeFx2 old off val m) := by
  unfold State.writeFx2
  exact .ite (State.clearRec_walk h _ _) (.ite (State.setReact_walk h _) (.ite (State.fxInject_walk h _) (.ite
      (State.fxDumpCtl_walk h _) (.ite (State.fxKctl_walk h) (.ite (State.cmpRestart_walk h _) (.ite (.ite
      (State.fxBootGo_walk h _) h) (.ite (.ite (State.newChallenge_walk h) h) (.ite (.ite h (State.cmpRestart_walk h
      _)) (.ite (State.clearLat_walk h _ _) (.ite (State.fxDebug_walk h _) (.ite (.ite (State.leStepGo_walk h _) h)
      h)))))))))))

theorem State.disableQueue_walk {w : Walk} {s : State} (h : w.On s) (q : QId) : w.On (s.disableQueue q) := by
  unfold State.disableQueue
  extract_lets +onlyGivenNames s1
  have hs1 : w.On s1 := State.updQ_walk h _ _
  exact Walk.On.withHost hs1 _

theorem State.enableQueue_walk {w : Walk} {s : State} (h : w.On s) (q : QId) : w.On (s.enableQueue q) := by
  unfold State.enableQueue
  extract_lets +onlyGivenNames s1
  have hs1 : w.On s1 := State.updQ_walk h _ _
  extract_lets +onlyGivenNames _ s2
  have hs2 : w.On s2 := Walk.On.withHost hs1 _
  split
  · exact State.updSeq_walk hs2 _ _
  · exact hs2

theorem State.readLines_walk {w : Walk} {s : State} (h : w.On s) (ps : List Pos) : w.On (s.readLines ps) := by
  unfold State.readLines
  extract_lets +onlyGivenNames base
  exact .foldl _ (fun _ _ h2 => State.emit_walk (Walk.On.withHost h2 _) _) h

theorem State.askLine_walk {w : Walk} {s : State} (h : w.On s) (p : Pos) : w.On (s.askLine p) := by
  unfold State.askLine
  extract_lets +onlyGivenNames _ s1
  have hs1 : w.On s1 := Walk.On.withHost h _
  exact .ite (State.readLines_walk hs1 _) hs1

theorem State.ctlChanged_walk {w : Walk} {s : State} (h : w.On s) (old : Word) : w.On (s.ctlChanged old) := by
  unfold State.ctlChanged
  extract_lets +onlyGivenNames new on s1
  have hs1 : w.On s1 := .foldl _ (fun _ _ h2 => .ite (State.disableQueue_walk h2 _) h2) h
  extract_lets +onlyGivenNames s2
  have hs2 : w.On s2 := .foldl _ (fun _ _ h2 => State.enableQueue_walk h2 _) hs1
  extract_lets +onlyGivenNames _ s3
  have hs3 : w.On s3 := .ite (Walk.On.withHost hs2 _) hs2
  extract_lets +onlyGivenNames _ s4
  have hs4 : w.On s4 := .ite (Walk.On.withHost hs3 _) hs3
  extract_lets +onlyGivenNames _ s5
  have hs5 : w.On s5 := .ite (Walk.On.withHost hs4 _) hs4
  refine .ite hs5 ?_
  extract_lets +onlyGivenNames s6
  have hs6 : w.On s6 := State.askLine_walk hs5 _
  exact .ite hs6 (State.emit_walk hs6 _)

theorem State.enterEnum_walk {w : Walk} {s : State} (h : w.On s) : w.On (s.enterEnum) := by
  unfold State.enterEnum
  exact State.wr_walk (State.wr_walk (Walk.On.withRing h _) _ _) _ _

theorem State.barSet_walk {w : Walk} {s : State} (h : w.On s) (high : Bool) (mask : Nat) : w.On (s.barSet high mask)
    := by
  unfold State.barSet
  exact .ite (.foldl _ (fun _ _ h2 => .ite (Walk.On.withRing h2 _) h2) h) h

theorem State.writeFx1_walk {w : Walk} {s : State} (h : w.On s) (old : State) (off : Nat) (val : Word) : w.On
    (s.writeFx1 old off val) := by
  unfold State.writeFx1
  extract_lets +onlyGivenNames calm
  exact .ite (.ite (Walk.On.withSys h _) h) (.ite (.ite (State.wr_walk (State.wr_walk (State.wr_walk (State.wr_walk h
      _ _) _ _) _ _) _ _) h) (.ite (State.ctlChanged_walk h _) (.ite (.ite (State.wr_walk h _ _) h) (.ite (.ite
      (State.enterEnum_walk h) h) (.ite (.ite (Walk.On.withRing h _) h) (.ite (.ite (Walk.On.withRing h _) h) (.ite
      (State.barSet_walk h _ _) (.ite (State.barSet_walk h _ _) h))))))))

theorem State.regPut_walk {w : Walk} {s : State} (h : w.On s) (path : Path) (off : Nat) (val : Word)
    (m : Option (Option Manifest)) : w.On (s.regPut path off val m).1 := by
  unfold State.regPut
  split
  · exact h
  · extract_lets code t
    split
    · exact State.writeErr_walk h _ _ _
    · exact State.writeFx3_walk (State.writeFx2_walk (State.writeFx1_walk
        (.foldl _ (fun _ _ k => State.putField_walk k _ _) h) _ _ _) _ _ _ _) _ _ _

theorem State.admReg_walk {w : Walk} {s : State} (h : w.On s) (op : Nat) (a : AdmHdr) (off : Nat) (val : Word) : w.On
    (s.admReg op a off val) := by
  unfold State.admReg
  split
  · split
    · rename_i w' s' heq
      have hp := Walk.On.of_pair_snd (State.regGet_walk h _) heq
      exact State.admDone_walk hp _ _ _ _
  · split
    · rename_i s' code' heq
      have hp := Walk.On.of_pair (State.regPut_walk h _ _ _ _) heq
      exact State.admDone_walk hp _ _ _ _

theorem State.admRegStart_walk {w : Walk} {s : State} (h : w.On s) (op : Nat) (a : AdmHdr) (off : Word) (val : Word)
    : w.On (s.admRegStart op a off val) := by
  unfold State.admRegStart
  refine .ite (State.admDone_walk h _ _ _ _) ?_
  refine .ite ?_ (State.admReg_walk h _ _ _ _)
  extract_lets +onlyGivenNames s1
  have hs1 : w.On s1 := State.admWait_walk h _ _ _
  exact Walk.On.withHost hs1 _

theorem State.loadProfile_walk {w : Walk} {s : State} (h : w.On s) (a : AdmHdr) (q : Quad) (slot : Fin 8) (img :
    Option (List Word)) : w.On (s.loadProfile a q slot img) := by
  unfold State.loadProfile
  split
  · exact State.admDone_walk h _ _ _ _
  · extract_lets +onlyGivenNames p
    exact State.admWait_walk (State.wr_walk (State.updQd_walk h _ _) _ _) _ _ _

theorem State.noticeIn_walk {w : Walk} {s : State} (h : w.On s) (o : Owner) (upd : Option (QId × Nat)) (r : List
    Word) : w.On (s.noticeIn o upd r) := by
  unfold State.noticeIn
  exact .ite (Walk.On.withHost h _) (State.complete_walk h _ _ _)

theorem State.notice_walk {w : Walk} {s : State} (h : w.On s) (o : Owner) (q : QId) (cnt : Nat) (reason : Nat) (op :
    Nat) (expect : Nat) (detail : Nat) : w.On (s.notice o q cnt reason op expect detail) := by
  unfold State.notice
  exact State.noticeIn_walk h _ _ _

theorem State.revokeNotices_walk {w : Walk} {s : State} (h : w.On s) (q : QId) (base start tail : Nat) : w.On
    (s.revokeNotices q base start tail) := by
  unfold State.revokeNotices
  refine .foldl _ (fun t i k => ?_) h
  dsimp only
  split
  · exact State.notice_walk k _ _ _ _ _ _ _
  · exact State.notice_walk (State.takeNat_walk k) _ _ _ _ _ _ _

theorem State.revokePre_walk {w : Walk} {s : State} (h : w.On s) (q : QId) (base : Nat) (f : Nat) : w.On (s.revokePre
    q base f) := by
  unfold State.revokePre
  extract_lets +onlyGivenNames n
  extract_lets +onlyGivenNames _ s1
  have hs1 : w.On s1 := Walk.On.withHost h _
  exact State.updQ_walk hs1 _ _

theorem State.decideEnd_walk {w : Walk} {s : State} (h : w.On s) (c : Ch) : w.On (s.decideEnd c) := by
  unfold State.decideEnd
  extract_lets +onlyGivenNames ks
  exact State.updRun_walk h _ _

theorem State.revokeCh_walk {w : Walk} {s : State} (h : w.On s) (c : Ch) (f : Nat) : w.On (s.revokeCh c f) := by
  unfold State.revokeCh
  extract_lets +onlyGivenNames q base running s1
  have hs1 : w.On s1 := State.revokeNotices_walk h _ _ _ _
  extract_lets +onlyGivenNames s2
  have hs2 : w.On s2 := State.revokePre_walk hs1 _ _ _
  extract_lets +onlyGivenNames s3
  have hs3 : w.On s3 := State.updSeq_walk hs2 _ _
  exact .ite (State.decideEnd_walk hs3 _) hs3

theorem State.motEnd_walk {w : Walk} {s : State} (h : w.On s) (reason : Nat) : w.On (s.motEnd reason) := by
  unfold State.motEnd
  split
  · exact h
  · extract_lets +onlyGivenNames a idle s1
    have hs1 : w.On s1 := State.motComplete_walk h _ _
    exact .ite (State.motGatesOff_walk (State.wr_walk hs1 _ _)) (Walk.On.withMot hs1 _)

theorem State.revokeMot_walk {w : Walk} {s : State} (h : w.On s) (f : Nat) : w.On (s.revokeMot f) := by
  unfold State.revokeMot
  extract_lets +onlyGivenNames base running s1
  have hs1 : w.On s1 := State.revokeNotices_walk h _ _ _ _
  extract_lets +onlyGivenNames s2
  have hs2 : w.On s2 := State.revokePre_walk hs1 _ _ _
  exact .ite (State.updQ_walk (State.motEnd_walk hs2 _) _ _) hs2

theorem State.revoke_walk {w : Walk} {s : State} (h : w.On s) (a : AdmHdr) (q : QId) (f : Nat) : w.On (s.revoke a q
    f) := by
  unfold State.revoke
  extract_lets +onlyGivenNames x
  refine .ite (State.admDone_walk h _ _ _ _) ?_
  refine .ite (State.admDone_walk h _ _ _ _) ?_
  extract_lets +onlyGivenNames n s1
  have hs1 : w.On s1 := by
    unfold s1
    split
    · exact State.revokeCh_walk h _ _
    · exact State.revokeMot_walk h _
  exact State.admDone_walk hs1 _ _ _ _

theorem State.clearIfGone_walk {w : Walk} {s : State} (h : w.On s) (n : Src) (c : Ch) : w.On (s.clearIfGone n c) := by
  unfold State.clearIfGone
  exact .ite (State.clear_walk h _ _) h

theorem State.clearFault_walk {w : Walk} {s : State} (h : w.On s) (c : Ch) : w.On (s.clearFault c) := by
  unfold State.clearFault
  extract_lets +onlyGivenNames recent s1
  have hs1 : w.On s1 := .ite (State.condGone_walk h _ _) h
  extract_lets +onlyGivenNames s2
  have hs2 : w.On s2 := State.clearIfGone_walk (State.clearIfGone_walk (State.condGone_walk hs1 _ _) _ _) _ _
  exact .ite hs2 (State.wr_walk hs2 _ _)

theorem State.goTo_walk {w : Walk} {s : State} (h : w.On s) (m : Mode) : w.On (s.goTo m) := by
  unfold State.goTo
  exact Walk.On.withSys h _

theorem State.lockCopy_walk {w : Walk} {s : State} (h : w.On s) : w.On (s.lockCopy) := by
  unfold State.lockCopy
  exact Walk.On.withSaf h _

theorem State.endMeasClosures_walk {w : Walk} {s : State} (h : w.On s) : w.On (s.endMeasClosures) := by
  unfold State.endMeasClosures
  exact .foldl _ (fun _ _ h2 => State.updStage_walk (State.wr_walk h2 _ _) _ _) h

theorem State.resumeCores_walk {w : Walk} {s : State} (h : w.On s) : w.On (s.resumeCores) := by
  unfold State.resumeCores
  extract_lets +onlyGivenNames s1
  have hs1 : w.On s1 := State.wr_walk (State.wr_walk (State.wr_walk h _ _) _ _) _ _
  exact State.wr_walk (State.wr_walk (State.wr_walk hs1 _ _) _ _) _ _

theorem State.wakeUp_walk {w : Walk} {s : State} (h : w.On s) (k : Nat) : w.On (s.wakeUp k) := by
  unfold State.wakeUp
  exact State.fullReset_walk h _ _ _ _

theorem State.putWords_walk {w : Walk} {s : State} (h : w.On s) (path : Path) (off : Nat) (ws : List Word)
    (m : Option (Option Manifest)) : w.On (s.putWords path off ws m) := by
  induction ws generalizing s off with
  | nil => exact h
  | cons x t ih =>
    unfold State.putWords
    exact .ite (h.withHost _) (ih (State.regPut_walk h _ _ _ _) _)

theorem State.getWords_walk {w : Walk} {s : State} (h : w.On s) (off n : Nat) : w.On (s.getWords off n).2 := by
  induction n with
  | zero => exact h
  | succ n ih => exact State.regGet_walk ih _

theorem State.answerRead_walk {w : Walk} {s : State} (h : w.On s) (off : Nat) (n : Nat) : w.On (s.answerRead off n)
    := by
  unfold State.answerRead
  refine .ite h ?_
  refine .ite (Walk.On.withHost h _) ?_
  split
  · rename_i ws' s' heq
    have hp := Walk.On.of_pair_snd (State.getWords_walk h _ _) heq
    exact State.emit_walk hp _

theorem State.regPuts_walk {w : Walk} {s : State} (h : w.On s) (off : Nat) (ws : List Word) :
    w.On (s.regPuts off ws).1 := by
  induction ws generalizing s off with
  | nil => exact h
  | cons x t ih => exact ih (State.regPut_walk h _ _ _ _) _

theorem State.queueFrame_walk {w : Walk} {s : State} (h : w.On s) (f : Frame) : w.On (s.queueFrame f) := by
  unfold State.queueFrame
  exact Walk.On.withRing h _

theorem State.serveReg_walk {w : Walk} {s : State} (h : w.On s) (f : Frame) : w.On (s.serveReg f) := by
  unfold State.serveReg
  extract_lets +onlyGivenNames off n
  refine .ite (h.withHost _) ?_
  by_cases hw : regWrites f = true
  · simp only [if_pos hw]
    have hr := State.regPuts_walk h off f.payload
    generalize s.regPuts off f.payload = r at hr
    obtain ⟨t, bad⟩ := r
    exact State.queueFrame_walk (hr.withRing _) _
  · simp only [if_neg hw]
    have hr := State.getWords_walk h off n
    generalize s.getWords off n = r at hr
    obtain ⟨ws, t⟩ := r
    exact State.queueFrame_walk (hr.withRing _) _

theorem State.runHeld_walk {w : Walk} {s : State} (h : w.On s) (h : HeldAcc) : w.On (s.runHeld h) := by
  unfold State.runHeld
  split
  · exact State.putWords_walk h _ _ _ _
  · exact State.answerRead_walk h _ _
  · exact State.serveReg_walk h _
  · exact State.admReg_walk h _ _ _ _

theorem State.runAllHeld_walk {w : Walk} {s : State} (h : w.On s) : w.On (s.runAllHeld) := by
  unfold State.runAllHeld
  extract_lets +onlyGivenNames l
  exact .foldl _ (fun _ _ h2 => State.runHeld_walk h2 _) (Walk.On.withHost h _)

theorem State.blkAgain_walk {w : Walk} {s : State} (h : w.On s) (b : Blk) : w.On (s.blkAgain b) := by
  unfold State.blkAgain
  split
  · extract_lets +onlyGivenNames s1
    have hs1 : w.On s1 := State.updQd_walk h _ _
    exact State.clear_walk (State.condGone_walk hs1 _ _) _ _
  · exact State.clear_walk (State.condGone_walk (Walk.On.withMot h _) _ _) _ _
  · exact State.startRing_walk (State.wr_walk (State.clear_walk (State.condGone_walk (Walk.On.withRing h _) _ _) _ _)
      _ _)

theorem State.parkSample_walk {w : Walk} {s : State} (h : w.On s) (i : CmpId) (src : Nat) (ch : Nat) (l : List
    CmpLevel) : w.On (s.parkSample i src ch l) := by
  unfold State.parkSample
  extract_lets +onlyGivenNames x s1
  have hs1 : w.On s1 := State.updCmp_walk h _ _
  refine .ite ?_ (.ite (State.updCmp_walk hs1 _ _) hs1)
  extract_lets +onlyGivenNames s2
  have hs2 : w.On s2 := State.updCmp_walk hs1 _ _
  extract_lets +onlyGivenNames s3
  have hs3 : w.On s3 := State.wr_walk (State.wr_walk (State.wr_walk hs2 _ _) _ _) _ _
  extract_lets +onlyGivenNames s4
  have hs4 : w.On s4 := State.wr_walk (State.wr_walk (State.wr_walk hs3 _ _) _ _) _ _
  exact State.wr_walk (State.wr_walk hs4 _ _) _ _

theorem State.wakeEvent_walk {w : Walk} {s : State} (h : w.On s) (on : Bool) (k : Nat) : w.On (s.wakeEvent on k) := by
  unfold State.wakeEvent
  exact .ite h (.ite (State.wakeUp_walk h _) (.ite (Walk.On.withSys h _) (.ite (State.abandon_walk h _) h)))

theorem State.updSpare_walk {w : Walk} {s : State} (h : w.On s) (i : SpareId) (f : Spare → Spare) : w.On (s.updSpare
    i f) := by
  unfold State.updSpare
  exact Walk.On.withMet h _

theorem State.compareTick_walk {w : Walk} {s : State} (h : w.On s) (i : SpareId) (src : Int) (oth : Int) : w.On
    (s.compareTick i src oth) := by
  unfold State.compareTick
  extract_lets +onlyGivenNames p
  refine .ite h ?_
  extract_lets +onlyGivenNames k c m own act a b bad
  exact State.updSpare_walk h _ _

theorem State.compareTicks_walk {w : Walk} {s : State} (h : w.On s) (i : TickIn) : w.On (s.compareTicks i) := by
  unfold State.compareTicks
  extract_lets +onlyGivenNames ids
  exact .foldl _ (fun _ _ h2 => State.compareTick_walk h2 _ _ _) h

theorem State.measureAll_walk {w : Walk} {s : State} (h : w.On s) (f : State → Ch → State × Int)
    (hf : ∀ t c, w.On t → w.On (f t c).1) : w.On (s.measureAll f).1 := by
  have key (l : List Ch) : ∀ a : State × List Int, w.On a.1 → w.On (l.foldl (fun (a : State × List Int) c =>
      let r := f a.1 c; (r.1, a.2 ++ [r.2])) a).1 := by
    induction l with
    | nil => exact fun _ ha => ha
    | cons c l ih => exact fun a ha => ih _ (hf a.1 c ha)
  exact key allCh (s, []) h

theorem State.dqSar_walk {w : Walk} {s : State} (h : w.On s) (c : Ch) (n : Nat) : w.On (s.dqSar c n).2 := by
  unfold State.dqSar
  extract_lets m
  split
  · exact State.takeInt_walk h
  · exact h

theorem State.dqOf_walk {w : Walk} {s : State} (h : w.On s) (c : Ch) (bits : Int) (n : Nat) :
    w.On (s.dqOf c bits n).2 := by
  unfold State.dqOf
  split
  · exact State.dqSar_walk h _ _
  · exact h

theorem State.increments_walk {w : Walk} {s : State} (h : w.On s) (c : Ch) (d v : Int) : w.On (s.increments c d v).1 :=
  State.updCh_walk h c _

theorem State.measure1_walk {w : Walk} {s : State} (h : w.On s) (c : Ch) (i : ChTick) : w.On (s.measure1 c i).1 := by
  have hd : w.On (s.dqOf c i.bits s.mClk).2 := State.dqOf_walk h _ _ _
  unfold State.measure1
  refine .ite (State.wr_walk ?_ _ _) ?_
  all_goals exact Walk.On.withSaf (State.updCh_walk (State.increments_walk hd c _ _) c _) _

theorem State.countAs_walk {w : Walk} {s : State} (h : w.On s) (c : Ch) (des : List Int) (f : Ledger → Ledger) : w.On
    (s.countAs c des f) := by
  unfold State.countAs
  refine .ite h ?_
  extract_lets +onlyGivenNames ms dq de
  exact State.ledger_walk h _ _

theorem State.countTick_walk {w : Walk} {s : State} (h : w.On s) (c : Ch) (des : List Int) : w.On (s.countTick c des)
    := by
  unfold State.countTick
  extract_lets +onlyGivenNames ex sub
  exact State.countAs_walk (.ite (State.incSat_walk h _) h) _ _ _

theorem State.measureTick_walk {w : Walk} {s : State} (h : w.On s) (ch : List ChTick) : w.On (s.measureTick ch) := by
  unfold State.measureTick
  extract_lets z
  refine .ite h ?_
  have hall : w.On (s.measureAll (fun s c => s.measure1 c (ch.getD c.val z))).1 :=
    State.measureAll_walk h _ (fun _ c k => State.measure1_walk k c _)
  generalize s.measureAll (fun s c => s.measure1 c (ch.getD c.val z)) = r at hall
  obtain ⟨t, des⟩ := r
  exact .foldl _ (fun _ c k => State.countTick_walk k c des) hall

theorem State.condClears_walk {w : Walk} {s : State} (h : w.On s) : w.On (s.condClears) := by
  unfold State.condClears
  extract_lets +onlyGivenNames ns s1
  have hs1 : w.On s1 := .foldl _ (fun _ _ h2 => State.clearIfGone_walk h2 _ _) h
  exact .foldl _ (fun _ _ h2 => State.clearIfGone_walk h2 _ _) hs1

theorem State.tickLatches_walk {w : Walk} {s : State} (h : w.On s) : w.On (s.tickLatches) := by
  unfold State.tickLatches
  extract_lets +onlyGivenNames is s1
  have hs1 : w.On s1 := .foldl _ (fun _ _ h2 => .ite (State.updCmp_walk h2 _ _) h2) h
  extract_lets +onlyGivenNames s2
  have hs2 : w.On s2 := .ite hs1 (State.condGone_walk hs1 _ _)
  exact .ite hs2 (State.condGone_walk hs2 _ _)

theorem State.olCount_walk {w : Walk} {s : State} (h : w.On s) (c : Ch) : w.On (s.olCount c) := by
  unfold State.olCount
  extract_lets +onlyGivenNames filt was s1
  have hs1 : w.On s1 := State.updStage_walk h _ _
  refine .ite (State.wr_walk hs1 _ _) ?_
  extract_lets +onlyGivenNames acc
  exact .ite (State.incSat_walk hs1 _) (State.wr_walk hs1 _ _)

theorem State.closeFailed_walk {w : Walk} {s : State} (h : w.On s) (c : Ch) (t : Nat) : w.On (s.closeFailed c t) := by
  unfold State.closeFailed
  extract_lets +onlyGivenNames s1
  have hs1 : w.On s1 := .ite (State.dissolve_walk h _) h
  split
  · exact hs1
  · split
    · refine .ite ?_ hs1
      extract_lets +onlyGivenNames s2
      have hs2 : w.On s2 := State.ledger_walk hs1 _ _
      extract_lets +onlyGivenNames s3
      have hs3 : w.On s3 := State.postStep_walk hs2 _ _ _ _ _ _
      exact State.updSeq_walk hs3 _ _
    · exact hs1

theorem State.modeDone_walk {w : Walk} {s : State} (h : w.On s) : w.On (s.modeDone) := by
  unfold State.modeDone
  split
  · exact State.admDone_walk h _ _ _ _
  · exact h

theorem State.safeExit_walk {w : Walk} {s : State} (h : w.On s) : w.On (s.safeExit) := by
  unfold State.safeExit
  extract_lets +onlyGivenNames s1
  have hs1 : w.On s1 := State.wr_walk (State.wr_walk (State.wr_walk h _ _) _ _) _ _
  extract_lets +onlyGivenNames _ s2
  have hs2 : w.On s2 := State.wr_walk (Walk.On.withSaf hs1 _) _ _
  extract_lets +onlyGivenNames ns
  exact .foldl _ (fun _ _ h2 => .ite (.foldl _ (fun _ _ h4 => State.clearIfGone_walk h4 _ _) h2)
      (State.clearIfGone_walk h2 _ _)) hs2

theorem State.parkStep3_walk {w : Walk} {s : State} (h : w.On s) : w.On (s.parkStep3) := by
  unfold State.parkStep3
  extract_lets +onlyGivenNames s1
  have hs1 : w.On s1 := State.wr_walk (State.wr_walk h _ _) _ _
  extract_lets +onlyGivenNames s2
  have hs2 : w.On s2 := State.wr_walk (State.wr_walk hs1 _ _) _ _
  exact State.modeDone_walk (Walk.On.withSys hs2 _)

theorem State.changeMode_walk {w : Walk} {s : State} (h : w.On s) : w.On (s.changeMode) := by
  unfold State.changeMode
  split
  · exact h
  · extract_lets +onlyGivenNames s1
    have hs1 : w.On s1 := .ite (State.wr_walk h _ _) h
    exact State.modeDone_walk (State.setMode_walk hs1 _)
  · extract_lets +onlyGivenNames perm
    exact State.wr_walk (State.modeDone_walk (State.setMode_walk h _)) _ _
  · exact .ite (State.modeDone_walk (State.enterStandby_walk (State.safeExit_walk h))) (State.wr_walk
      (State.modeDone_walk (State.setMode_walk (State.motTorqueOff_walk h) _)) _ _)
  · extract_lets +onlyGivenNames s1
    have hs1 : w.On s1 := .ite (State.resumeCores_walk h) h
    exact State.wr_walk (State.setMode_walk hs1 _) _ _
  · exact .ite h (State.parkStep3_walk h)
  · exact h

theorem State.seqTick_walk {w : Walk} {s : State} (h : w.On s) (c : Ch) (vMean : Int) (iMean : Int) : w.On (s.seqTick
    c vMean iMean) := by
  unfold State.seqTick
  extract_lets +onlyGivenNames s1
  have hs1 : w.On s1 := State.updSeq_walk h _ _
  split
  · exact hs1
  · refine .ite hs1 ?_
    extract_lets +onlyGivenNames due r2 r3 ecs s2
    have hs2 : w.On s2 := State.updSeq_walk hs1 _ _
    exact State.decideEnd_walk hs2 _

theorem State.channelTick_walk {w : Walk} {s : State} (h : w.On s) (t : Nat) (i : TickIn) : w.On (s.channelTick t i)
    := by
  unfold State.channelTick
  extract_lets +onlyGivenNames s1
  have hs1 : w.On s1 := .foldl _ (fun _ _ h2 => State.olCount_walk (State.closeFailed_walk h2 _ _) _) h
  extract_lets +onlyGivenNames s2
  have hs2 : w.On s2 := State.changeMode_walk hs1
  exact .foldl _ (fun _ _ h2 => State.seqTick_walk h2 _ _ _) hs2

theorem State.commitIf_walk {w : Walk} {s : State} (h : w.On s) (p : Fld → Bool) : w.On (s.commitIf p) := by
  unfold State.commitIf
  exact .foldl _ (fun _ _ h2 => State.wr_walk h2 _ _) (Walk.On.withWritten h _)

theorem State.nextTick_walk {w : Walk} {s : State} (h : w.On s) : w.On (s.nextTick) := by
  unfold State.nextTick
  extract_lets +onlyGivenNames s1
  have hs1 : w.On s1 := State.commitIf_walk h _
  extract_lets +onlyGivenNames _ s2
  have hs2 : w.On s2 := Walk.On.withSys hs1 _
  exact .ite (Walk.On.withSys hs2 _) hs2

theorem State.metClock_walk {w : Walk} {s : State} (h : w.On s) : w.On (s.metClock) := by
  unfold State.metClock
  extract_lets +onlyGivenNames m
  exact Walk.On.withMet h _

theorem State.alignTick_walk {w : Walk} {s : State} (h : w.On s) : w.On (s.alignTick) := by
  unfold State.alignTick
  extract_lets +onlyGivenNames n ok
  extract_lets +onlyGivenNames _ s1
  have hs1 : w.On s1 := Walk.On.withSys h _
  exact .ite (State.condGone_walk hs1 _ _) hs1

theorem State.lockLost_walk {w : Walk} {s : State} (h : w.On s) (r : RingId) (n : Nat) : w.On (s.lockLost r n) := by
  unfold State.lockLost
  extract_lets +onlyGivenNames _ s1
  have hs1 : w.On s1 := Walk.On.withRing h _
  extract_lets +onlyGivenNames s2
  have hs2 : w.On s2 := by
    unfold s2
    split
    · exact State.wr_walk (State.wr_walk hs1 _ _) _ _
    · exact State.wr_walk (State.wr_walk hs1 _ _) _ _
  exact State.wr_walk hs2 _ _

theorem State.lineTick_walk {w : Walk} {s : State} (h : w.On s) (r : RingId) (t : Nat) (i : LineIn) : w.On
    (s.lineTick r t i) := by
  unfold State.lineTick
  refine .ite h ?_
  extract_lets +onlyGivenNames missed
  extract_lets +onlyGivenNames _ s1
  have hs1 : w.On s1 := Walk.On.withRing h _
  extract_lets +onlyGivenNames s2
  have hs2 : w.On s2 := .ite (State.incSat_walk hs1 _) hs1
  extract_lets +onlyGivenNames s3
  have hs3 : w.On s3 := .ite (State.lockLost_walk hs2 _ _) hs2
  extract_lets +onlyGivenNames s4
  have hs4 : w.On s4 := State.wb_walk hs3 _ _
  extract_lets +onlyGivenNames s5
  have hs5 : w.On s5 := State.wr_walk hs4 _ _
  exact State.wr_walk hs5 _ _

theorem State.ringAge_walk {w : Walk} {s : State} (h : w.On s) (t : Nat) (ls : Vector LineIn 2) : w.On (s.ringAge t
    ls) := by
  unfold State.ringAge
  extract_lets +onlyGivenNames s1
  have hs1 : w.On s1 := State.alignTick_walk (State.lineTick_walk (State.lineTick_walk h _ _ _) _ _ _)
  extract_lets +onlyGivenNames x
  exact Walk.On.withRing hs1 _

theorem State.hostClocks_walk {w : Walk} {s : State} (h : w.On s) : w.On s.hostClocks := by
  unfold State.hostClocks
  extract_lets t _ _ _ clocked
  have hclocked : w.On clocked := h.same ⟨rfl, rfl, rfl, rfl⟩
  exact .ite (State.wr_walk hclocked _ _) hclocked

theorem State.quietOff_walk {w : Walk} {s : State} (h : w.On s) (c : Ch) : w.On (s.quietOff c) := by
  unfold State.quietOff
  split
  · exact h
  · extract_lets +onlyGivenNames op off ended
    have hended : w.On ended := State.updRun_walk (State.gatesOff_walk h _) _ _
    clear_value ended
    refine .ite ?_ (.ite (State.stagedOpen_walk hended _) (.ite (State.updSeq_walk (State.stagedOpen_walk hended _) _
        _) hended))
    split
    next hmay => exact w.gangForm hended _ _ _ hmay
    next => exact State.failStep_walk hended _ _ _

theorem State.limit1_walk {w : Walk} {s : State} (h : w.On s) (c : Ch) : w.On (s.limit1 c) := by
  unfold State.limit1
  extract_lets +onlyGivenNames l kT kB fb e s1
  have hs1 : w.On s1 := State.updLoop_walk h _ _
  extract_lets +onlyGivenNames lim
  exact State.wb_walk (State.wb_walk hs1 _ _) _ _

theorem State.formSetpoint_walk {w : Walk} {s : State} (h : w.On s) (c : Ch) : w.On (s.formSetpoint c) := by
  have hkind (k : Nat) (t : Int) (x : ChanS) : (if k = 1 then { x with vref := some t } else { x with xset := some t
      }).lead =
      x.lead ∧ (if k = 1 then { x with vref := some t } else { x with xset := some t }).size = x.size := by
    split <;> exact ⟨rfl, rfl⟩
  unfold State.formSetpoint
  extract_lets +onlyGivenNames s1
  have hs1 : w.On s1 := by
    unfold s1
    split
    · exact State.updLoop_walk h _ _
    · split
      · extract_lets +onlyGivenNames s2
        have hs2 : w.On s2 := State.updRun_walk h _ _
        extract_lets +onlyGivenNames k s3
        have hs3 : w.On s3 := .ite (State.updSeq_walk (State.updLoop_walk hs2 _ _) _ _ (hkind _ _)) hs2
        exact State.updLoop_walk hs3 _ _
  extract_lets +onlyGivenNames g
  exact .ite (State.limit1_walk (State.updLoop_walk hs1 _ _) _) (.foldl _ (fun _ _ k => State.limit1_walk
    (State.updLoop_walk k _ _) _) hs1)

theorem State.startGates_walk {w : Walk} {s : State} (h : w.On s) (c : Ch) : w.On (s.startGates c) := by
  unfold State.startGates
  split
  · exact h
  · refine .ite h ?_
    extract_lets +onlyGivenNames s1
    have hs1 : w.On s1 := .ite (State.requestClose_walk h _) h
    refine .ite ?_ hs1
    extract_lets +onlyGivenNames s2
    have hs2 : w.On s2 := .foldl _ (fun _ _ h4 => State.updStage_walk h4 _ _) hs1
    exact State.updRun_walk hs2 _ _

theorem State.stepBoundary_walk {w : Walk} {s : State} (h : w.On s) (c : Ch) : w.On (s.stepBoundary c) := by
  unfold State.stepBoundary
  extract_lets +onlyGivenNames s1
  have hs1 : w.On s1 := State.updSeq_walk h _ _
  extract_lets +onlyGivenNames s2
  have hs2 : w.On s2 := .ite (State.stagedOpen_walk hs1 _) hs1
  extract_lets +onlyGivenNames s3
  have hs3 : w.On s3 := by
    unfold s3
    split
    · exact hs2
    · exact .ite (State.quietOff_walk hs2 _) hs2
  exact State.formSetpoint_walk (State.startGates_walk hs3 _) _

theorem State.setpointTick_walk {w : Walk} {s : State} (h : w.On s) : w.On (s.setpointTick) := by
  unfold State.setpointTick
  extract_lets +onlyGivenNames s1
  have hs1 : w.On s1 := .foldl _ (fun _ _ h2 => State.wr_walk (State.updLoop_walk h2 _ _) _ _) h
  exact .foldl _ (fun _ _ h2 => .ite h2 (State.stepBoundary_walk h2 _)) hs1

theorem State.balance_walk {w : Walk} {s : State} (h : w.On s) : w.On (s.balance) := by
  unfold State.balance
  extract_lets +onlyGivenNames one
  split
  · extract_lets +onlyGivenNames _ s1
    have hs1 : w.On s1 := Walk.On.withMet h _
    exact State.wr_walk (State.wr_walk (State.wr_walk (State.wr_walk hs1 _ _) _ _) _ _) _ _
  · extract_lets +onlyGivenNames ps net imp exp rise old k new above first
    extract_lets +onlyGivenNames _ s1
    have hs1 : w.On s1 := Walk.On.withMet h _
    extract_lets +onlyGivenNames dir s2
    have hs2 : w.On s2 := State.wr_walk (State.wr_walk hs1 _ _) _ _
    extract_lets +onlyGivenNames s3
    have hs3 : w.On s3 := State.wb_walk (State.wb_walk hs2 _ _) _ _
    extract_lets +onlyGivenNames s4
    have hs4 : w.On s4 := State.wrS_walk (State.wb_walk hs3 _ _) _ _
    exact .ite (State.event_walk hs4 _ _ _) hs4

theorem State.rangeDeny_walk {w : Walk} {s : State} (h : w.On s) (c : Ch) : w.On (s.rangeDeny c) := by
  unfold State.rangeDeny
  exact State.event_walk (State.wr_walk (State.wr_walk h _ _) _ _) _ _ _

theorem State.startChange_walk {w : Walk} {s : State} (h : w.On s) (i : SpareId) (r : RngReq) : w.On (s.startChange i
    r) := by
  unfold State.startChange
  exact State.updSpare_walk h _ _

theorem State.serveRange_walk {w : Walk} {s : State} (h : w.On s) : w.On (s.serveRange) := by
  unfold State.serveRange
  extract_lets +onlyGivenNames ids
  exact .foldl _ (fun _ _ h2 => .ite h2 (by
      split
      · exact h2
      · exact State.updSpare_walk (State.startChange_walk (Walk.On.withMet h2 _) _ _) _ _)) h

theorem State.roundEnd_walk {w : Walk} {s : State} (h : w.On s) : w.On s.roundEnd := by
  have hbehind {t : State} (k : w.On t) (b : Bool) (m : MetS) : w.On { t.wb MET_IBXSTAT.BEHIND b with met := m } :=
    Walk.On.withMet (State.wb_walk k _ _) m
  unfold State.roundEnd
  extract_lets per busy met old
  have hold : w.On old := by
    subst old
    split
    · exact .ite h (hbehind h _ _)
    · exact h
  exact .ite (hbehind hold _ _) hold

theorem State.untake_walk {w : Walk} {s : State} (h : w.On s) (i : SpareId) : w.On (s.untake i) := by
  unfold State.untake
  exact .ite h (Walk.On.withMet h _)

theorem State.dropCal_walk {w : Walk} {s : State} (h : w.On s) (conv : Nat) : w.On (s.dropCal conv) := by
  unfold State.dropCal
  exact Walk.On.withMet h _

theorem State.rangeInRotation_walk {w : Walk} {s : State} (h : w.On s) (i : SpareId) (c : Ch) (rng : Fin 4) (auto :
    Bool) : w.On (s.rangeInRotation i c rng auto) := by
  unfold State.rangeInRotation
  extract_lets +onlyGivenNames p
  refine .ite (State.rangeDeny_walk h _) ?_
  refine .ite h ?_
  extract_lets +onlyGivenNames back
  exact .ite (State.roundEnd_walk (State.startChange_walk (State.untake_walk h _) _ _)) (.ite (State.roundEnd_walk
      (State.updSpare_walk h _ _)) (State.roundEnd_walk (State.updSpare_walk (State.dropCal_walk (State.untake_walk h
      _) _) _ _)))

theorem State.yieldTo_walk {w : Walk} {s : State} (h : w.On s) (c : Ch) : w.On (s.yieldTo c) := by
  unfold State.yieldTo
  refine .ite h ?_
  extract_lets +onlyGivenNames ids later
  split
  · exact h
  · extract_lets +onlyGivenNames p r
    extract_lets +onlyGivenNames _ s1
    have hs1 : w.On s1 := Walk.On.withMet h _
    exact State.serveRange_walk (State.updSpare_walk hs1 _ _)

theorem State.preempt_walk {w : Walk} {s : State} (h : w.On s) : w.On s.preempt := by
  unfold State.preempt
  extract_lets ids ps early later
  clear_value early later
  refine .ite h ?_
  cases early with
  | some i => exact State.roundEnd_walk (State.incSat_walk (State.updSpare_walk (State.untake_walk h _) _ _) _)
  | none =>
    refine .ite ?_ h
    cases later with
    | some i => exact State.incSat_walk (State.updSpare_walk (State.dropCal_walk (State.untake_walk h _) _) _ _) _
    | none => exact h

theorem State.rangeAsk_walk {w : Walk} {s : State} (h : w.On s) (c : Ch) (rng : Fin 4) (auto : Bool) : w.On
    (s.rangeAsk c rng auto) := by
  unfold State.rangeAsk
  extract_lets +onlyGivenNames s1
  have hs1 : w.On s1 := State.wr_walk h _ _
  refine .ite (State.rangeDeny_walk hs1 _) ?_
  extract_lets +onlyGivenNames queued replace join
  split
  · extract_lets +onlyGivenNames p
    exact .ite (.ite hs1 (.ite (State.serveRange_walk (State.updSpare_walk hs1 _ _)) (State.startChange_walk hs1 _
        _))) (.ite (Walk.On.withMet hs1 _) (.ite hs1 (Walk.On.withMet hs1 _)))
  · split
    · exact State.rangeInRotation_walk hs1 _ _ _ _
    · exact .ite (Walk.On.withMet hs1 _) (.ite hs1 (State.yieldTo_walk (State.serveRange_walk (State.preempt_walk
        (Walk.On.withMet hs1 _))) _))

theorem State.rangeReq_walk {w : Walk} {s : State} (h : w.On s) (c : Ch) (rng : Fin 4) (auto : Bool) : w.On
    (s.rangeReq c rng auto) := by
  unfold State.rangeReq
  exact .foldl _ (fun _ _ h2 => State.rangeAsk_walk h2 _ _ _) h

theorem State.rangeTick_walk {w : Walk} {s : State} (h : w.On s) (c : Ch) : w.On (s.rangeTick c) := by
  unfold State.rangeTick
  extract_lets +onlyGivenNames r s1
  have hs1 : w.On s1 := by
    unfold s1
    split
    · exact State.rangeReq_walk (State.updMet_walk h _ _) _ _ _
    · exact h
  exact .ite (State.rangeReq_walk hs1 _ _ _) hs1

theorem State.exclEnd_walk {w : Walk} {s : State} (h : w.On s) (c : Ch) : w.On (s.exclEnd c) := by
  unfold State.exclEnd
  extract_lets +onlyGivenNames x on
  exact State.updMet_walk h _ _

theorem State.traceTick_walk {w : Walk} {s : State} (h : w.On s) (q : Quad) (t : Nat) : w.On (s.traceTick q t) := by
  unfold State.traceTick
  extract_lets +onlyGivenNames after
  exact State.updQd_walk h _ _

theorem State.endInject_walk {w : Walk} {s : State} (h : w.On s) : w.On (s.endInject) := by
  unfold State.endInject
  split
  · exact h
  · extract_lets +onlyGivenNames _ s1
    have hs1 : w.On s1 := Walk.On.withFlt h _
    exact .ite (.foldl _ (fun _ _ h4 => State.condGone_walk h4 _ _) hs1) (.ite (.foldl _ (fun _ _ h4 =>
        State.condGone_walk h4 _ _) hs1) (State.condGone_walk hs1 _ _))

theorem State.chopperConds_walk {w : Walk} {s : State} (h : w.On s) : w.On (s.chopperConds) := by
  unfold State.chopperConds
  extract_lets +onlyGivenNames on s1
  have hs1 : w.On s1 := .ite (State.condGone_walk h _ _) h
  exact .ite (State.condGone_walk hs1 _ _) hs1

theorem State.turnsAs_walk {w : Walk} {s : State} (h : w.On s) (v : Int) : w.On (s.turnsAs v) := by
  unfold State.turnsAs
  exact .ite h (Walk.On.withMot h _)

theorem State.motReadings_walk {w : Walk} {s : State} (h : w.On s) (force : Int) : w.On (s.motReadings force) := by
  unfold State.motReadings
  extract_lets +onlyGivenNames s1
  have hs1 : w.On s1 := State.wrS_walk h _ _
  extract_lets +onlyGivenNames n s2
  have hs2 : w.On s2 := State.wb_walk (State.wrS_walk hs1 _ _) _ _
  extract_lets +onlyGivenNames st
  exact .ite (State.wr_walk hs2 _ _) (.ite (State.wr_walk hs2 _ _) (.ite (State.turnsAs_walk hs2 _) hs2))

theorem State.updCmd_walk {w : Walk} {s : State} (h : w.On s) (f : MotCmd → MotCmd) : w.On (s.updCmd f) := by
  unfold State.updCmd
  exact Walk.On.withMot h _

theorem State.motErr_walk {w : Walk} {s : State} (h : w.On s) (bad : Bool) : w.On (s.motErr bad) := by
  unfold State.motErr
  exact State.updCmd_walk h _

theorem State.errTick_walk {w : Walk} {s : State} (h : w.On s) (m : MotCmd) : w.On (s.errTick m) := by
  unfold State.errTick
  split
  · exact h
  · exact h
  · exact State.motErr_walk h _
  · exact State.motErr_walk h _
  · exact State.motErr_walk h _

theorem State.speedLoop_walk {w : Walk} {s : State} (h : w.On s) (nCmd : Int) (frac : Nat) : w.On (s.speedLoop nCmd
    frac) := by
  unfold State.speedLoop
  extract_lets +onlyGivenNames e kp ki i1 raw lim out out2
  exact Walk.On.withMot h _

theorem State.regen_walk {w : Walk} {s : State} (h : w.On s) : w.On s.regen.2 := by
  unfold State.regen
  split
  · exact State.takeNat_walk h
  · exact h

theorem State.forceLoop_walk {w : Walk} {s : State} (h : w.On s) (set : Int) (vmax : Nat) (frac : Nat) : w.On
    (s.forceLoop set vmax frac) := by
  unfold State.forceLoop
  extract_lets +onlyGivenNames e i1 raw out
  extract_lets +onlyGivenNames _ s1
  have hs1 : w.On s1 := Walk.On.withMot h _
  exact State.speedLoop_walk hs1 _ _

theorem State.posLoop_walk {w : Walk} {s : State} (h : w.On s) (vmax : Nat) (frac : Nat) : w.On (s.posLoop vmax frac)
    := by
  unfold State.posLoop
  extract_lets +onlyGivenNames err prof
  exact State.speedLoop_walk h _ _

theorem State.holdTick_walk {w : Walk} {s : State} (h : w.On s) (frac : Nat) : w.On (s.holdTick frac) := by
  unfold State.holdTick
  split
  · exact h
  · exact State.forceLoop_walk h _ _ _
  · split
    · extract_lets +onlyGivenNames _ s1
      have hs1 : w.On s1 := Walk.On.withMot h _
      exact State.posLoop_walk hs1 _ _

theorem State.moveProfile_walk {w : Walk} {s : State} (h : w.On s) (m : MotCmd) (frac : Nat) : w.On (s.moveProfile m
    frac) := by
  unfold State.moveProfile
  extract_lets +onlyGivenNames a stopping
  split
  · exact Walk.On.withMot h _

theorem State.moveTick_walk {w : Walk} {s : State} (h : w.On s) (m : MotCmd) (frac : Nat) : w.On (s.moveTick m frac)
    := by
  unfold State.moveTick
  extract_lets +onlyGivenNames s1
  have hs1 : w.On s1 := State.moveProfile_walk h _ _
  extract_lets +onlyGivenNames f op set err ended settled s2
  have hs2 : w.On s2 := State.updCmd_walk (State.motErr_walk hs1 _) _
  refine .ite (State.motEnd_walk hs2 _) ?_
  refine .ite (State.updCmd_walk hs2 _) ?_
  refine .ite (State.motEnd_walk hs2 _) ?_
  refine .ite ?_ (.ite (State.motEnd_walk hs2 _) (State.posLoop_walk hs2 _ _))
  extract_lets +onlyGivenNames _ s3
  have hs3 : w.On s3 := Walk.On.withMot hs2 _
  exact State.updCmd_walk hs3 _

theorem State.forceTick_walk {w : Walk} {s : State} (h : w.On s) (m : MotCmd) (frac : Nat) : w.On (s.forceTick m
    frac) := by
  unfold State.forceTick
  extract_lets +onlyGivenNames e inTol s1
  have hs1 : w.On s1 := State.updCmd_walk (State.motErr_walk h _) _
  exact State.forceLoop_walk hs1 _ _ _

theorem State.profileHere_walk {w : Walk} {s : State} (h : w.On s) : w.On (s.profileHere) := by
  unfold State.profileHere
  exact Walk.On.withMot h _

theorem State.rampTick_walk {w : Walk} {s : State} (h : w.On s) (m : MotCmd) (frac : Nat) : w.On (s.rampTick m frac)
    := by
  unfold State.rampTick
  extract_lets +onlyGivenNames n t
  refine .ite (State.profileHere_walk (State.updCmd_walk h _)) ?_
  extract_lets +onlyGivenNames set
  exact State.forceLoop_walk (State.updCmd_walk h _) _ _ _

theorem State.stopTick_walk {w : Walk} {s : State} (h : w.On s) (m : MotCmd) (reason : Nat) (frac : Nat) : w.On
    (s.stopTick m reason frac) := by
  unfold State.stopTick
  extract_lets +onlyGivenNames s1
  have hs1 : w.On s1 := State.moveProfile_walk h _ _
  extract_lets +onlyGivenNames s2
  have hs2 : w.On s2 := State.motErr_walk hs1 _
  exact .ite (State.motEnd_walk hs2 _) (State.posLoop_walk hs2 _ _)

theorem State.motTick_walk {w : Walk} {s : State} (h : w.On s) (force : Int) : w.On (s.motTick force) := by
  unfold State.motTick
  extract_lets +onlyGivenNames s1
  have hs1 : w.On s1 := State.motReadings_walk h _
  refine .ite hs1 ?_
  extract_lets +onlyGivenNames s2
  have hs2 : w.On s2 := State.condGone_walk hs1 _ _
  extract_lets +onlyGivenNames f s3
  have hs3 : w.On s3 := State.updCmd_walk hs2 _
  extract_lets +onlyGivenNames st
  split
  · split
    · exact State.errTick_walk hs3 _
    · exact hs3
  · refine .ite hs3 ?_
    split
    · split
      · rename_i n' s' heq
        have hp := Walk.On.of_pair_snd (State.takeInt_walk hs3) heq
        exact State.speedLoop_walk hp _ _
    · refine .ite hs3 ?_
      split
      · rename_i frac' s' heq
        have hp := Walk.On.of_pair_snd (State.regen_walk hs3) heq
        split
        · exact State.holdTick_walk hp _
        · split
          · exact hp
          · exact State.moveTick_walk hp _ _
          · exact .ite (State.posLoop_walk (State.moveProfile_walk hp _ _) _ _) (State.forceTick_walk hp _ _)
          · exact .ite (State.posLoop_walk (State.moveProfile_walk hp _ _) _ _) (State.rampTick_walk hp _ _)
          · exact State.stopTick_walk hp _ _ _

theorem State.barCount_walk {w : Walk} {s : State} (h : w.On s) (t : Nat) (n : Nat) : w.On (s.barCount t n) := by
  unfold State.barCount
  extract_lets +onlyGivenNames i tgt
  refine .ite h ?_
  extract_lets +onlyGivenNames c hit
  exact Walk.On.withRing h _

theorem State.send_walk {w : Walk} {s : State} (h : w.On s) (ty : Nat) (dst : Nat) (ackreq : Bool) (arg : Nat)
    (payload : List Word) : w.On (s.send ty dst ackreq arg payload) := by
  unfold State.send
  extract_lets +onlyGivenNames f
  refine .ite h ?_
  extract_lets +onlyGivenNames s'1
  have hs'1 : w.On s'1 := State.queueFrame_walk h _
  exact Walk.On.withRing hs'1 _

theorem State.mgmt_walk {w : Walk} {s : State} (h : w.On s) (sub : Nat) (dst : Nat) (arg : Nat) (payload : List Word)
    : w.On (s.mgmt sub dst arg payload) := by
  unfold State.mgmt
  exact .ite (State.send_walk h _ _ _ _ _) h

theorem State.reportArrivals_walk {w : Walk} {s : State} (h : w.On s) : w.On (s.reportArrivals) := by
  unfold State.reportArrivals
  extract_lets +onlyGivenNames l
  refine .ite h ?_
  extract_lets +onlyGivenNames _ s1
  have hs1 : w.On s1 := Walk.On.withRing h _
  exact .ite (.foldl _ (fun _ _ h2 => State.barCount_walk h2 _ _) hs1) (.foldl _ (fun _ _ h2 => State.mgmt_walk h2 _
      _ _ _) hs1)

theorem State.enterWrapped_walk {w : Walk} {s : State} (h : w.On s) (p : Nat) (onA : Bool) : w.On (s.enterWrapped p
    onA) := by
  unfold State.enterWrapped
  extract_lets +onlyGivenNames _ s1
  have hs1 : w.On s1 := Walk.On.withRing h _
  exact State.ringEvent_walk (State.wr_walk (State.wr_walk hs1 _ _) _ _) _ _

theorem State.wrapNow_walk {w : Walk} {s : State} (h : w.On s) (r : RingId) : w.On (s.wrapNow r) := by
  unfold State.wrapNow
  refine .ite h ?_
  extract_lets +onlyGivenNames _ s1
  have hs1 : w.On s1 := Walk.On.withRing h _
  extract_lets +onlyGivenNames s2
  have hs2 : w.On s2 := State.wr_walk hs1 _ _
  extract_lets +onlyGivenNames s3
  have hs3 : w.On s3 := State.incSat_walk (State.wr_walk hs2 _ _) _
  exact .ite (State.enterWrapped_walk hs3 _ _) (State.mgmt_walk hs3 _ _ _ _)

theorem State.barvNext_walk {w : Walk} {s : State} (h : w.On s) : w.On (s.barvNext) := by
  unfold State.barvNext
  extract_lets +onlyGivenNames v
  extract_lets +onlyGivenNames _ s1
  have hs1 : w.On s1 := Walk.On.withRing h _
  exact State.wr_walk (State.wr_walk hs1 _ _) _ _

theorem State.layRegions_walk {w : Walk} {s : State} (h : w.On s) : w.On (s.layRegions) := by
  unfold State.layRegions
  refine .ite ?_ h
  extract_lets +onlyGivenNames l on
  exact Walk.On.withRing h _

theorem State.sendPennant_walk {w : Walk} {s : State} (h : w.On s) : w.On (s.sendPennant) := by
  unfold State.sendPennant
  refine .ite ?_ h
  split
  · extract_lets +onlyGivenNames v s1
    have hs1 : w.On s1 := State.barvNext_walk (State.wr_walk h _ _)
    extract_lets +onlyGivenNames _ s2
    have hs2 : w.On s2 := Walk.On.withRing hs1 _
    extract_lets +onlyGivenNames p on
    exact .ite (State.emit_walk hs2 _) (State.emit_walk (State.emit_walk hs2 _) _)

theorem State.sendPdu_walk {w : Walk} {s : State} (h : w.On s) : w.On (s.sendPdu) := by
  unfold State.sendPdu
  extract_lets +onlyGivenNames own head
  refine .ite ?_ h
  extract_lets +onlyGivenNames p rs s1
  have hs1 : w.On s1 := .foldl _ (fun _ _ h2 => State.emit_walk h2 _) h
  exact Walk.On.withRing hs1 _

theorem State.ringTick_walk {w : Walk} {s : State} (h : w.On s) : w.On (s.ringTick) := by
  unfold State.ringTick
  extract_lets +onlyGivenNames s1
  have hs1 : w.On s1 := State.reportArrivals_walk (State.wrapNow_walk (State.wrapNow_walk h _) _)
  extract_lets +onlyGivenNames s2
  have hs2 : w.On s2 := .ite (State.barvNext_walk hs1) (State.layRegions_walk (State.sendPennant_walk hs1))
  exact State.sendPdu_walk hs2

theorem State.admScan_walk {w : Walk} {s : State} (h : w.On s) : w.On (s.admScan) := by
  unfold State.admScan
  split
  · exact h
  · split
    · exact h
    · refine .ite ?_ h
      extract_lets +onlyGivenNames a s1
      have hs1 : w.On s1 := State.updQ_walk h _ _
      exact State.admDone_walk hs1 _ _ _ _

theorem State.lockRun_walk {w : Walk} {s : State} (h : w.On s) (r : RingId) (tick : Nat) : w.On (s.lockRun r tick) :=
    by
  unfold State.lockRun
  exact Walk.On.withRing h _

theorem State.newWay_walk {w : Walk} {s : State} (h : w.On s) (rstate : Nat) : w.On (s.newWay rstate) := by
  unfold State.newWay
  exact .ite h (Walk.On.withRing h _)

theorem State.alignIn_walk {w : Walk} {s : State} (h : w.On s) (r : RingId) (dev : Int) : w.On (s.alignIn r dev) := by
  unfold State.alignIn
  extract_lets +onlyGivenNames better
  refine .ite h ?_
  extract_lets +onlyGivenNames _ s1
  have hs1 : w.On s1 := Walk.On.withSys h _
  extract_lets +onlyGivenNames s2
  have hs2 : w.On s2 := State.wr_walk hs1 _ _
  refine .ite ?_ hs2
  split
  · rename_i _ s' heq
    have hp := Walk.On.of_pair_snd (State.takeInt_walk hs2) heq
    exact State.wrS_walk hp _ _

theorem State.delayIn_walk {w : Walk} {s : State} (h : w.On s) (r : RingId) (d : Int) (oth : Int → Int) : w.On
    (s.delayIn r d oth) := by
  unfold State.delayIn
  extract_lets +onlyGivenNames l m dly
  exact State.wr_walk (Walk.On.withRing h _) _ _

theorem State.pennantTiming_walk {w : Walk} {s : State} (h : w.On s) (r : RingId) (p : Pennant) (t : Int) : w.On
    (s.pennantTiming r p t) := by
  unfold State.pennantTiming
  extract_lets +onlyGivenNames f loop
  split
  · extract_lets +onlyGivenNames one last
    split
    · extract_lets +onlyGivenNames _ s1
      have hs1 : w.On s1 := Walk.On.withRing h _
      exact .ite (State.delayIn_walk hs1 _ _ _) hs1
    · exact .ite h (State.delayIn_walk h _ _ _)
  · refine .ite ?_ h
    split
    · refine .ite h ?_
      split
      · exact State.delayIn_walk h _ _ _
    · exact Walk.On.withRing h _

theorem State.metPeriod_walk {w : Walk} {s : State} (h : w.On s) (per : Nat) : w.On (s.metPeriod per) := by
  unfold State.metPeriod
  extract_lets +onlyGivenNames d s1
  have hs1 : w.On s1 := .ite h (State.wr_walk h _ _)
  exact Walk.On.withMet hs1 _

theorem State.switchPeriod_walk {w : Walk} {s : State} (h : w.On s) (per : Nat) : w.On (s.switchPeriod per) := by
  unfold State.switchPeriod
  extract_lets +onlyGivenNames s1
  have hs1 : w.On s1 := State.commitIf_walk h _
  extract_lets +onlyGivenNames s2
  have hs2 : w.On s2 := State.metPeriod_walk (State.wr_walk hs1 _ _) _
  extract_lets +onlyGivenNames _ s3
  have hs3 : w.On s3 := Walk.On.withSys hs2 _
  extract_lets +onlyGivenNames s4
  have hs4 : w.On s4 := .ite hs3 (State.wr_walk hs3 _ _)
  extract_lets +onlyGivenNames n s5
  have hs5 : w.On s5 := .ite hs4 (State.wr_walk hs4 _ _)
  exact .foldl _ (fun _ _ h2 => State.updQd_walk h2 _ _) hs5

theorem State.pennantPeriod_walk {w : Walk} {s : State} (h : w.On s) (p : Pennant) : w.On (s.pennantPeriod p) := by
  unfold State.pennantPeriod
  extract_lets +onlyGivenNames new
  split
  · extract_lets +onlyGivenNames first
    extract_lets +onlyGivenNames _ s1
    have hs1 : w.On s1 := Walk.On.withSys h _
    refine .ite ?_ hs1
    extract_lets +onlyGivenNames _ s2
    have hs2 : w.On s2 := Walk.On.withSys hs1 _
    extract_lets +onlyGivenNames slow s3
    have hs3 : w.On s3 := .foldl _ (fun _ _ h4 => State.wr_walk h4 _ _) hs2
    exact State.mgmt_walk hs3 _ _ _ _
  · extract_lets +onlyGivenNames _ s1
    have hs1 : w.On s1 := Walk.On.withSys h _
    exact .ite (State.switchPeriod_walk hs1 _) hs1

theorem State.safevIn_walk {w : Walk} {s : State} (h : w.On s) (v : Nat) : w.On (s.safevIn v) := by
  unfold State.safevIn
  extract_lets +onlyGivenNames old s1
  have hs1 : w.On s1 := State.wr_walk h _ _
  refine .ite ?_ hs1
  extract_lets +onlyGivenNames p
  exact State.safeReq_walk hs1 _ _

theorem State.forwardPennant_walk {w : Walk} {s : State} (h : w.On s) (r : RingId) (p : Pennant) : w.On
    (s.forwardPennant r p) := by
  unfold State.forwardPennant
  refine .ite h ?_
  extract_lets +onlyGivenNames up v v2
  exact State.emit_walk h _

theorem State.put1_walk {w : Walk} {s : State} (h : w.On s) (path : Path) (off : Nat) (val : Word) : w.On (s.put1
    path off val) := by
  unfold State.put1
  exact State.putWords_walk h _ _ _ _

theorem State.orFree_walk {w : Walk} {s : State} (h : w.On s) (x : Option Int) : w.On (s.orFree x).2 := by
  cases x with
  | some v => exact h
  | none => exact State.takeInt_walk h

theorem State.tlmRec_walk {w : Walk} {s : State} (h : w.On s) (c : Ch) : w.On (s.tlmRec c).2 := by
  unfold State.tlmRec
  exact State.orFree_walk (State.orFree_walk (State.orFree_walk (State.orFree_walk (State.orFree_walk
    (State.orFree_walk h _) _) _) _) _) _

theorem State.tlmLost_walk {w : Walk} {s : State} (h : w.On s) (n : Nat) : w.On (s.tlmLost n) := by
  unfold State.tlmLost
  exact .ite h (State.irq_walk (State.wr_walk h _ _) _)

theorem State.hostErr_walk {w : Walk} {s : State} (h : w.On s) (queue : Nat) (code : Nat) : w.On (s.hostErr queue
    code) := by
  unfold State.hostErr
  extract_lets +onlyGivenNames s1
  have hs1 : w.On s1 := by
    unfold s1
    split
    · exact State.updQ_walk (State.setFBit_walk h _ _) _ _
    · exact .ite (State.wr_walk h _ _) (.ite (State.wr_walk h _ _) (.ite (State.wr_walk h _ _) h))
  extract_lets +onlyGivenNames s2
  have hs2 : w.On s2 := State.wr_walk (State.wr_walk hs1 _ _) _ _
  extract_lets +onlyGivenNames s3
  have hs3 : w.On s3 := .ite hs2 (State.event_walk hs2 _ _ _)
  exact .ite (State.irq_walk hs3 _) hs3

theorem State.hostWrite_walk {w : Walk} {s : State} (h : w.On s) (addr : Nat) (ws : List Word) : w.On (s.hostWrite
    addr ws) := by
  unfold State.hostWrite
  exact .ite (State.emit_walk h _) (State.send_walk h _ _ _ _ _)

theorem State.tlmWrite_walk {w : Walk} {s : State} (h : w.On s) (c : Ch) : w.On (s.tlmWrite c) := by
  unfold State.tlmWrite
  split
  · rename_i ws' s' heq
    have hp := Walk.On.of_pair_snd (State.tlmRec_walk h _) heq
    extract_lets +onlyGivenNames k n d
    refine .ite (State.tlmLost_walk hp _) ?_
    refine .ite (State.tlmLost_walk (.ite (State.hostErr_walk hp _ _) hp) _) ?_
    extract_lets +onlyGivenNames gone s1
    have hs1 : w.On s1 := .ite (State.tlmLost_walk hp _) hp
    exact State.hostWrite_walk hs1 _ _

theorem State.tlmReport_walk {w : Walk} {s : State} (h : w.On s) : w.On (s.tlmReport) := by
  unfold State.tlmReport
  extract_lets +onlyGivenNames s1
  have hs1 : w.On s1 := .foldl _ (fun _ _ h2 => State.tlmWrite_walk h2 _) h
  extract_lets +onlyGivenNames _ s2
  have hs2 : w.On s2 := Walk.On.withHost hs1 _
  exact .ite hs2 (State.irq_walk hs2 _)

theorem State.eventLost_walk {w : Walk} {s : State} (h : w.On s) (n : Nat) : w.On (s.eventLost n) := by
  unfold State.eventLost
  extract_lets +onlyGivenNames first s1
  have hs1 : w.On s1 := State.wr_walk (State.wr_walk h _ _) _ _
  extract_lets +onlyGivenNames _ s2
  have hs2 : w.On s2 := Walk.On.withHost hs1 _
  exact .ite (State.irq_walk hs2 _) hs2

theorem State.writeEvent_walk {w : Walk} {s : State} (h : w.On s) (e : EvRec) : w.On (s.writeEvent e) := by
  unfold State.writeEvent
  extract_lets +onlyGivenNames d n s1
  have hs1 : w.On s1 := State.hostWrite_walk h _ _
  extract_lets +onlyGivenNames _ s2
  have hs2 : w.On s2 := Walk.On.withHost hs1 _
  exact .ite (State.irq_walk hs2 _) hs2

theorem State.eventStep_walk {w : Walk} {s : State} (h : w.On s) : w.On (s.eventStep) := by
  unfold State.eventStep
  refine .ite h ?_
  extract_lets +onlyGivenNames used err drop1 some1 lost
  refine .ite h ?_
  refine .ite (.ite (State.eventLost_walk (Walk.On.withHost h _) _) h) ?_
  refine .ite (.ite (State.eventLost_walk (Walk.On.withHost (State.hostErr_walk h _ _) _) _) (State.hostErr_walk h _
      _)) ?_
  refine .ite (.ite (State.eventLost_walk (Walk.On.withHost (.ite (State.hostErr_walk h _ _) h) _) _) (.ite
      (State.hostErr_walk h _ _) h)) ?_
  refine .ite (.ite (State.eventLost_walk (Walk.On.withHost h _) _) h) ?_
  refine .ite (State.writeEvent_walk (Walk.On.withHost h _) _) ?_
  split
  · exact h
  · exact State.writeEvent_walk (Walk.On.withHost h _) _

theorem State.drainEvents_walk {w : Walk} {s : State} (h : w.On s) : w.On (s.drainEvents) := by
  unfold State.drainEvents
  exact .foldl _ (fun _ _ h2 => State.eventStep_walk h2) h

theorem State.flow_walk {w : Walk} {s : State} (h : w.On s) : w.On (s.flow) := by
  unfold State.flow
  extract_lets +onlyGivenNames n
  extract_lets +onlyGivenNames _ s1
  have hs1 : w.On s1 := Walk.On.withHost h _
  split
  · exact .ite (State.admEnter_walk hs1 _) hs1
  · exact hs1

theorem State.revokeMotion_walk {w : Walk} {s : State} (h : w.On s) (ps : List PreDesc) : w.On (s.revokeMotion ps) :=
    by
  unfold State.revokeMotion
  exact .foldl _ (fun _ _ h2 => State.updQ_walk (State.notice_walk h2 _ _ _ _ _ _ _) _ _) h

theorem State.stopClears_walk {w : Walk} {s : State} (h : w.On s) : w.On (s.stopClears) := by
  unfold State.stopClears
  extract_lets +onlyGivenNames st s1
  have hs1 : w.On s1 := .ite (State.condGone_walk h _ _) h
  extract_lets +onlyGivenNames s2
  have hs2 : w.On s2 := .ite (State.condGone_walk hs1 _ _) hs1
  extract_lets +onlyGivenNames ns
  exact .foldl _ (fun _ _ h2 => State.clearIfGone_walk h2 _ _) hs2

theorem State.popMot_walk {w : Walk} {s : State} (h : w.On s) : w.On (s.popMot) := by
  unfold State.popMot
  exact State.updQ_walk h _ _

theorem State.motStart_walk {w : Walk} {s : State} (h : w.On s) : w.On (s.motStart) := by
  unfold State.motStart
  exact .ite (State.motFail_walk (State.motRaise_walk h _) _ _) (State.wr_walk (Walk.On.withMot h _) _ _)

theorem State.motGo_walk {w : Walk} {s : State} (h : w.On s) : w.On (s.motGo) := by
  unfold State.motGo
  extract_lets +onlyGivenNames f s1
  have hs1 : w.On s1 := State.profileHere_walk h
  exact State.updCmd_walk hs1 _

theorem State.motBegin_walk {w : Walk} {s : State} (h : w.On s) (d : MotionDesc) (idx : Nat) : w.On (s.motBegin d
    idx) := by
  unfold State.motBegin
  extract_lets +onlyGivenNames _ s1
  have hs1 : w.On s1 := Walk.On.withMot h _
  refine .ite (State.motFail_walk hs1 _ _) ?_
  extract_lets +onlyGivenNames s2
  have hs2 : w.On s2 := .ite (State.wr_walk hs1 _ _) hs1
  exact .ite (State.motStart_walk hs2) (State.motGo_walk hs2)

theorem State.motStop_walk {w : Walk} {s : State} (h : w.On s) (d : MotionDesc) (idx : Nat) : w.On (s.motStop d idx)
    := by
  unfold State.motStop
  extract_lets +onlyGivenNames s1
  have hs1 : w.On s1 := State.motComplete_walk h _ _
  extract_lets +onlyGivenNames s2
  have hs2 : w.On s2 := State.revokeMotion_walk hs1 _
  extract_lets +onlyGivenNames s3
  have hs3 : w.On s3 := State.stopClears_walk (State.popMot_walk hs2)
  refine .ite ?_ (State.motBegin_walk hs3 _ _)
  extract_lets +onlyGivenNames _ s4
  have hs4 : w.On s4 := Walk.On.withMot hs3 _
  exact .ite (State.motGatesOff_walk (State.wr_walk (State.motComplete_walk hs4 _ _) _ _)) (State.motFail_walk hs4 _
      _)

theorem State.motStopScan_walk {w : Walk} {s : State} (h : w.On s) : w.On (s.motStopScan) := by
  unfold State.motStopScan
  refine .ite h ?_
  split
  · exact State.motStop_walk h _ _
  · exact h

theorem State.groupDone_walk {w : Walk} {s : State} (h : w.On s) : w.On (s.groupDone) := by
  unfold State.groupDone
  split
  · exact h
  · extract_lets +onlyGivenNames _ s1
    have hs1 : w.On s1 := Walk.On.withHost h _
    extract_lets +onlyGivenNames s2
    have hs2 : w.On s2 := State.flow_walk (State.irq_walk hs1 _)
    extract_lets +onlyGivenNames s3
    have hs3 : w.On s3 := by
      unfold s3
      split
      · exact .ite (State.updSeq_walk hs2 _ _) hs2
      · exact .ite (State.motStopScan_walk hs2) hs2
      · exact hs2
    split
    · extract_lets +onlyGivenNames _ s4
      have hs4 : w.On s4 := Walk.On.withHost hs3 _
      exact .ite (State.fullReset_walk hs4 _ _ _ _) (State.chipReset_walk hs4 _)
    · exact hs3

theorem State.writeRec_walk {w : Walk} {s : State} (h : w.On s) (g : CGroup) (i : Nat) : w.On (s.writeRec g i) := by
  unfold State.writeRec
  extract_lets +onlyGivenNames k n d
  exact State.hostWrite_walk h _ _

theorem State.groupStep_walk {w : Walk} {s : State} (h : w.On s) : w.On (s.groupStep) := by
  unfold State.groupStep
  refine .ite h ?_
  split
  · exact h
  · extract_lets +onlyGivenNames used
    refine .ite (State.hostErr_walk h _ _) ?_
    refine .ite h ?_
    refine .ite (.ite (State.hostErr_walk h _ _) h) ?_
    refine .ite (State.groupDone_walk (.foldl _ (fun _ _ h4 => State.writeRec_walk h4 _ _) h)) ?_
    extract_lets +onlyGivenNames u1
    have hu1 : w.On u1 := State.writeRec_walk h _ _
    exact Walk.On.withHost hu1 _

theorem State.drainWrites_walk {w : Walk} {s : State} (h : w.On s) : w.On (s.drainWrites) := by
  unfold State.drainWrites
  extract_lets +onlyGivenNames s1
  have hs1 : w.On s1 := State.drainEvents_walk h
  exact .foldl _ (fun _ _ h2 => State.groupStep_walk h2) hs1

theorem State.loadPset_walk {w : Walk} {s : State} (h : w.On s) (ws : List Word) : w.On (s.loadPset ws) := by
  unfold State.loadPset
  exact State.safThresholds_walk (State.wr_walk (Walk.On.withSaf h _) _ _)

theorem State.find_walk {w : Walk} {s : State} (h : w.On s) (n : Nat) (c : Nat) : w.On (s.find n c) := by
  unfold State.find
  exact .ite h (Walk.On.withSaf h _)

theorem State.findIf_walk {w : Walk} {s : State} (h : w.On s) (b : Bool) (n : Nat) (c : Nat) : w.On (s.findIf b n c)
    := by
  unfold State.findIf
  exact .ite (State.find_walk h _ _) h

theorem State.ntcCopy_walk {w : Walk} {s : State} (h : w.On s) : w.On (s.ntcCopy) := by
  unfold State.ntcCopy
  exact .ite (Walk.On.withSaf h _) (State.findIf_walk h _ _ _)

theorem State.safInputs_walk {w : Walk} {s : State} (h : w.On s) (pins : Byte) : w.On (s.safInputs pins) := by
  unfold State.safInputs
  extract_lets +onlyGivenNames b sf7 wasOpen openNow iso f s1
  have hs1 : w.On s1 := State.wb_walk h _ _
  exact Walk.On.withSaf hs1 _

theorem State.sf3_walk {w : Walk} {s : State} (h : w.On s) (bad : BitVec 16) : w.On (s.sf3 bad) := by
  unfold State.sf3
  extract_lets +onlyGivenNames s1
  have hs1 : w.On s1 := .foldl _ (fun _ _ h2 => Walk.On.withSaf h2 _) h
  exact State.findIf_walk hs1 _ _ _

theorem State.masterCheck_walk {w : Walk} {s : State} (h : w.On s) : w.On (s.masterCheck) := by
  unfold State.masterCheck
  refine .ite ?_ (State.wr_walk h _ _)
  extract_lets +onlyGivenNames f
  exact State.findIf_walk (State.wr_walk h _ _) _ _ _

theorem State.svcCurrent_walk {w : Walk} {s : State} (h : w.On s) : w.On (s.svcCurrent) := by
  unfold State.svcCurrent
  extract_lets +onlyGivenNames s1
  have hs1 : w.On s1 := .foldl _ (fun _ _ h2 => Walk.On.withSaf h2 _) h
  exact State.findIf_walk hs1 _ _ _

theorem State.ss1Check_walk {w : Walk} {s : State} (h : w.On s) : w.On (s.ss1Check) := by
  unfold State.ss1Check
  extract_lets +onlyGivenNames v
  split
  · exact State.findIf_walk h _ _ _
  · extract_lets +onlyGivenNames above
    extract_lets +onlyGivenNames _ s1
    have hs1 : w.On s1 := Walk.On.withSaf h _
    exact State.findIf_walk hs1 _ _ _

theorem State.sf6Count_walk {w : Walk} {s : State} (h : w.On s) (c : Ch) : w.On (s.sf6Count c) := by
  unfold State.sf6Count
  refine .ite h ?_
  extract_lets +onlyGivenNames q
  exact Walk.On.withSaf h _

theorem State.sf6_walk {w : Walk} {s : State} (h : w.On s) : w.On (s.sf6) := by
  unfold State.sf6
  extract_lets +onlyGivenNames s1
  have hs1 : w.On s1 := .foldl _ (fun _ _ h2 => State.sf6Count_walk h2 _) h
  extract_lets +onlyGivenNames _ s2
  have hs2 : w.On s2 := Walk.On.withSaf hs1 _
  exact .foldl _ (fun _ _ h2 => State.findIf_walk (State.findIf_walk h2 _ _ _) _ _ _) hs2

theorem State.otherStep_walk {w : Walk} {s : State} (h : w.On s) : w.On (s.otherStep) := by
  unfold State.otherStep
  extract_lets +onlyGivenNames wdA wdB s1
  have hs1 : w.On s1 := .ite h (State.condGone_walk h _ _)
  extract_lets +onlyGivenNames on
  exact .foldl _ (fun _ _ h2 => (by
      split
      · exact .ite h2 (State.clrFBit_walk h2 _ _))) hs1

theorem State.sfGone_walk {w : Walk} {s : State} (h : w.On s) (n : Fin 7) : w.On (s.sfGone n) := by
  unfold State.sfGone
  extract_lets +onlyGivenNames s1
  have hs1 : w.On s1 := State.condGone_walk (State.clrFBit_walk h _ _) _ _
  split
  · exact State.wr_walk (State.wr_walk hs1 _ _) _ _
  · exact .foldl _ (fun _ _ h4 => State.condGone_walk h4 _ _) hs1
  · exact .foldl _ (fun _ _ h4 => State.condGone_walk h4 _ _) hs1
  · exact hs1

theorem State.sfStep_walk {w : Walk} {s : State} (h : w.On s) (n : Fin 7) : w.On (s.sfStep n) := by
  unfold State.sfStep
  refine .ite h ?_
  split
  · extract_lets +onlyGivenNames from_
    extract_lets +onlyGivenNames _ s1
    have hs1 : w.On s1 := Walk.On.withSaf h _
    exact .ite (State.sfGone_walk hs1 _) hs1

theorem State.causeStep_walk {w : Walk} {s : State} (h : w.On s) : w.On (s.causeStep) := by
  unfold State.causeStep
  extract_lets +onlyGivenNames ns
  exact State.otherStep_walk (.foldl _ (fun _ _ h2 => State.sfStep_walk h2 _) h)

theorem State.softConds_walk {w : Walk} {s : State} (h : w.On s) (i : SafIn) : w.On (s.softConds i) := by
  unfold State.softConds
  extract_lets +onlyGivenNames gone s1
  have hs1 : w.On s1 := .ite (State.condGone_walk h _ _) h
  extract_lets +onlyGivenNames s2
  have hs2 : w.On s2 := .ite (State.condGone_walk hs1 _ _) hs1
  extract_lets +onlyGivenNames s3
  have hs3 : w.On s3 := .ite (State.condGone_walk hs2 _ _) hs2
  exact State.condGone_walk (State.condGone_walk (State.condGone_walk hs3 _ _) _ _) _ _

theorem State.safStore_walk {w : Walk} {s : State} (h : w.On s) (t : SafTx) : w.On (s.safStore t) := by
  unfold State.safStore
  extract_lets +onlyGivenNames k a
  refine .ite h ?_
  extract_lets +onlyGivenNames put
  exact .ite (Walk.On.withSaf h _) (Walk.On.withSaf h _)

theorem State.safAccess_walk {w : Walk} {s : State} (h : w.On s) (l : List SafTx) : w.On (s.safAccess l) := by
  unfold State.safAccess
  extract_lets +onlyGivenNames k s1
  have hs1 : w.On s1 := .ite h (State.raiseDev_walk h _)
  extract_lets +onlyGivenNames s2
  have hs2 : w.On s2 := .foldl _ (fun _ _ h2 => State.safStore_walk h2 _) hs1
  extract_lets +onlyGivenNames es ins
  refine .ite (Walk.On.withSaf hs2 _) ?_
  extract_lets +onlyGivenNames _ s3
  have hs3 : w.On s3 := Walk.On.withSaf hs2 _
  exact .ite (State.raiseDev_walk hs3 _) hs3

theorem State.release1_walk {w : Walk} {s : State} (h : w.On s) (e : Nat × Nat) : w.On (s.release1 e) := by
  unfold State.release1
  extract_lets +onlyGivenNames raised
  have hraised : w.On raised := State.raise_walk h _ _
  exact .ite (hraised.same ⟨rfl, rfl, rfl, rfl⟩) hraised

theorem State.releaseN_walk {w : Walk} {s : State} (h : w.On s) (n : Nat) : w.On (s.releaseN n) := by
  unfold State.releaseN
  extract_lets +onlyGivenNames l
  exact .foldl _ (fun _ _ h2 => State.release1_walk h2 _) (Walk.On.withSaf h _)

theorem State.releaseAll_walk {w : Walk} {s : State} (h : w.On s) : w.On (s.releaseAll) := by
  unfold State.releaseAll
  exact State.releaseN_walk h _

theorem State.cycleMatched_walk {w : Walk} {s : State} (h : w.On s) : w.On (s.cycleMatched) := by
  unfold State.cycleMatched
  extract_lets +onlyGivenNames _ s1
  have hs1 : w.On s1 := Walk.On.withSaf h _
  extract_lets +onlyGivenNames s2
  have hs2 : w.On s2 := State.releaseAll_walk (State.incWrap_walk hs1 _)
  extract_lets +onlyGivenNames ns
  exact .foldl _ (fun _ _ h2 => State.condGone_walk h2 _ _) hs2

theorem State.inputSkew_walk {w : Walk} {s : State} (h : w.On s) (k : Nat) : w.On (s.inputSkew k) := by
  unfold State.inputSkew
  extract_lets +onlyGivenNames again run
  extract_lets +onlyGivenNames _ s1
  have hs1 : w.On s1 := Walk.On.withSaf h _
  extract_lets +onlyGivenNames s2
  have hs2 : w.On s2 := State.wr_walk (State.incSat_walk hs1 _) _ _
  exact .ite (State.raiseDev_walk hs2 _) hs2

theorem State.mismatched_walk {w : Walk} {s : State} (h : w.On s) : w.On (s.mismatched) := by
  unfold State.mismatched
  extract_lets +onlyGivenNames n s1
  have hs1 : w.On s1 := State.releaseN_walk h _
  split
  · exact State.inputSkew_walk hs1 _
  · exact State.raiseDev_walk (Walk.On.withSaf hs1 _) _

theorem State.olEnd_walk {w : Walk} {s : State} (h : w.On s) (c : Ch) : w.On (s.olEnd c) := by
  unfold State.olEnd
  exact .ite h (State.condGone_walk h _ _)

theorem State.trigCh_walk {w : Walk} {s : State} (h : w.On s) (c : Ch) (n : Nat) : w.On (s.trigCh c n) := by
  unfold State.trigCh
  extract_lets +onlyGivenNames q
  exact .ite (State.traceTrig_walk h _ _) h

theorem State.feTick_walk {w : Walk} {s : State} (h : w.On s) (c : Ch) (p : Prof) (y : Int) (susp : Bool) : w.On
    (s.feTick c p y susp) := by
  unfold State.feTick
  refine .ite h ?_
  extract_lets +onlyGivenNames was now s1
  have hs1 : w.On s1 := State.updLoop_walk h _ _
  exact .ite (State.trigCh_walk hs1 _ _) hs1

theorem State.leCheck_walk {w : Walk} {s : State} (h : w.On s) (c : Ch) : w.On (s.leCheck c) := by
  unfold State.leCheck
  extract_lets +onlyGivenNames others s1
  have hs1 : w.On s1 := State.updLoop_walk h _ _
  extract_lets +onlyGivenNames s2
  have hs2 : w.On s2 := State.faultStop_walk hs1 _ _ _
  exact .ite (State.raise_walk hs2 _ _) hs2

theorem State.slotPrepare_walk {w : Walk} {s : State} (h : w.On s) (c : Ch) (p : Prof) (cold : Bool) : w.On
    (s.slotPrepare c p cold) := by
  unfold State.slotPrepare
  extract_lets +onlyGivenNames isMember s1
  have hs1 : w.On s1 := by
    unfold s1
    refine .ite h ?_
    split
    · exact h
    · extract_lets +onlyGivenNames s2
      have hs2 : w.On s2 := State.updLoop_walk h _ _
      exact .ite (State.updRun_walk hs2 _ _) hs2
  extract_lets +onlyGivenNames _ _ s2
  have hs2 : w.On s2 := by
    unfold s2
    refine .ite hs1 ?_
    exact .foldl _ (fun _ _ h4 => (by
        split
        · exact State.updLoop_walk h4 _ _)) hs1
  extract_lets +onlyGivenNames l b iHat rHat k
  exact State.updLoop_walk hs2 _ _

theorem State.trWithhold_walk {w : Walk} {s : State} (h : w.On s) (c : Ch) : w.On (s.trWithhold c) := by
  unfold State.trWithhold
  extract_lets +onlyGivenNames q mine
  exact State.updQd_walk h _ _

theorem State.isoClose_walk {w : Walk} {s : State} (h : w.On s) (c : Ch) : w.On (s.isoClose c) := by
  unfold State.isoClose
  exact .foldl _ (fun _ _ h2 => State.wr_walk (State.wr_walk (State.updStage_walk h2 _ _) _ _) _ _) h

theorem State.closePulse_walk {w : Walk} {s : State} (h : w.On s) (c : Ch) (diff : Int) : w.On (s.closePulse c diff)
    := by
  unfold State.closePulse
  extract_lets +onlyGivenNames ok drive
  refine .ite (State.isoClose_walk h _) ?_
  extract_lets +onlyGivenNames det s1
  have hs1 : w.On s1 := .foldl _ (fun _ _ h2 => State.updStage_walk h2 _ _) h
  extract_lets +onlyGivenNames s2
  have hs2 : w.On s2 := .ite hs1 (.ite (State.failStep_walk hs1 _ _ _) (State.failStep_walk hs1 _ _ _))
  exact .ite hs2 (State.kelFail_walk hs2 _)

theorem State.measAgain_walk {w : Walk} {s : State} (h : w.On s) (c : Ch) : w.On (s.measAgain c) := by
  unfold State.measAgain
  exact .ite (State.requestClose_walk h _) h

theorem State.chamois_walk {w : Walk} {s : State} (h : w.On s) (c : Ch) (t : Half) : w.On (s.chamois c t) := by
  unfold State.chamois
  extract_lets +onlyGivenNames st
  refine .ite h ?_
  extract_lets +onlyGivenNames bus s1
  have hs1 : w.On s1 := State.updStage_walk h _ _
  extract_lets +onlyGivenNames s2
  have hs2 : w.On s2 := State.incSat_walk hs1 _
  extract_lets +onlyGivenNames s3
  have hs3 : w.On s3 := State.updLoop_walk hs2 _ _
  extract_lets +onlyGivenNames s4
  have hs4 : w.On s4 := .ite (State.faultStop_walk hs3 _ _ _) hs3
  exact .ite (State.raiseBusSc_walk hs4) hs4

theorem State.chTrip_walk {w : Walk} {s : State} (h : w.On s) (c : Ch) (k : Nat) (rev : Bool) : w.On (s.chTrip c k
    rev) := by
  unfold State.chTrip
  refine .ite h ?_
  refine .ite ?_ (.ite h (.ite (State.startPulse_walk (State.protOpen_walk h _) _ _) (.ite (State.faultStop_walk
      (State.startPulse_walk h _ _) _ _ _) (.ite (State.faultStop_walk (State.startPulse_walk h _ _) _ _ _) h))))
  extract_lets +onlyGivenNames s1
  have hs1 : w.On s1 := State.updStage_walk h _ _
  exact .ite (State.faultStop_walk hs1 _ _ _) hs1

theorem State.runIf_walk {w : Walk} {s : State} (h : w.On s) (c : Ch) (p : Run → Bool) (f : Run → Run) : w.On
    (s.runIf c p f) := by
  unfold State.runIf
  exact State.updRun_walk h _ _

theorem State.ntcOut_walk {w : Walk} {s : State} (h : w.On s) (c : Ch) (hi : Bool) : w.On (s.ntcOut c hi) := by
  unfold State.ntcOut
  extract_lets +onlyGivenNames s1
  have hs1 : w.On s1 := State.updMet_walk h _ _
  extract_lets +onlyGivenNames s2
  have hs2 : w.On s2 := State.runIf_walk hs1 _ _ _
  extract_lets +onlyGivenNames s3
  have hs3 : w.On s3 := State.wr_walk hs2 _ _
  extract_lets +onlyGivenNames _ s4
  have hs4 : w.On s4 := Walk.On.withSaf hs3 _
  refine .ite (State.updStage_walk hs4 _ _) ?_
  extract_lets +onlyGivenNames s5
  have hs5 : w.On s5 := State.updStage_walk hs4 _ _
  exact .ite hs5 (.ite (State.faultStop_walk hs5 _ _ _) (.ite (State.faultStop_walk hs5 _ _ _) hs5))

theorem State.ntcIn_walk {w : Walk} {s : State} (h : w.On s) (c : Ch) (raw : Nat) : w.On (s.ntcIn c raw) := by
  unfold State.ntcIn
  extract_lets +onlyGivenNames t s1
  have hs1 : w.On s1 := State.updMet_walk h _ _
  extract_lets +onlyGivenNames s2
  have hs2 : w.On s2 := State.wr_walk hs1 _ _
  extract_lets +onlyGivenNames k s3
  have hs3 : w.On s3 := State.updStage_walk hs2 _ _
  extract_lets +onlyGivenNames s4
  have hs4 : w.On s4 := State.condGone_walk (State.condGone_walk hs3 _ _) _ _
  extract_lets +onlyGivenNames own
  extract_lets +onlyGivenNames _ s5
  have hs5 : w.On s5 := Walk.On.withSaf hs4 _
  exact State.runIf_walk hs5 _ _ _

theorem State.dieSample_walk {w : Walk} {s : State} (h : w.On s) (raw : Nat) : w.On (s.dieSample raw) := by
  unfold State.dieSample
  extract_lets +onlyGivenNames t s1
  have hs1 : w.On s1 := State.wrS_walk h _ _
  extract_lets +onlyGivenNames s2
  have hs2 : w.On s2 := .ite (State.raiseDev_walk hs1 _) (.ite (State.condGone_walk hs1 _ _) hs1)
  exact .ite (State.raiseDev_walk hs2 _) (.ite (State.condGone_walk hs2 _ _) hs2)

theorem State.flagOpen_walk {w : Walk} {s : State} (h : w.On s) (i : Nat) : w.On (s.flagOpen i) := by
  unfold State.flagOpen
  exact .foldl _ (fun _ _ h2 => .ite (State.updLed_walk h2 _ _) h2) h

theorem State.refCheck_walk {w : Walk} {s : State} (h : w.On s) (dev : Int) : w.On (s.refCheck dev) := by
  unfold State.refCheck
  refine .ite h ?_
  extract_lets measured good met counted ok flagged fault ids untaken
  have hcounted : w.On counted := (State.wrS_walk h _ _).withMet _
  have hflagged : w.On flagged := State.wb_walk hcounted _ _
  have huntaken : w.On untaken := .foldl _ (fun _ _ k => .ite (State.untake_walk k _) k) (State.wr_walk hflagged _ _)
  refine .ite (State.raiseDev_walk (State.flagOpen_walk (huntaken.withMet _) _) _) ?_
  exact .ite (State.clear_walk (State.condGone_walk (hflagged.withMet _) _ _) _ _) hflagged

theorem State.markConv_walk {w : Walk} {s : State} (h : w.On s) (conv : Nat) (f : CalK → CalK) : w.On (s.markConv
    conv f) := by
  unfold State.markConv
  exact .foldl _ (fun _ _ h2 => Walk.On.withMet h2 _) h

theorem State.judgeCal_walk {w : Walk} {s : State} (h : w.On s) (conv : Nat) (rng : Nat) (s0 : Int) (s1 : Int) : w.On
    (s.judgeCal conv rng s0 s1) := by
  unfold State.judgeCal
  refine .ite h ?_
  extract_lets +onlyGivenNames old
  split
  · extract_lets +onlyGivenNames s2
    have hs2 : w.On s2 := State.markConv_walk h _ _
    extract_lets +onlyGivenNames _ s3
    have hs3 : w.On s3 := Walk.On.withMet hs2 _
    extract_lets +onlyGivenNames suspects
    exact .ite hs3 (State.clear_walk (State.condGone_walk hs3 _ _) _ _)
  · extract_lets +onlyGivenNames again s2
    have hs2 : w.On s2 := State.wr_walk h _ _
    extract_lets +onlyGivenNames s3
    have hs3 : w.On s3 := State.markConv_walk hs2 _ _
    exact .ite (State.raiseDev_walk hs3 _) hs3

theorem State.selfNext_walk {w : Walk} {s : State} (h : w.On s) (i : SpareId) : w.On (s.selfNext i) := by
  unfold State.selfNext
  extract_lets +onlyGivenNames nxt
  exact State.updSpare_walk h _ _

theorem State.takeCal_walk {w : Walk} {s : State} (h : w.On s) (conv : Nat) : w.On (s.takeCal conv) := by
  unfold State.takeCal
  refine .ite h ?_
  split
  · exact .foldl _ (fun _ _ h4 => Walk.On.withMet h4 _) (Walk.On.withMet h _)

theorem State.freeSpare_walk {w : Walk} {s : State} (h : w.On s) (i : SpareId) : w.On (s.freeSpare i) := by
  unfold State.freeSpare
  extract_lets +onlyGivenNames s1
  have hs1 : w.On s1 := State.updSpare_walk h _ _
  exact State.serveRange_walk (State.roundEnd_walk hs1)

theorem State.abandonChange_walk {w : Walk} {s : State} (h : w.On s) (sp : SpareId) : w.On (s.abandonChange sp) := by
  unfold State.abandonChange
  extract_lets +onlyGivenNames c
  exact State.freeSpare_walk (State.rangeDeny_walk h _) _

theorem State.flagWithin_walk {w : Walk} {s : State} (h : w.On s) (c : Ch) (i : Nat) : w.On (s.flagWithin c i) := by
  unfold State.flagWithin
  exact State.updLed_walk h _ _

theorem State.setSource_walk {w : Walk} {s : State} (h : w.On s) (k : Nat) (n : Nat) : w.On (s.setSource k n) := by
  unfold State.setSource
  extract_lets +onlyGivenNames c s1
  have hs1 : w.On s1 := State.updMet_walk h _ _
  extract_lets +onlyGivenNames s2
  have hs2 : w.On s2 := State.takeCal_walk (State.incWrap_walk hs1 _) _
  exact .ite (State.flagWithin_walk hs2 _ _) hs2

theorem State.denyWaiting_walk {w : Walk} {s : State} (h : w.On s) : w.On (s.denyWaiting) := by
  unfold State.denyWaiting
  extract_lets +onlyGivenNames gone bad
  exact Walk.On.withMet (.foldl _ (fun _ _ h2 => State.rangeDeny_walk h2 _) h) _

theorem State.withdrawSpare_walk {w : Walk} {s : State} (h : w.On s) (sp : SpareId) (carried : Bool) : w.On
    (s.withdrawSpare sp carried) := by
  unfold State.withdrawSpare
  extract_lets +onlyGivenNames k s1
  have hs1 : w.On s1 := .ite (State.setSource_walk h _ _) h
  extract_lets +onlyGivenNames s2
  have hs2 : w.On s2 := State.updSpare_walk hs1 _ _
  exact State.serveRange_walk (State.roundEnd_walk (State.denyWaiting_walk (State.raiseDev_walk (State.event_walk hs2
      _ _ _) _)))

theorem State.mismatch_walk {w : Walk} {s : State} (h : w.On s) (sp : SpareId) : w.On (s.mismatch sp) := by
  unfold State.mismatch
  extract_lets +onlyGivenNames p k carried two s1
  have hs1 : w.On s1 := State.wr_walk (State.incSat_walk h _) _ _
  extract_lets +onlyGivenNames s2
  have hs2 : w.On s2 := State.updSpare_walk hs1 _ _
  extract_lets +onlyGivenNames s3
  have hs3 : w.On s3 := .ite (State.rangeDeny_walk hs2 _) hs2
  refine .ite (State.withdrawSpare_walk hs3 _ _) ?_
  refine .ite (State.freeSpare_walk hs3 _) ?_
  refine .ite (State.updSpare_walk hs3 _ _) ?_
  extract_lets +onlyGivenNames s4
  have hs4 : w.On s4 := State.markConv_walk hs3 _ _
  extract_lets +onlyGivenNames s5
  have hs5 : w.On s5 := State.updSpare_walk hs4 _ _
  exact State.roundEnd_walk (State.denyWaiting_walk (State.event_walk hs5 _ _ _))

theorem State.setRange_walk {w : Walk} {s : State} (h : w.On s) (c : Ch) (rng : Nat) : w.On (s.setRange c rng) := by
  unfold State.setRange
  exact .ite h (State.flagWithin_walk (State.wr_walk h _ _) _ _)

theorem State.rotated_walk {w : Walk} {s : State} (h : w.On s) (k : Nat) : w.On (s.rotated k) := by
  unfold State.rotated
  extract_lets +onlyGivenNames s1
  have hs1 : w.On s1 := .ite (State.wr_walk h _ _) h
  exact .ite (State.wr_walk hs1 _ _) hs1

theorem State.updNotice_walk {w : Walk} {s : State} (h : w.On s) (q : QId) (cnt : Nat) (reason : Nat) (detail : Nat)
    : w.On (s.updNotice q cnt reason detail) := by
  unfold State.updNotice
  exact State.noticeIn_walk h _ _ _

theorem State.passTo_walk {w : Walk} {s : State} (h : w.On s) (c : Ch) (tgt : Nat) : w.On (s.passTo c tgt) := by
  unfold State.passTo
  extract_lets +onlyGivenNames base n pre s1
  have hs1 : w.On s1 := .foldl _ (fun _ _ h2 => (by
      split
      · exact .ite (State.updNotice_walk h2 _ _ _ _) h2)) h
  extract_lets +onlyGivenNames s2
  have hs2 : w.On s2 := State.updQ_walk hs1 _ _
  extract_lets +onlyGivenNames s3
  have hs3 : w.On s3 := State.retireTo_walk hs2 _ _
  exact State.updSeq_walk hs3 _ _

theorem State.gangDissolve_walk {w : Walk} {s : State} (h : w.On s) (c : Ch) : w.On (s.gangDissolve c) := by
  unfold State.gangDissolve
  refine .ite h ?_
  extract_lets +onlyGivenNames ms
  exact .foldl _ (fun _ _ h2 => State.enterHold_walk h2 _ _) (State.dissolve_walk h _)

theorem State.finishStep_walk {w : Walk} {s : State} (h : w.On s) (c : Ch) (r : Run) (reason : Nat) (act : Byte)
    (next : Nat) : w.On (s.finishStep c r reason act next) := by
  unfold State.finishStep
  extract_lets +onlyGivenNames s1
  have hs1 : w.On s1 := State.ledger_walk h _ _
  extract_lets +onlyGivenNames s2
  have hs2 : w.On s2 := State.postStep_walk hs1 _ _ _ _ _ _
  extract_lets +onlyGivenNames s3
  have hs3 : w.On s3 := .ite (State.gangDissolve_walk hs2 _) hs2
  exact State.updSeq_walk hs3 _ _

theorem State.tagArrive_walk {w : Walk} {s : State} (h : w.On s) (t : Nat) : w.On (s.tagArrive t) := by
  unfold State.tagArrive
  extract_lets +onlyGivenNames l l2
  exact Walk.On.withRing h _

theorem State.armBank_walk {w : Walk} {s : State} (h : w.On s) (c : Ch) (d : StepDesc) : w.On (s.armBank c d) := by
  unfold State.armBank
  exact .foldl _ (fun _ _ h2 => State.updLoop_walk h2 _ _) h

theorem State.bankTo_walk {w : Walk} {s : State} (h : w.On s) (c : Ch) (d : StepDesc) : w.On (s.bankTo c d) := by
  unfold State.bankTo
  extract_lets +onlyGivenNames s1
  have hs1 : w.On s1 := State.armBank_walk h _ _
  exact .foldl _ (fun _ _ h2 => State.updLoop_walk h2 _ _) hs1

theorem State.softStart_walk {w : Walk} {s : State} (h : w.On s) (c : Ch) (d : StepDesc) : w.On (s.softStart c d) :=
    by
  unfold State.softStart
  extract_lets +onlyGivenNames q
  exact State.updSeq_walk h _ _

theorem State.beginStep_walk {w : Walk} {s : State} (h : w.On s) (c : Ch) (cnt : Nat) (d : StepDesc) (gap : Nat)
    (gapEntry : Bool) : w.On (s.beginStep c cnt d gap gapEntry) := by
  unfold State.beginStep
  extract_lets +onlyGivenNames s1
  have hs1 : w.On s1 := State.commitIf_walk h _
  extract_lets +onlyGivenNames l closed op s2
  have hs2 : w.On s2 := .ite hs1 (State.updSeq_walk hs1 _ _)
  extract_lets +onlyGivenNames tgt s3
  have hs3 : w.On s3 := State.updSeq_walk hs2 _ _
  extract_lets +onlyGivenNames tss r s4
  have hs4 : w.On s4 := State.updSeq_walk hs3 _ _
  extract_lets +onlyGivenNames s5
  have hs5 : w.On s5 := .ite hs4 (State.wr_walk (State.ledger_walk hs4 _ _) _ _)
  extract_lets +onlyGivenNames s6
  have hs6 : w.On s6 := .ite (State.rangeReq_walk hs5 _ _ _) hs5
  extract_lets +onlyGivenNames s7
  have hs7 : w.On s7 := .foldl _ (fun _ _ h2 => State.tagArrive_walk h2 _) hs6
  extract_lets +onlyGivenNames s8
  have hs8 : w.On s8 := State.bankTo_walk hs7 _ _
  extract_lets +onlyGivenNames _ _ s9
  have hs9 : w.On s9 := by
    unfold s9
    refine .ite ?_ hs8
    exact State.updLoop_walk hs8 _ _
  extract_lets +onlyGivenNames s10
  have hs10 : w.On s10 := .ite (State.softStart_walk hs9 _ _) hs9
  extract_lets +onlyGivenNames s11
  have hs11 : w.On s11 := .ite hs10 (State.quietOff_walk hs10 _)
  exact State.formSetpoint_walk (State.startGates_walk hs11 _) _

theorem State.holdAfter_walk {w : Walk} {s : State} (h : w.On s) (c : Ch) (why : Nat) (len : Nat) : w.On (s.holdAfter
    c why len) := by
  unfold State.holdAfter
  extract_lets +onlyGivenNames l
  exact .ite (State.formSetpoint_walk (State.updSeq_walk h _ _) _) (State.enterHold_walk h _ _)

theorem State.invalidStep_walk {w : Walk} {s : State} (h : w.On s) (c : Ch) (cnt : Nat) (op : Nat) (len : Nat) : w.On
    (s.invalidStep c cnt op len) := by
  unfold State.invalidStep
  extract_lets +onlyGivenNames gap s1
  have hs1 : w.On s1 := .ite (State.ledger_walk h _ _) h
  extract_lets +onlyGivenNames s2
  have hs2 : w.On s2 := State.notice_walk hs1 _ _ _ _ _ _ _
  extract_lets +onlyGivenNames s3
  have hs3 : w.On s3 := State.retireTo_walk hs2 _ _
  exact State.updSeq_walk (.ite (State.enterHold_walk hs3 _ _) (State.holdAfter_walk hs3 _ _ _)) _ _

theorem State.takeDesc_walk {w : Walk} {s : State} (h : w.On s) (c : Ch) (cnt : Nat) (d : StepDesc) (ok : Bool) (gap
    : Nat) (gapEntry : Bool) (len : Nat) : w.On (s.takeDesc c cnt d ok gap gapEntry len) := by
  unfold State.takeDesc
  exact .ite (State.beginStep_walk h _ _ _ _ _) (State.invalidStep_walk h _ _ _ _)

theorem State.beginReady_walk {w : Walk} {s : State} (h : w.On s) (c : Ch) (cnt : Nat) (d : StepDesc) (ok : Bool) :
    w.On (s.beginReady c cnt d ok) := by
  unfold State.beginReady
  extract_lets +onlyGivenNames s1
  have hs1 : w.On s1 := by
    unfold s1
    split
    · exact h
    · exact State.finishStep_walk h _ _ _ _ _
  exact State.takeDesc_walk hs1 _ _ _ _ _ _ _

theorem State.popPre_walk {w : Walk} {s : State} (h : w.On s) (c : Ch) : w.On (s.popPre c) := by
  unfold State.popPre
  exact State.updQ_walk h _ _

theorem State.lateFault_walk {w : Walk} {s : State} (h : w.On s) (c : Ch) : w.On (s.lateFault c) := by
  unfold State.lateFault
  split
  · exact h
  · extract_lets +onlyGivenNames s1
    have hs1 : w.On s1 := State.updSeq_walk h _ _
    exact .ite (State.contactLost_walk hs1 _) (State.failStep_walk hs1 _ _ _)

theorem State.endUpdate_walk {w : Walk} {s : State} (h : w.On s) (c : Ch) (cnt : Nat) (reason : Nat) (detail : Nat) :
    w.On (s.endUpdate c cnt reason detail) := by
  unfold State.endUpdate
  extract_lets +onlyGivenNames q s1
  have hs1 : w.On s1 := State.updNotice_walk h _ _ _ _
  extract_lets +onlyGivenNames s2
  have hs2 : w.On s2 := .ite (State.popPre_walk hs1 _) hs1
  extract_lets +onlyGivenNames s3
  have hs3 : w.On s3 := .ite hs2 (State.retireTo_walk hs2 _ _)
  exact State.updSeq_walk hs3 _ _

theorem State.dropUpd_walk {w : Walk} {s : State} (h : w.On s) (c : Ch) (r : Run) : w.On (s.dropUpd c r) := by
  unfold State.dropUpd
  split
  · exact h
  · exact State.endUpdate_walk h _ _ _ _

theorem State.zeroSetpoint_walk {w : Walk} {s : State} (h : w.On s) (c : Ch) : w.On (s.zeroSetpoint c) := by
  unfold State.zeroSetpoint
  exact .foldl _ (fun _ _ h2 => State.limit1_walk (State.updLoop_walk h2 _ _) _) h

theorem State.openGap_walk {w : Walk} {s : State} (h : w.On s) (c : Ch) : w.On (s.openGap c) := by
  unfold State.openGap
  extract_lets +onlyGivenNames s1
  have hs1 : w.On s1 := State.updSeq_walk h _ _
  extract_lets +onlyGivenNames s2
  have hs2 : w.On s2 := State.wr_walk (State.ledger_walk hs1 _ _) _ _
  exact State.zeroSetpoint_walk hs2 _

theorem State.endAt_walk {w : Walk} {s : State} (h : w.On s) (c : Ch) (r : Run) (e : Ending) (late : Bool) : w.On
    (s.endAt c r e late) := by
  unfold State.endAt
  extract_lets +onlyGivenNames act blocked hold
  refine .ite (State.holdAfter_walk (State.dropUpd_walk (State.finishStep_walk h _ _ _ _ _) _ _) _ _ _) ?_
  split
  · extract_lets +onlyGivenNames s1
    have hs1 : w.On s1 := State.dropUpd_walk (State.finishStep_walk h _ _ _ _ _) _ _
    exact .ite (State.holdAfter_walk hs1 _ _ _) (State.updSeq_walk hs1 _ _)
  · refine .ite (State.holdAfter_walk (State.dropUpd_walk (State.finishStep_walk h _ _ _ _ _) _ _) _ _ _) ?_
    extract_lets +onlyGivenNames armed ended t1
    have ht1 : w.On t1 := State.dropUpd_walk h _ _
    split
    · extract_lets +onlyGivenNames s1
      have hs1 : w.On s1 := State.dropUpd_walk (State.finishStep_walk h _ _ _ _ _) _ _
      extract_lets +onlyGivenNames s2
      have hs2 : w.On s2 := State.passTo_walk hs1 _ _
      split
      · exact State.holdAfter_walk (State.notice_walk hs2 _ _ _ _ _ _ _) _ _ _
      · extract_lets +onlyGivenNames d
        exact .ite (State.holdAfter_walk hs2 _ _ _) (.ite (State.openGap_walk hs2 _) (State.takeDesc_walk
            (State.popPre_walk hs2 _) _ _ _ _ _ _ _))

theorem State.transition_walk {w : Walk} {s : State} (h : w.On s) (c : Ch) (late : Bool) : w.On (s.transition c late)
    := by
  unfold State.transition
  split
  · exact h
  · split
    · exact h
    · exact .ite (State.lateFault_walk (State.endAt_walk h _ _ _ _) _) h

theorem State.reach_walk {w : Walk} {s : State} (h : w.On s) (c : Ch) (cnt : Nat) : w.On (s.reach c cnt) := by
  unfold State.reach
  exact State.popPre_walk (State.passTo_walk h _ _) _

theorem State.takeStep_walk {w : Walk} {s : State} (h : w.On s) (op : Nat) (c : Ch) (idx : Half) (d : StepDesc) :
    w.On (s.takeStep op c idx d) := by
  unfold State.takeStep
  extract_lets +onlyGivenNames d2 cnt ok
  refine .ite (State.beginReady_walk (State.reach_walk h _ _) _ _ _ _) ?_
  refine .ite (State.takeDesc_walk (State.reach_walk (State.condGone_walk h _ _) _ _) _ _ _ _ _ _ _) ?_
  split
  · exact h
  · extract_lets +onlyGivenNames act
    exact .ite (State.transition_walk h _ _) h

theorem State.dbReadErr_walk {w : Walk} {s : State} (h : w.On s) : w.On (s.dbReadErr) := by
  unfold State.dbReadErr
  exact State.hostErr_walk h _ _

theorem State.takeTail_walk {w : Walk} {s : State} (h : w.On s) (q : QId) (t : Nat) : w.On (s.takeTail q t) := by
  unfold State.takeTail
  extract_lets +onlyGivenNames x
  exact .ite (State.updQ_walk h _ _) (.ite h (.ite (State.updQ_walk h _ _) (.ite (State.hostErr_walk h _ _)
      (State.updQ_walk h _ _))))

theorem State.takeLine_walk {w : Walk} {s : State} (h : w.On s) (l : DbLine) : w.On (s.takeLine l) := by
  unfold State.takeLine
  extract_lets +onlyGivenNames s1
  have hs1 : w.On s1 := .foldl _ (fun _ _ h2 => .ite (State.takeTail_walk h2 _ _) h2) h
  extract_lets +onlyGivenNames _ s2
  have hs2 : w.On s2 := Walk.On.withHost hs1 _
  extract_lets +onlyGivenNames s3
  have hs3 : w.On s3 := .ite (State.hostErr_walk hs2 _ _) hs2
  exact .ite (State.hostErr_walk hs3 _ _) hs3

theorem State.giveLine_walk {w : Walk} {s : State} (h : w.On s) (p : Pos) (l : DbLine) : w.On (s.giveLine p l) := by
  unfold State.giveLine
  extract_lets +onlyGivenNames own
  refine .ite h ?_
  extract_lets +onlyGivenNames _ s1
  have hs1 : w.On s1 := Walk.On.withHost h _
  exact .ite (State.takeLine_walk hs1 _) (State.send_walk hs1 _ _ _ _ _)

theorem State.emitFrame_walk {w : Walk} {s : State} (h : w.On s) (r : RingId) (f : Frame) : w.On (s.emitFrame r f) :=
    by
  unfold State.emitFrame
  exact State.emit_walk h _

theorem State.passOn_walk {w : Walk} {s : State} (h : w.On s) (f : Frame) : w.On (s.passOn f) := by
  unfold State.passOn
  extract_lets +onlyGivenNames r
  exact .ite h (.ite (State.emit_walk h _) (State.emitFrame_walk h _ _))

theorem State.ackTo_walk {w : Walk} {s : State} (h : w.On s) (f : Frame) : w.On (s.ackTo f) := by
  unfold State.ackTo
  extract_lets +onlyGivenNames dst s1
  have hs1 : w.On s1 := State.queueFrame_walk h _
  exact Walk.On.withRing hs1 _

theorem State.takeFrame_walk {w : Walk} {s : State} (h : w.On s) (f : Frame) (mayAck : Bool) :
    w.On (s.takeFrame f mayAck).1 := by
  unfold State.takeFrame
  split
  · exact h
  · split
    · exact State.incSat_walk (State.passOn_walk h _) _
    · split
      · exact State.passOn_walk h _
      · extract_lets +onlyGivenNames key dup acked passed
        have hacked : w.On acked := .ite (State.ackTo_walk h _) h
        have hpassed : w.On passed := State.passOn_walk hacked _
        split
        · exact hpassed
        · exact hpassed.withRing _

theorem State.issueRead_walk {w : Walk} {s : State} (h : w.On s) : w.On (s.issueRead) := by
  unfold State.issueRead
  split
  · exact h
  · refine .ite ?_ h
    extract_lets +onlyGivenNames _ s1
    have hs1 : w.On s1 := Walk.On.withRing h _
    exact State.emit_walk hs1 _

theorem State.issueReads_walk {w : Walk} {s : State} (h : w.On s) : w.On (s.issueReads) := by
  unfold State.issueReads
  exact .foldl _ (fun _ _ h2 => State.issueRead_walk h2) h

theorem State.readOn_walk {w : Walk} {s : State} (h : w.On s) : w.On (s.readOn) := by
  unfold State.readOn
  exact .ite h (State.issueReads_walk (State.drainWrites_walk h))

theorem State.takeRead_walk {w : Walk} {s : State} (h : w.On s) (r : ReadReq) (st : RdStatus) (ws : List Word) : w.On
    (s.takeRead r st ws) := by
  unfold State.takeRead
  extract_lets +onlyGivenNames _ s1
  have hs1 : w.On s1 := Walk.On.withHost h _
  refine .ite hs1 ?_
  refine .ite (State.hostErr_walk hs1 _ _) ?_
  refine .ite hs1 ?_
  extract_lets +onlyGivenNames k ds
  exact State.admScan_walk (State.updQ_walk hs1 _ _)

theorem State.takeMotion_walk {w : Walk} {s : State} (h : w.On s) (op : Nat) (idx : Half) (d : MotionDesc) : w.On
    (s.takeMotion op idx d) := by
  unfold State.takeMotion
  extract_lets +onlyGivenNames d2
  exact .ite (State.motBegin_walk (State.popMot_walk h) _ _) h

theorem State.passBy_walk {w : Walk} {s : State} (h : w.On s) (f : Frame) : w.On (s.passBy f) := by
  unfold State.passBy
  exact State.takeFrame_walk h _ _

theorem State.placeFrame_walk {w : Walk} {s : State} (h : w.On s) (r : RingId) (o : RingId) (f : Frame) : w.On
    (s.placeFrame r o f) := by
  unfold State.placeFrame
  extract_lets +onlyGivenNames x x2
  exact State.emitFrame_walk (Walk.On.withRing h _) _ _

theorem State.headSend_walk {w : Walk} {s : State} (h : w.On s) (r : RingId) : w.On (s.headSend r) := by
  unfold State.headSend
  extract_lets +onlyGivenNames l free
  split
  · exact h
  · extract_lets +onlyGivenNames s1
    have hs1 : w.On s1 := State.placeFrame_walk h _ _ _
    exact Walk.On.withRing hs1 _

theorem State.regNext_walk {w : Walk} {s : State} (h : w.On s) (r : RegPend) : w.On (s.regNext r) := by
  unfold State.regNext
  extract_lets +onlyGivenNames _ s1
  have hs1 : w.On s1 := Walk.On.withRing h _
  split
  · exact hs1
  · exact State.queueFrame_walk (Walk.On.withRing hs1 _) _

theorem State.heardCtl_walk {w : Walk} {s : State} (h : w.On s) (f : Frame) : w.On (s.heardCtl f) := by
  unfold State.heardCtl
  extract_lets +onlyGivenNames off new
  exact .ite (State.askLine_walk h _) h

theorem State.again_walk {w : Walk} {s : State} (h : w.On s) (f : Frame) : w.On (s.again f) := by
  unfold State.again
  exact State.incSat_walk (State.queueFrame_walk h _) _

theorem State.ackIrq_walk {w : Walk} {s : State} (h : w.On s) (f : Frame) : w.On (s.ackIrq f) := by
  unfold State.ackIrq
  extract_lets +onlyGivenNames tlm
  exact .ite (State.irq_walk h _) (.ite (State.irq_walk h _) h)

theorem State.classFails_walk {w : Walk} {s : State} (h : w.On s) (dst : Nat) (c : FrCls) : w.On (s.classFails dst c)
    := by
  unfold State.classFails
  extract_lets +onlyGivenNames mine lost lost2
  extract_lets +onlyGivenNames _ r
  extract_lets +onlyGivenNames s1
  have hs1 : w.On s1 := Walk.On.withRing h _
  extract_lets +onlyGivenNames s2
  have hs2 : w.On s2 := State.raiseDev_walk (State.wr_walk hs1 _ _) _
  split
  · extract_lets +onlyGivenNames _ s3
    have hs3 : w.On s3 := Walk.On.withHost hs2 _
    exact State.hostErr_walk (State.eventLost_walk hs3 _) _ _
  · exact State.hostErr_walk (Walk.On.withHost hs2 _) _ _
  · exact State.hostErr_walk (State.tlmLost_walk hs2 _) _ _
  · exact hs2

theorem State.noteRestore_walk {w : Walk} {s : State} (h : w.On s) (p : Nat) : w.On (s.noteRestore p) := by
  unfold State.noteRestore
  extract_lets +onlyGivenNames l
  extract_lets +onlyGivenNames _ s1
  have hs1 : w.On s1 := Walk.On.withRing h _
  refine .ite ?_ hs1
  extract_lets +onlyGivenNames t
  extract_lets +onlyGivenNames _ s2
  have hs2 : w.On s2 := Walk.On.withRing hs1 _
  exact .foldl _ (fun _ _ h2 => .ite h2 (State.mgmt_walk h2 _ _ _ _)) hs2

theorem State.spanFail_walk {w : Walk} {s : State} (h : w.On s) (p : Nat) : w.On (s.spanFail p) := by
  unfold State.spanFail
  exact State.ringEvent_walk (State.raiseDev_walk (State.wr_walk h _ _) _) _ _

theorem State.unsupported_walk {w : Walk} {s : State} (h : w.On s) : w.On (s.unsupported) := by
  unfold State.unsupported
  exact .ite h (State.emit_walk (Walk.On.withHost h _) _)

theorem State.spanSend_walk {w : Walk} {s : State} (h : w.On s) (r : RingId) : w.On (s.spanSend r) := by
  unfold State.spanSend
  exact .ite (State.spanFail_walk h _) (State.mgmt_walk h _ _ _ _)

theorem State.motBootstrap_walk {w : Walk} {s : State} (h : w.On s) (bst : Vector Int 3) : w.On (s.motBootstrap bst)
    := by
  unfold State.motBootstrap
  extract_lets +onlyGivenNames legs off
  exact Walk.On.withMot h _

theorem State.learnOffset_walk {w : Walk} {s : State} (h : w.On s) : w.On (s.learnOffset) := by
  unfold State.learnOffset
  extract_lets +onlyGivenNames x
  exact .ite (Walk.On.withMot h _) (Walk.On.withMot h _)

theorem State.synced_walk {w : Walk} {s : State} (h : w.On s) : w.On (s.synced) := by
  unfold State.synced
  extract_lets +onlyGivenNames wasCatch
  extract_lets +onlyGivenNames _ s1
  have hs1 : w.On s1 := Walk.On.withMot h _
  extract_lets +onlyGivenNames s2
  have hs2 : w.On s2 := State.motGo_walk (State.wr_walk hs1 _ _)
  exact .ite (State.motStopScan_walk (State.profileHere_walk hs2)) hs2

theorem State.schedule_walk {w : Walk} {s : State} (h : w.On s) (t : Int) : w.On (s.schedule t) := by
  unfold State.schedule
  split
  next ts u heq =>
  refine Walk.On.withMot (Walk.On.of_pair_snd ?_ heq) _
  split
  · exact h
  · exact State.takeInt_walk h

theorem State.crossing_walk {w : Walk} {s : State} (h : w.On s) (t : Int) : w.On (s.crossing t) := by
  unfold State.crossing
  extract_lets +onlyGivenNames m s1
  have hs1 : w.On s1 := Walk.On.withMot h _
  extract_lets +onlyGivenNames st s2
  have hs2 : w.On s2 := .ite (State.learnOffset_walk hs1) hs1
  extract_lets +onlyGivenNames _ s3
  have hs3 : w.On s3 := .ite hs2 (.ite (State.synced_walk hs2) (.ite (State.wr_walk (Walk.On.withMot hs2 _) _ _) hs2))
  exact .ite (State.schedule_walk hs3 _) hs3

theorem State.fieldWeaken_walk {w : Walk} {s : State} (h : w.On s) : w.On s.fieldWeaken := by
  unfold State.fieldWeaken
  split
  next im u heq =>
  have hu : w.On u := Walk.On.of_pair_snd (by
    split
    · exact State.takeInt_walk h
    · exact h) heq
  extract_lets +onlyGivenNames n lo hi adv0
  refine .ite ?_ (State.wrS_walk (State.wr_walk hu _ _) _ _)
  extract_lets +onlyGivenNames id th
  exact State.wrS_walk (State.wr_walk hu _ _) _ _

theorem State.toSector_walk {w : Walk} {s : State} (h : w.On s) (k : Nat) (t : Int) : w.On (s.toSector k t) := by
  unfold State.toSector
  extract_lets +onlyGivenNames s1
  have hs1 : w.On s1 := State.wr_walk (State.fieldWeaken_walk h) _ _
  extract_lets +onlyGivenNames m
  exact Walk.On.withMot hs1 _

theorem State.nextSector_walk {w : Walk} {s : State} (h : w.On s) (t : Int) : w.On (s.nextSector t) := by
  unfold State.nextSector
  extract_lets +onlyGivenNames k
  exact State.toSector_walk h _ _

theorem State.miss_walk {w : Walk} {s : State} (h : w.On s) (t : Int) : w.On (s.miss t) := by
  unfold State.miss
  extract_lets +onlyGivenNames m s1
  have hs1 : w.On s1 := Walk.On.withMot h _
  exact State.nextSector_walk (State.incSat_walk hs1 _) _

theorem State.motOffsetsOff_walk {w : Walk} {s : State} (h : w.On s) : w.On (s.motOffsetsOff) := by
  unfold State.motOffsetsOff
  exact Walk.On.withMot h _

theorem State.activeShort_walk {w : Walk} {s : State} (h : w.On s) : w.On (s.activeShort) := by
  unfold State.activeShort
  exact .ite (State.wr_walk h _ _) h

theorem State.syncLoss_walk {w : Walk} {s : State} (h : w.On s) : w.On (s.syncLoss) := by
  unfold State.syncLoss
  extract_lets +onlyGivenNames again s1
  have hs1 : w.On s1 := State.motOffsetsOff_walk (State.incSat_walk h _)
  extract_lets +onlyGivenNames _ s2
  have hs2 : w.On s2 := Walk.On.withMot hs1 _
  refine .ite (State.motFail_walk (State.motRaise_walk hs2 _) _ _) ?_
  extract_lets +onlyGivenNames fast
  extract_lets +onlyGivenNames _ s3
  have hs3 : w.On s3 := Walk.On.withMot hs2 _
  extract_lets +onlyGivenNames s4
  have hs4 : w.On s4 := State.wr_walk hs3 _ _
  exact .ite (State.activeShort_walk hs4) hs4

theorem State.normalStart_walk {w : Walk} {s : State} (h : w.On s) : w.On (s.normalStart) := by
  unfold State.normalStart
  extract_lets +onlyGivenNames _ s1
  have hs1 : w.On s1 := Walk.On.withMot h _
  refine .ite (State.motGo_walk (State.wr_walk (Walk.On.withMot hs1 _) _ _)) ?_
  extract_lets +onlyGivenNames _ s2
  have hs2 : w.On s2 := State.wr_walk (Walk.On.withMot hs1 _) _ _
  exact .ite (Walk.On.withMot hs2 _) (Walk.On.withMot hs2 _)

theorem State.springbok_walk {w : Walk} {s : State} (h : w.On s) (sector : Nat) : w.On (s.springbok sector) := by
  unfold State.springbok
  split
  · rename_i d' s' heq
    have hp := Walk.On.of_pair_snd (State.takeNat_walk h) heq
    exact State.wr_walk (Walk.On.withMot hp _) _ _

theorem State.encSpeed_walk {w : Walk} {s : State} (h : w.On s) (d : Int) : w.On (s.encSpeed d) := by
  unfold State.encSpeed
  extract_lets +onlyGivenNames m off
  split
  · extract_lets +onlyGivenNames s1
    have hs1 : w.On s1 := Walk.On.withMot h _
    exact .ite (State.wr_walk (State.wrS_walk (Walk.On.withMot hs1 _) _ _) _ _) hs1
  · extract_lets +onlyGivenNames dir m2 m3 s1
    have hs1 : w.On s1 := Walk.On.withMot h _
    refine .ite ?_ (State.wr_walk (State.wrS_walk hs1 _ _) _ _)
    extract_lets +onlyGivenNames k old t s2
    have hs2 : w.On s2 := State.wr_walk hs1 _ _
    exact State.wr_walk (State.wrS_walk hs2 _ _) _ _

theorem State.encValid_walk {w : Walk} {s : State} (h : w.On s) (raw : Nat) : w.On (s.encValid raw) := by
  unfold State.encValid
  extract_lets +onlyGivenNames n m
  refine .ite (Walk.On.withMot h _) ?_
  extract_lets +onlyGivenNames d
  refine .ite (State.motRaise_walk (State.motOffsetsOff_walk h) _) ?_
  extract_lets +onlyGivenNames s1
  have hs1 : w.On s1 := State.condGone_walk h _ _
  extract_lets +onlyGivenNames s2
  have hs2 : w.On s2 := Walk.On.withMot hs1 _
  exact State.encSpeed_walk hs2 _

theorem State.kFault_walk {w : Walk} {s : State} (h : w.On s) (code : Nat) : w.On (s.kFault code) := by
  unfold State.kFault
  exact State.find_walk (State.wr_walk (State.wr_walk h _ _) _ _) _ _

theorem State.dumpEvent_walk {w : Walk} {s : State} (h : w.On s) (result : Nat) : w.On (s.dumpEvent result) := by
  unfold State.dumpEvent
  exact State.event_walk h _ _ _

theorem State.writeBig_walk {w : Walk} {s : State} (h : w.On s) (addr : Nat) (ws : List Word) : w.On (s.writeBig addr
    ws) := by
  unfold State.writeBig
  exact .ite (State.hostWrite_walk h _ _) (.foldl _ (fun _ _ h2 => (by
      split
      · exact State.hostWrite_walk h2 _ _)) h)

theorem State.dumpWrite_walk {w : Walk} {s : State} (h : w.On s) (off : Nat) (ws : List Word) : w.On (s.dumpWrite off
    ws) := by
  unfold State.dumpWrite
  exact State.writeBig_walk h _ _

end Sys2Proof.Machine
end


section
/-!
SUPPORT. Every command completes and keeps what the operations keep: one lemma per command, which follows the operations of
its meaning.
-/

namespace Sys2Proof.Machine

/-- The command has completed, in a next state that has the property. -/
def Walk.Completes (w : Walk) (o : Host.Outcome State Fault Refusal) : Prop := ∃ t, o = .next t ∧ w.On t

/-- A next state that has it. -/
theorem Walk.Completes.next {w : Walk} {t : State} (h : w.On t) : w.Completes (.next t) := ⟨t, rfl, h⟩

/-- One of two ways. -/
theorem Walk.Completes.ite {w : Walk} {o p : Host.Outcome State Fault Refusal} {c : Prop} [Decidable c] (h : w.Completes o)
    (k : w.Completes p) : w.Completes (if c then o else p) := by
  split
  · exact h
  · exact k

/-- Images, keys and reports change beside OTP. -/
theorem Walk.On.withSec {w : Walk} {t : State} (h : w.On t) (keys : Vector Digest 4) (erased : Bool) (img : Option ImgSet)
    (staged : Option (AdmHdr × ImgSet)) (attest : Option (AdmHdr × Nat × List Word)) :
    w.On { t with sec := { t.sec with keys := keys, erased := erased, img := img, staged := staged, attest := attest } } :=
  w.sec h _ rfl rfl fun hl => ⟨Nat.le_refl _, Nat.le_refl _, hl, BitVec.and_self, id⟩

/-- A choice of the next round changes nothing that is kept. -/
theorem State.rotPick_walk {w : Walk} {t u : State} {k : Nat} (h : w.On t) (e : t.rotPick = some (k, u)) : w.On u := by
  unfold State.rotPick at e
  split at e
  · cases e
    exact h
  · split at e
    · cases e
    · obtain ⟨_, -, he⟩ := Option.map_eq_some_iff.1 e
      cases he
      exact State.newRound_walk h

/-- A device that has reached end of life erases its images and revokes every key. -/
theorem Walk.On.erase {w : Walk} {t : State} (h : w.On t) :
    w.On { t with sec := { t.sec with erased := true, revoke := 15 } } :=
  w.sec h _ rfl rfl fun hl => ⟨Nat.le_refl _, Nat.le_refl _, hl, BitVec.and_allOnes (w := 4), id⟩

/-- A pending lifecycle comes into force. -/
theorem Walk.On.advanceLife {w : Walk} {t : State} (h : w.On t) :
    w.On { t with sec := { t.sec with life := t.sec.lifePend.getD t.sec.life, lifePend := none } } :=
  w.sec h _ rfl rfl fun hl => ⟨Nat.le_refl _, hl, Nat.le_refl _, BitVec.and_self, id⟩

/-- A lifecycle that is pending lies above the one in force. -/
theorem Walk.On.pendLife {w : Walk} {t : State} (h : w.On t) (n : Nat) (hn : t.sec.life ≤ n) (keys : Vector Digest 4)
    (owner : Bool) (ho : t.sec.ownerSet = true → owner = true) :
    w.On { t with sec := { t.sec with lifePend := some n, keys := keys, ownerSet := owner } } :=
  w.sec h _ rfl rfl fun _ => ⟨Nat.le_refl _, Nat.le_refl _, hn, BitVec.and_self, ho⟩

/-- Keys are revoked besides those that are. -/
theorem Walk.On.revokeMore {w : Walk} {t : State} (h : w.On t) (x : BitVec 4) :
    w.On { t with sec := { t.sec with revoke := t.sec.revoke ||| x } } :=
  w.sec h _ rfl rfl fun hl => ⟨Nat.le_refl _, Nat.le_refl _, hl, by ext; simp; grind, id⟩

/-- An accepted manifest that loads the owner's keys finds the lifecycle below the owner's, one that ends the life finds
it below its end (R728). -/
theorem State.authOk_life {s : State} {m : Manifest} (h : s.authOk m = true) :
    ((manTypes m).headD 0 = 5 → s.sec.life ≤ 2) ∧ ((manTypes m).headD 0 = 6 → s.sec.life ≤ 3) := by
  unfold State.authOk at h
  cases hts : manTypes m with
  | nil => simp
  | cons t ts =>
    simp only [hts, List.all_cons] at h
    simp only [List.headD_cons]
    grind

/-- A manifest that passes its checks has an authority that the lifecycle accepts. -/
theorem State.authOk_of_checkMan {s : State} {m : Manifest} {u : ManUse} {len : Nat} (h : s.checkMan m u len = 0) :
    s.authOk m = true := by
  unfold State.checkMan at h
  grind

/-- The images that a loaded manifest carries keep OTP from moving back. -/
theorem State.useImage_walk {w : Walk} {s : State} (h : w.On s) {m : Manifest} (hm : s.authOk m = true) :
    w.On (s.useImage m).1 := by
  obtain ⟨h5, h6⟩ := State.authOk_life hm
  unfold State.useImage
  split
  · extract_lets ws e
    split
    · exact h
    · split
      · exact h.withSaf _
      · exact h
  · next heq => exact h.pendLife 2 (h5 heq) _ true (fun _ => rfl)
  · next heq => exact h.pendLife 3 (h6 heq) s.sec.keys s.sec.ownerSet id
  · exact h.revokeMore 3

theorem State.loadImage_walk {w : Walk} {s : State} (h : w.On s) (a : AdmHdr) (len : Nat) (m : Option Manifest) :
    w.On (s.loadImage a len m) := by
  unfold State.loadImage
  extract_lets reject
  refine .ite (State.admDone_walk h _ _ _ _) ?_
  cases m with
  | none => exact State.admDone_walk h _ _ _ _
  | some m =>
    dsimp only
    split
    · exact State.admDone_walk h _ _ _ _
    · next he =>
      split
      · exact State.admWait_walk (h.withSec _ _ _ _ _) _ _ _
      · have hu := State.useImage_walk h (State.authOk_of_checkMan (not_not.1 he))
        exact .ite (State.admDone_walk hu _ _ _ _) (State.admDone_walk hu _ _ _ _)

theorem execAck_walk {w : Walk} {s : State} (h : w.On s) (f : Frame) : w.Completes (execAck f s) := by
  unfold execAck
  split
  · rename_i s' ok' heq
    have hp := Walk.On.of_pair (State.takeFrame_walk h _ _) heq
    extract_lets +onlyGivenNames tag mine
    split
    · exact .next hp
    · refine .ite (.next hp) ?_
      extract_lets +onlyGivenNames _ s1
      have hs1 : w.On s1 := Walk.On.withRing hp _
      refine .ite ?_ (.next (State.ackIrq_walk hs1 _))
      split
      · exact .ite (.next (State.writeRec_walk (Walk.On.withHost hs1 _) _ _)) (.next (State.groupDone_walk hs1))
      · exact .next hs1

theorem execAckTimeout_walk {w : Walk} {s : State} (h : w.On s) (dst : Pos) (tag : Byte) : w.Completes (execAckTimeout
    dst tag s) := by
  unfold execAckTimeout
  split
  · exact .next h
  · extract_lets +onlyGivenNames waiting
    refine .ite (.next h) ?_
    refine .ite ?_ (.next (State.classFails_walk h _ _))
    extract_lets +onlyGivenNames _ s1
    have hs1 : w.On s1 := Walk.On.withRing h _
    exact .next (State.again_walk hs1 _)

theorem execActiveShortEnd_walk {w : Walk} {s : State} (h : w.On s) : w.Completes (execActiveShortEnd s) := by
  unfold execActiveShortEnd
  exact .ite (.next (State.wr_walk (Walk.On.withMot h _) _ _)) (.next h)

theorem execAlignEnd_walk {w : Walk} {s : State} (h : w.On s) (xs : Vector PulseIn 6) : w.Completes (execAlignEnd xs s)
    := by
  unfold execAlignEnd
  extract_lets +onlyGivenNames p2 pulsed ended
  refine .ite ?_ (.next h)
  extract_lets +onlyGivenNames s1
  have hs1 : w.On s1 := State.turnsAs_walk h _
  extract_lets +onlyGivenNames _ s2
  have hs2 : w.On s2 := Walk.On.withMot hs1 _
  exact .next (.ite hs2 (State.wr_walk hs2 _ _))

theorem execArrive_walk {w : Walk} {s : State} (h : w.On s) (f : Frame) : w.Completes (execArrive f s) := by
  unfold execArrive
  refine .ite (.next (State.passBy_walk h _)) ?_
  split
  · rename_i s' ok' heq
    have hp := Walk.On.of_pair (State.takeFrame_walk h _ _) heq
    exact .next (.ite (.foldl _ (fun _ _ h4 => State.barCount_walk h4 _ _) hp) hp)

theorem execAssign_walk {w : Walk} {s : State} (h : w.On s) (f : Frame) : w.Completes (execAssign f s) := by
  unfold execAssign
  refine .ite (.next h) ?_
  split
  · rename_i s' ok' heq
    have hp := Walk.On.of_pair (State.takeFrame_walk h _ _) heq
    extract_lets +onlyGivenNames mine
    refine .ite (.next hp) ?_
    extract_lets +onlyGivenNames heat
    refine .ite (.next (State.wr_walk (State.wr_walk (State.wr_walk hp _ _) _ _) _ _)) ?_
    extract_lets +onlyGivenNames p kept
    exact .next (State.wb_walk (State.wr_walk (State.wr_walk hp _ _) _ _) _ _)

theorem execAttest_walk {w : Walk} {s : State} (h : w.On s) (a : AdmHdr) (addr : Long) (len : Word) (nonce : BitVec
    256) : w.Completes (execAttest a addr len nonce s) := by
  unfold execAttest
  exact .next (State.admBegin_walk h _ _ _ (fun t ht => .ite (State.admDone_walk ht _ _ _ _) (State.admWait_walk
    (Walk.On.withSec ht _ _ _ _ _) _ _ _)))

theorem execBar1Access_walk {w : Walk} {s : State} (h : w.On s) (p : Pos) (off : Half) (write : Bool) (words : List
    Word) (count : Fin 17) : w.Completes (execBar1Access p off write words count s) := by
  unfold execBar1Access
  extract_lets +onlyGivenNames n
  refine .ite (.next h) ?_
  refine .ite (.next (State.unsupported_walk h)) ?_
  refine .ite (.next (.ite (State.putWords_walk h _ _ _ _) (.ite (Walk.On.withHost h _) (State.answerRead_walk h _
    _)))) ?_
  split
  · extract_lets +onlyGivenNames s1
    have hs1 : w.On s1 := State.wr_walk h _ _
    exact .next (.ite hs1 (State.emit_walk hs1 _))
  · extract_lets +onlyGivenNames tag f first
    extract_lets +onlyGivenNames _ s1
    have hs1 : w.On s1 := Walk.On.withRing h _
    exact .next (.ite (State.queueFrame_walk hs1 _) hs1)

theorem execBlockResetDone_walk {w : Walk} {s : State} (h : w.On s) (b : Blk) : w.Completes (execBlockResetDone b s) := by
  unfold execBlockResetDone
  refine .ite (.next h) ?_
  extract_lets +onlyGivenNames s1
  have hs1 : w.On s1 := State.runAllHeld_walk (State.blkAgain_walk h _)
  split
  · exact .next (.ite (State.admDone_walk hs1 _ _ _ _) hs1)
  · exact .next hs1

theorem execBootComplete_walk {w : Walk} {s : State} (h : w.On s) (i : BootIn) : w.Completes (execBootComplete i s) := by
  unfold execBootComplete
  refine .ite (.next h) ?_
  refine .ite (.next (.ite (State.leaveBoot_walk h) h)) ?_
  refine .ite (.next (State.bootFails_walk (Walk.On.erase h) _)) ?_
  refine .ite (.next (State.bootFails_walk h _)) ?_
  refine .ite ?_ (.next (State.fullBoot_walk h _))
  refine .ite (.next (State.bootDone_walk h)) ?_
  extract_lets +onlyGivenNames s1
  have hs1 : w.On s1 := State.wr_walk (State.wr_walk (State.wr_walk h _ _) _ _) _ _
  exact .next (State.fullBoot_walk (Walk.On.withSec hs1 _ _ _ _ _) _)

theorem execBothOnCommand_walk {w : Walk} {s : State} (h : w.On s) (c : Ch) : w.Completes (execBothOnCommand c s) := by
  unfold execBothOnCommand
  extract_lets +onlyGivenNames s1
  have hs1 : w.On s1 := State.incSat_walk h _
  extract_lets +onlyGivenNames s2
  have hs2 : w.On s2 := State.updStage_walk hs1 _ _
  extract_lets +onlyGivenNames s3
  have hs3 : w.On s3 := State.updLoop_walk hs2 _ _
  exact .next (.ite (State.faultStop_walk hs3 _ _ _) hs3)

theorem execBrkbOvl_walk {w : Walk} {s : State} (h : w.On s) : w.Completes (execBrkbOvl s) := by
  unfold execBrkbOvl
  extract_lets +onlyGivenNames heat
  refine .ite ?_ (.next h)
  extract_lets +onlyGivenNames _ s1
  have hs1 : w.On s1 := Walk.On.withSaf h _
  exact .next (State.raiseDev_walk hs1 _)

theorem execBrkbSwitch_walk {w : Walk} {s : State} (h : w.On s) (vb : Nat) : w.Completes (execBrkbSwitch vb s) := by
  unfold execBrkbSwitch
  extract_lets +onlyGivenNames e on
  exact .next (Walk.On.withSaf h _)

theorem execBrkmOvl_walk {w : Walk} {s : State} (h : w.On s) : w.Completes (execBrkmOvl s) := by
  unfold execBrkmOvl
  extract_lets +onlyGivenNames heat
  refine .ite ?_ (.next h)
  extract_lets +onlyGivenNames forced
  extract_lets +onlyGivenNames _ s1
  have hs1 : w.On s1 := .ite h (State.wr_walk (Walk.On.withMot h _) _ _)
  exact .next (State.motRaise_walk hs1 _)

theorem execBrkmSwitch_walk {w : Walk} {s : State} (h : w.On s) (vm : Nat) : w.Completes (execBrkmSwitch vm s) := by
  unfold execBrkmSwitch
  extract_lets +onlyGivenNames s1
  have hs1 : w.On s1 := State.wr_walk h _ _
  extract_lets +onlyGivenNames s2
  have hs2 : w.On s2 := .ite (State.condGone_walk hs1 _ _) hs1
  extract_lets +onlyGivenNames e forced on
  exact .next (State.wb_walk (Walk.On.withMot hs2 _) _ _)

theorem execBrownout_walk {w : Walk} {s : State} (h : w.On s) (rail : Rail) : w.Completes (execBrownout rail s) := by
  unfold execBrownout
  extract_lets +onlyGivenNames _ s1
  have hs1 : w.On s1 := Walk.On.withPins h _
  exact .next (State.fullReset_walk hs1 _ _ _ _)

theorem execCalibrationComplete_walk {w : Walk} {s : State} (h : w.On s) (conv : Fin 36) (rng : Fin 5) (_n : Nat) (s0 :
    Int) (s1 : Int) (refDev : Int) : w.Completes (execCalibrationComplete conv rng _n s0 s1 refDev s) := by
  unfold execCalibrationComplete
  extract_lets +onlyGivenNames ids k
  refine .ite (.next h) ?_
  split
  · split
    · exact .next h
    · extract_lets +onlyGivenNames s2
      have hs2 : w.On s2 := State.refCheck_walk h _
      extract_lets +onlyGivenNames s3
      have hs3 : w.On s3 := State.judgeCal_walk hs2 _ _ _ _
      exact .next (.ite (State.updSpare_walk hs3 _ _) hs3)
  · split
    · extract_lets +onlyGivenNames i p self idle
      refine .ite ?_ (.next h)
      extract_lets +onlyGivenNames s2
      have hs2 : w.On s2 := State.refCheck_walk h _
      extract_lets +onlyGivenNames s3
      have hs3 : w.On s3 := State.judgeCal_walk hs2 _ _ _ _
      exact .next (State.selfNext_walk hs3 _)
    · extract_lets +onlyGivenNames s2
      have hs2 : w.On s2 := State.refCheck_walk h _
      exact .next (State.takeCal_walk (State.judgeCal_walk hs2 _ _ _ _) _)

theorem execCatch_walk {w : Walk} {s : State} (h : w.On s) (sector : Fin 6) : w.Completes (execCatch sector s) := by
  unfold execCatch
  extract_lets +onlyGivenNames n
  exact .ite (.next (State.springbok_walk (State.turnsAs_walk (State.wr_walk h _ _) _) _)) (.next h)

theorem execClearFault_walk {w : Walk} {s : State} (h : w.On s) (a : AdmHdr) (ch : Ch) : w.Completes (execClearFault a
    ch s) := by
  unfold execClearFault
  exact .next (State.admBegin_walk h _ _ _ (fun t ht => State.admDone_walk (State.clearFault_walk ht _) _ _ _ _))

theorem execClearSafe_walk {w : Walk} {s : State} (h : w.On s) (a : AdmHdr) : w.Completes (execClearSafe a s) := by
  unfold execClearSafe
  exact .next (State.admBegin_walk h _ _ _ (fun t ht => .ite (State.admDone_walk ht _ _ _ _) (.ite
    (State.admDone_walk ht _ _ _ _) (.ite (State.admDone_walk ht _ _ _ _) (State.admWait_walk (State.goTo_walk ht
    _) _ _ _)))))

theorem execClkLost_walk {w : Walk} {s : State} (h : w.On s) : w.Completes (execClkLost s) := by
  unfold execClkLost
  split
  · exact .next (.ite (State.raiseDev_walk (State.wr_walk h _ _) _) h)
  · exact .next h

theorem execCommutation_walk {w : Walk} {s : State} (h : w.On s) (t : Nat) : w.Completes (execCommutation t s) := by
  unfold execCommutation
  split
  · split
    · exact .next (.ite (State.nextSector_walk h _) h)
    · exact .next h
  · refine .ite (.next (State.toSector_walk h _ _)) ?_
    refine .ite (.next h) ?_
    refine .ite ?_ (.next (State.nextSector_walk h _))
    split
    · exact .next (.ite (State.nextSector_walk (Walk.On.withMot h _) _) h)
    · exact .next h

theorem execComparatorRelease_walk {w : Walk} {s : State} (h : w.On s) (i : CmpId) : w.Completes (execComparatorRelease
    i s) := by
  unfold execComparatorRelease
  extract_lets +onlyGivenNames s1
  have hs1 : w.On s1 := State.updCmp_walk h _ _
  extract_lets +onlyGivenNames s2
  have hs2 : w.On s2 := .ite (State.wr_walk hs1 _ _) hs1
  refine .next ?_
  refine .ite ?_ (.ite (State.wr_walk (Walk.On.withMot hs2 _) _ _) (.ite (Walk.On.withPins hs2 _) hs2))
  extract_lets +onlyGivenNames _ s3
  have hs3 : w.On s3 := Walk.On.withSaf hs2 _
  exact .ite (Walk.On.withSaf hs3 _) hs3

theorem execComparatorTrip_walk {w : Walk} {s : State} (h : w.On s) (i : CmpId) (reverse : Bool) : w.Completes
    (execComparatorTrip i reverse s) := by
  unfold execComparatorTrip
  extract_lets +onlyGivenNames x s1
  have hs1 : w.On s1 := State.updCmp_walk h _ _
  extract_lets +onlyGivenNames s2
  have hs2 : w.On s2 := .ite (State.wr_walk hs1 _ _) hs1
  refine .ite (.next (State.updCmp_walk hs2 _ _)) ?_
  refine .ite (.next hs2) ?_
  extract_lets +onlyGivenNames s3
  have hs3 : w.On s3 := State.updCmp_walk hs2 _ _
  split
  · exact .next (State.chTrip_walk hs3 _ _ _)
  · exact .ite (.next (State.demandUp_walk (State.wr_walk (Walk.On.withMot hs3 _) _ _) _)) (.ite (.next
    (State.demandUp_walk (Walk.On.withSaf hs3 _) _)) (.ite (.next (State.raiseDev_walk hs3 _)) (.ite (.next
    (State.vdrvTrip_walk hs3)) (.next hs3))))

theorem execCompareWindowEnd_walk {w : Walk} {s : State} (h : w.On s) (sp : SpareId) (_n : Nat) (_sumTarget : Int)
    (_sumSpare : Int) (_spareOvld : Bool) : w.Completes (execCompareWindowEnd sp _n _sumTarget _sumSpare _spareOvld s)
    := by
  unfold execCompareWindowEnd
  extract_lets +onlyGivenNames p
  exact .ite (.next h) (.ite (.next (State.abandonChange_walk h _)) (.ite (.next h) (.next (.ite (State.updSpare_walk
    h _ _) (State.mismatch_walk h _)))))

theorem execControlSampleValid_walk {w : Walk} {s : State} (h : w.On s) (c : Ch) (i : SlotIn) : w.Completes
    (execControlSampleValid c i s) := by
  unfold execControlSampleValid
  extract_lets +onlyGivenNames _ s1
  have hs1 : w.On s1 := by
    unfold s1
    split
    · exact Walk.On.withMet h _
    · exact h
  extract_lets +onlyGivenNames l
  refine .ite (.next hs1) ?_
  refine .ite (.next (State.updLoop_walk hs1 _ _)) ?_
  split
  · exact .next (State.updLoop_walk hs1 _ _)
  · extract_lets +onlyGivenNames y f cold susp bad k s2
    have hs2 : w.On s2 := State.updLoop_walk hs1 _ _
    extract_lets +onlyGivenNames s3
    have hs3 : w.On s3 := .ite (State.trigCh_walk hs2 _ _) hs2
    extract_lets +onlyGivenNames s4
    have hs4 : w.On s4 := .ite (State.trigCh_walk hs3 _ _) hs3
    extract_lets +onlyGivenNames outer s5
    have hs5 : w.On s5 := State.feTick_walk hs4 _ _ _ _
    split
    · rename_i t' s' heq
      have hp := Walk.On.of_pair_snd (State.trOf_walk hs5 _ _ _ _ _ _ _ _) heq
      extract_lets +onlyGivenNames s6
      have hs6 : w.On s6 := State.trWrite_walk hp _ _
      exact .ite (.next (State.leCheck_walk hs6 _)) (.next (State.slotPrepare_walk hs6 _ _ _))

theorem execDbl_walk {w : Walk} {s : State} (h : w.On s) (f : Frame) : w.Completes (execDbl f s) := by
  unfold execDbl
  split
  · rename_i s' ok' heq
    have hp := Walk.On.of_pair (State.takeFrame_walk h _ _) heq
    exact .next (.ite (State.takeLine_walk hp _) hp)

theorem execDcirPhaseEnd_walk {w : Walk} {s : State} (h : w.On s) (c : Ch) : w.Completes (execDcirPhaseEnd c s) := by
  unfold execDcirPhaseEnd
  split
  · exact .next h
  · refine .ite (.next h) ?_
    refine .ite (.ite (.next (State.decideEnd_walk (State.updRun_walk h _ _) _)) (.next h)) ?_
    refine .ite ?_ (.next h)
    extract_lets +onlyGivenNames closed s1
    have hs1 : w.On s1 := State.updRun_walk h _ _
    extract_lets +onlyGivenNames s2
    have hs2 : w.On s2 := .ite hs1 (State.softStart_walk hs1 _ _)
    exact .next (State.formSetpoint_walk (State.startGates_walk hs2 _) _)

theorem execDebugTransportAccess_walk {w : Walk} {s : State} (h : w.On s) (a : TapAccess) : w.Completes
    (execDebugTransportAccess a s) := by
  unfold execDebugTransportAccess
  split
  · exact .next (State.emit_walk h _)
  · exact .next h
  · exact .next h
  · exact .next h
  · refine .ite ?_ (.next h)
    extract_lets +onlyGivenNames code
    exact .next (.ite h (State.fxDebug_walk (.foldl _ (fun _ _ h4 => State.putField_walk h4 _ _) h) _))

theorem execDemagEnd_walk {w : Walk} {s : State} (h : w.On s) (t : Nat) (above : Bool) : w.Completes (execDemagEnd t
    above s) := by
  unfold execDemagEnd
  extract_lets +onlyGivenNames e
  refine .ite ?_ (.next h)
  extract_lets +onlyGivenNames post
  extract_lets +onlyGivenNames _ s1
  have hs1 : w.On s1 := Walk.On.withMot h _
  exact .next (.ite (State.crossing_walk hs1 _) hs1)

theorem execDescriptorFetch_walk {w : Walk} {s : State} (h : w.On s) : w.Completes (execDescriptorFetch s) := by
  unfold execDescriptorFetch
  extract_lets +onlyGivenNames s1
  have hs1 : w.On s1 := State.drainWrites_walk h
  extract_lets +onlyGivenNames can
  refine .ite ?_ (.next hs1)
  split
  · exact .next hs1
  · extract_lets +onlyGivenNames n cnt addr tag
    extract_lets +onlyGivenNames _ s2
    have hs2 : w.On s2 := Walk.On.withHost hs1 _
    extract_lets +onlyGivenNames s3
    have hs3 : w.On s3 := State.updQ_walk hs2 _ _
    exact .next (.ite (State.emit_walk hs3 _) (State.send_walk hs3 _ _ _ _ _))

theorem execDescriptorReadComplete_walk {w : Walk} {s : State} (h : w.On s) (q : QId) (st : RdStatus) (words : List
    Word) : w.Completes (execDescriptorReadComplete q st words s) := by
  unfold execDescriptorReadComplete
  split
  · exact .next h
  · exact .next (State.readOn_walk (State.takeRead_walk h _ _ _))

theorem execDoorbellLineRead_walk {w : Walk} {s : State} (h : w.On s) (p : Pos) (l : LineRd) : w.Completes
    (execDoorbellLineRead p l s) := by
  unfold execDoorbellLineRead
  refine .ite ?_ (.next h)
  extract_lets +onlyGivenNames _ s1
  have hs1 : w.On s1 := Walk.On.withHost h _
  exact .next (.ite (State.dbReadErr_walk hs1) (.ite (State.giveLine_walk hs1 _ _) hs1))

theorem execDoorbellPoll_walk {w : Walk} {s : State} (h : w.On s) : w.Completes (execDoorbellPoll s) := by
  unfold execDoorbellPoll
  refine .ite ?_ (.next h)
  extract_lets +onlyGivenNames asked
  exact .next (State.readLines_walk (State.emit_walk (Walk.On.withHost h _) _) _)

theorem execDrvEnToggle_walk {w : Walk} {s : State} (h : w.On s) : w.Completes (execDrvEnToggle s) := by
  unfold execDrvEnToggle
  extract_lets +onlyGivenNames _ s1
  have hs1 : w.On s1 := Walk.On.withSaf h _
  extract_lets +onlyGivenNames s2
  have hs2 : w.On s2 := State.wr_walk (State.incSat_walk hs1 _) _ _
  extract_lets +onlyGivenNames ns s3
  have hs3 : w.On s3 := .foldl _ (fun _ _ h2 => State.clearIfGone_walk h2 _ _) hs2
  extract_lets +onlyGivenNames clear
  exact .next (.ite (Walk.On.withSaf hs3 _) hs3)

theorem execDumpFinish_walk {w : Walk} {s : State} (h : w.On s) (ok : Bool) : w.Completes (execDumpFinish ok s) := by
  unfold execDumpFinish
  extract_lets +onlyGivenNames open_
  refine .ite (.next h) ?_
  refine .ite (.next (State.dumpEvent_walk (State.wr_walk h _ _) _)) ?_
  extract_lets +onlyGivenNames s1
  have hs1 : w.On s1 := State.dumpWrite_walk h _ _
  extract_lets +onlyGivenNames s2
  have hs2 : w.On s2 := State.irq_walk (State.dumpEvent_walk hs1 _) _
  extract_lets +onlyGivenNames s3
  have hs3 : w.On s3 := State.wr_walk (State.wr_walk (State.wr_walk hs2 _ _) _ _) _ _
  exact .next (Walk.On.withFlt hs3 _)

theorem execDumpNow_walk {w : Walk} {s : State} (h : w.On s) (a : AdmHdr) : w.Completes (execDumpNow a s) := by
  unfold execDumpNow
  exact .next (State.admBegin_walk h _ _ _ (fun t ht => by
    extract_lets +onlyGivenNames busy
    exact State.admDone_walk (State.dumpTrigger_walk ht _ _) _ _ _ _))

theorem execDumpStart_walk {w : Walk} {s : State} (h : w.On s) : w.Completes (execDumpStart s) := by
  unfold execDumpStart
  extract_lets +onlyGivenNames st
  split
  · exact .next h
  · refine .ite (.next h) ?_
    refine .ite (.next (State.wr_walk h _ _)) ?_
    split
    · extract_lets +onlyGivenNames s1
      have hs1 : w.On s1 := State.wr_walk h _ _
      exact .next (.ite hs1 (State.dumpEvent_walk (Walk.On.withFlt hs1 _) _))
    · extract_lets +onlyGivenNames s1
      have hs1 : w.On s1 := State.dumpWrite_walk (State.wr_walk h _ _) _ _
      exact .next (State.dumpWrite_walk hs1 _ _)

theorem execEcWindowEnd_walk {w : Walk} {s : State} (h : w.On s) (c : Ch) (k : Fin 4) : w.Completes (execEcWindowEnd c
    k s) := by
  unfold execEcWindowEnd
  extract_lets +onlyGivenNames s1
  have hs1 : w.On s1 := State.runIf_walk h _ _ _
  exact .next (State.decideEnd_walk hs1 _)

theorem execEisToneAdmit_walk {w : Walk} {s : State} (h : w.On s) (c : Ch) : w.Completes (execEisToneAdmit c s) := by
  unfold execEisToneAdmit
  split
  · exact .next h
  · extract_lets +onlyGivenNames first
    refine .ite ?_ (.next h)
    extract_lets +onlyGivenNames s1
    have hs1 : w.On s1 := State.updRun_walk h _ _
    exact .next (State.formSetpoint_walk hs1 _)

theorem execEisWindowClose_walk {w : Walk} {s : State} (h : w.On s) (c : Ch) : w.Completes (execEisWindowClose c s) := by
  unfold execEisWindowClose
  extract_lets +onlyGivenNames s1
  have hs1 : w.On s1 := State.runIf_walk h _ _ _
  exact .next (State.decideEnd_walk hs1 _)

theorem execEncoderFrame_walk {w : Walk} {s : State} (h : w.On s) (x : EncIn) (raw : Word) : w.Completes
    (execEncoderFrame x raw s) := by
  unfold execEncoderFrame
  refine .ite (.next h) ?_
  extract_lets +onlyGivenNames _ s1
  have hs1 : w.On s1 := Walk.On.withMot h _
  split
  · extract_lets +onlyGivenNames n v
    extract_lets +onlyGivenNames _ s2
    have hs2 : w.On s2 := State.condGone_walk (State.wr_walk (Walk.On.withMot hs1 _) _ _) _ _
    exact .next (State.encValid_walk hs2 _)
  · extract_lets +onlyGivenNames _ s2
    have hs2 : w.On s2 := Walk.On.withMot hs1 _
    extract_lets +onlyGivenNames s3
    have hs3 : w.On s3 := State.incSat_walk (State.wr_walk hs2 _ _) _
    exact .next (.ite (State.motFail_walk (State.motRaise_walk (State.motOffsetsOff_walk hs3) _) _ _) hs3)

theorem execEnterPark_walk {w : Walk} {s : State} (h : w.On s) (a : AdmHdr) : w.Completes (execEnterPark a s) := by
  unfold execEnterPark
  exact .next (State.admBegin_walk h _ _ _ (fun t ht => by
    refine .ite (State.admDone_walk ht _ _ _ _) ?_
    extract_lets +onlyGivenNames s1
    have hs1 : w.On s1 := .ite (State.lockCopy_walk ht) ht
    extract_lets +onlyGivenNames s2
    have hs2 : w.On s2 := .foldl _ (fun _ _ h4 => State.wr_walk (State.protOpen_walk h4 _) _ _) hs1
    exact State.admWait_walk (State.goTo_walk (State.kdrLow_walk (State.motTorqueOff_walk hs2)) _) _ _ _))

theorem execEnterRun_walk {w : Walk} {s : State} (h : w.On s) (a : AdmHdr) : w.Completes (execEnterRun a s) := by
  unfold execEnterRun
  exact .next (State.admBegin_walk h _ _ _ (fun t ht => .ite (State.admDone_walk ht _ _ _ _) (.ite
    (State.admDone_walk ht _ _ _ _) (State.admWait_walk (State.goTo_walk (State.lockCopy_walk
    (State.endMeasClosures_walk ht)) _) _ _ _))))

theorem execEnterService_walk {w : Walk} {s : State} (h : w.On s) (a : AdmHdr) (len : Word) (m : Option Manifest) :
    w.Completes (execEnterService a len m s) := by
  unfold execEnterService
  exact .next (State.admBegin_walk h _ _ _ (fun t ht => by
    split
    · extract_lets +onlyGivenNames s1
      have hs1 : w.On s1 := State.wr_walk ht _ _
      exact .ite (State.admDone_walk hs1 _ _ _ _) (.ite (State.admDone_walk hs1 _ _ _ _) (State.admWait_walk
        (State.goTo_walk (State.lockCopy_walk (State.endMeasClosures_walk hs1)) _) _ _ _))))

theorem execEnterStandby_walk {w : Walk} {s : State} (h : w.On s) (a : AdmHdr) : w.Completes (execEnterStandby a s) := by
  unfold execEnterStandby
  exact .next (State.admBegin_walk h _ _ _ (fun t ht => .ite (State.admDone_walk ht _ _ _ _) (.ite
    (State.admDone_walk ht _ _ _ _) (State.admWait_walk (State.goTo_walk ht _) _ _ _))))

theorem execEnumEnd_walk {w : Walk} {s : State} (h : w.On s) (hop : Byte) : w.Completes (execEnumEnd hop s) := by
  unfold execEnumEnd
  refine .ite ?_ (.next h)
  extract_lets +onlyGivenNames n wrap s1
  have hs1 : w.On s1 := .ite (State.wr_walk h _ _) h
  extract_lets +onlyGivenNames s2
  have hs2 : w.On s2 := State.wr_walk (State.wr_walk (State.wr_walk hs1 _ _) _ _) _ _
  extract_lets +onlyGivenNames _ s3
  have hs3 : w.On s3 := Walk.On.withRing hs2 _
  exact .next (State.ringEvent_walk hs3 _ _)

theorem execEnumStart_walk {w : Walk} {s : State} (h : w.On s) : w.Completes (execEnumStart s) := by
  unfold execEnumStart
  extract_lets +onlyGivenNames due
  exact .next (.ite (State.enterEnum_walk h) h)

theorem execEstopFilterExpiry_walk {w : Walk} {s : State} (h : w.On s) (isB : Bool) : w.Completes
    (execEstopFilterExpiry isB s) := by
  unfold execEstopFilterExpiry
  extract_lets +onlyGivenNames old
  extract_lets +onlyGivenNames _ f
  extract_lets +onlyGivenNames f2
  exact .next (State.demandUp_walk (Walk.On.withSaf h _) _)

theorem execFaultClear_walk {w : Walk} {s : State} (h : w.On s) (n : Src) (c : Ch) : w.Completes (execFaultClear n c s)
    := by
  unfold execFaultClear
  extract_lets +onlyGivenNames k
  exact .next (.ite (State.condGone_walk h _ _) (.ite h (.ite (State.clearIfGone_walk h _ _) h)))

theorem execFollowErr_walk {w : Walk} {s : State} (h : w.On s) (c : Ch) : w.Completes (execFollowErr c s) := by
  unfold execFollowErr
  split
  · exact .next h
  · exact .ite (.next (State.updLoop_walk (State.failStep_walk h _ _ _) _ _)) (.next h)

theorem execFrameSend_walk {w : Walk} {s : State} (h : w.On s) (r : RingId) (slotBytes : Nat) (reservedFor : Option
    Pos) : w.Completes (execFrameSend r slotBytes reservedFor s) := by
  unfold execFrameSend
  extract_lets +onlyGivenNames mine
  refine .ite (.next h) ?_
  refine .ite (.next (State.headSend_walk h _)) ?_
  refine .ite (.next (State.emit_walk h _)) ?_
  split
  · exact .next (State.emit_walk h _)
  · extract_lets +onlyGivenNames s1
    have hs1 : w.On s1 := State.placeFrame_walk h _ _ _
    extract_lets +onlyGivenNames rest
    exact .next (.ite (State.emit_walk hs1 _) hs1)

theorem execGdAdapt_walk {w : Walk} {s : State} (h : w.On s) (c : Ch) (rising : Bool) (measured : Bool) (t : Byte) :
    w.Completes (execGdAdapt c rising measured t s) := by
  unfold execGdAdapt
  extract_lets +onlyGivenNames code tsw s1
  have hs1 : w.On s1 := .ite (State.wr_walk h _ _) h
  refine .ite (.next (State.wr_walk hs1 _ _)) ?_
  refine .ite (.next hs1) ?_
  extract_lets +onlyGivenNames target now want got s2
  have hs2 : w.On s2 := State.wr_walk hs1 _ _
  exact .next (.ite (State.wr_walk hs2 _ _) hs2)

theorem execGearCheck_walk {w : Walk} {s : State} (h : w.On s) : w.Completes (execGearCheck s) := by
  unfold execGearCheck
  refine .ite ?_ (.next h)
  extract_lets +onlyGivenNames d rev dir bad
  extract_lets +onlyGivenNames _ s1
  have hs1 : w.On s1 := Walk.On.withMot h _
  exact .ite (.next (.ite (State.motRaise_walk (State.motOffsetsOff_walk hs1) _) hs1)) (.next (State.condGone_walk
    hs1 _ _))

theorem execHkSample_walk {w : Walk} {s : State} (h : w.On s) (input : Fin 25) (raw : Half) : w.Completes (execHkSample
    input raw s) := by
  unfold execHkSample
  refine .ite (.next h) ?_
  split
  · extract_lets +onlyGivenNames c x
    exact .ite (.next (State.ntcOut_walk h _ _)) (.ite (.next (State.ntcOut_walk h _ _)) (.next (State.ntcIn_walk h
      _ _)))
  · exact .ite (.next (State.dieSample_walk h _)) (.next (State.wr_walk h _ _))

theorem execHomeEdge_walk {w : Walk} {s : State} (h : w.On s) (rising : Bool) (dNext : Int) (num : Nat) (den : Nat) :
    w.Completes (execHomeEdge rising dNext num den s) := by
  unfold execHomeEdge
  extract_lets +onlyGivenNames e
  refine .ite (.next h) ?_
  extract_lets +onlyGivenNames p u s1
  have hs1 : w.On s1 := State.wr_walk (State.wr_walk (State.wr_walk h _ _) _ _) _ _
  extract_lets +onlyGivenNames old
  extract_lets +onlyGivenNames _ s2
  have hs2 : w.On s2 := Walk.On.withMot hs1 _
  clear_value old
  cases old
  · exact .next hs2
  · dsimp -zeta only
    extract_lets +onlyGivenNames s3
    have hs3 : w.On s3 := State.wrS_walk hs2 _ _
    exact .ite (.next (State.motRaise_walk hs3 _)) (.next (State.clear_walk (State.condGone_walk hs3 _ _) _ _))

theorem execIbxRotationStart_walk {w : Walk} {s : State} (h : w.On s) (sp : SpareId) : w.Completes
    (execIbxRotationStart sp s) := by
  unfold execIbxRotationStart
  refine .ite (.next h) ?_
  split
  · exact .next h
  · rename_i k' s'' heq
    have hp := State.rotPick_walk h heq
    refine .ite (.next h) ?_
    extract_lets +onlyGivenNames rng due
    extract_lets +onlyGivenNames _ s'1
    have hs'1 : w.On s'1 := Walk.On.withMet hp _
    exact .next (State.updSpare_walk hs'1 _ _)

theorem execIbxWindowTimeout_walk {w : Walk} {s : State} (h : w.On s) (sp : SpareId) : w.Completes
    (execIbxWindowTimeout sp s) := by
  unfold execIbxWindowTimeout
  extract_lets +onlyGivenNames p
  exact .ite (.next (State.mismatch_walk h _)) (.next h)

theorem execInjectionTestDone_walk {w : Walk} {s : State} (h : w.On s) (i : InjIn) : w.Completes (execInjectionTestDone
    i s) := by
  unfold execInjectionTestDone
  refine .ite (.next h) ?_
  refine .ite ?_ (.next (State.raiseDev_walk (State.wr_walk h _ _) _))
  extract_lets +onlyGivenNames _ s1
  have hs1 : w.On s1 := Walk.On.withSaf h _
  extract_lets +onlyGivenNames s2
  have hs2 : w.On s2 := State.wr_walk (State.wr_walk hs1 _ _) _ _
  exact .next (State.clear_walk (State.condGone_walk hs2 _ _) _ _)

theorem execInternalResetRelease_walk {w : Walk} {s : State} (h : w.On s) (i : StrapIn) : w.Completes
    (execInternalResetRelease i s) := by
  unfold execInternalResetRelease
  split
  · exact .next h
  · extract_lets +onlyGivenNames role
    refine .ite (.next h) ?_
    extract_lets +onlyGivenNames warm
    extract_lets +onlyGivenNames _ _ s1
    have hs1 : w.On s1 := Walk.On.same h ⟨rfl, rfl, rfl, rfl⟩
    extract_lets +onlyGivenNames s2
    have hs2 : w.On s2 := State.wr_walk (State.wr_walk hs1 _ _) _ _
    extract_lets +onlyGivenNames s3
    have hs3 : w.On s3 := State.blkClears_walk (.ite (State.wr_walk hs2 _ _) hs2)
    extract_lets +onlyGivenNames s4
    have hs4 : w.On s4 := State.wr_walk hs3 _ _
    extract_lets +onlyGivenNames s5
    have hs5 : w.On s5 := State.wr_walk (State.wb_walk hs4 _ _) _ _
    extract_lets +onlyGivenNames s6
    have hs6 : w.On s6 := State.wb_walk hs5 _ _
    extract_lets +onlyGivenNames _ s7
    have hs7 : w.On s7 := .ite hs6 (Walk.On.advanceLife hs6)
    extract_lets +onlyGivenNames s8
    have hs8 : w.On s8 := State.wr_walk hs7 _ _
    extract_lets +onlyGivenNames s9
    have hs9 : w.On s9 := .ite (State.wr_walk hs8 _ _) hs8
    extract_lets +onlyGivenNames s10
    have hs10 : w.On s10 := State.wr_walk hs9 _ _
    exact .next (.ite hs10 (State.raiseDev_walk (.foldl _ (fun _ _ h4 => State.wr_walk (State.wr_walk h4 _ _) _
      _) hs10) _))

theorem execIsoSettleEnd_walk {w : Walk} {s : State} (h : w.On s) (c : Ch) : w.Completes (execIsoSettleEnd c s) := by
  unfold execIsoSettleEnd
  exact .ite (.next (State.updStage_walk h _ _)) (.next h)

theorem execIsoStagedOpen_walk {w : Walk} {s : State} (h : w.On s) (c : Ch) : w.Completes (execIsoStagedOpen c s) := by
  unfold execIsoStagedOpen
  exact .ite (.next (State.measAgain_walk (.foldl _ (fun _ _ h2 => State.updStage_walk h2 _ _) h) _)) (.next h)

theorem execJoin_walk {w : Walk} {s : State} (h : w.On s) (f : Frame) : w.Completes (execJoin f s) := by
  unfold execJoin
  refine .ite (.next (State.passBy_walk h _)) ?_
  split
  · rename_i s' ok' heq
    have hp := Walk.On.of_pair (State.takeFrame_walk h _ _) heq
    refine .ite (.next hp) ?_
    extract_lets +onlyGivenNames pres free want uid id p?
    clear_value p?
    cases p?
    · exact .next (State.mgmt_walk hp _ _ _ _)
    · dsimp -zeta only
      extract_lets +onlyGivenNames s1
      have hs1 : w.On s1 := State.wr_walk hp _ _
      extract_lets +onlyGivenNames s2
      have hs2 : w.On s2 := State.wr_walk hs1 _ _
      extract_lets +onlyGivenNames _ s3
      have hs3 : w.On s3 := Walk.On.withRing hs2 _
      exact .next (State.ringEvent_walk (State.mgmt_walk hs3 _ _ _ _) _ _)

theorem execKdrClose_walk {w : Walk} {s : State} (h : w.On s) : w.Completes (execKdrClose s) := by
  unfold execKdrClose
  extract_lets +onlyGivenNames mode
  refine .ite ?_ (.next h)
  extract_lets +onlyGivenNames _ s1
  have hs1 : w.On s1 := Walk.On.withSaf h _
  exact .next (State.incWrap_walk (State.wr_walk hs1 _ _) _)

theorem execKdrDrop_walk {w : Walk} {s : State} (h : w.On s) : w.Completes (execKdrDrop s) := by
  unfold execKdrDrop
  refine .next ?_
  split
  · exact .ite (State.kdrLow_walk h) h
  · exact h

theorem execKelOpen_walk {w : Walk} {s : State} (h : w.On s) (c : Ch) : w.Completes (execKelOpen c s) := by
  unfold execKelOpen
  exact .ite (.next (State.kelFail_walk (State.protOpen_walk (State.contactLost_walk h _) _) _)) (.next h)

theorem execKelvinPulseEnd_walk {w : Walk} {s : State} (h : w.On s) (c : Ch) (diff : Int) : w.Completes
    (execKelvinPulseEnd c diff s) := by
  unfold execKelvinPulseEnd
  split
  · exact .next h
  · extract_lets +onlyGivenNames ok s1
    have hs1 : w.On s1 := State.updStage_walk h _ _
    extract_lets +onlyGivenNames s2
    have hs2 : w.On s2 := State.wb_walk hs1 _ _
    extract_lets +onlyGivenNames s3
    have hs3 : w.On s3 := .ite (State.condGone_walk hs2 _ _) hs2
    split
    · exact .next (State.closePulse_walk hs3 _ _)
    · refine .ite ?_ (.next (State.kelFail_walk (State.contactLost_walk hs3 _) _))
      extract_lets +onlyGivenNames s4
      have hs4 : w.On s4 := State.wr_walk hs3 _ _
      exact .next (State.demandUp_walk (State.raise_walk hs4 _ _) _)
    · exact .next (State.measAgain_walk (.ite hs3 (State.kelFail_walk hs3 _)) _)
    · exact .next (State.measAgain_walk (.ite hs3 (State.kelFail_walk hs3 _)) _)
    · exact .next (State.measAgain_walk (.ite hs3 (State.kelFail_walk hs3 _)) _)

theorem execKfbCheck_walk {w : Walk} {s : State} (h : w.On s) (kfbA : Bool) (kfbB : Bool) : w.Completes (execKfbCheck
    kfbA kfbB s) := by
  unfold execKfbCheck
  extract_lets +onlyGivenNames win
  refine .ite (.next h) ?_
  extract_lets +onlyGivenNames _ s1
  have hs1 : w.On s1 := Walk.On.withSaf h _
  exact .ite (.next (.ite (State.kFault_walk hs1 _) (.ite (State.kFault_walk hs1 _) (State.wr_walk hs1 _ _))))
    (.next (.ite (State.kFault_walk hs1 _) (.ite (State.kFault_walk hs1 _) (State.wr_walk hs1 _ _))))

theorem execKfbDiscrepancy_walk {w : Walk} {s : State} (h : w.On s) (isB : Bool) (level : Bool) : w.Completes
    (execKfbDiscrepancy isB level s) := by
  unfold execKfbDiscrepancy
  refine .ite (.next h) ?_
  extract_lets +onlyGivenNames _ s1
  have hs1 : w.On s1 := Walk.On.withSaf h _
  exact .next (.ite (State.kFault_walk hs1 _) (State.kFault_walk hs1 _))

theorem execLeOverrun_walk {w : Walk} {s : State} (h : w.On s) (c : Ch) : w.Completes (execLeOverrun c s) := by
  unfold execLeOverrun
  extract_lets +onlyGivenNames l
  refine .ite (.next h) ?_
  extract_lets +onlyGivenNames s1
  have hs1 : w.On s1 := .ite (State.trWithhold_walk h _) h
  extract_lets +onlyGivenNames s2
  have hs2 : w.On s2 := State.updLoop_walk hs1 _ _
  exact .next (State.condGone_walk (State.raise_walk hs2 _ _) _ _)

theorem execLeaveService_walk {w : Walk} {s : State} (h : w.On s) (a : AdmHdr) : w.Completes (execLeaveService a s) := by
  unfold execLeaveService
  exact .next (State.admBegin_walk h _ _ _ (fun t ht => .ite (State.admDone_walk ht _ _ _ _) (State.admWait_walk
    (State.goTo_walk (State.resumeCores_walk ht) _) _ _ _)))

theorem execLoadImage_walk {w : Walk} {s : State} (h : w.On s) (a : AdmHdr) (len : Word) (m : Option Manifest) :
    w.Completes (execLoadImage a len m s) := by
  unfold execLoadImage
  exact .next (State.admBegin_walk h _ _ _ (fun t ht => State.loadImage_walk ht _ _ _))

theorem execLoadInstant_walk {w : Walk} {s : State} (h : w.On s) (c : Ch) : w.Completes (execLoadInstant c s) := by
  unfold execLoadInstant
  extract_lets +onlyGivenNames l
  split
  · extract_lets +onlyGivenNames s1
    have hs1 : w.On s1 := State.updLoop_walk h _ _
    exact .next (State.protOpen_walk (State.failStep_walk hs1 _ _ _) _)
  · split
    · exact .next (State.updLoop_walk h _ _)
    · exact .next h

theorem execLoadProfile_walk {w : Walk} {s : State} (h : w.On s) (a : AdmHdr) (q : Quad) (slot : Fin 8)
    (img : Option (List Word)) : w.Completes (execLoadProfile a q slot img s) := by
  unfold execLoadProfile
  exact .ite (.next h) (.next (State.admBegin_walk h _ _ _ (fun t ht => State.loadProfile_walk ht _ _ _ _)))

theorem execMenRestore_walk {w : Walk} {s : State} (h : w.On s) : w.Completes (execMenRestore s) := by
  unfold execMenRestore
  extract_lets +onlyGivenNames free
  exact .ite (.next (State.condGone_walk (Walk.On.withSaf h _) _ _)) (.next h)

theorem execMotBothOn_walk {w : Walk} {s : State} (h : w.On s) (leg : Leg) : w.Completes (execMotBothOn leg s) := by
  unfold execMotBothOn
  extract_lets +onlyGivenNames m s1
  have hs1 : w.On s1 := Walk.On.withMot h _
  extract_lets +onlyGivenNames s2
  have hs2 : w.On s2 := State.incSat_walk hs1 _
  exact .next (.ite (State.bridge_walk hs2 _) hs2)

theorem execMotPwmPeriodStart_walk {w : Walk} {s : State} (h : w.On s) (x : MotPwmIn) : w.Completes
    (execMotPwmPeriodStart x s) := by
  unfold execMotPwmPeriodStart
  refine .ite (.next h) ?_
  extract_lets +onlyGivenNames s1
  have hs1 : w.On s1 := State.motBootstrap_walk (State.commitIf_walk h _) _
  extract_lets +onlyGivenNames cmp s2
  have hs2 : w.On s2 := .ite (State.updCmp_walk hs1 _ _) hs1
  extract_lets +onlyGivenNames s3
  have hs3 : w.On s3 := .ite hs2 (State.condGone_walk (State.condGone_walk (State.condGone_walk hs2 _ _) _ _) _ _)
  extract_lets +onlyGivenNames s4
  have hs4 : w.On s4 := State.condGone_walk hs3 _ _
  extract_lets +onlyGivenNames m s5
  have hs5 : w.On s5 := Walk.On.withMot hs4 _
  extract_lets +onlyGivenNames st p2 runs
  refine .ite (.next hs5) ?_
  split
  · split
    · rename_i d' s' heq
      have hp := Walk.On.of_pair_snd (State.takeNat_walk hs5) heq
      exact .next (Walk.On.withMot hp _)
  · refine .ite (.next hs5) ?_
    extract_lets +onlyGivenNames e i1 raw out
    exact .next (Walk.On.withMot hs5 _)

theorem execMotScTrip_walk {w : Walk} {s : State} (h : w.On s) : w.Completes (execMotScTrip s) := by
  unfold execMotScTrip
  refine .ite (.next h) ?_
  extract_lets +onlyGivenNames leg m two run s1
  have hs1 : w.On s1 := Walk.On.withMot h _
  extract_lets +onlyGivenNames s2
  have hs2 : w.On s2 := State.incSat_walk hs1 _
  exact .next (.ite (State.bridge_walk hs2 _) (.ite (State.bridge_walk hs2 _) hs2))

theorem execMotionDwellEnd_walk {w : Walk} {s : State} (h : w.On s) : w.Completes (execMotionDwellEnd s) := by
  unfold execMotionDwellEnd
  split
  · exact .next h
  · extract_lets +onlyGivenNames op held
    refine .ite ?_ (.ite (.next (.ite (State.motEnd_walk h _) h)) (.next h))
    extract_lets +onlyGivenNames ready
    exact .next (.ite (State.motEnd_walk h _) h)

theorem execMotionFollowErr_walk {w : Walk} {s : State} (h : w.On s) (force : Bool) : w.Completes (execMotionFollowErr
    force s) := by
  unfold execMotionFollowErr
  split
  · exact .next h
  · exact .ite (.next (State.motFail_walk h _ _)) (.next h)

theorem execMotionTimeout_walk {w : Walk} {s : State} (h : w.On s) : w.Completes (execMotionTimeout s) := by
  unfold execMotionTimeout
  split
  · exact .next h
  · exact .ite (.next (State.motEnd_walk h _)) (.next h)

theorem execMsix_walk {w : Walk} {s : State} (h : w.On s) (f : Frame) : w.Completes (execMsix f s) := by
  unfold execMsix
  refine .ite (.next (State.passBy_walk h _)) ?_
  split
  · rename_i s' ok' heq
    have hp := Walk.On.of_pair (State.takeFrame_walk h _ _) heq
    exact .next (.ite (State.irq_walk hp _) hp)

theorem execMsixSend_walk {w : Walk} {s : State} (h : w.On s) (v : Fin 8) : w.Completes (execMsixSend v s) := by
  unfold execMsixSend
  extract_lets +onlyGivenNames m
  refine .ite (.next h) ?_
  split
  · refine .ite ?_ (.next h)
    extract_lets +onlyGivenNames heat
    exact .next (State.emit_walk (Walk.On.withHost h _) _)
  · extract_lets +onlyGivenNames open_
    exact .ite (.next h) (.next (State.mgmt_walk (Walk.On.withHost h _) _ _ _ _))

theorem execNop_walk {w : Walk} {s : State} (h : w.On s) (a : AdmHdr) : w.Completes (execNop a s) := by
  unfold execNop
  exact .next (State.admBegin_walk h _ _ _ (fun t ht => State.admDone_walk ht _ _ _ _))

theorem execOcvPhaseEnd_walk {w : Walk} {s : State} (h : w.On s) (c : Ch) : w.Completes (execOcvPhaseEnd c s) := by
  unfold execOcvPhaseEnd
  extract_lets +onlyGivenNames s1
  have hs1 : w.On s1 := State.runIf_walk h _ _ _
  exact .next (State.decideEnd_walk hs1 _)

theorem execOlFault_walk {w : Walk} {s : State} (h : w.On s) (c : Ch) : w.Completes (execOlFault c s) := by
  unfold execOlFault
  extract_lets +onlyGivenNames fast
  exact .ite (.next (State.faultStop_walk h _ _ _)) (.next h)

theorem execParkEntryFinish_walk {w : Walk} {s : State} (h : w.On s) : w.Completes (execParkEntryFinish s) := by
  unfold execParkEntryFinish
  refine .ite (.next h) ?_
  extract_lets +onlyGivenNames s1
  have hs1 : w.On s1 := State.wr_walk (State.wr_walk h _ _) _ _
  extract_lets +onlyGivenNames _ _ s2
  have hs2 : w.On s2 := Walk.On.same hs1 ⟨rfl, rfl, rfl, rfl⟩
  extract_lets +onlyGivenNames s3
  have hs3 : w.On s3 := State.wr_walk hs2 _ _
  refine .next ?_
  split
  · exact State.wakeUp_walk hs3 _
  · exact hs3

theorem execParkTick_walk {w : Walk} {s : State} (h : w.On s) (i : ParkIn) : w.Completes (execParkTick i s) := by
  unfold execParkTick
  refine .ite (.next h) ?_
  extract_lets +onlyGivenNames lv hs
  extract_lets +onlyGivenNames _ s1
  have hs1 : w.On s1 := Walk.On.withSys h _
  exact .next (.foldl _ (fun _ _ h2 => State.parkSample_walk h2 _ _ _ _) hs1)

theorem execPennantReceived_walk {w : Walk} {s : State} (h : w.On s) (r : RingId) (p : Pennant) (t : Int) (_dev : Int)
    : w.Completes (execPennantReceived r p t _dev s) := by
  unfold execPennantReceived
  refine .ite (.next h) ?_
  refine .ite (.next (State.incSat_walk (Walk.On.withRing h _) _)) ?_
  extract_lets +onlyGivenNames s1
  have hs1 : w.On s1 := State.lockRun_walk h _ _
  extract_lets +onlyGivenNames s2
  have hs2 : w.On s2 := State.wr_walk hs1 _ _
  extract_lets +onlyGivenNames s3
  have hs3 : w.On s3 := State.wr_walk (State.newWay_walk hs2 _) _ _
  extract_lets +onlyGivenNames s4
  have hs4 : w.On s4 := State.wr_walk (State.wr_walk hs3 _ _) _ _
  extract_lets +onlyGivenNames _ s5
  have hs5 : w.On s5 := .ite (State.wr_walk (Walk.On.withSys hs4 _) _ _) hs4
  extract_lets +onlyGivenNames s6
  have hs6 : w.On s6 := by
    unfold s6
    split
    · extract_lets +onlyGivenNames s7
      have hs7 : w.On s7 := State.alignIn_walk hs5 _ _
      exact .ite (State.incSat_walk hs7 _) (State.pennantTiming_walk hs7 _ _ _)
    · exact State.pennantTiming_walk hs5 _ _ _
  extract_lets +onlyGivenNames _ s7
  have hs7 : w.On s7 := Walk.On.withSys hs6 _
  extract_lets +onlyGivenNames s8
  have hs8 : w.On s8 := .ite (State.wr_walk (State.wr_walk (State.wr_walk hs7 _ _) _ _) _ _) hs7
  extract_lets +onlyGivenNames s9
  have hs9 : w.On s9 := State.pennantPeriod_walk hs8 _
  extract_lets +onlyGivenNames s10
  have hs10 : w.On s10 := State.wr_walk (State.wr_walk hs9 _ _) _ _
  extract_lets +onlyGivenNames s11
  have hs11 : w.On s11 := State.safevIn_walk hs10 _
  exact .next (State.forwardPennant_walk hs11 _ _)

theorem execPennantReturn_walk {w : Walk} {s : State} (h : w.On s) (r : RingId) (p : Pennant) (l : Int) : w.Completes
    (execPennantReturn r p l s) := by
  unfold execPennantReturn
  refine .ite (.next h) ?_
  refine .ite (.next (State.incSat_walk h _)) ?_
  extract_lets +onlyGivenNames s1
  have hs1 : w.On s1 := State.lockRun_walk h _ _
  extract_lets +onlyGivenNames s2
  have hs2 : w.On s2 := State.wr_walk hs1 _ _
  extract_lets +onlyGivenNames _ s3
  have hs3 : w.On s3 := Walk.On.withRing hs2 _
  extract_lets +onlyGivenNames _ s4
  have hs4 : w.On s4 := .ite (Walk.On.withRing hs3 _) hs3
  extract_lets +onlyGivenNames s5
  have hs5 : w.On s5 := State.safevIn_walk (State.wr_walk hs4 _ _) _
  exact .next (State.forwardPennant_walk hs5 _ _)

theorem execPeriodNak_walk {w : Walk} {s : State} (h : w.On s) (f : Frame) : w.Completes (execPeriodNak f s) := by
  unfold execPeriodNak
  refine .ite (.next (State.passBy_walk h _)) ?_
  split
  · rename_i s' ok' heq
    have hp := Walk.On.of_pair (State.takeFrame_walk h _ _) heq
    exact .next (.ite (State.wr_walk (State.withdraw_walk hp) _ _) hp)

theorem execPerstNAssert_walk {w : Walk} {s : State} (h : w.On s) : w.Completes (execPerstNAssert s) := by
  unfold execPerstNAssert
  refine .ite ?_ (.next h)
  extract_lets +onlyGivenNames _ s1
  have hs1 : w.On s1 := Walk.On.withPins h _
  exact .next (.ite hs1 (State.fullReset_walk hs1 _ _ _ _))

theorem execPinReset_walk {w : Walk} {s : State} (h : w.On s) : w.Completes (execPinReset s) := by
  unfold execPinReset
  extract_lets +onlyGivenNames _ s1
  have hs1 : w.On s1 := Walk.On.withPins h _
  exact .next (.ite hs1 (State.fullReset_walk hs1 _ _ _ _))

theorem execPllLock_walk {w : Walk} {s : State} (h : w.On s) : w.Completes (execPllLock s) := by
  unfold execPllLock
  refine .ite (.next h) ?_
  extract_lets +onlyGivenNames _ s1
  have hs1 : w.On s1 := State.wr_walk (Walk.On.withSys h _) _ _
  exact .next (.ite (State.startRing_walk hs1) hs1)

theorem execPositionLeave_walk {w : Walk} {s : State} (h : w.On s) (p : Pos) : w.Completes (execPositionLeave p s) := by
  unfold execPositionLeave
  extract_lets +onlyGivenNames x
  exact .ite (.next (State.ringEvent_walk (State.wr_walk (State.clrFBit_walk h _ _) _ _) _ _)) (.next h)

theorem execPrearm_walk {w : Walk} {s : State} (h : w.On s) (c : Ch) : w.Completes (execPrearm c s) := by
  unfold execPrearm
  split
  · exact .next h
  · extract_lets +onlyGivenNames act
    refine .ite (.next h) ?_
    split
    · split
      · exact .next h
      · exact .ite (.next (State.updSeq_walk (State.armBank_walk h _ _) _ _)) (.next h)

theorem execProfileDecision_walk {w : Walk} {s : State} (h : w.On s) (q : Quad) : w.Completes (execProfileDecision q s)
    := by
  unfold execProfileDecision
  split
  · exact .next h
  · extract_lets +onlyGivenNames busy
    exact .next (State.wr_walk (State.updQd_walk h _ _) _ _)
  · extract_lets +onlyGivenNames j res s1
    have hs1 : w.On s1 := State.updQd_walk h _ _
    extract_lets +onlyGivenNames s2
    have hs2 : w.On s2 := State.wr_walk hs1 _ _
    refine .next ?_
    split
    · exact State.admDone_walk hs2 _ _ _ _
    · exact hs2

theorem execPulsePhaseSwitch_walk {w : Walk} {s : State} (h : w.On s) (c : Ch) : w.Completes (execPulsePhaseSwitch c s)
    := by
  unfold execPulsePhaseSwitch
  extract_lets +onlyGivenNames _ s1
  have hs1 : w.On s1 := State.runIf_walk h _ _ _
  exact .next (State.formSetpoint_walk (State.decideEnd_walk hs1 _) _)

theorem execPwmPeriodStart_walk {w : Walk} {s : State} (h : w.On s) (x : PwmIn) : w.Completes (execPwmPeriodStart x s) := by
  unfold execPwmPeriodStart
  extract_lets +onlyGivenNames c s1
  have hs1 : w.On s1 := State.olEnd_walk (State.commitIf_walk h _) _
  extract_lets +onlyGivenNames edge s2
  have hs2 : w.On s2 := .foldl _ (fun _ _ h2 => .ite h2 (State.clearIfGone_walk h2 _ _)) hs1
  extract_lets +onlyGivenNames ks s3
  have hs3 : w.On s3 := .foldl _ (fun _ _ h2 => .ite (State.updCmp_walk h2 _ _) h2) hs2
  extract_lets +onlyGivenNames s4
  have hs4 : w.On s4 := .ite hs3 (State.condGone_walk (State.condGone_walk hs3 _ _) _ _)
  extract_lets +onlyGivenNames s5
  have hs5 : w.On s5 := State.olEnd_walk hs4 _
  extract_lets +onlyGivenNames s6
  have hs6 : w.On s6 := .ite hs5 (State.condGone_walk (State.condGone_walk hs5 _ _) _ _)
  extract_lets +onlyGivenNames hold s7
  have hs7 : w.On s7 := .ite (State.updLoop_walk hs6 _ _) hs6
  exact .next (State.updStage_walk hs7 _ _)

theorem execRailBreak_walk {w : Walk} {s : State} (h : w.On s) (n : Src) : w.Completes (execRailBreak n s) := by
  unfold execRailBreak
  refine .ite ?_ (.next h)
  extract_lets +onlyGivenNames s1
  have hs1 : w.On s1 := State.wr_walk (State.wr_walk h _ _) _ _
  extract_lets +onlyGivenNames s2
  have hs2 : w.On s2 := State.raiseDev_walk hs1 _
  exact .next (.ite (State.assertAll_walk hs2 _) hs2)

theorem execRdcpl_walk {w : Walk} {s : State} (h : w.On s) (f : Frame) : w.Completes (execRdcpl f s) := by
  unfold execRdcpl
  split
  · extract_lets +onlyGivenNames mine status
    split
    · exact .next h
    · refine .ite (.next h) ?_
      extract_lets +onlyGivenNames _ s1
      have hs1 : w.On s1 := Walk.On.withRing h _
      exact .next (State.readOn_walk (.foldl _ (fun _ _ h6 => State.queueFrame_walk h6 _) hs1))
  · split
    · rename_i s' ok' heq
      have hp := Walk.On.of_pair (State.takeFrame_walk h _ _) heq
      extract_lets +onlyGivenNames mine
      refine .ite (.next hp) ?_
      extract_lets +onlyGivenNames close
      split
      · exact .next (Walk.On.withRing hp _)
      · extract_lets +onlyGivenNames st
        refine .ite (.next (State.takeRead_walk (Walk.On.withRing hp _) _ _ _)) ?_
        extract_lets +onlyGivenNames base new got
        refine .ite ?_ (.next (Walk.On.withHost hp _))
        extract_lets +onlyGivenNames ws
        exact .next (State.takeRead_walk (Walk.On.withRing hp _) _ _ _)

theorem execRdreq_walk {w : Walk} {s : State} (h : w.On s) (f : Frame) : w.Completes (execRdreq f s) := by
  unfold execRdreq
  refine .ite (.next (State.passBy_walk h _)) ?_
  split
  · rename_i s' ok' heq
    have hp := Walk.On.of_pair (State.takeFrame_walk h _ _) heq
    extract_lets +onlyGivenNames busy
    exact .ite (.next (State.readOn_walk (.ite hp (Walk.On.withRing hp _)))) (.next hp)

theorem execRdreqTimeout_walk {w : Walk} {s : State} (h : w.On s) (tag : Byte) : w.Completes (execRdreqTimeout tag s) := by
  unfold execRdreqTimeout
  refine .ite (.next h) ?_
  split
  · exact .next h
  · refine .ite (.next h) ?_
    split
    · extract_lets +onlyGivenNames _ s1
      have hs1 : w.On s1 := Walk.On.withRing h _
      exact .next (State.again_walk hs1 _)
    · extract_lets +onlyGivenNames _ s1
      have hs1 : w.On s1 := Walk.On.withRing h _
      split
      · exact .next hs1
      · exact .next (State.takeRead_walk hs1 _ _ _)

theorem execRefSwitch_walk {w : Walk} {s : State} (h : w.On s) : w.Completes (execRefSwitch s) := by
  unfold execRefSwitch
  exact .ite (.next (State.wr_walk (State.wr_walk (Walk.On.withSys h _) _ _) _ _)) (.next h)

theorem execReg_walk {w : Walk} {s : State} (h : w.On s) (f : Frame) : w.Completes (execReg f s) := by
  unfold execReg
  refine .ite (.next h) ?_
  split
  · rename_i t' ok' heq
    have hp := Walk.On.of_pair (State.takeFrame_walk h _ _) heq
    refine .ite (.next (State.serveReg_walk hp _)) ?_
    refine .ite ?_ (.next hp)
    split
    · exact .next (State.queueFrame_walk hp _)
    · exact .next hp

theorem execRegRead_walk {w : Walk} {s : State} (h : w.On s) (a : AdmHdr) (off : Word) : w.Completes (execRegRead a off
    s) := by
  unfold execRegRead
  exact .next (State.admBegin_walk h _ _ _ (fun t ht => State.admRegStart_walk ht _ _ _ _))

theorem execRegTimeout_walk {w : Walk} {s : State} (h : w.On s) (p : Pos) : w.Completes (execRegTimeout p s) := by
  unfold execRegTimeout
  split
  · exact .next h
  · extract_lets +onlyGivenNames waiting
    refine .ite (.next h) ?_
    split
    · extract_lets +onlyGivenNames s1
      have hs1 : w.On s1 := State.regNext_walk h _
      extract_lets +onlyGivenNames s2
      have hs2 : w.On s2 := State.wr_walk hs1 _ _
      exact .next (.ite hs2 (State.emit_walk hs2 _))
    · extract_lets +onlyGivenNames _ s1
      have hs1 : w.On s1 := Walk.On.withRing h _
      exact .next (State.again_walk hs1 _)

theorem execRegWrite_walk {w : Walk} {s : State} (h : w.On s) (a : AdmHdr) (off : Word) (val : Word) : w.Completes
    (execRegWrite a off val s) := by
  unfold execRegWrite
  exact .next (State.admBegin_walk h _ _ _ (fun t ht => State.admRegStart_walk ht _ _ _ _))

theorem execRegr_walk {w : Walk} {s : State} (h : w.On s) (f : Frame) : w.Completes (execRegr f s) := by
  unfold execRegr
  refine .ite (.next h) ?_
  split
  · rename_i s' ok' heq
    have hp := Walk.On.of_pair (State.takeFrame_walk h _ _) heq
    split
    · exact .next hp
    · refine .ite (.next hp) ?_
      extract_lets +onlyGivenNames s1
      have hs1 : w.On s1 := State.regNext_walk hp _
      exact .next (.ite (.ite hs1 (State.heardCtl_walk hs1 _)) (State.emit_walk hs1 _))

theorem execReportSigned_walk {w : Walk} {s : State} (h : w.On s) : w.Completes (execReportSigned s) := by
  unfold execReportSigned
  split
  · exact .next h
  · extract_lets +onlyGivenNames _ s1
    have hs1 : w.On s1 := Walk.On.withSec h _ _ _ _ _
    refine .ite (.next (State.admDone_walk hs1 _ _ _ _)) ?_
    extract_lets +onlyGivenNames sig
    exact .next (State.admDone_walk (State.writeBig_walk (Walk.On.withFree hs1 _) _ _) _ _ _ _)

theorem execResetBlock_walk {w : Walk} {s : State} (h : w.On s) (a : AdmHdr) (blk : BitVec 4) : w.Completes
    (execResetBlock a blk s) := by
  unfold execResetBlock
  exact .next (State.admBegin_walk h _ _ _ (fun t ht => by
    extract_lets +onlyGivenNames k s1
    have hs1 : w.On s1 := State.admWait_walk ht _ _ _
    exact .ite (State.resetMot_walk hs1 _ _) (.ite (State.resetRing_walk hs1 _ _) (State.resetQuad_walk hs1 _ _ _))))

theorem execResetChip_walk {w : Walk} {s : State} (h : w.On s) (a : AdmHdr) : w.Completes (execResetChip a s) := by
  unfold execResetChip
  exact .next (State.admBegin_walk h _ _ _ (fun t ht => by
    extract_lets +onlyGivenNames s1
    have hs1 : w.On s1 := State.admDone_walk ht _ _ _ _
    exact Walk.On.withHost hs1 _))

theorem execResetWarm_walk {w : Walk} {s : State} (h : w.On s) (a : AdmHdr) : w.Completes (execResetWarm a s) := by
  unfold execResetWarm
  exact .next (State.admBegin_walk h _ _ _ (fun t ht => by
    extract_lets +onlyGivenNames s1
    have hs1 : w.On s1 := State.admDone_walk ht _ _ _ _
    exact Walk.On.withHost hs1 _))

theorem execRestore_walk {w : Walk} {s : State} (h : w.On s) (f : Frame) : w.Completes (execRestore f s) := by
  unfold execRestore
  split
  · rename_i s' ok' heq
    have hp := Walk.On.of_pair (State.takeFrame_walk h _ _) heq
    exact .ite (.next hp) (.ite (.next (State.noteRestore_walk hp _)) (.next (Walk.On.withRing hp _)))

theorem execRestoreBoundary_walk {w : Walk} {s : State} (h : w.On s) : w.Completes (execRestoreBoundary s) := by
  unfold execRestoreBoundary
  refine .ite ?_ (.next h)
  extract_lets +onlyGivenNames _ s1
  have hs1 : w.On s1 := Walk.On.withRing h _
  extract_lets +onlyGivenNames s2
  have hs2 : w.On s2 := State.wr_walk (State.wr_walk hs1 _ _) _ _
  extract_lets +onlyGivenNames s3
  have hs3 : w.On s3 := State.condGone_walk hs2 _ _
  exact .next (.ite (State.ringEvent_walk (State.wr_walk hs3 _ _) _ _) (State.wr_walk hs3 _ _))

theorem execResume_walk {w : Walk} {s : State} (h : w.On s) (a : AdmHdr) (mask : BitVec 16) : w.Completes (execResume a
    mask s) := by
  unfold execResume
  exact .next (State.admBegin_walk h _ _ _ (fun t ht => by
    extract_lets +onlyGivenNames holds refused t1
    have ht1 : w.On t1 := .foldl _ (fun _ _ h4 => State.updSeq_walk h4 _ _) ht
    exact State.admDone_walk ht1 _ _ _ _))

theorem execRevoke_walk {w : Walk} {s : State} (h : w.On s) (a : AdmHdr) (q : BitVec 5) (first : Half) : w.Completes
    (execRevoke a q first s) := by
  unfold execRevoke
  exact .next (State.admBegin_walk h _ _ _ (fun t ht => .ite (State.admDone_walk ht _ _ _ _) (State.revoke_walk ht _
    _ _)))

theorem execRingInputDown_walk {w : Walk} {s : State} (h : w.On s) (r : RingId) (why : DownWhy) : w.Completes
    (execRingInputDown r why s) := by
  unfold execRingInputDown
  refine .ite (.next h) ?_
  refine .ite (.next (.ite (State.spanSend_walk h _) h)) ?_
  extract_lets +onlyGivenNames s1
  have hs1 : w.On s1 := .ite (State.lockLost_walk h _ _) h
  refine .ite (.next hs1) ?_
  extract_lets +onlyGivenNames _ s2
  have hs2 : w.On s2 := Walk.On.withRing hs1 _
  exact .next (.ite (State.spanSend_walk hs2 _) hs2)

theorem execRingInputStable_walk {w : Walk} {s : State} (h : w.On s) (r : RingId) : w.Completes (execRingInputStable r
    s) := by
  unfold execRingInputStable
  exact .ite (.next h) (.next (.ite (State.noteRestore_walk h _) (State.mgmt_walk h _ _ _ _)))

theorem execRstNRelease_walk {w : Walk} {s : State} (h : w.On s) : w.Completes (execRstNRelease s) := by
  unfold execRstNRelease
  extract_lets +onlyGivenNames low
  extract_lets +onlyGivenNames _ s1
  have hs1 : w.On s1 := Walk.On.withPins h _
  exact .next (.ite (State.fullReset_walk hs1 _ _ _ _) hs1)

theorem execSafeStateRequest_walk {w : Walk} {s : State} (h : w.On s) (cause : SafeCause) : w.Completes
    (execSafeStateRequest cause s) := by
  unfold execSafeStateRequest
  extract_lets +onlyGivenNames s1
  have hs1 : w.On s1 := State.safeReq_walk h _ _
  refine .next ?_
  split
  · exact State.raiseAs_walk hs1 _ _ _
  · exact hs1

theorem execSafetyCycleStart_walk {w : Walk} {s : State} (h : w.On s) (i : SafIn) : w.Completes (execSafetyCycleStart i
    s) := by
  unfold execSafetyCycleStart
  refine .ite (.next h) ?_
  extract_lets +onlyGivenNames s1
  have hs1 : w.On s1 := by
    unfold s1
    split
    · exact State.loadPset_walk h _
    · exact h
  extract_lets +onlyGivenNames _ s2
  have hs2 : w.On s2 := Walk.On.withSaf hs1 _
  extract_lets +onlyGivenNames s3
  have hs3 : w.On s3 := State.ntcCopy_walk (State.safInputs_walk hs2 _)
  extract_lets +onlyGivenNames s4
  have hs4 : w.On s4 := State.findIf_walk hs3 _ _ _
  extract_lets +onlyGivenNames s5
  have hs5 : w.On s5 := State.findIf_walk hs4 _ _ _
  extract_lets +onlyGivenNames s6
  have hs6 : w.On s6 := State.sf3_walk hs5 _
  extract_lets +onlyGivenNames s7
  have hs7 : w.On s7 := State.findIf_walk hs6 _ _ _
  extract_lets +onlyGivenNames s8
  have hs8 : w.On s8 := State.masterCheck_walk (State.svcCurrent_walk (State.ss1Check_walk (State.sf6_walk hs7)))
  extract_lets +onlyGivenNames s9
  have hs9 : w.On s9 := State.causeStep_walk (State.softConds_walk hs8 _)
  exact .next (Walk.On.withSaf hs9 _)

theorem execSafetyPduReceived_walk {w : Walk} {s : State} (h : w.On s) (r : RingId) (fromHead : Bool) (p : Pdu) :
    w.Completes (execSafetyPduReceived r fromHead p s) := by
  unfold execSafetyPduReceived
  refine .ite (.next h) ?_
  extract_lets +onlyGivenNames own s1
  have hs1 : w.On s1 := .ite (State.emit_walk h _) h
  refine .ite (.next (State.incSat_walk hs1 _)) (.ite (.next hs1) ?_)
  extract_lets +onlyGivenNames _ s2
  have hs2 : w.On s2 := Walk.On.withRing hs1 _
  extract_lets +onlyGivenNames i x put
  exact .ite (.ite (.next (.ite hs2 (State.raiseDev_walk hs2 _))) (.next (State.raiseDev_walk hs2 _)))
    (.next (Walk.On.withRing hs2 _))

theorem execSarSample_walk {w : Walk} {s : State} (h : w.On s) (c : Ch) (isB : Bool) (v : Int) (i : Int) : w.Completes
    (execSarSample c isB v i s) := by
  unfold execSarSample
  extract_lets +onlyGivenNames x lsb na uv pulsed flagged first s1
  have hs1 : w.On s1 := State.updLoop_walk h _ _
  extract_lets +onlyGivenNames s2
  have hs2 : w.On s2 := State.updMet_walk hs1 _ _
  extract_lets +onlyGivenNames ua s3
  have hs3 : w.On s3 := .ite hs2 (State.updTlm_walk hs2 _ _)
  extract_lets +onlyGivenNames _ s4
  have hs4 : w.On s4 := Walk.On.withSaf hs3 _
  exact .next (.ite (State.condGone_walk hs4 _ _) hs4)

theorem execSarTrackFit_walk {w : Walk} {s : State} (h : w.On s) (c : Ch) : w.Completes (execSarTrackFit c s) := by
  unfold execSarTrackFit
  extract_lets +onlyGivenNames m
  refine .ite (.next h) ?_
  extract_lets +onlyGivenNames s1
  have hs1 : w.On s1 := State.updMet_walk h _ _
  extract_lets +onlyGivenNames span
  refine .ite ?_ (.next hs1)
  split
  · rename_i g' s' heq
    have hp := Walk.On.of_pair_snd (State.takeInt_walk hs1) heq
    split
    · rename_i o' s' heq
      have hp := Walk.On.of_pair_snd (State.takeInt_walk hp) heq
      extract_lets +onlyGivenNames lim
      exact .next (Walk.On.withMet hp _)

theorem execScHard_walk {w : Walk} {s : State} (h : w.On s) (x : TripAt) : w.Completes (execScHard x s) := by
  unfold execScHard
  extract_lets +onlyGivenNames c bus s1
  have hs1 : w.On s1 := State.updStage_walk h _ _
  extract_lets +onlyGivenNames s2
  have hs2 : w.On s2 := State.updLoop_walk hs1 _ _
  extract_lets +onlyGivenNames s3
  have hs3 : w.On s3 := State.faultStop_walk (State.startPulse_walk hs2 _ _) _ _ _
  exact .next (.ite (State.raiseBusSc_walk hs3) hs3)

theorem execSeqLate_walk {w : Walk} {s : State} (h : w.On s) (c : Ch) : w.Completes (execSeqLate c s) := by
  unfold execSeqLate
  refine .ite ?_ (.next h)
  extract_lets +onlyGivenNames s1
  have hs1 : w.On s1 := State.transition_walk h _ _
  exact .next (State.raise_walk hs1 _ _)

theorem execShortCheck_walk {w : Walk} {s : State} (h : w.On s) (c : Ch) : w.Completes (execShortCheck c s) := by
  unfold execShortCheck
  split
  · exact .next h
  · refine .ite ?_ (.next h)
    extract_lets +onlyGivenNames s1
    have hs1 : w.On s1 := State.updSeq_walk h _ _
    exact .ite (.next (State.failStep_walk hs1 _ _ _)) (.next hs1)

theorem execSinc3Output_walk {w : Walk} {s : State} (h : w.On s) (c : Ch) (v : Int) (i : Int) : w.Completes
    (execSinc3Output c v i s) := by
  unfold execSinc3Output
  refine .ite (.next h) ?_
  extract_lets +onlyGivenNames s1
  have hs1 : w.On s1 := State.wrS_walk h _ _
  exact .next (.ite hs1 (State.wrS_walk hs1 _ _))

theorem execSlotReadbackDone_walk {w : Walk} {s : State} (h : w.On s) (ok : Bool) : w.Completes (execSlotReadbackDone
    ok s) := by
  unfold execSlotReadbackDone
  split
  · exact .next h
  · extract_lets +onlyGivenNames _ s1
    have hs1 : w.On s1 := Walk.On.withSec h _ _ _ _ _
    exact .ite (.next (State.admDone_walk (State.wr_walk (State.wr_walk hs1 _ _) _ _) _ _ _ _)) (.next
      (State.admDone_walk hs1 _ _ _ _))

theorem execSnapshotComplete_walk {w : Walk} {s : State} (h : w.On s) : w.Completes (execSnapshotComplete s) := by
  unfold execSnapshotComplete
  refine .ite (.next h) ?_
  extract_lets +onlyGivenNames due _ s1 s2 s3
  have hs1 : w.On s1 := Walk.On.withFlt h _
  have hs2 : w.On s2 := State.wr_walk (State.wr_walk (State.wr_walk hs1 _ _) _ _) _ _
  have hs3 : w.On s3 := State.incWrap_walk (State.wr_walk hs2 _ _) _
  cases due with
  | none => exact .next hs3
  | some cause => exact .next (State.fullReset_walk hs3 _ _ _ _)

theorem execSoftStartEnd_walk {w : Walk} {s : State} (h : w.On s) (c : Ch) : w.Completes (execSoftStartEnd c s) := by
  unfold execSoftStartEnd
  extract_lets +onlyGivenNames s1
  have hs1 : w.On s1 := State.runIf_walk h _ _ _
  exact .next (State.formSetpoint_walk hs1 _)

theorem execSourceChange_walk {w : Walk} {s : State} (h : w.On s) (sp : SpareId) : w.Completes (execSourceChange sp s) := by
  unfold execSourceChange
  extract_lets +onlyGivenNames p k c
  refine .ite (.next h) ?_
  split
  · extract_lets +onlyGivenNames s1
    have hs1 : w.On s1 := State.setSource_walk h _ _
    exact .ite (.next (State.updSpare_walk (State.setRange_walk hs1 _ _) _ _)) (.next (State.updSpare_walk hs1 _ _))
  · refine .ite ?_ (.next h)
    extract_lets +onlyGivenNames s1
    have hs1 : w.On s1 := State.setSource_walk h _ _
    extract_lets +onlyGivenNames s2
    have hs2 : w.On s2 := .ite (State.setRange_walk hs1 _ _) hs1
    exact .next (State.freeSpare_walk (State.rotated_walk hs2 _) _)

theorem execSpan_walk {w : Walk} {s : State} (h : w.On s) (f : Frame) : w.Completes (execSpan f s) := by
  unfold execSpan
  refine .ite (.next (State.passBy_walk h _)) ?_
  split
  · rename_i s' ok' heq
    have hp := Walk.On.of_pair (State.takeFrame_walk h _ _) heq
    exact .next (.ite (State.spanFail_walk hp _) hp)

theorem execSpend_walk {w : Walk} {s : State} (h : w.On s) (i : SpendIn) : w.Completes (execSpend i s) := by
  unfold execSpend
  refine .ite (.next h) ?_
  extract_lets +onlyGivenNames s1
  have hs1 : w.On s1 := State.safAccess_walk h _
  extract_lets +onlyGivenNames s2
  have hs2 : w.On s2 := .ite (State.raiseDev_walk hs1 _) hs1
  refine .ite (.next hs2) ?_
  refine .ite (.next (Walk.On.withSaf hs2 _)) ?_
  refine .ite ?_ (.next (.ite (State.cycleMatched_walk hs2) (State.mismatched_walk hs2)))
  refine .next ?_
  extract_lets +onlyGivenNames u1
  have hu1 : w.On u1 := State.releaseAll_walk hs2
  exact Walk.On.withSaf hu1 _

theorem execSplice_walk {w : Walk} {s : State} (h : w.On s) (r : RingId) : w.Completes (execSplice r s) := by
  unfold execSplice
  extract_lets +onlyGivenNames run turn due
  refine .ite ?_ (.next h)
  extract_lets +onlyGivenNames first s1
  have hs1 : w.On s1 := State.wr_walk h _ _
  extract_lets +onlyGivenNames _ s2
  have hs2 : w.On s2 := Walk.On.withRing hs1 _
  extract_lets +onlyGivenNames s3
  have hs3 : w.On s3 := State.incSat_walk hs2 _
  exact .ite (.next (State.mgmt_walk hs3 _ _ _ _)) (.next hs3)

theorem execSs1End_walk {w : Walk} {s : State} (h : w.On s) : w.Completes (execSs1End s) := by
  unfold execSs1End
  split
  · exact .next h
  · extract_lets +onlyGivenNames v
    refine .ite (.next h) ?_
    extract_lets +onlyGivenNames _ s1
    have hs1 : w.On s1 := Walk.On.withSaf h _
    exact .next (State.findIf_walk (State.motFail_walk hs1 _ _) _ _ _)

theorem execStartCheckEnd_walk {w : Walk} {s : State} (h : w.On s) (obs : Rotation) : w.Completes (execStartCheckEnd
    obs s) := by
  unfold execStartCheckEnd
  refine .ite (.next h) ?_
  split
  · exact .next (State.normalStart_walk h)
  · exact .ite (.next (State.motFail_walk h _ _)) (.ite (.next (State.normalStart_walk h)) (.ite (.next
    (State.springbok_walk (Walk.On.withMot h _) _)) (.next (State.activeShort_walk (Walk.On.withMot h _)))))

theorem execStartTimeout_walk {w : Walk} {s : State} (h : w.On s) : w.Completes (execStartTimeout s) := by
  unfold execStartTimeout
  extract_lets +onlyGivenNames late
  refine .ite (.next h) ?_
  refine .ite ?_ (.next (State.motFail_walk (State.motRaise_walk h _) _ _))
  extract_lets +onlyGivenNames s1
  have hs1 : w.On s1 := State.motFail_walk (State.motRaise_walk h _) _ _
  exact .next (State.motStopScan_walk hs1)

theorem execStepBegin_walk {w : Walk} {s : State} (h : w.On s) (c : Ch) : w.Completes (execStepBegin c s) := by
  unfold execStepBegin
  refine .ite ?_ (.next h)
  split
  · split
    · exact .next h
    · extract_lets +onlyGivenNames s1
      have hs1 : w.On s1 := State.passTo_walk h _ _
      exact .next (State.beginReady_walk (State.popPre_walk hs1 _) _ _ _ _)

theorem execStepGapArm_walk {w : Walk} {s : State} (h : w.On s) (c : Ch) : w.Completes (execStepGapArm c s) := by
  unfold execStepGapArm
  refine .ite ?_ (.next h)
  extract_lets +onlyGivenNames s1
  have hs1 : w.On s1 := State.condGone_walk h _ _
  split
  · split
    · extract_lets +onlyGivenNames s2
      have hs2 : w.On s2 := State.ledger_walk hs1 _ _
      extract_lets +onlyGivenNames s3
      have hs3 : w.On s3 := State.notice_walk hs2 _ _ _ _ _ _ _
      exact .next (State.enterHold_walk hs3 _ _)
    · extract_lets +onlyGivenNames g s2
      have hs2 : w.On s2 := State.passTo_walk hs1 _ _
      exact .next (State.takeDesc_walk (State.popPre_walk hs2 _) _ _ _ _ _ _ _)

theorem execStepTimeout_walk {w : Walk} {s : State} (h : w.On s) (c : Ch) : w.Completes (execStepTimeout c s) := by
  unfold execStepTimeout
  extract_lets +onlyGivenNames s1
  have hs1 : w.On s1 := State.runIf_walk h _ _ _
  exact .next (State.decideEnd_walk hs1 _)

theorem execStop_walk {w : Walk} {s : State} (h : w.On s) (idx : Half) (d : MotionDesc) : w.Completes (execStop idx d
    s) := by
  unfold execStop
  extract_lets +onlyGivenNames d2
  exact .next (.ite (State.motStop_walk h _ _) h)

theorem execSummaryReadComplete_walk {w : Walk} {s : State} (h : w.On s) (d : SumRd) (sgen : Word) : w.Completes
    (execSummaryReadComplete d sgen s) := by
  unfold execSummaryReadComplete
  refine .ite ?_ (.next (Walk.On.withHost h _))
  extract_lets +onlyGivenNames adv
  extract_lets +onlyGivenNames _ s1
  have hs1 : w.On s1 := Walk.On.withHost h _
  exact .next (.ite (State.dbReadErr_walk hs1) (State.readLines_walk (Walk.On.withHost hs1 _) _))

theorem execTelemetryReport_walk {w : Walk} {s : State} (h : w.On s) : w.Completes (execTelemetryReport s) := by
  unfold execTelemetryReport
  refine .ite (.next h) ?_
  extract_lets +onlyGivenNames s1
  have hs1 : w.On s1 := .ite (State.tlmReport_walk (State.drainWrites_walk h)) h
  exact .next (.foldl _ (fun _ _ h2 => State.updTlm_walk h2 _ _) hs1)

theorem execTickBoundary_walk {w : Walk} {s : State} (h : w.On s) (i : TickIn) : w.Completes (execTickBoundary i s) := by
  unfold execTickBoundary
  refine .ite (.next h) ?_
  extract_lets +onlyGivenNames t
  extract_lets +onlyGivenNames _ s1
  have hs1 : w.On s1 := Walk.On.withMet h _
  extract_lets +onlyGivenNames s2
  have hs2 : w.On s2 := State.compareTicks_walk (State.measureTick_walk hs1 _) _
  extract_lets +onlyGivenNames _ s3
  have hs3 : w.On s3 := Walk.On.withMet hs2 _
  extract_lets +onlyGivenNames s4
  have hs4 : w.On s4 := State.condClears_walk (State.tickLatches_walk hs3)
  extract_lets +onlyGivenNames s5
  have hs5 : w.On s5 := State.channelTick_walk hs4 _ _
  extract_lets +onlyGivenNames s6
  have hs6 : w.On s6 := State.nextTick_walk (State.metClock_walk (State.ringAge_walk (State.hostClocks_walk hs5)
    _ _))
  extract_lets +onlyGivenNames s7
  have hs7 : w.On s7 := State.setpointTick_walk (State.balance_walk hs6)
  extract_lets +onlyGivenNames s8
  have hs8 : w.On s8 := .foldl _ (fun _ _ h2 => State.rangeTick_walk (State.exclEnd_walk h2 _) _) hs7
  extract_lets +onlyGivenNames s9
  have hs9 : w.On s9 := .foldl _ (fun _ _ h2 => State.traceTick_walk h2 _ _) hs8
  extract_lets +onlyGivenNames s10
  have hs10 : w.On s10 := State.endInject_walk (State.chopperConds_walk (State.motTick_walk (State.ringTick_walk
    hs9) _))
  extract_lets +onlyGivenNames s11
  have hs11 : w.On s11 := .ite (State.emit_walk hs10 _) hs10
  exact .next (State.admScan_walk hs11)

theorem execTickPeriodSwitch_walk {w : Walk} {s : State} (h : w.On s) : w.Completes (execTickPeriodSwitch s) := by
  unfold execTickPeriodSwitch
  split
  · exact .next (.ite (.ite (State.layRegions_walk (State.switchPeriod_walk h _)) (State.withdraw_walk h)) (.ite
    (State.switchPeriod_walk h _) (Walk.On.withSys h _)))
  · exact .next h

theorem execTracePostStop_walk {w : Walk} {s : State} (h : w.On s) (q : Quad) : w.Completes (execTracePostStop q s) := by
  unfold execTracePostStop
  exact .ite (.next (State.traceStop_walk h _)) (.next h)

theorem execTrayExchange_walk {w : Walk} {s : State} (h : w.On s) : w.Completes (execTrayExchange s) := by
  unfold execTrayExchange
  refine .ite ?_ (.next h)
  extract_lets +onlyGivenNames _ s1
  have hs1 : w.On s1 := Walk.On.withSaf h _
  exact .next (.foldl _ (fun _ _ h2 => State.clear_walk (State.condGone_walk h2 _ _) _ _) hs1)

theorem execUpdate_walk {w : Walk} {s : State} (h : w.On s) (c : Ch) (idx : Half) (d : StepDesc) : w.Completes
    (execUpdate c idx d s) := by
  unfold execUpdate
  extract_lets +onlyGivenNames d2 q cnt depth ahead
  refine .ite (.next h) ?_
  extract_lets +onlyGivenNames ok
  split
  · exact .next (State.endUpdate_walk h _ _ _ _)
  · exact .ite (.next h) (.ite (.next (State.endUpdate_walk h _ _ _ _)) (.ite (.ite (.next (State.updRun_walk h _ _))
    (.next (State.endUpdate_walk h _ _ _ _))) (.ite (.next (State.endUpdate_walk h _ _ _ _)) (.next
    (State.endUpdate_walk h _ _ _ _)))))

theorem execUpdateApply_walk {w : Walk} {s : State} (h : w.On s) (c : Ch) : w.Completes (execUpdateApply c s) := by
  unfold execUpdateApply
  split
  · exact .next h
  · split
    · exact .next h
    · refine .ite (.next h) ?_
      extract_lets +onlyGivenNames d m0 tgt s1
      have hs1 : w.On s1 := State.updRun_walk h _ _
      extract_lets +onlyGivenNames s2
      have hs2 : w.On s2 := State.updSeq_walk hs1 _ _
      extract_lets +onlyGivenNames s3
      have hs3 : w.On s3 := State.bankTo_walk hs2 _ _
      extract_lets +onlyGivenNames s4
      have hs4 : w.On s4 := State.endUpdate_walk hs3 _ _ _ _
      exact .next (State.formSetpoint_walk hs4 _)

theorem execVdrvUnderVoltage_walk {w : Walk} {s : State} (h : w.On s) : w.Completes (execVdrvUnderVoltage s) := by
  unfold execVdrvUnderVoltage
  extract_lets +onlyGivenNames x s1
  have hs1 : w.On s1 := State.updCmp_walk h _ _
  exact .next (.ite hs1 (State.vdrvTrip_walk hs1))

theorem execVinOn_walk {w : Walk} {s : State} (h : w.On s) : w.Completes (execVinOn s) := by
  unfold execVinOn
  exact .next (.ite h (State.wr_walk (State.wr_walk (State.wr_walk (Walk.On.withPins h _) _ _) _ _) _ _))

theorem execWakeBurst_walk {w : Walk} {s : State} (h : w.On s) : w.Completes (execWakeBurst s) := by
  unfold execWakeBurst
  exact .ite (.next (State.emit_walk (Walk.On.withRing h _) _)) (.next h)

theorem execWr_walk {w : Walk} {s : State} (h : w.On s) (f : Frame) : w.Completes (execWr f s) := by
  unfold execWr
  refine .ite (.next (State.passBy_walk h _)) ?_
  refine .ite (.next h) ?_
  split
  · rename_i s' ok' heq
    have hp := Walk.On.of_pair (State.takeFrame_walk h _ _) heq
    exact .next (.ite (State.emit_walk hp _) hp)

theorem execWrap_walk {w : Walk} {s : State} (h : w.On s) (f : Frame) : w.Completes (execWrap f s) := by
  unfold execWrap
  refine .ite (.next (State.passBy_walk h _)) ?_
  split
  · rename_i s' ok' heq
    have hp := Walk.On.of_pair (State.takeFrame_walk h _ _) heq
    extract_lets +onlyGivenNames p b
    exact .next (.ite (State.enterWrapped_walk hp _ _) hp)

theorem execZcMiss_walk {w : Walk} {s : State} (h : w.On s) : w.Completes (execZcMiss s) := by
  unfold execZcMiss
  refine .ite ?_ (.next h)
  split
  · rename_i e' s' heq
    have hp := Walk.On.of_pair_snd (State.orFree_walk h _) heq
    extract_lets +onlyGivenNames s1
    have hs1 : w.On s1 := State.miss_walk hp _
    exact .next (.ite (State.syncLoss_walk hs1) hs1)

/-- Every command completes and keeps what every operation keeps. -/
theorem exec_walk {w : Walk} {s : State} (h : w.On s) (c : Instr) : w.Completes (exec c s) := by
  cases c with
  | vinOn => exact execVinOn_walk h
  | por => exact .next (State.fullReset_walk (Walk.On.withPins h _) _ _ _ _)
  | brownout rail => exact execBrownout_walk h rail
  | pinReset => exact execPinReset_walk h
  | perstNAssert => exact execPerstNAssert_walk h
  | functionLevelReset => exact .next (.ite (State.fullReset_walk h _ _ _ _) h)
  | vdrvUnderVoltage => exact execVdrvUnderVoltage_walk h
  | internalResetRelease inp => exact execInternalResetRelease_walk h inp
  | pllLock => exact execPllLock_walk h
  | bootComplete inp => exact execBootComplete_walk h inp
  | injectionTestDone inp => exact execInjectionTestDone_walk h inp
  | nop a => exact execNop_walk h a
  | regRead a off => exact execRegRead_walk h a off
  | regWrite a off val => exact execRegWrite_walk h a off val
  | loadImage a len m => exact execLoadImage_walk h a len m
  | loadProfile a q slot img => exact execLoadProfile_walk h a q slot img
  | revoke a q first => exact execRevoke_walk h a q first
  | resume a mask => exact execResume_walk h a mask
  | clearFault a ch => exact execClearFault_walk h a ch
  | enterRun a => exact execEnterRun_walk h a
  | enterStandby a => exact execEnterStandby_walk h a
  | enterService a len m => exact execEnterService_walk h a len m
  | leaveService a => exact execLeaveService_walk h a
  | clearSafe a => exact execClearSafe_walk h a
  | enterPark a => exact execEnterPark_walk h a
  | parkEntryFinish => exact execParkEntryFinish_walk h
  | resetChip a => exact execResetChip_walk h a
  | resetWarm a => exact execResetWarm_walk h a
  | resetBlock a blk => exact execResetBlock_walk h a blk
  | blockResetDone blk => exact execBlockResetDone_walk h blk
  | attest a addr len nonce => exact execAttest_walk h a addr len nonce
  | dumpNow a => exact execDumpNow_walk h a
  | safeStateRequest cause => exact execSafeStateRequest_walk h cause
  | parkTick inp => exact execParkTick_walk h inp
  | parkWakeTray => exact .next (State.wakeEvent_walk h _ _)
  | parkWakeVb => exact .next (State.wakeEvent_walk h _ _)
  | parkWakeRing _ => exact .next (State.wakeEvent_walk h _ _)
  | drvEnToggle => exact execDrvEnToggle_walk h
  | tickBoundary inp => exact execTickBoundary_walk h inp
  | refSwitch => exact execRefSwitch_walk h
  | clkLost => exact execClkLost_walk h
  | pennantReceived r p t dev => exact execPennantReceived_walk h r p t dev
  | pennantMissed => exact .next (.ite (Walk.On.withSys h _) h)
  | tickAlign => exact .next (.ite (State.raiseDev_walk (State.wr_walk h _ _) _) h)
  | sysTickWrite _ _ => exact .next (State.put1_walk h _ _ _)
  | tickPeriodSwitch => exact execTickPeriodSwitch_walk h
  | tickChangeWithdraw => exact .next (.ite (State.withdraw_walk h) h)
  | telemetryReport => exact execTelemetryReport_walk h
  | safetyCycleStart inp => exact execSafetyCycleStart_walk h inp
  | spend inp => exact execSpend_walk h inp
  | safOverrun => exact .next (.ite h (State.raiseDev_walk h _))
  | safHeartbeat => exact .next (.ite (State.raiseDev_walk h _) h)
  | pwmPeriodStart inp => exact execPwmPeriodStart_walk h inp
  | sarSample ch isB v inp => exact execSarSample_walk h ch isB v inp
  | controlSampleValid ch inp => exact execControlSampleValid_walk h ch inp
  | leOverrun ch => exact execLeOverrun_walk h ch
  | loadInstant ch => exact execLoadInstant_walk h ch
  | gdAdapt ch rising measured t => exact execGdAdapt_walk h ch rising measured t
  | bothOnCommand ch => exact execBothOnCommand_walk h ch
  | measClose _ _ _ => exact .next (State.put1_walk h _ _ _)
  | kelTest _ _ _ => exact .next (State.put1_walk h _ _ _)
  | kelvinPulseEnd ch diff => exact execKelvinPulseEnd_walk h ch diff
  | isoSettleEnd ch => exact execIsoSettleEnd_walk h ch
  | isoStagedOpen ch => exact execIsoStagedOpen_walk h ch
  | chamoisTrip _ => exact .next (State.chamois_walk h _ _)
  | blankingEnd _ _ => exact .next (.ite (State.chamois_walk h _ _) h)
  | scHard x => exact execScHard_walk h x
  | comparatorTrip inp reverse => exact execComparatorTrip_walk h inp reverse
  | comparatorRelease inp => exact execComparatorRelease_walk h inp
  | olFault ch => exact execOlFault_walk h ch
  | kelOpen ch => exact execKelOpen_walk h ch
  | hkSample input raw => exact execHkSample_walk h input raw
  | profileLoad _ _ _ => exact .next (State.put1_walk h _ _ _)
  | profileInvalidate _ _ _ => exact .next (State.put1_walk h _ _ _)
  | profileReadback _ _ _ => exact .next (State.put1_walk h _ _ _)
  | profileDecision q => exact execProfileDecision_walk h q
  | followErr ch => exact execFollowErr_walk h ch
  | swtrig _ _ _ => exact .next (State.put1_walk h _ _ _)
  | tracePostStop q => exact execTracePostStop_walk h q
  | traceDataRead _ => exact .next (State.rdTrdata_walk (State.emit_walk h _) _)
  | rangeRequest _ _ _ => exact .next (State.put1_walk h _ _ _)
  | ibxRotationStart sp => exact execIbxRotationStart_walk h sp
  | calibrationComplete conv rng n s0 s1 refDev => exact execCalibrationComplete_walk h conv rng n s0 s1 refDev
  | compareWindowEnd sp n sumTarget sumSpare spareOvld =>
      exact execCompareWindowEnd_walk h sp n sumTarget sumSpare spareOvld
  | sourceChange sp => exact execSourceChange_walk h sp
  | ibxWindowTimeout sp => exact execIbxWindowTimeout_walk h sp
  | sarTrackFit ch => exact execSarTrackFit_walk h ch
  | sinc3Output ch v inp => exact execSinc3Output_walk h ch v inp
  | ledgerSnap _ _ _ => exact .next (State.put1_walk h _ _ _)
  | ledgerClear _ _ _ => exact .next (State.put1_walk h _ _ _)
  | ledgerDataRead _ => exact .next (State.answerRead_walk h _ _)
  | stepBegin ch => exact execStepBegin_walk h ch
  | bankSwap _ => exact .next (State.transition_walk h _ _)
  | seqLate ch => exact execSeqLate_walk h ch
  | prearm ch => exact execPrearm_walk h ch
  | stepGapArm ch => exact execStepGapArm_walk h ch
  | cc _ _ _ => exact .next (State.takeStep_walk h _ _ _ _)
  | cv _ _ _ => exact .next (State.takeStep_walk h _ _ _ _)
  | cccv _ _ _ => exact .next (State.takeStep_walk h _ _ _ _)
  | cp _ _ _ => exact .next (State.takeStep_walk h _ _ _ _)
  | cr _ _ _ => exact .next (State.takeStep_walk h _ _ _ _)
  | pulse _ _ _ => exact .next (State.takeStep_walk h _ _ _ _)
  | rest _ _ _ => exact .next (State.takeStep_walk h _ _ _ _)
  | ocv _ _ _ => exact .next (State.takeStep_walk h _ _ _ _)
  | dcir _ _ _ => exact .next (State.takeStep_walk h _ _ _ _)
  | eis _ _ _ => exact .next (State.takeStep_walk h _ _ _ _)
  | nichg _ _ _ => exact .next (State.takeStep_walk h _ _ _ _)
  | ramp _ _ _ => exact .next (State.takeStep_walk h _ _ _ _)
  | wait _ _ _ => exact .next (State.takeStep_walk h _ _ _ _)
  | hold _ _ _ => exact .next (State.takeStep_walk h _ _ _ _)
  | gang _ _ _ => exact .next (State.takeStep_walk h _ _ _ _)
  | update ch idx d => exact execUpdate_walk h ch idx d
  | updateApply ch => exact execUpdateApply_walk h ch
  | endStep _ _ _ => exact .next (State.takeStep_walk h _ _ _ _)
  | softStartEnd ch => exact execSoftStartEnd_walk h ch
  | shortCheck ch => exact execShortCheck_walk h ch
  | stepTimeout ch => exact execStepTimeout_walk h ch
  | pulsePhaseSwitch ch => exact execPulsePhaseSwitch_walk h ch
  | ocvPhaseEnd ch => exact execOcvPhaseEnd_walk h ch
  | dcirPhaseEnd ch => exact execDcirPhaseEnd_walk h ch
  | eisToneAdmit ch => exact execEisToneAdmit_walk h ch
  | eisWindowClose ch => exact execEisWindowClose_walk h ch
  | nichgHoldEnd _ => exact .next (State.runIf_walk h _ _ _)
  | ecWindowEnd ch k => exact execEcWindowEnd_walk h ch k
  | doorbellPoll => exact execDoorbellPoll_walk h
  | summaryReadComplete smask sgen => exact execSummaryReadComplete_walk h smask sgen
  | doorbellLineRead p l => exact execDoorbellLineRead_walk h p l
  | dbl f => exact execDbl_walk h f
  | queueEnable _ _ => exact .next (State.put1_walk h _ _ _)
  | descriptorFetch => exact execDescriptorFetch_walk h
  | descriptorReadComplete q st words => exact execDescriptorReadComplete_walk h q st words
  | completionPost => exact .next (State.groupStep_walk (State.drainEvents_walk h))
  | eventPost => exact .next (State.eventStep_walk h)
  | msixSend v => exact execMsixSend_walk h v
  | hostErrClear _ _ => exact .next (State.put1_walk h _ _ _)
  | home _ _ => exact .next (State.takeMotion_walk h _ _ _)
  | moveTo _ _ => exact .next (State.takeMotion_walk h _ _ _)
  | press _ _ => exact .next (State.takeMotion_walk h _ _ _)
  | holdForce _ _ => exact .next (State.takeMotion_walk h _ _ _)
  | release _ _ => exact .next (State.takeMotion_walk h _ _ _)
  | stop idx d => exact execStop_walk h idx d
  | splice r => exact execSplice_walk h r
  | pennantReturn r p l => exact execPennantReturn_walk h r p l
  | arrive f => exact execArrive_walk h f
  | ringBarset _ _ _ => exact .next (State.put1_walk h _ _ _)
  | safetyPduReceived r fromHead p => exact execSafetyPduReceived_walk h r fromHead p
  | frameSend r slotBytes reservedFor => exact execFrameSend_walk h r slotBytes reservedFor
  | reg f => exact execReg_walk h f
  | regr f => exact execRegr_walk h f
  | regTimeout p => exact execRegTimeout_walk h p
  | rdreq f => exact execRdreq_walk h f
  | rdcpl f => exact execRdcpl_walk h f
  | rdreqTimeout tag => exact execRdreqTimeout_walk h tag
  | wr f => exact execWr_walk h f
  | ack f => exact execAck_walk h f
  | ackTimeout dst tag => exact execAckTimeout_walk h dst tag
  | join f => exact execJoin_walk h f
  | assign f => exact execAssign_walk h f
  | wrap f => exact execWrap_walk h f
  | restore f => exact execRestore_walk h f
  | restoreBoundary => exact execRestoreBoundary_walk h
  | msix f => exact execMsix_walk h f
  | span f => exact execSpan_walk h f
  | periodNak f => exact execPeriodNak_walk h f
  | bar1Access p off write words count => exact execBar1Access_walk h p off write words count
  | enumStart => exact execEnumStart_walk h
  | enumEnd hop => exact execEnumEnd_walk h hop
  | ringEnumWrite _ _ => exact .next (State.put1_walk h _ _ _)
  | ringInputDown r why => exact execRingInputDown_walk h r why
  | ringInputStable r => exact execRingInputStable_walk h r
  | positionLeave p => exact execPositionLeave_walk h p
  | ringWakeGo _ _ => exact .next (State.put1_walk h _ _ _)
  | wakeBurst => exact execWakeBurst_walk h
  | ringWatchdogExpiry _ => exact .next (.ite (State.raiseAs_walk (State.safeReq_walk h _ _) _ _ _) h)
  | motPwmPeriodStart inp => exact execMotPwmPeriodStart_walk h inp
  | zeroCrossing _ => exact .next (.ite (State.crossing_walk h _) h)
  | demagEnd t post => exact execDemagEnd_walk h t post
  | commutation im => exact execCommutation_walk h im
  | zcMiss => exact execZcMiss_walk h
  | gearCheck => exact execGearCheck_walk h
  | startCheckEnd obs => exact execStartCheckEnd_walk h obs
  | activeShortEnd => exact execActiveShortEnd_walk h
  | alignEnd fastest => exact execAlignEnd_walk h fastest
  | startTimeout => exact execStartTimeout_walk h
  | catch_ sector => exact execCatch_walk h sector
  | encoderFrame valid raw => exact execEncoderFrame_walk h valid raw
  | homeEdge rising dNext num den => exact execHomeEdge_walk h rising dNext num den
  | motOverrun => exact .next (State.motRaise_walk (State.motFail_walk h _ _) _)
  | motionFollowErr force => exact execMotionFollowErr_walk h force
  | motionTimeout => exact execMotionTimeout_walk h
  | motionDwellEnd => exact execMotionDwellEnd_walk h
  | motScTrip => exact execMotScTrip_walk h
  | motScHard => exact .next (State.bridge_walk h _)
  | motBothOn leg => exact execMotBothOn_walk h leg
  | brkmSwitch vm => exact execBrkmSwitch_walk h vm
  | brkmOvl => exact execBrkmOvl_walk h
  | brkbSwitch vb => exact execBrkbSwitch_walk h vb
  | brkbOvl => exact execBrkbOvl_walk h
  | kdrClose => exact execKdrClose_walk h
  | kfbCheck kfbA kfbB => exact execKfbCheck_walk h kfbA kfbB
  | kfbDiscrepancy isB level => exact execKfbDiscrepancy_walk h isB level
  | safKctlReq _ _ => exact .next (State.put1_walk h _ _ _)
  | kdrDrop => exact execKdrDrop_walk h
  | ss1End => exact execSs1End_walk h
  | menRestore => exact execMenRestore_walk h
  | estopFilterExpiry isB => exact execEstopFilterExpiry_walk h isB
  | estopDiscrepancy => exact .next (.ite (State.wr_walk h _ _) h)
  | trayExchange => exact execTrayExchange_walk h
  | faultRaise _ _ => exact .next (.ite (State.assertSrc_walk h _ _) h)
  | faultClear src ch => exact execFaultClear_walk h src ch
  | railBreak src => exact execRailBreak_walk h src
  | cmpCfgWrite _ _ _ => exact .next (State.put1_walk h _ _ _)
  | errNRelease => exact .next (.ite h (State.wr_walk h _ _))
  | seqWdog => exact .next (.ite (State.raiseDev_walk h _) h)
  | motWdog => exact .next (.ite (State.raiseDev_walk h _) h)
  | snapshotComplete => exact execSnapshotComplete_walk h
  | dumpStart => exact execDumpStart_walk h
  | dumpFinish ok => exact execDumpFinish_walk h ok
  | dumpAck _ _ => exact .next (State.put1_walk h _ _ _)
  | faultInject _ _ => exact .next (State.put1_walk h _ _ _)
  | bootGo _ _ _ => exact .next (State.putWords_walk h _ _ _ _)
  | challengeNew _ _ => exact .next (State.put1_walk h _ _ _)
  | digestRead => exact .next (State.rdDdata_walk (State.emit_walk h _))
  | registerWrite _ _ _ => exact .next (.ite (State.putWords_walk h _ _ _ _) (State.unsupported_walk h))
  | werrClear _ _ => exact .next (State.put1_walk h _ _ _)
  | dbgHalt _ _ => exact .next (State.put1_walk h _ _ _)
  | leStepGo _ _ => exact .next (State.put1_walk h _ _ _)
  | unsupportedAccess _ _ _ _ => exact .next (.ite h (State.unsupported_walk h))
  | latchingLowRead _ _ => exact .next (State.answerRead_walk h _ _)
  | coreRailReturn _ => exact .next (Walk.On.withPins h _)
  | rstNRelease => exact execRstNRelease_walk h
  | perstNDeassert => exact .next (Walk.On.withPins h _)
  | pcieLinkChange _ => exact .next (.ite (Walk.On.withHost h _) h)
  | pcieConfigWrite _ _ _ => exact .next (.ite (Walk.On.withHost h _) h)
  | pllLockLoss => exact .next (State.wr_walk (State.wr_walk h _ _) _ _)
  | debugTransportAccess acc => exact execDebugTransportAccess_walk h acc
  | reportSigned => exact execReportSigned_walk h
  | slotReadbackDone ok => exact execSlotReadbackDone_walk h ok

/-- What every operation keeps (`Keeps`), followed from a state. -/
def keepsWalk (s : State) : Walk where
  prop := Keeps s
  frame h hpending hregs hsec _ :=
    h.trans ⟨hpending, by rw [hsec], by rw [hsec], fun hok => by rwa [hregs], by rw [hsec]; exact OtpFwd.refl _⟩
  wr h f v := State.wr_keeps h f v
  filter h p := h.trans ⟨rfl, rfl, rfl, RegFile.ok_filter p, OtpFwd.refl _⟩
  sec h _ huid hgrade hotp := h.trans ⟨rfl, huid, hgrade, id, hotp⟩
  gangForm h c _ n _ := State.gangForm_keeps h c n
  dissolve h c := State.dissolve_keeps h c
  fullReset h k cause wake cut := State.fullReset_keeps h k cause wake cut

/-- Every command completes and keeps what every operation keeps. -/
theorem exec_completes (c : Instr) (s : State) : ∃ t, exec c s = .next t ∧ Keeps s t :=
  exec_walk (w := keepsWalk s) (Keeps.refl s) c

/-- A command that completes leaves a property that every operation keeps. -/
theorem Walk.On.exec {w : Walk} {s t : State} (h : w.On s) {c : Instr} (ht : Machine.exec c s = .next t) : w.On t := by
  obtain ⟨u, hu, k⟩ := exec_walk h c
  cases hu.symm.trans ht
  exact k

end Sys2Proof.Machine
end

section
open Sys2Proof Sys2Proof.Machine

/-- Settles O1: every command completes with what `Keeps` lists (`exec_completes`), the queue and the identity among it. -/
theorem everyCommandCompletes : Obligations.EveryCommandCompletes := by
  unfold Obligations.EveryCommandCompletes
  intro c s
  obtain ⟨t, ht, hk⟩ := exec_completes c s
  exact ⟨t, ht, hk.pending, hk.uid, hk.gradeM⟩

/-- A step keeps what every operation keeps, but that it takes the front command off the queue. -/
theorem step_keeps {s t : State} (h : step s = .next t) : ∃ q, Keeps { s with pending := q } t := by
  unfold step at h
  split at h
  · cases h
    exact ⟨s.pending, .refl _⟩
  · next c rest _ =>
    obtain ⟨u, hu, hk⟩ := exec_completes c { s with pending := rest }
    cases hu.symm.trans h
    exact ⟨rest, hk⟩

/-- Settles O3: the command keeps the canonical form (`Keeps.regs`), and the queue is no part of the register file. -/
theorem stepKeepsRegisterFile : Obligations.StepKeepsRegisterFile := by
  unfold Obligations.StepKeepsRegisterFile
  intro s t hs hstep
  obtain ⟨_, hk⟩ := step_keeps hstep
  exact hk.regs hs

/-- Settles O5: the command takes OTP only forward (`Keeps.otp`), and the queue is no part of OTP. -/
theorem otpOnlyMovesForward : Obligations.OtpOnlyMovesForward := by
  unfold Obligations.OtpOnlyMovesForward
  intro s t hs hstep
  obtain ⟨_, hk⟩ := step_keeps hstep
  exact hk.otp hs

/-- Settles O2: the two cases of `step`. -/
theorem stepRunsFrontCommand : Obligations.StepRunsFrontCommand := by
  unfold Obligations.StepRunsFrontCommand
  refine ⟨fun c rest s => rfl, fun s hs => ?_⟩
  unfold step
  rw [hs]

end

section
open Sys2Proof Sys2Proof.Machine

/-- Settles O4: the register file is empty, every channel stands alone in its gang, the queue is empty. -/
theorem resetMeetsInvariants : Obligations.ResetMeetsInvariants := by
  unfold Obligations.ResetMeetsInvariants
  refine ⟨rfl, fun c => ?_, rfl⟩
  have hlead : (State.reset.seq c).lead = none := by revert c; decide
  have hsize : (State.reset.seq c).size = 1 := by revert c; decide
  have hleader : State.reset.leader c = c := by
    unfold State.leader
    rw [hlead, Option.getD_none]
  have hmem : State.reset.members c = [c] := by
    unfold State.members
    rw [hsize, if_neg (by decide), if_neg (by decide)]
  rw [hleader, hmem, hsize]
  refine ⟨hlead, List.mem_singleton_self c, fun _ m hm => ?_, fun _ => rfl, .inl rfl, Nat.mod_one _⟩
  rw [List.mem_singleton.1 hm, hleader]

/-- Settles O7: the registers are read in the state after reset, channel by channel. -/
theorem resetReadsAsSpecified : Obligations.ResetReadsAsSpecified := by
  unfold Obligations.ResetReadsAsSpecified
  refine ⟨by decide, by decide, by decide, by decide, by decide, ?_, rfl, rfl, rfl⟩
  decide

end

namespace Sys2Proof.Machine

/-! ### A place outside every word -/

/-- A field at place 32 of the word at 0x1b, which no register has: its key is that of `SYS_RSTCAUSE.CAUSE`. -/
def strayFld : Fld := ⟨0x1b, 32, 8, .ro, 0, .none, 0, 255⟩

/-- A device that runs, with no register written. -/
def runningDev : State := { State.reset with sys := { SysS.reset with mode := .run, held := none } }

/-- After a power-on reset the stray field shows the cause that the reset wrote. -/
theorem strayFld_reads_cause : (runningDev.fullReset .por 1 0 false).rd strayFld = 1 := by decide +kernel

end Sys2Proof.Machine

section
open Sys2Proof Sys2Proof.Machine

/-- Refutes O9: the statement ranges over every field record. One at place 32 of the word below `SYS_RSTCAUSE` lies in no
excluded register and has the key of `SYS_RSTCAUSE.CAUSE`, so after a power-on reset it reads the cause 1, not its reset
value 0. -/
theorem not_resetKeepsSurvivingFields : ¬ Obligations.ResetKeepsSurvivingFields := by
  unfold Obligations.ResetKeepsSurvivingFields
  intro h
  have hrst : (runningDev.fullReset .por 1 0 false).rd strayFld = 0 :=
    h runningDev .por 1 0 false strayFld rfl nofun (by decide) (by decide) (by decide) nofun (by decide) nofun
  rw [strayFld_reads_cause] at hrst
  exact absurd hrst (by decide)

end


section
/-!
SUPPORT. Tools for the statements about single commands: what differs between two states as equations of parts, fields
that are left alone, and what a report of the collector (R673 to R678) leaves as it was.
-/

namespace Sys2Proof.Machine

/-! ### Parts and fields -/

/-- What `only` says, part by part. -/
theorem State.only_iff {s t : State} {ps : List Part} :
    s.only t ps ↔ t.pending = s.pending ∧ (.regs ∉ ps → t.regs = s.regs) ∧ (.written ∉ ps → t.written = s.written) ∧
      (.sys ∉ ps → t.sys = s.sys) ∧ (.pins ∉ ps → t.pins = s.pins) ∧ (.sec ∉ ps → t.sec = s.sec) ∧
      (.host ∉ ps → t.host = s.host) ∧ (.ring ∉ ps → t.ring = s.ring) ∧ (.flt ∉ ps → t.flt = s.flt) ∧
      (.cmp ∉ ps → t.cmp = s.cmp) ∧ (.saf ∉ ps → t.saf = s.saf) ∧ (.met ∉ ps → t.met = s.met) ∧
      (.mot ∉ ps → t.mot = s.mot) ∧ (.ch ∉ ps → t.ch = s.ch) ∧ (.qd ∉ ps → t.qd = s.qd) ∧
      (.free ∉ ps → t.free = s.free) ∧ (.out ∉ ps → t.out = s.out) := by
  constructor
  · exact fun h => ⟨h.1, h.2 .regs, h.2 .written, h.2 .sys, h.2 .pins, h.2 .sec, h.2 .host, h.2 .ring, h.2 .flt, h.2 .cmp,
      h.2 .saf, h.2 .met, h.2 .mot, h.2 .ch, h.2 .qd, h.2 .free, h.2 .out⟩
  · rintro ⟨hp, h1, h2, h3, h4, h5, h6, h7, h8, h9, h10, h11, h12, h13, h14, h15, h16⟩
    refine ⟨hp, fun p => ?_⟩
    cases p
    exacts [h1, h2, h3, h4, h5, h6, h7, h8, h9, h10, h11, h12, h13, h14, h15, h16]

/-- Fields are left alone where the register file is. -/
theorem State.regsBut_of_regs {s t : State} (h : t.regs = s.regs) (fs : List Fld) : s.regsBut t fs := fun g _ => by
  unfold State.rd
  rw [h]

/-- A write of a listed field. -/
theorem State.regsBut_wr {s t : State} {fs : List Fld} (h : s.regsBut t fs) {f : Fld} (hf : f ∈ fs) (v : Nat) :
    s.regsBut (t.wr f v) fs := fun g hg => (State.rd_wr_other t v (hg f hf)).trans (h g hg)

/-- One change after another. -/
theorem State.regsBut_trans {s t u : State} {fs : List Fld} (h : s.regsBut t fs) (k : t.regsBut u fs) : s.regsBut u fs :=
  fun g hg => (k g hg).trans (h g hg)

/-- More fields may differ. -/
theorem State.regsBut_mono {s t : State} {fs gs : List Fld} (h : s.regsBut t fs) (k : fs ⊆ gs) : s.regsBut t gs :=
  fun g hg => h g (fun f hf => hg f (k hf))

/-- A field that every role has, that the register file holds and that comes into force as it is written reads as it is
stored. -/
theorem State.look_eq_rd (s : State) (f : Fld) (hacc : f.acc ≠ .wo) (hhead : headOnly f.off = false)
    (hview : s.view f.off f.lo = none) (hwait : waits f = false) : s.look f = s.rd f := by
  unfold State.look State.rdNew
  rw [if_neg (by simp [hacc, hhead]), hview, hwait]
  rfl

/-! ### What a report leaves -/

/-- The page of a field: its offset in steps of 4 KiB. -/
def Fld.page (f : Fld) : Nat := f.key / 0x20000

/-- From `s` to `t` something has been reported: of the register file only fields of FLT and QD differ, of the host
interface the events and the causes of vectors, and the sources are the same. -/
structure Reported (s t : State) : Prop where
  only : s.only t [.regs, .flt, .host, .qd, .free, .out]
  regs : ∀ f : Fld, f.page ≠ 3 → f.page ≠ 9 → t.rd f = s.rd f
  host : t.host = { s.host with events := t.host.events, msix := t.host.msix }
  srcs : t.flt.srcs = s.flt.srcs

namespace Reported

theorem refl (s : State) : Reported s s := ⟨State.only_refl _ _, fun _ _ _ => rfl, rfl, rfl⟩

theorem trans {s t u : State} (h : Reported s t) (k : Reported t u) : Reported s u where
  only := State.only_trans h.only k.only
  regs f h3 h9 := (k.regs f h3 h9).trans (h.regs f h3 h9)
  host := by rw [k.host, h.host]
  srcs := k.srcs.trans h.srcs

theorem ite {s t u : State} {p : Prop} [Decidable p] (h : Reported s t) (k : Reported s u) :
    Reported s (if p then t else u) := by
  split
  · exact h
  · exact k

theorem foldl {α : Type} {f : State → α → State} {s t : State} (l : List α) (k : ∀ t a, Reported s t → Reported s (f t a))
    (h : Reported s t) : Reported s (l.foldl f t) := by
  induction l generalizing t with
  | nil => exact h
  | cons a l ih => exact ih (k t a h)

/-- A write of a field of FLT or QD. -/
theorem wr {s t : State} (h : Reported s t) (f : Fld) (v : Nat) (hf : f.page = 3 ∨ f.page = 9) : Reported s (t.wr f v) :=
  h.trans ⟨State.only_iff.2 (by simp), fun g h3 h9 => State.rd_wr_other t v (fun e => by
    have : f.page = g.page := by unfold Fld.page; rw [e]
    omega), rfl, rfl⟩

theorem withQd {s t : State} (h : Reported s t) (x : Vector QuadS 4) : Reported s { t with qd := x } :=
  h.trans ⟨State.only_iff.2 (by simp), fun _ _ _ => rfl, rfl, rfl⟩

theorem event {s t : State} (h : Reported s t) (a b c : Nat) : Reported s (t.event a b c) :=
  h.trans ⟨State.only_iff.2 (by simp), fun _ _ _ => State.event_rd _ _ _ _ _, by
    rw [State.event_host]; split <;> rfl, by simp⟩

theorem irq {s t : State} (h : Reported s t) (v : Fin 8) : Reported s (t.irq v) :=
  h.trans ⟨State.only_iff.2 (by simp [State.irq]), fun _ _ _ => rfl, rfl, rfl⟩

theorem emit {s t : State} (h : Reported s t) (o : Out) : Reported s (t.emit o) :=
  h.trans ⟨State.only_iff.2 (by simp [State.emit]), fun _ _ _ => rfl, rfl, rfl⟩

theorem errPull {s t : State} (h : Reported s t) : Reported s t.errPull := by
  unfold State.errPull
  refine .ite h (h.trans (.wr ?_ FLT_ERRN.LOW 1 (.inl (by decide))))
  exact ⟨State.only_iff.2 (by simp), fun _ _ _ => rfl, rfl, rfl⟩

/-- The fields of a trace that a trigger writes lie in QD. -/
theorem page_trace (q : Quad) : (QD_TRSTAT.TIDX q).page = 9 ∧ (QD_TRTICKL.TICK_LO q).page = 9 ∧
    (QD_TRTICKH.TICK_HI q).page = 9 ∧ (QD_TRSTAT.STATE q).page = 9 ∧ (QD_TRCTL.EN q).page = 9 := by
  revert q
  decide

theorem traceFire {s t : State} (h : Reported s t) (q : Quad) : Reported s (t.traceFire q) := by
  obtain ⟨htidx, hlo, hhi, hstate, -⟩ := page_trace q
  unfold State.traceFire
  exact .ite (.wr (.withQd (.wr (.wr (.wr h _ _ (.inr htidx)) _ _ (.inr hlo)) _ _ (.inr hhi)) _) _ _ (.inr hstate)) h

theorem traceTrig {s t : State} (h : Reported s t) (q : Quad) (n : Nat) : Reported s (t.traceTrig q n) := by
  unfold State.traceTrig
  exact .ite (.foldl _ (fun _ p k => .ite (k.traceFire p) k) (h.traceFire q)) h

theorem traceAll {s t : State} (h : Reported s t) (n : Nat) : Reported s (t.traceAll n) :=
  .foldl _ (fun _ q k => k.traceTrig q n) h

theorem traceStop {s t : State} (h : Reported s t) (q : Quad) : Reported s (t.traceStop q) := by
  obtain ⟨-, -, -, hstate, hen⟩ := page_trace q
  unfold State.traceStop
  exact .ite (.wr (.wr h _ _ (.inr hen)) _ _ (.inr hstate)) h

theorem faultTrig {s t : State} (h : Reported s t) (n : Src) (c : Ch) : Reported s (t.faultTrig n c) := by
  have hquad : Reported s (t.traceTrig (quadOf c) 6) := h.traceTrig _ 6
  unfold State.faultTrig
  exact .ite (h.traceAll 6) (.ite (.ite (hquad.traceTrig _ 3) (.ite (hquad.traceTrig _ 4) hquad)) h)

/-- The snapshot engine runs. -/
theorem withSnap {s t : State} (h : Reported s t) (x : Option Snap) (b : Bool) (n : Nat) :
    Reported s { t with flt := { t.flt with snap := x, copying := b }, free := n } :=
  h.trans ⟨State.only_iff.2 (by simp), fun _ _ _ => rfl, rfl, rfl⟩

theorem dumpTrigger {s t : State} (h : Reported s t) (trigger first : Nat) : Reported s (t.dumpTrigger trigger first) := by
  unfold State.dumpTrigger
  extract_lets snap traced
  refine .ite (.wr h FLT_DUMPSTAT.MISSED _ (.inl (by decide))) (.foldl _ (fun _ q k => k.traceStop q) ?_)
  exact (h.traceAll 8).withSnap _ _ _

end Reported

/-- The place of a raise is marked: its condition holds, it is active, recorded and counted (R674, R677). -/
def SrcS.raised (x : SrcS) (bit : BitVec 16) : SrcS :=
  { x with cond := x.cond ||| bit, act := x.act ||| bit, recd := true, cnt := satU 16 (x.cnt + 1) }

/-- A raise before its reaction acts: the source is marked, the raise reported and recorded, `ERR_N` pulled and the
traces and a dump triggered where the reaction says so (R673 to R678, R693). -/
def State.report (s : State) (n : Src) (c : Ch) : State :=
  let re := (s.src n).react
  let s := s.updSrc n (fun x => x.raised (actBit n c))
  let s := s.event (evSrc n c) 1 n.val
  let s := if bitN re 0 then (s.irq 4).emit (.seqIrq n.val) else s
  let s := if bitN re 1 ∧ srcOwner n.val < 3 then s.emit (.nmi (srcOwner n.val) n.val) else s
  let s :=
    if bitN re 2 || bitN re 3 || bitN re 4 || bitN re 5 then
      let s := (s.wr FLT_LREC0.SRC n.val).wr FLT_LREC0.CHAN (if isChanSrc n ∨ n.val = 16 then c.val else 0)
      let s := (s.wr FLT_LREC0.MODE s.sys.mode.code).wr FLT_LREC0.REACT re
      ((s.wr FLT_LREC0.VALID 1).wr FLT_LREC1.TICK_LO s.now).wr FLT_LREC2.TICK_HI (s.now / 2 ^ 32)
    else s
  let s :=
    if bitN re 4 then
      let s := s.errPull
      if s.rb FLT_FIRST.VALID then s else (s.wr FLT_FIRST.SRC n.val).wr FLT_FIRST.VALID 1
    else s
  let s := s.faultTrig n c
  let dump := (bitN re 3 && s.rb FLT_DUMPCTL.TRG_CHIP) || (decide (71 ≤ n.val ∧ n.val ≤ 80) && s.rb FLT_DUMPCTL.TRG_SAF)
  if dump then s.dumpTrigger (if bitN re 3 && s.rb FLT_DUMPCTL.TRG_CHIP then 2 else 3) n.val else s

/-- A raise has been reported once its source is marked. -/
theorem State.report_reported (s : State) (n : Src) (c : Ch) :
    Reported (s.updSrc n (fun x => x.raised (actBit n c))) (s.report n c) := by
  unfold State.report
  extract_lets re marked posted seqIrq nmi place code recorded pulled first traced dump
  have hposted : Reported marked posted := .event (.refl _) _ _ _
  have hseq : Reported marked seqIrq := .ite (.emit (.irq hposted _) _) hposted
  have hnmi : Reported marked nmi := .ite (.emit hseq _) hseq
  have hplace : Reported marked place :=
    .wr (.wr hnmi FLT_LREC0.SRC _ (.inl (by decide))) FLT_LREC0.CHAN _ (.inl (by decide))
  have hcode : Reported marked code :=
    .wr (.wr hplace FLT_LREC0.MODE _ (.inl (by decide))) FLT_LREC0.REACT _ (.inl (by decide))
  have hrecorded : Reported marked recorded :=
    .ite (.wr (.wr (.wr hcode FLT_LREC0.VALID _ (.inl (by decide))) FLT_LREC1.TICK_LO _ (.inl (by decide)))
      FLT_LREC2.TICK_HI _ (.inl (by decide))) hnmi
  have hpulled : Reported marked pulled := hrecorded.errPull
  have hfirst : Reported marked first :=
    .ite (.ite hpulled (.wr (.wr hpulled FLT_FIRST.SRC _ (.inl (by decide))) FLT_FIRST.VALID _ (.inl (by decide))))
      hrecorded
  have htraced : Reported marked traced := hfirst.faultTrig n c
  exact .ite (htraced.dumpTrigger _ _) htraced

/-- A reaction acts after the report: SAFE, then the reset that it names (R678, R679). -/
def State.react (s : State) (n : Src) (c : Ch) (re : Nat) (cause : SafeCause) : State :=
  let s := if bitN re 5 then s.safeReq cause (decide (n.val = 64 ∨ n.val = 71 ∨ n.val = 72)) else s
  if bitN re 3 then s.chipReset 5
  else if bitN re 2 then
    match srcBlock n with
    | 0 => s.resetQuad (quadOf c) n.val true
    | 1 => s.resetMot n.val true
    | _ => s.resetRing n.val true
  else s

/-- A raise of a source of the table that is not active in its place: the report, then the reaction. -/
theorem State.raiseAs_new (s : State) (n : Src) (c : Ch) (cause : SafeCause) (hlisted : srcListed n.val = true)
    (hnew : (s.src n).act &&& actBit n c = 0) :
    s.raiseAs n c cause = (s.report n c).react n c (s.src n).react cause := by
  have hmark : (s.updSrc n (fun x => { x with cond := x.cond ||| actBit n c })).updSrc n (fun x => { x with
      act := x.act ||| actBit n c, recd := true, cnt := satU 16 (x.cnt + 1) }) =
      s.updSrc n (fun x => x.raised (actBit n c)) := by
    unfold State.updSrc
    simp [bupd, SrcS.raised]
  unfold State.raiseAs
  extract_lets bit old atOnce holds marked posted react seqIrq nmi place code recorded pulled first traced dump dumped
    asked
  rw [if_neg (by simp [hlisted]), if_neg (by simpa [bit, old] using hnew)]
  have hreport : dumped = s.report n c := by
    unfold State.report
    rw [← hmark]
  unfold State.react
  rw [← hreport] <;> rfl

/-- A raise of a source that is active in its place already: the condition holds; where it had gone, a SAFE reaction asks
again. -/
theorem State.raiseAs_again (s : State) (n : Src) (c : Ch) (cause : SafeCause) (hlisted : srcListed n.val = true)
    (hact : (s.src n).act &&& actBit n c ≠ 0) :
    let holds := s.updSrc n (fun x => { x with cond := x.cond ||| actBit n c })
    s.raiseAs n c cause =
      if bitN (s.src n).react 5 && decide ((s.src n).cond &&& actBit n c = 0) then
        holds.safeReq cause (decide (n.val = 64 ∨ n.val = 71 ∨ n.val = 72))
      else holds := by
  unfold State.raiseAs
  extract_lets bit old atOnce holds
  rw [if_neg (by simp [hlisted])]
  exact if_pos hact

/-- A raise of a source outside the table: nothing but its condition. -/
theorem State.raiseAs_unlisted (s : State) (n : Src) (c : Ch) (cause : SafeCause) (hlisted : srcListed n.val = false) :
    s.raiseAs n c cause = s.updSrc n (fun x => { x with cond := x.cond ||| actBit n c }) := by
  unfold State.raiseAs
  extract_lets bit old atOnce holds
  rw [if_pos (by simp [hlisted])]

/-- A reaction without SAFE and without a reset does nothing beyond the report. -/
theorem State.react_none (s : State) (n : Src) (c : Ch) (re : Nat) (cause : SafeCause) (h2 : bitN re 2 = false)
    (h3 : bitN re 3 = false) (h5 : bitN re 5 = false) : s.react n c re cause = s := by
  unfold State.react
  simp [h2, h3, h5]

/-- A reaction without a reset. -/
theorem State.react_quiet (s : State) (n : Src) (c : Ch) (re : Nat) (cause : SafeCause) (h2 : bitN re 2 = false)
    (h3 : bitN re 3 = false) :
    s.react n c re cause =
      if bitN re 5 then s.safeReq cause (decide (n.val = 64 ∨ n.val = 71 ∨ n.val = 72)) else s := by
  unfold State.react
  simp [h2, h3]

end Sys2Proof.Machine
end


section
/-!
SUPPORT. What reactions leave as it was: `Reacted s t` holds of every way from `s` to `t` by faults that stop channels, by
safe-state requests and by raises whose reaction holds no reset (R153, R673 to R679, R81).
-/

namespace Sys2Proof.Machine

/-- The source shows at least what it showed, and its reaction is the same. -/
structure SrcS.Grown (x y : SrcS) : Prop where
  react : y.react = x.react
  act : ∀ i, x.act.getLsbD i = true → y.act.getLsbD i = true
  cond : ∀ i, x.cond.getLsbD i = true → y.cond.getLsbD i = true
  recd : x.recd = true → y.recd = true

theorem SrcS.Grown.refl (x : SrcS) : x.Grown x := ⟨rfl, fun _ => id, fun _ => id, id⟩

theorem SrcS.Grown.trans {x y z : SrcS} (h : x.Grown y) (k : y.Grown z) : x.Grown z :=
  ⟨k.react.trans h.react, fun i => k.act i ∘ h.act i, fun i => k.cond i ∘ h.cond i, k.recd ∘ h.recd⟩

/-- A channel after reactions: metrology and telemetry are the same and so is its gang; what is off and open stays so, and
of its stage only the gates, the switch, the hold-off and the pulse may differ. -/
structure Chan.Calmer (x y : Chan) : Prop where
  met : y.met = x.met
  tlm : y.tlm = x.tlm
  gates : x.stage.gates = false → y.stage.gates = false
  iso : x.stage.iso = .opened → y.stage.iso = .opened
  rest : y.stage = { x.stage with
    gates := y.stage.gates, iso := y.stage.iso, settle := y.stage.settle, pulse := y.stage.pulse }
  lead : y.seq.lead = x.seq.lead
  size : y.seq.size = x.seq.size

theorem Chan.Calmer.refl (x : Chan) : x.Calmer x := ⟨rfl, rfl, id, id, rfl, rfl, rfl⟩

theorem Chan.Calmer.trans {x y z : Chan} (h : x.Calmer y) (k : y.Calmer z) : x.Calmer z :=
  ⟨k.met.trans h.met, k.tlm.trans h.tlm, k.gates ∘ h.gates, k.iso ∘ h.iso, by rw [k.rest, h.rest],
    k.lead.trans h.lead, k.size.trans h.size⟩

/-- What is off and open stays off and open. -/
theorem Chan.Calmer.stage {x y : Chan} (h : x.Calmer y) (ho : x.stage.isOpen) : y.stage.isOpen :=
  ⟨h.gates ho.1, h.iso ho.2⟩

/-- A field that a reaction may write: of SAF, FLT, MOT and QD, and `MEAS_CLOSE` of the channels. -/
def Fld.reacts (f : Fld) : Bool :=
  decide (f.page = 3 ∨ f.page = 4 ∨ f.page = 6 ∨ f.page = 9) || allCh.any (fun c => decide (f.key = (CH_ISO.MEAS_CLOSE c).key))

/-- A shared slot is free for a completion, and no admin command runs (R446, R468). -/
def State.roomy (s : State) : Prop := s.sharedRoom = true ∧ s.host.adm = none

/-- From `s` to `t` only reactions have acted. -/
structure Reacted (s t : State) : Prop where
  only : s.only t [.regs, .sys, .host, .flt, .saf, .mot, .ch, .qd, .free, .out]
  sys : t.sys = { s.sys with trans := t.sys.trans }
  motor : s.mot.gatesOff = true → t.mot.gatesOff = true
  low : s.enablesLow → t.enablesLow
  chan : ∀ c : Ch, (s.chan c).Calmer (t.chan c)
  src : ∀ n : Src, (s.src n).Grown (t.src n)
  regs : ∀ f : Fld, f.reacts = false → t.rd f = s.rd f
  room : s.roomy → t.roomy

namespace Reacted

theorem refl (s : State) : Reacted s s :=
  ⟨State.only_refl _ _, rfl, id, id, fun _ => .refl _, fun _ => .refl _, fun _ _ => rfl, id⟩

theorem trans {s t u : State} (h : Reacted s t) (k : Reacted t u) : Reacted s u where
  only := State.only_trans h.only k.only
  sys := by rw [k.sys, h.sys]
  motor := k.motor ∘ h.motor
  low := k.low ∘ h.low
  chan c := (h.chan c).trans (k.chan c)
  src n := (h.src n).trans (k.src n)
  regs f hf := (k.regs f hf).trans (h.regs f hf)
  room := k.room ∘ h.room

theorem ite {s t u : State} {p : Prop} [Decidable p] (h : Reacted s t) (k : Reacted s u) :
    Reacted s (if p then t else u) := by
  split
  · exact h
  · exact k

theorem foldl {α : Type} {f : State → α → State} {s t : State} (l : List α) (k : ∀ t a, Reacted s t → Reacted s (f t a))
    (h : Reacted s t) : Reacted s (l.foldl f t) := by
  induction l generalizing t with
  | nil => exact h
  | cons a l ih => exact ih (k t a h)

/-- A report after reactions. -/
theorem reported {s t u : State} (h : Reacted s t) (k : Reported t u) : Reacted s u := by
  obtain ⟨hpend, -, -, hsys, -, -, -, -, -, -, hsaf, -, hmot, hch, -, -, -⟩ := State.only_iff.1 k.only
  have hchan (c : Ch) : u.chan c = t.chan c := by
    unfold State.chan
    rw [hch (by decide)]
  have hsrc (n : Src) : u.src n = t.src n := by
    unfold State.src
    rw [k.srcs]
  refine h.trans ⟨State.only_mono k.only (by decide), ?_, ?_, ?_, fun c => ?_, fun n => ?_, fun f hf => ?_, ?_⟩
  · rw [hsys (by decide)]
  · rw [hmot (by decide)]
    exact id
  · unfold State.enablesLow
    rw [hsaf (by decide)]
    exact id
  · rw [hchan]
    exact .refl _
  · rw [hsrc]
    exact .refl _
  · refine k.regs f (fun e => ?_) (fun e => ?_) <;> simp [Fld.reacts, e] at hf
  · unfold State.roomy State.sharedRoom State.sharedUse
    rw [k.host]
    exact id

/-- A write of a field that reactions write. -/
theorem wr {s t : State} (h : Reacted s t) (f : Fld) (v : Nat) (hf : f.reacts = true) : Reacted s (t.wr f v) :=
  h.trans ⟨State.only_iff.2 (by simp), rfl, id, id, fun _ => .refl _, fun _ => .refl _, fun g hg =>
    State.rd_wr_other t v (fun e => by
      have : f.reacts = g.reacts := by
        unfold Fld.reacts Fld.page
        rw [e]
      rw [hf, hg] at this
      cases this), id⟩

/-- A bit of a vector that reactions write. -/
theorem setFBit {s t : State} (h : Reacted s t) (f : Fld) (i : Nat) (hf : f.reacts = true) : Reacted s (t.setFBit f i) :=
  h.wr f _ hf

theorem withHost {s t : State} (h : Reacted s t) (x : HostS) (hroom : t.roomy → { t with host := x }.roomy) :
    Reacted s { t with host := x } :=
  h.trans ⟨State.only_iff.2 (by simp), rfl, id, id, fun _ => .refl _, fun _ => .refl _, fun _ _ => rfl, hroom⟩

theorem withTrans {s t : State} (h : Reacted s t) (x : Option Mode) : Reacted s { t with sys := { t.sys with trans := x } } :=
  h.trans ⟨State.only_iff.2 (by simp), rfl, id, id, fun _ => .refl _, fun _ => .refl _, fun _ _ => rfl, id⟩

theorem withSaf {s t : State} (h : Reacted s t) (x : SafS)
    (hlow : t.enablesLow → x.cen = false ∧ x.ien = false ∧ x.men = false) : Reacted s { t with saf := x } :=
  h.trans ⟨State.only_iff.2 (by simp), rfl, id, hlow, fun _ => .refl _, fun _ => .refl _, fun _ _ => rfl, id⟩

theorem withMot {s t : State} (h : Reacted s t) (x : MotS) (hoff : t.mot.gatesOff = true → x.gatesOff = true) :
    Reacted s { t with mot := x } :=
  h.trans ⟨State.only_iff.2 (by simp), rfl, hoff, id, fun _ => .refl _, fun _ => .refl _, fun _ _ => rfl, id⟩

theorem updCh {s t : State} (h : Reacted s t) (c : Ch) (f : Chan → Chan) (hf : ∀ x : Chan, x.Calmer (f x)) :
    Reacted s (t.updCh c f) := by
  refine h.trans ⟨State.only_iff.2 (by simp), rfl, id, id, fun d => ?_, fun _ => .refl _, fun _ _ => rfl, id⟩
  by_cases hd : c = d
  · subst hd
    rw [State.chan_updCh_same]
    exact hf _
  · rw [State.chan_updCh_other t f hd]
    exact .refl _

/-- A change of a stage that turns nothing on and closes nothing. -/
theorem updStage {s t : State} (h : Reacted s t) (c : Ch) (f : Stage → Stage)
    (hg : ∀ x : Stage, x.gates = false → (f x).gates = false) (ho : ∀ x : Stage, x.iso = .opened → (f x).iso = .opened)
    (hr : ∀ x : Stage, f x = { x with
      gates := (f x).gates, iso := (f x).iso, settle := (f x).settle, pulse := (f x).pulse }) :
    Reacted s (t.updStage c f) :=
  h.updCh c _ (fun x => ⟨rfl, rfl, hg _, ho _, hr _, rfl, rfl⟩)

theorem updLoop {s t : State} (h : Reacted s t) (c : Ch) (f : LoopS → LoopS) : Reacted s (t.updLoop c f) :=
  h.updCh c _ (fun _ => ⟨rfl, rfl, id, id, rfl, rfl, rfl⟩)

theorem updSeq {s t : State} (h : Reacted s t) (c : Ch) (f : ChanS → ChanS)
    (hf : ∀ x : ChanS, (f x).lead = x.lead ∧ (f x).size = x.size) : Reacted s (t.updSeq c f) :=
  h.updCh c _ (fun x => ⟨rfl, rfl, id, id, rfl, (hf x.seq).1, (hf x.seq).2⟩)

theorem ledger {s t : State} (h : Reacted s t) (c : Ch) (f : Ledger → Ledger) : Reacted s (t.ledger c f) := by
  refine h.updCh c _ (fun x => ?_)
  dsimp only [Chan.saveLedger]
  split <;> exact ⟨rfl, rfl, id, id, rfl, rfl, rfl⟩

/-- A change of a source that takes nothing back. -/
theorem updSrc {s t : State} (h : Reacted s t) (n : Src) (f : SrcS → SrcS) (hf : ∀ x : SrcS, x.Grown (f x)) :
    Reacted s (t.updSrc n f) := by
  refine h.trans ⟨State.only_mono (t.updSrc_only n f) (by decide), rfl, id, id, fun _ => .refl _, fun m => ?_,
    fun _ _ => rfl, id⟩
  by_cases hm : n = m
  · subst hm
    rw [State.src_updSrc_same]
    exact hf _
  · rw [State.src_updSrc_other t f hm]
    exact .refl _

/-! ### Channels and press -/

theorem gatesOff1 {s t : State} (h : Reacted s t) (c : Ch) : Reacted s (t.gatesOff1 c) := by
  unfold State.gatesOff1 State.openLoop
  have hgates : Reacted s (t.updStage c (fun x => { x with gates := false })) :=
    h.updStage c _ (fun _ _ => rfl) (fun _ => id) (fun _ => rfl)
  extract_lets on off opened
  have hopen : Reacted s opened := (hgates.updLoop c _).updSeq c _ (fun _ => ⟨rfl, rfl⟩)
  exact .ite (hopen.updLoop c _) hopen

theorem gatesOff {s t : State} (h : Reacted s t) (c : Ch) : Reacted s (t.gatesOff c) :=
  .foldl _ (fun _ d k => k.gatesOff1 d) h

theorem protOpen {s t : State} (h : Reacted s t) (c : Ch) : Reacted s (t.protOpen c) :=
  .foldl _ (fun _ d k => (k.gatesOff1 d).updStage d _ (fun _ => id) (fun _ _ => rfl) (fun _ => rfl)) h

theorem stagedOpen {s t : State} (h : Reacted s t) (c : Ch) : Reacted s (t.stagedOpen c) :=
  .foldl _ (fun _ d k => (k.gatesOff1 d).updStage d _ (fun _ => id) (fun _ hx => if_pos hx) (fun _ => rfl)) h

theorem enterHold {s t : State} (h : Reacted s t) (c : Ch) (why : Nat) : Reacted s (t.enterHold c why) := by
  unfold State.enterHold
  exact (h.stagedOpen c).updSeq c _ (fun _ => ⟨rfl, rfl⟩)

theorem failStep {s t : State} (h : Reacted s t) (c : Ch) (reason detail : Nat) : Reacted s (t.failStep c reason detail) := by
  unfold State.failStep
  extract_lets why
  split
  · exact .ite ((h.ledger c _).enterHold c why) h
  · refine .ite h (.ite (h.updSeq c _ (fun _ => ⟨rfl, rfl⟩)) ?_)
    exact (h.enterHold c why).updSeq c _ (fun _ => ⟨rfl, rfl⟩)

theorem motGatesOff {s t : State} (h : Reacted s t) : Reacted s t.motGatesOff :=
  (h.withMot _ (fun _ => rfl)).wr MOT_STAT.ASHORT 0 (by decide)

theorem motComplete {s t : State} (h : Reacted s t) (reason detail : Nat) : Reacted s (t.motComplete reason detail) := by
  unfold State.motComplete
  split
  · exact h
  · refine ((h.withHost _ ?_).withMot _ (by exact id)).withHost _ (by exact id)
    rintro ⟨hroom, hadm⟩
    refine ⟨?_, hadm⟩
    unfold State.sharedRoom State.sharedUse at hroom ⊢
    rw [← hroom]
    simp

theorem motTorqueOff {s t : State} (h : Reacted s t) : Reacted s t.motTorqueOff := by
  unfold State.motTorqueOff
  have hfree : Reacted s { t with mot := { t.mot with hold := .none } } := h.withMot _ id
  exact .ite (((h.motComplete _ _).wr MOT_STAT.STATE 5 (by decide)).motGatesOff)
    (.motGatesOff (.ite hfree (hfree.wr MOT_STAT.STATE 0 (by decide))))

/-! ### The safe-state request and the raise -/

theorem abandon {s t : State} (h : Reacted s t) (status : Nat) : Reacted s (t.abandon status) := by
  unfold State.abandon
  split
  next a m hadm htrans =>
    refine .ite (h.trans ⟨State.only_iff.2 (by simp), by simp, by simp, by simp [State.enablesLow], fun c => ?_,
      fun n => ?_, fun f _ => by simp [State.rd], fun hr => ?_⟩) h
    · rw [State.admDone_chan]
      exact .refl _
    · rw [State.admDone_src]
      exact .refl _
    · simp [State.roomy, hadm] at hr
  next => exact h

theorem kdrLow {s t : State} (h : Reacted s t) : Reacted s t.kdrLow := by
  unfold State.kdrLow
  exact .ite ((h.withSaf _ (by exact id)).wr SAF_KSTAT.STATE 3 (by decide)) (h.withSaf _ (by exact id))

theorem latchCause {s t : State} (h : Reacted s t) (x : SafeCause) : Reacted s (t.latchCause x) := by
  unfold State.latchCause
  extract_lets set latched saf void
  have hset : Reacted s set := (h.wr SAF_STAT.LATCH _ (by decide)).wr SAF_CAUSE.FIRST _ (by decide)
  have hlatched : Reacted s latched := by
    refine .ite h ?_
    split
    · exact hset.wr SAF_CAUSE.POS _ (by decide)
    · exact hset.wr SAF_CAUSE.POS _ (by decide)
  have hvoid : Reacted s void := hlatched.withSaf _ id
  cases x with
  | sf n => exact (hvoid.withSaf _ (by exact id)).setFBit SAF_CAUSEV.SF _ (by decide)
  | ringWdog r => cases r <;> exact hvoid.setFBit SAF_CAUSEV.OTHER _ (by decide)
  | _ => exact hvoid.setFBit SAF_CAUSEV.OTHER _ (by decide)

theorem safeChannels {s t : State} (h : Reacted s t) : Reacted s t.safeChannels := by
  have hmeas : ∀ c : Ch, (CH_ISO.MEAS_CLOSE c).reacts = true := by decide
  exact .foldl _ (fun _ c k => .wr (.protOpen (.ite (k.failStep c _ _) (k.failStep c _ _)) c) _ _ (hmeas c)) h

theorem latchLow {s t : State} (h : Reacted s t) (x : SafeCause) : Reacted s (t.latchLow x) :=
  (h.latchCause x).withSaf _ (fun _ => ⟨rfl, rfl, rfl⟩)

theorem goSafe {s t : State} (h : Reacted s t) (atOnce : Bool) : Reacted s (t.goSafe atOnce) := by
  unfold State.goSafe
  extract_lets traced errn sys going dumped saf
  have htraced : Reacted s traced := (h.abandon 4).safeChannels.motTorqueOff.reported (.traceAll (.refl _) 7)
  have herrn : Reacted s errn := htraced.reported (.errPull (.refl traced))
  have hsys : errn.sys = traced.sys := traced.errPull_sys
  clear_value errn
  have hgoing : Reacted s going := by
    unfold going sys
    rw [← hsys]
    exact herrn.withTrans _
  clear_value going
  have hdumped : Reacted s dumped := .ite (hgoing.reported (.dumpTrigger (.refl _) _ _)) hgoing
  exact .ite hdumped.kdrLow (.ite (hdumped.withSaf _ (by exact id)) hdumped)

end Reacted

/-- A safe-state request after step 3 of R97, and in BOOT, PARK and SAFE (R84, R99). -/
theorem State.safeReq_aside (s : State) (x : SafeCause) (atOnce : Bool) (h : ¬ s.driven) :
    s.safeReq x atOnce =
      if s.sys.parkDone then s.latchLow x
      else if atOnce then ((s.latchLow x).abandon 4).kdrLow else (s.latchLow x).abandon 4 := by
  have hsys : (s.latchLow x).sys = s.sys := (s.latchCause_spec x).2.1
  unfold State.safeReq
  extract_lets +onlyGivenNames latched saf low
  have hlow : low = s.latchLow x := rfl
  clear_value low
  subst hlow
  rw [hsys]
  unfold State.driven at h
  cases hpark : s.sys.parkDone with
  | true => rfl
  | false => cases hmode : s.sys.mode <;> first | rfl | simp [hpark, hmode] at h

/-- Safe-state requests in every mode. -/
theorem Reacted.safeReq {s t : State} (h : Reacted s t) (x : SafeCause) (atOnce : Bool) : Reacted s (t.safeReq x atOnce) := by
  have hlow := h.latchLow x
  by_cases hd : t.driven
  · rw [State.safeReq_driven t x atOnce hd]
    exact .ite (.ite hlow.kdrLow hlow) (hlow.goSafe atOnce)
  · rw [State.safeReq_aside t x atOnce hd]
    exact .ite hlow (.ite (hlow.abandon 4).kdrLow (hlow.abandon 4))

/-- The marks of a raise take nothing back. -/
theorem SrcS.grown_raised (x : SrcS) (bit : BitVec 16) : x.Grown (x.raised bit) :=
  ⟨rfl, fun i hi => by simp [SrcS.raised, hi], fun i hi => by simp [SrcS.raised, hi], fun _ => rfl⟩

/-- Nor does a condition that holds. -/
theorem SrcS.grown_cond (x : SrcS) (bit : BitVec 16) : x.Grown { x with cond := x.cond ||| bit } :=
  ⟨rfl, fun _ => id, fun i hi => by simp [hi], id⟩

/-- A raise whose reaction holds no reset. -/
theorem Reacted.raiseAs {s t : State} (h : Reacted s t) (n : Src) (c : Ch) (x : SafeCause) (hq : s.quiet n) :
    Reacted s (t.raiseAs n c x) := by
  have hreact : (t.src n).react = (s.src n).react := (h.src n).react
  have hmark : Reacted s (t.updSrc n (fun y => { y with cond := y.cond ||| actBit n c })) :=
    h.updSrc n _ (fun y => y.grown_cond _)
  by_cases hlisted : srcListed n.val = true
  · by_cases hact : (t.src n).act &&& actBit n c = 0
    · rw [State.raiseAs_new t n c x hlisted hact, hreact, State.react_quiet _ n c _ x hq.1 hq.2]
      have hreport : Reacted s (t.report n c) :=
        (h.updSrc n _ (fun y => y.grown_raised _)).reported (t.report_reported n c)
      exact .ite (hreport.safeReq x _) hreport
    · rw [State.raiseAs_again t n c x hlisted hact]
      exact .ite (hmark.safeReq x _) hmark
  · rw [State.raiseAs_unlisted t n c x (by simpa using hlisted)]
    exact hmark

/-- The report marks its source, and no other. -/
theorem State.report_src (s : State) (n : Src) (c : Ch) :
    (s.report n c).src n = (s.src n).raised (actBit n c) ∧ ∀ m, n ≠ m → (s.report n c).src m = s.src m := by
  have hsrcs := (s.report_reported n c).srcs
  refine ⟨?_, fun m hm => ?_⟩
  · unfold State.src
    rw [hsrcs]
    exact bget_bupd_same _ _ _
  · unfold State.src
    rw [hsrcs]
    exact bget_bupd_other _ _ hm

/-- What is left of a state by a report. -/
theorem State.report_only (s : State) (n : Src) (c : Ch) : s.only (s.report n c) [.regs, .flt, .host, .qd, .free, .out] :=
  State.only_trans (State.only_mono (s.updSrc_only n _) (by decide)) (s.report_reported n c).only

/-- A first raise with a reaction without reset and SAFE is its report. -/
theorem State.raise_calm (s : State) (n : Src) (c : Ch) (hlisted : srcListed n.val = true)
    (hnew : (s.src n).act &&& actBit n c = 0) (hq : s.quiet n) (h5 : bitN (s.src n).react 5 = false) :
    s.raise n c = s.report n c := by
  unfold State.raise
  rw [State.raiseAs_new s n c _ hlisted hnew, State.react_none _ n c _ _ hq.1 hq.2 h5]

/-- The source is active, and its condition holds, in the place of a raise; a first raise is recorded. -/
theorem State.raiseAs_act (s : State) (n : Src) (c : Ch) (x : SafeCause) (hq : s.quiet n)
    (hlisted : srcListed n.val = true) :
    (∀ i, (actBit n c).getLsbD i = true → ((s.raiseAs n c x).src n).cond.getLsbD i = true) ∧
      ((s.src n).act &&& actBit n c = 0 → (∀ i, (actBit n c).getLsbD i = true →
        ((s.raiseAs n c x).src n).act.getLsbD i = true) ∧ ((s.raiseAs n c x).src n).recd = true) := by
  by_cases hact : (s.src n).act &&& actBit n c = 0
  · have hreport := (s.report_src n c).1
    rw [State.raiseAs_new s n c x hlisted hact, State.react_quiet _ n c _ x hq.1 hq.2]
    have hlate : Reacted (s.report n c) (if bitN (s.src n).react 5 then
        (s.report n c).safeReq x (decide (n.val = 64 ∨ n.val = 71 ∨ n.val = 72)) else s.report n c) :=
      .ite (.safeReq (.refl _) x _) (.refl _)
    have hgrown := hlate.src n
    rw [hreport] at hgrown
    exact ⟨fun i hi => hgrown.cond i (by simp [SrcS.raised, hi]),
      fun _ => ⟨fun i hi => hgrown.act i (by simp [SrcS.raised, hi]), hgrown.recd rfl⟩⟩
  · refine ⟨fun i hi => ?_, fun h => absurd h hact⟩
    rw [State.raiseAs_again s n c x hlisted hact]
    let holds := s.updSrc n (fun y => { y with cond := y.cond ||| actBit n c })
    have hlate : Reacted holds (if bitN (s.src n).react 5 && decide ((s.src n).cond &&& actBit n c = 0) then
        holds.safeReq x (decide (n.val = 64 ∨ n.val = 71 ∨ n.val = 72)) else holds) :=
      .ite (.safeReq (.refl _) x _) (.refl _)
    refine (hlate.src n).cond i ?_
    unfold holds
    simp [hi]


end Sys2Proof.Machine
end


section
/-!
SUPPORT. What a tick's measurement (R302 to R308) and the resets (R107 to R119) leave as they were.
-/

namespace Sys2Proof.Machine

/-! ### Measuring -/

/-- The parts that the measurement of a tick writes. -/
def measParts : List Part := [.regs, .saf, .ch, .free]

theorem State.dqOf_only (s : State) (c : Ch) (bits : Int) (n : Nat) : s.only (s.dqOf c bits n).2 measParts := by
  unfold State.dqOf State.dqSar
  split
  · extract_lets m
    split
    · exact State.only_mk (State.only_refl _ _) (h_free := .inr (by decide))
    · exact State.only_refl _ _
  · exact State.only_refl _ _

theorem State.updCh_meas {s t : State} (h : s.only t measParts) (c : Ch) (f : Chan → Chan) :
    s.only (t.updCh c f) measParts := State.only_mk h (h_ch := .inr (by decide))

theorem State.wr_meas {s t : State} (h : s.only t measParts) (f : Fld) (v : Nat) : s.only (t.wr f v) measParts :=
  State.wr_only h f v (by decide)

theorem State.takeInt_meas {s t : State} (h : s.only t measParts) : s.only t.takeInt.2 measParts :=
  State.only_mk h (h_free := .inr (by decide))

theorem State.increments_meas {s t : State} (h : s.only t measParts) (c : Ch) (d v : Int) :
    s.only (t.increments c d v).1 measParts := State.updCh_meas h c _

theorem State.measure1_meas {s t : State} (h : s.only t measParts) (c : Ch) (i : ChTick) :
    s.only (t.measure1 c i).1 measParts := by
  have hd (bits : Int) (n : Nat) : s.only (t.dqOf c bits n).2 measParts := State.only_trans h (t.dqOf_only c bits n)
  unfold State.measure1
  refine State.only_ite (State.wr_meas ?_ _ _) ?_ <;>
    exact State.only_mk (State.updCh_meas (State.increments_meas (hd _ _) c _ _) c _) (h_saf := .inr (by decide))

theorem State.measureAll_meas {s t : State} (h : s.only t measParts) (f : State → Ch → State × Int)
    (hf : ∀ u c, s.only u measParts → s.only (f u c).1 measParts) : s.only (t.measureAll f).1 measParts := by
  have key (l : List Ch) : ∀ a : State × List Int, s.only a.1 measParts → s.only (l.foldl (fun (a : State × List Int) c =>
      let r := f a.1 c; (r.1, a.2 ++ [r.2])) a).1 measParts := by
    induction l with
    | nil => exact fun _ ha => ha
    | cons c l ih => exact fun a ha => ih _ (hf a.1 c ha)
  exact key allCh (t, []) h

theorem State.ledger_meas {s t : State} (h : s.only t measParts) (c : Ch) (f : Ledger → Ledger) :
    s.only (t.ledger c f) measParts := State.updCh_meas h c _

theorem State.countAs_meas {s t : State} (h : s.only t measParts) (c : Ch) (des : List Int) (f : Ledger → Ledger) :
    s.only (t.countAs c des f) measParts := by
  unfold State.countAs
  exact State.only_ite h (State.ledger_meas h c _)

theorem State.countTick_meas {s t : State} (h : s.only t measParts) (c : Ch) (des : List Int) :
    s.only (t.countTick c des) measParts := by
  unfold State.countTick
  exact State.countAs_meas (State.only_ite (State.wr_meas h _ _) h) c des _

theorem State.measureTick_meas {s t : State} (h : s.only t measParts) (ch : List ChTick) :
    s.only (t.measureTick ch) measParts := by
  unfold State.measureTick
  extract_lets z
  refine State.only_ite h ?_
  split
  next u des heq =>
  have hall : s.only (t.measureAll (fun s c => s.measure1 c (ch.getD c.val z))).1 measParts :=
    State.measureAll_meas h _ (fun _ c k => State.measure1_meas k c _)
  rw [heq] at hall
  exact State.forCh_only _ (fun _ c k => State.countTick_meas k c des) hall

theorem State.freeTick_meas {s t : State} (h : s.only t measParts) : s.only t.freeTick.2 measParts := by
  have key (l : List Ch) : ∀ a : List ChTick × State, s.only a.2 measParts →
      s.only (l.foldl (fun (a : List ChTick × State) _ =>
        let (b, s) := a.2.takeInt
        let (w, s) := s.takeInt
        let (v, s) := s.takeInt
        let m : Int := s.mClk
        (a.1 ++ [⟨clampI b (-m) m, clampI w (-m) m, v⟩], s)) a).2 measParts := by
    induction l with
    | nil => exact fun _ ha => ha
    | cons c l ih => exact fun a ha => ih _ (State.takeInt_meas (State.takeInt_meas (State.takeInt_meas ha)))
  exact key allCh ([], t) h

theorem State.partial1_meas {s t : State} (h : s.only t measParts) (c : Ch) (n : Nat) :
    s.only (t.partial1 c n).1 measParts := by
  have hd (bits : Int) (n : Nat) : s.only (t.takeInt.2.dqOf c bits n).2 measParts :=
    State.only_trans (State.takeInt_meas h) (t.takeInt.2.dqOf_only c bits n)
  unfold State.partial1
  exact State.increments_meas (State.updCh_meas (hd _ _) c _) c _ _

/-- The partial tick before a reset measures and closes entries. -/
theorem State.partialTick_meas (s : State) (cut : Bool) : s.only (s.partialTick cut) measParts := by
  unfold State.partialTick
  refine State.only_ite (State.only_refl _ _) ?_
  split
  next at_ t heq =>
  have ht : s.only t measParts := by
    cases heq
    exact State.only_mk (State.only_refl _ _) (h_free := .inr (by decide))
  extract_lets stop late
  split
  next full u hu =>
  have hfree : s.only u measParts := by
    have := State.freeTick_meas ht
    rwa [hu] at this
  extract_lets v n
  have hv : s.only v measParts := State.only_ite (State.measureTick_meas hfree full) hfree
  clear_value v
  split
  next w des hw =>
  have hall : s.only w measParts := by
    have := State.measureAll_meas hv (fun s c => s.partial1 c n) (fun _ c k => State.partial1_meas k c n)
    rwa [hw] at this
  exact State.forCh_only _ (fun _ c k => State.countAs_meas k c des _) hall

/-! ### Resets -/

/-- Written values come into force in the register file. -/
theorem State.commitIf_only (s : State) (p : Fld → Bool) : s.only (s.commitIf p) [.regs, .written] := by
  unfold State.commitIf
  exact State.only_foldl _ (fun _ e k => State.wr_only k _ _ (by decide))
    (State.only_mk (State.only_refl _ _) (h_written := .inr (by decide)))

theorem State.traceStop_only (s : State) (q : Quad) : s.only (s.traceStop q) [.regs] := by
  unfold State.traceStop
  exact State.only_ite (State.wr_only (State.wr_only (State.only_refl _ _) _ _ (by decide)) _ _ (by decide))
    (State.only_refl _ _)

/-- The end of an admin command stands in the host interface. -/
theorem State.admDone_only (s : State) (op : Nat) (a : AdmHdr) (x y : Nat) : s.only (s.admDone op a x y) [.host] :=
  State.only_iff.2 (by simp)

theorem State.abandon_only (s : State) (x : Nat) : s.only (s.abandon x) [.sys, .host] := by
  unfold State.abandon
  split
  · exact State.only_ite (State.only_trans (State.only_mk (State.only_refl _ _) (h_sys := .inr (by decide)))
      (State.only_mono (State.admDone_only _ _ _ _ _) (by decide))) (State.only_refl _ _)
  · exact State.only_refl _ _

theorem State.blockAbandon_only (s : State) : s.only s.blockAbandon [.sys, .host] := by
  unfold State.blockAbandon
  exact State.only_ite (State.only_refl _ _)
    (State.only_ite (State.only_mk (State.only_refl _ _) (h_sys := .inr (by decide))) (s.abandon_only 4))

theorem State.motComplete_only (s : State) (x y : Nat) : s.only (s.motComplete x y) [.host, .mot] := by
  unfold State.motComplete
  split
  · exact State.only_refl _ _
  · exact State.only_mk (State.only_mk (State.only_mk (State.only_refl _ _) (h_host := .inr (by decide)))
      (h_mot := .inr (by decide))) (h_host := .inr (by decide))

theorem State.protOpen_only (s : State) (c : Ch) : s.only (s.protOpen c) [.ch] :=
  State.forCh_only _ (fun _ d k => State.updCh_only (State.gatesOff1_only k d) d _) (State.only_refl _ _)

theorem State.motGatesOff_only (s : State) : s.only s.motGatesOff [.mot, .regs] :=
  State.wr_only (State.only_mk (State.only_refl _ _) (h_mot := .inr (by decide))) _ _ (by decide)

/-- Every gate of the device is off and every `ISOn` open. -/
def State.allOff (s : State) : Prop := (∀ c : Ch, (s.chan c).stage.isOpen) ∧ s.mot.gatesOff = true

/-- Outputs and pins stand in the channels, the press and the pins. -/
theorem State.allOff_of_only {s t : State} (h : s.allOff) (ho : s.only t [.regs, .written, .sys, .sec, .host, .ring, .flt,
    .cmp, .saf, .met, .qd, .free, .out]) : t.allOff ∧ t.pins = s.pins := by
  have hch : t.ch = s.ch := ho.2 .ch (by decide)
  have hmot : t.mot = s.mot := ho.2 .mot (by decide)
  refine ⟨?_, ho.2 .pins (by decide)⟩
  simpa only [State.allOff, State.chan, hch, hmot] using h

/-- A full reset, carried out: outputs off, the device in BOOT with its internal reset held and no transition, and the
cause can be read. -/
structure ResetDone (s t : State) (k : RstKind) (cause : Nat) : Prop where
  off : t.outputsOff
  sys : t.sys = { SysS.reset with held := some k, tick := t.sys.tick, clk := s.sys.clk, cyc := s.sys.cyc }
  cause : t.look SYS_RSTCAUSE.CAUSE = cause % 256
  pins : t.pins = s.pins
  host : t.host = HostS.reset
  ring : t.ring = RingS.reset
  ch : ∃ v, t.ch = bmap (Chan.afterReset k) v

/-- What a full reset does where none stands above it. -/
theorem State.fullReset_done (s : State) (k : RstKind) (cause wake : Nat) (cut : Bool)
    (hheld : ∀ h, s.sys.held = some h → h.rank ≤ k.rank) (hwarm : k = .warm → s.flt.chipDue = none) :
    ResetDone s (s.fullReset k cause wake cut) k cause := by
  unfold State.fullReset
  extract_lets old stopped running closed boots r0 sys0 sec0 flt0 fltK saf0 met0 mot0 qd0 base locks cals t1 t2 t3 t4
  have hgo : ¬ ((s.sys.held.isSome = true ∧ k.rank < old) ∨ k = .warm ∧ s.flt.chipDue.isSome = true) := by
    rintro (⟨hs, hlt⟩ | ⟨hk, hs⟩)
    · obtain ⟨h, hh⟩ := Option.isSome_iff_exists.1 hs
      have hold : old = h.rank := by
        unfold old
        rw [hh]
      exact absurd (hheld h hh) (by omega)
    · simp [hwarm hk] at hs
  rw [if_neg hgo]
  have hstopped : s.only stopped [.regs, .written] :=
    State.only_trans (State.only_mono (State.only_foldl allQuads (fun t q h => State.only_trans h (t.traceStop_only q))
      (State.only_refl _ _)) (by decide)) (State.commitIf_only _ _)
  have hclosed : s.only closed [.regs, .written, .saf, .ch, .free] :=
    State.only_ite (State.only_trans (State.only_mono hstopped (by decide))
      (State.only_mono (stopped.partialTick_meas cut) (by decide))) (State.only_mono hstopped (by decide))
  have hch : base.ch = bmap (Chan.afterReset k) closed.ch := rfl
  have hmot : base.mot.gatesOff = true := by
    show (if k = .warm then _ else MotS.reset).gatesOff = true
    split <;> rfl
  have hkdr : base.saf.kdr = false := rfl
  have hsys : base.sys = { SysS.reset with held := some k, tick := base.sys.tick, clk := s.sys.clk, cyc := s.sys.cyc } := by
    have hclk : base.sys.clk = closed.sys.clk := rfl
    have hcyc : base.sys.cyc = closed.sys.cyc := rfl
    rw [hclosed.2 .sys (by decide)] at hclk hcyc
    rw [← hclk, ← hcyc]
  have hpins : base.pins = s.pins := hclosed.2 .pins (by decide)
  have hhost : base.host = HostS.reset := rfl
  have hring : base.ring = RingS.reset := rfl
  clear_value base
  have hoff : base.outputsOff := ⟨fun c => by simp [State.chan, hch, Chan.afterReset_stage, Stage.reset], hmot, hkdr⟩
  have hlocks : base.only locks [.regs, .flt, .met] := by
    unfold locks
    exact State.only_ite (State.only_refl _ _) (State.only_mono (State.updSrc_only _ _ _) (by decide))
  have hcals : locks.only cals [.regs, .flt, .met] := by
    unfold cals
    refine State.only_ite (State.only_foldl _ (fun t n h => ?_) (State.only_refl _ _)) (State.only_refl _ _)
    exact State.only_trans h (State.only_mono (State.takeCal_only t n) (by decide))
  obtain ⟨hrec, hcause⟩ := State.resetRecord_spec cals cause wake (if k = .por then 0 else boots) (k = .pin)
  have hall := State.only_trans (State.only_trans hlocks hcals) (State.only_mono hrec (by decide))
  have hsame := hall.2 .sys (by decide)
  refine ⟨State.outputsOff_of_only hoff hall, ?_, (State.look_cause _).trans hcause,
    (hall.2 .pins (by decide)).trans hpins, (hall.2 .host (by decide)).trans hhost,
    (hall.2 .ring (by decide)).trans hring, _, (hall.2 .ch (by decide)).trans hch⟩
  exact (hsame.trans hsys).trans (by rw [hsame])

/-- A full reset is carried out, or one above it stands. -/
theorem State.fullReset_cases (s : State) (k : RstKind) (cause wake : Nat) (cut : Bool) :
    s.fullReset k cause wake cut = s ∨ ResetDone s (s.fullReset k cause wake cut) k cause := by
  by_cases hgo : (∀ h, s.sys.held = some h → h.rank ≤ k.rank) ∧ (k = .warm → s.flt.chipDue = none)
  · exact .inr (s.fullReset_done k cause wake cut hgo.1 hgo.2)
  · left
    unfold State.fullReset
    refine if_pos ?_
    cases hheld : s.sys.held with
    | none => exact .inr (by simpa [hheld, Option.isSome_iff_ne_none] using hgo)
    | some r =>
      by_cases hr : r.rank ≤ k.rank
      · exact .inr (by simpa [hheld, hr, Option.isSome_iff_ne_none] using hgo)
      · exact .inl ⟨rfl, not_le.1 hr⟩

/-- A full reset that finds everything off leaves everything off. -/
theorem State.fullReset_allOff {s : State} (h : s.allOff) (k : RstKind) (cause wake : Nat) (cut : Bool) :
    (s.fullReset k cause wake cut).allOff ∧ (s.fullReset k cause wake cut).pins = s.pins := by
  rcases s.fullReset_cases k cause wake cut with hsame | ⟨⟨hstage, hmot, -⟩, -, -, hpins, -, -⟩
  · rw [hsame]
    exact ⟨h, rfl⟩
  · exact ⟨⟨hstage, hmot⟩, hpins⟩

/-- Reactions leave everything off that is off, and the pins. -/
theorem Reacted.allOff {s t : State} (h : Reacted s t) (hs : s.allOff) : t.allOff ∧ t.pins = s.pins :=
  ⟨⟨fun c => (h.chan c).stage (hs.1 c), h.motor hs.2⟩, h.only.2 .pins (by decide)⟩

/-- A CHIP reset that finds everything off leaves everything off. -/
theorem State.chipReset_allOff {s : State} (h : s.allOff) (cause : Nat) :
    (s.chipReset cause).allOff ∧ (s.chipReset cause).pins = s.pins := by
  unfold State.chipReset
  split
  · extract_lets abandoned opened off saf low flt
    obtain ⟨ha, hp⟩ := State.allOff_of_only h (State.only_mono s.blockAbandon_only (by decide))
    have hoff : Reacted abandoned off :=
      .motGatesOff (.foldl _ (fun _ c k => k.protOpen c) (.refl _))
    obtain ⟨ho, hq⟩ := hoff.allOff ha
    clear_value off
    have hlow : off.only low [.saf] := State.only_mk (State.only_refl _ _) (h_saf := .inr (by decide))
    obtain ⟨hl, hr⟩ := State.allOff_of_only ho (State.only_mono hlow (by decide))
    clear_value low
    obtain ⟨hd, he⟩ := State.allOff_of_only hl (t := { low with flt := _ })
      (State.only_mk (State.only_refl _ _) (h_flt := .inr (by decide)))
    exact ⟨hd, he.trans (hr.trans (hq.trans hp))⟩
  · exact State.fullReset_allOff h _ _ _ _

/-- A BLOCK reset of MOT turns its gates off and leaves the channels. -/
theorem State.resetMot_spec (s : State) (src : Nat) (byFault : Bool) :
    (s.resetMot src byFault).ch = s.ch ∧ (s.resetMot src byFault).mot.gatesOff = true ∧
      (s.resetMot src byFault).pins = s.pins := by
  unfold State.resetMot
  extract_lets abandoned completed m mot filtered five
  have hcompleted : s.only completed [.sys, .host, .mot] :=
    State.only_trans (State.only_mono s.blockAbandon_only (by decide))
      (State.only_trans (State.only_mono (State.event_only _ _ _ _) (by decide))
        (State.only_mono (State.motComplete_only _ _ _) (by decide)))
  have hch : five.ch = s.ch := hcompleted.2 .ch (by decide)
  have hpins : five.pins = s.pins := hcompleted.2 .pins (by decide)
  have hoff : five.mot.gatesOff = true := rfl
  clear_value five
  split
  · exact ⟨hch, hoff, hpins⟩
  · exact ⟨hch, hoff, hpins⟩

/-- A BLOCK reset of MOT leaves off what is off. -/
theorem State.resetMot_allOff {s : State} (h : s.allOff) (src : Nat) (byFault : Bool) :
    (s.resetMot src byFault).allOff ∧ (s.resetMot src byFault).pins = s.pins := by
  obtain ⟨hch, hoff, hpins⟩ := s.resetMot_spec src byFault
  refine ⟨⟨fun c => ?_, hoff⟩, hpins⟩
  unfold State.chan
  rw [hch]
  exact h.1 c

end Sys2Proof.Machine
end


section
/-! SUPPORT. Supplies and pins (R103 to R128): what is off before a raise stays off, and under-voltage of `VDRV`. -/

namespace Sys2Proof.Machine

/-- A raise whose BLOCK reset is that of MOT leaves everything off that is off, whatever its reaction. -/
theorem State.raiseAs_allOff {s : State} (h : s.allOff) (n : Src) (c : Ch) (x : SafeCause)
    (hlisted : srcListed n.val = true) (hmot : srcBlock n = 1) :
    (s.raiseAs n c x).allOff ∧ (s.raiseAs n c x).pins = s.pins := by
  by_cases hact : (s.src n).act &&& actBit n c = 0
  · rw [State.raiseAs_new s n c x hlisted hact]
    have hreport : Reacted s (s.report n c) :=
      (Reacted.updSrc (.refl s) n _ (fun y => y.grown_raised _)).reported (s.report_reported n c)
    unfold State.react
    extract_lets asked
    have hasked : Reacted s asked := .ite (hreport.safeReq x _) hreport
    obtain ⟨ho, hp⟩ := hasked.allOff h
    clear_value asked
    rw [hmot]
    split
    · obtain ⟨hr, hq⟩ := State.chipReset_allOff ho 5
      exact ⟨hr, hq.trans hp⟩
    · split
      · obtain ⟨hr, hq⟩ := State.resetMot_allOff ho n.val true
        exact ⟨hr, hq.trans hp⟩
      · exact ⟨ho, hp⟩
  · rw [State.raiseAs_again s n c x hlisted hact]
    have hholds : Reacted s (s.updSrc n (fun y => { y with cond := y.cond ||| actBit n c })) :=
      .updSrc (.refl s) n _ (fun y => y.grown_cond _)
    exact Reacted.allOff (.ite (hholds.safeReq x _) hholds) h

/-- Every channel that opens its gang opens itself. -/
theorem State.forCh_protOpen_opens {s : State} (hg : ∀ a : Ch, a ∈ s.gang a) (c : Ch) :
    ((s.forCh allCh State.protOpen).chan c).stage.isOpen :=
  State.forCh_opens (.refl s) allCh (fun t a => State.protOpen_noRelease (.refl t) a)
    (fun t a ht => t.protOpen_opens (ht.gang_eq a ▸ hg a)) (List.mem_finRange c)

/-- The gates of the motor go off and nothing of the channels changes. -/
theorem State.motGatesOff_spec (s : State) : s.motGatesOff.mot.gatesOff = true ∧ s.motGatesOff.ch = s.ch ∧
    s.motGatesOff.pins = s.pins := ⟨rfl, rfl, rfl⟩

/-- `VDRV` lies below its threshold. -/
def State.vdrvGone (s : State) : State := { s with pins := { s.pins with vdrv := false } }

/-- While `VDRV` lies below its threshold, before the source is raised: nothing but outputs has changed. -/
def State.vdrvLow (s : State) : State := (s.vdrvGone.forCh allCh State.protOpen).motGatesOff

theorem State.vdrvLow_allOff {s : State} (hg : s.gangsOk) : s.vdrvLow.allOff := by
  obtain ⟨hoff, hch, -⟩ := (s.vdrvGone.forCh allCh State.protOpen).motGatesOff_spec
  refine ⟨fun c => ?_, hoff⟩
  have hopen := State.forCh_protOpen_opens (s := s.vdrvGone) (fun a => (hg a).2.1) c
  unfold State.vdrvLow State.chan
  rw [hch]
  exact hopen

theorem State.forCh_protOpen_only (s : State) (l : List Ch) : s.only (s.forCh l State.protOpen) [.ch] :=
  State.forCh_only _ (fun _ c k => State.only_trans k (State.protOpen_only _ c)) (State.only_refl _ _)

theorem State.vdrvLow_only (s : State) : s.vdrvGone.only s.vdrvLow [.ch, .mot, .regs] :=
  State.only_trans (State.only_mono (s.vdrvGone.forCh_protOpen_only allCh) (by decide))
    (State.only_mono (State.motGatesOff_only _) (by decide))

/-- Comparator 71 trips (R123, R691). -/
def State.trip71 (s : State) : State :=
  s.updCmp 71 (fun x => { x with raw := true, filt := true, lat := x.lat || !x.filt })

/-- `VDRV` falls below its threshold: everything is off whatever the reaction of source 38. -/
theorem State.vdrvTrip_off {s : State} (hg : s.gangsOk) :
    s.trip71.vdrvTrip.allOff ∧ s.trip71.vdrvTrip.pins.vdrv = false := by
  have hoff : s.trip71.vdrvLow.allOff := State.vdrvLow_allOff (s := s.trip71) hg
  obtain ⟨ho, hp⟩ := State.raiseAs_allOff hoff 38 0 (srcCause 38) (by decide) (by decide)
  exact ⟨ho, (congrArg Pins.vdrv hp).trans (congrArg Pins.vdrv (s.trip71.vdrvLow_only.2 .pins (by decide)))⟩

/-- With a reaction without reset and SAFE the source is active and recorded, and the device stays in its mode. -/
theorem State.vdrvTrip_calm {s : State} (hact : (s.src 38).act = 0) (h2 : bitN (s.src 38).react 2 = false)
    (h3 : bitN (s.src 38).react 3 = false) (h5 : bitN (s.src 38).react 5 = false) :
    s.trip71.vdrvTrip.active 38 = true ∧ (s.trip71.vdrvTrip.src 38).recd = true ∧
      s.trip71.vdrvTrip.cmp = s.trip71.cmp ∧ s.trip71.vdrvTrip.sys = s.sys := by
  have hlow := s.trip71.vdrvLow_only
  have hsrc : s.trip71.vdrvLow.src 38 = s.src 38 := by
    unfold State.src
    rw [hlow.2 .flt (by decide)]
    unfold State.vdrvGone State.trip71 State.updCmp
    dsimp only
  have hraise : s.trip71.vdrvTrip = s.trip71.vdrvLow.report 38 0 :=
    State.raise_calm s.trip71.vdrvLow 38 0 (by decide) (by rw [hsrc, hact]; simp) (by unfold State.quiet; rw [hsrc]; exact ⟨h2, h3⟩)
      (by rw [hsrc]; exact h5)
  have hmarked := (s.trip71.vdrvLow.report_src 38 0).1
  have hleft := s.trip71.vdrvLow.report_only 38 0
  rw [hsrc] at hmarked
  have hcmp : s.trip71.vdrvLow.cmp = s.trip71.cmp := hlow.2 .cmp (by decide)
  have hsys : s.trip71.vdrvLow.sys = s.sys := hlow.2 .sys (by decide)
  rw [hraise]
  generalize s.trip71.vdrvLow = low at *
  refine ⟨?_, ?_, (hleft.2 .cmp (by decide)).trans hcmp, (hleft.2 .sys (by decide)).trans hsys⟩
  · unfold State.active
    rw [hmarked]
    simp [SrcS.raised, show actBit 38 0 = 1 from by decide]
  · rw [hmarked]
    rfl

end Sys2Proof.Machine
end

section
open Sys2Proof Sys2Proof.Machine

/-- `VIN` passes `VIN_ON` (R120, R125). -/
theorem vinOn_starts (s : State) : s.ends .vinOn (fun t => t.pins.vin = true ∧ s.only t [.pins, .regs] ∧
    (if s.pins.vin = true then t = s
      else t.look FLT_ERRN.LOW = 1 ∧ t.look RING_STAT.BYPA = 1 ∧ t.look RING_STAT.BYPB = 1 ∧
        s.regsBut t [FLT_ERRN.LOW, RING_STAT.BYPA, RING_STAT.BYPB])) := by
  refine ⟨_, rfl, ?_⟩
  by_cases hv : s.pins.vin = true
  · simp only [if_pos hv]
    exact ⟨hv, State.only_refl _ _, trivial⟩
  · simp only [if_neg hv]
    let t1 : State := { s with pins := { s.pins with vin := true } }
    have h1 : s.regsBut t1 [FLT_ERRN.LOW, RING_STAT.BYPA, RING_STAT.BYPB] := State.regsBut_of_regs rfl _
    refine ⟨rfl, State.only_iff.2 (by simp), ?_, ?_, ?_, State.regsBut_wr (State.regsBut_wr (State.regsBut_wr h1 ?_ 1) ?_ 1) ?_ 1⟩
    · rw [State.look_eq_rd _ _ (by decide) (by decide) rfl (by decide), State.rd_wr_other _ _ (by decide),
        State.rd_wr_other _ _ (by decide), State.rd_wr_same]
      rfl
    · rw [State.look_eq_rd _ _ (by decide) (by decide) rfl (by decide), State.rd_wr_other _ _ (by decide),
        State.rd_wr_same]
      rfl
    · rw [State.look_eq_rd _ _ (by decide) (by decide) rfl (by decide), State.rd_wr_same]
      rfl
    all_goals simp

/-- The PLL loses lock (R757). -/
theorem pllLockLoss_shows (s : State) : s.ends .pllLockLoss (fun t => t.look SYS_CLK.LOCK = 0 ∧
    t.look SYS_CLKERR.LOCK_LOSS = 1 ∧ s.only t [.regs] ∧ s.regsBut t [SYS_CLK.LOCK, SYS_CLKERR.LOCK_LOSS]) := by
  refine ⟨_, rfl, ?_, ?_, State.only_iff.2 (by simp), ?_⟩
  · rw [State.look_eq_rd _ _ (by decide) (by decide) rfl (by decide), State.rd_wr_other _ _ (by decide), State.rd_wr_same]
    rfl
  · rw [State.look_eq_rd _ _ (by decide) (by decide) rfl (by decide), State.rd_wr_same]
    rfl
  · exact State.regsBut_wr (State.regsBut_wr (State.regsBut_of_regs rfl _) (by simp) 0) (by simp) 1

/-- Settles O10: the pins and supplies by what each event writes, the end of PARK as a full reset that nothing holds back
(`State.fullReset_done`), and under-voltage of `VDRV` by what is off before its source is raised
(`State.vdrvTrip_off`). -/
theorem supplyAndPinEvents : Obligations.SupplyAndPinEvents := by
  unfold Obligations.SupplyAndPinEvents
  refine ⟨fun s => ⟨vinOn_starts s, fun r => ⟨_, rfl, ?_, fun q hq => ?_, State.only_iff.2 (by simp)⟩,
    ⟨_, rfl, rfl, State.only_iff.2 (by simp)⟩, fun hpark => ?_, pllLockLoss_shows s⟩, fun s hpark hrst hwake => ?_,
    fun s hg => ⟨fun hf => ?_, fun hf hact h2 h3 h5 => ?_, fun hf => ?_⟩⟩
  · simp
  · simp [hq]
  · have hstay : ({ s with pins := { s.pins with rstN := true } } : State).parked = false := hpark
    refine ⟨_, congrArg Host.Outcome.next (if_neg ?_), rfl, State.only_iff.2 (by simp)⟩
    simp [hstay]
  · have hpark' : ({ s with pins := { s.pins with rstN := true } } : State).parked = true := hpark
    have hheld : s.sys.held = none := by
      unfold State.parked at hpark
      simp at hpark
      exact hpark.2
    have hwake' : ({ s with pins := { s.pins with rstN := true } } : State).rb SYS_PARK.WAKE_RST = true := hwake
    refine ⟨_, congrArg Host.Outcome.next (if_pos ?_), ?_⟩
    · simp [hpark', hrst, hwake']
    · obtain ⟨-, hsys, hcause, -, -, -⟩ := State.fullReset_done { s with pins := { s.pins with rstN := true } } .pin 2 0
        false (fun h hh => by simp [hheld] at hh) (fun h => by cases h)
      refine ⟨?_, hcause, ?_⟩
      · rw [hsys]
      · rw [hsys]
        rfl
  · obtain ⟨⟨hstage, hmot⟩, hpin⟩ := State.vdrvTrip_off (s := s) hg
    exact ⟨_, congrArg Host.Outcome.next (if_neg (by simp [hf])), hstage, hmot, hpin⟩
  · obtain ⟨ha, hr, hcmp, hsys⟩ := State.vdrvTrip_calm hact h2 h3 h5
    refine ⟨_, congrArg Host.Outcome.next (if_neg (by simp [hf])), ha, hr, ?_, hsys⟩
    show (bget s.trip71.vdrvTrip.cmp 71).lat = true
    rw [hcmp]
    show (bget (bupd s.cmp 71 _) 71).lat = true
    rw [bget_bupd_same]
    simp [show (bget s.cmp 71).filt = false from hf]
  · refine ⟨_, congrArg Host.Outcome.next (if_pos hf), ?_, State.only_iff.2 (by simp [State.updCmp])⟩
    show (bget (bupd s.cmp 71 _) 71).filt = true
    rw [bget_bupd_same]

end


section
/-!
SUPPORT. A free shared slot stays free (R468, R469): `RoomKept s t` holds of every way from `s` to `t` that posts no
completion of an admin command and no notice in the shared slots, followed operation by operation.
-/

namespace Sys2Proof.Machine

/-- Where a shared slot was free and no admin command ran, it is so still. -/
def RoomKept (s t : State) : Prop := s.roomy → t.roomy

namespace RoomKept

theorem refl (s : State) : RoomKept s s := id

theorem trans {s t u : State} (h : RoomKept s t) (k : RoomKept t u) : RoomKept s u := k ∘ h

theorem ite {s t u : State} {p : Prop} [Decidable p] (h : RoomKept s t) (k : RoomKept s u) :
    RoomKept s (if p then t else u) := by
  split
  · exact h
  · exact k

theorem foldl {α : Type} {f : State → α → State} {s t : State} (l : List α) (k : ∀ t a, RoomKept s t → RoomKept s (f t a))
    (h : RoomKept s t) : RoomKept s (l.foldl f t) := by
  induction l generalizing t with
  | nil => exact h
  | cons a l ih => exact ih (k t a h)

theorem of_pair {α : Type} {s t : State} {x : α} {p : State × α} (h : RoomKept s p.1) (e : p = (t, x)) : RoomKept s t := by
  rw [e] at h
  exact h

theorem of_pair_snd {α : Type} {s t : State} {x : α} {p : α × State} (h : RoomKept s p.2) (e : p = (x, t)) :
    RoomKept s t := by
  rw [e] at h
  exact h

/-- Completions, waiting notices and the running command are the same. -/
theorem of_host {s t u : State} (h : RoomKept s t)
    (hu : u.host.cbuf = t.host.cbuf ∧ u.host.owed = t.host.owed ∧ u.host.adm = t.host.adm) : RoomKept s u := by
  obtain ⟨hcbuf, howed, hadm⟩ := hu
  refine h.trans ?_
  unfold RoomKept State.roomy State.sharedRoom State.sharedUse
  rw [hcbuf, howed, hadm]
  exact id

/-- Nothing of the host interface differs. -/
theorem of_only {s t u : State} (h : RoomKept s t) {ps : List Part} (ho : t.only u ps) (hp : .host ∉ ps) : RoomKept s u :=
  h.of_host (by rw [ho.2 .host hp]; exact ⟨rfl, rfl, rfl⟩)

section
variable {s t : State} (h : RoomKept s t)
include h

theorem withHost (x : HostS) (hx : x.cbuf = t.host.cbuf ∧ x.owed = t.host.owed ∧ x.adm = t.host.adm := by
    exact ⟨rfl, rfl, rfl⟩) : RoomKept s { t with host := x } := h.of_host hx
theorem withRegs (x : RegFile) : RoomKept s { t with regs := x } := h.of_host ⟨rfl, rfl, rfl⟩
theorem withWritten (x : RegFile) : RoomKept s { t with written := x } := h.of_host ⟨rfl, rfl, rfl⟩
theorem withSys (x : SysS) : RoomKept s { t with sys := x } := h.of_host ⟨rfl, rfl, rfl⟩
theorem withSec (x : SecS) : RoomKept s { t with sec := x } := h.of_host ⟨rfl, rfl, rfl⟩
theorem withRing (x : RingS) : RoomKept s { t with ring := x } := h.of_host ⟨rfl, rfl, rfl⟩
theorem withFlt (x : FltS) : RoomKept s { t with flt := x } := h.of_host ⟨rfl, rfl, rfl⟩
theorem withSaf (x : SafS) : RoomKept s { t with saf := x } := h.of_host ⟨rfl, rfl, rfl⟩
theorem withMot (x : MotS) : RoomKept s { t with mot := x } := h.of_host ⟨rfl, rfl, rfl⟩

end

end RoomKept

section
variable {s₀ s : State} (h : RoomKept s₀ s)
include h

theorem State.wr_room (f : Fld) (v : Nat) : RoomKept s₀ (s.wr f v) := h.of_host ⟨rfl, rfl, rfl⟩
theorem State.wb_room (f : Fld) (v : Bool) : RoomKept s₀ (s.wb f v) := h.of_host ⟨rfl, rfl, rfl⟩
theorem State.wrS_room (f : Fld) (v : Int) : RoomKept s₀ (s.wrS f v) := h.of_host ⟨rfl, rfl, rfl⟩
theorem State.incSat_room (f : Fld) : RoomKept s₀ (s.incSat f) := h.of_host ⟨rfl, rfl, rfl⟩
theorem State.updCh_room (c : Ch) (f : Chan → Chan) : RoomKept s₀ (s.updCh c f) := h.of_host ⟨rfl, rfl, rfl⟩
theorem State.updStage_room (c : Ch) (f : Stage → Stage) : RoomKept s₀ (s.updStage c f) := h.of_host ⟨rfl, rfl, rfl⟩
theorem State.updLoop_room (c : Ch) (f : LoopS → LoopS) : RoomKept s₀ (s.updLoop c f) := h.of_host ⟨rfl, rfl, rfl⟩
theorem State.updMet_room (c : Ch) (f : ChMet → ChMet) : RoomKept s₀ (s.updMet c f) := h.of_host ⟨rfl, rfl, rfl⟩
theorem State.updSeq_room (c : Ch) (f : ChanS → ChanS) : RoomKept s₀ (s.updSeq c f) := h.of_host ⟨rfl, rfl, rfl⟩
theorem State.updQd_room (q : Quad) (f : QuadS → QuadS) : RoomKept s₀ (s.updQd q f) := h.of_host ⟨rfl, rfl, rfl⟩
theorem State.updQ_room (q : QId) (f : SubQ → SubQ) : RoomKept s₀ (s.updQ q f) := h.of_host ⟨rfl, rfl, rfl⟩
theorem State.updSrc_room (n : Src) (f : SrcS → SrcS) : RoomKept s₀ (s.updSrc n f) := h.of_host ⟨rfl, rfl, rfl⟩
theorem State.updCmp_room (i : CmpId) (f : CmpS → CmpS) : RoomKept s₀ (s.updCmp i f) := h.of_host ⟨rfl, rfl, rfl⟩
theorem State.emit_room (o : Out) : RoomKept s₀ (s.emit o) := h.of_host ⟨rfl, rfl, rfl⟩
theorem State.takeNat_room : RoomKept s₀ s.takeNat.2 := h.of_host ⟨rfl, rfl, rfl⟩
theorem State.takeInt_room : RoomKept s₀ s.takeInt.2 := h.of_host ⟨rfl, rfl, rfl⟩
theorem State.event_room (a b c : Nat) : RoomKept s₀ (s.event a b c) :=
  h.of_host (by rw [State.event_host]; split <;> exact ⟨rfl, rfl, rfl⟩)
theorem State.admDrop_room : RoomKept s₀ s.admDrop := h.of_host ⟨rfl, rfl, rfl⟩
theorem State.traceTrig_room (q : Quad) (n : Nat) : RoomKept s₀ (s.traceTrig q n) :=
  h.of_host (by rw [(Reported.traceTrig (.refl s) q n).host]; exact ⟨rfl, rfl, rfl⟩)
theorem State.traceStop_room (q : Quad) : RoomKept s₀ (s.traceStop q) := h.of_only (s.traceStop_only q) (by decide)
theorem State.errPull_room : RoomKept s₀ s.errPull :=
  h.of_host (by rw [(Reported.errPull (.refl s)).host]; exact ⟨rfl, rfl, rfl⟩)
theorem State.dumpTrigger_room (x y : Nat) : RoomKept s₀ (s.dumpTrigger x y) :=
  h.of_host (by rw [(Reported.dumpTrigger (.refl s) x y).host]; exact ⟨rfl, rfl, rfl⟩)
theorem State.kdrLow_room : RoomKept s₀ s.kdrLow := h.trans (Reacted.kdrLow (.refl s)).room
theorem State.gatesOff_room (c : Ch) : RoomKept s₀ (s.gatesOff c) := h.trans (Reacted.gatesOff (.refl s) c).room
theorem State.protOpen_room (c : Ch) : RoomKept s₀ (s.protOpen c) := h.of_only (s.protOpen_only c) (by decide)
theorem State.stagedOpen_room (c : Ch) : RoomKept s₀ (s.stagedOpen c) := h.trans (Reacted.stagedOpen (.refl s) c).room
theorem State.motGatesOff_room : RoomKept s₀ s.motGatesOff := h.of_only s.motGatesOff_only (by decide)
theorem State.failStep_room (c : Ch) (x y : Nat) : RoomKept s₀ (s.failStep c x y) :=
  h.trans (Reacted.failStep (.refl s) c x y).room
theorem State.safeReq_room (x : SafeCause) (b : Bool) : RoomKept s₀ (s.safeReq x b) :=
  h.trans (Reacted.safeReq (.refl s) x b).room
theorem State.commitIf_room (p : Fld → Bool) : RoomKept s₀ (s.commitIf p) := h.of_only (s.commitIf_only p) (by decide)
theorem State.abandon_room (x : Nat) : RoomKept s₀ (s.abandon x) := h.trans (Reacted.abandon (.refl s) x).room

end

/-! ### Resets -/

/-- The host interface is empty after a full reset. -/
theorem State.fullReset_room {s₀ s : State} (h : RoomKept s₀ s) (k : RstKind) (cause wake : Nat) (cut : Bool) :
    RoomKept s₀ (s.fullReset k cause wake cut) := by
  refine h.trans (fun hroom => ?_)
  rcases s.fullReset_cases k cause wake cut with hsame | hdone
  · rwa [hsame]
  · unfold State.roomy State.sharedRoom State.sharedUse
    rw [hdone.host]
    decide

theorem State.blockAbandon_room {s₀ s : State} (h : RoomKept s₀ s) : RoomKept s₀ s.blockAbandon := by
  unfold State.blockAbandon
  exact .ite h (.ite (h.withSys _) (State.abandon_room h 4))

theorem State.chipReset_room {s₀ s : State} (h : RoomKept s₀ s) (cause : Nat) : RoomKept s₀ (s.chipReset cause) := by
  unfold State.chipReset
  extract_lets abandoned opened off saf low flt
  have hoff : RoomKept s₀ off :=
    State.motGatesOff_room (.foldl _ (fun _ c k => State.protOpen_room k c) (State.blockAbandon_room h))
  exact .ite ((hoff.withSaf _).withFlt _) (State.fullReset_room h _ _ _ _)

theorem State.resetMot_room {s₀ s : State} (h : RoomKept s₀ s) (src : Nat) (byFault : Bool) :
    RoomKept s₀ (s.resetMot src byFault) := by
  have hcompleted : RoomKept s₀ ((s.blockAbandon.blockEvent 4 src byFault).motComplete rINT 0) :=
    (State.event_room (State.blockAbandon_room h) _ _ _).trans (Reacted.motComplete (.refl _) _ _).room
  refine hcompleted.of_host ?_
  unfold State.resetMot
  extract_lets abandoned completed m mot filtered five
  split <;> exact ⟨rfl, rfl, rfl⟩

theorem State.resetRing_room {s₀ s : State} (h : RoomKept s₀ s) (src : Nat) (byFault : Bool) :
    RoomKept s₀ (s.resetRing src byFault) := by
  unfold State.resetRing
  extract_lets +onlyGivenNames s1
  have hs1 : RoomKept s₀ s1 := State.event_room (State.blockAbandon_room h) _ _ _
  extract_lets +onlyGivenNames r
  extract_lets +onlyGivenNames _ s2
  have hs2 : RoomKept s₀ s2 := RoomKept.withRing hs1 _
  extract_lets +onlyGivenNames _ s3
  have hs3 : RoomKept s₀ s3 := .ite hs2 (RoomKept.withHost hs2 _)
  exact RoomKept.withRegs hs3 _

/-- A load of a profile that a BLOCK reset drops completes only where its command runs. -/
theorem State.admDone_room {s₀ s : State} (h : RoomKept s₀ s) (op : Nat) (a b : AdmHdr) (x y z : Nat) :
    RoomKept s₀ (if s.host.adm = some ⟨op, a, x⟩ then s.admDone op b y z else s) := by
  split
  next hadm => exact h.trans (fun hroom => by simp [State.roomy, hadm] at hroom)
  next => exact h

theorem State.resetQuad_room {s₀ s : State} (h : RoomKept s₀ s) (q : Quad) (src : Nat) (byFault : Bool) :
    RoomKept s₀ (s.resetQuad q src byFault) := by
  unfold State.resetQuad
  extract_lets +onlyGivenNames s1
  have hs1 : RoomKept s₀ s1 := State.event_room (State.blockAbandon_room h) _ _ _
  clear_value s1
  extract_lets +onlyGivenNames s2
  have hs2 : RoomKept s₀ s2 := State.traceStop_room hs1 _
  clear_value s2
  extract_lets +onlyGivenNames _ _ s3
  have hs3 : RoomKept s₀ s3 := RoomKept.foldl _ (fun _ _ h2 => State.updQ_room (RoomKept.withHost (State.updCh_room
    (State.protOpen_room (State.failStep_room h2 _ _ _) _) _ _) _) _ _) hs2
  clear_value s3
  extract_lets +onlyGivenNames s4
  have hs4 : RoomKept s₀ s4 := RoomKept.withRegs hs3 _
  clear_value s4
  extract_lets +onlyGivenNames load s5
  have hs5 : RoomKept s₀ s5 := State.updQd_room hs4 _ _
  clear_value s5
  clear_value load
  rcases load with _ | ⟨_ | _⟩
  · exact hs5
  · next adm =>
    cases adm with
    | none => exact hs5
    | some a => exact State.admDone_room hs5 _ _ _ _ _ _
  · exact hs5

/-- A raise takes no shared slot, whatever its reaction. -/
theorem State.raiseAs_room {s₀ s : State} (h : RoomKept s₀ s) (n : Src) (c : Ch) (x : SafeCause) :
    RoomKept s₀ (s.raiseAs n c x) := by
  have hholds : RoomKept s₀ (s.updSrc n (fun y => { y with cond := y.cond ||| actBit n c })) := State.updSrc_room h _ _
  by_cases hlisted : srcListed n.val = true
  · by_cases hact : (s.src n).act &&& actBit n c = 0
    · rw [State.raiseAs_new s n c x hlisted hact]
      have hreport : RoomKept s₀ (s.report n c) :=
        (State.updSrc_room h n _).of_host (by rw [(s.report_reported n c).host]; exact ⟨rfl, rfl, rfl⟩)
      unfold State.react
      extract_lets asked
      have hasked : RoomKept s₀ asked := .ite (State.safeReq_room hreport _ _) hreport
      refine .ite (State.chipReset_room hasked 5) (.ite ?_ hasked)
      split
      · exact State.resetQuad_room hasked _ _ _
      · exact State.resetMot_room hasked _ _
      · exact State.resetRing_room hasked _ _
    · rw [State.raiseAs_again s n c x hlisted hact]
      exact .ite (State.safeReq_room hholds _ _) hholds
  · rw [State.raiseAs_unlisted s n c x (by simpa using hlisted)]
    exact hholds

/-! ### What a write of a register does -/

theorem State.writeErr_room {s₀ s : State} (h : RoomKept s₀ s) (path : Path) (off : Nat) (code : Nat) : RoomKept s₀
    (s.writeErr path off code) := by
  unfold State.writeErr
  exact State.incSat_room (State.wr_room (State.wr_room (State.wr_room h _ _) _ _) _ _) _

theorem State.wrLate_room {s₀ s : State} (h : RoomKept s₀ s) (f : Fld) (v : Nat) : RoomKept s₀ (s.wrLate f v) := by
  unfold State.wrLate
  extract_lets +onlyGivenNames c
  exact .ite (RoomKept.withWritten h _) (.ite (State.wr_room (RoomKept.withWritten h _) _ _) (State.wr_room h _ _))

theorem State.putField_room {s₀ s : State} (h : RoomKept s₀ s) (val : Word) (f : Fld) : RoomKept s₀ (s.putField val
    f) := by
  unfold State.putField
  extract_lets +onlyGivenNames v
  refine .ite h ?_
  split
  · exact State.wrLate_room h _ _
  · exact State.wrLate_room h _ _
  · exact State.wrLate_room h _ _
  · exact State.wr_room h _ _
  · exact h
  · exact h

theorem State.cmpRestart_room {s₀ s : State} (h : RoomKept s₀ s) (i : CmpId) : RoomKept s₀ (s.cmpRestart i) := by
  unfold State.cmpRestart
  exact .ite h (State.updCmp_room h _ _)

theorem State.startPulse_room {s₀ s : State} (h : RoomKept s₀ s) (c : Ch) (why : KelWhy) : RoomKept s₀ (s.startPulse
    c why) := by
  unfold State.startPulse
  exact State.updMet_room (State.updStage_room h _ _) _ _

theorem State.requestClose_room {s₀ s : State} (h : RoomKept s₀ s) (c : Ch) : RoomKept s₀ (s.requestClose c) := by
  unfold State.requestClose
  extract_lets +onlyGivenNames l iso ms
  exact .ite (.ite (State.startPulse_room (RoomKept.foldl _ (fun _ _ h2 => State.updStage_room h2 _ _) h) _ _) h)
      (.ite (State.stagedOpen_room h _) h)

theorem State.fxMeasClose_room {s₀ s : State} (h : RoomKept s₀ s) (c : Ch) : RoomKept s₀ (s.fxMeasClose c) := by
  unfold State.fxMeasClose
  refine .ite h ?_
  refine .ite (State.requestClose_room h _) ?_
  split
  · exact h
  · exact h
  · exact State.protOpen_room h _
  · exact State.stagedOpen_room h _

theorem State.fxKelTest_room {s₀ s : State} (h : RoomKept s₀ s) (c : Ch) : RoomKept s₀ (s.fxKelTest c) := by
  unfold State.fxKelTest
  extract_lets +onlyGivenNames l
  exact .ite (.ite h (State.startPulse_room h _ _)) h

theorem State.ledger_room {s₀ s : State} (h : RoomKept s₀ s) (c : Ch) (f : Ledger → Ledger) : RoomKept s₀ (s.ledger c
    f) := by
  unfold State.ledger
  exact State.updCh_room h _ _

theorem State.fxLedger_room {s₀ s : State} (h : RoomKept s₀ s) (c : Ch) (snap : Bool) (clear : Bool) : RoomKept s₀
    (s.fxLedger c snap clear) := by
  unfold State.fxLedger
  extract_lets +onlyGivenNames s1
  have hs1 : RoomKept s₀ s1 := .ite (State.updMet_room h _ _) h
  exact .ite (State.ledger_room hs1 _ _) hs1

theorem State.stage_room {s₀ s : State} (h : RoomKept s₀ s) (q : Quad) (p : Prof) : RoomKept s₀ (s.stage q p) := by
  unfold State.stage
  extract_lets +onlyGivenNames s1
  have hs1 : RoomKept s₀ s1 := State.wr_room (State.wr_room (State.wr_room h _ _) _ _) _ _
  extract_lets +onlyGivenNames s2
  have hs2 : RoomKept s₀ s2 := State.wr_room (State.wb_room hs1 _ _) _ _
  extract_lets +onlyGivenNames s3
  have hs3 : RoomKept s₀ s3 := State.wr_room (State.wr_room hs2 _ _) _ _
  extract_lets +onlyGivenNames s4
  have hs4 : RoomKept s₀ s4 := State.wr_room (State.wr_room hs3 _ _) _ _
  exact RoomKept.foldl _ (fun _ _ h2 => State.wrS_room h2 _ _) hs4

theorem State.fxPcmd_room {s₀ s : State} (h : RoomKept s₀ s) (q : Quad) (cmd : Nat) (slot : Nat) : RoomKept s₀
    (s.fxPcmd q cmd slot) := by
  unfold State.fxPcmd
  extract_lets +onlyGivenNames k x
  refine .ite h ?_
  split
  · extract_lets +onlyGivenNames p
    exact State.wr_room (State.updQd_room h _ _) _ _
  · refine .ite (State.wr_room (State.updQd_room h _ _) _ _) ?_
    refine .ite ?_ h
    split
    · exact State.wr_room (State.stage_room h _ _) _ _
    · exact State.wr_room h _ _

theorem State.fxTrctl_room {s₀ s : State} (h : RoomKept s₀ s) (q : Quad) (en : Bool) (sw : Bool) : RoomKept s₀
    (s.fxTrctl q en sw) := by
  unfold State.fxTrctl
  extract_lets +onlyGivenNames s1
  have hs1 : RoomKept s₀ s1 := .ite (State.wr_room h _ _) (.ite (State.wr_room h _ _) h)
  exact .ite (State.traceTrig_room hs1 _ _) hs1

theorem State.writeFx3_room {s₀ s : State} (h : RoomKept s₀ s) (old : State) (off : Nat) (val : Word) : RoomKept s₀
    (s.writeFx3 old off val) := by
  unfold State.writeFx3
  split
  · extract_lets +onlyGivenNames c o
    exact .ite (State.cmpRestart_room h _) (.ite (State.cmpRestart_room h _) (.ite (State.cmpRestart_room h _) (.ite
        (State.fxMeasClose_room h _) (.ite (.ite (State.fxKelTest_room h _) h) (.ite (.ite (State.updMet_room h _ _)
        h) (.ite (State.fxLedger_room h _ _ _) h))))))
  · refine .ite ?_ h
    extract_lets +onlyGivenNames q o
    exact .ite (State.fxPcmd_room h _ _ _) (.ite (State.fxTrctl_room h _ _ _) h)

theorem State.clearRec_room {s₀ s : State} (h : RoomKept s₀ s) (m : Nat) (val : Word) : RoomKept s₀ (s.clearRec m
    val) := by
  unfold State.clearRec
  exact RoomKept.foldl _ (fun _ _ h2 => .ite (State.updSrc_room h2 _ _) h2) h

theorem State.setReact_room {s₀ s : State} (h : RoomKept s₀ s) (r : Nat) : RoomKept s₀ (s.setReact r) := by
  unfold State.setReact
  extract_lets +onlyGivenNames s1
  have hs1 : RoomKept s₀ s1 := State.updSrc_room h _ _
  exact .ite (State.errPull_room hs1) hs1

theorem State.raise_room {s₀ s : State} (h : RoomKept s₀ s) (n : Src) (c : Ch) : RoomKept s₀ (s.raise n c) := by
  unfold State.raise
  exact State.raiseAs_room h _ _ _

theorem State.chRaise_room {s₀ s : State} (h : RoomKept s₀ s) (n : Src) (c : Ch) : RoomKept s₀ (s.chRaise n c) := by
  unfold State.chRaise
  extract_lets +onlyGivenNames s1
  have hs1 : RoomKept s₀ s1 := by
    unfold s1
    split
    · exact State.wr_room h _ _
    · exact h
  exact State.raise_room hs1 _ _

theorem State.kelFail_room {s₀ s : State} (h : RoomKept s₀ s) (c : Ch) : RoomKept s₀ (s.kelFail c) := by
  unfold State.kelFail
  exact State.chRaise_room (State.wr_room h _ _) _ _

theorem State.enterHold_room {s₀ s : State} (h : RoomKept s₀ s) (c : Ch) (why : Nat) : RoomKept s₀ (s.enterHold c
    why) := by
  unfold State.enterHold
  extract_lets +onlyGivenNames s1
  have hs1 : RoomKept s₀ s1 := State.stagedOpen_room h _
  exact State.updSeq_room hs1 _ _

/-- A completion of a channel or of MOT takes no shared slot (R468). -/
theorem State.complete_room {s₀ s : State} (h : RoomKept s₀ s) (o : Owner) (v : Fin 8) (recs : List (List Word))
    (ho : o ≠ .shared) : RoomKept s₀ (s.complete o v recs) := by
  refine h.trans ?_
  rintro ⟨hroom, hadm⟩
  refine ⟨?_, hadm⟩
  unfold State.sharedRoom State.sharedUse at hroom ⊢
  rw [← hroom]
  simp [State.complete, ho]

theorem State.retireTo_room {s₀ s : State} (h : RoomKept s₀ s) (q : QId) (cnt : Nat) : RoomKept s₀ (s.retireTo q cnt)
    := by
  unfold State.retireTo
  exact State.updQ_room h _ _

theorem State.postStep_room {s₀ s : State} (h : RoomKept s₀ s) (c : Ch) (r : Run)
    (reason action next detail : Nat) : RoomKept s₀ (s.postStep c r reason action next detail) := by
  unfold State.postStep
  exact State.updQ_room (State.complete_room h _ _ _ (by simp)) _ _

theorem State.contactLost_room {s₀ s : State} (h : RoomKept s₀ s) (c : Ch) : RoomKept s₀ (s.contactLost c) := by
  unfold State.contactLost
  extract_lets +onlyGivenNames s1
  have hs1 : RoomKept s₀ s1 := State.updMet_room h _ _
  split
  · exact .ite (State.enterHold_room (State.ledger_room hs1 _ _) _ _) hs1
  · refine .ite hs1 ?_
    refine .ite (State.updSeq_room hs1 _ _) ?_
    extract_lets +onlyGivenNames s2
    have hs2 : RoomKept s₀ s2 := State.ledger_room hs1 _ _
    extract_lets +onlyGivenNames s3
    have hs3 : RoomKept s₀ s3 := State.postStep_room hs2 _ _ _ _ _ _
    exact State.enterHold_room hs3 _ _

theorem State.raiseDev_room {s₀ s : State} (h : RoomKept s₀ s) (n : Src) : RoomKept s₀ (s.raiseDev n) := by
  unfold State.raiseDev
  exact State.raise_room h _ _

theorem State.raiseBusSc_room {s₀ s : State} (h : RoomKept s₀ s) : RoomKept s₀ (s.raiseBusSc) := by
  unfold State.raiseBusSc
  extract_lets +onlyGivenNames s1
  have hs1 : RoomKept s₀ s1 := RoomKept.foldl _ (fun _ _ h2 => State.wr_room (State.protOpen_room h2 _) _ _) h
  exact State.raiseDev_room hs1 _

theorem State.demandUp_room {s₀ s : State} (h : RoomKept s₀ s) (n : Fin 7) : RoomKept s₀ (s.demandUp n) := by
  unfold State.demandUp
  exact State.raiseDev_room h _

theorem State.faultStop_room {s₀ s : State} (h : RoomKept s₀ s) (n : Src) (c : Ch) (opens : Bool) : RoomKept s₀
    (s.faultStop n c opens) := by
  unfold State.faultStop
  extract_lets +onlyGivenNames l winds s1
  have hs1 : RoomKept s₀ s1 := State.failStep_room h _ _ _
  extract_lets +onlyGivenNames s2
  have hs2 : RoomKept s₀ s2 := .ite (State.protOpen_room hs1 _) (.ite (State.stagedOpen_room hs1 _)
      (State.gatesOff_room hs1 _))
  exact State.chRaise_room hs2 _ _

theorem State.motRaise_room {s₀ s : State} (h : RoomKept s₀ s) (n : Src) : RoomKept s₀ (s.motRaise n) := by
  unfold State.motRaise
  exact State.raiseDev_room (by
    split
    · exact State.wr_room h _ _
    · exact h) _

theorem State.motComplete_room {s₀ s : State} (h : RoomKept s₀ s) (reason detail : Nat) :
    RoomKept s₀ (s.motComplete reason detail) := by
  unfold State.motComplete
  split
  · exact h
  · exact State.updQ_room (RoomKept.withMot (State.complete_room h _ _ _ (by simp)) _) _ _

theorem State.motNoTorque_room {s₀ s : State} (h : RoomKept s₀ s) : RoomKept s₀ (s.motNoTorque) := by
  unfold State.motNoTorque
  extract_lets +onlyGivenNames s1
  have hs1 : RoomKept s₀ s1 := State.motGatesOff_room h
  exact .ite (State.wr_room hs1 _ _) hs1

theorem State.motFail_room {s₀ s : State} (h : RoomKept s₀ s) (reason : Nat) (detail : Nat) : RoomKept s₀ (s.motFail
    reason detail) := by
  unfold State.motFail
  extract_lets +onlyGivenNames s1
  have hs1 : RoomKept s₀ s1 := State.motComplete_room h _ _
  extract_lets +onlyGivenNames _ s2
  have hs2 : RoomKept s₀ s2 := RoomKept.withMot hs1 _
  exact State.motNoTorque_room (State.wr_room hs2 _ _)

theorem State.bridge_room {s₀ s : State} (h : RoomKept s₀ s) (n : Src) : RoomKept s₀ (s.bridge n) := by
  unfold State.bridge
  extract_lets +onlyGivenNames s1
  have hs1 : RoomKept s₀ s1 := State.motRaise_room h _
  exact State.motGatesOff_room (State.motFail_room hs1 _ _)

theorem State.assertSrc_room {s₀ s : State} (h : RoomKept s₀ s) (n : Src) (c : Ch) : RoomKept s₀ (s.assertSrc n c) :=
    by
  unfold State.assertSrc
  extract_lets +onlyGivenNames k
  exact .ite (State.kelFail_room (State.protOpen_room (State.contactLost_room h _) _) _) (.ite (State.raiseBusSc_room
      h) (.ite (State.demandUp_room (State.faultStop_room h _ _ _) _) (.ite (State.faultStop_room h _ _ _) (.ite
      (State.chRaise_room h _ _) (.ite (State.bridge_room h _) (.ite (State.motRaise_room h _) (State.raise_room h _
      _)))))))

theorem State.assertAll_room {s₀ s : State} (h : RoomKept s₀ s) (n : Src) : RoomKept s₀ (s.assertAll n) := by
  unfold State.assertAll
  refine .ite ?_ (.ite (RoomKept.foldl _ (fun _ _ k => State.assertSrc_room k _ _) h) (State.assertSrc_room h _ _))
  have hall : RoomKept s₀ (s.forCh allCh (fun s c => s.assertSrc n c)) :=
    RoomKept.foldl _ (fun _ _ k => State.assertSrc_room k _ _) h
  cases allCh.find? (fun c => !s.activeIn n c) with
  | none => exact hall
  | some c => exact .ite (State.wr_room hall _ _) hall

theorem State.fxInject_room {s₀ s : State} (h : RoomKept s₀ s) (go : Bool) : RoomKept s₀ (s.fxInject go) := by
  unfold State.fxInject
  refine .ite ?_ h
  extract_lets +onlyGivenNames n
  exact .ite (State.assertAll_room (RoomKept.withFlt h _) _) h

theorem State.fxDumpCtl_room {s₀ s : State} (h : RoomKept s₀ s) (ack : Bool) : RoomKept s₀ (s.fxDumpCtl ack) := by
  unfold State.fxDumpCtl
  extract_lets +onlyGivenNames _ s1
  have hs1 : RoomKept s₀ s1 := .ite (RoomKept.withFlt h _) h
  exact .ite (State.wr_room hs1 _ _) hs1

theorem State.fxKctl_room {s₀ s : State} (h : RoomKept s₀ s) : RoomKept s₀ (s.fxKctl) := by
  unfold State.fxKctl
  exact .ite h (State.kdrLow_room h)

theorem State.useImages_room {s₀ s : State} (h : RoomKept s₀ s) (m : Manifest) (slot : Nat) (src : Nat) : RoomKept s₀
    (s.useImages m slot src) := by
  unfold State.useImages
  extract_lets +onlyGivenNames _ s1
  have hs1 : RoomKept s₀ s1 := RoomKept.withSec h _
  exact State.wr_room hs1 _ _

theorem State.bootGo_room {s₀ s : State} (h : RoomKept s₀ s) (m : Option Manifest) : RoomKept s₀ (s.bootGo m) := by
  unfold State.bootGo
  refine .ite h ?_
  extract_lets +onlyGivenNames s1
  have hs1 : RoomKept s₀ s1 := State.wr_room h _ _
  split
  · exact State.wr_room hs1 _ _
  · extract_lets +onlyGivenNames e
    exact .ite (State.wr_room (State.useImages_room hs1 _ _ _) _ _) (State.wr_room hs1 _ _)

theorem State.fxBootGo_room {s₀ s : State} (h : RoomKept s₀ s) (m : Option (Option Manifest)) : RoomKept s₀
    (s.fxBootGo m) := by
  unfold State.fxBootGo
  split
  · exact State.bootGo_room h _
  · exact .ite (State.wr_room h _ _) h

theorem State.newChallenge_room {s₀ s : State} (h : RoomKept s₀ s) : RoomKept s₀ (s.newChallenge) := by
  unfold State.newChallenge
  extract_lets +onlyGivenNames s1
  have hs1 : RoomKept s₀ s1 := RoomKept.foldl _ (fun _ _ h2 => (by
      split
      · rename_i v' s' heq
        have hp := RoomKept.of_pair_snd (State.takeNat_room h2) heq
        exact State.wr_room hp _ _)) h
  exact State.wr_room hs1 _ _

theorem State.clearLat_room {s₀ s : State} (h : RoomKept s₀ s) (m : Nat) (val : Word) : RoomKept s₀ (s.clearLat m
    val) := by
  unfold State.clearLat
  exact RoomKept.foldl _ (fun _ _ h2 => .ite (State.updCmp_room h2 _ _) h2) h

theorem State.fxDebug_room {s₀ s : State} (h : RoomKept s₀ s) (old : State) : RoomKept s₀ (s.fxDebug old) := by
  unfold State.fxDebug
  extract_lets +onlyGivenNames le saf s1
  have hs1 : RoomKept s₀ s1 := State.wr_room h _ _
  extract_lets +onlyGivenNames s2
  have hs2 : RoomKept s₀ s2 := State.wr_room hs1 _ _
  extract_lets +onlyGivenNames s3
  have hs3 : RoomKept s₀ s3 := .ite (State.raiseDev_room (State.wr_room (State.wr_room hs2 _ _) _ _) _) hs2
  extract_lets +onlyGivenNames s4
  have hs4 : RoomKept s₀ s4 := RoomKept.foldl _ (fun _ _ h2 => .ite (RoomKept.foldl _ (fun _ _ h4 =>
      State.gatesOff_room h4 _) h2) h2) hs3
  exact .ite (State.motGatesOff_room (RoomKept.foldl _ (fun _ _ h2 => State.protOpen_room h2 _) hs4)) hs4

theorem State.trOf_room {s₀ s : State} (h : RoomKept s₀ s) (c : Ch) (p : Prof) (f : Formed) (y : Int) (k : Nat)
    (withheld susp : Bool) (outer : Int) : RoomKept s₀ (s.trOf c p f y k withheld susp outer).2 := by
  unfold State.trOf
  obtain ⟨o, w, e, iHat, yHat⟩ := f
  cases iHat with
  | none =>
    cases yHat with
    | none => exact State.takeInt_room (State.takeInt_room h)
    | some y => exact State.takeInt_room h
  | some x =>
    cases yHat with
    | none => exact State.takeInt_room h
    | some y => exact h

theorem State.trWrite_room {s₀ s : State} (h : RoomKept s₀ s) (c : Ch) (t : TrVals) : RoomKept s₀ (s.trWrite c t) :=
    by
  unfold State.trWrite
  extract_lets +onlyGivenNames q ps
  refine .ite ?_ h
  extract_lets +onlyGivenNames s1
  have hs1 : RoomKept s₀ s1 := RoomKept.foldl _ (fun _ _ h2 => State.updQd_room h2 _ _) h
  extract_lets +onlyGivenNames s2
  have hs2 : RoomKept s₀ s2 := State.wr_room (State.updQd_room hs1 _ _) _ _
  exact .ite (State.wr_room (State.wr_room hs2 _ _) _ _) hs2

theorem State.leStepGo_room {s₀ s : State} (h : RoomKept s₀ s) (c : Ch) : RoomKept s₀ (s.leStepGo c) := by
  unfold State.leStepGo
  extract_lets +onlyGivenNames l
  split
  · extract_lets +onlyGivenNames y b f outer
    split
    · rename_i t' s' heq
      have hp := RoomKept.of_pair_snd (State.trOf_room h _ _ _ _ _ _ _ _) heq
      exact State.trWrite_room (State.updLoop_room hp _ _) _ _
  · exact h

theorem State.writeFx2_room {s₀ s : State} (h : RoomKept s₀ s) (old : State) (off : Nat) (val : Word) (m : Option
    (Option Manifest)) : RoomKept s₀ (s.writeFx2 old off val m) := by
  unfold State.writeFx2
  exact .ite (State.clearRec_room h _ _) (.ite (State.setReact_room h _) (.ite (State.fxInject_room h _) (.ite
      (State.fxDumpCtl_room h _) (.ite (State.fxKctl_room h) (.ite (State.cmpRestart_room h _) (.ite (.ite
      (State.fxBootGo_room h _) h) (.ite (.ite (State.newChallenge_room h) h) (.ite (.ite h (State.cmpRestart_room h
      _)) (.ite (State.clearLat_room h _ _) (.ite (State.fxDebug_room h _) (.ite (.ite (State.leStepGo_room h _) h)
      h)))))))))))

theorem State.disableQueue_room {s₀ s : State} (h : RoomKept s₀ s) (q : QId) : RoomKept s₀ (s.disableQueue q) := by
  unfold State.disableQueue
  extract_lets +onlyGivenNames s1
  have hs1 : RoomKept s₀ s1 := State.updQ_room h _ _
  exact RoomKept.withHost hs1 _

theorem State.enableQueue_room {s₀ s : State} (h : RoomKept s₀ s) (q : QId) : RoomKept s₀ (s.enableQueue q) := by
  unfold State.enableQueue
  extract_lets +onlyGivenNames s1
  have hs1 : RoomKept s₀ s1 := State.updQ_room h _ _
  extract_lets +onlyGivenNames _ s2
  have hs2 : RoomKept s₀ s2 := RoomKept.withHost hs1 _
  split
  · exact State.updSeq_room hs2 _ _
  · exact hs2

theorem State.readLines_room {s₀ s : State} (h : RoomKept s₀ s) (ps : List Pos) : RoomKept s₀ (s.readLines ps) := by
  unfold State.readLines
  extract_lets +onlyGivenNames base
  exact RoomKept.foldl _ (fun _ _ h2 => State.emit_room (RoomKept.withHost h2 _) _) h

theorem State.askLine_room {s₀ s : State} (h : RoomKept s₀ s) (p : Pos) : RoomKept s₀ (s.askLine p) := by
  unfold State.askLine
  extract_lets +onlyGivenNames _ s1
  have hs1 : RoomKept s₀ s1 := RoomKept.withHost h _
  exact .ite (State.readLines_room hs1 _) hs1

/-- `HOST_CTL` changes from `old` to `new` (R424, R449, R461). -/
def State.ctlTakes (s : State) (new old : Word) : State :=
  let on := allQ.filter (fun q => new.getLsbD q.val && !old.getLsbD q.val)
  let s := allQ.foldl (fun s q => if old.getLsbD q.val && !new.getLsbD q.val then s.disableQueue q else s) s
  let s := on.foldl State.enableQueue s
  let s := if new.getLsbD 24 && !old.getLsbD 24 then { s with host := { s.host with cpqW := 0, cpqC := 0, wrote := 0 } } else s
  let s := if new.getLsbD 25 && !old.getLsbD 25 then { s with host := { s.host with evqW := 0, evqC := 0 } } else s
  let s := if new.getLsbD 26 && !old.getLsbD 26 then { s with host := { s.host with tlrSeq := 0, tlrC := 0 } } else s
  if on.isEmpty then s
  else
    let s := s.askLine (Fin.ofNat 32 s.pos)
    if s.isHead then s else s.emit .lineAsk

theorem State.ctlChanged_eq (s : State) (old : Word) : s.ctlChanged old = s.ctlTakes (s.regWord 0x1000) old := rfl

theorem State.ctlTakes_room {s₀ s : State} (h : RoomKept s₀ s) (new old : Word) : RoomKept s₀ (s.ctlTakes new old) :=
    by
  unfold State.ctlTakes
  extract_lets +onlyGivenNames on s1
  have hs1 : RoomKept s₀ s1 := RoomKept.foldl _ (fun _ _ h2 => .ite (State.disableQueue_room h2 _) h2) h
  extract_lets +onlyGivenNames s2
  have hs2 : RoomKept s₀ s2 := RoomKept.foldl _ (fun _ _ h2 => State.enableQueue_room h2 _) hs1
  extract_lets +onlyGivenNames _ s3
  have hs3 : RoomKept s₀ s3 := .ite (RoomKept.withHost hs2 _) hs2
  extract_lets +onlyGivenNames _ s4
  have hs4 : RoomKept s₀ s4 := .ite (RoomKept.withHost hs3 _) hs3
  extract_lets +onlyGivenNames _ s5
  have hs5 : RoomKept s₀ s5 := .ite (RoomKept.withHost hs4 _) hs4
  refine .ite hs5 ?_
  extract_lets +onlyGivenNames s6
  have hs6 : RoomKept s₀ s6 := State.askLine_room hs5 _
  exact .ite hs6 (State.emit_room hs6 _)

theorem State.ctlChanged_room {s₀ s : State} (h : RoomKept s₀ s) (old : Word) : RoomKept s₀ (s.ctlChanged old) := by
  rw [State.ctlChanged_eq]
  exact State.ctlTakes_room h _ _

theorem State.enterEnum_room {s₀ s : State} (h : RoomKept s₀ s) : RoomKept s₀ (s.enterEnum) := by
  unfold State.enterEnum
  exact State.wr_room (State.wr_room (RoomKept.withRing h _) _ _) _ _

theorem State.barSet_room {s₀ s : State} (h : RoomKept s₀ s) (high : Bool) (mask : Nat) : RoomKept s₀ (s.barSet high
    mask) := by
  unfold State.barSet
  exact .ite (RoomKept.foldl _ (fun _ _ h2 => .ite (RoomKept.withRing h2 _) h2) h) h

theorem State.writeFx1_room {s₀ s : State} (h : RoomKept s₀ s) (old : State) (off : Nat) (val : Word) : RoomKept s₀
    (s.writeFx1 old off val) := by
  unfold State.writeFx1
  extract_lets +onlyGivenNames calm
  exact .ite (.ite (RoomKept.withSys h _) h) (.ite (.ite (State.wr_room (State.wr_room (State.wr_room (State.wr_room
      h _ _) _ _) _ _) _ _) h) (.ite (State.ctlChanged_room h _) (.ite (.ite (State.wr_room h _ _) h) (.ite (.ite
      (State.enterEnum_room h) h) (.ite (.ite (RoomKept.withRing h _) h) (.ite (.ite (RoomKept.withRing h _) h) (.ite
      (State.barSet_room h _ _) (.ite (State.barSet_room h _ _) h))))))))

/-- A write of a register takes no shared slot. -/
theorem State.regPut_room {s₀ s : State} (h : RoomKept s₀ s) (path : Path) (off : Nat) (val : Word)
    (m : Option (Option Manifest)) : RoomKept s₀ (s.regPut path off val m).1 := by
  unfold State.regPut
  split
  · exact h
  · extract_lets code t
    split
    · exact State.writeErr_room h _ _ _
    · exact State.writeFx3_room (State.writeFx2_room (State.writeFx1_room
        (RoomKept.foldl _ (fun _ _ k => State.putField_room k _ _) h) _ _ _) _ _ _ _) _ _ _

end Sys2Proof.Machine
end


section
/-!
SUPPORT. Admin commands (R443 to R447): what a command that begins finds, and its end where a shared slot is free.
-/

namespace Sys2Proof.Machine

/-- A command that begins takes its descriptor from the prefetch first. -/
theorem State.admBegin_of {s : State} {op : Nat} {a : AdmHdr} {args : List Word → Bool} (f : State → State)
    (h : s.admTakes op a args = true) : s.admBegin op a args f = f s.admDrop := if_pos h

/-- A command that may begin finds a shared slot and no other command; SEQ runs and no transition is under way. -/
theorem State.admTakes_spec {s : State} {op : Nat} {a : AdmHdr} {args : List Word → Bool}
    (h : s.admTakes op a args = true) :
    s.roomy ∧ s.host.admFin = none ∧ s.idle = false ∧ s.sys.mode ≠ .boot ∧ s.sys.trans = none := by
  unfold State.admTakes State.admMay at h
  simp only [Bool.and_eq_true, Option.isNone_iff_eq_none, Bool.not_eq_true', decide_eq_true_eq] at h
  obtain ⟨⟨⟨⟨⟨⟨⟨hadm, hfin⟩, hroom⟩, hidle⟩, hboot⟩, htrans⟩, -⟩, -⟩ := h
  exact ⟨⟨hroom, hadm⟩, hfin, hidle, hboot, htrans⟩

theorem State.admDrop_only (s : State) : s.only s.admDrop [.host] := State.only_iff.2 (by simp [State.admDrop, State.updQ])

/-- The end of a command that finds a shared slot is the last completion. -/
theorem State.admDone_lastDone {s : State} (h : s.sharedRoom = true) (op : Nat) (a : AdmHdr) (x y : Nat) :
    (s.admDone op a x y).lastDone op a x y := by
  obtain ⟨hadm, hlast, -⟩ := s.admDone_ends op a x y h
  exact ⟨hadm, hlast⟩

/-- It retires its descriptor and leaves what is prefetched. -/
theorem State.admDone_subq {s : State} (h : s.sharedRoom = true) (op : Nat) (a : AdmHdr) (x y : Nat) :
    (s.admDone op a x y).subq aq = { s.subq aq with done := ((s.subq aq).done + 1) % 65536 } := by
  unfold State.admDone State.admEnter
  rw [if_pos h]
  exact State.subq_updQ_same _ _ _

/-- A command that ends as it begins, changing nothing else. -/
theorem State.admBegin_done {s : State} {op : Nat} {a : AdmHdr} {args : List Word → Bool}
    (h : s.admTakes op a args = true) (x y : Nat) :
    (s.admDrop.admDone op a x y).lastDone op a x y ∧ s.only (s.admDrop.admDone op a x y) [.host] := by
  obtain ⟨hroom, -⟩ := State.admTakes_spec h
  exact ⟨State.admDone_lastDone (State.admDrop_room (.refl s) hroom).1 op a x y,
    State.only_trans s.admDrop_only (State.admDone_only _ _ _ _ _)⟩

/-- The sequencers after a walk that changes some of them. -/
theorem State.seq_forCh_updSeq (s : State) (f : ChanS → ChanS) (l : List Ch) (hl : l.Nodup) (d : Ch) :
    (s.forCh l (fun s c => s.updSeq c f)).seq d = if d ∈ l then f (s.seq d) else s.seq d := by
  induction l generalizing s with
  | nil => simp [State.forCh]
  | cons c l ih =>
    obtain ⟨hc, hl⟩ := List.nodup_cons.1 hl
    have hstep := ih (s.updSeq c f) hl
    show ((s.updSeq c f).forCh l (fun s c => s.updSeq c f)).seq d = _
    rw [hstep]
    by_cases hd : c = d
    · subst hd
      simp [hc]
    · rw [State.seq_updSeq_other s f hd]
      simp [Ne.symm hd]

theorem State.forCh_updSeq_only (s : State) (f : ChanS → ChanS) (l : List Ch) :
    s.only (s.forCh l (fun s c => s.updSeq c f)) [.ch] :=
  State.forCh_only _ (fun _ c k => State.updCh_only k c _) (State.only_refl _ _)

/-- A sum that a walk adds up. -/
theorem foldl_add_eq_sum {α : Type} (f : α → Nat) (l : List α) : l.foldl (fun m c => m + f c) 0 = (l.map f).sum := by
  rw [List.sum_eq_foldl, List.foldl_map]

theorem allCh_eq : allCh = List.finRange 16 := by decide

/-! ### RESUME and CLEAR_FAULT -/

/-- RESUME (R333): each channel in HOLD of the mask is to start, the others are named. -/
theorem State.resume_spec {s : State} {a : AdmHdr} {mask : BitVec 16} (h : s.admTakes 7 a (maskArgs mask) = true) :
    s.ends (.resume a mask) (fun t =>
      (∀ c : Ch, mask.getLsbD c.val = true → (s.seq c).st = .hold → (t.seq c).resume = true) ∧
      (∀ c : Ch, (mask.getLsbD c.val = false ∨ (s.seq c).st ≠ .hold) → t.seq c = s.seq c) ∧
      t.lastDone 7 a (if ∃ c : Ch, mask.getLsbD c.val = true ∧ (s.seq c).st ≠ .hold then 0x10 else 0)
        (((List.finRange 16).filter (fun c => mask.getLsbD c.val && decide ((s.seq c).st ≠ .hold))).map
          (fun c => 2 ^ c.val)).sum ∧ s.only t [.host, .ch]) := by
  obtain ⟨hroom, -⟩ := State.admTakes_spec h
  refine ⟨_, congrArg Host.Outcome.next (State.admBegin_of _ h), ?_⟩
  dsimp only
  let holders := (maskChs mask).filter (fun c => decide ((s.seq c).st = .hold))
  let u := s.admDrop.forCh holders (fun s c => s.updSeq c (fun x => { x with resume := true }))
  have hnodup : holders.Nodup := ((List.nodup_finRange 16).filter _).filter _
  have hseq (d : Ch) : u.seq d = if d ∈ holders then { s.seq d with resume := true } else s.seq d :=
    State.seq_forCh_updSeq s.admDrop _ _ hnodup d
  have hmem (d : Ch) : d ∈ holders ↔ mask.getLsbD d.val = true ∧ (s.seq d).st = .hold := by
    simp [holders, maskChs, allCh_eq, and_comm]
  have hu : s.only u [.host, .ch] := State.only_trans (State.only_mono s.admDrop_only (by decide))
    (State.only_mono (State.forCh_updSeq_only _ _ _) (by decide))
  have hur : u.roomy := (State.admDrop_room (.refl s)).of_only (State.forCh_updSeq_only _ _ _) (by decide) hroom
  have hrefused : (maskChs mask).filter (fun c => !decide ((s.seq c).st = .hold)) =
      (List.finRange 16).filter (fun c => mask.getLsbD c.val && decide ((s.seq c).st ≠ .hold)) := by
    rw [maskChs, allCh_eq, List.filter_filter]
    exact List.filter_congr (fun c _ => by simp [Bool.and_comm])
  have hempty : (((maskChs mask).filter (fun c => !decide ((s.seq c).st = .hold))).isEmpty = true) ↔
      ¬ ∃ c : Ch, mask.getLsbD c.val = true ∧ (s.seq c).st ≠ .hold := by
    rw [hrefused]
    simp
  refine ⟨fun c hm hh => ?_, fun c hc => ?_, ?_, State.only_trans hu (State.only_mono (State.admDone_only _ _ _ _ _) (by decide))⟩
  · rw [State.admDone_seq]
    exact congrArg ChanS.resume ((hseq c).trans (if_pos ((hmem c).2 ⟨hm, hh⟩)))
  · rw [State.admDone_seq]
    refine (hseq c).trans (if_neg (fun k => ?_))
    obtain ⟨hm, hh⟩ := (hmem c).1 k
    exact hc.elim (fun e => Bool.noConfusion (hm.symm.trans e)) (fun e => e hh)
  · have hlast := State.admDone_lastDone hur.1 7 a
      (if ((maskChs mask).filter (fun c => !decide ((s.seq c).st = .hold))).isEmpty then 0 else 0x10)
      (((maskChs mask).filter (fun c => !decide ((s.seq c).st = .hold))).foldl (fun m c => m + 2 ^ c.val) 0)
    rw [foldl_add_eq_sum, hrefused] at hlast
    rw [hrefused] at hempty
    have hstatus : (if ∃ c : Ch, mask.getLsbD c.val = true ∧ (s.seq c).st ≠ .hold then 0x10 else 0) =
        if ((List.finRange 16).filter (fun c => mask.getLsbD c.val && decide ((s.seq c).st ≠ .hold))).isEmpty then 0
          else 0x10 := by
      by_cases hany : ∃ c : Ch, mask.getLsbD c.val = true ∧ (s.seq c).st ≠ .hold
      · rw [if_pos hany, if_neg (fun k => hempty.1 k hany)]
      · rw [if_neg hany, if_pos (hempty.2 hany)]
    rw [hstatus, ← foldl_add_eq_sum, ← hrefused]
    rw [← foldl_add_eq_sum, ← hrefused] at hlast
    exact hlast

theorem State.clearIfGone_room {s₀ s : State} (h : RoomKept s₀ s) (n : Src) (c : Ch) : RoomKept s₀ (s.clearIfGone n c) := by
  unfold State.clearIfGone State.clear
  dsimp only
  split
  · split
    · exact h
    · exact State.event_room (State.updSrc_room h _ _) _ _ _
  · exact h

/-- A channel source that clears in its place is not active there. -/
theorem State.clear_activeIn (s : State) (n : Src) (c : Ch) (hn : isChanSrc n = true) :
    (s.clear n c).activeIn n c = false := by
  have hbit : actBit n c = chBit c := if_pos hn
  have hc : (chBit c)[c.val] = true := by rw [← BitVec.getLsbD_eq_getElem, getLsbD_chBit]; simp
  unfold State.clear State.activeIn
  rw [hbit]
  dsimp only
  split
  next h => simpa [hc] using congrArg (fun x : BitVec 16 => x.getLsbD c.val) h
  next => simp [hc]

/-- The sources in other places are as before where one clears. -/
theorem State.clear_src_other (s : State) {n m : Src} (c : Ch) (h : n ≠ m) : (s.clear n c).src m = s.src m := by
  unfold State.clear
  dsimp only
  split
  · rfl
  · simp [State.src_updSrc_other _ _ h]

/-- A source that clears if its condition is gone leaves the other sources. -/
theorem State.clearIfGone_src_other (s : State) {n m : Src} (c : Ch) (h : n ≠ m) :
    (s.clearIfGone n c).src m = s.src m := by
  unfold State.clearIfGone
  split
  · exact s.clear_src_other c h
  · rfl

/-- A channel source whose condition is gone clears. -/
theorem State.clearIfGone_activeIn {s : State} {n : Src} {c : Ch} (hn : isChanSrc n = true)
    (hgone : (s.src n).cond &&& actBit n c = 0) : (s.clearIfGone n c).activeIn n c = false := by
  unfold State.clearIfGone
  rw [if_pos hgone]
  exact s.clear_activeIn n c hn

/-- A condition that is gone in its place stands there no more. -/
theorem State.condGone_cond (s : State) (n : Src) (c : Ch) : ((s.condGone n c).src n).cond &&& actBit n c = 0 := by
  unfold State.condGone
  rw [State.src_updSrc_same, BitVec.and_assoc]
  simp

theorem State.condGone_src_other (s : State) {n m : Src} (c : Ch) (h : n ≠ m) : (s.condGone n c).src m = s.src m :=
  State.src_updSrc_other s _ h

theorem State.condGone_only (s : State) (n : Src) (c : Ch) : s.only (s.condGone n c) [.flt] := s.updSrc_only n _

/-- The sources of CLEAR_FAULT before the latched record clears. -/
def State.faultsCleared (s : State) (c : Ch) : State :=
  ((((if ((s.chan c).stage.bothOn.filter (fun t => s.clk < t + 16)).length < 3 then s.condGone 9 c else s).condGone
    10 c).clearIfGone 9 c).clearIfGone 10 c)

theorem State.clearFault_eq (s : State) (c : Ch) : s.clearFault c =
    if (s.faultsCleared c).activeIn 9 c then s.faultsCleared c else (s.faultsCleared c).wr (CH_PFLT.SHOOT_FAULT c) 0 := rfl

theorem State.faultsCleared_only (s : State) (c : Ch) : s.only (s.faultsCleared c) [.flt, .host] := by
  unfold State.faultsCleared
  refine State.only_trans (State.only_trans (State.only_trans ?_ (State.only_mono (State.condGone_only _ _ _) (by decide)))
    (State.clearIfGone_only _ _ _)) (State.clearIfGone_only _ _ _)
  split
  · exact State.only_mono (s.condGone_only 9 c) (by decide)
  · exact State.only_refl _ _

/-- A failed shadow check is not active afterwards. -/
theorem State.faultsCleared_shadow (s : State) (c : Ch) : (s.faultsCleared c).activeIn 10 c = false := by
  unfold State.faultsCleared
  refine State.clearIfGone_activeIn (by decide) ?_
  rw [State.clearIfGone_src_other _ c (by decide)]
  exact State.condGone_cond _ _ _

/-- Nor is `SHOOT_FAULT`, where the gates have been commanded on fewer than three times of late. -/
theorem State.faultsCleared_shoot {s : State} {c : Ch}
    (h : ((s.chan c).stage.bothOn.filter (fun t => s.clk < t + 16)).length < 3) :
    (s.faultsCleared c).activeIn 9 c = false := by
  unfold State.faultsCleared State.activeIn
  rw [State.clearIfGone_src_other _ c (by decide), if_pos h]
  refine State.clearIfGone_activeIn (by decide) ?_
  rw [State.condGone_src_other _ c (by decide)]
  exact State.condGone_cond _ _ _

theorem State.faultsCleared_room {s₀ s : State} (h : RoomKept s₀ s) (c : Ch) : RoomKept s₀ (s.faultsCleared c) := by
  unfold State.faultsCleared
  refine State.clearIfGone_room (State.clearIfGone_room (State.updSrc_room ?_ _ _) _ _) _ _
  split
  · exact State.updSrc_room h _ _
  · exact h

/-- The latched record of a channel is a plain field. -/
theorem State.view_shootFault (s : State) (c : Ch) :
    s.view (CH_PFLT.SHOOT_FAULT c).off (CH_PFLT.SHOOT_FAULT c).lo = none := by
  fin_cases c <;> rfl

/-- CLEAR_FAULT (R145, R185, R187): the sources clear, then the latched record of one that is not active. -/
theorem State.clearFault_spec {s : State} {a : AdmHdr} {c : Ch} (h : s.admTakes 8 a (chArgs c) = true) :
    s.ends (.clearFault a c) (fun t => t.lastDone 8 a 0 0 ∧
      (t.activeIn 9 c = false → t.look (CH_PFLT.SHOOT_FAULT c) = 0) ∧
      (((s.chan c).stage.bothOn.filter (fun u => s.clk < u + 16)).length < 3 → t.activeIn 9 c = false) ∧
      t.activeIn 10 c = false ∧ s.only t [.host, .flt, .regs] ∧ s.regsBut t [CH_PFLT.SHOOT_FAULT c]) := by
  obtain ⟨hroom, -⟩ := State.admTakes_spec h
  refine ⟨_, congrArg Host.Outcome.next (State.admBegin_of _ h), ?_⟩
  dsimp only
  let u := s.admDrop.faultsCleared c
  let v := s.admDrop.clearFault c
  have hv : v = if u.activeIn 9 c then u else u.wr (CH_PFLT.SHOOT_FAULT c) 0 := State.clearFault_eq _ _
  have huv : u.only v [.regs] ∧ v.flt = u.flt ∧ u.regsBut v [CH_PFLT.SHOOT_FAULT c] := by
    rw [hv]
    split
    · exact ⟨State.only_refl _ _, rfl, fun _ _ => rfl⟩
    · exact ⟨State.only_iff.2 (by simp), rfl, State.regsBut_wr (fun _ _ => rfl) (by simp) 0⟩
  obtain ⟨honly, hflt, hbut⟩ := huv
  have hu := s.admDrop.faultsCleared_only c
  have hact (n : Src) : (v.admDone 8 a 0 0).activeIn n c = u.activeIn n c := by
    unfold State.activeIn
    rw [State.admDone_src]
    unfold State.src
    rw [hflt]
  have hvr : v.roomy := by
    rw [hv]
    have hur : RoomKept s u := State.faultsCleared_room (State.admDrop_room (.refl s)) c
    split
    · exact hur hroom
    · exact State.wr_room hur _ _ hroom
  have hfld : (CH_PFLT.SHOOT_FAULT c).acc ≠ .wo ∧ headOnly (CH_PFLT.SHOOT_FAULT c).off = false ∧
      waits (CH_PFLT.SHOOT_FAULT c) = false := by
    clear * -
    revert c
    decide
  have hview : (v.admDone 8 a 0 0).look (CH_PFLT.SHOOT_FAULT c) = v.rd (CH_PFLT.SHOOT_FAULT c) := by
    rw [State.look_eq_rd _ _ hfld.1 hfld.2.1 (State.view_shootFault _ c) hfld.2.2, State.admDone_rd]
  refine ⟨State.admDone_lastDone hvr.1 8 a 0 0, fun hoff => ?_, fun hfew => ?_, ?_, ?_, ?_⟩
  · rw [hact] at hoff
    rw [hview, hv, if_neg (by simp [hoff]), State.rd_wr_same]
    exact Nat.zero_mod _
  · rw [hact]
    exact State.faultsCleared_shoot hfew
  · rw [hact]
    exact s.admDrop.faultsCleared_shadow c
  · exact State.only_trans (State.only_trans (State.only_trans (State.only_mono s.admDrop_only (by decide))
      (State.only_mono hu (by decide))) (State.only_mono honly (by decide)))
      (State.only_mono (State.admDone_only _ _ _ _ _) (by decide))
  · refine fun g hg => (State.admDone_rd _ _ _ _ _ _).trans ((hbut g hg).trans ?_)
    exact congrArg (fun r => RegFile.get r g) (hu.2 .regs (by decide))

/-- A walk over a list of anything, each step of which leaves all but the listed parts. -/
theorem State.foldl_only {α : Type} {s t : State} {ps : List Part} {f : State → α → State} (l : List α)
    (hf : ∀ t a, s.only t ps → s.only (f t a) ps) (h : s.only t ps) : s.only (l.foldl f t) ps := by
  induction l generalizing t with
  | nil => exact h
  | cons a l ih => exact ih (hf t a h)

/-! ### DUMP_NOW -/

/-- A dump that is triggered while one is requested or copied counts as missed. -/
theorem State.dumpTrigger_busy {s : State} (h : s.rb FLT_DUMPSTAT.REQ = true ∨ s.flt.copying = true) (x y : Nat) :
    s.dumpTrigger x y = s.incSat FLT_DUMPSTAT.MISSED := by
  unfold State.dumpTrigger
  exact if_pos (by simpa using h)

/-- Otherwise it takes its snapshot. -/
theorem State.dumpTrigger_taken {s : State} (h : ¬ (s.rb FLT_DUMPSTAT.REQ = true ∨ s.flt.copying = true)) (x y : Nat) :
    (s.dumpTrigger x y).flt.copying = true ∧ (s.dumpTrigger x y).flt.snap.map (·.trigger) = some x := by
  unfold State.dumpTrigger
  rw [if_neg (by simpa using h)]
  dsimp only
  have hstops (t : State) : (allQuads.foldl (fun s q => s.traceStop q) t).flt = t.flt :=
    (State.foldl_only (f := fun (s : State) q => s.traceStop q) (ps := [.regs]) allQuads
      (fun t q k => State.only_trans k (State.only_mono (t.traceStop_only q) (by decide))) (State.only_refl _ _)).2 .flt (by decide)
  rw [hstops]
  exact ⟨rfl, rfl⟩

/-- DUMP_NOW (R693). -/
theorem State.dumpNow_spec {s : State} {a : AdmHdr} (h : s.admTakes 17 a noArgs = true) :
    s.ends (.dumpNow a) (fun t =>
      if s.rb FLT_DUMPSTAT.REQ = true ∨ s.flt.copying = true then
        t.lastDone 17 a 0x14 0 ∧ t.flt.snap = s.flt.snap ∧ s.regsBut t [FLT_DUMPSTAT.MISSED]
      else t.lastDone 17 a 0 0 ∧ t.flt.copying = true ∧ t.flt.snap.map (·.trigger) = some 1) := by
  obtain ⟨hroom, -⟩ := State.admTakes_spec h
  refine ⟨_, congrArg Host.Outcome.next (State.admBegin_of _ h), ?_⟩
  dsimp only
  have hr : (s.admDrop.dumpTrigger 1 0xFF).roomy := State.dumpTrigger_room (State.admDrop_room (.refl s)) _ _ hroom
  have hdone := State.admDone_lastDone hr.1 17 a
    (if (s.admDrop.rb FLT_DUMPSTAT.REQ || s.admDrop.flt.copying) = true then 0x14 else 0) 0
  have hbusy : ((s.admDrop.rb FLT_DUMPSTAT.REQ || s.admDrop.flt.copying) = true) ↔
      (s.rb FLT_DUMPSTAT.REQ = true ∨ s.flt.copying = true) := by
    rw [Bool.or_eq_true]
    exact Iff.rfl
  split
  next hb =>
    rw [if_pos (hbusy.2 hb)] at hdone ⊢
    refine ⟨hdone, ?_, fun g hg => ?_⟩
    · rw [State.admDone_flt, State.dumpTrigger_busy (Bool.or_eq_true _ _ ▸ hbusy.2 hb)]
      rfl
    · rw [State.admDone_rd, State.dumpTrigger_busy (Bool.or_eq_true _ _ ▸ hbusy.2 hb)]
      exact State.rd_wr_other _ _ (hg _ (by simp))
  next hb =>
    rw [if_neg (fun k => hb (hbusy.1 k))] at hdone ⊢
    obtain ⟨hcopy, hsnap⟩ := State.dumpTrigger_taken (s := s.admDrop) hb 1 0xFF
    refine ⟨hdone, ?_, ?_⟩
    · rw [State.admDone_flt, hcopy]
    · rw [State.admDone_flt, hsnap]

/-! ### Register accesses -/

/-- The shared slots are as before a read of a register. -/
theorem State.regGet_room {s₀ s : State} (h : RoomKept s₀ s) (off : Nat) : RoomKept s₀ (s.regGet off).2 := by
  have hlatch : RoomKept s₀ (s.latchHigh off) := by
    unfold State.latchHigh
    dsimp only
    repeat' split
    all_goals exact h.of_host ⟨rfl, rfl, rfl⟩
  have hfx : RoomKept s₀ (s.readFx off) := by
    unfold State.readFx
    dsimp only
    repeat' split
    all_goals exact hlatch.of_host ⟨rfl, rfl, rfl⟩
  unfold State.regGet
  split
  · exact h
  · split
    · exact h.of_host ⟨rfl, rfl, rfl⟩
    · exact hfx

/-- An offset outside BAR0 or not aligned is refused. -/
theorem State.admRegStart_bad {s : State} (op : Nat) (a : AdmHdr) {off : Word} (val : Word)
    (h : off.toNat % 4 ≠ 0 ∨ 65536 ≤ off.toNat) : s.admRegStart op a off val = s.admDone op a 2 0 := if_pos h

/-- An access to a block in its reset waits. -/
theorem State.admRegStart_held {s : State} (op : Nat) (a : AdmHdr) {off : Word} (val : Word)
    (h : ¬ (off.toNat % 4 ≠ 0 ∨ 65536 ≤ off.toNat)) (hb : s.blockHeld off.toNat = true) :
    (s.admRegStart op a off val).host.adm = some ⟨op, a, 0⟩ ∧
      (s.admRegStart op a off val).host.heldAcc = s.host.heldAcc ++ [.admin op a off.toNat val] ∧
      s.only (s.admRegStart op a off val) [.host] := by
  unfold State.admRegStart
  rw [if_neg h, if_pos hb]
  exact ⟨rfl, rfl, State.only_iff.2 (by simp [State.admWait])⟩

/-- Any other access is carried out. -/
theorem State.admRegStart_done {s : State} (op : Nat) (a : AdmHdr) {off : Word} (val : Word)
    (h : ¬ (off.toNat % 4 ≠ 0 ∨ 65536 ≤ off.toNat)) (hb : s.blockHeld off.toNat = false) :
    s.admRegStart op a off val = s.admReg op a off.toNat val := by
  unfold State.admRegStart
  rw [if_neg h, if_neg (by simp [hb])]

end Sys2Proof.Machine
end

section
open Sys2Proof Sys2Proof.Machine

/-- Settles O11: each command finds a shared slot as it begins, what it does leaves the slots, so it ends at once. -/
theorem adminCommandsThatEndAtOnce : Obligations.AdminCommandsThatEndAtOnce := by
  unfold Obligations.AdminCommandsThatEndAtOnce
  refine ⟨fun s a => ⟨fun h => ?_, fun mask h => State.resume_spec h, fun c h => State.clearFault_spec h,
    State.dumpNow_spec⟩, fun s a off val => ⟨fun h => ?_, fun h => ?_⟩⟩
  · obtain ⟨hlast, honly⟩ := State.admBegin_done h 0 0
    obtain ⟨hroom, -⟩ := State.admTakes_spec h
    have hq := State.admDone_subq (State.admDrop_room (.refl s) hroom).1 1 a 0 0
    refine ⟨_, congrArg Host.Outcome.next (State.admBegin_of _ h), hlast, ?_, ?_, honly⟩
    · exact (congrArg SubQ.done hq).trans (by rw [State.admDrop, State.subq_updQ_same])
    · exact (congrArg SubQ.pre hq).trans (by rw [State.admDrop, State.subq_updQ_same])
  · obtain ⟨hroom, -⟩ := State.admTakes_spec h
    have hdrop : s.admDrop.roomy := State.admDrop_room (.refl s) hroom
    refine ⟨fun hbad => ?_, fun hok hheld => ?_, fun hok hfree => ?_⟩
    · exact ⟨_, congrArg Host.Outcome.next ((State.admBegin_of _ h).trans (State.admRegStart_bad 2 a 0 hbad)),
        State.admBegin_done h 2 0⟩
    · obtain ⟨hadm, hacc, honly⟩ := State.admRegStart_held (s := s.admDrop) 2 a 0 hok hheld
      exact ⟨_, congrArg Host.Outcome.next (State.admBegin_of _ h), hadm, hacc, State.only_trans s.admDrop_only honly⟩
    · exact ⟨_, congrArg Host.Outcome.next ((State.admBegin_of _ h).trans
        (State.admRegStart_done (s := s.admDrop) 2 a 0 hok hfree)),
        State.admDone_lastDone (State.regGet_room (.refl _) off.toNat hdrop).1 2 a 0 _⟩
  · obtain ⟨hroom, -⟩ := State.admTakes_spec h
    have hdrop : s.admDrop.roomy := State.admDrop_room (.refl s) hroom
    refine ⟨fun hbad => ?_, fun hok hheld => ?_, fun hok hfree => ?_⟩
    · exact ⟨_, congrArg Host.Outcome.next ((State.admBegin_of _ h).trans (State.admRegStart_bad 3 a val hbad)),
        State.admBegin_done h 2 0⟩
    · obtain ⟨hadm, hacc, honly⟩ := State.admRegStart_held (s := s.admDrop) 3 a val hok hheld
      exact ⟨_, congrArg Host.Outcome.next (State.admBegin_of _ h), hadm, hacc, State.only_trans s.admDrop_only honly⟩
    · refine ⟨_, congrArg Host.Outcome.next ((State.admBegin_of _ h).trans
        (State.admRegStart_done (s := s.admDrop) 3 a val hok hfree)), ?_⟩
      have hput := State.admDone_lastDone (State.regPut_room (.refl _) .regWrite off.toNat val none hdrop).1 3 a
        (if (s.admDrop.regPut .regWrite off.toNat val none).2 ≠ 0 then 3 else 0) 0
      by_cases hz : (s.admDrop.regPut .regWrite off.toNat val none).2 = 0
      · rw [if_pos hz]
        rw [if_neg (by simp [hz])] at hput
        unfold State.admReg
        simpa [hz] using hput
      · rw [if_neg hz]
        rw [if_pos hz] at hput
        unfold State.admReg
        simpa [hz] using hput

end


section
/-!
SUPPORT. LOAD_IMAGE and the read-back of a slot (R723 to R729).
-/

namespace Sys2Proof.Machine

/-- A command that runs on leaves all but its own record. -/
theorem State.admWait_only (s : State) (op : Nat) (a : AdmHdr) (arg : Nat) : s.only (s.admWait op a arg) [.host] :=
  State.only_iff.2 (by simp [State.admWait])

/-- What a command that ends at once does, where the body of it leaves the shared slots. -/
theorem State.admBegin_ends {s : State} {op : Nat} {a : AdmHdr} {args : List Word → Bool} {i : Instr} {f : State → State}
    (h : s.admTakes op a args = true) (hi : exec i s = Host.Outcome.next (s.admBegin op a args f)) {P : State → Prop}
    (hP : P (f s.admDrop)) : s.ends i P :=
  ⟨_, hi.trans (congrArg Host.Outcome.next (State.admBegin_of _ h)), hP⟩

/-- An image that is refused with code `e`. -/
theorem State.loadImage_rejected {s : State} (hr : s.roomy) (a : AdmHdr) (e : Nat) :
    (s.admDone 4 a 0x13 e).lastDone 4 a 0x13 e ∧ (s.admDone 4 a 0x13 e).sec = s.sec :=
  ⟨State.admDone_lastDone hr.1 4 a 0x13 e, State.admDone_sec s 4 a 0x13 e⟩

/-- Out of STANDBY and SAFE no image is taken. -/
theorem State.loadImage_mode {s : State} (a : AdmHdr) (len : Nat) (m : Option Manifest) (h : s.sys.mode ≠ .standby)
    (h' : s.sys.mode ≠ .safe) : s.loadImage a len m = s.admDone 4 a 0x13 0x0C := if_pos ⟨h, h'⟩

/-- Without an image there is nothing to check. -/
theorem State.loadImage_none {s : State} (a : AdmHdr) (len : Nat) (h : s.sys.mode = .standby ∨ s.sys.mode = .safe) :
    s.loadImage a len none = s.admDone 4 a 0x13 0x0D := if_neg (fun k => h.elim k.1 k.2)

/-- A check that fails names its code. -/
theorem State.loadImage_refused {s : State} (a : AdmHdr) (len : Nat) {m : Manifest}
    (h : s.sys.mode = .standby ∨ s.sys.mode = .safe) (he : s.checkMan m .load len ≠ 0) :
    s.loadImage a len (some m) = s.admDone 4 a 0x13 (s.checkMan m .load len) :=
  (if_neg (fun k => h.elim k.1 k.2)).trans (if_pos he)

/-- A set of code images waits for the slot that is not in use. -/
theorem State.loadImage_staged {s : State} (a : AdmHdr) (len : Nat) {m : Manifest}
    (h : s.sys.mode = .standby ∨ s.sys.mode = .safe) (he : s.checkMan m .load len = 0) (hc : isCodeSet m = true) :
    s.loadImage a len (some m) = State.admWait { s with sec := { s.sec with
      staged := some (a, imgSetOf m (if (s.sec.img.map (·.slot)).getD 0 = 1 then 2 else 1)) } } 4 a 0 :=
  (if_neg (fun k => h.elim k.1 k.2)).trans ((if_neg (fun k => k he)).trans (if_pos hc))

/-- Any other image is used, or its content refused. -/
theorem State.loadImage_used {s : State} (a : AdmHdr) (len : Nat) {m : Manifest}
    (h : s.sys.mode = .standby ∨ s.sys.mode = .safe) (he : s.checkMan m .load len = 0) (hc : isCodeSet m = false) :
    s.loadImage a len (some m) = if (s.useImage m).2 = 0 then (s.useImage m).1.admDone 4 a 0 0
      else (s.useImage m).1.admDone 4 a 0x13 (s.useImage m).2 :=
  (if_neg (fun k => h.elim k.1 k.2)).trans ((if_neg (fun k => k he)).trans (if_neg (by simp [hc])))

/-- A single image is no set of code images. -/
theorem isCodeSet_single {m : Manifest} {n : Nat} (h : manTypes m = [n]) : isCodeSet m = false := by
  have hlen : m.entries.length = 1 := by simpa [manTypes] using congrArg List.length h
  unfold isCodeSet
  rw [hlen]
  rfl

/-- A parameter set is taken in STANDBY where its words lie in their ranges. -/
theorem State.useImage_pset {s : State} {m : Manifest} (h : manTypes m = [4]) (hm : s.sys.mode = .standby) :
    s.useImage m = if psetCheck (bytesWords (manBody m)) = 0
      then ({ s with saf := { s.saf with psetNew := some (bytesWords (manBody m)) } }, 0)
      else (s, psetCheck (bytesWords (manBody m))) := by
  unfold State.useImage
  rw [h]
  exact if_neg (fun k => k hm)

/-- The owner's keys. -/
theorem State.useImage_owner {s : State} {m : Manifest} (h : manTypes m = [5]) :
    (s.useImage m).2 = 0 ∧ (s.useImage m).1.sec.ownerSet = true ∧ (s.useImage m).1.sec.lifePend = some 2 ∧
      (s.useImage m).1.host = s.host := by
  unfold State.useImage
  rw [h]
  exact ⟨rfl, rfl, rfl, rfl⟩

/-- The end of life. -/
theorem State.useImage_life {s : State} {m : Manifest} (h : manTypes m = [6]) :
    s.useImage m = ({ s with sec := { s.sec with lifePend := some 3 } }, 0) := by
  unfold State.useImage
  rw [h]
  rfl

/-- The revocation of the first keys. -/
theorem State.useImage_revoke {s : State} {m : Manifest} (h : manTypes m = [8]) :
    s.useImage m = ({ s with sec := { s.sec with revoke := s.sec.revoke ||| 3 } }, 0) := by
  unfold State.useImage
  rw [h]
  rfl

/-- An image that is used completes at once. -/
theorem State.loadImage_done {s : State} (hr : s.roomy) (a : AdmHdr) (len : Nat) {m : Manifest} {n : Nat}
    (h : s.sys.mode = .standby ∨ s.sys.mode = .safe) (he : s.checkMan m .load len = 0) (ht : manTypes m = [n])
    (hu : (s.useImage m).2 = 0) (hh : (s.useImage m).1.host = s.host) :
    (s.loadImage a len (some m)).lastDone 4 a 0 0 ∧ (s.loadImage a len (some m)).sec = (s.useImage m).1.sec ∧
      (s.loadImage a len (some m)).saf = (s.useImage m).1.saf := by
  rw [State.loadImage_used a len h he (isCodeSet_single ht), if_pos hu]
  have hroom : (s.useImage m).1.roomy := (RoomKept.refl s).of_host (by rw [hh]; exact ⟨rfl, rfl, rfl⟩) hr
  exact ⟨State.admDone_lastDone hroom.1 4 a 0 0, State.admDone_sec _ _ _ _ _, State.admDone_saf _ _ _ _ _⟩

end Sys2Proof.Machine
end

section
open Sys2Proof Sys2Proof.Machine

/-- Settles O12: the checks of LOAD_IMAGE branch by branch; every branch but that of a code set completes at once. -/
theorem loadImageOutcomes : Obligations.LoadImageOutcomes := by
  unfold Obligations.LoadImageOutcomes
  refine ⟨fun s a len m h => ?_, fun s hroom a i hst => ⟨?_, ?_⟩⟩
  · obtain ⟨hroom, -⟩ := State.admTakes_spec h
    have hr : s.admDrop.roomy := State.admDrop_room (.refl s) hroom
    have hbegin {P : State → Prop} (m : Option Manifest) (hP : P (s.admDrop.loadImage a len.toNat m)) :
        s.ends (.loadImage a len m) P := State.admBegin_ends h rfl hP
    refine ⟨fun hs hf => hbegin _ ?_, fun hmode => ⟨hbegin _ ?_, fun he => hbegin _ ?_, fun he hc => hbegin _ ?_,
      fun he ht hs => hbegin _ ?_, fun he ht => hbegin _ ?_, fun he ht => hbegin _ ?_, fun he ht => hbegin _ ?_⟩⟩
    · rw [State.loadImage_mode (s := s.admDrop) a _ _ hs hf]
      exact State.loadImage_rejected hr a _
    · rw [State.loadImage_none (s := s.admDrop) a _ hmode]
      exact State.loadImage_rejected hr a _
    · rw [State.loadImage_refused (s := s.admDrop) a _ hmode he]
      exact State.loadImage_rejected hr a _
    · rw [State.loadImage_staged (s := s.admDrop) a _ hmode he hc]
      exact ⟨rfl, rfl, rfl⟩
    · have huse := State.useImage_pset (s := s.admDrop) ht hs
      have hused := State.loadImage_used (s := s.admDrop) a len.toNat hmode he (isCodeSet_single ht)
      split
      next hz =>
        rw [if_pos hz] at huse
        obtain ⟨hlast, -, hsaf⟩ := State.loadImage_done hr a len.toNat hmode he ht (by rw [huse]) (by rw [huse])
        exact ⟨hlast, by rw [hsaf, huse]⟩
      next hz =>
        rw [if_neg hz] at huse
        rw [hused, huse, if_neg hz]
        exact ⟨State.admDone_lastDone hr.1 4 a _ _, congrArg SafS.psetNew (State.admDone_saf s.admDrop _ _ _ _)⟩
    · have huse := State.useImage_life (s := s.admDrop) ht
      obtain ⟨hlast, hsec, -⟩ := State.loadImage_done hr a len.toNat hmode he ht (by rw [huse]) (by rw [huse])
      exact ⟨hlast, by rw [hsec, huse]⟩
    · have huse := State.useImage_revoke (s := s.admDrop) ht
      obtain ⟨hlast, hsec, -⟩ := State.loadImage_done hr a len.toNat hmode he ht (by rw [huse]) (by rw [huse])
      exact ⟨hlast, by rw [hsec, huse]; rfl⟩
    · obtain ⟨hz, howner, hlife, hhost⟩ := State.useImage_owner (s := s.admDrop) ht
      obtain ⟨hlast, hsec, -⟩ := State.loadImage_done hr a len.toNat hmode he ht hz hhost
      exact ⟨hlast, by rw [hsec, howner], by rw [hsec, hlife]⟩
  · let u := ({ s with sec := { s.sec with staged := none } }.wr SEC_IMG.PEND 1).wr SEC_IMG.PEND_SVN i.svn.toNat
    have hexec : exec (.slotReadbackDone true) s = Host.Outcome.next (u.admDone 4 a 0 0) := by
      show execSlotReadbackDone true s = _
      unfold execSlotReadbackDone
      rw [hst]
      rfl
    refine ⟨_, hexec, State.admDone_lastDone (s := u) hroom 4 a 0 0, ?_, ?_, congrArg SecS.staged (State.admDone_sec u _ _ _ _)⟩
    · rw [State.look_eq_rd _ _ (by decide) (by decide) rfl (by decide), State.admDone_rd]
      exact (State.rd_wr_other _ _ (by decide)).trans (State.rd_wr_same _ _ _)
    · rw [State.look_eq_rd _ _ (by decide) (by decide) rfl (by decide), State.admDone_rd]
      exact (State.rd_wr_same _ _ _).trans (Nat.mod_eq_of_lt i.svn.isLt)
  · refine ⟨State.admDone { s with sec := { s.sec with staged := none } } 4 a 0x13 0x0B, ?_,
      State.admDone_lastDone (s := { s with sec := { s.sec with staged := none } }) hroom 4 a _ _,
      congrArg SecS.staged (State.admDone_sec _ _ _ _ _), State.only_trans (State.only_iff.2 (by simp)) (State.only_mono (State.admDone_only _ _ _ _ _) (by decide))⟩
    show execSlotReadbackDone false s = _
    unfold execSlotReadbackDone
    rw [hst]
    rfl

end


section
/-!
SUPPORT. REVOKE (R399, R432 to R434): the notices enter the shared slots, the queue ends at `FIRST`.
-/

namespace Sys2Proof.Machine

/-- `k` more completions find a shared slot, and one after them. -/
def State.slotsFor (s : State) (k : Nat) : Prop := s.host.owed = [] ∧ s.sharedUse + k < 191

theorem State.slotsFor_room {s : State} {k : Nat} (h : s.slotsFor k) : s.sharedRoom = true := by
  obtain ⟨howed, huse⟩ := h
  unfold State.sharedRoom
  simp only [howed, List.isEmpty_nil, Bool.true_and, decide_eq_true_eq]
  omega

/-- The slots stand as long as the buffer and the list of what waits do. -/
theorem State.slotsFor_of_host {s t : State} {k : Nat} (h : s.slotsFor k) (hb : t.host.cbuf = s.host.cbuf)
    (ho : t.host.owed = s.host.owed) : t.slotsFor k := by
  unfold State.slotsFor State.sharedUse
  rw [hb, ho]
  exact h

/-- A notice takes one. -/
theorem State.slotsFor_notice {s : State} {k : Nat} (h : s.slotsFor (k + 1)) (q : QId) (a b d e g : Nat) :
    (s.notice .shared q a b d e g).slotsFor k := by
  rw [State.notice_room s .shared q a b d e g (.inr (State.slotsFor_room h))]
  obtain ⟨howed, huse⟩ := h
  refine ⟨howed, ?_⟩
  have hone : (s.complete .shared 0 [noticeRec q.val (s.posOf q a) b d e g]).sharedUse = s.sharedUse + 1 := by
    simp [State.sharedUse, State.complete]
  omega

/-- One descriptor of a REVOKE completes with REVOKED. -/
def State.revokeOne (s : State) (pre : List PreDesc) (q : QId) (base cnt : Nat) : State :=
  match pre[sub16 cnt base]? with
  | some p => s.notice .shared q cnt rREVOKED ((wAt p.words 0).toNat % 256) 0xFFFF 0
  | none => s.takeNat.2.notice .shared q cnt rREVOKED (s.takeNat.1 % 256) 0xFFFF 0

theorem State.revokeNotices_eq (s : State) (q : QId) (base start tail : Nat) :
    s.revokeNotices q base start tail = (List.range (countTo start tail)).foldl
      (fun t i => t.revokeOne (s.subq q).pre q base ((start + i) % 65536)) s := rfl

theorem State.slotsFor_revokeOne {s : State} {k : Nat} (h : s.slotsFor (k + 1)) (pre : List PreDesc) (q : QId)
    (base cnt : Nat) : (s.revokeOne pre q base cnt).slotsFor k := by
  unfold State.revokeOne
  split
  · exact State.slotsFor_notice h _ _ _ _ _ _
  · exact State.slotsFor_notice (s := s.takeNat.2) (State.slotsFor_of_host h rfl rfl) _ _ _ _ _ _

theorem State.slotsFor_foldl {α : Type} {f : State → α → State} (hf : ∀ s k a, State.slotsFor s (k + 1) → (f s a).slotsFor k)
    (l : List α) {s : State} (h : s.slotsFor l.length) : (l.foldl f s).slotsFor 0 := by
  induction l generalizing s with
  | nil => exact h
  | cons a l ih => exact ih (hf s _ a h)

/-- With a slot for every notice all of them enter, and one is left. -/
theorem State.slotsFor_revokeNotices {s : State} (q : QId) (base start tail : Nat) (h : s.slotsFor (countTo start tail)) :
    (s.revokeNotices q base start tail).slotsFor 0 := by
  rw [State.revokeNotices_eq]
  exact State.slotsFor_foldl (fun t k i ht => State.slotsFor_revokeOne ht _ _ _ _) _ (by rw [List.length_range]; exact h)

/-- The decision of an end is a matter of the sequencer. -/
theorem State.decideEnd_host (s : State) (c : Ch) : (s.decideEnd c).host = s.host := rfl

/-- The end of a motion command leaves the tails and what is held of every queue. -/
theorem State.motEnd_subq (s : State) (reason : Nat) (q : QId) :
    ((s.motEnd reason).subq q).tail = (s.subq q).tail ∧ ((s.motEnd reason).subq q).held = (s.subq q).held := by
  have hcomplete : ((s.motComplete reason 0).subq q).tail = (s.subq q).tail ∧
      ((s.motComplete reason 0).subq q).held = (s.subq q).held := by
    unfold State.motComplete
    split
    · exact ⟨rfl, rfl⟩
    · by_cases hq : mq = q
      · subst hq
        rw [State.subq_updQ_same]
        exact ⟨rfl, rfl⟩
      · rw [State.subq_updQ_other _ _ hq]
        exact ⟨rfl, rfl⟩
  unfold State.motEnd
  split
  · exact ⟨rfl, rfl⟩
  · dsimp only
    split
    · exact hcomplete
    · exact hcomplete

/-- It takes no shared slot. -/
theorem State.slotsFor_motEnd {s : State} {k : Nat} (h : s.slotsFor k) (reason : Nat) : (s.motEnd reason).slotsFor k := by
  have hcomplete : (s.motComplete reason 0).slotsFor k := by
    unfold State.motComplete
    split
    · exact h
    · obtain ⟨howed, huse⟩ := h
      refine ⟨howed, ?_⟩
      show (((s.host.cbuf ++ [_]).filter (fun g : CGroup => decide (g.owner = Owner.shared))).map
        (fun g : CGroup => g.recs.length)).sum + k < 191
      rw [List.filter_append]
      simpa [State.sharedUse] using huse
  unfold State.motEnd
  split
  · exact h
  · dsimp only
    split
    · exact State.slotsFor_of_host hcomplete rfl rfl
    · exact State.slotsFor_of_host hcomplete rfl rfl

/-- The queue after its REVOKE. -/
theorem State.revokePre_subq (s : State) (q : QId) (base f : Nat) :
    ((s.revokePre q base f).subq q).tail = f ∧ ((s.revokePre q base f).subq q).held = none := by
  unfold State.revokePre
  rw [State.subq_updQ_same]
  exact ⟨rfl, rfl⟩

/-- A channel queue that ends at `f`, before its sequencer takes note. -/
def State.revokeCut (s : State) (q : QId) (f : Nat) : State :=
  (s.revokeNotices q (s.revokeBase q) (s.revokeFrom q f) (s.subq q).tail).revokePre q (s.revokeBase q) f

theorem State.revokeCh_host (s : State) (c : Ch) (f : Nat) : (s.revokeCh c f).host = (s.revokeCut (cq c) f).host := by
  unfold State.revokeCh
  extract_lets q base running noticed cut noted
  have hcut : s.revokeCut (cq c) f = cut := rfl
  rw [hcut]
  clear_value cut
  split
  · exact noted.decideEnd_host c
  · rfl

theorem State.revokeMot_eq (s : State) (f : Nat) : s.revokeMot f =
    if s.mot.cmd.isSome && decide ((s.subq mq).done = f) then
      ((s.revokeCut mq f).motEnd rREVOKED).updQ mq (fun x => { x with done := f })
    else s.revokeCut mq f := rfl

theorem State.revokeCut_subq (s : State) (q : QId) (f : Nat) :
    ((s.revokeCut q f).subq q).tail = f ∧ ((s.revokeCut q f).subq q).held = none := State.revokePre_subq _ q _ f

/-- A channel queue ends at `f` and holds nothing back. -/
theorem State.revokeCh_subq (s : State) (c : Ch) (f : Nat) :
    ((s.revokeCh c f).subq (cq c)).tail = f ∧ ((s.revokeCh c f).subq (cq c)).held = none := by
  have hsame : (s.revokeCh c f).subq (cq c) = (s.revokeCut (cq c) f).subq (cq c) :=
    congrArg (fun h : HostS => bget h.qs (cq c)) (s.revokeCh_host c f)
  rw [hsame]
  exact s.revokeCut_subq (cq c) f

theorem State.slotsFor_updQ {s : State} {k : Nat} (h : s.slotsFor k) (q : QId) (f : SubQ → SubQ) : (s.updQ q f).slotsFor k :=
  State.slotsFor_of_host h rfl rfl

theorem State.slotsFor_revokePre {s : State} {k : Nat} (h : s.slotsFor k) (q : QId) (base f : Nat) :
    (s.revokePre q base f).slotsFor k := h.elim fun howed huse => ⟨howed, huse⟩

theorem State.slotsFor_revokeCut {s : State} {q : QId} {f : Nat}
    (h : s.slotsFor (countTo (s.revokeFrom q f) (s.subq q).tail)) : (s.revokeCut q f).slotsFor 0 := by
  have hnotices := State.slotsFor_revokeNotices q (s.revokeBase q) _ _ h
  unfold State.revokeCut
  generalize s.revokeNotices q (s.revokeBase q) (s.revokeFrom q f) (s.subq q).tail = t at hnotices
  exact State.slotsFor_revokePre hnotices q _ f

theorem State.slotsFor_revokeCh {s : State} {c : Ch} {f : Nat}
    (h : s.slotsFor (countTo (s.revokeFrom (cq c) f) (s.subq (cq c)).tail)) : (s.revokeCh c f).slotsFor 0 := by
  have hhost := s.revokeCh_host c f
  exact State.slotsFor_of_host (State.slotsFor_revokeCut h) (congrArg HostS.cbuf hhost) (congrArg HostS.owed hhost)

theorem State.retired_subq (s : State) (f : Nat) :
    ((s.updQ mq (fun x => { x with done := f })).subq mq).tail = (s.subq mq).tail ∧
    ((s.updQ mq (fun x => { x with done := f })).subq mq).held = (s.subq mq).held := by
  rw [State.subq_updQ_same]
  exact ⟨rfl, rfl⟩

/-- So does MQ. -/
theorem State.revokeMot_subq (s : State) (f : Nat) :
    ((s.revokeMot f).subq mq).tail = f ∧ ((s.revokeMot f).subq mq).held = none := by
  have hcut := s.revokeCut_subq mq f
  rw [s.revokeMot_eq]
  generalize s.revokeCut mq f = t at hcut
  obtain ⟨htail, hheld⟩ := hcut
  split
  · obtain ⟨htail', hheld'⟩ := t.motEnd_subq rREVOKED mq
    obtain ⟨htail'', hheld''⟩ := (t.motEnd rREVOKED).retired_subq f
    exact ⟨htail''.trans (htail'.trans htail), hheld''.trans (hheld'.trans hheld)⟩
  · exact ⟨htail, hheld⟩

theorem State.slotsFor_revokeMot {s : State} {f : Nat}
    (h : s.slotsFor (countTo (s.revokeFrom mq f) (s.subq mq).tail)) : (s.revokeMot f).slotsFor 0 := by
  rw [s.revokeMot_eq]
  split
  · exact State.slotsFor_updQ (State.slotsFor_motEnd (State.slotsFor_revokeCut h) _) mq _
  · exact State.slotsFor_revokeCut h

/-- The queues other than AQ are as before the end of an admin command. -/
theorem State.admDone_subq_other (s : State) (op : Nat) (a : AdmHdr) (x y : Nat) {q : QId} (h : q ≠ aq) :
    (s.admDone op a x y).subq q = s.subq q := by
  unfold State.admDone State.admEnter
  split
  · exact State.subq_updQ_other _ _ (Ne.symm h)
  · rfl

theorem State.admDrop_subq_other (s : State) {q : QId} (h : q ≠ aq) : s.admDrop.subq q = s.subq q :=
  State.subq_updQ_other _ _ (Ne.symm h)

/-- A REVOKE of a queue that can end at `f`. -/
def State.revokeAt (s : State) (q : QId) (f : Nat) : State :=
  if h : q.val < 16 then s.revokeCh ⟨q.val, h⟩ f else s.revokeMot f

theorem State.revoke_ended {s : State} (a : AdmHdr) {q : QId} {f : Nat} (h : (s.subq q).held = some f)
    (hl : before16 f (s.revokeLeast q) = false) :
    s.revoke a q f = (s.revokeAt q f).admDone 6 a 0 (countTo f (s.subq q).tail) :=
  (if_neg (fun k => k h)).trans (if_neg (by simp [hl]))

theorem State.revokeAt_subq (s : State) {q : QId} (hq : q.val ≤ 16) (f : Nat) :
    ((s.revokeAt q f).subq q).tail = f ∧ ((s.revokeAt q f).subq q).held = none := by
  unfold State.revokeAt
  split
  next h => exact State.revokeCh_subq s ⟨q.val, h⟩ f
  next h =>
    have hm : q = mq := Fin.ext (by show q.val = 16; omega)
    subst hm
    exact s.revokeMot_subq f

theorem State.slotsFor_revokeAt {s : State} {q : QId} {f : Nat} (hq : q.val ≤ 16)
    (h : s.slotsFor (countTo (s.revokeFrom q f) (s.subq q).tail)) : (s.revokeAt q f).slotsFor 0 := by
  unfold State.revokeAt
  split
  next hc => exact State.slotsFor_revokeCh (c := ⟨q.val, hc⟩) h
  next hc =>
    have hm : q = mq := Fin.ext (by show q.val = 16; omega)
    subst hm
    exact State.slotsFor_revokeMot h

end Sys2Proof.Machine
end

section
open Sys2Proof Sys2Proof.Machine

/-- Settles O13: the branches of REVOKE; the notices take their slots first, and the end of the command the next one. -/
theorem revokeEndsQueueAtFirst : Obligations.RevokeEndsQueueAtFirst := by
  unfold Obligations.RevokeEndsQueueAtFirst
  refine fun s a q first => ⟨fun h => ?_, fun m h hm => ?_⟩
  · intro i n ended
    obtain ⟨hroom, -⟩ := State.admTakes_spec h
    have hqa : i ≠ aq := fun k => by
      have : q.val = 17 := congrArg Fin.val k
      omega
    have hq5 : (BitVec.ofNat 5 q.val).toNat = q.val := by
      simp only [BitVec.toNat_ofNat]
      omega
    have hqi : Fin.ofNat 18 (BitVec.ofNat 5 q.val).toNat = i := Fin.ext (by
      rw [hq5]
      exact Nat.mod_eq_of_lt (by omega))
    have hsub : s.admDrop.subq i = s.subq i := s.admDrop_subq_other hqa
    have hmq : s.admDrop.subq mq = s.subq mq := s.admDrop_subq_other (by decide)
    have hbegin {P : State → Prop} (hP : P (s.admDrop.revoke a i first.toNat)) :
        s.ends (.revoke a (BitVec.ofNat 5 q.val) first) P := by
      refine State.admBegin_ends h rfl ?_
      rw [if_neg (by rw [hq5]; omega), hqi]
      exact hP
    have hleast : s.admDrop.revokeLeast i = s.revokeLeast i := by
      unfold State.revokeLeast
      rw [hsub]
      rfl
    have hfrom : s.admDrop.revokeFrom i first.toNat = s.revokeFrom i first.toNat := by
      unfold State.revokeFrom State.revokeBase
      rw [hmq]
      rfl
    refine ⟨fun hheld => hbegin ?_, fun hheld hbefore => hbegin ?_, fun hheld hafter => ⟨hbegin ?_, fun hslots => hbegin ?_⟩⟩
    · rw [show s.admDrop.revoke a i first.toNat = s.admDrop.admDone 6 a 0x0F 0 from if_pos (by rw [hsub]; exact hheld)]
      exact State.admBegin_done h _ _
    · rw [show s.admDrop.revoke a i first.toNat = s.admDrop.admDone 6 a 0x0E 0 from
        (if_neg (by rw [hsub]; exact fun k => k hheld)).trans (if_pos (by rw [hleast]; exact hbefore))]
      exact State.admBegin_done h _ _
    · rw [State.revoke_ended a (by rw [hsub]; exact hheld) (by rw [hleast]; exact hafter), hsub]
      refine ⟨?_, ?_⟩
      · show _ ∧ _
        rw [State.admDone_subq_other _ _ _ _ _ hqa]
        exact State.revokeAt_subq _ (Nat.le_of_lt_succ q.isLt) _
      · cases hr : (s.admDrop.revokeAt i first.toNat).sharedRoom with
        | true => exact .inl (State.admDone_lastDone hr _ _ _ _)
        | false =>
          rw [State.admDone_waits _ _ _ _ _ hr]
          exact .inr ⟨rfl, rfl⟩
    · rw [State.revoke_ended a (by rw [hsub]; exact hheld) (by rw [hleast]; exact hafter), hsub]
      refine ⟨?_, ?_⟩
      · show _ ∧ _
        rw [State.admDone_subq_other _ _ _ _ _ hqa]
        exact State.revokeAt_subq _ (Nat.le_of_lt_succ q.isLt) _
      · have howed : s.host.owed = [] := by
          have := hroom.1
          unfold State.sharedRoom at this
          simp only [Bool.and_eq_true, List.isEmpty_iff] at this
          exact this.1
        have hfree : s.admDrop.slotsFor (countTo (s.admDrop.revokeFrom i first.toNat) (s.admDrop.subq i).tail) := by
          rw [hfrom, hsub]
          exact ⟨howed, hslots⟩
        exact State.admDone_lastDone (State.slotsFor_room (State.slotsFor_revokeAt (Nat.le_of_lt_succ q.isLt) hfree)) _ _ _ _
  · refine State.admBegin_ends h rfl ?_
    rw [if_pos hm]
    exact State.admBegin_done h 2 0

end


section
/-!
SUPPORT. The mode commands (R80 to R97, R734): what each changes before its mode change is under way.
-/

namespace Sys2Proof.Machine

/-! ### Walks over channels -/

/-- What no step of a walk changes is as before the walk. -/
theorem State.forCh_proj {α : Type} (π : State → α) {f : State → Ch → State} (hf : ∀ t c, π (f t c) = π t) (s : State)
    (l : List Ch) : π (s.forCh l f) = π s := by
  induction l generalizing s with
  | nil => rfl
  | cons c l ih => exact (ih (f s c)).trans (hf s c)

/-- What the step of a channel brings about and no step takes back holds after the walk. -/
theorem State.forCh_establishes {Q : State → Prop} {f : State → Ch → State} (hkeep : ∀ t a, Q t → Q (f t a)) {c : Ch}
    (hc : ∀ t, Q (f t c)) (s : State) {l : List Ch} (hmem : c ∈ l) : Q (s.forCh l f) := by
  have hrest : ∀ (l : List Ch) (t : State), Q t → Q (t.forCh l f) := by
    intro l
    induction l with
    | nil => exact fun t h => h
    | cons a l ih => exact fun t h => ih (f t a) (hkeep t a h)
  induction l generalizing s with
  | nil => exact absurd hmem List.not_mem_nil
  | cons a l ih =>
    by_cases ha : c = a
    · subst ha
      exact hrest l _ (hc s)
    · exact ih (f s a) ((List.mem_cons.1 hmem).resolve_left ha)

theorem mem_allCh (c : Ch) : c ∈ allCh := by
  rw [allCh_eq]
  exact List.mem_finRange c

/-- A field reads alike where the register file is the same. -/
theorem State.rd_of_regs {s t : State} (h : t.regs = s.regs) (g : Fld) : t.rd g = s.rd g :=
  congrArg (fun r : RegFile => r.get g) h

theorem measClose_key {a c : Ch} (h : a ≠ c) : (CH_ISO.MEAS_CLOSE a).key ≠ (CH_ISO.MEAS_CLOSE c).key := by
  revert a c
  decide

/-! ### The commands -/

theorem State.endMeasClosures_only (s : State) : s.only s.endMeasClosures [.ch, .regs] :=
  State.forCh_only _ (fun t c k => State.only_trans (State.wr_only k (CH_ISO.MEAS_CLOSE c) 0 (by decide))
    (State.only_mono (State.updCh_only (State.only_refl _ _) c _) (by decide))) (State.only_refl _ _)

/-- The end of the measurement closures writes no other field. -/
theorem State.endMeasClosures_rd (s : State) (g : Fld) (h : ∀ c : Ch, (CH_ISO.MEAS_CLOSE c).key ≠ g.key) :
    s.endMeasClosures.rd g = s.rd g := by
  unfold State.endMeasClosures
  refine State.forCh_proj (fun t : State => t.rd g) (fun t c => ?_) s allCh
  exact (State.updStage_rd _ c _ g).trans (State.rd_wr_other t 0 (h c))

/-- The mode commands from STANDBY take a copy of β and `RNOM` and end the measurement closures (R149, R799). -/
def State.leaveStandby (s : State) (m : Mode) (op : Nat) (a : AdmHdr) (arg : Nat) : State :=
  ((s.endMeasClosures.lockCopy).goTo m).admWait op a arg

theorem State.leaveStandby_spec (s : State) (m : Mode) (op : Nat) (a : AdmHdr) (arg : Nat) :
    (s.leaveStandby m op a arg).sys = { s.sys with trans := some m } ∧
      (s.leaveStandby m op a arg).host.adm = some ⟨op, a, arg⟩ ∧
      (s.leaveStandby m op a arg).saf.beta = s.rd MET_NTC.BETA ∧ (s.leaveStandby m op a arg).saf.rnom = s.rd MET_NTC.RNOM ∧
      (s.leaveStandby m op a arg).regs = s.endMeasClosures.regs := by
  have hbeta := s.endMeasClosures_rd MET_NTC.BETA (by decide)
  have hrnom := s.endMeasClosures_rd MET_NTC.RNOM (by decide)
  have hsys : s.endMeasClosures.sys = s.sys := (s.endMeasClosures_only).2 .sys (by decide)
  unfold State.leaveStandby
  generalize s.endMeasClosures = u at hbeta hrnom hsys
  rw [← hbeta, ← hrnom, ← hsys]
  exact ⟨rfl, rfl, rfl, rfl, rfl⟩

/-- A resumed core is halted no more. -/
theorem State.resumeCores_rd (s : State) : s.resumeCores.rd DBG_STAT.HALTED = 0 ∧ s.resumeCores.rd DBG_CTL.HALT_SEQ = 0 ∧
    s.resumeCores.rd DBG_CTL.HALT_MOT = 0 ∧ s.resumeCores.rd DBG_CTL.HALT_SAF = 0 ∧ s.resumeCores.rd DBG_CTL.LE_STEP = 0 := by
  unfold State.resumeCores
  dsimp only
  refine ⟨?_, ?_, ?_, ?_, ?_⟩
  · rw [State.rd_wr_other _ _ (by decide), State.rd_wr_same]
    rfl
  · rw [State.rd_wr_other _ _ (by decide), State.rd_wr_other _ _ (by decide), State.rd_wr_other _ _ (by decide),
      State.rd_wr_other _ _ (by decide), State.rd_wr_other _ _ (by decide), State.rd_wr_same]
    rfl
  · rw [State.rd_wr_other _ _ (by decide), State.rd_wr_other _ _ (by decide), State.rd_wr_other _ _ (by decide),
      State.rd_wr_other _ _ (by decide), State.rd_wr_same]
    rfl
  · rw [State.rd_wr_other _ _ (by decide), State.rd_wr_other _ _ (by decide), State.rd_wr_other _ _ (by decide),
      State.rd_wr_same]
    rfl
  · rw [State.rd_wr_other _ _ (by decide), State.rd_wr_other _ _ (by decide), State.rd_wr_same]
    rfl

/-- The gangs are a matter of the channels. -/
theorem State.gangsOk_of_ch {s t : State} (h : t.ch = s.ch) (hg : s.gangsOk) : t.gangsOk := by
  unfold State.gangsOk State.members State.leader State.seq State.chan at hg ⊢
  rw [h]
  exact hg

/-- Steps 1 and 2 of R97: every stage opens, no measurement closure is asked for, the press and the contactor lose their
drive. -/
def State.parkBegin (s : State) : State :=
  ((if s.sys.mode = .standby then s.lockCopy else s).forCh allCh
    (fun s c => (s.protOpen c).wr (CH_ISO.MEAS_CLOSE c) 0)).motTorqueOff.kdrLow

theorem State.kdrLow_spec (s : State) : s.kdrLow.saf.kdr = false ∧ s.kdrLow.mot = s.mot ∧ s.kdrLow.ch = s.ch ∧
    s.kdrLow.sys = s.sys ∧ ∀ g : Fld, SAF_KSTAT.STATE.key ≠ g.key → s.kdrLow.rd g = s.rd g := by
  unfold State.kdrLow
  split
  · exact ⟨rfl, rfl, rfl, rfl, fun g hg => State.rd_wr_other _ _ hg⟩
  · next h => exact ⟨by simpa using h, rfl, rfl, rfl, fun _ _ => rfl⟩

/-- Without a running command the press leaves its hold. -/
theorem State.motTorqueOff_idle {s : State} (h : s.mot.cmd = none) : s.motTorqueOff.mot.gatesOff = true ∧
    s.motTorqueOff.ch = s.ch ∧ s.motTorqueOff.sys = s.sys ∧
      ∀ g : Fld, MOT_STAT.STATE.key ≠ g.key → MOT_STAT.ASHORT.key ≠ g.key → s.motTorqueOff.rd g = s.rd g := by
  unfold State.motTorqueOff
  rw [if_neg (by simp [h])]
  dsimp only
  split
  · exact ⟨rfl, rfl, rfl, fun g _ hg => State.rd_wr_other _ _ hg⟩
  · exact ⟨rfl, rfl, rfl, fun g hs hg => (State.rd_wr_other _ _ hg).trans
      (State.rd_wr_other (f := MOT_STAT.STATE) { s with mot := { s.mot with hold := .none } } 0 hs)⟩

theorem State.parkBegin_spec {s : State} (h : s.mot.cmd = none) (hg : s.gangsOk) :
    s.parkBegin.sys = s.sys ∧ (∀ c : Ch, (s.parkBegin.chan c).stage.isOpen ∧ s.parkBegin.rd (CH_ISO.MEAS_CLOSE c) = 0) ∧
      s.parkBegin.mot.gatesOff = true ∧ s.parkBegin.saf.kdr = false := by
  let u : State := if s.sys.mode = .standby then s.lockCopy else s
  let v : State := u.forCh allCh (fun s c => (s.protOpen c).wr (CH_ISO.MEAS_CLOSE c) 0)
  have hu : u.ch = s.ch ∧ u.mot = s.mot ∧ u.sys = s.sys := by
    show State.ch (if _ then _ else _) = _ ∧ State.mot (if _ then _ else _) = _ ∧ State.sys (if _ then _ else _) = _
    split <;> exact ⟨rfl, rfl, rfl⟩
  have hgu : u.gangsOk := State.gangsOk_of_ch hu.1 hg
  have hvonly : u.only v [.ch, .regs] :=
    State.forCh_only _ (fun _ c k => State.wr_only (State.only_trans k (State.only_mono (State.protOpen_only _ c)
      (by decide))) _ _ (by decide)) (State.only_refl _ _)
  have hopen (c : Ch) : (v.chan c).stage.isOpen :=
    State.forCh_opens (.refl u) allCh (fun t a => (State.protOpen_noRelease (.refl t) a).wr (CH_ISO.MEAS_CLOSE a) 0
      (by clear * -; revert a; decide))
      (fun t a ht => t.protOpen_opens (d := a) (ht.gang_eq a ▸ (hgu a).2.1)) (mem_allCh c)
  have hmeas (c : Ch) : v.rd (CH_ISO.MEAS_CLOSE c) = 0 := by
    refine State.forCh_establishes (Q := fun t => t.rd (CH_ISO.MEAS_CLOSE c) = 0) (fun t a ht => ?_) (fun t => ?_) u (mem_allCh c)
    · by_cases hk : a = c
      · subst hk
        exact (State.rd_wr_same _ _ _).trans (Nat.zero_mod _)
      · exact (State.rd_wr_other _ _ (measClose_key hk)).trans
          ((State.rd_of_regs ((State.protOpen_only t a).2 .regs (by decide)) _).trans ht)
    · rw [State.rd_wr_same]
      rfl
  obtain ⟨hoff, hch, hsys, hrd⟩ := State.motTorqueOff_idle (s := v) (by rw [hvonly.2 .mot (by decide), hu.2.1, h])
  obtain ⟨hkdr, hmot, hkch, hksys, hkrd⟩ := v.motTorqueOff.kdrLow_spec
  have hpark : s.parkBegin = v.motTorqueOff.kdrLow := rfl
  rw [hpark]
  clear_value v
  refine ⟨?_, fun c => ⟨?_, ?_⟩, ?_, hkdr⟩
  · exact hksys.trans (hsys.trans ((hvonly.2 .sys (by decide)).trans hu.2.2))
  · show State.chan (v.motTorqueOff.kdrLow) c |>.stage.isOpen
    unfold State.chan
    rw [hkch, hch]
    exact hopen c
  · refine (hkrd _ ?_).trans ((hrd _ ?_ ?_).trans (hmeas c))
    all_goals revert c; decide
  · exact (congrArg MotS.gatesOff hmot).trans hoff

/-- ENTER_PARK where it may begin. -/
theorem State.execEnterPark_begun {s : State} {a : AdmHdr} (h : s.admTakes 14 a noArgs = true)
    (hm : s.sys.mode = .standby ∨ s.sys.mode = .safe) (hcmd : s.mot.cmd = none) :
    exec (.enterPark a) s = Host.Outcome.next ((s.admDrop.parkBegin.goTo .park).admWait 14 a 0) := by
  refine congrArg Host.Outcome.next ((State.admBegin_of _ h).trans (if_neg ?_))
  rintro (⟨hs, hf⟩ | k)
  · exact hm.elim hs hf
  · have hsome : s.mot.cmd.isSome = true := k
    simp [hcmd] at hsome

/-- A mode command out of its mode. -/
theorem State.modeRefused {s : State} {op : Nat} {a : AdmHdr} {args : List Word → Bool} (h : s.admTakes op a args = true) :
    (s.admDrop.admDone op a 4 0).lastDone op a 4 0 ∧ (s.admDrop.admDone op a 4 0).sys = s.sys :=
  ⟨(State.admBegin_done h 4 0).1, (State.admBegin_done h 4 0).2.2 .sys (by decide)⟩

end Sys2Proof.Machine
end

section
open Sys2Proof Sys2Proof.Machine

/-- Settles O14: each command, once in its mode and its guard, ends with the transition under way. -/
theorem modeCommandsBeginOrAreRefused : Obligations.ModeCommandsBeginOrAreRefused := by
  unfold Obligations.ModeCommandsBeginOrAreRefused
  refine ⟨fun s a => ⟨fun h hm hg => ?_, fun h hm hg => ?_, fun len m h hm hg => ?_, fun h hm hg => ?_,
    fun h hm hsf ho ht => ?_, fun h hm hcmd hg => ?_⟩, fun s a len m => ?_⟩
  · obtain ⟨hsys, hadm, hbeta, hrnom, -⟩ := s.admDrop.leaveStandby_spec .run 9 a 0
    refine State.admBegin_ends h rfl ?_
    rw [if_neg (by exact fun k => k hm), if_neg (by show ¬ (!s.runGuard) = true; simp [hg])]
    exact ⟨(congrArg SysS.mode hsys).trans hm, congrArg SysS.trans hsys, hadm, hbeta, hrnom⟩
  · refine State.admBegin_ends h rfl ?_
    rw [if_neg (by exact fun k => k hm), if_neg (by show ¬ (!s.calm) = true; simp [hg])]
    exact ⟨hm, rfl, rfl, State.only_iff.2 (by simp [State.admWait, State.goTo, State.admDrop])⟩
  · let u := s.admDrop.wr SEC_CHALCTL.VALID 0
    obtain ⟨hsys, hadm, -, -, hregs⟩ := u.leaveStandby_spec .service 11 a (s.admDrop.authCheck m len.toNat).2
    refine State.admBegin_ends h rfl ?_
    dsimp only
    rw [if_neg (by exact fun k => k hm), if_neg (by exact fun k => k hg)]
    refine ⟨(congrArg SysS.mode hsys).trans hm, congrArg SysS.trans hsys, hadm, ?_⟩
    rw [State.look_eq_rd _ _ (by decide) (by decide) rfl (by decide)]
    exact (State.rd_of_regs hregs _).trans ((u.endMeasClosures_rd _ (by decide)).trans (State.rd_wr_same _ _ _))
  · obtain ⟨hhalted, hseq, hmot, hsaf, hstep⟩ := s.admDrop.resumeCores_rd
    refine State.admBegin_ends h rfl ?_
    rw [if_neg (by
      rintro (k | k)
      · exact k hm
      · have hcalm : (!s.calm) = true := k
        simp [hg] at hcalm)]
    refine ⟨hm, rfl, rfl, ?_, ?_, ?_, ?_, ?_⟩
    · exact (State.look_eq_rd _ _ (by decide) (by decide) rfl (by decide)).trans hhalted
    · exact (State.look_eq_rd _ _ (by decide) (by decide) rfl (by decide)).trans hseq
    · exact (State.look_eq_rd _ _ (by decide) (by decide) rfl (by decide)).trans hmot
    · exact (State.look_eq_rd _ _ (by decide) (by decide) rfl (by decide)).trans hsaf
    · exact (State.look_eq_rd _ _ (by decide) (by decide) rfl (by decide)).trans hstep
  · refine State.admBegin_ends h rfl ?_
    rw [if_neg (by exact fun k => k hm), if_neg (by exact fun k => k.elim (fun e => e hsf) (fun e => e ho)),
      if_neg (by show ¬ (!s.saf.toggled) = true; simp [ht])]
    exact ⟨hm, rfl, rfl, State.only_iff.2 (by simp [State.admWait, State.goTo, State.admDrop])⟩
  · obtain ⟨hsys, hall, hoff, hkdr⟩ := State.parkBegin_spec (s := s.admDrop) hcmd hg
    refine ⟨_, State.execEnterPark_begun h hm hcmd, ?_⟩
    generalize s.admDrop.parkBegin = u at hsys hall hoff hkdr
    refine ⟨show u.sys.mode = s.sys.mode from congrArg SysS.mode hsys, rfl, rfl, fun c => ⟨(hall c).1.1, (hall c).1.2, ?_⟩, hoff, hkdr⟩
    rw [State.look_eq_rd _ _ (by revert c; decide) (by revert c; decide) (by fin_cases c <;> rfl) (by revert c; decide)]
    exact (hall c).2
  · refine ⟨fun h hm => ?_, fun h hm => ?_, fun h hm => ?_, fun h hm => ?_, fun h hm => ?_, fun h hs hf => ?_⟩
    · refine State.admBegin_ends h rfl ?_
      rw [if_pos (by exact hm)]
      exact State.modeRefused h
    · refine State.admBegin_ends h rfl ?_
      rw [if_pos (by exact hm)]
      exact State.modeRefused h
    · obtain ⟨hroom, -⟩ := State.admTakes_spec h
      have hu : (s.admDrop.wr SEC_CHALCTL.VALID 0).roomy := State.wr_room (State.admDrop_room (.refl s)) _ _ hroom
      refine State.admBegin_ends h rfl ?_
      dsimp only
      rw [if_pos (by exact hm)]
      refine ⟨State.admDone_lastDone hu.1 _ _ _ _, State.admDone_sys _ _ _ _ _, ?_⟩
      rw [State.look_eq_rd _ _ (by decide) (by decide) rfl (by decide), State.admDone_rd, State.rd_wr_same]
      rfl
    · refine State.admBegin_ends h rfl ?_
      rw [if_pos (by exact .inl hm)]
      exact State.modeRefused h
    · refine State.admBegin_ends h rfl ?_
      rw [if_pos (by exact hm)]
      exact State.modeRefused h
    · refine State.admBegin_ends h rfl ?_
      rw [if_pos (by exact .inl ⟨hs, hf⟩)]
      exact State.modeRefused h

end


section
/-!
SUPPORT. A field record that no register has, in the place of one that a BLOCK reset of the ring clears.
-/

namespace Sys2Proof.Machine

/-- The state that a command leads to. -/
def nextState : Host.Outcome State Fault Refusal → Option State
  | .next t => some t
  | _ => none

/-- A statement about the state after a command, tested on what the command leads to. -/
theorem State.ends_test {s : State} {c : Instr} {P : State → Prop} {test : State → Bool} (h : s.ends c P)
    (himp : ∀ t, P t → test t = true) : (nextState (exec c s)).any test = true := by
  obtain ⟨t, hexec, hP⟩ := h
  rw [hexec]
  exact himp t hP

/-- The place of `RING_STAT.BYPA` with the class of a field that a warm reset keeps. -/
def strayBypass : Fld := { RING_STAT.BYPA with surv := .w }

/-- A device in STANDBY whose AQ holds RESET of the ring, with an entry of that place in its register file. -/
def strayRingDev : State :=
  { Tests.asked (Tests.up .standby) 15 0x53 with regs := (strayBypass, 0) :: (Tests.asked (Tests.up .standby) 15 0x53).regs }

theorem strayRingDev_takes : strayRingDev.admTakes 15 Tests.hdr (blockArgs 5) = true := by decide +kernel

/-- The entry stays, so that the bypass of side A does not read closed. -/
theorem strayRingDev_open :
    (nextState (exec (.resetBlock Tests.hdr 5) strayRingDev)).any (fun t => decide (t.look RING_STAT.BYPA = 1)) = false := by
  decide +kernel

end Sys2Proof.Machine
end

section
open Sys2Proof Sys2Proof.Machine

/-- Refutes O15: a BLOCK reset of the ring takes the entries of its page that survive no reset from the register file. The
statement ranges over every register file; one with an entry at the place of `BYPA` under another class keeps it, and `BYPA`
reads 0 after the reset. -/
theorem not_resetCommandsAndBlockResets : ¬ Obligations.ResetCommandsAndBlockResets := by
  unfold Obligations.ResetCommandsAndBlockResets
  intro h
  obtain ⟨hcmds, -⟩ := h
  obtain ⟨-, -, -, -, hring⟩ := hcmds strayRingDev Tests.hdr
  have htest := State.ends_test (hring strayRingDev_takes)
    (test := fun t => decide (t.look RING_STAT.BYPA = 1)) (fun _ ⟨_, _, hbyp, _⟩ => decide_eq_true hbyp)
  rw [strayRingDev_open] at htest
  exact Bool.noConfusion htest

end


section
/-!
SUPPORT. Attestation (R732): the report goes to host memory in order, by a head as one write, by a member in frames.
-/

namespace Sys2Proof.Machine

/-- The pieces of a list put together again are the list. -/
theorem chunks_flatten (k : Nat) (hk : 0 < k) (n : Nat) (ws : List Word) (h : ws.length ≤ n * k) :
    (chunks k n ws).flatten = ws := by
  induction n generalizing ws with
  | zero =>
    have hnil : ws = [] := List.length_eq_zero_iff.1 (by omega)
    rw [hnil]
    rfl
  | succ n ih =>
    unfold chunks
    split
    next he => exact (List.isEmpty_iff.1 he).symm
    next =>
      have hdrop : (ws.drop k).length ≤ n * k := by
        rw [List.length_drop]
        rw [Nat.succ_mul] at h
        omega
      rw [List.flatten_cons, ih _ hdrop, List.take_append_drop]

/-- A piece holds at most `k` words. -/
theorem chunks_length_le (k n : Nat) (ws : List Word) : ∀ p ∈ chunks k n ws, p.length ≤ k := by
  induction n generalizing ws with
  | zero => exact fun p hp => absurd hp List.not_mem_nil
  | succ n ih =>
    unfold chunks
    split
    · exact fun p hp => absurd hp List.not_mem_nil
    · intro p hp
      rcases List.mem_cons.1 hp with rfl | hp
      · rw [List.length_take]
        omega
      · exact ih _ p hp

theorem State.pWords_pos (s : State) : 0 < s.pWords := Nat.lt_of_lt_of_le Nat.one_pos (Nat.le_max_left _ _)

theorem State.pieces_flatten (s : State) (ws : List Word) : (s.pieces ws).flatten = ws := by
  refine chunks_flatten _ s.pWords_pos _ _ ?_
  rw [Nat.add_mul, Nat.one_mul, Nat.mul_comm]
  have hdiv := Nat.div_add_mod ws.length s.pWords
  have hmod := Nat.mod_lt ws.length s.pWords_pos
  omega

/-- A piece is at most P_max long, and never shorter than a word's place. -/
theorem State.pieces_le (s : State) (ws : List Word) : ∀ p ∈ s.pieces ws, 4 * p.length ≤ max 4 s.pMax := by
  intro p hp
  have hlen : p.length ≤ max 1 (s.pMax / 4) := chunks_length_le _ _ _ p hp
  omega

/-- A piece of a report as a frame of a member. -/
def State.writeFrame (s : State) (addr : Nat) (ws : List Word) : Frame := s.mkFrame 5 0 true (s.tagFor 0) addr ws

/-- A member none of whose classes has given up writes a piece in a frame that joins those that wait. -/
theorem State.hostWrite_member {s : State} (hm : s.isHead = false) (hf : s.ring.failed = []) (addr : Nat) (ws : List Word) :
    (s.hostWrite addr ws).ring.outq = s.ring.outq ++ [s.writeFrame addr ws] ∧ (s.hostWrite addr ws).ring.failed = [] ∧
      s.only (s.hostWrite addr ws) [.ring] := by
  have hclass (c : FrCls) : s.mayClass 0 c = true := by simp [State.mayClass, hf]
  unfold State.hostWrite
  rw [if_neg (by simp [hm])]
  unfold State.send
  dsimp only
  rw [if_neg (by simp [hclass])]
  exact ⟨rfl, hf, State.only_iff.2 (by simp [State.queueFrame])⟩

/-- Pieces that a member writes one after another. -/
theorem State.hostWrites_member (k addr : Nat) (l : List (List Word × Nat)) {s : State} (hm : s.isHead = false)
    (hf : s.ring.failed = []) (hk : s.pWords = k) :
    ∃ new : List Frame, (l.foldl (fun s (p, i) => s.hostWrite (addr + 4 * s.pWords * i) p) s).ring.outq =
        s.ring.outq ++ new ∧ new.map (·.payload) = l.map (·.1) ∧
      new.map (·.arg) = l.map (fun e => BitVec.ofNat 64 (addr + 4 * k * e.2)) ∧ (∀ f ∈ new, f.type = 5 ∧ f.dst = 0) ∧
      s.only (l.foldl (fun s (p, i) => s.hostWrite (addr + 4 * s.pWords * i) p) s) [.ring] := by
  induction l generalizing s with
  | nil => exact ⟨[], by simp, rfl, rfl, by simp, State.only_refl _ _⟩
  | cons e l ih =>
    obtain ⟨p, i⟩ := e
    obtain ⟨hout, hfailed, honly⟩ := State.hostWrite_member hm hf (addr + 4 * s.pWords * i) p
    have hhead : (s.hostWrite (addr + 4 * s.pWords * i) p).isHead = false := by
      unfold State.isHead State.role State.rd at hm ⊢
      rw [honly.2 .regs (by decide)]
      exact hm
    have hpw : (s.hostWrite (addr + 4 * s.pWords * i) p).pWords = k := by
      rw [← hk]
      exact congrArg (fun x => max 1 (min 256 (4 * ((x / 4 - 80) / 4) - 20) / 4))
        (State.rd_of_regs (honly.2 .regs (by decide)) SYS_TICKSTAT.INFORCE)
    obtain ⟨new, hq, hpay, harg, hall, hrest⟩ := ih hhead hfailed hpw
    refine ⟨s.writeFrame (addr + 4 * s.pWords * i) p :: new, ?_, ?_, ?_, ?_, State.only_trans honly hrest⟩
    · rw [List.foldl_cons, hq, hout, List.append_assoc]
      rfl
    · rw [List.map_cons, List.map_cons, hpay]
      rfl
    · rw [List.map_cons, List.map_cons, harg, ← hk]
      rfl
    · intro f hf
      rcases List.mem_cons.1 hf with rfl | hf
      · exact ⟨rfl, rfl⟩
      · exact hall f hf

/-- A report that a member writes. -/
theorem State.writeBig_member {s : State} (hm : s.isHead = false) (hf : s.ring.failed = []) (addr : Nat) (ws : List Word) :
    ∃ new : List Frame, (s.writeBig addr ws).ring.outq = s.ring.outq ++ new ∧ (new.map (·.payload)).flatten = ws ∧
      (∀ f ∈ new, f.type = 5 ∧ f.dst = 0 ∧ 4 * f.payload.length ≤ max 4 s.pMax) ∧
      new.map (·.arg) = (List.range new.length).map (fun i => BitVec.ofNat 64 (addr + 4 * s.pWords * i)) ∧
      s.only (s.writeBig addr ws) [.ring] := by
  obtain ⟨new, hq, hpay, harg, hall, honly⟩ := State.hostWrites_member s.pWords addr (s.pieces ws).zipIdx hm hf rfl
  have hfst : (s.pieces ws).zipIdx.map (·.1) = s.pieces ws := List.zipIdx_map_fst _ _
  have hsnd : (s.pieces ws).zipIdx.map (·.2) = List.range (s.pieces ws).length := by
    rw [List.zipIdx_map_snd, List.range_eq_range']
  have hlen : new.length = (s.pieces ws).length := by
    have := congrArg List.length (hpay.trans hfst)
    simpa using this
  have hbig : s.writeBig addr ws =
      (s.pieces ws).zipIdx.foldl (fun s (p, i) => s.hostWrite (addr + 4 * s.pWords * i) p) s := by
    unfold State.writeBig
    rw [if_neg (by simp [hm])]
  rw [hbig]
  refine ⟨new, hq, ?_, fun f hf => ⟨(hall f hf).1, (hall f hf).2, ?_⟩, ?_, honly⟩
  · rw [hpay, hfst, State.pieces_flatten]
  · refine s.pieces_le ws f.payload ?_
    rw [← hfst, ← hpay]
    exact List.mem_map_of_mem hf
  · rw [harg, hlen, ← hsnd, List.map_map]
    rfl

end Sys2Proof.Machine
end

section
open Sys2Proof Sys2Proof.Machine

/-- Settles O16: ATTEST takes the body; at the end of signing the report is written as a whole and the command completes. -/
theorem attestationReport : Obligations.AttestationReport := by
  unfold Obligations.AttestationReport
  refine ⟨fun s a addr len nonce h => ⟨fun hlen => ?_, fun hlen => ?_⟩, fun s hroom a addr body hatt => ?_⟩
  · refine State.admBegin_ends h rfl ?_
    rw [if_pos hlen]
    exact State.admBegin_done h 2 0
  · refine State.admBegin_ends h rfl ?_
    rw [if_neg (by omega)]
    exact ⟨rfl, rfl, rfl, State.only_iff.2 (by simp [State.admWait, State.admDrop])⟩
  · let u : State := { s with sec := { s.sec with attest := none } }
    let sig := (List.range 4152).map (fun i => wN (Config.sigWord s.free i))
    let v : State := { u with free := s.free + 1 }
    have hsig : sig.length = 4152 := by simp [sig]
    have hbarred (hw : s.canWrite .other = false) : exec .reportSigned s = Host.Outcome.next (u.admDone 16 a 0x12 0) := by
      show execReportSigned s = _
      unfold execReportSigned
      rw [hatt]
      exact if_pos (by show (!s.canWrite .other) = true; simp [hw])
    have hwritten (hw : s.canWrite .other = true) :
        exec .reportSigned s = Host.Outcome.next ((v.writeBig addr (body ++ sig)).admDone 16 a 0 16872) := by
      show execReportSigned s = _
      unfold execReportSigned
      rw [hatt]
      exact if_neg (by show ¬ (!s.canWrite .other) = true; simp [hw])
    have hv : s.only v [.sec, .free] := State.only_iff.2 (by simp [v, u])
    refine ⟨fun hw => ⟨_, hbarred hw, ?_, State.admDone_lastDone (s := u) hroom _ _ _ _, ?_⟩,
      fun hw => ⟨fun hhead => ⟨_, hwritten hw, ?_⟩, fun hmember hfailed => ⟨_, hwritten hw, ?_⟩⟩⟩
    · exact congrArg SecS.attest (State.admDone_sec u _ _ _ _)
    · exact State.only_trans (State.only_iff.2 (by simp [u])) (State.only_mono (u.admDone_only _ _ _ _) (by decide))
    · have hbig : v.writeBig addr (body ++ sig) = v.emit (.hostWrite addr (wordsBytes (body ++ sig))) :=
        (if_pos hhead).trans (if_pos hhead)
      rw [hbig]
      refine ⟨congrArg SecS.attest (State.admDone_sec _ _ _ _ _),
        State.admDone_lastDone (s := v.emit (.hostWrite addr (wordsBytes (body ++ sig)))) hroom _ _ _ _,
        ⟨sig, hsig, State.admDone_out _ _ _ _ _⟩, ?_⟩
      exact State.only_trans (State.only_mono hv (by decide)) (State.only_trans (State.only_iff.2 (by simp [State.emit]))
        (State.only_mono (State.admDone_only _ _ _ _ _) (by decide)))
    · obtain ⟨new, hq, hpay, hall, harg, honly⟩ := State.writeBig_member (s := v) hmember hfailed addr (body ++ sig)
      have hslots : (v.writeBig addr (body ++ sig)).sharedRoom = true := by
        unfold State.sharedRoom State.sharedUse
        rw [honly.2 .host (by decide)]
        exact hroom
      refine ⟨(congrArg SecS.attest (State.admDone_sec _ _ _ _ _)).trans (congrArg SecS.attest (honly.2 .sec (by decide))),
        State.admDone_lastDone hslots _ _ _ _, ⟨sig, new, hsig, ?_, hpay, hall, harg⟩, ?_⟩
      · rw [State.admDone_ring]
        exact hq
      · exact State.only_trans (State.only_mono hv (by decide)) (State.only_trans (State.only_mono honly (by decide))
          (State.only_mono (State.admDone_only _ _ _ _ _) (by decide)))

end


section
/-!
SUPPORT. PARK (R97 to R105): the record of a wake event and the sampled comparators.
-/

namespace Sys2Proof.Machine

/-- The wake record stays as a full reset writes it (R109). -/
theorem State.resetRecord_wake (s : State) (cause wake boots : Nat) (again : Prop) [Decidable again] :
    let t := ((s.wr SYS_RSTCAUSE.CAUSE cause).wr SYS_RSTCAUSE.WAKE wake).wr SYS_RSTCAUSE.BOOTS boots
    let t := if t.rd FLT_DUMPSTAT.STATE = 2 then t.wr FLT_DUMPSTAT.STATE 1 else t
    let t := if again ∧ t.rb FLT_DUMPSTAT.SNAP_VALID then
      ((t.wb FLT_DUMPSTAT.REQ true).wb FLT_DUMPSTAT.TRACE_LOST true).wr FLT_DUMPSTAT.STATE 1 else t
    t.rd SYS_RSTCAUSE.WAKE = wake % 8 := by
  intro t t' t''
  have ht : t.rd SYS_RSTCAUSE.WAKE = wake % 8 := (State.rd_wr_other _ _ (by decide)).trans (State.rd_wr_same _ _ _)
  have ht' : t'.rd SYS_RSTCAUSE.WAKE = wake % 8 := by
    unfold t'
    split
    · exact (State.rd_wr_other _ _ (by decide)).trans ht
    · exact ht
  unfold t''
  split
  · exact (State.rd_wr_other _ _ (by decide)).trans ((State.rd_wr_other (f := FLT_DUMPSTAT.TRACE_LOST) _ _ (by decide)).trans
      ((State.rd_wr_other (f := FLT_DUMPSTAT.REQ) _ _ (by decide)).trans ht'))
  · exact ht'

/-- The wake record can be read after a PIN reset of a device that no reset holds. -/
theorem State.fullReset_pin_wake (s : State) (cause wake : Nat) (hheld : s.sys.held = none) :
    (s.fullReset .pin cause wake false).look SYS_RSTCAUSE.WAKE = wake % 8 := by
  rw [State.look_eq_rd _ _ (by decide) (by decide) rfl (by decide)]
  unfold State.fullReset
  extract_lets old stopped running closed boots r0 sys0 sec0 flt0 fltK saf0 met0 mot0 qd0 base locks cals t1 t2 t3 t4
  rw [if_neg (by simp [hheld])]
  exact State.resetRecord_wake cals cause wake _ (RstKind.pin = .pin)

/-- A wake event of a parked device that its bit enables (R103, R105). -/
theorem State.wakeEvent_parked {s : State} (hp : s.parked = true) (k : Nat) :
    (s.wakeEvent true k).sys.held = some .pin ∧ (s.wakeEvent true k).look SYS_RSTCAUSE.CAUSE = 4 ∧
      (s.wakeEvent true k).look SYS_RSTCAUSE.WAKE = k % 8 := by
  have hheld : s.sys.held = none := by
    unfold State.parked at hp
    simpa using (Bool.and_eq_true_iff.1 hp).2
  have hwake : s.wakeEvent true k = s.fullReset .pin 4 k false := (if_neg (by simp)).trans (if_pos hp)
  rw [hwake]
  obtain ⟨-, hsys, hcause⟩ := s.fullReset_spec .pin 4 k false hheld nofun
  exact ⟨hsys, hcause, s.fullReset_pin_wake 4 k hheld⟩

/-! ### The sampled comparators -/

/-- The record that a trip in PARK leaves. -/
def State.parkRecord (s : State) (src ch : Nat) : State :=
  let s := ((s.wr FLT_LREC0.SRC src).wr FLT_LREC0.CHAN ch).wr FLT_LREC0.MODE 0
  let s := ((s.wr FLT_LREC0.REACT 16).wr FLT_LREC0.VALID 1).wr FLT_LREC1.TICK_LO s.now
  (s.wr FLT_LREC2.TICK_HI (s.now / 2 ^ 32)).wr FLT_ERRN.LOW 1

theorem State.parkRecord_only (s : State) (src ch : Nat) : s.only (s.parkRecord src ch) [.regs] :=
  State.only_iff.2 (by simp [State.parkRecord])

theorem State.cmpAt_updCmp_same (s : State) (i : CmpId) (f : CmpS → CmpS) : (s.updCmp i f).cmpAt i = f (s.cmpAt i) :=
  bget_bupd_same _ _ _

theorem State.cmpAt_updCmp_other (s : State) {i j : CmpId} (f : CmpS → CmpS) (h : i ≠ j) :
    (s.updCmp i f).cmpAt j = s.cmpAt j := bget_bupd_other _ _ h

theorem State.updCmp_only (s : State) (i : CmpId) (f : CmpS → CmpS) : s.only (s.updCmp i f) [.cmp] :=
  State.only_iff.2 (by simp [State.updCmp])

/-- What a sample does to its comparator and to the records. -/
theorem State.parkSample_eq (s : State) (i : CmpId) (src ch : Nat) (h : List CmpLevel) :
    s.parkSample i src ch h =
      let u := s.updCmp i (fun x => { x with raw := decide (h.head? = some .beyond) })
      if !(s.cmpAt i).filt ∧ 5 ≤ h.count .beyond then (u.updCmp i (fun x => { x with filt := true })).parkRecord src ch
      else if (s.cmpAt i).filt ∧ 5 ≤ h.count .safe then u.updCmp i (fun x => { x with filt := false, init := false })
      else u := rfl

theorem State.parkSample_only (s : State) (i : CmpId) (src ch : Nat) (h : List CmpLevel) :
    s.only (s.parkSample i src ch h) [.cmp, .regs] := by
  rw [State.parkSample_eq]
  dsimp only
  split
  · exact State.only_trans (State.only_mono (State.only_trans (State.updCmp_only _ _ _) (State.updCmp_only _ _ _)) (by decide))
      (State.only_mono (State.parkRecord_only _ _ _) (by decide))
  · split
    · exact State.only_mono (State.only_trans (State.updCmp_only _ _ _) (State.updCmp_only _ _ _)) (by decide)
    · exact State.only_mono (State.updCmp_only _ _ _) (by decide)

theorem State.parkSample_other (s : State) {i j : CmpId} (src ch : Nat) (h : List CmpLevel) (hij : i ≠ j) :
    (s.parkSample i src ch h).cmpAt j = s.cmpAt j := by
  rw [State.parkSample_eq]
  dsimp only
  split
  · refine (congrArg (fun c : Vector CmpS 72 => bget c j) ((State.parkRecord_only _ src ch).2 .cmp (by decide))).trans ?_
    exact (State.cmpAt_updCmp_other _ _ hij).trans (State.cmpAt_updCmp_other _ _ hij)
  · split
    · exact (State.cmpAt_updCmp_other _ _ hij).trans (State.cmpAt_updCmp_other _ _ hij)
    · exact State.cmpAt_updCmp_other _ _ hij

/-- Five of seven samples beyond the threshold leave the comparator tripped (R102). -/
theorem State.parkSample_trips (s : State) (i : CmpId) (src ch : Nat) {h : List CmpLevel} (hlen : h.length ≤ 7)
    (hb : 5 ≤ h.count .beyond) : ((s.parkSample i src ch h).cmpAt i).filt = true := by
  have hsafe : ¬ 5 ≤ h.count .safe := by
    have hsum : h.count .beyond + h.count .safe ≤ h.length := by
      clear hlen hb
      induction h with
      | nil => simp
      | cons a h ih => cases a <;> simp [List.count_cons] <;> omega
    omega
  rw [State.parkSample_eq]
  dsimp only
  split
  · refine (congrArg (fun c : Vector CmpS 72 => (bget c i).filt)
      ((State.parkRecord_only _ src ch).2 .cmp (by decide))).trans ?_
    exact congrArg CmpS.filt (State.cmpAt_updCmp_same _ _ _)
  next hno =>
    rw [if_neg (fun k => hsafe k.2), State.cmpAt_updCmp_same]
    simpa [hb] using hno

/-- The levels of a park tick in the order of the comparators. -/
def parkLevels (i : ParkIn) : List CmpLevel :=
  (List.range 16).map (fun k => i.ov.getD k .band) ++ (List.range 16).map (fun k => i.uv.getD k .band)

/-- The samples of a place in the order in which they were taken, the last seven. -/
def State.parkSeen (s : State) (e : CmpLevel × Nat) : List CmpLevel := keep 7 (e.1 :: s.sys.parkHist.getD e.2 [])

/-- The park tick: the sampled comparators of the channels, that of VM, that of VB. -/
theorem State.parkTick_eq {s : State} (h : s.parked = true) (i : ParkIn) :
    ∃ (hs : List (List CmpLevel)) (l : List ((CmpId × Nat × Nat) × List CmpLevel)),
      exec (.parkTick i) s = Host.Outcome.next
        (((l.foldl (fun (s : State) e => s.parkSample e.1.1 e.1.2.1 e.1.2.2 e.2)
          { s with sys := { s.sys with parkHist := hs } }).parkSample 68 68 0 (s.parkSeen (i.vm, 32))).parkSample 69 68 0
            (s.parkSeen (i.vb, 33))) := by
  let chans : List (CmpId × Nat × Nat) :=
    allCh.map (fun c => (chCmp c 2, 14, c.val)) ++ allCh.map (fun c => (chCmp c 3, 4, c.val))
  let seen := (parkLevels i).zipIdx.map s.parkSeen
  have hlevels : (parkLevels i).length = 32 := by simp [parkLevels]
  have hseen : ((parkLevels i) ++ [i.vm, i.vb]).zipIdx.map s.parkSeen = seen ++ [s.parkSeen (i.vm, 32), s.parkSeen (i.vb, 33)] := by
    rw [List.zipIdx_append, List.map_append, hlevels]
    rfl
  have hzip : parkCmps.zip (seen ++ [s.parkSeen (i.vm, 32), s.parkSeen (i.vb, 33)]) =
      chans.zip seen ++ [((68, 68, 0), s.parkSeen (i.vm, 32)), ((69, 68, 0), s.parkSeen (i.vb, 33))] :=
    List.zip_append (l₁ := chans) (by simp [chans, seen, hlevels, allCh])
  refine ⟨seen ++ [s.parkSeen (i.vm, 32), s.parkSeen (i.vb, 33)], chans.zip seen, ?_⟩
  show execParkTick i s = _
  unfold execParkTick
  rw [if_neg (by simp [h])]
  have hall : ((((List.range 16).map (fun k => i.ov.getD k .band) ++ (List.range 16).map (fun k => i.uv.getD k .band) ++
      [i.vm, i.vb]).zipIdx).map (fun (l, k) => keep 7 (l :: s.sys.parkHist.getD k []))) =
      seen ++ [s.parkSeen (i.vm, 32), s.parkSeen (i.vb, 33)] := hseen
  dsimp only
  rw [hall, hzip, List.foldl_append, List.foldl_cons, List.foldl_cons, List.foldl_nil]

theorem State.parkSeen_length (s : State) (e : CmpLevel × Nat) : (s.parkSeen e).length ≤ 7 := by
  unfold State.parkSeen keep
  rw [List.length_take]
  omega

end Sys2Proof.Machine
end

section
open Sys2Proof Sys2Proof.Machine

/-- Settles O17: the end of the entry, the wakes as PIN resets, and the samples of a park tick. -/
theorem parkEntryTickAndWake : Obligations.ParkEntryTickAndWake := by
  unfold Obligations.ParkEntryTickAndWake
  refine ⟨fun s hdone hmode hbuf hwake => ?_, fun s hp => ⟨fun hon => ?_, fun hon => ?_, fun r hon => ?_, fun i => ?_,
    fun i hvm hcount => ?_⟩⟩
  · let u := (s.wr RING_STAT.BYPA 1).wr RING_STAT.BYPB 1
    have hexec : exec .parkEntryFinish s = Host.Outcome.next (({ u with
        saf := { u.saf with cen := false, ien := false, men := false, pass := 0 }
        sys := { u.sys with mode := .park, trans := none, parkHist := [], tickOut := false } } : State).wr FLT_ERRN.LOW 0) := by
      show execParkEntryFinish s = _
      unfold execParkEntryFinish
      rw [if_neg (by simp [hdone, hmode, hbuf])]
      show Host.Outcome.next (match s.sys.wake with | some k => _ | none => _) = _
      rw [hwake]
    refine ⟨_, hexec, rfl, ?_, ?_, rfl, rfl, rfl⟩
    · rw [State.look_eq_rd _ _ (by decide) (by decide) rfl (by decide), State.rd_wr_other _ _ (by decide)]
      exact (State.rd_wr_other (f := RING_STAT.BYPB) (s.wr RING_STAT.BYPA 1) 1 (by decide)).trans (State.rd_wr_same s _ _)
    · rw [State.look_eq_rd _ _ (by decide) (by decide) rfl (by decide), State.rd_wr_other _ _ (by decide)]
      exact State.rd_wr_same (s.wr RING_STAT.BYPA 1) RING_STAT.BYPB 1
  · refine ⟨_, congrArg Host.Outcome.next (congrArg (fun b => s.wakeEvent b 1) hon), ?_⟩
    exact State.wakeEvent_parked hp 1
  · refine ⟨_, congrArg Host.Outcome.next (congrArg (fun b => s.wakeEvent b 2) hon), ?_⟩
    exact State.wakeEvent_parked hp 2
  · cases r with
    | a =>
      refine ⟨_, congrArg Host.Outcome.next (congrArg (fun b => s.wakeEvent b 3) hon), ?_⟩
      exact State.wakeEvent_parked hp 3
    | b =>
      refine ⟨_, congrArg Host.Outcome.next (congrArg (fun b => s.wakeEvent b 4) hon), ?_⟩
      exact State.wakeEvent_parked hp 4
  · obtain ⟨hs, l, hexec⟩ := State.parkTick_eq hp i
    have hfold := State.foldl_only (s := { s with sys := { s.sys with parkHist := hs } }) (ps := [.cmp, .regs])
      (f := fun (s : State) (e : (CmpId × Nat × Nat) × List CmpLevel) => s.parkSample e.1.1 e.1.2.1 e.1.2.2 e.2) l
      (fun t e k => State.only_trans k (t.parkSample_only _ _ _ _)) (State.only_refl _ _)
    have hall := State.only_trans (State.only_trans hfold (State.parkSample_only _ 68 68 0 (s.parkSeen (i.vm, 32))))
      (State.parkSample_only _ 69 68 0 (s.parkSeen (i.vb, 33)))
    refine ⟨_, hexec, ?_, State.only_trans (State.only_iff.2 (by simp)) (State.only_mono hall (by decide))⟩
    unfold State.parked
    rw [hall.2 .sys (by decide)]
    exact hp
  · obtain ⟨hs, l, hexec⟩ := State.parkTick_eq hp i
    refine ⟨_, hexec, ?_⟩
    show (State.cmpAt _ 68).filt = true
    rw [State.parkSample_other _ (i := 69) _ _ _ (by decide)]
    refine State.parkSample_trips _ _ _ _ (s.parkSeen_length _) ?_
    have hcons : s.parkSeen (i.vm, 32) = .beyond :: (s.sys.parkHist.getD 32 []).take 6 := by
      unfold State.parkSeen keep
      rw [hvm]
      rfl
    rw [hcons, List.count_cons_self]
    omega

end


section
/-!
SUPPORT. A written value that waits under a field record that no register has.
-/

namespace Sys2Proof.Machine

/-- A field record of the stage setup of channel 0 whose place lies far outside its word: at that of `LATCH` of the
short-circuit comparator. -/
def strayLatch : Fld := ⟨0x8000, (0xa000 - 0x8000) * 32 + 13, 1, .rwl, 0, .none, 0, 1⟩

/-- A device whose short-circuit comparator of channel 0 holds its latched bit, with a written value of that record. -/
def strayLatchDev : State :=
  { ((Tests.up .run).wr (CMP_CFG.LATCH 0) 1).updCmp 0 (fun _ => ⟨false, false, false, true⟩) with
    written := [(strayLatch, 0)] }

theorem strayLatchDev_latched : ((strayLatchDev.cmpAt (chCmp 0 0)).lat && ((strayLatchDev.cmpAt (chCmp 0 0)).filt ||
    strayLatchDev.rb (CMP_CFG.LATCH (chCmp 0 0)))) = true := by decide +kernel

/-- The value comes into force as `LATCH` = 0, and the latched bit clears. -/
theorem strayLatchDev_clears :
    (nextState (exec (.pwmPeriodStart ⟨0, false⟩) strayLatchDev)).any (fun t => (t.cmpAt (chCmp 0 0)).lat) = false := by
  decide +kernel

end Sys2Proof.Machine
end

section
open Sys2Proof Sys2Proof.Machine

/-- Refutes O18: the statement ranges over every list of written values. One whose field record counts as stage setup but has
the place of `LATCH` of a comparator changes that bit as the period begins, and with it which latched bits clear. -/
theorem not_pwmPeriodStartAndDriveAdaptation : ¬ Obligations.PwmPeriodStartAndDriveAdaptation := by
  unfold Obligations.PwmPeriodStartAndDriveAdaptation
  intro h
  obtain ⟨hstart, -⟩ := h strayLatchDev 0
  have htest := State.ends_test (hstart false) (test := fun t => (t.cmpAt (chCmp 0 0)).lat)
    (fun t ⟨_, _, _, _, hlat, _⟩ => (hlat 0).trans strayLatchDev_latched)
  rw [strayLatchDev_clears] at htest
  exact Bool.noConfusion htest

end


section
/-!
SUPPORT. Chamois (R158 to R160): a trip that the step survives.
-/

namespace Sys2Proof.Machine

/-- What a trip does before it is judged: the cut of the period, its count, the supervision suspended. -/
def State.tripped (s : State) (c : Ch) (t : Half) : State :=
  ((s.updStage c (fun x => { x with
    cut := true, trip := true, tripAt := some (s.cycleAt t), tripRun := x.tripRun + 1 })).incSat
      (CH_PCNT.SC_CNT c)).updLoop c LoopS.suspend

/-- A trip of a channel whose PWM runs, the first of its period. -/
theorem State.chamois_eq {s : State} {c : Ch} (t : Half) (hg : (s.chan c).stage.gates = true)
    (ht : (s.chan c).stage.trip = false) : s.chamois c t =
      let u := s.tripped c t
      let u := if decide (u.rd (CH_SC.SC_LIMIT c) ≤ (u.chan c).stage.tripRun) then u.faultStop 1 c true else u
      if s.busSc c (s.cycleAt t) then u.raiseBusSc else u := by
  unfold State.chamois
  dsimp only
  rw [if_neg (by simp [hg, ht])]
  rfl

/-- Any other trip is none. -/
theorem State.chamois_none {s : State} {c : Ch} (t : Half)
    (h : (s.chan c).stage.gates = false ∨ (s.chan c).stage.trip = true) : s.chamois c t = s :=
  if_pos (by rcases h with h | h <;> simp [h])

theorem key_scCnt_scLimit (c : Ch) : (CH_PCNT.SC_CNT c).key ≠ (CH_SC.SC_LIMIT c).key := by
  revert c
  decide

/-- The channel after a trip. -/
theorem State.tripped_chan (s : State) (c : Ch) (t : Half) : (s.tripped c t).chan c =
    { s.chan c with
      stage := { (s.chan c).stage with
        cut := true, trip := true, tripAt := some (s.cycleAt t), tripRun := (s.chan c).stage.tripRun + 1 }
      loop := (s.chan c).loop.suspend } := by
  unfold State.tripped State.updLoop State.updStage
  rw [State.chan_updCh_same]
  exact congrArg (fun x : Chan => { x with loop := x.loop.suspend }) (State.chan_updCh_same s c _)

theorem State.tripped_chBut (s : State) (c : Ch) (t : Half) : s.chBut (s.tripped c t) [c] := by
  intro d hd
  have hcd : c ≠ d := fun e => hd (by simp [e])
  exact (State.chan_updCh_other _ _ hcd).trans (State.chan_updCh_other s _ hcd)

theorem State.tripped_regs (s : State) (c : Ch) (t : Half) :
    (s.tripped c t).rd (CH_PCNT.SC_CNT c) = satU (CH_PCNT.SC_CNT c).w (s.rd (CH_PCNT.SC_CNT c) + 1) ∧
      s.regsBut (s.tripped c t) [CH_PCNT.SC_CNT c] ∧ s.only (s.tripped c t) [.ch, .regs] := by
  refine ⟨?_, ?_, State.only_iff.2 (by simp [State.tripped])⟩
  · refine (State.rd_wr_same _ _ _).trans (Nat.mod_eq_of_lt ?_)
    unfold satU
    have := Nat.two_pow_pos (CH_PCNT.SC_CNT c).w
    omega
  · exact fun g hg => State.rd_wr_other _ _ (hg _ (by simp))

/-- A trip that neither persists nor meets one of another gang goes no further. -/
theorem State.chamois_cuts {s : State} {c : Ch} (t : Half) (hg : (s.chan c).stage.gates = true)
    (ht : (s.chan c).stage.trip = false) (hbus : s.busSc c (s.cycleAt t) = false)
    (hrun : (s.chan c).stage.tripRun + 1 < s.rd (CH_SC.SC_LIMIT c)) : s.chamois c t = s.tripped c t := by
  have hlimit : (s.tripped c t).rd (CH_SC.SC_LIMIT c) = s.rd (CH_SC.SC_LIMIT c) :=
    State.rd_wr_other _ _ (key_scCnt_scLimit c)
  rw [State.chamois_eq t hg ht]
  dsimp only
  rw [hbus, hlimit, s.tripped_chan c t, if_neg (by simp), if_neg (by simpa using hrun)]

end Sys2Proof.Machine
end

section
open Sys2Proof Sys2Proof.Machine

/-- Settles O19: a trip below its limit is the cut, the count and the suspension, and nothing else. -/
theorem chamoisTripCutsThePeriod : Obligations.ChamoisTripCutsThePeriod := by
  unfold Obligations.ChamoisTripCutsThePeriod
  refine fun s c t => ⟨?_, fun h => congrArg Host.Outcome.next (State.chamois_none t h), rfl, rfl⟩
  intro hg ht hbus hrun cuts
  have hcuts : cuts (s.tripped c t) := by
    have hchan := s.tripped_chan c t
    obtain ⟨hcnt, hbut, honly⟩ := s.tripped_regs c t
    have hseq : (s.tripped c t).seq c = s.seq c := (congrArg Chan.seq hchan).trans rfl
    exact ⟨congrArg (fun x : Chan => x.stage.cut) hchan, congrArg (fun x : Chan => x.stage.trip) hchan,
      congrArg (fun x : Chan => x.stage.tripRun) hchan, (congrArg (fun x : Chan => x.stage.gates) hchan).trans hg,
      congrArg (fun x : Chan => x.stage.tripAt) hchan, congrArg (fun x : Chan => x.loop.feSusp) hchan,
      congrArg (fun x : Chan => x.loop.feCnt) hchan, hcnt, hseq, s.tripped_chBut c t, honly, hbut⟩
  have hexec : exec (.chamoisTrip ⟨c, t⟩) s = Host.Outcome.next (s.tripped c t) :=
    congrArg Host.Outcome.next (State.chamois_cuts t hg ht hbus hrun)
  exact ⟨⟨_, hexec, hcuts⟩, ⟨_, hexec, hcuts⟩⟩

end


section
/-!
SUPPORT. Faults that stop a gang (R153, R159 to R163, R194): what is off stays off through every reaction, resets among
them, and the fault turns the gates of its gang off before it is raised.
-/

namespace Sys2Proof.Machine

/-! ### Off stays off -/

/-- From `s` to `t` no gate goes on and no open stage closes; the gangs are the same, or every stage is open. -/
structure Stilled (s t : State) : Prop where
  gates : ∀ d : Ch, (s.chan d).stage.gates = false → (t.chan d).stage.gates = false
  iso : ∀ d : Ch, (s.chan d).stage.iso = .opened → (t.chan d).stage.iso = .opened
  gang : (∀ d : Ch, (t.seq d).lead = (s.seq d).lead ∧ (t.seq d).size = (s.seq d).size) ∨
    ∀ d : Ch, (t.chan d).stage.isOpen

namespace Stilled

theorem stage {s t : State} (h : Stilled s t) (d : Ch) (ho : (s.chan d).stage.isOpen) : (t.chan d).stage.isOpen :=
  ⟨h.gates d ho.1, h.iso d ho.2⟩

theorem of_ch {s t : State} (h : t.ch = s.ch) : Stilled s t := by
  have hchan (d : Ch) : t.chan d = s.chan d := congrArg (fun v : Vector Chan 16 => bget v d) h
  exact ⟨fun d k => by rw [hchan]; exact k, fun d k => by rw [hchan]; exact k,
    .inl fun d => by unfold State.seq; rw [hchan]; exact ⟨rfl, rfl⟩⟩

theorem refl (s : State) : Stilled s s := of_ch rfl

theorem trans {s t u : State} (h : Stilled s t) (k : Stilled t u) : Stilled s u where
  gates d := k.gates d ∘ h.gates d
  iso d := k.iso d ∘ h.iso d
  gang := by
    rcases k.gang with hk | hk
    · rcases h.gang with hh | hh
      · exact .inl fun d => ⟨(hk d).1.trans (hh d).1, (hk d).2.trans (hh d).2⟩
      · exact .inr fun d => k.stage d (hh d)
    · exact .inr hk

theorem of_only {s t u : State} (h : Stilled s t) {ps : List Part} (ho : t.only u ps) (hp : .ch ∉ ps) : Stilled s u :=
  h.trans (of_ch (ho.2 .ch hp))

theorem of_reacted {s t : State} (h : Reacted s t) : Stilled s t :=
  ⟨fun d => (h.chan d).gates, fun d => (h.chan d).iso, .inl fun d => ⟨(h.chan d).lead, (h.chan d).size⟩⟩

theorem ite {s t u : State} {p : Prop} [Decidable p] (h : Stilled s t) (k : Stilled s u) :
    Stilled s (if p then t else u) := by
  split
  · exact h
  · exact k

theorem same {s t u : State} (h : Stilled s t) (hu : u.ch = t.ch) : Stilled s u := h.trans (of_ch hu)

/-- A change of a channel that leaves its gang, turns nothing on and closes nothing. -/
theorem updCh {s t : State} (h : Stilled s t) (c : Ch) (f : Chan → Chan)
    (hgates : (t.chan c).stage.gates = false → (f (t.chan c)).stage.gates = false)
    (hopen : (t.chan c).stage.iso = .opened → (f (t.chan c)).stage.iso = .opened)
    (hgang : (f (t.chan c)).seq.lead = (t.seq c).lead ∧ (f (t.chan c)).seq.size = (t.seq c).size) :
    Stilled s (t.updCh c f) := by
  have hchan (d : Ch) : (t.updCh c f).chan d = t.chan d ∨ (d = c ∧ (t.updCh c f).chan d = f (t.chan c)) := by
    by_cases hd : c = d
    · subst hd
      exact .inr ⟨rfl, State.chan_updCh_same _ _ _⟩
    · exact .inl (State.chan_updCh_other _ _ hd)
  refine h.trans ⟨fun d k => ?_, fun d k => ?_, .inl fun d => ?_⟩
  · rcases hchan d with e | ⟨rfl, e⟩ <;> rw [e]
    · exact k
    · exact hgates k
  · rcases hchan d with e | ⟨rfl, e⟩ <;> rw [e]
    · exact k
    · exact hopen k
  · unfold State.seq
    rcases hchan d with e | ⟨rfl, e⟩ <;> rw [e]
    · exact ⟨rfl, rfl⟩
    · exact hgang

theorem forCh {s t : State} {f : State → Ch → State} (l : List Ch) (k : ∀ t c, Stilled t (f t c)) (h : Stilled s t) :
    Stilled s (t.forCh l f) := by
  induction l generalizing t with
  | nil => exact h
  | cons a l ih => exact ih (h.trans (k t a))

end Stilled

/-- A full reset opens every stage, or does nothing. -/
theorem State.fullReset_stilled (s : State) (k : RstKind) (cause wake : Nat) (cut : Bool) :
    Stilled s (s.fullReset k cause wake cut) := by
  rcases s.fullReset_cases k cause wake cut with hsame | ⟨⟨hstage, -, -⟩, -⟩
  · rw [hsame]
    exact .refl s
  · exact ⟨fun d _ => (hstage d).1, fun d _ => (hstage d).2, .inr hstage⟩

theorem State.chipReset_stilled (s : State) (cause : Nat) : Stilled s (s.chipReset cause) := by
  unfold State.chipReset
  split
  · extract_lets abandoned opened off saf low flt
    have habandon : Stilled s abandoned := (Stilled.refl s).of_only s.blockAbandon_only (by decide)
    have hoff : Reacted abandoned off := .motGatesOff (.foldl _ (fun _ c k => k.protOpen c) (.refl _))
    have hboth : Stilled s off := habandon.trans (.of_reacted hoff)
    clear_value off
    exact hboth.same rfl
  · exact s.fullReset_stilled _ _ _ _

/-- One channel of a quad in its BLOCK reset. -/
def State.quadResetCh (s : State) (c : Ch) : State :=
  let t := (s.failStep c rINT 0).protOpen c
  let x := t.seq c
  let t := t.updCh c (fun y => { y with
    stage := { Stage.reset with iso := .opened }, loop := LoopS.reset, met := { y.met with snap := [] }
    seq := { ChanS.reset with run := x.run, cur := x.cur, lead := x.lead, size := x.size } })
  let t := { t with host := { t.host with reads := t.host.reads.filter (fun r => decide (r.q ≠ cq c)) } }
  t.updQ (cq c) (fun y => { y with pre := [], fetched := (x.cur + 1) % 65536 })

theorem State.quadResetCh_stilled (s : State) (c : Ch) : Stilled s (s.quadResetCh c) := by
  have hopened : Stilled s ((s.failStep c rINT 0).protOpen c) := .of_reacted (.protOpen (.failStep (.refl s) c rINT 0) c)
  unfold State.quadResetCh
  extract_lets +onlyGivenNames t x
  have hx : x = t.seq c := rfl
  have ht : Stilled s t := hopened
  clear_value x t
  subst hx
  extract_lets +onlyGivenNames _ _ reset
  have hreset : Stilled s reset := ht.updCh c _ (fun _ => rfl) (fun _ => rfl) ⟨rfl, rfl⟩
  exact hreset.same rfl

/-- A BLOCK reset of a quad opens its stages and leaves the others. -/
theorem State.resetQuad_stilled (s : State) (q : Quad) (src : Nat) (byFault : Bool) :
    Stilled s (s.resetQuad q src byFault) := by
  unfold State.resetQuad
  extract_lets +onlyGivenNames s1
  have hs1 : Stilled s s1 :=
    ((Stilled.refl s).of_only s.blockAbandon_only (by decide)).of_only (State.event_only _ _ _ _) (by decide)
  clear_value s1
  extract_lets +onlyGivenNames s2
  have hs2 : Stilled s s2 := hs1.of_only (s1.traceStop_only q) (by decide)
  clear_value s2
  extract_lets +onlyGivenNames _ _ s3
  have hs3 : Stilled s s3 := hs2.trans (.forCh (f := State.quadResetCh) _ State.quadResetCh_stilled (.refl s2))
  clear_value s3
  extract_lets +onlyGivenNames s4 load s5
  have hs5 : Stilled s s5 := hs3.same rfl
  clear_value s5
  clear_value load
  rcases load with _ | ⟨_ | _⟩
  · exact hs5
  · next adm =>
    cases adm with
    | none => exact hs5
    | some a => exact .ite (hs5.of_only (State.admDone_only _ _ _ _ _) (by decide)) hs5
  · exact hs5

theorem State.resetRing_stilled (s : State) (src : Nat) (byFault : Bool) : Stilled s (s.resetRing src byFault) := by
  unfold State.resetRing
  extract_lets +onlyGivenNames s1
  have hs1 : Stilled s s1 :=
    ((Stilled.refl s).of_only s.blockAbandon_only (by decide)).of_only (State.event_only _ _ _ _) (by decide)
  clear_value s1
  extract_lets +onlyGivenNames r
  extract_lets +onlyGivenNames _ s2
  have hs2 : Stilled s s2 := hs1.same rfl
  clear_value s2
  extract_lets +onlyGivenNames _ s3
  have hs3 : Stilled s s3 := .ite hs2 (hs2.same rfl)
  clear_value s3
  exact hs3.same rfl

/-- A raise leaves off what is off, whatever its reaction. -/
theorem State.raiseAs_stilled (s : State) (n : Src) (c : Ch) (x : SafeCause) (hlisted : srcListed n.val = true) :
    Stilled s (s.raiseAs n c x) := by
  by_cases hact : (s.src n).act &&& actBit n c = 0
  · rw [State.raiseAs_new s n c x hlisted hact]
    have hreport : Reacted s (s.report n c) :=
      (Reacted.updSrc (.refl s) n _ (fun y => y.grown_raised _)).reported (s.report_reported n c)
    unfold State.react
    extract_lets asked
    have hasked : Stilled s asked := .of_reacted (.ite (hreport.safeReq x _) hreport)
    clear_value asked
    split
    · exact hasked.trans (asked.chipReset_stilled 5)
    · split
      · split
        · exact hasked.trans (asked.resetQuad_stilled _ _ _)
        · exact hasked.trans (.of_ch (asked.resetMot_spec _ _).1)
        · exact hasked.trans (asked.resetRing_stilled _ _)
      · exact hasked
  · rw [State.raiseAs_again s n c x hlisted hact]
    have hholds : Reacted s (s.updSrc n (fun y => { y with cond := y.cond ||| actBit n c })) :=
      .updSrc (.refl s) n _ (fun y => y.grown_cond _)
    exact .of_reacted (.ite (hholds.safeReq x _) hholds)

/-- So does the raise of a channel fault with its latched record. -/
theorem State.chRaise_stilled (s : State) (n : Src) (c : Ch) (hlisted : srcListed n.val = true) :
    Stilled s (s.chRaise n c) := by
  unfold State.chRaise
  refine Stilled.trans (t := match pfltFld c n.val with | some f => s.wr f 1 | none => s) ?_
    (State.raiseAs_stilled _ n c _ hlisted)
  split <;> exact .of_ch rfl

/-! ### The source is active -/

/-- A channel source whose reaction resets nothing is active in its place after its raise. -/
theorem State.raise_activeIn {s : State} {n : Src} {c : Ch} (hq : s.quiet n) (hlisted : srcListed n.val = true)
    (hchan : isChanSrc n = true) : (s.raise n c).activeIn n c = true := by
  have hbit : actBit n c = chBit c := if_pos hchan
  have hset : (actBit n c).getLsbD c.val = true := by rw [hbit, getLsbD_chBit]; simp
  by_cases hact : (s.src n).act &&& actBit n c = 0
  · exact ((s.raiseAs_act n c (srcCause n) hq hlisted).2 hact).1 c.val hset
  · have hgrown := (Reacted.raiseAs (.refl s) n c (srcCause n) hq).src n
    refine hgrown.act c.val ?_
    by_contra hoff
    refine hact (BitVec.eq_of_getLsbD_eq fun i hi => ?_)
    have hplace : (chBit c).getLsbD i = decide (i = c.val) := by
      rw [getLsbD_chBit c ⟨i, hi⟩]
      simp [Fin.ext_iff, eq_comm]
    rw [BitVec.getLsbD_and, hbit, hplace]
    by_cases hi' : i = c.val
    · subst hi'
      simpa using hoff
    · simp [hi']

theorem State.chRaise_activeIn {s : State} {n : Src} {c : Ch} (hq : s.quiet n) (hlisted : srcListed n.val = true)
    (hchan : isChanSrc n = true) : (s.chRaise n c).activeIn n c = true := by
  unfold State.chRaise
  split
  · exact State.raise_activeIn hq hlisted hchan
  · exact State.raise_activeIn hq hlisted hchan

/-- A quiet raise takes no source back. -/
theorem State.raise_activeIn_mono {s : State} {n m : Src} {c d : Ch} (hq : s.quiet m) (hlisted : srcListed m.val = true)
    (h : s.activeIn n c = true) : (s.raise m d).activeIn n c = true :=
  ((Reacted.raiseAs (.refl s) m d (srcCause m) hq).src n).act c.val h

/-! ### The stop of a gang -/

/-- Every channel of a gang finds itself in it, and the leader's gang is its own. -/
theorem State.gang_leader {s : State} (hg : s.gangsOk) (c : Ch) : s.gang (s.leader c) = s.gang c := by
  have hlead : s.leader (s.leader c) = s.leader c := by
    obtain ⟨hnone, -⟩ := hg c
    show ((s.seq (s.leader c)).lead).getD (s.leader c) = s.leader c
    rw [hnone]
    rfl
  unfold State.gang
  rw [hlead]

theorem State.gang_same {s t : State} (h : ∀ d : Ch, (t.seq d).lead = (s.seq d).lead ∧ (t.seq d).size = (s.seq d).size)
    (c : Ch) : t.gang c = s.gang c := by
  have hleader : t.leader c = s.leader c := by
    unfold State.leader
    rw [(h c).1]
  unfold State.gang State.members
  rw [hleader, (h _).2]

/-- The gates of the gang go off. -/
theorem State.forCh_gatesOff {f : State → Ch → State} (hstill : ∀ t a, Stilled t (f t a))
    (hoff : ∀ t a, ((f t a).chan a).stage.gates = false) (s : State) {l : List Ch} {d : Ch} (hd : d ∈ l) :
    ((s.forCh l f).chan d).stage.gates = false :=
  State.forCh_establishes (Q := fun t => (t.chan d).stage.gates = false) (fun t a h => (hstill t a).gates d h)
    (fun t => hoff t d) s hd

theorem State.gatesOff_offs (s : State) (c : Ch) {d : Ch} (hd : d ∈ s.gang c) :
    ((s.gatesOff c).chan d).stage.gates = false :=
  State.forCh_gatesOff (fun t a => .of_reacted (.gatesOff1 (.refl t) a)) (fun t a => t.gatesOff1_gates a) s hd

theorem State.stagedOpen_offs (s : State) (c : Ch) {d : Ch} (hd : d ∈ s.gang c) :
    ((s.stagedOpen c).chan d).stage.gates = false := by
  refine State.forCh_establishes (Q := fun t => (t.chan d).stage.gates = false) (fun t a h => ?_) (fun t => ?_) s hd
  · by_cases ha : a = d
    · subst ha
      rw [State.chan_updStage_same]
      exact t.gatesOff1_gates a
    · exact (congrArg (fun x : Chan => x.stage.gates) (State.chan_updCh_other _ _ ha)).trans
        ((Reacted.gatesOff1 (.refl t) a).chan d |>.gates h)
  · rw [State.chan_updStage_same]
    exact t.gatesOff1_gates d

/-- The stop of a gang before its fault is raised. -/
def State.gangStop (s : State) (n : Src) (c : Ch) (opens : Bool) : State :=
  let l := s.leader c
  let t := s.failStep l rFAULT (dSrc n)
  if opens then t.protOpen l else if (s.seq l).wind.isSome then t.stagedOpen l else t.gatesOff l

theorem State.faultStop_eq (s : State) (n : Src) (c : Ch) (opens : Bool) :
    s.faultStop n c opens = (s.gangStop n c opens).chRaise n c := rfl

theorem State.gangStop_reacted (s : State) (n : Src) (c : Ch) (opens : Bool) : Reacted s (s.gangStop n c opens) := by
  have hfail : Reacted s (s.failStep (s.leader c) rFAULT (dSrc n)) := .failStep (.refl s) _ _ _
  unfold State.gangStop
  exact .ite (hfail.protOpen _) (.ite (hfail.stagedOpen _) (hfail.gatesOff _))

/-- Every member of the gang is off, and open where the fault opens. -/
theorem State.gangStop_off {s : State} (hg : s.gangsOk) (n : Src) (c : Ch) (opens : Bool) {d : Ch} (hd : d ∈ s.gang c) :
    ((s.gangStop n c opens).chan d).stage.gates = false ∧
      (opens = true → ((s.gangStop n c opens).chan d).stage.isOpen) := by
  have hfail : Reacted s (s.failStep (s.leader c) rFAULT (dSrc n)) := .failStep (.refl s) _ _ _
  have hmem : d ∈ (s.failStep (s.leader c) rFAULT (dSrc n)).gang (s.leader c) := by
    rw [State.gang_same (fun e => ⟨(hfail.chan e).lead, (hfail.chan e).size⟩), State.gang_leader hg]
    exact hd
  unfold State.gangStop
  dsimp only
  split
  · exact ⟨(State.protOpen_opens _ hmem).1, fun _ => State.protOpen_opens _ hmem⟩
  next ho =>
    refine ⟨?_, fun h => absurd h ho⟩
    split
    · exact State.stagedOpen_offs _ _ hmem
    · exact State.gatesOff_offs _ _ hmem

/-- A fault turns the gates of its gang off, opens it where it says so, and its source is active unless it resets. -/
theorem State.faultStop_stops {s : State} (hg : s.gangsOk) (n : Src) (c : Ch) (opens : Bool)
    (hlisted : srcListed n.val = true) (hchan : isChanSrc n = true) :
    (∀ d ∈ s.gang c, ((s.faultStop n c opens).chan d).stage.gates = false) ∧
      (opens = true → ∀ d ∈ s.gang c, ((s.faultStop n c opens).chan d).stage.isOpen) ∧
      (s.quiet n → (s.faultStop n c opens).activeIn n c = true) ∧ Stilled s (s.faultStop n c opens) := by
  rw [State.faultStop_eq]
  have hstop := s.gangStop_reacted n c opens
  have hraise := (s.gangStop n c opens).chRaise_stilled n c hlisted
  refine ⟨fun d hd => ?_, fun ho d hd => ?_, fun hq => ?_, (Stilled.of_reacted hstop).trans hraise⟩
  · exact hraise.gates d (State.gangStop_off hg n c opens hd).1
  · exact hraise.stage d ((State.gangStop_off hg n c opens hd).2 ho)
  · refine State.chRaise_activeIn ?_ hlisted hchan
    have hre := (hstop.src n).react
    exact ⟨by rw [hre]; exact hq.1, by rw [hre]; exact hq.2⟩

/-! ### `BUS_SC` -/

/-- Every stage opens before `BUS_SC` is raised. -/
def State.busOpen (s : State) : State := s.forCh allCh (fun s c => (s.protOpen c).wr (CH_PFLT.BUS_SC c) 1)

theorem State.raiseBusSc_eq (s : State) : s.raiseBusSc = s.busOpen.raise 13 0 := rfl

theorem State.busOpen_step (t : State) (c : Ch) : Stilled t ((t.protOpen c).wr (CH_PFLT.BUS_SC c) 1) :=
  (Stilled.of_reacted (.protOpen (.refl t) c)).trans (.of_ch rfl)

theorem State.busOpen_stilled (s : State) : Stilled s s.busOpen := .forCh _ State.busOpen_step (.refl s)

theorem State.busOpen_flt (s : State) : s.busOpen.flt = s.flt := by
  unfold State.busOpen
  refine State.forCh_proj State.flt (fun t c => ?_) s allCh
  show (t.protOpen c).flt = t.flt
  exact (State.protOpen_only t c).2 .flt (by decide)

/-- `BUS_SC` leaves nothing on and nothing closed, where every channel stands in a gang or everything is open. -/
theorem State.raiseBusSc_opens {s : State} (h : (∀ d : Ch, d ∈ s.gang d) ∨ ∀ d : Ch, (s.chan d).stage.isOpen) (d : Ch) :
    (s.raiseBusSc.chan d).stage.isOpen := by
  refine (State.raiseAs_stilled s.busOpen 13 0 (srcCause 13) (by decide)).stage d ?_
  rcases h with h | h
  · have hwalk : ∀ (l : List Ch) (t : State), (∀ e : Ch, (t.seq e).lead = (s.seq e).lead ∧ (t.seq e).size = (s.seq e).size) →
        d ∈ l → ((t.forCh l (fun s c => (s.protOpen c).wr (CH_PFLT.BUS_SC c) 1)).chan d).stage.isOpen := by
      intro l
      induction l with
      | nil => exact fun t _ hd => absurd hd List.not_mem_nil
      | cons a l ih =>
        intro t ht hd
        have hstep := State.busOpen_step t a
        by_cases ha : d = a
        · subst ha
          have hopen : (((t.protOpen d).wr (CH_PFLT.BUS_SC d) 1).chan d).stage.isOpen :=
            State.protOpen_opens t (State.gang_same ht d ▸ h d)
          exact (Stilled.forCh l State.busOpen_step (.refl _)).stage d hopen
        · have hreact : Reacted t (t.protOpen a) := .protOpen (.refl t) a
          exact ih _ (fun e => ⟨((hreact.chan e).lead).trans (ht e).1, ((hreact.chan e).size).trans (ht e).2⟩)
            ((List.mem_cons.1 hd).resolve_left ha)
    exact hwalk allCh s (fun _ => ⟨rfl, rfl⟩) (mem_allCh d)
  · exact s.busOpen_stilled.stage d (h d)

/-- It takes no source back, where its own reaction resets nothing. -/
theorem State.raiseBusSc_activeIn {s : State} {n : Src} {c : Ch} (hq : s.quiet 13) (h : s.activeIn n c = true) :
    s.raiseBusSc.activeIn n c = true := by
  have hsrc (m : Src) : s.busOpen.src m = s.src m := congrArg (fun f : FltS => bget f.srcs m) s.busOpen_flt
  refine State.raise_activeIn_mono (s := s.busOpen) ?_ (by decide) ?_
  · exact ⟨by rw [hsrc]; exact hq.1, by rw [hsrc]; exact hq.2⟩
  · unfold State.activeIn
    rw [hsrc]
    exact h

end Sys2Proof.Machine
end


section
/-!
SUPPORT. Channel faults (R145, R159 to R167, R174, R175): each prepares its fault, stops the gang, and meets `BUS_SC` or not.
-/

namespace Sys2Proof.Machine

/-- From `s` to `u` the gangs and the collector are the same. -/
structure SameGangs (s u : State) : Prop where
  gang : ∀ d : Ch, (u.seq d).lead = (s.seq d).lead ∧ (u.seq d).size = (s.seq d).size
  flt : u.flt = s.flt

namespace SameGangs

theorem refl (s : State) : SameGangs s s := ⟨fun _ => ⟨rfl, rfl⟩, rfl⟩

theorem updCh {s t : State} (h : SameGangs s t) (c : Ch) (f : Chan → Chan) (hf : ∀ x, (f x).seq = x.seq) :
    SameGangs s (t.updCh c f) := by
  refine ⟨fun d => ?_, h.flt⟩
  have hseq : (t.updCh c f).seq d = t.seq d := by
    unfold State.seq
    by_cases hd : c = d
    · subst hd
      rw [State.chan_updCh_same, hf]
    · rw [State.chan_updCh_other _ _ hd]
  rw [hseq]
  exact h.gang d

theorem updStage {s t : State} (h : SameGangs s t) (c : Ch) (f : Stage → Stage) : SameGangs s (t.updStage c f) :=
  h.updCh c _ (fun _ => rfl)

theorem updLoop {s t : State} (h : SameGangs s t) (c : Ch) (f : LoopS → LoopS) : SameGangs s (t.updLoop c f) :=
  h.updCh c _ (fun _ => rfl)

theorem startPulse {s t : State} (h : SameGangs s t) (c : Ch) (why : KelWhy) : SameGangs s (t.startPulse c why) :=
  (h.updStage c _).updCh c _ (fun _ => rfl)

theorem same {s t u : State} (h : SameGangs s t) (hc : u.ch = t.ch) (hf : u.flt = t.flt) : SameGangs s u := by
  refine ⟨fun d => ?_, hf.trans h.flt⟩
  have hseq : u.seq d = t.seq d := congrArg (fun v : Vector Chan 16 => (bget v d).seq) hc
  rw [hseq]
  exact h.gang d

theorem src {s u : State} (h : SameGangs s u) (n : Src) : u.src n = s.src n :=
  congrArg (fun f : FltS => bget f.srcs n) h.flt

theorem quiet {s u : State} (h : SameGangs s u) {n : Src} (hq : s.quiet n) : u.quiet n := by
  unfold State.quiet
  rw [h.src]
  exact hq

theorem gang_eq {s u : State} (h : SameGangs s u) (c : Ch) : u.gang c = s.gang c := State.gang_same h.gang c

theorem gangsOk {s u : State} (h : SameGangs s u) (hg : s.gangsOk) : u.gangsOk := by
  have hleader (c : Ch) : u.leader c = s.leader c := by
    unfold State.leader
    rw [(h.gang c).1]
  have hmembers (c : Ch) : u.members c = s.members c := by
    unfold State.members
    rw [(h.gang c).2]
  intro c
  rw [hleader, hmembers, hmembers, (h.gang _).1, (h.gang c).1, (h.gang c).2]
  obtain ⟨h1, h2, h3, h4, h5, h6⟩ := hg c
  exact ⟨h1, h2, fun hl m hm => (hleader m).trans (h3 hl m hm), h4, h5, h6⟩

end SameGangs

/-- A trip of a channel comparator stands in the state and the record alone. -/
theorem SameGangs.tripped (s : State) (c : Ch) (t : Half) : SameGangs s (s.tripped c t) :=
  (((SameGangs.refl s).updStage c _).same (u := (s.updStage c _).incSat (CH_PCNT.SC_CNT c)) rfl rfl).updLoop c _

theorem State.raiseBusSc_stilled (s : State) : Stilled s s.raiseBusSc :=
  s.busOpen_stilled.trans (State.raiseAs_stilled s.busOpen 13 0 (srcCause 13) (by decide))

/-- Reactions are configured; a fault whose own reaction resets nothing leaves them. -/
theorem State.faultStop_react {s : State} {n : Src} (hq : s.quiet n) (c : Ch) (opens : Bool) (m : Src) :
    ((s.faultStop n c opens).src m).react = (s.src m).react := by
  have hstop := s.gangStop_reacted n c opens
  have hq' : (s.gangStop n c opens).quiet n := by
    have hre := (hstop.src n).react
    exact ⟨by rw [hre]; exact hq.1, by rw [hre]; exact hq.2⟩
  rw [State.faultStop_eq, ← (hstop.src m).react]
  unfold State.chRaise
  split
  · exact ((Reacted.raiseAs (.refl ((s.gangStop n c opens).wr _ 1)) n c (srcCause n) hq').src m).react
  · exact ((Reacted.raiseAs (.refl (s.gangStop n c opens)) n c (srcCause n) hq').src m).react

/-- A fault with its `BUS_SC`, where another gang tripped with it. -/
def State.faultOn (u : State) (n : Src) (c : Ch) (opens bus : Bool) : State :=
  if bus then (u.faultStop n c opens).raiseBusSc else u.faultStop n c opens

/-- What a fault leaves of its gang, from a state that prepares it. -/
theorem State.faultOn_stops {s u : State} (hg : s.gangsOk) (hu : SameGangs s u) (n : Src) (c : Ch) (opens bus : Bool)
    (hlisted : srcListed n.val = true) (hchan : isChanSrc n = true) :
    (∀ d ∈ s.gang c, ((u.faultOn n c opens bus).chan d).stage.gates = false) ∧
      (opens = true → ∀ d ∈ s.gang c, ((u.faultOn n c opens bus).chan d).stage.iso = .opened) ∧
      (s.quiet n → s.quiet 13 → (u.faultOn n c opens bus).activeIn n c = true) := by
  obtain ⟨hoff, hopen, hact, -⟩ := State.faultStop_stops (hu.gangsOk hg) n c opens hlisted hchan
  rw [hu.gang_eq] at hoff hopen
  unfold State.faultOn
  split
  · have hbus := (u.faultStop n c opens).raiseBusSc_stilled
    refine ⟨fun d hd => hbus.gates d (hoff d hd), fun ho d hd => (hbus.stage d (hopen ho d hd)).2, fun hq h13 => ?_⟩
    refine State.raiseBusSc_activeIn ?_ (hact (hu.quiet hq))
    have hre := State.faultStop_react (hu.quiet hq) c opens 13
    have hq13 := hu.quiet h13
    exact ⟨by rw [hre]; exact hq13.1, by rw [hre]; exact hq13.2⟩
  · exact ⟨hoff, fun ho d hd => (hopen ho d hd).2, fun hq _ => hact (hu.quiet hq)⟩

/-- A trip whose run has reached its limit is a fault; below it only `BUS_SC` goes further. -/
theorem State.chamois_fault {s : State} {c : Ch} (t : Half) (hg : (s.chan c).stage.gates = true)
    (ht : (s.chan c).stage.trip = false) : s.chamois c t =
      if s.rd (CH_SC.SC_LIMIT c) ≤ (s.chan c).stage.tripRun + 1 then
        (s.tripped c t).faultOn 1 c true (s.busSc c (s.cycleAt t))
      else if s.busSc c (s.cycleAt t) then (s.tripped c t).raiseBusSc else s.tripped c t := by
  have hkeep : (s.tripped c t).rd (CH_SC.SC_LIMIT c) = s.rd (CH_SC.SC_LIMIT c) :=
    State.rd_wr_other _ _ (key_scCnt_scLimit c)
  have hrun : ((s.tripped c t).chan c).stage.tripRun = (s.chan c).stage.tripRun + 1 :=
    congrArg (fun x : Chan => x.stage.tripRun) (s.tripped_chan c t)
  rw [State.chamois_eq t hg ht]
  dsimp only
  rw [hkeep, hrun]
  by_cases hlimit : s.rd (CH_SC.SC_LIMIT c) ≤ (s.chan c).stage.tripRun + 1
  · rw [if_pos (decide_eq_true hlimit), if_pos hlimit]
    rfl
  · rw [decide_eq_false hlimit, if_neg hlimit]
    rfl

/-- The record of a trip: the state of the comparator, its latched bit, and `REV` where the cell is reversed. -/
def State.cmpTripped (s : State) (i : CmpId) (rev : Bool) : State :=
  let s := s.updCmp i (fun x => { x with raw := true })
  let s := if i.val < 64 ∧ i.val % 4 = 3 ∧ rev then s.wr (CH_PSTAT.REV (Fin.ofNat 16 (i.val / 4))) 1 else s
  s.updCmp i (fun x => { x with filt := true, lat := true })

theorem State.cmpTripped_only (s : State) (i : CmpId) (rev : Bool) : s.only (s.cmpTripped i rev) [.cmp, .regs] := by
  have hfirst := s.updCmp_only i (fun x => { x with raw := true })
  refine State.only_trans ?_ (State.only_mono (State.updCmp_only _ i _) (by decide))
  split
  · exact State.wr_only (State.only_mono hfirst (by decide)) _ _ (by decide)
  · exact State.only_mono hfirst (by decide)

theorem State.cmpTripped_rd (s : State) (i : CmpId) (rev : Bool) {g : Fld} (h : ∀ d : Ch, (CH_PSTAT.REV d).key ≠ g.key) :
    (s.cmpTripped i rev).rd g = s.rd g := by
  unfold State.cmpTripped
  dsimp only
  split
  · exact State.rd_wr_other (s.updCmp i _) 1 (h _)
  · rfl

theorem State.cmpTripped_gangs (s : State) (i : CmpId) (rev : Bool) : SameGangs s (s.cmpTripped i rev) :=
  (SameGangs.refl s).same ((s.cmpTripped_only i rev).2 .ch (by decide)) ((s.cmpTripped_only i rev).2 .flt (by decide))

theorem key_rev_olMode (c d : Ch) : (CH_PSTAT.REV d).key ≠ (CH_OL.OL_MODE c).key := by
  revert c d
  decide

/-- A channel comparator that was not tripped. -/
theorem State.comparatorTrip_ch {s : State} {c : Ch} {k : Fin 4} (h : (s.cmpAt (chCmp c k)).filt = false) (rev : Bool) :
    exec (.comparatorTrip (chCmp c k) rev) s = Host.Outcome.next ((s.cmpTripped (chCmp c k) rev).chTrip c k.val rev) := by
  have hlow : (chCmp c k).val < 64 := by
    show 4 * c.val + k.val < 64
    omega
  have hch : (⟨(chCmp c k).val / 4, by omega⟩ : Ch) = c := Fin.ext (by show (4 * c.val + k.val) / 4 = c.val; omega)
  have hk : (chCmp c k).val % 4 = k.val := by
    show (4 * c.val + k.val) % 4 = k.val
    omega
  show execComparatorTrip (chCmp c k) rev s = _
  unfold execComparatorTrip
  dsimp only
  rw [if_neg (by omega), if_neg (by simp [h]), dif_pos hlow]
  exact congrArg Host.Outcome.next (congrArg₂ (fun d m => State.chTrip (s.cmpTripped (chCmp c k) rev) d m rev) hch hk)

/-- With `BUS_SC` every stage opens. -/
theorem State.faultOn_bus_opens {s u : State} (hg : s.gangsOk) (hu : SameGangs s u) (n : Src) (c : Ch) (opens : Bool)
    (hlisted : srcListed n.val = true) (hchan : isChanSrc n = true) (d : Ch) :
    ((u.faultOn n c opens true).chan d).stage.isOpen := by
  obtain ⟨-, -, -, hstill⟩ := State.faultStop_stops (hu.gangsOk hg) n c opens hlisted hchan
  refine State.raiseBusSc_opens ?_ d
  rcases hstill.gang with h | h
  · exact .inl fun e => State.gang_same h e ▸ (hu.gangsOk hg e).2.1
  · exact .inr h

end Sys2Proof.Machine
end

section
open Sys2Proof Sys2Proof.Machine

/-- Settles O20: every fault is a prepared state, the stop of its gang and, beside another gang's trip, `BUS_SC`. -/
theorem channelFaultsStopTheGang : Obligations.ChannelFaultsStopTheGang := by
  unfold Obligations.ChannelFaultsStopTheGang
  refine ⟨?_, ?_⟩
  · intro s c t hg off opened named
    have hstop {u : State} (hu : SameGangs s u) (n : Src) (opens bus : Bool) (hl : srcListed n.val = true)
        (hc : isChanSrc n = true) := State.faultOn_stops hg hu n c opens bus hl hc
    have hstage (f : Stage → Stage) : SameGangs s (s.updStage c f) := (SameGangs.refl s).updStage c f
    have hcmp (i : CmpId) (f g : CmpS → CmpS) : SameGangs s ((s.updCmp i f).updCmp i g) := (SameGangs.refl s).same rfl rfl
    refine ⟨fun hgates htrip hlimit => ?_, ?_, ?_, fun hcond => ?_, fun hfilt hmode rev => ?_, fun hfilt hlead => ⟨?_,
      fun hi => ?_⟩⟩
    · obtain ⟨hoff, hopen, hact⟩ := hstop (.tripped s c t) 1 true (s.busSc c (s.cycleAt t)) (by decide) (by decide)
      exact ⟨_, congrArg Host.Outcome.next ((State.chamois_fault t hgates htrip).trans (if_pos hlimit)), hoff, hopen rfl, hact⟩
    · have hu : SameGangs s (((s.updStage c (fun y => { y with trip := true, tripAt := some (s.cycleAt t) })).updLoop c
          LoopS.suspend).startPulse (((s.updStage c (fun y => { y with trip := true, tripAt := some (s.cycleAt t) })).updLoop c
          LoopS.suspend).leader c) .hard) := ((hstage _).updLoop c _).startPulse _ _
      obtain ⟨hoff, hopen, hact⟩ := hstop hu 2 true (s.busSc c (s.cycleAt t)) (by decide) (by decide)
      exact ⟨_, rfl, hoff, hopen rfl, hact⟩
    · let u := ((s.incSat (CH_PCNT.SHOOT_REQ c)).updStage c (fun x => { x with
        cut := true, bothOn := keep 3 (s.clk :: x.bothOn.filter (fun t => s.clk < t + 16)) })).updLoop c LoopS.suspend
      have hu : SameGangs s u := (((SameGangs.refl s).same (u := s.incSat (CH_PCNT.SHOOT_REQ c)) rfl rfl).updStage c _).updLoop c _
      have hchan : (u.chan c).stage = { (s.chan c).stage with
          cut := true, bothOn := keep 3 (s.clk :: (s.chan c).stage.bothOn.filter (fun t => s.clk < t + 16)) } := by
        unfold u State.updLoop State.updStage
        rw [State.chan_updCh_same, State.chan_updCh_same]
        rfl
      have hlen : 3 ≤ (u.chan c).stage.bothOn.length ↔
          ¬ ((s.chan c).stage.bothOn.filter (fun t => s.clk < t + 16)).length < 2 := by
        rw [hchan]
        simp only [keep, List.length_take, List.length_cons]
        omega
      have hexec : exec (.bothOnCommand c) s =
          Host.Outcome.next (if decide (3 ≤ (u.chan c).stage.bothOn.length) then u.faultStop 9 c true else u) := rfl
      refine ⟨_, hexec, ?_⟩
      by_cases hfew : ((s.chan c).stage.bothOn.filter (fun t => s.clk < t + 16)).length < 2
      · beta_reduce
        rw [if_pos hfew, if_neg (by simpa using fun k => hlen.1 k hfew)]
        refine ⟨?_, State.only_iff.2 (by simp [u]), fun g hg => ?_⟩
        · rw [hchan]
        · exact State.rd_wr_other s _ (hg _ (by simp))
      · beta_reduce
        rw [if_neg hfew, if_pos (by simpa using hlen.2 hfew)]
        obtain ⟨hoff, hopen, hact⟩ := hstop hu 9 true false (by decide) (by decide)
        exact ⟨hoff, hopen rfl, hact⟩
    · obtain ⟨hoff, -, hact⟩ := hstop (.refl s) 3 false false (by decide) (by decide)
      refine ⟨_, if_pos ?_, hoff, hact⟩
      by_cases hmode : s.rd (CH_OL.OL_MODE c) = 0
      · rw [if_pos hmode] at hcond
        simp [hmode, hcond]
      · rw [if_neg hmode] at hcond
        simp [hmode, hcond]
    · let u := (s.cmpTripped (chCmp c 1) rev).updStage c (fun x => { x with olTick := true })
      have hu : SameGangs s u := (State.cmpTripped_gangs s _ rev).updStage c _
      obtain ⟨hoff, -, hact⟩ := hstop hu 3 false false (by decide) (by decide)
      have hol : u.rd (CH_OL.OL_MODE c) = 0 := (State.cmpTripped_rd s _ rev (key_rev_olMode c)).trans hmode
      exact ⟨_, (State.comparatorTrip_ch (k := 1) hfilt rev).trans (congrArg Host.Outcome.next (if_pos hol)), hoff, hact⟩
    · have hu : SameGangs s ((s.cmpTripped (chCmp c 3) true).startPulse c .uv) := (State.cmpTripped_gangs s _ true).startPulse c _
      obtain ⟨hoff, hopen, hact⟩ := hstop hu 5 true false (by decide) (by decide)
      have hfree : ¬ (((s.cmpTripped (chCmp c 3) true).seq c).lead.isSome = true) := by
        rw [((State.cmpTripped_gangs s (chCmp c 3) true).gang c).1, hlead]
        simp
      exact ⟨_, (State.comparatorTrip_ch (k := 3) hfilt true).trans (congrArg Host.Outcome.next (if_neg hfree)), hoff,
        hopen rfl, hact⟩
    · have hu : SameGangs s ((s.cmpTripped (chCmp c 3) false).startPulse c .uv) :=
        (State.cmpTripped_gangs s _ false).startPulse c _
      obtain ⟨hoff, -, hact⟩ := hstop hu 4 false false (by decide) (by decide)
      have hfree : ¬ (((s.cmpTripped (chCmp c 3) false).seq c).lead.isSome = true) := by
        rw [((State.cmpTripped_gangs s (chCmp c 3) false).gang c).1, hlead]
        simp
      have hback : decide (((s.cmpTripped (chCmp c 3) false).chan c).loop.iEff < 0) = true := by
        have hch := (s.cmpTripped_only (chCmp c 3) false).2 .ch (by decide)
        exact decide_eq_true (by unfold State.chan; rw [hch]; exact hi)
      exact ⟨_, (State.comparatorTrip_ch (k := 3) hfilt false).trans (congrArg Host.Outcome.next
        ((if_neg hfree).trans (if_pos hback))), hoff, hact⟩
  · intro s c t hg hbus
    refine ⟨fun hgates htrip => ?_, ?_⟩
    · refine ⟨_, congrArg Host.Outcome.next (State.chamois_fault t hgates htrip), fun d => ?_⟩
      rw [hbus]
      split
      · exact State.faultOn_bus_opens hg (.tripped s c t) 1 c true (by decide) (by decide) d
      · have hu := SameGangs.tripped s c t
        exact State.raiseBusSc_opens (.inl fun e => hu.gang_eq e ▸ (hg e).2.1) d
    · have hu : SameGangs s (((s.updStage c (fun y => { y with trip := true, tripAt := some (s.cycleAt t) })).updLoop c
          LoopS.suspend).startPulse (((s.updStage c (fun y => { y with trip := true, tripAt := some (s.cycleAt t) })).updLoop c
          LoopS.suspend).leader c) .hard) := (((SameGangs.refl s).updStage c _).updLoop c _).startPulse _ _
      have hexec : exec (.scHard ⟨c, t⟩) s = Host.Outcome.next (State.faultOn _ 2 c true (s.busSc c (s.cycleAt t))) := rfl
      rw [hbus] at hexec
      exact ⟨_, hexec, State.faultOn_bus_opens hg hu 2 c true (by decide) (by decide)⟩

end


section
/-!
SUPPORT. The closures of `ISOn` (R147 to R152, R177, R195).
-/

namespace Sys2Proof.Machine

/-- What the step of a channel brings about under an invariant of the walk, and no step takes back. -/
theorem State.forCh_establishes_of {I Q : State → Prop} {f : State → Ch → State} (hstep : ∀ t a, I t → I (f t a))
    (hkeep : ∀ t a, I t → Q t → Q (f t a)) {c : Ch} (hc : ∀ t, I t → Q (f t c)) {s : State} (hs : I s) {l : List Ch}
    (hmem : c ∈ l) : Q (s.forCh l f) := by
  have hrest : ∀ (l : List Ch) (t : State), I t → Q t → Q (t.forCh l f) := by
    intro l
    induction l with
    | nil => exact fun t _ h => h
    | cons a l ih => exact fun t hi h => ih (f t a) (hstep t a hi) (hkeep t a hi h)
  induction l generalizing s with
  | nil => exact absurd hmem List.not_mem_nil
  | cons a l ih =>
    by_cases ha : c = a
    · subst ha
      exact hrest l _ (hstep s c hs) (hc s hs)
    · exact ih (hstep s a hs) ((List.mem_cons.1 hmem).resolve_left ha)

/-- The channels that a walk does not meet are as before. -/
theorem State.forCh_chan_other {f : State → Ch → State} (hf : ∀ t a d, a ≠ d → (f t a).chan d = t.chan d) (s : State)
    {l : List Ch} {d : Ch} (hd : d ∉ l) : (s.forCh l f).chan d = s.chan d := by
  induction l generalizing s with
  | nil => rfl
  | cons a l ih =>
    obtain ⟨ha, hl⟩ := not_or.1 (fun k => hd (List.mem_cons.2 k))
    exact (ih (f s a) hl).trans (hf s a d (Ne.symm ha))

/-- The checks of a closure look at the gang, its gates, the active sources, the comparators, the supplies and two fields. -/
theorem State.mayClose_congr {s p : State} {c : Ch} (hgang : ∀ d, p.gang d = s.gang d)
    (hgates : ∀ d, (p.chan d).stage.gates = (s.chan d).stage.gates) (hact : ∀ n, (p.src n).act = (s.src n).act)
    (hpins : p.pins = s.pins) (hcmp : p.cmp = s.cmp) (hsaf : p.saf = s.saf)
    (hhalt : p.rd DBG_CTL.HALT_SAF = s.rd DBG_CTL.HALT_SAF) (hov : p.rd (CH_VLIM.OV_TH c) = s.rd (CH_VLIM.OV_TH c))
    (v : Int) : p.mayClose c v = s.mayClose c v := by
  have hflag : p.faultFlag c = s.faultFlag c := by
    unfold State.faultFlag State.chFaulted State.activeIn State.active
    simp only [hgang, hact]
  have hien : p.ienOn = s.ienOn := by
    unfold State.ienOn State.rb
    rw [hsaf]
    exact congrArg (fun x => s.saf.ien && !decide (x = 1)) hhalt
  unfold State.mayClose State.vdrvOk State.cmpAt
  rw [hgang, hflag, hien, hov, hpins, hcmp]
  simp only [hgates]

/-! ### The end of a pulse -/

/-- The pulse of a channel has ended: `KEL_OK` shows its outcome, and the condition of `KEL_OPEN` is gone where it passed. -/
def State.pulseEnded (s : State) (c : Ch) (ok : Bool) : State :=
  let s := (s.updStage c (fun x => { x with pulse := none })).wb (CH_PSTAT.KEL_OK c) ok
  if ok then s.condGone 6 c else s

theorem State.pulseEnded_only (s : State) (c : Ch) (ok : Bool) : s.only (s.pulseEnded c ok) [.ch, .regs, .flt] := by
  have hfirst : s.only ((s.updStage c (fun x => { x with pulse := none })).wb (CH_PSTAT.KEL_OK c) ok) [.ch, .regs] :=
    State.only_iff.2 (by simp)
  unfold State.pulseEnded
  split
  · exact State.only_trans (State.only_mono hfirst (by decide)) (State.only_mono (State.condGone_only _ _ _) (by decide))
  · exact State.only_mono hfirst (by decide)

theorem State.pulseEnded_ch (s : State) (c : Ch) (ok : Bool) :
    (s.pulseEnded c ok).ch = (s.updStage c (fun x => { x with pulse := none })).ch := by
  unfold State.pulseEnded
  split <;> rfl

theorem State.pulseEnded_chan (s : State) (c : Ch) (ok : Bool) (d : Ch) :
    (s.pulseEnded c ok).chan d = (s.updStage c (fun x => { x with pulse := none })).chan d :=
  congrArg (fun v : Vector Chan 16 => bget v d) (s.pulseEnded_ch c ok)

theorem State.pulseEnded_chBut (s : State) (c : Ch) (ok : Bool) : s.chBut (s.pulseEnded c ok) [c] := fun d hd =>
  (s.pulseEnded_chan c ok d).trans (State.chan_updCh_other _ _ (fun e => hd (by simp [e])))

theorem State.pulseEnded_stage (s : State) (c : Ch) (ok : Bool) :
    ((s.pulseEnded c ok).chan c).stage = { (s.chan c).stage with pulse := none } := by
  rw [s.pulseEnded_chan c ok c]
  exact State.chan_updStage_same s c _ |>.symm ▸ rfl

theorem State.pulseEnded_seq (s : State) (c : Ch) (ok : Bool) (d : Ch) : (s.pulseEnded c ok).seq d = s.seq d := by
  have h := ((SameGangs.refl s).updStage c (fun x => { x with pulse := none }))
  unfold State.seq
  rw [s.pulseEnded_chan c ok d]
  by_cases hd : c = d
  · subst hd
    rw [State.chan_updStage_same]
  · exact congrArg Chan.seq (State.chan_updCh_other _ _ hd)

theorem State.pulseEnded_gang (s : State) (c : Ch) (ok : Bool) (d : Ch) : (s.pulseEnded c ok).gang d = s.gang d :=
  State.gang_same (fun e => by rw [s.pulseEnded_seq c ok e]; exact ⟨rfl, rfl⟩) d

theorem State.pulseEnded_rd (s : State) (c : Ch) (ok : Bool) {g : Fld} (hg : (CH_PSTAT.KEL_OK c).key ≠ g.key) :
    (s.pulseEnded c ok).rd g = s.rd g := by
  unfold State.pulseEnded
  split
  · exact State.rd_wr_other (s.updStage c _) _ hg
  · exact State.rd_wr_other (s.updStage c _) _ hg

theorem State.pulseEnded_kelOk (s : State) (c : Ch) (ok : Bool) : (s.pulseEnded c ok).rb (CH_PSTAT.KEL_OK c) = ok := by
  have h : (s.pulseEnded c ok).rd (CH_PSTAT.KEL_OK c) = b2n ok % 2 ^ (CH_PSTAT.KEL_OK c).w := by
    unfold State.pulseEnded
    split
    · exact State.rd_wr_same (s.updStage c _) _ _
    · exact State.rd_wr_same (s.updStage c _) _ _
  unfold State.rb
  rw [show (s.pulseEnded c ok).regs.get (CH_PSTAT.KEL_OK c) = _ from h]
  cases ok <;> rfl

theorem State.pulseEnded_act (s : State) (c : Ch) (ok : Bool) (n : Src) :
    ((s.pulseEnded c ok).src n).act = (s.src n).act := by
  unfold State.pulseEnded
  split
  · unfold State.condGone
    by_cases hn : (6 : Src) = n
    · subst hn
      rw [State.src_updSrc_same]
      rfl
    · rw [State.src_updSrc_other _ _ hn]
      rfl
  · rfl

theorem key_kelOk_ovTh (c : Ch) : (CH_PSTAT.KEL_OK c).key ≠ (CH_VLIM.OV_TH c).key ∧
    (CH_PSTAT.KEL_OK c).key ≠ DBG_CTL.HALT_SAF.key := by
  revert c
  decide

theorem State.pulseEnded_mayClose (s : State) (c : Ch) (ok : Bool) (v : Int) :
    (s.pulseEnded c ok).mayClose c v = s.mayClose c v := by
  have honly := s.pulseEnded_only c ok
  refine State.mayClose_congr (s.pulseEnded_gang c ok) (fun d => ?_) (s.pulseEnded_act c ok) (honly.2 .pins (by decide))
    (honly.2 .cmp (by decide)) (honly.2 .saf (by decide)) (s.pulseEnded_rd c ok (key_kelOk_ovTh c).2)
    (s.pulseEnded_rd c ok (key_kelOk_ovTh c).1) v
  by_cases hd : d = c
  · subst hd
    rw [State.pulseEnded_stage]
  · rw [s.pulseEnded_chBut c ok d (by simpa using hd)]

/-! ### `ISOn` closes, or opens -/

/-- One switch closes: both codes of its gate drive take `GD_INIT`, the hold-off begins. -/
def State.isoClose1 (s : State) (d : Ch) : State :=
  let s := s.updStage d (fun x => { x with iso := .closed, settle := true })
  let g := s.rd (CH_GD.GD_INIT d)
  (s.wr (CH_GDST.CODE_H d) g).wr (CH_GDST.CODE_L d) g

theorem State.isoClose_eq (s : State) (c : Ch) : s.isoClose c = s.forCh (s.gang c) State.isoClose1 := rfl

theorem State.isoClose1_chan (s : State) (d e : Ch) : (s.isoClose1 d).chan e =
    (s.updStage d (fun x => { x with iso := .closed, settle := true })).chan e := rfl

theorem key_gateCodes (d e : Ch) : (CH_GDST.CODE_H d).key ≠ (CH_GD.GD_INIT e).key ∧
    (CH_GDST.CODE_L d).key ≠ (CH_GD.GD_INIT e).key ∧ (CH_GDST.CODE_L d).key ≠ (CH_GDST.CODE_H e).key ∧
    (d ≠ e → (CH_GDST.CODE_H d).key ≠ (CH_GDST.CODE_H e).key ∧ (CH_GDST.CODE_L d).key ≠ (CH_GDST.CODE_L e).key) := by
  revert d e
  decide

/-- The drive codes of a channel and the value that a closure gives them. -/
theorem State.isoClose1_rd (s : State) (a d : Ch) :
    (s.isoClose1 a).rd (CH_GD.GD_INIT d) = s.rd (CH_GD.GD_INIT d) ∧
      (s.isoClose1 a).rd (CH_GDST.CODE_H d) =
        (if a = d then s.rd (CH_GD.GD_INIT d) % 16 else s.rd (CH_GDST.CODE_H d)) ∧
      (s.isoClose1 a).rd (CH_GDST.CODE_L d) =
        (if a = d then s.rd (CH_GD.GD_INIT d) % 16 else s.rd (CH_GDST.CODE_L d)) := by
  obtain ⟨hhi, hli, hlh, hne⟩ := key_gateCodes a d
  obtain ⟨-, -, hhl, -⟩ := key_gateCodes d a
  let t := s.updStage a (fun x => { x with iso := .closed, settle := true })
  refine ⟨(State.rd_wr_other _ _ hli).trans (State.rd_wr_other t _ hhi), ?_, ?_⟩
  · refine (State.rd_wr_other _ _ hlh).trans ?_
    split
    next h =>
      subst h
      exact State.rd_wr_same t _ _
    next h => exact State.rd_wr_other t _ (hne h).1
  · split
    next h =>
      subst h
      exact State.rd_wr_same (t.wr (CH_GDST.CODE_H a) _) _ _
    next h =>
      exact (State.rd_wr_other (t.wr (CH_GDST.CODE_H a) _) _ (hne h).2).trans (State.rd_wr_other t _ (Ne.symm hhl))

/-- Every switch of the gang closes (R139, R151). -/
theorem State.isoClose_closes (s : State) (c : Ch) {d : Ch} (hd : d ∈ s.gang c) :
    ((s.isoClose c).chan d).stage.iso = .closed ∧ ((s.isoClose c).chan d).stage.settle = true ∧
      (s.isoClose c).rd (CH_GDST.CODE_H d) = s.rd (CH_GD.GD_INIT d) % 16 ∧
      (s.isoClose c).rd (CH_GDST.CODE_L d) = s.rd (CH_GD.GD_INIT d) % 16 := by
  rw [State.isoClose_eq]
  refine State.forCh_establishes_of (I := fun t => t.rd (CH_GD.GD_INIT d) = s.rd (CH_GD.GD_INIT d))
    (Q := fun t => (t.chan d).stage.iso = .closed ∧ (t.chan d).stage.settle = true ∧
      t.rd (CH_GDST.CODE_H d) = s.rd (CH_GD.GD_INIT d) % 16 ∧ t.rd (CH_GDST.CODE_L d) = s.rd (CH_GD.GD_INIT d) % 16)
    (fun t a hi => ((t.isoClose1_rd a d).1).trans hi) (fun t a hi hq => ?_) (fun t hi => ?_) rfl hd
  · obtain ⟨-, hh, hl⟩ := t.isoClose1_rd a d
    obtain ⟨h1, h2, h3, h4⟩ := hq
    rw [hh, hl, t.isoClose1_chan, hi]
    by_cases ha : a = d
    · subst ha
      rw [State.chan_updStage_same, if_pos rfl]
      exact ⟨rfl, rfl, rfl, if_pos rfl⟩
    · rw [if_neg ha, if_neg ha, State.updStage, State.chan_updCh_other _ _ ha]
      exact ⟨h1, h2, h3, h4⟩
  · obtain ⟨-, hh, hl⟩ := t.isoClose1_rd d d
    rw [hh, hl, t.isoClose1_chan, hi, State.chan_updStage_same, if_pos rfl]
    exact ⟨rfl, rfl, rfl, if_pos rfl⟩

/-- The pulse of a channel is as before its gang's switches close. -/
theorem State.isoClose_pulse (s : State) (c d : Ch) : ((s.isoClose c).chan d).stage.pulse = (s.chan d).stage.pulse := by
  rw [State.isoClose_eq]
  refine State.forCh_proj (fun t => (t.chan d).stage.pulse) (fun t a => ?_) s _
  rw [t.isoClose1_chan]
  by_cases ha : a = d
  · subst ha
    rw [State.chan_updStage_same]
  · rw [State.updStage, State.chan_updCh_other _ _ ha]

/-- A change of the switches of a gang, each on its own. -/
theorem State.forCh_updStage_chan (s : State) (f : Stage → Stage) {l : List Ch} (hl : l.Nodup) (d : Ch) :
    ((s.forCh l (fun s d => s.updStage d f)).chan d) =
      if d ∈ l then { s.chan d with stage := f (s.chan d).stage } else s.chan d := by
  induction l generalizing s with
  | nil => simp [State.forCh]
  | cons a l ih =>
    obtain ⟨ha, hl⟩ := List.nodup_cons.1 hl
    have hstep := ih (s.updStage a f) hl
    show ((s.updStage a f).forCh l (fun s d => s.updStage d f)).chan d = _
    rw [hstep]
    by_cases hd : a = d
    · subst hd
      simp [ha]
    · rw [State.updStage, State.chan_updCh_other _ _ hd]
      simp [Ne.symm hd]

theorem State.gang_nodup (s : State) (c : Ch) : (s.gang c).Nodup := by
  have hpair : ∀ c : Ch, [c, Fin.ofNat 16 (c.val + 1)].Nodup := by decide
  have hquad : ∀ q : Quad, (quadChs q).Nodup := by decide
  unfold State.gang State.members
  split
  · exact hquad _
  · split
    · exact hpair _
    · simp

/-- A pulse that fails its closure leaves the gang open (R148). -/
theorem State.closePulse_opens {s : State} {c : Ch} {diff : Int} (h : kelInside diff = false ∨ s.mayClose c diff = false)
    {d : Ch} (hd : d ∈ s.gang c) : ((s.closePulse c diff).chan d).stage.iso = .opened := by
  let u := s.forCh (s.gang c) (fun s d => s.updStage d (fun x => { x with iso := .opened }))
  have hu : (u.chan d).stage.iso = .opened := by
    rw [State.forCh_updStage_chan s _ (s.gang_nodup c), if_pos hd]
  have hfails (r x : Nat) : Stilled u (u.failStep c r x) := .of_reacted (.failStep (.refl u) c r x)
  have hkel {t : State} (ht : Stilled u t) : Stilled u (t.kelFail c) :=
    (ht.same (u := t.wr (CH_PSTAT.KEL_OK c) 0) rfl).trans (State.chRaise_stilled _ 6 c (by decide))
  have hend : Stilled u (s.closePulse c diff) := by
    unfold State.closePulse
    dsimp only
    rw [if_neg (by rcases h with h | h <;> simp [h])]
    have hstep : Stilled u (if !decide (s.sys.mode = .run ∨ s.sys.mode = .service) then u
        else if kelInside diff then u.failStep c rFAULT (s.closeBlock c) else u.failStep c rCONTACT 0) :=
      .ite (.refl u) (.ite (hfails _ _) (hfails _ _))
    exact .ite hstep (hkel hstep)
  exact hend.iso d hu

end Sys2Proof.Machine
end


section
/-!
SUPPORT. Closures that are asked for (R147, R149, R195).
-/

namespace Sys2Proof.Machine

/-- From `s` to `t` the switch of channel `d` stays; where `d` is not `a` the whole channel does. -/
def IsoKept (s t : State) (a d : Ch) : Prop :=
  (t.chan d).stage.iso = (s.chan d).stage.iso ∧ (a ≠ d → t.chan d = s.chan d)

theorem IsoKept.updCh {s t : State} {a d : Ch} (h : IsoKept s t a d) (f : Chan → Chan)
    (hf : ∀ x, (f x).stage.iso = x.stage.iso) : IsoKept s (t.updCh a f) a d := by
  refine ⟨?_, fun hne => (State.chan_updCh_other _ _ hne).trans (h.2 hne)⟩
  by_cases hd : a = d
  · subst hd
    rw [State.chan_updCh_same, hf]
    exact h.1
  · rw [State.chan_updCh_other _ _ hd]
    exact h.1

theorem IsoKept.updLoop {s t : State} {a d : Ch} (h : IsoKept s t a d) (f : LoopS → LoopS) :
    IsoKept s (t.updLoop a f) a d := h.updCh (fun x => { x with loop := f x.loop }) (fun _ => rfl)

theorem IsoKept.updSeq {s t : State} {a d : Ch} (h : IsoKept s t a d) (f : ChanS → ChanS) :
    IsoKept s (t.updSeq a f) a d := h.updCh (fun x => { x with seq := f x.seq }) (fun _ => rfl)

/-- The gates of a channel go off where its switch stays, and no other channel is met. -/
theorem State.gatesOff1_iso (s : State) (a d : Ch) : IsoKept s (s.gatesOff1 a) a d := by
  unfold State.gatesOff1 State.openLoop
  extract_lets on off opened
  have hgates : IsoKept s (s.updStage a (fun x => { x with gates := false })) a d :=
    IsoKept.updCh ⟨rfl, fun _ => rfl⟩ (fun x => { x with stage := { x.stage with gates := false } }) (fun _ => rfl)
  have hopened : IsoKept s opened a d := (hgates.updLoop _).updSeq _
  split
  · exact hopened.updLoop _
  · exact hopened

/-- One switch of a staged opening. -/
def State.stagedOpen1 (s : State) (d : Ch) : State :=
  (s.gatesOff1 d).updStage d (fun x => { x with
    iso := if x.iso = .opened then .opened else .opening, settle := false
    pulse := if x.pulse = some .close then none else x.pulse })

theorem State.stagedOpen_eq (s : State) (c : Ch) : s.stagedOpen c = s.forCh (s.gang c) State.stagedOpen1 := rfl

theorem State.stagedOpen1_iso (s : State) (a d : Ch) :
    ((s.stagedOpen1 a).chan d).stage.iso =
        (if a = d then (if (s.chan d).stage.iso = .opened then .opened else .opening) else (s.chan d).stage.iso) ∧
      (a ≠ d → (s.stagedOpen1 a).chan d = s.chan d) := by
  obtain ⟨hiso, hother⟩ := s.gatesOff1_iso a d
  refine ⟨?_, fun h => (State.chan_updCh_other _ _ h).trans (hother h)⟩
  unfold State.stagedOpen1
  split
  next h =>
    subst h
    rw [State.chan_updStage_same]
    show (if ((s.gatesOff1 a).chan a).stage.iso = .opened then _ else _) = _
    rw [hiso]
  next h => rw [State.updStage, State.chan_updCh_other _ _ h, hiso]

/-- A switch that is not open opens at the end of its period. -/
theorem State.stagedOpen_opening (s : State) (c : Ch) {d : Ch} (hd : d ∈ s.gang c) (h : (s.chan d).stage.iso ≠ .opened) :
    ((s.stagedOpen c).chan d).stage.iso = .opening := by
  rw [State.stagedOpen_eq]
  refine State.forCh_establishes_of (I := fun t => (t.chan d).stage.iso ≠ .opened)
    (Q := fun t => (t.chan d).stage.iso = .opening) (fun t a hi => ?_) (fun t a hi hq => ?_) (fun t hi => ?_) h hd
  · rw [(t.stagedOpen1_iso a d).1]
    split
    · exact Iso.noConfusion
    · exact hi
  · rw [(t.stagedOpen1_iso a d).1]
    split
    · rfl
    · exact hq
  · rw [(t.stagedOpen1_iso d d).1, if_pos rfl, if_neg hi]

theorem State.stagedOpen_chBut (s : State) (c : Ch) : s.chBut (s.stagedOpen c) (s.gang c) := fun d hd =>
  State.forCh_chan_other (f := State.stagedOpen1) (fun t a d h => (t.stagedOpen1_iso a d).2 h) s hd

theorem State.stagedOpen_only (s : State) (c : Ch) : s.only (s.stagedOpen c) [.ch] :=
  State.forCh_only _ (fun _ d k => State.updCh_only (State.gatesOff1_only k d) d _) (State.only_refl _ _)

/-! ### A closure is requested -/

/-- The closure of a gang that is open begins. -/
def State.closeBegun (s : State) (l : Ch) : State :=
  (s.forCh (s.gang l) (fun s d => s.updStage d (fun x => { x with iso := .closing }))).startPulse l .close

/-- A request closes an open gang whose leader has no pulse, and opens one that is closed in part. -/
theorem State.requestClose_cases (s : State) (c : Ch) :
    ((∀ d ∈ s.gang (s.leader c), (s.chan d).stage.iso = .opened) ∧ (s.chan (s.leader c)).stage.pulse = none →
      s.requestClose c = s.closeBegun (s.leader c)) ∧
    ((∃ d ∈ s.gang (s.leader c), (s.chan d).stage.iso = .closed) ∧ (∃ d ∈ s.gang (s.leader c), (s.chan d).stage.iso ≠ .closed) →
      s.requestClose c = s.stagedOpen (s.leader c)) ∧
    (s.requestClose c = s.closeBegun (s.leader c) ∨ s.requestClose c = s ∨ s.requestClose c = s.stagedOpen (s.leader c)) := by
  refine ⟨fun ⟨hall, hp⟩ => ?_, fun ⟨⟨d, hd, hc⟩, e, he, hn⟩ => ?_, ?_⟩
  · unfold State.requestClose
    dsimp only
    rw [if_pos (by simpa using hall), if_pos (by simp [hp])]
    rfl
  · unfold State.requestClose
    dsimp only
    rw [if_neg (by simp only [List.all_eq_true, decide_eq_true_eq, not_forall]; exact ⟨d, hd, by simp [hc]⟩)]
    exact if_pos (by simp only [Bool.and_eq_true, List.any_eq_true, decide_eq_true_eq]; exact ⟨⟨d, hd, hc⟩, e, he, hn⟩)
  · unfold State.requestClose
    dsimp only
    split
    · split
      · exact .inl rfl
      · exact .inr (.inl rfl)
    · split
      · exact .inr (.inr rfl)
      · exact .inr (.inl rfl)

/-- The gang while its closure begins. -/
theorem State.closeBegun_spec {s : State} {l : Ch} (hl : l ∈ s.gang l) (hp : (s.chan l).stage.pulse = none) :
    ((s.closeBegun l).chan l).stage.pulse = some .close ∧
      (∀ d ∈ s.gang l, ((s.closeBegun l).chan d).stage.iso = .closing) := by
  let u := s.forCh (s.gang l) (fun s d => s.updStage d (fun x => { x with iso := .closing }))
  have hu (d : Ch) (hd : d ∈ s.gang l) : (u.chan d) = { s.chan d with stage := { (s.chan d).stage with iso := .closing } } := by
    rw [State.forCh_updStage_chan s _ (s.gang_nodup l), if_pos hd]
  have hpulse (d : Ch) : ((u.startPulse l .close).chan d).stage =
      if l = d then { (u.chan d).stage with
        pulse := if (u.chan d).stage.pulse = some .ov then (u.chan d).stage.pulse else some .close }
      else (u.chan d).stage := by
    unfold State.startPulse State.updMet State.updStage
    split
    next h =>
      subst h
      rw [State.chan_updCh_same, State.chan_updCh_same]
    next h => rw [State.chan_updCh_other _ _ h, State.chan_updCh_other _ _ h]
  refine ⟨?_, fun d hd => ?_⟩
  · show ((u.startPulse l .close).chan l).stage.pulse = _
    rw [hpulse, if_pos rfl, hu l hl]
    simp [hp]
  · show ((u.startPulse l .close).chan d).stage.iso = _
    rw [hpulse, hu d hd]
    split <;> rfl

theorem State.closeBegun_chBut {s : State} {l : Ch} (hl : l ∈ s.gang l) : s.chBut (s.closeBegun l) (s.gang l) := by
  intro d hd
  have hne : l ≠ d := fun e => hd (e ▸ hl)
  unfold State.closeBegun State.startPulse State.updMet State.updStage
  rw [State.chan_updCh_other _ _ hne, State.chan_updCh_other _ _ hne]
  exact State.forCh_chan_other (fun t a d h => State.chan_updCh_other _ _ h) s hd

theorem State.closeBegun_only (s : State) (l : Ch) : s.only (s.closeBegun l) [.ch] := by
  have hwalk : s.only (s.forCh (s.gang l) (fun s d => s.updStage d (fun x => { x with iso := .closing }))) [.ch] :=
    State.forCh_only _ (fun _ d k => State.updCh_only k d _) (State.only_refl _ _)
  exact State.updCh_only (State.updCh_only hwalk l _) l _

/-- A request of a channel meets its gang alone. -/
theorem State.requestClose_frame {s : State} (hg : s.gangsOk) (c : Ch) :
    s.chBut (s.requestClose c) (s.gang c) ∧ s.only (s.requestClose c) [.ch] := by
  have hl : s.leader c ∈ s.gang (s.leader c) := (hg (s.leader c)).2.1
  rw [← State.gang_leader hg c]
  rcases (s.requestClose_cases c).2.2 with h | h | h <;> rw [h]
  · exact ⟨State.closeBegun_chBut hl, s.closeBegun_only _⟩
  · exact ⟨fun _ _ => rfl, State.only_refl _ _⟩
  · exact ⟨s.stagedOpen_chBut _, s.stagedOpen_only _⟩

/-- A measurement closure is asked for again in STANDBY, by the bit of any member (R149). -/
def State.asksAgain (s : State) (c : Ch) : Prop :=
  s.sys.mode = .standby ∧ ∃ d ∈ s.gang c, s.rb (CH_ISO.MEAS_CLOSE d) = true

theorem State.measAgain_asked {s : State} {c : Ch} (h : s.asksAgain c) : s.measAgain c = s.requestClose c :=
  if_pos ⟨h.1, by simpa using h.2⟩

theorem State.measAgain_not {s : State} {c : Ch} (h : ¬ s.asksAgain c) : s.measAgain c = s :=
  if_neg (fun k => h ⟨k.1, by simpa using k.2⟩)

theorem State.measAgain_frame {s : State} (hg : s.gangsOk) (c : Ch) :
    s.chBut (s.measAgain c) (s.gang c) ∧ s.only (s.measAgain c) [.ch] := by
  by_cases h : s.asksAgain c
  · rw [State.measAgain_asked h]
    exact State.requestClose_frame hg c
  · rw [State.measAgain_not h]
    exact ⟨fun _ _ => rfl, State.only_refl _ _⟩

/-! ### The staged opening ends -/

/-- Every switch of the gang that was opening is open. -/
def State.openingDone (s : State) (c : Ch) : State :=
  s.forCh (s.gang c) (fun s d => s.updStage d (fun x => { x with iso := if x.iso = .opening then .opened else x.iso }))

theorem State.openingDone_chan (s : State) (c d : Ch) : (s.openingDone c).chan d =
    if d ∈ s.gang c then { s.chan d with stage := { (s.chan d).stage with
      iso := if (s.chan d).stage.iso = .opening then .opened else (s.chan d).stage.iso } } else s.chan d :=
  State.forCh_updStage_chan s _ (s.gang_nodup c) d

theorem State.openingDone_only (s : State) (c : Ch) : s.only (s.openingDone c) [.ch] :=
  State.forCh_only _ (fun _ d k => State.updCh_only k d _) (State.only_refl _ _)

theorem State.openingDone_seq (s : State) (c d : Ch) : (s.openingDone c).seq d = s.seq d := by
  unfold State.seq
  rw [State.openingDone_chan]
  split <;> rfl

/-- A change of stages alone leaves the gangs. -/
theorem State.leader_of_seq {s t : State} (h : ∀ d, t.seq d = s.seq d) (c : Ch) :
    t.leader c = s.leader c ∧ t.gang c = s.gang c :=
  ⟨by unfold State.leader; rw [h], State.gang_same (fun d => by rw [h]; exact ⟨rfl, rfl⟩) c⟩

theorem State.gangsOk_of_seq {s t : State} (h : ∀ d, t.seq d = s.seq d) (hg : s.gangsOk) : t.gangsOk := by
  unfold State.gangsOk State.members State.leader at hg ⊢
  simp only [h]
  exact hg

end Sys2Proof.Machine
end

section
open Sys2Proof Sys2Proof.Machine

/-- Settles O21: the end of the pulse, the end of the hold-off, the end of the staged opening, each with what it asks for. -/
theorem isolationClosesAndOpens : Obligations.IsolationClosesAndOpens := by
  unfold Obligations.IsolationClosesAndOpens
  intro s c hg again l
  refine ⟨fun diff hpulse => ⟨fun hin hmay => ?_, fun hno => ?_⟩, fun diff hpulse hl hin => ?_, fun hsettle hiso => ?_,
    fun hiso => ?_⟩
  · let u := s.pulseEnded c (kelInside diff)
    have hexec : exec (.kelvinPulseEnd c diff) s = Host.Outcome.next (u.closePulse c diff) := by
      show execKelvinPulseEnd c diff s = _
      unfold execKelvinPulseEnd
      rw [hpulse]
      rfl
    have hclose : u.closePulse c diff = u.isoClose c := by
      unfold State.closePulse
      dsimp only
      rw [if_pos (by rw [s.pulseEnded_mayClose, hin, hmay]; rfl)]
    rw [hclose] at hexec
    refine ⟨_, hexec, ?_, fun d hd => ?_⟩
    · rw [u.isoClose_pulse c c, s.pulseEnded_stage]
    · have hd' : d ∈ u.gang c := by rw [s.pulseEnded_gang]; exact hd
      obtain ⟨h1, h2, h3, h4⟩ := u.isoClose_closes c hd'
      have hinit : u.rd (CH_GD.GD_INIT d) = s.rd (CH_GD.GD_INIT d) := s.pulseEnded_rd c _ (by clear * -; revert c d; decide)
      rw [hinit] at h3 h4
      exact ⟨h1, h2, h3, h4⟩
  · let u := s.pulseEnded c (kelInside diff)
    have hexec : exec (.kelvinPulseEnd c diff) s = Host.Outcome.next (u.closePulse c diff) := by
      show execKelvinPulseEnd c diff s = _
      unfold execKelvinPulseEnd
      rw [hpulse]
      rfl
    refine ⟨_, hexec, fun d hd => State.closePulse_opens ?_ (by rw [s.pulseEnded_gang]; exact hd)⟩
    rw [s.pulseEnded_mayClose]
    exact hno
  · let u := s.pulseEnded c true
    have hexec : exec (.kelvinPulseEnd c diff) s = Host.Outcome.next (u.measAgain c) := by
      show execKelvinPulseEnd c diff s = _
      unfold execKelvinPulseEnd
      rw [hpulse, hin]
      rfl
    have hseq : ∀ d, u.seq d = s.seq d := s.pulseEnded_seq c true
    have hgu : u.gangsOk := State.gangsOk_of_seq hseq hg
    obtain ⟨hleader, hgang⟩ := State.leader_of_seq hseq c
    have hl' : s.leader c = c := hl
    have honly := s.pulseEnded_only c true
    have hmeas (d : Ch) : u.rd (CH_ISO.MEAS_CLOSE d) = s.rd (CH_ISO.MEAS_CLOSE d) :=
      s.pulseEnded_rd c true (by clear * -; revert c d; decide)
    have hagain : u.asksAgain c ↔ again := by
      unfold State.asksAgain State.rb
      rw [honly.2 .sys (by decide), hgang]
      have hread : ∀ d, u.regs.get (CH_ISO.MEAS_CLOSE d) = s.regs.get (CH_ISO.MEAS_CLOSE d) := hmeas
      simp only [hread]
      exact Iff.rfl
    obtain ⟨hbut, hch⟩ := State.measAgain_frame hgu c
    have hregs : (u.measAgain c).regs = u.regs := hch.2 .regs (by decide)
    refine ⟨_, hexec, ?_, fun ⟨ha, hall⟩ => ?_, fun hna => ?_, fun d hd => ?_, ?_, fun g hg' => ?_⟩
    · unfold State.rb
      rw [hregs]
      exact s.pulseEnded_kelOk c true
    · have hopen : ∀ d ∈ u.gang (u.leader c), (u.chan d).stage.iso = .opened := by
        rw [hleader, hl', hgang]
        intro d hd
        by_cases hdc : d = c
        · subst hdc
          rw [s.pulseEnded_stage]
          exact hall d hd
        · rw [s.pulseEnded_chBut c true d (by simpa using hdc)]
          exact hall d hd
      have hnone : (u.chan c).stage.pulse = none := by rw [s.pulseEnded_stage]
      have hreq := (u.requestClose_cases c).1 ⟨hopen, by rw [hleader, hl']; exact hnone⟩
      rw [hleader, hl'] at hreq
      rw [State.measAgain_asked (hagain.2 ha), hreq]
      have hself : c ∈ u.gang c := (hgu c).2.1
      obtain ⟨hp, hclosing⟩ := State.closeBegun_spec hself hnone
      exact ⟨hp, fun d hd => hclosing d (by rw [hgang]; exact hd)⟩
    · rw [State.measAgain_not (fun k => hna (hagain.1 k))]
      exact ⟨s.pulseEnded_stage c true, s.pulseEnded_chBut c true⟩
    · rw [hgang] at hbut
      refine (hbut d hd).trans (s.pulseEnded_chBut c true d (fun k => hd ?_))
      rw [List.mem_singleton.1 k]
      exact (hg c).2.1
    · exact State.only_trans honly (State.only_mono hch (by decide))
    · exact (State.rd_of_regs hregs g).trans (s.pulseEnded_rd c true (hg' _ (by simp)))
  · refine ⟨_, if_pos ⟨hsettle, hiso⟩, ?_, fun d hd => ?_, State.only_iff.2 (by simp)⟩
    · rw [State.chan_updStage_same]
    · exact State.chan_updCh_other _ _ (fun e => hd (by simp [e]))
  · let u := s.openingDone c
    have hexec : exec (.isoStagedOpen c) s = Host.Outcome.next (u.measAgain c) := if_pos hiso
    have hseq : ∀ d, u.seq d = s.seq d := s.openingDone_seq c
    have hgu : u.gangsOk := State.gangsOk_of_seq hseq hg
    obtain ⟨hleader, hgang⟩ := State.leader_of_seq hseq c
    have honly := s.openingDone_only c
    have hagain : u.asksAgain c ↔ again := by
      unfold State.asksAgain State.rb
      rw [honly.2 .sys (by decide), hgang, honly.2 .regs (by decide)]
      exact Iff.rfl
    obtain ⟨hbut, hch⟩ := State.measAgain_frame hgu c
    have hself : c ∈ s.gang c := (hg c).2.1
    have hgl : u.gang (u.leader c) = s.gang c := (State.gang_leader hgu c).trans hgang
    have hlself : s.leader c ∈ s.gang c := by
      rw [← State.gang_leader hg c]
      exact (hg (s.leader c)).2.1
    refine ⟨_, hexec, fun hna d hd => ?_, fun ha hnone hall => ?_, fun ha d hd hclosed => ?_, fun d hd => ?_, ?_⟩
    · rw [State.measAgain_not (fun k => hna (hagain.1 k)), State.openingDone_chan, if_pos hd]
    · have hopen : ∀ d ∈ u.gang (u.leader c), (u.chan d).stage.iso = .opened := by
        rw [hgl]
        intro d hd
        rw [State.openingDone_chan, if_pos hd]
        rcases hall d hd with h | h <;> simp [h]
      have hp : (u.chan (u.leader c)).stage.pulse = none := by
        rw [hleader, State.openingDone_chan, if_pos hlself]
        exact hnone
      have hin : u.leader c ∈ u.gang (u.leader c) := (hgu (u.leader c)).2.1
      obtain ⟨hpulse, hclosing⟩ := State.closeBegun_spec hin hp
      rw [State.measAgain_asked (hagain.2 ha), (u.requestClose_cases c).1 ⟨hopen, hp⟩]
      rw [hleader] at hpulse hclosing ⊢
      refine ⟨hpulse, fun d hd => hclosing d ?_⟩
      rw [← hleader, hgl]
      exact hd
    · have hclosed' : (u.chan d).stage.iso = .closed := by
        rw [State.openingDone_chan, if_pos hd]
        simp [hclosed]
      have hopened : (u.chan c).stage.iso ≠ .closed := by
        rw [State.openingDone_chan, if_pos hself]
        simp [hiso]
      rw [State.measAgain_asked (hagain.2 ha), (u.requestClose_cases c).2.1
        ⟨⟨d, by rw [hgl]; exact hd, hclosed'⟩, c, by rw [hgl]; exact hself, hopened⟩]
      exact State.stagedOpen_opening _ _ (by rw [hgl]; exact hd) (by rw [hclosed']; exact Iso.noConfusion)
    · rw [hgang] at hbut
      refine (hbut d hd).trans ?_
      rw [State.openingDone_chan, if_neg hd]
    · exact State.only_trans honly hch

end


section
/-!
SUPPORT. A channel in HOLD without a run stays so through reactions (R331, R332, R395).
-/

namespace Sys2Proof.Machine

/-- A channel in HOLD without a run. -/
def ChanS.holding (x : ChanS) : Prop := x.st = .hold ∧ x.run = none

/-- From `s` to `t` a channel that is in HOLD without a run stays so, with its cause. -/
def HoldKept (c : Ch) (s t : State) : Prop := (s.seq c).holding → (t.seq c).holding ∧ (t.seq c).why = (s.seq c).why

namespace HoldKept

variable {c : Ch} {s t u : State}

theorem refl (c : Ch) (s : State) : HoldKept c s s := fun h => ⟨h, rfl⟩

theorem trans (h : HoldKept c s t) (k : HoldKept c t u) : HoldKept c s u := fun hs =>
  ⟨(k (h hs).1).1, ((k (h hs).1).2).trans (h hs).2⟩

theorem ite {p : Prop} [Decidable p] (h : HoldKept c s t) (k : HoldKept c s u) : HoldKept c s (if p then t else u) := by
  split
  · exact h
  · exact k

theorem still (h : HoldKept c s t) (k : StepStill c t u) : HoldKept c s u :=
  h.trans fun hs => ⟨⟨k.st.trans hs.1, k.run_none hs.2⟩, k.why⟩

theorem same (h : HoldKept c s t) (k : u.ch = t.ch) : HoldKept c s u := by
  have hseq : u.seq c = t.seq c := congrArg (fun v : Vector Chan 16 => (bget v c).seq) k
  exact h.trans fun hs => ⟨by rw [hseq]; exact hs, by rw [hseq]⟩

theorem of_only (h : HoldKept c s t) {ps : List Part} (k : t.only u ps) (hp : .ch ∉ ps) : HoldKept c s u :=
  h.same (k.2 .ch hp)

theorem reported (h : HoldKept c s t) (k : Reported t u) : HoldKept c s u := h.of_only k.only (by decide)

theorem forCh {f : State → Ch → State} (l : List Ch) (k : ∀ t d, HoldKept c t (f t d)) (h : HoldKept c s t) :
    HoldKept c s (t.forCh l f) := by
  induction l generalizing t with
  | nil => exact h
  | cons a l ih => exact ih (h.trans (k t a))

theorem protOpen (h : HoldKept c s t) (d : Ch) : HoldKept c s (t.protOpen d) :=
  h.still ((StepStill.refl c t).foldl _ (fun a _ _ k => (State.gatesOff1_still k a).updStage a _))

/-- The step of another channel ends. -/
theorem enterHold (h : HoldKept c s t) {d : Ch} (hd : d ≠ c) (why : Nat) : HoldKept c s (t.enterHold d why) :=
  h.still (State.enterHold_still (.refl c t) hd why)

/-- A step ends; a channel without one is not met. -/
theorem failStep (h : HoldKept c s t) (d : Ch) (reason detail : Nat) : HoldKept c s (t.failStep d reason detail) := by
  by_cases hd : d = c
  · subst hd
    refine h.trans fun hs => ?_
    have hsame : t.failStep d reason detail = t := by
      unfold State.failStep
      dsimp only
      rw [hs.2]
      exact if_neg (by rw [hs.1]; decide)
    rw [hsame]
    exact ⟨hs, rfl⟩
  · have hledger (f : Ledger → Ledger) : HoldKept c s (t.ledger d f) :=
      h.still ((StepStill.refl c t).updCh d _ (fun e => absurd e hd))
    have hseq {v : State} (hv : HoldKept c s v) (f : ChanS → ChanS) : HoldKept c s (v.updSeq d f) :=
      hv.still ((StepStill.refl c v).updCh d _ (fun e => absurd e hd))
    unfold State.failStep
    extract_lets why
    split
    · exact .ite ((hledger _).enterHold hd why) h
    · exact .ite h (.ite (hseq h _) (hseq (h.enterHold hd why) _))

theorem safeChannels (h : HoldKept c s t) : HoldKept c s t.safeChannels :=
  .forCh _ (fun v d => (HoldKept.protOpen (.ite (.failStep (.refl c v) d _ _) (.failStep (.refl c v) d _ _)) d).same rfl) h

end HoldKept

theorem State.motTorqueOff_ch (s : State) : s.motTorqueOff.ch = s.ch := by
  unfold State.motTorqueOff
  dsimp only
  split
  · exact ((State.motGatesOff_only _).2 .ch (by decide)).trans ((State.motComplete_only s _ _).2 .ch (by decide))
  · refine ((State.motGatesOff_only _).2 .ch (by decide)).trans ?_
    split <;> rfl

theorem State.kdrLow_ch (s : State) : s.kdrLow.ch = s.ch := s.kdrLow_spec.2.2.1

theorem State.latchLow_ch (s : State) (x : SafeCause) : (s.latchLow x).ch = s.ch := by
  have hset (t : State) (f : Fld) (i : Nat) : (t.setFBit f i).ch = t.ch := rfl
  show (s.latchCause x).ch = s.ch
  unfold State.latchCause
  extract_lets set latched saf void
  have hlatched : latched.ch = s.ch := by
    unfold latched
    split
    · rfl
    · split <;> rfl
  have hvoid : void.ch = s.ch := hlatched
  clear_value void
  cases x with
  | ringWdog r => cases r <;> exact hvoid
  | _ => exact hvoid

theorem State.abandon_ch (s : State) (status : Nat) : (s.abandon status).ch = s.ch :=
  (s.abandon_only status).2 .ch (by decide)

theorem HoldKept.goSafe {c : Ch} {s t : State} (h : HoldKept c s t) (atOnce : Bool) : HoldKept c s (t.goSafe atOnce) := by
  unfold State.goSafe
  extract_lets traced errn sys going dumped saf
  have htraced : HoldKept c s traced :=
    (((h.same (t.abandon_ch 4)).safeChannels).same (State.motTorqueOff_ch _)).reported (.traceAll (.refl _) 7)
  clear_value traced
  have herrn : HoldKept c s errn := htraced.reported (.errPull (.refl traced))
  clear_value errn
  have hgoing : HoldKept c s going := herrn.same rfl
  clear_value going
  have hdumped : HoldKept c s dumped := .ite (hgoing.reported (.dumpTrigger (.refl _) _ _)) hgoing
  clear_value dumped
  exact .ite (hdumped.same (State.kdrLow_ch _)) (.ite (hdumped.same rfl) hdumped)

theorem HoldKept.safeReq {c : Ch} {s t : State} (h : HoldKept c s t) (x : SafeCause) (atOnce : Bool) :
    HoldKept c s (t.safeReq x atOnce) := by
  have hlow : HoldKept c s (t.latchLow x) := h.same (t.latchLow_ch x)
  by_cases hd : t.driven
  · rw [State.safeReq_driven t x atOnce hd]
    exact .ite (.ite (hlow.same (State.kdrLow_ch _)) hlow) (hlow.goSafe atOnce)
  · rw [State.safeReq_aside t x atOnce hd]
    have habandon : HoldKept c s ((t.latchLow x).abandon 4) := hlow.same (State.abandon_ch _ 4)
    exact .ite hlow (.ite (habandon.same (State.kdrLow_ch _)) habandon)

/-- A raise whose reaction resets nothing leaves a channel in HOLD. -/
theorem HoldKept.raiseAs {c : Ch} {s t : State} (h : HoldKept c s t) (n : Src) (d : Ch) (x : SafeCause) (hq : t.quiet n) :
    HoldKept c s (t.raiseAs n d x) := by
  cases hlisted : srcListed n.val with
  | false =>
    rw [State.raiseAs_unlisted t n d x hlisted]
    exact h.same rfl
  | true =>
    by_cases hact : (t.src n).act &&& actBit n d = 0
    · rw [State.raiseAs_new t n d x hlisted hact, State.react_quiet _ n d _ x hq.1 hq.2]
      have hreport : HoldKept c s (t.report n d) := h.of_only (t.report_only n d) (by decide)
      exact .ite (hreport.safeReq x _) hreport
    · rw [State.raiseAs_again t n d x hlisted hact]
      have hholds : HoldKept c s (t.updSrc n (fun y => { y with cond := y.cond ||| actBit n d })) := h.same rfl
      exact .ite (hholds.safeReq x _) hholds

end Sys2Proof.Machine
end


section
/-!
SUPPORT. Lost contact (R178, R307): the step ends, the gang opens, `KEL_OPEN` is raised.
-/

namespace Sys2Proof.Machine

/-- From `s` to `t` channel `c` has begun its exclusion; the gangs and the collector are the same. -/
structure Lost (c : Ch) (s t : State) : Prop where
  excl : (t.chan c).met.excl = true
  gangs : SameGangs s t

namespace Lost

variable {c : Ch} {s t u : State}

theorem same (h : Lost c s t) (hc : u.ch = t.ch) (hf : u.flt = t.flt) : Lost c s u := by
  have hchan : u.chan c = t.chan c := congrArg (fun v : Vector Chan 16 => bget v c) hc
  exact ⟨by rw [hchan]; exact h.excl, h.gangs.same hc hf⟩

theorem updCh (h : Lost c s t) (f : Chan → Chan) (hm : ∀ x, (f x).met = x.met)
    (hf : ∀ x, (f x).seq.lead = x.seq.lead ∧ (f x).seq.size = x.seq.size) : Lost c s (t.updCh c f) := by
  refine ⟨?_, ⟨fun d => ?_, h.gangs.flt⟩⟩
  · rw [State.chan_updCh_same, hm]
    exact h.excl
  · unfold State.seq
    by_cases hd : c = d
    · subst hd
      rw [State.chan_updCh_same, (hf _).1, (hf _).2]
      exact h.gangs.gang c
    · rw [State.chan_updCh_other _ _ hd]
      exact h.gangs.gang d

theorem reacted (h : Lost c s t) (k : Reacted t u) (hf : u.flt = t.flt) : Lost c s u :=
  ⟨by rw [(k.chan c).met]; exact h.excl,
    ⟨fun d => ⟨((k.chan d).lead).trans (h.gangs.gang d).1, ((k.chan d).size).trans (h.gangs.gang d).2⟩, hf.trans h.gangs.flt⟩⟩

end Lost

/-- A running step that loses contact: it ends at once unless its end is due. -/
theorem State.contactLost_spec {s : State} {c : Ch} (h : (s.seq c).run.any (fun r => !r.failed) = true) :
    Lost c s (s.contactLost c) ∧
      ((s.seq c).run.any (fun r => r.ending.any (fun e => e.at_ = .due)) = false →
        ((s.contactLost c).seq c).holding ∧ ((s.contactLost c).seq c).why = 2) := by
  obtain ⟨r, hrun, hlive⟩ : ∃ r, (s.seq c).run = some r ∧ r.failed = false := by
    cases hr : (s.seq c).run with
    | none => simp [hr] at h
    | some r => exact ⟨r, rfl, by simpa [hr] using h⟩
  let m := s.updMet c (fun m => { m with excl := true, exclTick := true })
  have hm : Lost c s m := by
    refine ⟨?_, (SameGangs.refl s).updCh c _ (fun _ => rfl)⟩
    unfold m State.updMet
    rw [State.chan_updCh_same]
  have hseq : m.seq c = s.seq c :=
    (congrArg Chan.seq (State.chan_updCh_same s c (fun x => { x with met := { x.met with excl := true, exclTick := true } }))).trans rfl
  have hrun' : (m.seq c).run = some r := by rw [hseq]; exact hrun
  have heq : s.contactLost c =
      if r.ending.any (fun e => e.at_ = .due) then
        m.updSeq c (fun x => { x with late := x.late.orElse (fun _ => some (rCONTACT, 0)) })
      else ((m.ledger c (fun l => (l.flag fEXCL).closes rCONTACT (m.now - 1))).postStep c r rCONTACT 0xFF 0xFFFF 0).enterHold c 2 := by
    unfold State.contactLost
    dsimp only
    show (match (m.seq c).run with | none => _ | some r => _) = _
    rw [hrun']
    exact if_neg (by simp [hlive])
  rw [heq, hrun]
  split
  next hdue =>
    exact ⟨hm.updCh (fun x => { x with seq := { x.seq with late := _ } }) (fun _ => rfl) (fun _ => ⟨rfl, rfl⟩),
      fun hno => by simp [hdue] at hno⟩
  next hdue =>
    let l := m.ledger c (fun l => (l.flag fEXCL).closes rCONTACT (m.now - 1))
    have hl : Lost c s l := by
      refine hm.updCh _ (fun x => ?_) (fun x => ?_)
      · dsimp only [Chan.saveLedger]
        split <;> rfl
      · dsimp only [Chan.saveLedger]
        split <;> exact ⟨rfl, rfl⟩
    have hp : Lost c s (l.postStep c r rCONTACT 0xFF 0xFFFF 0) := hl.same rfl rfl
    refine ⟨hp.reacted (.enterHold (.refl _) c 2) ((State.enterHold_only (State.only_refl _ _) c 2).2 .flt (by decide)), fun _ => ?_⟩
    unfold State.enterHold
    rw [State.seq_updSeq_same]
    exact ⟨⟨rfl, rfl⟩, rfl⟩

end Sys2Proof.Machine
end

section
open Sys2Proof Sys2Proof.Machine

/-- Settles O22: the step ends or waits for its due end, the gang opens, and the quiet raise of `KEL_OPEN` takes none of it
back. -/
theorem kelvinOpenEndsTheStep : Obligations.KelvinOpenEndsTheStep := by
  unfold Obligations.KelvinOpenEndsTheStep
  intro s c hg hen hrun hlead hq
  obtain ⟨hlost, hhold⟩ := State.contactLost_spec hrun
  let v := (s.contactLost c).protOpen c
  let w := (v.wr (CH_PSTAT.KEL_OK c) 0).wr (CH_PFLT.KEL_OPEN c) 1
  have hexec : exec (.kelOpen c) s = Host.Outcome.next (w.raise 6 c) := if_pos (by simp [hen, hrun, hlead])
  have hv : Lost c s v := hlost.reacted (.protOpen (.refl _) c) ((State.protOpen_only _ c).2 .flt (by decide))
  have hw : Lost c s w := hv.same rfl rfl
  have hqw : w.quiet 6 := hw.gangs.quiet hq
  have hraise : Reacted w (w.raise 6 c) := .raiseAs (.refl w) 6 c _ hqw
  refine ⟨_, hexec, fun hno => ?_, fun d hd => ?_, ?_, ?_, State.raise_activeIn hqw (by decide) (by decide)⟩
  · obtain ⟨hheld, hwhy⟩ := hhold hno
    have hkeptv : HoldKept c (s.contactLost c) v := (HoldKept.refl c _).protOpen c
    have hkeptw : HoldKept c (s.contactLost c) w := hkeptv.same (t := v) (u := w) rfl
    have hkept : HoldKept c (s.contactLost c) (w.raiseAs 6 c (srcCause 6)) := hkeptw.raiseAs 6 c _ hqw
    obtain ⟨⟨hst, hrun⟩, hwhy'⟩ := hkept hheld
    exact ⟨hst, hwhy'.trans hwhy, hrun⟩
  · have hopen : (v.chan d).stage.isOpen := State.protOpen_opens _ (by rw [hlost.gangs.gang_eq]; exact hd)
    have hopenw : (w.chan d).stage.isOpen := hopen
    clear_value w
    exact (hraise.chan d).stage hopenw
  · have hzero : w.rd (CH_PSTAT.KEL_OK c) = 0 := by
      refine (State.rd_wr_other _ _ ?_).trans (State.rd_wr_same v _ _)
      clear * -
      revert c
      decide
    have hkeep : (w.raise 6 c).rd (CH_PSTAT.KEL_OK c) = w.rd (CH_PSTAT.KEL_OK c) :=
      hraise.regs _ (by clear * -; revert c; decide)
    show decide ((w.raise 6 c).rd (CH_PSTAT.KEL_OK c) = 1) = false
    rw [hkeep, hzero]
    rfl
  · rw [(hraise.chan c).met]
    exact hw.excl

end


section
/-!
SUPPORT. What reactions that reset nothing leave of MOT, of SAF and of the registers (R81, R87, R599, R600, R673).
-/

namespace Sys2Proof.Machine

/-- MOT without what the end of a motion command and the fall of its gates change. -/
def MotS.calm (m : MotS) : MotS :=
  { m with cmd := none, start := .none, hold := .none, duty := 0, iInt := 0, sInt := 0, fInt := 0, iCmd := 0, gatesOff := true }

/-- SAF without its outputs and what a safe-state request latches. -/
def SafS.calm (x : SafS) : SafS :=
  { x with
    cen := false, ien := false, men := false, ss1 := none, menAt := none, toggled := false, okSince := default,
    kdr := false, kEdge := 0, kChecked := false, kDropAt := none }

/-- The fields a reaction writes itself, beside the reports of the collector and the trace. -/
def reactFlds : List Fld :=
  [MOT_STAT.STATE, MOT_STAT.ASHORT, SAF_KSTAT.STATE, SAF_STAT.LATCH, SAF_CAUSE.FIRST, SAF_CAUSE.POS, SAF_CAUSEV.SF,
    SAF_CAUSEV.OTHER] ++ allCh.map CH_ISO.MEAS_CLOSE

/-- No reaction that resets nothing writes the field. -/
def Fld.mild (f : Fld) : Bool :=
  decide (f.page ≠ 3) && decide (f.page ≠ 9) && reactFlds.all (fun g => decide (g.key ≠ f.key))

/-- From `s` to `t` MOT, SAF and the registers differ by reactions alone. -/
structure Mild (s t : State) : Prop where
  mot : t.mot.calm = s.mot.calm
  saf : t.saf.calm = s.saf.calm
  regs : ∀ f : Fld, f.mild = true → t.rd f = s.rd f

namespace Mild

variable {s t u : State}

theorem refl (s : State) : Mild s s := ⟨rfl, rfl, fun _ _ => rfl⟩

theorem trans (h : Mild s t) (k : Mild t u) : Mild s u :=
  ⟨k.mot.trans h.mot, k.saf.trans h.saf, fun f hf => (k.regs f hf).trans (h.regs f hf)⟩

theorem ite {p : Prop} [Decidable p] (h : Mild s t) (k : Mild s u) : Mild s (if p then t else u) := by
  split
  · exact h
  · exact k

theorem foldl {α : Type} {f : State → α → State} (l : List α) (k : ∀ t a, Mild s t → Mild s (f t a)) (h : Mild s t) :
    Mild s (l.foldl f t) := by
  induction l generalizing t with
  | nil => exact h
  | cons a l ih => exact ih (k t a h)

theorem same (h : Mild s t) (hm : u.mot.calm = t.mot.calm) (hs : u.saf.calm = t.saf.calm) (hr : u.regs = t.regs) : Mild s u :=
  h.trans ⟨hm, hs, fun f _ => by unfold State.rd; rw [hr]⟩

theorem withMot (h : Mild s t) (x : MotS) (hx : x.calm = t.mot.calm) : Mild s { t with mot := x } := h.same hx rfl rfl

theorem withSaf (h : Mild s t) (x : SafS) (hx : x.calm = t.saf.calm) : Mild s { t with saf := x } := h.same rfl hx rfl

theorem of_only (h : Mild s t) {ps : List Part} (k : t.only u ps) (hm : .mot ∉ ps) (hs : .saf ∉ ps) (hr : .regs ∉ ps) :
    Mild s u :=
  h.same (congrArg MotS.calm (k.2 .mot hm)) (congrArg SafS.calm (k.2 .saf hs)) (k.2 .regs hr)

theorem wr (h : Mild s t) (f : Fld) (v : Nat) (hf : f ∈ reactFlds) : Mild s (t.wr f v) := by
  refine h.trans ⟨rfl, rfl, fun g hg => State.rd_wr_other t v ?_⟩
  unfold Fld.mild at hg
  simp only [Bool.and_eq_true, List.all_eq_true, decide_eq_true_eq] at hg
  exact hg.2 f hf

theorem reported (h : Mild s t) (k : Reported t u) : Mild s u := by
  refine h.trans ⟨congrArg MotS.calm (k.only.2 .mot (by decide)), congrArg SafS.calm (k.only.2 .saf (by decide)),
    fun f hf => ?_⟩
  unfold Fld.mild at hf
  simp only [Bool.and_eq_true, decide_eq_true_eq] at hf
  exact k.regs f hf.1.1 hf.1.2

theorem ledger (h : Mild s t) (c : Ch) (f : Ledger → Ledger) : Mild s (t.ledger c f) := h.same rfl rfl rfl

theorem enterHold (h : Mild s t) (c : Ch) (why : Nat) : Mild s (t.enterHold c why) :=
  h.of_only (State.enterHold_only (State.only_refl t _) c why) (by decide) (by decide) (by decide)

theorem protOpen (h : Mild s t) (c : Ch) : Mild s (t.protOpen c) :=
  h.of_only (t.protOpen_only c) (by decide) (by decide) (by decide)

theorem failStep (h : Mild s t) (c : Ch) (reason detail : Nat) : Mild s (t.failStep c reason detail) := by
  unfold State.failStep
  extract_lets why
  split
  · exact .ite ((h.ledger c _).enterHold c why) h
  · exact .ite h (.ite (h.same rfl rfl rfl) ((h.enterHold c why).same rfl rfl rfl))

theorem motComplete (h : Mild s t) (reason detail : Nat) : Mild s (t.motComplete reason detail) := by
  unfold State.motComplete
  split
  · exact h
  · exact h.same rfl rfl rfl

theorem motGatesOff (h : Mild s t) : Mild s t.motGatesOff :=
  (h.withMot _ (by exact rfl)).wr MOT_STAT.ASHORT 0 (by decide)

theorem motTorqueOff (h : Mild s t) : Mild s t.motTorqueOff := by
  have hfree : Mild s { t with mot := { t.mot with hold := .none } } := h.same rfl rfl rfl
  unfold State.motTorqueOff
  exact .ite ((h.motComplete _ _).wr MOT_STAT.STATE 5 (by decide)).motGatesOff
    (.motGatesOff (.ite hfree (hfree.wr MOT_STAT.STATE 0 (by decide))))

theorem abandon (h : Mild s t) (status : Nat) : Mild s (t.abandon status) :=
  h.of_only (t.abandon_only status) (by decide) (by decide) (by decide)

theorem safeChannels (h : Mild s t) : Mild s t.safeChannels := by
  have hmeas : ∀ c : Ch, CH_ISO.MEAS_CLOSE c ∈ reactFlds := by decide
  exact .foldl _ (fun _ c k => .wr (.protOpen (.ite (k.failStep c _ _) (k.failStep c _ _)) c) _ _ (hmeas c)) h

theorem kdrLow (h : Mild s t) : Mild s t.kdrLow := by
  unfold State.kdrLow
  exact .ite ((h.withSaf _ (by exact rfl)).wr SAF_KSTAT.STATE 3 (by decide)) (h.withSaf _ (by exact rfl))

theorem latchLow (h : Mild s t) (x : SafeCause) : Mild s (t.latchLow x) := by
  refine Mild.same (t := t.latchCause x) ?_ rfl rfl rfl
  unfold State.latchCause
  extract_lets set latched saf void
  have hset : Mild s set := (h.wr SAF_STAT.LATCH _ (by decide)).wr SAF_CAUSE.FIRST _ (by decide)
  have hlatched : Mild s latched := by
    refine .ite h ?_
    split <;> exact hset.wr SAF_CAUSE.POS _ (by decide)
  have hvoid : Mild s void := hlatched.same rfl rfl rfl
  have hbit {v : State} (hv : Mild s v) (f : Fld) (hf : f ∈ reactFlds) (i : Nat) : Mild s (v.setFBit f i) := hv.wr f _ hf
  cases x with
  | sf n => exact hbit (hvoid.withSaf _ (by exact rfl)) SAF_CAUSEV.SF (by decide) _
  | ringWdog r => cases r <;> exact hbit hvoid SAF_CAUSEV.OTHER (by decide) _
  | _ => exact hbit hvoid SAF_CAUSEV.OTHER (by decide) _

theorem goSafe (h : Mild s t) (atOnce : Bool) : Mild s (t.goSafe atOnce) := by
  unfold State.goSafe
  extract_lets traced errn sys going dumped saf
  have htraced : Mild s traced := (h.abandon 4).safeChannels.motTorqueOff.reported (.traceAll (.refl _) 7)
  clear_value traced
  have herrn : Mild s errn := htraced.reported (.errPull (.refl traced))
  clear_value errn
  have hgoing : Mild s going := herrn.same rfl rfl rfl
  clear_value going
  have hdumped : Mild s dumped := .ite (hgoing.reported (.dumpTrigger (.refl _) _ _)) hgoing
  clear_value dumped
  exact .ite hdumped.kdrLow (.ite (hdumped.same rfl rfl rfl) hdumped)

theorem safeReq (h : Mild s t) (x : SafeCause) (atOnce : Bool) : Mild s (t.safeReq x atOnce) := by
  have hlow := h.latchLow x
  by_cases hd : t.driven
  · rw [State.safeReq_driven t x atOnce hd]
    exact .ite (.ite hlow.kdrLow hlow) (hlow.goSafe atOnce)
  · rw [State.safeReq_aside t x atOnce hd]
    exact .ite hlow (.ite (hlow.abandon 4).kdrLow (hlow.abandon 4))

/-- A raise whose reaction resets nothing. -/
theorem raiseAs (h : Mild s t) (n : Src) (d : Ch) (x : SafeCause) (hq : t.quiet n) : Mild s (t.raiseAs n d x) := by
  have hmark (f : SrcS → SrcS) : Mild s (t.updSrc n f) := h.same rfl rfl rfl
  cases hlisted : srcListed n.val with
  | false =>
    rw [State.raiseAs_unlisted t n d x hlisted]
    exact hmark _
  | true =>
    by_cases hact : (t.src n).act &&& actBit n d = 0
    · rw [State.raiseAs_new t n d x hlisted hact, State.react_quiet _ n d _ x hq.1 hq.2]
      have hreport : Mild s (t.report n d) := (hmark _).reported (t.report_reported n d)
      exact .ite (hreport.safeReq x _) hreport
    · rw [State.raiseAs_again t n d x hlisted hact]
      exact .ite ((hmark _).safeReq x _) (hmark _)

end Mild

/-- A quiet raise takes no source of the device back. -/
theorem State.Grown_act_ne {x y : SrcS} (h : x.Grown y) (hx : x.act ≠ 0) : y.act ≠ 0 := by
  obtain ⟨i, hi⟩ : ∃ i, x.act.getLsbD i = true := by
    by_contra hno
    exact hx (BitVec.eq_of_getLsbD_eq fun i _ => by
      rw [show (0 : BitVec 16).getLsbD i = false from by simp]
      exact Bool.eq_false_iff.2 fun e => hno ⟨i, e⟩)
  intro hy
  have := h.act i hi
  rw [hy] at this
  simp at this

theorem actBit_ne (n : Src) (c : Ch) : actBit n c ≠ 0 := by
  intro h
  unfold actBit at h
  split at h
  · have := getLsbD_chBit c c
    rw [h] at this
    simp at this
  · revert h c
    split <;> decide

/-- A source whose reaction resets nothing is active after its raise. -/
theorem State.raiseAs_active {s : State} {n : Src} (c : Ch) (x : SafeCause) (hq : s.quiet n) (hlisted : srcListed n.val = true) :
    (s.raiseAs n c x).active n = true := by
  have hgrown := (Reacted.raiseAs (.refl s) n c x hq).src n
  unfold State.active
  rw [decide_eq_true_eq]
  by_cases hact : (s.src n).act = 0
  · obtain ⟨hall, -⟩ := (s.raiseAs_act n c x hq hlisted).2 (by rw [hact]; simp)
    intro hnone
    refine actBit_ne n c (BitVec.eq_of_getLsbD_eq fun i _ => ?_)
    rw [show (0 : BitVec 16).getLsbD i = false from by simp]
    refine Bool.eq_false_iff.2 fun e => ?_
    have := hall i e
    rw [hnone] at this
    simp at this
  · exact State.Grown_act_ne hgrown hact

end Sys2Proof.Machine
end


section
namespace Sys2Proof.Machine

/-! ### A comparator releases (R687, R691) -/

/-- The filter of a comparator releases; one of a cell below −0.2 V shows it. -/
def State.cmpReleased (s : State) (i : CmpId) : State :=
  let s := s.updCmp i (fun x => { x with raw := false, filt := false, init := false })
  if i.val % 4 = 3 ∧ i.val < 64 then s.wr (CH_PSTAT.REV (Fin.ofNat 16 (i.val / 4))) 0 else s

/-- The comparator is released: its latched bit stands, and every other comparator is as it was. -/
def State.released (s t : State) (i : CmpId) : Prop :=
  (t.cmpAt i).raw = false ∧ (t.cmpAt i).filt = false ∧ (t.cmpAt i).init = false ∧ (t.cmpAt i).lat = (s.cmpAt i).lat ∧
    ∀ j : CmpId, j ≠ i → t.cmpAt j = s.cmpAt j

theorem State.released_same {s t u : State} {i : CmpId} (h : s.released t i) (hu : u.cmp = t.cmp) : s.released u i := by
  have hcmp (j : CmpId) : u.cmpAt j = t.cmpAt j := congrArg (fun v => bget v j) hu
  unfold State.released
  simp only [hcmp]
  exact h

theorem State.cmpReleased_released (s : State) (i : CmpId) : s.released (s.cmpReleased i) i := by
  have hfirst : s.released (s.updCmp i (fun x => { x with raw := false, filt := false, init := false })) i := by
    unfold State.released
    rw [State.cmpAt_updCmp_same]
    exact ⟨rfl, rfl, rfl, rfl, fun j hj => State.cmpAt_updCmp_other s _ (Ne.symm hj)⟩
  unfold State.cmpReleased
  dsimp only
  split
  · exact State.released_same hfirst rfl
  · exact hfirst

theorem State.cmpReleased_only (s : State) (i : CmpId) : s.only (s.cmpReleased i) [.cmp, .regs] := by
  have hfirst := s.updCmp_only i (fun x => { x with raw := false, filt := false, init := false })
  unfold State.cmpReleased
  dsimp only
  split
  · exact State.wr_only (State.only_mono hfirst (by decide)) _ _ (by decide)
  · exact State.only_mono hfirst (by decide)

theorem State.cmpReleased_regs (s : State) {i : CmpId} (h : ¬ (i.val % 4 = 3 ∧ i.val < 64)) :
    s.only (s.cmpReleased i) [.cmp] := by
  unfold State.cmpReleased
  dsimp only
  rw [if_neg h]
  exact s.updCmp_only i _

theorem Duty.turn_off (d : Duty) (t : Nat) : (d.turn false t).since = none := by
  obtain ⟨since, log⟩ := d
  cases since <;> rfl

theorem Duty.turn_on (d : Duty) (t : Nat) : (d.turn true t).since.isSome = true := by
  obtain ⟨since, log⟩ := d
  cases since <;> rfl

/-- The choppers and `VDRV` follow their comparators (R608, R609, R611, R634). -/
def State.releaseActs (s : State) (i : CmpId) : State :=
  if i.val = 69 then
    let s := { s with saf := { s.saf with brkbForce := false } }
    if s.active 36 then { s with saf := { s.saf with brkb := s.saf.brkb.turn false s.clk } } else s
  else if i.val = 68 ∧ s.active 24 then
    { s with mot := { s.mot with brkm := s.mot.brkm.turn false s.clk } }.wr MOT_STAT.BRKM 0
  else if i.val = 71 then { s with pins := { s.pins with vdrv := true } }
  else s

theorem State.releaseActs_only (s : State) (i : CmpId) : s.only (s.releaseActs i) [.regs, .saf, .mot, .pins] := by
  have hid : s.only s [.regs, .saf, .mot, .pins] := State.only_refl _ _
  unfold State.releaseActs
  dsimp only
  split
  · split <;> exact State.only_iff.2 (by simp)
  · split
    · exact State.only_iff.2 (by simp)
    · split
      · exact State.only_iff.2 (by simp)
      · exact hid

theorem State.releaseActs_none (s : State) {i : CmpId} (h : ¬ (68 ≤ i.val ∧ i.val ≤ 69) ∧ i.val ≠ 71) :
    s.releaseActs i = s := by
  unfold State.releaseActs
  dsimp only
  rw [if_neg (by omega), if_neg (by omega), if_neg (by omega)]

theorem State.releaseActs_motChopper (s : State) {i : CmpId} (hi : i.val = 68) (ha : s.active 24 = true) :
    (s.releaseActs i).rb MOT_STAT.BRKM = false ∧ (s.releaseActs i).mot.brkm.since = none := by
  unfold State.releaseActs
  dsimp only
  rw [if_neg (by omega), if_pos ⟨hi, ha⟩]
  refine ⟨?_, Duty.turn_off _ _⟩
  show decide ((State.wr _ MOT_STAT.BRKM 0).rd MOT_STAT.BRKM = 1) = false
  rw [State.rd_wr_same]
  rfl

theorem State.releaseActs_busChopper (s : State) {i : CmpId} (hi : i.val = 69) :
    (s.releaseActs i).saf.brkbForce = false ∧ (s.active 36 = true → (s.releaseActs i).saf.brkb.since = none) := by
  have hact : ({ s with saf := { s.saf with brkbForce := false } } : State).active 36 = s.active 36 := rfl
  unfold State.releaseActs
  dsimp only
  rw [if_pos hi, hact]
  cases s.active 36 with
  | true =>
    rw [if_pos rfl]
    exact ⟨rfl, fun _ => Duty.turn_off _ _⟩
  | false =>
    rw [if_neg (by decide)]
    exact ⟨rfl, fun h => nomatch h⟩

theorem State.releaseActs_vdrv (s : State) {i : CmpId} (hi : i.val = 71) : (s.releaseActs i).pins.vdrv = true := by
  unfold State.releaseActs
  dsimp only
  rw [if_neg (by omega), if_neg (by omega), if_pos hi]

/-! ### A comparator trips (R687, R689) -/

/-- A comparator that is tripped, or one whose trip raises nothing. -/
def State.cmpKept (s : State) (i : CmpId) (rev : Bool) : State :=
  let s := s.updCmp i (fun x => { x with raw := true })
  if i.val < 64 ∧ i.val % 4 = 3 ∧ rev then s.wr (CH_PSTAT.REV (Fin.ofNat 16 (i.val / 4))) 1 else s

theorem State.cmpKept_cmp (s : State) (i : CmpId) (rev : Bool) :
    (s.cmpKept i rev).cmp = (s.updCmp i (fun x => { x with raw := true })).cmp := by
  unfold State.cmpKept
  dsimp only
  split <;> rfl

theorem State.cmpKept_cmpAt (s : State) (i : CmpId) (rev : Bool) : (s.cmpKept i rev).cmpAt i = { s.cmpAt i with raw := true } :=
  (congrArg (fun v => bget v i) (s.cmpKept_cmp i rev)).trans (State.cmpAt_updCmp_same s i _)

theorem State.cmpKept_only (s : State) (i : CmpId) (rev : Bool) : s.only (s.cmpKept i rev) [.cmp, .regs] := by
  have hfirst := s.updCmp_only i (fun x => { x with raw := true })
  unfold State.cmpKept
  dsimp only
  split
  · exact State.wr_only (State.only_mono hfirst (by decide)) _ _ (by decide)
  · exact State.only_mono hfirst (by decide)

theorem State.cmpKept_regs (s : State) {i : CmpId} {rev : Bool} (h : ¬ (i.val < 64 ∧ i.val % 4 = 3 ∧ rev = true)) :
    s.only (s.cmpKept i rev) [.cmp] := by
  unfold State.cmpKept
  dsimp only
  rw [if_neg h]
  exact s.updCmp_only i _

theorem State.cmpKept_regsBut (s : State) (i : CmpId) (rev : Bool) :
    s.regsBut (s.cmpKept i rev) [CH_PSTAT.REV (Fin.ofNat 16 (i.val / 4))] := by
  unfold State.cmpKept
  dsimp only
  split
  · exact State.regsBut_wr (State.regsBut_of_regs rfl _) (by simp) 1
  · exact State.regsBut_of_regs rfl _

theorem State.cmpTripped_kept (s : State) (i : CmpId) (rev : Bool) :
    s.cmpTripped i rev = (s.cmpKept i rev).updCmp i (fun x => { x with filt := true, lat := true }) := rfl

theorem State.cmpTripped_cmpAt (s : State) (i : CmpId) (rev : Bool) :
    ((s.cmpTripped i rev).cmpAt i).filt = true ∧ ((s.cmpTripped i rev).cmpAt i).lat = true := by
  rw [State.cmpTripped_kept, State.cmpAt_updCmp_same]
  exact ⟨rfl, rfl⟩

theorem State.cmpTripped_regs (s : State) {i : CmpId} {rev : Bool} (h : ¬ (i.val < 64 ∧ i.val % 4 = 3 ∧ rev = true)) :
    s.only (s.cmpTripped i rev) [.cmp] :=
  State.only_trans (s.cmpKept_regs h) (State.updCmp_only _ i _)

theorem chCmp_three (c : Ch) (k : Fin 4) : (chCmp c k).val % 4 = k.val ∧ (chCmp c k).val < 64 ∧
    Fin.ofNat 16 ((chCmp c k).val / 4) = c := by
  revert c k
  decide

/-- The chopper of VM turns on (R611). -/
def State.motChopOn (s : State) : State := { s with mot := { s.mot with brkm := s.mot.brkm.turn true s.clk } }.wr MOT_STAT.BRKM 1

theorem State.motChopOn_shows (s : State) : s.motChopOn.rd MOT_STAT.BRKM = 1 := State.rd_wr_same _ _ _

/-- The chopper of VB turns on and stays so until the comparator releases (R634). -/
def State.busChopOn (s : State) : State :=
  { s with saf := { s.saf with brkb := s.saf.brkb.turn true s.clk, brkbForce := true } }

/-- What follows the trip of a comparator of the device that was not tripped. -/
def State.devTrip (s : State) (i : CmpId) : State :=
  if i.val = 68 then s.motChopOn.demandUp 4
  else if i.val = 69 then s.busChopOn.demandUp 4
  else if i.val = 70 then s.raiseDev 37
  else if i.val = 71 then s.vdrvTrip
  else s

theorem State.vdrvTrip_raise (s : State) : s.vdrvTrip = s.vdrvLow.raiseAs 38 0 (srcCause 38) := rfl

theorem State.devTrip_vdrv (s : State) : s.devTrip 71 = s.vdrvLow.raiseAs 38 0 (srcCause 38) := by
  rw [← State.vdrvTrip_raise]
  unfold State.devTrip
  rw [if_neg (by decide), if_neg (by decide), if_neg (by decide), if_pos (by decide)]

theorem State.comparatorTrip_dev {s : State} {i : CmpId} (hi : 67 ≤ i.val) (h : (s.cmpAt i).filt = false) (rev : Bool) :
    exec (.comparatorTrip i rev) s = Host.Outcome.next ((s.cmpTripped i rev).devTrip i) := by
  show execComparatorTrip i rev s = _
  unfold execComparatorTrip State.devTrip
  dsimp only
  rw [if_neg (c := 64 ≤ i.val ∧ i.val ≤ 66) (by omega), if_neg (by simp [h]), dif_neg (by omega), apply_ite Host.Outcome.next,
    apply_ite Host.Outcome.next, apply_ite Host.Outcome.next, apply_ite Host.Outcome.next]
  rfl

/-- A demand of a chopper leaves both as they are, and is active (R611, R634). -/
theorem State.demandUp_choppers {u : State} (hq : u.quiet 68) :
    (u.demandUp 4).mot.brkm = u.mot.brkm ∧ (u.demandUp 4).saf.brkb = u.saf.brkb ∧
      (u.demandUp 4).saf.brkbForce = u.saf.brkbForce ∧ (u.demandUp 4).rd MOT_STAT.BRKM = u.rd MOT_STAT.BRKM ∧
      (u.demandUp 4).active 68 = true := by
  have hmild : Mild u (u.demandUp 4) := .raiseAs (.refl u) 68 0 _ hq
  have hact : (u.demandUp 4).active 68 = true := State.raiseAs_active 0 _ hq (by decide)
  generalize u.demandUp 4 = t at hmild hact ⊢
  exact ⟨(congrArg MotS.brkm hmild.mot :), (congrArg SafS.brkb hmild.saf :), (congrArg SafS.brkbForce hmild.saf :),
    hmild.regs _ (by decide), hact⟩

theorem State.cmpTripped_quiet {s : State} {n : Src} (h : s.quiet n) (i : CmpId) (rev : Bool) : (s.cmpTripped i rev).quiet n := by
  have hflt := (s.cmpTripped_only i rev).2 .flt (by decide)
  unfold State.quiet State.src at h ⊢
  rw [hflt]
  exact h

end Sys2Proof.Machine
end

section
open Sys2Proof Sys2Proof.Machine

/-- A comparator releases. -/
theorem comparatorRelease_acts (s : State) (i : CmpId) : s.ends (.comparatorRelease i) (fun t =>
    (t.cmpAt i).raw = false ∧ (t.cmpAt i).filt = false ∧
      (t.cmpAt i).init = false ∧ (t.cmpAt i).lat = (s.cmpAt i).lat ∧ (∀ j : CmpId, j ≠ i → t.cmpAt j = s.cmpAt j) ∧
      s.only t [.cmp, .regs, .saf, .mot, .pins] ∧
      (i.val < 64 → i.val % 4 ≠ 3 → s.only t [.cmp]) ∧ (64 ≤ i.val → i.val ≤ 67 → s.only t [.cmp]) ∧
      (i.val = 70 → s.only t [.cmp]) ∧
      (i.val = 68 → s.active 24 = true → t.rb MOT_STAT.BRKM = false ∧ t.mot.brkm.since = none) ∧
      (i.val = 69 → t.saf.brkbForce = false ∧ (s.active 36 = true → t.saf.brkb.since = none)) ∧
      (i.val = 71 → t.pins.vdrv = true)) := by
  refine ⟨(s.cmpReleased i).releaseActs i, rfl, ?_⟩
  have honly := (s.cmpReleased i).releaseActs_only i
  have hsrc (n : Src) : (s.cmpReleased i).active n = s.active n := by
    unfold State.active State.src
    rw [(s.cmpReleased_only i).2 .flt (by decide)]
  have hrel := State.released_same (s.cmpReleased_released i) (honly.2 .cmp (by decide))
  have hquiet (h : ¬ (68 ≤ i.val ∧ i.val ≤ 69) ∧ i.val ≠ 71) (h3 : ¬ (i.val % 4 = 3 ∧ i.val < 64)) :
      s.only ((s.cmpReleased i).releaseActs i) [.cmp] := by
    rw [State.releaseActs_none _ h]
    exact s.cmpReleased_regs h3
  obtain ⟨hraw, hfilt, hinit, hlat, hrest⟩ := hrel
  exact ⟨hraw, hfilt, hinit, hlat, hrest,
    State.only_trans (State.only_mono (s.cmpReleased_only i) (by decide)) (State.only_mono honly (by decide)),
    fun _ h3 => hquiet (by omega) (by omega), fun _ _ => hquiet (by omega) (by omega), fun _ => hquiet (by omega) (by omega),
    fun hi ha => State.releaseActs_motChopper _ hi ((hsrc 24).trans ha),
    fun hi => ⟨(State.releaseActs_busChopper _ hi).1, fun ha => (State.releaseActs_busChopper _ hi).2 ((hsrc 36).trans ha)⟩,
    fun hi => State.releaseActs_vdrv _ hi⟩

/-- The lower comparator of a cell releases: the cell is no longer reversed (R205). -/
theorem comparatorRelease_reverse (s : State) (c : Ch) : s.ends (.comparatorRelease (chCmp c 3)) (fun t =>
    t.rb (CH_PSTAT.REV c) = false ∧ s.only t [.cmp, .regs] ∧ s.regsBut t [CH_PSTAT.REV c]) := by
  obtain ⟨hk, hlow, hch⟩ := chCmp_three c 3
  let u := s.updCmp (chCmp c 3) (fun x => { x with raw := false, filt := false, init := false })
  have hu : s.cmpReleased (chCmp c 3) = u.wr (CH_PSTAT.REV c) 0 := by
    unfold State.cmpReleased
    dsimp only
    rw [if_pos ⟨hk, hlow⟩, hch]
  refine ⟨(s.cmpReleased (chCmp c 3)).releaseActs (chCmp c 3), rfl, ?_⟩
  rw [State.releaseActs_none _ (by omega)]
  refine ⟨?_, s.cmpReleased_only _, ?_⟩
  · rw [hu]
    show decide ((u.wr (CH_PSTAT.REV c) 0).rd (CH_PSTAT.REV c) = 1) = false
    rw [State.rd_wr_same]
    simp
  · rw [hu]
    exact State.regsBut_wr (State.regsBut_of_regs rfl _) (by simp) 0

/-- A trip of a comparator that is tripped, its initial state among them, raises nothing (R691). -/
theorem comparatorTrip_again (s : State) (rev : Bool) (i : CmpId) (h : (s.cmpAt i).filt = true ∨ (64 ≤ i.val ∧ i.val ≤ 66)) :
    s.ends (.comparatorTrip i rev) (fun t =>
      (t.cmpAt i).raw = true ∧ (t.cmpAt i).filt = true ∧ s.only t [.cmp, .regs] ∧
      s.regsBut t [CH_PSTAT.REV (Fin.ofNat 16 (i.val / 4))] ∧
      (i.val % 4 ≠ 3 ∨ 64 ≤ i.val ∨ rev = false → s.only t [.cmp])) := by
  have hquiet (hi : i.val % 4 ≠ 3 ∨ 64 ≤ i.val ∨ rev = false) : ¬ (i.val < 64 ∧ i.val % 4 = 3 ∧ rev = true) := by
    rintro ⟨hlow, hk, hrev⟩
    rcases hi with hi | hi | hi
    · exact hi hk
    · omega
    · rw [hrev] at hi
      cases hi
  by_cases hmid : 64 ≤ i.val ∧ i.val ≤ 66
  · let u := (s.cmpKept i rev).updCmp i (fun x => { x with filt := true })
    have hat : u.cmpAt i = { s.cmpAt i with raw := true, filt := true } := by
      unfold u
      rw [State.cmpAt_updCmp_same, State.cmpKept_cmpAt]
    have hexec : exec (.comparatorTrip i rev) s = Host.Outcome.next u := by
      show execComparatorTrip i rev s = _
      unfold execComparatorTrip
      dsimp only
      rw [if_pos hmid]
      rfl
    refine ⟨u, hexec, by rw [hat], by rw [hat],
      State.only_trans (s.cmpKept_only i rev) (State.only_mono (State.updCmp_only _ i _) (by decide)), ?_, fun hi =>
        State.only_trans (s.cmpKept_regs (hquiet hi)) (State.updCmp_only _ i _)⟩
    exact State.regsBut_trans (s.cmpKept_regsBut i rev) (State.regsBut_of_regs rfl _)
  · have hfilt := h.resolve_right hmid
    refine ⟨s.cmpKept i rev, ?_, by rw [State.cmpKept_cmpAt], by rw [State.cmpKept_cmpAt]; exact hfilt, s.cmpKept_only i rev,
      s.cmpKept_regsBut i rev, fun hi => s.cmpKept_regs (hquiet hi)⟩
    show execComparatorTrip i rev s = _
    unfold execComparatorTrip
    dsimp only
    rw [if_neg hmid, if_pos hfilt]
    rfl

/-- The over-voltage comparator of a channel opens its gang and starts the pulse that confirms it (R172). -/
theorem comparatorTrip_over (s : State) (rev : Bool) (c : Ch) (hg : s.gangsOk) (hfilt : (s.cmpAt (chCmp c 2)).filt = false)
    (hlead : (s.seq c).lead = none) :
    s.ends (.comparatorTrip (chCmp c 2) rev) (fun t => (t.chan c).stage.pulse = some .ov ∧
        (∀ d ∈ s.gang c, (t.chan d).stage.gates = false ∧ (t.chan d).stage.iso = .opened) ∧ s.only t [.cmp, .ch]) := by
  obtain ⟨hk, hlow, -⟩ := chCmp_three c 2
  let u := s.cmpTripped (chCmp c 2) rev
  have hcmp : s.only u [.cmp] := s.cmpTripped_regs (by omega)
  have hgangs : SameGangs s u := s.cmpTripped_gangs _ rev
  have hfree : ¬ ((u.seq c).lead.isSome = true) := by
    rw [(hgangs.gang c).1, hlead]
    simp
  have hpulse : (((u.protOpen c).startPulse c .ov).chan c).stage.pulse = some .ov := by
    unfold State.startPulse State.updStage State.updMet
    rw [State.chan_updCh_same, State.chan_updCh_same]
    dsimp only
    split
    next h => exact h
    next => rfl
  have hstage (d : Ch) : ∀ hd : ((u.protOpen c).chan d).stage.isOpen, (((u.protOpen c).startPulse c .ov).chan d).stage.isOpen := by
    intro hd
    unfold State.startPulse State.updStage State.updMet
    by_cases e : c = d
    · subst e
      rw [State.chan_updCh_same, State.chan_updCh_same]
      exact hd
    · rw [State.chan_updCh_other _ _ e, State.chan_updCh_other _ _ e]
      exact hd
  refine ⟨(u.protOpen c).startPulse c .ov, (State.comparatorTrip_ch hfilt rev).trans ?_, hpulse, fun d hd => ?_, ?_⟩
  · exact congrArg Host.Outcome.next (if_neg hfree)
  · exact hstage d (State.protOpen_opens u (hgangs.gang_eq c ▸ hd))
  · exact State.only_trans (State.only_mono hcmp (by decide)) (State.only_trans (State.only_mono (u.protOpen_only c) (by decide))
      (State.only_iff.2 (by simp [State.startPulse])))

end

section
open Sys2Proof Sys2Proof.Machine

/-- Settles O23: releases and trips by cases on the comparator; what a quiet raise leaves of MOT and SAF (`Mild`) keeps the
choppers on, and `State.vdrvTrip_off` holds whatever the reaction. -/
theorem comparatorTripsAndReleases : Obligations.ComparatorTripsAndReleases := by
  unfold Obligations.ComparatorTripsAndReleases
  intro s rev
  refine ⟨comparatorRelease_acts s, comparatorRelease_reverse s, comparatorTrip_again s rev, fun c hf => ?_, fun c hf hmode => ?_,
    fun c hg hf hl => comparatorTrip_over s rev c hg hf hl, fun hf => ?_, fun hf hq => ?_, fun hf hq => ?_, fun hf hq => ?_,
    fun hf hq hg => ?_⟩
  · obtain ⟨hk, -⟩ := chCmp_three c 0
    exact ⟨_, State.comparatorTrip_ch hf rev, (s.cmpTripped_cmpAt _ rev).1, (s.cmpTripped_cmpAt _ rev).2,
      s.cmpTripped_regs (by omega)⟩
  · obtain ⟨hk, -⟩ := chCmp_three c 1
    let u := (s.cmpTripped (chCmp c 1) rev).updStage c (fun x => { x with olTick := true })
    have hol : u.rd (CH_OL.OL_MODE c) ≠ 0 := by
      have := s.cmpTripped_rd (chCmp c 1) rev (key_rev_olMode c)
      exact fun e => hmode (this.symm.trans e)
    have honly : s.only (s.cmpTripped (chCmp c 1) rev) [.cmp] := s.cmpTripped_regs (by omega)
    refine ⟨u, (State.comparatorTrip_ch hf rev).trans (congrArg Host.Outcome.next (if_neg hol)),
      (s.cmpTripped_cmpAt _ rev).2, ?_, fun d hd => ?_, ?_⟩
    · unfold u State.updStage
      rw [State.chan_updCh_same]
    · unfold u State.updStage
      rw [State.chan_updCh_other _ _ (fun e => hd (by simp [e]))]
      exact congrArg (fun v : Vector Chan 16 => bget v d) (honly.2 .ch (by decide))
    · exact State.only_trans (State.only_mono honly (by decide)) (State.only_iff.2 (by simp [u]))
  · exact ⟨_, State.comparatorTrip_dev (by decide) hf rev, (s.cmpTripped_cmpAt 67 rev).1, (s.cmpTripped_cmpAt 67 rev).2,
      s.cmpTripped_regs (fun h => absurd h.1 (by decide))⟩
  · have hq' : ((s.cmpTripped 68 rev).motChopOn).quiet 68 := State.cmpTripped_quiet hq 68 rev
    obtain ⟨hbrkm, -, -, hrd, hact⟩ := State.demandUp_choppers hq'
    refine ⟨_, State.comparatorTrip_dev (by decide) hf rev, ?_, ?_, hact⟩
    · show decide (((s.cmpTripped 68 rev).motChopOn.demandUp 4).rd MOT_STAT.BRKM = 1) = true
      rw [hrd, (s.cmpTripped 68 rev).motChopOn_shows]
      rfl
    · exact (congrArg (fun d : Duty => d.since.isSome) hbrkm).trans (Duty.turn_on _ _)
  · have hq' : ((s.cmpTripped 69 rev).busChopOn).quiet 68 := State.cmpTripped_quiet hq 69 rev
    obtain ⟨-, hbrkb, hforce, -, hact⟩ := State.demandUp_choppers hq'
    exact ⟨_, State.comparatorTrip_dev (by decide) hf rev, hforce,
      (congrArg (fun d : Duty => d.since.isSome) hbrkb).trans (Duty.turn_on _ _), hact⟩
  · exact ⟨_, State.comparatorTrip_dev (by decide) hf rev,
      State.raiseAs_active (s := s.cmpTripped 70 rev) 0 _ (State.cmpTripped_quiet hq 70 rev) (by decide)⟩
  · let u := s.cmpTripped 71 rev
    have hgu : u.gangsOk := (s.cmpTripped_gangs 71 rev).gangsOk hg
    have hlow : u.vdrvLow.quiet 38 := by
      have hflt := u.vdrvLow_only.2 .flt (by decide)
      have hq' := State.cmpTripped_quiet hq 71 rev
      unfold State.quiet State.src at hq' ⊢
      rw [hflt]
      exact hq'
    have hpin : u.vdrvLow.pins.vdrv = false := congrArg Pins.vdrv (u.vdrvLow_only.2 .pins (by decide))
    obtain ⟨hoff, hpins⟩ := State.raiseAs_allOff (u.vdrvLow_allOff hgu) 38 0 (srcCause 38) (by decide) (by decide)
    have hact := State.raiseAs_active (s := u.vdrvLow) 0 (srcCause 38) hlow (by decide)
    have hexec := (State.comparatorTrip_dev (i := 71) (by decide) hf rev).trans (congrArg Host.Outcome.next u.devTrip_vdrv)
    generalize u.vdrvLow.raiseAs 38 0 (srcCause 38) = t at *
    exact ⟨t, hexec, (congrArg Pins.vdrv hpins).trans hpin, hoff.2, hact, fun d => hoff.1 d⟩

/-- Settles O25: the form of a slot tests the causes in this order. -/
theorem rollbackCauses : Obligations.RollbackCauses := by
  unfold Obligations.RollbackCauses
  intro p k swapped dff lo hi y f
  cases swapped with
  | true => simp [f, formOut]
  | false =>
    by_cases htw : p.tw < (y - k.yHat).natAbs
    · have hnot : ¬ (y - k.yHat).natAbs ≤ p.tw := by omega
      simp [f, formOut, htw, hnot]
    · have hle : (y - k.yHat).natAbs ≤ p.tw := by omega
      by_cases hsat : (commitLaw p p.tmpl k y).sat = k.sat
      · simp [f, formOut, htw, hle, hsat]
      · simp [f, formOut, htw, hle, hsat]

end


section
/-!
SUPPORT. What faults and reactions keep of the loop of a channel (R153, R241).
-/

namespace Sys2Proof.Machine

/-- The loop opens (R152). -/
def LoopS.opened (l : LoopS) : LoopS :=
  { l with
    closed := false, ck := none, ckB := none, icmd := 0, oCmd := 0, out1 := none, out2 := none, sh1 := none, sh2 := none
    iGang := 0, iEff := 0, r := 0 }

/-- A property of a loop that its opening and the cut of a PWM period keep. -/
structure LoopS.Lasts (Q : LoopS → Prop) : Prop where
  opened : ∀ l : LoopS, Q l → Q l.opened
  susp : ∀ l : LoopS, Q l → Q l.suspend

/-- From `s` to `t` the loop of a channel keeps a property. -/
def LoopKept (Q : LoopS → Prop) (c : Ch) (s t : State) : Prop := Q (s.chan c).loop → Q (t.chan c).loop

namespace LoopKept

variable {Q : LoopS → Prop} {c : Ch} {s t u : State}

theorem refl (Q : LoopS → Prop) (c : Ch) (s : State) : LoopKept Q c s s := id

theorem trans (h : LoopKept Q c s t) (k : LoopKept Q c t u) : LoopKept Q c s u := k ∘ h

theorem ite {p : Prop} [Decidable p] (h : LoopKept Q c s t) (k : LoopKept Q c s u) : LoopKept Q c s (if p then t else u) := by
  split
  · exact h
  · exact k

theorem same (h : LoopKept Q c s t) (k : u.ch = t.ch) : LoopKept Q c s u := by
  have hchan : u.chan c = t.chan c := congrArg (fun v : Vector Chan 16 => bget v c) k
  intro hs
  rw [hchan]
  exact h hs

theorem of_only (h : LoopKept Q c s t) {ps : List Part} (k : t.only u ps) (hp : .ch ∉ ps) : LoopKept Q c s u :=
  h.same (k.2 .ch hp)

theorem reported (h : LoopKept Q c s t) (k : Reported t u) : LoopKept Q c s u := h.of_only k.only (by decide)

theorem updCh (h : LoopKept Q c s t) (d : Ch) (f : Chan → Chan) (hf : Q (t.chan d).loop → Q (f (t.chan d)).loop) :
    LoopKept Q c s (t.updCh d f) := by
  intro hs
  by_cases hd : d = c
  · subst hd
    rw [State.chan_updCh_same]
    exact hf (h hs)
  · rw [State.chan_updCh_other t f hd]
    exact h hs

theorem updStage (h : LoopKept Q c s t) (d : Ch) (f : Stage → Stage) : LoopKept Q c s (t.updStage d f) := h.updCh d _ id

theorem updSeq (h : LoopKept Q c s t) (d : Ch) (f : ChanS → ChanS) : LoopKept Q c s (t.updSeq d f) := h.updCh d _ id

theorem updLoop (h : LoopKept Q c s t) (d : Ch) (f : LoopS → LoopS) (hf : ∀ l, Q l → Q (f l)) :
    LoopKept Q c s (t.updLoop d f) := h.updCh d _ (hf _)

theorem ledger (h : LoopKept Q c s t) (d : Ch) (f : Ledger → Ledger) : LoopKept Q c s (t.ledger d f) := by
  refine h.updCh d _ ?_
  dsimp only [Chan.saveLedger]
  split <;> exact id

theorem forCh {f : State → Ch → State} (l : List Ch) (k : ∀ t d, LoopKept Q c t (f t d)) (h : LoopKept Q c s t) :
    LoopKept Q c s (t.forCh l f) := by
  induction l generalizing t with
  | nil => exact h
  | cons a l ih => exact ih (h.trans (k t a))

section
variable (hQ : LoopS.Lasts Q)
include hQ

theorem gatesOff1 (h : LoopKept Q c s t) (d : Ch) : LoopKept Q c s (t.gatesOff1 d) := by
  have hopen : LoopKept Q c s (((t.updStage d (fun x => { x with gates := false })).updLoop d LoopS.opened).updSeq d
      (fun x => { x with
        rate := 0, vref := none, xset := none, vref0 := none, xset0 := none, short := none, wind := none })) :=
    ((h.updStage d _).updLoop d _ hQ.opened).updSeq d _
  exact .ite (p := (t.chan d).stage.gates = true) (hopen.updLoop d LoopS.suspend hQ.susp) hopen

theorem gatesOff (h : LoopKept Q c s t) (d : Ch) : LoopKept Q c s (t.gatesOff d) :=
  .forCh _ (fun v a => (LoopKept.refl Q c v).gatesOff1 hQ a) h

theorem protOpen (h : LoopKept Q c s t) (d : Ch) : LoopKept Q c s (t.protOpen d) :=
  .forCh _ (fun v a => ((LoopKept.refl Q c v).gatesOff1 hQ a).updStage a _) h

theorem stagedOpen (h : LoopKept Q c s t) (d : Ch) : LoopKept Q c s (t.stagedOpen d) :=
  .forCh _ (fun v a => ((LoopKept.refl Q c v).gatesOff1 hQ a).updStage a _) h

theorem enterHold (h : LoopKept Q c s t) (d : Ch) (why : Nat) : LoopKept Q c s (t.enterHold d why) :=
  (h.stagedOpen hQ d).updSeq d _

theorem failStep (h : LoopKept Q c s t) (d : Ch) (reason detail : Nat) : LoopKept Q c s (t.failStep d reason detail) := by
  unfold State.failStep
  extract_lets why
  split
  · exact .ite ((h.ledger d _).enterHold hQ d why) h
  · exact .ite h (.ite (h.updSeq d _) ((h.enterHold hQ d why).updSeq d _))

theorem safeChannels (h : LoopKept Q c s t) : LoopKept Q c s t.safeChannels :=
  .forCh _ (fun v d => (LoopKept.protOpen hQ (.ite (.failStep hQ (.refl Q c v) d _ _) (.failStep hQ (.refl Q c v) d _ _)) d).same
    rfl) h

theorem goSafe (h : LoopKept Q c s t) (atOnce : Bool) : LoopKept Q c s (t.goSafe atOnce) := by
  unfold State.goSafe
  extract_lets traced errn sys going dumped saf
  have htraced : LoopKept Q c s traced :=
    (((h.same (t.abandon_ch 4)).safeChannels hQ).same (State.motTorqueOff_ch _)).reported (.traceAll (.refl _) 7)
  clear_value traced
  have herrn : LoopKept Q c s errn := htraced.reported (.errPull (.refl traced))
  clear_value errn
  have hgoing : LoopKept Q c s going := herrn.same rfl
  clear_value going
  have hdumped : LoopKept Q c s dumped := .ite (hgoing.reported (.dumpTrigger (.refl _) _ _)) hgoing
  clear_value dumped
  exact .ite (hdumped.same (State.kdrLow_ch _)) (.ite (hdumped.same rfl) hdumped)

theorem safeReq (h : LoopKept Q c s t) (x : SafeCause) (atOnce : Bool) : LoopKept Q c s (t.safeReq x atOnce) := by
  have hlow : LoopKept Q c s (t.latchLow x) := h.same (t.latchLow_ch x)
  by_cases hd : t.driven
  · rw [State.safeReq_driven t x atOnce hd]
    exact .ite (.ite (hlow.same (State.kdrLow_ch _)) hlow) (hlow.goSafe hQ atOnce)
  · rw [State.safeReq_aside t x atOnce hd]
    have habandon : LoopKept Q c s ((t.latchLow x).abandon 4) := hlow.same (State.abandon_ch _ 4)
    exact .ite hlow (.ite (habandon.same (State.kdrLow_ch _)) habandon)

/-- The raise of a source that is active again in its place. -/
theorem raiseAs_held (h : LoopKept Q c s t) (n : Src) (d : Ch) (x : SafeCause) (hlisted : srcListed n.val = true)
    (hact : (t.src n).act &&& actBit n d ≠ 0) : LoopKept Q c s (t.raiseAs n d x) := by
  rw [State.raiseAs_again t n d x hlisted hact]
  have hholds : LoopKept Q c s (t.updSrc n (fun y => { y with cond := y.cond ||| actBit n d })) := h.same rfl
  exact .ite (hholds.safeReq hQ x _) hholds

/-- A raise whose reaction resets nothing. -/
theorem raiseAs (h : LoopKept Q c s t) (n : Src) (d : Ch) (x : SafeCause) (hlisted : srcListed n.val = true) (hq : t.quiet n) :
    LoopKept Q c s (t.raiseAs n d x) := by
  by_cases hact : (t.src n).act &&& actBit n d = 0
  · rw [State.raiseAs_new t n d x hlisted hact, State.react_quiet _ n d _ x hq.1 hq.2]
    have hreport : LoopKept Q c s (t.report n d) := h.of_only (t.report_only n d) (by decide)
    exact .ite (hreport.safeReq hQ x _) hreport
  · exact h.raiseAs_held hQ n d x hlisted hact

variable (hreset : Q LoopS.reset)
include hreset

omit hQ in
theorem fullReset (h : LoopKept Q c s t) (k : RstKind) (cause wake : Nat) (cut : Bool) :
    LoopKept Q c s (t.fullReset k cause wake cut) := by
  rcases t.fullReset_cases k cause wake cut with hsame | ⟨-, -, -, -, -, -, v, hch⟩
  · rw [hsame]
    exact h
  · intro _
    have hchan : (t.fullReset k cause wake cut).chan c = Chan.afterReset k (bget v c) :=
      (congrArg (fun w : Vector Chan 16 => bget w c) hch).trans (bget_bmap _ _ _)
    rw [hchan]
    unfold Chan.afterReset
    split <;> exact hreset

theorem chipReset (h : LoopKept Q c s t) (cause : Nat) : LoopKept Q c s (t.chipReset cause) := by
  unfold State.chipReset
  split
  · extract_lets abandoned opened off saf low flt
    have habandon : LoopKept Q c s abandoned := h.of_only t.blockAbandon_only (by decide)
    have hopened : LoopKept Q c s opened :=
      .forCh (f := fun v a => v.protOpen a) _ (fun v a => (LoopKept.refl Q c v).protOpen hQ a) habandon
    clear_value opened
    have hoff : LoopKept Q c s off := hopened.same rfl
    clear_value off
    exact hoff.same rfl
  · exact h.fullReset hreset _ _ _ _

theorem quadResetCh (h : LoopKept Q c s t) (d : Ch) : LoopKept Q c s (t.quadResetCh d) := by
  have hopened : LoopKept Q c s ((t.failStep d rINT 0).protOpen d) := (h.failStep hQ d rINT 0).protOpen hQ d
  unfold State.quadResetCh
  extract_lets +onlyGivenNames v x
  have hv : LoopKept Q c s v := hopened
  clear_value x v
  extract_lets +onlyGivenNames _ _ reset
  have hdone : LoopKept Q c s reset := hv.updCh d _ (fun _ => hreset)
  exact hdone.same rfl

theorem resetQuad (h : LoopKept Q c s t) (q : Quad) (src : Nat) (byFault : Bool) :
    LoopKept Q c s (t.resetQuad q src byFault) := by
  unfold State.resetQuad
  extract_lets +onlyGivenNames s1
  have hs1 : LoopKept Q c s s1 := (h.of_only t.blockAbandon_only (by decide)).of_only (State.event_only _ _ _ _) (by decide)
  clear_value s1
  extract_lets +onlyGivenNames s2
  have hs2 : LoopKept Q c s s2 := hs1.of_only (s1.traceStop_only q) (by decide)
  clear_value s2
  extract_lets +onlyGivenNames _ _ s3
  have hs3 : LoopKept Q c s s3 :=
    hs2.trans (.forCh (f := State.quadResetCh) _ (fun v d => (LoopKept.refl Q c v).quadResetCh hQ hreset d) (.refl Q c s2))
  clear_value s3
  extract_lets +onlyGivenNames s4 load s5
  have hs5 : LoopKept Q c s s5 := hs3.same rfl
  clear_value s5
  clear_value load
  rcases load with _ | ⟨_ | _⟩
  · exact hs5
  · next adm =>
    cases adm with
    | none => exact hs5
    | some a => exact .ite (hs5.of_only (State.admDone_only _ _ _ _ _) (by decide)) hs5
  · exact hs5

omit hQ hreset in
theorem resetRing (h : LoopKept Q c s t) (src : Nat) (byFault : Bool) : LoopKept Q c s (t.resetRing src byFault) := by
  unfold State.resetRing
  extract_lets +onlyGivenNames s1
  have hs1 : LoopKept Q c s s1 := (h.of_only t.blockAbandon_only (by decide)).of_only (State.event_only _ _ _ _) (by decide)
  clear_value s1
  extract_lets +onlyGivenNames r
  extract_lets +onlyGivenNames _ s2
  have hs2 : LoopKept Q c s s2 := hs1.same rfl
  clear_value s2
  extract_lets +onlyGivenNames _ s3
  have hs3 : LoopKept Q c s s3 := .ite hs2 (hs2.same rfl)
  clear_value s3
  exact hs3.same rfl

/-- A raise, whatever its reaction. -/
theorem raiseAny (h : LoopKept Q c s t) (n : Src) (d : Ch) (x : SafeCause) (hlisted : srcListed n.val = true) :
    LoopKept Q c s (t.raiseAs n d x) := by
  by_cases hact : (t.src n).act &&& actBit n d = 0
  · rw [State.raiseAs_new t n d x hlisted hact]
    have hreport : LoopKept Q c s (t.report n d) := h.of_only (t.report_only n d) (by decide)
    unfold State.react
    extract_lets asked
    have hasked : LoopKept Q c s asked := .ite (hreport.safeReq hQ x _) hreport
    clear_value asked
    split
    · exact hasked.chipReset hQ hreset 5
    · split
      · split
        · exact hasked.resetQuad hQ hreset _ _ _
        · exact hasked.same (asked.resetMot_spec _ _).1
        · exact hasked.resetRing _ _
      · exact hasked
  · exact h.raiseAs_held hQ n d x hlisted hact

theorem faultStop (h : LoopKept Q c s t) (n : Src) (d : Ch) (opens : Bool) (hlisted : srcListed n.val = true) :
    LoopKept Q c s (t.faultStop n d opens) := by
  rw [State.faultStop_eq]
  have hfail : LoopKept Q c s (t.failStep (t.leader d) rFAULT (dSrc n)) := h.failStep hQ _ _ _
  have hstop : LoopKept Q c s (t.gangStop n d opens) :=
    .ite (hfail.protOpen hQ _) (.ite (hfail.stagedOpen hQ _) (hfail.gatesOff hQ _))
  generalize t.gangStop n d opens = u at hstop ⊢
  unfold State.chRaise
  refine LoopKept.raiseAny (t := match pfltFld d n.val with | some f => u.wr f 1 | none => u) hQ hreset ?_ n d _ hlisted
  split
  · exact hstop.same rfl
  · exact hstop

end

end LoopKept

end Sys2Proof.Machine
end


section
namespace Sys2Proof.Machine

/-! ### The parts of a channel beside the one that is written -/

theorem State.chan_updCh_proj {α : Type} (π : Chan → α) (s : State) (c d : Ch) (f : Chan → Chan)
    (hf : ∀ x : Chan, π (f x) = π x) : π ((s.updCh c f).chan d) = π (s.chan d) := by
  by_cases h : c = d
  · subst h
    rw [State.chan_updCh_same]
    exact hf _
  · rw [State.chan_updCh_other s f h]

@[simp] theorem State.stage_updLoop (s : State) (c d : Ch) (f : LoopS → LoopS) :
    ((s.updLoop c f).chan d).stage = (s.chan d).stage := s.chan_updCh_proj Chan.stage c d _ (fun _ => rfl)

@[simp] theorem State.stage_updSeq (s : State) (c d : Ch) (f : ChanS → ChanS) :
    ((s.updSeq c f).chan d).stage = (s.chan d).stage := s.chan_updCh_proj Chan.stage c d _ (fun _ => rfl)

@[simp] theorem State.stage_updMet (s : State) (c d : Ch) (f : ChMet → ChMet) :
    ((s.updMet c f).chan d).stage = (s.chan d).stage := s.chan_updCh_proj Chan.stage c d _ (fun _ => rfl)

@[simp] theorem State.loop_updStage (s : State) (c d : Ch) (f : Stage → Stage) :
    ((s.updStage c f).chan d).loop = (s.chan d).loop := s.chan_updCh_proj Chan.loop c d _ (fun _ => rfl)

@[simp] theorem State.loop_updSeq (s : State) (c d : Ch) (f : ChanS → ChanS) :
    ((s.updSeq c f).chan d).loop = (s.chan d).loop := s.chan_updCh_proj Chan.loop c d _ (fun _ => rfl)

@[simp] theorem State.loop_updMet (s : State) (c d : Ch) (f : ChMet → ChMet) :
    ((s.updMet c f).chan d).loop = (s.chan d).loop := s.chan_updCh_proj Chan.loop c d _ (fun _ => rfl)

@[simp] theorem State.loop_updTlm (s : State) (c d : Ch) (f : Tlm → Tlm) :
    ((s.updTlm c f).chan d).loop = (s.chan d).loop := s.chan_updCh_proj Chan.loop c d _ (fun _ => rfl)

@[simp] theorem State.tlm_updLoop (s : State) (c d : Ch) (f : LoopS → LoopS) :
    ((s.updLoop c f).chan d).tlm = (s.chan d).tlm := s.chan_updCh_proj Chan.tlm c d _ (fun _ => rfl)

@[simp] theorem State.tlm_updMet (s : State) (c d : Ch) (f : ChMet → ChMet) :
    ((s.updMet c f).chan d).tlm = (s.chan d).tlm := s.chan_updCh_proj Chan.tlm c d _ (fun _ => rfl)

/-- Only the channels of the list have changed after one of them has. -/
theorem State.chBut_updCh {s t : State} {cs : List Ch} (h : s.chBut t cs) {c : Ch} (hc : c ∈ cs) (f : Chan → Chan) :
    s.chBut (t.updCh c f) cs := fun d hd =>
  (State.chan_updCh_other t f (fun e : c = d => hd (e ▸ hc))).trans (h d hd)

theorem State.chBut_of_ch {s t u : State} {cs : List Ch} (h : s.chBut t cs) (hu : u.ch = t.ch) : s.chBut u cs := fun d hd =>
  (congrArg (fun v : Vector Chan 16 => bget v d) hu).trans (h d hd)

/-- A raise whose reaction neither resets nor asks for SAFE changes no channel. -/
theorem State.raiseAs_silent (s : State) (n : Src) (c : Ch) (x : SafeCause) (hq : s.quiet n)
    (h5 : bitN (s.src n).react 5 = false) : s.only (s.raiseAs n c x) [.regs, .flt, .host, .qd, .free, .out] := by
  cases hlisted : srcListed n.val with
  | false =>
    rw [State.raiseAs_unlisted s n c x hlisted]
    exact State.only_mono (s.updSrc_only n _) (by decide)
  | true =>
    by_cases hact : (s.src n).act &&& actBit n c = 0
    · rw [State.raiseAs_new s n c x hlisted hact, State.react_none _ n c _ x hq.1 hq.2 h5]
      exact s.report_only n c
    · rw [State.raiseAs_again s n c x hlisted hact, if_neg (by simp [h5])]
      exact State.only_mono (s.updSrc_only n _) (by decide)

end Sys2Proof.Machine
end

section
namespace Sys2Proof.Machine

/-! ### The trace (R259, R262) -/

theorem key_trstat_tren (q : Quad) : (QD_TRSTAT.STATE q).key ≠ (QD_TRCTL.EN q).key := by
  revert q
  decide

theorem State.traceStop_stops {s : State} {q : Quad} (h : s.rb (QD_TRCTL.EN q) = true) :
    (s.traceStop q).rd (QD_TRSTAT.STATE q) = 3 ∧ (s.traceStop q).rb (QD_TRCTL.EN q) = false ∧ s.only (s.traceStop q) [.regs] ∧
      s.regsBut (s.traceStop q) [QD_TRSTAT.STATE q, QD_TRCTL.EN q] := by
  unfold State.traceStop
  rw [if_pos h]
  refine ⟨State.rd_wr_same _ _ _, ?_, State.only_iff.2 (by simp), ?_⟩
  · show decide ((State.wr _ (QD_TRSTAT.STATE q) 3).rd (QD_TRCTL.EN q) = 1) = false
    rw [State.rd_wr_other _ _ (key_trstat_tren q), State.rd_wr_same]
    rfl
  · exact State.regsBut_wr (State.regsBut_wr (State.regsBut_of_regs rfl _) (by simp) 0) (by simp) 3

/-! ### SAR samples (R41, R42, R226, R318) -/

/-- What a SAR sample gives the loop. -/
def State.sampled (s : State) (c : Ch) (isB : Bool) (v i : Int) : LoopS :=
  let l := (s.chan c).loop
  if isB then { l with mB := s.sarLsb c i }
  else if !isB && !l.fresh then
    { l with
      iA := s.sarLsb c i, vA := s.sarUv c v, fresh := true
      vOk := !((s.chan c).stage.pulse.isSome || (s.chan c).met.exclTick) }
  else l

theorem le_peakMax (m : Option Int) (x : Int) : ∃ a, peakMax m x = some a ∧ x ≤ a := by
  cases m with
  | none => exact ⟨x, rfl, le_refl x⟩
  | some a => exact ⟨max a x, rfl, le_max_right a x⟩

/-- A SAR sample reaches the loop of its channel and, unless it is flagged, the telemetry peaks. -/
theorem sarSample_shows (s : State) (c : Ch) (isB : Bool) (v i : Int) :
    s.ends (.sarSample c isB v i) (fun t => (t.chan c).loop = s.sampled c isB v i ∧
      ((s.chan c).stage.pulse = none → (s.chan c).met.exclTick = false →
        ∃ m, (t.chan c).tlm.vMax = some m ∧ s.sarUv c v ≤ m) ∧
      s.chBut t [c] ∧ s.only t [.ch, .saf, .flt]) := by
  show ∃ t, execSarSample c isB v i s = .next t ∧ _
  unfold execSarSample
  extract_lets x lsb na uv pulsed flagged first fed counted ua peaked saf kept
  have hfed : fed = s.updLoop c (fun l =>
    if isB then { l with mB := lsb }
    else if first then { l with iA := lsb, vA := uv, fresh := true, vOk := !flagged }
    else l) := rfl
  have hloop : (fed.chan c).loop = s.sampled c isB v i := by
    rw [hfed, State.chan_updLoop_same]
    rfl
  have hbut : s.chBut fed [c] := State.chBut_updCh (fun _ _ => rfl) (by simp) _
  have honly : s.only fed [.ch, .saf, .flt] := State.only_iff.2 (by simp [hfed])
  clear_value fed
  refine ⟨_, rfl, ?_⟩
  have hcloop : (counted.chan c).loop = s.sampled c isB v i := (State.loop_updMet _ _ _ _).trans hloop
  have hcbut : s.chBut counted [c] := State.chBut_updCh hbut (by simp) _
  have hconly : s.only counted [.ch, .saf, .flt] := State.only_trans honly (State.only_iff.2 (by simp [counted]))
  clear_value counted
  have hpeaked : (peaked.chan c).loop = s.sampled c isB v i ∧ s.chBut peaked [c] ∧ s.only peaked [.ch, .saf, .flt] ∧
      (flagged = false → ∃ m, (peaked.chan c).tlm.vMax = some m ∧ uv ≤ m) := by
    unfold peaked
    by_cases hf : flagged = true
    · rw [if_pos hf]
      exact ⟨hcloop, hcbut, hconly, fun h => by rw [h] at hf; cases hf⟩
    · rw [if_neg hf]
      refine ⟨(State.loop_updTlm _ _ _ _).trans hcloop, State.chBut_updCh hcbut (by simp) _,
        State.only_trans hconly (State.only_iff.2 (by simp)), fun _ => ?_⟩
      rw [State.chan_updTlm_same]
      exact le_peakMax _ uv
  clear_value peaked
  obtain ⟨hploop, hpbut, hponly, hpeak⟩ := hpeaked
  have hkept : s.only kept [.ch, .saf, .flt] := State.only_trans hponly (State.only_iff.2 (by simp [kept]))
  have hch : kept.ch = peaked.ch := rfl
  clear_value kept
  have hend (t : State) (ht : t.ch = peaked.ch) (ho : kept.only t [.flt]) : (t.chan c).loop = s.sampled c isB v i ∧
      ((s.chan c).stage.pulse = none → (s.chan c).met.exclTick = false →
        ∃ m, (t.chan c).tlm.vMax = some m ∧ s.sarUv c v ≤ m) ∧ s.chBut t [c] ∧ s.only t [.ch, .saf, .flt] := by
    have hchan : t.chan c = peaked.chan c := congrArg (fun w : Vector Chan 16 => bget w c) ht
    rw [hchan]
    refine ⟨hploop, fun hp he => hpeak ?_, State.chBut_of_ch hpbut ht, State.only_trans hkept (State.only_mono ho (by decide))⟩
    show ((s.chan c).stage.pulse.isSome || (s.chan c).met.exclTick) = false
    rw [hp, he]
    rfl
  split
  · exact hend _ hch (kept.condGone_only 6 c)
  · exact hend _ hch (State.only_refl _ _)

/-! ### A following error (R57, R240) -/

/-- A failure of a running step that is not due at this boundary: the channel enters HOLD and the step has its end. -/
theorem State.failStep_now {s : State} {c : Ch} {r : Run} (h : (s.seq c).run = some r) (hf : r.failed = false)
    (hdue : r.ending.any (fun e => e.at_ = .due) = false) (reason detail : Nat) :
    s.failStep c reason detail = (s.enterHold c (if reason = rINT then 6 else 2)).updSeq c (fun x => { x with
      run := some { (s.enterHold c (if reason = rINT then 6 else 2)).countRun c r with
        ending := some ⟨reason, detail, .fail⟩, phase := 11 } }) := by
  unfold State.failStep
  dsimp only
  rw [h]
  dsimp only
  rw [if_neg (by simp [hf]), if_neg (by simp [hdue])]

/-- A failure of a step that is due at this boundary waits for the step that follows it. -/
theorem State.failStep_late {s : State} {c : Ch} {r : Run} (h : (s.seq c).run = some r) (hf : r.failed = false)
    (hdue : r.ending.any (fun e => e.at_ = .due) = true) {reason detail : Nat}
    (hkind : reason ≠ rINT ∧ reason ≠ rSAFETY ∧ detail ≠ dSAFE) :
    s.failStep c reason detail = s.updSeq c (fun x => { x with late := x.late.orElse (fun _ => some (reason, detail)) }) := by
  unfold State.failStep
  dsimp only
  rw [h]
  dsimp only
  rw [if_neg (by simp [hf]), if_pos ⟨hdue, hkind⟩]

theorem State.failStep_ch_only (s : State) (c : Ch) (reason detail : Nat) : s.only (s.failStep c reason detail) [.ch] := by
  have hhold (t : State) (ht : s.only t [.ch]) (why : Nat) : s.only (t.enterHold c why) [.ch] := State.enterHold_only ht c why
  have hledger : s.only (s.ledger c Ledger.withdraw) [.ch] := State.only_iff.2 (by simp [State.ledger])
  have hid : s.only s [.ch] := State.only_refl _ _
  unfold State.failStep
  dsimp only
  split
  · exact State.only_ite (hhold _ hledger _) hid
  · exact State.only_ite hid (State.only_ite (State.updCh_only hid c _) (State.updCh_only (hhold _ hid _) c _))

theorem State.enterHold_st (s : State) (c : Ch) (why : Nat) : ((s.enterHold c why).seq c).st = .hold := by
  unfold State.enterHold
  rw [State.seq_updSeq_same]

theorem State.enterHold_gates (s : State) (c : Ch) (why : Nat) {d : Ch} (hd : d ∈ s.gang c) :
    ((s.enterHold c why).chan d).stage.gates = false := by
  unfold State.enterHold
  rw [State.stage_updSeq]
  exact State.stagedOpen_offs s c hd

end Sys2Proof.Machine
end

section
open Sys2Proof Sys2Proof.Machine

/-- Settles O30: the stop writes two fields, the read advances one. -/
theorem traceStopsAndReadsOut : Obligations.TraceStopsAndReadsOut := by
  unfold Obligations.TraceStopsAndReadsOut
  intro s q
  refine ⟨fun hst hpost htick hen => ⟨_, if_pos ⟨hst, hpost, htick⟩, State.traceStop_stops hen⟩,
    ?_⟩
  refine ⟨_, rfl, rfl, State.rd_wr_same _ _ _, State.only_iff.2 (by simp [State.rdTrdata, State.emit, State.incWrap]), ?_⟩
  exact State.regsBut_wr (State.regsBut_of_regs rfl _) (by simp) _

/-- Settles O29: a sample by `sarSample_shows`; a following error is a failure now, or late where the step is due. -/
theorem sarSamplesAndFollowingError : Obligations.SarSamplesAndFollowingError := by
  unfold Obligations.SarSamplesAndFollowingError
  refine ⟨fun s c v i => ⟨?_, fun hfresh => ?_, fun hfresh => ?_⟩, fun s c hclosed hg p hp hcnt r hr hf => ?_⟩
  · obtain ⟨t, ht, hloop, -, hbut, honly⟩ := sarSample_shows s c true v i
    exact ⟨t, ht, hloop, hbut, honly⟩
  · obtain ⟨t, ht, hloop, -, hbut, honly⟩ := sarSample_shows s c false v i
    refine ⟨t, ht, hloop.trans (by simp [State.sampled, hfresh]), hbut, honly⟩
  · obtain ⟨t, ht, hloop, hpeak, hbut, honly⟩ := sarSample_shows s c false v i
    have hfirst : s.sampled c false v i = { (s.chan c).loop with
        iA := s.sarLsb c i, vA := s.sarUv c v, fresh := true
        vOk := !((s.chan c).stage.pulse.isSome || (s.chan c).met.exclTick) } :=
      by simp [State.sampled, hfresh]
    rw [hfirst] at hloop
    refine ⟨t, ht, by rw [hloop], by rw [hloop], by rw [hloop], fun hpulse hexcl => ⟨?_, hpeak hpulse hexcl⟩, hbut, honly⟩
    rw [hloop]
    simp [hpulse, hexcl]
  · have hexec : exec (.followErr c) s = Host.Outcome.next
        ((s.failStep (s.leader c) rFOLLOW 0).updLoop c (fun l => { l with feCnt := 0 })) := by
      show execFollowErr c s = _
      unfold execFollowErr
      rw [hp]
      exact if_pos ⟨hclosed, hcnt⟩
    have honly : s.only ((s.failStep (s.leader c) rFOLLOW 0).updLoop c (fun l => { l with feCnt := 0 })) [.ch, .regs] := by
      have hfail : s.only (s.failStep (s.leader c) rFOLLOW 0) [.ch] := State.failStep_ch_only s _ _ _
      exact State.only_trans (State.only_mono hfail (by decide)) (State.only_iff.2 (by simp))
    refine ⟨_, hexec, by rw [State.chan_updLoop_same], honly, ?_⟩
    cases hdue : r.ending.any (fun e => decide (e.at_ = .due)) with
    | true =>
      rw [if_pos rfl, State.seq_updLoop, State.failStep_late hr hf hdue (by decide), State.seq_updSeq_same]
      cases (s.seq (s.leader c)).late <;> rfl
    | false =>
      rw [if_neg (by decide), State.seq_updLoop, State.failStep_now hr hf hdue, State.seq_updSeq_same]
      refine ⟨State.enterHold_st _ _ _, rfl, fun d hd => ?_⟩
      rw [State.stage_updLoop, State.stage_updSeq]
      exact State.enterHold_gates _ _ _ (by rw [State.gang_leader hg]; exact hd)

end


section
namespace Sys2Proof.Machine

/-! ### What the trace of a slot writes (R255 to R262) -/

theorem State.traceFire_only (s : State) (q : Quad) : s.only (s.traceFire q) [.regs, .qd] := by
  unfold State.traceFire
  exact State.only_ite (State.only_iff.2 (by simp)) (State.only_refl _ _)

theorem State.traceTrig_only (s : State) (q : Quad) (n : Nat) : s.only (s.traceTrig q n) [.regs, .qd] := by
  unfold State.traceTrig
  refine State.only_ite ?_ (State.only_refl _ _)
  exact State.only_foldl _ (fun t p h => State.only_ite (State.only_trans h (t.traceFire_only p)) h) (s.traceFire_only q)

theorem State.trigCh_only (s : State) (c : Ch) (n : Nat) : s.only (s.trigCh c n) [.regs, .qd] := by
  unfold State.trigCh
  exact State.only_ite (s.traceTrig_only _ n) (State.only_refl _ _)

theorem State.trWrite_only (s : State) (c : Ch) (t : TrVals) : s.only (s.trWrite c t) [.regs, .qd] := by
  unfold State.trWrite
  extract_lets q ps traced written
  have htraced : s.only traced [.regs, .qd] :=
    State.only_foldl _ (fun u p h => State.only_trans h (State.only_iff.2 (by simp))) (State.only_refl _ _)
  have hwritten : s.only written [.regs, .qd] := State.only_trans htraced (State.only_iff.2 (by simp [written]))
  exact State.only_ite (State.only_ite (State.only_trans hwritten (State.only_iff.2 (by simp))) hwritten) (State.only_refl _ _)

theorem State.trOf_only (s : State) (c : Ch) (p : Prof) (f : Formed) (y : Int) (k : Nat) (withheld susp : Bool) (outer : Int) :
    s.only (s.trOf c p f y k withheld susp outer).2 [.free] := by
  have htake (u : State) : u.only u.takeInt.2 [.free] := State.only_iff.2 (by simp [State.takeInt])
  unfold State.trOf
  cases f.iHat with
  | some a =>
    cases f.yHat with
    | some b => exact State.only_refl _ _
    | none => exact htake s
  | none =>
    cases f.yHat with
    | some b => exact htake s
    | none => exact State.only_trans (htake s) (htake _)

theorem State.trWithhold_only (s : State) (c : Ch) : s.only (s.trWithhold c) [.qd] :=
  State.only_iff.2 (by simp [State.trWithhold])

theorem SameGangs.trans {s t u : State} (h : SameGangs s t) (k : SameGangs t u) : SameGangs s u :=
  ⟨fun d => ⟨(k.gang d).1.trans (h.gang d).1, (k.gang d).2.trans (h.gang d).2⟩, k.flt.trans h.flt⟩

/-! ### The slot of a channel (R45, R46) -/

/-- What the slot of a channel has computed. -/
def LoopS.computed (l : LoopS) : Option Int × Law × Int × Bool × Bool × Nat := (l.value, l.law, l.u0, l.closed, l.done, l.last)

theorem State.computed_updLoop (s : State) (c d : Ch) (f : LoopS → LoopS) (hf : ∀ l, (f l).computed = l.computed) :
    ((s.updLoop d f).chan c).loop.computed = (s.chan c).loop.computed :=
  s.chan_updCh_proj (fun x => x.loop.computed) d c _ (fun x => hf x.loop)

/-- From `s` to `t` a slot of channel `c` has been recorded: what it computed stands, its stages and gangs too, and no
other channel has changed. -/
structure SlotKept (c : Ch) (s t : State) : Prop where
  only : s.only t [.ch, .qd, .regs, .free]
  computed : (t.chan c).loop.computed = (s.chan c).loop.computed
  gangs : SameGangs s t

namespace SlotKept

variable {c : Ch} {s t u : State}

theorem refl (c : Ch) (s : State) : SlotKept c s s := ⟨State.only_refl _ _, rfl, .refl s⟩

theorem trans (h : SlotKept c s t) (k : SlotKept c t u) : SlotKept c s u :=
  ⟨State.only_trans h.only k.only, k.computed.trans h.computed, h.gangs.trans k.gangs⟩

theorem ite {p : Prop} [Decidable p] (h : SlotKept c s t) (k : SlotKept c s u) : SlotKept c s (if p then t else u) := by
  split
  · exact h
  · exact k

theorem of_only (h : SlotKept c s t) (k : t.only u [.regs, .qd, .free]) : SlotKept c s u := by
  have hch : u.ch = t.ch := k.2 .ch (by decide)
  refine h.trans ⟨State.only_mono k (by decide), ?_, (SameGangs.refl t).same hch (k.2 .flt (by decide))⟩
  exact congrArg (fun w : Vector Chan 16 => (bget w c).loop.computed) hch

theorem updLoop (h : SlotKept c s t) (d : Ch) (f : LoopS → LoopS) (hf : ∀ l, (f l).computed = l.computed) :
    SlotKept c s (t.updLoop d f) :=
  h.trans ⟨State.only_iff.2 (by simp), State.computed_updLoop t c d f hf, (SameGangs.refl t).updLoop d f⟩

theorem trigCh (h : SlotKept c s t) (d : Ch) (n : Nat) : SlotKept c s (t.trigCh d n) :=
  h.of_only (State.only_mono (t.trigCh_only d n) (by decide))

theorem feTick (h : SlotKept c s t) (d : Ch) (p : Prof) (y : Int) (susp : Bool) : SlotKept c s (t.feTick d p y susp) := by
  unfold State.feTick
  refine .ite h ?_
  extract_lets was now counted
  have hcount : SlotKept c s counted := h.updLoop d _ (fun _ => rfl)
  exact .ite (hcount.trigCh d 5) hcount

end SlotKept

/-- The form of a slot enters its loop (R46). -/
def LoopS.form (l : LoopS) (f : Formed) (cold : Bool) (k : Nat) : LoopS :=
  { l with
    closed := true, done := true, slot := true, value := some f.out.u, u1 := if cold then 0 else l.u0, u0 := f.out.u
    law := f.out.next, outer := if cold then Law.zero else l.outer
    outerSat := if cold then Sat.none else l.outerSat, last := f.how
    reason := if f.how = 1 then f.reason else l.reason, k := k
    rollbacks := if f.how = 1 then (l.rollbacks + 1) % 2 ^ 24 else l.rollbacks }

/-- The form of a slot, its supervision and its trace: what precedes the second pass's verdict. -/
def State.slotFormed (s : State) (c : Ch) (p : Prof) (port : Option LaneBit) : State :=
  let l := (s.chan c).loop
  let y := satS 24 (l.r - l.iA)
  let f := s.formed c p
  let cold := l.ck.isNone
  let susp := s.feOff c
  let bad := s.mismatch2 c p f port
  let k := if s.passBOn then s.lane c else l.k
  let s := s.updLoop c (fun l => l.form f cold k)
  let s := if f.how = 1 then s.trigCh c 1 else s
  let s := if f.how = 1 ∧ f.reason = 2 then s.trigCh c 2 else s
  let outer := match s.outerOf c p cold with | some (_, _, o, _) => o | none => 0
  let s := s.feTick c p y susp
  let (t, s) := s.trOf c p f y (s.chan c).loop.k bad susp outer
  s.trWrite c t

theorem State.slotFormed_kept (s : State) (c : Ch) (p : Prof) (port : Option LaneBit) :
    s.only (s.slotFormed c p port) [.ch, .qd, .regs, .free] ∧ SameGangs s (s.slotFormed c p port) ∧
      ((s.slotFormed c p port).chan c).loop.computed =
        (some (s.formed c p).out.u, (s.formed c p).out.next, (s.formed c p).out.u, true, true, (s.formed c p).how) := by
  unfold State.slotFormed
  extract_lets l y f cold susp bad k formed forced late outer fed
  have hformed : formed = s.updLoop c (fun l => l.form f cold k) := rfl
  have hnew : (formed.chan c).loop.computed = (some f.out.u, f.out.next, f.out.u, true, true, f.how) := by
    rw [hformed, State.chan_updLoop_same]
    rfl
  have honly : s.only formed [.ch, .qd, .regs, .free] := State.only_iff.2 (by simp [hformed])
  have hgangs : SameGangs s formed := (SameGangs.refl s).updLoop c _
  clear_value formed
  have hforced : SlotKept c formed forced := .ite ((SlotKept.refl c _).trigCh c 1) (.refl c _)
  clear_value forced
  have hlate : SlotKept c formed late := .ite (hforced.trigCh c 2) hforced
  clear_value late
  have hfed : SlotKept c formed fed := hlate.feTick c p y susp
  clear_value fed
  have htraced : SlotKept c formed (fed.trOf c p f y (fed.chan c).loop.k bad susp outer).2 :=
    hfed.of_only (State.only_mono (fed.trOf_only _ _ _ _ _ _ _ _) (by decide))
  have hwritten : SlotKept c formed ((fed.trOf c p f y (fed.chan c).loop.k bad susp outer).2.trWrite c
      (fed.trOf c p f y (fed.chan c).loop.k bad susp outer).1) :=
    htraced.of_only (State.only_mono (State.trWrite_only _ _ _) (by decide))
  exact ⟨State.only_trans honly hwritten.only, hgangs.trans hwritten.gangs, hwritten.computed.trans hnew⟩

/-- The prediction writes the checkpoint and the checker's copy (R226 to R228, R242). -/
theorem State.slotPrepare_writes (s : State) (c : Ch) (p : Prof) (cold : Bool) :
    s.only (s.slotPrepare c p cold) [.ch] ∧
      ((s.slotPrepare c p cold).chan c).loop.computed = (s.chan c).loop.computed ∧
      ((s.slotPrepare c p cold).chan c).loop.ck.isSome = true ∧
      ((s.slotPrepare c p cold).chan c).loop.ckB = ((s.slotPrepare c p cold).chan c).loop.ck := by
  unfold State.slotPrepare
  extract_lets isMember outered ms sh shared l b iHat rHat k
  have hout : s.only outered [.ch] ∧ (outered.chan c).loop.computed = (s.chan c).loop.computed := by
    unfold outered
    split
    · exact ⟨State.only_refl _ _, rfl⟩
    · split
      · exact ⟨State.only_refl _ _, rfl⟩
      · have hl := s.computed_updLoop c c
        split
        · exact ⟨State.only_iff.2 (by simp), (congrArg LoopS.computed (State.loop_updSeq _ c c _)).trans (hl _ (fun _ => rfl))⟩
        · exact ⟨State.only_iff.2 (by simp), hl _ (fun _ => rfl)⟩
  clear_value outered
  have hshared : s.only shared [.ch] ∧ (shared.chan c).loop.computed = (s.chan c).loop.computed := by
    unfold shared
    split
    · exact hout
    next hgang =>
      clear hgang
      clear_value sh ms
      generalize ms.zip sh = pairs
      induction pairs generalizing outered with
      | nil => exact hout
      | cons a rest ih =>
        exact ih _ ⟨State.only_trans hout.1 (State.only_iff.2 (by simp)),
          (State.computed_updLoop _ c _ _ (by exact fun _ => rfl)).trans hout.2⟩
  clear_value shared
  refine ⟨State.only_trans hshared.1 (State.only_iff.2 (by simp)),
    (State.computed_updLoop _ c c _ (by exact fun _ => rfl)).trans hshared.2, ?_, ?_⟩
  · rw [State.chan_updLoop_same]
    rfl
  · rw [State.chan_updLoop_same]

/-! ### A mismatch of the second pass (R244, R245) -/

theorem LoopS.lasts_value : LoopS.Lasts (fun l => l.value = none) := ⟨fun _ h => h, fun _ h => h⟩

theorem State.leCheck_value (s : State) (c : Ch) : ((s.leCheck c).chan c).loop.value = none := by
  unfold State.leCheck
  extract_lets others counted stopped
  have hnone : (counted.chan c).loop.value = none := by
    unfold counted
    rw [State.chan_updLoop_same]
  have hstop : LoopKept (fun l => l.value = none) c counted stopped :=
    (LoopKept.refl _ c counted).faultStop LoopS.lasts_value rfl 10 c true (by decide)
  clear_value stopped counted
  refine LoopKept.ite ?_ hstop hnone
  exact hstop.raiseAny LoopS.lasts_value rfl 16 c _ (by decide)

theorem State.leCheck_opens {s : State} (hg : s.gangsOk) {c d : Ch} (hd : d ∈ s.gang c) :
    ((s.leCheck c).chan d).stage.isOpen := by
  unfold State.leCheck
  extract_lets others counted stopped
  have hsame : SameGangs s counted := (SameGangs.refl s).updLoop c _
  have hopen : (stopped.chan d).stage.isOpen :=
    (State.faultStop_stops (hsame.gangsOk hg) 10 c true (by decide) (by decide)).2.1 rfl d (by rw [hsame.gang_eq]; exact hd)
  clear_value stopped
  split
  · exact (State.raiseAs_stilled stopped 16 c _ (by decide)).stage d hopen
  · exact hopen

/-- A VB sample that comes with the control sample is the one in force (R212). -/
theorem controlSample_vb (s : State) (c : Ch) (port : Option LaneBit) (vb : Option Int) :
    exec (.controlSampleValid c ⟨port, vb⟩) s =
      execControlSampleValid c ⟨port, none⟩ { s with met := { s.met with vbSar := vb.getD s.met.vbSar } } := by
  cases vb <;> rfl

theorem controlSample_computes {s : State} {c : Ch} {p : Prof} (port : Option LaneBit) (hfresh : (s.chan c).loop.fresh = true)
    (hdone : (s.chan c).loop.done = false) (hstep : s.leStepped (quadOf c) = false)
    (hp : s.profAt c (s.chan c).loop.act.slot = some p) (hgates : (s.chan c).stage.gates = true) :
    execControlSampleValid c ⟨port, none⟩ s = .next (if s.mismatch2 c p (s.formed c p) port
      then (s.slotFormed c p port).leCheck c
      else (s.slotFormed c p port).slotPrepare c p (s.chan c).loop.ck.isNone) := by
  unfold execControlSampleValid
  dsimp only
  rw [hfresh, hdone, hstep, hgates, hp, apply_ite Host.Outcome.next]
  rfl

end Sys2Proof.Machine
end

section
open Sys2Proof Sys2Proof.Machine

/-- Settles O26: the slot by its states (`State.slotFormed`, `State.slotPrepare`), a mismatch by the stop of its gang. -/
theorem controlSlotComputes : Obligations.ControlSlotComputes := by
  unfold Obligations.ControlSlotComputes
  intro s c port vb w
  have hexec : exec (.controlSampleValid c ⟨port, vb⟩) s = execControlSampleValid c ⟨port, none⟩ w := controlSample_vb s c port vb
  have hmet : s.only w [.met] := State.only_iff.2 (by simp [w])
  have hgangs : SameGangs s w := (SameGangs.refl s).same rfl rfl
  refine ⟨fun hnot => ?_, fun hfresh hdone hstep => ⟨fun hgates => ?_, fun p hp hgates => ?_⟩⟩
  · rw [hexec]
    refine if_pos ?_
    rcases hnot with h | h | h
    · simp [show (w.chan c).loop.fresh = false from h]
    · simp [show (w.chan c).loop.done = true from h]
    · simp [show w.leStepped (quadOf c) = true from h]
  · refine ⟨w.updLoop c (fun l => { l with done := true, last := 3 }), hexec.trans ?_, ?_, ?_, rfl, State.only_iff.2 (by simp [w])⟩
    · refine (if_neg ?_).trans (if_pos ?_)
      · simp [show (w.chan c).loop.fresh = true from hfresh, show (w.chan c).loop.done = false from hdone,
          show w.leStepped (quadOf c) = false from hstep]
      · simp [show (w.chan c).stage.gates = false from hgates]
    · rw [State.chan_updLoop_same]
      rfl
    · exact State.chBut_updCh (fun _ _ => rfl) (by simp) _
  · intro f
    have hcomp := hexec.trans (controlSample_computes (s := w) (p := p) port hfresh hdone hstep hp hgates)
    obtain ⟨honly, hsame, hnew⟩ := w.slotFormed_kept c p port
    refine ⟨fun hbad => ?_, fun hbad hg => ?_⟩
    · rw [show w.mismatch2 c p (w.formed c p) port = false from hbad, if_neg (by decide)] at hcomp
      obtain ⟨hpo, hpc, hck, hckB⟩ := (w.slotFormed c p port).slotPrepare_writes c p (w.chan c).loop.ck.isNone
      refine ⟨_, hcomp, ?_⟩
      have hloop := hpc.trans hnew
      simp only [LoopS.computed, Prod.mk.injEq] at hloop
      obtain ⟨hval, hlaw, hu0, hclosed, hdn, hlast⟩ := hloop
      have hall := State.only_trans honly (State.only_mono hpo (by decide))
      refine ⟨hval, hlaw, hu0, hclosed, hdn, hlast, hck, hckB, hall.2 .met (by decide), ?_⟩
      exact State.only_trans (State.only_mono hmet (by decide)) (State.only_mono hall (by decide))
    · rw [show w.mismatch2 c p (w.formed c p) port = true from hbad, if_pos rfl] at hcomp
      refine ⟨_, hcomp, State.leCheck_value _ c, fun d hd => State.leCheck_opens ((hgangs.trans hsame).gangsOk hg) ?_⟩
      rw [(hgangs.trans hsame).gang_eq]
      exact hd

end


section
namespace Sys2Proof.Machine

/-! ### Overruns and load instants (R44, R47, R246) -/

/-- The loop of a slot that overran. -/
def LoopS.overrun (l : LoopS) : LoopS :=
  { l with
    done := true, overran := true, held := true, vOk := false, value := none, overruns := satU 4 (l.overruns + 1) }

/-- A slot that overran, before it is reported. -/
def State.slotOverran (s : State) (c : Ch) : State :=
  (if (s.chan c).loop.slot ∧ s.trRuns (quadOf c) then s.trWithhold c else s).updLoop c LoopS.overrun

theorem State.slotOverran_spec (s : State) (c : Ch) :
    ((s.slotOverran c).chan c).loop = (s.chan c).loop.overrun ∧ ((s.slotOverran c).chan c).stage = (s.chan c).stage ∧
      s.chBut (s.slotOverran c) [c] ∧ (s.slotOverran c).flt = s.flt := by
  unfold State.slotOverran
  have hfirst : (if (s.chan c).loop.slot ∧ s.trRuns (quadOf c) then s.trWithhold c else s).ch = s.ch ∧
      (if (s.chan c).loop.slot ∧ s.trRuns (quadOf c) then s.trWithhold c else s).flt = s.flt := by
    split
    · exact ⟨(s.trWithhold_only c).2 .ch (by decide), (s.trWithhold_only c).2 .flt (by decide)⟩
    · exact ⟨rfl, rfl⟩
  generalize (if (s.chan c).loop.slot ∧ s.trRuns (quadOf c) then s.trWithhold c else s) = t at hfirst ⊢
  obtain ⟨hch, hflt⟩ := hfirst
  have hchan : t.chan c = s.chan c := congrArg (fun v : Vector Chan 16 => bget v c) hch
  refine ⟨?_, ?_, State.chBut_updCh (State.chBut_of_ch (fun _ _ => rfl) hch) (by simp) _, hflt⟩
  · rw [State.chan_updLoop_same, hchan]
  · rw [State.stage_updLoop, hchan]

theorem leOverrun_eq {s : State} {c : Ch}
    (h : (s.chan c).loop.slot = true ∨ ((s.chan c).stage.gates = true ∧ (s.chan c).loop.done = false))
    (ho : (s.chan c).loop.overran = false) (hstep : s.leStepped (quadOf c) = false) :
    exec (.leOverrun c) s = .next (((s.slotOverran c).raise 11 c).condGone 11 c) := by
  show execLeOverrun c s = _
  unfold execLeOverrun
  refine if_neg ?_
  rcases h with h | ⟨hg, hd⟩
  · simp [ho, hstep, h]
  · simp [ho, hstep, hg, hd]

theorem State.activeIn_condGone (s : State) (n m : Src) (c d : Ch) : (s.condGone n c).activeIn m d = s.activeIn m d := by
  unfold State.activeIn State.condGone
  by_cases h : n = m
  · subst h
    rw [State.src_updSrc_same]
  · rw [State.src_updSrc_other s _ h]

theorem LoopS.lasts_held : LoopS.Lasts (fun l => l.held = false) := ⟨fun _ h => h, fun _ h => h⟩

/-! ### Profiles (R220, R221) -/

theorem State.slotBusy_of_ch {s t : State} (h : t.ch = s.ch) (q : Quad) (k : Nat) : t.slotBusy q k = s.slotBusy q k := by
  unfold State.slotBusy State.chan
  rw [h]

/-- A load is decided with a result: an admitted profile is stored. -/
def State.profStored (s : State) (q : Quad) (k : Fin 8) (p : Prof) (res : Nat) : State :=
  (s.updQd q (fun y => { y with
    pcmd := none, slots := if res = 0 then bupd y.slots k (fun _ => some p) else y.slots })).wr (QD_PCMD.RESULT q) res

/-- The admin command that asked for a load ends with it. -/
def State.profEnded (s : State) (a : Option AdmHdr) (res : Nat) : State :=
  match a with
  | some x => s.admDone 5 x (profStatus res) res
  | none => s

theorem profileDecision_load {s : State} {q : Quad} {k : Fin 8} {p : Prof} {rsv : Bool} {a : Option AdmHdr}
    (h : (bget s.qd q).pcmd = some (.load k p rsv a)) (res : Nat)
    (hres : res = if p.judge rsv s.per = 0 ∧ s.slotBusy q k.val = true then 2 else p.judge rsv s.per) :
    exec (.profileDecision q) s = .next ((s.profStored q k p res).profEnded a res) := by
  show execProfileDecision q s = _
  unfold execProfileDecision
  rw [h, hres]
  rfl

/-- What a decided load writes, before the command that asked for it ends. -/
theorem State.profStored_spec (s : State) (q : Quad) (k : Fin 8) (p : Prof) (res : Nat) :
    (bget (s.profStored q k p res).qd q).pcmd = none ∧ (s.profStored q k p res).rd (QD_PCMD.RESULT q) = res % 256 ∧
      (res = 0 → bget (bget (s.profStored q k p res).qd q).slots k = some p) ∧
      (res ≠ 0 → (bget (s.profStored q k p res).qd q).slots = (bget s.qd q).slots) ∧
      (∀ j : Fin 8, j ≠ k → bget (bget (s.profStored q k p res).qd q).slots j = bget (bget s.qd q).slots j) ∧
      s.only (s.profStored q k p res) [.qd, .regs] := by
  have hqd : bget (s.profStored q k p res).qd q = { bget s.qd q with
      pcmd := none, slots := if res = 0 then bupd (bget s.qd q).slots k (fun _ => some p) else (bget s.qd q).slots } :=
    bget_bupd_same _ _ _
  rw [hqd]
  refine ⟨rfl, State.rd_wr_same _ _ _, fun hz => ?_, fun hz => if_neg hz, fun j hj => ?_,
    State.only_iff.2 (by simp [State.profStored])⟩
  · exact (congrArg (fun v => bget v k) (if_pos hz)).trans (bget_bupd_same _ _ _)
  · dsimp only
    split
    · exact bget_bupd_other _ _ (Ne.symm hj)
    · rfl

/-- An invalidation is decided: a slot in use stays. -/
def State.profInvalid (s : State) (q : Quad) (k : Fin 8) (busy : Bool) : State :=
  (s.updQd q (fun x => { x with
    pcmd := none, slots := if busy then x.slots else bupd x.slots k (fun _ => none) })).wr (QD_PCMD.RESULT q)
      (if busy then 2 else 0)

theorem profileDecision_invalidate {s : State} {q : Quad} {k : Fin 8} (h : (bget s.qd q).pcmd = some (.invalidate k)) :
    exec (.profileDecision q) s = .next (s.profInvalid q k (s.slotBusy q k.val)) := by
  show execProfileDecision q s = _
  unfold execProfileDecision
  rw [h]
  rfl

theorem State.profInvalid_spec (s : State) (q : Quad) (k : Fin 8) (busy : Bool) :
    (bget (s.profInvalid q k busy).qd q).pcmd = none ∧
      (if busy = true then (s.profInvalid q k busy).rd (QD_PCMD.RESULT q) = 2 ∧
          (bget (s.profInvalid q k busy).qd q).slots = (bget s.qd q).slots
        else (s.profInvalid q k busy).rd (QD_PCMD.RESULT q) = 0 ∧
          bget (bget (s.profInvalid q k busy).qd q).slots k = none) ∧ s.only (s.profInvalid q k busy) [.qd, .regs] := by
  have hqd : bget (s.profInvalid q k busy).qd q = { bget s.qd q with
      pcmd := none, slots := if busy then (bget s.qd q).slots else bupd (bget s.qd q).slots k (fun _ => none) } :=
    bget_bupd_same _ _ _
  rw [hqd]
  refine ⟨rfl, ?_, State.only_iff.2 (by simp [State.profInvalid])⟩
  cases busy with
  | true => exact ⟨State.rd_wr_same _ _ _, rfl⟩
  | false => exact ⟨State.rd_wr_same _ _ _, bget_bupd_same (bget s.qd q).slots k (fun _ => none)⟩

theorem State.look_presult (s : State) (q : Quad) : s.look (QD_PCMD.RESULT q) = s.rd (QD_PCMD.RESULT q) :=
  State.look_eq_rd _ _ (by revert q; decide) (by revert q; decide) (by fin_cases q <;> rfl) (by revert q; decide)

end Sys2Proof.Machine
end

section
open Sys2Proof Sys2Proof.Machine

/-- Settles O27: the overrun is marked before its source is raised, whose reaction touches no channel; at the load instant
the gang opens. -/
theorem overrunsAndLoadInstants : Obligations.OverrunsAndLoadInstants := by
  unfold Obligations.OverrunsAndLoadInstants
  intro s c
  refine ⟨fun h ho hstep hq h5 => ?_, fun hheld hg => ?_, fun u hheld hval hstep => ?_⟩
  · obtain ⟨hloop, hstage, hbut, hflt⟩ := s.slotOverran_spec c
    have hexec := leOverrun_eq h ho hstep
    generalize s.slotOverran c = v at hloop hstage hbut hflt hexec
    have hsrc : v.src 11 = s.src 11 := congrArg (fun f : FltS => bget f.srcs 11) hflt
    have hq' : v.quiet 11 := by
      unfold State.quiet
      rw [hsrc]
      exact hq
    have hraise : v.only (v.raise 11 c) [.regs, .flt, .host, .qd, .free, .out] :=
      v.raiseAs_silent 11 c _ hq' (by rw [hsrc]; exact h5)
    have hact : (v.raise 11 c).activeIn 11 c = true := State.raise_activeIn hq' (by decide) (by decide)
    generalize v.raise 11 c = w at hraise hact hexec
    have hch : (w.condGone 11 c).ch = v.ch := hraise.2 .ch (by decide)
    have hchan : (w.condGone 11 c).chan c = v.chan c := congrArg (fun x : Vector Chan 16 => bget x c) hch
    refine ⟨_, hexec, ?_, ?_, ?_, ?_, (State.activeIn_condGone _ _ _ _ _).trans hact, State.chBut_of_ch hbut hch⟩
    · rw [hchan, hloop]
      rfl
    · rw [hchan, hloop]
      rfl
    · rw [hchan, hloop]
      rfl
    · rw [hchan, hstage]
  · let v := s.updLoop c (fun l => { l with held := false })
    have hsame : SameGangs s v := (SameGangs.refl s).updLoop c _
    have hlow : (v.chan c).loop.held = false := by
      unfold v
      rw [State.chan_updLoop_same]
    have hfail : Reacted v (v.failStep (v.leader c) rFAULT (dSrc 11)) := .failStep (.refl v) _ _ _
    have hkept : LoopKept (fun l => l.held = false) c v ((v.failStep (v.leader c) rFAULT (dSrc 11)).protOpen c) :=
      ((LoopKept.refl _ c v).failStep LoopS.lasts_held _ _ _).protOpen LoopS.lasts_held c
    refine ⟨(v.failStep (v.leader c) rFAULT (dSrc 11)).protOpen c, if_pos hheld, hkept hlow, fun d hd => ?_⟩
    refine State.protOpen_opens _ ?_
    rw [State.gang_same (fun e => ⟨(hfail.chan e).lead, (hfail.chan e).size⟩), hsame.gang_eq]
    exact hd
  · have hexec : exec (.loadInstant c) s = .next (s.updLoop c (fun l => { l with loaded := u, value := none })) := by
      show execLoadInstant c s = _
      unfold execLoadInstant
      dsimp only
      rw [hheld, hval, hstep]
      rfl
    refine ⟨_, hexec, ?_, State.chBut_updCh (fun _ _ => rfl) (by simp) _, State.only_iff.2 (by simp)⟩
    rw [State.chan_updLoop_same]

/-- Settles O28: a command of its quad is stored, and its decision writes the slot before it ends the admin command. -/
theorem profileLoadsAreDecided : Obligations.ProfileLoadsAreDecided := by
  unfold Obligations.ProfileLoadsAreDecided
  refine ⟨fun s a q k htakes hfree => ?_, fun s q k p rsv a hcmd => ?_, fun s q k hcmd => ?_⟩
  · obtain ⟨hroom, -⟩ := State.admTakes_spec htakes
    have hr : s.admDrop.roomy := State.admDrop_room (.refl s) hroom
    have hexec (img : Option (List Word)) : exec (.loadProfile a q k img) s =
        Host.Outcome.next (s.admBegin 5 a (loadArgs q k) (fun s => s.loadProfile a q k img)) :=
      if_neg (by simp [hfree])
    refine ⟨State.admBegin_ends htakes (hexec none) ⟨State.admDone_lastDone hr.1 5 a 0x12 0, ?_⟩, fun ws =>
      State.admBegin_ends htakes (hexec (some ws)) ⟨?_, rfl, ?_, State.only_iff.2 ?_, ?_⟩⟩
    · exact State.only_trans s.admDrop_only (State.admDone_only _ _ _ _ _)
    · exact congrArg QuadS.pcmd (bget_bupd_same _ _ _)
    · rw [State.look_presult]
      exact State.rd_wr_same (s.admDrop.updQd q (fun y => { y with
        pcmd := some (.load k (profOf ws).1 (profOf ws).2 (some a)) })) (QD_PCMD.RESULT q) 0xFF
    · simp [State.loadProfile, State.admDrop, State.admWait, State.updQ]
    · have hfirst : s.regsBut (s.admDrop.updQd q (fun y => { y with
          pcmd := some (.load k (profOf ws).1 (profOf ws).2 (some a)) })) [QD_PCMD.RESULT q] := State.regsBut_of_regs rfl _
      exact State.regsBut_wr hfirst (f := QD_PCMD.RESULT q) (by simp) 0xFF
  · intro res
    have hexec := profileDecision_load hcmd res rfl
    have hspec := s.profStored_spec q k p res
    generalize s.profStored q k p res = t at hexec hspec
    obtain ⟨hnone, hrd, hstore, hkeep, hrest, honly⟩ := hspec
    cases a with
    | none => exact ⟨t, hexec, hnone, hrd, hstore, hkeep, hrest, fun _ hh => (nomatch hh), State.only_mono honly (by decide)⟩
    | some x =>
      have hdone := t.admDone_only 5 x (profStatus res) res
      have hqd : (t.admDone 5 x (profStatus res) res).qd = t.qd := hdone.2 .qd (by decide)
      have hhost : t.host = s.host := honly.2 .host (by decide)
      have hroom : t.sharedRoom = s.sharedRoom := by
        unfold State.sharedRoom State.sharedUse
        rw [hhost]
      refine ⟨t.admDone 5 x (profStatus res) res, hexec, by rw [hqd]; exact hnone,
        (State.rd_of_regs (hdone.2 .regs (by decide)) _).trans hrd,
        by rw [hqd]; exact hstore, by rw [hqd]; exact hkeep, by rw [hqd]; exact hrest, fun h hh => ?_,
        State.only_trans (State.only_mono honly (by decide)) (State.only_mono hdone (by decide))⟩
      obtain rfl : x = h := by simpa using hh
      rw [← hroom]
      cases hr : t.sharedRoom with
      | true => exact State.admDone_lastDone hr 5 x _ _
      | false =>
        rw [if_neg (by decide)]
        unfold State.admDone
        rw [if_neg (by simp [hr])]
  · obtain ⟨hnone, hres, honly⟩ := s.profInvalid_spec q k (s.slotBusy q k.val)
    exact ⟨_, profileDecision_invalidate hcmd, hnone, hres, honly⟩

end


section
/-!
SUPPORT. The running step through the operations of its events (R336 to R392): what each makes of the run.
-/

namespace Sys2Proof.Machine

/-! ### The run of a channel -/

theorem State.run_updSeq (s : State) (c d : Ch) (f : ChanS → ChanS) (hf : ∀ x, (f x).run = x.run) :
    ((s.updSeq d f).seq c).run = (s.seq c).run :=
  s.chan_updCh_proj (fun x => x.seq.run) d c _ (fun x => hf x.seq)

theorem State.run_updRun (s : State) (c : Ch) (f : Run → Run) : ((s.updRun c f).seq c).run = (s.seq c).run.map f := by
  unfold State.updRun
  rw [State.seq_updSeq_same]

theorem State.run_runIf {s : State} {c : Ch} {r : Run} (h : (s.seq c).run = some r) (hf : r.failed = false) (p : Run → Bool)
    (f : Run → Run) : ((s.runIf c p f).seq c).run = some (if p r = true then f r else r) := by
  unfold State.runIf
  rw [State.run_updRun, h]
  simp [hf]

theorem State.run_of_ch {s t : State} (h : t.ch = s.ch) (c : Ch) : (t.seq c).run = (s.seq c).run :=
  congrArg (fun v : Vector Chan 16 => (bget v c).seq.run) h

/-- Gates off leave the run. -/
theorem State.run_gatesOff1 (s : State) (c d : Ch) : ((s.gatesOff1 d).seq c).run = (s.seq c).run := by
  have hopen : (((s.updStage d (fun x => { x with gates := false })).openLoop d).seq c).run = (s.seq c).run := by
    unfold State.openLoop
    rw [State.run_updSeq _ _ _ _ (by exact fun _ => rfl), State.seq_updLoop, State.seq_updStage]
  unfold State.gatesOff1
  dsimp only
  split
  · rw [State.seq_updLoop, hopen]
  · exact hopen

theorem State.run_gatesOff (s : State) (c d : Ch) : ((s.gatesOff d).seq c).run = (s.seq c).run :=
  State.forCh_proj (fun t => (t.seq c).run) (fun t a => t.run_gatesOff1 c a) s _

theorem State.run_stagedOpen (s : State) (c d : Ch) : ((s.stagedOpen d).seq c).run = (s.seq c).run :=
  State.forCh_proj (fun t => (t.seq c).run) (fun t a => by rw [State.seq_updStage]; exact t.run_gatesOff1 c a) s _

theorem State.run_requestClose (s : State) (c d : Ch) : ((s.requestClose d).seq c).run = (s.seq c).run := by
  rcases (s.requestClose_cases d).2.2 with h | h | h <;> rw [h]
  · unfold State.closeBegun State.startPulse
    rw [State.seq_updMet, State.seq_updStage]
    exact State.forCh_proj (fun t => (t.seq c).run) (fun t a => by rw [State.seq_updStage]) s _
  · exact s.run_stagedOpen c _

theorem State.run_limit1 (s : State) (c d : Ch) : ((s.limit1 d).seq c).run = (s.seq c).run := by
  have hch : (s.limit1 d).seq c = (s.updLoop d (fun l => { l with
      iFb := s.foldback d, iEff := effOf (s.kT d) (s.kBal d) (s.foldback d) (s.chan d).loop.icmd
      r := s.toLsb d (effOf (s.kT d) (s.kBal d) (s.foldback d) (s.chan d).loop.icmd) })).seq c := rfl
  rw [hch, State.seq_updLoop]

/-- The setpoint of a tick moves the target of the run and nothing else of it (R351). -/
theorem State.run_formSetpoint {s : State} {c : Ch} {r : Run} (h : (s.seq c).run = some r) :
    ∃ tgt frac, ((s.formSetpoint c).seq c).run = some { r with tgt := tgt, frac := frac } := by
  unfold State.formSetpoint
  extract_lets formed g
  have hformed : ∃ tgt frac, (formed.seq c).run = some { r with tgt := tgt, frac := frac } := by
    refine ⟨(s.command c r 0).2.1, (s.command c r 0).2.2, ?_⟩
    unfold formed
    rw [h]
    dsimp only
    rw [State.seq_updLoop]
    split
    · rw [State.run_updSeq _ _ _ _ (by intro x; split <;> rfl), State.seq_updLoop, State.run_updRun, h]
      rfl
    · rw [State.run_updRun, h]
      rfl
  obtain ⟨tgt, frac, hrun⟩ := hformed
  refine ⟨tgt, frac, ?_⟩
  split
  · rw [State.run_limit1, State.seq_updLoop]
    exact hrun
  · refine (State.forCh_proj (fun t => (t.seq c).run) (fun t a => ?_) formed _).trans hrun
    beta_reduce
    rw [State.run_limit1, State.seq_updLoop]

theorem State.updCh_within {s t : State} {ps : List Part} (h : s.only t ps) (hp : .ch ∈ ps) (c : Ch) (f : Chan → Chan) :
    s.only (t.updCh c f) ps :=
  State.only_trans h (State.only_mono (State.updCh_only (State.only_refl t _) c f) (by simpa using hp))

theorem State.limit1_only (s : State) (c : Ch) : s.only (s.limit1 c) [.ch, .regs] := by
  unfold State.limit1
  extract_lets l kT kB fb e limited lim
  have hlimited : s.only limited [.ch, .regs] := State.updCh_within (State.only_refl s _) (by decide) c _
  exact State.wr_only (State.wr_only hlimited _ _ (by decide)) _ _ (by decide)

theorem State.formSetpoint_only (s : State) (c : Ch) : s.only (s.formSetpoint c) [.ch, .regs] := by
  unfold State.formSetpoint
  extract_lets formed g
  have hformed : s.only formed [.ch, .regs] := by
    have hid : s.only s [.ch, .regs] := State.only_refl s _
    unfold formed
    split
    · exact State.updCh_within hid (by decide) c _
    · dsimp only
      have hmoved (f : Run → Run) : s.only (s.updRun c f) [.ch, .regs] := State.updCh_within hid (by decide) c _
      refine State.updCh_within (State.only_ite ?_ (hmoved _)) (by decide) c _
      exact State.updCh_within (State.updCh_within (hmoved _) (by decide) c _) (by decide) c _
  refine State.only_ite (State.only_trans (State.updCh_within hformed (by decide) c _) (State.limit1_only _ c)) ?_
  refine State.forCh_only _ (fun t d h => ?_) hformed
  exact State.only_trans (State.updCh_within h (by decide) d _) (State.limit1_only _ d)

/-- The gates of a running step begin without changing it, but that a phase that waited for them goes on. -/
theorem State.run_startGates {s : State} {c : Ch} {r : Run} (h : (s.seq c).run = some r) (hphase : r.phase ≠ 1) :
    ((s.startGates c).seq c).run = some r := by
  unfold State.startGates
  rw [h]
  dsimp only
  have hasked : ((if isDrive r.desc.op.toNat = true then s.requestClose c else s).seq c).run = some r := by
    split
    · rw [State.run_requestClose, h]
    · exact h
  generalize (if isDrive r.desc.op.toNat = true then s.requestClose c else s) = t at hasked
  split
  · exact h
  · split
    · rw [State.run_updRun, (State.forCh_proj (fun t => (t.seq c).run) (fun u a => by rw [State.seq_updStage]) t _ :
        ((t.forCh (t.gang c) (fun s d => s.updStage d (fun x => { x with gates := true }))).seq c).run = (t.seq c).run), hasked]
      simp [hphase]
    · exact hasked

/-! ### The decision of an end (R391) -/

/-- The ways a step ends that are open, in their order. -/
def Run.decided (r : Run) : Run :=
  let ks : List (Fin 4) := [0, 1, 2, 3]
  let due := r.ending.any (fun e => decide (e.at_ ≠ .decided))
  if due ∧ r.ending.any (fun e => decide (e.reason ≠ rREVOKED)) then r
  else
    match ks.find? (fun k => (bget r.ecs k).fired) with
    | some k => { r with ending := some ⟨k.val, 0, .decided⟩ }
    | none =>
      if r.impl then { r with ending := some ⟨0, 0, if r.desc.op = 18 then .due else .decided⟩ }
      else if due then r
      else if r.revoked then { r with ending := some ⟨rREVOKED, 0, .decided⟩ }
      else { r with ending := r.toFired.map (fun x => ⟨x, 0, .decided⟩) }

theorem State.decideEnd_eq (s : State) (c : Ch) : s.decideEnd c = s.updRun c Run.decided := rfl

theorem State.run_decideEnd {s : State} {c : Ch} {r : Run} (h : (s.seq c).run = some r) :
    ((s.decideEnd c).seq c).run = some r.decided := by
  rw [State.decideEnd_eq, State.run_updRun, h]
  rfl

/-- The decision changes the ending and nothing else. -/
theorem Run.decided_rest (r : Run) : r.decided = { r with ending := r.decided.ending } := by
  unfold Run.decided
  dsimp only
  repeat' split
  all_goals rfl

/-- A decision that has its boundary stands, but that of a revoke. -/
theorem Run.decided_due {r : Run} {e : Ending} (h : r.ending = some e) (hat : e.at_ ≠ .decided) (hr : e.reason ≠ rREVOKED) :
    r.decided = r := by
  unfold Run.decided
  exact if_pos (by simp [h, hat, hr])

/-- The end condition with the lowest index comes first. -/
theorem Run.decided_fired {r : Run} (hnone : r.ending = none) {k : Fin 4} (hk : (bget r.ecs k).fired = true)
    (hlow : ∀ j : Fin 4, j < k → (bget r.ecs j).fired = false) : r.decided.ending = some ⟨k.val, 0, .decided⟩ := by
  have hfind : ([0, 1, 2, 3] : List (Fin 4)).find? (fun k => (bget r.ecs k).fired) = some k := by
    fin_cases k
    · simp_all
    · have h0 := hlow 0 (by decide)
      simp_all
    · have h0 := hlow 0 (by decide)
      have h1 := hlow 1 (by decide)
      simp_all
    · have h0 := hlow 0 (by decide)
      have h1 := hlow 1 (by decide)
      have h2 := hlow 2 (by decide)
      simp_all
  unfold Run.decided
  simp only [hnone, hfind]
  simp

theorem Run.noneFired {r : Run} (h : ∀ j : Fin 4, (bget r.ecs j).fired = false) :
    ([0, 1, 2, 3] : List (Fin 4)).find? (fun k => (bget r.ecs k).fired) = none := by
  simp [h]

/-- The implicit end comes before the timer. -/
theorem Run.decided_impl {r : Run} (hnone : r.ending = none) (hfired : ∀ j : Fin 4, (bget r.ecs j).fired = false)
    (himpl : r.impl = true) : r.decided.ending.map (·.reason) = some 0 := by
  unfold Run.decided
  simp only [hnone, Run.noneFired hfired, himpl]
  simp

/-- Last comes the timer. -/
theorem Run.decided_timer {r : Run} (hnone : r.ending = none) (hfired : ∀ j : Fin 4, (bget r.ecs j).fired = false)
    (himpl : r.impl = false) (hrev : r.revoked = false) : r.decided.ending.map (·.reason) = r.toFired := by
  unfold Run.decided
  simp only [hnone, Run.noneFired hfired, himpl, hrev]
  cases r.toFired <;> rfl

/-- A step that may end by itself has its end decided. -/
theorem Run.decided_isSome {r : Run} (himpl : r.impl = true) : r.decided.ending.isSome = true := by
  unfold Run.decided
  dsimp only
  split
  next h =>
    cases hr : r.ending with
    | none => simp [hr] at h
    | some e => rfl
  · split
    · rfl
    · simp [himpl]

/-- A window of a DVDT condition closes (R388): its mean becomes the one before. -/
theorem Run.ecWindow_slope {e : EndCond} {x : EcS} (hcode : e.code = 7) (hsam : x.samples ≠ 0) (ns : Nat) (armed : Bool) :
    (ecWindow e x ns armed).n = 0 ∧ (ecWindow e x ns armed).prev = some (tdiv x.sum x.samples) ∧
      (x.prev = none → (ecWindow e x ns armed).hits = 0) := by
  unfold ecWindow
  dsimp only
  rw [if_neg (by simp [hcode]), if_neg hsam, if_neg (by simp [hcode])]
  cases hp : x.prev with
  | none => exact ⟨rfl, rfl, fun _ => rfl⟩
  | some p => exact ⟨rfl, rfl, fun h => nomatch h⟩

/-- The second window in a row within the rate fires the condition. -/
theorem Run.ecWindow_fires {e : EndCond} {x : EcS} (hcode : e.code = 7) (hsam : x.samples ≠ 0) {p : Int} (hp : x.prev = some p)
    (hhits : 1 ≤ x.hits) (ns : Nat) (armed : Bool)
    (hin : (((tdiv x.sum x.samples - p) * 1000000000).natAbs : Int) ≤ (e.thr.toNat : Int) * ((x.n * ns : Nat) : Int)) :
    (ecWindow e x ns armed).fired = true := by
  unfold ecWindow
  dsimp only
  rw [if_neg (by simp [hcode]), if_neg hsam, if_neg (by simp [hcode]), hp]
  dsimp only
  rw [if_pos hcode, decide_eq_true hin]
  simp
  omega

theorem State.updRun_only (s : State) (c : Ch) (f : Run → Run) : s.only (s.updRun c f) [.ch] := State.only_iff.2 (by simp)

theorem State.runIf_only (s : State) (c : Ch) (p : Run → Bool) (f : Run → Run) : s.only (s.runIf c p f) [.ch] :=
  s.updRun_only c _

theorem State.decideEnd_only (s : State) (c : Ch) : s.only (s.decideEnd c) [.ch] := s.updRun_only c _

/-- An event that changes the run under a condition and then has its end decided. -/
theorem State.runIf_decides {s : State} {c : Ch} {r : Run} (h : (s.seq c).run = some r) (hf : r.failed = false)
    (p : Run → Bool) (f : Run → Run) :
    (((s.runIf c p f).decideEnd c).seq c).run = some (if p r = true then f r else r).decided ∧
      s.only ((s.runIf c p f).decideEnd c) [.ch] :=
  ⟨State.run_decideEnd (State.run_runIf h hf p f), State.only_trans (s.runIf_only c p f) (State.decideEnd_only _ c)⟩

/-! ### The events whose end is decided -/

/-- The recipe timer (R393, R394). -/
def Run.timed (r : Run) : Run :=
  if r.desc.timeout ≠ 0 && decide (r.ms r.desc.timeout.toNat ≤ r.ticks) && r.toFired.isNone && !r.impl && r.undue then
    { r with toFired := some (if r.kWas then rDERATED else rTIMEOUT) }
  else r

/-- The phases of OCV (R366, R367). -/
def Run.ocvEnded (r : Run) : Run :=
  if decide (r.desc.op = 8) && r.off && r.undue then
    if r.phase = 0 ∧ r.ms r.desc.x0.toNat ≤ r.pt then { r with phase := 7, pt := 0, ocv := EcS.zero }
    else if r.phase = 8 ∧ r.ms r.desc.x2.toNat ≤ r.pt then { r with finished := true, impl := true }
    else r
  else r

/-- The window of an EIS tone (R375, R376). -/
def Run.eisClosed (r : Run) : Run :=
  if r.eis.on && decide ((r.desc.p16.toNat % 256 + r.desc.p16.toNat / 256) * r.eis.pt ≤ r.eis.k) then
    { r with impl := true, eis := { r.eis with on := false } }
  else r

/-- The window of an end condition (R388); `ns` is the tick period. -/
def Run.windowed (r : Run) (k : Fin 4) (ns : Nat) : Run :=
  if ecWindowed (r.desc.ec k).code.toNat && decide ((r.desc.ec k).code ≠ 3) && decide (r.ecLen k ≤ (bget r.ecs k).n) then
    { r with ecs := bupd r.ecs k (fun x => ecWindow (r.desc.ec k) x ns r.armed) }
  else r

section
variable {s : State} {c : Ch} {r : Run} (h : (s.seq c).run = some r) (hf : r.failed = false)
include h hf

theorem stepTimeout_decides : s.ends (.stepTimeout c) (fun t => (t.seq c).run = some r.timed.decided ∧ s.only t [.ch]) :=
  ⟨_, rfl, State.runIf_decides h hf _ _⟩

theorem ocvPhaseEnd_decides : s.ends (.ocvPhaseEnd c) (fun t => (t.seq c).run = some r.ocvEnded.decided ∧ s.only t [.ch]) :=
  ⟨_, rfl, State.runIf_decides h hf _ _⟩

theorem eisWindowClose_decides :
    s.ends (.eisWindowClose c) (fun t => (t.seq c).run = some r.eisClosed.decided ∧ s.only t [.ch]) :=
  ⟨_, rfl, State.runIf_decides h hf _ _⟩

theorem ecWindowEnd_decides (k : Fin 4) :
    s.ends (.ecWindowEnd c k) (fun t => (t.seq c).run = some (r.windowed k s.tickNs).decided ∧ s.only t [.ch]) :=
  ⟨_, rfl, State.runIf_decides h hf _ _⟩

end

/-- The phases of PULSE (R360 to R364). -/
def Run.pulsed (r : Run) : Run :=
  if decide (r.desc.op = 6) = true then
    if r.phase = 2 ∨ r.phase = 5 then
      if r.ms r.desc.x1.toNat ≤ r.pt then { r with phase := 6, pt := 0, ss := false, sum := 0, n := 0 } else r
    else if r.phase = 6 ∧ r.ms r.desc.x2.toNat ≤ r.pt then
      let rest := if r.n = 0 then r.rest else tdiv r.sum r.n
      let ks : List (Fin 4) := [0, 1, 2, 3]
      let ecs := if r.desc.restEval ∧ r.n ≠ 0 then
          ks.foldl (fun v k => if (r.desc.ec k).code = 1 ∨ (r.desc.ec k).code = 2 then
            bupd v k (fun x => ecVolt (r.desc.ec k) x rest) else v) r.ecs
        else r.ecs
      { r with phase := 5, pt := 0, cycles := r.cycles + 1, rest := rest, iset := r.desc.x0.toInt, ecs := ecs }
    else r
  else r

/-- The state of PULSE_PHASE_SWITCH before its end is decided. -/
def State.pulseSwitched (s : State) (c : Ch) : State :=
  s.runIf c (fun r => decide (r.desc.op = 6)) (fun r =>
    if r.phase = 2 ∨ r.phase = 5 then
      if r.ms r.desc.x1.toNat ≤ r.pt then { r with phase := 6, pt := 0, ss := false, sum := 0, n := 0 } else r
    else if r.phase = 6 ∧ r.ms r.desc.x2.toNat ≤ r.pt then
      let rest := if r.n = 0 then r.rest else tdiv r.sum r.n
      let ks : List (Fin 4) := [0, 1, 2, 3]
      let ecs := if r.desc.restEval ∧ r.n ≠ 0 then
          ks.foldl (fun v k => if (r.desc.ec k).code = 1 ∨ (r.desc.ec k).code = 2 then
            bupd v k (fun x => ecVolt (r.desc.ec k) x rest) else v) r.ecs
        else r.ecs
      { r with phase := 5, pt := 0, cycles := r.cycles + 1, rest := rest, iset := r.desc.x0.toInt, ecs := ecs }
    else r)

theorem State.run_pulsed {s : State} {c : Ch} {r : Run} (h : (s.seq c).run = some r) (hf : r.failed = false) :
    ((s.pulseSwitched c).seq c).run = some r.pulsed := State.run_runIf h hf _ _

/-- A rest ends: the next pulse begins. -/
theorem Run.pulsed_rested {r : Run} (hop : r.desc.op = 6) (hph : r.phase = 6) (hpt : r.ms r.desc.x2.toNat ≤ r.pt) :
    (r.pulsed.phase = 5 ∧ r.pulsed.pt = 0 ∧ r.pulsed.cycles = r.cycles + 1 ∧ r.pulsed.iset = r.desc.x0.toInt ∧
      (r.n ≠ 0 → r.pulsed.rest = tdiv r.sum r.n)) ∧ r.pulsed.desc = r.desc := by
  unfold Run.pulsed
  rw [if_pos (decide_eq_true hop), if_neg (by simp [hph]), if_pos ⟨hph, hpt⟩]
  exact ⟨⟨rfl, rfl, rfl, rfl, fun hn => if_neg hn⟩, rfl⟩

/-- What an event before the decision leaves: the ending, the conditions and the revoke. -/
structure Run.Open (r x : Run) : Prop where
  ending : x.ending = r.ending
  ecs : x.ecs = r.ecs
  revoked : x.revoked = r.revoked

theorem Run.timed_open (r : Run) : Run.Open r r.timed := by
  unfold Run.timed
  split <;> exact ⟨rfl, rfl, rfl⟩

theorem Run.ocvEnded_open (r : Run) : Run.Open r r.ocvEnded := by
  unfold Run.ocvEnded
  split
  · split
    · exact ⟨rfl, rfl, rfl⟩
    · split <;> exact ⟨rfl, rfl, rfl⟩
  · exact ⟨rfl, rfl, rfl⟩

theorem Run.eisClosed_open (r : Run) : Run.Open r r.eisClosed := by
  unfold Run.eisClosed
  split <;> exact ⟨rfl, rfl, rfl⟩

theorem Run.ocvEnded_impl {r : Run} (h : r.impl = true) : r.ocvEnded.impl = true := by
  unfold Run.ocvEnded
  split
  · split
    · exact h
    · split
      · rfl
      · exact h
  · exact h

theorem Run.windowed_ending (r : Run) (k : Fin 4) (ns : Nat) : (r.windowed k ns).ending = r.ending := by
  unfold Run.windowed
  split <;> rfl

end Sys2Proof.Machine
end

section
open Sys2Proof Sys2Proof.Machine

/-- Settles O37: every event changes the run and has `Run.decided` decide its end. -/
theorem endOfStepIsDecidedInOrder : Obligations.EndOfStepIsDecidedInOrder := by
  unfold Obligations.EndOfStepIsDecidedInOrder
  intro s c r hrun hf ended
  have hends {t : State} {x : Run} {y : Option Nat} (h : (t.seq c).run = some x) (hx : x.ending.map (·.reason) = y) :
      ended t y := by
    show ((t.seq c).run.bind (·.ending)).map (·.reason) = y
    rw [h]
    exact hx
  obtain ⟨t1, hexec1, hrun1, honly1⟩ := stepTimeout_decides hrun hf
  obtain ⟨t2, hexec2, hrun2, honly2⟩ := ocvPhaseEnd_decides hrun hf
  obtain ⟨t3, hexec3, hrun3, -⟩ := eisWindowClose_decides hrun hf
  refine ⟨fun e he hdue hrev => ?_, fun hnone hrev => ⟨fun k hk hlow => ?_, fun hfired himpl hto htime => ?_,
    fun hfired himpl => ?_, fun k hcode hlen hsam => ?_⟩⟩
  · have hundue : r.undue = false := by simp [Run.undue, he, hdue]
    have hstay {x : Run} (hx : x.ending = r.ending) : x.decided = x :=
      Run.decided_due (hx.trans he) (by simp [hdue]) hrev
    have htimed : r.timed = r := if_neg (by simp [hundue])
    have hocv : r.ocvEnded = r := if_neg (by simp [hundue])
    rw [htimed, hstay rfl] at hrun1
    rw [hocv, hstay rfl] at hrun2
    refine ⟨⟨t1, hexec1, hrun1, honly1⟩, fun k => ?_, ⟨t2, hexec2, hrun2, honly2⟩⟩
    obtain ⟨t, hexec, hwin, honly⟩ := ecWindowEnd_decides hrun hf k
    refine ⟨t, hexec, ?_, honly⟩
    rw [hwin, hstay (r.windowed_ending k _)]
    exact (r.windowed_ending k _).trans he
  · have hreason {x : Run} (hx : Run.Open r x) : x.decided.ending.map (·.reason) = some k.val := by
      rw [Run.decided_fired (hx.ending.trans hnone) (by rw [hx.ecs]; exact hk) (by rw [hx.ecs]; exact hlow)]
      rfl
    exact ⟨⟨t1, hexec1, hends hrun1 (hreason r.timed_open), honly1⟩, ⟨t3, hexec3, hends hrun3 (hreason r.eisClosed_open)⟩,
      ⟨t2, hexec2, hends hrun2 (hreason r.ocvEnded_open)⟩⟩
  · have hundue : r.undue = true := by simp [Run.undue, hnone]
    refine ⟨fun hle => ⟨t1, hexec1, hends hrun1 ?_, honly1⟩, fun hlt => ⟨t1, hexec1, hends hrun1 ?_, honly1⟩⟩
    · have htimed : r.timed = { r with toFired := some (if r.kWas then rDERATED else rTIMEOUT) } :=
        if_pos (by simp [hle, hto, himpl, hundue]; exact htime)
      rw [htimed]
      exact Run.decided_timer hnone hfired himpl hrev
    · have htimed : r.timed = r := if_neg (by simp; omega)
      rw [htimed, Run.decided_timer hnone hfired himpl hrev, hto]
  · have htimed : r.timed = r := if_neg (by simp [himpl])
    rw [htimed] at hrun1
    refine ⟨⟨t1, hexec1, hends hrun1 (Run.decided_impl hnone hfired himpl)⟩, ⟨t2, hexec2, hends hrun2 ?_⟩⟩
    exact Run.decided_impl (r.ocvEnded_open.ending.trans hnone) (by rw [r.ocvEnded_open.ecs]; exact hfired)
      (Run.ocvEnded_impl himpl)
  · intro x m
    obtain ⟨t, hexec, hwin, honly⟩ := ecWindowEnd_decides hrun hf k
    have hwindowed : r.windowed k s.tickNs =
        { r with ecs := bupd r.ecs k (fun x => ecWindow (r.desc.ec k) x s.tickNs r.armed) } :=
      if_pos (by simp [hcode, hlen, ecWindowed])
    rw [hwindowed] at hwin
    have hnew := bget_bupd_same r.ecs k (fun x => ecWindow (r.desc.ec k) x s.tickNs r.armed)
    refine ⟨t, hexec, ⟨_, hwin, ?_⟩, fun p hp hhits hin hlow => hends hwin ?_, honly⟩
    · rw [Run.decided_rest]
      dsimp only
      rw [hnew]
      exact Run.ecWindow_slope hcode hsam s.tickNs r.armed
    · have hk : (ecWindow (r.desc.ec k) x s.tickNs r.armed).fired = true :=
        Run.ecWindow_fires hcode hsam hp hhits s.tickNs r.armed hin
      have hend := Run.decided_fired
        (r := { r with ecs := bupd r.ecs k (fun x => ecWindow (r.desc.ec k) x s.tickNs r.armed) }) (k := k) hnone
        ((congrArg EcS.fired hnew).trans hk)
        (fun j hj => (congrArg EcS.fired (bget_bupd_other r.ecs _ (Fin.ne_of_gt hj))).trans (hlow j hj))
      rw [hend]
      rfl

/-- Settles O36: what each event makes of the run; the setpoint that follows moves its target alone, and the decision its
ending. -/
theorem phasesOfARunningStepEnd : Obligations.PhasesOfARunningStepEnd := by
  unfold Obligations.PhasesOfARunningStepEnd
  intro s c r hrun hf run
  have hformed {t : State} {x : Run} (h : (t.seq c).run = some x) {P : Run → Prop}
      (hP : ∀ tgt frac, P { x with tgt := tgt, frac := frac }) (hd : x.desc = r.desc) : run (t.formSetpoint c) P := by
    obtain ⟨tgt, frac, hrun'⟩ := State.run_formSetpoint h
    exact ⟨_, hrun', hP tgt frac, hd⟩
  have hdecided {t : State} {x : Run} (h : (t.seq c).run = some x.decided) {P : Run → Prop}
      (hP : ∀ e, P { x with ending := e }) (hd : x.desc = r.desc) : run t P := by
    rw [Run.decided_rest] at h
    exact ⟨_, h, hP _, hd⟩
  have hpulsed := State.run_decideEnd (State.run_pulsed hrun hf)
  refine ⟨fun hss hlen => ?_, fun sum conf hshort hle => ⟨fun hv hdue => ?_, fun hv => ?_⟩, fun hop hph hpt => ?_,
    fun hop hph hpt => ?_, fun hop hoff hundue hph hpt => ?_, fun hop hoff hundue hph hpt => ?_, fun hop hph hpt => ?_,
    fun hop hph hpt => ?_, fun hop hph hon hfree hfirst => ?_, fun hon hk => ?_, fun hop harm hms => ?_⟩
  · have h := State.run_runIf hrun hf (fun r => r.ss && decide (r.ssLen ≤ r.ssT)) (fun r => { r with
      ss := false, phase := if r.phase = 2 then r.runPhase else r.phase })
    rw [if_pos (by simp [hss, hlen])] at h
    exact ⟨_, rfl, hformed h (fun _ _ => rfl) rfl, State.only_trans (State.only_mono (State.runIf_only s c _ _) (by decide))
      (State.formSetpoint_only _ c)⟩
  · let t := s.updSeq c (fun x => { x with short := none })
    have ht : (t.seq c).run = some r := (State.run_updSeq s c c _ (by exact fun _ => rfl)).trans hrun
    have hexec : exec (.shortCheck c) s = .next (t.failStep c rSHORT 0) := by
      show execShortCheck c s = _
      unfold execShortCheck
      rw [hshort]
      dsimp only
      rw [if_pos hle]
      refine if_pos ?_
      rw [State.chan_updSeq_same]
      exact decide_eq_true hv
    rw [State.failStep_now ht hf hdue] at hexec
    refine ⟨_, hexec, ?_, ?_⟩
    · rw [State.seq_updSeq_same]
      exact State.enterHold_st _ _ _
    · exact ⟨_, congrArg ChanS.run (State.seq_updSeq_same _ _ _), rfl, rfl⟩
  · have hexec : exec (.shortCheck c) s = .next (s.updSeq c (fun x => { x with short := none })) := by
      show execShortCheck c s = _
      unfold execShortCheck
      rw [hshort]
      dsimp only
      rw [if_pos hle]
      refine if_neg ?_
      rw [State.chan_updSeq_same, decide_eq_true_eq]
      exact not_lt.2 hv
    exact ⟨_, hexec, State.seq_updSeq_same _ _ _, State.updCh_only (State.only_refl s _) c _⟩
  · have hpulse : r.pulsed = { r with phase := 6, pt := 0, ss := false, sum := 0, n := 0 } :=
      (if_pos (by simp [hop])).trans ((if_pos hph).trans (if_pos hpt))
    have h := hpulsed
    rw [hpulse] at h
    exact ⟨_, rfl, hformed h (fun _ _ => by rw [Run.decided_rest]; exact ⟨rfl, rfl, rfl, rfl⟩) (by rw [Run.decided_rest])⟩
  · have hpulse := Run.pulsed_rested hop hph hpt
    have h := hpulsed
    refine ⟨_, rfl, hformed h (fun _ _ => ?_) ?_⟩
    · rw [Run.decided_rest]
      exact hpulse.1
    · rw [Run.decided_rest]
      exact hpulse.2
  · have hocv : r.ocvEnded = { r with phase := 7, pt := 0, ocv := EcS.zero } :=
      (if_pos (by simp [hop, hoff, hundue])).trans (if_pos ⟨hph, hpt⟩)
    obtain ⟨t, hexec, h, honly⟩ := ocvPhaseEnd_decides hrun hf
    rw [hocv] at h
    exact ⟨t, hexec, hdecided h (fun _ => ⟨rfl, rfl⟩) rfl, honly⟩
  · have hocv : r.ocvEnded = { r with finished := true, impl := true } :=
      (if_pos (by simp [hop, hoff, hundue])).trans ((if_neg (by simp [hph])).trans (if_pos ⟨hph, hpt⟩))
    obtain ⟨t, hexec, h, honly⟩ := ocvPhaseEnd_decides hrun hf
    rw [hocv] at h
    exact ⟨t, hexec, hdecided h (fun _ => ⟨rfl, rfl⟩) rfl, honly⟩
  · let t := s.updRun c (fun r => { r with phase := 9, pt := 0, ss := !(s.chan c).loop.closed })
    let u := if (s.chan c).loop.closed = true then t else t.softStart c r.desc
    have ht : (t.seq c).run = some { r with phase := 9, pt := 0, ss := !(s.chan c).loop.closed } := by
      rw [State.run_updRun, hrun]
      rfl
    have hu : (u.seq c).run = some { r with phase := 9, pt := 0, ss := !(s.chan c).loop.closed } := by
      unfold u
      split
      · exact ht
      · exact (State.run_updSeq t c c _ (by exact fun _ => rfl)).trans ht
    have hexec : exec (.dcirPhaseEnd c) s = .next ((u.startGates c).formSetpoint c) := by
      show execDcirPhaseEnd c s = _
      unfold execDcirPhaseEnd
      rw [hrun]
      dsimp only
      rw [if_neg (by simp [hf, hop]), if_neg hph, if_pos hpt]
    exact ⟨_, hexec, hformed (State.run_startGates hu (by simp)) (fun _ _ => ⟨rfl, rfl, rfl⟩) rfl⟩
  · have hexec : exec (.dcirPhaseEnd c) s = .next ((s.updRun c (fun r => { r with impl := true })).decideEnd c) := by
      show execDcirPhaseEnd c s = _
      unfold execDcirPhaseEnd
      rw [hrun]
      dsimp only
      rw [if_neg (by simp [hf, hop]), if_pos hph, if_pos hpt]
    have ht : ((s.updRun c (fun r => { r with impl := true })).seq c).run = some { r with impl := true } := by
      rw [State.run_updRun, hrun]
      rfl
    have h := State.run_decideEnd ht
    refine ⟨_, hexec, ⟨_, h, ⟨?_, Run.decided_isSome rfl⟩, ?_⟩, State.only_trans (State.updRun_only _ _ _) (State.decideEnd_only _ c)⟩
    · rw [Run.decided_rest]
    · rw [Run.decided_rest]
  · let t := s.updRun c (fun r => { r with
      phase := if r.desc.p16.toNat % 256 = 0 then 8 else 7, eis := { r.eis with on := true, k := 0 } })
    have ht : (t.seq c).run = some { r with
        phase := if r.desc.p16.toNat % 256 = 0 then 8 else 7, eis := { r.eis with on := true, k := 0 } } := by
      rw [State.run_updRun, hrun]
      rfl
    have hlow : allCh.all (fun d => decide (c ≤ d) ||
        (match (s.seq d).run with | some x => !x.toneWaits || !s.toneFree d x | none => true)) = true := by
      rw [List.all_eq_true]
      intro d _
      rcases le_or_gt c d with hle | hlt
      · simp [hle]
      · cases hd : (s.seq d).run with
        | none => simp
        | some x => rcases hfirst d x hlt hd with hw | hw <;> simp [hw]
    have hwaits : r.toneWaits = true := by simp [Run.toneWaits, hop, hph, hon, hf]
    have hexec : exec (.eisToneAdmit c) s = .next (t.formSetpoint c) := by
      show execEisToneAdmit c s = _
      unfold execEisToneAdmit
      rw [hrun]
      refine if_pos ?_
      rw [hwaits, hfree]
      exact hlow
    exact ⟨_, hexec, hformed ht (fun _ _ => ⟨rfl, rfl, rfl⟩) rfl⟩
  · have heis : r.eisClosed = { r with impl := true, eis := { r.eis with on := false } } := if_pos (by simp [hon, hk])
    obtain ⟨t, hexec, h, honly⟩ := eisWindowClose_decides hrun hf
    rw [heis] at h
    refine ⟨t, hexec, ⟨_, h, ⟨?_, ?_, Run.decided_isSome rfl⟩, ?_⟩, honly⟩
    all_goals rw [Run.decided_rest]
  · have h := State.run_runIf hrun hf (fun r => decide (r.desc.op = 11) && !r.armed && decide (r.ms r.desc.x1.toNat ≤ r.ticks))
      (fun r => { r with armed := true })
    rw [if_pos (by simp [hop, harm, hms])] at h
    exact ⟨_, rfl, ⟨_, h, ⟨rfl, rfl⟩, rfl⟩, State.runIf_only s c _ _⟩

end


section
/-!
SUPPORT. A written value that waits for the start of a step under a field record that no register has.
-/

namespace Sys2Proof.Machine

/-- A field record of the step setup of channel 0 whose place lies far outside its word: at that of `CRANGE` of channel 1. -/
def strayRange : Fld := ⟨0x8080, (0x8140 - 0x8080) * 32, 2, .rwl, 0, .none, 0, 3⟩

/-- A device in RUN with channel 0 in IDLE, a profile for gangs in slot 0 of its quad, and a written value of that record. -/
def strayRangeDev : State :=
  { ((Tests.up .run).updSeq 0 (fun x => { x with st := .idle })).updQd 0 (fun x => { x with
      slots := bupd x.slots 0 (fun _ => some (Tests.profOf1 0 0)) }) with
    written := [(strayRange, 1)] }

/-- A GANG of two channels. -/
def strayGang : StepDesc := Tests.stepOf 18 2 0 0

theorem strayRangeDev_may : (strayRangeDev.ready 0 && strayRangeDev.stepOk 0 (strayRangeDev.countAt 0 0) strayGang &&
    strayRangeDev.gangMay 0 strayGang 2) = true := by decide +kernel

/-- The value comes into force as the step begins, before the gang is judged, and the channel enters HOLD. -/
theorem strayRangeDev_holds :
    (nextState (exec (.gang 0 0 strayGang) strayRangeDev)).any (fun t => decide ((t.seq 0).st = .active)) = false := by
  decide +kernel

theorem strayRangeDev_gangs : strayRangeDev.gangsOk := by
  have hsame : SameGangs State.reset strayRangeDev := ⟨fun d => by revert d; decide +kernel, rfl⟩
  exact hsame.gangsOk resetMeetsInvariants.2.1

end Sys2Proof.Machine
end

section
open Sys2Proof Sys2Proof.Machine

/-- Refutes O32: the statement ranges over every list of written values. One whose field record counts as step setup of the
leader but has the place of `CRANGE` of a member changes that range as the step begins, so that the gang, which might form
before, fails R190. -/
theorem not_gangStepFormsItsGang : ¬ Obligations.GangStepFormsItsGang := by
  unfold Obligations.GangStepFormsItsGang
  intro h
  have hmay := strayRangeDev_may
  simp only [Bool.and_eq_true] at hmay
  obtain ⟨⟨hready, hok⟩, hgang⟩ := hmay
  have hends := h strayRangeDev 0 0 strayGang hready strayRangeDev_gangs hok (.inl rfl) rfl rfl
  have htest := State.ends_test hends (test := fun t => decide ((t.seq 0).st = .active)) (fun t ht => by
    have hit := (if_pos (show strayRangeDev.gangMay 0 { strayGang with op := 18 } strayGang.x0.toNat = true from hgang)).mp ht
    exact decide_eq_true hit.2.1)
  rw [strayRangeDev_holds] at htest
  exact Bool.noConfusion htest

end


section
/-!
SUPPORT. A group of MOT in front of the completion buffer, with a STOP behind it that starts the motor below its supply.
-/

namespace Sys2Proof.Machine

/-- The completion of a motion command that waits to be written. -/
def motGroup : CGroup := ⟨.mot, [[0, 0, 0, 0, 0, 0, 0, 0]], 1⟩

/-- A device in RUN whose motor is off, with VM at 0, its gains set, a STOP prefetched and the completion slot of MOT full. -/
def stopWaitsDev : State :=
  Tests.queued (((((Tests.hosted 0x10000 { HostS.reset with cbuf := [motGroup] }).wr HOST_CTL.CPQ_EN 1).wr
    MOT_KCUR.KP 1).wr MOT_KSPD.KP 1).wr MOT_KPOS.KP 1) [Tests.motPre 0x46]

theorem stopWaitsDev_may : (!stopWaitsDev.idle && stopWaitsDev.isHead && stopWaitsDev.drainEvents.rb HOST_CTL.CPQ_EN &&
    !stopWaitsDev.drainEvents.rb HOST_ERR.CPQ_ERR && stopWaitsDev.drainEvents.canWrite .completion &&
    decide (sub16 stopWaitsDev.host.cpqW stopWaitsDev.host.cpqC + motGroup.recs.length ≤ stopWaitsDev.cpqDepth)) = true := by
  decide +kernel

/-- Once the group is written the STOP acts; its start finds VM too low and raises source 30, whose reaction interrupts SEQ:
a second output beside the one record. -/
theorem stopWaitsDev_out : (nextState (exec .completionPost stopWaitsDev)).any (fun t =>
    decide (t.out.length = stopWaitsDev.drainEvents.out.length + motGroup.recs.length)) = false := by
  decide +kernel

end Sys2Proof.Machine
end

section
open Sys2Proof Sys2Proof.Machine

/-- Refutes O51: the clause on a group that a head writes also covers the groups of MOT. Where a STOP has waited for the slot
of that group, it acts in the same command; with VM below 18 V it raises source 30, whose interrupt of SEQ is one output more
than the records. -/
theorem not_completionsEventsAndInterrupts : ¬ Obligations.CompletionsEventsAndInterrupts := by
  unfold Obligations.CompletionsEventsAndInterrupts
  intro h
  have hmay := stopWaitsDev_may
  simp only [Bool.and_eq_true, Bool.not_eq_true', decide_eq_true_eq] at hmay
  obtain ⟨⟨⟨⟨⟨hidle, hhead⟩, hen⟩, herr⟩, hcan⟩, hroom⟩ := hmay
  obtain ⟨⟨-, hgroup⟩, -⟩ := h stopWaitsDev hidle
  obtain ⟨hpost, -⟩ := hgroup motGroup [] rfl hen herr rfl hcan
  have htest := State.ends_test (hpost hroom hhead (fun e he => absurd he List.not_mem_nil))
    (test := fun t => decide (t.out.length = stopWaitsDev.drainEvents.out.length + motGroup.recs.length))
    (fun _ ⟨_, _, _, hlen, _⟩ => decide_eq_true hlen)
  rw [stopWaitsDev_out] at htest
  exact Bool.noConfusion htest

end


section
/-!
SUPPORT. A written value that waits for the motor's period under a field record that no register has.
-/

namespace Sys2Proof.Machine

/-- The place of `MOT_STAT.STATE` with the access of a field whose written value waits. -/
def strayMotState : Fld := { MOT_STAT.STATE with acc := .rwl }

/-- A device in RUN whose motor commutates by back-EMF with its gates off, and a written value of that record. -/
def strayMotorDev : State :=
  { ((Tests.gained.wr MOT_STAT.STATE 2).updCmp 67 (fun _ => ⟨false, false, false, false⟩)).updCmp 71 (fun _ =>
      ⟨false, false, false, false⟩) with
    mot := { Tests.gained.mot with gatesOff := true }
    pins := { Tests.gained.pins with vdrv := true }
    saf := { Tests.gained.saf with men := true }
    written := [(strayMotState, 0)] }

/-- The input of a period without a current. -/
def restingPwm : MotPwmIn := ⟨0, Vector.replicate 3 12000⟩

theorem strayMotorDev_runs : (!strayMotorDev.idle && decide (strayMotorDev.now % max 1 (strayMotorDev.rd MOT_CFG.NTICK) = 0) &&
    strayMotorDev.motMayGate && !strayMotorDev.rb DBG_CTL.HALT_MOT && decide (strayMotorDev.rd MOT_STAT.STATE = 2) &&
    decide (strayMotorDev.mot.start ≠ .ramp)) = true := by decide +kernel

/-- The value comes into force as the period begins, so that the motor counts as off and its gates stay off. -/
theorem strayMotorDev_off :
    (nextState (exec (.motPwmPeriodStart restingPwm) strayMotorDev)).any (fun t => !t.mot.gatesOff) = false := by
  decide +kernel

end Sys2Proof.Machine
end

section
open Sys2Proof Sys2Proof.Machine

/-- Refutes O55: the statement ranges over every list of written values. One whose field record counts as setup of MOT but has
the place of `MOT_STAT.STATE` changes the state of the motor as its PWM period begins, and the gates stay off. -/
theorem not_encoderAndBridge : ¬ Obligations.EncoderAndBridge := by
  unfold Obligations.EncoderAndBridge
  intro h
  have hruns := strayMotorDev_runs
  simp only [Bool.and_eq_true, Bool.not_eq_true', decide_eq_true_eq] at hruns
  obtain ⟨⟨⟨⟨⟨hidle, hperiod⟩, hmay⟩, hhalt⟩, hstate⟩, hstart⟩ := hruns
  obtain ⟨-, -, -, -, -, -, -, hpwm, -⟩ := h strayMotorDev
  have htest := State.ends_test ((hpwm restingPwm hidle).2 hperiod) (test := fun t => !t.mot.gatesOff)
    (fun t ⟨_, _, _, _, _, _, _, hon, _⟩ => by
      rw [(hon hmay hhalt (.inl hstate) (fun hramp => hstart hramp.1)).1]
      rfl)
  rw [strayMotorDev_off] at htest
  exact Bool.noConfusion htest

end


section
/-!
SUPPORT. How a motion command completes, fails and begins (R441, R442, R595, R597, R599).
-/

namespace Sys2Proof.Machine

/-- The group of the completion of a motion command. -/
def State.motGroupOf (s : State) (m : MotCmd) (reason detail : Nat) : CGroup :=
  ⟨.mot, [motionRec m.idx reason m.desc.op.toNat detail m.desc.tag.toNat m.ticks s.mot.ext (s.rdS MOT_FORCE.F) m.peak], 0⟩

theorem State.motComplete_none {s : State} (h : s.mot.cmd = none) (reason detail : Nat) : s.motComplete reason detail = s := by
  unfold State.motComplete
  rw [h]

theorem State.motComplete_some {s : State} {m : MotCmd} (h : s.mot.cmd = some m) (reason detail : Nat) :
    s.motComplete reason detail =
      ({ s with
        host := { s.host with cbuf := s.host.cbuf ++ [s.motGroupOf m reason detail] }
        mot := { s.mot with cmd := none } }).updQ mq (fun x => { x with done := (x.done + 1) % 65536 }) := by
  unfold State.motComplete
  rw [h]
  rfl

theorem State.motComplete_cmd (s : State) (reason detail : Nat) : (s.motComplete reason detail).mot = { s.mot with cmd := none } := by
  cases h : s.mot.cmd with
  | none =>
    rw [s.motComplete_none h]
    cases hm : s.mot
    rw [hm] at h
    simp_all
  | some m =>
    rw [s.motComplete_some h]
    rfl

theorem State.motComplete_regs (s : State) (reason detail : Nat) : (s.motComplete reason detail).regs = s.regs :=
  (s.motComplete_only reason detail).2 .regs (by decide)

theorem State.motComplete_pre (s : State) (reason detail : Nat) (q : QId) :
    ((s.motComplete reason detail).subq q).pre = (s.subq q).pre := by
  cases h : s.mot.cmd with
  | none => rw [s.motComplete_none h]
  | some m =>
    rw [s.motComplete_some h]
    by_cases hq : q = mq
    · rw [hq, State.subq_updQ_same]
      rfl
    · rw [State.subq_updQ_other _ _ (Ne.symm hq)]
      rfl

/-- Without torque MOT has its gates off, and what the host knows stays. -/
theorem State.motNoTorque_spec (s : State) : s.motNoTorque.mot.gatesOff = true ∧ s.motNoTorque.mot.cmd = s.mot.cmd ∧
    s.motNoTorque.mot.hold = s.mot.hold ∧ s.motNoTorque.rd MOT_STAT.STATE = s.rd MOT_STAT.STATE ∧
    s.motNoTorque.host = s.host ∧ s.only s.motNoTorque [.mot, .regs] := by
  have hoff : s.motGatesOff.rd MOT_STAT.STATE = s.rd MOT_STAT.STATE := State.rd_wr_other _ 0 (by decide)
  unfold State.motNoTorque
  dsimp only
  split
  · exact ⟨rfl, rfl, rfl, (State.rd_wr_other _ 1 (by decide)).trans hoff, rfl, State.wr_only s.motGatesOff_only _ _ (by decide)⟩
  · exact ⟨rfl, rfl, rfl, hoff, rfl, s.motGatesOff_only⟩

/-- A failed motion command leaves MOT halted. -/
structure State.Halts (s t : State) : Prop where
  cmd : t.mot.cmd = none
  hold : t.mot.hold = .none
  state : t.rd MOT_STAT.STATE = 5
  off : t.mot.gatesOff = true

theorem State.motFail_halts (s : State) (reason detail : Nat) : s.Halts (s.motFail reason detail) := by
  obtain ⟨hoff, hcmd, hhold, hstate, -, -⟩ := State.motNoTorque_spec
    (({ s.motComplete reason detail with
      mot := { (s.motComplete reason detail).mot with hold := .none, start := .none } } : State).wr MOT_STAT.STATE 5)
  refine ⟨hcmd.trans ?_, hhold.trans rfl, hstate.trans (State.rd_wr_same _ _ _), hoff⟩
  show (s.motComplete reason detail).mot.cmd = none
  rw [s.motComplete_cmd]

theorem State.motFail_host (s : State) (reason detail : Nat) :
    (s.motFail reason detail).host = (s.motComplete reason detail).host :=
  (State.motNoTorque_spec _).2.2.2.2.1

theorem State.motFail_only (s : State) (reason detail : Nat) : s.only (s.motFail reason detail) [.mot, .regs, .host] := by
  have hdone : s.only (s.motComplete reason detail) [.mot, .regs, .host] := State.only_mono (s.motComplete_only _ _) (by decide)
  have hhalt : s.only ({ s.motComplete reason detail with
      mot := { (s.motComplete reason detail).mot with hold := .none, start := .none } } : State) [.mot, .regs, .host] :=
    State.only_trans hdone (State.only_iff.2 (by simp))
  exact State.only_trans (State.wr_only hhalt MOT_STAT.STATE 5 (by decide))
    (State.only_mono (State.motNoTorque_spec _).2.2.2.2.2 (by decide))

/-- The record of a command that fails is the last of the completion buffer. -/
theorem State.motFail_last {s : State} {m : MotCmd} (h : s.mot.cmd = some m) (reason detail : Nat) :
    (s.motFail reason detail).host.cbuf = s.host.cbuf ++ [s.motGroupOf m reason detail] := by
  rw [s.motFail_host, s.motComplete_some h]
  rfl

/-! ### Beginning -/

/-- A motion command as it begins. -/
def newCmd (d : MotionDesc) (idx : Nat) : MotCmd :=
  { desc := d, idx := idx, ph := .starting, ticks := 0, peak := 0, dwell := 0, fe := 0, fSet := 0, f0 := 0, rampT := 0
    ss1 := false }

/-- The state with a motion command begun. -/
def State.cmdBegun (s : State) (d : MotionDesc) (idx : Nat) : State :=
  { s with mot := { s.mot with
    cmd := some (newCmd d idx), hold := .none, acc := d.amax.toNat, vmax := if d.op = 0x46 then s.mot.vmax else d.vmax.toNat } }

/-- The state with a motion command begun, HOME having cleared the latch. -/
def State.cmdTaken (s : State) (d : MotionDesc) (idx : Nat) : State :=
  if d.op = 0x41 then (s.cmdBegun d idx).wr MOT_ENCSTAT.HOME_VALID 0 else s.cmdBegun d idx

theorem State.cmdTaken_rd (s : State) (d : MotionDesc) (idx : Nat) {f : Fld} (hf : MOT_ENCSTAT.HOME_VALID.key ≠ f.key) :
    (s.cmdTaken d idx).rd f = s.rd f := by
  unfold State.cmdTaken
  split
  · exact State.rd_wr_other _ 0 hf
  · rfl

theorem State.cmdTaken_mot (s : State) (d : MotionDesc) (idx : Nat) : (s.cmdTaken d idx).mot = (s.cmdBegun d idx).mot := by
  unfold State.cmdTaken
  split
  · rfl
  · rfl

theorem State.cmdTaken_only (s : State) (d : MotionDesc) (idx : Nat) : s.only (s.cmdTaken d idx) [.mot, .regs] := by
  have hbegun : s.only (s.cmdBegun d idx) [.mot, .regs] := State.only_iff.2 (by simp [State.cmdBegun])
  unfold State.cmdTaken
  split
  · exact State.wr_only hbegun _ _ (by decide)
  · exact hbegun

theorem State.motBegin_invalid {s : State} {d : MotionDesc} (idx : Nat)
    (h : motionValid d = false ∨ s.loopsOk d.op.toNat = false) :
    s.motBegin d idx = (s.cmdBegun d idx).motFail rFAULT dINVALID := by
  have hbad : (!motionValid d || !(s.cmdBegun d idx).loopsOk d.op.toNat) = true := by
    rw [show (s.cmdBegun d idx).loopsOk d.op.toNat = s.loopsOk d.op.toNat from rfl]
    rcases h with h | h
    · rw [h]
      rfl
    · rw [h]
      exact Bool.or_true _
  exact if_pos hbad

theorem State.motBegin_valid {s : State} {d : MotionDesc} (idx : Nat) (hvalid : motionValid d = true)
    (hloops : s.loopsOk d.op.toNat = true) :
    s.motBegin d idx = if s.rd MOT_STAT.STATE = 0 then (s.cmdTaken d idx).motStart else (s.cmdTaken d idx).motGo := by
  have hok : ¬ (!motionValid d || !(s.cmdBegun d idx).loopsOk d.op.toNat) = true := by
    rw [show (s.cmdBegun d idx).loopsOk d.op.toNat = s.loopsOk d.op.toNat from rfl, hvalid, hloops]
    decide
  have hstate : (s.cmdTaken d idx).rd MOT_STAT.STATE = s.rd MOT_STAT.STATE := s.cmdTaken_rd d idx (by decide)
  rw [← hstate]
  exact if_neg hok

theorem State.motStart_low {s : State} (h : s.rd MOT_VM.VM < 18000) : s.motStart = (s.motRaise 30).motFail rFAULT (dSrc 30) :=
  if_pos h

/-! ### STOP -/

/-- A STOP has ended what ran and what was prefetched before it, and left the prefetch itself. -/
def State.stopReady (s : State) : State :=
  let t := s.motComplete rREVOKED 0
  (t.revokeMotion ((t.subq mq).pre.takeWhile (fun p => decide (((wAt p.words 0).extractLsb' 0 8) ≠ 0x46)))).popMot.stopClears

/-- The command of a STOP that completes at once. -/
def stopCmd (d : MotionDesc) (idx : Nat) : MotCmd :=
  { desc := d, idx := idx, ph := .stopping 0, ticks := 0, peak := 0, dwell := 0, fe := 0, fSet := 0, f0 := 0, rampT := 0
    ss1 := false }

theorem State.motStop_eq (s : State) (d : MotionDesc) (idx : Nat) :
    s.motStop d idx =
      if s.stopReady.rd MOT_STAT.STATE = 5 then
        let t : State := { s.stopReady with mot := { s.stopReady.mot with cmd := some (stopCmd d idx) } }
        if motionValid d then ((t.motComplete 0 0).wr MOT_STAT.STATE 0).motGatesOff else t.motFail rFAULT dINVALID
      else s.stopReady.motBegin d idx := rfl

theorem State.motStopScan_at {s : State} {d : MotionDesc} {idx : Nat} (hmay : s.stopMay = true) (hat : s.stopAt = some (d, idx)) :
    s.motStopScan = s.motStop d idx := by
  unfold State.motStopScan
  rw [hmay, hat]
  rfl

end Sys2Proof.Machine
end


section
/-!
SUPPORT. The acknowledgement of the last record of a group of MOT, with a STOP behind it whose start resets the chip.
-/

namespace Sys2Proof.Machine

/-- A first raise of a source whose reaction is a CHIP reset alone resets what the host interface keeps. -/
theorem State.raiseAs_chip {s : State} {n : Src} (c : Ch) (x : SafeCause) (hlisted : srcListed n.val = true)
    (hnew : (s.src n).act &&& actBit n c = 0) (hreact : (s.src n).react = 8) (hheld : s.sys.held = none)
    (hfree : (s.report n c).flt.copying = false) : (s.raiseAs n c x).host = HostS.reset := by
  have hsys : (s.report n c).sys = s.sys := (s.report_only n c).2 .sys (by decide)
  have hchip : (s.report n c).react n c 8 x = (s.report n c).fullReset .chip 5 0 false := by
    unfold State.react
    rw [if_neg (show ¬ bitN 8 5 = true by decide), if_pos (show bitN 8 3 = true by decide)]
    unfold State.chipReset
    rw [if_neg (by rw [hfree]; exact Bool.false_ne_true)]
  rw [State.raiseAs_new s n c x hlisted hnew, hreact, hchip]
  exact (State.fullReset_done _ .chip 5 0 false (fun h e => by
    rw [hsys, hheld] at e
    cases e) (fun e => by cases e)).host

theorem State.motRaise_vmLow (s : State) : s.motRaise 30 = (s.wr MOT_FLT.VM_LOW 1).raiseAs 30 0 (srcCause 30) := rfl

/-- What a reset clears of the host interface: the count of the CPQ, the resets that are due, the reads. -/
def State.hostCleared (s : State) : Prop := s.host.cpqW = 0 ∧ s.host.resetAt = [] ∧ s.host.reads = []

/-- A STOP whose start finds VM too low, where that resets the chip. -/
theorem State.motStop_resets {s : State} {d : MotionDesc} {idx : Nat} (hstate : s.stopReady.rd MOT_STAT.STATE = 0)
    (hvalid : motionValid d = true) (hloops : s.stopReady.loopsOk d.op.toNat = true)
    (hvm : (s.stopReady.cmdTaken d idx).rd MOT_VM.VM < 18000)
    (hreset : ((s.stopReady.cmdTaken d idx).motRaise 30).host = HostS.reset) : (s.motStop d idx).hostCleared := by
  have hstop : s.motStop d idx = ((s.stopReady.cmdTaken d idx).motRaise 30).motFail rFAULT (dSrc 30) := by
    rw [s.motStop_eq, if_neg (by rw [hstate]; decide), State.motBegin_valid idx hvalid hloops, if_pos hstate,
      State.motStart_low hvm]
  rw [hstop]
  unfold State.hostCleared
  rw [State.motFail_host]
  generalize (s.stopReady.cmdTaken d idx).motRaise 30 = t at hreset
  cases hcmd : t.mot.cmd with
  | none =>
    rw [t.motComplete_none hcmd, hreset]
    exact ⟨rfl, rfl, rfl⟩
  | some m =>
    rw [t.motComplete_some hcmd]
    unfold State.updQ
    dsimp only
    rw [hreset]
    exact ⟨rfl, rfl, rfl⟩

/-- A STOP waits that may act, whose start finds VM too low, and source 30 resets the chip at once. -/
def State.stopWouldReset (s : State) (d : MotionDesc) (idx : Nat) : Bool :=
  let u := s.stopReady.cmdTaken d idx
  let v := u.wr MOT_FLT.VM_LOW 1
  s.stopMay && decide (s.stopAt = some (d, idx)) && decide (s.stopReady.rd MOT_STAT.STATE = 0) && motionValid d &&
    s.stopReady.loopsOk d.op.toNat && decide (u.rd MOT_VM.VM < 18000) && decide ((v.src 30).act &&& actBit 30 0 = 0) &&
    decide ((v.src 30).react = 8) && decide (v.sys.held = none) && !(v.report 30 0).flt.copying

theorem State.motStopScan_resets {s : State} {d : MotionDesc} {idx : Nat} (h : s.stopWouldReset d idx = true) :
    s.motStopScan.hostCleared := by
  unfold State.stopWouldReset at h
  simp only [Bool.and_eq_true, decide_eq_true_eq, Bool.not_eq_true'] at h
  obtain ⟨⟨⟨⟨⟨⟨⟨⟨⟨hmay, hat⟩, hstate⟩, hvalid⟩, hloops⟩, hvm⟩, hnew⟩, hreact⟩, hheld⟩, hfree⟩ := h
  rw [State.motStopScan_at hmay hat]
  refine State.motStop_resets hstate hvalid hloops hvm ?_
  rw [State.motRaise_vmLow]
  exact State.raiseAs_chip 0 (srcCause 30) (by decide) hnew hreact hheld hfree

/-- The group in front of the completion buffer leaves it as written. -/
def State.groupGone (s : State) (g : CGroup) (l : List CGroup) : State :=
  (({ s with host := { s.host with
    cbuf := l, cpqW := (s.host.cpqW + g.recs.length) % 65536, flight := none, wrote := 0 } } : State).irq g.vec).flow

/-- A group of MOT has been written with a STOP waiting, and no reset is due afterwards. -/
theorem State.groupDone_stop {s : State} {g : CGroup} {l : List CGroup} (hcbuf : s.host.cbuf = g :: l) (hmot : g.owner = .mot)
    (hstop : (s.groupGone g l).stopNext = true) (hat : (s.groupGone g l).motStopScan.host.resetAt = []) :
    s.groupDone = (s.groupGone g l).motStopScan := by
  unfold State.groupDone
  rw [hcbuf]
  dsimp only
  rw [hmot]
  dsimp only
  rw [show ((({ s with host := { s.host with
    cbuf := l, cpqW := (s.host.cpqW + g.recs.length) % 65536, flight := none, wrote := 0 } } : State).irq g.vec).flow) =
    s.groupGone g l from rfl, if_pos hstop, hat]
  rfl

/-- The state with the frames that an acknowledgement names done. -/
def State.frameDone (s : State) (f : Frame) : State :=
  let mine (g : Frame) : Bool := g.dst = f.src && g.tag = BitVec.ofNat 8 (f.arg.toNat / 256)
  { s with ring := { s.ring with
    sent := s.ring.sent.filter (fun x => !mine x.frame)
    outq := s.ring.outq.filter (fun g => !(mine g && g.retry && g.ackreq)) } }

/-- The acknowledgement of the last record of a group. -/
theorem exec_ack_group {s t : State} {f : Frame} {o : OutFr} {k : Nat} {g : CGroup} {l : List CGroup}
    (htake : s.takeFrame f false = (t, true))
    (hsent : t.ring.sent.find? (fun x => decide (x.frame.dst = f.src) && decide (x.frame.tag = BitVec.ofNat 8 (f.arg.toNat / 256))) =
      some o)
    (hcls : (t.frameDone f).frCls o.frame = .completion) (hflight : (t.frameDone f).host.flight = some k)
    (hcbuf : (t.frameDone f).host.cbuf = g :: l) (hlast : ¬ k + 1 < g.recs.length) :
    exec (.ack f) s = .next (t.frameDone f).groupDone := by
  show execAck f s = _
  unfold execAck
  rw [htake]
  dsimp only
  rw [hsent]
  dsimp only
  rw [if_neg (by decide)]
  refine (if_pos hcls).trans ?_
  show (match (t.frameDone f).host.flight, (t.frameDone f).host.cbuf with
    | some k, g :: _ =>
      if k + 1 < g.recs.length then _
      else Host.Outcome.next (t.frameDone f).groupDone
    | _, _ => Host.Outcome.next (t.frameDone f)) = _
  rw [hflight, hcbuf]
  exact if_neg hlast

/-- A write of the first record of the CPQ. -/
def cpqWrite : Frame := ⟨5, 0, 0, false, true, true, 1, 1500, [], true⟩

/-- The frame that acknowledges it. -/
def cpqAck : Frame := ⟨7, 0, 0, false, false, true, 2, 4 + 256 * 1, [], true⟩

/-- A device that has sent the record of a group of MOT, with a STOP prefetched and VM at 0; source 30 resets the chip at
once. -/
def ackedStopDev : State :=
  let s := (stopWaitsDev.wr FLT_DUMPCTL.TRG_CHIP 0).updSrc 30 (fun x => { x with react := 8 })
  { s with
    host := { s.host with flight := some 0, cpqW := 5 }
    ring := { s.ring with sent := [⟨cpqWrite, 0, 0⟩] } }

/-- The same with the frame taken. -/
def ackTakenDev : State := (ackedStopDev.takeFrame cpqAck false).1

/-- The same with the group written. -/
def groupGoneDev : State := (ackTakenDev.frameDone cpqAck).groupGone motGroup []

/-- The descriptor of its STOP. -/
def stopDesc : MotionDesc := parseMotion (Tests.motPre 0x46).words

theorem ackedStopDev_takes : (!ackedStopDev.idle && !ackedStopDev.ring.resetting && ackedStopDev.forMe cpqAck &&
    decide (ackedStopDev.frCls cpqWrite = .completion) && ackedStopDev.host.resetAt.isEmpty) = true := by
  decide +kernel

/-- The STOP acts once the group is written; its start finds VM too low, and the reset clears the count of the CPQ. -/
theorem groupGoneDev_cleared : groupGoneDev.motStopScan.hostCleared :=
  State.motStopScan_resets (d := stopDesc) (idx := 0) (by decide +kernel)

theorem ackedStopDev_goes : exec (.ack cpqAck) ackedStopDev = .next groupGoneDev.motStopScan := by
  have htake : ackedStopDev.takeFrame cpqAck false = (ackTakenDev, true) := Prod.ext rfl (by decide +kernel)
  have hsent : ackTakenDev.ring.sent.find? (fun x => decide (x.frame.dst = cpqAck.src) &&
      decide (x.frame.tag = BitVec.ofNat 8 (cpqAck.arg.toNat / 256))) = some ⟨cpqWrite, 0, 0⟩ := by decide +kernel
  have hcls : (ackTakenDev.frameDone cpqAck).frCls cpqWrite = .completion := by decide +kernel
  have hflight : (ackTakenDev.frameDone cpqAck).host.flight = some 0 := by decide +kernel
  have hcbuf : (ackTakenDev.frameDone cpqAck).host.cbuf = [motGroup] := by decide +kernel
  have hstop : groupGoneDev.stopNext = true := by decide +kernel
  have hlast : ¬ 0 + 1 < motGroup.recs.length := by decide
  have hexec := exec_ack_group (k := 0) (g := motGroup) (l := []) htake hsent hcls hflight hcbuf hlast
  have hgone : (ackTakenDev.frameDone cpqAck).groupGone motGroup [] = groupGoneDev := rfl
  have hat := groupGoneDev_cleared.2.1
  rw [← hgone] at hstop hat ⊢
  rw [hexec, State.groupDone_stop hcbuf rfl hstop hat]

end Sys2Proof.Machine
end

section
open Sys2Proof Sys2Proof.Machine

/-- Refutes O43: the clause on the acknowledgement of the last record of a group also covers the groups of MOT. Where a STOP has
waited for the slot of that group, it acts in the same command; with VM below 18 V it raises source 30, and a reaction that
resets the chip clears the count of the CPQ. -/
theorem not_dataFramesAndTheirAnswers : ¬ Obligations.DataFramesAndTheirAnswers := by
  unfold Obligations.DataFramesAndTheirAnswers
  intro h
  have htakes := ackedStopDev_takes
  simp only [Bool.and_eq_true, Bool.not_eq_true', decide_eq_true_eq, List.isEmpty_iff] at htakes
  obtain ⟨⟨⟨⟨hidle, hreset⟩, hme⟩, hcls⟩, hat⟩ := htakes
  obtain ⟨-, hframes, -⟩ := h ackedStopDev hidle hreset
  obtain ⟨-, hack, -⟩ := hframes cpqAck ⟨hidle, hreset, rfl, rfl, hme⟩
  obtain ⟨-, hgroup⟩ := hack ⟨cpqWrite, 0, 0⟩ (by decide +kernel)
  obtain ⟨t, hexec, -, hcount, -⟩ := (hgroup 0 motGroup [] hcls rfl rfl).2 (by decide) hat
  rw [ackedStopDev_goes] at hexec
  rw [← Host.Outcome.next.inj hexec, groupGoneDev_cleared.1] at hcount
  exact absurd hcount (by decide)

end


section
/-!
SUPPORT. A written value that waits for `FLT_LREC0.SRC`, a field whose writes never wait.
-/

namespace Sys2Proof.Machine

/-- A device in BOOT whose source 45 resets the chip and nothing else, with a written value of `FLT_LREC0.SRC`. -/
def lateRecordDev : State :=
  { ((Tests.up .boot).wr FLT_DUMPCTL.TRG_CHIP 0).updSrc 45 (fun x => { x with react := 8 }) with written := [(FLT_LREC0.SRC, 99)] }

theorem lateRecordDev_may : (!lateRecordDev.idle && !lateRecordDev.rb DBG_CTL.HALT_SEQ && bitN (lateRecordDev.src 45).react 3 &&
    !bitN (lateRecordDev.src 45).react 5 && decide ((lateRecordDev.src 45).act &&& 1 = 0) && !lateRecordDev.flt.copying &&
    !lateRecordDev.rb FLT_DUMPCTL.TRG_CHIP) = true := by decide +kernel

theorem lateRecordDev_gangs : lateRecordDev.gangsOk :=
  State.gangsOk_of_seq (s := State.reset) (fun d => by revert d; decide +kernel) resetMeetsInvariants.2.1

/-- The reset brings the value into force after the record of the fault was written. -/
theorem lateRecordDev_record :
    (nextState (exec .seqWdog lateRecordDev)).any (fun t => decide (t.rd FLT_LREC0.SRC = 45)) = false := by
  decide +kernel

end Sys2Proof.Machine
end

section
open Sys2Proof Sys2Proof.Machine

/-- Refutes O59: the statement ranges over every list of written values. One of `FLT_LREC0.SRC` comes into force in the CHIP
reset that the watchdog of SEQ causes, so that the last fault record does not name source 45. -/
theorem not_faultsAreRaisedAndCleared : ¬ Obligations.FaultsAreRaisedAndCleared := by
  unfold Obligations.FaultsAreRaisedAndCleared
  intro h
  have hmay := lateRecordDev_may
  simp only [Bool.and_eq_true, Bool.not_eq_true', decide_eq_true_eq] at hmay
  obtain ⟨⟨⟨⟨⟨⟨hidle, hrun⟩, hchip⟩, hsafe⟩, hnew⟩, hfree⟩, hdump⟩ := hmay
  obtain ⟨-, -, -, -, -, -, -, -, -, hreset, -⟩ := h lateRecordDev hidle
  have hends := (hreset hrun hchip hnew lateRecordDev_gangs).2 hfree
    (fun hdumps => by rw [hdump] at hdumps; exact Bool.noConfusion hdumps.1) hsafe
  have htest := State.ends_test hends (test := fun t => decide (t.rd FLT_LREC0.SRC = 45))
    (fun _ ⟨_, hsrc, _⟩ => decide_eq_true hsrc)
  rw [lateRecordDev_record] at htest
  exact Bool.noConfusion htest

end


section
/-!
SUPPORT. A gang of two whose follower is asked to close, and a spare that carries a voltage converter in a current range.
-/

namespace Sys2Proof.Machine

/-- A device in STANDBY whose channels 0 and 1 form a gang. -/
def gangOfTwoDev : State :=
  ((Tests.up .standby).updSeq 0 (fun x => { x with size := 2 })).updSeq 1 (fun x => { x with st := .member, lead := some 0 })

/-- `MEAS_CLOSE` of `CH_ISO`, with a settling time in its range. -/
def measCloseBit : Word := 0x10005

theorem gangOfTwoDev_may : (!gangOfTwoDev.idle && gangOfTwoDev.responds (0x801c + 0x100 * (1 : Ch).val) &&
    !gangOfTwoDev.blockHeld (0x801c + 0x100 * (1 : Ch).val) &&
    decide (gangOfTwoDev.refuseCode (0x801c + 0x100 * (1 : Ch).val) measCloseBit = 0)) = true := by decide +kernel

theorem gangOfTwoDev_gangs : gangOfTwoDev.gangsOk := by
  unfold State.gangsOk
  decide +kernel

/-- The closure runs on the leader's pulse; the follower has none. -/
theorem gangOfTwoDev_pulse : (nextState (exec (.measClose .bar0 1 measCloseBit) gangOfTwoDev)).any
    (fun t => (t.chan 1).stage.pulse.isSome) = false := by
  decide +kernel

end Sys2Proof.Machine
end

section
open Sys2Proof Sys2Proof.Machine

/-- Refutes O58: the clause on a measurement closure also covers the follower of a gang, whose confirmation pulse runs on its
leader alone. -/
theorem not_channelRegisterWritesAct : ¬ Obligations.ChannelRegisterWritesAct := by
  unfold Obligations.ChannelRegisterWritesAct
  intro h
  have hmay := gangOfTwoDev_may
  simp only [Bool.and_eq_true, Bool.not_eq_true', decide_eq_true_eq] at hmay
  obtain ⟨⟨⟨hidle, hresponds⟩, hfree⟩, hcode⟩ := hmay
  obtain ⟨hclose, -⟩ := h gangOfTwoDev .bar0 1 measCloseBit hidle
  have htest := State.ends_test (hclose gangOfTwoDev_gangs ⟨hresponds, hfree, hcode⟩)
    (test := fun t => (t.chan 1).stage.pulse.isSome) (fun _ ⟨_, hpulse, _⟩ => (hpulse rfl rfl rfl rfl).2.1)
  rw [gangOfTwoDev_pulse] at htest
  exact Bool.noConfusion htest

end


section
/-!
SUPPORT. A spare that carries a voltage converter in a range that such a converter does not have.
-/

namespace Sys2Proof.Machine

/-- A device whose first spare carries the voltage converter of channel 0, with the range of a current converter. -/
def strayRngDev : State :=
  (Tests.up .run).updSpare 0 (fun p => { p with st := .carrying, rc := false, target := 0, rng := 2, t := 1056, calNext := 0 })

theorem strayRngDev_may : (!strayRngDev.idle && !strayRngDev.met.frozen && !bitN (strayRngDev.src 48).react 2 &&
    !bitN (strayRngDev.src 48).react 3 && (strayRngDev.calPair 2 (512 * strayRngDev.mClk : Nat) 0 0
      (strayRngDev.calOf 0 2)).isNone) = true := by decide +kernel

/-- The calibration is rejected in the converter's own range alone. -/
theorem strayRngDev_failed : (nextState (exec (.calibrationComplete 0 2 0 0 0 0) strayRngDev)).any
    (fun t => (t.calOf 0 2).failed) = false := by
  decide +kernel

end Sys2Proof.Machine
end

section
open Sys2Proof Sys2Proof.Machine

/-- Refutes O49: the statement ranges over every record of a spare. One that carries a voltage converter with the range of a
current converter passes a calibration in that range, whose rejection is noted in the one range of the converter instead. -/
theorem not_ibexRotationHandsOver : ¬ Obligations.IbexRotationHandsOver := by
  unfold Obligations.IbexRotationHandsOver
  intro h
  have hmay := strayRngDev_may
  simp only [Bool.and_eq_true, Bool.not_eq_true', Option.isNone_iff_eq_none] at hmay
  obtain ⟨⟨⟨⟨hidle, hfrozen⟩, hblock⟩, hchip⟩, hnone⟩ := hmay
  obtain ⟨-, hcal, -⟩ := h strayRngDev 0 hidle
  obtain ⟨hpass, -⟩ := hcal 0 2 0 0 0 0 (fun _ => by decide) hfrozen ⟨hblock, hchip⟩
  have hends := hpass rfl rfl rfl (by decide +kernel) (.inl rfl)
  have htest := State.ends_test hends (test := fun t => (t.calOf 0 2).failed) (fun t ⟨_, hjudged⟩ => by
    unfold State.judged at hjudged
    rw [show strayRngDev.calPair ((2 : Fin 5).val) (512 * strayRngDev.mClk : Nat) 0 0
      (strayRngDev.calOf ((0 : Fin 36).val) ((2 : Fin 5).val)) = none from hnone] at hjudged
    exact hjudged.2)
  rw [strayRngDev_failed] at htest
  exact Bool.noConfusion htest

end


section
/-!
SUPPORT. A read of descriptors that fails while a read of a member waits for a tag and a group of MOT waits to be written,
with a STOP behind it whose start resets the chip.
-/

namespace Sys2Proof.Machine

/-- Without events enabled none is written. -/
theorem State.drainEvents_off {s : State} (h : s.rb HOST_CTL.EVQ_EN = false) : s.drainEvents = s := by
  have hstep : s.eventStep = s := by
    unfold State.eventStep
    rw [if_pos (by rw [h, Bool.not_false, Bool.or_true])]
  unfold State.drainEvents
  induction List.range (s.host.events.length + b2n s.host.evqNote) with
  | nil => rfl
  | cons _ _ ih => rw [List.foldl_cons, hstep, ih]

/-- With one group in the buffer and nothing else that waits for a completion slot, the group is what is written. -/
theorem State.drainWrites_one {s : State} (hev : s.rb HOST_CTL.EVQ_EN = false)
    (hn : s.host.cbuf.length + s.host.owed.length + b2n s.host.admFin.isSome = 1) : s.drainWrites = s.groupStep := by
  unfold State.drainWrites
  rw [s.drainEvents_off hev]
  dsimp only
  rw [hn]
  rfl

/-- A head writes the group in front of the buffer at once. -/
theorem State.groupStep_head {s : State} {g : CGroup} {l : List CGroup} (hcbuf : s.host.cbuf = g :: l)
    (hmay : (s.idle || !s.rb HOST_CTL.CPQ_EN || s.rb HOST_ERR.CPQ_ERR || s.host.flight.isSome) = false)
    (hroom : sub16 s.host.cpqW s.host.cpqC + g.recs.length ≤ s.cpqDepth) (hcan : s.canWrite .completion = true)
    (hhead : s.isHead = true) :
    s.groupStep = ((List.range g.recs.length).foldl (fun s i => s.writeRec g i) s).groupDone := by
  unfold State.groupStep
  rw [if_neg (by rw [hmay]; exact Bool.false_ne_true), hcbuf]
  dsimp only
  rw [if_neg (by omega), if_neg (by omega), if_neg (by rw [hcan]; decide), if_pos hhead]

/-- Issuing a read that waits for a tag leaves the host interface as it is. -/
theorem State.issueRead_host (s : State) : s.issueRead.host = s.host := by
  unfold State.issueRead
  cases s.rdNextReq with
  | none => rfl
  | some f =>
    dsimp only
    split <;> rfl

theorem State.issueReads_host (s : State) : s.issueReads.host = s.host := by
  unfold State.issueReads
  generalize s.ring.rdq = l
  induction l generalizing s with
  | nil => rfl
  | cons _ _ ih => exact (ih s.issueRead).trans s.issueRead_host

/-- A read that a member waits for. -/
def memberRead : Frame := ⟨3, 0, 0, false, false, true, 1, 0, [], true⟩

/-- The older of two reads of MQ. -/
def oldRead : ReadReq := ⟨mq, 0, 1, 0, []⟩

/-- A device whose MQ has two reads under way, with a group of MOT to write, a STOP prefetched and VM at 0; source 30 resets
the chip at once. -/
def failedReadDev : State :=
  let s := (stopWaitsDev.wr FLT_DUMPCTL.TRG_CHIP 0).updSrc 30 (fun x => { x with react := 8 })
  { s with
    host := { s.host with reads := [oldRead, ⟨mq, 1, 1, 1, []⟩] }
    ring := { s.ring with rdq := [memberRead] } }

/-- The same with the failed read recorded. -/
def readNotedDev : State := failedReadDev.takeRead oldRead .timeout []

/-- The same with the record of the group written. -/
def readWrittenDev : State := (List.range motGroup.recs.length).foldl (fun s i => s.writeRec motGroup i) readNotedDev

/-- The STOP acts in the same command, and the reset that follows clears the reads. -/
theorem readNotedDev_clears : readNotedDev.readOn.host.reads = [] := by
  have hwait : readNotedDev.ring.rdq.isEmpty = false := by decide +kernel
  have hev : readNotedDev.rb HOST_CTL.EVQ_EN = false := by decide +kernel
  have hone : readNotedDev.host.cbuf.length + readNotedDev.host.owed.length + b2n readNotedDev.host.admFin.isSome = 1 := by
    decide +kernel
  have hcbuf : readNotedDev.host.cbuf = [motGroup] := by decide +kernel
  have hmay : (readNotedDev.idle || !readNotedDev.rb HOST_CTL.CPQ_EN || readNotedDev.rb HOST_ERR.CPQ_ERR ||
    readNotedDev.host.flight.isSome) = false := by decide +kernel
  have hroom : sub16 readNotedDev.host.cpqW readNotedDev.host.cpqC + motGroup.recs.length ≤ readNotedDev.cpqDepth := by
    decide +kernel
  have hcan : readNotedDev.canWrite .completion = true := by decide +kernel
  have hhead : readNotedDev.isHead = true := by decide +kernel
  have hbuf : readWrittenDev.host.cbuf = [motGroup] := by decide +kernel
  have hstop : (readWrittenDev.groupGone motGroup []).stopNext = true := by decide +kernel
  have hreset : (readWrittenDev.groupGone motGroup []).stopWouldReset stopDesc 0 = true := by decide +kernel
  obtain ⟨-, hat, hreads⟩ := State.motStopScan_resets hreset
  have hdone := State.groupDone_stop (s := readWrittenDev) hbuf rfl hstop hat
  have hwritten : readNotedDev.drainWrites = (readWrittenDev.groupGone motGroup []).motStopScan := by
    rw [State.drainWrites_one hev hone, State.groupStep_head hcbuf hmay hroom hcan hhead]
    exact hdone
  unfold State.readOn
  rw [if_neg (by rw [hwait]; exact Bool.false_ne_true), State.issueReads_host, hwritten, hreads]

end Sys2Proof.Machine
end

section
open Sys2Proof Sys2Proof.Machine

/-- Refutes O50: the clause on a failed read also covers a device that issues a waiting read of a member behind it, after what
waits to be written. Where that is a group of MOT for whose slot a STOP has waited, the STOP acts; with VM below 18 V it raises
source 30, and a reaction that resets the chip clears the reads. -/
theorem not_doorbellsAndDescriptorReads : ¬ Obligations.DoorbellsAndDescriptorReads := by
  unfold Obligations.DoorbellsAndDescriptorReads
  intro h
  have hidle : failedReadDev.idle = false := by decide +kernel
  have hat : failedReadDev.host.resetAt = [] := by decide +kernel
  have hread : failedReadDev.host.reads.find? (fun x => decide (x.q = mq)) = some oldRead := by decide +kernel
  have hon : failedReadDev.qOn mq = true := by decide +kernel
  obtain ⟨-, -, -, -, -, hreads⟩ := h failedReadDev hidle
  obtain ⟨hfails, -⟩ := hreads hat mq oldRead hread hon .timeout []
  obtain ⟨t, hexec, hkept, -⟩ := hfails (by decide)
  have hgoes : exec (.descriptorReadComplete mq .timeout []) failedReadDev = .next readNotedDev.readOn := by
    show execDescriptorReadComplete mq .timeout [] failedReadDev = _
    unfold execDescriptorReadComplete
    rw [hread]
    rfl
  rw [hgoes] at hexec
  have hcleared : t.host.reads = [] := Host.Outcome.next.inj hexec ▸ readNotedDev_clears
  exact absurd (hcleared.symm.trans hkept) (by decide +kernel)

end


section
/-!
SUPPORT. The dump (R694 to R703): what its writes change, and that its sections do not depend on its own state.
-/

namespace Sys2Proof.Machine

/-! ### Writes to host memory -/

/-- A frame that waits to be sent changes the ring alone. -/
theorem State.send_only (s : State) (ty dst : Nat) (ack : Bool) (arg : Nat) (ws : List Word) :
    s.only (s.send ty dst ack arg ws) [.ring] := by
  unfold State.send
  dsimp only
  split
  · exact State.only_refl _ _
  · exact State.only_iff.2 (by simp [State.queueFrame])

theorem State.hostWrite_only (s : State) (addr : Nat) (ws : List Word) : s.only (s.hostWrite addr ws) [.ring, .out] := by
  unfold State.hostWrite
  split
  · exact State.only_iff.2 (by simp [State.emit])
  · exact State.only_mono (s.send_only 5 0 true addr ws) (by simp)

/-- A head writes to host memory at once. -/
theorem State.hostWrite_head {s : State} (h : s.isHead = true) (addr : Nat) (ws : List Word) :
    s.hostWrite addr ws = s.emit (.hostWrite addr (wordsBytes ws)) := if_pos h

theorem State.writeBig_only (s : State) (addr : Nat) (ws : List Word) : s.only (s.writeBig addr ws) [.ring, .out] := by
  unfold State.writeBig
  split
  · exact s.hostWrite_only addr ws
  · exact State.foldl_only _ (fun _ _ h => State.only_trans h (State.hostWrite_only _ _ _)) (State.only_refl _ _)

theorem State.dumpWrite_only (s : State) (off : Nat) (ws : List Word) : s.only (s.dumpWrite off ws) [.ring, .out] :=
  s.writeBig_only _ ws

theorem State.dumpWrite_head {s : State} (h : s.isHead = true) (off : Nat) (ws : List Word) :
    s.dumpWrite off ws = s.emit (.hostWrite (s.dumpBase + off) (wordsBytes ws)) := by
  unfold State.dumpWrite State.writeBig
  rw [if_pos h, State.hostWrite_head h]

/-! ### The sections -/

/-- A word of a register depends on what its fields show. -/
theorem State.regWord_congr {s t : State} {off : Nat} (h : ∀ f ∈ fieldsAt off, t.look f = s.look f) :
    t.regWord off = s.regWord off := by
  unfold State.regWord
  congr 1
  have hfold (l : List Fld) (a : Nat) (hl : ∀ f ∈ l, t.look f = s.look f) :
      l.foldl (fun a f => a + (t.look f % 2 ^ f.w) * 2 ^ f.lo) a = l.foldl (fun a f => a + (s.look f % 2 ^ f.w) * 2 ^ f.lo) a := by
    induction l generalizing a with
    | nil => rfl
    | cons f l ih =>
      rw [List.foldl_cons, List.foldl_cons, hl f List.mem_cons_self]
      exact ih _ (fun g hg => hl g (List.mem_cons_of_mem f hg))
  exact hfold _ 0 h

/-- The trace setup of a quad has no other home than the register file. -/
theorem State.view_traceSetup (s : State) {f : Fld} (hpage : f.off / 0x1000 = 9) (hlo : 0x100 ≤ f.off % 0x1000 % 0x400)
    (hhi : f.off % 0x1000 % 0x400 < 0x140) : s.view f.off f.lo = none := by
  unfold State.view State.viewQd
  rw [if_neg (by omega), if_pos hpage, if_neg (by omega), if_neg (by omega), if_neg (by omega), if_neg (by omega)]

theorem State.look_traceSetup {s t : State} {f : Fld} (hpage : f.off / 0x1000 = 9) (hlo : 0x100 ≤ f.off % 0x1000 % 0x400)
    (hhi : f.off % 0x1000 % 0x400 < 0x140) (hrd : t.rd f = s.rd f) (hwritten : t.written = s.written) : t.look f = s.look f := by
  have hnew : t.rdNew f = s.rdNew f := by
    unfold State.rdNew
    rw [hrd, hwritten]
  unfold State.look
  rw [t.view_traceSetup hpage hlo hhi, s.view_traceSetup hpage hlo hhi, hnew, hpage]
  simp

/-- The fields of the trace setup of every quad. -/
theorem traceSetup_places : ∀ q : Quad, ∀ i ∈ List.range 16, ∀ f ∈ fieldsAt (0x9100 + 0x400 * q.val + 4 * i),
    f.off / 0x1000 = 9 ∧ 0x100 ≤ f.off % 0x1000 % 0x400 ∧ f.off % 0x1000 % 0x400 < 0x140 := by
  decide +kernel

/-- What a dump is made of is the same in both: the fields of QD and those that the Burgee names, the ledgers, the traces. -/
structure SameDump (s t : State) : Prop where
  quads : ∀ f : Fld, f.off / 0x1000 = 9 → t.rd f = s.rd f
  lost : t.rd FLT_DUMPSTAT.TRACE_LOST = s.rd FLT_DUMPSTAT.TRACE_LOST
  written : t.written = s.written
  ch : t.ch = s.ch
  qd : t.qd = s.qd

theorem SameDump.dumpTrace {s t : State} (h : SameDump s t) (q : Quad) : t.dumpTrace q = s.dumpTrace q := by
  unfold State.dumpTrace State.image
  dsimp only
  rw [h.qd]
  congr 1
  refine List.map_congr_left (fun i hi => State.regWord_congr (fun f hf => ?_))
  obtain ⟨hpage, hlo, hhi⟩ := traceSetup_places q i hi f hf
  exact State.look_traceSetup hpage hlo hhi (h.quads f hpage) h.written

theorem SameDump.dumpSections {s t : State} (h : SameDump s t) (n : Snap) : t.dumpSections n = s.dumpSections n := by
  have hlost : t.traceLost = s.traceLost := by
    have hbit := h.lost
    unfold State.rd at hbit
    unfold State.traceLost State.rb
    rw [hbit]
  have hchan (c : Ch) : t.chan c = s.chan c := by
    unfold State.chan
    rw [h.ch]
  unfold State.dumpSections
  rw [hlost, funext h.dumpTrace, funext hchan]

/-- The dump's own state is not part of the dump. -/
theorem State.dumpStat_sameDump (s : State) (v : Nat) : SameDump s (s.wr FLT_DUMPSTAT.STATE v) where
  quads f hf := State.rd_wr_other s v (fun e => by
    have hkey : FLT_DUMPSTAT.STATE.key < 0x4000 * 32 := by decide
    unfold Fld.key at e hkey
    omega)
  lost := State.rd_wr_other s v (by decide)
  written := by simp
  ch := by simp
  qd := by simp

theorem SameDump.emit {s t : State} (h : SameDump s t) (o : Out) : SameDump s (t.emit o) := ⟨h.1, h.2, h.3, h.4, h.5⟩

end Sys2Proof.Machine
end


section
/-!
SUPPORT. The rows of the fatal dump (R694 to R703), clause by clause.
-/

namespace Sys2Proof.Machine

/-! ### SNAPSHOT_COMPLETE -/

/-- The fields that a completed snapshot writes. -/
def snapFields : List Fld :=
  [FLT_DUMPSTAT.SNAP_VALID, FLT_DUMPSTAT.REQ, FLT_DUMPSTAT.TRACE_LOST, FLT_DUMPSTAT.STATE, FLT_DUMPSEQ.DSEQ]

/-- The state with the snapshot complete. -/
def State.snapDone (s : State) : State :=
  let s : State := { s with flt := { s.flt with copying := false, chipDue := none } }
  let s := ((s.wr FLT_DUMPSTAT.SNAP_VALID 1).wr FLT_DUMPSTAT.REQ 1).wr FLT_DUMPSTAT.TRACE_LOST 0
  (s.wr FLT_DUMPSTAT.STATE 1).incWrap FLT_DUMPSEQ.DSEQ

theorem State.snapDone_rd (s : State) : s.snapDone.rd FLT_DUMPSTAT.SNAP_VALID = 1 ∧ s.snapDone.rd FLT_DUMPSTAT.REQ = 1 ∧
    s.snapDone.rd FLT_DUMPSTAT.STATE = 1 ∧
    s.snapDone.rd FLT_DUMPSEQ.DSEQ = (s.rd FLT_DUMPSEQ.DSEQ + 1) % 2 ^ FLT_DUMPSEQ.DSEQ.w := by
  unfold State.snapDone State.incWrap
  simp (disch := decide) only [State.rd_wr_other, State.rd_wr_same]
  exact ⟨rfl, rfl, rfl, rfl⟩

theorem State.snapDone_only (s : State) : s.only s.snapDone [.flt, .regs] :=
  State.only_iff.2 (by simp [State.snapDone, State.incWrap])

theorem State.snapDone_regsBut (s : State) : s.regsBut s.snapDone snapFields := by
  have hsame : s.regsBut { s with flt := { s.flt with copying := false, chipDue := none } } snapFields :=
    State.regsBut_of_regs rfl _
  have hreq := State.regsBut_wr (State.regsBut_wr hsame (f := FLT_DUMPSTAT.SNAP_VALID) (by simp [snapFields]) 1)
    (f := FLT_DUMPSTAT.REQ) (by simp [snapFields]) 1
  have hlost := State.regsBut_wr hreq (f := FLT_DUMPSTAT.TRACE_LOST) (by simp [snapFields]) 0
  exact State.regsBut_wr (State.regsBut_wr hlost (f := FLT_DUMPSTAT.STATE) (by simp [snapFields]) 1)
    (f := FLT_DUMPSEQ.DSEQ) (by simp [snapFields]) _

theorem exec_snapshotComplete {s : State} (h : s.flt.copying = true) : exec .snapshotComplete s =
    .next (match s.flt.chipDue with | some cause => s.snapDone.fullReset .chip cause 0 false | none => s.snapDone) :=
  if_neg (by simp [h])

theorem snapshotComplete_requests {s : State} (hcopy : s.flt.copying = true) (hdue : s.flt.chipDue = none) :
    s.ends .snapshotComplete (fun t => t.flt.copying = false ∧ t.rd FLT_DUMPSTAT.SNAP_VALID = 1 ∧
      t.rd FLT_DUMPSTAT.REQ = 1 ∧ t.rd FLT_DUMPSTAT.STATE = 1 ∧
      t.rd FLT_DUMPSEQ.DSEQ = (s.rd FLT_DUMPSEQ.DSEQ + 1) % 2 ^ FLT_DUMPSEQ.DSEQ.w ∧ s.only t [.flt, .regs] ∧
      s.regsBut t snapFields) := by
  have hexec := exec_snapshotComplete hcopy
  rw [hdue] at hexec
  refine ⟨s.snapDone, hexec, rfl, ?_, ?_, ?_, ?_, ?_, ?_⟩
  · exact s.snapDone_rd.1
  · exact s.snapDone_rd.2.1
  · exact s.snapDone_rd.2.2.1
  · exact s.snapDone_rd.2.2.2
  · exact s.snapDone_only
  · exact s.snapDone_regsBut

theorem snapshotComplete_resets {s : State} (hcopy : s.flt.copying = true) (hdue : s.flt.chipDue.isSome = true)
    (hheld : s.sys.held = none) : s.ends .snapshotComplete (fun t => t.sys.held = some .chip) := by
  obtain ⟨cause, hcause⟩ := Option.isSome_iff_exists.1 hdue
  have hexec := exec_snapshotComplete hcopy
  rw [hcause] at hexec
  have hfree : s.snapDone.sys.held = none := by rw [s.snapDone_only.2 .sys (by decide), hheld]
  exact ⟨_, hexec, (State.fullReset_spec _ .chip cause 0 false hfree (fun e => by cases e)).2.1⟩

/-! ### DUMP_START -/

/-- A bit reads alike where its field does. -/
theorem State.rb_of_rd {s t : State} {f : Fld} (h : t.rd f = s.rd f) : t.rb f = s.rb f := by
  show decide (t.rd f = 1) = decide (s.rd f = 1)
  rw [h]

/-- The role of a device does not depend on the dump's state. -/
theorem State.isHead_dumpStat (s : State) (v : Nat) : (s.wr FLT_DUMPSTAT.STATE v).isHead = s.isHead := by
  unfold State.isHead State.role
  rw [State.rd_wr_other s v (by decide)]

theorem State.dumpBase_dumpStat (s : State) (v : Nat) : (s.wr FLT_DUMPSTAT.STATE v).dumpBase = s.dumpBase := by
  unfold State.dumpBase
  rw [State.rd_wr_other s v (by decide), State.rd_wr_other s v (by decide)]

section
variable {s : State} {n : Snap} (hruns : s.agentRuns = true) (hcopy : s.flt.copying = false) (hsnap : s.flt.snap = some n)
  (hreq : s.rb FLT_DUMPSTAT.REQ = true) (hvalid : s.rb FLT_DUMPSTAT.SNAP_VALID = true)
  (hidle : s.rd FLT_DUMPSTAT.STATE ≠ 2) (hfail : s.rd FLT_DUMPSTAT.STATE ≠ 5)
include hruns hcopy hsnap hreq hvalid hidle hfail

/-- The agent starts: what it does where a dump may start. -/
theorem exec_dumpStart : exec .dumpStart s =
    if !s.flt.acked ∨ !s.dumpDest then .next (s.wr FLT_DUMPSTAT.STATE 4)
    else if s.rd FLT_DUMPLEN.LEN < s.dumpLen then
      .next (if s.flt.tooSmall then s.wr FLT_DUMPSTAT.STATE 4
        else { s.wr FLT_DUMPSTAT.STATE 4 with flt := { s.flt with tooSmall := true } }.dumpEvent 3)
    else
      let u := (s.wr FLT_DUMPSTAT.STATE 2).dumpWrite 0 (s.burgee n 0)
      .next (u.dumpWrite 64 (u.dumpSections n)) := by
  show execDumpStart s = _
  unfold execDumpStart
  rw [hsnap]
  dsimp only
  rw [if_neg (by simp [hruns, hreq, hvalid, hcopy, hidle, hfail])]
  rfl

theorem dumpStart_holds (h : s.flt.acked = false ∨ s.dumpDest = false) :
    s.ends .dumpStart (fun t => t.rd FLT_DUMPSTAT.STATE = 4 ∧ s.only t [.regs] ∧ s.regsBut t [FLT_DUMPSTAT.STATE]) := by
  have hexec := exec_dumpStart hruns hcopy hsnap hreq hvalid hidle hfail
  rw [if_pos (by simpa using h)] at hexec
  exact ⟨_, hexec, State.rd_wr_same _ _ _, State.wr_only (State.only_refl _ _) _ _ (by decide),
    State.regsBut_wr (State.regsBut_of_regs rfl _) (by simp) 4⟩

theorem dumpStart_small (hack : s.flt.acked = true) (hdest : s.dumpDest = true) (hlen : s.rd FLT_DUMPLEN.LEN < s.dumpLen) :
    s.ends .dumpStart (fun t => t.rd FLT_DUMPSTAT.STATE = 4 ∧ t.flt.tooSmall = true ∧ (s.flt.tooSmall = true → t.host = s.host) ∧
      s.only t [.regs, .flt, .host]) := by
  have hexec := exec_dumpStart hruns hcopy hsnap hreq hvalid hidle hfail
  rw [if_neg (by simp [hack, hdest]), if_pos hlen] at hexec
  refine ⟨_, hexec, ?_⟩
  cases hsmall : s.flt.tooSmall with
  | true =>
    exact ⟨State.rd_wr_same _ _ _, by simpa using hsmall, fun _ => by simp, State.wr_only (State.only_refl _ _) _ _ (by decide)⟩
  | false =>
    rw [if_neg (by simp)]
    unfold State.dumpEvent
    exact ⟨(State.event_rd _ _ _ _ _).trans (State.rd_wr_same s FLT_DUMPSTAT.STATE 4), by simp, nofun,
      State.only_iff.2 (by simp)⟩

theorem dumpStart_head (hack : s.flt.acked = true) (hdest : s.dumpDest = true) (hlen : s.dumpLen ≤ s.rd FLT_DUMPLEN.LEN)
    (hhead : s.isHead = true) :
    s.ends .dumpStart (fun t => t.rd FLT_DUMPSTAT.STATE = 2 ∧ t.out = .hostWrite (s.dumpBase + 64)
      (wordsBytes (s.dumpSections n)) :: .hostWrite s.dumpBase (wordsBytes (s.burgee n 0)) :: s.out ∧ s.only t [.regs, .out]) := by
  have hexec := exec_dumpStart hruns hcopy hsnap hreq hvalid hidle hfail
  rw [if_neg (by simp [hack, hdest]), if_neg (by omega)] at hexec
  have hhead1 : (s.wr FLT_DUMPSTAT.STATE 2).isHead = true := hhead ▸ State.isHead_dumpStat s 2
  have hbase : (s.wr FLT_DUMPSTAT.STATE 2).dumpBase = s.dumpBase := State.dumpBase_dumpStat s 2
  dsimp only at hexec
  have hsame : SameDump s ((s.wr FLT_DUMPSTAT.STATE 2).emit (.hostWrite s.dumpBase (wordsBytes (s.burgee n 0)))) :=
    (s.dumpStat_sameDump 2).emit _
  rw [State.dumpWrite_head hhead1, hbase, Nat.add_zero, hsame.dumpSections,
    State.dumpWrite_head (s := (s.wr FLT_DUMPSTAT.STATE 2).emit (.hostWrite s.dumpBase (wordsBytes (s.burgee n 0)))) hhead1] at hexec
  refine ⟨_, hexec, State.rd_wr_same s FLT_DUMPSTAT.STATE 2, ?_, State.only_iff.2 (by simp [State.emit])⟩
  show Out.hostWrite ((s.wr FLT_DUMPSTAT.STATE 2).dumpBase + 64) _ :: _ :: (s.wr FLT_DUMPSTAT.STATE 2).out = _
  rw [hbase, State.wr_out]

theorem dumpStart_member (hack : s.flt.acked = true) (hdest : s.dumpDest = true) (hlen : s.dumpLen ≤ s.rd FLT_DUMPLEN.LEN) :
    s.ends .dumpStart (fun t => t.rd FLT_DUMPSTAT.STATE = 2 ∧ t.flt = s.flt) := by
  have hexec := exec_dumpStart hruns hcopy hsnap hreq hvalid hidle hfail
  rw [if_neg (by simp [hack, hdest]), if_neg (by omega)] at hexec
  have honly := State.only_trans (State.dumpWrite_only (s.wr FLT_DUMPSTAT.STATE 2) 0 (s.burgee n 0))
    (State.dumpWrite_only _ 64 (((s.wr FLT_DUMPSTAT.STATE 2).dumpWrite 0 (s.burgee n 0)).dumpSections n))
  refine ⟨_, hexec, ?_, ?_⟩
  · exact (State.rd_of_regs (honly.2 .regs (by decide)) _).trans (State.rd_wr_same s _ _)
  · exact (honly.2 .flt (by decide)).trans (by simp)

end

/-! ### DUMP_FINISH -/

/-- The state with the dump written but for what frees its snapshot. -/
def State.dumpWritten (s : State) : State :=
  let s := s.dumpWrite 8 [wN (if s.traceLost then 2 else 1)]
  (s.dumpEvent (b2n s.traceLost)).irq 7

/-- The state with the snapshot freed. -/
def State.dumpFreed (s : State) : State :=
  let u := ((s.wr FLT_DUMPSTAT.REQ 0).wr FLT_DUMPSTAT.SNAP_VALID 0).wr FLT_DUMPSTAT.STATE 3
  { u with flt := { u.flt with acked := false, tooSmall := false } }

theorem State.dumpFreed_rd (s : State) : s.dumpFreed.rd FLT_DUMPSTAT.STATE = 3 ∧ s.dumpFreed.rd FLT_DUMPSTAT.REQ = 0 ∧
    s.dumpFreed.rd FLT_DUMPSTAT.SNAP_VALID = 0 := by
  have hregs : s.dumpFreed.regs =
      (((s.wr FLT_DUMPSTAT.REQ 0).wr FLT_DUMPSTAT.SNAP_VALID 0).wr FLT_DUMPSTAT.STATE 3).regs := rfl
  rw [State.rd_of_regs hregs, State.rd_of_regs hregs, State.rd_of_regs hregs]
  simp (disch := decide) only [State.rd_wr_other, State.rd_wr_same]
  exact ⟨rfl, rfl, rfl⟩

theorem State.dumpFreed_only (s : State) : s.only s.dumpFreed [.regs, .flt] :=
  State.only_iff.2 (by simp [State.dumpFreed])

/-- Vector 7 is caused. -/
theorem State.dumpWritten_pend (s : State) : (bget s.dumpWritten.host.msix 7).pend = true := by
  unfold State.dumpWritten State.irq
  dsimp only
  rw [bget_bupd_same]

theorem State.dumpWritten_only {s : State} (hhead : s.isHead = true) : s.only s.dumpWritten [.regs, .flt, .host, .out] := by
  unfold State.dumpWritten State.dumpEvent
  dsimp only
  rw [State.dumpWrite_head hhead]
  exact State.only_iff.2 (by simp [State.irq, State.emit])

section
variable {s : State} (hruns : s.agentRuns = true) (hstate : s.rd FLT_DUMPSTAT.STATE = 2)
include hruns hstate

theorem dumpFinish_fails : s.ends (.dumpFinish false) (fun t => t.rd FLT_DUMPSTAT.STATE = 5 ∧ t.flt = s.flt ∧
    s.only t [.regs, .host]) := by
  have hexec : exec (.dumpFinish false) s = .next ((s.wr FLT_DUMPSTAT.STATE 5).dumpEvent 2) := by
    show execDumpFinish false s = _
    unfold execDumpFinish
    exact (if_neg (by simp [hruns, hstate])).trans (if_pos rfl)
  refine ⟨_, hexec, ?_⟩
  unfold State.dumpEvent
  exact ⟨(State.event_rd _ _ _ _ _).trans (State.rd_wr_same s _ _), by simp, State.only_iff.2 (by simp)⟩

theorem exec_dumpFinish_ok (hout : s.ring.outq.any (fun f => decide (s.frCls f = .other)) = false)
    (hsent : s.ring.sent.any (fun o => decide (s.frCls o.frame = .other)) = false) :
    exec (.dumpFinish true) s = .next s.dumpWritten.dumpFreed := by
  show execDumpFinish true s = _
  unfold execDumpFinish
  dsimp only
  rw [if_neg (by simp [hruns, hstate, hout, hsent])]
  exact if_neg (by decide)

theorem dumpFinish_frees (hout : s.ring.outq.any (fun f => decide (s.frCls f = .other)) = false)
    (hsent : s.ring.sent.any (fun o => decide (s.frCls o.frame = .other)) = false) :
    s.ends (.dumpFinish true) (fun t => t.rd FLT_DUMPSTAT.STATE = 3 ∧ t.rd FLT_DUMPSTAT.REQ = 0 ∧
      t.rd FLT_DUMPSTAT.SNAP_VALID = 0 ∧ t.flt.acked = false ∧ (bget t.host.msix 7).pend = true ∧
      (s.isHead = true → s.only t [.regs, .flt, .host, .out])) := by
  have hexec := exec_dumpFinish_ok hruns hstate hout hsent
  obtain ⟨hst, hreq, hvalid⟩ := s.dumpWritten.dumpFreed_rd
  have honly := s.dumpWritten.dumpFreed_only
  have hpend := s.dumpWritten_pend
  rw [← honly.2 .host (by decide)] at hpend
  exact ⟨_, hexec, hst, hreq, hvalid, rfl, hpend,
    fun hhead => State.only_trans (State.dumpWritten_only hhead) (State.only_mono honly (by decide))⟩

end

theorem dumpFinish_other {s : State} (hstate : s.rd FLT_DUMPSTAT.STATE ≠ 2) (b : Bool) : exec (.dumpFinish b) s = .next s :=
  if_pos (.inr (.inl hstate))

end Sys2Proof.Machine
end

section
open Sys2Proof Sys2Proof.Machine

/-- Settles O60, clause by clause; the sections that a head writes do not depend on the dump's own state. -/
theorem dumpTakesItsCourse : Obligations.DumpTakesItsCourse := by
  unfold Obligations.DumpTakesItsCourse
  refine fun s => ⟨snapshotComplete_requests, snapshotComplete_resets, fun hruns hcopy => ⟨?_, ?_, dumpFinish_other⟩⟩
  · intro n hsnap hreq hvalid hidle hfail
    exact ⟨dumpStart_holds hruns hcopy hsnap hreq hvalid hidle hfail,
      dumpStart_small hruns hcopy hsnap hreq hvalid hidle hfail,
      dumpStart_head hruns hcopy hsnap hreq hvalid hidle hfail,
      fun hack hdest hlen _ => dumpStart_member hruns hcopy hsnap hreq hvalid hidle hfail hack hdest hlen⟩
  · exact fun hstate => ⟨dumpFinish_frees hruns hstate, dumpFinish_fails hruns hstate⟩

end


section
/-!
SUPPORT. Accepted writes of registers whose fields the register file holds and whose writes have no effect beside them (R16,
R749, R753).
-/

namespace Sys2Proof.Machine

/-! ### Values that wait -/

theorem RegFile.find_ins_same (r : RegFile) (f : Fld) (v : Nat) :
    ((r.ins f v).find? (fun e => decide (e.1.key = f.key))).map (·.2) = some v := by
  induction r with
  | nil => simp [RegFile.ins]
  | cons a t ih =>
    unfold RegFile.ins
    split
    · simp
    · split
      · simp
      · rename_i hne
        rw [List.find?_cons_of_neg (by simpa using fun h => hne h.symm), ih]

theorem RegFile.find_ins_other (r : RegFile) {f g : Fld} (v : Nat) (h : f.key ≠ g.key) :
    (r.ins f v).find? (fun e => decide (e.1.key = g.key)) = r.find? (fun e => decide (e.1.key = g.key)) := by
  induction r with
  | nil => simp [RegFile.ins, h]
  | cons a t ih =>
    unfold RegFile.ins
    split
    · simp [h]
    · split
      · rename_i heq
        have ha : a.1.key ≠ g.key := fun e => h (heq.trans e)
        simp [h, ha]
      · by_cases ha : a.1.key = g.key
        · simp [ha]
        · simp [ha, ih]

/-! ### A field takes its part of a word -/

/-- A field that a write reaches: it has no other home, and its access lets the device's host write it. -/
def State.takes (s : State) (f : Fld) : Prop := s.accOf f = .rw ∨ s.accOf f = .rwl ∨ s.accOf f = .rws

/-- What a write of a field makes of it: its value as written is `v`; where it waits, the one in force stays. -/
def Fld.written (f : Fld) (v : Nat) (s t : State) : Prop := t.rdNew f = v ∧ (waits f = true → t.rd f = s.rd f)

/-- From `s` to `t` only writes of the listed fields were made. -/
structure PutOnly (fs : List Fld) (s t : State) : Prop where
  only : s.only t [.regs, .written]
  regs : s.regsBut t fs
  wait : ∀ g : Fld, (∀ f ∈ fs, f.key ≠ g.key) →
    t.written.find? (fun e => decide (e.1.key = g.key)) = s.written.find? (fun e => decide (e.1.key = g.key))

theorem PutOnly.refl (fs : List Fld) (s : State) : PutOnly fs s s :=
  ⟨State.only_refl _ _, State.regsBut_of_regs rfl fs, fun _ _ => rfl⟩

theorem PutOnly.trans {fs : List Fld} {s t u : State} (h : PutOnly fs s t) (k : PutOnly fs t u) : PutOnly fs s u :=
  ⟨State.only_trans h.only k.only, State.regsBut_trans h.regs k.regs, fun g hg => (k.wait g hg).trans (h.wait g hg)⟩

theorem PutOnly.mono {fs gs : List Fld} {s t : State} (h : PutOnly fs s t) (k : fs ⊆ gs) : PutOnly gs s t :=
  ⟨h.only, State.regsBut_mono h.regs k, fun g hg => h.wait g (fun f hf => hg f (k hf))⟩

/-- A field that no write of the list reaches shows what it showed. -/
theorem PutOnly.rdNew {fs : List Fld} {s t : State} (h : PutOnly fs s t) {g : Fld} (hg : ∀ f ∈ fs, f.key ≠ g.key) :
    t.rdNew g = s.rdNew g := by
  unfold State.rdNew
  rw [h.wait g hg, h.regs g hg]

/-- The access of a field depends on the role and the grade of the device. -/
theorem PutOnly.accOf {fs : List Fld} {s t : State} (h : PutOnly fs s t) (hrole : ∀ f ∈ fs, f.key ≠ SYS_STRAP.ROLE.key)
    (g : Fld) : t.accOf g = s.accOf g := by
  unfold State.accOf State.isHead State.role
  rw [h.regs _ hrole, h.only.2 .sec (by decide)]

theorem State.wr_putOnly (s : State) (f : Fld) (v : Nat) : PutOnly [f] s (s.wr f v) :=
  ⟨State.wr_only (State.only_refl _ _) f v (by decide), State.regsBut_wr (State.regsBut_of_regs rfl _) (by simp) v,
    fun _ _ => by simp⟩

theorem State.wrLate_putOnly (s : State) (f : Fld) (v : Nat) : PutOnly [f] s (s.wrLate f v) := by
  unfold State.wrLate
  dsimp only
  split
  · exact ⟨State.only_iff.2 (by simp), State.regsBut_of_regs rfl _,
      fun g hg => RegFile.find_ins_other _ _ (hg f (by simp))⟩
  · split
    · refine ⟨State.only_iff.2 (by simp), State.regsBut_wr (State.regsBut_of_regs rfl _) (by simp) v, fun g hg => ?_⟩
      have hne : g.key ≠ f.key := fun e => hg f (by simp) e.symm
      rw [State.wr_written]
      induction s.written with
      | nil => rfl
      | cons a l ih =>
        by_cases ha : a.1.key = f.key
        · rw [List.filter_cons_of_neg (by simpa using ha), List.find?_cons_of_neg (by simpa [ha] using hne.symm), ih]
        · rw [List.filter_cons_of_pos (by simpa using ha)]
          by_cases hag : a.1.key = g.key
          · simp [hag]
          · simp only [List.find?_cons, hag, decide_false]
            exact ih
    · exact s.wr_putOnly f v

theorem State.putField_putOnly (s : State) (val : Word) (f : Fld) : PutOnly [f] s (s.putField val f) := by
  unfold State.putField
  dsimp only
  split
  · exact .refl _ _
  · split
    · exact s.wrLate_putOnly f _
    · exact s.wrLate_putOnly f _
    · exact s.wrLate_putOnly f _
    · exact s.wr_putOnly f _
    · exact .refl _ _
    · exact .refl _ _

/-- A field that waits for nothing, or for a boundary, takes a value that fits it. -/
theorem State.wrLate_written (s : State) {f : Fld} {v : Nat} (hv : v < 2 ^ f.w)
    (hstep : lateStep (Fin.ofNat 16 (f.off % 0x1000 / 0x100)) f = false) : f.written v s (s.wrLate f v) := by
  have hlate : s.wrLate f v = if waits f then { s with written := s.written.ins f (v % 2 ^ f.w) } else s.wr f v := by
    unfold State.wrLate waits
    simp only [hstep, Bool.false_and, Bool.or_false, Bool.false_eq_true, if_false]
  rw [hlate]
  unfold Fld.written State.rdNew
  cases waits f with
  | true =>
    refine ⟨?_, fun _ => rfl⟩
    show (Option.map (·.2) (List.find? _ (RegFile.ins s.written f (v % 2 ^ f.w)))).getD _ = v
    rw [RegFile.find_ins_same, Nat.mod_eq_of_lt hv]
    rfl
  | false =>
    refine ⟨?_, nofun⟩
    show (s.wr f v).rd f = v
    rw [State.rd_wr_same, Nat.mod_eq_of_lt hv]

theorem State.putField_written (s : State) (val : Word) {f : Fld} (hview : s.view f.off f.lo = none) (htakes : s.takes f)
    (hstep : lateStep (Fin.ofNat 16 (f.off % 0x1000 / 0x100)) f = false) :
    f.written (bitsN val.toNat f.lo f.w) s (s.putField val f) := by
  have hput : s.putField val f = s.wrLate f (bitsN val.toNat f.lo f.w) := by
    unfold State.putField
    dsimp only
    rw [if_neg (by rw [hview]; decide)]
    rcases htakes with h | h | h <;> rw [h]
  rw [hput]
  exact s.wrLate_written (Nat.mod_lt _ (Nat.two_pow_pos _)) hstep

/-! ### A word -/

/-- The fields of a word take their parts. -/
def State.putFields (s : State) (val : Word) (fs : List Fld) : State := fs.foldl (fun t f => t.putField val f) s

theorem State.putFields_putOnly (s : State) (val : Word) (fs : List Fld) : PutOnly fs s (s.putFields val fs) := by
  induction fs generalizing s with
  | nil => exact .refl _ _
  | cons f fs ih =>
    exact ((s.putField_putOnly val f).mono (by simp)).trans ((ih (s.putField val f)).mono (by simp))

/-- Fields of different places that the register file holds, none of them the role, take their parts of a word. -/
theorem State.putFields_written (s : State) (val : Word) {fs : List Fld} (hkeys : fs.Pairwise (fun f g => f.key ≠ g.key))
    (hrole : ∀ f ∈ fs, f.key ≠ SYS_STRAP.ROLE.key) (hview : ∀ f ∈ fs, ∀ t : State, t.view f.off f.lo = none)
    (hstep : ∀ f ∈ fs, lateStep (Fin.ofNat 16 (f.off % 0x1000 / 0x100)) f = false) {f : Fld} (hf : f ∈ fs) (htakes : s.takes f) :
    f.written (bitsN val.toNat f.lo f.w) s (s.putFields val fs) := by
  induction fs generalizing s with
  | nil => cases hf
  | cons g fs ih =>
    obtain ⟨hg, hrest⟩ := List.pairwise_cons.1 hkeys
    have hone := s.putField_putOnly val g
    rcases List.mem_cons.1 hf with rfl | hmem
    · obtain ⟨hnew, hold⟩ := s.putField_written val (hview f hf s) htakes (hstep f hf)
      have hleft := (s.putField val f).putFields_putOnly val fs
      have hother : ∀ k ∈ fs, k.key ≠ f.key := fun k hk => (hg k hk).symm
      exact ⟨(hleft.rdNew hother).trans hnew, fun hw => (hleft.regs f hother).trans (hold hw)⟩
    · have hne : ∀ k ∈ [g], k.key ≠ f.key := fun k hk => by
        rw [List.mem_singleton.1 hk]
        exact hg f hmem
      have hacc : (s.putField val g).takes f := by
        unfold State.takes
        rw [hone.accOf (fun k hk => by rw [List.mem_singleton.1 hk]; exact hrole g List.mem_cons_self)]
        exact htakes
      obtain ⟨hnew, hold⟩ := ih (s.putField val g) hrest (fun k hk => hrole k (List.mem_cons_of_mem _ hk))
        (fun k hk => hview k (List.mem_cons_of_mem _ hk)) (fun k hk => hstep k (List.mem_cons_of_mem _ hk)) hmem hacc
      exact ⟨hnew, fun hw => (hold hw).trans (hone.regs f hne)⟩

end Sys2Proof.Machine
end


section
/-!
SUPPORT. Accesses to BAR0 and the TAP (R741 to R751, R760, R736), clause by clause.
-/

namespace Sys2Proof.Machine

/-! ### Writes -/

theorem exec_registerWrite {s : State} (p : Path) {off : Half} (w : Word) (halign : off.toNat % 4 = 0) (hidle : s.idle = false)
    (hfree : s.blockHeld off.toNat = false) :
    exec (.registerWrite p off [w]) s = .next (s.regPut p off.toNat w none).1 := by
  have hok : accessOk off.toNat (4 * [w].length) true = true := by
    unfold accessOk
    simp [halign]
  show Host.Outcome.next (if _ then _ else _) = _
  rw [if_pos hok]
  unfold State.putWords
  rw [if_neg (by simp [hfree])]
  rfl

/-- A refused write. -/
theorem State.regPut_refused {s : State} (p : Path) {off : Nat} {w : Word} (m : Option (Option Manifest))
    (hresponds : s.responds off = true) (hcode : s.refuseCode off w ≠ 0) :
    (s.regPut p off w m).1 = s.writeErr p off (s.refuseCode off w) := by
  unfold State.regPut
  rw [if_neg (by simp [hresponds])]
  dsimp only
  rw [if_pos hcode]

/-- An accepted write: its fields take their parts, then its effects follow. -/
theorem State.regPut_accepted {s : State} (p : Path) {off : Nat} {w : Word} (m : Option (Option Manifest))
    (hresponds : s.responds off = true) (hcode : s.refuseCode off w = 0) :
    (s.regPut p off w m).1 =
      (((s.putFields w (fieldsAt off)).writeFx1 s off w).writeFx2 s off w m).writeFx3 s off w := by
  unfold State.regPut
  rw [if_neg (by simp [hresponds])]
  dsimp only
  rw [if_neg (by simp [hcode])]
  rfl

/-- The codes of a refusal (R750) fit their field. -/
theorem State.refuseCode_lt (s : State) (off : Nat) (w : Word) : s.refuseCode off w < 16 := by
  have h1 : s.homeCode1 off w < 16 := by
    unfold State.homeCode1 wRANGE wBUSY wADMISSION
    dsimp only
    repeat' split
    all_goals omega
  have h2 : s.homeCode2 off w < 16 := by
    unfold State.homeCode2 wRANGE wBUSY
    dsimp only
    repeat' split
    all_goals omega
  have h3 : s.homeCode3 off w < 16 := by
    unfold State.homeCode3 wRANGE wBUSY wPERM
    dsimp only
    repeat' split
    all_goals omega
  unfold State.refuseCode wLOCKED wSERVICE wRANGE
  dsimp only
  repeat' split
  all_goals omega

theorem registerWrite_refused {s : State} (p : Path) {off : Half} {w : Word} (halign : off.toNat % 4 = 0)
    (hidle : s.idle = false) (hresponds : s.responds off.toNat = true) (hfree : s.blockHeld off.toNat = false)
    (hcode : s.refuseCode off.toNat w ≠ 0) :
    s.ends (.registerWrite p off [w]) (fun t => t.rd SYS_WERR.OFFSET = off.toNat ∧
        t.rd SYS_WERR.CODE = s.refuseCode off.toNat w ∧ t.rd SYS_WERR.PATH = pathCode p ∧
        t.rd SYS_WERR.COUNT = satU SYS_WERR.COUNT.w (s.rd SYS_WERR.COUNT + 1) ∧ s.only t [.regs] ∧
        s.regsBut t [SYS_WERR.OFFSET, SYS_WERR.CODE, SYS_WERR.PATH, SYS_WERR.COUNT]) := by
  have hexec := exec_registerWrite p w halign hidle hfree
  rw [State.regPut_refused p none hresponds hcode] at hexec
  refine ⟨_, hexec, ?_⟩
  have hoff : off.toNat < 2 ^ 16 := off.isLt
  have hpath : pathCode p < 4 := by cases p <;> decide
  have hlt := s.refuseCode_lt off.toNat w
  generalize s.refuseCode off.toNat w = code at hlt
  unfold State.writeErr State.incSat
  simp (disch := decide) only [State.rd_wr_other, State.rd_wr_same]
  refine ⟨Nat.mod_eq_of_lt hoff, Nat.mod_eq_of_lt hlt, Nat.mod_eq_of_lt hpath, satU_mod _ _, ?_, ?_⟩
  · exact State.only_iff.2 (by simp)
  · have hsame := State.regsBut_of_regs (s := s) (t := s) rfl [SYS_WERR.OFFSET, SYS_WERR.CODE, SYS_WERR.PATH, SYS_WERR.COUNT]
    have hone := State.regsBut_wr (State.regsBut_wr hsame (f := SYS_WERR.OFFSET) (by simp) off.toNat) (f := SYS_WERR.CODE)
      (by simp) code
    exact State.regsBut_wr (State.regsBut_wr hone (f := SYS_WERR.PATH) (by simp) (pathCode p)) (f := SYS_WERR.COUNT) (by simp) _

/-- The plain registers that the statement names. -/
def plainOffs : List Nat := [0x1020, 0x2008, 0x3068, 0x4044, 0x50c4, 0x50c8, 0x6024, 0x6038, 0x603c, 0x6048, 0x8048]

theorem plain_keys : ∀ off ∈ plainOffs, (fieldsAt off).Pairwise (fun f g => f.key ≠ g.key) ∧
    (∀ f ∈ fieldsAt off, f.key ≠ SYS_STRAP.ROLE.key) ∧
    ∀ f ∈ fieldsAt off, lateStep (Fin.ofNat 16 (f.off % 0x1000 / 0x100)) f = false := by decide +kernel

theorem plain_view (t : State) : ∀ off ∈ plainOffs, ∀ f ∈ fieldsAt off, t.view f.off f.lo = none := by
  intro off hoff
  have hnone : (fieldsAt off).all (fun f => (t.view f.off f.lo).isNone) = true := by
    fin_cases hoff <;> rfl
  exact fun f hf => Option.isNone_iff_eq_none.1 (List.all_eq_true.1 hnone f hf)

theorem plain_fx (s t : State) (w : Word) (m : Option (Option Manifest)) : ∀ off ∈ plainOffs,
    ((t.writeFx1 s off w).writeFx2 s off w m).writeFx3 s off w = t := by
  intro off hoff
  fin_cases hoff <;> rfl

theorem registerWrite_plain {s : State} (p : Path) {off : Half} {w : Word} (halign : off.toNat % 4 = 0)
    (hidle : s.idle = false) (haccept : s.accepts off.toNat w) (hplain : off.toNat ∈ plainOffs) :
    s.ends (.registerWrite p off [w]) (fun t => s.only t [.regs, .written] ∧ s.regsBut t (fieldsAt off.toNat) ∧
        ∀ f ∈ fieldsAt off.toNat, s.accOf f = .rw ∨ s.accOf f = .rwl → t.rdNew f = bitsN w.toNat f.lo f.w ∧
          (waits f = true → t.rd f = s.rd f)) := by
  obtain ⟨hresponds, hfree, hcode⟩ := haccept
  have hexec := exec_registerWrite p w halign hidle hfree
  rw [State.regPut_accepted p none hresponds hcode, plain_fx _ _ _ _ _ hplain] at hexec
  have hput := s.putFields_putOnly w (fieldsAt off.toNat)
  obtain ⟨hkeys, hrole, hstep⟩ := plain_keys _ hplain
  exact ⟨_, hexec, hput.only, hput.regs, fun f hf hacc => s.putFields_written w hkeys hrole
    (fun g hg t => plain_view t _ hplain g hg) hstep hf (hacc.imp_right .inl)⟩

/-! ### Other accesses -/

theorem unsupportedAccess_answers {s : State} (p : Path) {off : Half} {n : Nat} {b : Bool} (hidle : s.idle = false)
    (hbad : accessOk off.toNat n b = false) : s.ends (.unsupportedAccess p off n b) (fun t =>
      t.out = .unsupported :: s.out ∧ t.host.aerUr = true ∧ s.only t [.host, .out]) := by
  refine ⟨({ s with host := { s.host with aerUr := true } } : State).emit .unsupported, ?_, rfl, rfl,
    State.only_iff.2 (by simp [State.emit])⟩
  show Host.Outcome.next (if pathOk p off.toNat n b then s else s.unsupported) = _
  unfold pathOk State.unsupported
  rw [hbad, Bool.false_and, if_neg Bool.false_ne_true, if_neg (by rw [hidle]; exact Bool.false_ne_true)]

/-- What a read does beside its answer changes the register file and the latched words. -/
theorem State.readFx_only (s : State) (off : Nat) : s.only (s.readFx off) [.regs, .host] := by
  have hlatch : s.only (s.latchHigh off) [.regs, .host] := by
    unfold State.latchHigh
    dsimp only
    repeat' split
    all_goals exact State.only_iff.2 (by simp)
  unfold State.readFx
  dsimp only
  repeat' split
  all_goals exact State.only_trans hlatch (State.only_iff.2 (by simp [State.incWrap, State.rdTrdata, State.rdDdata]))

/-- A read of a register that is free and not latched. -/
theorem exec_latchingLowRead {s : State} (p : Path) {off : Half} (halign : off.toNat % 4 = 0) (hidle : s.idle = false)
    (hresponds : s.responds off.toNat = true) (hfree : s.blockHeld off.toNat = false)
    (hlatch : s.host.latches.lookup off.toNat = none) :
    exec (.latchingLowRead p off) s = .next ((s.readFx off.toNat).emit (.answer [s.regWord off.toNat])) := by
  show Host.Outcome.next (s.answerRead (off.toNat - off.toNat % 4) 1) = _
  rw [halign, Nat.sub_zero]
  unfold State.answerRead
  rw [if_neg (by rw [hidle]; exact Bool.false_ne_true), if_neg (by simp [hfree])]
  unfold State.getWords State.getWords State.regGet
  dsimp only
  rw [Nat.mul_zero, Nat.add_zero, if_neg (by simp [hresponds]), hlatch]
  rfl

theorem latchingLowRead_answers {s : State} (p : Path) {off : Half} (halign : off.toNat % 4 = 0) (hidle : s.idle = false)
    (hresponds : s.responds off.toNat = true) (hfree : s.blockHeld off.toNat = false)
    (hlatch : s.host.latches.lookup off.toNat = none) :
    s.ends (.latchingLowRead p off) (fun t => t.out = .answer [s.regWord off.toNat] :: s.out ∧
        (off.toNat = 0x38 → t.rd SYS_TICKH.TICK_HI = s.now / 2 ^ 32 % 2 ^ SYS_TICKH.TICK_HI.w)) := by
  refine ⟨_, exec_latchingLowRead p halign hidle hresponds hfree hlatch, ?_, fun hoff => ?_⟩
  · exact congrArg (List.cons _) ((s.readFx_only off.toNat).2 .out (by decide))
  · rw [hoff]
    exact State.rd_wr_same s SYS_TICKH.TICK_HI _

/-! ### The TAP -/

/-- The fields of `DBG_CTL`. -/
theorem dbgCtl_keys : (fieldsAt 0xB000).Pairwise (fun f g => f.key ≠ g.key) ∧
    (∀ f ∈ fieldsAt 0xB000, f.key ≠ SYS_STRAP.ROLE.key) ∧
    (∀ f ∈ fieldsAt 0xB000, lateStep (Fin.ofNat 16 (f.off % 0x1000 / 0x100)) f = false) ∧
    [DBG_CTL.HALT_SEQ, DBG_CTL.HALT_MOT, DBG_CTL.HALT_SAF] ⊆ fieldsAt 0xB000 := by decide +kernel

/-- The effects of a write of `DBG_CTL` leave `DBG_CTL` as it was written. -/
theorem State.fxDebug_rd {s : State} (old : State) (hq : s.quiet 81) {f : Fld} (hpage : f.reacts = false)
    (hhalted : DBG_STAT.HALTED.key ≠ f.key) (hstep : DBG_STAT.STEPPING.key ≠ f.key) (hun : DBG_STAT.UNCHECKED.key ≠ f.key) :
    (s.fxDebug old).rd f = s.rd f := by
  unfold State.fxDebug
  extract_lets le saf halted stepping raised stopped
  have hstepping : stepping.rd f = s.rd f := (State.rd_wr_other _ _ hstep).trans (State.rd_wr_other s _ hhalted)
  have hraised : raised.rd f = s.rd f := by
    show (if saf || decide (le ≠ 0) then ((stepping.wr SAF_STAT.DBG_UNCHECKED 1).wr DBG_STAT.UNCHECKED 1).raiseDev 81
      else stepping).rd f = _
    split
    · have hact := Reacted.raiseAs (.refl ((stepping.wr SAF_STAT.DBG_UNCHECKED 1).wr DBG_STAT.UNCHECKED 1)) 81 0 (srcCause 81)
        (by unfold State.quiet State.src at hq ⊢; simpa [stepping, halted] using hq)
      have hflag : (stepping.wr SAF_STAT.DBG_UNCHECKED 1).rd f = stepping.rd f :=
        ((Reacted.refl stepping).wr SAF_STAT.DBG_UNCHECKED 1 (by decide)).regs f hpage
      exact (hact.regs f hpage).trans ((State.rd_wr_other _ _ hun).trans (hflag.trans hstepping))
    · exact hstepping
  have hstopped : Reacted raised stopped :=
    .foldl _ (fun _ q h => .ite (.foldl _ (fun _ c k => k.gatesOff c) h) h) (.refl _)
  have hopened : Reacted raised (stopped.forCh allCh State.protOpen).motGatesOff :=
    .motGatesOff (.foldl _ (fun _ c k => k.protOpen c) hstopped)
  exact ((Reacted.ite hopened hstopped).regs f hpage).trans hraised

theorem tap_dbgCtl {s : State} {w : Word} (hidle : s.idle = false) (hperm : bitN (s.rd SEC_DBG.PERM) 0 = true)
    (hcode : s.refuseCode 0xB000 w = 0) (hq : s.quiet 81) :
    s.ends (.debugTransportAccess (.dbgCtl w)) (fun t => t.rd DBG_CTL.HALT_SEQ = w.toNat % 2 ∧
        t.rd DBG_CTL.HALT_MOT = w.toNat / 2 % 2 ∧ t.rd DBG_CTL.HALT_SAF = w.toNat / 4 % 2) := by
  have hexec : exec (.debugTransportAccess (.dbgCtl w)) s = .next ((s.putFields w (fieldsAt 0xB000)).fxDebug s) := by
    show execDebugTransportAccess (.dbgCtl w) s = _
    unfold execDebugTransportAccess
    dsimp only
    rw [if_pos ⟨by simp [hidle], hperm⟩, if_neg (by simp [hcode])]
    rfl
  obtain ⟨hkeys, hrole, hstep, hmem⟩ := dbgCtl_keys
  have hput := s.putFields_putOnly w (fieldsAt 0xB000)
  have hquiet : (s.putFields w (fieldsAt 0xB000)).quiet 81 := by
    have hflt := hput.only.2 .flt (by decide)
    unfold State.quiet State.src
    rw [hflt]
    exact hq
  have hview : ∀ f ∈ fieldsAt 0xB000, ∀ t : State, t.view f.off f.lo = none := by
    intro f hf t
    have hnone : (fieldsAt 0xB000).all (fun f => (t.view f.off f.lo).isNone) = true := rfl
    exact Option.isNone_iff_eq_none.1 (List.all_eq_true.1 hnone f hf)
  have hread {f : Fld} (hf : f ∈ [DBG_CTL.HALT_SEQ, DBG_CTL.HALT_MOT, DBG_CTL.HALT_SAF]) (hacc : s.takes f)
      (hpage : f.reacts = false) (hwait : waits f = false) (h1 : DBG_STAT.HALTED.key ≠ f.key)
      (h2 : DBG_STAT.STEPPING.key ≠ f.key) (h3 : DBG_STAT.UNCHECKED.key ≠ f.key) :
      ((s.putFields w (fieldsAt 0xB000)).fxDebug s).rd f = bitsN w.toNat f.lo f.w := by
    have hnew := (s.putFields_written w hkeys hrole hview hstep (hmem hf) hacc).1
    unfold State.rdNew at hnew
    rw [if_neg (by rw [hwait]; exact Bool.false_ne_true)] at hnew
    rw [State.fxDebug_rd s hquiet hpage h1 h2 h3, hnew]
  have hacc (f : Fld) (hf : f ∈ [DBG_CTL.HALT_SEQ, DBG_CTL.HALT_MOT, DBG_CTL.HALT_SAF]) : s.takes f := by
    have hplain : headOnly f.off = false ∧ f.key ≠ SYS_TICK.PERIOD.key ∧ ¬ f.off < 0xA120 ∧ f.off ≠ 0x5014 ∧ f.acc = .rws := by
      revert f
      decide
    obtain ⟨hhead, hper, hoff, href, hrws⟩ := hplain
    right; right
    unfold State.accOf
    rw [hhead, hrws]
    simp [hper, hoff, href]
  refine ⟨_, hexec, ?_, ?_, ?_⟩
  · rw [hread (by simp) (hacc _ (by simp)) (by decide) (by decide) (by decide) (by decide) (by decide)]
    exact congrArg (· % 2) (Nat.div_one _)
  · exact hread (by simp) (hacc _ (by simp)) (by decide) (by decide) (by decide) (by decide) (by decide)
  · exact hread (by simp) (hacc _ (by simp)) (by decide) (by decide) (by decide) (by decide) (by decide)

theorem tap_dbgCtl_barred {s : State} (w : Word) (hperm : bitN (s.rd SEC_DBG.PERM) 0 = false) :
    exec (.debugTransportAccess (.dbgCtl w)) s = .next s :=
  if_neg (fun h => by
    rw [hperm] at h
    exact Bool.noConfusion h.2)

end Sys2Proof.Machine
end

section
open Sys2Proof Sys2Proof.Machine

/-- Settles O56, clause by clause: what a write of a word makes of its fields is one lemma for the plain registers and for
`DBG_CTL`. -/
theorem registerAccesses : Obligations.RegisterAccesses := by
  unfold Obligations.RegisterAccesses
  intro s p off w hidle halign
  exact ⟨registerWrite_refused p halign hidle, registerWrite_plain p halign hidle,
    fun _ _ => unsupportedAccess_answers p hidle, latchingLowRead_answers p halign hidle,
    ⟨_, rfl, rfl, State.only_iff.2 (by simp [State.emit])⟩, rfl, tap_dbgCtl hidle, tap_dbgCtl_barred w⟩

end


section
/-!
SUPPORT. What a raise whose reaction resets nothing does to MOT: at most it takes the torque away (R81, R600, R673).
-/

namespace Sys2Proof.Machine

/-- MOT and its registers are the same in both. -/
structure MotSame (s t : State) : Prop where
  mot : t.mot = s.mot
  regs : ∀ f : Fld, f.page = 6 → t.rd f = s.rd f

namespace MotSame

variable {s t u : State}

theorem refl (s : State) : MotSame s s := ⟨rfl, fun _ _ => rfl⟩

theorem trans (h : MotSame s t) (k : MotSame t u) : MotSame s u :=
  ⟨k.mot.trans h.mot, fun f hf => (k.regs f hf).trans (h.regs f hf)⟩

theorem ite {p : Prop} [Decidable p] (h : MotSame s t) (k : MotSame s u) : MotSame s (if p then t else u) := by
  split
  · exact h
  · exact k

theorem foldl {α : Type} {f : State → α → State} (l : List α) (k : ∀ t a, MotSame s t → MotSame s (f t a)) (h : MotSame s t) :
    MotSame s (l.foldl f t) := by
  induction l generalizing t with
  | nil => exact h
  | cons a l ih => exact ih (k t a h)

theorem same (h : MotSame s t) (hm : u.mot = t.mot) (hr : u.regs = t.regs) : MotSame s u :=
  h.trans ⟨hm, fun f _ => State.rd_of_regs hr f⟩

theorem withSaf (h : MotSame s t) (x : SafS) : MotSame s { t with saf := x } := h.same rfl rfl

theorem of_only (h : MotSame s t) {ps : List Part} (k : t.only u ps) (hm : .mot ∉ ps) (hr : .regs ∉ ps) : MotSame s u :=
  h.same (k.2 .mot hm) (k.2 .regs hr)

theorem wr (h : MotSame s t) (f : Fld) (v : Nat) (hf : f.page ≠ 6) : MotSame s (t.wr f v) :=
  h.trans ⟨rfl, fun g hg => State.rd_wr_other t v (fun e => hf (by rw [← hg]; unfold Fld.page; rw [e]))⟩

theorem reported (h : MotSame s t) (k : Reported t u) : MotSame s u :=
  h.trans ⟨k.only.2 .mot (by decide), fun f hf => k.regs f (by omega) (by omega)⟩

theorem enterHold (h : MotSame s t) (c : Ch) (why : Nat) : MotSame s (t.enterHold c why) :=
  h.of_only (State.enterHold_only (State.only_refl t _) c why) (by decide) (by decide)

theorem protOpen (h : MotSame s t) (c : Ch) : MotSame s (t.protOpen c) := h.of_only (t.protOpen_only c) (by decide) (by decide)

theorem failStep (h : MotSame s t) (c : Ch) (reason detail : Nat) : MotSame s (t.failStep c reason detail) :=
  h.of_only (t.failStep_ch_only c reason detail) (by decide) (by decide)

theorem abandon (h : MotSame s t) (status : Nat) : MotSame s (t.abandon status) :=
  h.of_only (t.abandon_only status) (by decide) (by decide)

theorem safeChannels (h : MotSame s t) : MotSame s t.safeChannels := by
  have hmeas : ∀ c : Ch, (CH_ISO.MEAS_CLOSE c).page ≠ 6 := by decide
  exact .foldl _ (fun _ c k => .wr (.protOpen (.ite (k.failStep c _ _) (k.failStep c _ _)) c) _ _ (hmeas c)) h

theorem kdrLow (h : MotSame s t) : MotSame s t.kdrLow := by
  unfold State.kdrLow
  exact .ite ((h.withSaf _).wr SAF_KSTAT.STATE 3 (by decide)) (h.withSaf _)

theorem latchLow (h : MotSame s t) (x : SafeCause) : MotSame s (t.latchLow x) := by
  refine MotSame.same (t := t.latchCause x) ?_ rfl rfl
  unfold State.latchCause
  extract_lets set latched saf void
  have hset : MotSame s set := (h.wr SAF_STAT.LATCH _ (by decide)).wr SAF_CAUSE.FIRST _ (by decide)
  have hlatched : MotSame s latched := by
    refine .ite h ?_
    split <;> exact hset.wr SAF_CAUSE.POS _ (by decide)
  have hvoid : MotSame s void := hlatched.same rfl rfl
  have hbit {v : State} (hv : MotSame s v) (f : Fld) (hf : f.page ≠ 6) (i : Nat) : MotSame s (v.setFBit f i) := hv.wr f _ hf
  cases x with
  | sf n => exact hbit (hvoid.withSaf _) SAF_CAUSEV.SF (by decide) _
  | ringWdog r => cases r <;> exact hbit hvoid SAF_CAUSEV.OTHER (by decide) _
  | _ => exact hbit hvoid SAF_CAUSEV.OTHER (by decide) _

end MotSame

/-- What holds of a state through every change beside MOT, and through the end of its torque, holds through safe-state
requests. -/
structure TorqueKept (P : State → Prop) : Prop where
  same : ∀ s t : State, MotSame s t → P s → P t
  torque : ∀ s : State, P s → P s.motTorqueOff

namespace TorqueKept

variable {P : State → Prop} (k : TorqueKept P) {s : State}
include k

theorem goSafe (h : P s) (atOnce : Bool) : P (s.goSafe atOnce) := by
  have hoff : P (s.abandon 4).safeChannels.motTorqueOff := k.torque _ (k.same _ _ ((MotSame.refl s).abandon 4).safeChannels h)
  unfold State.goSafe
  extract_lets traced errn sys going dumped saf
  have htraced : MotSame (s.abandon 4).safeChannels.motTorqueOff traced := (MotSame.refl _).reported (.traceAll (.refl _) 7)
  clear_value traced
  have herrn : MotSame (s.abandon 4).safeChannels.motTorqueOff errn := htraced.reported (.errPull (.refl traced))
  clear_value errn
  have hgoing : MotSame (s.abandon 4).safeChannels.motTorqueOff going := herrn.same rfl rfl
  clear_value going
  have hdumped : MotSame (s.abandon 4).safeChannels.motTorqueOff dumped :=
    .ite (hgoing.reported (.dumpTrigger (.refl _) _ _)) hgoing
  clear_value dumped
  exact k.same _ _ (.ite hdumped.kdrLow (.ite (hdumped.same rfl rfl) hdumped)) hoff

theorem safeReq (h : P s) (x : SafeCause) (atOnce : Bool) : P (s.safeReq x atOnce) := by
  have hlow := (MotSame.refl s).latchLow x
  by_cases hd : s.driven
  · rw [State.safeReq_driven s x atOnce hd]
    split
    · exact k.same _ _ (.ite hlow.kdrLow hlow) h
    · exact k.goSafe (k.same _ _ hlow h) atOnce
  · rw [State.safeReq_aside s x atOnce hd]
    exact k.same _ _ (.ite hlow (.ite (hlow.abandon 4).kdrLow (hlow.abandon 4))) h

/-- And through a raise whose reaction resets nothing. -/
theorem raiseAs (h : P s) (n : Src) (c : Ch) (x : SafeCause) (hq : s.quiet n) : P (s.raiseAs n c x) := by
  have hmark (f : SrcS → SrcS) : P (s.updSrc n f) := k.same s _ ⟨rfl, fun _ _ => rfl⟩ h
  cases hlisted : srcListed n.val with
  | false =>
    rw [State.raiseAs_unlisted s n c x hlisted]
    exact hmark _
  | true =>
    by_cases hact : (s.src n).act &&& actBit n c = 0
    · rw [State.raiseAs_new s n c x hlisted hact, State.react_quiet _ n c _ x hq.1 hq.2]
      have hreport : P (s.report n c) := k.same _ _ ((MotSame.refl _).reported (s.report_reported n c)) (hmark _)
      split
      · exact k.safeReq hreport x _
      · exact hreport
    · rw [State.raiseAs_again s n c x hlisted hact]
      split
      · exact k.safeReq (hmark _) x _
      · exact hmark _

end TorqueKept

/-- The record of a motor source changes no source. -/
theorem State.motMark_quiet {s : State} {n : Src} (hq : s.quiet n) (f : Fld) (v : Nat) : (s.wr f v).quiet n := by
  unfold State.quiet State.src at hq ⊢
  simpa using hq

theorem State.motRaise_active {s : State} {n : Src} (hq : s.quiet n) (hlisted : srcListed n.val = true) :
    (s.motRaise n).active n = true := by
  unfold State.motRaise
  cases motFltFld n.val with
  | none => exact State.raiseAs_active 0 _ hq hlisted
  | some f => exact State.raiseAs_active 0 _ (State.motMark_quiet hq f 1) hlisted

/-- MOT is halted: no command, no hold, its gates off. -/
structure State.MotHalted (t : State) : Prop where
  cmd : t.mot.cmd = none
  hold : t.mot.hold = .none
  state : t.rd MOT_STAT.STATE = 5
  off : t.mot.gatesOff = true

theorem State.motHalted_torqueKept : TorqueKept State.MotHalted where
  same s t h k := ⟨by rw [h.mot]; exact k.cmd, by rw [h.mot]; exact k.hold, (h.regs _ (by decide)).trans k.state,
    by rw [h.mot]; exact k.off⟩
  torque s h := by
    have hstate : ({ s with mot := { s.mot with hold := .none } } : State).rd MOT_STAT.STATE = 5 := h.state
    unfold State.motTorqueOff
    rw [if_neg (by simp [h.cmd])]
    dsimp only
    rw [if_pos hstate]
    exact ⟨h.cmd, rfl, (State.rd_wr_other _ 0 (by decide)).trans hstate, rfl⟩

theorem State.Halts.halted {s t : State} (h : s.Halts t) : t.MotHalted := ⟨h.cmd, h.hold, h.state, h.off⟩

/-- MOT stays halted through the fault of a source of its own whose reaction resets nothing. -/
theorem State.MotHalted.motRaise {s : State} (h : s.MotHalted) (n : Src) (hq : s.quiet n)
    (hfld : ∀ f, motFltFld n.val = some f → f.key ≠ MOT_STAT.STATE.key) : (s.motRaise n).MotHalted := by
  unfold State.motRaise
  cases hf : motFltFld n.val with
  | none => exact State.motHalted_torqueKept.raiseAs h n 0 _ hq
  | some f =>
    have hmark : (s.wr f 1).MotHalted := ⟨h.cmd, h.hold, (State.rd_wr_other s 1 (hfld f hf)).trans h.state, h.off⟩
    exact State.motHalted_torqueKept.raiseAs hmark n 0 _ (State.motMark_quiet hq f 1)

end Sys2Proof.Machine
end


section
/-!
SUPPORT. The ends of a motion command (R593 to R598).
-/

namespace Sys2Proof.Machine

/-! ### With torque -/

/-- A running command ends with a recipe reason and the press holds `h`. -/
def State.HeldAfter (s : State) (m : MotCmd) (reason : Nat) (h : MotHold) (t : State) : Prop :=
  (t.mot.cmd = none ∧ t.mot.hold = h ∧ t.rd MOT_STAT.STATE = s.rd MOT_STAT.STATE ∧ s.only t [.mot, .host]) ∧
    t.host.cbuf.getLast? = some (s.motGroupOf m reason 0)

theorem State.motComplete_last {s : State} {m : MotCmd} (h : s.mot.cmd = some m) (reason detail : Nat) :
    (s.motComplete reason detail).host.cbuf.getLast? = some (s.motGroupOf m reason detail) := by
  rw [s.motComplete_some h]
  exact List.getLast?_concat

/-- Past its start a command leaves the press in what its phase held. -/
theorem State.motEnd_held {s : State} {m : MotCmd} (hcmd : s.mot.cmd = some m) (hph : m.ph ≠ .starting) (reason : Nat) :
    s.HeldAfter m reason (if m.ph = .force ∧ reason ≠ rTIMEOUT then .force m.fSet else .pos) (s.motEnd reason) := by
  have hdone : s.only (s.motComplete reason 0) [.mot, .host] := State.only_mono (s.motComplete_only reason 0) (by decide)
  have hmot := s.motComplete_cmd reason 0
  unfold State.motEnd
  rw [hcmd]
  dsimp only
  have hgoes : ¬ (m.ph = .starting ∧ (s.motComplete reason 0).rd MOT_STAT.STATE = 1) := fun h => hph h.1
  rw [if_neg hgoes]
  refine ⟨⟨?_, rfl, State.rd_of_regs (s.motComplete_regs reason 0) _, State.only_trans hdone (State.only_iff.2 (by simp))⟩,
    State.motComplete_last hcmd reason 0⟩
  show (s.motComplete reason 0).mot.cmd = none
  rw [hmot]

/-- A start that runs out leaves MOT off. -/
theorem State.motEnd_starting {s : State} {m : MotCmd} (hcmd : s.mot.cmd = some m) (hph : m.ph = .starting)
    (hstate : s.rd MOT_STAT.STATE = 1) (reason : Nat) :
    (s.motEnd reason).mot.cmd = none ∧ (s.motEnd reason).rd MOT_STAT.STATE = 0 ∧ (s.motEnd reason).mot.gatesOff = true ∧
      (s.motEnd reason).host.cbuf.getLast? = some (s.motGroupOf m reason 0) := by
  have hstays : (s.motComplete reason 0).rd MOT_STAT.STATE = 1 := (State.rd_of_regs (s.motComplete_regs reason 0) _).trans hstate
  unfold State.motEnd
  rw [hcmd]
  dsimp only
  rw [if_pos ⟨by simp [hph], hstays⟩]
  refine ⟨?_, (State.rd_wr_other _ 0 (by decide)).trans (State.rd_wr_same (s.motComplete reason 0) MOT_STAT.STATE 0), rfl,
    State.motComplete_last hcmd reason 0⟩
  show (s.motComplete reason 0).mot.cmd = none
  rw [s.motComplete_cmd]

/-! ### The rows -/

section
variable {s : State} {m : MotCmd} (hcmd : s.mot.cmd = some m)
include hcmd

theorem exec_motionTimeout : exec .motionTimeout s =
    if m.desc.timeout ≠ 0 ∧ s.msT m.desc.timeout.toNat ≤ m.ticks then .next (s.motEnd rTIMEOUT) else .next s := by
  show execMotionTimeout s = _
  unfold execMotionTimeout
  rw [hcmd]

theorem motionTimeout_waits (h : m.desc.timeout = 0 ∨ m.ticks < s.msT m.desc.timeout.toNat) :
    exec .motionTimeout s = .next s := by
  rw [exec_motionTimeout hcmd]
  exact if_neg (fun hdue => h.elim hdue.1 (fun hlt => absurd hdue.2 (by omega)))

theorem motionTimeout_starting (hset : m.desc.timeout ≠ 0) (hdue : s.msT m.desc.timeout.toNat ≤ m.ticks)
    (hph : m.ph = .starting) (hstate : s.rd MOT_STAT.STATE = 1) :
    s.ends .motionTimeout (fun t => t.mot.cmd = none ∧ t.rd MOT_STAT.STATE = 0 ∧ t.mot.gatesOff = true ∧
      t.host.cbuf.getLast? = some (s.motGroupOf m rTIMEOUT 0)) :=
  ⟨_, (exec_motionTimeout hcmd).trans (if_pos ⟨hset, hdue⟩), State.motEnd_starting hcmd hph hstate rTIMEOUT⟩

theorem motionTimeout_held (hset : m.desc.timeout ≠ 0) (hdue : s.msT m.desc.timeout.toNat ≤ m.ticks)
    (hph : m.ph ≠ .starting) : s.ends .motionTimeout (s.HeldAfter m rTIMEOUT .pos) := by
  have hheld := State.motEnd_held hcmd hph rTIMEOUT
  rw [if_neg (fun h => h.2 rfl)] at hheld
  exact ⟨_, (exec_motionTimeout hcmd).trans (if_pos ⟨hset, hdue⟩), hheld⟩

/-- The dwell of a command in its force phase. -/
theorem motEnd_force (hph : m.ph = .force) : s.HeldAfter m 0 (.force m.fSet) (s.motEnd 0) := by
  have hheld := State.motEnd_held hcmd (by simp [hph]) 0
  rwa [if_pos ⟨hph, by decide⟩] at hheld

theorem motionDwellEnd_move (hlong : s.msT m.desc.dwell.toNat ≤ m.dwell) (hsome : 0 < m.dwell)
    (hop : m.desc.op = 0x42 ∨ m.desc.op = 0x45) (hph : m.ph = .move) :
    s.ends .motionDwellEnd (s.HeldAfter m 0 .pos) := by
  have hheld := State.motEnd_held hcmd (by simp [hph]) 0
  rw [if_neg (fun h => by simp [hph] at h)] at hheld
  refine ⟨_, ?_, hheld⟩
  show execMotionDwellEnd s = _
  unfold execMotionDwellEnd
  rw [hcmd]
  dsimp only
  have hne : m.desc.op ≠ 0x44 := by rcases hop with h | h <;> rw [h] <;> decide
  rw [if_neg hne, if_pos (.inr ⟨hop, hph⟩), if_pos (by simp [hlong, hsome])]

theorem motionDwellEnd_press (hlong : s.msT m.desc.dwell.toNat ≤ m.dwell) (hsome : 0 < m.dwell)
    (hop : m.desc.op = 0x43 ∨ (m.desc.op = 0x44 ∧ m.desc.dwell ≠ 0)) (hph : m.ph = .force) :
    s.ends .motionDwellEnd (s.HeldAfter m 0 (.force m.fSet)) := by
  refine ⟨_, ?_, motEnd_force hcmd hph⟩
  show execMotionDwellEnd s = _
  unfold execMotionDwellEnd
  rw [hcmd]
  dsimp only
  rcases hop with hop | ⟨hop, hdwell⟩
  · rw [if_neg (by rw [hop]; decide), if_pos (.inl ⟨hop, hph⟩), if_pos (by simp [hlong, hsome])]
  · rw [if_pos hop, if_neg hdwell, if_pos ⟨hph, by simp [hlong, hsome]⟩]

theorem motionDwellEnd_next (hop : m.desc.op = 0x44) (hdwell : m.desc.dwell = 0) (hph : m.ph = .force)
    (hpre : (s.subq mq).pre ≠ []) : s.ends .motionDwellEnd (s.HeldAfter m 0 (.force m.fSet)) := by
  refine ⟨_, ?_, motEnd_force hcmd hph⟩
  show execMotionDwellEnd s = _
  unfold execMotionDwellEnd
  rw [hcmd]
  dsimp only
  rw [if_pos hop, if_pos hdwell, if_pos ⟨hph, by simp [hpre]⟩]

theorem motionFollowErr_halts (f : Bool) (hlong : s.rd MOT_FE.FE_TIME < m.fe) (hf : f = decide (m.ph = .force)) :
    s.ends (.motionFollowErr f) (fun t => (t.mot.cmd = none ∧ t.mot.hold = .none ∧ t.rd MOT_STAT.STATE = 5 ∧
      t.mot.gatesOff = true) ∧ t.host.cbuf.getLast? = some (s.motGroupOf m rFOLLOW 0) ∧ s.only t [.mot, .host, .regs]) := by
  have hexec : exec (.motionFollowErr f) s = .next (s.motFail rFOLLOW 0) := by
    show execMotionFollowErr f s = _
    unfold execMotionFollowErr
    rw [hcmd]
    exact if_pos (by simp [hlong, hf])
  obtain ⟨hnone, hhold, hstate, hoff⟩ := s.motFail_halts rFOLLOW 0
  refine ⟨_, hexec, ⟨hnone, hhold, hstate, hoff⟩, ?_, State.only_mono (s.motFail_only rFOLLOW 0) (by decide)⟩
  rw [State.motFail_last hcmd]
  exact List.getLast?_concat

end

theorem State.motFail_quiet {s : State} {n : Src} (hq : s.quiet n) (reason detail : Nat) : (s.motFail reason detail).quiet n := by
  unfold State.quiet State.src
  rw [(s.motFail_only reason detail).2 .flt (by decide)]
  exact hq

theorem motOverrun_halts {s : State} (hq : s.quiet 31) : s.ends .motOverrun (fun t =>
    (t.mot.cmd = none ∧ t.mot.hold = .none ∧ t.rd MOT_STAT.STATE = 5 ∧ t.mot.gatesOff = true) ∧ t.active 31 = true) := by
  have hq' := State.motFail_quiet hq rFAULT (dSrc 31)
  obtain ⟨hcmd, hhold, hstate, hoff⟩ := (s.motFail_halts rFAULT (dSrc 31)).halted.motRaise 31 hq' (by decide)
  exact ⟨_, rfl, ⟨hcmd, hhold, hstate, hoff⟩, State.motRaise_active hq' (by decide)⟩

end Sys2Proof.Machine
end

section
open Sys2Proof Sys2Proof.Machine

/-- Settles O53, row by row. -/
theorem motionCommandsEnd : Obligations.MotionCommandsEnd := by
  unfold Obligations.MotionCommandsEnd
  exact fun s m hcmd => ⟨motionTimeout_starting hcmd, motionTimeout_held hcmd, motionTimeout_waits hcmd,
    fun hlong hsome => ⟨motionDwellEnd_move hcmd hlong hsome, motionDwellEnd_press hcmd hlong hsome⟩,
    motionDwellEnd_next hcmd, motionFollowErr_halts hcmd, motOverrun_halts⟩

end


section
/-!
SUPPORT. A motion command begins (R441, R442, R572, R595, R597), and what a STOP ends before it does (R442, R617).
-/

namespace Sys2Proof.Machine

/-! ### Its first phase -/

/-- An opcode is a number below 256. -/
theorem op_eq_iff (x : BitVec 8) {n : Nat} (hn : n < 256) : x.toNat = n ↔ x = BitVec.ofNat 8 n := by
  constructor
  · intro h
    exact BitVec.eq_of_toNat_eq (by rw [h, BitVec.toNat_ofNat, Nat.mod_eq_of_lt hn])
  · rintro rfl
    rw [BitVec.toNat_ofNat, Nat.mod_eq_of_lt hn]

/-- The phase to which a motion command goes under torque. -/
def firstPhase (op : BitVec 8) : MotPh :=
  if op = 0x44 then .force else if op = 0x45 then .ramp else if op = 0x46 then .stopping 0 else .move

/-- A command that waits for its start goes to its first phase. -/
theorem State.motGo_spec {s : State} {m : MotCmd} (hcmd : s.mot.cmd = some m) (hph : m.ph = .starting) :
    s.motGo.mot.hold = s.mot.hold ∧ s.motGo.mot.pPos = s.mot.ext * 2 ^ 40 ∧ s.only s.motGo [.mot] ∧
      ∃ n, s.motGo.mot.cmd = some n ∧ n.desc = m.desc ∧ n.idx = m.idx ∧ n.ticks = m.ticks ∧ n.ph = firstPhase m.desc.op := by
  refine ⟨rfl, rfl, State.only_iff.2 (by simp [State.motGo, State.profileHere, State.updCmd]), ?_⟩
  show ∃ n, Option.map _ s.mot.cmd = some n ∧ _
  rw [hcmd]
  refine ⟨_, rfl, ?_⟩
  dsimp only
  rw [if_neg (by simp [hph])]
  unfold firstPhase
  have h44 : m.desc.op.toNat = 0x44 ↔ m.desc.op = 0x44 := op_eq_iff _ (by decide)
  have h45 : m.desc.op.toNat = 0x45 ↔ m.desc.op = 0x45 := op_eq_iff _ (by decide)
  have h46 : m.desc.op.toNat = 0x46 ↔ m.desc.op = 0x46 := op_eq_iff _ (by decide)
  simp only [h44, h45, h46]
  split
  · exact ⟨rfl, rfl, rfl, rfl⟩
  · split
    · exact ⟨rfl, rfl, rfl, rfl⟩
    · split
      · exact ⟨rfl, rfl, rfl, rfl⟩
      · exact ⟨rfl, rfl, rfl, rfl⟩

/-- A start begins with the observation of the motor. -/
theorem State.motStart_spec {s : State} (hvm : 18000 ≤ s.rd MOT_VM.VM) : s.motStart.mot.cmd = s.mot.cmd ∧
    s.motStart.mot.hold = s.mot.hold ∧ s.motStart.rd MOT_STAT.STATE = 1 ∧ s.motStart.mot.start = .check ∧
    s.motStart.mot.gatesOff = true ∧ s.only s.motStart [.mot, .regs] ∧
    ∀ f : Fld, MOT_STAT.STATE.key ≠ f.key → s.motStart.rd f = s.rd f := by
  unfold State.motStart
  rw [if_neg (by omega)]
  exact ⟨rfl, rfl, State.rd_wr_same _ _ _, rfl, rfl, State.only_iff.2 (by simp), fun f hf => State.rd_wr_other _ 1 hf⟩

/-! ### A valid command -/

/-- A motion command has begun: from OFF the motor starts, from holding the command is in its first phase. -/
def State.BegunAs (s t : State) (d : MotionDesc) (idx : Nat) : Prop :=
  t.mot.cmd.map (fun m => (m.desc, m.idx, m.ticks)) = some (d, idx, 0) ∧ t.mot.hold = .none ∧
    (s.rd MOT_STAT.STATE = 0 → t.rd MOT_STAT.STATE = 1 ∧ t.mot.start = .check ∧ t.mot.gatesOff = true ∧
      t.mot.cmd.map (·.ph) = some .starting) ∧
    (s.rd MOT_STAT.STATE ≠ 0 → t.rd MOT_STAT.STATE = s.rd MOT_STAT.STATE ∧ t.mot.pPos = s.mot.ext * 2 ^ 40 ∧
      t.mot.cmd.map (·.ph) = some (firstPhase d.op))

/-- It begins so, HOME with the latch cleared, and the host is told nothing. -/
theorem State.motBegin_begun {s : State} {d : MotionDesc} {idx : Nat} (hvalid : motionValid d = true)
    (hloops : s.loopsOk d.op.toNat = true) (hvm : s.rd MOT_STAT.STATE = 0 → 18000 ≤ s.rd MOT_VM.VM) :
    s.BegunAs (s.motBegin d idx) d idx ∧ (d.op = 0x41 → (s.motBegin d idx).rd MOT_ENCSTAT.HOME_VALID = 0) ∧
      s.only (s.motBegin d idx) [.mot, .regs] := by
  have hmot := s.cmdTaken_mot d idx
  have htaken := s.cmdTaken_only d idx
  have hcmd : (s.cmdTaken d idx).mot.cmd = some (newCmd d idx) := by
    rw [hmot]
    rfl
  have hhold : (s.cmdTaken d idx).mot.hold = .none := by
    rw [hmot]
    rfl
  have hstate : (s.cmdTaken d idx).rd MOT_STAT.STATE = s.rd MOT_STAT.STATE := s.cmdTaken_rd d idx (by decide)
  have hhome (hop : d.op = 0x41) : (s.cmdTaken d idx).rd MOT_ENCSTAT.HOME_VALID = 0 := by
    unfold State.cmdTaken
    rw [if_pos hop]
    exact State.rd_wr_same _ _ _
  rw [State.motBegin_valid idx hvalid hloops]
  by_cases hoff : s.rd MOT_STAT.STATE = 0
  · have hvm' : 18000 ≤ (s.cmdTaken d idx).rd MOT_VM.VM := by
      rw [s.cmdTaken_rd d idx (by decide)]
      exact hvm hoff
    obtain ⟨hc, hh, hs, hstart, hgates, honly, hrd⟩ := State.motStart_spec hvm'
    rw [if_pos hoff]
    refine ⟨⟨by rw [hc, hcmd]; rfl, hh.trans hhold, fun _ => ⟨hs, hstart, hgates, by rw [hc, hcmd]; rfl⟩,
      fun hon => absurd hoff hon⟩, fun hop => (hrd _ (by decide)).trans (hhome hop), State.only_trans htaken honly⟩
  · obtain ⟨hh, hpos, honly, n, hn, hdesc, hidx, hticks, hphase⟩ := State.motGo_spec hcmd rfl
    have hregs := honly.2 .regs (by decide)
    rw [if_neg hoff]
    refine ⟨⟨?_, hh.trans hhold, fun hzero => absurd hzero hoff,
      fun _ => ⟨(State.rd_of_regs hregs _).trans hstate, ?_, ?_⟩⟩, fun hop => (State.rd_of_regs hregs _).trans (hhome hop),
      State.only_trans htaken (State.only_mono honly (by decide))⟩
    · rw [hn, Option.map_some, hdesc, hidx, hticks]
      rfl
    · rw [hpos, hmot]
      rfl
    · rw [hn, Option.map_some, hphase]
      rfl

/-- What `BegunAs` asks of the state before. -/
theorem State.BegunAs.from {s u t : State} {d : MotionDesc} {idx : Nat} (h : u.BegunAs t d idx)
    (hstate : u.rd MOT_STAT.STATE = s.rd MOT_STAT.STATE) (hext : u.mot.ext = s.mot.ext) : s.BegunAs t d idx := by
  unfold State.BegunAs at h ⊢
  rw [hstate, hext] at h
  exact h

/-! ### An invalid command -/

/-- A motion command has failed as it began: its record is the last that waits, and MOT is halted. -/
def State.FailedAs (s t : State) (op idx tag : Nat) : Prop :=
  t.mot.cmd = none ∧ t.rd MOT_STAT.STATE = 5 ∧ t.mot.gatesOff = true ∧ t.host.cbuf.getLast? =
    some ⟨.mot, [motionRec idx rFAULT op dINVALID tag 0 s.mot.ext (s.rdS MOT_FORCE.F) 0], 0⟩

theorem State.motFail_failedAs {s : State} {m : MotCmd} (hcmd : s.mot.cmd = some m) (hticks : m.ticks = 0) (hpeak : m.peak = 0) :
    s.FailedAs (s.motFail rFAULT dINVALID) m.desc.op.toNat m.idx m.desc.tag.toNat := by
  obtain ⟨hnone, -, hstate, hoff⟩ := s.motFail_halts rFAULT dINVALID
  refine ⟨hnone, hstate, hoff, ?_⟩
  rw [State.motFail_last hcmd, List.getLast?_concat]
  unfold State.motGroupOf
  rw [hticks, hpeak]

theorem State.motBegin_failed {s : State} {d : MotionDesc} (idx : Nat)
    (h : motionValid d = false ∨ s.loopsOk d.op.toNat = false) :
    s.FailedAs (s.motBegin d idx) d.op.toNat idx d.tag.toNat ∧ s.only (s.motBegin d idx) [.mot, .regs, .host] ∧
      (s.motBegin d idx).host.cbuf = s.host.cbuf ++ [(s.cmdBegun d idx).motGroupOf (newCmd d idx) rFAULT dINVALID] ∧
      ∀ q : QId, ((s.motBegin d idx).subq q).pre = (s.subq q).pre := by
  have hbegun : s.only (s.cmdBegun d idx) [.mot, .regs, .host] := State.only_iff.2 (by simp [State.cmdBegun])
  rw [State.motBegin_invalid idx h]
  refine ⟨State.motFail_failedAs (s := s.cmdBegun d idx) rfl rfl rfl, State.only_trans hbegun (State.motFail_only _ _ _),
    State.motFail_last (s := s.cmdBegun d idx) rfl rFAULT dINVALID, fun q => ?_⟩
  have hhost := (s.cmdBegun d idx).motFail_host rFAULT dINVALID
  have hpre := (s.cmdBegun d idx).motComplete_pre rFAULT dINVALID q
  unfold State.subq at hpre ⊢
  rw [hhost, hpre]
  rfl

theorem State.FailedAs.from {s u t : State} {op idx tag : Nat} (h : u.FailedAs t op idx tag) (hext : u.mot.ext = s.mot.ext)
    (hforce : u.rdS MOT_FORCE.F = s.rdS MOT_FORCE.F) : s.FailedAs t op idx tag := by
  unfold State.FailedAs at h ⊢
  rw [hext, hforce] at h
  exact h

/-! ### What a STOP ends -/

/-- From `s` to `t` the host is told of completions alone: they are appended to the completion buffer or wait beside it. -/
structure CbufGrown (s t : State) : Prop where
  only : s.only t [.mot, .host, .flt]
  ext : t.mot.ext = s.mot.ext
  cbuf : ∃ l, t.host.cbuf = s.host.cbuf ++ l

theorem CbufGrown.trans {s t u : State} (h : CbufGrown s t) (k : CbufGrown t u) : CbufGrown s u := by
  obtain ⟨l, hl⟩ := h.cbuf
  obtain ⟨m, hm⟩ := k.cbuf
  exact ⟨State.only_trans h.only k.only, k.ext.trans h.ext, l ++ m, by rw [hm, hl, List.append_assoc]⟩

theorem CbufGrown.same {s t : State} {ps : List Part} (h : s.only t ps) (hps : ps ⊆ [.mot, .host, .flt])
    (hext : t.mot.ext = s.mot.ext) (hcbuf : t.host.cbuf = s.host.cbuf) : CbufGrown s t :=
  ⟨State.only_mono h hps, hext, [], by rw [hcbuf, List.append_nil]⟩

theorem CbufGrown.mem {s t : State} (h : CbufGrown s t) {g : CGroup} (hg : g ∈ s.host.cbuf) : g ∈ t.host.cbuf := by
  obtain ⟨l, hl⟩ := h.cbuf
  rw [hl]
  exact List.mem_append_left l hg

theorem State.noticeIn_grown (s : State) (o : Owner) (upd : Option (QId × Nat)) (r : List Word) :
    CbufGrown s (s.noticeIn o upd r) ∧ (s.noticeIn o upd r).host.qs = s.host.qs := by
  unfold State.noticeIn State.complete
  split
  · exact ⟨.same (ps := [.host]) (State.only_iff.2 (by simp)) (by decide) rfl rfl, rfl⟩
  · exact ⟨⟨State.only_iff.2 (by simp), rfl, _, rfl⟩, rfl⟩

theorem State.updQ_only (s : State) (q : QId) (f : SubQ → SubQ) : s.only (s.updQ q f) [.host] :=
  State.only_iff.2 (by simp [State.updQ])

/-- A revoked descriptor of MQ is retired with its notice. -/
theorem State.revokeMotion_grown (s : State) (ps : List PreDesc) (hdone : (s.subq mq).done < 65536) :
    CbufGrown s (s.revokeMotion ps) ∧ ((s.revokeMotion ps).subq mq).done = ((s.subq mq).done + ps.length) % 65536 := by
  unfold State.revokeMotion
  induction ps generalizing s with
  | nil => exact ⟨.same (State.only_refl s []) (by simp) rfl rfl, (Nat.mod_eq_of_lt hdone).symm⟩
  | cons p ps ih =>
    obtain ⟨hgrown, hqs⟩ := s.noticeIn_grown .shared none
      (noticeRec mq.val (s.posOf mq (s.subq mq).done) rREVOKED ((wAt p.words 0).extractLsb' 0 8).toNat 0xFFFF 0)
    rw [List.foldl_cons]
    dsimp only
    set noted := s.notice .shared mq (s.subq mq).done rREVOKED ((wAt p.words 0).extractLsb' 0 8).toNat 0xFFFF 0 with hnoted
    have hretired : CbufGrown s (noted.updQ mq (fun q => { q with done := (q.done + 1) % 65536, pre := q.pre.drop 1 })) :=
      CbufGrown.trans hgrown (.same (State.updQ_only noted mq _) (by decide) rfl rfl)
    have hone : ((noted.updQ mq (fun q => { q with done := (q.done + 1) % 65536, pre := q.pre.drop 1 })).subq mq).done =
        ((s.subq mq).done + 1) % 65536 := by
      rw [State.subq_updQ_same]
      show ((bget noted.host.qs mq).done + 1) % 65536 = _
      rw [show noted.host.qs = s.host.qs from hqs]
      rfl
    obtain ⟨hrest, hcount⟩ := ih _ (by rw [hone]; exact Nat.mod_lt _ (by decide))
    refine ⟨hretired.trans hrest, ?_⟩
    rw [hcount, hone, List.length_cons]
    omega

theorem State.clear_grown (s : State) (n : Src) (c : Ch) :
    CbufGrown s (s.clearIfGone n c) ∧ (s.clearIfGone n c).host.qs = s.host.qs := by
  have hhost : (s.clearIfGone n c).host.cbuf = s.host.cbuf ∧ (s.clearIfGone n c).host.qs = s.host.qs := by
    unfold State.clearIfGone State.clear
    dsimp only
    split
    · split
      · exact ⟨rfl, rfl⟩
      · rw [State.event_host]
        split
        · exact ⟨rfl, rfl⟩
        · exact ⟨rfl, rfl⟩
    · exact ⟨rfl, rfl⟩
  have honly := s.clearIfGone_only n c
  exact ⟨.same honly (by decide) (by rw [honly.2 .mot (by decide)]) hhost.1, hhost.2⟩

/-- The sources that a STOP clears change neither completions nor queues. -/
theorem State.stopClears_grown (s : State) : CbufGrown s s.stopClears ∧ s.stopClears.host.qs = s.host.qs := by
  have hgone (t : State) (n : Src) : CbufGrown t (t.condGone n 0) ∧ (t.condGone n 0).host.qs = t.host.qs :=
    ⟨.same (t.condGone_only n 0) (by decide) rfl rfl, rfl⟩
  have hite (t : State) (n : Src) (p : Prop) [Decidable p] : CbufGrown t (if p then t.condGone n 0 else t) ∧
      (if p then t.condGone n 0 else t).host.qs = t.host.qs := by
    split
    · exact hgone t n
    · exact ⟨.same (State.only_refl t []) (by simp) rfl rfl, rfl⟩
  have hfold (l : List Src) (t : State) : CbufGrown t (l.foldl (fun s n => s.clearIfGone n 0) t) ∧
      (l.foldl (fun s n => s.clearIfGone n 0) t).host.qs = t.host.qs := by
    induction l generalizing t with
    | nil => exact ⟨.same (State.only_refl t []) (by simp) rfl rfl, rfl⟩
    | cons n l ih =>
      obtain ⟨hone, hq⟩ := t.clear_grown n 0
      obtain ⟨hrest, hqs⟩ := ih (t.clearIfGone n 0)
      exact ⟨hone.trans hrest, hqs.trans hq⟩
  unfold State.stopClears
  extract_lets st first second ns
  obtain ⟨h1, q1⟩ := hite s 25 (st = 0 ∨ st = 5 ∨ st = 2 ∨ st = 3)
  obtain ⟨h2, q2⟩ := hite first 28 (st ≠ 2)
  obtain ⟨h3, q3⟩ := hfold ns second
  exact ⟨(h1.trans h2).trans h3, q3.trans (q2.trans q1)⟩

/-- The running command completes as revoked. -/
theorem State.motComplete_grown (s : State) (reason detail : Nat) : CbufGrown s (s.motComplete reason detail) ∧
    (∀ m : MotCmd, s.mot.cmd = some m → s.motGroupOf m reason detail ∈ (s.motComplete reason detail).host.cbuf) ∧
    ((s.subq mq).done < 65536 →
      ((s.motComplete reason detail).subq mq).done = ((s.subq mq).done + b2n s.mot.cmd.isSome) % 65536) := by
  cases hcmd : s.mot.cmd with
  | none =>
    rw [s.motComplete_none hcmd]
    exact ⟨.same (State.only_refl s []) (by simp) rfl rfl, nofun, fun h => (Nat.mod_eq_of_lt h).symm⟩
  | some m =>
    have honly := State.only_mono (s.motComplete_only reason detail) (show [.host, .mot] ⊆ [Part.mot, .host, .flt] by decide)
    have hmot := s.motComplete_cmd reason detail
    rw [s.motComplete_some hcmd] at honly hmot ⊢
    refine ⟨⟨honly, by rw [hmot], _, rfl⟩, fun k hk => ?_, fun _ => ?_⟩
    · obtain rfl := Option.some.inj hk
      exact List.mem_append_right _ List.mem_cons_self
    · rw [State.subq_updQ_same]
      rfl

/-- What a STOP ends: the running command and what was prefetched before it. -/
theorem State.stopReady_spec (s : State) (hdone : (s.subq mq).done < 65536) :
    CbufGrown s s.stopReady ∧
    (∀ m : MotCmd, s.mot.cmd = some m → s.motGroupOf m rREVOKED 0 ∈ s.stopReady.host.cbuf) ∧
    (s.stopReady.subq mq).done = ((s.subq mq).done + (b2n s.mot.cmd.isSome +
      ((s.subq mq).pre.takeWhile (fun p => decide (((wAt p.words 0).extractLsb' 0 8) ≠ 0x46))).length)) % 65536 := by
  obtain ⟨hended, hmem, hcount⟩ := s.motComplete_grown rREVOKED 0
  have hpre := s.motComplete_pre rREVOKED 0 mq
  have hlt : ((s.motComplete rREVOKED 0).subq mq).done < 65536 := by
    rw [hcount hdone]
    exact Nat.mod_lt _ (by decide)
  unfold State.stopReady
  extract_lets ended
  obtain ⟨hrevoked, hgone⟩ := ended.revokeMotion_grown
    ((ended.subq mq).pre.takeWhile (fun p => decide (((wAt p.words 0).extractLsb' 0 8) ≠ 0x46))) hlt
  set revoked := ended.revokeMotion
    ((ended.subq mq).pre.takeWhile (fun p => decide (((wAt p.words 0).extractLsb' 0 8) ≠ 0x46)))
  have hpopped : CbufGrown revoked revoked.popMot :=
    .same (State.updQ_only revoked mq _) (show [Part.host] ⊆ _ by decide) rfl rfl
  obtain ⟨hcleared, hqs⟩ := revoked.popMot.stopClears_grown
  have hafter := (hrevoked.trans hpopped).trans hcleared
  refine ⟨hended.trans hafter, fun m hm => hafter.mem (hmem m hm), ?_⟩
  have hend : (revoked.popMot.stopClears.subq mq).done = (revoked.subq mq).done := by
    have hsame : revoked.popMot.stopClears.subq mq = revoked.popMot.subq mq := by
      unfold State.subq
      rw [hqs]
    rw [hsame]
    exact (congrArg SubQ.done (revoked.subq_updQ_same mq (fun q => { q with pre := q.pre.drop 1 }))).trans rfl
  rw [hend, hgone, hcount hdone, hpre]
  omega

/-! ### The rows that are no STOP -/

/-- The head of MQ has left the prefetch, and the parts of a motion command alone have changed. -/
def State.PoppedTo (s t : State) : Prop :=
  (t.subq mq).pre = (s.subq mq).pre.drop 1 ∧ s.only t [.mot, .regs, .host]

theorem State.popMot_pre (s : State) : (s.popMot.subq mq).pre = (s.subq mq).pre.drop 1 :=
  congrArg SubQ.pre (s.subq_updQ_same mq (fun q => { q with pre := q.pre.drop 1 }))

theorem State.popMot_only (s : State) : s.only s.popMot [.host] := s.updQ_only mq _

section
variable {s : State} {op : Nat} {idx : Half} {d : MotionDesc}

theorem State.takeMotion_next (hmay : s.motMay = true) (hrun : s.rd MOT_STAT.STATE ≠ 5)
    (hhead : s.motHead = some ({ d with op := BitVec.ofNat 8 op }, idx.toNat)) :
    s.takeMotion op idx d = s.popMot.motBegin { d with op := BitVec.ofNat 8 op } idx.toNat :=
  if_pos (by simp [hmay, hrun, hhead])

theorem State.takeMotion_not (h : s.motMay = false ∨ s.rd MOT_STAT.STATE = 5 ∨
    s.motHead ≠ some ({ d with op := BitVec.ofNat 8 op }, idx.toNat)) : s.takeMotion op idx d = s := by
  refine if_neg ?_
  rcases h with h | h | h
  · simp [h]
  · simp [h]
  · simp [h]

/-- A valid command at the head of MQ begins. -/
theorem State.takeMotion_begins (hop : op < 256) (hmay : s.motMay = true) (hrun : s.rd MOT_STAT.STATE ≠ 5)
    (hhead : s.motHead = some ({ d with op := BitVec.ofNat 8 op }, idx.toNat))
    (hvalid : motionValid { d with op := BitVec.ofNat 8 op } = true) (hloops : s.loopsOk op = true)
    (hvm : s.rd MOT_STAT.STATE = 0 → 18000 ≤ s.rd MOT_VM.VM) :
    s.BegunAs (s.takeMotion op idx d) { d with op := BitVec.ofNat 8 op } idx.toNat ∧
      (op = 0x41 → (s.takeMotion op idx d).rd MOT_ENCSTAT.HOME_VALID = 0) ∧ s.PoppedTo (s.takeMotion op idx d) := by
  have hnum : (BitVec.ofNat 8 op).toNat = op := BitVec.toNat_ofNat .. |>.trans (Nat.mod_eq_of_lt hop)
  obtain ⟨hbegun, hhome, honly⟩ := State.motBegin_begun (s := s.popMot) (idx := idx.toNat) hvalid (by rw [hnum]; exact hloops) hvm
  rw [State.takeMotion_next hmay hrun hhead]
  refine ⟨hbegun.from rfl rfl, fun h => hhome (h ▸ rfl), ?_, ?_⟩
  · have hhost := honly.2 .host (by decide)
    rw [← s.popMot_pre]
    unfold State.subq
    rw [hhost]
  · exact State.only_trans (State.only_mono s.popMot_only (by decide)) (State.only_mono honly (by decide))

/-- An invalid command at the head of MQ fails. -/
theorem State.takeMotion_fails (hop : op < 256) (hmay : s.motMay = true) (hrun : s.rd MOT_STAT.STATE ≠ 5)
    (hhead : s.motHead = some ({ d with op := BitVec.ofNat 8 op }, idx.toNat))
    (hbad : motionValid { d with op := BitVec.ofNat 8 op } = false ∨ s.loopsOk op = false) :
    s.FailedAs (s.takeMotion op idx d) op idx.toNat d.tag.toNat ∧ s.PoppedTo (s.takeMotion op idx d) := by
  have hnum : (BitVec.ofNat 8 op).toNat = op := BitVec.toNat_ofNat .. |>.trans (Nat.mod_eq_of_lt hop)
  obtain ⟨hfailed, honly, -, hpre⟩ := State.motBegin_failed (s := s.popMot) idx.toNat (d := { d with op := BitVec.ofNat 8 op })
    (by rw [hnum]; exact hbad)
  rw [State.takeMotion_next hmay hrun hhead]
  rw [hnum] at hfailed
  exact ⟨hfailed.from rfl rfl, (hpre mq).trans s.popMot_pre,
    State.only_trans (State.only_mono s.popMot_only (by decide)) honly⟩

end

/-- What a motion row other than STOP does. -/
def State.MotionRow (s : State) (op : Nat) (i : Instr) (idx : Half) (d : MotionDesc) : Prop :=
  let e : MotionDesc := { d with op := BitVec.ofNat 8 op }
  let begins (t : State) : Prop :=
    s.BegunAs t e idx.toNat ∧ (op = 0x41 → t.rd MOT_ENCSTAT.HOME_VALID = 0) ∧ s.PoppedTo t
  (s.motMay = true → s.rd MOT_STAT.STATE ≠ 5 → s.motHead = some (e, idx.toNat) →
    (motionValid e = true → s.loopsOk op = true → s.rd MOT_STAT.STATE = 0 → 18000 ≤ s.rd MOT_VM.VM → s.ends i begins) ∧
    (motionValid e = true → s.loopsOk op = true → s.rd MOT_STAT.STATE ≠ 0 → s.ends i begins) ∧
    (motionValid e = false ∨ s.loopsOk op = false →
      s.ends i (fun t => s.FailedAs t op idx.toNat d.tag.toNat ∧ s.PoppedTo t))) ∧
  (s.motMay = false ∨ s.rd MOT_STAT.STATE = 5 ∨ s.motHead ≠ some (e, idx.toNat) → exec i s = .next s)

/-! ### STOP -/

/-- A STOP has ended the command that ran. -/
def State.EndedIn (s t : State) : Prop := ∀ m : MotCmd, s.mot.cmd = some m → s.motGroupOf m rREVOKED 0 ∈ t.host.cbuf

/-- How many descriptors a STOP ends. -/
def State.stopGone (s : State) : Nat := b2n s.mot.cmd.isSome +
  ((s.subq mq).pre.takeWhile (fun p => decide (((wAt p.words 0).extractLsb' 0 8) ≠ 0x46))).length

section
variable {s : State} {idx : Half} {d : MotionDesc}

theorem exec_stop_not (h : s.stopMay = false ∨ s.stopAt ≠ some ({ d with op := 0x46 }, idx.toNat)) :
    exec (.stop idx d) s = .next s := by
  refine congrArg Host.Outcome.next (if_neg ?_)
  rcases h with h | h
  · simp [h]
  · exact fun hb => h (of_decide_eq_true (Bool.and_eq_true_iff.1 hb).2)

theorem exec_stop (hmay : s.stopMay = true) (hat : s.stopAt = some ({ d with op := 0x46 }, idx.toNat)) :
    exec (.stop idx d) s = .next (s.motStop { d with op := 0x46 } idx.toNat) :=
  congrArg Host.Outcome.next (if_pos (by simp [hmay, hat]))

/-- The state after `stopReady` with the STOP itself taken. -/
def State.stopTaken (s : State) (d : MotionDesc) (idx : Nat) : State :=
  { s.stopReady with mot := { s.stopReady.mot with cmd := some (stopCmd d idx) } }

theorem State.stopTaken_only (s : State) (d : MotionDesc) (idx : Nat) : s.stopReady.only (s.stopTaken d idx) [.mot] :=
  State.only_iff.2 (by simp [State.stopTaken])

/-- What completes at once completes from `stopTaken`. -/
theorem State.stopTaken_completes (s : State) (d : MotionDesc) (idx : Nat) :
    ((s.stopTaken d idx).motComplete 0 0).host.cbuf =
      s.stopReady.host.cbuf ++ [s.stopReady.motGroupOf (stopCmd d idx) 0 0] ∧
    (((s.stopTaken d idx).motComplete 0 0).subq mq).done = ((s.stopReady.subq mq).done + 1) % 65536 := by
  rw [State.motComplete_some (s := s.stopTaken d idx) (m := stopCmd d idx) rfl]
  refine ⟨rfl, ?_⟩
  rw [State.subq_updQ_same]
  rfl

/-- In HALTED a STOP completes at once and leaves MOT off. -/
theorem stop_halted (hmay : s.stopMay = true) (hat : s.stopAt = some ({ d with op := 0x46 }, idx.toNat))
    (hdone : (s.subq mq).done < 65536) (hhalted : s.rd MOT_STAT.STATE = 5)
    (hvalid : motionValid { d with op := 0x46 } = true) :
    s.ends (.stop idx d) (fun t => t.mot.cmd = none ∧ t.rd MOT_STAT.STATE = 0 ∧ t.mot.gatesOff = true ∧ s.EndedIn t ∧
      (t.subq mq).done = ((s.subq mq).done + s.stopGone + 1) % 65536 ∧ t.host.cbuf.getLast? =
        some ⟨.mot, [motionRec idx.toNat 0 0x46 0 d.tag.toNat 0 s.mot.ext (s.rdS MOT_FORCE.F) 0], 0⟩ ∧
      s.only t [.mot, .regs, .host, .flt]) := by
  obtain ⟨hgrown, hmem, hcount⟩ := s.stopReady_spec hdone
  have hregs := hgrown.only.2 .regs (by decide)
  have hstate : s.stopReady.rd MOT_STAT.STATE = 5 := (State.rd_of_regs hregs _).trans hhalted
  refine ⟨_, exec_stop hmay hat, ?_⟩
  obtain ⟨hcbuf, hleft⟩ := s.stopTaken_completes { d with op := 0x46 } idx.toNat
  have hcmd := State.motComplete_cmd (s.stopTaken { d with op := 0x46 } idx.toNat) 0 0
  have honly := State.motComplete_only (s.stopTaken { d with op := 0x46 } idx.toNat) 0 0
  have hdo : s.motStop { d with op := 0x46 } idx.toNat =
      (((s.stopTaken { d with op := 0x46 } idx.toNat).motComplete 0 0).wr MOT_STAT.STATE 0).motGatesOff := by
    rw [State.motStop_eq, if_pos hstate]
    exact if_pos hvalid
  rw [hdo]
  set completed := (s.stopTaken { d with op := 0x46 } idx.toNat).motComplete 0 0
  refine ⟨congrArg MotS.cmd hcmd, (State.rd_wr_other _ 0 (by decide)).trans (State.rd_wr_same completed MOT_STAT.STATE 0), rfl,
    fun m hm => ?_, ?_, ?_, ?_⟩
  · show _ ∈ completed.host.cbuf
    rw [hcbuf]
    exact List.mem_append_left _ (hmem m hm)
  · show (completed.subq mq).done = _
    rw [hleft, hcount, State.stopGone]
    omega
  · show completed.host.cbuf.getLast? = _
    rw [hcbuf, List.getLast?_concat]
    unfold State.motGroupOf stopCmd
    rw [hgrown.ext, show s.stopReady.rdS MOT_FORCE.F = s.rdS MOT_FORCE.F from
      congrArg (toS MOT_FORCE.F.w) (State.rd_of_regs hregs _)]
    rfl
  · have htaken := State.only_trans (State.only_mono hgrown.only (by decide))
      (State.only_mono (s.stopTaken_only { d with op := 0x46 } idx.toNat)
        (show [Part.mot] ⊆ [.mot, .regs, .host, .flt] by decide))
    exact State.only_trans (State.wr_only (State.only_trans htaken (State.only_mono honly (by decide))) _ _ (by decide))
      (State.only_mono (State.motGatesOff_only _) (by decide))

/-- Outside HALTED a valid STOP begins. -/
theorem stop_begins (hmay : s.stopMay = true) (hat : s.stopAt = some ({ d with op := 0x46 }, idx.toNat))
    (hdone : (s.subq mq).done < 65536) (hrun : s.rd MOT_STAT.STATE ≠ 5)
    (hvalid : motionValid { d with op := 0x46 } = true) (hloops : s.loopsOk 0x46 = true)
    (hvm : s.rd MOT_STAT.STATE ≠ 0 ∨ 18000 ≤ s.rd MOT_VM.VM) :
    s.ends (.stop idx d) (fun t => s.BegunAs t { d with op := 0x46 } idx.toNat ∧ s.EndedIn t ∧
      (t.subq mq).done = ((s.subq mq).done + s.stopGone) % 65536 ∧ s.only t [.mot, .regs, .host, .flt]) := by
  obtain ⟨hgrown, hmem, hcount⟩ := s.stopReady_spec hdone
  have hregs := hgrown.only.2 .regs (by decide)
  have hrd := State.rd_of_regs hregs
  have hloops' : s.stopReady.loopsOk 0x46 = true := by
    unfold State.loopsOk
    simp only [hrd]
    exact hloops
  obtain ⟨hbegun, -, honly⟩ := State.motBegin_begun (s := s.stopReady) (idx := idx.toNat) hvalid hloops'
    (by rw [hrd, hrd]; exact fun h => hvm.resolve_left (fun hn => hn h))
  have hhost := honly.2 .host (by decide)
  refine ⟨_, exec_stop hmay hat, ?_⟩
  rw [State.motStop_eq, if_neg (by rw [hrd]; exact hrun)]
  refine ⟨hbegun.from (hrd _) hgrown.ext, fun m hm => ?_, ?_,
    State.only_trans (State.only_mono hgrown.only (by decide)) (State.only_mono honly (by decide))⟩
  · rw [hhost]
    exact hmem m hm
  · unfold State.subq at hcount ⊢
    rw [hhost]
    exact hcount

/-- An invalid STOP fails, having ended what it ends. -/
theorem stop_fails (hmay : s.stopMay = true) (hat : s.stopAt = some ({ d with op := 0x46 }, idx.toNat))
    (hdone : (s.subq mq).done < 65536)
    (hbad : motionValid { d with op := 0x46 } = false ∨ (s.rd MOT_STAT.STATE ≠ 5 ∧ s.loopsOk 0x46 = false)) :
    s.ends (.stop idx d) (fun t => s.FailedAs t 0x46 idx.toNat d.tag.toNat ∧ s.EndedIn t) := by
  obtain ⟨hgrown, hmem, -⟩ := s.stopReady_spec hdone
  have hregs := hgrown.only.2 .regs (by decide)
  have hrd := State.rd_of_regs hregs
  have hforce : s.stopReady.rdS MOT_FORCE.F = s.rdS MOT_FORCE.F := congrArg (toS MOT_FORCE.F.w) (hrd _)
  refine ⟨_, exec_stop hmay hat, ?_⟩
  by_cases hhalted : s.rd MOT_STAT.STATE = 5
  · have hinvalid : motionValid { d with op := 0x46 } = false := hbad.resolve_right (fun h => h.1 hhalted)
    have hcmd : (s.stopTaken { d with op := 0x46 } idx.toNat).mot.cmd =
      some (stopCmd { d with op := 0x46 } idx.toNat) := rfl
    have hdo : s.motStop { d with op := 0x46 } idx.toNat =
        (s.stopTaken { d with op := 0x46 } idx.toNat).motFail rFAULT dINVALID := by
      rw [State.motStop_eq, if_pos (by rw [hrd]; exact hhalted)]
      exact if_neg (by rw [hinvalid]; decide)
    rw [hdo]
    refine ⟨(State.motFail_failedAs hcmd rfl rfl).from hgrown.ext hforce, fun m hm => ?_⟩
    rw [State.motFail_last hcmd]
    exact List.mem_append_left _ (hmem m hm)
  · have hbad' : motionValid { d with op := 0x46 } = false ∨ s.stopReady.loopsOk 0x46 = false := by
      refine hbad.imp id (fun h => ?_)
      unfold State.loopsOk
      simp only [hrd]
      exact h.2
    obtain ⟨hfailed, -, hcbuf, -⟩ := State.motBegin_failed (s := s.stopReady) idx.toNat hbad'
    rw [State.motStop_eq, if_neg (by rw [hrd]; exact hhalted)]
    refine ⟨hfailed.from hgrown.ext hforce, fun m hm => ?_⟩
    rw [hcbuf]
    exact List.mem_append_left _ (hmem m hm)

end

end Sys2Proof.Machine
end

section
open Sys2Proof Sys2Proof.Machine

/-- Settles O52: five rows that take the head of MQ alike, and STOP. -/
theorem motionCommandsBegin : Obligations.MotionCommandsBegin := by
  unfold Obligations.MotionCommandsBegin
  intro s idx d
  dsimp only
  refine ⟨?_, exec_stop_not, fun hmay hat hdone => ⟨stop_halted hmay hat hdone, stop_begins hmay hat hdone,
    stop_fails hmay hat hdone⟩⟩
  have hrow (op : Nat) (i : Instr) (hop : op < 256) (hexec : exec i s = .next (s.takeMotion op idx d)) :
      s.MotionRow op i idx d := by
    refine ⟨fun hmay hrun hhead => ⟨fun hvalid hloops _ hvm => ⟨_, hexec, ?_⟩, fun hvalid hloops hon => ⟨_, hexec, ?_⟩,
      fun hbad => ⟨_, hexec, State.takeMotion_fails hop hmay hrun hhead hbad⟩⟩,
      fun h => hexec.trans (congrArg Host.Outcome.next (State.takeMotion_not h))⟩
    · exact State.takeMotion_begins hop hmay hrun hhead hvalid hloops (fun _ => hvm)
    · exact State.takeMotion_begins hop hmay hrun hhead hvalid hloops (fun h => absurd h hon)
  exact List.forall_mem_cons.2 ⟨hrow 0x41 (.home idx d) (by decide) rfl, List.forall_mem_cons.2
    ⟨hrow 0x42 (.moveTo idx d) (by decide) rfl, List.forall_mem_cons.2
    ⟨hrow 0x43 (.press idx d) (by decide) rfl, List.forall_mem_cons.2
    ⟨hrow 0x44 (.holdForce idx d) (by decide) rfl, List.forall_mem_cons.2
    ⟨hrow 0x45 (.release idx d) (by decide) rfl, List.forall_mem_nil _⟩⟩⟩⟩⟩

end


section
/-!
SUPPORT. Frames of the ring (R499 to R509): what a frame that waits to be sent is, and what a frame that is taken changes.
-/

namespace Sys2Proof.Machine

/-! ### Frames to send -/

/-- A frame of a class that has not given up waits to be sent last. -/
theorem State.send_last {s : State} {ty dst : Nat} {ack : Bool} {arg : Nat} {ws : List Word}
    (h : s.mayClass dst (s.frCls (s.mkFrame ty dst ack (s.tagFor dst) arg ws)) = true) :
    (s.send ty dst ack arg ws).ring.outq = s.ring.outq ++ [s.mkFrame ty dst ack (s.tagFor dst) arg ws] := by
  unfold State.send
  dsimp only
  rw [if_neg (by simp [h])]
  rfl

/-- A MGMT frame is of the class MGMT. -/
theorem State.frCls_mgmt (s : State) (dst : Nat) (ack : Bool) (tag arg : Nat) (ws : List Word) :
    s.frCls (s.mkFrame 7 dst ack tag arg ws) = .mgmt := rfl

theorem State.mgmt_only (s : State) (sub dst arg : Nat) (ws : List Word) : s.only (s.mgmt sub dst arg ws) [.ring] := by
  unfold State.mgmt
  split
  · exact s.send_only _ _ _ _ _
  · exact State.only_refl _ _

/-- A device on a ring sends its MGMT frames unless the class has given up. -/
theorem State.mgmt_last {s : State} {sub dst arg : Nat} {ws : List Word} (hon : s.onRing = true)
    (hmay : s.mayClass dst .mgmt = true) : (s.mgmt sub dst arg ws).ring.outq = s.ring.outq ++
      [s.mkFrame 7 dst ([2, 3, 5, 8, 9].contains sub) (s.tagFor dst) (sub + 256 * arg) ws] := by
  unfold State.mgmt
  rw [if_pos hon]
  exact State.send_last hmay

/-- The subtype of a MGMT frame is the low octet of its argument. -/
theorem State.mkFrame_sub (s : State) (ty dst : Nat) (ack : Bool) (tag : Nat) {sub : Nat} (arg : Nat) (ws : List Word)
    (hsub : sub < 256) : (s.mkFrame ty dst ack tag (sub + 256 * arg) ws).arg.toNat % 256 = sub := by
  show (BitVec.ofNat 64 (sub + 256 * arg)).toNat % 256 = sub
  rw [BitVec.toNat_ofNat]
  omega

/-- The last of the frames that wait is a MGMT frame with this subtype, acknowledgement and payload. -/
def State.SendsMgmt (t : State) (sub dst : Nat) (ws : List Word) : Prop :=
  ∃ f ∈ t.ring.outq.getLast?, f.type = 7 ∧ f.dst = BitVec.ofNat 5 dst ∧ f.arg.toNat % 256 = sub ∧
    f.ackreq = [2, 3, 5, 8, 9].contains sub ∧ f.payload = ws

theorem State.mgmt_sends {s : State} {sub dst arg : Nat} {ws : List Word} (hon : s.onRing = true)
    (hmay : s.mayClass dst .mgmt = true) (hsub : sub < 256) : (s.mgmt sub dst arg ws).SendsMgmt sub dst ws := by
  refine ⟨s.mkFrame 7 dst ([2, 3, 5, 8, 9].contains sub) (s.tagFor dst) (sub + 256 * arg) ws, ?_, rfl, rfl,
    s.mkFrame_sub 7 dst _ _ arg ws hsub, rfl, rfl⟩
  rw [State.mgmt_last hon hmay, List.getLast?_concat]
  rfl

/-- What has been sent stays while the ring does. -/
theorem State.SendsMgmt.of_ring {s t : State} {sub dst : Nat} {ws : List Word} (h : s.SendsMgmt sub dst ws)
    (hr : t.ring = s.ring) : t.SendsMgmt sub dst ws := by
  unfold State.SendsMgmt
  rw [hr]
  exact h

/-! ### Frames taken -/

theorem State.passOn_only (s : State) (f : Frame) : s.only (s.passOn f) [.out] := by
  unfold State.passOn
  dsimp only
  split
  · exact State.only_refl _ _
  · split
    · exact State.only_iff.2 (by simp [State.emit])
    · exact State.only_iff.2 (by simp [State.emitFrame, State.emit])

theorem State.ackTo_only (s : State) (f : Frame) : s.only (s.ackTo f) [.ring] :=
  State.only_iff.2 (by simp [State.ackTo, State.queueFrame])

/-- From `s` to `t` a frame has been taken: it has gone on as `passOn` says, and of the ring only what waits to be sent, the
tags and what has been taken differ. -/
structure State.Took (s : State) (f : Frame) (t : State) : Prop where
  only : s.only t [.ring, .out]
  out : t.out = (s.passOn f).out
  ring : t.ring = { s.ring with outq := t.ring.outq, tags := t.ring.tags, taken := t.ring.taken }

theorem State.Took.rd {s t : State} {f : Frame} (h : s.Took f t) (g : Fld) : t.rd g = s.rd g :=
  State.rd_of_regs (h.only.2 .regs (by decide)) g

theorem State.Took.mayClass {s t : State} {f : Frame} (h : s.Took f t) (dst : Nat) (c : FrCls) :
    t.mayClass dst c = s.mayClass dst c := by
  unfold State.mayClass
  rw [h.ring]

/-- What goes on does not depend on what waits to be sent. -/
theorem State.passOn_ackTo (s : State) (f g : Frame) : ((s.ackTo g).passOn f).out = (s.passOn f).out ∧
    ((s.ackTo g).passOn f).ring = (s.ackTo g).ring := by
  constructor
  · unfold State.passOn
    dsimp only
    rw [show (s.ackTo g).arriveRing f = s.arriveRing f from rfl, show ∀ r, (s.ackTo g).relays r = s.relays r from fun _ => rfl,
      show (s.ackTo g).toPos f = s.toPos f from rfl, show ∀ r, (s.ackTo g).outRing r = s.outRing r from fun r => by cases r <;> rfl]
    split
    · rfl
    · split
      · rfl
      · rfl
  · exact ((s.ackTo g).passOn_only f).2 .ring (by decide)

/-- A frame that reaches the device is taken. -/
theorem State.takeFrame_hears {s : State} {f : Frame} (h : s.hears f) (mayAck : Bool) :
    (s.takeFrame f mayAck).2 = true ∧ s.Took f (s.takeFrame f mayAck).1 := by
  obtain ⟨hidle, hreset, hcrc, hretry, hme⟩ := h
  unfold State.takeFrame
  rw [if_neg (by simp [hidle, hreset]), if_neg (by simp [hcrc]), if_neg (by simp [hme])]
  dsimp only
  rw [hretry, Bool.false_and, if_neg Bool.false_ne_true]
  refine ⟨rfl, ?_⟩
  have hacked : ∃ u, (if (f.ackreq && mayAck) = true then s.ackTo f else s) = u ∧ s.only u [.ring, .out] ∧
      (u.passOn f).out = (s.passOn f).out ∧
      u.ring = { s.ring with outq := u.ring.outq, tags := u.ring.tags, taken := u.ring.taken } := by
    refine ⟨_, rfl, ?_⟩
    split
    · exact ⟨State.only_mono (s.ackTo_only f) (by decide), (s.passOn_ackTo f f).1, rfl⟩
    · exact ⟨State.only_refl _ _, rfl, rfl⟩
  obtain ⟨u, hu, honly, hout, hring⟩ := hacked
  rw [hu]
  have hpass := u.passOn_only f
  have hpring : (u.passOn f).ring = u.ring := hpass.2 .ring (by decide)
  refine ⟨State.only_trans honly (State.only_trans (State.only_mono hpass (by decide)) (State.only_iff.2 (by simp))), hout, ?_⟩
  dsimp only
  rw [hpring]
  generalize u.ring = r at hring ⊢
  rw [hring]

/-! ### Events of the ring -/

theorem State.irq_only (s : State) (v : Fin 8) : s.only (s.irq v) [.host] := State.only_iff.2 (by simp [State.irq])

theorem State.ringEvent_only (s : State) (cause p : Nat) : s.only (s.ringEvent cause p) [.host] :=
  State.only_trans (State.event_only _ _ _ _) (State.irq_only _ _)

end Sys2Proof.Machine
end


section
/-!
SUPPORT. Joining and enumerating (R480 to R482, R525 to R528, R538, R540).
-/

namespace Sys2Proof.Machine

/-! ### Splicing -/

/-- The field of a bypass. -/
def bypField : RingId → Fld
  | .a => RING_STAT.BYPA
  | .b => RING_STAT.BYPB

/-- A ring has been spliced. -/
def State.spliced (s : State) (r : RingId) : State :=
  let t := s.wr (bypField r) 0
  ({ t with ring := { t.ring with spliceT := bupd t.ring.spliceT (ringIx r) (fun _ => some t.clk) } }).incSat
    (RING_CNT3.SPLICE r)

theorem State.spliced_only (s : State) (r : RingId) : s.only (s.spliced r) [.ring, .regs] :=
  State.only_iff.2 (by simp [State.spliced])

theorem State.spliced_regsBut (s : State) (r : RingId) :
    s.regsBut (s.spliced r) [RING_STAT.BYPA, RING_STAT.BYPB, RING_CNT3.SPLICE r] := by
  have hbyp : bypField r ∈ [RING_STAT.BYPA, RING_STAT.BYPB, RING_CNT3.SPLICE r] := by cases r <;> simp [bypField]
  exact State.regsBut_wr (State.regsBut_trans (State.regsBut_wr (fun _ _ => rfl) hbyp 0) (State.regsBut_of_regs rfl _))
    (by simp) _

theorem State.spliced_count (s : State) (r : RingId) : (s.spliced r).rd (RING_CNT3.SPLICE r) =
    satU (RING_CNT3.SPLICE r).w (s.rd (RING_CNT3.SPLICE r) + 1) := by
  have hother : (s.wr (bypField r) 0).rd (RING_CNT3.SPLICE r) = s.rd (RING_CNT3.SPLICE r) :=
    State.rd_wr_other s 0 (by cases r <;> decide)
  rw [← hother]
  exact State.rd_incSat_same _ _

theorem State.spliced_bypass (s : State) (r : RingId) : (s.spliced r).bypass r = false := by
  have hzero (f : Fld) (hf : (RING_CNT3.SPLICE r).key ≠ f.key) (hr : bypField r = f) : (s.spliced r).rb f = false := by
    have hrd : (s.spliced r).rd f = 0 := by
      subst hr
      exact (State.rd_wr_other _ _ hf).trans (State.rd_wr_same s _ 0 |>.trans (Nat.zero_mod _))
    unfold State.rb
    rw [show (s.spliced r).regs.get f = 0 from hrd]
    rfl
  cases r with
  | a => exact hzero RING_STAT.BYPA (by decide) rfl
  | b => exact hzero RING_STAT.BYPB (by decide) rfl

/-- The words by which a device asks for its position. -/
def State.joinWords (s : State) : List Word := [wN (s.sec.uid % 2 ^ 32), wN (s.sec.uid / 2 ^ 32),
  if s.rb RING_STAT.POS_VALID then wN s.pos else 0xFFFFFFFF]

section
variable {s : State} {r : RingId}

/-- A splice whose time has come. -/
theorem exec_splice (hidle : s.idle = false) (hrole : s.role = 0) (hreset : s.ring.resetting = false)
    (hbyp : s.bypass r = true) (hrun : 16 ≤ (bget s.ring.lock (ringIx r)).1) (htick : s.now % 16 = s.sec.uid % 16)
    (hdue : s.sys.perNew.any (fun p => decide (p.2 = 0)) = false)
    (hturn : r = .a ∨ (∃ u ∈ bget s.ring.spliceT 0, u + 16 ≤ s.clk) ∨
      (bget s.ring.spliceT 0 = none ∧ ¬ (s.bypass .a = true ∧ 16 ≤ (bget s.ring.lock 0).1))) :
    exec (.splice r) s = .next (if !s.live ∧ 2 ≤ (s.spliced r).rd RING_STAT.STATE then
      (s.spliced r).mgmt 3 0 0 (s.spliced r).joinWords else s.spliced r) := by
  show execSplice r s = _
  unfold execSplice
  extract_lets run turn due first t ring u v
  have hmay : turn = true := by
    cases r with
    | a => rfl
    | b =>
      show (match RingId.b, bget s.ring.spliceT 0 with
        | .a, _ => true
        | .b, some t => decide (t + 16 ≤ s.clk)
        | .b, none => !(s.bypass .a && decide (16 ≤ run .a))) = true
      rcases hturn with h | ⟨u, hu, hlate⟩ | ⟨hnone, hother⟩
      · cases h
      · rw [Option.mem_def.1 hu]
        exact decide_eq_true hlate
      · rw [hnone]
        have hbget : run .a = (bget s.ring.lock 0).1 := rfl
        rw [← hbget] at hother
        by_cases hb : s.bypass .a = true
        · simp [hb, not_and.1 hother hb]
        · simp [hb]
  rw [if_pos ⟨hrole, by simp [hidle], by simp [hreset], hbyp, hrun, htick, hmay, by simp [due, hdue]⟩,
    apply_ite Host.Outcome.next]
  cases r with
  | a => rfl
  | b => rfl

/-- A member splices in the tick of its identifier and asks for a position. -/
theorem splice_opens (hidle : s.idle = false) (hrole : s.role = 0) (hreset : s.ring.resetting = false)
    (hbyp : s.bypass r = true) (hrun : 16 ≤ (bget s.ring.lock (ringIx r)).1) (htick : s.now % 16 = s.sec.uid % 16)
    (hdue : s.sys.perNew.any (fun p => decide (p.2 = 0)) = false)
    (hturn : r = .a ∨ (∃ u ∈ bget s.ring.spliceT 0, u + 16 ≤ s.clk) ∨
      (bget s.ring.spliceT 0 = none ∧ ¬ (s.bypass .a = true ∧ 16 ≤ (bget s.ring.lock 0).1))) :
    s.ends (.splice r) (fun t => t.bypass r = false ∧
      t.rd (RING_CNT3.SPLICE r) = satU (RING_CNT3.SPLICE r).w (s.rd (RING_CNT3.SPLICE r) + 1) ∧
      (s.live = false → 2 ≤ s.rd RING_STAT.STATE → s.mayClass 0 .mgmt = true →
        ∃ f ∈ t.ring.outq.getLast?, f.type = 7 ∧ f.dst = 0 ∧ f.arg.toNat % 256 = 3 ∧ f.ackreq = true) ∧
      s.only t [.ring, .regs] ∧ s.regsBut t [RING_STAT.BYPA, RING_STAT.BYPB, RING_CNT3.SPLICE r]) := by
  have hrd (f : Fld) (hf : ∀ g ∈ [RING_STAT.BYPA, RING_STAT.BYPB, RING_CNT3.SPLICE r], g.key ≠ f.key) :
      (s.spliced r).rd f = s.rd f := s.spliced_regsBut r f hf
  have hstate : (s.spliced r).rd RING_STAT.STATE = s.rd RING_STAT.STATE := hrd _ (by cases r <;> decide)
  refine ⟨_, exec_splice hidle hrole hreset hbyp hrun htick hdue hturn, ?_⟩
  rw [hstate]
  by_cases hask : (!s.live) = true ∧ 2 ≤ s.rd RING_STAT.STATE
  · have honly := (s.spliced r).mgmt_only 3 0 0 (s.spliced r).joinWords
    have hregs := honly.2 .regs (by decide)
    have hon : (s.spliced r).onRing = true := by
      have hrole' : (s.spliced r).role = s.role := hrd _ (by cases r <;> decide)
      unfold State.onRing
      rw [hrole', hrole]
      rfl
    rw [if_pos hask]
    refine ⟨?_, (State.rd_of_regs hregs _).trans (s.spliced_count r), fun _ _ hmay => ?_,
      State.only_trans (s.spliced_only r) (State.only_mono honly (by decide)),
      State.regsBut_trans (s.spliced_regsBut r) (State.regsBut_of_regs hregs _)⟩
    · rw [← s.spliced_bypass r]
      cases r with
      | a => exact State.rb_of_rd (State.rd_of_regs hregs _)
      | b => exact State.rb_of_rd (State.rd_of_regs hregs _)
    · obtain ⟨f, hf, htype, hdst, hsub, hack, -⟩ := State.mgmt_sends (s := s.spliced r) (sub := 3) (dst := 0) (arg := 0)
        (ws := (s.spliced r).joinWords) hon hmay (by decide)
      exact ⟨f, hf, htype, hdst, hsub, hack⟩
  · rw [if_neg hask]
    exact ⟨s.spliced_bypass r, s.spliced_count r, fun hlive hnormal => absurd ⟨by simp [hlive], hnormal⟩ hask,
      s.spliced_only r, s.spliced_regsBut r⟩

end

/-! ### Joining -/

section
variable {s : State} {f : Frame}

/-- The position that the head gives to a JOIN. -/
def State.joinGot (s : State) (f : Frame) : Option Nat :=
  let free (p : Nat) : Bool := decide (1 ≤ p ∧ p < 32) && !bitN (s.rd RING_PRESENT.PRES) p
  let want := wAt f.payload 2
  if s.rb RING_CTL.LATE_OK = false then none
  else if want ≠ noPos ∧ (free want.toNat = true ∨ s.vacant want.toNat
    ((wAt f.payload 0).toNat + 2 ^ 32 * (wAt f.payload 1).toNat) = true) then some want.toNat
  else (List.range 32).find? free

/-- What a JOIN finds does not depend on the frames. -/
theorem State.Took.joinGot {t : State} (h : s.Took f t) : t.joinGot f = s.joinGot f := by
  have hvacant (p id : Nat) : t.vacant p id = s.vacant p id := by
    unfold State.vacant State.clk
    rw [h.ring, show t.sys = s.sys from h.only.2 .sys (by decide)]
  unfold State.joinGot
  simp only [h.rd, State.rb_of_rd (h.rd _), hvacant]

/-- The head has noted the position that it gives. -/
def State.joinNoted (s : State) (f : Frame) (p : Nat) : State :=
  let t := s.wr RING_PRESENT.PRES (setBitN (s.rd RING_PRESENT.PRES) p)
  let t := t.wr RING_STAT.NPOS (max (t.rd RING_STAT.NPOS) (p + 1))
  { t with ring := { t.ring with
    uids := (p, (wAt f.payload 0).toNat + 2 ^ 32 * (wAt f.payload 1).toNat) :: t.ring.uids.filter (fun e => e.1 ≠ p)
    pdus := bupd t.ring.pdus (Fin.ofNat 32 p) (fun x => { x with at_ := t.clk }) } }

theorem State.joinNoted_pres (s : State) (f : Frame) (p : Nat) :
    (s.joinNoted f p).rd RING_PRESENT.PRES = setBitN (s.rd RING_PRESENT.PRES) p % 2 ^ 32 :=
  (State.rd_wr_other _ _ (by decide)).trans (State.rd_wr_same s RING_PRESENT.PRES _)

theorem State.joinNoted_role (s : State) (f : Frame) (p : Nat) : (s.joinNoted f p).role = s.role :=
  (State.rd_wr_other _ _ (by decide)).trans (State.rd_wr_other s _ (by decide))

theorem exec_join (hheads : s.headsRing) (h : s.hears f) (hnormal : 2 ≤ s.rd RING_STAT.STATE) :
    exec (.join f) s = .next (match s.joinGot f with
      | none => (s.takeFrame f true).1.mgmt 4 f.src.toNat 0 ([wAt f.payload 0, wAt f.payload 1] ++ [noPos])
      | some p => (((s.takeFrame f true).1.joinNoted f p).mgmt 4 p 0
          ([wAt f.payload 0, wAt f.payload 1] ++ [wN p])).ringEvent 2 p) := by
  obtain ⟨hok, htook⟩ := State.takeFrame_hears h true
  show execJoin f s = _
  unfold execJoin
  rw [if_neg (by rw [decide_eq_true (show s.role = 1 ∨ s.role = 2 from hheads)]; decide)]
  rw [← htook.joinGot]
  have hstate := htook.rd RING_STAT.STATE
  generalize s.takeFrame f true = p at hok htook hstate ⊢
  obtain ⟨t, ok⟩ := p
  dsimp only at hok htook hstate ⊢
  rw [if_neg (by simp [hok]; omega)]
  unfold State.joinGot
  cases t.rb RING_CTL.LATE_OK with
  | false => rfl
  | true =>
    rw [if_neg (show ¬ (!true) = true by decide), if_neg (show ¬ true = false by decide)]
    by_cases hwant : wAt f.payload 2 ≠ noPos ∧ ((decide (1 ≤ (wAt f.payload 2).toNat ∧ (wAt f.payload 2).toNat < 32) &&
        !bitN (t.rd RING_PRESENT.PRES) (wAt f.payload 2).toNat) = true ∨ t.vacant (wAt f.payload 2).toNat
          ((wAt f.payload 0).toNat + 2 ^ 32 * (wAt f.payload 1).toNat) = true)
    · rw [if_pos hwant]
      rfl
    · rw [if_neg hwant]
      generalize List.find? _ (List.range 32) = got
      cases got with
      | none => rfl
      | some p => rfl

/-- The head gives a position, or refuses. -/
theorem join_answers (hheads : s.headsRing) (h : s.hears f) (hnormal : 2 ≤ s.rd RING_STAT.STATE)
    (hmay : ∀ d : Nat, s.mayClass d .mgmt = true) : s.ends (.join f) (fun t =>
      (∃ g ∈ t.ring.outq.getLast?, g.type = 7 ∧ g.arg.toNat % 256 = 4 ∧
        g.payload = [wAt f.payload 0, wAt f.payload 1, match s.joinGot f with | some p => wN p | none => noPos]) ∧
      t.rd RING_PRESENT.PRES =
        (match s.joinGot f with | some p => setBitN (s.rd RING_PRESENT.PRES) p % 2 ^ 32 | none => s.rd RING_PRESENT.PRES)) := by
  obtain ⟨-, htook⟩ := State.takeFrame_hears h true
  refine ⟨_, exec_join hheads h hnormal, ?_⟩
  set t := (s.takeFrame f true).1
  have hon (u : State) (hu : u.role = s.role) : u.onRing = true := by
    unfold State.onRing
    rw [hu]
    rcases hheads with hr | hr
    · rw [hr]
      rfl
    · rw [hr]
      rfl
  cases s.joinGot f with
  | none =>
    have honly := t.mgmt_only 4 f.src.toNat 0 ([wAt f.payload 0, wAt f.payload 1] ++ [noPos])
    obtain ⟨g, hg, htype, -, hsub, -, hws⟩ := State.mgmt_sends (s := t) (sub := 4) (dst := f.src.toNat) (arg := 0)
      (ws := [wAt f.payload 0, wAt f.payload 1] ++ [noPos]) (hon t (htook.rd _)) ((htook.mayClass _ _).trans (hmay _)) (by decide)
    exact ⟨⟨g, hg, htype, hsub, hws⟩, (State.rd_of_regs (honly.2 .regs (by decide)) _).trans (htook.rd _)⟩
  | some p =>
    have honly := (t.joinNoted f p).mgmt_only 4 p 0 ([wAt f.payload 0, wAt f.payload 1] ++ [wN p])
    have hevent := ((t.joinNoted f p).mgmt 4 p 0 ([wAt f.payload 0, wAt f.payload 1] ++ [wN p])).ringEvent_only 2 p
    have hsends := State.mgmt_sends (s := t.joinNoted f p) (sub := 4) (dst := p) (arg := 0)
      (ws := [wAt f.payload 0, wAt f.payload 1] ++ [wN p]) (hon _ ((t.joinNoted_role f p).trans (htook.rd _)))
      ((htook.mayClass _ _).trans (hmay _)) (by decide)
    obtain ⟨g, hg, htype, -, hsub, -, hws⟩ := hsends.of_ring (hevent.2 .ring (by decide))
    refine ⟨⟨g, hg, htype, hsub, hws⟩, ?_⟩
    have hpres := t.joinNoted_pres f p
    rw [htook.rd] at hpres
    exact (State.rd_of_regs (hevent.2 .regs (by decide)) _).trans
      ((State.rd_of_regs (honly.2 .regs (by decide)) _).trans hpres)

/-- The joining device takes its position, or closes its bypasses. -/
theorem assign_takes (h : s.hears f) (hrole : s.role = 0)
    (hmine : (wAt f.payload 0).toNat + 2 ^ 32 * (wAt f.payload 1).toNat = s.sec.uid) : s.ends (.assign f) (fun t =>
      if wAt f.payload 2 = noPos then t.live = false ∧ t.rd RING_ERR.JOIN_REFUSED = 1
      else t.rd RING_STAT.POS = (wAt f.payload 2).toNat % 32 ∧ t.rb RING_STAT.POS_VALID = true ∧ t.live = s.live ∧
        t.rb RING_STAT.LATE = !(s.rb RING_STAT.POS_VALID && decide (s.pos = (wAt f.payload 2).toNat % 32))) := by
  obtain ⟨hok, htook⟩ := State.takeFrame_hears h false
  have hsec : (s.takeFrame f false).1.sec = s.sec := htook.only.2 .sec (by decide)
  have hexec : exec (.assign f) s = .next (if wAt f.payload 2 = noPos then
      ((((s.takeFrame f false).1.wr RING_STAT.BYPA 1).wr RING_STAT.BYPB 1).wr RING_ERR.JOIN_REFUSED 1)
    else
      ((((s.takeFrame f false).1.wr RING_STAT.POS ((wAt f.payload 2).toNat % 32)).wr RING_STAT.POS_VALID 1).wb RING_STAT.LATE
        !((s.takeFrame f false).1.rb RING_STAT.POS_VALID &&
          decide ((s.takeFrame f false).1.pos = (wAt f.payload 2).toNat % 32)))) := by
    show execAssign f s = _
    unfold execAssign
    rw [if_neg (by simp [hrole])]
    generalize s.takeFrame f false = p at hok hsec ⊢
    obtain ⟨t, ok⟩ := p
    dsimp only at hok hsec ⊢
    rw [if_neg (by rw [hok, hsec, decide_eq_true hmine]; decide)]
    split
    · rfl
    · rfl
  refine ⟨_, hexec, ?_⟩
  set t := (s.takeFrame f false).1
  by_cases hnone : wAt f.payload 2 = noPos
  · have hbyp (g : Fld) (hg : (((t.wr RING_STAT.BYPA 1).wr RING_STAT.BYPB 1).wr RING_ERR.JOIN_REFUSED 1).rd g = 1) :
        (((t.wr RING_STAT.BYPA 1).wr RING_STAT.BYPB 1).wr RING_ERR.JOIN_REFUSED 1).rb g = true := decide_eq_true hg
    rw [if_pos hnone, if_pos hnone]
    refine ⟨?_, State.rd_wr_same _ _ _⟩
    unfold State.live State.bypass
    dsimp only
    rw [hbyp RING_STAT.BYPA (by simp (disch := decide) only [State.rd_wr_other, State.rd_wr_same]; decide),
      hbyp RING_STAT.BYPB (by simp (disch := decide) only [State.rd_wr_other, State.rd_wr_same]; decide)]
    rfl
  · rw [if_neg hnone, if_neg hnone, State.rb_of_rd (htook.rd _), show t.pos = s.pos from htook.rd _]
    generalize (!(s.rb RING_STAT.POS_VALID && decide (s.pos = (wAt f.payload 2).toNat % 32))) = late
    have hkept (g : Fld) (hg : ∀ k ∈ [RING_STAT.POS, RING_STAT.POS_VALID, RING_STAT.LATE], k.key ≠ g.key) :
        (((t.wr RING_STAT.POS ((wAt f.payload 2).toNat % 32)).wr RING_STAT.POS_VALID 1).wb RING_STAT.LATE late).rd g = s.rd g := by
      rw [State.rd_wb_other _ _ (hg _ (by simp)), State.rd_wr_other _ _ (hg _ (by simp)), State.rd_wr_other _ _ (hg _ (by simp)),
        htook.rd]
    refine ⟨?_, decide_eq_true ?_, ?_, State.rb_wb_same _ _ _ (by decide)⟩
    · rw [State.rd_wb_other _ _ (by decide), State.rd_wr_other _ _ (by decide), State.rd_wr_same]
      exact Nat.mod_mod _ 32
    · exact (State.rd_wb_other _ late (by decide)).trans (State.rd_wr_same _ RING_STAT.POS_VALID 1)
    · unfold State.live State.bypass
      dsimp only
      rw [State.rb_of_rd (hkept RING_STAT.BYPA (by decide)), State.rb_of_rd (hkept RING_STAT.BYPB (by decide))]

end

/-! ### Enumeration, leaving and waking -/

section
variable {s : State}

/-- The head enters ENUM. -/
theorem enumStart_enters (hidle : s.idle = false) (hheads : s.headsRing) (hlive : s.live = true)
    (hdue : (s.rd RING_STAT.STATE = 0 ∧ (64 ≤ s.ring.hopRun ∨ s.msT 100 ≤ s.ring.trainT)) ∨
      (s.rd RING_STAT.STATE = 3 ∧ s.ring.enumT.any (fun u => decide (u ≤ s.clk)) = true)) :
    s.ends .enumStart (fun t => t.rd RING_STAT.STATE = 1 ∧ t.rd RING_STAT.NPOS = 0 ∧ t.ring.enumT = some (s.clk + 16) ∧
      s.only t [.ring, .regs] ∧ s.regsBut t [RING_STAT.STATE, RING_STAT.NPOS]) := by
  have hexec : exec .enumStart s = .next s.enterEnum := by
    show execEnumStart s = _
    unfold execEnumStart
    extract_lets due
    have hset : due = true := by
      rcases hdue with ⟨hzero, hlong⟩ | ⟨hthree, hlate⟩
      · exact (if_pos hzero).trans (decide_eq_true hlong)
      · exact (if_neg (by rw [hthree]; decide)).trans (by rw [hthree, hlate]; rfl)
    rw [if_pos ⟨hheads, hlive, by rw [hidle]; rfl, hset⟩]
  refine ⟨_, hexec, (State.rd_wr_other _ 0 (by decide)).trans (State.rd_wr_same _ RING_STAT.STATE 1), State.rd_wr_same _ _ _, rfl,
    State.only_iff.2 (by simp [State.enterEnum]), ?_⟩
  exact State.regsBut_wr (State.regsBut_wr (State.regsBut_of_regs rfl _) (by simp) 1) (by simp) 0

/-- ENUM has ended, before the event. -/
def State.enumEnded (s : State) (hop : Byte) : State :=
  let n := min 32 (1 + hop.toNat)
  let wrap := s.ring.down.toList.any id || !s.ring.onA || s.ring.wrapOn || s.ring.cross
  let t := if wrap then s.wr RING_ERR.WRAPPED 1 else s
  let t := ((t.wr RING_STAT.NPOS n).wr RING_PRESENT.PRES (2 ^ n - 1)).wr RING_STAT.STATE (if wrap then 3 else 2)
  { t with ring := { t.ring with
    enumT := none, wrapOn := wrap, pdus := bmap (fun (x : PduSeen) => { x with at_ := t.clk }) t.ring.pdus } }

theorem State.enumEnded_spec (s : State) (hop : Byte) :
    (s.enumEnded hop).rd RING_STAT.NPOS = min 32 (1 + hop.toNat) ∧
    (s.enumEnded hop).rd RING_PRESENT.PRES = 2 ^ min 32 (1 + hop.toNat) - 1 ∧
    (s.enumEnded hop).rd RING_STAT.STATE =
      (if s.ring.down.toList.any id || !s.ring.onA || s.ring.wrapOn || s.ring.cross then 3 else 2) ∧
    (s.enumEnded hop).ring.enumT = none ∧ s.only (s.enumEnded hop) [.ring, .regs] := by
  unfold State.enumEnded
  generalize (s.ring.down.toList.any id || !s.ring.onA || s.ring.wrapOn || s.ring.cross) = w
  extract_lets n wrap t u
  have hn : n ≤ 32 := Nat.min_le_left _ _
  have ht : s.only t [.ring, .regs] := by
    cases w with
    | false => exact State.only_refl _ _
    | true => exact State.wr_only (State.only_refl _ _) _ _ (by decide)
  have hu : s.only u [.ring, .regs] :=
    State.wr_only (State.wr_only (State.wr_only ht _ _ (by decide)) _ _ (by decide)) _ _ (by decide)
  have hpow : 2 ^ n ≤ 2 ^ 32 := Nat.pow_le_pow_right (by decide) hn
  refine ⟨?_, ?_, ?_, rfl, State.only_trans hu (State.only_iff.2 (by simp))⟩
  · refine (State.rd_wr_other _ _ (by decide)).trans ((State.rd_wr_other _ _ (by decide)).trans
      ((State.rd_wr_same t RING_STAT.NPOS n).trans (Nat.mod_eq_of_lt ?_)))
    show n < 2 ^ 6
    omega
  · refine (State.rd_wr_other _ _ (by decide)).trans ((State.rd_wr_same _ RING_PRESENT.PRES _).trans (Nat.mod_eq_of_lt ?_))
    show 2 ^ n - 1 < 2 ^ 32
    have := Nat.two_pow_pos n
    omega
  · refine (State.rd_wr_same _ RING_STAT.STATE _).trans ?_
    cases w with
    | false => rfl
    | true => rfl

/-- ENUM ends with the position count. -/
theorem enumEnd_ends (h : Byte) (hhead : s.isHead = true) (henum : s.rd RING_STAT.STATE = 1)
    (hlate : s.ring.enumT.any (fun u => decide (u ≤ s.clk)) = true) :
    s.ends (.enumEnd h) (fun t => t.rd RING_STAT.NPOS = min 32 (1 + h.toNat) ∧
      t.rd RING_PRESENT.PRES = 2 ^ min 32 (1 + h.toNat) - 1 ∧
      t.rd RING_STAT.STATE = (if s.ring.down.toList.any id || !s.ring.onA || s.ring.wrapOn || s.ring.cross then 3 else 2) ∧
      t.ring.enumT = none ∧ s.only t [.ring, .regs, .host]) := by
  have hexec : exec (.enumEnd h) s = .next ((s.enumEnded h).ringEvent 1 0) := by
    show execEnumEnd h s = _
    unfold execEnumEnd
    rw [if_pos ⟨henum, hlate, hhead⟩]
    rfl
  have hevent := (s.enumEnded h).ringEvent_only 1 0
  have hregs := State.rd_of_regs (hevent.2 .regs (by decide))
  have hring : ((s.enumEnded h).ringEvent 1 0).ring = (s.enumEnded h).ring := hevent.2 .ring (by decide)
  obtain ⟨hnpos, hpres, hstate, hnone, honly⟩ := s.enumEnded_spec h
  exact ⟨_, hexec, (hregs _).trans hnpos, (hregs _).trans hpres, (hregs _).trans hstate, by rw [hring]; exact hnone,
    State.only_trans (State.only_mono honly (by decide)) (State.only_mono hevent (by decide))⟩

/-- A position whose safety PDU is missing for 64 ticks leaves. -/
theorem positionLeave_leaves (hidle : s.idle = false) (p : Pos) (hheads : s.headsRing)
    (hpres : bitN (s.rd RING_PRESENT.PRES) p.val = true) (hp : p ≠ 0) (hlate : (bget s.ring.pdus p).at_ + 64 ≤ s.clk) :
    s.ends (.positionLeave p) (fun t => t.rd RING_PRESENT.PRES = clrBitN (s.rd RING_PRESENT.PRES) p.val % 2 ^ 32 ∧
      t.rd RING_ERR.LEAVE = 1 ∧ s.only t [.regs, .host] ∧ s.regsBut t [RING_PRESENT.PRES, RING_ERR.LEAVE]) := by
  have hexec : exec (.positionLeave p) s =
      .next (((s.clrFBit RING_PRESENT.PRES p.val).wr RING_ERR.LEAVE 1).ringEvent 3 p.val) := by
    show execPositionLeave p s = _
    unfold execPositionLeave
    exact if_pos ⟨hheads, hpres, fun h => hp (Fin.ext h), hlate, by rw [hidle]; rfl⟩
  have hevent := ((s.clrFBit RING_PRESENT.PRES p.val).wr RING_ERR.LEAVE 1).ringEvent_only 3 p.val
  have hregs := hevent.2 .regs (by decide)
  refine ⟨_, hexec, ?_, (State.rd_of_regs hregs _).trans (State.rd_wr_same _ _ _), State.only_trans ?_
    (State.only_mono hevent (by decide)), State.regsBut_trans (State.regsBut_wr ?_ (by simp) 1) (State.regsBut_of_regs hregs _)⟩
  · exact (State.rd_of_regs hregs _).trans ((State.rd_wr_other _ 1 (by decide)).trans (State.rd_wr_same _ RING_PRESENT.PRES _))
  · exact State.only_iff.2 (by simp [State.clrFBit])
  · exact State.regsBut_wr (fun _ _ => rfl) (by simp) _

/-- A wake burst goes out. -/
theorem wakeBurst_goes (hidle : s.idle = false) (hbursts : 0 < s.ring.bursts) (hlong : s.msT 50 ≤ s.ring.burstT) :
    s.ends .wakeBurst (fun t => t.ring.bursts + 1 = s.ring.bursts ∧ t.ring.burstT = 0 ∧ t.bursting = true ∧
      t.out = .wake :: s.out ∧ s.only t [.ring, .out]) := by
  have hexec : exec .wakeBurst s = .next (({ s with ring := { s.ring with
      bursts := s.ring.bursts - 1, burstT := 0, quietTo := some (s.clk + (5999 + s.per) / s.per) } } : State).emit .wake) :=
    if_pos ⟨hbursts, by rw [hidle]; rfl, hlong⟩
  refine ⟨_, hexec, Nat.sub_add_cancel hbursts, rfl, ?_, rfl, State.only_iff.2 (by simp [State.emit])⟩
  show decide (s.clk ≤ s.clk + (5999 + s.per) / s.per) = true
  exact decide_eq_true (Nat.le_add_right _ _)

end

end Sys2Proof.Machine
end

section
open Sys2Proof Sys2Proof.Machine

/-- Settles O41, row by row. -/
theorem joiningAndEnumeration : Obligations.JoiningAndEnumeration := by
  unfold Obligations.JoiningAndEnumeration
  intro s hidle
  exact ⟨fun r hrole hreset hbyp hrun htick hdue hturn => splice_opens hidle hrole hreset hbyp hrun htick hdue hturn,
    fun f hf => ⟨fun hheads hnormal hmay => join_answers hheads hf hnormal hmay,
      fun hrole hmine => assign_takes hf hrole hmine⟩,
    enumStart_enters hidle, enumEnd_ends, positionLeave_leaves hidle, wakeBurst_goes hidle⟩

end


section
/-!
SUPPORT. Breaks of the ring, their repair, and what members tell the head (R494 to R497, R511, R532 to R537).
-/

namespace Sys2Proof.Machine

/-! ### A span that has failed -/

/-- A span has failed: the flag stands, the source is active, and the ring is as it was. -/
theorem State.spanFail_spec {s : State} (hq : s.quiet 57) (p : Nat) : (s.spanFail p).rd RING_ERR.SPAN_FAIL = 1 ∧
    (s.spanFail p).active 57 = true ∧ (s.spanFail p).ring = s.ring := by
  have hreacted : Reacted (s.wr RING_ERR.SPAN_FAIL 1) ((s.wr RING_ERR.SPAN_FAIL 1).raiseDev 57) :=
    Reacted.raiseAs (.refl _) 57 0 _ hq
  have hactive : ((s.wr RING_ERR.SPAN_FAIL 1).raiseDev 57).active 57 = true :=
    State.raiseAs_active (s := s.wr RING_ERR.SPAN_FAIL 1) 0 _ hq (by decide)
  have hevent := ((s.wr RING_ERR.SPAN_FAIL 1).raiseDev 57).ringEvent_only 6 p
  refine ⟨?_, ?_, (hevent.2 .ring (by decide)).trans (hreacted.only.2 .ring (by decide))⟩
  · exact (State.rd_of_regs (hevent.2 .regs (by decide)) _).trans
      ((hreacted.regs RING_ERR.SPAN_FAIL (by decide)).trans (State.rd_wr_same _ _ _))
  · rw [← hactive]
    unfold State.active State.src
    rw [show (s.spanFail p).flt = _ from hevent.2 .flt (by decide)]

/-- The head has been told of a failed span: at the head the source is active, a member sends SPAN. -/
def State.SpanTold (s t : State) (r : RingId) : Prop :=
  (s.isHead = true → t.rd RING_ERR.SPAN_FAIL = 1 ∧ t.active 57 = true) ∧
  (s.isHead = false → s.mayClass 0 .mgmt = true → ∃ f ∈ t.ring.outq.getLast?, f.type = 7 ∧
    f.arg.toNat % 256 = 8 ∧ f.ackreq = true ∧ f.payload = [s.wrapWord r])

/-- A member is on its ring. -/
theorem State.onRing_of_member {s : State} (h : s.isHead = false) : s.onRing = true := by
  have hrole : s.role = 0 := by simpa [State.isHead] using h
  unfold State.onRing
  rw [hrole]
  rfl

/-- A device tells the head of a failed span, and of the ring nothing but what waits to be sent changes. -/
theorem State.spanSend_told {s : State} (r : RingId) (hq : s.isHead = true → s.quiet 57) :
    s.SpanTold (s.spanSend r) r ∧ (s.spanSend r).ring.down = s.ring.down ∧
      (s.spanSend r).ring.wrapDue = s.ring.wrapDue := by
  unfold State.spanSend
  cases hhead : s.isHead with
  | true =>
    obtain ⟨hflag, hactive, hring⟩ := State.spanFail_spec (hq hhead) 0
    rw [if_pos rfl, hring]
    exact ⟨⟨fun _ => ⟨hflag, hactive⟩, fun h => absurd (hhead.symm.trans h) (by decide)⟩, rfl, rfl⟩
  | false =>
    rw [if_neg Bool.false_ne_true]
    refine ⟨⟨fun h => absurd (hhead.symm.trans h) (by decide), fun _ hmay => ?_⟩, ?_⟩
    · obtain ⟨f, hf, htype, -, hsub, hack, hws⟩ := State.mgmt_sends (sub := 8) (arg := 0) (ws := [s.wrapWord r])
        (State.onRing_of_member hhead) hmay (by decide)
      exact ⟨f, hf, htype, hsub, hack, hws⟩
    · unfold State.mgmt State.send State.queueFrame
      dsimp only
      split
      · split
        · exact ⟨rfl, rfl⟩
        · exact ⟨rfl, rfl⟩
      · exact ⟨rfl, rfl⟩

/-! ### An input that goes down -/

section
variable {s : State} {r : RingId} {why : DownWhy}

theorem exec_ringInputDown_not (h : s.downHolds r why = false) : exec (.ringInputDown r why) s = .next s := by
  show execRingInputDown r why s = _
  unfold execRingInputDown
  rw [if_pos (by simp [h])]

theorem exec_ringInputDown_span (hidle : s.idle = false) (hreset : s.ring.resetting = false) (hon : s.onRing = true)
    (h : s.downHolds r .span = true) :
    exec (.ringInputDown r .span) s = .next (if s.live then s.spanSend r else s) := by
  show execRingInputDown r .span s = _
  unfold execRingInputDown
  rw [if_neg (by simp [hidle, hreset, hon, h]), if_pos rfl]

/-- An input down for a reason of R532, before the device wraps. -/
def State.inputLost (s : State) (r : RingId) (why : DownWhy) : State :=
  if why = .lock then s.lockLost r 1 else s

/-- An input is declared down: the wrap is due at the next boundary. -/
def State.inputDown (s : State) (r : RingId) : State :=
  { s with ring := { s.ring with
    down := bupd s.ring.down (ringIx r) (fun _ => true), wrapDue := bupd s.ring.wrapDue (ringIx r) (fun _ => true) } }

theorem exec_ringInputDown (hidle : s.idle = false) (hreset : s.ring.resetting = false) (hon : s.onRing = true)
    (hwhy : why ≠ .span) (h : s.downHolds r why = true) :
    exec (.ringInputDown r why) s = .next (if (s.inputLost r why).bypass r = true ∨
        bget (s.inputLost r why).ring.down (ringIx r) = true then s.inputLost r why
      else if why = .code then ((s.inputLost r why).inputDown r).spanSend r else (s.inputLost r why).inputDown r) := by
  show execRingInputDown r why s = _
  unfold execRingInputDown
  rw [if_neg (by simp [hidle, hreset, hon, h]), if_neg hwhy, apply_ite Host.Outcome.next]
  rfl

/-- The fields that a loss of lock writes. -/
def errLock : RingId → Fld
  | .a => RING_ERR.LOCK_A
  | .b => RING_ERR.LOCK_B

def linkField : RingId → Fld
  | .a => RING_STAT.LINKA
  | .b => RING_STAT.LINKB

theorem State.lockLost_eq (s : State) (r : RingId) (n : Nat) :
    s.lockLost r n = ((({ s with ring := { s.ring with
        lock := bupd s.ring.lock (ringIx r) (fun l => (0, l.2)) } } : State).wr (errLock r) 1).wr (linkField r) 0).wr
      (RING_CNT0.LOCK r) (satU 16 (s.rd (RING_CNT0.LOCK r) + n)) := by
  unfold State.lockLost
  extract_lets ring t u
  have hu : u = (t.wr (errLock r) 1).wr (linkField r) 0 := by cases r <;> rfl
  have hcount : u.rd (RING_CNT0.LOCK r) = s.rd (RING_CNT0.LOCK r) := by
    rw [hu, State.rd_wr_other _ _ (by cases r <;> decide), State.rd_wr_other _ _ (by cases r <;> decide)]
    rfl
  rw [hcount, hu]

/-- A loss of lock is noted. -/
theorem State.lockLost_spec (s : State) (r : RingId) : (s.lockLost r 1).rd (errLock r) = 1 ∧
    (s.lockLost r 1).rd (linkField r) = 0 ∧
    (s.lockLost r 1).rd (RING_CNT0.LOCK r) = satU 16 (s.rd (RING_CNT0.LOCK r) + 1) ∧
    (bget (s.lockLost r 1).ring.lock (ringIx r)).1 = 0 ∧ s.only (s.lockLost r 1) [.ring, .regs] ∧
    (s.lockLost r 1).ring.down = s.ring.down ∧ (s.lockLost r 1).ring.wrapDue = s.ring.wrapDue ∧
    (s.lockLost r 1).bypass r = s.bypass r := by
  rw [s.lockLost_eq r 1]
  have hsat : satU 16 (s.rd (RING_CNT0.LOCK r) + 1) < 2 ^ 16 := by
    unfold satU
    omega
  refine ⟨?_, ?_, ?_, ?_, State.only_iff.2 (by simp), rfl, rfl, ?_⟩
  · cases r <;> simp (disch := decide) only [State.rd_wr_other, State.rd_wr_same, errLock] <;> decide
  · cases r <;> simp (disch := decide) only [State.rd_wr_other, State.rd_wr_same, linkField] <;> decide
  · rw [State.rd_wr_same]
    exact Nat.mod_eq_of_lt hsat
  · show (bget (bupd s.ring.lock (ringIx r) _) (ringIx r)).1 = 0
    rw [bget_bupd_same]
  · cases r with
    | a => exact State.rb_of_rd (f := RING_STAT.BYPA) (by simp (disch := decide) only [State.rd_wr_other, errLock, linkField]; rfl)
    | b => exact State.rb_of_rd (f := RING_STAT.BYPB) (by simp (disch := decide) only [State.rd_wr_other, errLock, linkField]; rfl)

/-- For the reasons other than a loss of lock nothing has changed yet. -/
theorem State.inputLost_spec (s : State) (r : RingId) (why : DownWhy) : s.only (s.inputLost r why) [.ring, .regs] ∧
    (s.inputLost r why).ring.down = s.ring.down ∧ (s.inputLost r why).ring.wrapDue = s.ring.wrapDue ∧
    (s.inputLost r why).bypass r = s.bypass r := by
  unfold State.inputLost
  split
  · obtain ⟨-, -, -, -, honly, hdown, hdue, hbyp⟩ := s.lockLost_spec r
    exact ⟨honly, hdown, hdue, hbyp⟩
  · exact ⟨State.only_refl _ _, rfl, rfl, rfl⟩

/-- What a loss of lock leaves to be read. -/
def State.LockNoted (s t : State) (r : RingId) : Prop :=
  t.rd (errLock r) = 1 ∧ t.rd (linkField r) = 0 ∧ t.rd (RING_CNT0.LOCK r) = satU 16 (s.rd (RING_CNT0.LOCK r) + 1) ∧
    (bget t.ring.lock (ringIx r)).1 = 0 ∧ s.only t [.ring, .regs]

/-- An input goes down: unless it was, or is bypassed, the device wraps at the next boundary. -/
theorem ringInputDown_wraps (hidle : s.idle = false) (hreset : s.ring.resetting = false) (hon : s.onRing = true)
    (hwhy : why ≠ .span) (h : s.downHolds r why = true) (hq : why = .code → s.isHead = true → s.quiet 57) :
    s.ends (.ringInputDown r why) (fun t =>
      (s.bypass r = false ∧ bget s.ring.down (ringIx r) = false →
        bget t.ring.down (ringIx r) = true ∧ bget t.ring.wrapDue (ringIx r) = true) ∧
      (¬ (s.bypass r = false ∧ bget s.ring.down (ringIx r) = false) →
        t.ring.down = s.ring.down ∧ t.ring.wrapDue = s.ring.wrapDue) ∧
      (why = .lock → s.LockNoted t r) ∧ (why = .pennant → s.only t [.ring]) ∧
      (why = .code → s.bypass r = false ∧ bget s.ring.down (ringIx r) = false → s.SpanTold t r)) := by
  obtain ⟨honly, hdown, hdue, hbyp⟩ := s.inputLost_spec r why
  have hnoted (hlock : why = .lock) : s.LockNoted (s.inputLost r why) r := by
    obtain ⟨h1, h2, h3, h4, h5, -, -, -⟩ := s.lockLost_spec r
    unfold State.inputLost
    rw [if_pos hlock]
    exact ⟨h1, h2, h3, h4, h5⟩
  have hsame (hother : why ≠ .lock) : s.inputLost r why = s := if_neg hother
  refine ⟨_, exec_ringInputDown hidle hreset hon hwhy h, ?_⟩
  rw [hbyp, hdown]
  by_cases hfresh : s.bypass r = false ∧ bget s.ring.down (ringIx r) = false
  · have hset : bget ((s.inputLost r why).inputDown r).ring.down (ringIx r) = true ∧
        bget ((s.inputLost r why).inputDown r).ring.wrapDue (ringIx r) = true :=
      ⟨bget_bupd_same _ _ _, bget_bupd_same _ _ _⟩
    rw [if_neg (by simp [hfresh.1, hfresh.2])]
    by_cases hcode : why = .code
    · have hs := hsame (by rw [hcode]; decide)
      rw [hs] at hset ⊢
      obtain ⟨htold, hd, hw⟩ := State.spanSend_told (s := s.inputDown r) r (hq hcode)
      rw [if_pos hcode]
      rw [← hd, ← hw] at hset
      exact ⟨fun _ => hset, fun hn => absurd hfresh hn, fun hl => absurd (hcode.symm.trans hl) (by decide),
        fun hl => absurd (hcode.symm.trans hl) (by decide), fun _ _ => htold⟩
    · rw [if_neg hcode]
      refine ⟨fun _ => hset, fun hn => absurd hfresh hn, fun hl => ?_, fun hp => ?_, fun hc => absurd hc hcode⟩
      · obtain ⟨h1, h2, h3, h4, h5⟩ := hnoted hl
        exact ⟨h1, h2, h3, h4, State.only_trans h5 (State.only_iff.2 (by simp [State.inputDown]))⟩
      · rw [hsame (by rw [hp]; decide)]
        exact State.only_iff.2 (by simp [State.inputDown])
  · have hstay : s.bypass r = true ∨ bget s.ring.down (ringIx r) = true := by
      cases hb : s.bypass r with
      | true => exact .inl rfl
      | false => exact .inr (by simpa [hb] using hfresh)
    rw [if_pos hstay]
    refine ⟨fun hf => absurd hf hfresh, fun _ => ⟨hdown, hdue⟩, hnoted, fun hp => ?_, fun _ hf => absurd hf hfresh⟩
    rw [hsame (by rw [hp]; decide)]
    exact State.only_refl _ _

end

/-! ### The wrap and its end -/

/-- The field of a wrap. -/
def wrapField : RingId → Fld
  | .a => RING_STAT.WRAPA
  | .b => RING_STAT.WRAPB

/-- The wrap of an input, before the head is told. -/
def State.wrapMade (s : State) (r : RingId) : State :=
  ((({ s with ring := { s.ring with wrapDue := bupd s.ring.wrapDue (ringIx r) (fun _ => false) } } : State).wr
    (wrapField r) 1).wr RING_ERR.WRAPPED 1).incSat (RING_CNT3.WRAP r)

theorem State.wrapNow_eq {s : State} {r : RingId} (hdue : bget s.ring.wrapDue (ringIx r) = true) :
    s.wrapNow r = if s.isHead then (s.wrapMade r).enterWrapped 0 (r = RingId.a)
      else (s.wrapMade r).mgmt 5 0 0 [s.wrapWord r] := by
  have hmade (f : Fld) (hf : f ∈ [SYS_STRAP.ROLE, RING_STAT.POS]) : (s.wrapMade r).rd f = s.rd f := by
    have hkeys : (RING_CNT3.WRAP r).key ≠ f.key ∧ RING_ERR.WRAPPED.key ≠ f.key ∧ (wrapField r).key ≠ f.key := by
      revert hf f
      cases r <;> decide
    exact (State.rd_incSat_other _ hkeys.1).trans ((State.rd_wr_other _ _ hkeys.2.1).trans (State.rd_wr_other _ _ hkeys.2.2))
  have hhead : (s.wrapMade r).isHead = s.isHead := by
    unfold State.isHead State.role
    rw [hmade _ (by simp)]
  have hword : (s.wrapMade r).wrapWord r = s.wrapWord r := by
    unfold State.wrapWord State.pos
    rw [hmade _ (by simp)]
  rw [← hhead, ← hword]
  unfold State.wrapNow
  rw [if_neg (by simp [hdue])]
  cases r with
  | a => rfl
  | b => rfl

/-- The head enters WRAPPED. -/
theorem State.enterWrapped_spec (s : State) (p : Nat) (onA : Bool) : (s.enterWrapped p onA).rd RING_STAT.STATE = 3 ∧
    (s.enterWrapped p onA).rd RING_ERR.WRAPPED = 1 ∧
    (∀ f : Fld, RING_STAT.STATE.key ≠ f.key → RING_ERR.WRAPPED.key ≠ f.key → (s.enterWrapped p onA).rd f = s.rd f) ∧
    (s.enterWrapped p onA).ring.wrapDue = s.ring.wrapDue ∧ s.only (s.enterWrapped p onA) [.ring, .regs, .host] := by
  unfold State.enterWrapped
  extract_lets ring t
  have hevent := ((t.wr RING_STAT.STATE 3).wr RING_ERR.WRAPPED 1).ringEvent_only 4 p
  have hrd := State.rd_of_regs (hevent.2 .regs (by decide))
  refine ⟨(hrd _).trans ((State.rd_wr_other _ 1 (by decide)).trans (State.rd_wr_same _ RING_STAT.STATE 3)),
    (hrd _).trans (State.rd_wr_same _ RING_ERR.WRAPPED 1),
    fun f h1 h2 => (hrd _).trans ((State.rd_wr_other _ 1 h2).trans (State.rd_wr_other _ 3 h1)),
    (congrArg RingS.wrapDue (hevent.2 .ring (by decide))).trans rfl, State.only_trans ?_ (State.only_mono hevent (by decide))⟩
  exact State.only_iff.2 (by simp [t])

theorem State.send_wrapDue (s : State) (ty dst : Nat) (ack : Bool) (arg : Nat) (ws : List Word) :
    (s.send ty dst ack arg ws).ring.wrapDue = s.ring.wrapDue := by
  unfold State.send
  dsimp only
  split
  · rfl
  · rfl

/-- A device wraps and the head is told. -/
theorem State.wrapNow_wraps {s : State} {r : RingId} (hdue : bget s.ring.wrapDue (ringIx r) = true) :
    (s.wrapNow r).rd (wrapField r) = 1 ∧ (s.wrapNow r).rd RING_ERR.WRAPPED = 1 ∧
      bget (s.wrapNow r).ring.wrapDue (ringIx r) = false ∧ (s.isHead = true → (s.wrapNow r).rd RING_STAT.STATE = 3) ∧
      (s.isHead = false → s.mayClass 0 .mgmt = true → ∃ f ∈ (s.wrapNow r).ring.outq.getLast?, f.type = 7 ∧
        f.arg.toNat % 256 = 5 ∧ f.ackreq = true ∧ f.payload = [s.wrapWord r]) := by
  have hnow := State.wrapNow_eq hdue
  have hfield : (s.wrapMade r).rd (wrapField r) = 1 := by
    refine (State.rd_incSat_other _ (by cases r <;> decide)).trans ((State.rd_wr_other _ _ (by cases r <;> decide)).trans
      ((State.rd_wr_same _ (wrapField r) 1).trans ?_))
    cases r <;> rfl
  have hdone : bget (s.wrapMade r).ring.wrapDue (ringIx r) = false := bget_bupd_same _ _ _
  rw [hnow]
  cases hhead : s.isHead with
  | true =>
    obtain ⟨hstate, hwrapped, hrd, hring, -⟩ := (s.wrapMade r).enterWrapped_spec 0 (r = RingId.a)
    rw [if_pos rfl]
    refine ⟨(hrd _ (by cases r <;> decide) (by cases r <;> decide)).trans hfield, hwrapped, ?_, fun _ => hstate, nofun⟩
    rw [hring]
    exact hdone
  | false =>
    have honly := (s.wrapMade r).mgmt_only 5 0 0 [s.wrapWord r]
    have hrd := State.rd_of_regs (honly.2 .regs (by decide))
    rw [if_neg Bool.false_ne_true]
    refine ⟨(hrd _).trans hfield, (hrd _).trans ((State.rd_incSat_other _ (by cases r <;> decide)).trans
      (State.rd_wr_same _ RING_ERR.WRAPPED 1)), ?_, nofun, fun _ hmay => ?_⟩
    · unfold State.mgmt
      split
      · rw [State.send_wrapDue]
        exact hdone
      · exact hdone
    · have hon : (s.wrapMade r).onRing = true := by
        have hrole : (s.wrapMade r).role = s.role := (State.rd_incSat_other _ (by cases r <;> decide)).trans
          ((State.rd_wr_other _ _ (by decide)).trans (State.rd_wr_other _ _ (by cases r <;> decide)))
        unfold State.onRing
        rw [hrole]
        exact State.onRing_of_member hhead
      obtain ⟨f, hf, htype, -, hsub, hack, hws⟩ := State.mgmt_sends (s := s.wrapMade r) (sub := 5) (dst := 0) (arg := 0)
        (ws := [s.wrapWord r]) hon hmay (by decide)
      exact ⟨f, hf, htype, hsub, hack, hws⟩

/-- The end of a break is noted, and of the state the ring alone changes. -/
theorem State.noteRestore_spec (s : State) (p : Nat) :
    (s.noteRestore p).ring.restored.any (fun e => decide (e.1 = p)) = true ∧ s.only (s.noteRestore p) [.ring] := by
  unfold State.noteRestore
  extract_lets l ring t at_ ring' u
  have hany : l.any (fun e => decide (e.1 = p)) = true := by
    show (if s.ring.restored.any (fun e => decide (e.1 = p)) then s.ring.restored else
      s.ring.restored ++ [(p, true)]).any _ = true
    split
    · assumption
    · simp
  have ht : s.only t [.ring] := State.only_iff.2 (by simp [t])
  split
  · have hfold (es : List (Nat × Bool)) (v : State) (hv : v.ring.restored = l ∧ s.only v [.ring]) :
        (es.foldl (fun s e => if e.1 = s.pos then s else s.mgmt 6 e.1 at_ []) v).ring.restored = l ∧
          s.only (es.foldl (fun s e => if e.1 = s.pos then s else s.mgmt 6 e.1 at_ []) v) [.ring] := by
      induction es generalizing v with
      | nil => exact hv
      | cons e es ih =>
        refine ih _ ?_
        dsimp only
        split
        · exact hv
        · refine ⟨?_, State.only_trans hv.2 (v.mgmt_only _ _ _ _)⟩
          rw [← hv.1]
          unfold State.mgmt State.send State.queueFrame
          dsimp only
          split
          · split
            · rfl
            · rfl
          · rfl
    obtain ⟨hrestored, honly⟩ := hfold l u ⟨rfl, State.only_iff.2 (by simp [u, t])⟩
    rw [hrestored]
    exact ⟨hany, honly⟩
  · exact ⟨hany, ht⟩

/-- The ends of a break are back, before the state of the ring says so. -/
def State.mended (s : State) : State :=
  ((({ s with ring := { s.ring with
      unwrapAt := none, restored := [], down := Vector.replicate 2 false, onA := true, wrapOn := false } } : State).wr
    RING_STAT.WRAPA 0).wr RING_STAT.WRAPB 0).condGone 57 0

theorem State.mended_spec (s : State) : s.mended.rd RING_STAT.WRAPA = 0 ∧ s.mended.rd RING_STAT.WRAPB = 0 ∧
    s.mended.isHead = s.isHead ∧ s.mended.ring.unwrapAt = none ∧ (∀ r : RingId, bget s.mended.ring.down (ringIx r) = false) ∧
    s.only s.mended [.ring, .regs, .flt, .host] := by
  have hrole : s.mended.rd SYS_STRAP.ROLE = s.rd SYS_STRAP.ROLE := by
    show ((State.wr _ RING_STAT.WRAPA 0).wr RING_STAT.WRAPB 0).rd SYS_STRAP.ROLE = _
    rw [State.rd_wr_other _ _ (by decide), State.rd_wr_other _ _ (by decide)]
    rfl
  have hzero : s.mended.rd RING_STAT.WRAPA = 0 := by
    show ((State.wr _ RING_STAT.WRAPA 0).wr RING_STAT.WRAPB 0).rd RING_STAT.WRAPA = 0
    rw [State.rd_wr_other _ _ (by decide), State.rd_wr_same]
    rfl
  refine ⟨hzero, State.rd_wr_same _ RING_STAT.WRAPB 0, ?_, rfl, fun r => ?_, ?_⟩
  · unfold State.isHead State.role
    rw [hrole]
  · cases r with
    | a => rfl
    | b => rfl
  · exact State.only_trans (State.only_iff.2 (by simp)) (State.only_mono (State.condGone_only _ 57 0) (by decide))

/-- The ring is restored at its boundary. -/
theorem restoreBoundary_restores {s : State} {u : Nat} (hat : s.ring.unwrapAt = some u) (hu : u ≤ s.now) :
    s.ends .restoreBoundary (fun t => t.ring.unwrapAt = none ∧ t.rd RING_STAT.STATE = 2 ∧ t.rd RING_STAT.WRAPA = 0 ∧
      t.rd RING_STAT.WRAPB = 0 ∧ (∀ r : RingId, bget t.ring.down (ringIx r) = false) ∧
      s.only t [.ring, .regs, .flt, .host]) := by
  obtain ⟨ha, hb, hhead, hnone, hdown, honly⟩ := s.mended_spec
  have hexec : exec .restoreBoundary s = .next (if s.isHead then (s.mended.wr RING_STAT.STATE 2).ringEvent 5 0
      else s.mended.wr RING_STAT.STATE 2) := by
    show execRestoreBoundary s = _
    unfold execRestoreBoundary
    rw [if_pos (by rw [hat]; exact decide_eq_true hu), ← hhead]
    rfl
  have hw : s.only (s.mended.wr RING_STAT.STATE 2) [.ring, .regs, .flt, .host] := State.wr_only honly _ _ (by decide)
  have hstate := State.rd_wr_same s.mended RING_STAT.STATE 2
  have hwa := (State.rd_wr_other s.mended 2 (show RING_STAT.STATE.key ≠ RING_STAT.WRAPA.key by decide)).trans ha
  have hwb := (State.rd_wr_other s.mended 2 (show RING_STAT.STATE.key ≠ RING_STAT.WRAPB.key by decide)).trans hb
  refine ⟨_, hexec, ?_⟩
  split
  · have hevent := (s.mended.wr RING_STAT.STATE 2).ringEvent_only 5 0
    have hrd := State.rd_of_regs (hevent.2 .regs (by decide))
    have hring : ((s.mended.wr RING_STAT.STATE 2).ringEvent 5 0).ring = s.mended.ring := hevent.2 .ring (by decide)
    rw [hring]
    exact ⟨hnone, (hrd _).trans hstate, (hrd _).trans hwa, (hrd _).trans hwb, hdown,
      State.only_trans hw (State.only_mono hevent (by decide))⟩
  · exact ⟨hnone, hstate, hwa, hwb, hdown, hw⟩

/-! ### What members tell the head -/

section
variable {s : State} {f : Frame}

/-- The flag of a frame that reaches the device. -/
theorem State.takeFrame_pair (h : s.hears f) (mayAck : Bool) :
    s.takeFrame f mayAck = ((s.takeFrame f mayAck).1, true) := by
  rw [← (State.takeFrame_hears h mayAck).1]

theorem exec_wrap (hheads : s.headsRing) (h : s.hears f) : exec (.wrap f) s =
    .next ((s.takeFrame f true).1.enterWrapped ((wAt f.payload 0).toNat % 32)
      ((wAt f.payload 0).getLsbD 8 || decide ((wAt f.payload 0).toNat % 32 ≠ (s.takeFrame f true).1.firstPos))) := by
  show execWrap f s = _
  unfold execWrap
  rw [if_neg (by rw [decide_eq_true (show s.role = 1 ∨ s.role = 2 from hheads)]; decide), State.takeFrame_pair h true]
  rfl

theorem exec_span (hheads : s.headsRing) (h : s.hears f) : exec (.span f) s =
    .next ((s.takeFrame f true).1.spanFail ((wAt f.payload 0).toNat % 32)) := by
  show execSpan f s = _
  unfold execSpan
  rw [if_neg (by rw [decide_eq_true (show s.role = 1 ∨ s.role = 2 from hheads)]; decide), State.takeFrame_pair h true]
  rfl

theorem wrap_enters (hheads : s.headsRing) (h : s.hears f) : s.ends (.wrap f) (fun t => t.rd RING_STAT.STATE = 3 ∧
    t.rd RING_ERR.WRAPPED = 1 ∧ t.out = (s.passOn f).out ∧ s.only t [.ring, .regs, .host, .out]) := by
  obtain ⟨-, htook⟩ := State.takeFrame_hears h true
  obtain ⟨hstate, hwrapped, -, -, honly⟩ := (s.takeFrame f true).1.enterWrapped_spec ((wAt f.payload 0).toNat % 32)
    ((wAt f.payload 0).getLsbD 8 || decide ((wAt f.payload 0).toNat % 32 ≠ (s.takeFrame f true).1.firstPos))
  exact ⟨_, exec_wrap hheads h, hstate, hwrapped, (honly.2 .out (by decide)).trans htook.out,
    State.only_trans (State.only_mono htook.only (by decide)) (State.only_mono honly (by decide))⟩

theorem State.Took.quiet {t : State} (h : s.Took f t) {n : Src} (hq : s.quiet n) : t.quiet n := by
  unfold State.quiet State.src
  rw [show t.flt = s.flt from h.only.2 .flt (by decide)]
  exact hq

theorem span_named (hheads : s.headsRing) (h : s.hears f) (hq : s.quiet 57) :
    s.ends (.span f) (fun t => t.rd RING_ERR.SPAN_FAIL = 1 ∧ t.active 57 = true) := by
  obtain ⟨hflag, hactive, -⟩ := State.spanFail_spec ((State.takeFrame_hears h true).2.quiet hq) ((wAt f.payload 0).toNat % 32)
  exact ⟨_, exec_span hheads h, hflag, hactive⟩

theorem restore_noted (hhead : s.isHead = true) (h : s.hears f) : s.ends (.restore f) (fun t =>
    t.ring.restored.any (fun e => decide (e.1 = f.src.toNat)) = true ∧ t.out = (s.passOn f).out ∧
      s.only t [.ring, .out]) := by
  obtain ⟨-, htook⟩ := State.takeFrame_hears h false
  obtain ⟨hany, honly⟩ := (s.takeFrame f false).1.noteRestore_spec f.src.toNat
  have hexec : exec (.restore f) s = .next ((s.takeFrame f false).1.noteRestore f.src.toNat) := by
    have hhead' : (s.takeFrame f false).1.isHead = true := by
      rw [← hhead]
      unfold State.isHead State.role
      rw [htook.rd]
    show execRestore f s = _
    unfold execRestore
    rw [State.takeFrame_pair h false]
    exact (if_neg (by decide)).trans (if_pos hhead')
  exact ⟨_, hexec, hany, (honly.2 .out (by decide)).trans htook.out,
    State.only_trans htook.only (State.only_mono honly (by decide))⟩

/-- A member takes the boundary that the head names. -/
theorem restore_taken (hmember : s.isHead = false) (h : s.hears f) : s.ends (.restore f) (fun t =>
    t.ring.unwrapAt = some (f.arg.toNat / 256 % 2 ^ 48) ∧ s.only t [.ring, .out]) := by
  obtain ⟨-, htook⟩ := State.takeFrame_hears h false
  have hexec : exec (.restore f) s = .next ({ (s.takeFrame f false).1 with ring := { (s.takeFrame f false).1.ring with
      unwrapAt := some (f.arg.toNat / 256 % 2 ^ 48) } } : State) := by
    have hmember' : (s.takeFrame f false).1.isHead = false := by
      unfold State.isHead State.role at hmember ⊢
      rw [htook.rd]
      exact hmember
    show execRestore f s = _
    unfold execRestore
    rw [State.takeFrame_pair h false]
    exact (if_neg (by decide)).trans (if_neg (by rw [hmember']; decide))
  exact ⟨_, hexec, rfl, State.only_trans htook.only (State.only_iff.2 (by simp))⟩

/-- MSIX causes a vector. -/
theorem msix_causes (hhead : s.isHead = true) (h : s.hears f) : s.ends (.msix f) (fun t =>
    t.host = (s.irq (Fin.ofNat 8 (f.arg.toNat / 256 % 256))).host ∧ t.out = (s.passOn f).out ∧
      s.only t [.ring, .host, .out]) := by
  obtain ⟨-, htook⟩ := State.takeFrame_hears h false
  have honly := (s.takeFrame f false).1.irq_only (Fin.ofNat 8 (f.arg.toNat / 256 % 256))
  have hexec : exec (.msix f) s = .next ((s.takeFrame f false).1.irq (Fin.ofNat 8 (f.arg.toNat / 256 % 256))) := by
    show execMsix f s = _
    unfold execMsix
    rw [if_neg (by rw [hhead]; decide), State.takeFrame_pair h false]
    rfl
  refine ⟨_, hexec, ?_, (honly.2 .out (by decide)).trans htook.out,
    State.only_trans (State.only_mono htook.only (by decide)) (State.only_mono honly (by decide))⟩
  unfold State.irq
  rw [show (s.takeFrame f false).1.host = s.host from htook.only.2 .host (by decide)]

/-- An arrival counts toward the target of its tag. -/
theorem arrive_counts (hhead : s.isHead = true) (h : s.hears f) {w : Word} (hw : f.payload = [w])
    (htgt : bget s.ring.tgt (Fin.ofNat 64 (w.toNat % 64)) ≠ 0) : s.ends (.arrive f) (fun t =>
    t.out = (s.passOn f).out ∧ s.only t [.ring, .out] ∧
      if bget s.ring.tgt (Fin.ofNat 64 (w.toNat % 64)) ≤
          bget s.ring.cnt (Fin.ofNat 64 (w.toNat % 64)) + w.toNat / 256 % 256 ∧ w.toNat / 256 % 256 ≠ 0 then
        bget t.ring.cnt (Fin.ofNat 64 (w.toNat % 64)) = (bget s.ring.cnt (Fin.ofNat 64 (w.toNat % 64)) +
          w.toNat / 256 % 256) % bget s.ring.tgt (Fin.ofNat 64 (w.toNat % 64)) ∧
        bget t.ring.left (Fin.ofNat 64 (w.toNat % 64)) = 4
      else bget t.ring.cnt (Fin.ofNat 64 (w.toNat % 64)) =
          bget s.ring.cnt (Fin.ofNat 64 (w.toNat % 64)) + w.toNat / 256 % 256 ∧
        bget t.ring.left (Fin.ofNat 64 (w.toNat % 64)) = bget s.ring.left (Fin.ofNat 64 (w.toNat % 64))) := by
  obtain ⟨-, htook⟩ := State.takeFrame_hears h true
  have hexec : exec (.arrive f) s = .next ((s.takeFrame f true).1.barCount (w.toNat % 64) (w.toNat / 256 % 256)) := by
    show execArrive f s = _
    unfold execArrive
    rw [if_neg (by rw [hhead]; decide), State.takeFrame_pair h true, hw]
    rfl
  refine ⟨_, hexec, ?_⟩
  obtain ⟨htgt', hcnt, hleft⟩ : (s.takeFrame f true).1.ring.tgt = s.ring.tgt ∧
      (s.takeFrame f true).1.ring.cnt = s.ring.cnt ∧ (s.takeFrame f true).1.ring.left = s.ring.left := by
    rw [htook.ring]
    exact ⟨rfl, rfl, rfl⟩
  unfold State.barCount
  dsimp only
  rw [htgt', hcnt, hleft, if_neg htgt]
  refine ⟨htook.out, State.only_trans htook.only (State.only_iff.2 (by simp)), ?_⟩
  dsimp only
  rw [bget_bupd_same, bget_bupd_same]
  split
  · next hhit => rw [decide_eq_true hhit]; exact ⟨rfl, rfl⟩
  · next hmiss => rw [decide_eq_false hmiss]; exact ⟨rfl, rfl⟩

/-- A member refuses the announced period. -/
theorem periodNak_withdraws (hhead : s.isHead = true) (h : s.hears f)
    (hnew : s.sys.perNew.any (fun p => decide (0 < p.2)) = true) : s.ends (.periodNak f) (fun t => t.sys.perNew = none ∧
      t.rd SYS_TICK.PERIOD = s.per % 2 ^ 12 ∧ t.rd RING_ERR.PERIOD_NAK = 1 ∧ t.out = (s.passOn f).out ∧
      s.only t [.sys, .ring, .regs, .out]) := by
  obtain ⟨-, htook⟩ := State.takeFrame_hears h true
  have hsys : (s.takeFrame f true).1.sys = s.sys := htook.only.2 .sys (by decide)
  have hexec : exec (.periodNak f) s = .next ((s.takeFrame f true).1.withdraw.wr RING_ERR.PERIOD_NAK 1) := by
    show execPeriodNak f s = _
    unfold execPeriodNak
    rw [if_neg (by rw [hhead]; decide), State.takeFrame_pair h true]
    dsimp only
    rw [hsys, if_pos ⟨rfl, hnew⟩]
  have hper : (s.takeFrame f true).1.per = s.per := htook.rd _
  refine ⟨_, hexec, rfl, ?_, State.rd_wr_same _ _ _, htook.out,
    State.only_trans (State.only_mono htook.only (by decide)) (State.only_iff.2 (by simp [State.withdraw]))⟩
  unfold State.withdraw
  rw [State.rd_wr_other _ _ (by decide), State.rd_wr_other _ _ (by decide), State.rd_wr_other _ _ (by decide),
    State.rd_wr_same, hper]
  rfl

end

/-- A break whose input has been stable is told, or noted. -/
theorem ringInputStable_told {s : State} {r : RingId} (hidle : s.idle = false) (hreset : s.ring.resetting = false)
    (hdown : bget s.ring.down (ringIx r) = true) (hon : s.onRing = true) (hclean : 4096 ≤ (s.line r).clean) :
    s.ends (.ringInputStable r) (fun t =>
      (s.isHead = false → s.mayClass 0 .mgmt = true → ∃ f ∈ t.ring.outq.getLast?, f.type = 7 ∧ f.arg.toNat % 256 = 6) ∧
      (s.isHead = true → t.ring.restored.any (fun e => decide (e.1 = 0)) = true) ∧ s.only t [.ring]) := by
  have hexec : exec (.ringInputStable r) s = .next (if s.isHead then s.noteRestore 0 else s.mgmt 6 0 0 []) := by
    show execRingInputStable r s = _
    unfold execRingInputStable
    exact if_neg (by simp [hidle, hreset, hdown]; omega)
  refine ⟨_, hexec, ?_⟩
  cases hhead : s.isHead with
  | true =>
    obtain ⟨hany, honly⟩ := s.noteRestore_spec 0
    exact ⟨nofun, fun _ => hany, honly⟩
  | false =>
    refine ⟨fun _ hmay => ?_, nofun, s.mgmt_only 6 0 0 []⟩
    obtain ⟨f, hf, htype, -, hsub, -, -⟩ := State.mgmt_sends (sub := 6) (arg := 0) (ws := []) hon hmay (by decide)
    exact ⟨f, hf, htype, hsub⟩

end Sys2Proof.Machine
end

section
open Sys2Proof Sys2Proof.Machine

/-- Settles O42, row by row. -/
theorem breaksRepairsAndMessages : Obligations.BreaksRepairsAndMessages := by
  unfold Obligations.BreaksRepairsAndMessages
  intro s hidle hreset
  refine ⟨fun r why hon => ⟨exec_ringInputDown_not, fun hspan => ⟨fun hlive => ?_, fun hlive hq => ?_⟩, ?_⟩, ?_, ?_,
    fun r hdown hon hclean => ringInputStable_told hidle hreset hdown hon hclean,
    fun u hat hu => restoreBoundary_restores hat hu, fun f hf => ⟨fun hheads => ⟨wrap_enters hheads hf, span_named hheads hf⟩,
      fun hhead => ⟨restore_noted hhead hf, msix_causes hhead hf, fun w hw htgt => arrive_counts hhead hf hw htgt,
        periodNak_withdraws hhead hf⟩, fun hmember => restore_taken hmember hf⟩⟩
  · rw [exec_ringInputDown_span hidle hreset hon hspan, hlive]
    rfl
  · obtain ⟨htold, hdown, -⟩ := State.spanSend_told r hq
    refine ⟨_, exec_ringInputDown_span hidle hreset hon hspan, ?_⟩
    rw [hlive]
    exact ⟨htold, hdown⟩
  · intro hwhy hholds hq
    obtain ⟨t, hexec, hfresh, hstay, hlock, hpennant, hcode⟩ := ringInputDown_wraps hidle hreset hon hwhy hholds hq
    refine ⟨t, hexec, hfresh, hstay, ?_, hpennant, hcode⟩
    cases r with
    | a => exact hlock
    | b => exact hlock
  · intro r hdue _
    have hwraps := State.wrapNow_wraps hdue
    cases r with
    | a => exact hwraps
    | b => exact hwraps
  · intro r hdown hclean
    show execRingInputStable r s = _
    unfold execRingInputStable
    exact if_pos (.inr (.inr (.inr hclean)))

end


section
/-!
SUPPORT. Register accesses over the ring (R512 to R516).
-/

namespace Sys2Proof.Machine

/-! ### The head -/

section
variable {s : State} {p : Pos} {o : Half}

/-- A read of a word at a word's address has the shape that BAR1 admits, and so has a write. -/
theorem pathOk_word (hal : o.toNat % 4 = 0) (write : Bool) : pathOk .bar1 o.toNat 4 write = true := by
  unfold pathOk accessOk
  cases write with
  | false => simp [hal]
  | true => simp [hal]

/-- An access to an absent position answers ones and is noted. -/
theorem bar1Access_absent (hidle : s.idle = false) (hhead : s.isHead = true) (hal : o.toNat % 4 = 0) (hp : p ≠ 0)
    (habsent : bitN (s.rd RING_PRESENT.PRES) p.val = false) : s.ends (.bar1Access p o false [] 1) (fun t =>
      t.out = .answer [0xFFFFFFFF] :: s.out ∧ t.rd RING_ERR.UNMAPPED = 1 ∧ s.only t [.regs, .out] ∧
        s.regsBut t [RING_ERR.UNMAPPED]) := by
  have hexec : exec (.bar1Access p o false [] 1) s = .next ((s.wr RING_ERR.UNMAPPED 1).emit (.answer [0xFFFFFFFF])) := by
    show execBar1Access p o false [] 1 s = _
    unfold execBar1Access
    dsimp only
    rw [if_neg (by simp [hhead, hidle]), if_neg (by rw [if_neg Bool.false_ne_true]; exact by simp [pathOk_word hal]),
      if_neg hp, if_pos (by simp [habsent])]
    rfl
  exact ⟨_, hexec, rfl, State.rd_wr_same s RING_ERR.UNMAPPED 1, State.only_iff.2 (by simp [State.emit]),
    State.regsBut_wr (s := s) (t := s) (fun _ _ => rfl) (List.mem_singleton_self _) 1⟩

/-- The REG frame of a write of a word. -/
def State.regFrame (s : State) (p : Pos) (o : Half) (w : Word) : Frame :=
  s.mkFrame 1 p.val false (s.tagFor p.val) (o.toNat + 2 ^ 16) [w]

theorem State.regFrame_writes (s : State) (p : Pos) (o : Half) (w : Word) : regWrites (s.regFrame p o w) = true := by
  have ho := o.isLt
  show (BitVec.ofNat 64 (o.toNat + 2 ^ 16)).getLsbD 16 = true
  rw [BitVec.getLsbD_ofNat, Nat.testBit_eq_decide_div_mod_eq]
  have hdiv : (o.toNat + 2 ^ 16) / 2 ^ 16 = 1 := by omega
  rw [hdiv]
  decide

/-- A write to a live position waits for those before it, or goes out at once. -/
theorem bar1Access_live (hidle : s.idle = false) (hhead : s.isHead = true) (hal : o.toNat % 4 = 0) (hp : p ≠ 0)
    (hlive : bitN (s.rd RING_PRESENT.PRES) p.val = true) (w : Word) : s.ends (.bar1Access p o true [w] 0) (fun t =>
      (∃ n ∈ t.ring.regs.getLast?, n.pos = p ∧ n.frame.payload = [w] ∧ regWrites n.frame = true ∧
        ((s.regOut p.val).isNone = true → t.ring.outq = s.ring.outq ++ [n.frame]) ∧
        ((s.regOut p.val).isSome = true → t.ring.outq = s.ring.outq)) ∧ s.only t [.ring]) := by
  let sent : State := { s with ring := { s.ring with
    tags := bupd s.ring.tags p (fun t => t + 1), regs := s.ring.regs ++ [(⟨p, s.regFrame p o w, 0, false⟩ : RegPend)] } }
  have hexec : exec (.bar1Access p o true [w] 0) s =
      .next (if (s.regOut p.val).isNone then sent.queueFrame (s.regFrame p o w) else sent) := by
    show execBar1Access p o true [w] 0 s = _
    unfold execBar1Access
    dsimp only
    rw [if_neg (by simp [hhead, hidle]), if_neg (by rw [if_pos rfl]; exact by simp [pathOk_word hal]), if_neg hp,
      if_neg (by simp [hlive])]
    rfl
  have hlast : sent.ring.regs.getLast? = some ⟨p, s.regFrame p o w, 0, false⟩ := List.getLast?_concat
  refine ⟨_, hexec, ?_⟩
  cases hout : s.regOut p.val with
  | none => exact ⟨⟨_, hlast, rfl, rfl, s.regFrame_writes p o w, fun _ => rfl, nofun⟩,
      State.only_iff.2 (by simp [sent, State.queueFrame])⟩
  | some r => exact ⟨⟨_, hlast, rfl, rfl, s.regFrame_writes p o w, nofun, fun _ => rfl⟩, State.only_iff.2 (by simp [sent])⟩

end

/-! ### The end of an access -/

/-- The outstanding access is among those that wait. -/
theorem State.mem_of_regOut {s : State} {p : Nat} {r : RegPend} (h : s.regOut p = some r) : r ∈ s.ring.regs :=
  List.mem_of_find?_eq_some h

/-- One access fewer waits. -/
theorem State.regNext_spec {s : State} {r : RegPend} (hr : r ∈ s.ring.regs) :
    (s.regNext r).ring.regs.length + 1 = s.ring.regs.length ∧ s.only (s.regNext r) [.ring] := by
  have hpos : 0 < s.ring.regs.length := List.length_pos_of_mem hr
  have hless : (s.ring.regs.erase r).length + 1 = s.ring.regs.length := by
    rw [List.length_erase_of_mem hr]
    omega
  unfold State.regNext
  dsimp only
  split
  · exact ⟨hless, State.only_iff.2 (by simp)⟩
  · refine ⟨?_, State.only_iff.2 (by simp [State.queueFrame])⟩
    show (List.map _ (s.ring.regs.erase r)).length + 1 = _
    rw [List.length_map]
    exact hless

theorem State.askLine_spec (s : State) (p : Pos) :
    (s.askLine p).host.ask.contains p = true ∧ s.only (s.askLine p) [.host, .out] := by
  unfold State.askLine
  extract_lets host t
  have ht : t.host.ask.contains p = true ∧ s.only t [.host, .out] :=
    ⟨by simp [t, host], State.only_iff.2 (by simp [t])⟩
  split
  · exact ⟨ht.1, State.only_trans ht.2 (State.only_iff.2 (by simp [State.readLines, State.emit]))⟩
  · exact ht

/-- An access asks for the doorbell line of its member: a write of `HOST_CTL` with a queue bit. -/
def State.asksLine (f : Frame) : Prop :=
  f.arg.toNat % 65536 / 4 * 4 ≤ 0x1000 ∧ (f.payload.getD ((0x1000 - f.arg.toNat % 65536 / 4 * 4) / 4) 0).toNat % 2 ^ 18 ≠ 0

theorem State.heardCtl_not {s : State} {f : Frame} (h : ¬ State.asksLine f) : s.heardCtl f = s := if_neg h

theorem State.heardCtl_asks {s : State} {f : Frame} (h : State.asksLine f) :
    s.heardCtl f = s.askLine (Fin.ofNat 32 f.dst.toNat) := if_pos h

theorem State.Took.regs {s t : State} {f : Frame} (h : s.Took f t) : t.ring.regs = s.ring.regs := by
  rw [h.ring]

theorem State.Took.isHead {s t : State} {f : Frame} (h : s.Took f t) : t.isHead = s.isHead := by
  unfold State.isHead State.role
  rw [h.rd]

/-- The answer ends the access. -/
theorem regr_ends {s : State} {f : Frame} (hhead : s.isHead = true) (h : s.hears f) {r : RegPend}
    (hout : s.regOut f.src.toNat = some r) (htag : r.frame.tag = f.tag) : s.ends (.regr f) (fun t =>
      t.ring.regs.length + 1 = s.ring.regs.length ∧ s.only t [.ring, .out, .host] ∧
      (¬ (regWrites r.frame = true ∧ f.arg.getLsbD 0 = false ∧ State.asksLine r.frame) → t.host = s.host ∧
        t.out = if regWrites r.frame = true then (s.passOn f).out else .answer f.payload :: (s.passOn f).out) ∧
      (regWrites r.frame = true ∧ f.arg.getLsbD 0 = false ∧ State.asksLine r.frame →
        t.host.ask.contains (Fin.ofNat 32 r.frame.dst.toNat) = true)) := by
  obtain ⟨-, htook⟩ := State.takeFrame_hears h false
  have hout' : (s.takeFrame f false).1.regOut f.src.toNat = some r := by
    rw [← hout]
    unfold State.regOut
    rw [htook.regs]
  have hexec : exec (.regr f) s = .next (if regWrites r.frame then
      (if f.arg.getLsbD 0 then (s.takeFrame f false).1.regNext r else
        ((s.takeFrame f false).1.regNext r).heardCtl r.frame)
      else ((s.takeFrame f false).1.regNext r).emit (.answer f.payload)) := by
    show execRegr f s = _
    unfold execRegr
    rw [if_neg (by simp [hhead]), State.takeFrame_pair h false]
    dsimp only
    rw [hout']
    exact if_neg (by simp [htag])
  obtain ⟨hless, hnext⟩ := State.regNext_spec (State.mem_of_regOut hout')
  rw [htook.regs] at hless
  have honly : s.only ((s.takeFrame f false).1.regNext r) [.ring, .out, .host] :=
    State.only_trans (State.only_mono htook.only (by decide)) (State.only_mono hnext (by decide))
  have hhost : ((s.takeFrame f false).1.regNext r).host = s.host :=
    (hnext.2 .host (by decide)).trans (htook.only.2 .host (by decide))
  have hsent : ((s.takeFrame f false).1.regNext r).out = (s.passOn f).out := (hnext.2 .out (by decide)).trans htook.out
  refine ⟨_, hexec, ?_⟩
  generalize (s.takeFrame f false).1.regNext r = u at hless honly hhost hsent
  cases hwrite : regWrites r.frame with
  | false => exact ⟨hless, State.only_trans honly (State.only_iff.2 (by simp [State.emit])),
      fun _ => ⟨hhost, congrArg _ hsent⟩, fun hn => absurd hn.1 (by decide)⟩
  | true =>
    cases hbad : f.arg.getLsbD 0 with
    | true => exact ⟨hless, honly, fun _ => ⟨hhost, hsent⟩, fun hn => absurd hn.2.1 (by decide)⟩
    | false =>
      by_cases hask : State.asksLine r.frame
      · obtain ⟨hasked, hline⟩ := u.askLine_spec (Fin.ofNat 32 r.frame.dst.toNat)
        rw [if_pos rfl, if_neg Bool.false_ne_true, State.heardCtl_asks hask]
        refine ⟨?_, State.only_trans honly (State.only_mono hline (by decide)), fun hn => absurd ⟨rfl, rfl, hask⟩ hn,
          fun _ => hasked⟩
        rw [show (u.askLine _).ring = u.ring from hline.2 .ring (by decide)]
        exact hless
      · rw [if_pos rfl, if_neg Bool.false_ne_true, State.heardCtl_not hask]
        exact ⟨hless, honly, fun _ => ⟨hhost, hsent⟩, fun hn => absurd hn.2.2 hask⟩

/-- A missing answer repeats the access, the second ends it with ones. -/
theorem regTimeout_ends {s : State} {p : Pos} {r : RegPend} (hidle : s.idle = false) (hout : s.regOut p.val = some r)
    (hage : 2 ≤ r.age)
    (hgone : s.ring.outq.any (fun g => decide (g.type = 1 ∧ g.dst = r.frame.dst ∧ g.tag = r.frame.tag)) = false) :
    s.ends (.regTimeout p) (fun t =>
      if r.again = true then t.ring.regs.length + 1 = s.ring.regs.length ∧ t.rd RING_ERR.REG_TMO = 1 ∧
        t.out = (if regWrites r.frame = true then s.out
          else .answer (List.replicate (regCount r.frame) 0xFFFFFFFF) :: s.out) ∧ s.only t [.ring, .regs, .out]
      else t.ring.regs = s.ring.regs.map (fun x => if x = r then ({ r with age := 0, again := true } : RegPend) else x) ∧
        t.ring.outq = s.ring.outq ++ [({ r.frame with retry := true } : Frame)] ∧ s.only t [.ring, .regs]) := by
  have hstart : exec (.regTimeout p) s = if r.again then
        .next (if regWrites r.frame then (s.regNext r).wr RING_ERR.REG_TMO 1
          else ((s.regNext r).wr RING_ERR.REG_TMO 1).emit (.answer (List.replicate (regCount r.frame) 0xFFFFFFFF)))
      else .next (({ s with ring := { s.ring with regs := s.ring.regs.map (fun x =>
        if x = r then ({ r with age := 0, again := true } : RegPend) else x) } } : State).again r.frame) := by
    show execRegTimeout p s = _
    unfold execRegTimeout
    rw [hout]
    dsimp only
    rw [hgone, if_neg (by simp [hidle]; omega)]
  obtain ⟨hless, hnext⟩ := State.regNext_spec (State.mem_of_regOut hout)
  have hout' : (s.regNext r).out = s.out := hnext.2 .out (by decide)
  have hnoted : s.only ((s.regNext r).wr RING_ERR.REG_TMO 1) [.ring, .regs, .out] :=
    State.wr_only (State.only_mono hnext (by decide)) _ _ (by decide)
  cases hagain : r.again with
  | false =>
    rw [hagain, if_neg Bool.false_ne_true] at hstart
    refine ⟨_, hstart, ?_⟩
    dsimp only
    rw [if_neg Bool.false_ne_true]
    exact ⟨rfl, rfl, State.only_iff.2 (by simp [State.again, State.queueFrame])⟩
  | true =>
    rw [hagain, if_pos rfl] at hstart
    refine ⟨_, hstart, ?_⟩
    dsimp only
    rw [if_pos rfl]
    cases regWrites r.frame with
    | true => exact ⟨hless, State.rd_wr_same _ _ _, hout', hnoted⟩
    | false => exact ⟨hless, State.rd_wr_same (s.regNext r) RING_ERR.REG_TMO 1, congrArg _ hout',
        State.only_trans hnoted (State.only_iff.2 (by simp [State.emit]))⟩

/-! ### A member -/

/-- Nothing that a register shows depends on what waits to be sent. -/
theorem State.view_took {s t : State} {f : Frame} (h : s.Took f t) (off lo : Nat) : t.view off lo = s.view off lo := by
  obtain ⟨-, hregs, hwritten, hsys, hpins, hsec, hhost, -, hflt, hcmp, hsaf, hmet, hmot, hch, hqd, hfree, -⟩ :=
    State.only_iff.1 h.only
  have hring := h.ring
  cases s
  cases t
  simp only [List.mem_cons, List.not_mem_nil, reduceCtorEq, or_false, not_false_eq_true, forall_const, or_self] at *
  subst hregs hwritten hsys hpins hsec hhost hflt hcmp hsaf hmet hmot hch hqd hfree
  rw [hring]
  rfl

theorem State.Took.look {s t : State} {f : Frame} (h : s.Took f t) (g : Fld) : t.look g = s.look g := by
  have hnew : t.rdNew g = s.rdNew g := by
    unfold State.rdNew
    rw [h.rd, show t.written = s.written from h.only.2 .written (by decide)]
  unfold State.look
  rw [h.isHead, State.view_took h, hnew]

/-- A member answers a read of a word by what the register shows. -/
theorem reg_answers {s : State} {f : Frame} (hmember : s.isHead = false) (h : s.hears f) (hread : regWrites f = false)
    (hcount : regCount f = 1) (hblock : s.blockHeld (f.arg.toNat % 65536 / 4 * 4) = false)
    (hheld : s.host.heldAcc.any heldReg = false) (hlatch : s.host.latches.lookup (f.arg.toNat % 65536 / 4 * 4) = none)
    (hresp : s.responds (f.arg.toNat % 65536 / 4 * 4) = true) : s.ends (.reg f) (fun t =>
      ∃ g ∈ t.ring.outq.getLast?, g.type = 2 ∧ g.dst = f.src ∧ g.tag = f.tag ∧
        g.payload = [s.regWord (f.arg.toNat % 65536 / 4 * 4)]) := by
  obtain ⟨hok, htook⟩ := State.takeFrame_hears h false
  have hexec : exec (.reg f) s = .next ((s.takeFrame f false).1.serveReg f) := by
    show execReg f s = _
    unfold execReg
    rw [if_neg (by simp [hmember]), State.takeFrame_pair h false]
    exact if_pos rfl
  have hhost : (s.takeFrame f false).1.host = s.host := htook.only.2 .host (by decide)
  have hsys : (s.takeFrame f false).1.sys = s.sys := htook.only.2 .sys (by decide)
  have hword : (s.takeFrame f false).1.regWord (f.arg.toNat % 65536 / 4 * 4) = s.regWord (f.arg.toNat % 65536 / 4 * 4) :=
    State.regWord_congr (fun g _ => htook.look g)
  have hblock' : (s.takeFrame f false).1.blockHeld (f.arg.toNat % 65536 / 4 * 4) = false := by
    unfold State.blockHeld at hblock ⊢
    rw [htook.ring, show (s.takeFrame f false).1.mot = s.mot from htook.only.2 .mot (by decide),
      show (s.takeFrame f false).1.qd = s.qd from htook.only.2 .qd (by decide)]
    exact hblock
  have hresp' : (s.takeFrame f false).1.responds (f.arg.toNat % 65536 / 4 * 4) = true := by
    unfold State.responds State.idle at hresp ⊢
    rw [hsys]
    exact hresp
  refine ⟨_, hexec, ?_⟩
  generalize (s.takeFrame f false).1 = t at hhost hword hblock' hresp'
  have hget : t.getWords (f.arg.toNat % 65536 / 4 * 4) 1 =
      ([s.regWord (f.arg.toNat % 65536 / 4 * 4)], t.readFx (f.arg.toNat % 65536 / 4 * 4)) := by
    unfold State.getWords State.getWords State.regGet
    simp [hresp', hhost, hlatch, hword]
  unfold State.serveReg
  simp only [hread, hcount, hhost, hheld, List.range_one, List.any_cons, List.any_nil, Nat.mul_zero, Nat.add_zero, hblock',
    Bool.or_false, Bool.false_eq_true, if_false, hget]
  refine ⟨_, List.getLast?_concat, rfl, ?_, ?_, rfl⟩
  · show BitVec.ofNat 5 f.src.toNat = f.src
    exact BitVec.ofNat_toNat .. |>.trans (BitVec.setWidth_eq _)
  · show BitVec.ofNat 8 f.tag.toNat = f.tag
    exact BitVec.ofNat_toNat .. |>.trans (BitVec.setWidth_eq _)

end Sys2Proof.Machine
end

section
open Sys2Proof Sys2Proof.Machine

/-- Settles O44, row by row. -/
theorem registerAccessOverTheRing : Obligations.RegisterAccessOverTheRing := by
  unfold Obligations.RegisterAccessOverTheRing
  intro s hidle _
  exact ⟨fun p o hhead hal => ⟨bar1Access_absent hidle hhead hal, fun hp hlive w => bar1Access_live hidle hhead hal hp hlive w⟩,
    fun f hf => ⟨fun hhead r hout htag => regr_ends hhead hf hout htag,
      fun hmember hread hcount hblock hheld hlatch hresp => reg_answers hmember hf hread hcount hblock hheld hlatch hresp⟩,
    fun p r hout hage hgone => regTimeout_ends hidle hout hage hgone⟩

end


section
/-!
SUPPORT. What reactions without a reset leave of SAF as it was (R81, R87, R619): its inputs, its passes and what they found.
-/

namespace Sys2Proof.Machine

/-- From `s` to `t` nothing of SAF has changed but the enables and contactor drives, SS1, the toggle and the times since
which causes are gone. -/
def SafStill (s t : State) : Prop :=
  t.saf = { s.saf with
    toggled := t.saf.toggled, okSince := t.saf.okSince, kdr := t.saf.kdr, kEdge := t.saf.kEdge, kChecked := t.saf.kChecked
    kDropAt := t.saf.kDropAt, cen := t.saf.cen, ien := t.saf.ien, men := t.saf.men, ss1 := t.saf.ss1, menAt := t.saf.menAt }

namespace SafStill

variable {s t u : State}

theorem refl (s : State) : SafStill s s := rfl

theorem trans (h : SafStill s t) (k : SafStill t u) : SafStill s u := by
  unfold SafStill at h k ⊢
  rw [k, h]

theorem ite {p : Prop} [Decidable p] (h : SafStill s t) (k : SafStill s u) : SafStill s (if p then t else u) := by
  split
  · exact h
  · exact k

theorem foldl {α : Type} {f : State → α → State} (l : List α) (k : ∀ t a, SafStill s t → SafStill s (f t a))
    (h : SafStill s t) : SafStill s (l.foldl f t) := by
  induction l generalizing t with
  | nil => exact h
  | cons a l ih => exact ih (k t a h)

theorem same (h : SafStill s t) (k : u.saf = t.saf) : SafStill s u := h.trans (by unfold SafStill; rw [k])

theorem of_only (h : SafStill s t) {ps : List Part} (k : t.only u ps) (hp : .saf ∉ ps) : SafStill s u := h.same (k.2 .saf hp)

theorem reported (h : SafStill s t) (k : Reported t u) : SafStill s u := h.of_only k.only (by decide)

theorem kdrLow (h : SafStill s t) : SafStill s t.kdrLow := by
  refine h.trans ?_
  unfold State.kdrLow
  exact .ite rfl rfl

theorem safeChannels (h : SafStill s t) : SafStill s t.safeChannels :=
  .foldl _ (fun _ c k => ((SafStill.ite (k.of_only (State.failStep_ch_only _ c _ _) (by decide))
    (k.of_only (State.failStep_ch_only _ c _ _) (by decide))).of_only (State.protOpen_only _ c) (by decide)).same rfl) h

theorem motTorqueOff (h : SafStill s t) : SafStill s t.motTorqueOff := by
  unfold State.motTorqueOff
  have hfree : SafStill s { t with mot := { t.mot with hold := .none } } := h.same rfl
  have hoff {v : State} (hv : SafStill s v) : SafStill s v.motGatesOff := hv.of_only v.motGatesOff_only (by decide)
  refine .ite (hoff ((h.of_only (t.motComplete_only _ _) (by decide)).same rfl)) (hoff (.ite hfree (hfree.same rfl)))

theorem latchCause (h : SafStill s t) (x : SafeCause) : SafStill s (t.latchCause x) := by
  unfold State.latchCause
  extract_lets set latched saf void
  have hlatched : SafStill s latched := by
    refine .ite h ?_
    split
    · exact h.same rfl
    · exact h.same rfl
  have hvoid : SafStill s void := hlatched.trans rfl
  cases x with
  | sf n => exact hvoid.trans rfl
  | ringWdog r => cases r <;> exact hvoid.same rfl
  | _ => exact hvoid.same rfl

theorem latchLow (h : SafStill s t) (x : SafeCause) : SafStill s (t.latchLow x) := (h.latchCause x).trans rfl

theorem goSafe (h : SafStill s t) (atOnce : Bool) : SafStill s (t.goSafe atOnce) := by
  unfold State.goSafe
  extract_lets traced errn sys going dumped saf
  have htraced : SafStill s traced :=
    ((h.of_only (t.abandon_only 4) (by decide)).safeChannels.motTorqueOff).reported (.traceAll (.refl _) 7)
  clear_value traced
  have herrn : SafStill s errn := htraced.reported (.errPull (.refl traced))
  clear_value errn
  have hgoing : SafStill s going := herrn.same rfl
  clear_value going
  have hdumped : SafStill s dumped := .ite (hgoing.reported (.dumpTrigger (.refl _) _ _)) hgoing
  clear_value dumped
  exact .ite hdumped.kdrLow (.ite (hdumped.trans rfl) hdumped)

theorem safeReq (h : SafStill s t) (x : SafeCause) (atOnce : Bool) : SafStill s (t.safeReq x atOnce) := by
  have hlow := h.latchLow x
  have habandon : SafStill s ((t.latchLow x).abandon 4) := hlow.of_only (State.abandon_only _ 4) (by decide)
  by_cases hd : t.driven
  · rw [State.safeReq_driven t x atOnce hd]
    exact .ite (.ite hlow.kdrLow hlow) (hlow.goSafe atOnce)
  · rw [State.safeReq_aside t x atOnce hd]
    exact .ite hlow (.ite habandon.kdrLow habandon)

/-- A raise whose reaction holds no reset. -/
theorem raiseAs (h : SafStill s t) (n : Src) (c : Ch) (x : SafeCause) (hq : t.quiet n) : SafStill s (t.raiseAs n c x) := by
  have hmark (f : SrcS → SrcS) : SafStill s (t.updSrc n f) := h.same rfl
  cases hlisted : srcListed n.val with
  | false =>
    rw [State.raiseAs_unlisted t n c x hlisted]
    exact hmark _
  | true =>
    by_cases hact : (t.src n).act &&& actBit n c = 0
    · rw [State.raiseAs_new t n c x hlisted hact, State.react_quiet _ n c _ x hq.1 hq.2]
      have hreport : SafStill s (t.report n c) := (hmark _).reported (t.report_reported n c)
      exact .ite (hreport.safeReq x _) hreport
    · rw [State.raiseAs_again t n c x hlisted hact]
      exact .ite ((hmark _).safeReq x _) (hmark _)

theorem raiseDev (h : SafStill s t) (n : Src) (hq : t.quiet n) : SafStill s (t.raiseDev n) := h.raiseAs n 0 _ hq

end SafStill

/-- A device source whose reaction resets nothing is active after its raise. -/
theorem State.raiseDev_active {s : State} {n : Src} (hq : s.quiet n) (hlisted : srcListed n.val = true) :
    (s.raiseDev n).active n = true := State.raiseAs_active 0 _ hq hlisted

end Sys2Proof.Machine
end


section
/-!
SUPPORT. Contactors, SS1, E-stop, tray and the bus chopper (R623, R627 to R641).
-/

namespace Sys2Proof.Machine

/-! ### What SAF finds -/

theorem State.find_due (s : State) (n c : Nat) : (s.find n c).saf.due.contains (n, c) = true := by
  unfold State.find
  split
  · assumption
  · simp

/-- A finding changes the list of findings alone. -/
theorem State.find_spec (s : State) (n c : Nat) : s.only (s.find n c) [.saf] ∧
    (s.find n c).saf = { s.saf with due := (s.find n c).saf.due } := by
  unfold State.find
  split
  · exact ⟨State.only_refl _ _, rfl⟩
  · exact ⟨State.only_iff.2 (by simp), rfl⟩

/-- A fault of the contactors. -/
theorem State.kFault_spec (s : State) (code : Nat) : (s.kFault code).rd SAF_KSTAT.STATE = 4 ∧
    (s.kFault code).rd SAF_KSTAT.FCAUSE = code % 16 ∧ (s.kFault code).saf.due.contains (64, 0) = true ∧
    (s.kFault code).saf = { s.saf with due := (s.kFault code).saf.due } ∧ s.only (s.kFault code) [.saf, .regs] ∧
    s.regsBut (s.kFault code) [SAF_KSTAT.STATE, SAF_KSTAT.FCAUSE] := by
  obtain ⟨honly, hsaf⟩ := ((s.wr SAF_KSTAT.FCAUSE code).wr SAF_KSTAT.STATE 4).find_spec 64 0
  have hregs := honly.2 .regs (by decide)
  refine ⟨(State.rd_of_regs hregs _).trans (State.rd_wr_same _ SAF_KSTAT.STATE 4), (State.rd_of_regs hregs _).trans
    ((State.rd_wr_other _ 4 (by decide)).trans (State.rd_wr_same _ SAF_KSTAT.FCAUSE code)), State.find_due _ 64 0, hsaf,
    State.only_trans (State.only_iff.2 (by simp)) (State.only_mono honly (by decide)),
    State.regsBut_trans (State.regsBut_wr (State.regsBut_wr (fun _ _ => rfl) (by simp) _) (by simp) _)
      (State.regsBut_of_regs hregs _)⟩

/-! ### The drive -/

section
variable {s : State}

/-- The drive rises where every condition holds. -/
theorem kdrClose_closes (hoff : s.saf.kdr = false) (hreq : s.rb SAF_KCTL.REQ = true)
    (hmode : s.sys.mode = .standby ∨ s.sys.mode = .run ∨ s.sys.mode = .service) (hlatch : s.rb SAF_STAT.LATCH = false)
    (hcause : s.ownCause = false) (htray : s.saf.tray = false) (ha : s.saf.estA = true) (hb : s.saf.estB = true)
    (hka : s.saf.kfbA = true) (hkb : s.saf.kfbB = true) (hsince : s.since s.saf.kfbSince 100 = true) :
    s.ends .kdrClose (fun t => t.saf.kdr = true ∧ t.saf.kEdge = s.clk ∧ t.saf.kChecked = false ∧
      t.rd SAF_KSTAT.STATE = 1 ∧ s.only t [.saf, .regs] ∧ s.regsBut t [SAF_KSTAT.STATE, SAF_KSTAT.CYCLES]) := by
  refine ⟨_, if_pos ?_, rfl, rfl, rfl, (State.rd_wr_other _ _ (by decide)).trans (State.rd_wr_same _ SAF_KSTAT.STATE 1),
    State.only_iff.2 (by simp [State.incWrap]), ?_⟩
  · rw [hoff, hreq, hlatch, hcause, htray, ha, hb, hka, hkb, hsince, decide_eq_true hmode]
    rfl
  · exact State.regsBut_wr (State.regsBut_wr (State.regsBut_of_regs rfl _) (by simp) _) (by simp) _

/-- Where one of them does not, it stays low. -/
theorem kdrClose_not (h : s.rb SAF_KCTL.REQ = false ∨ s.saf.tray = true ∨ s.saf.estA = false ∨ s.saf.estB = false ∨
    s.rb SAF_STAT.LATCH = true ∨ s.ownCause = true) : exec .kdrClose s = .next s := by
  refine if_neg ?_
  rcases h with h | h | h | h | h | h
  all_goals simp [h]

/-- The feedback has been read at the end of the window. -/
def State.kRead (s : State) (a b : Bool) : State := { s with saf := { s.saf with kChecked := true, kfbA := a, kfbB := b } }

/-- The fault that a reading of the feedback shows; 0 where it shows what the drive implies. -/
def kCode (kdr a b : Bool) : Nat :=
  if kdr then (if a then 3 else if b then 4 else 0) else (if !a then 1 else if !b then 2 else 0)

theorem exec_kfbCheck (a b : Bool) (hnew : s.saf.kChecked = false)
    (hend : s.saf.kEdge + s.msT (if s.saf.kdr = true then s.pset 1 else s.pset 2) ≤ s.clk) :
    exec (.kfbCheck a b) s = .next (if kCode s.saf.kdr a b = 0 then (s.kRead a b).wr SAF_KSTAT.STATE (if s.saf.kdr then 2 else 0)
      else (s.kRead a b).kFault (kCode s.saf.kdr a b)) := by
  show execKfbCheck a b s = _
  unfold execKfbCheck
  rw [if_neg (by rw [hnew]; simp; exact hend)]
  show (if s.saf.kdr then _ else _) = _
  cases s.saf.kdr with
  | true => cases a <;> cases b <;> rfl
  | false => cases a <;> cases b <;> rfl

theorem kfbCheck_checks (a b : Bool) (hnew : s.saf.kChecked = false)
    (hend : s.saf.kEdge + s.msT (if s.saf.kdr = true then s.pset 1 else s.pset 2) ≤ s.clk) :
    s.ends (.kfbCheck a b) (fun t => t.saf.kChecked = true ∧ t.saf.kfbA = a ∧ t.saf.kfbB = b ∧ s.only t [.saf, .regs] ∧
      if a ≠ s.saf.kdr ∧ b ≠ s.saf.kdr then t.rd SAF_KSTAT.STATE = (if s.saf.kdr = true then 2 else 0) ∧ t.saf.due = s.saf.due
      else t.rd SAF_KSTAT.STATE = 4 ∧ t.saf.due.contains (64, 0) = true ∧
        t.rd SAF_KSTAT.FCAUSE = (if a = s.saf.kdr then (if s.saf.kdr = true then 3 else 1)
          else (if s.saf.kdr = true then 4 else 2))) := by
  have hread : s.only (s.kRead a b) [.saf, .regs] := State.only_iff.2 (by simp [State.kRead])
  refine ⟨_, exec_kfbCheck a b hnew hend, ?_⟩
  by_cases hok : a ≠ s.saf.kdr ∧ b ≠ s.saf.kdr
  · have hcode : kCode s.saf.kdr a b = 0 := by
      obtain ⟨h1, h2⟩ := hok
      revert h1 h2
      cases s.saf.kdr <;> cases a <;> cases b <;> decide
    dsimp only
    rw [if_pos hcode, if_pos hok]
    refine ⟨rfl, rfl, rfl, State.wr_only hread _ _ (by decide), (State.rd_wr_same _ SAF_KSTAT.STATE _).trans ?_, rfl⟩
    cases s.saf.kdr <;> rfl
  · have hcode : kCode s.saf.kdr a b ≠ 0 ∧ kCode s.saf.kdr a b % 16 = (if a = s.saf.kdr then (if s.saf.kdr = true then 3 else 1)
        else (if s.saf.kdr = true then 4 else 2)) := by
      revert hok
      cases s.saf.kdr <;> cases a <;> cases b <;> decide
    obtain ⟨hstate, hcause, hdue, hsaf, honly, -⟩ := (s.kRead a b).kFault_spec (kCode s.saf.kdr a b)
    dsimp only
    rw [if_neg hcode.1, if_neg hok, hcause]
    exact ⟨by rw [hsaf]; rfl, by rw [hsaf]; rfl, by rw [hsaf]; rfl, State.only_trans hread honly, hstate, hdue, hcode.2⟩

/-- A reading that has stood for too long. -/
theorem kfbDiscrepancy_faults (b : Bool) (hchecked : s.saf.kChecked = true) :
    s.ends (.kfbDiscrepancy b s.saf.kdr) (fun t => (if b then t.saf.kfbB else t.saf.kfbA) = s.saf.kdr ∧
      t.rd SAF_KSTAT.STATE = 4 ∧ t.saf.due.contains (64, 0) = true ∧ s.only t [.saf, .regs] ∧
      s.regsBut t [SAF_KSTAT.STATE, SAF_KSTAT.FCAUSE]) := by
  let read : State := { s with saf := if b then { s.saf with kfbB := s.saf.kdr } else { s.saf with kfbA := s.saf.kdr } }
  have hread : s.only read [.saf, .regs] := State.only_iff.2 (by simp [read])
  have hlevel : (if b then read.saf.kfbB else read.saf.kfbA) = s.saf.kdr := by cases b <;> rfl
  have hexec : ∃ code, exec (.kfbDiscrepancy b s.saf.kdr) s = .next (read.kFault code) := by
    show ∃ code, execKfbDiscrepancy b s.saf.kdr s = _
    unfold execKfbDiscrepancy
    rw [if_neg (by simp [hchecked])]
    exact ⟨if !read.saf.kdr ∧ read.rb SAF_KCTL.REQ then 7 else if b then 6 else 5, by
      rw [apply_ite (f := read.kFault)]⟩
  obtain ⟨code, hexec⟩ := hexec
  obtain ⟨hstate, -, hdue, hsaf, honly, hbut⟩ := read.kFault_spec code
  refine ⟨_, hexec, ?_, hstate, hdue, State.only_trans hread honly, State.regsBut_trans (State.regsBut_of_regs rfl _) hbut⟩
  rw [hsaf]
  exact hlevel

/-- The drives fall after their delay. -/
theorem kdrDrop_falls {u : Nat} (hat : s.saf.kDropAt = some u) (hlate : u ≤ s.clk) : s.ends .kdrDrop (fun t =>
    t.saf.kdr = false ∧ t.saf.kDropAt = none ∧ s.only t [.saf, .regs] ∧ s.regsBut t [SAF_KSTAT.STATE]) := by
  have hexec : exec .kdrDrop s = .next s.kdrLow := by
    show execKdrDrop s = _
    unfold execKdrDrop
    rw [hat]
    exact congrArg Host.Outcome.next (if_pos hlate)
  refine ⟨_, hexec, ?_⟩
  unfold State.kdrLow
  cases hon : s.saf.kdr with
  | true => exact ⟨rfl, rfl, State.only_iff.2 (by simp),
      State.regsBut_wr (State.regsBut_of_regs (s := s) rfl _) (List.mem_singleton_self _) 3⟩
  | false => exact ⟨hon, rfl, State.only_iff.2 (by simp), State.regsBut_of_regs (s := s) rfl _⟩

/-! ### SS1 -/

/-- SS1 ends: MEN is low. -/
def State.menLow (s : State) : State :=
  { s with saf := { s.saf with ss1 := none, men := false, menAt := some s.clk } }

theorem ss1End_ends {p : Nat × Nat} (hss1 : s.saf.ss1 = some p)
    (h : s.pressSpeed < s.pset 6 ∨ p.2 + s.msT (s.pset 5) ≤ s.clk) :
    s.ends .ss1End (fun t => t.saf.ss1 = none ∧ t.saf.men = false ∧ t.saf.menAt = some s.clk ∧ t.mot.gatesOff = true ∧
      t.mot.cmd = none ∧ t.rd MOT_STAT.STATE = 5 ∧ s.only t [.saf, .mot, .regs, .host]) := by
  have hexec : exec .ss1End s = .next ((s.menLow.motFail rFAULT (dSrc 32)).findIf (decide (s.pset 6 < s.pressSpeed)) 65 0) := by
    show execSs1End s = _
    unfold execSs1End
    rw [hss1]
    exact if_neg (by omega)
  have honly := s.menLow.motFail_only rFAULT (dSrc 32)
  obtain ⟨hcmd, -, hstate, hoff⟩ := s.menLow.motFail_halts rFAULT (dSrc 32)
  have hsaf : (s.menLow.motFail rFAULT (dSrc 32)).saf = s.menLow.saf := honly.2 .saf (by decide)
  have hlow : s.only (s.menLow.motFail rFAULT (dSrc 32)) [.saf, .mot, .regs, .host] :=
    State.only_trans (State.only_iff.2 (by simp [State.menLow])) (State.only_mono honly (by decide))
  refine ⟨_, hexec, ?_⟩
  unfold State.findIf
  split
  · obtain ⟨hfind, hsame⟩ := (s.menLow.motFail rFAULT (dSrc 32)).find_spec 65 0
    rw [hsame, hsaf, show ((s.menLow.motFail rFAULT (dSrc 32)).find 65 0).mot = _ from hfind.2 .mot (by decide)]
    exact ⟨rfl, rfl, rfl, hoff, hcmd, (State.rd_of_regs (hfind.2 .regs (by decide)) _).trans hstate,
      State.only_trans hlow (State.only_mono hfind (by decide))⟩
  · rw [hsaf]
    exact ⟨rfl, rfl, rfl, hoff, hcmd, hstate, hlow⟩

/-- MEN returns. -/
theorem menRestore_restores (hsince : s.since s.saf.menAt 1000 = true)
    (hmode : s.sys.mode = .standby ∨ s.sys.mode = .run ∨ s.sys.mode = .service) (hlatch : s.rb SAF_STAT.LATCH = false) :
    s.ends .menRestore (fun t => t.saf.men = true ∧ t.saf.menAt = none ∧ s.only t [.saf, .flt]) := by
  refine ⟨_, if_pos (by rw [hsince, hlatch, decide_eq_true hmode]; rfl), rfl, rfl, ?_⟩
  exact State.only_trans (State.only_iff.2 (by simp)) (State.only_mono (State.condGone_only _ 32 0) (by decide))

/-! ### E-stop and tray -/

/-- A filtered E-stop input makes a demand. -/
theorem estopFilterExpiry_demands (b : Bool) (hq : s.quiet 70) : s.ends (.estopFilterExpiry b) (fun t =>
    (if b then t.saf.estB else t.saf.estA) = false ∧ t.active 70 = true) := by
  let old := bitN (s.rd SAF_CAUSEV.SF) 6
  let f : SafS := if b then { s.saf with estB := false } else { s.saf with estA := false }
  let g : SafS := { f with estSeenA := (old && f.estSeenA) || !f.estA, estSeenB := (old && f.estSeenB) || !f.estB }
  have hq' : ({ s with saf := g } : State).quiet 70 := hq
  have hstill : SafStill { s with saf := g } (({ s with saf := g } : State).raiseDev 70) := (SafStill.refl _).raiseDev 70 hq'
  refine ⟨_, rfl, ?_, State.raiseDev_active hq' (by decide)⟩
  show (if b then (({ s with saf := g } : State).raiseDev 70).saf.estB
    else (({ s with saf := g } : State).raiseDev 70).saf.estA) = false
  rw [hstill]
  cases b <;> rfl

theorem estopDiscrepancy_noted (hdem : bitN (s.rd SAF_CAUSEV.SF) 6 = true)
    (hseen : s.saf.estSeenA = false ∨ s.saf.estSeenB = false) : s.ends .estopDiscrepancy (fun t =>
      t.rd SAF_IO.EST_DISC = 1 ∧ s.only t [.regs] ∧ s.regsBut t [SAF_IO.EST_DISC]) := by
  refine ⟨_, congrArg Host.Outcome.next (if_pos ?_), State.rd_wr_same _ _ _, State.only_iff.2 (by simp),
    State.regsBut_wr (fun _ _ => rfl) (List.mem_singleton_self _) 1⟩
  rcases hseen with h | h
  all_goals simp [hdem, h]

/-- What clears activates nothing. -/
theorem State.clear_inactive {t : State} {n : Src} (a : Ch) {c : Ch} (h : t.activeIn n c = false) :
    (t.clear n a).activeIn n c = false := by
  unfold State.clear
  dsimp only
  split
  · exact h
  · unfold State.activeIn at h ⊢
    rw [State.event_src, State.src_updSrc_same]
    show ((t.src n).act &&& ~~~ (actBit n a)).getLsbD c.val = false
    rw [BitVec.getLsbD_and, h, Bool.false_and]

theorem State.condGone_inactive {t : State} {n : Src} (a : Ch) {c : Ch} (h : t.activeIn n c = false) :
    (t.condGone n a).activeIn n c = false := by
  unfold State.activeIn at h ⊢
  unfold State.condGone
  rw [State.src_updSrc_same]
  exact h

/-- What one step brings about in its place, and every step keeps, holds in every place after all. -/
theorem State.foldl_everywhere {f : State → Ch → State} {P : Ch → State → Prop} (hstep : ∀ t a, P a (f t a))
    (hkeep : ∀ t a c, P c t → P c (f t a)) (l : List Ch) (t : State) {c : Ch} (h : c ∈ l ∨ P c t) : P c (l.foldl f t) := by
  induction l generalizing t with
  | nil => exact h.resolve_left (by simp)
  | cons a l ih =>
    refine ih (f t a) ?_
    by_cases hca : c = a
    · exact .inr (hca ▸ hstep t a)
    · exact h.imp (fun hm => (List.mem_cons.1 hm).resolve_left hca) (hkeep t a c)

/-- The condition of a source of the channels is gone in a channel, and the source clears. -/
def State.clearedAt (n : Src) (s : State) (c : Ch) : State := (s.condGone n c).clear n c

theorem State.clearedAt_only (n : Src) (s : State) (c : Ch) : s.only (State.clearedAt n s c) [.flt, .host] := by
  refine State.only_trans (State.only_mono (s.condGone_only n c) (by decide)) ?_
  unfold State.clearedAt State.clear
  dsimp only
  split
  · exact State.only_refl _ _
  · exact State.only_trans (State.only_mono (State.updSrc_only _ n _) (by decide))
      (State.only_mono (State.event_only _ _ _ _) (by decide))

/-- A source of the channels is cleared in every channel. -/
theorem State.forCh_clear (s : State) {n : Src} (hn : isChanSrc n = true) :
    (∀ c : Ch, (s.forCh allCh (State.clearedAt n)).activeIn n c = false) ∧
      s.only (s.forCh allCh (State.clearedAt n)) [.flt, .host] := by
  refine ⟨fun c => ?_, State.foldl_only _ (fun t a h => State.only_trans h (State.clearedAt_only n t a)) (State.only_refl _ _)⟩
  exact State.foldl_everywhere (P := fun c t => t.activeIn n c = false) (fun t a => State.clear_activeIn _ n a hn)
    (fun t a c h => State.clear_inactive a (State.condGone_inactive a h)) allCh s (.inl (List.mem_finRange c))

/-- A tray exchange resets the counters of SF6 and clears its locks. -/
theorem trayExchange_resets (hsince : s.since s.saf.trayOpen 1000 = true) (hclosed : s.saf.trayIso = false)
    (hiso : s.anyIso = false) : s.ends .trayExchange (fun t => t.saf.tray = false ∧ t.saf.trayOpen = none ∧
      (∀ c : Ch, bget t.saf.sf6Q c = 0 ∧ bget t.saf.sf6T c = 0 ∧ t.activeIn 15 c = false) ∧
      s.only t [.saf, .flt, .host]) := by
  let reset : State := { s with saf := { s.saf with
    trayOpen := none, tray := false, sf6Q := Vector.replicate 16 0, sf6T := Vector.replicate 16 0
    sf6Acc := Vector.replicate 16 0 } }
  obtain ⟨hclear, honly⟩ := reset.forCh_clear (n := 15) (by decide)
  have hexec : exec .trayExchange s = .next (reset.forCh allCh (State.clearedAt 15)) :=
    if_pos (by rw [hsince, hclosed, hiso]; rfl)
  have hsaf : (reset.forCh allCh (State.clearedAt 15)).saf = reset.saf := honly.2 .saf (by decide)
  have hzero {α : Type} (a : α) (c : Ch) : bget (Vector.replicate 16 a) c = a := by simp [bget]
  refine ⟨_, hexec, ?_, ?_, fun c => ⟨?_, ?_, hclear c⟩, State.only_trans (State.only_iff.2 (by simp [reset]))
    (State.only_mono honly (by decide))⟩
  · rw [hsaf]
  · rw [hsaf]
  · rw [hsaf]
    exact hzero 0 c
  · rw [hsaf]
    exact hzero 0 c

/-! ### The bus chopper -/

/-- A chopper that is turned on or off is so. -/
theorem Duty.turn_since (d : Duty) (on : Bool) (t : Nat) : (d.turn on t).since.isSome = on := by
  obtain ⟨since, log⟩ := d
  cases since with
  | none => cases on <;> rfl
  | some a => cases on <;> rfl

/-- The chopper follows its thresholds. -/
theorem brkbSwitch_follows (v : Nat) : s.ends (.brkbSwitch v) (fun t => s.only t [.saf] ∧
    t.saf.brkb.since.isSome = (if s.saf.brkbForce then true else if s.active 36 then false
      else if s.brkbEff.1 < (v : Int) then true else if (v : Int) < s.brkbEff.2 then false else s.saf.brkb.since.isSome)) :=
  ⟨_, rfl, State.only_iff.2 (by simp), Duty.turn_since _ _ _⟩

/-- Its overload raises source 36 and holds it off. -/
theorem brkbOvl_raises (hlong : s.rd SAF_BRKBD.DMAX * s.msT 1000 < 100 * s.saf.brkb.onTime s.clk (s.msT 1000))
    (hq : s.quiet 36) : s.ends .brkbOvl (fun t => t.active 36 = true ∧
      (s.saf.brkbForce = false → t.saf.brkb.since = none)) := by
  let off : State := { s with saf := { s.saf with
    brkb := if s.saf.brkbForce then s.saf.brkb else s.saf.brkb.turn false s.clk } }
  have hexec : exec .brkbOvl s = .next (off.raiseDev 36) := if_pos hlong
  have hq' : off.quiet 36 := hq
  have hstill : SafStill off (off.raiseDev 36) := (SafStill.refl off).raiseDev 36 hq'
  refine ⟨_, hexec, State.raiseDev_active hq' (by decide), fun hforce => ?_⟩
  rw [hstill]
  show (if s.saf.brkbForce then s.saf.brkb else s.saf.brkb.turn false s.clk).since = none
  rw [hforce]
  exact Option.not_isSome_iff_eq_none.1 (by rw [if_neg Bool.false_ne_true, Duty.turn_since]; decide)

end

end Sys2Proof.Machine
end

section
open Sys2Proof Sys2Proof.Machine

/-- Settles O47, row by row. -/
theorem contactorsStopsAndTray : Obligations.ContactorsStopsAndTray := by
  unfold Obligations.ContactorsStopsAndTray
  exact fun s => ⟨kdrClose_closes, kdrClose_not, kfbCheck_checks, kfbDiscrepancy_faults, fun u hat hlate => kdrDrop_falls hat hlate,
    fun p hss1 h => ss1End_ends hss1 h, menRestore_restores, estopFilterExpiry_demands, estopDiscrepancy_noted,
    trayExchange_resets, brkbSwitch_follows, brkbOvl_raises⟩

end


section
/-!
SUPPORT. The register fields that a raise whose reaction holds no reset may write (R673 to R679, R81, R87): every other
field reads as before.
-/

namespace Sys2Proof.Machine

/-- The keys of the fields that reports and reactions write. -/
def reactKeys : List Nat :=
  ([FLT_ERRN.LOW, FLT_LREC0.SRC, FLT_LREC0.CHAN, FLT_LREC0.MODE, FLT_LREC0.REACT, FLT_LREC0.VALID, FLT_LREC1.TICK_LO,
    FLT_LREC2.TICK_HI, FLT_FIRST.SRC, FLT_FIRST.VALID, FLT_DUMPSTAT.MISSED, SAF_STAT.LATCH, SAF_CAUSE.FIRST, SAF_CAUSE.POS,
    SAF_CAUSEV.SF, SAF_CAUSEV.OTHER, SAF_KSTAT.STATE, MOT_STAT.STATE, MOT_STAT.ASHORT].map Fld.key) ++
  (allQuads.flatMap fun q => [QD_TRSTAT.TIDX q, QD_TRTICKL.TICK_LO q, QD_TRTICKH.TICK_HI q, QD_TRSTAT.STATE q,
    QD_TRCTL.EN q].map Fld.key) ++ allCh.map fun c => (CH_ISO.MEAS_CLOSE c).key

/-- From `s` to `t` no register field has changed but those that reactions write. -/
def AsideKept (s t : State) : Prop := ∀ f : Fld, f.key ∉ reactKeys → t.rd f = s.rd f

namespace AsideKept

variable {s t u : State}

theorem refl (s : State) : AsideKept s s := fun _ _ => rfl

theorem trans (h : AsideKept s t) (k : AsideKept t u) : AsideKept s u := fun f hf => (k f hf).trans (h f hf)

theorem ite {p : Prop} [Decidable p] (h : AsideKept s t) (k : AsideKept s u) : AsideKept s (if p then t else u) := by
  split
  · exact h
  · exact k

theorem foldl {α : Type} {f : State → α → State} (l : List α) (k : ∀ t a, AsideKept s t → AsideKept s (f t a))
    (h : AsideKept s t) : AsideKept s (l.foldl f t) := by
  induction l generalizing t with
  | nil => exact h
  | cons a l ih => exact ih (k t a h)

theorem same (h : AsideKept s t) (k : u.regs = t.regs) : AsideKept s u := h.trans fun f _ => State.rd_of_regs k f

theorem of_only (h : AsideKept s t) {ps : List Part} (k : t.only u ps) (hp : .regs ∉ ps) : AsideKept s u :=
  h.same (k.2 .regs hp)

theorem wr (h : AsideKept s t) (f : Fld) (v : Nat) (hf : f.key ∈ reactKeys) : AsideKept s (t.wr f v) :=
  h.trans fun _ hg => State.rd_wr_other t v (fun e => hg (e ▸ hf))

theorem event (h : AsideKept s t) (a b c : Nat) : AsideKept s (t.event a b c) := h.same (State.event_regs _ _ _ _)

theorem errPull (h : AsideKept s t) : AsideKept s t.errPull := by
  unfold State.errPull
  exact .ite h ((h.same (u := { t with sys := _ }) rfl).wr FLT_ERRN.LOW 1 (by decide))

/-- The fields of a trace are among them. -/
theorem trace_keys (q : Quad) : (QD_TRSTAT.TIDX q).key ∈ reactKeys ∧ (QD_TRTICKL.TICK_LO q).key ∈ reactKeys ∧
    (QD_TRTICKH.TICK_HI q).key ∈ reactKeys ∧ (QD_TRSTAT.STATE q).key ∈ reactKeys ∧ (QD_TRCTL.EN q).key ∈ reactKeys := by
  revert q
  decide

theorem traceFire (h : AsideKept s t) (q : Quad) : AsideKept s (t.traceFire q) := by
  obtain ⟨htidx, hlo, hhi, hstate, -⟩ := trace_keys q
  unfold State.traceFire
  exact .ite (.wr (.same (((h.wr _ _ htidx).wr _ _ hlo).wr _ _ hhi) rfl) _ _ hstate) h

theorem traceTrig (h : AsideKept s t) (q : Quad) (n : Nat) : AsideKept s (t.traceTrig q n) := by
  unfold State.traceTrig
  exact .ite (.foldl _ (fun _ p k => .ite (k.traceFire p) k) (h.traceFire q)) h

theorem traceAll (h : AsideKept s t) (n : Nat) : AsideKept s (t.traceAll n) := .foldl _ (fun _ q k => k.traceTrig q n) h

theorem traceStop (h : AsideKept s t) (q : Quad) : AsideKept s (t.traceStop q) := by
  obtain ⟨-, -, -, hstate, hen⟩ := trace_keys q
  unfold State.traceStop
  exact .ite ((h.wr _ _ hen).wr _ _ hstate) h

theorem faultTrig (h : AsideKept s t) (n : Src) (c : Ch) : AsideKept s (t.faultTrig n c) := by
  have hquad : AsideKept s (t.traceTrig (quadOf c) 6) := h.traceTrig _ 6
  unfold State.faultTrig
  exact .ite (h.traceAll 6) (.ite (.ite (hquad.traceTrig _ 3) (.ite (hquad.traceTrig _ 4) hquad)) h)

theorem dumpTrigger (h : AsideKept s t) (trigger first : Nat) : AsideKept s (t.dumpTrigger trigger first) := by
  unfold State.dumpTrigger
  extract_lets snap traced
  exact .ite (h.wr FLT_DUMPSTAT.MISSED _ (by decide)) (.foldl _ (fun _ q k => k.traceStop q) ((h.traceAll 8).same rfl))

theorem report (h : AsideKept s t) (n : Src) (c : Ch) : AsideKept s (t.report n c) := by
  unfold State.report
  extract_lets re marked posted seqIrq nmi place code recorded pulled first traced dump
  have hposted : AsideKept s posted := (h.same (u := marked) rfl).event _ _ _
  have hseq : AsideKept s seqIrq := .ite (hposted.same rfl) hposted
  have hnmi : AsideKept s nmi := .ite (hseq.same rfl) hseq
  have hplace : AsideKept s place := (hnmi.wr FLT_LREC0.SRC _ (by decide)).wr FLT_LREC0.CHAN _ (by decide)
  have hcode : AsideKept s code := (hplace.wr FLT_LREC0.MODE _ (by decide)).wr FLT_LREC0.REACT _ (by decide)
  have hrecorded : AsideKept s recorded := .ite (((hcode.wr FLT_LREC0.VALID _ (by decide)).wr FLT_LREC1.TICK_LO _
    (by decide)).wr FLT_LREC2.TICK_HI _ (by decide)) hnmi
  have hpulled : AsideKept s pulled := hrecorded.errPull
  have hfirst : AsideKept s first :=
    .ite (.ite hpulled ((hpulled.wr FLT_FIRST.SRC _ (by decide)).wr FLT_FIRST.VALID _ (by decide))) hrecorded
  have htraced : AsideKept s traced := hfirst.faultTrig n c
  exact .ite (htraced.dumpTrigger _ _) htraced

theorem safeChannels (h : AsideKept s t) : AsideKept s t.safeChannels := by
  have hmeas : ∀ c : Ch, (CH_ISO.MEAS_CLOSE c).key ∈ reactKeys := by decide
  exact .foldl _ (fun _ c k => .wr ((AsideKept.ite (k.of_only (State.failStep_ch_only _ c _ _) (by decide))
    (k.of_only (State.failStep_ch_only _ c _ _) (by decide))).of_only (State.protOpen_only _ c) (by decide)) _ _ (hmeas c)) h

theorem motTorqueOff (h : AsideKept s t) : AsideKept s t.motTorqueOff := by
  unfold State.motTorqueOff
  have hfree : AsideKept s { t with mot := { t.mot with hold := .none } } := h.same rfl
  have hoff {v : State} (hv : AsideKept s v) : AsideKept s v.motGatesOff :=
    (hv.same (u := { v with mot := _ }) rfl).wr MOT_STAT.ASHORT 0 (by decide)
  exact .ite (hoff ((h.of_only (t.motComplete_only _ _) (by decide)).wr MOT_STAT.STATE 5 (by decide)))
    (hoff (.ite hfree (hfree.wr MOT_STAT.STATE 0 (by decide))))

theorem kdrLow (h : AsideKept s t) : AsideKept s t.kdrLow := by
  unfold State.kdrLow
  exact .ite ((h.same (u := { t with saf := _ }) rfl).wr SAF_KSTAT.STATE 3 (by decide)) (h.same rfl)

theorem latchLow (h : AsideKept s t) (x : SafeCause) : AsideKept s (t.latchLow x) := by
  refine AsideKept.same (t := t.latchCause x) ?_ rfl
  unfold State.latchCause
  extract_lets set latched saf void
  have hset : AsideKept s set := (h.wr SAF_STAT.LATCH _ (by decide)).wr SAF_CAUSE.FIRST _ (by decide)
  have hlatched : AsideKept s latched := by
    refine .ite h ?_
    split
    · exact hset.wr SAF_CAUSE.POS _ (by decide)
    · exact hset.wr SAF_CAUSE.POS _ (by decide)
  have hvoid : AsideKept s void := hlatched.same rfl
  cases x with
  | sf n => exact (hvoid.same (u := { void with saf := _ }) rfl).wr SAF_CAUSEV.SF _ (by decide)
  | ringWdog r => cases r <;> exact hvoid.wr SAF_CAUSEV.OTHER _ (by decide)
  | _ => exact hvoid.wr SAF_CAUSEV.OTHER _ (by decide)

theorem goSafe (h : AsideKept s t) (atOnce : Bool) : AsideKept s (t.goSafe atOnce) := by
  unfold State.goSafe
  extract_lets traced errn sys going dumped saf
  have htraced : AsideKept s traced := ((h.of_only (t.abandon_only 4) (by decide)).safeChannels.motTorqueOff).traceAll 7
  clear_value traced
  have herrn : AsideKept s errn := htraced.errPull
  clear_value errn
  have hgoing : AsideKept s going := herrn.same rfl
  clear_value going
  have hdumped : AsideKept s dumped := .ite (hgoing.dumpTrigger _ _) hgoing
  clear_value dumped
  exact .ite hdumped.kdrLow (.ite (hdumped.same rfl) hdumped)

theorem safeReq (h : AsideKept s t) (x : SafeCause) (atOnce : Bool) : AsideKept s (t.safeReq x atOnce) := by
  have hlow := h.latchLow x
  have habandon : AsideKept s ((t.latchLow x).abandon 4) := hlow.of_only (State.abandon_only _ 4) (by decide)
  by_cases hd : t.driven
  · rw [State.safeReq_driven t x atOnce hd]
    exact .ite (.ite hlow.kdrLow hlow) (hlow.goSafe atOnce)
  · rw [State.safeReq_aside t x atOnce hd]
    exact .ite hlow (.ite habandon.kdrLow habandon)

/-- A raise whose reaction holds no reset. -/
theorem raiseAs (h : AsideKept s t) (n : Src) (c : Ch) (x : SafeCause) (hq : t.quiet n) : AsideKept s (t.raiseAs n c x) := by
  have hmark (f : SrcS → SrcS) : AsideKept s (t.updSrc n f) := h.same rfl
  cases hlisted : srcListed n.val with
  | false =>
    rw [State.raiseAs_unlisted t n c x hlisted]
    exact hmark _
  | true =>
    by_cases hact : (t.src n).act &&& actBit n c = 0
    · rw [State.raiseAs_new t n c x hlisted hact, State.react_quiet _ n c _ x hq.1 hq.2]
      exact .ite ((h.report n c).safeReq x _) (h.report n c)
    · rw [State.raiseAs_again t n c x hlisted hact]
      exact .ite ((hmark _).safeReq x _) (hmark _)

theorem raiseDev (h : AsideKept s t) (n : Src) (hq : t.quiet n) : AsideKept s (t.raiseDev n) := h.raiseAs n 0 _ hq

end AsideKept

end Sys2Proof.Machine
end


section
/-!
SUPPORT. BOOT (R122, R653, R709 to R717, R733, R739): the release of the internal reset, the injection test, the end of
the sequence.
-/

namespace Sys2Proof.Machine

/-! ### The release of the internal reset -/

/-- A source that clears keeps every reaction. -/
theorem State.clear_react (s : State) (n m : Src) (c : Ch) : ((s.clear n c).src m).react = (s.src m).react := by
  unfold State.clear
  dsimp only
  split
  · rfl
  · rw [State.event_src]
    by_cases hn : n = m
    · subst hn
      rw [State.src_updSrc_same]
    · rw [State.src_updSrc_other _ _ hn]

theorem State.condGone_react (s : State) (n m : Src) (c : Ch) : ((s.condGone n c).src m).react = (s.src m).react := by
  unfold State.condGone
  by_cases hn : n = m
  · subst hn
    rw [State.src_updSrc_same]
  · rw [State.src_updSrc_other _ _ hn]

theorem State.clearedAt_react (n : Src) (s : State) (m : Src) (c : Ch) : ((State.clearedAt n s c).src m).react = (s.src m).react :=
  (State.clear_react _ n m c).trans (State.condGone_react s n m c)

/-- What the end of a BLOCK reset clears changes sources and events alone, and no reaction. -/
theorem State.blkClears_spec (s : State) :
    s.only s.blkClears [.flt, .host] ∧ ∀ m : Src, (s.blkClears.src m).react = (s.src m).react := by
  have hfold (l : List Quad) (t : State) (h : s.only t [.flt, .host] ∧ ∀ m : Src, (t.src m).react = (s.src m).react) :
      s.only (l.foldl (fun s q => State.clearedAt 16 s (chOf q 0)) t) [.flt, .host] ∧
        ∀ m : Src, ((l.foldl (fun s q => State.clearedAt 16 s (chOf q 0)) t).src m).react = (s.src m).react := by
    induction l generalizing t with
    | nil => exact h
    | cons q l ih =>
      exact ih _ ⟨State.only_trans h.1 (State.clearedAt_only 16 t _), fun m => (State.clearedAt_react 16 t m _).trans (h.2 m)⟩
  obtain ⟨honly, hreact⟩ := hfold allQuads s ⟨State.only_refl _ _, fun _ => rfl⟩
  have hlast (t : State) : t.only (State.clearedAt 56 (State.clearedAt 46 t 0) 0) [.flt, .host] ∧
      ∀ m : Src, ((State.clearedAt 56 (State.clearedAt 46 t 0) 0).src m).react = (t.src m).react :=
    ⟨State.only_trans (State.clearedAt_only 46 t 0) (State.clearedAt_only 56 _ 0),
      fun m => (State.clearedAt_react 56 _ m 0).trans (State.clearedAt_react 46 t m 0)⟩
  exact ⟨State.only_trans honly (hlast _).1, fun m => ((hlast _).2 m).trans (hreact m)⟩

/-- The straps are sampled and the cause of a power-on is set. -/
def State.strapped (s : State) (i : StrapIn) (k : RstKind) : State :=
  let t : State := { s with
    sys := { s.sys with held := none, mode := .boot, bootFail := false, parkDone := false }
    met := { s.met with otpLoaded := true } }
  let t := (t.wr SYS_STRAP.ROLE i.role.toNat).wr SYS_STRAP.BOOTSEL i.bootsel.toNat
  (if k = .por then t.wr SYS_RSTCAUSE.CAUSE 1 else t).blkClears

/-- BOOT begins: its counter, the clock, the lifecycle in force and the state of the sequence. -/
def State.bootBegun (s : State) (i : StrapIn) (warm : Bool) : State :=
  let s := s.wr SYS_RSTCAUSE.BOOTS (satU 16 (s.rd SYS_RSTCAUSE.BOOTS + 1))
  let s := (s.wb SYS_CLK.XTAL i.xtal).wr SYS_CLK.REF (if i.role.toNat = 0 ∧ !i.xtal then 1 else 0)
  let s := s.wb SEC_BOOTSTAT.WARMBOOT warm
  let s := if warm then s
    else { s with sec := { s.sec with life := s.sec.lifePend.getD s.sec.life, lifePend := none } }
  let s := s.wr SEC_BOOTSTAT.STATE (if !warm ∧ i.bootsel = 0 then 5 else 1)
  let s := if i.role.toNat = 3 then s.wr RING_STAT.NPOS 1 else s
  s.wr RING_DLY.FWD Config.fwdLatency

section
variable {s : State} {i : StrapIn} {k : RstKind}

theorem exec_internalResetRelease (hheld : s.sys.held = some k) (hvin : s.pins.vin = true) (hrails : s.pins.rails = [])
    (hrst : s.pins.rstN = true) (hperst : s.pins.perstN = true ∨ i.role = 0) :
    exec (.internalResetRelease i) s = .next (if i.railFail.isEmpty then (s.strapped i k).bootBegun i (decide (k = .warm))
      else (i.railFail.foldl (fun s n => (s.wr FLT_RB.SRC n.val).wr FLT_RB.VALID 1)
        ((s.strapped i k).bootBegun i (decide (k = .warm)))).raiseDev 43) := by
  show execInternalResetRelease i s = _
  unfold execInternalResetRelease
  rw [hheld]
  dsimp only
  rw [if_neg]
  · rfl
  · rcases hperst with hp | hr
    · simp [hvin, hrails, hrst, hp]
    · simp [hvin, hrails, hrst, hr]

theorem State.strapped_spec (s : State) (i : StrapIn) (k : RstKind) :
    (s.strapped i k).rd SYS_STRAP.ROLE = i.role.toNat ∧ (s.strapped i k).rd SYS_STRAP.BOOTSEL = i.bootsel.toNat ∧
    (k = .por → (s.strapped i k).rd SYS_RSTCAUSE.CAUSE = 1) ∧
    s.regsBut (s.strapped i k) [SYS_STRAP.ROLE, SYS_STRAP.BOOTSEL, SYS_RSTCAUSE.CAUSE] ∧
    (s.strapped i k).sys = { s.sys with held := none, mode := .boot, bootFail := false, parkDone := false } ∧
    (s.strapped i k).met = { s.met with otpLoaded := true } ∧ s.only (s.strapped i k) [.sys, .regs, .met, .flt, .host] ∧
    ∀ m : Src, ((s.strapped i k).src m).react = (s.src m).react := by
  unfold State.strapped
  extract_lets sys met t u
  have hrole : u.rd SYS_STRAP.ROLE = i.role.toNat :=
    (State.rd_wr_other _ _ (by decide)).trans ((State.rd_wr_same _ SYS_STRAP.ROLE _).trans (Nat.mod_eq_of_lt i.role.isLt))
  have hsel : u.rd SYS_STRAP.BOOTSEL = i.bootsel.toNat :=
    (State.rd_wr_same _ SYS_STRAP.BOOTSEL _).trans (Nat.mod_eq_of_lt i.bootsel.isLt)
  have hbut : s.regsBut u [SYS_STRAP.ROLE, SYS_STRAP.BOOTSEL, SYS_RSTCAUSE.CAUSE] :=
    State.regsBut_wr (State.regsBut_wr (State.regsBut_of_regs rfl _) (by simp) _) (by simp) _
  have honly : s.only u [.sys, .regs, .met, .flt, .host] := State.only_iff.2 (by simp [u, t])
  have hcaused : ∃ v, (if k = .por then u.wr SYS_RSTCAUSE.CAUSE 1 else u) = v ∧ v.rd SYS_STRAP.ROLE = i.role.toNat ∧
      v.rd SYS_STRAP.BOOTSEL = i.bootsel.toNat ∧ (k = .por → v.rd SYS_RSTCAUSE.CAUSE = 1) ∧
      s.regsBut v [SYS_STRAP.ROLE, SYS_STRAP.BOOTSEL, SYS_RSTCAUSE.CAUSE] ∧ v.sys = u.sys ∧ v.met = u.met ∧
      s.only v [.sys, .regs, .met, .flt, .host] ∧ v.flt = s.flt := by
    refine ⟨_, rfl, ?_⟩
    split
    · exact ⟨(State.rd_wr_other _ 1 (by decide)).trans hrole, (State.rd_wr_other _ 1 (by decide)).trans hsel,
        fun _ => State.rd_wr_same _ _ _, State.regsBut_wr hbut (by simp) 1, rfl, rfl, State.wr_only honly _ _ (by decide), rfl⟩
    · next hk => exact ⟨hrole, hsel, fun h => absurd h hk, hbut, rfl, rfl, honly, rfl⟩
  obtain ⟨v, hv, hrole', hsel', hcause, hbut', hsys, hmet, honly', hflt⟩ := hcaused
  rw [hv]
  obtain ⟨hclears, hreact⟩ := v.blkClears_spec
  have hregs := hclears.2 .regs (by decide)
  refine ⟨(State.rd_of_regs hregs _).trans hrole', (State.rd_of_regs hregs _).trans hsel',
    fun h => (State.rd_of_regs hregs _).trans (hcause h), State.regsBut_trans hbut' (State.regsBut_of_regs hregs _),
    (hclears.2 .sys (by decide)).trans hsys, (hclears.2 .met (by decide)).trans hmet,
    State.only_trans honly' (State.only_mono hclears (by decide)), fun m => (hreact m).trans ?_⟩
  unfold State.src
  rw [hflt]

theorem State.bootBegun_spec (s : State) (i : StrapIn) (warm : Bool) :
    (s.bootBegun i warm).rd SYS_RSTCAUSE.BOOTS = satU 16 (s.rd SYS_RSTCAUSE.BOOTS + 1) ∧
    (s.bootBegun i warm).rd SEC_BOOTSTAT.STATE = (if !warm ∧ i.bootsel = 0 then 5 else 1) ∧
    (s.bootBegun i warm).rb SEC_BOOTSTAT.WARMBOOT = warm ∧
    s.regsBut (s.bootBegun i warm) [SYS_RSTCAUSE.BOOTS, SYS_CLK.XTAL, SYS_CLK.REF, SEC_BOOTSTAT.WARMBOOT,
      SEC_BOOTSTAT.STATE, RING_STAT.NPOS, RING_DLY.FWD] ∧ s.only (s.bootBegun i warm) [.regs, .sec] := by
  unfold State.bootBegun
  extract_lets counted clocked marked sec lived stated posed
  have hsat : satU 16 (s.rd SYS_RSTCAUSE.BOOTS + 1) < 2 ^ 16 := by
    unfold satU
    omega
  have hlived : lived.regs = marked.regs := by
    unfold lived
    split
    · rfl
    · rfl
  have hposed (f : Fld) (hf : RING_STAT.NPOS.key ≠ f.key) : posed.rd f = stated.rd f := by
    unfold posed
    split
    · exact State.rd_wr_other _ 1 hf
    · rfl
  have hmarked : marked.rb SEC_BOOTSTAT.WARMBOOT = warm := State.rb_wb_same _ _ _ (by decide)
  refine ⟨?_, ?_, ?_, ?_, ?_⟩
  · refine (State.rd_wr_other _ _ (by decide)).trans ((hposed _ (by decide)).trans ((State.rd_wr_other _ _ (by decide)).trans
      ((State.rd_of_regs hlived _).trans ((State.rd_wb_other _ _ (by decide)).trans ((State.rd_wr_other _ _ (by decide)).trans
        ((State.rd_wb_other _ _ (by decide)).trans ((State.rd_wr_same s SYS_RSTCAUSE.BOOTS _).trans ?_)))))))
    exact Nat.mod_eq_of_lt hsat
  · refine (State.rd_wr_other _ _ (by decide)).trans ((hposed _ (by decide)).trans
      ((State.rd_wr_same _ SEC_BOOTSTAT.STATE _).trans ?_))
    split
    · rfl
    · rfl
  · rw [← hmarked]
    exact State.rb_of_rd ((State.rd_wr_other _ _ (by decide)).trans ((hposed _ (by decide)).trans
      ((State.rd_wr_other _ _ (by decide)).trans (State.rd_of_regs hlived _))))
  · have hbut : s.regsBut stated [SYS_RSTCAUSE.BOOTS, SYS_CLK.XTAL, SYS_CLK.REF, SEC_BOOTSTAT.WARMBOOT,
        SEC_BOOTSTAT.STATE, RING_STAT.NPOS, RING_DLY.FWD] :=
      State.regsBut_wr (State.regsBut_trans (State.regsBut_wr (State.regsBut_wr (State.regsBut_wr (State.regsBut_wr
        (fun _ _ => rfl) (by simp) _) (by simp) _) (by simp) _) (by simp) _) (State.regsBut_of_regs hlived _)) (by simp) _
    refine State.regsBut_wr (fun g hg => (hposed g (hg _ (by simp))).trans (hbut g hg)) (by simp) _
  · have hmarkedOnly : s.only marked [.regs, .sec] := State.only_iff.2 (by simp [marked, clocked, counted, State.wb])
    have hlivedOnly : s.only lived [.regs, .sec] := by
      unfold lived
      split
      · exact hmarkedOnly
      · exact State.only_trans hmarkedOnly (State.only_iff.2 (by simp))
    have hposedOnly : s.only posed [.regs, .sec] := by
      have hstated : s.only stated [.regs, .sec] := State.wr_only hlivedOnly _ _ (by decide)
      unfold posed
      split
      · exact State.wr_only hstated _ _ (by decide)
      · exact hstated
    exact State.wr_only hposedOnly _ _ (by decide)

/-- The internal reset is released: BOOT begins. -/
theorem internalResetRelease_boots (hheld : s.sys.held = some k) (hvin : s.pins.vin = true) (hrails : s.pins.rails = [])
    (hrst : s.pins.rstN = true) (hperst : s.pins.perstN = true ∨ i.role = 0) (hgood : i.railFail = []) :
    s.ends (.internalResetRelease i) (fun t => t.sys.held = none ∧ t.sys.mode = .boot ∧ t.role = i.role.toNat ∧
      t.rd SYS_STRAP.BOOTSEL = i.bootsel.toNat ∧ t.rd SYS_RSTCAUSE.BOOTS = satU 16 (s.rd SYS_RSTCAUSE.BOOTS + 1) ∧
      (k = .por → t.rd SYS_RSTCAUSE.CAUSE = 1) ∧
      t.rd SEC_BOOTSTAT.STATE = (if k ≠ .warm ∧ i.bootsel = 0 then 5 else 1) ∧
      t.rb SEC_BOOTSTAT.WARMBOOT = decide (k = .warm) ∧ t.met = { s.met with otpLoaded := true } ∧
      s.only t [.sys, .regs, .sec, .met, .flt, .host]) := by
  obtain ⟨hrole, hsel, hcause, hbut, hsys, hmet, honly, -⟩ := s.strapped_spec i k
  obtain ⟨hboots, hstate, hwarm, hbut', honly'⟩ := (s.strapped i k).bootBegun_spec i (decide (k = .warm))
  have hsys' : ((s.strapped i k).bootBegun i (decide (k = .warm))).sys = _ := (honly'.2 .sys (by decide)).trans hsys
  refine ⟨_, exec_internalResetRelease hheld hvin hrails hrst hperst, ?_⟩
  rw [hgood]
  dsimp only [List.isEmpty_nil]
  rw [if_pos rfl, hsys']
  refine ⟨rfl, rfl, (hbut' _ (by decide)).trans hrole, (hbut' _ (by decide)).trans hsel, ?_,
    fun h => (hbut' _ (by decide)).trans (hcause h), ?_, hwarm, (honly'.2 .met (by decide)).trans hmet,
    State.only_trans (State.only_mono honly (by decide)) (State.only_mono honly' (by decide))⟩
  · rw [hboots, hbut _ (by decide)]
  · rw [hstate]
    exact if_congr (by simp) rfl rfl

/-- Rails that fail their check are recorded. -/
def State.railsFailed (s : State) (l : List Src) : State :=
  l.foldl (fun s n => (s.wr FLT_RB.SRC n.val).wr FLT_RB.VALID 1) s

theorem State.railsFailed_spec (s : State) (l : List Src) : s.only (s.railsFailed l) [.regs] ∧
    (l ≠ [] → (s.railsFailed l).rd FLT_RB.VALID = 1) := by
  induction l generalizing s with
  | nil => exact ⟨State.only_refl _ _, fun h => absurd rfl h⟩
  | cons n l ih =>
    obtain ⟨honly, hvalid⟩ := ih ((s.wr FLT_RB.SRC n.val).wr FLT_RB.VALID 1)
    refine ⟨State.only_trans (State.only_iff.2 (by simp)) honly, fun _ => ?_⟩
    cases l with
    | nil => exact State.rd_wr_same _ FLT_RB.VALID 1
    | cons m l => exact hvalid (by simp)

theorem internalResetRelease_fails (hheld : s.sys.held = some k) (hvin : s.pins.vin = true) (hrails : s.pins.rails = [])
    (hrst : s.pins.rstN = true) (hperst : s.pins.perstN = true ∨ i.role = 0) (hbad : i.railFail ≠ []) (hq : s.quiet 43) :
    s.ends (.internalResetRelease i) (fun t => t.sys.held = none ∧ t.rb FLT_RB.VALID = true ∧ t.active 43 = true) := by
  obtain ⟨-, -, -, -, hsys, -, -, hreact⟩ := s.strapped_spec i k
  obtain ⟨-, -, -, -, honly⟩ := (s.strapped i k).bootBegun_spec i (decide (k = .warm))
  obtain ⟨hrails', hvalid⟩ := ((s.strapped i k).bootBegun i (decide (k = .warm))).railsFailed_spec i.railFail
  have hexec := exec_internalResetRelease hheld hvin hrails hrst hperst
  rw [if_neg (by simpa using hbad)] at hexec
  refine ⟨_, hexec, ?_⟩
  change (State.raiseDev (((s.strapped i k).bootBegun i (decide (k = .warm))).railsFailed i.railFail) 43).sys.held = none ∧
    (State.raiseDev (((s.strapped i k).bootBegun i (decide (k = .warm))).railsFailed i.railFail) 43).rb FLT_RB.VALID = true ∧
    (State.raiseDev (((s.strapped i k).bootBegun i (decide (k = .warm))).railsFailed i.railFail) 43).active 43 = true
  have hflt := (hrails'.2 .flt (by decide)).trans (honly.2 .flt (by decide))
  have hsys' := (hrails'.2 .sys (by decide)).trans ((honly.2 .sys (by decide)).trans hsys)
  generalize ((s.strapped i k).bootBegun i (decide (k = .warm))).railsFailed i.railFail = t at hflt hsys' hvalid
  have hq' : t.quiet 43 := by
    have hsrc : t.src 43 = (s.strapped i k).src 43 := congrArg (fun x : FltS => bget x.srcs 43) hflt
    unfold State.quiet
    rw [hsrc, hreact]
    exact hq
  have hreacted : Reacted t (t.raiseDev 43) := Reacted.raiseAs (.refl t) 43 0 _ hq'
  refine ⟨?_, decide_eq_true ?_, State.raiseDev_active hq' (by decide)⟩
  · rw [hreacted.sys, hsys']
  · exact ((AsideKept.refl t).raiseDev 43 hq' FLT_RB.VALID (by decide)).trans (hvalid hbad)

/-! ### The PLL, the digest and the challenge -/

/-- The PLL has locked. -/
def State.pllOn (s : State) : State := { s with sys := { s.sys with tickOut := true } }.wr SYS_CLK.LOCK 1

theorem exec_pllLock (hidle : s.idle = false) :
    exec .pllLock s = .next (if s.sys.mode = .boot ∧ s.bypass .a then s.pllOn.startRing else s.pllOn) := by
  have hnot : ¬ (s.sys.held.isSome ∨ s.sys.mode = .park) := by
    unfold State.idle at hidle
    simp only [Bool.or_eq_false_iff, decide_eq_false_iff_not] at hidle
    simp [hidle.1, hidle.2]
  have hbyp : s.pllOn.bypass .a = s.bypass .a := State.rb_of_rd (State.rd_wr_other _ 1 (by decide))
  show execPllLock s = _
  unfold execPllLock
  rw [if_neg hnot, ← hbyp]
  rfl

/-- The ring of a head is open, before the event. -/
def State.ringOpened (s : State) : State :=
  let s := ((s.wr RING_STAT.BYPA 0).wr RING_STAT.BYPB 0).wr RING_STAT.STATE 0
  let s := ((s.wr RING_STAT.NPOS 0).wr RING_STAT.POS 0).wr RING_STAT.POS_VALID 1
  { s with ring := { s.ring with trainT := 0, hopRun := 0, enumT := none, wrapOn := false, cross := false, uids := [] } }

theorem State.ringOpened_rd (s : State) : s.ringOpened.rd RING_STAT.BYPA = 0 ∧ s.ringOpened.rd RING_STAT.STATE = 0 ∧
    s.ringOpened.rd RING_STAT.POS = 0 ∧ s.ringOpened.rd RING_STAT.POS_VALID = 1 ∧
    s.ringOpened.rd SYS_CLK.LOCK = s.rd SYS_CLK.LOCK := by
  have hregs : s.ringOpened.regs = ((((((s.wr RING_STAT.BYPA 0).wr RING_STAT.BYPB 0).wr RING_STAT.STATE 0).wr
      RING_STAT.NPOS 0).wr RING_STAT.POS 0).wr RING_STAT.POS_VALID 1).regs := rfl
  have hrd := State.rd_of_regs hregs
  refine ⟨(hrd _).trans ?_, (hrd _).trans ?_, (hrd _).trans ?_, (hrd _).trans (State.rd_wr_same _ _ _), (hrd _).trans ?_⟩
  all_goals simp (disch := decide) only [State.rd_wr_other, State.rd_wr_same, Nat.zero_mod]

/-- A head that starts its ring is live at position 0. -/
theorem State.startRing_spec {s : State} (hheads : s.headsRing) : s.startRing.live = true ∧
    s.startRing.rd RING_STAT.STATE = 0 ∧ s.startRing.rd RING_STAT.POS = 0 ∧ s.startRing.rb RING_STAT.POS_VALID = true ∧
    s.startRing.rd SYS_CLK.LOCK = s.rd SYS_CLK.LOCK ∧ s.startRing.sys = s.sys := by
  obtain ⟨hbyp, hstate, hpos, hvalid, hlock⟩ := s.ringOpened_rd
  have hstart : s.startRing = s.ringOpened.ringEvent 7 0 := if_pos hheads
  have hevent := s.ringOpened.ringEvent_only 7 0
  have hrd := State.rd_of_regs (hevent.2 .regs (by decide))
  rw [hstart]
  refine ⟨?_, (hrd _).trans hstate, (hrd _).trans hpos, decide_eq_true ((hrd _).trans hvalid), (hrd _).trans hlock,
    hevent.2 .sys (by decide)⟩
  have hopen : (s.ringOpened.ringEvent 7 0).bypass .a = false :=
    decide_eq_false (fun h => absurd (h.symm.trans ((hrd RING_STAT.BYPA).trans hbyp)) (by decide))
  unfold State.live
  rw [hopen]
  rfl

theorem pllLock_locks (hidle : s.idle = false) : s.ends .pllLock (fun t => t.rd SYS_CLK.LOCK = 1 ∧ t.sys.tickOut = true ∧
    (s.sys.mode ≠ .boot ∨ s.bypass .a = false → s.only t [.sys, .regs] ∧ s.regsBut t [SYS_CLK.LOCK]) ∧
    (s.sys.mode = .boot → s.bypass .a = true → s.role = 1 ∨ s.role = 2 →
      t.live = true ∧ t.rd RING_STAT.STATE = 0 ∧ t.rd RING_STAT.POS = 0 ∧ t.rb RING_STAT.POS_VALID = true)) := by
  have hon : s.pllOn.rd SYS_CLK.LOCK = 1 := State.rd_wr_same _ SYS_CLK.LOCK 1
  have hrole : s.pllOn.role = s.role := State.rd_wr_other _ 1 (by decide)
  refine ⟨_, exec_pllLock hidle, ?_⟩
  by_cases hstart : s.sys.mode = .boot ∧ s.bypass .a = true
  · rw [if_pos hstart]
    by_cases hheads : s.pllOn.headsRing
    · obtain ⟨hlive, hstate, hpos, hvalid, hlock, hsys⟩ := State.startRing_spec hheads
      exact ⟨hlock.trans hon, by rw [hsys]; rfl, fun h => absurd hstart (by
        rintro ⟨h1, h2⟩
        rcases h with h | h
        · exact h h1
        · rw [h] at h2
          cases h2), fun _ _ _ => ⟨hlive, hstate, hpos, hvalid⟩⟩
    · have hsame : s.pllOn.startRing = s.pllOn := if_neg hheads
      rw [hsame]
      refine ⟨hon, rfl, fun _ => ⟨State.only_iff.2 (by simp [State.pllOn]),
        State.regsBut_wr (State.regsBut_of_regs rfl _) (List.mem_singleton_self _) 1⟩, fun _ _ h => absurd ?_ hheads⟩
      unfold State.headsRing
      rw [hrole]
      exact h
  · rw [if_neg hstart]
    exact ⟨hon, rfl, fun _ => ⟨State.only_iff.2 (by simp [State.pllOn]),
      State.regsBut_wr (State.regsBut_of_regs rfl _) (List.mem_singleton_self _) 1⟩, fun h1 h2 => absurd ⟨h1, h2⟩ hstart⟩

theorem digestRead_answers (s : State) : s.ends .digestRead (fun t => t.out = .answer [s.regWord 0x7064] :: s.out ∧
    t.rd SEC_DSEL.WORD = (s.rd SEC_DSEL.WORD + 1) % (if s.rd SEC_DSEL.ITEM = 8 then 96 else 12) ∧
    s.only t [.out, .regs] ∧ s.regsBut t [SEC_DSEL.WORD]) := by
  refine ⟨_, rfl, rfl, (State.rd_wr_same _ SEC_DSEL.WORD _).trans (Nat.mod_eq_of_lt ?_), State.only_iff.2 ?_,
    State.regsBut_wr (State.regsBut_of_regs rfl _) (List.mem_singleton_self _) _⟩
  · show _ % (if s.rd SEC_DSEL.ITEM = 8 then 96 else 12) < 2 ^ 7
    split <;> omega
  · simp [State.rdDdata, State.emit]

/-- A fresh challenge is valid. -/
theorem State.newChallenge_spec (s : State) : s.newChallenge.rd SEC_CHALCTL.VALID = 1 ∧ s.only s.newChallenge [.regs, .free] := by
  refine ⟨State.rd_wr_same _ _ _, State.wr_only (State.foldl_only _ (fun t k h => ?_) (State.only_refl _ _)) _ _ (by decide)⟩
  exact State.wr_only (State.only_trans h (State.only_iff.2 (by simp))) _ _ (by decide)

/-- A field that a write does not store is no reason to refuse it. -/
theorem State.fieldCode_passive (s : State) (v : Word) {f : Fld} (h : f.acc = .ro ∨ f.acc = .wo) : s.fieldCode v f = 0 := by
  have hacc : s.accOf f = .ro ∨ s.accOf f = .wo := by
    unfold State.accOf
    split
    · exact .inl rfl
    · split
      · exact .inl rfl
      · split
        · exact .inl rfl
        · exact h
  unfold State.fieldCode
  rcases hacc with hacc | hacc
  · rw [hacc]
  · rw [hacc]

/-- A write of a register without stored fields is accepted where no rule of its home chapter refuses it. -/
theorem State.refuseCode_passive {s : State} {off : Nat} {v : Word} (h : ∀ f ∈ fieldsAt off, f.acc = .ro ∨ f.acc = .wo)
    (h1 : s.homeCode1 off v = 0) (h2 : s.homeCode2 off v = 0) (h3 : s.homeCode3 off v = 0) : s.refuseCode off v = 0 := by
  have hnone (n : Nat) (hn : n ≠ 0) : ((fieldsAt off).map (s.fieldCode v)).contains n = false := by
    rw [Bool.eq_false_iff, Ne, List.contains_iff_mem, List.mem_map]
    rintro ⟨f, hf, hcode⟩
    exact hn (hcode.symm.trans (s.fieldCode_passive v (h f hf)))
  unfold State.refuseCode
  dsimp only
  rw [hnone wLOCKED (by decide), hnone wSERVICE (by decide), hnone wRANGE (by decide), h1, h2, h3]
  rfl

/-- Fields that a write does not store keep the state. -/
theorem State.putFields_passive {s : State} {v : Word} {fs : List Fld} (h : ∀ f ∈ fs, f.acc = .ro ∨ f.acc = .wo) :
    s.putFields v fs = s := by
  have hone (t : State) (f : Fld) (hf : f.acc = .ro ∨ f.acc = .wo) : t.putField v f = t := by
    have hacc : t.accOf f = .ro ∨ t.accOf f = .wo := by
      unfold State.accOf
      split
      · exact .inl rfl
      · split
        · exact .inl rfl
        · split
          · exact .inl rfl
          · exact hf
    unfold State.putField
    dsimp only
    split
    · rfl
    · rcases hacc with hacc | hacc
      · rw [hacc]
      · rw [hacc]
  unfold State.putFields
  induction fs with
  | nil => rfl
  | cons f fs ih =>
    rw [List.foldl_cons, hone s f (h f List.mem_cons_self)]
    exact ih (fun g hg => h g (List.mem_cons_of_mem f hg))

/-- The bit of a row that writes a command bit. -/
theorem withBits_bit0 (v : Word) : (withBits v 0 1 1).getLsbD 0 = true := by
  have hv := v.isLt
  unfold withBits wN
  rw [BitVec.getLsbD_ofNat, Nat.testBit_eq_decide_div_mod_eq]
  simp [bitsN]
  omega

theorem exec_challengeNew (p : Path) (v : Word) (hidle : s.idle = false) :
    exec (.challengeNew p v) s = .next s.newChallenge := by
  have hfields : ∀ f ∈ fieldsAt 0x7020, f.acc = .ro ∨ f.acc = .wo := by decide +kernel
  have hresponds : s.responds 0x7020 = true := by
    unfold State.responds
    rw [hidle]
    simp
  have hput : (s.regPut p 0x7020 (withBits v 0 1 1) none).1 = s.newChallenge := by
    rw [State.regPut_accepted p none hresponds (State.refuseCode_passive hfields rfl rfl rfl), State.putFields_passive hfields]
    exact if_pos (withBits_bit0 v)
  show Host.Outcome.next (s.put1 p 0x7020 (withBits v 0 1 1)) = _
  unfold State.put1 State.putWords
  rw [if_neg (by simp [State.blockHeld]), hput]
  rfl

theorem challengeNew_fresh (p : Path) (v : Word) (hidle : s.idle = false) : s.ends (.challengeNew p v) (fun t =>
    t.look SEC_CHALCTL.VALID = 1 ∧ s.only t [.regs, .free]) := by
  obtain ⟨hvalid, honly⟩ := s.newChallenge_spec
  refine ⟨_, exec_challengeNew p v hidle, ?_, honly⟩
  rw [State.look_eq_rd _ _ (by decide) (by decide) rfl (by decide)]
  exact hvalid

end

end Sys2Proof.Machine
end


section
/-!
SUPPORT. The BOOT sequence (R80, R83, R653, R710 to R717): the injection test, the host's images, and its ends.
-/

namespace Sys2Proof.Machine

section
variable {s : State}

/-! ### The injection test -/

/-- Every item passes. -/
theorem injectionTestDone_passes {i : InjIn} (hmode : s.sys.mode = .boot) (hheld : s.sys.held = none) (hpass : injPass i = true) :
    s.ends (.injectionTestDone i) (fun t => t.rd SAF_STAT.INJ_OK = 1 ∧ t.rd SAF_STAT.INJ_AGE = 0 ∧
      (t.src 78).act &&& actBit 78 0 = 0) := by
  let t : State := ({ s with saf := { s.saf with injT := 0 } }.wr SAF_STAT.INJ_OK 1).wr SAF_STAT.INJ_AGE 0
  have hexec : exec (.injectionTestDone i) s = .next (State.clearedAt 78 t 0) := by
    show execInjectionTestDone i s = _
    unfold execInjectionTestDone
    rw [if_neg (by simp [hmode, hheld]), if_pos hpass]
    rfl
  have hrd := State.rd_of_regs ((State.clearedAt_only 78 t 0).2 .regs (by decide))
  refine ⟨_, hexec, (hrd _).trans ((State.rd_wr_other _ 0 (by decide)).trans (State.rd_wr_same _ SAF_STAT.INJ_OK 1)),
    (hrd _).trans (State.rd_wr_same _ SAF_STAT.INJ_AGE 0), ?_⟩
  unfold State.clearedAt State.clear
  dsimp only
  split
  · assumption
  · rw [State.event_src, State.src_updSrc_same, BitVec.and_assoc]
    simp

/-- An item fails. -/
theorem injectionTestDone_fails {i : InjIn} (hmode : s.sys.mode = .boot) (hheld : s.sys.held = none) (hpass : injPass i = false)
    (hq : s.quiet 78) : s.ends (.injectionTestDone i) (fun t => t.rb SAF_STAT.INJ_OK = false ∧ t.active 78 = true) := by
  have hexec : exec (.injectionTestDone i) s = .next ((s.wr SAF_STAT.INJ_OK 0).raiseDev 78) := by
    show execInjectionTestDone i s = _
    unfold execInjectionTestDone
    rw [if_neg (by simp [hmode, hheld]), if_neg (by simp [hpass])]
  have hq' : (s.wr SAF_STAT.INJ_OK 0).quiet 78 := hq
  have hzero := ((AsideKept.refl (s.wr SAF_STAT.INJ_OK 0)).raiseDev 78 hq' SAF_STAT.INJ_OK (by decide)).trans
    (State.rd_wr_same s SAF_STAT.INJ_OK 0)
  exact ⟨_, hexec, decide_eq_false (fun h => absurd (h.symm.trans hzero) (by decide)), State.raiseDev_active hq' (by decide)⟩

/-! ### The host's image set -/

/-- The checks of a manifest read the boot selection and what OTP holds. -/
theorem State.checkMan_congr {s t : State} (hsel : t.rd SYS_STRAP.BOOTSEL = s.rd SYS_STRAP.BOOTSEL) (hsec : t.sec = s.sec)
    (m : Manifest) (u : ManUse) (len : Nat) : t.checkMan m u len = s.checkMan m u len := by
  unfold State.checkMan State.qspi State.authOk State.keyKnown State.keyRevoked
  rw [hsel, hsec]

theorem exec_bootGo (p : Path) (v : Word) (m : Manifest) (hmode : s.sys.mode = .boot) (hheld : s.sys.held = none) :
    exec (.bootGo p v (some m)) s = .next (s.bootGo (some m)) := by
  have hfields : ∀ f ∈ fieldsAt 0x7014, f.acc = .ro ∨ f.acc = .wo := by decide +kernel
  have hresponds : s.responds 0x7014 = true := by
    unfold State.responds State.idle
    rw [hheld, hmode]
    rfl
  have hput : (s.regPut p 0x7014 (withBits v 0 1 1) (some (some m))).1 = s.bootGo (some m) := by
    rw [State.regPut_accepted p (some (some m)) hresponds (State.refuseCode_passive hfields rfl rfl rfl),
      State.putFields_passive hfields]
    exact if_pos (withBits_bit0 v)
  show Host.Outcome.next (s.putWords p 0x7014 [withBits v 0 1 1] (some (some m))) = _
  unfold State.putWords
  rw [if_neg (by simp [State.blockHeld]), hput]
  rfl

theorem State.bootGo_wait {m : Manifest} (hmode : s.sys.mode = .boot) (hwait : s.rd SEC_BOOTSTAT.STATE = 5) :
    s.bootGo (some m) = if s.checkMan m .boot (s.rd SEC_BOOTLEN.LEN) = 0 then
        ((s.wr SEC_BOOTSTAT.STATE 5).useImages m 0 3).wr SEC_BOOTSTAT.STATE 4
      else (s.wr SEC_BOOTSTAT.STATE 5).wr SEC_BOOTSTAT.ERR (s.checkMan m .boot (s.rd SEC_BOOTLEN.LEN)) := by
  have hcheck : (s.wr SEC_BOOTSTAT.STATE 5).checkMan m .boot ((s.wr SEC_BOOTSTAT.STATE 5).rd SEC_BOOTLEN.LEN) =
      s.checkMan m .boot (s.rd SEC_BOOTLEN.LEN) := by
    rw [State.rd_wr_other s 5 (by decide)]
    exact State.checkMan_congr (State.rd_wr_other s 5 (by decide)) rfl m .boot _
  unfold State.bootGo
  rw [if_neg (by simp [hmode, hwait])]
  dsimp only
  rw [hcheck]

theorem bootGo_loads (p : Path) (v : Word) {m : Manifest} (hmode : s.sys.mode = .boot) (hheld : s.sys.held = none)
    (hwait : s.rd SEC_BOOTSTAT.STATE = 5) (hok : s.checkMan m .boot (s.rd SEC_BOOTLEN.LEN) = 0) :
    s.ends (.bootGo p v (some m)) (fun t => t.sec.img = some (imgSetOf m 0) ∧ t.rd SEC_BOOTSTAT.SRC = 3 ∧
      t.rd SEC_BOOTSTAT.STATE = 4 ∧ s.only t [.sec, .regs]) := by
  refine ⟨_, exec_bootGo p v m hmode hheld, ?_⟩
  rw [State.bootGo_wait hmode hwait, if_pos hok]
  exact ⟨rfl, (State.rd_wr_other _ 4 (by decide)).trans (State.rd_wr_same _ SEC_BOOTSTAT.SRC 3),
    State.rd_wr_same _ SEC_BOOTSTAT.STATE 4, State.only_iff.2 (by simp [State.useImages])⟩

/-- The codes of the checks fit their field. -/
theorem State.checkMan_lt (s : State) (m : Manifest) (u : ManUse) (len : Nat) : s.checkMan m u len < 2 ^ SEC_BOOTSTAT.ERR.w := by
  unfold State.checkMan
  repeat' split
  all_goals decide

theorem bootGo_refuses (p : Path) (v : Word) {m : Manifest} (hmode : s.sys.mode = .boot) (hheld : s.sys.held = none)
    (hwait : s.rd SEC_BOOTSTAT.STATE = 5) (hbad : s.checkMan m .boot (s.rd SEC_BOOTLEN.LEN) ≠ 0) :
    s.ends (.bootGo p v (some m)) (fun t => t.sec = s.sec ∧ t.rd SEC_BOOTSTAT.STATE = 5 ∧
      t.rd SEC_BOOTSTAT.ERR = s.checkMan m .boot (s.rd SEC_BOOTLEN.LEN) ∧ s.only t [.regs]) := by
  refine ⟨_, exec_bootGo p v m hmode hheld, ?_⟩
  rw [State.bootGo_wait hmode hwait, if_neg hbad]
  exact ⟨rfl, (State.rd_wr_other _ _ (by decide)).trans (State.rd_wr_same _ SEC_BOOTSTAT.STATE 5),
    (State.rd_wr_same _ SEC_BOOTSTAT.ERR _).trans (Nat.mod_eq_of_lt (s.checkMan_lt m .boot _)), State.only_iff.2 (by simp)⟩

/-! ### Leaving BOOT -/

/-- A change of mode out of BOOT. -/
theorem State.setMode_spec (s : State) (m : Mode) : (s.setMode m).sys.mode = m ∧ (s.setMode m).sec = s.sec ∧
    ∀ f : Fld, f.key ∉ [SYS_TICK.PERIOD.key, SYS_TICK.PPT.key, SYS_TICK.TLM_DIV.key, FLT_ERRN.LOW.key] →
      (s.setMode m).rd f = s.rd f := by
  unfold State.setMode
  extract_lets prev drawn sys going pulled
  have hdrawn : drawn.sec = s.sec ∧ ∀ f : Fld, f.key ∉ [SYS_TICK.PERIOD.key, SYS_TICK.PPT.key, SYS_TICK.TLM_DIV.key,
      FLT_ERRN.LOW.key] → drawn.rd f = s.rd f := by
    unfold drawn
    split
    · refine ⟨rfl, fun f hf => ?_⟩
      simp only [List.mem_cons, List.not_mem_nil, or_false, not_or] at hf
      exact (State.rd_wr_other _ _ (Ne.symm hf.2.2.1)).trans ((State.rd_wr_other _ _ (Ne.symm hf.2.1)).trans
        (State.rd_wr_other _ _ (Ne.symm hf.1)))
    · exact ⟨rfl, fun _ _ => rfl⟩
  clear_value drawn
  have hpulled : pulled.sys.mode = m ∧ pulled.sec = s.sec ∧ ∀ f : Fld, f.key ∉ [SYS_TICK.PERIOD.key, SYS_TICK.PPT.key,
      SYS_TICK.TLM_DIV.key, FLT_ERRN.LOW.key] → pulled.rd f = s.rd f := by
    unfold pulled
    split
    · refine ⟨?_, ?_, fun f hf => ?_⟩
      · rw [going.errPull_sys]
      · unfold State.errPull
        split
        · exact hdrawn.1
        · exact hdrawn.1
      · refine Eq.trans ?_ (hdrawn.2 f hf)
        simp only [List.mem_cons, List.not_mem_nil, or_false, not_or] at hf
        unfold State.errPull
        split
        · rfl
        · exact State.rd_wr_other _ _ (Ne.symm hf.2.2.2)
    · exact ⟨rfl, hdrawn⟩
  obtain ⟨hmode, hsec, hrd⟩ := hpulled
  exact ⟨by rw [State.event_sys]; exact hmode, (State.event_sec _ _ _ _).trans hsec,
    fun f hf => (State.event_rd _ _ _ _ f).trans (hrd f hf)⟩

/-- The device has left BOOT, with the images in force. -/
def State.BootLeft (s t : State) (mode : Mode) : Prop :=
  t.sys.mode = mode ∧ t.sec.img = s.sec.img ∧
    ∀ f : Fld, f.key ∉ [SYS_TICK.PERIOD.key, SYS_TICK.PPT.key, SYS_TICK.TLM_DIV.key] ++ reactKeys → t.rd f = s.rd f

theorem State.leaveBoot_left (s : State) : s.BootLeft s.leaveBoot (if s.rb SAF_STAT.LATCH = true then .safe else .standby) := by
  have hmem {f : Fld} (hf : f.key ∉ [SYS_TICK.PERIOD.key, SYS_TICK.PPT.key, SYS_TICK.TLM_DIV.key] ++ reactKeys) :
      f.key ∉ [SYS_TICK.PERIOD.key, SYS_TICK.PPT.key, SYS_TICK.TLM_DIV.key, FLT_ERRN.LOW.key] ∧ f.key ∉ reactKeys := by
    have herrn : FLT_ERRN.LOW.key ∈ reactKeys := by decide
    simp only [List.mem_append, List.mem_cons, List.not_mem_nil, or_false, not_or] at hf ⊢
    exact ⟨⟨hf.1.1, hf.1.2.1, hf.1.2.2, fun e => hf.2 (e ▸ herrn)⟩, hf.2⟩
  unfold State.leaveBoot
  cases hlatch : s.rb SAF_STAT.LATCH with
  | true =>
    obtain ⟨hmode, hsec, hrd⟩ := s.setMode_spec .safe
    rw [if_pos rfl, if_pos rfl]
    dsimp only
    split
    · have hreported : Reported (s.setMode .safe) ((s.setMode .safe).dumpTrigger 4 0xFF) := (Reported.refl _).dumpTrigger 4 0xFF
      have haside : AsideKept (s.setMode .safe) ((s.setMode .safe).dumpTrigger 4 0xFF) := (AsideKept.refl _).dumpTrigger 4 0xFF
      refine ⟨?_, ?_, fun f hf => (haside f (hmem hf).2).trans (hrd f (hmem hf).1)⟩
      · rw [show ((s.setMode .safe).dumpTrigger 4 0xFF).sys = _ from hreported.only.2 .sys (by decide)]
        exact hmode
      · rw [show ((s.setMode .safe).dumpTrigger 4 0xFF).sec = _ from hreported.only.2 .sec (by decide), hsec]
    · exact ⟨hmode, by rw [hsec], fun f hf => hrd f (hmem hf).1⟩
  | false =>
    obtain ⟨hmode, hsec, hrd⟩ := s.setMode_spec .standby
    rw [if_neg Bool.false_ne_true, if_neg Bool.false_ne_true]
    unfold State.enterStandby
    extract_lets t
    have hrbc : (State.advanceRbc { t with saf := { t.saf with cen := true, ien := true, men := true } }).sys = t.sys ∧
        (State.advanceRbc { t with saf := { t.saf with cen := true, ien := true, men := true } }).sec.img = t.sec.img ∧
        (State.advanceRbc { t with saf := { t.saf with cen := true, ien := true, men := true } }).regs = t.regs := by
      unfold State.advanceRbc
      split
      · split
        · exact ⟨rfl, rfl, rfl⟩
        · exact ⟨rfl, rfl, rfl⟩
      · exact ⟨rfl, rfl, rfl⟩
    obtain ⟨h1, h2, h3⟩ := hrbc
    exact ⟨by rw [h1]; exact hmode, by rw [h2, hsec], fun f hf => (State.rd_of_regs h3 f).trans (hrd f (hmem hf).1)⟩

end

end Sys2Proof.Machine
end


section
/-!
SUPPORT. The end of the BOOT sequence (R80, R83, R710 to R717).
-/

namespace Sys2Proof.Machine

/-! ### The images come into force -/

/-- The keys of the thresholds that SAF writes. -/
def thresholdKeys : List Nat := SAF_VBLIM.OV_TH.key :: MOT_VMLIM.OV_TH.key :: allCh.map fun c => (CH_VLIM.OV_TH c).key

theorem State.cmpRestart_only (s : State) (i : CmpId) : s.only (s.cmpRestart i) [.cmp] := by
  unfold State.cmpRestart
  split
  · exact State.only_refl _ _
  · exact State.only_iff.2 (by simp [State.updCmp])

/-- SAF writes its thresholds, and their comparators restart. -/
theorem State.safThresholds_spec (s : State) :
    s.only s.safThresholds [.regs, .cmp] ∧ ∀ f : Fld, f.key ∉ thresholdKeys → s.safThresholds.rd f = s.rd f := by
  have hcmp (t : State) (i : CmpId) (f : Fld) : (t.cmpRestart i).rd f = t.rd f :=
    State.rd_of_regs ((t.cmpRestart_only i).2 .regs (by decide)) f
  have hwr (t : State) (g : Fld) (hg : g.key ∈ thresholdKeys) (v : Nat) (f : Fld) (hf : f.key ∉ thresholdKeys) :
      (t.wr g v).rd f = t.rd f := State.rd_wr_other t v (fun e => hf (e ▸ hg))
  have hch : ∀ c : Ch, (CH_VLIM.OV_TH c).key ∈ thresholdKeys := by decide
  have hfold (l : List Ch) (t : State)
      (h : s.only t [.regs, .cmp] ∧ ∀ f : Fld, f.key ∉ thresholdKeys → t.rd f = s.rd f) :
      s.only (t.forCh l (fun s c => (s.wr (CH_VLIM.OV_TH c) (s.pset 8)).cmpRestart (chCmp c 2))) [.regs, .cmp] ∧
      ∀ f : Fld, f.key ∉ thresholdKeys →
        (t.forCh l (fun s c => (s.wr (CH_VLIM.OV_TH c) (s.pset 8)).cmpRestart (chCmp c 2))).rd f = s.rd f := by
    induction l generalizing t with
    | nil => exact h
    | cons c l ih =>
      refine ih _ ⟨State.only_trans (State.wr_only h.1 _ _ (by decide)) (State.only_mono (State.cmpRestart_only _ _) (by decide)),
        fun f hf => ?_⟩
      exact (hcmp _ _ f).trans ((hwr t _ (hch c) _ f hf).trans (h.2 f hf))
  obtain ⟨honly, hrd⟩ := hfold allCh s ⟨State.only_refl _ _, fun _ _ => rfl⟩
  unfold State.safThresholds
  refine ⟨?_, fun f hf => ?_⟩
  · exact State.only_trans (State.wr_only (State.only_trans (State.wr_only honly _ _ (by decide))
      (State.only_mono (State.cmpRestart_only _ _) (by decide))) _ _ (by decide)) (State.only_mono (State.cmpRestart_only _ _) (by decide))
  · exact (hcmp _ _ f).trans ((hwr _ _ (by decide) _ f hf).trans ((hcmp _ _ f).trans ((hwr _ _ (by decide) _ f hf).trans
      (hrd f hf))))

/-- Link training depends on the ring and on what its status reads. -/
theorem State.linkTrained_congr {s t : State} (hring : t.ring = s.ring) (hrd : ∀ f ∈ [RING_STAT.BYPA, RING_STAT.BYPB,
    RING_STAT.LINKA, RING_STAT.LINKB, RING_STAT.STATE, RING_STAT.POS_VALID, SYS_STRAP.ROLE], t.rd f = s.rd f) :
    t.linkTrained = s.linkTrained := by
  unfold State.linkTrained State.role
  rw [State.rb_of_rd (hrd RING_STAT.BYPA (by simp)), State.rb_of_rd (hrd RING_STAT.BYPB (by simp)),
    State.rb_of_rd (hrd RING_STAT.LINKA (by simp)), State.rb_of_rd (hrd RING_STAT.LINKB (by simp)),
    State.rb_of_rd (hrd RING_STAT.POS_VALID (by simp)), hrd RING_STAT.STATE (by simp), hrd SYS_STRAP.ROLE (by simp), hring]

/-- BOOT ends as link training and the latch decide. -/
def State.BootEnds (s t : State) : Prop := t.rd SEC_BOOTSTAT.STATE = 7 ∧
  t.sys.mode = (if s.linkTrained = true then (if s.rb SAF_STAT.LATCH = true then .safe else .standby) else .boot)

/-- Once the images are in force the device leaves BOOT when its links are trained. -/
theorem State.leaves_spec {s : State} (hmode : s.sys.mode = .boot) (hstate : s.rd SEC_BOOTSTAT.STATE = 7) :
    s.BootEnds (if s.linkTrained then s.leaveBoot else s) ∧
      (if s.linkTrained then s.leaveBoot else s).sec.img = s.sec.img ∧
      ∀ f : Fld, f.key ∉ [SYS_TICK.PERIOD.key, SYS_TICK.PPT.key, SYS_TICK.TLM_DIV.key] ++ reactKeys →
        (if s.linkTrained then s.leaveBoot else s).rd f = s.rd f := by
  unfold State.BootEnds
  cases s.linkTrained with
  | true =>
    obtain ⟨hleft, himg, hrd⟩ := s.leaveBoot_left
    exact ⟨⟨(hrd _ (by decide)).trans hstate, hleft⟩, himg, hrd⟩
  | false => exact ⟨⟨hstate, hmode⟩, rfl, fun _ _ => rfl⟩

/-- The images are in force. -/
def State.imagesIn (s : State) : State := ((s.wr SEC_BOOTSTAT.STATE 7).wr SAF_STAT.CHECK_ON 1).safThresholds

theorem State.imagesIn_spec (s : State) : s.imagesIn.rd SEC_BOOTSTAT.STATE = 7 ∧ s.imagesIn.linkTrained = s.linkTrained ∧
    s.only s.imagesIn [.regs, .cmp] ∧
    ∀ f : Fld, f.key ∉ [SEC_BOOTSTAT.STATE.key, SAF_STAT.CHECK_ON.key] ++ thresholdKeys → s.imagesIn.rd f = s.rd f := by
  obtain ⟨honly, hrd⟩ := ((s.wr SEC_BOOTSTAT.STATE 7).wr SAF_STAT.CHECK_ON 1).safThresholds_spec
  have hall (f : Fld) (hf : f.key ∉ [SEC_BOOTSTAT.STATE.key, SAF_STAT.CHECK_ON.key] ++ thresholdKeys) :
      s.imagesIn.rd f = s.rd f := by
    simp only [List.mem_append, List.mem_cons, List.not_mem_nil, or_false, not_or] at hf
    exact (hrd f hf.2).trans ((State.rd_wr_other _ 1 (Ne.symm hf.1.2)).trans (State.rd_wr_other _ 7 (Ne.symm hf.1.1)))
  have hstate : s.imagesIn.rd SEC_BOOTSTAT.STATE = 7 :=
    (hrd _ (by decide)).trans ((State.rd_wr_other _ 1 (by decide)).trans (State.rd_wr_same _ SEC_BOOTSTAT.STATE 7))
  refine ⟨hstate, State.linkTrained_congr (honly.2 .ring (by decide)) (fun f hf => hall f ?_),
    State.only_trans (State.only_iff.2 (by simp)) honly, hall⟩
  revert f
  decide

/-- What BOOT keeps of a state in which the images are in force: the end, the images, and what the registers of SEC read. -/
theorem State.bootDone_ends {s : State} (hmode : s.sys.mode = .boot) : s.BootEnds s.bootDone ∧
    s.bootDone.sec.img = s.sec.img ∧ s.bootDone.rd SEC_BOOTSTAT.SRC = s.rd SEC_BOOTSTAT.SRC := by
  obtain ⟨hstate, hlinks, honly, hrd⟩ := s.imagesIn_spec
  have hmode' : s.imagesIn.sys.mode = .boot := by
    rw [show s.imagesIn.sys = s.sys from honly.2 .sys (by decide)]
    exact hmode
  obtain ⟨⟨hseven, hends⟩, himg, hkept⟩ := State.leaves_spec hmode' hstate
  rw [hlinks, State.rb_of_rd (hrd SAF_STAT.LATCH (by decide))] at hends
  have hsec : s.imagesIn.sec = s.sec := honly.2 .sec (by decide)
  have hdone : s.bootDone = if s.imagesIn.linkTrained then s.imagesIn.leaveBoot else s.imagesIn := rfl
  rw [← hdone] at hseven himg hkept
  rw [← hlinks, ← hdone, hlinks] at hends
  exact ⟨⟨hseven, hends⟩, himg.trans (by rw [hsec]), (hkept _ (by decide)).trans (hrd _ (by decide))⟩

/-! ### The end of the sequence -/

section
variable {s : State} {i : BootIn}

/-- BOOT has failed with a code. -/
def State.BootFailed (t : State) (e : Nat) : Prop :=
  t.sys.mode = .boot ∧ t.sys.bootFail = true ∧ t.rd SEC_BOOTSTAT.STATE = 6 ∧ t.rd SEC_BOOTSTAT.ERR = e

theorem State.bootFails_failed {s : State} (hmode : s.sys.mode = .boot) {e : Nat} (he : e < 2 ^ SEC_BOOTSTAT.ERR.w) :
    (s.bootFails e).BootFailed e :=
  ⟨hmode, rfl, State.rd_wr_same _ SEC_BOOTSTAT.STATE 6, (State.rd_wr_other _ 6 (f := SEC_BOOTSTAT.STATE) (by decide)).trans
    ((State.rd_wr_same s SEC_BOOTSTAT.ERR e).trans (Nat.mod_eq_of_lt he))⟩

section
variable (hmode : s.sys.mode = .boot) (hheld : s.sys.held = none) (hfail : s.sys.bootFail = false)
include hmode hheld hfail

theorem exec_bootComplete : exec (.bootComplete i) s = .next (
    if s.rd SEC_BOOTSTAT.STATE = 7 then (if s.linkTrained then s.leaveBoot else s)
    else if s.sec.life = 3 then ({ s with sec := { s.sec with erased := true, revoke := 15 } } : State).bootFails 0x11
    else if !i.selfTest || !s.rb SAF_STAT.INJ_OK then s.bootFails 0x10
    else if s.rb SEC_BOOTSTAT.WARMBOOT then
      if i.rehashOk && s.sec.img.isSome then s.bootDone
      else ({ ((s.wr SEC_BOOTSTAT.REHASH_FAIL 1).wr SEC_BOOTSTAT.ERR 0x0F).wr SEC_BOOTSTAT.WARMBOOT 0 with
        sec := { s.sec with img := none } } : State).fullBoot i
    else s.fullBoot i) := by
  show execBootComplete i s = _
  unfold execBootComplete
  rw [if_neg (by simp [hmode, hheld, hfail])]
  split
  · rfl
  · split
    · rfl
    · split
      · rfl
      · split
        · split
          · rfl
          · rfl
        · rfl

theorem bootComplete_trained (hstate : s.rd SEC_BOOTSTAT.STATE = 7) : s.ends (.bootComplete i) (fun t => s.BootEnds t) := by
  refine ⟨_, exec_bootComplete hmode hheld hfail, ?_⟩
  rw [if_pos hstate]
  exact (State.leaves_spec hmode hstate).1

variable (hstate : s.rd SEC_BOOTSTAT.STATE ≠ 7)
include hstate

theorem bootComplete_dead (hlife : s.sec.life = 3) : s.ends (.bootComplete i) (fun t =>
    t.BootFailed 0x11 ∧ t.sec.erased = true ∧ t.sec.revoke = 15) := by
  refine ⟨_, exec_bootComplete hmode hheld hfail, ?_⟩
  rw [if_neg hstate, if_pos hlife]
  exact ⟨State.bootFails_failed hmode (by decide), rfl, rfl⟩

variable (hlife : s.sec.life ≠ 3)
include hlife

theorem bootComplete_untested (htest : i.selfTest = false ∨ s.rb SAF_STAT.INJ_OK = false) :
    s.ends (.bootComplete i) (fun t => t.BootFailed 0x10) := by
  refine ⟨_, exec_bootComplete hmode hheld hfail, ?_⟩
  rw [if_neg hstate, if_neg hlife, if_pos (by rcases htest with h | h <;> simp [h])]
  exact State.bootFails_failed hmode (by decide)

variable (htest : i.selfTest = true) (hinj : s.rb SAF_STAT.INJ_OK = true)
include htest hinj

theorem exec_bootComplete_tested : exec (.bootComplete i) s = .next (
    if s.rb SEC_BOOTSTAT.WARMBOOT then
      if i.rehashOk && s.sec.img.isSome then s.bootDone
      else ({ ((s.wr SEC_BOOTSTAT.REHASH_FAIL 1).wr SEC_BOOTSTAT.ERR 0x0F).wr SEC_BOOTSTAT.WARMBOOT 0 with
        sec := { s.sec with img := none } } : State).fullBoot i
    else s.fullBoot i) := by
  rw [exec_bootComplete hmode hheld hfail, if_neg hstate, if_neg hlife, if_neg (by simp [htest, hinj])]

theorem bootComplete_warm (hwarm : s.rb SEC_BOOTSTAT.WARMBOOT = true) (hrehash : i.rehashOk = true)
    (himg : s.sec.img.isSome = true) : s.ends (.bootComplete i) (fun t => s.BootEnds t ∧ t.sec.img = s.sec.img) := by
  refine ⟨_, exec_bootComplete_tested hmode hheld hfail hstate hlife htest hinj, ?_⟩
  rw [if_pos hwarm, if_pos (by simp [hrehash, himg])]
  exact ⟨(State.bootDone_ends hmode).1, (State.bootDone_ends hmode).2.1⟩

/-- A WARM boot whose images fail their hash asks the host. -/
theorem bootComplete_rehash (hwarm : s.rb SEC_BOOTSTAT.WARMBOOT = true) (hrehash : i.rehashOk = false)
    (hsel : s.rd SYS_STRAP.BOOTSEL = 0) : s.ends (.bootComplete i) (fun t => t.rd SEC_BOOTSTAT.STATE = 5 ∧
      t.rd SEC_BOOTSTAT.ERR = 0x0F ∧ t.rb SEC_BOOTSTAT.REHASH_FAIL = true ∧ t.rb SEC_BOOTSTAT.WARMBOOT = false ∧
      t.sec.img = none) := by
  let t : State := { ((s.wr SEC_BOOTSTAT.REHASH_FAIL 1).wr SEC_BOOTSTAT.ERR 0x0F).wr SEC_BOOTSTAT.WARMBOOT 0 with
    sec := { s.sec with img := none } }
  have hregs : t.regs = (((s.wr SEC_BOOTSTAT.REHASH_FAIL 1).wr SEC_BOOTSTAT.ERR 0x0F).wr SEC_BOOTSTAT.WARMBOOT 0).regs := rfl
  have hsel' : t.rd SYS_STRAP.BOOTSEL = 0 := by
    rw [State.rd_of_regs hregs]
    simp (disch := decide) only [State.rd_wr_other, hsel]
  have hfull : t.fullBoot i = t.wr SEC_BOOTSTAT.STATE 5 := by
    unfold State.fullBoot
    rw [hsel']
    rfl
  have hexec := exec_bootComplete_tested (i := i) hmode hheld hfail hstate hlife htest hinj
  rw [if_pos hwarm, if_neg (by simp [hrehash])] at hexec
  refine ⟨_, hexec.trans (congrArg Host.Outcome.next hfull), State.rd_wr_same t _ _, ?_, decide_eq_true ?_,
    decide_eq_false (fun h => ?_), rfl⟩
  · exact (State.rd_wr_other t 5 (by decide)).trans ((State.rd_wr_other _ 0 (f := SEC_BOOTSTAT.WARMBOOT) (by decide)).trans
      (State.rd_wr_same _ SEC_BOOTSTAT.ERR 0x0F))
  · exact (State.rd_wr_other t 5 (by decide)).trans ((State.rd_wr_other _ 0 (f := SEC_BOOTSTAT.WARMBOOT) (by decide)).trans
      ((State.rd_wr_other _ 0x0F (f := SEC_BOOTSTAT.ERR) (by decide)).trans (State.rd_wr_same _ SEC_BOOTSTAT.REHASH_FAIL 1)))
  · exact absurd (h.symm.trans ((State.rd_wr_other t 5 (by decide)).trans (State.rd_wr_same _ SEC_BOOTSTAT.WARMBOOT 0)))
      (by decide)

variable (hcold : s.rb SEC_BOOTSTAT.WARMBOOT = false)
include hcold

theorem exec_bootComplete_full : exec (.bootComplete i) s = .next (s.fullBoot i) := by
  rw [exec_bootComplete_tested hmode hheld hfail hstate hlife htest hinj, if_neg (by simp [hcold])]

theorem bootComplete_reserved (hsel : s.rd SYS_STRAP.BOOTSEL = 3) :
    s.ends (.bootComplete i) (fun t => t.BootFailed 0x0E) := by
  refine ⟨_, exec_bootComplete_full hmode hheld hfail hstate hlife htest hinj hcold, ?_⟩
  unfold State.fullBoot
  dsimp only
  rw [if_pos hsel]
  exact State.bootFails_failed hmode (by decide)

theorem bootComplete_loaded (hsel : s.rd SYS_STRAP.BOOTSEL = 0) (himg : s.sec.img.isSome = true) :
    s.ends (.bootComplete i) (fun t => s.BootEnds t) := by
  refine ⟨_, exec_bootComplete_full hmode hheld hfail hstate hlife htest hinj hcold, ?_⟩
  unfold State.fullBoot
  dsimp only
  rw [if_neg (by rw [hsel]; decide), if_pos himg]
  exact (State.bootDone_ends hmode).1

variable (hsel : s.rd SYS_STRAP.BOOTSEL = 1 ∨ s.rd SYS_STRAP.BOOTSEL = 2) (himg : s.sec.img = none)
include hsel himg

/-- From the slots. -/
theorem State.fullBoot_slots : s.fullBoot i = if (s.slotBoot i.slotA i.slotB).2 then (s.slotBoot i.slotA i.slotB).1.bootDone
    else if s.rd SYS_STRAP.BOOTSEL = 1 then
      (s.slotBoot i.slotA i.slotB).1.bootFails ((s.slotBoot i.slotA i.slotB).1.rd SEC_BOOTSTAT.ERR)
    else ((s.slotBoot i.slotA i.slotB).1.wr SEC_BOOTSTAT.FALLBACK 1).wr SEC_BOOTSTAT.STATE 5 := by
  unfold State.fullBoot
  dsimp only
  rw [if_neg (by omega), himg, if_neg (by simp), if_neg (by omega)]

theorem bootComplete_slot {m : Manifest} (ha : i.slotA = some m) (hb : i.slotB = none)
    (hok : s.checkMan m .boot m.total.toNat = 0) : s.ends (.bootComplete i) (fun t => s.BootEnds t ∧
      t.sec.img = some (imgSetOf m 1) ∧ t.rd SEC_BOOTSTAT.SRC = 1) := by
  have hslot : s.slotBoot i.slotA i.slotB = (s.useImages m 1 1, true) := by
    rw [ha, hb]
    unfold State.slotBoot
    simp [hok]
  have hfull := State.fullBoot_slots (i := i) hmode hheld hfail hstate hlife htest hinj hcold hsel himg
  rw [hslot, if_pos rfl] at hfull
  have hmode' : (s.useImages m 1 1).sys.mode = .boot := hmode
  obtain ⟨⟨hseven, hends⟩, himg', hsrc⟩ := State.bootDone_ends hmode'
  have hlinks : (s.useImages m 1 1).linkTrained = s.linkTrained :=
    State.linkTrained_congr rfl (fun f hf => State.rd_wr_other _ 1 (by revert f; decide))
  rw [hlinks, show (s.useImages m 1 1).rb SAF_STAT.LATCH = s.rb SAF_STAT.LATCH from
    State.rb_of_rd (State.rd_wr_other _ 1 (by decide))] at hends
  refine ⟨_, exec_bootComplete_full hmode hheld hfail hstate hlife htest hinj hcold, ?_⟩
  rw [hfull]
  exact ⟨⟨hseven, hends⟩, himg', hsrc.trans (State.rd_wr_same _ SEC_BOOTSTAT.SRC 1)⟩

theorem bootComplete_empty (ha : i.slotA = none) (hb : i.slotB = none) : s.ends (.bootComplete i) (fun t =>
    if s.rd SYS_STRAP.BOOTSEL = 1 then t.BootFailed 0x0D
    else t.rd SEC_BOOTSTAT.FALLBACK = 1 ∧ t.rd SEC_BOOTSTAT.STATE = 5 ∧ t.sys.mode = .boot) := by
  have hslot : s.slotBoot i.slotA i.slotB = (s.wr SEC_BOOTSTAT.ERR 0x0D, false) := by
    rw [ha, hb]
    rfl
  have hfull := State.fullBoot_slots (i := i) hmode hheld hfail hstate hlife htest hinj hcold hsel himg
  rw [hslot, if_neg Bool.false_ne_true] at hfull
  refine ⟨_, exec_bootComplete_full hmode hheld hfail hstate hlife htest hinj hcold, ?_⟩
  rw [hfull]
  dsimp only
  split
  · rw [State.rd_wr_same]
    exact State.bootFails_failed (s := s.wr SEC_BOOTSTAT.ERR 0x0D) (e := 0x0D) hmode (by decide)
  · exact ⟨(State.rd_wr_other _ 5 (by decide)).trans (State.rd_wr_same _ SEC_BOOTSTAT.FALLBACK 1),
      State.rd_wr_same _ SEC_BOOTSTAT.STATE 5, hmode⟩

end

end

end Sys2Proof.Machine
end

section
open Sys2Proof Sys2Proof.Machine

/-- Settles O38, row by row. -/
theorem bootRunsToItsEnd : Obligations.BootRunsToItsEnd := by
  unfold Obligations.BootRunsToItsEnd
  refine fun s => ⟨fun i k hheld hvin hrails hrst hperst => ⟨internalResetRelease_boots hheld hvin hrails hrst hperst,
      internalResetRelease_fails hheld hvin hrails hrst hperst⟩, pllLock_locks, digestRead_answers s,
    fun p v hidle => challengeNew_fresh p v hidle, fun hmode hheld => ⟨fun i => ⟨injectionTestDone_passes hmode hheld,
      injectionTestDone_fails hmode hheld⟩, fun p v m hwait => ⟨bootGo_loads p v hmode hheld hwait,
        bootGo_refuses p v hmode hheld hwait⟩, fun i hfail => ⟨bootComplete_trained hmode hheld hfail, fun hstate =>
          ⟨bootComplete_dead hmode hheld hfail hstate, bootComplete_untested hmode hheld hfail hstate, ?_⟩⟩⟩⟩
  exact fun hlife htest hinj => ⟨bootComplete_warm hmode hheld hfail hstate hlife htest hinj,
    bootComplete_rehash hmode hheld hfail hstate hlife htest hinj, fun hcold =>
      ⟨bootComplete_reserved hmode hheld hfail hstate hlife htest hinj hcold,
        bootComplete_loaded hmode hheld hfail hstate hlife htest hinj hcold, fun hsel himg =>
          ⟨fun m ha hb hok => bootComplete_slot hmode hheld hfail hstate hlife htest hinj hcold hsel himg ha hb hok,
            bootComplete_empty hmode hheld hfail hstate hlife htest hinj hcold hsel himg⟩⟩⟩

end


section
/-!
SUPPORT. Thermistors, the die, the supplies and the decimated readings (R179 to R181, R284, R307, R317 to R321).
-/

namespace Sys2Proof.Machine

/-! ### Gangs by their leads and sizes -/

/-- Gangs depend on the leads and sizes of the channels. -/
theorem State.gangsOk_of_leads {s t : State}
    (h : ∀ d : Ch, (t.seq d).lead = (s.seq d).lead ∧ (t.seq d).size = (s.seq d).size) (hg : s.gangsOk) : t.gangsOk := by
  have hleader (d : Ch) : t.leader d = s.leader d := by
    unfold State.leader
    rw [(h d).1]
  have hmembers (d : Ch) : t.members d = s.members d := by
    unfold State.members
    rw [(h d).2]
  intro c
  simp only [hleader, hmembers, (h _).1, (h _).2]
  exact hg c

/-! ### A sample of a thermistor -/

section
variable {s : State} {c : Ch}

/-- A sample outside the limits takes the temperature away. -/
def State.tempLost (s : State) (c : Ch) : State :=
  let s := s.updMet c (fun m => { m with tempOk := false })
  let s := s.runIf c (fun _ => true) tempBreak
  let s := s.wr (CH_PSTAT.NTC_OK c) 0
  { s with saf := { s.saf with temp := bupd s.saf.temp c (fun _ => none), tOver := bupd s.saf.tOver c (fun _ => 0) } }

theorem State.tempLost_chan (s : State) (c : Ch) : (s.tempLost c).chan c =
    { s.chan c with
      met := { (s.chan c).met with tempOk := false }
      seq := { (s.chan c).seq with run := (s.chan c).seq.run.map (fun r => if !r.failed && true then tempBreak r else r) } } := by
  have hchan : (s.tempLost c).chan c =
      ((s.updMet c (fun m => { m with tempOk := false })).runIf c (fun _ => true) tempBreak).chan c := rfl
  rw [hchan]
  unfold State.runIf State.updRun
  rw [State.chan_updSeq_same, State.chan_updMet_same]

theorem State.tempLost_chan_other (s : State) {c d : Ch} (h : c ≠ d) : (s.tempLost c).chan d = s.chan d := by
  have hchan : (s.tempLost c).chan d =
      ((s.updMet c (fun m => { m with tempOk := false })).runIf c (fun _ => true) tempBreak).chan d := rfl
  rw [hchan]
  unfold State.runIf State.updRun
  rw [State.chan_updSeq_other _ _ h, State.chan_updMet_other _ _ h]

theorem State.tempLost_spec (s : State) (c : Ch) : (s.tempLost c).rd (CH_PSTAT.NTC_OK c) = 0 ∧
    bget (s.tempLost c).saf.temp c = none ∧ s.only (s.tempLost c) [.ch, .regs, .saf] ∧
    s.regsBut (s.tempLost c) [CH_PSTAT.NTC_OK c] :=
  ⟨(State.rd_wr_same _ (CH_PSTAT.NTC_OK c) 0).trans (Nat.zero_mod _), bget_bupd_same _ _ _,
    State.only_iff.2 (by simp [State.tempLost, State.runIf]),
    State.regsBut_wr (State.regsBut_of_regs (s := s) rfl _) (List.mem_singleton_self _) 0⟩

/-- The supervision of a thermistor counts on. -/
def State.ntcCounted (s : State) (c : Ch) (hi : Bool) : State :=
  (s.tempLost c).updStage c (fun x => { x with
    ntcBad := true, ntcHi := if hi then x.ntcHi + 1 else 0, ntcLo := if hi then 0 else x.ntcLo + 1 })

theorem State.ntcOut_eq (s : State) (c : Ch) (hi : Bool) : s.ntcOut c hi =
    if !s.rb (CH_SENSE.NTC_EN c) then (s.tempLost c).updStage c (fun x => { x with ntcHi := 0, ntcLo := 0 })
    else if ((s.ntcCounted c hi).seq c).lead.isSome then s.ntcCounted c hi
    else if 3 ≤ ((s.ntcCounted c hi).chan c).stage.ntcHi then (s.ntcCounted c hi).faultStop 7 c true
    else if 3 ≤ ((s.ntcCounted c hi).chan c).stage.ntcLo then (s.ntcCounted c hi).faultStop 8 c true
    else s.ntcCounted c hi := by
  have hkey : ∀ e : Ch, (CH_PSTAT.NTC_OK e).key ≠ (CH_SENSE.NTC_EN e).key := by decide
  have hen : (s.tempLost c).rb (CH_SENSE.NTC_EN c) = s.rb (CH_SENSE.NTC_EN c) :=
    State.rb_of_rd ((s.tempLost_spec c).2.2.2 _ (by simpa using hkey c))
  rw [← hen]
  rfl

/-- The row of a thermistor. -/
theorem exec_hkSample (hidle : s.idle = false) (raw : Half) (h : c.val < 25) :
    exec (.hkSample ⟨c.val, h⟩ raw) s = .next (if 98 * 65536 < 100 * raw.toNat then s.ntcOut c true
      else if 100 * raw.toNat < 2 * 65536 then s.ntcOut c false else s.ntcIn c raw.toNat) := by
  show execHkSample ⟨c.val, h⟩ raw s = _
  unfold execHkSample
  rw [if_neg (by simp [hidle]), dif_pos c.isLt]
  dsimp only
  split
  · rfl
  · split
    · rfl
    · rfl

/-- A sample outside the limits with the supervision off. -/
theorem hkSample_outside (hidle : s.idle = false) {raw : Half} (h : c.val < 25)
    (hout : 98 * 65536 < 100 * raw.toNat ∨ 100 * raw.toNat < 2 * 65536) (hoff : s.rb (CH_SENSE.NTC_EN c) = false) :
    s.ends (.hkSample ⟨c.val, h⟩ raw) (fun t =>
      (t.chan c).met.tempOk = false ∧ t.rd (CH_PSTAT.NTC_OK c) = 0 ∧ (t.chan c).stage.ntcHi = 0 ∧
      (t.chan c).stage.ntcLo = 0 ∧ (t.chan c).stage.kT = (s.chan c).stage.kT ∧ bget t.saf.temp c = none ∧
      s.chBut t [c, s.leader c] ∧ s.only t [.ch, .regs, .saf] ∧ s.regsBut t [CH_PSTAT.NTC_OK c]) := by
  have hexec : exec (.hkSample ⟨c.val, h⟩ raw) s =
      .next ((s.tempLost c).updStage c (fun x => { x with ntcHi := 0, ntcLo := 0 })) := by
    have hnot (hi : Bool) : s.ntcOut c hi = (s.tempLost c).updStage c (fun x => { x with ntcHi := 0, ntcLo := 0 }) := by
      rw [State.ntcOut_eq, hoff]
      rfl
    rw [exec_hkSample hidle raw h]
    rcases hout with hhi | hlo
    · rw [if_pos hhi, hnot]
    · rw [if_neg (by omega), if_pos hlo, hnot]
  obtain ⟨hntc, htemp, honly, hbut⟩ := s.tempLost_spec c
  have hchan := s.tempLost_chan c
  refine ⟨_, hexec, ?_, hntc, ?_, ?_, ?_, htemp, fun d hd => ?_, State.only_trans honly (State.only_iff.2 (by simp)),
    hbut⟩
  · rw [State.chan_updStage_same, hchan]
  · rw [State.chan_updStage_same]
  · rw [State.chan_updStage_same]
  · rw [State.chan_updStage_same, hchan]
  · have hdc : c ≠ d := fun e => hd (by simp [e])
    rw [State.chan_updStage_other _ _ hdc, s.tempLost_chan_other hdc]

theorem State.ntcCounted_spec (s : State) (c : Ch) (hi : Bool) :
    ((s.ntcCounted c hi).chan c).stage.ntcHi = (if hi then (s.chan c).stage.ntcHi + 1 else 0) ∧
    ((s.ntcCounted c hi).chan c).stage.ntcLo = (if hi then 0 else (s.chan c).stage.ntcLo + 1) ∧
    (∀ d : Ch, ((s.ntcCounted c hi).seq d).lead = (s.seq d).lead ∧ ((s.ntcCounted c hi).seq d).size = (s.seq d).size) ∧
    (s.ntcCounted c hi).flt = s.flt := by
  have hchan := s.tempLost_chan c
  refine ⟨?_, ?_, fun d => ?_, (s.tempLost_spec c).2.2.1.2 .flt (by decide)⟩
  · unfold State.ntcCounted
    rw [State.chan_updStage_same, hchan]
  · unfold State.ntcCounted
    rw [State.chan_updStage_same, hchan]
  · unfold State.ntcCounted State.seq
    by_cases hd : c = d
    · subst hd
      rw [State.chan_updStage_same, hchan]
      exact ⟨rfl, rfl⟩
    · rw [State.chan_updStage_other _ _ hd, s.tempLost_chan_other hd]
      exact ⟨rfl, rfl⟩

/-- The third sample of one limit stops the gang. -/
theorem State.ntcCounted_stops (hlead : (s.seq c).lead = none) (hg : s.gangsOk) {hi : Bool} {n : Src}
    (hstop : s.ntcOut c hi = (s.ntcCounted c hi).faultStop n c true) (hlisted : srcListed n.val = true)
    (hchan : isChanSrc n = true) : (s.quiet n → (s.ntcOut c hi).activeIn n c = true) ∧
      ∀ d ∈ s.gang c, ((s.ntcOut c hi).chan d).stage.gates = false ∧ ((s.ntcOut c hi).chan d).stage.iso = .opened := by
  obtain ⟨-, -, hsame, hflt⟩ := s.ntcCounted_spec c hi
  obtain ⟨hoff, hopen, hactive, -⟩ := State.faultStop_stops (State.gangsOk_of_leads hsame hg) n c true hlisted hchan
  rw [State.gang_same hsame c] at hoff hopen
  rw [hstop]
  refine ⟨fun hq => hactive ?_, fun d hd => ⟨hoff d hd, (hopen rfl d hd).2⟩⟩
  unfold State.quiet State.src
  rw [hflt]
  exact hq

theorem hkSample_stops (hidle : s.idle = false) {raw : Half} (h : c.val < 25) (hi : Bool)
    (hout : if hi then 98 * 65536 < 100 * raw.toNat else 100 * raw.toNat < 2 * 65536)
    (hon : s.rb (CH_SENSE.NTC_EN c) = true) (htwo : 2 ≤ if hi then (s.chan c).stage.ntcHi else (s.chan c).stage.ntcLo)
    (hlead : (s.seq c).lead = none) (hg : s.gangsOk) : s.ends (.hkSample ⟨c.val, h⟩ raw) (fun t =>
      (s.quiet (if hi then 7 else 8) → t.activeIn (if hi then 7 else 8) c = true) ∧
      ∀ d ∈ s.gang c, (t.chan d).stage.gates = false ∧ (t.chan d).stage.iso = .opened) := by
  obtain ⟨hhi, hlo, hsame, -⟩ := s.ntcCounted_spec c hi
  have heq := s.ntcOut_eq c hi
  rw [hon, if_neg (by decide), (hsame c).1, hlead, if_neg (by decide), hhi, hlo] at heq
  cases hi with
  | true =>
    simp only [if_true] at hout htwo heq ⊢
    rw [if_pos (by omega)] at heq
    refine ⟨_, exec_hkSample hidle raw h, ?_⟩
    rw [if_pos hout]
    exact State.ntcCounted_stops hlead hg heq (by decide) (by decide)
  | false =>
    simp only [Bool.false_eq_true, if_false] at hout htwo heq ⊢
    rw [if_neg (by decide), if_pos (by omega)] at heq
    refine ⟨_, exec_hkSample hidle raw h, ?_⟩
    rw [if_neg (by omega), if_pos hout]
    exact State.ntcCounted_stops hlead hg heq (by decide) (by decide)

end

/-! ### A sample within the limits -/

section
variable {s : State} {c : Ch}

/-- The temperature of a sample is noted, and its derating. -/
def State.tempNoted (s : State) (c : Ch) (t : Int) : State :=
  let s := s.updMet c (fun m => { m with temp := t, tempOk := true })
  let s := s.wr (CH_PSTAT.NTC_OK c) 1
  s.updStage c (fun x => { x with kT := s.kTof c t, ntcBad := false, ntcHi := 0, ntcLo := 0 })

theorem State.tempNoted_spec (s : State) (c : Ch) (t : Int) :
    (s.tempNoted c t).chan c = { s.chan c with
      met := { (s.chan c).met with temp := t, tempOk := true }
      stage := { (s.chan c).stage with kT := s.kTof c t, ntcBad := false, ntcHi := 0, ntcLo := 0 } } ∧
    (∀ d : Ch, c ≠ d → (s.tempNoted c t).chan d = s.chan d) ∧ (s.tempNoted c t).rd (CH_PSTAT.NTC_OK c) = 1 ∧
    s.only (s.tempNoted c t) [.ch, .regs] ∧ s.regsBut (s.tempNoted c t) [CH_PSTAT.NTC_OK c] := by
  have hkey : ∀ e : Ch, (CH_PSTAT.NTC_OK e).key ≠ (CH_TEMP.T_WARN e).key ∧ (CH_PSTAT.NTC_OK e).key ≠ (CH_TEMP.T_STOP e).key := by
    decide
  have hk : ((s.updMet c (fun m => { m with temp := t, tempOk := true })).wr (CH_PSTAT.NTC_OK c) 1).kTof c t = s.kTof c t := by
    unfold State.kTof
    rw [show ∀ (u : State) (f : Fld), u.rdS f = toS f.w (u.rd f) from fun _ _ => rfl,
      show ∀ (u : State) (f : Fld), u.rdS f = toS f.w (u.rd f) from fun _ _ => rfl, State.rd_wr_other _ _ (hkey c).1,
      State.rd_wr_other _ _ (hkey c).2]
    rfl
  unfold State.tempNoted
  dsimp only
  rw [hk]
  refine ⟨?_, fun d hd => ?_, (State.rd_wr_same _ (CH_PSTAT.NTC_OK c) 1).trans ?_, State.only_iff.2 (by simp), ?_⟩
  · rw [State.chan_updStage_same, State.wr_chan, State.chan_updMet_same]
  · rw [State.chan_updStage_other _ _ hd, State.wr_chan, State.chan_updMet_other _ _ hd]
  · exact Nat.mod_eq_of_lt (show 1 < 2 ^ 1 by decide)
  · exact State.regsBut_wr (State.regsBut_of_regs (s := s) rfl _) (List.mem_singleton_self _) 1

/-- SAF's own evaluation and the end conditions take a sample too. -/
def State.tempUsed (s : State) (c : Ch) (raw : Nat) (t : Int) : State :=
  let s := (s.condGone 7 c).condGone 8 c
  let own := ntcT raw s.saf.beta s.saf.rnom
  let s := { s with saf := { s.saf with
    temp := bupd s.saf.temp c (fun _ => some own)
    tOver := bupd s.saf.tOver c (fun n => if (s.pset 7 : Int) ≤ own then n + 1 else 0) } }
  s.runIf c (fun _ => true) (fun r => tempFeed r t)

theorem State.tempUsed_spec (s : State) (c : Ch) (raw : Nat) (t : Int) :
    ((s.tempUsed c raw t).chan c).met = (s.chan c).met ∧ ((s.tempUsed c raw t).chan c).stage = (s.chan c).stage ∧
    (∀ d : Ch, c ≠ d → (s.tempUsed c raw t).chan d = s.chan d) ∧
    bget (s.tempUsed c raw t).saf.temp c = some (ntcT raw s.saf.beta s.saf.rnom) ∧
    s.only (s.tempUsed c raw t) [.ch, .flt, .saf] := by
  have hch (u : State) (hu : u.ch = s.ch) (d : Ch) : u.chan d = s.chan d := congrArg (fun v : Vector Chan 16 => bget v d) hu
  unfold State.tempUsed
  extract_lets gone own saf u
  have hgone : s.only gone [.ch, .flt, .saf] := State.only_mono (State.only_trans (s.condGone_only 7 c)
    (State.condGone_only _ 8 c)) (by decide)
  have hu : u.ch = s.ch := rfl
  unfold State.runIf State.updRun
  refine ⟨?_, ?_, fun d hd => ?_, ?_, State.only_trans hgone (State.only_iff.2 (by simp [u]))⟩
  · rw [State.chan_updSeq_same, hch u hu]
  · rw [State.chan_updSeq_same, hch u hu]
  · rw [State.chan_updSeq_other _ _ hd, hch u hu]
  · exact bget_bupd_same _ _ _

theorem hkSample_within (hidle : s.idle = false) {raw : Half} (h : c.val < 25) (hhi : 100 * raw.toNat ≤ 98 * 65536)
    (hlo : 2 * 65536 ≤ 100 * raw.toNat) : s.ends (.hkSample ⟨c.val, h⟩ raw) (fun t =>
      (t.chan c).met.temp = ntcT raw.toNat (s.rd MET_NTC.BETA) (s.rd MET_NTC.RNOM) ∧ (t.chan c).met.tempOk = true ∧
      t.rd (CH_PSTAT.NTC_OK c) = 1 ∧ (t.chan c).stage.kT = s.kTof c (t.chan c).met.temp ∧
      (t.chan c).stage.ntcHi = 0 ∧ (t.chan c).stage.ntcLo = 0 ∧
      bget t.saf.temp c = some (ntcT raw.toNat s.saf.beta s.saf.rnom) ∧ s.chBut t [c, s.leader c] ∧
      s.only t [.ch, .regs, .flt, .saf] ∧ s.regsBut t [CH_PSTAT.NTC_OK c]) := by
  have hexec : exec (.hkSample ⟨c.val, h⟩ raw) s = .next ((s.tempNoted c (ntcT raw.toNat (s.rd MET_NTC.BETA)
      (s.rd MET_NTC.RNOM))).tempUsed c raw.toNat (ntcT raw.toNat (s.rd MET_NTC.BETA) (s.rd MET_NTC.RNOM))) := by
    rw [exec_hkSample hidle raw h, if_neg (by omega), if_neg (by omega)]
    rfl
  generalize ntcT raw.toNat (s.rd MET_NTC.BETA) (s.rd MET_NTC.RNOM) = temp at hexec ⊢
  obtain ⟨hchan, hothers, hntc, honly, hbut⟩ := s.tempNoted_spec c temp
  obtain ⟨hmet, hstage, hothers', hsaf, honly'⟩ := (s.tempNoted c temp).tempUsed_spec c raw.toNat temp
  have hregs := honly'.2 .regs (by decide)
  refine ⟨_, hexec, ?_, ?_, (State.rd_of_regs hregs _).trans hntc, ?_, ?_, ?_, ?_, fun d hd => ?_,
    State.only_trans (State.only_mono honly (by decide)) (State.only_mono honly' (by decide)),
    State.regsBut_trans hbut (State.regsBut_of_regs hregs _)⟩
  · rw [hmet, hchan]
  · rw [hmet, hchan]
  · rw [hstage, hmet, hchan]
  · rw [hstage, hchan]
  · rw [hstage, hchan]
  · rw [hsaf, show (s.tempNoted c temp).saf = s.saf from honly.2 .saf (by decide)]
  · have hdc : c ≠ d := fun e => hd (by simp [e])
    rw [hothers' d hdc, hothers d hdc]

end

/-! ### The die and the supplies -/

section
variable {s : State}

theorem State.condGone_cleared (s : State) (n : Src) (c : Ch) {i : Nat} (hi : (actBit n c).getLsbD i = true) :
    ((s.condGone n c).src n).cond.getLsbD i = false := by
  unfold State.condGone
  rw [State.src_updSrc_same]
  show ((s.src n).cond &&& ~~~ (actBit n c)).getLsbD i = false
  rw [BitVec.getLsbD_and, BitVec.getLsbD_not, hi]
  simp

/-- A source is raised, its condition is gone, or neither. -/
def State.thresholded (s : State) (n : Src) (up down : Bool) : State :=
  if up then s.raiseDev n else if down then s.condGone n 0 else s

/-- A threshold of a device source. -/
theorem State.thresholded_spec {s : State} {n : Src} (hq : s.quiet n) (hlisted : srcListed n.val = true)
    (hn : (actBit n 0).getLsbD 0 = true) (up down : Bool) :
    (up = true → (s.thresholded n up down).active n = true) ∧
    (up = false → down = true → ((s.thresholded n up down).src n).cond.getLsbD 0 = false) ∧
    (∀ m : Src, n ≠ m → s.active m = true → (s.thresholded n up down).active m = true) ∧
    (∀ m : Src, n ≠ m → up = false → (s.thresholded n up down).src m = s.src m) ∧
    (∀ m : Src, s.quiet m → (s.thresholded n up down).quiet m) ∧
    ∀ f : Fld, f.key ∉ reactKeys → (s.thresholded n up down).rd f = s.rd f := by
  unfold State.thresholded
  cases up with
  | true =>
    have hreacted : Reacted s (s.raiseDev n) := Reacted.raiseAs (.refl s) n 0 _ hq
    refine ⟨fun _ => State.raiseDev_active hq hlisted, nofun, fun m _ hm => ?_, nofun, fun m hm => ?_,
      (AsideKept.refl s).raiseDev n hq⟩
    · unfold State.active at hm ⊢
      rw [decide_eq_true_eq] at hm ⊢
      exact State.Grown_act_ne (hreacted.src m) hm
    · unfold State.quiet
      rw [if_pos rfl, (hreacted.src m).react]
      exact hm
  | false =>
    cases down with
    | true =>
      refine ⟨nofun, fun _ _ => s.condGone_cleared n 0 hn, fun m hne hm => ?_, fun m hne _ => State.condGone_src_other s 0 hne,
        fun m hm => ?_, fun f _ => State.rd_of_regs ((s.condGone_only n 0).2 .regs (by decide)) f⟩
      · unfold State.active at hm ⊢
        rw [show ((if false = true then s.raiseDev n else if true = true then s.condGone n 0 else s) : State) =
          s.condGone n 0 from rfl, State.condGone_src_other s 0 hne]
        exact hm
      · unfold State.quiet
        rw [show ((if false = true then s.raiseDev n else if true = true then s.condGone n 0 else s) : State) =
          s.condGone n 0 from rfl, State.condGone_react]
        exact hm
    | false => exact ⟨nofun, nofun, fun _ _ => id, fun _ _ _ => rfl, fun _ => id, fun _ _ => rfl⟩

theorem State.dieSample_eq (s : State) (raw : Nat) : s.dieSample raw =
    ((s.wrS MET_HKTJ.TJ (Config.dieTemp raw)).thresholded 39 (decide (12500 ≤ Config.dieTemp raw))
      (decide (Config.dieTemp raw < 12000))).thresholded 40 (decide (15000 ≤ Config.dieTemp raw))
      (decide (Config.dieTemp raw < 14000)) := by
  unfold State.dieSample State.thresholded
  simp only [decide_eq_true_eq]

/-- The die temperature is its register, and its thresholds are supervised. -/
theorem hkSample_die (hidle : s.idle = false) (raw : Half) (hq39 : s.quiet 39) (hq40 : s.quiet 40) :
    s.ends (.hkSample 16 raw) (fun t => t.rdS MET_HKTJ.TJ = toS 16 (ofS 16 (Config.dieTemp raw.toNat)) ∧
      (12500 ≤ Config.dieTemp raw.toNat → t.active 39 = true) ∧ (15000 ≤ Config.dieTemp raw.toNat → t.active 40 = true) ∧
      (Config.dieTemp raw.toNat < 14000 → (t.src 40).cond.getLsbD 0 = false) ∧
      (Config.dieTemp raw.toNat < 12000 → (t.src 39).cond.getLsbD 0 = false)) := by
  have hexec : exec (.hkSample 16 raw) s = .next (s.dieSample raw.toNat) := by
    show execHkSample 16 raw s = _
    unfold execHkSample
    rw [if_neg (by simp [hidle])]
    rfl
  rw [State.dieSample_eq] at hexec
  generalize Config.dieTemp raw.toNat = t at hexec ⊢
  obtain ⟨hup, hdown, -, -, hquiet, hrd⟩ := State.thresholded_spec (s := s.wrS MET_HKTJ.TJ t) (n := 39) hq39 (by decide)
    (by decide) (decide (12500 ≤ t)) (decide (t < 12000))
  obtain ⟨hup', hdown', hkept, hsame, -, hrd'⟩ := State.thresholded_spec (n := 40) (hquiet 40 hq40) (by decide) (by decide)
    (decide (15000 ≤ t)) (decide (t < 14000))
  refine ⟨_, hexec, ?_, fun h => hkept 39 (by decide) (hup (decide_eq_true h)), fun h => hup' (decide_eq_true h),
    fun h => hdown' (decide_eq_false (by omega)) (decide_eq_true h), fun h => ?_⟩
  · refine congrArg (toS 16) ((hrd' MET_HKTJ.TJ (by decide)).trans ((hrd MET_HKTJ.TJ (by decide)).trans
      ((State.rd_wr_same s MET_HKTJ.TJ _).trans (Nat.mod_eq_of_lt ?_))))
    unfold ofS
    show (t % 2 ^ 16).toNat < 2 ^ 16
    omega
  · rw [hsame 39 (by decide) (decide_eq_false (by omega))]
    exact hdown (decide_eq_false (by omega)) (decide_eq_true h)

/-- The supply samples are their registers. -/
theorem hkSample_supply (hidle : s.idle = false) (k : Fin 8) (raw : Half) (h : 17 + k.val < 25) :
    s.ends (.hkSample ⟨17 + k.val, h⟩ raw) (fun t =>
      t.rd (MET_HKV.MV k) = Config.supplyMv k.val raw.toNat % 2 ^ (MET_HKV.MV k).w ∧ s.only t [.regs] ∧
      s.regsBut t [MET_HKV.MV k]) := by
  have hk : Fin.ofNat 8 (17 + k.val - 17) = k := by
    rw [Nat.add_sub_cancel_left]
    exact Fin.ofNat_val_eq_self k
  have hexec : exec (.hkSample ⟨17 + k.val, h⟩ raw) s = .next (s.wr (MET_HKV.MV k) (Config.supplyMv k.val raw.toNat)) := by
    show execHkSample ⟨17 + k.val, h⟩ raw s = _
    unfold execHkSample
    dsimp only
    rw [if_neg (by simp [hidle]), dif_neg (by omega), if_neg (by omega), hk, Nat.add_sub_cancel_left]
  exact ⟨_, hexec, State.rd_wr_same _ _ _, State.only_iff.2 (by simp), State.regsBut_wr (fun _ _ => rfl) (by simp) _⟩

end

end Sys2Proof.Machine
end


section
/-!
SUPPORT. Decimated readings, the tracking of the SAR constants, and the telemetry report (R284, R307, R317 to R321, R461).
-/

namespace Sys2Proof.Machine

/-! ### Decimated readings -/

/-- A signed value within the width of a field survives its two's complement. -/
theorem toS_ofS_satS (x : Int) : toS 32 (ofS 32 (satS 32 x)) = satS 32 x := by
  have hlo : -(2 ^ 31) ≤ satS 32 x := by
    unfold satS clampI
    split
    · exact le_refl _
    · split <;> omega
  have hhi : satS 32 x ≤ 2 ^ 31 - 1 := by
    unfold satS clampI
    split
    · omega
    · split <;> omega
  generalize satS 32 x = y at hlo hhi
  unfold toS ofS
  split <;> omega

theorem ofS_lt (w : Nat) (x : Int) : ofS w x < 2 ^ w := by
  unfold ofS
  have hpos : (0 : Int) < 2 ^ w := by positivity
  have hlt := Int.emod_lt_of_pos x hpos
  have hnn := Int.emod_nonneg x (ne_of_gt hpos)
  have : ((x % 2 ^ w).toNat : Int) < ((2 ^ w : Nat) : Int) := by
    rw [Int.toNat_of_nonneg hnn]
    exact_mod_cast hlt
  exact_mod_cast this

section
variable {s : State}

theorem State.rdS_wrS_same (s : State) (f : Fld) (v : Int) : (s.wrS f v).rdS f = toS f.w (ofS f.w v) :=
  congrArg (toS f.w) ((State.rd_wr_same s f _).trans (Nat.mod_eq_of_lt (ofS_lt _ _)))

theorem State.rdS_wrS_other (s : State) {f g : Fld} (v : Int) (h : f.key ≠ g.key) : (s.wrS f v).rdS g = s.rdS g :=
  congrArg (toS g.w) (State.rd_wr_other s _ h)

theorem readings_apart (c : Ch) : (CH_MV.MV c).key ≠ (CH_MI.MI c).key ∧ (CH_MI.MI c).key ≠ (CH_SENSE.KEL_EN c).key ∧
    (CH_MI.MI c).key ≠ (CH_RKEL.RKEL c).key ∧ (CH_MI.MI c).key ≠ MET_CFG.ODR_DIV.key := by
  revert c
  decide

/-- A current reading does not enter the voltage reading. -/
theorem State.metUv_wrS_mi (s : State) (c : Ch) (x v : Int) : (s.wrS (CH_MI.MI c) x).metUv c v = s.metUv c v := by
  obtain ⟨-, hkel, hrkel, -⟩ := readings_apart c
  have hen : (s.wrS (CH_MI.MI c) x).rb (CH_SENSE.KEL_EN c) = s.rb (CH_SENSE.KEL_EN c) := State.rb_of_rd (State.rd_wr_other s _ hkel)
  have hr : (s.wrS (CH_MI.MI c) x).rd (CH_RKEL.RKEL c) = s.rd (CH_RKEL.RKEL c) := State.rd_wr_other s _ hrkel
  unfold State.metUv
  rw [hen, hr]
  rfl

theorem State.metUa_stored (s : State) (c : Ch) (x : Int) : toS 32 (ofS 32 (s.metUa c x)) = s.metUa c x := by
  unfold State.metUa
  exact toS_ofS_satS _

theorem State.metUv_stored (s : State) (c : Ch) (x : Int) : toS 32 (ofS 32 (s.metUv c x)) = s.metUv c x := by
  unfold State.metUv
  exact toS_ofS_satS _

theorem exec_sinc3Output (hidle : s.idle = false) (c : Ch) (v i : Int) (hnow : s.now % max 1 (s.rd MET_CFG.ODR_DIV) = 0) :
    exec (.sinc3Output c v i) s = .next (
      if (s.chan (s.leader c)).met.exAge < s.rd MET_CFG.ODR_DIV then s.wrS (CH_MI.MI c) (s.metUa c i)
      else (s.wrS (CH_MI.MI c) (s.metUa c i)).wrS (CH_MV.MV c) (s.metUv c v)) := by
  obtain ⟨-, -, -, hodr⟩ := readings_apart c
  show execSinc3Output c v i s = _
  unfold execSinc3Output
  rw [if_neg (by simp [hidle, hnow])]
  dsimp only
  obtain ⟨x, hx⟩ : ∃ x, s.metUa c i = x := ⟨_, rfl⟩
  rw [hx]
  have hdiv : (s.wrS (CH_MI.MI c) x).rd MET_CFG.ODR_DIV = s.rd MET_CFG.ODR_DIV := State.rd_wr_other s _ hodr
  have hage : ((s.wrS (CH_MI.MI c) x).chan ((s.wrS (CH_MI.MI c) x).leader c)).met.exAge =
    (s.chan (s.leader c)).met.exAge := rfl
  rw [State.metUv_wrS_mi, hdiv, hage]

theorem sinc3Output_enters (hidle : s.idle = false) (c : Ch) (v i : Int) (hnow : s.now % max 1 (s.rd MET_CFG.ODR_DIV) = 0) :
    s.ends (.sinc3Output c v i) (fun t =>
      t.rdS (CH_MI.MI c) = s.metUa c i ∧
      t.rdS (CH_MV.MV c) = (if (s.chan (s.leader c)).met.exAge < s.rd MET_CFG.ODR_DIV then s.rdS (CH_MV.MV c) else s.metUv c v) ∧
      s.only t [.regs] ∧ s.regsBut t [CH_MI.MI c, CH_MV.MV c]) := by
  obtain ⟨happart, -, -, -⟩ := readings_apart c
  have hx := s.metUa_stored c i
  have hy := s.metUv_stored c v
  rw [State.ends, exec_sinc3Output hidle c v i hnow]
  obtain ⟨x, hmetUa⟩ : ∃ x, s.metUa c i = x := ⟨_, rfl⟩
  obtain ⟨y, hmetUv⟩ : ∃ y, s.metUv c v = y := ⟨_, rfl⟩
  rw [hmetUa] at hx ⊢
  rw [hmetUv] at hy ⊢
  have hmi : (s.wrS (CH_MI.MI c) x).rdS (CH_MI.MI c) = x := (State.rdS_wrS_same s _ _).trans hx
  have hbut : s.regsBut (s.wrS (CH_MI.MI c) x) [CH_MI.MI c, CH_MV.MV c] := State.regsBut_wr (fun _ _ => rfl) (by simp) _
  split
  · exact ⟨_, rfl, hmi, State.rdS_wrS_other s _ (Ne.symm happart), State.only_iff.2 (by simp), hbut⟩
  · exact ⟨_, rfl, (State.rdS_wrS_other _ _ happart).trans hmi, (State.rdS_wrS_same _ (CH_MV.MV c) _).trans hy,
      State.only_iff.2 (by simp), State.regsBut_wr hbut (by simp) _⟩

end

/-! ### The tracking of the SAR constants -/

theorem clampI_natAbs (g : Int) {b : Int} (hb : 0 ≤ b) : (clampI g (-b) b).natAbs ≤ b.natAbs := by
  unfold clampI
  split
  · omega
  · split <;> omega

section
variable {s : State} {c : Ch}

/-- The interval of a fit begins anew. -/
def State.fitAnew (s : State) (c : Ch) : State := s.updMet c (fun m => { m with trkN := 0, trkMin := 0, trkMax := 0 })

/-- The SAR constants of a channel move by bounded steps. -/
def State.fitted (s : State) (c : Ch) (lim : Int) : State :=
  { s with
    free := s.free + 1 + 1
    met := { s.met with
      sarGain := bupd s.met.sarGain c (fun x => x + clampI (Config.freeInt s.free) (-5000) 5000)
      sarOfs := bupd s.met.sarOfs c (fun x => x + clampI (Config.freeInt (s.free + 1)) (-lim) lim) } }

theorem exec_sarTrackFit (h : 1024 ≤ (s.chan c).met.trkN) : exec (.sarTrackFit c) s = .next (
    if (s.fitAnew c).rb MET_CFG.SAR_TRACK ∧ !(s.fitAnew c).met.frozen ∧
        (s.fitAnew c).fsUa c ((s.fitAnew c).rd (CH_MCFG.CRANGE c)) ≤ 10 * ((s.chan c).met.trkMax - (s.chan c).met.trkMin) then
      (s.fitAnew c).fitted c (2500 * 2 ^ s.rd (CH_MCFG.CRANGE c))
    else s.fitAnew c) := by
  show execSarTrackFit c s = _
  unfold execSarTrackFit
  rw [if_neg (by omega)]
  dsimp only
  split <;> rename_i hc
  · exact (congrArg Host.Outcome.next (if_pos hc)).symm
  · exact (congrArg Host.Outcome.next (if_neg hc)).symm

theorem sarTrackFit_bounded (h : 1024 ≤ (s.chan c).met.trkN) : s.ends (.sarTrackFit c) (fun t => (t.chan c).met.trkN = 0 ∧
    (bget t.met.sarGain c - bget s.met.sarGain c).natAbs ≤ 5000 ∧
    (bget t.met.sarOfs c - bget s.met.sarOfs c).natAbs ≤ 2500 * 2 ^ s.rd (CH_MCFG.CRANGE c) ∧
    (s.met.frozen = true ∨ s.rb MET_CFG.SAR_TRACK = false → t.met = s.met) ∧
    s.chBut t [c] ∧ s.only t [.ch, .met, .free]) := by
  have hanew : ((s.fitAnew c).chan c).met.trkN = 0 := by
    unfold State.fitAnew
    rw [State.chan_updMet_same]
  have hothers : s.chBut (s.fitAnew c) [c] := fun d hd =>
    State.chan_updMet_other s _ (fun e => hd (by simp [e]))
  rw [State.ends, exec_sarTrackFit h]
  split
  next hc =>
    obtain ⟨htrack, hfrozen, -⟩ := hc
    refine ⟨_, rfl, hanew, ?_, ?_, fun hs => ?_, hothers, State.only_iff.2 (by simp [State.fitted, State.fitAnew])⟩
    · have hg : bget ((s.fitAnew c).fitted c (2500 * 2 ^ s.rd (CH_MCFG.CRANGE c))).met.sarGain c =
          bget s.met.sarGain c + clampI (Config.freeInt s.free) (-5000) 5000 := bget_bupd_same _ _ _
      rw [hg, add_sub_cancel_left]
      exact clampI_natAbs _ (by omega)
    · have ho : bget ((s.fitAnew c).fitted c (2500 * 2 ^ s.rd (CH_MCFG.CRANGE c))).met.sarOfs c =
          bget s.met.sarOfs c + clampI (Config.freeInt (s.free + 1)) (-(2500 * 2 ^ s.rd (CH_MCFG.CRANGE c)))
            (2500 * 2 ^ s.rd (CH_MCFG.CRANGE c)) := bget_bupd_same _ _ _
      rw [ho, add_sub_cancel_left]
      refine (clampI_natAbs _ (by positivity)).trans (le_of_eq ?_)
      rw [Int.natAbs_mul, Int.natAbs_pow]
      rfl
    · rcases hs with hs | hs
      · exact absurd (show (!s.met.frozen) = true from hfrozen) (by simp [hs])
      · exact absurd (show s.rb MET_CFG.SAR_TRACK = true from htrack) (by simp [hs])
  next =>
    have hmet : (s.fitAnew c).met = s.met := rfl
    refine ⟨_, rfl, hanew, ?_, ?_, fun _ => hmet, hothers, State.only_iff.2 (by simp [State.fitAnew])⟩
    · simp [hmet]
    · simp [hmet]

end

/-! ### The telemetry report -/

section
variable {s t : State}

theorem State.orFree_only (s : State) (x : Option Int) : s.only (s.orFree x).2 [.free] := by
  cases x
  · exact State.only_iff.2 (by simp [State.orFree, State.takeInt])
  · exact State.only_refl _ _

theorem State.tlmRec_only (s : State) (c : Ch) : s.only (s.tlmRec c).2 [.free] :=
  State.only_trans (State.only_trans (State.only_trans (State.only_trans (State.only_trans (State.orFree_only _ _)
    (State.orFree_only _ _)) (State.orFree_only _ _)) (State.orFree_only _ _)) (State.orFree_only _ _)) (State.orFree_only _ _)

theorem State.tlmLost_only (s : State) (n : Nat) : s.only (s.tlmLost n) [.regs, .host] := by
  unfold State.tlmLost
  split
  · exact State.only_refl _ _
  · exact State.only_iff.2 (by simp [State.irq])

theorem State.tlmLost_rd (s : State) (n : Nat) {f : Fld} (hf : HOST_TLMLOST.TLM_LOST.key ≠ f.key) :
    (s.tlmLost n).rd f = s.rd f := by
  unfold State.tlmLost
  split
  · rfl
  · exact State.rd_wr_other _ _ hf

theorem State.tlmLost_host (s : State) (n : Nat) : (s.tlmLost n).host.tlrSeq = s.host.tlrSeq ∧
    (s.tlmLost n).host.link = s.host.link ∧ (s.tlmLost n).host.bme = s.host.bme := by
  unfold State.tlmLost
  split <;> exact ⟨rfl, rfl, rfl⟩

theorem State.event_tlrSeq (s : State) (a b c : Nat) : (s.event a b c).host.tlrSeq = s.host.tlrSeq := by
  unfold State.event
  split <;> rfl

/-- A record leaves the number of the report. -/
theorem State.tlmWrite_tlrSeq (s : State) (c : Ch) : (s.tlmWrite c).host.tlrSeq = s.host.tlrSeq := by
  have hrec : (s.tlmRec c).2.host = s.host := (s.tlmRec_only c).2 .host (by decide)
  unfold State.tlmWrite
  dsimp only
  rw [← hrec]
  generalize (s.tlmRec c).2 = u
  have herr : (u.hostErr 20 2).host.tlrSeq = u.host.tlrSeq :=
    (State.event_tlrSeq ((u.wr HOST_ERR.TLR_ERR 1).wr HOST_ERRINFO.QUEUE 20 |>.wr HOST_ERRINFO.CODE 2) _ _ _)
  split
  · exact (State.tlmLost_host _ _).1
  · split
    · refine (State.tlmLost_host _ _).1.trans ?_
      split
      · exact herr
      · rfl
    · refine (congrArg HostS.tlrSeq ((State.hostWrite_only _ _ _).2 .host (by decide))).trans ?_
      split
      · exact (State.tlmLost_host _ _).1
      · rfl

/-- A report whose writes have failed only counts its records. -/
theorem State.tlmWrite_failed {s : State} (h : s.rb HOST_ERR.TLR_ERR = true) (c : Ch) :
    s.only (s.tlmWrite c) [.host, .regs, .free] ∧ (s.tlmWrite c).rb HOST_ERR.TLR_ERR = true := by
  have hrec := s.tlmRec_only c
  have hu : (s.tlmRec c).2.rb HOST_ERR.TLR_ERR = true :=
    (State.rb_of_rd (State.rd_of_regs (hrec.2 .regs (by decide)) _)).trans h
  have heq : s.tlmWrite c = (s.tlmRec c).2.tlmLost 1 := by
    unfold State.tlmWrite
    dsimp only
    rw [if_pos hu]
  rw [heq]
  exact ⟨State.only_trans (State.only_mono hrec (by decide)) (State.only_mono (State.tlmLost_only _ _) (by decide)),
    (State.rb_of_rd (State.tlmLost_rd _ _ (by decide))).trans hu⟩

/-- The head can write its report. -/
def State.TlmOpen (s : State) : Prop :=
  s.isHead = true ∧ (s.host.link && s.host.bme) = true ∧ s.rb HOST_ERR.TLR_ERR = false

theorem State.canWrite_head {s : State} (h : s.isHead = true) (c : FrCls) : s.canWrite c = (s.host.link && s.host.bme) :=
  if_pos h

theorem State.TlmOpen.congr (h : s.TlmOpen) (hhost : t.host.link = s.host.link ∧ t.host.bme = s.host.bme)
    (hrd : ∀ f ∈ [SYS_STRAP.ROLE, HOST_ERR.TLR_ERR], t.rd f = s.rd f) : t.TlmOpen := by
  obtain ⟨hhead, hlink, herr⟩ := h
  refine ⟨?_, ?_, (State.rb_of_rd (hrd _ (by simp))).trans herr⟩
  · unfold State.isHead State.role at hhead ⊢
    rw [hrd _ (by simp)]
    exact hhead
  · rw [hhost.1, hhost.2]
    exact hlink

/-- The head writes a record at once. -/
theorem State.tlmWrite_head (h : s.TlmOpen) (c : Ch) : (s.tlmWrite c).TlmOpen ∧
    (s.tlmWrite c).out.length = s.out.length + 1 ∧ s.only (s.tlmWrite c) [.host, .regs, .free, .out] := by
  have hrec := s.tlmRec_only c
  have hu : (s.tlmRec c).2.TlmOpen := h.congr (by rw [hrec.2 .host (by decide)]; exact ⟨rfl, rfl⟩)
    (fun f _ => State.rd_of_regs (hrec.2 .regs (by decide)) f)
  have hout : (s.tlmRec c).2.out = s.out := hrec.2 .out (by decide)
  unfold State.tlmWrite
  dsimp only
  rw [← hout]
  generalize (s.tlmRec c).2 = u at hrec hu
  obtain ⟨hhead, hlink, herr⟩ := hu
  rw [if_neg (by simp [herr]), if_neg (by simp [State.canWrite_head hhead, hlink])]
  have hwritten (v : State) (hv : v.TlmOpen) (hvout : v.out = u.out) (honly : s.only v [.host, .regs, .free])
      (a : Nat) (ws : List Word) : (v.hostWrite a ws).TlmOpen ∧ (v.hostWrite a ws).out.length = u.out.length + 1 ∧
      s.only (v.hostWrite a ws) [.host, .regs, .free, .out] := by
    rw [State.hostWrite_head hv.1]
    refine ⟨hv, congrArg (· + 1) (congrArg List.length hvout), ?_⟩
    exact State.only_trans (State.only_mono honly (by decide)) (State.only_iff.2 (by simp [State.emit]))
  split
  · refine hwritten _ (State.TlmOpen.congr ⟨hhead, hlink, herr⟩ (State.tlmLost_host _ _).2 fun f hf =>
      State.tlmLost_rd _ _ ?_) ((State.tlmLost_only _ _).2 .out (by decide)) ?_ _ _
    · revert f
      decide
    · exact State.only_trans (State.only_mono hrec (by decide)) (State.only_mono (State.tlmLost_only _ _) (by decide))
  · exact hwritten _ ⟨hhead, hlink, herr⟩ rfl (State.only_mono hrec (by decide)) _ _

/-- The head writes a record for each channel. -/
theorem State.forCh_tlmWrite_head (l : List Ch) (h : s.TlmOpen) : (s.forCh l State.tlmWrite).TlmOpen ∧
    (s.forCh l State.tlmWrite).out.length = s.out.length + l.length ∧
    s.only (s.forCh l State.tlmWrite) [.host, .regs, .free, .out] := by
  induction l generalizing s with
  | nil => exact ⟨h, rfl, State.only_refl _ _⟩
  | cons c l ih =>
    obtain ⟨hopen, hout, honly⟩ := s.tlmWrite_head h c
    obtain ⟨hopen', hout', honly'⟩ := ih hopen
    refine ⟨hopen', hout'.trans ?_, State.only_trans honly honly'⟩
    rw [hout, List.length_cons]
    omega

theorem State.forCh_tlmWrite_failed (l : List Ch) (h : s.rb HOST_ERR.TLR_ERR = true) :
    s.only (s.forCh l State.tlmWrite) [.host, .regs, .free] ∧ (s.forCh l State.tlmWrite).rb HOST_ERR.TLR_ERR = true := by
  induction l generalizing s with
  | nil => exact ⟨State.only_refl _ _, h⟩
  | cons c l ih =>
    obtain ⟨honly, herr⟩ := State.tlmWrite_failed h c
    obtain ⟨honly', herr'⟩ := ih herr
    exact ⟨State.only_trans honly honly', herr'⟩

/-- A report takes the next number. -/
theorem State.tlmReport_tlrSeq (s : State) : s.tlmReport.host.tlrSeq = s.host.tlrSeq + 1 := by
  have hseq : (s.forCh allCh State.tlmWrite).host.tlrSeq = s.host.tlrSeq :=
    State.forCh_proj (fun t => t.host.tlrSeq) State.tlmWrite_tlrSeq s _
  unfold State.tlmReport
  dsimp only
  rw [← hseq]
  split <;> rfl

theorem State.tlmReport_head (h : s.TlmOpen) : s.tlmReport.out.length = s.out.length + 16 ∧
    (bget s.tlmReport.host.msix 3).pend = true ∧ s.only s.tlmReport [.host, .regs, .free, .out] := by
  obtain ⟨⟨hhead, hlink, herr⟩, hout, honly⟩ := State.forCh_tlmWrite_head allCh h
  unfold State.tlmReport
  dsimp only
  generalize s.forCh allCh State.tlmWrite = u at hhead herr hout honly
  have hhead' : ({ u with host := { u.host with tlrSeq := u.host.tlrSeq + 1 } } : State).isHead = true := hhead
  have herr' : ({ u with host := { u.host with tlrSeq := u.host.tlrSeq + 1 } } : State).rb HOST_ERR.TLR_ERR = false := herr
  rw [if_neg (by simp [hhead', herr'])]
  refine ⟨hout, ?_, State.only_trans honly (State.only_iff.2 (by simp [State.irq]))⟩
  unfold State.irq
  rw [bget_bupd_same]

theorem State.tlmReport_failed (h : s.rb HOST_ERR.TLR_ERR = true) : s.only s.tlmReport [.host, .regs, .free] := by
  obtain ⟨honly, herr⟩ := State.forCh_tlmWrite_failed allCh h
  unfold State.tlmReport
  dsimp only
  generalize s.forCh allCh State.tlmWrite = u at herr honly
  have herr' : ({ u with host := { u.host with tlrSeq := u.host.tlrSeq + 1 } } : State).rb HOST_ERR.TLR_ERR = true := herr
  rw [if_pos (by simp [herr'])]
  exact State.only_trans honly (State.only_iff.2 (by simp))

/-- Nothing is posted where nothing waits. -/
theorem State.drainWrites_nothing (h : s.nothingToWrite) : s.drainWrites = s := by
  obtain ⟨hevents, hnote, hcbuf, howed, hadm⟩ := h
  have hev : s.drainEvents = s := by
    unfold State.drainEvents
    rw [hevents, hnote]
    rfl
  unfold State.drainWrites
  rw [hev]
  dsimp only
  rw [hcbuf, howed, hadm]
  rfl

/-- The intervals of the telemetry begin anew. -/
def State.tlmAnew (s : State) : State := s.forCh allCh (fun s c => s.updTlm c (fun _ => Tlm.reset))

theorem State.tlmAnew_only (s : State) : s.only s.tlmAnew [.ch] :=
  State.foldl_only _ (fun _ _ h => State.only_trans h (State.only_iff.2 (by simp))) (State.only_refl _ _)

theorem State.tlmAnew_chan (s : State) (c : Ch) : (s.tlmAnew.chan c).tlm = Tlm.reset := by
  refine State.forCh_establishes (Q := fun t => (t.chan c).tlm = Tlm.reset) (fun t a h => ?_) (c := c) (fun t => ?_) s
    (mem_allCh c)
  · by_cases ha : a = c
    · subst ha
      rw [State.chan_updTlm_same]
    · rw [State.chan_updTlm_other _ _ ha]
      exact h
  · rw [State.chan_updTlm_same]

theorem exec_telemetryReport (hidle : s.idle = false) (hnow : s.now % max 1 s.sys.tlm = 0) :
    exec .telemetryReport s =
      .next (if s.rb HOST_CTL.TLR_EN then s.drainWrites.tlmReport else s).tlmAnew := by
  show execTelemetryReport s = _
  unfold execTelemetryReport
  rw [if_neg (by simp [hidle, hnow])]
  rfl

theorem telemetryReport_off (hidle : s.idle = false) (hnow : s.now % max 1 s.sys.tlm = 0)
    (hoff : s.rb HOST_CTL.TLR_EN = false) :
    s.ends .telemetryReport (fun t => (∀ c : Ch, (t.chan c).tlm = Tlm.reset) ∧ s.only t [.ch]) := by
  rw [State.ends, exec_telemetryReport hidle hnow, if_neg (by simp [hoff])]
  exact ⟨_, rfl, s.tlmAnew_chan, s.tlmAnew_only⟩

theorem telemetryReport_on (hidle : s.idle = false) (hnow : s.now % max 1 s.sys.tlm = 0)
    (hon : s.rb HOST_CTL.TLR_EN = true) :
    s.ends .telemetryReport (fun t => (∀ c : Ch, (t.chan c).tlm = Tlm.reset) ∧
      (s.nothingToWrite → t.host.tlrSeq = s.host.tlrSeq + 1 ∧
        (s.isHead = true → s.canWrite .telemetry = true → s.rb HOST_ERR.TLR_ERR = false →
          t.out.length = s.out.length + 16 ∧ (bget t.host.msix 3).pend = true ∧ s.only t [.ch, .host, .regs, .free, .out]) ∧
        (s.rb HOST_ERR.TLR_ERR = true → s.only t [.ch, .host, .regs, .free]))) := by
  rw [State.ends, exec_telemetryReport hidle hnow, if_pos hon]
  refine ⟨_, rfl, State.tlmAnew_chan _, fun hnothing => ?_⟩
  rw [State.drainWrites_nothing hnothing]
  have hanew := s.tlmReport.tlmAnew_only
  have hhost : s.tlmReport.tlmAnew.host = s.tlmReport.host := hanew.2 .host (by decide)
  refine ⟨?_, fun hhead hcan herr => ?_, fun herr => ?_⟩
  · rw [hhost]
    exact s.tlmReport_tlrSeq
  · have hopen : s.TlmOpen := ⟨hhead, (State.canWrite_head hhead _).symm.trans hcan, herr⟩
    obtain ⟨hout, hpend, honly⟩ := State.tlmReport_head hopen
    refine ⟨?_, ?_, State.only_trans (State.only_mono honly (by decide)) (State.only_mono hanew (by decide))⟩
    · rw [show s.tlmReport.tlmAnew.out = s.tlmReport.out from hanew.2 .out (by decide)]
      exact hout
    · rw [hhost]
      exact hpend
  · exact State.only_trans (State.only_mono (State.tlmReport_failed herr) (by decide)) (State.only_mono hanew (by decide))

end

end Sys2Proof.Machine
end

section
open Sys2Proof Sys2Proof.Machine

/-- Settles O48: each command on its own; a sample outside the limits stops the gang by its third in a row, and a report
writes one record per channel after nothing else waits. -/
theorem readingsAndTelemetry : Obligations.ReadingsAndTelemetry := by
  unfold Obligations.ReadingsAndTelemetry
  intro s hidle
  refine ⟨fun c raw => ⟨hkSample_within hidle _, hkSample_outside hidle _, hkSample_stops hidle _ true,
    hkSample_stops hidle _ false⟩, hkSample_die hidle, fun k raw => hkSample_supply hidle k raw _,
    sinc3Output_enters hidle, fun c => sarTrackFit_bounded, fun hnow => ⟨telemetryReport_off hidle hnow,
    telemetryReport_on hidle hnow⟩⟩

end


section
/-!
SUPPORT. The motor (R557 to R580, R589): starts, crossings and the loss of sync. What a raise whose reaction resets nothing
leaves of MQ, and what the end of a start leaves of the crossings.
-/

namespace Sys2Proof.Machine

/-! ### What is prefetched of MQ -/

/-- From `s` to `t` MQ has the same descriptors prefetched. -/
def MqKept (s t : State) : Prop := (t.subq mq).pre = (s.subq mq).pre

namespace MqKept

variable {s t u : State}

theorem ite {p : Prop} [Decidable p] (h : MqKept s t) (k : MqKept s u) : MqKept s (if p then t else u) := by
  split
  · exact h
  · exact k

theorem foldl {α : Type} {f : State → α → State} (l : List α) (k : ∀ t a, MqKept s t → MqKept s (f t a)) (h : MqKept s t) :
    MqKept s (l.foldl f t) := by
  induction l generalizing t with
  | nil => exact h
  | cons a l ih => exact ih (k t a h)

theorem same (h : MqKept s t) (k : u.host.qs = t.host.qs) : MqKept s u := by
  unfold MqKept State.subq at h ⊢
  rw [k]
  exact h

theorem of_only (h : MqKept s t) {ps : List Part} (k : t.only u ps) (hp : .host ∉ ps) : MqKept s u :=
  h.same (congrArg HostS.qs (k.2 .host hp))

theorem reported (h : MqKept s t) (k : Reported t u) : MqKept s u := h.same (by rw [k.host])

theorem abandon (h : MqKept s t) (status : Nat) : MqKept s (t.abandon status) := by
  unfold State.abandon
  split
  · split
    · exact (congrArg SubQ.pre (State.admDone_subq_other _ _ _ _ _ (by decide))).trans h
    · exact h
  · exact h

theorem safeChannels (h : MqKept s t) : MqKept s t.safeChannels :=
  .foldl _ (fun _ c k => MqKept.same ((MqKept.ite (k.of_only (State.failStep_ch_only _ c _ _) (by decide))
    (k.of_only (State.failStep_ch_only _ c _ _) (by decide))).of_only (State.protOpen_only _ c) (by decide)) rfl) h

theorem motTorqueOff (h : MqKept s t) : MqKept s t.motTorqueOff := by
  have hdone : MqKept s (t.motComplete rFAULT dSAFE) := (t.motComplete_pre _ _ mq).trans h
  unfold State.motTorqueOff
  have hfree : MqKept s { t with mot := { t.mot with hold := .none } } := h.same rfl
  have hoff {v : State} (hv : MqKept s v) : MqKept s v.motGatesOff := hv.same rfl
  exact .ite (hoff (hdone.same rfl)) (hoff (.ite hfree (hfree.same (u := State.wr _ MOT_STAT.STATE 0) rfl)))

theorem kdrLow (h : MqKept s t) : MqKept s t.kdrLow := by
  unfold State.kdrLow
  exact .ite (h.same rfl) (h.same rfl)

theorem latchLow (h : MqKept s t) (x : SafeCause) : MqKept s (t.latchLow x) := by
  refine h.same ?_
  show (t.latchCause x).host.qs = t.host.qs
  unfold State.latchCause
  extract_lets set latched saf void
  have hlatched : latched.host.qs = t.host.qs := by
    show (if _ then _ else _ : State).host.qs = _
    split
    · rfl
    · split <;> rfl
  have hvoid : void.host.qs = t.host.qs := hlatched
  cases x with
  | ringWdog r => cases r <;> exact hvoid
  | _ => exact hvoid

theorem goSafe (h : MqKept s t) (atOnce : Bool) : MqKept s (t.goSafe atOnce) := by
  unfold State.goSafe
  extract_lets traced errn sys going dumped saf
  have htraced : MqKept s traced := (h.abandon 4).safeChannels.motTorqueOff.reported (.traceAll (.refl _) 7)
  clear_value traced
  have herrn : MqKept s errn := htraced.reported (.errPull (.refl traced))
  clear_value errn
  have hgoing : MqKept s going := herrn.same rfl
  clear_value going
  have hdumped : MqKept s dumped := .ite (hgoing.reported (.dumpTrigger (.refl _) _ _)) hgoing
  clear_value dumped
  exact .ite hdumped.kdrLow (.ite (hdumped.same rfl) hdumped)

theorem safeReq (h : MqKept s t) (x : SafeCause) (atOnce : Bool) : MqKept s (t.safeReq x atOnce) := by
  have hlow := h.latchLow x
  by_cases hd : t.driven
  · rw [State.safeReq_driven t x atOnce hd]
    exact .ite (.ite hlow.kdrLow hlow) (hlow.goSafe atOnce)
  · rw [State.safeReq_aside t x atOnce hd]
    exact .ite hlow (.ite (hlow.abandon 4).kdrLow (hlow.abandon 4))

/-- A raise whose reaction holds no reset. -/
theorem raiseAs (h : MqKept s t) (n : Src) (c : Ch) (x : SafeCause) (hq : t.quiet n) : MqKept s (t.raiseAs n c x) := by
  have hmark (f : SrcS → SrcS) : MqKept s (t.updSrc n f) := h.same rfl
  cases hlisted : srcListed n.val with
  | false =>
    rw [State.raiseAs_unlisted t n c x hlisted]
    exact hmark _
  | true =>
    by_cases hact : (t.src n).act &&& actBit n c = 0
    · rw [State.raiseAs_new t n c x hlisted hact, State.react_quiet _ n c _ x hq.1 hq.2]
      have hreport : MqKept s (t.report n c) := MqKept.reported (hmark _) (t.report_reported n c)
      exact .ite (hreport.safeReq x _) hreport
    · rw [State.raiseAs_again t n c x hlisted hact]
      exact .ite ((hmark _).safeReq x _) (hmark _)

theorem motRaise (h : MqKept s t) (n : Src) (hq : t.quiet n) : MqKept s (t.motRaise n) := by
  unfold State.motRaise
  cases motFltFld n.val with
  | none => exact h.raiseAs n 0 _ hq
  | some f => exact MqKept.raiseAs (h.same (u := t.wr f 1) rfl) n 0 _ (State.motMark_quiet hq f 1)

theorem motFail (h : MqKept s t) (reason detail : Nat) : MqKept s (t.motFail reason detail) := by
  refine MqKept.same (t := t.motComplete reason detail) ((t.motComplete_pre _ _ mq).trans h) ?_
  rw [t.motFail_host]

end MqKept

/-! ### Starts that fail -/

section
variable {s : State}

/-- No STOP is prefetched. -/
def State.NoStop (s : State) : Prop := ∀ p ∈ (s.subq mq).pre, (wAt p.words 0).extractLsb' 0 8 ≠ 0x46

theorem State.NoStop.scan {t : State} (h : s.NoStop) (k : MqKept s t) : t.motStopScan = t := by
  have hnone : t.stopAt = none := by
    unfold State.stopAt
    split
    · rfl
    · dsimp only
      rw [show (t.subq mq).pre = (s.subq mq).pre from k,
        List.find?_eq_none.2 (fun p hp => by simpa using h p hp)]
      rfl
  unfold State.motStopScan
  rw [hnone]
  split <;> rfl

/-- A fault of the motor ends its command. -/
theorem State.motRaise_fails {n : Src} (hq : s.quiet n) (hlisted : srcListed n.val = true) (reason detail : Nat) :
    ((s.motRaise n).motFail reason detail).mot.cmd = none ∧ ((s.motRaise n).motFail reason detail).rd MOT_STAT.STATE = 5 ∧
      ((s.motRaise n).motFail reason detail).mot.gatesOff = true ∧ ((s.motRaise n).motFail reason detail).active n = true := by
  obtain ⟨hcmd, -, hstate, hoff⟩ := (s.motRaise n).motFail_halts reason detail
  refine ⟨hcmd, hstate, hoff, ?_⟩
  have hactive := State.motRaise_active hq hlisted
  unfold State.active State.src at hactive ⊢
  rw [((s.motRaise n).motFail_only reason detail).2 .flt (by decide)]
  exact hactive

theorem startTimeout_halts
    (hlate : (s.mot.start = .ramp ∧ s.since (some s.mot.startT) (10 * s.rd MOT_START.RAMP_T) = true) ∨
      (s.mot.start = .springbok ∧ s.since (some s.mot.startT) 1000 = true))
    (hq : s.quiet 25) (hstop : s.rd MOT_STAT.STATE ≠ 4 ∨ s.NoStop) :
    s.ends .startTimeout (fun t => t.mot.cmd = none ∧ t.rd MOT_STAT.STATE = 5 ∧ t.mot.gatesOff = true ∧ t.active 25 = true) := by
  have hexec : exec .startTimeout s = .next (
      if s.rd MOT_STAT.STATE = 4 then ((s.motRaise 25).motFail rFAULT dSYNC).motStopScan
      else (s.motRaise 25).motFail rFAULT (dSrc 25)) := by
    show execStartTimeout s = _
    unfold execStartTimeout
    rcases hlate with ⟨hstart, hsince⟩ | ⟨hstart, hsince⟩
    · simp only [hstart, hsince]
      exact (apply_ite Host.Outcome.next _ _ _).symm
    · simp only [hstart, hsince]
      exact (apply_ite Host.Outcome.next _ _ _).symm
  rw [State.ends, hexec]
  split
  next hcatch =>
    rw [State.NoStop.scan (hstop.resolve_left (fun h => h hcatch)) (MqKept.motFail (MqKept.motRaise rfl 25 hq) _ _)]
    exact ⟨_, rfl, State.motRaise_fails hq (by decide) _ _⟩
  next => exact ⟨_, rfl, State.motRaise_fails hq (by decide) _ _⟩

end

/-! ### What the end of a start leaves of the crossings -/

/-- What MOT knows of crossings. -/
def MotS.crossings (m : MotS) : Option Int × Option Int × Option Int × Bool × Bool × Nat × Nat :=
  (m.tzc, m.tzc1, m.tzc2, m.zcTaken, m.demag, m.missRun, m.zcRun)

/-- From `s` to `t` MOT knows the same of crossings. -/
structure ZcKept (s t : State) : Prop where
  mot : t.mot.crossings = s.mot.crossings
  adv : t.rd MOT_ADVST.ADV = s.rd MOT_ADVST.ADV

namespace ZcKept

variable {s t u : State}

theorem refl (s : State) : ZcKept s s := ⟨rfl, rfl⟩

theorem trans (h : ZcKept s t) (k : ZcKept t u) : ZcKept s u := ⟨k.mot.trans h.mot, k.adv.trans h.adv⟩

theorem of_only (h : ZcKept s t) {ps : List Part} (k : t.only u ps) (hm : .mot ∉ ps) (hr : .regs ∉ ps) : ZcKept s u :=
  h.trans ⟨congrArg MotS.crossings (k.2 .mot hm), State.rd_of_regs (k.2 .regs hr) _⟩

theorem wr (h : ZcKept s t) (f : Fld) (v : Nat) (hf : f.key ≠ MOT_ADVST.ADV.key) : ZcKept s (t.wr f v) :=
  h.trans ⟨rfl, State.rd_wr_other t v hf⟩

theorem withMot (h : ZcKept s t) (x : MotS) (hx : x.crossings = t.mot.crossings) : ZcKept s { t with mot := x } :=
  h.trans ⟨hx, rfl⟩

theorem motComplete (h : ZcKept s t) (reason detail : Nat) : ZcKept s (t.motComplete reason detail) := by
  refine h.trans ⟨?_, State.rd_of_regs (t.motComplete_regs reason detail) _⟩
  rw [t.motComplete_cmd]
  rfl

theorem motFail (h : ZcKept s t) (reason detail : Nat) : ZcKept s (t.motFail reason detail) := by
  have hended := h.motComplete reason detail
  have hoff {v : State} (hv : ZcKept s v) : ZcKept s v.motGatesOff := (hv.withMot _ (by exact rfl)).wr MOT_STAT.ASHORT 0 (by decide)
  unfold State.motFail State.motNoTorque
  dsimp only
  have hhalted := hoff ((hended.withMot { (t.motComplete reason detail).mot with hold := .none, start := .none } rfl).wr
    MOT_STAT.STATE 5 (by decide))
  split
  · exact hhalted.wr MOT_STAT.ASHORT 1 (by decide)
  · exact hhalted

theorem motGo (h : ZcKept s t) : ZcKept s t.motGo := h.trans ⟨rfl, rfl⟩

/-- A command begins under torque. -/
theorem motBegin (h : ZcKept s t) (d : MotionDesc) (idx : Nat) (hstate : t.rd MOT_STAT.STATE ≠ 0) :
    ZcKept s (t.motBegin d idx) := by
  by_cases hok : motionValid d = true ∧ t.loopsOk d.op.toNat = true
  · rw [State.motBegin_valid idx hok.1 hok.2, if_neg hstate]
    refine ZcKept.motGo (h.trans ⟨?_, t.cmdTaken_rd d idx (by decide)⟩)
    rw [t.cmdTaken_mot]
    rfl
  · have hbad : motionValid d = false ∨ t.loopsOk d.op.toNat = false := by
      by_contra hnot
      exact hok (by simpa using hnot)
    rw [State.motBegin_invalid idx hbad]
    exact ZcKept.motFail (h.withMot _ (by exact rfl)) _ _

end ZcKept

theorem State.revokeMotion_only (s : State) (ps : List PreDesc) : s.only (s.revokeMotion ps) [.host] := by
  unfold State.revokeMotion
  refine State.foldl_only _ (fun v p hv => State.only_trans (State.only_trans hv ?_) (State.updQ_only _ _ _))
    (State.only_refl _ _)
  unfold State.notice State.noticeIn
  split
  · exact State.only_iff.2 (by simp)
  · exact State.only_iff.2 (by simp [State.complete])

theorem State.stopClears_only (s : State) : s.only s.stopClears [.flt, .host] := by
  have hite (v : State) (n : Src) (p : Prop) [Decidable p] : v.only (if p then v.condGone n 0 else v) [.flt, .host] := by
    split
    · exact State.only_mono (v.condGone_only n 0) (by decide)
    · exact State.only_refl _ _
  unfold State.stopClears
  extract_lets st first second ns
  exact State.foldl_only _ (fun v n hv => State.only_trans hv (v.clearIfGone_only n 0))
    (State.only_trans (hite s 25 _) (hite first 28 _))

/-- What a STOP ends first leaves the registers, and of MOT all but the command. -/
theorem State.stopReady_left (s : State) : s.stopReady.regs = s.regs ∧ s.stopReady.mot = { s.mot with cmd := none } := by
  have hafter (v : State) (ps : List PreDesc) : v.only (v.revokeMotion ps).popMot.stopClears [.host, .flt] :=
    State.only_trans (State.only_mono (v.revokeMotion_only ps) (by decide)) (State.only_trans
      (State.only_mono (State.popMot_only _) (by decide)) (State.only_mono (State.stopClears_only _) (by decide)))
  unfold State.stopReady
  dsimp only
  refine ⟨((hafter _ _).2 .regs (by decide)).trans (s.motComplete_regs _ _), ?_⟩
  rw [(hafter _ _).2 .mot (by decide), s.motComplete_cmd]

/-- A STOP that acts under torque leaves the crossings. -/
theorem State.motStop_zc {s : State} (d : MotionDesc) (idx : Nat) (hstate : s.rd MOT_STAT.STATE = 2) :
    ZcKept s (s.motStop d idx) := by
  obtain ⟨hregs, hmot⟩ := s.stopReady_left
  have hready : s.stopReady.rd MOT_STAT.STATE = 2 := (State.rd_of_regs hregs _).trans hstate
  have hkept : ZcKept s s.stopReady := ⟨by rw [hmot]; rfl, State.rd_of_regs hregs _⟩
  rw [s.motStop_eq, if_neg (by rw [hready]; decide)]
  exact hkept.motBegin d idx (by rw [hready]; decide)

theorem State.motStopScan_zc {s : State} (hstate : s.rd MOT_STAT.STATE = 2) : ZcKept s s.motStopScan := by
  unfold State.motStopScan
  split
  · exact .refl s
  · split
    · exact State.motStop_zc _ _ hstate
    · exact .refl s

end Sys2Proof.Machine
end


section
/-!
SUPPORT. Crossings and commutation (R557 to R569, R575, R576).
-/

namespace Sys2Proof.Machine

section
variable {s : State}

/-! ### A crossing -/

/-- MOT has synchronised. -/
def State.inSync (s : State) : State :=
  (({ s with mot := { s.mot with start := .none, revN := 0, revExt := s.mot.ext, revBad := 0 } } : State).wr MOT_STAT.STATE 2).motGo

theorem State.inSync_spec (s : State) : ZcKept s s.inSync ∧ s.inSync.rd MOT_STAT.STATE = 2 ∧ s.inSync.mot.start = .none ∧
    MqKept s s.inSync :=
  ⟨⟨rfl, State.rd_wr_other (f := MOT_STAT.STATE) s 2 (by decide)⟩, State.rd_wr_same s MOT_STAT.STATE 2, rfl, rfl⟩

theorem State.synced_eq (s : State) :
    s.synced = if s.rd MOT_STAT.STATE = 4 then s.inSync.profileHere.motStopScan else s.inSync := by
  unfold State.synced
  dsimp only
  by_cases h : s.rd MOT_STAT.STATE = 4
  · rw [if_pos h, if_pos (by simp [h])]
    rfl
  · rw [if_neg h, if_neg (by simp [h])]
    rfl

theorem State.synced_zc (s : State) : ZcKept s s.synced := by
  obtain ⟨hzc, hstate, -, -⟩ := s.inSync_spec
  rw [s.synced_eq]
  split
  · exact (hzc.withMot _ rfl).trans (State.motStopScan_zc (s := s.inSync.profileHere) hstate)
  · exact hzc

theorem State.synced_ends (h : s.rd MOT_STAT.STATE = 4 → s.NoStop) : s.synced.rd MOT_STAT.STATE = 2 ∧ s.synced.mot.start = .none := by
  obtain ⟨-, hstate, hstart, hmq⟩ := s.inSync_spec
  rw [s.synced_eq]
  split
  next hcatch =>
    rw [State.NoStop.scan (t := s.inSync.profileHere) (h hcatch) (hmq.same rfl)]
    exact ⟨hstate, hstart⟩
  next => exact ⟨hstate, hstart⟩

/-- A crossing enters the record of MOT. -/
def State.crossed (s : State) (u : Int) : State :=
  { s with mot := { s.mot with
    tzc := some u, tzc1 := s.mot.tzc, tzc2 := s.mot.tzc1, zcTaken := true, demag := false, zcRun := s.mot.zcRun + 1
    missRun := 0 } }

/-- A crossing teaches an offset in BEMF. -/
def State.learned (s : State) : State := if s.rd MOT_STAT.STATE = 2 then s.learnOffset else s

theorem State.learned_spec (s : State) : ZcKept s s.learned ∧ s.learned.regs = s.regs ∧ MqKept s s.learned := by
  unfold State.learned State.learnOffset
  split
  · split
    · exact ⟨⟨rfl, rfl⟩, rfl, rfl⟩
    · exact ⟨⟨rfl, rfl⟩, rfl, rfl⟩
  · exact ⟨.refl s, rfl, rfl⟩

/-- The sixth crossing in a row synchronises. -/
def State.runsOn (s : State) : State :=
  if s.mot.zcRun < 6 then s
  else if s.rd MOT_STAT.STATE = 1 ∨ s.rd MOT_STAT.STATE = 4 then s.synced
  else if s.rd MOT_STAT.STATE = 3 ∧ s.rd MOT_CATCH.CATCH_MIN < (s.rdS MOT_SPEED.N).natAbs then
    ({ s with mot := { s.mot with revN := 0, revExt := s.mot.ext, revBad := 0 } } : State).wr MOT_STAT.STATE 2
  else s

theorem State.runsOn_zc (s : State) : ZcKept s s.runsOn := by
  unfold State.runsOn
  split
  · exact .refl s
  · split
    · exact s.synced_zc
    · split
      · exact ⟨rfl, State.rd_wr_other _ 2 (by decide)⟩
      · exact .refl s

theorem State.runsOn_syncs (h : 6 ≤ s.mot.zcRun) (hstate : s.rd MOT_STAT.STATE = 1 ∨ (s.rd MOT_STAT.STATE = 4 ∧ s.NoStop)) :
    s.runsOn.rd MOT_STAT.STATE = 2 ∧ s.runsOn.mot.start = .none := by
  unfold State.runsOn
  rw [if_neg (by omega), if_pos (hstate.imp id And.left)]
  refine State.synced_ends fun hcatch => ?_
  rcases hstate with h1 | h4
  · exact absurd hcatch (by omega)
  · exact h4.2

theorem State.crossing_eq (s : State) (u : Int) : s.crossing u =
    if (s.crossed u).learned.runsOn.byEmf then (s.crossed u).learned.runsOn.schedule u else (s.crossed u).learned.runsOn := by
  have hlearned : (s.crossed u).learned.regs = s.regs := ((s.crossed u).learned_spec).2.1
  have hstate : (s.crossed u).learned.rd MOT_STAT.STATE = (s.crossed u).rd MOT_STAT.STATE := State.rd_of_regs hlearned _
  unfold State.crossing State.runsOn
  rw [hstate]
  rfl

/-- A crossing at `u` is taken. -/
def State.TakesZc (s : State) (u : Int) (t : State) : Prop :=
  t.mot.zcTaken = true ∧ t.mot.tzc = some u ∧ t.mot.tzc1 = s.mot.tzc ∧
    t.mot.demag = false ∧ t.mot.missRun = 0 ∧ t.mot.zcRun = s.mot.zcRun + 1 ∧
    (t.byEmf = true → ∀ a : Int, s.mot.tzc1 = some a →
      t.mot.tComm = some (u + tdiv (tdiv (u - a) 2 * (300 - (s.rd MOT_ADVST.ADV : Int))) 600)) ∧
    (5 ≤ s.mot.zcRun → s.rd MOT_STAT.STATE = 1 ∨ (s.rd MOT_STAT.STATE = 4 ∧ s.NoStop) →
      t.rd MOT_STAT.STATE = 2 ∧ t.mot.start = .none)

/-- The next commutation leaves what MOT knows of crossings, its state and its start. -/
theorem State.schedule_spec (s : State) (u : Int) : ZcKept s (s.schedule u) ∧ (s.schedule u).regs = s.regs ∧
    (s.schedule u).mot.start = s.mot.start ∧ ∀ x : Int, s.mot.tS = some x →
      (s.schedule u).mot.tComm = some (u + tdiv (x * (300 - (s.rd MOT_ADVST.ADV : Int))) 600) := by
  unfold State.schedule
  cases s.mot.tS with
  | none => exact ⟨⟨rfl, rfl⟩, rfl, rfl, nofun⟩
  | some y => exact ⟨⟨rfl, rfl⟩, rfl, rfl, fun x hx => by rw [Option.some.inj hx]⟩

theorem State.crossing_takes (s : State) (u : Int) : s.TakesZc u (s.crossing u) := by
  obtain ⟨hlearn, hregs, hmq⟩ := (s.crossed u).learned_spec
  have hrun : (s.crossed u).learned.mot.zcRun = s.mot.zcRun + 1 :=
    congrArg (fun x : Option Int × Option Int × Option Int × Bool × Bool × Nat × Nat => x.2.2.2.2.2.2) hlearn.mot
  have hstate : (s.crossed u).learned.rd MOT_STAT.STATE = s.rd MOT_STAT.STATE := State.rd_of_regs hregs _
  have hstop (h : s.NoStop) : (s.crossed u).learned.NoStop := by
    unfold State.NoStop
    rw [show ((s.crossed u).learned.subq mq).pre = (s.subq mq).pre from hmq]
    exact h
  have hsyncs (h5 : 5 ≤ s.mot.zcRun) (h : s.rd MOT_STAT.STATE = 1 ∨ (s.rd MOT_STAT.STATE = 4 ∧ s.NoStop)) :=
    State.runsOn_syncs (s := (s.crossed u).learned) (by omega) (by rw [hstate]; exact h.imp id (And.imp id hstop))
  have hkept : ZcKept (s.crossed u) (s.crossed u).learned.runsOn := hlearn.trans (State.runsOn_zc _)
  rw [s.crossing_eq]
  generalize (s.crossed u).learned.runsOn = v at hkept hsyncs
  have htakes {t : State} (ht : ZcKept (s.crossed u) t) (hcomm : t.byEmf = true → ∀ a : Int, s.mot.tzc1 = some a →
      t.mot.tComm = some (u + tdiv (tdiv (u - a) 2 * (300 - (s.rd MOT_ADVST.ADV : Int))) 600))
      (hs : t.rd MOT_STAT.STATE = v.rd MOT_STAT.STATE ∧ t.mot.start = v.mot.start) : s.TakesZc u t := by
    have hmot := ht.mot
    unfold MotS.crossings State.crossed at hmot
    simp only [Prod.mk.injEq] at hmot
    obtain ⟨hzc, hzc1, -, htaken, hdemag, hmiss, hzcrun⟩ := hmot
    refine ⟨htaken, hzc, hzc1, hdemag, hmiss, hzcrun, hcomm, fun h5 h => ?_⟩
    rw [hs.1, hs.2]
    exact hsyncs h5 h
  split
  next hemf =>
    obtain ⟨hzc, hregs', hstart, hcomm⟩ := v.schedule_spec u
    refine htakes (hkept.trans hzc) (fun _ a ha => ?_) ⟨State.rd_of_regs hregs' _, hstart⟩
    have hts : v.mot.tS = some (tdiv (u - a) 2) := by
      have hmot := hkept.mot
      unfold MotS.crossings State.crossed at hmot
      simp only [Prod.mk.injEq] at hmot
      obtain ⟨hzc, -, hzc2, -⟩ := hmot
      unfold MotS.tS
      rw [hzc, hzc2, ha]
    rw [hcomm _ hts, show v.rd MOT_ADVST.ADV = s.rd MOT_ADVST.ADV from hkept.adv]
  next hemf => exact htakes hkept (fun h => absurd h hemf) ⟨rfl, rfl⟩

/-- A crossing at `u` is the first of its sector and lies within its window. -/
def State.ZcInTime (s : State) (u : Int) : Prop :=
  s.mot.zcTaken = false ∧ (∀ a : Int, s.mot.tLast = some a → a ≤ u) ∧ (∀ e : Int, s.zcEnd = some e → u ≤ e)

theorem Option.all_decide_iff {α : Type} {o : Option α} {p : α → Prop} [DecidablePred p] :
    o.all (fun x => decide (p x)) = true ↔ ∀ x, o = some x → p x := by
  cases o with
  | none => simp
  | some x => simp

theorem State.zcCounts_iff (s : State) (u : Int) (pre : Bool) : s.zcCounts u pre = true ↔
    s.seesEmf = true ∧ s.ZcInTime u ∧ (s.mot.demag = false ∨ pre = true ∨
      ∃ e ∈ s.mot.demagEnd (s.rd MOT_ZC.DEMAG_MAX), e ≤ u) := by
  unfold State.zcCounts State.ZcInTime
  simp only [Bool.and_eq_true, Bool.not_eq_true', Option.all_decide_iff]
  have hshut : ((s.mot.demag && !pre) && (s.mot.demagEnd (s.rd MOT_ZC.DEMAG_MAX)).all (fun e => decide (u < e))) = false ↔
      s.mot.demag = false ∨ pre = true ∨ ∃ e ∈ s.mot.demagEnd (s.rd MOT_ZC.DEMAG_MAX), e ≤ u := by
    cases s.mot.demag <;> cases pre <;> cases s.mot.demagEnd (s.rd MOT_ZC.DEMAG_MAX) <;> simp
  rw [hshut]
  constructor
  · rintro ⟨⟨⟨⟨hs, ht⟩, hd⟩, hl⟩, he⟩
    exact ⟨hs, ⟨ht, hl, he⟩, hd⟩
  · rintro ⟨hs, ⟨ht, hl, he⟩, hd⟩
    exact ⟨⟨⟨⟨hs, ht⟩, hd⟩, hl⟩, he⟩

theorem zeroCrossing_takes (x : ZcIn) (h : s.seesEmf = true ∧ s.ZcInTime x.t ∧ (s.mot.demag = false ∨ x.pre = true ∨
    ∃ e ∈ s.mot.demagEnd (s.rd MOT_ZC.DEMAG_MAX), e ≤ (x.t : Int))) : s.ends (.zeroCrossing x) (s.TakesZc x.t) := by
  have hexec : exec (.zeroCrossing x) s = .next (s.crossing x.t) :=
    congrArg Host.Outcome.next (if_pos ((s.zcCounts_iff x.t x.pre).2 h))
  exact ⟨_, hexec, s.crossing_takes _⟩

theorem zeroCrossing_not (x : ZcIn) (h : ¬ (s.seesEmf = true ∧ s.ZcInTime x.t ∧ (s.mot.demag = false ∨ x.pre = true ∨
    ∃ e ∈ s.mot.demagEnd (s.rd MOT_ZC.DEMAG_MAX), e ≤ (x.t : Int)))) : exec (.zeroCrossing x) s = .next s :=
  congrArg Host.Outcome.next (if_neg (fun hc => h ((s.zcCounts_iff x.t x.pre).1 hc)))

/-! ### The end of the demagnetisation window -/

/-- The demagnetisation window has ended. -/
def State.demagOver (s : State) : State := { s with mot := { s.mot with demag := false } }

theorem exec_demagEnd (u : Nat) (above : Bool) : exec (.demagEnd u above) s =
    if s.seesEmf && s.mot.demag && decide ((s.mot.demagEnd (s.rd MOT_ZC.DEMAG_MAX)).getD u ≤ s.endNs) then
      .next (if decide (above = slopeUp (s.rd MOT_STAT.SECTOR) s.mot.fwd) &&
          s.demagOver.zcCounts ((s.mot.demagEnd (s.rd MOT_ZC.DEMAG_MAX)).getD u) false then
        s.demagOver.crossing ((s.mot.demagEnd (s.rd MOT_ZC.DEMAG_MAX)).getD u) else s.demagOver)
    else .next s := by
  show execDemagEnd u above s = _
  unfold execDemagEnd
  rfl

theorem demagEnd_not (u : Nat) (above : Bool) (h : s.seesEmf = false ∨ s.mot.demag = false ∨
    s.endNs < (s.mot.demagEnd (s.rd MOT_ZC.DEMAG_MAX)).getD u) : exec (.demagEnd u above) s = .next s := by
  rw [exec_demagEnd]
  refine if_neg ?_
  rcases h with h | h | h
  · simp [h]
  · simp [h]
  · simp [not_le.2 h]

theorem demagEnd_ends (u : Nat) (above : Bool) (hemf : s.seesEmf = true) (hdemag : s.mot.demag = true)
    (hend : (s.mot.demagEnd (s.rd MOT_ZC.DEMAG_MAX)).getD u ≤ s.endNs) :
    (above = slopeUp (s.rd MOT_STAT.SECTOR) s.mot.fwd ∧ s.ZcInTime ((s.mot.demagEnd (s.rd MOT_ZC.DEMAG_MAX)).getD u) →
      s.ends (.demagEnd u above) (s.TakesZc ((s.mot.demagEnd (s.rd MOT_ZC.DEMAG_MAX)).getD u))) ∧
    (¬ (above = slopeUp (s.rd MOT_STAT.SECTOR) s.mot.fwd ∧ s.ZcInTime ((s.mot.demagEnd (s.rd MOT_ZC.DEMAG_MAX)).getD u)) →
      s.ends (.demagEnd u above) (fun t => t.mot = { s.mot with demag := false } ∧ s.only t [.mot])) := by
  generalize he : (s.mot.demagEnd (s.rd MOT_ZC.DEMAG_MAX)).getD u = e at hend ⊢
  have hexec : exec (.demagEnd u above) s = .next (if decide (above = slopeUp (s.rd MOT_STAT.SECTOR) s.mot.fwd) &&
      s.demagOver.zcCounts e false then s.demagOver.crossing e else s.demagOver) := by
    rw [exec_demagEnd, he, if_pos (by simp [hemf, hdemag, hend])]
  have hcounts : s.demagOver.zcCounts e false = true ↔ s.ZcInTime e :=
    (s.demagOver.zcCounts_iff e false).trans ⟨fun h => h.2.1, fun h => ⟨hemf, h, .inl rfl⟩⟩
  rw [State.ends, State.ends, hexec]
  constructor
  · rintro ⟨hpost, htime⟩
    rw [if_pos (by simp [hpost, hcounts.2 htime])]
    exact ⟨_, rfl, s.demagOver.crossing_takes e⟩
  · intro hnot
    rw [if_neg (fun h => ?_)]
    · exact ⟨_, rfl, rfl, State.only_iff.2 (by simp [State.demagOver])⟩
    · rw [Bool.and_eq_true, decide_eq_true_eq] at h
      exact hnot ⟨h.1, hcounts.1 h.2⟩

end

end Sys2Proof.Machine
end


section
/-!
SUPPORT. Commutation, missed crossings, starts and the check of the gear (R557 to R580, R589).
-/

namespace Sys2Proof.Machine

section
variable {s : State}

/-! ### A sector begins -/

theorem State.fieldWeaken_spec (s : State) : s.fieldWeaken.mot = s.mot ∧ s.only s.fieldWeaken [.regs, .free] ∧
    s.regsBut s.fieldWeaken [MOT_ADVST.ADV, MOT_ADVST.ID] := by
  have hmem : MOT_ADVST.ADV ∈ [MOT_ADVST.ADV, MOT_ADVST.ID] ∧ MOT_ADVST.ID ∈ [MOT_ADVST.ADV, MOT_ADVST.ID] := by simp
  have hput (v : State) (hv : v.mot = s.mot ∧ s.only v [.free] ∧ v.regs = s.regs) (a : Nat) (b : Int) :
      ((v.wr MOT_ADVST.ADV a).wrS MOT_ADVST.ID b).mot = s.mot ∧
      s.only ((v.wr MOT_ADVST.ADV a).wrS MOT_ADVST.ID b) [.regs, .free] ∧
      s.regsBut ((v.wr MOT_ADVST.ADV a).wrS MOT_ADVST.ID b) [MOT_ADVST.ADV, MOT_ADVST.ID] :=
    ⟨hv.1, State.only_trans (State.only_mono hv.2.1 (by decide)) (State.only_iff.2 (by simp)),
      State.regsBut_wr (State.regsBut_wr (State.regsBut_of_regs hv.2.2 _) hmem.1 _) hmem.2 _⟩
  have hmean : ∃ (im : Int) (v : State), (if s.mot.iN = 0 then s.takeInt else (tdiv s.mot.iSum s.mot.iN, s)) = (im, v) ∧
      v.mot = s.mot ∧ s.only v [.free] ∧ v.regs = s.regs := by
    split
    · exact ⟨_, _, rfl, rfl, State.only_iff.2 (by simp), rfl⟩
    · exact ⟨_, _, rfl, rfl, State.only_refl _ _, rfl⟩
  obtain ⟨im, v, hpair, hv⟩ := hmean
  unfold State.fieldWeaken
  rw [hpair]
  dsimp only
  split
  · exact hput v hv _ _
  · exact hput v hv _ _

/-- A sector begins at `u`. -/
def State.SectorBegan (s : State) (u : Int) (t : State) : Prop :=
  t.mot.tLast = some u ∧ t.mot.secDur = s.mot.tLast.map (u - ·) ∧ t.mot.demag = true ∧ t.mot.zcTaken = false ∧ t.mot.iN = 0

theorem State.toSector_spec (s : State) (k : Nat) (hk : k < 6) (u : Int) : s.SectorBegan u (s.toSector k u) ∧
    (s.toSector k u).mot.tComm = none ∧ (s.toSector k u).rd MOT_STAT.SECTOR = k ∧
    s.only (s.toSector k u) [.mot, .regs, .free] ∧
    s.regsBut (s.toSector k u) [MOT_STAT.SECTOR, MOT_ADVST.ADV, MOT_ADVST.ID] := by
  obtain ⟨hmot, honly, hbut⟩ := s.fieldWeaken_spec
  have hlast : s.fieldWeaken.mot.tLast = s.mot.tLast := by rw [hmot]
  refine ⟨⟨rfl, congrArg (Option.map _) hlast, rfl, rfl, rfl⟩, rfl, ?_, ?_, ?_⟩
  · exact (State.rd_wr_same s.fieldWeaken MOT_STAT.SECTOR k).trans (Nat.mod_eq_of_lt (hk.trans (by decide)))
  · exact State.only_trans (State.only_mono honly (by decide)) (State.only_iff.2 (by simp [State.toSector]))
  · exact State.regsBut_wr (State.regsBut_mono hbut (by simp)) (f := MOT_STAT.SECTOR) (by simp) k

/-- What of MOT a new sector keeps. -/
theorem State.toSector_kept (s : State) (k : Nat) (u : Int) : (s.toSector k u).mot.missRun = s.mot.missRun ∧
    (s.toSector k u).mot.rampN = s.mot.rampN ∧ (s.toSector k u).mot.lostAt = s.mot.lostAt ∧
    (s.toSector k u).mot.cmd = s.mot.cmd ∧
    (s.toSector k u).mot.zcRun = if s.mot.zcTaken = true then s.mot.zcRun else 0 := by
  obtain ⟨hmot, -, -⟩ := s.fieldWeaken_spec
  have hput : (s.toSector k u).mot = { s.fieldWeaken.mot with
      zcRun := if s.fieldWeaken.mot.zcTaken then s.fieldWeaken.mot.zcRun else 0, zcTaken := false, tComm := none
      revN := s.fieldWeaken.mot.revN + 1, demag := true, secDur := s.fieldWeaken.mot.tLast.map (u - ·), tLast := some u
      iSum := 0, iN := 0 } := rfl
  rw [hput, hmot]
  exact ⟨rfl, rfl, rfl, rfl, rfl⟩

/-- The sector after the running one. -/
def State.nextK (s : State) : Nat := (s.rd MOT_STAT.SECTOR + (if s.mot.fwd = true then 1 else 5)) % 6

theorem State.nextK_lt (s : State) : s.nextK < 6 := Nat.mod_lt _ (by decide)

theorem State.nextSector_eq (s : State) (u : Int) : s.nextSector u = s.toSector s.nextK u := by
  unfold State.nextSector State.nextK
  dsimp only
  split <;> rfl

theorem State.gearSector_lt (s : State) : s.gearSector < 6 := by
  unfold State.gearSector
  generalize s.thetaEnc - s.gearOffset = x
  omega

/-! ### Commutation -/

/-- A sector began at `u` and nothing but it. -/
def State.Moves (s : State) (u : Int) (t : State) : Prop :=
  s.SectorBegan u t ∧ t.mot.tComm = none ∧ s.only t [.mot, .regs, .free] ∧
    s.regsBut t [MOT_STAT.SECTOR, MOT_ADVST.ADV, MOT_ADVST.ID]

theorem State.toSector_moves (s : State) (k : Nat) (hk : k < 6) (u : Int) :
    (s.toSector k u).rd MOT_STAT.SECTOR = k ∧ s.Moves u (s.toSector k u) := by
  obtain ⟨hbegan, hcomm, hsector, honly, hbut⟩ := s.toSector_spec k hk u
  exact ⟨hsector, hbegan, hcomm, honly, hbut⟩

theorem State.nextSector_moves (s : State) (u : Int) :
    (s.nextSector u).rd MOT_STAT.SECTOR = s.nextK ∧ s.Moves u (s.nextSector u) := by
  rw [s.nextSector_eq]
  exact s.toSector_moves _ s.nextK_lt u

theorem exec_commutation_emf (u : Nat) (hemf : s.byEmf = true) : exec (.commutation u) s =
    match s.mot.tComm with
    | some e => .next (if e ≤ s.endNs then s.nextSector e else s)
    | none => .next s := if_pos hemf

theorem commutation_emf (u : Nat) (hemf : s.byEmf = true) :
    (∀ e : Int, s.mot.tComm = some e →
      (e ≤ s.endNs → s.ends (.commutation u) (fun t => t.rd MOT_STAT.SECTOR = s.nextK ∧ s.Moves e t)) ∧
      (s.endNs < e → exec (.commutation u) s = .next s)) ∧
    (s.mot.tComm = none → exec (.commutation u) s = .next s) := by
  refine ⟨fun e he => ?_, fun hnone => ?_⟩
  · have hexec : exec (.commutation u) s = .next (if e ≤ s.endNs then s.nextSector e else s) := by
      rw [exec_commutation_emf u hemf, he]
    refine ⟨fun hdue => ⟨_, hexec.trans (by rw [if_pos hdue]), s.nextSector_moves e⟩, fun hearly => ?_⟩
    rw [hexec, if_neg (not_le.2 hearly)]
  · rw [exec_commutation_emf u hemf, hnone]

theorem commutation_geared (u : Nat) (hemf : s.byEmf = false) (hstate : s.rd MOT_STAT.STATE = 3) :
    s.ends (.commutation u) (fun t => t.rd MOT_STAT.SECTOR = s.gearSector ∧ s.Moves u t) := by
  have hexec : exec (.commutation u) s = .next (s.toSector s.gearSector u) := by
    show execCommutation u s = _
    unfold execCommutation
    rw [if_neg (by simp [hemf]), if_pos hstate]
  exact ⟨_, hexec, s.toSector_moves _ s.gearSector_lt u⟩

theorem exec_commutation_start (u : Nat) (hemf : s.byEmf = false) (hstate : s.rd MOT_STAT.STATE ≠ 3)
    (hsees : s.seesEmf = true) : exec (.commutation u) s =
    if s.rb MOT_CFG.CLASS then
      match s.rampStep (s.mot.rampN + 1) with
      | some e => .next (if e ≤ s.endNs then
          ({ s with mot := { s.mot with rampN := s.mot.rampN + 1 } } : State).nextSector e else s)
      | none => .next s
    else .next (s.nextSector u) := by
  show execCommutation u s = _
  unfold execCommutation
  exact (if_neg (by simp [hemf])).trans ((if_neg hstate).trans ((if_neg (by simp [hsees])).trans rfl))

theorem commutation_start (u : Nat) (hemf : s.byEmf = false) (hstate : s.rd MOT_STAT.STATE ≠ 3) (hsees : s.seesEmf = true) :
    (s.rb MOT_CFG.CLASS = false → s.ends (.commutation u) (fun t => t.rd MOT_STAT.SECTOR = s.nextK ∧ s.Moves u t)) ∧
    (s.rb MOT_CFG.CLASS = true → (∀ e : Int, s.rampStep (s.mot.rampN + 1) = some e →
        (e ≤ s.endNs → s.ends (.commutation u) (fun t => t.rd MOT_STAT.SECTOR = s.nextK ∧ s.Moves e t ∧
          t.mot.rampN = s.mot.rampN + 1)) ∧
        (s.endNs < e → exec (.commutation u) s = .next s)) ∧
      (s.rampStep (s.mot.rampN + 1) = none → exec (.commutation u) s = .next s)) := by
  have hexec := exec_commutation_start u hemf hstate hsees
  refine ⟨fun hclass => ?_, fun hclass => ⟨fun e he => ⟨fun hdue => ?_, fun hearly => ?_⟩, fun hnone => ?_⟩⟩
  · rw [if_neg (by simp [hclass])] at hexec
    exact ⟨_, hexec, s.nextSector_moves u⟩
  · rw [if_pos hclass, he] at hexec
    obtain ⟨hsector, hbegan, hcomm, honly, hbut⟩ := State.nextSector_moves
      ({ s with mot := { s.mot with rampN := s.mot.rampN + 1 } } : State) e
    refine ⟨_, hexec.trans (congrArg Host.Outcome.next (if_pos hdue)), hsector, ⟨hbegan, hcomm,
      State.only_trans (State.only_iff.2 (by simp)) honly, hbut⟩, ?_⟩
    rw [State.nextSector_eq, (State.toSector_kept _ _ _).2.1]
  · rw [if_pos hclass, he] at hexec
    exact hexec.trans (congrArg Host.Outcome.next (if_neg (not_le.2 hearly)))
  · rw [if_pos hclass, hnone] at hexec
    exact hexec

theorem commutation_not (u : Nat) (hemf : s.byEmf = false) (hsees : s.seesEmf = false) : exec (.commutation u) s = .next s := by
  have hstate : s.rd MOT_STAT.STATE ≠ 3 := fun h => by simp [State.seesEmf, h] at hsees
  show execCommutation u s = _
  unfold execCommutation
  rw [if_neg (by simp [hemf]), if_neg hstate, if_pos (by simp [hsees])]

/-! ### A missed crossing -/

/-- A crossing is missed. -/
def State.missNoted (s : State) : State :=
  ({ s with mot := { s.mot with
    tzc := (match s.mot.tzc, s.mot.tS with | some a, some t => some (a + t) | x, _ => x), tzc1 := s.mot.tzc
    tzc2 := s.mot.tzc1, missRun := s.mot.missRun + 1, zcRun := 0 } } : State).incSat MOT_PCNT.MISS

theorem State.miss_spec (s : State) (e : Int) : s.SectorBegan e (s.miss e) ∧ (s.miss e).rd MOT_STAT.SECTOR = s.nextK ∧
    (s.miss e).mot.missRun = s.mot.missRun + 1 ∧ (s.miss e).mot.zcRun = 0 ∧ (s.miss e).mot.lostAt = s.mot.lostAt ∧
    (s.miss e).mot.cmd = s.mot.cmd ∧ (s.miss e).rd MOT_PCNT.MISS = satU MOT_PCNT.MISS.w (s.rd MOT_PCNT.MISS + 1) ∧
    s.only (s.miss e) [.mot, .regs, .free] ∧
    s.regsBut (s.miss e) [MOT_STAT.SECTOR, MOT_PCNT.MISS, MOT_ADVST.ADV, MOT_ADVST.ID] := by
  have hmiss : s.miss e = s.missNoted.nextSector e := rfl
  have hsame : s.missNoted.nextK = s.nextK := by
    unfold State.nextK
    rw [show s.missNoted.rd MOT_STAT.SECTOR = s.rd MOT_STAT.SECTOR from State.rd_wr_other (f := MOT_PCNT.MISS) _ _ (by decide)]
    rfl
  have hcount : s.missNoted.rd MOT_PCNT.MISS = satU MOT_PCNT.MISS.w (s.rd MOT_PCNT.MISS + 1) := by
    refine (State.rd_wr_same _ MOT_PCNT.MISS _).trans (Nat.mod_eq_of_lt ?_)
    unfold satU
    have hpos : 0 < 2 ^ MOT_PCNT.MISS.w := by positivity
    omega
  have hbut : s.regsBut s.missNoted [MOT_STAT.SECTOR, MOT_PCNT.MISS, MOT_ADVST.ADV, MOT_ADVST.ID] :=
    State.regsBut_wr (fun _ _ => rfl) (f := MOT_PCNT.MISS) (by simp) _
  obtain ⟨hsector, hbegan, -, honly, hrest⟩ := s.missNoted.nextSector_moves e
  obtain ⟨hrun, -, hlost, hcmd, hzc⟩ := s.missNoted.toSector_kept s.missNoted.nextK e
  rw [← State.nextSector_eq] at hrun hlost hcmd hzc
  rw [hmiss]
  refine ⟨hbegan, hsector.trans hsame, hrun, ?_, hlost, hcmd, (hrest _ (by decide)).trans hcount,
    State.only_trans (State.only_iff.2 (by simp [State.missNoted])) honly,
    State.regsBut_trans hbut (State.regsBut_mono hrest (by simp))⟩
  rw [hzc]
  exact ite_self 0

theorem exec_zcMiss (hemf : s.byEmf = true) (hnew : s.mot.zcTaken = false) (hover : ∀ e : Int, s.zcEnd = some e → e ≤ s.endNs) :
    exec .zcMiss s = .next (
      if ((s.orFree s.zcEnd).2.miss (s.orFree s.zcEnd).1).rd MOT_STAT.STATE = 2 ∧
        3 ≤ ((s.orFree s.zcEnd).2.miss (s.orFree s.zcEnd).1).mot.missRun then
        ((s.orFree s.zcEnd).2.miss (s.orFree s.zcEnd).1).syncLoss
      else (s.orFree s.zcEnd).2.miss (s.orFree s.zcEnd).1) := by
  have hall : s.zcEnd.all (fun e => decide (e ≤ s.endNs)) = true := Option.all_decide_iff.2 hover
  show execZcMiss s = _
  unfold execZcMiss
  rw [if_pos (by simp [hemf, hnew, hall])]

theorem zcMiss_not {e : Int} (he : s.zcEnd = some e) (hearly : s.endNs < e) : exec .zcMiss s = .next s := by
  show execZcMiss s = _
  unfold execZcMiss
  rw [if_neg (by simp [he, hearly])]

/-- What a missed crossing leaves, its window's end a free value where there is none. -/
theorem State.missed_spec (s : State) : ∃ v : State, (s.orFree s.zcEnd).2.miss (s.orFree s.zcEnd).1 = v ∧
    (v.rd MOT_STAT.SECTOR = s.nextK ∧ v.mot.missRun = s.mot.missRun + 1 ∧ v.mot.zcRun = 0 ∧
      v.rd MOT_PCNT.MISS = satU MOT_PCNT.MISS.w (s.rd MOT_PCNT.MISS + 1) ∧
      (∀ e : Int, s.zcEnd = some e → s.SectorBegan e v) ∧ s.only v [.mot, .regs, .free] ∧
      s.regsBut v [MOT_STAT.SECTOR, MOT_PCNT.MISS, MOT_ADVST.ADV, MOT_ADVST.ID]) ∧
    v.mot.lostAt = s.mot.lostAt ∧ v.mot.cmd = s.mot.cmd := by
  cases hend : s.zcEnd with
  | some e =>
    obtain ⟨hbegan, hsector, hrun, hzc, hlost, hcmd, hcount, honly, hbut⟩ := s.miss_spec e
    exact ⟨_, rfl, ⟨hsector, hrun, hzc, hcount, fun x hx => Option.some.inj hx ▸ hbegan, honly, hbut⟩, hlost, hcmd⟩
  | none =>
    obtain ⟨-, hsector, hrun, hzc, hlost, hcmd, hcount, honly, hbut⟩ := s.takeInt.2.miss_spec s.takeInt.1
    exact ⟨_, rfl, ⟨hsector, hrun, hzc, hcount, nofun, State.only_trans (State.only_iff.2 (by simp [State.takeInt])) honly,
      hbut⟩, hlost, hcmd⟩

theorem zcMiss_counts (hemf : s.byEmf = true) (hnew : s.mot.zcTaken = false)
    (hover : ∀ e : Int, s.zcEnd = some e → e ≤ s.endNs) (hfew : s.mot.missRun < 2 ∨ s.rd MOT_STAT.STATE ≠ 2) :
    s.ends .zcMiss (fun t => t.rd MOT_STAT.SECTOR = s.nextK ∧ t.mot.missRun = s.mot.missRun + 1 ∧ t.mot.zcRun = 0 ∧
      t.rd MOT_PCNT.MISS = satU MOT_PCNT.MISS.w (s.rd MOT_PCNT.MISS + 1) ∧
      (∀ e : Int, s.zcEnd = some e → s.SectorBegan e t) ∧ s.only t [.mot, .regs, .free] ∧
      s.regsBut t [MOT_STAT.SECTOR, MOT_PCNT.MISS, MOT_ADVST.ADV, MOT_ADVST.ID]) := by
  obtain ⟨v, hv, hspec, -, -⟩ := s.missed_spec
  have hexec := exec_zcMiss hemf hnew hover
  obtain ⟨-, hrun, -, -, -, -, hbut⟩ := id hspec
  rw [hv, if_neg (fun h => ?_)] at hexec
  · exact ⟨_, hexec, hspec⟩
  · rw [hbut _ (by decide), hrun] at h
    omega

/-- A loss of sync is noted. -/
def State.lossNoted (s : State) : State :=
  let u := (s.incSat MOT_PCNT.SYNC_LOSS).motOffsetsOff
  { u with mot := { u.mot with lostAt := some s.clk, missRun := 0, zcRun := 0 } }

/-- It goes on to a recovery. -/
def State.recovers (s : State) : State :=
  ({ s.lossNoted with mot := { s.lossNoted.mot with
    gatesOff := true, duty := 0, iInt := 0, sInt := 0, iCmd := 0, start := .none } } : State).wr MOT_STAT.STATE 4

/-- Another loss of sync lies less than a second back. -/
def State.lostSoon (s : State) : Bool :=
  match s.mot.lostAt with | some t => decide (s.clk < t + s.msT 1000) | none => false

theorem State.syncLoss_eq (s : State) : s.syncLoss =
    if s.lostSoon then (s.lossNoted.motRaise 25).motFail rFAULT dSYNC
    else if decide (s.lossNoted.rd MOT_FW.N_FW < (s.lossNoted.rdS MOT_SPEED.N).natAbs) then s.recovers.activeShort
    else s.recovers := rfl

theorem State.syncLoss_first (h : ∀ b : Nat, s.mot.lostAt = some b → b + s.msT 1000 ≤ s.clk) :
    s.syncLoss = s.recovers ∨ s.syncLoss = s.recovers.wr MOT_STAT.ASHORT 1 := by
  have hagain : s.lostSoon = false := by
    unfold State.lostSoon
    cases hlost : s.mot.lostAt with
    | none => rfl
    | some b => simpa using h b hlost
  rw [s.syncLoss_eq, hagain, if_neg (by decide)]
  unfold State.activeShort
  split
  · split
    · exact .inr rfl
    · exact .inl rfl
  · exact .inl rfl

theorem State.syncLoss_again {b : Nat} (hlost : s.mot.lostAt = some b) (hsoon : s.clk < b + s.msT 1000) :
    s.syncLoss = (s.lossNoted.motRaise 25).motFail rFAULT dSYNC := by
  have hagain : s.lostSoon = true := by
    unfold State.lostSoon
    rw [hlost]
    exact decide_eq_true hsoon
  rw [s.syncLoss_eq, if_pos hagain]

theorem zcMiss_recovers (hemf : s.byEmf = true) (hnew : s.mot.zcTaken = false)
    (hover : ∀ e : Int, s.zcEnd = some e → e ≤ s.endNs) (hstate : s.rd MOT_STAT.STATE = 2) (hmany : 2 ≤ s.mot.missRun)
    (hfirst : ∀ b : Nat, s.mot.lostAt = some b → b + s.msT 1000 ≤ s.clk) :
    s.ends .zcMiss (fun t => t.rd MOT_STAT.STATE = 4 ∧ t.mot.gatesOff = true ∧ t.mot.lostAt = some s.clk ∧ t.mot.ofsP = [] ∧
      t.mot.ofsN = [] ∧ t.rd MOT_PCNT.SYNC_LOSS = satU MOT_PCNT.SYNC_LOSS.w (s.rd MOT_PCNT.SYNC_LOSS + 1) ∧
      t.mot.cmd = s.mot.cmd ∧ s.only t [.mot, .regs, .free]) := by
  obtain ⟨v, hv, ⟨-, hrun, -, -, -, honly, hbut⟩, hlost, hcmd⟩ := s.missed_spec
  have hexec := exec_zcMiss hemf hnew hover
  have hsys : v.sys = s.sys := honly.2 .sys (by decide)
  have hclk : v.clk = s.clk := by
    unfold State.clk
    rw [hsys]
  have hms : v.msT 1000 = s.msT 1000 := congrArg (msTicks · 1000) (hbut SYS_TICKSTAT.INFORCE (by decide))
  have hloss : v.rd MOT_PCNT.SYNC_LOSS = s.rd MOT_PCNT.SYNC_LOSS := hbut _ (by decide)
  rw [hv, if_pos ⟨(hbut _ (by decide)).trans hstate, by omega⟩] at hexec
  have hrec : v.recovers.rd MOT_PCNT.SYNC_LOSS = satU MOT_PCNT.SYNC_LOSS.w (s.rd MOT_PCNT.SYNC_LOSS + 1) := by
    refine (State.rd_wr_other _ _ (by decide)).trans ((State.rd_wr_same v MOT_PCNT.SYNC_LOSS _).trans ?_)
    rw [hloss]
    refine Nat.mod_eq_of_lt ?_
    unfold satU
    have hpos : 0 < 2 ^ MOT_PCNT.SYNC_LOSS.w := by positivity
    omega
  have hrecOnly : s.only v.recovers [.mot, .regs, .free] :=
    State.only_trans honly (State.only_iff.2 (by simp [State.recovers, State.lossNoted, State.motOffsetsOff]))
  have hst : v.recovers.rd MOT_STAT.STATE = 4 := State.rd_wr_same _ _ _
  rcases State.syncLoss_first (s := v) (by rw [hlost, hms, hclk]; exact hfirst) with h | h
  · rw [h] at hexec
    exact ⟨_, hexec, hst, rfl, congrArg some hclk, rfl, rfl, hrec, hcmd, hrecOnly⟩
  · rw [h] at hexec
    exact ⟨_, hexec, (State.rd_wr_other _ 1 (by decide)).trans hst, rfl, congrArg some hclk, rfl, rfl,
      (State.rd_wr_other _ 1 (by decide)).trans hrec, hcmd, State.wr_only hrecOnly _ _ (by decide)⟩

theorem zcMiss_halts (hemf : s.byEmf = true) (hnew : s.mot.zcTaken = false)
    (hover : ∀ e : Int, s.zcEnd = some e → e ≤ s.endNs) (hstate : s.rd MOT_STAT.STATE = 2) (hmany : 2 ≤ s.mot.missRun)
    {b : Nat} (hb : s.mot.lostAt = some b) (hsoon : s.clk < b + s.msT 1000) (hq : s.quiet 25) :
    s.ends .zcMiss (fun t => t.mot.cmd = none ∧ t.rd MOT_STAT.STATE = 5 ∧ t.mot.gatesOff = true ∧ t.active 25 = true) := by
  obtain ⟨v, hv, ⟨-, hrun, -, -, -, honly, hbut⟩, hlost, -⟩ := s.missed_spec
  have hexec := exec_zcMiss hemf hnew hover
  have hsys : v.sys = s.sys := honly.2 .sys (by decide)
  rw [hv, if_pos ⟨(hbut _ (by decide)).trans hstate, by omega⟩] at hexec
  have hms : v.msT 1000 = s.msT 1000 := congrArg (msTicks · 1000) (hbut SYS_TICKSTAT.INFORCE (by decide))
  have hloss := State.syncLoss_again (s := v) (hlost.trans hb) (by
    rw [hms]
    unfold State.clk at hsoon ⊢
    rw [hsys]
    exact hsoon)
  have hqw : v.lossNoted.quiet 25 := by
    unfold State.quiet State.src at hq ⊢
    rw [show v.lossNoted.flt = s.flt from honly.2 .flt (by decide)]
    exact hq
  rw [hloss] at hexec
  exact ⟨_, hexec, State.motRaise_fails hqw (by decide) _ _⟩

end

end Sys2Proof.Machine
end


section
/-!
SUPPORT. The starts of the motor and the check of the gear (R571 to R579, R589).
-/

namespace Sys2Proof.Machine

section
variable {s : State}

/-! ### The check before a start -/

theorem exec_startCheckEnd (obs : Rotation) (hstate : s.rd MOT_STAT.STATE = 1) (hstart : s.mot.start = .check)
    (hsince : s.since (some s.mot.startT) (s.rd MOT_START.T_CHK) = true) : exec (.startCheckEnd obs) s =
    match obs with
    | .none => .next s.normalStart
    | .seen forward sector rpm =>
      if !s.rb MOT_CFG.CLASS then .next (s.motFail rFAULT dSPIN)
      else if rpm ≤ s.rd MOT_CATCH.CATCH_MIN then .next s.normalStart
      else if forward then .next (({ s with mot := { s.mot with fwd := true } } : State).springbok sector.val)
      else .next ({ s with mot := { s.mot with start := .brake, startT := s.clk } } : State).activeShort := by
  show execStartCheckEnd obs s = _
  unfold execStartCheckEnd
  exact (if_neg (by simp [hstate, hstart, hsince])).trans rfl

/-- The tick in which a normal start sets out. -/
def State.startSet (s : State) : State :=
  { s with mot := { s.mot with gatesOff := !s.motMayGate, startT := s.clk, iCmd := 0, tComm := none } }

/-- A start that aligns. -/
def State.aligns (s : State) : State :=
  ({ s.startSet with mot := { s.startSet.mot with start := .align } } : State).wr MOT_STAT.SECTOR 0

theorem State.normalStart_eq (s : State) : s.normalStart =
    if s.ofsValid then (({ s.startSet with mot := { s.startSet.mot with start := .none } } : State).wr MOT_STAT.STATE 3).motGo
    else if s.aligns.rb MOT_CFG.CLASS then { s.aligns with mot := { s.aligns.mot with iCmd := s.aligns.rd MOT_ILIM.ALIGN_I } }
    else { s.aligns with mot := { s.aligns.mot with duty := s.aligns.dutyTop } } := rfl

theorem State.aligns_rd (s : State) {f : Fld} (hf : MOT_STAT.SECTOR.key ≠ f.key) : s.aligns.rd f = s.rd f :=
  State.rd_wr_other _ _ hf

theorem State.aligns_dutyTop (s : State) : s.aligns.dutyTop = s.dutyTop := by
  unfold State.dutyTop State.tickNs State.per
  rw [s.aligns_rd (by decide), s.aligns_rd (by decide), s.aligns_rd (by decide)]

theorem startCheckEnd_aligns (hstate : s.rd MOT_STAT.STATE = 1) (hstart : s.mot.start = .check)
    (hsince : s.since (some s.mot.startT) (s.rd MOT_START.T_CHK) = true) (hofs : s.ofsValid = false) :
    s.ends (.startCheckEnd .none) (fun t => t.mot.start = .align ∧ t.mot.gatesOff = !s.motMayGate ∧
      t.mot.startT = s.clk ∧ t.rd MOT_STAT.SECTOR = 0 ∧ s.only t [.mot, .regs] ∧
      (if s.rb MOT_CFG.CLASS = true then t.mot.iCmd = s.rd MOT_ILIM.ALIGN_I else t.mot.duty = s.dutyTop)) := by
  have hexec := exec_startCheckEnd .none hstate hstart hsince
  have hclass : s.aligns.rb MOT_CFG.CLASS = s.rb MOT_CFG.CLASS := State.rb_of_rd (s.aligns_rd (by decide))
  have hsector : s.aligns.rd MOT_STAT.SECTOR = 0 := State.rd_wr_same _ _ _
  have honly : s.only s.aligns [.mot, .regs] := State.only_iff.2 (by simp [State.aligns, State.startSet])
  dsimp only at hexec
  rw [s.normalStart_eq, if_neg (by simp [hofs]), hclass] at hexec
  refine ⟨_, hexec, ?_⟩
  split
  · exact ⟨rfl, rfl, rfl, hsector, State.only_trans honly (State.only_iff.2 (by simp)), congrArg Int.ofNat (s.aligns_rd (by decide))⟩
  · exact ⟨rfl, rfl, rfl, hsector, State.only_trans honly (State.only_iff.2 (by simp)), s.aligns_dutyTop⟩

theorem startCheckEnd_geared (hstate : s.rd MOT_STAT.STATE = 1) (hstart : s.mot.start = .check)
    (hsince : s.since (some s.mot.startT) (s.rd MOT_START.T_CHK) = true) (hofs : s.ofsValid = true) :
    s.ends (.startCheckEnd .none) (fun t => t.mot.start = .none ∧ t.rd MOT_STAT.STATE = 3 ∧ s.only t [.mot, .regs]) := by
  have hexec := exec_startCheckEnd .none hstate hstart hsince
  dsimp only at hexec
  rw [s.normalStart_eq, if_pos hofs] at hexec
  exact ⟨_, hexec, rfl, State.rd_wr_same s.startSet MOT_STAT.STATE 3,
    State.only_iff.2 (by simp [State.startSet, State.motGo, State.updCmd, State.profileHere])⟩

/-- The Springbok start of a sector. -/
theorem State.springbok_spec (s : State) (k : Fin 6) : (s.springbok k.val).mot.start = .springbok ∧
    (s.springbok k.val).rd MOT_STAT.SECTOR = k.val ∧ (s.springbok k.val).mot.fwd = s.mot.fwd ∧
    (s.springbok k.val).mot.gatesOff = !s.motMayGate ∧ s.only (s.springbok k.val) [.mot, .regs, .free] ∧
    s.regsBut (s.springbok k.val) [MOT_STAT.SECTOR] :=
  ⟨rfl, (State.rd_wr_same _ MOT_STAT.SECTOR _).trans (Nat.mod_eq_of_lt (k.isLt.trans (by decide))), rfl, rfl,
    State.only_iff.2 (by simp [State.springbok, State.takeNat]),
    State.regsBut_wr (fun _ _ => rfl) (f := MOT_STAT.SECTOR) (by simp) _⟩

theorem startCheckEnd_seen (hstate : s.rd MOT_STAT.STATE = 1) (hstart : s.mot.start = .check)
    (hsince : s.since (some s.mot.startT) (s.rd MOT_START.T_CHK) = true) (f : Bool) (k : Fin 6) (n : Nat) :
    (s.rb MOT_CFG.CLASS = false → s.ends (.startCheckEnd (.seen f k n)) (fun t => t.mot.cmd = none ∧
      t.rd MOT_STAT.STATE = 5 ∧ t.mot.gatesOff = true)) ∧
    (s.rb MOT_CFG.CLASS = true → n ≤ s.rd MOT_CATCH.CATCH_MIN →
      exec (.startCheckEnd (.seen f k n)) s = exec (.startCheckEnd .none) s) ∧
    (s.rb MOT_CFG.CLASS = true → s.rd MOT_CATCH.CATCH_MIN < n →
      s.ends (.startCheckEnd (.seen f k n)) (fun t => s.only t [.mot, .regs, .free] ∧
        if f then t.mot.start = .springbok ∧ t.rd MOT_STAT.SECTOR = k.val ∧ t.mot.fwd = true else t.mot.start = .brake)) := by
  have hexec := exec_startCheckEnd (.seen f k n) hstate hstart hsince
  dsimp only at hexec
  refine ⟨fun hclass => ?_, fun hclass hslow => ?_, fun hclass hfast => ?_⟩
  · rw [if_pos (by simp [hclass])] at hexec
    obtain ⟨hcmd, -, hst, hoff⟩ := s.motFail_halts rFAULT dSPIN
    exact ⟨_, hexec, hcmd, hst, hoff⟩
  · rw [if_neg (by simp [hclass]), if_pos hslow] at hexec
    exact hexec.trans (exec_startCheckEnd .none hstate hstart hsince).symm
  · rw [if_neg (by simp [hclass]), if_neg (by omega)] at hexec
    cases f with
    | true =>
      obtain ⟨hst, hsector, hfwd, -, honly, -⟩ := State.springbok_spec ({ s with mot := { s.mot with fwd := true } } : State) k
      exact ⟨_, hexec, State.only_trans (State.only_iff.2 (by simp)) honly, hst, hsector, hfwd⟩
    | false =>
      refine ⟨_, hexec, ?_⟩
      unfold State.activeShort
      split
      · exact ⟨State.only_iff.2 (by simp), rfl⟩
      · exact ⟨State.only_iff.2 (by simp), rfl⟩

theorem activeShortEnd_ends (hstart : s.mot.start = .brake) (hsince : s.since (some s.mot.startT) 10 = true) :
    s.ends .activeShortEnd (fun t => t.mot.start = .check ∧ t.mot.startT = s.clk ∧ t.rd MOT_STAT.ASHORT = 0 ∧
      s.only t [.mot, .regs] ∧ s.regsBut t [MOT_STAT.ASHORT]) := by
  have hexec : exec .activeShortEnd s = .next (({ s with mot := { s.mot with start := .check, startT := s.clk } } : State).wr
      MOT_STAT.ASHORT 0) := by
    show execActiveShortEnd s = _
    unfold execActiveShortEnd
    rw [if_pos ⟨hstart, hsince⟩]
  exact ⟨_, hexec, rfl, rfl, State.rd_wr_same _ _ _, State.only_iff.2 (by simp),
    State.regsBut_wr (fun _ _ => rfl) (f := MOT_STAT.ASHORT) (by simp) 0⟩

/-! ### The end of the alignment -/

/-- The step of a search for the fastest of fractions. -/
def fasterOf (b e : (Nat × Nat) × Nat) : (Nat × Nat) × Nat := if b.1.1 * e.1.2 < e.1.1 * b.1.2 then e else b

/-- The order of fractions with positive denominators is transitive. -/
theorem fraction_le_trans {a b c d e f : Nat} (hd : 0 < d) (h : a * d ≤ c * b) (k : c * f ≤ e * d) : a * f ≤ e * b := by
  refine Nat.le_of_mul_le_mul_right ?_ hd
  calc a * f * d = a * d * f := by ring
    _ ≤ c * b * f := Nat.mul_le_mul_right f h
    _ = c * f * b := by ring
    _ ≤ e * d * b := Nat.mul_le_mul_right b k
    _ = e * b * d := by ring

theorem fasterOf_spec {P : (Nat × Nat) × Nat → Prop} (l : List ((Nat × Nat) × Nat)) (hl : ∀ e ∈ l, 0 < e.1.2 ∧ P e)
    (b : (Nat × Nat) × Nat) (hb : 0 < b.1.2 ∧ P b) : P (l.foldl fasterOf b) ∧
    b.1.1 * (l.foldl fasterOf b).1.2 ≤ (l.foldl fasterOf b).1.1 * b.1.2 ∧
    ∀ e ∈ l, e.1.1 * (l.foldl fasterOf b).1.2 ≤ (l.foldl fasterOf b).1.1 * e.1.2 := by
  induction l generalizing b with
  | nil => exact ⟨hb.2, le_refl _, nofun⟩
  | cons e l ih =>
    have he := hl e List.mem_cons_self
    have hstep : (0 < (fasterOf b e).1.2 ∧ P (fasterOf b e)) ∧ b.1.1 * (fasterOf b e).1.2 ≤ (fasterOf b e).1.1 * b.1.2 ∧
        e.1.1 * (fasterOf b e).1.2 ≤ (fasterOf b e).1.1 * e.1.2 := by
      unfold fasterOf
      split
      next hlt => exact ⟨he, le_of_lt hlt, le_refl _⟩
      next hge => exact ⟨hb, le_refl _, not_lt.1 hge⟩
    obtain ⟨hpos, hbf, hef⟩ := hstep
    obtain ⟨hP, hfirst, hrest⟩ := ih (fun x hx => hl x (List.mem_cons_of_mem e hx)) (fasterOf b e) hpos
    refine ⟨hP, fraction_le_trans hpos.1 hbf hfirst, fun x hx => ?_⟩
    rcases List.mem_cons.1 hx with rfl | hx
    · exact fraction_le_trans hpos.1 hef hfirst
    · exact hrest x hx

theorem State.pulseEnd_pos (s : State) (x : PulseIn) : 0 < (s.pulseEnd x).2 := by
  unfold State.pulseEnd
  split
  · split
    · exact Nat.lt_of_lt_of_le Nat.zero_lt_one (le_max_left _ _)
    · exact Nat.zero_lt_of_lt (by decide : 0 < 200000)
  · exact Nat.zero_lt_of_lt (by decide : 0 < 200000)

/-- The sector taken is one of the six and its current rises fastest. -/
theorem State.fastest_spec (s : State) (xs : Vector PulseIn 6) : s.fastest xs < 6 ∧
    ∀ k : Fin 6, (s.pulseEnd (bget xs k)).1 * (s.pulseEnd (bget xs (Fin.ofNat 6 (s.fastest xs)))).2 ≤
      (s.pulseEnd (bget xs (Fin.ofNat 6 (s.fastest xs)))).1 * (s.pulseEnd (bget xs k)).2 := by
  have hget (k : Fin 6) : (xs.toList.map s.pulseEnd)[k.val]? = some (s.pulseEnd (bget xs k)) := by
    unfold bget
    simp
  let P : (Nat × Nat) × Nat → Prop := fun e => e.2 < 6 ∧ e.1 = s.pulseEnd (bget xs (Fin.ofNat 6 e.2))
  have hlen : (xs.toList.map s.pulseEnd).length = 6 := by simp
  have hmem : ∀ e ∈ (xs.toList.map s.pulseEnd).zipIdx, 0 < e.1.2 ∧ P e := by
    intro e he
    have hat := List.mem_zipIdx_iff_getElem?.1 he
    have hlt : e.2 < 6 := by
      rw [← hlen]
      exact (List.getElem?_eq_some_iff.1 hat).1
    have hval : e.1 = s.pulseEnd (bget xs (Fin.ofNat 6 e.2)) := by
      have h := hget ⟨e.2, hlt⟩
      rw [hat] at h
      rw [Option.some.inj h]
      congr 3
      exact (Nat.mod_eq_of_lt hlt).symm
    exact ⟨by rw [hval]; exact s.pulseEnd_pos _, hlt, hval⟩
  have hhead : (xs.toList.map s.pulseEnd).headD (0, 1) = s.pulseEnd (bget xs 0) := by
    have h := hget 0
    rw [List.headD_eq_head?_getD, List.head?_eq_getElem?]
    rw [show (xs.toList.map s.pulseEnd)[0]? = some (s.pulseEnd (bget xs 0)) from h]
    rfl
  obtain ⟨⟨hlt, hval⟩, -, hmax⟩ := fasterOf_spec (P := P) _ hmem ((xs.toList.map s.pulseEnd).headD (0, 1), 0)
    ⟨by rw [hhead]; exact s.pulseEnd_pos _, Nat.zero_lt_succ 5, hhead⟩
  refine ⟨hlt, fun k => ?_⟩
  have hk : ((s.pulseEnd (bget xs k)), k.val) ∈ (xs.toList.map s.pulseEnd).zipIdx := List.mem_zipIdx_iff_getElem?.2 (hget k)
  have hle := hmax _ hk
  rw [hval] at hle
  exact hle

/-- The motor accelerates from its aligned sector. -/
def State.ramps (s : State) : State :=
  let u := s.turnsAs s.motAim
  { u with mot := { u.mot with
    start := .ramp, startT := u.clk, zcRun := 0, zcTaken := false, missRun := 0, demag := false, tLast := none
    secDur := none, iSum := 0, iN := 0, rampAt := ((2 * u.sys.cyc : Nat) : Int), rampN := 0 } }

theorem State.turnsAs_only (s : State) (v : Int) : s.only (s.turnsAs v) [.mot] := by
  unfold State.turnsAs
  split
  · exact State.only_refl _ _
  · exact State.only_iff.2 (by simp)

theorem State.ramps_spec (s : State) : s.ramps.mot.start = .ramp ∧ s.ramps.mot.startT = s.clk ∧ s.ramps.mot.zcRun = 0 ∧
    s.ramps.mot.rampN = 0 ∧ s.only s.ramps [.mot] := by
  have hturn := s.turnsAs_only s.motAim
  refine ⟨rfl, ?_, rfl, rfl, State.only_trans hturn (State.only_iff.2 (by simp [State.ramps]))⟩
  show (s.turnsAs s.motAim).sys.clk = s.sys.clk
  rw [hturn.2 .sys (by decide)]

theorem exec_alignEnd {xs : Vector PulseIn 6} (hstart : s.mot.start = .align)
    (hp2 : s.rb MOT_CFG.CLASS = true → s.since (some s.mot.startT) (10 * s.rd MOT_START.ALIGN_T) = true)
    (hp1 : s.rb MOT_CFG.CLASS = false →
      (xs.toList.map (fun x => (s.pulseEnd x).2)).sum ≤ (s.clk + 1 - s.mot.startT) * s.tickNs) :
    exec (.alignEnd xs) s =
      .next (if s.rb MOT_CFG.CLASS then s.ramps else s.ramps.wr MOT_STAT.SECTOR (s.ramps.fastest xs)) := by
  have hended : (if s.rb MOT_CFG.CLASS = true then s.since (some s.mot.startT) (10 * s.rd MOT_START.ALIGN_T)
      else decide ((xs.toList.map (fun x => (s.pulseEnd x).2)).sum ≤ (s.clk + 1 - s.mot.startT) * s.tickNs)) = true := by
    split
    next hclass => exact hp2 hclass
    next hclass => exact decide_eq_true (hp1 (by simpa using hclass))
  show execAlignEnd xs s = _
  unfold execAlignEnd
  exact if_pos ⟨hstart, hended⟩

theorem alignEnd_ramps (xs : Vector PulseIn 6) (hstart : s.mot.start = .align)
    (hp2 : s.rb MOT_CFG.CLASS = true → s.since (some s.mot.startT) (10 * s.rd MOT_START.ALIGN_T) = true)
    (hp1 : s.rb MOT_CFG.CLASS = false →
      (xs.toList.map (fun x => (s.pulseEnd x).2)).sum ≤ (s.clk + 1 - s.mot.startT) * s.tickNs) :
    s.ends (.alignEnd xs) (fun t => t.mot.start = .ramp ∧ t.mot.startT = s.clk ∧ t.mot.zcRun = 0 ∧ t.mot.rampN = 0 ∧
      (s.rb MOT_CFG.CLASS = true → t.rd MOT_STAT.SECTOR = s.rd MOT_STAT.SECTOR) ∧
      (s.rb MOT_CFG.CLASS = false → t.rd MOT_STAT.SECTOR < 6 ∧ ∀ k : Fin 6, let a := s.pulseEnd (bget xs k)
        let b := s.pulseEnd (bget xs (Fin.ofNat 6 (t.rd MOT_STAT.SECTOR)))
        a.1 * b.2 ≤ b.1 * a.2) ∧ s.only t [.mot, .regs] ∧ s.regsBut t [MOT_STAT.SECTOR]) := by
  obtain ⟨hst, ht, hzc, hn, honly⟩ := s.ramps_spec
  have hregs : s.ramps.regs = s.regs := honly.2 .regs (by decide)
  have hpulse (x : PulseIn) : s.ramps.pulseEnd x = s.pulseEnd x := by
    unfold State.pulseEnd
    rw [show s.ramps.rd MOT_ILIM.ALIGN_I = s.rd MOT_ILIM.ALIGN_I from State.rd_of_regs hregs _]
  have hfast : s.ramps.fastest xs = s.fastest xs := by
    unfold State.fastest
    rw [show s.ramps.pulseEnd = s.pulseEnd from funext hpulse]
  have hexec := exec_alignEnd hstart hp2 hp1
  rw [hfast] at hexec
  refine ⟨_, hexec, ?_⟩
  cases s.rb MOT_CFG.CLASS with
  | true => exact ⟨hst, ht, hzc, hn, fun _ => State.rd_of_regs hregs _, nofun, State.only_mono honly (by decide),
      State.regsBut_of_regs hregs _⟩
  | false =>
    obtain ⟨hlt, hmax⟩ := s.fastest_spec xs
    have hsector : (s.ramps.wr MOT_STAT.SECTOR (s.fastest xs)).rd MOT_STAT.SECTOR = s.fastest xs :=
      (State.rd_wr_same _ _ _).trans (Nat.mod_eq_of_lt (hlt.trans (by decide)))
    refine ⟨hst, ht, hzc, hn, nofun, fun _ => ?_, State.only_trans (State.only_mono honly (by decide))
      (State.only_iff.2 (by simp)), State.regsBut_wr (State.regsBut_of_regs hregs _) (List.mem_singleton_self _) _⟩
    rw [if_neg (by decide), hsector]
    exact ⟨hlt, hmax⟩

/-! ### A catch -/

theorem State.motMayGate_congr {s t : State} (hsaf : t.saf = s.saf) (hpins : t.pins = s.pins) (hcmp : t.cmp = s.cmp)
    (hflt : t.flt = s.flt) (hhalt : t.rd DBG_CTL.HALT_SAF = s.rd DBG_CTL.HALT_SAF) : t.motMayGate = s.motMayGate := by
  unfold State.motMayGate State.menOn State.vdrvOk State.bridgeFault State.active State.src State.cmpAt
  rw [hsaf, hpins, hcmp, hflt, State.rb_of_rd hhalt]

theorem catch_starts (k : Fin 6) (hstate : s.rd MOT_STAT.STATE = 4) (hstart : s.mot.start ≠ .springbok)
    (hslow : (s.rpmOf (s.rdS MOT_ESPD.SPD)).natAbs < s.rd MOT_CATCH.CATCH_MAX) :
    s.ends (.catch_ k) (fun t => t.mot.start = .springbok ∧ t.rd MOT_STAT.SECTOR = k.val ∧ t.rd MOT_STAT.ASHORT = 0 ∧
      t.mot.gatesOff = !s.motMayGate ∧ s.only t [.mot, .regs, .free]) := by
  have hexec : exec (.catch_ k) s =
      .next (((s.wr MOT_STAT.ASHORT 0).turnsAs (s.rdS MOT_ESPD.SPD)).springbok k.val) := by
    show execCatch k s = _
    unfold execCatch
    rw [if_pos ⟨hstate, hstart, hslow⟩]
  have hturn := (s.wr MOT_STAT.ASHORT 0).turnsAs_only (s.rdS MOT_ESPD.SPD)
  have honly : s.only ((s.wr MOT_STAT.ASHORT 0).turnsAs (s.rdS MOT_ESPD.SPD)) [.mot, .regs] :=
    State.only_trans (State.only_iff.2 (by simp)) (State.only_mono hturn (by decide))
  have hrd (f : Fld) : ((s.wr MOT_STAT.ASHORT 0).turnsAs (s.rdS MOT_ESPD.SPD)).rd f = (s.wr MOT_STAT.ASHORT 0).rd f :=
    State.rd_of_regs (hturn.2 .regs (by decide)) f
  rw [State.ends, hexec]
  generalize (s.wr MOT_STAT.ASHORT 0).turnsAs (s.rdS MOT_ESPD.SPD) = v at honly hrd
  obtain ⟨hst, hsector, -, hoff, hall, hbut⟩ := v.springbok_spec k
  refine ⟨_, rfl, hst, hsector, ?_, hoff.trans ?_, State.only_trans (State.only_mono honly (by decide)) hall⟩
  · rw [hbut MOT_STAT.ASHORT (by decide), hrd]
    exact State.rd_wr_same s MOT_STAT.ASHORT 0
  · rw [State.motMayGate_congr (honly.2 .saf (by decide)) (honly.2 .pins (by decide)) (honly.2 .cmp (by decide))
      (honly.2 .flt (by decide)) ((hrd _).trans (State.rd_wr_other s 0 (by decide)))]

/-! ### The gear -/

/-- Over a revolution the encoder has not turned as the gear says. -/
def State.gearBad (s : State) : Bool :=
  let rev : Int := ((s.rd MOT_CPR.CPR * s.rd MOT_GEAR.DEN : Nat) : Int)
  let dir : Int := if s.mot.fwd ≠ s.rb MOT_CFG.DIRINV then 1 else -1
  decide ((s.rd MOT_XCHK.GEAR_TOL : Int) * rev < ((s.mot.ext - s.mot.revExt) * s.rd MOT_GEAR.NUM - dir * rev).natAbs * 100)

/-- A revolution is judged. -/
def State.revJudged (s : State) : State :=
  { s with mot := { s.mot with revN := 0, revExt := s.mot.ext, revBad := if s.gearBad then s.mot.revBad + 1 else 0 } }

theorem exec_gearCheck (hstate : s.rd MOT_STAT.STATE = 2) (hrev : 6 * s.rd MOT_CFG.PP ≤ s.mot.revN) : exec .gearCheck s =
    if s.gearBad then .next (if 4 ≤ s.revJudged.mot.revBad then s.revJudged.motOffsetsOff.motRaise 28 else s.revJudged)
    else .next (s.revJudged.condGone 28 0) := by
  show execGearCheck s = _
  unfold execGearCheck
  rw [if_pos ⟨hstate, hrev⟩]
  rfl

theorem gearCheck_counts (hstate : s.rd MOT_STAT.STATE = 2) (hrev : 6 * s.rd MOT_CFG.PP ≤ s.mot.revN)
    (hfew : s.gearBad = false ∨ s.mot.revBad < 3) : s.ends .gearCheck (fun t => t.mot.revN = 0 ∧ t.mot.revExt = s.mot.ext ∧
      t.mot.revBad = (if s.gearBad = true then s.mot.revBad + 1 else 0) ∧ s.only t [.mot, .flt]) := by
  rw [State.ends, exec_gearCheck hstate hrev]
  have honly : s.only s.revJudged [.mot, .flt] := State.only_iff.2 (by simp [State.revJudged])
  have hbad : s.revJudged.mot.revBad = if s.gearBad = true then s.mot.revBad + 1 else 0 := rfl
  split
  next h =>
    refine ⟨_, congrArg Host.Outcome.next (if_neg ?_), rfl, rfl, by rw [if_pos h] at hbad; exact hbad, honly⟩
    rw [hbad, if_pos h]
    have := hfew.resolve_left (by simp [h])
    omega
  next h =>
    rw [if_neg h] at hbad
    exact ⟨_, rfl, rfl, rfl, hbad, State.only_trans honly (State.only_mono (State.condGone_only _ _ _) (by decide))⟩

theorem State.motRaise_calm {n : Src} (hq : s.quiet n) : (s.motRaise n).mot.calm = s.mot.calm := by
  unfold State.motRaise
  cases motFltFld n.val with
  | none => exact ((Mild.refl s).raiseAs n 0 _ hq).mot
  | some f => exact ((Mild.refl (s.wr f 1)).raiseAs n 0 _ (State.motMark_quiet hq f 1)).mot

theorem gearCheck_raises (hstate : s.rd MOT_STAT.STATE = 2) (hrev : 6 * s.rd MOT_CFG.PP ≤ s.mot.revN)
    (hbad : s.gearBad = true) (hmany : 3 ≤ s.mot.revBad) (hq : s.quiet 28) :
    s.ends .gearCheck (fun t => t.active 28 = true ∧ t.mot.ofsP = [] ∧ t.mot.ofsN = []) := by
  have hcount : s.revJudged.mot.revBad = s.mot.revBad + 1 := if_pos hbad
  have hexec := exec_gearCheck hstate hrev
  rw [if_pos hbad, if_pos (by omega)] at hexec
  have hcalm := State.motRaise_calm (s := s.revJudged.motOffsetsOff) (n := 28) hq
  have hfield {α : Type} (π : MotS → α) (h : ∀ m : MotS, π m.calm = π m) :
      π (s.revJudged.motOffsetsOff.motRaise 28).mot = π s.revJudged.motOffsetsOff.mot := by
    rw [← h, hcalm, h]
  exact ⟨_, hexec, State.motRaise_active (s := s.revJudged.motOffsetsOff) hq (by decide),
    hfield MotS.ofsP (fun _ => rfl), hfield MotS.ofsN (fun _ => rfl)⟩

end

end Sys2Proof.Machine
end

section
open Sys2Proof Sys2Proof.Machine

/-- Settles O54, row by row: starts, crossings, commutations, the loss of sync, a catch and the gear. -/
theorem motorStartsAndCommutates : Obligations.MotorStartsAndCommutates := by
  unfold Obligations.MotorStartsAndCommutates
  intro s
  refine ⟨fun hstate hstart hsince => ⟨startCheckEnd_aligns hstate hstart hsince, startCheckEnd_geared hstate hstart hsince,
    startCheckEnd_seen hstate hstart hsince⟩, activeShortEnd_ends, fun xs => alignEnd_ramps xs, startTimeout_halts,
    ⟨fun x => ⟨zeroCrossing_takes x, zeroCrossing_not x⟩, fun u above => ⟨demagEnd_ends u above, demagEnd_not u above⟩⟩,
    fun u => ⟨commutation_emf u, commutation_geared u, commutation_start u, commutation_not u⟩,
    fun e => zcMiss_not, fun hemf hnew hover => ⟨zcMiss_counts hemf hnew hover, fun hstate hmany =>
      ⟨zcMiss_recovers hemf hnew hover hstate hmany, fun b => zcMiss_halts hemf hnew hover hstate hmany⟩⟩,
    catch_starts, fun hstate hrev => ⟨gearCheck_counts hstate hrev, gearCheck_raises hstate hrev⟩⟩

end


section
/-!
SUPPORT. Pennants (R66, R482, R487 to R493, R520 to R522): what each step of taking one leaves of the registers, of the
tick number and of what goes out.
-/

namespace Sys2Proof.Machine

/-! ### A safe-state request sends nothing -/

theorem State.traceAll_only (s : State) (n : Nat) : s.only (s.traceAll n) [.regs, .qd] :=
  State.foldl_only _ (fun _ q h => State.only_trans h (State.traceTrig_only _ q n)) (State.only_refl _ _)

theorem State.dumpTrigger_out (s : State) (trigger first : Nat) : (s.dumpTrigger trigger first).out = s.out := by
  have hstop (l : List Quad) (t : State) : (l.foldl (fun s q => s.traceStop q) t).out = t.out :=
    (State.foldl_only (ps := [.regs]) l (fun _ q h => State.only_trans h (State.traceStop_only _ q)) (State.only_refl t _)).2
      .out (by decide)
  unfold State.dumpTrigger
  split
  · rfl
  · exact (hstop _ _).trans ((s.traceAll_only 8).2 .out (by decide))

theorem State.latchLow_out (s : State) (x : SafeCause) : (s.latchLow x).out = s.out := by
  show (s.latchCause x).out = s.out
  unfold State.latchCause
  extract_lets set latched saf void
  have hlatched : latched.out = s.out := by
    show (if _ then _ else _ : State).out = _
    split
    · rfl
    · split <;> rfl
  have hvoid : void.out = s.out := hlatched
  cases x with
  | ringWdog r => cases r <;> exact hvoid
  | _ => exact hvoid

theorem State.kdrLow_out (s : State) : s.kdrLow.out = s.out := by
  unfold State.kdrLow
  dsimp only
  split <;> rfl

theorem State.safeChannels_out (s : State) : s.safeChannels.out = s.out := by
  unfold State.safeChannels
  refine State.forCh_proj (fun t => t.out) (fun t c => ?_) s _
  have hfail : (if t.activeIn 15 c then t.failStep c rSAFETY 0 else t.failStep c rFAULT dSAFE).out = t.out := by
    split
    · exact (t.failStep_ch_only c _ _).2 .out (by decide)
    · exact (t.failStep_ch_only c _ _).2 .out (by decide)
  exact ((State.protOpen_only _ c).2 .out (by decide)).trans hfail

theorem State.motTorqueOff_out (s : State) : s.motTorqueOff.out = s.out := by
  unfold State.motTorqueOff
  split
  · exact (s.motComplete_only _ _).2 .out (by decide)
  · dsimp only
    refine Eq.trans (show _ = (if s.rd MOT_STAT.STATE = 5 then _ else _ : State).out from rfl) ?_
    split <;> rfl

theorem State.errPull_out (s : State) : s.errPull.out = s.out := by
  unfold State.errPull
  split <;> rfl

theorem State.goSafe_out (s : State) (atOnce : Bool) : (s.goSafe atOnce).out = s.out := by
  unfold State.goSafe
  extract_lets traced errn sys going dumped saf
  have htraced : traced.out = s.out := (State.traceAll_only _ 7).2 .out (by decide) |>.trans ((State.motTorqueOff_out _).trans
    ((State.safeChannels_out _).trans ((s.abandon_only 4).2 .out (by decide))))
  clear_value traced
  have herrn : errn.out = s.out := traced.errPull_out.trans htraced
  clear_value errn
  have hgoing : going.out = s.out := herrn
  clear_value going
  have hdumped : dumped.out = s.out := by
    show (if _ then _ else _ : State).out = _
    split
    · exact (State.dumpTrigger_out _ _ _).trans hgoing
    · exact hgoing
  clear_value dumped
  split
  · exact dumped.kdrLow_out.trans hdumped
  · split
    · exact hdumped
    · exact hdumped

theorem State.safeReq_out (s : State) (x : SafeCause) (atOnce : Bool) : (s.safeReq x atOnce).out = s.out := by
  have hlow := s.latchLow_out x
  have habandon : ((s.latchLow x).abandon 4).out = s.out := ((State.abandon_only _ 4).2 .out (by decide)).trans hlow
  by_cases hd : s.driven
  · rw [State.safeReq_driven s x atOnce hd]
    split
    · split
      · exact (State.kdrLow_out _).trans hlow
      · exact hlow
    · exact (State.goSafe_out _ _).trans hlow
  · rw [State.safeReq_aside s x atOnce hd]
    split
    · exact hlow
    · split
      · exact (State.kdrLow_out _).trans habandon
      · exact habandon

/-! ### What a step of taking a Pennant leaves -/

/-- From `s` to `t` the fields listed read the same, nothing has gone out and the tick number stands. -/
structure Passed (fs : List Fld) (s t : State) : Prop where
  regs : ∀ f ∈ fs, t.rd f = s.rd f
  out : t.out = s.out
  tick : t.sys.tick = s.sys.tick ∧ t.sys.missedP = s.sys.missedP

namespace Passed

variable {fs gs : List Fld} {s t u : State}

theorem refl (s : State) : Passed fs s s := ⟨fun _ _ => rfl, rfl, rfl, rfl⟩

theorem trans (h : Passed fs s t) (k : Passed fs t u) : Passed fs s u :=
  ⟨fun f hf => (k.regs f hf).trans (h.regs f hf), k.out.trans h.out, k.tick.1.trans h.tick.1, k.tick.2.trans h.tick.2⟩

theorem mono (h : Passed gs s t) (k : fs ⊆ gs) : Passed fs s t := ⟨fun f hf => h.regs f (k hf), h.out, h.tick⟩

theorem ite {p : Prop} [Decidable p] (h : Passed fs s t) (k : Passed fs s u) : Passed fs s (if p then t else u) := by
  split
  · exact h
  · exact k

theorem foldl {α : Type} {f : State → α → State} (l : List α) (k : ∀ t a, Passed fs s t → Passed fs s (f t a))
    (h : Passed fs s t) : Passed fs s (l.foldl f t) := by
  induction l generalizing t with
  | nil => exact h
  | cons a l ih => exact ih (k t a h)

theorem same (h : Passed fs s t) (hregs : u.regs = t.regs) (hout : u.out = t.out)
    (htick : u.sys.tick = t.sys.tick ∧ u.sys.missedP = t.sys.missedP) : Passed fs s u :=
  h.trans ⟨fun f _ => State.rd_of_regs hregs f, hout, htick⟩

theorem of_only (h : Passed fs s t) {ps : List Part} (k : t.only u ps) (hr : .regs ∉ ps) (ho : .out ∉ ps) (hs : .sys ∉ ps) :
    Passed fs s u :=
  h.same (k.2 .regs hr) (k.2 .out ho) (by rw [k.2 .sys hs]; exact ⟨rfl, rfl⟩)

theorem wr (h : Passed fs s t) (f : Fld) (v : Nat) (hf : ∀ g ∈ fs, f.key ≠ g.key) : Passed fs s (t.wr f v) :=
  h.trans ⟨fun g hg => State.rd_wr_other t v (hf g hg), rfl, rfl, rfl⟩

theorem safeReq (h : Passed fs s t) (x : SafeCause) (atOnce : Bool) (hf : ∀ g ∈ fs, g.key ∉ reactKeys) :
    Passed fs s (t.safeReq x atOnce) :=
  h.trans ⟨fun g hg => (AsideKept.refl t).safeReq x atOnce g (hf g hg), t.safeReq_out x atOnce, by
    rw [((Reacted.refl t).safeReq x atOnce).sys]
    exact ⟨rfl, rfl⟩⟩

end Passed

/-- What a device is on its rings. -/
def wayFlds : List Fld := [SYS_STRAP.ROLE, RING_STAT.BYPA, RING_STAT.BYPB, RING_STAT.WRAPA, RING_STAT.WRAPB]

/-- What a member has taken of a Pennant, and its counts of late copies. -/
def takenFlds : List Fld := wayFlds ++ [RING_STAT.STATE, RING_STAT.NPOS, RING_CNT2.LATE .a, RING_CNT2.LATE .b]

theorem State.way_congr {s t : State} (h : ∀ f ∈ wayFlds, t.rd f = s.rd f) : t.role = s.role ∧
    (∀ r, t.bypass r = s.bypass r) ∧ (∀ r, t.outRing r = s.outRing r) ∧ t.rb RING_STAT.WRAPA = s.rb RING_STAT.WRAPA := by
  have hbit (f : Fld) (hf : f ∈ wayFlds) : t.rb f = s.rb f := State.rb_of_rd (h f hf)
  have ha := hbit RING_STAT.WRAPA (by decide)
  have hb := hbit RING_STAT.WRAPB (by decide)
  refine ⟨h _ (by decide), fun r => ?_, fun r => ?_, ha⟩
  · cases r
    · exact hbit RING_STAT.BYPA (by decide)
    · exact hbit RING_STAT.BYPB (by decide)
  · unfold State.outRing
    rw [ha, hb]

section
variable {fs : List Fld} {s t : State}

/-! ### The steps -/

theorem Passed.lockRun (h : Passed fs s t) (r : RingId) (n : Nat) : Passed fs s (t.lockRun r n) := h.same rfl rfl ⟨rfl, rfl⟩

theorem Passed.newWay (h : Passed fs s t) (n : Nat) : Passed fs s (t.newWay n) := .ite h (h.same rfl rfl ⟨rfl, rfl⟩)

/-- A field of page 2 and below that is none of the delays. -/
theorem Passed.delayIn (h : Passed takenFlds s t) (r : RingId) (d : Int) (oth : Int → Int) : Passed takenFlds s (t.delayIn r d oth) :=
  h.trans ⟨fun g hg => State.rd_wr_other (f := RING_DLY.DA) _ _ (by revert g; decide), rfl, rfl, rfl⟩

theorem Passed.pennantTiming (h : Passed takenFlds s t) (r : RingId) (p : Pennant) (x : Int) :
    Passed takenFlds s (t.pennantTiming r p x) := by
  have hnoted (y : RingS) : Passed takenFlds s { t with ring := y } := h.same rfl rfl ⟨rfl, rfl⟩
  unfold State.pennantTiming
  dsimp only
  split
  · split
    · split
      · exact (hnoted _).delayIn _ _ _
      · exact hnoted _
    · split
      · exact h
      · exact h.delayIn _ _ _
  · split
    · split
      · split
        · exact h
        · exact h.delayIn _ _ _
      · exact hnoted _
    · exact h

theorem Passed.alignIn (h : Passed takenFlds s t) (r : RingId) (dev : Int) : Passed takenFlds s (t.alignIn r dev) := by
  unfold State.alignIn
  extract_lets better sys noted aligned
  have hpassed : Passed takenFlds s aligned :=
    h.trans ⟨fun g hg => State.rd_wr_other (f := RING_LOOP.ALIGN) _ _ (by revert g; decide), rfl, rfl, rfl⟩
  clear_value aligned
  split
  · exact h
  · split
    · have hfree : Passed takenFlds s aligned.takeInt.2 := hpassed.same rfl rfl ⟨rfl, rfl⟩
      exact hfree.wr SYS_CLK.STEER _ (by decide)
    · exact hpassed

/-- Setup that waits for a tick boundary, or MOT, lies above the ring's registers. -/
theorem lateKey {f : Fld} (h : (lateTick f || lateMot f) = true) : 0x5000 * 32 ≤ f.key := by
  have hoff : 0x5000 ≤ f.off := by
    unfold lateTick lateMot at h
    simp only [Bool.or_eq_true, Bool.and_eq_true, decide_eq_true_eq] at h
    omega
  unfold Fld.key
  omega

theorem Passed.commitLate (h : Passed takenFlds s t) : Passed takenFlds s (t.commitIf (fun f => lateTick f || lateMot f)) := by
  have hlow : ∀ g ∈ takenFlds, g.key < 0x5000 * 32 := by decide
  unfold State.commitIf
  have hbase : Passed takenFlds s { t with written := t.written.filter (fun e => !(lateTick e.1 || lateMot e.1)) } :=
    h.same rfl rfl ⟨rfl, rfl⟩
  generalize ({ t with written := t.written.filter (fun e => !(lateTick e.1 || lateMot e.1)) } : State) = u at hbase
  have hall : ∀ e ∈ t.written.filter (fun e => lateTick e.1 || lateMot e.1), 0x5000 * 32 ≤ e.1.key :=
    fun e he => lateKey (List.mem_filter.1 he).2
  generalize t.written.filter (fun e => lateTick e.1 || lateMot e.1) = l at hall
  induction l generalizing u with
  | nil => exact hbase
  | cons e l ih =>
    refine ih _ (hbase.wr e.1 e.2 fun g hg hkey => ?_) fun x hx => hall x (List.mem_cons_of_mem e hx)
    have hge := hall e List.mem_cons_self
    have hlt := hlow g hg
    omega

theorem Passed.switchPeriod (h : Passed takenFlds s t) (per : Nat) : Passed takenFlds s (t.switchPeriod per) := by
  unfold State.switchPeriod
  extract_lets late forced sys set div n ntick
  have hlate : Passed takenFlds s late := h.commitLate
  clear_value late
  have hforced : Passed takenFlds s forced := by
    have hper := hlate.wr SYS_TICKSTAT.INFORCE per (by decide)
    exact Passed.same (Passed.ite hper (hper.wr MET_CFG.ODR_DIV _ (by decide))) rfl rfl ⟨rfl, rfl⟩
  clear_value forced
  have hset : Passed takenFlds s set := hforced.same rfl rfl ⟨rfl, rfl⟩
  clear_value set
  have hdiv : Passed takenFlds s div := .ite hset (hset.wr MOT_ENC.DIV _ (by decide))
  clear_value div
  have hntick : Passed takenFlds s ntick := .ite hdiv (hdiv.wr MOT_CFG.NTICK _ (by decide))
  exact .foldl _ (fun _ q k => k.same rfl rfl ⟨rfl, rfl⟩) hntick

theorem Passed.pennantPeriod (h : Passed takenFlds s t) (p : Pennant) : Passed takenFlds s (t.pennantPeriod p) := by
  have hsys {v : State} (hv : Passed takenFlds s v) (x : SysS) (hx : x.tick = v.sys.tick ∧ x.missedP = v.sys.missedP) :
      Passed takenFlds s { v with sys := x } := hv.same rfl rfl hx
  have hres : ∀ q : Quad, ∀ g ∈ takenFlds, (QD_PCMD.RESULT q).key ≠ g.key := by decide
  unfold State.pennantPeriod
  extract_lets new first sys noted naked refused slow told withdrawn
  have hnoted : Passed takenFlds s noted := hsys h _ ⟨rfl, rfl⟩
  clear_value noted
  have hrefused : Passed takenFlds s refused := hsys hnoted _ ⟨rfl, rfl⟩
  clear_value refused
  have htold : Passed takenFlds s told := .foldl _ (fun _ q k => k.wr (QD_PCMD.RESULT q) 1 (hres q)) hrefused
  clear_value told
  have hwithdrawn : Passed takenFlds s withdrawn := hsys h _ ⟨rfl, rfl⟩
  clear_value withdrawn
  exact .ite (.ite (htold.of_only (State.mgmt_only _ _ _ _ _) (by decide) (by decide) (by decide)) hnoted)
    (.ite (hwithdrawn.switchPeriod _) hwithdrawn)

theorem Passed.safevIn (h : Passed fs s t) (v : Nat) (hf : ∀ g ∈ fs, g.key ∉ RING_SAFEV.SAFEV.key :: reactKeys) :
    Passed fs s (t.safevIn v) := by
  have hwr : Passed fs s (t.wr RING_SAFEV.SAFEV v) :=
    h.wr _ v (fun g hg e => hf g hg (by rw [← e]; exact List.mem_cons_self))
  exact .ite (hwr.safeReq _ _ fun g hg hk => hf g hg (List.mem_cons_of_mem _ hk)) hwr

/-- The vector of a Pennant is the device's. -/
theorem State.safevIn_safev (s : State) {v : Nat} (hv : v < 2 ^ 32) : (s.safevIn v).rd RING_SAFEV.SAFEV = v := by
  have hwr : (s.wr RING_SAFEV.SAFEV v).rd RING_SAFEV.SAFEV = v := (State.rd_wr_same _ _ _).trans (Nat.mod_eq_of_lt hv)
  unfold State.safevIn
  dsimp only
  split
  · exact ((AsideKept.refl _).safeReq _ _ _ (by decide)).trans hwr
  · exact hwr

/-- A Pennant goes on. -/
theorem State.forwardPennant_out (s : State) (r : RingId) (p : Pennant) :
    (s.relays r = false → (s.forwardPennant r p).out = s.out) ∧
    (s.relays r = true → ∃ q : Pennant, (s.forwardPennant r p).out = .pennant (s.outRing r) (pennantWire q) :: s.out ∧
      q.tick = p.tick ∧ q.barv = p.barv ∧ q.hop = if r = .a ∨ s.rb RING_STAT.WRAPA = true then p.hop + 1 else p.hop) := by
  unfold State.forwardPennant
  refine ⟨fun h => ?_, fun h => ?_⟩
  · rw [if_pos (by simp [h])]
  · rw [if_neg (by simp [h])]
    refine ⟨_, rfl, rfl, rfl, ?_⟩
    dsimp only
    simp only [Bool.or_eq_true, decide_eq_true_eq]

theorem State.forwardPennant_only (s : State) (r : RingId) (p : Pennant) : s.only (s.forwardPennant r p) [.out] := by
  unfold State.forwardPennant
  split
  · exact State.only_refl _ _
  · exact State.only_iff.2 (by simp [State.emit])

end

end Sys2Proof.Machine
end


section
/-!
SUPPORT. Pennants that are taken, at a member and at the head (R66, R482, R487 to R493, R520 to R522, R534).
-/

namespace Sys2Proof.Machine

section
variable {s : State} {r : RingId} {p : Pennant}

/-! ### A member -/

/-- The field that shows the link of a ring. -/
def linkFld (r : RingId) : Fld := match r with | .a => RING_STAT.LINKA | .b => RING_STAT.LINKB

/-- What a Pennant shows of the ring is taken. -/
def State.penSeen (s : State) (r : RingId) (p : Pennant) : State :=
  let linked := (s.lockRun r p.tick.toNat).wr (linkFld r) 1
  let shown := ((((linked.newWay p.rstate.toNat).wr RING_STAT.STATE p.rstate.toNat).wr RING_STAT.NPOS p.npos.toNat).wr
    RING_LOOP.LOOP p.loop.toNat)
  if shown.sys.holdover.isSome then
    ({ shown with sys := { shown.sys with holdover := none } } : State).wr SYS_CLK.REF (if r = RingId.a then 1 else 2)
  else shown

/-- Its timing is taken. -/
def State.penTimed (s : State) (r : RingId) (p : Pennant) (x : Int) : State :=
  match bget s.ring.dly (ringIx r) with
  | some d =>
    if unusable (x - d) then (s.alignIn r (x - d)).incSat (RING_CNT2.LATE r) else (s.alignIn r (x - d)).pennantTiming r p x
  | none => s.pennantTiming r p x

/-- Its tick number is taken. -/
def State.penTick (s : State) (p : Pennant) : State := { s with sys := { s.sys with tick := p.tick.toNat, missedP := 0 } }

/-- In ENUM it gives the position. -/
def State.penPlaced (s : State) (r : RingId) (p : Pennant) : State :=
  if p.rstate.toNat = 1 ∧ !s.bypass r ∧ (r = RingId.a ∨ s.rb RING_STAT.WRAPA) then
    ((s.wr RING_STAT.POS ((1 + p.hop.toNat) % 32)).wr RING_STAT.POS_VALID 1).wr RING_STAT.LATE 0
  else s

/-- The vectors it carries are taken. -/
def State.penVectors (s : State) (p : Pennant) : State :=
  ((s.wr RING_BARVL.BARV (p.barv.toNat % 2 ^ 32)).wr RING_BARVH.BARV (p.barv.toNat / 2 ^ 32)).safevIn p.safev.toNat

theorem exec_pennantReceived (hidle : s.idle = false) (hres : s.ring.resetting = false) (hrole : s.role = 0)
    (hcrc : p.crcOk = true) (x d : Int) : exec (.pennantReceived r p x d) s = .next
      ((((((((s.penSeen r p).penTimed r p x).penTick p).penPlaced r p).pennantPeriod p).penVectors p).forwardPennant r p)) := by
  show execPennantReceived r p x d s = _
  unfold execPennantReceived
  exact (if_neg (by simp [hidle, hres, hrole])).trans ((if_neg (by simp [hcrc])).trans rfl)

theorem State.penSeen_spec (s : State) (r : RingId) (p : Pennant) :
    Passed (wayFlds ++ [RING_CNT2.LATE .a, RING_CNT2.LATE .b]) s (s.penSeen r p) ∧
    (s.penSeen r p).rd RING_STAT.STATE = p.rstate.toNat ∧ (s.penSeen r p).rd RING_STAT.NPOS = p.npos.toNat % 64 ∧
    (decide (s.rd RING_STAT.STATE = 3) = decide (p.rstate.toNat = 3) → (s.penSeen r p).ring.dly = s.ring.dly) := by
  have hlinkKeys : ∀ r : RingId, (∀ g ∈ wayFlds ++ [RING_CNT2.LATE .a, RING_CNT2.LATE .b], (linkFld r).key ≠ g.key) ∧
      (linkFld r).key ≠ RING_STAT.STATE.key := by
    intro r
    cases r <;> decide
  obtain ⟨hlinkKey, hlinkState⟩ := hlinkKeys r
  have hlinked : Passed (wayFlds ++ [RING_CNT2.LATE .a, RING_CNT2.LATE .b]) s ((s.lockRun r p.tick.toNat).wr (linkFld r) 1) :=
    ((Passed.refl s).lockRun r _).wr _ 1 hlinkKey
  have hway : ((s.lockRun r p.tick.toNat).wr (linkFld r) 1).rd RING_STAT.STATE = s.rd RING_STAT.STATE :=
    State.rd_wr_other _ 1 hlinkState
  have hdly : ((s.lockRun r p.tick.toNat).wr (linkFld r) 1).ring.dly = s.ring.dly := rfl
  unfold State.penSeen
  extract_lets linked shown
  have hlinked' : linked = (s.lockRun r p.tick.toNat).wr (linkFld r) 1 := rfl
  rw [← hlinked'] at hlinked hway hdly
  clear_value linked
  have hshown : Passed (wayFlds ++ [RING_CNT2.LATE .a, RING_CNT2.LATE .b]) s shown ∧
      shown.rd RING_STAT.STATE = p.rstate.toNat ∧ shown.rd RING_STAT.NPOS = p.npos.toNat % 64 ∧
      (decide (s.rd RING_STAT.STATE = 3) = decide (p.rstate.toNat = 3) → shown.ring.dly = s.ring.dly) := by
    refine ⟨(((hlinked.newWay _).wr RING_STAT.STATE _ (by decide)).wr RING_STAT.NPOS _ (by decide)).wr RING_LOOP.LOOP _
      (by decide), ?_, ?_, fun hsame => ?_⟩
    · refine (State.rd_wr_other _ _ (by decide)).trans ((State.rd_wr_other _ _ (by decide)).trans
        ((State.rd_wr_same _ _ _).trans (Nat.mod_eq_of_lt p.rstate.isLt)))
    · exact (State.rd_wr_other _ _ (by decide)).trans (State.rd_wr_same _ _ _)
    · refine Eq.trans (show _ = (linked.newWay p.rstate.toNat).ring.dly from rfl) ?_
      unfold State.newWay
      rw [hway, if_pos hsame]
      exact hdly
  clear_value shown
  obtain ⟨hpassed, hstate, hnpos, hkept⟩ := hshown
  split
  · have href : Passed (takenFlds) shown (({ shown with sys := { shown.sys with holdover := none } } : State).wr SYS_CLK.REF
        (if r = RingId.a then 1 else 2)) :=
      ⟨fun g hg => State.rd_wr_other (f := SYS_CLK.REF) _ _ (by revert g; decide), rfl, rfl, rfl⟩
    exact ⟨hpassed.trans (href.mono (by decide)), (href.regs _ (by decide)).trans hstate,
      (href.regs _ (by decide)).trans hnpos, hkept⟩
  · exact ⟨hpassed, hstate, hnpos, hkept⟩

theorem late_mem (r : RingId) : RING_CNT2.LATE r ∈ takenFlds := by
  cases r <;> decide

theorem State.penTimed_spec (s : State) (r : RingId) (p : Pennant) (x : Int) :
    Passed (wayFlds ++ [RING_STAT.STATE, RING_STAT.NPOS]) s (s.penTimed r p x) ∧
    ∀ e : Int, bget s.ring.dly (ringIx r) = some e → (s.penTimed r p x).rd (RING_CNT2.LATE r) =
      if 320 < (x - e).natAbs then satU (RING_CNT2.LATE r).w (s.rd (RING_CNT2.LATE r) + 1) else s.rd (RING_CNT2.LATE r) := by
  have hlate : ∀ r : RingId, ∀ g ∈ wayFlds ++ [RING_STAT.STATE, RING_STAT.NPOS], (RING_CNT2.LATE r).key ≠ g.key := by
    intro r
    cases r <;> decide
  have hsub : wayFlds ++ [RING_STAT.STATE, RING_STAT.NPOS] ⊆ takenFlds := by decide
  unfold State.penTimed
  cases hd : bget s.ring.dly (ringIx r) with
  | none => exact ⟨((Passed.refl s).pennantTiming r p x).mono hsub, nofun⟩
  | some d =>
    have halign : Passed takenFlds s (s.alignIn r (x - d)) := (Passed.refl s).alignIn r (x - d)
    dsimp only
    by_cases hun : 320 < (x - d).natAbs
    · rw [if_pos (by simp [unusable, hun])]
      refine ⟨(halign.mono hsub).wr (RING_CNT2.LATE r) _ (hlate r), fun e he => ?_⟩
      rw [← Option.some.inj he, if_pos hun, ← halign.regs _ (late_mem r)]
      refine (State.rd_wr_same _ _ _).trans (Nat.mod_eq_of_lt ?_)
      unfold satU
      have hpos : 0 < 2 ^ (RING_CNT2.LATE r).w := by positivity
      omega
    · rw [if_neg (by simp [unusable, hun])]
      have htimed := halign.pennantTiming r p x
      refine ⟨htimed.mono hsub, fun e he => ?_⟩
      rw [← Option.some.inj he, if_neg hun]
      exact htimed.regs _ (late_mem r)

theorem State.penPlaced_passed (s : State) (r : RingId) (p : Pennant) : Passed takenFlds s (s.penPlaced r p) :=
  .ite ((((Passed.refl s).wr RING_STAT.POS _ (by decide)).wr RING_STAT.POS_VALID _ (by decide)).wr RING_STAT.LATE _ (by decide))
    (.refl s)

theorem State.penVectors_spec (s : State) (p : Pennant) : Passed takenFlds s (s.penVectors p) ∧
    (s.penVectors p).rd RING_BARVL.BARV = p.barv.toNat % 2 ^ 32 ∧ (s.penVectors p).rd RING_BARVH.BARV = p.barv.toNat / 2 ^ 32 ∧
    (s.penVectors p).rd RING_SAFEV.SAFEV = p.safev.toNat := by
  have hlow : Passed takenFlds s ((s.wr RING_BARVL.BARV (p.barv.toNat % 2 ^ 32)).wr RING_BARVH.BARV (p.barv.toNat / 2 ^ 32)) :=
    ((Passed.refl s).wr _ _ (by decide)).wr _ _ (by decide)
  have hbar : Passed [RING_BARVL.BARV, RING_BARVH.BARV] ((s.wr RING_BARVL.BARV (p.barv.toNat % 2 ^ 32)).wr RING_BARVH.BARV
      (p.barv.toNat / 2 ^ 32)) (s.penVectors p) := (Passed.refl _).safevIn _ (by decide)
  have hhigh : p.barv.toNat / 2 ^ 32 < 2 ^ 32 := by
    have := p.barv.isLt
    omega
  refine ⟨hlow.safevIn _ (by decide), ?_, ?_, State.safevIn_safev _ p.safev.isLt⟩
  · refine (hbar.regs _ (by decide)).trans ((State.rd_wr_other _ _ (by decide)).trans ((State.rd_wr_same _ _ _).trans ?_))
    exact Nat.mod_mod _ _
  · exact (hbar.regs _ (by decide)).trans ((State.rd_wr_same _ _ _).trans (Nat.mod_eq_of_lt hhigh))

theorem State.relays_member {t : State} (h : t.role = 0) (r : RingId) : t.relays r = !t.bypass r := if_pos h

theorem pennantReceived_taken (hidle : s.idle = false) (hres : s.ring.resetting = false) (hrole : s.role = 0)
    (hcrc : p.crcOk = true) (x d : Int) : s.ends (.pennantReceived r p x d) (fun t => t.sys.tick = p.tick.toNat ∧
      t.sys.missedP = 0 ∧ t.rd RING_STAT.STATE = p.rstate.toNat ∧ t.rd RING_STAT.NPOS = p.npos.toNat % 64 ∧
      t.rd RING_BARVL.BARV = p.barv.toNat % 2 ^ 32 ∧ t.rd RING_BARVH.BARV = p.barv.toNat / 2 ^ 32 ∧
      t.rd RING_SAFEV.SAFEV = p.safev.toNat ∧
      (∀ e : Int, decide (s.rd RING_STAT.STATE = 3) = decide (p.rstate.toNat = 3) → bget s.ring.dly (ringIx r) = some e →
        t.rd (RING_CNT2.LATE r) = if 320 < (x - e).natAbs then satU (RING_CNT2.LATE r).w (s.rd (RING_CNT2.LATE r) + 1)
          else s.rd (RING_CNT2.LATE r)) ∧
      (s.bypass r = true → t.out = s.out) ∧
      (s.bypass r = false → ∃ q : Pennant, t.out = .pennant (s.outRing r) (pennantWire q) :: s.out ∧ q.tick = p.tick ∧
        q.barv = p.barv ∧ q.hop = if r = .a ∨ s.rb RING_STAT.WRAPA = true then p.hop + 1 else p.hop)) := by
  have hexec := exec_pennantReceived (r := r) hidle hres hrole hcrc x d
  obtain ⟨hseen, hstate, hnpos, hdly⟩ := s.penSeen_spec r p
  generalize s.penSeen r p = u at hexec hseen hstate hnpos hdly
  obtain ⟨htimed, hlate⟩ := u.penTimed_spec r p x
  generalize u.penTimed r p x = w at hexec htimed hlate
  have htick : (w.penTick p).sys.tick = p.tick.toNat ∧ (w.penTick p).sys.missedP = 0 ∧ (w.penTick p).out = w.out :=
    ⟨rfl, rfl, rfl⟩
  have hticked (f : Fld) : (w.penTick p).rd f = w.rd f := rfl
  generalize w.penTick p = z at hexec htick hticked
  have hplaced := (z.penPlaced_passed r p).pennantPeriod p
  generalize (z.penPlaced r p).pennantPeriod p = y at hexec hplaced
  obtain ⟨hvectors, hbarl, hbarh, hsafev⟩ := y.penVectors_spec p
  generalize y.penVectors p = v at hexec hvectors hbarl hbarh hsafev
  have hafter := hplaced.trans hvectors
  have hlateSeen : u.rd (RING_CNT2.LATE r) = s.rd (RING_CNT2.LATE r) := hseen.regs _ (by cases r <;> decide)
  have hregs (f : Fld) (hf : f ∈ wayFlds ++ [RING_STAT.STATE, RING_STAT.NPOS]) (hf' : f ∈ takenFlds) : v.rd f = u.rd f :=
    (hafter.regs f hf').trans ((hticked f).trans (htimed.regs f hf))
  obtain ⟨hrole', hbyp, hring, hwrap⟩ := State.way_congr (s := s) (t := v) fun f hf =>
    (hregs f (List.mem_append_left _ hf) (List.mem_append_left _ hf)).trans (hseen.regs f (List.mem_append_left _ hf))
  have hout : v.out = s.out := hafter.out.trans (htick.2.2.trans (htimed.out.trans hseen.out))
  have hfwd := v.forwardPennant_only r p
  obtain ⟨hstays, hgoes⟩ := v.forwardPennant_out r p
  generalize v.forwardPennant r p = t at hexec hfwd hstays hgoes
  have hrd (f : Fld) : t.rd f = v.rd f := State.rd_of_regs (hfwd.2 .regs (by decide)) f
  have hsys : t.sys = v.sys := hfwd.2 .sys (by decide)
  rw [State.relays_member (hrole'.trans hrole), hbyp] at hstays hgoes
  rw [hring, hwrap, hout] at hgoes
  rw [hout] at hstays
  refine ⟨t, hexec, ?_, ?_, ?_, ?_, ?_, ?_, ?_, fun e hway he => ?_, fun hb => hstays (by simp [hb]),
    fun hb => hgoes (by simp [hb])⟩
  · rw [hsys]
    exact hafter.tick.1.trans htick.1
  · rw [hsys]
    exact hafter.tick.2.trans htick.2.1
  · exact (hrd _).trans ((hregs _ (by decide) (by decide)).trans hstate)
  · exact (hrd _).trans ((hregs _ (by decide) (by decide)).trans hnpos)
  · exact (hrd _).trans hbarl
  · exact (hrd _).trans hbarh
  · exact (hrd _).trans hsafev
  · have hl := hlate e (by rw [hdly hway]; exact he)
    rw [hlateSeen] at hl
    exact (hrd _).trans ((hafter.regs _ (late_mem r)).trans ((hticked _).trans hl))

/-! ### The head -/

/-- A return is taken at the head. -/
def State.penReturned (s : State) (r : RingId) (p : Pennant) (l : Int) : State :=
  let linked := (s.lockRun r p.tick.toNat).wr (linkFld r) 1
  let back : State := { linked with ring := { linked.ring with
    ret := if p.tick.toNat = linked.now then (r, p.safev.toNat) :: linked.ring.ret.filter (fun e => decide (e.1 ≠ r))
      else linked.ring.ret
    cross := linked.ring.cross || decide (p.copyB ≠ decide (r = RingId.b))
    loopA := if r = RingId.a then some l else linked.ring.loopA
    loopB := if r = RingId.b then some l else linked.ring.loopB } }
  let run : State := if r = RingId.a ∨ back.wrapped then
      { back with ring := { back.ring with
        hopRun := if p.hop.toNat = back.ring.hop then back.ring.hopRun + 1 else 0, hop := p.hop.toNat } }
    else back
  run.wr RING_LOOP.LOOP p.loop.toNat

theorem exec_pennantReturn (hidle : s.idle = false) (hres : s.ring.resetting = false) (hheads : s.headsRing)
    (hcrc : p.crcOk = true) (l : Int) : exec (.pennantReturn r p l) s =
      .next (((s.penReturned r p l).safevIn p.safev.toNat).forwardPennant r p) := by
  show execPennantReturn r p l s = _
  unfold execPennantReturn
  exact (if_neg (by rcases hheads with h | h <;> simp [hidle, hres, h])).trans ((if_neg (by simp [hcrc])).trans rfl)

/-- What a head relays depends on the ring's state and its way. -/
theorem State.relays_congr {t : State} (h : ∀ f ∈ wayFlds, t.rd f = s.rd f) (hstate : t.rd RING_STAT.STATE = s.rd RING_STAT.STATE)
    (hring : t.ring.wrapOn = s.ring.wrapOn ∧ t.ring.onA = s.ring.onA ∧ t.ring.down = s.ring.down) (r : RingId) :
    t.relays r = s.relays r := by
  obtain ⟨hrole, hbyp, -, -⟩ := State.way_congr h
  obtain ⟨hwrap, hon, hdown⟩ := hring
  unfold State.relays State.wrapped State.primary
  rw [hrole, hbyp, hstate, hwrap, hon, hdown]

theorem State.penReturned_spec (s : State) (r : RingId) (p : Pennant) (l : Int) :
    Passed (wayFlds ++ [RING_STAT.STATE]) s (s.penReturned r p l) ∧
    ((s.penReturned r p l).ring.wrapOn = s.ring.wrapOn ∧ (s.penReturned r p l).ring.onA = s.ring.onA ∧
      (s.penReturned r p l).ring.down = s.ring.down) ∧
    (s.penReturned r p l).ring.ret = (if p.tick.toNat = s.now then (r, p.safev.toNat) ::
      s.ring.ret.filter (fun e => decide (e.1 ≠ r)) else s.ring.ret) ∧
    (match r with | .a => (s.penReturned r p l).ring.loopA | .b => (s.penReturned r p l).ring.loopB) = some l ∧
    (r = .a ∨ s.wrapped = true → (s.penReturned r p l).ring.hop = p.hop.toNat) := by
  have hlinkKeys : ∀ r : RingId, ∀ g ∈ wayFlds ++ [RING_STAT.STATE], (linkFld r).key ≠ g.key := by
    intro r
    cases r <;> decide
  have hlinked : Passed (wayFlds ++ [RING_STAT.STATE]) s ((s.lockRun r p.tick.toNat).wr (linkFld r) 1) :=
    ((Passed.refl s).lockRun r _).wr _ 1 (hlinkKeys r)
  unfold State.penReturned
  extract_lets linked was back wasHop run
  have hback : Passed (wayFlds ++ [RING_STAT.STATE]) s back := hlinked.same rfl rfl ⟨rfl, rfl⟩
  have hwrapped : back.wrapped = s.wrapped := by
    unfold State.wrapped
    rw [hback.regs RING_STAT.STATE (by decide)]
    rfl
  have hloop : (match r with | .a => back.ring.loopA | .b => back.ring.loopB) = some l := by cases r <;> rfl
  have hring : (back.ring.wrapOn = s.ring.wrapOn ∧ back.ring.onA = s.ring.onA ∧ back.ring.down = s.ring.down) ∧
      back.ring.ret = (if p.tick.toNat = s.now then (r, p.safev.toNat) :: s.ring.ret.filter (fun e => decide (e.1 ≠ r))
        else s.ring.ret) := ⟨⟨rfl, rfl, rfl⟩, rfl⟩
  clear_value back
  have hrun : Passed (wayFlds ++ [RING_STAT.STATE]) s run ∧
      (run.ring.wrapOn = back.ring.wrapOn ∧ run.ring.onA = back.ring.onA ∧ run.ring.down = back.ring.down) ∧
      run.ring.ret = back.ring.ret ∧ (run.ring.loopA = back.ring.loopA ∧ run.ring.loopB = back.ring.loopB) ∧
      (r = .a ∨ s.wrapped = true → run.ring.hop = p.hop.toNat) := by
    show Passed _ s (if _ then _ else _ : State) ∧ _
    by_cases hway : r = .a ∨ back.wrapped = true
    · have hrun' : run = { back with ring := { back.ring with
          hopRun := if p.hop.toNat = back.ring.hop then back.ring.hopRun + 1 else 0, hop := p.hop.toNat } } := if_pos hway
      rw [if_pos hway, hrun']
      exact ⟨hback.same rfl rfl ⟨rfl, rfl⟩, ⟨rfl, rfl, rfl⟩, rfl, ⟨rfl, rfl⟩, fun _ => rfl⟩
    · have hrun' : run = back := if_neg hway
      rw [if_neg hway, hrun']
      exact ⟨hback, ⟨rfl, rfl, rfl⟩, rfl, ⟨rfl, rfl⟩, fun h => absurd (by rw [hwrapped]; exact h) hway⟩
  clear_value run
  obtain ⟨hpassed, ⟨hw, ho, hd⟩, hret, ⟨hla, hlb⟩, hhop⟩ := hrun
  refine ⟨hpassed.wr RING_LOOP.LOOP _ (by decide), ⟨hw.trans hring.1.1, ho.trans hring.1.2.1, hd.trans hring.1.2.2⟩,
    hret.trans hring.2, ?_, hhop⟩
  cases r with
  | a => exact hla.trans hloop
  | b => exact hlb.trans hloop

/-- The vector of a Pennant leaves the ring. -/
theorem State.safevIn_ring (s : State) (v : Nat) : (s.safevIn v).ring = s.ring := by
  unfold State.safevIn
  dsimp only
  split
  · exact ((Reacted.refl _).safeReq _ _).only.2 .ring (by decide)
  · rfl

theorem pennantReturn_taken (hidle : s.idle = false) (hres : s.ring.resetting = false) (hheads : s.headsRing)
    (hcrc : p.crcOk = true) (l : Int) : s.ends (.pennantReturn r p l) (fun t => t.sys.tick = s.sys.tick ∧
      t.ring.ret = (if p.tick.toNat = s.now then (r, p.safev.toNat) :: s.ring.ret.filter (fun e => decide (e.1 ≠ r))
        else s.ring.ret) ∧
      (match r with | .a => t.ring.loopA | .b => t.ring.loopB) = some l ∧
      (r = .a ∨ s.wrapped = true → t.ring.hop = p.hop.toNat) ∧ (s.relays r = false → t.out = s.out) ∧
      (s.relays r = true → ∃ q : Pennant, t.out = .pennant (s.outRing r) (pennantWire q) :: s.out ∧ q.tick = p.tick ∧
        q.hop = if r = .a ∨ s.rb RING_STAT.WRAPA = true then p.hop + 1 else p.hop)) := by
  obtain ⟨hback, hsame, hret, hloop, hhop⟩ := s.penReturned_spec r p l
  have hexec := exec_pennantReturn (r := r) hidle hres hheads hcrc l
  have hsafev : Passed (wayFlds ++ [RING_STAT.STATE]) (s.penReturned r p l) ((s.penReturned r p l).safevIn p.safev.toNat) :=
    (Passed.refl _).safevIn _ (by decide)
  have hring := (s.penReturned r p l).safevIn_ring p.safev.toNat
  have hall := hback.trans hsafev
  rw [← hring] at hsame hret hloop hhop
  generalize (s.penReturned r p l).safevIn p.safev.toNat = v at hall hsame hret hloop hhop hexec
  have hwayRegs : ∀ f ∈ wayFlds, v.rd f = s.rd f := fun f hf => hall.regs f (List.mem_append_left _ hf)
  obtain ⟨-, -, hringOut, hwrap⟩ := State.way_congr hwayRegs
  have hrelays := State.relays_congr hwayRegs (hall.regs _ (by decide)) hsame r
  have hfwd := v.forwardPennant_only r p
  obtain ⟨hstays, hgoes⟩ := v.forwardPennant_out r p
  rw [hrelays, hall.out] at hstays
  rw [hrelays, hringOut, hwrap, hall.out] at hgoes
  rw [State.ends, hexec]
  refine ⟨_, rfl, ?_⟩
  rw [hfwd.2 .ring (by decide), hfwd.2 .sys (by decide)]
  refine ⟨hall.tick.1, hret, hloop, hhop, hstays, fun h => ?_⟩
  obtain ⟨q, hq, htick, -, hqhop⟩ := hgoes h
  exact ⟨q, hq, htick, hqhop⟩

/-! ### Copies with a wrong CRC -/

theorem crcCount_spec (t : State) (f : Fld) : (t.incSat f).rd f = satU f.w (t.rd f + 1) := by
  refine (State.rd_wr_same _ _ _).trans (Nat.mod_eq_of_lt ?_)
  unfold satU
  have hpos : 0 < 2 ^ f.w := by positivity
  omega

theorem pennantReceived_bad (hidle : s.idle = false) (hres : s.ring.resetting = false) (hrole : s.role = 0)
    (hcrc : p.crcOk = false) (x d : Int) : s.ends (.pennantReceived r p x d) (fun t =>
      t.rd (RING_CNT1.PCRC r) = satU (RING_CNT1.PCRC r).w (s.rd (RING_CNT1.PCRC r) + 1) ∧ t.sys = s.sys ∧
      s.only t [.ring, .regs] ∧ s.regsBut t [RING_CNT1.PCRC r]) := by
  have hexec : exec (.pennantReceived r p x d) s = .next
      (({ s with ring := { s.ring with lock := bupd s.ring.lock (ringIx r) (fun l => (0, l.2)) } } : State).incSat
        (RING_CNT1.PCRC r)) := by
    show execPennantReceived r p x d s = _
    unfold execPennantReceived
    rw [if_neg (by simp [hidle, hres, hrole]), if_pos (by simp [hcrc])]
  exact ⟨_, hexec, crcCount_spec _ _, rfl, State.only_iff.2 (by simp),
    State.regsBut_wr (fun _ _ => rfl) (List.mem_singleton_self _) _⟩

theorem pennantReturn_bad (hidle : s.idle = false) (hres : s.ring.resetting = false) (hheads : s.headsRing)
    (hcrc : p.crcOk = false) (x : Int) : s.ends (.pennantReturn r p x) (fun t =>
      t.rd (RING_CNT1.PCRC r) = satU (RING_CNT1.PCRC r).w (s.rd (RING_CNT1.PCRC r) + 1) ∧
      s.only t [.regs] ∧ s.regsBut t [RING_CNT1.PCRC r]) := by
  have hexec : exec (.pennantReturn r p x) s = .next (s.incSat (RING_CNT1.PCRC r)) := by
    show execPennantReturn r p x s = _
    unfold execPennantReturn
    rw [if_neg (by rcases hheads with h | h <;> simp [hidle, hres, h]), if_pos (by simp [hcrc])]
  exact ⟨_, hexec, crcCount_spec _ _, State.only_iff.2 (by simp),
    State.regsBut_wr (fun _ _ => rfl) (List.mem_singleton_self _) _⟩

end

end Sys2Proof.Machine
end


section
/-!
SUPPORT. Safety PDUs and the ring watchdog (R498, R660 to R662).
-/

namespace Sys2Proof.Machine

/-- The condition of a source holds somewhere after its raise. -/
theorem State.raiseAs_cond_ne {s : State} {n : Src} (c : Ch) (x : SafeCause) (hq : s.quiet n)
    (hlisted : srcListed n.val = true) : ((s.raiseAs n c x).src n).cond ≠ 0 := by
  obtain ⟨i, hi⟩ : ∃ i, (actBit n c).getLsbD i = true := by
    by_contra hno
    exact actBit_ne n c (BitVec.eq_of_getLsbD_eq fun i _ => by
      rw [show (0 : BitVec 16).getLsbD i = false from by simp]
      exact Bool.eq_false_iff.2 fun e => hno ⟨i, e⟩)
  intro hnone
  have hcond := (s.raiseAs_act n c x hq hlisted).1 i hi
  rw [hnone] at hcond
  simp at hcond

/-- A safe-state request takes the enables low. -/
theorem State.safeReq_enablesLow (s : State) (x : SafeCause) (atOnce : Bool) : (s.safeReq x atOnce).enablesLow := by
  have hlow : (s.latchLow x).enablesLow := ⟨rfl, rfl, rfl⟩
  have hreacted : Reacted (s.latchLow x) (s.latchLow x) := .refl _
  refine Reacted.low ?_ hlow
  by_cases hd : s.driven
  · rw [State.safeReq_driven s x atOnce hd]
    exact .ite (.ite hreacted.kdrLow hreacted) (hreacted.goSafe _)
  · rw [State.safeReq_aside s x atOnce hd]
    exact .ite hreacted (.ite (hreacted.abandon 4).kdrLow (hreacted.abandon 4))

section
variable {s : State} {r : RingId} {h : Bool} {u : Pdu}

/-- A PDU goes on to the next device, except in the window of the device's own position. -/
def State.pduSent (s : State) (r : RingId) (u : Pdu) : State :=
  if s.relays r && !(s.rb RING_STAT.POS_VALID && decide (s.now % 32 = s.pos)) then s.emit (.pdu (s.outRing r) (pduWire u))
  else s

/-- A valid PDU arms the watchdog of its ring, and in WRAPPED both. -/
def State.wdArmed (s : State) (r : RingId) : State :=
  { s with ring := { s.ring with
    wd := if s.wrapped then Vector.replicate 2 (some 0) else bupd s.ring.wd (ringIx r) (fun _ => some 0) } }

/-- What a PDU passed on leaves: the octets alone have gone out. -/
theorem State.pduSent_spec (s : State) (r : RingId) (u : Pdu) : (s.pduSent r u).out =
      (if s.relays r = true ∧ ¬ (s.rb RING_STAT.POS_VALID = true ∧ s.now % 32 = s.pos)
        then .pdu (s.outRing r) (pduWire u) :: s.out else s.out) ∧
    s.only (s.pduSent r u) [.out] := by
  unfold State.pduSent
  by_cases hon : s.relays r = true ∧ ¬ (s.rb RING_STAT.POS_VALID = true ∧ s.now % 32 = s.pos)
  · rw [if_pos (by simpa [← Bool.not_eq_true, imp_iff_not_or] using hon), if_pos hon]
    exact ⟨rfl, State.only_iff.2 (by simp)⟩
  · rw [if_neg (by simpa [← Bool.not_eq_true, imp_iff_not_or] using hon), if_neg hon]
    exact ⟨rfl, State.only_refl _ _⟩

theorem State.wdArmed_wd (s : State) (r : RingId) : bget (s.wdArmed r).ring.wd (ringIx r) = some 0 := by
  show bget (if _ then _ else _) _ = _
  split
  · unfold bget
    simp
  · exact bget_bupd_same _ _ _

/-- The PDU that a device has taken of a position. -/
def State.pduNoted (s : State) (u : Pdu) : State :=
  { s with ring := { s.ring with pdus := bupd s.ring.pdus (Fin.ofNat 32 u.src.toNat) (fun _ => ⟨true, u, s.clk⟩) } }

section
variable (hidle : s.idle = false) (hres : s.ring.resetting = false) (hbyp : s.bypass r = false) (hon : s.onRing = true)
include hidle hres hbyp hon

theorem safetyPdu_bad (hcrc : u.crcOk = false) :
    exec (.safetyPduReceived r h u) s = .next ((s.pduSent r u).incSat (RING_CNT1.SCRC r)) := by
  show execSafetyPduReceived r h u s = _
  unfold execSafetyPduReceived
  exact (if_neg (by simp [hidle, hres, hbyp, hon])).trans (if_pos (by simp [hcrc]))

/-- A valid PDU in its window. -/
theorem exec_safetyPdu (hcrc : u.crcOk = true) (hmine : u.src.toNat = (if h then 0 else s.now % 32)) :
    exec (.safetyPduReceived r h u) s = .next
      (let x := bget s.ring.pdus (Fin.ofNat 32 u.src.toNat)
      if x.got ∧ u.seq = x.last.seq then
        if s.clk ≤ x.at_ + 2 then
          if { u with crcOk := true } = { x.last with crcOk := true } then (s.pduSent r u).wdArmed r
          else ((s.pduSent r u).wdArmed r).raiseDev 60
        else ((s.pduSent r u).wdArmed r).raiseDev 59
      else ((s.pduSent r u).wdArmed r).pduNoted u) := by
  obtain ⟨-, hsent⟩ := s.pduSent_spec r u
  have hclk : (s.pduSent r u).clk = s.clk := by
    unfold State.clk
    rw [hsent.2 .sys (by decide)]
  have hnow : (s.pduSent r u).now = s.now := by
    unfold State.now
    rw [hsent.2 .sys (by decide)]
  have hpdus : (s.pduSent r u).ring.pdus = s.ring.pdus := by rw [hsent.2 .ring (by decide)]
  show execSafetyPduReceived r h u s = _
  unfold execSafetyPduReceived
  refine (if_neg (by simp [hidle, hres, hbyp, hon])).trans ?_
  change (if (!u.crcOk) = true then _ else if u.src.toNat ≠ (if h = true then 0 else (s.pduSent r u).now % 32) then _ else
    if (bget (s.pduSent r u).ring.pdus (Fin.ofNat 32 u.src.toNat)).got ∧
        u.seq = (bget (s.pduSent r u).ring.pdus (Fin.ofNat 32 u.src.toNat)).last.seq then
      if (s.pduSent r u).clk ≤ (bget (s.pduSent r u).ring.pdus (Fin.ofNat 32 u.src.toNat)).at_ + 2 then
        Host.Outcome.next (if { u with crcOk := true } =
            { (bget (s.pduSent r u).ring.pdus (Fin.ofNat 32 u.src.toNat)).last with crcOk := true }
          then (s.pduSent r u).wdArmed r else ((s.pduSent r u).wdArmed r).raiseDev 60)
      else Host.Outcome.next (((s.pduSent r u).wdArmed r).raiseDev 59)
    else Host.Outcome.next (((s.pduSent r u).wdArmed r).pduNoted u)) = _
  rw [if_neg (by simp [hcrc]), hnow, if_neg (by simp [hmine]), hclk, hpdus]
  dsimp only
  split
  · split <;> rfl
  · rfl

end

theorem State.pduArmed_spec (s : State) (r : RingId) (u : Pdu) :
    bget ((s.pduSent r u).wdArmed r).ring.wd (ringIx r) = some 0 ∧ ((s.pduSent r u).wdArmed r).ring.pdus = s.ring.pdus ∧
    ((s.pduSent r u).wdArmed r).out = (s.pduSent r u).out ∧ ((s.pduSent r u).wdArmed r).clk = s.clk ∧
    s.only ((s.pduSent r u).wdArmed r) [.ring, .out] := by
  obtain ⟨-, hsent⟩ := s.pduSent_spec r u
  refine ⟨State.wdArmed_wd _ r, ?_, rfl, ?_, ?_⟩
  · exact (show _ = (s.pduSent r u).ring.pdus from rfl).trans (by rw [hsent.2 .ring (by decide)])
  · refine (show _ = (s.pduSent r u).sys.clk from rfl).trans ?_
    rw [hsent.2 .sys (by decide)]
    rfl
  · exact State.only_trans (State.only_mono hsent (by decide)) (State.only_iff.2 (by simp [State.wdArmed]))

theorem State.pduArmed_quiet {n : Src} (hq : s.quiet n) : ((s.pduSent r u).wdArmed r).quiet n := by
  have hflt : ((s.pduSent r u).wdArmed r).flt = s.flt := s.pduArmed_spec r u |>.2.2.2.2.2 .flt (by decide)
  unfold State.quiet State.src at *
  rw [hflt]
  exact hq

theorem ringWatchdog_expired (hexp : s.wdExpired (ringIx r) = true) (hq : s.quiet 58) :
    s.ends (.ringWatchdogExpiry r) (fun t => (t.src 58).cond ≠ 0 ∧ t.active 58 = true ∧ t.enablesLow) := by
  have hexec : exec (.ringWatchdogExpiry r) s = .next ((s.safeReq (.ringWdog r) false).raiseAs 58 0 (.ringWdog r)) :=
    congrArg Host.Outcome.next (if_pos hexp)
  have hlow := s.safeReq_enablesLow (.ringWdog r) false
  have hreact := ((Reacted.refl s).safeReq (.ringWdog r) false).src 58
  have hq' : (s.safeReq (.ringWdog r) false).quiet 58 := by
    unfold State.quiet
    rw [hreact.react]
    exact hq
  exact ⟨_, hexec, State.raiseAs_cond_ne 0 _ hq' (by decide), State.raiseAs_active 0 _ hq' (by decide),
    (Reacted.raiseAs (.refl _) 58 0 (.ringWdog r) hq').low hlow⟩

end

end Sys2Proof.Machine
end

section
/-! Pennants and safety PDUs (O40). -/

open Sys2Proof Sys2Proof.Machine

theorem safetyPdus {s : State} (hidle : s.idle = false) (hres : s.ring.resetting = false) (r : RingId) (u : Pdu) (h : Bool)
    (hbyp : s.bypass r = false) (hon : s.onRing = true) :
    let x := bget s.ring.pdus (Fin.ofNat 32 u.src.toNat)
    let passed := if s.relays r = true ∧ ¬ (s.rb RING_STAT.POS_VALID = true ∧ s.now % 32 = s.pos)
      then .pdu (s.outRing r) (pduWire u) :: s.out else s.out
    let mine := u.src.toNat = (if h then 0 else s.now % 32)
    (u.crcOk = false → s.ends (.safetyPduReceived r h u) (fun t =>
      t.rd (RING_CNT1.SCRC r) = satU (RING_CNT1.SCRC r).w (s.rd (RING_CNT1.SCRC r) + 1) ∧ t.out = passed ∧
      s.only t [.regs, .out] ∧ s.regsBut t [RING_CNT1.SCRC r])) ∧
    (u.crcOk = true → mine → ¬ (x.got = true ∧ u.seq = x.last.seq) →
      s.ends (.safetyPduReceived r h u) (fun t => bget t.ring.pdus (Fin.ofNat 32 u.src.toNat) = ⟨true, u, s.clk⟩ ∧
        bget t.ring.wd (ringIx r) = some 0 ∧ t.out = passed ∧ s.only t [.ring, .out])) ∧
    (u.crcOk = true → mine → x.got = true → u.seq = x.last.seq → x.at_ + 2 < s.clk → s.quiet 59 →
      s.ends (.safetyPduReceived r h u) (fun t => (t.src 59).cond ≠ 0 ∧ t.active 59 = true)) ∧
    (u.crcOk = true → mine → x.got = true → u.seq = x.last.seq → s.clk ≤ x.at_ + 2 →
      (u = { x.last with crcOk := true } →
        s.ends (.safetyPduReceived r h u) (fun t => bget t.ring.wd (ringIx r) = some 0 ∧ t.ring.pdus = s.ring.pdus ∧
          s.only t [.ring, .out])) ∧
      (u ≠ { x.last with crcOk := true } → s.quiet 60 →
        s.ends (.safetyPduReceived r h u) (fun t => (t.src 60).cond ≠ 0 ∧ t.active 60 = true))) := by
  intro x passed mine
  obtain ⟨hout, hsent⟩ := s.pduSent_spec r u
  obtain ⟨hwd, hpdus, harmedOut, hclk, harmed⟩ := s.pduArmed_spec r u
  have hvalid := exec_safetyPdu (r := r) (h := h) (u := u) hidle hres hbyp hon
  refine ⟨fun hcrc => ?_, fun hcrc hmine hnew => ?_, fun hcrc hmine hgot hseq hold hq => ?_,
    fun hcrc hmine hgot hseq hrecent => ⟨fun heq => ?_, fun hne hq => ?_⟩⟩
  · have hregs : (s.pduSent r u).regs = s.regs := hsent.2 .regs (by decide)
    refine ⟨_, safetyPdu_bad hidle hres hbyp hon hcrc, ?_, hout, ?_, ?_⟩
    · rw [← State.rd_of_regs hregs]
      exact crcCount_spec _ _
    · exact State.only_trans (State.only_mono hsent (by decide)) (State.only_iff.2 (by simp [State.incSat]))
    · exact State.regsBut_wr (fun f _ => State.rd_of_regs hregs f) (List.mem_singleton_self _) _
  · have hexec := hvalid hcrc hmine
    dsimp only at hexec
    rw [if_neg hnew] at hexec
    generalize (s.pduSent r u).wdArmed r = w at hexec hwd hpdus harmedOut hclk harmed
    refine ⟨_, hexec, ?_, hwd, harmedOut.trans hout, State.only_trans harmed (State.only_iff.2 (by simp [State.pduNoted]))⟩
    rw [← hclk]
    exact bget_bupd_same _ _ _
  · have hexec := hvalid hcrc hmine
    dsimp only at hexec
    rw [if_pos ⟨hgot, hseq⟩, if_neg (Nat.not_le_of_lt hold)] at hexec
    have hq' := State.pduArmed_quiet (r := r) (u := u) hq
    exact ⟨_, hexec, State.raiseAs_cond_ne 0 _ hq' (by decide), State.raiseDev_active hq' (by decide)⟩
  · have hexec := hvalid hcrc hmine
    dsimp only at hexec
    rw [if_pos ⟨hgot, hseq⟩, if_pos hrecent, if_pos (by rw [← hcrc]; exact heq.trans (by rw [hcrc]))] at hexec
    exact ⟨_, hexec, hwd, hpdus, harmed⟩
  · have hexec := hvalid hcrc hmine
    dsimp only at hexec
    rw [if_pos ⟨hgot, hseq⟩, if_pos hrecent, if_neg (fun heq => hne (by rw [← heq, ← hcrc]))] at hexec
    have hq' := State.pduArmed_quiet (r := r) (u := u) hq
    exact ⟨_, hexec, State.raiseAs_cond_ne 0 _ hq' (by decide), State.raiseDev_active hq' (by decide)⟩

/-- Settles O40: a Pennant and a PDU are taken in stages, each of which keeps what the later ones read. -/
theorem pennantsAndSafetyPdus : Obligations.PennantsAndSafetyPdus := fun s r p hidle hres =>
  ⟨fun hrole hcrc x d => pennantReceived_taken hidle hres hrole hcrc x d,
    fun hheads hcrc l => pennantReturn_taken hidle hres hheads hcrc l,
    fun hcrc x d => ⟨fun hrole => pennantReceived_bad hidle hres hrole hcrc x d,
      fun hheads => pennantReturn_bad hidle hres hheads hcrc x⟩,
    fun u h hbyp hon => safetyPdus hidle hres r u h hbyp hon, ringWatchdog_expired⟩

end


section
/-!
SUPPORT. A source of a quad that waits for its release at the end of pass B: its bit of `act` is that of the quad, where a
source of the device has bit 0.
-/

namespace Sys2Proof.Machine

/-- A device in RUN at the end of pass B with source 16, whose reaction is empty, found in quad 1. -/
def foundQuadDev : State :=
  { runningDev.updSrc 16 (fun x => { x with react := 0 }) with saf := { runningDev.saf with pass := 2, due := [(16, 4)] } }

/-- The end marker of a pass without transactions. -/
def endMarker : SpendIn := ⟨1, [], foundQuadDev.saf.sigA⟩

theorem foundQuadDev_matches : (!foundQuadDev.idle && !foundQuadDev.rb DBG_CTL.HALT_SAF && !foundQuadDev.passLate &&
    !foundQuadDev.compareOff && (foundQuadDev.safAccess endMarker.tx).passesAgree endMarker.sig) = true := by decide +kernel

theorem foundQuadDev_dueQuiet : foundQuadDev.dueQuiet := by decide +kernel

/-- Its release marks quad 1 and not place 0. -/
theorem foundQuadDev_released :
    (nextState (exec (.spend endMarker) foundQuadDev)).any (fun t => t.activeIn 16 0) = false := by decide +kernel

end Sys2Proof.Machine
end

section
open Sys2Proof Sys2Proof.Machine

/-- Refutes O45: what waits for its release may be source 16, which is active in the place of its quad; found in quad 1 and
released with a matched cycle it is not active in place 0, where the statement has it. -/
theorem not_safetyCycleRunsItsPasses : ¬ Obligations.SafetyCycleRunsItsPasses := by
  unfold Obligations.SafetyCycleRunsItsPasses
  intro h
  have hmatches := foundQuadDev_matches
  simp only [Bool.and_eq_true, Bool.not_eq_true'] at hmatches
  obtain ⟨⟨⟨⟨hidle, hhalt⟩, hlate⟩, hcompare⟩, hagree⟩ := hmatches
  obtain ⟨-, -, -, -, -, hend, -⟩ := h foundQuadDev hidle hhalt
  obtain ⟨-, hmatched, -⟩ := hend endMarker rfl ⟨rfl, hlate, .inl rfl⟩ rfl foundQuadDev_dueQuiet
  have htest := State.ends_test (hmatched hcompare hagree) (test := fun t => t.activeIn 16 0)
    (fun t ⟨_, _, _, _, hdue, _⟩ => hdue (16, 4) (List.mem_singleton_self _))
  rw [foundQuadDev_released] at htest
  exact Bool.noConfusion htest

end


section
/-!
SUPPORT. Range requests (R297 to R301, R324): whatever register writes, changes of the metrology and posted events keep,
they keep.
-/

namespace Sys2Proof.Machine

/-- The property is kept by register writes, by changes of the metrology and by posted events. -/
structure RangeWalk (Q : State → Prop) : Prop where
  wr : ∀ t f v, Q t → Q (t.wr f v)
  met : ∀ (t : State) (m : MetS), Q t → Q { t with met := m }
  event : ∀ t a b d, Q t → Q (t.event a b d)

namespace RangeWalk

theorem ite {Q : State → Prop} {t u : State} {p : Prop} [Decidable p] (h : Q t) (k : Q u) : Q (if p then t else u) := by
  split
  · exact h
  · exact k

theorem foldl {α : Type} {Q : State → Prop} {f : State → α → State} {t : State} (l : List α) (k : ∀ t a, Q t → Q (f t a))
    (h : Q t) : Q (l.foldl f t) := by
  induction l generalizing t with
  | nil => exact h
  | cons a l ih => exact ih (k t a h)

section
variable {Q : State → Prop} (w : RangeWalk Q) {t : State}
include w

theorem updSpare (h : Q t) (i : SpareId) (f : Spare → Spare) : Q (t.updSpare i f) := w.met _ _ h

theorem startChange (h : Q t) (i : SpareId) (r : RngReq) : Q (t.startChange i r) := w.updSpare h i _

theorem untake (h : Q t) (i : SpareId) : Q (t.untake i) := by
  unfold State.untake
  exact ite h (w.met _ _ h)

theorem rangeDeny (h : Q t) (c : Ch) : Q (t.rangeDeny c) := by
  unfold State.rangeDeny
  exact w.event _ _ _ _ (w.wr _ _ _ (w.wr _ _ _ h))

theorem roundEnd (h : Q t) : Q t.roundEnd := by
  unfold State.roundEnd
  extract_lets per busy met old
  have hold : Q old := by
    subst old
    split
    · exact ite h (w.met _ _ (w.wr _ _ _ h))
    · exact h
  exact ite (w.met _ _ (w.wr _ _ _ hold)) hold

theorem serveRange (h : Q t) : Q t.serveRange := by
  refine foldl _ (fun u i k => ite k ?_) h
  split
  · exact k
  · exact w.updSpare (w.startChange (w.met _ _ k) _ _) _ _

theorem preempt (h : Q t) : Q t.preempt := by
  unfold State.preempt
  extract_lets ids ps early later
  clear_value early later
  refine ite h ?_
  cases early with
  | some i => exact w.roundEnd (w.wr _ MET_IBXCNT.PREEMPT _ (w.updSpare (w.untake h i) i _))
  | none =>
    refine ite ?_ h
    cases later with
    | some i => exact w.wr _ MET_IBXCNT.PREEMPT _ (w.updSpare (w.met _ _ (w.untake h i)) i _)
    | none => exact h

theorem yieldTo (h : Q t) (c : Ch) : Q (t.yieldTo c) := by
  unfold State.yieldTo
  extract_lets ids later
  refine ite h ?_
  split
  · exact h
  · exact w.serveRange (w.updSpare (w.met _ _ h) _ _)

theorem rangeInRotation (h : Q t) (i : SpareId) (c : Ch) (rng : Fin 4) (auto : Bool) :
    Q (t.rangeInRotation i c rng auto) := by
  unfold State.rangeInRotation
  extract_lets p back
  have hback {u : State} (k : Q u) : Q (back u) := w.updSpare k i _
  exact ite (w.rangeDeny h c) (ite h (ite (w.roundEnd (w.startChange (w.untake h i) i _))
    (ite (w.roundEnd (hback h)) (w.roundEnd (hback (w.met _ _ (w.untake h i)))))))

theorem rangeAsk (h : Q t) (c : Ch) (rng : Fin 4) (auto : Bool) : Q (t.rangeAsk c rng auto) := by
  unfold State.rangeAsk
  extract_lets asked queued replace join
  have hasked : Q asked := w.wr _ _ _ h
  clear_value asked
  have hjoin : Q (join asked) := w.met _ _ hasked
  have hreplace : Q (replace asked) := w.met _ _ hasked
  refine ite (w.rangeDeny hasked c) ?_
  split
  next i _ =>
    exact ite (ite hasked (ite (w.serveRange (w.updSpare hasked i _)) (w.startChange hasked i _)))
      (ite hreplace (ite hasked hjoin))
  next _ =>
    split
    next i _ => exact w.rangeInRotation hasked i c rng auto
    next _ => exact ite hreplace (ite hasked (w.yieldTo (w.serveRange (w.preempt hjoin)) c))

theorem rangeReq (h : Q t) (c : Ch) (rng : Fin 4) (auto : Bool) : Q (t.rangeReq c rng auto) :=
  foldl _ (fun _ d k => w.rangeAsk k d rng auto) h

end

end RangeWalk

/-- A range request changes the metrology, registers and, of the host interface, the events that wait. -/
theorem State.rangeReq_spec (s : State) (c : Ch) (rng : Fin 4) (auto : Bool) :
    s.only (s.rangeReq c rng auto) [.met, .regs, .host] ∧
      (s.rangeReq c rng auto).host = { s.host with events := (s.rangeReq c rng auto).host.events } :=
  RangeWalk.rangeReq (Q := fun t => s.only t [.met, .regs, .host] ∧ t.host = { s.host with events := t.host.events })
    { wr := fun _ _ _ h => ⟨State.only_trans h.1 (State.only_iff.2 (by simp)), h.2⟩
      met := fun _ _ h => ⟨State.only_trans h.1 (State.only_iff.2 (by simp)), h.2⟩
      event := fun t _ _ _ h => by
        unfold State.event
        split
        · exact ⟨State.only_trans h.1 (State.only_iff.2 (by simp)), by rw [h.2]⟩
        · exact h }
    ⟨State.only_refl _ _, rfl⟩ c rng auto

end Sys2Proof.Machine
end


section
/-!
SUPPORT. The step of a channel through the operations that begin it (R345 to R350): what they leave as it stands.
-/

namespace Sys2Proof.Machine

/-- What the start of a step fixes of its run. -/
def Run.key (r : Run) : StepDesc × Option Ending × Nat × Nat × Nat × Bool × Option Upd :=
  (r.desc, r.ending, r.idx, r.ticks, r.gap, r.gapEntry, r.upd)

/-- The place of a channel in its queue: its state, the cause of a HOLD, its run, its count and what waits. -/
structure StepKey where
  st : ChSt
  why : Nat
  run : Option (StepDesc × Option Ending × Nat × Nat × Nat × Bool × Option Upd)
  cur : Nat
  resume : Bool
  gapT : Nat

/-- The place that a sequencer holds. -/
def ChanS.stepKey (x : ChanS) : StepKey := ⟨x.st, x.why, x.run.map Run.key, x.cur, x.resume, x.gapT⟩

/-- From `s` to `t` the step of channel `c` stands with its entry, and only channels and registers differ. -/
structure Stands (c : Ch) (s t : State) : Prop where
  key : (t.seq c).stepKey = (s.seq c).stepKey
  ledger : (t.chan c).ledger = (s.chan c).ledger
  only : s.only t [.ch, .regs]

namespace Stands

variable {c : Ch} {s t u : State}

theorem refl (c : Ch) (s : State) : Stands c s s := ⟨rfl, rfl, State.only_refl _ _⟩

theorem trans (h : Stands c s t) (k : Stands c t u) : Stands c s u :=
  ⟨k.key.trans h.key, k.ledger.trans h.ledger, State.only_trans h.only k.only⟩

theorem ite {p : Prop} [Decidable p] (h : Stands c s t) (k : Stands c s u) : Stands c s (if p then t else u) := by
  split
  · exact h
  · exact k

theorem foldl {α : Type} {f : State → α → State} (l : List α) (k : ∀ u a, Stands c s u → Stands c s (f u a))
    (h : Stands c s t) : Stands c s (l.foldl f t) := by
  induction l generalizing t with
  | nil => exact h
  | cons a l ih => exact ih (k t a h)

theorem wr (h : Stands c s t) (f : Fld) (v : Nat) : Stands c s (t.wr f v) :=
  ⟨h.key, h.ledger, State.wr_only h.only _ _ (by decide)⟩

/-- A change of a channel that keeps its step and its entry. -/
theorem updCh (h : Stands c s t) (d : Ch) (f : Chan → Chan)
    (hf : ∀ x, (f x).seq.stepKey = x.seq.stepKey ∧ (f x).ledger = x.ledger) : Stands c s (t.updCh d f) := by
  refine h.trans ?_
  have honly : t.only (t.updCh d f) [.ch, .regs] := State.updCh_within (State.only_refl t _) (by decide) d f
  by_cases hd : d = c
  · subst hd
    exact ⟨by unfold State.seq; rw [State.chan_updCh_same, (hf _).1], by rw [State.chan_updCh_same, (hf _).2], honly⟩
  · exact ⟨by unfold State.seq; rw [State.chan_updCh_other t f hd], by rw [State.chan_updCh_other t f hd], honly⟩

theorem updStage (h : Stands c s t) (d : Ch) (f : Stage → Stage) : Stands c s (t.updStage d f) := h.updCh d _ fun _ => ⟨rfl, rfl⟩

theorem updLoop (h : Stands c s t) (d : Ch) (f : LoopS → LoopS) : Stands c s (t.updLoop d f) := h.updCh d _ fun _ => ⟨rfl, rfl⟩

theorem updMet (h : Stands c s t) (d : Ch) (f : ChMet → ChMet) : Stands c s (t.updMet d f) := h.updCh d _ fun _ => ⟨rfl, rfl⟩

theorem updSeq (h : Stands c s t) (d : Ch) (f : ChanS → ChanS) (hf : ∀ x, (f x).stepKey = x.stepKey) :
    Stands c s (t.updSeq d f) := h.updCh d _ fun x => ⟨hf x.seq, rfl⟩

/-- A change of a run beside what its start fixes. -/
theorem updRun (h : Stands c s t) (d : Ch) (f : Run → Run) (hf : ∀ r, (f r).key = r.key) : Stands c s (t.updRun d f) := by
  refine h.updSeq d _ fun x => ?_
  unfold ChanS.stepKey
  simp only [Option.map_map, StepKey.mk.injEq, true_and, and_true]
  exact congrArg (Option.map · x.run) (funext hf)

theorem gatesOff1 (h : Stands c s t) (d : Ch) : Stands c s (t.gatesOff1 d) := by
  unfold State.gatesOff1 State.openLoop
  extract_lets on off opened
  have hopen : Stands c s opened :=
    updSeq ((h.updStage d (fun x => { x with gates := false })).updLoop d _) d _ (fun _ => rfl)
  exact ite (hopen.updLoop d _) hopen

theorem gatesOff (h : Stands c s t) (d : Ch) : Stands c s (t.gatesOff d) := .foldl _ (fun _ a k => k.gatesOff1 a) h

theorem stagedOpen (h : Stands c s t) (d : Ch) : Stands c s (t.stagedOpen d) :=
  .foldl _ (fun _ a k => (k.gatesOff1 a).updStage a _) h

theorem requestClose (h : Stands c s t) (d : Ch) : Stands c s (t.requestClose d) := by
  unfold State.requestClose
  extract_lets l iso ms
  refine ite (ite ?_ h) (ite (h.stagedOpen l) h)
  unfold State.startPulse
  exact ((Stands.foldl ms (fun _ a k => k.updStage a _) h).updStage l _).updMet l _

theorem limit1 (h : Stands c s t) (d : Ch) : Stands c s (t.limit1 d) := by
  unfold State.limit1
  extract_lets l kT kB fb e limited lim
  exact ((h.updLoop d _).wr _ _).wr _ _

theorem formSetpoint (h : Stands c s t) (d : Ch) : Stands c s (t.formSetpoint d) := by
  unfold State.formSetpoint
  extract_lets formed g
  have hformed : Stands c s formed := by
    subst formed
    split
    · exact h.updLoop d _
    · split
      next i tgt frac _ =>
        extract_lets moved kind driven
        have hmoved : Stands c s moved := h.updRun d _ (fun _ => rfl)
        have hdriven : Stands c s driven := .ite ((hmoved.updLoop d _).updSeq d _ (fun _ => by split <;> rfl)) hmoved
        exact hdriven.updLoop d _
  exact ite ((hformed.updLoop d _).limit1 d) (.foldl _ (fun _ a k => (k.updLoop a _).limit1 a) hformed)

theorem startGates (h : Stands c s t) (d : Ch) : Stands c s (t.startGates d) := by
  unfold State.startGates
  split
  · exact h
  · extract_lets asked gated
    have hasked : Stands c s asked := .ite (h.requestClose d) h
    have hgated : Stands c s gated := .foldl _ (fun _ a k => k.updStage a _) hasked
    exact ite h (ite (hgated.updRun d _ (fun _ => rfl)) hasked)

theorem armBank (h : Stands c s t) (d : Ch) (x : StepDesc) : Stands c s (t.armBank d x) := .foldl _ (fun _ a k => k.updLoop a _) h

theorem bankTo (h : Stands c s t) (d : Ch) (x : StepDesc) : Stands c s (t.bankTo d x) :=
  .foldl _ (fun _ a k => k.updLoop a _) (h.armBank d x)

theorem softStart (h : Stands c s t) (d : Ch) (x : StepDesc) : Stands c s (t.softStart d x) := by
  unfold State.softStart
  exact h.updSeq d _ (fun _ => rfl)

theorem run (h : Stands c s t) : (t.seq c).run.map Run.key = (s.seq c).run.map Run.key := congrArg StepKey.run h.key

theorem st (h : Stands c s t) : (t.seq c).st = (s.seq c).st := congrArg StepKey.st h.key

end Stands

end Sys2Proof.Machine
end


section
/-!
SUPPORT. A step that begins: what its start leaves of its run, its entry and its channel (R345, R350, R381).
-/

namespace Sys2Proof.Machine

theorem State.chan_of_ch {s t : State} (c : Ch) (h : t.ch = s.ch) : t.chan c = s.chan c := by
  unfold State.chan
  rw [h]

theorem State.seq_of_ch {s t : State} (c : Ch) (h : t.ch = s.ch) : t.seq c = s.seq c := congrArg Chan.seq (State.chan_of_ch c h)

/-- From `s` to `t` the step `d` of count `cnt` has begun in channel `c` after a gap of `gap` ticks; `entry` says whether the
gap opened its entry. -/
structure Begins (c : Ch) (cnt : Nat) (d : StepDesc) (gap : Nat) (entry : Bool) (s t : State) : Prop where
  run : (t.seq c).run.map Run.key = some (d, none, s.posOf (cq c) cnt, gap, gap, entry, none)
  ledger : if entry then (t.chan c).ledger = (s.chan c).ledger else (t.chan c).ledger.isOpen = true
  place : (t.seq c).resume = false ∧ (t.seq c).gapT = 0 ∧ (t.seq c).cur = cnt
  st : (t.seq c).st = .active ∨ (d.op = 17 ∧ (t.seq c).st = .hold ∧ (t.seq c).why = 5)
  host : t.host.cbuf = s.host.cbuf ∧ t.host.owed = s.host.owed ∧ t.host.qs = s.host.qs
  only : s.only t [.ch, .host, .regs, .written, .met, .ring]

namespace Begins

variable {c : Ch} {cnt gap : Nat} {d : StepDesc} {entry : Bool} {s t u : State}

theorem stands (h : Begins c cnt d gap entry s t) (k : Stands c t u) : Begins c cnt d gap entry s u where
  run := k.run.trans h.run
  ledger := by rw [k.ledger]; exact h.ledger
  place := by
    obtain ⟨hresume, hgap, hcur⟩ := h.place
    exact ⟨(congrArg StepKey.resume k.key).trans hresume, (congrArg StepKey.gapT k.key).trans hgap,
      (congrArg StepKey.cur k.key).trans hcur⟩
  st := by rw [k.st, show (u.seq c).why = (t.seq c).why from congrArg StepKey.why k.key]; exact h.st
  host := by rw [k.only.2 .host (by decide)]; exact h.host
  only := State.only_trans h.only (State.only_mono k.only (by decide))

/-- What changes neither the channels nor the host interface but its events keeps the begun step. -/
theorem aside (h : Begins c cnt d gap entry s t) (hch : u.ch = t.ch) (hhost : u.host = { t.host with events := u.host.events })
    (honly : t.only u [.ch, .host, .regs, .written, .met, .ring]) : Begins c cnt d gap entry s u where
  run := by rw [State.seq_of_ch c hch]; exact h.run
  ledger := by rw [State.chan_of_ch c hch]; exact h.ledger
  place := by rw [State.seq_of_ch c hch]; exact h.place
  st := by rw [State.seq_of_ch c hch]; exact h.st
  host := by rw [hhost]; exact h.host
  only := State.only_trans h.only honly

/-- A begun HOLD step takes its channel to HOLD (R381). -/
theorem hold (h : Begins c cnt d gap entry s t) (hop : d.op = 17) :
    Begins c cnt d gap entry s (t.updSeq c (fun x => { x with st := .hold, why := 5 })) where
  run := by rw [State.seq_updSeq_same]; exact h.run
  ledger := by rw [State.chan_updSeq_same]; exact h.ledger
  place := by rw [State.seq_updSeq_same]; exact h.place
  st := by rw [State.seq_updSeq_same]; exact .inr ⟨hop, rfl, rfl⟩
  host := h.host
  only := State.only_trans h.only (State.only_iff.2 (by simp))

/-- A step without current leaves its run as it stands as its gates go off; a GANG of two or four is apart. -/
theorem quietOff (h : Begins c cnt d gap entry s t) (hgang : d.op = 18 → d.x0 = 1) :
    Begins c cnt d gap entry s (t.quietOff c) := by
  unfold State.quietOff
  split
  next => exact h
  next r hr =>
    have hdesc : r.desc = d := by
      have hview := h.run
      rw [hr] at hview
      exact congrArg Prod.fst (Option.some.inj hview)
    extract_lets op off quiet
    have hoff : Begins c cnt d gap entry s quiet := h.stands (((Stands.refl c t).gatesOff c).updRun c _ (fun _ => rfl))
    have hopen : Begins c cnt d gap entry s (quiet.stagedOpen c) := hoff.stands ((Stands.refl c _).stagedOpen c)
    rw [if_neg (fun k => k.2 (hdesc ▸ hgang (hdesc ▸ BitVec.eq_of_toNat_eq k.1)))]
    split
    · exact hopen
    · split
      next h17 => exact hopen.hold (hdesc ▸ BitVec.eq_of_toNat_eq h17)
      · exact hoff

/-- The entry of a step that has started opens, unless a gap opened it. -/
theorem of_started {r : Run} (hrun : (t.seq c).run = some r) (hkey : r.key = (d, none, s.posOf (cq c) cnt, gap, gap, entry, none))
    (hledger : (t.chan c).ledger = (s.chan c).ledger) (hst : (t.seq c).st = .active)
    (hplace : (t.seq c).resume = false ∧ (t.seq c).gapT = 0 ∧ (t.seq c).cur = cnt)
    (hhost : t.host = s.host) (honly : s.only t [.ch, .host, .regs, .written, .met, .ring]) :
    Begins c cnt d gap entry s (if entry then t else (t.ledger c (fun g => g.opens t.now)).wr (CH_MSTAT.SAR_SUB c) 0) := by
  have hrun' : (t.seq c).run.map Run.key = some (d, none, s.posOf (cq c) cnt, gap, gap, entry, none) := by
    rw [hrun, ← hkey]
    rfl
  have hhost' : t.host.cbuf = s.host.cbuf ∧ t.host.owed = s.host.owed ∧ t.host.qs = s.host.qs := by
    rw [hhost]
    exact ⟨rfl, rfl, rfl⟩
  cases entry with
  | true => exact ⟨hrun', hledger, hplace, .inl hst, hhost', honly⟩
  | false =>
    rw [if_neg Bool.false_ne_true]
    have honly' : t.only (t.ledger c (fun g => g.opens t.now)) [.ch, .host, .regs, .written, .met, .ring] :=
      State.updCh_within (State.only_refl t _) (by decide) c _
    have hseq := t.seq_ledger c c (fun g => g.opens t.now)
    have hopen : ((t.ledger c (fun g => g.opens t.now)).chan c).ledger.isOpen = true := State.ledger_isOpen t c _
    have hhost'' := State.ledger_host t c (fun g => g.opens t.now)
    generalize t.ledger c (fun g => g.opens t.now) = u at honly' hseq hopen hhost''
    exact {
      run := by rw [State.wr_seq, hseq, hrun']
      ledger := by rw [State.wr_chan]; exact hopen
      place := by rw [State.wr_seq, hseq]; exact hplace
      st := by rw [State.wr_seq, hseq]; exact .inl hst
      host := by rw [State.wr_host, hhost'']; exact hhost'
      only := State.wr_only (State.only_trans honly honly') _ _ (by decide) }

end Begins

/-- The step setup of a channel leaves the depth of a queue. -/
theorem State.posOf_commitStep (s : State) (c : Ch) (q : QId) (cnt : Nat) : (s.commitIf (lateStep c)).posOf q cnt = s.posOf q cnt := by
  have hlow : ∀ q : QId, (HOST_QCFG.LOG2 q).key < 0x8000 * 32 := by decide
  have hlate : ∀ f : Fld, lateStep c f = true → 0x8000 * 32 ≤ f.key := by
    intro f hf
    unfold lateStep at hf
    simp only [Bool.and_eq_true, decide_eq_true_eq] at hf
    unfold Fld.key
    omega
  have hrd : (s.commitIf (lateStep c)).rd (HOST_QCFG.LOG2 q) = s.rd (HOST_QCFG.LOG2 q) := by
    unfold State.commitIf
    have hbase : ({ s with written := s.written.filter (fun e => !lateStep c e.1) } : State).rd (HOST_QCFG.LOG2 q) =
        s.rd (HOST_QCFG.LOG2 q) := rfl
    generalize ({ s with written := s.written.filter (fun e => !lateStep c e.1) } : State) = u at hbase
    have hall : ∀ e ∈ s.written.filter (fun e => lateStep c e.1), 0x8000 * 32 ≤ e.1.key :=
      fun e he => hlate _ (List.mem_filter.1 he).2
    generalize s.written.filter (fun e => lateStep c e.1) = l at hall
    induction l generalizing u with
    | nil => exact hbase
    | cons e l ih =>
      refine ih _ ?_ fun x hx => hall x (List.mem_cons_of_mem e hx)
      refine (State.rd_wr_other u e.2 fun hkey => ?_).trans hbase
      have hge := hall e List.mem_cons_self
      have hlt := hlow q
      omega
  unfold State.posOf State.qDepth
  rw [hrd]

/-- A valid step begins; a GANG of two or four is apart. -/
theorem State.beginStep_begins (s : State) (c : Ch) (cnt : Nat) (d : StepDesc) (gap : Nat) (entry : Bool)
    (hgang : d.op = 18 → d.x0 = 1) : Begins c cnt d gap entry s (s.beginStep c cnt d gap entry) := by
  unfold State.beginStep
  extract_lets committed l closed op fresh tgt carried tss r started opened ranged arrived banked lim i limited softened
    quiet
  have hcommitted : s.only committed [.ch, .host, .regs, .written, .met, .ring] ∧ committed.host = s.host ∧
      committed.ch = s.ch := by
    have honly := s.commitIf_only (lateStep c)
    exact ⟨State.only_mono honly (by decide), honly.2 .host (by decide), honly.2 .ch (by decide)⟩
  have hpos : committed.posOf (cq c) cnt = s.posOf (cq c) cnt := s.posOf_commitStep c _ _
  clear_value committed
  have hcarried : committed.only carried [.ch] ∧ (carried.chan c).ledger = (committed.chan c).ledger := by
    have hfresh : committed.only fresh [.ch] ∧ (fresh.chan c).ledger = (committed.chan c).ledger := by
      subst fresh
      split
      · exact ⟨State.only_refl _ _, rfl⟩
      · exact ⟨State.only_iff.2 (by simp), by rw [State.chan_updSeq_same]⟩
    clear_value fresh
    exact ⟨State.only_trans hfresh.1 (State.only_iff.2 (by simp [carried])), by unfold carried; rw [State.chan_updSeq_same, hfresh.2]⟩
  obtain ⟨honlyCarried, hledger⟩ := hcarried
  have hposCarried : carried.posOf (cq c) cnt = s.posOf (cq c) cnt :=
    (State.posOf_congr (honlyCarried.2 .regs (by decide)) _ _).trans hpos
  clear_value carried
  have hopened : Begins c cnt d gap entry s opened := by
    have hstarted : (started.seq c).run = some r ∧ (started.chan c).ledger = (s.chan c).ledger ∧ started.host = s.host ∧
        (started.seq c).resume = false ∧ (started.seq c).gapT = 0 ∧ (started.seq c).cur = cnt ∧ (started.seq c).st = .active ∧
        s.only started [.ch, .host, .regs, .written, .met, .ring] := by
      have hseq : started.seq c = _ := State.seq_updSeq_same carried c _
      rw [hseq]
      refine ⟨rfl, ?_, (honlyCarried.2 .host (by decide)).trans hcommitted.2.1, rfl, rfl, rfl, rfl, ?_⟩
      · unfold started
        rw [State.chan_updSeq_same, hledger, State.chan_of_ch c hcommitted.2.2]
      · exact State.only_trans hcommitted.1 (State.only_trans (State.only_mono honlyCarried (by decide))
          (State.only_iff.2 (by simp [started])))
    have hkey : r.key = (d, none, s.posOf (cq c) cnt, gap, gap, entry, none) := by
      rw [← hposCarried]
      rfl
    clear_value started
    obtain ⟨hrun, hstartedLedger, hhost, hresume, hgap, hcur, hst, honly⟩ := hstarted
    exact .of_started hrun hkey hstartedLedger hst ⟨hresume, hgap, hcur⟩ hhost honly
  clear_value opened
  have harrived : Begins c cnt d gap entry s arrived := by
    have hranged : Begins c cnt d gap entry s ranged := by
      subst ranged
      split
      · obtain ⟨honly, hhost⟩ := opened.rangeReq_spec c (Fin.ofNat 4 d.mrange.toNat) false
        exact hopened.aside (honly.2 .ch (by decide)) hhost (State.only_mono honly (by decide))
      · exact hopened
    clear_value ranged
    subst arrived
    generalize stepTags d = l
    induction l generalizing ranged with
    | nil => exact hranged
    | cons n l ih => exact ih _ (hranged.aside (u := ranged.tagArrive n) rfl rfl (State.only_iff.2 (by simp [State.tagArrive])))
  clear_value arrived
  have hsoftened : Begins c cnt d gap entry s softened := by
    have hbanked : Stands c arrived banked := (Stands.refl c arrived).bankTo c d
    have hlimited : Stands c arrived limited := .ite (hbanked.updLoop c _) hbanked
    exact harrived.stands (.ite (hlimited.softStart c d) hlimited)
  clear_value softened
  have hquiet : Begins c cnt d gap entry s quiet := by
    subst quiet
    split
    · exact hsoftened
    · exact hsoftened.quietOff hgang
  exact hquiet.stands (((Stands.refl c quiet).startGates c).formSetpoint c)

end Sys2Proof.Machine
end


section
/-!
SUPPORT. A channel on its way to a descriptor: what is passed completes, the step that held the channel ends (R333, R356,
R357, R381, R414).
-/

namespace Sys2Proof.Machine

/-- The completions in the buffer and the notices that wait for a shared slot. -/
def State.notices (s : State) : List CGroup := s.host.cbuf ++ s.host.owed.map Owed.grp

/-- From `s` to `t` only channels and the host interface differ, no completion is lost, and channel `c` is in the same state
with its loop open or closed as it was. -/
structure Moved (c : Ch) (s t : State) : Prop where
  only : s.only t [.ch, .host]
  notices : ∀ g ∈ s.notices, g ∈ t.notices
  st : (t.seq c).st = (s.seq c).st
  closed : (t.chan c).loop.closed = (s.chan c).loop.closed

namespace Moved

variable {c : Ch} {s t u : State}

theorem refl (c : Ch) (s : State) : Moved c s s := ⟨State.only_refl _ _, fun _ => id, rfl, rfl⟩

theorem trans (h : Moved c s t) (k : Moved c t u) : Moved c s u :=
  ⟨State.only_trans h.only k.only, fun g hg => k.notices g (h.notices g hg), k.st.trans h.st, k.closed.trans h.closed⟩

theorem regs (h : Moved c s t) : t.regs = s.regs := h.only.2 .regs (by decide)

theorem posOf (h : Moved c s t) (q : QId) (n : Nat) : t.posOf q n = s.posOf q n := State.posOf_congr h.regs q n

theorem startOk (h : Moved c s t) (d : StepDesc) (ok : Bool) : t.startOk c d ok = s.startOk c d ok :=
  State.startOk_congr h.regs (h.only.2 .qd (by decide)) c d ok

theorem updQ (h : Moved c s t) (q : QId) (f : SubQ → SubQ) : Moved c s (t.updQ q f) :=
  h.trans ⟨State.only_iff.2 (by simp), fun _ => id, rfl, rfl⟩

theorem updSeq (h : Moved c s t) (f : ChanS → ChanS) (hf : ∀ x, (f x).st = x.st) : Moved c s (t.updSeq c f) :=
  h.trans ⟨State.only_iff.2 (by simp), fun _ => id, by rw [State.seq_updSeq_same, hf], by rw [State.chan_updSeq_same]⟩

end Moved

/-- The notice of an UPDATE enters the buffer or waits. -/
theorem State.updNotice_notices (s : State) (q : QId) (cnt reason detail : Nat) :
    ⟨.shared, [noticeRec q.val (s.posOf q cnt) reason 19 0xFFFF detail], 0⟩ ∈ (s.updNotice q cnt reason detail).notices ∧
    ∀ g ∈ s.notices, g ∈ (s.updNotice q cnt reason detail).notices := by
  unfold State.updNotice State.noticeIn State.notices
  generalize noticeRec q.val (s.posOf q cnt) reason 19 0xFFFF detail = r
  split
  · exact ⟨by simp, fun g hg => by simpa using (by simpa using hg : _ ∨ _).imp id .inl⟩
  · simp only [State.complete, List.append_assoc]
    exact ⟨by simp, fun g hg => by simpa using (by simpa using hg : _ ∨ _).imp id .inr⟩

theorem State.updNotice_moved {c : Ch} {s t : State} (h : Moved c s t) (q : QId) (cnt reason detail : Nat) :
    Moved c s (t.updNotice q cnt reason detail) := by
  refine h.trans ⟨?_, (t.updNotice_notices q cnt reason detail).2, ?_, ?_⟩
  · unfold State.updNotice State.noticeIn
    exact State.only_ite (State.only_iff.2 (by simp)) (State.only_iff.2 (by simp [State.complete]))
  all_goals
    unfold State.updNotice State.noticeIn
    split <;> rfl

/-- The UPDATEs among what is passed complete with REVOKED (R357), and nothing else of what is passed does. -/
theorem State.passNotices {c : Ch} (q : QId) (base : Nat) (l : List PreDesc) (k : Nat) (s t : State) (h : Moved c s t) :
    Moved c s ((l.zipIdx k).foldl (fun u (p, i) => if p.isUpdate then u.updNotice q (base + i) rREVOKED 0 else u) t) ∧
    ∀ i, (∃ p ∈ l[i]?, p.isUpdate = true) → ⟨.shared, [noticeRec q.val (s.posOf q (base + (k + i))) rREVOKED 19 0xFFFF 0], 0⟩ ∈
      ((l.zipIdx k).foldl (fun u (p, i) => if p.isUpdate then u.updNotice q (base + i) rREVOKED 0 else u) t).notices := by
  induction l generalizing k s t with
  | nil => exact ⟨h, fun i ⟨_, hp, _⟩ => by simp at hp⟩
  | cons p l ih =>
    rw [List.zipIdx_cons, List.foldl_cons]
    have hstep : Moved c s (if p.isUpdate then t.updNotice q (base + k) rREVOKED 0 else t) := by
      split
      · exact State.updNotice_moved h _ _ _ _
      · exact h
    obtain ⟨hmoved, hlater⟩ := ih (k + 1) _ _ hstep
    refine ⟨hmoved, fun i ⟨x, hx, hupd⟩ => ?_⟩
    cases i with
    | zero =>
      have hp : p = x := by simpa using hx
      have hkept : ∀ g ∈ (if p.isUpdate then t.updNotice q (base + k) rREVOKED 0 else t).notices, g ∈
          ((l.zipIdx (k + 1)).foldl (fun u (p, i) => if p.isUpdate then u.updNotice q (base + i) rREVOKED 0 else u)
            (if p.isUpdate then t.updNotice q (base + k) rREVOKED 0 else t)).notices :=
        (ih (k + 1) _ _ (.refl c _)).1.notices
      refine hkept _ ?_
      rw [if_pos (hp ▸ hupd), Nat.add_zero, ← h.posOf]
      exact (t.updNotice_notices q (base + k) rREVOKED 0).1
    | succ i =>
      have := hlater i ⟨x, by simpa using hx, hupd⟩
      rwa [Nat.add_right_comm, Nat.add_assoc k i 1] at this

/-- A descriptor is reached: the prefetch is passed up to it, and it has left the prefetch. -/
theorem State.reach_spec (s : State) (c : Ch) (n : Nat) : Moved c s (s.reach c n) ∧
    ((s.reach c n).subq (cq c)).pre = (s.subq (cq c)).pre.drop (n - s.preBase c + 1) ∧
    ((s.reach c n).seq c).run = (s.seq c).run ∧ ((s.reach c n).seq c).gapT = (s.seq c).gapT ∧
    ∀ i, i < n - s.preBase c → (∃ p ∈ (s.subq (cq c)).pre[i]?, p.isUpdate = true) →
      ⟨.shared, [noticeRec c.val (s.posOf (cq c) (s.preBase c + i)) rREVOKED 19 0xFFFF 0], 0⟩ ∈ (s.reach c n).notices := by
  unfold State.reach State.passTo
  extract_lets base k pre noted dropped retired
  obtain ⟨hmoved, hnotes⟩ := State.passNotices (cq c) base (pre.take k) 0 s s (.refl c s)
  have hqs : noted.host.qs = s.host.qs ∧ noted.seq c = s.seq c := by
    refine List.foldlRecOn (motive := fun u : State => u.host.qs = s.host.qs ∧ u.seq c = s.seq c) _ _ ⟨rfl, rfl⟩ ?_
    rintro u ⟨hq, hseq⟩ ⟨p, i⟩ -
    dsimp only
    split
    · unfold State.updNotice State.noticeIn
      split
      · exact ⟨hq, hseq⟩
      · exact ⟨hq, hseq⟩
    · exact ⟨hq, hseq⟩
  replace hmoved : Moved c s noted := hmoved
  replace hnotes : ∀ i, (∃ p ∈ (pre.take k)[i]?, p.isUpdate = true) →
      ⟨.shared, [noticeRec c.val (s.posOf (cq c) (base + (0 + i))) rREVOKED 19 0xFFFF 0], 0⟩ ∈ noted.notices := hnotes
  clear_value noted
  have hretired : Moved c noted retired := ((Moved.refl c noted).updQ _ _).updQ _ _
  have hend : Moved c noted ((retired.updSeq c fun x => { x with cur := n - 1 }).popPre c) :=
    (hretired.updSeq (fun x => { x with cur := n - 1 }) (fun _ => rfl)).updQ _ _
  have hseq : retired.seq c = s.seq c := hqs.2
  refine ⟨hmoved.trans hend, ?_, ?_, ?_, fun i hi hupd => hend.notices _ ?_⟩
  · have hpre : (noted.subq (cq c)).pre = pre := by
      unfold State.subq
      rw [hqs.1]
      rfl
    unfold State.popPre
    rw [State.subq_updQ_same, State.updSeq_subq]
    unfold retired State.retireTo dropped
    rw [State.subq_updQ_same, State.subq_updQ_same]
    dsimp only
    rw [hpre, List.drop_drop]
  · unfold State.popPre
    rw [State.updQ_seq, State.seq_updSeq_same]
    rw [← hseq]
  · unfold State.popPre
    rw [State.updQ_seq, State.seq_updSeq_same]
    rw [← hseq]
  · have := hnotes i (by rwa [List.getElem?_take_of_lt hi])
    rwa [Nat.zero_add] at this

/-- The steps that an action passes over none of lie behind UPDATEs alone. -/
theorem stepTarget_passed {l : List PreDesc} {base n : Nat} {p : PreDesc} (h : stepTarget l base 0 = (n, some p)) :
    base ≤ n ∧ ∀ i, i < n - base → ∃ x ∈ l[i]?, x.isUpdate = true := by
  induction l generalizing base with
  | nil => simp [stepTarget] at h
  | cons x l ih =>
    unfold stepTarget at h
    split at h
    next hupd =>
      obtain ⟨hle, hall⟩ := ih h
      refine ⟨by omega, fun i hi => ?_⟩
      cases i with
      | zero => exact ⟨x, by simp, hupd⟩
      | succ i => simpa using hall i (by omega)
    next =>
      obtain ⟨rfl, -⟩ := Prod.mk.inj h
      exact ⟨Nat.le_refl _, fun i hi => by omega⟩

/-! ### A step that held its channel ends (R381) -/

/-- A channel without a gang. -/
def ChanS.alone (x : ChanS) : Prop := x.lead = none ∧ x.size = 1

theorem State.gang_alone {s : State} {c : Ch} (h : (s.seq c).alone) : s.gang c = [c] := by
  obtain ⟨hlead, hsize⟩ := h
  simp [State.gang, State.leader, State.members, hlead, hsize]

/-- A channel without a gang enters HOLD alone. -/
theorem State.enterHold_alone {s : State} {m : Ch} (h : (s.seq m).alone) (why : Nat) :
    s.chBut (s.enterHold m why) [m] ∧ ((s.enterHold m why).seq m).alone := by
  have hopen : s.stagedOpen m = (s.gatesOff1 m).updStage m (fun x => { x with
      iso := if x.iso = .opened then .opened else .opening, settle := false
      pulse := if x.pulse = some .close then none else x.pulse }) := by
    unfold State.stagedOpen State.forCh
    rw [State.gang_alone h]
    rfl
  refine ⟨fun d hd => ?_, ?_⟩
  · unfold State.enterHold
    rw [State.chan_updSeq_other _ _ (fun e => hd (by simp [e]))]
    exact s.stagedOpen_chBut m d (by rwa [State.gang_alone h])
  · unfold State.enterHold
    rw [State.seq_updSeq_same, hopen, State.seq_updStage]
    have hoff : ((s.gatesOff1 m).seq m).alone := by
      unfold State.gatesOff1 State.openLoop
      extract_lets on off opened
      have hopened : (opened.seq m).alone := by
        unfold opened
        rw [State.seq_updSeq_same]
        unfold off
        rw [State.seq_updLoop, State.seq_updStage]
        exact h
      split
      · rw [State.seq_updLoop]
        exact hopened
      · exact hopened
    exact hoff

/-- A gang that dissolves around a channel leaves its loop. -/
theorem State.gangDissolve_loop (s : State) (c : Ch) : ((s.gangDissolve c).chan c).loop = (s.chan c).loop := by
  unfold State.gangDissolve
  extract_lets ms
  split
  · rfl
  next hlead =>
    have halone : ((s.dissolve c).chan c).loop = (s.chan c).loop ∧
        ∀ m ∈ s.members c, ((s.dissolve c).seq m).lead = none ∧ ((s.dissolve c).seq m).size = 1 := by
      unfold State.dissolve
      rw [if_neg hlead]
      refine ⟨State.forCh_proj (fun t => (t.chan c).loop) (fun t m => ?_) s _, fun m hm => ?_⟩
      · by_cases hm : m = c
        · subst hm
          rw [State.chan_updSeq_same]
        · rw [State.chan_updSeq_other t _ hm]
      · refine State.forCh_establishes (Q := fun t => (t.seq m).lead = none ∧ (t.seq m).size = 1) (fun t a h => ?_)
          (fun t => ?_) s hm
        · by_cases ha : a = m
          · subst ha
            rw [State.seq_updSeq_same]
            exact ⟨rfl, rfl⟩
          · rwa [State.seq_updSeq_other t _ ha]
        · rw [State.seq_updSeq_same]
          exact ⟨rfl, rfl⟩
    obtain ⟨hloop, hgang⟩ := halone
    have hms : ∀ m ∈ ms, m ∈ s.members c ∧ m ≠ c := fun m hm => by simpa using List.mem_filter.1 hm
    refine (List.foldlRecOn (motive := fun t : State => (t.chan c).loop = (s.chan c).loop ∧
      ∀ m ∈ s.members c, (t.seq m).alone) ms _ ⟨hloop, hgang⟩ fun t ⟨hl, hg⟩ m hm => ?_).1
    obtain ⟨hmem, hne⟩ := hms m hm
    obtain ⟨hbut, halone⟩ := State.enterHold_alone (hg m hmem) 7
    refine ⟨by rw [hbut c (by simpa using fun e => hne e.symm)]; exact hl, fun k hk => ?_⟩
    by_cases hkm : k = m
    · rw [hkm]
      exact halone
    · have hchan := hbut k (by simpa using hkm)
      rw [show (t.enterHold m 7).seq k = t.seq k from congrArg Chan.seq hchan]
      exact hg k hk

theorem Chan.saveLedger_loop (x : Chan) : x.saveLedger.loop = x.loop := by
  unfold Chan.saveLedger
  extract_lets seq y
  split <;> rfl

/-- The step that held the channel completes. -/
theorem State.finishStep_moved (s : State) (c : Ch) (r : Run) (reason : Nat) (act : Byte) (next : Nat) :
    Moved c s (s.finishStep c r reason act next) := by
  unfold State.finishStep
  extract_lets closed posted alone
  have hposted : Moved c s posted := by
    refine ⟨?_, fun g hg => ?_, ?_, ?_⟩
    · exact State.only_trans (State.only_mono (State.updCh_only (State.only_refl s _) c _) (by decide))
        (show closed.only posted _ from State.only_iff.2 (by simp [posted, State.postStep, State.retireTo, State.complete]))
    · have hbuf : posted.notices = s.host.cbuf ++ [⟨.chan c, closed.stepRecs c r reason act.toNat next 0, 0⟩] ++
          s.host.owed.map Owed.grp := rfl
      rw [hbuf]
      unfold State.notices at hg
      simp only [List.mem_append] at hg ⊢
      exact hg.imp .inl id
    · exact congrArg ChanS.st (State.seq_ledger s c c _)
    · show ((s.ledger c _).chan c).loop.closed = _
      unfold State.ledger
      rw [State.chan_updCh_same]
      rw [Chan.saveLedger_loop]
  clear_value posted
  have halone : Moved c posted alone := by
    subst alone
    split
    · exact ⟨State.only_mono (State.gangDissolve_only (State.only_refl _ _) c) (by decide), fun g hg => by
        rw [State.notices, (State.gangDissolve_only (State.only_refl posted _) c).2 .host (by decide)]; exact hg,
        (State.gangDissolve_still (.refl c posted)).st, congrArg LoopS.closed (posted.gangDissolve_loop c)⟩
    · exact .refl c posted
  exact (hposted.trans halone).updSeq _ (fun _ => rfl)

end Sys2Proof.Machine
end


section
/-!
SUPPORT. A descriptor that a channel reaches begins or is refused (R330, R337, R338, R381).
-/

namespace Sys2Proof.Machine

/-- The ramp to zero stays under way as the setpoint is formed. -/
theorem State.wind_formSetpoint (s : State) (c d : Ch) : ((s.formSetpoint d).seq c).wind = (s.seq c).wind := by
  have hseq {t : State} (f : ChanS → ChanS) (hf : ∀ x, (f x).wind = x.wind) : ((t.updSeq d f).seq c).wind = (t.seq c).wind := by
    by_cases hd : d = c
    · subst hd
      rw [State.seq_updSeq_same, hf]
    · rw [State.seq_updSeq_other t _ hd]
  have hlimit (t : State) (a : Ch) : ((t.limit1 a).seq c).wind = (t.seq c).wind := by
    unfold State.limit1
    extract_lets l kT kB fb e limited lim
    show (limited.seq c).wind = _
    unfold limited
    rw [State.seq_updLoop]
  unfold State.formSetpoint
  extract_lets formed g
  have hformed : (formed.seq c).wind = (s.seq c).wind := by
    subst formed
    split
    · rw [State.seq_updLoop]
    · dsimp only
      rw [State.seq_updLoop]
      split
      · refine (hseq _ (fun x => by split <;> rfl)).trans ?_
        rw [State.seq_updLoop]
        exact hseq _ (fun _ => rfl)
      · exact hseq _ (fun _ => rfl)
  split
  · rw [hlimit, State.seq_updLoop, hformed]
  · refine (State.forCh_proj (fun t => (t.seq c).wind) (fun t a => ?_) formed _).trans hformed
    beta_reduce
    rw [hlimit, State.seq_updLoop]

theorem State.holdAfter_only (s : State) (c : Ch) (why len : Nat) : s.only (s.holdAfter c why len) [.ch, .regs] := by
  unfold State.holdAfter
  extract_lets l
  exact State.only_ite (State.only_trans (State.updCh_within (State.only_refl s _) (by decide) c _) (State.formSetpoint_only _ c))
    (State.only_mono (State.enterHold_only (State.only_refl s _) c why) (by decide))

/-- From `s` to `t` the descriptor of count `cnt`, which may not begin, has completed with FAULT, and channel `c` is in HOLD. -/
structure Refused (c : Ch) (cnt op : Nat) (s t : State) : Prop where
  hold : (t.seq c).st = .hold ∧ (t.seq c).why = 2 ∧ (t.seq c).run = none ∧ (t.seq c).cur = cnt
  cbuf : t.host.cbuf = s.host.cbuf ++ [⟨.chan c, [noticeRec c.val (s.posOf (cq c) cnt) rFAULT op 0xFFFF dINVALID], 0⟩]
  owed : t.host.owed = s.host.owed
  pre : (t.subq (cq c)).pre = (s.subq (cq c)).pre
  wind : (s.seq c).st ≠ .gap → (s.chan c).loop.closed = true → (t.seq c).wind.isSome = true

theorem State.invalidStep_refused (s : State) (c : Ch) (cnt op len : Nat) : Refused c cnt op s (s.invalidStep c cnt op len) := by
  unfold State.invalidStep
  extract_lets gap entry noted retired
  have hentry : entry.host = s.host ∧ entry.regs = s.regs ∧ entry.seq c = s.seq c ∧
      (entry.chan c).loop.closed = (s.chan c).loop.closed := by
    subst entry
    split
    · refine ⟨rfl, rfl, State.seq_ledger s c c _, ?_⟩
      unfold State.ledger
      rw [State.chan_updCh_same, Chan.saveLedger_loop]
    · exact ⟨rfl, rfl, rfl, rfl⟩
  clear_value entry
  obtain ⟨hhost, hregs, hseq, hclosed⟩ := hentry
  have hnoted : noted = entry.complete (.chan c) 0 [noticeRec c.val (s.posOf (cq c) cnt) rFAULT op 0xFFFF dINVALID] := by
    unfold noted
    rw [State.notice_room entry (.chan c) _ _ _ _ _ _ (.inl (by simp)), State.posOf_congr hregs]
    rfl
  have hretired : retired.host.cbuf = s.host.cbuf ++
        [⟨.chan c, [noticeRec c.val (s.posOf (cq c) cnt) rFAULT op 0xFFFF dINVALID], 0⟩] ∧
      retired.host.owed = s.host.owed ∧ (retired.subq (cq c)).pre = (s.subq (cq c)).pre ∧ retired.chan c = entry.chan c := by
    unfold retired State.retireTo
    rw [hnoted, State.subq_updQ_same]
    unfold State.subq
    refine ⟨?_, ?_, ?_, rfl⟩
    · rw [← hhost]
      rfl
    · rw [← hhost]
      rfl
    · rw [← hhost]
      rfl
  clear_value retired noted
  obtain ⟨hcbuf, howed, hpre, hchan⟩ := hretired
  have hheld : ∃ t : State, (if gap then retired.enterHold c 2 else retired.holdAfter c 2 len) = t ∧ Held c 2 retired t ∧
      t.host = retired.host ∧ (gap = false → (retired.chan c).loop.closed = true → (t.seq c).wind.isSome = true) := by
    refine ⟨_, rfl, ?_⟩
    cases gap with
    | true => exact ⟨retired.enterHold_held c 2, (State.enterHold_only (State.only_refl _ _) c 2).2 .host (by decide), nofun⟩
    | false =>
      refine ⟨retired.holdAfter_held c 2 len, (retired.holdAfter_only c 2 len).2 .host (by decide), fun _ hc => ?_⟩
      rw [if_neg Bool.false_ne_true]
      unfold State.holdAfter
      rw [if_pos hc, State.wind_formSetpoint, State.seq_updSeq_same]
      rfl
  obtain ⟨t, ht, hheld, hthost, hwind⟩ := hheld
  rw [ht]
  exact {
    hold := by rw [State.seq_updSeq_same]; exact ⟨hheld.st, hheld.why, hheld.run, rfl⟩
    cbuf := by rw [State.updSeq_host, hthost, hcbuf]
    owed := by rw [State.updSeq_host, hthost, howed]
    pre := by
      rw [State.updSeq_subq]
      unfold State.subq at hpre ⊢
      rw [hthost, hpre]
    wind := fun hst hc => by
      rw [State.seq_updSeq_same]
      exact hwind (decide_eq_false hst) (by rw [hchan, hclosed]; exact hc) }

/-! ### A channel that is ready -/

section
variable {s : State} {c : Ch} (cnt : Nat) (d : StepDesc) (ok : Bool)

/-- A channel that is ready and has reached its descriptor: what came before is done, and the descriptor is taken. -/
theorem State.beginReady_spec (t : State) (hst : (s.seq c).st ≠ .gap) (h : Moved c s t) : ∃ u : State, Moved c t u ∧
    (u.subq (cq c)).pre = (t.subq (cq c)).pre ∧
    (s.startOk c d ok = true → (d.op = 18 → d.x0 = 1) → Begins c cnt d 0 false u (t.beginReady c cnt d ok)) ∧
    (s.startOk c d ok = false → Refused c cnt d.op.toNat u (t.beginReady c cnt d ok) ∧
      ((s.chan c).loop.closed = true → ((t.beginReady c cnt d ok).seq c).wind.isSome = true)) := by
  have htake (u : State) (hu : Moved c s u) :
      (s.startOk c d ok = true → (d.op = 18 → d.x0 = 1) → Begins c cnt d 0 false u (u.takeDesc c cnt d ok 0 false 0)) ∧
      (s.startOk c d ok = false → Refused c cnt d.op.toNat u (u.takeDesc c cnt d ok 0 false 0) ∧
        ((s.chan c).loop.closed = true → ((u.takeDesc c cnt d ok 0 false 0).seq c).wind.isSome = true)) := by
    unfold State.takeDesc
    rw [hu.startOk]
    refine ⟨fun hok hgang => ?_, fun hbad => ?_⟩
    · rw [if_pos hok]
      exact u.beginStep_begins c cnt d 0 false hgang
    · rw [if_neg (by rw [hbad]; exact Bool.false_ne_true)]
      have hrefused := u.invalidStep_refused c cnt d.op.toNat 0
      exact ⟨hrefused, fun hc => hrefused.wind (by rw [hu.st]; exact hst) (by rw [hu.closed]; exact hc)⟩
  unfold State.beginReady
  split
  next => exact ⟨t, .refl c t, rfl, htake t h⟩
  next r _ =>
    have hu := t.finishStep_moved c r 0 0 (t.posOf (cq c) cnt)
    exact ⟨_, hu, (t.finishStep_finished c r 0 0 _).pre, htake _ (h.trans hu)⟩

end

/-- A channel that is ready is in no gap. -/
theorem State.ready_st {s : State} {c : Ch} (h : s.ready c = true) : (s.seq c).st ≠ .gap := by
  intro hgap
  unfold State.ready at h
  simp [hgap] at h

/-- The count of a queue index lies at that index (R414). -/
theorem State.posOf_countAt (s : State) (c : Ch) (idx : Nat) : s.posOf (cq c) (s.countAt c idx) = idx % s.qDepth (cq c) := by
  unfold State.posOf State.countAt
  extract_lets n base
  have hn : 0 < n := by
    show 0 < 2 ^ _
    positivity
  change (base + (idx % n + n - base % n) % n) % n = idx % n
  have hb := Nat.mod_lt base hn
  have hi := Nat.mod_lt idx hn
  rw [Nat.add_mod_mod, ← Nat.mod_add_mod, show base % n + (idx % n + n - base % n) = idx % n + n from by omega,
    Nat.add_mod_right, Nat.mod_mod]

/-- A step command takes its descriptor. -/
theorem exec_stepCmd (s : State) (c : Ch) (idx : Half) (d : StepDesc) :
    ∀ p ∈ stepCmds, exec (p.2 c idx d) s = .next (s.takeStep p.1 c idx d) ∧ p.1 < 256 := by
  simp only [stepCmds, List.forall_mem_cons, List.not_mem_nil, false_imp_iff, implies_true, and_true]
  exact ⟨⟨rfl, by decide⟩, ⟨rfl, by decide⟩, ⟨rfl, by decide⟩, ⟨rfl, by decide⟩, ⟨rfl, by decide⟩, ⟨rfl, by decide⟩,
    ⟨rfl, by decide⟩, ⟨rfl, by decide⟩, ⟨rfl, by decide⟩, ⟨rfl, by decide⟩, ⟨rfl, by decide⟩, ⟨rfl, by decide⟩,
    ⟨rfl, by decide⟩, ⟨rfl, by decide⟩, ⟨rfl, by decide⟩, ⟨rfl, by decide⟩⟩

/-- A step that has begun, as the run shows it. -/
theorem Begins.runs {c : Ch} {cnt gap : Nat} {d : StepDesc} {entry : Bool} {s t : State} (h : Begins c cnt d gap entry s t) :
    ∃ r, (t.seq c).run = some r ∧ r.desc = d ∧ r.idx = s.posOf (cq c) cnt ∧ r.failed = false ∧ r.ticks = gap ∧ r.gap = gap ∧
      r.gapEntry = entry := by
  obtain ⟨r, hr, hkey⟩ := Option.map_eq_some_iff.1 h.run
  obtain ⟨hdesc, hrest⟩ := Prod.mk.inj hkey
  obtain ⟨hending, hrest⟩ := Prod.mk.inj hrest
  obtain ⟨hidx, hrest⟩ := Prod.mk.inj hrest
  obtain ⟨hticks, hrest⟩ := Prod.mk.inj hrest
  obtain ⟨hgap, hrest⟩ := Prod.mk.inj hrest
  obtain ⟨hentry, -⟩ := Prod.mk.inj hrest
  exact ⟨r, hr, hdesc, hidx, by simp [Run.failed, hending], hticks, hgap, hentry⟩

end Sys2Proof.Machine
end


section
/-!
SUPPORT. What a step command and STEP_BEGIN leave (R330, R333, R338, R345, R357).
-/

namespace Sys2Proof.Machine

section
variable {s : State} {c : Ch} {idx : Half} {d : StepDesc} {op : Nat}

/-- What the queue of a channel has passed up to its descriptor. -/
def State.passedTo (s t : State) (c : Ch) (n : Nat) : Prop :=
  (t.seq c).cur = n ∧ (t.subq (cq c)).pre = (s.subq (cq c)).pre.drop (n - s.preBase c + 1) ∧
  ∀ i, i < n - s.preBase c → (∃ p ∈ (s.subq (cq c)).pre[i]?, p.isUpdate = true) →
    ⟨.shared, [noticeRec c.val (s.posOf (cq c) (s.preBase c + i)) rREVOKED 19 0xFFFF 0], 0⟩ ∈ t.notices

/-- A ready channel that reaches a descriptor: it begins or is refused. -/
theorem State.reach_takes (hready : s.ready c = true) (n : Nat) (d : StepDesc) (ok : Bool) :
    ∃ t, (s.reach c n).beginReady c n d ok = t ∧
    (s.startOk c d ok = true → (d.op = 18 → d.x0 = 1) → s.passedTo t c n ∧
      (∃ r, (t.seq c).run = some r ∧ r.desc = d ∧ r.idx = s.posOf (cq c) n ∧ r.failed = false) ∧
      (t.chan c).ledger.isOpen = true ∧ (t.seq c).resume = false ∧ (t.seq c).gapT = 0 ∧
      ((t.seq c).st = .active ∨ (d.op = 17 ∧ (t.seq c).st = .hold ∧ (t.seq c).why = 5)) ∧
      s.only t [.ch, .host, .regs, .written, .met, .ring]) ∧
    (s.startOk c d ok = false → s.passedTo t c n ∧ (t.seq c).st = .hold ∧ (t.seq c).why = 2 ∧ (t.seq c).run = none ∧
      ((s.chan c).loop.closed = true → (t.seq c).wind.isSome = true) ∧
      ∃ g ∈ t.host.cbuf.getLast?, g.owner = .chan c ∧
        g.recs = [noticeRec c.val (s.posOf (cq c) n) rFAULT d.op.toNat 0xFFFF dINVALID]) := by
  obtain ⟨hreach, hpre, -, -, hnotes⟩ := s.reach_spec c n
  obtain ⟨u, hafter, hupre, hok, hbad⟩ := State.beginReady_spec n d ok (s.reach c n) (State.ready_st hready) hreach
  have hpost := hafter.notices
  have hu := hreach.trans hafter
  refine ⟨_, rfl, fun hstart hgang => ?_, fun hstart => ?_⟩
  · have hb := hok hstart hgang
    generalize (s.reach c n).beginReady c n d ok = t at hb
    obtain ⟨hcbuf, howed, hqs⟩ := hb.host
    obtain ⟨hresume, hgapT, hcur⟩ := hb.place
    obtain ⟨r, hr, hdesc, hidx, hfailed, -⟩ := hb.runs
    have hnotices : t.notices = u.notices := by
      unfold State.notices
      rw [hcbuf, howed]
    refine ⟨⟨hcur, ?_, fun i hi hx => ?_⟩, ⟨r, hr, hdesc, hidx.trans (hu.posOf _ _), hfailed⟩, hb.ledger, hresume, hgapT, hb.st,
      State.only_trans (State.only_mono hu.only (by decide)) hb.only⟩
    · unfold State.subq at hupre hpre ⊢
      rw [hqs, hupre, hpre]
    · rw [hnotices]
      exact hpost _ (hnotes i hi hx)
  · obtain ⟨hr, hwind⟩ := hbad hstart
    generalize (s.reach c n).beginReady c n d ok = t at hr hwind
    obtain ⟨hst, hwhy, hrun, hcur⟩ := hr.hold
    have hlast := hr.cbuf
    refine ⟨⟨hcur, hr.pre.trans (hupre.trans hpre), fun i hi hx => ?_⟩, hst, hwhy, hrun, hwind, ?_⟩
    · have := hpost _ (hnotes i hi hx)
      unfold State.notices at this ⊢
      rw [hlast, hr.owed]
      simp only [List.mem_append] at this ⊢
      exact this.imp .inl id
    · rw [hlast, hu.posOf]
      exact ⟨_, List.getLast?_concat, rfl, rfl⟩

/-- A step gap that waits for a valid step begins it with its ticks. -/
theorem State.gap_takes (hst : (s.seq c).st = .gap) (n : Nat) (d : StepDesc) (ok : Bool) (hok : s.startOk c d ok = true)
    (hgang : d.op = 18 → d.x0 = 1) :
    ∃ u, Moved c (s.condGone 12 c) u ∧ u = (s.condGone 12 c).reach c n ∧
      Begins c n d (s.seq c).gapT true u (u.takeDesc c n d ok (s.seq c).gapT true 0) := by
  obtain ⟨hreach, -⟩ := (s.condGone 12 c).reach_spec c n
  refine ⟨_, hreach, rfl, ?_⟩
  have hok' : (s.condGone 12 c).startOk c d ok = true := (State.startOk_congr (by rfl) (by rfl) c d ok).trans hok
  unfold State.takeDesc
  rw [hreach.startOk, if_pos hok']
  exact State.beginStep_begins _ c n d _ true hgang

end

end Sys2Proof.Machine
end

section
/-! A step command and STEP_BEGIN (O31, O33). -/

open Sys2Proof Sys2Proof.Machine

/-- Settles O31: the descriptor of a ready channel is reached, and begins or is refused (`State.reach_takes`); a gap begins it
with its own ticks. -/
theorem stepCommandsBegin : Obligations.StepCommandsBegin := by
  refine ⟨fun s c idx d hready p hp => ?_, fun s c idx d hst p hp => ?_⟩
  · intro e ok
    obtain ⟨hexec, hsmall⟩ := exec_stepCmd s c idx d p hp
    have htake : s.takeStep p.1 c idx d = (s.reach c (s.countAt c idx.toNat)).beginReady c (s.countAt c idx.toNat) e
        (s.stepOk c (s.countAt c idx.toNat) e) := if_pos hready
    have hop : e.op.toNat = p.1 := by
      show (BitVec.ofNat 8 p.1).toNat = p.1
      rw [BitVec.toNat_ofNat, Nat.mod_eq_of_lt hsmall]
    have hopEq (k : Nat) (hk : k < 256) (h : e.op = BitVec.ofNat 8 k) : p.1 = k := by
      rw [← hop, h, BitVec.toNat_ofNat, Nat.mod_eq_of_lt hk]
    obtain ⟨t, ht, hbegins, hrefused⟩ := State.reach_takes hready (s.countAt c idx.toNat) e (s.stepOk c (s.countAt c idx.toNat) e)
    rw [htake, ht] at hexec
    rw [s.posOf_countAt] at hbegins hrefused
    refine ⟨fun hok hgang => ?_, fun hbad => ?_⟩
    · obtain ⟨-, ⟨r, hr, hdesc, hidx, hfailed⟩, hopen, hresume, hgapT, hstate, honly⟩ :=
        hbegins hok (fun h => hgang (hopEq 18 (by decide) h))
      refine ⟨t, hexec, by rw [hr, Option.map_some, hdesc, hidx, hfailed], hopen, hresume, hgapT, ?_, honly⟩
      exact hstate.imp_right fun ⟨h17, hrest⟩ => ⟨hopEq 17 (by decide) h17, hrest⟩
    · obtain ⟨-, hhold, hwhy, hrun, hwind, g, hg, howner, hrecs⟩ := hrefused hbad
      exact ⟨t, hexec, hhold, hwhy, hrun, hwind, g, hg, howner, by rw [hrecs, hop]⟩
  · intro e hok hgang
    obtain ⟨hexec, hsmall⟩ := exec_stepCmd s c idx d p hp
    have hop : e.op.toNat = p.1 := by
      show (BitVec.ofNat 8 p.1).toNat = p.1
      rw [BitVec.toNat_ofNat, Nat.mod_eq_of_lt hsmall]
    have hopEq (k : Nat) (hk : k < 256) (h : e.op = BitVec.ofNat 8 k) : p.1 = k := by
      rw [← hop, h, BitVec.toNat_ofNat, Nat.mod_eq_of_lt hk]
    obtain ⟨u, -, hu, hbegins⟩ := State.gap_takes hst (s.countAt c idx.toNat) e _ hok (fun h => hgang (hopEq 18 (by decide) h))
    have hnot : s.ready c ≠ true := fun h => State.ready_st h hst
    have htake : s.takeStep p.1 c idx d = u.takeDesc c (s.countAt c idx.toNat) e (s.stepOk c (s.countAt c idx.toNat) e)
        (s.seq c).gapT true 0 := by
      rw [hu]
      exact (if_neg hnot).trans (if_pos hst)
    obtain ⟨r, hr, hdesc, -, -, hticks, hgap, hentry⟩ := hbegins.runs
    refine ⟨_, hexec.trans (congrArg _ htake), by rw [hr, Option.map_some, hdesc, hticks, hgap, hentry], ?_⟩
    exact hbegins.st.imp_right fun ⟨h17, hrest⟩ => ⟨hopEq 17 (by decide) h17, hrest⟩

/-- Settles O33: what the prefetch holds before the first step are UPDATEs, each of which is passed with its notice; then the
step begins or is refused as with a step command (`State.reach_takes`). -/
theorem stepBeginTakesTheQueueHead : Obligations.StepBeginTakesTheQueueHead := by
  intro s c
  refine ⟨fun hready => ?_, fun hready => ⟨fun n hn => ?_, fun n p hn => ?_⟩⟩
  · exact if_neg (by simp [hready])
  · refine (if_pos hready).trans ?_
    rw [hn]
  · intro d passed
    have hexec : exec (.stepBegin c) s = .next ((s.reach c n).beginReady c n d p.ok) := by
      refine (if_pos hready).trans ?_
      rw [hn]
      rfl
    obtain ⟨hle, hupd⟩ := stepTarget_passed hn
    have hpassed (t : State) (h : s.passedTo t c n) : passed t := by
      obtain ⟨hcur, hpre, hnotes⟩ := h
      refine ⟨hcur, by rw [hpre, Nat.sub_add_comm hle], fun i hi => ?_⟩
      exact ⟨_, hnotes i hi (hupd i hi), rfl, rfl⟩
    obtain ⟨t, ht, hbegins, hrefused⟩ := State.reach_takes hready n d p.ok
    rw [ht] at hexec
    refine ⟨fun hok hgang => ?_, fun hbad => ?_⟩
    · obtain ⟨hto, ⟨r, hr, hdesc, hidx, hfailed⟩, hopen, hresume, -, hstate, -⟩ := hbegins hok hgang
      exact ⟨t, hexec, hpassed t hto, by rw [hr, Option.map_some, hdesc, hidx, hfailed], hopen, hresume, hstate⟩
    · obtain ⟨hto, hhold, hwhy, hrun, -, g, hg, howner, hrecs⟩ := hrefused hbad
      exact ⟨t, hexec, hpassed t hto, hhold, hwhy, hrun, g, hg, howner, hrecs⟩

end


section
/-!
SUPPORT. PREARM, the arming of a gap, and UPDATE (R71 to R75, R223, R354 to R357).
-/

namespace Sys2Proof.Machine

/-! ### PREARM -/

/-- A change that is made in each channel of a list, once or more often. -/
theorem State.forCh_updCh {f : Chan → Chan} (hf : ∀ x, f (f x) = f x) (l : List Ch) (s : State) (d : Ch) :
    (s.forCh l (fun t a => t.updCh a f)).chan d = if d ∈ l then f (s.chan d) else s.chan d := by
  induction l generalizing s with
  | nil => rfl
  | cons a l ih =>
    show ((s.updCh a f).forCh l (fun t a => t.updCh a f)).chan d = _
    rw [ih]
    by_cases ha : a = d
    · subst ha
      rw [State.chan_updCh_same, hf, if_pos List.mem_cons_self, ite_self]
    · rw [State.chan_updCh_other s f ha]
      have hmem : d ∈ a :: l ↔ d ∈ l := by simp [Ne.symm ha]
      simp only [hmem]

section
variable {s : State} {c : Ch}

/-- PREARM: the step stands in the shadow banks of the gang. -/
theorem prearm_arms {r : Run} {p : PreDesc} {n : Nat} (hrun : (s.seq c).run = some r) (hfailed : r.failed = false)
    (hstop : actStop r.desc.ec0.action = false) (hop : r.desc.op ≠ 31)
    (hn : stepTarget (s.subq (cq c)).pre (s.preBase c) (actSkip r.desc.ec0.action) = (n, some p)) (hok : p.ok = true) :
    s.ends (.prearm c) (fun t => t.seq c = { s.seq c with armed := some n, prearm := true } ∧
      (∀ d ∈ s.gang c, (t.chan d).loop = { (s.chan d).loop with shd := stepBank (parseStep p.words) (s.chan d).loop.act.slot }) ∧
      s.chBut t (c :: s.gang c) ∧ s.only t [.ch]) := by
  have hexec : exec (.prearm c) s = .next ((s.armBank c (parseStep p.words)).updSeq c (fun x => { x with armed := some n, prearm := true })) := by
    show execPrearm c s = _
    unfold execPrearm
    rw [hrun]
    dsimp only
    rw [if_neg (by rw [hfailed, hstop, decide_eq_false hop]; decide), hn]
    exact if_pos hok
  let f (x : Chan) : Chan := { x with loop := { x.loop with shd := stepBank (parseStep p.words) x.loop.act.slot } }
  have hchan (d : Ch) : (s.armBank c (parseStep p.words)).chan d = if d ∈ s.gang c then f (s.chan d) else s.chan d :=
    State.forCh_updCh (f := f) (fun _ => rfl) (s.gang c) s d
  have honly : s.only (s.armBank c (parseStep p.words)) [.ch] :=
    State.forCh_only _ (fun _ d k => State.updCh_only k d _) (State.only_refl _ _)
  generalize s.armBank c (parseStep p.words) = u at hexec hchan honly
  have hseq : u.seq c = s.seq c := by
    unfold State.seq
    rw [hchan]
    split <;> rfl
  have hloop (d : Ch) : ((u.updSeq c (fun x => { x with armed := some n, prearm := true })).chan d).loop = (u.chan d).loop := by
    by_cases hd : c = d
    · subst hd
      rw [State.chan_updSeq_same]
    · rw [State.chan_updSeq_other u _ hd]
  refine ⟨_, hexec, by rw [State.seq_updSeq_same, hseq], fun d hd => ?_, fun d hd => ?_, State.updCh_only honly c _⟩
  · rw [hloop, hchan, if_pos hd]
  · have hne : c ≠ d := fun e => hd (e ▸ List.mem_cons_self)
    rw [State.chan_updSeq_other u _ hne, hchan, if_neg (fun h => hd (List.mem_cons_of_mem _ h))]

/-! ### The arming of a gap -/

/-- A gap without a step starves its channel. -/
theorem gapArm_starves (hst : (s.seq c).st = .gap) (hpre : (s.subq (cq c)).pre = []) :
    s.ends (.stepGapArm c) (fun t => (t.seq c).st = .hold ∧ (t.seq c).why = 3 ∧ (t.chan c).ledger.isOpen = false ∧
      (∃ g ∈ t.host.cbuf.getLast?, g.recs = [noticeRec c.val (s.posOf (cq c) (s.seq c).cur) rSTARVED 0
        (s.posOf (cq c) (s.preBase c)) 0])) := by
  obtain ⟨u, hu⟩ : ∃ u, (s.condGone 12 c).ledger c Ledger.withdraw = u := ⟨_, rfl⟩
  have hregs : u.regs = s.regs := by
    rw [← hu]
    rfl
  have hopen : (u.chan c).ledger.isOpen = false := by
    rw [← hu, State.ledger_isOpen]
    unfold Ledger.withdraw
    split
    · rfl
    next h => simpa using h
  have hexec : exec (.stepGapArm c) s = .next ((u.complete (.chan c) 0 [noticeRec c.val (s.posOf (cq c) (s.seq c).cur) rSTARVED 0
      (s.posOf (cq c) (s.preBase c)) 0]).enterHold c 3) := by
    refine (if_pos hst).trans ?_
    have hn : stepTarget ((s.condGone 12 c).subq (cq c)).pre ((s.condGone 12 c).preBase c) 0 = (s.preBase c, none) := by
      show stepTarget (s.subq (cq c)).pre (s.preBase c) 0 = _
      rw [hpre]
      rfl
    rw [hn]
    dsimp only
    rw [hu, State.notice_room u (.chan c) _ _ _ _ _ _ (.inl (by simp)), State.posOf_congr hregs,
      State.posOf_congr hregs]
    have hcur : (u.seq c).cur = (s.seq c).cur := by
      rw [← hu, State.seq_ledger]
      rfl
    rw [hcur]
    rfl
  have hheld := (u.complete (.chan c) 0 [noticeRec c.val (s.posOf (cq c) (s.seq c).cur) rSTARVED 0
      (s.posOf (cq c) (s.preBase c)) 0]).enterHold_held c 3
  refine ⟨_, hexec, hheld.st, hheld.why, ?_, ?_⟩
  · rw [hheld.ledger, State.complete_chan]
    exact hopen
  · rw [hheld.cbuf]
    exact ⟨_, List.getLast?_concat, rfl⟩

/-- A gap begins its step. -/
theorem gapArm_begins {p : PreDesc} {rest : List PreDesc} (hst : (s.seq c).st = .gap) (hpre : (s.subq (cq c)).pre = p :: rest)
    (hp : p.isUpdate = false) (hok : s.startOk c (parseStep p.words) p.ok = true) (hop : (parseStep p.words).op ≠ 18) :
    s.ends (.stepGapArm c) (fun t => (t.seq c).run.map (fun r => (r.desc, r.gap)) = some (parseStep p.words, (s.seq c).gapT) ∧
      (t.subq (cq c)).pre = rest) := by
  obtain ⟨u, -, hu, hbegins⟩ := State.gap_takes hst (s.preBase c) (parseStep p.words) p.ok hok (fun h => absurd h hop)
  have hexec : exec (.stepGapArm c) s = .next (u.takeDesc c (s.preBase c) (parseStep p.words) p.ok (s.seq c).gapT true 0) := by
    refine (if_pos hst).trans ?_
    have hn : stepTarget ((s.condGone 12 c).subq (cq c)).pre ((s.condGone 12 c).preBase c) 0 = (s.preBase c, some p) := by
      show stepTarget (s.subq (cq c)).pre (s.preBase c) 0 = _
      rw [hpre, stepTarget_head hp]
    rw [hn, hu]
    rfl
  have hupre : (u.subq (cq c)).pre = rest := by
    obtain ⟨-, hdrop, -⟩ := (s.condGone 12 c).reach_spec c (s.preBase c)
    rw [hu, hdrop]
    show (s.subq (cq c)).pre.drop (s.preBase c - s.preBase c + 1) = rest
    rw [hpre, Nat.sub_self]
    rfl
  obtain ⟨r, hr, hdesc, -, -, -, hgap, -⟩ := hbegins.runs
  refine ⟨_, hexec, by rw [hr, Option.map_some, hdesc, hgap], ?_⟩
  unfold State.subq at hupre ⊢
  rw [hbegins.host.2.2]
  exact hupre

/-! ### UPDATE -/

/-- An UPDATE has ended with a notice, in the buffer or behind those that wait for a slot. -/
def State.notedIn (s t : State) (g : List (List Word)) : Prop :=
  ∃ x ∈ (if s.sharedRoom = true then t.host.cbuf else t.host.owed.map Owed.grp).getLast?, x.owner = .shared ∧ x.recs = g

theorem State.endUpdate_spec (s : State) (c : Ch) (cnt reason detail : Nat) :
    s.notedIn (s.endUpdate c cnt reason detail) [noticeRec c.val (s.posOf (cq c) cnt) reason 19 0xFFFF detail] ∧
    ((s.endUpdate c cnt reason detail).seq c).run = (s.seq c).run ∧ s.only (s.endUpdate c cnt reason detail) [.ch, .host] := by
  unfold State.endUpdate
  extract_lets q noted popped retired
  have hnoted : s.notedIn noted [noticeRec c.val (s.posOf (cq c) cnt) reason 19 0xFFFF detail] ∧ noted.seq c = s.seq c ∧
      s.only noted [.ch, .host] := by
    refine ⟨?_, ?_, (State.updNotice_moved (.refl c s) q cnt reason detail).only⟩
    · unfold State.notedIn noted State.updNotice State.noticeIn
      cases hroom : s.sharedRoom with
      | true =>
        rw [if_pos rfl, if_neg (by simp)]
        exact ⟨_, List.getLast?_concat, rfl, rfl⟩
      | false =>
        rw [if_neg Bool.false_ne_true, if_pos (by simp)]
        refine ⟨⟨.shared, [noticeRec c.val (s.posOf (cq c) cnt) reason 19 0xFFFF detail], 0⟩, ?_, rfl, rfl⟩
        rw [List.map_append]
        exact List.getLast?_concat
    · unfold noted State.updNotice State.noticeIn
      split <;> rfl
  clear_value noted
  obtain ⟨hnote, hseq, honly⟩ := hnoted
  have hkept {u v : State} (hu : s.notedIn u [noticeRec c.val (s.posOf (cq c) cnt) reason 19 0xFFFF detail] ∧ u.seq c = s.seq c ∧
      s.only u [.ch, .host]) (f : SubQ → SubQ) (hv : v = u.updQ q f) :
      s.notedIn v [noticeRec c.val (s.posOf (cq c) cnt) reason 19 0xFFFF detail] ∧ v.seq c = s.seq c ∧ s.only v [.ch, .host] := by
    rw [hv]
    exact ⟨hu.1, hu.2.1, State.only_trans hu.2.2 (State.only_iff.2 (by simp))⟩
  have hpopped : s.notedIn popped [noticeRec c.val (s.posOf (cq c) cnt) reason 19 0xFFFF detail] ∧ popped.seq c = s.seq c ∧
      s.only popped [.ch, .host] := by
    subst popped
    split
    · exact hkept ⟨hnote, hseq, honly⟩ _ rfl
    · exact ⟨hnote, hseq, honly⟩
  clear_value popped
  have hretired : s.notedIn retired [noticeRec c.val (s.posOf (cq c) cnt) reason 19 0xFFFF detail] ∧ retired.seq c = s.seq c ∧
      s.only retired [.ch, .host] := by
    subst retired
    split
    · exact hpopped
    · exact hkept hpopped _ rfl
  clear_value retired
  obtain ⟨hnote', hseq', honly'⟩ := hretired
  refine ⟨hnote', ?_, State.only_trans honly' (State.only_iff.2 (by simp))⟩
  rw [State.seq_updSeq_same, ← hseq']

section
variable {idx : Half} {d : StepDesc}

theorem update_waits (h : s.posOf (cq c) (s.preBase c) ≠ idx.toNat % s.qDepth (cq c)) : exec (.update c idx d) s = .next s :=
  if_pos h

section
variable (hpos : s.posOf (cq c) (s.preBase c) = idx.toNat % s.qDepth (cq c))
include hpos

theorem update_taken {r : Run} (hrun : (s.seq c).run = some r) (hupd : r.upd = none) (hfailed : r.failed = false)
    (hidx : d.p16.toNat = r.idx) (hok : s.stepOk c (s.preBase c) { d with op := 19 } = true)
    (hvals : updOk r.desc { d with op := 19 } = true) : s.ends (.update c idx d) (fun t =>
      ((t.seq c).run.bind (·.upd)).map (·.desc) = some { d with op := 19 } ∧ s.chBut t [c] ∧ s.only t [.ch]) := by
  have hexec : exec (.update c idx d) s = .next (s.updRun c (fun r => { r with upd := some ⟨{ d with op := 19 }, s.preBase c, false⟩ })) := by
    refine (if_neg (not_not.2 hpos)).trans ?_
    rw [hrun]
    refine (if_neg (by simp [hupd])).trans ((if_neg (by simp [hfailed])).trans ((if_pos hidx).trans (if_pos ?_)))
    rw [hok, hvals]
    rfl
  refine ⟨_, hexec, by rw [State.run_updRun, hrun]; rfl, fun x hx => ?_, State.updCh_only (State.only_refl _ _) c _⟩
  exact State.chan_updCh_other s _ (fun e => hx (by simp [e]))

theorem update_refused {r : Run} (hrun : (s.seq c).run = some r) (hupd : r.upd = none) (hfailed : r.failed = false)
    (hidx : d.p16.toNat = r.idx) (hbad : s.stepOk c (s.preBase c) { d with op := 19 } = false ∨ updOk r.desc { d with op := 19 } = false) :
    s.ends (.update c idx d) (fun t => (t.seq c).run = some r ∧
      s.notedIn t [noticeRec c.val (idx.toNat % s.qDepth (cq c)) rFAULT 19 0xFFFF dINVALID]) := by
  have hexec : exec (.update c idx d) s = .next (s.endUpdate c (s.preBase c) rFAULT dINVALID) := by
    refine (if_neg (not_not.2 hpos)).trans ?_
    rw [hrun]
    refine (if_neg (by simp [hupd])).trans ((if_neg (by simp [hfailed])).trans ((if_pos hidx).trans (if_neg ?_)))
    rcases hbad with h | h
    · rw [h]
      exact Bool.false_ne_true
    · rw [h, Bool.and_false]
      exact Bool.false_ne_true
  obtain ⟨hnoted, hkept, -⟩ := s.endUpdate_spec c (s.preBase c) rFAULT dINVALID
  rw [hpos] at hnoted
  exact ⟨_, hexec, hkept.trans hrun, hnoted⟩

theorem update_gone (hrun : (s.seq c).run = none) : s.ends (.update c idx d) (fun t => s.only t [.ch, .host] ∧
    s.notedIn t [noticeRec c.val (idx.toNat % s.qDepth (cq c)) rREVOKED 19 0xFFFF 0]) := by
  have hexec : exec (.update c idx d) s = .next (s.endUpdate c (s.preBase c) rREVOKED 0) := by
    refine (if_neg (not_not.2 hpos)).trans ?_
    rw [hrun]
  obtain ⟨hnoted, -, honly⟩ := s.endUpdate_spec c (s.preBase c) rREVOKED 0
  rw [hpos] at hnoted
  exact ⟨_, hexec, honly, hnoted⟩

end

end

/-- At its boundary an UPDATE replaces the masked fields and completes. -/
theorem updateApply_applies {r : Run} {u : Upd} (hrun : (s.seq c).run = some r) (hupd : r.upd = some u) (hdue : u.due = true)
    (hfailed : r.failed = false) (hending : r.ending.any (fun e => e.at_ = .due) = false) :
    s.ends (.updateApply c) (fun t => (t.seq c).run.map (fun x => (x.desc, x.upd)) = some (updated r.desc u.desc, none) ∧
      s.only t [.ch, .host, .regs] ∧ s.notedIn t [noticeRec c.val (s.posOf (cq c) u.cnt) 0 19 0xFFFF 0]) := by
  let d := updated r.desc u.desc
  let m0 := u.desc.x2.getLsbD 0 || (decide (d.op = 3) && u.desc.x2.getLsbD 1)
  obtain ⟨v, hv⟩ : ∃ v, (s.updRun c (fun x => { x with
      desc := d, upd := none, goal := d.goal
      iset := if d.op = 6 ∧ x.phase = 1 then d.x0.toInt else x.iset
      tgt0 := if m0 ∧ d.op ≠ 6 then s.instant c d else x.tgt0, frac0 := if m0 ∧ d.op ≠ 6 then 0 else x.frac0 })).updSeq c
        (fun x => { x with
          rate := if u.desc.x2.getLsbD 2 ∧ u.desc.slew ≠ 0 then u.desc.slew.toNat else x.rate
          armed := none, prearm := false }) = v := ⟨_, rfl⟩
  have hvrun : ∃ x, (v.seq c).run = some x ∧ x.desc = d ∧ x.upd = none := by
    rw [← hv, State.seq_updSeq_same]
    exact ⟨_, (State.run_updRun s c _).trans (by rw [hrun]; rfl), rfl, rfl⟩
  have hvonly : s.only v [.ch] := by
    rw [← hv]
    exact State.updCh_only (State.updCh_only (State.only_refl _ _) c _) c _
  have hexec : exec (.updateApply c) s = .next
      (((v.bankTo c { d with prof := (v.chan c).loop.act.slot.val }).endUpdate c u.cnt 0 0).formSetpoint c) := by
    show execUpdateApply c s = _
    unfold execUpdateApply
    rw [hrun]
    dsimp only
    rw [hupd]
    dsimp only
    rw [if_neg (by rw [hdue, hfailed, hending]; decide), ← hv]
  obtain ⟨x, hx, hdesc, hnone⟩ := hvrun
  clear hv
  have hbanked : Stands c v (v.bankTo c { d with prof := (v.chan c).loop.act.slot.val }) := (Stands.refl c v).bankTo c _
  have hbankOnly : v.only (v.bankTo c { d with prof := (v.chan c).loop.act.slot.val }) [.ch] :=
    State.forCh_only _ (fun _ d k => State.updCh_only k d _) (State.forCh_only _ (fun _ d k => State.updCh_only k d _)
      (State.only_refl _ _))
  generalize v.bankTo c { d with prof := (v.chan c).loop.act.slot.val } = w at hexec hbanked hbankOnly
  have hswonly : s.only w [.ch] := State.only_trans hvonly hbankOnly
  obtain ⟨hnoted, hrunKept, honly⟩ := w.endUpdate_spec c u.cnt 0 0
  generalize w.endUpdate c u.cnt 0 0 = y at hexec hnoted hrunKept honly
  have hformed : Stands c y (y.formSetpoint c) := (Stands.refl c y).formSetpoint c
  refine ⟨_, hexec, ?_, ?_, ?_⟩
  · have hkey : ((y.formSetpoint c).seq c).run.map Run.key = (v.seq c).run.map Run.key :=
      hformed.run.trans ((congrArg (Option.map Run.key) hrunKept).trans hbanked.run)
    rw [hx] at hkey
    obtain ⟨z, hz, hzkey⟩ := Option.map_eq_some_iff.1 hkey
    rw [hz, Option.map_some, ← hnone]
    rw [show updated r.desc u.desc = x.desc from hdesc.symm]
    exact congrArg some (congrArg (fun k : StepDesc × Option Ending × Nat × Nat × Nat × Bool × Option Upd =>
      (k.1, k.2.2.2.2.2.2)) hzkey)
  · exact State.only_trans (State.only_mono hswonly (by decide)) (State.only_trans (State.only_mono honly (by decide))
      (State.only_mono hformed.only (by decide)))
  · have hroom : w.sharedRoom = s.sharedRoom := by
      unfold State.sharedRoom State.sharedUse
      rw [hswonly.2 .host (by decide)]
    rw [State.posOf_congr (hswonly.2 .regs (by decide))] at hnoted
    unfold State.notedIn at hnoted ⊢
    rw [hformed.only.2 .host (by decide), ← hroom]
    exact hnoted

end

end Sys2Proof.Machine
end

section
/-! Arming and UPDATE (O35). -/

open Sys2Proof Sys2Proof.Machine

/-- Settles O35: each clause is one way through PREARM, STEP_GAP_ARM, UPDATE or UPDATE_APPLY, stated apart. -/
theorem armingAndUpdates : Obligations.ArmingAndUpdates := by
  refine ⟨fun s c => ⟨fun r p n hrun hfailed hstop hop hn hok => prearm_arms hrun hfailed hstop hop hn hok,
    fun hst hpre => gapArm_starves hst hpre, fun p rest hst hpre hp hok hop => gapArm_begins hst hpre hp hok hop⟩,
    fun s c idx d => ?_, fun s c r u hrun hupd hdue hfailed hending => updateApply_applies hrun hupd hdue hfailed hending⟩
  exact ⟨fun h => update_waits h, fun hpos => ⟨fun r hrun hupd hfailed hidx =>
    ⟨fun hok hvals => update_taken hpos hrun hupd hfailed hidx hok hvals,
      fun hbad => update_refused hpos hrun hupd hfailed hidx hbad⟩, fun hrun => update_gone hpos hrun⟩⟩

end


section
/-!
SUPPORT. What the operations of a tick boundary leave (R29, R50): `SameTick s t` holds of every way from `s` to `t` that
keeps the tick, the mode, the settings of the tick and the pins, followed operation by operation.
-/

namespace Sys2Proof.Machine

/-- What the system holds of its tick, its mode and its resets. -/
def SysS.timed (x : SysS) : Nat × Option RstKind × Mode × Option Mode × Option (Nat × Nat) × Nat × Nat :=
  (x.tick, x.held, x.mode, x.trans, x.perNew, x.ppt, x.tlm)

/-- The tick, the mode, the settings of the tick, the pins and the counter of the host's poll are the same. -/
structure SameTick (s t : State) : Prop where
  sys : t.sys.timed = s.sys.timed
  pins : t.pins = s.pins
  pollT : t.host.pollT = s.host.pollT

namespace SameTick

theorem refl (s : State) : SameTick s s := ⟨rfl, rfl, rfl⟩

theorem trans {s t u : State} (h : SameTick s t) (k : SameTick t u) : SameTick s u :=
  ⟨k.sys.trans h.sys, k.pins.trans h.pins, k.pollT.trans h.pollT⟩

theorem ite {s t u : State} {p : Prop} [Decidable p] (h : SameTick s t) (k : SameTick s u) :
    SameTick s (if p then t else u) := by
  split
  · exact h
  · exact k

theorem foldl {α : Type} {f : State → α → State} {s t : State} (l : List α) (k : ∀ t a, SameTick s t → SameTick s (f t a))
    (h : SameTick s t) : SameTick s (l.foldl f t) := by
  induction l generalizing t with
  | nil => exact h
  | cons a l ih => exact ih (k t a h)

theorem of_pair_snd {α : Type} {s t : State} {x : α} {p : α × State} (h : SameTick s p.2) (e : p = (x, t)) :
    SameTick s t := by
  rw [e] at h
  exact h

/-- Neither the system, nor the pins, nor the host interface differ. -/
theorem of_only {s t u : State} (h : SameTick s t) {ps : List Part} (ho : t.only u ps)
    (hp : .sys ∉ ps ∧ .pins ∉ ps ∧ .host ∉ ps) : SameTick s u := by
  obtain ⟨hsys, hpins, hhost⟩ := hp
  exact h.trans ⟨by rw [ho.2 .sys hsys], ho.2 .pins hpins, by rw [ho.2 .host hhost]⟩

section
variable {s t : State} (h : SameTick s t)
include h

theorem withHost (x : HostS) (hx : x.pollT = t.host.pollT := by exact rfl) : SameTick s { t with host := x } :=
  h.trans ⟨rfl, rfl, hx⟩
theorem withSys (x : SysS) (hx : x.timed = t.sys.timed := by exact rfl) : SameTick s { t with sys := x } :=
  h.trans ⟨hx, rfl, rfl⟩
theorem withRegs (x : RegFile) : SameTick s { t with regs := x } := h.trans ⟨rfl, rfl, rfl⟩
theorem withRing (x : RingS) : SameTick s { t with ring := x } := h.trans ⟨rfl, rfl, rfl⟩
theorem withFlt (x : FltS) : SameTick s { t with flt := x } := h.trans ⟨rfl, rfl, rfl⟩
theorem withSaf (x : SafS) : SameTick s { t with saf := x } := h.trans ⟨rfl, rfl, rfl⟩
theorem withMet (x : MetS) : SameTick s { t with met := x } := h.trans ⟨rfl, rfl, rfl⟩
theorem withMot (x : MotS) : SameTick s { t with mot := x } := h.trans ⟨rfl, rfl, rfl⟩

end

end SameTick

section
variable {s₀ s : State} (h : SameTick s₀ s)
include h

theorem State.wr_tick (f : Fld) (v : Nat) : SameTick s₀ (s.wr f v) := h.trans ⟨rfl, rfl, rfl⟩
theorem State.wb_tick (f : Fld) (v : Bool) : SameTick s₀ (s.wb f v) := h.trans ⟨rfl, rfl, rfl⟩
theorem State.wrS_tick (f : Fld) (v : Int) : SameTick s₀ (s.wrS f v) := h.trans ⟨rfl, rfl, rfl⟩
theorem State.incSat_tick (f : Fld) : SameTick s₀ (s.incSat f) := h.trans ⟨rfl, rfl, rfl⟩
theorem State.updCh_tick (c : Ch) (f : Chan → Chan) : SameTick s₀ (s.updCh c f) := h.trans ⟨rfl, rfl, rfl⟩
theorem State.updStage_tick (c : Ch) (f : Stage → Stage) : SameTick s₀ (s.updStage c f) := h.trans ⟨rfl, rfl, rfl⟩
theorem State.updLoop_tick (c : Ch) (f : LoopS → LoopS) : SameTick s₀ (s.updLoop c f) := h.trans ⟨rfl, rfl, rfl⟩
theorem State.updMet_tick (c : Ch) (f : ChMet → ChMet) : SameTick s₀ (s.updMet c f) := h.trans ⟨rfl, rfl, rfl⟩
theorem State.updSeq_tick (c : Ch) (f : ChanS → ChanS) : SameTick s₀ (s.updSeq c f) := h.trans ⟨rfl, rfl, rfl⟩
theorem State.updRun_tick (c : Ch) (f : Run → Run) : SameTick s₀ (s.updRun c f) := h.trans ⟨rfl, rfl, rfl⟩
theorem State.updQd_tick (q : Quad) (f : QuadS → QuadS) : SameTick s₀ (s.updQd q f) := h.trans ⟨rfl, rfl, rfl⟩
theorem State.updQ_tick (q : QId) (f : SubQ → SubQ) : SameTick s₀ (s.updQ q f) := h.trans ⟨rfl, rfl, rfl⟩
theorem State.updSrc_tick (n : Src) (f : SrcS → SrcS) : SameTick s₀ (s.updSrc n f) := h.trans ⟨rfl, rfl, rfl⟩
theorem State.updCmp_tick (i : CmpId) (f : CmpS → CmpS) : SameTick s₀ (s.updCmp i f) := h.trans ⟨rfl, rfl, rfl⟩
theorem State.emit_tick (o : Out) : SameTick s₀ (s.emit o) := h.trans ⟨rfl, rfl, rfl⟩
theorem State.takeNat_tick : SameTick s₀ s.takeNat.2 := h.trans ⟨rfl, rfl, rfl⟩
theorem State.takeInt_tick : SameTick s₀ s.takeInt.2 := h.trans ⟨rfl, rfl, rfl⟩
theorem State.irq_tick (v : Fin 8) : SameTick s₀ (s.irq v) := h.trans ⟨rfl, rfl, rfl⟩
theorem State.event_tick (a b c : Nat) : SameTick s₀ (s.event a b c) :=
  h.trans ⟨by simp, by simp, by rw [State.event_host]; split <;> rfl⟩
theorem State.gatesOff_tick (c : Ch) : SameTick s₀ (s.gatesOff c) := 
  .foldl _ (fun t d k => k.of_only (State.gatesOff1_only (State.only_refl t [.ch]) d) (by decide)) h
theorem State.stagedOpen_tick (c : Ch) : SameTick s₀ (s.stagedOpen c) := h.of_only (State.stagedOpen_only s c) (by decide)
theorem State.motGatesOff_tick : SameTick s₀ s.motGatesOff := h.of_only s.motGatesOff_only (by decide)
theorem State.commitIf_tick (p : Fld → Bool) : SameTick s₀ (s.commitIf p) := h.of_only (s.commitIf_only p) (by decide)

end

theorem State.updSpare_tick {s₀ s : State} (h : SameTick s₀ s) (i : SpareId) (f : Spare → Spare) : SameTick s₀
    (s.updSpare i f) := by
  unfold State.updSpare
  exact SameTick.withMet h _

theorem State.compareTick_tick {s₀ s : State} (h : SameTick s₀ s) (i : SpareId) (src : Int) (oth : Int) : SameTick s₀
    (s.compareTick i src oth) := by
  unfold State.compareTick
  extract_lets +onlyGivenNames p
  refine .ite h ?_
  extract_lets +onlyGivenNames k c m own act a b bad
  exact State.updSpare_tick h _ _

theorem State.compareTicks_tick {s₀ s : State} (h : SameTick s₀ s) (i : TickIn) : SameTick s₀ (s.compareTicks i) := by
  unfold State.compareTicks
  extract_lets +onlyGivenNames ids
  exact SameTick.foldl _ (fun _ _ h2 => State.compareTick_tick h2 _ _ _) h

theorem State.ledger_tick {s₀ s : State} (h : SameTick s₀ s) (c : Ch) (f : Ledger → Ledger) : SameTick s₀ (s.ledger c
    f) := by
  unfold State.ledger
  exact State.updCh_tick h _ _

theorem State.measureTick_tick {s₀ s : State} (h : SameTick s₀ s) (ch : List ChTick) : SameTick s₀ (s.measureTick ch) :=
  h.of_only (State.measureTick_meas (State.only_refl _ _) ch) (by decide)

theorem State.clear_tick {s₀ s : State} (h : SameTick s₀ s) (n : Src) (c : Ch) : SameTick s₀ (s.clear n c) := by
  unfold State.clear
  extract_lets +onlyGivenNames bit
  refine .ite h ?_
  extract_lets +onlyGivenNames s1
  have hs1 : SameTick s₀ s1 := State.updSrc_tick h _ _
  exact State.event_tick hs1 _ _ _

theorem State.clearIfGone_tick {s₀ s : State} (h : SameTick s₀ s) (n : Src) (c : Ch) : SameTick s₀ (s.clearIfGone n
    c) := by
  unfold State.clearIfGone
  exact .ite (State.clear_tick h _ _) h

theorem State.condClears_tick {s₀ s : State} (h : SameTick s₀ s) : SameTick s₀ (s.condClears) := by
  unfold State.condClears
  extract_lets +onlyGivenNames ns s1
  have hs1 : SameTick s₀ s1 := SameTick.foldl _ (fun _ _ h2 => State.clearIfGone_tick h2 _ _) h
  exact SameTick.foldl _ (fun _ _ h2 => State.clearIfGone_tick h2 _ _) hs1

theorem State.condGone_tick {s₀ s : State} (h : SameTick s₀ s) (n : Src) (c : Ch) : SameTick s₀ (s.condGone n c) := by
  unfold State.condGone
  exact State.updSrc_tick h _ _

theorem State.tickLatches_tick {s₀ s : State} (h : SameTick s₀ s) : SameTick s₀ (s.tickLatches) := by
  unfold State.tickLatches
  extract_lets +onlyGivenNames is s1
  have hs1 : SameTick s₀ s1 := SameTick.foldl _ (fun _ _ h2 => .ite (State.updCmp_tick h2 _ _) h2) h
  extract_lets +onlyGivenNames s2
  have hs2 : SameTick s₀ s2 := .ite hs1 (State.condGone_tick hs1 _ _)
  exact .ite hs2 (State.condGone_tick hs2 _ _)

theorem State.olCount_tick {s₀ s : State} (h : SameTick s₀ s) (c : Ch) : SameTick s₀ (s.olCount c) := by
  unfold State.olCount
  extract_lets +onlyGivenNames filt was s1
  have hs1 : SameTick s₀ s1 := State.updStage_tick h _ _
  refine .ite (State.wr_tick hs1 _ _) ?_
  extract_lets +onlyGivenNames acc
  exact .ite (State.incSat_tick hs1 _) (State.wr_tick hs1 _ _)

theorem State.dissolve_tick {s₀ s : State} (h : SameTick s₀ s) (c : Ch) : SameTick s₀ (s.dissolve c) := by
  unfold State.dissolve
  exact .ite h (SameTick.foldl _ (fun _ _ h2 => State.updSeq_tick h2 _ _) h)

theorem State.complete_tick {s₀ s : State} (h : SameTick s₀ s) (o : Owner) (v : Fin 8) (recs : List (List Word)) :
    SameTick s₀ (s.complete o v recs) := by
  unfold State.complete
  exact SameTick.withHost h _

theorem State.retireTo_tick {s₀ s : State} (h : SameTick s₀ s) (q : QId) (cnt : Nat) : SameTick s₀ (s.retireTo q cnt)
    := by
  unfold State.retireTo
  exact State.updQ_tick h _ _

theorem State.postStep_tick {s₀ s : State} (h : SameTick s₀ s) (c : Ch) (r : Run) (reason : Nat) (action : Nat) (next
    : Nat) (detail : Nat) : SameTick s₀ (s.postStep c r reason action next detail) := by
  unfold State.postStep
  extract_lets +onlyGivenNames s1
  have hs1 : SameTick s₀ s1 := State.complete_tick h _ _ _
  exact State.retireTo_tick hs1 _ _

theorem State.closeFailed_tick {s₀ s : State} (h : SameTick s₀ s) (c : Ch) (t : Nat) : SameTick s₀ (s.closeFailed c
    t) := by
  unfold State.closeFailed
  extract_lets +onlyGivenNames s1
  have hs1 : SameTick s₀ s1 := .ite (State.dissolve_tick h _) h
  split
  · exact hs1
  · split
    · refine .ite ?_ hs1
      extract_lets +onlyGivenNames s2
      have hs2 : SameTick s₀ s2 := State.ledger_tick hs1 _ _
      extract_lets +onlyGivenNames s3
      have hs3 : SameTick s₀ s3 := State.postStep_tick hs2 _ _ _ _ _ _
      exact State.updSeq_tick hs3 _ _
    · exact hs1

theorem State.decideEnd_tick {s₀ s : State} (h : SameTick s₀ s) (c : Ch) : SameTick s₀ (s.decideEnd c) := by
  unfold State.decideEnd
  extract_lets +onlyGivenNames ks
  exact State.updRun_tick h _ _

theorem State.seqTick_tick {s₀ s : State} (h : SameTick s₀ s) (c : Ch) (vMean : Int) (iMean : Int) : SameTick s₀
    (s.seqTick c vMean iMean) := by
  unfold State.seqTick
  extract_lets +onlyGivenNames s1
  have hs1 : SameTick s₀ s1 := State.updSeq_tick h _ _
  split
  · exact hs1
  · refine .ite hs1 ?_
    extract_lets +onlyGivenNames due r2 r3 ecs s2
    have hs2 : SameTick s₀ s2 := State.updSeq_tick hs1 _ _
    exact State.decideEnd_tick hs2 _

theorem State.metClock_tick {s₀ s : State} (h : SameTick s₀ s) : SameTick s₀ (s.metClock) := by
  unfold State.metClock
  extract_lets +onlyGivenNames m
  exact SameTick.withMet h _

theorem State.alignTick_tick {s₀ s : State} (h : SameTick s₀ s) : SameTick s₀ (s.alignTick) := by
  unfold State.alignTick
  extract_lets +onlyGivenNames n ok
  extract_lets +onlyGivenNames _ s1
  have hs1 : SameTick s₀ s1 := SameTick.withSys h _
  exact .ite (State.condGone_tick hs1 _ _) hs1

theorem State.lockLost_tick {s₀ s : State} (h : SameTick s₀ s) (r : RingId) (n : Nat) : SameTick s₀ (s.lockLost r n)
    := by
  unfold State.lockLost
  extract_lets +onlyGivenNames _ s1
  have hs1 : SameTick s₀ s1 := SameTick.withRing h _
  extract_lets +onlyGivenNames s2
  have hs2 : SameTick s₀ s2 := by
    unfold s2
    split
    · exact State.wr_tick (State.wr_tick hs1 _ _) _ _
    · exact State.wr_tick (State.wr_tick hs1 _ _) _ _
  exact State.wr_tick hs2 _ _

theorem State.lineTick_tick {s₀ s : State} (h : SameTick s₀ s) (r : RingId) (t : Nat) (i : LineIn) : SameTick s₀
    (s.lineTick r t i) := by
  unfold State.lineTick
  refine .ite h ?_
  extract_lets +onlyGivenNames missed
  extract_lets +onlyGivenNames _ s1
  have hs1 : SameTick s₀ s1 := SameTick.withRing h _
  extract_lets +onlyGivenNames s2
  have hs2 : SameTick s₀ s2 := .ite (State.incSat_tick hs1 _) hs1
  extract_lets +onlyGivenNames s3
  have hs3 : SameTick s₀ s3 := .ite (State.lockLost_tick hs2 _ _) hs2
  extract_lets +onlyGivenNames s4
  have hs4 : SameTick s₀ s4 := State.wb_tick hs3 _ _
  extract_lets +onlyGivenNames s5
  have hs5 : SameTick s₀ s5 := State.wr_tick hs4 _ _
  exact State.wr_tick hs5 _ _

theorem State.ringAge_tick {s₀ s : State} (h : SameTick s₀ s) (t : Nat) (ls : Vector LineIn 2) : SameTick s₀
    (s.ringAge t ls) := by
  unfold State.ringAge
  extract_lets +onlyGivenNames s1
  have hs1 : SameTick s₀ s1 := State.alignTick_tick (State.lineTick_tick (State.lineTick_tick h _ _ _) _ _ _)
  extract_lets +onlyGivenNames x
  exact SameTick.withRing hs1 _

theorem State.gangForm_tick {s₀ s : State} (h : SameTick s₀ s) (c : Ch) (size : Nat) : SameTick s₀ (s.gangForm c
    size) := by
  unfold State.gangForm
  extract_lets +onlyGivenNames ms s1
  have hs1 : SameTick s₀ s1 := SameTick.foldl _ (fun _ _ h2 => .ite (State.stagedOpen_tick h2 _) h2) h
  extract_lets +onlyGivenNames s2
  have hs2 : SameTick s₀ s2 := State.updSeq_tick hs1 _ _
  exact SameTick.foldl _ (fun _ _ h2 => State.updSeq_tick h2 _ _) hs2

theorem State.enterHold_tick {s₀ s : State} (h : SameTick s₀ s) (c : Ch) (why : Nat) : SameTick s₀ (s.enterHold c
    why) := by
  unfold State.enterHold
  extract_lets +onlyGivenNames s1
  have hs1 : SameTick s₀ s1 := State.stagedOpen_tick h _
  exact State.updSeq_tick hs1 _ _

theorem State.failStep_tick {s₀ s : State} (h : SameTick s₀ s) (c : Ch) (reason : Nat) (detail : Nat) : SameTick s₀
    (s.failStep c reason detail) := by
  unfold State.failStep
  extract_lets +onlyGivenNames why
  split
  · exact .ite (State.enterHold_tick (State.ledger_tick h _ _) _ _) h
  · refine .ite h ?_
    refine .ite (State.updSeq_tick h _ _) ?_
    extract_lets +onlyGivenNames s1
    have hs1 : SameTick s₀ s1 := State.enterHold_tick h _ _
    exact State.updSeq_tick hs1 _ _

theorem State.quietOff_tick {s₀ s : State} (h : SameTick s₀ s) (c : Ch) : SameTick s₀ (s.quietOff c) := by
  unfold State.quietOff
  split
  · exact h
  · extract_lets +onlyGivenNames op s1
    have hs1 : SameTick s₀ s1 := State.gatesOff_tick h _
    extract_lets +onlyGivenNames s2
    have hs2 : SameTick s₀ s2 := State.updRun_tick hs1 _ _
    exact .ite (.ite (State.gangForm_tick hs2 _ _) (State.failStep_tick hs2 _ _ _)) (.ite (State.stagedOpen_tick hs2
        _) (.ite (State.updSeq_tick (State.stagedOpen_tick hs2 _) _ _) hs2))

theorem State.limit1_tick {s₀ s : State} (h : SameTick s₀ s) (c : Ch) : SameTick s₀ (s.limit1 c) := by
  unfold State.limit1
  extract_lets +onlyGivenNames l kT kB fb e s1
  have hs1 : SameTick s₀ s1 := State.updLoop_tick h _ _
  extract_lets +onlyGivenNames lim
  exact State.wb_tick (State.wb_tick hs1 _ _) _ _

theorem State.formSetpoint_tick {s₀ s : State} (h : SameTick s₀ s) (c : Ch) : SameTick s₀ (s.formSetpoint c) := by
  unfold State.formSetpoint
  extract_lets +onlyGivenNames s1
  have hs1 : SameTick s₀ s1 := by
    unfold s1
    split
    · exact State.updLoop_tick h _ _
    · split
      · extract_lets +onlyGivenNames s2
        have hs2 : SameTick s₀ s2 := State.updRun_tick h _ _
        extract_lets +onlyGivenNames k s3
        have hs3 : SameTick s₀ s3 := .ite (State.updSeq_tick (State.updLoop_tick hs2 _ _) _ _) hs2
        exact State.updLoop_tick hs3 _ _
  extract_lets +onlyGivenNames g
  exact .ite (State.limit1_tick (State.updLoop_tick hs1 _ _) _) (SameTick.foldl _ (fun _ _ h2 => State.limit1_tick
      (State.updLoop_tick h2 _ _) _) hs1)

theorem State.startPulse_tick {s₀ s : State} (h : SameTick s₀ s) (c : Ch) (why : KelWhy) : SameTick s₀ (s.startPulse
    c why) := by
  unfold State.startPulse
  exact State.updMet_tick (State.updStage_tick h _ _) _ _

theorem State.requestClose_tick {s₀ s : State} (h : SameTick s₀ s) (c : Ch) : SameTick s₀ (s.requestClose c) := by
  unfold State.requestClose
  extract_lets +onlyGivenNames l iso ms
  exact .ite (.ite (State.startPulse_tick (SameTick.foldl _ (fun _ _ h2 => State.updStage_tick h2 _ _) h) _ _) h)
      (.ite (State.stagedOpen_tick h _) h)

theorem State.startGates_tick {s₀ s : State} (h : SameTick s₀ s) (c : Ch) : SameTick s₀ (s.startGates c) := by
  unfold State.startGates
  split
  · exact h
  · refine .ite h ?_
    extract_lets +onlyGivenNames s1
    have hs1 : SameTick s₀ s1 := .ite (State.requestClose_tick h _) h
    refine .ite ?_ hs1
    extract_lets +onlyGivenNames s2
    have hs2 : SameTick s₀ s2 := SameTick.foldl _ (fun _ _ h4 => State.updStage_tick h4 _ _) hs1
    exact State.updRun_tick hs2 _ _

theorem State.stepBoundary_tick {s₀ s : State} (h : SameTick s₀ s) (c : Ch) : SameTick s₀ (s.stepBoundary c) := by
  unfold State.stepBoundary
  extract_lets +onlyGivenNames s1
  have hs1 : SameTick s₀ s1 := State.updSeq_tick h _ _
  extract_lets +onlyGivenNames s2
  have hs2 : SameTick s₀ s2 := .ite (State.stagedOpen_tick hs1 _) hs1
  extract_lets +onlyGivenNames s3
  have hs3 : SameTick s₀ s3 := by
    unfold s3
    split
    · exact hs2
    · exact .ite (State.quietOff_tick hs2 _) hs2
  exact State.formSetpoint_tick (State.startGates_tick hs3 _) _

theorem State.setpointTick_tick {s₀ s : State} (h : SameTick s₀ s) : SameTick s₀ (s.setpointTick) := by
  unfold State.setpointTick
  extract_lets +onlyGivenNames s1
  have hs1 : SameTick s₀ s1 := SameTick.foldl _ (fun _ _ h2 => State.wr_tick (State.updLoop_tick h2 _ _) _ _) h
  exact SameTick.foldl _ (fun _ _ h2 => .ite h2 (State.stepBoundary_tick h2 _)) hs1

theorem State.balance_tick {s₀ s : State} (h : SameTick s₀ s) : SameTick s₀ (s.balance) := by
  unfold State.balance
  extract_lets +onlyGivenNames one
  split
  · extract_lets +onlyGivenNames _ s1
    have hs1 : SameTick s₀ s1 := SameTick.withMet h _
    exact State.wr_tick (State.wr_tick (State.wr_tick (State.wr_tick hs1 _ _) _ _) _ _) _ _
  · extract_lets +onlyGivenNames ps net imp exp rise old k new above first
    extract_lets +onlyGivenNames _ s1
    have hs1 : SameTick s₀ s1 := SameTick.withMet h _
    extract_lets +onlyGivenNames dir s2
    have hs2 : SameTick s₀ s2 := State.wr_tick (State.wr_tick hs1 _ _) _ _
    extract_lets +onlyGivenNames s3
    have hs3 : SameTick s₀ s3 := State.wb_tick (State.wb_tick hs2 _ _) _ _
    extract_lets +onlyGivenNames s4
    have hs4 : SameTick s₀ s4 := State.wrS_tick (State.wb_tick hs3 _ _) _ _
    exact .ite (State.event_tick hs4 _ _ _) hs4

theorem State.rangeReq_tick {s₀ s : State} (h : SameTick s₀ s) (c : Ch) (rng : Fin 4) (auto : Bool) :
    SameTick s₀ (s.rangeReq c rng auto) :=
  RangeWalk.rangeReq (Q := SameTick s₀)
    { wr := fun _ f v k => State.wr_tick k f v
      met := fun _ m k => k.withMet m
      event := fun _ a b d k => State.event_tick k a b d } h c rng auto

theorem State.rangeTick_tick {s₀ s : State} (h : SameTick s₀ s) (c : Ch) : SameTick s₀ (s.rangeTick c) := by
  unfold State.rangeTick
  extract_lets +onlyGivenNames r s1
  have hs1 : SameTick s₀ s1 := by
    unfold s1
    split
    · exact State.rangeReq_tick (State.updMet_tick h _ _) _ _ _
    · exact h
  exact .ite (State.rangeReq_tick hs1 _ _ _) hs1

theorem State.exclEnd_tick {s₀ s : State} (h : SameTick s₀ s) (c : Ch) : SameTick s₀ (s.exclEnd c) := by
  unfold State.exclEnd
  extract_lets +onlyGivenNames x on
  exact State.updMet_tick h _ _

theorem State.traceTick_tick {s₀ s : State} (h : SameTick s₀ s) (q : Quad) (t : Nat) : SameTick s₀ (s.traceTick q t)
    := by
  unfold State.traceTick
  extract_lets +onlyGivenNames after
  exact State.updQd_tick h _ _

theorem State.endInject_tick {s₀ s : State} (h : SameTick s₀ s) : SameTick s₀ (s.endInject) := by
  unfold State.endInject
  split
  · exact h
  · extract_lets +onlyGivenNames _ s1
    have hs1 : SameTick s₀ s1 := SameTick.withFlt h _
    exact .ite (SameTick.foldl _ (fun _ _ h4 => State.condGone_tick h4 _ _) hs1) (.ite (SameTick.foldl _ (fun _ _ h4
        => State.condGone_tick h4 _ _) hs1) (State.condGone_tick hs1 _ _))

theorem State.chopperConds_tick {s₀ s : State} (h : SameTick s₀ s) : SameTick s₀ (s.chopperConds) := by
  unfold State.chopperConds
  extract_lets +onlyGivenNames w s1
  have hs1 : SameTick s₀ s1 := .ite (State.condGone_tick h _ _) h
  exact .ite (State.condGone_tick hs1 _ _) hs1

theorem State.turnsAs_tick {s₀ s : State} (h : SameTick s₀ s) (v : Int) : SameTick s₀ (s.turnsAs v) := by
  unfold State.turnsAs
  exact .ite h (SameTick.withMot h _)

theorem State.motReadings_tick {s₀ s : State} (h : SameTick s₀ s) (force : Int) : SameTick s₀ (s.motReadings force)
    := by
  unfold State.motReadings
  extract_lets +onlyGivenNames s1
  have hs1 : SameTick s₀ s1 := State.wrS_tick h _ _
  extract_lets +onlyGivenNames n s2
  have hs2 : SameTick s₀ s2 := State.wb_tick (State.wrS_tick hs1 _ _) _ _
  extract_lets +onlyGivenNames st
  exact .ite (State.wr_tick hs2 _ _) (.ite (State.wr_tick hs2 _ _) (.ite (State.turnsAs_tick hs2 _) hs2))

theorem State.updCmd_tick {s₀ s : State} (h : SameTick s₀ s) (f : MotCmd → MotCmd) : SameTick s₀ (s.updCmd f) := by
  unfold State.updCmd
  exact SameTick.withMot h _

theorem State.motErr_tick {s₀ s : State} (h : SameTick s₀ s) (bad : Bool) : SameTick s₀ (s.motErr bad) := by
  unfold State.motErr
  exact State.updCmd_tick h _

theorem State.errTick_tick {s₀ s : State} (h : SameTick s₀ s) (m : MotCmd) : SameTick s₀ (s.errTick m) := by
  unfold State.errTick
  split
  · exact h
  · exact h
  · exact State.motErr_tick h _
  · exact State.motErr_tick h _
  · exact State.motErr_tick h _

theorem State.speedLoop_tick {s₀ s : State} (h : SameTick s₀ s) (nCmd : Int) (frac : Nat) : SameTick s₀ (s.speedLoop
    nCmd frac) := by
  unfold State.speedLoop
  extract_lets +onlyGivenNames e kp ki i1 raw lim out out2
  exact SameTick.withMot h _

theorem State.regen_tick {s₀ s : State} (h : SameTick s₀ s) : SameTick s₀ s.regen.2 := by
  unfold State.regen
  split
  · exact State.takeNat_tick h
  · exact h

theorem State.forceLoop_tick {s₀ s : State} (h : SameTick s₀ s) (set : Int) (vmax : Nat) (frac : Nat) : SameTick s₀
    (s.forceLoop set vmax frac) := by
  unfold State.forceLoop
  extract_lets +onlyGivenNames e i1 raw out
  extract_lets +onlyGivenNames _ s1
  have hs1 : SameTick s₀ s1 := SameTick.withMot h _
  exact State.speedLoop_tick hs1 _ _

theorem State.posLoop_tick {s₀ s : State} (h : SameTick s₀ s) (vmax : Nat) (frac : Nat) : SameTick s₀ (s.posLoop vmax
    frac) := by
  unfold State.posLoop
  extract_lets +onlyGivenNames err prof
  exact State.speedLoop_tick h _ _

theorem State.holdTick_tick {s₀ s : State} (h : SameTick s₀ s) (frac : Nat) : SameTick s₀ (s.holdTick frac) := by
  unfold State.holdTick
  split
  · exact h
  · exact State.forceLoop_tick h _ _ _
  · split
    · extract_lets +onlyGivenNames _ s1
      have hs1 : SameTick s₀ s1 := SameTick.withMot h _
      exact State.posLoop_tick hs1 _ _

theorem State.moveProfile_tick {s₀ s : State} (h : SameTick s₀ s) (m : MotCmd) (frac : Nat) : SameTick s₀
    (s.moveProfile m frac) := by
  unfold State.moveProfile
  extract_lets +onlyGivenNames a stopping
  split
  · exact SameTick.withMot h _

theorem State.motComplete_tick {s₀ s : State} (h : SameTick s₀ s) (reason : Nat) (detail : Nat) : SameTick s₀
    (s.motComplete reason detail) := by
  unfold State.motComplete
  split
  · exact h
  · extract_lets +onlyGivenNames s1
    have hs1 : SameTick s₀ s1 := State.complete_tick h _ _ _
    extract_lets +onlyGivenNames _ s2
    have hs2 : SameTick s₀ s2 := SameTick.withMot hs1 _
    exact State.updQ_tick hs2 _ _

theorem State.motEnd_tick {s₀ s : State} (h : SameTick s₀ s) (reason : Nat) : SameTick s₀ (s.motEnd reason) := by
  unfold State.motEnd
  split
  · exact h
  · extract_lets +onlyGivenNames hold idle s1
    have hs1 : SameTick s₀ s1 := State.motComplete_tick h _ _
    exact .ite (State.motGatesOff_tick (State.wr_tick hs1 _ _)) (SameTick.withMot hs1 _)

theorem State.moveTick_tick {s₀ s : State} (h : SameTick s₀ s) (m : MotCmd) (frac : Nat) : SameTick s₀ (s.moveTick m
    frac) := by
  unfold State.moveTick
  extract_lets +onlyGivenNames s1
  have hs1 : SameTick s₀ s1 := State.moveProfile_tick h _ _
  extract_lets +onlyGivenNames f op set err ended settled s2
  have hs2 : SameTick s₀ s2 := State.updCmd_tick (State.motErr_tick hs1 _) _
  refine .ite (State.motEnd_tick hs2 _) ?_
  refine .ite (State.updCmd_tick hs2 _) ?_
  refine .ite (State.motEnd_tick hs2 _) ?_
  refine .ite ?_ (.ite (State.motEnd_tick hs2 _) (State.posLoop_tick hs2 _ _))
  extract_lets +onlyGivenNames _ s3
  have hs3 : SameTick s₀ s3 := SameTick.withMot hs2 _
  exact State.updCmd_tick hs3 _

theorem State.forceTick_tick {s₀ s : State} (h : SameTick s₀ s) (m : MotCmd) (frac : Nat) : SameTick s₀ (s.forceTick
    m frac) := by
  unfold State.forceTick
  extract_lets +onlyGivenNames e inTol s1
  have hs1 : SameTick s₀ s1 := State.updCmd_tick (State.motErr_tick h _) _
  exact State.forceLoop_tick hs1 _ _ _

theorem State.profileHere_tick {s₀ s : State} (h : SameTick s₀ s) : SameTick s₀ (s.profileHere) := by
  unfold State.profileHere
  exact SameTick.withMot h _

theorem State.rampTick_tick {s₀ s : State} (h : SameTick s₀ s) (m : MotCmd) (frac : Nat) : SameTick s₀ (s.rampTick m
    frac) := by
  unfold State.rampTick
  extract_lets +onlyGivenNames n t
  refine .ite (State.profileHere_tick (State.updCmd_tick h _)) ?_
  extract_lets +onlyGivenNames set
  exact State.forceLoop_tick (State.updCmd_tick h _) _ _ _

theorem State.stopTick_tick {s₀ s : State} (h : SameTick s₀ s) (m : MotCmd) (reason : Nat) (frac : Nat) : SameTick s₀
    (s.stopTick m reason frac) := by
  unfold State.stopTick
  extract_lets +onlyGivenNames s1
  have hs1 : SameTick s₀ s1 := State.moveProfile_tick h _ _
  extract_lets +onlyGivenNames s2
  have hs2 : SameTick s₀ s2 := State.motErr_tick hs1 _
  exact .ite (State.motEnd_tick hs2 _) (State.posLoop_tick hs2 _ _)

theorem State.motTick_tick {s₀ s : State} (h : SameTick s₀ s) (force : Int) : SameTick s₀ (s.motTick force) := by
  unfold State.motTick
  extract_lets +onlyGivenNames s1
  have hs1 : SameTick s₀ s1 := State.motReadings_tick h _
  refine .ite hs1 ?_
  extract_lets +onlyGivenNames s2
  have hs2 : SameTick s₀ s2 := State.condGone_tick hs1 _ _
  extract_lets +onlyGivenNames f s3
  have hs3 : SameTick s₀ s3 := State.updCmd_tick hs2 _
  extract_lets +onlyGivenNames st
  split
  · split
    · exact State.errTick_tick hs3 _
    · exact hs3
  · refine .ite hs3 ?_
    split
    · split
      · rename_i n' s' heq
        have hp := SameTick.of_pair_snd (State.takeInt_tick hs3) heq
        exact State.speedLoop_tick hp _ _
    · refine .ite hs3 ?_
      split
      · rename_i frac' s' heq
        have hp := SameTick.of_pair_snd (State.regen_tick hs3) heq
        split
        · exact State.holdTick_tick hp _
        · split
          · exact hp
          · exact State.moveTick_tick hp _ _
          · exact .ite (State.posLoop_tick (State.moveProfile_tick hp _ _) _ _) (State.forceTick_tick hp _ _)
          · exact .ite (State.posLoop_tick (State.moveProfile_tick hp _ _) _ _) (State.rampTick_tick hp _ _)
          · exact State.stopTick_tick hp _ _ _

theorem State.barCount_tick {s₀ s : State} (h : SameTick s₀ s) (t : Nat) (n : Nat) : SameTick s₀ (s.barCount t n) :=
    by
  unfold State.barCount
  extract_lets +onlyGivenNames i tgt
  refine .ite h ?_
  extract_lets +onlyGivenNames c hit
  exact SameTick.withRing h _

theorem State.queueFrame_tick {s₀ s : State} (h : SameTick s₀ s) (f : Frame) : SameTick s₀ (s.queueFrame f) := by
  unfold State.queueFrame
  exact SameTick.withRing h _

theorem State.send_tick {s₀ s : State} (h : SameTick s₀ s) (ty : Nat) (dst : Nat) (ackreq : Bool) (arg : Nat)
    (payload : List Word) : SameTick s₀ (s.send ty dst ackreq arg payload) := by
  unfold State.send
  extract_lets +onlyGivenNames f
  refine .ite h ?_
  extract_lets +onlyGivenNames s'1
  have hs'1 : SameTick s₀ s'1 := State.queueFrame_tick h _
  exact SameTick.withRing hs'1 _

theorem State.mgmt_tick {s₀ s : State} (h : SameTick s₀ s) (sub : Nat) (dst : Nat) (arg : Nat) (payload : List Word)
    : SameTick s₀ (s.mgmt sub dst arg payload) := by
  unfold State.mgmt
  exact .ite (State.send_tick h _ _ _ _ _) h

theorem State.reportArrivals_tick {s₀ s : State} (h : SameTick s₀ s) : SameTick s₀ (s.reportArrivals) := by
  unfold State.reportArrivals
  extract_lets +onlyGivenNames l
  refine .ite h ?_
  extract_lets +onlyGivenNames _ s1
  have hs1 : SameTick s₀ s1 := SameTick.withRing h _
  exact .ite (SameTick.foldl _ (fun _ _ h2 => State.barCount_tick h2 _ _) hs1) (SameTick.foldl _ (fun _ _ h2 =>
      State.mgmt_tick h2 _ _ _ _) hs1)

theorem State.ringEvent_tick {s₀ s : State} (h : SameTick s₀ s) (cause : Nat) (p : Nat) : SameTick s₀ (s.ringEvent
    cause p) := by
  unfold State.ringEvent
  exact State.irq_tick (State.event_tick h _ _ _) _

theorem State.enterWrapped_tick {s₀ s : State} (h : SameTick s₀ s) (p : Nat) (onA : Bool) : SameTick s₀
    (s.enterWrapped p onA) := by
  unfold State.enterWrapped
  extract_lets +onlyGivenNames _ s1
  have hs1 : SameTick s₀ s1 := SameTick.withRing h _
  exact State.ringEvent_tick (State.wr_tick (State.wr_tick hs1 _ _) _ _) _ _

theorem State.wrapNow_tick {s₀ s : State} (h : SameTick s₀ s) (r : RingId) : SameTick s₀ (s.wrapNow r) := by
  unfold State.wrapNow
  refine .ite h ?_
  extract_lets +onlyGivenNames _ s1
  have hs1 : SameTick s₀ s1 := SameTick.withRing h _
  extract_lets +onlyGivenNames s2
  have hs2 : SameTick s₀ s2 := State.wr_tick hs1 _ _
  extract_lets +onlyGivenNames s3
  have hs3 : SameTick s₀ s3 := State.incSat_tick (State.wr_tick hs2 _ _) _
  exact .ite (State.enterWrapped_tick hs3 _ _) (State.mgmt_tick hs3 _ _ _ _)

theorem State.barvNext_tick {s₀ s : State} (h : SameTick s₀ s) : SameTick s₀ (s.barvNext) := by
  unfold State.barvNext
  extract_lets +onlyGivenNames v
  extract_lets +onlyGivenNames _ s1
  have hs1 : SameTick s₀ s1 := SameTick.withRing h _
  exact State.wr_tick (State.wr_tick hs1 _ _) _ _

theorem State.layRegions_tick {s₀ s : State} (h : SameTick s₀ s) : SameTick s₀ (s.layRegions) := by
  unfold State.layRegions
  refine .ite ?_ h
  extract_lets +onlyGivenNames l on
  exact SameTick.withRing h _

theorem State.sendPennant_tick {s₀ s : State} (h : SameTick s₀ s) : SameTick s₀ (s.sendPennant) := by
  unfold State.sendPennant
  refine .ite ?_ h
  split
  · extract_lets +onlyGivenNames v s1
    have hs1 : SameTick s₀ s1 := State.barvNext_tick (State.wr_tick h _ _)
    extract_lets +onlyGivenNames _ s2
    have hs2 : SameTick s₀ s2 := SameTick.withRing hs1 _
    extract_lets +onlyGivenNames p on
    exact .ite (State.emit_tick hs2 _) (State.emit_tick (State.emit_tick hs2 _) _)

theorem State.sendPdu_tick {s₀ s : State} (h : SameTick s₀ s) : SameTick s₀ (s.sendPdu) := by
  unfold State.sendPdu
  extract_lets +onlyGivenNames own head
  refine .ite ?_ h
  extract_lets +onlyGivenNames p rs s1
  have hs1 : SameTick s₀ s1 := SameTick.foldl _ (fun _ _ h2 => State.emit_tick h2 _) h
  exact SameTick.withRing hs1 _

theorem State.ringTick_tick {s₀ s : State} (h : SameTick s₀ s) : SameTick s₀ (s.ringTick) := by
  unfold State.ringTick
  extract_lets +onlyGivenNames s1
  have hs1 : SameTick s₀ s1 := State.reportArrivals_tick (State.wrapNow_tick (State.wrapNow_tick h _) _)
  extract_lets +onlyGivenNames s2
  have hs2 : SameTick s₀ s2 := .ite (State.barvNext_tick hs1) (State.layRegions_tick (State.sendPennant_tick hs1))
  exact State.sendPdu_tick hs2

theorem State.admEnter_tick {s₀ s : State} (h : SameTick s₀ s) (f : AdmFin) : SameTick s₀ (s.admEnter f) := by
  unfold State.admEnter
  extract_lets +onlyGivenNames s1
  have hs1 : SameTick s₀ s1 := State.complete_tick h _ _ _
  extract_lets +onlyGivenNames _ s2
  have hs2 : SameTick s₀ s2 := SameTick.withHost hs1 _
  exact State.updQ_tick hs2 _ _

theorem State.admDone_tick {s₀ s : State} (h : SameTick s₀ s) (op : Nat) (a : AdmHdr) (status : Nat) (result : Nat) :
    SameTick s₀ (s.admDone op a status result) := by
  unfold State.admDone
  exact .ite (State.admEnter_tick h _) (SameTick.withHost h _)

theorem State.admScan_tick {s₀ s : State} (h : SameTick s₀ s) : SameTick s₀ (s.admScan) := by
  unfold State.admScan
  split
  · exact h
  · split
    · exact h
    · refine .ite ?_ h
      extract_lets +onlyGivenNames a s1
      have hs1 : SameTick s₀ s1 := State.updQ_tick h _ _
      exact State.admDone_tick hs1 _ _ _ _

end Sys2Proof.Machine
end


section
/-!
SUPPORT. A tick boundary (R29, R36, R50): a mode change keeps the tick and the pins, and what comes before the tick
advances keeps the registers of SYS.
-/

namespace Sys2Proof.Machine

/-! ### The change of mode (R80, R746) -/

theorem State.errPull_tick {s₀ s : State} (h : SameTick s₀ s) : SameTick s₀ s.errPull := by
  unfold State.errPull
  exact .ite h (State.wr_tick (h.withFlt _) _ _)

theorem State.motTorqueOff_tick {s₀ s : State} (h : SameTick s₀ s) : SameTick s₀ s.motTorqueOff := by
  have hfree : SameTick s₀ { s with mot := { s.mot with hold := .none } } := h.withMot _
  unfold State.motTorqueOff
  exact .ite (State.motGatesOff_tick (State.wr_tick (State.motComplete_tick h _ _) _ _))
    (State.motGatesOff_tick (.ite hfree (State.wr_tick hfree _ _)))

theorem State.modeDone_tick {s₀ s : State} (h : SameTick s₀ s) : SameTick s₀ s.modeDone := by
  unfold State.modeDone
  split
  · exact State.admDone_tick h _ _ _ _
  · exact h

theorem State.resumeCores_tick {s₀ s : State} (h : SameTick s₀ s) : SameTick s₀ s.resumeCores := by
  unfold State.resumeCores
  exact h.withRegs _

theorem State.safeExit_tick {s₀ s : State} (h : SameTick s₀ s) : SameTick s₀ s.safeExit := by
  unfold State.safeExit
  extract_lets cleared saf low ns
  have hlow : SameTick s₀ low :=
    State.wr_tick (.withSaf (State.wr_tick (State.wr_tick (State.wr_tick h _ _) _ _) _ _) _) _ _
  exact .foldl _ (fun _ n k => .ite (.foldl _ (fun _ c k => State.clearIfGone_tick k n c) k)
    (State.clearIfGone_tick k n 0)) hlow

/-- The tick and the pins are the same. -/
structure SameClock (s t : State) : Prop where
  tick : t.sys.tick = s.sys.tick
  pins : t.pins = s.pins

theorem SameClock.trans {s t u : State} (h : SameClock s t) (k : SameClock t u) : SameClock s u :=
  ⟨k.tick.trans h.tick, k.pins.trans h.pins⟩

theorem SameTick.clock {s t : State} (h : SameTick s t) : SameClock s t := ⟨congrArg (·.1) h.sys, h.pins⟩

/-- A withdrawn change of period leaves the tick. -/
theorem State.withdraw_clock (s : State) : SameClock s s.withdraw := ⟨rfl, rfl⟩

theorem State.setMode_clock (s : State) (m : Mode) : SameClock s (s.setMode m) := by
  unfold State.setMode
  extract_lets prev withdrawn _ sys pulled
  have hwithdrawn : SameClock s withdrawn := by
    unfold withdrawn
    split
    · exact s.withdraw_clock
    · exact ⟨rfl, rfl⟩
  have hsys : SameClock s sys := hwithdrawn.trans ⟨rfl, rfl⟩
  have hpulled : SameTick sys pulled := .ite (State.errPull_tick (.refl sys)) (.refl sys)
  exact hsys.trans (State.event_tick hpulled _ _ _).clock

theorem State.enterStandby_clock (s : State) : SameClock s s.enterStandby := by
  unfold State.enterStandby State.advanceRbc
  extract_lets entered
  refine (s.setMode_clock .standby).trans ?_
  split
  · split
    · exact ⟨rfl, rfl⟩
    · exact ⟨rfl, rfl⟩
  · exact ⟨rfl, rfl⟩

theorem State.parkStep3_clock (s : State) : SameClock s s.parkStep3 := by
  unfold State.parkStep3
  extract_lets mode park
  exact (State.modeDone_tick (.withSys (s := s) (.withRegs (.refl s) _) _)).clock

/-- The end of a mode change whose mode stands. -/
theorem State.modeDone_clock {s t : State} (h : SameClock s t) : SameClock s t.modeDone :=
  h.trans (State.modeDone_tick (.refl t)).clock

/-- Whatever mode change is under way, its boundary keeps the tick and the pins. -/
theorem State.changeMode_clock (s : State) : SameClock s s.changeMode := by
  have hwr {u : State} (h : SameClock s u) (f : Fld) (v : Nat) : SameClock s (u.wr f v) := h.trans ⟨rfl, rfl⟩
  have hset {u : State} (h : SameTick s u) (m : Mode) : SameClock s (u.setMode m) := h.clock.trans (u.setMode_clock m)
  unfold State.changeMode
  split
  · exact ⟨rfl, rfl⟩
  · exact State.modeDone_clock (hset (.ite (State.wr_tick (.refl s) _ _) (.refl s)) .run)
  · exact hwr (State.modeDone_clock (hset (.refl s) .service)) _ _
  · split
    · exact State.modeDone_clock ((State.safeExit_tick (.refl s)).clock.trans (State.enterStandby_clock _))
    · exact hwr (State.modeDone_clock (hset (State.motTorqueOff_tick (.refl s)) .standby)) _ _
  · exact hwr (hset (.ite (State.resumeCores_tick (.refl s)) (.refl s)) .safe) _ _
  · split
    · exact ⟨rfl, rfl⟩
    · exact s.parkStep3_clock
  · exact ⟨rfl, rfl⟩

/-- Without a mode change under way nothing changes. -/
theorem State.changeMode_none {s : State} (h : s.sys.trans = none) : s.changeMode = s := by
  unfold State.changeMode
  rw [h]

/-! ### The registers of SYS -/

/-- The registers of page 0 are the same. -/
def SameSys (s t : State) : Prop := ∀ f : Fld, f.page = 0 → t.rd f = s.rd f

namespace SameSys

theorem refl (s : State) : SameSys s s := fun _ _ => rfl

theorem trans {s t u : State} (h : SameSys s t) (k : SameSys t u) : SameSys s u := fun f hf => (k f hf).trans (h f hf)

theorem ite {s t u : State} {p : Prop} [Decidable p] (h : SameSys s t) (k : SameSys s u) :
    SameSys s (if p then t else u) := by
  split
  · exact h
  · exact k

theorem foldl {α : Type} {f : State → α → State} {s t : State} (l : List α) (k : ∀ t a, SameSys s t → SameSys s (f t a))
    (h : SameSys s t) : SameSys s (l.foldl f t) := by
  induction l generalizing t with
  | nil => exact h
  | cons a l ih => exact ih (k t a h)

/-- The registers are the same. -/
theorem of_regs {s t u : State} (h : SameSys s t) (k : u.regs = t.regs) : SameSys s u :=
  h.trans fun f _ => congrArg (·.get f) k

theorem of_only {s t u : State} (h : SameSys s t) {ps : List Part} (ho : t.only u ps) (hp : .regs ∉ ps) : SameSys s u :=
  h.of_regs (ho.2 .regs hp)

theorem wr {s t : State} (h : SameSys s t) (f : Fld) (v : Nat) (hf : f.page ≠ 0) : SameSys s (t.wr f v) :=
  h.trans fun g hg => State.rd_wr_other t v (fun e => hf (by rw [← hg]; unfold Fld.page; rw [e]))

end SameSys

section
variable {s₀ s : State} (h : SameSys s₀ s)
include h

theorem State.measure1_sameSys (c : Ch) (i : ChTick) : SameSys s₀ (s.measure1 c i).1 := by
  have hd : SameSys s₀ (s.dqOf c i.bits s.mClk).2 := by
    unfold State.dqOf State.dqSar
    extract_lets m
    exact h.of_regs (by split <;> [split; skip] <;> rfl)
  unfold State.measure1
  refine .ite (.wr ?_ _ _ (by decide)) ?_
  all_goals exact hd.of_regs rfl

theorem State.ledger_sameSys (c : Ch) (f : Ledger → Ledger) : SameSys s₀ (s.ledger c f) := h.of_regs rfl

theorem State.countAs_sameSys (c : Ch) (des : List Int) (f : Ledger → Ledger) : SameSys s₀ (s.countAs c des f) := by
  unfold State.countAs
  exact .ite h (State.ledger_sameSys h c _)

theorem State.measureTick_sameSys (ch : List ChTick) : SameSys s₀ (s.measureTick ch) := by
  have hsub : ∀ c : Ch, (CH_MSTAT.SAR_SUB c).page ≠ 0 := by decide
  have hall (l : List Ch) (f : State → Ch → State × Int) (hf : ∀ u c, SameSys s₀ u → SameSys s₀ (f u c).1) :
      ∀ a : State × List Int, SameSys s₀ a.1 → SameSys s₀ (l.foldl (fun (a : State × List Int) c =>
        let r := f a.1 c; (r.1, a.2 ++ [r.2])) a).1 := by
    induction l with
    | nil => exact fun _ ha => ha
    | cons c l ih => exact fun a ha => ih _ (hf a.1 c ha)
  unfold State.measureTick
  extract_lets z
  refine .ite h ?_
  split
  next u des heq =>
  have hu : SameSys s₀ u := by
    have := hall allCh (fun s c => s.measure1 c (ch.getD c.val z)) (fun u c k => State.measure1_sameSys k c _) (s, []) h
    rwa [show (allCh.foldl _ (s, [])) = (u, des) from heq] at this
  refine .foldl _ (fun t c k => ?_) hu
  unfold State.countTick
  exact State.countAs_sameSys (.ite (k.wr _ _ (hsub c)) k) c des _

theorem State.olCount_sameSys (c : Ch) : SameSys s₀ (s.olCount c) := by
  have hacc : ∀ c : Ch, (CH_PCNT.OL_ACC c).page ≠ 0 := by decide
  unfold State.olCount
  extract_lets filt was stage acc
  have hstage : SameSys s₀ stage := h.of_regs rfl
  exact .ite (hstage.wr _ _ (hacc c)) (.ite (hstage.wr _ _ (hacc c)) (hstage.wr _ _ (hacc c)))

theorem State.postStep_sameSys (c : Ch) (r : Run) (reason action next detail : Nat) :
    SameSys s₀ (s.postStep c r reason action next detail) := h.of_regs rfl

theorem State.updSeq_sameSys (c : Ch) (f : ChanS → ChanS) : SameSys s₀ (s.updSeq c f) := h.of_regs rfl

theorem State.closeFailed_sameSys (c : Ch) (t : Nat) : SameSys s₀ (s.closeFailed c t) := by
  unfold State.closeFailed
  extract_lets free
  have hfree : SameSys s₀ free := by
    refine .ite ?_ h
    unfold State.dissolve
    exact .ite h (.foldl _ (fun _ _ k => k.of_regs rfl) h)
  split
  · exact hfree
  · split
    · exact .ite (State.updSeq_sameSys (State.postStep_sameSys (State.ledger_sameSys hfree c _) c _ _ _ _ _) c _) hfree
    · exact hfree

theorem State.seqTick_sameSys (c : Ch) (v i : Int) : SameSys s₀ (s.seqTick c v i) := by
  unfold State.seqTick
  extract_lets counted
  split
  · exact h.of_regs rfl
  · exact .ite (h.of_regs rfl) (h.of_regs rfl)

theorem State.clearIfGone_sameSys (n : Src) (c : Ch) : SameSys s₀ (s.clearIfGone n c) := by
  unfold State.clearIfGone State.clear
  refine .ite (.ite h (h.trans fun f _ => ?_)) h
  exact State.event_rd _ _ _ _ f

theorem State.lineTick_sameSys (r : RingId) (t : Nat) (i : LineIn) : SameSys s₀ (s.lineTick r t i) := by
  have hpage : ∀ r : RingId, (RING_CNT0.LOCK r).page ≠ 0 ∧ (RING_CNT2.MISS r).page ≠ 0 ∧ (RING_CNT0.CODE r).page ≠ 0 ∧
      (RING_CNT3.SPLICE r).page ≠ 0 := by rintro ⟨⟩ <;> decide
  obtain ⟨hlock, hmiss, hcode, hsplice⟩ := hpage r
  have hlost {u : State} (k : SameSys s₀ u) (n : Nat) : SameSys s₀ (u.lockLost r n) := by
    unfold State.lockLost
    refine .wr ?_ _ _ hlock
    cases r with
    | a => exact .wr (.wr (k.of_regs rfl) RING_ERR.LOCK_A 1 (by decide)) RING_STAT.LINKA 0 (by decide)
    | b => exact .wr (.wr (k.of_regs rfl) RING_ERR.LOCK_B 1 (by decide)) RING_STAT.LINKB 0 (by decide)
  unfold State.lineTick
  extract_lets missed _ ring counted lost locked coded
  have hring : SameSys s₀ ring := h.of_regs rfl
  have hcounted : SameSys s₀ counted := .ite (hring.wr _ _ hmiss) hring
  have hlosts : SameSys s₀ lost := .ite (hlost hcounted _) hcounted
  have hlocked : SameSys s₀ locked := by
    refine hlosts.wr _ _ ?_
    cases r with
    | a => exact (by decide)
    | b => exact (by decide)
  exact .ite h ((hlocked.wr _ _ hcode).wr _ _ hsplice)

end

end Sys2Proof.Machine
end


section
/-!
SUPPORT. A tick boundary (R29, R36, R50) before and after the tick advances.
-/

namespace Sys2Proof.Machine

/-- A tick boundary up to where the channels' means are decided: what the tick that ends has measured. -/
def State.tickMeasured (s : State) (i : TickIn) : State :=
  let s := { s with met := { s.met with selfOk := s.met.selfOk || (i.tested && decide (s.sys.mode = Mode.boot)) } }
  let s := (s.measureTick i.ch).compareTicks i
  let s := { s with met := { s.met with vbSar := i.vbSar, vbPrec := s.metVb i.vbBits } }
  (s.tickLatches).condClears

/-- A tick boundary up to where the tick advances. -/
def State.tickEnded (s : State) (i : TickIn) : State :=
  (((s.tickMeasured i).channelTick s.now i).hostClocks.ringAge s.now i.line).metClock

/-- A tick boundary from where tick `t` has ended. -/
def State.tickBegun (s : State) (t : Nat) (i : TickIn) : State :=
  let s := (s.balance).setpointTick
  let s := s.forCh allCh (fun s c => (s.exclEnd c).rangeTick c)
  let s := allQuads.foldl (fun s q => s.traceTick q t) s
  let s := ((s.ringTick.motTick i.force).chopperConds).endInject
  let s := if s.sys.tickOut then s.emit .tickOut else s
  s.admScan

/-- A boundary ends a tick, advances it and begins the next. -/
theorem execTickBoundary_eq {s : State} (h : s.idle = false) (i : TickIn) :
    execTickBoundary i s = .next ((s.tickEnded i).nextTick.tickBegun s.now i) := by
  unfold execTickBoundary
  rw [if_neg (by rw [h]; exact Bool.false_ne_true)]
  rfl

/-! ### Up to the tick -/

theorem State.tickMeasured_tick (s : State) (i : TickIn) : SameTick s (s.tickMeasured i) :=
  State.condClears_tick (State.tickLatches_tick (.withMet (State.compareTicks_tick (State.measureTick_tick
    (.withMet (.refl s) _) _) _) _))

theorem State.compareTicks_sameSys {s₀ s : State} (h : SameSys s₀ s) (i : TickIn) : SameSys s₀ (s.compareTicks i) := by
  unfold State.compareTicks
  extract_lets ids
  refine .foldl _ (fun t j k => ?_) h
  unfold State.compareTick
  extract_lets p
  exact .ite k (k.of_regs rfl)

theorem State.tickLatches_sameSys {s₀ s : State} (h : SameSys s₀ s) : SameSys s₀ s.tickLatches := by
  unfold State.tickLatches
  extract_lets is latched vm
  have hlatched : SameSys s₀ latched := .foldl _ (fun _ _ k => .ite (k.of_regs rfl) k) h
  clear_value latched
  have hvm : SameSys s₀ vm := .ite hlatched (hlatched.of_regs rfl)
  clear_value vm
  exact .ite hvm (hvm.of_regs rfl)

theorem State.condClears_sameSys {s₀ s : State} (h : SameSys s₀ s) : SameSys s₀ s.condClears :=
  .foldl _ (fun _ c k => State.clearIfGone_sameSys k 12 c) (.foldl _ (fun _ n k => State.clearIfGone_sameSys k n 0) h)

theorem State.tickMeasured_sameSys (s : State) (i : TickIn) : SameSys s (s.tickMeasured i) := by
  unfold State.tickMeasured
  extract_lets met self compared vbMet vb
  have hself : SameSys s self := .of_regs (.refl s) rfl
  clear_value self
  have hcompared : SameSys s compared := State.compareTicks_sameSys (State.measureTick_sameSys hself _) _
  clear_value compared
  have hvb : SameSys s vb := hcompared.of_regs rfl
  clear_value vb
  exact State.condClears_sameSys (State.tickLatches_sameSys hvb)

theorem State.closeTick_tick {s₀ s : State} (h : SameTick s₀ s) (t : Nat) :
    SameTick s₀ (s.forCh allCh (fun s c => (s.closeFailed c t).olCount c)) :=
  .foldl _ (fun _ c k => State.olCount_tick (State.closeFailed_tick k c t) c) h

theorem State.closeTick_sameSys {s₀ s : State} (h : SameSys s₀ s) (t : Nat) :
    SameSys s₀ (s.forCh allCh (fun s c => (s.closeFailed c t).olCount c)) :=
  .foldl _ (fun _ c k => State.olCount_sameSys (State.closeFailed_sameSys k c t) c) h

theorem State.channelTick_clock (s : State) (t : Nat) (i : TickIn) : SameClock s (s.channelTick t i) := by
  unfold State.channelTick
  extract_lets closed changed
  have hclosed : SameClock s closed := (State.closeTick_tick (.refl s) t).clock
  clear_value closed
  have hchanged : SameClock s changed := hclosed.trans closed.changeMode_clock
  clear_value changed
  exact hchanged.trans (SameTick.foldl _ (fun _ c k => State.seqTick_tick k c _ _) (.refl changed)).clock

/-- Without a mode change under way the channels' tick keeps the settings and the registers of SYS. -/
theorem State.channelTick_none {s₀ s : State} (h : SameTick s₀ s) (k : SameSys s₀ s) (hnone : s₀.sys.trans = none)
    (t : Nat) (i : TickIn) : SameTick s₀ (s.channelTick t i) ∧ SameSys s₀ (s.channelTick t i) := by
  unfold State.channelTick
  extract_lets closed changed
  have hclosed : SameTick s₀ closed := State.closeTick_tick h t
  have hsys : SameSys s₀ closed := State.closeTick_sameSys k t
  clear_value closed
  have hsame : changed = closed := State.changeMode_none ((congrArg (·.2.2.2.1) hclosed.sys).trans hnone)
  rw [hsame]
  exact ⟨.foldl _ (fun _ c k => State.seqTick_tick k c _ _) hclosed, .foldl _ (fun _ c k => State.seqTick_sameSys k c _ _) hsys⟩

/-- The host's counters advance; of SYS nothing changes. -/
theorem State.hostClocks_spec (s : State) : s.hostClocks.sys = s.sys ∧ s.hostClocks.pins = s.pins ∧
    s.hostClocks.host.pollT = s.host.pollT + 1 ∧ SameSys s s.hostClocks := by
  unfold State.hostClocks
  extract_lets t host flt saf clocked
  have hclocked : SameSys s clocked := .of_regs (.refl s) rfl
  split
  · exact ⟨rfl, rfl, rfl, hclocked.wr _ _ (by decide)⟩
  · exact ⟨rfl, rfl, rfl, hclocked⟩

/-- What ages on the ring and in the metrology leaves the settings and the registers of SYS. -/
theorem State.ringAge_sameSys {s₀ s : State} (h : SameSys s₀ s) (t : Nat) (ls : Vector LineIn 2) :
    SameSys s₀ (s.ringAge t ls) := by
  have hlines : SameSys s₀ ((s.lineTick .a t (bget ls 0)).lineTick .b t (bget ls 1)) :=
    State.lineTick_sameSys (State.lineTick_sameSys h _ _ _) _ _ _
  unfold State.ringAge
  generalize (s.lineTick .a t (bget ls 0)).lineTick .b t (bget ls 1) = u at hlines
  have halign : SameSys s₀ u.alignTick := by
    unfold State.alignTick
    exact .ite (hlines.of_regs rfl) (hlines.of_regs rfl)
  exact halign.of_regs rfl

end Sys2Proof.Machine
end


section
/-!
SUPPORT. A tick boundary advances the tick (R29, R36, R421).
-/

namespace Sys2Proof.Machine

theorem State.tickEnded_clock (s : State) (i : TickIn) : SameClock s (s.tickEnded i) := by
  obtain ⟨hsys, hpins, -, -⟩ := ((s.tickMeasured i).channelTick s.now i).hostClocks_spec
  have hchannels : SameClock s ((s.tickMeasured i).channelTick s.now i) :=
    (s.tickMeasured_tick i).clock.trans (State.channelTick_clock _ _ _)
  refine (hchannels.trans ⟨by rw [hsys], hpins⟩).trans ?_
  exact (State.metClock_tick (State.ringAge_tick (.refl _) s.now i.line)).clock

theorem State.metClock_sameSys {s₀ s : State} (h : SameSys s₀ s) : SameSys s₀ s.metClock := h.of_regs rfl

/-- Without a mode change under way a tick ends with its mode and its settings, and the host's poll counted. -/
theorem State.tickEnded_none {s : State} (h : s.sys.trans = none) (i : TickIn) :
    (s.tickEnded i).sys.timed = s.sys.timed ∧ (s.tickEnded i).host.pollT = s.host.pollT + 1 ∧ SameSys s (s.tickEnded i) := by
  obtain ⟨hchannels, hregs⟩ := State.channelTick_none (s.tickMeasured_tick i) (s.tickMeasured_sameSys i) h s.now i
  obtain ⟨hsys, -, hpoll, hcounted⟩ := ((s.tickMeasured i).channelTick s.now i).hostClocks_spec
  have hages : SameTick _ (s.tickEnded i) := State.metClock_tick (State.ringAge_tick (.refl _) s.now i.line)
  refine ⟨hages.sys.trans ((congrArg SysS.timed hsys).trans hchannels.sys),
    hages.pollT.trans (hpoll.trans (congrArg (· + 1) hchannels.pollT)), ?_⟩
  exact State.metClock_sameSys (State.ringAge_sameSys (hregs.trans hcounted) s.now i.line)

/-- Written values whose fields lie above the page of SYS come into force beside it. -/
theorem State.commitList_sameSys {s₀ s : State} (h : SameSys s₀ s) (l : List (Fld × Nat))
    (hall : ∀ e ∈ l, 0x5000 * 32 ≤ e.1.key) : SameSys s₀ (l.foldl (fun s e => s.wr e.1 e.2) s) := by
  induction l generalizing s with
  | nil => exact h
  | cons e l ih =>
    refine ih (h.wr e.1 e.2 ?_) fun x hx => hall x (List.mem_cons_of_mem e hx)
    have hge := hall e List.mem_cons_self
    unfold Fld.page
    omega

/-- Setup that comes into force at a boundary is not of SYS. -/
theorem State.commitTick_sameSys (s : State) : SameSys s (s.commitIf lateTick) := by
  have hbase : SameSys s { s with written := s.written.filter (fun e => !lateTick e.1) } := .of_regs (.refl s) rfl
  exact State.commitList_sameSys hbase _ fun e he => lateKey (by rw [(List.mem_filter.1 he).2]; rfl)

/-- The tick advances by one, an announced boundary comes nearer, and without one `PPT` and `TLM_DIV` come into force. -/
theorem State.nextTick_spec (s : State) : s.nextTick.sys.tick = (s.sys.tick + 1) % 2 ^ 48 ∧ s.nextTick.pins = s.pins ∧
    s.nextTick.host.pollT = s.host.pollT ∧ s.nextTick.sys.perNew = s.sys.perNew.map (fun p => (p.1, p.2 - 1)) ∧
    s.nextTick.sys.mode = s.sys.mode ∧
    (s.sys.perNew = none → s.nextTick.sys.ppt = s.rd SYS_TICK.PPT ∧ s.nextTick.sys.tlm = s.rd SYS_TICK.TLM_DIV) := by
  obtain ⟨hsys, hpins, hpoll⟩ := State.commitIf_tick (.refl s) lateTick
  have hregs := s.commitTick_sameSys
  unfold State.nextTick
  generalize s.commitIf lateTick = u at hsys hpins hpoll hregs
  simp only [SysS.timed, Prod.mk.injEq] at hsys
  obtain ⟨htick, -, hmode, -, hper, -, -⟩ := hsys
  have hppt : u.rd SYS_TICK.PPT = s.rd SYS_TICK.PPT := hregs _ (by decide)
  have htlm : u.rd SYS_TICK.TLM_DIV = s.rd SYS_TICK.TLM_DIV := hregs _ (by decide)
  dsimp only
  rw [← htick, ← hpins, ← hpoll, ← hmode, ← hper, ← hppt, ← htlm]
  split
  next hnone => exact ⟨rfl, rfl, rfl, rfl, rfl, fun _ => ⟨rfl, rfl⟩⟩
  next hsome => exact ⟨rfl, rfl, rfl, rfl, rfl, fun hnone => absurd (by rw [hnone]; rfl) hsome⟩

/-- What begins with a tick leaves its number, the mode and the settings. -/
theorem State.tickBegun_tick (s : State) (t : Nat) (i : TickIn) : SameTick s (s.tickBegun t i) := by
  unfold State.tickBegun
  extract_lets formed ranged traced moved out
  have hformed : SameTick s formed := State.setpointTick_tick (State.balance_tick (.refl s))
  clear_value formed
  have hranged : SameTick s ranged := .foldl _ (fun _ c k => State.rangeTick_tick (State.exclEnd_tick k c) c) hformed
  clear_value ranged
  have htraced : SameTick s traced := .foldl _ (fun _ q k => State.traceTick_tick k q t) hranged
  clear_value traced
  have hmoved : SameTick s moved :=
    State.endInject_tick (State.chopperConds_tick (State.motTick_tick (State.ringTick_tick htraced) i.force))
  clear_value moved
  exact State.admScan_tick (.ite (State.emit_tick hmoved .tickOut) hmoved)

/-- A tick boundary of a device that does not idle. -/
theorem tickBoundary_spec {s : State} (h : s.idle = false) (i : TickIn) : s.ends (.tickBoundary i) (fun t =>
    t.sys.tick = (s.sys.tick + 1) % 2 ^ 48 ∧ t.pins = s.pins ∧ t.pending = s.pending ∧
    (s.sys.trans = none → t.sys.held = none → t.sys.mode = s.sys.mode → t.host.pollT = s.host.pollT + 1 ∧
      t.sys.perNew = s.sys.perNew.map (fun p => (p.1, p.2 - 1)) ∧
      (s.sys.perNew = none → t.sys.ppt = s.rd SYS_TICK.PPT ∧ t.sys.tlm = s.rd SYS_TICK.TLM_DIV))) := by
  have hexec : exec (.tickBoundary i) s = .next ((s.tickEnded i).nextTick.tickBegun s.now i) := execTickBoundary_eq h i
  obtain ⟨u, hu, hkeeps⟩ := exec_completes (.tickBoundary i) s
  have hpending : ((s.tickEnded i).nextTick.tickBegun s.now i).pending = s.pending := by
    have heq : u = _ := Host.Outcome.next.inj (hu.symm.trans (execTickBoundary_eq h i))
    rw [← heq]
    exact hkeeps.pending
  obtain ⟨hclock, hpins⟩ := s.tickEnded_clock i
  obtain ⟨hntick, hnpins, hnpoll, hnper, -, hnset⟩ := (s.tickEnded i).nextTick_spec
  obtain ⟨hbsys, hbpins, hbpoll⟩ := (s.tickEnded i).nextTick.tickBegun_tick s.now i
  simp only [SysS.timed, Prod.mk.injEq] at hbsys
  obtain ⟨hbtick, -, -, -, hbper, hbppt, hbtlm⟩ := hbsys
  refine ⟨_, hexec, by rw [hbtick, hntick, hclock], by rw [hbpins, hnpins, hpins], hpending, fun htrans _ _ => ?_⟩
  obtain ⟨hesys, hepoll, heregs⟩ := State.tickEnded_none htrans i
  simp only [SysS.timed, Prod.mk.injEq] at hesys
  obtain ⟨-, -, -, -, heper, -, -⟩ := hesys
  refine ⟨by rw [hbpoll, hnpoll, hepoll], by rw [hbper, hnper, heper], fun hnone => ?_⟩
  obtain ⟨hppt, htlm⟩ := hnset (heper.trans hnone)
  exact ⟨by rw [hbppt, hppt]; exact heregs _ (by decide), by rw [hbtlm, htlm]; exact heregs _ (by decide)⟩

end Sys2Proof.Machine
end


section
/-!
SUPPORT. A change of the tick's period (R36, R37, R492): it takes effect, or nothing of it is left.
-/

namespace Sys2Proof.Machine

/-! ### The period switches -/

/-- Written setup of MET, MOT and the channels' metrology is not of SYS. -/
theorem State.commitLate_sameSys (s : State) : SameSys s (s.commitIf (fun f => lateTick f || lateMot f)) := by
  have hbase : SameSys s { s with written := s.written.filter (fun e => !(lateTick e.1 || lateMot e.1)) } :=
    .of_regs (.refl s) rfl
  exact State.commitList_sameSys hbase _ fun e he => lateKey (List.mem_filter.1 he).2

/-- What a switch to `per` has made of the settings, `s` being the state before. -/
structure Switched (s t : State) (per : Nat) : Prop where
  inforce : t.rd SYS_TICKSTAT.INFORCE = per % 2 ^ 12
  perNew : t.sys.perNew = none
  ppt : t.sys.ppt = s.rd SYS_TICK.PPT
  tlm : t.sys.tlm = s.rd SYS_TICK.TLM_DIV
  only : s.only t [.regs, .written, .sys, .met, .qd]

theorem Switched.wr {s t : State} {per : Nat} (h : Switched s t per) (f : Fld) (v : Nat)
    (hf : f.key ≠ SYS_TICKSTAT.INFORCE.key) : Switched s (t.wr f v) per :=
  ⟨(State.rd_wr_other t v hf).trans h.inforce, h.perNew, h.ppt, h.tlm, State.wr_only h.only f v (by decide)⟩

theorem Switched.ite {s t u : State} {per : Nat} {p : Prop} [Decidable p] (h : Switched s t per) (k : Switched s u per) :
    Switched s (if p then t else u) per := by
  split
  · exact h
  · exact k

theorem State.metPeriod_only (s : State) (per : Nat) : s.only (s.metPeriod per) [.regs, .met] := by
  unfold State.metPeriod
  extract_lets d odr met
  have hodr : s.only odr [.regs, .met] :=
    State.only_ite (State.only_refl _ _) (State.wr_only (State.only_refl _ _) _ _ (by decide))
  exact State.only_mk hodr (h_met := .inr (by decide))

theorem State.metPeriod_sameSys {s₀ s : State} (h : SameSys s₀ s) (per : Nat) : SameSys s₀ (s.metPeriod per) := by
  unfold State.metPeriod
  extract_lets d odr met
  have hodr : SameSys s₀ odr := .ite h (h.wr _ _ (by decide))
  exact hodr.of_regs rfl

/-- The period switches with the working copies of `SYS_TICK`. -/
theorem State.switchPeriod_switched (s : State) (per : Nat) : Switched s (s.switchPeriod per) per := by
  unfold State.switchPeriod
  extract_lets late forced sys set div n ntick
  have hlate : SameSys s late := s.commitLate_sameSys
  have hlonly : s.only late [.regs, .written] := s.commitIf_only _
  clear_value late
  have hforced : SameSys (late.wr SYS_TICKSTAT.INFORCE per) forced := State.metPeriod_sameSys (.refl _) per
  have hfonly : s.only forced [.regs, .written, .sys, .met, .qd] :=
    State.only_trans (State.wr_only (State.only_mono hlonly (by decide)) _ _ (by decide))
      (State.only_mono (State.metPeriod_only _ per) (by decide))
  clear_value forced
  have hinforce : forced.rd SYS_TICKSTAT.INFORCE = per % 2 ^ 12 :=
    (hforced _ (by decide)).trans (State.rd_wr_same _ _ _)
  have hkept {f : Fld} (hpage : f.page = 0) (hkey : SYS_TICKSTAT.INFORCE.key ≠ f.key) : forced.rd f = s.rd f :=
    (hforced f hpage).trans ((State.rd_wr_other late per hkey).trans (hlate f hpage))
  have hset : Switched s set per := ⟨hinforce, rfl, hkept (by decide) (by decide), hkept (by decide) (by decide),
    State.only_mk hfonly (h_sys := .inr (by decide))⟩
  clear_value set
  have hdiv : Switched s div per := .ite hset (hset.wr MOT_ENC.DIV _ (by decide))
  clear_value div
  have hntick : Switched s ntick per := .ite hdiv (hdiv.wr MOT_CFG.NTICK _ (by decide))
  clear_value ntick
  refine RangeWalk.foldl (Q := fun t => Switched s t per) _ (fun t _ h => ?_) hntick
  exact ⟨h.inforce, h.perNew, h.ppt, h.tlm, State.only_mk h.only (h_qd := .inr (by decide))⟩

/-- The announced boundary has come. -/
theorem tickPeriodSwitch_due {s : State} {per : Nat} (h : s.sys.perNew = some (per, 0)) :
    exec .tickPeriodSwitch s = .next (if s.isHead then
    (if s.sys.mode = .standby ∧ s.ringStandby ∧ s.admits per then (s.switchPeriod per).layRegions else s.withdraw)
    else if s.sys.mode = .standby then s.switchPeriod per else { s with sys := { s.sys with perNew := none } }) := by
  show execTickPeriodSwitch s = _
  unfold execTickPeriodSwitch
  rw [h]
  rfl

/-- A member's or a head's switch: the head lays out its regions anew. -/
theorem tickPeriodSwitch_switches {s : State} {p : Nat × Nat} (hper : s.sys.perNew = some p) (hdue : p.2 = 0)
    (hmode : s.sys.mode = .standby) (hhead : s.isHead = true → s.ringStandby = true ∧ s.admits p.1 = true) :
    s.ends .tickPeriodSwitch (fun t => t.look SYS_TICKSTAT.INFORCE = p.1 % 2 ^ 12 ∧ t.sys.perNew = none ∧
      t.sys.ppt = s.rd SYS_TICK.PPT ∧ t.sys.tlm = s.rd SYS_TICK.TLM_DIV ∧
      s.only t [.regs, .written, .sys, .met, .qd, .ring] ∧ (s.isHead = false → t.ring = s.ring)) := by
  obtain ⟨per, n⟩ := p
  obtain rfl : n = 0 := hdue
  obtain ⟨hinforce, hnone, hppt, htlm, honly⟩ := s.switchPeriod_switched per
  have hlook {t : State} (h : t.rd SYS_TICKSTAT.INFORCE = per % 2 ^ 12) : t.look SYS_TICKSTAT.INFORCE = per % 2 ^ 12 := by
    rw [State.look_eq_rd _ _ (by decide) (by decide) rfl (by decide)]
    exact h
  have hexec := tickPeriodSwitch_due hper
  cases hrole : s.isHead with
  | true =>
    rw [if_pos hrole, if_pos ⟨hmode, hhead hrole⟩] at hexec
    have hlaid : (s.switchPeriod per).only (s.switchPeriod per).layRegions [.ring] := by
      unfold State.layRegions
      exact State.only_ite (State.only_mk (State.only_refl _ _) (h_ring := .inr (by decide))) (State.only_refl _ _)
    have hsys := hlaid.2 .sys (by decide)
    refine ⟨_, hexec, hlook ((congrArg (fun r : RegFile => r.get _) (hlaid.2 .regs (by decide))).trans hinforce), ?_, ?_, ?_, ?_, nofun⟩
    · rw [hsys, hnone]
    · rw [hsys, hppt]
    · rw [hsys, htlm]
    · exact State.only_trans (State.only_mono honly (by decide)) (State.only_mono hlaid (by decide))
  | false =>
    rw [if_neg (by rw [hrole]; exact Bool.false_ne_true), if_pos hmode] at hexec
    exact ⟨_, hexec, hlook hinforce, hnone, hppt, htlm, State.only_mono honly (by decide), fun _ => honly.2 .ring (by decide)⟩

/-! ### A change is withdrawn -/

/-- Nothing of a withdrawn change is left. -/
theorem State.withdraw_spec (s : State) : s.withdraw.sys.perNew = none ∧
    s.withdraw.rd SYS_TICK.PERIOD = s.per % 2 ^ SYS_TICK.PERIOD.w ∧
    s.withdraw.rd SYS_TICK.PPT = s.sys.ppt % 2 ^ SYS_TICK.PPT.w ∧
    s.withdraw.rd SYS_TICK.TLM_DIV = s.sys.tlm % 2 ^ SYS_TICK.TLM_DIV.w ∧
    s.only s.withdraw [.sys, .regs] ∧ s.regsBut s.withdraw [SYS_TICK.PERIOD, SYS_TICK.PPT, SYS_TICK.TLM_DIV] := by
  unfold State.withdraw
  refine ⟨rfl, ?_, ?_, State.rd_wr_same _ _ _, ?_, ?_⟩
  · rw [State.rd_wr_other _ _ (by decide), State.rd_wr_other _ _ (by decide), State.rd_wr_same]
  · rw [State.rd_wr_other _ _ (by decide), State.rd_wr_same]
  · exact State.wr_only (State.wr_only (State.wr_only (State.only_mk (State.only_refl _ _) (h_sys := .inr (by decide)))
      _ _ (by decide)) _ _ (by decide)) _ _ (by decide)
  · exact State.regsBut_wr (State.regsBut_wr (State.regsBut_wr (State.regsBut_of_regs rfl _) (by simp) _) (by simp) _)
      (by simp) _

/-- A switch that does not take effect. -/
theorem tickPeriodSwitch_fails {s : State} {p : Nat × Nat} (hper : s.sys.perNew = some p) (hdue : p.2 = 0)
    (hbad : s.sys.mode ≠ .standby ∨ (s.isHead = true ∧ (s.ringStandby = false ∨ s.admits p.1 = false))) :
    s.ends .tickPeriodSwitch (fun t => t.per = s.per ∧ t.sys.perNew = none ∧ s.only t [.sys, .regs] ∧
      (s.isHead = true → t = s.withdraw)) := by
  obtain ⟨per, n⟩ := p
  obtain rfl : n = 0 := hdue
  obtain ⟨hnone, -, -, -, honly, hbut⟩ := s.withdraw_spec
  have hexec := tickPeriodSwitch_due hper
  cases hrole : s.isHead with
  | true =>
    rw [if_pos hrole, if_neg ?_] at hexec
    · exact ⟨_, hexec, hbut _ (by decide), hnone, honly, fun _ => rfl⟩
    · rintro ⟨hmode, hring, hadmits⟩
      rcases hbad with hbad | ⟨-, hbad | hbad⟩
      · exact hbad hmode
      · exact absurd (hring.symm.trans hbad) (by decide)
      · exact absurd (hadmits.symm.trans hbad) (by decide)
  | false =>
    have hmode : s.sys.mode ≠ .standby := hbad.resolve_right fun h => absurd (h.1.symm.trans hrole) (by decide)
    rw [if_neg (by rw [hrole]; exact Bool.false_ne_true), if_neg hmode] at hexec
    exact ⟨_, hexec, rfl, rfl, State.only_mk (State.only_refl _ _) (h_sys := .inr (by decide)), nofun⟩

/-! ### The reference and the Pennants of a member (R61, R62, R67, R68) -/

theorem refSwitch_spec {s : State} (hrole : s.role = 0) (hidle : s.idle = false) (hxtal : s.rb SYS_CLK.XTAL = false) :
    s.ends .refSwitch (fun t => t.sys.holdover = some s.clk ∧ t.rd SYS_CLK.REF = 3 ∧ t.rd SYS_CLKERR.REF_SWITCH = 1 ∧
      s.only t [.sys, .regs] ∧ s.regsBut t [SYS_CLK.REF, SYS_CLKERR.REF_SWITCH]) := by
  have hexec : exec .refSwitch s =
      .next ({ s with sys := { s.sys with holdover := some s.clk } }.wr SYS_CLK.REF 3 |>.wr SYS_CLKERR.REF_SWITCH 1) := by
    show execRefSwitch s = _
    unfold execRefSwitch
    rw [if_pos ⟨hrole, by rw [hxtal]; rfl, by rw [hidle]; rfl⟩]
  refine ⟨_, hexec, rfl, ?_, State.rd_wr_same _ _ _, ?_, ?_⟩
  · rw [State.rd_wr_other _ _ (by decide), State.rd_wr_same]
    rfl
  · exact State.wr_only (State.wr_only (State.only_mk (State.only_refl _ _) (h_sys := .inr (by decide)))
      _ _ (by decide)) _ _ (by decide)
  · exact State.regsBut_wr (State.regsBut_wr (State.regsBut_of_regs rfl _) (by simp) _) (by simp) _

theorem clkLost_spec {s : State} {h : Nat} (hhold : s.sys.holdover = some h) (hold : h + 8 ≤ s.clk) (hq : s.quiet 41) :
    s.ends .clkLost (fun t => t.rd SYS_CLKERR.CLK_LOST = 1 ∧ (t.src 41).cond ≠ 0 ∧ t.active 41 = true) := by
  have hexec : exec .clkLost s = .next ((s.wr SYS_CLKERR.CLK_LOST 1).raiseDev 41) := by
    show execClkLost s = _
    unfold execClkLost
    rw [hhold]
    exact congrArg _ (if_pos hold)
  have hq' : (s.wr SYS_CLKERR.CLK_LOST 1).quiet 41 := hq
  refine ⟨_, hexec, ?_, State.raiseAs_cond_ne 0 _ hq' (by decide), State.raiseDev_active hq' (by decide)⟩
  exact ((Reacted.raiseAs (.refl _) 41 0 _ hq').regs _ (by decide)).trans (State.rd_wr_same _ _ _)

theorem tickAlign_spec {s : State} (hmode : s.sys.mode = .run) (hbad : 4 ≤ s.sys.alignBad) (hq : s.quiet 42) :
    s.ends .tickAlign (fun t => t.rd RING_ERR.TICK_ALIGN = 1 ∧ t.active 42 = true) := by
  have hexec : exec .tickAlign s = .next ((s.wr RING_ERR.TICK_ALIGN 1).raiseDev 42) := by
    show execTickAlign s = _
    unfold execTickAlign
    rw [if_pos ⟨hmode, hbad⟩]
  have hq' : (s.wr RING_ERR.TICK_ALIGN 1).quiet 42 := hq
  refine ⟨_, hexec, ?_, State.raiseDev_active hq' (by decide)⟩
  exact ((Reacted.raiseAs (.refl _) 42 0 _ hq').regs _ (by decide)).trans (State.rd_wr_same _ _ _)

end Sys2Proof.Machine
end

section
/-! The keeping of the tick (O39). -/

open Sys2Proof Sys2Proof.Machine

/-- Settles O39: a boundary is followed operation by operation, none of which touches the tick or what is set for it; the
other commands are stated apart. -/
theorem tickKeeping : Obligations.TickKeeping := by
  refine ⟨fun s i => ⟨fun hidle => ?_, fun hidle => tickBoundary_spec hidle i⟩, fun s => ?_⟩
  · show execTickBoundary i s = _
    unfold execTickBoundary
    rw [if_pos hidle]
  · refine ⟨fun p hper hdue => ⟨fun hmode hhead => tickPeriodSwitch_switches hper hdue hmode hhead, fun hbad => ?_⟩,
      fun hhead hsome => ?_, fun hrole hidle => ⟨fun hxtal => refSwitch_spec hrole hidle hxtal, ?_⟩,
      fun h hhold hold hq => clkLost_spec hhold hold hq, fun hmode hbad hq => tickAlign_spec hmode hbad hq⟩
    · obtain ⟨t, hexec, hperiod, hnone, honly, hwith⟩ := tickPeriodSwitch_fails hper hdue hbad
      exact ⟨t, hexec, hperiod, hnone, honly, fun hhead => by rw [hwith hhead]; exact s.withdraw_spec⟩
    · refine ⟨s.withdraw, ?_, s.withdraw_spec⟩
      show execTickChangeWithdraw s = _
      unfold execTickChangeWithdraw
      rw [if_pos ⟨hhead, hsome⟩]
    · refine ⟨{ s with sys := { s.sys with missedP := s.sys.missedP + 1 } }, ?_, rfl, rfl,
        State.only_mk (State.only_refl _ _) (h_sys := .inr (by decide))⟩
      show execPennantMissed s = _
      unfold execPennantMissed
      rw [if_pos ⟨hrole, by rw [hidle]; rfl⟩]

end


section
/-!
SUPPORT. The gangs fit together (R189, R190, R196, R384) whatever forms, dissolves and resets: a walk of its own.
-/

namespace Sys2Proof.Machine

/-! ### A gang dissolves -/

theorem State.members_nodup (s : State) (c : Ch) : (s.members c).Nodup := by
  have hquad : (quadChs (quadOf c)).Nodup ∧ [c, Fin.ofNat 16 (c.val + 1)].Nodup ∧ [c].Nodup := by
    revert c
    decide
  obtain ⟨h4, h2, h1⟩ := hquad
  unfold State.members
  split
  · exact h4
  · split
    · exact h2
    · exact h1

/-- A channel without a leader is its own. -/
theorem State.leader_of_none {s : State} {c : Ch} (h : (s.seq c).lead = none) : s.leader c = c := by
  unfold State.leader
  rw [h]
  rfl

/-- A channel of which gangs say nothing is alone. -/
theorem State.members_of_one {s : State} {c : Ch} (h : (s.seq c).size = 1) : s.members c = [c] := by
  unfold State.members
  rw [h, if_neg (by decide), if_neg (by decide)]

theorem State.leader_congr {s t : State} {d : Ch} (h : (t.seq d).lead = (s.seq d).lead) : t.leader d = s.leader d := by
  unfold State.leader
  rw [h]

theorem State.members_congr {s t : State} {d : Ch} (h : (t.seq d).size = (s.seq d).size) : t.members d = s.members d := by
  unfold State.members
  rw [h]

/-- A channel alone fits. -/
theorem State.fits_alone {s : State} {c : Ch} (hlead : (s.seq c).lead = none) (hsize : (s.seq c).size = 1) :
    (s.seq (s.leader c)).lead = none ∧ c ∈ s.members (s.leader c) ∧
      ((s.seq c).lead = none → ∀ m ∈ s.members c, s.leader m = c) ∧ ((s.seq c).lead ≠ none → (s.seq c).size = 1) ∧
      ((s.seq c).size = 1 ∨ (s.seq c).size = 2 ∨ (s.seq c).size = 4) ∧ c.val % (s.seq c).size = 0 := by
  rw [State.leader_of_none hlead, State.members_of_one hsize, hsize]
  refine ⟨hlead, List.mem_singleton_self c, fun _ m hm => ?_, fun _ => rfl, .inl rfl, Nat.mod_one _⟩
  rw [List.mem_singleton.1 hm, State.leader_of_none hlead]

/-- Where some channels, whole gangs of `s` together, stand anew and fit, the others fit as before. -/
theorem State.gangsOk_of_part {s t : State} (hg : s.gangsOk) (l : List Ch) (hclosed : ∀ d, s.leader d ∈ l → d ∈ l)
    (hrest : ∀ d, d ∉ l → (t.seq d).lead = (s.seq d).lead ∧ (t.seq d).size = (s.seq d).size)
    (hpart : ∀ d ∈ l, (t.seq (t.leader d)).lead = none ∧ d ∈ t.members (t.leader d) ∧
      ((t.seq d).lead = none → ∀ m ∈ t.members d, t.leader m = d) ∧ ((t.seq d).lead ≠ none → (t.seq d).size = 1) ∧
      ((t.seq d).size = 1 ∨ (t.seq d).size = 2 ∨ (t.seq d).size = 4) ∧ d.val % (t.seq d).size = 0)
    (hout : ∀ d, d ∉ l → (s.seq d).lead = none → ∀ m ∈ s.members d, m ∉ l) : t.gangsOk := by
  intro d
  by_cases hd : d ∈ l
  · exact hpart d hd
  · obtain ⟨hlead, hmem, hname, hsize, hsizes, hmod⟩ := hg d
    have hl : s.leader d ∉ l := fun h => hd (hclosed d h)
    rw [State.leader_congr (hrest d hd).1, (hrest d hd).1, (hrest d hd).2, (hrest _ hl).1,
      State.members_congr (hrest _ hl).2, State.members_congr (hrest d hd).2]
    refine ⟨hlead, hmem, fun hnone m hm => ?_, hsize, hsizes, hmod⟩
    rw [State.leader_congr (hrest m (hout d hd hnone m hm)).1]
    exact hname hnone m hm

theorem State.gangsOk_dissolve {s : State} (hg : s.gangsOk) (c : Ch) : (s.dissolve c).gangsOk := by
  unfold State.dissolve
  split
  · exact hg
  next hlead =>
  have hnone : (s.seq c).lead = none := by simpa using hlead
  obtain ⟨-, hown, hname, -⟩ := hg c
  rw [State.leader_of_none hnone] at hown
  have hseq (d : Ch) := State.seq_forCh_updSeq s (fun x => { x with size := 1, lead := none }) _ (s.members_nodup c) d
  generalize s.forCh (s.members c) _ = t at hseq
  refine State.gangsOk_of_part hg (s.members c) (fun d hd => ?_) (fun d hd => by rw [hseq, if_neg hd]; exact ⟨rfl, rfl⟩)
    (fun d hd => ?_)
    (fun d hd hdnone m hm hin => ?_)
  · obtain ⟨hdlead, hdmem, -⟩ := hg d
    have hsame : s.leader d = c := (State.leader_of_none hdlead).symm.trans (hname hnone _ hd)
    rwa [hsame] at hdmem
  · exact State.fits_alone (by rw [hseq, if_pos hd]) (by rw [hseq, if_pos hd])
  · obtain ⟨-, -, hdname, -⟩ := hg d
    have hsame : d = c := (hdname hdnone m hm).symm.trans (hname hnone m hin)
    exact hd (hsame ▸ hown)

/-! ### A gang forms -/

theorem gangOf_nodup (c : Ch) (n : Nat) : (gangOf c n).Nodup := by
  have hquad : (quadChs (quadOf c)).Nodup ∧ [c, Fin.ofNat 16 (c.val + 1)].Nodup ∧ [c].Nodup := by
    revert c
    decide
  obtain ⟨h4, h2, h1⟩ := hquad
  unfold gangOf
  split
  · exact h4
  · split
    · exact h2
    · exact h1

theorem mem_gangOf_self (c : Ch) (n : Nat) : c ∈ gangOf c n := by
  have hquad : c ∈ quadChs (quadOf c) := by
    revert c
    decide
  unfold gangOf
  split
  · exact hquad
  · split
    · exact List.mem_cons_self
    · exact List.mem_cons_self

/-- The leads and sizes after a gang has formed. -/
theorem State.gangForm_leads (s : State) (c : Ch) (n : Nat) (d : Ch) :
    ((s.gangForm c n).seq d).lead = (if d ∈ gangOf c n ∧ d ≠ c then some c else (s.seq d).lead) ∧
      ((s.gangForm c n).seq d).size = (if d = c then n else (s.seq d).size) := by
  unfold State.gangForm
  extract_lets ms opened sized
  have hopened : Reacted s opened := .foldl _ (fun _ m k => .ite (k.stagedOpen m) k) (.refl s)
  have hmem : d ∈ ms ↔ d ∈ gangOf c n ∧ d ≠ c := by simp [ms]
  have hseq := State.seq_forCh_updSeq sized
    (fun x => { x with st := .member, why := 0, lead := some c, armed := none, resume := false }) ms
    ((gangOf_nodup c n).filter _) d
  have hsized : (sized.seq d).lead = (s.seq d).lead ∧ (sized.seq d).size = if d = c then n else (s.seq d).size := by
    obtain ⟨hlead, hsize⟩ : (opened.seq d).lead = (s.seq d).lead ∧ (opened.seq d).size = (s.seq d).size :=
      ⟨(hopened.chan d).lead, (hopened.chan d).size⟩
    unfold sized
    clear_value opened
    by_cases hd : d = c
    · subst hd
      rw [State.seq_updSeq_same, if_pos rfl]
      exact ⟨hlead, rfl⟩
    · rw [State.seq_updSeq_other _ _ (Ne.symm hd), if_neg hd]
      exact ⟨hlead, hsize⟩
  clear_value sized
  rw [hseq]
  by_cases hd : d ∈ ms
  · rw [if_pos hd, if_pos (hmem.1 hd)]
    exact ⟨rfl, hsized.2⟩
  · rw [if_neg hd, if_neg (fun h => hd (hmem.2 h))]
    exact hsized

/-- What a gang that may form finds: every channel of it stands alone. -/
theorem State.gangMay_spec {s : State} {c : Ch} {d : StepDesc} {n : Nat} (h : s.gangMay c d n = true) :
    (n = 2 ∨ n = 4) ∧ c.val % n = 0 ∧ ∀ m ∈ gangOf c n, (s.seq m).lead = none ∧ (s.seq m).size = 1 := by
  unfold State.gangMay at h
  simp only [Bool.and_eq_true, decide_eq_true_eq, List.all_eq_true, Bool.or_eq_true] at h
  obtain ⟨⟨⟨⟨⟨⟨hn, hmod⟩, hsize⟩, hlead⟩, hfree⟩, -⟩, -⟩ := h
  refine ⟨hn, hmod, fun m hm => ?_⟩
  rcases hfree m hm with rfl | ⟨⟨-, hmlead⟩, hmsize⟩
  · exact ⟨Option.isNone_iff_eq_none.1 hlead, hsize⟩
  · exact ⟨Option.isNone_iff_eq_none.1 hmlead, hmsize⟩

theorem State.gangsOk_gangForm {s : State} (hg : s.gangsOk) {c : Ch} {d : StepDesc} {n : Nat}
    (hmay : s.gangMay c d n = true) : (s.gangForm c n).gangsOk := by
  obtain ⟨hn, hmod, halone⟩ := State.gangMay_spec hmay
  have hleads := s.gangForm_leads c n
  generalize s.gangForm c n = t at hleads
  have hclead : (t.seq c).lead = none := by
    rw [(hleads c).1, if_neg (fun h => h.2 rfl)]
    exact (halone c (mem_gangOf_self c n)).1
  have hcsize : (t.seq c).size = n := by rw [(hleads c).2, if_pos rfl]
  have hmembers : t.members c = gangOf c n := by rw [← hcsize]; rfl
  have hleader {m : Ch} (hm : m ∈ gangOf c n) : t.leader m = c := by
    by_cases hmc : m = c
    · rw [hmc, State.leader_of_none hclead]
    · unfold State.leader
      rw [(hleads m).1, if_pos ⟨hm, hmc⟩]
      rfl
  have hsolo {m : Ch} (hm : m ∈ gangOf c n) : s.members m = [m] := State.members_of_one (halone m hm).2
  refine State.gangsOk_of_part hg (gangOf c n) (fun e he => ?_) (fun e he => ?_) (fun e he => ?_) (fun e he henone m hm hin => ?_)
  · obtain ⟨-, hemem, -⟩ := hg e
    rw [hsolo he, List.mem_singleton] at hemem
    rwa [hemem]
  · have hec : e ≠ c := by
      rintro rfl
      exact he (mem_gangOf_self e n)
    rw [(hleads e).1, (hleads e).2, if_neg (fun h => he h.1), if_neg hec]
    exact ⟨rfl, rfl⟩
  · rw [hleader he, hmembers]
    refine ⟨hclead, he, fun henone m hm => ?_, fun hesome => ?_, ?_⟩
    · have hec : e = c := by
        by_contra hec
        rw [(hleads e).1, if_pos ⟨he, hec⟩] at henone
        exact nomatch henone
      rw [hec] at hm ⊢
      rw [hmembers] at hm
      exact hleader hm
    · have hec : e ≠ c := fun hec => hesome (hec ▸ hclead)
      rw [(hleads e).2, if_neg hec]
      exact (halone e he).2
    · by_cases hec : e = c
      · rw [hec, hcsize]
        exact ⟨.inr hn, hmod⟩
      · rw [(hleads e).2, if_neg hec, (halone e he).2]
        exact ⟨.inl rfl, Nat.mod_one _⟩
  · obtain ⟨-, -, hename, -⟩ := hg e
    have hsame : m = e := (State.leader_of_none (halone m hin).1).symm.trans (hename henone m hm)
    exact he (hsame ▸ hin)

/-! ### A full reset -/

theorem Chan.afterReset_seq (k : RstKind) (x : Chan) : (Chan.afterReset k x).seq = ChanS.reset := by
  unfold Chan.afterReset
  split <;> rfl

theorem State.gangsOk_fullReset {s : State} (hg : s.gangsOk) (k : RstKind) (cause wake : Nat) (cut : Bool) :
    (s.fullReset k cause wake cut).gangsOk := by
  rcases s.fullReset_cases k cause wake cut with hsame | hdone
  · rwa [hsame]
  · obtain ⟨v, hch⟩ := hdone.ch
    have hseq (d : Ch) : ((s.fullReset k cause wake cut).seq d) = ChanS.reset := by
      unfold State.seq State.chan
      rw [hch]
      simp [bget, bmap, Chan.afterReset_seq]
    intro d
    exact State.fits_alone (by rw [hseq]; rfl) (by rw [hseq]; rfl)

/-! ### Every step -/

/-- The gangs fit together after every operation. -/
def gangsWalk : Walk where
  prop := State.gangsOk
  frame h _ _ _ hleads := State.gangsOk_of_leads hleads h
  wr h _ _ := State.gangsOk_of_ch rfl h
  filter h _ := State.gangsOk_of_ch rfl h
  sec h _ _ _ _ := State.gangsOk_of_ch rfl h
  gangForm h _ _ _ hmay := State.gangsOk_gangForm h hmay
  dissolve h c := State.gangsOk_dissolve h c
  fullReset h k cause wake cut := State.gangsOk_fullReset h k cause wake cut

end Sys2Proof.Machine
end

section
open Sys2Proof Sys2Proof.Machine

/-- Settles O6: every operation keeps the gangs (`gangsWalk`), so every command does; the queue is no part of them. -/
theorem stepKeepsGangs : Obligations.StepKeepsGangs := by
  unfold Obligations.StepKeepsGangs
  intro s t hg hstep
  unfold step at hstep
  split at hstep
  · cases hstep
    exact hg
  next c rest _ =>
    exact Walk.On.exec (w := gangsWalk) (State.gangsOk_of_ch (t := { s with pending := rest }) rfl hg) hstep

end

end
